-- ==== Sys2Proof/Word.lean ====
section
/-! DEFINITION. The words of the block: a byte, a 32-bit register or count, a 64-bit register, address or local
time, and a 128-bit command word (Queues and doorbells, R150; Registers, R380). -/

namespace Sys2Proof

/-- One byte of device memory, of a record or of a message (R7). -/
abbrev Byte := BitVec 8

/-- A 16-bit quantity: a domain epoch (Table 13-2) or a Rhizome tag. -/
abbrev Half := BitVec 16

/-- A 32-bit register, running count or handle (R151, Table 0-5). -/
abbrev Word := BitVec 32

/-- A 64-bit register, device address or local time (R63, R182). -/
abbrev DWord := BitVec 64

/-- A command word or a Puchlink slot (R160, Table 15-4). -/
abbrev QWord := BitVec 128

end Sys2Proof
end

