-- ==== Sys2Proof/Syntax.lean ====
section
/-! DEFINITION. The commands of the block: one constructor per row of the table of operations and events.
Every operand is plain data. `ctx` is a context index, `q` a queue number, `idx` the queue count of a command,
`addr` a device address, `arr` an array number 512 × group + 128 × quadrant + a, `quad` a quadrant 4 × group + q. -/

namespace Sys2Proof

/-- What an ECC error was met in (R92, R194): a row-store half or an accumulator slot of the array, or a granule of a partition's share of
the scratchpad of its base die. -/
inductive EccPlace where
  | half (h : Nat)
  | slot (k : Nat)
  | scratch (ptn granule : Nat)
  deriving DecidableEq, Repr

/-- The arbiters that record starvation (R204, R254): an HBM port, a DMA engine, a Sorus port, a Rhizome link. -/
inductive Arbiter where
  | hbm (pc : Nat)
  | dma (engine : Nat)
  | sorus (slice : Nat) (read : Bool)
  | rz (link : Nat) (high : Bool) (escape : Bool)
  deriving DecidableEq, Repr

/-- How an HBM error is met (R206): uncorrectable on a cache fill, by the copier or by a scrub read, or corrected. -/
inductive UeSource where
  | corrected
  | fill
  | copier
  | scrub
  deriving DecidableEq, Repr

/-- One sampled time source of a correlation round (R64, R65): the source id and the sampling uncertainty in ns. -/
structure TimeSample where
  source : Nat
  uncert : Nat
  deriving DecidableEq, Repr

/-- What a self-test or calibration procedure measured (Table 14-4). -/
structure ProcResult where
  failed : Bool
  complete : Bool
  duration : Nat
  failures : Nat
  margin : Nat
  mask : Nat
  deriving DecidableEq, Repr

/-- The HELLO a group member sends its master (R291). -/
structure HelloMsg where
  member : Nat
  groupId : Nat
  gen : Nat
  crc : Nat
  protoMax : Nat
  report : List Byte
  term : Nat := 0
  deriving DecidableEq, Repr

/-- What a control message of a group says, with the TERM that every one of them carries (R299). -/
structure InTerm (α : Type) where
  val : α
  term : Nat
  deriving DecidableEq, Repr

/-- What a member learns from its master of the roster (R301, R333): a member is lost and, if one is named, another takes its place;
the group halts; every member restores its checkpoint of a STEP. -/
inductive GroupNotice where
  | lost (member : Nat) (heir : Option Nat)
  | halts
  | restore (step : Nat)
  deriving DecidableEq, Repr

/-- A step-start record (R296). The spec does not say by which message a member learns of a change of the roster: `notices` are those
that travel with the record (DESIGN CHOICE, log entry 178). -/
structure StepRecord where
  step : Word
  term : Nat
  gen : Nat
  decision : Nat
  seed : DWord
  lrH : Nat
  cursors : List DWord
  notices : List GroupNotice := []
  deriving DecidableEq, Repr

/-- The MIRROR_HELLO a checkpoint controller sends a candidate (R326). `force` says that the source marks the candidate
FORCE (R327), which the partner must know to accept an equal feed. -/
structure MirrorHelloMsg where
  protocol : Nat
  report : List Byte
  feed : Nat
  pages : Nat
  force : Bool
  deriving DecidableEq, Repr

/-- What the store answers a restore: the manifest, the shards in order and the log from LOG_LSN on (Table 12-6). In a group-wide
restore, `durable` are the STEPs of the durable checkpoints that members report, by member; with `mate` it is a live member of the
same STAGE that answers, from its pages at the step boundary (R333). -/
structure RestoreFetch where
  manifest : List Byte
  shards : List (List Byte)
  log : List Byte
  durable : List (Nat × List Nat)
  mate : Bool := false
  deriving DecidableEq, Repr

/-- The commands of the block, in the order of the table. -/
inductive Instr where
  /- host accesses and the host link -/
  | regWrite (offset value : Nat)
  | eventRegWrite (offset value : Nat)
  | regWr (offset size value : Nat)
  | regWra (tag offset size value : Nat)
  | regRd (tag offset size : Nat)
  | memWr (addr : Nat) (data : List Byte)
  | memRd (tag addr bytes : Nat)
  | cplReceive (tag status : Nat) (data : List Byte)
  | hostRdTimeout (tag : Nat)
  | hostWrAck (ident : Nat)
  | flitReceive (bytes : List Byte)
  | plkAckTimeout
  | plkRetrainEnd (ok : Bool)
  | plkCtlRetrain
  | linkTraining (versions lanes pwSlots npReqs mgtSlots : Nat)
  | trainingTimeout
  | laneFailure (lane : Nat)
  | timeCorrRound (samples : List TimeSample)
  | timePong (t1 h2 h3 : DWord)
  | pingTimeout (t1 : DWord)
  /- the Rhizome and the rates -/
  | rzTransferReceive (link : Nat) (high : Bool) (header : DWord) (payload : List Byte) (crc : Word)
  | rzRetrainEnd (link : Nat) (ok : Bool)
  | detourTimeout (link : Nat)
  | rateWindowEnd (quad waves issued tj : Nat)
  | opRampEnd (group : Nat)
  /- command words at their units -/
  | matmul (ctx q : Nat) (idx : Word)
  | convrow (ctx q : Nat) (idx : Word)
  | eltwise (ctx q : Nat) (idx : Word)
  | reduce (ctx q : Nat) (idx : Word)
  | topk (ctx q : Nat) (idx : Word)
  | convert (ctx q : Nat) (idx : Word)
  | sput (ctx q : Nat) (idx : Word)
  | stake (ctx q : Nat) (idx : Word)
  | loss (ctx q : Nat) (idx : Word)
  | dma (ctx q : Nat) (idx : Word)
  | fence (ctx q : Nat) (idx : Word)
  | event (ctx q : Nat) (idx : Word)
  /- command queues -/
  | doorbell (n value : Nat)
  | ctxQRestart (index : Word)
  | ctxQAbort
  | commandDispatch (ctx q : Nat)
  | commandComplete (ctx q : Nat) (idx : Word)
  | fenceSatisfied (ctx q : Nat)
  | fenceWaitLimit (ctx q : Nat)
  /- arrays -/
  | arrayIssue (arr : Nat)
  | arrayDrainEnd (arr : Nat)
  | combine (ctx q : Nat) (idx : Word) (tile part : Nat)
  | arrayEccError (arr : Nat) (place : EccPlace) (corrected : Bool)
  | layerGate (ctx q : Nat)
  | stepGateRelease (ctx : Nat)
  /- jobs and Sorus channels -/
  | jobOpen (addr : Nat)
  | jobClose (addr : Nat)
  | channelOpen (addr : Nat)
  | channelClose (addr : Nat)
  | closeWaitLimit (chan : Nat)
  | sorWaitLimit (ctx q : Nat) (idx : Word)
  | parkedResume (ctx : Nat)
  /- HBM -/
  | cowCopyDone (frame : Nat)
  | attrRequest (addr : Nat)
  | hbmEccUe (frame line : Nat) (source : UeSource)
  | hbmParityError (pc : Nat)
  | pcPowerDown (pc : Nat)
  | arbStarvation (site : Arbiter) (requester holder : Nat)
  /- ingest -/
  | streamOpen (addr : Nat) (index : Option (List Byte))
  | streamClose (addr : Nat)
  | streamPause (addr : Nat)
  | streamResume (addr : Nat)
  | clipFetch (stream : Nat) (entry : List Byte)
  | rdmaReadComplete (stream position chunk result : Nat) (data : List Byte)
  | clipMissingLimit (stream : Nat)
  | clipDecodeStart (stream engine : Nat)
  | clipDecodeEnd (engine : Nat)
  | blockWrite (stream : Nat)
  /- partitions and contexts -/
  | layoutBatch (addr : Nat)
  | layoutBatchComplete
  | restripeCopyEnd (ptn : Nat)
  | contextCreate (addr : Nat)
  | contextDestroy (addr : Nat)
  | hotsetRequest (addr : Nat)
  | testRequest (addr : Nat)
  | testBorrowStart (ctrl : Nat)
  | testDeferLimit (ctrl : Nat)
  | testWindowEnd (ctrl : Nat) (result : ProcResult)
  | procedureEnd (ctrl : Nat) (result : ProcResult)
  | contextBind (ctx : Nat)
  | slotBoundary (group : Nat)
  | handoverStart (group : Nat)
  | sliceExpiry (ctx : Nat)
  | contextSaveDone (ctx : Nat)
  | contextRestoreDone (ctx : Nat)
  | contextTeardown (ctx : Nat)
  /- serving -/
  | instanceCreate (addr : Nat)
  | instanceDestroy (addr : Nat)
  | adapterRegister (addr : Nat)
  | adapterRelease (addr : Nat)
  | ringCreate (addr : Nat)
  | ringDestroy (addr : Nat)
  | requestCancel (addr : Nat)
  | requestAdmission (inst : Nat)
  | servingStepBoundary (inst : Nat)
  | servingPassEnd (inst : Nat)
  | peerRingFailure (ring : Nat)
  /- cascade group -/
  | hello (msg : HelloMsg)
  | helloAnswer (status : InTerm Nat)
  | formationLimit
  | stepEndReport (member : InTerm Nat) (step : Word) (status : Word) (logOffset : Nat)
  | stepStartAck (step : InTerm Word)
  | stepStartRecord (rec : StepRecord)
  | heartbeatSend
  | heartbeatReceive (peer term : Nat)
  | peerMiss (peer : Nat)
  | missReport (member term : Nat)
  | takeover (peer term : Nat) (rec : StepRecord)
  | takeoverAnswer (member term : Nat) (step : Word)
  | failoverLimit
  | collectiveStart (ctx : Nat) (peers : List (Nat × Nat × List Byte))
  | collectiveComplete (ctx : Nat) (inputs : List (Nat × List Byte)) (statusWords : List Word)
  | roceRetryTimeout (qp : Nat)
  | cePacketReceive (qp : Nat)
  | cnpReceive (qp : Nat)
  | rateIncreaseTimer (qp : Nat)
  | pfcPauseReceive (port prio quanta : Nat)
  | portDown (port : Nat)
  /- checkpoint and mirror -/
  | checkpointRequest
  | checkpointCapture
  | shardAck (conn : Nat)
  | shardNak (conn : Nat)
  | manifestAck
  | logFlushAck (lsn : Nat)
  | flushTimeout
  | checkpointLimit
  | sessionClose
  | sessionReopen
  | mirrorHelloAnswer (status feed handle : Nat)
  | mirrorRetryTimer
  | mirrorHello (msg : MirrorHelloMsg)
  | shardReceive (session shard : Nat) (data digest : List Byte)
  | manifestReceive (session : Nat) (bytes : List Byte)
  | logRecordReceive (session : Nat) (bytes : List Byte)
  | restore (addr : Nat) (fetched : RestoreFetch)
  /- hangs, fences and resets -/
  | progressWindowExpiry (domain unit : Nat) (cls : Nat)
  | fenceNotice (domain die : Nat)
  | domainDrainEnd (domain : Nat)
  | domainResetReady (domain : Nat)
  | epochNotice (domain die : Nat)
  | fenceLift (domain : Nat)
  | fenceClearNotice (domain : Nat)
  | resetEscalation (domain : Nat)
  | resetRequest (domain : Nat)
  | resetPowerOff (domain : Nat)
  | dumpNow
  | dumpExport (buf : Nat)
  | probeTimeout (domain unit : Nat)
  | dumpEnd
  /- power, cooling, wear -/
  | domainPowerOn (domain : Nat)
  | domainPowerOff (domain : Nat)
  | autoOffTimer (domain : Nat)
  | opEvaluation
  | powerOverCap (inputW : Nat)
  | coolantLoopPass (tj th inlet outlet pos : Nat)
  | ceilLower (hottest : Nat)
  | ceilRaise
  | coolingFault
  | coolingFaultEnd
  | tjHot (quad tj : Nat)
  | hotClear (group : Nat)
  | thermalTrip (group : Nat)
  | tripRestart (group : Nat)
  | inputLoss
  | inputReturn
  | holdupExhausted
  | holdupCharged (joules : Nat) (full : Bool)
  | stressAccumulate (domain tj : Nat)
  | wearMeasure (domain stressed fresh : Nat)
  | wearStoreWrite
  /- boot, update, attestation, module -/
  | powerOnBoot
  | jobAutostart (job : Nat) (graph : Option (List Byte))
  | updateRequest (addr : Nat)
  | updateCoreTurn
  | updateDeferLimit
  | flashPersistEnd (verified : Bool)
  | attestationRequest (addr : Nat)
  | modRstN (heldUs : Nat)
  | clearFaults
  | statusWord
  | readVin
  | readIin
  | readTemperature1
  | readTemperature2
  | readTemperature3
  | readPin
  | mfrRegRead (offset : Nat)
  | mfrReset (value : Nat)
  | mfrFlash (op addr : Nat) (data : List Byte)
  | intrHoldoffExpiry (ev : Nat)
  | portLinkUp (port : Nat)
  | pfcPauseExpiry (port prio : Nat)
  | attestationReportDone
  | updateWatchEnd
  | supervisorRestartEnd
  | partnerSessionClose
  | groupPauseRequest (member : InTerm Nat)
  deriving DecidableEq, Repr

end Sys2Proof
end

