-- ==== Sys2Proof/Decode.lean ====
section
/-! DEFINITION. No row of the table of operations and events gives its command any bits: the commands are messages,
requests and events, not words of a program. So no word spells a command. -/

namespace Sys2Proof

/-- The command that `nbits` bits of value `w` spell by the table: none, since the table gives no row bits. -/
def decodeTableWord (_nbits _w : Nat) : Option Instr := none

end Sys2Proof
end

