-- ==== Sys2Proof/Config.lean ====
section
/-! DEFINITION. What an implementation fixes and the spec leaves open: free values, which nothing in Lean can evaluate.
Each is an opaque constant without a body; a statement that mentions one holds for every value of it. -/

namespace Sys2Proof.Config

/-- The `n`-th free value of the run, `w` bits wide: a value the spec leaves undefined. -/
opaque freeValue (w : Nat) (n : Nat) : BitVec w

/-- A byte of storage whose contents the spec leaves undefined (R237, R330, R430): `seed` says which event left it so,
`key` which byte it is. -/
opaque freeByte (seed key : Nat) : BitVec 8

/-- The profiles that Table 8-7 names; every other one is `other`. -/
inductive CodedProfile where
  | main | high | high10 | main10 | other
  deriving DecidableEq, Repr

/-- A coded frame, as its codec's standard reads it (R217, R218, R220): what Table 8-7 asks about it (`level` in tenths, for MPEG-2 0 Low,
1 Main, 2 High 1440, 3 High; `barred` for coding that the table's last column names), the transport packets that its access unit takes
(first and last), the random access points up to it in decoding order, whether its syntax cannot be decoded, whether it references
pictures before the clip's first random access point, and its planes (width, height, samples). -/
structure CodedFrame where
  profile : CodedProfile
  level : Nat
  barred : Bool
  chroma420 : Bool
  depth : Nat
  width : Nat
  height : Nat
  interlaced : Bool
  first : Nat
  last : Nat
  group : Nat
  undecodable : Bool
  leading : Bool
  planes : List (Nat × Nat × List Nat)
  deriving DecidableEq, Repr

/-- The coded frames of a video stream, in display order (R216, R218): the four codec standards give them, not the spec. `packets`
are the payloads of the stream's transport packets, each with whether a unit starts in it. -/
opaque decodeStream (codec : Nat) (packets : List (Bool × List (BitVec 8))) : List CodedFrame

/-- Whether a dirty line had not been written back when a drain ended at its limit (R193): timing says it, which the spec does not
give; `seed` says which drain. -/
opaque lineLost (seed line : Nat) : Bool

/-- The set of the memory-side cache in which a line of its stacks lies (R191), which the spec does not give. -/
opaque cacheSet (line : Nat) : Nat

/-- The way that pseudo-LRU gives up, among those of a set in the order of their last use (R191): the spec does not say how it
chooses. -/
opaque cacheVictim (recency : List Nat) : Nat

/-- The number that stands for the destination member of a connection to a peer outside the group in the rule that
chooses its port (R295), which names members only. -/
opaque peerNumber (qpn : Nat) : BitVec 10

/-- The contexts that a verified job graph creates (R399): descriptors in the layout of a context request. The graph's
contents are no interface of the device. -/
opaque graphContexts (graph : List (BitVec 8)) : List (List (BitVec 8))

/-- The streams that a verified job graph opens at an index locator (R399): descriptors in the layout of a stream request,
with what the server answers for the index. -/
opaque graphStreams (graph loc : List (BitVec 8)) : List (List (BitVec 8) × List (BitVec 8))

/-- What a self-test procedure finds at start on a target (Table 16-4 step 6): the failing arrays or lanes; 0 is a pass. `n`
numbers the boot. -/
opaque selfTest (proc target n : Nat) : BitVec 128

/-- Whether a unit fails its training at power-on (R181, R54): pseudo-channel `unit`, or link `unit` - 512. `n` numbers the
boot. -/
opaque trainingFails (unit n : Nat) : Bool

/-- What the servers answer a stream's open for its index (R210), where the host asks by a register write. -/
opaque indexAnswer (n : Nat) : Option (List (BitVec 8))

/-- What the store answers a restore (Table 12-6), where the host asks by a register write: manifest, shards, log. -/
opaque storeAnswer (n : Nat) : List (BitVec 8) × List (List (BitVec 8)) × List (BitVec 8)

/-- The durable checkpoints that the members of the group report for that restore (R333). -/
opaque durableReports (n : Nat) : List (Nat × List Nat)

/-- The signature the security block makes over a digest with the identity key (R400, R402): `n` numbers the signature. -/
opaque sign (key : List (BitVec 8)) (digest : Nat) (n : Nat) : List (BitVec 8)

/-- The public key that belongs to the fused identity key (R400). -/
opaque publicKey (key : List (BitVec 8)) : List (BitVec 8)

/-- ECDSA over P-384: whether a signature over a digest verifies under a public key (R392, R402, R405). -/
opaque ecdsaVerifies (pub : List (BitVec 8)) (digest : Nat) (sig : List (BitVec 8)) : Bool

/-- The server record by which other modules name this one as a mirror candidate (R404). -/
opaque serverRecord : List (BitVec 8)

/-- The identity public key of the module that an IDENT names (R324): IDENT is a digest of it. -/
opaque identityKey (ident : List (BitVec 8)) : List (BitVec 8)

/-- DRAWS_PER_BLOCK of a context's job graph (R148), and the block ordinal within the epoch that a data cursor gives. -/
opaque drawsPerBlock (ctx : Nat) : BitVec 64

opaque blockOrdinal (cursor : BitVec 64) : BitVec 64

/-- Where a context's job graph has the constants that firmware writes for its optimiser commands at a step start, as (number of
the parameter descriptor, constant, layer): 2^(-e_l) of the layer (R144). -/
opaque scaleConstants (ctx : Nat) : List (Nat × Nat × Nat)

/-- Where a context's job graph has the learning rates of its optimiser commands, as (number of the parameter descriptor,
constant, FP32 encoding of the rate): the rate times 2^(-h) (R143). -/
opaque rateConstants (ctx : Nat) : List (Nat × Nat × Nat)

/-- The LINEAR11 word in which a sideband answer carries the value `num` / `den` (Table 18-4): PMBus 1.3 gives the format and
leaves the exponent to the device. -/
opaque linear11 (num den : Nat) : BitVec 16

/-- The size of the piece of flash that one erase clears: the flash's JESD216 tables give it (R390). -/
opaque eraseBytes : Nat

end Sys2Proof.Config
end

