-- ==== Sys2Proof/Machine/State.lean ====
section
/-! DEFINITION. The state of the block, as plain data: every register, buffer, counter, mode and pin the spec gives it,
and the queue of waiting commands. Indexed things are held in tables of (index, entry) pairs in rising order; an index
that a table does not list is at the entry's own reset value. -/

namespace Sys2Proof.Machine

/-- Why the block stops. No command of this block stops it; see the constructor. -/
inductive Fault where
  /-- Raised by no command: the spec answers every bad access with a status (R185, R382, R413). Safe. -/
  | noSuchPlace (key : Nat)
  deriving DecidableEq, Repr

/-- Why a command has no meaning. -/
inductive Refusal where
  /-- Raised by an arm of `exec` whose command has no meaning yet, under its mnemonic. Safe: the model stops. -/
  | notModelled (mnemonic : String)
  deriving DecidableEq, Repr

/-- The three variants of Table 0-1. -/
inductive Variant where
  | full
  | noMedia
  | reduced
  deriving DecidableEq, Repr

/-- The status codes of Table 0-6 (R14), in code order. -/
inductive Status where
  | ok | deferred | preempted | retryLater | domainReset | staleEpoch | refusedCapacity | refusedInfeasible
  | deadlineMissed | contextFault | nonfiniteStep | digestMismatch | mirrorSameFeed | unitAbsent
  | versionUnsupported | unreachable | cursorRealigned | testDeferred | testRefused | handleStale
  | formatEscalated | accOverflow
  deriving DecidableEq, Repr

/-- A sparse table: (index, entry) pairs, indexes strictly rising. -/
abbrev Tab (α : Type) := List (Nat × α)

/-- Bytes whose contents the spec leaves undefined: keys `lo` to `hi - 1`. Key `lo + i` reads as free byte `base + i`
of `seed`, so that a copy of the bytes reads as they do. -/
structure UndefRange where
  lo : Nat
  hi : Nat
  seed : Nat
  base : Nat
  deriving DecidableEq, Repr

/-- All byte storage of the block and the host memory the adapter serves, under one numbering of keys
(`Ops.lean` gives the key of each place). `cells` lists the bytes that are not zero, keys strictly rising. -/
structure Memory where
  cells : List Host.Cell
  undef : List UndefRange
  deriving DecidableEq, Repr

/-- Generations and free indexes of one handle kind (R12, R344). `freed` holds freed indexes, oldest first. -/
structure HandleTable where
  next : Nat
  freed : List Nat
  gens : Tab Nat
  deriving DecidableEq, Repr

/-- An event register with its enable register and pending latch (R384), and the hold-off interval that runs after
an INTR. `cause` is the context and queue of the latest cause (Table 15-6), `payload` says that an EVENT INTERRUPT set
`CTX_Q_EVENT.INTERRUPT`. -/
structure EventReg where
  value : Nat
  enable : Nat
  pending : Bool
  holding : Bool
  cause : Option (Nat × Nat)
  payload : Bool
  deriving DecidableEq, Repr

/-- The Peristome states of Table 13-2 (ABSENT follows from the variant). -/
inductive DomState where
  | opened | fenced | resetting | off | fatal
  deriving DecidableEq, Repr

/-- `PWR_DOM_STAT.POWER` (ABSENT follows from the variant). -/
inductive Power where
  | off | on | ramp
  deriving DecidableEq, Repr

/-- One power and reset domain: its Peristome (Table 13-2, R341), its local time (R63), its supply and wear
(R355, R368, R369). `ready` says that the reset is over and the epoch notice is out, `level` which level of Table 13-5 runs,
`record` its fault record, `resetAt` the supervisor's time when step 4 of Table 13-3 began, `fencedAt` and `fencedEpoch` the
supervisor's time and the epoch at the fence (Table 13-7), `lastRecord` the record of its latest reset (R341), `powering` that it
is being switched on (R357). -/
structure Domain where
  state : DomState
  epoch : Half
  time : DWord
  fences : Nat
  resets : Nat
  fenceAcks : List Nat
  epochAcks : List Nat
  ready : Bool
  offAfter : Bool
  requested : Bool
  record : Nat
  level : Nat
  restarted : Bool
  resetAt : DWord
  fencedAt : DWord
  fencedEpoch : Half
  lastRecord : Nat
  powering : Bool
  shadow : List (Nat × Nat)
  power : Power
  railMv : Nat
  powerDw : Nat
  wear : Nat
  eolHours : Nat
  stress : Nat
  stressFrac : Nat
  kSum : Nat
  kCount : Nat
  deriving DecidableEq, Repr

/-- A control core and its images (R401, Table 16-5): the SHA-384 digests of the current and previous image, and whether each
came from a live update. -/
structure Core where
  time : DWord
  restarted : Bool
  current : Nat
  previous : Nat
  previousValid : Bool
  updated : Bool
  previousUpdated : Bool
  proto : Nat
  previousProto : Nat
  rollbacks : Nat
  restarts : Nat
  deriving DecidableEq, Repr

/-- A compute group: operating points (R359), ramp (R59), thermal state with the supervisor's time of its last trip (R363) and
cyclic table (R241, R242), with the slot and frame count at which a restored table goes on at the next frame start (R330). -/
structure Group where
  req : Nat
  ceil : Nat
  grant : Nat
  op : Nat
  target : Nat
  pending3 : Bool
  hot : Bool
  tripped : Bool
  lastTrip : Option DWord
  left : Bool
  schedEnable : Bool
  schedAddr : Nat
  schedNew : Bool
  active : Bool
  refused : Bool
  table : List Nat
  slot : Nat
  frames : Nat
  resume : Option (Nat × Nat)
  lateStarts : Nat
  worstLate : Nat
  lastCritical : Nat
  lastBestEffort : Nat
  deriving DecidableEq, Repr

/-- A quadrant: rate monitor (R60) with the length of the window that runs (µs), holder (R239), the owner of the reservation in force or of the handover under way
(`handing`, R242), the LEND of its entry (`lend`), an owner whose reservation waits for another's extension to end and since when
(`behind`), since when it is late and by how much it is extended (ns), counters of its arrays. -/
structure Quadrant where
  rate : Nat
  busy : Nat
  op : Nat
  valid : Bool
  tj : Nat
  winEnd : Nat
  window : Nat
  holder : Option Nat
  reserved : Option Nat
  handing : Bool
  lend : Bool
  behind : Option (Nat × DWord)
  lateSince : Option DWord
  extension : Nat
  ended : Option DWord
  borrowed : Bool
  retired : Bool
  issueWaves : DWord
  waitOperand : DWord
  waitSpace : DWord
  edgeWaves : DWord
  ce : Nat
  ue : Nat
  ovfRetries : Nat
  overflows : Nat
  maxTag : Nat
  deriving DecidableEq, Repr

/-- The stationary rows of one array instruction that stand in a row-store half (Table 3-4, step 1): the command, the tile
and part, and the chunk. -/
structure HalfLoad where
  ctx : Nat
  q : Nat
  idx : Word
  tile : Nat
  part : Nat
  lo : Nat
  deriving DecidableEq, Repr

/-- A row-store half (R69): the context whose rows it holds, and, for rows the sequencer loaded, the instruction they are for. -/
structure Half2 where
  loaded : Bool
  owner : Nat
  load : Option HalfLoad
  deriving DecidableEq, Repr

/-- The states of an accumulator slot (R80). -/
inductive SlotState where
  | free | held | draining
  deriving DecidableEq, Repr

/-- An accumulator slot: state, owner and scale tag (R80, R100). Its tile lies in memory. -/
structure AccSlot where
  state : SlotState
  owner : Nat
  tag : Nat
  deriving DecidableEq, Repr

/-- The kinds of array instruction that a command is split into (R70, R107, R109). -/
inductive ArrKind where
  | product | conv
  deriving DecidableEq, Repr

/-- An array instruction bound to an array: which command, tile and part, which run of the reduction, and whether it
overwrites and drains (R83, R77, R107). `waitOp` and `waitSpace` say that its next chunk has waited for an operand, or for
a slot, drain space or the edge column (`ARR_QCNT`, c = 1 and 2). -/
structure ArrInstr where
  kind : ArrKind
  ctx : Nat
  q : Nat
  idx : Word
  tile : Nat
  part : Nat
  parts : Nat
  lo : Nat
  hi : Nat
  first : Bool
  last : Bool
  add : Bool
  drain : Bool
  slot : Option Nat
  prior : Nat
  waitOp : Bool
  waitSpace : Bool
  deriving DecidableEq, Repr

/-- A tile in the edge column (R81, R90): the retries of the whole tile and of the instruction that drains (`own`), and the
row-store half reserved for it (R78). With `part` it is that part's partial, on its way to its receiver in P48 (R110). -/
structure Drain where
  ctx : Nat
  q : Nat
  idx : Word
  tile : Nat
  slot : Nat
  part : Option Nat
  retries : Nat
  own : Nat
  half : Option Nat
  status : Status
  ovf : Bool
  waiting : Bool
  deriving DecidableEq, Repr

/-- An array: row-store halves, slots, bound instructions, drains, and what `ARR_STAT` reports. -/
structure Arr where
  halves : List Half2
  slots : List AccSlot
  bound : List ArrInstr
  drains : List Drain
  lastStatus : Status
  lastRetries : Nat
  lastDone : DWord
  ceFlag : Bool
  ueFlag : Bool
  ueCount : Nat
  hangs : List DWord
  retired : Bool
  deriving DecidableEq, Repr

/-- A dispatched command without a final code, or with one that DONE has not passed (R151, R153). `partials` holds the
partials not yet combined (tile, part, array, slot, levels done), `combined` the retries and overflow of each part
(tile, part, retries, overflow), `fillAt` the Sorus slot reserved for a command's drains (R78), `waits` why an edge command
waits ([0] stationary operand, [1] space, [2] edge column; R78), `draws` the TX2 draw counter when its unit began (R148). `spilled` holds partials drained
in P48 to make room for later parts (tile, part, levels done, tag, elements; R110, R112), `descs` the descriptor table entries
that the queue engine read at dispatch, by number (R161). -/
structure Cmd where
  index : Word
  word : QWord
  window : Nat
  started : Bool
  left : Nat
  result : Option Status
  final : Bool
  recorded : Bool
  resets : Nat
  reissued : Bool
  parked : Bool
  waitDom : Option Nat
  waitFrom : Option DWord
  tflags : Nat
  maxTag : Nat
  maxRetries : Nat
  count : Nat
  moved : Nat
  maxExp : Int
  body : List Byte
  combined : List (Nat × Nat × Nat × Nat)
  draws : Option DWord
  partials : List (Nat × Nat × Nat × Nat × Nat)
  spilled : List (Nat × Nat × Nat × Nat × List Byte)
  fillAt : Option Nat
  waits : Nat
  descs : List (Nat × List Byte)
  deriving DecidableEq, Repr

/-- The queue states of Table 6-1. -/
inductive QState where
  | idle | active | waiting | gated | parked | halted
  deriving DecidableEq, Repr

/-- One command queue (R150 to R152, R178). `chain` holds the finished commands that a slot chain may run again (R157).
`gateFrom` is the first command of the layer that runs, `gateWindow` the window there, `gateBad` ([0] NONFINITE, [1] ACC_OVERFLOW) and `gateMax` what
its completions report (R138, R145); `gateSeen` says that a GROUP_REDUCED layer has passed its first gate (Table 11-8),
`gateDraws` the TX2 draw counter at `gateFrom` (R148),
`passing` that the update commands of a skipped step are passed over (R143), `updating` that the commands up to the next gate are
updates (R317). `asQueued` are the words as the host queued them where firmware has rewritten them, by count; `stepFrom` and
`stepWindow` say where the step began (R142, R144). -/
structure Queue where
  ringLog2 : Nat
  ringAddr : Nat
  cringLog2 : Nat
  cringAddr : Nat
  quads : Nat
  tail : Word
  head : Word
  done : Word
  chead : Word
  ctail : Word
  window : Nat
  state : QState
  lastStatus : Status
  haltedAt : Word
  reissues : Nat
  stepGate : Bool
  gateFrom : Word
  gateBad : Nat
  gateSeen : Bool
  gateWindow : Nat
  passing : Bool
  gateMax : Int
  gateDraws : DWord
  updating : Bool
  asQueued : List (Word × Nat)
  stepFrom : Word
  stepWindow : Nat
  cmds : List Cmd
  chain : List Cmd
  deriving DecidableEq, Repr

/-- The context states of Table 9-6. -/
inductive CtxState where
  | free | ready | running | saving | saved | restoring | parked | teardown
  deriving DecidableEq, Repr

/-- What a parked context waits for (R34, R175, R237, R408): a channel, a sync counter or nothing a wait names. -/
inductive ParkWait where
  | none
  | block (chan : Nat)
  | credit (chan : Nat)
  | counter (n : Nat) (value : Word)
  | resume
  deriving DecidableEq, Repr

/-- What happens to the context when its save ends (Table 9-6). -/
inductive AfterSave where
  | saved | parked
  deriving DecidableEq, Repr

/-- Where a context stood at the first gate of its step (R301): its sync counters, the head of its collective ring, and for
each queue the next command and the window in force. -/
structure StepPoint where
  sync : List Word
  ringHead : Word
  queues : List (Word × Nat)
  deriving DecidableEq, Repr

/-- A context: its descriptor (Table 9-5), schedule state (Table 9-6, R239), queues, counters (R175, R176), numerics
registers and collective ring. `susp` and `suspDrains` are its resume points (Table 9-8): array instructions not yet
issued and drains not yet ended, by array number, while it holds none; `suspLoads` the instructions that loaded halves are for
(array, half), `dropArrays` that its array state is not taken up again (Table 1-10). `destroyAt` are destroy
requests that wait for the end of a teardown (R238), `imageQuads` the quadrants that the image's sections are numbered by, in the order of the present quadrants, and `imageDies` the dies that its window sections are numbered by,
beside the present ones, where a modify has changed them (R236). `descended` are the layers
whose HOLD a descent has set, `heldNow` those whose HOLD was set in this step (R142); `losses` the
block losses of the step (SEQ, place in the order of R39, FP32). `atStep` says that the step has not passed its first gate;
`point` is where it passed it. `barred` says that a restore ended with
DIGEST_MISMATCH and the context never starts (R330). -/
structure Context where
  state : CtxState
  ptn : Nat
  critical : Bool
  tx2 : Bool
  quads : Nat
  scrFirst : Nat
  scrCount : Nat
  image : Nat
  imagePages : Nat
  held : Nat
  lastReason : Nat
  preemptions : Nat
  destroyAt : List Nat
  hasImage : Bool
  imageQuads : List Nat
  imageDies : List (Nat × Nat)
  resident : Nat
  wait : ParkWait
  after : AfterSave
  step : Word
  sync : List Word
  queues : List Queue
  descAddr : Nat
  descCount : Nat
  seed : DWord
  escHold : Nat
  lrRecover : Nat
  ltabAddr : Nat
  ltabCount : Nat
  lrH : Nat
  clean : Nat
  sinceRecover : Nat
  escalations : Nat
  skipped : Nat
  draws : DWord
  drawCursor : DWord
  layerReports : List (Nat × Nat × Int)
  descended : List Nat
  heldNow : List Nat
  losses : List (Nat × Nat × Nat)
  skipReq : Bool
  stepStatus : Word
  captureDue : Bool
  ringLog2 : Nat
  ringAddr : Nat
  ringTail : Word
  ringHead : Word
  ringTag : Nat
  attempt : Nat
  susp : List (Nat × ArrInstr)
  suspDrains : List (Nat × Drain)
  suspLoads : List (Nat × Nat × HalfLoad)
  dropArrays : Bool
  atStep : Bool
  barred : Bool
  point : Option StepPoint
  deriving DecidableEq, Repr

/-- A partition (R232): its resources, share list (R186) and whether a re-stripe runs (R237). Sets are bit masks. -/
structure Partition where
  quads : Nat
  ways : List Nat
  scratch : List Nat
  sorus : List Nat
  pcs : Nat
  shares : Nat
  restriping : Bool
  deriving DecidableEq, Repr

/-- A distillation job (R18 to R20) and, while it closes, its close descriptor (R25). `failed` says that its teacher cannot
be recreated and firmware closes it once no take waits (Table 1-10); `former` and `formerStudents` are the handles of its
teacher's and its student's contexts that were torn down (Table 1-10, Table 8-12); `studentCtx` names no context while it has none. -/
structure Job where
  teacher : Nat
  student : Nat
  teacherCtx : Nat
  studentCtx : Nat
  tokens : Nat
  vocab : Nat
  tensorBase : Nat
  closing : Option Nat
  failed : Bool
  former : List Nat
  formerStudents : List Nat
  deriving DecidableEq, Repr

/-- Where a job's teacher stood when a channel's block of a SEQ began: the step, the TX2 draw counter, the sync counters, and the
next command and window of each of its queues, and its layer numerics records (Table 1-10: the data cursor at which a lost block is computed again). -/
structure BlockMark where
  seq : Word
  step : Word
  draws : DWord
  sync : List Word
  queues : List (Word × Nat)
  layers : List Byte
  deriving DecidableEq, Repr

/-- The states of a Sorus slot (Table 1-6). -/
inductive SorSlotState where
  | free | filling | full | consuming
  deriving DecidableEq, Repr

/-- A Sorus slot with its block header (Table 1-8). Its payload lies in memory. -/
structure SorSlot where
  state : SorSlotState
  cursor : DWord
  step : Word
  seq : Word
  valid : Nat
  flags : Nat
  epoch : Half
  producer : Word
  discard : Bool
  deriving DecidableEq, Repr

/-- The channel states of R24. -/
inductive ChanState where
  | closed | opened | closing | migrating | faulted
  deriving DecidableEq, Repr

/-- A Sorus channel (Table 1-4, R18, R24). `fill` is the next slot in ring order (R23), `stepSeq` the SEQ of the first block
of the student's step. `marks` are the places of the blocks that may have to be computed again, the next block's last, and `skip`
counts the blocks that the teacher, set back for another channel, computes again though this channel has them. -/
structure Channel where
  state : ChanState
  job : Nat
  feature : Bool
  slots : List SorSlot
  fill : Nat
  placement : Nat
  waitMs : Nat
  width : Nat
  temperature : Nat
  alpha : Nat
  beta : Nat
  gamma : Nat
  layers : Nat
  granules : Nat
  nextSeq : Word
  stepSeq : Word
  escalated : Bool
  drain : Bool
  closing : Option Nat
  teacherWait : Nat
  teacherParks : Nat
  studentWait : Nat
  studentParks : Nat
  marks : List BlockMark
  skip : Nat
  deriving DecidableEq, Repr

/-- The states of an HBM stack's controller (`HBM_STAT.STATE`; ABSENT follows from the variant). -/
inductive StackState where
  | active | selfRefresh | training
  deriving DecidableEq, Repr

/-- An HBM stack: controller state, counters, arbiter threshold and starvation record. -/
structure Stack where
  state : StackState
  temp : Nat
  retired : Nat
  ce : Nat
  ue : Nat
  retireAt : Nat
  threshold : Nat
  starve : Nat
  allocRd : Nat
  allocWr : Nat
  deriving DecidableEq, Repr

/-- A pseudo-channel: uncorrectable errors, power-down (R179), a repeated command, a test that holds it. -/
structure Pc where
  ue : Nat
  powerDown : Bool
  parity : Bool
  borrowed : Bool
  deriving DecidableEq, Repr

/-- A write held at a WP frame until the copier has copied the frame (Table 7-5). -/
structure HeldWrite where
  frame : Nat
  key : Nat
  data : List Byte
  ctx : Nat
  q : Nat
  idx : Word
  deriving DecidableEq, Repr

/-- A DMA engine's running command (R196, R203) and its arbiter: the last requester granted, the requester that is granted next,
once that is decided, and those that wait, in the order they came, with the grants made to others since (R202, R204). A requester
is a queue (4 × context + queue) with its command. -/
structure DmaEngine where
  busy : Bool
  ctx : Nat
  q : Nat
  idx : Word
  bytes : Nat
  grants : Nat
  next : Option (Nat × Word)
  waits : List (Nat × Word × Nat)
  deriving DecidableEq, Repr

/-- A transfer on the Rhizome (Table 2-3). -/
structure RzTransfer where
  header : DWord
  payload : List Byte
  deriving DecidableEq, Repr

/-- A line of 64 bytes that a memory-side cache holds (R191): its frame, its number there, the way it lies in, and whether it is dirty. -/
structure CacheLine where
  frame : Nat
  line : Nat
  way : Nat
  dirty : Bool
  deriving DecidableEq, Repr

/-- A bad transfer whose replay a receiver awaits: as it came, with the CRC that came with it, and its failed replays (R54). -/
structure RzBad where
  transfer : RzTransfer
  crc : Nat
  failed : Nat
  deriving DecidableEq, Repr

/-- An arbiter of a link direction (R254): the last grantee (64: none yet), the requester that holds the grant, and for each that
waits the grants made to others since. -/
structure RzArb where
  last : Nat
  holder : Option Nat
  waits : List (Nat × Nat)
  deriving DecidableEq, Repr

/-- One direction of a Rhizome link at its receiver and its sender (R50, R54, R254): the bad transfers whose replay is awaited, at
most one for each buffer set; the sender's replay store, the transfers sent and not acknowledged in the order sent, each with its CRC,
the transfers in the sender's buffers, and the arbiters of its undetoured and of its detoured traffic. -/
structure LinkDir where
  bad : List RzBad
  util : Nat
  store : List (RzTransfer × Nat)
  wait : List RzTransfer
  arb : RzArb
  escArb : RzArb
  deriving DecidableEq, Repr

/-- The states of a Rhizome link (`GLB_RZ_LINK.STATE`; ABSENT follows from the variant). -/
inductive LinkState where
  | up | retrain | down
  deriving DecidableEq, Repr

/-- A Rhizome link (R54, R55): counters, the times of its last retrains, its detour, and the logged times of the steps of Table
2-6. -/
structure Link where
  state : LinkState
  replays : Nat
  retrains : Nat
  recent : List DWord
  low : LinkDir
  high : LinkDir
  holding : Bool
  detour : Bool
  borrowed : Bool
  steps : List DWord
  deriving DecidableEq, Repr

/-- A transfer delivered to a unit, or an answer of a Peristome, in order (R52). -/
structure Delivered where
  link : Nat
  transfer : RzTransfer
  deriving DecidableEq, Repr

/-- The states of an ingest stream (Table 8-11). -/
inductive StreamState where
  | closed | running | paused | stalled | done | faulted
  deriving DecidableEq, Repr

/-- Where a clip in the window stands (R213 to R219). -/
inductive ClipState where
  | reading | missing | complete | decoding | decoded
  deriving DecidableEq, Repr

/-- A clip that holds a window reservation of some bytes (R212 to R214): its entry, the READs in flight and the chunks
that came, the server tried last (`replica`), its tokens that are not yet in a block, the first of which is token
`first` of the clip, and the time since which its bytes are missing (R214). -/
structure Clip where
  position : Nat
  epoch : Nat
  state : ClipState
  entry : List Byte
  chunks : List Nat
  data : List (Nat × List Byte)
  replica : Bool
  attempts : Nat
  reason : Nat
  bytes : Nat
  first : Nat
  tokens : List (List Byte)
  since : Option DWord
  deriving DecidableEq, Repr

/-- An ingest stream: its descriptor (Table 8-1), C and S of its index, the next position to fetch, the cursor of the
first token to emit, the block that is written and not yet counted (with the cursor after it), and its window. `skips` are the
cursors of clips skipped at or after `start` (R214, R226), `gathered` the tokens of the next block, with their cursors, that have
left the window for it (R213, R225), `index` the index's header and server records as read and `loc` its
locator (R211). `parts` are
the cursor ranges that each replica of a group still has in this epoch (R297, R302). -/
structure Stream where
  state : StreamState
  desc : List Byte
  clips : Nat
  servers : Nat
  fetchPos : Nat
  fetchEpoch : Nat
  start : Nat
  uncounted : Option Nat
  nextSeq : Word
  window : List Clip
  gathered : List (Nat × List Byte)
  skipped : Nat
  dropped : Nat
  rereads : Nat
  skipHead : Word
  skipTail : Word
  skips : List Nat
  index : List Byte
  loc : List Byte
  parts : List (List (Nat × Nat))
  deriving DecidableEq, Repr

/-- A decode engine (`MED_ENG_STAT`). -/
structure MediaEngine where
  busy : Bool
  codec : Nat
  stream : Nat
  position : Nat
  epoch : Nat
  borrowed : Bool
  deriving DecidableEq, Repr

/-- A hot-set entry (Table 9-11, R252). -/
structure HotEntry where
  kind : Nat
  ptn : Nat
  first : Nat
  pages : Nat
  model : Nat
  pinned : Bool
  lastUse : DWord
  deriving DecidableEq, Repr

/-- A queued or running test request (Table 9-13, R255 to R257). -/
structure TestReq where
  addr : Nat
  proc : Nat
  targetType : Nat
  target : Nat
  window : Nat
  maxDefer : Nat
  result : Nat
  running : Bool
  start : DWord
  deriving DecidableEq, Repr

/-- One descriptor of the running layout batch: its operation, the partition it names or makes, what the partition will
hold, the pages a re-stripe copies, the channels that move and where to (R236, R237). -/
structure BatchItem where
  op : Nat
  ptn : Nat
  part : Partition
  restripe : Bool
  used : Nat
  moves : List (Nat × Nat)
  copied : Nat
  deriving DecidableEq, Repr

/-- The running layout batch (Table 9-9): its header's address, the start time, its items, whether ownership has changed,
and the re-stripes whose copy has ended. -/
structure Batch where
  addr : Nat
  start : DWord
  items : List BatchItem
  applied : Bool
  copied : List Nat
  deriving DecidableEq, Repr

/-- The states of a serving request (Table 10-4). -/
inductive ReqState where
  | free | queued | prefill | decode | held | preempted
  deriving DecidableEq, Repr

/-- A live serving request (Table 10-3, R267, R276 to R281). `slot` is its place in the state area, `order` its place in
the order of admission, `fed` and `fedDraft` are V_t and V_d, `tokens` the L known tokens, `reserved` the units reserved and
not listed, `quota` the units it may keep, `matched` the blocks reused, `outbox` the tokens (with position and FLAGS) that
wait for room in the ring, `runsLate` that its deadline has passed while it ran with CONTINUE_LATE. -/
structure Request where
  state : ReqState
  inst : Nat
  slot : Nat
  order : Nat
  critical : Bool
  priority : Nat
  flags : Nat
  promptLen : Nat
  maxNew : Nat
  adapter : Option Nat
  deadline : Nat
  ttftTarget : Nat
  tbtTarget : Nat
  ring : Nat
  stop : Nat
  seed : Nat
  temperature : Nat
  tag : Nat
  admitted : DWord
  tokens : List Nat
  fed : Nat
  fedDraft : Nat
  units : List Nat
  reserved : List Nat
  quota : Nat
  matched : Nat
  epoch : Half
  generated : Nat
  cancelled : Bool
  wasDeferred : Bool
  wasPreempted : Bool
  deferrals : Nat
  preemptions : Nat
  lastPosition : Nat
  firstToken : Option Nat
  lastToken : DWord
  tbtMax : Nat
  tbtMisses : Nat
  outbox : List (Nat × Nat × Nat)
  runsLate : Bool
  final : List Byte
  deriving DecidableEq, Repr

/-- A published KV block (R273, R274). -/
structure Published where
  hash : QWord
  inst : Nat
  unit : Nat
  refs : Nat
  lastMatch : DWord
  deriving DecidableEq, Repr

/-- One request's part in a step (R270, Table 10-8): the target rows `first` to `first + count - 1`, the drafts d, the
positions that draft pass 0 feeds before, the units newly listed, and the draft tokens with their q. -/
structure StepSeq where
  req : Nat
  kind : Nat
  first : Nat
  count : Nat
  drafts : Nat
  catchUp : Nat
  listed : List Nat
  drafted : List (Nat × Nat)
  deriving DecidableEq, Repr

/-- A serving instance (Table 10-1) with its pool, its step in flight and its measurements (R265, R268). `pass` numbers
the next pass, `passIndex` says which of the step's passes runs, `doneAt` the value of DONE_CNT that ends it, `expected` the values that the last passes of the contexts bring it to. -/
structure Instance where
  desc : List Byte
  ptn : Nat
  target : Nat
  draft : Option Nat
  submitTail : Word
  submitHead : Word
  admittedCount : Nat
  stepNumber : Word
  pass : DWord
  firstPass : DWord
  inStep : Bool
  stepStart : DWord
  passIndex : Nat
  drafts : Nat
  doneAt : Word
  seqs : List StepSeq
  durations : List Nat
  gains : List (Nat × Nat)
  free : List Nat
  prov : List Nat
  repeats : Nat
  poolLow : Bool
  ttftMiss : Nat
  tbtMiss : Nat
  expected : List (Nat × Word) := []
  deriving DecidableEq, Repr

/-- A registered adapter (R275). -/
structure Adapter where
  inst : Nat
  entry : Nat
  rank : Nat
  deriving DecidableEq, Repr

/-- A token ring (R276). -/
structure Ring where
  inst : Nat
  peer : Bool
  log2 : Nat
  addr : Nat
  consAddr : Nat
  rkey : Nat
  count : Word
  bound : Option Nat
  lost : Bool
  recent : List (Nat × List Byte)
  deriving DecidableEq, Repr

/-- The group states of `NET_GROUP_STAT.STATE`. -/
inductive GroupState where
  | solo | forming | running | paused | failover | halted
  deriving DecidableEq, Repr

/-- A roster member as this module sees it (Table 11-2, `NET_MBR_STAT`). -/
structure Member where
  role : Nat
  replica : Nat
  stage : Nat
  protoMax : Nat
  feed : Nat
  ident : Nat
  state : Nat
  lastStep : Word
  lastHeard : DWord
  missed : Bool
  paused : Bool
  deriving DecidableEq, Repr

/-- A RoCEv2 queue pair (R292, R294, R295). Its send rate is `rateNum` / (64 × 2 ^ `rateHalf`) of line rate; `cnpTx` and
`cnpRx` are the times of the last notification sent and of the last one that halved the rate. -/
structure Qp where
  rateNum : Nat
  rateHalf : Nat
  retries : Nat
  failed : Bool
  cnpTx : Option DWord
  cnpRx : Option DWord
  deriving DecidableEq, Repr

/-- An Ethernet port (`NET_PORT_STAT`) and the priorities a PFC frame has paused (R292). -/
structure Port where
  state : Nat
  cnp : Nat
  retrans : Nat
  pauseTx : Nat
  paused : Nat
  deriving DecidableEq, Repr

/-- The cascade group as this module sees it (R289 to R302). `holdFor` is the member that has taken a lost member's place and whose
recompute the master waits for (R333), `unsettled` the members lost while a step-start record waited for its acknowledgement, `notices`
what the next record tells the members of the roster, and `restoreTo` the STEP whose
checkpoint this member is to restore (R333). -/
structure Net where
  state : GroupState
  self : Nat
  master : Nat
  deputy : Nat
  term : Nat
  gen : Nat
  version : Nat
  step : Word
  groupId : Nat
  protoMin : Nat
  replicas : Nat
  stages : Nat
  crc : Nat
  qpnBase : Nat
  members : Tab Member
  reports : List (Nat × Word)
  record : Option StepRecord
  sentToDeputy : Bool
  misses : List Nat
  answers : List (Nat × Word)
  stopped : Bool
  holdFor : Option Nat
  unsettled : List Nat
  notices : List GroupNotice
  restoreTo : Option Nat
  pcp : Nat
  mbrSel : Nat
  crSel : Nat
  roster : List Byte
  qps : Tab Qp
  deriving DecidableEq, Repr

/-- A collective in flight (R303 to R306), with its final code once it has one and its writes are out. -/
structure Collective where
  ctx : Nat
  entry : Word
  code : Option Status
  word : Nat
  deriving DecidableEq, Repr

/-- The checkpoint states of `CKP_STAT.STATE`. -/
inductive CkptState where
  | none | capturing | streaming | sealing | durable | correlated | abandoned | failed
  deriving DecidableEq, Repr

/-- A shard of the running checkpoint (R319, R323). -/
structure Shard where
  region : Nat
  first : Nat
  pages : Nat
  digest : Nat
  acked : Bool
  sent : Bool
  refusals : Nat
  deriving DecidableEq, Repr

/-- The mirror session states of `CKP_MIRROR.STATE`. -/
inductive MirrorState where
  | none | handshake | active | correlated | lost
  deriving DecidableEq, Repr

/-- A checkpoint slot of a served session: the shards acknowledged, by number, each its digest (48 bytes) and its bytes, and
the manifest once it is acknowledged. -/
structure StoreSlot where
  shards : Tab (List Byte)
  manifest : Option (List Byte)
  deriving DecidableEq, Repr

/-- A session this module's mirror store serves (R328): the source's feed and identity public key, its place in the store
(pages), its two slots, the slot of the latest durable checkpoint, and its log by LSN. -/
structure ServedSession where
  feed : Nat
  key : List Byte
  first : Nat
  pages : Nat
  slotA : StoreSlot
  slotB : StoreSlot
  latest : Option Bool
  log : Tab (List Byte)
  deriving DecidableEq, Repr

/-- A restore whose logged steps are recomputed (R332): its descriptor, the records from LOG_LSN on, the step to reach, the
steps recomputed. -/
structure Replay where
  addr : Nat
  ident : Nat
  log : List (List Byte)
  target : Nat
  steps : Nat
  deriving DecidableEq, Repr

/-- Checkpointing: configuration, log, running checkpoint, mirror session and store (chapter 12). `logHeld` holds log
records whose place in the ring is still needed (R315);
`endLsn` follows the last STEP_END, `ckptLsn` is LOG_LSN of the running checkpoint; `implicit` holds the pages of the four
implicit regions as captured, `chans` the job's channels then with their handles (R44), `dueStep` the STEP of the checkpoint that is due, `forced` says that R315
asked for the running one and `cut` that it ran as input power was lost (R329), `logPtn` is the partition whose log the ring holds
(R311), `restoreDue` says that firmware is to restore the partition after a warm reset (R347), `opening` is the logged record that releases the gate at which a
recompute has ended, with the step it ends (R332), `retry` says that the candidates are tried again. -/
structure Ckp where
  ptn : Nat
  interval : Nat
  ackMs : Nat
  connections : Nat
  limitS : Nat
  reserveFirst : Nat
  reservePages : Nat
  logFirst : Nat
  logPages : Nat
  lsn : DWord
  flushed : DWord
  durableLsn : DWord
  logHeld : List (List Byte)
  stepSkips : Nat
  endLsn : DWord
  ckptLsn : DWord
  regionCount : Nat
  regionAddr : Nat
  state : CkptState
  ident : Nat
  step : Word
  requested : Bool
  due : Bool
  dueStep : Word
  full : Bool
  forced : Bool
  cut : Bool
  logPtn : Nat
  captureHeld : List Nat
  implicit : List (List Byte)
  chans : List (Nat × Channel)
  replay : Option Replay
  restoreDue : Bool
  opening : Option (Nat × List Byte)
  shards : List Shard
  lastStreamed : Nat
  manifestSent : Bool
  durableId : Nat
  durableStep : Word
  mirror : MirrorState
  retry : Bool
  candidate : Nat
  candidates : List (List Byte)
  lastStatus : Status
  partnerFeed : Nat
  session : Nat
  storePtn : Nat
  storeFirst : Nat
  storePages : Nat
  served : Tab ServedSession
  reserve : Tab (List Nat)
  copyMap : List (Nat × Nat)
  copying : List (Nat × Nat)
  held : List HeldWrite
  deriving DecidableEq, Repr

/-- A fault record (Table 13-8) while it is held in the ring of R351. -/
structure FaultRecord where
  ident : Nat
  origin : Nat
  kind : Nat
  level : Nat
  domain : Nat
  cls : Nat
  die : Nat
  flags : Nat
  unit : Nat
  context : Nat
  collateral : Nat
  epochBefore : Nat
  epochAfter : Nat
  answered : Nat
  stale : Nat
  detect : DWord
  drainUs : Nat
  resetUs : Nat
  dump : Nat
  mergedInto : Nat
  closed : Bool
  read : Bool
  deriving DecidableEq, Repr

/-- A crash dump in one of the four buffers (Table 13-6). `todo` holds the units, by domain, whose probes are out. -/
structure Dump where
  ident : Nat
  fault : Nat
  scope : Nat
  start : DWord
  fin : DWord
  todo : List (Nat × Nat)
  records : List (List Byte)
  unreachable : Nat
  truncated : Bool
  ended : Bool
  exported : Bool
  deriving DecidableEq, Repr

/-- Fault handling: records, dumps, windows and retirement limits (chapter 13). -/
structure Flt where
  fatal : Bool
  windows : List Nat
  records : List FaultRecord
  nextId : Nat
  overwritten : Nat
  recSel : Nat
  dumps : Tab Dump
  nextDump : Nat
  dumpAuto : Bool
  dumpScope : Nat
  dumpDest : Nat
  busy : Option Nat
  stale : Tab Nat
  arrUe : Nat
  hangs : Nat
  hours : Nat
  quadLimit : Nat
  warm : Bool
  deriving DecidableEq, Repr

/-- Power, cooling and hold-up (chapter 14). The valve command is held in 1/80,000,000 of a thousandth, the integral in
tenths of a thousandth, so that both of R361's quantities are exact. `heldOff` are the domains that step 4 of Table 14-2
switched off. -/
structure Pwr where
  cap : Nat
  inputW : Nat
  inputDv : Nat
  inputDa : Nat
  holdJ : Nat
  fullJ : Nat
  onHoldup : Bool
  holding : Bool
  dispatchHeld : Bool
  tjTarget : Nat
  hbmTarget : Nat
  inletMax : Nat
  tjHot : Nat
  valveMin : Nat
  valve : Int
  integ10 : Int
  err : Int
  pos : Nat
  inlet : Nat
  outlet : Nat
  tjMax : Nat
  reqDomain : Nat
  reqBusy : Bool
  reqStatus : Status
  autoOff : Bool
  dWarn : Nat
  dEol : Nat
  cooling : Bool
  wearStore : Tab (Nat × Nat)
  heldOff : List Nat
  deriving DecidableEq, Repr

/-- The states of Puchlink (`PLK_STAT.STATE`). -/
inductive LinkUpState where
  | down | training | active | retrain
  deriving DecidableEq, Repr

/-- A HOST_RD in flight for a command (R383): the bytes go to key `key`. -/
structure HostRead where
  tag : Nat
  ctx : Nat
  q : Nat
  idx : Word
  key : Nat
  bytes : Nat
  deriving DecidableEq, Repr

/-- A HOST_WR whose flit the adapter has not acknowledged (R383). `seq` is the SEQ of the flit that carried its last byte,
once it is sent. -/
structure HostWrite where
  ident : Nat
  seq : Option Nat
  ctx : Nat
  q : Nat
  idx : Word
  addr : Nat
  data : List Byte
  deriving DecidableEq, Repr

/-- The messages the device sends the host (Table 15-5) and the pins it drives. -/
inductive OutMsg where
  | cpl (tag : Nat) (status : Status) (data : List Byte)
  | hostWr (ident : Option Nat) (addr : Nat) (data : List Byte)
  | hostRd (tag addr bytes : Nat)
  | intr (reg : Nat) (ctxValid : Bool) (ctx queue value payload : Nat) (time : DWord)
  | timeCorr (host : List Byte) (records : List (List Byte))
  | timePing (t1 : DWord)
  | linkUp (epoch version : Nat)
  | fatal (faultId : Nat)
  | nak (ack : Nat)
  | ack (seq : Nat)
  | credits (cls count : Nat)
  | replay (first : Nat)
  | idle
  | sideband (data : Option (List Byte))
  deriving DecidableEq, Repr

/-- The messages the device sends over Ethernet, as far as a rule gives them. Every message of the group carries GROUP_ID and TERM (R289, R299); a
READ carries its server record's number and PCP and its remote address and key (R211, R294). -/
inductive NetMsg where
  | hello (group dest term : Nat) (gen crc member protoMax : Nat) (report : List Byte)
  | helloAnswer (group dest term : Nat) (status : Status)
  | stepEnd (group dest term : Nat) (step status : Word) (logOffset : Nat)
  | stepStart (group dest : Nat) (rec : StepRecord)
  | stepStartAck (group dest term : Nat) (step : Word)
  | heartbeat (group dest term : Nat)
  | missReport (group dest about term : Nat)
  | takeover (group dest term : Nat) (rec : StepRecord)
  | takeoverAnswer (group dest term : Nat) (step : Word)
  | masterState (group dest term gen : Nat)
  | pauseRequest (group dest member term : Nat)
  | entryRead (stream server prio clip addr rkey : Nat)
  | rdmaRead (stream server prio position epoch chunk addr rkey : Nat)
  | rdmaWrite (ring addr : Nat) (data : List Byte)
  | cnp (qp : Nat)
  | resend (qp : Nat)
  | collective (ctx tag : Nat) (entry : Word)
  | mirrorHello (candidate : Nat) (msg : MirrorHelloMsg)
  | mirrorAnswer (status : Status) (feed handle : Nat)
  | shard (conn index : Nat)
  | shardAnswer (session index : Nat) (ok : Bool)
  | manifest (bytes : List Byte)
  | manifestAck (session : Nat)
  | logRecord (bytes : List Byte)
  | logAck (session lsn : Nat)
  | sessionClose
  | graphRead (job : Nat)
  | durable (group dest term : Nat) (step : Word)
  | replace (group dest term lost : Nat) (source : Option Nat)
  | pages (group dest term region first : Nat) (data : List Byte)
  | pfc (port prio : Nat)
  deriving DecidableEq, Repr

/-- What units tell each other over CTL (Table 2-4): notices of fences and epochs, and route changes. -/
inductive CtlMsg where
  | fence (domain : Nat)
  | epoch (domain : Nat) (epoch : Half)
  | clear (domain : Nat)
  | linkDown (link : Nat)
  | detour (link : Nat)
  | rzAck (link : Nat) (high : Bool)
  | rzReplay (link : Nat) (high : Bool)
  deriving DecidableEq, Repr

/-- Puchlink (chapter 15). `sinceIdle` counts the flits sent since the last IDLE flit (R373), `rxSlots` holds the slots of a message that has not come whole, `waiting` the messages that wait
for credits or for room in the replay store (R377, R378), `roundOpen` that the exchanges of a correlation round have
begun (R385). -/
structure Plk where
  state : LinkUpState
  version : Nat
  width : Nat
  lanes : Nat
  good : Nat
  allow : Nat
  lastStatus : Status
  failedTrainings : Nat
  rxNext : Nat
  roundOpen : Bool
  rxSlots : List QWord
  txNext : Nat
  txAcked : Nat
  txReplays : Nat
  sinceIdle : Nat
  waiting : List OutMsg
  recent : List DWord
  creditPw : Nat
  creditNp : Nat
  creditMgt : Nat
  checkErr : Nat
  replays : Nat
  retrains : Nat
  trainings : Nat
  rejOffset : Nat
  rejStatus : Status
  rejMem : Bool
  rejValid : Bool
  rejCount : Nat
  memReject : Nat
  holdoff : Nat
  corrUncert : Nat
  corrRound : Nat
  corrValid : Bool
  rdTimeout : Nat
  reads : List HostRead
  writes : List HostWrite
  nextTag : Nat
  nextWrite : Nat
  pings : List DWord
  best : Option (DWord × DWord × DWord × DWord)
  supRestarted : Bool
  deriving DecidableEq, Repr

/-- The states of an update (`BOOT_UPD_STAT.STATE`). -/
inductive UpdState where
  | idle | verifying | deferred | applying | persisting | committing
  deriving DecidableEq, Repr

/-- Boot, live update, fuses and attestation (chapter 16). `network` is the value of the NETWORK record, `flashTables` says that
the flash declares valid JESD216 tables, `updSlot` is the slot a persist writes (0xFF none), `atts` the attestation requests in
the queue: address, time of arrival, bytes. -/
structure Boot where
  state : Nat
  slotB : Bool
  fallback : Bool
  reasonA : Nat
  reasonB : Nat
  skipped : Nat
  sequence : Nat
  svn : Nat
  manifestDigest : Nat
  locked : Bool
  elapsed : Nat
  boots : Nat
  feed : Nat
  network : List Byte
  flashTables : Bool
  fwMin : Nat
  mirrorMin : Nat
  jobs : List (List Byte)
  jobStarted : Nat
  upd : UpdState
  updCore : Nat
  updAddr : Nat
  updFlags : Nat
  updBundle : List Byte
  updCores : Nat
  updTodo : List Nat
  updApplied : Nat
  updRolled : Nat
  updSlot : Nat
  updMaxDefer : Nat
  updStart : DWord
  watch : Option Nat
  supRestart : Bool
  pauseAsked : Bool
  rootHash : List Nat
  revoke : Nat
  svnCount : Nat
  serial : DWord
  identSet : Bool
  identKey : List Byte
  endorse : List Byte
  atts : List (Nat × DWord × List Byte)
  serviceMode : Bool
  accepted : Tab Nat
  deriving DecidableEq, Repr

/-- The selector and configuration registers that no other field holds. -/
structure Sel where
  rateWin : Nat
  ltimeSource : Nat
  ltimeEpoch : Nat
  sorCh : Nat
  numCtx : Nat
  qCtx : Nat
  qQueue : Nat
  ptnHandle : Nat
  ptnDie : Nat
  attrPage : Nat
  attrPtn : Nat
  stream : Nat
  request : Nat
  payload : Nat
  schedMargin : Nat
  beSlice : Nat
  ptnArbCfg : Nat
  ptnStarve : Nat
  dmaThreshold : Nat
  dmaStarve : Nat
  deriving DecidableEq, Repr

/-- The pins of CTL and SMB (Table 18-2) that the module drives or samples. -/
structure Pins where
  pwrGood : Bool
  presentN : Bool
  alertN : Bool
  rstN : Bool
  svcEn : Bool
  strap : Nat
  deriving DecidableEq, Repr

/-- The block: its units, its memory, what it has sent, and the commands that wait. `netHeld` are the messages of `netOut` whose
priority a PFC frame has paused (R292); `lines` the lines that the memory-side caches hold, the least recently used first (R191, R193). `free` counts the free values
drawn so far: it is the model's own, no state of the spec. -/
structure State where
  variant : Variant
  pending : List Instr
  mem : Memory
  free : Nat
  events : Tab EventReg
  domains : Tab Domain
  cores : Tab Core
  groups : Tab Group
  quads : Tab Quadrant
  arrays : Tab Arr
  contexts : Tab Context
  ctxHandles : HandleTable
  ptns : Tab Partition
  ptnHandles : HandleTable
  granules : Tab Nat
  batch : Option Batch
  jobs : Tab Job
  jobHandles : HandleTable
  channels : Tab Channel
  chanHandles : HandleTable
  hbm : Tab Stack
  pcs : Tab Pc
  attrs : Tab Nat
  dmas : Tab DmaEngine
  links : Tab Link
  delivered : List Delivered
  streams : Tab Stream
  streamHandles : HandleTable
  engines : Tab MediaEngine
  hotset : Tab HotEntry
  tests : Tab (List TestReq)
  instances : Tab Instance
  requests : Tab Request
  reqHandles : HandleTable
  adapters : Tab Adapter
  adpHandles : HandleTable
  rings : Tab Ring
  ringHandles : HandleTable
  published : List Published
  ports : Tab Port
  net : Net
  collectives : List Collective
  ckp : Ckp
  sesHandles : HandleTable
  flt : Flt
  pwr : Pwr
  plk : Plk
  boot : Boot
  sel : Sel
  pins : Pins
  out : List OutMsg
  netOut : List NetMsg
  netHeld : List NetMsg
  ctl : List CtlMsg
  lines : List CacheLine
  deriving DecidableEq, Repr

/-! The entry of each table at reset: the register tables' reset values, and the values of log entry 3 where they give none. -/

/-- Enable bits of event register `ev` at reset; `ev` is its bit in `GLB_INT_PEND` (R419). -/
def eventEnableReset (ev : Nat) : Nat :=
  if ev < 15 then
    [0b1100, 0, 0b0110, 0b11101, 0b111, 0b110011, 0b1001100110, 0b1110000, 0b10111111, 0b11011110110,
      0b11101100, 0b11011100101, 0b0111100, 0b1100111, 0b10].getD ev 0
  else if ev < 48 then 0b11010
  else 0b111010

/-- Event register `ev` at reset. -/
def EventReg.reset (ev : Nat) : EventReg :=
  { value := 0, enable := eventEnableReset ev, pending := false, holding := false, cause := none,
    payload := false }

/-- A domain at reset. -/
def Domain.reset : Domain :=
  { state := .opened, epoch := 0, time := 0, fences := 0, resets := 0, fenceAcks := [], epochAcks := [],
    ready := false, offAfter := false, requested := false, record := 0, level := 0, restarted := false, resetAt := 0, fencedAt := 0, fencedEpoch := 0, lastRecord := 0, powering := false,
    shadow := [], power := .off, railMv := 0, powerDw := 0, wear := 0, eolHours := 0, stress := 0, stressFrac := 0,
    kSum := 0, kCount := 0 }

/-- A control core at reset. -/
def Core.reset : Core :=
  { time := 0, restarted := false, current := 0, previous := 0, previousValid := false, updated := false, previousUpdated := false, proto := 0, previousProto := 0,
    rollbacks := 0, restarts := 0 }

/-- A group at reset. -/
def Group.reset : Group :=
  { req := 2, ceil := 3, grant := 2, op := 0, target := 0, pending3 := false, hot := false, tripped := false,
    lastTrip := none, left := false, schedEnable := false, schedAddr := 0, schedNew := false, active := false,
    refused := false, table := [], slot := 0, frames := 0, resume := none, lateStarts := 0, worstLate := 0,
    lastCritical := 511, lastBestEffort := 511 }

/-- A quadrant at reset. -/
def Quadrant.reset : Quadrant :=
  { rate := 0, busy := 0, op := 0, valid := false, tj := 0, winEnd := 0, window := 100, holder := none, reserved := none, handing := false,
    lend := false, behind := none, lateSince := none, extension := 0, ended := none, borrowed := false, retired := false, issueWaves := 0, waitOperand := 0, waitSpace := 0, edgeWaves := 0, ce := 0,
    ue := 0, ovfRetries := 0, overflows := 0, maxTag := 0 }

/-- An unloaded row-store half. -/
def Half2.reset : Half2 := { loaded := false, owner := 0, load := none }

/-- A FREE slot; its tag is 0 (R100). -/
def AccSlot.reset : AccSlot := { state := .free, owner := 0, tag := 0 }

/-- An array at reset. -/
def Arr.reset : Arr :=
  { halves := [Half2.reset, Half2.reset], slots := [AccSlot.reset, AccSlot.reset, AccSlot.reset, AccSlot.reset],
    bound := [], drains := [], lastStatus := .ok, lastRetries := 0, lastDone := 0, ceFlag := false, ueFlag := false,
    ueCount := 0, hangs := [], retired := false }

/-- An unconfigured queue (R238, Table 6-1). -/
def Queue.reset : Queue :=
  { ringLog2 := 0, ringAddr := 0, cringLog2 := 0, cringAddr := 0, quads := 0, tail := 0, head := 0, done := 0,
    chead := 0, ctail := 0, window := 0, state := .idle, lastStatus := .ok, haltedAt := 0, reissues := 0,
    stepGate := false, gateFrom := 0, gateBad := 0, gateSeen := false, gateWindow := 0, passing := false,
    gateMax := -128, gateDraws := 0, updating := false, asQueued := [], stepFrom := 0, stepWindow := 0, cmds := [], chain := [] }

/-- A context index that names no context. -/
def Context.reset : Context :=
  { state := .free, ptn := 0, critical := false, tx2 := false, quads := 0, scrFirst := 0, scrCount := 0, image := 0,
    imagePages := 0, held := 0, lastReason := 0, preemptions := 0, destroyAt := [], hasImage := false, imageQuads := [], imageDies := [], resident := 0,
    wait := .none, after := .saved, step := 0,
    sync := [0, 0, 0, 0, 0, 0, 0, 0],
    queues := [Queue.reset, Queue.reset, Queue.reset, Queue.reset], descAddr := 0, descCount := 0, seed := 0,
    escHold := 256, lrRecover := 2000, ltabAddr := 0, ltabCount := 0, lrH := 0, clean := 0, sinceRecover := 0,
    escalations := 0, skipped := 0, draws := 0, drawCursor := 0, layerReports := [], descended := [], heldNow := [], losses := [], skipReq := false,
    stepStatus := 0, captureDue := false, ringLog2 := 0, ringAddr := 0, ringTail := 0, ringHead := 0, ringTag := 0, attempt := 0,
    susp := [], suspDrains := [], suspLoads := [], dropArrays := false, atStep := true, barred := false, point := none }

/-- A FREE Sorus slot with an empty header. -/
def SorSlot.reset : SorSlot :=
  { state := .free, cursor := 0, step := 0, seq := 0, valid := 0, flags := 0, epoch := 0, producer := 0,
    discard := false }

/-- A stack at reset. -/
def Stack.reset : Stack :=
  { state := .active, temp := 0, retired := 0, ce := 0, ue := 0, retireAt := 16, threshold := 64, starve := 0,
    allocRd := 2 ^ 32 - 1, allocWr := 2 ^ 32 - 1 }

/-- A pseudo-channel at reset. -/
def Pc.reset : Pc := { ue := 0, powerDown := false, parity := false, borrowed := false }

/-- A DMA engine at reset. -/
def DmaEngine.reset : DmaEngine := { busy := false, ctx := 0, q := 0, idx := 0, bytes := 0, grants := 0, next := none, waits := [] }

/-- An arbiter that has granted nothing. -/
def RzArb.reset : RzArb := { last := 64, holder := none, waits := [] }

/-- A link direction at reset. -/
def LinkDir.reset : LinkDir := { bad := [], util := 0, store := [], wait := [], arb := RzArb.reset, escArb := RzArb.reset }

/-- A link at reset. -/
def Link.reset : Link :=
  { state := .up, replays := 0, retrains := 0, recent := [], low := LinkDir.reset, high := LinkDir.reset,
    holding := false, detour := false, borrowed := false, steps := [] }

/-- A decode engine at reset. -/
def MediaEngine.reset : MediaEngine :=
  { busy := false, codec := 0, stream := 0, position := 0, epoch := 0, borrowed := false }

/-- An Ethernet port at reset. -/
def Port.reset : Port := { state := 0, cnp := 0, retrans := 0, pauseTx := 0, paused := 0 }

/-- A queue pair before its first packet: line rate. -/
def Qp.reset : Qp := { rateNum := 64, rateHalf := 0, retries := 0, failed := false, cnpTx := none, cnpRx := none }

/-- The group view of a module without a roster (R290). -/
def Net.reset : Net :=
  { state := .solo, self := 0, master := 0, deputy := 0, term := 0, gen := 0, version := 0, step := 0, groupId := 0,
    protoMin := 0, replicas := 0, stages := 0, crc := 0, qpnBase := 0, members := [], reports := [], record := none,
    sentToDeputy := false, misses := [], answers := [], stopped := false, holdFor := none, unsettled := [], notices := [], restoreTo := none,
    pcp := 6 + 5 * 16 + 4 * 256 + 3 * 4096 + 0x70 * 65536, mbrSel := 0, crSel := 0, roster := [], qps := [] }

/-- Checkpointing at reset. -/
def Ckp.reset : Ckp :=
  { ptn := 0, interval := 0, ackMs := 10, connections := 2, limitS := 10, reserveFirst := 0, reservePages := 0,
    logFirst := 0, logPages := 0, lsn := 0, flushed := 0, durableLsn := 0, logHeld := [], stepSkips := 0, endLsn := 0, ckptLsn := 0, regionCount := 0, regionAddr := 0,
    state := .none, ident := 0, step := 0, requested := false, due := false, dueStep := 0, full := false, forced := false, cut := false, logPtn := 0, captureHeld := [], implicit := [], chans := [], replay := none, restoreDue := false, opening := none,
    shards := [], lastStreamed := 0, manifestSent := false, durableId := 0, durableStep := 0, mirror := .none,
    retry := false, candidate := 0, candidates := [], lastStatus := .ok, partnerFeed := 0, session := 0, storePtn := 0,
    storeFirst := 0, storePages := 0, served := [], reserve := [], copyMap := [], copying := [], held := [] }

/-- Fault handling at reset (Table 13-1). -/
def Flt.reset : Flt :=
  { fatal := false, windows := [50, 200, 500, 2000, 10000, 20000], records := [], nextId := 1, overwritten := 0,
    recSel := 0, dumps := [], nextDump := 1, dumpAuto := true, dumpScope := 1, dumpDest := 0, busy := none, stale := [],
    arrUe := 4, hangs := 2, hours := 24, quadLimit := 16, warm := false }

/-- Power and cooling at reset. No context is dispatched before the store is charged (R367). -/
def Pwr.reset : Pwr :=
  { cap := 3200, inputW := 0, inputDv := 0, inputDa := 0, holdJ := 0, fullJ := 0, onHoldup := false, holding := false,
    dispatchHeld := true, tjTarget := 70, hbmTarget := 85, inletMax := 45, tjHot := 100, valveMin := 100,
    valve := 80000000000, integ10 := 0, err := 0, pos := 0, inlet := 0, outlet := 0, tjMax := 0, reqDomain := 0,
    reqBusy := false, reqStatus := .ok, autoOff := false, dWarn := 450, dEol := 600, cooling := false,
    wearStore := [], heldOff := [] }

/-- Puchlink at reset: DOWN (`PLK_STAT`). -/
def Plk.reset : Plk :=
  { state := .down, version := 0, width := 0, lanes := 0, good := 15, allow := 7, lastStatus := .ok,
    failedTrainings := 0, rxNext := 0, roundOpen := false, rxSlots := [], txNext := 0, txAcked := 0, txReplays := 0, sinceIdle := 0, waiting := [],
    recent := [], creditPw := 0, creditNp := 0, creditMgt := 0, checkErr := 0, replays := 0, retrains := 0,
    trainings := 0, rejOffset := 0, rejStatus := .ok, rejMem := false, rejValid := false, rejCount := 0,
    memReject := 0, holdoff := 0, corrUncert := 0, corrRound := 0, corrValid := false, rdTimeout := 50, reads := [],
    writes := [], nextTag := 0, nextWrite := 0, pings := [], best := none, supRestarted := false }

/-- Boot at reset: the supervisor in its ROM, the lock clear (R398). -/
def Boot.reset : Boot :=
  { state := 0, slotB := false, fallback := false, reasonA := 0, reasonB := 0, skipped := 0, sequence := 0, svn := 0,
    manifestDigest := 0, locked := false, elapsed := 0, boots := 0, feed := 0, network := [], flashTables := true, fwMin := 0, mirrorMin := 0, jobs := [],
    jobStarted := 0, upd := .idle, updCore := 0, updAddr := 0, updFlags := 0, updBundle := [], updCores := 0,
    updTodo := [], updApplied := 0, updRolled := 0, updSlot := 0xFF, updMaxDefer := 0, updStart := 0, watch := none, supRestart := false,
    pauseAsked := false, rootHash := [], revoke := 0, svnCount := 0, serial := 0, identSet := false, identKey := [],
    endorse := [], atts := [], serviceMode := false, accepted := [] }

/-- The selector and configuration registers at reset. -/
def Sel.reset : Sel :=
  { rateWin := 100, ltimeSource := 92, ltimeEpoch := 0, sorCh := 0, numCtx := 0, qCtx := 0, qQueue := 0,
    ptnHandle := 0, ptnDie := 0, attrPage := 0, attrPtn := 0, stream := 0, request := 0, payload := 0,
    schedMargin := 10, beSlice := 2000, ptnArbCfg := 64 + 64 * 256, ptnStarve := 0, dmaThreshold := 64, dmaStarve := 0 }

/-- The pins at reset: PWR_GOOD low, PRESENT_N tied to ground (R420), no alert, open straps (Sideband). -/
def Pins.reset : Pins :=
  { pwrGood := false, presentN := false, alertN := true, rstN := true, svcEn := false, strap := 7 }

/-- A handle kind none of whose indexes has been used (R344). -/
def HandleTable.reset : HandleTable := { next := 0, freed := [], gens := [] }

/-- The block right after power-on reset, before the supervisor boots it. -/
def State.reset : State :=
  { variant := .full, pending := [], mem := { cells := [], undef := [] }, free := 0, events := [], domains := [],
    cores := [], groups := [], quads := [], arrays := [], contexts := [], ctxHandles := HandleTable.reset, ptns := [],
    ptnHandles := HandleTable.reset, granules := [], batch := none, jobs := [], jobHandles := HandleTable.reset,
    channels := [], chanHandles := HandleTable.reset, hbm := [], pcs := [], attrs := [], dmas := [], links := [],
    delivered := [], streams := [], streamHandles := HandleTable.reset, engines := [], hotset := [], tests := [],
    instances := [], requests := [], reqHandles := HandleTable.reset, adapters := [],
    adpHandles := HandleTable.reset, rings := [], ringHandles := HandleTable.reset, published := [], ports := [],
    net := Net.reset, collectives := [], ckp := Ckp.reset, sesHandles := HandleTable.reset, flt := Flt.reset,
    pwr := Pwr.reset, plk := Plk.reset, boot := Boot.reset, sel := Sel.reset, pins := Pins.reset, out := [],
    netOut := [], netHeld := [], ctl := [], lines := [] }

end Sys2Proof.Machine
end

