-- ==== Sys2Proof/Machine/Bits.lean ====
section
/-! DEFINITION. Bit fields, byte order and sparse tables: the small operations that everything else uses. -/

namespace Sys2Proof.Machine

/-- Bits `hi` to `lo` of a word (R6). -/
def fld (v hi lo : Nat) : Nat := v / 2 ^ lo % 2 ^ (hi + 1 - lo)

/-- Bit `i` of a word as a truth value. -/
def bitAt (v i : Nat) : Bool := v / 2 ^ i % 2 == 1

/-- A word with bits `hi` to `lo` replaced. -/
def setFld (v hi lo x : Nat) : Nat := v - fld v hi lo * 2 ^ lo + x % 2 ^ (hi + 1 - lo) * 2 ^ lo

/-- The word that a list of (position, value) fields makes. -/
def pack : List (Nat × Nat) → Nat
  | [] => 0
  | (p, v) :: r => v * 2 ^ p + pack r

/-- A truth value as a bit. -/
def b2n (b : Bool) : Nat := if b then 1 else 0

/-- The set bits of a mask below `n`, ascending. -/
def members (mask n : Nat) : List Nat := (List.range n).filter (bitAt mask)

/-- The mask of a list of numbers. -/
def maskOf : List Nat → Nat
  | [] => 0
  | i :: r => 2 ^ i ||| maskOf r

/-- The number of set bits below `n`. -/
def popcount (mask n : Nat) : Nat := (members mask n).length

/-- A count of `w` bits that saturates. -/
def satAdd (w a b : Nat) : Nat := Nat.min (2 ^ w - 1) (a + b)

/-- `n` bytes of a value, least significant first (R7). -/
def leBytes : Nat → Nat → List Byte
  | 0, _ => []
  | n + 1, v => BitVec.ofNat 8 v :: leBytes n (v / 256)

/-- The value of bytes, least significant first (R7). -/
def ofLe : List Byte → Nat
  | [] => 0
  | b :: r => b.toNat + 256 * ofLe r

/-- A `w`-bit value read as a two's complement number. -/
def toSigned (w v : Nat) : Int := if v % 2 ^ w < 2 ^ (w - 1) then (v % 2 ^ w : Nat) else (v % 2 ^ w : Nat) - (2 ^ w : Nat)

/-- An integer as a `w`-bit two's complement word. -/
def ofSigned (w : Nat) (i : Int) : Nat := (i % (2 ^ w : Nat)).toNat

/-- `n` zero bytes. -/
def zeros (n : Nat) : List Byte := List.replicate n 0

/-- The `n` bytes of a list at an offset, zero beyond its end. -/
def slice (l : List Byte) (off n : Nat) : List Byte :=
  let t := (l.drop off).take n
  t ++ zeros (n - t.length)

/-- The little-endian value of the `n` bytes of a list at an offset. -/
def le (l : List Byte) (off n : Nat) : Nat := ofLe (slice l off n)

/-- The value rounded up to a multiple of `m`. -/
def roundUp (v m : Nat) : Nat := (v + m - 1) / m * m

/-- ⌈a / b⌉. -/
def ceilDiv (a b : Nat) : Nat := (a + b - 1) / b

/-- The entry of index `k`, if the table lists it. -/
def tget (t : Tab α) (k : Nat) : Option α :=
  match t with
  | [] => none
  | (j, a) :: r => if j = k then some a else tget r k

/-- The table with entry `k` set. -/
def tput (t : Tab α) (k : Nat) (a : α) : Tab α :=
  match t with
  | [] => [(k, a)]
  | (j, b) :: r => if k < j then (k, a) :: (j, b) :: r else if k = j then (k, a) :: r else (j, b) :: tput r k a

/-- The table without entry `k`. -/
def tdel (t : Tab α) (k : Nat) : Tab α :=
  match t with
  | [] => []
  | (j, b) :: r => if j = k then tdel r k else (j, b) :: tdel r k

/-- The entry of index `k`, or the entry an unlisted index has. -/
def tgetD (t : Tab α) (k : Nat) (d : α) : α := (tget t k).getD d

/-- A table with entry `k` changed, if it is listed. -/
def tmod (t : Tab α) (k : Nat) (f : α → α) : Tab α :=
  match tget t k with
  | some a => tput t k (f a)
  | none => t

/-- A table with every entry changed. -/
def tmap (f : Nat → α → α) (t : Tab α) : Tab α := t.map fun p => (p.1, f p.1 p.2)

/-- Whether a table lists an index. -/
def thas (t : Tab α) (k : Nat) : Bool := (tget t k).isSome

/-- The lowest of `n` indexes that a table does not list. -/
def lowestFree (t : Tab α) (n : Nat) : Option Nat := (List.range n).find? fun i => !thas t i

/-- `x` set into a sorted list, before the first element it does not come after. -/
def sortInsert {α : Type} (le : α → α → Bool) (x : α) : List α → List α
  | [] => [x]
  | y :: l => if le x y then x :: y :: l else y :: sortInsert le x l

/-- A list in the order of `le`, equal elements staying in the order they had. -/
def sortBy {α : Type} (le : α → α → Bool) (l : List α) : List α := l.foldr (sortInsert le) []

/-- A list with the entry at a position replaced. -/
def lset (l : List α) (i : Nat) (a : α) : List α := l.set i a

/-- A list with the entry at a position changed. -/
def lmod (l : List α) (i : Nat) (f : α → α) : List α :=
  match l[i]? with
  | some a => l.set i (f a)
  | none => l

/-- The codes of Table 0-6. -/
def Status.code : Status → Nat
  | .ok => 0x00
  | .deferred => 0x01
  | .preempted => 0x02
  | .retryLater => 0x03
  | .domainReset => 0x04
  | .staleEpoch => 0x05
  | .refusedCapacity => 0x06
  | .refusedInfeasible => 0x07
  | .deadlineMissed => 0x08
  | .contextFault => 0x09
  | .nonfiniteStep => 0x0A
  | .digestMismatch => 0x0B
  | .mirrorSameFeed => 0x0C
  | .unitAbsent => 0x0D
  | .versionUnsupported => 0x0E
  | .unreachable => 0x0F
  | .cursorRealigned => 0x10
  | .testDeferred => 0x11
  | .testRefused => 0x12
  | .handleStale => 0x13
  | .formatEscalated => 0x14
  | .accOverflow => 0x15

/-- The place of a code in the order of R15; codes of the unit that did the work come last. -/
def Status.rank : Status → Nat
  | .unitAbsent => 0
  | .versionUnsupported => 1
  | .handleStale => 2
  | .retryLater => 3
  | .domainReset => 4
  | .ok => 6
  | _ => 5

/-- The first that applies of the statuses of some checks, in the order of R15; OK with none. -/
def firstStatus (l : List (Bool × Status)) : Status :=
  l.foldl (fun acc p => if p.1 && p.2.rank < acc.rank then p.2 else acc) .ok

/-- The groups of a variant (Table 0-1). -/
def Variant.groups : Variant → Nat
  | .full | .noMedia => 8
  | .reduced => 6

/-- Whether media die `m` is present (Table 0-1). -/
def Variant.media : Variant → Nat → Bool
  | .full, m => m < 2
  | .noMedia, _ => false
  | .reduced, m => m == 0

/-- Whether the shuffle and serving engines are present (Table 0-1). -/
def Variant.serving : Variant → Bool
  | .noMedia => false
  | _ => true

/-- Whether group `g` is present. -/
def Variant.group (v : Variant) (g : Nat) : Bool := g < v.groups

/-- Whether quadrant 4 × group + quadrant is present. -/
def Variant.quad (v : Variant) (k : Nat) : Bool := k < 4 * v.groups

/-- Whether stack `k` is present. -/
def Variant.stack (v : Variant) (k : Nat) : Bool := k < 2 * v.groups

/-- Whether decode engine `e` is present. -/
def Variant.engine (v : Variant) (e : Nat) : Bool := v.media (e / 12)

/-- Whether the die with a die id of R46 is present. -/
def Variant.die (v : Variant) (d : Nat) : Bool :=
  if d < 8 then v.group d else if d < 10 then v.media (d - 8) else d < 12

/-- Whether domain PDd exists (R5, Table 0-1, Table 14-1). -/
def Variant.domain (v : Variant) (d : Nat) : Bool :=
  if d < 56 then v.group (d / 7) else if d < 72 then v.stack (d - 56) else if d < 76 then v.media ((d - 72) / 2) else d < 80

/-- The domains present. -/
def Variant.domainList (v : Variant) : List Nat := (List.range 80).filter v.domain

/-- Whether control core `c` of Table 16-5 is present. -/
def Variant.core (v : Variant) (c : Nat) : Bool :=
  if c < 8 then v.group c else if c < 10 then v.media (c - 8) else c < 13

/-- The domain of control core `c` (Table 16-5). -/
def coreDomain (c : Nat) : Nat :=
  if c < 8 then 7 * c + 6 else if c = 8 then 72 else if c = 9 then 74 else if c = 10 then 76 else if c = 11 then 77 else 78

/-- The domain of quadrant 4 × group + quadrant. -/
def quadDomain (k : Nat) : Nat := 7 * (k / 4) + k % 4

/-- The domain of a base die's SRAM: scratchpad, Sorus slice, cache, attribute RAM, copier. -/
def sramDomain (n : Nat) : Nat := 7 * n + 4

/-- The domain of a base die's fabric: router, DMA engines, queue engine, save engine. -/
def fabricDomain (n : Nat) : Nat := 7 * n + 5

/-- The domain of a stack's controller. -/
def stackDomain (k : Nat) : Nat := 56 + k

/-- The dies that Rhizome link `l` joins, the lower id first (Table 2-2). -/
def linkEnds (l : Nat) : Nat × Nat :=
  [(0, 1), (2, 3), (4, 5), (6, 7), (0, 2), (1, 3), (4, 6), (5, 7), (0, 4), (1, 5), (2, 6), (3, 7), (0, 10), (4, 10),
    (0, 8), (4, 8), (2, 11), (6, 11), (2, 9), (6, 9), (8, 10), (9, 11)].getD l (0, 0)

/-- Whether link `l` exists in the variant: both of its dies do. -/
def Variant.link (v : Variant) (l : Nat) : Bool := l < 22 && v.die (linkEnds l).1 && v.die (linkEnds l).2

/-- The fabric domain of a die id: where its link ends lie (Table 14-1). -/
def dieDomain (d : Nat) : Nat :=
  if d < 8 then fabricDomain d else if d = 8 then 72 else if d = 9 then 74 else if d = 10 then 76 else 77

/-- The die id of a domain (R46); a compute die carries the id of its base die, PD78 and PD79 that of E1. -/
def domainDie (d : Nat) : Nat :=
  if d < 56 then d / 7 else if d < 72 then (d - 56) / 2 else if d < 74 then 8 else if d < 76 then 9 else if d = 76 then 10
  else 11

end Sys2Proof.Machine
end

