-- ==== Sys2Proof/Machine/Ops.lean ====
section
/-! DEFINITION. The named operations over the state: byte storage, device addresses and their checks, handles, domains,
events and interrupts, local times, and the outcome of a command. -/

namespace Sys2Proof.Machine

/-! ### Byte storage -/

/-- Whether a range of undefined bytes covers a key. -/
def UndefRange.covers (r : UndefRange) (k : Nat) : Bool := decide (r.lo ≤ k ∧ k < r.hi)

/-- The byte at a key: what is listed; a free value where the spec leaves it undefined; otherwise 0 (log entry 5). -/
def Memory.read (m : Memory) (k : Nat) : Byte :=
  match tget m.cells k with
  | some b => b
  | none =>
    match m.undef.find? (fun r => r.covers k) with
    | some r => Config.freeByte r.seed (r.base + (k - r.lo))
    | none => 0

/-- What is left of an undefined range outside keys `lo` to `hi - 1`. -/
def UndefRange.cut (r : UndefRange) (lo hi : Nat) : List UndefRange :=
  if hi ≤ r.lo ∨ r.hi ≤ lo then [r]
  else
    (if r.lo < lo then [{ r with hi := lo }] else []) ++
    (if hi < r.hi then [{ r with lo := hi, base := r.base + (hi - r.lo) }] else [])

/-- What lies of an undefined range inside keys `lo` to `hi - 1`. -/
def UndefRange.clip (r : UndefRange) (lo hi : Nat) : List UndefRange :=
  if hi ≤ r.lo ∨ r.hi ≤ lo ∨ hi ≤ lo then []
  else [{ lo := Nat.max r.lo lo, hi := Nat.min r.hi hi, seed := r.seed, base := r.base + (Nat.max r.lo lo - r.lo) }]

/-- Bytes `lo` to `hi - 1` read as 0. -/
def Memory.clear (m : Memory) (lo hi : Nat) : Memory :=
  if lo < hi then
    { cells := m.cells.filter (fun c => !(decide (lo ≤ c.1 ∧ c.1 < hi))), undef := m.undef.flatMap (fun r => r.cut lo hi) }
  else m

/-- Bytes `lo` to `hi - 1` become undefined: free values of `seed`. -/
def Memory.undefine (m : Memory) (lo hi seed : Nat) : Memory :=
  if lo < hi then
    let c := m.clear lo hi
    { c with undef := { lo := lo, hi := hi, seed := seed, base := lo } :: c.undef }
  else m

/-- One byte written. -/
def Memory.write (m : Memory) (k : Nat) (b : Byte) : Memory :=
  let c := m.clear k (k + 1)
  if b = 0 then c else { c with cells := tput c.cells k b }

/-- Bytes written at ascending keys. -/
def Memory.writeAll (m : Memory) (k : Nat) : List Byte → Memory
  | [] => m
  | b :: r => (m.write k b).writeAll (k + 1) r

/-- `n` bytes at ascending keys. -/
def Memory.readAll (m : Memory) (k n : Nat) : List Byte := (List.range n).map fun i => m.read (k + i)

/-- Bytes `src` to `src + n - 1` copied to `dst`, undefined ones with their free values. The spans do not overlap. -/
def Memory.copy (m : Memory) (src dst n : Nat) : Memory :=
  let c := m.clear dst (dst + n)
  let moved := (m.cells.filter (fun c => decide (src ≤ c.1 ∧ c.1 < src + n))).map fun c => (c.1 - src + dst, c.2)
  let und := (m.undef.flatMap (fun r => r.clip src (src + n))).map fun r =>
    { r with lo := r.lo - src + dst, hi := r.hi - src + dst }
  { cells := moved.foldl (fun t c => tput t c.1 c.2) c.cells, undef := und ++ c.undef }

/-- The canonical form: keys rising, no zero byte listed, no listed key in an undefined range, undefined ranges not
empty and apart. -/
def Memory.wf (m : Memory) : Bool :=
  decide (m.cells.Pairwise (fun a b => a.1 < b.1)) &&
  m.cells.all (fun c => decide (c.2 ≠ 0) && !m.undef.any (fun r => r.covers c.1)) &&
  m.undef.all (fun r => decide (r.lo < r.hi)) &&
  decide (m.undef.Pairwise (fun a b => a.hi ≤ b.lo ∨ b.hi ≤ a.lo))

/-! ### Where each place lies among the keys -/

/-- Frames of a pseudo-channel (R180). -/
def framesPerPc : Nat := 34332

/-- A frame's number among all frames. -/
def frameNo (g frame : Nat) : Nat := g * framesPerPc + frame

/-- The key of an HBM byte: frame number and offset in the frame. -/
def hbmKey (frame off : Nat) : Nat := frame * 65536 + off

/-- The key of a scratchpad byte: the partition whose share it lies in, the base die, the offset in the share (R233). -/
def scrKey (ptn die off : Nat) : Nat := 2 ^ 60 + (ptn * 8 + die) * 2 ^ 27 + off

/-- The key of a byte of host memory: what the adapter answers a HOST_RD with (log entry 6). -/
def hostKey (a : Nat) : Nat := 2 ^ 64 + a

/-- The key of a byte of a Sorus slot's payload. -/
def sorKey (chan slot off : Nat) : Nat := 2 ^ 68 + (chan * 16 + slot) * 2 ^ 26 + off

/-- The key of a byte of a row-store half (R69). -/
def rowKey (arr half off : Nat) : Nat := 2 ^ 72 + (arr * 2 + half) * 2 ^ 14 + off

/-- The key of a byte of an accumulator slot's tile: 4,096 P48 elements of 6 bytes (R80, R95). -/
def accKey (arr slot off : Nat) : Nat := 2 ^ 76 + (arr * 4 + slot) * 2 ^ 15 + off

/-- The key of a byte of the boot flash (R389). -/
def flashKey (a : Nat) : Nat := 2 ^ 80 + a

/-- The key of a byte of a crash dump buffer (R350). -/
def dumpKey (buf off : Nat) : Nat := 2 ^ 84 + buf * 2 ^ 18 + off

/-! ### Messages to the host (Table 15-5, R377 to R379) -/

/-- The class of a message: 0 PW, 1 NP, 2 CPL, 3 MGT; 4 for what is no message. -/
def OutMsg.cls : OutMsg → Nat
  | .hostWr _ _ _ | .intr _ _ _ _ _ _ _ | .timeCorr _ _ => 0
  | .hostRd _ _ _ => 1
  | .cpl _ _ _ => 2
  | .timePing _ | .linkUp _ _ | .fatal _ => 3
  | .nak _ | .ack _ | .credits _ _ | .replay _ | .idle | .sideband _ => 4

/-- The slots of a message: its header and its data (Table 15-4). -/
def OutMsg.slots : OutMsg → Nat
  | .cpl _ _ d | .hostWr _ _ d => 1 + ceilDiv d.length 16
  | .intr _ _ _ _ _ _ _ => 2
  | .timeCorr _ r => 1 + ceilDiv (24 * (1 + r.length)) 16
  | _ => 1

/-- Sending the waiting messages in order: what has been sent, what is kept, the HOST_RDs outstanding, and which classes
must wait behind a message that is kept. -/
structure Pump where
  plk : Plk
  out : List OutMsg
  kept : List OutMsg
  rd : Nat
  pw : Bool
  np : Bool
  mgt : Bool
  full : Bool

/-- One message is sent if credits for its whole length are held and the replay store takes its flits; else it is kept
(R377, R378). An NP or a CPL does not pass a PW that waits (R379). Each message begins a flit of its own
(DESIGN CHOICE, log entry 42). An IDLE flit goes first where 4,096 flits would otherwise pass without one (R373). -/
def Pump.take (x : Pump) (m : OutMsg) : Pump :=
  let n := m.slots
  let flits := ceilDiv n 15
  let room := decide ((x.plk.txNext + 4096 - x.plk.txAcked) % 4096 + flits ≤ 128)
  let may := match m.cls with
    | 0 => !x.pw && decide (n ≤ x.plk.creditPw)
    | 1 => !x.pw && !x.np && decide (0 < x.plk.creditNp) && decide (x.rd < if x.plk.version ≥ 2 then 256 else 64)
    | 2 => !x.pw
    | _ => !x.mgt && decide (n ≤ x.plk.creditMgt)
  if room && may && !x.full then
    let last := (x.plk.txNext + flits - 1) % 4096
    let idle := decide (4096 ≤ x.plk.sinceIdle + flits)
    { x with
      plk := { x.plk with
        txNext := (x.plk.txNext + flits) % 4096
        sinceIdle := if idle then flits else x.plk.sinceIdle + flits
        creditPw := if m.cls = 0 then x.plk.creditPw - n else x.plk.creditPw
        creditNp := if m.cls = 1 then x.plk.creditNp - 1 else x.plk.creditNp
        creditMgt := if m.cls = 3 then x.plk.creditMgt - n else x.plk.creditMgt
        writes := match m with
          | .hostWr (some i) _ _ => x.plk.writes.map fun h => if h.ident = i then { h with seq := some last } else h
          | _ => x.plk.writes }
      out := (if idle then x.out ++ [OutMsg.idle] else x.out) ++ [m]
      rd := if m.cls = 1 then x.rd + 1 else x.rd }
  else
    { x with
      kept := x.kept ++ [m]
      pw := x.pw || m.cls == 0
      np := x.np || m.cls == 1
      mgt := x.mgt || m.cls == 3
      full := x.full || !room }

namespace State

/-! ### Entries of the tables -/

def ev (s : State) (e : Nat) : EventReg := tgetD s.events e (EventReg.reset e)
def setEv (s : State) (e : Nat) (r : EventReg) : State := { s with events := tput s.events e r }
def dom (s : State) (d : Nat) : Domain := tgetD s.domains d Domain.reset
def setDom (s : State) (d : Nat) (x : Domain) : State := { s with domains := tput s.domains d x }
def core (s : State) (c : Nat) : Core := tgetD s.cores c Core.reset
def setCore (s : State) (c : Nat) (x : Core) : State := { s with cores := tput s.cores c x }
def group (s : State) (g : Nat) : Group := tgetD s.groups g Group.reset
def setGroup (s : State) (g : Nat) (x : Group) : State := { s with groups := tput s.groups g x }
def quad (s : State) (k : Nat) : Quadrant := tgetD s.quads k Quadrant.reset
def setQuad (s : State) (k : Nat) (x : Quadrant) : State := { s with quads := tput s.quads k x }
def arr (s : State) (a : Nat) : Arr := tgetD s.arrays a Arr.reset
def setArr (s : State) (a : Nat) (x : Arr) : State := { s with arrays := tput s.arrays a x }
def ctx (s : State) (c : Nat) : Context := tgetD s.contexts c Context.reset
def setCtx (s : State) (c : Nat) (x : Context) : State := { s with contexts := tput s.contexts c x }
def stack (s : State) (k : Nat) : Stack := tgetD s.hbm k Stack.reset
def setStack (s : State) (k : Nat) (x : Stack) : State := { s with hbm := tput s.hbm k x }
def pc (s : State) (g : Nat) : Pc := tgetD s.pcs g Pc.reset
def setPc (s : State) (g : Nat) (x : Pc) : State := { s with pcs := tput s.pcs g x }
def attr (s : State) (f : Nat) : Nat := tgetD s.attrs f 0
def setAttr (s : State) (f : Nat) (a : Nat) : State := { s with attrs := if a = 0 then tdel s.attrs f else tput s.attrs f a }
def dmaE (s : State) (e : Nat) : DmaEngine := tgetD s.dmas e DmaEngine.reset
def setDmaE (s : State) (e : Nat) (x : DmaEngine) : State := { s with dmas := tput s.dmas e x }
def rzLink (s : State) (l : Nat) : Link := tgetD s.links l Link.reset
def setRzLink (s : State) (l : Nat) (x : Link) : State := { s with links := tput s.links l x }
def engine (s : State) (e : Nat) : MediaEngine := tgetD s.engines e MediaEngine.reset
def setEngine (s : State) (e : Nat) (x : MediaEngine) : State := { s with engines := tput s.engines e x }
def port (s : State) (p : Nat) : Port := tgetD s.ports p Port.reset
def setPort (s : State) (p : Nat) (x : Port) : State := { s with ports := tput s.ports p x }
def qp (s : State) (n : Nat) : Qp := tgetD s.net.qps n Qp.reset
def setQp (s : State) (n : Nat) (x : Qp) : State := { s with net := { s.net with qps := tput s.net.qps n x } }

/-- Queue `q` of context `c`. -/
def queue (s : State) (c q : Nat) : Queue := (s.ctx c).queues.getD q Queue.reset

/-- The state with queue `q` of context `c` replaced. -/
def setQueue (s : State) (c q : Nat) (x : Queue) : State :=
  let k := s.ctx c
  s.setCtx c { k with queues := k.queues.set q x }

/-! ### Local times -/

/-- Whether a domain runs: it is powered and out of reset (R63). -/
def live (s : State) (d : Nat) : Bool :=
  (s.dom d).power != .off && ((s.dom d).state == .opened || (s.dom d).state == .fenced)

/-- The supervisor's local time. -/
def supTime (s : State) : DWord := (s.core 12).time

/-- The local time of the group controller of group `g`. -/
def groupTime (s : State) (g : Nat) : DWord := (s.core g).time

/-- µs from one reading of a local time to another. -/
def usBetween (a b : DWord) : Nat := (b - a).toNat / 1000

/-! ### Domains -/

/-- Whether the Peristome of a domain is OPEN (Table 13-2). -/
def isOpen (s : State) (d : Nat) : Bool := (s.dom d).state == .opened

/-- `FLT_DOM_STATd.STATE` (Table 13-2): ABSENT for a domain the variant lacks. -/
def domStateCode (s : State) (d : Nat) : Nat :=
  if s.variant.domain d then
    match (s.dom d).state with
    | .opened => 0
    | .fenced => 1
    | .resetting => 2
    | .off => 3
    | .fatal => 4
  else 5

/-! ### Messages, events and interrupts -/

/-- Whether the link can carry messages: ACTIVE, or RETRAIN, which only stalls them (R377). -/
def linkUp (s : State) : Bool := s.plk.state == .active || s.plk.state == .retrain

/-- Send the waiting messages that credits, the replay store and the order of R379 let pass, in order (R377, R378). -/
def pump (s : State) : State :=
  if s.plk.state = .active then
    let rd := s.plk.reads.length - (s.plk.waiting.filter fun m => m.cls == 1).length
    let x := s.plk.waiting.foldl Pump.take
      { plk := s.plk, out := s.out, kept := [], rd := rd, pw := false, np := false, mgt := false, full := false }
    { s with plk := { x.plk with waiting := x.kept }, out := x.out }
  else s

/-- Send a message over Puchlink, at once or when credits and the replay store allow it; a link that is down carries
none. -/
def send (s : State) (m : OutMsg) : State :=
  if s.linkUp then ({ s with plk := { s.plk with waiting := s.plk.waiting ++ [m] } } : State).pump else s

/-- Something that is no message of Puchlink leaves the device: an answer on the sideband. -/
def emit (s : State) (m : OutMsg) : State := { s with out := s.out ++ [m] }

/-- `n` flits that carry no new message are sent: CONTROL flits with an ACK, a NAK or credits, or a replay. An IDLE flit goes first where
4,096 flits would otherwise pass without one (R373). -/
def emitFlits (s : State) (m : OutMsg) (n : Nat) : State :=
  let idle := decide (4096 ≤ s.plk.sinceIdle + n)
  { s with
    plk := { s.plk with sinceIdle := if idle then n else s.plk.sinceIdle + n }
    out := (if idle then s.out ++ [.idle] else s.out) ++ [m] }

/-- The live ports, ascending: those that are UP. -/
def livePorts (s : State) : List Nat := (List.range 8).filter fun p => (s.port p).state == 0

/-- The destination member of a queue pair: even and odd numbers from QPN_BASE name one (R293). -/
def qpPeer (s : State) (q : Nat) : Nat :=
  if s.net.qpnBase ≤ q ∧ q < s.net.qpnBase + 2048 then (q - s.net.qpnBase) / 2 else (Config.peerNumber q).toNat

/-- Server record `n` of a stream's index (Table 8-4). -/
def serverRecord (st : Stream) (n : Nat) : List Byte := slice st.index (0x20 + 32 * n) 32

/-- The server record of an ingest queue pair, where its stream is open (R293). -/
def ingestServer (s : State) (q : Nat) : List Byte :=
  ((tget s.streams ((q - 0x100000) / 256)).map fun st => serverRecord st ((q - 0x100000) % 256)).getD []

/-- Whether a port may carry a connection: an ingest server's PORTS names those that may, 0 all (Table 8-4). -/
def mayCarry (s : State) (q p : Nat) : Bool :=
  let ports := le (s.ingestServer q) 0x18 1
  !(decide (0x100000 ≤ q) && decide (q < 0x200000)) || ports == 0 || bitAt ports p

/-- The port that carries a connection (R295), among those that may (R211); a mirror connection has one by its number (R326). -/
def qpPort (s : State) (q : Nat) : Option Nat :=
  let l := s.livePorts.filter (s.mayCarry q)
  if 0x300000 ≤ q ∧ q < 0x300040 then l[(q - 0x300000) % 8 % Nat.max 1 l.length]?
  else l[(s.net.self + s.qpPeer q) % Nat.max 1 l.length]?

/-- The local queue pair of control traffic with a member (R293). -/
def controlQp (s : State) (m : Nat) : Nat := s.net.qpnBase + 2 * m + 1

/-- The local queue pair of an ingest stream and server record (R293). -/
def ingestQp (stream server : Nat) : Nat := 0x100000 + 256 * stream + server

/-- The local queue pair of a token ring (R293). -/
def ringQp (ring : Nat) : Nat := 0x200000 + ring

/-- The first local queue pair of the mirror sessions (R293). -/
def mirrorQp (s : State) : Nat := 0x300000 + 8 * s.ckp.candidate

/-- Queue pair and priority of a message (R293, R294). A collective takes many queue pairs; a job graph's names no rule. -/
def netRoute (s : State) (m : NetMsg) : Option Nat × Nat :=
  let pcp := s.net.pcp
  let control := fun (dest : Nat) => (some (s.controlQp dest), fld pcp 2 0)
  let mirror := fun (conn : Nat) => (some (s.mirrorQp + conn), fld pcp 10 8)
  match m with
  | .hello _ d _ _ _ _ _ _ | .helloAnswer _ d _ _ | .stepEnd _ d _ _ _ _ | .stepStart _ d _ | .stepStartAck _ d _ _
  | .heartbeat _ d _ | .missReport _ d _ _ | .takeover _ d _ _ | .takeoverAnswer _ d _ _ | .masterState _ d _ _ | .pauseRequest _ d _ _
  | .durable _ d _ _ | .replace _ d _ _ _ => control d
  | .entryRead i n p _ _ _ => (some (ingestQp i n), p)
  | .rdmaRead i n p _ _ _ _ _ => (some (ingestQp i n), p)
  | .rdmaWrite r _ _ => (some (ringQp r), fld pcp 14 12)
  | .cnp q => (some q, fld pcp 2 0)
  | .resend q =>
    (some q, if 0x300000 ≤ q then fld pcp 10 8 else if 0x200000 ≤ q then fld pcp 14 12
      else if 0x100000 ≤ q then le (s.ingestServer q) 1 1 % 8 else if (q - s.net.qpnBase) % 2 = 1 then fld pcp 2 0 else fld pcp 6 4)
  | .collective _ _ _ => (none, fld pcp 6 4)
  | .pfc _ p => (none, p)
  | .graphRead _ => (none, fld pcp 2 0)
  | .shard conn _ => mirror conn
  | .mirrorHello _ _ | .mirrorAnswer _ _ _ | .shardAnswer _ _ _ | .manifest _ | .manifestAck _ | .logRecord _ | .logAck _ _
  | .sessionClose | .pages _ _ _ _ _ _ => mirror 0

/-- Whether a PFC frame has paused a message's priority, which NET_PCP makes PFC-controlled, on the port that carries it (R292); a
PFC frame itself is not held. -/
def netPaused (s : State) (m : NetMsg) : Bool :=
  let r := s.netRoute m
  (match m with
    | .pfc _ _ => false
    | _ => true) && bitAt (fld s.net.pcp 23 16) r.2 && (match r.1 with
    | some q => (s.qpPort q).any fun p => bitAt (s.port p).paused r.2
    | none => !s.livePorts.isEmpty && s.livePorts.all fun p => bitAt (s.port p).paused r.2)

/-- Send a message over Ethernet; behind another of its priority, or where that is paused, it waits at its port (R292). -/
def sendNet (s : State) (m : NetMsg) : State :=
  { s with netOut := s.netOut ++ [m], netHeld := if s.netPaused m then s.netHeld ++ [m] else s.netHeld }

/-- Messages whose priority is no longer paused leave (R292). -/
def releaseNet (s : State) : State := { s with netHeld := s.netHeld.filter s.netPaused }

/-- Send a CTL message. -/
def sendCtl (s : State) (m : CtlMsg) : State := { s with ctl := s.ctl ++ [m] }

end State

/-- The domain that holds event register `e` (Table 17-1); `e` is its bit in `GLB_INT_PEND`. -/
def eventDomain (e : Nat) : Nat :=
  if e = 5 then 72 else if e = 7 then 77 else if e = 8 then 76 else if e = 12 then 77 else if e = 14 then 77
  else if e < 16 then 78 else if e < 48 then quadDomain (e - 16) else stackDomain (e - 48)

/-- The window offset of event register `e`; its enable register follows it. -/
def eventOffset (e : Nat) : Nat :=
  if e < 16 then
    [0x00000B00, 0x02000030, 0x0010E028, 0x0010E160, 0x02100110, 0x04000040, 0x00200300, 0x05000500, 0x06000300,
      0x07000070, 0x08000900, 0x09000078, 0x0A000038, 0x0C000300, 0x0B000208, 0].getD e 0
  else if e < 48 then 0x01000000 + (e - 16) / 4 * 0x00100000 + 0x10 * ((e - 16) % 4)
  else 0x03000000 + (e - 48) * 0x00010000 + 0x48

/-- Send the INTR of event register `e` if an enabled bit reads 1, the latch is clear, no hold-off runs and the domain
is not fenced; one for `PLK_EVENT` waits for the link (R384, `PLK_EVENT_EN`). While PD78 is not open, interrupts pause (Table 15-8). -/
def State.evalEvent (s : State) (e : Nat) : State :=
  let r := s.ev e
  if r.value &&& r.enable = 0 ∨ r.pending = true ∨ r.holding = true ∨ s.isOpen (eventDomain e) = false ∨
      s.isOpen 78 = false ∨ (e = 12 ∧ s.linkUp = false) then s
  else
    let c := if e = 2 ∨ e = 3 then r.cause else none
    let payload := if e = 3 ∧ bitAt r.value 4 = true ∧ r.payload = true then s.sel.payload else 0
    let s1 := s.setEv e { r with pending := true, holding := s.plk.version ≥ 1 && s.plk.holdoff > 0 }
    s1.send (.intr (eventOffset e) c.isSome (c.getD (0, 0)).1 (c.getD (0, 0)).2 r.value payload s.supTime)

/-- Set bit `b` of event register `e` (R384). -/
def State.raiseEv (s : State) (e b : Nat) : State :=
  let r := s.ev e
  (s.setEv e { r with value := r.value ||| 2 ^ b }).evalEvent e

/-- Set bit `b` of event register `e` for a context and queue (Table 15-6). -/
def State.raiseCtx (s : State) (e b c q : Nat) : State :=
  let r := s.ev e
  (s.setEv e { r with value := r.value ||| 2 ^ b, cause := some (c, q) }).evalEvent e

/-! The event registers, by their bits in `GLB_INT_PEND` (R419). -/

def evRz : Nat := 0
def evSor : Nat := 1
def evNum : Nat := 2
def evQ : Nat := 3
def evDma : Nat := 4
def evMed : Nat := 5
def evPtn : Nat := 6
def evSrv : Nat := 7
def evNet : Nat := 8
def evCkp : Nat := 9
def evFlt : Nat := 10
def evPwr : Nat := 11
def evPlk : Nat := 12
def evBoot : Nat := 13
def evSec : Nat := 14
def evArr (quad : Nat) : Nat := 16 + quad
def evHbm (stack : Nat) : Nat := 48 + stack

/-! ### Handles (R12, R13, R344) -/

/-- A handle word. -/
def handleWord (kind gen idx : Nat) : Nat := kind * 2 ^ 28 + gen * 2 ^ 16 + idx

/-- The present generation of an index. -/
def HandleTable.gen (h : HandleTable) (idx : Nat) : Nat := tgetD h.gens idx 1

/-- The next index to take: the one freed least recently, else the lowest never used; none when all are live. -/
def HandleTable.take (h : HandleTable) (limit : Nat) : Option (Nat × HandleTable) :=
  match h.freed with
  | i :: r => some (i, { h with freed := r })
  | [] => if h.next < limit then some (h.next, { h with next := h.next + 1 }) else none

/-- The resource of an index ends: its generation advances, 0xFFF to 1, and the index joins the freed ones. -/
def HandleTable.free (h : HandleTable) (idx : Nat) : HandleTable :=
  let g := h.gen idx
  { h with freed := h.freed ++ [idx], gens := tput h.gens idx (if g ≥ 0xFFF then 1 else g + 1) }

/-- The index a handle names, if it has the kind and the slot's present generation and the slot is live. -/
def HandleTable.index (h : HandleTable) (kind limit : Nat) (alive : Nat → Bool) (v : Nat) : Option Nat :=
  let i := v % 2 ^ 16
  if v / 2 ^ 28 = kind ∧ v < 2 ^ 32 ∧ i < limit ∧ v / 2 ^ 16 % 2 ^ 12 = h.gen i ∧ alive i = true then some i else none

namespace State

def ctxLive (s : State) (c : Nat) : Bool := (s.ctx c).state != .free
def ctxHandle (s : State) (c : Nat) : Nat := handleWord 1 (s.ctxHandles.gen c) c
def ctxOf (s : State) (v : Nat) : Option Nat := s.ctxHandles.index 1 512 s.ctxLive v
def chanHandle (s : State) (c : Nat) : Nat := handleWord 2 (s.chanHandles.gen c) c
def chanOf (s : State) (v : Nat) : Option Nat := s.chanHandles.index 2 1024 (thas s.channels) v
def ringOf (s : State) (v : Nat) : Option Nat := s.ringHandles.index 3 8192 (thas s.rings) v
def ringHandle (s : State) (i : Nat) : Nat := handleWord 3 (s.ringHandles.gen i) i
def streamOf (s : State) (v : Nat) : Option Nat := s.streamHandles.index 4 16 (thas s.streams) v
def streamHandle (s : State) (i : Nat) : Nat := handleWord 4 (s.streamHandles.gen i) i
def adpOf (s : State) (v : Nat) : Option Nat := s.adpHandles.index 5 4096 (thas s.adapters) v
def adpHandle (s : State) (i : Nat) : Nat := handleWord 5 (s.adpHandles.gen i) i
def reqOf (s : State) (v : Nat) : Option Nat := s.reqHandles.index 6 8192 (thas s.requests) v
def reqHandle (s : State) (i : Nat) : Nat := handleWord 6 (s.reqHandles.gen i) i
def ptnOf (s : State) (v : Nat) : Option Nat := s.ptnHandles.index 7 32 (thas s.ptns) v
def ptnHandle (s : State) (i : Nat) : Nat := handleWord 7 (s.ptnHandles.gen i) i
def sesHandle (s : State) (i : Nat) : Nat := handleWord 8 (s.sesHandles.gen i) i

end State

/-! ### Device addresses (R182 to R185) -/

/-- What a device address names. -/
inductive Loc where
  | hbm (ptn off : Nat)
  | scr (isLocal : Bool) (die off : Nat)
  | host (a : Nat)
  | bad
  deriving DecidableEq, Repr

/-- The layout of Table 7-2; a host address has bits [61:56] 0 (R383). -/
def parseAddr (a : Nat) : Loc :=
  if a ≥ 2 ^ 64 then .bad
  else
    match fld a 63 62 with
    | 0 => if fld a 61 53 = 0 then .hbm (fld a 52 48) (fld a 47 0) else .bad
    | 1 => if fld a 61 52 = 0 ∧ fld a 47 27 = 0 then .scr (bitAt a 51) (fld a 50 48) (fld a 26 0) else .bad
    | 2 => if fld a 61 56 = 0 then .host (fld a 55 0) else .bad
    | _ => .bad

/-- The pseudo-channels of a partition, ascending (R183). -/
def Partition.pcList (p : Partition) : List Nat := members p.pcs 512

/-- Pages of a partition's HBM space (R183). -/
def Partition.pages (p : Partition) : Nat := p.pcList.length * framesPerPc

/-- The pseudo-channel and frame of partition page `v` (R183). -/
def Partition.locate (p : Partition) (v : Nat) : Option (Nat × Nat) :=
  if v < p.pages then (p.pcList[v % p.pcList.length]?).map fun g => (g, v / p.pcList.length) else none

namespace State

/-- The frame number of a page of a live partition. -/
def pageFrame (s : State) (ptn v : Nat) : Option Nat :=
  match tget s.ptns ptn with
  | some p => (p.locate v).map fun x => frameNo x.1 x.2
  | none => none

/-- Whether a pseudo-channel is retired (R181). -/
def pcRetired (s : State) (g : Nat) : Bool := bitAt (s.stack (g / 32)).retired (g % 32)

/-- The key of the byte at a device address, for a unit of partition `ptn` on base die `die`. -/
def key (s : State) (ptn die a : Nat) : Option Nat :=
  match parseAddr a with
  | .hbm p off => (s.pageFrame p (off / 65536)).map fun f => hbmKey f (off % 65536)
  | .scr l d off =>
    let n := if l then die else d
    match tget s.ptns ptn with
    | some p => if off < p.scratch.getD n 0 * 65536 then some (scrKey ptn n off) else none
    | none => none
  | .host h => some (hostKey h)
  | .bad => none

/-- The byte at a device address. -/
def readAt (s : State) (ptn die a : Nat) : Byte :=
  match s.key ptn die a with
  | some k => s.mem.read k
  | none => 0

/-- `n` bytes at a device address. -/
def readBytes (s : State) (ptn die a n : Nat) : List Byte := (List.range n).map fun i => s.readAt ptn die (a + i)

/-- The ways of a base die's cache that a partition holds, as a mask: those of ascending partition indices follow one another
(`HBM_CACHE_WAYS`; DESIGN CHOICE, log entry 165). -/
def wayMask (s : State) (n p : Nat) : Nat :=
  let used := fun (i : Nat) => ((tget s.ptns i).map fun x => x.ways.getD n 0).getD 0
  if used p = 0 then 0 else (2 ^ used p - 1) * 2 ^ ((List.range p).map used).sum

/-- The partition that owns the pseudo-channel of a frame. -/
def frameOwner (s : State) (f : Nat) : Option Nat := (s.ptns.find? fun p => bitAt p.2.pcs (f / framesPerPc)).map (·.1)

/-- The set, of 24,576, in which a line of a frame lies (R191). -/
def cacheSetOf (f l : Nat) : Nat := Config.cacheSet (1024 * f + l) % 24576

/-- An access to a line, through the memory-side cache of its base die (R191): it is looked up in its owner's ways, and placed there if
the access allocates, in a free way of its set or in the one that pseudo-LRU gives up. `alloc` says whether it allocates. -/
def lineAccess (s : State) (f l : Nat) (write alloc : Bool) : State :=
  match s.frameOwner f with
  | none => s
  | some p =>
    let die := f / framesPerPc / 64
    let mask := s.wayMask die p
    let same := fun (x : CacheLine) => x.frame == f && x.line == l
    match s.lines.find? same with
    | some x => { s with lines := (s.lines.filter fun y => !same y) ++ [{ x with dirty := x.dirty || write }] }
    | none =>
      if mask = 0 ∨ alloc = false then s
      else
        let set := cacheSetOf f l
        let peers := s.lines.filter fun x =>
          x.frame / framesPerPc / 64 == die && cacheSetOf x.frame x.line == set && bitAt mask x.way
        let way := ((members mask 16).find? fun w => !peers.any fun x => x.way == w).getD
          ((peers.map (·.way)).getD (Config.cacheVictim (peers.map (·.way)) % Nat.max 1 peers.length) 0)
        { s with lines := (s.lines.filter fun x => !(peers.contains x && x.way == way)) ++
            [{ frame := f, line := l, way := way, dirty := write }] }

/-- Bytes are written at a key in HBM: a full line allocates, a partial one where its owner's partial writes do (R191). -/
def dirtied (s : State) (k n : Nat) : State :=
  if 2 ^ 60 ≤ k ∨ n = 0 then s
  else
    (List.range ((k + n + 63) / 64 - k / 64)).foldl (fun (s : State) i =>
      let l := k / 64 + i
      let f := l / 1024
      let full := decide (k ≤ 64 * l ∧ 64 * l + 64 ≤ k + n)
      let wr := (s.frameOwner f).any fun p => bitAt (s.stack (2 * (f / framesPerPc / 64))).allocWr p
      s.lineAccess f (l % 1024) true (full || wr)) s

/-- Bytes are read at a key in HBM for a context of partition `ptn`: where its owner's reads allocate, and it is the owner's own
(R191). -/
def lineReads (s : State) (ptn k n : Nat) : State :=
  if 2 ^ 60 ≤ k ∨ n = 0 then s
  else
    (List.range ((k + n + 63) / 64 - k / 64)).foldl (fun (s : State) i =>
      let l := k / 64 + i
      let f := l / 1024
      let rd := (s.frameOwner f).any fun p => p == ptn && bitAt (s.stack (2 * (f / framesPerPc / 64))).allocRd p
      s.lineAccess f (l % 1024) false rd) s

/-- The caches write back and invalidate the lines of some frames (R192). -/
def writeBack (s : State) (ok : Nat → Bool) : State := { s with lines := s.lines.filter fun x => !ok x.frame }

/-- The caches write back and invalidate the lines whose owner, or whose owner's ways, a change from `old` has moved (R192). -/
def settleWays (s old : State) : State :=
  { s with lines := s.lines.filter fun x =>
      let n := x.frame / framesPerPc / 64
      match s.frameOwner x.frame, old.frameOwner x.frame with
      | some p, some p' => p == p' && s.wayMask n p == old.wayMask n p
      | _, _ => false }

/-- One byte written at a device address. -/
def writeAt (s : State) (ptn die a : Nat) (b : Byte) : State :=
  match s.key ptn die a with
  | some k => { s with mem := s.mem.write k b }
  | none => s

/-- Bytes written at a device address. -/
def writeBytes (s : State) (ptn die a : Nat) : List Byte → State
  | [] => s
  | b :: r => (s.writeAt ptn die a b).writeBytes ptn die (a + 1) r

/-- The pages that `n` bytes from an offset touch. -/
def pagesOf (off n : Nat) : List Nat :=
  if n = 0 then [] else (List.range ((off + n - 1) / 65536 - off / 65536 + 1)).map (· + off / 65536)

/-- Whether one page may be read or written by partition `ptn` (R184, R185, R187). `whole` says that the command
writes every byte of the page, which alone may write a POISON frame. -/
def pageOk (s : State) (ptn p v : Nat) (write whole : Bool) : Bool :=
  match tget s.ptns p with
  | none => false
  | some pt =>
    match pt.locate v with
    | none => false
    | some (g, fr) =>
      let a := s.attr (frameNo g fr)
      !s.pcRetired g &&
      (if ptn = p then
        if write then !bitAt a 0 && !bitAt a 3 && (!bitAt a 6 || whole) else !bitAt a 3 && !bitAt a 6
      else !write && bitAt a 1 && bitAt pt.shares ptn && !bitAt a 3 && !bitAt a 6)

/-- Whether bytes `off` to `off + n - 1` cover page `v` wholly. -/
def coversPage (off n v : Nat) : Bool := decide (off ≤ v * 65536 ∧ (v + 1) * 65536 ≤ off + n)

/-- Whether an access of `n` bytes by a context of partition `ptn` is allowed (R184, R185, R187). -/
def accessOk (s : State) (ptn die a n : Nat) (write : Bool) (dma : Bool) : Bool :=
  match parseAddr a with
  | .hbm p off => decide (off + n ≤ 2 ^ 48) && (pagesOf off n).all fun v => s.pageOk ptn p v write (dma && coversPage off n v)
  | .scr l d off =>
    let k := if l then die else d
    match tget s.ptns ptn with
    | some p => decide (off + n ≤ p.scratch.getD k 0 * 65536)
    | none => false
  | .host h => decide (h + n ≤ 2 ^ 56)
  | .bad => false

/-- The domains an access meets: the stack and the base die's SRAM of each page, or the die of a scratchpad address. -/
def accessDomains (s : State) (die a n : Nat) : List Nat :=
  match parseAddr a with
  | .hbm p off =>
    match tget s.ptns p with
    | some pt => (pagesOf off n).flatMap fun v =>
        match pt.locate v with
        | some (g, _) => [stackDomain (g / 32), sramDomain (g / 64)]
        | none => []
    | none => []
  | .scr l d _ => [sramDomain (if l then die else d)]
  | .host _ => [77]
  | .bad => []

/-- A domain an access meets whose Peristome is not OPEN, if any (Table 13-2). -/
def accessFenced (s : State) (die a n : Nat) : Option Nat := (s.accessDomains die a n).find? fun d => !s.isOpen d

/-- Whether firmware can read a descriptor at an address that passed R428: no poisoned line. -/
def readable (s : State) (a n : Nat) : Bool :=
  match parseAddr a with
  | .hbm p off => (pagesOf off n).all fun v =>
      match s.pageFrame p v with
      | some f => !bitAt (s.attr f) 6 && !bitAt (s.attr f) 3
      | none => false
  | .host _ => true
  | _ => false

/-- The check of R428 on an address that the host writes into a register: host space, or HBM within the space of a live
partition. -/
def addressOk (s : State) (a : Nat) : Bool :=
  match parseAddr a with
  | .hbm p off => (s.pageFrame p (off / 65536)).isSome
  | .host _ => true
  | _ => false

/-- The check of R428 on a request's descriptor of `n` bytes: besides, none of its frames carries RO, RESV or POISON. -/
def requestOk (s : State) (a n : Nat) : Bool :=
  match parseAddr a with
  | .hbm p off => decide (off + n ≤ 2 ^ 48) && (pagesOf off n).all fun v =>
      match s.pageFrame p v with
      | some f => (s.attr f) &&& 0b1001001 = 0
      | none => false
  | .host h => decide (h + n ≤ 2 ^ 56)
  | _ => false

/-- Bytes that firmware reads at an address a register holds. -/
def fwRead (s : State) (a n : Nat) : List Byte := s.readBytes 0 0 a n

/-- Bytes written at a device address, through the caches where it lies in HBM (R191). -/
def storeBytes (s : State) (ptn a : Nat) (l : List Byte) : State :=
  let s1 := s.writeBytes ptn 0 a l
  match parseAddr a with
  | .hbm p off => (pagesOf off l.length).foldl (fun (s : State) v =>
      match s.pageFrame p v with
      | some f =>
        let lo := Nat.max off (65536 * v)
        s.dirtied (hbmKey f (lo % 65536)) (Nat.min (off + l.length) (65536 * (v + 1)) - lo)
      | none => s) s1
  | _ => s1

/-- Bytes that firmware writes at an address a register holds. -/
def fwWrite (s : State) (a : Nat) (l : List Byte) : State := s.storeBytes 0 a l

/-- A fresh free value of `w` bits: one the spec leaves undefined. -/
def fresh (s : State) (w : Nat) : Nat × State := ((Config.freeValue w s.free).toNat, { s with free := s.free + 1 })

end State

/-! ### Ticks and outcomes -/

/-- Every live local time advances by 10 ns (R63). -/
def tickAll (s : State) : State :=
  { s with
    domains := tmap (fun _ x => if x.power != .off && (x.state == .opened || x.state == .fenced) then
        { x with time := x.time + 10 } else x) s.domains
    cores := tmap (fun c x => if s.live (coreDomain c) then { x with time := x.time + 10 } else x) s.cores }

/-- The outcome of a command whose effect is `t`: the queue of waiting commands and the variant are no command's to
change (R418). -/
def done (s t : State) : Host.Outcome State Fault Refusal :=
  .next { t with pending := s.pending, variant := s.variant }

/-- The outcome of a command that a device which has reported fatal no longer acts on (R348). -/
def act (s : State) (f : State → State) : Host.Outcome State Fault Refusal :=
  done s (if s.flt.fatal then s else f s)

end Sys2Proof.Machine
end

