-- ==== Sys2Proof/Machine/Faults.lean ====
section
/-! DEFINITION. Fault records (R351, Table 13-8) and the first steps of a context's teardown (Table 9-10). -/

namespace Sys2Proof.Machine

/-- A record whose fields are not yet known. -/
def FaultRecord.blank : FaultRecord :=
  { ident := 0, origin := 0, kind := 0, level := 0, domain := 0, cls := 0xFF, die := 0, flags := 0, unit := 0, context := 0,
    collateral := 0, epochBefore := 0, epochAfter := 0, answered := 0, stale := 0, detect := 0, drainUs := 0, resetUs := 0,
    dump := 0, mergedInto := 0, closed := false, read := false }

/-- The 64 bytes of a record (Table 13-8). -/
def FaultRecord.bytes (r : FaultRecord) : List Byte :=
  leBytes 4 r.ident ++ leBytes 4 r.origin ++ leBytes 1 r.kind ++ leBytes 1 r.level ++ leBytes 1 r.domain ++
  leBytes 1 r.cls ++ leBytes 1 r.die ++ leBytes 1 r.flags ++ leBytes 2 r.unit ++ leBytes 4 r.context ++
  leBytes 4 r.collateral ++ leBytes 2 r.epochBefore ++ leBytes 2 r.epochAfter ++ leBytes 2 r.answered ++
  leBytes 2 r.stale ++ leBytes 8 r.detect.toNat ++ leBytes 4 r.drainUs ++ leBytes 4 r.resetUs ++ leBytes 4 r.dump ++
  leBytes 4 r.mergedInto ++ zeros 8

namespace State

/-- Open a fault record: the next id, the supervisor's time; the oldest of 1,024 is overwritten (R351). An `origin` of 0
stands for the record itself. -/
def openFault (s : State) (r : FaultRecord) : State × Nat :=
  let id := s.flt.nextId
  let r := { r with ident := id, origin := if r.origin = 0 then id else r.origin, detect := s.supTime }
  let full := s.flt.records.length ≥ 1024
  let lost := full && !((s.flt.records.head?).map (·.read)).getD true
  ({ s with flt := { s.flt with
      records := (if full then s.flt.records.drop 1 else s.flt.records) ++ [r],
      nextId := if id + 1 ≥ 2 ^ 32 then 1 else id + 1,
      overwritten := if lost then satAdd 32 s.flt.overwritten 1 else s.flt.overwritten } }, id)

/-- A held record changed. -/
def modFault (s : State) (id : Nat) (f : FaultRecord → FaultRecord) : State :=
  { s with flt := { s.flt with records := s.flt.records.map fun r => if r.ident = id then f r else r } }

/-- The held record of an id. -/
def fault (s : State) (id : Nat) : Option FaultRecord := s.flt.records.find? fun r => r.ident == id

/-- Steps 1 and 2 of Table 9-10: the context enters TEARDOWN; dispatch stops. A context that is FREE or in TEARDOWN stays. -/
def startTeardown (s : State) (c : Nat) : State :=
  let k := s.ctx c
  if k.state = .free ∨ k.state = .teardown then s else s.setCtx c { k with state := .teardown }

/-- A fault of a context that resets nothing: a level 0 record of a type, and the teardown begins (R251, R351). -/
def faultContext (s : State) (kind c : Nat) : State :=
  let k := s.ctx c
  if k.state = .free ∨ k.state = .teardown then s
  else
    let r := s.openFault { FaultRecord.blank with kind := kind, context := s.ctxHandle c, flags := 1 }
    r.1.startTeardown c

end State

end Sys2Proof.Machine
end

