-- ==== Sys2Proof/Machine/Hash.lean ====
section
/-! DEFINITION. The digests and checks the spec names by their standards: SHA-384 (R323, R390), CRC-32C (R247, R376),
CRC-32 (R49) and CRC-64 (Table 15-1). The constants are the standards' (log entry 9). -/

namespace Sys2Proof.Machine

/-- Round constants 0 to 19. -/
def sha384K0 : List Nat :=
  [0x428a2f98d728ae22, 0x7137449123ef65cd, 0xb5c0fbcfec4d3b2f, 0xe9b5dba58189dbbc,
    0x3956c25bf348b538, 0x59f111f1b605d019, 0x923f82a4af194f9b, 0xab1c5ed5da6d8118,
    0xd807aa98a3030242, 0x12835b0145706fbe, 0x243185be4ee4b28c, 0x550c7dc3d5ffb4e2,
    0x72be5d74f27b896f, 0x80deb1fe3b1696b1, 0x9bdc06a725c71235, 0xc19bf174cf692694,
    0xe49b69c19ef14ad2, 0xefbe4786384f25e3, 0x0fc19dc68b8cd5b5, 0x240ca1cc77ac9c65]

/-- Round constants 20 to 39. -/
def sha384K1 : List Nat :=
  [0x2de92c6f592b0275, 0x4a7484aa6ea6e483, 0x5cb0a9dcbd41fbd4, 0x76f988da831153b5,
    0x983e5152ee66dfab, 0xa831c66d2db43210, 0xb00327c898fb213f, 0xbf597fc7beef0ee4,
    0xc6e00bf33da88fc2, 0xd5a79147930aa725, 0x06ca6351e003826f, 0x142929670a0e6e70,
    0x27b70a8546d22ffc, 0x2e1b21385c26c926, 0x4d2c6dfc5ac42aed, 0x53380d139d95b3df,
    0x650a73548baf63de, 0x766a0abb3c77b2a8, 0x81c2c92e47edaee6, 0x92722c851482353b]

/-- Round constants 40 to 59. -/
def sha384K2 : List Nat :=
  [0xa2bfe8a14cf10364, 0xa81a664bbc423001, 0xc24b8b70d0f89791, 0xc76c51a30654be30,
    0xd192e819d6ef5218, 0xd69906245565a910, 0xf40e35855771202a, 0x106aa07032bbd1b8,
    0x19a4c116b8d2d0c8, 0x1e376c085141ab53, 0x2748774cdf8eeb99, 0x34b0bcb5e19b48a8,
    0x391c0cb3c5c95a63, 0x4ed8aa4ae3418acb, 0x5b9cca4f7763e373, 0x682e6ff3d6b2b8a3,
    0x748f82ee5defb2fc, 0x78a5636f43172f60, 0x84c87814a1f0ab72, 0x8cc702081a6439ec]

/-- Round constants 60 to 79. -/
def sha384K3 : List Nat :=
  [0x90befffa23631e28, 0xa4506cebde82bde9, 0xbef9a3f7b2c67915, 0xc67178f2e372532b,
    0xca273eceea26619c, 0xd186b8c721c0c207, 0xeada7dd6cde0eb1e, 0xf57d4f7fee6ed178,
    0x06f067aa72176fba, 0x0a637dc5a2c898a6, 0x113f9804bef90dae, 0x1b710b35131c471b,
    0x28db77f523047d84, 0x32caab7b40c72493, 0x3c9ebe0a15c9bebc, 0x431d67c49c100d4c,
    0x4cc5d4becb3e42b6, 0x597f299cfc657e2a, 0x5fcb6fab3ad6faec, 0x6c44198c4a475817]

/-- The round constants. -/
def sha384K : List Nat := sha384K0 ++ sha384K1 ++ sha384K2 ++ sha384K3

/-- The initial state. -/
def sha384Init : List Nat :=
  [0xcbbb9d5dc1059ed8, 0x629a292a367cd507, 0x9159015a3070dd17, 0x152fecd8f70e5939,
    0x67332667ffc00b31, 0x8eb44a8768581511, 0xdb0c2e0d64f98fa7, 0x47b5481dbefa4fa4]

/-- Rotation of a 64-bit word to the right. -/
def rotr64 (x n : Nat) : Nat := x / 2 ^ n + x % 2 ^ n * 2 ^ (64 - n)

/-- The big-endian words of eight bytes each. -/
def beWords : Nat → List Byte → List Nat
  | 0, _ => []
  | n + 1, l => (l.take 8).foldl (fun a b => a * 256 + b.toNat) 0 :: beWords n (l.drop 8)

/-- The message schedule, newest word first. -/
def shaSchedule : Nat → List Nat → List Nat
  | 0, w => w
  | n + 1, w =>
    let a := w.getD 1 0
    let b := w.getD 14 0
    let s1 := Nat.xor (Nat.xor (rotr64 a 19) (rotr64 a 61)) (a / 2 ^ 6)
    let s0 := Nat.xor (Nat.xor (rotr64 b 1) (rotr64 b 8)) (b / 2 ^ 7)
    shaSchedule n ((s1 + w.getD 6 0 + s0 + w.getD 15 0) % 2 ^ 64 :: w)

/-- One round on the eight working words. -/
def shaRound (v : List Nat) (k w : Nat) : List Nat :=
  match v with
  | [a, b, c, d, e, f, g, h] =>
    let s1 := Nat.xor (Nat.xor (rotr64 e 14) (rotr64 e 18)) (rotr64 e 41)
    let ch := Nat.xor (Nat.land e f) (Nat.land (2 ^ 64 - 1 - e) g)
    let t1 := h + s1 + ch + k + w
    let s0 := Nat.xor (Nat.xor (rotr64 a 28) (rotr64 a 34)) (rotr64 a 39)
    let mj := Nat.xor (Nat.xor (Nat.land a b) (Nat.land a c)) (Nat.land b c)
    [(t1 + s0 + mj) % 2 ^ 64, a, b, c, (d + t1) % 2 ^ 64, e, f, g]
  | _ => v

/-- All rounds. -/
def shaRounds : List Nat → List Nat → List Nat → List Nat
  | k :: ks, w :: ws, v => shaRounds ks ws (shaRound v k w)
  | _, _, v => v

/-- The compression of one block of 128 bytes. -/
def shaBlock (h : List Nat) (block : List Byte) : List Nat :=
  let w := (shaSchedule 64 (beWords 16 block).reverse).reverse
  List.zipWith (fun a b => (a + b) % 2 ^ 64) h (shaRounds sha384K w h)

/-- The compression of `n` blocks. -/
def shaBlocks : Nat → List Nat → List Byte → List Nat
  | 0, h, _ => h
  | n + 1, h, l => shaBlocks n (shaBlock h (l.take 128)) (l.drop 128)

/-- The padded message. -/
def shaPad (l : List Byte) : List Byte :=
  let z := (239 - l.length % 128) % 128
  l ++ [0x80] ++ zeros z ++ (leBytes 16 (8 * l.length)).reverse

/-- SHA-384 of a message, 48 bytes. -/
def sha384 (l : List Byte) : List Byte :=
  let p := shaPad l
  ((shaBlocks (p.length / 128) sha384Init p).take 6).flatMap fun w => (leBytes 8 w).reverse

/-- SHA-384 of a message as one number, its bytes little-endian. -/
def sha384Nat (l : List Byte) : Nat := ofLe (sha384 l)

/-- `n` steps of a reflected CRC register. -/
def crcBits (poly : Nat) : Nat → Nat → Nat
  | 0, c => c
  | n + 1, c => crcBits poly n (if c % 2 = 1 then Nat.xor (c / 2) poly else c / 2)

/-- A reflected CRC over bytes from a register value. -/
def crcReflected (poly : Nat) (c : Nat) (l : List Byte) : Nat :=
  l.foldl (fun c b => crcBits poly 8 (Nat.xor c b.toNat)) c

/-- CRC-32C. -/
def crc32c (l : List Byte) : Nat := Nat.xor (crcReflected 0x82F63B78 0xFFFFFFFF l) 0xFFFFFFFF

/-- The CRC-32 of IEEE 802.3. -/
def crc32 (l : List Byte) : Nat := Nat.xor (crcReflected 0xEDB88320 0xFFFFFFFF l) 0xFFFFFFFF

/-- `n` steps of an unreflected 64-bit CRC register. -/
def crcBits64 (poly : Nat) : Nat → Nat → Nat
  | 0, c => c
  | n + 1, c => crcBits64 poly n (if c ≥ 2 ^ 63 then Nat.xor ((c - 2 ^ 63) * 2) poly else c * 2)

/-- The CRC-64 of ECMA-182. -/
def crc64 (l : List Byte) : Nat :=
  l.foldl (fun c b => crcBits64 0x42F0E1EBA9EA3693 8 (Nat.xor c (b.toNat * 2 ^ 56))) 0

end Sys2Proof.Machine
end

