-- ==== Sys2Proof/Machine/Num.lean ====
section
/-! DEFINITION. Numbers: the formats of Table 5-1, their exact values, the conversions of R125 to R131, the FP32
arithmetic of R129, P48 accumulation (R97 to R104), and the counter generator (R132 to R137). -/

namespace Sys2Proof.Machine

/-- A number: NaN, an infinity, or ±m × 2^e exactly (a zero keeps its sign). -/
inductive Num where
  | nan
  | inf (neg : Bool)
  | fin (neg : Bool) (m : Nat) (e : Int)
  deriving DecidableEq, Repr

namespace Num

def zero : Num := .fin false 0 0
def one : Num := .fin false 1 0

/-- A natural number. -/
def ofNat (n : Nat) : Num := .fin false n 0

/-- An integer. -/
def ofInt (i : Int) : Num := .fin (decide (i < 0)) i.natAbs 0

def isFinite : Num → Bool
  | .fin _ _ _ => true
  | _ => false

def isZero : Num → Bool
  | .fin _ 0 _ => true
  | _ => false

def isNan : Num → Bool
  | .nan => true
  | _ => false

def isNeg : Num → Bool
  | .nan => false
  | .inf n => n
  | .fin n _ _ => n

def neg : Num → Num
  | .nan => .nan
  | .inf n => .inf (!n)
  | .fin n m e => .fin (!n) m e

/-- ×2^k, exact. -/
def scale (k : Int) : Num → Num
  | .fin n m e => .fin n m (e + k)
  | x => x

/-- ±m × 2^e as an integer multiple of 2^q, for q ≤ e. -/
def units (n : Bool) (m : Nat) (e q : Int) : Int := (if n then -1 else 1) * (m * 2 ^ (e - q).toNat : Nat)

/-- The exact sum (R99, IEEE 754): exact cancellation gives +0, −0 plus −0 gives −0. -/
def add : Num → Num → Num
  | .nan, _ => .nan
  | _, .nan => .nan
  | .inf a, .inf b => if a = b then .inf a else .nan
  | .inf a, _ => .inf a
  | _, .inf b => .inf b
  | .fin n m e, .fin n' m' e' =>
    if m = 0 ∧ m' = 0 then .fin (n && n') 0 0
    else if m = 0 then .fin n' m' e'
    else if m' = 0 then .fin n m e
    else
      let q := if e ≤ e' then e else e'
      let i := units n m e q + units n' m' e' q
      .fin (decide (i < 0)) i.natAbs q

/-- The exact product (R99): ∞ × 0 is NaN. -/
def mul : Num → Num → Num
  | .nan, _ => .nan
  | _, .nan => .nan
  | .inf a, .inf b => .inf (a != b)
  | .inf a, .fin n m _ => if m = 0 then .nan else .inf (a != n)
  | .fin n m _, .inf b => if m = 0 then .nan else .inf (n != b)
  | .fin n m e, .fin n' m' e' => .fin (n != n') (m * m') (e + e')

/-- Exact comparison of two numbers that are not NaN, +0 equal to −0: −1, 0 or 1. -/
def cmp : Num → Num → Int
  | .nan, _ => 0
  | _, .nan => 0
  | .inf a, .inf b => if a = b then 0 else if a then -1 else 1
  | .inf a, _ => if a then -1 else 1
  | _, .inf b => if b then 1 else -1
  | .fin n m e, .fin n' m' e' =>
    let q := if e ≤ e' then e else e'
    let i := units n m e q - units n' m' e' q
    if i < 0 then -1 else if i = 0 then 0 else 1

end Num

/-- A floating-point format: exponent bits, fraction bits, bias (Table 5-2, R95). `flush` says that it has no
subnormals; `noInf` that it has no infinity (E4M3). -/
structure Fmt where
  e : Nat
  f : Nat
  bias : Nat
  flush : Bool
  noInf : Bool
  deriving DecidableEq, Repr

def fmtFp32 : Fmt := { e := 8, f := 23, bias := 127, flush := false, noInf := false }
def fmtP48 : Fmt := { e := 10, f := 37, bias := 767, flush := true, noInf := false }

/-- The 40-bit accumulator of TX2 emulation (Table 5-10). -/
def fmtAcc40 : Fmt := { e := 8, f := 31, bias := 127, flush := true, noInf := false }

/-- The floating-point formats of Table 5-1 by code. -/
def floatFmt : Nat → Option Fmt
  | 0 => some fmtFp32
  | 1 => some { e := 8, f := 15, bias := 127, flush := false, noInf := false }
  | 2 => some { e := 8, f := 7, bias := 127, flush := false, noInf := false }
  | 3 => some { e := 5, f := 10, bias := 15, flush := false, noInf := false }
  | 4 => some { e := 7, f := 4, bias := 63, flush := false, noInf := false }
  | 5 => some { e := 6, f := 3, bias := 31, flush := false, noInf := false }
  | 6 => some { e := 4, f := 3, bias := 7, flush := false, noInf := true }
  | 7 => some { e := 5, f := 2, bias := 15, flush := false, noInf := false }
  | 14 => some fmtP48
  | _ => none

/-- An integer format's range (R123) by code. -/
def intRange : Nat → Option (Int × Int)
  | 8 => some (-8, 7)
  | 9 => some (-128, 127)
  | 10 => some (0, 255)
  | 11 => some (0, 1023)
  | 12 => some (-32768, 32767)
  | 13 => some (-2147483648, 2147483647)
  | _ => none

/-- Bits of an element (Table 5-1). -/
def fmtBits : Nat → Nat
  | 0 => 32 | 1 => 24 | 2 => 16 | 3 => 16 | 4 => 12 | 5 => 10 | 6 => 8 | 7 => 8 | 8 => 4 | 9 => 8 | 10 => 8 | 11 => 10
  | 12 => 16 | 13 => 32 | _ => 48

namespace Fmt

/-- The largest exponent field. -/
def eMax (t : Fmt) : Nat := 2 ^ t.e - 1

/-- The unbiased exponent of the smallest normal. -/
def minExp (t : Fmt) : Int := 1 - t.bias

/-- The unbiased exponent of the largest finite number. -/
def maxExp (t : Fmt) : Int := (if t.noInf then (t.eMax : Int) else t.eMax - 1) - t.bias

/-- The largest finite magnitude. -/
def maxFinite (t : Fmt) : Num :=
  .fin false (2 ^ (t.f + 1) - (if t.noInf then 2 else 1)) (t.maxExp - t.f)

/-- The value of an encoding (R95, R120). -/
def decode (t : Fmt) (b : Nat) : Num :=
  let s := bitAt b (t.e + t.f)
  let x := fld b (t.e + t.f - 1) t.f
  let fr := fld b (t.f - 1) 0
  if x = 0 then (if t.flush then .fin s 0 0 else .fin s fr (t.minExp - t.f))
  else if x = t.eMax ∧ (t.noInf = false ∨ fr = 2 ^ t.f - 1) then (if fr = 0 then .inf s else .nan)
  else .fin s (2 ^ t.f + fr) ((x : Int) - t.bias - t.f)

/-- The canonical NaN (Table 5-2, Table 4-1). -/
def nanBits (t : Fmt) : Nat := t.eMax * 2 ^ t.f + (if t.noInf then 2 ^ t.f - 1 else 2 ^ (t.f - 1))

/-- The encoding of a number that the format holds exactly. -/
def encode (t : Fmt) : Num → Nat
  | .nan => t.nanBits
  | .inf n => if t.noInf then t.nanBits else b2n n * 2 ^ (t.e + t.f) + t.eMax * 2 ^ t.f
  | .fin n m e =>
    let sg := b2n n * 2 ^ (t.e + t.f)
    if m = 0 then sg
    else
      let x := (m.log2 : Int) + e
      if x < t.minExp then sg + (if e ≥ t.minExp - t.f then m * 2 ^ (e - (t.minExp - t.f)).toNat
        else m / 2 ^ ((t.minExp - t.f) - e).toNat)
      else
        let sig := if (m.log2 : Int) ≤ t.f then m * 2 ^ (t.f - m.log2) else m / 2 ^ (m.log2 - t.f)
        sg + (x + t.bias).toNat * 2 ^ t.f + (sig - 2 ^ t.f)

end Fmt

/-- The rounding modes of R125, with the random bits of stochastic rounding and how many (R130, Table 5-10). -/
inductive Rnd where
  | nearest
  | zero
  | stoch (bits r : Nat)
  deriving DecidableEq, Repr

/-- The magnitude (m + ε) × 2^e rounded to a multiple of 2^q; `sticky` says that 0 < ε < 1. -/
def roundUnits (mode : Rnd) (m : Nat) (e q : Int) (sticky : Bool) : Nat :=
  if q ≤ e then m * 2 ^ (e - q).toNat
  else
    let k := (q - e).toNat
    let n := m / 2 ^ k
    let rem := m % 2 ^ k
    match mode with
    | .zero => n
    | .nearest =>
      if 2 * rem < 2 ^ k then n
      else if 2 * rem > 2 ^ k ∨ sticky = true ∨ n % 2 = 1 then n + 1
      else n
    | .stoch bits r =>
      if rem = 0 ∧ sticky = false then n
      else if rem * 2 ^ bits / 2 ^ k + r ≥ 2 ^ bits then n + 1 else n

/-- The exponent of the spacing of a format at a magnitude of exponent `x` (R126, R130). -/
def Fmt.spacing (t : Fmt) (x : Int) : Int :=
  if x < t.minExp then (if t.flush then t.minExp else t.minExp - t.f) else x - t.f

/-- Steps 2 and 3 of R126 for a magnitude (m + ε) × 2^e with sign `n`. -/
def Fmt.roundMag (t : Fmt) (mode : Rnd) (sat : Bool) (n : Bool) (m : Nat) (e : Int) (sticky : Bool) : Num :=
  if m = 0 then .fin n 0 0
  else
    let q := t.spacing ((m.log2 : Int) + e)
    let u := roundUnits mode m e q sticky
    if u = 0 then .fin n 0 0
    else if Num.cmp (.fin false u q) t.maxFinite > 0 then
      (if sat || mode == .zero then (if n then t.maxFinite.neg else t.maxFinite)
       else if t.noInf then .nan else .inf n)
    else .fin n u q

/-- A number rounded to a floating-point format (R126, Table 5-4). -/
def Fmt.round (t : Fmt) (mode : Rnd) (sat : Bool) : Num → Num
  | .nan => .nan
  | .inf n => if t.noInf then (if sat then (if n then t.maxFinite.neg else t.maxFinite) else .nan) else .inf n
  | .fin n m e => t.roundMag mode sat n m e false

/-- A number rounded to a floating-point format with nearest-even. -/
def Fmt.rne (t : Fmt) (x : Num) : Num := t.round .nearest false x

/-- Whether rounding a finite number to nearest-even would exceed the largest finite magnitude (R101). -/
def Fmt.overflows (t : Fmt) (x : Num) : Bool := x.isFinite && !(t.rne x).isFinite

/-- A subnormal becomes a zero of the same sign (TX2 emulation, Table 5-10). -/
def Fmt.flushSub (t : Fmt) : Num → Num
  | .fin n m e => if m ≠ 0 ∧ (m.log2 : Int) + e < t.minExp then .fin n 0 0 else .fin n m e
  | x => x

/-- A number converted to an integer format (R127). -/
def toIntFmt (lo hi : Int) (mode : Rnd) : Num → Int
  | .nan => 0
  | .inf n => if n then lo else hi
  | .fin n m e =>
    let u := roundUnits mode m e 0 false
    let i : Int := if n then -(u : Int) else u
    if i < lo then lo else if hi < i then hi else i

/-- The conversion of a number to format `code` (R125 to R128): the encoding and the value. `tx2` applies the subnormal
rule of Table 5-10 to the result. -/
def convertTo (code : Nat) (mode : Rnd) (sat : Bool) (eadj : Int) (tx2 : Bool) (x : Num) : Nat × Num :=
  let y := x.scale eadj
  match floatFmt code with
  | some t =>
    let r := t.round mode sat y
    let r := if tx2 then t.flushSub r else r
    (t.encode r, r)
  | none =>
    match intRange code with
    | some (lo, hi) =>
      let i := toIntFmt lo hi mode y
      (ofSigned (fmtBits code) i, Num.ofInt i)
    | none => (0, Num.zero)

/-- The value of an element of format `code`; `tx2` reads subnormals as zeros (Table 5-10). -/
def decodeElem (code : Nat) (tx2 : Bool) (b : Nat) : Num :=
  match floatFmt code with
  | some t => if tx2 then t.flushSub (t.decode b) else t.decode b
  | none =>
    match intRange code with
    | some (lo, _) => Num.ofInt (if lo < 0 then toSigned (fmtBits code) b else (b % 2 ^ fmtBits code : Nat))
    | none => Num.zero

/-! ### FP32 arithmetic (R129) -/

def f32 (x : Num) : Num := fmtFp32.rne x
def fadd (a b : Num) : Num := f32 (a.add b)
def fsub (a b : Num) : Num := f32 (a.add b.neg)
def fmul (a b : Num) : Num := f32 (a.mul b)
def ffma (a b c : Num) : Num := f32 ((a.mul b).add c)

/-- a / b rounded once. -/
def fdiv (a b : Num) : Num :=
  match a, b with
  | .nan, _ => .nan
  | _, .nan => .nan
  | .inf _, .inf _ => .nan
  | .inf n, .fin n' _ _ => .inf (n != n')
  | .fin n _ _, .inf n' => .fin (n != n') 0 0
  | .fin n m e, .fin n' m' e' =>
    if m' = 0 then (if m = 0 then .nan else .inf (n != n'))
    else if m = 0 then .fin (n != n') 0 0
    else
      let k := m'.log2 + 32
      fmtFp32.roundMag .nearest false (n != n') (m * 2 ^ k / m') (e - e' - k) (decide (m * 2 ^ k % m' ≠ 0))

def frcp (a : Num) : Num := fdiv Num.one a

/-- The largest n with n² ≤ v, from a start that is no smaller; `fuel` bounds the Newton steps. -/
def isqrtFrom : Nat → Nat → Nat → Nat
  | 0, x, _ => x
  | fuel + 1, x, v =>
    if x = 0 then 0
    else
      let y := (x + v / x) / 2
      if y < x then isqrtFrom fuel y v else x

/-- ⌊√v⌋. -/
def isqrt (v : Nat) : Nat := isqrtFrom (v.log2 + 2) (2 ^ (v.log2 / 2 + 1)) v

/-- 1/√a rounded once (R129). -/
def frsqrt : Num → Num
  | .nan => .nan
  | .inf n => if n then .nan else .fin false 0 0
  | .fin n m e =>
    if m = 0 then .inf n
    else if n then .nan
    else
      let m2 := if e % 2 = 0 then m else 2 * m
      let e2 := if e % 2 = 0 then e else e - 1
      let k := 32 + m2.log2
      let r := isqrt (2 ^ (2 * k) / m2)
      fmtFp32.roundMag .nearest false false r (-(k : Int) - e2 / 2) (decide (r * r * m2 ≠ 2 ^ (2 * k)))

/-- Bounds, in units of 2^-p, of Σ y^i / i! for i from `i`, given bounds of the term y^(i-1)/(i-1)!. -/
def expTerms (p yl yu : Nat) : Nat → Nat → Nat → Nat → Nat × Nat
  | 0, _, tl, tu => (0, 2 * tu + tl)
  | fuel + 1, i, tl, tu =>
    let nl := tl * yl / (2 ^ p * i)
    let nu := ceilDiv (tu * yu) (2 ^ p * i)
    let r := expTerms p yl yu fuel (i + 1) nl nu
    (nl + r.1, nu + r.2)

/-- Bounds squared `k` times. -/
def squareTimes (p : Nat) : Nat → Nat × Nat → Nat × Nat
  | 0, b => b
  | k + 1, b => squareTimes p k (b.1 * b.1 / 2 ^ p, ceilDiv (b.2 * b.2) (2 ^ p))

/-- Bounds of exp(m × 2^e), in units of 2^-p, for 0 ≤ m × 2^e < 128. -/
def expBounds (p : Nat) (m : Nat) (e : Int) : Nat × Nat :=
  let sh := e + p - 8
  let yl := if sh ≥ 0 then m * 2 ^ sh.toNat else m / 2 ^ (-sh).toNat
  let yu := if sh ≥ 0 then yl else yl + 1
  let r := expTerms p yl yu (p / 2 + 8) 1 (2 ^ p) (2 ^ p)
  squareTimes p 8 (2 ^ p + r.1, 2 ^ p + r.2)

/-- The FP32 rounding of a positive value known to lie between two bounds in units of 2^-p, if they round alike. -/
def settle (n : Bool) (p lo hi : Nat) : Option Num :=
  let a := fmtFp32.roundMag .nearest false n lo (-(p : Int)) false
  let b := fmtFp32.roundMag .nearest false n hi (-(p : Int)) false
  if lo ≠ 0 ∧ a = b then some a else none

/-- exp of a finite value, by ever tighter bounds (R129: the correctly rounded result). -/
def expSearch (n : Bool) (m : Nat) (e : Int) : Nat → Nat → Num
  | 0, p => fmtFp32.roundMag .nearest false false (expBounds p m e).1 (-(p : Int)) true
  | fuel + 1, p =>
    let b := expBounds p m e
    let c := if n then (2 ^ (2 * p) / b.2, ceilDiv (2 ^ (2 * p)) b.1) else b
    match settle false p c.1 c.2 with
    | some r => r
    | none => expSearch n m e fuel (2 * p)

/-- exp (R129). -/
def fexp : Num → Num
  | .nan => .nan
  | .inf n => if n then .fin false 0 0 else .inf false
  | .fin n m e =>
    if m = 0 then Num.one
    else if Num.cmp (.fin false m e) (.fin false 120 0) ≥ 0 then (if n then .fin false 0 0 else .inf false)
    else expSearch n m e 6 256

/-- Bounds, in units of 2^-p, of Σ z^(2i+1) / (2i+1) for the powers from `zl`, `zu` on, where z² is between `ql` and `qu`. -/
def atanhTerms (p ql qu : Nat) : Nat → Nat → Nat → Nat → Nat × Nat
  | 0, _, _, zu => (0, 2 * zu)
  | fuel + 1, i, zl, zu =>
    let r := atanhTerms p ql qu fuel (i + 2) (zl * ql / 2 ^ p) (ceilDiv (zu * qu) (2 ^ p))
    (zl / i + r.1, ceilDiv zu i + r.2)

/-- Bounds of 2 × atanh(a / b), in units of 2^-p, for 0 ≤ a / b ≤ 1/3. -/
def atanh2 (p a b : Nat) : Nat × Nat :=
  let zl := a * 2 ^ p / b
  let zu := ceilDiv (a * 2 ^ p) b
  let r := atanhTerms p (zl * zl / 2 ^ p) (ceilDiv (zu * zu) (2 ^ p)) (p / 3 + 4) 1 zl zu
  (2 * r.1, 2 * r.2)

/-- ln of m × 2^e, by ever tighter bounds of ln f + k ln 2 with 1 ≤ f < 2. -/
def lnSearch (m : Nat) (e : Int) : Nat → Nat → Num
  | 0, _ => Num.zero
  | fuel + 1, p =>
    let k := (m.log2 : Int) + e
    let one := 2 ^ m.log2
    let f := atanh2 p (m - one) (m + one)
    let l2 := atanh2 p 1 3
    let lo : Int := f.1 + (if k ≥ 0 then k * l2.1 else k * l2.2)
    let hi : Int := f.2 + (if k ≥ 0 then k * l2.2 else k * l2.1)
    let r := if lo > 0 then settle false p lo.toNat hi.toNat
      else if hi < 0 then settle true p (-hi).toNat (-lo).toNat else none
    match r with
    | some x => x
    | none => lnSearch m e fuel (2 * p)

/-- ln (R129). -/
def fln : Num → Num
  | .nan => .nan
  | .inf n => if n then .nan else .inf false
  | .fin n m e =>
    if m = 0 then .inf true
    else if n then .nan
    else if Num.cmp (.fin false m e) Num.one = 0 then Num.zero
    else lnSearch m e 6 256

/-- Maximum and minimum (R129): NaN when either operand is NaN, −0 below +0. -/
def fmax (a b : Num) : Num :=
  if a.isNan || b.isNan then .nan
  else if a.isZero && b.isZero then (if a.isNeg then b else a)
  else if Num.cmp a b ≥ 0 then a else b

def fmin (a b : Num) : Num :=
  if a.isNan || b.isNan then .nan
  else if a.isZero && b.isZero then (if a.isNeg then a else b)
  else if Num.cmp a b ≤ 0 then a else b

/-- The compares of CSEL (R129, Table 6-8): false with a NaN operand. -/
def fcond (cond : Nat) (a b : Num) : Bool :=
  if a.isNan || b.isNan then false
  else
    let c := Num.cmp a b
    match cond with
    | 0 => c == 0
    | 1 => c != 0
    | 2 => c < 0
    | 3 => c ≤ 0
    | 4 => c > 0
    | _ => c ≥ 0

/-! ### P48 sums -/

/-- One addition in P48 with nearest-even (R97). -/
def p48add (s x : Num) : Num := fmtP48.rne (s.add x)

/-- The P48 bytes of a number that P48 holds. -/
def p48Bytes (x : Num) : List Byte := leBytes 6 (fmtP48.encode x)

/-- The number that six bytes hold in P48. -/
def p48Of (l : List Byte) : Num := fmtP48.decode (ofLe l)

/-- A P48 sum in ascending order from +0 (R113). -/
def p48Sum (l : List Num) : Num := l.foldl p48add Num.zero

/-- A number as its FP32 word. -/
def f32Bits (x : Num) : Nat := fmtFp32.encode (f32 x)

/-- The number of an FP32 word. -/
def f32Of (w : Nat) : Num := fmtFp32.decode (w % 2 ^ 32)

/-! ### The counter generator (R132 to R137) -/

/-- One round of the generator. -/
def genRound (x y k : Nat) : Nat × Nat :=
  let p := x * 0xb3a96e51c4d72f0b
  (Nat.xor (Nat.xor (p / 2 ^ 64) y) k, p % 2 ^ 64)

/-- `n` rounds of the generator. -/
def genRounds : Nat → Nat → Nat → Nat → Nat × Nat
  | 0, x, y, _ => (x, y)
  | n + 1, x, y, k =>
    let r := genRound x y k
    genRounds n r.1 r.2 ((k + 0x9e3779b97f4a7c15) % 2 ^ 64)

/-- 128 output bits of a counter under a key (R132). -/
def gen (c key : Nat) : Nat :=
  let r := genRounds 10 (c % 2 ^ 64) (c / 2 ^ 64 % 2 ^ 64) (key % 2 ^ 64)
  r.1 * 2 ^ 64 + r.2

/-- The counter of form S (Table 5-5). -/
def counterS (tensor step cursor elem : Nat) : Nat :=
  2 ^ 127 + tensor % 2 ^ 23 * 2 ^ 104 + step % 2 ^ 16 * 2 ^ 88 + cursor % 2 ^ 64 * 2 ^ 24 + elem % 2 ^ 24

/-- The counter of form W (Table 5-5). -/
def counterW (tensor step elem : Nat) : Nat :=
  tensor % 2 ^ 23 * 2 ^ 104 + step / 2 ^ 24 % 2 ^ 16 * 2 ^ 88 + step % 2 ^ 24 * 2 ^ 64 + elem % 2 ^ 64

/-- The counter of TX2 emulation (Table 5-10). -/
def counterTx2 (tensor draws : Nat) : Nat := tensor % 2 ^ 24 * 2 ^ 104 + draws % 2 ^ 64

/-- Uniform noise (Table 5-6). -/
def uniformNoise (out : Nat) : Num := .fin false (fld out 127 104) (-24)

/-- Bell noise (Table 5-6). -/
def bellNoise (out : Nat) : Num :=
  let u := fun i => Num.fin false (fld out (32 * i + 31) (32 * i + 8)) (-24)
  fmul (fsub (fadd (fadd (fadd (u 0) (u 1)) (u 2)) (u 3)) (.fin false 2 0)) (f32Of 0x3FDDB3D7)

/-- The exponent of an element for MAX_EXP (R131): ⌊log2 |x|⌋, clamped; −128 for a zero or a non-finite one. -/
def expOf : Num → Int
  | .fin _ m e => if m = 0 then -128 else
      let x := (m.log2 : Int) + e
      if x < -127 then -127 else if 127 < x then 127 else x
  | _ => -128

/-- The largest exponent among values, as MAX_EXP reports it (R131). -/
def maxExpOf (vals : List Num) : Int := vals.foldl (fun e v => if e < expOf v then expOf v else e) (-128)

end Sys2Proof.Machine
end

