-- ==== Sys2Proof/Machine/Flags.lean ====
section
/-! DEFINITION. The flag computations: tile status words (Table 4-3), reduce result records (Table 4-5), completion
records (Table 6-19, Table 6-20) and their codes. -/

namespace Sys2Proof.Machine

/-- A tile status word (Table 4-3). -/
def tileStatusWord (overflow : Bool) (tag retries : Nat) (nonfinite ovfElem : Bool) (tile : Nat) : Nat :=
  (if overflow then Status.accOverflow.code else 0) + tag % 4 * 2 ^ 8 + retries % 4 * 2 ^ 10 + b2n nonfinite * 2 ^ 12 +
  b2n ovfElem * 2 ^ 13 + tile % 2 ^ 16 * 2 ^ 16

/-- A reduce result record (Table 4-5): VALUE, FLAGS and INDEX. -/
def reduceRecord (v : Num) (tie empty overflow : Bool) (index : Int) : List Byte :=
  let nonfinite := !v.isFinite && !empty
  p48Bytes v ++ leBytes 1 (b2n nonfinite + 2 * b2n tie + 4 * b2n empty + 8 * b2n overflow) ++ zeros 1 ++
  leBytes 4 (ofSigned 32 index) ++ zeros 4

/-- Fields of a command word (Table 6-2). -/
def cmdOpcode (w : QWord) : Nat := fld w.toNat 5 0
def cmdCr (w : QWord) : Bool := bitAt w.toNat 6
def cmdOrd (w : QWord) : Bool := bitAt w.toNat 7

/-- GRAD, implied for LOSS (Table 6-2). -/
def cmdGrad (w : QWord) : Bool := bitAt w.toNat 8 || cmdOpcode w == 9
def cmdIrq (w : QWord) : Bool := bitAt w.toNat 9

/-- The body of a command's record but for DONE_TIME (Table 6-20), 16 bytes; a LOSS brings its own 24. -/
def recordBody (c : Cmd) : List Byte :=
  match cmdOpcode c.word with
  | 1 | 2 => leBytes 1 c.tflags ++ leBytes 1 c.maxTag ++ leBytes 1 c.maxRetries ++ zeros 1 ++ leBytes 4 c.count ++ zeros 8
  | 3 | 6 | 4 | 5 => leBytes 1 c.tflags ++ zeros 3 ++ leBytes 4 (Nat.min c.count (2 ^ 32 - 1)) ++ zeros 8
  | 7 | 8 | 11 | 12 => slice c.body 0 16
  | 10 => leBytes 8 c.moved ++ zeros 8
  | _ => zeros 16

/-- A completion record (Table 6-19). -/
def completionRecord (status : Status) (c : Cmd) (q : Nat) (doneTime : Nat) : List Byte :=
  let grad := cmdGrad c.word
  leBytes 1 status.code ++ leBytes 1 (cmdOpcode c.word) ++
  leBytes 1 (ofSigned 8 (if grad then c.maxExp else -128)) ++
  leBytes 1 (q % 4 + 4 * b2n c.reissued + 8 * b2n c.parked) ++ leBytes 4 c.index.toNat ++
  (if cmdOpcode c.word = 9 then slice c.body 0 24 else recordBody c ++ leBytes 8 doneTime)

/-- A PREEMPTED record (R158): OPCODE 0, INDEX the queue's HEAD. -/
def preemptedRecord (q head doneTime : Nat) : List Byte :=
  leBytes 1 Status.preempted.code ++ zeros 1 ++ leBytes 1 0x80 ++ leBytes 1 (q % 4) ++ leBytes 4 head ++ zeros 16 ++
  leBytes 8 doneTime

/-- Whether a command's final code calls for a record (R159). -/
def needsRecord (status : Status) (w : QWord) : Bool := status != .ok || cmdCr w || cmdGrad w

end Sys2Proof.Machine
end

