-- ==== Sys2Proof/Machine/Operands.lean ====
section
/-! DEFINITION. The operand forms: packed rows (R124), operand descriptors and parameter descriptors (R161, R162, R431),
operand selectors (R163), the skew layouts (R198, R200), tiles and their deal (R83, R164), and the Sorus block layout. -/

namespace Sys2Proof.Machine

/-! ### Packed rows (R124) -/

/-- Elements of one packing group and the group's bytes. -/
def packGroup (fmt : Nat) : Nat × Nat :=
  match fmt with
  | 4 => (8, 12)
  | 5 => (3, 4)
  | 11 => (3, 4)
  | 8 => (2, 1)
  | _ => (1, fmtBits fmt / 8)

/-- The format that a row store holds elements of a format in: W24 in 32-bit lanes (R124, Table 3-3). -/
def laneFmt (fmt : Nat) : Nat := if fmt = 1 then 13 else fmt

/-- Whether `n` elements fit the 1,024 bytes that a row-store half gives a cell row (R76, Table 3-3). -/
def fitsLane (fmt n : Nat) : Bool := n * (packGroup (laneFmt fmt)).2 ≤ 1024 * (packGroup (laneFmt fmt)).1

/-- Bytes of a packed row of `n` elements. -/
def rowBytes (fmt n : Nat) : Nat := ceilDiv n (packGroup fmt).1 * (packGroup fmt).2

/-- The element at position `c` of a row, given the row's bytes by offset. -/
def getElem (rd : Nat → Byte) (fmt c : Nat) : Nat :=
  let g := packGroup fmt
  let v := ofLe ((List.range g.2).map fun i => rd (c / g.1 * g.2 + i))
  fld v (fmtBits fmt * (c % g.1) + fmtBits fmt - 1) (fmtBits fmt * (c % g.1))

/-- A place of a row: the key of the byte at each offset, where there is one. -/
abbrev RowAt := Nat → Option Nat

/-- The byte at an offset of a row. -/
def State.rowByte (s : State) (row : RowAt) (off : Nat) : Byte :=
  match row off with
  | some k => s.mem.read k
  | none => 0

/-- The element at position `c` of a row, as its encoding. -/
def State.elem (s : State) (row : RowAt) (fmt c : Nat) : Nat := getElem (s.rowByte row) fmt c

/-- Bytes written at an offset of a row. -/
def State.rowWrite (s : State) (row : RowAt) (off : Nat) : List Byte → State
  | [] => s
  | b :: r =>
    match row off with
    | some k => ({ s with mem := s.mem.write k b } : State).rowWrite row (off + 1) r
    | none => s.rowWrite row (off + 1) r

/-- Element `c` of a row of `cols` written; with the row's last element, the unused positions after it become zero
encodings (R124). -/
def State.setElem (s : State) (row : RowAt) (fmt cols c v : Nat) : State :=
  let g := packGroup fmt
  let w := fmtBits fmt
  let p := c % g.1
  let off := c / g.1 * g.2
  let old := ofLe ((List.range g.2).map fun i => s.rowByte row (off + i))
  let kept := if c + 1 ≥ cols then old % 2 ^ (w * p) else setFld old (w * p + w - 1) (w * p) 0
  s.rowWrite row off (leBytes g.2 (kept + v % 2 ^ w * 2 ^ (w * p)))

/-- Elements of a row written from position `c` on. -/
def State.setElems (s : State) (row : RowAt) (fmt cols c : Nat) : List Nat → State
  | [] => s
  | v :: r => (s.setElem row fmt cols c v).setElems row fmt cols (c + 1) r

/-- A packed row made of encodings. -/
def packRow (fmt : Nat) (vs : List Nat) : List Byte :=
  let g := packGroup fmt
  (List.range (ceilDiv vs.length g.1)).flatMap fun i =>
    leBytes g.2 ((List.range g.1).foldl (fun a j => a + vs.getD (i * g.1 + j) 0 * 2 ^ (fmtBits fmt * j)) 0)

/-! ### Operand descriptors (R161, R162) -/

/-- A command word at a queue, with what its checks need; `tab` holds the entries of the descriptor table that the queue engine
read at dispatch, by number (R161). -/
structure At where
  c : Nat
  q : Nat
  win : Nat
  w : Nat
  tab : List (Nat × List Byte) := []
  deriving DecidableEq, Repr

/-- A 9-bit descriptor field. -/
def At.d (x : At) (lo : Nat) : Nat := fld x.w (lo + 8) lo

/-- A bit range of the word. -/
def At.f (x : At) (hi lo : Nat) : Nat := fld x.w hi lo

/-- A bit of the word. -/
def At.b (x : At) (i : Nat) : Bool := bitAt x.w i

/-- An operand descriptor (Table 6-4). -/
structure Desc where
  addr : Nat
  kind : Nat
  layout : Nat
  rows : Nat
  cols : Nat
  stride : Nat
  handle : Nat
  deriving DecidableEq, Repr

/-- A parameter descriptor (KIND 3). -/
structure Param where
  rows : Nat
  cols : Nat
  c : List Num
  drop : Nat
  deriving DecidableEq, Repr

/-- The layout of Table 6-4 on 32 bytes. -/
def descOf (l : List Byte) : Desc :=
  { addr := le l 0 8, kind := le l 8 1, layout := le l 9 1, rows := le l 12 3, cols := le l 16 3, stride := le l 20 4,
    handle := le l 24 4 }

/-- Whether the reserved bytes of a KIND 0, 1 or 2 descriptor, and the fields its KIND does not use, are 0 (R161). -/
def descClean (l : List Byte) : Bool :=
  le l 10 2 == 0 && le l 15 1 == 0 && le l 19 1 == 0 && le l 28 4 == 0 && le l 9 1 < 4 &&
  (match le l 8 1 with
   | 0 => le l 24 4 == 0
   | 1 => le l 0 8 == 0 && le l 24 4 == 0
   | 2 => le l 0 8 < 1024
   | _ => false)

/-- The KIND 3 form on 32 bytes. -/
def paramOf (l : List Byte) : Param :=
  { rows := le l 0 3, cols := le l 4 3,
    c := [f32Of (le l 12 4), f32Of (le l 16 4), f32Of (le l 20 4), f32Of (le l 24 4)], drop := le l 28 3 }

/-- Whether the reserved parts of a KIND 3 descriptor are 0. -/
def paramClean (l : List Byte) : Bool :=
  le l 8 1 == 3 && le l 9 3 == 0 && le l 3 1 == 0 && le l 7 1 == 0 && le l 31 1 == 0

/-- The 32 bytes of entry `i` of a window of a context's descriptor table; none beyond COUNT (R161). -/
def State.descBytes (s : State) (c window i : Nat) : Option (List Byte) :=
  let k := s.ctx c
  let n := 512 * window + i
  if n < k.descCount then some (s.fwRead (k.descAddr * 8192 + 32 * n) 32) else none

/-- The entry that field `i` of a command names: as the queue engine read it at dispatch, or, before that, as it stands
(R161). -/
def State.entryOf (s : State) (x : At) (i : Nat) : Option (List Byte) :=
  match x.tab.find? fun e => e.1 == 512 * x.win + i with
  | some e => some e.2
  | none => s.descBytes x.c x.win i

/-- The descriptor of a field `i`, if the field names one that stands, of a kind in `kinds`. -/
def State.desc (s : State) (x : At) (i : Nat) (kinds : List Nat) : Option Desc :=
  if i = 0 then none
  else
    match s.entryOf x i with
    | some l => if descClean l && kinds.contains (le l 8 1) then some (descOf l) else none
    | none => none

/-- The parameter descriptor of a field `i`. -/
def State.param (s : State) (x : At) (i : Nat) : Option Param :=
  if i = 0 then none
  else
    match s.entryOf x i with
    | some l => if paramClean l then some (paramOf l) else none
    | none => none

/-- Where the descriptor fields of a word of each opcode lie; a selector's descriptor form is its low nine bits, with bit 9
clear (R163). -/
def descFields (w : Nat) : List Nat :=
  let d := fun (l : List Nat) => l.map fun lo => fld w (lo + 8) lo
  let sel := fun (l : List Nat) => l.map fun lo => if bitAt w (lo + 9) then 0 else fld w (lo + 8) lo
  match fld w 5 0 with
  | 1 => d [16, 25, 34, 43, 52]
  | 2 => d [16, 25, 34]
  | 3 => sel [21, 31, 41, 51] ++ d [61, 118]
  | 4 => sel [19] ++ d [29, 38, 47, 56]
  | 5 => sel [22] ++ d [32, 41, 50, 59]
  | 6 => sel [16, 26] ++ d [55, 64]
  | 7 => d [16, 25, 34]
  | 8 => d [16, 25]
  | 9 => d [16, 25, 34, 43, 52]
  | 10 => d [16, 25, 34]
  | _ => []

/-- The entries of the descriptor table that a word names, as the queue engine reads them at dispatch (R161). -/
def State.readDescs (s : State) (c window w : Nat) : List (Nat × List Byte) :=
  (descFields w).filterMap fun i =>
    if i = 0 then none else (s.descBytes c window i).map fun l => (512 * window + i, l)

/-- Bytes between row starts of a row-major operand (Table 6-4, R431). -/
def Desc.pitch (d : Desc) (fmt : Nat) : Nat :=
  if d.stride ≠ 0 then d.stride else if d.layout = 3 then 16 * d.cols else rowBytes fmt d.cols

/-! ### Skew layouts (R198 to R201) -/

/-- The class of a multiply operand format (Table 3-1): MACs per wave in quarters, granule, K_max (Table 3-3). -/
def mulClass : Nat → Option (Nat × Nat × Nat)
  | 0 => some (1, 16, 256)
  | 1 => some (1, 16, 256)
  | 2 => some (4, 16, 512)
  | 3 => some (4, 16, 512)
  | 12 => some (4, 16, 512)
  | 4 => some (8, 32, 672)
  | 5 => some (8, 32, 768)
  | 6 => some (8, 32, 1024)
  | 7 => some (8, 32, 1024)
  | 9 => some (8, 32, 1024)
  | 10 => some (8, 32, 1024)
  | 8 => some (16, 64, 2048)
  | _ => none

/-- The segment depth D of a LAYOUT 1 operand: STRIDE[15:0], 0 for all K rows. -/
def Desc.depth (d : Desc) : Nat := if fld d.stride 15 0 = 0 then d.rows else fld d.stride 15 0

/-- The pitch of a segment: 16 D + 15 entry rows of 16 lanes packed as one row, rounded up to 64 bytes. -/
def segPitch (fmt depth : Nat) : Nat := roundUp (rowBytes fmt (16 * (16 * depth + 15))) 64

/-- The byte span of an operand of a format (R154, R201). -/
def Desc.span (d : Desc) (fmt : Nat) : Nat :=
  match d.layout with
  | 1 => ceilDiv d.cols 256 * ceilDiv d.rows d.depth * segPitch fmt d.depth
  | 2 =>
    let g := 2 ^ fld d.stride 25 24
    let c := fld d.stride 23 0
    if c = 0 then 0 else d.rows * roundUp (g * rowBytes fmt (d.cols / c * (c / g))) 64
  | 3 => if d.rows = 0 then 0 else (d.rows - 1) * d.pitch fmt + 16 * d.cols
  | _ => if d.rows = 0 then 0 else (d.rows - 1) * d.pitch fmt + rowBytes fmt d.cols

/-- The segment offset and the element position of B[k][n] in LAYOUT 1 (R198). -/
def skewPos (d : Desc) (fmt k n : Nat) : Nat × Nat :=
  let dp := d.depth
  let seg := n / 256 * ceilDiv d.rows dp + k / dp
  let lane := n % 16
  let pass := n % 256 / 16
  (seg * segPitch fmt dp, (pass * dp + k % dp + lane) * 16 + lane)

/-- Bytes of a LAYOUT 2 input row: bands of packed positions, rounded up to 64 (R200). -/
def convRowPitch (d : Desc) (fmt : Nat) : Nat :=
  let g := 2 ^ fld d.stride 25 24
  let c := fld d.stride 23 0
  roundUp (g * rowBytes fmt (d.cols / c * (c / g))) 64

/-- The offset of the band and the element position of channel `ch` at position `x` in LAYOUT 2 (R200). -/
def convPos (d : Desc) (fmt x ch : Nat) : Nat × Nat :=
  let g := 2 ^ fld d.stride 25 24
  let c := fld d.stride 23 0
  let w := c / g
  (ch / w * rowBytes fmt (d.cols / c * w), x * w + ch % w)

/-! ### Selectors (R163) -/

/-- What an operand selector names. -/
inductive Sel2 where
  | none
  | desc (i : Nat)
  | slot (base : Nat) (release : Bool)
  | rowStore
  | const (i : Nat)
  | bad
  deriving DecidableEq, Repr

/-- The forms of Table 6-5. -/
def selOf (v : Nat) : Sel2 :=
  if v < 512 then (if v = 0 then .none else .desc v)
  else
    match fld v 8 7 with
    | 0 => if fld v 6 3 = 0 then .slot (fld v 1 0) (bitAt v 2) else .bad
    | 1 => if fld v 6 0 = 0 then .rowStore else .bad
    | 2 => if fld v 6 2 = 0 then .const (fld v 1 0) else .bad
    | _ => .bad

/-! ### Tiles and their deal (R83, R164) -/

/-- The quadrants of a queue: `CTX_Q_QUADS`, 0 for every quadrant of the context. -/
def State.queueQuads (s : State) (c q : Nat) : Nat :=
  let m := (s.queue c q).quads
  if m = 0 then (s.ctx c).quads else m

/-- The live arrays of a queue's quadrants, ascending (R83, R93). -/
def State.cmdArrays (s : State) (c q : Nat) : List Nat :=
  (members (s.queueQuads c q) 32).flatMap fun k =>
    ((List.range 128).map fun a => 128 * k + a).filter fun a => !(s.arr a).retired

/-- The base die of an array. -/
def arrDie (a : Nat) : Nat := a / 512

/-- The base die of the queue's lowest-numbered quadrant. -/
def State.queueDie (s : State) (c q : Nat) : Nat := ((members (s.queueQuads c q) 32).headD 0) / 4

/-- Row tiles and column tiles of an extent. -/
def rowTiles (m : Nat) : Nat := ceilDiv m 16
def colTiles (n : Nat) : Nat := ceilDiv n 256
def tileCount (m n : Nat) : Nat := rowTiles m * colTiles n

/-- The row tile and column tile of tile `t`: the column tile is outer. -/
def tilePos (m t : Nat) : Nat × Nat := (t % rowTiles m, t / rowTiles m)

/-- The array to which item `i` is dealt, and how many earlier items fell on it. -/
def dealt (arrays : List Nat) (i : Nat) : Nat × Nat :=
  if arrays.length = 0 then (0, 0) else (arrays.getD (i % arrays.length) 0, i / arrays.length)

/-- The most tiles that fall on one array of the queue. -/
def State.perArray (s : State) (x : At) (tiles : Nat) : Nat := ceilDiv tiles (Nat.max 1 (s.cmdArrays x.c x.q).length)

/-- The descriptor of a field of a word, of a kind in `kinds`. -/
def State.opd (s : State) (x : At) (lo : Nat) (kinds : List Nat) : Option Desc := s.desc x (x.d lo) kinds

/-- The tiles of a matrix command: rows and columns of D for MATMUL; bands and groups for CONVROW. -/
def State.matTiles (s : State) (x : At) : Nat :=
  if x.f 5 0 = 1 then
    match s.opd x 16 [0, 1], s.opd x 25 [0] with
    | some a, some b => tileCount a.rows b.cols
    | _, _ => 0
  else
    match s.opd x 25 [0] with
    | some b => ceilDiv (b.rows - x.f 74 71) 16 * (x.f 119 112 + 1)
    | none => 0

/-! ### Rows of operands -/

/-- Row `r` of a KIND 0 operand, for a unit on base die `die`. -/
def State.memRow (s : State) (ptn die : Nat) (d : Desc) (fmt r : Nat) : RowAt :=
  fun off => s.key ptn die (d.addr + r * d.pitch fmt + off)

/-- Row `r` of a row-store half. -/
def storeRow (arr half r : Nat) : RowAt := fun off => some (rowKey arr half (1024 * r + off))

/-- Bytes of one token in a Sorus block: K + 1 entries, or a packed W12 row (R26, R29). -/
def Channel.tokenBytes (ch : Channel) : Nat := if ch.feature then rowBytes 4 ch.width else 6 * (ch.width + 1)

/-- Token `t` of a Sorus slot. -/
def sorRow (chan slot tokenBytes t : Nat) : RowAt := fun off => some (sorKey chan slot (t * tokenBytes + off))

/-- The element (i, n) of an accumulator slot, tag not applied. -/
def State.slotElem (s : State) (a k i n : Nat) : Num := p48Of (s.mem.readAll (accKey a k ((256 * i + n) * 6)) 6)

/-- The element (i, n) of an accumulator slot with its tag applied (R104). -/
def State.slotValue (s : State) (a k i n : Nat) : Num :=
  (s.slotElem a k i n).scale (8 * ((s.arr a).slots.getD k AccSlot.reset).tag)

/-- A tile written into a slot, row by row. -/
def State.writeTile (s : State) (a k cols : Nat) (v : Nat → Nat → Num) : State :=
  (List.range 16).foldl (fun s i => (List.range cols).foldl (fun s n =>
    { s with mem := s.mem.writeAll (accKey a k ((256 * i + n) * 6)) (p48Bytes (v i n)) }) s) s

/-- The data cursor that row `r` of a cursor operand holds. -/
def State.cursorAt (s : State) (ptn die : Nat) (d : Desc) (r : Nat) : Nat :=
  ofLe ((List.range 8).map fun i =>
    s.readAt ptn die (d.addr + r * (if d.stride = 0 then 8 else d.stride) + i))

end Sys2Proof.Machine
end

