-- ==== Sys2Proof/Machine/Queues.lean ====
section
/-! DEFINITION. The operations of the command queues (R150 to R159, R175 to R178): counts, records, final codes, reissue
and halt. -/

namespace Sys2Proof.Machine

namespace State

/-- HOST_WR messages of at most 256 bytes each (Table 15-5). `fuel` bounds the messages. -/
def hostMessages (s : State) (h : Nat) (l : List Byte) : Nat → State
  | 0 => s
  | fuel + 1 => if l = [] then s else (s.send (.hostWr none h (l.take 256))).hostMessages (h + 256) (l.drop 256) fuel

/-- Firmware or a queue engine writes at an address a register holds; host space is reached by HOST_WR (R383), while the link
carries messages. -/
def post (s : State) (a : Nat) (l : List Byte) : State :=
  match parseAddr a with
  | .host h => if s.linkUp then (s.fwWrite a l).hostMessages h l (l.length / 256 + 1) else s
  | _ => s.fwWrite a l

/-- The local time that a queue's records carry: that of the group controller of the serving queue engine (R150, R177). -/
def queueTime (s : State) (c q : Nat) : Nat := (s.groupTime (s.queueDie c q)).toNat

/-- Whether a queue's completion ring can take a record (R159). A queue without a ring keeps no records. -/
def cringRoom (s : State) (c q n : Nat) : Bool :=
  let x := s.queue c q
  x.cringLog2 == 0 || (x.ctail - x.chead).toNat + n < 2 ^ x.cringLog2

/-- Write one record to a queue's completion ring (R159). -/
def putRecord (s : State) (c q : Nat) (l : List Byte) : State :=
  let x := s.queue c q
  if x.cringLog2 = 0 ∨ s.cringRoom c q 0 = false then s
  else
    let s1 := s.post (x.cringAddr * 4096 + 32 * (x.ctail.toNat % 2 ^ x.cringLog2)) l
    s1.setQueue c q { s1.queue c q with ctail := x.ctail + 1 }

/-- Whether the context holds a slot on an array of the queue: then its finished commands may have to run again (R157). -/
def holdsSlot (s : State) (c q : Nat) : Bool :=
  (s.cmdArrays c q).any fun a => (s.arr a).slots.any fun x => x.state == .held && x.owner == c

/-- DONE after the longest run of commands with a final code from it on (R151). -/
def doneAfter (cmds : List Cmd) : Nat → Word → Word
  | 0, d => d
  | fuel + 1, d => if cmds.any fun y => y.index == d && y.final then doneAfter cmds fuel (d + 1) else d

/-- DONE passes the longest prefix of commands with a final code (R151), which leave the queue; commands that ran again
after their final code leave it too. A queue whose counts meet is IDLE (Table 6-1). -/
def advance (s : State) (c q : Nat) : State :=
  let x := s.queue c q
  let done := doneAfter x.cmds x.cmds.length x.done
  let past := fun (y : Cmd) => y.final && decide ((y.index - done).toInt < 0)
  let rest := x.cmds.filter fun y => !past y
  let idle := rest.isEmpty && done == x.tail && (x.state == .active || x.state == .waiting || x.state == .gated)
  s.setQueue c q { x with
    cmds := rest, done := done, state := if idle then .idle else x.state,
    chain := if s.holdsSlot c q then x.chain ++ x.cmds.filter past else [] }

/-- The outstanding command of an index. -/
def cmd (s : State) (c q : Nat) (idx : Word) : Option Cmd := (s.queue c q).cmds.find? fun x => x.index == idx

/-- An outstanding command changed. -/
def modCmd (s : State) (c q : Nat) (idx : Word) (f : Cmd → Cmd) : State :=
  let x := s.queue c q
  s.setQueue c q { x with cmds := x.cmds.map fun y => if y.index = idx then f y else y }

/-- The unit that did the work answers a command's code (R15). -/
def answer (s : State) (c q : Nat) (idx : Word) (st : Status) : State :=
  s.modCmd c q idx fun y => { y with result := some st }

/-- The unit answers RETRY_LATER for a domain that is not open: the command waits for its fence-clear notice (R157). -/
def answerFenced (s : State) (c q : Nat) (idx : Word) (d : Nat) : State :=
  s.modCmd c q idx fun y => { y with result := some .retryLater, waitDom := some d }

/-- Halt a queue (R156). A later failure in a queue that is HALTED already takes the place of the first (DESIGN CHOICE, log entry
196). -/
def halt (s : State) (c q : Nat) (idx : Word) (st : Status) : State :=
  let x := s.queue c q
  (s.setQueue c q { x with state := .halted, lastStatus := st, haltedAt := idx }).raiseCtx evQ 0 c q

end State

/-- A command as it stood before its unit began. -/
def cmdRestart (y : Cmd) : Cmd :=
  { y with
    started := false, left := 0, result := none, waitDom := none, waitFrom := none, tflags := 0, maxTag := 0,
    maxRetries := 0, count := 0, moved := 0, maxExp := -128, body := [], combined := [], partials := [], spilled := [], fillAt := none,
    waits := 0 }

/-- A command that has just been dispatched. -/
def cmdNew (index : Word) (word : QWord) (window : Nat) : Cmd :=
  { index := index, word := word, window := window, started := false, left := 0, result := none, final := false,
    recorded := false, resets := 0, reissued := false, parked := false, waitDom := none, waitFrom := none, tflags := 0,
    maxTag := 0, maxRetries := 0, count := 0, moved := 0, maxExp := -128, body := [], combined := [], draws := none, partials := [],
    spilled := [], fillAt := none, waits := 0, descs := [] }

/-- Whether a word is a matrix command that leaves its tiles HELD (R165, R166). -/
def leavesHeld (w : QWord) : Bool :=
  (cmdOpcode w == 1 && !bitAt w.toNat 74) || (cmdOpcode w == 2 && !bitAt w.toNat 56)

/-- Whether a word is a matrix command that adds (R72). -/
def adds (w : QWord) : Bool := (cmdOpcode w == 1 && bitAt w.toNat 73) || (cmdOpcode w == 2 && bitAt w.toNat 55)

/-- The base slot of a matrix command's word. -/
def baseSlot (w : QWord) : Nat := if cmdOpcode w = 1 then fld w.toNat 78 77 else fld w.toNat 60 59

/-- The slot numbers that a selector's slot form names, from its base up over the tiles of one array. -/
def slotRange (base perArray : Nat) : Nat := maskOf ((List.range (Nat.min perArray 4)).map fun j => (base + j) % 4)

namespace State

/-- A queued command as its checks take it. -/
def atCmd (c q : Nat) (y : Cmd) : At := { c := c, q := q, win := y.window, w := y.word.toNat, tab := y.descs }

/-- The slots that a command names, as masks over the arrays of its queue, and whether it writes them: those a matrix command
leaves HELD, and those its selectors read, which a RELEASE frees (R154, R164, Table 6-5). -/
def slotUses (s : State) (x : At) : List (Nat × Bool) :=
  let w := BitVec.ofNat 128 x.w
  let sel := fun (v par : Nat) => match selOf v with
    | .slot b r => [(slotRange b (s.perArray x (((s.param x (x.d par)).map fun p => tileCount p.rows p.cols).getD 0)), r)]
    | _ => []
  match x.f 5 0 with
  | 1 | 2 => if leavesHeld w then [(slotRange (baseSlot w) (s.perArray x (s.matTiles x)), true)] else []
  | 3 => sel (x.f 30 21) 61 ++ sel (x.f 40 31) 61 ++ sel (x.f 50 41) 61
  | 4 => sel (x.f 28 19) 56
  | 5 => sel (x.f 31 22) 59
  | 6 => sel (x.f 25 16) 55
  | _ => []

/-- The slots of `slotUses` as one mask. -/
def slotMask (s : State) (x : At) : Nat := (s.slotUses x).foldl (fun m u => m ||| u.1) 0

/-- Take a command's unfinished array instructions and drains off the arrays, with the slots they hold and the rows that were
loaded for them. -/
def unbind (s : State) (c q : Nat) (idx : Word) : State :=
  let mine := fun (i : ArrInstr) => i.ctx == c && i.q == q && i.idx == idx
  let mineD := fun (d : Drain) => d.ctx == c && d.q == q && d.idx == idx
  let held : List (Nat × Nat) := match s.cmd c q idx with
    | some y => y.partials.map fun p => (p.2.2.1, p.2.2.2.1)
    | none => []
  { s with arrays := tmap (fun a x =>
      let freed := (x.bound.filter mine).filterMap (·.slot) ++ (x.drains.filter mineD).map (·.slot) ++
        (held.filter fun h => h.1 == a).map (·.2)
      { x with
        halves := x.halves.map fun h =>
          if h.load.any fun l => l.ctx == c && l.q == q && l.idx == idx then Half2.reset else h
        bound := x.bound.filter (fun i => !mine i), drains := x.drains.filter (fun d => !mineD d),
        slots := x.slots.zipIdx.map fun (sl, k) => if freed.contains k then AccSlot.reset else sl }) s.arrays }

/-- Free the slots of a mask that a context holds on a queue's arrays (R157). -/
def freeHeld (s : State) (c q mask : Nat) : State :=
  let as := s.cmdArrays c q
  { s with arrays := tmap (fun a x =>
      if as.contains a then
        { x with slots := x.slots.zipIdx.map fun (sl, k) =>
            if bitAt mask k && sl.owner == c && sl.state != .free then AccSlot.reset else sl }
      else x) s.arrays }

/-- Reissue a command that was answered with RETRY_LATER: it keeps its place (R157). -/
def retry (s : State) (c q : Nat) (idx : Word) : State :=
  match s.cmd c q idx with
  | none => s
  | some _ =>
    let s1 := s.unbind c q idx
    let x := s1.queue c q
    s1.setQueue c q { x with
      reissues := satAdd 16 x.reissues 1,
      cmds := x.cmds.map fun z => if z.index = idx then { cmdRestart z with reissued := true, resets := z.resets } else z }

/-- Reissue a command that was answered with DOMAIN_RESET, from its first array instruction; one that added into slots an earlier
command left HELD restarts the chain from its head, the latest earlier command that wrote those slots with ADD clear: the chain's
slots are freed, and every later command that used them runs again (R157). -/
def reissue (s : State) (c q : Nat) (idx : Word) : State :=
  match s.cmd c q idx with
  | none => s
  | some y =>
    let again := fun (z : Cmd) => { cmdRestart z with reissued := true, resets := z.resets }
    let s2 := s.retry c q idx
    if leavesHeld y.word then
      let mask := s2.slotMask (atCmd c q y)
      if adds y.word then
        let x := s2.queue c q
        let before := x.chain ++ x.cmds.takeWhile (fun z => z.index != idx)
        let uses := fun (m : Nat) (z : Cmd) => Nat.land (s2.slotMask (atCmd c q z)) m != 0
        let isHead := fun (z : Cmd) => leavesHeld z.word && !adds z.word && uses mask z
        match before.reverse.find? isHead with
        | none => s2.freeHeld c q mask
        | some h =>
          let all := mask ||| s2.slotMask (atCmd c q h)
          let redo := ((x.chain ++ x.cmds).dropWhile fun z => z.index != h.index).filter fun z =>
            z.index == h.index || z.index == idx || (uses all z && (z.started || z.final || z.result.isSome))
          let s3 := (redo.foldl (fun (s : State) z => s.unbind c q z.index) s2).freeHeld c q all
          let back := fun (z : Cmd) =>
            if (redo.any fun r => r.index == z.index) = false then z
            else if z.final then { again z with final := false, recorded := true }
            else again z
          s3.setQueue c q { x with
            chain := x.chain.filter fun z => !(redo.any fun r => r.index == z.index),
            cmds := (x.chain.filter fun z => redo.any fun r => r.index == z.index).map back ++ x.cmds.map back }
      else s2.freeHeld c q mask
    else s2

/-- A command receives its final code (R156, R159): its record, its interrupt, what its layer reports (R138), and the
code's effect on the queue or the context. -/
def finalCode (s : State) (c q : Nat) (idx : Word) (st : Status) : State :=
  match s.cmd c q idx with
  | none => s
  | some y =>
    let s1 := if needsRecord st y.word && !y.recorded then
        s.putRecord c q (completionRecord st y q (s.queueTime c q)) else s
    let s2 := s1.modCmd c q idx fun z => { z with final := true }
    let op := cmdOpcode y.word
    let bad := b2n (st == .nonfiniteStep || ((op == 1 || op == 2) && y.tflags % 2 == 1)) |||
      2 * b2n (st == .accOverflow)
    let x := s2.queue c q
    let s3 := if y.recorded then s2 else s2.setQueue c q { x with
      gateBad := x.gateBad ||| bad,
      gateMax := if cmdGrad y.word && x.gateMax < y.maxExp then y.maxExp else x.gateMax }
    let s4 := if cmdIrq y.word && !y.recorded then s3.raiseCtx evQ 4 c q else s3
    let s5 := match st with
      | .ok | .accOverflow | .nonfiniteStep => s4
      | .contextFault => s4.faultContext 3 c
      | _ => s4.halt c q idx st
    s5.advance c q

/-- The code that a command's unit answered takes effect (R156, R157): RETRY_LATER keeps the place of the command, which
is reissued when its target's fence clears; DOMAIN_RESET reissues it up to three times; any other code is final. -/
def complete (s : State) (c q : Nat) (idx : Word) : State :=
  match s.cmd c q idx with
  | none => s
  | some y =>
    if y.final then s
    else
      match y.result with
      | none => s
      | some .retryLater => if y.waitDom.isSome then s else s.retry c q idx
      | some .domainReset =>
        if y.resets < 3 then (s.modCmd c q idx fun z => { z with resets := z.resets + 1 }).reissue c q idx
        else s.finalCode c q idx .domainReset
      | some st => s.finalCode c q idx st

end State

end Sys2Proof.Machine
end

