-- ==== Sys2Proof/Machine/Commands.lean ====
section
/-! DEFINITION. Command words at dispatch: the checks of R160 to R174, the operand spans and footprints of R154, and the
access checks of R185. -/

namespace Sys2Proof.Machine

/-- One memory span a command touches: the address, the bytes, whether it writes. -/
structure Span where
  addr : Nat
  len : Nat
  write : Bool
  deriving DecidableEq, Repr

/-- A part of a footprint (R154): memory of HBM or host space (0), scratchpad of a set of dies (1), a slot number (2), a
channel (3). -/
structure Foot where
  cls : Nat
  mask : Nat
  lo : Nat
  hi : Nat
  write : Bool
  deriving DecidableEq, Repr

namespace State

/-- Whether a context accepts a format as an operand (R119, R147). -/
def fmtOk (s : State) (c fmt : Nat) : Bool :=
  fmt < 15 && (!(s.ctx c).tx2 || [0, 2, 3, 4, 9, 12, 13].contains fmt)

/-- The Sorus channel of a KIND 2 descriptor whose handle is live (R13) and that the context may name. -/
def opChan (s : State) (d : Desc) : Option (Nat × Channel) :=
  match s.chanOf d.handle with
  | some i => (tget s.channels i).map fun ch => (i, ch)
  | none => none

/-- Tokens of a channel's blocks (R20). -/
def blockTokens (s : State) (ch : Channel) : Nat := ((tget s.jobs ch.job).map (·.tokens)).getD 0

/-- A field that may be 0 names a KIND 0 operand, or is 0. -/
def optMem (s : State) (x : At) (lo : Nat) : Bool := x.d lo == 0 || (s.opd x lo [0]).isSome

/-- Bytes that a cursor operand spans. -/
def cursorSpan (d : Desc) : Nat := if d.rows = 0 then 0 else (d.rows - 1) * (if d.stride = 0 then 8 else d.stride) + 8

/-- Whether an operand lies in the scratchpad of the base die of each of some arrays (R195). -/
def onDie (d : Desc) (arrays : List Nat) : Bool :=
  match parseAddr d.addr with
  | .scr l die _ => l || arrays.all fun a => arrDie a == die
  | _ => false

/-- The arrays to which a matrix command's tiles and parts are dealt (R83, R108). -/
def tileArrays (s : State) (x : At) (parts : Nat) : List Nat := (s.cmdArrays x.c x.q).take (s.matTiles x * parts)

/-- Whether a row-store or memory operand, or a Sorus operand of a feature channel, can take tiles of at most `cell` columns of
an extent. -/
def drainOk (s : State) (d : Desc) (fmt rows cols cell : Nat) : Bool :=
  match d.kind with
  | 2 => match s.opChan d with
    | some (_, ch) => ch.feature && fmt == 4 && cols == ch.width && d.addr + rows ≤ s.blockTokens ch
    | none => false
  | 1 => fitsLane fmt cell
  | _ => d.layout == 0

/-- Whether a matrix command's destination can take its result, whose shape it has (R165). -/
def matDest (s : State) (d : Desc) (fmt rows cols cell : Nat) : Bool :=
  d.rows == rows && d.cols == cols && s.drainOk d fmt rows cols cell

/-- MATMUL (R71, R72, R107, R165, R195, R199). -/
def okMatmul (s : State) (x : At) : Bool :=
  match s.opd x 16 [0, 1], s.opd x 25 [0], mulClass (x.f 64 61), mulClass (x.f 68 65) with
  | some a, some b, some (_, ga, ka), some (_, gb, _) =>
    let g := Nat.max ga gb
    let depth := x.f 95 90 * g
    let drain := x.b 74
    let chunks := ceilDiv a.cols (Nat.max 1 depth)
    x.f 80 79 != 3 && s.fmtOk x.c (x.f 64 61) && s.fmtOk x.c (x.f 68 65) && s.fmtOk x.c (x.f 72 69) &&
    a.layout == 0 && b.layout == 1 && b.stride < 2 ^ 16 && a.cols == b.rows && a.rows > 0 && b.cols > 0 && b.rows > 0 &&
    1 ≤ x.f 95 90 && x.f 95 90 ≤ 32 && depth ≤ ka && b.depth == depth && x.f 103 96 + 1 ≤ chunks &&
    (if a.kind = 0 then onDie a (s.tileArrays x (x.f 103 96 + 1)) else fitsLane (x.f 64 61) a.cols) &&
    onDie b (s.tileArrays x (x.f 103 96 + 1)) &&
    (s.cmdArrays x.c x.q).length > 0 && s.optMem x 43 && (x.b 104 || x.d 52 == 0) && s.optMem x 52 &&
    (if drain then
      match s.opd x 34 [0, 1, 2] with
      | some d => s.matDest d (x.f 72 69) a.rows b.cols (Nat.min b.cols 256)
      | none => false
    else x.d 34 == 0 && x.f 103 96 == 0 && s.perArray x (tileCount a.rows b.cols) ≤ 4)
  | _, _, _, _ => false

/-- CONVROW (R71, R76, R166, R195, R200). -/
def okConvrow (s : State) (x : At) : Bool :=
  match s.opd x 16 [0, 1], s.opd x 25 [0], mulClass (x.f 46 43), mulClass (x.f 50 47) with
  | some a, some b, some (ma, ga, _), some (mb, gb, _) =>
    let m4 := Nat.min ma mb
    let fh := x.f 74 71 + 1
    let fw := x.f 78 75 + 1
    let sw := x.f 80 79 + 1
    let g := 2 ^ x.f 82 81
    let wo := x.f 90 83 + 1
    let fo := x.f 98 91 + 1
    let c := x.f 111 99 + 1
    let nfo := x.f 119 112 + 1
    let drain := x.b 56
    ga > 0 && gb > 0 && !x.b 8 && x.f 127 120 == 0 && s.fmtOk x.c (x.f 46 43) && s.fmtOk x.c (x.f 50 47) &&
    s.fmtOk x.c (x.f 54 51) && g * fh ≤ 16 && c % g == 0 && (m4 < 8 || c % (m4 / 4) == 0) &&
    fitsLane (x.f 46 43) (fw * (c / g) * fo) && 16 * wo * fo ≤ 4096 && (fo != 1 || wo % 16 == 0) &&
    b.layout == 2 && fld b.stride 23 0 == c && fld b.stride 25 24 == x.f 82 81 && b.stride < 2 ^ 26 &&
    b.cols == ((wo - 1) * sw + fw) * c && fh ≤ b.rows &&
    (if a.kind = 0 then a.rows == nfo * g * fh && a.cols == fw * (c / g) * fo && a.layout == 0 && onDie a (s.tileArrays x 1)
     else true) &&
    onDie b (s.tileArrays x 1) && (s.cmdArrays x.c x.q).length > 0 &&
    (if drain then
      match s.opd x 34 [0, 1, 2] with
      | some d => s.matDest d (x.f 54 51) (b.rows + 1 - fh) (wo * fo * nfo) (wo * fo)
      | none => false
    else x.d 34 == 0 && s.perArray x (ceilDiv (b.rows + 1 - fh) 16 * nfo) ≤ 4)
  | _, _, _, _ => false

/-- Whether every tile's slot, for a slot operand of base `base`, is HELD by the context on the array the tile is dealt
to (R164). -/
def slotsHeld (s : State) (x : At) (base tiles : Nat) : Bool :=
  let as := s.cmdArrays x.c x.q
  as.length > 0 && (List.range tiles).all fun t =>
    let p := dealt as t
    let sl := (s.arr p.1).slots.getD ((base + p.2) % 4) AccSlot.reset
    sl.state == .held && sl.owner == x.c

/-- A source selector is one that its operand accepts: memory or row store of an extent, a slot, or a constant. -/
def okSource (s : State) (x : At) (v : Nat) (fmt rows cols : Nat) (const : Bool) : Bool :=
  match selOf v with
  | .desc i => match s.desc x i [0, 1] with
    | some d => d.kind == 1 || (d.layout == 0 && rows ≤ d.rows && cols ≤ d.cols && s.fmtOk x.c fmt &&
        onDie d ((s.cmdArrays x.c x.q).take (tileCount rows cols)))
    | none => false
  | .slot b _ => s.slotsHeld x b (tileCount rows cols)
  | .rowStore => true
  | .const _ => const
  | _ => false

/-- A destination selector names a KIND 0, 1 or 2 descriptor, or the row store (R167, R168). -/
def okDest (s : State) (x : At) (v fmt rows cols : Nat) : Bool :=
  match selOf v with
  | .desc i => match s.desc x i [0, 1, 2] with
    | some d =>
      s.drainOk d fmt rows cols (Nat.min cols 256) && (d.kind != 0 || (decide (rows ≤ d.rows) && decide (cols ≤ d.cols)))
    | none => false
  | .rowStore => fitsLane fmt (Nat.min cols 256)
  | _ => false

/-- ELTWISE (R167); unlike CONVERT it takes no P48 in memory (R168). -/
def okEltwise (s : State) (x : At) : Bool :=
  match s.param x (x.d 61) with
  | some p =>
    let op := x.f 20 16
    let s1 := x.f 30 21
    let s2 := x.f 40 31
    let s3 := x.f 50 41
    let n := if op = 4 ∨ op = 7 then 3 else if 1 ≤ op ∧ op ≤ 6 then 2 else 1
    let src := fun v => s.okSource x v (x.f 73 70) p.rows p.cols true
    op < 12 && x.f 79 78 != 3 && x.f 91 89 < 6 && !x.b 127 && (op == 7 || x.f 91 89 == 0) &&
    x.f 73 70 != 14 && x.f 77 74 != 14 && src s1 && (if n ≥ 2 then src s2 else s2 == 0) && (if n ≥ 3 then src s3 else s3 == 0) && s.fmtOk x.c (x.f 73 70) &&
    s.fmtOk x.c (x.f 77 74) && s.optMem x 118 && (s.cmdArrays x.c x.q).length > 0 &&
    (x.f 60 51 == 0 || s.okDest x (x.f 60 51) (x.f 77 74) p.rows p.cols)
  | none => false

/-- CONVERT (R168). -/
def okConvert (s : State) (x : At) : Bool :=
  match s.param x (x.d 55) with
  | some p =>
    x.f 45 44 != 3 && x.f 127 97 == 0 && s.okSource x (x.f 25 16) (x.f 39 36) p.rows p.cols false &&
    s.okDest x (x.f 35 26) (x.f 43 40) p.rows p.cols && s.fmtOk x.c (x.f 39 36) && s.fmtOk x.c (x.f 43 40) &&
    s.optMem x 64 && (s.cmdArrays x.c x.q).length > 0
  | none => false

/-- A LAYOUT 3 operand that holds at least `n` records (R431). -/
def okRecords (s : State) (x : At) (lo n : Nat) : Bool :=
  match s.opd x lo [0] with
  | some d => d.layout == 3 && d.rows * d.cols ≥ n
  | none => false

/-- REDUCE (R169). -/
def okReduce (s : State) (x : At) : Bool :=
  match s.param x (x.d 56) with
  | some p =>
    let n := if x.b 18 then p.cols else p.rows
    x.f 17 16 != 3 && x.f 127 95 == 0 && s.okSource x (x.f 28 19) (x.f 94 91) p.rows p.cols false &&
    s.fmtOk x.c (x.f 94 91) && s.okRecords x 29 n && (x.d 38 == 0 || s.okRecords x 38 n) &&
    (x.d 47 == 0 || s.okRecords x 47 n) && (s.cmdArrays x.c x.q).length > 0
  | none => false

/-- TOPK (R170); in the soft-target form the channel gives T and K. -/
def okTopk (s : State) (x : At) : Bool :=
  match s.param x (x.d 59) with
  | some p =>
    let k := 8 * (x.f 21 17 + 1)
    x.f 127 72 == 0 && s.okSource x (x.f 31 22) (x.f 71 68) p.rows p.cols false &&
    s.fmtOk x.c (x.f 71 68) && (s.cmdArrays x.c x.q).length > 0 &&
    (if x.b 16 then
      match s.opd x 32 [2] with
      | some d => (match s.opChan d with
        | some (_, ch) => !ch.feature && ch.width == k && d.addr + p.rows ≤ s.blockTokens ch
        | none => false) && s.okRecords x 41 p.rows && s.okRecords x 50 p.rows
      | none => false
    else
      match s.opd x 32 [0] with
      | some d => d.layout == 0 && p.rows ≤ d.rows && s.optMem x 41 && s.optMem x 50
      | none => false)
  | none => false

/-- SPUT (R171); a commit's VALID_TOKENS is 1 to N (Table 1-8), and a larger one is taken for a reserved value (R160). A word
that neither copies nor commits is refused (DESIGN CHOICE, log entry 198). -/
def okSput (s : State) (x : At) : Bool :=
  match s.opd x 16 [2] with
  | some d =>
    x.f 127 55 == 0 && s.optMem x 25 && s.optMem x 34 && (x.d 25 != 0 || x.b 43) && (!x.b 43 || x.d 34 != 0) &&
    (match s.opChan d, s.opd x 25 [0] with
     | some (_, ch), some r => r.layout == 0 && d.addr + r.rows ≤ s.blockTokens ch
     | some _, none => true
     | none, _ => false) &&
    (!x.b 43 || (s.opChan d).any fun c => x.f 54 45 < s.blockTokens c.2)
  | none => false

/-- STAKE (R172). -/
def okStake (s : State) (x : At) : Bool :=
  (match s.opd x 16 [2] with
   | some d => (s.opChan d).isSome
   | none => false) && x.f 63 35 == 0 && x.f 127 96 == 0 && (s.opd x 25 [0]).isSome

/-- LOSS (R173). -/
def okLoss (s : State) (x : At) : Bool :=
  match s.opd x 16 [2], s.opd x 25 [0], s.opd x 43 [0] with
  | some d, some h, some g =>
    x.f 127 87 == 0 && h.layout == 0 && g.layout == 0 && h.rows == g.rows && s.fmtOk x.c (x.f 64 61) &&
    s.fmtOk x.c (x.f 72 69) &&
    (x.d 52 == 0 || (s.opd x 52 [0]).any fun l => l.layout == 0 && h.rows ≤ l.rows * l.cols) &&
    (match s.opChan d with
     | none => false
     | some (_, ch) =>
       (match tget s.jobs ch.job with
        | none => false
        | some j =>
          h.rows == j.tokens &&
          (if ch.feature then x.d 34 == 0 && h.cols == ch.width && g.cols == ch.width && x.f 68 65 != 15
           else
             match s.opd x 34 [0], mulClass (x.f 64 61), mulClass (x.f 68 65) with
             | some w, some (_, ga, ka), some (_, gb, _) =>
               let dp := x.f 86 81 * Nat.max ga gb
               s.fmtOk x.c (x.f 68 65) && w.layout == 1 && w.rows == h.cols && w.cols == j.vocab && g.cols == j.vocab &&
               1 ≤ x.f 86 81 && x.f 86 81 ≤ 32 && dp ≤ ka && w.depth == dp && onDie h [512 * s.queueDie x.c x.q] &&
               onDie w [512 * s.queueDie x.c x.q]
             | _, _, _ => false)))
  | _, _, _ => false

/-- DMA (R174, R197). -/
def okDma (s : State) (x : At) : Bool :=
  match s.opd x 16 [0], s.opd x 25 [0] with
  | some a, some d =>
    let fmt := x.f 49 46
    let row0 := x.f 73 50
    let nrows := if x.f 97 74 = 0 then a.rows - row0 else x.f 97 74
    let drow := x.f 121 98
    s.fmtOk x.c fmt && x.f 127 122 == 0 &&
    (match x.f 45 43 with
     | 0 => a.layout == d.layout && x.d 34 == 0 && a.cols == d.cols && row0 + nrows ≤ a.rows && drow + nrows ≤ d.rows
     | 1 => a.layout == 0 && d.layout == 1 && a.cols == d.cols && (x.f 97 74 == 0 || x.f 97 74 == d.rows) && drow == 0 &&
         x.d 34 == 0 && row0 + d.rows ≤ a.rows && d.stride < 2 ^ 16
     | 2 => a.layout == 0 && d.layout == 2 && a.cols == d.cols && (x.f 97 74 == 0 || x.f 97 74 == d.rows) && drow == 0 &&
         x.d 34 == 0 && row0 + d.rows ≤ a.rows && d.stride < 2 ^ 26 && fld d.stride 23 0 > 0 &&
         d.cols % fld d.stride 23 0 == 0 && fld d.stride 23 0 % 2 ^ fld d.stride 25 24 == 0
     | 3 => (match s.opd x 34 [0] with
         | some i => i.layout == 0 && a.layout == d.layout && a.cols == d.cols &&
             (if x.f 97 74 = 0 then i.rows * i.cols else x.f 97 74) ≤ i.rows * i.cols &&
             drow + (if x.f 97 74 = 0 then i.rows * i.cols else x.f 97 74) ≤ d.rows
         | none => false)
     | _ => false)
  | _, _ => false

/-- FENCE (R175). -/
def okFence (x : At) : Bool := x.f 25 22 ≤ 10 && x.f 31 26 == 0 && x.f 127 64 == 0

/-- EVENT (R176). -/
def okEvent (x : At) : Bool := x.f 18 16 ≤ 4 && x.f 63 58 == 0 && x.f 127 96 == 0

/-- Whether a word is well-formed at dispatch (R160); otherwise it completes with REFUSED_INFEASIBLE. -/
def wordOk (s : State) (x : At) : Bool :=
  x.f 15 10 == 0 &&
  (match x.f 5 0 with
   | 1 => s.okMatmul x
   | 2 => s.okConvrow x
   | 3 => s.okEltwise x
   | 4 => s.okReduce x
   | 5 => s.okTopk x
   | 6 => s.okConvert x
   | 7 => s.okSput x
   | 8 => s.okStake x
   | 9 => s.okLoss x
   | 10 => s.okDma x
   | 11 => okFence x
   | 12 => okEvent x
   | _ => false)

/-- The Sorus operand of a command: its channel and whether the command writes it. -/
def wordChan (s : State) (x : At) : Option (Option Nat × Bool) :=
  let at2 := fun (lo : Nat) (wr : Bool) =>
    match s.opd x lo [2] with
    | some d => some (s.chanOf d.handle, wr)
    | none => none
  let sel2 := fun (v : Nat) =>
    match selOf v with
    | .desc i => match s.desc x i [2] with
      | some d => some (s.chanOf d.handle, true)
      | none => none
    | _ => none
  match x.f 5 0 with
  | 1 | 2 => at2 34 true
  | 3 => sel2 (x.f 60 51)
  | 5 => at2 32 true
  | 6 => sel2 (x.f 35 26)
  | 7 => at2 16 true
  | 8 => at2 16 false
  | 9 => at2 16 true
  | _ => none

/-- The memory spans of a command's operands. -/
def spans (s : State) (x : At) : List Span :=
  let mem := fun (lo fmt : Nat) (wr : Bool) =>
    match s.opd x lo [0] with
    | some d => [({ addr := d.addr, len := d.span fmt, write := wr } : Span)]
    | none => []
  let sel := fun (v fmt : Nat) (wr : Bool) =>
    match selOf v with
    | .desc i => match s.desc x i [0] with
      | some d => [({ addr := d.addr, len := d.span fmt, write := wr } : Span)]
      | none => []
    | _ => []
  let cur := fun (lo : Nat) =>
    match s.opd x lo [0] with
    | some d => [({ addr := d.addr, len := cursorSpan d, write := false } : Span)]
    | none => []
  match x.f 5 0 with
  | 1 => mem 16 (x.f 64 61) false ++ mem 25 (x.f 68 65) false ++ mem 34 (x.f 72 69) true ++
      (match s.opd x 43 [0] with
       | some d => [{ addr := d.addr, len := 4 * s.matTiles x, write := true }]
       | none => []) ++ cur 52
  | 2 => mem 16 (x.f 46 43) false ++ mem 25 (x.f 50 47) false ++ mem 34 (x.f 54 51) true
  | 3 => sel (x.f 30 21) (x.f 73 70) false ++ sel (x.f 40 31) (x.f 73 70) false ++ sel (x.f 50 41) (x.f 73 70) false ++
      sel (x.f 60 51) (x.f 77 74) true ++ cur 118
  | 4 => sel (x.f 28 19) (x.f 94 91) false ++ mem 29 0 true ++ mem 38 0 false ++ mem 47 0 false
  | 5 => sel (x.f 31 22) (x.f 71 68) false ++ (if x.b 16 then mem 41 0 false ++ mem 50 0 false else []) ++
      (match s.opd x 32 [0] with
       | some d =>
         let row := 64 * (x.f 21 17 + 1)
         [{ addr := d.addr, len := (d.rows - 1) * (if d.stride = 0 then row else d.stride) + row, write := true }]
       | none => [])
  | 6 => sel (x.f 25 16) (x.f 39 36) false ++ sel (x.f 35 26) (x.f 43 40) true ++ cur 64
  | 7 =>
      (match s.opd x 16 [2], s.opd x 25 [0] with
       | some d, some r => match s.opChan d with
         | some (_, ch) =>
           let row := ch.tokenBytes
           [{ addr := r.addr, len := if r.rows = 0 then 0 else (r.rows - 1) * (if r.stride = 0 then row else r.stride) + row,
              write := false }]
         | none => []
       | _, _ => []) ++ cur 34
  | 8 =>
      (match s.opd x 16 [2], s.opd x 25 [0] with
       | some d, some r => match s.opChan d with
         | some (_, ch) =>
           [{ addr := r.addr, len := 32 + ch.tokenBytes * ((tget s.jobs ch.job).map (·.tokens)).getD 0, write := true }]
         | none => []
       | _, _ => [])
  | 9 => mem 25 (x.f 64 61) false ++ mem 34 (x.f 68 65) false ++ mem 43 (x.f 72 69) true ++ mem 52 13 false
  | 10 => mem 16 (x.f 49 46) false ++ mem 25 (x.f 49 46) true ++ mem 34 13 false
  | _ => []

/-- The die of a DMA command's engine (R196): that of a scratchpad destination, else of a scratchpad source, else of the
queue's lowest-numbered quadrant, which a LOCAL address names too (log entry 25). -/
def dmaDie (s : State) (x : At) : Nat :=
  let at_ := fun (lo : Nat) => (s.opd x lo [0]).bind fun d =>
    match parseAddr d.addr with
    | .scr l die _ => some (if l then s.queueDie x.c x.q else die)
    | _ => none
  match at_ 25 with
  | some d => d
  | none => (at_ 16).getD (s.queueDie x.c x.q)

/-- The arrays to which the tiles of an element-wise, reduce, top-K or convert command are dealt (R164). -/
def edgeArrays (s : State) (x : At) : List Nat :=
  let par := s.param x (x.d (match x.f 5 0 with | 3 => 61 | 4 => 56 | 5 => 59 | _ => 55))
  (s.cmdArrays x.c x.q).take ((par.map fun p => tileCount p.rows p.cols).getD 0)

/-- The dies on which LOCAL addresses of a command resolve: those of the arrays that its tiles are dealt to, and, for results that its
queue writes, the queue's (R195). -/
def localDies (s : State) (x : At) : Nat :=
  if x.f 5 0 = 1 ∨ x.f 5 0 = 2 then maskOf ((s.tileArrays x (if x.f 5 0 = 1 then x.f 103 96 + 1 else 1)).map arrDie)
  else if 3 ≤ x.f 5 0 ∧ x.f 5 0 ≤ 6 then
    let dies := (s.edgeArrays x).map arrDie
    maskOf (if x.f 5 0 = 4 ∨ x.f 5 0 = 5 then s.queueDie x.c x.q :: dies else dies)
  else if x.f 5 0 = 10 then 2 ^ s.dmaDie x
  else 2 ^ s.queueDie x.c x.q

/-- Rows that a DMA command moves (R174). -/
def dmaRows (s : State) (x : At) : Nat :=
  if x.f 97 74 ≠ 0 then x.f 97 74
  else if x.f 45 43 = 3 then ((s.opd x 34 [0]).map fun i => i.rows * i.cols).getD 0
  else if x.f 45 43 = 0 then ((s.opd x 16 [0]).map fun a => a.rows - x.f 73 50).getD 0
  else ((s.opd x 25 [0]).map (·.rows)).getD 0

/-- Whether the first `n` rows that a DMA command writes include every byte of partition page `v` (R187): those of a whole
destination layout, its padding included, or of rows that follow without gaps, or a page within one row. -/
def dmaCovers (s : State) (x : At) (n v : Nat) : Bool :=
  match s.opd x 25 [0] with
  | some d =>
    match parseAddr d.addr with
    | .hbm _ off =>
      if d.layout = 0 ∨ d.layout = 3 then
        let row := if d.layout = 3 then 16 * d.cols else rowBytes (x.f 49 46) d.cols
        let pitch := d.pitch (x.f 49 46)
        let start := off + x.f 121 98 * pitch
        if pitch ≤ row then 0 < n && coversPage start ((n - 1) * pitch + row) v
        else start ≤ v * 65536 && (v * 65536 - start) / pitch < n && (v * 65536 - start) % pitch + 65536 ≤ row
      else decide (x.f 45 43 = 1 ∨ x.f 45 43 = 2 ∨ (s.opd x 16 [0]).any fun a =>
          x.f 45 43 == 0 && x.f 73 50 == 0 && x.f 121 98 == 0 && n == a.rows && n == d.rows && a.stride == d.stride) &&
        coversPage off (d.span (x.f 49 46)) v
    | _ => false
  | none => false

/-- Whether every POISON page that a DMA command writes to is one it writes whole (R187). -/
def dmaPoisonOk (s : State) (x : At) : Bool :=
  match s.opd x 25 [0] with
  | some d =>
    match parseAddr d.addr with
    | .hbm p off => (pagesOf off (d.span (x.f 49 46))).all fun v =>
        s.dmaCovers x (s.dmaRows x) v || !(s.pageFrame p v).any fun f => bitAt (s.attr f) 6
    | _ => true
  | none => true

/-- The footprint of a command (R154). -/
def footprint (s : State) (x : At) : List Foot :=
  ((s.spans x).map fun p =>
    match parseAddr p.addr with
    | .scr l die off => { cls := 1, mask := if l then s.localDies x else 2 ^ die, lo := off, hi := off + p.len, write := p.write }
    | _ => { cls := 0, mask := 1, lo := p.addr, hi := p.addr + p.len, write := p.write }) ++
  ((s.slotUses x).flatMap fun u => (members u.1 4).map fun k =>
      { cls := 2, mask := 1, lo := k, hi := k + 1, write := u.2 }) ++
  (match s.wordChan x with
   | some (some ch, wr) => [{ cls := 3, mask := 1, lo := ch, hi := ch + 1, write := wr }]
   | _ => [])

end State

/-- Two parts of footprints overlap and at least one writes. -/
def Foot.clash (a b : Foot) : Bool :=
  a.cls == b.cls && Nat.land a.mask b.mask != 0 && a.lo < b.hi && b.lo < a.hi && (a.write || b.write)

namespace State

/-- No earlier command of the queue without a final code stands in the way of a command (R153, R154): none overlaps it,
and with ORD set there is none. -/
def clear (s : State) (c q : Nat) (earlier : List Cmd) (x : At) : Bool :=
  let live := earlier.filter fun y => !y.final
  let f := s.footprint x
  (!x.b 7 || live.isEmpty) && live.all fun y => !((s.footprint (atCmd c q y)).any fun a => f.any fun b => a.clash b)

/-- The status that the accesses of a command meet at dispatch (R11, R15, R184, R185): a domain that is not open first,
then a fault. LOCAL addresses are tried on every die of the command. -/
def accessStatus (s : State) (x : At) : Option (Status × Option Nat) :=
  let ptn := (s.ctx x.c).ptn
  let dies := members (s.localDies x) 8
  let sp := s.spans x
  match sp.findSome? fun p => dies.findSome? fun n => s.accessFenced n p.addr p.len with
  | some d => some (.retryLater, some d)
  | none =>
    if (sp.all fun p => dies.all fun n => s.accessOk ptn n p.addr p.len p.write (x.f 5 0 == 10)) && (x.f 5 0 != 10 || s.dmaPoisonOk x) then none
    else some (.contextFault, none)

/-- Whether a context may act on the channel its command names: the teacher's produces, the student's consumes, either
may copy (R18, R172). -/
def chanCtxOk (s : State) (x : At) : Bool :=
  match s.wordChan x with
  | some (some i, wr) =>
    match tget s.channels i with
    | some ch =>
      match tget s.jobs ch.job with
      | some j =>
        if x.f 5 0 = 9 then j.studentCtx == x.c
        else if wr then j.teacherCtx == x.c
        else j.teacherCtx == x.c || j.studentCtx == x.c
      | none => false
    | none => false
  | _ => true

/-- Whether an operand names the scratchpad of a base die that the variant lacks (R3). -/
def absentOperand (s : State) (x : At) : Bool := (s.spans x).any fun p =>
  match parseAddr p.addr with
  | .scr l die _ => !l && !s.variant.group die
  | _ => false

/-- The code that the checks at dispatch give a command, or none if it goes to its unit, in the order of R15: an absent unit
(R3), a stale handle (R13), a fenced domain (R11), a word that is not well-formed (R160), a channel of other contexts (R18; log
entry 51), an access that is forbidden (R185). -/
def dispatchStatus (s : State) (x : At) : Option (Status × Option Nat) :=
  if s.absentOperand x then some (.unitAbsent, none)
  else
    match s.wordChan x, s.accessStatus x with
    | some (none, _), _ => some (.handleStale, none)
    | _, some (.retryLater, d) => some (.retryLater, d)
    | _, r => if s.wordOk x && s.chanCtxOk x then r else some (.refusedInfeasible, none)

end State

end Sys2Proof.Machine
end

