-- ==== Sys2Proof/Machine/Layers.lean ====
section
/-! DEFINITION. Layers: the escalation ladder, the layer numerics records, and the rewriting of queued command words (R138 to R146,
Table 5-8 step 3). -/

namespace Sys2Proof.Machine

/-! ### The ladder (Table 5-7, Table 5-10) -/

/-- The next output format up the ladder. In TX2 emulation the ladder has no rung for FP16 (Table 5-10), which goes no wider (DESIGN
CHOICE, log entry 194). -/
def ladderUp (tx2 : Bool) (fmt : Nat) : Option Nat :=
  if tx2 then
    match fmt with
    | 4 => some 2
    | 2 => some 0
    | _ => none
  else
    match fmt with
    | 5 => some 4
    | 4 => some 2
    | 6 => some 4
    | 7 => some 4
    | 2 => some 1
    | 3 => some 1
    | 1 => some 0
    | _ => none

/-- How many rungs a format lies below the top. -/
def rungsLeft (tx2 : Bool) (fmt : Nat) : Nat :=
  match ladderUp tx2 fmt with
  | none => 0
  | some a =>
    match ladderUp tx2 a with
    | none => 1
    | some b =>
      match ladderUp tx2 b with
      | none => 2
      | some c => if (ladderUp tx2 c).isNone then 3 else 4

/-- `n` rungs up, as far as the ladder goes. -/
def climb (tx2 : Bool) : Nat → Nat → Nat
  | 0, fmt => fmt
  | n + 1, fmt => match ladderUp tx2 fmt with
    | some f => climb tx2 n f
    | none => fmt

/-- The next format of a layer within its ceiling (R139). -/
def nextWithin (tx2 : Bool) (cur ceil : Nat) : Option Nat :=
  match ladderUp tx2 cur with
  | some f => if rungsLeft tx2 ceil ≤ rungsLeft tx2 f then some f else none
  | none => none

/-- The largest normal unbiased exponent of a gradient format (R145). -/
def eTop (fmt : Nat) : Int :=
  match fmt with
  | 5 => 31
  | 4 => 63
  | 3 | 7 => 15
  | 6 => 8
  | _ => 127

/-! ### Layer numerics records (Table 5-9) -/

/-- A layer numerics record. -/
structure LayerRec where
  layer : Nat
  base : Nat
  ceil : Nat
  cur : Nat
  doublings : Nat
  hold : Nat
  scale : Int
  maxExp : Int
  count : Nat
  flags : Nat
  deriving DecidableEq, Repr

def LayerRec.ofBytes (l : List Byte) : LayerRec :=
  { layer := le l 0 2, base := le l 2 1 % 16, ceil := le l 2 1 / 16, cur := le l 3 1 % 16, doublings := fld (le l 3 1) 6 4,
    hold := le l 4 4, scale := toSigned 8 (le l 8 1), maxExp := toSigned 8 (le l 9 1), count := le l 10 2, flags := le l 12 1 }

def LayerRec.bytes (r : LayerRec) : List Byte :=
  leBytes 2 r.layer ++ leBytes 1 (r.base + 16 * r.ceil) ++ leBytes 1 (r.cur + 16 * r.doublings) ++ leBytes 4 r.hold ++
  leBytes 1 (ofSigned 8 r.scale) ++ leBytes 1 (ofSigned 8 r.maxExp) ++ leBytes 2 r.count ++ leBytes 1 r.flags ++ zeros 3

namespace State

/-- Record `i` of a context's table (`CTX_NUM_LTAB`). -/
def layerAt (s : State) (c i : Nat) : LayerRec := LayerRec.ofBytes (s.fwRead ((s.ctx c).ltabAddr * 4096 + 16 * i) 16)

/-- The record of a layer and its place, if the table has one. -/
def layerOf (s : State) (c layer : Nat) : Option (Nat × LayerRec) :=
  ((List.range (s.ctx c).ltabCount).map fun i => (i, s.layerAt c i)).find? fun p => p.2.layer == layer

def putLayer (s : State) (c i : Nat) (r : LayerRec) : State := s.post ((s.ctx c).ltabAddr * 4096 + 16 * i) r.bytes

end State

/-! ### Rewriting queued words (Table 5-8 step 3, R144) -/

/-- The output format field of an opcode and the field that names its destination. -/
def outField : Nat → Option (Nat × Nat)
  | 1 => some (69, 34)
  | 2 => some (51, 34)
  | 3 => some (74, 51)
  | 6 => some (40, 26)
  | 9 => some (69, 43)
  | _ => none

/-- The input fields of an opcode: descriptor or selector, its width, and the format field. -/
def inFields : Nat → List (Nat × Nat × Nat)
  | 1 => [(16, 9, 61), (25, 9, 65)]
  | 2 => [(16, 9, 43), (25, 9, 47)]
  | 3 => [(21, 10, 70), (31, 10, 70), (41, 10, 70)]
  | 4 => [(19, 10, 91)]
  | 5 => [(22, 10, 68)]
  | 6 => [(16, 10, 36)]
  | 9 => [(25, 9, 61), (34, 9, 65)]
  | 10 => [(16, 9, 46)]
  | _ => []

/-- The EADJ field of an opcode that may carry GRAD. -/
def eadjField : Nat → Option Nat
  | 1 => some 82
  | 3 => some 81
  | 6 => some 47
  | 9 => some 73
  | _ => none

/-- An operand whose format changes: its bytes, or none for the row store, the format it had, the format it has. -/
structure Renamed where
  place : Option (Nat × Nat)
  old : Nat
  new : Nat
  deriving DecidableEq, Repr

/-- A pass over queued words: the window in force, whether the words are updates, the operands whose formats changed, the latest
first, and the words rewritten so far. -/
structure Pass where
  win : Nat
  upd : Bool
  ren : List Renamed
  out : List Nat
  deriving DecidableEq, Repr

/-- A pass that begins in a window. -/
def Pass.start (win : Nat) (ren : List Renamed) : Pass := { win := win, upd := false, ren := ren, out := [] }

/-- Whether two places share bytes. -/
def placesMeet : Option (Nat × Nat) → Option (Nat × Nat) → Bool
  | none, none => true
  | some a, some b => a.1 < b.2 && b.1 < a.2
  | _, _ => false

/-- A GATE word, and a STEP word (Table 6-18). -/
def isGate (w : Nat) : Bool := fld w 5 0 == 12 && fld w 18 16 == 1

def isStep (w : Nat) : Bool := fld w 5 0 == 12 && fld w 18 16 == 2

/-- The GATE that ends the layer a word belongs to, from the words that follow it. -/
def gateOf (ws : List Nat) : Option Nat := ws.find? isGate

/-- How many words reach to the first GATE after the next STEP: the rest of a step and its updates (R317). -/
def stepLength : Bool → List Nat → Nat
  | _, [] => 0
  | upd, w :: ws => if upd && isGate w then 1 else 1 + stepLength (upd || isStep w) ws

/-- What a word's output does when its layer moves up one rung: activations in the forward pass, gradients in the
backward pass (R138). -/
def escOut (tx2 backward : Bool) (n : Nat) (w fmt : Nat) : Nat :=
  if !backward || bitAt w 8 || fld w 5 0 == 9 then climb tx2 n fmt else fmt

/-- The rungs between a layer's base format and the format in use. -/
def rungsUp (tx2 : Bool) (r : LayerRec) : Nat := ((List.range 5).find? fun n => climb tx2 n r.base == r.cur).getD 0

namespace State

/-- Whether a layer of a context runs in a format above its base (Table 1-8, ESCALATED). -/
def runsWide (s : State) (c : Nat) : Bool :=
  (List.range (s.ctx c).ltabCount).any fun i => (s.layerAt c i).cur != (s.layerAt c i).base

/-- A context's table of layer numerics records, as bytes. -/
def layerTable (s : State) (c : Nat) : List Byte := s.fwRead ((s.ctx c).ltabAddr * 4096) (16 * (s.ctx c).ltabCount)

/-- The descriptor entry that a field of a word names: a selector may name one, a slot, or the row store (R163). -/
def fieldDesc (s : State) (c win w lo width : Nat) (kinds : List Nat) : Option Desc :=
  let v := fld w (lo + width - 1) lo
  if 512 ≤ v then none else s.desc { c := c, q := 0, win := win, w := w } v kinds

/-- The place of the operand that a field of a word names, in a format. -/
def fieldPlace (s : State) (c win w lo width fmt : Nat) : Option (Option (Nat × Nat)) :=
  if selOf (fld w (lo + width - 1) lo) = .rowStore then some none
  else (s.fieldDesc c win w lo width [0, 1]).map fun d => if d.kind = 1 then none else some (d.addr, d.addr + d.span fmt)

/-- Input formats of a word changed where it reads an operand whose format changed, or a part of one (Table 5-8 step 3). -/
def passInputs (s : State) (c : Nat) (p : Pass) (w : Nat) : Nat :=
  (inFields (fld w 5 0)).foldl (fun w f =>
    let old := fld w (f.2.2 + 3) f.2.2
    match (s.fieldPlace c p.win w f.1 f.2.1 old).bind fun a => p.ren.find? fun r => placesMeet r.place a && r.old == old with
    | some r => setFld w (f.2.2 + 3) f.2.2 r.new
    | none => w) w

/-- Where a word writes elements, and the format it writes: its output, or what a DMA copies. -/
def outPlace (s : State) (c win w : Nat) : Option (Option (Nat × Nat) × Nat) :=
  let op := fld w 5 0
  match if op = 10 then some (46, 25) else outField op with
  | some (lo, dlo) =>
    let fmt := fld w (lo + 3) lo
    (s.fieldPlace c win w dlo (if op = 3 ∨ op = 6 then 10 else 9) fmt).map fun a => (a, fmt)
  | none => none

/-- Whether a word drains into a Sorus slot, whose format is always W12 (R29). -/
def toSorus (s : State) (c win w : Nat) : Bool :=
  match outField (fld w 5 0) with
  | some (_, dlo) => (s.fieldDesc c win w dlo (if fld w 5 0 = 3 ∨ fld w 5 0 = 6 then 10 else 9) [2]).isSome
  | none => false

/-- A word as it was and as it is: the operands whose formats have changed after it, the window and the part of the step. -/
def passNote (s : State) (c : Nat) (p : Pass) (w0 w1 : Nat) : Pass :=
  let op := fld w0 5 0
  let old := ((s.outPlace c p.win w0).map (·.2)).getD 0
  { win := if op = 12 ∧ fld w0 18 16 = 3 then fld w0 57 55 else p.win
    upd := isStep w0 || (p.upd && !isGate w0)
    ren := match s.outPlace c p.win w1 with
      | some (a, fmt) =>
        let kept := p.ren.filter fun r => !placesMeet r.place a
        if fmt = old then kept else { place := a, old := old, new := fmt } :: kept
      | none => p.ren
    out := p.out ++ [w1] }

/-- One word: its inputs, and its output moved by `f` where it may move. -/
def passWord (s : State) (c : Nat) (f : Nat → Nat → Nat) (p : Pass) (w : Nat) : Pass :=
  let w1 := s.passInputs c p w
  match outField (fld w 5 0) with
  | some (lo, _) =>
    let w2 := if s.toSorus c p.win w then w1 else setFld w1 (lo + 3) lo (f w (fld w1 (lo + 3) lo))
    s.passNote c p w w2
  | none => s.passNote c p w w1

/-- The address of the ring entry of count `x`. -/
def ringAt (s : State) (c q : Nat) (x : Word) : Nat :=
  (s.queue c q).ringAddr * 4096 + 16 * (x.toNat % 2 ^ (s.queue c q).ringLog2)

/-- The words of a queue from count `lo` on. -/
def ringWords (s : State) (c q : Nat) (lo : Word) (n : Nat) : List Nat :=
  (List.range n).map fun i => ofLe (s.fwRead (s.ringAt c q (lo + BitVec.ofNat 32 i)) 16)

/-- The word that the host queued at a count where `w` stands now. -/
def queuedWord (s : State) (c q : Nat) (x : Word) (w : Nat) : Nat :=
  (((s.queue c q).asQueued.find? fun p => p.1 == x).map (·.2)).getD w

/-- Words put back into a queue from count `lo` on; of those that now differ from what the host queued, that is kept while they may
still lie in the ring. -/
def putWords (s : State) (c q : Nat) (lo : Word) (ws : List Nat) : State :=
  let x := s.queue c q
  let now := s.ringWords c q lo ws.length
  let kept := x.asQueued.filter fun p => decide (ws.length ≤ (p.1 - lo).toNat ∧ (x.tail - p.1).toNat ≤ 2 ^ x.ringLog2)
  let mine := (ws.zipIdx.map fun p =>
    let i := lo + BitVec.ofNat 32 p.2
    (i, s.queuedWord c q i (now.getD p.2 0), p.1)).filter fun p => p.2.1 != p.2.2
  (ws.zipIdx.foldl (fun s p =>
    if now.getD p.2 0 = p.1 then s else s.post (s.ringAt c q (lo + BitVec.ofNat 32 p.2)) (leBytes 16 p.1)) s).setQueue c q
    { x with asQueued := kept ++ mine.map fun p => (p.1, p.2.1) }

/-- The words of a layer's pass move one rung up from `gateFrom` to the end of the step, and the consumers of their outputs in every
queue of the context take the new format, the step's updates among them (Table 5-8, step 3; log entry 27). -/
def escalateWords (s : State) (c q layer : Nat) (backward : Bool) : State :=
  let x := s.queue c q
  let tx2 := (s.ctx c).tx2
  let all := s.ringWords c q x.gateFrom (x.tail - x.gateFrom).toNat
  let ws := all.take (stepLength false all)
  let p := ws.zipIdx.foldl (fun (p : Pass) e =>
    let mine := !p.upd && (gateOf (all.drop (e.2 + 1))).any fun g => fld g 53 38 == layer && bitAt g 54 == backward
    s.passWord c (fun w f => if mine then escOut tx2 backward 1 w f else f) p e.1) (Pass.start x.gateWindow [])
  ([0, 1, 2, 3].filter (· != q)).foldl (fun s o =>
    let y := s.queue c o
    if y.ringLog2 = 0 then s
    else
      let us := s.ringWords c o y.head (y.tail - y.head).toNat
      s.putWords c o y.head ((us.take (stepLength false us)).foldl (s.passWord c fun _ f => f) (Pass.start y.window p.ren)).out)
    (s.putWords c q x.gateFrom p.out)

/-- A queued word with the fields that a step start patches (R144): the EADJ of a backward drain. A backward drain of layer l keeps its
EADJ where the table has no record of layer l + 1, whose scale the rule would subtract (log entry 56). -/
def patchEadj (s : State) (c : Nat) (r : LayerRec) (backward : Bool) (w : Nat) : Nat :=
  match eadjField (fld w 5 0) with
  | some lo =>
    if backward && (bitAt w 8 || fld w 5 0 == 9) && !bitAt r.flags 1 then
      if fld w 5 0 = 9 then setFld w (lo + 7) lo (ofSigned 8 r.scale)
      else
        match s.layerOf c (r.layer + 1) with
        | some (_, u) => setFld w (lo + 7) lo (ofSigned 8 (r.scale - u.scale))
        | none => w
    else w
  | none => w

/-- The queued words of a step, from what the host queued: EADJ (R144), and the formats of layers that run above their base
(R142). Updates keep their outputs. -/
def patchWords (s : State) (c : Nat) : List Nat → Pass → Pass
  | [], p => p
  | w :: ws, p =>
    match if p.upd then none else (gateOf ws).bind fun g => (s.layerOf c (fld g 53 38)).map fun r => (g, r.2) with
    | none => patchWords s c ws (s.passWord c (fun _ f => f) p w)
    | some (g, r) =>
      let tx2 := (s.ctx c).tx2
      patchWords s c ws (s.passWord c (escOut tx2 (bitAt g 54) (rungsUp tx2 r)) p (s.patchEadj c r (bitAt g 54) w))

/-- What the words of a queue that have run since the step began have left behind: the window, and the operands whose formats they
changed. -/
def ranPass (s : State) (c q : Nat) : Pass :=
  let x := s.queue c q
  let lo := if (x.tail - x.stepFrom).toNat ≤ 2 ^ x.ringLog2 then x.stepFrom else x.head
  (s.ringWords c q lo (x.head - lo).toNat).zipIdx.foldl (fun p e =>
    s.passNote c p (s.queuedWord c q (lo + BitVec.ofNat 32 e.2) e.1) e.1)
    (Pass.start (if lo = x.stepFrom then x.stepWindow else x.window) [])

/-- The words of a context's step, rewritten in every queue from what the host queued. -/
def patchQueues (s : State) (c : Nat) : State :=
  let ran := [0, 1, 2, 3].map fun q => if (s.queue c q).ringLog2 = 0 then Pass.start 0 [] else s.ranPass c q
  [0, 1, 2, 3].foldl (fun (t : State) q =>
    let x := s.queue c q
    if x.ringLog2 = 0 then t
    else
      let all := (s.ringWords c q x.head (x.tail - x.head).toNat).zipIdx.map fun e =>
        s.queuedWord c q (x.head + BitVec.ofNat 32 e.2) e.1
      let p := ran.getD q (Pass.start 0 [])
      let others := ([0, 1, 2, 3].filter (· != q)).flatMap fun o => (ran.getD o (Pass.start 0 [])).ren
      t.putWords c q x.head
        (s.patchWords c (all.take (stepLength false all)) { p with win := x.window, ren := p.ren ++ others, out := [] }).out) s

end State

end Sys2Proof.Machine
end

