-- ==== Sys2Proof/Machine/Sorus.lean ====
section
/-! DEFINITION. Sorus channels (R22 to R36, R42, R43, R432): slots, credits, commits, takes, releases, closing, and what
the events of Table 1-10 do to a channel. -/

namespace Sys2Proof.Machine

/-- The 32-byte header of a slot (Table 1-8). -/
def SorSlot.header (x : SorSlot) : List Byte :=
  leBytes 8 x.cursor.toNat ++ leBytes 4 x.step.toNat ++ leBytes 4 x.seq.toNat ++ leBytes 2 x.valid ++ leBytes 2 x.flags ++
  leBytes 2 x.epoch.toNat ++ zeros 2 ++ leBytes 4 x.producer.toNat ++ zeros 4

namespace Channel

/-- Slots in a state. -/
def count (ch : Channel) (st : SorSlotState) : Nat := (ch.slots.filter fun x => x.state == st).length

/-- The slot in a state, if one is. -/
def find (ch : Channel) (st : SorSlotState) : Option Nat := (List.range ch.slots.length).find? fun i =>
  (ch.slots.getD i SorSlot.reset).state == st

/-- The slot indexes in ring order, the oldest block first (R23). -/
def order (ch : Channel) : List Nat := (List.range ch.slots.length).map fun i => (ch.fill + i) % ch.slots.length

/-- The oldest FULL slot (R23). -/
def oldestFull (ch : Channel) : Option Nat := ch.order.find? fun i => (ch.slots.getD i SorSlot.reset).state == .full

/-- Whether a producing command may write now: a slot is FILLING, or the next in ring order is FREE (R30). What a teacher that was
set back computes again for a block the channel has needs no slot. -/
def canFill (ch : Channel) : Bool :=
  0 < ch.skip || (ch.find .filling).isSome || (ch.slots.getD ch.fill SorSlot.reset).state == .free && ch.slots.length > 0

/-- The number that stands for no slot: a channel has at most 16. -/
def noSlot : Nat := 16

/-- The slot a producing command writes: the FILLING one, or the next FREE one, which becomes FILLING (R30); none for a block that
the channel has. -/
def beginFill (ch : Channel) : Nat × Channel :=
  if 0 < ch.skip then (noSlot, ch) else
  match ch.find .filling with
  | some i => (i, ch)
  | none => (ch.fill, { ch with
      slots := ch.slots.set ch.fill { SorSlot.reset with state := .filling },
      fill := (ch.fill + 1) % Nat.max 1 ch.slots.length })

/-- A slot set to a state. -/
def setSlot (ch : Channel) (i : Nat) (f : SorSlot → SorSlot) : Channel := { ch with slots := lmod ch.slots i f }

/-- A FILLING slot is discarded: it is the next to fill again (Table 1-6, R23). -/
def discardFilling (ch : Channel) : Channel :=
  match ch.find .filling with
  | some i => { ch with slots := ch.slots.set i SorSlot.reset, fill := i }
  | none => ch

/-- A CONSUMING slot returns to FULL, or is discarded when the channel has discarded it meanwhile (R32, R432). -/
def giveBack (ch : Channel) : Channel :=
  match ch.find .consuming with
  | some i => ch.setSlot i fun x => if x.discard then SorSlot.reset else { x with state := .full }
  | none => ch

/-- A CONSUMING slot is released (R32). -/
def release (ch : Channel) : Channel :=
  match ch.find .consuming with
  | some i => ch.setSlot i fun _ => SorSlot.reset
  | none => ch

/-- What DISCARD does at once: FILLING and FULL slots are discarded, a CONSUMING one when its command ends (R432). -/
def discardAll (ch : Channel) : Channel :=
  { ch with slots := ch.slots.map fun x =>
      match x.state with
      | .filling | .full => SorSlot.reset
      | .consuming => { x with discard := true }
      | .free => x }

/-- The lowest SEQ among the slots in given states, in ring order. -/
def firstSeq (ch : Channel) (ok : SorSlotState → Bool) : Option Word :=
  (ch.order.find? fun i => ok (ch.slots.getD i SorSlot.reset).state).map fun i => (ch.slots.getD i SorSlot.reset).seq

/-- The placement slice resets: all slots become FREE and NEXT_SEQ returns to the first lost SEQ (Table 1-10). -/
def sliceReset (ch : Channel) : Channel :=
  { ch with
    nextSeq := (ch.firstSeq fun st => st == .full || st == .consuming).getD ch.nextSeq,
    slots := ch.slots.map fun _ => SorSlot.reset, fill := 0 }

/-- Granules the channel's slots take. -/
def total (ch : Channel) : Nat := ch.slots.length * ch.granules

end Channel

/-- Bytes of a slot's payload and its granules (Budget, sizing and refusal). -/
def slotGranules (feature : Bool) (tokens width : Nat) : Nat :=
  ceilDiv (if feature then tokens * width * 3 / 2 else tokens * (width + 1) * 6) 65536

/-- An open completion record (Table 1-3). -/
def openRecord (st : Status) (detail slots result granules sliceFree : Nat) : List Byte :=
  leBytes 1 st.code ++ leBytes 1 detail ++ leBytes 2 slots ++ leBytes 4 result ++ leBytes 4 granules ++ leBytes 4 sliceFree

namespace State

def setChan (s : State) (i : Nat) (ch : Channel) : State := { s with channels := tput s.channels i ch }

/-- The tokens per block of a channel's job. -/
def chanTokens (s : State) (ch : Channel) : Nat := ((tget s.jobs ch.job).map (·.tokens)).getD 0

/-- Granules that a partition's open channels hold in a slice. The partition is the job's student (R35). -/
def sorusUsed (s : State) (ptn slice : Nat) : Nat :=
  (s.channels.filter fun p => p.2.placement == slice && (tget s.jobs p.2.job).any fun j => j.student == ptn).foldl
    (fun a p => a + p.2.total) 0

/-- Granules free to a partition in a slice. -/
def sorusFree (s : State) (ptn slice : Nat) : Nat :=
  ((tget s.ptns ptn).map fun p => p.sorus.getD slice 0).getD 0 - s.sorusUsed ptn slice

/-- A job close completes when every channel of the job has reached CLOSED (R25). One whose teacher is gone is closed by firmware
(Table 1-10). -/
def jobAfter (s : State) (j : Nat) : State :=
  match tget s.jobs j with
  | some x =>
    match x.closing with
    | some a =>
      if s.channels.any fun p => p.2.job == j then s
      else
        let s1 := { s with jobs := tdel s.jobs j, jobHandles := s.jobHandles.free j }
        s1.post (a + 0x20) (openRecord .ok 0 0 j 0 0)
    | none =>
      if x.failed && !(s.channels.any fun p => p.2.job == j) then
        { s with jobs := tdel s.jobs j, jobHandles := s.jobHandles.free j }
      else s
  | none => s

/-- A channel reaches CLOSED: its handle becomes stale, its close request completes (R24, R25, R344). -/
def chanClosed (s : State) (i : Nat) : State :=
  match tget s.channels i with
  | some ch =>
    let h := s.chanHandle i
    let s1 := { s with channels := tdel s.channels i, chanHandles := s.chanHandles.free i }
    let s2 := match ch.closing with
      | some a => s1.post (a + 0x20) (openRecord .ok 0 0 h 0 0)
      | none => s1
    s2.jobAfter ch.job
  | none => s

/-- What follows a change of a CLOSING channel's slots (R432): DRAIN ends when no slot is FULL or CONSUMING; the channel
is CLOSED once no slot is CONSUMING. -/
def chanAfter (s : State) (i : Nat) : State :=
  match tget s.channels i with
  | some ch =>
    if ch.state = .closing then
      let ch1 := if ch.drain && ch.count .full == 0 && ch.count .consuming == 0 then
        { ch.discardAll with drain := false } else ch
      if ch1.drain = false ∧ ch1.count .consuming = 0 then (s.setChan i ch1).chanClosed i else s.setChan i ch1
    else s
  | none => s

/-- Begin to close a channel in DRAIN or DISCARD mode (R432). -/
def chanClose (s : State) (i : Nat) (discard : Bool) (req : Option Nat) : State :=
  match tget s.channels i with
  | some ch =>
    let ch1 := { ch with state := .closing, drain := !discard, closing := if req.isSome then req else ch.closing }
    (s.setChan i (if discard then ch1.discardAll else ch1)).chanAfter i
  | none => s

/-- Firmware closes a job whose teacher is gone: its channels close in DISCARD mode (Table 1-10). -/
def fwCloseJob (s : State) (j : Nat) : State :=
  ((s.channels.filter fun p => p.2.job == j).foldl (fun (s : State) p => s.chanClose p.1 true none) s).jobAfter j

/-- A channel's slots changed. -/
def modChan (s : State) (i : Nat) (f : Channel → Channel) : State :=
  match tget s.channels i with
  | some ch => (s.setChan i (f ch)).chanAfter i
  | none => s

/-- Every channel of the jobs a test picks, changed; the indexes, ascending. -/
def chansOf (s : State) (f : Channel → Bool) : List Nat := (s.channels.filter fun p => f p.2).map (·.1)

/-- A channel enters FAULTED (Table 1-10). -/
def chanFault (s : State) (i : Nat) : State :=
  match tget s.channels i with
  | some ch => (s.setChan i { ch.discardFilling with state := .faulted }).raiseEv evSor 1
  | none => s

/-- The epoch that a block's header carries: that of the producing quadrant's domain (Table 1-8). -/
def producerEpoch (s : State) (c q : Nat) : Half := (s.dom (quadDomain ((members (s.queueQuads c q) 32).headD 0))).epoch

/-- The place where a context stands as command `idx` of queue `q` ends, or, with none, before what it has outstanding. -/
def markOf (s : State) (c : Nat) (after : Option (Nat × Word)) (seq : Word) : BlockMark :=
  let k := s.ctx c
  let at_ := fun (n : Nat) (x : Queue) =>
    match after with
    | some (q, idx) =>
      if n = q then (idx + 1, ((x.cmds.find? fun y => y.index == idx).map (·.window)).getD x.window)
      else (x.done, ((x.cmds.head?).map (·.window)).getD x.window)
    | none => (x.done, ((x.cmds.head?).map (·.window)).getD x.window)
  { seq := seq, step := k.step, draws := k.draws, sync := k.sync, queues := k.queues.zipIdx.map fun p => at_ p.2 p.1, layers := s.layerTable c }

/-- Commit the FILLING slot (R31, R171): the header is filled and the slot is FULL. ESCALATED says that a layer of the teacher ran in a
format above its base (Table 1-8). The place where the next block begins is noted.
A block that the channel has already is not committed again. -/
def chanCommit (s : State) (i c q : Nat) (idx : Word) (cursor valid : Nat) (last : Bool) : State :=
  match tget s.channels i with
  | some ch =>
    if 0 < ch.skip then s.setChan i { ch with skip := ch.skip - 1 } else
    match ch.find .filling with
    | some k =>
      s.setChan i { ch.setSlot k (fun x => { x with
          state := .full, cursor := BitVec.ofNat 64 cursor, step := (s.ctx c).step, seq := ch.nextSeq, valid := valid,
          flags := b2n (ch.escalated || s.runsWide c) + 2 * b2n last, epoch := s.producerEpoch c q,
          producer := BitVec.ofNat 32 (s.ctxHandle c), discard := false }) with
        nextSeq := ch.nextSeq + 1, escalated := false, marks := ch.marks ++ [s.markOf c (some (q, idx)) (ch.nextSeq + 1)] }
    | none => s
  | none => s

/-- PAD records for the token positions from `lo` to `hi - 1` of a slot (R171, Table 1-7); a padded row of a feature
block is zero (log entry 21). -/
def padTokens (s : State) (i slot : Nat) (ch : Channel) (lo hi : Nat) : State :=
  let rec1 := if ch.feature then zeros ch.tokenBytes else
    (List.range (ch.width + 1)).flatMap fun _ => leBytes 6 (2 ^ 43)
  { s with mem := (List.range (hi - lo)).foldl (fun m t => m.writeAll (sorKey i slot ((lo + t) * ch.tokenBytes)) rec1) s.mem }

/-- What the state of its channel answers a command (R24, Table 1-10): FAULTED gives CONTEXT_FAULT, a put into CLOSING
RETRY_LATER, a fenced slice RETRY_LATER. -/
def chanStatus (s : State) (i : Nat) (put : Bool) : Option (Status × Option Nat) :=
  match tget s.channels i with
  | some ch =>
    if !s.isOpen (sramDomain ch.placement) then some (.retryLater, some (sramDomain ch.placement))
    else if ch.state = .faulted then some (.contextFault, none)
    else if ch.state = .closing ∧ put = true then some (.retryLater, none)
    else none
  | none => some (.handleStale, none)

/-- Whether puts and takes act: OPEN, or CLOSING for a take (R24). -/
def chanActs (s : State) (i : Nat) (put : Bool) : Bool :=
  match tget s.channels i with
  | some ch => ch.state == .opened || (ch.state == .closing && !put)
  | none => false

/-- A command begins to wait for its channel: the placement die's local time is noted (`SOR_CH_WAIT`). -/
def chanWait (s : State) (c q : Nat) (idx : Word) (i : Nat) : State :=
  match tget s.channels i with
  | some ch =>
    let t := (s.dom (sramDomain ch.placement)).time
    s.modCmd c q idx fun y => if y.waitFrom.isSome then y else { y with waitFrom := some t }
  | none => s

/-- The wait of a command for its channel ends: the time it lasted counts for its side (`SOR_CH_WAIT`). -/
def chanWaited (s : State) (c q : Nat) (idx : Word) (i : Nat) (put : Bool) : State :=
  match tget s.channels i, s.cmd c q idx with
  | some ch, some y =>
    match y.waitFrom with
    | some t0 =>
      let us := usBetween t0 (s.dom (sramDomain ch.placement)).time
      (s.setChan i (if put then { ch with teacherWait := satAdd 24 ch.teacherWait us }
        else { ch with studentWait := satAdd 24 ch.studentWait us })).modCmd c q idx fun z => { z with waitFrom := none }
    | none => s
  | _, _ => s

/-- How long the commands that still wait for a channel on one side have waited, in µs (`SOR_CH_WAIT`). -/
def chanWaiting (s : State) (i : Nat) (ch : Channel) (put : Bool) : Nat :=
  match tget s.jobs ch.job with
  | none => 0
  | some j =>
    let now := (s.dom (sramDomain ch.placement)).time
    [j.teacherCtx, j.studentCtx].foldl (fun n c => (List.range 4).foldl (fun n q => (s.queue c q).cmds.foldl (fun n y =>
      match y.waitFrom, s.wordChan (atCmd c q y) with
      | some t0, some (some k, _) =>
        if k = i ∧ y.result.isNone = true ∧ [1, 2, 3, 5, 6, 7].contains (cmdOpcode y.word) = put then n + usBetween t0 now
        else n
      | _, _ => n) n) n) 0

/-- A context that ran a job's teacher is torn down: FILLING slots are discarded, FULL ones kept (Table 1-10). -/
def teacherFault (s : State) (c : Nat) : State :=
  (s.chansOf fun ch => (tget s.jobs ch.job).any fun j => j.teacherCtx == c).foldl
    (fun s i => s.modChan i Channel.discardFilling) s

/-- A context that ran a job's student leaves its quadrants: a CONSUMING slot returns to FULL (Table 1-10). -/
def studentLeaves (s : State) (c : Nat) : State :=
  (s.chansOf fun ch => (tget s.jobs ch.job).any fun j => j.studentCtx == c).foldl
    (fun s i => s.modChan i Channel.giveBack) s

/-- The slice of a base die resets (Table 1-10): its channels lose their slots. -/
def sliceReset (s : State) (die : Nat) : State :=
  let is := s.chansOf fun ch => ch.placement == die
  let lost := is.any fun i => (tget s.channels i).any fun ch => ch.count .full + ch.count .consuming + ch.count .filling > 0
  let s1 := is.foldl (fun s i => s.modChan i Channel.sliceReset) s
  if lost then s1.raiseEv evSor 4 else s1

/-- A channel moves to another slice (R43): FULL slots are copied, a FILLING one is discarded. Their payload keeps its
keys, since these do not name the slice. -/
def chanMigrate (s : State) (i slice : Nat) : State :=
  match tget s.channels i with
  | some ch =>
    ((s.setChan i { ch.discardFilling with placement := slice }).raiseEv evSor 2).chanAfter i
  | none => s

end State

end Sys2Proof.Machine
end

