-- ==== Sys2Proof/Machine/Log.lean ====
section
/-! DEFINITION. The replay log (R311 to R315), the end of a checkpoint that does not become durable (R321), and
copy-on-write (R189, R190): what a write to a protected frame does. -/

namespace Sys2Proof.Machine

/-- A log record (Table 12-1). -/
def logRecord (ty st fl src epoch lsn step time : Nat) (body : List Byte) : List Byte :=
  let b := leBytes 1 ty ++ leBytes 1 st ++ leBytes 2 fl ++ leBytes 1 src ++ zeros 1 ++ leBytes 2 epoch ++ leBytes 8 lsn ++
    leBytes 4 step ++ leBytes 8 time ++ slice body 0 32
  b ++ leBytes 4 (crc32c b)

/-- A region of the protected partition: its place in the table, first page, pages. -/
structure Region where
  ident : Nat
  first : Nat
  pages : Nat
  order : Nat
  deriving DecidableEq, Repr

namespace State

/-- The protected partition, if `CKP_CFG` names a live one. -/
def ckpPtn (s : State) : Option Nat := s.ptnOf s.ckp.ptn

/-- The group of the checkpoint controller: that of the protected partition's lowest-numbered quadrant. -/
def ckpGroup (s : State) : Nat :=
  match s.ckpPtn with
  | some p => ((members (((tget s.ptns p).map (·.quads)).getD 0) 32).headD 0) / 4
  | none => 0

/-- Whether a mirror session stands (R326, R327). -/
def ckpSession (s : State) : Bool := s.ckp.mirror == .active || s.ckp.mirror == .correlated

/-- The listed regions in the order in which they stream (R316, R319). -/
def regions (s : State) : List Region :=
  sortBy (fun a b => a.order < b.order || (a.order == b.order && a.ident ≤ b.ident))
    ((List.range s.ckp.regionCount).map fun i =>
      let l := s.fwRead (s.ckp.regionAddr * 4096 + 16 * i) 16
      ({ ident := i, first := le l 0 4, pages := le l 4 4, order := le l 8 1 } : Region))

/-- The frames of the pages of a partition. -/
def framesOf (s : State) (p first n : Nat) : List Nat := (List.range n).filterMap fun i => s.pageFrame p (first + i)

/-- Pages of regions that a restore would write become undefined (R330). -/
def undefineRegions (s : State) (p : Nat) : State :=
  let fs := s.regions.flatMap fun r => s.framesOf p r.first r.pages
  { s with
    mem := fs.foldl (fun m f => m.undefine (hbmKey f 0) (hbmKey f 65536) s.free) s.mem, free := s.free + 1 }

/-- Records that the log ring holds (R311). -/
def logRing (s : State) : Nat := s.ckp.logPages * 1024

/-- Whether the place of record `lsn` still holds a record at or above the latest durable checkpoint's LOG_LSN (R315). -/
def logBusy (s : State) (lsn : Nat) : Bool :=
  decide (s.logRing ≤ lsn ∧ s.ckp.durableLsn.toNat ≤ lsn - s.logRing)

/-- A record stored at its ring position (R311). -/
def logStore (s : State) (p : Nat) (l : List Byte) : State :=
  let x := le l 8 8 % Nat.max 1 s.logRing
  match s.pageFrame p (s.ckp.logFirst + x / 1024) with
  | some f => ({ s with mem := s.mem.writeAll (hbmKey f (x % 1024 * 64)) l } : State).dirtied (hbmKey f (x % 1024 * 64)) l.length
  | none => s

/-- The checkpoint controller writes a record (R311 to R315): it goes to the mirror partner at once, and counts as flushed
without a session once it is in the ring. A record whose place is still needed waits for it (log entry 24). -/
def logPut (s : State) (ty st fl step : Nat) (body : List Byte) : State :=
  match s.ckpPtn with
  | none => s
  | some p =>
    if s.logRing = 0 then s
    else
      let g := s.ckpGroup
      let lsn := s.ckp.lsn.toNat
      let l := logRecord ty st (fl ||| b2n s.ckp.replay.isSome) (80 + g) (s.dom (coreDomain g)).epoch.toNat lsn step (s.groupTime g).toNat body
      let wait := !s.ckp.logHeld.isEmpty || s.logBusy lsn
      let s1 := if wait then { s with ckp := { s.ckp with logHeld := s.ckp.logHeld ++ [l] } } else s.logStore p l
      let s2 := if s1.ckpSession then s1.sendNet (.logRecord l)
        else if wait then s1
        else { s1 with ckp := { s1.ckp with flushed := s1.ckp.lsn + 1 } }
      let s3 := { s2 with ckp := { s2.ckp with lsn := s2.ckp.lsn + 1 } }
      if s3.logBusy (lsn + 1) && !s3.ckp.full then
        ({ s3 with ckp := { s3.ckp with full := true } } : State).raiseEv evCkp 7
      else s3

/-- The LSN of the next record that the ring will hold: those that wait for a place are not in it (`CKP_LOG_PTR`). -/
def logWritten (s : State) : DWord := s.ckp.lsn - BitVec.ofNat 64 s.ckp.logHeld.length

/-- Waiting records take their places (R315): those whose place is no longer needed or, where the ring's oldest records are given up,
all. -/
def logRelease (s : State) (giveUp : Bool) : State :=
  match s.ckpPtn with
  | none => s
  | some p =>
    let n := if giveUp then s.ckp.logHeld.length else (s.ckp.logHeld.takeWhile fun l => !s.logBusy (le l 8 8)).length
    let s1 := (s.ckp.logHeld.take n).foldl (fun s l => s.logStore p l) s
    let s2 := { s1 with ckp := { s1.ckp with logHeld := s.ckp.logHeld.drop n } }
    { s2 with ckp := { s2.ckp with
        full := !giveUp && s2.logBusy s2.ckp.lsn.toNat
        flushed := if s2.ckpSession || n = 0 then s2.ckp.flushed else s2.logWritten } }

/-- The held writes of some frames reach their frames, in the order they arrived (Table 7-5). -/
def heldRelease (s : State) (ok : Nat → Bool) : State :=
  let out := s.ckp.held.filter fun h => ok h.frame
  let s1 := out.foldl (fun (s : State) h => s.dirtied h.key h.data.length) s
  { s1 with
    mem := out.foldl (fun m h => m.writeAll h.key h.data) s.mem
    ckp := { s.ckp with
      held := s.ckp.held.filter fun h => !ok h.frame, copying := s.ckp.copying.filter fun c => !ok c.1 } }

/-- Frames of a partition, by its index. -/
def frameOf (s : State) (ptn frame : Nat) : Bool :=
  (tget s.ptns ptn).any fun p => bitAt p.pcs (frame / framesPerPc)

/-- WP clears on every frame of a partition, and its held writes proceed (R190, R321). -/
def clearWp (s : State) (ptn : Nat) : State :=
  let mine := s.frameOf ptn
  let s1 := { s with attrs := s.attrs.filterMap fun (p : Nat × Nat) =>
    let a := if mine p.1 then setFld p.2 2 2 0 else p.2
    if a = 0 then none else some (p.1, a) }
  s1.heldRelease mine

/-- A checkpoint runs: it has been captured or is being captured and has no end. -/
def ckptRuns (s : State) : Bool :=
  s.ckp.state == .capturing || s.ckp.state == .streaming || s.ckp.state == .sealing

/-- `CKP_STAT.STATE`. -/
def ckptCode (s : State) : Nat :=
  match s.ckp.state with
  | .none => 0
  | .capturing => 1
  | .streaming => 2
  | .sealing => 3
  | .durable => 4
  | .correlated => 5
  | .abandoned => 6
  | .failed => 7

/-- A CHECKPOINT record (Table 12-2). -/
def ckptRecord (s : State) : State :=
  s.logPut 8 0 0 s.ckp.step.toNat (leBytes 4 s.ckp.ident ++ leBytes 1 s.ckptCode ++
    leBytes 1 (b2n (s.ckp.mirror == .correlated)))

/-- The running checkpoint fails or is abandoned (R321): its record, WP cleared, its reserve frames freed, and, where R315 had asked
for it, waiting log records take the place of the oldest. -/
def ckptEnd (s : State) (failed : Bool) : State :=
  if s.ckptRuns then
    let s1 := { s with
      ckp := { s.ckp with
        state := if failed then .failed else .abandoned, copyMap := [], reserve := [], captureHeld := [], due := false,
        forced := false, cut := false }
      contexts := tmap (fun _ k => if k.captureDue then { k with captureDue := false } else k) s.contexts }
    let s2 := match s1.ckpPtn with
      | some p => s1.clearWp p
      | none => s1
    ((if s.ckp.forced then s2.logRelease true else s2).ckptRecord).raiseEv evCkp (if failed then 2 else 1)
  else s

/-- A write reaches a WP frame (R189): the copier takes a reserve frame of the die, unless it copies the frame already or is busy
with another frame of the pseudo-channel; with none left WP is given up (R190). -/
def cowStart (s : State) (frame : Nat) : State :=
  if s.ckp.copying.any fun c => c.1 / framesPerPc == frame / framesPerPc then s
  else
    let die := frame / framesPerPc / 64
    match tgetD s.ckp.reserve die [] with
    | r :: rest => { s with ckp := { s.ckp with
        reserve := tput s.ckp.reserve die rest, copying := s.ckp.copying ++ [(frame, r)] } }
    | [] =>
      match (s.ptns.filter fun p => bitAt p.2.pcs (frame / framesPerPc)).head? with
      | some p => ((s.clearWp p.1).ckptEnd false).raiseEv (evHbm (frame / framesPerPc / 32)) 3
      | none => s

/-- Bytes that a command (or with no command another writer) writes at a key: held where the frame is protected
(R187, R189). The bytes lie in one frame. -/
def putKey (s : State) (c q : Nat) (idx : Word) (k : Nat) (l : List Byte) : State :=
  if k < 2 ^ 60 ∧ bitAt (s.attr (k / 65536)) 2 = true then
    let s1 := s.cowStart (k / 65536)
    if bitAt (s1.attr (k / 65536)) 2 then
      { s1 with ckp := { s1.ckp with
          held := s1.ckp.held ++ [{ frame := k / 65536, key := k, data := l, ctx := c, q := q, idx := idx }] } }
    else ({ s1 with mem := s1.mem.writeAll k l } : State).dirtied k l.length
  else ({ s with mem := s.mem.writeAll k l } : State).dirtied k l.length

/-- Bytes that a command writes along a row: whole runs within a frame at a time. `fuel` bounds the runs. -/
def putRow (s : State) (c q : Nat) (idx : Word) (row : RowAt) (off : Nat) (l : List Byte) : Nat → State
  | 0 => s
  | fuel + 1 =>
    match l, row off with
    | [], _ => s
    | _, none => s
    | _, some k =>
      let n := if k < 2 ^ 60 then 65536 - k % 65536 else l.length
      (s.putKey c q idx k (l.take n)).putRow c q idx row (off + Nat.max 1 (Nat.min n l.length)) (l.drop n) fuel

/-- A command's HOST_WR messages, at most 256 bytes each (Table 15-5), which the command waits for (R156, R383). `fuel`
bounds the messages. -/
def hostWrites (s : State) (c q : Nat) (idx : Word) (h : Nat) (l : List Byte) : Nat → State
  | 0 => s
  | fuel + 1 =>
    if l = [] then s
    else
      let n := s.plk.nextWrite
      (({ s with
        mem := if s.linkUp then s.mem.writeAll (hostKey h) (l.take 256) else s.mem
        plk := { s.plk with
          nextWrite := n + 1,
          writes := s.plk.writes ++
            [{ ident := n, seq := none, ctx := c, q := q, idx := idx, addr := h, data := l.take 256 }] } } : State).send
        (.hostWr (some n) h (l.take 256))).hostWrites c q idx (h + 256) (l.drop 256) fuel

/-- Bytes that a command writes at an address, for a unit of partition `ptn` on base die `die`; host addresses are
reached by HOST_WR. -/
def putBytes (s : State) (c q : Nat) (idx : Word) (ptn die a : Nat) (l : List Byte) : State :=
  match parseAddr a with
  | .host h => if s.linkUp = false ∧ 4 ≤ q then s else s.hostWrites c q idx h l (l.length + 1)
  | _ => s.putRow c q idx (fun off => s.key ptn die (a + off)) 0 l (l.length + 1)

/-- Whether a command still has writes that no destination has acknowledged (R156). -/
def unacked (s : State) (c q : Nat) (idx : Word) : Bool :=
  (s.ckp.held.any fun h => h.ctx == c && h.q == q && h.idx == idx) ||
  (s.plk.writes.any fun h => h.ctx == c && h.q == q && h.idx == idx) ||
  (s.plk.reads.any fun h => h.ctx == c && h.q == q && h.idx == idx)

end State

end Sys2Proof.Machine
end

