-- ==== Sys2Proof/Machine/Units.lean ====
section
/-! DEFINITION. What the units that run commands share: the start of a command at its unit, destinations of elements,
random draws (R130 to R137, R148), and the reading of sources (R163, R164). -/

namespace Sys2Proof.Machine

/-! ### Destinations -/

/-- Where a command writes elements: a memory operand, a row-store half, a Sorus slot from a token position on, or
nowhere. -/
inductive Dest where
  | mem (d : Desc)
  | store (arr half : Nat)
  | slot (chan slot token bytes : Nat)
  | nowhere
  deriving DecidableEq, Repr

/-- The bytes of the packing groups that elements `c0` and up of a row touch, and their offset: positions of the row
that are not written keep their value, positions past its end are zero (R124). -/
def elemRun (rd : Nat → Byte) (fmt cols c0 : Nat) (vs : List Nat) : Nat × List Byte :=
  let g := packGroup fmt
  let first := c0 / g.1
  let last := (c0 + vs.length - 1) / g.1
  (first * g.2, (List.range (last + 1 - first)).flatMap fun j =>
    leBytes g.2 ((List.range g.1).foldl (fun a p =>
      let e := (first + j) * g.1 + p
      let v := if c0 ≤ e ∧ e < c0 + vs.length then vs.getD (e - c0) 0 else if e ≥ cols then 0 else getElem rd fmt e
      a + v % 2 ^ fmtBits fmt * 2 ^ (fmtBits fmt * p)) 0))

namespace State

/-- A byte as a later access sees it: the latest write held at a protected frame, else what is stored (Table 7-5). -/
def seen (s : State) (k : Nat) : Byte :=
  match s.ckp.held.reverse.find? fun h => decide (h.key ≤ k ∧ k < h.key + h.data.length) with
  | some h => h.data.getD (k - h.key) 0
  | none => s.mem.read k

/-- The byte at an offset of a row, held writes included. -/
def seenByte (s : State) (row : RowAt) (off : Nat) : Byte := ((row off).map s.seen).getD 0

/-- Elements `c0` and up of row `r` of a destination written by a command. -/
def putDest (s : State) (c q : Nat) (idx : Word) (ptn die : Nat) (dst : Dest) (fmt cols r c0 : Nat) (vs : List Nat) :
    State :=
  if vs = [] then s
  else
    match dst with
    | .mem d =>
      let x := elemRun (s.seenByte (s.memRow ptn die d fmt r)) fmt cols c0 vs
      s.putBytes c q idx ptn die (d.addr + r * d.pitch fmt + x.1) x.2
    | .store a h =>
      let x := elemRun (s.seenByte (storeRow a h r)) (laneFmt fmt) cols c0 vs
      s.putRow c q idx (storeRow a h r) x.1 x.2 2
    | .slot ch k t b =>
      if k = Channel.noSlot then s else
      let x := elemRun (s.seenByte (sorRow ch k b (t + r))) fmt cols c0 vs
      s.putRow c q idx (sorRow ch k b (t + r)) x.1 x.2 2
    | .nowhere => s

end State

/-! ### Random draws -/

/-- The draws of a command: counter form, tensor id, key, step, the cursor of each row, and the TX2 counter's start. -/
structure Draw where
  rform : Bool
  tensor : Nat
  key : Nat
  step : Nat
  cursor : Nat → Nat
  tx2 : Bool
  base : Nat
  cols : Nat

/-- The generator's output for an element: its row and column in the logical tensor, its place in drawing order. -/
def Draw.out (d : Draw) (row col ord : Nat) : Nat :=
  gen (if d.tx2 then counterTx2 d.tensor (d.base + ord)
    else if d.rform then counterS d.tensor d.step (d.cursor row) col
    else counterW d.tensor d.step (row * d.cols + col)) d.key

/-- The rounding of a conversion: GRAD overrides the mode (R125, R130, R131, Table 5-10). -/
def rndOf (grad : Bool) (rmode : Nat) (tx2 : Bool) (out : Nat) : Rnd :=
  if grad || rmode == 2 then (if tx2 then .stoch 16 (out % 2 ^ 16) else .stoch 24 (out % 2 ^ 24))
  else if rmode = 1 then .zero else .nearest

/-- The place of element (i, n) of tile `t` of an extent in the order of R148: tiles in the order of R83, row-major
within each. -/
def tileOrd (m n t i j : Nat) : Nat :=
  let size := fun u => Nat.min 16 (m - 16 * (tilePos m u).1) * Nat.min 256 (n - 256 * (tilePos m u).2)
  ((List.range t).map size).sum + i * Nat.min 256 (n - 256 * (tilePos m t).2) + j

namespace State

/-- The draws of a command: the seed and step of its context, and a cursor operand for form S (R133 to R136). A form S draw
of a command that names no cursor operand takes data cursor 0, which the spec does not say (DESIGN CHOICE, log entry 148). -/
def drawOf (s : State) (x : At) (y : Cmd) (rform : Bool) (tensor curField cols die : Nat) : Draw :=
  let k := s.ctx x.c
  { rform := rform, tensor := tensor, key := k.seed.toNat, step := k.step.toNat,
    cursor := fun r => match s.opd x curField [0] with
      | some d => s.cursorAt k.ptn die d r
      | none => 0,
    tx2 := k.tx2, base := (y.draws.getD 0).toNat, cols := cols }

/-- A TX2 command takes its run of the context's draw counter when it first begins (R148). -/
def takeDraws (s : State) (c q : Nat) (idx : Word) (n : Nat) : State :=
  match s.cmd c q idx with
  | some y =>
    if (s.ctx c).tx2 && y.draws.isNone then
      let k := s.ctx c
      (s.setCtx c { k with draws := k.draws + BitVec.ofNat 64 n }).modCmd c q idx fun z => { z with draws := some k.draws }
    else s
  | none => s

/-! ### The start of a command at its unit -/

/-- The domains of a queue's quadrants, ascending. -/
def queueDomains (s : State) (c q : Nat) : List Nat := (members (s.queueQuads c q) 32).map quadDomain

/-- Earlier commands of a queue than an index, in queue order. -/
def earlier (s : State) (c q : Nat) (idx : Word) : List Cmd := (s.queue c q).cmds.takeWhile fun y => y.index != idx

/-- A command begins at its unit: it has the unit's opcode, no code yet, its context runs, and nothing earlier stands in
its way (R154); none begins on the hold-up store (Table 14-2, step 2). A fenced domain of the unit, or one an operand meets, answers RETRY_LATER (R11, R88); an access that has
become forbidden CONTEXT_FAULT (R185). `doms` are the unit's domains. A command of the arrays begins on no array of a queue whose
arrays are all retired (R83, R93). -/
def unitStart (s : State) (op c q : Nat) (idx : Word) (doms : List Nat) (body : State → Cmd → At → State) : State :=
  match s.cmd c q idx with
  | none => s
  | some y =>
    let x := atCmd c q y
    if s.pwr.onHoldup || y.result.isSome || y.started || y.final || cmdOpcode y.word != op || (s.ctx c).state != .running ||
        !s.clear c q (s.earlier c q idx) x || (op ≤ 6 && (s.cmdArrays c q).isEmpty) then s
    else
      match doms.find? fun d => !s.isOpen d with
      | some d => s.answerFenced c q idx d
      | none =>
        match s.accessStatus x with
        | some (st, some d) => if st = .retryLater then s.answerFenced c q idx d else s.answer c q idx st
        | some (st, none) => s.answer c q idx st
        | none => body s y x

/-- A command that names a Sorus channel goes on once the channel acts: a channel state that answers a code answers it
(R24, Table 1-10), a producing command without a slot to fill waits for a credit, and a take waits for a block (R30). -/
def withChan (s : State) (c q : Nat) (idx : Word) (i : Nat) (put ready : Bool) (body : State → State) : State :=
  match s.chanStatus i put with
  | some (st, some d) => if st = .retryLater then s.answerFenced c q idx d else s.answer c q idx st
  | some (st, none) => s.answer c q idx st
  | none => if s.chanActs i put && ready then body (s.chanWaited c q idx i put) else s.chanWait c q idx i

/-- Whether channel `i` can take a producing command's writes (R30). -/
def canFill (s : State) (i : Nat) : Bool := (tget s.channels i).any Channel.canFill

/-- The slot that a producing command writes, which is FILLING from its first write on (R30). -/
def fillSlot (s : State) (i : Nat) : Nat × State :=
  match tget s.channels i with
  | some ch =>
    let r := ch.beginFill
    (r.1, s.setChan i r.2)
  | none => (0, s)

/-! ### Sources -/

/-- The half of an array that holds what its context stored there, if one does (KIND 1 of Table 6-4). -/
def loadedHalf (s : State) (a c : Nat) : Option Nat :=
  [0, 1].find? fun h => let x := (s.arr a).halves.getD h Half2.reset; x.loaded && x.owner == c && x.load.isNone

/-- Whether a half holds nothing and no issued instruction drains into it (R78). -/
def halfFree (s : State) (a h : Nat) : Bool :=
  !((s.arr a).halves.getD h Half2.reset).loaded && (s.arr a).drains.all fun d => d.half != some h

/-- A half that holds nothing and is not reserved. -/
def freeHalf (s : State) (a : Nat) : Option Nat := [0, 1].find? fun h => s.halfFree a h

/-- A half of an array filled by a context, or released. -/
def setHalf (s : State) (a h : Nat) (x : Half2) : State :=
  let y := s.arr a
  s.setArr a { y with halves := y.halves.set h x }

/-- Whether a selector names the row store. -/
def namesStore (s : State) (x : At) (v : Nat) : Bool :=
  match selOf v with
  | .rowStore => true
  | .desc i => (s.desc x i [1]).isSome
  | _ => false

/-- The arrays that a command's tiles are dealt to. -/
def arraysUsed (s : State) (x : At) (tiles : Nat) : List Nat := (s.cmdArrays x.c x.q).take tiles

/-- The waves that an instruction which issues has waited count for its quadrant (`ARR_QCNT`, c = 1 and 2): the spec gives their
number for no event of the block, so that they are free values (log entry 153). -/
def countWaits (s : State) (k : Nat) (op space : Bool) : State :=
  let v := fun (b : Bool) (n : Nat) => if b then Config.freeValue 64 n else 0
  let y := s.quad k
  if op || space then
    { s.setQuad k { y with
        waitOperand := y.waitOperand + v op s.free
        waitSpace := y.waitSpace + v space (s.free + b2n op) } with free := s.free + b2n op + b2n space }
  else s

/-- An element-wise, reduce or top-K command waits under R78: why, until it runs. -/
def edgeWaits (s : State) (c q : Nat) (idx : Word) (stationary space edge : Bool) : State :=
  s.modCmd c q idx fun y => { y with waits := y.waits ||| (b2n stationary + 2 * b2n space + 4 * b2n edge) }

/-- Its wait ends: it counts for the quadrants of its arrays. -/
def edgeWaited (s : State) (c q : Nat) (idx : Word) (arrays : List Nat) : State :=
  match s.cmd c q idx with
  | some y =>
    if y.waits = 0 then s
    else ((arrays.map (· / 128)).eraseDups.foldl (fun (s : State) k =>
      s.countWaits k (bitAt y.waits 0) (bitAt y.waits 1 || bitAt y.waits 2)) s).modCmd c q idx fun z => { z with waits := 0 }
  | none => s

/-- Whether the row-store half that a selector names stands on every array of a command's tiles. -/
def storeReady (s : State) (x : At) (v tiles : Nat) : Bool :=
  !s.namesStore x v || (s.arraysUsed x tiles).all fun a => (s.loadedHalf a x.c).isSome

/-- The value that a source selector gives for element (i, j) of tile `t` of an extent of `m` rows (R163, R164, R85):
memory and row stores in format `fmt`, slots with their tag, constants of the parameter descriptor. -/
def sourceNum (s : State) (x : At) (v fmt m t i j : Nat) (p : Param) : Num :=
  let k := s.ctx x.c
  let d := dealt (s.cmdArrays x.c x.q) t
  let pos := tilePos m t
  let store := match s.loadedHalf d.1 x.c with
    | some h => decodeElem fmt k.tx2 (s.elem (storeRow d.1 h i) (laneFmt fmt) j)
    | none => Num.zero
  match selOf v with
  | .desc n =>
    match s.desc x n [0, 1] with
    | some o =>
      if o.kind = 1 then store
      else decodeElem fmt k.tx2 (s.elem (s.memRow k.ptn (arrDie d.1) o fmt (16 * pos.1 + i)) fmt (256 * pos.2 + j))
    | none => Num.zero
  | .slot b _ => s.slotValue d.1 ((b + d.2) % 4) i j
  | .rowStore => store
  | .const n => p.c.getD n Num.zero
  | _ => Num.zero

/-- The slots that a selector with RELEASE frees, tile by tile (R80, Table 6-5). -/
def releaseSlots (s : State) (x : At) (v tiles : Nat) : State :=
  match selOf v with
  | .slot b true =>
    (List.range tiles).foldl (fun s t =>
      let d := dealt (s.cmdArrays x.c x.q) t
      let y := s.arr d.1
      s.setArr d.1 { y with slots := y.slots.set ((b + d.2) % 4) AccSlot.reset }) s
  | _ => s

/-- The row-store halves that a source selector reads on the arrays of the tiles, as (array, half). -/
def storesRead (s : State) (x : At) (v tiles : Nat) : List (Nat × Nat) :=
  if s.namesStore x v then (s.arraysUsed x tiles).filterMap fun a => (s.loadedHalf a x.c).map fun h => (a, h) else []

/-- The free row-store halves that a destination selector writes on the arrays of the tiles, as (array, half). -/
def storesWritten (s : State) (x : At) (v tiles : Nat) : List (Nat × Nat) :=
  if s.namesStore x v then (s.arraysUsed x tiles).filterMap fun a => (s.freeHalf a).map fun h => (a, h) else []

/-- Row-store halves set to a state of theirs: released after the command that read them (R69), or filled. -/
def setHalves (s : State) (hs : List (Nat × Nat)) (x : Half2) : State := hs.foldl (fun (s : State) p => s.setHalf p.1 p.2 x) s

end State

end Sys2Proof.Machine
end

