-- ==== Sys2Proof/Machine/Arrays.lean ====
section
/-! DEFINITION. The arrays: plain products and convolution rows (R72 to R84), accumulation with overflow retry (R97 to
R106), split reductions (R107 to R112), drains (R81, R90), and array ECC errors (R92). -/

namespace Sys2Proof.Machine

/-- The fields of a matrix command (Table 6-6, Table 6-7). -/
structure MatForm where
  conv : Bool
  fa : Nat
  fb : Nat
  fd : Nat
  add : Bool
  drain : Bool
  scale : Nat
  slot : Nat
  rmode : Nat
  sat : Bool
  eadj : Int
  rform : Bool
  tensor : Nat
  split : Nat
  chunk : Nat
  deriving DecidableEq, Repr

/-- The matrix command that a word is. -/
def matForm (x : At) : MatForm :=
  if x.f 5 0 = 1 then
    { conv := false, fa := x.f 64 61, fb := x.f 68 65, fd := x.f 72 69, add := x.b 73, drain := x.b 74, scale := x.f 76 75,
      slot := x.f 78 77, rmode := x.f 80 79, sat := x.b 81, eadj := toSigned 8 (x.f 89 82), rform := x.b 104,
      tensor := x.f 127 105, split := x.f 103 96 + 1, chunk := x.f 95 90 }
  else
    { conv := true, fa := x.f 46 43, fb := x.f 50 47, fd := x.f 54 51, add := x.b 55, drain := x.b 56, scale := x.f 58 57,
      slot := x.f 60 59, rmode := x.f 61 61, sat := x.b 62, eadj := toSigned 8 (x.f 70 63), rform := false,
      tensor := 0, split := 1, chunk := 0 }

/-- The shape of a convolution row command (Table 6-7). -/
structure ConvForm where
  fh : Nat
  fw : Nat
  sw : Nat
  g : Nat
  wo : Nat
  fo : Nat
  c : Nat
  nfo : Nat
  deriving DecidableEq, Repr

/-- The shape that a CONVROW word gives. -/
def convForm (x : At) : ConvForm :=
  { fh := x.f 74 71 + 1, fw := x.f 78 75 + 1, sw := x.f 80 79 + 1, g := 2 ^ x.f 82 81, wo := x.f 90 83 + 1,
    fo := x.f 98 91 + 1, c := x.f 111 99 + 1, nfo := x.f 119 112 + 1 }

/-- The granule and the MACs per wave, in quarters, of a pair of formats (Table 3-1, Table 3-3). -/
def pairClass (fa fb : Nat) : Nat × Nat :=
  match mulClass fa, mulClass fb with
  | some (ma, ga, _), some (mb, gb, _) => (Nat.max ga gb, Nat.min ma mb)
  | _, _ => (16, 4)

/-- Whole steps of a convolution's reduction in one instruction, so that it stays within 16,384 issue waves (R77). In TX2
emulation a multiple of four, so that no four products of Table 5-10 are cut. -/
def convRun (tx2 : Bool) (v : ConvForm) (macs : Nat) : Nat :=
  let n := Nat.max 1 (4096 * macs / Nat.max 1 (v.wo * v.fo))
  if tx2 then Nat.max 1 (n - n % 4) else n

/-! ### Sums in a cell -/

/-- One accumulation in P48 (R97), or in the 40-bit accumulator of TX2 emulation (Table 5-10): the new sum, and whether
it passed the largest finite magnitude. -/
def accAdd (tx2 : Bool) (s x : Num) : Num × Bool :=
  let t := if tx2 then fmtAcc40 else fmtP48
  let y := s.add x
  let y := if tx2 then t.flushSub y else y
  (t.rne y, t.overflows y)

/-- The exact sum of four consecutive products (Table 5-10). -/
def sumFours : List Num → List Num
  | a :: b :: c :: d :: r => (((a.add b).add c).add d) :: sumFours r
  | [] => []
  | l => [l.foldl Num.add Num.zero]

/-- A cell's sum over its operand pairs in order, at tag `t` (R97, R100). -/
def cellSum (tx2 : Bool) (t : Nat) (start : Num) (ps : List (Num × Num)) : Num × Bool :=
  let prods := ps.map fun p => (p.1.mul p.2).scale (-(8 * t : Nat))
  (if tx2 then sumFours prods else prods).foldl (fun a x =>
    let r := accAdd tx2 a.1 x
    (r.1, a.2 || r.2)) (start, false)

/-- What a run of additions into a tile gives: the final tag, the retries, whether an element overflowed at the last tag,
the elements. -/
structure TileRun where
  tag : Nat
  retries : Nat
  ovf : Bool
  rows : List (List Num)

/-- Run additions into a tile at a tag, and again at the next while an addition overflows below tag 3 (R101 to R103);
TX2 emulation does not retry. `at_ t` gives the elements at tag `t` with their overflows. -/
def runTags (tx2 : Bool) (at_ : Nat → List (List (Num × Bool))) (retries : Nat) : Nat → Nat → TileRun
  | 0, t =>
    let l := at_ t
    { tag := t, retries := retries, ovf := l.any (fun r => r.any (·.2)), rows := l.map (fun r => r.map (·.1)) }
  | fuel + 1, t =>
    let l := at_ t
    let o := l.any (fun r => r.any (·.2))
    if o && !tx2 then runTags tx2 at_ (retries + 1) fuel (t + 1)
    else { tag := t, retries := retries, ovf := o, rows := l.map (fun r => r.map (·.1)) }

/-- The elements of one chunk: `start i n` is the slot's prior element at tag `tag0`, `ps i n` the operand pairs (R100). -/
def chunkRun (tx2 : Bool) (scale tag0 cols : Nat) (start : Nat → Nat → Num) (ps : Nat → Nat → List (Num × Num)) : TileRun :=
  let t0 := Nat.max scale tag0
  runTags tx2 (fun t => (List.range 16).map fun i => (List.range cols).map fun n =>
    cellSum tx2 t ((start i n).scale (8 * (tag0 : Int) - 8 * (t : Int))) (ps i n)) 0 (3 - t0) t0

/-- The sum of two partials (R109, R111). -/
def combineRun (tx2 : Bool) (tagA tagB cols : Nat) (a b : Nat → Nat → Num) : TileRun :=
  let t0 := Nat.max tagA tagB
  runTags tx2 (fun t => (List.range 16).map fun i => (List.range cols).map fun n =>
    accAdd tx2 ((a i n).scale (8 * (tagA : Int) - 8 * (t : Int))) ((b i n).scale (8 * (tagB : Int) - 8 * (t : Int))))
    0 (3 - t0) t0

namespace State

/-! ### The shape of a command -/

/-- Columns of tile `t` that its instructions take issue waves for: those of D, rounded up to a pass of 16 for a plain product
(R73). -/
def waveCols (s : State) (x : At) (t : Nat) : Nat :=
  if x.f 5 0 = 1 then
    match s.opd x 16 [0, 1], s.opd x 25 [0] with
    | some a, some b => roundUp (Nat.min 256 (b.cols - 256 * (tilePos a.rows t).2)) 16
    | _, _ => 0
  else (convForm x).wo * (convForm x).fo

/-- Columns of a command's tile in its slot: for a plain product those of the 16 passes of its segment, columns beyond N being
computed and never written (R198). -/
def tileCols (x : At) : Nat := if x.f 5 0 = 1 then 256 else (convForm x).wo * (convForm x).fo

/-- The chunks of a tile's reduction: K in chunks of the chunk depth (R83); for a convolution the runs of whole steps that
stay within 16,384 issue waves (R77). -/
def tileChunks (s : State) (x : At) : Nat :=
  let f := matForm x
  let cl := pairClass f.fa f.fb
  if f.conv then
    let v := convForm x
    ceilDiv (v.fw * (v.c / v.g)) (convRun (s.ctx x.c).tx2 v cl.2)
  else
    match s.opd x 16 [0, 1] with
    | some a => ceilDiv a.cols (Nat.max 1 (f.chunk * cl.1))
    | none => 0

/-- Row and column in D of element (i, n) of tile `t`, if D has it (R164, R166). -/
def tilePlace (s : State) (x : At) (t i n : Nat) : Option (Nat × Nat) :=
  match s.opd x 16 [0, 1], s.opd x 25 [0] with
  | some a, some b =>
    if x.f 5 0 = 1 then
      let p := tilePos a.rows t
      if 16 * p.1 + i < a.rows ∧ 256 * p.2 + n < b.cols then some (16 * p.1 + i, 256 * p.2 + n) else none
    else
      let v := convForm x
      let r := 16 * (t / v.nfo) + i
      if r < b.rows + 1 - v.fh then some (r, n / v.fo * (v.fo * v.nfo) + t % v.nfo * v.fo + n % v.fo) else none
  | _, _ => none

/-- Columns of the logical tensor D. -/
def matCols (s : State) (x : At) : Nat :=
  if x.f 5 0 = 1 then ((s.opd x 25 [0]).map (·.cols)).getD 0
  else (convForm x).wo * (convForm x).fo * (convForm x).nfo

/-! ### Binding (R83, R107, R108) -/

/-- A matrix command begins: its tiles and parts are dealt to the queue's arrays in order. -/
def bindMatrix (s : State) (c q : Nat) (idx : Word) (x : At) : State :=
  let f := matForm x
  let as := s.cmdArrays c q
  let tiles := s.matTiles x
  let chunks := s.tileChunks x
  let n := tiles * f.split
  let s1 := (List.range n).foldl (fun s u =>
    let d := dealt as u
    let t := u / f.split
    let p := u % f.split
    let a := s.arr d.1
    s.setArr d.1 { a with bound := a.bound ++ [{
      kind := if f.conv then .conv else .product, ctx := c, q := q, idx := idx, tile := t, part := p, parts := f.split,
      lo := p * chunks / f.split, hi := (p + 1) * chunks / f.split, first := true,
      last := decide (p + 1 = f.split), add := f.add, drain := f.drain,
      slot := if f.drain then none else some ((f.slot + d.2) % 4), prior := 0, waitOp := false, waitSpace := false }] }) s
  let s2 := s1.modCmd c q idx fun y => { y with started := true, left := tiles, count := tiles }
  s2.takeDraws c q idx (match s.opd x 16 [0, 1], if (s.opd x 34 [2]).isSome then none else s.opd x 25 [0] with
    | some a, some b => if (x.b 8 || f.rmode == 2) && f.drain then a.rows * b.cols else 0
    | _, _ => 0)

/-! ### Issue (R78, R79) -/

/-- The stationary rows that the sequencer loads from memory for a chunk of an instruction: row `i` as encodings. Rows past the
end of the product, and elements past K, are zero (R72, R165); a convolution row's filters lie one cell row each (R76). -/
def stationaryRow (s : State) (x : At) (a : Nat) (ins : ArrInstr) (oa : Desc) (i : Nat) : List Nat :=
  let f := matForm x
  let k := s.ctx x.c
  let cl := pairClass f.fa f.fb
  let row := fun (r : Nat) => s.memRow k.ptn (arrDie a) oa f.fa r
  if f.conv then
    let v := convForm x
    if i < v.g * v.fh then
      (List.range (v.fw * (v.c / v.g) * v.fo)).map fun e => s.elem (row (ins.tile % v.nfo * v.g * v.fh + i)) f.fa e
    else []
  else
    let depth := f.chunk * cl.1
    let lo := ins.lo * depth
    let r := 16 * (tilePos oa.rows ins.tile).1 + i
    (List.range (Nat.min depth (roundUp (oa.cols - lo) cl.1))).map fun u =>
      if r < oa.rows ∧ lo + u < oa.cols then s.elem (row r) f.fa (lo + u) else 0

/-- The chunk of an instruction that comes next, as a half names what is loaded for it. -/
def loadOf (ins : ArrInstr) : HalfLoad :=
  { ctx := ins.ctx, q := ins.q, idx := ins.idx, tile := ins.tile, part := ins.part, lo := ins.lo }

/-- The stationary operand of an instruction's next chunk is loaded into half `h` of its array (Table 3-4, step 1). -/
def loadRows (s : State) (x : At) (a h : Nat) (ins : ArrInstr) : State :=
  match s.opd x 16 [0] with
  | some oa =>
    let s1 := (List.range 16).foldl (fun (t : State) i =>
      let row := (packRow (laneFmt (matForm x).fa) (s.stationaryRow x a ins oa i)).take 1024
      { t with mem := t.mem.writeAll (rowKey a h (1024 * i)) row }) s
    s1.setHalf a h { loaded := true, owner := ins.ctx, load := some (loadOf ins) }
  | none => s

/-- The operand pairs of element (i, n) of a chunk of an instruction, in the order of R97, the filter rows of a band ascending
within it, where the rule names no place for them (log entry 50). The stationary rows lie in half `half`: those of the chunk, or,
for KIND 1, those of the whole tile. Streamed entries are read where the layout holds them, the padding of a segment of the chunk's
depth included, which meets stationary zeros beyond K (R74, R198, R199). -/
def chunkPairs (s : State) (x : At) (a : Nat) (ins : ArrInstr) (half : Nat) (i n : Nat) : List (Num × Num) :=
  let f := matForm x
  let k := s.ctx x.c
  let die := arrDie a
  let cl := pairClass f.fa f.fb
  match s.opd x 16 [0, 1], s.opd x 25 [0] with
  | some oa, some ob =>
    let rowA := fun (r : Nat) => storeRow a half r
    if f.conv then
      let v := convForm x
      let cg := v.c / v.g
      let run := convRun k.tx2 v cl.2
      let lo := ins.lo * run
      let hi := Nat.min (v.fw * cg) (lo + run)
      (List.range (hi - lo)).flatMap fun u =>
        let fx := (lo + u) / cg
        let ch := (lo + u) % cg
        (List.range v.g).flatMap fun b => (List.range v.fh).map fun r =>
          let av := decodeElem f.fa k.tx2 (s.elem (rowA (b * v.fh + r)) (laneFmt f.fa) ((lo + u) * v.fo + n % v.fo))
          let y := 16 * (ins.tile / v.nfo) + i + r
          let p := convPos ob f.fb (n / v.fo * v.sw + fx) (b * cg + ch)
          let bv := if y < ob.rows then
              decodeElem f.fb k.tx2 (s.elem (fun off => s.key k.ptn die (ob.addr + y * convRowPitch ob f.fb + p.1 + off))
                f.fb p.2)
            else Num.zero
          (av, bv)
    else
      let depth := f.chunk * cl.1
      let lo := ins.lo * depth
      let pos := tilePos oa.rows ins.tile
      (List.range depth).map fun u =>
        let av := if 16 * pos.1 + i < oa.rows ∧ lo + u < oa.cols then
            decodeElem f.fa k.tx2 (s.elem (rowA i) (laneFmt f.fa) (if oa.kind = 1 then lo + u else u)) else Num.zero
        let p := skewPos ob f.fb (lo + u) (256 * pos.2 + n)
        (av, decodeElem f.fb k.tx2 (s.elem (fun off => s.key k.ptn die (ob.addr + p.1 + off)) f.fb p.2))
  | _, _ => []

/-- Issue waves of a chunk (R73, R77). -/
def chunkWaves (s : State) (x : At) (ins : ArrInstr) : Nat :=
  let f := matForm x
  let cl := pairClass f.fa f.fb
  if f.conv then
    let v := convForm x
    let run := convRun (s.ctx x.c).tx2 v cl.2
    let lo := ins.lo * run
    ceilDiv (v.wo * v.fo * (Nat.min (v.fw * (v.c / v.g)) (lo + run) - lo) * 4) cl.2
  else
    match s.opd x 16 [0, 1] with
    | some oa =>
      let depth := f.chunk * cl.1
      s.waveCols x ins.tile * Nat.min depth (roundUp (oa.cols - ins.lo * depth) cl.1) * 4 / (16 * cl.2)
    | none => 0

/-- The lowest FREE slot of an array. -/
def freeSlot (s : State) (a : Nat) : Option Nat :=
  (List.range 4).find? fun k => ((s.arr a).slots.getD k AccSlot.reset).state == .free

/-- The slot an instruction uses, if the issue rule lets it: the one it holds already; for its first chunk one that is
FREE, or for an add into a named slot HELD by its context (R78). -/
def issueSlot (s : State) (a : Nat) (ins : ArrInstr) : Option Nat :=
  match ins.slot with
  | none => s.freeSlot a
  | some k =>
    let sl := (s.arr a).slots.getD k AccSlot.reset
    if ins.first = false ∨ sl.state = .free ∨ (ins.add = true ∧ sl.state = .held ∧ sl.owner = ins.ctx) then some k
    else none

/-- Whether an instruction's next chunk is the last before its tile drains: that of an unsplit tile, or of the part that receives
the other parts' partials. -/
def drainsNow (ins : ArrInstr) : Bool := ins.drain && ins.lo + 1 ≥ ins.hi && ins.part == 0

/-- The channel that a matrix command drains into. -/
def drainChan (s : State) (x : At) : Option Nat := (s.opd x 34 [2]).bind fun d => s.chanOf d.handle

/-- The slot of its channel that an earlier instruction of a command has reserved for its drains, while it is there to be written. -/
def reserved (s : State) (i : Nat) (y : Cmd) : Option Nat :=
  y.fillAt.filter fun k => k == Channel.noSlot || (tget s.channels i).any fun ch =>
    let st := (ch.slots.getD k SorSlot.reset).state
    st == .filling || st == .full

/-- Whether space stands at the drain destination of a tile whose stationary rows are in half `h`: the other half, for KIND 1
(R81), or the channel's slot (R30). -/
def drainSpace (s : State) (x : At) (a h : Nat) (y : Cmd) : Bool :=
  match s.opd x 34 [0, 1, 2] with
  | some d =>
    if d.kind = 1 then s.halfFree a (1 - h)
    else if d.kind = 2 then (s.drainChan x).all fun i => s.chanActs i true && ((s.reserved i y).isSome || s.canFill i)
    else true
  | none => true

/-- The half that is reserved for the tile when its last chunk issues from half `h` (R78, R81). -/
def drainHalf (s : State) (x : At) (h : Nat) : Option Nat := (s.opd x 34 [1]).map fun _ => 1 - h

/-- The mark of a half that is reserved for a split tile until its parts are combined. -/
def reserveMark (ins : ArrInstr) : HalfLoad :=
  { ctx := ins.ctx, q := ins.q, idx := ins.idx, tile := ins.tile, part := 0, lo := ins.hi }

/-- The space of a tile is reserved when its last chunk issues from half `h`: the slot of its channel, which is FILLING from then on,
and for a split tile the half (R30, R78). -/
def reserveSpace (s : State) (x : At) (a h : Nat) (ins : ArrInstr) (y : Cmd) : State :=
  match s.opd x 34 [0, 1, 2] with
  | some d =>
    if d.kind = 1 then
      if ins.parts = 1 then s else s.setHalf a (1 - h) { loaded := true, owner := ins.ctx, load := some (reserveMark ins) }
    else if d.kind = 2 then
      match s.drainChan x with
      | some i =>
        if (s.reserved i y).isSome then s
        else
          let r := s.fillSlot i
          r.2.modCmd ins.ctx ins.q ins.idx fun z => { z with fillAt := some r.1 }
      | none => s
    else s
  | none => s

/-- The half that holds the stationary operand of an instruction's next chunk, if one does: for KIND 1 a half the context filled,
otherwise the one loaded for the chunk. -/
def stationary (s : State) (x : At) (a : Nat) (ins : ArrInstr) : Option Nat :=
  match s.opd x 16 [0, 1] with
  | some oa =>
    if oa.kind = 1 then s.loadedHalf a x.c
    else [0, 1].find? fun h => ((s.arr a).halves.getD h Half2.reset).load == some (loadOf ins)
  | none => none

/-- The sequencer loads the stationary rows of an instruction's next chunk into a free half, unless they stand already (Table 3-4,
step 1). -/
def loadNext (s : State) (x : At) (a : Nat) (ins : ArrInstr) : State :=
  if (s.opd x 16 [0]).isSome && (s.stationary x a ins).isNone then
    match s.freeHalf a with
    | some h => s.loadRows x a h ins
    | none => s
  else s

/-- Whether the whole streamed operand is in the scratchpad: no DMA command of the context that writes some of it is
outstanding (R78). -/
def streamReady (s : State) (x : At) : Bool :=
  match s.opd x 25 [0] with
  | some ob =>
    let b : Foot := match parseAddr ob.addr with
      | .scr l die off => { cls := 1, mask := if l then 255 else 2 ^ die, lo := off, hi := off + ob.span (matForm x).fb, write := false }
      | _ => { cls := 0, mask := 1, lo := ob.addr, hi := ob.addr + ob.span (matForm x).fb, write := false }
    (List.range 4).all fun q => (s.queue x.c q).cmds.all fun y =>
      y.final || y.result.isSome || cmdOpcode y.word != 10 || !((s.footprint (atCmd x.c q y)).any fun f => f.clash b)
  | none => true

/-- A tile's status word written to the record area, if the command names one (R106). -/
def putTrec (s : State) (c q : Nat) (idx : Word) (x : At) (die tile word : Nat) : State :=
  if x.f 5 0 = 1 then
    match s.opd x 43 [0] with
    | some d => s.putBytes c q idx (s.ctx c).ptn die (d.addr + 4 * tile) (leBytes 4 word)
    | none => s
  else s

/-- A tile of a command is complete: its status word, what the command's record collects, and the command's code once all
its tiles are (R106, Table 3-4 step 7). -/
def tileDone (s : State) (c q : Nat) (idx : Word) (x : At) (a tile : Nat) (tag retries : Nat) (nonfinite ovf : Bool)
    (maxExp : Int) : State :=
  let s2 := s.putTrec c q idx x (arrDie a) tile (tileStatusWord ovf tag retries nonfinite ovf tile)
  s2.modCmd c q idx fun z =>
    let fl := z.tflags ||| b2n nonfinite ||| 2 * b2n ovf
    { z with
      left := z.left - 1, tflags := fl, maxTag := Nat.max z.maxTag tag, maxRetries := Nat.max z.maxRetries retries,
      maxExp := if z.maxExp < maxExp then maxExp else z.maxExp,
      result := if z.left ≤ 1 ∧ z.result = none then some (if bitAt fl 1 then .accOverflow else .ok) else z.result }

/-- An array instruction completes: what `ARR_STAT` reports of it (Table 3-4 step 7, Table 4-2 step 3). -/
def noteLast (s : State) (a : Nat) (st : Status) (retries : Nat) : State :=
  s.setArr a { s.arr a with lastStatus := st, lastRetries := retries % 4, lastDone := s.groupTime (a / 512) }

/-- The counters and events of a run: retries, overflow at the last tag, the largest tag (R101, R102). The waves of an
instruction count once, however often it repeats: the spec leaves open how many waves a repeat takes (R103; DESIGN CHOICE, log
entry 152). -/
def noteRun (s : State) (a : Nat) (r : TileRun) (waves : Nat) : State :=
  let k := a / 128
  let y := s.quad k
  let s1 := s.setQuad k { y with
    issueWaves := y.issueWaves + BitVec.ofNat 64 waves, ovfRetries := satAdd 32 y.ovfRetries r.retries,
    overflows := satAdd 16 y.overflows (b2n r.ovf), maxTag := Nat.max y.maxTag r.tag }
  let s2 := if r.retries > 0 then s1.raiseEv (evArr k) 0 else s1
  if r.ovf then s2.raiseEv (evArr k) 1 else s2

/-- The retries and the overflow that a command's tile has met so far, over the instructions of all its parts; the field of the
tile status word holds at most 3 (Table 4-3). -/
def tileNotes (y : Cmd) (tile : Nat) : Nat × Bool :=
  (y.combined.filter fun p => p.1 == tile).foldl (fun a p => (Nat.min 3 (a.1 + p.2.2.1), a.2 || p.2.2.2 != 0)) (0, false)

/-- The levels at which part `p` of `n` receives: as long as its partner exists (R109). -/
def combineLevels (p n : Nat) : Nat :=
  ((List.range 9).filter fun l => p % 2 ^ (l + 1) = 0 ∧ p + 2 ^ l < n).length

/-- The partner that part `p` receives next, after `level` combines: of the tree, or in TX2 emulation the next part in
ascending order (Table 5-10). -/
def combinePartner (tx2 : Bool) (p n level : Nat) : Option Nat :=
  if tx2 then (if p = 0 ∧ level + 1 < n then some (level + 1) else none)
  else if level < combineLevels p n then some (p + 2 ^ level) else none

/-- The array that receives a part's partial: the part with its lowest set bit clear, or in TX2 emulation part 0
(R109, Table 5-10). -/
def receiver (s : State) (x : At) (c q tile p : Nat) : Nat :=
  let low := ((List.range 9).find? fun b => bitAt p b).getD 0
  let u := if (s.ctx c).tx2 then 0 else p - 2 ^ low
  (dealt (s.cmdArrays c q) (tile * (matForm x).split + u)).1

/-- A part's partial in slot `k` of array `a` is final after `level` combines: where its receiver is another array it goes to the edge
column, to be drained as P48 (R109, R110). -/
def sendPartial (s : State) (x : At) (c q : Nat) (idx : Word) (tile p a k level own : Nat) : State :=
  if p = 0 ∨ (combinePartner (s.ctx c).tx2 p (matForm x).split level).isSome ∨ s.receiver x c q tile p = a then s
  else
    let y := s.arr a
    s.setArr a { y with
      slots := lmod y.slots k fun sl => { sl with state := .draining }
      drains := y.drains ++ [{
        ctx := c, q := q, idx := idx, tile := tile, slot := k, part := some p, retries := 0, own := own, half := none, status := .ok,
        ovf := false, waiting := false }] }

/-- A part or tile has been accumulated in slot `k`: a part waits for its combines, a draining tile goes to the edge
column with the half reserved for it, another stays HELD (R80, R81, R109). -/
def accumulated (s : State) (x : At) (a k own : Nat) (dhalf : Option Nat) (ins : ArrInstr) : State :=
  let c := ins.ctx
  let y := s.arr a
  let s1 := s.setArr a { y with bound := y.bound.filter fun b => b != ins }
  let tag := (y.slots.getD k AccSlot.reset).tag
  if ins.parts > 1 then
    (s1.modCmd c ins.q ins.idx fun z => { z with partials := z.partials ++ [(ins.tile, ins.part, a, k, 0)] }).sendPartial x c ins.q
      ins.idx ins.tile ins.part a k 0 own
  else
    let notes := ((s1.cmd c ins.q ins.idx).map fun z => tileNotes z ins.tile).getD (0, false)
    if ins.drain then
      let z := s1.arr a
      s1.setArr a { z with
        slots := lmod z.slots k fun sl => { sl with state := .draining },
        drains := z.drains ++ [{
          ctx := c, q := ins.q, idx := ins.idx, tile := ins.tile, slot := k, part := none, retries := notes.1, own := own,
          half := dhalf,
          status := if notes.2 then .accOverflow else .ok, ovf := notes.2, waiting := false }] }
    else s1.tileDone c ins.q ins.idx x a ins.tile tag notes.1 false notes.2 (-128)

/-- The chunk of the instruction at the head of an array runs to its end in slot `k` from half `half` (R79, R97 to R103). The
half is released when its last element has met its last streamed entry (Table 3-4 step 4), one that the context filled after the
command's last instruction there; the next chunk's rows are then loaded. -/
def runChunk (s : State) (x : At) (a k half : Nat) (ins : ArrInstr) : State :=
  let f := matForm x
  let y := s.arr a
  let sl := y.slots.getD k AccSlot.reset
  let keep := (!ins.first || ins.add) && sl.state != .free
  let cols := tileCols x
  let r := chunkRun (s.ctx ins.ctx).tx2 f.scale (if keep then sl.tag else 0) cols
    (fun i n => if keep then s.slotElem a k i n else Num.zero) (fun i n => s.chunkPairs x a ins half i n)
  let s1 := (s.writeTile a k cols fun i n => (r.rows.getD i []).getD n Num.zero).noteRun a r (s.chunkWaves x ins)
  let next := { ins with
    lo := ins.lo + 1, first := false, slot := some k, prior := ins.prior + r.retries, waitOp := false, waitSpace := false }
  let z := s1.arr a
  let s2 := s1.setArr a { z with
    slots := z.slots.set k { state := .held, owner := ins.ctx, tag := r.tag },
    bound := z.bound.map fun b => if b = ins then next else b }
  let note := fun (m : Cmd) =>
    let old := (m.combined.find? fun p => p.1 == ins.tile && p.2.1 == ins.part).getD (ins.tile, ins.part, 0, 0)
    { m with combined := (m.combined.filter fun p => !(p.1 == ins.tile && p.2.1 == ins.part)) ++
        [(ins.tile, ins.part, Nat.min 3 (old.2.2.1 + r.retries), Nat.max old.2.2.2 (b2n r.ovf))] }
  let s3 := s2.modCmd ins.ctx ins.q ins.idx note
  let kind1 := (s.opd x 16 [1]).isSome
  let more := decide (next.lo < ins.hi) || y.bound.any fun b => b != ins && b.ctx == ins.ctx && b.q == ins.q && b.idx == ins.idx
  let s4 := if kind1 && more then s3 else s3.setHalf a half Half2.reset
  let s5 := if drainsNow ins && ins.parts == 1 then s4 else s4.noteLast a (if r.ovf then .accOverflow else .ok) r.retries
  if next.lo < ins.hi then s5.loadNext x a next
  else s5.accumulated x a k r.retries (if drainsNow ins then s.drainHalf x half else none) next

/-- The command word of an outstanding command. -/
def atOf (s : State) (c q : Nat) (idx : Word) : Option At := (s.cmd c q idx).map fun y => atCmd c q y

/-- Where a part's partial stands: in a slot of an array, or drained as P48 to the scratchpad of its array's base die (R110,
R112): levels done, tag, and the element (i, n). -/
structure Partial where
  place : Option (Nat × Nat)
  level : Nat
  tag : Nat
  elem : Nat → Nat → Num

/-- The partial of part `p` of a command's tile. -/
def partialOf (s : State) (y : Cmd) (cols tile p : Nat) : Option Partial :=
  match y.partials.find? fun e => e.1 == tile && e.2.1 == p with
  | some (_, _, a, k, lv) => some {
      place := some (a, k), level := lv, tag := ((s.arr a).slots.getD k AccSlot.reset).tag, elem := s.slotElem a k }
  | none =>
    (y.spilled.find? fun e => e.1 == tile && e.2.1 == p).map fun e => {
      place := none, level := e.2.2.1, tag := e.2.2.2.1, elem := fun i n => p48Of (slice e.2.2.2.2 (6 * (cols * i + n)) 6) }

/-- A part's partial leaves the command's lists, and its slot, if it has one, is FREE. -/
def dropPartial (s : State) (c q : Nat) (idx : Word) (tile p : Nat) : State :=
  match s.cmd c q idx with
  | none => s
  | some y =>
    let mine := y.partials.filter fun e => e.1 == tile && e.2.1 == p
    let s1 := mine.foldl (fun (s : State) e =>
      let z := s.arr e.2.2.1
      s.setArr e.2.2.1 { z with slots := z.slots.set e.2.2.2.1 AccSlot.reset }) s
    s1.modCmd c q idx fun w => { w with
      partials := w.partials.filter fun e => !(e.1 == tile && e.2.1 == p)
      spilled := w.spilled.filter fun e => !(e.1 == tile && e.2.1 == p) }

/-- A part's partial is drained from its slot as P48, so that the slot serves another part (R110, R112: the parts run one after
another when there are few arrays; log entry 154). -/
def spillPart (s : State) (x : At) (c q : Nat) (idx : Word) (tile p : Nat) : State :=
  match s.cmd c q idx with
  | none => s
  | some y =>
    let cols := tileCols x
    match s.partialOf y cols tile p with
    | some r =>
      let data := (List.range 16).flatMap fun i => (List.range cols).flatMap fun n => p48Bytes (r.elem i n)
      (s.dropPartial c q idx tile p).modCmd c q idx fun w => { w with spilled := w.spilled ++ [(tile, p, r.level, r.tag, data)] }
    | none => s

/-- A partial of a command on array `a` that makes room for part `p` of a tile: the first that lies there and is not that part's. -/
def spillable (y : Cmd) (a tile p : Nat) : Option (Nat × Nat) :=
  (y.partials.find? fun e => e.2.2.1 == a && e.2.2.2.2 < 256 && !(e.1 == tile && e.2.1 == p)).map fun e => (e.1, e.2.1)

/-- Make a slot of an array FREE for part `p` of a tile, if only partials of the same command stand in its way. -/
def makeRoom (s : State) (x : At) (c q : Nat) (idx : Word) (a tile p : Nat) : State :=
  if (s.freeSlot a).isSome then s
  else
    match (s.cmd c q idx).bind fun y => spillable y a tile p with
    | some e => s.spillPart x c q idx e.1 e.2
    | none => s

/-- A command ends with a code before all its array instructions have run: they leave the arrays. -/
def failCmd (s : State) (c q : Nat) (idx : Word) (st : Status) (d : Option Nat) : State :=
  let s1 := s.unbind c q idx
  match d with
  | some n => if st = .retryLater then s1.answerFenced c q idx n else s1.answer c q idx st
  | none => s1.answer c q idx st

/-- The code that the state of its channel gives an instruction that is to drain into it (R24), with the fenced domain. -/
def issueStatus (s : State) (x : At) (ins : ArrInstr) : Option (Status × Option Nat) :=
  if drainsNow ins then
    match s.opd x 34 [2] with
    | some d =>
      match s.chanOf d.handle with
      | some i => s.chanStatus i true
      | none => some (.handleStale, none)
    | none => none
  else none

/-- The reasons for which the instruction at the head of an array waits under R78: an operand that is not there, no slot or drain
space. -/
def headWaits (s : State) (x : At) (a : Nat) (ins : ArrInstr) : Bool × Bool × Bool :=
  let st := s.stationary x a ins
  (st.isNone, !s.streamReady x, (s.issueSlot a ins).isNone ||
    (drainsNow ins && !(s.cmd ins.ctx ins.q ins.idx).any fun y => s.drainSpace x a (st.getD 0) y))

/-- The instruction at the head of an array waits (R78): the reasons are noted, and a wait for a channel begins. -/
def waitHead (s : State) (x : At) (a : Nat) (ins : ArrInstr) : State :=
  let w := s.headWaits x a ins
  let y := s.arr a
  let held := fun (i : Nat) => (s.cmd ins.ctx ins.q ins.idx).any fun m => (s.reserved i m).isSome || s.canFill i
  let next := { ins with waitOp := ins.waitOp || w.1 || w.2.1, waitSpace := ins.waitSpace || w.2.2 }
  let s1 := s.setArr a { y with bound := y.bound.map fun b => if b = ins then next else b }
  match s.drainChan x with
  | some i => if drainsNow ins && !(s.chanActs i true && held i) then s1.chanWait ins.ctx ins.q ins.idx i else s1
  | none => s1

/-- The wait of an instruction that issues counts (`ARR_QCNT`); a wait for a channel ends. -/
def waitedHead (s : State) (x : At) (a : Nat) (ins : ArrInstr) : State :=
  let s1 := s.countWaits (a / 128) ins.waitOp ins.waitSpace
  match s.drainChan x with
  | some i => if drainsNow ins then s1.chanWaited ins.ctx ins.q ins.idx i true else s1
  | none => s1

/-- The instruction at the head of an array issues when everything it uses is present at once (R78); its stationary rows are
loaded before, if a half is free. None issues on the hold-up store (Table 14-2, step 2). -/
def issueHead (s0 : State) (a : Nat) : State :=
  match (s0.arr a).bound with
  | [] => s0
  | ins :: _ =>
    match s0.atOf ins.ctx ins.q ins.idx with
    | none => s0
    | some x =>
      if (s0.arr a).retired || s0.pwr.onHoldup || !s0.isOpen (quadDomain (a / 128)) || (s0.ctx ins.ctx).state != .running ||
          ((s0.cmd ins.ctx ins.q ins.idx).bind (·.result)).isSome then s0
      else
        match s0.issueStatus x ins with
        | some r => s0.failCmd ins.ctx ins.q ins.idx r.1 r.2
        | none =>
          let s1 := if ins.parts > 1 ∧ ins.first = true then s0.makeRoom x ins.ctx ins.q ins.idx a ins.tile ins.part else s0
          let s := s1.loadNext x a ins
          match s.stationary x a ins, s.issueSlot a ins, s.cmd ins.ctx ins.q ins.idx with
          | some half, some k, some y =>
            if s.streamReady x && (!drainsNow ins || s.drainSpace x a half y) then
              let s2 := s.waitedHead x a ins
              (if drainsNow ins then s2.reserveSpace x a half ins y else s2).runChunk x a k half ins
            else s.waitHead x a ins
          | _, _, _ => s.waitHead x a ins

/-- Whether the instruction at the head of an array can issue now: nothing that another engine owes it is missing (R78, R91). -/
def issuable (s0 : State) (a : Nat) : Bool :=
  match (s0.arr a).bound with
  | [] => false
  | ins :: _ =>
    match s0.atOf ins.ctx ins.q ins.idx with
    | none => false
    | some x =>
      let w := (s0.loadNext x a ins).headWaits x a ins
      (s0.ctx ins.ctx).state == .running && !s0.pwr.onHoldup && !w.1 && !w.2.1 && !w.2.2

/-! ### Drains (R81, R90) -/

/-- The rounding of a matrix command's drain: nearest-even into a Sorus slot, whatever the command asks (R29). -/
def drainRnd (s : State) (x : At) (tx2 : Bool) (out : Nat) : Rnd :=
  if (s.opd x 34 [2]).isSome then .nearest else rndOf (x.b 8) (matForm x).rmode tx2 out

/-- The values of row `i` of a tile, converted for the drain: their encodings and their values (R104, R126). -/
def drainRow (s : State) (x : At) (d : Draw) (a : Nat) (t : Drain) (i : Nat) : List (Nat × Nat × Nat × Num) :=
  let f := matForm x
  (List.range (tileCols x)).filterMap fun n =>
    match s.tilePlace x t.tile i n with
    | some (r, col) =>
      let ord := match s.opd x 16 [0, 1], s.opd x 25 [0] with
        | some oa, some ob => tileOrd oa.rows ob.cols t.tile i n
        | _, _ => 0
      let v := convertTo f.fd (s.drainRnd x d.tx2 (d.out r col ord)) f.sat f.eadj d.tx2 (s.slotValue a t.slot i n)
      some (r, col, v.1, v.2)
    | none => none

/-- The destination of a drain: a memory operand, or the half or the slot reserved for it (R81). Where nothing was reserved, as for
a tile restored from an image, a half is the array's free one and a slot the one that a producing command fills (R30). -/
def drainDest (s : State) (x : At) (a : Nat) (t : Drain) (y : Cmd) : Option (Dest × State) :=
  match s.opd x 34 [0, 1, 2] with
  | some d =>
    if d.kind = 0 then some (.mem d, s)
    else if d.kind = 1 then
      (t.half.orElse fun _ => s.freeHalf a).map fun h => (.store a h, s.setHalf a h { loaded := true, owner := x.c, load := none })
    else
      match s.chanOf d.handle with
      | some i =>
        let bytes := ((tget s.channels i).map (·.tokenBytes)).getD 0
        if s.chanActs i true then
          match s.reserved i y with
          | some k => some (.slot i k d.addr bytes, s)
          | none =>
            if s.canFill i then
              let r := s.fillSlot i
              some (.slot i r.1 d.addr bytes, r.2)
            else none
        else none
      | none => none
  | none => none

/-- Runs of elements at consecutive columns of one row. -/
def rowRuns (l : List (Nat × Nat × Nat × Num)) : List (Nat × Nat × List Nat) :=
  l.foldl (fun acc e =>
    match acc.getLast? with
    | some (r, c0, vs) => if r = e.1 ∧ c0 + vs.length = e.2.1 then acc.dropLast ++ [(r, c0, vs ++ [e.2.2.1])]
        else acc ++ [(e.1, e.2.1, [e.2.2.1])]
    | none => [(e.1, e.2.1, [e.2.2.1])]) []

/-- The domain that answers a drain's writes with RETRY_LATER, if one does: that of its destination. -/
def drainFenced (s : State) (x : At) (a : Nat) : Option Nat :=
  match s.opd x 34 [0, 1, 2] with
  | some d =>
    if d.kind = 0 then s.accessFenced (arrDie a) d.addr (d.span (matForm x).fd)
    else if d.kind = 2 then
      match s.chanOf d.handle with
      | some i => (tget s.channels i).bind fun ch =>
          if s.isOpen (sramDomain ch.placement) then none else some (sramDomain ch.placement)
      | none => none
    else none
  | none => none

/-- A drain that another drain's slot change leaves behind. -/
def dropDrain (s : State) (a : Nat) (t : Drain) (f : AccSlot → AccSlot) : State :=
  let y := s.arr a
  s.setArr a { y with drains := y.drains.filter fun d => d != t, slots := lmod y.slots t.slot f }

/-- The tiles of a command that its drains have not written return to HELD (R90): the command has been answered with DOMAIN_RESET,
and its reissue frees them. -/
def heldDrains (s : State) (c q : Nat) (idx : Word) : State :=
  let ds := s.arrays.flatMap fun p => (p.2.drains.filter fun t => t.ctx == c && t.q == q && t.idx == idx).map fun t => (p.1, t)
  ds.foldl (fun (s : State) d =>
    ((s.dropDrain d.1 d.2 fun sl => { sl with state := .held }).noteLast d.1 .domainReset d.2.own).modCmd c q idx fun y => { y with
      partials := y.partials ++ [(d.2.tile, 0, d.1, d.2.slot, 256)] }) s

/-- A command's code that a drain's answer gives it. With DOMAIN_RESET the slot returns to HELD until the command is reissued
(R90): it is noted among the command's partials, at a level that no combine reaches, and the reissue frees it. With another code
the command's array instructions leave the arrays. -/
def drainFails (s : State) (a : Nat) (t : Drain) (st : Status) : State :=
  if st = .domainReset then
    let s1 := (s.dropDrain a t fun sl => { sl with state := .held }).noteLast a st t.own
    (s1.modCmd t.ctx t.q t.idx fun y => { y with partials := y.partials ++ [(t.tile, 0, a, t.slot, 256)] }).answer t.ctx t.q t.idx st
  else s.failCmd t.ctx t.q t.idx st none

/-- A drain that waited for a credit goes on: its wait counts for the teacher (`SOR_CH_WAIT`). -/
def drainWaited (s : State) (x : At) (t : Drain) : State :=
  match (s.opd x 34 [2]).bind fun d => s.chanOf d.handle with
  | some i => s.chanWaited t.ctx t.q t.idx i true
  | none => s

/-- A partial drains as P48 to the scratchpad of its receiver's base die; it waits while that is fenced (R90, R110). -/
def drainPartial (s : State) (x : At) (a : Nat) (t : Drain) (p : Nat) : State :=
  if s.isOpen (sramDomain (arrDie (s.receiver x t.ctx t.q t.tile p))) then
    ((s.dropDrain a t id).spillPart x t.ctx t.q t.idx t.tile p).noteLast a .ok t.own
  else
    let y := s.arr a
    s.setArr a { y with drains := y.drains.map fun d => if d = t then { d with waiting := true } else d }

/-- The tile at the head of the edge column drains; it waits while its destination is fenced or migrates (R81, R90, Table 1-10). A
command that has its code drains no further tile. -/
def drainHead (s : State) (a : Nat) : State :=
  let y := s.arr a
  match y.drains with
  | [] => s
  | t :: _ =>
    match s.atOf t.ctx t.q t.idx, s.cmd t.ctx t.q t.idx with
    | some x, some cm =>
      if cm.result.isSome then s else
      let wait := s.setArr a { y with drains := y.drains.map fun d => if d = t then { d with waiting := true } else d }
      match t.part, s.drainFenced x a with
      | some p, _ => s.drainPartial x a t p
      | none, some _ => wait
      | none, none =>
        match s.drainDest x a t cm with
        | none =>
          match s.opd x 34 [2] with
          | some d =>
            match s.chanOf d.handle with
            | some i =>
              match s.chanStatus i true with
              | some (st, _) => s.drainFails a t st
              | none => (if s.chanActs i true then s else wait).chanWait t.ctx t.q t.idx i
            | none => s.drainFails a t .handleStale
          | none => s
        | some (dst, s1) =>
          let d := s.drawOf x cm (matForm x).rform (matForm x).tensor 52 (s.matCols x) (arrDie a)
          let rows := (List.range 16).map fun i => (i, s.drainRow x d a t i)
          let put := fun (s : State) (cols r c0 : Nat) (vs : List Nat) =>
            s.putDest t.ctx t.q t.idx (s.ctx t.ctx).ptn (arrDie a) dst (matForm x).fd cols r c0 vs
          let s2 := rows.foldl (fun (s : State) p =>
            match dst with
            | .store _ _ => put s (s.waveCols x t.tile) p.1 0 (p.2.map (·.2.2.1))
            | _ => (rowRuns p.2).foldl (fun (s : State) r => put s (s.matCols x) r.1 r.2.1 r.2.2) s) (s1.drainWaited x t)
          let vals := rows.flatMap fun p => p.2.map (·.2.2.2)
          let tag := (y.slots.getD t.slot AccSlot.reset).tag
          ((s2.dropDrain a t fun _ => AccSlot.reset).noteLast a t.status t.own).tileDone t.ctx t.q t.idx x a t.tile tag t.retries
            (vals.any fun v => !v.isFinite) t.ovf
            (if x.b 8 then maxExpOf vals else -128)
    | _, _ => s

/-- The drains of a context's arrays run to their end, but those that wait for a fenced destination (R87, R90). -/
def finishDrains (s : State) (c : Nat) : State :=
  ((members (s.ctx c).quads 32).flatMap fun k => (List.range 128).map fun a => 128 * k + a).foldl (fun (s : State) a =>
    (s.arr a).drains.foldl (fun (s : State) _ => s.drainHead a) s) s

/-- Whether the edge column of every array of a context is idle, or held up by a drain that waits under R90 and by what stands behind
it, so that the arrays may be saved as they stand (R86, R87). -/
def drainsWait (s : State) (c : Nat) : Bool :=
  (members (s.ctx c).quads 32).all fun k => (List.range 128).all fun a =>
    (s.arr (128 * k + a)).drains.head?.all fun t => t.ctx != c || t.waiting

/-! ### Combines (R109 to R111) -/

/-- The partial of a receiving part stands in a slot of the array the part was dealt to: one that was drained is streamed back
into a FREE slot. -/
def backInSlot (s : State) (x : At) (c q : Nat) (idx : Word) (tile p : Nat) : State :=
  match s.cmd c q idx with
  | none => s
  | some y =>
    let cols := tileCols x
    match s.partialOf y cols tile p with
    | some r =>
      if r.place.isSome then s
      else
        let a := (dealt (s.cmdArrays c q) (tile * (matForm x).split + p)).1
        let s1 := s.makeRoom x c q idx a tile p
        match s1.freeSlot a with
        | some k =>
          let s2 := (s1.writeTile a k cols r.elem).dropPartial c q idx tile p
          let z := s2.arr a
          (s2.setArr a { z with slots := z.slots.set k { state := .held, owner := c, tag := r.tag } }).modCmd c q idx
            fun w => { w with partials := w.partials ++ [(tile, p, a, k, r.level)] }
        | none => s1
    | none => s

/-- Part 0 holds the tile in slot `k` of array `a`: it goes to the edge column (R109). A row-store destination is the half that was
reserved when its last chunk issued, or the array's free one. `own` are the retries of its last combine. -/
def drainPart (s : State) (x : At) (c q : Nat) (idx : Word) (tile a k own : Nat) : State :=
  let notes := ((s.cmd c q idx).map fun w => tileNotes w tile).getD (0, false)
  let z := s.arr a
  let kept := [0, 1].find? fun h => ((z.halves.getD h Half2.reset).load).any fun l =>
    l.ctx == c && l.q == q && l.idx == idx && l.tile == tile && l.part == 0 && l.lo == s.tileChunks x / (matForm x).split
  (s.setArr a { z with
    slots := lmod z.slots k fun sl => { sl with state := .draining },
    drains := z.drains ++ [{
      ctx := c, q := q, idx := idx, tile := tile, slot := k, part := none, retries := notes.1, own := own,
      half := if (s.opd x 34 [1]).isSome then kept.or (s.freeHalf a) else none,
      status := if notes.2 then .accOverflow else .ok, ovf := notes.2, waiting := false }] }).modCmd c q idx
    fun w => { w with partials := w.partials.filter fun e => !(e.1 == tile && e.2.1 == 0) }

/-- Part `p` of a tile, in slot `k` of array `a`, receives the partial `r` of part `u` (R109 to R111). -/
def combine (s : State) (x : At) (c q : Nat) (idx : Word) (tile p u a k level : Nat) (r : Partial) : State :=
  let cols := tileCols x
  let tx2 := (s.ctx c).tx2
  let sum := combineRun tx2 ((s.arr a).slots.getD k AccSlot.reset).tag r.tag cols (s.slotElem a k) r.elem
  let s1 := (s.writeTile a k cols fun i j => (sum.rows.getD i []).getD j Num.zero).noteRun a sum 0
  let z := s1.arr a
  let s2 := (s1.setArr a { z with slots := lmod z.slots k fun sl => { sl with tag := sum.tag } }).dropPartial c q idx tile u
  let s3 := s2.modCmd c q idx fun w => { w with
    partials := (w.partials.filter fun e => !(e.1 == tile && e.2.1 == p)) ++ [(tile, p, a, k, level + 1)],
    combined := if sum.ovf || sum.retries > 0 then w.combined ++ [(tile, p, sum.retries, b2n sum.ovf)] else w.combined }
  if p = 0 ∧ (combinePartner tx2 0 (matForm x).split (level + 1)).isNone = true then s3.drainPart x c q idx tile a k sum.retries
  else s3.sendPartial x c q idx tile p a k (level + 1) sum.retries

/-- Part `p` of a tile receives the partial of its next partner, when both are final: one on the same array from its slot, one from
elsewhere from the scratchpad of the receiver's base die, to which it has drained. The edge column of the receiver's array has ended
the drains issued before (R86, R109, R110). -/
def combineStep (s0 : State) (c q : Nat) (idx : Word) (tile p : Nat) : State :=
  match s0.cmd c q idx with
  | none => s0
  | some y0 =>
    let x := atCmd c q y0
    let tx2 := (s0.ctx c).tx2
    let n := (matForm x).split
    let cols := tileCols x
    match s0.partialOf y0 cols tile p with
    | none => s0
    | some r0 =>
      match (combinePartner tx2 p n r0.level).bind fun u => (s0.partialOf y0 cols tile u).map fun r => (u, r) with
      | none => s0
      | some (u, ru) =>
        let here := (dealt (s0.cmdArrays c q) (tile * n + p)).1
        let busy := fun (r : Partial) => r.place.any fun e => !(s0.arr e.1).drains.isEmpty
        let there := match ru.place with
          | some e => e.1 == here
          | none => s0.isOpen (sramDomain (arrDie here))
        if y0.result.isSome || (s0.ctx c).state != .running || (combinePartner tx2 u n ru.level).isSome || busy r0 || busy ru ||
            !there || (r0.place.any fun e => !s0.isOpen (quadDomain (e.1 / 128))) then s0
        else
          let s := s0.backInSlot x c q idx tile p
          match (s.cmd c q idx).bind fun y => (s.partialOf y cols tile p).bind fun r => (s.partialOf y cols tile u).map fun w => (r, w) with
          | some (r, w) =>
            match r.place with
            | some (a, k) => if s.isOpen (quadDomain (a / 128)) then s.combine x c q idx tile p u a k r.level w else s
            | none => s
          | none => s

/-! ### Errors (R92) -/

/-- The source selectors of an element-wise, reduce or top-K command, with the field of its parameter descriptor. -/
def edgeSources (x : At) : List Nat × Nat :=
  match x.f 5 0 with
  | 3 => ([x.f 30 21, x.f 40 31, x.f 50 41], 61)
  | 4 => ([x.f 28 19], 56)
  | 5 => ([x.f 31 22], 59)
  | 6 => ([x.f 25 16], 55)
  | _ => ([], 0)

/-- Whether an element-wise, reduce or top-K command reads a place of an array: a slot of one of its tiles there, or the half its
context filled (R92). -/
def edgeReads (s : State) (x : At) (a : Nat) (place : EccPlace) : Bool :=
  let v := edgeSources x
  match s.param x (x.d v.2) with
  | some p =>
    let as := s.cmdArrays x.c x.q
    let mine := (List.range (tileCount p.rows p.cols)).filter fun t => (dealt as t).1 == a
    v.1.any fun sel =>
      match place, selOf sel with
      | .slot k, .slot b _ => mine.any fun t => (b + (dealt as t).2) % 4 == k
      | .half h, .rowStore => !mine.isEmpty && s.loadedHalf a x.c == some h
      | .half h, .desc i => !mine.isEmpty && (s.desc x i [1]).isSome && s.loadedHalf a x.c == some h
      | _, _ => false
  | none => false

/-- The outstanding element-wise, reduce or top-K command that reads a place of an array, if one does. -/
def edgeReader (s : State) (a : Nat) (place : EccPlace) : Option (Nat × Nat × Word) :=
  match (s.quad (a / 128)).holder with
  | some c => (List.range 4).findSome? fun q => ((s.queue c q).cmds.find? fun y =>
      y.result.isNone && s.edgeReads (atCmd c q y) a place).map fun y => (c, q, y.index)
  | none => none

/-- The outstanding command that reads a granule of a partition's share of a base die's scratchpad, if one does. -/
def scratchReader (s : State) (ptn die granule : Nat) : Option (Nat × Nat × Word) :=
  s.contexts.findSome? fun p =>
    let c := p.1
    if p.2.state = .running ∧ p.2.ptn = ptn then
      (List.range 4).findSome? fun q => ((s.queue c q).cmds.find? fun y =>
        y.result.isNone && (s.spans (atCmd c q y)).any fun z =>
          !z.write && match parseAddr z.addr with
          | .scr l n off => (n == die || (l && bitAt (s.localDies (atCmd c q y)) die)) && off < 65536 * (granule + 1) &&
              65536 * granule < off + z.len
          | _ => false).map fun y => (c, q, y.index)
    else none

/-- The instruction of an array that reads a place, with the command it belongs to: the one at the head of the array for a
half or its slot, the drain of a slot, or an element-wise, reduce or top-K command; for the scratchpad of the array's base die
the command that streams from there (R194). -/
def eccReader (s : State) (a : Nat) (place : EccPlace) : Option (Nat × Nat × Word) :=
  let y := s.arr a
  let head := y.bound.head?.bind fun ins => (s.atOf ins.ctx ins.q ins.idx).map fun x => (ins, x)
  match place with
  | .half h =>
    match head with
    | some (ins, x) => if s.stationary x a ins = some h then some (ins.ctx, ins.q, ins.idx) else s.edgeReader a place
    | none => s.edgeReader a place
  | .slot k =>
    match y.drains.find? fun t => t.slot == k with
    | some t => some (t.ctx, t.q, t.idx)
    | none =>
      match head with
      | some (ins, _) => if ins.slot = some k ∧ ((y.slots.getD k AccSlot.reset).state != .free) = true ∧
            (ins.first = false ∨ ins.add = true) then some (ins.ctx, ins.q, ins.idx) else s.edgeReader a place
      | none => s.edgeReader a place
  | .scratch p g => s.scratchReader p (arrDie a) g

/-- An array is retired: it takes no instructions from now on (R93). -/
def retireArray (s : State) (a : Nat) : State :=
  let y := s.arr a
  if y.retired then s else (s.setArr a { y with retired := true }).raiseEv (evArr (a / 128)) 4

/-- An uncorrectable error of an array is counted and reported (R92). -/
def countArrayUe (s : State) (a : Nat) : State :=
  let k := a / 128
  let y := s.arr a
  let z := s.quad k
  ((s.setArr a { y with ueFlag := true, ueCount := y.ueCount + 1 }).setQuad k { z with ue := satAdd 16 z.ue 1 }).raiseEv (evArr k) 3

/-- An array meets an ECC error (R92): it is counted and reported; an uncorrectable one in data that an instruction reads
gives its command CONTEXT_FAULT. -/
def arrayEcc (s : State) (a : Nat) (place : EccPlace) (corrected : Bool) : State :=
  let k := a / 128
  let y := s.arr a
  let z := s.quad k
  if corrected then
    ((s.setArr a { y with ceFlag := true }).setQuad k { z with ce := satAdd 32 z.ce 1 }).raiseEv (evArr k) 2
  else
    let s1 := s.countArrayUe a
    match s.eccReader a place with
    | some (c, q, idx) => ((s1.noteLast a .contextFault 0).answer c q idx .contextFault).faultContext 2 c
    | none => s1

end State

/-- A matrix command begins. One that drains into a channel is a producing command: it starts no partial work before its channel has
a slot to fill (R24, R30). -/
def State.startMatrix (s : State) (c q : Nat) (idx : Word) (x : At) : State :=
  match s.opd x 34 [2] with
  | some d =>
    match s.chanOf d.handle with
    | some i => s.withChan c q idx i true (s.canFill i) fun s => s.bindMatrix c q idx x
    | none => s.answer c q idx .handleStale
  | none => s.bindMatrix c q idx x

/-- MATMUL (R165): the command begins; its tiles and parts are dealt to the queue's arrays (R83, R107, R108). -/
def execMatmul (ctx q : Nat) (idx : Word) (s : State) : Host.Outcome State Fault Refusal :=
  act s fun s => s.unitStart 1 ctx q idx (s.queueDomains ctx q) fun s _ x => s.startMatrix ctx q idx x

/-- CONVROW (R166): the command begins; its bands and channel groups are dealt to the queue's arrays. -/
def execConvrow (ctx q : Nat) (idx : Word) (s : State) : Host.Outcome State Fault Refusal :=
  act s fun s => s.unitStart 2 ctx q idx (s.queueDomains ctx q) fun s _ x => s.startMatrix ctx q idx x

/-- ARRAY_ISSUE (R78): the next chunk of the instruction at the head of an array runs to its end. -/
def execArrayIssue (arr : Nat) (s : State) : Host.Outcome State Fault Refusal :=
  act s fun s => s.issueHead arr

/-- ARRAY_DRAIN_END (R81): the tile at the head of the edge column is converted and written. -/
def execArrayDrainEnd (arr : Nat) (s : State) : Host.Outcome State Fault Refusal :=
  act s fun s => s.drainHead arr

/-- COMBINE (R109): a part receives the partial of its partner. -/
def execCombine (ctx q : Nat) (idx : Word) (tile part : Nat) (s : State) : Host.Outcome State Fault Refusal :=
  act s fun s => s.combineStep ctx q idx tile part

end Sys2Proof.Machine
end

