-- ==== Sys2Proof/Machine/Report.lean ====
section
/-! DEFINITION. Attestation reports (R402, R404, Table 16-7): what a module signs, and how a verifier checks one. -/

namespace Sys2Proof.Machine

/-- IDENT of a report: the first 16 bytes of SHA-384 over PUBKEY (R402). -/
def reportIdent (l : List Byte) : List Byte := (sha384 (slice l 0x70 96)).take 16

/-- Whether a report has the layout of Table 16-7, carries a nonce, and is signed by the key it names. -/
def reportGood (l nonce : List Byte) : Bool :=
  l.length == 976 && le l 0 4 == 1 && le l 4 4 == 976 && slice l 0x40 48 == nonce &&
  Config.ecdsaVerifies (slice l 0x70 96) (sha384Nat (slice l 0 0x370)) (slice l 0x370 96)

/-- `GLB_CAP0` (R418): groups, quadrants, stacks, arrays of a quadrant. -/
def cap0 (v : Variant) : Nat :=
  maskOf ((List.range 8).filter v.group) + 2 ^ 8 * maskOf ((List.range 32).filter v.quad) +
  2 ^ 40 * maskOf ((List.range 16).filter v.stack) + 2 ^ 56 * 128

/-- `GLB_CAP1` (R418). -/
def cap1 (v : Variant) : Nat :=
  maskOf ((List.range 2).filter v.media) + 4 * b2n v.serving + 8 * b2n v.serving + 16 + 32 +
  2 ^ 8 * ((List.range 24).filter v.engine).length + 2 ^ 16 * 255 + 2 ^ 24 * (4 * v.groups) + 2 ^ 32 * 512 +
  2 ^ 48 * maskOf ((List.range 13).filter v.core)

namespace State

/-- This module's identity public key (R400). -/
def ownKey (s : State) : List Byte := slice (Config.publicKey s.boot.identKey) 0 96

/-- A report is good and its BOOTS is not below the last one accepted from its SERIAL (R404). -/
def reportAccepted (s : State) (l nonce : List Byte) : Bool :=
  reportGood l nonce && decide (tgetD s.boot.accepted (le l 8 8) 0 ≤ le l 0x2C 4)

/-- BOOTS of an accepted report is remembered for its SERIAL. -/
def acceptReport (s : State) (l : List Byte) : State :=
  { s with boot := { s.boot with accepted := tput s.boot.accepted (le l 8 8) (le l 0x2C 4) } }

/-- The bytes of a report that its signature covers (Table 16-7). -/
def reportBody (s : State) (nonce : List Byte) : List Byte :=
  let b := s.boot
  leBytes 4 1 ++ leBytes 4 976 ++ leBytes 8 b.serial.toNat ++ leBytes 8 (cap0 s.variant) ++ leBytes 8 (cap1 s.variant) ++
  leBytes 4 b.feed ++ leBytes 1 b.svnCount ++ leBytes 1 b.svn ++ leBytes 1 (b2n b.slotB) ++
  leBytes 1 (b2n b.fallback + 2 * b2n (b.upd != .idle) + 4 * b2n (!b.locked)) ++ leBytes 4 b.sequence ++ leBytes 4 b.boots ++
  leBytes 8 s.supTime.toNat ++ zeros 8 ++ slice nonce 0 48 ++ s.ownKey ++ leBytes 48 b.manifestDigest ++
  (List.range 13).flatMap fun c => leBytes 48 (if s.variant.core c then (s.core c).current else 0)

/-- A signature of the security block, the next free value of the run. -/
def signed (s : State) (l : List Byte) : List Byte × State :=
  (slice (Config.sign s.boot.identKey (sha384Nat l) s.free) 0 96, { s with free := s.free + 1 })

/-- This module's report with a nonce. -/
def ownReport (s : State) (nonce : List Byte) : List Byte × State :=
  let l := s.reportBody nonce
  let r := s.signed l
  (l ++ r.1, r.2)

end State

end Sys2Proof.Machine
end

