-- ==== Sys2Proof/Machine/Manifest.lean ====
section
/-! DEFINITION. Manifests (R392 to R395): the format that a boot slot and an update bundle share, and what makes one valid. -/

namespace Sys2Proof.Machine

/-- One record: its TYPE, RVERSION, whether it is CRITICAL, its value (R393). -/
structure MRecord where
  ty : Nat
  version : Nat
  critical : Bool
  value : List Byte
  deriving DecidableEq, Repr

/-- A FIRMWARE record (Table 16-2). -/
structure Firmware where
  core : Nat
  proto : Nat
  offset : Nat
  length : Nat
  digest : Nat
  deriving DecidableEq, Repr

/-- The records of a run of bytes; none where one does not fit. `fuel` bounds them. -/
def splitRecords : Nat → List Byte → Option (List MRecord)
  | 0, l => if l = [] then some [] else none
  | fuel + 1, l =>
    if l = [] then some []
    else
      let n := le l 4 4
      let whole := 8 + roundUp n 8
      if l.length < 8 ∨ l.length < 8 + n then none
      else (splitRecords fuel (l.drop whole)).map fun r =>
        { ty := le l 0 2, version := le l 2 1, critical := bitAt (le l 3 1) 0, value := slice l 8 n } :: r

/-- RECORDS_LEN of a manifest. -/
def recordsLen (m : List Byte) : Nat := le m 0x10 4

/-- Whether MAGIC, FORMAT and RECORDS_LEN are right. -/
def headerOk (m : List Byte) : Bool :=
  slice m 0 4 == [0x54, 0x58, 0x33, 0x4D] && le m 4 2 == 1 && recordsLen m % 8 == 0 && decide (recordsLen m ≤ 1048576 - 224)

/-- The header and the records: what the signature covers. -/
def signedPart (m : List Byte) : List Byte := slice m 0 (128 + recordsLen m)

/-- The records of a manifest. -/
def allRecords (m : List Byte) : Option (List MRecord) := splitRecords (recordsLen m / 8 + 1) (slice m 128 (recordsLen m))

/-- A record that this device knows: a TYPE of Table 16-2, at RVERSION 1 or lower. -/
def MRecord.known (r : MRecord) : Bool := decide (1 ≤ r.ty ∧ r.ty ≤ 11 ∧ r.version ≤ 1)

/-- The records that take effect. -/
def knownRecords (m : List Byte) : List MRecord := ((allRecords m).getD []).filter (·.known)

/-- The value of a record that appears at most once. -/
def recordValue (m : List Byte) (ty : Nat) : Option (List Byte) := ((knownRecords m).find? fun r => r.ty == ty).map (·.value)

/-- Whether a known record's value has the form of Table 16-2. -/
def MRecord.formed (r : MRecord) : Bool :=
  let n := r.value.length
  match r.ty with
  | 1 => n == 64 && decide (le r.value 0 1 ≤ 12) && decide (le r.value 8 4 ≤ 1048576)
  | 2 => n == 64 + 256 * le r.value 4 1
  | 3 => n == 56
  | 4 => decide (72 ≤ n) && n == 72 + 64 * le r.value 16 2
  | 5 => n == 8
  | 6 => n % 40 == 0 && decide (40 ≤ n ∧ n ≤ 320)
  | 7 => n == 24
  | 8 => n == 176
  | 9 => n % 2 == 0
  | 10 => n == 8
  | _ => n == 32

/-- Whether the records are well formed (R393, R394): none cut, no unknown critical one, JOB at most 16 times, other types but
FIRMWARE at most once, each value in its form. -/
def recordsOk (m : List Byte) : Bool :=
  match allRecords m with
  | none => false
  | some rs =>
    let ks := rs.filter (·.known)
    rs.all (fun r => r.known || !r.critical) && ks.all (·.formed) && decide ((ks.filter fun r => r.ty == 8).length ≤ 16) &&
    [2, 3, 4, 5, 6, 7, 9, 10, 11].all fun t => decide ((ks.filter fun r => r.ty == t).length ≤ 1)

/-- The records that a reader skips (R393). -/
def skippedRecords (m : List Byte) : Nat := (((allRecords m).getD []).filter fun r => !r.known).length

/-- The FIRMWARE records. -/
def firmwares (m : List Byte) : List Firmware :=
  ((knownRecords m).filter fun r => r.ty == 1).map fun r =>
    let v := r.value
    { core := le v 0 1, proto := le v 2 2, offset := le v 4 4, length := le v 8 4, digest := le v 16 48 }

/-- The FIRMWARE record of a core. -/
def firmwareOf (m : List Byte) (c : Nat) : Option Firmware := (firmwares m).find? fun f => f.core == c

/-- The entry of SELF in a ROSTER record carries the address that NETWORK gives. -/
def rosterAgrees (m : List Byte) : Bool :=
  match recordValue m 4 with
  | none => true
  | some v =>
    let self := le v 0 2
    let e := slice v (8 + 64 + 64 * self) 64
    match recordValue m 3 with
    | none => false
    | some n =>
      decide (self < le v 16 2) &&
      if bitAt (le e 3 1) 0 then slice e 0x10 16 == slice n 16 16 else slice e 0x10 4 == slice n 8 4

namespace State

/-- Why a manifest is refused (Table 16-3); 0 where it is valid (R395). `image` reads bytes beside the manifest, `size` is
the extent of slot or bundle, `fwMin` the lowest PROTO accepted, `roster` whether the roster test applies. -/
def refusedFor (s : State) (m : List Byte) (image : Nat → Nat → List Byte) (size fwMin : Nat) (roster : Bool) : Nat :=
  let k := le m 0x14 1
  let key := slice m 0x20 96
  if headerOk m = false then 1
  else if s.boot.rootHash[k]? ≠ some (sha384Nat key) ∨ bitAt s.boot.revoke k = true then 2
  else if Config.ecdsaVerifies key (sha384Nat (signedPart m)) (slice m (128 + recordsLen m) 96) = false then 3
  else if le m 0xC 4 < s.boot.svnCount then 4
  else if recordsOk m = false then 5
  else if ((List.range 13).filter s.variant.core).any fun c => ((firmwares m).filter fun f => f.core == c).length != 1 then 6
  else if (firmwares m).any fun f => decide (size < f.offset + f.length) || decide (f.proto < fwMin) then 5
  else if (firmwares m).any fun f => sha384Nat (image f.offset f.length) != f.digest then 8
  else if roster && !rosterAgrees m then 9
  else 0

/-- Bytes of a flash slot. -/
def slotBytes (s : State) (b : Bool) (off n : Nat) : List Byte := s.mem.readAll (flashKey (if b then 0x08000000 + off else off)) n

/-- The manifest of a slot: its header, records and signature. -/
def slotManifest (s : State) (b : Bool) : List Byte := s.slotBytes b 0 (224 + recordsLen (s.slotBytes b 0 128) % 1048577)

/-- FW_MIN of a manifest's POLICY record. -/
def manifestFwMin (m : List Byte) : Nat := ((recordValue m 10).map fun v => le v 2 2).getD 0

/-- Why a slot is refused (Table 16-3); a flash without valid parameter tables fails both (R390). -/
def slotReason (s : State) (b : Bool) : Nat :=
  if s.boot.flashTables then
    let m := s.slotManifest b
    s.refusedFor m (s.slotBytes b) 0x08000000 (manifestFwMin m) true
  else 7

/-- SEQUENCE of a slot whose header is a manifest's. -/
def slotSequence (s : State) (b : Bool) : Nat := if headerOk (s.slotManifest b) then le (s.slotManifest b) 8 4 else 0

end State

end Sys2Proof.Machine
end

