-- ==== Sys2Proof/Machine/Ethernet.lean ====
section
/-! DEFINITION. The Ethernet ports and queue pairs (R292 to R295). -/

namespace Sys2Proof.Machine

namespace State

/-- The local time of E0's edge controller. -/
def edgeTime (s : State) : DWord := (s.core 10).time

/-- The connections in use (R293): those with the other members, those of open streams with their servers, those of token rings at a
peer, and those of the mirror session; and others on which something has happened. -/
def connections (s : State) : List Nat :=
  let members := if s.net.state == .solo then [] else
    ((s.net.members.map (·.1)).filter (· != s.net.self)).flatMap fun m => [s.net.qpnBase + 2 * m, s.controlQp m]
  let servers := s.streams.flatMap fun p => (List.range p.2.servers).map fun n => ingestQp p.1 n
  let rings := (s.rings.filter fun p => p.2.peer).map fun p => ringQp p.1
  let mirror := if s.ckp.mirror == .none then [] else (List.range (s.ckp.connections)).map fun n => s.mirrorQp + n
  let l := members ++ servers ++ rings ++ mirror
  l ++ (s.net.qps.map (·.1)).filter fun q => !l.contains q

/-- A port enters a state; connections whose port changes resume from the oldest unacknowledged PSN (R295). -/
def portTo (s : State) (p state : Nat) : State :=
  let s1 := s.setPort p { s.port p with state := state }
  (s.connections.foldl (fun (t : State) q => if s.qpPort q = s1.qpPort q then t else t.sendNet (.resend q)) s1).releaseNet

/-- A port goes DOWN (R295). -/
def portDown (s : State) (p : Nat) : State := (s.portTo p 2).raiseEv evNet 5

/-- The connections of token rings that a port carries work again: rings that were lost recover (R287, R295). -/
def ringsBack (s : State) (p : Nat) : State :=
  let back := fun (k : Nat) (g : Ring) => g.lost && s.qpPort (ringQp k) == some p
  { s with
    rings := tmap (fun k g => if back k g then { g with lost := false } else g) s.rings
    net := { s.net with qps := s.net.qps.filter fun q => !(s.rings.any fun r => q.1 == ringQp r.1 && back r.1 r.2) } }

/-- A port finishes training (R295). A port out of service for a test stays out until the test ends. -/
def portUp (s : State) (p : Nat) : State := if (s.port p).state = 3 then s else (s.portTo p 0).ringsBack p

/-- A retransmission timeout (R292): go-back-N, seven times; then the connection fails. -/
def retryTimeout (s : State) (q : Nat) : State :=
  let x := s.qp q
  if x.failed then s
  else if 7 ≤ x.retries then s.setQp q { x with failed := true }
  else
    let s1 := (s.setQp q { x with retries := x.retries + 1 }).sendNet (.resend q)
    match s.qpPort q with
    | some p => s1.setPort p { s1.port p with retrans := satAdd 16 (s1.port p).retrans 1 }
    | none => s1

/-- Whether 50 µs of E0's local time have passed since a time. -/
def since50us (s : State) (t : Option DWord) : Bool :=
  match t with
  | some u => decide (50000 ≤ (s.edgeTime - u).toNat)
  | none => true

/-- A CE-marked packet arrives (R294). -/
def cePacket (s : State) (q : Nat) : State :=
  let x := s.qp q
  if s.since50us x.cnpTx then (s.setQp q { x with cnpTx := some s.edgeTime }).sendNet (.cnp q) else s

/-- A congestion notification arrives (R294). -/
def cnpArrives (s : State) (q : Nat) : State :=
  let x := s.qp q
  let s1 := if s.since50us x.cnpRx then s.setQp q { x with rateHalf := x.rateHalf + 1, cnpRx := some s.edgeTime } else s
  match s.qpPort q with
  | some p => s1.setPort p { s1.port p with cnp := satAdd 16 (s1.port p).cnp 1 }
  | none => s1

/-- 55 µs have passed without a notification (R294). -/
def rateUp (s : State) (q : Nat) : State :=
  let x := s.qp q
  let n := x.rateNum + 2 ^ x.rateHalf
  s.setQp q (if 64 * 2 ^ x.rateHalf ≤ n then { x with rateNum := 64, rateHalf := 0 } else { x with rateNum := n })

/-- A PFC frame arrives: its priority is paused, or with a pause time of 0 resumes and what waited there leaves (R292). -/
def pfcPause (s : State) (p prio quanta : Nat) : State :=
  (s.setPort p { s.port p with paused := setFld (s.port p).paused prio prio (b2n (quanta != 0)) }).releaseNet

/-- Something arrives on a connection: its count of retries without progress starts again (R292). -/
def heard (s : State) (q : Nat) : State :=
  { s with net := { s.net with qps := tmap (fun n x => if n = q ∧ x.failed = false then { x with retries := 0 } else x) s.net.qps } }

/-- Bulk data of a priority arrives on a connection. E0 may answer with a PFC frame where NET_PCP makes the priority PFC-controlled
(R292); when it does, the spec does not say: it is a free value (log entry 181). -/
def dataArrives (s : State) (q prio : Nat) : State :=
  let s1 := ({ s with free := s.free + 1 } : State).heard q
  match s.qpPort q with
  | some p =>
    if bitAt (fld s.net.pcp 23 16) prio && Config.freeValue 1 s.free == 1 then
      (s1.setPort p { s1.port p with pauseTx := satAdd 16 (s1.port p).pauseTx 1 }).sendNet (.pfc p prio)
    else s1
  | none => s1

end State

/-- CE_PACKET_RECEIVE (R294). -/
def execCePacketReceive (qp : Nat) (s : State) : Host.Outcome State Fault Refusal := act s fun s => s.cePacket qp

/-- CNP_RECEIVE (R294). -/
def execCnpReceive (qp : Nat) (s : State) : Host.Outcome State Fault Refusal := act s fun s => s.cnpArrives qp

/-- RATE_INCREASE_TIMER (R294). -/
def execRateIncreaseTimer (qp : Nat) (s : State) : Host.Outcome State Fault Refusal := act s fun s => s.rateUp qp

/-- PFC_PAUSE_RECEIVE (R292). -/
def execPfcPauseReceive (port prio quanta : Nat) (s : State) : Host.Outcome State Fault Refusal :=
  act s fun s => s.pfcPause port prio quanta

/-- PFC_PAUSE_EXPIRY (R292). -/
def execPfcPauseExpiry (port prio : Nat) (s : State) : Host.Outcome State Fault Refusal :=
  act s fun s => s.pfcPause port prio 0

/-- PORT_DOWN (R295). -/
def execPortDown (port : Nat) (s : State) : Host.Outcome State Fault Refusal := act s fun s => s.portDown port

/-- PORT_LINK_UP (R295). -/
def execPortLinkUp (port : Nat) (s : State) : Host.Outcome State Fault Refusal := act s fun s => s.portUp port

end Sys2Proof.Machine
end

