-- ==== Sys2Proof/Machine/Domains.lean ====
section
/-! DEFINITION. Domains switched on and off (R355, R357), and what belongs to each. -/

namespace Sys2Proof.Machine

/-- Supply of an operating point in mV (Table 2-8). -/
def opMillivolts (op : Nat) : Nat := [550, 650, 750, 850].getD op 750

/-- The fields of a transfer header (Table 2-3): class, source die, destination die, source domain, epoch, tag, beats. -/
def rzClass (h : DWord) : Nat := fld h.toNat 1 0
def rzSrcDie (h : DWord) : Nat := fld h.toNat 5 2
def rzDstDie (h : DWord) : Nat := fld h.toNat 9 6
def rzSrcDomain (h : DWord) : Nat := fld h.toNat 16 10
def rzEpoch (h : DWord) : Nat := fld h.toNat 32 17
def rzTag (h : DWord) : Nat := fld h.toNat 48 33
def rzBeats (h : DWord) : Nat := fld h.toNat 52 49

/-- The domains that are powered on before a domain, in that order (R357). -/
def powerDeps (d : Nat) : List Nat :=
  let shared := fun (g : Nat) => [7 * g + 6, 7 * g + 5, 7 * g + 4]
  if d < 56 then (if d % 7 < 4 then shared (d / 7) else [])
  else if d < 72 then shared ((d - 56) / 2)
  else []

/-- The control cores of a domain (Table 16-5). -/
def coresOf (d : Nat) : List Nat := (List.range 13).filter fun c => coreDomain c == d

namespace State

/-- The control cores of a domain restart from their current images, their counts at 0 (R63, R401). -/
def restartCores (s : State) (d : Nat) : State :=
  (coresOf d).foldl (fun (s : State) c =>
    let x := s.core c
    s.setCore c { x with time := 0, restarted := true, restarts := satAdd 16 x.restarts 1 }) s

/-- A domain leaves reset: a new epoch, its time at 0, its control cores restarted, a stack's controller out of
self-refresh (Table 13-3 step 5, R63). Requests that it made before are forgotten, so that no answer to one matches (R343). -/
def leaveReset (s0 : State) (d : Nat) : State :=
  let s : State := { s0 with delivered := s0.delivered.filter fun x =>
    !(rzClass x.transfer.header == 0 && rzSrcDomain x.transfer.header == d) }
  let x := s.dom d
  let s1 := (s.setDom d { x with
    epoch := x.epoch + 1, time := 0, restarted := true, lastRecord := if x.record = 0 then x.lastRecord else x.record }).restartCores d
  let s2 := if 56 ≤ d ∧ d < 72 then s1.setStack (d - 56) { s1.stack (d - 56) with state := .active }
    else if d < 56 ∧ d % 7 < 4 then
      let k := 4 * (d / 7) + d % 7
      s1.setQuad k { s1.quad k with window := s.sel.rateWin }
    else s1
  if d = 78 then { s2 with plk := { s2.plk with supRestarted := true } } else s2

/-- The voltage of a domain's rail in service: the group's point, OP2 for media and edge dies, a free value where the spec
gives none (R355). -/
def railOf (s : State) (d : Nat) : Nat × State :=
  if d < 56 then (opMillivolts (s.group (d / 7)).op, s)
  else if 72 ≤ d ∧ d < 78 then (opMillivolts 2, s)
  else s.fresh 10

/-- Whether the dies are in maintenance (R56): service mode, a FAILED boot, or a module on its hold-up store. -/
def maintenance (s : State) : Bool := s.boot.serviceMode || s.boot.state == 4 || s.pwr.onHoldup

/-- Whether a media die has work (R56): an ingest stream is open, or a procedure targets one of its decode engines. -/
def mediaWork (s : State) (m : Nat) : Bool :=
  !s.streams.isEmpty || s.tests.any fun p => p.2.any fun x => x.running && x.targetType == 3 && x.target / 12 == m

/-- The voltage of a domain's rail now: a media or edge die runs at OP0 in maintenance, a media die also while it has no
work (R56); the ramp between the two is time. -/
def railNow (s : State) (d : Nat) : Nat :=
  if 72 ≤ d ∧ d < 78 ∧ (s.dom d).power = .on ∧ (s.maintenance = true ∨ (d < 76 ∧ s.mediaWork ((d - 72) / 2) = false)) then
    opMillivolts 0
  else (s.dom d).railMv

/-- A pseudo-channel is retired (R181). -/
def retirePc (s : State) (g : Nat) : State :=
  let x := s.stack (g / 32)
  if bitAt x.retired (g % 32) then s
  else (s.setStack (g / 32) { x with retired := x.retired ||| 2 ^ (g % 32) }).raiseEv (evHbm (g / 32)) 5

/-- A stack's PHY trains: a pseudo-channel that fails is retired (R181). -/
def trainStack (s : State) (k : Nat) : State :=
  let s1 := (((List.range 32).map (32 * k + ·)).filter fun g => Config.trainingFails g s.free).foldl (fun (s : State) g => s.retirePc g) s
  { s1 with free := s.free + 1 }

/-- A domain is being switched on: its rail ramps, a stack's PHY trains, the domain leaves reset and its epoch notice goes out. It opens,
and its power reads ON, once every die has acknowledged the notice (R357, Table 13-3 steps 5 and 6). -/
def powerStart (s : State) (d : Nat) : State :=
  if s.variant.domain d = false ∨ (s.dom d).power ≠ .off then s
  else
    let r := s.railOf d
    let s1 := r.2.leaveReset d
    let s2 := if 56 ≤ d ∧ d < 72 then s1.trainStack (d - 56) else s1
    let x := s2.dom d
    (s2.setDom d { x with
      power := .ramp, railMv := r.1, state := .resetting, ready := true, powering := true, epochAcks := [], record := 0,
      level := 0 }).sendCtl (.epoch d x.epoch)

/-- A domain is to be switched on after those it depends on (R357). -/
def switchOn (s : State) (d : Nat) : State := (powerDeps d ++ [d]).foldl (fun (s : State) e => s.powerStart e) s

/-- One domain is on at once, as the boot has it: its rail ramps, it leaves reset and opens (R357). The fence-clear notice goes out. -/
def powerUp (s : State) (d : Nat) : State :=
  if s.variant.domain d = false ∨ ((s.dom d).power = .on ∧ (s.dom d).state ≠ .off) then s
  else
    let r := s.railOf d
    let s1 := r.2.leaveReset d
    let x := s1.dom d
    ((s1.setDom d { x with power := .on, railMv := r.1, state := .opened, powering := false, record := 0, level := 0 }).sendCtl
      (.epoch d x.epoch)).sendCtl (.clear d)

/-- A domain is on at once, after those it depends on (R357). -/
def powerOn (s : State) (d : Nat) : State := (powerDeps d ++ [d]).foldl (fun (s : State) e => s.powerUp e) s

end State

end Sys2Proof.Machine
end

