-- ==== Sys2Proof/Machine/Hbm.lean ====
section
/-! DEFINITION. The HBM controllers, caches and copiers, and the arbiters (R179 to R190, R202 to R206, R254). -/

namespace Sys2Proof.Machine

/-- The requester that an arbiter grants next after grantee `last`: round-robin in ascending id (R202). -/
def roundRobin (last : Nat) (ids : List Nat) : Option Nat := ((ids.filter fun i => decide (last < i)).min?).or ids.min?

/-- Whether a waiting requester's count reaches its arbiter's threshold (R204). -/
def starvedNow (threshold before after : Nat) : Bool := decide (before < threshold ∧ threshold ≤ after)

namespace State

/-- The copier takes the next frame of a pseudo-channel at which a write waits (R189). -/
def cowNext (s : State) (pc : Nat) : State :=
  match s.ckp.held.find? fun h => h.frame / framesPerPc == pc with
  | some h => s.cowStart h.frame
  | none => s

/-- Whether a frame still belongs to a shard that the partner has not acknowledged, whose bytes its copy holds (R319). -/
def copyNeeded (s : State) (frame : Nat) : Bool :=
  s.ckptRuns && (match s.ckpPtn with
    | some p => s.ckp.shards.any fun x => !x.acked && x.region < 0xFFF0 && (s.framesOf p x.first x.pages).contains frame
    | none => false)

/-- The copier has copied a frame (Table 7-5, steps 3 to 5). A copy of a frame whose shard the partner has acknowledged meanwhile goes
back to its die's reserve list (R319). -/
def cowDone (s : State) (frame : Nat) : State :=
  match s.ckp.copying.find? fun c => c.1 == frame with
  | none => s
  | some (_, r) =>
    let s1 := { s with
      mem := s.mem.copy (hbmKey frame 0) (hbmKey r 0) 65536
      ckp := { s.ckp with
        copyMap := if s.copyNeeded frame then s.ckp.copyMap ++ [(frame, r)] else s.ckp.copyMap
        reserve := if s.copyNeeded frame || !s.ckptRuns then s.ckp.reserve
          else tput s.ckp.reserve (r / framesPerPc / 64) (tgetD s.ckp.reserve (r / framesPerPc / 64) [] ++ [r]) } }
    (((s1.setAttr frame (setFld (s1.attr frame) 2 2 0)).heldRelease fun f => f == frame).cowNext (frame / framesPerPc)).raiseEv
      (evHbm (frame / framesPerPc / 32)) 2

/-- Write the STATUS and PAGES_DONE of an attribute request (Table 7-4). -/
def attrAnswer (s : State) (a : Nat) (st : Status) (pages : Nat) : State :=
  (s.post (a + 0x18) (leBytes 1 st.code)).post (a + 0x1C) (leBytes 4 pages)

/-- An attribute request (R186, R188). A share list may also change while a domain is fenced, since it lies with the
partition; attributes lie beside the caches, which must be open. -/
def attrRequest (s : State) (a : Nat) : State :=
  if a % 32 ≠ 0 ∨ s.requestOk a 32 = false then s
  else
    let l := s.fwRead a 32
    let op := le l 8 1
    let bits := le l 9 1
    let first := le l 0x10 4
    let n := le l 0x14 4
    let p := s.ptnOf (le l 4 4)
    let pages := ((p.bind fun i => tget s.ptns i).map Partition.pages).getD 0
    let bad := 2 < op || le l 0xA 2 != 0 || le l 0x19 3 != 0 ||
      (if op = 2 then bits != 0 || first != 0 || n != 0
       else bits &&& 0b11011100 != 0 || le l 0xC 4 != 0 || n == 0 || pages < first + n)
    let fenced := op < 2 && p.any fun i => (List.range (Nat.min n (pages - first))).any fun v =>
      (s.pageFrame i (first + v)).any fun f => !s.isOpen (sramDomain (f / framesPerPc / 64))
    match p with
    | none => s.attrAnswer a (if le l 0 4 ≠ 1 then .versionUnsupported else .handleStale) 0
    | some i =>
      match firstStatus [(le l 0 4 != 1, .versionUnsupported), (fenced, .retryLater), (bad, .refusedInfeasible)] with
      | .ok =>
        if op = 2 then
          ({ s with ptns := tmod s.ptns i fun x => { x with shares := le l 0xC 4 } } : State).attrAnswer a .ok 0
        else
          ((List.range n).foldl (fun s v =>
            match s.pageFrame i (first + v) with
            | some f => s.setAttr f (if op = 0 then s.attr f ||| bits else s.attr f - (s.attr f &&& bits))
            | none => s) s).attrAnswer a .ok n
      | st => s.attrAnswer a st 0

/-- An uncorrectable error is counted; a pseudo-channel that reaches RETIRE_AT is retired (R181, R206). -/
def countUe (s : State) (pc : Nat) : State :=
  let k := pc / 32
  let x := s.stack k
  let u := (s.pc pc).ue + 1
  let s1 := (s.setPc pc { s.pc pc with ue := u }).setStack k { x with ue := satAdd 16 x.ue 1 }
  let s2 := s1.raiseEv (evHbm k) 1
  if x.retireAt ≠ 0 ∧ x.retireAt ≤ u then s2.retirePc pc else s2

/-- A corrected HBM error is only counted (R206, Table 7-1). -/
def countCe (s : State) (pc : Nat) : State :=
  let k := pc / 32
  (s.setStack k { s.stack k with ce := satAdd 32 (s.stack k).ce 1 }).raiseEv (evHbm k) 0

/-- An HBM error (R206): a corrected one is counted; an uncorrectable one poisons the frame, or, met by the copier, the reserve
frame, and the checkpoint fails (R320). -/
def hbmUe (s : State) (frame : Nat) (source : UeSource) : State :=
  let s1 := s.countUe (frame / framesPerPc)
  match source with
  | .corrected => s.countCe (frame / framesPerPc)
  | .copier =>
    match s.ckp.copying.find? fun c => c.1 == frame with
    | some (_, r) => (s1.setAttr r (s1.attr r ||| 64)).ckptEnd true
    | none => s1
  | .fill | .scrub => s1.setAttr frame (s1.attr frame ||| 64)

/-- Bits [33:10] of a local time, as the starvation records hold them. -/
def starveTime (t : DWord) : Nat := fld t.toNat 33 10

/-- The threshold of the Rhizome's arbiters (`PTN_ARB_CFG`). -/
def rzThreshold (s : State) : Nat := fld s.sel.ptnArbCfg 15 8

/-- An arbiter records a starved requester, unless it holds a record, and sets its event (R204, R254). -/
def starved (s : State) (site : Arbiter) (req holder : Nat) : State :=
  match site with
  | .hbm pc =>
    let k := pc / 32
    let x := s.stack k
    let v := pack [(0, pc % 32), (5, req % 32), (10, holder % 32), (15, 1), (40, starveTime (s.groupTime (k / 2)))]
    (if bitAt x.starve 15 then s else s.setStack k { x with starve := v }).raiseEv (evHbm k) 4
  | .dma e =>
    let v := pack [(0, e % 16), (4, req / 4 % 512), (13, req % 4), (15, 1), (16, holder / 4 % 512), (25, holder % 4),
      (40, starveTime (s.groupTime (e / 2)))]
    (if bitAt s.sel.dmaStarve 15 then s else { s with sel := { s.sel with dmaStarve := v } }).raiseEv evDma 0
  | .sorus n read =>
    let v := pack [(1, b2n read), (2, n % 32), (7, req % 64), (13, holder % 64), (19, 1), (40, starveTime (s.groupTime n))]
    (if bitAt s.sel.ptnStarve 19 then s else { s with sel := { s.sel with ptnStarve := v } }).raiseEv evPtn 5
  | .rz l high esc =>
    let v := pack [(0, 1), (1, b2n high), (2, l % 32), (7, req % 64), (13, holder % 64), (19, 1), (20, b2n esc),
      (40, starveTime (s.groupTime (linkEnds l).1))]
    (if bitAt s.sel.ptnStarve 19 then s else { s with sel := { s.sel with ptnStarve := v } }).raiseEv evPtn 6

/-- A threshold written below a count that has been reached: the requester starves now (R204). -/
def dmaThresholdTo (s : State) (v : Nat) : State :=
  (List.range 16).foldl (fun (s : State) e =>
    let y := s.dmaE e
    match y.waits.find? fun w => y.busy && decide (v ≤ w.2.2 ∧ w.2.2 < s.sel.dmaThreshold) with
    | some w => s.starved (.dma e) w.1 y.grants
    | none => s) s |> fun t => { t with sel := { t.sel with dmaThreshold := v } }

/-- The same of the links' arbiters, of detoured and other traffic in both directions. -/
def rzThresholdTo (s : State) (v : Nat) : State :=
  (List.range 22).foldl (fun (s : State) l => [(false, false), (false, true), (true, false), (true, true)].foldl
    (fun (s : State) p =>
      let k := s.rzLink l
      let d := if p.1 then k.high else k.low
      let a := if p.2 then d.escArb else d.arb
      match a.waits.find? fun w => decide (v ≤ w.2 ∧ w.2 < s.rzThreshold) with
      | some w => s.starved (.rz l p.1 p.2) w.1 (a.holder.getD 0)
      | none => s) s) s

end State

/-- COW_COPY_DONE (R189). -/
def execCowCopyDone (frame : Nat) (s : State) : Host.Outcome State Fault Refusal :=
  act s fun s => s.cowDone frame

/-- ATTR_REQUEST (R186). -/
def execAttrRequest (addr : Nat) (s : State) : Host.Outcome State Fault Refusal :=
  act s fun s => s.attrRequest addr

/-- HBM_ECC_UE (R206). The poisoned line lies in the frame, which carries the poison. -/
def execHbmEccUe (frame _line : Nat) (source : UeSource) (s : State) : Host.Outcome State Fault Refusal :=
  act s fun s => s.hbmUe frame source

/-- PC_POWER_DOWN (R179). -/
def execPcPowerDown (pc : Nat) (s : State) : Host.Outcome State Fault Refusal :=
  act s fun s => if s.variant.stack (pc / 32) then s.setPc pc { s.pc pc with powerDown := true, parity := false } else s

/-- ARB_STARVATION (R204). -/
def execArbStarvation (site : Arbiter) (requester holder : Nat) (s : State) : Host.Outcome State Fault Refusal :=
  act s fun s => s.starved site requester holder

end Sys2Proof.Machine
end

