-- ==== Sys2Proof/Machine/Links.lean ====
section
/-! DEFINITION. The Rhizome's links: buffers, arbiters, routes and detours (R48 to R52, R54, R55, R254). -/

namespace Sys2Proof.Machine

/-- The die at the receiving end of a direction: `high` is the direction from the higher die id. -/
def rzEnd (l : Nat) (high : Bool) : Nat := if high then (linkEnds l).1 else (linkEnds l).2

/-- Whether a link joins two base dies: it carries up to 8 beats, any other up to 4 (R48). -/
def groupLink (l : Nat) : Bool := l < 12

/-- Whether a transfer is well formed: 1 to 8 beats (4 off the group links), all there, reserved bits 0, dies and a domain named; a REQ
carries bit 0 of its domain's epoch in TAG[15] (R343). -/
def rzFormed (l : Nat) (x : RzTransfer) : Bool :=
  let n := rzBeats x.header
  decide (1 ≤ n ∧ n ≤ (if groupLink l then 8 else 4) ∧ x.payload.length = 64 * n ∧ rzSrcDomain x.header < 80 ∧
    rzSrcDie x.header < 12 ∧ rzDstDie x.header < 12) &&
  fld x.header.toNat 63 54 == 0 && (rzClass x.header != 0 || bitAt (rzTag x.header) 15 == bitAt (rzEpoch x.header) 0)

/-- The CRC-32 of a transfer, over its header and every payload beat (R49). -/
def rzCrc (x : RzTransfer) : Nat := crc32 (leBytes 8 x.header.toNat ++ x.payload)

/-- Whether a transfer is detoured traffic (R55). -/
def rzEsc (x : RzTransfer) : Bool := bitAt x.header.toNat 53

/-- The buffer set of a transfer: that of its class, a separate one for detoured traffic (R50, R55). -/
def rzSet (x : RzTransfer) : Nat := rzClass x.header + 4 * b2n (rzEsc x)

/-- Whether two transfers are of one class from one die to one die, so that they arrive in the order they were sent (R52). -/
def sameFlow (x y : RzTransfer) : Bool :=
  rzClass x.header == rzClass y.header && rzSrcDie x.header == rzSrcDie y.header && rzDstDie x.header == rzDstDie y.header

/-- A direction of a link changed. -/
def Link.dir (x : Link) (high : Bool) : LinkDir := if high then x.high else x.low
def Link.setDir (x : Link) (high : Bool) (d : LinkDir) : Link := if high then { x with high := d } else { x with low := d }

/-! ### Replay (R54) -/

/-- Whether a good transfer is the replay of a bad one: it has its header, its payload or its CRC. The spec does not say how a
receiver knows a replay (log entry 175). -/
def RzBad.replayedBy (b : RzBad) (x : RzTransfer) : Bool :=
  b.transfer.header == x.header || b.transfer.payload == x.payload || b.crc == rzCrc x

/-- Whether a transfer comes out of order: a bad one of its buffer set awaits its replay, or another of its buffer set or of its
flow, sent before it, has not been acknowledged. The sender replays from the first bad one (R52, R54). -/
def LinkDir.ahead (d : LinkDir) (x : RzTransfer) : Bool :=
  (d.bad.any fun b => rzSet b.transfer == rzSet x && !b.replayedBy x) ||
  match (d.store.map (·.1)).filter fun y => rzSet y == rzSet x || sameFlow y x with
  | [] => false
  | y :: r => y != x && r.contains x

/-- A good transfer is acknowledged: the sender drops it, and a replay that was awaited has come. -/
def LinkDir.acked (d : LinkDir) (x : RzTransfer) : LinkDir :=
  { d with bad := d.bad.filter fun b => !b.replayedBy x, store := d.store.erase (x, rzCrc x) }

/-- The failed replays that a bad transfer comes to: one more for the transfer of its buffer set whose replay was awaited. -/
def LinkDir.failures (d : LinkDir) (x : RzTransfer) : Nat :=
  match d.bad.find? fun b => rzSet b.transfer == rzSet x with
  | some b => b.failed + 1
  | none => 0

/-- A bad transfer is noted: its replay is awaited from here on, or still. -/
def LinkDir.missed (d : LinkDir) (x : RzTransfer) (crc : Nat) : LinkDir :=
  if d.bad.any fun b => rzSet b.transfer == rzSet x then
    { d with bad := d.bad.map fun b => if rzSet b.transfer == rzSet x then { b with failed := b.failed + 1 } else b }
  else { d with bad := d.bad ++ [{ transfer := x, crc := crc, failed := 0 }] }

/-- The base dies that stand on a detour's new routes (R55): for a group link of dimension d, both ends and their
neighbours in the lowest other dimension; for an edge or media link the two base dies its die is linked to. The links L20 and L21 between an edge and a media die have a detour
too, through their dies' base dies, for which no base die's table changes (log entry 98). -/
def detourDies (l : Nat) : List Nat :=
  let e := linkEnds l
  if l < 12 then
    let other := if l < 4 then 2 else 1
    [e.1, e.2, Nat.xor e.1 other, Nat.xor e.2 other]
  else if l < 20 then [Nat.min e.1 e.2, Nat.xor (Nat.min e.1 e.2) 4]
  else []

/-! ### Arbiters (R50, R254) -/

/-- The requester id of a REQ or STREAM transfer at a link direction (Table 9-12). -/
def rzRequester (x : RzTransfer) : Nat := 2 * rzSrcDie x.header + b2n (rzClass x.header == 2)

/-- The arbiter of a direction's detoured or undetoured traffic. -/
def LinkDir.arbOf (d : LinkDir) (e : Bool) : RzArb := if e then d.escArb else d.arb

/-- The same arbiter, changed. -/
def LinkDir.setArb (d : LinkDir) (e : Bool) (a : RzArb) : LinkDir := if e then { d with escArb := a } else { d with arb := a }

/-- The buffered transfers for which an arbiter grants: those of REQ and STREAM, detoured or not. -/
def LinkDir.asking (d : LinkDir) (e : Bool) : List RzTransfer :=
  d.wait.filter fun x => rzEsc x == e && (rzClass x.header == 0 || rzClass x.header == 2)

/-- A requester is granted the direction; each other that waits counts it (R203, R204). -/
def LinkDir.grant (d : LinkDir) (e : Bool) (i : Nat) : LinkDir :=
  let a := d.arbOf e
  if a.holder = some i then d
  else
    let others := (((d.asking e).map rzRequester).eraseDups).filter (· != i)
    d.setArb e { last := i, holder := some i, waits := others.map fun j => (j, tgetD a.waits j 0 + 1) }

/-- A direction's arbiter when its holder has nothing more queued: the next grantee, among the requesters present (R202). -/
def LinkDir.release (d : LinkDir) (e : Bool) : LinkDir :=
  let ids := (d.asking e).map rzRequester
  match (d.arbOf e).holder with
  | none => d
  | some i =>
    if ids.contains i then d
    else
      match roundRobin i ids with
      | some j => d.grant e j
      | none => d.setArb e { d.arbOf e with holder := none, waits := [] }

/-- Whether a buffered transfer may take the link: its buffer set has fewer than 32 unacknowledged, and none of its flow stands before
it (R52, R54). -/
def LinkDir.ready (d : LinkDir) (x : RzTransfer) : Bool :=
  decide ((d.store.filter fun y => rzSet y.1 == rzSet x).length < 32) && (d.wait.find? (sameFlow x)) == some x

/-- The buffered transfer that takes the link next and, where an arbiter grants it, which and to whom: CTL first, then RSP, then the
requesters of REQ and STREAM in turn (R50, R254). -/
def LinkDir.nextOut (d : LinkDir) (free : RzTransfer → Bool) : Option (RzTransfer × Option (Bool × Nat)) :=
  let able := fun x => d.ready x && free x
  let granted := fun e =>
    let xs := (d.asking e).filter able
    let ids := xs.map rzRequester
    (((d.arbOf e).holder.filter ids.contains).or (roundRobin (d.arbOf e).last ids)).bind fun i =>
      (xs.find? fun x => rzRequester x == i).map fun x => (x, some (e, i))
  (((d.wait.find? fun x => rzClass x.header == 3 && able x).or (d.wait.find? fun x => rzClass x.header == 1 && able x)).map
    fun x => (x, none)).or ((granted false).or (granted true))

/-- A transfer is sent with its header and CRC (R49): it stands in the replay store until it is acknowledged. -/
def LinkDir.sent (d : LinkDir) (x : RzTransfer) (g : Option (Bool × Nat)) : LinkDir :=
  let d1 := match g with
    | some p => d.grant p.1 p.2
    | none => d
  let d2 := { d1 with store := d1.store ++ [(x, rzCrc x)], wait := d1.wait.erase x }
  match g with
  | some p => d2.release p.1
  | none => d2

/-! ### Routes (R51, R55) -/

/-- The link between two dies. -/
def linkOf (a b : Nat) : Option Nat := (List.range 22).find? fun l => linkEnds l == (Nat.min a b, Nat.max a b)

/-- The two base dies that an edge or media die is linked to: in the west, or in the east. -/
def sideDies (die : Nat) : Nat × Nat := if die = 8 ∨ die = 10 then (0, 4) else (2, 6)

/-- The lowest dimension other than `d`: the first that a detour crosses. -/
def otherDim (d : Nat) : Nat := if d = 0 then 1 else 0

/-- The neighbour of a base die in a dimension. -/
def across (n d : Nat) : Nat := Nat.xor n (2 ^ d)

/-- The lowest dimension in which two base dies differ. -/
def firstDim (a b : Nat) : Nat := if bitAt a 0 != bitAt b 0 then 0 else if bitAt a 1 != bitAt b 1 then 1 else 2

/-- The dies that a detour around the link from `a` to `b` crosses, `b` the last: the neighbours in the lowest other dimension for a
group link, the other base die for an edge or media link (R55). -/
def detourPath (a b : Nat) : List Nat :=
  if a < 8 ∧ b < 8 then
    let e := otherDim (firstDim a b)
    [across a e, across b e, b]
  else if 8 ≤ a ∧ 8 ≤ b then [(sideDies a).1, b]
  else
    let p := sideDies (Nat.max a b)
    [if Nat.min a b = p.1 then p.2 else p.1, b]

/-- The link directions along a list of dies. -/
def pathDirs (a : Nat) : List Nat → List (Nat × Bool)
  | [] => []
  | b :: r => ((linkOf a b).map fun l => (l, decide (b < a))).toList ++ pathDirs b r

/-- The hop of a path that follows the one from `prev` to `n`, if `came` is where the transfer was before (any die: none is known).
`none` where the path does not pass there; `some none` at its end. -/
def hopAfter (prev n : Nat) (came : Option Nat) : List (Nat × Bool) → Option (Option (Nat × Bool))
  | [] => none
  | (m, _) :: r => if m = n ∧ came.all (· == prev) then some r.head? else hopAfter m n came r

namespace State

/-- Whether traffic between two dies goes around their link: its detour stands, because it is DOWN or borrowed (R55, Table 9-14). -/
def around (s : State) (a b : Nat) : Bool := (linkOf a b).any fun l => (s.rzLink l).detour

/-- The base die at which traffic between an edge or media die and a base die with bit 2 `far` enters or leaves the cube, and whether
it is the other one because of a detour. -/
def gateDie (s : State) (edge : Nat) (far : Bool) : Nat × Bool :=
  let p := sideDies edge
  let n := if far then p.2 else p.1
  if s.around edge n then (if far then p.1 else p.2, true) else (n, false)

/-- The dies from one base die to another, each with whether a detour leads there: the differing bits in ascending order, and around
a link of dimension d the lowest other dimension e, then d, then e (R51, R55). `fuel` bounds the dimensions. -/
def cubeRoute (s : State) (n dst : Nat) : Nat → List (Nat × Bool)
  | 0 => []
  | fuel + 1 =>
    if n = dst then []
    else
      let m := across n (firstDim n dst)
      (if s.around n m then (detourPath n m).map (·, true) else [(m, false)]) ++ s.cubeRoute m dst fuel

/-- The dies that a transfer crosses from its source to its destination (R51, R55). -/
def route (s : State) (src dst : Nat) : List (Nat × Bool) :=
  let toEnd := fun n =>
    if dst < 8 then s.cubeRoute n dst 3
    else
      let out := s.gateDie dst (src < 8 && bitAt src 2)
      (s.cubeRoute n out.1 3).map (fun p => (p.1, p.2 || out.2)) ++ [(dst, out.2)]
  if src = dst then []
  else if src < 8 then toEnd src
  else if 8 ≤ dst ∧ sideDies src = sideDies dst then
    if s.around src dst then (detourPath src dst).map (·, true) else [(dst, false)]
  else
    let g := s.gateDie src (dst < 8 && bitAt dst 2)
    g :: toEnd g.1

/-- The die that a transfer at die `n` goes to next, and whether it travels a detour from here on. `came` is the die it crossed from.
A transfer that a change of the tables has taken off its route follows the one from where it is. -/
def nextHop (s : State) (n : Nat) (came : Option Nat) (h : DWord) : Option (Nat × Bool) :=
  let src := rzSrcDie h
  let dst := rzDstDie h
  let p := s.route src dst
  let here := s.route n dst
  let next := if came.isNone ∧ n = src then p.head?
    else ((hopAfter src n came p).or (hopAfter src n none p)).getD here.head?
  next.map fun q => (q.1, q.2 || bitAt h.toNat 53)

/-- Whether a transfer must wait for one of its flow that went out before it and is still on the detour of this link (R52). -/
def rzHeld (s : State) (l : Nat) (high : Bool) (x : RzTransfer) : Bool :=
  let e := linkEnds l
  let p := if high then (e.2, e.1) else e
  !rzEsc x && (pathDirs p.1 (detourPath p.1 p.2)).any fun m =>
    let d := (s.rzLink m.1).dir m.2
    (d.wait ++ d.store.map (·.1)).any fun y => rzEsc y && sameFlow x y

/-- A direction of a link sends what it can: while the link is up and holds no traffic. A requester that has waited for as many grants
as `PTN_ARB_CFG` says is recorded (R254). `fuel` bounds the transfers. -/
def rzPump (s : State) (l : Nat) (high : Bool) : Nat → State
  | 0 => s
  | fuel + 1 =>
    let k := s.rzLink l
    let d := k.dir high
    if k.state ≠ .up ∨ k.holding = true then s
    else
      match d.nextOut fun x => !s.rzHeld l high x with
      | none => s
      | some (x, g) =>
        let d1 := d.sent x g
        let s1 := s.setRzLink l (k.setDir high d1)
        let late := fun e => ((d1.arbOf e).waits.find? fun w => starvedNow s.rzThreshold (tgetD (d.arbOf e).waits w.1 0) w.2).map
          fun w => (e, w.1)
        let s2 := match (late false).or (late true) with
          | some (e, j) => s1.starved (.rz l high e) j ((d1.arbOf e).holder.getD 0)
          | none => s1
        s2.rzPump l high fuel

/-- Every link sends what it can. -/
def rzPumpAll (s : State) : State :=
  ((List.range 22).filter s.variant.link).foldl (fun (s : State) l =>
    let s1 := s.rzPump l false (s.rzLink l).low.wait.length
    s1.rzPump l true (s1.rzLink l).high.wait.length) s

/-- A transfer at die `n` goes on toward its destination: it stands in the buffers of its next link, held there while that link
retrains or has no detour yet. In the NX-TX3D-864R a route over B6 or B7, which are absent, has no link, and the transfer is
dropped (DESIGN CHOICE, log entry 176); one of 5 to 8 beats goes over an edge or media link whole (DESIGN CHOICE, log entry
177). -/
def rzForward (s : State) (n : Nat) (came : Option Nat) (x : RzTransfer) : State :=
  match s.nextHop n came x.header with
  | none => s
  | some (m, esc) =>
    match linkOf n m with
    | none => s
    | some l =>
      if s.variant.link l = false then s else
      let high := decide (m < n)
      let h := BitVec.ofNat 64 (setFld x.header.toNat 53 53 (b2n esc))
      let k := s.rzLink l
      let d := k.dir high
      (s.setRzLink l (k.setDir high { d with wait := d.wait ++ [{ x with header := h }] })).rzPump l high (d.wait.length + 1)

/-- A link enters RETRAIN (R54): what its receivers had of a transfer is cleared, its replay stores are kept. -/
def rzRetrain (s : State) (l : Nat) : State :=
  let x := s.rzLink l
  (s.setRzLink l { x with
    state := .retrain, holding := true, low := { x.low with bad := [] }, high := { x.high with bad := [] }, retrains := satAdd 8 x.retrains 1,
    recent := x.recent ++ [(s.dom (dieDomain (linkEnds l).1)).time] }).raiseEv evRz 1

/-- What one end of a link held for it goes over the detour: the replay store in its order, then what was held back (Table 2-6,
step 4). -/
def rzReroute (s : State) (l : Nat) (high : Bool) : State :=
  let k := s.rzLink l
  let d := k.dir high
  (d.store.map (·.1) ++ d.wait).foldl (fun (s : State) x => s.rzForward (rzEnd l !high) none x)
    (s.setRzLink l (k.setDir high { d with store := [], wait := [] }))

/-- A detour is placed (Table 2-6, steps 3 to 5), if every die on the new routes can take its table. -/
def placeDetour (s : State) (l : Nat) : State :=
  if (detourDies l).all fun n => s.isOpen (fabricDomain n) && s.isOpen (7 * n + 6) then
    let k := s.rzLink l
    let t := (s.dom (dieDomain (linkEnds l).1)).time
    (((s.setRzLink l { k with detour := true, holding := false, steps := k.steps.take 1 ++ [t, t, t, t] }).rzReroute l false).rzReroute l
      true |>.sendCtl (.detour l)).raiseEv evRz 3
  else s

/-- A link goes DOWN (R54, R55). -/
def rzDown (s : State) (l : Nat) : State :=
  let t := (s.dom (dieDomain (linkEnds l).1)).time
  let s1 := ((s.setRzLink l { s.rzLink l with
    state := .down, detour := false, holding := true, steps := [t] }).sendCtl (.linkDown l)).raiseEv evRz 2
  s1.placeDetour l

/-- The detours that could not be placed so far are placed, where they can be now (R55). -/
def placeDetours (s : State) : State :=
  ((List.range 22).filter fun l => s.variant.link l && (s.rzLink l).state == .down && !(s.rzLink l).detour).foldl
    (fun (s : State) l => s.placeDetour l) s

/-- A retrain ends (R54): replay resumes; one that fails, or the third within 1 s, takes the link DOWN. -/
def rzRetrained (s : State) (l : Nat) (ok : Bool) : State :=
  let x := s.rzLink l
  if s.variant.link l = false ∨ x.state ≠ .retrain then s
  else
    let now := (s.dom (dieDomain (linkEnds l).1)).time
    let recent := x.recent.filter fun t => (now - t).toNat ≤ 1000000000
    let s1 := s.setRzLink l { x with
      recent := recent, state := .up, holding := false }
    if ok && recent.length < 3 then s1.rzPumpAll else s1.rzDown l

end State

end Sys2Proof.Machine
end

