-- ==== Sys2Proof/Machine/Dma.lean ====
section
/-! DEFINITION. The DMA engines (R174, R196 to R201) and the host side of a DMA command (R383). -/

namespace Sys2Proof.Machine

namespace State

/-- Whether an operand lies in host space. -/
def hostOperand (d : Desc) : Bool :=
  match parseAddr d.addr with
  | .host _ => true
  | _ => false

/-- The engine of a DMA command: of its die, even for queues 0 and 2; E1, numbered 16, with a host operand (R196). -/
def dmaEngine (s : State) (x : At) : Nat :=
  let host := ((s.opd x 16 [0]).any hostOperand) || ((s.opd x 25 [0]).any hostOperand) || ((s.opd x 34 [0]).any hostOperand)
  if host then 16 else 2 * s.dmaDie x + x.q % 2

/-- The domain of an engine. -/
def engineDomain (e : Nat) : Nat := if e = 16 then 77 else fabricDomain (e / 2)

/-- The elements of a row of a row-major operand. -/
def rowElems (s : State) (ptn die : Nat) (d : Desc) (fmt r : Nat) : List Nat :=
  (List.range d.cols).map fun j => s.elem (s.memRow ptn die d fmt r) fmt j

/-- One row copied between row-major operands. -/
def dmaRow (s : State) (c q : Nat) (idx : Word) (ptn die : Nat) (a d : Desc) (fmt from_ to_ : Nat) : State :=
  s.putBytes c q idx ptn die (d.addr + to_ * d.pitch fmt)
    (elemRun (fun _ => 0) fmt d.cols 0 (s.rowElems ptn die a fmt from_)).2

/-- The bytes of one segment of LAYOUT 1 up to its pitch (R198): `b k n` is the element of the operand, zero outside it. -/
def skewSegment (fmt depth : Nat) (b : Nat → Nat → Nat) (chunk tile : Nat) : List Byte :=
  let vs := (List.range (16 * depth + 15)).flatMap fun t => (List.range 16).map fun j =>
    if t < j then 0
    else
      let p := (t - j) / depth
      let u := (t - j) % depth
      if p < 16 then b (chunk * depth + u) (256 * tile + 16 * p + j) else 0
  let l := (elemRun (fun _ => 0) fmt vs.length 0 vs).2
  l ++ zeros (segPitch fmt depth - l.length)

/-- XFORM 1: the whole destination layout, zero entries included (R197, R198). -/
def dmaSkew (s : State) (c q : Nat) (idx : Word) (ptn die : Nat) (a d : Desc) (fmt row0 : Nat) : State :=
  let dp := d.depth
  let chunks := ceilDiv d.rows dp
  let b := fun k n => if k < d.rows ∧ n < d.cols then s.elem (s.memRow ptn die a fmt (row0 + k)) fmt n else 0
  (List.range (ceilDiv d.cols 256 * chunks)).foldl (fun s seg =>
    s.putBytes c q idx ptn die (d.addr + seg * segPitch fmt dp) (skewSegment fmt dp b (seg % chunks) (seg / chunks))) s

/-- XFORM 2: each input row band-major, up to its pitch (R200). -/
def dmaConv (s : State) (c q : Nat) (idx : Word) (ptn die : Nat) (a d : Desc) (fmt row0 : Nat) : State :=
  let g := 2 ^ fld d.stride 25 24
  let ch := fld d.stride 23 0
  let w := ch / g
  let n := d.cols / ch
  (List.range d.rows).foldl (fun s r =>
    let l := (List.range g).flatMap fun b =>
      let vs := (List.range (n * w)).map fun u =>
        s.elem (s.memRow ptn die a fmt (row0 + r)) fmt (u / w * ch + b * w + u % w)
      (elemRun (fun _ => 0) fmt vs.length 0 vs).2
    s.putBytes c q idx ptn die (d.addr + r * convRowPitch d fmt) (l ++ zeros (convRowPitch d fmt - l.length))) s

/-- The place of element (r, col) of an operand of any layout but records: the row's start and the element position. -/
def elemPlace (d : Desc) (fmt r col : Nat) : Nat × Nat :=
  match d.layout with
  | 1 => skewPos d fmt r col
  | 2 =>
    let ch := Nat.max 1 (fld d.stride 23 0)
    let p := convPos d fmt (col / ch) (col % ch)
    (r * convRowPitch d fmt + p.1, p.2)
  | _ => (r * d.pitch fmt, col)

/-- One row copied between operands of one layout: row-major elements, records, or each element of a skewed row to the
place that its own layout gives (log entry 26). -/
def dmaMove (s : State) (c q : Nat) (idx : Word) (ptn die : Nat) (a d : Desc) (fmt from_ to_ : Nat) : State :=
  if d.layout = 0 then s.dmaRow c q idx ptn die a d fmt from_ to_
  else if d.layout = 3 then
    s.putBytes c q idx ptn die (d.addr + to_ * d.pitch fmt)
      (s.readBytes ptn die (a.addr + from_ * a.pitch fmt) (16 * d.cols))
  else
    (List.range d.cols).foldl (fun s j =>
      let p := elemPlace a fmt from_ j
      let v := s.elem (fun off => s.key ptn die (a.addr + p.1 + off)) fmt p.2
      let u := elemPlace d fmt to_ j
      let row : RowAt := fun off => s.key ptn die (d.addr + u.1 + off)
      let w := elemRun (s.seenByte row) fmt (u.2 + 2) u.2 [v]
      s.putBytes c q idx ptn die (d.addr + u.1 + w.1) w.2) s

/-- XFORM 0 (R197): rows between operands of one layout; a whole skewed operand of one stride goes byte for byte. -/
def dmaCopy (s : State) (c q : Nat) (idx : Word) (ptn die : Nat) (a d : Desc) (fmt row0 drow n : Nat) : State :=
  if (d.layout = 1 ∨ d.layout = 2) ∧ row0 = 0 ∧ drow = 0 ∧ n = a.rows ∧ n = d.rows ∧ a.stride = d.stride then
    s.putBytes c q idx ptn die d.addr (s.readBytes ptn die a.addr (d.span fmt))
  else (List.range n).foldl (fun s r => s.dmaMove c q idx ptn die a d fmt (row0 + r) (drow + r)) s

/-- XFORM 3 (R197): the rows that IDX lists, up to the first that SRC does not have; how many rows were written. -/
def dmaGather (s : State) (c q : Nat) (idx : Word) (ptn die : Nat) (a d i : Desc) (fmt drow n : Nat) : State × Nat :=
  let w := Nat.max 1 i.cols
  let rows := (List.range n).map fun u => toSigned 32 (s.elem (s.memRow ptn die i 13 (u / w)) 13 (u % w))
  let good := rows.takeWhile fun (r : Int) => decide (0 ≤ r ∧ r < (a.rows : Int))
  (good.zipIdx.foldl (fun s r => s.dmaMove c q idx ptn die a d fmt r.1.toNat (drow + r.2)) s, good.length)

/-- Bytes of `n` rows of an operand. -/
def dmaBytes (d : Desc) (fmt n : Nat) : Nat :=
  match d.layout with
  | 1 => d.span fmt
  | 2 => n * convRowPitch d fmt
  | 3 => n * 16 * d.cols
  | _ => n * rowBytes fmt d.cols

/-- The frames that a DMA command writes whole with its first `n` rows (R187). -/
def wholeFrames (s : State) (x : At) (d : Desc) (n : Nat) : List Nat :=
  match parseAddr d.addr with
  | .hbm p off => (pagesOf off (d.span (x.f 49 46))).filterMap fun v =>
      if s.dmaCovers x n v then s.pageFrame p v else none
  | _ => []

/-- The largest exponent among the elements that a DMA command with GRAD wrote: those of the first `n` rows at its destination, as
they stand after it (R131). -/
def dmaMaxExp (s : State) (x : At) (ptn die n : Nat) : Int :=
  match s.opd x 25 [0] with
  | some d =>
    let fmt := x.f 49 46
    if x.b 8 && d.layout != 3 then
      let from_ := if x.f 45 43 = 1 ∨ x.f 45 43 = 2 then 0 else x.f 121 98
      maxExpOf ((List.range n).flatMap fun r => (List.range d.cols).map fun j =>
        let p := elemPlace d fmt (from_ + r) j
        decodeElem fmt false (s.elem (fun off => s.key ptn die (d.addr + p.1 + off)) fmt p.2))
    else -128
  | none => -128

/-- POISON clears on frames (R187). -/
def clearPoison (s : State) (fs : List Nat) : State :=
  fs.foldl (fun (s : State) f => if bitAt (s.attr f) 6 then s.setAttr f (setFld (s.attr f) 6 6 0) else s) s

/-- A DMA command moves its rows (R174, R197). -/
def runDma (s : State) (c q : Nat) (idx : Word) (x : At) : State :=
  match s.opd x 16 [0], s.opd x 25 [0] with
  | some a, some d =>
    let ptn := (s.ctx c).ptn
    let die := s.dmaDie x
    let fmt := x.f 49 46
    let n := s.dmaRows x
    let fin := fun (t : State) (st : Status) (rows bytes : Nat) =>
      let e := t.dmaMaxExp x ptn die rows
      (t.clearPoison (s.wholeFrames x d rows)).modCmd c q idx fun y => { y with moved := bytes, maxExp := e, result := some st }
    match x.f 45 43 with
    | 0 => fin (s.dmaCopy c q idx ptn die a d fmt (x.f 73 50) (x.f 121 98) n) .ok n (dmaBytes d fmt n)
    | 1 => fin (s.dmaSkew c q idx ptn die a d fmt (x.f 73 50)) .ok n (d.span fmt)
    | 2 => fin (s.dmaConv c q idx ptn die a d fmt (x.f 73 50)) .ok n (d.span fmt)
    | _ =>
      match s.opd x 34 [0] with
      | some i =>
        let r := s.dmaGather c q idx ptn die a d i fmt (x.f 121 98) n
        fin r.1 (if r.2 = n then .ok else .contextFault) r.2 (dmaBytes d fmt r.2)
      | none => s
  | _, _ => s

/-- HOST_RD messages of at most 256 bytes for a host span (Table 15-5, R383). `fuel` bounds the messages. -/
def hostReads (s : State) (c q : Nat) (idx : Word) (h n : Nat) : Nat → State
  | 0 => s
  | fuel + 1 =>
    if n = 0 then s
    else
      let m := Nat.min 256 n
      let t := s.plk.nextTag
      (({ s with plk := { s.plk with
          nextTag := (t + 1) % 2 ^ 16,
          reads := s.plk.reads ++ [{ tag := t, ctx := c, q := q, idx := idx, key := hostKey h, bytes := m }] } } : State).send
        (.hostRd t h m)).hostReads c q idx (h + m) (n - m) fuel

/-- The host spans that a DMA command reads. -/
def hostSpans (s : State) (x : At) : List (Nat × Nat) :=
  (s.spans x).filterMap fun p =>
    match parseAddr p.addr with
    | .host h => if p.write then none else some (h, p.len)
    | _ => none

/-- What a DMA command reads in HBM goes through the memory-side caches (R191). -/
def readLines (s : State) (x : At) : State :=
  let ptn := (s.ctx x.c).ptn
  (s.spans x).foldl (fun (s : State) p =>
    if p.write then s
    else
      match parseAddr p.addr with
      | .hbm q off => if q = ptn then (pagesOf off p.len).foldl (fun (s : State) v =>
          match s.pageFrame q v with
          | some f =>
            let lo := Nat.max off (65536 * v)
            let hi := Nat.min (off + p.len) (65536 * v + 65536)
            s.lineReads ptn (hbmKey f (lo - 65536 * v)) (hi - lo)
          | none => s) s else s
      | _ => s) s

/-- Whether a command still waits for HOST_RD answers. -/
def readsOpen (s : State) (c q : Nat) (idx : Word) : Bool :=
  s.plk.reads.any fun h => h.ctx == c && h.q == q && h.idx == idx

/-- Whether a command that a DMA arbiter has noted still asks for its engine. -/
def asks (s : State) (id : Nat) (idx : Word) : Bool :=
  (s.ctx (id / 4)).state == .running &&
    (s.cmd (id / 4) (id % 4) idx).any fun y => y.result.isNone && !y.started && !y.final

/-- The requester that an arbiter grants next after grantee `last`: round-robin in ascending id; of one queue's commands the one
that came first (R202). -/
def nextGrant (last : Nat) (waits : List (Nat × Word × Nat)) : Option (Nat × Word) :=
  (roundRobin last (waits.map (·.1))).bind fun i => (waits.find? fun w => w.1 == i).map fun w => (w.1, w.2.1)

/-- An engine is free for a command: held by it, or idle and granted to no other, nor, before its arbiter has decided, another's in
turn (R202, R203). -/
def engineFree (s : State) (e c q : Nat) (idx : Word) : Bool :=
  let y := s.dmaE e
  if y.busy then y.ctx == c && y.q == q && y.idx == idx
  else
    match (y.next.filter fun n => s.asks n.1 n.2).or (nextGrant y.grants (y.waits.filter fun w => s.asks w.1 w.2.1)) with
    | some n => n == (4 * c + q, idx)
    | none => true

/-- A command waits at its engine's arbiter. While the engine is held nothing is decided; when it is idle, the next grantee among the
requesters present is (R202). -/
def waitEngine (s : State) (e c q : Nat) (idx : Word) : State :=
  let y := s.dmaE e
  let here := y.waits.filter fun w => s.asks w.1 w.2.1
  let waits := if here.any fun w => w.1 == 4 * c + q && w.2.1 == idx then here else here ++ [(4 * c + q, idx, 0)]
  let keep := y.next.any fun n => s.asks n.1 n.2
  s.setDmaE e { y with waits := waits, next := if y.busy then none else if keep then y.next else nextGrant y.grants waits }

/-- A command takes its engine, which it holds until it has a final code (R203). For each other that waits the grant counts; a count
that reaches the threshold is recorded (R204). -/
def takeEngine (s : State) (e c q : Nat) (idx : Word) : State :=
  let y := s.dmaE e
  let id := 4 * c + q
  let waits := (y.waits.filter fun w => s.asks w.1 w.2.1 && !(w.1 == id && w.2.1 == idx)).map fun w =>
    if w.1 = id then w else (w.1, w.2.1, w.2.2 + 1)
  let s1 := s.setDmaE e { y with
    busy := true, ctx := c, q := q, idx := idx, grants := id, waits := waits, next := none }
  match waits.find? fun w => w.1 != id && starvedNow s.sel.dmaThreshold (w.2.2 - 1) w.2.2 with
  | some w => s1.starved (.dma e) w.1 id
  | none => s1

/-- A command gives up the engine it holds; the arbiter decides the next grantee among the requests present, one handshake before its
grant (R202). -/
def freeEngine (s : State) (c q : Nat) (idx : Word) : State :=
  { s with dmas := tmap (fun _ y =>
      if y.busy && y.ctx == c && y.q == q && y.idx == idx then
        { y with busy := false, next := nextGrant y.grants (y.waits.filter fun w => s.asks w.1 w.2.1) }
      else y) s.dmas }

/-- The bytes the running command has moved (`DMA_STAT`), and the event of a gather index beyond its source. -/
def countDma (s : State) (e c q : Nat) (idx : Word) : State :=
  let y := s.dmaE e
  let s1 := s.setDmaE e { y with bytes := ((s.cmd c q idx).map (·.moved)).getD 0 }
  if (s.cmd c q idx).any fun y => y.result == some .contextFault then s1.raiseEv evDma 2 else s1

/-- Whether a page that a command reads is poisoned (R187, R206). -/
def readsPoison (s : State) (x : At) : Bool :=
  (s.spans x).any fun p => !p.write &&
    match parseAddr p.addr with
    | .hbm ptn off => (pagesOf off p.len).any fun v => (s.pageFrame ptn v).any fun f => bitAt (s.attr f) 6
    | _ => false

/-- A DMA command at its engine: it takes the engine, asks the host for what it reads there, and moves its rows once every
answer has come. -/
def stepDma (s : State) (c q : Nat) (idx : Word) : State :=
  match s.cmd c q idx with
  | none => s
  | some y =>
    let x := atCmd c q y
    let e := s.dmaEngine x
    if y.started then
      if cmdOpcode y.word = 10 ∧ y.result.isNone = true ∧ s.readsOpen c q idx = false ∧
          ((s.ctx c).state == .running) = true ∧ s.isOpen (engineDomain e) = true then
        if s.readsPoison x then (s.answer c q idx .contextFault).raiseEv evDma 1
        else ((s.readLines x).runDma c q idx x).countDma e c q idx
      else s
    else
      let poison := y.result.isNone && s.readsPoison x
      let s1 := s.unitStart 10 c q idx [engineDomain e] fun s _ x =>
        if s.engineFree e c q idx then
          let s1 := s.takeEngine e c q idx
          let hs := s1.hostSpans x
          if hs.isEmpty then ((s1.readLines x).runDma c q idx x).countDma e c q idx
          else
            (hs.foldl (fun s h => s.hostReads c q idx h.1 h.2 (h.2 + 1)) s1).modCmd c q idx fun z => { z with started := true }
        else s.waitEngine e c q idx
      if poison && (s1.cmd c q idx).any fun z => z.result == some .contextFault then s1.raiseEv evDma 1 else s1

/-- The answer to a HOST_RD; a status other than OK gives its command CONTEXT_FAULT (R383). -/
def cplTaken (s : State) (tag status : Nat) (data : List Byte) : State :=
  match s.plk.reads.find? fun r => r.tag == tag with
  | none => s
  | some r =>
    if s.linkUp = false then s
    else
      let s1 := { s with plk := { s.plk with reads := s.plk.reads.filter fun h => h.tag != tag } }
      if status = 0 then ({ s1 with mem := s1.mem.writeAll r.key (slice data 0 r.bytes) } : State).dirtied r.key r.bytes
      else s1.answer r.ctx r.q r.idx .contextFault

end State

/-- DMA (R174). -/
def execDma (ctx q : Nat) (idx : Word) (s : State) : Host.Outcome State Fault Refusal :=
  act s fun s => s.stepDma ctx q idx

/-- CPL_RECEIVE (R383). -/
def execCplReceive (tag status : Nat) (data : List Byte) (s : State) : Host.Outcome State Fault Refusal :=
  act s fun s => s.cplTaken tag status data

/-- HOST_RD_TIMEOUT (R383): the command completes with DOMAIN_RESET; CPL_TIMEOUT is set. -/
def execHostRdTimeout (tag : Nat) (s : State) : Host.Outcome State Fault Refusal :=
  act s fun s =>
    match s.plk.reads.find? fun r => r.tag == tag with
    | none => s
    | some r =>
      let s1 := { s with plk := { s.plk with reads := s.plk.reads.filter fun h =>
        !(h.ctx == r.ctx && h.q == r.q && h.idx == r.idx) } }
      (s1.answer r.ctx r.q r.idx .domainReset).raiseEv evPlk 3

/-- HOST_WR_ACK (R383): the adapter has acknowledged the flit that carried a HOST_WR's last byte. -/
def execHostWrAck (ident : Nat) (s : State) : Host.Outcome State Fault Refusal :=
  act s fun s => { s with plk := { s.plk with writes := s.plk.writes.filter fun h => h.ident != ident } }

end Sys2Proof.Machine
end

