-- ==== Sys2Proof/Machine/Contexts.lean ====
section
/-! DEFINITION. The Soredium (R244 to R248): leaving the quadrants, the image and its sections, coming back; what a context
gives up when it ends (Table 9-10, R238). -/

namespace Sys2Proof.Machine

namespace Context

/-- A context is runnable when it has a queue in ACTIVE, WAITING or GATED (R239). -/
def runnable (k : Context) : Bool := k.queues.any fun x => x.state == .active || x.state == .waiting || x.state == .gated

/-- The quadrants of a context's set, ascending. -/
def quadList (k : Context) : List Nat := members k.quads 32

/-- The base dies of some quadrants, ascending. -/
def diesOf (mask : Nat) : List Nat := (List.range 8).filter fun n => fld mask (4 * n + 3) (4 * n) != 0

/-- The base dies of a context's quadrants, on which its window lies (R238). -/
def dies (k : Context) : List Nat := diesOf k.quads

/-- Pages that an image of some quadrants needs (R245). -/
def imageNeed (quads count : Nat) : Nat := 1 + 256 * popcount quads 32 + (diesOf quads).length * count

/-- The offset of section `i` in an image of the quadrants held: array sections, then scratch sections (R244). -/
def sectionOff (k : Context) (i : Nat) : Nat :=
  let arrays := 65536 + 2 ^ 24 * (k.quadList.filter fun j => j < i).length
  if i < 32 then arrays else arrays + 65536 * k.scrCount * (k.dies.filter fun n => 32 + n < i).length

/-- Whether the windows of two contexts of one partition overlap. -/
def windowsMeet (a b : Context) : Bool :=
  a.ptn == b.ptn && a.scrFirst < b.scrFirst + b.scrCount && b.scrFirst < a.scrFirst + a.scrCount

end Context

/-- Bits of an array's state word (Table 9-8): halves loaded, slot states, slot tags. -/
def arrayWord (x : Arr) : Nat :=
  let code := fun (st : SlotState) => match st with
    | .free => 0
    | .held => 1
    | .draining => 2
  pack ((x.halves.zipIdx.map fun h => (h.2, b2n h.1.loaded)) ++ (x.slots.zipIdx.map fun k => (2 + 2 * k.2, code k.1.state)) ++
    (x.slots.zipIdx.map fun k => (10 + 2 * k.2, k.1.tag % 4)))

/-- The parts of an array that are written and read, from its state word: offset in its quadrant's section, key, bytes. -/
def arrayParts (word at_ a : Nat) : List (Nat × Nat × Nat) :=
  (([0, 1].filter (bitAt word)).map fun h => (131072 * at_ + 16384 * h, rowKey a h 0, 16384)) ++
  (([0, 1, 2, 3].filter fun k => fld word (3 + 2 * k) (2 + 2 * k) != 0).map fun k =>
    (131072 * at_ + 32768 + 24576 * k, accKey a k 0, 24576))

/-- A context that a re-stripe has parked goes on: without an image it is READY as before (R237). -/
def Context.resumed (k : Context) : Context :=
  if k.state = .parked ∧ k.wait = .none then { k with state := if k.hasImage then .saved else .ready } else k

namespace State

/-! ### Writing an image -/

/-- A save engine writes image bytes of context `c`; queue number 4 stands for it where a write is held (Table 7-5). -/
def putImage (s : State) (c off : Nat) (l : List Byte) : State :=
  s.putBytes c 4 0 (s.ctx c).ptn 0 ((s.ctx c).image + off) l

/-- Bytes of an image of context `c`. -/
def imageBytes (s : State) (c off n : Nat) : List Byte := s.readBytes (s.ctx c).ptn 0 ((s.ctx c).image + off) n

/-- Entry `i` of SECTIONS written: offset, length, CRC-32C of the bytes (R247). -/
def putSection (s : State) (c i off : Nat) (data : List Byte) : State :=
  s.putImage c (0x1200 + 16 * i) (leBytes 8 off ++ leBytes 4 data.length ++ leBytes 4 (crc32c data))

/-- The array section of quadrant `k` written: loaded halves and slots that are not FREE. -/
def saveQuad (s : State) (c k : Nat) : State :=
  let off := (s.ctx c).sectionOff k
  let parts := (List.range 128).flatMap fun a => arrayParts (arrayWord (s.arr (128 * k + a))) a (128 * k + a)
  let s1 := parts.foldl (fun s p => s.putImage c (off + p.1) (s.mem.readAll p.2.1 p.2.2)) s
  s1.putSection c k off (parts.flatMap fun p => s.mem.readAll p.2.1 p.2.2)

/-- The scratch section of base die `n` written, and the window no longer resident there (R248). -/
def saveWindow (s : State) (c n : Nat) : State :=
  let k := s.ctx c
  let off := k.sectionOff (32 + n)
  let data := s.mem.readAll (scrKey k.ptn n (65536 * k.scrFirst)) (65536 * k.scrCount)
  let s1 := (s.putImage c off data).putSection c (32 + n) off data
  s1.setCtx c { s1.ctx c with resident := setFld k.resident n n 0 }

/-- The slot of the channel that a command fills, as its resume point names it (Table 1-10). -/
def fillPosition (s : State) (x : At) : Nat :=
  match s.wordChan x with
  | some (some i, true) => ((tget s.channels i).bind (·.find .filling)).getD 0
  | _ => 0

/-- Array instructions of a command that are not yet issued. -/
def instrLeft (s : State) (c q : Nat) (idx : Word) : Nat :=
  (s.arrays.foldl (fun n p => n + ((p.2.bound.filter fun i => i.ctx == c && i.q == q && i.idx == idx).map
    fun i => i.hi - i.lo).sum) 0)

/-- The tiles of a command times their array instructions, for a command that has any. -/
def instrTotal (s : State) (x : At) : Nat :=
  match x.f 5 0, s.opd x 16 [0, 1] with
  | 1, some a =>
    match mulClass (x.f 64 61), mulClass (x.f 68 65) with
    | some (_, ga, _), some (_, gb, _) => s.matTiles x * ceilDiv a.cols (Nat.max 1 (x.f 95 90 * Nat.max ga gb))
    | _, _ => 0
  | 2, _ => s.matTiles x
  | _, _ => 0

/-- The resume entries of a queue (Table 9-8): each dispatched command without a final code. -/
def resumeBytes (s : State) (c q : Nat) : List Byte :=
  slice (((s.queue c q).cmds.filter fun y => !y.final).flatMap fun y =>
    let x := atCmd c q y
    leBytes 4 y.index.toNat ++ leBytes 4 (if y.started then s.instrTotal x - s.instrLeft c q y.index else 0) ++
    leBytes 4 (s.fillPosition x) ++ leBytes 4 y.moved) 0 1024

/-- The state code of Table 6-1 that a queue holds while its context runs. -/
def queueCode (x : QState) : Nat :=
  match x with
  | .idle => 0
  | .active => 1
  | .waiting => 2
  | .gated => 3
  | .parked => 4
  | .halted => 5

/-- The header of Table 9-8, SECTIONS still empty. -/
def imageHeader (s : State) (c : Nat) : List Byte :=
  let k := s.ctx c
  let q := fun (i : Nat) =>
    let x := s.queue c i
    slice (leBytes 4 x.tail.toNat ++ leBytes 4 x.head.toNat ++ leBytes 4 x.done.toNat ++ leBytes 4 x.chead.toNat ++
      leBytes 4 x.ctail.toNat ++ leBytes 4 x.window ++ leBytes 4 (queueCode x.state) ++ leBytes 4 x.quads) 0 64
  let first := leBytes 4 1 ++ leBytes 4 (s.ctxHandle c) ++ leBytes 4 (s.ptnHandle k.ptn) ++
    leBytes 4 (b2n k.tx2 + 2 * b2n k.critical + 4 * k.lastReason) ++ leBytes 4 k.quads ++
    leBytes 4 (k.scrFirst + 65536 * k.scrCount) ++ leBytes 4 k.step.toNat ++ zeros 4 ++ leBytes 8 k.draws.toNat ++
    leBytes 8 k.drawCursor.toNat ++ k.sync.flatMap fun w => leBytes 4 w.toNat
  slice first 0 0x100 ++ (List.range 4).flatMap q ++ (List.range 4).flatMap (s.resumeBytes c) ++
  zeros 0x400 ++ zeros 0x6A00 ++ (List.range 4096).flatMap fun a =>
    leBytes 8 (if bitAt k.quads (a / 128) then arrayWord (s.arr a) else 0)

/-! ### Leaving the quadrants -/

/-- A queue that waits within a preempted context writes its interim record (R158). -/
def preemptRecords (s : State) (c : Nat) : State :=
  (List.range 4).foldl (fun s q =>
    let x := s.queue c q
    if x.state = .idle then s else s.putRecord c q (preemptedRecord q x.head.toNat (s.queueTime c q))) s

/-- LOSS commands in work give their block back and start again when the context returns (Table 1-10). -/
def lossRestart (s : State) (c : Nat) : State :=
  let s1 := s.studentLeaves c
  (List.range 4).foldl (fun s q =>
    let x := s.queue c q
    s.setQueue c q { x with
      cmds := x.cmds.map fun y => if cmdOpcode y.word = 9 ∧ y.started = true ∧ y.final = false then cmdRestart y else y })
    s1

/-- A running context begins to leave its quadrants for a reason of `LAST_REASON`: 1 reservation, 2 slice, 3 park,
4 re-bind, 5 test, 6 yield (R239, R240, Table 9-6). -/
def beginSave (s : State) (c reason : Nat) (after : AfterSave) : State :=
  let k := s.ctx c
  if k.state = .running then
    let s1 := if reason = 6 then s else s.preemptRecords c
    let s2 := s1.lossRestart c
    let k := s2.ctx c
    s2.setCtx c { k with
      state := .saving, lastReason := reason, after := after,
      preemptions := if reason = 3 ∨ reason = 6 then k.preemptions else satAdd 16 k.preemptions 1 }
  else s

/-- A context is parked until a wait ends (R34, R175, R237). -/
def park (s : State) (c : Nat) (w : ParkWait) : State :=
  let s1 := s.beginSave c 3 .parked
  if (s.ctx c).state = .running then s1.setCtx c { s1.ctx c with wait := w } else s

/-- The arrays of some quadrants. -/
def arraysOf (quads : Nat) : List Nat := (members quads 32).flatMap fun k => (List.range 128).map (128 * k + ·)

/-- A context gives up its quadrants: what it held there is FREE, its instructions and drains are kept in its resume
points (R87, R244). -/
def leave (s : State) (c : Nat) : State :=
  let k := s.ctx c
  let as := arraysOf k.held
  let s1 := s.setCtx c { k with
    susp := as.flatMap fun a => (s.arr a).bound.map fun i => (a, i),
    suspDrains := as.flatMap fun a => (s.arr a).drains.map fun d => (a, { d with waiting := false })
    suspLoads := as.flatMap fun a => [0, 1].filterMap fun h =>
      ((s.arr a).halves.getD h Half2.reset).load.map fun l => (a, h, l)
    held := 0 }
  { s1 with
    arrays := tmap (fun a x => if bitAt k.held (a / 128) then
        { x with
          halves := [Half2.reset, Half2.reset], slots := List.replicate 4 AccSlot.reset, bound := [], drains := [] }
      else x) s1.arrays
    quads := tmap (fun _ z => if z.holder = some c then { z with holder := none } else z) s1.quads }

/-- The save engine's work: header, array sections; windows stay resident (R244, R248). -/
def writeImage (s : State) (c : Nat) : State :=
  let s1 := s.putImage c 0 (s.imageHeader c)
  let s2 := (s1.ctx c).quadList.foldl (fun s k => s.saveQuad c k) s1
  let k := s2.ctx c
  s2.setCtx c { k with hasImage := true, imageQuads := k.quadList, imageDies := [], resident := maskOf k.dies }

/-- A context's image is written: it is SAVED or PARKED (Table 9-6). -/
def saveDone (s : State) (c : Nat) : State :=
  if (s.ctx c).state = .saving then
    let s1 := (s.writeImage c).leave c
    let k := s1.ctx c
    s1.setCtx c { k with state := if k.after = .parked then .parked else .saved }
  else s

/-! ### Coming back -/

/-- Windows of other contexts that are resident on a die and overlap the incoming one are saved first (R248). -/
def saveOverlaps (s : State) (c : Nat) : State :=
  let k := s.ctx c
  k.dies.foldl (fun s n =>
    ((s.contexts.filter fun p => p.1 != c && p.2.state != .free && bitAt p.2.resident n && p.2.held == 0 &&
        k.windowsMeet p.2).map (·.1)).foldl (fun s d => s.saveWindow d n) s) s

/-- Every granule of the window has the incoming context as its owner (R248). -/
def ownWindow (s : State) (c : Nat) : State :=
  let k := s.ctx c
  { s with granules := k.dies.foldl (fun t n => (List.range k.scrCount).foldl (fun t g =>
      tput t ((k.ptn * 8 + n) * 2048 + k.scrFirst + g) (c + 1)) t) s.granules }

/-- A context takes every quadrant of its set: a READY one runs, a SAVED one is restored (Table 9-6). -/
def bind (s : State) (c : Nat) : State :=
  let s1 := (s.saveOverlaps c).ownWindow c
  let k := s1.ctx c
  let s2 := s1.setCtx c { k with state := if k.hasImage then .restoring else .running, held := k.quads }
  k.quadList.foldl (fun s i => s.setQuad i { s.quad i with holder := some c }) s2

/-- The image's die for die `n` of a context: that of the quadrant which the lowest present quadrant of `n` was. -/
def imageDie (k : Context) (n : Nat) : Nat := ((k.imageDies.find? fun p => p.1 == n).map (·.2)).getD n

/-- Section entry `i` of an image: offset, length, CRC. -/
def sectionAt (s : State) (c i : Nat) : Nat × Nat × Nat :=
  let l := s.imageBytes c (0x1200 + 16 * i) 16
  (le l 0 8, le l 8 4, le l 12 4)

/-- The parts of the image of quadrant `old`, for the arrays of quadrant `k`. -/
def imageParts (s : State) (c old k : Nat) : List (Nat × Nat × Nat) :=
  (List.range 128).flatMap fun a => arrayParts (le (s.imageBytes c (0x8000 + 8 * (128 * old + a)) 8) 0 8) a (128 * k + a)

/-- Whether the bytes of every section that is read are those that were written (R247). -/
def imageGood (s : State) (c : Nat) : Bool :=
  let k := s.ctx c
  ((k.quadList.zip k.imageQuads).all fun p =>
    let e := s.sectionAt c p.2
    let data := (s.imageParts c p.2 p.1).flatMap fun q => s.imageBytes c (e.1 + q.1) q.2.2
    data.length == e.2.1 && crc32c data == e.2.2) &&
  k.dies.all fun n =>
    let m := imageDie k n
    (m == n && bitAt k.resident n) ||
    (let e := s.sectionAt c (32 + m)
     crc32c (s.imageBytes c e.1 e.2.1) == e.2.2)

/-- One array takes its state from the image, unless the context's work starts again. -/
def restoreArray (s : State) (c a word : Nat) : State :=
  let k := s.ctx c
  let y := s.arr a
  if k.dropArrays then s
  else s.setArr a { y with
    halves := [0, 1].map fun h => {
      loaded := bitAt word h, owner := c, load := (k.suspLoads.find? fun p => p.1 == a && p.2.1 == h).map (·.2.2) },
    slots := [0, 1, 2, 3].map fun i =>
      match fld word (3 + 2 * i) (2 + 2 * i) with
      | 0 => AccSlot.reset
      | n => { state := if n = 1 then .held else .draining, owner := c, tag := fld word (11 + 2 * i) (10 + 2 * i) },
    bound := (k.susp.filter fun p => p.1 == a).map (·.2),
    drains := (k.suspDrains.filter fun p => p.1 == a).map (·.2) }

/-- The image is read into the quadrants and, where the window is not resident, the dies (R248). -/
def readImage (s : State) (c : Nat) : State :=
  let k := s.ctx c
  let s1 := (k.quadList.zip k.imageQuads).foldl (fun s p =>
    let e := s.sectionAt c p.2
    let s2 := (s.imageParts c p.2 p.1).foldl (fun (s : State) q =>
      { s with mem := s.mem.writeAll q.2.1 (s.imageBytes c (e.1 + q.1) q.2.2) }) s
    (List.range 128).foldl (fun s a =>
      s.restoreArray c (128 * p.1 + a) (le (s.imageBytes c (0x8000 + 8 * (128 * p.2 + a)) 8) 0 8)) s2) s
  k.dies.foldl (fun (s : State) n =>
    let m := imageDie k n
    let e := s.sectionAt c (32 + m)
    if m = n ∧ bitAt k.resident n = true then s
    else { s with mem := s.mem.writeAll (scrKey k.ptn n (65536 * k.scrFirst)) (s.imageBytes c e.1 e.2.1) }) s1

/-- A restore ends: the sections' CRCs are checked; the context runs, or it is torn down (R247). -/
def restoreDone (s : State) (c : Nat) : State :=
  if (s.ctx c).state = .restoring ∧ s.unacked c 4 0 = false then
    if s.imageGood c then
      let s1 := s.readImage c
      s1.setCtx c { s1.ctx c with
        state := .running, susp := [], suspDrains := [], suspLoads := [], dropArrays := false, resident := 0 }
    else s.faultContext 6 c
  else s

/-! ### The end of a context -/

/-- Its arrays, engines and host accesses no longer work for a context; its slots and halves are FREE. -/
def idleArrays (s : State) (c : Nat) : State :=
  { s with
    arrays := tmap (fun _ x => { x with
      bound := x.bound.filter fun i => i.ctx != c, drains := x.drains.filter fun d => d.ctx != c,
      slots := x.slots.map fun k => if k.owner == c && k.state != .free then AccSlot.reset else k,
      halves := x.halves.map fun h => if h.owner == c && h.loaded then Half2.reset else h }) s.arrays
    dmas := tmap (fun _ y => if y.busy && y.ctx == c then { y with busy := false } else y) s.dmas
    plk := { s.plk with reads := s.plk.reads.filter fun h => h.ctx != c } }

/-- A context's work on units ends, and its quadrants and granules are no longer its own (Table 9-10, steps 3 and 5). -/
def freeArrays (s : State) (c : Nat) : State :=
  let s1 := s.idleArrays c
  { s1 with
    quads := tmap (fun _ z => if z.holder = some c then { z with holder := none } else z) s1.quads
    granules := s1.granules.filter fun p => p.2 != c + 1 }

/-! ### A teacher that computes blocks again (R28, R42, R44) -/

/-- A queue goes back to where it stood at the first gate of the step, or at a block's mark. -/
def queueBack (x : Queue) (p : Word × Nat) : Queue :=
  if x.ringLog2 = 0 then x
  else { x with
    head := p.1, done := p.1, window := p.2, cmds := [], chain := [], stepGate := false, gateFrom := p.1, gateWindow := p.2,
    gateBad := 0, gateMax := -128, gateSeen := false, passing := false, updating := false
    stepFrom := if (p.1 - x.stepFrom).toInt < 0 then p.1 else x.stepFrom
    stepWindow := if (p.1 - x.stepFrom).toInt < 0 then p.2 else x.stepWindow
    state := if x.state = .halted then .halted else if p.1 = x.tail then .idle else .active }

/-- Whether a place comes before another in some queue. -/
def markBefore (a b : BlockMark) : Bool := (a.queues.zip b.queues).any fun p => decide ((p.1.1 - p.2.1).toInt < 0)

/-- The earlier of two places, queue by queue; step, draws, counters and layer records are those of the place that comes before. -/
def markEarlier (a b : BlockMark) : BlockMark :=
  { (if markBefore a b then a else b) with
    queues := (a.queues.zip b.queues).map fun p => if (p.1.1 - p.2.1).toInt < 0 then p.1 else p.2 }

/-- The place where a channel's next block begins. -/
def nextMark (ch : Channel) : Option BlockMark := ch.marks.find? fun m => m.seq == ch.nextSeq

/-- The channels whose blocks a context produces. -/
def taught (s : State) (c : Nat) : List Nat := s.chansOf fun ch => (tget s.jobs ch.job).any fun j => j.teacherCtx == c

/-- A teacher goes back to the earliest of some places, unless it stands before them already: its queues run again from there, its
arrays hold nothing, its layers have the formats they had there, and what it computes again for blocks that a channel still has goes
nowhere (R28, Table 1-10; log entry 156). -/
def teacherBack (s : State) (c : Nat) (places : List BlockMark) : State :=
  let k := s.ctx c
  if places = [] ∨ k.state = .free ∨ k.state = .teardown then s
  else
    let here := s.markOf c none 0
    let p := places.foldl (fun a m => markEarlier m a) here
    let s1 := s.idleArrays c
    let s2 := s1.setCtx c { s1.ctx c with
      step := p.step, draws := p.draws, sync := p.sync, susp := [], suspDrains := [], suspLoads := [],
      dropArrays := k.state != .running && k.state != .ready
      wait := if k.state = .parked ∧ k.wait ≠ .none then .resume else k.wait
      queues := k.queues.zipIdx.map fun x => queueBack x.1 (p.queues.getD x.2 (0, 0)) }
    let s3 := if p.layers = [] then s2 else (s2.post (k.ltabAddr * 4096) p.layers).patchQueues c
    (s3.taught c).foldl (fun (s : State) i =>
      match tget s.channels i with
      | some ch =>
        let ms := ch.marks.filter fun m => decide ((m.seq - ch.nextSeq).toInt ≤ 0)
        s.setChan i { ch.discardFilling with marks := ms, skip := ((ms.drop 1).filter fun m => markBefore p m).length }
      | none => s) s3

/-- The teachers of some channels go back to where those channels' next blocks begin. -/
def teachersBack (s : State) (chans : List Nat) : State :=
  ((s.contexts.map (·.1)).filter fun c => (s.taught c).any fun i => chans.contains i).foldl (fun (s : State) c =>
    s.teacherBack c (((s.taught c).filter fun i => chans.contains i).filterMap fun i => (tget s.channels i).bind nextMark)) s

/-- The granules of a window that lie in no other live context's window are zeroed on every die (Table 9-10, step 5). -/
def zeroWindow (s : State) (c : Nat) : State :=
  let k := s.ctx c
  { s with mem := k.dies.foldl (fun m n => (List.range k.scrCount).foldl (fun (m : Memory) g =>
      let i := k.scrFirst + g
      if s.contexts.any fun p => p.1 != c && p.2.state != .free && p.2.ptn == k.ptn && bitAt (maskOf p.2.dies) n &&
          p.2.scrFirst ≤ i && i < p.2.scrFirst + p.2.scrCount then m
      else m.clear (scrKey k.ptn n (65536 * i)) (scrKey k.ptn n (65536 * (i + 1)))) m) s.mem }

/-- CONTEXT_FAULT records for dispatched commands without a final code; the rest is discarded (Table 9-10, step 4). -/
def faultRecords (s : State) (c : Nat) : State :=
  (List.range 4).foldl (fun s q =>
    ((s.queue c q).cmds.filter fun y => !y.final).foldl (fun s y =>
      if y.recorded then s else s.putRecord c q (completionRecord .contextFault y q (s.queueTime c q))) s) s

/-- The context's handle becomes stale and its index free (R344). -/
def freeContext (s : State) (c : Nat) : State :=
  { s with
    contexts := tdel s.contexts c, ctxHandles := s.ctxHandles.free c
    quads := tmap (fun _ z => { z with
      reserved := if z.reserved = some c then none else z.reserved, behind := z.behind.filter fun p => p.1 != c }) s.quads
    collectives := s.collectives.filter fun x => x.ctx != c }

/-- Firmware recreates the teacher context of its jobs in READY (Table 1-10), under a new handle, with its queues and registers,
and it resumes where the discarded blocks began. Where no index is free or its partition holds none of its quadrants any more, it
cannot be recreated (log entry 174): the jobs' channels become FAULTED, and firmware will close the jobs. -/
def recreateTeacher (s : State) (c : Nat) (k : Context) (handle : Nat) : State :=
  let mine := fun (j : Job) => j.teacherCtx == c && j.closing.isNone
  if !(s.jobs.any fun p => mine p.2) then s
  else
    match if (tget s.ptns k.ptn).any fun p => Nat.land p.quads k.quads != 0 then s.ctxHandles.take 512 else none with
    | some (i, h) =>
      let s1 := ({ s with ctxHandles := h } : State).setCtx i { Context.reset with
        state := .ready, ptn := k.ptn, critical := k.critical, tx2 := k.tx2, quads := k.quads, scrFirst := k.scrFirst,
        scrCount := k.scrCount, image := k.image, imagePages := k.imagePages, seed := k.seed, step := k.step, draws := k.draws,
        drawCursor := k.drawCursor, sync := k.sync, descAddr := k.descAddr, descCount := k.descCount, escHold := k.escHold,
        lrRecover := k.lrRecover, ltabAddr := k.ltabAddr, ltabCount := k.ltabCount,
        queues := k.queues.map fun x => { x with cmds := [], chain := [], state := if x.done = x.tail then .idle else .active } }
      let s2 : State := { s1 with jobs := tmap (fun _ x => if mine x then { x with
        teacherCtx := i, former := x.former ++ [handle] } else x) s1.jobs }
      s2.teacherBack i ((s2.taught i).filterMap fun n => (tget s2.channels n).bind nextMark)
    | none =>
      let s1 := (s.chansOf fun ch => (tget s.jobs ch.job).any mine).foldl (fun s i => s.chanFault i) s
      { s1 with jobs := tmap (fun _ x => if mine x then { x with failed := true } else x) s1.jobs }

/-- Firmware closes the jobs without a teacher that a context was the student of, once it leaves (Table 1-10). -/
def closeFailed (s : State) (c : Nat) : State :=
  (s.jobs.filter fun p => p.2.failed && p.2.studentCtx == c).foldl (fun (s : State) p => s.fwCloseJob p.1) s

/-- A job's student context is gone: a restore into a new context gives the job its student again (Table 1-10). -/
def loseStudent (s : State) (c handle : Nat) : State :=
  { s with jobs := tmap (fun _ j => if j.studentCtx = c then { j with
      studentCtx := 512, formerStudents := j.formerStudents ++ [handle] } else j) s.jobs }

/-- Steps 3 to 7 of Table 9-10. -/
def tearDown (s : State) (c : Nat) : State :=
  let k := s.ctx c
  if k.state = .teardown then
    let s1 := (s.faultRecords c).freeArrays c
    let s2 := ((s1.zeroWindow c).teacherFault c).studentLeaves c
    ((((s2.freeContext c).recreateTeacher c k (s.ctxHandle c)).closeFailed c).loseStudent c (s.ctxHandle c)).raiseEv evPtn 2
  else s

end State

end Sys2Proof.Machine
end

