-- ==== Sys2Proof/Machine/Frames.lean ====
section
/-! DEFINITION. The order of clips (R223, R224), and what a decoded clip's frames become: sampling, cropping, scaling and
patches (R220 to R222). -/

namespace Sys2Proof.Machine

/-! ### The permutation (R224) -/

/-- h: half the smallest even width of at least 2 that holds C. -/
def permHalf (c : Nat) : Nat :=
  (((List.range 33).find? fun h => 1 ≤ h && c ≤ 2 ^ (2 * h)).getD 32)

/-- Six rounds of the Feistel function. -/
def feistel (h x seed e : Nat) : Nat :=
  let r := (List.range 6).foldl (fun (p : Nat × Nat) i =>
    let c := 0x7FFFFF * 2 ^ 104 + e % 256 * 2 ^ 96 + i * 2 ^ 88 + p.2
    (p.2, Nat.xor p.1 (gen c seed % 2 ^ h))) (x / 2 ^ h, x % 2 ^ h)
  r.1 * 2 ^ h + r.2

/-- The walk along a cycle until it meets a number below C. `fuel` bounds the walk. -/
def feistelWalk (h c seed e : Nat) : Nat → Nat → Nat
  | 0, x => x
  | fuel + 1, x => if x < c then x else feistelWalk h c seed e fuel (feistel h x seed e)

/-- The clip of position `p` of epoch `e`. -/
def clipAt (p c seed e : Nat) : Nat :=
  let h := permHalf c
  feistelWalk h c seed e (2 ^ (2 * h)) (feistel h p seed e)

/-- A data cursor (Table 8-9). -/
def cursorOf (epoch pos token : Nat) : Nat := epoch % 256 * 2 ^ 56 + pos % 2 ^ 40 * 2 ^ 16 + token % 2 ^ 16

/-- The cursor of a padding position (R223). -/
def padCursor : Nat := 2 ^ 64 - 1

/-! ### Scaling (R221) -/

/-- A plane of samples: width, height, and the sample at a row and column. -/
structure Plane where
  w : Nat
  h : Nat
  at_ : Nat → Nat → Nat

/-- A plane from its samples, row by row. -/
def Plane.ofList (w h : Nat) (l : List Nat) : Plane := { w := w, h := h, at_ := fun y x => l.getD (y * w + x) 0 }

/-- The top field of a plane. -/
def Plane.top (p : Plane) : Plane := { w := p.w, h := p.h / 2, at_ := fun y x => p.at_ (2 * y) x }

/-- A part of a plane. -/
def Plane.cut (p : Plane) (x y w h : Nat) : Plane := { w := w, h := h, at_ := fun r c => p.at_ (y + r) (x + c) }

/-- The centre crop of a luma source to an output aspect: offset and size. -/
def cropBox (ws hs wd hd : Nat) : Nat × Nat × Nat × Nat :=
  if hs * wd < ws * hd then
    let wc := hs * wd / hd / 2 * 2
    ((ws - wc) / 4 * 2, 0, wc, hs)
  else
    let hc := ws * hd / wd / 2 * 2
    (0, (hs - hc) / 4 * 2, ws, hc)

/-- The box prefilter. -/
def Plane.box (p : Plane) (wd hd : Nat) : Plane :=
  let kx := Nat.max 1 (p.w / wd)
  let ky := Nat.max 1 (p.h / hd)
  { w := p.w / kx, h := p.h / ky,
    at_ := fun y x =>
      (((List.range ky).flatMap fun j => (List.range kx).map fun i => p.at_ (ky * y + j) (kx * x + i)).sum + kx * ky / 2) /
        (kx * ky) }

/-- The taps of output position `o`: the two source positions and the fraction. -/
def tap (o nin nout : Nat) : Nat × Nat × Nat :=
  let st := nin * 65536 / nout
  let pos := o * st + st / 2 - 32768
  let i := pos / 65536
  (i, Nat.min (i + 1) (nin - 1), pos / 256 % 256)

/-- A plane scaled to a size. -/
def Plane.scale (p : Plane) (wd hd : Nat) : Plane :=
  let b := p.box wd hd
  let hor := fun y x =>
    let t := tap x b.w wd
    b.at_ y t.1 * (256 - t.2.2) + b.at_ y t.2.1 * t.2.2
  { w := wd, h := hd,
    at_ := fun y x =>
      let t := tap y b.h hd
      (hor t.1 x * (256 - t.2.2) + hor t.2.1 x * t.2.2 + 32768) / 65536 }

/-- A sample in the output format: 8 bits for UINT8, 10 for UINT10. -/
def outSample (ten out10 : Bool) (v : Nat) : Nat :=
  if ten == out10 then v else if out10 then v * 4 else Nat.min 255 ((v + 2) / 4)

/-! ### Stream descriptors (Table 8-1) -/

/-- The fields of a stream descriptor that shape its tokens. -/
structure Shape where
  p : Nat
  chroma : Nat
  fmt : Nat
  wd : Nat
  hd : Nat
  stride : Nat
  phase : Nat
  flags : Nat
  maxFrames : Nat
  deriving DecidableEq, Repr

def Shape.ofBytes (l : List Byte) : Shape :=
  { p := 8 * 2 ^ fld (le l 0x13 1) 1 0, chroma := fld (le l 0x13 1) 3 2, fmt := fld (le l 0x13 1) 7 4, wd := le l 0x16 2,
    hd := le l 0x18 2, stride := le l 0x1A 1, phase := le l 0x1B 1, flags := le l 0x1C 1, maxFrames := le l 0x1E 2 }

/-- Tokens of one sampled frame (R222). -/
def Shape.perFrame (h : Shape) : Nat := h.wd / h.p * (h.hd / h.p)

/-- Elements of a token (R222). -/
def Shape.elems (h : Shape) : Nat :=
  if h.chroma = 0 then h.p * h.p * 3 / 2 else if h.chroma = 1 then 3 * h.p * h.p else h.p * h.p

/-- Bytes between token rows (R222). -/
def Shape.pitch (h : Shape) : Nat := roundUp (rowBytes h.fmt h.elems) 64

/-- The planes of a frame after deinterlacing and cropping (R220, R221). -/
def Shape.source (h : Shape) (planes : List (Nat × Nat × List Nat)) (interlaced : Bool) : List Plane :=
  let ps := planes.map fun x => Plane.ofList x.1 x.2.1 x.2.2
  let fs := if bitAt h.flags 1 && interlaced then ps.map Plane.top else ps
  match fs with
  | y :: rest =>
    if bitAt h.flags 0 then
      let b := cropBox y.w y.h h.wd h.hd
      y.cut b.1 b.2.1 b.2.2.1 b.2.2.2 :: rest.map fun c => c.cut (b.1 / 2) (b.2.1 / 2) (b.2.2.1 / 2) (b.2.2.2 / 2)
    else fs
  | [] => []

/-- The samples of a patch of a plane, row-major. -/
def Plane.patch (pl : Plane) (row col n : Nat) : List Nat :=
  (List.range n).flatMap fun j => (List.range n).map fun i => pl.at_ (row * n + j) (col * n + i)

/-- The tokens of one sampled frame (R222): packed rows, padded to the pitch. -/
def Shape.frameTokens (h : Shape) (f : List (Nat × Nat × List Nat) × Bool × Bool) : List (List Byte) :=
  let src := h.source f.1 f.2.1
  let planes := src.zipIdx.map fun p =>
    if p.2 = 0 ∨ h.chroma = 1 then p.1.scale h.wd h.hd else p.1.scale (h.wd / 2) (h.hd / 2)
  let used := if h.chroma = 2 then planes.take 1 else planes.take 3
  (List.range h.perFrame).map fun t =>
    let row := t / (h.wd / h.p)
    let col := t % (h.wd / h.p)
    let vs := used.zipIdx.flatMap fun p => p.1.patch row col (if p.2 = 0 ∨ h.chroma = 1 then h.p else h.p / 2)
    slice (packRow h.fmt (vs.map (outSample f.2.2 (h.fmt == 0xB)))) 0 h.pitch

/-- The tokens of a clip's frames (R220): the sampled frames, at most MAX_FRAMES. -/
def Shape.clipTokens (h : Shape) (frames : List (List (Nat × Nat × List Nat) × Bool × Bool)) : List (List Byte) :=
  ((frames.zipIdx.filter fun f => f.2 % Nat.max 1 h.stride == h.phase).take h.maxFrames).flatMap fun f => h.frameTokens f.1

/-! ### Shares of an epoch in a group (R297, R302) -/

/-- The ranges of an epoch's positions, as cursors, in replica order (R297). -/
def epochParts (epoch clips n : Nat) : List (List (Nat × Nat)) :=
  (List.range n).map fun r => [(epoch * 2 ^ 56 + r * clips / n * 2 ^ 16, epoch * 2 ^ 56 + (r + 1) * clips / n * 2 ^ 16)]

/-- The epoch that a stream's END_CURSOR ends, or where it starts. -/
def streamEpoch (st : Stream) : Nat := if le st.desc 0x40 8 = 0 then le st.desc 0x38 8 / 2 ^ 56 else (le st.desc 0x40 8 - 1) / 2 ^ 56

/-- The ranges in force: those derived, or those of R297. -/
def streamParts (st : Stream) (n : Nat) : List (List (Nat × Nat)) :=
  if st.parts = [] then epochParts (streamEpoch st) st.clips n else st.parts

/-- Firmware reopens a stream over a range of cursors; its handle and SEQ go on (log entry 34). -/
def reopenAt (st : Stream) (a b : Nat) : Stream :=
  { st with
    state := .running, window := [], gathered := [], uncounted := none, fetchPos := fld a 55 16, fetchEpoch := a / 2 ^ 56, start := a
    desc := slice st.desc 0 0x38 ++ leBytes 8 a ++ leBytes 8 b ++ slice st.desc 0x48 (st.desc.length - 0x48) }

/-- What a removed replica's remainder becomes (R302): of each range left from the cursor on, one piece for each survivor. -/
def cutPieces (rest : List (Nat × Nat)) (r n : Nat) : List (Nat × Nat) :=
  rest.filterMap fun p =>
    let k := p.2 / 2 ^ 16 - p.1 / 2 ^ 16
    let lo := if r = 0 then p.1 else (p.1 / 2 ^ 16 + r * k / n) * 2 ^ 16
    let hi := (p.1 / 2 ^ 16 + (r + 1) * k / n) * 2 ^ 16
    if lo < hi then some (lo, hi) else none

/-- What is left of a replica's ranges, in the order in which it takes them, from a cursor on: of the range in which the cursor lies,
and those after it. -/
def leftRanges : List (Nat × Nat) → Nat → List (Nat × Nat)
  | [], _ => []
  | p :: l, cur =>
    if p.1 ≤ cur ∧ cur < p.2 then (cur, p.2) :: l
    else if l.any fun q => q.1 ≤ cur ∧ cur < q.2 then leftRanges l cur
    else if p.2 = cur then l
    else if l.any fun q => q.2 = cur then leftRanges l cur
    else p :: l

/-- Replica `x` of `n` leaves an epoch at a cursor (R302). -/
def dropReplica (st : Stream) (x n cur : Nat) : Stream :=
  let ps := streamParts st n
  let rest := leftRanges (ps.getD x []) cur
  { st with parts := (ps.eraseIdx x).zipIdx.map fun (l, r) => l ++ cutPieces rest r (n - 1) }

/-! ### Consumers of token blocks (R228) -/

namespace Stream

/-- A field of the descriptor. -/
def d (st : Stream) (off n : Nat) : Nat := le st.desc off n

/-- What shapes the tokens. -/
def shape (st : Stream) : Shape := Shape.ofBytes st.desc

/-- Bytes of a ring slot: rows, cursors and record, in whole pages (R227). -/
def slotBytes (st : Stream) : Nat := roundUp (st.d 0x14 2 * (st.shape.pitch + 8) + 64) 65536

end Stream

namespace State

/-- The consumers of a stream: their handles, fill counters and free counters. -/
def consumersOf (st : Stream) : List (Nat × Nat × Nat) :=
  (st.d 8 4, fld (st.d 0x10 1) 2 0, fld (st.d 0x10 1) 5 3) ::
  (if st.d 0xC 4 = 0 then [] else [(st.d 0xC 4, fld (st.d 0x11 1) 2 0, fld (st.d 0x11 1) 5 3)])

/-- The context that a consumer's handle names, or, where a context of a job was torn down and has a
successor, that one (Table 1-10, Table 8-12). -/
def heirOf (s : State) (h : Nat) : Option Nat :=
  (s.ctxOf h).orElse fun _ => s.jobs.findSome? fun j =>
    if j.2.former.contains h then some j.2.teacherCtx
    else if j.2.formerStudents.contains h && j.2.studentCtx < 512 then some j.2.studentCtx else none

/-- A ring slot's block record tells the cursor of its first token (Table 8-10). -/
def slotCursor (s : State) (st : Stream) (b : Word) : Nat :=
  le (s.fwRead (st.d 0x20 8 + b.toNat % Nat.max 1 (st.d 0x12 1) * st.slotBytes + st.d 0x14 2 * (st.shape.pitch + 8)) 8) 0 8

/-- The count of the oldest block of a stream that some consumer has not released. -/
def oldestUnreleased (s : State) (st : Stream) : Word :=
  ((consumersOf st).filterMap fun h => (s.heirOf h.1).map fun c => (s.ctx c).sync.getD h.2.2 0).foldl
    (fun (m : Word) f => if (f - m).toInt < 0 then f else m) st.nextSeq

/-- The cursor of block `b` of a stream, the next one to write included. -/
def blockCursor (s : State) (st : Stream) (b : Word) : Nat := if b = st.nextSeq then st.start else s.slotCursor st b

/-- The cursor of the oldest token block that a context has not released, if it consumes a stream (R228). -/
def consumedCursor (s : State) (c : Nat) : Option Nat :=
  s.streams.findSome? fun x => ((consumersOf x.2).find? fun h => s.heirOf h.1 == some c).map fun h =>
    s.blockCursor x.2 ((s.ctx c).sync.getD h.2.2 0)

/-- Whether a sync counter of a context is its free counter of a stream. -/
def freesBlock (s : State) (c n : Nat) : Bool :=
  s.streams.any fun x => (consumersOf x.2).any fun h => s.heirOf h.1 == some c && h.2.2 == n

/-- Whether a context is the student of a job. -/
def isStudent (s : State) (c : Nat) : Bool := s.jobs.any fun j => j.2.studentCtx == c

/-- A block starts in an emulated context: firmware sets the draw counter from the block's data cursor, which a student has from its
losses, another context from the token block it consumes (R148; log entry 157). -/
def startBlock (s : State) (c : Nat) : State :=
  let k := s.ctx c
  if k.tx2 then
    let cur := if s.isStudent c then k.drawCursor else ((s.consumedCursor c).map (BitVec.ofNat 64)).getD k.drawCursor
    s.setCtx c { k with draws := Config.drawsPerBlock c * Config.blockOrdinal cur }
  else s

end State

end Sys2Proof.Machine
end

