-- ==== Sys2Proof/Machine/Gates.lean ====
section
/-! DEFINITION. Layer gates and step gates (R138 to R146, R176, R296, R313, R314): escalation and descent, skipped steps, the
per-step patches, and the step-end report. -/

namespace Sys2Proof.Machine

namespace State

/-- The sums that EVENT COUNTER words of the layer added are taken back, since the repeat adds them again (log entry 27). -/
def uncount (s : State) (c q : Nat) (gate : Word) : State :=
  let x := s.queue c q
  (s.ringWords c q x.gateFrom (gate - x.gateFrom).toNat).foldl (fun s w =>
    if fld w 5 0 = 12 ∧ fld w 18 16 = 0 then
      let k := s.ctx c
      s.setCtx c { k with sync := lmod k.sync (fld w 21 19) fun v => v - BitVec.ofNat 32 (fld w 37 22) }
    else s) s

/-- A queue runs its layer again from the first command, and its draws from the same counter (R138, Table 5-8 step 5, R148). -/
def rewindLayer (s : State) (c q : Nat) (gate : Word) : State :=
  let s1 := s.uncount c q gate
  let x := s1.queue c q
  let s2 := s1.setCtx c { s1.ctx c with draws := x.gateDraws }
  s2.setQueue c q { x with
    head := x.gateFrom, done := x.gateFrom, window := x.gateWindow, cmds := [], chain := [], state := .active, gateBad := 0,
    gateMax := -128, gateSeen := false }

/-! ### Gates -/

/-- The first EVENT of a queue that holds it GATED, of a kind: 1 GATE, 2 STEP. -/
def heldEvent (s : State) (c q kind : Nat) : Option Cmd :=
  if (s.queue c q).state = .gated then
    (s.queue c q).cmds.find? fun y => y.started && y.result.isNone && cmdOpcode y.word == 12 && fld y.word.toNat 18 16 == kind
  else none

/-- The body of an EVENT or FENCE record: the counter's value, the layer of a GATE (Table 6-20). -/
def eventBody (s : State) (c : Nat) (w : Nat) : List Byte :=
  let cnt := if fld w 5 0 = 11 then fld w 20 18 else fld w 21 19
  leBytes 4 (((s.ctx c).sync.getD cnt 0).toNat) ++
  leBytes 4 (if fld w 5 0 = 12 ∧ fld w 18 16 = 1 then fld w 53 38 else 0) ++ zeros 8

/-- The next GATE of a queue from the first command of its layer on, and its count. -/
def gateAhead (s : State) (c q : Nat) : Option (Word × Nat) :=
  let x := s.queue c q
  let ws := s.ringWords c q x.gateFrom (x.tail - x.gateFrom).toNat
  (ws.zipIdx.find? fun p => fld p.1 5 0 == 12 && fld p.1 18 16 == 1).map fun p => (x.gateFrom + BitVec.ofNat 32 p.2, p.1)

/-- A queue's next layer begins after count `idx`; from there its draws would run again (R138, R148). -/
def startLayer (s : State) (c q : Nat) (idx : Word) : State :=
  let x := s.queue c q
  s.setQueue c q { x with
    state := .active, gateSeen := false, updating := false, gateFrom := idx + 1, gateWindow := x.window, gateBad := 0,
    gateMax := -128, gateDraws := (s.ctx c).draws }

/-- After the layer of GATE `w` the queue's next layer begins. Where a student's forward layer follows a backward one, a block starts
(log entry 157). -/
def nextLayer (s : State) (c q : Nat) (idx : Word) (w : Nat) : State :=
  let s1 := s.startLayer c q idx
  if (s1.ctx c).tx2 && s1.isStudent c && bitAt w 54 && (s1.gateAhead c q).any (fun g => !bitAt g.2 54) then (s1.startBlock c).startLayer c q idx
  else s1

/-- Whether a layer's gradients enter a group reduction (R140). -/
def reducedLayer (s : State) (c layer : Nat) : Bool :=
  (s.ctx c).ringLog2 != 0 && (s.layerOf c layer).any fun p => bitAt p.2.flags 0

/-- The group controller releases a GATE: the event completes, dispatch resumes. A first gate of a reduced layer leaves the
layer's first command in place; the last one reports the largest exponent of the layer's gradients as it ran last (R145). A reduced
layer reports that of its reduced gradients (R144, log entry 171), and updates are no layer's. -/
def releaseGate (s : State) (c q : Nat) (y : Cmd) (first : Bool) : State :=
  let body := s.eventBody c y.word.toNat
  let s1 := s.modCmd c q y.index fun z => { z with result := some .ok, body := body }
  let x := s1.queue c q
  if first then s1.setQueue c q { x with state := .active, gateSeen := true }
  else
    let s2 := s1.nextLayer c q y.index y.word.toNat
    let k := s2.ctx c
    s2.setCtx c { k with
      attempt := 0,
      layerReports := if bitAt y.word.toNat 54 && !x.updating && !s1.reducedLayer c (fld y.word.toNat 53 38) then
          k.layerReports ++ [(fld y.word.toNat 53 38, 0, x.gateMax)]
        else k.layerReports }

/-- A layer without a wider format: it keeps its format with HOLD set, and asks for the step to be skipped (R143). -/
def askSkip (s : State) (c i : Nat) (r : LayerRec) : State :=
  let k := s.ctx c
  (s.setCtx c { k with
    skipReq := true, heldNow := k.heldNow ++ [r.layer],
    stepStatus := k.stepStatus ||| BitVec.ofNat 32 (r.layer + 2 ^ 19) }).putLayer c i { r with hold := k.escHold * 2 ^ r.doublings }

/-- The layer's record after an escalation (R142). -/
def escalatedRec (k : Context) (r : LayerRec) (fmt : Nat) : LayerRec :=
  let n := if k.descended.contains r.layer && r.hold > 0 then Nat.min 4 (r.doublings + 1) else r.doublings
  { r with cur := fmt, doublings := n, hold := k.escHold * 2 ^ n, count := satAdd 16 r.count 1 }

/-- An escalation is recorded (Table 5-8, steps 4 and 5): log record, event, numerics record, attempt. -/
def noteEscalation (s : State) (c i : Nat) (pass : Bool) (r : LayerRec) (fmt : Nat) : State :=
  let k := s.ctx c
  let s2 := if s.ckpPtn = some k.ptn then
      s.logPut 3 Status.formatEscalated.code 0 k.step.toNat (leBytes 2 r.layer ++ leBytes 1 (b2n pass) ++
        leBytes 1 (r.cur + 16 * fmt) ++ leBytes 1 (k.attempt + 1))
    else s
  let s3 := (s2.raiseEv evNum 0).putLayer c i (escalatedRec k r fmt)
  let k := s3.ctx c
  s3.setCtx c { k with
    attempt := k.attempt + 1, escalations := satAdd 16 k.escalations 1, heldNow := k.heldNow ++ [r.layer],
    descended := k.descended.filter (· != r.layer) }

/-- The address of entry `x` of a context's collective ring. -/
def crAt (s : State) (c : Nat) (x : Word) : Nat :=
  let k := s.ctx c
  k.ringAddr * 4096 + 64 * (x.toNat % 2 ^ k.ringLog2)

/-- The collectives of a layer that have not started take its gradient format as FMT_IN (Table 5-8 step 3, Table 11-8). -/
def setFmtIn (s : State) (c layer fmt : Nat) : State :=
  let k := s.ctx c
  if k.ringLog2 = 0 then s
  else
    (List.range (k.ringTail - k.ringHead).toNat).foldl (fun s i =>
      let a := s.crAt c (k.ringHead + BitVec.ofNat 32 i)
      let f := le (s.fwRead (a + 9) 1) 0 1
      if le (s.fwRead (a + 0x0E) 2) 0 2 = layer ∧ f % 16 ≠ fmt then s.post (a + 9) (leBytes 1 (setFld f 3 0 fmt)) else s) s

/-- An escalation changes what is queued: the words, and the collectives of a reduced backward pass (Table 5-8, step 3). -/
def escalateQueued (s : State) (c q : Nat) (backward : Bool) (r : LayerRec) (fmt : Nat) : State :=
  let s1 := s.escalateWords c q r.layer backward
  if backward && bitAt r.flags 0 then s1.setFmtIn c r.layer fmt else s1

/-- A layer escalates (Table 5-8, steps 3 to 5): words, records, event; its teacher's block will carry ESCALATED. -/
def escalate (s : State) (c q : Nat) (y : Cmd) (i : Nat) (r : LayerRec) (fmt : Nat) : State :=
  let pass := bitAt y.word.toNat 54
  let s4 := (s.escalateQueued c q pass r fmt).noteEscalation c i pass r fmt
  ((s4.chansOf fun ch => (tget s4.jobs ch.job).any fun j => j.teacherCtx == c).foldl
    (fun s n => s.modChan n fun ch => { ch with escalated := true }) s4).rewindLayer c q y.index

/-! ### Recompute (R141, R332) -/

/-- The restore that a context's steps are recomputed for. -/
def replayOf (s : State) (c : Nat) : Option Replay := if s.ckpPtn = some (s.ctx c).ptn then s.ckp.replay else none

/-- The logged record of a type and step. -/
def logged (r : Replay) (ty step : Nat) : Option (List Byte) := r.log.find? fun l => le l 0 1 == ty && le l 0x10 4 == step

/-- Whether the logged STEP_START of a step says that the step before was skipped: that step is not run. -/
def loggedSkip (r : Replay) (step : Nat) : Bool := (logged r 1 step).any fun l => le l 0x32 1 == 1

/-- The logged escalations of a layer's pass in a step, in order. -/
def loggedEsc (r : Replay) (step layer : Nat) (pass : Bool) : List (List Byte) :=
  r.log.filter fun l => le l 0 1 == 3 && le l 0x10 4 == step && le l 0x1C 2 == layer && le l 0x1E 1 == b2n pass

/-- The format that a logged escalation out of a layer's present format takes. -/
def nextLogged (s : State) (c : Nat) (r : Replay) (rec_ : LayerRec) (pass : Bool) : Option Nat :=
  ((loggedEsc r (s.ctx c).step.toNat rec_.layer pass).find? fun l => le l 0x1F 1 % 16 == rec_.cur).map fun l => le l 0x1F 1 / 16

/-- The status word that the step's logged STEP_END gives a replayed escalation: the reports that led to it, which the recompute does
not make again (R332; log entry 172). -/
def loggedReport (r : Replay) (step : Nat) (reduced : Bool) : Nat :=
  let w := ((logged r 2 step).map fun l => le l 0x24 4).getD 0
  if reduced then w % 2 ^ 19 else fld w 17 16 * 2 ^ 16

/-- A logged escalation is applied (R141): it changes what is queued and the layer's record, and the step's status word has its
report. -/
def replayEsc (s : State) (c q : Nat) (r : Replay) (pass : Bool) (i : Nat) (rec_ : LayerRec) (fmt : Nat) : State :=
  let s1 := (s.escalateQueued c q pass rec_ fmt).noteEscalation c i pass rec_ fmt
  let k := s1.ctx c
  s1.setCtx c { k with
    stepStatus := k.stepStatus ||| BitVec.ofNat 32 (loggedReport r k.step.toNat (pass && s.reducedLayer c rec_.layer)) }

/-- Logged escalations of the layer that a queue comes to are applied before its first pass (R141, R332). -/
def replayAhead (s : State) (c q : Nat) : State :=
  match s.replayOf c, s.gateAhead c q with
  | some r, some (_, w) =>
    let pass := bitAt w 54
    (loggedEsc r (s.ctx c).step.toNat (fld w 53 38) pass).foldl (fun (s : State) l =>
      match s.layerOf c (fld w 53 38) with
      | some (i, rec_) => if le l 0x1F 1 % 16 = rec_.cur then s.replayEsc c q r pass i rec_ (le l 0x1F 1 / 16) else s
      | none => s) s
  | _, _ => s

/-- A logged step that is not run changes h and the layer records as it did then (R143, R332): its escalations are recorded, and the
layer that caused the skip has its HOLD. -/
def replaySkipped (s : State) (c : Nat) : State :=
  match s.replayOf c with
  | none => s
  | some r =>
    let n := (s.ctx c).step.toNat
    let s1 := (r.log.filter fun l => le l 0 1 == 3 && le l 0x10 4 == n).foldl (fun (s : State) l =>
      match s.layerOf c (le l 0x1C 2) with
      | some (i, rec_) =>
        if le l 0x1F 1 % 16 = rec_.cur then s.noteEscalation c i (le l 0x1E 1 == 1) rec_ (le l 0x1F 1 / 16) else s
      | none => s) s
    let s2 := match (logged r 5 n).bind fun l => s1.layerOf c (le l 0x1C 2) with
      | some (i, rec_) => s1.putLayer c i { rec_ with hold := (s1.ctx c).escHold * 2 ^ rec_.doublings }
      | none => s1
    match logged r 2 n with
    | some l => s2.setCtx c { s2.ctx c with stepStatus := BitVec.ofNat 32 (le l 0x24 4) }
    | none => s2

/-- A step that is not run: its queue goes on at the step's STEP event (R332). -/
def jumpStep (s : State) (c q : Nat) : State :=
  let x := s.queue c q
  let ws := s.ringWords c q x.done (x.tail - x.done).toNat
  match ws.zipIdx.find? fun p => fld p.1 5 0 == 12 && fld p.1 18 16 == 2 with
  | some p =>
    let i := x.done + BitVec.ofNat 32 p.2
    s.setQueue c q { x with head := i, done := i, cmds := [], chain := [], state := .active, gateBad := 0, gateMax := -128 }
  | none => s

/-- The address that stands for firmware's own restore (R347), which has no request to complete. -/
def ownRestoreAddr : Nat := 2 ^ 64

/-- A restore ends (Table 12-6 step 7, R330): its completion, and with OK its RESTORE record and event. After a
DIGEST_MISMATCH the partition's contexts never start. -/
def restoreOver (s : State) (addr : Nat) (st : Status) (detail reached bad ident steps : Nat) (ptn : Option Nat) : State :=
  let s1 := if addr = ownRestoreAddr then s else
    s.post (addr + 0x30) (leBytes 1 st.code ++ leBytes 1 detail ++ zeros 2 ++ leBytes 4 reached ++ leBytes 4 bad ++ zeros 4)
  if st = .ok then
    let s2 := (s1.logPut 0xA 0 0 reached (leBytes 4 ident ++ leBytes 4 steps ++ leBytes 1 0)).raiseEv evCkp 10
    let next := (s.ckp.replay.bind fun r => logged r 1 (reached + 1)).map fun l => (reached, l)
    { s2 with ckp := { s2.ckp with replay := none, opening := if steps = 0 then none else next } }
  else
    let s2 := { s1 with ckp := { s1.ckp with replay := none } }
    (s2.contexts.filter fun p => some p.2.ptn == ptn && p.2.state != .free && p.2.state != .teardown).foldl (fun (s : State) p =>
      let s3 := if (s.ctx p.1).state = .running then ((s.beginSave p.1 4 .saved).finishDrains p.1).saveDone p.1 else s
      s3.setCtx p.1 { s3.ctx p.1 with barred := true, state := .saved, wait := .none }) s2

/-! ### The reduction status word (Table 11-7, Table 11-8) -/

/-- The first entry with a layer id among `n` entries from `lo` on. -/
def crFind (s : State) (c layer : Nat) (lo : Word) (n : Nat) : Option Word :=
  ((List.range n).map fun i => lo + BitVec.ofNat 32 i).find? fun x => le (s.fwRead (s.crAt c x + 0x0E) 2) 0 2 == layer

/-- The last entry with a layer id among the `n` entries before `hi`. -/
def crFindBack (s : State) (c layer : Nat) (hi : Word) (n : Nat) : Option Word :=
  ((List.range n).map fun i => hi - BitVec.ofNat 32 (i + 1)).find? fun x => le (s.fwRead (s.crAt c x + 0x0E) 2) 0 2 == layer

/-- The local status word that a first gate writes (Table 11-8, step 2). -/
def writeStatusIn (s : State) (c q : Nat) (r : LayerRec) : State :=
  let k := s.ctx c
  match s.crFind c r.layer k.ringHead (k.ringTail - k.ringHead).toNat with
  | some e =>
    let x := s.queue c q
    s.post (s.crAt c e + 0x34) (leBytes 4 (r.layer + 2 ^ 16 * (x.gateBad % 4) + 2 ^ 20 * r.cur + 2 ^ 24 * (k.attempt % 16)))
  | none => s

/-- The engine goes back to an entry for another attempt in a wider format (Table 11-8, step 4). -/
def rewindCollective (s : State) (c : Nat) (e : Word) (fmt attempt : Nat) : State :=
  let a := s.crAt c e
  let f := le (s.fwRead (a + 9) 1) 0 1
  let w := le (s.fwRead (a + 0x34) 4) 0 4
  let cnt := fld (le (s.fwRead (a + 0x28) 1) 0 1) 5 3
  let s1 := (s.post (a + 9) (leBytes 1 (setFld f 3 0 fmt))).post (a + 0x34)
    (leBytes 4 (setFld (setFld (setFld w 27 24 attempt) 23 20 fmt) 18 16 0))
  let k := s1.ctx c
  s1.setCtx c { k with
    ringHead := e
    layerReports := k.layerReports.filter fun p => p.2.1 == 0 || decide ((BitVec.ofNat 32 (p.2.1 - 1) - e).toInt < 0)
    sync := lmod k.sync cnt fun v => v - BitVec.ofNat 32 (k.ringHead - e).toNat }

/-- A member's second gate of a reduced layer: the decision falls on the reduced word alone (R140, R307). -/
def secondGate (s : State) (c q : Nat) (y : Cmd) (i : Nat) (r : LayerRec) : State :=
  let k := s.ctx c
  match s.crFindBack c r.layer k.ringHead (2 ^ k.ringLog2) with
  | none => s.releaseGate c q y false
  | some e =>
    let w := le (s.fwRead (s.crAt c e + 0x3C) 4) 0 4
    if fld w 18 16 = 0 then s.releaseGate c q y false
    else
      let s1 := s.setCtx c { k with stepStatus := k.stepStatus ||| BitVec.ofNat 32 (w % 2 ^ 19) }
      match nextWithin k.tx2 r.cur r.ceil with
      | none => (s1.askSkip c i r).releaseGate c q y false
      | some f => (s1.rewindCollective c e f (k.attempt + 1)).escalate c q y i r f

/-- Where a context stands as it passes the first gate of its step, gate `y` of queue `q`, and the SEQ its channels go on
with: a restart of the step comes back there (R301, log entry 35). -/
def markStep (s : State) (c q : Nat) (y : Cmd) : State :=
  let k := s.ctx c
  if k.atStep then
    let p : StepPoint := {
      sync := k.sync, ringHead := k.ringHead,
      queues := k.queues.zipIdx.map fun (x, i) => if i = q then (y.index + 1, x.window) else (x.done, x.window) }
    (s.chansOf fun ch => (tget s.jobs ch.job).any fun j => j.studentCtx == c).foldl (fun s i =>
      s.modChan i fun ch => { ch with
        stepSeq := (ch.firstSeq fun st => st == .full || st == .consuming).getD ch.nextSeq })
      (s.setCtx c { k with atStep := false, point := some p })
  else s

/-- A context stands at its capture gate (Table 12-3, step 1). The first one begins the checkpoint: its id and step, CAPTURING. -/
def holdAtCapture (s : State) (c : Nat) : State :=
  let k := if s.ckp.state = .capturing then s.ckp else { s.ckp with
    state := .capturing, ident := s.ckp.ident + 1, step := s.ckp.dueStep, forced := s.ckp.full, cut := false, shards := [] }
  { s with ckp := { k with captureHeld := if k.captureHeld.contains c then k.captureHeld else k.captureHeld ++ [c] } }

/-- A gate that a layer reaches (R138, R140, R317). In a recompute logged escalations act, and detection does not (R141). The first
gate after a STEP ends the step's updates, which are no layer (R317; log entry 173). -/
def passGate (s : State) (c q : Nat) : State :=
  match s.heldEvent c q 1 with
  | none => s
  | some y =>
    let k := s.ctx c
    if k.state ≠ .running then s
    else if k.captureDue then s.holdAtCapture c
    else if (s.ctx c).atStep = true ∧ (s.replayOf c).any (fun r => loggedSkip r (k.step.toNat + 1)) = true then
      (s.setCtx c { k with atStep := false }).jumpStep c q
    else
      let x := s.queue c q
      let s0 := (s.setQueue c q { x with passing := false }).markStep c q y
      match if x.updating then none else s0.layerOf c (fld y.word.toNat 53 38) with
      | none => s0.releaseGate c q y false
      | some (i, r) =>
        let reduced := bitAt r.flags 0 && bitAt y.word.toNat 54 && k.ringLog2 != 0
        if (s0.replayOf c).isSome && !(reduced && !x.gateSeen) then
          match (s0.replayOf c).bind fun p => s0.nextLogged c p r (bitAt y.word.toNat 54) with
          | some f =>
            let e := if reduced then s0.crFindBack c r.layer k.ringHead (2 ^ k.ringLog2) else none
            match e with
            | some e => (s0.rewindCollective c e f (k.attempt + 1)).escalate c q y i r f
            | none => s0.escalate c q y i r f
          | none => s0.releaseGate c q y false
        else if reduced then
          if x.gateSeen then s0.secondGate c q y i r else (s0.writeStatusIn c q r).releaseGate c q y true
        else if x.gateBad = 0 then s0.releaseGate c q y false
        else
          let k0 := s0.ctx c
          let s1 := s0.setCtx c { k0 with stepStatus := k0.stepStatus ||| BitVec.ofNat 32 (2 ^ 16 * (x.gateBad % 4)) }
          match nextWithin k.tx2 r.cur r.ceil with
          | some f => s1.escalate c q y i r f
          | none => (s1.askSkip c i r).releaseGate c q y false

/-- A gate that a layer reaches; one that is released in a recompute looks ahead to the next layer. -/
def layerGate (s : State) (c q : Nat) : State :=
  let s1 := s.passGate c q
  if (s1.queue c q).gateFrom = (s.queue c q).gateFrom then s1 else s1.replayAhead c q

/-! ### Steps -/

/-- The channel whose blocks give a context's loss, soft-target kind first. -/
def softChannel (s : State) (c : Nat) : Option Channel :=
  ((s.channels.filter fun p => (tget s.jobs p.2.job).any fun j => j.studentCtx == c).map (·.2)).find? fun ch => !ch.feature

/-- The FP32 sum of a step's block losses in the order of R39, one addition at a time (R429). -/
def stepLoss (k : Context) : Nat :=
  f32Bits ((sortBy (fun a b => a.1 < b.1 || (a.1 == b.1 && a.2.1 ≤ b.2.1)) k.losses).foldl
    (fun acc p => fadd acc (f32Of p.2.2)) Num.zero)

/-- The STEP_END record of a context's step (Table 12-2, R313). -/
def stepEndLog (s : State) (c : Nat) : State :=
  let k := s.ctx c
  if s.ckpPtn = some k.ptn then
    let g := s.group (k.quadList.headD 0 / 4)
    let seq := match s.softChannel c with
      | some ch => ((ch.firstSeq fun st => st == .full || st == .consuming).getD ch.nextSeq).toNat
      | none => 0
    let s1 := s.logPut 2 0 0 k.step.toNat (leBytes 8 k.drawCursor.toNat ++ leBytes 4 k.stepStatus.toNat ++ leBytes 4 seq ++
      leBytes 4 (g.slot + 64 * (g.frames % 2 ^ 26)) ++ leBytes 4 (stepLoss k) ++ leBytes 2 s.ckp.stepSkips)
    { s1 with ckp := { s1.ckp with stepSkips := 0, endLsn := s1.ckp.lsn } }
  else s

/-- The compute members of the roster. One declared lost is no longer of it (R301). -/
def computeMembers (s : State) : List Nat :=
  (s.net.members.filter fun p => p.2.role == 0 && p.2.state != 2 && p.2.state != 3).map (·.1)

/-- Whether the step that completes is the LR_RECOVER-th in a row, so that h falls (R143). -/
def recovers (k : Context) : Bool := k.lrRecover != 0 && decide (k.lrRecover ≤ k.sinceRecover + 1)

/-- Whether a compute member is in PAUSED: the group stands at its STEP gates (R408). -/
def groupPaused (s : State) : Bool := s.computeMembers.any fun m => (tget s.net.members m).any (·.paused)

/-- Once every compute member has reported and none is in PAUSED, the master forms the next step-start record and sends it to the deputy (R296).
The cursors of other replicas are free values: the spec does not give how the master advances them. -/
def formRecord (s : State) : State :=
  let step := s.net.step
  let reps := s.net.reports
  if s.net.state = .running ∧ s.net.self = s.net.master ∧ s.net.sentToDeputy = false ∧ s.net.stopped = false ∧
      s.net.holdFor = none ∧ s.groupPaused = false ∧
      (s.computeMembers.all fun m => reps.any fun p => p.1 == m) = true ∧ reps ≠ [] then
    let w := reps.foldl (fun a p => a ||| p.2) (0 : Word)
    let skip := bitAt w.toNat 19
    let me := (s.contexts.find? fun p => p.2.queues.any fun x => x.stepGate).map (·.2)
    let h := (me.map (·.lrH)).getD 0
    let mine := ((tget s.net.members s.net.self).map (·.replica)).getD 0
    let rec_ : StepRecord := {
      step := step + 1, term := s.net.term, gen := s.net.gen, decision := b2n skip,
      seed := (me.map (·.seed)).getD 0, lrH := if skip then Nat.min 20 (h + 1) else if me.any recovers then h - 1 else h,
      notices := s.net.notices
      cursors := (List.range s.net.replicas).map fun i =>
        if i = mine then (me.map (·.drawCursor)).getD 0 else Config.freeValue 64 (s.free + i) }
    ({ s with
      free := s.free + s.net.replicas
      net := { s.net with record := some rec_, sentToDeputy := true, reports := [] } } : State).sendNet
      (.stepStart s.net.groupId s.net.deputy rec_)
  else s

/-- A member's step-end report reaches the master, or the deputy that is taking over, which ORs it with what the member has reported
for the step (R296). -/
def takeReport (s : State) (m : Nat) (step status : Word) : State :=
  if (s.net.self = s.net.master ∨ s.net.state = .failover ∧ s.net.self = s.net.deputy) ∧ s.net.step = step then
    let old := ((s.net.reports.find? fun p => p.1 == m).map (·.2)).getD 0
    ({ s with net := { s.net with reports := (s.net.reports.filter fun p => p.1 != m) ++ [(m, old ||| status)] } } : State).formRecord
  else s

/-- The OR of the step status words of the contexts that stand at the gate of a step (R296). -/
def memberStatus (s : State) (step : Word) : Word :=
  (s.contexts.filter fun p => p.2.step == step && p.2.queues.any fun q => q.stepGate).foldl (fun w p => w ||| p.2.stepStatus) 0

/-- Whether every context of the member that runs the step stands at its STEP gate, so that the member reports (R296): those that have
passed a STEP event, and the students of jobs (log entry 199). -/
def stepDone (s : State) (step : Word) : Bool :=
  (s.contexts.filter fun p => p.2.step == step && p.2.state != .free && p.2.state != .teardown &&
    (p.2.point.isSome || s.jobs.any fun j => j.2.studentCtx == p.1)).all fun p => p.2.queues.any fun q => q.stepGate

/-- At a STEP_END of a recompute the loss and status word are compared with the logged ones; the last step ends the
restore (R332). `t` is the state with the new record. -/
def replayCheck (s : State) (c : Nat) (t : State) : State :=
  let k := s.ctx c
  let step := k.step.toNat
  match s.replayOf c with
  | none => t
  | some r =>
    let t1 := { t with ckp := { t.ckp with replay := some { r with steps := r.steps + 1 } } }
    let last := r.target ≤ step || (logged r 1 (step + 1)).isNone
    match logged r 2 step with
    | none => t1
    | some l =>
      if loggedSkip r (step + 1) = false ∧ (le l 0x30 4 ≠ stepLoss k ∨ le l 0x24 4 ≠ k.stepStatus.toNat) then
        ((t1.undefineRegions k.ptn).restoreOver r.addr .digestMismatch 4 step step r.ident r.steps (s.ckpPtn)).raiseEv evCkp 9
      else if last then t1.restoreOver r.addr .ok 0 step 0 r.ident (r.steps + 1) s.ckpPtn
      else t1

/-- A context reaches a STEP event: its STEP_END record, and in a group, once the member's other contexts have, the step-end report
(R296, R313). -/
def stepEnd (s : State) (c : Nat) : State :=
  let s1 := s.replayCheck c (s.stepEndLog c)
  let k := s1.ctx c
  if s1.net.state = .solo ∨ (s1.replayOf c).isSome = true ∨ s1.stepDone k.step = false then s1
  else
    let status := k.stepStatus ||| s1.memberStatus k.step
    if s1.net.self = s1.net.master then s1.takeReport s1.net.self k.step status
    else s1.sendNet (.stepEnd s1.net.groupId s1.net.master s1.net.term k.step status (64 * s1.ckp.lsn.toNat))

/-- A member reports once more the step at whose gates its contexts stand: to its master, which learns by it that the member is not,
or no longer, in PAUSED (log entry 36). -/
def reportAgain (s : State) : State :=
  s.sendNet (.stepEnd s.net.groupId s.net.master s.net.term s.net.step (s.memberStatus s.net.step) (64 * s.ckp.lsn.toNat))

/-- The module leaves PAUSED: it runs again, and its master learns it (R408, log entry 36). -/
def resumeGroup (s : State) : State :=
  if s.net.state ≠ .paused then s
  else
    let s1 : State := { s with net := { s.net with
      state := .running, members := tmod s.net.members s.net.self fun x => { x with paused := false } } }
    if s1.net.self = s1.net.master then s1.formRecord else s1.reportAgain

/-- The gradient scale of a completed step (R145). -/
def newScale (r : LayerRec) (x : Int) : LayerRec :=
  let top := eTop r.cur
  if x = -128 then { r with maxExp := x }
  else
    let e := r.scale + (top - 8 - x)
    { r with
      maxExp := x
      scale := if top - 12 ≤ x ∧ x ≤ top - 4 then r.scale else if e < -64 then -64 else if 63 < e then 63 else e }

/-- A layer's record at the end of a completed step: HOLD, DOUBLINGS, gradient scale (R142, R145). -/
def layerStep (k : Context) (r : LayerRec) : LayerRec :=
  let h := if r.hold > 0 ∧ k.heldNow.contains r.layer = false then r.hold - 1 else r.hold
  let n := if r.cur = r.base ∧ r.hold > 0 ∧ h = 0 then 0 else r.doublings
  let xs := (k.layerReports.filter fun p => p.1 == r.layer).map (·.2.2)
  let r1 := { r with hold := h, doublings := n }
  if bitAt r.flags 1 || xs.isEmpty then r1 else newScale r1 (xs.foldl (fun m x => if m < x then x else m) (-128))

/-- The format one rung below `cur` on the way up from `base`. -/
def rungDown (tx2 : Bool) (base cur : Nat) : Nat :=
  (((List.range 5).map fun n => climb tx2 n base).find? fun f => ladderUp tx2 f == some cur).getD base

/-- A layer whose HOLD has reached 0 above its base format descends one rung (R142). -/
def descend (s : State) (c i : Nat) : State :=
  let r := s.layerAt c i
  let k := s.ctx c
  if r.cur ≠ r.base ∧ r.hold = 0 then
    let f := rungDown k.tx2 r.base r.cur
    let s1 := s.putLayer c i { r with cur := f, hold := k.escHold * 2 ^ r.doublings }
    let s2 := if s1.ckpPtn = some k.ptn then
        s1.logPut 4 0 0 k.step.toNat (leBytes 2 r.layer ++ leBytes 1 0 ++ leBytes 1 (r.cur + 16 * f)) else s1
    let k2 := s2.ctx c
    (s2.setCtx c { k2 with
      descended := k2.descended ++ [r.layer], heldNow := k2.heldNow ++ [r.layer] }).raiseEv evNum 3
  else s

/-- A constant of a parameter descriptor written (Table 6-4). -/
def putConstant (s : State) (c i n bits : Nat) : State :=
  let k := s.ctx c
  if i < k.descCount ∧ n < 4 then s.post (k.descAddr * 8192 + 32 * i + 12 + 4 * n) (leBytes 4 bits) else s

/-- The constants of the optimiser commands at a step start: 2^(-e_l) of each layer, and each learning rate times 2^(-h), both exact
(R143, R144). The updates apply the gradients of the step that ended, whose scales are those of `old`. Where the constants stand, the
job graph says (log entry 158). -/
def patchConstants (s : State) (c : Nat) (old : State) : State :=
  let s1 := (Config.scaleConstants c).foldl (fun (s : State) p =>
    match old.layerOf c p.2.2 with
    | some (_, r) => s.putConstant c p.1 p.2.1 (f32Bits ((f32Of (2 ^ 23 * 127)).scale (-r.scale)))
    | none => s) s
  (Config.rateConstants c).foldl (fun (s : State) p =>
    s.putConstant c p.1 p.2.1 (f32Bits ((f32Of p.2.2).scale (-((s.ctx c).lrH : Int))))) s1

/-- The collectives of reduced layers that have not started take the layers' present formats (R142). -/
def patchCollectives (s : State) (c : Nat) : State :=
  (List.range (s.ctx c).ltabCount).foldl (fun s i =>
    let r := s.layerAt c i
    if bitAt r.flags 0 then s.setFmtIn c r.layer r.cur else s) s

/-- The pass over a context's queued words at a step start (R144, R176). `old` is the state in which the ended step ran. -/
def patchStep (s0 : State) (c : Nat) (old : State) : State :=
  let s1 := s0.patchConstants c old
  let s2 := if (s1.ctx c).ltabCount = 0 then s1 else (s1.patchQueues c).patchCollectives c
  let k := s2.ctx c
  s2.setCtx c { k with queues := k.queues.map fun x => { x with stepFrom := x.head, stepWindow := x.window } }

/-- A checkpoint falls due at the boundary that ends a step (R316, R321). -/
def checkpointDue (s : State) (c : Nat) (ended : Word) : State :=
  let k := s.ctx c
  if s.ckpPtn ≠ some k.ptn then s
  else
    let byInterval := s.ckp.interval != 0 && (ended.toNat + 1) % s.ckp.interval == 0
    let asked := s.ckp.requested || s.ckp.full
    if s.ckp.due ∧ s.ckp.dueStep = ended + 1 then s.setCtx c { k with captureDue := true }
    else if s.ckptRuns || (s.ckp.due && s.contexts.any fun p => p.2.captureDue) then (if byInterval then s.raiseEv evCkp 3 else s)
    else if byInterval || asked then
      ({ s with ckp := { s.ckp with due := true, dueStep := ended + 1, captureHeld := [] } } : State).setCtx c
        { k with captureDue := true }
    else s

/-- The slots of a skipped step are released explicitly (R32, Table 1-10). -/
def releaseStep (s : State) (c : Nat) (step : Word) : State :=
  (s.chansOf fun ch => (tget s.jobs ch.job).any fun j => j.studentCtx == c).foldl (fun s i =>
    s.modChan i fun ch => { ch with slots := ch.slots.map fun sl =>
      if sl.state = .full ∧ sl.step = step then SorSlot.reset else sl }) s

/-- A step's update is not applied: h rises, the log records it, the slots of the step are released (R143). -/
def skipStep (s : State) (c : Nat) : State :=
  let k := s.ctx c
  let floor := k.lrH ≥ 20
  let h := Nat.min 20 (k.lrH + 1)
  let s1 := s.setCtx c { k with lrH := h, clean := 0, sinceRecover := 0, skipped := satAdd 16 k.skipped 1 }
  let s2 := if s1.ckpPtn = some k.ptn then
      s1.logPut 5 Status.nonfiniteStep.code 0 k.step.toNat (leBytes 2 (k.stepStatus.toNat % 2 ^ 16) ++ leBytes 1 h) else s1
  let s3 := (s2.releaseStep c k.step).raiseEv evNum 1
  if floor then s3.raiseEv evNum 2 else s3

/-- A step is completed (R142, R143, R145). -/
def completeStep (s : State) (c : Nat) : State :=
  let k := s.ctx c
  let r := k.sinceRecover + 1
  let recover := recovers k
  let s1 := s.setCtx c { k with
    clean := satAdd 16 k.clean 1, sinceRecover := if recover then 0 else r, lrH := if recover then k.lrH - 1 else k.lrH }
  (List.range k.ltabCount).foldl (fun s i => s.putLayer c i (layerStep k (s.layerAt c i))) s1

/-- The cursor at which a context's next step begins: in a group, that of its replica in the step-start record (R297, R313). -/
def recordCursor (s : State) (c : Nat) : DWord :=
  let k := s.ctx c
  match s.net.state, s.net.record with
  | .solo, _ => k.drawCursor
  | _, some r => r.cursors.getD (((tget s.net.members s.net.self).map (·.replica)).getD 0) k.drawCursor
  | _, none => k.drawCursor

/-- One counter takes the value that the restored cursor gives, with a REALIGNED record and its event (Table 12-2). -/
def realign (s : State) (c n old new : Nat) : State :=
  if old = new then s
  else
    let k := s.ctx c
    (s.logPut 9 Status.cursorRealigned.code 0 k.step.toNat (leBytes 8 k.drawCursor.toNat ++ leBytes 8 old ++ leBytes 8 new ++
      leBytes 2 c ++ leBytes 1 n)).raiseEv evCkp 8

/-- The logged decision on the step that a recompute ended with, for the gate at which it ended (R332). -/
def openingOf (s : State) (c : Nat) : Option (List Byte) :=
  let k := s.ctx c
  if s.ckpPtn = some k.ptn then (s.ckp.opening.filter fun p => p.1 == k.step.toNat).map (·.2) else none

/-- What releases a STEP gate says of the job's seed, of h and of the cursor: in a group the step-start record, whose cursor a member's
own is set to (R296, R297, R313); in a recompute the logged STEP_START (R332). -/
def takeDecision (s : State) (c : Nat) : State :=
  let k := s.ctx c
  match match s.replayOf c with
    | some r => logged r 1 (k.step.toNat + 1)
    | none => s.openingOf c with
  | some l => s.setCtx c { k with seed := BitVec.ofNat 64 (le l 0x24 8), lrH := le l 0x33 1 }
  | none =>
    match s.net.state, s.net.record with
    | .solo, _ => s
    | _, none => s
    | _, some r =>
      if r.step ≠ k.step + 1 then s
      else
        let s1 := s.setCtx c { k with seed := r.seed, lrH := r.lrH }
        let cur := s.recordCursor c
        if s.ckpPtn ≠ some k.ptn ∨ cur = k.drawCursor then s1
        else
          let want := Config.drawsPerBlock c * Config.blockOrdinal cur
          let s2 := s1.setCtx c { s1.ctx c with drawCursor := cur, draws := if k.tx2 then want else k.draws }
          if k.tx2 then s2.realign c 0xFF k.draws.toNat want.toNat else s2

/-- The STEP_START record (Table 12-2, R313). -/
def stepStartLog (s : State) (c : Nat) (skip : Bool) : State :=
  let k := s.ctx c
  if s.ckpPtn = some k.ptn then
    s.logPut 1 0 0 k.step.toNat (leBytes 8 (s.recordCursor c).toNat ++ leBytes 8 k.seed.toNat ++ leBytes 4 s.net.gen ++ leBytes 2 s.net.term ++
      leBytes 1 (b2n skip) ++ leBytes 1 k.lrH)
  else s

/-- A logged ROSTER record takes effect at its step (R332): GEN, replicas, and the shares of the epoch. -/
def replayRoster (s : State) (c step : Nat) : State :=
  match s.replayOf c with
  | none => s
  | some r =>
    (r.log.filter fun l => le l 0 1 == 7 && le l 0x10 4 == step).foldl (fun (s : State) l =>
      let lost := ((tget s.net.members (le l 0x24 2)).map (·.replica)).getD 0
      let cur := ((s.net.record.bind fun p => p.cursors[lost]?).getD 0).toNat
      let s1 := if le l 0x26 2 = 0xFFFF then
          { s with streams := tmap (fun _ st => if le st.desc 0x40 8 = 0 then st
              else dropReplica st lost s.net.replicas cur) s.streams } else s
      { s1 with net := { s1.net with gen := le l 0x1C 4, replicas := le l 0x20 2, stages := le l 0x22 1 } }) s

/-- A STEP gate is released (R176, R313): the decision, the new step, the patches. -/
def passStep (s : State) (c q : Nat) (y : Cmd) (skip : Bool) : State :=
  let ended := (s.ctx c).step
  let s0 := (if skip then (s.replaySkipped c).skipStep c else s.completeStep c).takeDecision c
  let s1 := s0.replayRoster c (ended.toNat + 1)
  let k := s1.ctx c
  let k := match (s.replayOf c).bind fun r => if skip then logged r 2 ended.toNat else none with
    | some l => { k with drawCursor := BitVec.ofNat 64 (le l 0x1C 8) }
    | none => k
  let s2 := s1.setCtx c { k with
    step := ended + 1, stepStatus := 0, skipReq := false, layerReports := [], heldNow := [], losses := [], attempt := 0,
    atStep := true }
  let s3 := (((List.range k.ltabCount).foldl (fun s i => s.descend c i) (s2.stepStartLog c skip)).checkpointDue c
    ended).patchStep c s
  let body := s3.eventBody c y.word.toNat
  let s4 := ((s3.modCmd c q y.index fun z => { z with result := some .ok, body := body }).startBlock c).startLayer c q y.index
  let x := s4.queue c q
  s4.setQueue c q { x with stepGate := false, passing := skip, updating := true }

/-- Whether the STEP gate of a context may be released: every record up to the step's STEP_END is flushed (R314), and in a group the
step-start record has come (R296). -/
def stepReady (s : State) (c : Nat) : Bool :=
  let k := s.ctx c
  (s.ckpPtn != some k.ptn || s.ckp.endLsn.toNat ≤ s.ckp.flushed.toNat) &&
  ((s.replayOf c).isSome || (s.openingOf c).isSome ||
  (s.net.state == .solo ||
    (s.net.state == .running && !s.net.sentToDeputy && s.net.record.any fun r => r.step == k.step + 1)))

/-- The decision on a step that ends live: the context's own, or the group's (R143, R296). -/
def stepSkip (s : State) (c : Nat) : Bool :=
  match s.net.state, s.net.record with
  | .solo, _ => (s.ctx c).skipReq
  | _, some r => r.decision == 1
  | _, none => (s.ctx c).skipReq

/-- The STEP gate of a context, released if it may be. -/
def stepGateRelease (s : State) (c : Nat) : State :=
  match [0, 1, 2, 3].findSome? fun q => (s.heldEvent c q 2).map fun y => (q, y) with
  | none => s
  | some (q, y) =>
    let k := s.ctx c
    if k.state = .running ∧ s.stepReady c = true then
      let skip := match s.replayOf c with
        | some r => loggedSkip r (k.step.toNat + 1)
        | none => match s.openingOf c with
          | some l => le l 0x32 1 == 1
          | none => s.stepSkip c
      s.passStep c q y skip
    else s

end State

/-- LAYER_GATE (R138): the group controller reads what the layer's completions report. -/
def execLayerGate (ctx q : Nat) (s : State) : Host.Outcome State Fault Refusal :=
  act s fun s => s.layerGate ctx q

/-- STEP_GATE_RELEASE (R176). -/
def execStepGateRelease (ctx : Nat) (s : State) : Host.Outcome State Fault Refusal :=
  act s fun s => s.stepGateRelease ctx

end Sys2Proof.Machine
end

