-- ==== Sys2Proof/Machine/CommandQueue.lean ====
section
/-! DEFINITION. The command queues: doorbells, restart and abort (R151, R156), dispatch (R153, R154, R159), completion (R156,
R157), FENCE and EVENT (R175, R176), and waits that park a context (R34, R175). -/

namespace Sys2Proof.Machine

namespace State

/-! ### Doorbells, restart, abort -/

/-- A write to `CTX_DBn` (R151, Table 9-10 step 2). -/
def ringDoorbell (s : State) (n value : Nat) : State :=
  let c := n / 4
  let q := n % 4
  let tail := BitVec.ofNat 32 value
  let k := s.ctx c
  let x := s.queue c q
  if k.state = .free ∨ fld value 43 32 ≠ s.ctxHandles.gen c ∨ x.ringLog2 = 0 ∨ (tail - x.tail).toInt < 0 ∨
      2 ^ x.ringLog2 < (tail - x.done).toNat then s.raiseCtx evQ 2 c q
  else if k.state = .teardown then s
  else s.setQueue c q { x with
    tail := tail, state := if x.state = .idle ∧ tail ≠ x.done then .active else x.state }

/-- The context and queue that `CTX_Q_SEL` names, if its handle is live (R178). -/
def selQueue (s : State) : Option (Nat × Nat) := (s.ctxOf s.sel.qCtx).map fun c => (c, s.sel.qQueue % 4)

/-- Commands of a queue dropped: they leave the arrays, engines and host accesses. -/
def dropCmds (s : State) (c q : Nat) (gone : Cmd → Bool) : State :=
  let s1 := ((s.queue c q).cmds.filter gone).foldl (fun s y => (s.unbind c q y.index).freeEngine c q y.index) s
  let x := s1.queue c q
  { s1.setQueue c q { x with cmds := x.cmds.filter fun y => !gone y } with
    plk := { s1.plk with reads := s1.plk.reads.filter fun h =>
      !(h.ctx == c && h.q == q && x.cmds.any fun y => gone y && y.index == h.idx) } }

/-- RESTART of `CTX_Q_CTL`: a HALTED queue goes on at INDEX, which lies between the halting command's count and TAIL.
Commands at or past INDEX that were dispatched and still run leave their units without a code (DESIGN CHOICE, log entry 195). -/
def restartQueue (s : State) (index : Word) : State :=
  match s.selQueue with
  | none => s
  | some (c, q) =>
    let x := s.queue c q
    if x.state = .halted ∧ (index - x.haltedAt).toNat ≤ (x.tail - x.haltedAt).toNat then
      let s1 := s.dropCmds c q fun y => y.final || decide ((y.index - index).toInt ≥ 0)
      let y := s1.queue c q
      s1.setQueue c q { y with
        head := index, done := index, chain := [], state := if index = y.tail ∧ y.cmds = [] then .idle else .active }
    else s

/-- ABORT of `CTX_Q_CTL`: dispatched commands complete, a FENCE or EVENT that holds the queue among them; the others are
discarded and the counts meet (log entry 29). -/
def abortQueue (s : State) : State :=
  match s.selQueue with
  | none => s
  | some (c, q) =>
    let x := s.queue c q
    s.setQueue c q { x with
      head := x.tail, done := x.tail, state := .idle, stepGate := false,
      cmds := x.cmds.map fun y => if (cmdOpcode y.word = 11 ∨ cmdOpcode y.word = 12) ∧ y.result.isNone = true then
        { y with result := some .ok } else y }

/-! ### Dispatch -/

/-- The EVENT or FENCE that stands in the way of later commands (R175, R176). -/
def blocking (x : Queue) : Bool := x.cmds.any fun y => !y.final && (cmdOpcode y.word == 11 || cmdOpcode y.word == 12)

/-- Dispatched commands of a queue without a final code (`CTX_Q_STAT.OUTSTANDING`). -/
def outstanding (x : Queue) : Nat := (x.cmds.filter fun y => !y.final).length

/-- The pseudo-channels that some spans touch leave power-down (R179). -/
def wake (s : State) (sp : List Span) : State :=
  { s with pcs := tmap (fun g p =>
      if p.powerDown && sp.any fun x =>
          match parseAddr x.addr with
          | .hbm ptn off => (pagesOf off x.len).any fun v => (s.pageFrame ptn v).any fun f => f / framesPerPc == g
          | _ => false
      then { p with powerDown := false } else p) s.pcs }

/-! ### Completion -/

/-- What a LOSS command's end does to its slot (R32), to the step's loss (R39) and to the data cursor. -/
def lossEnd (s : State) (c q : Nat) (y : Cmd) (st : Status) : State :=
  match s.opd (atCmd c q y) 16 [2] with
  | some d =>
    match s.chanOf d.handle with
    | some i =>
      match tget s.channels i with
      | some ch =>
        if st = .ok then
          let sl := ch.slots.getD ((ch.find .consuming).getD 0) SorSlot.reset
          let s1 := s.modChan i Channel.release
          let k := s1.ctx c
          let cur := sl.cursor + BitVec.ofNat 64 sl.valid
          s1.setCtx c { k with
            drawCursor := if k.drawCursor.toNat < cur.toNat then cur else k.drawCursor,
            losses := k.losses ++ [(sl.seq.toNat, if ch.feature then i + 1 else 0, le y.body 0 4)] }
        else s.modChan i Channel.giveBack
      | none => s
    | none => s
  | none => s

/-- While the link is down, the writes to the host that a command waits for are lost: DOMAIN_RESET (Table 15-8, R383). -/
def loseWrites (s : State) (c q : Nat) (idx : Word) : State :=
  if s.linkUp = false ∧ (s.plk.writes.any fun h => h.ctx == c && h.q == q && h.idx == idx) = true then
    ({ s with plk := { s.plk with writes := s.plk.writes.filter fun h => !(h.ctx == c && h.q == q && h.idx == idx) } } : State).answer
      c q idx .domainReset
  else s

/-- A command whose unit has answered receives its code once its writes are acknowledged (R156); a LOSS lets go of its slot
and a DMA command of its engine. -/
def completeCmd (s0 : State) (c q : Nat) (idx : Word) : State :=
  let s := s0.loseWrites c q idx
  match s.cmd c q idx with
  | none => s
  | some y =>
    let k := s.ctx c
    if s.unacked c q idx ∨ y.final = true ∨ (k.state ≠ .running ∧ k.state ≠ .saving) then s
    else
      match y.result with
      | none => s
      | some st =>
        if st = .retryLater ∧ y.waitDom.isSome = true then s
        else
          let s1 := if cmdOpcode y.word = 9 ∧ y.started = true then s.lossEnd c q y st else s
          let s2 := s1.complete c q idx
          if (s2.cmd c q idx).any fun z => !z.final then s2 else s2.freeEngine c q idx

/-! ### The dispatch of a command -/

/-- The next command leaves the ring, with the descriptors that its word names (R161). What is refused at dispatch completes there (R156, R160); a command that met a fence
waits (R157). A command of a skipped update is passed over with OK and no effect (R143, log entry 28). -/
def takeCommand (s : State) (c q : Nat) (w : Nat) (a : At) : State :=
  let x := s.queue c q
  let y := { cmdNew x.head (BitVec.ofNat 128 w) x.window with descs := a.tab }
  let y1 := if x.passing && fld w 5 0 != 12 && fld w 5 0 != 11 then { y with result := some .ok }
    else
      match s.dispatchStatus a with
      | some (.retryLater, d) => { y with result := some .retryLater, waitDom := d }
      | some (st, _) => { y with result := some st }
      | none => y
  let s0 := s.setQueue c q { x with head := x.head + 1, cmds := x.cmds ++ [y1] }
  let s1 := if y1.result.isNone then s0.wake (s.spans a) else s0
  if y1.result.isSome && y1.waitDom.isNone then s1.completeCmd c q x.head else s1

/-- Whether a queue has a command to dispatch and nothing of its own state holds it (R153, Table 6-1). -/
def queueReady (s : State) (c q : Nat) : Bool :=
  let x := s.queue c q
  (s.ctx c).state == .running && x.state == .active && x.ringLog2 != 0 && x.head != x.tail && decide (outstanding x < 64) &&
    !blocking x && s.isOpen (fabricDomain (s.queueDie c q)) && !s.pwr.dispatchHeld && !s.pwr.onHoldup

/-- The command at HEAD as it stands in the ring. -/
def headAt (s : State) (c q : Nat) : At :=
  let x := s.queue c q
  let w := ofLe (s.fwRead (s.ringAt c q x.head) 16)
  { c := c, q := q, win := x.window, w := w, tab := s.readDescs c x.window w }

/-- Whether the command at HEAD stands behind no other of its queue (R154); those of a skipped update are passed over. -/
def headClear (s : State) (c q : Nat) : Bool :=
  let x := s.queue c q
  x.passing || s.clear c q x.cmds (s.headAt c q)

/-- Whether a queue engine can dispatch the next command of a queue now. -/
def dispatches (s : State) (c q : Nat) : Bool :=
  s.queueReady c q && s.cringRoom c q (outstanding (s.queue c q)) &&
    (!s.readable (s.ringAt c q (s.queue c q).head) 16 || s.headClear c q)

/-- The queue engine dispatches the command at HEAD if nothing holds it (R153, R154, R159). -/
def dispatch (s : State) (c q : Nat) : State :=
  let x := s.queue c q
  if s.queueReady c q = false then s
  else if !s.cringRoom c q (outstanding x) then s.raiseCtx evQ 1 c q
  else if !s.readable (s.ringAt c q x.head) 16 then s.faultContext 3 c
  else if s.headClear c q then s.takeCommand c q (s.headAt c q).w (s.headAt c q)
  else s

/-! ### FENCE (R175) -/

/-- Whether both conditions of a FENCE hold. -/
def fenceHolds (s : State) (c q : Nat) (y : Cmd) : Bool :=
  let w := y.word.toNat
  (!bitAt w 16 || (s.earlier c q y.index).all (·.final)) &&
  (!bitAt w 17 || decide (0 ≤ ((s.ctx c).sync.getD (fld w 20 18) 0 - BitVec.ofNat 32 (fld w 63 32)).toInt))

/-- A FENCE completes. -/
def fencePass (s : State) (c q : Nat) (y : Cmd) : State :=
  let body := s.eventBody c y.word.toNat
  let s1 := s.modCmd c q y.index fun z => { z with result := some .ok, body := body, waitFrom := none }
  let x := s1.queue c q
  s1.setQueue c q { x with state := if x.state = .waiting then .active else x.state }

/-- A FENCE at its queue engine: it completes at once or the queue waits. -/
def fenceStart (s : State) (c q : Nat) (idx : Word) : State :=
  match s.cmd c q idx with
  | none => s
  | some y =>
    let x := s.queue c q
    if cmdOpcode y.word ≠ 11 ∨ y.started = true ∨ y.result.isSome = true ∨ (s.ctx c).state ≠ .running ∨
        (x.state ≠ .active ∧ x.state ≠ .halted) then s
    else if s.fenceHolds c q y then s.fencePass c q y
    else
      let t := s.groupTime (s.queueDie c q)
      let s1 := s.modCmd c q idx fun z => { z with started := true, waitFrom := some t }
      s1.setQueue c q { s1.queue c q with state := if x.state = .active then .waiting else x.state }

/-- The FENCE that a queue waits at. -/
def waitingFence (s : State) (c q : Nat) : Option Cmd :=
  let x := s.queue c q
  if x.state = .waiting ∨ x.state = .halted then
    x.cmds.find? fun y => cmdOpcode y.word == 11 && y.started && y.result.isNone
  else none

/-- A waiting FENCE whose conditions hold completes. -/
def fenceSatisfied (s : State) (c q : Nat) : State :=
  match s.waitingFence c q with
  | some y => if (s.ctx c).state = .running ∧ s.fenceHolds c q y = true then s.fencePass c q y else s
  | none => s

/-- No command of the context runs, and every queue that is not IDLE waits at a FENCE (R175). -/
def deadlocked (s : State) (c : Nat) : Bool :=
  (s.ctx c).queues.all fun x =>
    (x.state == .idle && outstanding x == 0) ||
    (x.state == .waiting && x.cmds.all fun y => y.final || (cmdOpcode y.word == 11 && y.started))

/-- A FENCE has waited 2^WAIT_CODE ms (R175). -/
def fenceLimit (s : State) (c q : Nat) : State :=
  match s.waitingFence c q with
  | none => s
  | some y =>
    let w := y.word.toNat
    if (s.ctx c).state ≠ .running ∨ s.fenceHolds c q y = true then s
    else if !bitAt w 21 && s.deadlocked c then (s.faultContext 5 c).raiseCtx evQ 3 c q
    else
      let v := BitVec.ofNat 32 (fld w 63 32)
      let n := fld w 20 18
      let open_ := bitAt w 17 && decide (((s.ctx c).sync.getD n 0 - v).toInt < 0)
      (s.modCmd c q y.index fun z => { z with parked := true }).park c (if open_ then .counter n v else .resume)

/-! ### EVENT (R176) -/

/-- An EVENT at its queue engine: counters, windows and interrupts take effect at once, GATE and STEP hold the queue. A context that
runs forward only starts its next block as it releases a token block (R148). In a HALTED queue a GATE or STEP that was dispatched
does not begin (DESIGN CHOICE, log entry 197). -/
def eventStart (s : State) (c q : Nat) (idx : Word) : State :=
  match s.cmd c q idx with
  | none => s
  | some y =>
    let w := y.word.toNat
    let x := s.queue c q
    let fin := fun (s : State) =>
      let body := s.eventBody c w
      s.modCmd c q idx fun z => { z with started := true, result := some .ok, body := body }
    if cmdOpcode y.word ≠ 12 ∨ y.started = true ∨ y.result.isSome = true ∨ (s.ctx c).state ≠ .running ∨
        (x.state ≠ .active ∧ (x.state ≠ .halted ∨ fld w 18 16 = 1 ∨ fld w 18 16 = 2)) ∨ (s.earlier c q idx).all (·.final) = false then s
    else
      match fld w 18 16 with
      | 0 =>
        let k := s.ctx c
        let s1 := s.setCtx c { k with sync := lmod k.sync (fld w 21 19) fun v => v + BitVec.ofNat 32 (fld w 37 22) }
        fin (if k.tx2 && !s.isStudent c && s.freesBlock c (fld w 21 19) then s1.startBlock c else s1)
      | 3 => fin (s.setQueue c q { x with window := fld w 57 55 })
      | 4 =>
        let r := s.ev evQ
        fin ((({ s with sel := { s.sel with payload := fld w 95 64 } } : State).setEv evQ { r with payload := true }).raiseCtx
          evQ 4 c q)
      | n =>
        let s1 := (s.modCmd c q idx fun z => { z with started := true }).setQueue c q
          { (s.modCmd c q idx fun z => { z with started := true }).queue c q with state := .gated, stepGate := n == 2 }
        if n = 2 then s1.stepEnd c else s1

/-! ### Waits for Sorus channels (R34) -/

/-- The channel that a command waits for, and whether it waits to put: a wait that its unit noted, or a drain that finds no
slot to fill. -/
def waitsFor (s : State) (c q : Nat) (y : Cmd) : Option (Nat × Bool) :=
  match s.wordChan (atCmd c q y) with
  | some (some i, _) =>
    let put := [1, 2, 3, 5, 6, 7].contains (cmdOpcode y.word)
    if y.result.isSome then none
    else if y.waitFrom.isSome then some (i, put)
    else if (s.cmdArrays c q).any fun a => (s.arr a).drains.any fun d =>
        d.ctx == c && d.q == q && d.idx == y.index && d.waiting then
      (if s.chanActs i true && !s.canFill i then some (i, true) else none)
    else none
  | _ => none

/-- A command has waited for its channel longer than the wait limit: its context is parked. -/
def sorLimit (s : State) (c q : Nat) (idx : Word) : State :=
  match s.cmd c q idx with
  | none => s
  | some y =>
    match s.waitsFor c q y with
    | none => s
    | some (i, put) =>
      if (s.ctx c).state ≠ .running then s
      else
        match tget s.channels i with
        | none => s
        | some ch =>
          let s1 := s.setChan i (if put then { ch with teacherParks := satAdd 8 ch.teacherParks 1 }
            else { ch with studentParks := satAdd 8 ch.studentParks 1 })
          ((s1.modCmd c q idx fun z => { z with parked := true }).park c (if put then .credit i else .block i)).raiseEv evSor 0

/-- Whether what a parked context waits for has come (R34, R175, R237). A channel that is gone or that answers a code ends
the wait. -/
def waitOver (s : State) (c : Nat) : Bool :=
  let k := s.ctx c
  match k.wait with
  | .none => false
  | .resume => true
  | .block i => (tget s.channels i).all fun ch => ch.oldestFull.isSome || ch.state == .faulted
  | .credit i => (tget s.channels i).all fun ch => ch.canFill || ch.state != .opened
  | .counter n v => decide (0 ≤ (k.sync.getD n 0 - v).toInt)

/-- A parked context whose wait is over is SAVED. -/
def unpark (s : State) (c : Nat) : State :=
  let k := s.ctx c
  if k.state = .parked ∧ s.waitOver c = true then s.setCtx c { k with state := .saved, wait := .none } else s

end State

/-- DOORBELL (R151). -/
def execDoorbell (n value : Nat) (s : State) : Host.Outcome State Fault Refusal :=
  act s fun s => s.ringDoorbell n value

/-- CTX_Q_RESTART (R156). -/
def execCtxQRestart (index : Word) (s : State) : Host.Outcome State Fault Refusal :=
  act s fun s => s.restartQueue index

/-- CTX_Q_ABORT (R156). -/
def execCtxQAbort (s : State) : Host.Outcome State Fault Refusal :=
  act s fun s => s.abortQueue

/-- COMMAND_DISPATCH (R153, R154). -/
def execCommandDispatch (ctx q : Nat) (s : State) : Host.Outcome State Fault Refusal :=
  act s fun s => s.dispatch ctx q

/-- COMMAND_COMPLETE (R156). -/
def execCommandComplete (ctx q : Nat) (idx : Word) (s : State) : Host.Outcome State Fault Refusal :=
  act s fun s => s.completeCmd ctx q idx

/-- FENCE (R175). -/
def execFence (ctx q : Nat) (idx : Word) (s : State) : Host.Outcome State Fault Refusal :=
  act s fun s => s.fenceStart ctx q idx

/-- EVENT (R176). -/
def execEvent (ctx q : Nat) (idx : Word) (s : State) : Host.Outcome State Fault Refusal :=
  act s fun s => s.eventStart ctx q idx

/-- FENCE_SATISFIED (R175). -/
def execFenceSatisfied (ctx q : Nat) (s : State) : Host.Outcome State Fault Refusal :=
  act s fun s => s.fenceSatisfied ctx q

/-- FENCE_WAIT_LIMIT (R175). -/
def execFenceWaitLimit (ctx q : Nat) (s : State) : Host.Outcome State Fault Refusal :=
  act s fun s => s.fenceLimit ctx q

/-- SOR_WAIT_LIMIT (R34). -/
def execSorWaitLimit (ctx q : Nat) (idx : Word) (s : State) : Host.Outcome State Fault Refusal :=
  act s fun s => s.sorLimit ctx q idx

/-- PARKED_RESUME (R34). -/
def execParkedResume (ctx : Nat) (s : State) : Host.Outcome State Fault Refusal :=
  act s fun s => s.unpark ctx

end Sys2Proof.Machine
end

