-- ==== Sys2Proof/Machine/SorusRequests.lean ====
section
/-! DEFINITION. `SOR_REQ` (R18 to R25, R35, R432): opening and closing jobs and channels. -/

namespace Sys2Proof.Machine

/-- Every byte of a list at some offsets is 0. -/
def clearAt (l : List Byte) (ranges : List (Nat × Nat)) : Bool := ranges.all fun r => le l r.1 r.2 == 0

/-- The code of the first refusal that holds, with its detail, in the order R15 gives and within it the order given here. -/
def refusal (l : List (Bool × Status × Nat)) : Option (Status × Nat) :=
  l.foldl (fun acc p =>
    match acc with
    | some b => if p.1 && p.2.1.rank < b.1.rank then some p.2 else acc
    | none => if p.1 then some p.2 else none) none

/-- Whether an FP32 word is a number from `lo` to `hi`. -/
def f32Between (w : Nat) (lo hi : Num) : Bool :=
  let x := f32Of w
  x.isFinite && fcond 3 lo x && fcond 3 x hi

namespace State

/-- Write an open completion record into a descriptor at 0x20, and note a refusal (R21, `SOR_EVENT.REFUSED`). -/
def sorAnswer (s : State) (a : Nat) (st : Status) (detail slots result granules free : Nat) : State :=
  let s1 := s.post (a + 0x20) (openRecord st detail slots result granules free)
  if st = .ok then s1 else s1.raiseEv evSor 3

/-- A `SOR_REQ` whose descriptor cannot be read or whose address fails the check of R428 has no completion (R21). -/
def sorRequest (s : State) (a : Nat) (f : State → List Byte → State) : State :=
  if a % 64 = 0 ∧ s.requestOk a 64 = true then f s (s.fwRead a 64) else s

/-- Open a job (R18 to R21). -/
def openJob (s : State) (a : Nat) : State :=
  s.sorRequest a fun s l =>
    let tp := s.ptnOf (le l 4 4)
    let sp := s.ptnOf (le l 8 4)
    let tc := s.ctxOf (le l 12 4)
    let sc := s.ctxOf (le l 16 4)
    let range := !clearAt l [(0x16, 2), (0x1B, 1), (0x30, 16)] || le l 0x14 2 < 1 || 1024 < le l 0x14 2
    let place := tp == sp || (tc.map fun c => (s.ctx c).ptn) != tp || (sc.map fun c => (s.ctx c).ptn) != sp
    let r := refusal [(le l 0 4 != 1, .versionUnsupported, 7),
      (tp.isNone || sp.isNone || tc.isNone || sc.isNone, .handleStale, 0), (range, .refusedInfeasible, 4),
      (place, .refusedInfeasible, 6), ((s.jobHandles.take 16).isNone, .refusedCapacity, 3)]
    match r, tp, sp, tc, sc, s.jobHandles.take 16 with
    | some (st, d), _, _, _, _, _ => s.sorAnswer a st d 0 0 0 0
    | none, some tp, some sp, some tc, some sc, some (j, h) =>
      let job : Job := {
        teacher := tp, student := sp, teacherCtx := tc, studentCtx := sc, tokens := le l 0x14 2,
        vocab := le l 0x18 3, tensorBase := le l 0x1C 4, closing := none, failed := false, former := [], formerStudents := [] }
      ({ s with jobs := tput s.jobs j job, jobHandles := h } : State).sorAnswer a .ok 0 0 j 0 0
    | none, _, _, _, _, _ => s

/-- Close a job: all its channels close in DISCARD mode (R25, R432). One that closes already is not open (log entry 147). -/
def closeJob (s : State) (a : Nat) : State :=
  s.sorRequest a fun s l =>
    let j := le l 4 4 % 16
    let bad := 16 ≤ le l 4 4 || !clearAt l [(8, 8), (0x10, 16), (0x30, 16)]
    let open_ := (tget s.jobs j).any fun x => x.closing.isNone
    match refusal [(le l 0 4 != 1, .versionUnsupported, 7), (!open_, .handleStale, 0), (bad, .refusedInfeasible, 4)] with
    | some (st, d) => s.sorAnswer a st (if st = .refusedInfeasible then d else 0) 0 j 0 0
    | none =>
      let s1 := { s with jobs := tmod s.jobs j fun x => { x with closing := some a } }
      ((s1.chansOf fun ch => ch.job == j).foldl (fun s i => s.chanClose i true none) s1).jobAfter j

/-- The slice of a channel descriptor: a base die, or 0xFF for that of the consuming context's lowest quadrant (Table 1-4). -/
def placementOf (s : State) (l : List Byte) (j : Job) : Nat :=
  if le l 8 1 = 0xFF then ((s.ctx j.studentCtx).quadList.headD 0) / 4 else le l 8 1

/-- A field of a channel descriptor lies outside its range (Table 1-4, R22). -/
def chanRange (l : List Byte) : Bool :=
  let kind := le l 5 1
  16 ≤ le l 4 1 || 1 < kind || le l 6 1 < 2 || 16 < le l 6 1 || 1 < le l 7 1 || (7 < le l 8 1 && le l 8 1 != 0xFF) ||
  11 < le l 9 1 || !clearAt l [(0x30, 16)] ||
  (if kind = 0 then
    le l 0xA 2 % 8 != 0 || le l 0xA 2 < 8 || 256 < le l 0xA 2 ||
      !f32Between (le l 0xC 4) (.fin false 1 (-2)) (.fin false 1 4) || !clearAt l [(0x18, 8)]
  else
    le l 0xA 2 % 16 != 0 || le l 0xA 2 < 16 || 16384 < le l 0xA 2 || !clearAt l [(0xC, 12)])

/-- The wait limit in ms of a wait code (Table 1-4). -/
def waitMsOf (code : Nat) : Nat := if code = 0 then 64 else 2 ^ (code - 1)

/-- Slots that an open is granted: those asked for, or with ACCEPT_FEWER as many as fit, at least two (R35). -/
def grantSlots (free per slots : Nat) (fewer : Bool) : Option Nat :=
  if slots * per ≤ free then some slots
  else if fewer && 2 * per ≤ free then some (Nat.min slots (free / Nat.max 1 per)) else none

/-- Open a channel (R22, R35, R36). -/
def openChannel (s : State) (a : Nat) : State :=
  s.sorRequest a fun s l =>
    let feature := le l 5 1 == 1
    let width := le l 0xA 2
    match tget s.jobs (le l 4 1 % 16) with
    | none =>
      match refusal [(!s.variant.group (le l 8 1) && le l 8 1 < 8, .unitAbsent, 0), (le l 0 4 != 1, .versionUnsupported, 7),
        (true, .handleStale, 0)] with
      | some (st, d) => s.sorAnswer a st d 0 0 0 0
      | none => s
    | some j =>
      let die := s.placementOf l j
      let per := slotGranules feature j.tokens width
      let free := s.sorusFree j.student die
      let grant := grantSlots free per (le l 6 1) (bitAt (le l 7 1) 0)
      let count := (s.channels.filter fun p => p.2.job == le l 4 1 % 16).length
      let full := (s.chanHandles.take 1024).isNone || 64 ≤ count
      let r := refusal [(!s.variant.group die && die < 8, .unitAbsent, 0), (le l 0 4 != 1, .versionUnsupported, 7),
        (j.closing.isSome, .handleStale, 0), (die < 8 && !s.isOpen (sramDomain die), .retryLater, 0),
        (chanRange l, .refusedInfeasible, 4), (!feature && j.vocab ≤ width, .refusedInfeasible, 5),
        (full, .refusedCapacity, 2), (grant.isNone, .refusedCapacity, 1)]
      match r, grant, s.chanHandles.take 1024 with
      | some (st, d), _, _ => s.sorAnswer a st d 0 0 0 (if st = .unitAbsent then 0 else free)
      | none, some n, some (i, h) =>
        let ch : Channel := {
          state := .opened, job := le l 4 1 % 16, feature := feature, slots := List.replicate n SorSlot.reset, fill := 0,
          placement := die, waitMs := waitMsOf (le l 9 1), width := width, temperature := le l 0xC 4, alpha := le l 0x10 4,
          beta := le l 0x14 4, gamma := le l 0x18 4, layers := le l 0x1C 4, granules := per, nextSeq := 0, stepSeq := 0,
          escalated := false, drain := false, closing := none, teacherWait := 0, teacherParks := 0, studentWait := 0,
          studentParks := 0, marks := [s.markOf j.teacherCtx none 0], skip := 0 }
        let s1 := ({ s with chanHandles := h } : State).setChan i ch
        s1.sorAnswer a .ok 0 n (s1.chanHandle i) (n * per) (free - n * per)
      | none, _, _ => s

/-- Close a channel (R25, R432). One that closes already answers HANDLE_STALE (log entry 147). -/
def closeChannel (s : State) (a : Nat) : State :=
  s.sorRequest a fun s l =>
    let h := le l 0xC 4
    let bad := 16 ≤ le l 4 1 || 1 < le l 7 1 || !clearAt l [(5, 2), (8, 4), (0x10, 16), (0x30, 16)]
    let i := (s.chanOf h).filter fun i => (tget s.channels i).any fun ch => ch.job == le l 4 1 % 16 && ch.closing.isNone &&
      ch.state != .closing
    match refusal [(le l 0 4 != 1, .versionUnsupported, 7), (i.isNone, .handleStale, 0), (bad, .refusedInfeasible, 4)], i with
    | some (st, d), _ => s.sorAnswer a st (if st = .refusedInfeasible then d else 0) 0 h 0 0
    | none, some i => s.chanClose i (bitAt (le l 7 1) 0) (some a)
    | none, none => s

/-- A draining close reaches the wait limit: what is FILLING or FULL is discarded (R432). -/
def closeLimit (s : State) (i : Nat) : State :=
  match tget s.channels i with
  | some ch =>
    if ch.state = .closing ∧ ch.drain = true then (s.setChan i { ch.discardAll with drain := false }).chanAfter i else s
  | none => s

end State

/-- JOB_OPEN (R18). -/
def execJobOpen (addr : Nat) (s : State) : Host.Outcome State Fault Refusal :=
  act s fun s => s.openJob addr

/-- JOB_CLOSE (R25). -/
def execJobClose (addr : Nat) (s : State) : Host.Outcome State Fault Refusal :=
  act s fun s => s.closeJob addr

/-- CHANNEL_OPEN (R35). -/
def execChannelOpen (addr : Nat) (s : State) : Host.Outcome State Fault Refusal :=
  act s fun s => s.openChannel addr

/-- CHANNEL_CLOSE (R432). -/
def execChannelClose (addr : Nat) (s : State) : Host.Outcome State Fault Refusal :=
  act s fun s => s.closeChannel addr

/-- CLOSE_WAIT_LIMIT (R432). -/
def execCloseWaitLimit (chan : Nat) (s : State) : Host.Outcome State Fault Refusal :=
  act s fun s => s.closeLimit chan

end Sys2Proof.Machine
end

