-- ==== Sys2Proof/Machine/Partitions.lean ====
section
/-! DEFINITION. Partitions and their layout batches (R232 to R237, R249, R250), contexts created and destroyed (R238, R245),
and what takes an array or a quadrant out of use (R93, R352, R353). -/

namespace Sys2Proof.Machine

/-! ### Details of refusals -/

/-- The refusal of a `PTN_REQ` request among causes (status, detail) that hold: the order of R15, REFUSED_INFEASIBLE before
REFUSED_CAPACITY, then the lowest detail (R234). -/
def ptnRefusal (l : List (Bool × Status × Nat)) : Option (Status × Nat) :=
  let key := fun (p : Status × Nat) => p.1.rank * 512 + (if p.1 = .refusedCapacity then 256 else 0) + p.2
  (l.filter (·.1)).foldl (fun acc p =>
    match acc with
    | some b => if key p.2 < key b then some p.2 else acc
    | none => some p.2) none

/-! ### Partition descriptors (Table 9-1) -/

/-- A partition descriptor. -/
structure PtnDesc where
  version : Nat
  op : Nat
  flags : Nat
  handle : Nat
  quads : Nat
  ways : List Nat
  scratch : List Nat
  sorus : List Nat
  used : Nat
  shares : Nat
  pcs : Nat
  hints : List Nat
  clean : Bool
  deriving DecidableEq, Repr

def PtnDesc.ofBytes (l : List Byte) : PtnDesc :=
  { version := le l 0 4, op := le l 4 1, flags := le l 5 1, handle := le l 8 4, quads := le l 0xC 4,
    ways := (List.range 8).map fun n => le l (0x10 + n) 1, scratch := (List.range 8).map fun n => le l (0x18 + 2 * n) 2,
    sorus := (List.range 8).map fun n => le l (0x28 + 2 * n) 2, used := le l 0x38 4, shares := le l 0x3C 4,
    pcs := le l 0x40 64, hints := (List.range 4).map fun i => le l (0x80 + 2 * i) 2,
    clean := le l 6 2 == 0 && le l 0x88 88 == 0 }

/-- With AFFINITY, firmware chooses the quadrants (R253). -/
def PtnDesc.affinity (d : PtnDesc) : Bool := bitAt d.flags 0

/-- A field outside its range, or a reserved encoding (detail 0x10). A destroy uses VERSION, OP and HANDLE only. -/
def PtnDesc.range (d : PtnDesc) : Bool :=
  2 < d.op || 3 < d.flags || !d.clean ||
  (d.op != 2 && (d.ways.any (16 < ·) || d.scratch.any (1280 < ·) || d.sorus.any (384 < ·) ||
    (if d.affinity then d.quads < 1 || 32 < d.quads else d.quads == 0))) || (d.op == 0 && d.handle != 0)

/-- A set bit count of two group numbers that differ (R253). -/
def groupDistance (a b : Nat) : Nat := popcount (Nat.xor a b) 4

namespace State

/-- The descriptor names a quadrant, pseudo-channel or die that the variant lacks (R235). -/
def ptnAbsent (s : State) (d : PtnDesc) : Bool :=
  d.op != 2 && ((!d.affinity && (members d.quads 32).any fun k => !s.variant.quad k) ||
    (members d.pcs 512).any (fun g => !s.variant.stack (g / 32)) ||
    (List.range 8).any fun n => !s.variant.group n && (d.ways.getD n 0 != 0 || d.scratch.getD n 0 != 0 || d.sorus.getD n 0 != 0))

/-- Pages of the hinted entries on each stack; without hints one for each pseudo-channel of PCS (R253). -/
def hintPages (s : State) (d : PtnDesc) (k : Nat) : Nat :=
  if d.hints.all (· == 0) then ((members d.pcs 512).filter fun g => g / 32 == k).length
  else (d.hints.filterMap fun h => tget s.hotset h).foldl (fun n e =>
    match tget s.ptns e.ptn with
    | some p => n + ((List.range e.pages).filter fun v => (p.locate (e.first + v)).any fun x => x.1 / 32 == k).length
    | none => n) 0

/-- The cost of a quadrant of group `g` (R253). -/
def affinityCost (s : State) (d : PtnDesc) (g : Nat) : Nat :=
  ((List.range 16).map fun k => s.hintPages d k * groupDistance g (k / 2)).sum

/-- A quadrant that no partition can have: it is retired (R353), or its group was left off (R363). -/
def quadOut (s : State) (k : Nat) : Bool := (s.quad k).retired || (s.group (k / 4)).left

/-- The quadrants of a descriptor in a layout: those it names, or with AFFINITY those of lowest cost that are free, ties by
ascending number; none when too few are free. -/
def chooseQuads (s : State) (d : PtnDesc) (layout : Tab Partition) (self : Option Nat) : Option Nat :=
  if !d.affinity then some d.quads
  else
    let taken := layout.foldl (fun m p => if some p.1 = self then m else m ||| p.2.quads) 0
    let free := (List.range 32).filter fun k => s.variant.quad k && !bitAt taken k && !s.quadOut k
    let ranked := sortBy (fun a b => s.affinityCost d (a / 4) * 64 + a ≤ s.affinityCost d (b / 4) * 64 + b) free
    if d.quads ≤ free.length then some (maskOf (ranked.take d.quads)) else none

/-! ### The map of a modify (R236) -/

end State

/-- The i-th old quadrant maps to the i-th new one, each set in ascending number. -/
def quadMap (old new k : Nat) : Option Nat :=
  ((members old 32).zip (members new 32)).findSome? fun p => if p.1 = k then some p.2 else none

/-- A quadrant mask rewritten through the map; an empty one becomes the partition's lowest quadrant. -/
def mapMask (old new mask : Nat) : Nat :=
  let m := maskOf ((members mask 32).filterMap (quadMap old new))
  if m = 0 then 2 ^ ((members new 32).headD 0) else m

namespace State

/-- Contexts of a partition. -/
def ctxsOf (s : State) (ptn : Nat) : List Nat := (s.contexts.filter fun p => p.2.state != .free && p.2.ptn == ptn).map (·.1)

/-- Channels whose student is a partition, placed in a slice. -/
def slicedChans (s : State) (ptn die : Nat) : List Nat :=
  (s.channels.filter fun p => p.2.placement == die && (tget s.jobs p.2.job).any fun j => j.student == ptn).map (·.1)

/-- Where the channels of a partition move when its Sorus granules on a die fall below what they hold there: the
lowest-numbered slice that fits (R43, R236). None when a channel fits nowhere. -/
def planMoves (s : State) (ptn : Nat) (sorus : List Nat) : Option (List (Nat × Nat)) :=
  let die0 := (List.range 8).filter fun n => sorus.getD n 0 < s.sorusUsed ptn n
  let stay := (List.range 8).map fun n => if die0.contains n then 0 else s.sorusUsed ptn n
  ((die0.flatMap fun n => s.slicedChans ptn n).foldl (fun (acc : Option (List (Nat × Nat) × List Nat)) i =>
    match acc, tget s.channels i with
    | some (mv, used), some ch =>
      match (List.range 8).find? fun n => !die0.contains n && used.getD n 0 + ch.total ≤ sorus.getD n 0 with
      | some n => some (mv ++ [(i, n)], lmod used n (· + ch.total))
      | none => none
    | acc, _ => acc) (some ([], stay))).map (·.1)

/-! ### Checking a batch (R232, R234) -/

end State

/-- What a batch makes of the layout so far: the layout, the handle table, and for each descriptor its partition index. -/
structure Plan where
  layout : Tab Partition
  handles : HandleTable
  index : List (Nat × Nat)
  noQuads : List Nat
  full : List Nat
  deriving DecidableEq, Repr

/-- What a partition holds under a descriptor. -/
def PtnDesc.part (d : PtnDesc) (quads pcs shares : Nat) : Partition :=
  { quads := quads, ways := d.ways, scratch := d.scratch, sorus := d.sorus, pcs := pcs, shares := shares, restriping := false }

namespace State

/-- One descriptor enters the plan. -/
def planOne (s : State) (pl : Plan) (i : Nat) (d : PtnDesc) : Plan :=
  match d.op with
  | 2 =>
    match s.ptnOf d.handle with
    | some p =>
      if thas pl.layout p then { pl with layout := tdel pl.layout p, handles := pl.handles.free p, index := pl.index ++ [(i, p)] }
      else pl
    | none => pl
  | 1 =>
    match s.ptnOf d.handle with
    | some p =>
      match tget pl.layout p with
      | some x =>
        match s.chooseQuads d pl.layout (some p) with
        | some q => { pl with
            layout := tput pl.layout p (d.part q d.pcs x.shares),
            index := pl.index ++ [(i, p)] }
        | none => { pl with noQuads := pl.noQuads ++ [i] }
      | none => pl
    | none => pl
  | _ =>
    match s.chooseQuads d pl.layout none, pl.handles.take 32 with
    | some q, some (p, h) => { pl with
        layout := tput pl.layout p (d.part q d.pcs d.shares), handles := h, index := pl.index ++ [(i, p)] }
    | none, _ => { pl with noQuads := pl.noQuads ++ [i] }
    | _, none => { pl with full := pl.full ++ [i] }

/-- Destroys release first, then modifies, then creates (R234). Descriptors that no layout could suit stay out. -/
def planBatch (s : State) (ds : List PtnDesc) : Plan :=
  let numbered := ds.zipIdx.filter fun p => p.1.version == 1 && !p.1.range && !s.ptnAbsent p.1
  [2, 1, 0].foldl (fun pl op => (numbered.filter fun p => p.1.op == op).foldl (fun pl p => s.planOne pl p.2 p.1) pl)
    { layout := s.ptns, handles := s.ptnHandles, index := [], noQuads := [], full := [] }

/-- What partition an item of the plan makes. -/
def planAt (pl : Plan) (i : Nat) : Option (Nat × Partition) :=
  (pl.index.find? fun p => p.1 == i).bind fun p => (tget pl.layout p.2).map fun x => (p.2, x)

/-- The image of a context fits its area and its partition's space after a modify (R236, R245): details 0x04, 0x15, 0x17. -/
def ctxSuits (s : State) (c old : Nat) (x : Partition) : Bool × Bool × Bool :=
  let k := s.ctx c
  let m := mapMask old x.quads k.quads
  let small := k.imagePages < Context.imageNeed m k.scrCount
  let window := (Context.diesOf m).any fun n => x.scratch.getD n 0 < k.scrFirst + k.scrCount
  let place := x.pages < k.image % 2 ^ 48 / 65536 + k.imagePages
  (small, window, place)

/-- The partition that a descriptor makes, for its checks: that of the plan, or where the plan has no index or no quadrants for it,
what its own fields say (R234). -/
def planFor (s : State) (pl : Plan) (i : Nat) (d : PtnDesc) : Nat × Partition :=
  (planAt pl i).getD <|
    let own := if d.op = 0 then none else s.ptnOf d.handle
    let before := own.bind fun p => tget s.ptns p
    (own.getD 32, d.part (if bitAt d.flags 0 then (before.map (·.quads)).getD 0 else d.quads)
      (if d.op = 0 ∨ bitAt d.flags 1 = true then d.pcs else (before.map (·.pcs)).getD 0) d.shares)

/-- A descriptor names a partition that another one of its batch has destroyed: its handle is stale by then (R234). -/
def planGone (s : State) (pl : Plan) (i : Nat) (d : PtnDesc) : Bool :=
  d.op != 0 && d.version == 1 && !d.range && !s.ptnAbsent d && (planAt pl i).isNone && !(pl.index.any fun p => p.1 == i) &&
    !pl.noQuads.contains i

/-- The causes that refuse a descriptor (R234, Table 9-4). -/
def ptnCauses (s : State) (pl : Plan) (i : Nat) (d : PtnDesc) : List (Bool × Status × Nat) :=
  let own := s.ptnOf d.handle
  let stale := d.op != 0 && (own.isNone || s.planGone pl i d)
  let start := [(s.ptnAbsent d, Status.unitAbsent, 0), (d.version != 1, .versionUnsupported, 0), (stale, .handleStale, 0),
    (d.range, .refusedInfeasible, 0x10), (pl.full.contains i, .refusedCapacity, 0x01), (pl.noQuads.contains i, .refusedCapacity, 0x02)]
  if d.op = 2 then start ++ [(own.any fun p => !(s.ctxsOf p).isEmpty, .refusedInfeasible, 0x13)]
  else if d.version ≠ 1 ∨ d.range = true ∨ s.ptnAbsent d = true ∨ stale = true then start
  else
    match s.planFor pl i d with
    | (p, x) =>
      let others := pl.layout.filter fun y => y.1 != p
      let clash := others.any fun y => Nat.land y.2.quads x.quads != 0 || Nat.land y.2.pcs x.pcs != 0
      let retired := (members x.quads 32).any s.quadOut || x.pcList.any s.pcRetired
      let bare := (members x.quads 32).any fun k => x.scratch.getD (k / 4) 0 == 0
      let before := tget s.ptns p
      let excess := (List.range 8).any fun n =>
        let total := fun (f : Partition → Nat) => (pl.layout.map fun y => f y.2).sum
        let grows := fun (f : Partition → Nat) => (if d.op = 0 then 0 else (before.map f).getD 0) < f x
        (16 < total (·.ways.getD n 0) && grows (·.ways.getD n 0)) ||
        (1280 < total (·.scratch.getD n 0) && grows (·.scratch.getD n 0)) ||
        (384 < total (·.sorus.getD n 0) && grows (·.sorus.getD n 0))
      let here := [(clash || retired, Status.refusedInfeasible, 0x11), (bare, .refusedInfeasible, 0x14),
        (excess, .refusedCapacity, 0x02)]
      if d.op = 0 then start ++ here
      else
        match before with
        | none => start ++ here
        | some b =>
          let suits := (s.ctxsOf p).map fun c => s.ctxSuits c b.quads x
          start ++ here ++
            [(d.pcs != b.pcs && (!bitAt d.flags 1 || x.pages < d.used), .refusedInfeasible, 0x12),
             (suits.any (·.2.1), .refusedInfeasible, 0x15), (suits.any (·.2.2), .refusedInfeasible, 0x17),
             (suits.any (·.1), .refusedCapacity, 0x04), ((s.planMoves p x.sorus).isNone, .refusedCapacity, 0x05)]

/-- Write one descriptor's completion (Table 9-3). -/
def ptnAnswer (s : State) (a i : Nat) (st : Status) (detail handle quads moved copied : Nat) : State :=
  s.post (a + 0x40 + 256 * i + 0xE0) (leBytes 1 st.code ++ leBytes 1 detail ++ zeros 2 ++ leBytes 4 handle ++ leBytes 4 quads ++
    leBytes 2 moved ++ zeros 2 ++ leBytes 4 copied ++ zeros 12)

/-- Write the header's results (Table 9-2). -/
def headAnswer (s : State) (a : Nat) (st : Status) (detail bad us : Nat) : State :=
  s.post (a + 8) (leBytes 1 st.code ++ leBytes 1 detail ++ leBytes 1 bad ++ zeros 1 ++ leBytes 4 us)

/-- The whole batch is refused (R234): each refused descriptor with its own cause, the others with the header's status. -/
def refuseBatch (s : State) (a : Nat) (rs : List (Option (Status × Nat))) (ds : List PtnDesc) : State :=
  match ptnRefusal (rs.filterMap fun r => r.map fun x => (true, x.1, x.2)) with
  | none => s
  | some (st, _) =>
    let bad := (rs.findIdx? fun r => (r.map (·.1)) == some st).getD 0xFF
    let det := ((rs.getD bad none).map (·.2)).getD 0
    let s1 := rs.zipIdx.foldl (fun s r =>
      let h := ((ds[r.2]?).map (·.handle)).getD 0
      let held := (((s.ptnOf h).bind fun p => tget s.ptns p).map (·.quads)).getD 0
      match r.1 with
      | some (x, d) => s.ptnAnswer a r.2 x d h held 0 0
      | none => s.ptnAnswer a r.2 st 0 h held 0 0) s
    (s1.headAnswer a st det bad 0).raiseEv evPtn 1

/-- Contexts of a modified partition that must leave their quadrants: their quadrants change, or the partition is
re-striped (Table 9-9 step 3, R237). -/
def batchCtxs (s : State) (b : Batch) : List (Nat × Bool) :=
  b.items.flatMap fun it =>
    if it.op ≠ 1 then []
    else
      let old := ((tget s.ptns it.ptn).map (·.quads)).getD 0
      ((s.ctxsOf it.ptn).filter fun c => it.restripe || mapMask old it.part.quads (s.ctx c).quads != (s.ctx c).quads).map
        fun c => (c, it.restripe)

/-- Those contexts begin to leave: a re-stripe parks them, a re-bind saves them. -/
def batchSaves (s : State) (b : Batch) : State :=
  (s.batchCtxs b).foldl (fun s p =>
    let k := s.ctx p.1
    if p.2 = true ∧ (k.state = .saved ∨ k.state = .ready) then s.setCtx p.1 { k with state := .parked, wait := .none }
    else if (s.ctx p.1).state ≠ .running then s
    else if p.2 then s.park p.1 .none else s.beginSave p.1 4 .saved) s

/-- The domains in which a partition holds resources. -/
def partDomains (p : Partition) : List Nat :=
  (members p.quads 32).map quadDomain ++
  ((List.range 8).filter fun n => 0 < p.ways.getD n 0 + p.scratch.getD n 0 + p.sorus.getD n 0).flatMap
    (fun n => [7 * n + 6, fabricDomain n, sramDomain n]) ++
  ((List.range 16).filter fun k => fld p.pcs (32 * k + 31) (32 * k) != 0).map stackDomain

/-- The group that a quadrant's, base die's or stack's domain belongs to. -/
def groupOf (d : Nat) : Option Nat := if d < 56 then some (d / 7) else if d < 72 then some ((d - 56) / 2) else none

/-- Whether a domain is of a group that a second trip has left off, which only the host switches on again (R363). -/
def leftOff (s : State) (d : Nat) : Bool := (groupOf d).any fun g => (s.group g).left

/-- Whether a domain is of a group that a trip has switched off, for the time being or for good (R363). -/
def tripOff (s : State) (d : Nat) : Bool := s.leftOff d || (groupOf d).any fun g => (s.group g).tripped

/-- A batch switches on the OFF domains in which it assigns resources (R357), those too that were still being switched off as it began
(R358). -/
def batchPower (s : State) (items : List BatchItem) : State :=
  (items.flatMap fun it => partDomains it.part).foldl (fun (s : State) d =>
    if (s.dom d).power = .off ∧ s.tripOff d = false then s.switchOn d else s) s

/-- A layout batch is accepted: its contexts begin to leave and its channels to move (Table 9-9, steps 2 to 5). -/
def acceptBatch (s : State) (a : Nat) (pl : Plan) (ds : List PtnDesc) : State :=
  let items := ds.zipIdx.filterMap fun d =>
    (pl.index.find? fun p => p.1 == d.2).map fun p =>
      let before := tget s.ptns p.2
      let x := ((tget pl.layout p.2).orElse fun _ => before).getD (d.1.part 0 0 0)
      let re := d.1.op == 1 && bitAt d.1.flags 1 && (before.any fun b => b.pcs != x.pcs)
      ({ op := d.1.op, ptn := p.2, part := x, restripe := re, used := d.1.used,
         moves := if d.1.op = 1 then (s.planMoves p.2 x.sorus).getD [] else [], copied := 0 } : BatchItem)
  let b : Batch := { addr := a, start := s.supTime, items := items, applied := false, copied := [] }
  let s1 := (({ s with batch := some b } : State).batchPower items).batchSaves b
  { s1 with channels := tmap (fun (i : Nat) (ch : Channel) => if ch.state == .opened && items.any fun it => it.moves.any fun m => m.1 == i then
      { ch with state := ChanState.migrating } else ch) s1.channels }

/-- The causes that refuse each descriptor of a batch. -/
def batchCauses (s : State) (ds : List PtnDesc) : List (Option (Status × Nat)) :=
  let pl := s.planBatch ds
  ds.zipIdx.map fun d => ptnRefusal (s.ptnCauses pl d.2 d.1)

/-- What a descriptor is refused with ahead of RETRY_LATER (R15). -/
def earlyCause (s : State) (d : PtnDesc) : Option (Status × Nat) :=
  ptnRefusal [(s.ptnAbsent d, .unitAbsent, 0), (d.version != 1, .versionUnsupported, 0),
    (d.op != 0 && (s.ptnOf d.handle).isNone, .handleStale, 0)]

/-- A batch is accepted whole or refused whole (R234). -/
def decideBatch (s : State) (a : Nat) (ds : List PtnDesc) : State :=
  let rs := s.batchCauses ds
  if rs.any (·.isSome) then s.refuseBatch a rs ds else s.acceptBatch a (s.planBatch ds) ds

/-- Whether a batch runs, or a destroy that waits for a teardown (R234, R238), or the supervisor restarts (Table 16-10). -/
def layoutRuns (s : State) : Bool := s.batch.isSome || s.boot.supRestart || s.contexts.any fun p => !p.2.destroyAt.isEmpty

/-- A layout batch (R234): the supervisor checks every descriptor and accepts or refuses the whole. -/
def layoutBatch (s : State) (a : Nat) : State :=
  if a % 64 ≠ 0 ∨ s.requestOk a 64 = false then s
  else
    let h := s.fwRead a 64
    let n := le h 4 1
    let ds := if n < 1 || 32 < n || !s.requestOk a (64 + 256 * n) then []
      else (List.range n).map fun i => PtnDesc.ofBytes (s.fwRead (a + 0x40 + 256 * i) 256)
    let first := ds.map s.earlyCause
    if le h 0 4 ≠ 1 then (s.headAnswer a .versionUnsupported 0 0xFF 0).raiseEv evPtn 1
    else if first.any (·.isSome) then
      if s.layoutRuns || !clearAt h [(5, 3), (0x10, 48)] then s.refuseBatch a first ds else s.decideBatch a ds
    else if s.layoutRuns then
      ((List.range ds.length).foldl (fun s i => s.ptnAnswer a i .retryLater 0 0 0 0 0) s).headAnswer a .retryLater 0 0xFF 0
        |>.raiseEv evPtn 1
    else if n < 1 || 32 < n || !clearAt h [(5, 3), (0x10, 48)] then (s.headAnswer a .refusedInfeasible 0x10 0xFF 0).raiseEv evPtn 1
    else if ds = [] then s
    else s.decideBatch a ds

/-! ### Applying a batch (Table 9-9) -/

/-- Windows that are resident where they cannot stay are saved (R248). -/
def saveLeaving (s : State) (c new : Nat) : State :=
  (members (s.ctx c).resident 8).foldl (fun s n => if (Context.diesOf new).contains n then s else s.saveWindow c n) s

/-- A command that has run or runs on arrays, to run again there. -/
def rerun (y : Cmd) : Cmd :=
  { cmdRestart y with reissued := true, resets := y.resets, recorded := y.recorded || y.final, final := false }

/-- Whether a command has work or slots on arrays. -/
def onArrays (s : State) (c q : Nat) (y : Cmd) : Bool := s.slotMask (atCmd c q y) != 0 || cmdOpcode y.word == 1 || cmdOpcode y.word == 2

/-- A queue's work on arrays starts again, on the arrays that now take it: its slots are freed, and every command since no
slot was held runs again in order (R84, R157; log entry 30). -/
def redealQueue (s : State) (c q : Nat) : State :=
  let x := s.queue c q
  let s1 := (x.cmds.filter fun y => s.onArrays c q y).foldl (fun s y => s.unbind c q y.index) s
  let s2 := s1.freeHeld c q 0b1111
  let x := s2.queue c q
  let held := !x.chain.isEmpty
  let back := (x.chain.filter fun y => s.slotMask (atCmd c q y) != 0).map rerun
  s2.setQueue c q { x with
    chain := [],
    cmds := back ++ x.cmds.map fun y =>
      if y.final then (if held && s.slotMask (atCmd c q y) != 0 then rerun y else y)
      else if s.onArrays c q y && (y.started || (held && s.slotMask (atCmd c q y) != 0)) then rerun y else y }

/-- The work of a context on arrays starts again. -/
def redeal (s : State) (c : Nat) : State :=
  let s1 := [0, 1, 2, 3].foldl (fun s q => s.redealQueue c q) s
  let k := s1.ctx c
  s1.setCtx c { k with susp := [], suspDrains := [], suspLoads := [], imageQuads := [] }

/-- The dies that the window sections of a context's image are numbered by, beside its dies after a modify (R236). A context
whose mask becomes empty finds the window of its lowest old die. -/
def remapDies (k : Context) (old new : Nat) : List (Nat × Nat) :=
  let was := k.quadList.filterMap fun q => (quadMap old new q).map fun n => (n, imageDie k (q / 4))
  let all := if was.isEmpty then
      match k.quadList.head?, (members new 32).head? with
      | some q, some n => [(n, imageDie k (q / 4))]
      | _, _ => []
    else was
  (sortBy (fun a b => a.1 ≤ b.1) all).map fun p => (p.1 / 4, p.2)

/-- A context's masks and resume points rewritten through the map of a modify (R236). Work that lay on a quadrant without
an image starts again. -/
def remapCtx (s : State) (c old new : Nat) : State :=
  let k := s.ctx c
  let dies := remapDies k old new
  let lost := (members k.quads 32).any fun i => (quadMap old new i).isNone
  let s0 := if lost then s.redeal c else s
  let k := s0.ctx c
  let f := fun (a : Nat) => 128 * (quadMap old new (a / 128)).getD (a / 128) + a % 128
  let pairs := (k.quadList.zip k.imageQuads).filterMap fun p => (quadMap old new p.1).map fun n => (n, p.2)
  s0.setCtx c { k with
    quads := mapMask old new k.quads
    imageQuads := (sortBy (fun a b => a.1 ≤ b.1) pairs).map (·.2)
    imageDies := dies
    susp := k.susp.map fun p => (f p.1, p.2)
    suspDrains := k.suspDrains.map fun p => (f p.1, p.2)
    suspLoads := k.suspLoads.map fun p => (f p.1, p.2)
    queues := k.queues.map fun x => { x with
      quads := if x.quads = 0 then 0 else mapMask old new x.quads
      cmds := x.cmds.map fun y => { y with partials := y.partials.map fun e => (e.1, e.2.1, f e.2.2.1, e.2.2.2.1, e.2.2.2.2) } } }

/-- Frames that leave a partition keep their contents and POISON and lose every other attribute (R183). -/
def dropAttrs (s : State) (pcs : Nat) : State :=
  { s with attrs := s.attrs.filterMap fun (p : Nat × Nat) =>
      if bitAt pcs (p.1 / framesPerPc) then (if bitAt p.2 6 then some (p.1, 64) else none) else some p }

/-- Scratchpad granules that change partition are zeroed (Table 9-9 step 7): those beyond the lesser of two shares. -/
def zeroShares (m : Memory) (ptn : Nat) (a b : List Nat) : Memory :=
  (List.range 8).foldl (fun m n =>
    let x := a.getD n 0
    let y := b.getD n 0
    m.clear (scrKey ptn n (65536 * Nat.min x y)) (scrKey ptn n (65536 * Nat.max x y))) m

/-- Ownership of one item changes (Table 9-9, steps 4 to 8). Pseudo-channels of a re-stripe follow when it ends; the teacher of a
channel whose FILLING slot a move discards goes back to the block's start (Table 1-10). Contexts parked for want of a quadrant (R353) go
on where the partition gets one. -/
def ownItem (s : State) (it : BatchItem) : State :=
  match it.op, tget s.ptns it.ptn with
  | 2, some b =>
    let s1 := s.dropAttrs b.pcs
    { s1 with
      mem := zeroShares s1.mem it.ptn b.scratch []
      hotset := s1.hotset.filter fun e => e.2.ptn != it.ptn
      ptns := tdel s1.ptns it.ptn, ptnHandles := s1.ptnHandles.free it.ptn }
  | 1, some b =>
    let s1 := (s.ctxsOf it.ptn).foldl (fun (s : State) c => s.saveLeaving c (mapMask b.quads it.part.quads (s.ctx c).quads)) s
    let s2 := it.moves.foldl (fun (s : State) m => s.chanMigrate m.1 m.2) s1
    let s3 : State := { s2 with channels := tmap (fun (i : Nat) (ch : Channel) =>
      if ch.state == .migrating && it.moves.any fun m => m.1 == i then { ch with state := .opened } else ch) s2.channels }
    let cut := (it.moves.map (·.1)).filter fun i => (tget s1.channels i).any fun ch => ch.count .filling > 0
    let s4 := ((s3.ctxsOf it.ptn).foldl (fun (s : State) c => s.remapCtx c b.quads it.part.quads) s3).teachersBack cut
    let back := decide (b.quads = 0 ∧ it.part.quads ≠ 0) && !it.restripe
    { s4 with
      contexts := if back then tmap (fun _ k => if k.ptn = it.ptn then k.resumed else k) s4.contexts else s4.contexts
      mem := zeroShares s4.mem it.ptn b.scratch it.part.scratch
      ptns := tput s4.ptns it.ptn { it.part with
        pcs := if it.restripe then b.pcs else it.part.pcs, restriping := it.restripe } }
  | 0, none =>
    match s.ptnHandles.take 32 with
    | some (p, h) => { s with
        mem := zeroShares s.mem p [] it.part.scratch, ptns := tput s.ptns p it.part, ptnHandles := h }
    | none => s
  | _, _ => s

/-- One item is applied: the caches write back and invalidate the lines that it moves, those of other partitions whose ways shift among
them (Table 9-9 step 6, R192). -/
def applyItem (s : State) (it : BatchItem) : State := (s.ownItem it).settleWays s

/-- Whether every context of a batch has left, those of a re-stripe for PARKED (R237), and every domain it touches is open (R249, R250). -/
def batchReady (s : State) (b : Batch) : Bool :=
  ((s.batchCtxs b).all fun p =>
    let k := s.ctx p.1
    k.state == .parked || k.state == .teardown || k.state == .free || (!p.2 && (k.state == .saved || k.state == .ready))) &&
  b.items.all fun it =>
    ((partDomains it.part).all fun d => s.isOpen d || s.leftOff d) &&
    (((tget s.ptns it.ptn).map partDomains).getD []).all fun d => s.isOpen d || (s.dom d).state == .off

/-- The handle that a destroyed partition had: its index, at the generation before the present one. -/
def ptnHandleGone (s : State) (i : Nat) : Nat :=
  let g := s.ptnHandles.gen i
  handleWord 7 (if g = 1 then 0xFFF else g - 1) i

/-- The completions of a batch (Table 9-9 step 10). -/
def endBatch (s : State) (b : Batch) : State :=
  let s1 := b.items.zipIdx.foldl (fun s p =>
    let it := p.1
    s.ptnAnswer b.addr p.2 .ok 0 (if it.op = 2 then s.ptnHandleGone it.ptn else s.ptnHandle it.ptn) (if it.op = 2 then 0 else it.part.quads) it.moves.length it.copied) s
  let s2 := { s1 with batch := none }
  (s2.headAnswer b.addr .ok 0 0xFF (usBetween b.start s.supTime)).raiseEv evPtn 0

/-- The batch goes on (R249): contexts leave; ownership changes; once no re-stripe runs, the completions are written. -/
def batchStep (s : State) : State :=
  match s.batch with
  | none => s
  | some b =>
    if b.applied then
      if b.items.all fun it => !it.restripe || b.copied.contains it.ptn then s.endBatch b else s
    else if s.batchReady b then
      let s0 := if b.items.any fun it => it.restripe && s.ckpPtn == some it.ptn then s.ckptEnd false else s
      let s1 := [2, 1, 0].foldl (fun s op => (b.items.filter fun it => it.op == op).foldl (fun s it => s.applyItem it) s) s0
      let b1 := { b with applied := true }
      let s2 := { s1 with batch := some b1 }
      if b.items.any (·.restripe) then s2 else s2.endBatch b1
    else (s.batchPower b.items).batchSaves b

/-! ### Re-stripes (R237) -/

/-- Pages of an item that move: page, old frame, new frame. -/
def movedPages (s : State) (it : BatchItem) : List (Nat × Nat) :=
  match tget s.ptns it.ptn with
  | some b => (List.range it.used).filterMap fun v =>
      match b.locate v, it.part.locate v with
      | some x, some y => if x = y then none else some (frameNo x.1 x.2, frameNo y.1 y.2)
      | _, _ => none
  | none => []

/-- Frames of a layout at and beyond a page have undefined contents. -/
def undefineFrom (m : Memory) (p : Partition) (used seed : Nat) : Memory :=
  p.pcList.zipIdx.foldl (fun m g =>
    let j := ceilDiv (used - g.2) (Nat.max 1 p.pcList.length)
    m.undefine (hbmKey (frameNo g.1 (Nat.min j framesPerPc)) 0) (hbmKey (frameNo g.1 framesPerPc) 0) seed) m

/-- Every page of every re-stripe is copied at once; contents beyond USED_PAGES are undefined; attributes go with their
pages (log entry 31). -/
def copyStripes (s : State) (b : Batch) : State :=
  let its := b.items.filter (·.restripe)
  let moves := its.flatMap fun it => s.movedPages it
  let m1 := its.foldl (fun m it => undefineFrom m it.part it.used s.free) s.mem
  let m2 := moves.foldl (fun (m : Memory) v =>
    let c := m.clear (hbmKey v.2 0) (hbmKey v.2 65536)
    let f := s.mem.copy (hbmKey v.1 0) (2 ^ 90) 65536
    let t := { f with cells := c.cells ++ f.cells.filter (fun x => x.1 ≥ 2 ^ 90), undef := f.undef.filter (fun r => r.lo ≥ 2 ^ 90) ++ c.undef }
    (Memory.copy t (2 ^ 90) (hbmKey v.2 0) 65536).clear (2 ^ 90) (2 ^ 90 + 65536)) m1
  let gone := its.foldl (fun m it => m ||| ((tget s.ptns it.ptn).map (·.pcs)).getD 0 ||| it.part.pcs) 0
  let kept := (s.dropAttrs gone).writeBack fun f => bitAt gone (f / framesPerPc)
  let keepAttr := its.foldl (fun (s1 : State) it => match tget s.ptns it.ptn with
    | some p => (List.range it.used).foldl (fun s1 v =>
        match p.locate v, it.part.locate v with
        | some x, some y => s1.setAttr (frameNo y.1 y.2) (s.attr (frameNo x.1 x.2))
        | _, _ => s1) s1
    | none => s1) kept
  { keepAttr with
    mem := m2, free := s.free + 1
    ptns := its.foldl (fun t it => tmod t it.ptn fun p => { p with pcs := it.part.pcs }) s.ptns
    batch := some { b with items := b.items.map fun it =>
      if it.restripe then { it with copied := (s.movedPages it).length } else it } }

/-- The copy of a partition's re-stripe ends: RESTRIPING reads 0 and its contexts resume. All copies of a batch move together, so the
pages of every one are at their new places by the time the first ends (R237; log entry 31). -/
def stripeEnd (s : State) (ptn : Nat) : State :=
  match s.batch with
  | none => s
  | some b =>
    if b.applied = true ∧ (b.items.any fun it => it.restripe && it.ptn == ptn) = true ∧ b.copied.contains ptn = false then
      let b1 := { b with copied := b.copied ++ [ptn] }
      let s1 := if b.copied.isEmpty then s.copyStripes b1 else { s with batch := some b1 }
      { s1 with
        ptns := tmod s1.ptns ptn fun p => { p with restriping := false }
        contexts := tmap (fun _ k => if k.ptn == ptn then k.resumed else k) s1.contexts }
    else s

/-! ### Contexts created and destroyed (R238, R245) -/

/-- Write a context request's completion (Table 9-5). -/
def ctxAnswer (s : State) (a : Nat) (st : Status) (detail handle pages : Nat) : State :=
  s.post (a + 0x60) (leBytes 1 st.code ++ leBytes 1 detail ++ zeros 2 ++ leBytes 4 handle ++ leBytes 4 pages ++ zeros 20)

/-- Create the context that a request's bytes describe, or refuse it. -/
def createFrom (s : State) (a : Nat) (l : List Byte) : State :=
  let p := s.ptnOf (le l 4 4)
  let x := (p.bind fun i => tget s.ptns i).getD { quads := 0, ways := [], scratch := [], sorus := [], pcs := 0, shares := 0, restriping := false }
  let quads := if le l 0xC 4 = 0 then x.quads else le l 0xC 4
  let first := le l 0x10 2
  let count := le l 0x12 2
  let image := le l 0x18 8
  let pages := le l 0x20 4
  let need := Context.imageNeed quads count
  let range := 1 < le l 8 1 || 1 < le l 9 1 || count < 1 || 1280 < count ||
    !clearAt l [(0xA, 2), (0x14, 4), (0x24, 4), (0x30, 48)]
  let outside := Nat.land quads x.quads != quads || (Context.diesOf quads).any fun n => x.scratch.getD n 0 < first + count
  let place := match parseAddr image with
    | .hbm i off => some i != p || off % 65536 != 0 || x.pages < off / 65536 + pages
    | _ => true
  match ptnRefusal [((members (le l 0xC 4) 32).any fun k => !s.variant.quad k, .unitAbsent, 0),
    (le l 0 4 != 1, .versionUnsupported, 0), (p.isNone, .handleStale, 0), (s.batch.isSome, .retryLater, 0),
    (range, .refusedInfeasible, 0x10), (outside, .refusedInfeasible, 0x16), (place, .refusedInfeasible, 0x17),
    ((s.ctxHandles.take 512).isNone, .refusedCapacity, 0x03), (pages < need, .refusedCapacity, 0x04)],
    p, s.ctxHandles.take 512 with
  | some (st, d), _, _ => s.ctxAnswer a st d 0 need
  | none, some p, some (c, h) =>
    let s1 := ({ s with ctxHandles := h } : State).setCtx c { Context.reset with
      state := .ready, ptn := p, critical := le l 8 1 == 1, tx2 := bitAt (le l 9 1) 0, quads := quads, scrFirst := first,
      scrCount := count, image := image, imagePages := pages, seed := BitVec.ofNat 64 (le l 0x28 8) }
    s1.ctxAnswer a .ok 0 (s1.ctxHandle c) need
  | none, _, _ => s

/-- Create a context. -/
def createCtx (s : State) (a : Nat) : State := if a % 64 ≠ 0 ∨ s.requestOk a 128 = false then s else s.createFrom a (s.fwRead a 128)

/-- Destroy a context: its work stops, drains that have begun ending first (R87), its commands go without records, what it held is
freed and not zeroed (R238). -/
def destroyCtx (s : State) (a : Nat) : State :=
  if a % 64 ≠ 0 ∨ s.requestOk a 128 = false then s
  else
    let l := s.fwRead a 128
    let c := s.ctxOf (le l 4 4)
    let ends := c.any fun i => s.channels.any fun p => (tget s.jobs p.2.job).any fun j => j.teacherCtx == i || j.studentCtx == i
    match ptnRefusal [(le l 0 4 != 1, .versionUnsupported, 0), (c.isNone, .handleStale, 0), (s.batch.isSome, .retryLater, 0),
      (ends, .refusedInfeasible, 0x13)], c with
    | some (st, d), _ => s.ctxAnswer a st d (le l 4 4) 0
    | none, some i =>
      let k := s.ctx i
      if k.state = .teardown then s.setCtx i { k with destroyAt := k.destroyAt ++ [a] }
      else (((s.finishDrains i).freeArrays i).freeContext i).ctxAnswer a .ok 0 (le l 4 4) 0
    | none, none => s

/-! ### Arrays and quadrants out of use (R93, R352, R353) -/

/-- A context on a quadrant leaves it at once, its drains ended and its image written (R87), for firmware's own change of the layout. -/
def forceSave (s : State) (c : Nat) : State := ((s.beginSave c 4 .saved).finishDrains c).saveDone c

/-- A context of a partition that is left without a quadrant is parked: one that runs or is being saved once its image is written, any other
at once. One that waits for something else goes on waiting for it (R353; log entry 200). -/
def parkEmpty (s : State) (c : Nat) : State :=
  let k := s.ctx c
  match k.state with
  | .running => s.park c .none
  | .saving => s.setCtx c { k with after := .parked, wait := .none }
  | .ready | .saved | .restoring =>
    let s1 := s.setCtx c { k with state := .parked, wait := .none, held := 0 }
    { s1 with quads := tmap (fun _ z => if z.holder = some c then { z with holder := none } else z) s1.quads }
  | _ => s

/-- A quadrant is removed from its partition by a modify; one left without a quadrant parks its contexts (R353). -/
def removeQuad (s1 : State) (k : Nat) : State :=
  match s1.ptns.find? fun p => bitAt p.2.quads k with
  | none => s1
  | some (p, x) =>
    let new := setFld x.quads k k 0
    let cs := (s1.ctxsOf p).filter fun c => bitAt (s1.ctx c).quads k
    if new = 0 then
      ((s1.ctxsOf p).foldl (fun (s : State) c => s.parkEmpty c) { s1 with ptns := tput s1.ptns p { x with quads := 0 } }).raiseEv evFlt 7
    else
      let s2 := cs.foldl (fun (s : State) c => s.forceSave c) s1
      let order := fun (s : State) (c : Nat) =>
        (s.saveLeaving c (mapMask x.quads new (s.ctx c).quads)).remapCtx c x.quads new
      let s3 := (s2.ctxsOf p).foldl (fun (s : State) c => if (s.ctx c).state = .running then s.forceSave c else s) s2
      (s3.ctxsOf p).foldl order { s3 with ptns := tput s3.ptns p { x with quads := new } }

/-- A quadrant whose retired arrays reach the limit leaves its partition (R353). -/
def retireQuad (s : State) (k : Nat) : State :=
  let n := ((List.range 128).filter fun a => (s.arr (128 * k + a)).retired).length
  if (s.quad k).retired || n < s.flt.quadLimit then s
  else ((s.setQuad k { s.quad k with retired := true }).raiseEv evFlt 6).removeQuad k

/-- An array is retired: contexts of its quadrant are preempted, their work on arrays is dealt again, and they resume (R352). -/
def retire (s : State) (a : Nat) : State :=
  if (s.arr a).retired then s
  else
    let k := a / 128
    let cs := (s.contexts.filter fun p => p.2.state != .free && p.2.state != .teardown && bitAt p.2.quads k).map (·.1)
    let s1 := cs.foldl (fun (s : State) c => (s.redeal c).beginSave c 4 .saved) s
    (s1.retireArray a).retireQuad k

/-- An array is retired, and a fault record says so: the one that the error has opened, the first not older than `first`, or one of its
own (R352; log entry 179). -/
def retireNoted (s : State) (a first : Nat) : State :=
  if (s.arr a).retired then s
  else
    let s1 := s.retire a
    if s.flt.nextId = first then
      (s1.openFault { FaultRecord.blank with
        kind := 2, domain := quadDomain (a / 128), die := 12, unit := a, flags := 16, closed := true }).1
    else s1.modFault first fun r => { r with flags := r.flags ||| 16 }

/-- An array whose uncorrectable errors reach ARR_UE is retired (R352). -/
def retireFor (s : State) (a first : Nat) : State :=
  if s.flt.arrUe ≠ 0 ∧ s.flt.arrUe ≤ (s.arr a).ueCount then s.retireNoted a first else s

/-- An ECC error of an array (R92, R93), with the retirement counts of R352. -/
def arrayError (s : State) (a : Nat) (p : EccPlace) (corrected : Bool) : State :=
  let s1 := s.arrayEcc a p corrected
  if corrected then s1 else s1.retireFor a s.flt.nextId

end State

/-- LAYOUT_BATCH (R234). -/
def execLayoutBatch (addr : Nat) (s : State) : Host.Outcome State Fault Refusal := act s fun s => s.layoutBatch addr

/-- LAYOUT_BATCH_COMPLETE (R236, R249). -/
def execLayoutBatchComplete (s : State) : Host.Outcome State Fault Refusal := act s fun s => s.batchStep

/-- RESTRIPE_COPY_END (R237). -/
def execRestripeCopyEnd (ptn : Nat) (s : State) : Host.Outcome State Fault Refusal := act s fun s => s.stripeEnd ptn

/-- CONTEXT_CREATE (R238). -/
def execContextCreate (addr : Nat) (s : State) : Host.Outcome State Fault Refusal := act s fun s => s.createCtx addr

/-- CONTEXT_DESTROY (R238). -/
def execContextDestroy (addr : Nat) (s : State) : Host.Outcome State Fault Refusal := act s fun s => s.destroyCtx addr

/-- ARRAY_ECC_ERROR (R92, R93, R352). -/
def execArrayEccError (arr : Nat) (place : EccPlace) (corrected : Bool) (s : State) : Host.Outcome State Fault Refusal :=
  act s fun s => s.arrayError arr place corrected

end Sys2Proof.Machine
end

