-- ==== Sys2Proof/Machine/Schedule.lean ====
section
/-! DEFINITION. The group controllers' schedule (R239 to R243): who holds each quadrant, the cyclic table, handovers,
slices, and the ends of saves and restores. -/

namespace Sys2Proof.Machine

/-- Nanoseconds of a slot (R241). -/
def slotNs : Nat := 15625

namespace State

/-! ### The cyclic table (Table 9-7) -/

/-- The entry of a slot for quadrant `k`; 0 without a table in force. -/
def slotEntry (s : State) (k slot : Nat) : Nat :=
  let g := s.group (k / 4)
  if g.active then g.table.getD (4 * slot + k % 4) 0 else 0

/-- The live context that a valid entry names. -/
def entryCtx (s : State) (e : Nat) : Option Nat :=
  let c := fld e 8 0
  if bitAt e 9 = true ∧ s.ctxLive c = true ∧ fld e 27 16 = s.ctxHandles.gen c then some c else none

/-- A valid entry whose context has been destroyed. -/
def entryStale (s : State) (e : Nat) : Bool := bitAt e 9 && (s.entryCtx e).isNone

/-- The context that a slot reserves quadrant `k` for. -/
def slotOwner (s : State) (k slot : Nat) : Option Nat := s.entryCtx (s.slotEntry k slot)

/-- A table that the controller of group `g` takes (R241): every valid entry names a latency-critical context that has the
quadrant, and the slot is reserved for it on all of its quadrants, which therefore lie in the group. -/
def tableOk (s : State) (g : Nat) (t : List Nat) : Bool :=
  (List.range 64).all fun sl => (List.range 4).all fun q =>
    let e := t.getD (4 * sl + q) 0
    !bitAt e 9 || (match s.entryCtx e with
      | none => false
      | some c =>
        let k := s.ctx c
        k.critical && bitAt k.quads (4 * g + q) &&
        (List.range 32).all fun r => !bitAt k.quads r || (r / 4 == g && s.entryCtx (t.getD (4 * sl + r % 4) 0) == some c))

/-! ### Ranks (R240) -/

/-- The class of a context on quadrant `k`: 0 the owner of a reservation in force, 1 latency-critical, 2 best-effort. -/
def rankClass (s : State) (k c : Nat) : Nat :=
  if (s.quad k).reserved = some c then 0 else if (s.ctx c).critical then 1 else 2

/-- The place of a context in its class's round on quadrant `k`: the distance from the one that started last. -/
def rankTurn (s : State) (k c : Nat) : Nat :=
  let g := s.group (k / 4)
  let last := if (s.ctx c).critical then g.lastCritical else g.lastBestEffort
  (c + 511 - last) % 512

/-- The rank of a contender for quadrant `k`, lowest first. -/
def rank (s : State) (k c : Nat) : Nat := 512 * s.rankClass k c + s.rankTurn k c

/-- Whether the reservation in force on quadrant `k` is a context's own and its entry does not lend (R243). -/
def keeps (s : State) (k c : Nat) : Bool := (s.quad k).reserved == some c && !(s.quad k).lend

/-- A layout batch or a re-stripe holds a context's dispatch (Table 9-9 step 3, R237). -/
def batchHolds (s : State) (c : Nat) : Bool :=
  ((tget s.ptns (s.ctx c).ptn).any (·.restriping)) ||
  (match s.batch with
   | some b => !b.applied && (s.batchCtxs b).any fun p => p.1 == c
   | none => false)

/-- A context waits for its quadrants: it is READY or SAVED, and runnable or the owner of a reservation that is not lent
(R239, R240, R243). -/
def contends (s : State) (c : Nat) : Bool :=
  let k := s.ctx c
  (k.state == .ready || k.state == .saved) && !k.barred && k.quads != 0 && !s.batchHolds c &&
  (k.runnable || k.quadList.any fun i => s.keeps i c)

/-- The contenders for a quadrant. -/
def contenders (s : State) (k : Nat) : List Nat :=
  (s.contexts.filter fun p => bitAt p.2.quads k && s.contends p.1).map (·.1)

/-- A reservation on quadrant `k` in force for another context that is runnable or does not lend. -/
def reservedAway (s : State) (k c : Nat) : Bool :=
  match (s.quad k).reserved with
  | some d => d != c && (s.keeps k d || (s.ctx d).runnable)
  | none => false

/-- No contender for quadrant `k` ranks before a context. -/
def topRanked (s : State) (k c : Nat) : Bool :=
  !s.reservedAway k c && (s.contenders k).all fun d => d == c || decide (s.rank k c < s.rank k d)

/-- A quadrant can be given out: open, in service, not lent to a test. -/
def quadFree (s : State) (k : Nat) : Bool :=
  s.isOpen (quadDomain k) && !(s.quad k).borrowed && !(s.quad k).retired

/-- The holders of a context's quadrants. -/
def holdersOf (s : State) (c : Nat) : List Nat :=
  ((s.ctx c).quadList.filterMap fun k => (s.quad k).holder).dedup

/-! ### Starting and leaving -/

/-- A context that runs on its quadrants has started: a late reservation is extended by its lateness (R242). -/
def noteStart (s : State) (c : Nat) : State :=
  if (s.ctx c).state ≠ .running then s
  else (s.ctx c).quadList.foldl (fun (s : State) k =>
    let z := s.quad k
    match z.lateSince, z.reserved == some c with
    | some t, true =>
      let ns := (s.groupTime (k / 4) - t).toNat
      let g := s.group (k / 4)
      (s.setQuad k { z with lateSince := none, extension := z.extension + ns }).setGroup (k / 4)
        { g with worstLate := Nat.max g.worstLate (Nat.min 65535 (ns / 1000)) }
    | _, _ => s) s

/-- The round-robin of each group of a context goes on from it. -/
def noteTurn (s : State) (c : Nat) : State :=
  let k := s.ctx c
  (k.quadList.map (· / 4)).dedup.foldl (fun (s : State) g =>
    let x := s.group g
    s.setGroup g (if k.critical then { x with lastCritical := c } else { x with lastBestEffort := c })) s

/-- A context binds if it can take every quadrant of its set at once; holders that are not runnable give theirs up first,
with their state saved (R239, R240). -/
def bindCtx (s : State) (c : Nat) : State :=
  let k := s.ctx c
  let holders := s.holdersOf c
  if s.contends c = false ∨ s.pwr.dispatchHeld = true ∨ s.pwr.onHoldup = true ∨ s.unacked c 4 0 = true ∨
      (k.quadList.all fun i => s.quadFree i && s.topRanked i c) = false then s
  else if holders.isEmpty then ((s.bind c).noteTurn c).noteStart c
  else if holders.all fun d => (s.ctx d).state == .saving || ((s.ctx d).state == .running && !(s.ctx d).runnable) then
    holders.foldl (fun (s : State) d => s.beginSave d 6 .saved) s
  else s

/-- A context must leave its quadrants: it is preempted, or where it is not runnable it yields (R239). -/
def giveUp (s : State) (c reason : Nat) : State := s.beginSave c (if (s.ctx c).runnable then reason else 6) .saved

/-- The holder of quadrant `k` leaves for a reservation of another context. -/
def preemptFor (s : State) (k c : Nat) : State :=
  match (s.quad k).holder with
  | some d => if d = c then s else s.giveUp d 1
  | none => s

/-- A handover to a reservation's owner begins on quadrant `k`; the slot of the reservation says whether it lends. -/
def handOver (s : State) (k c slot : Nat) (early : Bool) : State :=
  let s1 := s.setQuad k { s.quad k with
    reserved := some c, handing := early, lend := bitAt (s.slotEntry k slot) 10, extension := 0, ended := none }
  s1.preemptFor k c

/-- The next reservation of quadrant `k` that a slot of another owner precedes, with its slot. -/
def nextOwner (s : State) (k : Nat) : Option (Nat × Nat) :=
  let now := (s.group (k / 4)).slot
  (List.range 64).findSome? fun j =>
    let sl := (now + j + 1) % 64
    match s.slotOwner k sl with
    | some c => if s.slotOwner k now = some c then none else some (c, sl)
    | none => none

/-- Bytes of the image that a context in its quadrants would save for another one to come (R242, R244, R248): header, loaded halves,
slots that are not FREE, and windows that the other's overlap. -/
def saveBytes (s : State) (c d : Nat) : Nat :=
  let k := s.ctx c
  65536 + ((arraysOf k.held).map fun a =>
      16384 * ((s.arr a).halves.filter (·.loaded)).length + 24576 * ((s.arr a).slots.filter fun x => x.state != .free).length).sum +
    (if k.windowsMeet (s.ctx d) then 65536 * k.scrCount * (k.dies.filter (s.ctx d).dies.contains).length else 0)

/-- Bytes of a context's image that a restore reads: the sections that it holds, but for windows that are resident (R248). -/
def restoreBytes (s : State) (c : Nat) : Nat :=
  let k := s.ctx c
  if k.hasImage then
    65536 + (k.imageQuads.map fun i => (s.sectionAt c i).2.1).sum +
      ((k.dies.filter fun n => !bitAt k.resident n).map fun n => (s.sectionAt c (32 + imageDie k n)).2.1).sum
  else 0

/-- The lead of a handover of quadrant `k` to a context in ns (R242): its holder's save, the owner's restore, at 1,843.2 GB/s, and
MARGIN. -/
def leadNs (s : State) (k c : Nat) : Nat :=
  let out := match (s.quad k).holder with
    | some d => if d = c then 0 else s.saveBytes d c
    | none => 0
  (out + s.restoreBytes c) * 10 / 18432 + 1000 * s.sel.schedMargin

/-- How long after the present slot's start the handover to quadrant `k`'s next reservation begins, in ns, if one follows (R242). -/
def handoverAt (s : State) (k : Nat) : Option Int :=
  (s.nextOwner k).map fun p =>
    (slotNs * ((p.2 + 63 - (s.group (k / 4)).slot) % 64 + 1) : Int) - (s.leadNs k p.1 : Int)

/-- The quadrants of a group whose handover begins first: those for which HANDOVER_START arrives (log entry 167). -/
def handoverDue (s : State) (g : Nat) : List Nat :=
  let due := (List.range 4).filterMap fun q => (s.handoverAt (4 * g + q)).map fun t => (4 * g + q, t)
  (due.filter fun p => due.all fun r => decide (p.2 ≤ r.2)).map (·.1)

/-- The handover to the next reservation of quadrant `k` begins, unless its owner lends it (R243). -/
def handNext (s : State) (k : Nat) : State :=
  match s.nextOwner k with
  | some (d, sl) => if bitAt (s.slotEntry k sl) 10 = true ∧ (s.ctx d).runnable = false then s else s.handOver k d sl true
  | none => s

/-- Whether the owner of the present, lent slot of quadrant `k` is runnable and has yet to take it: others have run there, or hold it
since the owner yielded (R243). -/
def takesLent (s : State) (k : Nat) : Bool :=
  let slot := (s.group (k / 4)).slot
  (s.slotOwner k slot).any fun c => bitAt (s.slotEntry k slot) 10 && (s.ctx c).runnable &&
    ((s.quad k).reserved != some c || (s.quad k).holder.any fun d => d != c && (s.ctx d).state == .running)

/-- The owner of a lent slot takes it; within a reservation of its own that goes on, the holder leaves (R243). -/
def takeLent (s : State) (k c slot : Nat) : State :=
  if (s.quad k).reserved = some c then s.preemptFor k c else s.handOver k c slot false

/-- A lead time before a reservation arrives in a group (R242); a runnable owner of a lent slot takes it at once (R243). -/
def handoverStart (s : State) (g : Nat) : State :=
  let now := (s.group g).slot
  let takes := (List.range 4).filter fun q => s.takesLent (4 * g + q)
  if takes.isEmpty then (s.handoverDue g).foldl (fun (s : State) k => s.handNext k) s
  else takes.foldl (fun (s : State) q =>
    match s.slotOwner (4 * g + q) now with
    | some c => s.takeLent (4 * g + q) c now
    | none => s) s

/-- A reservation of quadrant `k` ends: its owner is preempted only if another context needs the quadrant (R242). -/
def endReservation (s : State) (k : Nat) : State :=
  let z := s.quad k
  let s1 := s.setQuad k { z with
    reserved := none, handing := false, lend := false, lateSince := none, extension := 0, ended := none }
  match z.reserved, z.holder with
  | some c, some h => if c = h ∧ (s1.contenders k).any (fun d => d != c) = true then s1.giveUp c 1 else s1
  | _, _ => s1

/-- A reservation begins on quadrant `k`, at its slot's start or, behind another's extension, at a time after it; an owner that does
not run then is late since that start (R242). -/
def ownerStart (s : State) (k c slot : Nat) (since : DWord) : State :=
  let s1 := s.handOver k c slot false
  if (s1.ctx c).state = .running then s1 else s1.setQuad k { s1.quad k with lateSince := some since }

/-- An owner whose reservation has waited for another's extension takes it now; else the quadrant is as it was (R242). -/
def behindStart (s : State) (k slot : Nat) : State :=
  match (s.quad k).behind with
  | some (c, t) => (s.setQuad k { s.quad k with behind := none }).ownerStart k c slot t
  | none => s

/-- The extension of quadrant `k`'s reservation behind its last slot has run out: it ends, and one that waits behind it begins (R242). -/
def extensionOver (s : State) (k : Nat) : State :=
  let z := s.quad k
  match z.ended, z.lateSince with
  | some t, none => if z.extension ≤ (s.groupTime (k / 4) - t).toNat then
      (s.endReservation k).behindStart k (s.group (k / 4)).slot else s
  | _, _ => s

/-- Those of a group's quadrants. -/
def extensionsOver (s : State) (g : Nat) : State :=
  (List.range 4).foldl (fun (s : State) q => s.extensionOver (4 * g + q)) s

/-- A slot begins on quadrant `k` (R241 to R243). A reservation that is extended goes on, as does one whose owner has still to start,
and one of another owner that would begin waits for its end. A handover to a later slot's owner that has begun is not undone. -/
def slotStart (s : State) (k : Nat) : State :=
  let slot := (s.group (k / 4)).slot
  let z := s.quad k
  let owner := s.slotOwner k slot
  let lent := owner.any fun c => bitAt (s.slotEntry k slot) 10 && !(s.ctx c).runnable && z.reserved != some c
  if z.handing = true ∧ z.reserved.isSome ∧ z.reserved ≠ owner ∧ z.reserved = (s.nextOwner k).map (·.1) then s
  else if z.reserved.isSome ∧ z.handing = false ∧ z.reserved ≠ owner ∧ (z.extension ≠ 0 ∨ z.lateSince.isSome) then
    s.setQuad k { z with
      ended := z.ended.orElse fun _ => some (s.groupTime (k / 4))
      behind := z.behind.orElse fun _ => if lent then none else owner.map fun c => (c, s.groupTime (k / 4)) }
  else
    match owner with
    | some c =>
      if lent then (if z.reserved.isSome ∧ z.handing = false then s.endReservation k else s).behindStart k slot
      else if z.reserved = some c ∧ z.handing = false then s.setQuad k { z with lend := bitAt (s.slotEntry k slot) 10, ended := none }
      else
        match z.behind with
        | some (d, _) => if d = c then s.behindStart k slot
          else (s.behindStart k slot).setQuad k { (s.behindStart k slot).quad k with behind := some (c, s.groupTime (k / 4)) }
        | none => s.ownerStart k c slot (s.groupTime (k / 4))
    | none =>
      if z.reserved.isNone ∨ z.handing = true then s.behindStart k slot
      else (s.endReservation k).behindStart k slot

/-- The reservations that begin late at a slot: each counts once (R242). -/
def countLate (before after : State) (g : Nat) : State :=
  let late := ((List.range 4).filterMap fun q =>
    let k := 4 * g + q
    if (after.quad k).lateSince.isSome && !((before.quad k).lateSince.isSome && (before.quad k).reserved == (after.quad k).reserved)
    then (after.quad k).reserved else none).dedup
  if late.isEmpty then after
  else
    let x := after.group g
    (after.setGroup g { x with lateStarts := satAdd 16 x.lateStarts late.length }).raiseEv evPtn 3

/-- A frame begins: a table that the host has written is taken, refused, or ends (R241). -/
def takeTable (s : State) (g : Nat) : State :=
  let x := s.group g
  if x.schedNew = false then s
  else if x.schedEnable = false then s.setGroup g { x with schedNew := false, active := false, table := [], slot := 0 }
  else
    let t := (List.range 256).map fun i => le (s.fwRead (x.schedAddr * 1024 + 4 * i) 4) 0 4
    if s.tableOk g t then s.setGroup g { x with
      schedNew := false, active := true, table := t, frames := if x.active then x.frames else 0 }
    else s.setGroup g { x with schedNew := false, refused := true }

/-- A slot boundary arrives in group `g` (R241 to R243). A frame of a restored table begins at the slot it held (R330). -/
def slotBoundary (s : State) (g : Nat) : State :=
  let x := s.group g
  let next := if x.active then (x.slot + 1) % 64 else 0
  let back := if next = 0 then x.resume else none
  let slot := (back.map (·.1)).getD next
  let s1 := s.setGroup g { x with
    slot := slot, resume := if next = 0 then none else x.resume
    frames := (back.map (·.2)).getD (if x.active ∧ slot = 0 then (x.frames + 1) % 2 ^ 24 else x.frames) }
  let s2 := if next = 0 then s1.takeTable g else s1
  let stale := (List.range 4).any fun q => s2.entryStale (s2.slotEntry (4 * g + q) slot)
  let s3 := if stale then s2.raiseEv evPtn 4 else s2
  countLate s3 ((List.range 4).foldl (fun (s : State) q => (s.extensionOver (4 * g + q)).slotStart (4 * g + q)) s3) g

/-- A running context has run for its slice while a context of the same or higher class waits (R240). -/
def sliceEnd (s : State) (c : Nat) : State :=
  let k := s.ctx c
  if k.state = .running ∧ (k.quadList.any fun i => (s.contenders i).any fun d => decide (s.rankClass i d ≤ s.rankClass i c)) = true
  then s.giveUp c 2
  else s

/-- A save ends, once no domain that the context's image comes from is in reset; the drain of a fenced one does not keep it (Table 9-6, R338,
R363). -/
def saveEnd (s : State) (c : Nat) : State :=
  if s.drainsWait c = true ∧ ((s.ctx c).quadList.all fun k => s.live (quadDomain k)) = true ∧
      ((s.ctx c).dies.all fun n => s.live (fabricDomain n)) = true then s.saveDone c
  else s

/-- A restore ends (R247). -/
def restoreEnd (s : State) (c : Nat) : State :=
  if ((s.ctx c).quadList.all fun k => s.isOpen (quadDomain k)) = true ∧
      ((s.ctx c).dies.all fun n => s.isOpen (fabricDomain n)) = true then (s.restoreDone c).noteStart c
  else s

end State

/-- CONTEXT_BIND (R239, R240). -/
def execContextBind (ctx : Nat) (s : State) : Host.Outcome State Fault Refusal := act s fun s =>
  ((s.ctx ctx).quadList.foldl (fun (s : State) k => s.extensionOver k) s).bindCtx ctx

/-- SLOT_BOUNDARY (R241, R242). -/
def execSlotBoundary (group : Nat) (s : State) : Host.Outcome State Fault Refusal := act s fun s => s.slotBoundary group

/-- HANDOVER_START (R242, R243). -/
def execHandoverStart (group : Nat) (s : State) : Host.Outcome State Fault Refusal := act s fun s =>
  (s.extensionsOver group).handoverStart group

/-- SLICE_EXPIRY (R240). -/
def execSliceExpiry (ctx : Nat) (s : State) : Host.Outcome State Fault Refusal := act s fun s =>
  ((s.ctx ctx).quadList.foldl (fun (s : State) k => s.extensionOver k) s).sliceEnd ctx

/-- CONTEXT_SAVE_DONE (R244). -/
def execContextSaveDone (ctx : Nat) (s : State) : Host.Outcome State Fault Refusal := act s fun s => s.saveEnd ctx

/-- CONTEXT_RESTORE_DONE (R247). -/
def execContextRestoreDone (ctx : Nat) (s : State) : Host.Outcome State Fault Refusal := act s fun s => s.restoreEnd ctx

end Sys2Proof.Machine
end

