-- ==== Sys2Proof/Machine/HotSet.lean ====
section
/-! DEFINITION. The model hot set (R252) and targets borrowed for self-test and calibration (R255 to R257, R370, R371). -/

namespace Sys2Proof.Machine

namespace State

/-! ### The hot set -/

/-- Whether pages of a partition meet none of some entries. -/
def pagesClear (t : Tab HotEntry) (p first n : Nat) : Bool :=
  t.all fun e => e.2.ptn != p || e.2.first + e.2.pages ≤ first || first + n ≤ e.2.first

/-- The place of `n` pages beside some entries: the page asked for, or the lowest one that fits (log entry 32). -/
def hotPlace (t : Tab HotEntry) (p total first n : Nat) : Option Nat :=
  if first ≠ 2 ^ 32 - 1 then (if first + n ≤ total ∧ pagesClear t p first n = true then some first else none)
  else
    let starts := sortBy (fun a b => a ≤ b)
      (0 :: (t.filter fun e => e.2.ptn == p).map fun e => e.2.first + e.2.pages)
    starts.find? fun v => v + n ≤ total && pagesClear t p v n

/-- The unpinned entries of a partition, least recently used first (R252). -/
def hotVictims (s : State) (p : Nat) : List Nat :=
  (sortBy (fun a b => a.2.lastUse.toNat * 16384 + a.1 ≤ b.2.lastUse.toNat * 16384 + b.1)
    (s.hotset.filter fun e => e.2.ptn == p && !e.2.pinned)).map (·.1)

/-- How many of the least recently used entries must go for the pages to fit, and where they then lie. -/
def hotRoom (s : State) (p total first n : Nat) : Option (List Nat × Nat) :=
  let v := s.hotVictims p
  (List.range (v.length + 1)).findSome? fun i =>
    let gone := v.take i
    (hotPlace (s.hotset.filter fun e => !gone.contains e.1) p total first n).map fun x => (gone, x)

/-- PINNED on the frames of an entry set or cleared. -/
def pinFrames (s : State) (e : HotEntry) (on : Bool) : State :=
  (List.range e.pages).foldl (fun (s : State) i =>
    match s.pageFrame e.ptn (e.first + i) with
    | some f => s.setAttr f (setFld (s.attr f) 5 5 (b2n on))
    | none => s) s

/-- Write the completion of a hot-set request (Table 9-11). -/
def hotAnswer (s : State) (a entry first : Nat) (st : Status) (detail evicted : Nat) : State :=
  (((s.post (a + 6) (leBytes 2 entry)).post (a + 0x10) (leBytes 4 first)).post (a + 0x18)
    (leBytes 1 st.code ++ leBytes 1 detail)).post (a + 0x1C) (leBytes 4 evicted)

/-- A hot-set request (R252). -/
def hotRequest (s : State) (a : Nat) : State :=
  if a % 64 ≠ 0 ∨ s.requestOk a 32 = false then s
  else
    let l := s.fwRead a 32
    let op := le l 4 1
    let id := le l 6 2
    let first := le l 0x10 4
    let n := le l 0xC 4
    let p := s.ptnOf (le l 8 4)
    let e := tget s.hotset id
    let bad := 4 < op || 2 < le l 5 1 || le l 0x1A 2 != 0 ||
      (op != 0 && e.isNone) || (op == 4 && e.any (·.pinned))
    let total := ((p.bind fun i => tget s.ptns i).map Partition.pages).getD 0
    let room := p.bind fun i => s.hotRoom i total first n
    let free := (List.range 8192).find? fun i => !thas s.hotset (i + 1)
    match ptnRefusal [(le l 0 4 != 1, .versionUnsupported, 0), (op == 0 && p.isNone, .handleStale, 0),
      (bad, .refusedInfeasible, 0x10), (op == 0 && (room.isNone || free.isNone), .refusedCapacity, 6)] with
    | some (st, d) => s.hotAnswer a id first st d 0
    | none =>
      match op, p, room, free, e with
      | 0, some i, some (gone, at_), some f, _ =>
        let x : HotEntry := {
          kind := le l 5 1, ptn := i, first := at_, pages := n, model := le l 0x14 4, pinned := false, lastUse := s.supTime }
        let s1 := ({ s with hotset := tput (s.hotset.filter fun y => !gone.contains y.1) (f + 1) x } : State)
        let s2 := if gone.isEmpty then s1 else s1.raiseEv evPtn 7
        s2.hotAnswer a (f + 1) at_ .ok 0 gone.length
      | 1, _, _, _, some x =>
        (({ s with hotset := tput s.hotset id { x with pinned := true, lastUse := s.supTime } } : State).pinFrames x
          true).hotAnswer a id x.first .ok 0 0
      | 2, _, _, _, some x =>
        (({ s with hotset := tput s.hotset id { x with pinned := false } } : State).pinFrames x false).hotAnswer a id x.first
          .ok 0 0
      | 3, _, _, _, some x =>
        ({ s with hotset := tput s.hotset id { x with lastUse := s.supTime } } : State).hotAnswer a id x.first .ok 0 0
      | 4, _, _, _, some x =>
        (({ s with hotset := tdel s.hotset id } : State).raiseEv evPtn 7).hotAnswer a id x.first .ok 0 0
      | _, _, _, _, _ => s

/-! ### Borrowing (R255 to R257) -/

/-- The target type of a procedure (Table 14-3). -/
def procTarget (proc : Nat) : Option Nat :=
  if proc = 1 ∨ proc = 2 ∨ proc = 3 then some 0
  else if proc = 0x10 ∨ proc = 0x11 ∨ proc = 0x12 then some 1
  else if proc = 0x20 then some 2
  else if proc = 0x30 then some 3
  else if proc = 0x40 ∨ proc = 0x41 then some 4
  else none

/-- Numbers of targets of a type (Table 9-13). -/
def targetCount (ty : Nat) : Nat := [32, 512, 22, 24, 8].getD ty 0

/-- Whether a target exists in the variant. -/
def targetHere (s : State) (ty t : Nat) : Bool :=
  match ty with
  | 0 => s.variant.quad t
  | 1 => s.variant.stack (t / 32)
  | 2 => s.variant.link t
  | 3 => s.variant.engine t
  | _ => true

/-- The core of the controller that owns a target (R255): group controllers 0 to 7, media 8 and 9, E0's edge 10. -/
def targetCore (ty t : Nat) : Nat :=
  match ty with
  | 0 => t / 4
  | 1 => t / 64
  | 2 => (linkEnds t).1
  | 3 => 8 + t / 12
  | _ => 10

/-- The domain that a target lies in. -/
def targetDomain (ty t : Nat) : Nat :=
  match ty with
  | 0 => quadDomain t
  | 1 => stackDomain (t / 32)
  | 2 => dieDomain (linkEnds t).1
  | 3 => 73 + 2 * (t / 12)
  | _ => 76

/-- The quadrants whose reservations a target waits for (R256). -/
def targetQuads (s : State) (ty t : Nat) : List Nat :=
  match ty with
  | 0 => [t]
  | 1 =>
    match s.ptns.find? fun p => bitAt p.2.pcs t with
    | some (p, _) => (List.range 32).filter fun k => (List.range 64).any fun sl =>
        (s.slotOwner k sl).any fun c => (s.ctx c).ptn == p && (s.ctx c).critical
    | none => []
  | _ => []

/-- Whether a slot of quadrant `k` is a reservation that a test on a target must not meet. -/
def slotMeets (s : State) (ty t k sl : Nat) : Bool :=
  match ty with
  | 0 => (s.slotOwner k sl).isSome
  | _ => (s.slotOwner k sl).any fun c => (s.ptns.any fun p => bitAt p.2.pcs t && (s.ctx c).ptn == p.1) && (s.ctx c).critical

/-- A target is reserved (R256). -/
def targetReserved (s : State) (ty t : Nat) : Bool :=
  (s.targetQuads ty t).any fun k => (List.range 64).any fun sl => s.slotMeets ty t k sl

/-- From the present slot on, `window` µs pass without a reservation of the target (R256; log entry 33). -/
def targetClear (s : State) (ty t window : Nat) : Bool :=
  (s.targetQuads ty t).all fun k =>
    let now := (s.group (k / 4)).slot
    (ty != 0 || (s.quad k).reserved.isNone) &&
    (List.range (Nat.min 64 (ceilDiv (window * 1000) slotNs))).all fun j => !s.slotMeets ty t k ((now + j) % 64)

/-- The final completion of a test request (Table 9-13). -/
def testFinal (s : State) (a : Nat) (st : Status) (detail : Nat) : State :=
  s.post (a + 0x20) (leBytes 1 st.code ++ leBytes 1 1 ++ leBytes 1 detail ++ zeros 1)

/-- The interim state of a waiting request: its status and its place. -/
def testInterim (s : State) (a : Nat) (st : Status) (place : Nat) : State :=
  s.post (a + 0x20) (leBytes 1 st.code ++ zeros 2 ++ leBytes 1 place)

/-- The queue of a controller. -/
def testQueue (s : State) (c : Nat) : List TestReq := tgetD s.tests c []

/-- The state with a controller's queue replaced. -/
def setTests (s : State) (c : Nat) (l : List TestReq) : State := { s with tests := tput s.tests c l }

/-- Every waiting request of a queue shows its place; a request at the head whose target is reserved waits for a free
moment, or with MAX_DEFER 0 is refused at once (R255, R256). `fuel` bounds the refusals. -/
def testShow (s : State) (c : Nat) : Nat → State
  | 0 => s
  | fuel + 1 =>
    match s.testQueue c with
    | [] => s
    | h :: rest =>
      if h.running then rest.zipIdx.foldl (fun (s : State) r => s.testInterim r.1.addr .deferred (r.2 + 1)) s
      else if s.targetReserved h.targetType h.target && !s.targetClear h.targetType h.target h.window && h.maxDefer == 0 then
        (((s.setTests c rest).testFinal h.addr .testRefused 0).raiseEv evPtn 9).testShow c fuel
      else
        let s1 := if s.targetReserved h.targetType h.target && !s.targetClear h.targetType h.target h.window
          then s.testInterim h.addr .testDeferred 0 else s
        rest.zipIdx.foldl (fun (s : State) r => s.testInterim r.1.addr .deferred (r.2 + 1)) s1

/-- A test request (R255). -/
def testRequest (s : State) (a : Nat) : State :=
  if a % 64 ≠ 0 ∨ s.requestOk a 64 = false then s
  else
    let l := s.fwRead a 64
    let ty := le l 6 1
    let t := le l 8 4
    let window := le l 0xC 4
    let core := targetCore ty t
    let range := procTarget (le l 4 2) != some ty || 4 < ty || targetCount ty ≤ t || window < 1 || 100000 < window ||
      60000 < le l 0x10 4 || !clearAt l [(7, 1), (0x14, 4), (0x30, 16)]
    match ptnRefusal [(ty ≤ 4 && t < targetCount ty && !s.targetHere ty t, .unitAbsent, 0),
      (le l 0 4 != 1, .versionUnsupported, 0), (range, .refusedInfeasible, 0x10),
      (16 ≤ (s.testQueue core).length, .refusedCapacity, 7)] with
    | some (st, d) => s.testFinal a st d
    | none =>
      let r : TestReq := {
        addr := a, proc := le l 4 2, targetType := ty, target := t, window := window, maxDefer := le l 0x10 4, result := le l 0x18 8, running := false, start := 0 }
      (s.setTests core (s.testQueue core ++ [r])).testShow core 17

/-- A decode engine gives its clip back, to restart on another one (Table 8-12, Table 9-14). -/
def engineYield (s : State) (e : Nat) : State :=
  let x := s.engine e
  let s1 := if x.busy then
      { s with streams := tmod s.streams x.stream fun st => { st with
          window := st.window.map fun c =>
            if c.position == x.position && c.epoch == x.epoch && c.state == .decoding then { c with state := .complete } else c } }
    else s
  s1.setEngine e { x with busy := false }

/-- A head request takes its target (Table 9-14). A quadrant's context is preempted first; the borrowing begins once the
quadrant is free. -/
def takeTarget (s : State) (ty t : Nat) : State × Bool :=
  match ty with
  | 0 =>
    let s1 := s.setQuad t { s.quad t with borrowed := true }
    match (s.quad t).holder with
    | some d => (s1.beginSave d 5 .saved, false)
    | none => (s1, true)
  | 1 => (s.setPc t { s.pc t with borrowed := true }, true)
  | 2 => ((s.setRzLink t { s.rzLink t with borrowed := true }).placeDetour t, true)
  | 3 =>
    let s1 := s.engineYield t
    (s1.setEngine t { s1.engine t with borrowed := true }, true)
  | _ => (s.portTo t 3, true)

/-- A target returns to its owners. -/
def returnTarget (s : State) (ty t : Nat) : State :=
  match ty with
  | 0 => s.setQuad t { s.quad t with borrowed := false }
  | 1 => s.setPc t { s.pc t with borrowed := false }
  | 2 =>
    let x := s.rzLink t
    (s.setRzLink t { x with borrowed := false, detour := x.detour && x.state == .down }).rzPumpAll
  | 3 => s.setEngine t { s.engine t with borrowed := false }
  | _ => if (s.port t).state = 3 then s.portTo t 0 else s

/-- The head of a controller's queue begins its borrowing at a moment free of reservations (R256, R257). -/
def testBegin (s : State) (c : Nat) : State :=
  match s.testQueue c with
  | [] => s
  | h :: rest =>
    if h.running = true ∨ s.isOpen (targetDomain h.targetType h.target) = false ∨
        s.targetClear h.targetType h.target h.window = false ∨
        (h.targetType = 2 ∧ (s.rzLink h.target).state ≠ .up) ∨ (h.targetType = 4 ∧ (s.port h.target).state ≠ 0) then s
    else
      let r := s.takeTarget h.targetType h.target
      if r.2 then
        let t := (s.core c).time
        (r.1.setTests c ({ h with running := true, start := t } :: rest)).post (h.addr + 0x24) (leBytes 8 t.toNat)
      else r.1

/-- A test has waited MAX_DEFER for a free moment (R256). -/
def testDeferred (s : State) (c : Nat) : State :=
  match s.testQueue c with
  | [] => s
  | h :: rest =>
    if h.running = true ∨ s.targetReserved h.targetType h.target = false ∨
        (h.targetType = 0 ∧ (s.quad h.target).borrowed = true) then s
    else (((s.setTests c rest).testFinal h.addr .testRefused 0).raiseEv evPtn 9).testShow c 17

/-- The record of Table 14-4. -/
def procRecord (h : TestReq) (r : ProcResult) (cut : Bool) : List Byte :=
  let margin := if [0x0003, 0x0010, 0x0020, 0x0040].contains h.proc then r.margin else 0
  let mask := if [0x0001, 0x0002, 0x0010, 0x0020, 0x0040, 0x0041].contains h.proc then r.mask else 0
  leBytes 2 h.proc ++ leBytes 1 h.targetType ++ leBytes 1 (if cut || !r.complete then 2 else b2n r.failed) ++
  leBytes 4 h.target ++ leBytes 8 h.start.toNat ++ leBytes 4 r.duration ++ leBytes 4 r.failures ++ leBytes 4 margin ++
  zeros 4 ++ leBytes 16 mask ++ zeros 16

/-- The consequences of a procedure (Table 14-3): arrays that fail the scan are retired; failures of the march count as
uncorrectable errors (R352); a link has retrained, or goes DOWN where that failed (R54). -/
def procEffect (s : State) (proc t : Nat) (r : ProcResult) : State :=
  if proc = 1 then (members r.mask 128).foldl (fun (s : State) a => s.retireNoted (128 * t + a) s.flt.nextId) s
  else if proc = 2 then (members r.mask 128).foldl (fun (s : State) a =>
    (s.countArrayUe (128 * t + a)).retireFor (128 * t + a) s.flt.nextId) s
  else if proc = 0x20 ∧ (s.rzLink t).state = .up then (s.rzRetrain t).rzRetrained t (!r.failed)
  else s

/-- A running procedure ends, or is cut at its window's end (R257, R371). -/
def testEnd (s : State) (c : Nat) (r : ProcResult) (cut : Bool) : State :=
  match s.testQueue c with
  | [] => s
  | h :: rest =>
    if h.running then
      let s1 := if h.result = 0 then s else s.post h.result (procRecord h r cut)
      let s2 := (s1.returnTarget h.targetType h.target).procEffect h.proc h.target r
      let s3 := (s2.post (h.addr + 0x2C) (leBytes 4 (usBetween h.start (s.core c).time))).testFinal h.addr .ok (b2n cut)
      ((s3.setTests c rest).raiseEv evPtn 8).testShow c 17
    else s

/-- What a procedure that was broken off has found: the record says that it is incomplete, and how long it ran; what it had covered is
a free value (R371). -/
def brokenOff (s : State) (h : TestReq) (c : Nat) : ProcResult × State :=
  let f := s.fresh 32
  let m := f.2.fresh 32
  let k := m.2.fresh 128
  ({ failed := false, complete := false, duration := usBetween h.start (s.core c).time, failures := f.1, margin := m.1, mask := k.1 },
    k.2)

/-- Running tests on some targets end with DOMAIN_RESET (R257, Table 14-2), their records written first (R371). -/
def testAbort (s : State) (hit : Nat → Nat → Bool) : State :=
  (List.range 11).foldl (fun (s : State) c =>
    match s.testQueue c with
    | [] => s
    | h :: rest =>
      if h.running && hit h.targetType h.target then
        let b := s.brokenOff h c
        let s := if h.result = 0 then s else b.2.post h.result (procRecord h b.1 true)
        (((s.returnTarget h.targetType h.target).setTests c rest).testFinal h.addr .domainReset 0).testShow c 17
      else s) s

end State

/-- HOTSET_REQUEST (R252). -/
def execHotsetRequest (addr : Nat) (s : State) : Host.Outcome State Fault Refusal := act s fun s => s.hotRequest addr

/-- TEST_REQUEST (R255). -/
def execTestRequest (addr : Nat) (s : State) : Host.Outcome State Fault Refusal := act s fun s => s.testRequest addr

/-- TEST_BORROW_START (R256). -/
def execTestBorrowStart (ctrl : Nat) (s : State) : Host.Outcome State Fault Refusal := act s fun s => s.testBegin ctrl

/-- TEST_DEFER_LIMIT (R256). -/
def execTestDeferLimit (ctrl : Nat) (s : State) : Host.Outcome State Fault Refusal := act s fun s => s.testDeferred ctrl

/-- TEST_WINDOW_END (R257). -/
def execTestWindowEnd (ctrl : Nat) (result : ProcResult) (s : State) : Host.Outcome State Fault Refusal :=
  act s fun s => s.testEnd ctrl result true

/-- PROCEDURE_END (R370, R371). -/
def execProcedureEnd (ctrl : Nat) (result : ProcResult) (s : State) : Host.Outcome State Fault Refusal :=
  act s fun s => s.testEnd ctrl result false

end Sys2Proof.Machine
end

