-- ==== Sys2Proof/Machine/Demux.lean ====
section
/-! DEFINITION. The transport demultiplexer (R216) and what the decoders support and drop (R217, R218). The packet layout is that of
ISO/IEC 13818-1, which R216 names (log entry 166). -/

namespace Sys2Proof.Machine

/-- One transport packet: PID, whether a unit or section starts in it, whether its error indicator or scrambling control is set, its
continuity counter, its discontinuity indicator, its payload. -/
structure TsPacket where
  pid : Nat
  starts : Bool
  marked : Bool
  counter : Nat
  jump : Bool
  payload : List Byte
  deriving DecidableEq, Repr

/-- The packet that 188 bytes spell. -/
def TsPacket.ofBytes (l : List Byte) : TsPacket :=
  let b1 := le l 1 1
  let b3 := le l 3 1
  let field := if bitAt b3 5 then 1 + le l 4 1 else 0
  { pid := 256 * fld b1 4 0 + le l 2 1, starts := bitAt b1 6, marked := bitAt b1 7 || fld b3 7 6 != 0, counter := fld b3 3 0,
    jump := bitAt b3 5 && le l 4 1 != 0 && bitAt (le l 5 1) 7
    payload := if bitAt b3 4 then l.drop (4 + field) else [] }

/-- The packets of a clip, from byte 0 (R216). -/
def tsPackets (bytes : List Byte) : List TsPacket :=
  (List.range (bytes.length / 188)).map fun i => TsPacket.ofBytes ((bytes.drop (188 * i)).take 188)

/-- A number stored with its highest byte first. -/
def be (l : List Byte) (off n : Nat) : Nat := ((l.drop off).take n).foldl (fun v b => 256 * v + b.toNat) 0

/-- The whole sections that follow each other in a run of bytes, 0xFF bytes between them skipped. `fuel` bounds the bytes. -/
def cutSections : Nat → List Byte → List (List Byte)
  | 0, _ | _, [] => []
  | fuel + 1, b :: r =>
    let n := 3 + be (b :: r) 1 2 % 4096
    if b = 0xFF then cutSections fuel r
    else if r.length + 1 < n then []
    else (b :: r).take n :: cutSections fuel ((b :: r).drop n)

/-- The sections that the packets of a PID carry, from the first that starts in one. -/
def tsSections (ps : List TsPacket) (pid : Nat) : List (List Byte) :=
  match (ps.filter fun p => p.pid == pid).dropWhile fun p => !p.starts with
  | [] => []
  | p :: r =>
    let l := p.payload.drop (1 + le p.payload 0 1) ++ r.flatMap fun q => if q.starts then q.payload.drop 1 else q.payload
    cutSections l.length l

/-- The first program of the PAT, which has table_id 0: its number and the PID of its PMT (R216). -/
def firstProgram (ps : List TsPacket) : Option (Nat × Nat) :=
  ((tsSections ps 0).find? fun l => be l 0 1 == 0).bind fun pat =>
    ((List.range ((pat.length - 12) / 4)).map fun i => (be pat (8 + 4 * i) 2, be pat (10 + 4 * i) 2 % 8192)).find? fun p => p.1 != 0

/-- The PMT of the first program: on its PID, with table_id 2 and its program_number. -/
def firstPmt (ps : List TsPacket) : Option (List Byte) :=
  (firstProgram ps).bind fun p => (tsSections ps p.2).find? fun l => be l 0 1 == 2 && be l 3 2 == p.1

/-- The elementary streams of a PMT from an offset: stream type, PID, descriptors. `fuel` bounds them. -/
def pmtStreams (l : List Byte) (off : Nat) : Nat → List (Nat × Nat × List Byte)
  | 0 => []
  | fuel + 1 =>
    if l.length < off + 9 then []
    else
      let n := be l (off + 3) 2 % 4096
      (be l off 1, be l (off + 1) 2 % 8192, (l.drop (off + 5)).take n) :: pmtStreams l (off + 5 + n) fuel

/-- Whether descriptors hold the AV1 registration descriptor. `fuel` bounds them. -/
def av1Registered (l : List Byte) : Nat → Bool
  | 0 => false
  | fuel + 1 =>
    decide (2 ≤ l.length) && ((be l 0 1 == 5 && be l 2 4 == 0x41563031) || av1Registered (l.drop (2 + be l 1 1)) fuel)

/-- The codec of an elementary stream (R216): 0 MPEG-2, 1 H.264, 2 HEVC, 3 AV1. -/
def streamCodec (x : Nat × Nat × List Byte) : Option Nat :=
  match x.1 with
  | 0x02 => some 0
  | 0x1B => some 1
  | 0x24 => some 2
  | 0x06 => if av1Registered x.2.2 x.2.2.length then some 3 else none
  | _ => none

/-- The video stream that a clip entry selects: its PID and codec (R216). -/
def videoStream (ps : List TsPacket) (pid : Nat) : Option (Nat × Nat) :=
  ((firstPmt ps).bind fun l =>
    let xs := (pmtStreams l (12 + be l 10 2 % 4096) l.length).filter fun x => pid == 0x1FFF || x.2.1 == pid
    xs.findSome? fun x => (streamCodec x).map fun c => (x.2.1, c))

/-- Which packets of a PID mark their access unit as corrupt (R216): `last` is the counter of the packet before. -/
def tsCorrupt (last : Option Nat) : List TsPacket → List Bool
  | [] => []
  | p :: r =>
    let gap := !p.payload.isEmpty && !p.jump && last.any fun c => p.counter != (c + 1) % 16 && p.counter != c
    (p.marked || gap) :: tsCorrupt (some p.counter) r

/-- Whether Table 8-7 supports a frame of a codec (R217). -/
def frameSupported (codec : Nat) (f : Config.CodedFrame) : Bool :=
  !f.barred && f.chroma420 && (f.depth == 8 || f.depth == 10) && decide (f.width ≤ 4096 ∧ f.height ≤ 2304) &&
  (match codec with
   | 0 => f.profile == .main && decide (f.level ≤ 3)
   | 1 => (f.profile == .high || f.profile == .high10) && decide (f.level ≤ 51)
   | 2 => (f.profile == .main || f.profile == .main10) && decide (f.level ≤ 51)
   | _ => f.profile == .main && decide (f.level ≤ 51))

/-- The frames of a clip that are not dropped (R218): a corrupt or undecodable access unit drops every frame from the random access
point before it up to the next one, and leading frames that reference pictures before the clip's first one are dropped. -/
def keptFrames (marks : List Bool) (fs : List Config.CodedFrame) : List Config.CodedFrame :=
  let bad := fun (f : Config.CodedFrame) => f.undecodable || ((marks.drop f.first).take (f.last + 1 - f.first)).any id
  let gone := (fs.filter bad).map (·.group)
  fs.filter fun f => !gone.contains f.group && !f.leading

/-- What decoding a clip gives (R216 to R218). -/
structure Decoded where
  codec : Nat
  supported : Bool
  dropped : Nat
  frames : List Config.CodedFrame
  deriving DecidableEq, Repr

/-- A clip's bytes are demultiplexed and decoded; a clip that uses anything outside Table 8-7, or has no video stream of it, yields no
frames (R217). -/
def decodeClip (bytes : List Byte) (pid : Nat) : Decoded :=
  let ps := tsPackets bytes
  match videoStream ps (pid % 8192) with
  | none => { codec := 0, supported := false, dropped := 0, frames := [] }
  | some (v, codec) =>
    let mine := ps.filter fun p => p.pid == v
    let fs := Config.decodeStream codec (mine.map fun p => (p.starts, p.payload))
    if fs.all (frameSupported codec) then
      let kept := keptFrames (tsCorrupt none mine) fs
      { codec := codec, supported := true, dropped := fs.length - kept.length, frames := kept }
    else { codec := codec, supported := false, dropped := 0, frames := [] }

end Sys2Proof.Machine
end

