-- ==== Sys2Proof/Machine/Ingest.lean ====
section
/-! DEFINITION. Ingest streams (R208 to R231): opening, fetching, missing data, decoding and token blocks. -/

namespace Sys2Proof.Machine

namespace Stream

/-- A stream that replays a skip list (R215). -/
def replay (st : Stream) : Bool := bitAt (st.d 0x1C 1) 2

/-- The bytes of one READ. -/
def chunkBytes (st : Stream) : Nat := 1024 * 2 ^ st.d 0x34 1

/-- Whether a cursor lies at or beyond END_CURSOR. -/
def pastEnd (st : Stream) (c : Nat) : Bool := st.d 0x40 8 != 0 && decide (st.d 0x40 8 ≤ c)

/-- Every position before the end has been fetched. -/
def fetched (st : Stream) : Bool := 255 < st.fetchEpoch || st.pastEnd (cursorOf st.fetchEpoch st.fetchPos 0)

/-- The next position, in the next epoch after the last (R225). -/
def advance (st : Stream) : Stream :=
  if st.fetchPos + 1 < st.clips then { st with fetchPos := st.fetchPos + 1 }
  else { st with fetchPos := 0, fetchEpoch := st.fetchEpoch + 1 }

/-- The cursor of the next token to be emitted, as far as it is known. -/
def nextCursor (st : Stream) : Nat :=
  match st.gathered.head?, st.window.head? with
  | some t, _ => t.1
  | none, some c => Nat.max st.start (cursorOf c.epoch c.position c.first)
  | none, none => Nat.max st.start (cursorOf st.fetchEpoch st.fetchPos 0)

/-- A clip is still missing. -/
def missing (st : Stream) : Bool := st.window.any fun c => c.attempts > 1 && c.state == .reading

/-- The state of a stream that is not paused: a replay with a missing clip is STALLED (R215). -/
def runState (st : Stream) : StreamState := if st.replay && st.missing then .stalled else .running

end Stream

namespace Clip

/-- A field of the clip entry (Table 8-5). -/
def e (c : Clip) (off n : Nat) : Nat := le c.entry off n

/-- READs that the clip takes. -/
def total (c : Clip) (st : Stream) : Nat := ceilDiv (c.e 8 4) st.chunkBytes

/-- The first chunk neither read nor asked for. -/
def nextChunk (c : Clip) (st : Stream) : Option Nat :=
  (List.range (c.total st)).find? fun i => !c.chunks.contains i && !(c.data.any fun x => x.1 == i)

/-- The server a clip is read from. -/
def server (c : Clip) : Nat := if c.replica then c.e 0x11 1 else c.e 0x10 1

/-- The device's name for a clip in its window: epoch and position (R214). -/
def place (c : Clip) : Nat := c.epoch * 2 ^ 40 + c.position

/-- The bytes of a clip whose chunks have all come. -/
def contents (c : Clip) (st : Stream) : List Byte :=
  slice ((List.range (c.total st)).flatMap fun i => ((c.data.find? fun x => x.1 == i).map (·.2)).getD []) 0 (c.e 8 4)

end Clip

/-- An excluded clip (R212). -/
def entryExcluded (e : List Byte) (servers : Nat) : Bool :=
  bitAt (le e 0x18 1) 0 || le e 8 4 == 0 || 1000000000 < le e 8 4 || le e 8 4 % 188 != 0 || servers ≤ le e 0x10 1

namespace State

/-- The number that stands for a stream where a write of its is held at a protected frame. -/
def streamWriter (i : Nat) : Nat := 1024 + i

/-- Write the completion of a `MED_REQ` request (Table 8-1). -/
def medAnswer (s : State) (a : Nat) (st : Status) (detail handle clips : Nat) : State :=
  s.post (a + 0x70) (leBytes 1 st.code ++ leBytes 1 detail ++ zeros 2 ++ leBytes 4 handle ++ leBytes 8 clips)

/-- Whether a range of an HBM address lies in a partition's space, on a 64 KiB boundary. -/
def inSpace (s : State) (p a pages : Nat) : Bool :=
  match parseAddr a, tget s.ptns p with
  | .hbm q off, some x => q == p && off % 65536 == 0 && decide (off / 65536 + pages ≤ x.pages)
  | _, _ => false

/-- Every page of a range is SHARED and a partition is in the share list (R184, R229). -/
def sharedWith (s : State) (p a pages other : Nat) : Bool :=
  other == p || (match parseAddr a, tget s.ptns p with
    | .hbm _ off, some x => bitAt x.shares other && (List.range pages).all fun v =>
        match s.pageFrame p (off / 65536 + v) with
        | some f => bitAt (s.attr f) 1
        | none => false
    | _, _ => false)

/-- A field of a stream descriptor outside its range (detail 0x02). -/
def badStream (s : State) (l : List Byte) : Bool :=
  let h := Shape.ofBytes l
  let p := Nat.min 3 (fld (le l 0x13 1) 1 0)
  !clearAt l [(0x35, 3), (0x5C, 4), (0x6C, 4)] || bitAt (le l 0x10 1) 6 || bitAt (le l 0x10 1) 7 || bitAt (le l 0x11 1) 6 ||
  bitAt (le l 0x11 1) 7 || le l 0x12 1 < 2 || 64 < le l 0x12 1 || p == 3 || h.chroma == 3 || (h.fmt != 0xA && h.fmt != 0xB) ||
  le l 0x14 2 < 1 || 1024 < le l 0x14 2 || h.wd == 0 || 2048 < h.wd || h.wd % h.p != 0 || h.hd == 0 || 2048 < h.hd ||
  h.hd % h.p != 0 || h.stride < 1 || 64 < h.stride || h.stride ≤ h.phase || 7 < h.flags || 12 < le l 0x1D 1 ||
  h.maxFrames < 1 || 4096 < h.maxFrames || le l 0x20 8 % 65536 != 0 || le l 0x28 8 % 65536 != 0 ||
  le l 0x30 4 < 32768 || 976562 < le l 0x30 4 || le l 0x34 1 < 6 || 14 < le l 0x34 1 || !s.requestOk (le l 0x48 8) 64 ||
  (bitAt h.flags 2 && le l 0x58 4 != 0 && !s.requestOk (le l 0x50 8) (16 * le l 0x58 4)) ||
  !((List.range 13).any fun i => le l 0x68 4 == 2 ^ (i + 4)) || !s.requestOk (le l 0x60 8) (16 * le l 0x68 4)

/-- Whether an index's header and server records, as read, are whole (R211). -/
def indexOk (x : List Byte) : Bool :=
  let n := le x 4 4
  le x 0 4 == 1 && 1 ≤ n && n ≤ 256 && 1 ≤ le x 8 8 && le x 8 8 ≤ 2 ^ 40 &&
  le x 0x18 4 == crc32c (slice x 0 0x18 ++ slice x 0x20 (32 * n))

/-- The check that every `MED_REQ` request meets, then its own effect. -/
def medRequest (s : State) (a : Nat) (f : State → List Byte → State) : State :=
  if a % 128 ≠ 0 ∨ s.requestOk a 128 = false then s
  else if s.variant.media 0 = false then s.medAnswer a .unitAbsent 0 0 0
  else f s (s.fwRead a 128)

/-- Open a stream that a descriptor asks for, or refuse it. `index` is the header and server records of its index, as read. -/
def openFrom (s : State) (a : Nat) (index : Option (List Byte)) (l : List Byte) : State :=
  let h := Shape.ofBytes l
  let p := s.ptnOf (le l 4 4)
  let c0 := s.ctxOf (le l 8 4)
  let two := le l 0xC 4 != 0
  let c1 := s.ctxOf (le l 0xC 4)
  let st : Stream := {
    state := .running, desc := l, clips := (index.map fun x => le x 8 8).getD 0,
    servers := (index.map fun x => le x 4 4).getD 0, fetchPos := fld (le l 0x38 8) 55 16, fetchEpoch := fld (le l 0x38 8) 63 56,
    start := le l 0x38 8, uncounted := none, nextSeq := 0, window := [], gathered := [], skipped := 0, dropped := 0, rereads := 0,
    skipHead := 0, skipTail := 0, skips := [], index := index.getD [], loc := s.fwRead (le l 0x48 8) 64, parts := [] }
  let ring := le l 0x12 1 * (st.slotBytes / 65536)
  let space := p.any fun i => !s.inSpace i (le l 0x20 8) ring || !s.inSpace i (le l 0x28 8) (le l 0x30 4) ||
    (two && c1.any fun c => !s.sharedWith i (le l 0x20 8) ring (s.ctx c).ptn)
  let good := index.any indexOk
  let far := good && index.any fun x => le x 8 8 ≤ fld (le l 0x38 8) 55 16
  match refusal [(le l 0 4 != 1, .versionUnsupported, 0), (p.isNone || c0.isNone || (two && c1.isNone), .handleStale, 0),
    (!s.isOpen 72, .retryLater, 0), ((s.streamHandles.take 16).isNone, .refusedCapacity, 1),
    (s.badStream l || far, .refusedInfeasible, 2),
    (4096 < h.perFrame || 65536 < h.maxFrames * h.perFrame, .refusedInfeasible, 3), (space, .refusedInfeasible, 4),
    (!good, .refusedInfeasible, 5), ((c0.map fun c => (s.ctx c).ptn) != p, .refusedInfeasible, 6)],
    s.streamHandles.take 16 with
  | some (x, det), _ => s.medAnswer a x det 0 0
  | none, some (i, t) =>
    let s1 := { s with streams := tput s.streams i st, streamHandles := t }
    s1.medAnswer a .ok 0 (s1.streamHandle i) st.clips
  | none, none => s

/-- Open a stream (R208 to R210, R229). -/
def openStream (s : State) (a : Nat) (index : Option (List Byte)) : State := s.medRequest a fun s l => s.openFrom a index l

/-- A request that names a stream by its handle. -/
def streamRequest (s : State) (a : Nat) (f : State → Nat → Stream → State) : State :=
  s.medRequest a fun s l =>
    let i := s.streamOf (le l 4 4)
    match refusal [(le l 0 4 != 1, .versionUnsupported, 0), (i.isNone, .handleStale, 0), (!s.isOpen 72, .retryLater, 0)],
      i.bind fun k => (tget s.streams k).map fun x => (k, x) with
    | some (x, d), _ => s.medAnswer a x d (le l 4 4) 0
    | none, some (k, x) => (f s k x).medAnswer a .ok 0 (le l 4 4) x.clips
    | none, none => s

/-- Close a stream (R208). -/
def closeStream (s : State) (i : Nat) : State :=
  { s with
    streams := tdel s.streams i, streamHandles := s.streamHandles.free i
    engines := tmap (fun _ e => if e.busy && e.stream == i then { e with busy := false } else e) s.engines }

/-- Pause a stream. -/
def pauseStream (s : State) (i : Nat) (st : Stream) : State :=
  if st.state = .running ∨ st.state = .stalled then { s with streams := tput s.streams i { st with state := .paused } } else s

/-- Resume a paused stream; a replay with a missing clip enters STALLED (R215). -/
def resumeStream (s : State) (i : Nat) (st : Stream) : State :=
  if st.state = .paused then
    let s1 : State := { s with streams := tput s.streams i { st with state := st.runState } }
    if st.runState = .stalled then s1.raiseEv evMed 1 else s1
  else s

/-! ### Tokens at hand (R213, R225, R227) -/

/-- The tokens at hand, in order, of the window's decoded clips before the first that is not decoded. -/
def tokensReady (w : List Clip) : List (Nat × List Byte) :=
  (w.takeWhile fun c => c.state == .decoded).flatMap fun c =>
    c.tokens.zipIdx.map fun t => (cursorOf c.epoch c.position (c.first + t.2), t.1)

/-- The window after its first `n` tokens have gone; a clip whose last token has gone frees its reservation. -/
def dropTokens : List Clip → Nat → List Clip
  | [], _ => []
  | c :: r, n =>
    if c.state = .decoded ∧ c.tokens.length ≤ n then dropTokens r (n - c.tokens.length)
    else if c.state = .decoded then { c with first := c.first + n, tokens := c.tokens.drop n } :: r
    else c :: r

/-- Whether every consumer has released the ring slot of the next block (R228). -/
def slotFree (s : State) (st : Stream) : Bool :=
  (consumersOf st).all fun h =>
    let c := (s.ctxOf h.1).getD 0
    decide (0 ≤ ((s.ctx c).sync.getD h.2.2 0 - (st.nextSeq - BitVec.ofNat 32 (st.d 0x12 1) + 1)).toInt)

/-- The window has no room for the next clip: the tokens of the next block that are at hand go to its slot, once it is free, and leave
the window, so that its size decides nothing but how far ahead the device fetches (R213; log entry 183). -/
def gatherTokens (s : State) (st : Stream) : Stream :=
  let ready := tokensReady st.window
  let e := ((st.gathered ++ ready).head?.map fun t => t.1 / 2 ^ 56).getD 0
  let mine := (ready.takeWhile fun t => t.1 / 2 ^ 56 == e && !st.pastEnd t.1).take (st.d 0x14 2 - st.gathered.length)
  if st.uncounted.isSome || !s.slotFree st then st
  else { st with gathered := st.gathered ++ mine, window := dropTokens st.window mine.length }

/-! ### Fetching (R212 to R215) -/

/-- The state with a stream replaced. -/
def setStream (s : State) (i : Nat) (st : Stream) : State := { s with streams := tput s.streams i st }

/-- READs in flight to a server. -/
def readsAt (st : Stream) (server : Nat) : Nat :=
  ((st.window.filter fun c => c.server == server).map fun c => c.chunks.length).sum

/-- Fetching pauses while the partition of a stream is re-striped (Table 8-12). -/
def fetchPaused (s : State) (st : Stream) : Bool :=
  ((s.ptnOf (st.d 4 4)).bind fun p => tget s.ptns p).any (·.restriping)

/-- The server record that holds the index: that which the locator repeats, else the first (log entry 166). -/
def indexServer (st : Stream) : Nat :=
  ((List.range st.servers).find? fun n => serverRecord st n == slice st.loc 0 32).getD 0

/-- The READ of the entry of clip `c`: at ENTRY_OFFSET + 32 × c from the index base (R211), with the server's PCP (R294). -/
def entryAsk (i : Nat) (st : Stream) (c : Nat) : NetMsg :=
  .entryRead i (indexServer st) (le st.loc 1 1 % 8) c (le st.loc 0x20 8 + le st.index 0x10 8 + 32 * c) (le st.loc 0x28 4)

/-- The READ of chunk `n` of a clip's bytes (Table 8-5). -/
def chunkAsk (i : Nat) (st : Stream) (c : Clip) (n : Nat) : NetMsg :=
  .rdmaRead i c.server (le (serverRecord st c.server) 1 1 % 8) c.position c.epoch n (c.e 0 8 + n * st.chunkBytes) (c.e 0xC 4)

/-- Issue READs, oldest clip first, with at most 64 in flight per server. `fuel` bounds them. -/
def issueReads (s : State) (i : Nat) : Nat → State
  | 0 => s
  | fuel + 1 =>
    match tget s.streams i with
    | none => s
    | some st =>
      if s.fetchPaused st then s
      else
      match st.window.findIdx? fun c => c.state == .reading && (c.nextChunk st).isSome && readsAt st c.server < 64 with
      | none => s
      | some k =>
        match st.window[k]?, (st.window[k]?).bind fun c => c.nextChunk st with
        | some c, some n =>
          ((s.setStream i { st with window := st.window.set k { c with chunks := c.chunks ++ [n] } }).sendNet
            (chunkAsk i st c n)).issueReads i fuel
        | _, _ => s

/-- READs that one event can issue. -/
def maxReads : Nat := 64 * 257

/-- The positions that a stream passes over: those that a replay's skip list names (R215), and clips that it has skipped before and
logged (R226). -/
def skipListed (s : State) (st : Stream) (pos epoch : Nat) : Bool :=
  st.skips.contains (cursorOf epoch pos 0) || st.replay && (((List.range (st.d 0x58 4)).any fun k =>
    le (s.fwRead (st.d 0x50 8 + 16 * k) 8) 0 8 / 65536 == cursorOf epoch pos 0 / 65536) ||
    s.ckp.replay.any fun r => r.log.any fun l => le l 0 1 == 6 && le l 0x1C 8 / 65536 == cursorOf epoch pos 0 / 65536)

/-- The window's pages hold what the device puts there: their contents are undefined to every reader (R229). -/
def undefineWindow (s : State) (st : Stream) : State :=
  match parseAddr (st.d 0x28 8) with
  | .hbm p off =>
    { s with
      free := s.free + 1
      mem := (List.range (st.d 0x30 4)).foldl (fun m v =>
        match s.pageFrame p (off / 65536 + v) with
        | some f => m.undefine (hbmKey f 0) (hbmKey f 65536) s.free
        | none => m) s.mem }
  | _ => s

/-- The next permuted position (R212, R213, R215, R225): its clip's entry is read, the clip takes its reservation when it
fits, and its READs begin. An excluded or listed clip takes none. -/
def clipFetch (s : State) (i : Nat) (entry : List Byte) : State :=
  match tget s.streams i with
  | none => s
  | some st =>
    if (st.state ≠ .running ∧ st.state ≠ .stalled) ∨ s.isOpen 72 = false ∨ s.fetchPaused st = true then s
    else if st.fetched then s.issueReads i maxReads
    else if st.clips ≤ st.fetchPos || s.skipListed st st.fetchPos st.fetchEpoch then s.setStream i st.advance
    else
      let c0 := (s.ctxOf (st.d 8 4)).getD 0
      let s0 := s.sendNet (entryAsk i st (clipAt st.fetchPos st.clips (s.ctx c0).seed.toNat st.fetchEpoch))
      if entryExcluded entry st.servers then s0.setStream i st.advance
      else
        let h := st.shape
        let bytes := le entry 8 4 + h.maxFrames * h.perFrame * h.pitch
        let fits := fun (st : Stream) => decide ((st.window.map (·.bytes)).sum + bytes ≤ st.d 0x30 4 * 65536)
        let st1 := if fits st then st else s.gatherTokens st
        if fits st1 then
          let c : Clip := {
            position := st.fetchPos, epoch := st.fetchEpoch, state := .reading, entry := entry, chunks := [], data := [],
            replica := false, attempts := 1, since := none, reason := 0, bytes := bytes, first := 0, tokens := [] }
          ((s0.setStream i { st1.advance with window := st1.window ++ [c] }).undefineWindow st).issueReads i maxReads
        else (s.setStream i st1).issueReads i maxReads

/-- A clip's bytes are missing: it is read again from the other server (R214); a replay waits in STALLED (R215). -/
def reread (s : State) (i : Nat) (st : Stream) (k : Nat) (c : Clip) (reason : Nat) : State :=
  let other := if c.e 0x11 1 = 0xFF then c.replica else !c.replica
  let c1 := { c with
    state := .reading, chunks := [], data := [], replica := other, attempts := satAdd 16 c.attempts 1, reason := reason
    since := c.since.orElse fun _ => some (s.dom 72).time }
  let st1 := { st with window := st.window.set k c1, rereads := satAdd 16 st.rereads 1 }
  let st2 := if st1.state = .running then { st1 with state := st1.runState } else st1
  let s1 := s.setStream i st2
  let s2 := if st2.state = .stalled ∧ st.state ≠ .stalled then s1.raiseEv evMed 1 else s1
  s2.issueReads i maxReads

/-- A READ of clip bytes completes (R214): 0 with its bytes, 1 without an answer, 2 in error. `place` is the clip's epoch and
position. -/
def readComplete (s0 : State) (i place chunk result : Nat) (data : List Byte) : State :=
  match tget s0.streams i with
  | none => s0
  | some st =>
    match st.window.findIdx? fun c => c.place == place && c.state == .reading && c.chunks.contains chunk with
    | none => s0
    | some k =>
      match st.window[k]? with
      | none => s0
      | some c =>
        let s := if result = 1 then s0 else s0.dataArrives (ingestQp i c.server) (le (serverRecord st c.server) 1 1 % 8)
        if s.isOpen 72 = false then s0
        else if result ≠ 0 then s.reread i st k c result
        else
          let n := Nat.min st.chunkBytes (c.e 8 4 - chunk * st.chunkBytes)
          let c1 := { c with chunks := c.chunks.filter (· != chunk), data := c.data ++ [(chunk, slice data 0 n)] }
          if c1.data.length < c1.total st then
            (s.setStream i { st with window := st.window.set k c1 }).issueReads i maxReads
          else if crc32c (c1.contents st) = c.e 0x14 4 then
            let st1 := { st with window := st.window.set k { c1 with state := .complete, since := none } }
            (s.setStream i { st1 with state := if st1.state = .stalled then st1.runState else st1.state }).issueReads i maxReads
          else s.reread i st k c1 3

/-- The clip of a window that has been missing longest: the one that was found missing first (R214). -/
def longestMissing (w : List Clip) : Option Clip :=
  (w.filter fun c => c.attempts > 1 && c.state == .reading).foldl (fun (o : Option Clip) c =>
    match o.bind (·.since), c.since with
    | some a, some b => if (b - a).toInt < 0 then some c else o
    | some _, none => o
    | none, _ => if o.isNone || c.since.isSome then some c else o) none

/-- The clip that has been missing longest has been so for its limit (R214): without REPLAY it is skipped, once the skip log has
room; firmware copies the record into the replay log, which frees its place (R215). -/
def missingLimit (s : State) (i : Nat) : State :=
  match tget s.streams i with
  | none => s
  | some st =>
    match longestMissing st.window with
    | none => s
    | some c =>
      if st.replay = true ∨ st.d 0x68 4 ≤ (st.skipTail - st.skipHead).toNat ∨ s.isOpen 72 = false then s
      else
        let rec_ := leBytes 8 (cursorOf c.epoch c.position 0) ++ leBytes 1 c.reason ++ leBytes 1 c.server ++
          leBytes 2 c.attempts ++ zeros 4
        let logged := s.ckpPtn.isSome && s.logRing != 0
        let s1 := s.post (st.d 0x60 8 + 16 * (st.skipTail.toNat % st.d 0x68 4)) rec_
        let s2 := s1.setStream i { st with
          window := st.window.filter fun y => !(y.position == c.position && y.epoch == c.epoch),
          skipped := satAdd 24 st.skipped 1, skipTail := st.skipTail + 1,
          skips := st.skips ++ [cursorOf c.epoch c.position 0],
          skipHead := if logged then st.skipTail + 1 else st.skipHead }
        let s3 := s2.raiseEv evMed 0
        let s4 := if logged then s3.logPut 6 0 0 (s.ctx ((s.ctxOf (st.d 8 4)).getD 0)).step.toNat rec_ else s3
        s4.issueReads i maxReads

/-- The connection to a server of a stream has exhausted its retries: the bytes of every clip read from it are missing (R214). -/
def serverLost (s : State) (i server : Nat) : State :=
  let here := ((tget s.streams i).map fun st => (st.window.filter fun c =>
    c.state == .reading && c.server == server && !c.chunks.isEmpty).map Clip.place).getD []
  here.foldl (fun (s : State) p =>
    match tget s.streams i with
    | none => s
    | some st =>
      match st.window.findIdx? fun c => c.place == p && c.state == .reading with
      | none => s
      | some k =>
        match st.window[k]? with
        | some c => s.reread i st k c 1
        | none => s) s

/-! ### Decoding (R216 to R222) -/

/-- The clip of a stream with the lowest position whose bytes are complete is dealt to a free engine (R219). -/
def decodeStart (s : State) (i e : Nat) : State :=
  match tget s.streams i with
  | none => s
  | some st =>
    let x := s.engine e
    match st.window.findIdx? fun c => c.state == .complete with
    | none => s
    | some k =>
      match st.window[k]? with
      | none => s
      | some c =>
        if s.variant.engine e = false ∨ x.busy = true ∨ x.borrowed = true ∨ s.isOpen (targetDomain 3 e) = false ∨ s.isOpen 72 = false then s
        else
          let codec := (decodeClip (c.contents st) (c.e 0x12 2)).codec
          (s.setStream i { st with window := st.window.set k { c with state := .decoding } }).setEngine e { x with
            busy := true, codec := codec, stream := i, position := c.position, epoch := c.epoch }

/-- An engine finishes its clip (R217, R218, R220 to R222). Tokens before START_CURSOR are discarded (R225); a clip without
tokens leaves the window. -/
def decodeEnd (s : State) (e : Nat) : State :=
  let x := s.engine e
  let s0 := s.setEngine e { x with busy := false }
  if x.busy = false ∨ s.isOpen (targetDomain 3 e) = false then s
  else
    match tget s.streams x.stream with
    | none => s0
    | some st =>
      match st.window.findIdx? fun c => c.position == x.position && c.epoch == x.epoch && c.state == .decoding with
      | none => s0
      | some k =>
        match st.window[k]? with
        | none => s0
        | some c =>
          let r := decodeClip (c.contents st) (c.e 0x12 2)
          let all := st.shape.clipTokens (r.frames.map fun f => (f.planes, f.interlaced, f.depth == 10))
          let skip := if st.start / 65536 = cursorOf c.epoch c.position 0 / 65536 then st.start % 65536 else 0
          let c1 := { c with state := .decoded, first := skip, tokens := all.drop skip, data := [] }
          let st1 := { st with
            window := if c1.tokens.isEmpty then st.window.eraseIdx k else st.window.set k c1,
            dropped := satAdd 24 st.dropped r.dropped }
          let s1 := s0.setStream x.stream st1
          let s2 := if r.supported then s1 else s1.raiseEv evMed 2
          if r.dropped = 0 then s2 else s2.raiseEv evMed 3

/-! ### Blocks (R225, R227, R228) -/

/-- The next block, once it is known: its tokens and whether it ends its epoch. -/
def nextBlock (st : Stream) : Option (List (Nat × List Byte) × Bool) :=
  let ready := (st.gathered ++ tokensReady st.window).filter fun t => !st.pastEnd t.1
  match ready.head? with
  | none => none
  | some t0 =>
    let e := t0.1 / 2 ^ 56
    let mine := ready.takeWhile fun t => t.1 / 2 ^ 56 == e
    let n := st.d 0x14 2
    let more := n < mine.length
    let undecoded := st.window.any fun c => c.state != .decoded && c.epoch == e && !st.pastEnd (cursorOf c.epoch c.position 0)
    let over_ := !undecoded && (e < st.fetchEpoch || st.fetched)
    let ends := e < st.d 0x40 8 / 2 ^ 56 || st.d 0x40 8 == 0
    if more then some (mine.take n, false) else if over_ then some (mine.take n, ends) else none

/-- Whether the stream has no further token: everything before its end is fetched, and nothing in the window remains. -/
def streamOver (st : Stream) : Bool :=
  st.fetched && st.gathered.isEmpty && (tokensReady st.window).all (fun t => st.pastEnd t.1) &&
  st.window.all fun c => c.state == .decoded || st.pastEnd (cursorOf c.epoch c.position 0)

/-- The bytes of a ring slot (R227). -/
def slotImage (st : Stream) (toks : List (Nat × List Byte)) (ends : Bool) : List Byte :=
  let n := st.d 0x14 2
  toks.flatMap (·.2) ++ zeros (st.shape.pitch * (n - toks.length)) ++
  ((List.range n).flatMap fun j => leBytes 8 (((toks[j]?).map (·.1)).getD padCursor)) ++
  leBytes 8 ((toks.head?.map (·.1)).getD 0) ++ leBytes 8 ((toks.getLast?.map (·.1)).getD 0) ++ leBytes 4 st.nextSeq.toNat ++
  leBytes 2 toks.length ++ leBytes 2 (b2n ends) ++ zeros 40

/-- A stream of a group that has reached its END_CURSOR goes on with its replica's next piece, then with the next epoch. -/
def nextPart (s : State) (st : Stream) : Stream :=
  let r := ((tget s.net.members s.net.self).map (·.replica)).getD 0xFFFF
  if s.net.state = .solo ∨ s.net.replicas ≤ r ∨ st.d 0x40 8 = 0 then st
  else
    let ps := streamParts st s.net.replicas
    match (ps.getD r []).drop 1 with
    | p :: l => reopenAt { st with parts := ps.set r (p :: l) } p.1 p.2
    | [] =>
      let e := streamEpoch st + 1
      let next := epochParts e st.clips s.net.replicas
      match next.getD r [] with
      | p :: _ => if 255 < e ∨ p.2 ≤ p.1 then st else reopenAt { st with parts := next } p.1 p.2
      | [] => st

/-- A written block counts, once every write is acknowledged: each consumer's fill counter rises (R228). -/
def countBlock (s : State) (i : Nat) (st : Stream) (next : Nat) : State :=
  if s.unacked (streamWriter i) 0 st.nextSeq then s
  else if (consumersOf st).any fun h => (s.ctxOf h.1).isNone then
    (s.setStream i { st with state := .faulted, uncounted := none }).raiseEv evMed 5
  else
    let s1 := (consumersOf st).foldl (fun (s : State) h =>
      match s.ctxOf h.1 with
      | some c => s.setCtx c { s.ctx c with sync := lmod (s.ctx c).sync h.2.1 (· + 1) }
      | none => s) s
    let st1 := { st with
      uncounted := none, nextSeq := st.nextSeq + 1, start := next }
    let keep := s1.blockCursor st1 (s1.oldestUnreleased st1)
    let st1 := { st1 with skips := st.skips.filter fun c => keep / 65536 * 65536 ≤ c }
    s1.setStream i (if streamOver st1 then s1.nextPart { st1 with state := .done, window := [] } else st1)

/-- Firmware closes a FAULTED stream and reopens it, with the contexts that take the consumers' places, at the CURSOR of the oldest
block that not every consumer has released (Table 8-12). Its handle and SEQ go on (log entry 73). -/
def reopenFaulted (s : State) (i : Nat) (st : Stream) : State :=
  let cs := (consumersOf st).map fun h => ((s.heirOf h.1).filter fun c => (s.ctx c).state != .free, h.2)
  if cs.any fun h => h.1.isNone then s
  else
    let b := s.oldestUnreleased st
    let from_ := s.blockCursor st b
    let word := fun (n : Nat) => leBytes 4 (((cs[n]?).bind (·.1)).map s.ctxHandle |>.getD 0)
    let desc := slice st.desc 0 8 ++ word 0 ++ (if st.d 0xC 4 = 0 then zeros 4 else word 1) ++
      slice st.desc 0x10 (st.desc.length - 0x10)
    let s1 := cs.foldl (fun (s : State) h =>
      let c := h.1.getD 0
      s.setCtx c { s.ctx c with sync := lmod (s.ctx c).sync h.2.1 fun _ => b }) s
    s1.setStream i { reopenAt { st with desc := desc } from_ (st.d 0x40 8) with nextSeq := b }

/-- The stream writes its next block (R225, R227, R228), or enters DONE or FAULTED. -/
def blockWrite (s : State) (i : Nat) : State :=
  match tget s.streams i with
  | none => s
  | some st =>
    let cs := consumersOf st
    let ptn := (s.ptnOf (st.d 4 4)).getD 0
    if s.isOpen 72 = false ∨ (tget s.ptns ptn).any (·.restriping) = true then s
    else
      match st.uncounted with
      | some next => s.countBlock i st next
      | none =>
        if st.state = .faulted then s.reopenFaulted i st
        else if st.state ≠ .running then s
        else if cs.any fun h => (s.ctxOf h.1).isNone then
          (s.setStream i { st with state := .faulted }).raiseEv evMed 5
        else if streamOver st then s.setStream i (s.nextPart { st with state := .done, window := [] })
        else
          match nextBlock st with
          | none => s
          | some (toks, ends) =>
            let b := st.nextSeq
            let slots := st.d 0x12 1
            let a := st.d 0x20 8 + b.toNat % slots * st.slotBytes
            let img := slotImage st toks ends
            if s.slotFree st = false ∨ s.accessOk ptn 0 a img.length true false = false ∨ (s.accessFenced 0 a img.length).isSome = true then s
            else
              let last := (toks.getLast?.map (·.1)).getD 0
              let st1 := { st with uncounted := some (last + 1), gathered := [], window := dropTokens st.window (toks.length - st.gathered.length) }
              ((s.setStream i st1).putBytes (streamWriter i) 0 b ptn 0 a img).countBlock i st1 (last + 1)

/-- Whether a running stream could write its next block now, or has one whose writes are acknowledged and is not counted (R335, Table
13-2). -/
def blockDue (s : State) (i : Nat) (st : Stream) : Bool :=
  match st.uncounted with
  | some _ => !s.unacked (streamWriter i) 0 st.nextSeq
  | none => st.state == .running && (nextBlock st).isSome && s.slotFree st

/-- The shuffle engine's domain has been reset: each stream goes on after the last block whose fill was counted, and reads
its window again (Table 8-12). -/
def shuffleReset (s : State) : State :=
  { s with
    streams := tmap (fun _ st => { st with
      window := [], gathered := [], uncounted := none, fetchPos := fld st.start 55 16, fetchEpoch := st.start / 2 ^ 56 }) s.streams
    engines := tmap (fun _ e => { e with busy := false }) s.engines }

end State

/-- STREAM_OPEN (R208 to R210). -/
def execStreamOpen (addr : Nat) (index : Option (List Byte)) (s : State) : Host.Outcome State Fault Refusal :=
  act s fun s => s.openStream addr index

/-- STREAM_CLOSE (R208). -/
def execStreamClose (addr : Nat) (s : State) : Host.Outcome State Fault Refusal :=
  act s fun s => s.streamRequest addr fun s i _ => s.closeStream i

/-- STREAM_PAUSE (R208). -/
def execStreamPause (addr : Nat) (s : State) : Host.Outcome State Fault Refusal :=
  act s fun s => s.streamRequest addr fun s i st => s.pauseStream i st

/-- STREAM_RESUME (R208). -/
def execStreamResume (addr : Nat) (s : State) : Host.Outcome State Fault Refusal :=
  act s fun s => s.streamRequest addr fun s i st => s.resumeStream i st

/-- CLIP_FETCH (R213). -/
def execClipFetch (stream : Nat) (entry : List Byte) (s : State) : Host.Outcome State Fault Refusal :=
  act s fun s => s.clipFetch stream entry

/-- RDMA_READ_COMPLETE (R214). -/
def execRdmaReadComplete (stream position chunk result : Nat) (data : List Byte) (s : State) :
    Host.Outcome State Fault Refusal :=
  act s fun s => s.readComplete stream position chunk result data

/-- CLIP_MISSING_LIMIT (R214, R215). -/
def execClipMissingLimit (stream : Nat) (s : State) : Host.Outcome State Fault Refusal := act s fun s => s.missingLimit stream

/-- CLIP_DECODE_START (R219). -/
def execClipDecodeStart (stream engine : Nat) (s : State) : Host.Outcome State Fault Refusal :=
  act s fun s => s.decodeStart stream engine

/-- CLIP_DECODE_END (R218). -/
def execClipDecodeEnd (engine : Nat) (s : State) : Host.Outcome State Fault Refusal := act s fun s => s.decodeEnd engine

/-- BLOCK_WRITE (R228). -/
def execBlockWrite (stream : Nat) (s : State) : Host.Outcome State Fault Refusal := act s fun s => s.blockWrite stream

end Sys2Proof.Machine
end

