-- ==== Sys2Proof/Machine/Rates.lean ====
section
/-! DEFINITION. Rates, operating points, the power cap and the coolant loop (R56 to R60, R66, R67, R359 to R364). -/

namespace Sys2Proof.Machine

/-- s of R66 in thousandths. -/
def opScale (op : Nat) : Nat := [244, 546, 1000, 1518].getD op 0

/-- The point a group runs at: the lowest of REQ, CEIL and GRANT (R359). -/
def Group.point (x : Group) : Nat := Nat.min (Nat.min x.req x.ceil) x.grant

/-- The valve scale: one thousandth of full opening. -/
def permille : Int := 80000000

/-- A value held between two bounds. -/
def clampInt (x lo hi : Int) : Int := Max.max lo (Min.min x hi)

namespace State

/-- The present groups, ascending. -/
def groupList (s : State) : List Nat := List.range s.variant.groups

/-- Activity of a group in thousandths, summed over its quadrants; one without a completed window counts in full (R66). -/
def groupBusy (s : State) (g : Nat) : Nat :=
  ((List.range 4).map fun q => let x := s.quad (4 * g + q); if x.valid then x.busy else 1000).sum

/-- `load` of R66 in units of 1/16,000,000 W, with each group at the point that `ops` gives. -/
def powerLoad (s : State) (ops : Nat → Nat) : Nat :=
  750 * 16000000 + (s.groupList.map fun g => 1125 * s.groupBusy g * opScale (ops g)).sum

/-- The points the groups run at. -/
def points (s : State) (g : Nat) : Nat := (s.group g).point

/-- The total of R66 in W, rounded down: load × 31/30. -/
def predictedW (s : State) : Nat := s.powerLoad s.points * 31 / 480000000

/-- The effective cap in W: the lower of CAP and E / 18.75 ms (R360). -/
def effectiveCap (s : State) : Nat := Nat.min s.pwr.cap (s.pwr.holdJ * 160 / 3)

/-- Whether the prediction lies within the effective cap less the guard of 50 W (R66, R360). -/
def fits (s : State) (ops : Nat → Nat) : Bool :=
  decide (s.powerLoad ops * 31 + 50 * 480000000 ≤ s.effectiveCap * 480000000)

/-- The points with one group moved. -/
def pointsWith (s : State) (g p : Nat) (h : Nat) : Nat := if h = g then p else s.points h

/-- A group's GRANT lowered to a point, unless the prediction lies within the cap already (R360). -/
def lowerGrant (s : State) (lvl g : Nat) : State :=
  let x := s.group g
  if s.fits s.points = true ∨ x.grant ≤ lvl then s else (s.setGroup g { x with grant := lvl }).raiseEv evPwr 3

/-- OP3 grants are withdrawn, then groups lowered to OP1, then to OP0, each in descending group number, until the
prediction lies within the cap less the guard (R360). -/
def demote (s : State) : State :=
  [2, 1, 0].foldl (fun s lvl => s.groupList.reverse.foldl (fun (s : State) g => s.lowerGrant lvl g) s) s

/-- A group's GRANT rises to a point if the prediction with the group at that point lies within the cap (R360, R66). -/
def raiseGrant (s : State) (lvl g : Nat) : State :=
  let x := s.group g
  if x.grant + 1 = lvl ∧ (lvl = 3 → x.req = 3) ∧ s.fits (s.pointsWith g lvl) = true then s.setGroup g { x with grant := lvl } else s

/-- Each group's rail moves to the point it is to run at (R59, R359). -/
def moveRails (s : State) : State :=
  s.groupList.foldl (fun (s : State) g =>
    let x := s.group g
    s.setGroup g { x with target := x.point, pending3 := x.req == 3 && x.grant != 3 }) s

/-- Firmware evaluates the operating points (R359, R360): OP3 is given up where it is asked for no longer; the cap; rises;
pending OP3 requests in ascending group number. -/
def evaluate (s : State) : State :=
  let s1 := s.groupList.foldl (fun (s : State) g =>
    let x := s.group g
    if x.grant = 3 ∧ x.req ≠ 3 then s.setGroup g { x with grant := 2 } else s) s
  let s2 := s1.demote
  let s3 := s2.groupList.foldl (fun (s : State) g => s.raiseGrant 1 g) s2
  let s4 := if s3.groupList.any fun g => (s3.group g).grant == 0 then s3
    else s3.groupList.foldl (fun (s : State) g => s.raiseGrant 2 g) s3
  let s5 := if s4.groupList.any fun g => decide ((s4.group g).grant < 2) then s4
    else s4.groupList.foldl (fun (s : State) g => s.raiseGrant 3 g) s4
  s5.moveRails

/-- Telemetry is read again: input power, voltage and current, the power of each domain that is on. The values are free. -/
def telemetry (s : State) : State :=
  let w := s.fresh 12
  let v := w.2.fresh 10
  let a := v.2.fresh 16
  let s1 := { a.2 with pwr := { a.2.pwr with inputW := w.1, inputDv := v.1, inputDa := a.1 } }
  s1.variant.domainList.foldl (fun (s : State) d =>
    let x := s.dom d
    if x.power = .off then s
    else
      let p := s.fresh 12
      p.2.setDom d { x with powerDw := p.1 }) s1

/-- A group's rail reaches its target (R59). -/
def rampEnd (s : State) (g : Nat) : State :=
  let x := s.group g
  if s.variant.group g = false ∨ x.op = x.target then s
  else
    (List.range 7).foldl (fun (s : State) m =>
      let y := s.dom (7 * g + m)
      if y.power = .off then s else s.setDom (7 * g + m) { y with railMv := opMillivolts x.target })
      (s.setGroup g { x with op := x.target })

/-- Input power has stayed above the cap (R67): the highest-numbered group at OP3 moves whatever the prediction says, then
others until the prediction falls below the cap less the guard. -/
def overCap (s : State) (w : Nat) : State :=
  let s0 := { s with pwr := { s.pwr with inputW := w % 2 ^ 12 } }
  if w ≤ s.pwr.cap then s0
  else
    (s0.groupList.reverse.foldl (fun (p : State × Bool) g =>
      let x := p.1.group g
      let below := decide (p.1.powerLoad p.1.points * 31 + 50 * 480000000 < p.1.pwr.cap * 480000000)
      if x.point = 3 ∧ (p.2 = false ∨ below = false) then (p.1.setGroup g { x with grant := 2 }, true) else p)
      (s0, false)).1.moveRails

/-- The rate monitor of a quadrant writes its window's figures (R60): RATE and BUSY rounded down; and the shares of the
window that the links of the group spent in transfers, which are free values. The cap is tested (R360). -/
def rateWindow (s : State) (k waves issued tj : Nat) : State :=
  let x := s.quad k
  if s.variant.quad k = false ∨ s.live (quadDomain k) = false then s
  else
    let s1 := s.setQuad k { x with
      rate := Nat.min (2 ^ 16 - 1) (waves / Nat.max 1 x.window)
      busy := if waves = 0 then 0 else Nat.min 1000 (issued * 1000 / waves)
      op := (s.group (k / 4)).op
      valid := true
      tj := tj % 256
      winEnd := fld (s.groupTime (k / 4)).toNat 33 10
      window := s.sel.rateWin }
    let s2 := ((List.range 22).filter fun l => s1.variant.link l && ((linkEnds l).1 == k / 4 || (20 ≤ l && k / 4 == 0))).foldl
      (fun (s : State) l =>
        let y := s.rzLink l
        let a := s.fresh 10
        let b := a.2.fresh 10
        b.2.setRzLink l { y with low := { y.low with util := a.1 % 1001 }, high := { y.high with util := b.1 % 1001 } }) s1
    s2.demote.moveRails

/-! ### The coolant loop (R361 to R364) -/

/-- A group's CEIL falls to a point (`PWR_EVENT.CEIL_LOWERED`). -/
def lowerCeil (s : State) (g c : Nat) : State :=
  let x := s.group g
  if x.ceil ≤ c then s else (s.setGroup g { x with ceil := c }).raiseEv evPwr 4

/-- Every group's CEIL becomes a point or lower. -/
def lowerCeils (s : State) (c : Nat) : State := s.groupList.foldl (fun (s : State) g => s.lowerCeil g c) s

/-- SMB_ALERT_N is driven low (R424). -/
def alert (s : State) : State := { s with pins := { s.pins with alertN := false } }

/-- One pass of the loop (R361) with the inlet rule of R362. A cooling fault holds the valve fully open (R364). Each
stack's temperature is read again, a free value. -/
def loopPass (s : State) (tj th inlet outlet pos : Nat) : State :=
  let p := s.pwr
  let e : Int := Max.max ((tj : Int) - (p.tjTarget : Int)) ((th : Int) - (p.hbmTarget : Int))
  let lo : Int := (p.valveMin : Int) * permille
  let hi : Int := 1000 * permille
  let integ := if p.valve = hi ∨ p.valve = lo then p.integ10 else clampInt (p.integ10 + 8 * e) (-5000) 10000
  let u := clampInt ((s.powerLoad s.points : Nat) + 40 * e * permille + integ * (permille / 10)) lo hi
  let u := clampInt u (p.valve - 50 * permille) (p.valve + 50 * permille)
  let s1 := { s with pwr := { p with
    valve := if p.cooling then hi else u, integ10 := integ, err := e, inlet := inlet % 256, outlet := outlet % 256,
    pos := pos % 1024, tjMax := tj % 256 } }
  let s2 := ((List.range 16).filter s1.variant.stack).foldl (fun (s : State) k =>
    let t := s.fresh 8
    t.2.setStack k { t.2.stack k with temp := t.1 }) s1
  (if inlet ≥ p.inletMax then s2.lowerCeils 1 else s2).evaluate

/-- u has been 1000 for 2 s and e exceeds 2 °C: the CEIL of the hottest quadrant's group falls by one point (R362). -/
def hottestFalls (s : State) (k : Nat) : State :=
  if s.variant.quad k = true ∧ s.pwr.valve = 1000 * permille ∧ 2 < s.pwr.err then
    (s.lowerCeil (k / 4) ((s.group (k / 4)).ceil - 1)).evaluate
  else s

/-- The groups whose CEIL the loop may raise: a comparator holds a hot group at OP0 (R363), a cooling fault every group at
OP1 (R364). -/
def coolGroups (s : State) : List Nat :=
  s.groupList.filter fun g =>
    let x := s.group g
    !x.hot && decide (x.ceil < if s.pwr.cooling then 1 else 3)

/-- Conditions have been cool for 30 s: one group's CEIL rises by one point, the lowest first (R362). -/
def coolestRises (s : State) : State :=
  if s.pwr.inlet < s.pwr.inletMax ∧ s.pwr.valve < 900 * permille ∧ s.pwr.err < -3 then
    match [0, 1, 2].findSome? fun c => s.coolGroups.find? fun g => (s.group g).ceil == c with
    | some g => (s.setGroup g { s.group g with ceil := (s.group g).ceil + 1 }).evaluate
    | none => s
  else s

/-- What makes a cooling fault, once it has lasted (R364): valve and command differ by more than 100 ‰, a sensor reads above 90 °C, or
the outlet reads more than 2 °C below the inlet while the module draws over 500 W. -/
def coolingFault (s : State) : Bool :=
  let p := s.pwr
  decide (100 < ((p.pos : Int) - p.valve / permille).natAbs) || decide (90 < p.inlet) || decide (90 < p.outlet) ||
    (decide (p.outlet + 2 < p.inlet) && decide (500 < p.inputW))

/-- A cooling fault (R364): the valve opens fully, CEIL is held at OP1 or lower, the alert stands. -/
def coolingFails (s : State) : State :=
  if s.coolingFault = false then s
  else ((({ s with pwr := { s.pwr with cooling := true, valve := 1000 * permille } } : State).lowerCeils 1).raiseEv evPwr 7).alert.evaluate

/-- The fault has been absent for 60 s; it ends once the host has cleared the event (R364). -/
def coolingOver (s : State) : State :=
  if s.pwr.cooling = true ∧ s.coolingFault = false ∧ bitAt (s.ev evPwr).value 7 = false then { s with pwr := { s.pwr with cooling := false } } else s

/-- A junction at TJ_HOT or above: the comparator sets the group's CEIL to OP0 (R363). -/
def junctionHot (s : State) (k tj : Nat) : State :=
  if s.variant.quad k = true ∧ s.pwr.tjHot ≤ tj then
    let g := k / 4
    let s1 := s.setGroup g { s.group g with hot := true }
    ((s1.lowerCeil g 0).raiseEv evPwr 5).evaluate
  else s

/-- Every junction of a hot group has been cool for 10 s: CEIL returns to OP1 (R363). -/
def hotOver (s : State) (g : Nat) : State :=
  let x := s.group g
  if x.hot then (s.setGroup g { x with hot := false, ceil := Nat.max 1 x.ceil }).evaluate else s

end State

/-- RATE_WINDOW_END (R60). -/
def execRateWindowEnd (quad waves issued tj : Nat) (s : State) : Host.Outcome State Fault Refusal :=
  act s fun s => s.rateWindow quad waves issued tj

/-- OP_RAMP_END (R59). -/
def execOpRampEnd (group : Nat) (s : State) : Host.Outcome State Fault Refusal := act s fun s => s.rampEnd group

/-- OP_EVALUATION (R359, R360). -/
def execOpEvaluation (s : State) : Host.Outcome State Fault Refusal := act s fun s => s.telemetry.evaluate

/-- POWER_OVER_CAP (R67). -/
def execPowerOverCap (inputW : Nat) (s : State) : Host.Outcome State Fault Refusal := act s fun s => s.overCap inputW

/-- COOLANT_LOOP_PASS (R361, R362). -/
def execCoolantLoopPass (tj th inlet outlet pos : Nat) (s : State) : Host.Outcome State Fault Refusal :=
  act s fun s => s.loopPass tj th inlet outlet pos

/-- CEIL_LOWER (R362). -/
def execCeilLower (hottest : Nat) (s : State) : Host.Outcome State Fault Refusal := act s fun s => s.hottestFalls hottest

/-- CEIL_RAISE (R362). -/
def execCeilRaise (s : State) : Host.Outcome State Fault Refusal := act s fun s => s.coolestRises

/-- COOLING_FAULT (R364). -/
def execCoolingFault (s : State) : Host.Outcome State Fault Refusal := act s fun s => s.coolingFails

/-- COOLING_FAULT_END (R364). -/
def execCoolingFaultEnd (s : State) : Host.Outcome State Fault Refusal := act s fun s => s.coolingOver

/-- TJ_HOT (R363). -/
def execTjHot (quad tj : Nat) (s : State) : Host.Outcome State Fault Refusal := act s fun s => s.junctionHot quad tj

/-- HOT_CLEAR (R363). -/
def execHotClear (group : Nat) (s : State) : Host.Outcome State Fault Refusal := act s fun s => s.hotOver group

end Sys2Proof.Machine
end

