-- ==== Sys2Proof/Machine/Network.lean ====
section
/-! DEFINITION. The cascade group (R289 to R302, R408): forming it, step-start records, heartbeats and misses, failover,
lost members and restarted steps. -/

namespace Sys2Proof.Machine

/-- The done counter of a collective's descriptor (Table 11-6). -/
def collDone (e : List Byte) : Nat := fld (le e 0x28 1) 5 3

/-- The attempt in its STATUS_IN (Table 11-7). -/
def collAttempt (e : List Byte) : Nat := fld (le e 0x34 4) 27 24

namespace State

def setNet (s : State) (n : Net) : State := { s with net := n }

/-- A member of the roster, if it names one. -/
def member (s : State) (m : Nat) : Option Member := tget s.net.members m

def modMember (s : State) (m : Nat) (f : Member → Member) : State := s.setNet { s.net with members := tmod s.net.members m f }

/-- Whether this module is the master. -/
def isMaster (s : State) : Bool := s.net.state != .solo && s.net.self == s.net.master

/-- Members that take part: those JOINED, and this module. -/
def liveMembers (s : State) : List Nat := (s.net.members.filter fun p => p.2.state == 1 || p.1 == s.net.self).map (·.1)

/-- A message to every other live member. -/
def sendAll (s : State) (f : Nat → NetMsg) : State :=
  (s.liveMembers.filter (· != s.net.self)).foldl (fun (s : State) m => s.sendNet (f m)) s

/-- The group stops (R300, R301). -/
def haltGroup (s : State) : State := (s.setNet { s.net with state := .halted }).raiseEv evNet 2

/-- Whether E0's edge controller acts: its domain is open and the module is in a group that has not halted. -/
def inGroup (s : State) : Bool := s.isOpen 76 && s.net.state != .solo && s.net.state != .halted

/-- The deputy of a new master: the lowest-numbered live compute member other than it and the member that was lost (Table 11-4,
step 4). Every member can tell. -/
def deputyAfter (s : State) (master lost : Nat) : Nat :=
  (((s.net.members.filter fun p => p.2.role == 0 && p.2.state == 1 && p.1 != master && p.1 != lost).map (·.1)).head?).getD master

/-- The highest TERM seen. A former master that sees a higher one is an ordinary compute member again, under the member that was
its deputy (R299, R300). -/
def seeTerm (s : State) (term : Nat) : State :=
  if term ≤ s.net.term then s
  else if s.isMaster then s.setNet { s.net with
    term := term, master := s.net.deputy, deputy := s.deputyAfter s.net.deputy s.net.self, stopped := false, sentToDeputy := false
    reports := [], holdFor := none, unsettled := [], notices := [] }
  else s.setNet { s.net with term := term }

/-- A control message of a TERM below the highest seen is ignored (R299). -/
def withTerm (s : State) (term : Nat) (f : State → State) : State :=
  if s.inGroup = false ∨ term < s.net.term then s else f (s.seeTerm term)

/-- The record that carries notices when no step is to start: that in force (log entry 178). -/
def tell (s : State) (l : List GroupNotice) : State :=
  let r : StepRecord := s.net.record.getD {
    step := s.net.step, term := s.net.term, gen := s.net.gen, decision := 0, seed := 0, lrH := 0, cursors := [] }
  s.sendAll fun m => .stepStart s.net.groupId m { r with term := s.net.term, gen := s.net.gen, notices := l }

/-! ### Forming the group (R290, R291, R309) -/

/-- A member of a roster entry (Table 11-2). -/
def entryMember (l : List Byte) : Member :=
  { role := le l 2 1, replica := le l 4 2, stage := le l 6 1, protoMax := le l 7 1, feed := le l 8 4, ident := le l 0x20 16,
    state := 0, lastStep := 0, lastHeard := 0, missed := false, paused := false }

/-- The members of a roster. -/
def rosterMembers (l : List Byte) : Tab Member :=
  (List.range (le l 8 2)).map fun i => (i, entryMember (slice l (64 + 64 * i) 64))

/-- A valid roster (R290). -/
def rosterOk (l : List Byte) : Bool :=
  let n := le l 8 2
  let ms := rosterMembers l
  let cs := ms.filter fun p => p.2.role == 0
  let isCompute := fun m => cs.any fun p => p.1 == m
  le l 0x1C 4 == crc32c (slice l 0 0x1C ++ slice l 64 (64 * n)) &&
  decide (((cs.map fun p => (p.2.replica, p.2.stage)) : List (Nat × Nat)).Nodup) && cs.length == le l 0xE 2 * le l 0x10 1 &&
  isCompute (le l 0xA 2) && isCompute (le l 0xC 2) && le l 0xA 2 != le l 0xC 2

/-- The nonce of a HELLO's report (R404): the SHA-384 of the master's IDENT and GEN. -/
def helloNonce (s : State) : List Byte :=
  sha384 (leBytes 16 (((s.member s.net.master).map (·.ident)).getD 0) ++ leBytes 4 s.net.gen)

/-- The module starts as member `self` of a roster (R290, R291). -/
def startGroup (s : State) (self : Nat) (l : List Byte) : State :=
  let ms := rosterMembers l
  let n : Net := { Net.reset with
    state := .forming, self := self, master := le l 0xA 2, deputy := le l 0xC 2, gen := le l 0x14 4, groupId := le l 4 4,
    protoMin := le l 0x12 1, replicas := le l 0xE 2, stages := le l 0x10 1, crc := le l 0x1C 4,
    qpnBase := le l (64 + 64 * self + 0xC) 4 % 2 ^ 24, members := ms, roster := l, pcp := s.net.pcp }
  if rosterOk l = false then (s.setNet { n with state := .halted }).raiseEv evNet 4
  else
    let s1 := (s.setNet n).modMember self fun m => { m with state := 1 }
    if self = n.master then s1
    else
      let r := s1.ownReport s1.helloNonce
      r.2.sendNet (.hello n.groupId n.master n.term n.gen n.crc self (((s1.member self).map (·.protoMax)).getD 0) r.1)

/-- A new deputy is named and sent the master state (Table 11-4, step 4). -/
def newDeputy (s : State) (lost : Nat) : State :=
  let d := s.deputyAfter s.net.self lost
  if d = s.net.self then s else (s.setNet { s.net with deputy := d }).sendNet (.masterState s.net.groupId d s.net.term s.net.gen)

/-- The first step-start record goes to the deputy (R291, R296). Its cursors of other replicas are free values, as for
every record. -/
def firstRecord (s : State) : State :=
  let me := (s.contexts.find? fun p => p.2.state != .free && p.2.queues.any fun x => x.ringLog2 != 0).map (·.2)
  let mine := ((s.member s.net.self).map (·.replica)).getD 0
  let r : StepRecord := {
    step := (me.map (·.step)).getD 0, term := s.net.term, gen := s.net.gen, decision := 0, seed := (me.map (·.seed)).getD 0,
    lrH := (me.map (·.lrH)).getD 0, notices := s.net.notices
    cursors := (List.range s.net.replicas).map fun i =>
      if i = mine then (me.map (·.drawCursor)).getD 0 else Config.freeValue 64 (s.free + i) }
  (({ s with free := s.free + s.net.replicas } : State).setNet { s.net with
    record := some r, sentToDeputy := true, reports := [] }).sendNet (.stepStart s.net.groupId s.net.deputy r)

/-! ### The end of a collective (R304, R306) -/

/-- The bytes of entry `x` of a context's ring. -/
def collEntry (s : State) (c : Nat) (x : Word) : List Byte := s.fwRead (s.crAt c x) 64

/-- Write COMPLETION, then add 1 to the done counter (R304, R306). A handle that was stale names no counter. -/
def collFinish (s : State) (c : Nat) (x : Word) (st : Status) (word : Nat) : State :=
  let e := s.collEntry c x
  let s1 := s.post (s.crAt c x + 0x38) (leBytes 1 st.code ++ leBytes 1 (collAttempt e) ++ zeros 2 ++ leBytes 4 word)
  let k := s1.ctx c
  let s2 := s1.setCtx c { k with ringHead := x + 1 }
  let s3 := match s2.ctxOf (le e 4 4) with
    | some d => s2.setCtx d { s2.ctx d with sync := lmod (s2.ctx d).sync (collDone e) (· + 1) }
    | none => s2
  let s4 := { s3 with collectives := s3.collectives.filter fun y => !(y.ctx == c && y.entry == x) }
  if bitAt word 16 then s4.raiseEv evNet 6 else s4

/-! ### Restarting a step (R301) -/

/-- A context takes up its step again from the first gate; its update has not been applied (R301, log entry 35). -/
def stepBack (s : State) (c : Nat) : State :=
  let k := s.ctx c
  match k.point with
  | none => s
  | some p =>
    let s1 := s.idleArrays c
    let k := s1.ctx c
    let s2 := s1.setCtx c { k with
      sync := p.sync, ringHead := p.ringHead, queues := k.queues.zipIdx.map fun (x, i) => queueBack x (p.queues.getD i (0, 0)),
      stepStatus := 0, skipReq := false, layerReports := [], heldNow := [], losses := [], attempt := 0, susp := [],
      suspDrains := [], suspLoads := [], dropArrays := true }
    (s2.chansOf fun ch => (tget s2.jobs ch.job).any fun j => j.studentCtx == c).foldl (fun s i =>
      s.modChan i fun ch => { ch with
        slots := ch.slots.map fun _ => SorSlot.reset, fill := 0, nextSeq := ch.stepSeq, escalated := false }) s2

/-- The collectives in flight complete with DOMAIN_RESET (R301). -/
def abandonCollectives (s : State) : State :=
  s.collectives.foldl (fun (s : State) x => s.collFinish x.ctx x.entry .domainReset 0) s

/-- A step is abandoned on this member: its collectives complete with DOMAIN_RESET, no update of it is applied, and its
contexts and streams take it up again at the cursor that its record gives (R301, log entry 35). -/
def restartStep (s : State) (r : StepRecord) : State :=
  let mine := ((s.member s.net.self).map (·.replica)).getD 0
  let ks := (s.contexts.filter fun p => p.2.point.isSome && p.2.step == r.step && p.2.state != .free && p.2.state != .teardown).map (·.1)
  let s1 := ks.foldl (fun (s : State) c => s.stepBack c) s.abandonCollectives
  match r.cursors[mine]? with
  | some cur => { s1 with streams := tmap (fun _ st =>
      if ks.isEmpty || (streamEpoch st != cur.toNat / 2 ^ 56) then st else reopenAt st cur.toNat (le st.desc 0x40 8)) s1.streams }
  | none => s1

/-! ### Losing a member (R301, R302) -/

/-- A ROSTER record (Table 12-2). -/
def rosterLog (s : State) (lost by_ : Nat) : State :=
  s.logPut 7 0 0 s.net.step.toNat (leBytes 4 s.net.gen ++ leBytes 2 s.net.replicas ++ leBytes 1 s.net.stages ++
    leBytes 2 lost ++ leBytes 2 by_)

/-- Replica `x` is removed: higher replicas are renumbered down, and what its range still held of the epoch, from the cursor that the
abandoned step's record gives, is shared out (R301, R302). -/
def removeReplica (s : State) (x : Nat) : State :=
  let n := s.net.replicas
  let cur := ((s.net.record.bind fun r => r.cursors[x]?).getD 0).toNat
  ({ s with streams := tmap (fun _ st => if le st.desc 0x40 8 = 0 then st else dropReplica st x n cur) s.streams } : State).setNet
    { s.net with
      replicas := n - 1
      members := tmap (fun _ m => if m.role = 0 ∧ m.state ≠ 2 ∧ m.state ≠ 3 ∧ x < m.replica ∧ m.replica ≠ 0xFFFF then
        { m with replica := m.replica - 1 } else m) s.net.members
      record := s.net.record.map fun r => { r with cursors := r.cursors.eraseIdx x } }

/-- The lowest-numbered standby member that has joined. -/
def standby (s : State) : Option Nat := ((s.net.members.filter fun p => p.2.role == 2 && p.2.state == 1).map (·.1)).head?

/-- The master sends the abandoned step's record again with a new GEN and the notices of what has changed. -/
def restartRecord (s : State) : State :=
  match s.net.record with
  | some r =>
    let r1 := { r with step := s.net.step, gen := s.net.gen, term := s.net.term, notices := s.net.notices }
    ((s.setNet { s.net with record := some r1, sentToDeputy := true, reports := [] }).restartStep r1).sendNet
      (.stepStart s.net.groupId s.net.deputy r1)
  | none => s

/-- The live compute member whose STAGE a member shares, if there is one: replicas hold identical bits (R305, R333). -/
def stageMate (s : State) (m : Nat) (x : Member) : Option Nat :=
  ((s.net.members.filter fun p => p.2.role == 0 && p.2.state == 1 && p.1 != m && p.2.stage == x.stage).map (·.1)).head?

/-- A live member of the STAGE of a member that replaces another sends it its region pages at the step boundary (R333). -/
def sendPages (s : State) (heir : Nat) : State :=
  match s.ckpPtn with
  | some p => s.regions.foldl (fun (s : State) r =>
      s.sendNet (.pages s.net.groupId heir s.net.term r.ident r.first ((s.framesOf p r.first r.pages).flatMap fun f =>
        s.mem.readAll (hbmKey f 0) 65536))) s
  | none => s

/-- A member takes the role and the place of one that is lost. -/
def takePlace (s : State) (heir : Nat) (x : Member) : State :=
  let s1 := s.modMember heir fun y => { y with role := x.role, replica := x.replica, stage := x.stage }
  if x.role = 0 ∧ s1.stageMate heir x = some s1.net.self then s1.sendPages heir else s1

/-- A standby member replaces a lost compute or ingest member (R301, R333): with a live member of its STAGE it copies that member's
pages at the step boundary and the step restarts at once; otherwise it restores, every member restores its checkpoint of the same STEP,
and the master holds them until its recompute has come to the abandoned step. -/
def replaceMember (s : State) (r lost : Nat) (x : Member) : State :=
  let mate := s.stageMate r x
  let s1 := s.sendNet (.replace s.net.groupId r s.net.term lost mate)
  if x.role = 1 ∨ mate.isSome = true ∨ s.net.record.isNone = true then s1.restartRecord
  else s1.setNet { s1.net with holdFor := some r }

/-- What follows the loss of a member (R301): a standby takes its place, or its replica is removed, or the group halts, and every
member is told (log entry 178). The step restarts. -/
def settleLoss (s : State) (m : Nat) : State :=
  match s.member m with
  | none => s
  | some x =>
    let note := fun (s : State) (heir : Option Nat) => s.setNet { s.net with notices := s.net.notices ++ [.lost m heir] }
    let go := fun (s : State) (by_ : Nat) =>
      let s2 := (s.setNet { s.net with gen := s.net.gen + 1 }).rosterLog m by_
      if s2.net.deputy = m then s2.newDeputy m else s2
    match s.standby with
    | some r => (go (note ((s.modMember m fun y => { y with state := 3 }).takePlace r x) (some r)) r).replaceMember r m x
    | none =>
      if x.role = 1 ∨ 1 < s.net.stages then (s.tell (s.net.notices ++ [.lost m none, .halts])).haltGroup
      else (go (note (s.removeReplica x.replica) none) 0xFFFF).restartRecord

/-- The master declares a compute or ingest member lost (R301). While a step-start record waits for the deputy's acknowledgement, the
step that it starts is the current one: the rest follows once every member has the record (log entry 182). A new deputy is sent it. -/
def memberLost (s : State) (m : Nat) : State :=
  match s.member m with
  | none => s
  | some x =>
    if s.isMaster = false ∨ x.state = 2 ∨ x.state = 3 ∨ m = s.net.self ∨ x.role = 2 then s
    else
      let s0 := ((s.modMember m fun y => { y with state := 2 }).raiseEv evNet 0).abandonCollectives
      let s1 := if s0.net.holdFor = some m then s0.setNet { s0.net with holdFor := none } else s0
      match s1.net.sentToDeputy, s1.net.record with
      | true, some r =>
        let s2 := s1.setNet { s1.net with unsettled := s1.net.unsettled ++ [m] }
        if s2.net.deputy = m then
          let s3 := s2.newDeputy m
          s3.sendNet (.stepStart s3.net.groupId s3.net.deputy r)
        else s2
      | _, _ => s1.settleLoss m

/-- The losses that waited for a record are settled, one after the other. `fuel` bounds them. -/
def settleLosses : Nat → State → State
  | 0, s => s
  | fuel + 1, s =>
    match s.net.unsettled with
    | [] => s
    | m :: l => settleLosses fuel ((s.setNet { s.net with unsettled := l }).settleLoss m)

/-- The compute members that the master has lost and of which no other member knows yet: they count for R299. -/
def lostUntold (s : State) : List Nat :=
  (s.net.unsettled ++ s.net.notices.filterMap fun
    | .lost m none => some m
    | _ => none).filter fun m => (s.member m).any fun x => x.role == 0

/-- A member learns that another is lost (R301): MEMBER_LOST, its collectives of the step complete, the roster changes as on the master,
and the record of the change goes into its log under the GEN that the change has. -/
def noteLost (s : State) (gen m : Nat) (heir : Option Nat) : State :=
  match s.member m with
  | none => s
  | some x =>
    if x.state = 2 ∨ x.state = 3 then s
    else
      let s1 := ((s.modMember m fun y => { y with state := if heir.isSome then 3 else 2 }).raiseEv evNet 0).abandonCollectives
      let s2 := match heir with
        | some r => s1.takePlace r x
        | none => if x.role = 0 ∧ s1.net.stages ≤ 1 then s1.removeReplica x.replica else s1
      let s3 := (s2.setNet { s2.net with
        gen := gen, deputy := if s2.net.deputy = m then s2.deputyAfter s2.net.master m else s2.net.deputy })
      s3.rosterLog m (heir.getD 0xFFFF)

/-- The notices that a record brings, in order (log entry 178); `gen` is the GEN that follows them. -/
def takeNotices (s : State) (gen : Nat) : List GroupNotice → State
  | [] => s
  | .lost m heir :: l => (s.noteLost (gen - l.countP fun n => match n with
      | .lost _ _ => true
      | _ => false) m heir).takeNotices gen l
  | .halts :: l => s.haltGroup.takeNotices gen l
  | .restore n :: l => (s.setNet { s.net with restoreTo := some n }).takeNotices gen l

/-- Every compute and ingest member that has not joined is lost. -/
def loseMissing (s : State) : State :=
  (s.net.members.filter fun p => p.2.role != 2 && p.2.state == 0).foldl (fun (s : State) p => s.memberLost p.1) s

/-- The lowest PROTO_MAX of the members that take part (R309); of the master's, those that have joined. -/
def groupVersion (s : State) : Nat :=
  ((s.net.members.filter fun p => p.2.role != 2 && (s.net.self != s.net.master || p.2.state == 1)).map fun p =>
    p.2.protoMax).foldl Nat.min 15

/-- The master starts the group (R291), unless its own PROTO_MAX is below PROTO_MIN (R309). -/
def formGroup (s : State) : State :=
  if s.groupVersion < s.net.protoMin then (s.setNet { s.net with state := .halted }).raiseEv evNet 7
  else
    let s1 := (s.setNet { s.net with version := s.groupVersion, state := .running }).loseMissing
    if s1.net.state = .running then s1.firstRecord else s1

/-- A HELLO reaches the master (R291, R309, R404). -/
def hello (s0 : State) (h : HelloMsg) : State := s0.withTerm h.term fun s =>
  match s.member h.member with
  | none => s
  | some x =>
    if s.inGroup = false ∨ s.isMaster = false ∨ h.groupId ≠ s.net.groupId then s
    else
      let bad := !s.reportAccepted h.report s.helloNonce || ofLe (reportIdent h.report) != x.ident || h.gen != s.net.gen ||
        h.crc != s.net.crc
      let st : Status := if h.protoMax < s.net.protoMin then .versionUnsupported else if bad then .refusedInfeasible else .ok
      let s1 := s.sendNet (.helloAnswer s.net.groupId h.member s.net.term st)
      if st = .ok then
        let s2 := (s1.acceptReport h.report).modMember h.member fun m => { m with
          state := 1, protoMax := h.protoMax, lastHeard := s.edgeTime }
        if s2.net.state = .forming ∧ (s2.net.members.all fun p => p.2.role == 2 || p.2.state == 1) = true then s2.formGroup else s2
      else s1

/-- The master's answer reaches a member (R291). -/
def helloAnswer (s0 : State) (status term : Nat) : State := s0.withTerm term fun s =>
  if s.isOpen 76 = false ∨ s.net.state ≠ .forming ∨ s.isMaster = true then s
  else if status = 0 then s.modMember s.net.master fun m => { m with state := 1, lastHeard := s.edgeTime }
  else
    let s1 := s.setNet { s.net with state := .halted }
    if status = Status.versionUnsupported.code then s1.raiseEv evNet 7 else s1

/-- FORM_MS has passed since the master's start (R291). -/
def formationLimit (s : State) : State := if s.inGroup ∧ s.isMaster ∧ s.net.state = .forming then s.formGroup else s

/-! ### Step-start records (R296) -/

/-- The master puts a member in PAUSED at the STEP gate at which it stands, and tells every member (R408). -/
def tellPause (s : State) (m : Nat) : State := s.sendAll fun d => .pauseRequest s.net.groupId d m s.net.term

/-- A step-end report reaches the master. That of a member whose recompute it waits for ends the wait (R333). That of a member which
has asked for a pause puts it in PAUSED, and a second one for the step ends that (R408, log entry 36). -/
def stepEndReport (s0 : State) (m : Nat) (step status : Word) (term : Nat) : State := s0.withTerm term fun s =>
  if s.inGroup = false ∨ (s.member m).isNone = true then s
  else
    let asked := s.isMaster && (s.member m).any (·.paused)
    let again := asked && step == s.net.step && s.net.reports.any fun p => p.1 == m
    let s1 := s.modMember m fun x => { x with lastStep := step, paused := x.paused && !again }
    if s1.net.holdFor = some m then
      if 0 ≤ (step + 1 - s1.net.step).toInt then (s1.setNet { s1.net with holdFor := none }).restartRecord else s1
    else
      let s2 := s1.takeReport m step status
      if asked && !again && s2.net.reports.any (fun p => p.1 == m) then s2.tellPause m else s2

/-- A member takes a step-start record: it is the group's record, and gates that wait for it are released (R296). Where the module has
heard no HELLOs itself, the group that runs counts as joined (log entry 168). No member is in PAUSED any longer (R408). -/
def takeRecord (s : State) (r : StepRecord) : State :=
  let s1 := s.setNet { s.net with
    members := tmap (fun _ m => { m with state := if s.isMaster = false ∧ m.state = 0 then 1 else m.state, paused := false }) s.net.members
    term := r.term, gen := r.gen, step := r.step, record := some r, sentToDeputy := false, state := .running
    version := if s.net.version = 0 then s.groupVersion else s.net.version }
  (s1.contexts.map (·.1)).foldl (fun (s : State) c => s.stepGateRelease c)
    { s1 with boot := { s1.boot with pauseAsked := false } }

/-- The deputy has acknowledged a record: the master sends it to every member, itself included (R296), with what it tells them; losses
that have waited for it are settled then. -/
def stepStartAck (s0 : State) (step : Word) (term : Nat) : State := s0.withTerm term fun s =>
  match s.net.record with
  | some r =>
    if s.inGroup ∧ s.isMaster ∧ s.net.sentToDeputy = true ∧ r.step = step then
      let s1 := (s.sendAll fun m => .stepStart s.net.groupId m r).takeRecord r
      settleLosses s1.net.unsettled.length (s1.setNet { s1.net with notices := s1.net.notices.drop r.notices.length })
    else s
  | none => s

/-- A step-start record arrives (R296, R299, R301). -/
def stepStartRecord (s0 : State) (r : StepRecord) : State := s0.withTerm r.term fun s =>
  if s.inGroup = false ∨ s.isMaster = true then s
  else
    let s1 := if s.net.deputy = s.net.self then s.sendNet (.stepStartAck s.net.groupId s.net.master s.net.term r.step) else s
    if s.net.record = some r ∧ s.net.state = .running then s1
    else
      let s2 := s1.takeNotices r.gen r.notices
      if s2.net.state = .halted then s2
      else if s.net.gen < r.gen ∧ s.net.record.isSome = true ∧ (r.step - s.net.step).toInt ≤ 0 then
        ((s2.setNet { s2.net with replicas := r.cursors.length }).restartStep r).takeRecord r
      else s2.takeRecord r

/-! ### Heartbeats, misses and failover (R298 to R300) -/

/-- Heartbeats go out (R298). -/
def heartbeatSend (s : State) : State :=
  if s.inGroup = false then s
  else if s.isMaster then s.sendAll fun m => .heartbeat s.net.groupId m s.net.term
  else
    let s1 := s.sendNet (.heartbeat s.net.groupId s.net.master s.net.term)
    if s.net.deputy = s.net.self ∨ s.net.deputy = s.net.master then s1 else s1.sendNet (.heartbeat s.net.groupId s.net.deputy s.net.term)

/-- The compute members that the master misses, and how many there are, those counted that it has lost and told no member of (R299). -/
def missedOf (s : State) : Nat × Nat :=
  let gone := s.lostUntold.length
  ((s.computeMembers.filter fun m => m != s.net.self && (s.member m).any (·.missed)).length + gone, s.computeMembers.length + gone)

/-- A heartbeat arrives; a lower TERM is ignored (R298, R299). -/
def heartbeatReceive (s0 : State) (p term : Nat) : State := s0.withTerm term fun s =>
  if s.inGroup = false then s
  else
    let s1 := (s.heard (s.controlQp p)).modMember p fun m => { m with lastHeard := s.edgeTime, missed := false }
    (if s1.isMaster && s1.net.stopped && decide (2 * s1.missedOf.1 ≤ s1.missedOf.2) then
      s1.setNet { s1.net with stopped := false } else s1).formRecord

/-- The deputy takes over once it holds miss reports of more than half of the compute members (R299, Table 11-4). -/
def takeOver (s : State) : State :=
  let n := (s.computeMembers.filter fun m => s.net.misses.contains m).length
  if s.net.self = s.net.deputy ∧ s.isMaster = false ∧ s.computeMembers.length < 2 * n ∧ s.net.state ≠ .failover then
    let own := if (s.contexts.any fun c => c.2.queues.any fun q => q.stepGate) && s.stepDone s.net.step then
      [(s.net.self, s.memberStatus s.net.step)] else []
    let s1 := s.setNet { s.net with
      term := s.net.term + 1, state := .failover, answers := [(s.net.self, s.net.step)], reports := own }
    match s1.net.record with
    | some r => s1.sendAll fun m => .takeover s.net.groupId m s1.net.term r
    | none => s1
  else s

/-- A miss report of the master reaches the deputy. -/
def missReport (s0 : State) (m term : Nat) : State := s0.withTerm term fun s =>
  if s.inGroup = false ∨ (s.member m).isNone = true then s
  else
    (s.setNet { s.net with
      misses := if s.net.misses.contains m then s.net.misses else s.net.misses ++ [m] }).takeOver

/-- 20 ms have passed without hearing from a peer (R298, R299, R301). A member in PAUSED is not missed for up to 1 s (R408). -/
def peerMiss (s : State) (p : Nat) : State :=
  match s.member p with
  | none => s
  | some x =>
    if s.inGroup = false ∨ (x.paused = true ∧ (s.edgeTime - x.lastHeard).toNat ≤ 1000000000) ∨ p = s.net.self then s
    else
      let s1 := s.modMember p fun m => { m with missed := true }
      if s1.isMaster then
        if s1.missedOf.2 < 2 * s1.missedOf.1 then s1.setNet { s1.net with stopped := true } else s1.memberLost p
      else if p = s1.net.master then
        if s1.net.deputy = s1.net.self then s1.missReport s1.net.self s1.net.term
        else s1.sendNet (.missReport s1.net.groupId s1.net.deputy p s1.net.term)
      else s1

/-- A TAKEOVER arrives: a higher TERM is accepted, also one already seen in another message, and the member answers with its last
record's step (Table 11-4) and reports again to the new master the step at whose gates its contexts stand. -/
def takeoverArrives (s : State) (p term : Nat) : State :=
  if s.inGroup = false ∨ term < s.net.term ∨ (term = s.net.term ∧ (s.net.master = p ∨ s.net.self = p)) then s
  else
    let s1 := (s.setNet { s.net with
      term := term, master := p, deputy := s.deputyAfter p s.net.master, state := .failover, sentToDeputy := false, reports := []
      stopped := false, holdFor := none, unsettled := [], notices := [] }).sendNet (.takeoverAnswer s.net.groupId p term s.net.step)
    match s1.contexts.find? fun c => c.2.queues.any fun q => q.stepGate with
    | some c =>
      if s1.stepDone c.2.step then
        s1.sendNet (.stepEnd s1.net.groupId p term c.2.step (s1.memberStatus c.2.step) (64 * s1.ckp.lsn.toNat))
      else s1
    | none => s1

/-- The new master resumes (Table 11-4, steps 4 and 5); reports that have come go into the next record. -/
def takeoverDone (s : State) : State :=
  let old := s.net.master
  let s1 := s.setNet { s.net with
    master := s.net.self, state := .running, misses := [], stopped := false
    members := tmap (fun _ m => { m with paused := false }) s.net.members }
  let s2 := match s1.net.record with
    | some r => (s1.net.answers.filter fun (a : Nat × Word) => a.1 != s1.net.self && a.2 != r.step).foldl
        (fun (s : State) (a : Nat × Word) => s.sendNet (.stepStart s.net.groupId a.1 r)) s1
    | none => s1
  let s3 := s2.newDeputy old
  let s4 := s3.setNet { s3.net with gen := s3.net.gen + 1, answers := [] }
  ((s4.rosterLog old 0xFFFF).raiseEv evNet 1).formRecord

/-- Answers to a TAKEOVER (Table 11-4, step 3). -/
def takeoverAnswer (s0 : State) (m term : Nat) (step : Word) : State := s0.withTerm term fun s =>
  if s.inGroup = false ∨ s.net.state ≠ .failover ∨ s.net.self ≠ s.net.deputy ∨ term ≠ s.net.term then s
  else
    let s1 := s.setNet { s.net with answers := (s.net.answers.filter fun a => a.1 != m) ++ [(m, step)] }
    let n := (s1.computeMembers.filter fun m => s1.net.answers.any fun a => a.1 == m).length
    if s1.computeMembers.length < 2 * n then s1.takeoverDone else s1

/-- 100 ms have passed since the master's last heartbeat, and failover has not ended (R300). -/
def failoverLimit (s : State) : State :=
  let lost := (s.member s.net.master).any (·.missed)
  if s.inGroup ∧ (s.net.state = .failover ∨ lost = true) then s.haltGroup else s

/-- A request to pause: the master marks the member, and once its report for the step has come tells every member that it is in PAUSED
(R408, log entry 36). The member that has asked is then PAUSED itself; one that no longer wants the pause reports its step again. The
others count no misses of it. -/
def pauseRequest (s0 : State) (m term : Nat) : State := s0.withTerm term fun s =>
  let atGate := s.contexts.any fun p => p.2.queues.any fun q => q.stepGate
  match s.member m with
  | none => s
  | some x =>
    if s.inGroup = false ∨ (s.net.state ≠ .running ∧ s.net.state ≠ .paused) then s
    else
      let s1 := s.modMember m fun y => { y with paused := true }
      if m ≠ s.net.self then
        if s.isMaster && (x.role != 0 || s.net.reports.any fun p => p.1 == m) then s1.tellPause m else s1
      else if atGate = false then s
      else if s.boot.pauseAsked then
        let s2 := s1.setNet { s1.net with state := .paused }
        if s.isMaster then s2.tellPause m else s2
      else if s.isMaster then s else s.reportAgain

end State

/-- HELLO (R291). -/
def execHello (msg : HelloMsg) (s : State) : Host.Outcome State Fault Refusal := act s fun s => s.hello msg

/-- HELLO_ANSWER (R291). -/
def execHelloAnswer (status : InTerm Nat) (s : State) : Host.Outcome State Fault Refusal :=
  act s fun s => s.helloAnswer status.val status.term

/-- FORMATION_LIMIT (R291). -/
def execFormationLimit (s : State) : Host.Outcome State Fault Refusal := act s fun s => s.formationLimit

/-- STEP_END_REPORT (R296). The log offset is the member's own and moves nothing here. -/
def execStepEndReport (member : InTerm Nat) (step status : Word) (_logOffset : Nat) (s : State) :
    Host.Outcome State Fault Refusal :=
  act s fun s => s.stepEndReport member.val step status member.term

/-- STEP_START_ACK (R296). -/
def execStepStartAck (step : InTerm Word) (s : State) : Host.Outcome State Fault Refusal :=
  act s fun s => s.stepStartAck step.val step.term

/-- STEP_START_RECORD (R296). -/
def execStepStartRecord (rec : StepRecord) (s : State) : Host.Outcome State Fault Refusal :=
  act s fun s => s.stepStartRecord rec

/-- HEARTBEAT_SEND (R298). -/
def execHeartbeatSend (s : State) : Host.Outcome State Fault Refusal := act s fun s => s.heartbeatSend

/-- HEARTBEAT_RECEIVE (R298). -/
def execHeartbeatReceive (peer term : Nat) (s : State) : Host.Outcome State Fault Refusal :=
  act s fun s => s.heartbeatReceive peer term

/-- PEER_MISS (R298). -/
def execPeerMiss (peer : Nat) (s : State) : Host.Outcome State Fault Refusal := act s fun s => s.peerMiss peer

/-- MISS_REPORT (R299). -/
def execMissReport (member term : Nat) (s : State) : Host.Outcome State Fault Refusal := act s fun s => s.missReport member term

/-- TAKEOVER (R299). The record it brings reaches a member that lacks it when the new master resends it (Table 11-4). -/
def execTakeover (peer term : Nat) (_rec : StepRecord) (s : State) : Host.Outcome State Fault Refusal :=
  act s fun s => s.takeoverArrives peer term

/-- TAKEOVER_ANSWER (R300). -/
def execTakeoverAnswer (member term : Nat) (step : Word) (s : State) : Host.Outcome State Fault Refusal :=
  act s fun s => s.takeoverAnswer member term step

/-- FAILOVER_LIMIT (R300). -/
def execFailoverLimit (s : State) : Host.Outcome State Fault Refusal := act s fun s => s.failoverLimit

/-- GROUP_PAUSE_REQUEST (R408). -/
def execGroupPauseRequest (member : InTerm Nat) (s : State) : Host.Outcome State Fault Refusal :=
  act s fun s => s.pauseRequest member.val member.term

end Sys2Proof.Machine
end

