-- ==== Sys2Proof/Machine/Collectives.lean ====
section
/-! DEFINITION. Collectives (R303 to R307, R309): starting an entry, its sum, its completion. -/

namespace Sys2Proof.Machine

/-! ### Fields of a descriptor (Table 11-6) -/

def collOp (e : List Byte) : Nat := le e 8 1
def collIn (e : List Byte) : Nat := le e 9 1 % 16
def collOut (e : List Byte) : Nat := le e 9 1 / 16
def collPeer (e : List Byte) : Nat := le e 0xA 2
def collGrad (e : List Byte) : Bool := bitAt (le e 0xD 1) 0
def collStatus (e : List Byte) : Bool := bitAt (le e 0xD 1) 3
def collLayer (e : List Byte) : Nat := le e 0xE 2
def collSrc (e : List Byte) : Nat := le e 0x10 8
def collDst (e : List Byte) : Nat := le e 0x18 8
def collCount (e : List Byte) : Nat := le e 0x20 8
/-- What must agree across the set (R303): OP (a SEND's match is a RECV), FMT, SET, LAYER, COUNT and the attempt. -/
def collAgrees (a b : List Byte) : Bool :=
  (if collOp a = 4 then collOp b == 5 else if collOp a = 5 then collOp b == 4 else collOp a == collOp b) &&
  le a 9 1 == le b 9 1 && le a 0xC 1 == le b 0xC 1 && collLayer a == collLayer b && collCount a == collCount b &&
  collAttempt a == collAttempt b

/-! ### Sums (R305, Table 11-9) -/

/-- Whether adding finite values has overflowed. -/
def overflowed (t : Fmt) (a b : Num) : Bool := a.isFinite && b.isFinite && !(t.rne (a.add b)).isFinite

/-- One level of the tree of R109: parts in pairs. -/
def treeLevel : List (Num × Bool) → List (Num × Bool)
  | a :: b :: r => (p48add a.1 b.1, a.2 || b.2 || overflowed fmtP48 a.1 b.1) :: treeLevel r
  | l => l

/-- The tree over the inputs in roster order; `fuel` bounds the levels. -/
def treeSum : Nat → List (Num × Bool) → Num × Bool
  | 0, l => l.headD (Num.zero, false)
  | n + 1, l => if l.length ≤ 1 then l.headD (Num.zero, false) else treeSum n (treeLevel l)

/-- The sum of version 1: the 40-bit accumulator, linear in roster order (Table 11-9). -/
def linearSum (l : List Num) : Num × Bool :=
  match l with
  | [] => (Num.zero, false)
  | a :: r => r.foldl (fun acc x => (fmtAcc40.rne (acc.1.add x), acc.2 || overflowed fmtAcc40 acc.1 x)) (fmtAcc40.rne a, false)

/-- The sum of one element's inputs in roster order. -/
def collSum (v1 : Bool) (l : List Num) : Num × Bool :=
  if v1 then linearSum l else treeSum l.length (l.map fun x => (x, false))

namespace State

/-- The members of an entry's set, in roster order (Table 11-6); a module alone is its only member. -/
def collSet (s : State) (e : List Byte) : List Nat :=
  let me := s.member s.net.self
  let cs := (s.net.members.filter fun p => p.2.role == 0 && p.2.state != 2 && p.2.state != 3 && (match le e 0xC 1 with
    | 1 => me.any fun m => m.stage == p.2.stage
    | 2 => me.any fun m => m.replica == p.2.replica
    | _ => true)).map (·.1)
  if s.net.state = .solo then [s.net.self] else cs

/-- The other members whose inputs an entry needs: those of the set, or the peer of a SEND or RECV. -/
def collOthers (s : State) (e : List Byte) : List Nat :=
  if collOp e = 4 ∨ collOp e = 5 then [collPeer e] else (s.collSet e).filter (· != s.net.self)

/-- Version 1 of the group protocol (R309). -/
def groupV1 (s : State) : Bool := s.net.state != .solo && s.net.version == 1

/-- An entry whose fields are in range. -/
def collClean (s : State) (c : Nat) (e : List Byte) : Bool :=
  collOp e ≤ 6 && ((collOp e == 6 && collIn e != 15 && collOut e != 15) || (s.fmtOk c (collIn e) && s.fmtOk c (collOut e))) && le e 0xC 1 ≤ 2 &&
  le e 0xD 1 < 16 && fld (le e 0xD 1) 2 1 ≤ 2 && le e 0x28 1 < 64 && le e 0x29 3 == 0 && le e 0x30 4 < 2 ^ 23 &&
  le e 0x34 4 < 2 ^ 28 &&
  (!(collOp e == 3 || collOp e == 4 || collOp e == 5) || s.net.state == .solo || (s.collSet e).contains (collPeer e)) &&
  (!s.groupV1 || collLayer e < 4096)

/-- Elements of a slice of a REDUCE_SCATTER, and how many the member at place `k` gets (Table 11-5). -/
def scatterSlice (count n k : Nat) : Nat × Nat :=
  let w := ceilDiv count (Nat.max 1 n)
  (k * w, Nat.min w (count - k * w))

/-- Bytes that an entry reads at SRC and writes at DST on this member. -/
def collBytes (s : State) (e : List Byte) : Nat × Nat :=
  let n := (s.collSet e).length
  let k := (s.collSet e).findIdx (· == s.net.self)
  let src := rowBytes (collIn e) (collCount e)
  match collOp e with
  | 0 => (src, rowBytes (collOut e) (collCount e))
  | 1 => (src, rowBytes (collOut e) (scatterSlice (collCount e) n k).2)
  | 2 => (src, rowBytes (collOut e) (n * collCount e))
  | 3 => (if collPeer e = s.net.self then src else 0, rowBytes (collOut e) (collCount e))
  | 4 => (src, 0)
  | 5 => (0, rowBytes (collOut e) (collCount e))
  | _ => (0, 0)

/-- The number that stands for the collective engine where a context's write is held. -/
def collWriter : Nat := 5

/-- The entries that members hold in the rings that carry a tag (R303), of all those that have come. -/
def tagged (tag : Nat) (peers : List (Nat × Nat × List Byte)) : List (Nat × List Byte) :=
  (peers.filter fun p => p.2.1 == tag).map fun p => (p.1, p.2.2)

/-- A context's ready counter starts the next entry of its ring (R303, R304). `come` are the entries of the same number that the
other members hold, each with the tag of its ring. -/
def collStart (s : State) (c : Nat) (come : List (Nat × Nat × List Byte)) : State :=
  let k := s.ctx c
  let peers := tagged k.ringTag come
  let x := k.ringHead + BitVec.ofNat 32 (s.collectives.filter fun y => y.ctx == c).length
  let e := s.collEntry c x
  let d := s.ctxOf (le e 4 4)
  if k.ringLog2 = 0 ∨ k.state = .free ∨ k.state = .teardown ∨ x = k.ringTail ∨ s.isOpen 76 = false then s
  else
    let stop := firstStatus [
      (le e 0 4 != 1 || (s.groupV1 && !k.tx2), .versionUnsupported), (d.isNone, .handleStale), (!s.collClean c e, .refusedInfeasible)]
    let begin_ := fun (st : Option Status) =>
      ({ s with collectives := s.collectives ++ [{ ctx := c, entry := x, code := st, word := 0 }] } : State)
    match d with
    | none => begin_ (some stop)
    | some dc =>
      let cnt := (s.ctx dc).sync.getD (fld (le e 0x28 1) 2 0) 0
      if (cnt - BitVec.ofNat 32 (le e 0x2C 4)).toInt < 0 then s
      else if stop ≠ .ok then begin_ (some stop)
      else
        let others := s.collOthers e
        let have_ := others.all fun m => peers.any fun p => p.1 == m
        let agree := others.all fun m => (peers.filter fun p => p.1 == m).all fun p => collAgrees e p.2
        let ptn := (s.ctx dc).ptn
        let b := s.collBytes e
        if have_ = false then s
        else if agree = false then (s.startTeardown c).raiseEv evNet 3
        else if (s.accessFenced 0 (collSrc e) b.1).isSome = true ∨ (s.accessFenced 0 (collDst e) b.2).isSome = true then s
        else if (b.1 ≠ 0 ∧ s.accessOk ptn 0 (collSrc e) b.1 false false = false) ∨
            (b.2 ≠ 0 ∧ s.accessOk ptn 0 (collDst e) b.2 true false = false) then s.faultContext 3 dc
        else (begin_ none).sendNet (.collective c k.ringTag x)

/-- The inputs of an entry in roster order: the bytes at SRC here, what came from the other members. -/
def collInput (s : State) (ptn : Nat) (e : List Byte) (inputs : List (Nat × List Byte)) (m : Nat) : List Byte :=
  let n := rowBytes (collIn e) (collCount e)
  if m = s.net.self then (List.range n).map fun i => ((s.key ptn 0 (collSrc e + i)).map s.seen).getD 0
  else slice (((inputs.find? fun p => p.1 == m).map (·.2)).getD []) 0 n

/-- Element `i` of packed bytes. -/
def bytesElem (l : List Byte) (fmt i : Nat) : Nat := getElem (fun off => l.getD off 0) fmt i

/-- A moved element: its encoding as it is, or converted where the formats differ (log entry 37). -/
def collMove (tx2 : Bool) (e : List Byte) (v : Nat) : Nat :=
  if collIn e = collOut e then v else (convertTo (collOut e) .nearest false 0 tx2 (decodeElem (collIn e) tx2 v)).1

/-- The sums of a reduction over the whole data, and their encodings in FMT_OUT (R305). -/
def collReduced (s : State) (dc : Nat) (e : List Byte) (inputs : List (Nat × List Byte)) : List (Num × Bool) × List Nat :=
  let k := s.ctx dc
  let set := s.collSet e
  let data := set.map (s.collInput k.ptn e inputs)
  let w := if collOp e = 1 then ceilDiv (collCount e) (Nat.max 1 set.length) else collCount e
  let sums := (List.range (collCount e)).map fun i =>
    collSum s.groupV1 (data.map fun l => decodeElem (collIn e) k.tx2 (bytesElem l (collIn e) i))
  (sums, sums.zipIdx.map fun (v, i) =>
    let out := gen (if k.tx2 then counterTx2 (le e 0x30 4) (k.draws.toNat + i % w) else counterW (le e 0x30 4) k.step.toNat i)
      k.seed.toNat
    (convertTo (collOut e) (rndOf (collGrad e) (fld (le e 0xD 1) 2 1) k.tx2 out) false 0 k.tx2 v.1).1)

/-- The elements that an entry writes at DST, and, over the whole reduced data and so equal on every member, whether a sum
overflowed and whether a non-finite value stands in it, as a sum or as written (R305, R306; log entry 37). -/
def collResult (s : State) (dc : Nat) (e : List Byte) (inputs : List (Nat × List Byte)) : List Nat × Bool × Bool :=
  let k := s.ctx dc
  let set := s.collSet e
  let data := set.map (s.collInput k.ptn e inputs)
  let tx2 := k.tx2
  let part := if collOp e = 1 then scatterSlice (collCount e) set.length (set.findIdx (· == s.net.self)) else (0, collCount e)
  match collOp e with
  | 0 | 1 =>
    let r := s.collReduced dc e inputs
    ((r.2.drop part.1).take part.2, r.1.any (·.2),
      r.1.any (fun v => !v.1.isFinite) || r.2.any fun v => !(decodeElem (collOut e) tx2 v).isFinite)
  | 2 => ((data.flatMap fun l => (List.range (collCount e)).map fun i => collMove tx2 e (bytesElem l (collIn e) i)), false, false)
  | 3 | 5 =>
    let l := s.collInput k.ptn e inputs (collPeer e)
    ((List.range (collCount e)).map fun i => collMove tx2 e (bytesElem l (collIn e) i), false, false)
  | _ => ([], false, false)

/-- The largest exponent of a reduced layer's gradients in an entry, as reported to its layer (R144, R145; log entry 171). The number
that goes with it tells the entries of a ring apart. -/
def collReport (s : State) (dc : Nat) (y : Collective) (e : List Byte) (inputs : List (Nat × List Byte)) : List (Nat × Nat × Int) :=
  if collOp e ≤ 1 && collGrad e && s.reducedLayer dc (collLayer e) then
    [(collLayer e, y.entry.toNat + 1, maxExpOf ((s.collReduced dc e inputs).2.map (decodeElem (collOut e) (s.ctx dc).tx2)))]
  else []

/-- A status word of version 1 (Table 11-9) in the places of Table 11-7. -/
def fromV1 (w : Nat) : Nat := w % 4096 + 2 ^ 16 * b2n (bitAt w 12)

/-- The reduced status word (R306, Table 11-7): the members' words together, with what the sum showed. Those of version 1 carry
LAYER and NONFINITE only (Table 11-9). -/
def collWord (s : State) (e : List Byte) (words : List Word) (ovf bad : Bool) : Nat :=
  if collStatus e then
    let come := words.map fun x => if s.groupV1 then fromV1 x.toNat else x.toNat
    let w := (come.foldl (fun a x => a ||| x) (le e 0x34 4)) ||| 2 ^ 16 * b2n bad ||| 2 ^ 18 * b2n ovf
    if s.groupV1 then w % 4096 + 2 ^ 16 * b2n (bitAt w 16) else w
  else 0

/-- The oldest entry in flight of a context has its data: it writes DST, and once its writes are acknowledged it completes
(R304 to R306). -/
def collComplete (s0 : State) (c : Nat) (inputs : List (Nat × List Byte)) (words : List Word) : State :=
  match s0.collectives.find? fun y => y.ctx == c with
  | none => s0
  | some y =>
    let s := if s0.isOpen 76 && y.code.isNone then
        inputs.foldl (fun (s : State) p => s.dataArrives (s.net.qpnBase + 2 * p.1) (fld s.net.pcp 6 4)) s0 else s0
    let e := s.collEntry c y.entry
    if s.isOpen 76 = false then s
    else
      match y.code, s.ctxOf (le e 4 4) with
      | some st, _ => if s.unacked c collWriter y.entry then s else s.collFinish c y.entry st y.word
      | none, none => s.collFinish c y.entry .handleStale 0
      | none, some dc =>
        let need := if collOp e = 4 ∨ collOp e = 6 then [] else if collOp e = 3 then [collPeer e].filter (· != s.net.self)
          else s.collOthers e
        if (need.all fun m => inputs.any fun p => p.1 == m) = false then s
        else
          let r := s.collResult dc e inputs
          let w := s.collWord e words r.2.1 r.2.2
          let k := s.ctx dc
          let drawn := k.tx2 && (collOp e ≤ 1) && (collGrad e || fld (le e 0xD 1) 2 1 == 2)
          let s1 := s.setCtx dc { k with
            layerReports := k.layerReports ++ s.collReport dc y e inputs
            draws := if drawn then k.draws + BitVec.ofNat 64 r.1.length else k.draws }
          let s2 := { s1 with collectives := s1.collectives.map fun z =>
            if z.ctx = c ∧ z.entry = y.entry then { z with code := some Status.ok, word := w } else z }
          let s3 := if r.1 = [] then s2
            else s2.putBytes c collWriter y.entry k.ptn 0 (collDst e) (packRow (collOut e) r.1)
          if s3.unacked c collWriter y.entry then s3 else s3.collFinish c y.entry .ok w

end State

/-- COLLECTIVE_START (R304). -/
def execCollectiveStart (ctx : Nat) (peers : List (Nat × Nat × List Byte)) (s : State) : Host.Outcome State Fault Refusal :=
  act s fun s => s.collStart ctx peers

/-- COLLECTIVE_COMPLETE (R305). -/
def execCollectiveComplete (ctx : Nat) (inputs : List (Nat × List Byte)) (statusWords : List Word) (s : State) :
    Host.Outcome State Fault Refusal :=
  act s fun s => s.collComplete ctx inputs statusWords

end Sys2Proof.Machine
end

