-- ==== Sys2Proof/Machine/Checkpoint.lean ====
section
/-! DEFINITION. Checkpoints (R316 to R325): requests, capture, streaming, shards, the manifest, durability. -/

namespace Sys2Proof.Machine

/-- The numbers of the four implicit regions (Table 12-5). -/
def implicitRegion (i : Nat) : Nat := 0xFFF0 + i

/-- Pages of a shard at most (R319). -/
def shardPages : Nat := 4096

namespace State

def setCkp (s : State) (k : Ckp) : State := { s with ckp := k }

/-- Contexts of the protected partition, ascending. -/
def ckptCtxs (s : State) (p : Nat) : List Nat := (s.contexts.filter fun k => k.2.state != .free && k.2.ptn == p).map (·.1)

/-- A checkpoint is asked for at the next step boundary (R316). -/
def ckptRequest (s : State) : State := if s.ckpPtn.isSome then s.setCkp { s.ckp with requested := true } else s

/-! ### The implicit regions (R316, R322) -/

/-- Bytes of a partition's range, as later readers see them. -/
def spanBytes (s : State) (p a n : Nat) : List Byte := (List.range n).map fun i => ((s.key p 0 (a + i)).map s.seen).getD 0

/-- The cursor of the oldest block of a stream that a context has not released. -/
def oldestBlock (s : State) (st : Stream) (h : Nat × Nat × Nat) : Nat :=
  match s.ctxOf h.1 with
  | none => st.start
  | some c =>
    let b := (s.ctx c).sync.getD h.2.2 0
    let n := st.d 0x14 2
    if b = st.nextSeq then st.start
    else
      let p := (s.ptnOf (st.d 4 4)).getD 0
      ofLe (s.spanBytes p (st.d 0x20 8 + b.toNat % Nat.max 1 (st.d 0x12 1) * st.slotBytes + n * (st.shape.pitch + 8)) 8)

/-- The streams that contexts of a partition consume, ascending, with the consumer. -/
def consumed (s : State) (p : Nat) : List (Nat × Stream × (Nat × Nat × Nat)) :=
  s.streams.filterMap fun x =>
    ((consumersOf x.2).find? fun h => (s.ctxOf h.1).any fun c => (s.ctx c).ptn == p).map fun h => (x.1, x.2, h)

/-- Channels whose job has a context of a partition, ascending. -/
def jobChans (s : State) (p : Nat) : List Nat :=
  s.chansOf fun ch => (tget s.jobs ch.job).any fun j => (s.ctx j.studentCtx).ptn == p || (s.ctx j.teacherCtx).ptn == p

/-- The state record (Table 12-4). No interface registers user counters on a module whose checkpoint it is (log entry 41):
their entries are not valid. -/
def stateRecord (s : State) (p : Nat) (images : List Nat) : List Byte :=
  let cs := s.ckptCtxs p
  let k := s.ctx ((cs.find? fun c => s.ckp.captureHeld.contains c).getD (cs.headD 0))
  let cur := k.drawCursor.toNat
  let head := leBytes 4 1 ++ leBytes 4 s.ckp.ident ++ leBytes 4 s.ckp.step.toNat ++ leBytes 1 (cur / 2 ^ 56) ++
    leBytes 1 k.lrH ++ leBytes 2 (if s.net.state = .solo then 0 else s.net.term) ++ leBytes 8 cur ++
    leBytes 8 s.ckp.ckptLsn.toNat ++ leBytes 8 k.seed.toNat ++ leBytes 4 s.net.gen ++ leBytes 4 k.step.toNat ++
    (List.range 8).flatMap (fun g => leBytes 4 ((s.group g).slot + 64 * ((s.group g).frames % 2 ^ 26)))
  let sorus := ((s.jobChans p).take 64).flatMap fun i =>
    match tget s.channels i with
    | some ch => leBytes 4 ((ch.firstSeq fun st => st == .full || st == .consuming).getD ch.nextSeq).toNat
    | none => []
  let streams := ((s.consumed p).take 16).flatMap fun x => leBytes 8 (s.oldestBlock x.2.1 x.2.2)
  let ctxs := ((cs.zip images).take 32).flatMap fun x =>
    let k := s.ctx x.1
    leBytes 4 (s.ctxHandle x.1) ++ leBytes 1 (b2n k.critical) ++ leBytes 1 (b2n k.tx2) ++ zeros 2 ++ leBytes 4 x.2 ++
    zeros 4 ++ leBytes 8 k.draws.toNat ++ leBytes 8 k.drawCursor.toNat ++ zeros 32
  slice head 0 0x80 ++ slice sorus 0 256 ++ slice streams 0 128 ++ slice ctxs 0 2048 ++ zeros 1536

/-- The rings and descriptor tables of some contexts (implicit region 1): address and bytes of each. -/
def ringSpans (s : State) (cs : List Nat) : List (Nat × Nat) :=
  cs.flatMap fun c =>
    let k := s.ctx c
    (k.queues.flatMap fun x =>
      (if x.ringLog2 = 0 then [] else [(x.ringAddr * 4096, 16 * 2 ^ x.ringLog2)]) ++
      (if x.cringLog2 = 0 then [] else [(x.cringAddr * 4096, 32 * 2 ^ x.cringLog2)])) ++
    (if k.descCount = 0 then [] else [(k.descAddr * 8192, 32 * k.descCount)])

/-- The layer numerics tables of some contexts (implicit region 2). -/
def tableSpans (s : State) (cs : List Nat) : List (Nat × Nat) :=
  cs.flatMap fun c =>
    let k := s.ctx c
    if k.ltabCount = 0 then [] else [(k.ltabAddr * 4096, 16 * k.ltabCount)]

/-- The Soredium of a held context, as a park would write it, and the bytes of its image area (Table 12-3, step 2). -/
def soredium (s : State) (c : Nat) : List Byte :=
  let t := (s.ctx c).dies.foldl (fun (t : State) n => t.saveWindow c n) (s.writeImage c)
  t.imageBytes c 0 (65536 * Context.imageNeed (s.ctx c).quads (s.ctx c).scrCount)

/-! ### Shards (R319, R323) -/

/-- The shards of a run of pages. -/
def cutShards (region first n : Nat) : List Shard :=
  (List.range (ceilDiv n shardPages)).map fun i =>
    { region := region, first := first + i * shardPages, pages := Nat.min shardPages (n - i * shardPages), digest := 0,
      acked := false, sent := false, refusals := 0 }

/-- The frame that holds a frame's contents at the capture gate: its copy in the reserve, or itself (R319). -/
def copyOf (s : State) (f : Nat) : Nat := ((s.ckp.copyMap.find? fun c => c.1 == f).map (·.2)).getD f

/-- The pages of a shard, copied frames in place of their originals. -/
def shardBytes (s : State) (p : Nat) (x : Shard) : List Byte :=
  if x.region < 0xFFF0 then
    (s.framesOf p x.first x.pages).flatMap fun f =>
      s.mem.readAll (hbmKey (s.copyOf f) 0) 65536
  else slice (s.ckp.implicit.getD (x.region - 0xFFF0) []) (x.first * 65536) (x.pages * 65536)

/-- The frames of a shard. -/
def shardFrames (s : State) (p : Nat) (x : Shard) : List Nat := if x.region < 0xFFF0 then s.framesOf p x.first x.pages else []

/-- The next shard of a connection is sent (R319, R323): WP clears on the frames it reads, but for those that the copier has
in hand (Table 7-5), and writes that wait at such a frame proceed. A poisoned frame that it reads fails the checkpoint (R320); on hold-up no new shard starts (R329). -/
def streamNext (s : State) (conn : Nat) : State :=
  match s.ckpPtn with
  | none => s
  | some p =>
    let n := Nat.max 1 s.ckp.connections
    let open_ := (s.ckp.shards.zipIdx.filter fun x => x.2 % n == conn)
    if s.ckp.state ≠ .streaming ∨ s.ckpSession = false ∨ s.pwr.onHoldup = true ∨ (open_.any fun x => x.1.sent && !x.1.acked) = true then s
    else
      match open_.find? fun x => !x.1.sent with
      | none => s
      | some (x, i) =>
        let fs := s.shardFrames p x
        if fs.any fun f => bitAt (s.attr (s.copyOf f)) 6 then s.ckptEnd true
        else
          let d := sha384Nat (s.shardBytes p x)
          let read := fs.filter fun f => !(s.ckp.copying.any fun c => c.1 == f)
          let s1 := read.foldl (fun (s : State) f => s.setAttr f (setFld (s.attr f) 2 2 0)) s
          let s2 := if s1.ckp.held.any fun h => read.contains h.frame then s1.heldRelease fun f => read.contains f else s1
          (s2.setCkp { s2.ckp with
            lastStreamed := i, shards := s2.ckp.shards.set i { x with sent := true, digest := d } }).sendNet (.shard conn i)

/-- Every connection sends. -/
def streamAll (s : State) : State := (List.range (Nat.max 1 s.ckp.connections)).foldl (fun (s : State) c => s.streamNext c) s

/-! ### Capture (Table 12-3) -/

/-- Whether a context has a job graph: it has passed or comes to a STEP event. -/
def hasGraph (s : State) (c : Nat) : Bool :=
  let k := s.ctx c
  k.captureDue || k.step != 0 || (List.range 4).any fun q =>
    let x := s.queue c q
    x.ringLog2 != 0 && ((s.ringWords c q x.done (x.tail - x.done).toNat).any isStep)

/-- The contexts that hold at this boundary: those of the protected partition with a job graph (Table 12-3, step 1). -/
def stepCtxs (s : State) (p : Nat) : List Nat := (s.ckptCtxs p).filter fun c => s.hasGraph c

/-- The channels of the job of a partition, with their handles, as a restore reopens them (R44). -/
def chanSnapshot (s : State) (p : Nat) : List (Nat × Channel) :=
  (s.jobChans p).filterMap fun i => (tget s.channels i).map fun ch => (s.chanHandle i, ch)

/-- The reserve lists of the copiers (Table 12-3, step 3): the frames of `CKP_RESERVE`, by base die. -/
def reserveLists (s : State) (p : Nat) : Tab (List Nat) :=
  let fs := s.framesOf p s.ckp.reserveFirst s.ckp.reservePages
  ((List.range 8).map fun d => (d, fs.filter fun f => f / framesPerPc / 64 == d)).filter fun x => x.2 != []

/-- The last context has reached its capture gate: Soredia, state record, WP, reserve lists; then streaming begins and the
gates are released. -/
def capture (s : State) : State :=
  match s.ckpPtn with
  | none => s
  | some p =>
    let cs := s.stepCtxs p
    if s.ckp.due = false ∨ s.ckp.state ≠ .capturing ∨ cs = [] ∨ (cs.all fun c => s.ckp.captureHeld.contains c) = false ∨
        (s.ckp.copying != []) = true then s
    else
      let rs := s.regions
      let listed := rs.flatMap fun r => cutShards r.ident r.first r.pages
      let all := s.ckptCtxs p
      let images := all.map s.soredium
      let padded := images.map fun l => l ++ zeros (roundUp l.length 65536 - l.length)
      let pages := padded.map fun l => l.length / 65536
      let rings := (s.ringSpans all).flatMap fun x => s.spanBytes p x.1 x.2
      let tables := (s.tableSpans all).flatMap fun x => s.spanBytes p x.1 x.2
      let few := listed ++ cutShards 0xFFF0 0 1 ++ cutShards 0xFFF1 0 (ceilDiv rings.length 65536) ++
        cutShards 0xFFF2 0 (ceilDiv tables.length 65536)
      let place := pages.foldl (fun (acc : List Nat × List Shard × Nat) n =>
        (acc.1 ++ [few.length + acc.2.1.length], acc.2.1 ++ cutShards 0xFFF3 acc.2.2 n, acc.2.2 + n)) ([], [], 0)
      let s1 := s.setCkp { s.ckp with ckptLsn := s.ckp.endLsn, chans := s.chanSnapshot p }
      let rec_ := s1.stateRecord p place.1
      let s2 := s1.setCkp { s1.ckp with
        state := .streaming, requested := false, due := false, implicit := [rec_, rings, tables, padded.flatten],
        shards := few ++ place.2.1, lastStreamed := 0, manifestSent := false, copyMap := [], reserve := s.reserveLists p }
      let s3 := rs.foldl (fun (s : State) r => (s.framesOf p r.first r.pages).foldl (fun (s : State) f =>
        s.setAttr f (s.attr f ||| 4)) s) s2
      let s4 := s3.ckptRecord
      let s5 := cs.foldl (fun (s : State) c => s.setCtx c { s.ctx c with captureDue := false }) s4
      let s6 := s5.setCkp { s5.ckp with captureHeld := [] }
      (cs.foldl (fun (s : State) c => [0, 1, 2, 3].foldl (fun (s : State) q => s.layerGate c q) s) s6).streamAll

/-! ### Acknowledgements, the manifest, durability (R323 to R325) -/

/-- The manifest's header and entries (Table 12-5). -/
def manifestBody (s : State) : List Byte :=
  leBytes 4 1 ++ leBytes 4 s.ckp.ident ++ leBytes 4 s.ckp.step.toNat ++ leBytes 4 s.ckp.shards.length ++
  leBytes 4 s.boot.feed ++ leBytes 4 s.ckp.partnerFeed ++ leBytes 4 (b2n (s.ckp.mirror == .correlated)) ++ zeros 4 ++
  (sha384 s.ownKey).take 16 ++ s.ckp.shards.flatMap fun x =>
    leBytes 2 x.region ++ zeros 2 ++ leBytes 4 x.first ++ leBytes 4 x.pages ++ zeros 4 ++ leBytes 48 x.digest

/-- After the last shard the signed manifest is sent (R324). -/
def sendManifest (s : State) : State :=
  if s.ckp.state = .streaming ∧ (s.ckp.shards.all fun x => x.acked) = true ∧ s.ckpSession = true ∧ s.ckp.cut = false then
    let l := s.manifestBody
    let r := s.signed l
    (r.2.setCkp { r.2.ckp with state := .sealing, manifestSent := true }).sendNet (.manifest (l ++ r.1))
  else s

/-- The shard in flight of a connection. -/
def inFlight (s : State) (conn : Nat) : Option (Shard × Nat) :=
  s.ckp.shards.zipIdx.find? fun x => x.2 % Nat.max 1 s.ckp.connections == conn && x.1.sent && !x.1.acked

/-- The partner acknowledges the shard of a connection: the reserve frames of its copies return to their lists, and the
next shard is sent (R319, R323). A checkpoint that ran as input power was lost ends with its last shard in flight (R329). -/
def shardAck (s : State) (conn : Nat) : State :=
  match s.ckpPtn, s.inFlight conn with
  | some p, some (x, i) =>
    if s.ckp.state ≠ .streaming then s
    else
      let fs := s.shardFrames p x
      let back := s.ckp.copyMap.filter fun c => fs.contains c.1
      let s1 := s.setCkp { s.ckp with
        shards := s.ckp.shards.set i { x with acked := true }, copyMap := s.ckp.copyMap.filter fun c => !fs.contains c.1
        reserve := back.foldl (fun t c =>
          let d := c.2 / framesPerPc / 64
          tput t d (tgetD t d [] ++ [c.2])) s.ckp.reserve }
      if s1.ckp.cut && !(s1.ckp.shards.any fun x => x.sent && !x.acked) then s1.ckptEnd false
      else (s1.streamNext conn).sendManifest
  | _, _ => s

/-- The partner refuses the shard of a connection: it is resent; the third refusal fails the checkpoint (R323). -/
def shardNak (s : State) (conn : Nat) : State :=
  match s.inFlight conn with
  | some (x, i) =>
    if s.ckp.state ≠ .streaming then s
    else if 2 ≤ x.refusals then s.ckptEnd true
    else (s.setCkp { s.ckp with shards := s.ckp.shards.set i { x with refusals := x.refusals + 1 } }).sendNet (.shard conn i)
  | none => s

/-- A member reports its durable checkpoint to the master (R333). -/
def reportDurable (s : State) : State :=
  if s.net.state == .solo || s.net.self == s.net.master then s else s.sendNet (.durable s.net.groupId s.net.master s.net.term s.ckp.durableStep)

/-- The partner acknowledges the manifest: the checkpoint is durable, which a member reports to its master (R333), or over a correlated session CORRELATED (R325). -/
def manifestAck (s : State) : State :=
  if s.ckp.state ≠ .sealing ∨ s.ckp.manifestSent = false ∨ s.ckp.cut = true then s
  else
    let free_ := fun (s : State) => match s.ckpPtn with
      | some p => (s.setCkp { s.ckp with copyMap := [], reserve := [] }).clearWp p
      | none => s
    if s.ckp.mirror = .correlated then (free_ (s.setCkp { s.ckp with state := .correlated })).ckptRecord
    else
      let s1 := free_ (s.setCkp { s.ckp with
        state := .durable, forced := false, durableId := s.ckp.ident, durableStep := s.ckp.step, durableLsn := s.ckp.ckptLsn })
      (((s1.logRelease false).ckptRecord).raiseEv evCkp 0).reportDurable

/-- A checkpoint has not become durable within LIMIT_S seconds of its capture (R321). -/
def ckptLimit (s : State) : State := s.ckptEnd false

end State

/-- CHECKPOINT_REQUEST (R316). -/
def execCheckpointRequest (s : State) : Host.Outcome State Fault Refusal := act s fun s => s.ckptRequest

/-- CHECKPOINT_CAPTURE (R317). -/
def execCheckpointCapture (s : State) : Host.Outcome State Fault Refusal := act s fun s => s.capture

/-- SHARD_ACK (R323). -/
def execShardAck (conn : Nat) (s : State) : Host.Outcome State Fault Refusal := act s fun s => s.shardAck conn

/-- SHARD_NAK (R323). -/
def execShardNak (conn : Nat) (s : State) : Host.Outcome State Fault Refusal := act s fun s => s.shardNak conn

/-- MANIFEST_ACK (R325). -/
def execManifestAck (s : State) : Host.Outcome State Fault Refusal := act s fun s => s.manifestAck

/-- CHECKPOINT_LIMIT (R321). -/
def execCheckpointLimit (s : State) : Host.Outcome State Fault Refusal := act s fun s => s.ckptLimit

end Sys2Proof.Machine
end

