-- ==== Sys2Proof/Machine/ServeTables.lean ====
section
/-! DEFINITION. The serving engine's tables (R259 to R262, R272 to R276): instances, adapters, token rings, the KV pool, and
prefix reuse. -/

namespace Sys2Proof.Machine

namespace Instance

/-- A field of the descriptor (Table 10-1). -/
def d (x : Instance) (off n : Nat) : Nat := le x.desc off n

def maxSeqs (x : Instance) : Nat := x.d 0x12 2
def stepTokens (x : Instance) : Nat := x.d 0x14 2
def maxDraft (x : Instance) : Nat := x.d 0x16 1
def maxLen (x : Instance) : Nat := x.d 0x20 4

/-- Pages of a unit (R266). -/
def unitPages (x : Instance) : Nat := x.d 0x18 1 + x.d 0x19 1

/-- Bytes of a request's part of the state area (R261). -/
def areaBytes (x : Instance) : Nat := 4 * x.maxLen + x.maxLen / 4 + 128

/-- The address of the unit list of place `k` of the state area (log entry 40). -/
def listAddr (x : Instance) (k : Nat) : Nat := x.d 0x50 8 + k * x.areaBytes + 4 * x.maxLen

/-- Step area of pass `n` (R268). -/
def area (x : Instance) (n : DWord) : Nat := x.d 0x40 8 + n.toNat % 2 * (x.d 0x48 4 * 65536)

end Instance

namespace State

/-- The local time of PD77 (R64), which every time of serving is. -/
def srvTime (s : State) : DWord := (s.dom 77).time

/-- The serving engine writes in an instance's partition. -/
def srvPut (s : State) (i : Nat) (x : Instance) (a : Nat) (l : List Byte) : State := s.putBytes (2048 + i) 0 0 x.ptn 0 a l

/-- The serving engine reads in an instance's partition. -/
def srvRead (s : State) (x : Instance) (a n : Nat) : List Byte := s.readBytes x.ptn 0 a n

def setInst (s : State) (i : Nat) (x : Instance) : State := { s with instances := tput s.instances i x }
def setReq (s : State) (i : Nat) (r : Request) : State := { s with requests := tput s.requests i r }

/-- An instance changed. -/
def modInst (s : State) (i : Nat) (f : Instance → Instance) : State := { s with instances := tmod s.instances i f }

/-- A request changed. -/
def modReq (s : State) (i : Nat) (f : Request → Request) : State := { s with requests := tmod s.requests i f }

/-- The live requests of an instance; one that was retired with its ring lost keeps only its final record (R287). -/
def reqsOf (s : State) (i : Nat) : List Nat := (s.requests.filter fun p => p.2.inst == i && p.2.state != .free).map (·.1)

/-- The final records kept for a ring are given up with it, and their handles retire (R287; log entry 169). -/
def dropKept (s : State) (ring : Nat) : State :=
  (s.requests.filter fun p => p.2.state == .free && p.2.ring == ring).foldl (fun (s : State) p =>
    { s with requests := tdel s.requests p.1, reqHandles := s.reqHandles.free p.1 }) s

/-- A refused `SRV_REQ` request or submission sets `SRV_EVENT.REFUSED`. -/
def srvNote (s : State) (st : Status) : State := if st = .ok then s else s.raiseEv evSrv 0

/-- Write a completion at an offset of a descriptor: status, detail, a byte at 2 and a word at 4. -/
def srvAnswer (s : State) (a : Nat) (st : Status) (detail num handle : Nat) : State :=
  (s.post a (leBytes 1 st.code ++ leBytes 1 detail ++ leBytes 1 num ++ zeros 1 ++ leBytes 4 handle ++ zeros 8)).srvNote st

/-- What every `SRV_REQ` request meets first (R3, R262, R284), then its own effect. -/
def srvRequest (s : State) (a n done : Nat) (f : State → List Byte → State) : State :=
  if a % 64 ≠ 0 ∨ s.requestOk a n = false then s
  else if s.variant.serving = false then s.srvAnswer (a + done) .unitAbsent 0 0 0
  else if s.isOpen 77 = false then s.srvAnswer (a + done) .retryLater 0 0 0
  else f s (s.fwRead a n)

/-! ### Instances (R260, R261) -/

/-- A field of an instance descriptor outside its range (detail 0x04). -/
def badInst (l : List Byte) : Bool :=
  let draft := le l 0xC 4 != 0
  let out := fun (off n lo hi : Nat) => le l off n < lo || hi < le l off n
  out 0x10 2 1 8192 || out 0x12 2 1 1024 || out 0x14 2 16 4096 || 7 < le l 0x17 1 || out 0x18 1 1 128 ||
  out 0x1A 2 1 4096 || out 0x20 4 16 131072 || le l 0x20 4 % 16 != 0 || le l 0x28 8 % 65536 != 0 || out 0x4C 4 1 3600000 ||
  out 0x60 1 4 13 || 1 < le l 0x61 1 || !clearAt l [(0x1E, 2), (0x62, 6)] ||
  (if draft then out 0x16 1 1 8 || 127 < le l 0x19 1 || out 0x1C 2 1 4096
   else le l 0x16 1 != 0 || le l 0x19 1 != 0 || le l 0x1C 2 != 0 || le l 0x38 8 != 0)

/-- Whether bytes at an HBM address lie in a partition's space. -/
def bytesIn (s : State) (p a n : Nat) : Bool :=
  match parseAddr a, tget s.ptns p with
  | .hbm q off, some x => q == p && decide (off + n ≤ x.pages * 65536)
  | _, _ => false

/-- An area outside the partition, or too small (R261, detail 0x07). -/
def badAreas (s : State) (p : Nat) (x : Instance) : Bool :=
  let draft := x.d 0xC 4 != 0
  !s.bytesIn p (x.d 0x28 8) (x.d 0x24 4 * x.unitPages * 65536) || !s.bytesIn p (x.d 0x30 8) (32 * x.d 0x1A 2) ||
  (draft && !s.bytesIn p (x.d 0x38 8) (32 * x.d 0x1C 2)) || !s.bytesIn p (x.d 0x40 8) (2 * x.d 0x48 4 * 65536) ||
  x.d 0x48 4 * 65536 < 64 + 64 * x.stepTokens + 16 * 256 || !s.bytesIn p (x.d 0x50 8) (x.d 0x10 2 * x.areaBytes) ||
  !(s.requestOk (x.d 0x58 8) (128 * 2 ^ x.d 0x60 1))

/-- Bytes of HBM that the engine alone writes have undefined contents to other readers (R261). -/
def undefineBytes (s : State) (p a n : Nat) : State :=
  { s with
    free := s.free + 1
    mem := ((pagesOf (a % 2 ^ 48) n).foldl (fun m v =>
      match s.pageFrame p v with
      | some f =>
        let lo := Nat.max (a % 2 ^ 48) (v * 65536) - v * 65536
        let hi := Nat.min (a % 2 ^ 48 + n) ((v + 1) * 65536) - v * 65536
        m.undefine (hbmKey f lo) (hbmKey f hi) s.free
      | none => m) s.mem) }

/-- Create an instance. -/
def createInst (s : State) (a : Nat) : State :=
  s.srvRequest a 128 0x70 fun s l =>
    let p := s.ptnOf (le l 4 4)
    let t := s.ctxOf (le l 8 4)
    let draft := le l 0xC 4 != 0
    let dr := s.ctxOf (le l 0xC 4)
    let x : Instance := {
      desc := l, ptn := p.getD 0, target := t.getD 0, draft := if draft then dr else none, submitTail := 0, submitHead := 0,
      admittedCount := 0, stepNumber := 0, pass := 0, firstPass := 0, inStep := false, stepStart := 0, passIndex := 0,
      drafts := 0, doneAt := 0, seqs := [], durations := [], gains := [], free := List.range (le l 0x24 4), prov := [],
      repeats := 0, poolLow := false, ttftMiss := 0, tbtMiss := 0 }
    let apart := (draft && dr == t) || (t.map fun c => (s.ctx c).ptn) != p || (draft && (dr.map fun c => (s.ctx c).ptn) != p)
    match refusal [(le l 0 4 != 1, .versionUnsupported, 0), (p.isNone || t.isNone || (draft && dr.isNone), .handleStale, 0),
      ((lowestFree s.instances 16).isNone, .refusedCapacity, 3), (badInst l, .refusedInfeasible, 4),
      (apart, .refusedInfeasible, 6), (p.any fun i => s.badAreas i x, .refusedInfeasible, 7)], lowestFree s.instances 16 with
    | some (st, det), _ => s.srvAnswer (a + 0x70) st det 0 0
    | none, some i =>
      ((s.setInst i x).undefineBytes x.ptn (x.d 0x50 8) (x.d 0x10 2 * x.areaBytes)).srvAnswer (a + 0x70) .ok 0 i 0
    | none, none => s

/-- Destroy an instance without live requests (R262). Its published blocks go with its pool. -/
def destroyInst (s : State) (a : Nat) : State :=
  s.srvRequest a 32 0x10 fun s l =>
    let i := le l 4 4
    match refusal [(le l 0 4 != 1, .versionUnsupported, 0),
      (15 < i || !thas s.instances i || !clearAt l [(8, 8)], .refusedInfeasible, 4),
      (!(s.reqsOf i).isEmpty, .refusedInfeasible, 6)] with
    | some (st, d) => s.srvAnswer (a + 0x10) st d 0 0
    | none =>
      ({ s with instances := tdel s.instances i, published := s.published.filter fun b => b.inst != i } : State).srvAnswer
        (a + 0x10) .ok 0 i 0

/-! ### Adapters and rings (R275, R276) -/

/-- Register an adapter. -/
def registerAdapter (s : State) (a : Nat) : State :=
  s.srvRequest a 32 0x10 fun s l =>
    let e := tget s.hotset (le l 6 2)
    let rank := le l 8 2
    let bad := 15 < le l 4 1 || !thas s.instances (le l 4 1) || !(e.any fun x => x.kind == 1) || rank % 4 != 0 || rank < 4 ||
      128 < rank || !clearAt l [(5, 1), (0xA, 6)]
    match refusal [(le l 0 4 != 1, .versionUnsupported, 0), ((s.adpHandles.take 4096).isNone, .refusedCapacity, 3),
      (bad, .refusedInfeasible, 4)], s.adpHandles.take 4096, e with
    | some (st, d), _, _ => s.srvAnswer (a + 0x10) st d 0 0
    | none, some (i, t), some x =>
      let s1 := { s with
        adapters := tput s.adapters i { inst := le l 4 1, entry := le l 6 2, rank := rank }, adpHandles := t
        hotset := tput s.hotset (le l 6 2) { x with pinned := true, lastUse := s.supTime } }
      (s1.pinFrames x true).srvAnswer (a + 0x10) .ok 0 0 (s1.adpHandle i)
    | none, _, _ => s

/-- Release an adapter that no live request names; its entry is unpinned unless another adapter lies in it. -/
def releaseAdapter (s : State) (a : Nat) : State :=
  s.srvRequest a 32 0x10 fun s l =>
    let i := s.adpOf (le l 4 4)
    match refusal [(le l 0 4 != 1, .versionUnsupported, 0), (i.isNone, .handleStale, 0),
      (!clearAt l [(8, 8)], .refusedInfeasible, 4),
      (s.requests.any fun r => r.2.state != .free && r.2.adapter.isSome && r.2.adapter == i, .refusedInfeasible, 6)], i, i.bind (tget s.adapters) with
    | some (st, d), _, _ => s.srvAnswer (a + 0x10) st d 0 0
    | none, some k, some x =>
      let s1 := { s with adapters := tdel s.adapters k, adpHandles := s.adpHandles.free k }
      let s2 := if s1.adapters.any fun y => y.2.entry == x.entry then s1
        else match tget s1.hotset x.entry with
          | some e => ({ s1 with hotset := tput s1.hotset x.entry { e with pinned := false } } : State).pinFrames e false
          | none => s1
      s2.srvAnswer (a + 0x10) .ok 0 0 (le l 4 4)
    | none, _, _ => s

/-- Create a token ring. -/
def createRing (s : State) (a : Nat) : State :=
  s.srvRequest a 64 0x30 fun s l =>
    let peer := le l 5 1 == 1
    let n := 16 * 2 ^ le l 6 1
    let bad := 15 < le l 4 1 || !thas s.instances (le l 4 1) || 1 < le l 5 1 || le l 6 1 < 4 || 16 < le l 6 1 ||
      !clearAt l [(7, 1), (0x24, 12)] || (!peer && !s.requestOk (le l 8 8) n) || le l 0x10 8 % 4 != 0 ||
      (match parseAddr (le l 0x10 8) with
       | .hbm _ _ => !s.requestOk (le l 0x10 8) 4
       | _ => true) || (peer && !s.requestOk (le l 0x18 8) 32)
    match refusal [(le l 0 4 != 1, .versionUnsupported, 0), ((s.ringHandles.take 8192).isNone, .refusedCapacity, 3),
      (bad, .refusedInfeasible, 4)], s.ringHandles.take 8192 with
    | some (st, d), _ => s.srvAnswer (a + 0x30) st d 0 0
    | none, some (i, t) =>
      let r : Ring := {
        inst := le l 4 1, peer := peer, log2 := le l 6 1, addr := le l 8 8, consAddr := le l 0x10 8, rkey := le l 0x20 4,
        count := 0, bound := none, lost := false, recent := [] }
      let s1 := { s with rings := tput s.rings i r, ringHandles := t }
      s1.srvAnswer (a + 0x30) .ok 0 0 (s1.ringHandle i)
    | none, none => s

/-- Destroy a token ring that no live request has. -/
def destroyRing (s : State) (a : Nat) : State :=
  s.srvRequest a 32 0x10 fun s l =>
    let i := s.ringOf (le l 4 4)
    match refusal [(le l 0 4 != 1, .versionUnsupported, 0), (i.isNone, .handleStale, 0),
      (!clearAt l [(8, 8)], .refusedInfeasible, 4), ((i.bind (tget s.rings)).any (·.bound.isSome), .refusedInfeasible, 6)], i with
    | some (st, d), _ => s.srvAnswer (a + 0x10) st d 0 0
    | none, some k =>
      let s1 := s.dropKept k
      ({ s1 with rings := tdel s1.rings k, ringHandles := s1.ringHandles.free k } : State).srvAnswer (a + 0x10) .ok 0 0 (le l 4 4)
    | none, none => s

/-- Cancel a request: it retires at the next boundary (R282). -/
def cancelReq (s : State) (a : Nat) : State :=
  s.srvRequest a 32 0x10 fun s l =>
    let i := s.reqOf (le l 4 4)
    match refusal [(le l 0 4 != 1, .versionUnsupported, 0), (i.isNone, .handleStale, 0),
      (!clearAt l [(8, 8)], .refusedInfeasible, 4)], i with
    | some (st, d), _ => s.srvAnswer (a + 0x10) st d 0 0
    | none, some k => (s.modReq k fun r => { r with cancelled := true }).srvAnswer (a + 0x10) .ok 0 0 (le l 4 4)
    | none, none => s

/-! ### The KV pool (R266, R274) -/

/-- The cached units of an instance: published, and no request lists them. -/
def cachedUnits (s : State) (i : Nat) : Nat := (s.published.filter fun b => b.inst == i && b.refs == 0).length

/-- `SRV_EVENT.POOL_LOW` when FREE plus CACHED falls below KV_UNITS / 16. -/
def poolCheck (s : State) (i : Nat) : State :=
  match tget s.instances i with
  | none => s
  | some x =>
    let low := decide (16 * (x.free.length + s.cachedUnits i) < x.d 0x24 4)
    let s1 := s.setInst i { x with poolLow := low }
    if low && !x.poolLow then s1.raiseEv evSrv 3 else s1

/-- A unit from the free ones, else the cached one matched longest ago, which is published no more (R274). -/
def poolTake (s : State) (i : Nat) : Option (Nat × State) :=
  match tget s.instances i with
  | none => none
  | some x =>
    match x.free with
    | u :: r => some (u, (s.setInst i { x with free := r }).poolCheck i)
    | [] =>
      let c := s.published.filter fun b => b.inst == i && b.refs == 0
      match c.foldl (fun (best : Option Published) b =>
          match best with
          | some y => if b.lastMatch.toNat < y.lastMatch.toNat then some b else best
          | none => some b) none with
      | some b => some (b.unit, ({ s with published := s.published.filter fun y => y.hash != b.hash || y.inst != i } : State).poolCheck i)
      | none => none

/-- `n` units for a reservation. -/
def poolTakeN (s : State) (i : Nat) : Nat → Option (List Nat × State)
  | 0 => some ([], s)
  | n + 1 =>
    match s.poolTake i with
    | some (u, t) => (t.poolTakeN i n).map fun r => (u :: r.1, r.2)
    | none => none

/-- A published unit of an instance. -/
def isPublished (s : State) (i u : Nat) : Bool := s.published.any fun b => b.inst == i && b.unit == u

/-- A request no longer lists a unit: a published one loses a reference (and is cached at none), another is free. -/
def unitGone (s : State) (i u : Nat) : State :=
  if s.isPublished i u then
    { s with published := s.published.map fun b => if b.inst = i ∧ b.unit = u then { b with refs := b.refs - 1 } else b }
  else s.modInst i fun x => { x with free := x.free ++ [u] }

/-- PROV on the frames of a unit set or cleared (Table 10-8). -/
def setProv (s : State) (x : Instance) (u : Nat) (on : Bool) : State :=
  let p0 := x.d 0x28 8 % 2 ^ 48 / 65536 + u * x.unitPages
  (List.range x.unitPages).foldl (fun (s : State) v =>
    match s.pageFrame x.ptn (p0 + v) with
    | some f => s.setAttr f (setFld (s.attr f) 4 4 (b2n on))
    | none => s) s

/-! ### Prefix reuse (R272, R273) -/

end State

/-- The hash of a block after the one before it (R272). -/
def blockHash (prev : Nat) (t : List Nat) (key : Nat) : Nat :=
  (List.range 4).foldl (fun h j =>
    let w := t.getD (4 * j) 0 + t.getD (4 * j + 1) 0 * 2 ^ 24 + t.getD (4 * j + 2) 0 * 2 ^ 48 + t.getD (4 * j + 3) 0 * 2 ^ 72
    gen (Nat.xor h w) key) prev

/-- The hashes of the whole blocks of some tokens, in order. `fuel` bounds the blocks. -/
def blockHashes (prev key : Nat) : Nat → List Nat → List Nat
  | 0, _ => []
  | fuel + 1, t =>
    if t.length < 16 then []
    else
      let h := blockHash prev (t.take 16) key
      h :: blockHashes h key fuel (t.drop 16)

/-- h[-1]: the adapter's index plus 1 in its upper half (R272). -/
def hashStart (adapter : Option Nat) : Nat :=
  match adapter with
  | some a => (a + 1) * 2 ^ 64
  | none => 0

namespace State

/-- The published blocks that head a prompt: hashes in order up to the first miss (R273). -/
def matchPrefix (s : State) (i : Nat) (hs : List Nat) : List Published :=
  match hs with
  | [] => []
  | h :: r =>
    match s.published.find? fun b => b.inst == i && b.hash == BitVec.ofNat 128 h with
    | some b => b :: s.matchPrefix i r
    | none => []

end State

/-- INSTANCE_CREATE (R260, R261). -/
def execInstanceCreate (addr : Nat) (s : State) : Host.Outcome State Fault Refusal := act s fun s => s.createInst addr

/-- INSTANCE_DESTROY (R262). -/
def execInstanceDestroy (addr : Nat) (s : State) : Host.Outcome State Fault Refusal := act s fun s => s.destroyInst addr

/-- ADAPTER_REGISTER (R275). -/
def execAdapterRegister (addr : Nat) (s : State) : Host.Outcome State Fault Refusal := act s fun s => s.registerAdapter addr

/-- ADAPTER_RELEASE (R275). -/
def execAdapterRelease (addr : Nat) (s : State) : Host.Outcome State Fault Refusal := act s fun s => s.releaseAdapter addr

/-- RING_CREATE (R276). -/
def execRingCreate (addr : Nat) (s : State) : Host.Outcome State Fault Refusal := act s fun s => s.createRing addr

/-- RING_DESTROY (R276). -/
def execRingDestroy (addr : Nat) (s : State) : Host.Outcome State Fault Refusal := act s fun s => s.destroyRing addr

/-- REQUEST_CANCEL (R282). -/
def execRequestCancel (addr : Nat) (s : State) : Host.Outcome State Fault Refusal := act s fun s => s.cancelReq addr

end Sys2Proof.Machine
end

