-- ==== Sys2Proof/Machine/Serving.lean ====
section
/-! DEFINITION. The serving engine's work (R263 to R287): admission, steps and passes, token rings, speculation, deadlines and
overload. -/

namespace Sys2Proof.Machine

namespace Request

/-- L: the tokens known. -/
def len (r : Request) : Nat := r.tokens.length

/-- SPECULATE (Table 10-3). -/
def spec (r : Request) : Bool := bitAt r.flags 2

/-- The request generates: only its last token is not yet fed. -/
def decodes (r : Request) : Bool := r.generated != 0 && r.fed + 1 == r.len

/-- The deadline has passed (R281). -/
def late (r : Request) (now : DWord) : Bool := decide (r.deadline * 1000 < (now - r.admitted).toNat)

/-- The TBT samples above TBT_TARGET when `n` tokens are delivered at once (R278). -/
def tbtMissed (r : Request) (now : DWord) (n : Nat) : Nat :=
  if r.firstToken.isSome && n != 0 && r.tbtTarget != 0 && decide (n * r.tbtTarget * 1000 < (now - r.lastToken).toNat) then n else 0

/-- µs since admission. -/
def since (r : Request) (now : DWord) : Nat := State.usBetween r.admitted now

end Request

/-- The value that a context's DONE_CNT, now `n`, has once the passes issued to it have ended: one of a step that began again may still
run (R285, R286). -/
def Instance.reached (x : Instance) (c : Nat) (n : Word) : Word :=
  match (x.expected.find? fun p => p.1 == c).map (·.2) with
  | some d => if 0 < (d - n).toInt then d else n
  | none => n

namespace State

/-! ### Token rings (R276 to R278) -/

/-- Entries of a ring that are free, as the consumer count shows. -/
def ringFree (s : State) (g : Ring) : Nat := 2 ^ g.log2 - (g.count - BitVec.ofNat 32 (le (s.fwRead g.consAddr 4) 0 4)).toNat

/-- Whether an entry may be written: after it, at least two stay free (R277); a ring of the host waits for the link
(Table 15-8). -/
def ringRoom (s : State) (k : Nat) : Bool :=
  match tget s.rings k with
  | some g => !g.lost && decide (3 ≤ s.ringFree g) && match parseAddr g.addr with
    | .host _ => g.peer || s.linkUp
    | _ => true
  | none => false

/-- The writer number of ring entries among the writes to the host. -/
def ringWriter : Nat := 6

/-- An entry of a ring of the host: one HOST_WR, kept until it is acknowledged, for it is written again after a link that
went down (R383, Table 15-8). -/
def ringPost (s : State) (k a : Nat) (l : List Byte) : State :=
  match parseAddr a with
  | .host h => s.hostWrites k ringWriter 0 h l 1
  | _ => s.post a l

/-- The bytes of a ring entry go out: by RDMA WRITE to a peer, else into memory. -/
def ringWrite (s : State) (k : Nat) (g : Ring) (a : Nat) (l : List Byte) : State :=
  if g.peer then s.sendNet (.rdmaWrite k a l) else s.ringPost k a l

/-- The two entries of a final record (R276, Table 10-10), as the state area keeps them (R287). -/
def finalBytes (st : Status) (fl : Nat) (r : Request) : List Byte :=
  leBytes 1 2 ++ leBytes 1 st.code ++ leBytes 2 fl ++ leBytes 4 r.generated ++ leBytes 4 (16 * r.matched) ++ leBytes 4 r.tag ++
  leBytes 1 3 ++ leBytes 1 r.preemptions ++ leBytes 2 0 ++ leBytes 4 (r.firstToken.getD (2 ^ 32 - 1)) ++ leBytes 4 r.tbtMax ++
  leBytes 4 (r.tbtMisses + 65536 * r.deferrals)

/-- Write one ring entry with its PHASE (R276). -/
def ringPut (s : State) (k ty st flags value pos time : Nat) : State :=
  match tget s.rings k with
  | none => s
  | some g =>
    let n := 2 ^ g.log2
    let l := leBytes 1 ty ++ leBytes 1 st ++ leBytes 2 (flags + 32768 * (g.count.toNat / n % 2)) ++ leBytes 4 value ++
      leBytes 4 pos ++ leBytes 4 time
    let at_ := g.addr + 16 * (g.count.toNat % n)
    let s1 := s.ringWrite k g at_ l
    { s1 with rings := tput s1.rings k { g with count := g.count + 1, recent := g.recent ++ [(at_, l)] } }

/-- A notice of a status, if the ring has room (R277, R283). -/
def ringNotice (s : State) (r : Request) (st : Status) (value : Nat) : State :=
  if s.ringRoom r.ring then s.ringPut r.ring 1 st.code 0 value 0 (r.since s.srvTime) else s

/-- Write waiting tokens of a request while its ring has room. `fuel` bounds them; the answer counts them. -/
def flushOut (s : State) (i : Nat) : Nat → State × Nat
  | 0 => (s, 0)
  | fuel + 1 =>
    match tget s.requests i with
    | none => (s, 0)
    | some r =>
      match r.outbox with
      | [] => (s, 0)
      | (tok, pos, fl) :: rest =>
        if s.ringRoom r.ring then
          let s1 := (s.ringPut r.ring 0 0 fl tok pos (r.since s.srvTime)).setReq i { r with outbox := rest }
          let t := s1.flushOut i fuel
          (t.1, t.2 + 1)
        else (s, 0)

/-- Tokens wait no longer than the ring forces them to; the latency of those written is measured (R278). -/
def deliver (s : State) (i : Nat) : State :=
  match tget s.requests i with
  | none => s
  | some r0 =>
    let f := s.flushOut i r0.outbox.length
    match tget f.1.requests i with
    | none => f.1
    | some r =>
      let now := s.srvTime
      let r1 :=
        if f.2 = 0 then r
        else
          let ttft := r.since now
          let gap := (now - r.lastToken).toNat
          let n := f.2
          { r with
            firstToken := some (r.firstToken.getD ttft), lastToken := now
            tbtMax := if r.firstToken.isSome then Nat.max r.tbtMax (gap / n / 1000) else r.tbtMax
            tbtMisses := satAdd 16 r.tbtMisses (r.tbtMissed now n) }
      let lost := (tget f.1.rings r.ring).any (·.lost)
      let r2 := if r1.outbox.isEmpty then (if r1.state = .held ∧ lost = false ∧ f.1.ringRoom r1.ring = true then { r1 with state := .decode } else r1)
        else { r1 with state := .held }
      let s2 := f.1.setReq i r2
      let first := r.firstToken.isNone && f.2 != 0 && r.ttftTarget != 0 && decide (1000 * r.ttftTarget < (now - r.admitted).toNat)
      s2.modInst r.inst fun x => { x with
        ttftMiss := satAdd 32 x.ttftMiss (b2n first), tbtMiss := satAdd 32 x.tbtMiss (r.tbtMissed now f.2) }

/-! ### Retirement (R276, R281, R282) -/

/-- A request ends with its one final record and the continuation (R276, R283). -/
def retireReq (s : State) (i : Nat) (st : Status) : State :=
  match tget s.requests i with
  | none => s
  | some r =>
    let now := s.srvTime
    let fl := b2n (st == .ok && r.late now && bitAt r.flags 0) + 8 * b2n r.wasDeferred + 16 * b2n r.wasPreempted +
      32 * b2n (r.cancelled && st == .ok)
    let s1 := match tget s.rings r.ring with
      | some g =>
        if g.lost then s
        else
          (s.ringPut r.ring 2 st.code fl r.generated (16 * r.matched) r.tag).ringPut r.ring 3 r.preemptions 0
            (r.firstToken.getD (2 ^ 32 - 1)) r.tbtMax (r.tbtMisses + 65536 * r.deferrals)
      | none => s
    let s2 := r.units.foldl (fun (s : State) u => s.unitGone r.inst u) s1
    let s3 := s2.modInst r.inst fun x => { x with free := x.free ++ r.reserved }
    let kept := (tget s.rings r.ring).any (·.lost)
    let s4 := { s3 with
      rings := tmod s3.rings r.ring fun g => { g with bound := none }
      requests := if kept then tput s3.requests i { r with
          state := .free, units := [], reserved := [], outbox := [], final := finalBytes st fl r } else tdel s3.requests i
      reqHandles := if kept then s3.reqHandles else s3.reqHandles.free i }
    let s5 := s4.poolCheck r.inst
    if st = .deadlineMissed then s5.raiseEv evSrv 1 else s5

/-- Whether a request has all it asked for (R282). -/
def reqFinished (s : State) (r : Request) : Bool :=
  r.generated != 0 &&
  (r.generated == r.maxNew || (tget s.instances r.inst).any (fun x => r.len == x.maxLen) ||
    (bitAt r.stop 31 && r.tokens.getLast? == some (r.stop % 2 ^ 24)))

/-- A request that is QUEUED, PREEMPTED or HELD when its deadline passes; it is retired whether or not it has CONTINUE_LATE
(R281). -/
def stuckLate (s : State) (r : Request) : Bool :=
  r.late s.srvTime && !r.runsLate && (r.state == .queued || r.state == .preempted || r.state == .held)

/-- The tests of a step boundary (R277, R281, R282): waiting tokens go out, deadlines and ends retire requests. -/
def boundaryTests (s : State) (i : Nat) : State :=
  (s.reqsOf i).foldl (fun (s : State) k =>
    if (tget s.requests k).any s.stuckLate then s.retireReq k .deadlineMissed
    else
      let s1 := s.deliver k
      match tget s1.requests k with
      | none => s1
      | some r =>
        let late := r.late s1.srvTime
        if late && !bitAt r.flags 0 then s1.retireReq k .deadlineMissed
        else if r.cancelled then s1.retireReq k .ok
        else if s1.reqFinished r && r.outbox.isEmpty then s1.retireReq k .ok
        else s1.setReq k { r with runsLate := late }) s

/-! ### Admission (R263 to R266, R273) -/

/-- Mean duration of the instance's last steps: ns and steps (R265). -/
def stepMean (x : Instance) : Nat × Nat := (x.durations.sum, x.durations.length)

/-- g as a fraction: tokens gained over decoding requests (R265); 1 without a draft or a measurement. -/
def stepGain (x : Instance) : Nat × Nat :=
  let a := (x.gains.map (·.1)).sum
  let b := (x.gains.map (·.2)).sum
  if x.draft.isNone || a == 0 || b == 0 then (1, 1) else (a, b)

/-- The predicted time of a request in ns, as a fraction (R265). -/
def predicted (s : State) (i : Nat) (x : Instance) (critical : Bool) (priority p m maxNew : Nat) : Nat × Nat :=
  let a := if critical then 0
    else ((s.reqsOf i).filter fun k => (tget s.requests k).any fun r =>
      r.state == .queued && !r.critical && decide (priority ≤ r.priority)).length
  let g := stepGain x
  let t := stepMean x
  (t.1 * (ceilDiv a x.maxSeqs + ceilDiv (p - 16 * m) x.stepTokens + ceilDiv (maxNew * g.2) g.1), Nat.max 1 t.2)

/-- A request descriptor's fields outside their range (R263, detail 0x04). -/
def badReq (s : State) (x : Instance) (l : List Byte) : Bool :=
  let p := le l 0x10 4
  1 < le l 4 1 || 7 < le l 5 1 || 7 < le l 6 1 || !clearAt l [(7, 1), (0x40, 48)] || p < 1 || x.maxLen ≤ p ||
  le l 0x14 4 < 1 || x.maxLen - p < le l 0x14 4 || !f32Between (le l 0x38 4) Num.zero (.fin false 1 4) ||
  fld (le l 0x2C 4) 30 24 != 0 || (bitAt (le l 6 1) 2 && x.draft.isNone) || !s.requestOk (le l 8 8) (4 * p)

/-- Write the RESULT of a submission (Table 10-3). -/
def submitAnswer (s : State) (a : Nat) (st : Status) (detail handle us : Nat) : State :=
  (s.post (a + 0x70) (leBytes 1 st.code ++ leBytes 1 detail ++ zeros 2 ++ leBytes 4 handle ++ leBytes 4 us ++ zeros 4)).srvNote st

/-- The lowest place of an instance's state area that no live request has. -/
def freePlace (s : State) (i : Nat) : Nat :=
  let used := (s.requests.filter fun p => p.2.inst == i).map fun p => p.2.slot
  ((List.range (used.length + 1)).find? fun n => !used.contains n).getD 0

/-- The engine reads the next submission and admits or refuses it (R264). -/
def admitRequest (s : State) (i : Nat) : State :=
  match tget s.instances i with
  | none => s
  | some x =>
    if x.submitHead = x.submitTail ∨ s.isOpen 77 = false then s
    else
      let a := x.d 0x58 8 + 128 * (x.submitHead.toNat % 2 ^ x.d 0x60 1)
      let l := s.fwRead a 128
      let s0 := s.setInst i { x with submitHead := x.submitHead + 1 }
      let p := le l 0x10 4
      let critical := le l 4 1 == 1
      let spec := bitAt (le l 6 1) 2
      let ring := s.ringOf (le l 0x28 4)
      let named := le l 0x18 4 != 0
      let adp := s.adpOf (le l 0x18 4)
      let toks := (List.range p).map fun j => le (s.fwRead (le l 8 8 + 4 * j) 4) 0 4 % 2 ^ 24
      let bad := s.badReq x l
      let hs := blockHashes (hashStart (if named then adp else none)) (x.d 0x68 8) ((p - 1) / 16) (toks.take (p - 1))
      let hit := if bad || bitAt (le l 6 1) 1 || !bitAt (x.d 0x61 1) 0 then [] else s.matchPrefix i hs
      let m := hit.length
      let life := if le l 0x1C 4 = 0 then 1000 * x.d 0x4C 4 else le l 0x1C 4
      let pt := s.predicted i x critical (le l 5 1) p m (le l 0x14 4)
      let us := Nat.min (2 ^ 32 - 1) (pt.1 / pt.2 / 1000)
      let want := if critical then ceilDiv (p + le l 0x14 4) 16 + b2n spec else ceilDiv p 16 + 1
      if le l 0 4 ≠ 1 then s0.submitAnswer a .versionUnsupported 0 0 0
      else if bad then s0.submitAnswer a .refusedInfeasible 4 0 0
      else if ring.isNone || (named && adp.isNone) then s0.submitAnswer a .handleStale 0 0 0
      else if !((ring.bind (tget s.rings)).any fun g => g.inst == i) ||
          (named && !((adp.bind (tget s.adapters)).any fun y => y.inst == i)) then s0.submitAnswer a .refusedInfeasible 4 0 0
      else if (ring.bind (tget s.rings)).any (·.bound.isSome) then s0.submitAnswer a .refusedInfeasible 6 0 0
      else if x.d 0x10 2 ≤ (s.reqsOf i).length then s0.submitAnswer a .refusedCapacity 1 0 0
      else
        match s0.reqHandles.take 8192 with
        | none => s0.submitAnswer a .refusedCapacity 1 0 0
        | some (k, t) =>
          if x.durations ≠ [] ∧ pt.2 * life * 1000 < pt.1 then s0.submitAnswer a .refusedInfeasible 5 0 us
          else
            let s1 := { s0 with published := s0.published.map fun (b : Published) =>
              (if hit.contains b then { b with refs := b.refs + 1, lastMatch := s.srvTime } else b) }
            match s1.poolTakeN i (want - m) with
            | none => s0.submitAnswer a .refusedCapacity 2 0 us
            | some (us_, s2) =>
              let r : Request := {
                state := .queued, inst := i, slot := s.freePlace i, order := x.admittedCount, critical := critical,
                priority := le l 5 1, flags := le l 6 1, promptLen := p, maxNew := le l 0x14 4,
                adapter := if named then adp else none, deadline := life, ttftTarget := le l 0x20 4,
                tbtTarget := le l 0x24 4, ring := ring.getD 0, stop := le l 0x2C 4, seed := le l 0x30 8,
                temperature := le l 0x38 4, tag := le l 0x3C 4, admitted := s.srvTime, tokens := toks, fed := 16 * m,
                fedDraft := 16 * m, units := hit.map (·.unit), reserved := us_, quota := want, matched := m, epoch := 0,
                generated := 0, cancelled := false, wasDeferred := false, wasPreempted := false, deferrals := 0,
                preemptions := 0, lastPosition := 0, firstToken := none, lastToken := s.srvTime, tbtMax := 0,
                tbtMisses := 0, outbox := [], runsLate := false, final := [] }
              let s3 := (s2.setReq k r).modInst i fun y => { y with admittedCount := y.admittedCount + 1 }
              let s4 := { s3 with
                reqHandles := t, rings := tmod s3.rings (ring.getD 0) fun g => { g with bound := some k } }
              s4.submitAnswer a .ok 0 (s4.reqHandle k) us

/-! ### Overload (R283) -/

/-- A request enters PREEMPTED. -/
def preemptReq (s : State) (k : Nat) : State :=
  match tget s.requests k with
  | none => s
  | some r =>
    let r1 := { r with state := .preempted, wasPreempted := true, preemptions := satAdd 8 r.preemptions 1 }
    ((s.setReq k r1).ringNotice r1 .preempted 0).raiseEv evSrv 2

/-- The units that a request's list begins with and that are published: its shared units. -/
def sharedUnits (s : State) (r : Request) : Nat := (r.units.takeWhile fun u => s.isPublished r.inst u).length

/-- A request gives its private units up: it will refeed from the end of its shared ones. -/
def stripReq (s : State) (k : Nat) : State :=
  match tget s.requests k with
  | none => s
  | some r =>
    let n := s.sharedUnits r
    let s1 := (r.units.drop n).foldl (fun (s : State) u => s.unitGone r.inst u) s
    let s2 := s1.modInst r.inst fun x => { x with free := x.free ++ r.reserved }
    s2.setReq k { r with
      units := r.units.take n, reserved := [], quota := 0, fed := Nat.min r.fed (16 * n), fedDraft := Nat.min r.fedDraft (16 * n) }

/-- The running best-effort request of lowest PRIORITY and latest admission. -/
def victim (s : State) (i : Nat) : Option Nat :=
  ((s.requests.filter fun p => p.2.inst == i && !p.2.critical && (p.2.state == .prefill || p.2.state == .decode)).foldl
    (fun (best : Option (Nat × Nat)) p =>
      let key := p.2.priority * 2 ^ 40 + (2 ^ 40 - 1 - p.2.order % 2 ^ 40)
      match best with
      | some b => if key < b.2 then some (p.1, key) else best
      | none => some (p.1, key)) none).map (·.1)

/-- A unit for a request: from its reservation, from the pool, or from a preempted request, which may be the request itself: then
there is none for it. `fuel` bounds the preemptions. -/
def unitFor (s : State) (k : Nat) : Nat → Option Nat × State
  | 0 => (none, s)
  | fuel + 1 =>
    match tget s.requests k with
    | none => (none, s)
    | some r =>
      match r.reserved with
      | u :: rest => (some u, s.setReq k { r with reserved := rest })
      | [] =>
        match s.poolTake r.inst with
        | some x => (some x.1, x.2)
        | none =>
          match s.victim r.inst with
          | some v =>
            let t := (s.preemptReq v).stripReq v
            if v = k then (none, t) else t.unitFor k fuel
          | none => (none, s)

/-- `n` more units at the end of a request's list; whether it got them all. -/
def listUnits (s : State) (k : Nat) : Nat → Bool × State
  | 0 => (true, s)
  | n + 1 =>
    match s.unitFor k 8193 with
    | (some u, t) => (t.modReq k fun r => { r with units := r.units ++ [u] }).listUnits k n
    | (none, t) => (false, t)

/-! ### Filling a step (R270) -/

/-- The order of R270: the four groups, then PRIORITY descending, then admission. -/
def fillKey (r : Request) : Nat :=
  let early := r.state == .decode || r.state == .preempted
  let g := if r.critical then (if early then 0 else 1) else (if early then 2 else 3)
  (g * 8 + (7 - r.priority)) * 2 ^ 40 + r.order

/-- Rows of a pass that a step's sequences take: the target's, and the first draft's. -/
def targetRows (l : List StepSeq) : Nat := (l.map (·.count)).sum
def draftRows (l : List StepSeq) : Nat := (l.map fun q => q.catchUp + (if 0 < q.drafts then 1 else 0)).sum

/-- The adapter group of a request: 0 without one, else the index plus 1. -/
def adapterKey (s : State) (k : Nat) : Nat :=
  match (tget s.requests k).bind (·.adapter) with
  | some a => a + 1
  | none => 0

/-- Try to place a request in a step: its part, and the state with its units listed. A speculating request whose draft model is
further behind than the rows left in a draft pass feeds what fits of it and takes no part in the target pass: its tokens then do not
depend on its batch-mates (R271; log entry 170). -/
def place (s : State) (x : Instance) (l : List StepSeq) (k : Nat) : Option StepSeq × State :=
  match tget s.requests k with
  | none => (none, s)
  | some r =>
    let room := x.stepTokens - targetRows l
    let droom := x.stepTokens - draftRows l
    let groups := (l.map fun q => s.adapterKey q.req).dedup
    if x.maxSeqs ≤ l.length ∨ room = 0 ∨ (256 ≤ groups.length ∧ groups.contains (s.adapterKey k) = false) then (none, s)
    else
      let len := r.len
      let behind := len - 1 - r.fedDraft
      let d0 := if r.spec then Nat.min x.maxDraft (x.maxLen - len) else 0
      let ready := !r.spec || decide (behind + 1 ≤ droom)
      let fill := if r.spec && r.generated != 0 then len - 1 - r.fed else len - r.fed
      let q : StepSeq :=
        if r.decodes then
          { req := k, kind := if r.spec then 2 else 1, first := len - 1, count := if ready then d0 + 1 else 0,
            drafts := if ready then d0 else 0, catchUp := if r.spec then Nat.min behind droom else 0, listed := [], drafted := [] }
        else
          { req := k, kind := 0, first := r.fed, count := Nat.min fill room, drafts := 0, catchUp := 0, listed := [],
            drafted := [] }
      if room < q.count ∨ (q.count = 0 ∧ q.catchUp = 0) then (none, s)
      else
        let more := ceilDiv (q.first + q.count) 16 - r.units.length
        let t := s.listUnits k more
        if t.1 then
          let now := (tget t.2.requests k).map (·.units)
          (some { q with listed := if q.kind = 2 then (now.getD []).drop r.units.length else [] }, t.2)
        else (none, if (tget t.2.requests k).any fun y => y.state == .preempted && r.state != .preempted then t.2 else s)

/-- The state of a request that has been placed (Table 10-4). -/
def placedState (r : Request) : ReqState := if r.decodes then .decode else .prefill

/-- One request at a step boundary: placed if it fits; a decoding one whose ring has no room is HELD (R277). -/
def fillOne (st : State × List StepSeq) (i k : Nat) : State × List StepSeq :=
  let s := st.1
  match tget s.instances i, tget s.requests k with
  | some x, some r =>
    if r.state = .held then st
    else if r.decodes && !s.ringRoom r.ring then (s.setReq k { r with state := .held }, st.2)
    else
      let gone := fun (t : State) (p : StepSeq) => (tget t.requests p.req).any fun y => y.state == .preempted
      match s.place x st.2 k with
      | (some q, t) =>
        let t1 := t.modReq k fun y => { y with state := placedState y }
        (t1, (st.2.filter fun p => !gone t1 p) ++ [q])
      | (none, t) => (t, st.2.filter fun p => !gone t p)
  | _, _ => st

/-- Best-effort requests that found no place: a running one is preempted, a queued one is told its place (R283). -/
def overload (s : State) (order : List Nat) (placed : List StepSeq) : State :=
  let waits := order.filter fun k => !(placed.any fun q => q.req == k) && (tget s.requests k).any fun r => !r.critical
  let s1 := waits.foldl (fun (s : State) k =>
    if (tget s.requests k).any fun r => r.state == .prefill || r.state == .decode then s.preemptReq k else s) s
  let queued := waits.filter fun k => (tget s1.requests k).any fun r => r.state == .queued
  queued.zipIdx.foldl (fun (s : State) p =>
    match tget s.requests p.1 with
    | none => s
    | some r =>
      let pos := p.2 + 1
      if r.lastPosition ≠ 0 ∧ r.lastPosition ≤ 2 * pos then s
      else
        let wrote := s.ringRoom r.ring
        let r1 := { r with
          wasDeferred := true, lastPosition := if wrote then pos else r.lastPosition, deferrals := if wrote then satAdd 16 r.deferrals 1 else r.deferrals }
        (s.setReq p.1 r1).ringNotice r1 .deferred pos) s1

/-! ### Passes (R268, R269) -/

end State

/-- One row of a step table. -/
structure StepRow where
  req : Nat
  kind : Nat
  pos : Nat
  tok : Nat
  out : Bool
  deriving DecidableEq, Repr

namespace State

/-- The rows of a pass, in step order: draft pass `j`, or the target's. -/
def passRows (s : State) (l : List StepSeq) (draft : Option Nat) : List StepRow :=
  l.flatMap fun q =>
    match tget s.requests q.req with
    | none => []
    | some r =>
      let tok := fun (p : Nat) => if p < r.len then r.tokens.getD p 0 else (q.drafted.getD (p - r.len) (0, 0)).1
      match draft with
      | some j =>
        (if j = 0 then (List.range q.catchUp).map fun n =>
          ({ req := q.req, kind := 3, pos := r.fedDraft + n, tok := tok (r.fedDraft + n), out := false } : StepRow) else []) ++
        (if j < q.drafts then
          [{ req := q.req, kind := 3, pos := r.len - 1 + j, tok := tok (r.len - 1 + j), out := true }] else [])
      | none => (List.range q.count).map fun n =>
          { req := q.req, kind := q.kind, pos := q.first + n, tok := tok (q.first + n),
            out := q.kind != 0 || q.first + n + 1 == r.len }

/-- The rows in table order: by adapter, no adapter first (R270). -/
def tableRows (s : State) (l : List StepSeq) (draft : Option Nat) : List StepRow :=
  sortBy (fun a b => s.adapterKey a.req ≤ s.adapterKey b.req) (s.passRows l draft)

/-- The segments of some rows: adapter group, first row, rows. -/
def segments (s : State) (rows : List StepRow) : List (Nat × Nat × Nat) :=
  ((rows.map fun w => s.adapterKey w.req).dedup.map fun g =>
    (g, rows.findIdx fun w => s.adapterKey w.req == g, (rows.filter fun w => s.adapterKey w.req == g).length))

/-- The offsets of a step table's parts: rows, segments, outputs (R269). -/
def tableParts (rows segs : Nat) : Nat × Nat × Nat :=
  let sg := roundUp (64 + 48 * rows) 64
  (64, sg, roundUp (sg + 16 * segs) 64)

/-- A step table (R269, Tables 10-5 and 10-6). -/
def stepTable (s : State) (x : Instance) (draft : Option Nat) : List Byte :=
  let rows := s.tableRows x.seqs draft
  let segs := s.segments rows
  let parts := tableParts rows.length segs.length
  let outs := rows.filter (·.out)
  let head := leBytes 8 x.pass.toNat ++ leBytes 4 x.stepNumber.toNat ++ leBytes 4 rows.length ++ leBytes 2 segs.length ++
    leBytes 2 outs.length ++ leBytes 1 (b2n draft.isSome) ++ leBytes 1 (draft.getD 0) ++ leBytes 4 parts.1 ++
    leBytes 4 parts.2.1 ++ leBytes 4 parts.2.2
  let row := fun (p : StepRow × Nat) =>
    let w := p.1
    let before := ((rows.take p.2).filter (·.out)).length
    match tget s.requests w.req with
    | none => zeros 48
    | some r =>
      leBytes 2 w.req ++ leBytes 1 w.kind ++ leBytes 1 (b2n w.out) ++ leBytes 4 w.pos ++ leBytes 4 w.tok ++
      leBytes 2 (if w.out then before else 0xFFFF) ++
      leBytes 2 (segs.findIdx fun g => g.1 == s.adapterKey w.req) ++ leBytes 8 (x.listAddr r.slot) ++
      leBytes 8 (gen w.pos r.seed % 2 ^ 64) ++ leBytes 4 r.temperature ++ zeros 12
  let seg := fun (g : Nat × Nat × Nat) =>
    match (if g.1 = 0 then none else tget s.adapters (g.1 - 1)) with
    | some y =>
      let at_ := match tget s.hotset y.entry with
        | some e => e.ptn * 2 ^ 48 + e.first * 65536
        | none => 0
      leBytes 8 at_ ++ leBytes 2 g.2.1 ++ leBytes 2 g.2.2 ++ leBytes 2 y.rank ++ zeros 2
    | none => leBytes 8 0 ++ leBytes 2 g.2.1 ++ leBytes 2 g.2.2 ++ leBytes 2 0 ++ zeros 2
  slice head 0 64 ++ slice (rows.zipIdx.flatMap row) 0 (parts.2.1 - 64) ++ slice (segs.flatMap seg) 0 (parts.2.2 - parts.2.1)

/-- Which draft pass the instance's step is in; none for its target pass. -/
def passDraft (x : Instance) : Option Nat := if x.passIndex < x.drafts then some x.passIndex else none

/-- The context that a pass runs. -/
def passCtx (x : Instance) : Nat := if (passDraft x).isSome then x.draft.getD x.target else x.target

/-- The unit lists that a step's rows name are written to the state area. -/
def putLists (s : State) (i : Nat) (x : Instance) : State :=
  x.seqs.foldl (fun (s : State) q =>
    match tget s.requests q.req with
    | some r => s.srvPut i x (x.listAddr r.slot) (r.units.flatMap fun u => leBytes 4 u)
    | none => s) s

/-- Issue the next pass: the step table, the template, the doorbell (R268). -/
def issuePass (s : State) (i : Nat) : State :=
  match tget s.instances i with
  | none => s
  | some x =>
    let c := passCtx x
    let draft := (passDraft x).isSome
    let len := if draft then x.d 0x1C 2 else x.d 0x1A 2
    let tmpl := (if draft then x.d 0x38 8 else x.d 0x30 8) + x.pass.toNat % 2 * (16 * len)
    let s1 := (s.putLists i x).srvPut i x (x.area x.pass) (s.stepTable x (passDraft x))
    let q := s1.queue c 0
    let s2 := (List.range len).foldl (fun (s : State) j =>
      s.fwWrite (s.ringAt c 0 (q.tail + BitVec.ofNat 32 j)) (s.srvRead x (tmpl + 16 * j) 16)) s1
    let next := x.reached c ((s2.ctx c).sync.getD (x.d 0x17 1) 0) + 1
    let s3 := s2.setInst i { x with
      pass := x.pass + 1, doneAt := next, expected := (x.expected.filter fun p => p.1 != c) ++ [(c, next)] }
    s3.ringDoorbell (4 * c) ((q.tail + BitVec.ofNat 32 len).toNat + s3.ctxHandles.gen c * 2 ^ 32)

/-- A step boundary (R270): tests, filling, and the step's first pass. -/
def stepBoundary (s : State) (i : Nat) : State :=
  match tget s.instances i with
  | none => s
  | some x0 =>
    if x0.inStep = true ∨ s.isOpen 77 = false then s
    else
      let s1 := s.boundaryTests i
      let order := sortBy (fun a b => ((tget s1.requests a).map fillKey).getD 0 ≤ ((tget s1.requests b).map fillKey).getD 0)
        (s1.reqsOf i)
      let f := order.foldl (fun st k => fillOne st i k) (s1, [])
      let s2 := f.1.overload order f.2
      match tget s2.instances i with
      | none => s2
      | some x =>
        if f.2 = [] then s2
        else
          let prov := f.2.flatMap (·.listed)
          let s3 := prov.foldl (fun (s : State) u => s.setProv x u true) s2
          let drafts := (f.2.map fun q => if q.drafts = 0 ∧ 0 < q.catchUp then 1 else q.drafts).foldl Nat.max 0
          (s3.setInst i { x with
            inStep := true, stepStart := s.srvTime, passIndex := 0, drafts := drafts, seqs := f.2, firstPass := x.pass,
            prov := prov, repeats := 0 }).issuePass i

/-! ### The end of a pass (Table 10-8, R279, R280) -/

/-- Output record of the `n`-th output row of a pass: the token, P and FLAGS (Table 10-7). -/
def outputAt (s : State) (x : Instance) (rows : List StepRow) (segs n : Nat) : Nat × Nat :=
  let l := s.srvRead x (x.area (x.pass - 1) + (tableParts rows.length segs).2.2 + 16 * n) 16
  (le l 0 4 % 2 ^ 24, le l 8 4)

/-- The outputs of a pass that has ended: request, position, token and P of each output row. -/
def passOutputs (s : State) (x : Instance) : List (Nat × Nat × Nat × Nat) :=
  let rows := s.tableRows x.seqs (passDraft x)
  let segs := (s.segments rows).length
  (rows.filter (·.out)).zipIdx.map fun p =>
    let o := s.outputAt x rows segs p.2
    (p.1.req, p.1.pos, o.1, o.2)

end State

/-- How many drafts are accepted (R279): `ps` and `qs` are P of the verify and draft rows from draft `a` on. -/
def acceptCount (seed pos0 : Nat) : Nat → List Nat → List Nat → Nat
  | _, [], _ => 0
  | _, _, [] => 0
  | a, q :: qs, p :: ps =>
    let out := gen (0x7FFFFE * 2 ^ 104 + (pos0 + a) * 2 ^ 64) seed
    if fcond 2 (fmul (uniformNoise out) (f32Of q)) (f32Of p) then 1 + acceptCount seed pos0 (a + 1) qs ps else 0

/-- The tokens of a step up to the enabled stop token and MAX_NEW (R282). -/
def cutTokens (stop left : Nat) (l : List Nat) : List Nat :=
  let l := l.take left
  match (if bitAt stop 31 then l.findIdx? (· == stop % 2 ^ 24) else none) with
  | some k => l.take (k + 1)
  | none => l

namespace State

/-- Blocks that have become final in both models are published (R274). -/
def publish (s : State) (k : Nat) : State :=
  match tget s.requests k with
  | none => s
  | some r =>
    match tget s.instances r.inst with
    | none => s
    | some x =>
      if bitAt r.flags 1 || !bitAt (x.d 0x61 1) 0 then s
      else
        let whole := (if x.draft.isSome then Nat.min r.fed r.fedDraft else r.fed) / 16
        let hs := blockHashes (hashStart r.adapter) (x.d 0x68 8) whole (r.tokens.take (16 * whole))
        (hs.zip r.units).foldl (fun (s : State) p =>
          let h := BitVec.ofNat 128 p.1
          if (s.published.any fun b => b.hash == h && b.inst == r.inst) || s.isPublished r.inst p.2 ||
              65536 ≤ s.published.length then s
          else { s with published := s.published ++
            [{ hash := h, inst := r.inst, unit := p.2, refs := 1, lastMatch := s.srvTime }] }) s

/-- A request's list ends at ⌈V_t / 16⌉ units; the others return to its reservation or the pool (R280). -/
def trimUnits (s : State) (k : Nat) : State :=
  match tget s.requests k with
  | none => s
  | some r =>
    let n := ceilDiv r.fed 16
    let keep := r.units.take n
    (r.units.drop n).foldl (fun (s : State) u =>
      match tget s.requests k with
      | some y =>
        if y.units.length + y.reserved.length < y.quota then s.setReq k { y with reserved := y.reserved ++ [u] }
        else s.unitGone y.inst u
      | none => s) (s.setReq k { r with units := keep })

/-- A request takes what a target pass gave it (Table 10-8 steps 4 to 6; R282). `ys` are its outputs in order of position. -/
def takeOutputs (s : State) (q : StepSeq) (ys : List (Nat × Nat)) : State :=
  match tget s.requests q.req with
  | none => s
  | some r =>
    let fedD := r.fedDraft + q.catchUp
    if q.count = 0 then (s.setReq q.req { r with fedDraft := fedD }).publish q.req
    else if q.kind = 0 ∧ (ys = [] ∨ q.first + q.count ≠ r.len) then (s.setReq q.req { r with fed := q.first + q.count }).publish q.req
    else
      let a := if q.kind = 2 then acceptCount r.seed r.len 0 (q.drafted.map (·.2)) (ys.map (·.2)) else 0
      let new := cutTokens r.stop (r.maxNew - r.generated)
        ((q.drafted.take a).map (·.1) ++ [((ys.getD (if q.kind = 2 then a else 0) (0, 0)).1)])
      let late := r.late s.srvTime
      let entry := fun (p : Nat × Nat) =>
        (p.1, r.len + p.2, b2n late + 2 * b2n (bitAt r.stop 31 && p.1 == r.stop % 2 ^ 24) + 4 * b2n (decide (p.2 < a)))
      let l1 := r.len + new.length
      let r1 := { r with
        tokens := r.tokens ++ new, fed := l1 - 1, generated := r.generated + new.length, state := .decode
        fedDraft := if q.drafts = 0 then fedD else Nat.min (l1 - 1) (r.len - 1 + q.drafts)
        epoch := r.epoch + 1, outbox := r.outbox ++ new.zipIdx.map entry }
      ((s.setReq q.req r1).trimUnits q.req).publish q.req

/-- The engine records a step: what an instance's rings were sent for the step before is in the past (R286). -/
def newRecord (s : State) (i : Nat) : State :=
  { s with rings := tmap (fun _ g => if g.inst = i then { g with recent := [] } else g) s.rings }

/-- The ring entries of the last recorded step are written again at the same counts (R286). -/
def repeatEntries (s : State) : State :=
  s.rings.foldl (fun (s : State) p => if p.2.lost then s else p.2.recent.foldl (fun (s : State) e => s.ringWrite p.1 p.2 e.1 e.2) s) s

/-- A step ends (Table 10-8, steps 4 to 6): acceptance, units, tokens, measurements; then the tests of the boundary. -/
def stepEnds (s : State) (i : Nat) (x : Instance) : State :=
  let outs := s.passOutputs x
  let s0 := (x.prov.foldl (fun (s : State) u => s.setProv x u false) s).newRecord i
  let s1 := x.seqs.foldl (fun (s : State) q =>
    let mine := sortBy (fun a b => a.2.1 ≤ b.2.1) (outs.filter fun o => o.1 == q.req)
    s.takeOutputs q (mine.map fun o => (o.2.2.1, o.2.2.2))) s0
  let dec := x.seqs.filter fun q => q.kind != 0
  let gained := (dec.map fun q => ((tget s1.requests q.req).map (·.len)).getD 0 - ((tget s.requests q.req).map (·.len)).getD 0).sum
  let s2 := s1.modInst i fun y => { y with
    inStep := false, seqs := [], prov := [], stepNumber := y.stepNumber + 1, repeats := 0
    durations := (y.durations ++ [(s.srvTime - x.stepStart).toNat]).drop (y.durations.length + 1 - 64)
    gains := (y.gains ++ [(gained, dec.length)]).drop (y.gains.length + 1 - 64) }
  ((s2.poolCheck i).boundaryTests i)

/-- A pass ends when DONE_CNT reaches its next value (R268): the next pass is issued, or the step ends. -/
def passEnd (s : State) (i : Nat) : State :=
  match tget s.instances i with
  | none => s
  | some x =>
    if x.inStep = false ∨ s.isOpen 77 = false ∨ (((s.ctx (passCtx x)).sync.getD (x.d 0x17 1) 0 - x.doneAt).toInt < 0) then s
    else
      match passDraft x with
      | some _ =>
        let outs := s.passOutputs x
        let seqs := x.seqs.map fun q =>
          match outs.find? fun o => o.1 == q.req with
          | some o => { q with drafted := q.drafted ++ [(o.2.2.1, o.2.2.2)] }
          | none => q
        (s.setInst i { x with seqs := seqs, passIndex := x.passIndex + 1 }).issuePass i
      | none => s.stepEnds i x

/-! ### Faults (R285 to R287) -/

/-- A step that does not end gives its newly listed units back (R280). -/
def dropStep (s : State) (i : Nat) (x : Instance) : State :=
  let s1 := x.prov.foldl (fun (s : State) u => s.setProv x u false) s
  let s2 := x.seqs.foldl (fun (s : State) q => s.trimUnits q.req) s1
  s2.modInst i fun y => { y with inStep := false, seqs := [], prov := [], repeats := 0 }

/-- The step in flight runs again from its first pass, with the same step tables (R285, R286). -/
def repeatStep (s : State) (i : Nat) : State :=
  (s.modInst i fun x => { x with
    passIndex := 0, pass := x.firstPass, seqs := x.seqs.map fun q => { q with drafted := [] } }).issuePass i

/-- A context that an instance runs has been torn down (R285): the supervisor recreates it with its former descriptor, queue
configuration and descriptor table; the step in flight repeats, or after its fourth failure retires its requests. -/
def serveTeardown (s : State) (c : Nat) (k : Context) : State :=
  s.instances.foldl (fun (s : State) p =>
    let i := p.1
    if p.2.target ≠ c ∧ p.2.draft ≠ some c then s
    else
      match s.ctxHandles.take 512 with
      | none =>
        let s1 := match tget s.instances i with
          | some x => s.dropStep i x
          | none => s
        (s1.reqsOf i).foldl (fun (s : State) r => s.retireReq r .contextFault) s1
      | some (n, h) =>
        let queues := k.queues.map fun q => { Queue.reset with
          ringLog2 := q.ringLog2, ringAddr := q.ringAddr, cringLog2 := q.cringLog2, cringAddr := q.cringAddr, quads := q.quads }
        let s1 := ({ s with ctxHandles := h } : State).setCtx n { Context.reset with
          state := .ready, ptn := k.ptn, critical := k.critical, tx2 := k.tx2, quads := k.quads, scrFirst := k.scrFirst,
          scrCount := k.scrCount, image := k.image, imagePages := k.imagePages, seed := k.seed, queues := queues,
          descAddr := k.descAddr, descCount := k.descCount }
        let s2 := s1.modInst i fun x => { x with
          target := if x.target = c then n else x.target, draft := if x.draft = some c then some n else x.draft
          expected := x.expected.filter fun p => p.1 != c && p.1 != n }
        match tget s2.instances i with
        | none => s2
        | some x =>
          if x.inStep = false then s2
          else if 3 ≤ x.repeats then
            let s3 := s2.dropStep i x
            x.seqs.foldl (fun (s : State) q => s.retireReq q.req .contextFault) s3
          else ((s2.modInst i fun y => { y with repeats := y.repeats + 1 }).repeatStep i).raiseEv evSrv 4) s

/-- The serving engine comes back from a reset of PD77 (R286): the steps in flight repeat, and the ring entries of the last recorded
step are written again. -/
def serveReload (s : State) : State :=
  (s.instances.foldl (fun (s : State) p => if p.2.inStep then s.repeatStep p.1 else s) s.repeatEntries).raiseEv evSrv 6

/-- A write to a peer ring has failed (R287). -/
def ringFails (s : State) (k : Nat) : State :=
  match tget s.rings k with
  | none => s
  | some g =>
    if g.peer = false ∨ g.lost = true then s
    else
      let s1 := { s with rings := tput s.rings k { g with lost := true } }
      let s2 := match g.bound with
        | some r => s1.modReq r fun y => { y with state := .held }
        | none => s1
      s2.raiseEv evSrv 5

end State

/-- REQUEST_ADMISSION (R264). -/
def execRequestAdmission (inst : Nat) (s : State) : Host.Outcome State Fault Refusal := act s fun s => s.admitRequest inst

/-- SERVING_STEP_BOUNDARY (R270). -/
def execServingStepBoundary (inst : Nat) (s : State) : Host.Outcome State Fault Refusal := act s fun s => s.stepBoundary inst

/-- SERVING_PASS_END (R268). -/
def execServingPassEnd (inst : Nat) (s : State) : Host.Outcome State Fault Refusal := act s fun s => s.passEnd inst

/-- PEER_RING_FAILURE (R287). -/
def execPeerRingFailure (ring : Nat) (s : State) : Host.Outcome State Fault Refusal := act s fun s => s.ringFails ring

end Sys2Proof.Machine
end

