-- ==== Sys2Proof/Machine/Mirror.lean ====
section
/-! DEFINITION. Mirror sessions at both ends (R314, R326 to R329): the handshake, the flush of the log, lost sessions, and
the store that this module serves. -/

namespace Sys2Proof.Machine

namespace State

/-! ### The source's end -/

/-- Pages of a checkpoint of the protected partition. -/
def ckptPages (s : State) : Nat :=
  match s.ckpPtn with
  | none => 0
  | some p =>
    let cs := s.ckptCtxs p
    (s.regions.map fun r => r.pages).sum + 1 + ceilDiv ((s.ringSpans cs).map (·.2)).sum 65536 +
      ceilDiv ((s.tableSpans cs).map (·.2)).sum 65536 + (cs.map fun c => Context.imageNeed (s.ctx c).quads (s.ctx c).scrCount).sum

/-- The queue pairs of a candidate are opened (R326): what their predecessors of the same number had left is gone. -/
def openConnections (s : State) (i : Nat) : State :=
  (List.range s.ckp.connections).foldl (fun (s : State) c => s.setQp (0x300000 + 8 * i + c) Qp.reset) s

/-- The MIRROR_HELLO to a candidate (R326, R404); beyond the last the state is NONE until the list is tried again. -/
def tryCandidate (s : State) (i : Nat) : State :=
  match s.ckp.candidates[i]? with
  | some l =>
    if s.isOpen 76 then
      let r := (s.openConnections i).ownReport (sha384 (slice l 0 32))
      (r.2.setCkp { r.2.ckp with mirror := .handshake, candidate := i, session := 0 }).sendNet (.mirrorHello i
        { protocol := 1, report := r.1, feed := s.boot.feed, pages := 2 * s.ckptPages + s.ckp.logPages,
          force := bitAt (le l 32 4) 0 })
    else s
  | none => s.setCkp { s.ckp with mirror := .none, session := 0 }

/-- The candidates are tried from the first (R326). -/
def startMirror (s : State) : State := (s.setCkp { s.ckp with retry := true }).tryCandidate 0

/-- The session is lost (R328): the running checkpoint is abandoned, records count as flushed, and the candidates are tried
again. -/
def sessionLost (s : State) : State :=
  if s.ckpSession then
    let s1 := ((s.setCkp { s.ckp with mirror := .lost, session := 0 }).raiseEv evCkp 4).ckptEnd false
    (s1.setCkp { s1.ckp with flushed := s1.ckp.lsn }).startMirror
  else s

/-- Replay log records up to an LSN are acknowledged (R314). -/
def flushAck (s : State) (lsn : Nat) : State :=
  if s.ckpSession ∧ s.ckp.flushed.toNat ≤ lsn ∧ lsn < s.ckp.lsn.toNat then
    s.setCkp { s.ckp with flushed := BitVec.ofNat 64 (lsn + 1) }
  else s

/-- A flush is not acknowledged within ACK_MS (R314, R328). -/
def flushLate (s : State) : State := if s.ckp.flushed.toNat < s.ckp.lsn.toNat then s.sessionLost else s

/-- The host closes the session: a running checkpoint has lost it; no candidate is tried until a reopen (log entry 38). -/
def closeSession (s : State) : State :=
  let s1 := if s.ckpSession then (s.sendNet .sessionClose).ckptEnd false else s
  s1.setCkp { s1.ckp with
    mirror := .none, session := 0, retry := false, flushed := if s1.ckpSession then s1.ckp.lsn else s1.ckp.flushed }

/-- The host reopens the session from the first candidate; one that stands is closed first. -/
def reopenSession (s : State) : State := (if s.ckpSession then s.closeSession else s).startMirror

/-- The log from the latest durable checkpoint's LOG_LSN is sent over a new session (R328): the records the ring holds. -/
def resendLog (s : State) : State :=
  match s.ckpPtn with
  | none => s
  | some p =>
    let hi := s.ckp.lsn.toNat
    let lo := Nat.max s.ckp.durableLsn.toNat (hi - s.logRing)
    let s1 := (List.range (hi - lo)).foldl (fun (s : State) i =>
      let x := (lo + i) % Nat.max 1 s.logRing
      let l := match s.pageFrame p (s.ckp.logFirst + x / 1024) with
        | some f => s.mem.readAll (hbmKey f (x % 1024 * 64)) 64
        | none => []
      match s.ckp.logHeld.find? fun h => le h 8 8 == lo + i with
      | some h => s.sendNet (.logRecord h)
      | none => s.sendNet (.logRecord l)) s
    s1.setCkp { s1.ckp with flushed := BitVec.ofNat 64 lo }

/-- A candidate's answer (R326, R327). A session over an equal feed is CORRELATED. -/
def helloMirror (s : State) (status feed handle : Nat) : State :=
  if s.ckp.mirror ≠ .handshake then s
  else if status = 0 then
    let same := feed == s.boot.feed
    let s1 := s.setCkp { s.ckp with
      mirror := if same then .correlated else .active, partnerFeed := feed, session := handle
      requested := s.ckp.requested || s.ckpPtn.isSome }
    (if same then s1.raiseEv evCkp 6 else s1).resendLog
  else
    let st := ([Status.versionUnsupported, .refusedCapacity, .refusedInfeasible, .mirrorSameFeed].find? fun x =>
      x.code == status).getD .refusedInfeasible
    let s1 := s.setCkp { s.ckp with lastStatus := st }
    (if st = .mirrorSameFeed then s1.raiseEv evCkp 5 else s1).tryCandidate (s.ckp.candidate + 1)

/-- 10 s after every candidate refused the list is tried again (R326). -/
def mirrorRetry (s : State) : State :=
  if s.ckp.retry = true ∧ (s.ckp.mirror = .none ∨ s.ckp.mirror = .lost) then s.startMirror else s

/-- A connection exhausts its retries (R292, R293): a group member is lost (R301), clips read from a server are missing (R214), a
write to a peer ring has failed (R287), a mirror session is lost (R328). -/
def connectionLost (s : State) (q : Nat) : State :=
  if s.net.qpnBase ≤ q ∧ q < s.net.qpnBase + 2048 ∧ s.inGroup = true then s.memberLost ((q - s.net.qpnBase) / 2)
  else if 0x100000 ≤ q ∧ q < 0x101000 then (s.setQp q Qp.reset).serverLost ((q - 0x100000) / 256) ((q - 0x100000) % 256)
  else if 0x200000 ≤ q ∧ q < 0x202000 then s.ringFails (q - 0x200000)
  else if 0x300000 + 8 * s.ckp.candidate ≤ q ∧ q < 0x300000 + 8 * s.ckp.candidate + s.ckp.connections then s.sessionLost
  else s

/-! ### The partner's end (R326 to R328) -/

/-- The served session of a handle. -/
def servedOf (s : State) (v : Nat) : Option (Nat × ServedSession) :=
  (s.sesHandles.index 8 4 (thas s.ckp.served) v).bind fun i => (tget s.ckp.served i).map fun x => (i, x)

def setServed (s : State) (i : Nat) (x : ServedSession) : State := s.setCkp { s.ckp with served := tput s.ckp.served i x }

/-- The lowest page of the store where `n` pages are free. -/
def storePlace (s : State) (n : Nat) : Option Nat :=
  let ends := s.ckp.storeFirst :: s.ckp.served.map fun x => x.2.first + x.2.pages
  (sortBy (fun a b => a ≤ b) ends).find? fun a =>
    decide (a + n ≤ s.ckp.storeFirst + s.ckp.storePages) &&
    s.ckp.served.all fun x => decide (a + n ≤ x.2.first ∨ x.2.first + x.2.pages ≤ a)

/-- The store's pages hold what the device puts there: undefined to every other reader. -/
def undefineStore (s : State) (p first n : Nat) : State :=
  { s with
    mem := (s.framesOf p first n).foldl (fun m f => m.undefine (hbmKey f 0) (hbmKey f 65536) s.free) s.mem, free := s.free + 1 }

/-- A MIRROR_HELLO arrives (R326, R327, R404). -/
def mirrorHello (s : State) (h : MirrorHelloMsg) : State :=
  if s.isOpen 76 = false then s
  else
    let p := s.ptnOf s.ckp.storePtn
    let place := if p.isSome then s.storePlace h.pages else none
    let st := firstStatus [
      (h.protocol != 1 || h.protocol < s.boot.mirrorMin, .versionUnsupported),
      (!s.reportAccepted h.report (sha384 (slice Config.serverRecord 0 32)), .refusedInfeasible),
      (h.feed == s.boot.feed && !h.force, .mirrorSameFeed),
      ((s.sesHandles.take 4).isNone || place.isNone, .refusedCapacity)]
    match st, s.sesHandles.take 4, place, p with
    | .ok, some (i, t), some a, some pt =>
      let x : ServedSession := {
        feed := h.feed, key := slice h.report 0x70 96, first := a, pages := h.pages, slotA := { shards := [], manifest := none },
        slotB := { shards := [], manifest := none }, latest := none, log := [] }
      let s1 := ((({ s with sesHandles := t } : State).acceptReport h.report).setServed i x).undefineStore pt a h.pages
      s1.sendNet (.mirrorAnswer .ok s.boot.feed (s1.sesHandle i))
    | x, _, _, _ => s.sendNet (.mirrorAnswer x s.boot.feed 0)

end State

/-- The slot that a new checkpoint goes to: the one without the latest durable one (R328). -/
def ServedSession.other (x : ServedSession) : Bool := match x.latest with
  | some b => !b
  | none => false

/-- A slot of a served session: the second where `b` is true. -/
def ServedSession.slot (x : ServedSession) (b : Bool) : StoreSlot := if b then x.slotB else x.slotA

def ServedSession.setSlot (x : ServedSession) (b : Bool) (y : StoreSlot) : ServedSession :=
  if b then { x with slotB := y } else { x with slotA := y }

/-- Whether a manifest's length is that of its entries. -/
def manifestLong (l : List Byte) : Bool := l.length == 0x30 + 64 * le l 0xC 4 + 96

/-- Whether a manifest is signed by a key over its header and every entry (R324). -/
def manifestSigned (l key : List Byte) : Bool :=
  let n := 0x30 + 64 * le l 0xC 4
  manifestLong l && le l 0 4 == 1 && Config.ecdsaVerifies key (sha384Nat (slice l 0 n)) (slice l n 96)

/-- Entry `i` of a manifest. -/
def manifestEntry (l : List Byte) (i : Nat) : List Byte := slice l (0x30 + 64 * i) 64

namespace State

/-- A shard arrives: it is kept and acknowledged when its digest matches, else refused (R323). -/
def shardArrives (s : State) (v i : Nat) (data digest : List Byte) : State :=
  match s.servedOf v with
  | none => s
  | some (k, x) =>
    if s.isOpen 76 = false then s
    else if sha384 data = digest then
      let b := x.other
      let y := x.slot b
      (s.setServed k (x.setSlot b { y with shards := tput y.shards i (digest ++ data) })).sendNet (.shardAnswer v i true)
    else s.sendNet (.shardAnswer v i false)

/-- A manifest arrives: it is acknowledged only when its signature verifies under the session's key and every entry's digest
is the one acknowledged for that shard, and keeps those shards; then, unless CORRELATED, the slot holds the latest durable checkpoint and the other
slot is free (R324, R325). -/
def manifestArrives (s : State) (v : Nat) (l : List Byte) : State :=
  match s.servedOf v with
  | none => s
  | some (k, x) =>
    let b := x.other
    let y := x.slot b
    let same := (List.range (le l 0xC 4)).all fun i => (tget y.shards i).any fun z => z.take 48 == slice (manifestEntry l i) 0x10 48
    if s.isOpen 76 = false ∨ manifestSigned l x.key = false ∨ same = false then s
    else
      let x1 := x.setSlot b { shards := y.shards.filter fun z => z.1 < le l 0xC 4, manifest := some l }
      let x2 := if bitAt (le l 0x18 4) 0 then x1
        else { x1.setSlot (!b) { shards := [], manifest := none } with latest := some b }
      (s.setServed k x2).sendNet (.manifestAck v)

/-- A replay log record arrives; one whose CRC fails is treated as absent (R312, R328). -/
def logArrives (s : State) (v : Nat) (l : List Byte) : State :=
  match s.servedOf v with
  | none => s
  | some (k, x) =>
    if s.isOpen 76 = false ∨ l.length ≠ 64 ∨ crc32c (slice l 0 0x3C) ≠ le l 0x3C 4 then s
    else (s.setServed k { x with log := tput x.log (le l 8 8) l }).sendNet (.logAck v (le l 8 8))

end State

/-- LOG_FLUSH_ACK (R314). -/
def execLogFlushAck (lsn : Nat) (s : State) : Host.Outcome State Fault Refusal := act s fun s => s.flushAck lsn

/-- FLUSH_TIMEOUT (R314). -/
def execFlushTimeout (s : State) : Host.Outcome State Fault Refusal := act s fun s => s.flushLate

/-- SESSION_CLOSE (R328). -/
def execSessionClose (s : State) : Host.Outcome State Fault Refusal := act s fun s => s.closeSession

/-- SESSION_REOPEN (R326). -/
def execSessionReopen (s : State) : Host.Outcome State Fault Refusal := act s fun s => s.reopenSession

/-- MIRROR_HELLO_ANSWER (R326). -/
def execMirrorHelloAnswer (status feed handle : Nat) (s : State) : Host.Outcome State Fault Refusal :=
  act s fun s => s.helloMirror status feed handle

/-- MIRROR_RETRY_TIMER (R326). -/
def execMirrorRetryTimer (s : State) : Host.Outcome State Fault Refusal := act s fun s => s.mirrorRetry

/-- PARTNER_SESSION_CLOSE (R328). -/
def execPartnerSessionClose (s : State) : Host.Outcome State Fault Refusal := act s fun s => s.sessionLost

/-- MIRROR_HELLO (R327). -/
def execMirrorHello (msg : MirrorHelloMsg) (s : State) : Host.Outcome State Fault Refusal := act s fun s => s.mirrorHello msg

/-- SHARD_RECEIVE (R323). -/
def execShardReceive (session shard : Nat) (data digest : List Byte) (s : State) : Host.Outcome State Fault Refusal :=
  act s fun s => s.shardArrives session shard data digest

/-- MANIFEST_RECEIVE (R324). -/
def execManifestReceive (session : Nat) (bytes : List Byte) (s : State) : Host.Outcome State Fault Refusal :=
  act s fun s => s.manifestArrives session bytes

/-- LOG_RECORD_RECEIVE (R328). -/
def execLogRecordReceive (session : Nat) (bytes : List Byte) (s : State) : Host.Outcome State Fault Refusal :=
  act s fun s => s.logArrives session bytes

/-- ROCE_RETRY_TIMEOUT (R292): go-back-N, and with the seventh retry spent the connection is lost. -/
def execRoceRetryTimeout (qp : Nat) (s : State) : Host.Outcome State Fault Refusal :=
  act s fun s =>
    let t := s.retryTimeout qp
    if (t.qp qp).failed && !(s.qp qp).failed then t.connectionLost qp else t

end Sys2Proof.Machine
end

