-- ==== Sys2Proof/Machine/Restore.lean ====
section
/-! DEFINITION. Restore (R330 to R332, Table 12-6): what is fetched is verified, the contexts take their state, counters are
realigned, and recompute begins. -/

namespace Sys2Proof.Machine

/-! ### Verifying what was fetched -/

/-- The records of a fetched log: 64 bytes each. -/
def logRecords (l : List Byte) : List (List Byte) := (List.range (l.length / 64)).map fun i => slice l (64 * i) 64

/-- A record whose CRC matches (R312). -/
def recordOk (l : List Byte) : Bool := crc32c (slice l 0 0x3C) == le l 0x3C 4

/-- The records up to the last STEP_END of a fetched log, if they are whole: CRCs right, LSNs consecutive from LOG_LSN
(Table 12-6, step 3). -/
def wholeLog (l : List Byte) (lsn : Nat) : Option (List (List Byte)) :=
  let rs := logRecords l
  let ends := (rs.zipIdx.filter fun p => recordOk p.1 && le p.1 0 1 == 2).map (·.2)
  let n := match ends.getLast? with
    | some i => i + 1
    | none => 0
  if (rs.take n).zipIdx.all fun p => recordOk p.1 && le p.1 8 8 == lsn + p.2 then
    some ((rs.take n) ++ (rs.drop n).takeWhile recordOk)
  else none

/-- The shards of a region in a manifest, with their numbers. -/
def manifestRegion (m : List Byte) (region : Nat) : List Nat :=
  (List.range (le m 0xC 4)).filter fun i => le (manifestEntry m i) 0 2 == region

namespace State

/-- The key under which a manifest must verify: this module's, or the one that its IDENT names. -/
def manifestKey (s : State) (m : List Byte) : List Byte :=
  let id := slice m 0x20 16
  if (sha384 s.ownKey).take 16 = id then s.ownKey
  else if (sha384 (slice (Config.identityKey id) 0 96)).take 16 = id then slice (Config.identityKey id) 0 96 else []

/-- Bytes written at spans of addresses in order, from a run of bytes. -/
def putSpans (s : State) (p : Nat) : List (Nat × Nat) → List Byte → State
  | [], _ => s
  | (a, n) :: r, l => (s.storeBytes p a (l.take n)).putSpans p r (l.drop n)

/-! ### Contexts (step 4) -/

/-- The queue that an image's header describes, on the rings configured now (Table 9-8). Commands dispatched and without a
final code start again. -/
def imageQueue (s : State) (c q : Nat) (h : List Byte) : Queue :=
  let x := s.queue c q
  let o := 0x100 + 64 * q
  let head := BitVec.ofNat 32 (le h (o + 4) 4)
  let done := BitVec.ofNat 32 (le h (o + 8) 4)
  let code := le h (o + 24) 4
  let win := le h (o + 20) 4
  let resume := (List.range 64).map fun i => slice h (0x200 + 1024 * q + 16 * i) 16
  let cmds := (List.range (head - done).toNat).map fun i =>
    let idx := done + BitVec.ofNat 32 i
    let w := BitVec.ofNat 128 (ofLe (s.fwRead (s.ringAt c q idx) 16))
    let y := cmdNew idx w win
    if resume.any fun r => le r 0 4 == idx.toNat && r != zeros 16 || (idx.toNat == 0 && i == 0) then
      { y with started := code == 3 && cmdOpcode w == 12 }
    else { y with final := true, recorded := true }
  { x with
    tail := BitVec.ofNat 32 (le h o 4), head := head, done := done, chead := BitVec.ofNat 32 (le h (o + 12) 4),
    ctail := BitVec.ofNat 32 (le h (o + 16) 4), window := win, quads := le h (o + 28) 4, cmds := cmds, chain := [],
    state := [QState.idle, .active, .waiting, .gated, .parked, .halted].getD code .idle, stepGate := false
    gateFrom := head, gateWindow := win, gateBad := 0, gateMax := -128, gateSeen := false, passing := false,
    updating := code == 3, asQueued := [], stepFrom := head, stepWindow := win
    gateDraws := BitVec.ofNat 64 (le h 0x20 8) }

/-- The layers that have descended and not run out their HOLD, as far as their records say: those at their base format with HOLD
above 0 (R142, Table 5-9; log entry 159). -/
def heldAtBase (s : State) (c : Nat) : List Nat :=
  ((List.range (s.ctx c).ltabCount).map fun i => s.layerAt c i).filterMap fun r =>
    if r.cur = r.base ∧ r.hold ≠ 0 then some r.layer else none

/-- A context takes the state that its Soredium holds; it is SAVED (R247, Table 12-6 step 4). -/
def restoreCtx (s : State) (c : Nat) (img : List Byte) (rec_ : List Byte) : State :=
  let k := s.ctx c
  let s1 := s.storeBytes k.ptn k.image (img.take (65536 * k.imagePages))
  let h := img.take 65536
  let s2 := s1.setCtx c { k with
    state := .saved, hasImage := true, imageQuads := members (le h 0x10 4) 32, imageDies := [], resident := 0, step := BitVec.ofNat 32 (le h 0x18 4),
    draws := BitVec.ofNat 64 (le h 0x20 8), drawCursor := BitVec.ofNat 64 (le h 0x28 8),
    sync := (List.range 8).map fun i => BitVec.ofNat 32 (le h (0x30 + 4 * i) 4), susp := [], suspDrains := [], suspLoads := [], dropArrays := false, barred := false,
    atStep := true, point := none, lrH := le rec_ 0xD 1, seed := BitVec.ofNat 64 (le rec_ 0x20 8), stepStatus := 0,
    skipReq := false, layerReports := [], losses := [], heldNow := [], attempt := 0, wait := .none, captureDue := false,
    descended := s1.heldAtBase c }
  [0, 1, 2, 3].foldl (fun (s : State) q => s.setQueue c q (s.imageQueue c q h)) s2

/-- A restored context is the student of the jobs whose student context, of the handle that the checkpoint names, was torn down
(Table 1-10). -/
def takeStudent (s : State) (c old : Nat) : State :=
  { s with jobs := tmap (fun _ j => if j.studentCtx = 512 ∧ j.formerStudents.contains old then { j with studentCtx := c } else j) s.jobs }

/-! ### Counters (R331, step 5) -/

/-- The counters of a context are checked against its data cursor. -/
def realignCtx (s : State) (c : Nat) (entry : List Byte) : State :=
  let k := s.ctx c
  let b := Config.blockOrdinal k.drawCursor
  let want := Config.drawsPerBlock c * b
  let s1 := if k.tx2 then (s.setCtx c { k with
      draws := want, queues := k.queues.map fun x => { x with gateDraws := want } }).realign c 0xFF k.draws.toNat want.toNat else s
  (List.range 8).foldl (fun (s : State) i =>
    let u := le entry (0x20 + 4 * i) 4
    if bitAt u 3 then
      let k := s.ctx c
      let n := u % 8
      let old := k.sync.getD n 0
      let new := BitVec.ofNat 32 (u / 256 * b.toNat)
      (s.setCtx c { k with sync := k.sync.set n new }).realign c n old.toNat new.toNat
    else s) s1

/-! ### Streams and channels (R330) -/

/-- Streams that the partition consumes are reopened at the cursors of the state record, with REPLAY set. -/
def replayStreams (s : State) (p : Nat) (rec_ : List Byte) : State :=
  (s.consumed p).zipIdx.foldl (fun (s : State) x =>
    let st := x.1.2.1
    let cur := le rec_ (0x180 + 8 * x.2) 8
    let st1 := reopenAt st cur (le st.desc 0x40 8)
    s.setStream x.1.1 { st1 with
      desc := slice st1.desc 0 0x1C ++ leBytes 1 (setFld (le st1.desc 0x1C 1) 2 2 1) ++ slice st1.desc 0x1D (st1.desc.length - 0x1D) }) s

/-- A channel is open again, empty, with a SEQ to go on with. A close of it that had not ended is answered RETRY_LATER (log entry
161); the close of a whole job goes on. -/
def reopenChan (s : State) (i : Nat) (seq : Word) : State :=
  match tget s.channels i with
  | some ch =>
    let again := ch.state == .faulted || (ch.state == .closing && (tget s.jobs ch.job).any fun j => j.closing.isNone)
    let s1 := match ch.closing with
      | some a => if again then s.post (a + 0x20) (openRecord .retryLater 0 0 (s.chanHandle i) 0 0) else s
      | none => s
    s1.modChan i fun ch => { ch with
      slots := ch.slots.map fun _ => SorSlot.reset, fill := 0, nextSeq := seq, skip := 0,
      state := if again then .opened else ch.state, closing := if again then none else ch.closing }
  | none => s

/-- The descriptors of a job's contexts name a channel by its new handle: firmware places the handles (Table 1-2, step 5). -/
def rehandle (s : State) (j : Job) (old new : Nat) : State :=
  [j.teacherCtx, j.studentCtx].foldl (fun (s : State) c =>
    let k := s.ctx c
    (List.range k.descCount).foldl (fun (s : State) n =>
      let a := k.descAddr * 8192 + 32 * n
      let l := s.fwRead a 32
      if le l 8 1 = 2 ∧ le l 24 4 = old then s.post (a + 24) (leBytes 4 new) else s) s) s

/-- A channel that has been closed since the checkpoint is opened again from its descriptor, while its slice has room (R44). -/
def reopenClosed (s : State) (old : Nat) (ch : Channel) (seq : Word) : State :=
  match tget s.jobs ch.job, s.chanHandles.take 1024 with
  | some j, some (i, t) =>
    if s.sorusFree j.student ch.placement < ch.total then s
    else
      let s1 := ({ s with chanHandles := t } : State).setChan i { ch with
        state := .opened, slots := ch.slots.map fun _ => SorSlot.reset, fill := 0, nextSeq := seq, skip := 0, drain := false,
        closing := none }
      s1.rehandle j old (s1.chanHandle i)
  | _, _ => s

/-- The channels that a restore reopens: those of the checkpoint, or, on a module that did not take it, those open now. -/
def chansToReopen (s : State) (p : Nat) : List (Nat × Channel) := if s.ckp.chans = [] then s.chanSnapshot p else s.ckp.chans

/-- The job's channels are open again with the SEQ values of the state record, and their teachers stand where the blocks of those
SEQ begin (R44; log entry 156). -/
def replayChans (s : State) (p : Nat) (rec_ : List Byte) : State :=
  let s1 := (s.chansToReopen p).zipIdx.foldl (fun (s : State) x =>
    let seq := BitVec.ofNat 32 (le rec_ (0x80 + 4 * x.2) 4)
    match s.chanOf x.1.1 with
    | some i => s.reopenChan i seq
    | none => s.reopenClosed x.1.1 x.1.2 seq) s
  s1.teachersBack (s1.jobChans p)

/-- Cyclic tables take the positions of the capture gate: from their next frame start they run the slot they held there first
(R330). -/
def replaySched (s : State) (rec_ : List Byte) : State :=
  (List.range 8).foldl (fun (s : State) g =>
    let v := le rec_ (0x30 + 4 * g) 4
    if s.variant.group g then s.setGroup g { s.group g with resume := some (v % 64, v / 64) } else s) s

/-! ### The whole -/

/-- What a restore request fails on before anything is fetched. -/
def restoreRefusal (s : State) (d : List Byte) : Status :=
  let p := s.ptnOf (le d 4 4)
  firstStatus [
    (le d 0 4 != 1, .versionUnsupported),
    (p.isNone || (le d 8 4 != 0 && le d 8 4 != s.ckp.session), .handleStale),
    (p.any fun i => ((tget s.ptns i).map fun x => x.pcList.any fun g => !s.isOpen (sramDomain (g / 64))).getD false, .retryLater),
    (p != s.ckpPtn || s.ckptRuns || s.ckp.replay.isSome || 1 < le d 0x14 4 || slice d 0x18 24 != zeros 24 ||
      (p.any fun i => (s.ckptCtxs i).isEmpty || (s.ckptCtxs i).any fun c =>
        (s.ctx c).state != .ready && (s.ctx c).state != .saved && (s.ctx c).state != .parked), .refusedInfeasible)]

/-- The STEP of a group-wide restore: the highest of which every compute member reports a durable checkpoint (R333). -/
def commonStep (s : State) (reports : List (Nat × List Nat)) : Option Nat :=
  ((reports.flatMap (·.2)).filter fun n => s.computeMembers.all fun m => reports.any fun p => p.1 == m && p.2.contains n).max?

/-- Whether a checkpoint is not the one that a group-wide restore takes: that which the master named, or chooses. -/
def offStep (s : State) (reports : List (Nat × List Nat)) (step : Nat) : Bool :=
  s.net.state != .solo && (match s.net.restoreTo with
    | some n => n != step
    | none => !reports.isEmpty && s.commonStep reports != some step)

/-- The master names the STEP of a group-wide restore to every member (R333, log entry 178); a member has done what it was told. -/
def nameStep (s : State) (reports : List (Nat × List Nat)) (step : Nat) : State :=
  let s1 := s.setNet { s.net with restoreTo := none }
  if s.isMaster && !reports.isEmpty then s1.tell [.restore step] else s1

/-- The request that firmware makes of itself for the protected partition: the latest checkpoint, recomputed to the end (R347). -/
def ownRestore (s : State) : List Byte :=
  leBytes 4 1 ++ leBytes 4 ((s.ckpPtn.map s.ptnHandle).getD 0) ++ zeros 56

/-- RESTORE (Table 12-6) of a request `d`, which stands at `a`. `f` is what the store answered, or, on a member that replaces another,
a live member of its STAGE, whose pages at the step boundary leave nothing to recompute (R333). -/
def restoreOf (s : State) (a : Nat) (d : List Byte) (f : RestoreFetch) : State :=
  let st := s.restoreRefusal d
  let p := (s.ptnOf (le d 4 4)).getD 0
  let mate := f.mate && s.net.state != .solo
  if st ≠ .ok then (if a = ownRestoreAddr then s else s.post (a + 0x30) (leBytes 1 st.code ++ zeros 15))
  else
    let m := f.manifest
    let fail := fun (s : State) (detail : Nat) => (s.undefineRegions p).restoreOver a .digestMismatch detail 0 0 0 0 (some p)
    if manifestSigned m (s.manifestKey m) = false ∨ (le d 0xC 4 ≠ 0 ∧ le d 0xC 4 ≠ le m 4 4) then fail s 1
    else if (List.range (le m 0xC 4)).any fun i =>
        sha384 (f.shards.getD i []) != slice (manifestEntry m i) 0x10 48 then fail s 2
    else
      let part := fun (region : Nat) => (manifestRegion m region).flatMap fun i => f.shards.getD i []
      let rec_ := part 0xFFF0
      if s.offStep f.durable (le rec_ 8 4) then fail s 1 else
      match if mate then some [] else wholeLog f.log (le rec_ 0x18 8) with
      | none => fail s 3
      | some log =>
        -- step 2: region pages; rings, descriptor tables and layer tables
        let s1 := (List.range (le m 0xC 4)).foldl (fun (s : State) i =>
          let e := manifestEntry m i
          if le e 0 2 < 0xFFF0 then s.storeBytes p (p * 2 ^ 48 + le e 4 4 * 65536) (f.shards.getD i []) else s)
          (s.nameStep f.durable (le rec_ 8 4))
        let cs := s1.ckptCtxs p
        let s2 := (s1.putSpans p (s1.ringSpans cs) (part 0xFFF1)).putSpans p (s1.tableSpans cs) (part 0xFFF2)
        -- step 3: the log
        let s3 := if mate then s2 else s2.setCkp { s2.ckp with
          lsn := BitVec.ofNat 64 (le rec_ 0x18 8 + log.length), flushed := BitVec.ofNat 64 (le rec_ 0x18 8 + log.length)
          ident := Nat.max s2.ckp.ident (le rec_ 4 4) }
        let s4 := if s3.logRing = 0 then s3 else log.foldl (fun (s : State) l => s.logStore p l) s3
        -- step 4: contexts, tables
        let s5 := cs.zipIdx.foldl (fun (s : State) x =>
          let first := le rec_ (0x200 + 64 * x.2 + 8) 4
          let n := Context.imageNeed (s.ctx x.1).quads (s.ctx x.1).scrCount
          let img := ((List.range (ceilDiv n shardPages)).flatMap fun i => f.shards.getD (first + i) [])
          (s.restoreCtx x.1 img rec_).takeStudent x.1 (le rec_ (0x200 + 64 * x.2) 4)) s4
        let s6 := ((s5.replaySched rec_).replayStreams p rec_).replayChans p rec_
        -- step 5: counters
        let s7 := cs.zipIdx.foldl (fun (s : State) x => s.realignCtx x.1 (slice rec_ (0x200 + 64 * x.2) 64)) s6
        -- step 6: recompute
        let step := le rec_ 8 4
        let last := ((log.filter fun l => le l 0 1 == 2).getLast?.map fun l => le l 0x10 4)
        let goal := match last with
          | some n => if le d 0x10 4 = 0 then some n else some (Nat.min n (le d 0x10 4))
          | none => none
        match goal with
        | some n =>
          if le d 0x14 4 = 1 ∨ n < step then s7.restoreOver a .ok 0 step 0 (le m 4 4) 0 (some p)
          else s7.setCkp { s7.ckp with replay := some { addr := a, ident := le m 4 4, log := log, target := n, steps := 0 } }
        | none => s7.restoreOver a .ok 0 step 0 (le m 4 4) 0 (some p)

/-- RESTORE: a request at `a`; where there is none, after a package warm reset, firmware's own (R347), which waits for the partition's
contexts. -/
def restore (s : State) (a : Nat) (f : RestoreFetch) : State :=
  let s1 := s.setCkp { s.ckp with restoreDue := false }
  if a % 64 = 0 ∧ s.requestOk a 64 = true then
    (if s.restoreRefusal (s.fwRead a 64) = .ok then s1 else s).restoreOf a (s.fwRead a 64) f
  else if s.ckp.restoreDue = true ∧ s.restoreRefusal s.ownRestore = .ok then s1.restoreOf ownRestoreAddr s.ownRestore f
  else s

end State

/-- RESTORE (R330). -/
def execRestore (addr : Nat) (fetched : RestoreFetch) (s : State) : Host.Outcome State Fault Refusal :=
  act s fun s => s.restore addr fetched

end Sys2Proof.Machine
end

