-- ==== Sys2Proof/Machine/RegRead.lean ====
section
/-! DEFINITION. The register window (Register Summary): which register stands at an offset, which domain holds it, and
what it reads. -/

namespace Sys2Proof.Machine

/-- The registers of Tables 17-4 to 17-12, with the index that their offset gives. `ev` and `evEn` are the event registers
and their enables, by the bit of `GLB_INT_PEND`; array, quadrant and stack numbers are those of the whole device. -/
inductive Reg where
  | ev (e : Nat) | evEn (e : Nat)
  | glbId | glbCap0 | glbCap1 | glbIntPend | glbQrate (k : Nat) | glbRateWin | glbRzLink (l : Nat) | glbLtimeSel | glbLtime
  | ctxDb (n : Nat) | numSel | numCfg | numSeed | numLtab | numStat | qSel | qRing | qCring | qPtr | qCptr | qStat | qCtl
  | ctxDesc | ctxSync (n : Nat) | qPayload | qQuads
  | ptnReq | ptnSel | ptnStat | ptnRes | schedBase (g : Nat) | schedStat (g : Nat) | schedCfg | ptnArbCfg | ptnStarve
  | ptnCtxStat (c : Nat)
  | arrQcnt (k c : Nat) | arrEcc (k : Nat) | arrOvf (k : Nat) | arrStat (a : Nat)
  | sorReq | sorSel | sorState | sorWait
  | dmaStat (e : Nat) | dmaArbCfg | dmaStarve
  | hbmStat (k : Nat) | hbmOwn (k i : Nat) | hbmEcc (k : Nat) | hbmArbCfg (k : Nat) | hbmStarve (k : Nat) | hbmWays (k p : Nat)
  | attrReq | attrSel | attr
  | medReq | medSel | medState | medCursor | medWin | medCnt | medSkip | medEng (e : Nat)
  | srvReq | srvSubmit (i : Nat) | srvStat (i : Nat) | srvPerf (i : Nat) | srvUnits (i : Nat) | srvLat (i : Nat) | rqSel
  | rqStat
  | netGroup | netGen | netPcp | netPort (p : Nat) | mbrSel | mbrStat | crSel | crRing | crPtr | crTag
  | ckpReq | ckpCfg | ckpReserve | ckpLog | ckpLogPtr | ckpRegions | ckpStat | ckpProgress | ckpDurable | ckpMirror
  | ckpSession | ckpStore | ckpStoreRange
  | fltStat | fltWin (c : Nat) | fltDom (d : Nat) | fltRecSel | fltRec (i : Nat) | fltLogPtr | fltResetReq | fltDumpCfg
  | fltDumpReq | fltDumpStat | fltDumpDest | fltStale (n : Nat) | fltRetire
  | pwrCap | pwrStat | pwrOp (g : Nat) | pwrTherm | pwrValve | pwrDomReq | pwrDomResult | pwrCfg | pwrWear | pwrDom (d : Nat)
  | pwrStress (d : Nat)
  | plkStat | plkVer | plkErr | plkReject | plkMemReject | plkIntr | plkTcorr | plkRd | plkCtl
  | secFuse | secSerial | secIdent (i : Nat) | secEndorse (i : Nat) | secAtt
  | bootStat | bootLock | bootTime | updReq | updStat | bootImg (c : Nat)
  deriving DecidableEq, Repr

/-- A row of a register index: offset, stride, count, whether 64 bits wide, and the register of an index. -/
structure RegRow where
  off : Nat
  stride : Nat
  count : Nat
  wide : Bool
  reg : Nat → Reg

/-- One register at an offset. -/
def one (off : Nat) (wide : Bool) (r : Reg) : RegRow := { off := off, stride := 8, count := 1, wide := wide, reg := fun _ => r }

/-- A run of registers. -/
def run (off stride count : Nat) (wide : Bool) (r : Nat → Reg) : RegRow :=
  { off := off, stride := stride, count := count, wide := wide, reg := r }

/-- Table 17-4. -/
def glbRows : List RegRow :=
  [one 0x0000 true .glbId, one 0x0008 true .glbCap0, one 0x0010 true .glbCap1, one 0x0018 true .glbIntPend,
    run 0x0800 8 32 true .glbQrate, one 0x0900 false .glbRateWin, run 0x0A00 8 22 true .glbRzLink, one 0x0B00 false (.ev 0),
    one 0x0B04 false (.evEn 0), one 0x0C00 false .glbLtimeSel, one 0x0C08 true .glbLtime]

/-- Table 17-5. -/
def ctxRows : List RegRow :=
  [run 0x0000 8 2048 true .ctxDb, one 0xE000 false .numSel, one 0xE008 true .numCfg, one 0xE010 true .numSeed,
    one 0xE018 true .numLtab, one 0xE020 true .numStat, one 0xE028 false (.ev 2), one 0xE02C false (.evEn 2),
    one 0xE100 true .qSel, one 0xE108 true .qRing, one 0xE110 true .qCring, one 0xE118 true .qPtr, one 0xE120 true .qCptr,
    one 0xE128 true .qStat, one 0xE130 true .qCtl, one 0xE138 true .ctxDesc, run 0xE140 4 8 false .ctxSync,
    one 0xE160 false (.ev 3), one 0xE164 false (.evEn 3), one 0xE168 false .qPayload, one 0xE170 true .qQuads]

/-- Table 17-6. -/
def ptnRows : List RegRow :=
  [one 0x0000 true .ptnReq, one 0x0010 true .ptnSel, one 0x0018 true .ptnStat, one 0x0020 true .ptnRes,
    run 0x0100 8 8 true .schedBase, run 0x0140 8 8 true .schedStat, one 0x0180 true .schedCfg, one 0x0200 false .ptnArbCfg,
    one 0x0208 true .ptnStarve, one 0x0300 false (.ev 6), one 0x0304 false (.evEn 6), run 0x1000 8 512 true .ptnCtxStat]

/-- Table 17-7, for group `g`. -/
def arrRows (g : Nat) : List RegRow :=
  [run 0x0000 0x10 4 false fun q => .ev (16 + 4 * g + q), run 0x0004 0x10 4 false fun q => .evEn (16 + 4 * g + q),
    run 0x0100 8 16 true fun i => .arrQcnt (4 * g + i / 4) (i % 4), run 0x0200 8 4 true fun q => .arrEcc (4 * g + q),
    run 0x0220 8 4 true fun q => .arrOvf (4 * g + q), run 0x1000 8 512 true fun n => .arrStat (512 * g + n)]

/-- Table 17-8, the SOR block. -/
def sorRows : List RegRow :=
  [one 0x0000 true .sorReq, one 0x0010 false .sorSel, one 0x0018 true .sorState, one 0x0020 true .sorWait,
    one 0x0030 false (.ev 1), one 0x0034 false (.evEn 1)]

/-- Table 17-8, the DMA block. -/
def dmaRows : List RegRow :=
  [run 0x0000 8 16 true .dmaStat, one 0x0100 false .dmaArbCfg, one 0x0108 true .dmaStarve, one 0x0110 false (.ev 4),
    one 0x0114 false (.evEn 4)]

/-- Table 17-8, the block of stack `k`. -/
def hbmRows (k : Nat) : List RegRow :=
  [one 0x0000 true (.hbmStat k), run 0x0010 8 4 true (.hbmOwn k), one 0x0040 true (.hbmEcc k), one 0x0048 false (.ev (48 + k)),
    one 0x004C false (.evEn (48 + k)), one 0x0050 false (.hbmArbCfg k), one 0x0058 true (.hbmStarve k),
    run 0x0100 4 32 false (.hbmWays k)] ++
  if k = 0 then [one 0xF000 true .attrReq, one 0xF008 true .attrSel, one 0xF010 false .attr] else []

/-- Table 17-9, the MED block. -/
def medRows : List RegRow :=
  [one 0x0000 true .medReq, one 0x0010 false .medSel, one 0x0018 true .medState, one 0x0020 true .medCursor,
    one 0x0028 true .medWin, one 0x0030 true .medCnt, one 0x0038 true .medSkip, one 0x0040 false (.ev 5),
    one 0x0044 false (.evEn 5), run 0x0100 8 24 true .medEng]

/-- Table 17-9, the SRV block. -/
def srvRows : List RegRow :=
  [one 0x0000 true .srvReq, run 0x0100 8 16 true .srvSubmit, run 0x0200 8 16 true .srvStat, run 0x0280 8 16 true .srvPerf,
    run 0x0300 8 16 true .srvUnits, run 0x0380 8 16 true .srvLat, one 0x0400 false .rqSel, one 0x0408 true .rqStat,
    one 0x0500 false (.ev 7), one 0x0504 false (.evEn 7)]

/-- Table 17-10, the NET block. -/
def netRows : List RegRow :=
  [one 0x0000 true .netGroup, one 0x0008 true .netGen, one 0x0010 false .netPcp, run 0x0100 8 8 true .netPort,
    one 0x0180 false .mbrSel, one 0x0188 true .mbrStat, one 0x0200 false .crSel, one 0x0208 true .crRing,
    one 0x0210 true .crPtr, one 0x0218 false .crTag, one 0x0300 false (.ev 8), one 0x0304 false (.evEn 8)]

/-- Table 17-10, the CKP block. -/
def ckpRows : List RegRow :=
  [one 0x0000 true .ckpReq, one 0x0010 true .ckpCfg, one 0x0018 true .ckpReserve, one 0x0020 true .ckpLog,
    one 0x0028 true .ckpLogPtr, one 0x0030 true .ckpRegions, one 0x0038 true .ckpStat, one 0x0040 true .ckpProgress,
    one 0x0048 true .ckpDurable, one 0x0050 true .ckpMirror, one 0x0058 false .ckpSession, one 0x0060 true .ckpStore,
    one 0x0068 true .ckpStoreRange, one 0x0070 false (.ev 9), one 0x0074 false (.evEn 9)]

/-- Table 17-11, the FLT block. -/
def fltRows : List RegRow :=
  [one 0x0000 true .fltStat, run 0x0010 4 6 false .fltWin, run 0x0100 8 80 true .fltDom, one 0x0400 false .fltRecSel,
    run 0x0408 8 8 true .fltRec, one 0x0448 true .fltLogPtr, one 0x0500 true .fltResetReq, one 0x0600 false .fltDumpCfg,
    one 0x0608 true .fltDumpReq, one 0x0610 true .fltDumpStat, one 0x0618 true .fltDumpDest, run 0x0700 8 12 true .fltStale,
    one 0x0800 true .fltRetire, one 0x0900 false (.ev 10), one 0x0904 false (.evEn 10)]

/-- Table 17-11, the PWR block. -/
def pwrRows : List RegRow :=
  [one 0x0000 false .pwrCap, one 0x0008 true .pwrStat, run 0x0010 8 8 false .pwrOp, one 0x0050 true .pwrTherm,
    one 0x0058 true .pwrValve, one 0x0060 false .pwrDomReq, one 0x0064 false .pwrDomResult, one 0x0068 false .pwrCfg,
    one 0x0070 false .pwrWear, one 0x0078 false (.ev 11), one 0x007C false (.evEn 11), run 0x0100 8 80 true .pwrDom,
    run 0x0400 8 80 true .pwrStress]

/-- Table 17-12, the PLK block. -/
def plkRows : List RegRow :=
  [one 0x0000 true .plkStat, one 0x0008 false .plkVer, one 0x0010 true .plkErr, one 0x0018 true .plkReject,
    one 0x0020 true .plkMemReject, one 0x0028 false .plkIntr, one 0x0030 true .plkTcorr, one 0x0038 false (.ev 12),
    one 0x003C false (.evEn 12), one 0x0040 false .plkRd, one 0x0048 false .plkCtl]

/-- Table 17-12, the SEC block. -/
def secRows : List RegRow :=
  [one 0x0000 true .secFuse, one 0x0008 true .secSerial, run 0x0010 8 6 true .secIdent, run 0x0100 8 26 true .secEndorse,
    one 0x0200 true .secAtt, one 0x0208 false (.ev 14), one 0x020C false (.evEn 14)]

/-- Table 17-12, the BOOT block. -/
def bootRows : List RegRow :=
  [one 0x0000 true .bootStat, one 0x0008 false .bootLock, one 0x0010 true .bootTime, one 0x0100 true .updReq,
    one 0x0108 true .updStat, run 0x0200 8 13 true .bootImg, one 0x0300 false (.ev 13), one 0x0304 false (.evEn 13)]

/-- The block at a window offset: its registers and the offset in it (Table 17-1). -/
def blockAt (off : Nat) : List RegRow × Nat :=
  let m := off / 0x100000
  let r := off % 0x100000
  if m = 0 then (glbRows, r)
  else if m = 1 then (ctxRows, r)
  else if m = 2 then (ptnRows, r)
  else if 0x10 ≤ m ∧ m < 0x18 then (arrRows (m - 0x10), r)
  else if m = 0x20 then (sorRows, r)
  else if m = 0x21 then (dmaRows, r)
  else if m = 0x30 then (hbmRows (r / 0x10000), r % 0x10000)
  else if m = 0x40 then (medRows, r)
  else if m = 0x50 then (srvRows, r)
  else if m = 0x60 then (netRows, r)
  else if m = 0x70 then (ckpRows, r)
  else if m = 0x80 then (fltRows, r)
  else if m = 0x90 then (pwrRows, r)
  else if m = 0xA0 then (plkRows, r)
  else if m = 0xB0 then (secRows, r)
  else if m = 0xC0 then (bootRows, r)
  else ([], r)

/-- Whether a row has a register at an offset. -/
def RegRow.hit (x : RegRow) (off : Nat) : Bool :=
  decide (x.off ≤ off) && (off - x.off) % x.stride == 0 && decide ((off - x.off) / x.stride < x.count)

/-- The register that begins at a window offset, and whether it is 64 bits wide. -/
def regAt (off : Nat) : Option (Reg × Bool) :=
  let b := blockAt off
  (b.1.find? fun x => x.hit b.2).map fun x => (x.reg ((b.2 - x.off) / x.stride), x.wide)

/-- Whether an offset lies in the block of an absent unit: an ARR, HBM, MED or SRV block (R3, R413). -/
def blockAbsent (v : Variant) (off : Nat) : Bool :=
  let m := off / 0x100000
  if 0x10 ≤ m ∧ m < 0x18 then !v.group (m - 0x10)
  else if m = 0x30 then !v.stack (off % 0x100000 / 0x10000)
  else if m = 0x40 then !v.media 0
  else if m = 0x50 then !v.serving
  else false

/-- Whether a register reports or addresses an absent unit, in whatever block it stands (R3). -/
def regAbsent (v : Variant) : Reg → Bool
  | .glbQrate k => !v.quad k
  | .glbRzLink l => !v.link l
  | .schedBase g | .schedStat g | .pwrOp g => !v.group g
  | .dmaStat e => !v.group (e / 2)
  | .medEng e => !v.engine e
  | .fltDom d | .pwrDom d | .pwrStress d => !v.domain d
  | .fltStale n => !v.die n
  | .bootImg c => !v.core c
  | .arrQcnt k _ | .arrEcc k | .arrOvf k => !v.quad k
  | .arrStat a => !v.quad (a / 128)
  | .hbmStat k | .hbmOwn k _ | .hbmEcc k | .hbmArbCfg k | .hbmStarve k | .hbmWays k _ => !v.stack k
  | .ev e | .evEn e => if e < 16 then false else if e < 48 then !v.quad (e - 16) else !v.stack (e - 48)
  | _ => false

/-- What a register of an absent unit reads: its ABSENT encoding, if it has one (R3). -/
def absentValue : Reg → Nat
  | .arrStat _ => 6
  | .hbmStat _ | .dmaStat _ | .medEng _ | .glbRzLink _ | .pwrDom _ => 3
  | .fltDom _ => 5
  | _ => 0

/-- The code of a context state (Table 9-6). -/
def CtxState.code : CtxState → Nat
  | .free => 0
  | .ready => 1
  | .running => 2
  | .saving => 3
  | .saved => 4
  | .restoring => 5
  | .parked => 6
  | .teardown => 7

/-- The code of a channel state (`SOR_CH_STATE`). -/
def ChanState.code : ChanState → Nat
  | .closed => 0
  | .opened => 1
  | .closing => 2
  | .migrating => 3
  | .faulted => 4

/-- The code of a slot state (`ARR_STAT.SLOT`). -/
def SlotState.code : SlotState → Nat
  | .free => 0
  | .held => 1
  | .draining => 2

/-- The code of a stream state (Table 8-11). -/
def StreamState.code : StreamState → Nat
  | .closed => 0
  | .running => 1
  | .paused => 2
  | .stalled => 3
  | .done => 4
  | .faulted => 5

/-- The code of a request state (Table 10-4). -/
def ReqState.code : ReqState → Nat
  | .free => 0
  | .queued => 1
  | .prefill => 2
  | .decode => 3
  | .held => 4
  | .preempted => 5

/-- The code of a group state (`NET_GROUP_STAT.STATE`). -/
def GroupState.code : GroupState → Nat
  | .solo => 0
  | .forming => 1
  | .running => 2
  | .paused => 3
  | .failover => 4
  | .halted => 5

/-- The code of a checkpoint state (`CKP_STAT.STATE`). -/
def CkptState.code : CkptState → Nat
  | .none => 0
  | .capturing => 1
  | .streaming => 2
  | .sealing => 3
  | .durable => 4
  | .correlated => 5
  | .abandoned => 6
  | .failed => 7

/-- The code of a mirror session's state (`CKP_MIRROR.STATE`). -/
def MirrorState.code : MirrorState → Nat
  | .none => 0
  | .handshake => 1
  | .active => 2
  | .correlated => 3
  | .lost => 4

/-- The code of an update's state (`BOOT_UPD_STAT.STATE`). -/
def UpdState.code : UpdState → Nat
  | .idle => 0
  | .verifying => 1
  | .deferred => 2
  | .applying => 3
  | .persisting => 4
  | .committing => 5

/-- The code of a link's state (`GLB_RZ_LINK.STATE`). -/
def LinkState.code : LinkState → Nat
  | .up => 0
  | .retrain => 1
  | .down => 2

/-- The code of a stack's state (`HBM_STAT.STATE`). -/
def StackState.code : StackState → Nat
  | .active => 0
  | .selfRefresh => 1
  | .training => 2

/-- The code of Puchlink's state (`PLK_STAT.STATE`). -/
def LinkUpState.code : LinkUpState → Nat
  | .down => 0
  | .training => 1
  | .active => 2
  | .retrain => 3

/-- The code of a domain's power (`PWR_DOM_STAT.POWER`). -/
def Power.code : Power → Nat
  | .off => 0
  | .on => 1
  | .ramp => 2

namespace State

/-! ### What the selectors name -/

def selNum (s : State) : Option Nat := s.ctxOf s.sel.numCtx
def selQ (s : State) : Option Nat := s.ctxOf s.sel.qCtx
def selCr (s : State) : Option Nat := s.ctxOf s.net.crSel
def selChan (s : State) : Option (Nat × Channel) := (s.chanOf s.sel.sorCh).bind fun i => (tget s.channels i).map fun c => (i, c)
def selStream (s : State) : Option (Nat × Stream) := (s.streamOf s.sel.stream).bind fun i => (tget s.streams i).map fun x => (i, x)
def selPtn (s : State) : Option (Nat × Partition) := (s.ptnOf s.sel.ptnHandle).bind fun i => (tget s.ptns i).map fun x => (i, x)
def selReq (s : State) : Option (Nat × Request) := (s.reqOf s.sel.request).bind fun i => (tget s.requests i).map fun x => (i, x)

/-- The pseudo-channel and frame that `HBM_ATTR_SEL` names. -/
def selPage (s : State) : Option (Nat × Nat) :=
  (tget s.ptns s.sel.attrPtn).bind fun p => p.locate s.sel.attrPage

/-- The domain of a time source (R64). -/
def sourceDomain (src : Nat) : Nat := if src < 80 then src else coreDomain (src - 80)

/-- Whether a time source is of this variant. -/
def sourcePresent (s : State) (src : Nat) : Bool := if src < 80 then s.variant.domain src else s.variant.core (src - 80)

/-- The local time of a source. -/
def sourceTime (s : State) (src : Nat) : DWord := if src < 80 then (s.dom src).time else (s.core (src - 80)).time

/-! ### Holding domains (R414, Table 17-1) -/

/-- The domain that holds a register at this moment. -/
def holder (s : State) : Reg → Nat
  | .ev e | .evEn e => eventDomain e
  | .glbQrate k => quadDomain k
  | .glbRzLink l => dieDomain (linkEnds l).1
  | .glbLtime => sourceDomain s.sel.ltimeSource
  | .ctxDb n => if s.ctxLive (n / 4) then fabricDomain (s.queueDie (n / 4) (n % 4)) else 78
  | .qPtr | .qCptr | .qStat | .qCtl =>
    match s.selQ with
    | some c => fabricDomain (s.queueDie c (s.sel.qQueue % 4))
    | none => 78
  | .arrQcnt k _ | .arrEcc k | .arrOvf k => quadDomain k
  | .arrStat a => quadDomain (a / 128)
  | .sorState | .sorWait =>
    match s.selChan with
    | some (_, c) => sramDomain c.placement
    | none => 78
  | .dmaStat e => fabricDomain (e / 2)
  | .hbmStat k | .hbmOwn k _ | .hbmEcc k | .hbmArbCfg k | .hbmStarve k => stackDomain k
  | .hbmWays k _ => sramDomain (k / 2)
  | .attr =>
    match s.selPage with
    | some (g, _) => sramDomain (g / 64)
    | none => stackDomain 0
  | .medReq | .medSel | .medState | .medCursor | .medWin | .medCnt | .medSkip => 72
  | .medEng e => if e < 12 then 73 else 75
  | .srvReq | .srvSubmit _ | .srvStat _ | .srvPerf _ | .srvUnits _ | .srvLat _ | .rqSel | .rqStat => 77
  | .netGroup | .netGen | .netPcp | .netPort _ | .mbrSel | .mbrStat | .crSel | .crRing | .crPtr | .crTag => 76
  | .plkStat | .plkVer | .plkErr | .plkReject | .plkMemReject | .plkIntr | .plkTcorr | .plkRd | .plkCtl => 77
  | .secFuse | .secSerial | .secIdent _ | .secEndorse _ | .secAtt => 77
  | _ => 78

/-! ### What registers read -/

/-- The element-wise, reduce or top-K command that waits under R78 on an array with nothing bound: its context, and why. -/
def edgeWaiter (s : State) (a : Nat) : Option (Nat × Nat) :=
  (s.quad (a / 128)).holder.bind fun c => (List.range 4).findSome? fun q =>
    ((s.queue c q).cmds.find? fun y => y.waits != 0 && y.result.isNone && !y.final && (s.edgeArrays (atCmd c q y)).contains a).map
      fun y => (c, y.waits)

/-- STATE of an array (Table 3-6) and the reasons of a wait. -/
def arrayState (s : State) (a : Nat) : Nat × Nat :=
  let y := s.arr a
  let moving := fun c => (s.ctx c).state == .saving || (s.ctx c).state == .restoring
  if y.retired then (5, 0)
  else if !s.isOpen (quadDomain (a / 128)) then (4, 0)
  else match y.bound with
    | [] =>
      if (y.drains.any fun d => moving d.ctx) || (s.quad (a / 128)).holder.any moving then (4, 0)
      else match s.edgeWaiter a with
        | some (_, w) => (1, 8 * b2n (bitAt w 0) + 32 * b2n (bitAt w 1) + 64 * b2n (bitAt w 2))
        | none => (if y.drains.isEmpty then 0 else 3, 0)
    | ins :: _ =>
      if moving ins.ctx then (4, 0)
      else match s.atOf ins.ctx ins.q ins.idx with
        | none => (1, 0)
        | some x =>
          let w := s.headWaits x a ins
          if w.1 || w.2.1 || w.2.2 then (1, 8 * b2n w.1 + 16 * b2n w.2.1 + 32 * b2n w.2.2) else (2, 0)

/-- `ARR_STAT` of an array. -/
def readArrStat (s : State) (a : Nat) : Nat :=
  let y := s.arr a
  let st := s.arrayState a
  let owner := (y.bound.head?.map (·.ctx)).or ((s.edgeWaiter a).map (·.1))
  pack [(0, st.1), (8, y.lastStatus.code), (16, owner.getD 0), (25, b2n owner.isSome), (26, y.lastRetries % 4),
    (28, b2n y.ceFlag), (29, b2n y.ueFlag), (40, fld y.lastDone.toNat 33 10)] + st.2 +
  ((List.range 4).map fun k => ((y.slots.getD k AccSlot.reset).state.code) * 2 ^ (32 + 2 * k)).sum

/-- STATE of a queue as the host sees it: PARKED while its context is parked or preempted (Table 6-1). -/
def queueShown (s : State) (c q : Nat) : Nat :=
  let x := s.queue c q
  if [CtxState.saving, .saved, .restoring, .parked].contains (s.ctx c).state && x.state != .idle && x.state != .halted then 4 else queueCode x.state

/-- Slots of a stream written and not yet released by every consumer: the fullest consumer's count. -/
def streamFull (s : State) (st : Stream) : Nat :=
  ((consumersOf st).map fun h =>
    ((s.ctxOf h.1).map fun c => (st.nextSeq - (s.ctx c).sync.getD h.2.2 0).toNat).getD 0).foldl Nat.max 0

/-- Bits of `NET_GROUP_STAT.ROLE` for a member. -/
def roleOf (s : State) (m : Nat) : Nat :=
  if m = s.net.master then 1 else if m = s.net.deputy then 2 else if (s.member m).any fun x => x.role == 2 then 3 else 0

/-- `SRV_RQ_STAT.DEADLINE_LEFT`: ms to the deadline. -/
def deadlineLeft (s : State) (r : Request) : Nat :=
  Nat.min 0xFFFFF ((r.deadline * 1000 - (s.srvTime - r.admitted).toNat) / 1000000)

/-- The highest escalation level in progress and the domains FENCED or RESETTING. -/
def recovering (s : State) : Nat × Nat :=
  let l := s.variant.domainList.filter fun d => (s.dom d).state == .fenced || (s.dom d).state == .resetting
  ((l.map fun d => (s.dom d).level).foldl Nat.max 0, l.length)

/-- What a register of a present unit reads. -/
def readReg (s : State) : Reg → Nat
  | .ev e => (s.ev e).value
  | .evEn e => (s.ev e).enable
  | .glbId => 0x4E52 + 0x0D30 * 2 ^ 16 + 2 ^ 32
  | .glbCap0 => cap0 s.variant
  | .glbCap1 => cap1 s.variant
  | .glbIntPend => maskOf (((List.range 64).filter fun e => e != 15 && (s.ev e).pending))
  | .glbQrate k =>
    let x := s.quad k
    pack [(0, x.rate), (16, x.busy), (26, x.op), (28, b2n x.valid), (29, 1), (32, x.tj), (40, x.winEnd)]
  | .glbRateWin => s.sel.rateWin
  | .glbRzLink l =>
    let x := s.rzLink l
    pack [(0, x.state.code), (8, x.replays), (24, x.retrains), (32, x.low.util), (42, x.high.util)]
  | .glbLtimeSel => s.sel.ltimeSource + 2 ^ 16 * s.sel.ltimeEpoch
  | .glbLtime =>
    let d := sourceDomain s.sel.ltimeSource
    if s.sourcePresent s.sel.ltimeSource = true ∧ (s.dom d).power ≠ .off ∧ (s.dom d).state ≠ .off then
      (s.sourceTime s.sel.ltimeSource).toNat
    else 0
  | .ctxDb _ | .qCtl | .ptnReq | .sorReq | .attrReq | .medReq | .srvReq | .srvSubmit _ | .ckpReq | .fltResetReq
  | .fltDumpReq | .pwrDomReq | .plkCtl | .secAtt | .updReq => 0
  | .numSel => s.sel.numCtx
  | .numCfg => (s.selNum.map fun c => let k := s.ctx c; pack [(0, b2n k.tx2), (4, k.escHold), (16, k.lrRecover)]).getD 0
  | .numSeed => (s.selNum.map fun c => (s.ctx c).seed.toNat).getD 0
  | .numLtab => (s.selNum.map fun c => pack [(0, (s.ctx c).ltabCount), (12, (s.ctx c).ltabAddr)]).getD 0
  | .numStat =>
    (s.selNum.map fun c => let k := s.ctx c; pack [(0, k.lrH), (16, k.clean), (32, k.escalations), (48, k.skipped)]).getD 0
  | .qSel => s.sel.qCtx + 2 ^ 32 * s.sel.qQueue
  | .qRing => (s.selQueue.map fun p => let x := s.queue p.1 p.2; pack [(0, x.ringLog2), (12, x.ringAddr)]).getD 0
  | .qCring => (s.selQueue.map fun p => let x := s.queue p.1 p.2; pack [(0, x.cringLog2), (12, x.cringAddr)]).getD 0
  | .qPtr => (s.selQueue.map fun p => let x := s.queue p.1 p.2; pack [(0, x.done.toNat), (32, x.head.toNat)]).getD 0
  | .qCptr => (s.selQueue.map fun p => let x := s.queue p.1 p.2; pack [(0, x.chead.toNat), (32, x.ctail.toNat)]).getD 0
  | .qStat =>
    (s.selQueue.map fun p =>
      let x := s.queue p.1 p.2
      pack [(0, s.queueShown p.1 p.2), (8, x.lastStatus.code), (16, outstanding x), (24, x.window), (32, x.reissues)]).getD 0
  | .ctxDesc => (s.selQ.map fun c => pack [(0, (s.ctx c).descCount), (13, (s.ctx c).descAddr)]).getD 0
  | .ctxSync n => (s.selQ.map fun c => ((s.ctx c).sync.getD n 0).toNat).getD 0
  | .qPayload => s.sel.payload
  | .qQuads => (s.selQueue.map fun p => (s.queue p.1 p.2).quads).getD 0
  | .ptnSel => s.sel.ptnHandle + 2 ^ 32 * s.sel.ptnDie
  | .ptnStat =>
    (s.selPtn.map fun p =>
      pack [(0, p.2.quads), (32, p.1), (37, 1), (38, b2n p.2.restriping),
        (40, (s.contexts.filter fun k => k.2.state != .free && k.2.ptn == p.1).length)]).getD 0
  | .ptnRes =>
    (s.selPtn.map fun p => let n := s.sel.ptnDie
      pack [(0, p.2.ways.getD n 0), (16, p.2.scratch.getD n 0), (32, p.2.sorus.getD n 0)]).getD 0
  | .schedBase g => b2n (s.group g).schedEnable + 2 ^ 10 * (s.group g).schedAddr
  | .schedStat g =>
    let x := s.group g
    pack [(0, x.slot), (6, b2n x.active), (7, b2n x.refused), (8, x.frames), (32, x.lateStarts), (48, x.worstLate)]
  | .schedCfg => s.sel.schedMargin + 2 ^ 16 * s.sel.beSlice
  | .ptnArbCfg => s.sel.ptnArbCfg
  | .ptnStarve => s.sel.ptnStarve
  | .ptnCtxStat c =>
    let k := s.ctx c
    if k.state = .free then 0
    else
      let held := maskOf ((List.range 32).filter fun i => (s.quad i).holder == some c)
      pack [(0, k.state.code), (3, b2n k.critical), (4, b2n k.tx2), (5, k.ptn), (10, k.lastReason), (16, k.preemptions),
        (32, held)]
  | .arrQcnt k c =>
    let x := s.quad k
    if c = 0 then x.issueWaves.toNat else if c = 1 then x.waitOperand.toNat else if c = 2 then x.waitSpace.toNat
    else x.edgeWaves.toNat
  | .arrEcc k => (s.quad k).ce + 2 ^ 32 * (s.quad k).ue
  | .arrOvf k => let x := s.quad k; pack [(0, x.ovfRetries), (32, x.overflows), (48, x.maxTag)]
  | .arrStat a => s.readArrStat a
  | .sorSel => s.sel.sorCh
  | .sorState =>
    (s.selChan.map fun p =>
      let c := p.2
      pack [(0, c.state.code), (3, b2n c.feature), (4, c.slots.length), (9, c.count .free), (14, c.count .full),
        (19, b2n (0 < c.count .filling : Bool)), (20, b2n (0 < c.count .consuming : Bool)), (21, c.placement), (24, c.job),
        (32, c.nextSeq.toNat)]).getD 0
  | .sorWait =>
    (s.selChan.map fun p =>
      pack [(0, satAdd 24 p.2.teacherWait (s.chanWaiting p.1 p.2 true)), (24, p.2.teacherParks),
        (32, satAdd 24 p.2.studentWait (s.chanWaiting p.1 p.2 false)), (56, p.2.studentParks)]).getD 0
  | .dmaStat e =>
    let x := s.dmaE e
    if !s.isOpen (fabricDomain (e / 2)) then 2
    else if x.busy then pack [(0, 1), (2, x.ctx), (11, x.q), (13, 1), (16, x.bytes % 2 ^ 48)] else 0
  | .dmaArbCfg => s.sel.dmaThreshold
  | .dmaStarve => s.sel.dmaStarve
  | .hbmStat k => let x := s.stack k; pack [(0, x.state.code), (2, x.temp), (16, x.retired)]
  | .hbmOwn k i =>
    ((List.range 8).map fun j =>
      match s.ptns.find? fun p => bitAt p.2.pcs (32 * k + 8 * i + j) with
      | some p => (p.1 + 32) * 2 ^ (8 * j)
      | none => 0).sum
  | .hbmEcc k => let x := s.stack k; pack [(0, x.ce), (32, x.ue), (48, x.retireAt)]
  | .hbmArbCfg k => (s.stack k).threshold
  | .hbmStarve k => (s.stack k).starve
  | .hbmWays k p =>
    if k % 2 = 1 then 0
    else
      s.wayMask (k / 2) p + 2 ^ 16 * b2n (bitAt (s.stack k).allocRd p) +
        2 ^ 17 * b2n (bitAt (s.stack k).allocWr p)
  | .attrSel => s.sel.attrPage + 2 ^ 32 * s.sel.attrPtn
  | .attr => (s.selPage.map fun p => pack [(0, s.attr (frameNo p.1 p.2)), (8, p.1), (18, 1)]).getD 0
  | .medSel => s.sel.stream
  | .medState => (s.selStream.map fun p => pack [(0, p.2.state.code), (8, Nat.min 127 (s.streamFull p.2)), (32, p.2.nextSeq.toNat)]).getD 0
  | .medCursor => (s.selStream.map fun p => p.2.nextCursor).getD 0
  | .medWin =>
    (s.selStream.map fun p => pack [(0, ceilDiv (p.2.window.map (·.bytes)).sum 65536), (32, p.2.window.length)]).getD 0
  | .medCnt => (s.selStream.map fun p => pack [(0, p.2.skipped), (24, p.2.dropped), (48, p.2.rereads)]).getD 0
  | .medSkip => (s.selStream.map fun p => pack [(0, p.2.skipHead.toNat), (32, p.2.skipTail.toNat)]).getD 0
  | .medEng e =>
    let x := s.engine e
    if !s.isOpen (if e < 12 then 73 else 75) then 2
    else pack [(0, b2n x.busy), (2, x.codec), (4, x.stream), (16, x.position % 2 ^ 40), (56, x.epoch % 256)]
  | .srvStat i =>
    match tget s.instances i with
    | none => 0
    | some x =>
      let rs := (s.reqsOf i).filterMap fun k => tget s.requests k
      let up := s.ctxLive x.target && (x.draft.all fun c => s.ctxLive c)
      pack [(0, if up then 1 else 2), (8, rs.length), (22, (rs.filter fun r => r.state == .queued).length),
        (36, (rs.filter fun r => r.state == .preempted).length)]
  | .srvPerf i =>
    match tget s.instances i with
    | none => 256 * 2 ^ 32
    | some x =>
      let t := stepMean x
      let g := stepGain x
      pack [(0, Nat.min (2 ^ 32 - 1) (t.1 / Nat.max 1 t.2)), (32, Nat.min 4095 (256 * g.1 / g.2))]
  | .srvUnits i =>
    match tget s.instances i with
    | none => 0
    | some x => pack [(0, x.free.length), (24, s.cachedUnits i), (48, Nat.min 65535 x.prov.length)]
  | .srvLat i =>
    match tget s.instances i with
    | none => 0
    | some x => x.ttftMiss + 2 ^ 32 * x.tbtMiss
  | .rqSel => s.sel.request
  | .rqStat =>
    (s.selReq.map fun p =>
      let r := p.2
      pack [(0, r.state.code), (3, b2n r.critical), (4, r.priority), (7, b2n r.spec), (8, r.len % 2 ^ 18),
        (26, r.units.length), (40, r.inst), (44, s.deadlineLeft r)]).getD 0
  | .netGroup =>
    let n := s.net
    if n.state = .solo then 0
    else pack [(0, n.state.code), (3, s.roleOf n.self), (5, n.self), (15, n.master), (25, n.deputy), (35, n.term % 2 ^ 16),
      (51, n.version)]
  | .netGen => s.net.gen + 2 ^ 32 * s.net.step.toNat
  | .netPcp => s.net.pcp
  | .netPort p => let x := s.port p; pack [(0, x.state), (16, x.cnp), (32, x.retrans), (48, x.pauseTx)]
  | .mbrSel => s.net.mbrSel
  | .mbrStat =>
    ((s.member s.net.mbrSel).map fun m =>
      pack [(0, m.state), (2, s.roleOf s.net.mbrSel), (8, m.lastStep.toNat), (40, fld m.lastHeard.toNat 33 10)]).getD 0
  | .crSel => s.net.crSel
  | .crRing => (s.selCr.map fun c => (s.ctx c).ringLog2 + 2 ^ 12 * (s.ctx c).ringAddr).getD 0
  | .crPtr => (s.selCr.map fun c => (s.ctx c).ringTail.toNat + 2 ^ 32 * (s.ctx c).ringHead.toNat).getD 0
  | .crTag => (s.selCr.map fun c => (s.ctx c).ringTag).getD 0
  | .ckpCfg =>
    let k := s.ckp
    pack [(0, k.ptn), (32, k.interval), (48, k.ackMs), (56, k.connections), (60, k.limitS)]
  | .ckpReserve => s.ckp.reserveFirst + 2 ^ 32 * s.ckp.reservePages
  | .ckpLog => s.ckp.logFirst + 2 ^ 32 * s.ckp.logPages
  | .ckpLogPtr => s.logWritten.toNat % 2 ^ 32 + 2 ^ 32 * (s.ckp.flushed.toNat % 2 ^ 32)
  | .ckpRegions => s.ckp.regionCount + 2 ^ 12 * s.ckp.regionAddr
  | .ckpStat => pack [(0, s.ckp.state.code), (8, s.ckp.ident % 2 ^ 24), (32, s.ckp.step.toNat)]
  | .ckpProgress => (s.ckp.shards.filter fun x => x.acked).length + 2 ^ 32 * s.ckp.shards.length
  | .ckpDurable => s.ckp.durableId % 2 ^ 24 + 2 ^ 32 * s.ckp.durableStep.toNat
  | .ckpMirror =>
    let k := s.ckp
    pack [(0, k.mirror.code), (8, k.candidate % 8), (16, k.lastStatus.code), (32, k.partnerFeed)]
  | .ckpSession => if s.ckpSession then s.ckp.session else 0
  | .ckpStore => s.ckp.storePtn + 2 ^ 32 * s.ckp.served.length
  | .ckpStoreRange => s.ckp.storeFirst + 2 ^ 32 * s.ckp.storePages
  | .fltStat =>
    let r := s.recovering
    pack [(0, b2n s.flt.fatal), (1, r.1), (8, r.2), (32, ((s.flt.records.getLast?).map (·.ident)).getD 0)]
  | .fltWin c => s.flt.windows.getD c 0
  | .fltDom d => let x := s.dom d; pack [(0, s.domStateCode d), (16, x.epoch.toNat), (32, x.fences), (48, x.resets)]
  | .fltRecSel => s.flt.recSel
  | .fltRec i => ((s.fault s.flt.recSel).map fun r => le r.bytes (8 * i) 8).getD 0
  | .fltLogPtr => ((s.flt.records.head?).map (·.ident)).getD 0 + 2 ^ 32 * s.flt.overwritten
  | .fltDumpCfg => b2n s.flt.dumpAuto + 2 * s.flt.dumpScope
  | .fltDumpStat =>
    let f := s.flt
    pack [(0, maskOf ((List.range 4).filter fun b => (tget f.dumps b).any fun d => d.ended)),
      (4, maskOf ((List.range 4).filter fun b => (tget f.dumps b).any fun d => d.exported)), (8, b2n f.busy.isSome),
      (32, f.nextDump - 1)]
  | .fltDumpDest => 2 ^ 12 * s.flt.dumpDest
  | .fltStale n => tgetD s.flt.stale n 0
  | .fltRetire => let f := s.flt; pack [(0, f.arrUe), (8, f.hangs), (16, f.hours), (32, f.quadLimit)]
  | .pwrCap => s.pwr.cap + 2 ^ 16 * s.effectiveCap
  | .pwrStat =>
    let p := s.pwr
    pack [(0, p.inputW), (12, p.inputDv), (22, p.holdJ), (30, b2n p.onHoldup), (31, b2n p.holding),
      (32, Nat.min 4095 s.predictedW), (44, p.fullJ)]
  | .pwrOp g => let x := s.group g; pack [(0, x.req), (2, x.ceil), (4, x.grant), (6, x.op), (8, b2n x.pending3)]
  | .pwrTherm => let p := s.pwr; pack [(0, p.tjTarget), (8, p.hbmTarget), (16, p.inletMax), (24, p.tjHot), (32, p.valveMin)]
  | .pwrValve => let p := s.pwr; pack [(0, (p.valve / permille).toNat), (10, p.pos), (20, p.inlet), (28, p.outlet), (36, p.tjMax)]
  | .pwrDomResult => let p := s.pwr; pack [(0, p.reqDomain), (7, b2n p.reqBusy), (8, p.reqStatus.code)]
  | .pwrCfg => b2n s.pwr.autoOff
  | .pwrWear => s.pwr.dWarn + 2 ^ 12 * s.pwr.dEol
  | .pwrDom d => let x := s.dom d; pack [(0, x.power.code), (2, s.railNow d), (12, x.powerDw), (24, x.wear), (36, x.eolHours)]
  | .pwrStress d => (s.dom d).stress
  | .plkStat =>
    let p := s.plk
    pack [(0, p.state.code), (2, p.version), (4, p.width), (7, p.lanes), (16, (s.dom 77).epoch.toNat), (32, p.reads.length % 512),
      (48, p.lastStatus.code)]
  | .plkVer => s.plk.allow
  | .plkErr => let p := s.plk; pack [(0, p.checkErr), (32, p.replays), (48, p.retrains), (56, p.trainings)]
  | .plkReject =>
    let p := s.plk
    pack [(0, p.rejOffset), (28, p.rejStatus.code), (36, b2n p.rejMem), (37, b2n p.rejValid), (48, p.rejCount)]
  | .plkMemReject => s.plk.memReject
  | .plkIntr => s.plk.holdoff
  | .plkTcorr => let p := s.plk; pack [(0, p.corrUncert), (32, p.corrRound), (48, b2n p.corrValid)]
  | .plkRd => s.plk.rdTimeout
  | .secFuse => pack [(0, s.boot.svnCount), (8, s.boot.revoke), (12, b2n s.boot.identSet)]
  | .secSerial => s.boot.serial.toNat
  | .secIdent i => le (sha384 s.ownKey) (8 * i) 8
  | .secEndorse i => le s.boot.endorse (8 * i) 8
  | .bootStat =>
    let b := s.boot
    pack [(0, b.state), (3, b2n b.slotB), (4, b2n b.fallback), (8, b.reasonA), (16, b.reasonB), (24, b.skipped), (32, b.sequence)]
  | .bootLock => b2n s.boot.locked
  | .bootTime => s.boot.elapsed + 2 ^ 32 * s.boot.boots
  | .updStat => let b := s.boot; pack [(0, b.upd.code), (3, b.updCore), (16, b.updApplied % 2 ^ 13)]
  | .bootImg c =>
    let x := s.core c
    pack [(0, 1), (1, b2n x.updated), (2, b2n x.previousValid), (8, x.proto), (24, x.rollbacks), (32, x.restarts)]

/-- What a read does besides: `GLB_LTIME` notes the source's epoch; a fault record has been read. -/
def touchReg (s : State) : Reg → State
  | .glbLtime => { s with sel := { s.sel with ltimeEpoch := (s.dom (sourceDomain s.sel.ltimeSource)).epoch.toNat } }
  | .fltRec _ => s.modFault s.flt.recSel fun r => { r with read := true }
  | _ => s

/-- In the FAILED state only the GLB, FLT, BOOT and SEC blocks answer reads (R396), after a fatal report only GLB, FLT and
BOOT (R348): whether an access at an offset is answered. -/
def answers (s : State) (off : Nat) (write : Bool) : Bool :=
  let m := off / 0x100000
  if s.flt.fatal then !write && (m == 0 || m == 0x80 || m == 0xC0)
  else if s.boot.state = 4 then !write && (m == 0 || m == 0x80 || m == 0xC0 || m == 0xB0)
  else true

/-- Whether the domain that holds a register lets an access in (R11): OPEN, or a source of `GLB_LTIME` that is merely off,
which reads 0. -/
def letsIn (s : State) (r : Reg) : Bool :=
  let d := s.holder r
  if r = .glbLtime then !(s.variant.domain d && ((s.dom d).state == .fenced || (s.dom d).state == .resetting))
  else s.isOpen d

/-- Whether a register stands only in name: `HBM_CACHE_WAYS` exists for even stacks alone (Table 17-8). -/
def noRegister : Reg → Bool
  | .hbmWays k _ => k % 2 == 1
  | _ => false

/-- A read of 4 or 8 bytes that hits a register as a whole, or one half of a 64-bit register: the status, the value, and
the state after it. An offset with no register reads 0 with OK (R413). -/
def readOne (s : State) (off size : Nat) : Status × Nat × State :=
  let lower := off - off % 8
  let hit := match regAt off with
    | some (r, w) => if noRegister r then none else some (r, if size = 4 ∧ w then 1 else 0)
    | none => match regAt lower with
      | some (r, true) => if size = 4 ∧ off % 8 = 4 then some (r, 2) else none
      | _ => none
  if s.answers off false = false then (.unitAbsent, 0, s)
  else match hit with
  | none => (.ok, 0, s)
  | some (r, half) =>
    if blockAbsent s.variant off || regAbsent s.variant r then
      let v := absentValue r
      (.ok, if half = 2 then v / 2 ^ 32 else if size = 4 then v % 2 ^ 32 else v, s)
    else if s.letsIn r = false then (.retryLater, 0, s)
    else
      let v := s.readReg r
      (.ok, if half = 2 then v / 2 ^ 32 % 2 ^ 32 else if size = 4 then v % 2 ^ 32 else v, s.touchReg r)

/-- The status of two halves: the first that R15 orders, else the lower half's that is not OK (R380). -/
def joinStatus (a b : Status) : Status :=
  if a = .ok then b else if b = .ok then a else if b.rank < a.rank then b else a

/-- Whether an access is one of 8 bytes at an 8-byte-aligned offset that holds no 64-bit register: it acts as two (R380). -/
def twoHalves (off size : Nat) : Bool :=
  size == 8 && off % 8 == 0 && (match regAt off with
    | some (_, w) => !w
    | none => true)

/-- A read of a register access message (R380). -/
def readWindow (s : State) (off size : Nat) : Status × Nat × State :=
  if size ≠ 4 ∧ size ≠ 8 ∨ off % Nat.max 1 size ≠ 0 then (.refusedInfeasible, 0, s)
  else if twoHalves off size then
    let a := s.readOne off 4
    let b := a.2.2.readOne (off + 4) 4
    (joinStatus a.1 b.1, a.2.1 + 2 ^ 32 * b.2.1, b.2.2)
  else s.readOne off size

end State

end Sys2Proof.Machine
end

