-- ==== Sys2Proof/Machine/Update.lean ====
section
/-! DEFINITION. How a live update ends, and the rollback of a core (R406, R407, R409). -/

namespace Sys2Proof.Machine

/-- The two images of a core change places (R407, R409). -/
def Core.swap (x : Core) : Core :=
  { x with
    current := x.previous, previous := x.current, updated := x.previousUpdated, previousUpdated := x.updated,
    proto := x.previousProto, previousProto := x.proto }

namespace State

/-- An update's completion is written (Table 16-9), and the next may come. -/
def updEnd (s : State) (st : Status) (detail : Nat) : State :=
  let b := s.boot
  if b.upd = .idle then s
  else
    let body := leBytes 1 st.code ++ leBytes 1 detail ++ zeros 2 ++ leBytes 2 b.updApplied ++ leBytes 2 b.updRolled ++
      leBytes 1 b.updSlot ++ zeros 3 ++ leBytes 4 (usBetween b.updStart s.supTime / 1000) ++ zeros 16
    (({ s with boot := { b with upd := .idle, updTodo := [], updBundle := [], watch := none, pauseAsked := false } } : State).post
      (b.updAddr + 0x20) body).raiseEv evBoot (if st = .ok then 0 else 1)

/-- A restarted core fails within 1 s: its previous image is current again, and the update ends (R409). -/
def rollBack (s : State) (c : Nat) : State :=
  let x := s.core c
  let s1 := s.setCore c { x.swap with rollbacks := satAdd 8 x.rollbacks 1 }
  ((({ s1 with boot := { s1.boot with updRolled := s1.boot.updRolled ||| 2 ^ c } } : State).raiseEv evBoot 2).updEnd
    .domainReset 0x21)

/-- A core of a domain whose restart is less than 1 s old (R409). -/
def watched (s : State) (d : Nat) : Option Nat := s.boot.watch.filter fun c => coreDomain c == d

end State

end Sys2Proof.Machine
end

