-- ==== Sys2Proof/Machine/Recovery.lean ====
section
/-! DEFINITION. Hangs, fences and resets (chapter 13): the engines and their units, naming the faulting context, the seven
steps of Table 13-3, escalation, the package warm reset and the fatal report. -/

namespace Sys2Proof.Machine

/-! ### Units (log entry 43) -/

/-- The units of a domain, numbered within their die: on a compute die the arrays, then sequencers, loss units and reduction
units, with the group in the number; on a base die cache, copier, slice, router, two DMA engines, queue engine, save engine,
two HBM controllers, group controller; on a media die twelve decode engines, demultiplexers, scalers, shuffle engine,
controller; on E0 eight ports, collective engine, controller; on E1 the Puchlink DMA, security block, serving engine,
controller, supervisor, dump engine, module unit. -/
def domainUnits (d : Nat) : List Nat :=
  if d < 56 then
    let g := d / 7
    let m := d % 7
    if m < 4 then (List.range 128).map (512 * g + 128 * m + ·) ++ [4096 + 4 * g + m, 4128 + 4 * g + m, 4160 + 4 * g + m]
    else if m = 4 then [0, 1, 2] else if m = 5 then [3, 4, 5, 6, 7] else [10]
  else if d < 72 then [8 + d % 2]
  else if d = 72 then [12, 14, 15]
  else if d = 74 then [12, 15]
  else if d < 76 then List.range 12 ++ [13]
  else if d = 76 then List.range 10
  else if d = 77 then [0, 1, 2, 3]
  else if d = 78 then [4, 5]
  else if d = 79 then [6]
  else []

/-- The class of an engine (Table 13-1); 6 for a unit without a progress counter. -/
def unitClass (d u : Nat) : Nat :=
  if d < 56 then
    if d % 7 < 4 then 1 else if d % 7 = 4 then (if u = 2 then 2 else 0) else if d % 7 = 5 then 2 else 4
  else if d < 72 then 0
  else if d < 76 then (if u = 15 then 4 else 5)
  else if d = 76 then (if u = 9 then 4 else 3)
  else if d = 77 then (if u = 0 then 3 else if u = 1 then 6 else 4)
  else if d = 78 then (if u = 4 then 4 else 6)
  else 6

/-- DIE of a record: the die id, or 12 for a compute die (Table 13-7). -/
def recordDie (d : Nat) : Nat := if d < 56 ∧ d % 7 < 4 then 12 else domainDie d

/-- The escalation set of a domain: what level 2 of Table 13-5 resets. -/
def escalationSet (d : Nat) : List Nat :=
  if d < 56 then (List.range 7).map (7 * (d / 7) + ·)
  else if d < 72 then d :: (List.range 7).map (7 * ((d - 56) / 2) + ·)
  else if d < 80 then [d - d % 2, d - d % 2 + 1]
  else []

/-- The status registers of a unit, with their window offsets: what a shadow holds and a probe reads. -/
def unitRegs (d u : Nat) : List (Nat × Reg) :=
  if d < 56 then
    let g := d / 7
    let m := d % 7
    let base := 0x01000000 + 0x100000 * g
    if m < 4 then
      if u < 4096 then [(base + 0x1000 + 8 * (u % 512), .arrStat u)]
      else if u < 4128 then
        [(0x800 + 8 * (4 * g + m), .glbQrate (4 * g + m)), (base + 0x10 * m, .ev (16 + 4 * g + m)),
          (base + 0x200 + 8 * m, .arrEcc (4 * g + m)), (base + 0x220 + 8 * m, .arrOvf (4 * g + m))] ++
        (List.range 4).map fun c => (base + 0x100 + 8 * (4 * m + c), .arrQcnt (4 * g + m) c)
      else []
    else if m = 4 then
      if u = 0 then (List.range 32).map fun p => (0x03000000 + 0x20000 * g + 0x100 + 4 * p, .hbmWays (2 * g) p) else []
    else if m = 5 then
      if u = 3 then
        ((List.range 22).filter fun l => (linkEnds l).1 == g).map fun l => (0xA00 + 8 * l, .glbRzLink l)
      else if u = 4 ∨ u = 5 then [(0x02100000 + 8 * (2 * g + u - 4), .dmaStat (2 * g + u - 4))]
      else []
    else []
  else if d < 72 then
    let k := d - 56
    let base := 0x03000000 + 0x10000 * k
    [(base, .hbmStat k), (base + 0x40, .hbmEcc k), (base + 0x48, .ev (48 + k)), (base + 0x58, .hbmStarve k)] ++
      (List.range 4).map fun i => (base + 0x10 + 8 * i, .hbmOwn k i)
  else if d = 72 then
    if u = 14 then [(0x04000018, .medState), (0x04000020, .medCursor), (0x04000028, .medWin), (0x04000030, .medCnt), (0x04000040, .ev 5)]
    else []
  else if d = 73 ∨ d = 75 then
    if u < 12 then let e := if d = 73 then u else 12 + u; [(0x04000100 + 8 * e, .medEng e)] else []
  else if d = 76 then
    if u < 8 then [(0x06000100 + 8 * u, .netPort u)]
    else if u = 9 then [(0x06000000, .netGroup), (0x06000008, .netGen), (0x06000300, .ev 8)]
    else []
  else if d = 77 then
    if u = 0 then [(0x0A000000, .plkStat), (0x0A000010, .plkErr), (0x0A000018, .plkReject), (0x0A000038, .ev 12)]
    else if u = 1 then [(0x0B000000, .secFuse), (0x0B000208, .ev 14)]
    else if u = 2 then (List.range 16).map fun i => (0x05000200 + 8 * i, .srvStat i)
    else []
  else if d = 78 then
    if u = 4 then [(0x08000000, .fltStat), (0x09000008, .pwrStat), (0x0C000000, .bootStat)] else []
  else []

/-- A link direction without what its sender held, and without what its receiver held. -/
def LinkDir.clearEnds (d : LinkDir) (sender receiver : Bool) : LinkDir :=
  let d1 := if sender then { d with store := [], wait := [] } else d
  if receiver then { d1 with bad := [] } else d1

namespace State

/-! ### Crash dumps (R349, R350) -/

/-- A dump record (Table 13-7); a shadow value was read at the fence. -/
def dumpRecord (s : State) (ty d u addr reason value : Nat) (time : DWord) : List Byte :=
  leBytes 1 ty ++ leBytes 1 (if ty = 3 then Status.unreachable.code else 0) ++ leBytes 1 d ++ leBytes 1 (recordDie d) ++
  leBytes 2 u ++ leBytes 2 (if ty = 1 then (s.dom d).fencedEpoch else (s.dom d).epoch).toNat ++ leBytes 4 addr ++ leBytes 1 reason ++ zeros 3 ++ leBytes 8 value ++
  leBytes 8 time.toNat

/-- The links of the route from E1, where the dump engine sits, to a die (R51). -/
def probeRoute (die : Nat) : List Nat :=
  let cube := fun (a b : Nat) =>
    let step := fun (p : Nat × List Nat) (i : Nat) =>
      if bitAt p.1 i = bitAt b i then p
      else
        let n := Nat.xor p.1 (2 ^ i)
        (n, p.2 ++ ((List.range 12).filter fun l => linkEnds l == (Nat.min p.1 n, Nat.max p.1 n)))
    ([0, 1, 2].foldl step (a, [])).2
  if die < 8 then (if bitAt die 2 then 17 :: cube 6 die else 16 :: cube 2 die)
  else if die = 9 then [21]
  else if die = 10 then 16 :: cube 2 0 ++ [12]
  else if die = 8 then 16 :: cube 2 0 ++ [14]
  else []

/-- The record of a probe: what the unit's registers hold; or none may be read (reasons 2 and 3). -/
def probeRecords (s : State) (d u : Nat) : List (List Byte) × Nat :=
  let st := (s.dom d).state
  let reason := if st = .resetting ∨ st = .off ∨ st = .fatal then 2
    else if (probeRoute (domainDie d)).any fun l => (s.rzLink l).state == .down && !(s.rzLink l).detour then 3 else 0
  if reason = 0 then ((unitRegs d u).map fun r => s.dumpRecord 2 d u r.1 0 (s.readReg r.2) s.supTime, 0)
  else ([s.dumpRecord 3 d u 0 reason 0 s.supTime], reason)

/-- The unit that a shadow value belongs to. -/
def shadowUnit (d addr : Nat) : Nat := ((domainUnits d).find? fun u => (unitRegs d u).any fun r => r.1 == addr).getD 0

/-- The buffer that a new dump takes: an empty one, or the oldest exported. -/
def dumpBuffer (s : State) : Option Nat :=
  match lowestFree s.flt.dumps 4 with
  | some b => some b
  | none =>
    (s.flt.dumps.foldl (fun (acc : Option (Nat × Nat)) p =>
      if p.2.exported then
        match acc with
        | some (i, b) => if p.2.ident < i then some (p.2.ident, p.1) else some (i, b)
        | none => some (p.2.ident, p.1)
      else acc) none).map (·.2)

/-- A dump starts: shadows first, then every present unit of the scope is probed. A dump that exceeds its buffer is cut. -/
def startDump (s : State) (fault scope : Nat) (doms : List Nat) : State :=
  match s.dumpBuffer with
  | none => s.raiseEv evFlt 5
  | some b =>
    let ds := doms.filter s.variant.domain
    let shadows := ds.flatMap fun d =>
      (s.dom d).shadow.map fun v => s.dumpRecord 1 d (shadowUnit d v.1) v.1 0 v.2 (s.dom d).fencedAt
    let units := ds.flatMap fun d => (domainUnits d).map fun u => (d, u)
    let probes := units.map fun x => (x, s.probeRecords x.1 x.2)
    let all := shadows ++ probes.flatMap fun x => x.2.1
    let cut := decide (8190 < all.length)
    let dump : Dump := {
      ident := s.flt.nextDump, fault := fault, scope := scope, start := s.supTime, fin := 0,
      todo := if cut then [] else (probes.filter fun x => x.2.2 == 0).map (·.1), records := all.take 8190,
      unreachable := (probes.filter fun x => x.2.2 != 0).length, truncated := cut, ended := false, exported := false }
    ({ s with flt := { s.flt with
        dumps := tput s.flt.dumps b dump, busy := some (s.flt.busy.getD b),
        nextDump := if s.flt.nextDump + 1 ≥ 2 ^ 32 then 1 else s.flt.nextDump + 1 } } : State).modFault fault
      fun r => { r with dump := dump.ident }

/-- The domains of a scope for a fault of a domain (R350). -/
def scopeDomains (s : State) (scope d : Nat) : List Nat :=
  if scope = 2 ∨ 80 ≤ d then s.variant.domainList else if scope = 0 then [d] else escalationSet d

/-- The dump of a fault, if dumps are automatic. -/
def autoDump (s : State) (fault d : Nat) : State :=
  if s.flt.dumpAuto then s.startDump fault s.flt.dumpScope (s.scopeDomains s.flt.dumpScope d) else s

/-- A unit has not answered its probe within 50 µs: one record says so, and nothing further is read from it (R349). -/
def probeLate (s : State) (d u : Nat) : State :=
  let change := fun (x : Dump) =>
    if x.todo.contains (d, u) then
      { x with
        todo := x.todo.filter fun t => t != (d, u)
        records := (x.records.filter fun l => !(le l 0 1 == 2 && le l 2 1 == d && le l 4 2 == u)) ++
          [s.dumpRecord 3 d u 0 1 0 s.supTime]
        unreachable := x.unreachable + 1 }
    else x
  { s with flt := { s.flt with dumps := tmap (fun _ x => change x) s.flt.dumps } }

/-- A context torn down in the recovery of a fault, beyond the one that its record names, is listed in its dump (R338, R340): a record of
TYPE 2 with ADDR 0 whose VALUE is the handle (log entry 184). -/
def dumpContext (s : State) (fault d u handle : Nat) : State :=
  { s with flt := { s.flt with dumps := tmap (fun _ x =>
      if x.ended || x.fault != fault || fault == 0 then x
      else if 8190 ≤ x.records.length then { x with truncated := true }
      else { x with records := x.records ++ [s.dumpRecord 2 d u 0 0 handle s.supTime] }) s.flt.dumps } }

/-- A dump of a buffer ends: header and records stand in the buffer (Table 13-6). -/
def finishDump (s : State) (b : Nat) : State :=
  match tget s.flt.dumps b with
  | none => s
  | some x =>
    let head := leBytes 4 1 ++ leBytes 4 x.ident ++ leBytes 4 x.fault ++ leBytes 1 x.scope ++ leBytes 1 (b2n x.truncated) ++
      zeros 2 ++ leBytes 4 x.records.length ++ leBytes 4 x.unreachable ++ leBytes 8 x.start.toNat ++
      leBytes 8 s.supTime.toNat ++ zeros 20
    let body := x.records.flatten
    let bytes := head ++ leBytes 4 (crc32c (head ++ zeros 4 ++ body)) ++ body
    let m := (s.mem.clear (dumpKey b 0) (dumpKey b 262144)).writeAll (dumpKey b 0) bytes
    let dumps := tput s.flt.dumps b { x with ended := true, todo := [], fin := s.supTime }
    ({ s with
      mem := m
      flt := { s.flt with dumps := dumps, busy := (dumps.find? fun p => !p.2.ended).map (·.1) } } : State).raiseEv evFlt 4

/-- The oldest dump that runs ends. -/
def dumpEnds (s : State) : State :=
  match (s.flt.dumps.filter fun p => !p.2.ended).foldl (fun (acc : Option (Nat × Nat)) p =>
      match acc with
      | some (i, b) => if p.2.ident < i then some (p.2.ident, p.1) else some (i, b)
      | none => some (p.2.ident, p.1)) none with
  | some (_, b) => s.finishDump b
  | none => s

/-- A buffer that holds a dump is exported: all its 256 KiB go to `FLT_DUMP_DEST`. -/
def exportDump (s : State) (b : Nat) : State :=
  match tget s.flt.dumps b with
  | some x =>
    if x.ended then
      ({ s with flt := { s.flt with dumps := tput s.flt.dumps b { x with exported := true } } } : State).post
        (s.flt.dumpDest * 4096) (s.mem.readAll (dumpKey b 0) 262144)
    else s
  | none => s

/-! ### Outstanding requests -/

/-- Whether a command's accesses go to a domain. -/
def touches (s : State) (c q : Nat) (y : Cmd) (d : Nat) : Bool :=
  let x := atCmd c q y
  (cmdOpcode y.word == 10 && engineDomain (s.dmaEngine x) == d) ||
  (match s.wordChan x with
    | some (some i, _) => (tget s.channels i).any fun ch => sramDomain ch.placement == d
    | _ => false) ||
  (s.arrays.any fun p => p.2.drains.any fun t => t.ctx == c && t.q == q && t.idx == y.index &&
    t.part.any fun u => sramDomain (arrDie (s.receiver x c q t.tile u)) == d) ||
  (s.spans x).any fun p => (members (s.localDies x) 8).any fun n => (s.accessDomains n p.addr p.len).contains d

/-- Whether a command is a LOSS that has taken its block from a slice of a domain. -/
def losesBlock (s : State) (c q : Nat) (y : Cmd) (d : Nat) : Bool :=
  cmdOpcode y.word == 9 && y.result != some .retryLater &&
    match s.wordChan (atCmd c q y) with
    | some (some i, _) => (tget s.channels i).any fun ch => sramDomain ch.placement == d && ch.count .consuming > 0
    | _ => false

/-- Whether a drain of a command waits for a fenced destination: its write has been answered with RETRY_LATER, and is not outstanding
at the drain end (R90). -/
def drainHeld (s : State) (c q : Nat) (idx : Word) : Bool :=
  s.arrays.any fun p => p.2.drains.any fun t => t.waiting && t.ctx == c && t.q == q && t.idx == idx

/-- Commands in work with a request outstanding to a domain are answered with DOMAIN_RESET: those of the queues of some
dies; their tiles that are not drained return to HELD (R90). A LOSS whose block a reset slice loses is among them even when its unit
has answered (R28). The number answered comes with the state. -/
def answerOutstanding (s : State) (d : Nat) (mine : Nat → Bool) (out : Nat → Nat → Word → Bool) : State × Nat :=
  let out := (s.contexts.filter fun p => p.2.state == .running || p.2.state == .saving).flatMap fun p =>
    (List.range 4).flatMap fun q => ((s.queue p.1 q).cmds.filter fun y =>
      y.started && (y.result.isNone || s.losesBlock p.1 q y d) && !y.final && mine (s.queueDie p.1 q) && out p.1 q y.index && s.touches p.1 q y d).map fun y => (p.1, q, y.index)
  (out.foldl (fun (s : State) x => (s.heldDrains x.1 x.2.1 x.2.2).answer x.1 x.2.1 x.2.2 .domainReset) s, out.length)

/-- Puchlink goes idle without its unacknowledged messages (Table 15-8): commands that wait for a HOST_WR to be acknowledged
complete with DOMAIN_RESET (R383). Ring entries are kept to be written again. -/
def linkDrop (s : State) : State :=
  let s1 := (s.plk.writes.filter fun w => decide (w.q < 4)).foldl (fun (s : State) w => s.answer w.ctx w.q w.idx .domainReset) s
  { s1 with plk := { s1.plk with
      state := .down, writes := (s1.plk.writes.filter fun w => w.q == ringWriter).map fun w => { w with seq := none }, waiting := [], rxSlots := [], rxNext := 0, roundOpen := false, txNext := 0, txAcked := 0,
      txReplays := 0, creditPw := 0, creditNp := 0, creditMgt := 0, lanes := 0, width := 0, pings := [], best := none } }

/-! ### Work (R335) and naming the faulting context (R337) -/

/-- Whether a unit works on a dispatched command or could begin it: the command has no code and waits neither for a fenced target, nor for
its channel, nor for an operand, space or the edge column, which other engines owe it, nor for a command before it (R91, R154, R157). -/
def inWork (s : State) (c q : Nat) (y : Cmd) : Bool :=
  y.result.isNone && !y.final && y.waitDom.isNone && y.waitFrom.isNone && y.waits == 0 &&
    (y.started || s.clear c q (s.earlier c q y.index) (atCmd c q y))

/-- The first context that runs with a command in work of which something holds. -/
def serves (s : State) (ok : Nat → Nat → Cmd → Bool) : Option Nat :=
  (s.contexts.find? fun p => p.2.state == .running && (List.range 4).any fun q =>
    (s.queue p.1 q).cmds.any fun y => s.inWork p.1 q y && ok p.1 q y).map (·.1)

/-- The context whose instructions the sequencer of a quadrant has to bind or run. -/
def sequences (s : State) (d : Nat) : Option Nat :=
  s.serves fun c q y =>
    let op := cmdOpcode y.word
    1 ≤ op && op ≤ 6 && (2 < op || !y.started) && (s.queueDomains c q).contains d

/-- The context that a loss unit (opcode 9) or a reduction unit (5) of a quadrant serves. -/
def unitServes (s : State) (op d : Nat) : Option Nat :=
  s.serves fun c q y => cmdOpcode y.word == op && (s.queueDomains c q).contains d

/-- The context whose command a Sorus slice serves. -/
def sliceServes (s : State) (g : Nat) : Option Nat :=
  s.serves fun c q y =>
    match s.wordChan (atCmd c q y) with
    | some (some i, _) => (tget s.channels i).any fun ch => ch.placement == g
    | _ => false

/-- Whether a queue has a command that its engine can dispatch, or one whose code it can write. -/
def queueWork (s : State) (c q : Nat) : Bool :=
  s.dispatches c q || (s.queue c q).cmds.any fun y => y.result.isSome && !y.final && y.waitDom.isNone && !s.unacked c q y.index

/-- The context whose queue a queue engine serves. -/
def queueServes (s : State) (g : Nat) : Option Nat :=
  (s.contexts.find? fun p => p.2.state == .running && (List.range 4).any fun q =>
    s.queueDie p.1 q == g && s.queueWork p.1 q).map (·.1)

/-- The context whose image a save engine moves. A save waits for the drains of its arrays. -/
def saveServes (s : State) (g : Nat) : Option Nat :=
  (s.contexts.find? fun p => p.2.dies.contains g && (p.2.state == .restoring || (p.2.state == .saving && s.drainsWait p.1))).map (·.1)

/-- Whether a partition has pseudo-channels of a stack. -/
def ptnOn (s : State) (k p : Nat) : Bool := (tget s.ptns p).any fun x => fld x.pcs (32 * k + 31) (32 * k) != 0

/-- Whether a stack has requests to serve: of a command in work, of an image, of a re-stripe, of a checkpoint. A controller that holds a write
for the copier has not stalled: that wait counts as progress (Table 7-5). -/
def stackWork (s : State) (k : Nat) : Bool :=
  !(s.ckp.held.any fun h => h.frame / framesPerPc / 32 == k) &&
  ((s.serves fun c q y => s.touches c q y (stackDomain k)).isSome ||
    (s.contexts.any fun p => (p.2.state == .saving || p.2.state == .restoring) && s.ptnOn k p.2.ptn) ||
    (s.ptns.any fun p => p.2.restriping && s.ptnOn k p.1) || s.ckptRuns && s.ckpPtn.any (s.ptnOn k))

/-- Whether a base die's router holds a transfer that it has sent on and that no acknowledgement has come for. -/
def routerWork (s : State) (g : Nat) : Bool :=
  (List.range 22).any fun l =>
    let x := s.rzLink l
    x.state == .up && !x.holding &&
      (((linkEnds l).1 == g && !x.low.store.isEmpty) || ((linkEnds l).2 == g && !x.high.store.isEmpty))

/-- Whether a DMA engine holds a command that waits for no answer from the host and no held write. -/
def dmaWork (s : State) (e : Nat) : Bool :=
  let y := s.dmaE e
  y.busy && !s.unacked y.ctx y.q y.idx

/-- The lowest decode engine of a media die at work. -/
def decodes (s : State) (m : Nat) : Option Nat := ((List.range 12).map (12 * m + ·)).find? fun e => (s.engine e).busy

/-- The connections with a packet that the peer has not acknowledged: of collectives, of clips' READs, of shards. -/
def busyQps (s : State) : List Nat :=
  (s.collectives.flatMap fun x => if x.code.isSome then [] else
    (s.collOthers (s.collEntry x.ctx x.entry)).map fun m => s.net.qpnBase + 2 * m) ++
  (s.streams.flatMap fun p => (p.2.window.filter fun c => !c.chunks.isEmpty).map fun c => ingestQp p.1 c.server) ++
  (s.ckp.shards.zipIdx.filter fun x => x.1.sent && !x.1.acked).map fun x => s.mirrorQp + x.2 % Nat.max 1 s.ckp.connections

/-- Whether an engine has work, and does not wait for what R335 names: data or space that another engine owes it, an arbiter, a gate, a
completion ring, the skip log, a remote peer, a fenced target. A quadrant's sequencer is the unit only while no array has an instruction
that could make progress (R337). Control cores always have their heartbeat to write. -/
def hasWork (s : State) (d u : Nat) : Bool :=
  if d < 56 then
    let g := d / 7
    let m := d % 7
    if m < 4 then
      let works := fun (a : Nat) => s.issuable a || (s.arr a).drains.any fun t => !t.waiting
      if u < 4096 then works u
      else if u < 4128 then !((List.range 128).any fun a => works (512 * g + 128 * m + a)) && (s.sequences d).isSome
      else if u < 4160 then (s.unitServes 9 d).isSome
      else (s.unitServes 5 d).isSome
    else if m = 4 then
      if u = 0 then s.stackWork (2 * g) || s.stackWork (2 * g + 1)
      else if u = 1 then (s.ckp.copying.any fun c => c.1 / framesPerPc / 64 == g) || s.ptns.any fun p =>
        p.2.restriping && (s.ptnOn (2 * g) p.1 || s.ptnOn (2 * g + 1) p.1)
      else (s.sliceServes g).isSome || s.channels.any fun p => p.2.state == .migrating && p.2.placement == g
    else if m = 5 then
      if u = 3 then s.routerWork g
      else if u = 4 ∨ u = 5 then s.dmaWork (2 * g + u - 4)
      else if u = 6 then (s.queueServes g).isSome
      else (s.saveServes g).isSome
    else true
  else if d < 72 then s.stackWork (d - 56)
  else if d < 76 then
    if u < 12 then (s.engine (if d = 73 then u else 12 + u)).busy
    else if u < 14 then (s.decodes ((d - 72) / 2)).isSome
    else if u = 14 then s.streams.any fun p => s.blockDue p.1 p.2
    else true
  else if d = 76 then
    if u < 8 then s.busyQps.any fun q => s.qpPort q == some u
    else if u = 8 then s.collectives.any fun x => x.code.isSome || (let op := collOp (s.collEntry x.ctx x.entry); op == 4 || op == 6)
    else true
  else if d = 77 ∧ u = 0 then s.dmaWork 16
  else true

/-- The context that owns a stalled engine (R337). -/
def hungContext (s : State) (d u : Nat) : Option Nat :=
  if d < 56 then
    let g := d / 7
    let m := d % 7
    if m < 4 then
      if u < 4096 then ((s.arr u).bound.head?.map (·.ctx)).orElse fun _ => (s.arr u).drains.head?.map (·.ctx)
      else if u < 4128 then s.sequences d
      else if u < 4160 then s.unitServes 9 d
      else s.unitServes 5 d
    else if m = 4 then (if u = 2 then s.sliceServes g else none)
    else if m = 5 then
      if u = 4 ∨ u = 5 then
        let e := s.dmaE (2 * g + u - 4)
        if e.busy then some e.ctx else none
      else if u = 6 then s.queueServes g
      else if u = 7 then s.saveServes g
      else none
    else none
  else none

/-- The handle that a record names: the context's, or, of a media engine, that of the ingest stream it works for. For demultiplexers and
scalers that is the stream of the lowest decode engine at work on their die (log entry 180). -/
def hungHandle (s : State) (d u : Nat) : Nat :=
  let stream := if d < 72 ∨ 76 ≤ d then none
    else if u < 12 then
      let e := s.engine (if d = 73 then u else 12 + u)
      if e.busy then some e.stream else none
    else if u < 14 then (s.decodes ((d - 72) / 2)).map fun e => (s.engine e).stream
    else if u = 14 then (s.streams.find? fun p => s.blockDue p.1 p.2).map (·.1)
    else none
  match s.hungContext d u with
  | some c => s.ctxHandle c
  | none => (stream.map s.streamHandle).getD 0

/-! ### Control state that a reset clears (R339, Table 17-2) -/

/-- The event registers of a domain; their enables too, but for the sticky one of FLT. -/
def clearEvents (s : State) (d : Nat) : State :=
  { s with events := tmap (fun e r =>
      if eventDomain e = d then
        { EventReg.reset e with enable := if e = evFlt then r.enable else eventEnableReset e }
      else r) s.events }

/-- A quadrant: its arrays hold nothing, its slots and halves are FREE, its counters and figures are gone. -/
def clearQuad (s : State) (k : Nat) : State :=
  let z := s.quad k
  let s1 := s.setQuad k { Quadrant.reset with
    window := s.sel.rateWin, reserved := z.reserved, handing := z.handing, lend := z.lend, behind := z.behind, lateSince := z.lateSince,
    extension := z.extension, ended := z.ended, borrowed := z.borrowed, retired := z.retired, ce := z.ce, ue := z.ue,
    ovfRetries := z.ovfRetries, overflows := z.overflows, maxTag := z.maxTag }
  { s1 with arrays := tmap (fun a x =>
      if a / 128 = k then { Arr.reset with ueCount := x.ueCount, hangs := x.hangs, retired := x.retired } else x) s1.arrays }

/-- The drain of the domain that holds a base die's cache ends (R193): within 100 µs of the fence every dirty line is written back; at
the limit those that are not are lost, and their frames carry POISON. -/
def cacheDrained (s : State) (n since : Nat) : State :=
  let mine := s.lines.filter fun x => x.dirty && x.frame / framesPerPc / 64 == n
  let lost := if since < 100 then [] else
    ((mine.filter fun x => Config.lineLost s.free (1024 * x.frame + x.line)).map (·.frame)).eraseDups
  let s1 : State := { s with free := s.free + b2n (!lost.isEmpty) }
  lost.foldl (fun (s : State) f => (s.setAttr f (s.attr f ||| 64)).raiseEv (evHbm (f / framesPerPc / 32)) 1)
    (s1.writeBack fun f => f / framesPerPc / 64 == n)

/-- A base die's SRAM: the Sorus slots are FREE, and the teachers of lost blocks compute them again (R28); writes held for its copier are answered with DOMAIN_RESET. -/
def clearSram (s : State) (n : Nat) : State :=
  let mine := fun (h : HeldWrite) => h.q < 4 && h.frame / framesPerPc / 64 == n
  let s1 := (s.ckp.held.filter mine).foldl (fun (s : State) h => s.answer h.ctx h.q h.idx .domainReset) s
  let held := s1.ckp.held.filter fun h => !mine h
  let s2 : State := { s1 with ckp := { s1.ckp with
    held := held
    copying := s1.ckp.copying.filter fun c => c.1 / framesPerPc / 64 != n || held.any fun h => h.frame == c.1 } }
  let x := s2.stack (2 * n)
  let lost := s2.chansOf fun ch => ch.placement == n && ch.slots.any fun sl => sl.state != .free
  ((s2.setStack (2 * n) { x with allocRd := 2 ^ 32 - 1, allocWr := 2 ^ 32 - 1 }).sliceReset n).teachersBack lost

/-- The queue pointers of the contexts that a queue engine serves; an image in HBM keeps those of a context that has left. Commands
without a final code receive DOMAIN_RESET as theirs, since no queue is left to issue them again (R16; log entry 160). -/
def clearQueues (s : State) (n : Nat) : State :=
  s.contexts.foldl (fun (s : State) p =>
    if [CtxState.ready, .running, .saving, .restoring].contains p.2.state then
      (List.range 4).foldl (fun (s : State) q =>
        let x := s.queue p.1 q
        if x.ringLog2 = 0 ∨ s.queueDie p.1 q ≠ n then s
        else
          let s1 := x.cmds.foldl (fun (s : State) y =>
            let t := if y.final || y.recorded then s
              else s.putRecord p.1 q (completionRecord .domainReset y q (s.queueTime p.1 q))
            (t.unbind p.1 q y.index).freeEngine p.1 q y.index) s
          s1.setQueue p.1 q { Queue.reset with
            ringLog2 := x.ringLog2, ringAddr := x.ringAddr, cringLog2 := x.cringLog2, cringAddr := x.cringAddr, quads := x.quads }) s
    else s) s

/-- A base die's fabric: DMA engines idle, link ends empty, queue pointers gone. -/
def clearFabric (s : State) (n : Nat) : State :=
  let s1 := { s with
    dmas := tmap (fun e y => if e / 2 = n ∧ e < 16 then DmaEngine.reset else y) s.dmas
    links := tmap (fun l x =>
      { x with
        low := x.low.clearEnds ((linkEnds l).1 == n) ((linkEnds l).2 == n)
        high := x.high.clearEnds ((linkEnds l).2 == n) ((linkEnds l).1 == n) }) s.links }
  s1.clearQueues n

/-- The decode engines of a media die: their clips start again from their window bytes (Table 8-12). -/
def clearMedia (s : State) (m : Nat) : State :=
  ((List.range 12).foldl (fun (s : State) e => s.engineYield (12 * m + e)) s).raiseEv evMed 4

/-- The shuffle engine and the media controller of M0 (Table 8-12). -/
def clearShuffle (s : State) : State :=
  let s1 := s.shuffleReset
  { s1 with
    streams := tmap (fun _ st => { st with skipHead := 0, skipTail := 0 }) s1.streams
    sel := { s1.sel with stream := 0 } }

/-- E0: connections, collectives in flight, the registers of the NET block. -/
def clearEdge (s : State) : State :=
  { s with
    collectives := s.collectives.filter fun x => x.code.isSome
    ports := tmap (fun _ p => { p with paused := 0 }) s.ports
    netHeld := []
    contexts := tmap (fun _ k => { k with ringLog2 := 0, ringAddr := 0, ringTail := 0, ringHead := 0, ringTag := 0 }) s.contexts
    net := { s.net with qps := [], pcp := Net.reset.pcp, mbrSel := 0, crSel := 0 } }

/-- E1: Puchlink, the serving engine's selector, attestation requests in work, which are answered. -/
def clearHost (s : State) : State :=
  let s1 := s.plk.reads.foldl (fun (s : State) r => s.answer r.ctx r.q r.idx .domainReset) s.linkDrop
  let s2 := s1.boot.atts.foldl (fun (s : State) a =>
    s.post (a.1 + 0x70) (leBytes 1 Status.domainReset.code ++ zeros 3 ++ leBytes 4 (usBetween a.2.1 s.supTime) ++ zeros 8)) s1
  { s2 with
    dmas := tdel s2.dmas 16
    boot := { s2.boot with atts := [] }
    sel := { s2.sel with request := 0 }
    plk := { Plk.reset with
      allow := s2.plk.allow, good := s2.plk.good, checkErr := s2.plk.checkErr, replays := s2.plk.replays, retrains := s2.plk.retrains,
      trainings := s2.plk.trainings, nextTag := s2.plk.nextTag, nextWrite := s2.plk.nextWrite, supRestarted := s2.plk.supRestarted } }

/-- PD78: the registers that are not sticky, those of the CTX block among them (Table 0-4); handles, layouts, logs and images are kept (R344, R401). -/
def clearSupervisor (s : State) : State :=
  let p := s.pwr
  let z := Pwr.reset
  { s with
    sel := { Sel.reset with stream := s.sel.stream, request := s.sel.request }
    flt := { s.flt with recSel := 0 }
    ckp := { s.ckp with
      ptn := 0, interval := 0, ackMs := 10, connections := 2, limitS := 10, reserveFirst := 0, reservePages := 0, logFirst := 0,
      logPages := 0, regionCount := 0, regionAddr := 0, storePtn := 0, storeFirst := 0, storePages := 0 }
    groups := tmap (fun _ g => { g with req := 2, schedEnable := false, schedAddr := 0, schedNew := true, refused := false }) s.groups
    contexts := tmap (fun _ k => { k with
      escHold := 256, lrRecover := 2000, seed := 0, ltabAddr := 0, ltabCount := 0, descAddr := 0, descCount := 0,
      sync := [0, 0, 0, 0, 0, 0, 0, 0],
      queues := k.queues.map fun x => { x with
        ringLog2 := 0, ringAddr := 0, cringLog2 := 0, cringAddr := 0, quads := 0 } }) s.contexts
    pwr := { p with
      cap := z.cap, tjTarget := z.tjTarget, hbmTarget := z.hbmTarget, inletMax := z.inletMax, tjHot := z.tjHot, valveMin := z.valveMin,
      autoOff := false } }

/-- The logic of a domain is reset: its control state is cleared, its storage kept (R339). A stack's controller leaves it in
self-refresh. Test borrowings of its units end with DOMAIN_RESET (R257). -/
def clearDomain (s : State) (d : Nat) : State :=
  let s1 := (s.testAbort fun ty t => targetDomain ty t == d).clearEvents d
  if d < 56 then
    let g := d / 7
    if d % 7 < 4 then s1.clearQuad (4 * g + d % 7) else if d % 7 = 4 then s1.clearSram g
    else if d % 7 = 5 then s1.clearFabric g else s1
  else if d < 72 then
    let x := s1.stack (d - 56)
    let s2 := s1.setStack (d - 56) { x with state := .selfRefresh, threshold := 64, starve := 0 }
    { s2 with pcs := tmap (fun g p => if g / 32 = d - 56 then { p with powerDown := false, parity := false } else p) s2.pcs }
  else if d = 72 then s1.clearShuffle
  else if d = 73 then s1.clearMedia 0
  else if d = 75 then s1.clearMedia 1
  else if d = 76 then s1.clearEdge
  else if d = 77 then s1.clearHost
  else if d = 78 then s1.clearSupervisor
  else s1

/-- A domain without supply: what its SRAM held is undefined (log entry 44); HBM keeps its own supply (Table 14-1). -/
def losePower (s : State) (d : Nat) : State :=
  let s1 := s.clearDomain d
  let s2 := if d < 56 ∧ d % 7 = 4 then
      { s1 with
        mem := (List.range 32).foldl (fun (m : Memory) p =>
          m.undefine (scrKey p (d / 7) 0) (scrKey p (d / 7) (2 ^ 27)) s1.free) s1.mem
        free := s1.free + 1 }
    else s1
  s2.setDom d { s2.dom d with
    state := if (s2.dom d).state = .fatal then .fatal else .off, power := .off, powering := false, railMv := 0, powerDw := 0, offAfter := false, ready := false, level := 0, record := 0 }

/-! ### Steps 1 and 2: the fence -/

/-- What a domain's shadow store holds: its status registers. -/
def shadowOf (s : State) (d : Nat) : List (Nat × Nat) :=
  (domainUnits d).flatMap fun u => (unitRegs d u).map fun r => (r.1, s.readReg r.2)

/-- A domain is fenced at a level under a fault record: shadows, notices; a context whose array state stands on a fenced
quadrant leaves it as a park would have it (R338). PD78 has no Peristome: its reset starts at once. -/
def fenceDom (s : State) (d id level : Nat) (off : Bool) : State :=
  let x := s.dom d
  let s1 := s.setDom d { x with
    state := .fenced, fences := if d = 78 then x.fences else satAdd 16 x.fences 1, fenceAcks := [], epochAcks := [], ready := false, offAfter := off,
    requested := (s.fault id).any fun r => r.kind == 8, record := id, level := level, shadow := s.shadowOf d
    fencedAt := s.supTime, fencedEpoch := x.epoch }
  if d = 78 then
    let s2 := s1.clearDomain 78
    s2.setDom 78 { s2.dom 78 with state := .resetting, resetAt := s2.supTime }
  else
    let s2 := s1.sendCtl (.fence d)
    if d < 56 ∧ d % 7 < 4 then
      match (s2.quad (4 * (d / 7) + d % 7)).holder with
      | some c => s2.beginSave c 3 .saved
      | none => s2
    else s2

/-- A recovery begins (a requested reset names no unit: UNIT is the domain's first, so that it gives a compute die's group):
the record opens and the dump starts, unless the host asked for the reset (R351, R349). -/
def recover (s : State) (r : FaultRecord) (d : Nat) (off : Bool) : State :=
  let o := s.openFault { r with
    level := 1, domain := d, die := recordDie d, epochBefore := (s.dom d).epoch.toNat,
    unit := if r.kind = 8 then ((domainUnits d).head?).getD 0 else r.unit }
  let s1 := o.1.fenceDom d o.2 1 off
  if r.kind = 8 then s1 else s1.autoDump o.2 d

/-- An engine has hung (R336 to R338): its domain is fenced and the context it names, if any, is torn down. In a domain that
is fenced or resetting already, the expiry is added to the open record (R340). -/
def hang (s : State) (d u cls : Nat) : State :=
  if s.variant.domain d = false ∨ (domainUnits d).contains u = false then s
  else
    let cx := s.hungContext d u
    let h := s.hungHandle d u
    let tear := fun (s : State) => match cx with
      | some c => s.startTeardown c
      | none => s
    let note := fun (s : State) =>
      if d < 56 ∧ d % 7 < 4 ∧ u < 4096 then s.setArr u { s.arr u with hangs := (s.arr u).hangs ++ [s.supTime] } else s
    match (s.dom d).state with
    | .opened =>
      let r := { FaultRecord.blank with kind := 1, cls := cls, unit := u, context := h, flags := b2n cx.isSome }
      let s1 := ((note (tear s)).recover r d false).raiseEv evFlt 0
      match s1.watched d with
      | some c => if cls = 4 then s1.rollBack c else s1
      | none => s1
    | .fenced | .resetting =>
      let id := (s.dom d).record
      let s1 := if (s.fault id).any fun r => r.context != 0 && r.context != h && cx.isSome then (tear s).dumpContext id d u h else tear s
      (s1.modFault id fun r =>
        if r.context = 0 then { r with context := h, flags := r.flags ||| b2n cx.isSome } else r).raiseEv evFlt 0
    | _ => s

/-- A reset that the host or firmware asks for (R340). -/
def requestReset (s : State) (d : Nat) (off : Bool) : State :=
  if s.variant.domain d = false ∨ d = 78 ∨ (s.dom d).state ≠ .opened then s
  else s.recover { FaultRecord.blank with kind := 8 } d off

/-- A die has received the fence notice. -/
def fenceNoticed (s : State) (d die : Nat) : State :=
  let x := s.dom d
  if x.state = .fenced ∧ s.variant.die die = true ∧ x.fenceAcks.contains die = false then
    s.setDom d { x with fenceAcks := x.fenceAcks ++ [die] }
  else s

/-! ### Steps 3 and 4: the drain ends, the reset starts -/

/-- The context whose array state still stands on a quadrant at the end of the drain: its save is ended for it when the host
asked for the reset, else the context is torn down as collateral (R338), as it is when its group has tripped (R363). One whose restore
was under way has its image. -/
def drainHolder (s : State) (k : Nat) (id : Nat) : State :=
  match (s.quad k).holder with
  | none => s
  | some c =>
    let x := s.ctx c
    if x.state = .restoring then
      let s1 := s.setCtx c { x with state := .saved, held := 0 }
      { s1 with quads := tmap (fun _ z => if z.holder = some c then { z with holder := none } else z) s1.quads }
    else if x.state = .saving then
      let d := quadDomain k
      if (s.dom d).requested && !(s.group (k / 4)).tripped then (s.finishDrains c).saveDone c
      else
        let h := s.ctxHandle c
        let s1 := if (s.fault id).any fun r => r.collateral != 0 && r.collateral != h then
            s.dumpContext id d (((domainUnits d).head?).getD 0) h else s
        (s1.modFault id fun r => if r.collateral = 0 then { r with collateral := h, flags := r.flags ||| 2 } else r).startTeardown c
    else s

/-- A domain of a tripped group has been switched off: with the seventh the trip is reported, and a group left off loses its
quadrants (R363). -/
def tripDone (s : State) (d : Nat) : State :=
  let g := d / 7
  if 56 ≤ d ∨ (s.group g).tripped = false ∨ ((List.range 7).all fun m => (s.dom (7 * g + m)).power == .off) = false then s
  else
    let s1 := (s.raiseEv evPwr 6).alert
    if (s1.group g).left then
      ([0, 1, 2, 3].foldl (fun (s : State) q => s.removeQuad (4 * g + q)) s1).raiseEv evPwr 10
    else s1

/-- The drain of a fenced domain ends: what is outstanding is answered, and the domain is reset, or switched off, which ends a request
for that (R356). On the hold-up store a recovery stops here (R365). -/
def drainEnd (s : State) (d : Nat) : State :=
  let x := s.dom d
  if x.state ≠ .fenced then s
  else
    let s1 := if d < 56 ∧ d % 7 < 4 then s.drainHolder (4 * (d / 7) + d % 7) x.record else s
    let since := usBetween (((s1.fault x.record).map (·.detect)).getD s1.supTime) s1.supTime
    let a := (if d < 56 ∧ d % 7 = 4 then s1.cacheDrained (d / 7) since else s1).answerOutstanding d (fun _ => true) fun c q i =>
      !s1.drainHeld c q i
    let s2 := a.1.modFault x.record fun r => { r with
      answered := satAdd 16 r.answered a.2, drainUs := usBetween r.detect s1.supTime % 2 ^ 32 }
    if x.offAfter then
      let s3 := ((s2.losePower d).modFault x.record fun r => { r with closed := true, epochAfter := x.epoch.toNat }).tripDone d
      if s3.pwr.reqDomain = d ∧ s3.pwr.reqBusy = true then { s3 with pwr := { s3.pwr with reqBusy := false, reqStatus := .ok } } else s3
    else if s2.pwr.onHoldup then s2
    else
      let s3 := s2.clearDomain d
      s3.setDom d { s3.dom d with state := .resetting, resetAt := s3.supTime }

/-! ### Steps 5 to 7 -/

/-- Whether a record's RESET_US and EPOCH_AFTER are those of a domain: the one it names, or for the package that in which the ladder
began, PD00 where none did (Table 13-8, log entry 185). -/
def timesDomain (s : State) (r : FaultRecord) (d : Nat) : Bool :=
  let first := ((s.fault r.origin).map (·.domain)).getD 0xFF
  r.domain == d || (r.domain == 0xFF && d == if first = 0xFF then 0 else first)

/-- A reset domain reports ready: its epoch advances and the epoch notice goes out (R342). -/
def resetReady (s : State) (d : Nat) : State :=
  let x := s.dom d
  if x.state ≠ .resetting ∨ x.ready = true ∨ s.pwr.onHoldup = true then s
  else
    let s1 := s.leaveReset d
    let y := s1.dom d
    ((s1.setDom d { y with ready := true, epochAcks := [] }).modFault x.record fun r =>
      if s.timesDomain r d then { r with resetUs := usBetween x.resetAt s.supTime % 2 ^ 32, epochAfter := y.epoch.toNat }
      else r).sendCtl (.epoch d y.epoch)

/-- Whether a request that a die has made, delivered at another, is outstanding to a domain: the Peristome that took it stands there, or
the address it gives lies there (R343; log entry 186). -/
def outstandingTo (s : State) (d die : Nat) (x : Delivered) : Bool :=
  let h := x.transfer.header
  rzClass h == 0 && rzSrcDie h == die && (s.accessDomains (rzDstDie h) (ofLe (x.transfer.payload.take 8)) 1).contains d

/-- A die receives the epoch notice: what it has outstanding to the domain completes with DOMAIN_RESET, no response to it matches from
then on (R343), and it acknowledges (R342). -/
def epochNoticed (s : State) (d die : Nat) : State :=
  let x := s.dom d
  if x.state = .resetting ∧ x.ready = true ∧ s.variant.die die = true ∧ x.epochAcks.contains die = false then
    let s1 := (s.answerOutstanding d (fun n => n == die) fun _ _ _ => true).1
    ({ s1 with delivered := s1.delivered.filter fun y => !s1.outstandingTo d die y } : State).setDom d { s1.dom d with
      epochAcks := x.epochAcks ++ [die] }
  else s

/-- An array that enough hang records name within the hours is retired (R352). -/
def retireHung (s : State) (id : Nat) : State :=
  match s.fault id with
  | none => s
  | some r =>
    if r.kind = 1 ∧ r.domain < 56 ∧ r.domain % 7 < 4 ∧ r.unit < 4096 then
      let recent := (s.arr r.unit).hangs.filter fun t => (s.supTime - t).toNat ≤ s.flt.hours * 3600000000000
      if s.flt.hangs ≠ 0 ∧ s.flt.hangs ≤ recent.length ∧ (s.arr r.unit).retired = false then
        (s.retire r.unit).modFault id fun r => { r with flags := r.flags ||| 16 }
      else s
    else s

/-- Whether no domain is left in the recovery of a record. -/
def recordDone (s : State) (id : Nat) : Bool :=
  !s.domains.any fun p => p.2.record == id && (p.2.state == .fenced || p.2.state == .resetting)

/-- The last domain of a package warm reset has opened: firmware is to restore the protected partition (R347). -/
def warmEnds (s : State) : State :=
  if s.flt.warm && !(s.domains.any fun p => p.2.state == .resetting || p.2.state == .fenced) then
    { s with flt := { s.flt with warm := false }, ckp := { s.ckp with restoreDue := s.ckpPtn.isSome } }
  else s

/-- Every die has acknowledged: the domain opens, and the record closes with the last of its domains. One that is switched on opens
after those it depends on, which ends a request for it (R356, R357). Events that waited for the fence are reported (R384). With PD76
the module leaves PAUSED (R408). -/
def fenceLift (s : State) (d : Nat) : State :=
  let x := s.dom d
  if x.state ≠ .resetting ∨ x.ready = false ∨
      (((List.range 12).filter s.variant.die).all fun n => x.epochAcks.contains n) = false ∨
      (x.powering = true ∧ ((powerDeps d).all fun e => s.isOpen e) = false) then s
  else
    let s1 := (s.setDom d { x with
      state := .opened, ready := false, level := 0, requested := false, powering := false, power := .on
      resets := if x.powering then x.resets else satAdd 16 x.resets 1 }).sendCtl (.clear d)
    let s2 := if x.powering then
        (if s1.pwr.reqDomain = d ∧ s1.pwr.reqBusy = true then { s1 with pwr := { s1.pwr with reqBusy := false, reqStatus := .ok } } else s1)
      else if s1.recordDone x.record then (s1.modFault x.record fun r => { r with closed := true }).retireHung x.record |>.warmEnds
      else s1
    let s3 := (if x.powering then s2 else s2.raiseEv evFlt 1).placeDetours
    let s4 := ((List.range 64).filter fun e => e != 15 && (eventDomain e == d || d == 78)).foldl (fun (s : State) e => s.evalEvent e) s3
    let s5 := match s4.watched d with
      | some c => { s4 with boot := { s4.boot with updApplied := s4.boot.updApplied ||| 2 ^ c } }
      | none => s4
    if d = 77 then s5.serveReload else if d = 76 then s5.resumeGroup else s5

/-- The fence-clear notice arrives: commands answered with RETRY_LATER are reissued, and drains that waited go on (R157,
R90). -/
def fenceCleared (s : State) (d : Nat) : State :=
  if s.isOpen d = false then s
  else
    let wait := s.contexts.flatMap fun p => (List.range 4).flatMap fun q =>
      ((s.queue p.1 q).cmds.filter fun y => !y.final && y.waitDom == some d).map fun y => (p.1, q, y.index)
    let s1 := wait.foldl (fun (s : State) x =>
      let t := (s.modCmd x.1 x.2.1 x.2.2 fun y => { y with waitDom := none }).retry x.1 x.2.1 x.2.2
      t.wake (((t.cmd x.1 x.2.1 x.2.2).map fun y => t.spans (atCmd x.1 x.2.1 y)).getD [])) s
    { s1 with arrays := tmap (fun _ x => { x with drains := x.drains.map fun t => { t with waiting := false } }) s1.arrays }

/-! ### The end of a context (R251) -/

/-- Whether a domain that a context's teardown touches is being reset, so that it waits: a quadrant's, the SRAM or fabric of one
of its base dies, where its window is zeroed and its queues write their records, that of a DMA engine that works for it, or that of
the unit whose hang has torn it down. -/
def tornWaits (s : State) (c : Nat) : Bool :=
  let k := s.ctx c
  ((members k.quads 32).map quadDomain ++ (k.dies.flatMap fun n => [sramDomain n, fabricDomain n]) ++
    ((s.dmas.filter fun p => p.2.busy && p.2.ctx == c).map fun p => engineDomain p.1) ++
    (s.flt.records.filter fun r => !r.closed && r.context == s.ctxHandle c).map (·.domain)).any fun d =>
    let st := (s.dom d).state
    st == .fenced || st == .resetting

/-- The teardown of a context ends (Table 9-10), drains that have begun ending first (R87). Destroy requests that waited for it find a stale handle; a serving instance
gets its context back (R285). -/
def tornDown (s : State) (c : Nat) : State :=
  let k := s.ctx c
  if k.state ≠ .teardown ∨ s.tornWaits c = true then s
  else
    let h := s.ctxHandle c
    let s1 := ((s.finishDrains c).tearDown c).serveTeardown c k
    k.destroyAt.foldl (fun (s : State) a => s.ctxAnswer a .handleStale 0 h 0) s1

/-! ### Escalation (R345 to R348) -/

/-- A record closes as its level hands over to the next (R351): the reset that it tells of has failed. A hang counts then (R352). -/
def levelFails (s : State) (d old : Nat) : State :=
  if (s.fault old).any fun r => !r.closed then
    (s.modFault old fun r => { r with
      closed := true, epochAfter := r.epochBefore
      resetUs := if (s.dom d).state = .resetting then usBetween (s.dom d).resetAt s.supTime % 2 ^ 32 else r.resetUs }).retireHung old
  else s

/-- The record of the level that takes over from another when a domain's reset has not completed. -/
def nextLevel (s : State) (level scope old d : Nat) : State × Nat :=
  let before := (s.fault old).getD FaultRecord.blank
  let o := s.openFault { FaultRecord.blank with
    kind := 4, level := level, domain := scope, die := if scope < 80 then recordDie scope else 11, origin := before.origin,
    unit := before.unit, context := before.context, flags := before.flags % 2, epochBefore := before.epochBefore }
  (o.1.levelFails d old, o.2)

/-- A domain's reset is overtaken by one of a higher level: the record it had, if it is another, closes. -/
def overtaken (s : State) (d id : Nat) : State := if (s.dom d).record = id then s else s.levelFails d (s.dom d).record

/-- The package warm reset (R347): PD00 to PD77 and PD79 are reset under PD78. Contexts on quadrants are torn down, those
parked stay as SAVED; links retrain, DOWN ones are tried again; an update ends (Table 16-10), as does a request to switch a domain. -/
def warmReset (s : State) (id : Nat) : State :=
  let sr := if s.pwr.reqBusy then { s with pwr := { s.pwr with reqBusy := false, reqStatus := .domainReset } } else s
  let s0 := (sr.updEnd .domainReset 0).testAbort fun _ _ => true
  let s1 := s0.contexts.foldl (fun (s : State) p =>
    match p.2.state with
    | .running | .saving | .restoring => s.startTeardown p.1
    | .parked => s.setCtx p.1 { s.ctx p.1 with state := .saved, wait := .none }
    | _ => s) s0
  let s2 : State := { s1 with
    flt := { s1.flt with warm := true }
    links := ((List.range 22).filter s1.variant.link).map fun l =>
      let x := s1.rzLink l
      (l, { x with
        state := .retrain, detour := false, holding := true, low := { x.low with bad := [] }, high := { x.high with bad := [] } }) }
  (s2.variant.domainList.filter (· != 78)).foldl (fun (s : State) d =>
    if (s.dom d).state = .off then s.setDom d { s.dom d with epoch := (s.dom d).epoch + 1 }
    else
      let t := (s.overtaken d id).clearDomain d
      t.setDom d { t.dom d with
        state := .resetting, powering := false, resetAt := t.supTime, ready := false, offAfter := false, level := 3, record := id, epochAcks := [] }) s2

/-- A batch that has changed no ownership is given up: its channels are OPEN where they were, its contexts go on in the old layout
(R250). -/
def oldLayout (s : State) (b : Batch) : State :=
  { s with
    batch := none
    channels := tmap (fun (i : Nat) (ch : Channel) =>
      if ch.state == .migrating && b.items.any fun it => it.moves.any fun m => m.1 == i then { ch with state := .opened } else ch) s.channels
    contexts := tmap (fun (c : Nat) (k : Context) =>
      if (s.batchCtxs b).any fun p => p.1 == c then k.resumed else k) s.contexts }

/-- The device reports fatal (R348). A layout batch that waits is answered first (R250). -/
def fatal (s : State) (old : Nat) : State :=
  let before := (s.fault old).getD FaultRecord.blank
  let s1 := match s.batch with
    | some b => if b.applied then s
        else ((List.range b.items.length).foldl (fun (s : State) i => s.ptnAnswer b.addr i .domainReset 0 0 0 0 0)
          (s.oldLayout b)).headAnswer b.addr .domainReset 0 0xFF (usBetween b.start s.supTime) |>.raiseEv evPtn 1
    | none => s
  let o := (s1.modFault old fun r => { r with closed := true, epochAfter := r.epochBefore }).openFault { FaultRecord.blank with
    kind := 7, level := before.level, domain := before.domain, die := before.die, unit := before.unit, origin := before.origin,
    context := before.context,
    flags := before.flags % 2 + 8, epochBefore := before.epochBefore, closed := true }
  let s2 := (({ o.1 with pins := { o.1.pins with pwrGood := false } } : State).send (.fatal o.2)).alert
  let s3 := s2.variant.domainList.foldl (fun (s : State) d =>
    s.setDom d { s.dom d with state := if d = 78 then .opened else .fatal, ready := false }) s2
  let s4 := s3.startDump o.2 s3.flt.dumpScope (s3.scopeDomains s3.flt.dumpScope before.domain)
  let s5 := s4.flt.dumps.foldl (fun (s : State) p => if p.2.ended then s else s.finishDump p.1) s4
  let s6 := s5.raiseEv evFlt 3
  { s6 with flt := { s6.flt with fatal := true } }

/-- The record of the reset of level 2 or higher that covers the whole of a scope but for one domain of it, if one runs (R346). -/
def coveredBy (s : State) (d : Nat) (set : List Nat) : Option Nat :=
  match (set.filter fun e => e != d && (s.dom e).state != .off).map s.dom with
  | [] => none
  | y :: l =>
    if (y :: l).all fun z => decide (2 ≤ z.level) && z.record == y.record && (z.state == .fenced || z.state == .resetting) then
      some y.record else none

/-- Level 2 of Table 13-5: the escalation set is fenced and reset by the same steps; one that a running reset of the level
covers is merged into it (R346). -/
def levelTwo (s : State) (d : Nat) : State :=
  let x := s.dom d
  let set := (escalationSet d).filter s.variant.domain
  let n := s.nextLevel 2 d x.record d
  match s.coveredBy d set with
  | some id =>
    let s1 := n.1.modFault n.2 fun r => { r with flags := r.flags ||| 4, mergedInto := id, closed := true }
    s1.setDom d { x with level := 2, record := id, resetAt := s.supTime }
  | none =>
    let s1 := set.foldl (fun (s : State) e =>
      let s := s.overtaken e n.2
      let y := s.dom e
      match y.state with
      | .resetting => s.setDom e { y with level := 2, record := n.2, resetAt := s.supTime, ready := false, epochAcks := [] }
      | .fenced => s.setDom e { y with level := 2, record := n.2 }
      | .opened => s.fenceDom e n.2 2 false
      | _ => s) n.1
    s1.autoDump n.2 d

/-- A reset has not completed within its window (R345): the next level begins, or the device reports fatal, as it does when the ladder is
that of PD78, which has no third level. An updated core whose reset escalates is rolled back (R409). A recovery that has stopped on the
hold-up store does not escalate (R365). -/
def escalate2 (s : State) (d : Nat) : State :=
  let x := s.dom d
  if x.state ≠ .resetting ∨ x.ready = true ∨ s.pwr.onHoldup = true then s
  else
    let s0 := match s.watched d with
      | some c => s.rollBack c
      | none => s
    if x.level = 3 ∨ (x.level = 2 ∧ (d = 78 ∨ (s.fault x.record).any fun r => r.domain == 78)) then s0.fatal x.record
    else if x.level = 2 ∨ d = 79 then
      let n := s0.nextLevel 3 0xFF x.record d
      ((n.1.warmReset n.2).autoDump n.2 0xFF).raiseEv evFlt 2
    else (s0.levelTwo d).raiseEv evFlt 2

/-- A parity error on the command or address lines (R179): the command is repeated once; a second error is a hang of the
controller. -/
def parityError (s : State) (g : Nat) : State :=
  let x := s.pc g
  if s.variant.stack (g / 32) = false ∨ s.isOpen (stackDomain (g / 32)) = false then s
  else if x.parity then (s.setPc g { x with parity := false }).hang (stackDomain (g / 32)) (8 + g / 32 % 2) 0
  else s.setPc g { x with parity := true }

/-- A detour has not been placed in time (R55): the routers of both end base dies count as hung. -/
def detourLate (s : State) (l : Nat) : State :=
  let x := s.rzLink l
  if s.variant.link l = true ∧ x.state = .down ∧ x.detour = false then
    let e := linkEnds l
    ([e.1, e.2].filter (· < 8)).foldl (fun (s : State) n => s.hang (fabricDomain n) 3 2) s
  else s

end State

/-- CONTEXT_TEARDOWN (R251). -/
def execContextTeardown (ctx : Nat) (s : State) : Host.Outcome State Fault Refusal := act s fun s => s.tornDown ctx

/-- PROGRESS_WINDOW_EXPIRY (R336). -/
def execProgressWindowExpiry (domain unit cls : Nat) (s : State) : Host.Outcome State Fault Refusal :=
  act s fun s => if unitClass domain unit = cls ∧ s.hasWork domain unit = true then s.hang domain unit cls else s

/-- FENCE_NOTICE (R340). -/
def execFenceNotice (domain die : Nat) (s : State) : Host.Outcome State Fault Refusal := act s fun s => s.fenceNoticed domain die

/-- DOMAIN_DRAIN_END (R338). -/
def execDomainDrainEnd (domain : Nat) (s : State) : Host.Outcome State Fault Refusal := act s fun s => s.drainEnd domain

/-- DOMAIN_RESET_READY (R339). -/
def execDomainResetReady (domain : Nat) (s : State) : Host.Outcome State Fault Refusal := act s fun s => s.resetReady domain

/-- EPOCH_NOTICE (R342). -/
def execEpochNotice (domain die : Nat) (s : State) : Host.Outcome State Fault Refusal := act s fun s => s.epochNoticed domain die

/-- FENCE_LIFT (R342). -/
def execFenceLift (domain : Nat) (s : State) : Host.Outcome State Fault Refusal := act s fun s => s.fenceLift domain

/-- FENCE_CLEAR_NOTICE (R157). -/
def execFenceClearNotice (domain : Nat) (s : State) : Host.Outcome State Fault Refusal := act s fun s => s.fenceCleared domain

/-- RESET_ESCALATION (R345). -/
def execResetEscalation (domain : Nat) (s : State) : Host.Outcome State Fault Refusal := act s fun s => s.escalate2 domain

/-- RESET_REQUEST (R340). -/
def execResetRequest (domain : Nat) (s : State) : Host.Outcome State Fault Refusal := act s fun s => s.requestReset domain false

/-- RESET_POWER_OFF (R340). -/
def execResetPowerOff (domain : Nat) (s : State) : Host.Outcome State Fault Refusal := act s fun s => s.requestReset domain true

/-- DUMP_NOW (R349): a host request dumps the domain of the latest fault, its escalation set, or the package. -/
def execDumpNow (s : State) : Host.Outcome State Fault Refusal :=
  act s fun s =>
    let last := (s.flt.records.getLast?).map (·.domain)
    let doms := match last with
      | some d => s.scopeDomains s.flt.dumpScope d
      | none => if s.flt.dumpScope = 2 then s.variant.domainList else []
    s.startDump 0 s.flt.dumpScope doms

/-- DUMP_EXPORT (R350). -/
def execDumpExport (buf : Nat) (s : State) : Host.Outcome State Fault Refusal := act s fun s => s.exportDump buf

/-- PROBE_TIMEOUT (R349). -/
def execProbeTimeout (domain unit : Nat) (s : State) : Host.Outcome State Fault Refusal := act s fun s => s.probeLate domain unit

/-- DUMP_END (R350). -/
def execDumpEnd (s : State) : Host.Outcome State Fault Refusal := act s fun s => s.dumpEnds

/-- HBM_PARITY_ERROR (R179). -/
def execHbmParityError (pc : Nat) (s : State) : Host.Outcome State Fault Refusal := act s fun s => s.parityError pc

/-- DETOUR_TIMEOUT (R55). -/
def execDetourTimeout (link : Nat) (s : State) : Host.Outcome State Fault Refusal := act s fun s => s.detourLate link

end Sys2Proof.Machine
end

