-- ==== Sys2Proof/Machine/Power.lean ====
section
/-! DEFINITION. Domains switched on and off (R355 to R358), thermal trips (R363), loss and return of input power (Table 14-2,
R365 to R367), the power-on reset, and wear (R368, R369). -/

namespace Sys2Proof.Machine

namespace State

/-! ### Requests to switch a domain (R356, R357) -/

/-- Whether a partition holds a resource of a domain, or the domain may not be switched off for another reason. -/
def domainHeld (s : State) (d : Nat) : Bool :=
  if d < 56 then
    let g := d / 7
    if d % 7 < 4 then s.ptns.any fun p => bitAt p.2.quads (4 * g + d % 7)
    else
      ([0, 1, 2, 3].any fun q => (s.dom (7 * g + q)).power != .off) ||
      s.ptns.any fun p => fld p.2.pcs (64 * g + 63) (64 * g) != 0 || 0 < p.2.ways.getD g 0 || 0 < p.2.scratch.getD g 0 ||
        0 < p.2.sorus.getD g 0
  else if d < 72 then s.ptns.any fun p => fld p.2.pcs (32 * (d - 56) + 31) (32 * (d - 56)) != 0
  else if d < 76 then !s.streams.isEmpty
  else true

/-- The outcome of a request in `PWR_DOM_RESULT`. -/
def domResult (s : State) (d : Nat) (busy : Bool) (st : Status) : State :=
  { s with pwr := { s.pwr with reqDomain := d, reqBusy := busy, reqStatus := st } }

/-- What answers a request for a domain without acting: one runs, the domain is absent, or it is fenced or resetting. -/
def domRefused (s : State) (d : Nat) : Option Status :=
  if s.variant.domain d = false then some .unitAbsent
  else if (s.dom d).state = .fenced ∨ (s.dom d).state = .resetting then some .retryLater
  else none

/-- A group that a trip left off returns when the host asks for it (R363). -/
def groupReturns (s : State) (d : Nat) : State :=
  if d < 56 ∧ ((s.group (d / 7)).left = true ∨ (s.group (d / 7)).tripped = true) then
    s.setGroup (d / 7) { s.group (d / 7) with left := false, tripped := false }
  else s

/-- Whether a stack's group, whose shared domains it depends on, is off after a trip: a request for the stack does not return it (R363,
log entry 187). -/
def stackLeftOff (s : State) (d : Nat) : Bool := decide (56 ≤ d ∧ d < 72) && s.tripOff d

/-- A domain is to be switched on, after those it depends on: the request ends when it opens. -/
def domOn (s : State) (d : Nat) : State :=
  if 80 ≤ d then s
  else if s.pwr.reqBusy then { s with pwr := { s.pwr with reqStatus := .retryLater } }
  else
    match s.domRefused d with
    | some st => s.domResult d false st
    | none =>
      if s.stackLeftOff d then s.domResult d false .refusedInfeasible
      else if (s.dom d).power ≠ .off then s.domResult d false .ok
      else ((s.groupReturns d).switchOn d).domResult d true .ok

/-- Steps 1 to 3 of Table 13-3 for a domain that is to be switched off (R357): its record opens, it is fenced and drained. -/
def fenceOff (s : State) (d : Nat) : State := s.recover { FaultRecord.blank with kind := 8 } d true

/-- A domain is to be switched off: it is fenced, and its rail is gated when the drain ends. -/
def domOff (s : State) (d : Nat) : State :=
  if 80 ≤ d then s
  else if s.pwr.reqBusy then { s with pwr := { s.pwr with reqStatus := .retryLater } }
  else
    match s.domRefused d with
    | some st => s.domResult d false st
    | none =>
      if s.domainHeld d then s.domResult d false .refusedInfeasible
      else if (s.dom d).power = .off then s.domResult d false .ok
      else (s.fenceOff d).domResult d true .ok

/-- A quadrant or stack domain has belonged to no partition for 100 ms (R358). -/
def autoOff (s : State) (d : Nat) : State :=
  if s.pwr.autoOff = true ∧ s.variant.domain d = true ∧ (d < 56 ∧ d % 7 < 4 ∨ 56 ≤ d ∧ d < 72) ∧ (s.dom d).state = .opened ∧
      (s.dom d).power ≠ .off ∧ s.domainHeld d = false then s.fenceOff d
  else s

/-! ### Thermal trips (R363) -/

/-- One domain of a tripped group: it is to be switched off when its drain ends; one whose logic is being reset at once. -/
def tripDom (s : State) (d : Nat) : State :=
  let x := s.dom d
  match x.state with
  | .opened => if x.power = .off then s else s.fenceOff d
  | .fenced => s.setDom d { x with offAfter := true }
  | .resetting => (s.overtaken d 0).losePower d
  | _ => s

/-- A junction has held 110 °C for 1 ms: the group trips; the second time within an hour it is left off. -/
def trip (s : State) (g : Nat) : State :=
  let x := s.group g
  if s.variant.group g = false ∨ x.tripped = true ∨ ((List.range 7).all fun m => (s.dom (7 * g + m)).power == .off) = true then s
  else
    let again := x.lastTrip.any fun t => decide ((s.supTime - t).toNat ≤ 3600000000000)
    let s1 := s.setGroup g { x with tripped := true, left := again, lastTrip := some s.supTime, hot := true }
    ((((List.range 7).foldl (fun (s : State) m => s.tripDom (7 * g + m)) (s1.lowerCeil g 0)).tripDone (7 * g))).evaluate

/-- 10 s after a trip: with the inlet below INLET_MAX the group is switched on at OP0. -/
def tripRestart (s : State) (g : Nat) : State :=
  let x := s.group g
  if s.variant.group g = true ∧ x.tripped = true ∧ x.left = false ∧ s.pwr.inlet < s.pwr.inletMax ∧
      ((List.range 7).all fun m => (s.dom (7 * g + m)).power == .off) = true then
    let s1 := s.setGroup g { x with tripped := false, ceil := 0 }
    ([6, 5, 4, 0, 1, 2, 3].foldl (fun (s : State) m => s.powerStart (7 * g + m)) s1).evaluate
  else s

/-! ### Input power (Table 14-2) -/

/-- The wear store is written (R369). -/
def storeWear (s : State) : State :=
  { s with pwr := { s.pwr with
      wearStore := (s.variant.domainList.filter (· < 78)).map fun d => (d, (s.dom d).stress, (s.dom d).wear) } }

/-- Steps 1 to 3 (a checkpoint that is not durable yet will not be, R329): the rails go to the store, every CEIL to OP0, dispatch stops, borrowings and an update end, the checkpoint
controller writes its POWER_LOSS record. -/
def inputLoss (s : State) : State :=
  if s.pwr.onHoldup then s
  else
    let s1 := (({ s with
      pwr := { s.pwr with onHoldup := true, holding := false, heldOff := [] }
      pins := { s.pins with pwrGood := false } } : State).raiseEv evPwr 0).alert
    let s2 := ((s1.lowerCeils 0).testAbort fun _ _ => true).updEnd .domainReset 0
    let shards := (s2.ckp.shards.filter fun x => x.sent && !x.acked).length
    let s3 := if s2.ckptRuns then (if shards = 0 then s2.ckptEnd false else s2.setCkp { s2.ckp with cut := true }) else s2
    let step := match s3.ckpPtn with
      | some p => ((s3.ckptCtxs p).map fun c => (s3.ctx c).step.toNat).foldl Nat.max 0
      | none => 0
    (s3.logPut 11 0 0 step (leBytes 2 shards)).evaluate

/-- Steps 4 and 5: the caches are written back, the wear store is written, PD00 to PD77 are switched off with every stack in self-refresh,
and the store holds PD78, PD79 and the stacks. A request to switch a domain off is done, one to switch it on is not. -/
def holdStep (s : State) : State :=
  if s.pwr.onHoldup = false ∨ s.pwr.holding = true then s
  else
    let ds := s.variant.domainList.filter fun d => d < 78 && (s.dom d).power != .off
    let s1 := ds.foldl (fun (s : State) d => s.losePower d) (s.writeBack fun _ => true).storeWear
    let ended : Status := if s.pwr.reqBusy = false then s.pwr.reqStatus else if (s.dom s.pwr.reqDomain).powering then .domainReset else .ok
    { s1 with pwr := { s1.pwr with holding := true, heldOff := ds, reqBusy := false, reqStatus := ended } }

/-- One domain that the hold-up steps switched off is switched on; a stack's PHY trains. -/
def powerBack (s : State) (d : Nat) : State :=
  let s1 := s.powerUp d
  if 56 ≤ d ∧ d < 72 then s1.trainStack (d - 56) else s1

/-- Input has returned (R366): the steps complete, what they switched off is switched on, and the package warm reset runs. A device
that has reported fatal stays so until its power-on reset (R348). -/
def inputReturn (s : State) : State :=
  if s.pwr.onHoldup = false then s
  else if s.flt.fatal then
    let s1 := s.holdStep
    { s1 with pwr := { s1.pwr with onHoldup := false, holding := false } }
  else
    let s1 := s.holdStep
    let s2 := s1.pwr.heldOff.foldl (fun (s : State) d => s.powerBack d) s1
    let o := s2.openFault { FaultRecord.blank with kind := 8, level := 3, domain := 0xFF, die := 11 }
    let s3 := o.1.warmReset o.2
    ({ s3 with
      pwr := { s3.pwr with onHoldup := false, holding := false, heldOff := [] }
      pins := { s3.pins with pwrGood := true } } : State).raiseEv evPwr 1

/-- The power-on reset of every domain (R366, R421). What the module's own stores keep stays: the flash, the fuses, the power-on
count, the wear store; and what lies outside: host memory, pins. HBM and SRAM contents are lost. -/
def powerOnReset (s : State) : State :=
  let z := State.reset
  let b := s.boot
  { z with
    variant := s.variant
    pending := s.pending
    free := s.free + 1
    mem := ((s.mem.undefine 0 (2 ^ 64) s.free).undefine (2 ^ 68) (2 ^ 80) s.free).undefine (2 ^ 84) (2 ^ 85) s.free
    pwr := { z.pwr with wearStore := s.pwr.wearStore }
    boot := { z.boot with
      boots := b.boots, flashTables := b.flashTables, rootHash := b.rootHash, revoke := b.revoke, svnCount := b.svnCount,
      serial := b.serial, identSet := b.identSet, identKey := b.identKey, endorse := b.endorse }
    pins := { z.pins with rstN := s.pins.rstN, svcEn := s.pins.svcEn, strap := s.pins.strap } }

/-- The store falls to 2 J before input returns: the module powers off. -/
def exhausted (s : State) : State := if s.pwr.onHoldup then s.holdStep.powerOnReset else s

/-- The store's usable energy now, and at full charge (R367). -/
def charged (s : State) (joules : Nat) (full : Bool) : State :=
  let j := joules % 256
  let s1 := { s with pwr := { s.pwr with
    holdJ := j, fullJ := if full then j else s.pwr.fullJ, dispatchHeld := s.pwr.dispatchHeld && decide (j < 27) } }
  (if full = true ∧ j < 48 then s1.raiseEv evPwr 2 else s1).evaluate

/-! ### Wear (R368, R369) -/

/-- The largest `k` with `k ^ 100 * den ≤ num`, found bit by bit from the highest of `n`. -/
def root100 (num den : Nat) : Nat → Nat → Nat
  | 0, k => k
  | n + 1, k => root100 num den n (if (k + 2 ^ n) ^ 100 * den ≤ num then k + 2 ^ n else k)

/-- k of R369 in thousandths, rounded down (log entry 188), at a junction temperature in °C and a voltage in mV:
2^((Tj - 70) / 10) × 3^((V - 0.75) / 0.1), whose 100th power is 2^(10 × (Tj - 70)) × 3^(mV - 750). -/
def stressK (tj mv : Nat) : Nat :=
  root100 (1000 ^ 100 * 2 ^ (10 * (tj - 70)) * 3 ^ (mv - 750)) (2 ^ (10 * (70 - tj)) * 3 ^ (750 - mv)) (12 + tj / 10 + 2 * (mv / 100)) 0

/-- 10 s of power add 10/3,600 × k to a domain's stress hours. `stressFrac` counts 1/3,600 of 0.01 h. -/
def stressed (s : State) (d tj : Nat) : State :=
  let x := s.dom d
  if s.variant.domain d = false ∨ 78 ≤ d ∨ x.power = .off then s
  else
    let k := stressK tj (s.railNow d)
    let f := x.stressFrac + k
    s.setDom d { x with
      stress := satAdd 40 x.stress (f / 3600), stressFrac := f % 3600, kSum := x.kSum + k, kCount := x.kCount + 1 }

/-- The predicted hours to D_EOL (R369), from H in 0.01 h, D and D_EOL in 0.01 % and the sum of k in thousandths; a free value
where the last hour gave no k. -/
def eolHours (s : State) (h d dEol kSum kCount : Nat) : Nat × State :=
  if h < 10000 then (0, s)
  else if kCount = 0 then s.fresh 28
  else if d = 0 ∨ kSum = 0 then (2 ^ 28 - 1, s)
  else (Nat.min (2 ^ 28 - 1) (h * 10 * kCount * (dEol ^ 4 - d ^ 4) / (d ^ 4 * kSum)), s)

/-- The two chains of a domain are timed together: D, and the predicted end of life. -/
def measured (s : State) (d st fr : Nat) : State :=
  let x := s.dom d
  if s.variant.domain d = false ∨ 78 ≤ d ∨ x.power = .off then s
  else
    let w := Nat.min 4095 ((st - fr) * 10000 / Nat.max 1 fr)
    let e := s.eolHours x.stress w s.pwr.dEol x.kSum x.kCount
    let s1 := e.2.setDom d { x with wear := w, eolHours := e.1, kSum := 0, kCount := 0 }
    let s2 := if x.wear < s.pwr.dWarn ∧ s.pwr.dWarn ≤ w then s1.raiseEv evPwr 8 else s1
    if x.wear < s.pwr.dEol ∧ s.pwr.dEol ≤ w then s2.raiseEv evPwr 9 else s2

/-- What happens when no command waits: local times advance, and a module on its hold-up store goes on to step 4 of
Table 14-2 (log entry 2). -/
def idle (s : State) : State := (tickAll s).holdStep

end State

/-- DOMAIN_POWER_ON (R357). -/
def execDomainPowerOn (domain : Nat) (s : State) : Host.Outcome State Fault Refusal := act s fun s => s.domOn domain

/-- DOMAIN_POWER_OFF (R356). -/
def execDomainPowerOff (domain : Nat) (s : State) : Host.Outcome State Fault Refusal := act s fun s => s.domOff domain

/-- AUTO_OFF_TIMER (R358). -/
def execAutoOffTimer (domain : Nat) (s : State) : Host.Outcome State Fault Refusal := act s fun s => s.autoOff domain

/-- THERMAL_TRIP (R363). -/
def execThermalTrip (group : Nat) (s : State) : Host.Outcome State Fault Refusal := act s fun s => s.trip group

/-- TRIP_RESTART (R363). -/
def execTripRestart (group : Nat) (s : State) : Host.Outcome State Fault Refusal := act s fun s => s.tripRestart group

/-- INPUT_LOSS (R365): its steps run whatever else is in progress, a fatal report too. -/
def execInputLoss (s : State) : Host.Outcome State Fault Refusal := done s s.inputLoss

/-- INPUT_RETURN (R366). -/
def execInputReturn (s : State) : Host.Outcome State Fault Refusal := done s s.inputReturn

/-- HOLDUP_EXHAUSTED (R366): it ends a device that has reported fatal too. -/
def execHoldupExhausted (s : State) : Host.Outcome State Fault Refusal := done s s.exhausted

/-- HOLDUP_CHARGED (R367). -/
def execHoldupCharged (joules : Nat) (full : Bool) (s : State) : Host.Outcome State Fault Refusal :=
  act s fun s => s.charged joules full

/-- STRESS_ACCUMULATE (R369). -/
def execStressAccumulate (domain tj : Nat) (s : State) : Host.Outcome State Fault Refusal := act s fun s => s.stressed domain tj

/-- WEAR_MEASURE (R368). -/
def execWearMeasure (domain stressed fresh : Nat) (s : State) : Host.Outcome State Fault Refusal :=
  act s fun s => s.measured domain stressed fresh

/-- WEAR_STORE_WRITE (R369). -/
def execWearStoreWrite (s : State) : Host.Outcome State Fault Refusal := act s fun s => s.storeWear

end Sys2Proof.Machine
end

