-- ==== Sys2Proof/Machine/Settings.lean ====
section
/-! DEFINITION. Registers that a host write and the boot manifest set alike (Table 16-2): THERMAL, WINDOWS and POLICY. A value
outside its range is a reserved encoding, and the write is ignored as a whole (R10). -/

namespace Sys2Proof.Machine

/-- The least progress window of a class in µs (Table 13-1). -/
def windowMin (c : Nat) : Nat := [20, 100, 100, 1000, 5000, 10000].getD c 0

/-- Whether a value lies in a range. -/
def within (lo hi v : Nat) : Bool := decide (lo ≤ v ∧ v ≤ hi)

namespace State

/-- `PWR_THERM_CFG`. -/
def setTherm (s : State) (v : Nat) : State :=
  let tj := fld v 7 0
  let hbm := fld v 15 8
  let inl := fld v 23 16
  let hot := fld v 31 24
  let low := fld v 41 32
  if within 50 90 tj && within 60 95 hbm && within 20 55 inl && within 90 105 hot && within 0 1000 low then
    { s with pwr := { s.pwr with tjTarget := tj, hbmTarget := hbm, inletMax := inl, tjHot := hot, valveMin := low } }
  else s

/-- `PWR_CAP`: the cap is tested at once (R360). -/
def setCap (s : State) (v : Nat) : State :=
  let c := fld v 11 0
  if within 1400 3200 c then ({ s with pwr := { s.pwr with cap := c } } : State).evaluate else s

/-- `PWR_CFG`. -/
def setPwrCfg (s : State) (v : Nat) : State := { s with pwr := { s.pwr with autoOff := bitAt v 0 } }

/-- `PWR_WEAR_CFG`. -/
def setWearCfg (s : State) (v : Nat) : State := { s with pwr := { s.pwr with dWarn := fld v 11 0, dEol := fld v 23 12 } }

/-- `FLT_WINc`. -/
def setWin (s : State) (c v : Nat) : State :=
  let w := fld v 19 0
  if within (windowMin c) 1000000 w then { s with flt := { s.flt with windows := s.flt.windows.set c w } } else s

/-- `FLT_RETIRE_CFG`. -/
def setRetire (s : State) (v : Nat) : State :=
  let h := fld v 31 16
  let q := fld v 38 32
  if 0 < h ∧ 0 < q then
    { s with flt := { s.flt with arrUe := fld v 7 0, hangs := fld v 11 8, hours := h, quadLimit := q } }
  else s

/-- `PLK_VER_CFG.ALLOW`: RWL, so written only until the boot lock is set (R398). -/
def setAllow (s : State) (v : Nat) : State :=
  if s.boot.locked = true ∨ fld v 2 0 = 0 then s else { s with plk := { s.plk with allow := fld v 2 0 } }

end State

end Sys2Proof.Machine
end

