-- ==== Sys2Proof/Machine/Boot.lean ====
section
/-! DEFINITION. Power-on boot (Table 16-4, R389 to R399) and attestation (R402, R403). -/

namespace Sys2Proof.Machine

namespace State

/-- An address that names no place: answers to a batch that no host asked for go nowhere. -/
def nowhere : Nat := 2 ^ 64 - 1

/-! ### Steps 5 and 6 -/

/-- THERMAL, WINDOWS and POLICY take effect. -/
def applySettings (s : State) (m : List Byte) : State :=
  let s1 := match recordValue m 7 with
    | some v => (((s.setTherm (le v 0 8)).setCap (le v 8 4)).setPwrCfg (le v 12 4)).setWearCfg (le v 16 4)
    | none => s
  let s2 := match recordValue m 11 with
    | some v => ((List.range 6).foldl (fun (s : State) c => s.setWin c (le v (4 * c) 4)) s1).setRetire (le v 24 8)
    | none => s1
  match recordValue m 10 with
  | some v =>
    let s3 := s2.setAllow (le v 0 1)
    { s3 with boot := { s3.boot with mirrorMin := le v 1 1, fwMin := le v 2 2 } }
  | none => s2

/-- A core's image is stored as its current one (step 4). -/
def storeImages (s : State) (m : List Byte) : State :=
  ((List.range 13).filter s.variant.core).foldl (fun (s : State) c =>
    match firmwareOf m c with
    | some f => s.setCore c { s.core c with current := f.digest, proto := f.proto }
    | none => s) s

/-- The present domains are powered on, and what the wear store keeps of them is restored (R369). RESTARTS counts from here. -/
def startDomains (s : State) : State :=
  let s1 := s.variant.domainList.foldl (fun (s : State) d => s.powerOn d) s
  let s2 := s1.pwr.wearStore.foldl (fun (s : State) w => s.setDom w.1 { s.dom w.1 with stress := w.2.1, wear := w.2.2 }) s1
  { s2 with cores := tmap (fun _ x => { x with restarts := 0 }) s2.cores }

/-- Stacks and links train: a pseudo-channel that fails is retired (R181), a link that fails is DOWN (R54, R55). -/
def trainUnits (s : State) : State :=
  let s1 := ((List.range 16).filter s.variant.stack).foldl (fun (s : State) k => s.trainStack k) s
  let n := s1.free
  let s2 := ((List.range 22).filter s.variant.link).foldl (fun (s : State) l =>
    if Config.trainingFails (512 + l) n then s.rzDown l
    else s.setRzLink l { s.rzLink l with state := .up }) s1
  { s2 with free := n + 1 }

/-- One procedure on one target, with nothing borrowed: failures retire units (R181, R352) and take links DOWN (R54). -/
def selfTestOne (s : State) (proc t : Nat) : State :=
  let mask := (Config.selfTest proc t s.free).toNat
  if mask = 0 then s
  else
    match procTarget proc with
    | some 0 => s.procEffect proc t
        { failed := true, complete := true, duration := 0, failures := 0, margin := 0, mask := mask }
    | some 1 => s.retirePc t
    | some 2 => s.rzDown t
    | _ => s

/-- The procedures of the SELFTEST record run on every present target (step 6). -/
def selfTests (s : State) (m : List Byte) : State :=
  let v := (recordValue m 9).getD []
  let s1 := (List.range (v.length / 2)).foldl (fun (s : State) i =>
    let p := le v (2 * i) 2
    match procTarget p with
    | some ty => ((List.range (targetCount ty)).filter (s.targetHere ty)).foldl (fun (s : State) t => s.selfTestOne p t) s
    | none => s) s
  { s1 with free := s1.free + 1 }

/-! ### Steps 7 to 9 -/

/-- LAYOUT is applied as a layout batch; a refused one leaves no partition (R397). -/
def applyLayout (s : State) (m : List Byte) : State :=
  match recordValue m 2 with
  | none => s
  | some v =>
    let h := slice v 0 64
    let n := le h 4 1
    let ds := (List.range n).map fun i => PtnDesc.ofBytes (slice v (64 + 256 * i) 256)
    if le h 0 4 ≠ 1 ∨ n < 1 ∨ 32 < n ∨ clearAt h [(5, 3), (0x10, 48)] = false ∨ ((s.batchCauses ds).any (·.isSome)) = true then
      s.raiseEv evBoot 5
    else (s.decideBatch nowhere ds).batchStep

/-- The group forms (R291), the mirror session opens (R326), and the graphs of the AUTOSTART jobs are read (R399). -/
def startWork (s : State) (m : List Byte) : State :=
  let s1 := match recordValue m 4 with
    | some v => s.startGroup (le v 0 2) (v.drop 8)
    | none => s
  let s2 := match recordValue m 6 with
    | some v => (s1.setCkp { s1.ckp with candidates := (List.range (v.length / 40)).map fun i => slice v (40 * i) 40 }).startMirror
    | none => s1
  let jobs := ((knownRecords m).filter fun r => r.ty == 8).map (·.value)
  let s3 : State := { s2 with boot := { s2.boot with jobs := jobs } }
  (List.range jobs.length).foldl (fun (s : State) i =>
    if bitAt (le (jobs.getD i []) 4 4) 0 then s.sendNet (.graphRead i) else s) s3

/-- The slot to boot, if one is valid: the higher SEQUENCE, A when they are equal (R395). -/
def chooseSlot (s : State) : Option Bool :=
  match s.slotReason false, s.slotReason true with
  | 0, 0 => some (decide (s.slotSequence false < s.slotSequence true))
  | 0, _ => some false
  | _, 0 => some true
  | _, _ => none

/-- Neither slot is valid: only the supervisor and Puchlink run (R396). -/
def bootFails (s : State) : State :=
  let s1 := s.powerUp 77
  let s2 := s1.setCore 11 Core.reset
  ({ s2 with boot := { s2.boot with state := 4 } } : State).alert

/-- Steps 4 to 9 with the chosen slot. -/
def bootSlot (s : State) (b : Bool) : State :=
  let m := s.slotManifest b
  let s1 : State := { s with boot := { s.boot with
    slotB := b, fallback := decide (s.slotSequence b < s.slotSequence (!b)), skipped := Nat.min 255 (skippedRecords m),
    sequence := le m 8 4, svn := le m 0xC 4, manifestDigest := sha384Nat (signedPart m) } }
  let s2 := ((s1.storeImages m).applySettings m).startDomains.trainUnits
  let s3 := ({ s2 with pins := { s2.pins with pwrGood := true } } : State).selfTests m
  let s4 : State := { s3 with boot := { s3.boot with
    network := (recordValue m 3).getD [], feed := ((recordValue m 5).map fun v => le v 0 4).getD 0 } }
  let r := (s4.applyLayout m).fresh 32
  ((({ r.2 with boot := { r.2.boot with state := 3, locked := true, elapsed := r.1 } } : State).startWork m)).evaluate

/-- Input has come up (Table 16-4): PD79 and PD78 are powered and the supervisor starts at its ROM; in service mode it does
nothing further (R426). -/
def powerOnBoot (s : State) : State :=
  if (s.dom 78).power ≠ .off then s
  else
    let s1 := (s.powerUp 79).powerUp 78
    let s2 : State := { s1 with boot := { s1.boot with
      boots := satAdd 32 s1.boot.boots 1, serviceMode := s1.pins.svcEn } }
    if s2.boot.serviceMode then s2
    else
      let s3 : State := { s2 with boot := { s2.boot with reasonA := s2.slotReason false, reasonB := s2.slotReason true } }
      match s3.chooseSlot with
      | some b => s3.bootSlot b
      | none => s3.bootFails

/-! ### Jobs that start at boot (R399) -/

/-- The graph of a job has been read, or could not be read within 10 s. -/
def autostart (s : State) (j : Nat) (graph : Option (List Byte)) : State :=
  match s.boot.jobs[j]? with
  | none => s
  | some v =>
    if s.boot.state ≠ 3 ∨ bitAt (le v 4 4) 0 = false ∨ bitAt s.boot.jobStarted j = true then s
    else
      match graph with
      | some g =>
        if sha384 g = slice v 64 48 then
          let s1 : State := { s with boot := { s.boot with jobStarted := s.boot.jobStarted ||| 2 ^ j } }
          let s2 := (Config.graphContexts g).foldl (fun (s : State) d =>
            s.createFrom nowhere (slice d 0 0x28 ++ slice v 8 8 ++ slice d 0x30 80)) s1
          (Config.graphStreams g (slice v 112 64)).foldl (fun (s : State) d => s.openFrom nowhere (some d.2) (slice d.1 0 128)) s2
        else s.raiseEv evBoot 6
      | none => s.raiseEv evBoot 6

/-! ### Attestation (R403) -/

/-- A request's completion (Table 16-8). -/
def attAnswer (s : State) (a : Nat) (st : Status) (start : DWord) : State :=
  (s.post (a + 0x70) (leBytes 1 st.code ++ zeros 3 ++ leBytes 4 (usBetween start s.supTime) ++ zeros 8)).raiseEv evSec
    (if st = .ok then 0 else 1)

/-- A request for a report. -/
def attRequest (s : State) (a : Nat) : State :=
  if a % 128 ≠ 0 ∨ s.requestOk a 128 = false then s
  else
    let l := s.fwRead a 128
    match refusal [(le l 0 4 != 1, .versionUnsupported, 0), (!s.isOpen 77 || s.boot.supRestart, .retryLater, 0),
      (decide (4 ≤ s.boot.atts.length), .refusedCapacity, 0),
      (!s.requestOk (le l 8 8) 976 || !clearAt l [(4, 4), (0x40, 48)], .refusedInfeasible, 0)] with
    | some (st, _) => s.attAnswer a st s.supTime
    | none => { s with boot := { s.boot with atts := s.boot.atts ++ [(a, s.supTime, l)] } }

/-- The security block has signed the report at the head of the queue. -/
def attDone (s : State) : State :=
  match s.boot.atts with
  | [] => s
  | (a, t, l) :: rest =>
    if s.isOpen 77 then
      let r := s.ownReport (slice l 0x10 48)
      (({ r.2 with boot := { r.2.boot with atts := rest } } : State).post (le l 8 8) r.1).attAnswer a .ok t
    else s

end State

/-- POWER_ON_BOOT (R397). -/
def execPowerOnBoot (s : State) : Host.Outcome State Fault Refusal := act s fun s => s.powerOnBoot

/-- JOB_AUTOSTART (R399). -/
def execJobAutostart (job : Nat) (graph : Option (List Byte)) (s : State) : Host.Outcome State Fault Refusal :=
  act s fun s => s.autostart job graph

/-- ATTESTATION_REQUEST (R403). -/
def execAttestationRequest (addr : Nat) (s : State) : Host.Outcome State Fault Refusal := act s fun s => s.attRequest addr

/-- ATTESTATION_REPORT_DONE (R403). -/
def execAttestationReportDone (s : State) : Host.Outcome State Fault Refusal := act s fun s => s.attDone

end Sys2Proof.Machine
end

