-- ==== Sys2Proof/Machine/Elementwise.lean ====
section
/-! DEFINITION. The edge columns and the reduction units: ELTWISE, CONVERT, REDUCE, TOPK (R85, R86, R113 to R118, R126 to
R131, R167 to R170). -/

namespace Sys2Proof.Machine

/-! ### Element-wise operations (Table 6-9, R129) -/

/-- An FP32 value under the subnormal rule of TX2 emulation (Table 5-10). -/
def subRule (tx2 : Bool) (v : Num) : Num := if tx2 then fmtFp32.flushSub v else v

/-- The result of an operation on FP32 sources. -/
def eltOp (op cond : Nat) (a b c : Num) : Num :=
  match op with
  | 0 => a
  | 1 => fadd a b
  | 2 => fsub a b
  | 3 => fmul a b
  | 4 => ffma a b c
  | 5 => fmax a b
  | 6 => fmin a b
  | 7 => if fcond cond a b then c else a
  | 8 => fexp a
  | 9 => fln a
  | 10 => frcp a
  | _ => frsqrt a

/-- The waves of one element operation (R85). -/
def eltWaves (op : Nat) : Nat := if op < 8 then 1 else 4

/-- What a draw mode makes of a result (R137, R167, Table 5-10). Table 5-6 gives no value for a dropped element: it becomes +0
(DESIGN CHOICE, log entry 149). -/
def eltDraw (tx2 : Bool) (mode out : Nat) (p : Param) (v : Num) : Num :=
  let f := subRule tx2
  match mode with
  | 1 => if fld out 63 40 ≥ p.drop then f (fmul v (f (p.c.getD 2 Num.zero))) else Num.zero
  | 2 => f (fadd v (f (fmul (f (p.c.getD 3 Num.zero)) (uniformNoise out))))
  | 3 => f (fadd v (f (fmul (f (p.c.getD 3 Num.zero)) (bellNoise out))))
  | _ => v

/-- The elements of an extent as (tile, row in tile, columns of the tile): every row of every tile. -/
def extentRows (m n : Nat) : List (Nat × Nat × Nat) :=
  (List.range (tileCount m n)).flatMap fun t =>
    let p := tilePos m t
    (List.range (Nat.min 16 (m - 16 * p.1))).map fun i => (t, i, Nat.min 256 (n - 256 * p.2))

namespace State

/-- The destination that a selector names for tile `t`: the free half of the tile's array for the row store; a Sorus slot
for all tiles. -/
def selDest (s : State) (x : At) (v t slot : Nat) : Dest :=
  let a := (dealt (s.cmdArrays x.c x.q) t).1
  match selOf v with
  | .desc i =>
    match s.desc x i [0, 1, 2] with
    | some d =>
      if d.kind = 0 then .mem d
      else if d.kind = 1 then .store a ((s.freeHalf a).getD 1)
      else
        match s.chanOf d.handle with
        | some ch => .slot ch slot d.addr (((tget s.channels ch).map (·.tokenBytes)).getD 0)
        | none => .nowhere
    | none => .nowhere
  | .rowStore => .store a ((s.freeHalf a).getD 1)
  | _ => .nowhere

/-- Whether the row-store halves that a destination selector names stand free. -/
def storeFree (s : State) (x : At) (v tiles : Nat) : Bool :=
  !s.namesStore x v || (s.arraysUsed x tiles).all fun a => (s.freeHalf a).isSome

/-- The slots and row-store halves that sources let go, and the halves that the destination fills, when a command ends; `s0` is
the state before it ran. -/
def endStores (s s0 : State) (x : At) (srcs : List Nat) (dst tiles : Nat) : State :=
  let s1 := srcs.foldl (fun (s : State) v => (s.releaseSlots x v tiles).setHalves (s0.storesRead x v tiles) Half2.reset) s
  s1.setHalves (s0.storesWritten x dst tiles) { loaded := true, owner := x.c, load := none }

/-- What `ARR_STAT` reports of the element-wise instructions that a command ran, one for each tile (R70). -/
def noteElt (s : State) (x : At) (tiles : Nat) : State :=
  (s.arraysUsed x tiles).foldl (fun (s : State) a =>
    s.setArr a { s.arr a with lastStatus := .ok, lastRetries := 0, lastDone := s.groupTime (a / 512) }) s

/-- The Sorus channel that a selector names. -/
def pickChan (s : State) (x : At) (v : Nat) : Option Nat :=
  match selOf v with
  | .desc i => (s.desc x i [2]).bind fun d => s.chanOf d.handle
  | _ => none

/-- Edge-cell waves of a command over its extent, on the quadrant of each tile's array (`ARR_QCNT`, c = 3): a wave takes the
16 elements of a column of the tile (R85). With `free` a tile takes one wave (R167). -/
def noteEdge (s : State) (x : At) (m n waves : Nat) (free : Bool) : State :=
  (List.range (tileCount m n)).foldl (fun s t =>
    let k := (dealt (s.cmdArrays x.c x.q) t).1 / 128
    let y := s.quad k
    let w := if free then 1 else waves * Nat.min 256 (n - 256 * (tilePos m t).2)
    s.setQuad k { y with edgeWaves := y.edgeWaves + BitVec.ofNat 64 w }) s

/-- Write the rows of an extent to a destination: `val t i j` is the encoding and value of an element. The command's record
collects its counts (R131, Table 6-20). -/
def putExtent (s : State) (x : At) (idx : Word) (dst m n fmt slot : Nat) (val : Nat → Nat → Nat → Nat × Num) : State :=
  let k := s.ctx x.c
  let rows := (extentRows m n).map fun r => (r, (List.range r.2.2).map fun j => val r.1 r.2.1 j)
  let s1 := rows.foldl (fun s r =>
    let t := r.1.1
    let p := tilePos m t
    let die := arrDie (dealt (s.cmdArrays x.c x.q) t).1
    let d := s.selDest x dst t slot
    let vs := r.2.map (·.1)
    match d with
    | .store _ _ => s.putDest x.c x.q idx k.ptn die d fmt r.1.2.2 r.1.2.1 0 vs
    | _ => s.putDest x.c x.q idx k.ptn die d fmt n (16 * p.1 + r.1.2.1) (256 * p.2) vs) s
  let vals := rows.flatMap fun r => r.2.map (·.2)
  let wrote := match selOf dst with
    | .none => false
    | _ => true
  s1.modCmd x.c x.q idx fun y => { y with
    tflags := b2n (wrote && vals.any fun v => !v.isFinite), count := if wrote then vals.length else 0,
    maxExp := if wrote && x.b 8 then maxExpOf vals else -128,
    result := some .ok }

/-- The value of an ELTWISE source in FP32 (R85): rounded with nearest-even. -/
def eltSource (s : State) (x : At) (v fmt m t i j : Nat) (p : Param) : Num :=
  subRule (s.ctx x.c).tx2 (f32 (s.sourceNum x v fmt m t i j p))

/-- Whether a selector of a word names a Sorus slot, where results are rounded to nearest-even and draw nothing (R29). -/
def intoSorus (s : State) (x : At) (lo : Nat) : Bool :=
  match selOf (x.f (lo + 9) lo) with
  | .desc i => (s.desc x i [2]).isSome
  | _ => false

/-- ELTWISE runs over its extent (R167). -/
def runEltwise (s : State) (idx : Word) (x : At) (p : Param) (slot : Nat) : State :=
  let op := x.f 20 16
  let tiles := tileCount p.rows p.cols
  let draws := x.f 93 92 != 0 || x.b 8 || x.f 79 78 == 2
  let s0 := s.takeDraws x.c x.q idx (if draws then p.rows * p.cols else 0)
  let tx2 := (s0.ctx x.c).tx2
  let d := s0.drawOf x ((s0.cmd x.c x.q idx).getD (cmdNew idx 0 0)) (x.b 94) (x.f 117 95) 118 p.cols (s0.queueDie x.c x.q)
  let val := fun t i j =>
    let src := fun v => s0.eltSource x v (x.f 73 70) p.rows t i j p
    let pos := tilePos p.rows t
    let out := d.out (16 * pos.1 + i) (256 * pos.2 + j) (tileOrd p.rows p.cols t i j)
    let r := subRule tx2 (eltOp op (x.f 91 89) (src (x.f 30 21)) (src (x.f 40 31)) (src (x.f 50 41)))
    let r := eltDraw tx2 (x.f 93 92) out p r
    convertTo (x.f 77 74) (rndOf (x.b 8) (x.f 79 78) tx2 out) (x.b 80) (toSigned 8 (x.f 88 81)) tx2 r
  let free := x.f 60 51 == 0 && op == 0 && (match selOf (x.f 30 21) with
    | .slot _ r => r
    | _ => false)
  let s1 := s0.putExtent x idx (x.f 60 51) p.rows p.cols (x.f 77 74) slot val
  let s2 := s1.endStores s0 x [x.f 30 21, x.f 40 31, x.f 50 41] (x.f 60 51) tiles
  (s2.noteElt x tiles).noteEdge x p.rows p.cols (eltWaves op) free

/-- CONVERT runs over its extent (R168): the source value converted once; from P48 into a Sorus slot with nearest-even (R29). -/
def runConvert (s : State) (idx : Word) (x : At) (p : Param) (slot : Nat) : State :=
  let tiles := tileCount p.rows p.cols
  let draws := (x.b 8 || x.f 45 44 == 2) && !s.intoSorus x 26
  let s0 := s.takeDraws x.c x.q idx (if draws then p.rows * p.cols else 0)
  let tx2 := (s0.ctx x.c).tx2
  let d := s0.drawOf x ((s0.cmd x.c x.q idx).getD (cmdNew idx 0 0)) (x.b 73) (x.f 96 74) 64 p.cols (s0.queueDie x.c x.q)
  let slotSrc := match selOf (x.f 25 16) with
    | .slot _ _ => true
    | _ => false
  let toSlot := (slotSrc || x.f 39 36 == 14) && (s0.pickChan x (x.f 35 26)).isSome
  let val := fun t i j =>
    let v := s0.sourceNum x (x.f 25 16) (x.f 39 36) p.rows t i j p
    let v := if slotSrc then subRule tx2 (f32 v) else v
    let pos := tilePos p.rows t
    let out := d.out (16 * pos.1 + i) (256 * pos.2 + j) (tileOrd p.rows p.cols t i j)
    let rnd := if toSlot then .nearest else rndOf (x.b 8) (x.f 45 44) tx2 out
    convertTo (x.f 43 40) rnd (x.b 46) (toSigned 8 (x.f 54 47)) tx2 v
  let s1 := s0.putExtent x idx (x.f 35 26) p.rows p.cols (x.f 43 40) slot val
  ((s1.endStores s0 x [x.f 25 16] (x.f 35 26) tiles).noteElt x tiles).noteEdge x p.rows p.cols 1 false

/-- Whether the edge columns of the arrays of a command's tiles have ended the drains issued before it (R86). -/
def edgeFree (s : State) (x : At) (tiles : Nat) : Bool := (s.arraysUsed x tiles).all fun a => (s.arr a).drains.isEmpty

/-- A command whose destination may be a Sorus slot runs once its channel, its row stores and the edge columns stand ready. -/
def startEdge (s : State) (c q : Nat) (idx : Word) (x : At) (dst : Nat) (srcs : List Nat) (p : Param)
    (run : State → Nat → State) : State :=
  let tiles := tileCount p.rows p.cols
  let ready := srcs.all fun v => s.storeReady x v tiles
  let chan := s.pickChan x dst
  let credit := chan.all fun i => s.chanActs i true && s.canFill i
  let s1 := if ready && s.storeFree x dst tiles && s.edgeFree x tiles && credit then s.edgeWaited c q idx (s.arraysUsed x tiles)
    else s.edgeWaits c q idx (!ready) (!(s.storeFree x dst tiles && credit)) (!s.edgeFree x tiles)
  if ready && s.storeFree x dst tiles && s.edgeFree x tiles then
    match chan with
    | some i => s1.withChan c q idx i true (s.canFill i) fun s =>
        let r := s.fillSlot i
        run r.2 r.1
    | none => run s1 0
  else s1

/-! ### Reductions (R113 to R115, R169) -/

end State

/-- The pre-op of REDUCE (R169), its subnormals zeros in TX2 emulation (Table 5-10). -/
def preOp (tx2 : Bool) (code : Nat) (a c x : Num) : Num :=
  let f := subRule tx2
  let y := f (f32 x)
  match code with
  | 1 => f (fexp (f (fsub (f (fmul y (f a))) (f c))))
  | 2 => f (fdiv y (f a))
  | 3 => f (fexp (f (fsub (f (fdiv y (f a))) (f c))))
  | _ => x

/-- A reduce result as it stands: the value, FLAGS but NONFINITE, the index; `any` says that an element has taken part. -/
structure RedAcc where
  v : Num
  tie : Bool
  ovf : Bool
  index : Int
  any : Bool
  deriving DecidableEq, Repr

/-- One element joins a sum (R113), in P48 in an emulated context too (DESIGN CHOICE, log entry 193). -/
def redSum (r : RedAcc) (x : Num) : RedAcc :=
  let y := r.v.add x
  { r with v := fmtP48.rne y, ovf := r.ovf || fmtP48.overflows y, any := true }

/-- The order of R114: −1 when `a` ranks below `b`; every NaN ranks equal, above all for max and below all for min. -/
def redCmp (isMax : Bool) (a b : Num) : Int :=
  match a.isNan, b.isNan with
  | true, true => 0
  | true, false => 1
  | false, true => -1
  | false, false => if isMax then Num.cmp a b else -(Num.cmp a b)

/-- One element, or an INIT record, joins a max or min (R114); `ovf` says that its unscaled value exceeds P48 (Table 4-5). -/
def redRank (isMax : Bool) (r : RedAcc) (x : Num) (i : Int) (tie ovf : Bool) : RedAcc :=
  if r.any = false then { v := x, tie := tie, ovf := ovf, index := i, any := true }
  else
    let c := redCmp isMax x r.v
    if c > 0 then { r with v := x, tie := tie, ovf := ovf, index := i }
    else if c = 0 then
      (if i < r.index then { r with v := x, tie := true, ovf := ovf, index := i } else { r with tie := true })
    else r

/-- The record of 16 bytes at position `n` of a LAYOUT 3 operand (R431). -/
def recordOff (d : Desc) (n : Nat) : Nat :=
  let cols := Nat.max 1 d.cols
  d.addr + n / cols * d.pitch 0 + n % cols * 16

namespace State

/-- A record of a LAYOUT 3 operand. -/
def record (s : State) (ptn die : Nat) (d : Desc) (n : Nat) : List Byte := s.readBytes ptn die (recordOff d n) 16

/-- The tile, row and column in tile of element (r, n) of an extent of `m` rows. -/
def elementAt (m r n : Nat) : Nat × Nat × Nat := (n / 256 * rowTiles m + r / 16, r % 16, n % 256)

/-- One result of a REDUCE: its elements in ascending position, from the INIT record on (R113, R114). An INIT record of a max or
min with EMPTY set takes no part, and the TIE of an INIT record that stays the winner is kept, which the spec does not say (DESIGN
CHOICE, log entry 151). OVERFLOW of a max or min is that of the winner (Table 4-5). -/
def reduceOne (s : State) (x : At) (p : Param) (n : Nat) : RedAcc :=
  let k := s.ctx x.c
  let die := s.queueDie x.c x.q
  let op := x.f 17 16
  let count := if x.b 18 then p.rows else p.cols
  let c := match s.opd x 47 [0] with
    | some d => f32 (p48Of ((s.record k.ptn die d n).take 6))
    | none => p.c.getD 1 Num.zero
  let elem := fun i =>
    let e := if x.b 18 then elementAt p.rows i n else elementAt p.rows n i
    preOp k.tx2 (x.f 90 89) (p.c.getD 0 Num.zero) c (s.sourceNum x (x.f 28 19) (x.f 94 91) p.rows e.1 e.2.1 e.2.2 p)
  let init := (s.opd x 38 [0]).map fun d => s.record k.ptn die d n
  let start : RedAcc :=
    match init with
    | some l =>
      let fl := le l 6 1
      if op = 0 then { v := p48Of (l.take 6), tie := false, ovf := bitAt fl 3, index := -1, any := true }
      else if bitAt fl 2 then { v := Num.zero, tie := false, ovf := false, index := -1, any := false }
      else { v := p48Of (l.take 6), tie := bitAt fl 1, ovf := bitAt fl 3, index := toSigned 32 (le l 8 4), any := true }
    | none => { v := Num.zero, tie := false, ovf := false, index := -1, any := false }
  (List.range count).foldl (fun r i =>
    if op = 0 then redSum r (elem i)
    else
      let v := elem i
      redRank (op == 1) r (fmtP48.rne v) (i + x.f 88 65) false (fmtP48.overflows v)) start

/-- The record of a result (Table 4-5). A sum over no element gives its INIT value, or +0, with EMPTY clear, which the spec does
not say (DESIGN CHOICE, log entry 150). -/
def reduceBytes (op : Nat) (r : RedAcc) : List Byte :=
  if op = 0 then reduceRecord r.v false false r.ovf (-1)
  else if r.any then reduceRecord r.v r.tie false r.ovf r.index
  else reduceRecord (.inf (op == 1)) false true false (-1)

/-- REDUCE writes one record per result (R115, R169). -/
def runReduce (s : State) (c q : Nat) (idx : Word) (x : At) (p : Param) : State :=
  let k := s.ctx c
  let die := s.queueDie c q
  let tiles := tileCount p.rows p.cols
  let n := if x.b 18 then p.cols else p.rows
  match s.opd x 29 [0] with
  | some d =>
    let recs := (List.range n).map fun i => reduceBytes (x.f 17 16) (s.reduceOne x p i)
    let s1 := recs.zipIdx.foldl (fun s r => s.putBytes c q idx k.ptn die (recordOff d r.2) r.1) s
    let s2 := (s1.releaseSlots x (x.f 28 19) tiles).setHalves (s.storesRead x (x.f 28 19) tiles) Half2.reset
    s2.modCmd c q idx fun y => { y with
      tflags := recs.foldl (fun a r => a ||| le r 6 1) 0, count := n,
      maxExp := if x.b 8 then maxExpOf (recs.map fun r => p48Of (r.take 6)) else -128, result := some .ok }
  | none => s

/-! ### Top-K (R116 to R118, R170) -/

end State

/-- Insert a candidate into a list of at most `k`, in descending rank, ties to the lower index; NaN ranks above +∞. -/
def topInsert (k : Nat) (l : List (Num × Nat)) (v : Num) (i : Nat) : List (Num × Nat) :=
  let before := l.takeWhile fun e => redCmp true e.1 v > 0 || (redCmp true e.1 v == 0 && e.2 < i)
  (before ++ (v, i) :: l.drop before.length).take k

/-- A soft-target entry (Table 1-7). -/
def softEntry (logp index fl : Nat) : List Byte := leBytes 6 (logp + index % 2 ^ 24 * 2 ^ 16 + fl * 2 ^ 40)

/-- A value rounded to BF16 with nearest-even, as its encoding. -/
def bf16Bits (v : Num) : Nat := (convertTo 2 .nearest false 0 false v).1

/-- The tail of R27: ln of what the top entries leave, or TAIL_ZERO. -/
def tailEntry (ls : List Num) : Nat × Bool :=
  let m := fsub Num.one (f32 (p48Sum (ls.map fexp)))
  if Num.cmp m (.fin false 1 (-24)) < 0 then (0xFF80, true) else (bf16Bits (fln m), false)

/-- A token record of the soft-target form (R26, R118): the K best of K + 1 ranked, and the tail. With fewer than K
elements the entries that no element fills are left as zeros here. -/
def softToken (k : Nat) (ranked : List (Num × Nat)) : List Byte :=
  let best := ranked.take k
  let tail := tailEntry (best.map (·.1))
  (best.zipIdx.flatMap fun e =>
    let next := ranked[e.2 + 1]?
    let tie := next.any fun n => redCmp true n.1 e.1.1 == 0
    softEntry (bf16Bits e.1.1) e.1.2 (1 + 16 * b2n tie)) ++
  zeros (6 * (k - best.length)) ++ softEntry tail.1 0xFFFFFF (3 + 4 * b2n tail.2)

namespace State

/-- The key of a logit (Top-K): fp32(z) / T. -/
def topKey (s : State) (x : At) (p : Param) (t : Num) (r j : Nat) : Num :=
  let e := elementAt p.rows r j
  let f := subRule (s.ctx x.c).tx2
  f (fdiv (f (f32 (s.sourceNum x (x.f 31 22) (x.f 71 68) p.rows e.1 e.2.1 e.2.2 p))) (f t))

/-- The `n` best of row `r` under a value. -/
def topRow (p : Param) (n : Nat) (val : Nat → Num) : List (Num × Nat) :=
  (List.range p.cols).foldl (fun l j => topInsert n l (val j) j) []

/-- TIE over the K entries of a ranked row: an entry ranks equal to the one after it, or, for the last, to the first left
out (R118 says so of the soft-target form; R116's generic form is read alike). -/
def tied (k : Nat) (ranked : List (Num × Nat)) : Bool :=
  (ranked.take k).zipIdx.any fun e => (ranked[e.2 + 1]?).any fun n => redCmp true n.1 e.1.1 == 0

/-- The generic form (R116): K entries of an FP32 key and an INT32 index for each row. -/
def runTopGeneric (s : State) (c q : Nat) (idx : Word) (x : At) (p : Param) (d : Desc) : State :=
  let k := 8 * (x.f 21 17 + 1)
  let ptn := (s.ctx c).ptn
  let die := s.queueDie c q
  let ranked := (List.range p.rows).map fun r => topRow p (k + 1) (s.topKey x p (p.c.getD 0 Num.zero) r)
  let rows := ranked.map fun l => l.take k ++ List.replicate (k - l.length) (Num.inf true, 2 ^ 32 - 1)
  let s1 := rows.zipIdx.foldl (fun s r => s.putBytes c q idx ptn die
    (d.addr + r.2 * (if d.stride = 0 then 8 * k else d.stride))
    (r.1.flatMap fun e => leBytes 4 (f32Bits e.1) ++ leBytes 4 e.2)) s
  s1.modCmd c q idx fun y => { y with
    tflags := b2n (rows.any fun r => r.any fun e => !e.1.isFinite && e.2 != 2 ^ 32 - 1) + 2 * b2n (ranked.any (tied k)),
    count := p.rows, maxExp := if x.b 8 then maxExpOf (rows.flatMap fun r => r.map (·.1)) else -128,
    result := some .ok }

/-- The soft-target form (R117, R118): the entries and the tail of each row, into the channel's FILLING slot. The spec
states no entries beyond the row's elements when these are fewer than K: free values. -/
def runTopSoft (s : State) (c q : Nat) (idx : Word) (x : At) (p : Param) (d : Desc) (i slot : Nat) : State :=
  match tget s.channels i, s.opd x 41 [0], s.opd x 50 [0] with
  | some ch, some mr, some sr =>
    let k := ch.width
    let ptn := (s.ctx c).ptn
    let die := s.queueDie c q
    let t := f32Of ch.temperature
    let f := subRule (s.ctx c).tx2
    let rows := (List.range p.rows).map fun r =>
      let m := f32 (p48Of ((s.record ptn die mr r).take 6))
      let lse := f (fadd m (f (fln (f32 (p48Of ((s.record ptn die sr r).take 6))))))
      topRow p (k + 1) fun j => f (fsub (s.topKey x p t r j) lse)
    let s1 := if slot = Channel.noSlot then s
      else rows.zipIdx.foldl (fun s r => s.putRow c q idx (sorRow i slot ch.tokenBytes (d.addr + r.2)) 0
        (softToken k r.1) 2) s
    let s1 := if p.cols < k ∧ slot ≠ Channel.noSlot then
        (List.range p.rows).foldl (fun s r =>
          let lo := sorKey i slot ((d.addr + r) * ch.tokenBytes + 6 * p.cols)
          { s with mem := s.mem.undefine lo (lo + 6 * (k - p.cols)) s.free, free := s.free + 1 }) s1
      else s1
    s1.modCmd c q idx fun y => { y with
      tflags := b2n (rows.any fun r => (r.take k).any fun e => !e.1.isFinite) + 2 * b2n (rows.any (tied k)),
      count := p.rows, maxExp := if x.b 8 then maxExpOf (rows.flatMap fun r => (r.take k).map (·.1)) else -128,
      result := some .ok }
  | _, _, _ => s

end State

/-- ELTWISE (R167). -/
def execEltwise (ctx q : Nat) (idx : Word) (s : State) : Host.Outcome State Fault Refusal :=
  act s fun s => s.unitStart 3 ctx q idx (s.queueDomains ctx q) fun s _ x =>
    match s.param x (x.d 61) with
    | some p => s.startEdge ctx q idx x (x.f 60 51) [x.f 30 21, x.f 40 31, x.f 50 41] p fun s slot => s.runEltwise idx x p slot
    | none => s

/-- CONVERT (R168). -/
def execConvert (ctx q : Nat) (idx : Word) (s : State) : Host.Outcome State Fault Refusal :=
  act s fun s => s.unitStart 6 ctx q idx (s.queueDomains ctx q) fun s _ x =>
    match s.param x (x.d 55) with
    | some p => s.startEdge ctx q idx x (x.f 35 26) [x.f 25 16] p fun s slot => s.runConvert idx x p slot
    | none => s

/-- REDUCE (R169). -/
def execReduce (ctx q : Nat) (idx : Word) (s : State) : Host.Outcome State Fault Refusal :=
  act s fun s => s.unitStart 4 ctx q idx (s.queueDomains ctx q) fun s _ x =>
    match s.param x (x.d 56) with
    | some p =>
      let tiles := tileCount p.rows p.cols
      if s.storeReady x (x.f 28 19) tiles then (s.edgeWaited ctx q idx (s.arraysUsed x tiles)).runReduce ctx q idx x p
      else s.edgeWaits ctx q idx true false false
    | none => s

/-- TOPK (R170). -/
def execTopk (ctx q : Nat) (idx : Word) (s : State) : Host.Outcome State Fault Refusal :=
  act s fun s => s.unitStart 5 ctx q idx (s.queueDomains ctx q) fun s _ x =>
    match s.param x (x.d 59) with
    | some p =>
      let tiles := tileCount p.rows p.cols
      if !s.storeReady x (x.f 31 22) tiles then s.edgeWaits ctx q idx true false false
      else
        let s := s.edgeWaited ctx q idx (s.arraysUsed x tiles)
        let hs := s.storesRead x (x.f 31 22) tiles
        let fin := fun (s : State) => (s.releaseSlots x (x.f 31 22) tiles).setHalves hs Half2.reset
        if x.b 16 then
          match s.opd x 32 [2] with
          | some d =>
            match s.chanOf d.handle with
            | some i => s.withChan ctx q idx i true (s.canFill i) fun s =>
                let r := s.fillSlot i
                fin (r.2.runTopSoft ctx q idx x p d i r.1)
            | none => s.answer ctx q idx .handleStale
          | none => s
        else
          match s.opd x 32 [0] with
          | some d => fin (s.runTopGeneric ctx q idx x p d)
          | none => s
    | none => s

end Sys2Proof.Machine
end

