-- ==== Sys2Proof/Machine/LiveUpdate.lean ====
section
/-! DEFINITION. Live updates (R406 to R411, Tables 16-9 and 16-10). -/

namespace Sys2Proof.Machine

namespace State

/-- An update request's completion without an update: nothing changes. -/
def updRefuse (s : State) (a : Nat) (st : Status) (detail : Nat) : State :=
  (s.post (a + 0x20) (leBytes 1 st.code ++ leBytes 1 detail ++ zeros 6 ++ leBytes 1 0xFF ++ zeros 23)).raiseEv evBoot 1

/-- Why a bundle is refused (Table 16-3); the roster test does not apply (R406). -/
def bundleReason (s : State) (l : List Byte) : Nat := s.refusedFor l (fun off n => slice l off n) l.length s.boot.fwMin false

/-- The slot that a persist writes (R410): the one that does not hold the booted manifest, unless that one is valid and equals
the bundle already. -/
def persistTarget (s : State) (l : List Byte) : Bool :=
  let other := !s.boot.slotB
  if s.slotReason other = 0 ∧ signedPart (s.slotManifest other) = signedPart l then s.boot.slotB else other

/-- Whether SEQUENCE of a bundle exceeds that of the target and is at least that of the other slot. A slot that is not valid
has none. -/
def sequenceOk (s : State) (l : List Byte) : Bool :=
  let t := s.persistTarget l
  (s.slotReason t != 0 || decide (s.slotSequence t < le l 8 4)) &&
  (s.slotReason (!t) != 0 || decide (s.slotSequence (!t) ≤ le l 8 4))

/-- A reservation of a group's cyclic table falls within the next 5 ms, which are five of its frames (R241, R408). -/
def groupReserved (s : State) (g : Nat) : Bool :=
  [0, 1, 2, 3].any fun q => (List.range 64).any fun sl => (s.slotOwner (4 * g + q) sl).isSome

/-- A core's turn waits (R408). -/
def turnWaits (s : State) (c : Nat) : Bool :=
  (c < 8 && s.groupReserved c) ||
  (c == 10 && (s.ckp.state == .streaming || s.ckp.state == .sealing ||
    (s.net.state != .solo && s.net.state != .halted && s.net.state != .paused))) ||
  (c != 12 && !s.isOpen (coreDomain c))

/-- A slot is erased: its start is no manifest, and the rest reads as free values (log entry 134). -/
def eraseSlot (s : State) (b : Bool) : State :=
  let base := if b then 0x08000000 else 0
  { s with
    mem := (s.mem.undefine (flashKey (base + 128)) (flashKey (base + 2 ^ 27)) s.free).clear (flashKey base) (flashKey (base + 128))
    free := s.free + 1 }

/-- A slot is written: images at their offsets, then the manifest. -/
def writeSlot (s : State) (b : Bool) (l : List Byte) : State :=
  let base := if b then 0x08000000 else 0
  let m1 := (firmwares l).foldl (fun (m : Memory) f => m.writeAll (flashKey (base + f.offset)) (slice l f.offset f.length)) s.mem
  { s with mem := m1.writeAll (flashKey base) (slice l 0 (224 + recordsLen l)) }

/-- The update goes on: the next core's turn, which may have to wait; then the persist; then the completion. -/
def updNext (s : State) : State :=
  let b := s.boot
  match b.updTodo with
  | c :: _ =>
    if s.turnWaits c then
      let ask := c == 10 && s.net.state != .solo && s.net.state != .halted && !b.pauseAsked
      let s1 := ({ s with boot := { b with upd := .deferred, updCore := c, pauseAsked := b.pauseAsked || ask } } : State).post
        (b.updAddr + 0x20) (leBytes 1 Status.deferred.code)
      if ask then s1.sendNet (.pauseRequest s1.net.groupId s1.net.master s1.net.self s1.net.term) else s1
    else { s with boot := { b with upd := .applying, updCore := c } }
  | [] =>
    if bitAt b.updFlags 1 then ({ s with boot := { b with upd := .persisting } } : State).eraseSlot (s.persistTarget b.updBundle)
    else s.updEnd .ok 0

/-- The cores that an update handles: those selected, or those whose digest differs from their current image's (Table 16-9). -/
def updSelected (s : State) (mask : Nat) (l : List Byte) : List Nat :=
  ((List.range 13).filter s.variant.core).filter fun c =>
    if mask = 0 then (firmwareOf l c).any fun f => f.digest != (s.core c).current else bitAt mask c

/-- A request for an update (R406). -/
def updRequest (s : State) (a : Nat) : State :=
  if a % 64 ≠ 0 ∨ s.requestOk a 64 = false then s
  else
    let d := s.fwRead a 64
    let n := le d 0x10 4
    let mask := le d 0x14 2
    let flags := le d 4 4
    let range := 33554432 < n || 60000 < le d 0x18 4 || 7 < flags || 8191 < mask || !clearAt d [(0x16, 2), (0x1C, 4)]
    match refusal [((members mask 13).any fun c => !s.variant.core c, .unitAbsent, 0), (le d 0 4 != 1, .versionUnsupported, 0),
      (s.boot.upd != .idle, .retryLater, 0), (range || n < 224 || !s.addressOk (le d 8 8), .refusedInfeasible, 1)] with
    | some (st, det) => s.updRefuse a st det
    | none =>
      let l := s.fwRead (le d 8 8) n
      let why := s.bundleReason l
      if why ≠ 0 then s.updRefuse a .refusedInfeasible why
      else if bitAt flags 1 = true ∧ s.sequenceOk l = false then s.updRefuse a .refusedInfeasible 0x22
      else
        ({ s with boot := { s.boot with
          upd := .verifying, updCore := 0, updAddr := a, updFlags := flags, updBundle := l, updCores := mask
          updTodo := if bitAt flags 0 then s.updSelected mask l else []
          updApplied := 0, updRolled := 0, updSlot := 0xFF, updMaxDefer := le d 0x18 4, updStart := s.supTime, watch := none
          pauseAsked := false } } : State).updNext

/-- A core's turn (R407): the new image becomes current, the old one the previous, and the core restarts from it. -/
def updTurn (s : State) : State :=
  let b := s.boot
  match b.updTodo with
  | [] => s
  | c :: _ =>
    if (b.upd ≠ .deferred ∧ b.upd ≠ .applying) ∨ b.watch.isSome = true then s
    else if s.turnWaits c then s.updNext
    else
      match firmwareOf b.updBundle c with
      | none => s
      | some f =>
        let x := s.core c
        let s1 := s.setCore c { x with
          previous := x.current, previousValid := true, previousProto := x.proto, previousUpdated := x.updated
          current := f.digest, proto := f.proto, updated := true }
        let s2 : State := { s1 with boot := { b with upd := .applying, updCore := c, watch := some c, supRestart := c == 12 } }
        if c = 12 then s2 else s2.requestReset (coreDomain c) false

/-- A turn has not begun within MAX_DEFER (R408). A pause of the group for it ends. -/
def updLate (s : State) : State := if s.boot.upd = .deferred then (s.updEnd .refusedInfeasible 0x20).resumeGroup else s

/-- The supervisor is back on its new image (R407). -/
def supervisorBack (s : State) : State :=
  if s.boot.supRestart then
    let x := s.core 12
    let s1 := s.setCore 12 { x with restarts := satAdd 16 x.restarts 1 }
    { s1 with boot := { s1.boot with supRestart := false, updApplied := s1.boot.updApplied ||| 2 ^ 12 } }
  else s

/-- 1 s after a core's restart it counts as handled (R409). -/
def updWatched (s : State) : State :=
  match s.boot.watch with
  | none => s
  | some c =>
    if s.boot.supRestart = true ∨ s.isOpen (coreDomain c) = false then s
    else ({ s with boot := { s.boot with watch := none, updTodo := s.boot.updTodo.drop 1 } } : State).updNext

/-- MIN_SVN rises to the bundle's SVN once both slots hold valid manifests of that SVN or higher (R411). -/
def commitSvn (s : State) : State :=
  let v := le s.boot.updBundle 0xC 4
  let good := fun (b : Bool) => s.slotReason b == 0 && decide (v ≤ le (s.slotManifest b) 0xC 4)
  if good false && good true then
    let s1 : State := { s with boot := { s.boot with upd := .committing, svnCount := Nat.max s.boot.svnCount (Nat.min 64 v) } }
    (if s.boot.svnCount < s1.boot.svnCount then s1.raiseEv evBoot 4 else s1).updEnd .ok 0
  else s.updEnd .refusedInfeasible 0x23

/-- The target slot has been written and read back (R410). -/
def persistEnd (s : State) (verified : Bool) : State :=
  if s.boot.upd ≠ .persisting then s
  else
    let t := s.persistTarget s.boot.updBundle
    if verified then
      let s1 := s.writeSlot t s.boot.updBundle
      let s2 := ({ s1 with boot := { s1.boot with updSlot := b2n t } } : State).raiseEv evBoot 3
      if bitAt s2.boot.updFlags 2 then s2.commitSvn else s2.updEnd .ok 0
    else s.updEnd .digestMismatch 0

end State

/-- UPDATE_REQUEST (R406). -/
def execUpdateRequest (addr : Nat) (s : State) : Host.Outcome State Fault Refusal := act s fun s => s.updRequest addr

/-- UPDATE_CORE_TURN (R407). -/
def execUpdateCoreTurn (s : State) : Host.Outcome State Fault Refusal := act s fun s => s.updTurn

/-- UPDATE_DEFER_LIMIT (R408). -/
def execUpdateDeferLimit (s : State) : Host.Outcome State Fault Refusal := act s fun s => s.updLate

/-- FLASH_PERSIST_END (R410). -/
def execFlashPersistEnd (verified : Bool) (s : State) : Host.Outcome State Fault Refusal := act s fun s => s.persistEnd verified

/-- UPDATE_WATCH_END (R409). -/
def execUpdateWatchEnd (s : State) : Host.Outcome State Fault Refusal := act s fun s => s.updWatched

/-- SUPERVISOR_RESTART_END (R407). -/
def execSupervisorRestartEnd (s : State) : Host.Outcome State Fault Refusal := act s fun s => s.supervisorBack

end Sys2Proof.Machine
end

