-- ==== Sys2Proof/Machine/RegWrite.lean ====
section
/-! DEFINITION. What a write to a register does (R9, R10, R380, R413, R416, R417, R428), event registers and their interrupts
(R384), and the hold-off between interrupts. -/

namespace Sys2Proof.Machine

/-- The defined bits of event register `e`. -/
def eventMask (e : Nat) : Nat :=
  if e < 15 then 2 ^ ([4, 5, 4, 5, 3, 6, 10, 7, 8, 11, 8, 11, 7, 7, 2].getD e 0) - 1 else if e < 48 then 0b11111 else 0b111111

namespace State

/-! ### Event registers (R384) -/

/-- A write to an event register: ones clear bits, the latch clears, and an enabled bit that still reads 1 calls for a new
INTR. A bit that a reader of `CTX_Q_PAYLOAD` waits for goes with INTERRUPT. -/
def writeEvent (s : State) (e v : Nat) : State :=
  let r := s.ev e
  let left := r.value - (r.value &&& v)
  (s.setEv e { r with value := left, pending := false, payload := r.payload && bitAt left 4 }).evalEvent e

/-- A write to an enable register: an event bit that reads 1 and is now enabled calls for an INTR. -/
def writeEnable (s : State) (e v : Nat) : State := (s.setEv e { s.ev e with enable := v &&& eventMask e }).evalEvent e

/-- The hold-off of an event register ends: an INTR that waited is sent. -/
def holdoffEnds (s : State) (e : Nat) : State :=
  if (s.ev e).holding then (s.setEv e { s.ev e with holding := false }).evalEvent e else s

/-! ### Puchlink's retrain (R377) -/

/-- The link enters RETRAIN: both ends keep their replay stores. -/
def plkRetrain (s : State) : State :=
  if s.plk.state = .active then
    ({ s with plk := { s.plk with
        state := .retrain, retrains := satAdd 8 s.plk.retrains 1, recent := s.plk.recent ++ [s.supTime], txReplays := 0 } } : State).raiseEv
      evPlk 0
  else s

/-! ### Request registers -/

/-- An outcome of a write: the status that a REG_WRA gives, and the state. -/
def took (s : State) : Status × State := (.ok, s)

/-- A request register: the address is checked, then the request is made (R428). -/
def request (s : State) (a n : Nat) (f : State → State) : Status × State :=
  if s.requestOk a n then (.ok, f s) else (.refusedInfeasible, s)

/-- `PTN_REQ`. -/
def ptnRequest (s : State) (v : Nat) : Status × State :=
  let a := v - v % 64
  match fld v 3 0 with
  | 1 =>
    if s.requestOk a 64 = true ∧ (le (s.fwRead a 64) 4 1 < 1 ∨ 32 < le (s.fwRead a 64) 4 1 ∨
        s.requestOk a (64 + 256 * le (s.fwRead a 64) 4 1) = true) then (.ok, s.layoutBatch a) else (.refusedInfeasible, s)
  | 2 => s.request a 128 fun s => s.createCtx a
  | 3 => s.request a 128 fun s => s.destroyCtx a
  | 4 => s.request a 32 fun s => s.hotRequest a
  | 5 => s.request a 64 fun s => s.testRequest a
  | _ => s.took

/-- `SOR_REQ`. -/
def sorWrite (s : State) (v : Nat) : Status × State :=
  let a := v - v % 64
  match fld v 3 0 with
  | 1 => s.request a 64 fun s => s.openJob a
  | 2 => s.request a 64 fun s => s.closeJob a
  | 3 => s.request a 64 fun s => s.openChannel a
  | 4 => s.request a 64 fun s => s.closeChannel a
  | _ => s.took

/-- `MED_REQ`. What the servers answer an open for its index is a free value. -/
def medWrite (s : State) (v : Nat) : Status × State :=
  let a := v - v % 128
  match fld v 3 0 with
  | 1 => s.request a 128 fun s => ({ s with free := s.free + 1 } : State).openStream a (Config.indexAnswer s.free)
  | 2 => s.request a 128 fun s => s.streamRequest a fun s i _ => s.closeStream i
  | 3 => s.request a 128 fun s => s.streamRequest a fun s i st => s.pauseStream i st
  | 4 => s.request a 128 fun s => s.streamRequest a fun s i st => s.resumeStream i st
  | _ => s.took

/-- `SRV_REQ`. -/
def srvWrite (s : State) (v : Nat) : Status × State :=
  let a := v - v % 64
  match fld v 3 0 with
  | 1 => s.request a 128 fun s => s.createInst a
  | 2 => s.request a 32 fun s => s.destroyInst a
  | 3 => s.request a 32 fun s => s.registerAdapter a
  | 4 => s.request a 32 fun s => s.releaseAdapter a
  | 5 => s.request a 64 fun s => s.createRing a
  | 6 => s.request a 32 fun s => s.destroyRing a
  | 7 => s.request a 32 fun s => s.cancelReq a
  | _ => s.took

/-- `CKP_REQ`. What the store answers a restore is a free value. -/
def ckpWrite (s : State) (v : Nat) : Status × State :=
  let a := v - v % 64
  match fld v 3 0 with
  | 1 => s.ckptRequest.took
  | 2 => s.closeSession.took
  | 3 => s.request a 64 fun s =>
      let f := Config.storeAnswer s.free
      ({ s with free := s.free + 1 } : State).restore a {
        manifest := f.1, shards := f.2.1, log := f.2.2, durable := Config.durableReports s.free }
  | 4 => s.reopenSession.took
  | _ => s.took

/-- `FLT_RESET_REQ`: PD78 and 80 to 127 are reserved encodings. -/
def resetWrite (s : State) (v : Nat) : Status × State :=
  let d := fld v 6 0
  if d = 78 ∨ 80 ≤ d then s.took
  else if s.variant.domain d = false then (.unitAbsent, s)
  else (s.requestReset d (bitAt v 7)).took

/-- `FLT_DUMP_REQ` type 1: the domain of the latest fault, its escalation set, or the package. -/
def dumpNow (s : State) : State :=
  let doms := match (s.flt.records.getLast?).map (·.domain) with
    | some d => s.scopeDomains s.flt.dumpScope d
    | none => if s.flt.dumpScope = 2 then s.variant.domainList else []
  s.startDump 0 s.flt.dumpScope doms

/-! ### Configuration registers -/

/-- A configuration register with an address of the host (R428): it keeps its value when the address fails the check. -/
def addressed (s : State) (a : Nat) (f : State → State) : Status × State :=
  if s.addressOk a then (.ok, f s) else (.refusedInfeasible, s)

/-- Every queue of a context is IDLE. -/
def queuesIdle (k : Context) : Bool := k.queues.all fun x => x.state == .idle

/-- A change of the context that `CTX_NUM_SEL` names; with a stale handle the write is ignored. -/
def modNum (s : State) (ok : Context → Bool) (f : Context → Context) : State :=
  match s.selNum with
  | some c => if ok (s.ctx c) then s.setCtx c (f (s.ctx c)) else s
  | none => s

/-- READY, or SAVED, with every queue IDLE (R149). -/
def numSettled (k : Context) : Bool := (k.state == .ready || k.state == .saved) && queuesIdle k

/-- A change of the queue that `CTX_Q_SEL` names, while it is IDLE (R178). -/
def modIdleQueue (s : State) (f : Queue → Queue) : State :=
  match s.selQueue with
  | some (c, q) => if (s.queue c q).state = .idle then s.setQueue c q (f (s.queue c q)) else s
  | none => s

/-- A change of the context whose collective ring `NET_CR_SEL` names, while the ring holds no unstarted entry (R310). -/
def modIdleRing (s : State) (f : Context → Context) : State :=
  match s.selCr with
  | some c =>
    let k := s.ctx c
    if k.ringTail = k.ringHead + BitVec.ofNat 32 (s.collectives.filter fun x => x.ctx == c).length then s.setCtx c (f k) else s
  | none => s

/-- The checkpoint registers take a write (R334): no checkpoint runs and no context of the protected partition runs. -/
def ckpSettled (s : State) : Bool :=
  !s.ckptRuns && match s.ckpPtn with
    | some p => (s.ckptCtxs p).all fun c => (s.ctx c).state != .running
    | none => true

/-- The log of a partition that was not the last to be protected begins at LSN 0 (R311). -/
def protectLog (k : Ckp) (ptn : Nat) : Ckp :=
  if ptn = 0 ∨ ptn = k.logPtn then k
  else { k with logPtn := ptn, lsn := 0, flushed := 0, durableLsn := 0, endLsn := 0, ckptLsn := 0, logHeld := [], full := false }

/-- The frames of `CKP_RESERVE`. -/
def reserveFrames (s : State) : List Nat :=
  match s.ckpPtn with
  | some p => s.framesOf p s.ckp.reserveFirst s.ckp.reservePages
  | none => []

/-- A change of the checkpoint configuration; RESV moves to the reserve frames that it names (`CKP_RESERVE`). -/
def modCkp (s : State) (f : Ckp → Ckp) : State :=
  if s.ckpSettled then
    let s1 := s.reserveFrames.foldl (fun (s : State) x => s.setAttr x (setFld (s.attr x) 3 3 0)) s
    let s2 := s1.setCkp (f s1.ckp)
    s2.reserveFrames.foldl (fun (s : State) x => s.setAttr x (s.attr x ||| 8)) s2
  else s

/-- `CTX_Q_CTL`. -/
def writeQCtl (s : State) (v : Nat) : State :=
  let s1 := if bitAt v 0 then s.restartQueue (BitVec.ofNat 32 (fld v 63 32)) else s
  if bitAt v 1 then s1.abortQueue else s1

/-- `PTN_SCHED_BASEg`: the table is taken at the next frame start (R241). -/
def writeSched (s : State) (g v : Nat) : Status × State :=
  s.addressed (v - v % 1024) fun s =>
    s.setGroup g { s.group g with schedEnable := bitAt v 0, schedAddr := fld v 63 10, schedNew := true }

/-- A starvation record or `PTN_SCHED_STAT` bit that a 1 clears. -/
def clearBit (w v b : Nat) : Nat := if bitAt v b then setFld w b b 0 else w

/-- What a write to a register does: `v` is the whole register. A reserved encoding leaves it as it is (R10); read-only fields
ignore the write (R9). The status is what a REG_WRA completes with. -/
def writeReg (s : State) (r : Reg) (v : Nat) : Status × State :=
  match r with
  | .ev e => (s.writeEvent e v).took
  | .evEn e => (s.writeEnable e v).took
  | .glbRateWin =>
    if within 10 10000 (fld v 13 0) then ({ s with sel := { s.sel with rateWin := fld v 13 0 } } : State).took else s.took
  | .glbRzLink l =>
    (s.setRzLink l { s.rzLink l with replays := fld v 23 8, retrains := fld v 31 24 }).took
  | .glbLtimeSel => if fld v 6 0 ≤ 92 then ({ s with sel := { s.sel with ltimeSource := fld v 6 0 } } : State).took else s.took
  | .ctxDb n => (s.ringDoorbell n v).took
  | .numSel => ({ s with sel := { s.sel with numCtx := fld v 31 0 } } : State).took
  | .numCfg =>
    if fld v 15 4 = 0 then s.took
    else (s.modNum (fun _ => true) fun k => { k with escHold := fld v 15 4, lrRecover := fld v 31 16 }).took
  | .numSeed => (s.modNum numSettled fun k => { k with seed := BitVec.ofNat 64 v }).took
  | .numLtab => s.addressed (v - v % 4096) fun s =>
      s.modNum numSettled fun k => { k with ltabCount := fld v 11 0, ltabAddr := fld v 63 12 }
  | .qSel => ({ s with sel := { s.sel with qCtx := fld v 31 0, qQueue := fld v 33 32 } } : State).took
  | .qRing =>
    if fld v 4 0 = 0 || within 6 16 (fld v 4 0) then
      s.addressed (v - v % 4096) fun s => s.modIdleQueue fun x => { x with ringLog2 := fld v 4 0, ringAddr := fld v 63 12 }
    else s.took
  | .qCring =>
    if within 4 16 (fld v 4 0) then
      s.addressed (v - v % 4096) fun s => s.modIdleQueue fun x => { x with cringLog2 := fld v 4 0, cringAddr := fld v 63 12 }
    else s.took
  | .qCptr =>
    (match s.selQueue with
      | some (c, q) => s.setQueue c q { s.queue c q with chead := BitVec.ofNat 32 v }
      | none => s).took
  | .qCtl => (s.writeQCtl v).took
  | .ctxDesc =>
    if fld v 12 0 ≤ 4096 then
      s.addressed (v - v % 8192) fun s =>
        match s.selQueue with
        | some (c, q) =>
          if (s.queue c q).state = .idle then
            s.setCtx c { s.ctx c with descCount := fld v 12 0, descAddr := fld v 63 13 }
          else s
        | none => s
    else s.took
  | .ctxSync n =>
    (match s.selQ with
      | some c => s.setCtx c { s.ctx c with sync := (s.ctx c).sync.set n (BitVec.ofNat 32 v) }
      | none => s).took
  | .qQuads =>
    (match s.selQueue with
      | some (c, _) => if Nat.land (fld v 31 0) (s.ctx c).quads = fld v 31 0 then s.modIdleQueue fun x => { x with quads := fld v 31 0 } else s
      | none => s).took
  | .ptnReq => s.ptnRequest v
  | .ptnSel => ({ s with sel := { s.sel with ptnHandle := fld v 31 0, ptnDie := fld v 34 32 } } : State).took
  | .schedBase g => s.writeSched g v
  | .schedStat g => (s.setGroup g { s.group g with refused := (s.group g).refused && !bitAt v 7 }).took
  | .schedCfg =>
    if within 100 65535 (fld v 31 16) then
      ({ s with sel := { s.sel with schedMargin := fld v 15 0, beSlice := fld v 31 16 } } : State).took
    else s.took
  | .ptnArbCfg =>
    if fld v 7 0 = 0 ∨ fld v 15 8 = 0 then s.took
    else
      let s1 := s.rzThresholdTo (fld v 15 8)
      ({ s1 with sel := { s1.sel with ptnArbCfg := fld v 15 0 } } : State).took
  | .ptnStarve => ({ s with sel := { s.sel with ptnStarve := clearBit s.sel.ptnStarve v 19 } } : State).took
  | .arrEcc k => (s.setQuad k { s.quad k with ce := fld v 31 0, ue := fld v 47 32 }).took
  | .arrOvf k => (s.setQuad k { s.quad k with ovfRetries := fld v 31 0, overflows := fld v 47 32, maxTag := fld v 49 48 }).took
  | .arrStat a =>
    let y := s.arr a
    (s.setArr a { y with ceFlag := y.ceFlag && !bitAt v 28, ueFlag := y.ueFlag && !bitAt v 29 }).took
  | .sorReq => s.sorWrite v
  | .sorSel => ({ s with sel := { s.sel with sorCh := fld v 31 0 } } : State).took
  | .dmaArbCfg => if fld v 7 0 = 0 then s.took else (s.dmaThresholdTo (fld v 7 0)).took
  | .dmaStarve => ({ s with sel := { s.sel with dmaStarve := clearBit s.sel.dmaStarve v 15 } } : State).took
  | .hbmEcc k => (s.setStack k { s.stack k with ce := fld v 31 0, ue := fld v 47 32, retireAt := fld v 55 48 }).took
  | .hbmArbCfg k => if fld v 7 0 = 0 then s.took else (s.setStack k { s.stack k with threshold := fld v 7 0 }).took
  | .hbmStarve k => (s.setStack k { s.stack k with starve := clearBit (s.stack k).starve v 15 }).took
  | .hbmWays k p =>
    let x := s.stack k
    (s.setStack k { x with
      allocRd := setFld x.allocRd p p (fld v 16 16), allocWr := setFld x.allocWr p p (fld v 17 17) }).took
  | .attrReq => s.request (v - v % 32) 32 fun s => s.attrRequest (v - v % 32)
  | .attrSel => ({ s with sel := { s.sel with attrPage := fld v 31 0, attrPtn := fld v 36 32 } } : State).took
  | .medReq => s.medWrite v
  | .medSel => ({ s with sel := { s.sel with stream := fld v 31 0 } } : State).took
  | .medSkip =>
    (match s.selStream with
      | some (i, x) => { s with streams := tput s.streams i { x with skipHead := BitVec.ofNat 32 v } }
      | none => s).took
  | .srvReq => s.srvWrite v
  | .srvSubmit i =>
    ({ s with instances := tmod s.instances i fun x => { x with submitTail := BitVec.ofNat 32 v } } : State).took
  | .rqSel => ({ s with sel := { s.sel with request := fld v 31 0 } } : State).took
  | .netPcp =>
    (s.setNet { s.net with
      pcp := pack [(0, fld v 2 0), (4, fld v 6 4), (8, fld v 10 8), (12, fld v 14 12), (16, fld v 23 16)] }).took
  | .netPort p =>
    (s.setPort p { s.port p with cnp := fld v 31 16, retrans := fld v 47 32, pauseTx := fld v 63 48 }).took
  | .mbrSel => (s.setNet { s.net with mbrSel := fld v 9 0 }).took
  | .crSel => (s.setNet { s.net with crSel := fld v 31 0 }).took
  | .crRing =>
    if fld v 4 0 = 0 || within 4 12 (fld v 4 0) then
      s.addressed (v - v % 4096) fun s => s.modIdleRing fun k => { k with ringLog2 := fld v 4 0, ringAddr := fld v 63 12 }
    else s.took
  | .crPtr =>
    (match s.selCr with
      | some c => s.setCtx c { s.ctx c with ringTail := BitVec.ofNat 32 v }
      | none => s).took
  | .crTag => (s.modIdleRing fun k => { k with ringTag := fld v 15 0 }).took
  | .ckpReq => s.ckpWrite v
  | .ckpCfg =>
    if fld v 55 48 = 0 || !within 1 8 (fld v 59 56) || fld v 63 60 = 0 then s.took
    else (s.modCkp fun k => { protectLog k (fld v 31 0) with
      ptn := fld v 31 0, interval := fld v 47 32, ackMs := fld v 55 48, connections := fld v 59 56, limitS := fld v 63 60 }).took
  | .ckpReserve => (s.modCkp fun k => { k with reserveFirst := fld v 31 0, reservePages := fld v 63 32 }).took
  | .ckpLog =>
    if fld v 63 32 = 0 || 65536 < fld v 63 32 then s.took else (s.modCkp fun k => { k with logFirst := fld v 31 0, logPages := fld v 63 32 }).took
  | .ckpRegions =>
    if 256 < fld v 8 0 then s.took
    else s.addressed (v - v % 4096) fun s => s.modCkp fun k => { k with regionCount := fld v 8 0, regionAddr := fld v 63 12 }
  | .ckpStore => (s.setCkp { s.ckp with storePtn := fld v 31 0 }).took
  | .ckpStoreRange => (s.setCkp { s.ckp with storeFirst := fld v 31 0, storePages := fld v 63 32 }).took
  | .fltWin c => (s.setWin c v).took
  | .fltDom d => (s.setDom d { s.dom d with fences := fld v 47 32, resets := fld v 63 48 }).took
  | .fltRecSel => ({ s with flt := { s.flt with recSel := fld v 31 0 } } : State).took
  | .fltLogPtr => ({ s with flt := { s.flt with overwritten := fld v 63 32 } } : State).took
  | .fltResetReq => s.resetWrite v
  | .fltDumpCfg =>
    if fld v 2 1 = 3 then s.took
    else ({ s with flt := { s.flt with dumpAuto := bitAt v 0, dumpScope := fld v 2 1 } } : State).took
  | .fltDumpReq =>
    (match fld v 1 0 with
      | 1 => s.dumpNow
      | 2 => s.exportDump (fld v 3 2)
      | _ => s).took
  | .fltDumpDest => s.addressed (v - v % 4096) fun s => { s with flt := { s.flt with dumpDest := fld v 63 12 } }
  | .fltStale n => ({ s with flt := { s.flt with stale := tput s.flt.stale n (fld v 31 0) } } : State).took
  | .fltRetire => (s.setRetire v).took
  | .pwrCap => (s.setCap v).took
  | .pwrOp g => ((s.setGroup g { s.group g with req := fld v 1 0 }).evaluate).took
  | .pwrTherm => (s.setTherm v).took
  | .pwrDomReq => (if bitAt v 7 then s.domOn (fld v 6 0) else s.domOff (fld v 6 0)).took
  | .pwrCfg => (s.setPwrCfg v).took
  | .pwrWear => (s.setWearCfg v).took
  | .plkVer => (s.setAllow v).took
  | .plkErr =>
    ({ s with plk := { s.plk with
      checkErr := fld v 31 0, replays := fld v 47 32, retrains := fld v 55 48, trainings := fld v 63 56 } } : State).took
  | .plkReject => ({ s with plk := { s.plk with rejValid := s.plk.rejValid && !bitAt v 37 } } : State).took
  | .plkIntr => ({ s with plk := { s.plk with holdoff := fld v 15 0 } } : State).took
  | .plkRd =>
    if within 1 1000 (fld v 15 0) then ({ s with plk := { s.plk with rdTimeout := fld v 15 0 } } : State).took else s.took
  | .plkCtl => (if bitAt v 0 then s.plkRetrain else s).took
  | .secAtt => s.request (v - v % 128) 128 fun s => s.attRequest (v - v % 128)
  | .updReq => s.request (v - v % 64) 64 fun s => s.updRequest (v - v % 64)
  | .bootImg c => (s.setCore c { s.core c with rollbacks := fld v 31 24, restarts := fld v 47 32 }).took
  | .glbId | .glbCap0 | .glbCap1 | .glbIntPend | .glbQrate _ | .glbLtime | .numStat | .qPtr | .qStat | .qPayload | .ptnStat
  | .ptnRes | .ptnCtxStat _ | .arrQcnt _ _ | .sorState | .sorWait | .dmaStat _ | .hbmStat _ | .hbmOwn _ _ | .attr | .medState
  | .medCursor | .medWin | .medCnt | .medEng _ | .srvStat _ | .srvPerf _ | .srvUnits _ | .srvLat _ | .rqStat | .netGroup
  | .netGen | .mbrStat | .ckpLogPtr | .ckpStat | .ckpProgress | .ckpDurable | .ckpMirror | .ckpSession | .fltStat | .fltRec _
  | .fltDumpStat | .pwrStat | .pwrValve | .pwrDomResult | .pwrDom _ | .pwrStress _ | .plkStat | .plkMemReject | .plkTcorr
  | .secFuse | .secSerial | .secIdent _ | .secEndorse _ | .bootStat | .bootLock | .bootTime | .updStat => s.took

/-! ### Accesses to the window (R380, R413) -/

/-- Request registers that the supervisor's own restart answers with RETRY_LATER (R417). -/
def supervised : Reg → Bool
  | .ptnReq | .pwrDomReq | .fltResetReq | .fltDumpReq | .ckpReq | .updReq => true
  | _ => false

/-- A write of 4 or 8 bytes to one position: a whole register, or a refusal. -/
def writeOne (s : State) (off size v : Nat) : Status × State :=
  let here := (regAt off).filter fun x => !noRegister x.1
  let half := if size = 4 ∧ off % 8 = 4 then (regAt (off - 4)).filter fun x => x.2 else none
  let reg := here.orElse fun _ => half
  let absent := blockAbsent s.variant off || (reg.any fun x => regAbsent s.variant x.1)
  if s.answers off true = false ∨ absent = true then (.unitAbsent, s)
  else
    match reg with
    | none => (.refusedInfeasible, s)
    | some (r, wide) =>
      if s.letsIn r = false ∨ (s.boot.supRestart = true ∧ supervised r = true) then (.retryLater, s)
      else if wide = true ∧ size = 4 then (.refusedInfeasible, s)
      else s.writeReg r v

/-- A write access: the positions it falls into with their statuses, and the state. An access that is not 4 or 8 bytes and
naturally aligned is refused. -/
def writeWindow (s : State) (off size v : Nat) : List (Nat × Status) × State :=
  if size ≠ 4 ∧ size ≠ 8 ∨ off % Nat.max 1 size ≠ 0 then ([(off, .refusedInfeasible)], s)
  else if size = 8 ∧ ((regAt off).any fun x => x.2) = false then
    let a := s.writeOne off 4 (v % 2 ^ 32)
    let b := a.2.writeOne (off + 4) 4 (v / 2 ^ 32)
    ([(off, a.1), (off + 4, b.1)], b.2)
  else
    let a := s.writeOne off size v
    ([(off, a.1)], a.2)

/-- The status of an access: OK when every position is, else the first that R15 orders. -/
def windowStatus (l : List (Nat × Status)) : Status := l.foldl (fun a x => joinStatus a x.2) .ok

/-- A write by its register: event and enable registers, or the others. -/
def hostWrite (s : State) (event : Bool) (off v : Nat) : State :=
  match regAt off with
  | some (r, wide) =>
    let isEvent := match r with
      | .ev _ | .evEn _ => true
      | _ => false
    if isEvent = event then (s.writeOne off (if wide then 8 else 4) v).2 else s
  | none => s

end State

/-- REG_WRITE (R9). -/
def execRegWrite (offset value : Nat) (s : State) : Host.Outcome State Fault Refusal := act s fun s => s.hostWrite false offset value

/-- EVENT_REG_WRITE (R384). -/
def execEventRegWrite (offset value : Nat) (s : State) : Host.Outcome State Fault Refusal :=
  act s fun s => s.hostWrite true offset value

/-- INTR_HOLDOFF_EXPIRY (R384). -/
def execIntrHoldoffExpiry (ev : Nat) (s : State) : Host.Outcome State Fault Refusal := act s fun s => s.holdoffEnds ev

/-- PLK_CTL_RETRAIN (R377). -/
def execPlkCtlRetrain (s : State) : Host.Outcome State Fault Refusal := act s fun s => s.plkRetrain

end Sys2Proof.Machine
end

