-- ==== Sys2Proof/Machine/Module.lean ====
section
/-! DEFINITION. The module's pins and its sideband (chapter 18): MOD_RST_N, the PMBus commands of Table 18-4. -/

namespace Sys2Proof.Machine

namespace State

/-- A low of MOD_RST_N: from 1 ms on it resets every domain, but not on the hold-up store (R421). -/
def modReset (s : State) (heldUs : Nat) : State :=
  if heldUs < 1000 ∨ s.pwr.onHoldup = true then s else s.powerOnReset

/-- Whether a condition of Table 18-5 stands. -/
def alertStands (s : State) : Bool :=
  let e := (s.ev evPwr).value
  s.flt.fatal || bitAt e 0 || bitAt e 6 || bitAt e 10 || s.pwr.cooling || s.boot.state == 4

/-- CLEAR_FAULTS releases SMB_ALERT_N; a condition that still stands asserts it again (R424). -/
def clearFaults (s : State) : State := { s with pins := { s.pins with alertN := !s.alertStands } }

/-- An answer on the sideband. -/
def answerWord (s : State) (w : Nat) : State := s.emit (.sideband (some (leBytes 2 w)))

/-- STATUS_WORD: bit 6 during hold-up, bit 0 while a condition of Table 18-5 stands; the spec gives no other bit, so the
others are a free value. -/
def statusAnswer (s : State) : State :=
  let f := s.fresh 16
  f.2.answerWord (setFld (setFld f.1 6 6 (b2n s.pwr.onHoldup)) 0 0 (b2n s.alertStands))

/-- A reading in LINEAR11. -/
def reading (s : State) (num den : Nat) : State := s.answerWord (Config.linear11 num den).toNat

/-- Whether an offset lies in a block that MFR_REG_READ reads: GLB, FLT, PWR, BOOT (Table 18-4). -/
def sideBlock (off : Nat) : Bool :=
  let m := off / 0x100000
  m == 0 || m == 0x80 || m == 0x90 || m == 0xC0

/-- MFR_REG_READ: 8 bytes, or a CML fault (R425). -/
def sideRead (s : State) (off : Nat) : State :=
  if sideBlock off then
    let o := s.readWindow off 8
    if o.1 = .ok then o.2.2.emit (.sideband (some (leBytes 8 o.2.1))) else s.emit (.sideband none)
  else s.emit (.sideband none)

/-- Whether MFR_FLASH is acknowledged (R426). -/
def flashOpen (s : State) : Bool := s.boot.serviceMode || s.boot.state == 4

/-- MFR_FLASH: 0 reads as many bytes as the command brings, 1 erases the piece of flash that holds an address, 2 programs bytes.
What an erased byte reads as is a free value. -/
def flashAccess (s : State) (op a : Nat) (l : List Byte) : State :=
  if s.flashOpen = false ∨ 2 ^ 28 < a + l.length ∨ 2 ^ 28 ≤ a then s.emit (.sideband none)
  else
    match op with
    | 0 => s.emit (.sideband (some (s.mem.readAll (flashKey a) l.length)))
    | 1 =>
      let n := Config.eraseBytes
      let lo := a - a % n
      ({ s with
        mem := s.mem.undefine (flashKey lo) (flashKey (Nat.min (lo + n) (2 ^ 28))) s.free, free := s.free + 1 } : State).emit
        (.sideband (some []))
    | 2 => ({ s with mem := s.mem.writeAll (flashKey a) l } : State).emit (.sideband (some []))
    | _ => s.emit (.sideband none)

end State

/-! The sideband is served while the hold-up bus is up, by a device that has reported fatal too (Table 18-5). -/

/-- MOD_RST_N (R421). -/
def execModRstN (heldUs : Nat) (s : State) : Host.Outcome State Fault Refusal := done s (s.modReset heldUs)

/-- CLEAR_FAULTS (R424). -/
def execClearFaults (s : State) : Host.Outcome State Fault Refusal := done s s.clearFaults

/-- STATUS_WORD (Table 18-4). -/
def execStatusWord (s : State) : Host.Outcome State Fault Refusal := done s s.statusAnswer

/-- READ_VIN (Table 18-4): `PWR_STAT.INPUT_DV`. -/
def execReadVin (s : State) : Host.Outcome State Fault Refusal := done s (s.reading s.pwr.inputDv 10)

/-- READ_IIN (Table 18-4): the input current. -/
def execReadIin (s : State) : Host.Outcome State Fault Refusal := done s (s.reading s.pwr.inputDa 10)

/-- READ_TEMPERATURE_1 (Table 18-4): `PWR_VALVE.TJ_MAX`. -/
def execReadTemperature1 (s : State) : Host.Outcome State Fault Refusal := done s (s.reading s.pwr.tjMax 1)

/-- READ_TEMPERATURE_2 (Table 18-4): the coolant inlet. -/
def execReadTemperature2 (s : State) : Host.Outcome State Fault Refusal := done s (s.reading s.pwr.inlet 1)

/-- READ_TEMPERATURE_3 (Table 18-4): the coolant outlet. -/
def execReadTemperature3 (s : State) : Host.Outcome State Fault Refusal := done s (s.reading s.pwr.outlet 1)

/-- READ_PIN (Table 18-4): `PWR_STAT.INPUT_W`. -/
def execReadPin (s : State) : Host.Outcome State Fault Refusal := done s (s.reading s.pwr.inputW 1)

/-- MFR_REG_READ (Table 18-4, R425). -/
def execMfrRegRead (offset : Nat) (s : State) : Host.Outcome State Fault Refusal := done s (s.sideRead offset)

/-- MFR_RESET (Table 18-4): 0xA5 asks for the power-on reset of R421. -/
def execMfrReset (value : Nat) (s : State) : Host.Outcome State Fault Refusal :=
  done s (if value = 0xA5 then s.modReset 1000 else s)

/-- MFR_FLASH (R426). -/
def execMfrFlash (op addr : Nat) (data : List Byte) (s : State) : Host.Outcome State Fault Refusal :=
  done s (s.flashAccess op addr data)

end Sys2Proof.Machine
end

