-- ==== Sys2Proof/Machine/Puchlink.lean ====
section
/-! DEFINITION. Puchlink (chapter 15): messages from the host, flits, acknowledgement and replay, training, retrains and lane
failures, and time correlation. -/

namespace Sys2Proof.Machine

namespace State

/-! ### Receiving messages (R378 to R382) -/

/-- The buffer space of a message is freed: its credits go back (R378). -/
def freed (s : State) (cls n : Nat) : State := s.emitFlits (.credits cls n) 1

/-- A malformed message is discarded; a malformed NP is answered with REFUSED_INFEASIBLE. -/
def malformed (s : State) (np : Bool) (tag : Nat) : State :=
  (if np then s.send (.cpl tag .refusedInfeasible []) else s).raiseEv evPlk 5

/-- A refused posted write (R381): it is counted, the first is recorded, WR_REJECTED is set. The OFFSET of a refused MEM_WR is
not stated: a free value. -/
def reject (s : State) (off : Option Nat) (st : Status) (addr : Nat) : State :=
  let o : Nat × State := match off with
    | some a => (a, s)
    | none => s.fresh 28
  let p := o.2.plk
  let p1 := { p with rejCount := satAdd 16 p.rejCount 1 }
  let p2 := if p.rejValid then p1 else
    { p1 with
      rejValid := true, rejOffset := o.1, rejStatus := st, rejMem := off.isNone,
      memReject := if off.isNone then addr else p.memReject }
  ({ o.2 with plk := p2 } : State).raiseEv evPlk 4

/-- The refused positions of a posted register write, each recorded. -/
def rejectAll (s : State) (l : List (Nat × Status)) : State :=
  l.foldl (fun (s : State) x => if x.2 = .ok then s else s.reject (some x.1) x.2 0) s

/-- Whether the fields of a register message are in range (R380): 4 or 8 bytes, ADDR[63:28] 0. -/
def regMessage (off size : Nat) : Bool := (size == 4 || size == 8) && decide (off < 2 ^ 28)

/-- REG_WR: no answer; what is refused is recorded. -/
def regWr (s : State) (off size v : Nat) : State :=
  if regMessage off size = false then s.malformed false 0
  else if s.isOpen 77 = false then s.reject (some off) .retryLater 0
  else
    let o := s.writeWindow off size v
    o.2.rejectAll o.1

/-- REG_WRA, from version 1.1: a CPL gives the status. -/
def regWra (s : State) (tag off size v : Nat) : State :=
  if regMessage off size = false ∨ s.plk.version = 0 then s.malformed true tag
  else if s.isOpen 77 = false then s.send (.cpl tag .retryLater [])
  else
    let o := s.writeWindow off size v
    o.2.send (.cpl tag (windowStatus o.1) [])

/-- REG_RD: a CPL gives the data and the status; one of two halves gives both, 0 in a half that was not OK (R380). A device that has reported fatal answers the GLB, FLT and BOOT blocks alone
(R348). -/
def regRd (s : State) (tag off size : Nat) : State :=
  if s.flt.fatal = true ∧ s.answers off false = false then s
  else if regMessage off size = false then s.malformed true tag
  else if s.flt.fatal = false ∧ s.isOpen 77 = false then s.send (.cpl tag .retryLater [])
  else
    let o := s.readWindow off size
    o.2.2.send (.cpl tag o.1 (if o.1 = .ok ∨ twoHalves off size = true then leBytes size o.2.1 else []))

/-- The partition in whose share a scratchpad address of the host lies: the one `PTN_SEL` names (R382). -/
def memPtn (s : State) : Nat := ((s.selPtn).map (·.1)).getD 32

/-- Whether a MEM_WR or MEM_RD may reach its bytes (R382): HBM or a share, within one page, with the frame attributes of
R187. -/
def memOk (s : State) (a n : Nat) (write : Bool) : Bool :=
  match parseAddr a with
  | .hbm p off =>
    decide (off % 65536 + n ≤ 65536) &&
    match tget s.ptns p with
    | none => false
    | some pt =>
      match pt.locate (off / 65536) with
      | none => false
      | some (g, fr) =>
        let w := s.attr (frameNo g fr)
        !s.pcRetired g && !bitAt w 3 && !bitAt w 6 && !(write && bitAt w 0)
  | .scr l d off =>
    !l && decide (off % 65536 + n ≤ 65536) &&
    match s.selPtn with
    | some (_, pt) => s.variant.die d && decide (off + n ≤ pt.scratch.getD d 0 * 65536)
    | none => false
  | _ => false

/-- The status of a memory access: a failed boot answers UNIT_ABSENT (R396); then its message, its address, the domains it
meets (R11). -/
def memStatus (s : State) (a n : Nat) (write : Bool) : Status :=
  if s.boot.state = 4 then .unitAbsent
  else if s.isOpen 77 = false then .retryLater
  else if s.memOk a n write = false then .refusedInfeasible
  else if (s.accessFenced 0 a n).isSome then .retryLater
  else .ok

/-- The writer number of host writes among the writes that a frame's copy holds back. -/
def memWriter : Nat := 7

/-- The pseudo-channel of a host access leaves power-down (R179). -/
def memWake (s : State) (a n : Nat) : State :=
  s.wake [{ addr := a, len := n, write := false }]

/-- MEM_WR: a refused one is recorded. A write to a WP frame is held while the frame is copied (R189). -/
def memWr (s : State) (a : Nat) (l : List Byte) : State :=
  if l.length = 0 ∨ 256 < l.length then s.malformed false 0
  else
    match s.memStatus a l.length true with
    | .ok => (s.memWake a l.length).putBytes 0 memWriter 0 s.memPtn 0 a l
    | st => s.reject none st a

/-- MEM_RD: a CPL with the bytes, or with the status. -/
def memRd (s : State) (tag a n : Nat) : State :=
  if n = 0 ∨ 256 < n then s.malformed true tag
  else
    match s.memStatus a n false with
    | .ok => (s.memWake a n).send (.cpl tag .ok (s.readBytes s.memPtn 0 a n))
    | st => s.send (.cpl tag st [])

/-- A TIME_PONG: t4 is noted, and the exchange with the smallest UNCERT is kept (R385). -/
def timePong (s : State) (t1 h2 h3 : DWord) : State :=
  if s.plk.pings.contains t1 = false ∨ s.isOpen 78 = false then s
  else
    let t4 := s.supTime
    let u := fun (x : DWord × DWord × DWord × DWord) => (x.2.2.2 - x.1).toInt - (x.2.2.1 - x.2.1).toInt
    let me := (t1, h2, h3, t4)
    let best := match s.plk.best with
      | some b => if u me < u b then me else b
      | none => me
    { s with plk := { s.plk with pings := s.plk.pings.erase t1, best := some best } }

/-- One message from its header and its data slots (Tables 15-4, 15-5). A message of the other direction is malformed too. A
device that has reported fatal takes REG_RD alone (R348). -/
def message (s : State) (h : Nat) (slots : List QWord) : State :=
  let data := slots.flatMap fun x => leBytes 16 x.toNat
  let n := slots.length
  let bytes := fld h 48 40 + 1
  let tag := fld h 31 16
  let a := fld h 127 64
  let clean := fld h 7 6 == 0 && fld h 15 13 == 0 && fld h 63 49 == 0
  let whole := n == ceilDiv bytes 16
  if s.flt.fatal = true ∧ fld h 5 0 ≠ 3 then s
  else match fld h 5 0 with
  | 0x00 => s
  | 0x01 => (if clean && whole then s.regWr a bytes (le data 0 bytes) else s.malformed false 0).freed 0 (n + 1)
  | 0x02 => (if clean && whole then s.regWra tag a bytes (le data 0 bytes) else s.malformed true tag).freed 1 1
  | 0x03 => (if clean && n == 0 then s.regRd tag a bytes else s.malformed true tag).freed 1 1
  | 0x04 => (if clean && whole then s.memWr a (slice data 0 bytes) else s.malformed false 0).freed 0 (n + 1)
  | 0x05 => (if clean && n == 0 then s.memRd tag a bytes else s.malformed true tag).freed 1 1
  | 0x08 => if clean && (n == 0 || whole) then s.cplTaken tag (fld h 39 32) data else s.malformed false 0
  | 0x0C =>
    (if clean && n == 1 then s.timePong (BitVec.ofNat 64 a) (BitVec.ofNat 64 (le data 0 8)) (BitVec.ofNat 64 (le data 8 8))
      else s.malformed false 0).freed 2 (n + 1)
  | _ => s.malformed false 0

/-- The whole messages among the slots that have come; the rest waits for the next flit. `fuel` bounds the messages. -/
def messages (s : State) : Nat → State
  | 0 => s
  | fuel + 1 =>
    match s.plk.rxSlots with
    | [] => s
    | h :: r =>
      let n := if fld h.toNat 5 0 = 0 then 0 else fld h.toNat 12 8
      if r.length < n then s
      else (({ s with plk := { s.plk with rxSlots := r.drop n } } : State).message h.toNat (r.take n)).messages fuel

/-! ### Flits (R376, R377) -/

/-- DATA flits that are not acknowledged. -/
def plkUnacked (s : State) : Nat := (s.plk.txNext + 4096 - s.plk.txAcked) % 4096

/-- An acknowledgement up to a SEQ: the flits leave the replay store, the HOST_WRs they ended count as acknowledged (R383). -/
def plkAck (s : State) (ack : Nat) : State :=
  let n := (ack + 1 + 4096 - s.plk.txAcked) % 4096
  if n = 0 ∨ s.plkUnacked < n then s
  else
    let gone := fun (h : HostWrite) => match h.seq with
      | some q => decide ((q + 4096 - s.plk.txAcked) % 4096 < n)
      | none => false
    { s with plk := { s.plk with
        txAcked := (ack + 1) % 4096, txReplays := 0, writes := s.plk.writes.filter fun h => !gone h } }

/-- Replay from the first unacknowledged flit; after 8 failed replays of it the link enters RETRAIN. -/
def plkReplay (s : State) : State :=
  if s.plk.state ≠ .active ∨ s.plkUnacked = 0 then s
  else if 8 ≤ s.plk.txReplays then s.plkRetrain
  else
    ({ s with plk := { s.plk with txReplays := s.plk.txReplays + 1, replays := satAdd 16 s.plk.replays 1 } } : State).emitFlits
      (.replay s.plk.txAcked) s.plkUnacked

/-- Credits that the adapter returns (R378). -/
def plkCredit (s : State) (cls n : Nat) : State :=
  { s with plk := { s.plk with
      creditPw := if cls = 0 then s.plk.creditPw + n else s.plk.creditPw,
      creditNp := if cls = 1 then s.plk.creditNp + n else s.plk.creditNp,
      creditMgt := if cls = 2 then s.plk.creditMgt + n else s.plk.creditMgt } }

/-- The CHECK of a flit (Table 15-3). -/
def flitCheck (version : Nat) (b : List Byte) : Bool :=
  let body := slice b 0 248
  if version < 2 then le b 248 4 == crc32c body && le b 252 4 == 0 else le b 248 8 == crc64 body

/-- A flit arrives (R376): one whose CHECK fails is discarded whole and answered with a NAK, a DATA flit out of sequence is discarded;
otherwise its ACK, NAK and credits are taken, and a DATA flit brings its slots and is acknowledged at once (log entry 189). -/
def flit (s : State) (b : List Byte) : State :=
  if s.plk.state ≠ .active then s
  else if flitCheck s.plk.version b = false then
    ({ s with plk := { s.plk with checkErr := satAdd 32 s.plk.checkErr 1 } } : State).emitFlits (.nak ((s.plk.rxNext + 4095) % 4096)) 1
  else
    let h := le b 0 8
    if fld h 1 0 = 3 ∨ (fld h 1 0 = 1 ∧ fld h 13 2 ≠ s.plk.rxNext) then s
    else
      let s1 := s.plkAck (fld h 25 14)
      let s2 := if bitAt h 26 then s1.plkReplay else s1
      let s3 := s2.plkCredit (fld h 28 27) (fld h 40 29)
      let s4 :=
        if fld h 1 0 = 1 then
          let slots := (List.range 15).map fun i => BitVec.ofNat 128 (le b (8 + 16 * i) 16)
          ({ s3 with plk := { s3.plk with
              rxNext := (s3.plk.rxNext + 1) % 4096, rxSlots := s3.plk.rxSlots ++ slots } } : State).emitFlits
            (.ack (fld h 13 2)) 1 |>.messages (s3.plk.rxSlots.length + 15)
        else s3
      s4.pump

/-! ### Training and retrains (R372 to R375, R377) -/

/-- The link goes DOWN. -/
def plkDown (s : State) : State := s.linkDrop.raiseEv evPlk 1

/-- The lanes in use that good lanes give at a version: the largest width (R374, Table 15-1). -/
def lanesFor (version good : Nat) : Nat :=
  if good = 15 then 15
  else if version = 0 then 0
  else if good % 4 = 3 then 3
  else if good / 4 = 3 then 12
  else ((members good 4).head?.map (2 ^ ·)).getD 0

/-- The highest common version (R372). -/
def plkVersion (s : State) (versions : Nat) : Option Nat :=
  ((List.range 3).filter fun v => bitAt versions v && bitAt s.plk.allow v).getLast?

/-- The ring entries that were not acknowledged before the link went down are written again (Table 15-8). -/
def rewriteRings (s : State) : State :=
  (s.plk.writes.filter fun h => h.q == ringWriter).foldl (fun (s : State) h =>
    ({ s with mem := s.mem.writeAll (hostKey h.addr) h.data } : State).send (.hostWr (some h.ident) h.addr h.data)) s

/-- The status codes, in code order (Table 0-6). -/
def statusList : List Status :=
  [.ok, .deferred, .preempted, .retryLater, .domainReset, .staleEpoch, .refusedCapacity, .refusedInfeasible, .deadlineMissed,
    .contextFault, .nonfiniteStep, .digestMismatch, .mirrorSameFeed, .unitAbsent, .versionUnsupported, .unreachable,
    .cursorRealigned, .testDeferred, .testRefused, .handleStale, .formatEscalated, .accOverflow]

/-- A training does not complete. Its status is a free value: the spec states one for want of a version alone. After three in a
row the device reports DOWN (R375). -/
def trainFails (s0 : State) : State :=
  let f := (if s0.linkUp then s0.plkDown else s0).fresh 8
  let s := f.2
  let n := s.plk.failedTrainings + 1
  let s1 : State := { s with plk := { s.plk with
      state := .training, lastStatus := statusList.getD (f.1 % 22) .ok, failedTrainings := n } }
  if 3 ≤ n then s1.plkDown else s1

/-- A training from its sets to LINK_UP (Table 15-2), with the versions, lanes and credits that the adapter offers. An adapter
that trains a link which is up has been reset: the link went DOWN first. -/
def train (s0 : State) (versions lanes pw np mgt : Nat) : State :=
  if s0.isOpen 77 = false then s0
  else
    let s := if s0.linkUp then s0.plkDown else s0
    match s.plkVersion versions with
    | none =>
      { s with plk := { s.plk with
          state := .down, lastStatus := .versionUnsupported, failedTrainings := s.plk.failedTrainings + 1 } }
    | some v =>
      let l := lanesFor v lanes
      if l = 0 then s.trainFails
      else
        let s1 : State := { s with plk := { s.plk with
          state := .active, version := v, width := popcount l 4, lanes := l, good := lanes, failedTrainings := 0,
          rxNext := 0, rxSlots := [], txNext := 0, txAcked := 0, txReplays := 0, sinceIdle := 0, waiting := [],
          creditPw := pw, creditNp := np, creditMgt := mgt, trainings := satAdd 8 s.plk.trainings 1 } }
        ((s1.send (.linkUp (s1.dom 77).epoch.toNat v)).evalEvent evPlk).rewriteRings

/-- A training runs out of its 20 ms. -/
def trainTimeout (s : State) : State := if s.isOpen 77 then s.trainFails else s

/-- A retrain ends: replay resumes; one that fails, or the third within 1 s, makes the link DOWN (R377). -/
def retrainEnd (s : State) (ok : Bool) : State :=
  if s.plk.state ≠ .retrain then s
  else
    let last := s.plk.recent.getLast?.getD 0
    let near := s.plk.recent.filter fun t => decide ((last - t).toNat ≤ 1000000000)
    let s1 : State := { s with plk := { s.plk with recent := near } }
    if ok = false ∨ 3 ≤ near.length then s1.plkDown
    else
      let s2 : State := { s1 with plk := { s1.plk with state := .active, txReplays := 0 } }
      (if s2.plkUnacked = 0 then s2 else s2.emitFlits (.replay s2.plk.txAcked) s2.plkUnacked).pump

/-- A lane fails in ACTIVE: one in use makes the link retrain on the good lanes, no wider than before (R374); when the version
has no width for them, the link goes DOWN. -/
def laneFails (s : State) (lane : Nat) : State :=
  if s.plk.state ≠ .active ∨ bitAt s.plk.good lane = false then s
  else
    let g := setFld s.plk.good lane lane 0
    let s1 : State := { s with plk := { s.plk with good := g } }
    if bitAt s.plk.lanes lane = false then s1
    else
      let l := lanesFor s.plk.version g
      if l = 0 then s1.plkDown
      else
        let w := popcount l 4
        let l' := if s.plk.width < w then s.plk.lanes else l
        let s2 := s1.plkRetrain
        let s3 : State := { s2 with plk := { s2.plk with lanes := l', width := popcount l' 4 } }
        if w < s.plk.width then s3.raiseEv evPlk 2 else s3

/-! ### Time correlation (R64, R65, R385) -/

/-- A host correlation record (Table 15-7). -/
def hostRecord (s : State) (round : Nat) : List Byte :=
  match s.plk.best with
  | some (t1, h2, h3, t4) =>
    leBytes 8 ((h2.toNat + h3.toNat) / 2) ++ leBytes 8 ((t1.toNat + t4.toNat) / 2) ++
    leBytes 4 (ofSigned 32 (((t4 - t1).toInt - (h3 - h2).toInt) / 2)) ++ leBytes 2 round ++
    leBytes 1 (1 + 2 * b2n s.plk.supRestarted) ++ zeros 1
  | none => zeros 20 ++ leBytes 2 round ++ leBytes 1 (2 * b2n s.plk.supRestarted) ++ zeros 1

/-- The sources that a round samples: present, their domain live and open (R65). -/
def timeSources (s : State) : List Nat :=
  (List.range 93).filter fun x => s.sourcePresent x && s.live (sourceDomain x) && s.isOpen (sourceDomain x)

/-- A device record (Table 2-10): UNCERT as sampled, at most 100 ns. -/
def timeRecord (s : State) (src uncert : Nat) : List Byte :=
  let r := if src < 80 then (s.dom src).restarted else (s.core (src - 80)).restarted
  leBytes 1 src ++ leBytes 1 (b2n r) ++ leBytes 2 (s.dom (sourceDomain src)).epoch.toNat ++ leBytes 4 (Nat.min 100 uncert) ++
  leBytes 8 (s.sourceTime src).toNat ++ leBytes 8 s.supTime.toNat

/-- The records of a round; the UNCERT of a source without a sample is a free value. -/
def timeRecords (s : State) (samples : List TimeSample) : List (List Byte) × State :=
  s.timeSources.foldl (fun (a : List (List Byte) × State) src =>
    match samples.find? fun x => x.source == src with
    | some x => (a.1 ++ [a.2.timeRecord src x.uncert], a.2)
    | none =>
      let f := a.2.fresh 32
      (a.1 ++ [f.2.timeRecord src (f.1 % 101)], f.2)) ([], s)

/-- TIMECORR messages of at most nine device records; a round without records sends one all the same. `fuel` bounds them. -/
def timeMessages (s : State) (host : List Byte) (l : List (List Byte)) : Nat → State
  | 0 => s
  | fuel + 1 =>
    let s1 := s.send (.timeCorr host (l.take 9))
    if l.length ≤ 9 then s1 else s1.timeMessages host (l.drop 9) fuel

/-- The pings of a round: four exchanges (R385). -/
def timePings (s : State) : State :=
  (List.range 4).foldl (fun (s : State) _ => s.send (.timePing s.supTime))
    { s with plk := { s.plk with pings := List.replicate 4 s.supTime, best := none, roundOpen := true } }

/-- A correlation round: the exchanges made since the last one give the host record, the live sources theirs, and the next
exchanges begin. A round whose exchanges all failed sets TIME_FAIL. -/
def timeRound (s : State) (samples : List TimeSample) : State :=
  if s.plk.state ≠ .active ∨ s.isOpen 78 = false ∨ s.isOpen 77 = false then s
  else if s.plk.roundOpen = false then s.timePings
  else
    let n := (s.plk.corrRound + 1) % 65536
    let host := s.hostRecord n
    let r := s.timeRecords samples
    let s1 := r.2.timeMessages host r.1 (r.1.length + 1)
    let s2 : State := { s1 with
      plk := { s1.plk with
        supRestarted := false, corrRound := n, corrValid := s.plk.best.isSome,
        corrUncert := if s.plk.best.isSome then le host 16 4 else s.plk.corrUncert }
      domains := tmap (fun d x => if s.timeSources.contains d then { x with restarted := false } else x) s1.domains
      cores := tmap (fun c x => if s.timeSources.contains (80 + c) then { x with restarted := false } else x) s1.cores }
    (if s.plk.best.isSome then s2 else s2.raiseEv evPlk 6).timePings

/-- A message arrives while the link is ACTIVE; its buffer space is freed (R378). -/
def arrives (s : State) (cls n : Nat) (f : State → State) : State :=
  if s.plk.state = .active then (f s).freed cls n else s

end State

/-- REG_WR (R380, R381). -/
def execRegWr (offset size value : Nat) (s : State) : Host.Outcome State Fault Refusal :=
  act s fun s => s.arrives 0 2 fun s => s.regWr offset size value

/-- REG_WRA (R380). -/
def execRegWra (tag offset size value : Nat) (s : State) : Host.Outcome State Fault Refusal :=
  act s fun s => s.arrives 1 1 fun s => s.regWra tag offset size value

/-- REG_RD (R380): a device that has reported fatal still answers some blocks (R348). -/
def execRegRd (tag offset size : Nat) (s : State) : Host.Outcome State Fault Refusal :=
  done s (s.arrives 1 1 fun s => s.regRd tag offset size)

/-- MEM_WR (R382). -/
def execMemWr (addr : Nat) (data : List Byte) (s : State) : Host.Outcome State Fault Refusal :=
  act s fun s => s.arrives 0 (1 + ceilDiv data.length 16) fun s => s.memWr addr data

/-- MEM_RD (R382). -/
def execMemRd (tag addr bytes : Nat) (s : State) : Host.Outcome State Fault Refusal :=
  act s fun s => s.arrives 1 1 fun s => s.memRd tag addr bytes

/-- FLIT_RECEIVE (R376): the link of a device that has reported fatal still carries register reads (R348). -/
def execFlitReceive (bytes : List Byte) (s : State) : Host.Outcome State Fault Refusal := done s (s.flit bytes)

/-- PLK_ACK_TIMEOUT (R377). -/
def execPlkAckTimeout (s : State) : Host.Outcome State Fault Refusal := act s fun s => s.plkReplay

/-- PLK_RETRAIN_END (R377). -/
def execPlkRetrainEnd (ok : Bool) (s : State) : Host.Outcome State Fault Refusal := act s fun s => s.retrainEnd ok

/-- LINK_TRAINING (R372, R375). -/
def execLinkTraining (versions lanes pwSlots npReqs mgtSlots : Nat) (s : State) : Host.Outcome State Fault Refusal :=
  act s fun s => s.train versions lanes pwSlots npReqs mgtSlots

/-- TRAINING_TIMEOUT (R375). -/
def execTrainingTimeout (s : State) : Host.Outcome State Fault Refusal := act s fun s => s.trainTimeout

/-- LANE_FAILURE (R374). -/
def execLaneFailure (lane : Nat) (s : State) : Host.Outcome State Fault Refusal := act s fun s => s.laneFails lane

/-- TIME_CORR_ROUND (R64, R385). -/
def execTimeCorrRound (samples : List TimeSample) (s : State) : Host.Outcome State Fault Refusal :=
  act s fun s => s.timeRound samples

/-- TIME_PONG (R385). -/
def execTimePong (t1 h2 h3 : DWord) (s : State) : Host.Outcome State Fault Refusal :=
  act s fun s => s.arrives 2 2 fun s => s.timePong t1 h2 h3

/-- PING_TIMEOUT (R385): the exchange is discarded. -/
def execPingTimeout (t1 : DWord) (s : State) : Host.Outcome State Fault Refusal :=
  act s fun s => { s with plk := { s.plk with pings := s.plk.pings.erase t1 } }

end Sys2Proof.Machine
end

