-- ==== Sys2Proof/Machine/Rhizome.lean ====
section
/-! DEFINITION. What arrives at the end of a Rhizome link (R52, R54) and the checks of a Peristome on it (R341, R343). -/

namespace Sys2Proof.Machine

namespace State

/-- A transfer is dropped as stale (R341, R343): it counts at the receiving die, and in the record of the source domain's
latest reset. -/
def countStale (s : State) (die d : Nat) : State :=
  let s1 := { s with flt := { s.flt with stale := tput s.flt.stale die (satAdd 32 (tgetD s.flt.stale die 0) 1) } }
  let id := (s1.dom d).lastRecord
  if id = 0 then s1 else s1.modFault id fun r => { r with stale := satAdd 16 r.stale 1 }

/-- A domain's epoch as the Peristome of a die has it: the new one only from the die's epoch notice on (R341, R342). -/
def epochAt (s : State) (die d : Nat) : Half :=
  let x := s.dom d
  if x.state = .resetting ∧ x.ready = true ∧ x.epochAcks.contains die = false then x.epoch - 1 else x.epoch

/-- The request that a response answers: one delivered from the die the response goes to, with its tag. -/
def answered (s : State) (h : DWord) : Option Delivered :=
  s.delivered.find? fun x => rzClass x.transfer.header == 0 && rzSrcDie x.transfer.header == rzDstDie h &&
    rzDstDie x.transfer.header == rzSrcDie h && rzTag x.transfer.header == rzTag h

/-- A good transfer at its destination die passes the Peristome or is dropped (R341, R343). -/
def rzDeliver (s : State) (l : Nat) (x : RzTransfer) : State :=
  let h := x.header
  let die := rzDstDie h
  let d := rzSrcDomain h
  if rzEpoch h ≠ (s.epochAt die d).toNat then s.countStale die d
  else if rzClass h = 1 then
    match s.answered h with
    | none => s.countStale die d
    | some r =>
      if bitAt (rzTag h) 15 = bitAt (s.dom (rzSrcDomain r.transfer.header)).epoch.toNat 0 then
        { s with delivered := (s.delivered.filter fun y => y != r) ++ [{ link := l, transfer := x }] }
      else s.countStale die d
  else { s with delivered := s.delivered ++ [{ link := l, transfer := x }] }

/-- A good transfer that a link end takes: it is acknowledged, and delivered at its destination or sent on (R51, R54). One that is
malformed is acknowledged and dropped (DESIGN CHOICE, log entry 162: the spec does not say what a receiver does with it). -/
def rzTake (s : State) (l : Nat) (high : Bool) (x : RzTransfer) : State :=
  let k := s.rzLink l
  let n := rzEnd l high
  let came := some (rzEnd l !high)
  let s0 := (s.setRzLink l (k.setDir high ((k.dir high).acked x))).sendCtl (.rzAck l high)
  let s1 := if rzEsc x then s0.rzPumpAll else s0.rzPump l high (k.dir high).wait.length
  if rzFormed l x then
    match s.nextHop n came x.header with
    | none => s1.rzDeliver l x
    | some _ => s1.rzForward n came x
  else s1

/-- A transfer arrives at the end of a link (R54): a good one is taken, unless one sent before it must come first; a bad one is
answered with a replay request, which after 8 failed replays of one transfer makes the link retrain. -/
def rzReceive (s : State) (l : Nat) (high : Bool) (x : RzTransfer) (crc : Nat) : State :=
  let k := s.rzLink l
  let d := k.dir high
  if s.variant.link l = false ∨ k.state ≠ .up then s
  else if rzCrc x = crc then
    if d.ahead x then s else s.rzTake l high x
  else
    let s1 := ((s.setRzLink l { k.setDir high (d.missed x crc) with
      replays := satAdd 16 k.replays 1 }).sendCtl (.rzReplay l high)).raiseEv evRz 0
    if 8 ≤ d.failures x then s1.rzRetrain l else s1

end State

/-- RZ_TRANSFER_RECEIVE (R54). -/
def execRzTransferReceive (link : Nat) (high : Bool) (header : DWord) (payload : List Byte) (crc : Word) (s : State) :
    Host.Outcome State Fault Refusal :=
  act s fun s => s.rzReceive link high { header := header, payload := payload } crc.toNat

/-- RZ_RETRAIN_END (R54). -/
def execRzRetrainEnd (link : Nat) (ok : Bool) (s : State) : Host.Outcome State Fault Refusal :=
  act s fun s => s.rzRetrained link ok

end Sys2Proof.Machine
end

