-- ==== Sys2Proof/Machine/SorusUnits.lean ====
section
/-! DEFINITION. The commands of the Sorus slices and the loss units: SPUT, STAKE, LOSS (R30 to R41, R171 to R173, R429,
R430). -/

namespace Sys2Proof.Machine

/-! ### SPUT and STAKE -/

namespace State

/-- The largest exponent among the elements that a SPUT copies (R131): W12 elements of a feature channel, log-probabilities of a
soft-target one. -/
def sputExp (s : State) (c q : Nat) (ch : Channel) (x : At) : Int :=
  match s.opd x 25 [0] with
  | some r =>
    maxExpOf ((List.range r.rows).flatMap fun n =>
      let l := s.readBytes (s.ctx c).ptn (s.queueDie c q) (r.addr + n * (if r.stride = 0 then ch.tokenBytes else r.stride)) ch.tokenBytes
      if ch.feature then (List.range ch.width).map fun j => decodeElem 4 false (getElem (fun o => l.getD o 0) 4 j)
      else (List.range (ch.width + 1)).map fun j => decodeElem 2 false (le l (6 * j) 2))
  | none => -128

/-- SPUT copies rows into the FILLING slot and, with COMMIT, commits it (R171). Without COMMIT, the SEQ and the count that
its record's body names (Table 6-20) are free values. -/
def runSput (s : State) (c q : Nat) (idx : Word) (x : At) (d : Desc) (i : Nat) : State :=
  match tget s.channels i with
  | none => s
  | some ch =>
    let ptn := (s.ctx c).ptn
    let die := s.queueDie c q
    let s1 := match s.opd x 25 [0] with
      | some r =>
        let f := s.fillSlot i
        if f.1 = Channel.noSlot then f.2
        else (List.range r.rows).foldl (fun (s : State) n => s.putRow c q idx (sorRow i f.1 ch.tokenBytes (d.addr + n)) 0
          (s.readBytes ptn die (r.addr + n * (if r.stride = 0 then ch.tokenBytes else r.stride)) ch.tokenBytes) 2) f.2
      | none => s
    let top := if x.b 8 then s.sputExp c q ch x else -128
    if !x.b 43 then
      let b := s1.fresh 64
      b.2.modCmd c q idx fun y => { y with body := leBytes 8 b.1 ++ zeros 8, maxExp := top, result := some .ok }
    else
      match (tget s1.channels i).bind fun ch =>
          (if 0 < ch.skip then some Channel.noSlot else ch.find .filling).map fun k => (ch, k) with
      | none => s1.answer c q idx .refusedInfeasible
      | some (ch, k) =>
        let valid := x.f 54 45 + 1
        let cur := match s1.opd x 34 [0] with
          | some o => s1.cursorAt ptn die o 0
          | none => 0
        let s2 := (if k = Channel.noSlot then s1 else s1.padTokens i k ch valid (s1.chanTokens ch)).chanCommit i c q idx cur valid (x.b 44)
        let free := ((tget s2.channels i).map fun (ch : Channel) => ch.count .free).getD 0
        s2.modCmd c q idx fun y => { y with
          body := leBytes 4 (ch.nextSeq - BitVec.ofNat 32 ch.skip).toNat ++ leBytes 4 free ++ zeros 8, maxExp := top, result := some .ok }

/-- The slot that a STAKE copies: the oldest FULL one, or the FULL one of a SEQ (R172). -/
def stakeSlot (x : At) (ch : Channel) : Option Nat :=
  if x.b 34 then ch.order.find? fun k =>
    let sl := ch.slots.getD k SorSlot.reset
    sl.state == .full && sl.seq.toNat == x.f 95 64
  else ch.oldestFull

/-- A SEQ older than every FULL or CONSUMING slot, and than the next block to commit (R172). -/
def stakeStale (x : At) (ch : Channel) : Bool :=
  let seq := BitVec.ofNat 32 (x.f 95 64)
  let older := fun (w : Word) => decide ((seq - w).toInt < 0)
  x.b 34 && older ch.nextSeq &&
  ch.slots.all fun sl => !(sl.state == .full || sl.state == .consuming) || older sl.seq

/-- STAKE copies a block, header first, and leaves the slot as it is (R172). -/
def runStake (s : State) (c q : Nat) (idx : Word) (x : At) (i : Nat) : State :=
  match tget s.channels i, s.opd x 25 [0] with
  | some ch, some d =>
    match stakeSlot x ch with
    | some k =>
      let sl := ch.slots.getD k SorSlot.reset
      let data := s.mem.readAll (sorKey i k 0) (ch.tokenBytes * s.chanTokens ch)
      (s.putBytes c q idx (s.ctx c).ptn (s.queueDie c q) d.addr (sl.header ++ data)).modCmd c q idx fun y => { y with
        body := leBytes 4 sl.seq.toNat ++ zeros 12, result := some .ok }
    | none => s
  | _, _ => s

/-! ### The loss unit: logits -/

/-- The arrays of a queue's lowest-numbered quadrant. -/
def lossArrays (s : State) (c q : Nat) : List Nat :=
  let k := (members (s.queueQuads c q) 32).headD 0
  ((List.range 128).map fun a => 128 * k + a).filter fun a => !(s.arr a).retired

/-- Whether the slots that a row tile's logits take are FREE (R173). -/
def lossSlots (s : State) (c q vocab : Nat) : Bool :=
  let as := s.lossArrays c q
  as.length > 0 && as.zipIdx.all fun a =>
    let want := Nat.min 4 (ceilDiv (colTiles vocab - a.2) as.length)
    want ≤ ((s.arr a.1).slots.filter fun sl => sl.state == .free).length

/-- The logits of row tile `rt` and column tile `ct`: H × W with the command's chunk depth, chunks in ascending k (R173,
R83, R97). The result holds the retries of all chunks. -/
def logitTile (s : State) (x : At) (h w : Desc) (rt ct : Nat) : TileRun :=
  let k := s.ctx x.c
  let die := s.queueDie x.c x.q
  let cl := pairClass (x.f 64 61) (x.f 68 65)
  let depth := x.f 86 81 * cl.1
  let cols := roundUp (Nat.min 256 (w.cols - 256 * ct)) 16
  (List.range (ceilDiv h.cols (Nat.max 1 depth))).foldl (fun r u =>
    let lo := u * depth
    let len := Nat.min depth (roundUp (h.cols - lo) cl.1)
    let n := chunkRun k.tx2 0 r.tag cols (fun i j => (r.rows.getD i []).getD j Num.zero) fun i j =>
      (List.range len).map fun e =>
        let av := if 16 * rt + i < h.rows ∧ lo + e < h.cols then
            decodeElem (x.f 64 61) k.tx2 (s.elem (s.memRow k.ptn die h (x.f 64 61) (16 * rt + i)) (x.f 64 61) (lo + e))
          else Num.zero
        let p := skewPos w (x.f 68 65) (lo + e) (256 * ct + j)
        (av, decodeElem (x.f 68 65) k.tx2 (s.elem (fun off => s.key k.ptn die (w.addr + p.1 + off)) (x.f 68 65) p.2))
    { n with retries := r.retries + n.retries, ovf := r.ovf || n.ovf }) { tag := 0, retries := 0, ovf := false, rows := [] }

/-- Issue waves of a row tile's logits (R73). -/
def logitWaves (x : At) (h w : Desc) : Nat :=
  let cl := pairClass (x.f 64 61) (x.f 68 65)
  (List.range (colTiles w.cols)).foldl (fun a ct =>
    a + roundUp (Nat.min 256 (w.cols - 256 * ct)) 16 * roundUp h.cols cl.1 * 4 / (16 * cl.2)) 0

end State

/-! ### The loss unit: arithmetic (R37 to R40, R429) -/

/-- A soft-target token record: whether it is VALID, the top entries (log-probability, index), the tail. -/
structure SoftRec where
  valid : Bool
  top : List (Num × Nat)
  tail : Num
  tailZero : Bool

/-- The record of K + 1 entries (Table 1-7). A record is VALID when its entry 0 says so: what holds for one whose entries disagree,
the spec leaves open (DESIGN CHOICE, log entry 190). -/
def softRec (k : Nat) (l : List Byte) : SoftRec :=
  let e := fun i => le l (6 * i) 6
  { valid := bitAt (e 0) 40, top := (List.range k).map fun i => (decodeElem 2 false (e i % 2 ^ 16), fld (e i) 39 16),
    tail := decodeElem 2 false (e k % 2 ^ 16), tailZero := bitAt (e k) 42 }

/-- A record that TOPK could not have written: an index of V or more, or one twice (R430). -/
def SoftRec.bad (r : SoftRec) (vocab : Nat) : Bool :=
  r.valid && ((r.top.any fun e => e.2 ≥ vocab) || decide (¬(r.top.map (·.2)).Nodup))

/-- What one token gives: its loss, the KL and hard-label terms, its gradients before the division. -/
structure TokenLoss where
  loss : Num
  kl : Num
  ce : Num
  grads : List Num

/-- A soft-target token (R37, R40): `z` the logits in FP32, `y` the label, `out` what z[y] reads as beyond the vocabulary.
Each operation rounds once and, in TX2 emulation, its subnormal results are zero. -/
def softToken37 (tx2 : Bool) (t alpha beta : Num) (z : List Num) (r : SoftRec) (y : Int) (out : Num) : TokenLoss :=
  let f := subRule tx2
  let z := z.map f
  let zt := z.map fun v => f (fdiv v t)
  let maxOf := fun (l : List Num) => l.foldl (fun a v => fmax a v) (l.headD Num.zero)
  let lse := fun (l : List Num) =>
    let m := maxOf l
    f (fadd m (f (fln (f (f32 (p48Sum (l.map fun v => f (fexp (f (fsub v m))))))))))
  let lseT := lse zt
  let lse1 := lse z
  let lq := fun j => f (fsub (zt.getD j Num.zero) lseT)
  let qsum := f (f32 (p48Sum (r.top.map fun e => f (fexp (lq e.2)))))
  let terms := r.top.map fun e => f (fmul (f (fexp (f e.1))) (f (fsub (f e.1) (lq e.2))))
  let qTail := fmax (f (fsub Num.one qsum)) (.fin false 1 (-24))
  let tl := f r.tail
  let tailTerm := if r.tailZero then [] else [f (fmul (f (fexp tl)) (f (fsub tl (f (fln qTail)))))]
  let kl := f (f32 (p48Sum (terms ++ tailTerm)))
  let hard := !beta.isZero && decide (y ≥ 0)
  let zy := if y.toNat < z.length then z.getD y.toNat Num.zero else f out
  let ce := if hard then f (fsub lse1 zy) else Num.zero
  let aT := f (fmul alpha t)
  let loss := f (fadd (f (fmul (f (fmul aT t)) kl)) (f (fmul beta ce)))
  let pTail := if r.tailZero then Num.zero else f (fexp tl)
  let outside := f (fsub Num.one (f (fdiv pTail qTail)))
  let grads := z.zipIdx.map fun e =>
    let q := f (fexp (lq e.2))
    let a := match r.top.find? fun p => p.2 == e.2 with
      | some p => f (fmul aT (f (fsub q (f (fexp (f p.1))))))
      | none => f (fmul (f (fmul aT q)) outside)
    if beta.isZero then a
    else
      let ind := if decide (y = (e.2 : Int)) then Num.one else Num.zero
      f (fadd a (f (fmul beta (f (fsub (f (fexp (f (fsub e.1 lse1)))) ind)))))
  { loss := loss, kl := kl, ce := ce, grads := grads }

/-- A feature token (R38, R40). -/
def featureToken (tx2 : Bool) (gamma : Num) (sv fv : List Num) : TokenLoss :=
  let f := subRule tx2
  let d := Num.ofNat sv.length
  let diffs := (sv.zip fv).map fun p => f (fsub (f (f32 p.1)) (f (f32 p.2)))
  let sq := f (f32 (p48Sum (diffs.map fun v => f (fmul v v))))
  let g2 := f (fmul gamma (.fin false 2 0))
  { loss := f (fmul (f (fmul gamma (f (frcp d)))) sq), kl := Num.zero, ce := Num.zero,
    grads := diffs.map fun v => f (fdiv (f (fmul g2 v)) d) }

namespace State

/-- The label of token `t` (R173): the INT32 elements of LBL in row-major order; −1 without LBL. -/
def lossLabel (s : State) (x : At) (t : Nat) : Int :=
  match s.opd x 52 [0] with
  | some d =>
    let n := Nat.max 1 d.cols
    toSigned 32 (s.elem (s.memRow (s.ctx x.c).ptn (s.queueDie x.c x.q) d 13 (t / n)) 13 (t % n))
  | none => -1

/-- The tokens of a soft-target loss, row tile by row tile, with the runs of their logits. -/
def softLosses (s : State) (x : At) (ch : Channel) (h w : Desc) (recs : List SoftRec) :
    List (List TileRun × List (Option TokenLoss)) :=
  let tx2 := (s.ctx x.c).tx2
  (List.range (rowTiles h.rows)).map fun rt =>
    let tiles := (List.range (colTiles w.cols)).map fun ct => s.logitTile x h w rt ct
    let toks := (List.range (Nat.min 16 (h.rows - 16 * rt))).map fun i =>
      let t := 16 * rt + i
      match recs[t]? with
      | some r =>
        if r.valid then
          let z := (tiles.zipIdx.flatMap fun e =>
            ((e.1.rows.getD i []).take (w.cols - 256 * e.2)).map fun v => f32 (v.scale (8 * e.1.tag)))
          some (softToken37 tx2 (f32Of ch.temperature) (f32Of ch.alpha) (f32Of ch.beta) z r (s.lossLabel x t)
            (f32Of (Config.freeValue 32 (s.free + t)).toNat))
        else none
      | none => none
    (tiles, toks)

/-- What a LOSS writes and reports, once its tokens are known (R39 to R41). `sl` is the block's slot; `ovf` says that a logit
overflowed at the last tag (R102); where a loss or gradient is non-finite as well, the code is NONFINITE_STEP (DESIGN CHOICE, log
entry 192). Token t draws at cursor CURSOR + t, where a block crosses a clip boundary too (DEDUCED, log entry
155). -/
def lossResult (s : State) (c q : Nat) (idx : Word) (x : At) (i : Nat) (ch : Channel) (sl : SorSlot) (width : Nat)
    (toks : List (Option TokenLoss)) (ovf : Bool) : State :=
  match s.opd x 43 [0] with
  | none => s
  | some g =>
    let k := s.ctx c
    let f := subRule k.tx2
    let good := toks.filterMap id
    let nv := good.length
    let n := Num.ofNat nv
    let tensor := (((tget s.jobs ch.job).map (·.tensorBase)).getD 0 + i) % 2 ^ 23
    let s0 := s.takeDraws c q idx (toks.length * width)
    let base := ((s0.cmd c q idx).bind (·.draws)).getD 0
    let d : Draw := {
      rform := true, tensor := tensor, key := k.seed.toNat, step := sl.step.toNat,
      cursor := fun t => sl.cursor.toNat + t, tx2 := k.tx2, base := base.toNat, cols := width }
    let rows := toks.zipIdx.map fun e => (List.range width).map fun j =>
      let v := match e.1 with
        | some t => f (fdiv (t.grads.getD j Num.zero) n)
        | none => Num.zero
      let ord := tileOrd toks.length width (j / 256 * rowTiles toks.length + e.2 / 16) (e.2 % 16) (j % 256)
      convertTo (x.f 72 69) (rndOf true 2 k.tx2 (d.out e.2 j ord)) false (toSigned 8 (x.f 80 73)) k.tx2 v
    let s1 := rows.zipIdx.foldl (fun s r => s.putDest c q idx k.ptn (s.queueDie c q) (.mem g) (x.f 72 69) width r.2 0
      (r.1.map (·.1))) s0
    let bad := good.any fun t => !t.loss.isFinite || t.grads.any fun v => !(f (fdiv v n)).isFinite
    let sum := fun (v : TokenLoss → Num) => f (f32 (p48Sum (good.map v)))
    let mean := if nv = 0 then Num.zero else f (fdiv (sum (·.loss)) n)
    let body := leBytes 4 (f32Bits mean) ++ leBytes 4 (f32Bits (sum (·.kl))) ++ leBytes 4 (f32Bits (sum (·.ce))) ++
      leBytes 4 (f32Bits (if ch.feature then sum (·.loss) else Num.zero)) ++ leBytes 2 nv ++ leBytes 2 sl.flags ++
      leBytes 4 sl.seq.toNat
    let vals := rows.flatMap fun r => r.map (·.2)
    s1.modCmd c q idx fun y => { y with
      started := true, body := body, maxExp := maxExpOf vals,
      result := some (if bad then .nonfiniteStep else if ovf then .accOverflow else .ok) }

/-- The loss unit takes the oldest FULL block and works through it (R173); with more column tiles than four on each live array
it computes the logits twice. At a bad token the row tile that it is met in becomes undefined with those worked before it (R430;
DESIGN CHOICE, log entry 191). -/
def runLoss (s : State) (c q : Nat) (idx : Word) (x : At) (i : Nat) : State :=
  match tget s.channels i, s.opd x 25 [0], s.opd x 43 [0] with
  | some ch, some h, some g =>
    match ch.oldestFull with
    | none => s
    | some k =>
      let sl := ch.slots.getD k SorSlot.reset
      let kx := s.ctx c
      let die := s.queueDie c q
      let s1 := s.setChan i (ch.setSlot k fun y => { y with state := .consuming })
      let tok := fun t => s.mem.readAll (sorKey i k (t * ch.tokenBytes)) ch.tokenBytes
      if ch.feature then
        let toks := (List.range h.rows).map fun t =>
          if t < sl.valid then
            let row := s.memRow kx.ptn die h (x.f 64 61) t
            let sv := (List.range ch.width).map fun j => decodeElem (x.f 64 61) kx.tx2 (s.elem row (x.f 64 61) j)
            let b := tok t
            let fv := (List.range ch.width).map fun j => decodeElem 4 kx.tx2 (getElem (fun o => b.getD o 0) 4 j)
            some (featureToken kx.tx2 (f32Of ch.gamma) sv fv)
          else none
        s1.lossResult c q idx x i ch sl ch.width toks false
      else
        match s.opd x 34 [0] with
        | none => s
        | some w =>
          let recs := (List.range h.rows).map fun t => softRec ch.width (tok t)
          match (List.range h.rows).find? fun t => (recs[t]?).any fun r => r.bad w.cols with
          | some t =>
            let rows := Nat.min h.rows (16 * (t / 16 + 1))
            let s2 := (List.range rows).foldl (fun s r => (List.range (rowBytes (x.f 72 69) w.cols)).foldl (fun s o =>
              match s.key kx.ptn die (g.addr + r * g.pitch (x.f 72 69) + o) with
              | some a => { s with mem := s.mem.undefine a (a + 1) s1.free }
              | none => s) s) s1
            ({ s2 with free := s2.free + 1 } : State).modCmd c q idx fun y => { y with
              started := true, body := zeros 24, result := some .refusedInfeasible }
          | none =>
            let tiles := s.softLosses x ch h w recs
            let as := s.lossArrays c q
            let once := fun (s : State) => tiles.foldl (fun s p => p.1.zipIdx.foldl (fun s r =>
              let a := as.getD (r.2 % Nat.max 1 as.length) 0
              (s.noteRun a r.1 (if r.2 = 0 then logitWaves x h w else 0)).noteLast a (if r.1.ovf then .accOverflow else .ok)
                r.1.retries) s) s
            let s2 := if 4 * as.length < colTiles w.cols then once (once s1) else once s1
            ({ s2 with free := s2.free + h.rows } : State).lossResult c q idx x i ch sl w.cols (tiles.flatMap (·.2))
              (tiles.any fun p => p.1.any (·.ovf))
  | _, _, _ => s

end State

/-- SPUT (R171): it waits for a slot when it copies rows. -/
def execSput (ctx q : Nat) (idx : Word) (s : State) : Host.Outcome State Fault Refusal :=
  act s fun s => s.unitStart 7 ctx q idx [] fun s _ x =>
    match s.opd x 16 [2] with
    | some d =>
      match s.chanOf d.handle with
      | some i => s.withChan ctx q idx i true (x.d 25 == 0 || s.canFill i) fun s => s.runSput ctx q idx x d i
      | none => s.answer ctx q idx .handleStale
    | none => s

/-- STAKE (R172): it waits for its block. -/
def execStake (ctx q : Nat) (idx : Word) (s : State) : Host.Outcome State Fault Refusal :=
  act s fun s => s.unitStart 8 ctx q idx [] fun s _ x =>
    match s.opd x 16 [2] with
    | some d =>
      match s.chanOf d.handle with
      | some i =>
        match tget s.channels i with
        | some ch =>
          if State.stakeStale x ch && s.chanActs i false then s.answer ctx q idx .refusedInfeasible
          else s.withChan ctx q idx i false (State.stakeSlot x ch).isSome fun s => s.runStake ctx q idx x i
        | none => s
      | none => s.answer ctx q idx .handleStale
    | none => s

/-- LOSS (R173): it waits for a FULL block and for its slots. -/
def execLoss (ctx q : Nat) (idx : Word) (s : State) : Host.Outcome State Fault Refusal :=
  act s fun s => s.unitStart 9 ctx q idx ((s.queueDomains ctx q).take 1) fun s _ x =>
    match s.opd x 16 [2] with
    | some d =>
      match s.chanOf d.handle with
      | some i =>
        match tget s.channels i with
        | some ch =>
          let slots := ch.feature || (s.opd x 34 [0]).any fun w => s.lossSlots ctx q w.cols
          s.withChan ctx q idx i false (ch.oldestFull.isSome && (ch.find .consuming).isNone && slots)
            fun s => s.runLoss ctx q idx x i
        | none => s
      | none => s.answer ctx q idx .handleStale
    | none => s

end Sys2Proof.Machine
end

