-- ==== Sys2Proof/Machine/Dispatch.lean ====
section
/-! DEFINITION. Every command to its meaning: one arm per row of the table of operations and events. -/

namespace Sys2Proof.Machine

def exec (i : Instr) (s : State) : Host.Outcome State Fault Refusal :=
  match i with
  | .regWrite offset value => Sys2Proof.Machine.execRegWrite offset value s
  | .eventRegWrite offset value => Sys2Proof.Machine.execEventRegWrite offset value s
  | .regWr offset size value => Sys2Proof.Machine.execRegWr offset size value s
  | .regWra tag offset size value => Sys2Proof.Machine.execRegWra tag offset size value s
  | .regRd tag offset size => Sys2Proof.Machine.execRegRd tag offset size s
  | .memWr addr data => Sys2Proof.Machine.execMemWr addr data s
  | .memRd tag addr bytes => Sys2Proof.Machine.execMemRd tag addr bytes s
  | .cplReceive tag status data => Sys2Proof.Machine.execCplReceive tag status data s
  | .hostRdTimeout tag => Sys2Proof.Machine.execHostRdTimeout tag s
  | .hostWrAck ident => Sys2Proof.Machine.execHostWrAck ident s
  | .flitReceive bytes => Sys2Proof.Machine.execFlitReceive bytes s
  | .plkAckTimeout => Sys2Proof.Machine.execPlkAckTimeout s
  | .plkRetrainEnd ok => Sys2Proof.Machine.execPlkRetrainEnd ok s
  | .plkCtlRetrain => Sys2Proof.Machine.execPlkCtlRetrain s
  | .linkTraining versions lanes pwSlots npReqs mgtSlots => Sys2Proof.Machine.execLinkTraining versions lanes pwSlots npReqs mgtSlots s
  | .trainingTimeout => Sys2Proof.Machine.execTrainingTimeout s
  | .laneFailure lane => Sys2Proof.Machine.execLaneFailure lane s
  | .timeCorrRound samples => Sys2Proof.Machine.execTimeCorrRound samples s
  | .timePong t1 h2 h3 => Sys2Proof.Machine.execTimePong t1 h2 h3 s
  | .pingTimeout t1 => Sys2Proof.Machine.execPingTimeout t1 s
  | .rzTransferReceive link high header payload crc => Sys2Proof.Machine.execRzTransferReceive link high header payload crc s
  | .rzRetrainEnd link ok => Sys2Proof.Machine.execRzRetrainEnd link ok s
  | .detourTimeout link => Sys2Proof.Machine.execDetourTimeout link s
  | .rateWindowEnd quad waves issued tj => Sys2Proof.Machine.execRateWindowEnd quad waves issued tj s
  | .opRampEnd group => Sys2Proof.Machine.execOpRampEnd group s
  | .matmul ctx q idx => Sys2Proof.Machine.execMatmul ctx q idx s
  | .convrow ctx q idx => Sys2Proof.Machine.execConvrow ctx q idx s
  | .eltwise ctx q idx => Sys2Proof.Machine.execEltwise ctx q idx s
  | .reduce ctx q idx => Sys2Proof.Machine.execReduce ctx q idx s
  | .topk ctx q idx => Sys2Proof.Machine.execTopk ctx q idx s
  | .convert ctx q idx => Sys2Proof.Machine.execConvert ctx q idx s
  | .sput ctx q idx => Sys2Proof.Machine.execSput ctx q idx s
  | .stake ctx q idx => Sys2Proof.Machine.execStake ctx q idx s
  | .loss ctx q idx => Sys2Proof.Machine.execLoss ctx q idx s
  | .dma ctx q idx => Sys2Proof.Machine.execDma ctx q idx s
  | .fence ctx q idx => Sys2Proof.Machine.execFence ctx q idx s
  | .event ctx q idx => Sys2Proof.Machine.execEvent ctx q idx s
  | .doorbell n value => Sys2Proof.Machine.execDoorbell n value s
  | .ctxQRestart index => Sys2Proof.Machine.execCtxQRestart index s
  | .ctxQAbort => Sys2Proof.Machine.execCtxQAbort s
  | .commandDispatch ctx q => Sys2Proof.Machine.execCommandDispatch ctx q s
  | .commandComplete ctx q idx => Sys2Proof.Machine.execCommandComplete ctx q idx s
  | .fenceSatisfied ctx q => Sys2Proof.Machine.execFenceSatisfied ctx q s
  | .fenceWaitLimit ctx q => Sys2Proof.Machine.execFenceWaitLimit ctx q s
  | .arrayIssue arr => Sys2Proof.Machine.execArrayIssue arr s
  | .arrayDrainEnd arr => Sys2Proof.Machine.execArrayDrainEnd arr s
  | .combine ctx q idx tile part => Sys2Proof.Machine.execCombine ctx q idx tile part s
  | .arrayEccError arr place corrected => Sys2Proof.Machine.execArrayEccError arr place corrected s
  | .layerGate ctx q => Sys2Proof.Machine.execLayerGate ctx q s
  | .stepGateRelease ctx => Sys2Proof.Machine.execStepGateRelease ctx s
  | .jobOpen addr => Sys2Proof.Machine.execJobOpen addr s
  | .jobClose addr => Sys2Proof.Machine.execJobClose addr s
  | .channelOpen addr => Sys2Proof.Machine.execChannelOpen addr s
  | .channelClose addr => Sys2Proof.Machine.execChannelClose addr s
  | .closeWaitLimit chan => Sys2Proof.Machine.execCloseWaitLimit chan s
  | .sorWaitLimit ctx q idx => Sys2Proof.Machine.execSorWaitLimit ctx q idx s
  | .parkedResume ctx => Sys2Proof.Machine.execParkedResume ctx s
  | .cowCopyDone frame => Sys2Proof.Machine.execCowCopyDone frame s
  | .attrRequest addr => Sys2Proof.Machine.execAttrRequest addr s
  | .hbmEccUe frame line source => Sys2Proof.Machine.execHbmEccUe frame line source s
  | .hbmParityError pc => Sys2Proof.Machine.execHbmParityError pc s
  | .pcPowerDown pc => Sys2Proof.Machine.execPcPowerDown pc s
  | .arbStarvation site requester holder => Sys2Proof.Machine.execArbStarvation site requester holder s
  | .streamOpen addr index => Sys2Proof.Machine.execStreamOpen addr index s
  | .streamClose addr => Sys2Proof.Machine.execStreamClose addr s
  | .streamPause addr => Sys2Proof.Machine.execStreamPause addr s
  | .streamResume addr => Sys2Proof.Machine.execStreamResume addr s
  | .clipFetch stream entry => Sys2Proof.Machine.execClipFetch stream entry s
  | .rdmaReadComplete stream position chunk result data => Sys2Proof.Machine.execRdmaReadComplete stream position chunk result data s
  | .clipMissingLimit stream => Sys2Proof.Machine.execClipMissingLimit stream s
  | .clipDecodeStart stream engine => Sys2Proof.Machine.execClipDecodeStart stream engine s
  | .clipDecodeEnd engine => Sys2Proof.Machine.execClipDecodeEnd engine s
  | .blockWrite stream => Sys2Proof.Machine.execBlockWrite stream s
  | .layoutBatch addr => Sys2Proof.Machine.execLayoutBatch addr s
  | .layoutBatchComplete => Sys2Proof.Machine.execLayoutBatchComplete s
  | .restripeCopyEnd ptn => Sys2Proof.Machine.execRestripeCopyEnd ptn s
  | .contextCreate addr => Sys2Proof.Machine.execContextCreate addr s
  | .contextDestroy addr => Sys2Proof.Machine.execContextDestroy addr s
  | .hotsetRequest addr => Sys2Proof.Machine.execHotsetRequest addr s
  | .testRequest addr => Sys2Proof.Machine.execTestRequest addr s
  | .testBorrowStart ctrl => Sys2Proof.Machine.execTestBorrowStart ctrl s
  | .testDeferLimit ctrl => Sys2Proof.Machine.execTestDeferLimit ctrl s
  | .testWindowEnd ctrl result => Sys2Proof.Machine.execTestWindowEnd ctrl result s
  | .procedureEnd ctrl result => Sys2Proof.Machine.execProcedureEnd ctrl result s
  | .contextBind ctx => Sys2Proof.Machine.execContextBind ctx s
  | .slotBoundary group => Sys2Proof.Machine.execSlotBoundary group s
  | .handoverStart group => Sys2Proof.Machine.execHandoverStart group s
  | .sliceExpiry ctx => Sys2Proof.Machine.execSliceExpiry ctx s
  | .contextSaveDone ctx => Sys2Proof.Machine.execContextSaveDone ctx s
  | .contextRestoreDone ctx => Sys2Proof.Machine.execContextRestoreDone ctx s
  | .contextTeardown ctx => Sys2Proof.Machine.execContextTeardown ctx s
  | .instanceCreate addr => Sys2Proof.Machine.execInstanceCreate addr s
  | .instanceDestroy addr => Sys2Proof.Machine.execInstanceDestroy addr s
  | .adapterRegister addr => Sys2Proof.Machine.execAdapterRegister addr s
  | .adapterRelease addr => Sys2Proof.Machine.execAdapterRelease addr s
  | .ringCreate addr => Sys2Proof.Machine.execRingCreate addr s
  | .ringDestroy addr => Sys2Proof.Machine.execRingDestroy addr s
  | .requestCancel addr => Sys2Proof.Machine.execRequestCancel addr s
  | .requestAdmission inst => Sys2Proof.Machine.execRequestAdmission inst s
  | .servingStepBoundary inst => Sys2Proof.Machine.execServingStepBoundary inst s
  | .servingPassEnd inst => Sys2Proof.Machine.execServingPassEnd inst s
  | .peerRingFailure ring => Sys2Proof.Machine.execPeerRingFailure ring s
  | .hello msg => Sys2Proof.Machine.execHello msg s
  | .helloAnswer status => Sys2Proof.Machine.execHelloAnswer status s
  | .formationLimit => Sys2Proof.Machine.execFormationLimit s
  | .stepEndReport member step status logOffset => Sys2Proof.Machine.execStepEndReport member step status logOffset s
  | .stepStartAck step => Sys2Proof.Machine.execStepStartAck step s
  | .stepStartRecord rec => Sys2Proof.Machine.execStepStartRecord rec s
  | .heartbeatSend => Sys2Proof.Machine.execHeartbeatSend s
  | .heartbeatReceive peer term => Sys2Proof.Machine.execHeartbeatReceive peer term s
  | .peerMiss peer => Sys2Proof.Machine.execPeerMiss peer s
  | .missReport member term => Sys2Proof.Machine.execMissReport member term s
  | .takeover peer term rec => Sys2Proof.Machine.execTakeover peer term rec s
  | .takeoverAnswer member term step => Sys2Proof.Machine.execTakeoverAnswer member term step s
  | .failoverLimit => Sys2Proof.Machine.execFailoverLimit s
  | .collectiveStart ctx peers => Sys2Proof.Machine.execCollectiveStart ctx peers s
  | .collectiveComplete ctx inputs statusWords => Sys2Proof.Machine.execCollectiveComplete ctx inputs statusWords s
  | .roceRetryTimeout qp => Sys2Proof.Machine.execRoceRetryTimeout qp s
  | .cePacketReceive qp => Sys2Proof.Machine.execCePacketReceive qp s
  | .cnpReceive qp => Sys2Proof.Machine.execCnpReceive qp s
  | .rateIncreaseTimer qp => Sys2Proof.Machine.execRateIncreaseTimer qp s
  | .pfcPauseReceive port prio quanta => Sys2Proof.Machine.execPfcPauseReceive port prio quanta s
  | .portDown port => Sys2Proof.Machine.execPortDown port s
  | .checkpointRequest => Sys2Proof.Machine.execCheckpointRequest s
  | .checkpointCapture => Sys2Proof.Machine.execCheckpointCapture s
  | .shardAck conn => Sys2Proof.Machine.execShardAck conn s
  | .shardNak conn => Sys2Proof.Machine.execShardNak conn s
  | .manifestAck => Sys2Proof.Machine.execManifestAck s
  | .logFlushAck lsn => Sys2Proof.Machine.execLogFlushAck lsn s
  | .flushTimeout => Sys2Proof.Machine.execFlushTimeout s
  | .checkpointLimit => Sys2Proof.Machine.execCheckpointLimit s
  | .sessionClose => Sys2Proof.Machine.execSessionClose s
  | .sessionReopen => Sys2Proof.Machine.execSessionReopen s
  | .mirrorHelloAnswer status feed handle => Sys2Proof.Machine.execMirrorHelloAnswer status feed handle s
  | .mirrorRetryTimer => Sys2Proof.Machine.execMirrorRetryTimer s
  | .mirrorHello msg => Sys2Proof.Machine.execMirrorHello msg s
  | .shardReceive session shard data digest => Sys2Proof.Machine.execShardReceive session shard data digest s
  | .manifestReceive session bytes => Sys2Proof.Machine.execManifestReceive session bytes s
  | .logRecordReceive session bytes => Sys2Proof.Machine.execLogRecordReceive session bytes s
  | .restore addr fetched => Sys2Proof.Machine.execRestore addr fetched s
  | .progressWindowExpiry domain unit cls => Sys2Proof.Machine.execProgressWindowExpiry domain unit cls s
  | .fenceNotice domain die => Sys2Proof.Machine.execFenceNotice domain die s
  | .domainDrainEnd domain => Sys2Proof.Machine.execDomainDrainEnd domain s
  | .domainResetReady domain => Sys2Proof.Machine.execDomainResetReady domain s
  | .epochNotice domain die => Sys2Proof.Machine.execEpochNotice domain die s
  | .fenceLift domain => Sys2Proof.Machine.execFenceLift domain s
  | .fenceClearNotice domain => Sys2Proof.Machine.execFenceClearNotice domain s
  | .resetEscalation domain => Sys2Proof.Machine.execResetEscalation domain s
  | .resetRequest domain => Sys2Proof.Machine.execResetRequest domain s
  | .resetPowerOff domain => Sys2Proof.Machine.execResetPowerOff domain s
  | .dumpNow => Sys2Proof.Machine.execDumpNow s
  | .dumpExport buf => Sys2Proof.Machine.execDumpExport buf s
  | .probeTimeout domain unit => Sys2Proof.Machine.execProbeTimeout domain unit s
  | .dumpEnd => Sys2Proof.Machine.execDumpEnd s
  | .domainPowerOn domain => Sys2Proof.Machine.execDomainPowerOn domain s
  | .domainPowerOff domain => Sys2Proof.Machine.execDomainPowerOff domain s
  | .autoOffTimer domain => Sys2Proof.Machine.execAutoOffTimer domain s
  | .opEvaluation => Sys2Proof.Machine.execOpEvaluation s
  | .powerOverCap inputW => Sys2Proof.Machine.execPowerOverCap inputW s
  | .coolantLoopPass tj th inlet outlet pos => Sys2Proof.Machine.execCoolantLoopPass tj th inlet outlet pos s
  | .ceilLower hottest => Sys2Proof.Machine.execCeilLower hottest s
  | .ceilRaise => Sys2Proof.Machine.execCeilRaise s
  | .coolingFault => Sys2Proof.Machine.execCoolingFault s
  | .coolingFaultEnd => Sys2Proof.Machine.execCoolingFaultEnd s
  | .tjHot quad tj => Sys2Proof.Machine.execTjHot quad tj s
  | .hotClear group => Sys2Proof.Machine.execHotClear group s
  | .thermalTrip group => Sys2Proof.Machine.execThermalTrip group s
  | .tripRestart group => Sys2Proof.Machine.execTripRestart group s
  | .inputLoss => Sys2Proof.Machine.execInputLoss s
  | .inputReturn => Sys2Proof.Machine.execInputReturn s
  | .holdupExhausted => Sys2Proof.Machine.execHoldupExhausted s
  | .holdupCharged joules full => Sys2Proof.Machine.execHoldupCharged joules full s
  | .stressAccumulate domain tj => Sys2Proof.Machine.execStressAccumulate domain tj s
  | .wearMeasure domain stressed fresh => Sys2Proof.Machine.execWearMeasure domain stressed fresh s
  | .wearStoreWrite => Sys2Proof.Machine.execWearStoreWrite s
  | .powerOnBoot => Sys2Proof.Machine.execPowerOnBoot s
  | .jobAutostart job graph => Sys2Proof.Machine.execJobAutostart job graph s
  | .updateRequest addr => Sys2Proof.Machine.execUpdateRequest addr s
  | .updateCoreTurn => Sys2Proof.Machine.execUpdateCoreTurn s
  | .updateDeferLimit => Sys2Proof.Machine.execUpdateDeferLimit s
  | .flashPersistEnd verified => Sys2Proof.Machine.execFlashPersistEnd verified s
  | .attestationRequest addr => Sys2Proof.Machine.execAttestationRequest addr s
  | .modRstN heldUs => Sys2Proof.Machine.execModRstN heldUs s
  | .clearFaults => Sys2Proof.Machine.execClearFaults s
  | .statusWord => Sys2Proof.Machine.execStatusWord s
  | .readVin => Sys2Proof.Machine.execReadVin s
  | .readIin => Sys2Proof.Machine.execReadIin s
  | .readTemperature1 => Sys2Proof.Machine.execReadTemperature1 s
  | .readTemperature2 => Sys2Proof.Machine.execReadTemperature2 s
  | .readTemperature3 => Sys2Proof.Machine.execReadTemperature3 s
  | .readPin => Sys2Proof.Machine.execReadPin s
  | .mfrRegRead offset => Sys2Proof.Machine.execMfrRegRead offset s
  | .mfrReset value => Sys2Proof.Machine.execMfrReset value s
  | .mfrFlash op addr data => Sys2Proof.Machine.execMfrFlash op addr data s
  | .intrHoldoffExpiry ev => Sys2Proof.Machine.execIntrHoldoffExpiry ev s
  | .portLinkUp port => Sys2Proof.Machine.execPortLinkUp port s
  | .pfcPauseExpiry port prio => Sys2Proof.Machine.execPfcPauseExpiry port prio s
  | .attestationReportDone => Sys2Proof.Machine.execAttestationReportDone s
  | .updateWatchEnd => Sys2Proof.Machine.execUpdateWatchEnd s
  | .supervisorRestartEnd => Sys2Proof.Machine.execSupervisorRestartEnd s
  | .partnerSessionClose => Sys2Proof.Machine.execPartnerSessionClose s
  | .groupPauseRequest member => Sys2Proof.Machine.execGroupPauseRequest member s

end Sys2Proof.Machine
end

