-- ==== Sys2Proof/Safety.lean ====
section
/-! DEFINITION. What counts as a safe state of the block, and the words that claims use. -/

namespace Sys2Proof.Machine

/-- The byte storage is in its canonical form. -/
def State.memWf (s : State) : Prop := s.mem.wf = true

/-- The block is in service: it has not reported fatal (R348), and its storage is in canonical form. -/
def State.safe (s : State) : Prop := s.flt.fatal = false ∧ s.memWf

/-- A message to the host has been sent, or waits for credits or for room in the replay store (R377, R378). -/
def State.sends (t : State) (m : OutMsg) : Prop := m ∈ t.out ∨ m ∈ t.plk.waiting

/-- One flit that carries no new message, with an IDLE before it where one is due (R373), is all that has been sent. -/
abbrev State.flits (s t : State) (m : OutMsg) : Prop := t.out = s.out ++ [m] ∨ t.out = s.out ++ [.idle, m]

/-- Command `y` of a queue may begin at its unit (R154, R11, R185): it is the one of the index, of the opcode, and has no code yet, its
context runs off the hold-up store, nothing earlier stands in its way, and the unit's domains and its operands answer. -/
abbrev State.ready (s : State) (op c q : Nat) (idx : Word) (y : Cmd) (doms : List Nat) : Prop :=
  s.flt.fatal = false ∧ s.pwr.onHoldup = false ∧ s.cmd c q idx = some y ∧ y.result = none ∧ y.started = false ∧ y.final = false ∧
  cmdOpcode y.word = op ∧ (s.ctx c).state = .running ∧ s.clear c q (s.earlier c q idx) (atCmd c q y) = true ∧
  (op ≤ 6 → s.cmdArrays c q ≠ []) ∧ (∀ d, d ∈ doms → s.isOpen d = true) ∧ s.accessStatus (atCmd c q y) = none

/-- What a command of a queue has become. -/
abbrev State.cmdIs (t : State) (c q : Nat) (idx : Word) (f : Cmd → Bool) : Prop := (t.cmd c q idx).any f = true

/-- `n` bytes from an address on, as a unit of a partition on a die reaches them, lie at the keys from `k` on. -/
abbrev State.lies (s : State) (ptn die a n k : Nat) : Prop := ∀ o, o < n → s.key ptn die (a + o) = some (k + o)

/-- The bytes from key `k` on are `l` after the step, and every other byte is as before. -/
abbrev State.stores (s t : State) (k : Nat) (l : List Byte) : Prop :=
  t.mem.readAll k l.length = l ∧ ∀ a, a < k ∨ k + l.length ≤ a → t.mem.read a = s.mem.read a

/-- The extensions of the owners of some quadrants that are over by now have ended (R242, log entry 68). -/
abbrev State.through (s : State) (ks : List Nat) : State := ks.foldl (fun s k => s.extensionOver k) s

/-- The commands that still act after a fatal report: register reads, flits that carry them, the loss and the return of the input
power, the reset pin, and what comes over the sideband (R348, R365, Table 18-5). -/
def outlivesFatal : Instr → Bool
  | .regRd _ _ _ | .flitReceive _ | .modRstN _ | .clearFaults | .statusWord | .readVin | .readIin | .readTemperature1
  | .readTemperature2 | .readTemperature3 | .readPin | .mfrRegRead _ | .mfrReset _ | .mfrFlash _ _ _ | .inputLoss | .inputReturn | .holdupExhausted =>
    true
  | _ => false

end Sys2Proof.Machine
end

