-- ==== Sys2Proof/Certificates/Slice0/Obligations.lean ====
section
/-! DEFINITION. The statements for the provers. -/

open Sys2Proof Sys2Proof.Machine

/-! ### The machine as a whole -/

/-- A step with a command waiting is that command's `exec` on the state with the queue's rest. -/
def Obligations.StepRunsFrontCommand : Prop :=
  ∀ (c : Instr) (rest : List Instr) (s : State),
    step { s with pending := c :: rest } = exec c { s with pending := rest }

/-- The model's tick (log entry 2): on an empty queue every live local time advances by 10 ns (R63), and nothing else
changes while the module is not on its hold-up store. -/
def Obligations.EmptyQueueTicks : Prop :=
  ∀ s : State, s.pending = [] → s.pwr.onHoldup = false →
    ∃ t, step s = .next t ∧ (∀ d, (t.dom d).time = if s.live d then (s.dom d).time + 10 else (s.dom d).time) ∧
      (∀ c, (t.core c).time = if s.live (coreDomain c) && thas s.cores c then (s.core c).time + 10 else (s.core c).time) ∧
      t = { s with domains := t.domains, cores := t.cores }

/-- Every command answers a next state on every state, and leaves the waiting commands and the variant as they are. Rests on log
entry 4. -/
def Obligations.EveryCommandAnswers : Prop :=
  ∀ (c : Instr) (s : State), ∃ t, exec c s = .next t ∧ t.pending = s.pending ∧ t.variant = s.variant

/-- After the fatal report (R348) every command but register reads, flits, the loss and return of input power and the sideband's leaves
the block as it is. Rests on log entry 13. -/
def Obligations.FatalStopsCommands : Prop :=
  ∀ (c : Instr) (s : State), s.flt.fatal = true → outlivesFatal c = false → exec c s = .next s

/-- The fatal report stands: from a state that has reported fatal and has no reset waiting, every step gives such a state, on the
hold-up store too. Rests on log entry 13. -/
def Obligations.FatalStateStands : Prop :=
  let resets : Instr → Bool := fun c => match c with
    | .modRstN _ | .mfrReset _ | .holdupExhausted => true
    | _ => false
  let inv : State → Prop := fun s => s.flt.fatal = true ∧ ∀ c ∈ s.pending, resets c = false
  ∀ s s' : State, inv s → step s = .next s' → inv s'

/-- Every step keeps the byte storage in its canonical form (log entry 5 says what an unlisted byte reads as). -/
def Obligations.StepKeepsMemoryForm : Prop :=
  ∀ s s' : State, s.memWf → step s = .next s' → s'.memWf

/-- Every step keeps the tables of domains and of serving requests in the order of their numbers, each number listed once: in
such a table a lookup and a scan agree, which later statements take as a premise. -/
def Obligations.StepKeepsTablesRising : Prop :=
  let inv : State → Prop := fun s => (s.domains.Pairwise fun p q => p.1 < q.1) ∧ (s.requests.Pairwise fun p q => p.1 < q.1)
  ∀ s s' : State, inv s → step s = .next s' → inv s'

/-- What reset leaves: nothing waits, storage is empty and in canonical form, the supervisor is in its ROM with the lock clear
(R398), Puchlink is DOWN, no context runs, dispatch waits for the store (R367), every domain is at epoch 0, the event
registers read 0, and the tables of domains and requests are in order. Rests on log entries 3, 5 and 8. -/
def Obligations.ResetLeaves : Prop :=
  State.reset.pending = [] ∧ State.reset.memWf ∧ State.reset.boot.state = 0 ∧ State.reset.boot.locked = false ∧
  State.reset.plk.state = .down ∧ State.reset.flt.fatal = false ∧ State.reset.pwr.dispatchHeld = true ∧
  (∀ c, (State.reset.ctx c).state = .free) ∧ (∀ d, (State.reset.dom d).epoch = 0) ∧ (∀ e, (State.reset.ev e).value = 0) ∧
  (∀ k, State.reset.mem.read k = 0) ∧ (∀ g, (State.reset.group g).ceil = 3) ∧ State.reset.sel.rateWin = 100 ∧
  (State.reset.domains.Pairwise fun p q => p.1 < q.1) ∧ (State.reset.requests.Pairwise fun p q => p.1 < q.1)

/-- The pages of a partition lie in the frames of its own pseudo-channels, and two pages of one partition in two frames
(R183). -/
def Obligations.PartitionPagesAreApart : Prop :=
  ∀ (p : Partition) (v w g f : Nat), p.locate v = some (g, f) →
    g ∈ p.pcList ∧ f < framesPerPc ∧ (p.locate w = some (g, f) → v = w)

/-- The layout of a device address (R182): SPACE 0b11 and every set reserved bit make it invalid, and otherwise its fields are
those of Table 7-2: the partition and the page in HBM, LOCAL, the base die and an offset below 80 MiB in scratchpad (1,280
pages, of which a partition has a share), the host address. -/
def Obligations.DeviceAddressLayout : Prop :=
  ∀ a : Nat, a < 2 ^ 64 →
    (a / 2 ^ 62 = 0 → parseAddr a = if a / 2 ^ 53 % 2 ^ 9 = 0 then .hbm (a / 2 ^ 48 % 32) (a % 2 ^ 48) else .bad) ∧
    (a / 2 ^ 62 = 1 → parseAddr a = if a / 2 ^ 52 % 2 ^ 10 = 0 ∧ a / 2 ^ 27 % 2 ^ 21 = 0 then
      .scr (a.testBit 51) (a / 2 ^ 48 % 8) (a % 2 ^ 27) else .bad) ∧
    (a / 2 ^ 62 = 2 → parseAddr a = if a / 2 ^ 56 % 2 ^ 6 = 0 then .host (a % 2 ^ 56) else .bad) ∧
    (a / 2 ^ 62 = 3 → parseAddr a = .bad) ∧
    ∀ (s : State) (ptn die : Nat),
      (parseAddr a = .bad → s.key ptn die a = none) ∧
      (a / 2 ^ 62 = 0 → a / 2 ^ 53 % 2 ^ 9 = 0 →
        s.key ptn die a = (s.pageFrame (a / 2 ^ 48 % 32) (a / 2 ^ 16 % 2 ^ 32)).map fun f => hbmKey f (a % 2 ^ 16)) ∧
      ∀ (p : Partition), tget s.ptns ptn = some p → a / 2 ^ 62 = 1 → a / 2 ^ 52 % 2 ^ 10 = 0 → a / 2 ^ 27 % 2 ^ 21 = 0 →
        let n := if a.testBit 51 then die else a / 2 ^ 48 % 8
        p.scratch.getD n 0 ≤ 1280 →
        (a % 2 ^ 27 < p.scratch.getD n 0 * 65536 → s.key ptn die a = some (scrKey ptn n (a % 2 ^ 27))) ∧
        (80 * 2 ^ 20 ≤ a % 2 ^ 27 → s.key ptn die a = none)

/-- Handles (R12): no generation is 0, an unused index has generation 1, an index taken has the generation its slot stands
at, a freed one the next, after 0xFFF 1 again; and the null handle names nothing. -/
def Obligations.HandleGenerations : Prop :=
  let inv : HandleTable → Prop := fun h => (∀ p ∈ h.gens, 1 ≤ p.2 ∧ p.2 ≤ 0xFFF)
  inv HandleTable.reset ∧ (∀ i, HandleTable.reset.gen i = 1) ∧
  ∀ (h : HandleTable), inv h →
    (∀ i, 1 ≤ h.gen i ∧ h.gen i ≤ 0xFFF) ∧
    (∀ (limit i : Nat) (h' : HandleTable), h.take limit = some (i, h') → inv h' ∧ ∀ j, h'.gen j = h.gen j) ∧
    (∀ i, inv (h.free i) ∧ (h.free i).gen i = (if h.gen i = 0xFFF then 1 else h.gen i + 1) ∧
      ∀ j, j ≠ i → (h.free i).gen j = h.gen j) ∧
    ∀ (kind limit : Nat) (alive : Nat → Bool), 1 ≤ kind → h.index kind limit alive 0 = none

/-! ### Register accesses, events and Puchlink -/

/-- A register access to a domain that is fenced or in reset is answered with RETRY_LATER (R11): a read and a REG_WRA by their
CPL, and nothing else changes; a REG_WR has no answer, and its offset and status are recorded (R381). -/
def Obligations.FencedRegisterAnswersRetryLater : Prop :=
  ∀ (s : State) (tag off size v : Nat) (r : Reg) (wide : Bool),
    s.flt.fatal = false → s.boot.state ≠ 4 → s.plk.state = .active → s.isOpen 77 = true →
    off < 2 ^ 28 → off % size = 0 → (size = 4 ∨ (size = 8 ∧ wide = true)) → regAt off = some (r, wide) →
    blockAbsent s.variant off = false → regAbsent s.variant r = false → State.noRegister r = false →
    s.variant.domain (s.holder r) = true →
    ((s.dom (s.holder r)).state = .fenced ∨ (s.dom (s.holder r)).state = .resetting) →
    (∃ t, exec (.regRd tag off size) s = .next t ∧ t.sends (.cpl tag .retryLater []) ∧
      t = { s with plk := t.plk, out := t.out }) ∧
    (1 ≤ s.plk.version → ∃ t, exec (.regWra tag off size v) s = .next t ∧ t.sends (.cpl tag .retryLater []) ∧
      t = { s with plk := t.plk, out := t.out }) ∧
    (s.plk.rejValid = false → ∃ t, exec (.regWr off size v) s = .next t ∧ t.plk.rejValid = true ∧ t.plk.rejOffset = off ∧
      t.plk.rejStatus = .retryLater ∧ bitAt (t.ev evPlk).value 4 = true ∧
      t = { s with plk := t.plk, out := t.out, events := t.events })

/-- A register write takes effect (R9), and a reserved encoding leaves the register as it was (R10): `GLB_RATE_WIN` by each of
REG_WRITE, REG_WR and REG_WRA; a REG_WR frees two slots and has no answer, a REG_WRA is answered OK. A register read is answered with
the register's bytes, least significant first (R7, R380): `GLB_INT_PEND`, and the enable register of each of the fifteen first event
registers. Writing ones to an event register clears those bits and no others, and writing its enable register sets the enables (R384,
Table 0-4). Nothing else but the messages changes. -/
def Obligations.RegistersAreReadAndWritten : Prop :=
  (∀ (s : State) (tag v : Nat), s.flt.fatal = false → s.boot.state ≠ 4 → s.isOpen 78 = true →
      let w := if 10 ≤ v % 2 ^ 14 ∧ v % 2 ^ 14 ≤ 10000 then v % 2 ^ 14 else s.sel.rateWin
      (∃ t, exec (.regWrite 0x900 v) s = .next t ∧ t = { s with sel := { s.sel with rateWin := w } }) ∧
      (s.plk.state = .active → s.isOpen 77 = true →
        (∃ t, exec (.regWr 0x900 4 v) s = .next t ∧
          s.flits t (.credits 0 2) ∧
          t = { s with
            sel := { s.sel with rateWin := w }, plk := { s.plk with sinceIdle := t.plk.sinceIdle }, out := t.out }) ∧
        (1 ≤ s.plk.version → ∃ t, exec (.regWra tag 0x900 4 v) s = .next t ∧ t.sends (.cpl tag .ok []) ∧
          t = { s with sel := { s.sel with rateWin := w }, plk := t.plk, out := t.out }))) ∧
  (∀ (s : State) (tag : Nat), s.flt.fatal = false → s.boot.state ≠ 4 → s.plk.state = .active → s.isOpen 77 = true →
      (s.isOpen 78 = true → ∃ t, exec (.regRd tag 0x18 8) s = .next t ∧
        t.sends (.cpl tag .ok (leBytes 8 (s.readReg .glbIntPend))) ∧ t = { s with plk := t.plk, out := t.out }) ∧
      (∀ e, e < 15 → s.variant = .full → s.isOpen (eventDomain e) = true →
        ∃ t, exec (.regRd tag (eventOffset e + 4) 4) s = .next t ∧
          t.sends (.cpl tag .ok (leBytes 4 (s.ev e).enable)) ∧ t = { s with plk := t.plk, out := t.out })) ∧
  (∀ (s : State) (e v : Nat), s.flt.fatal = false → s.boot.state ≠ 4 → s.variant = .full → e < 15 →
      s.isOpen (eventDomain e) = true →
      (∃ t, exec (.eventRegWrite (eventOffset e) v) s = .next t ∧
        (t.ev e).value = (s.ev e).value - ((s.ev e).value &&& v) ∧ (t.ev e).enable = (s.ev e).enable ∧
        (∀ i, i ≠ e → t.ev i = s.ev i) ∧ t = { s with events := t.events, plk := t.plk, out := t.out }) ∧
      (∃ t, exec (.eventRegWrite (eventOffset e + 4) v) s = .next t ∧
        (t.ev e).value = (s.ev e).value ∧ (t.ev e).enable = v &&& eventMask e ∧
        (∀ i, i ≠ e → t.ev i = s.ev i) ∧ t = { s with events := t.events, plk := t.plk, out := t.out }))

/-- An event raised while its latch is clear, its bit enabled, no hold-off running and its domain and PD78 open sends an
INTR at once and sets the latch; while the latch is set none is sent; and when the hold-off ends, an INTR that waited is sent (R384). -/
def Obligations.InterruptsAreLatched : Prop :=
  (∀ (s : State) (e b : Nat), e ≠ 2 → e ≠ 3 → e ≠ 12 → s.linkUp = true → s.isOpen (eventDomain e) = true → s.isOpen 78 = true →
    ((s.ev e).value ||| 2 ^ b) &&& (s.ev e).enable ≠ 0 → (s.ev e).pending = false → (s.ev e).holding = false →
    ((s.raiseEv e b).ev e).pending = true ∧
    (s.raiseEv e b).sends (.intr (eventOffset e) false 0 0 ((s.ev e).value ||| 2 ^ b) 0 s.supTime)) ∧
  (∀ (s : State) (e b : Nat), (s.ev e).pending = true →
    s.raiseEv e b = s.setEv e { s.ev e with value := (s.ev e).value ||| 2 ^ b }) ∧
  (∀ (s : State) (e : Nat), s.flt.fatal = false → e ≠ 2 → e ≠ 3 → e ≠ 12 → s.linkUp = true → s.isOpen (eventDomain e) = true →
    s.isOpen 78 = true → (s.ev e).value &&& (s.ev e).enable ≠ 0 → (s.ev e).pending = false → (s.ev e).holding = true →
    ∃ t, exec (.intrHoldoffExpiry e) s = .next t ∧ (t.ev e).pending = true ∧ (t.ev e).value = (s.ev e).value ∧
      t.sends (.intr (eventOffset e) false 0 0 (s.ev e).value 0 s.supTime) ∧
      t = { s with events := t.events, plk := t.plk, out := t.out })

/-- A MEM_WR to an allowed place stores its bytes there and no others, and a MEM_RD is answered with the bytes (R382): device HBM
of a live partition, within one page, with no frame attribute set. The answer to a HOST_RD stores its bytes and ends the wait,
and one with a status gives the command CONTEXT_FAULT (R383); one that does not come in time gives it DOMAIN_RESET and sets
CPL_TIMEOUT; a HOST_WR counts as acknowledged with its flit. Rests on log entry 6. -/
def Obligations.HostMemoryIsReached : Prop :=
  (∀ (s : State) (tag ptn off f n : Nat) (l : List Byte),
      s.flt.fatal = false → s.plk.state = .active → s.boot.state ≠ 4 → s.isOpen 77 = true →
      ptn < 32 → off < 2 ^ 48 → 1 ≤ l.length → l.length ≤ 256 → off % 65536 + l.length ≤ 65536 →
      1 ≤ n → n ≤ 256 → off % 65536 + n ≤ 65536 →
      s.pageFrame ptn (off / 65536) = some f → s.attr f = 0 → s.pcRetired (f / framesPerPc) = false → f < 2 ^ 40 →
        s.isOpen (stackDomain (f / framesPerPc / 32)) = true → s.isOpen (sramDomain (f / framesPerPc / 64)) = true →
      (∃ t, exec (.memWr (ptn * 2 ^ 48 + off) l) s = .next t ∧
        (∀ i, (h : i < l.length) → t.mem.read (hbmKey f (off % 65536) + i) = l[i]) ∧
        (∀ k, k < hbmKey f (off % 65536) ∨ hbmKey f (off % 65536) + l.length ≤ k → t.mem.read k = s.mem.read k) ∧
        s.flits t (.credits 0 (1 + ceilDiv l.length 16)) ∧
        t = { s with
          mem := t.mem, lines := t.lines, pcs := t.pcs, plk := { s.plk with sinceIdle := t.plk.sinceIdle }, out := t.out }) ∧
      (∃ t, exec (.memRd tag (ptn * 2 ^ 48 + off) n) s = .next t ∧
        t.sends (.cpl tag .ok (s.mem.readAll (hbmKey f (off % 65536)) n)) ∧
        t = { s with pcs := t.pcs, plk := t.plk, out := t.out })) ∧
  ((∀ (s : State) (r : HostRead) (data : List Byte), s.flt.fatal = false → s.linkUp = true → s.plk.reads = [r] →
      data.length = r.bytes →
      (∃ t, exec (.cplReceive r.tag 0 data) s = .next t ∧ t.plk.reads = [] ∧
        (∀ i, (h : i < data.length) → t.mem.read (r.key + i) = data[i]) ∧
        (∀ k, k < r.key ∨ r.key + data.length ≤ k → t.mem.read k = s.mem.read k) ∧
        t = { s with mem := t.mem, lines := t.lines, plk := t.plk }) ∧
      (∀ st y, st ≠ 0 → s.cmd r.ctx r.q r.idx = some y → y.result = none →
        ∃ t, exec (.cplReceive r.tag st data) s = .next t ∧ t.plk.reads = [] ∧
          (t.cmd r.ctx r.q r.idx).map (·.result) = some (some .contextFault)) ∧
      (∀ y, s.cmd r.ctx r.q r.idx = some y → y.result = none →
        ∃ t, exec (.hostRdTimeout r.tag) s = .next t ∧ t.plk.reads = [] ∧ bitAt (t.ev evPlk).value 3 = true ∧
          (t.cmd r.ctx r.q r.idx).map (·.result) = some (some .domainReset))) ∧
    (∀ (s : State) (h : HostWrite), s.flt.fatal = false → s.plk.writes = [h] →
      ∃ t, exec (.hostWrAck h.ident) s = .next t ∧ t.plk.writes = [] ∧ t = { s with plk := { s.plk with writes := [] } }))

/-- Flits (R376): one whose CHECK fails is discarded and answered with a NAK of the last good SEQ; a DATA flit out of sequence is
discarded whole; one in sequence that holds nothing advances the expected SEQ and is acknowledged; and the credits that a flit returns
are added. Rests on log entries 9, 122 and 189. -/
def Obligations.FlitsAreChecked : Prop :=
  ∀ (s : State) (b : List Byte), s.flt.fatal = false → s.plk.state = .active →
    (State.flitCheck s.plk.version b = false →
      ∃ t, exec (.flitReceive b) s = .next t ∧ s.flits t (.nak ((s.plk.rxNext + 4095) % 4096)) ∧
        t = { s with
          plk := { s.plk with checkErr := satAdd 32 s.plk.checkErr 1, sinceIdle := t.plk.sinceIdle }, out := t.out }) ∧
    (State.flitCheck s.plk.version b = true → fld (le b 0 8) 1 0 = 1 → fld (le b 0 8) 13 2 ≠ s.plk.rxNext →
      exec (.flitReceive b) s = .next s) ∧
    (State.flitCheck s.plk.version b = true → fld (le b 0 8) 1 0 = 1 → fld (le b 0 8) 13 2 = s.plk.rxNext →
      fld (le b 0 8) 26 26 = 0 → s.plk.rxSlots = [] → s.plk.waiting = [] →
      (∀ i, i < 15 → le b (8 + 16 * i) 16 = 0) →
      ∃ t, exec (.flitReceive b) s = .next t ∧ t.plk.rxNext = (s.plk.rxNext + 1) % 4096 ∧ t.plk.rxSlots = [] ∧
        s.flits t (.ack s.plk.rxNext) ∧
        t.plk.creditPw = s.plk.creditPw + (if fld (le b 0 8) 28 27 = 0 then fld (le b 0 8) 40 29 else 0) ∧
        t.plk.creditNp = s.plk.creditNp + (if fld (le b 0 8) 28 27 = 1 then fld (le b 0 8) 40 29 else 0) ∧
        t.plk.creditMgt = s.plk.creditMgt + (if fld (le b 0 8) 28 27 = 2 then fld (le b 0 8) 40 29 else 0) ∧
        t = { s with plk := t.plk, out := t.out })

/-- Training (R372, R374, R375): the link comes up at the highest version both ends offer, at the width that the good lanes give,
with the adapter's credits, and LINK_UP is sent; without a common version it stays DOWN with VERSION_UNSUPPORTED; a third
training in a row that fails makes it DOWN; a lane that fails narrows it through a retrain. Replay and retrains (R377): 10 µs
without an acknowledgement replay from the first unacknowledged flit, after 8 failed replays the link enters RETRAIN;
`PLK_CTL.RETRAIN` enters it too; a retrain that ends well goes on, one that fails makes the link DOWN. Rests on log entries
123 and 124. -/
def Obligations.LinkTrainsAndRetrains : Prop :=
  (∀ (s : State) (versions lanes pw np mgt : Nat), s.flt.fatal = false → s.isOpen 77 = true →
      (∀ v, s.plk.state = .down → s.plk.writes = [] → s.plkVersion versions = some v → State.lanesFor v lanes ≠ 0 →
        ∃ t, exec (.linkTraining versions lanes pw np mgt) s = .next t ∧ t.plk.state = .active ∧ t.plk.version = v ∧
          bitAt versions v = true ∧ bitAt s.plk.allow v = true ∧
          (∀ w, w < 3 → bitAt versions w = true → bitAt s.plk.allow w = true → w ≤ v) ∧
          t.plk.lanes = State.lanesFor v lanes ∧ t.plk.width = popcount (State.lanesFor v lanes) 4 ∧ t.plk.failedTrainings = 0 ∧
          t.sends (.linkUp (s.dom 77).epoch.toNat v) ∧ t = { s with events := t.events, plk := t.plk, out := t.out }) ∧
      (s.plk.state = .down → (∀ v, v < 3 → ¬ (bitAt versions v = true ∧ bitAt s.plk.allow v = true)) →
        ∃ t, exec (.linkTraining versions lanes pw np mgt) s = .next t ∧ t.plk.state = .down ∧
          t.plk.lastStatus = .versionUnsupported ∧ t = { s with plk := t.plk }) ∧
      (s.plk.state = .training → 2 ≤ s.plk.failedTrainings →
        ∃ t, exec .trainingTimeout s = .next t ∧ t.plk.state = .down) ∧
      (s.plk.state = .down → s.plk.failedTrainings < 2 →
        ∃ t, exec .trainingTimeout s = .next t ∧ t.plk.state = .training ∧
          t.plk.failedTrainings = s.plk.failedTrainings + 1 ∧ t = { s with plk := t.plk, free := t.free }) ∧
      (s.plk.state = .active → 1 ≤ s.plk.version → s.plk.good = 15 → s.plk.lanes = 15 → s.plk.width = 4 →
        ∃ t, exec (.laneFailure 3) s = .next t ∧ t.plk.state = .retrain ∧ t.plk.lanes = 3 ∧ t.plk.width = 2 ∧
          bitAt (t.ev evPlk).value 2 = true ∧ t = { s with events := t.events, plk := t.plk, out := t.out })) ∧
  (∀ s : State, s.flt.fatal = false →
      (s.plk.state = .active → s.plkUnacked ≠ 0 → s.plk.txReplays < 8 →
        ∃ t, exec .plkAckTimeout s = .next t ∧ t.plk.txReplays = s.plk.txReplays + 1 ∧
          s.flits t (.replay s.plk.txAcked) ∧
          t = { s with
            plk := { s.plk with
              txReplays := s.plk.txReplays + 1, replays := satAdd 16 s.plk.replays 1, sinceIdle := t.plk.sinceIdle }
            out := t.out }) ∧
      (s.plk.state = .active → s.plkUnacked ≠ 0 → 8 ≤ s.plk.txReplays →
        ∃ t, exec .plkAckTimeout s = .next t ∧ t.plk.state = .retrain) ∧
      (s.plk.state = .active →
        ∃ t, exec .plkCtlRetrain s = .next t ∧ t.plk.state = .retrain ∧ t.plk.retrains = satAdd 8 s.plk.retrains 1 ∧
          bitAt (t.ev evPlk).value 0 = true ∧ t = { s with events := t.events, plk := t.plk, out := t.out }) ∧
      (s.plk.state = .retrain → s.plk.recent.length < 3 →
        ∃ t, exec (.plkRetrainEnd true) s = .next t ∧ t.plk.state = .active ∧ t.plk.txReplays = 0 ∧
          t = { s with plk := t.plk, out := t.out }) ∧
      (s.plk.state = .retrain → s.plk.writes = [] →
        ∃ t, exec (.plkRetrainEnd false) s = .next t ∧ t.plk.state = .down ∧ bitAt (t.ev evPlk).value 1 = true ∧
          t = { s with events := t.events, plk := t.plk, out := t.out }))

/-- Time correlation (R64, R385): the first round opens four exchanges; a TIME_PONG ends the exchange it answers, which is kept;
one that is late is discarded; a later round is numbered on and, with no exchange kept, sets TIME_FAIL. Rests on log entry
125. -/
def Obligations.TimeIsCorrelated : Prop :=
  ∀ (s : State) (samples : List TimeSample) (t1 h2 h3 : DWord), s.flt.fatal = false → s.plk.state = .active →
    s.isOpen 77 = true → s.isOpen 78 = true →
    (s.plk.roundOpen = false →
      ∃ t, exec (.timeCorrRound samples) s = .next t ∧ t.plk.roundOpen = true ∧ t.plk.pings = List.replicate 4 s.supTime ∧
        t.sends (.timePing s.supTime) ∧ t = { s with plk := t.plk, out := t.out }) ∧
    (s.plk.roundOpen = true → s.plk.best = none →
      ∃ t, exec (.timeCorrRound samples) s = .next t ∧ t.plk.corrRound = (s.plk.corrRound + 1) % 65536 ∧
        t.plk.corrValid = false ∧ bitAt (t.ev evPlk).value 6 = true) ∧
    (t1 ∈ s.plk.pings → s.plk.best = none →
      ∃ t, exec (.timePong t1 h2 h3) s = .next t ∧ t.plk.pings = s.plk.pings.erase t1 ∧
        t.plk.best = some (t1, h2, h3, s.supTime) ∧ s.flits t (.credits 2 2) ∧ t = { s with plk := t.plk, out := t.out }) ∧
    (∃ t, exec (.pingTimeout t1) s = .next t ∧ t = { s with plk := { s.plk with pings := s.plk.pings.erase t1 } })

/-! ### The Rhizome and the rates -/

/-- A transfer over a link that is up (R52, R54, R341). A good one that arrives in its order at its destination is acknowledged and
leaves the sender's replay store, and its request passes the Peristome if it carries the epoch that the die has of its source domain;
with another epoch it is dropped and counted as stale, in the record of the domain's latest reset too. A bad one is not delivered and
its replay is asked for; the eighth failed replay of one transfer makes the link retrain. One that arrives ahead of its order changes
nothing: the replay brings it again. With no detour in place a transfer ends at its destination die (R51). Rests on log entries 9, 99,
143 and 175. -/
def Obligations.TransfersAreCheckedAtTheirEnd : Prop :=
  (∀ (s : State) (l : Nat) (high : Bool) (h : DWord) (payload : List Byte) (crc : Word),
    s.flt.fatal = false → s.variant.link l = true → (s.rzLink l).state = .up →
    let x : RzTransfer := { header := h, payload := payload }
    let d := (s.rzLink l).dir high
    (crc32 (leBytes 8 h.toNat ++ payload) = crc.toNat → rzFormed l x = true → d.ahead x = false → rzDstDie h = rzEnd l high →
      s.nextHop (rzEnd l high) (some (rzEnd l !high)) h = none →
      ∃ t, exec (.rzTransferReceive l high h payload crc) s = .next t ∧ t.ctl = s.ctl ++ [.rzAck l high] ∧
        ((t.rzLink l).dir high).bad = d.bad.filter (fun b => !b.replayedBy x) ∧
        (d.wait = [] → rzEsc x = false → ((t.rzLink l).dir high).store = d.store.erase (x, crc.toNat) ∧
          (∀ m, m ≠ l → t.rzLink m = s.rzLink m)) ∧
        (rzClass h = 0 → rzEpoch h = (s.epochAt (rzDstDie h) (rzSrcDomain h)).toNat →
          t.delivered = s.delivered ++ [{ link := l, transfer := x }] ∧
          (d.wait = [] → rzEsc x = false → t = { s with links := t.links, ctl := t.ctl, delivered := t.delivered })) ∧
        (rzEpoch h ≠ (s.epochAt (rzDstDie h) (rzSrcDomain h)).toNat → t.delivered = s.delivered ∧
          tgetD t.flt.stale (rzDstDie h) 0 = satAdd 32 (tgetD s.flt.stale (rzDstDie h) 0) 1 ∧
          (∀ r, s.fault (s.dom (rzSrcDomain h)).lastRecord = some r → (s.dom (rzSrcDomain h)).lastRecord ≠ 0 →
            (t.fault r.ident).map (·.stale) = some (satAdd 16 r.stale 1)) ∧
          (d.wait = [] → rzEsc x = false → t = { s with links := t.links, ctl := t.ctl, flt := t.flt }))) ∧
    (crc32 (leBytes 8 h.toNat ++ payload) ≠ crc.toNat →
      ((∀ b ∈ d.bad, rzSet b.transfer ≠ rzSet x) →
        ∃ t, exec (.rzTransferReceive l high h payload crc) s = .next t ∧
          ((t.rzLink l).dir high).bad = d.bad ++ [{ transfer := x, crc := crc.toNat, failed := 0 }] ∧
          (t.rzLink l).state = .up ∧ (t.rzLink l).replays = satAdd 16 (s.rzLink l).replays 1 ∧
          t.ctl = s.ctl ++ [.rzReplay l high] ∧ bitAt (t.ev evRz).value 0 = true ∧
          t = { s with links := t.links, ctl := t.ctl, events := t.events, plk := t.plk, out := t.out }) ∧
      (∀ b, d.bad.find? (fun b => rzSet b.transfer == rzSet x) = some b →
        (b.failed < 7 → ∃ t, exec (.rzTransferReceive l high h payload crc) s = .next t ∧
          ((t.rzLink l).dir high).bad.find? (fun b => rzSet b.transfer == rzSet x) = some { b with failed := b.failed + 1 } ∧
          (t.rzLink l).state = .up ∧ (t.rzLink l).replays = satAdd 16 (s.rzLink l).replays 1 ∧
          t.ctl = s.ctl ++ [.rzReplay l high] ∧ bitAt (t.ev evRz).value 0 = true ∧
          t = { s with links := t.links, ctl := t.ctl, events := t.events, plk := t.plk, out := t.out }) ∧
        (7 ≤ b.failed → ∃ t, exec (.rzTransferReceive l high h payload crc) s = .next t ∧ (t.rzLink l).state = .retrain ∧
          t.delivered = s.delivered ∧ bitAt (t.ev evRz).value 1 = true))) ∧
    (crc32 (leBytes 8 h.toNat ++ payload) = crc.toNat → d.ahead x = true →
      exec (.rzTransferReceive l high h payload crc) s = .next s)) ∧
  (∀ (s : State) (h : DWord) (came : Nat), (∀ l, (s.rzLink l).detour = false) → rzSrcDie h < 12 → rzDstDie h < 12 →
    s.nextHop (rzDstDie h) (some came) h = none)

/-- The end of a retrain (R54): one that is neither failed nor the third within a second puts the link up; one that failed puts it
down, and the detour of R55 is placed if every die on it can take its table. A detour not placed in time hangs the routers of
the link's base dies. Rests on log entries 98 and 124. -/
def Obligations.LinksRetrainOrGoDown : Prop :=
  ∀ (s : State) (l : Nat), s.flt.fatal = false → s.variant.link l = true →
    ((s.rzLink l).state = .retrain → (s.rzLink l).recent.length < 3 →
      ∃ t, exec (.rzRetrainEnd l true) s = .next t ∧ (t.rzLink l).state = .up ∧ (t.rzLink l).holding = false ∧
        (∀ m, m ≠ l → (t.rzLink m).state = (s.rzLink m).state ∧ (t.rzLink m).detour = (s.rzLink m).detour) ∧
        ((∀ m, (s.rzLink m).low.wait = [] ∧ (s.rzLink m).high.wait = []) →
          (∀ m, m ≠ l → t.rzLink m = s.rzLink m) ∧ t = { s with links := t.links })) ∧
    ((s.rzLink l).state = .retrain → (∀ n ∈ detourDies l, s.isOpen (fabricDomain n) = true ∧ s.isOpen (7 * n + 6) = true) →
      ∃ t, exec (.rzRetrainEnd l false) s = .next t ∧ (t.rzLink l).state = .down ∧ (t.rzLink l).detour = true ∧
        (t.rzLink l).holding = false ∧ t.ctl = s.ctl ++ [.linkDown l, .detour l] ∧
        bitAt (t.ev evRz).value 2 = true ∧ bitAt (t.ev evRz).value 3 = true ∧
        (∀ m, m ≠ l → (t.rzLink m).state = (s.rzLink m).state ∧ (t.rzLink m).detour = (s.rzLink m).detour) ∧
        ((s.rzLink l).low.store = [] → (s.rzLink l).low.wait = [] → (s.rzLink l).high.store = [] → (s.rzLink l).high.wait = [] →
          (∀ m, m ≠ l → t.rzLink m = s.rzLink m) ∧
          t = { s with links := t.links, ctl := t.ctl, events := t.events, plk := t.plk, out := t.out })) ∧
    (l < 12 → (s.rzLink l).state = .down → (s.rzLink l).detour = false → s.isOpen (fabricDomain (linkEnds l).1) = true →
      s.isOpen (fabricDomain (linkEnds l).2) = true →
      ∃ t, exec (.detourTimeout l) s = .next t ∧ (t.dom (fabricDomain (linkEnds l).1)).state = .fenced ∧
        (t.dom (fabricDomain (linkEnds l).2)).state = .fenced ∧ bitAt (t.ev evFlt).value 0 = true)

/-- A rate window writes its quadrant's figures rounded down (R60, Table 2-9), and a rail at its target sets the voltage of the
group's domains that are on (R59, Table 2-8). -/
def Obligations.RatesAndRails : Prop :=
  ∀ s : State, s.flt.fatal = false →
    (∀ k waves issued tj : Nat, s.variant.quad k = true → s.live (quadDomain k) = true →
      ∃ t, exec (.rateWindowEnd k waves issued tj) s = .next t ∧
        (t.quad k).rate = Nat.min 65535 (waves / Nat.max 1 (s.quad k).window) ∧
        (t.quad k).busy = (if waves = 0 then 0 else Nat.min 1000 (issued * 1000 / waves)) ∧ (t.quad k).valid = true ∧
        (t.quad k).op = (s.group (k / 4)).op ∧ (t.quad k).tj = tj % 256 ∧ (∀ j, j ≠ k → t.quad j = s.quad j) ∧
        t = { s with quads := t.quads, links := t.links, free := t.free, groups := t.groups, events := t.events, plk := t.plk, out := t.out }) ∧
    (∀ g : Nat, s.variant.group g = true → (s.group g).op ≠ (s.group g).target →
      ∃ t, exec (.opRampEnd g) s = .next t ∧ (t.group g).op = (s.group g).target ∧ (∀ h, h ≠ g → t.group h = s.group h) ∧
        (∀ m, m < 7 → (s.dom (7 * g + m)).power ≠ .off → (t.dom (7 * g + m)).railMv = opMillivolts (s.group g).target) ∧
        t = { s with groups := t.groups, domains := t.domains })

/-! ### Power and cooling -/

/-- An evaluation of the operating points (R359, R360): afterwards the prediction of R66 lies within the effective cap less 50 W,
or every group's GRANT is OP0; and every rail moves to the lowest of REQ, CEIL and GRANT. Rests on log entries 17 and 18. -/
def Obligations.EvaluationKeepsTheCap : Prop :=
  ∀ s : State, s.flt.fatal = false →
    ∃ t, exec .opEvaluation s = .next t ∧
      (t.fits t.points = true ∨ ∀ g, g < s.variant.groups → (t.group g).grant = 0) ∧
      (∀ g, g < s.variant.groups → (t.group g).target = Nat.min (Nat.min (t.group g).req (t.group g).ceil) (t.group g).grant ∧
        (t.group g).req = (s.group g).req ∧ (t.group g).ceil = (s.group g).ceil ∧
        ((t.group g).grant = 3 → (t.group g).req = 3 ∧ (t.group g).pending3 = false)) ∧
      t = { s with groups := t.groups, domains := t.domains, pwr := t.pwr, events := t.events, plk := t.plk, out := t.out, free := t.free }

/-- Input power above the cap (R67): the highest-numbered group at OP3 moves to OP2 whatever the prediction says; at or below the
cap only the reading is kept. Rests on log entry 18. -/
def Obligations.OverCapLowersTheHighestGroup : Prop :=
  ∀ (s : State) (w g : Nat), s.flt.fatal = false →
    (w ≤ s.pwr.cap → ∃ t, exec (.powerOverCap w) s = .next t ∧ t = { s with pwr := { s.pwr with inputW := w % 4096 } }) ∧
    (s.pwr.cap < w → g < s.variant.groups → (s.group g).point = 3 → (∀ h, h < s.variant.groups → g < h → (s.group h).point ≠ 3) →
      ∃ t, exec (.powerOverCap w) s = .next t ∧ (t.group g).grant = 2 ∧ (t.group g).target = 2 ∧ t.pwr.inputW = w % 4096 ∧
        (∀ h, g < h → h < s.variant.groups → (t.group h).grant = (s.group h).grant) ∧
        t = { s with groups := t.groups, pwr := t.pwr })

/-- A domain is switched on after those it depends on (R357): each that is off ramps, leaves reset with a new epoch and its local time
at 0 and sends its epoch notice, and the request runs until the domain opens, which ends it with OK. A domain that is on already is
answered OK; a request for one that is fenced or resetting, and any while another runs, is answered RETRY_LATER; a stack whose group a
trip has left off is refused (log entry 187). A domain that a partition holds a resource of is not switched off (R356); one that none
holds opens a record of kind 8 and is fenced, to be switched off when its drain ends, by a request or by the timer of R358. -/
def Obligations.DomainsSwitch : Prop :=
  (∀ (s : State) (d : Nat), s.flt.fatal = false → d < 80 → s.pwr.reqBusy = true →
      (∃ t, exec (.domainPowerOn d) s = .next t ∧ t = { s with pwr := { s.pwr with reqStatus := .retryLater } }) ∧
      (∃ t, exec (.domainPowerOff d) s = .next t ∧ t = { s with pwr := { s.pwr with reqStatus := .retryLater } })) ∧
  (∀ (s : State) (d : Nat), s.flt.fatal = false → d < 80 → s.pwr.reqBusy = false → s.variant.domain d = true →
      let answer := fun (st : Status) => { s with pwr := { s.pwr with reqDomain := d, reqBusy := false, reqStatus := st } }
      ((s.dom d).state = .fenced ∨ (s.dom d).state = .resetting → exec (.domainPowerOn d) s = .next (answer .retryLater)) ∧
      ((s.dom d).state ≠ .fenced → (s.dom d).state ≠ .resetting →
        (s.stackLeftOff d = true → exec (.domainPowerOn d) s = .next (answer .refusedInfeasible)) ∧
        (s.stackLeftOff d = false → (s.dom d).power ≠ .off → exec (.domainPowerOn d) s = .next (answer .ok)) ∧
        (s.stackLeftOff d = false → (s.dom d).power = .off →
          ∃ t, exec (.domainPowerOn d) s = .next t ∧
            (∀ e ∈ powerDeps d ++ [d], s.variant.domain e = true → (s.dom e).power = .off →
              (t.dom e).power = .ramp ∧ (t.dom e).state = .resetting ∧ (t.dom e).ready = true ∧ (t.dom e).powering = true ∧
              (t.dom e).epoch = (s.dom e).epoch + 1 ∧ (t.dom e).time = 0 ∧ .epoch e ((s.dom e).epoch + 1) ∈ t.ctl) ∧
            t.pwr.reqDomain = d ∧ t.pwr.reqBusy = true ∧
            (∀ e, e ∉ powerDeps d ++ [d] ∨ (s.dom e).power ≠ .off → t.dom e = s.dom e) ∧
            t = { s with
              groups := t.groups, domains := t.domains, cores := t.cores, hbm := t.hbm, ctl := t.ctl, pwr := t.pwr, plk := t.plk,
              quads := t.quads, free := t.free, delivered := t.delivered, events := t.events, out := t.out }))) ∧
  (∀ (s : State) (d : Nat), s.flt.fatal = false → s.variant.domain d = true → (s.dom d).state = .resetting → (s.dom d).ready = true →
      (s.dom d).powering = true → (∀ n, n < 12 → s.variant.die n = true → n ∈ (s.dom d).epochAcks) →
      ((∀ e ∈ powerDeps d, s.isOpen e = true) →
        ∃ t, exec (.fenceLift d) s = .next t ∧ t.isOpen d = true ∧ (t.dom d).power = .on ∧ (t.dom d).powering = false ∧
          .clear d ∈ t.ctl ∧ (s.pwr.reqDomain = d → s.pwr.reqBusy = true → t.pwr.reqBusy = false ∧ t.pwr.reqStatus = .ok) ∧
          (∀ e, e ≠ d → t.dom e = s.dom e)) ∧
      ((∃ e ∈ powerDeps d, s.isOpen e = false) → exec (.fenceLift d) s = .next s)) ∧
  (∀ (s : State) (d : Nat), s.flt.fatal = false → d < 72 → d % 7 < 4 ∨ 56 ≤ d → s.variant.domain d = true →
      (s.dom d).state = .opened → (s.dom d).power = .on →
      let fenced : State → Prop := fun t => (t.dom d).state = .fenced ∧ (t.dom d).offAfter = true ∧ .fence d ∈ t.ctl ∧
        (t.flt.records.getLast?.any fun r => r.kind == 8 && r.domain == d && r.ident == (t.dom d).record && !r.closed) = true ∧
        ∀ e, e ≠ d → t.dom e = s.dom e
      (s.pwr.reqBusy = false → s.domainHeld d = true →
        ∃ t, exec (.domainPowerOff d) s = .next t ∧
          t = { s with pwr := { s.pwr with reqDomain := d, reqBusy := false, reqStatus := .refusedInfeasible } }) ∧
      (s.pwr.reqBusy = false → s.domainHeld d = false →
        ∃ t, exec (.domainPowerOff d) s = .next t ∧ fenced t ∧ t.pwr.reqDomain = d ∧ t.pwr.reqBusy = true) ∧
      (s.pwr.autoOff = true → s.domainHeld d = false →
        ∃ t, exec (.autoOffTimer d) s = .next t ∧ fenced t ∧ t.pwr = s.pwr) ∧
      (s.pwr.autoOff = false → ∃ t, exec (.autoOffTimer d) s = .next t ∧ t = s))

/-- The coolant loop (R361, R362): e is the larger distance from a target, the valve moves by at most 50 thousandths a pass and
stays between VALVE_MIN and fully open, the integral stays in its bounds, and an inlet at INLET_MAX holds every CEIL at OP1 or
lower. CEIL_LOWER lowers the hottest group by one point, CEIL_RAISE raises the lowest group that may rise by one point. Rests
on log entry 19. -/
def Obligations.CoolantLoopKeepsItsBounds : Prop :=
  ∀ s : State, s.flt.fatal = false →
    (∀ tj th inlet outlet pos : Nat, s.pwr.cooling = false → (s.pwr.valveMin : Int) * permille ≤ s.pwr.valve →
      s.pwr.valve ≤ 1000 * permille → s.pwr.valveMin ≤ 1000 → -5000 ≤ s.pwr.integ10 → s.pwr.integ10 ≤ 10000 →
      ∃ t, exec (.coolantLoopPass tj th inlet outlet pos) s = .next t ∧
        (s.pwr.valveMin : Int) * permille ≤ t.pwr.valve ∧ t.pwr.valve ≤ 1000 * permille ∧
        t.pwr.valve ≤ s.pwr.valve + 50 * permille ∧ s.pwr.valve - 50 * permille ≤ t.pwr.valve ∧
        -5000 ≤ t.pwr.integ10 ∧ t.pwr.integ10 ≤ 10000 ∧
        t.pwr.err = Max.max ((tj : Int) - (s.pwr.tjTarget : Int)) ((th : Int) - (s.pwr.hbmTarget : Int)) ∧
        (s.pwr.inletMax ≤ inlet → ∀ g, g < s.variant.groups → (t.group g).ceil ≤ 1) ∧
        (inlet < s.pwr.inletMax → ∀ g, (t.group g).ceil = (s.group g).ceil) ∧
        t = { s with pwr := t.pwr, hbm := t.hbm, groups := t.groups, events := t.events, plk := t.plk, out := t.out, free := t.free }) ∧
    (∀ k : Nat, s.variant.quad k = true → s.pwr.valve = 1000 * permille → 2 < s.pwr.err →
      ∃ t, exec (.ceilLower k) s = .next t ∧ (t.group (k / 4)).ceil = (s.group (k / 4)).ceil - 1 ∧
        (∀ g, g ≠ k / 4 → (t.group g).ceil = (s.group g).ceil) ∧
        (0 < (s.group (k / 4)).ceil → bitAt (t.ev evPwr).value 4 = true) ∧
        t = { s with groups := t.groups, events := t.events, plk := t.plk, out := t.out }) ∧
    (∀ g : Nat, s.pwr.inlet < s.pwr.inletMax → s.pwr.valve < 900 * permille → s.pwr.err < -3 → g ∈ s.coolGroups →
      (∀ h ∈ s.coolGroups, (s.group g).ceil < (s.group h).ceil ∨ ((s.group g).ceil = (s.group h).ceil ∧ g ≤ h)) →
      ∃ t, exec .ceilRaise s = .next t ∧ (t.group g).ceil = (s.group g).ceil + 1 ∧
        (∀ h, h ≠ g → (t.group h).ceil = (s.group h).ceil) ∧
        t = { s with groups := t.groups, events := t.events, plk := t.plk, out := t.out })

/-- A cooling fault (R364: the valve and its command differ by more than 100 ‰, a sensor reads above 90 °C, or the outlet reads more
than 2 °C below the inlet while the module draws over 500 W) opens the valve fully, holds every CEIL at OP1 or lower and drives the
alert; it ends once none of this holds and the host has cleared its event. A junction at TJ_HOT puts its group's CEIL at OP0, and the end of that at OP1 (R363). Rests on log entry
127. -/
def Obligations.HeatLowersCeilings : Prop :=
  ∀ s : State, s.flt.fatal = false →
    let fails : Prop := 100 < ((s.pwr.pos : Int) - s.pwr.valve / permille).natAbs ∨ 90 < s.pwr.inlet ∨ 90 < s.pwr.outlet ∨
      (s.pwr.outlet + 2 < s.pwr.inlet ∧ 500 < s.pwr.inputW)
    (¬ fails → exec .coolingFault s = .next s) ∧
    (fails → ∃ t, exec .coolingFault s = .next t ∧ t.pwr.cooling = true ∧ t.pwr.valve = 1000 * permille ∧
      (∀ g, g < s.variant.groups → (t.group g).ceil ≤ 1 ∧ (t.group g).target ≤ 1) ∧ bitAt (t.ev evPwr).value 7 = true ∧
      t.pins.alertN = false ∧
      t = { s with pwr := t.pwr, groups := t.groups, events := t.events, plk := t.plk, out := t.out, pins := t.pins }) ∧
    (s.pwr.cooling = true → ¬ fails → bitAt (s.ev evPwr).value 7 = false →
      ∃ t, exec .coolingFaultEnd s = .next t ∧ t = { s with pwr := { s.pwr with cooling := false } }) ∧
    (fails ∨ bitAt (s.ev evPwr).value 7 = true → exec .coolingFaultEnd s = .next s) ∧
    (∀ k tj : Nat, s.variant.quad k = true → s.pwr.tjHot ≤ tj →
      ∃ t, exec (.tjHot k tj) s = .next t ∧ (t.group (k / 4)).hot = true ∧ (t.group (k / 4)).ceil = 0 ∧
        (t.group (k / 4)).target = 0 ∧ bitAt (t.ev evPwr).value 5 = true ∧
        (∀ g, g ≠ k / 4 → (t.group g).ceil = (s.group g).ceil ∧ (t.group g).hot = (s.group g).hot) ∧
        t = { s with groups := t.groups, events := t.events, plk := t.plk, out := t.out }) ∧
    (∀ g : Nat, (s.group g).hot = true →
      ∃ t, exec (.hotClear g) s = .next t ∧ (t.group g).hot = false ∧ (t.group g).ceil = Nat.max 1 (s.group g).ceil ∧
        (∀ h, h ≠ g → (t.group h).ceil = (s.group h).ceil ∧ (t.group h).hot = (s.group h).hot) ∧
        t = { s with groups := t.groups, events := t.events, plk := t.plk, out := t.out })

/-- A thermal trip (R363): the group's CEIL falls to OP0, its open domains are fenced to be switched off, and a second trip within
an hour leaves the group off; when its domains are off and the inlet is below INLET_MAX, the group is switched on again: each ramps and
leaves reset with a new epoch (R357). -/
def Obligations.GroupsTripAndRestart : Prop :=
  ∀ (s : State) (g : Nat), s.flt.fatal = false → s.variant.group g = true →
    ((s.group g).tripped = false → (∃ m, m < 7 ∧ (s.dom (7 * g + m)).power ≠ .off ∧ (s.dom (7 * g + m)).state = .opened) →
      ∃ t, exec (.thermalTrip g) s = .next t ∧ (t.group g).tripped = true ∧ (t.group g).ceil = 0 ∧
        (t.group g).lastTrip = some s.supTime ∧
        (t.group g).left = ((s.group g).lastTrip.any fun t0 => decide ((s.supTime - t0).toNat ≤ 3600000000000)) ∧
        ∀ m, m < 7 → (s.dom (7 * g + m)).power ≠ .off → (s.dom (7 * g + m)).state = .opened →
          (t.dom (7 * g + m)).state = .fenced ∧ (t.dom (7 * g + m)).offAfter = true) ∧
    ((s.group g).tripped = true → (s.group g).left = false → s.pwr.inlet < s.pwr.inletMax →
      (∀ m, m < 7 → (s.dom (7 * g + m)).power = .off) →
      ∃ t, exec (.tripRestart g) s = .next t ∧ (t.group g).tripped = false ∧ (t.group g).ceil = 0 ∧
        ∀ m, m < 7 → (t.dom (7 * g + m)).power = .ramp ∧ (t.dom (7 * g + m)).state = .resetting ∧
          (t.dom (7 * g + m)).powering = true ∧ (t.dom (7 * g + m)).epoch = (s.dom (7 * g + m)).epoch + 1) ∧
    ((s.group g).tripped = true → s.pwr.inletMax ≤ s.pwr.inlet → ∃ t, exec (.tripRestart g) s = .next t ∧ t = s)

/-- Loss of input power (R365, Table 14-2) lowers every CEIL to OP0, with PWR_GOOD low and the alert low, in a device that has
reported fatal too, and its return starts the package warm reset (R366), unless the device has reported fatal. A store run down powers the module off: only the flash and the wear store keep what they held.
Rests on log entries 127 and 135. -/
def Obligations.InputPowerIsLostAndReturns : Prop :=
  ∀ s : State,
    (s.pwr.onHoldup = false →
      ∃ t, exec .inputLoss s = .next t ∧ t.pwr.onHoldup = true ∧ t.pins.pwrGood = false ∧ t.pins.alertN = false ∧
        (∀ g, g < s.variant.groups → (t.group g).ceil = 0 ∧ (t.group g).target = 0) ∧ bitAt (t.ev evPwr).value 0 = true) ∧
    (s.flt.fatal = false → s.pwr.onHoldup = true →
      ∃ t, exec .inputReturn s = .next t ∧ t.pwr.onHoldup = false ∧ t.pins.pwrGood = true ∧ t.flt.warm = true ∧
        bitAt (t.ev evPwr).value 1 = true ∧
        ∀ d, d ≠ 78 → s.variant.domain d = true → (t.dom d).state = .resetting ∨ (t.dom d).state = .off) ∧
    (s.flt.fatal = true → s.pwr.onHoldup = true →
      ∃ t, exec .inputReturn s = .next t ∧ t.pwr.onHoldup = false ∧ t.flt.fatal = true) ∧
    (s.pwr.onHoldup = true →
      ∃ t, exec .holdupExhausted s = .next t ∧ t.pwr.onHoldup = false ∧ t.flt.fatal = false ∧ t.boot.state = 0 ∧
        t.boot.boots = s.boot.boots ∧ t.contexts = [] ∧ t.ptns = [] ∧ t.plk = Plk.reset ∧ t.sel = Sel.reset ∧
        (∀ d, t.dom d = Domain.reset) ∧ (∀ a, a < 2 ^ 80 → t.mem.read (flashKey a) = s.mem.read (flashKey a)) ∧
        (s.pwr.holding = false → ∀ p ∈ t.pwr.wearStore, p.2 = ((s.dom p.1).stress, (s.dom p.1).wear))) ∧
    (s.flt.fatal = false → ∀ (j : Nat) (full : Bool), j < 256 →
      ∃ t, exec (.holdupCharged j full) s = .next t ∧ t.pwr.holdJ = j ∧ t.pwr.fullJ = (if full then j else s.pwr.fullJ) ∧
        (t.pwr.dispatchHeld = true ↔ s.pwr.dispatchHeld = true ∧ j < 27) ∧
        (full = true → j < 48 → bitAt (t.ev evPwr).value 2 = true) ∧
        t = { s with pwr := t.pwr, groups := t.groups, events := t.events, plk := t.plk, out := t.out })

/-- Wear (R368, R369): stress accumulates in hundredths of an hour, by k = 2^((Tj - 70) / 10) × 3^((V - 0.75) / 0.1), which is kept in
thousandths rounded down (log entry 188); a measurement gives D and its warnings, and the store takes every domain's figures. Rests on
log entry 101. -/
def Obligations.WearIsMeasuredAndStored : Prop :=
  (∀ tj mv : Nat,
      State.stressK tj mv ^ 100 * (2 ^ (10 * (70 - tj)) * 3 ^ (750 - mv)) ≤ 1000 ^ 100 * 2 ^ (10 * (tj - 70)) * 3 ^ (mv - 750) ∧
      1000 ^ 100 * 2 ^ (10 * (tj - 70)) * 3 ^ (mv - 750) <
        (State.stressK tj mv + 1) ^ 100 * (2 ^ (10 * (70 - tj)) * 3 ^ (750 - mv))) ∧
  (∀ (s : State) (d tj : Nat), s.flt.fatal = false → d < 78 → s.variant.domain d = true → (s.dom d).power ≠ .off →
      ∃ t, exec (.stressAccumulate d tj) s = .next t ∧
        (t.dom d).stressFrac < 3600 ∧
        ((t.dom d).stress = 2 ^ 40 - 1 ∨ 3600 * (t.dom d).stress + (t.dom d).stressFrac =
          3600 * (s.dom d).stress + (s.dom d).stressFrac + State.stressK tj (s.railNow d)) ∧
        (t.dom d).kCount = (s.dom d).kCount + 1 ∧ (∀ e, e ≠ d → t.dom e = s.dom e) ∧ t = { s with domains := t.domains }) ∧
  (∀ (s : State) (d st fr : Nat), s.flt.fatal = false → d < 78 → s.variant.domain d = true → (s.dom d).power ≠ .off → 0 < fr → fr ≤ st →
      ∃ t, exec (.wearMeasure d st fr) s = .next t ∧ (t.dom d).wear = Nat.min 4095 ((st - fr) * 10000 / fr) ∧
        ((s.dom d).wear < s.pwr.dWarn → s.pwr.dWarn ≤ (t.dom d).wear → bitAt (t.ev evPwr).value 8 = true) ∧
        ((s.dom d).wear < s.pwr.dEol → s.pwr.dEol ≤ (t.dom d).wear → bitAt (t.ev evPwr).value 9 = true) ∧
        (∀ e, e ≠ d → t.dom e = s.dom e) ∧
        t = { s with domains := t.domains, events := t.events, plk := t.plk, out := t.out, free := t.free }) ∧
  (∀ s : State, s.flt.fatal = false → ∃ t, exec .wearStoreWrite s = .next t ∧
      (∀ d, d < 78 → s.variant.domain d = true → (d, (s.dom d).stress, (s.dom d).wear) ∈ t.pwr.wearStore) ∧
      t = { s with pwr := { s.pwr with wearStore := t.pwr.wearStore } })

/-! ### Hangs, fences, resets and dumps -/

/-- An engine that holds work for its whole progress window is hung (R336, R337): in an open domain a record of kind 1 and level 1
opens that names it, the domain is fenced, and the context that owns the engine is torn down; in a domain that is fenced or
resetting the expiry joins the record of the recovery that runs, and no other opens (R340). Rests on log entries 118 and 138.
-/
def Obligations.HangsFenceTheirDomain : Prop :=
  ∀ (s : State) (d u cls : Nat), s.flt.fatal = false → s.variant.domain d = true → u ∈ domainUnits d → unitClass d u = cls →
    s.hasWork d u = true → d ≠ 78 →
    ((s.dom d).state = .opened →
      ∃ t, exec (.progressWindowExpiry d u cls) s = .next t ∧ (t.dom d).state = .fenced ∧ (t.dom d).record = s.flt.nextId ∧
        (t.dom d).fenceAcks = [] ∧ bitAt (t.ev evFlt).value 0 = true ∧ .fence d ∈ t.ctl ∧
        (t.flt.records.any fun r => r.ident == s.flt.nextId && r.kind == 1 && r.level == 1 && r.domain == d && r.unit == u &&
          r.cls == cls && r.context == s.hungHandle d u) = true ∧
        (∀ e, e ≠ d → t.dom e = s.dom e)) ∧
    ((s.dom d).state = .fenced ∨ (s.dom d).state = .resetting →
      ∃ t, exec (.progressWindowExpiry d u cls) s = .next t ∧ t.flt.nextId = s.flt.nextId ∧ t.domains = s.domains ∧
        bitAt (t.ev evFlt).value 0 = true)

/-- Steps 2 to 4 of Table 13-3 (R338, R339): a die that receives the fence notice acknowledges it; when the drain of a fenced domain
ends, the domain is reset, or loses its supply if it is to be switched off, which closes its record. On the hold-up store a recovery
stops there (R365). -/
def Obligations.FencedDomainsDrain : Prop :=
  ∀ (s : State) (d die : Nat), s.flt.fatal = false → d < 78 → s.variant.domain d = true → (s.dom d).state = .fenced →
    (s.variant.die die = true → die ∉ (s.dom d).fenceAcks →
      ∃ t, exec (.fenceNotice d die) s = .next t ∧ (t.dom d).fenceAcks = (s.dom d).fenceAcks ++ [die] ∧
        (t.dom d).state = .fenced ∧ (∀ e, e ≠ d → t.dom e = s.dom e) ∧ t = { s with domains := t.domains }) ∧
    ((s.dom d).offAfter = false → s.pwr.onHoldup = true →
      ∃ t, exec (.domainDrainEnd d) s = .next t ∧ (t.dom d).state = .fenced) ∧
    ((s.dom d).offAfter = false → s.pwr.onHoldup = false →
      ∃ t, exec (.domainDrainEnd d) s = .next t ∧ (t.dom d).state = .resetting ∧ (t.dom d).ready = (s.dom d).ready ∧
        (t.dom d).resetAt = s.supTime ∧ (t.dom d).epoch = (s.dom d).epoch) ∧
    ((s.dom d).offAfter = true →
      ∃ t, exec (.domainDrainEnd d) s = .next t ∧ (t.dom d).state = .off ∧ (t.dom d).power = .off ∧ (t.dom d).railMv = 0 ∧
        (s.pwr.reqDomain = d → t.pwr.reqBusy = false) ∧ ∀ r ∈ t.flt.records, r.ident = (s.dom d).record → r.closed = true)

/-- Steps 5 to 7 of Table 13-3 (R342): a reset domain that is ready has the next epoch, its time and its cores' times at 0, and
sends the epoch notice; a die that receives it acknowledges; with every acknowledgement the domain opens and sends the fence-clear
notice, and without them it stays. -/
def Obligations.ResetDomainsComeBack : Prop :=
  (∀ (s : State) (d : Nat), s.flt.fatal = false → s.variant.domain d = true → (s.dom d).state = .resetting →
      (s.dom d).ready = false → s.pwr.onHoldup = false →
      ∃ t, exec (.domainResetReady d) s = .next t ∧ (t.dom d).ready = true ∧ (t.dom d).epoch = (s.dom d).epoch + 1 ∧
        (t.dom d).time = 0 ∧ (t.dom d).epochAcks = [] ∧ t.ctl = s.ctl ++ [.epoch d ((s.dom d).epoch + 1)] ∧
        (∀ c ∈ coresOf d, (t.core c).time = 0 ∧ (t.core c).restarted = true) ∧ (∀ e, e ≠ d → t.dom e = s.dom e) ∧
        t = { s with
          domains := t.domains, cores := t.cores, hbm := t.hbm, plk := t.plk, flt := t.flt, ctl := t.ctl, quads := t.quads,
          delivered := t.delivered }) ∧
  (∀ (s : State) (d die : Nat), s.flt.fatal = false → s.variant.domain d = true → (s.dom d).state = .resetting →
      (s.dom d).ready = true → s.variant.die die = true → die ∉ (s.dom d).epochAcks →
      ∃ t, exec (.epochNotice d die) s = .next t ∧ (t.dom d).epochAcks = (s.dom d).epochAcks ++ [die] ∧
        (∀ e, e ≠ d → t.dom e = s.dom e) ∧
        t = { s with domains := t.domains, contexts := t.contexts, arrays := t.arrays, delivered := t.delivered }) ∧
  (∀ (s : State) (d : Nat), s.flt.fatal = false → s.variant.domain d = true → (s.dom d).state = .resetting →
      (s.dom d).ready = true → (s.dom d).powering = false → (∀ n, n < 12 → s.variant.die n = true → n ∈ (s.dom d).epochAcks) →
      ∃ t, exec (.fenceLift d) s = .next t ∧ t.isOpen d = true ∧ (t.dom d).resets = satAdd 16 (s.dom d).resets 1 ∧
        (t.dom d).epoch = (s.dom d).epoch ∧ .clear d ∈ t.ctl ∧ (∀ e, e ≠ d → t.dom e = s.dom e) ∧
        (s.domains.Pairwise (fun a b => a.1 < b.1) → (∀ p ∈ s.domains, p.1 = d ∨ p.2.record ≠ (s.dom d).record) →
          (t.flt.records.all fun r => r.ident != (s.dom d).record || r.closed) = true)) ∧
  (∀ (s : State) (d n : Nat), s.flt.fatal = false → s.variant.domain d = true → (s.dom d).state = .resetting →
      n < 12 → s.variant.die n = true → n ∉ (s.dom d).epochAcks →
      ∃ t, exec (.fenceLift d) s = .next t ∧ t = s)

/-- The fence-clear notice of an open domain (R157, R90): no command waits for the domain any longer, and no drain waits. -/
def Obligations.FenceClearEndsTheWait : Prop :=
  ∀ (s : State) (d : Nat), s.flt.fatal = false → s.isOpen d = true →
    ∃ t, exec (.fenceClearNotice d) s = .next t ∧
      (∀ c q, q < 4 → ((t.queue c q).cmds.all fun y => y.final || y.waitDom != some d) = true) ∧
      (∀ a, ((t.arr a).drains.all fun x => !x.waiting) = true) ∧
      t = { s with contexts := t.contexts, arrays := t.arrays, pcs := t.pcs }

/-- Escalation (R345 to R348, Table 13-5): a level 1 reset that is late becomes one of level 2, one of level 2 the package warm reset,
and one of level 3, or of level 2 in the ladder of PD78, the fatal report, which drives PWR_GOOD low and leaves every domain but PD78
FATAL. The record that a level leaves closes (R351). On the hold-up store nothing escalates (R365). -/
def Obligations.LateResetsEscalate : Prop :=
  ∀ (s : State) (d : Nat), s.flt.fatal = false → s.variant.domain d = true → (s.dom d).state = .resetting → (s.dom d).ready = false →
    let origin78 := (s.fault (s.dom d).record).any fun r => r.domain == 78
    (s.pwr.onHoldup = true → exec (.resetEscalation d) s = .next s) ∧
    (s.pwr.onHoldup = false → (s.dom d).level = 1 → d < 78 →
      ∃ t, exec (.resetEscalation d) s = .next t ∧ (t.dom d).level = 2 ∧ (t.dom d).state = .resetting ∧
        bitAt (t.ev evFlt).value 2 = true ∧
        (s.flt.records.length < 1024 → (s.dom d).record ≠ s.flt.nextId → (s.fault (s.dom d).record).isSome = true →
          (t.fault (s.dom d).record).any (·.closed) = true)) ∧
    (s.pwr.onHoldup = false → (s.dom d).level = 2 → d < 78 → origin78 = false →
      ∃ t, exec (.resetEscalation d) s = .next t ∧ t.flt.warm = true ∧ bitAt (t.ev evFlt).value 2 = true ∧
        ∀ e, e ≠ 78 → s.variant.domain e = true → (t.dom e).state = .off ∨ ((t.dom e).state = .resetting ∧ (t.dom e).level = 3)) ∧
    (s.pwr.onHoldup = false → (s.dom d).level = 3 ∨ ((s.dom d).level = 2 ∧ (d = 78 ∨ origin78 = true)) →
      ∃ t, exec (.resetEscalation d) s = .next t ∧ t.flt.fatal = true ∧ t.pins.pwrGood = false ∧ t.pins.alertN = false ∧
        ∀ e, e ≠ 78 → s.variant.domain e = true → (t.dom e).state = .fatal)

/-- A requested reset (R340) fences an open domain under a record of kind 8, without a dump, to be reset or to be switched off; a
domain that is not open, and PD78, are left as they are. Rests on log entries 113 and 118. -/
def Obligations.RequestedResetsFence : Prop :=
  ∀ (s : State) (d : Nat), s.flt.fatal = false → s.variant.domain d = true →
    (d ≠ 78 → (s.dom d).state = .opened →
      (∃ t, exec (.resetRequest d) s = .next t ∧ (t.dom d).state = .fenced ∧ (t.dom d).offAfter = false ∧
        (t.dom d).record = s.flt.nextId ∧ t.flt.dumps = s.flt.dumps ∧ .fence d ∈ t.ctl ∧ (∀ e, e ≠ d → t.dom e = s.dom e) ∧
        (t.flt.records.any fun r => r.ident == s.flt.nextId && r.kind == 8 && r.domain == d) = true) ∧
      (∃ t, exec (.resetPowerOff d) s = .next t ∧ (t.dom d).state = .fenced ∧ (t.dom d).offAfter = true ∧
        t.flt.dumps = s.flt.dumps ∧ .fence d ∈ t.ctl ∧ (∀ e, e ≠ d → t.dom e = s.dom e))) ∧
    ((s.dom d).state ≠ .opened ∨ d = 78 →
      (∃ t, exec (.resetRequest d) s = .next t ∧ t = s) ∧ (∃ t, exec (.resetPowerOff d) s = .next t ∧ t = s))

/-- Crash dumps (R349, R350, Tables 13-6 and 13-7): a dump takes a buffer and the next id, one that finds none sets DUMP_LOST, a
unit that does not answer is counted, a dump that ends stands in its buffer with its header, and an exported one is at
`FLT_DUMP_DEST`. Rests on log entries 43 and 94. -/
def Obligations.CrashDumps : Prop :=
  ∀ s : State, s.flt.fatal = false →
    (∀ b, s.dumpBuffer = some b →
      ∃ t, exec .dumpNow s = .next t ∧ (tget t.flt.dumps b).map (fun x => (x.ident, x.ended)) = some (s.flt.nextDump, false) ∧
        (∀ k, k ≠ b → tget t.flt.dumps k = tget s.flt.dumps k) ∧ t = { s with flt := t.flt }) ∧
    (s.dumpBuffer = none →
      ∃ t, exec .dumpNow s = .next t ∧ bitAt (t.ev evFlt).value 5 = true ∧ t = { s with events := t.events, plk := t.plk, out := t.out }) ∧
    (∀ b x d u, tget s.flt.dumps b = some x → (d, u) ∈ x.todo →
      ∃ t, exec (.probeTimeout d u) s = .next t ∧
        (tget t.flt.dumps b).map (fun y => (y.unreachable, y.todo.contains (d, u))) = some (x.unreachable + 1, false) ∧
        t = { s with flt := t.flt }) ∧
    (∀ b x, s.flt.dumps = [(b, x)] → x.ended = false → x.records.flatten.length ≤ 262080 →
      ∃ t, exec .dumpEnd s = .next t ∧ t.flt.dumps = [(b, { x with ended := true, todo := [], fin := s.supTime })] ∧
        t.mem.readAll (dumpKey b 0) 8 = leBytes 4 1 ++ leBytes 4 x.ident ∧ bitAt (t.ev evFlt).value 4 = true ∧
        (∀ k, k < dumpKey b 0 ∨ dumpKey b 262144 ≤ k → t.mem.read k = s.mem.read k) ∧
        t = { s with mem := t.mem, flt := t.flt, events := t.events, plk := t.plk, out := t.out }) ∧
    (∀ b x h, tget s.flt.dumps b = some x → x.ended = true → b < 4 → parseAddr (s.flt.dumpDest * 4096) = .host h →
      h + 262144 ≤ 2 ^ 56 → s.linkUp = true →
      ∃ t, exec (.dumpExport b) s = .next t ∧ (tget t.flt.dumps b).map (·.exported) = some true ∧
        (∀ i, i < 262144 → t.mem.read (hostKey (h + i)) = s.mem.read (dumpKey b i)) ∧
        t = { s with mem := t.mem, flt := t.flt, plk := t.plk, out := t.out })

/-! ### Boot, updates, attestation, the sideband -/

/-- Power-on (R397, R396, R426): the supervisor's domains are powered and the power-on is counted; with SVC_EN high it goes no
further; with no valid slot only it and Puchlink run, FAILED, with the alert low; and a boot with a chosen slot ends
OPERATIONAL with the lock set (R398). A job that starts at boot (R399): a graph of its digest starts it, and one that could
not be read or has another digest sets its event and starts nothing. Rests on log entries 131 and 132. -/
def Obligations.SupervisorBoots : Prop :=
  ((∀ s : State, s.flt.fatal = false → (s.dom 78).power = .off →
      (s.pins.svcEn = true →
        ∃ t, exec .powerOnBoot s = .next t ∧ (t.dom 78).power = .on ∧ (t.dom 79).power = .on ∧ t.boot.serviceMode = true ∧
          t.boot.boots = satAdd 32 s.boot.boots 1 ∧ t.boot.state = s.boot.state ∧ (∀ d, d < 78 → t.dom d = s.dom d) ∧
          t = { s with
            domains := t.domains, cores := t.cores, ctl := t.ctl, plk := t.plk, free := t.free, boot := t.boot,
            delivered := t.delivered }) ∧
      (s.pins.svcEn = false → s.slotReason false ≠ 0 → s.slotReason true ≠ 0 →
        ∃ t, exec .powerOnBoot s = .next t ∧ t.boot.state = 4 ∧ t.boot.reasonA = s.slotReason false ∧
          t.boot.reasonB = s.slotReason true ∧ t.boot.boots = satAdd 32 s.boot.boots 1 ∧ t.boot.locked = s.boot.locked ∧
          (t.dom 78).power = .on ∧ (t.dom 77).power = .on ∧ t.pins.alertN = false ∧ (∀ d, d < 77 → t.dom d = s.dom d))) ∧
    ∀ (s : State) (b : Bool), (s.bootSlot b).boot.state = 3 ∧ (s.bootSlot b).boot.locked = true ∧ (s.bootSlot b).boot.slotB = b) ∧
  (∀ (s : State) (j : Nat) (v g : List Byte), s.flt.fatal = false → s.boot.state = 3 → s.boot.jobs[j]? = some v →
      bitAt (le v 4 4) 0 = true → bitAt s.boot.jobStarted j = false →
      (∃ t, exec (.jobAutostart j none) s = .next t ∧ bitAt (t.ev evBoot).value 6 = true ∧
        t = { s with events := t.events, plk := t.plk, out := t.out }) ∧
      (sha384 g ≠ slice v 64 48 →
        ∃ t, exec (.jobAutostart j (some g)) s = .next t ∧ bitAt (t.ev evBoot).value 6 = true ∧
          t = { s with events := t.events, plk := t.plk, out := t.out }) ∧
      (sha384 g = slice v 64 48 →
        ∃ t, exec (.jobAutostart j (some g)) s = .next t ∧ bitAt t.boot.jobStarted j = true))

/-- A request for an update (R406): one whose bundle is valid begins with the turn of the first core it selects; one that arrives
while an update runs is answered RETRY_LATER. Rests on log entries 132, 133 and 140. -/
def Obligations.UpdatesBegin : Prop :=
  ∀ (s : State) (a n c : Nat) (rest : List Nat), s.flt.fatal = false → a % 64 = 0 → s.requestOk a 64 = true →
    le (s.fwRead a 64) 0 4 = 1 → clearAt (s.fwRead a 64) [(0x16, 2), (0x1C, 4)] = true → le (s.fwRead a 64) 4 4 = 1 →
    le (s.fwRead a 64) 0x14 2 = 0 → le (s.fwRead a 64) 0x18 4 ≤ 60000 → le (s.fwRead a 64) 0x10 4 = n →
    (s.boot.upd = .idle → 224 ≤ n → n ≤ 33554432 → s.addressOk (le (s.fwRead a 64) 8 8) = true →
      s.bundleReason (s.fwRead (le (s.fwRead a 64) 8 8) n) = 0 →
      s.updSelected 0 (s.fwRead (le (s.fwRead a 64) 8 8) n) = c :: rest → s.turnWaits c = false →
      ∃ t, exec (.updateRequest a) s = .next t ∧ t.boot.upd = .applying ∧ t.boot.updCore = c ∧ t.boot.updTodo = c :: rest ∧
        t.boot.updAddr = a ∧ t.boot.updStart = s.supTime ∧ t.boot.updBundle = s.fwRead (le (s.fwRead a 64) 8 8) n ∧
        t = { s with boot := t.boot }) ∧
    (∀ h, s.boot.upd ≠ .idle → parseAddr a = .host h → s.linkUp = true →
      ∃ t, exec (.updateRequest a) s = .next t ∧ (t.mem.read (hostKey (h + 0x20))).toNat = Status.retryLater.code ∧
        bitAt (t.ev evBoot).value 1 = true ∧ t = { s with mem := t.mem, events := t.events, plk := t.plk, out := t.out })

/-- A core's turn in an update (R407, R409): the bundle's image becomes current and the old one the previous, and the core
restarts, the supervisor by itself and any other by the reset of its domain; with the core back and its second over, the
update goes on. Rests on log entry 7. -/
def Obligations.CoresAreUpdatedInTurn : Prop :=
  (∀ (s : State) (c : Nat) (rest : List Nat) (f : Firmware), s.flt.fatal = false → s.boot.updTodo = c :: rest →
      s.variant.domain (coreDomain c) = true → c < 13 → s.boot.upd = .applying → s.boot.watch = none → s.turnWaits c = false →
      firmwareOf s.boot.updBundle c = some f →
      ∃ t, exec .updateCoreTurn s = .next t ∧ (t.core c).current = f.digest ∧ (t.core c).previous = (s.core c).current ∧
        (t.core c).previousValid = true ∧ (t.core c).updated = true ∧ t.boot.watch = some c ∧ t.boot.supRestart = (c == 12) ∧
        (∀ k, k ≠ c → t.core k = s.core k) ∧ (c < 12 → (t.dom (coreDomain c)).state = .fenced)) ∧
  (∀ s : State, s.flt.fatal = false → s.boot.supRestart = true →
      ∃ t, exec .supervisorRestartEnd s = .next t ∧ t.boot.supRestart = false ∧ bitAt t.boot.updApplied 12 = true ∧
        (t.core 12).restarts = satAdd 16 (s.core 12).restarts 1 ∧ t = { s with cores := t.cores, boot := t.boot }) ∧
  (∀ (s : State) (c k : Nat) (ks : List Nat), s.flt.fatal = false → s.boot.updTodo = c :: k :: ks → s.boot.watch = some c →
      s.boot.supRestart = false → s.isOpen (coreDomain c) = true → s.turnWaits k = false →
      ∃ t, exec .updateWatchEnd s = .next t ∧ t.boot.watch = none ∧ t.boot.updTodo = k :: ks ∧ t.boot.upd = .applying ∧
        t.boot.updCore = k ∧ t = { s with boot := t.boot })

/-- How an update ends (R408, R410, Table 16-9): a turn that did not begin within MAX_DEFER ends it with REFUSED_INFEASIBLE and
detail 0x20, and a pause of the group for it ends; a persist that reads back well leaves the bundle's manifest at the target
slot, and one that does not ends it with DIGEST_MISMATCH. Rests on log entries 36, 132 and 134. -/
def Obligations.UpdatesEnd : Prop :=
  ∀ (s : State) (h : Nat), s.flt.fatal = false → parseAddr s.boot.updAddr = .host h → h % 64 = 0 → s.linkUp = true →
    (s.boot.upd = .deferred → s.net.state = .paused → s.isMaster = false →
      ∃ t, exec .updateDeferLimit s = .next t ∧ t.boot.upd = .idle ∧ t.net.state = .running ∧
        .stepEnd s.net.groupId s.net.master s.net.term s.net.step (s.memberStatus s.net.step) (64 * s.ckp.lsn.toNat) ∈ t.netOut ∧
        (∀ x, s.member s.net.self = some x → t.member s.net.self = some { x with paused := false })) ∧
    (s.boot.upd = .deferred → s.net.state ≠ .paused →
      ∃ t, exec .updateDeferLimit s = .next t ∧ t.boot.upd = .idle ∧ t.boot.updTodo = [] ∧
        (t.mem.read (hostKey (h + 0x20))).toNat = Status.refusedInfeasible.code ∧ (t.mem.read (hostKey (h + 0x21))).toNat = 0x20 ∧
        bitAt (t.ev evBoot).value 1 = true ∧
        t = { s with boot := t.boot, mem := t.mem, events := t.events, plk := t.plk, out := t.out }) ∧
    (s.boot.upd = .persisting → bitAt s.boot.updFlags 2 = false →
      ∃ t, exec (.flashPersistEnd true) s = .next t ∧ t.boot.upd = .idle ∧
        t.boot.updSlot = b2n (s.persistTarget s.boot.updBundle) ∧
        t.mem.readAll (flashKey (if s.persistTarget s.boot.updBundle then 0x08000000 else 0)) (224 + recordsLen s.boot.updBundle) =
          slice s.boot.updBundle 0 (224 + recordsLen s.boot.updBundle) ∧
        (t.mem.read (hostKey (h + 0x20))).toNat = Status.ok.code ∧
        bitAt (t.ev evBoot).value 3 = true ∧ bitAt (t.ev evBoot).value 0 = true) ∧
    (s.boot.upd = .persisting →
      ∃ t, exec (.flashPersistEnd false) s = .next t ∧ t.boot.upd = .idle ∧
        (t.mem.read (hostKey (h + 0x20))).toNat = Status.digestMismatch.code ∧ bitAt (t.ev evBoot).value 1 = true ∧
        (∀ a, a < 2 ^ 28 → t.mem.read (flashKey a) = s.mem.read (flashKey a)) ∧
        t = { s with boot := t.boot, mem := t.mem, events := t.events, plk := t.plk, out := t.out })

/-- Attestation (R403): a request joins a queue of at most four, which refuses a fifth; when the report at its head is signed, its
completion says OK. Rests on log entry 140. -/
def Obligations.AttestationIsQueued : Prop :=
  ∀ s : State, s.flt.fatal = false → s.isOpen 77 = true →
    (∀ a : Nat, a % 128 = 0 → s.requestOk a 128 = true → le (s.fwRead a 128) 0 4 = 1 → s.boot.supRestart = false →
      s.requestOk (le (s.fwRead a 128) 8 8) 976 = true → clearAt (s.fwRead a 128) [(4, 4), (0x40, 48)] = true →
      (s.boot.atts.length < 4 →
        ∃ t, exec (.attestationRequest a) s = .next t ∧
          t = { s with boot := { s.boot with atts := s.boot.atts ++ [(a, s.supTime, s.fwRead a 128)] } }) ∧
      (∀ h, 4 ≤ s.boot.atts.length → parseAddr a = .host h → s.linkUp = true →
        ∃ t, exec (.attestationRequest a) s = .next t ∧ (t.mem.read (hostKey (h + 0x70))).toNat = Status.refusedCapacity.code ∧
          bitAt (t.ev evSec).value 1 = true ∧ t = { s with mem := t.mem, events := t.events, plk := t.plk, out := t.out })) ∧
    (∀ a t0 l rest h, s.boot.atts = (a, t0, l) :: rest → parseAddr a = .host h → h % 128 = 0 → s.linkUp = true →
      ∃ t, exec .attestationReportDone s = .next t ∧ t.boot.atts = rest ∧
        (t.mem.read (hostKey (h + 0x70))).toNat = Status.ok.code ∧ bitAt (t.ev evSec).value 0 = true ∧
        t = { s with boot := t.boot, mem := t.mem, free := t.free, events := t.events, plk := t.plk, out := t.out })

/-- The sideband's reads (Tables 18-4 and 18-5, R424, R425) answer in one message and change nothing else: the readings as
LINEAR11 words, STATUS_WORD's hold-up and condition bits, a register of the four blocks; another offset is a CML fault.
CLEAR_FAULTS releases the alert unless a condition stands. MOD_RST_N low for 1 ms, and MFR_RESET with 0xA5, reset every domain
but not on the hold-up store (R421); MFR_FLASH reads and programs the flash in service mode or FAILED, and is refused
otherwise (R426). Rests on log entries 127, 128, 129 and 130. -/
def Obligations.SidebandWorks : Prop :=
  (∀ s : State,
      let word : Nat → Nat → OutMsg := fun a b => .sideband (some (leBytes 2 (Config.linear11 a b).toNat))
      (∃ t, exec .readVin s = .next t ∧ t = { s with out := s.out ++ [word s.pwr.inputDv 10] }) ∧
      (∃ t, exec .readIin s = .next t ∧ t = { s with out := s.out ++ [word s.pwr.inputDa 10] }) ∧
      (∃ t, exec .readTemperature1 s = .next t ∧ t = { s with out := s.out ++ [word s.pwr.tjMax 1] }) ∧
      (∃ t, exec .readTemperature2 s = .next t ∧ t = { s with out := s.out ++ [word s.pwr.inlet 1] }) ∧
      (∃ t, exec .readTemperature3 s = .next t ∧ t = { s with out := s.out ++ [word s.pwr.outlet 1] }) ∧
      (∃ t, exec .readPin s = .next t ∧ t = { s with out := s.out ++ [word s.pwr.inputW 1] }) ∧
      (∃ t, exec .statusWord s = .next t ∧
        (match t.out.getLast? with
          | some (.sideband (some b)) => b.length == 2 && bitAt (ofLe b) 6 == s.pwr.onHoldup && bitAt (ofLe b) 0 == s.alertStands
          | _ => false) = true ∧
        t = { s with out := t.out, free := t.free }) ∧
      (∃ t, exec .clearFaults s = .next t ∧ t = { s with pins := { s.pins with alertN := !s.alertStands } }) ∧
      (s.isOpen 78 = true → ∃ t, exec (.mfrRegRead 0x18) s = .next t ∧
        t = { s with out := s.out ++ [.sideband (some (leBytes 8 (s.readReg .glbIntPend)))] }) ∧
      (∀ off, State.sideBlock off = false → ∃ t, exec (.mfrRegRead off) s = .next t ∧
        t = { s with out := s.out ++ [.sideband none] })) ∧
  (∀ s : State,
      (∀ us, 1000 ≤ us → s.pwr.onHoldup = false →
        (∃ t, exec (.modRstN us) s = .next t ∧ t.contexts = [] ∧ t.boot.state = 0 ∧ t.flt.fatal = false ∧ t.plk = Plk.reset ∧
          t.sel = Sel.reset ∧ t.boot.boots = s.boot.boots ∧ (∀ d, t.dom d = Domain.reset) ∧
          ∀ a, a < 2 ^ 28 → t.mem.read (flashKey a) = s.mem.read (flashKey a)) ∧
        (∃ t, exec (.mfrReset 0xA5) s = .next t ∧ exec (.modRstN us) s = .next t)) ∧
      (∀ us, us < 1000 ∨ s.pwr.onHoldup = true → ∃ t, exec (.modRstN us) s = .next t ∧ t = s) ∧
      (∀ v, v ≠ 0xA5 → ∃ t, exec (.mfrReset v) s = .next t ∧ t = s) ∧
      (∀ a l, s.boot.serviceMode = true ∨ s.boot.state = 4 → a + l.length ≤ 2 ^ 28 → a < 2 ^ 28 →
        (∃ t, exec (.mfrFlash 0 a l) s = .next t ∧
          t = { s with out := s.out ++ [.sideband (some (s.mem.readAll (flashKey a) l.length))] }) ∧
        (∃ t, exec (.mfrFlash 2 a l) s = .next t ∧ t.mem.readAll (flashKey a) l.length = l ∧
          (∀ k, k < flashKey a ∨ flashKey a + l.length ≤ k → t.mem.read k = s.mem.read k) ∧
          t = { s with mem := t.mem, out := s.out ++ [.sideband (some [])] })) ∧
      (∀ op a l, s.boot.serviceMode = false → s.boot.state ≠ 4 →
        ∃ t, exec (.mfrFlash op a l) s = .next t ∧ t = { s with out := s.out ++ [.sideband none] }))

/-! ### Command words at their units -/

/-- The units of the arrays begin and run a command that is ready (R165 to R170): a matrix command deals its tiles and parts, with
their runs of chunks, to the queue's arrays in order (R83, R107, R108), once a channel it drains into can take a block (R30); ELTWISE and CONVERT of one element to an FP32 operand
in scratchpad write its encoding; REDUCE of one row and TOPK of one row write its record or its entries. Rests on log entry
30. -/
def Obligations.ArrayCommandsRun : Prop :=
  ∀ (s : State) (c q : Nat) (idx : Word) (y : Cmd),
    let x := State.atCmd c q y
    let ptn := (s.ctx c).ptn
    let die := s.queueDie c q
    let ars := s.cmdArrays c q
    let dealtOut : State → Nat → Prop := fun t split =>
      t = { s with arrays := t.arrays, contexts := t.contexts, channels := t.channels } ∧
      (s.opd x 34 [2] = none → t.channels = s.channels) ∧
      t.cmdIs c q idx (fun z => z.started && z.left == s.matTiles x && z.count == s.matTiles x && z.result == none && z.word == y.word) ∧
      (∀ a, a ∉ ars → t.arr a = s.arr a) ∧
      ∀ u, u < s.matTiles x * split →
        ((t.arr (dealt ars u).1).bound.any fun b => b.ctx == c && b.q == q && b.idx == idx && b.tile == u / split && b.part == u % split &&
          b.lo == u % split * s.tileChunks x / split && b.hi == (u % split + 1) * s.tileChunks x / split && b.first &&
          b.add == (matForm x).add && b.drain == (matForm x).drain &&
          b.slot == (if (matForm x).drain then none else some (((matForm x).slot + (dealt ars u).2) % 4))) = true
    let canDrain : Prop := ∀ d, s.opd x 34 [2] = some d → ∃ i, s.chanOf d.handle = some i ∧ s.chanStatus i true = none ∧
      s.chanActs i true = true ∧ s.canFill i = true
    (s.ready 1 c q idx y (s.queueDomains c q) → canDrain →
      ∃ t, exec (.matmul c q idx) s = .next t ∧ dealtOut t (x.f 103 96 + 1)) ∧
    (s.ready 2 c q idx y (s.queueDomains c q) → canDrain →
      ∃ t, exec (.convrow c q idx) s = .next t ∧ dealtOut t 1) ∧
    (∀ p i d k, s.ready 3 c q idx y (s.queueDomains c q) → s.param x (x.d 61) = some p → p.rows = 1 → p.cols = 1 →
      ([x.f 30 21, x.f 40 31, x.f 50 41].all fun v => s.storeReady x v 1) = true → selOf (x.f 60 51) = .desc i →
      s.desc x i [0, 1, 2] = some d → d.kind = 0 → s.desc x i [1] = none → s.desc x i [2] = none →
      x.f 77 74 = 13 → x.b 8 = false → x.f 79 78 ≠ 2 → x.f 93 92 = 0 → parseAddr d.addr = .scr false (arrDie (ars.getD 0 0)) k →
      s.edgeFree x 1 = true → s.lies ptn (arrDie (ars.getD 0 0)) d.addr 4 (scrKey ptn (arrDie (ars.getD 0 0)) k) →
      ∃ t, exec (.eltwise c q idx) s = .next t ∧
        s.stores t (scrKey ptn (arrDie (ars.getD 0 0)) k) (leBytes 4
          (convertTo 13 (rndOf false (x.f 79 78) (s.ctx c).tx2 0) (x.b 80) (toSigned 8 (x.f 88 81)) (s.ctx c).tx2
            (subRule (s.ctx c).tx2 (eltOp (x.f 20 16) (x.f 91 89) (s.eltSource x (x.f 30 21) (x.f 73 70) 1 0 0 0 p)
              (s.eltSource x (x.f 40 31) (x.f 73 70) 1 0 0 0 p) (s.eltSource x (x.f 50 41) (x.f 73 70) 1 0 0 0 p)))).1) ∧
        t.cmdIs c q idx (fun z => z.result == some .ok && z.count == 1) ∧
        t = { s with arrays := t.arrays, contexts := t.contexts, quads := t.quads, mem := t.mem, free := t.free }) ∧
    (∀ p i d k v, s.ready 6 c q idx y (s.queueDomains c q) → s.param x (x.d 55) = some p → p.rows = 1 → p.cols = 1 →
      s.storeReady x (x.f 25 16) 1 = true → selOf (x.f 25 16) = .desc v → selOf (x.f 35 26) = .desc i →
      s.desc x i [0, 1, 2] = some d → d.kind = 0 → s.desc x i [1] = none → s.desc x i [2] = none →
      x.f 43 40 = 13 → x.b 8 = false → x.f 45 44 ≠ 2 → parseAddr d.addr = .scr false (arrDie (ars.getD 0 0)) k →
      s.edgeFree x 1 = true → s.lies ptn (arrDie (ars.getD 0 0)) d.addr 4 (scrKey ptn (arrDie (ars.getD 0 0)) k) →
      ∃ t, exec (.convert c q idx) s = .next t ∧
        s.stores t (scrKey ptn (arrDie (ars.getD 0 0)) k) (leBytes 4
          (convertTo 13 (rndOf false (x.f 45 44) (s.ctx c).tx2 0) (x.b 46) (toSigned 8 (x.f 54 47)) (s.ctx c).tx2
            (s.sourceNum x (x.f 25 16) (x.f 39 36) 1 0 0 0 p)).1) ∧
        t.cmdIs c q idx (fun z => z.result == some .ok && z.count == 1) ∧
        t = { s with arrays := t.arrays, contexts := t.contexts, quads := t.quads, mem := t.mem, free := t.free }) ∧
    (∀ p d k, s.ready 4 c q idx y (s.queueDomains c q) → s.param x (x.d 56) = some p → p.rows = 1 → x.b 18 = false →
      s.storeReady x (x.f 28 19) (tileCount 1 p.cols) = true → s.opd x 29 [0] = some d →
      parseAddr d.addr = .scr false die k → s.lies ptn die d.addr 16 (scrKey ptn die k) →
      ∃ t, exec (.reduce c q idx) s = .next t ∧
        s.stores t (scrKey ptn die k) (State.reduceBytes (x.f 17 16) (s.reduceOne x p 0)) ∧
        t.cmdIs c q idx (fun z => z.result == some .ok && z.count == 1) ∧
        t = { s with arrays := t.arrays, contexts := t.contexts, quads := t.quads, mem := t.mem, free := t.free }) ∧
    (∀ p d k, s.ready 5 c q idx y (s.queueDomains c q) → s.param x (x.d 59) = some p → p.rows = 1 → x.b 16 = false →
      s.storeReady x (x.f 31 22) (tileCount 1 p.cols) = true → s.opd x 32 [0] = some d → 8 * (x.f 21 17 + 1) ≤ p.cols →
      parseAddr d.addr = .scr false die k → s.lies ptn die d.addr (64 * (x.f 21 17 + 1)) (scrKey ptn die k) →
      ∃ t, exec (.topk c q idx) s = .next t ∧
        s.stores t (scrKey ptn die k)
          (((State.topRow p (8 * (x.f 21 17 + 1) + 1) (s.topKey x p (p.c.getD 0 Machine.Num.zero) 0)).take (8 * (x.f 21 17 + 1))).flatMap fun e =>
            leBytes 4 (f32Bits e.1) ++ leBytes 4 e.2) ∧
        t.cmdIs c q idx (fun z => z.result == some .ok && z.count == 1) ∧
        t = { s with arrays := t.arrays, contexts := t.contexts, quads := t.quads, mem := t.mem, free := t.free })

/-- The Sorus commands and DMA, run when ready (R171 to R174): SPUT commits the FILLING block under the channel's next SEQ; STAKE
copies a block behind its header and leaves it; LOSS over a feature block takes it, reports the mean of R38 over its tokens
and writes nothing but the gradients; DMA copies a row of records. Rests on log entry 116. -/
def Obligations.DataCommandsRun : Prop :=
  ∀ (s : State) (c q : Nat) (idx : Word) (y : Cmd),
    let x := State.atCmd c q y
    let ptn := (s.ctx c).ptn
    let die := s.queueDie c q
    (∀ (d : Desc) (i : Nat) (ch : Channel), s.opd x 16 [2] = some d → s.chanOf d.handle = some i → tget s.channels i = some ch →
      ch.state = .opened → s.isOpen (sramDomain ch.placement) = true → y.waitFrom = none →
      (∀ k, s.ready 7 c q idx y [] → ch.skip = 0 → x.d 25 = 0 → x.b 43 = true → ch.find .filling = some k →
        ∃ t, exec (.sput c q idx) s = .next t ∧ t = { s with mem := t.mem, channels := t.channels, contexts := t.contexts } ∧
          ((tget t.channels i).any fun h => h.nextSeq == ch.nextSeq + 1 && (h.slots.getD k SorSlot.reset).state == .full &&
            (h.slots.getD k SorSlot.reset).seq == ch.nextSeq && (h.slots.getD k SorSlot.reset).valid == x.f 54 45 + 1 &&
            (h.slots.getD k SorSlot.reset).step == (s.ctx c).step &&
            (h.slots.getD k SorSlot.reset).flags == b2n (ch.escalated || s.runsWide c) + 2 * b2n (x.b 44) && !h.escalated) = true ∧
          (∀ j, j ≠ i → tget t.channels j = tget s.channels j) ∧
          (∀ a, a < sorKey i k ((x.f 54 45 + 1) * ch.tokenBytes) → t.mem.read a = s.mem.read a) ∧
          t.cmdIs c q idx fun z => z.result == some .ok) ∧
      (∀ r k j, s.ready 8 c q idx y [] → s.opd x 25 [0] = some r → State.stakeStale x ch = false → State.stakeSlot x ch = some k →
        parseAddr r.addr = .scr false die j → s.lies ptn die r.addr (32 + ch.tokenBytes * s.chanTokens ch) (scrKey ptn die j) →
        ∃ t, exec (.stake c q idx) s = .next t ∧
          s.stores t (scrKey ptn die j) ((ch.slots.getD k SorSlot.reset).header ++
            s.mem.readAll (sorKey i k 0) (ch.tokenBytes * s.chanTokens ch)) ∧
          t.cmdIs c q idx (fun z => z.result == some .ok) ∧ t = { s with mem := t.mem, contexts := t.contexts }) ∧
      (∀ h g k n, s.ready 9 c q idx y ((s.queueDomains c q).take 1) → s.opd x 25 [0] = some h → s.opd x 43 [0] = some g →
        ch.feature = true → ch.oldestFull = some k → ch.find .consuming = none → (ch.slots.getD k SorSlot.reset).valid = h.rows →
        0 < h.rows → g.rows = h.rows → g.cols = ch.width → g.layout = 0 → parseAddr g.addr = .scr false die n →
        s.lies ptn die g.addr (g.span (x.f 72 69)) (scrKey ptn die n) →
        let tx2 := (s.ctx c).tx2
        let losses := (List.range h.rows).map fun u =>
          (featureToken tx2 (f32Of ch.gamma)
            ((List.range ch.width).map fun j => decodeElem (x.f 64 61) tx2 (s.elem (s.memRow ptn die h (x.f 64 61) u) (x.f 64 61) j))
            ((List.range ch.width).map fun j => decodeElem 4 tx2 (getElem (fun o =>
              (s.mem.readAll (sorKey i k (u * ch.tokenBytes)) ch.tokenBytes).getD o 0) 4 j))).loss
        ∃ t, exec (.loss c q idx) s = .next t ∧
          (t.cmdIs c q idx fun z => (z.result == some .ok || z.result == some .nonfiniteStep) && z.body.length == 24 &&
            z.body.take 4 == leBytes 4 (f32Bits (subRule tx2 (fdiv (subRule tx2 (f32 (p48Sum losses))) (Num.ofNat h.rows)))) &&
            le z.body 16 2 == h.rows % 2 ^ 16) ∧
          ((tget t.channels i).any fun h => (h.slots.getD k SorSlot.reset).state == .consuming) = true ∧
          (∀ j, j ≠ i → tget t.channels j = tget s.channels j) ∧
          (∀ a, a < scrKey ptn die n ∨ scrKey ptn die n + g.span (x.f 72 69) ≤ a → t.mem.read a = s.mem.read a) ∧
          t = { s with mem := t.mem, channels := t.channels, contexts := t.contexts })) ∧
    (∀ (a d : Desc) (m n : Nat), s.opd x 16 [0] = some a → s.opd x 25 [0] = some d →
      s.ready 10 c q idx y [State.engineDomain (s.dmaEngine x)] → s.engineFree (s.dmaEngine x) c q idx = true →
      (s.dmaE (s.dmaEngine x)).waits = [] → s.hostSpans x = [] →
      d.layout = 3 → a.layout = 3 → a.cols = d.cols → x.f 45 43 = 0 → s.dmaRows x = 1 → x.f 73 50 = 0 → x.f 121 98 = 0 →
      parseAddr d.addr = .scr false (s.dmaDie x) n → s.lies ptn (s.dmaDie x) d.addr (16 * d.cols) (scrKey ptn (s.dmaDie x) n) →
      s.lies ptn (s.dmaDie x) a.addr (16 * d.cols) m →
      ∃ t, exec (.dma c q idx) s = .next t ∧ s.stores t (scrKey ptn (s.dmaDie x) n) (s.mem.readAll m (16 * d.cols)) ∧
        t.cmdIs c q idx (fun z => z.result == some .ok && z.moved == 16 * d.cols) ∧ (t.dmaE (s.dmaEngine x)).bytes = 16 * d.cols ∧
        (∀ e, e ≠ s.dmaEngine x → t.dmaE e = s.dmaE e) ∧
        t = { s with mem := t.mem, lines := t.lines, dmas := t.dmas, contexts := t.contexts })

/-- The command queues (R151, R153, R154, R156, R157, R159): a doorbell moves TAIL or, with a stale generation or more commands
than the ring holds, is rejected; RESTART and ABORT act on the queue that `CTX_Q_SEL` names; dispatch takes the next word in
order; and a code that a unit answers makes its command final, halts the queue, ends the context, waits for a fence or runs
the command again. Rests on log entries 29 and 66. -/
def Obligations.QueuesRunCommands : Prop :=
  (∀ (s : State) (n v : Nat), s.flt.fatal = false →
    let c := n / 4
    let q := n % 4
    let x := s.queue c q
    let tail := BitVec.ofNat 32 v
    ((s.ctx c).state ≠ .free → (s.ctx c).state ≠ .teardown → fld v 43 32 = s.ctxHandles.gen c → x.ringLog2 ≠ 0 →
      0 ≤ (tail - x.tail).toInt → (tail - x.done).toNat ≤ 2 ^ x.ringLog2 →
      ∃ t, exec (.doorbell n v) s = .next t ∧ (t.queue c q).tail = tail ∧ (t.queue c q).head = x.head ∧
        ((t.queue c q).state = if x.state = .idle ∧ tail ≠ x.done then .active else x.state) ∧
        (∀ p, p ≠ q → t.queue c p = s.queue c p) ∧ (∀ d, d ≠ c → t.ctx d = s.ctx d) ∧ t = { s with contexts := t.contexts }) ∧
    ((s.ctx c).state = .free ∨ fld v 43 32 ≠ s.ctxHandles.gen c ∨ x.ringLog2 = 0 ∨ (tail - x.tail).toInt < 0 ∨
        2 ^ x.ringLog2 < (tail - x.done).toNat →
      ∃ t, exec (.doorbell n v) s = .next t ∧ bitAt (t.ev evQ).value 2 = true ∧
        t = { s with events := t.events, plk := t.plk, out := t.out })) ∧
  (∀ (s : State) (c q : Nat) (i : Word), s.flt.fatal = false → s.selQueue = some (c, q) →
    ((s.queue c q).state = .halted → (i - (s.queue c q).haltedAt).toNat ≤ ((s.queue c q).tail - (s.queue c q).haltedAt).toNat →
      ∃ t, exec (.ctxQRestart i) s = .next t ∧ (t.queue c q).head = i ∧ (t.queue c q).done = i ∧
        (t.queue c q).tail = (s.queue c q).tail ∧ (t.queue c q).state ≠ .halted ∧
        ((t.queue c q).cmds.all fun y => !y.final && decide ((y.index - i).toInt < 0)) = true ∧
        (∀ p, p ≠ q → t.queue c p = s.queue c p) ∧
        t = { s with contexts := t.contexts, arrays := t.arrays, dmas := t.dmas, plk := t.plk }) ∧
    ((s.queue c q).state ≠ .idle →
      ∃ t, exec .ctxQAbort s = .next t ∧ (t.queue c q).head = (s.queue c q).tail ∧ (t.queue c q).done = (s.queue c q).tail ∧
        (t.queue c q).state = .idle ∧ ((t.queue c q).cmds.map (·.index)) = (s.queue c q).cmds.map (·.index) ∧
        (∀ p, p ≠ q → t.queue c p = s.queue c p) ∧ t = { s with contexts := t.contexts })) ∧
  (∀ (s : State) (c q : Nat), s.flt.fatal = false → (s.ctx c).state = .running →
    let x := s.queue c q
    let w := ofLe (s.fwRead (s.ringAt c q x.head) 16)
    let a : At := { c := c, q := q, win := x.window, w := w, tab := s.readDescs c x.window w }
    x.state = .active → x.ringLog2 ≠ 0 → x.head ≠ x.tail → State.outstanding x < 64 → State.blocking x = false →
      s.isOpen (fabricDomain (s.queueDie c q)) = true → s.pwr.dispatchHeld = false → s.pwr.onHoldup = false →
      (s.cringRoom c q (State.outstanding x) = true → s.readable (s.ringAt c q x.head) 16 = true → x.passing = false →
        s.clear c q x.cmds a = true → s.dispatchStatus a = none →
        ∃ t, exec (.commandDispatch c q) s = .next t ∧ (t.queue c q).head = x.head + 1 ∧
          (t.queue c q).cmds = x.cmds ++ [{ cmdNew x.head (BitVec.ofNat 128 w) x.window with descs := a.tab }] ∧
          t = { s with contexts := t.contexts, pcs := t.pcs }) ∧
      (∀ d, s.cringRoom c q (State.outstanding x) = true → s.readable (s.ringAt c q x.head) 16 = true → x.passing = false →
        s.clear c q x.cmds a = true → s.dispatchStatus a = some (.retryLater, some d) →
        ∃ t, exec (.commandDispatch c q) s = .next t ∧ (t.queue c q).head = x.head + 1 ∧
          ((t.queue c q).cmds.getLast?.any fun y => y.index == x.head && y.result == some .retryLater && y.waitDom == some d) = true) ∧
      (s.cringRoom c q (State.outstanding x) = false →
        ∃ t, exec (.commandDispatch c q) s = .next t ∧ bitAt (t.ev evQ).value 1 = true ∧
          t = { s with events := t.events, plk := t.plk, out := t.out })) ∧
  ∀ (s : State) (c q : Nat) (idx : Word) (y : Cmd) (st : Status), s.flt.fatal = false → s.cmd c q idx = some y → y.final = false →
    y.result = some st → (s.ctx c).state = .running → s.unacked c q idx = false → s.linkUp = true → cmdOpcode y.word ≠ 9 →
    (st = .ok → needsRecord st y.word = false → cmdIrq y.word = false → (s.queue c q).cmds = [y] → (s.queue c q).done = idx →
      ∃ t, exec (.commandComplete c q idx) s = .next t ∧ (t.queue c q).cmds = [] ∧ (t.queue c q).done = idx + 1 ∧
        (t.queue c q).head = (s.queue c q).head ∧ (t.queue c q).ctail = (s.queue c q).ctail ∧
        ((s.queue c q).state = .active → (t.queue c q).state = if idx + 1 = (s.queue c q).tail then .idle else .active) ∧
        t = { s with contexts := t.contexts, dmas := t.dmas }) ∧
    (st ∉ [.ok, .accOverflow, .nonfiniteStep, .contextFault, .retryLater, .domainReset] →
      ∃ t, exec (.commandComplete c q idx) s = .next t ∧ (t.queue c q).state = .halted ∧ (t.queue c q).lastStatus = st ∧
        (t.queue c q).haltedAt = idx ∧ bitAt (t.ev evQ).value 0 = true ∧
        t = { s with
          contexts := t.contexts, dmas := t.dmas, mem := t.mem, lines := t.lines, events := t.events, plk := t.plk, out := t.out }) ∧
    (st = .contextFault →
      ∃ t, exec (.commandComplete c q idx) s = .next t ∧ (t.ctx c).state = .teardown ∧
        (t.flt.records.any fun r => r.ident == s.flt.nextId && r.kind == 3 && r.level == 0) = true) ∧
    (st = .retryLater → y.waitDom ≠ none → ∃ t, exec (.commandComplete c q idx) s = .next t ∧ t = s) ∧
    (st = .domainReset → y.resets < 3 → adds y.word = false →
      ∃ t, exec (.commandComplete c q idx) s = .next t ∧ (t.queue c q).reissues = satAdd 16 (s.queue c q).reissues 1 ∧
        t.cmdIs c q idx (fun z => z.reissued && z.resets == y.resets + 1 && z.result == none && !z.started) ∧
        t = { s with contexts := t.contexts, dmas := t.dmas, arrays := t.arrays })

/-- What holds a queue (R34, R138 to R143, R175, R176): a FENCE passes when its conditions hold, waits, and parks its context when
it has waited long enough, or ends a deadlocked one; a command that waits too long for its channel parks its context; a parked
context is SAVED when its wait is over; an EVENT adds to a counter, selects a window, raises its interrupt, or holds the
queue; a gate whose layer reports nothing lets the queue go on, one that reports bad values runs the layer again in the next
wider format, or asks for the step to be skipped, and the first gate after a STEP ends the step's updates, whatever they report
(log entry 173); and in SOLO a released STEP gate begins the next step. Rests on log entries
27 and 28. -/
def Obligations.QueuesWaitAndGoOn : Prop :=
  ∀ (s : State) (c q : Nat), s.flt.fatal = false →
    let x := s.queue c q
    let only : State → Prop := fun t => t = { s with contexts := t.contexts }
    ((s.ctx c).state = .running →
      (∀ (y : Cmd) (idx : Word), s.cmd c q idx = some y → y.started = false → y.result = none → x.state = .active →
        (cmdOpcode y.word = 11 → s.fenceHolds c q y = true →
          ∃ t, exec (.fence c q idx) s = .next t ∧ t.cmdIs c q idx (fun z => z.result == some .ok) ∧ (t.queue c q).state = .active ∧ only t) ∧
        (cmdOpcode y.word = 11 → s.fenceHolds c q y = false →
          ∃ t, exec (.fence c q idx) s = .next t ∧
            t.cmdIs c q idx (fun z => z.started && z.result == none && z.waitFrom == some (s.groupTime (s.queueDie c q))) ∧
            (t.queue c q).state = .waiting ∧ only t) ∧
        (cmdOpcode y.word = 12 → (s.earlier c q idx).all (·.final) = true →
          (fld y.word.toNat 18 16 = 0 →
            ∃ t, exec (.event c q idx) s = .next t ∧ (t.cmdIs c q idx fun z => z.result == some .ok) ∧ only t ∧
              (∀ n v, (s.ctx c).sync[n]? = some v → (t.ctx c).sync[n]? =
                some (if n = fld y.word.toNat 21 19 then v + BitVec.ofNat 32 (fld y.word.toNat 37 22) else v))) ∧
          (fld y.word.toNat 18 16 = 3 →
            ∃ t, exec (.event c q idx) s = .next t ∧ (t.cmdIs c q idx fun z => z.result == some .ok) ∧
              (t.queue c q).window = fld y.word.toNat 57 55 ∧ only t) ∧
          (fld y.word.toNat 18 16 = 4 →
            ∃ t, exec (.event c q idx) s = .next t ∧ (t.cmdIs c q idx fun z => z.result == some .ok) ∧
              t.sel.payload = fld y.word.toNat 95 64 ∧ bitAt (t.ev evQ).value 4 = true ∧
              t = { s with contexts := t.contexts, sel := t.sel, events := t.events, plk := t.plk, out := t.out }) ∧
          (fld y.word.toNat 18 16 = 1 →
            ∃ t, exec (.event c q idx) s = .next t ∧ t.cmdIs c q idx (fun z => z.started && z.result == none) ∧
              (t.queue c q).state = .gated ∧ (t.queue c q).stepGate = false ∧ only t) ∧
          (fld y.word.toNat 18 16 = 2 → s.net.state = .solo → s.ckpPtn ≠ some (s.ctx c).ptn →
            ∃ t, exec (.event c q idx) s = .next t ∧ t.cmdIs c q idx (fun z => z.started && z.result == none) ∧
              (t.queue c q).state = .gated ∧ (t.queue c q).stepGate = true ∧ only t))) ∧
      (∀ y, s.waitingFence c q = some y →
        (s.fenceHolds c q y = true →
          ∃ t, exec (.fenceSatisfied c q) s = .next t ∧ t.cmdIs c q y.index (fun z => z.result == some .ok) ∧
            (t.queue c q).state ≠ .waiting ∧ only t) ∧
        (s.fenceHolds c q y = false → bitAt y.word.toNat 21 = true ∨ s.deadlocked c = false →
          ∃ t, exec (.fenceWaitLimit c q) s = .next t ∧ (t.ctx c).state = .saving ∧ (t.ctx c).after = .parked ∧
            (t.ctx c).wait ≠ .none ∧ (t.ctx c).lastReason = 3 ∧ (∀ d, d ≠ c → t.ctx d = s.ctx d) ∧
            t = { s with contexts := t.contexts, mem := t.mem, lines := t.lines, plk := t.plk, out := t.out, channels := t.channels,
                         chanHandles := t.chanHandles, jobs := t.jobs, jobHandles := t.jobHandles }) ∧
        (s.fenceHolds c q y = false → bitAt y.word.toNat 21 = false → s.deadlocked c = true →
          ∃ t, exec (.fenceWaitLimit c q) s = .next t ∧ (t.ctx c).state = .teardown ∧ bitAt (t.ev evQ).value 3 = true ∧
            (t.flt.records.any fun r => r.ident == s.flt.nextId && r.kind == 5 && r.context == s.ctxHandle c) = true ∧
            t = { s with contexts := t.contexts, flt := t.flt, events := t.events, plk := t.plk, out := t.out })) ∧
      (∀ y (idx : Word) i put, s.cmd c q idx = some y → s.waitsFor c q y = some (i, put) → (tget s.channels i).isSome = true →
        ∃ t, exec (.sorWaitLimit c q idx) s = .next t ∧ (t.ctx c).state = .saving ∧ (t.ctx c).after = .parked ∧
          (t.ctx c).wait = (if put then .credit i else .block i) ∧ bitAt (t.ev evSor).value 0 = true ∧
          t = { s with contexts := t.contexts, mem := t.mem, lines := t.lines, plk := t.plk, out := t.out, channels := t.channels, events := t.events,
                       chanHandles := t.chanHandles, jobs := t.jobs, jobHandles := t.jobHandles }) ∧
      (∀ y, s.heldEvent c q 1 = some y → (s.ctx c).captureDue = false → (s.ctx c).atStep = false → s.replayOf c = none →
        (x.updating = true →
          ∃ t, exec (.layerGate c q) s = .next t ∧ t.cmdIs c q y.index (fun z => z.result == some .ok) ∧
            (t.queue c q).state = .active ∧ (t.queue c q).updating = false ∧ (t.queue c q).gateFrom = y.index + 1 ∧
            (t.ctx c).layerReports = (s.ctx c).layerReports ∧ only t) ∧
        (((s.layerOf c (fld y.word.toNat 53 38)).all fun p => !bitAt p.2.flags 0 && x.gateBad == 0) = true →
          ∃ t, exec (.layerGate c q) s = .next t ∧ t.cmdIs c q y.index (fun z => z.result == some .ok) ∧
            (t.queue c q).state = .active ∧ (t.queue c q).gateFrom = y.index + 1 ∧ (t.ctx c).attempt = 0 ∧ only t) ∧
        (∀ i r f, s.layerOf c (fld y.word.toNat 53 38) = some (i, r) → x.updating = false → bitAt r.flags 0 = false → x.gateBad ≠ 0 →
          nextWithin (s.ctx c).tx2 r.cur r.ceil = some f → s.ckpPtn = none →
          ∃ t, exec (.layerGate c q) s = .next t ∧ (t.queue c q).head = x.gateFrom ∧ (t.queue c q).done = x.gateFrom ∧
            (t.queue c q).cmds = [] ∧ (t.queue c q).state = .active ∧ (t.ctx c).attempt = (s.ctx c).attempt + 1 ∧
            (t.ctx c).escalations = satAdd 16 (s.ctx c).escalations 1 ∧ r.layer ∈ (t.ctx c).heldNow ∧ bitAt (t.ev evNum).value 0 = true) ∧
        (∀ i r, s.layerOf c (fld y.word.toNat 53 38) = some (i, r) → x.updating = false → bitAt r.flags 0 = false → x.gateBad ≠ 0 →
          nextWithin (s.ctx c).tx2 r.cur r.ceil = none →
          ∃ t, exec (.layerGate c q) s = .next t ∧ t.cmdIs c q y.index (fun z => z.result == some .ok) ∧ (t.ctx c).skipReq = true ∧
            (t.queue c q).state = .active ∧ r.layer ∈ (t.ctx c).heldNow ∧
            t = { s with contexts := t.contexts, mem := t.mem, lines := t.lines, plk := t.plk, out := t.out })) ∧
      (∀ y, ([0, 1, 2, 3].findSome? fun p => (s.heldEvent c p 2).map fun z => (p, z)) = some (q, y) → s.net.state = .solo →
        s.ckpPtn = none → (s.ctx c).ltabCount = 0 →
        ((s.ctx c).skipReq = false → (s.ctx c).lrRecover = 0 →
          ∃ t, exec (.stepGateRelease c) s = .next t ∧ (t.ctx c).step = (s.ctx c).step + 1 ∧ (t.ctx c).lrH = (s.ctx c).lrH ∧
            (t.ctx c).stepStatus = 0 ∧ (t.queue c q).state = .active ∧ (t.queue c q).passing = false ∧ (t.queue c q).stepGate = false ∧
            (t.queue c q).updating = true ∧ t.cmdIs c q y.index (fun z => z.result == some .ok) ∧
            t = { s with contexts := t.contexts, mem := t.mem, lines := t.lines, plk := t.plk, out := t.out }) ∧
        ((s.ctx c).skipReq = true →
          ∃ t, exec (.stepGateRelease c) s = .next t ∧ (t.ctx c).step = (s.ctx c).step + 1 ∧
            (t.ctx c).lrH = Nat.min 20 ((s.ctx c).lrH + 1) ∧ (t.queue c q).passing = true ∧ bitAt (t.ev evNum).value 1 = true))) ∧
    ((s.ctx c).state = .parked → s.waitOver c = true →
      ∃ t, exec (.parkedResume c) s = .next t ∧ (t.ctx c).state = .saved ∧ (t.ctx c).wait = .none ∧
        (∀ d, d ≠ c → t.ctx d = s.ctx d) ∧ only t)

/-- The arrays (R78 to R81, R92, R97, R104, R109): the instruction at an array's head, once its stationary rows are in a half and its
stream, its slot and its drain space stand ready, accumulates its next chunk in a slot, and keeps the slot until its run ends and its tile drains; the edge column converts a tile, writes it and frees the slot; a part's partial drains as P48 to its receiver; a combine adds the partner's partial, from a
slot of the same array, which becomes FREE, or as it has drained from another, for which it waits; and an ECC error is counted and reported, and ends the context whose command reads the
place. -/
def Obligations.ArraysWork : Prop :=
  (∀ (s : State) (a k : Nat) (ins : ArrInstr) (rest : List ArrInstr) (x : At) (y : Cmd) (half : Nat), s.flt.fatal = false → a < 4096 →
    (s.arr a).bound = ins :: rest → s.atOf ins.ctx ins.q ins.idx = some x → s.cmd ins.ctx ins.q ins.idx = some y →
    y.result = none → (s.arr a).retired = false → s.pwr.onHoldup = false →
    s.isOpen (quadDomain (a / 128)) = true → (s.ctx ins.ctx).state = .running → s.issueStatus x ins = none →
    (1 < ins.parts → ins.first = true → (s.freeSlot a).isSome = true) → s.stationary x a ins = some half →
    s.issueSlot a ins = some k → s.streamReady x = true → (State.drainsNow ins = true → s.drainSpace x a half y = true) →
    ins.waitOp = false → ins.waitSpace = false → (State.drainsNow ins = true → s.drainChan x = none) →
    State.tileCols x ≤ 256 → k < (s.arr a).slots.length →
    let sl := (s.arr a).slots.getD k AccSlot.reset
    let keep := (!ins.first || ins.add) && sl.state != .free
    let r := chunkRun (s.ctx ins.ctx).tx2 (matForm x).scale (if keep then sl.tag else 0) (State.tileCols x)
      (fun i n => if keep then s.slotElem a k i n else Machine.Num.zero) (fun i n => s.chunkPairs x a ins half i n)
    let held : State → Prop := fun t =>
      (∀ i n, i < 16 → n < State.tileCols x → t.mem.readAll (accKey a k ((256 * i + n) * 6)) 6 =
        p48Bytes ((r.rows.getD i []).getD n Machine.Num.zero)) ∧
      (∀ b, b < accKey a k 0 ∨ accKey a (k + 1) 0 ≤ b → b < rowKey a 0 0 ∨ rowKey a 2 0 ≤ b → t.mem.read b = s.mem.read b) ∧
      ((t.arr a).slots.getD k AccSlot.reset).tag = r.tag ∧ ((t.arr a).slots.getD k AccSlot.reset).owner = ins.ctx ∧
      (∀ b, b ≠ a → t.arr b = s.arr b) ∧
      t = { s with arrays := t.arrays, mem := t.mem, contexts := t.contexts, quads := t.quads, events := t.events, plk := t.plk, out := t.out }
    (ins.lo + 1 < ins.hi →
      ∃ t, exec (.arrayIssue a) s = .next t ∧ ((t.arr a).bound.any fun b => b.lo == ins.lo + 1 && b.slot == some k && !b.first &&
        b.tile == ins.tile && b.part == ins.part) = true ∧ ((t.arr a).slots.getD k AccSlot.reset).state = .held ∧ held t) ∧
    (ins.hi ≤ ins.lo + 1 → ins.parts = 1 → ins.part = 0 → ins.drain = true →
      ∃ t, exec (.arrayIssue a) s = .next t ∧ ((t.arr a).slots.getD k AccSlot.reset).state = .draining ∧
        ((t.arr a).drains.any fun d => d.tile == ins.tile && d.slot == k && d.ctx == ins.ctx && d.half == s.drainHalf x half) = true ∧
        (∀ b, b < accKey a k 0 ∨ accKey a (k + 1) 0 ≤ b → t.mem.read b = s.mem.read b) ∧ held t)) ∧
  (∀ (s : State) (a n : Nat) (d : Drain) (rest : List Drain) (x : At) (y : Cmd) (oa ob od : Desc), s.flt.fatal = false →
    (s.arr a).drains = d :: rest → s.atOf d.ctx d.q d.idx = some x → s.cmd d.ctx d.q d.idx = some y → x.f 5 0 = 1 → d.tile = 0 →
    s.opd x 16 [0, 1] = some oa → s.opd x 25 [0] = some ob → oa.rows = 1 → ob.cols = 1 → s.opd x 34 [0, 1, 2] = some od →
    s.opd x 34 [2] = none → s.opd x 43 [0] = none → od.kind = 0 → (matForm x).fd = 13 → x.b 8 = false → (matForm x).rmode ≠ 2 →
    d.part = none → s.drainFenced x a = none → d.slot < (s.arr a).slots.length → y.result = none → y.left ≤ 1 → d.ovf = false → y.tflags = 0 →
    parseAddr od.addr = .scr false (arrDie a) n →
    s.lies (s.ctx d.ctx).ptn (arrDie a) od.addr 4 (scrKey (s.ctx d.ctx).ptn (arrDie a) n) →
    ∃ t, exec (.arrayDrainEnd a) s = .next t ∧
      s.stores t (scrKey (s.ctx d.ctx).ptn (arrDie a) n) (leBytes 4
        (convertTo 13 (rndOf false (matForm x).rmode (s.ctx x.c).tx2 0) (matForm x).sat (matForm x).eadj (s.ctx x.c).tx2
          (s.slotValue a d.slot 0 0)).1) ∧
      ((t.arr a).slots.getD d.slot AccSlot.reset).state = .free ∧ d ∉ (t.arr a).drains ∧ (∀ b, b ≠ a → t.arr b = s.arr b) ∧
      t.cmdIs d.ctx d.q d.idx (fun z => z.result == some .ok && z.left == y.left - 1) ∧
      t = { s with arrays := t.arrays, mem := t.mem, contexts := t.contexts }) ∧
  (∀ (s : State) (a p lv : Nat) (d : Drain) (rest : List Drain) (x : At) (y : Cmd), s.flt.fatal = false → (s.arr a).drains = d :: rest →
    s.atOf d.ctx d.q d.idx = some x → s.cmd d.ctx d.q d.idx = some y → y.result = none → d.part = some p →
    y.partials = [(d.tile, p, a, d.slot, lv)] → y.spilled = [] → d.slot < (s.arr a).slots.length →
    s.isOpen (sramDomain (arrDie (s.receiver x d.ctx d.q d.tile p))) = true →
    ∃ t, exec (.arrayDrainEnd a) s = .next t ∧ d ∉ (t.arr a).drains ∧ (t.arr a).slots.getD d.slot AccSlot.reset = AccSlot.reset ∧
      t.cmdIs d.ctx d.q d.idx (fun z => z.partials.isEmpty && z.spilled == [(d.tile, p, lv, ((s.arr a).slots.getD d.slot AccSlot.reset).tag,
        (List.range 16).flatMap fun i => (List.range (State.tileCols x)).flatMap fun n => p48Bytes (s.slotElem a d.slot i n))]) ∧
      (∀ b, b ≠ a → t.arr b = s.arr b) ∧ t = { s with arrays := t.arrays, contexts := t.contexts }) ∧
  (∀ (s : State) (c q : Nat) (idx : Word) (y : Cmd) (tile a k : Nat), s.flt.fatal = false → s.cmd c q idx = some y →
    y.result = none → (matForm (State.atCmd c q y)).split = 2 → (s.ctx c).tx2 = false → (s.ctx c).state = .running →
    s.isOpen (quadDomain (a / 128)) = true → (s.arr a).drains = [] → k < (s.arr a).slots.length →
    State.tileCols (State.atCmd c q y) ≤ 256 →
    let cols := State.tileCols (State.atCmd c q y)
    let here := (dealt (s.cmdArrays c q) (tile * 2)).1
    let sum := fun tag part => combineRun false ((s.arr a).slots.getD k AccSlot.reset).tag tag cols (s.slotElem a k) part
    let whole : State → TileRun → Prop := fun t r =>
      (∀ i n, i < 16 → n < cols → t.mem.readAll (accKey a k ((256 * i + n) * 6)) 6 = p48Bytes ((r.rows.getD i []).getD n Machine.Num.zero)) ∧
      (∀ u, u < accKey a k 0 ∨ accKey a (k + 1) 0 ≤ u → t.mem.read u = s.mem.read u) ∧
      ((t.arr a).slots.getD k AccSlot.reset).tag = r.tag ∧ ((t.arr a).slots.getD k AccSlot.reset).state = .draining ∧
      ((t.arr a).drains.any fun d => d.ctx == c && d.tile == tile && d.slot == k && d.part == none) = true ∧
      t.cmdIs c q idx (fun z => z.partials.isEmpty && z.spilled.isEmpty) ∧ (∀ u, u ≠ a → t.arr u = s.arr u) ∧
      t = { s with arrays := t.arrays, mem := t.mem, contexts := t.contexts, quads := t.quads, events := t.events, plk := t.plk, out := t.out }
    (∀ tag data, y.partials = [(tile, 0, a, k, 0)] → y.spilled = [(tile, 1, 0, tag, data)] → s.isOpen (sramDomain (arrDie here)) = true →
      ∃ t, exec (.combine c q idx tile 0) s = .next t ∧ whole t (sum tag fun i n => p48Of (slice data (6 * (cols * i + n)) 6))) ∧
    (∀ m, y.partials = [(tile, 0, a, k, 0), (tile, 1, a, m, 0)] → y.spilled = [] → here = a → m ≠ k → m < (s.arr a).slots.length →
      ∃ t, exec (.combine c q idx tile 0) s = .next t ∧ (t.arr a).slots.getD m AccSlot.reset = AccSlot.reset ∧
        whole t (sum ((s.arr a).slots.getD m AccSlot.reset).tag (s.slotElem a m))) ∧
    (∀ b m, y.partials = [(tile, 0, a, k, 0), (tile, 1, b, m, 0)] → here ≠ b → exec (.combine c q idx tile 0) s = .next s)) ∧
  ∀ (s : State) (a : Nat) (p : EccPlace), s.flt.fatal = false →
    (∃ t, exec (.arrayEccError a p true) s = .next t ∧ (t.arr a).ceFlag = true ∧
      (t.quad (a / 128)).ce = satAdd 32 (s.quad (a / 128)).ce 1 ∧ bitAt (t.ev (evArr (a / 128))).value 2 = true ∧
      t = { s with arrays := t.arrays, quads := t.quads, events := t.events, plk := t.plk, out := t.out }) ∧
    (s.flt.arrUe = 0 → s.eccReader a p = none →
      ∃ t, exec (.arrayEccError a p false) s = .next t ∧ (t.arr a).ueFlag = true ∧ (t.arr a).ueCount = (s.arr a).ueCount + 1 ∧
        (t.quad (a / 128)).ue = satAdd 16 (s.quad (a / 128)).ue 1 ∧ bitAt (t.ev (evArr (a / 128))).value 3 = true ∧
        t = { s with arrays := t.arrays, quads := t.quads, events := t.events, plk := t.plk, out := t.out }) ∧
    (∀ c q idx, s.flt.arrUe = 0 → s.eccReader a p = some (c, q, idx) → (s.ctx c).state = .running →
      ∃ t, exec (.arrayEccError a p false) s = .next t ∧ (t.ctx c).state = .teardown ∧
        (t.flt.records.any fun r => r.ident == s.flt.nextId && r.kind == 2 && r.context == s.ctxHandle c) = true ∧
        bitAt (t.ev (evArr (a / 128))).value 3 = true)

/-- HBM and the arbiters (R179 to R190, R204, R206): the copier fills its reserve frame and clears WP; an attribute request sets
or clears bits on its pages, or replaces the share list, and says how it went; a corrected error is only counted; an uncorrectable one is counted, poisons the
frame and may retire the pseudo-channel, and one of the copier's poisons the reserve frame; a command repeated twice on parity
is a hang; an idle pseudo-channel powers down; and a starved requester is recorded. Rests on log entries 95 and 142. -/
def Obligations.HbmWorks : Prop :=
  ∀ s : State, s.flt.fatal = false →
    let quiet : State → State → Prop := fun u t => t = { u with events := t.events, plk := t.plk, out := t.out }
    (∀ f r, (s.ckp.copying.find? fun c => c.1 == f) = some (f, r) → s.ckp.held = [] → r ≠ f → s.memWf →
      ∃ t, exec (.cowCopyDone f) s = .next t ∧
        (∀ o, o < 65536 → t.mem.read (hbmKey r 0 + o) = s.mem.read (hbmKey f 0 + o)) ∧
        (∀ a, a < hbmKey r 0 ∨ hbmKey r 0 + 65536 ≤ a → t.mem.read a = s.mem.read a) ∧ bitAt (t.attr f) 2 = false ∧
        (∀ g, g ≠ f → t.attr g = s.attr g) ∧ bitAt (t.ev (evHbm (f / framesPerPc / 32))).value 2 = true ∧
        (s.copyNeeded f = true → (f, r) ∈ t.ckp.copyMap) ∧ (s.copyNeeded f = false → t.ckp.copyMap = s.ckp.copyMap) ∧ quiet { s with mem := t.mem, ckp := t.ckp, attrs := t.attrs } t) ∧
    (∀ a h i p n first, a % 32 = 0 → parseAddr a = .host h → s.linkUp = true → s.requestOk a 32 = true → le (s.fwRead a 32) 0 4 = 1 →
      s.ptnOf (le (s.fwRead a 32) 4 4) = some i → tget s.ptns i = some p → clearAt (s.fwRead a 32) [(0xA, 2), (0x19, 3)] = true →
      le (s.fwRead a 32) 0x10 4 = first → le (s.fwRead a 32) 0x14 4 = n →
      (le (s.fwRead a 32) 8 1 < 2 → le (s.fwRead a 32) 9 1 &&& 0b11011100 = 0 → le (s.fwRead a 32) 0xC 4 = 0 → 0 < n → first + n ≤ p.pages →
        (∀ g, g ∈ p.pcList → s.isOpen (sramDomain (g / 64)) = true) →
        ∃ t, exec (.attrRequest a) s = .next t ∧
          (∀ v f, v < n → s.pageFrame i (first + v) = some f → t.attr f =
            if le (s.fwRead a 32) 8 1 = 0 then s.attr f ||| le (s.fwRead a 32) 9 1 else s.attr f - (s.attr f &&& le (s.fwRead a 32) 9 1)) ∧
          (t.mem.read (hostKey (h + 0x18))).toNat = Status.ok.code ∧ (t.mem.read (hostKey (h + 0x1C))).toNat = n % 256 ∧
          t = { s with attrs := t.attrs, mem := t.mem, plk := t.plk, out := t.out }) ∧
      (le (s.fwRead a 32) 8 1 = 2 → le (s.fwRead a 32) 9 1 = 0 → first = 0 → n = 0 →
        ∃ t, exec (.attrRequest a) s = .next t ∧ tget t.ptns i = some { p with shares := le (s.fwRead a 32) 0xC 4 } ∧
          (∀ j, j ≠ i → tget t.ptns j = tget s.ptns j) ∧ (t.mem.read (hostKey (h + 0x18))).toNat = Status.ok.code ∧
          t = { s with ptns := t.ptns, mem := t.mem, plk := t.plk, out := t.out })) ∧
    (∀ f line src, let g := f / framesPerPc
      let k := g / 32
      let counted : State → Prop := fun t => (t.pc g).ue = (s.pc g).ue + 1 ∧ (t.stack k).ue = satAdd 16 (s.stack k).ue 1 ∧
        bitAt (t.ev (evHbm k)).value 1 = true ∧
        ((s.stack k).retireAt ≠ 0 → (s.stack k).retireAt ≤ (s.pc g).ue + 1 → bitAt (t.stack k).retired (g % 32) = true)
      (src = .fill ∨ src = .scrub →
        ∃ t, exec (.hbmEccUe f line src) s = .next t ∧ bitAt (t.attr f) 6 = true ∧ (∀ e, e ≠ f → t.attr e = s.attr e) ∧ counted t ∧
          quiet { s with attrs := t.attrs, pcs := t.pcs, hbm := t.hbm } t) ∧
      (∀ r, src = .copier → (s.ckp.copying.find? fun c => c.1 == f) = some (f, r) → s.ckptRuns = true → s.ckpPtn = none →
        ∃ t, exec (.hbmEccUe f line src) s = .next t ∧ bitAt (t.attr r) 6 = true ∧ t.ckp.state = .failed ∧
          bitAt (t.ev evCkp).value 2 = true ∧ counted t) ∧
      (src = .corrected →
        ∃ t, exec (.hbmEccUe f line src) s = .next t ∧ (t.stack k).ce = satAdd 32 (s.stack k).ce 1 ∧
          bitAt (t.ev (evHbm k)).value 0 = true ∧ quiet { s with hbm := t.hbm } t)) ∧
    (∀ g, s.variant.stack (g / 32) = true →
      (s.isOpen (stackDomain (g / 32)) = true → (s.pc g).parity = false →
        ∃ t, exec (.hbmParityError g) s = .next t ∧ t = s.setPc g { s.pc g with parity := true }) ∧
      (s.isOpen (stackDomain (g / 32)) = true → (s.pc g).parity = true → s.variant.domain (stackDomain (g / 32)) = true →
        ∃ t, exec (.hbmParityError g) s = .next t ∧ (t.dom (stackDomain (g / 32))).state = .fenced ∧ (t.pc g).parity = false ∧
          bitAt (t.ev evFlt).value 0 = true) ∧
      (∃ t, exec (.pcPowerDown g) s = .next t ∧ (t.pc g).powerDown = true ∧ (∀ e, e ≠ g → t.pc e = s.pc e) ∧
        t = { s with pcs := t.pcs })) ∧
    (∀ site req holder, ∃ t, exec (.arbStarvation site req holder) s = .next t ∧
      quiet { s with hbm := t.hbm, sel := t.sel } t ∧
      (∀ p, site = .hbm p → bitAt (t.stack (p / 32)).starve 15 = true ∧ bitAt (t.ev (evHbm (p / 32))).value 4 = true ∧
        (bitAt (s.stack (p / 32)).starve 15 = true → t.hbm = s.hbm)) ∧
      (∀ e, site = .dma e → bitAt t.sel.dmaStarve 15 = true ∧ bitAt (t.ev evDma).value 0 = true ∧
        (bitAt s.sel.dmaStarve 15 = true → t.sel = s.sel)) ∧
      (∀ n w, site = .sorus n w → bitAt t.sel.ptnStarve 19 = true ∧ bitAt (t.ev evPtn).value 5 = true ∧
        (bitAt s.sel.ptnStarve 19 = true → t.sel = s.sel)) ∧
      (∀ l h e, site = .rz l h e → bitAt t.sel.ptnStarve 19 = true ∧ bitAt (t.ev evPtn).value 6 = true ∧
        (bitAt s.sel.ptnStarve 19 = true → t.sel = s.sel)))

/-- Jobs and channels (R18 to R25, R35, R432): an accepted open makes the job, or the channel with its slots FREE, and names it;
one that does not fit is refused and changes nothing; a close in DISCARD mode ends at once, one in DRAIN mode waits for its
full blocks until the wait limit. Rests on log entry 107. -/
def Obligations.JobsAndChannelsOpenAndClose : Prop :=
  ∀ (s : State) (a h : Nat), s.flt.fatal = false → s.linkUp = true →
    let l := s.fwRead a 64
    let answers : State → Status → Prop := fun t st => (t.mem.read (hostKey (h + 0x20))).toNat = st.code
    let refused : State → Status → Prop := fun t st => answers t st ∧ bitAt (t.ev evSor).value 3 = true ∧
      t = { s with mem := t.mem, events := t.events, plk := t.plk, out := t.out }
    (a % 64 = 0 → parseAddr a = .host h → s.requestOk a 64 = true → le l 0 4 = 1 →
      (∀ tp sp tc sc, s.ptnOf (le l 4 4) = some tp → s.ptnOf (le l 8 4) = some sp → s.ctxOf (le l 12 4) = some tc →
        s.ctxOf (le l 16 4) = some sc → clearAt l [(0x16, 2), (0x1B, 1), (0x30, 16)] = true → 1 ≤ le l 0x14 2 → le l 0x14 2 ≤ 1024 →
        tp ≠ sp → (s.ctx tc).ptn = tp → (s.ctx sc).ptn = sp →
        (∀ j hs, s.jobHandles.take 16 = some (j, hs) →
          ∃ t, exec (.jobOpen a) s = .next t ∧ answers t .ok ∧ (t.mem.read (hostKey (h + 0x24))).toNat = j % 256 ∧
            tget t.jobs j = some { teacher := tp, student := sp, teacherCtx := tc, studentCtx := sc, tokens := le l 0x14 2,
                                   vocab := le l 0x18 3, tensorBase := le l 0x1C 4, closing := none, failed := false,
                                   former := [], formerStudents := [] } ∧
            (∀ i, i ≠ j → tget t.jobs i = tget s.jobs i) ∧
            t = { s with jobs := t.jobs, jobHandles := hs, mem := t.mem, plk := t.plk, out := t.out }) ∧
        (s.jobHandles.take 16 = none → ∃ t, exec (.jobOpen a) s = .next t ∧ refused t .refusedCapacity)) ∧
      (∀ j x, le l 4 4 = j → j < 16 → clearAt l [(8, 8), (0x10, 16), (0x30, 16)] = true → tget s.jobs j = some x → x.closing = none →
        (s.channels.all fun p => p.2.job != j) = true →
        ∃ t, exec (.jobClose a) s = .next t ∧ answers t .ok ∧ tget t.jobs j = none ∧ (∀ i, i ≠ j → tget t.jobs i = tget s.jobs i) ∧
          t = { s with jobs := t.jobs, jobHandles := s.jobHandles.free j, mem := t.mem, plk := t.plk, out := t.out }) ∧
      (∀ j, tget s.jobs (le l 4 1 % 16) = some j → j.closing = none →
        let die := s.placementOf l j
        let per := slotGranules (le l 5 1 == 1) j.tokens (le l 0xA 2)
        let grant := State.grantSlots (s.sorusFree j.student die) per (le l 6 1) (bitAt (le l 7 1) 0)
        s.variant.group die = true → s.isOpen (sramDomain die) = true → State.chanRange l = false → le l 5 1 = 1 ∨ le l 0xA 2 < j.vocab →
        (s.channels.filter fun p => p.2.job == le l 4 1 % 16).length < 64 →
        (∀ n i hs, grant = some n → s.chanHandles.take 1024 = some (i, hs) →
          ∃ t, exec (.channelOpen a) s = .next t ∧ answers t .ok ∧
            ((tget t.channels i).any fun ch => ch.state == .opened && ch.slots == List.replicate n SorSlot.reset && ch.placement == die &&
              ch.job == le l 4 1 % 16 && ch.width == le l 0xA 2 && ch.nextSeq == 0 && ch.granules == per) = true ∧
            (∀ k, k ≠ i → tget t.channels k = tget s.channels k) ∧
            t = { s with channels := t.channels, chanHandles := hs, mem := t.mem, plk := t.plk, out := t.out }) ∧
        (grant = none → ∃ t, exec (.channelOpen a) s = .next t ∧ refused t .refusedCapacity)) ∧
      (∀ i ch, s.chanOf (le l 0xC 4) = some i → tget s.channels i = some ch → ch.job = le l 4 1 → le l 4 1 < 16 → le l 7 1 ≤ 1 →
        clearAt l [(5, 2), (8, 4), (0x10, 16), (0x30, 16)] = true → ch.closing = none → ch.state = .opened →
        ((tget s.jobs ch.job).all fun j => j.closing.isNone && !j.failed) = true →
        (le l 7 1 = 1 → ch.count .consuming = 0 →
          ∃ t, exec (.channelClose a) s = .next t ∧ tget t.channels i = none ∧ answers t .ok ∧
            (∀ k, k ≠ i → tget t.channels k = tget s.channels k) ∧
            t = { s with channels := t.channels, chanHandles := s.chanHandles.free i, mem := t.mem, plk := t.plk, out := t.out }) ∧
        (le l 7 1 = 0 → 0 < ch.count .full →
          ∃ t, exec (.channelClose a) s = .next t ∧
            tget t.channels i = some { ch with state := .closing, drain := true, closing := some a } ∧
            (∀ k, k ≠ i → tget t.channels k = tget s.channels k) ∧ t = { s with channels := t.channels }))) ∧
    (∀ i ch, tget s.channels i = some ch → ch.state = .closing → ch.drain = true → ((tget s.jobs ch.job).all fun j => j.closing.isNone && !j.failed) = true →
      (ch.count .consuming = 0 → ch.closing = some a → parseAddr a = .host h → a % 64 = 0 →
        ∃ t, exec (.closeWaitLimit i) s = .next t ∧ tget t.channels i = none ∧ answers t .ok ∧
          (∀ k, k ≠ i → tget t.channels k = tget s.channels k) ∧
          t = { s with channels := t.channels, chanHandles := s.chanHandles.free i, mem := t.mem, plk := t.plk, out := t.out }) ∧
      (0 < ch.count .consuming →
        ∃ t, exec (.closeWaitLimit i) s = .next t ∧
          ((tget t.channels i).any fun c => c.state == .closing && !c.drain && c.slots.all fun x =>
            x.state == .free || (x.state == .consuming && x.discard)) = true ∧ t = { s with channels := t.channels }))

/-- Ingest (R208 to R229): an accepted open makes a running stream; a close frees its handle, a pause and a resume change its
state; the next position's clip takes its reservation and is read; its bytes, complete and of the right CRC, are decoded by a
free engine, and bytes that fail are read again from the other server or, where they have been missing longest and too long, skipped and logged; a decoded
clip's tokens go into blocks, each written to its ring slot before the consumers' fill counters rise. Rests on log entries 71,
74 and 139. -/
def Obligations.IngestStreamsWork : Prop :=
  ∀ s : State, s.flt.fatal = false → s.isOpen 72 = true →
    (∀ a h : Nat, a % 128 = 0 → parseAddr a = .host h → s.linkUp = true → s.requestOk a 128 = true → s.variant.media 0 = true →
      let l := s.fwRead a 128
      let answers : State → Status → Prop := fun t st => (t.mem.read (hostKey (h + 0x70))).toNat = st.code
      le l 0 4 = 1 →
      (∀ x p c i hs, let ring := le l 0x12 1 * (roundUp (le l 0x14 2 * ((Shape.ofBytes l).pitch + 8) + 64) 65536 / 65536)
        s.ptnOf (le l 4 4) = some p → s.ctxOf (le l 8 4) = some c → (s.ctx c).ptn = p → le l 0xC 4 = 0 →
        s.streamHandles.take 16 = some (i, hs) → s.badStream l = false → (Shape.ofBytes l).perFrame ≤ 4096 →
        (Shape.ofBytes l).maxFrames * (Shape.ofBytes l).perFrame ≤ 65536 → s.inSpace p (le l 0x20 8) ring = true →
        s.inSpace p (le l 0x28 8) (le l 0x30 4) = true → State.indexOk x = true → fld (le l 0x38 8) 55 16 < le x 8 8 →
        ∃ t, exec (.streamOpen a (some x)) s = .next t ∧ answers t .ok ∧
          ((tget t.streams i).any fun st => st.state == .running && st.desc == l && st.clips == le x 8 8 && st.window.isEmpty &&
            st.nextSeq == 0) = true ∧ (∀ j, j ≠ i → tget t.streams j = tget s.streams j) ∧
          t = { s with streams := t.streams, streamHandles := hs, mem := t.mem, plk := t.plk, out := t.out }) ∧
      (s.streamHandles.take 16 = none → s.ptnOf (le l 4 4) ≠ none → s.ctxOf (le l 8 4) ≠ none → le l 0xC 4 = 0 →
        ∃ t, exec (.streamOpen a none) s = .next t ∧ answers t .refusedCapacity ∧ t = { s with mem := t.mem, plk := t.plk, out := t.out }) ∧
      (∀ i st, s.streamOf (le l 4 4) = some i → tget s.streams i = some st →
        (∃ t, exec (.streamClose a) s = .next t ∧ answers t .ok ∧ tget t.streams i = none ∧
          (∀ j, j ≠ i → tget t.streams j = tget s.streams j) ∧ ((t.engines.all fun e => !(e.2.busy && e.2.stream == i)) = true) ∧
          t = { s with streams := t.streams, streamHandles := s.streamHandles.free i, engines := t.engines, mem := t.mem,
                       plk := t.plk, out := t.out }) ∧
        (st.state = .running ∨ st.state = .stalled →
          ∃ t, exec (.streamPause a) s = .next t ∧ answers t .ok ∧ tget t.streams i = some { st with state := .paused } ∧
            (∀ j, j ≠ i → tget t.streams j = tget s.streams j) ∧
            t = { s with streams := t.streams, mem := t.mem, plk := t.plk, out := t.out }) ∧
        (st.state = .paused →
          ∃ t, exec (.streamResume a) s = .next t ∧ answers t .ok ∧
            (tget t.streams i = some { st with state := if st.replay && st.missing then .stalled else .running }) ∧
            (∀ j, j ≠ i → tget t.streams j = tget s.streams j) ∧
            (st.replay = true → st.missing = true → bitAt (t.ev evMed).value 1 = true) ∧
            t = { s with streams := t.streams, events := t.events, mem := t.mem, plk := t.plk, out := t.out }))) ∧
    (∀ i st, tget s.streams i = some st →
      (∀ e, st.state = .running ∨ st.state = .stalled → st.fetched = false → st.fetchPos < st.clips →
        ((s.ptnOf (st.d 4 4)).bind fun p => tget s.ptns p).any (·.restriping) = false → s.skipListed st st.fetchPos st.fetchEpoch = false →
        let bytes := le e 8 4 + st.shape.maxFrames * st.shape.perFrame * st.shape.pitch
        let asked := State.entryAsk i st (clipAt st.fetchPos st.clips (s.ctx ((s.ctxOf (st.d 8 4)).getD 0)).seed.toNat st.fetchEpoch)
        (entryExcluded e st.servers = true →
          ∃ t, exec (.clipFetch i e) s = .next t ∧ tget t.streams i = some st.advance ∧ asked ∈ t.netOut ∧
            t = { s with streams := t.streams, netOut := t.netOut, netHeld := t.netHeld }) ∧
        (entryExcluded e st.servers = false → (st.window.map (·.bytes)).sum + bytes ≤ st.d 0x30 4 * 65536 →
          ∃ t, exec (.clipFetch i e) s = .next t ∧ asked ∈ t.netOut ∧
            ((tget t.streams i).any fun u => u.window.length == st.window.length + 1 && u.fetchPos == st.advance.fetchPos &&
              (u.window.getLast?.any fun c => c.position == st.fetchPos && c.epoch == st.fetchEpoch && c.bytes == bytes &&
                c.state == .reading && c.entry == e)) = true ∧
            (∀ j, j ≠ i → tget t.streams j = tget s.streams j) ∧
            t = { s with streams := t.streams, netOut := t.netOut, netHeld := t.netHeld, mem := t.mem, free := t.free })) ∧
      (∀ c rest chunk data, st.window = c :: rest → c.state = .reading → chunk ∈ c.chunks →
        (∀ r, r ≠ 0 →
          ∃ t, exec (.rdmaReadComplete i c.place chunk r data) s = .next t ∧
            ((tget t.streams i).any fun u => u.rereads == satAdd 16 st.rereads 1 && (u.window.head?.any fun d =>
              d.attempts == satAdd 16 c.attempts 1 && d.data.isEmpty && d.reason == r && d.state == .reading &&
                d.replica == if c.e 0x11 1 = 0xFF then c.replica else !c.replica)) = true) ∧
        (c.total st = 1 → chunk = 0 → c.data = [] → crc32c (slice (slice data 0 (Nat.min st.chunkBytes (c.e 8 4))) 0 (c.e 8 4)) = c.e 0x14 4 →
          ∃ t, exec (.rdmaReadComplete i c.place chunk 0 data) s = .next t ∧
            ((tget t.streams i).any fun u => u.window.head?.any fun d => d.state == .complete && d.position == c.position) = true ∧
            t = { s with streams := t.streams, netOut := t.netOut, netHeld := t.netHeld, net := { s.net with qps := t.net.qps },
                         ports := t.ports, free := t.free })) ∧
      (∀ c a, c ∈ st.window → 1 < c.attempts → c.state = .reading → c.since = some a →
        (∀ d ∈ st.window, d ≠ c → 1 < d.attempts → d.state = .reading → ∃ b, d.since = some b ∧ 0 < (b - a).toInt) → st.replay = false →
        (st.skipTail - st.skipHead).toNat < st.d 0x68 4 → s.ckpPtn = none →
        ∃ t, exec (.clipMissingLimit i) s = .next t ∧
          ((tget t.streams i).any fun u => u.skipTail == st.skipTail + 1 && u.skipped == satAdd 24 st.skipped 1 &&
            u.window.all fun d => !(d.position == c.position && d.epoch == c.epoch)) = true ∧ bitAt (t.ev evMed).value 0 = true ∧
          t = { s with streams := t.streams, netOut := t.netOut, netHeld := t.netHeld, events := t.events, mem := t.mem, lines := t.lines,
                       plk := t.plk, out := t.out }) ∧
      (∀ c rest e, st.window = c :: rest → c.state = .complete → s.variant.engine e = true → (s.engine e).busy = false →
        (s.engine e).borrowed = false → s.isOpen (State.targetDomain 3 e) = true →
        ∃ t, exec (.clipDecodeStart i e) s = .next t ∧ (t.engine e).busy = true ∧ (t.engine e).stream = i ∧
          (t.engine e).position = c.position ∧ ((tget t.streams i).any fun u => u.window.head?.any fun d => d.state == .decoding) = true ∧
          (∀ f, f ≠ e → t.engine f = s.engine f) ∧ t = { s with streams := t.streams, engines := t.engines }) ∧
      (∀ c rest e, st.window = c :: rest → c.state = .decoding → (s.engine e).busy = true → s.isOpen (State.targetDomain 3 e) = true →
        (s.engine e).stream = i → (s.engine e).position = c.position → (s.engine e).epoch = c.epoch →
        ∃ t, exec (.clipDecodeEnd e) s = .next t ∧ (t.engine e).busy = false ∧ (∀ f, f ≠ e → t.engine f = s.engine f) ∧
          ((tget t.streams i).any fun u => u.window == rest || u.window.head?.any fun d => d.state == .decoded && d.position == c.position) = true ∧
          t = { s with streams := t.streams, engines := t.engines, events := t.events, plk := t.plk, out := t.out }) ∧
      (∀ toks ends c k, st.uncounted = none → st.state = .running → State.streamOver st = false → State.nextBlock st = some (toks, ends) →
        st.d 0xC 4 = 0 → s.ctxOf (st.d 8 4) = some c → s.attrs = [] → s.ckp.held = [] → s.plk.writes = [] → s.plk.reads = [] →
        let ptn := (s.ptnOf (st.d 4 4)).getD 0
        let n := fld (st.d 0x10 1) 5 3
        let a := st.d 0x20 8 + st.nextSeq.toNat % st.d 0x12 1 * st.slotBytes
        let img := State.slotImage st toks ends
        (tget s.ptns ptn).any (·.restriping) = false →
        0 ≤ ((s.ctx c).sync.getD n 0 - (st.nextSeq - BitVec.ofNat 32 (st.d 0x12 1) + 1)).toInt → a < 2 ^ 62 →
        s.accessOk ptn 0 a img.length true false = true → s.accessFenced 0 a img.length = none → k + img.length ≤ 2 ^ 60 →
        img.length ≤ 65536 - k % 65536 → s.lies ptn 0 a img.length k →
        ∃ t, exec (.blockWrite i) s = .next t ∧ s.stores t k img ∧
          ((tget t.streams i).any fun u => u.nextSeq == st.nextSeq + 1 && u.uncounted == none) = true ∧
          (∀ m v, (s.ctx c).sync[m]? = some v →
            (t.ctx c).sync[m]? = some (if m = fld (st.d 0x10 1) 2 0 then v + 1 else v)) ∧
          t = { s with streams := t.streams, contexts := t.contexts, mem := t.mem, lines := t.lines }))

/-- Layouts, the hot set and tests (R232 to R237, R249, R252, R255 to R257, R371): a batch is accepted whole, refused whole or
told to come back, and changes no partition before its contexts have left; then partitions appear, zeroed, and disappear; the
copy of a re-stripe ends with the partition on its new pseudo-channels; hot-set entries are placed and evicted; a test waits
in its controller's queue, borrows its target at a free moment or is refused, and gives it back when its procedure or its
window ends. Rests on log entries 31, 32 and 33. -/
def Obligations.LayoutsHotSetAndTestsWork : Prop :=
  (∀ (s : State) (a h n : Nat), s.flt.fatal = false → s.linkUp = true → parseAddr a = .host h → a % 64 = 0 →
    s.requestOk a 64 = true → le (s.fwRead a 64) 0 4 = 1 → le (s.fwRead a 64) 4 1 = n → 1 ≤ n → n ≤ 32 →
    clearAt (s.fwRead a 64) [(5, 3), (0x10, 48)] = true → s.requestOk a (64 + 256 * n) = true →
    let ds := (List.range n).map fun i => PtnDesc.ofBytes (s.fwRead (a + 0x40 + 256 * i) 256)
    let refused : State → Status → Prop := fun t st => (t.mem.read (hostKey (h + 8))).toNat = st.code ∧
      bitAt (t.ev evPtn).value 1 = true ∧ t = { s with mem := t.mem, events := t.events, plk := t.plk, out := t.out }
    (s.layoutRuns = false → (s.batchCauses ds).all (·.isNone) = true →
      ∃ t, exec (.layoutBatch a) s = .next t ∧ (t.batch.any fun b => b.addr == a && b.start == s.supTime && !b.applied &&
        b.items.length == (s.planBatch ds).index.length) = true ∧ t.ptns = s.ptns ∧ t.ptnHandles = s.ptnHandles ∧
        t.hotset = s.hotset ∧ t.attrs = s.attrs) ∧
    (∀ st d, s.layoutRuns = false → ptnRefusal ((s.batchCauses ds).filterMap fun r => r.map fun x => (true, x.1, x.2)) = some (st, d) →
      ∃ t, exec (.layoutBatch a) s = .next t ∧ refused t st) ∧
    (s.layoutRuns = true → (ds.all fun d => (s.earlyCause d).isNone) = true →
      ∃ t, exec (.layoutBatch a) s = .next t ∧ refused t .retryLater) ∧
    (∀ st d, s.layoutRuns = true → ptnRefusal ((ds.map s.earlyCause).filterMap fun r => r.map fun x => (true, x.1, x.2)) = some (st, d) →
      ∃ t, exec (.layoutBatch a) s = .next t ∧ refused t st)) ∧
  (∀ (s : State) (a h p : Nat) (b : Batch) (it : BatchItem) (hs : HandleTable), s.flt.fatal = false → s.linkUp = true →
    parseAddr a = .host h → a % 64 = 0 → s.batch = some b → b.addr = a → b.applied = false → b.items = [it] → it.restripe = false →
    s.batchReady b = true → it.op = 0 → s.ptnHandles.take 32 = some (p, hs) → tget s.ptns it.ptn = none → p < 32 →
    ∃ t, exec .layoutBatchComplete s = .next t ∧ t.batch = none ∧ tget t.ptns p = some it.part ∧
      (∀ q, q ≠ p → tget t.ptns q = tget s.ptns q) ∧
      (∀ n o, n < 8 → o < 65536 * it.part.scratch.getD n 0 → o < 2 ^ 27 → t.mem.read (scrKey p n o) = 0) ∧
      (t.mem.read (hostKey (h + 8))).toNat = Status.ok.code ∧ bitAt (t.ev evPtn).value 0 = true ∧
      t = { s with batch := none, ptns := t.ptns, ptnHandles := hs, mem := t.mem, lines := t.lines, events := t.events, plk := t.plk,
                   out := t.out }) ∧
  (∀ (s : State) (a h : Nat) (b : Batch) (it : BatchItem), s.flt.fatal = false → s.linkUp = true →
    parseAddr a = .host h → a % 64 = 0 → s.batch = some b → b.addr = a → b.applied = false → b.items = [it] → it.restripe = false →
    s.batchReady b = true → it.op = 2 → (tget s.ptns it.ptn).isSome = true →
    ∃ t, exec .layoutBatchComplete s = .next t ∧ t.batch = none ∧ tget t.ptns it.ptn = none ∧
      (∀ q, q ≠ it.ptn → tget t.ptns q = tget s.ptns q) ∧ t.ptnHandles = s.ptnHandles.free it.ptn ∧
      (t.mem.read (hostKey (h + 8))).toNat = Status.ok.code ∧ bitAt (t.ev evPtn).value 0 = true) ∧
  (∀ (s : State) (b : Batch) (it : BatchItem) (p : Nat) (x : Partition), s.flt.fatal = false → s.batch = some b →
    b.applied = true → b.items = [it] → it.restripe = true → it.ptn = p → b.copied = [] → tget s.ptns p = some x →
    ∃ t, exec (.restripeCopyEnd p) s = .next t ∧ tget t.ptns p = some { x with pcs := it.part.pcs, restriping := false } ∧
      (∀ q, q ≠ p → tget t.ptns q = tget s.ptns q) ∧ (t.batch.any fun u => u.copied == [p]) = true ∧
      (∀ c k, tget s.contexts c = some k → k.ptn = p → k.state = .parked → k.wait = .none →
        (t.ctx c).state = if k.hasImage then .saved else .ready) ∧
      t = { s with ptns := t.ptns, batch := t.batch, contexts := t.contexts, attrs := t.attrs, mem := t.mem, lines := t.lines,
                   free := t.free }) ∧
  (∀ (s : State) (a h : Nat), s.flt.fatal = false → s.linkUp = true → parseAddr a = .host h → a % 64 = 0 →
    s.requestOk a 32 = true → le (s.fwRead a 32) 0 4 = 1 → le (s.fwRead a 32) 5 1 ≤ 2 → le (s.fwRead a 32) 0x1A 2 = 0 →
    let l := s.fwRead a 32
    (∀ i p v f, le l 4 1 = 0 → s.ptnOf (le l 8 4) = some i → tget s.ptns i = some p →
      s.hotRoom i p.pages (le l 0x10 4) (le l 0xC 4) = some ([], v) →
      ((List.range 8192).find? fun k => !thas s.hotset (k + 1)) = some f →
      ∃ t, exec (.hotsetRequest a) s = .next t ∧ tget t.hotset (f + 1) = some { kind := le l 5 1, ptn := i, first := v, pages := le l 0xC 4, model := le l 0x14 4, pinned := false, lastUse := s.supTime } ∧
        (∀ k, k ≠ f + 1 → tget t.hotset k = tget s.hotset k) ∧ (t.mem.read (hostKey (h + 0x18))).toNat = Status.ok.code ∧
        t = { s with hotset := t.hotset, mem := t.mem, plk := t.plk, out := t.out }) ∧
    (∀ e, le l 4 1 = 4 → tget s.hotset (le l 6 2) = some e → e.pinned = false →
      ∃ t, exec (.hotsetRequest a) s = .next t ∧ tget t.hotset (le l 6 2) = none ∧ bitAt (t.ev evPtn).value 7 = true ∧
        (∀ k, k ≠ le l 6 2 → tget t.hotset k = tget s.hotset k) ∧ (t.mem.read (hostKey (h + 0x18))).toNat = Status.ok.code ∧
        t = { s with hotset := t.hotset, mem := t.mem, events := t.events, plk := t.plk, out := t.out })) ∧
  (∀ (s : State) (a h : Nat), s.flt.fatal = false → s.linkUp = true → parseAddr a = .host h → a % 64 = 0 →
    s.requestOk a 64 = true →
    let l := s.fwRead a 64
    let core := State.targetCore (le l 6 1) (le l 8 4)
    le l 0 4 = 1 → State.procTarget (le l 4 2) = some (le l 6 1) → le l 8 4 < State.targetCount (le l 6 1) →
    s.targetHere (le l 6 1) (le l 8 4) = true → 1 ≤ le l 0xC 4 → le l 0xC 4 ≤ 100000 → le l 0x10 4 ≤ 60000 →
    clearAt l [(7, 1), (0x14, 4), (0x30, 16)] = true →
    ((s.testQueue core).length < 16 → ((s.testQueue core).head?.any (·.running)) = true →
      ∃ t, exec (.testRequest a) s = .next t ∧ (t.mem.read (hostKey (h + 0x20))).toNat = Status.deferred.code ∧
        ((t.testQueue core).dropLast = s.testQueue core) ∧ ((t.testQueue core).getLast?.any fun r => r.addr == a && !r.running &&
          r.proc == le l 4 2 && r.target == le l 8 4) = true ∧
        t = { s with tests := t.tests, mem := t.mem, lines := t.lines, plk := t.plk, out := t.out }) ∧
    (16 ≤ (s.testQueue core).length →
      ∃ t, exec (.testRequest a) s = .next t ∧ (t.mem.read (hostKey (h + 0x20))).toNat = Status.refusedCapacity.code ∧
        t = { s with mem := t.mem, plk := t.plk, out := t.out })) ∧
  (∀ (s : State) (c h : Nat) (r : TestReq), s.flt.fatal = false → s.linkUp = true → parseAddr r.addr = .host h → r.addr % 64 = 0 →
    s.testQueue c = [r] → r.targetType = 1 → r.running = false → s.isOpen (State.targetDomain 1 r.target) = true →
    s.targetClear 1 r.target r.window = true →
    ∃ t, exec (.testBorrowStart c) s = .next t ∧ (t.pc r.target).borrowed = true ∧
      t.testQueue c = [{ r with running := true, start := (s.core c).time }] ∧
      t = { s with pcs := t.pcs, tests := t.tests, mem := t.mem, plk := t.plk, out := t.out }) ∧
  (∀ (s : State) (c h : Nat) (r : TestReq), s.flt.fatal = false → s.linkUp = true → parseAddr r.addr = .host h → r.addr % 64 = 0 →
    s.testQueue c = [r] → r.targetType = 1 → r.running = false → s.targetReserved 1 r.target = true →
    ∃ t, exec (.testDeferLimit c) s = .next t ∧ t.testQueue c = [] ∧
      (t.mem.read (hostKey (h + 0x20))).toNat = Status.testRefused.code ∧ bitAt (t.ev evPtn).value 9 = true ∧
      t = { s with tests := t.tests, mem := t.mem, events := t.events, plk := t.plk, out := t.out }) ∧
  ∀ (s : State) (c h : Nat) (r : TestReq) (res : ProcResult), s.flt.fatal = false → s.linkUp = true →
    parseAddr r.addr = .host h → r.addr % 64 = 0 → s.testQueue c = [r] → r.targetType = 1 → r.running = true → r.proc = 0x10 →
    r.result = 0 →
    let ended : State → Nat → Prop := fun t cut => t.testQueue c = [] ∧ (t.pc r.target).borrowed = false ∧
      (t.mem.read (hostKey (h + 0x20))).toNat = Status.ok.code ∧ (t.mem.read (hostKey (h + 0x22))).toNat = cut ∧
      bitAt (t.ev evPtn).value 8 = true ∧
      t = { s with tests := t.tests, pcs := t.pcs, mem := t.mem, events := t.events, plk := t.plk, out := t.out }
    (∃ t, exec (.testWindowEnd c res) s = .next t ∧ ended t 1) ∧ (∃ t, exec (.procedureEnd c res) s = .next t ∧ ended t 0)

/-- Contexts (R238 to R244, R247, R251): a create that fits makes a READY context under a fresh handle, one whose image is too
small is refused; a destroy frees it without records; a contender that ranks first on every quadrant takes them all, or first
sends a holder with nothing to do away; slots reserve their quadrants, late owners are counted, an extension goes on for its time, and
handovers begin early and are not undone, that to the owner of a lent slot at once; a slice ends; a save, a restore and a teardown end. Rests on log entries 68 and 69. -/
def Obligations.ContextsComeAndGo : Prop :=
  ∀ s : State, s.flt.fatal = false →
    (∀ a h : Nat, s.linkUp = true → a % 64 = 0 → parseAddr a = .host h → s.requestOk a 128 = true → s.batch = none →
      let l := s.fwRead a 128
      let answers : State → Status → Prop := fun t st => (t.mem.read (hostKey (h + 0x60))).toNat = st.code
      le l 0 4 = 1 →
      (∀ p x off c hs, s.ptnOf (le l 4 4) = some p → tget s.ptns p = some x → s.ctxHandles.take 512 = some (c, hs) →
        let quads := if le l 0xC 4 = 0 then x.quads else le l 0xC 4
        let count := le l 0x12 2
        (members quads 32).all s.variant.quad = true → Nat.land quads x.quads = quads → le l 8 1 ≤ 1 → le l 9 1 ≤ 1 → 1 ≤ count →
        count ≤ 1280 → clearAt l [(0xA, 2), (0x14, 4), (0x24, 4), (0x30, 48)] = true →
        ((Context.diesOf quads).all fun n => decide (le l 0x10 2 + count ≤ x.scratch.getD n 0)) = true →
        parseAddr (le l 0x18 8) = .hbm p off → off % 65536 = 0 → off / 65536 + le l 0x20 4 ≤ x.pages →
        (Context.imageNeed quads count ≤ le l 0x20 4 →
          ∃ t, exec (.contextCreate a) s = .next t ∧ answers t .ok ∧ t.mem.readAll (hostKey (h + 0x64)) 4 = leBytes 4 (t.ctxHandle c) ∧
            tget t.contexts c = some { Context.reset with
              state := .ready, ptn := p, critical := le l 8 1 == 1, tx2 := le l 9 1 == 1, quads := quads, scrFirst := le l 0x10 2,
              scrCount := count, image := le l 0x18 8, imagePages := le l 0x20 4, seed := BitVec.ofNat 64 (le l 0x28 8) } ∧
            (∀ d, d ≠ c → tget t.contexts d = tget s.contexts d) ∧
            t = { s with contexts := t.contexts, ctxHandles := hs, mem := t.mem, plk := t.plk, out := t.out }) ∧
        (le l 0x20 4 < Context.imageNeed quads count →
          ∃ t, exec (.contextCreate a) s = .next t ∧ answers t .refusedCapacity ∧ (t.mem.read (hostKey (h + 0x61))).toNat = 4 ∧
            t = { s with mem := t.mem, plk := t.plk, out := t.out })) ∧
      (∀ c, s.ctxOf (le l 4 4) = some c →
        (s.channels.any fun p => (tget s.jobs p.2.job).any fun j => j.teacherCtx == c || j.studentCtx == c) = false →
        ((s.ctx c).state ≠ .teardown →
          ∃ t, exec (.contextDestroy a) s = .next t ∧ answers t .ok ∧ tget t.contexts c = none ∧
            (∀ k, (t.quad k).holder ≠ some c ∧ (t.quad k).reserved ≠ some c) ∧
            (∀ n, n < 4096 → ((t.arr n).bound.all fun i => i.ctx != c) = true) ∧
            ((∀ n, bitAt (s.ctx c).quads (n / 128) = true → (s.arr n).drains = []) →
              (∀ d, d ≠ c → tget t.contexts d = tget s.contexts d) ∧
              t = { s with contexts := t.contexts, ctxHandles := s.ctxHandles.free c, arrays := t.arrays, quads := t.quads, dmas := t.dmas,
                           granules := t.granules, collectives := t.collectives, mem := t.mem, plk := t.plk, out := t.out })) ∧
        ((s.ctx c).state = .teardown →
          ∃ t, exec (.contextDestroy a) s = .next t ∧ t.ctx c = { s.ctx c with destroyAt := (s.ctx c).destroyAt ++ [a] } ∧
            t = { s with contexts := t.contexts }))) ∧
    (∀ c, let u := s.through (s.ctx c).quadList
      u.contends c = true → s.pwr.dispatchHeld = false → s.pwr.onHoldup = false → u.unacked c 4 0 = false →
      ((u.ctx c).quadList.all fun i => u.quadFree i && u.topRanked i c) = true →
      (u.holdersOf c = [] →
        ∃ t, exec (.contextBind c) s = .next t ∧ (t.ctx c).held = (u.ctx c).quads ∧
          (t.ctx c).state = (if (u.ctx c).hasImage then .restoring else .running) ∧
          (∀ k, k < 32 → (t.quad k).holder = if bitAt (u.ctx c).quads k then some c else (u.quad k).holder) ∧
          (∀ d, d ≠ c → (t.ctx d).state = (u.ctx d).state) ∧
          t = { u with contexts := t.contexts, quads := t.quads, groups := t.groups, granules := t.granules, mem := t.mem, lines := t.lines,
                       ckp := t.ckp, attrs := t.attrs, netOut := t.netOut, netHeld := t.netHeld, plk := t.plk, out := t.out, events := t.events }) ∧
      (∀ d, u.holdersOf c = [d] → (u.ctx d).state = .running → (u.ctx d).runnable = false →
        ∃ t, exec (.contextBind c) s = .next t ∧ (t.ctx d).state = .saving ∧ (t.ctx d).lastReason = 6 ∧ (t.ctx d).after = .saved ∧
          t.quads = u.quads ∧ (∀ e, e ≠ d → t.ctx e = u.ctx e))) ∧
    (∀ g, g < 8 →
      let x := s.group g
      let now := s.groupTime g
      let slot := if x.active then (x.slot + 1) % 64 else 0
      (slot = 0 → x.schedNew = false → ∀ r, x.resume = some r →
        ∃ t, exec (.slotBoundary g) s = .next t ∧ (t.group g).slot = r.1 ∧ (t.group g).frames = r.2 ∧ (t.group g).resume = none) ∧
      (x.active = true → slot ≠ 0 ∨ (x.schedNew = false ∧ x.resume = none) →
        ∃ t, exec (.slotBoundary g) s = .next t ∧ (t.group g).slot = slot ∧
          (t.group g).frames = (if slot = 0 then (x.frames + 1) % 2 ^ 24 else x.frames) ∧ (∀ n, n ≠ g → t.group n = s.group n) ∧
          (∀ q, q < 4 →
            let k := 4 * g + q
            let z := s.quad k
            let r := t.quad k
            (∀ c, s.slotOwner k slot = some c → bitAt (s.slotEntry k slot) 10 = false → z.behind = none → z.extension = 0 → z.ended = none →
              z.reserved = some c ∨ (z.handing = false ∧ (z.reserved = none ∨ z.lateSince = none)) → r.reserved = some c ∧
              (z.reserved ≠ some c ∨ z.handing = true →
                (∀ d, z.holder = some d → d ≠ c → (s.ctx d).state = .running →
                  (t.ctx d).state = .saving ∧ ((t.ctx d).lastReason = if (s.ctx d).runnable then 1 else 6)) ∧
                ((s.ctx c).state ≠ .running → r.lateSince = some now ∧
                  (z.lateSince = none → x.lateStarts < 65535 → x.lateStarts < (t.group g).lateStarts ∧
                    bitAt (t.ev evPtn).value 3 = true)))) ∧
            (∀ d, z.reserved = some d → z.handing = false → s.slotOwner k slot ≠ some d → z.extension ≠ 0 →
              (z.ended = none → r.reserved = some d ∧ r.extension = z.extension ∧ r.ended = some now) ∧
              (∀ t0, z.ended = some t0 → (now - t0).toNat < z.extension → r.reserved = some d ∧ r.ended = some t0) ∧
              (∀ t0, z.ended = some t0 → z.lateSince = none → z.extension ≤ (now - t0).toNat → s.slotOwner k slot = none → z.behind = none →
                r.reserved = none)) ∧
            (∀ c, z.handing = true → z.ended = none → z.reserved = some c → s.slotOwner k slot ≠ some c →
              (({ s with groups := t.groups } : State).nextOwner k).map (·.1) = some c → r.reserved = some c ∧ r.handing = true) ∧
            (s.slotOwner k slot = none → z.handing = false → z.extension = 0 → z.lateSince = none → z.behind = none →
              r.reserved = none))) ∧
      (slot = 0 → x.schedNew = true → x.schedEnable = true → x.resume = none →
        let tbl := (List.range 256).map fun i => le (s.fwRead (x.schedAddr * 1024 + 4 * i) 4) 0 4
        (s.tableOk g tbl = true →
          ∃ t, exec (.slotBoundary g) s = .next t ∧ (t.group g).active = true ∧ (t.group g).table = tbl ∧ (t.group g).slot = 0 ∧
            (t.group g).schedNew = false) ∧
        (s.tableOk g tbl = false →
          ∃ t, exec (.slotBoundary g) s = .next t ∧ (t.group g).refused = true ∧ (t.group g).table = x.table ∧
            (t.group g).active = x.active ∧ (t.group g).schedNew = false)) ∧
      (let u := s.through ((List.range 4).map (4 * g + ·))
        let leaves : State → Nat → Nat → Prop := fun t k c =>
          ∀ d, (u.quad k).holder = some d → d ≠ c → (u.ctx d).state = .running → (t.ctx d).state = .saving
        (∀ q c sl, q < 4 → 4 * g + q ∈ u.handoverDue g → u.nextOwner (4 * g + q) = some (c, sl) →
          bitAt (u.slotEntry (4 * g + q) sl) 10 = false → (∀ r, r < 4 → u.takesLent (4 * g + r) = false) →
          ∃ t, exec (.handoverStart g) s = .next t ∧ (t.quad (4 * g + q)).reserved = some c ∧ (t.quad (4 * g + q)).handing = true ∧
            leaves t (4 * g + q) c ∧ t.groups = u.groups) ∧
        (∀ q c, q < 4 → u.takesLent (4 * g + q) = true → u.slotOwner (4 * g + q) (u.group g).slot = some c →
          ∃ t, exec (.handoverStart g) s = .next t ∧ (t.quad (4 * g + q)).reserved = some c ∧ leaves t (4 * g + q) c ∧
            t.groups = u.groups))) ∧
    (∀ c, let u := s.through (s.ctx c).quadList
      (u.ctx c).state = .running →
      ((u.ctx c).quadList.any fun i => (u.contenders i).any fun d => decide (u.rankClass i d ≤ u.rankClass i c)) = true →
      ∃ t, exec (.sliceExpiry c) s = .next t ∧ (t.ctx c).state = .saving ∧
        (t.ctx c).lastReason = (if (u.ctx c).runnable then 2 else 6) ∧
        (t.ctx c).preemptions = (if (u.ctx c).runnable then satAdd 16 (u.ctx c).preemptions 1 else (u.ctx c).preemptions) ∧ (∀ d, d ≠ c → t.ctx d = u.ctx d) ∧
        t = { u with contexts := t.contexts, channels := t.channels, chanHandles := t.chanHandles, jobs := t.jobs,
                     jobHandles := t.jobHandles, mem := t.mem, lines := t.lines, plk := t.plk, out := t.out }) ∧
    (∀ c,
      ((s.ctx c).state = .saving → s.drainsWait c = true → ((s.ctx c).quadList.all fun k => s.live (quadDomain k)) = true →
        ((s.ctx c).dies.all fun n => s.live (fabricDomain n)) = true →
        ∃ t, exec (.contextSaveDone c) s = .next t ∧ (t.ctx c).state = (if (s.ctx c).after = .parked then .parked else .saved) ∧
          (t.ctx c).held = 0 ∧ (t.ctx c).hasImage = true ∧ (t.ctx c).imageQuads = (s.ctx c).quadList ∧
          (∀ k, (t.quad k).holder ≠ some c) ∧ (∀ n, bitAt (s.ctx c).held (n / 128) = true → (t.arr n).bound = []) ∧
          (∀ d, d ≠ c → t.ctx d = s.ctx d)) ∧
      ((s.ctx c).state = .restoring → s.unacked c 4 0 = false → ((s.ctx c).quadList.all fun k => s.isOpen (quadDomain k)) = true →
        ((s.ctx c).dies.all fun n => s.isOpen (fabricDomain n)) = true →
        (s.imageGood c = true →
          ∃ t, exec (.contextRestoreDone c) s = .next t ∧ (t.ctx c).state = .running ∧ (t.ctx c).susp = [] ∧ (t.ctx c).resident = 0 ∧
            (∀ d, d ≠ c → t.ctx d = s.ctx d) ∧
            t = { s with contexts := t.contexts, arrays := t.arrays, quads := t.quads, groups := t.groups, mem := t.mem }) ∧
        (s.imageGood c = false →
          ∃ t, exec (.contextRestoreDone c) s = .next t ∧ (t.ctx c).state = .teardown ∧
            (t.flt.records.any fun r => r.ident == s.flt.nextId && r.kind == 6 && r.level == 0) = true ∧
            (∀ d, d ≠ c → t.ctx d = s.ctx d) ∧ t.mem = s.mem ∧ t.arrays = s.arrays))) ∧
    (∀ c, (s.ctx c).state = .teardown → s.tornWaits c = false → (s.jobs.all fun p => p.2.teacherCtx != c && !(p.2.failed && p.2.studentCtx == c)) = true →
      (s.instances.all fun p => p.2.target != c && p.2.draft != some c) = true →
      ∃ t, exec (.contextTeardown c) s = .next t ∧ tget t.contexts c = none ∧ (∀ k, (t.quad k).holder ≠ some c) ∧
        (∀ n, n < 4096 → ((t.arr n).bound.all fun i => i.ctx != c) = true) ∧
        t.ctxHandles = s.ctxHandles.free c ∧ bitAt (t.ev evPtn).value 2 = true ∧
        ((∀ n, bitAt (s.ctx c).quads (n / 128) = true → (s.arr n).drains = []) → ∀ d, d ≠ c → tget t.contexts d = tget s.contexts d))

/-- The serving engine's tables (R3, R260 to R262, R275, R276, R282, R284): an instance, adapter or ring whose request meets every
rule gets its number or handle, one out of its range is refused; an instance with live requests, a ring that a request has and
an adapter that a request names stay; a cancelled request is marked; without the unit every request is told so, and while its
domain resets to come back. Rests on log entry 84. -/
def Obligations.ServingTablesAreKept : Prop :=
  ∀ (s : State) (a h : Nat), s.flt.fatal = false → s.linkUp = true → a % 64 = 0 → parseAddr a = .host h →
    let l := fun (n : Nat) => s.fwRead a n
    let answers : State → Nat → Status → Prop := fun t off st => (t.mem.read (hostKey (h + off))).toNat = st.code
    let handle : State → Nat → Nat → Prop := fun t off v => t.mem.readAll (hostKey (h + off + 4)) 4 = leBytes 4 v
    let refused : State → Nat → Status → Nat → Prop := fun t off st d =>
      answers t off st ∧ (t.mem.read (hostKey (h + off + 1))).toNat = d ∧ bitAt (t.ev evSrv).value 0 = true ∧
      t = { s with mem := t.mem, events := t.events, plk := t.plk, out := t.out }
    let rows : List (Instr × Nat × Nat) := [(.instanceCreate a, 128, 0x70), (.instanceDestroy a, 32, 0x10), (.adapterRegister a, 32, 0x10),
      (.adapterRelease a, 32, 0x10), (.ringCreate a, 64, 0x30), (.ringDestroy a, 32, 0x10), (.requestCancel a, 32, 0x10)]
    (∀ p, p ∈ rows → s.requestOk a p.2.1 = true →
      (s.variant.serving = false → ∃ t, exec p.1 s = .next t ∧ refused t p.2.2 .unitAbsent 0) ∧
      (s.variant.serving = true → s.isOpen 77 = false → ∃ t, exec p.1 s = .next t ∧ refused t p.2.2 .retryLater 0)) ∧
    (s.variant.serving = true → s.isOpen 77 = true →
      (∀ p c i, s.requestOk a 128 = true → le (l 128) 0 4 = 1 → s.ptnOf (le (l 128) 4 4) = some p → s.ctxOf (le (l 128) 8 4) = some c →
        le (l 128) 0xC 4 = 0 → (s.ctx c).ptn = p → lowestFree s.instances 16 = some i →
        let x : Instance := { desc := l 128, ptn := p, target := c, draft := none, submitTail := 0, submitHead := 0, admittedCount := 0, stepNumber := 0, pass := 0, firstPass := 0, inStep := false, stepStart := 0, passIndex := 0, drafts := 0, doneAt := 0, seqs := [], durations := [], gains := [], free := List.range (le (l 128) 0x24 4), prov := [], repeats := 0, poolLow := false, ttftMiss := 0, tbtMiss := 0 }
        (State.badInst (l 128) = false → s.badAreas p x = false →
          ∃ t, exec (.instanceCreate a) s = .next t ∧ answers t 0x70 .ok ∧ (t.mem.read (hostKey (h + 0x72))).toNat = i ∧
            tget t.instances i = some x ∧ (∀ j, j ≠ i → tget t.instances j = tget s.instances j) ∧
            t = { s with instances := t.instances, mem := t.mem, free := s.free + 1, plk := t.plk, out := t.out }) ∧
        (State.badInst (l 128) = true → ∃ t, exec (.instanceCreate a) s = .next t ∧ refused t 0x70 .refusedInfeasible 4)) ∧
      (s.requestOk a 32 = true → le (l 32) 0 4 = 1 →
        (∀ i, le (l 32) 4 4 = i → i < 16 → thas s.instances i = true → clearAt (l 32) [(8, 8)] = true →
          (s.reqsOf i = [] →
            ∃ t, exec (.instanceDestroy a) s = .next t ∧ answers t 0x10 .ok ∧ tget t.instances i = none ∧
              (∀ j, j ≠ i → tget t.instances j = tget s.instances j) ∧ (t.published.all fun b => b.inst != i) = true ∧
              t = { s with instances := t.instances, published := t.published, mem := t.mem, plk := t.plk, out := t.out }) ∧
          (s.reqsOf i ≠ [] → ∃ t, exec (.instanceDestroy a) s = .next t ∧ refused t 0x10 .refusedInfeasible 6)) ∧
        (∀ e i hs, tget s.hotset (le (l 32) 6 2) = some e → s.adpHandles.take 4096 = some (i, hs) →
          let rank := le (l 32) 8 2
          le (l 32) 4 1 < 16 → thas s.instances (le (l 32) 4 1) = true → rank % 4 = 0 → 4 ≤ rank → rank ≤ 128 →
          clearAt (l 32) [(5, 1), (0xA, 6)] = true →
          (e.kind = 1 →
            ∃ t, exec (.adapterRegister a) s = .next t ∧ answers t 0x10 .ok ∧ handle t 0x10 (t.adpHandle i) ∧
              tget t.adapters i = some { inst := le (l 32) 4 1, entry := le (l 32) 6 2, rank := rank } ∧
              (∀ j, j ≠ i → tget t.adapters j = tget s.adapters j) ∧
              tget t.hotset (le (l 32) 6 2) = some { e with pinned := true, lastUse := s.supTime } ∧
              (∀ k, k ≠ le (l 32) 6 2 → tget t.hotset k = tget s.hotset k) ∧
              (∀ n f, n < e.pages → s.pageFrame e.ptn (e.first + n) = some f → bitAt (t.attr f) 5 = true) ∧
              t = { s with adapters := t.adapters, adpHandles := hs, hotset := t.hotset, attrs := t.attrs, mem := t.mem, plk := t.plk,
                           out := t.out }) ∧
          (e.kind ≠ 1 → ∃ t, exec (.adapterRegister a) s = .next t ∧ refused t 0x10 .refusedInfeasible 4)) ∧
        (∀ k y, s.adpOf (le (l 32) 4 4) = some k → tget s.adapters k = some y → clearAt (l 32) [(8, 8)] = true →
          ((s.requests.any fun r => r.2.state != .free && r.2.adapter == some k) = false →
            ∃ t, exec (.adapterRelease a) s = .next t ∧ answers t 0x10 .ok ∧ tget t.adapters k = none ∧
              (∀ j, j ≠ k → tget t.adapters j = tget s.adapters j) ∧ t.adpHandles = s.adpHandles.free k ∧
              ((t.adapters.any fun z => z.2.entry == y.entry) = false → ∀ e, tget s.hotset y.entry = some e →
                tget t.hotset y.entry = some { e with pinned := false }) ∧
              t = { s with adapters := t.adapters, adpHandles := t.adpHandles, hotset := t.hotset, attrs := t.attrs, mem := t.mem,
                           plk := t.plk, out := t.out }) ∧
          ((s.requests.any fun r => r.2.state != .free && r.2.adapter == some k) = true →
            ∃ t, exec (.adapterRelease a) s = .next t ∧ refused t 0x10 .refusedInfeasible 6)) ∧
        (∀ k g, s.ringOf (le (l 32) 4 4) = some k → tget s.rings k = some g → clearAt (l 32) [(8, 8)] = true →
          (g.bound = none →
            ∃ t, exec (.ringDestroy a) s = .next t ∧ answers t 0x10 .ok ∧ tget t.rings k = none ∧
              (∀ j, j ≠ k → tget t.rings j = tget s.rings j) ∧
              ((s.requests.all fun r => !(r.2.state == .free && r.2.ring == k)) = true →
                t.requests = s.requests ∧ t.reqHandles = s.reqHandles) ∧
              t = { s with rings := t.rings, ringHandles := s.ringHandles.free k, requests := t.requests, reqHandles := t.reqHandles,
                           mem := t.mem, plk := t.plk, out := t.out }) ∧
          (g.bound ≠ none → ∃ t, exec (.ringDestroy a) s = .next t ∧ refused t 0x10 .refusedInfeasible 6)) ∧
        (∀ k r, s.reqOf (le (l 32) 4 4) = some k → tget s.requests k = some r → clearAt (l 32) [(8, 8)] = true →
          ∃ t, exec (.requestCancel a) s = .next t ∧ answers t 0x10 .ok ∧ tget t.requests k = some { r with cancelled := true } ∧
            (∀ j, j ≠ k → tget t.requests j = tget s.requests j) ∧
            t = { s with requests := t.requests, mem := t.mem, plk := t.plk, out := t.out })) ∧
      (∀ i hs p o, s.requestOk a 64 = true → le (l 64) 0 4 = 1 → s.ringHandles.take 8192 = some (i, hs) →
        parseAddr (le (l 64) 0x10 8) = .hbm p o → s.requestOk (le (l 64) 0x10 8) 4 = true → le (l 64) 0x10 8 % 4 = 0 →
        le (l 64) 4 1 < 16 → thas s.instances (le (l 64) 4 1) = true → clearAt (l 64) [(7, 1), (0x24, 12)] = true → le (l 64) 5 1 ≤ 1 →
        (le (l 64) 5 1 = 0 → s.requestOk (le (l 64) 8 8) (16 * 2 ^ le (l 64) 6 1) = true) →
        (le (l 64) 5 1 = 1 → s.requestOk (le (l 64) 0x18 8) 32 = true) →
        (4 ≤ le (l 64) 6 1 → le (l 64) 6 1 ≤ 16 →
          ∃ t, exec (.ringCreate a) s = .next t ∧ answers t 0x30 .ok ∧ handle t 0x30 (t.ringHandle i) ∧
            tget t.rings i = some { inst := le (l 64) 4 1, peer := le (l 64) 5 1 == 1, log2 := le (l 64) 6 1, addr := le (l 64) 8 8, consAddr := le (l 64) 0x10 8, rkey := le (l 64) 0x20 4, count := 0, bound := none, lost := false, recent := [] } ∧
            (∀ j, j ≠ i → tget t.rings j = tget s.rings j) ∧
            t = { s with rings := t.rings, ringHandles := hs, mem := t.mem, plk := t.plk, out := t.out }) ∧
        (le (l 64) 6 1 < 4 ∨ 16 < le (l 64) 6 1 → ∃ t, exec (.ringCreate a) s = .next t ∧ refused t 0x30 .refusedInfeasible 4)))

/-- The serving engine at work (R263 to R266, R268, R270, R281, R282, R285, R287): a submission that fits becomes a QUEUED request
with its reserved units, one of another version is refused, and both leave the submission ring; a step places the request and
issues its first pass; a request still QUEUED at its deadline retires; a pass ends only when DONE_CNT says so, a draft pass issues the next one, the
target pass ends the step and gives each request its token; a ring whose peer fails is lost, and its request is HELD. Rests on
log entries 76 and 77. -/
def Obligations.ServingRequestsRun : Prop :=
  ∀ (s : State) (i : Nat), s.flt.fatal = false → s.linkUp = true →
    (∀ x, tget s.instances i = some x → s.isOpen 77 = true →
      (∀ h, x.submitHead ≠ x.submitTail →
        let a := x.d 0x58 8 + 128 * (x.submitHead.toNat % 2 ^ x.d 0x60 1)
        let l := s.fwRead a 128
        let want := if le l 4 1 = 1 then ceilDiv (le l 0x10 4 + le l 0x14 4) 16 + b2n (bitAt (le l 6 1) 2) else ceilDiv (le l 0x10 4) 16 + 1
        parseAddr a = .host h → a % 128 = 0 →
        (∀ k g n hs, le l 0 4 = 1 → s.badReq x l = false → s.ringOf (le l 0x28 4) = some k → tget s.rings k = some g → g.inst = i →
          g.bound = none → le l 0x18 4 = 0 → (s.reqsOf i).length < x.d 0x10 2 → s.reqHandles.take 8192 = some (n, hs) → x.durations = [] →
          s.published = [] ∨ bitAt (le l 6 1) 1 = true → want ≤ x.free.length →
          ∃ t, exec (.requestAdmission i) s = .next t ∧ (t.mem.read (hostKey (h + 0x70))).toNat = Status.ok.code ∧
            t.mem.readAll (hostKey (h + 0x74)) 4 = leBytes 4 (t.reqHandle n) ∧
            ((tget t.requests n).any fun r => r.state == .queued && r.inst == i && r.ring == k && r.promptLen == le l 0x10 4 &&
              r.maxNew == le l 0x14 4 && r.fed == 0 && r.generated == 0 && r.units == [] && r.reserved == x.free.take want &&
              r.admitted == s.srvTime && r.order == x.admittedCount && r.critical == (le l 4 1 == 1) && r.seed == le l 0x30 8 &&
              r.tokens == (List.range (le l 0x10 4)).map fun j => le (s.fwRead (le l 8 8 + 4 * j) 4) 0 4 % 2 ^ 24) = true ∧
            (∀ j, j ≠ n → tget t.requests j = tget s.requests j) ∧ tget t.rings k = some { g with bound := some n } ∧
            ((tget t.instances i).any fun y => y.submitHead == x.submitHead + 1 && y.free == x.free.drop want &&
              y.admittedCount == x.admittedCount + 1) = true ∧
            t = { s with instances := t.instances, requests := t.requests, reqHandles := hs, rings := t.rings, events := t.events,
                         mem := t.mem, plk := t.plk, out := t.out }) ∧
        (le l 0 4 ≠ 1 →
          ∃ t, exec (.requestAdmission i) s = .next t ∧ (t.mem.read (hostKey (h + 0x70))).toNat = Status.versionUnsupported.code ∧
            bitAt (t.ev evSrv).value 0 = true ∧ tget t.instances i = some { x with submitHead := x.submitHead + 1 } ∧
            t = { s with instances := t.instances, events := t.events, mem := t.mem, plk := t.plk, out := t.out })) ∧
      (x.inStep = false →
        (s.reqsOf i = [] → ∃ t, exec (.servingStepBoundary i) s = .next t ∧ t = s) ∧
        (∀ k r, (s.requests.Pairwise fun p q => p.1 < q.1) → s.reqsOf i = [k] → tget s.requests k = some r → r.inst = i → r.outbox = [] → r.state = .queued → r.cancelled = false →
          r.generated = 0 →
          (r.late s.srvTime = false → r.fed < r.len → 1 ≤ x.maxSeqs → 1 ≤ x.stepTokens →
            let n := Nat.min (r.len - r.fed) x.stepTokens
            let more := ceilDiv (r.fed + n) 16 - r.units.length
            more ≤ r.reserved.length →
            ∃ t, exec (.servingStepBoundary i) s = .next t ∧
              ((tget t.instances i).any fun y => y.inStep && y.passIndex == 0 && y.pass == x.pass + 1 && y.firstPass == x.pass &&
                y.stepStart == s.srvTime && y.stepNumber == x.stepNumber &&
                y.seqs == [{ req := k, kind := 0, first := r.fed, count := n, drafts := 0, catchUp := 0, listed := [], drafted := [] }]) =
                true ∧
              ((tget t.requests k).any fun q => q.state == .prefill && q.units == r.units ++ r.reserved.take more &&
                q.reserved == r.reserved.drop more && q.tokens == r.tokens) = true ∧
              t.rings = s.rings ∧ t.published = s.published ∧ t.adapters = s.adapters) ∧
          (∀ g, r.late s.srvTime = true → r.runsLate = false → tget s.rings r.ring = some g → g.lost = false →
            ∃ t, exec (.servingStepBoundary i) s = .next t ∧ tget t.requests k = none ∧ t.reqHandles = s.reqHandles.free k ∧
              ((tget t.rings r.ring).any fun h => h == { g with count := g.count + 2, bound := none, recent := h.recent } &&
                h.recent.length == g.recent.length + 2) = true ∧ bitAt (t.ev evSrv).value 1 = true ∧
              (∀ j, j ≠ k → tget t.requests j = tget s.requests j) ∧ (tget t.instances i).any (·.inStep) = false))) ∧
      (x.inStep = true →
        let done := (s.ctx (State.passCtx x)).sync.getD (x.d 0x17 1) 0
        ((done - x.doneAt).toInt < 0 → ∃ t, exec (.servingPassEnd i) s = .next t ∧ t = s) ∧
        (0 ≤ (done - x.doneAt).toInt →
          (x.passIndex < x.drafts →
            ∃ t, exec (.servingPassEnd i) s = .next t ∧ ((tget t.instances i).any fun y => y.inStep && y.passIndex == x.passIndex + 1 &&
              y.pass == x.pass + 1 && y.stepNumber == x.stepNumber) = true ∧ t.requests = s.requests ∧ t.rings = s.rings) ∧
          (x.drafts ≤ x.passIndex →
            ∃ t, exec (.servingPassEnd i) s = .next t ∧
              ((tget t.instances i).any fun y => !y.inStep && y.seqs == [] && y.prov == [] && y.stepNumber == x.stepNumber + 1 &&
                y.pass == x.pass) = true ∧
              (∀ q r p tok pv, x.seqs = [q] → tget s.requests q.req = some r → q.kind = 0 → 0 < q.count → q.first + q.count = r.len → s.passOutputs x = [(q.req, p, tok, pv)] →
                r.inst = i → r.generated + 1 < r.maxNew → r.len + 1 ≠ x.maxLen → bitAt r.stop 31 = false → r.cancelled = false →
                r.late s.srvTime = false ∨ bitAt r.flags 0 = true →
                ((tget t.requests q.req).any fun y => y.tokens == r.tokens ++ [tok] && y.generated == r.generated + 1 &&
                  y.fed == r.len && (y.state == .decode || y.state == .held)) = true))))) ∧
    (∀ g, tget s.rings i = some g →
      (g.peer = true → g.lost = false →
        ∃ t, exec (.peerRingFailure i) s = .next t ∧ tget t.rings i = some { g with lost := true } ∧ bitAt (t.ev evSrv).value 5 = true ∧
          (∀ k r, g.bound = some k → tget s.requests k = some r → tget t.requests k = some { r with state := .held }) ∧
          t = { s with rings := t.rings, requests := t.requests, events := t.events, plk := t.plk, out := t.out }) ∧
      (g.peer = false → ∃ t, exec (.peerRingFailure i) s = .next t ∧ t = s))

/-- A cascade group forms and steps (R291, R296, R309, R404, R408): the master answers a HELLO, joins its sender or refuses it; a
member takes the answer; at the end of the formation time the group runs, or halts for want of an ingest member; once every
compute member has reported, the next record goes to the deputy, and with its acknowledgement to every member; a member takes
a record of no lower TERM; a member that has asked is put in PAUSED with its report, which every
member is told, and a second report ends that; a member pauses at its STEP gate, or reports again where it wants no pause; a message
of a lower TERM changes nothing. Rests on log entries 36, 63, 64, 140, 178 and 182. -/
def Obligations.GroupsFormAndStep : Prop :=
  ∀ s : State, s.flt.fatal = false → s.inGroup = true →
    (∀ (h : HelloMsg) x, s.isMaster = true → s.member h.member = some x → h.groupId = s.net.groupId → h.term = s.net.term →
      (h.protoMax < s.net.protoMin →
        ∃ t, exec (.hello h) s = .next t ∧ t = { s with netOut := s.netOut ++ [.helloAnswer s.net.groupId h.member s.net.term .versionUnsupported], netHeld := t.netHeld }) ∧
      (s.net.protoMin ≤ h.protoMax → h.gen ≠ s.net.gen →
        ∃ t, exec (.hello h) s = .next t ∧ t = { s with netOut := s.netOut ++ [.helloAnswer s.net.groupId h.member s.net.term .refusedInfeasible], netHeld := t.netHeld }) ∧
      (s.net.protoMin ≤ h.protoMax → h.gen = s.net.gen → h.crc = s.net.crc → s.reportAccepted h.report s.helloNonce = true →
        ofLe (reportIdent h.report) = x.ident → s.net.state = .running →
        ∃ t, exec (.hello h) s = .next t ∧
          t.member h.member = some { x with state := 1, protoMax := h.protoMax, lastHeard := s.edgeTime } ∧
          (∀ m, m ≠ h.member → t.member m = s.member m) ∧
          tget t.boot.accepted (le h.report 8 8) = some (le h.report 0x2C 4) ∧
          t = { s with netOut := s.netOut ++ [.helloAnswer s.net.groupId h.member s.net.term .ok], netHeld := t.netHeld, net := { s.net with members := t.net.members },
                       boot := { s.boot with accepted := t.boot.accepted } })) ∧
    (∀ n, s.net.state = .forming → s.isMaster = false →
      (n = 0 → ∀ x, s.member s.net.master = some x →
        ∃ t, exec (.helloAnswer ⟨n, s.net.term⟩) s = .next t ∧ t.member s.net.master = some { x with state := 1, lastHeard := s.edgeTime } ∧
          t = { s with net := { s.net with members := t.net.members } }) ∧
      (n ≠ 0 → ∃ t, exec (.helloAnswer ⟨n, s.net.term⟩) s = .next t ∧ t.net = { s.net with state := .halted } ∧
          (n = Status.versionUnsupported.code → bitAt (t.ev evNet).value 7 = true) ∧
          t = { s with net := t.net, events := t.events, plk := t.plk, out := t.out })) ∧
    (s.isMaster = true → s.net.state = .forming → s.groupVersion < s.net.protoMin →
      ∃ t, exec .formationLimit s = .next t ∧ t.net = { s.net with state := .halted } ∧ bitAt (t.ev evNet).value 7 = true ∧
        t = { s with net := t.net, events := t.events, plk := t.plk, out := t.out }) ∧
    (s.isMaster = true → s.net.state = .forming → s.net.protoMin ≤ s.groupVersion →
      ((s.net.members.all fun p => p.2.role == 2 || p.2.state == 1) = true →
        ∃ t, exec .formationLimit s = .next t ∧ t.net.state = .running ∧ t.net.version = s.groupVersion ∧ t.net.sentToDeputy = true ∧
          (t.net.record.any fun r => t.netOut == s.netOut ++ [.stepStart s.net.groupId s.net.deputy r] && r.term == s.net.term && r.gen == s.net.gen &&
            r.decision == 0 && r.notices == s.net.notices && r.cursors.length == s.net.replicas) = true ∧
          t = { s with net := t.net, netOut := t.netOut, netHeld := t.netHeld, free := s.free + s.net.replicas }) ∧
      (∀ m x, (s.net.members.filter fun p => p.2.role != 2 && p.2.state == 0) = [(m, x)] → s.member m = some x → x.role = 1 →
        m ≠ s.net.self → s.standby = none → s.net.sentToDeputy = false →
        ∃ t, exec .formationLimit s = .next t ∧ t.net.state = .halted ∧ bitAt (t.ev evNet).value 0 = true ∧
          bitAt (t.ev evNet).value 2 = true ∧ (t.member m).any (·.state == 2) = true ∧ t.net.record = s.net.record ∧
          (∀ k, k ∈ s.liveMembers → k ≠ s.net.self → (t.netOut.any fun n => match n with
            | .stepStart g d r => g == s.net.groupId && d == k && r.notices == s.net.notices ++ [.lost m none, .halts]
            | _ => false) = true))) ∧
    (∀ m x (status : Word), s.member m = some x → s.isMaster = true → s.net.state = .running → s.net.sentToDeputy = false →
      s.net.stopped = false → s.net.holdFor = none →
      let old := ((s.net.reports.find? fun p => p.1 == m).map (·.2)).getD 0
      let reports := (s.net.reports.filter fun p => p.1 != m) ++ [(m, old ||| status)]
      ((s.computeMembers.all fun n => reports.any fun p => p.1 == n) = true →
        (s.computeMembers.all fun n => n == m || !(s.member n).any (·.paused)) = true →
        (x.paused = true → (s.net.reports.any fun p => p.1 == m) = true) →
        ∃ t, exec (.stepEndReport ⟨m, s.net.term⟩ s.net.step status 0) s = .next t ∧ t.net.sentToDeputy = true ∧ t.net.reports = [] ∧
          (t.net.record.any fun r => t.netOut == s.netOut ++ [.stepStart s.net.groupId s.net.deputy r] && r.step == s.net.step + 1 &&
            r.term == s.net.term && r.gen == s.net.gen &&
            r.decision == b2n (reports.any fun p => p.2.getLsbD 19) && r.notices == s.net.notices && r.cursors.length == s.net.replicas) = true ∧
          (t.member m).any (·.lastStep == s.net.step) = true ∧ t.net.step = s.net.step ∧
          t = { s with net := t.net, netOut := t.netOut, netHeld := t.netHeld, free := s.free + s.net.replicas }) ∧
      (x.paused = true → (s.net.reports.any fun p => p.1 == m) = false → x.role = 0 → x.state = 1 →
        ∃ t, exec (.stepEndReport ⟨m, s.net.term⟩ s.net.step status 0) s = .next t ∧ t.net.reports = reports ∧
          t.net.sentToDeputy = false ∧ t.net.record = s.net.record ∧ t.member m = some { x with lastStep := s.net.step } ∧
          (∀ k, k ∈ s.liveMembers → k ≠ s.net.self → NetMsg.pauseRequest s.net.groupId k m s.net.term ∈ t.netOut) ∧
          t = { s with net := { s.net with reports := reports, members := t.net.members }, netOut := t.netOut, netHeld := t.netHeld }) ∧
      ((s.computeMembers.all fun n => reports.any fun p => p.1 == n) = false → x.paused = false →
        ∃ t, exec (.stepEndReport ⟨m, s.net.term⟩ s.net.step status 0) s = .next t ∧
          t = { s with net := { s.net with reports := reports, members := t.net.members } })) ∧
    (∀ r step, s.isMaster = true → s.net.record = some r →
      (s.net.sentToDeputy = true → r.step = step → s.net.unsettled = [] → s.ckp.replay = none →
        ∃ t, exec (.stepStartAck ⟨step, s.net.term⟩) s = .next t ∧ t.net.step = step ∧ t.net.term = r.term ∧ t.net.gen = r.gen ∧
          t.net.record = some r ∧ t.net.sentToDeputy = false ∧ t.net.state = .running ∧
          t.net.notices = s.net.notices.drop r.notices.length ∧
          (∀ m, m ∈ s.liveMembers → m ≠ s.net.self → NetMsg.stepStart s.net.groupId m r ∈ t.netOut)) ∧
      (r.step ≠ step → ∃ t, exec (.stepStartAck ⟨step, s.net.term⟩) s = .next t ∧ t = s)) ∧
    (∀ r : StepRecord, s.isMaster = false →
      (r.term < s.net.term → ∃ t, exec (.stepStartRecord r) s = .next t ∧ t = s) ∧
      (s.net.term ≤ r.term → s.net.record = none → r.notices = [] → s.ckp.replay = none →
        ∃ t, exec (.stepStartRecord r) s = .next t ∧ t.net.step = r.step ∧ t.net.term = r.term ∧ t.net.gen = r.gen ∧
          t.net.record = some r ∧ t.net.state = .running ∧
          (s.net.deputy = s.net.self → NetMsg.stepStartAck s.net.groupId s.net.master r.term r.step ∈ t.netOut) ∧
          ((s.contexts.all fun p => p.2.queues.all fun q => !q.stepGate && q.cmds.isEmpty) = true → t.contexts = s.contexts))) ∧
    (∀ m x, s.net.state = .running → s.member m = some x →
      (m ≠ s.net.self →
        ∃ t, exec (.groupPauseRequest ⟨m, s.net.term⟩) s = .next t ∧ t.member m = some { x with paused := true } ∧
          (s.isMaster = true → (s.net.reports.any fun p => p.1 == m) = true → ∀ k, k ∈ s.liveMembers → k ≠ s.net.self →
            NetMsg.pauseRequest s.net.groupId k m s.net.term ∈ t.netOut) ∧
          (s.isMaster = false ∨ (x.role = 0 ∧ (s.net.reports.any fun p => p.1 == m) = false) → t.netOut = s.netOut) ∧
          t = { s with net := { s.net with members := t.net.members }, netOut := t.netOut, netHeld := t.netHeld }) ∧
      (m = s.net.self → s.boot.pauseAsked = true → (s.contexts.any fun p => p.2.queues.any fun q => q.stepGate) = true →
        ∃ t, exec (.groupPauseRequest ⟨m, s.net.term⟩) s = .next t ∧ t.net.state = .paused ∧ t.member m = some { x with paused := true } ∧
          (s.isMaster = false → t.netOut = s.netOut) ∧
          t = { s with net := { s.net with state := .paused, members := t.net.members }, netOut := t.netOut, netHeld := t.netHeld }) ∧
      (m = s.net.self → s.boot.pauseAsked = false → s.isMaster = false →
        (s.contexts.any fun p => p.2.queues.any fun q => q.stepGate) = true →
        ∃ t, exec (.groupPauseRequest ⟨m, s.net.term⟩) s = .next t ∧ t = s.reportAgain)) ∧
    (∀ term, term < s.net.term →
      (∀ h : HelloMsg, h.term = term → ∃ t, exec (.hello h) s = .next t ∧ t = s) ∧
      (∀ n, ∃ t, exec (.helloAnswer ⟨n, term⟩) s = .next t ∧ t = s) ∧
      (∀ m step status off, ∃ t, exec (.stepEndReport ⟨m, term⟩ step status off) s = .next t ∧ t = s) ∧
      (∀ step, ∃ t, exec (.stepStartAck ⟨step, term⟩) s = .next t ∧ t = s) ∧
      (∀ m, ∃ t, exec (.groupPauseRequest ⟨m, term⟩) s = .next t ∧ t = s))

/-- A cascade group loses members and its master (R298 to R302): heartbeats go to the master and the deputy, or from the master to
all; a member that misses the master tells the deputy; a master that misses a replica removes it and restarts the step under a
new GEN, or waits for the record that is on its way; one that misses more than half of the compute members stops until it hears enough
of them, and one that sees a higher TERM is a compute member again; the deputy takes over with miss reports of a majority, and resumes
with answers of a majority under a new deputy; a message of a lower TERM is ignored; a failover that does not end halts the group.
Rests on log entries 12, 178 and 182. -/
def Obligations.GroupsSurviveLosses : Prop :=
  ∀ s : State, s.flt.fatal = false → s.inGroup = true →
    ((s.isMaster = true →
        ∃ t, exec .heartbeatSend s = .next t ∧ (∀ m, m ∈ s.liveMembers → m ≠ s.net.self → NetMsg.heartbeat s.net.groupId m s.net.term ∈ t.netOut) ∧
          t = { s with netOut := t.netOut, netHeld := t.netHeld }) ∧
      (s.isMaster = false → s.net.deputy ≠ s.net.self → s.net.deputy ≠ s.net.master →
        ∃ t, exec .heartbeatSend s = .next t ∧
          t = { s with
            netOut := s.netOut ++ [.heartbeat s.net.groupId s.net.master s.net.term, .heartbeat s.net.groupId s.net.deputy s.net.term],
            netHeld := t.netHeld })) ∧
    (∀ p x term, s.member p = some x →
      (term < s.net.term → ∃ t, exec (.heartbeatReceive p term) s = .next t ∧ t = s) ∧
      (s.net.term ≤ term → s.isMaster = false →
        ∃ t, exec (.heartbeatReceive p term) s = .next t ∧ t.member p = some { x with lastHeard := s.edgeTime, missed := false } ∧
          (∀ m, m ≠ p → t.member m = s.member m) ∧ t = { s with net := { s.net with term := term, members := t.net.members, qps := t.net.qps } }) ∧
      (s.net.term < term → s.isMaster = true → s.net.deputy ≠ s.net.self →
        ∃ t, exec (.heartbeatReceive p term) s = .next t ∧ t.member p = some { x with lastHeard := s.edgeTime, missed := false } ∧
          t = { s with net := { s.net with
            term := term, master := s.net.deputy, deputy := s.deputyAfter s.net.deputy s.net.self, stopped := false,
            sentToDeputy := false, reports := [], holdFor := none, unsettled := [], notices := [], members := t.net.members,
            qps := t.net.qps } }) ∧
      (term = s.net.term → s.isMaster = true → s.net.stopped = true → s.net.sentToDeputy = true →
        2 * ((s.computeMembers.filter fun m => m != p && m != s.net.self && (s.member m).any (·.missed)).length + s.lostUntold.length) ≤
          s.computeMembers.length + s.lostUntold.length →
        ∃ t, exec (.heartbeatReceive p term) s = .next t ∧ t.member p = some { x with lastHeard := s.edgeTime, missed := false } ∧
          t = { s with net := { s.net with stopped := false, members := t.net.members, qps := t.net.qps } })) ∧
    (∀ p x, s.member p = some x → x.paused = false → p ≠ s.net.self →
      (s.isMaster = false → p = s.net.master → s.net.deputy ≠ s.net.self →
        ∃ t, exec (.peerMiss p) s = .next t ∧ t.member p = some { x with missed := true } ∧
          t = { s with netOut := s.netOut ++ [.missReport s.net.groupId s.net.deputy p s.net.term], netHeld := t.netHeld,
                         net := { s.net with members := t.net.members } }) ∧
      (s.isMaster = true →
        let missed := (s.computeMembers.filter fun m => m != s.net.self && (m == p || (s.member m).any (·.missed))).length + s.lostUntold.length
        let all := s.computeMembers.length + s.lostUntold.length
        (all < 2 * missed →
          ∃ t, exec (.peerMiss p) s = .next t ∧ t.net.stopped = true ∧ t.member p = some { x with missed := true } ∧
            t = { s with net := { s.net with stopped := true, members := t.net.members } }) ∧
        (2 * missed ≤ all → x.role = 0 → x.state = 1 → p ≠ s.net.deputy → ∀ r, s.net.sentToDeputy = true → s.net.record = some r →
          ∃ t, exec (.peerMiss p) s = .next t ∧ (t.member p).any (fun y => y.state == 2 && y.missed) = true ∧
            t.net.unsettled = s.net.unsettled ++ [p] ∧ t.net.record = some r ∧ t.net.gen = s.net.gen ∧ t.netOut = s.netOut ∧
            t.net.replicas = s.net.replicas ∧ bitAt (t.ev evNet).value 0 = true ∧ t.collectives = []) ∧
        (2 * missed ≤ all → x.role = 0 → x.state = 1 → s.standby = none → s.net.stages ≤ 1 → s.net.sentToDeputy = false →
          p ≠ s.net.deputy →
          ∃ t, exec (.peerMiss p) s = .next t ∧ (t.member p).any (fun y => y.state == 2 && y.missed) = true ∧
            t.net.replicas = s.net.replicas - 1 ∧ t.net.gen = s.net.gen + 1 ∧ bitAt (t.ev evNet).value 0 = true ∧ t.collectives = [] ∧
            t.net.notices = s.net.notices ++ [.lost p none] ∧
            (∀ m y, s.member m = some y → m ≠ p → y.role = 0 → y.state = 1 → x.replica < y.replica → y.replica ≠ 0xFFFF →
              (t.member m).any (·.replica == y.replica - 1) = true) ∧
            (∀ r, s.net.record = some r → t.net.sentToDeputy = true ∧ (t.net.record.any fun q => q.step == s.net.step &&
              q.gen == s.net.gen + 1 && q.decision == r.decision && q.notices == s.net.notices ++ [.lost p none] && t.netOut.getLast? == some (.stepStart s.net.groupId s.net.deputy q)) = true)))) ∧
    (∀ m x term, s.member m = some x →
      (term < s.net.term → ∃ t, exec (.missReport m term) s = .next t ∧ t = s) ∧
      (s.net.term ≤ term → s.net.self = s.net.deputy → s.isMaster = false → s.net.state ≠ .failover → s.net.misses.contains m = false →
        let n := (s.computeMembers.filter fun c => c == m || s.net.misses.contains c).length
        (s.computeMembers.length < 2 * n →
          ∃ t, exec (.missReport m term) s = .next t ∧ t.net.term = term + 1 ∧ t.net.state = .failover ∧
            t.net.answers = [(s.net.self, s.net.step)] ∧
            t.net.reports = (if (s.contexts.any fun c => c.2.queues.any fun q => q.stepGate) && s.stepDone s.net.step then
              [(s.net.self, s.memberStatus s.net.step)] else []) ∧
            (∀ r k, s.net.record = some r → k ∈ s.liveMembers → k ≠ s.net.self → NetMsg.takeover s.net.groupId k (term + 1) r ∈ t.netOut) ∧
            t = { s with net := t.net, netOut := t.netOut, netHeld := t.netHeld }) ∧
        (2 * n ≤ s.computeMembers.length →
          ∃ t, exec (.missReport m term) s = .next t ∧ t = { s with net := { s.net with term := term, misses := s.net.misses ++ [m] } }))) ∧
    (∀ p term (r : StepRecord),
      (term < s.net.term → ∃ t, exec (.takeover p term r) s = .next t ∧ t = s) ∧
      (term = s.net.term → s.net.master = p ∨ s.net.self = p → ∃ t, exec (.takeover p term r) s = .next t ∧ t = s) ∧
      (s.net.term < term ∨ term = s.net.term ∧ s.net.master ≠ p ∧ s.net.self ≠ p →
        ∃ t, exec (.takeover p term r) s = .next t ∧ NetMsg.takeoverAnswer s.net.groupId p term s.net.step ∈ t.netOut ∧
          (∀ c, (s.contexts.find? fun c => c.2.queues.any fun q => q.stepGate) = some c → s.stepDone c.2.step = true →
            NetMsg.stepEnd s.net.groupId p term c.2.step (s.memberStatus c.2.step) (64 * s.ckp.lsn.toNat) ∈ t.netOut) ∧
          t = { s with netOut := t.netOut, netHeld := t.netHeld, net := { s.net with
            term := term, master := p, deputy := s.deputyAfter p s.net.master, state := .failover, sentToDeputy := false, reports := [],
            stopped := false, holdFor := none, unsettled := [], notices := [] } })) ∧
    (∀ m (step : Word), s.net.state = .failover → s.net.self = s.net.deputy →
      let answers := (s.net.answers.filter fun a => a.1 != m) ++ [(m, step)]
      let n := (s.computeMembers.filter fun c => answers.any fun a => a.1 == c).length
      (2 * n ≤ s.computeMembers.length →
        ∃ t, exec (.takeoverAnswer m s.net.term step) s = .next t ∧ t = { s with net := { s.net with answers := answers } }) ∧
      (s.computeMembers.length < 2 * n →
        ∃ t, exec (.takeoverAnswer m s.net.term step) s = .next t ∧ t.net.master = s.net.self ∧ t.net.state = .running ∧
          t.net.gen = s.net.gen + 1 ∧ t.net.term = s.net.term ∧ t.net.misses = [] ∧
          t.net.deputy = s.deputyAfter s.net.self s.net.master ∧ (t.net.deputy ≠ s.net.self →
            NetMsg.masterState s.net.groupId t.net.deputy s.net.term s.net.gen ∈ t.netOut) ∧ bitAt (t.ev evNet).value 1 = true ∧
          (∀ a r, a ∈ answers → s.net.record = some r → a.1 ≠ s.net.self → a.2 ≠ r.step → NetMsg.stepStart s.net.groupId a.1 r ∈ t.netOut))) ∧
    (s.net.state = .failover ∨ (s.member s.net.master).any (·.missed) = true →
      ∃ t, exec .failoverLimit s = .next t ∧ t.net = { s.net with state := .halted } ∧ bitAt (t.ev evNet).value 2 = true ∧
        t = { s with net := t.net, events := t.events, plk := t.plk, out := t.out })

/-- Collectives (R303 to R307): the ready counter starts the next entry of a context's ring once every other member of its set has
the same entry in the ring of its tag; one whose counter lags waits, one that differs from a member's ends the context, a bad one keeps its code;
with every input an entry writes its result at DST, completes in its place in the ring, and adds 1 to its done counter. Rests
on log entries 82 and 181. -/
def Obligations.CollectivesRun : Prop :=
  (∀ (s : State) (c d : Nat) (come : List (Nat × Nat × List Byte)), s.flt.fatal = false → s.isOpen 76 = true →
    let k := s.ctx c
    let peers := State.tagged k.ringTag come
    let x := k.ringHead + BitVec.ofNat 32 (s.collectives.filter fun y => y.ctx == c).length
    let e := s.collEntry c x
    let others := s.collOthers e
    let bytes := s.collBytes e
    k.ringLog2 ≠ 0 → k.state ≠ .free → k.state ≠ .teardown → x ≠ k.ringTail → s.ctxOf (le e 4 4) = some d →
    (((s.ctx d).sync.getD (fld (le e 0x28 1) 2 0) 0 - BitVec.ofNat 32 (le e 0x2C 4)).toInt < 0 →
      ∃ t, exec (.collectiveStart c come) s = .next t ∧ t = s) ∧
    (0 ≤ ((s.ctx d).sync.getD (fld (le e 0x28 1) 2 0) 0 - BitVec.ofNat 32 (le e 0x2C 4)).toInt →
      (le e 0 4 = 1 → s.groupV1 = false → s.collClean c e = false →
        ∃ t, exec (.collectiveStart c come) s = .next t ∧
          t = { s with collectives := s.collectives ++ [{ ctx := c, entry := x, code := some .refusedInfeasible, word := 0 }] }) ∧
      (le e 0 4 = 1 → s.groupV1 = false → s.collClean c e = true → (others.all fun m => peers.any fun p => p.1 == m) = false →
        ∃ t, exec (.collectiveStart c come) s = .next t ∧ t = s) ∧
      (le e 0 4 = 1 → s.groupV1 = false → s.collClean c e = true → (others.all fun m => peers.any fun p => p.1 == m) = true →
        ((others.all fun m => (peers.filter fun p => p.1 == m).all fun p => collAgrees e p.2) = true →
          s.accessFenced 0 (collSrc e) bytes.1 = none → s.accessFenced 0 (collDst e) bytes.2 = none →
          (bytes.1 ≠ 0 → s.accessOk (s.ctx d).ptn 0 (collSrc e) bytes.1 false false = true) →
          (bytes.2 ≠ 0 → s.accessOk (s.ctx d).ptn 0 (collDst e) bytes.2 true false = true) →
          ∃ t, exec (.collectiveStart c come) s = .next t ∧
            t = { s with
              collectives := s.collectives ++ [{ ctx := c, entry := x, code := none, word := 0 }], netOut := s.netOut ++ [.collective c k.ringTag x],
              netHeld := t.netHeld }) ∧
        ((others.all fun m => (peers.filter fun p => p.1 == m).all fun p => collAgrees e p.2) = false →
          ∃ t, exec (.collectiveStart c come) s = .next t ∧ (t.ctx c).state = .teardown ∧ bitAt (t.ev evNet).value 3 = true ∧
            t.collectives = s.collectives ∧ t.netOut = s.netOut)))) ∧
  ∀ (s : State) (c h : Nat) (y : Collective) (inputs : List (Nat × List Byte)) (words : List Word), s.flt.fatal = false →
    s.linkUp = true → s.isOpen 76 = true → s.collectives = [y] → y.ctx = c → parseAddr (s.crAt c y.entry + 0x38) = .host h →
    s.crAt c y.entry % 64 = 0 → s.unacked c 5 y.entry = false →
    let e := s.collEntry c y.entry
    let completes : State → Status → Nat → Prop := fun t st word =>
      t.mem.readAll (hostKey h) 8 = leBytes 1 st.code ++ leBytes 1 (collAttempt e) ++ zeros 2 ++ leBytes 4 word ∧
      t.collectives = [] ∧ (t.ctx c).ringHead = y.entry + 1 ∧ ∀ d, s.ctxOf (le e 4 4) = some d → (s.ctx d).sync.length = 8 →
        (t.ctx d).sync.getD (collDone e) 0 = (s.ctx d).sync.getD (collDone e) 0 + 1
    (∀ st, y.code = some st → bitAt y.word 16 = false →
      ∃ t, exec (.collectiveComplete c inputs words) s = .next t ∧ completes t st y.word ∧
        t = { s with collectives := [], contexts := t.contexts, mem := t.mem, plk := t.plk, out := t.out }) ∧
    (∀ d k, y.code = none → s.ctxOf (le e 4 4) = some d → collOp e ≤ 2 →
      let r := s.collResult d e inputs
      let row := packRow (collOut e) r.1
      ((s.collOthers e).all fun m => inputs.any fun p => p.1 == m) = true → r.1 ≠ [] → r.2.2 = false → bitAt (le e 0x34 4) 16 = false →
      (words.all fun w => !bitAt w.toNat 16) = true → s.lies (s.ctx d).ptn 0 (collDst e) row.length k → fld (collDst e) 63 62 ≠ 2 →
      (2 ^ 60 ≤ k ∧ k + row.length ≤ 2 ^ 64) ∨ (k < 2 ^ 60 ∧ k % 65536 + row.length ≤ 65536 ∧ bitAt (s.attr (k / 65536)) 2 = false) →
      ∃ t, exec (.collectiveComplete c inputs words) s = .next t ∧ completes t .ok (s.collWord e words r.2.1 false) ∧
        t.mem.readAll k row.length = row ∧
        (∀ a, (a < k ∨ k + row.length ≤ a) → (a < hostKey h ∨ hostKey h + 8 ≤ a) → t.mem.read a = s.mem.read a) ∧
        (∀ m, m ∈ t.netOut → m ∈ s.netOut ∨ ∃ p prio, m = .pfc p prio) ∧
        t = { s with
          collectives := [], contexts := t.contexts, mem := t.mem, lines := t.lines, plk := t.plk, out := t.out,
          free := s.free + inputs.length, net := { s.net with qps := t.net.qps }, ports := t.ports, netOut := t.netOut, netHeld := t.netHeld })

/-- Ethernet ports and queue pairs (R287, R292 to R295): a port that goes DOWN is told and its connections resend; one that trains
comes UP, but for one out of service, and the token rings it carries recover; a PFC frame pauses its priority until it ends; a timeout resends, seven times, then the
connection fails; a CE mark is answered at most every 50 µs, a notification halves the rate at most as often, and without one
it rises by 1/64. Rests on log entry 80. -/
def Obligations.PortsAndQueuePairs : Prop :=
  ∀ (s : State) (p q : Nat), s.flt.fatal = false →
    (∃ t, exec (.portDown p) s = .next t ∧ t.port p = { s.port p with state := 2 } ∧ bitAt (t.ev evNet).value 5 = true ∧
      (∀ n, n ≠ p → t.port n = s.port n) ∧
      (∀ i, i ∈ s.connections → s.qpPort i ≠ t.qpPort i → NetMsg.resend i ∈ t.netOut) ∧
      t = { s with ports := t.ports, netOut := t.netOut, netHeld := t.netHeld, events := t.events, plk := t.plk, out := t.out }) ∧
    ((s.port p).state ≠ 3 →
      ∃ t, exec (.portLinkUp p) s = .next t ∧ t.port p = { s.port p with state := 0 } ∧ (∀ n, n ≠ p → t.port n = s.port n) ∧
        (∀ k g, tget s.rings k = some g → tget t.rings k =
          some (if g.lost = true ∧ t.qpPort (State.ringQp k) = some p then { g with lost := false } else g)) ∧
        (∀ i, i ∈ s.connections → s.qpPort i ≠ t.qpPort i → NetMsg.resend i ∈ t.netOut) ∧
        t = { s with ports := t.ports, netOut := t.netOut, netHeld := t.netHeld, rings := t.rings,
                     net := { s.net with qps := t.net.qps } }) ∧
    ((s.port p).state = 3 → ∃ t, exec (.portLinkUp p) s = .next t ∧ t = s) ∧
    (∀ prio quanta, prio < 8 →
      (∃ t, exec (.pfcPauseReceive p prio quanta) s = .next t ∧ bitAt (t.port p).paused prio = (quanta != 0) ∧
        (∀ n, n < 8 → n ≠ prio → bitAt (t.port p).paused n = bitAt (s.port p).paused n) ∧
        t.port p = { s.port p with paused := (t.port p).paused } ∧ (∀ n, n ≠ p → t.port n = s.port n) ∧
        t = { s with ports := t.ports, netHeld := t.netHeld }) ∧
      (∃ t, exec (.pfcPauseExpiry p prio) s = .next t ∧ bitAt (t.port p).paused prio = false ∧
        (∀ n, n < 8 → n ≠ prio → bitAt (t.port p).paused n = bitAt (s.port p).paused n) ∧
        t.port p = { s.port p with paused := (t.port p).paused } ∧ (∀ n, n ≠ p → t.port n = s.port n) ∧
        t = { s with ports := t.ports, netHeld := t.netHeld })) ∧
    ((s.qp q).failed = false → (s.qp q).retries < 7 →
      ∃ t, exec (.roceRetryTimeout q) s = .next t ∧ t.qp q = { s.qp q with retries := (s.qp q).retries + 1 } ∧
        (∀ n, n ≠ q → t.qp n = s.qp n) ∧ t.netOut = s.netOut ++ [.resend q] ∧
        (∀ n, s.qpPort q = some n → (t.port n).retrans = satAdd 16 (s.port n).retrans 1) ∧
        t = { s with net := { s.net with qps := t.net.qps }, ports := t.ports, netOut := t.netOut, netHeld := t.netHeld }) ∧
    ((s.qp q).failed = false → 7 ≤ (s.qp q).retries →
      let m := (q - s.net.qpnBase) / 2
      let ofGroup : Prop := s.net.qpnBase ≤ q ∧ q < s.net.qpnBase + 2048 ∧ s.inGroup = true
      (¬ ofGroup → (q < 0x100000 ∨ 0x101000 ≤ q) → (q < 0x200000 ∨ 0x202000 ≤ q) → (q < 0x300000 + 8 * s.ckp.candidate ∨ 0x300000 + 8 * s.ckp.candidate + s.ckp.connections ≤ q) →
        ∃ t, exec (.roceRetryTimeout q) s = .next t ∧ t.qp q = { s.qp q with failed := true } ∧ (∀ n, n ≠ q → t.qp n = s.qp n) ∧
          t = { s with net := { s.net with qps := t.net.qps } }) ∧
      (∀ g, ¬ ofGroup → 0x200000 ≤ q → q < 0x202000 → tget s.rings (q - 0x200000) = some g → g.peer = true → g.lost = false →
        ∃ t, exec (.roceRetryTimeout q) s = .next t ∧ t.qp q = { s.qp q with failed := true } ∧ (∀ n, n ≠ q → t.qp n = s.qp n) ∧
          tget t.rings (q - 0x200000) = some { g with lost := true } ∧ bitAt (t.ev evSrv).value 5 = true) ∧
      (∀ x, ofGroup → s.isMaster = true → s.member m = some x → x.state = 1 → x.role ≠ 2 → m ≠ s.net.self →
        ∃ t, exec (.roceRetryTimeout q) s = .next t ∧ t.qp q = { s.qp q with failed := true } ∧ (∀ n, n ≠ q → t.qp n = s.qp n) ∧
          ((t.member m).any fun y => y.state == 2 || y.state == 3) = true ∧ bitAt (t.ev evNet).value 0 = true)) ∧
    (s.since50us (s.qp q).cnpTx = true →
      ∃ t, exec (.cePacketReceive q) s = .next t ∧ t.qp q = { s.qp q with cnpTx := some s.edgeTime } ∧ (∀ n, n ≠ q → t.qp n = s.qp n) ∧
        t = { s with net := { s.net with qps := t.net.qps }, netOut := s.netOut ++ [.cnp q], netHeld := t.netHeld }) ∧
    (s.since50us (s.qp q).cnpTx = false → ∃ t, exec (.cePacketReceive q) s = .next t ∧ t = s) ∧
    (∃ t, exec (.cnpReceive q) s = .next t ∧
      (s.since50us (s.qp q).cnpRx = true → t.qp q = { s.qp q with rateHalf := (s.qp q).rateHalf + 1, cnpRx := some s.edgeTime }) ∧
      (s.since50us (s.qp q).cnpRx = false → t.qp q = s.qp q) ∧ (∀ n, n ≠ q → t.qp n = s.qp n) ∧
      (∀ n, s.qpPort q = some n → (t.port n).cnp = satAdd 16 (s.port n).cnp 1) ∧
      t = { s with net := { s.net with qps := t.net.qps }, ports := t.ports }) ∧
    (let x := s.qp q
      let n := x.rateNum + 2 ^ x.rateHalf
      ∃ t, exec (.rateIncreaseTimer q) s = .next t ∧
        (n < 64 * 2 ^ x.rateHalf → (t.qp q).rateNum = n ∧ (t.qp q).rateHalf = x.rateHalf) ∧
        (64 * 2 ^ x.rateHalf ≤ n → (t.qp q).rateNum = 64 ∧ (t.qp q).rateHalf = 0) ∧ (∀ k, k ≠ q → t.qp k = s.qp k) ∧
        t = { s with net := { s.net with qps := t.net.qps } })

/-- Checkpoints reach durability or end (R314, R316 to R325, R328): a request waits for the next step boundary; the capture begins
when every context of the step is held, and protects the regions; an acknowledged shard frees its copies, and after the last
the manifest goes out; a shard refused three times fails the checkpoint; an acknowledged manifest makes it durable, or
CORRELATED over an equal feed; a flush that is not acknowledged in time loses the session; the time limit and a closed session
abandon a running checkpoint, and one that was streaming as input power was lost ends with its last shard. Rests on log entries 91
and 92. -/
def Obligations.CheckpointsReachDurability : Prop :=
  ∀ s : State, s.flt.fatal = false →
    (s.ckpPtn ≠ none → ∃ t, exec .checkpointRequest s = .next t ∧ t = { s with ckp := { s.ckp with requested := true } }) ∧
    (∀ p, s.ckpPtn = some p → s.ckp.due = true → s.ckp.state = .capturing → s.stepCtxs p ≠ [] → s.ckp.copying = [] →
      ((s.stepCtxs p).all fun c => s.ckp.captureHeld.contains c) = true → s.ckpSession = false →
      ((s.stepCtxs p).all fun c => (s.ctx c).queues.all fun q => q.cmds.isEmpty) = true →
      ∃ t, exec .checkpointCapture s = .next t ∧ t.ckp.state = .streaming ∧ t.ckp.ident = s.ckp.ident ∧ t.ckp.requested = false ∧
        t.ckp.due = false ∧ t.ckp.captureHeld = [] ∧ t.ckp.ckptLsn = s.ckp.endLsn ∧ t.ckp.reserve = s.reserveLists p ∧
        t.ckp.implicit.length = 4 ∧ t.ckp.chans = s.chanSnapshot p ∧ (∀ c, c ∈ s.stepCtxs p → (t.ctx c).captureDue = false) ∧
        (∀ r n f, r ∈ s.regions → n < r.pages → s.pageFrame p (r.first + n) = some f → bitAt (t.attr f) 2 = true) ∧
        (∀ r, r ∈ s.regions → r.pages ≠ 0 → (t.ckp.shards.any fun x => x.region == r.ident && x.first == r.first && !x.sent) = true)) ∧
    (∀ p, s.ckpPtn = some p → s.ckp.due = true → ((s.stepCtxs p).all fun c => s.ckp.captureHeld.contains c) = false →
      ∃ t, exec .checkpointCapture s = .next t ∧ t = s) ∧
    (∀ p conn x i, s.ckpPtn = some p → s.inFlight conn = some (x, i) → s.ckp.state = .streaming →
      (s.ckp.cut = true → (s.ckp.shards.zipIdx.all fun y => y.2 == i || !(y.1.sent && !y.1.acked)) = true →
        ∃ t, exec (.shardAck conn) s = .next t ∧ t.ckp.state = .abandoned ∧ bitAt (t.ev evCkp).value 1 = true) ∧
      ((s.ckp.shards.all (·.sent)) = true → s.ckpSession = true → s.ckp.cut = false →
        let fs := s.shardFrames p x
        let others := (s.ckp.shards.zipIdx.all fun y => y.2 == i || y.1.acked)
        ∃ t, exec (.shardAck conn) s = .next t ∧ (t.ckp.shards[i]?).any (fun y => y.acked) = true ∧
          t.ckp.copyMap = s.ckp.copyMap.filter (fun c => !fs.contains c.1) ∧
          (others = false → t = { s with ckp := { s.ckp with shards := t.ckp.shards, copyMap := t.ckp.copyMap, reserve := t.ckp.reserve } }) ∧
          (others = true → t.ckp.state = .sealing ∧ t.ckp.manifestSent = true ∧
            (t.netOut.getLast?.any fun m => match m with
              | .manifest l => le l 4 4 == s.ckp.ident % 2 ^ 32 && le l 8 4 == s.ckp.step.toNat &&
                  le l 0xC 4 == s.ckp.shards.length % 2 ^ 32
              | _ => false) = true)) ∧
      (x.refusals < 2 →
        ∃ t, exec (.shardNak conn) s = .next t ∧ t.netOut = s.netOut ++ [.shard conn i] ∧
          (t.ckp.shards[i]?).any (fun y => y.refusals == x.refusals + 1 && !y.acked) = true ∧
          t = { s with ckp := { s.ckp with shards := t.ckp.shards }, netOut := t.netOut, netHeld := t.netHeld }) ∧
      (2 ≤ x.refusals →
        ∃ t, exec (.shardNak conn) s = .next t ∧ t.ckp.state = .failed ∧ bitAt (t.ev evCkp).value 2 = true ∧ t.ckp.copyMap = [] ∧
          t.ckp.reserve = [])) ∧
    (∀ p, s.ckpPtn = some p → s.ckp.state = .sealing → s.ckp.manifestSent = true → s.ckp.cut = false →
      let open_ : State → Prop := fun t => ∀ f, s.frameOf p f = true → bitAt (t.attr f) 2 = false
      (s.ckp.mirror ≠ .correlated →
        ∃ t, exec .manifestAck s = .next t ∧ t.ckp.state = .durable ∧ t.ckp.durableId = s.ckp.ident ∧ t.ckp.durableStep = s.ckp.step ∧
          t.ckp.durableLsn = s.ckp.ckptLsn ∧ bitAt (t.ev evCkp).value 0 = true ∧ t.ckp.copyMap = [] ∧ open_ t ∧
          (s.net.state ≠ .solo → s.net.self ≠ s.net.master →
            NetMsg.durable s.net.groupId s.net.master s.net.term s.ckp.step ∈ t.netOut)) ∧
      (s.ckp.mirror = .correlated →
        ∃ t, exec .manifestAck s = .next t ∧ t.ckp.state = .correlated ∧ t.ckp.durableId = s.ckp.durableId ∧
          t.ckp.durableLsn = s.ckp.durableLsn ∧ open_ t)) ∧
    (∀ lsn, (s.ckpSession = true → s.ckp.flushed.toNat ≤ lsn → lsn < s.ckp.lsn.toNat →
        ∃ t, exec (.logFlushAck lsn) s = .next t ∧ t = { s with ckp := { s.ckp with flushed := BitVec.ofNat 64 (lsn + 1) } }) ∧
      (s.ckp.lsn.toNat ≤ lsn ∨ lsn < s.ckp.flushed.toNat → ∃ t, exec (.logFlushAck lsn) s = .next t ∧ t = s)) ∧
    (s.ckp.flushed.toNat < s.ckp.lsn.toNat → s.ckpSession = true → s.ckp.candidates = [] →
      ∃ t, exec .flushTimeout s = .next t ∧ bitAt (t.ev evCkp).value 4 = true ∧ t.ckp.session = 0 ∧ t.ckp.mirror = .none ∧
        t.ckp.retry = true ∧ t.ckp.flushed = t.ckp.lsn ∧ (s.ckptRuns = true → t.ckp.state = .abandoned)) ∧
    (s.ckp.lsn.toNat ≤ s.ckp.flushed.toNat → ∃ t, exec .flushTimeout s = .next t ∧ t = s) ∧
    (s.ckptRuns = true →
      ∃ t, exec .checkpointLimit s = .next t ∧ t.ckp.state = .abandoned ∧ bitAt (t.ev evCkp).value 1 = true ∧ t.ckp.copyMap = [] ∧
        t.ckp.captureHeld = [] ∧ (∀ c, t.ctx c = { s.ctx c with captureDue := false }) ∧
        (∀ p f, s.ckpPtn = some p → s.frameOf p f = true → bitAt (t.attr f) 2 = false)) ∧
    (s.ckptRuns = false → ∃ t, exec .checkpointLimit s = .next t ∧ t = s) ∧
    (s.ckpSession = true →
      ∃ t, exec .sessionClose s = .next t ∧ NetMsg.sessionClose ∈ t.netOut ∧ t.ckp.mirror = .none ∧ t.ckp.retry = false ∧
        t.ckp.session = 0 ∧ (s.ckptRuns = true → t.ckp.state = .abandoned ∧ ∀ c, t.ctx c = { s.ctx c with captureDue := false }) ∧
        (s.ckptRuns = false → t.contexts = s.contexts))

/-- Mirror sessions and restores (R323 to R332, R404): the source tries its candidates from the first, takes a session, or tries
the next; the retry timer and a lost session begin again; the partner answers a HELLO, keeps the shards and records whose
checks pass, refuses others, and seals a checkpoint only under a signed manifest whose digests it has; a restore that cannot
be is refused, one whose manifest does not verify ends with DIGEST_MISMATCH, and a good one leaves the partition's contexts
SAVED with their counters, and recomputes if asked, but for one from a live member's pages. Rests on log entries 39, 85, 87 and 140. -/
def Obligations.MirrorsAndRestoresWork : Prop :=
  ∀ s : State, s.flt.fatal = false →
    let tries : State → Nat → Prop := fun t i => t.ckp.mirror = .handshake ∧ t.ckp.candidate = i ∧ t.ckp.session = 0 ∧
      (t.netOut.getLast?.any fun m => match m with
        | .mirrorHello n h => n == i && h.protocol == 1 && h.feed == s.boot.feed
        | _ => false) = true
    (s.ckpSession = false → s.isOpen 76 = true → ∀ l r, s.ckp.candidates = l :: r →
      (∃ t, exec .sessionReopen s = .next t ∧ tries t 0 ∧ t.ckp.retry = true ∧
        (∀ n, n < s.ckp.connections → t.qp (0x300000 + n) = Qp.reset) ∧
        (∀ q, q < 0x300000 ∨ 0x300000 + s.ckp.connections ≤ q → t.qp q = s.qp q) ∧
        t = { s with ckp := { s.ckp with mirror := .handshake, candidate := 0, session := 0, retry := true }, netOut := t.netOut,
                     netHeld := t.netHeld, free := s.free + 1, net := { s.net with qps := t.net.qps } }) ∧
      (s.ckp.retry = true → s.ckp.mirror = .none ∨ s.ckp.mirror = .lost →
        ∃ t, exec .mirrorRetryTimer s = .next t ∧ tries t 0 ∧
          t = { s with ckp := { s.ckp with mirror := .handshake, candidate := 0, session := 0 }, netOut := t.netOut, netHeld := t.netHeld,
                       free := s.free + 1, net := { s.net with qps := t.net.qps } })) ∧
    (s.ckp.retry = false → ∃ t, exec .mirrorRetryTimer s = .next t ∧ t = s) ∧
    (∀ feed handle, s.ckp.mirror = .handshake →
      (feed ≠ s.boot.feed →
        ∃ t, exec (.mirrorHelloAnswer 0 feed handle) s = .next t ∧ t.ckp.mirror = .active ∧ t.ckp.partnerFeed = feed ∧
          t.ckp.session = handle ∧ (s.ckpPtn ≠ none → t.ckp.requested = true) ∧
          t = { s with ckp := t.ckp, netOut := t.netOut, netHeld := t.netHeld }) ∧
      (feed = s.boot.feed →
        ∃ t, exec (.mirrorHelloAnswer 0 feed handle) s = .next t ∧ t.ckp.mirror = .correlated ∧ t.ckp.session = handle ∧
          bitAt (t.ev evCkp).value 6 = true) ∧
      (s.isOpen 76 = true →
        (∀ l, s.ckp.candidates[s.ckp.candidate + 1]? = some l →
          ∃ t, exec (.mirrorHelloAnswer Status.mirrorSameFeed.code feed handle) s = .next t ∧ tries t (s.ckp.candidate + 1) ∧
            t.ckp.lastStatus = .mirrorSameFeed ∧ bitAt (t.ev evCkp).value 5 = true) ∧
        (s.ckp.candidates.length ≤ s.ckp.candidate + 1 →
          ∃ t, exec (.mirrorHelloAnswer Status.refusedCapacity.code feed handle) s = .next t ∧ t.ckp.mirror = .none ∧
            t.ckp.lastStatus = .refusedCapacity ∧
            t = { s with ckp := { s.ckp with mirror := .none, session := 0, lastStatus := .refusedCapacity } }))) ∧
    (s.ckpSession = true → s.ckp.candidates = [] →
      ∃ t, exec .partnerSessionClose s = .next t ∧ bitAt (t.ev evCkp).value 4 = true ∧ t.ckp.mirror = .none ∧ t.ckp.session = 0 ∧
        t.ckp.flushed = t.ckp.lsn ∧ (s.ckptRuns = true → t.ckp.state = .abandoned)) ∧
    (s.ckpSession = false → ∃ t, exec .partnerSessionClose s = .next t ∧ t = s) ∧
    (s.isOpen 76 = true →
      (∀ h : MirrorHelloMsg,
        (h.protocol ≠ 1 → ∃ t, exec (.mirrorHello h) s = .next t ∧
          t = { s with netOut := s.netOut ++ [.mirrorAnswer .versionUnsupported s.boot.feed 0], netHeld := t.netHeld }) ∧
        (∀ i hs p a, h.protocol = 1 → s.boot.mirrorMin ≤ 1 → s.reportAccepted h.report (sha384 (slice Config.serverRecord 0 32)) = true →
          (h.feed = s.boot.feed → h.force = true) → s.sesHandles.take 4 = some (i, hs) → s.ptnOf s.ckp.storePtn = some p →
          s.storePlace h.pages = some a →
          ∃ t, exec (.mirrorHello h) s = .next t ∧ ((tget t.ckp.served i).any fun x => x.feed == h.feed && x.first == a &&
              x.pages == h.pages && x.key == slice h.report 0x70 96 && x.latest == none && x.log == []) = true ∧
            (∀ j, j ≠ i → tget t.ckp.served j = tget s.ckp.served j) ∧
            t.netOut = s.netOut ++ [.mirrorAnswer .ok s.boot.feed (t.sesHandle i)] ∧
            t = { s with ckp := { s.ckp with served := t.ckp.served }, sesHandles := hs, boot := t.boot, mem := t.mem, free := s.free + 1,
                         netOut := t.netOut, netHeld := t.netHeld })) ∧
      (∀ v k x, s.servedOf v = some (k, x) →
        (∀ i data digest, (sha384 data = digest →
            ∃ t, exec (.shardReceive v i data digest) s = .next t ∧ t.netOut = s.netOut ++ [.shardAnswer v i true] ∧
              tget t.ckp.served k = some (x.setSlot x.other { x.slot x.other with
                shards := tput (x.slot x.other).shards i (digest ++ data) }) ∧
              t = { s with ckp := { s.ckp with served := t.ckp.served }, netOut := t.netOut, netHeld := t.netHeld }) ∧
          (sha384 data ≠ digest →
            ∃ t, exec (.shardReceive v i data digest) s = .next t ∧ t = { s with netOut := s.netOut ++ [.shardAnswer v i false], netHeld := t.netHeld })) ∧
        (∀ l, (manifestSigned l x.key = false → ∃ t, exec (.manifestReceive v l) s = .next t ∧ t = s) ∧
          (manifestSigned l x.key = true → bitAt (le l 0x18 4) 0 = false →
            ((List.range (le l 0xC 4)).all fun i => (tget (x.slot x.other).shards i).any fun z =>
              z.take 48 == slice (manifestEntry l i) 0x10 48) = true →
            ∃ t, exec (.manifestReceive v l) s = .next t ∧ t.netOut = s.netOut ++ [.manifestAck v] ∧
              ((tget t.ckp.served k).any fun y => y.latest == some x.other && (y.slot x.other).manifest == some l &&
                y.slot (!x.other) == { shards := [], manifest := none }) = true ∧
              t = { s with ckp := { s.ckp with served := t.ckp.served }, netOut := t.netOut, netHeld := t.netHeld })) ∧
        (∀ l, (l.length = 64 → crc32c (slice l 0 0x3C) = le l 0x3C 4 →
            ∃ t, exec (.logRecordReceive v l) s = .next t ∧ t.netOut = s.netOut ++ [.logAck v (le l 8 8)] ∧
              tget t.ckp.served k = some { x with log := tput x.log (le l 8 8) l } ∧
              t = { s with ckp := { s.ckp with served := t.ckp.served }, netOut := t.netOut, netHeld := t.netHeld }) ∧
          (crc32c (slice l 0 0x3C) ≠ le l 0x3C 4 → ∃ t, exec (.logRecordReceive v l) s = .next t ∧ t = s)))) ∧
    (∀ (a : Nat) (f : RestoreFetch), a % 64 ≠ 0 ∨ s.requestOk a 64 = false →
      s.ckp.restoreDue = false ∨ s.restoreRefusal s.ownRestore ≠ .ok → ∃ t, exec (.restore a f) s = .next t ∧ t = s) ∧
    ∀ (a h : Nat) (f : RestoreFetch), s.linkUp = true → a % 64 = 0 → parseAddr a = .host h → s.requestOk a 64 = true →
      let d := s.fwRead a 64
      let result : State → Status → Nat → Prop := fun t st detail =>
        (t.mem.read (hostKey (h + 0x30))).toNat = st.code ∧ (t.mem.read (hostKey (h + 0x31))).toNat = detail
      (s.restoreRefusal d ≠ .ok →
        ∃ t, exec (.restore a f) s = .next t ∧ result t (s.restoreRefusal d) 0 ∧ t = { s with mem := t.mem, plk := t.plk, out := t.out }) ∧
      (∀ p, s.restoreRefusal d = .ok → s.ptnOf (le d 4 4) = some p →
        (manifestSigned f.manifest (s.manifestKey f.manifest) = false →
          ∃ t, exec (.restore a f) s = .next t ∧ result t .digestMismatch 1 ∧
            (∀ e, e ∈ s.contexts → e.2.ptn = p → e.2.state ≠ .free → e.2.state ≠ .teardown →
              (t.ctx e.1).barred = true ∧ (t.ctx e.1).state = .saved)) ∧
        (manifestSigned f.manifest (s.manifestKey f.manifest) = true → le d 0xC 4 = 0 →
          ((List.range (le f.manifest 0xC 4)).all fun i => sha384 (f.shards.getD i []) == slice (manifestEntry f.manifest i) 0x10 48) = true →
          let state := (manifestRegion f.manifest 0xFFF0).flatMap fun i => f.shards.getD i []
          s.offStep f.durable (le state 8 4) = false →
            let taken : State → Prop := fun t => ∀ c, c ∈ s.ckptCtxs p → (t.ctx c).state = .saved ∧ (t.ctx c).hasImage = true ∧
              (t.ctx c).barred = false ∧ (t.ctx c).seed = BitVec.ofNat 64 (le state 0x20 8) ∧ (t.ctx c).lrH = le state 0xD 1
            (f.mate = true → s.net.state ≠ .solo →
              ∃ t, exec (.restore a f) s = .next t ∧ result t .ok 0 ∧ taken t ∧ t.ckp.replay = none ∧
                bitAt (t.ev evCkp).value 10 = true) ∧
            ∀ log, f.mate = false → wholeLog f.log (le state 0x18 8) = some log →
            let last := (log.filter fun l => le l 0 1 == 2).getLast?.map fun l => le l 0x10 4
            (le d 0x14 4 = 1 →
              ∃ t, exec (.restore a f) s = .next t ∧ result t .ok 0 ∧ taken t ∧ t.ckp.replay = none ∧
                bitAt (t.ev evCkp).value 10 = true) ∧
            (∀ n, le d 0x14 4 = 0 → le d 0x10 4 = 0 → last = some n → le state 8 4 ≤ n →
              ∃ t, exec (.restore a f) s = .next t ∧ taken t ∧
                t.ckp.replay = some { addr := a, ident := le f.manifest 4 4, log := log, target := n, steps := 0 })))
end

