-- ==== Sys2Proof/Laws/State.lean ====
section
/-! SUPPORT. The tables and the updates of the state: an entry read back, and for each named update every field that it
leaves as it was. -/

namespace Sys2Proof.Machine

/-! ### Tables -/

@[simp] theorem tget_tput_same {α : Type} (t : Tab α) (k : Nat) (a : α) : tget (tput t k a) k = some a := by
  induction t with
  | nil => simp [tput, tget]
  | cons p r ih =>
    obtain ⟨j, b⟩ := p
    by_cases h : k < j
    · simp [tput, tget, h]
    · by_cases e : k = j
      · simp [tput, tget, e]
      · simp [tput, tget, h, e, Ne.symm e, ih]

theorem tget_tput_ne {α : Type} (t : Tab α) {k i : Nat} (a : α) (h : i ≠ k) : tget (tput t k a) i = tget t i := by
  induction t with
  | nil => simp [tput, tget, Ne.symm h]
  | cons p r ih =>
    obtain ⟨j, b⟩ := p
    by_cases l : k < j
    · simp [tput, tget, l, Ne.symm h]
    · by_cases e : k = j
      · subst e; simp [tput, tget, Ne.symm h]
      · by_cases c : j = i
        · subst c; simp [tput, tget, l, e]
        · simp [tput, tget, l, e, c, ih]

theorem tget_tput {α : Type} (t : Tab α) (k i : Nat) (a : α) :
    tget (tput t k a) i = if i = k then some a else tget t i := by
  by_cases h : i = k
  · subst h; simp
  · simp [h, tget_tput_ne t a h]

@[simp] theorem tgetD_tput_same {α : Type} (t : Tab α) (k : Nat) (a d : α) : tgetD (tput t k a) k d = a := by
  simp [tgetD]

theorem tgetD_tput_ne {α : Type} (t : Tab α) {k i : Nat} (a d : α) (h : i ≠ k) :
    tgetD (tput t k a) i d = tgetD t i d := by
  simp [tgetD, tget_tput_ne t a h]

@[simp] theorem tget_tdel_same {α : Type} (t : Tab α) (k : Nat) : tget (tdel t k) k = none := by
  induction t with
  | nil => rfl
  | cons p r ih =>
    obtain ⟨j, b⟩ := p
    by_cases e : j = k <;> simp [tdel, tget, e, ih]

theorem tget_tdel_ne {α : Type} (t : Tab α) {k i : Nat} (h : i ≠ k) : tget (tdel t k) i = tget t i := by
  induction t with
  | nil => rfl
  | cons p r ih =>
    obtain ⟨j, b⟩ := p
    by_cases e : j = k
    · subst e; simp [tdel, tget, Ne.symm h, ih]
    · by_cases c : j = i
      · subst c; simp [tdel, tget, e]
      · simp [tdel, tget, e, c, ih]

theorem tget_tmap {α : Type} (f : Nat → α → α) (t : Tab α) (k : Nat) : tget (tmap f t) k = (tget t k).map (f k) := by
  induction t with
  | nil => rfl
  | cons p r ih =>
    obtain ⟨j, b⟩ := p
    by_cases e : j = k
    · subst e; simp [tmap, tget]
    · simpa [tmap, tget, e] using ih

namespace State

/-! ### The updates -/

@[simp] theorem setEv_frame (s : State) (e : Nat) (r : EventReg) :
    (s.setEv e r).variant = s.variant ∧ (s.setEv e r).pending = s.pending ∧ (s.setEv e r).mem = s.mem ∧
    (s.setEv e r).free = s.free ∧ (s.setEv e r).domains = s.domains ∧ (s.setEv e r).cores = s.cores ∧
    (s.setEv e r).groups = s.groups ∧ (s.setEv e r).quads = s.quads ∧ (s.setEv e r).arrays = s.arrays ∧
    (s.setEv e r).contexts = s.contexts ∧ (s.setEv e r).ctxHandles = s.ctxHandles ∧ (s.setEv e r).ptns = s.ptns ∧
    (s.setEv e r).ptnHandles = s.ptnHandles ∧ (s.setEv e r).granules = s.granules ∧ (s.setEv e r).batch = s.batch ∧
    (s.setEv e r).jobs = s.jobs ∧ (s.setEv e r).jobHandles = s.jobHandles ∧ (s.setEv e r).channels = s.channels ∧
    (s.setEv e r).chanHandles = s.chanHandles ∧ (s.setEv e r).hbm = s.hbm ∧ (s.setEv e r).pcs = s.pcs ∧
    (s.setEv e r).attrs = s.attrs ∧ (s.setEv e r).dmas = s.dmas ∧ (s.setEv e r).links = s.links ∧
    (s.setEv e r).delivered = s.delivered ∧ (s.setEv e r).streams = s.streams ∧ (s.setEv e r).streamHandles = s.streamHandles ∧
    (s.setEv e r).engines = s.engines ∧ (s.setEv e r).hotset = s.hotset ∧ (s.setEv e r).tests = s.tests ∧
    (s.setEv e r).instances = s.instances ∧ (s.setEv e r).requests = s.requests ∧ (s.setEv e r).reqHandles = s.reqHandles ∧
    (s.setEv e r).adapters = s.adapters ∧ (s.setEv e r).adpHandles = s.adpHandles ∧ (s.setEv e r).rings = s.rings ∧
    (s.setEv e r).ringHandles = s.ringHandles ∧ (s.setEv e r).published = s.published ∧ (s.setEv e r).ports = s.ports ∧
    (s.setEv e r).net = s.net ∧ (s.setEv e r).collectives = s.collectives ∧ (s.setEv e r).ckp = s.ckp ∧
    (s.setEv e r).sesHandles = s.sesHandles ∧ (s.setEv e r).flt = s.flt ∧ (s.setEv e r).pwr = s.pwr ∧
    (s.setEv e r).plk = s.plk ∧ (s.setEv e r).boot = s.boot ∧ (s.setEv e r).sel = s.sel ∧
    (s.setEv e r).pins = s.pins ∧ (s.setEv e r).out = s.out ∧ (s.setEv e r).netOut = s.netOut ∧
    (s.setEv e r).netHeld = s.netHeld ∧ (s.setEv e r).ctl = s.ctl ∧ (s.setEv e r).lines = s.lines := by
  and_intros <;> rfl

@[simp] theorem setDom_frame (s : State) (d : Nat) (x : Domain) :
    (s.setDom d x).variant = s.variant ∧ (s.setDom d x).pending = s.pending ∧ (s.setDom d x).mem = s.mem ∧
    (s.setDom d x).free = s.free ∧ (s.setDom d x).events = s.events ∧ (s.setDom d x).cores = s.cores ∧
    (s.setDom d x).groups = s.groups ∧ (s.setDom d x).quads = s.quads ∧ (s.setDom d x).arrays = s.arrays ∧
    (s.setDom d x).contexts = s.contexts ∧ (s.setDom d x).ctxHandles = s.ctxHandles ∧ (s.setDom d x).ptns = s.ptns ∧
    (s.setDom d x).ptnHandles = s.ptnHandles ∧ (s.setDom d x).granules = s.granules ∧ (s.setDom d x).batch = s.batch ∧
    (s.setDom d x).jobs = s.jobs ∧ (s.setDom d x).jobHandles = s.jobHandles ∧ (s.setDom d x).channels = s.channels ∧
    (s.setDom d x).chanHandles = s.chanHandles ∧ (s.setDom d x).hbm = s.hbm ∧ (s.setDom d x).pcs = s.pcs ∧
    (s.setDom d x).attrs = s.attrs ∧ (s.setDom d x).dmas = s.dmas ∧ (s.setDom d x).links = s.links ∧
    (s.setDom d x).delivered = s.delivered ∧ (s.setDom d x).streams = s.streams ∧ (s.setDom d x).streamHandles = s.streamHandles ∧
    (s.setDom d x).engines = s.engines ∧ (s.setDom d x).hotset = s.hotset ∧ (s.setDom d x).tests = s.tests ∧
    (s.setDom d x).instances = s.instances ∧ (s.setDom d x).requests = s.requests ∧ (s.setDom d x).reqHandles = s.reqHandles ∧
    (s.setDom d x).adapters = s.adapters ∧ (s.setDom d x).adpHandles = s.adpHandles ∧ (s.setDom d x).rings = s.rings ∧
    (s.setDom d x).ringHandles = s.ringHandles ∧ (s.setDom d x).published = s.published ∧ (s.setDom d x).ports = s.ports ∧
    (s.setDom d x).net = s.net ∧ (s.setDom d x).collectives = s.collectives ∧ (s.setDom d x).ckp = s.ckp ∧
    (s.setDom d x).sesHandles = s.sesHandles ∧ (s.setDom d x).flt = s.flt ∧ (s.setDom d x).pwr = s.pwr ∧
    (s.setDom d x).plk = s.plk ∧ (s.setDom d x).boot = s.boot ∧ (s.setDom d x).sel = s.sel ∧
    (s.setDom d x).pins = s.pins ∧ (s.setDom d x).out = s.out ∧ (s.setDom d x).netOut = s.netOut ∧
    (s.setDom d x).netHeld = s.netHeld ∧ (s.setDom d x).ctl = s.ctl ∧ (s.setDom d x).lines = s.lines := by
  and_intros <;> rfl

@[simp] theorem setCore_frame (s : State) (c : Nat) (x : Core) :
    (s.setCore c x).variant = s.variant ∧ (s.setCore c x).pending = s.pending ∧ (s.setCore c x).mem = s.mem ∧
    (s.setCore c x).free = s.free ∧ (s.setCore c x).events = s.events ∧ (s.setCore c x).domains = s.domains ∧
    (s.setCore c x).groups = s.groups ∧ (s.setCore c x).quads = s.quads ∧ (s.setCore c x).arrays = s.arrays ∧
    (s.setCore c x).contexts = s.contexts ∧ (s.setCore c x).ctxHandles = s.ctxHandles ∧ (s.setCore c x).ptns = s.ptns ∧
    (s.setCore c x).ptnHandles = s.ptnHandles ∧ (s.setCore c x).granules = s.granules ∧ (s.setCore c x).batch = s.batch ∧
    (s.setCore c x).jobs = s.jobs ∧ (s.setCore c x).jobHandles = s.jobHandles ∧ (s.setCore c x).channels = s.channels ∧
    (s.setCore c x).chanHandles = s.chanHandles ∧ (s.setCore c x).hbm = s.hbm ∧ (s.setCore c x).pcs = s.pcs ∧
    (s.setCore c x).attrs = s.attrs ∧ (s.setCore c x).dmas = s.dmas ∧ (s.setCore c x).links = s.links ∧
    (s.setCore c x).delivered = s.delivered ∧ (s.setCore c x).streams = s.streams ∧ (s.setCore c x).streamHandles = s.streamHandles ∧
    (s.setCore c x).engines = s.engines ∧ (s.setCore c x).hotset = s.hotset ∧ (s.setCore c x).tests = s.tests ∧
    (s.setCore c x).instances = s.instances ∧ (s.setCore c x).requests = s.requests ∧ (s.setCore c x).reqHandles = s.reqHandles ∧
    (s.setCore c x).adapters = s.adapters ∧ (s.setCore c x).adpHandles = s.adpHandles ∧ (s.setCore c x).rings = s.rings ∧
    (s.setCore c x).ringHandles = s.ringHandles ∧ (s.setCore c x).published = s.published ∧ (s.setCore c x).ports = s.ports ∧
    (s.setCore c x).net = s.net ∧ (s.setCore c x).collectives = s.collectives ∧ (s.setCore c x).ckp = s.ckp ∧
    (s.setCore c x).sesHandles = s.sesHandles ∧ (s.setCore c x).flt = s.flt ∧ (s.setCore c x).pwr = s.pwr ∧
    (s.setCore c x).plk = s.plk ∧ (s.setCore c x).boot = s.boot ∧ (s.setCore c x).sel = s.sel ∧
    (s.setCore c x).pins = s.pins ∧ (s.setCore c x).out = s.out ∧ (s.setCore c x).netOut = s.netOut ∧
    (s.setCore c x).netHeld = s.netHeld ∧ (s.setCore c x).ctl = s.ctl ∧ (s.setCore c x).lines = s.lines := by
  and_intros <;> rfl

@[simp] theorem setGroup_frame (s : State) (g : Nat) (x : Group) :
    (s.setGroup g x).variant = s.variant ∧ (s.setGroup g x).pending = s.pending ∧ (s.setGroup g x).mem = s.mem ∧
    (s.setGroup g x).free = s.free ∧ (s.setGroup g x).events = s.events ∧ (s.setGroup g x).domains = s.domains ∧
    (s.setGroup g x).cores = s.cores ∧ (s.setGroup g x).quads = s.quads ∧ (s.setGroup g x).arrays = s.arrays ∧
    (s.setGroup g x).contexts = s.contexts ∧ (s.setGroup g x).ctxHandles = s.ctxHandles ∧ (s.setGroup g x).ptns = s.ptns ∧
    (s.setGroup g x).ptnHandles = s.ptnHandles ∧ (s.setGroup g x).granules = s.granules ∧ (s.setGroup g x).batch = s.batch ∧
    (s.setGroup g x).jobs = s.jobs ∧ (s.setGroup g x).jobHandles = s.jobHandles ∧ (s.setGroup g x).channels = s.channels ∧
    (s.setGroup g x).chanHandles = s.chanHandles ∧ (s.setGroup g x).hbm = s.hbm ∧ (s.setGroup g x).pcs = s.pcs ∧
    (s.setGroup g x).attrs = s.attrs ∧ (s.setGroup g x).dmas = s.dmas ∧ (s.setGroup g x).links = s.links ∧
    (s.setGroup g x).delivered = s.delivered ∧ (s.setGroup g x).streams = s.streams ∧ (s.setGroup g x).streamHandles = s.streamHandles ∧
    (s.setGroup g x).engines = s.engines ∧ (s.setGroup g x).hotset = s.hotset ∧ (s.setGroup g x).tests = s.tests ∧
    (s.setGroup g x).instances = s.instances ∧ (s.setGroup g x).requests = s.requests ∧ (s.setGroup g x).reqHandles = s.reqHandles ∧
    (s.setGroup g x).adapters = s.adapters ∧ (s.setGroup g x).adpHandles = s.adpHandles ∧ (s.setGroup g x).rings = s.rings ∧
    (s.setGroup g x).ringHandles = s.ringHandles ∧ (s.setGroup g x).published = s.published ∧ (s.setGroup g x).ports = s.ports ∧
    (s.setGroup g x).net = s.net ∧ (s.setGroup g x).collectives = s.collectives ∧ (s.setGroup g x).ckp = s.ckp ∧
    (s.setGroup g x).sesHandles = s.sesHandles ∧ (s.setGroup g x).flt = s.flt ∧ (s.setGroup g x).pwr = s.pwr ∧
    (s.setGroup g x).plk = s.plk ∧ (s.setGroup g x).boot = s.boot ∧ (s.setGroup g x).sel = s.sel ∧
    (s.setGroup g x).pins = s.pins ∧ (s.setGroup g x).out = s.out ∧ (s.setGroup g x).netOut = s.netOut ∧
    (s.setGroup g x).netHeld = s.netHeld ∧ (s.setGroup g x).ctl = s.ctl ∧ (s.setGroup g x).lines = s.lines := by
  and_intros <;> rfl

@[simp] theorem setQuad_frame (s : State) (k : Nat) (x : Quadrant) :
    (s.setQuad k x).variant = s.variant ∧ (s.setQuad k x).pending = s.pending ∧ (s.setQuad k x).mem = s.mem ∧
    (s.setQuad k x).free = s.free ∧ (s.setQuad k x).events = s.events ∧ (s.setQuad k x).domains = s.domains ∧
    (s.setQuad k x).cores = s.cores ∧ (s.setQuad k x).groups = s.groups ∧ (s.setQuad k x).arrays = s.arrays ∧
    (s.setQuad k x).contexts = s.contexts ∧ (s.setQuad k x).ctxHandles = s.ctxHandles ∧ (s.setQuad k x).ptns = s.ptns ∧
    (s.setQuad k x).ptnHandles = s.ptnHandles ∧ (s.setQuad k x).granules = s.granules ∧ (s.setQuad k x).batch = s.batch ∧
    (s.setQuad k x).jobs = s.jobs ∧ (s.setQuad k x).jobHandles = s.jobHandles ∧ (s.setQuad k x).channels = s.channels ∧
    (s.setQuad k x).chanHandles = s.chanHandles ∧ (s.setQuad k x).hbm = s.hbm ∧ (s.setQuad k x).pcs = s.pcs ∧
    (s.setQuad k x).attrs = s.attrs ∧ (s.setQuad k x).dmas = s.dmas ∧ (s.setQuad k x).links = s.links ∧
    (s.setQuad k x).delivered = s.delivered ∧ (s.setQuad k x).streams = s.streams ∧ (s.setQuad k x).streamHandles = s.streamHandles ∧
    (s.setQuad k x).engines = s.engines ∧ (s.setQuad k x).hotset = s.hotset ∧ (s.setQuad k x).tests = s.tests ∧
    (s.setQuad k x).instances = s.instances ∧ (s.setQuad k x).requests = s.requests ∧ (s.setQuad k x).reqHandles = s.reqHandles ∧
    (s.setQuad k x).adapters = s.adapters ∧ (s.setQuad k x).adpHandles = s.adpHandles ∧ (s.setQuad k x).rings = s.rings ∧
    (s.setQuad k x).ringHandles = s.ringHandles ∧ (s.setQuad k x).published = s.published ∧ (s.setQuad k x).ports = s.ports ∧
    (s.setQuad k x).net = s.net ∧ (s.setQuad k x).collectives = s.collectives ∧ (s.setQuad k x).ckp = s.ckp ∧
    (s.setQuad k x).sesHandles = s.sesHandles ∧ (s.setQuad k x).flt = s.flt ∧ (s.setQuad k x).pwr = s.pwr ∧
    (s.setQuad k x).plk = s.plk ∧ (s.setQuad k x).boot = s.boot ∧ (s.setQuad k x).sel = s.sel ∧
    (s.setQuad k x).pins = s.pins ∧ (s.setQuad k x).out = s.out ∧ (s.setQuad k x).netOut = s.netOut ∧
    (s.setQuad k x).netHeld = s.netHeld ∧ (s.setQuad k x).ctl = s.ctl ∧ (s.setQuad k x).lines = s.lines := by
  and_intros <;> rfl

@[simp] theorem setArr_frame (s : State) (a : Nat) (x : Arr) :
    (s.setArr a x).variant = s.variant ∧ (s.setArr a x).pending = s.pending ∧ (s.setArr a x).mem = s.mem ∧
    (s.setArr a x).free = s.free ∧ (s.setArr a x).events = s.events ∧ (s.setArr a x).domains = s.domains ∧
    (s.setArr a x).cores = s.cores ∧ (s.setArr a x).groups = s.groups ∧ (s.setArr a x).quads = s.quads ∧
    (s.setArr a x).contexts = s.contexts ∧ (s.setArr a x).ctxHandles = s.ctxHandles ∧ (s.setArr a x).ptns = s.ptns ∧
    (s.setArr a x).ptnHandles = s.ptnHandles ∧ (s.setArr a x).granules = s.granules ∧ (s.setArr a x).batch = s.batch ∧
    (s.setArr a x).jobs = s.jobs ∧ (s.setArr a x).jobHandles = s.jobHandles ∧ (s.setArr a x).channels = s.channels ∧
    (s.setArr a x).chanHandles = s.chanHandles ∧ (s.setArr a x).hbm = s.hbm ∧ (s.setArr a x).pcs = s.pcs ∧
    (s.setArr a x).attrs = s.attrs ∧ (s.setArr a x).dmas = s.dmas ∧ (s.setArr a x).links = s.links ∧
    (s.setArr a x).delivered = s.delivered ∧ (s.setArr a x).streams = s.streams ∧ (s.setArr a x).streamHandles = s.streamHandles ∧
    (s.setArr a x).engines = s.engines ∧ (s.setArr a x).hotset = s.hotset ∧ (s.setArr a x).tests = s.tests ∧
    (s.setArr a x).instances = s.instances ∧ (s.setArr a x).requests = s.requests ∧ (s.setArr a x).reqHandles = s.reqHandles ∧
    (s.setArr a x).adapters = s.adapters ∧ (s.setArr a x).adpHandles = s.adpHandles ∧ (s.setArr a x).rings = s.rings ∧
    (s.setArr a x).ringHandles = s.ringHandles ∧ (s.setArr a x).published = s.published ∧ (s.setArr a x).ports = s.ports ∧
    (s.setArr a x).net = s.net ∧ (s.setArr a x).collectives = s.collectives ∧ (s.setArr a x).ckp = s.ckp ∧
    (s.setArr a x).sesHandles = s.sesHandles ∧ (s.setArr a x).flt = s.flt ∧ (s.setArr a x).pwr = s.pwr ∧
    (s.setArr a x).plk = s.plk ∧ (s.setArr a x).boot = s.boot ∧ (s.setArr a x).sel = s.sel ∧
    (s.setArr a x).pins = s.pins ∧ (s.setArr a x).out = s.out ∧ (s.setArr a x).netOut = s.netOut ∧
    (s.setArr a x).netHeld = s.netHeld ∧ (s.setArr a x).ctl = s.ctl ∧ (s.setArr a x).lines = s.lines := by
  and_intros <;> rfl

@[simp] theorem setCtx_frame (s : State) (c : Nat) (x : Context) :
    (s.setCtx c x).variant = s.variant ∧ (s.setCtx c x).pending = s.pending ∧ (s.setCtx c x).mem = s.mem ∧
    (s.setCtx c x).free = s.free ∧ (s.setCtx c x).events = s.events ∧ (s.setCtx c x).domains = s.domains ∧
    (s.setCtx c x).cores = s.cores ∧ (s.setCtx c x).groups = s.groups ∧ (s.setCtx c x).quads = s.quads ∧
    (s.setCtx c x).arrays = s.arrays ∧ (s.setCtx c x).ctxHandles = s.ctxHandles ∧ (s.setCtx c x).ptns = s.ptns ∧
    (s.setCtx c x).ptnHandles = s.ptnHandles ∧ (s.setCtx c x).granules = s.granules ∧ (s.setCtx c x).batch = s.batch ∧
    (s.setCtx c x).jobs = s.jobs ∧ (s.setCtx c x).jobHandles = s.jobHandles ∧ (s.setCtx c x).channels = s.channels ∧
    (s.setCtx c x).chanHandles = s.chanHandles ∧ (s.setCtx c x).hbm = s.hbm ∧ (s.setCtx c x).pcs = s.pcs ∧
    (s.setCtx c x).attrs = s.attrs ∧ (s.setCtx c x).dmas = s.dmas ∧ (s.setCtx c x).links = s.links ∧
    (s.setCtx c x).delivered = s.delivered ∧ (s.setCtx c x).streams = s.streams ∧ (s.setCtx c x).streamHandles = s.streamHandles ∧
    (s.setCtx c x).engines = s.engines ∧ (s.setCtx c x).hotset = s.hotset ∧ (s.setCtx c x).tests = s.tests ∧
    (s.setCtx c x).instances = s.instances ∧ (s.setCtx c x).requests = s.requests ∧ (s.setCtx c x).reqHandles = s.reqHandles ∧
    (s.setCtx c x).adapters = s.adapters ∧ (s.setCtx c x).adpHandles = s.adpHandles ∧ (s.setCtx c x).rings = s.rings ∧
    (s.setCtx c x).ringHandles = s.ringHandles ∧ (s.setCtx c x).published = s.published ∧ (s.setCtx c x).ports = s.ports ∧
    (s.setCtx c x).net = s.net ∧ (s.setCtx c x).collectives = s.collectives ∧ (s.setCtx c x).ckp = s.ckp ∧
    (s.setCtx c x).sesHandles = s.sesHandles ∧ (s.setCtx c x).flt = s.flt ∧ (s.setCtx c x).pwr = s.pwr ∧
    (s.setCtx c x).plk = s.plk ∧ (s.setCtx c x).boot = s.boot ∧ (s.setCtx c x).sel = s.sel ∧
    (s.setCtx c x).pins = s.pins ∧ (s.setCtx c x).out = s.out ∧ (s.setCtx c x).netOut = s.netOut ∧
    (s.setCtx c x).netHeld = s.netHeld ∧ (s.setCtx c x).ctl = s.ctl ∧ (s.setCtx c x).lines = s.lines := by
  and_intros <;> rfl

@[simp] theorem setStack_frame (s : State) (k : Nat) (x : Stack) :
    (s.setStack k x).variant = s.variant ∧ (s.setStack k x).pending = s.pending ∧ (s.setStack k x).mem = s.mem ∧
    (s.setStack k x).free = s.free ∧ (s.setStack k x).events = s.events ∧ (s.setStack k x).domains = s.domains ∧
    (s.setStack k x).cores = s.cores ∧ (s.setStack k x).groups = s.groups ∧ (s.setStack k x).quads = s.quads ∧
    (s.setStack k x).arrays = s.arrays ∧ (s.setStack k x).contexts = s.contexts ∧ (s.setStack k x).ctxHandles = s.ctxHandles ∧
    (s.setStack k x).ptns = s.ptns ∧ (s.setStack k x).ptnHandles = s.ptnHandles ∧ (s.setStack k x).granules = s.granules ∧
    (s.setStack k x).batch = s.batch ∧ (s.setStack k x).jobs = s.jobs ∧ (s.setStack k x).jobHandles = s.jobHandles ∧
    (s.setStack k x).channels = s.channels ∧ (s.setStack k x).chanHandles = s.chanHandles ∧ (s.setStack k x).pcs = s.pcs ∧
    (s.setStack k x).attrs = s.attrs ∧ (s.setStack k x).dmas = s.dmas ∧ (s.setStack k x).links = s.links ∧
    (s.setStack k x).delivered = s.delivered ∧ (s.setStack k x).streams = s.streams ∧ (s.setStack k x).streamHandles = s.streamHandles ∧
    (s.setStack k x).engines = s.engines ∧ (s.setStack k x).hotset = s.hotset ∧ (s.setStack k x).tests = s.tests ∧
    (s.setStack k x).instances = s.instances ∧ (s.setStack k x).requests = s.requests ∧ (s.setStack k x).reqHandles = s.reqHandles ∧
    (s.setStack k x).adapters = s.adapters ∧ (s.setStack k x).adpHandles = s.adpHandles ∧ (s.setStack k x).rings = s.rings ∧
    (s.setStack k x).ringHandles = s.ringHandles ∧ (s.setStack k x).published = s.published ∧ (s.setStack k x).ports = s.ports ∧
    (s.setStack k x).net = s.net ∧ (s.setStack k x).collectives = s.collectives ∧ (s.setStack k x).ckp = s.ckp ∧
    (s.setStack k x).sesHandles = s.sesHandles ∧ (s.setStack k x).flt = s.flt ∧ (s.setStack k x).pwr = s.pwr ∧
    (s.setStack k x).plk = s.plk ∧ (s.setStack k x).boot = s.boot ∧ (s.setStack k x).sel = s.sel ∧
    (s.setStack k x).pins = s.pins ∧ (s.setStack k x).out = s.out ∧ (s.setStack k x).netOut = s.netOut ∧
    (s.setStack k x).netHeld = s.netHeld ∧ (s.setStack k x).ctl = s.ctl ∧ (s.setStack k x).lines = s.lines := by
  and_intros <;> rfl

@[simp] theorem setPc_frame (s : State) (g : Nat) (x : Pc) :
    (s.setPc g x).variant = s.variant ∧ (s.setPc g x).pending = s.pending ∧ (s.setPc g x).mem = s.mem ∧
    (s.setPc g x).free = s.free ∧ (s.setPc g x).events = s.events ∧ (s.setPc g x).domains = s.domains ∧
    (s.setPc g x).cores = s.cores ∧ (s.setPc g x).groups = s.groups ∧ (s.setPc g x).quads = s.quads ∧
    (s.setPc g x).arrays = s.arrays ∧ (s.setPc g x).contexts = s.contexts ∧ (s.setPc g x).ctxHandles = s.ctxHandles ∧
    (s.setPc g x).ptns = s.ptns ∧ (s.setPc g x).ptnHandles = s.ptnHandles ∧ (s.setPc g x).granules = s.granules ∧
    (s.setPc g x).batch = s.batch ∧ (s.setPc g x).jobs = s.jobs ∧ (s.setPc g x).jobHandles = s.jobHandles ∧
    (s.setPc g x).channels = s.channels ∧ (s.setPc g x).chanHandles = s.chanHandles ∧ (s.setPc g x).hbm = s.hbm ∧
    (s.setPc g x).attrs = s.attrs ∧ (s.setPc g x).dmas = s.dmas ∧ (s.setPc g x).links = s.links ∧
    (s.setPc g x).delivered = s.delivered ∧ (s.setPc g x).streams = s.streams ∧ (s.setPc g x).streamHandles = s.streamHandles ∧
    (s.setPc g x).engines = s.engines ∧ (s.setPc g x).hotset = s.hotset ∧ (s.setPc g x).tests = s.tests ∧
    (s.setPc g x).instances = s.instances ∧ (s.setPc g x).requests = s.requests ∧ (s.setPc g x).reqHandles = s.reqHandles ∧
    (s.setPc g x).adapters = s.adapters ∧ (s.setPc g x).adpHandles = s.adpHandles ∧ (s.setPc g x).rings = s.rings ∧
    (s.setPc g x).ringHandles = s.ringHandles ∧ (s.setPc g x).published = s.published ∧ (s.setPc g x).ports = s.ports ∧
    (s.setPc g x).net = s.net ∧ (s.setPc g x).collectives = s.collectives ∧ (s.setPc g x).ckp = s.ckp ∧
    (s.setPc g x).sesHandles = s.sesHandles ∧ (s.setPc g x).flt = s.flt ∧ (s.setPc g x).pwr = s.pwr ∧
    (s.setPc g x).plk = s.plk ∧ (s.setPc g x).boot = s.boot ∧ (s.setPc g x).sel = s.sel ∧
    (s.setPc g x).pins = s.pins ∧ (s.setPc g x).out = s.out ∧ (s.setPc g x).netOut = s.netOut ∧
    (s.setPc g x).netHeld = s.netHeld ∧ (s.setPc g x).ctl = s.ctl ∧ (s.setPc g x).lines = s.lines := by
  and_intros <;> rfl

@[simp] theorem setAttr_frame (s : State) (f a : Nat) :
    (s.setAttr f a).variant = s.variant ∧ (s.setAttr f a).pending = s.pending ∧ (s.setAttr f a).mem = s.mem ∧
    (s.setAttr f a).free = s.free ∧ (s.setAttr f a).events = s.events ∧ (s.setAttr f a).domains = s.domains ∧
    (s.setAttr f a).cores = s.cores ∧ (s.setAttr f a).groups = s.groups ∧ (s.setAttr f a).quads = s.quads ∧
    (s.setAttr f a).arrays = s.arrays ∧ (s.setAttr f a).contexts = s.contexts ∧ (s.setAttr f a).ctxHandles = s.ctxHandles ∧
    (s.setAttr f a).ptns = s.ptns ∧ (s.setAttr f a).ptnHandles = s.ptnHandles ∧ (s.setAttr f a).granules = s.granules ∧
    (s.setAttr f a).batch = s.batch ∧ (s.setAttr f a).jobs = s.jobs ∧ (s.setAttr f a).jobHandles = s.jobHandles ∧
    (s.setAttr f a).channels = s.channels ∧ (s.setAttr f a).chanHandles = s.chanHandles ∧ (s.setAttr f a).hbm = s.hbm ∧
    (s.setAttr f a).pcs = s.pcs ∧ (s.setAttr f a).dmas = s.dmas ∧ (s.setAttr f a).links = s.links ∧
    (s.setAttr f a).delivered = s.delivered ∧ (s.setAttr f a).streams = s.streams ∧ (s.setAttr f a).streamHandles = s.streamHandles ∧
    (s.setAttr f a).engines = s.engines ∧ (s.setAttr f a).hotset = s.hotset ∧ (s.setAttr f a).tests = s.tests ∧
    (s.setAttr f a).instances = s.instances ∧ (s.setAttr f a).requests = s.requests ∧ (s.setAttr f a).reqHandles = s.reqHandles ∧
    (s.setAttr f a).adapters = s.adapters ∧ (s.setAttr f a).adpHandles = s.adpHandles ∧ (s.setAttr f a).rings = s.rings ∧
    (s.setAttr f a).ringHandles = s.ringHandles ∧ (s.setAttr f a).published = s.published ∧ (s.setAttr f a).ports = s.ports ∧
    (s.setAttr f a).net = s.net ∧ (s.setAttr f a).collectives = s.collectives ∧ (s.setAttr f a).ckp = s.ckp ∧
    (s.setAttr f a).sesHandles = s.sesHandles ∧ (s.setAttr f a).flt = s.flt ∧ (s.setAttr f a).pwr = s.pwr ∧
    (s.setAttr f a).plk = s.plk ∧ (s.setAttr f a).boot = s.boot ∧ (s.setAttr f a).sel = s.sel ∧
    (s.setAttr f a).pins = s.pins ∧ (s.setAttr f a).out = s.out ∧ (s.setAttr f a).netOut = s.netOut ∧
    (s.setAttr f a).netHeld = s.netHeld ∧ (s.setAttr f a).ctl = s.ctl ∧ (s.setAttr f a).lines = s.lines := by
  and_intros <;> rfl

@[simp] theorem setDmaE_frame (s : State) (e : Nat) (x : DmaEngine) :
    (s.setDmaE e x).variant = s.variant ∧ (s.setDmaE e x).pending = s.pending ∧ (s.setDmaE e x).mem = s.mem ∧
    (s.setDmaE e x).free = s.free ∧ (s.setDmaE e x).events = s.events ∧ (s.setDmaE e x).domains = s.domains ∧
    (s.setDmaE e x).cores = s.cores ∧ (s.setDmaE e x).groups = s.groups ∧ (s.setDmaE e x).quads = s.quads ∧
    (s.setDmaE e x).arrays = s.arrays ∧ (s.setDmaE e x).contexts = s.contexts ∧ (s.setDmaE e x).ctxHandles = s.ctxHandles ∧
    (s.setDmaE e x).ptns = s.ptns ∧ (s.setDmaE e x).ptnHandles = s.ptnHandles ∧ (s.setDmaE e x).granules = s.granules ∧
    (s.setDmaE e x).batch = s.batch ∧ (s.setDmaE e x).jobs = s.jobs ∧ (s.setDmaE e x).jobHandles = s.jobHandles ∧
    (s.setDmaE e x).channels = s.channels ∧ (s.setDmaE e x).chanHandles = s.chanHandles ∧ (s.setDmaE e x).hbm = s.hbm ∧
    (s.setDmaE e x).pcs = s.pcs ∧ (s.setDmaE e x).attrs = s.attrs ∧ (s.setDmaE e x).links = s.links ∧
    (s.setDmaE e x).delivered = s.delivered ∧ (s.setDmaE e x).streams = s.streams ∧ (s.setDmaE e x).streamHandles = s.streamHandles ∧
    (s.setDmaE e x).engines = s.engines ∧ (s.setDmaE e x).hotset = s.hotset ∧ (s.setDmaE e x).tests = s.tests ∧
    (s.setDmaE e x).instances = s.instances ∧ (s.setDmaE e x).requests = s.requests ∧ (s.setDmaE e x).reqHandles = s.reqHandles ∧
    (s.setDmaE e x).adapters = s.adapters ∧ (s.setDmaE e x).adpHandles = s.adpHandles ∧ (s.setDmaE e x).rings = s.rings ∧
    (s.setDmaE e x).ringHandles = s.ringHandles ∧ (s.setDmaE e x).published = s.published ∧ (s.setDmaE e x).ports = s.ports ∧
    (s.setDmaE e x).net = s.net ∧ (s.setDmaE e x).collectives = s.collectives ∧ (s.setDmaE e x).ckp = s.ckp ∧
    (s.setDmaE e x).sesHandles = s.sesHandles ∧ (s.setDmaE e x).flt = s.flt ∧ (s.setDmaE e x).pwr = s.pwr ∧
    (s.setDmaE e x).plk = s.plk ∧ (s.setDmaE e x).boot = s.boot ∧ (s.setDmaE e x).sel = s.sel ∧
    (s.setDmaE e x).pins = s.pins ∧ (s.setDmaE e x).out = s.out ∧ (s.setDmaE e x).netOut = s.netOut ∧
    (s.setDmaE e x).netHeld = s.netHeld ∧ (s.setDmaE e x).ctl = s.ctl ∧ (s.setDmaE e x).lines = s.lines := by
  and_intros <;> rfl

@[simp] theorem setRzLink_frame (s : State) (l : Nat) (x : Link) :
    (s.setRzLink l x).variant = s.variant ∧ (s.setRzLink l x).pending = s.pending ∧ (s.setRzLink l x).mem = s.mem ∧
    (s.setRzLink l x).free = s.free ∧ (s.setRzLink l x).events = s.events ∧ (s.setRzLink l x).domains = s.domains ∧
    (s.setRzLink l x).cores = s.cores ∧ (s.setRzLink l x).groups = s.groups ∧ (s.setRzLink l x).quads = s.quads ∧
    (s.setRzLink l x).arrays = s.arrays ∧ (s.setRzLink l x).contexts = s.contexts ∧ (s.setRzLink l x).ctxHandles = s.ctxHandles ∧
    (s.setRzLink l x).ptns = s.ptns ∧ (s.setRzLink l x).ptnHandles = s.ptnHandles ∧ (s.setRzLink l x).granules = s.granules ∧
    (s.setRzLink l x).batch = s.batch ∧ (s.setRzLink l x).jobs = s.jobs ∧ (s.setRzLink l x).jobHandles = s.jobHandles ∧
    (s.setRzLink l x).channels = s.channels ∧ (s.setRzLink l x).chanHandles = s.chanHandles ∧ (s.setRzLink l x).hbm = s.hbm ∧
    (s.setRzLink l x).pcs = s.pcs ∧ (s.setRzLink l x).attrs = s.attrs ∧ (s.setRzLink l x).dmas = s.dmas ∧
    (s.setRzLink l x).delivered = s.delivered ∧ (s.setRzLink l x).streams = s.streams ∧ (s.setRzLink l x).streamHandles = s.streamHandles ∧
    (s.setRzLink l x).engines = s.engines ∧ (s.setRzLink l x).hotset = s.hotset ∧ (s.setRzLink l x).tests = s.tests ∧
    (s.setRzLink l x).instances = s.instances ∧ (s.setRzLink l x).requests = s.requests ∧ (s.setRzLink l x).reqHandles = s.reqHandles ∧
    (s.setRzLink l x).adapters = s.adapters ∧ (s.setRzLink l x).adpHandles = s.adpHandles ∧ (s.setRzLink l x).rings = s.rings ∧
    (s.setRzLink l x).ringHandles = s.ringHandles ∧ (s.setRzLink l x).published = s.published ∧ (s.setRzLink l x).ports = s.ports ∧
    (s.setRzLink l x).net = s.net ∧ (s.setRzLink l x).collectives = s.collectives ∧ (s.setRzLink l x).ckp = s.ckp ∧
    (s.setRzLink l x).sesHandles = s.sesHandles ∧ (s.setRzLink l x).flt = s.flt ∧ (s.setRzLink l x).pwr = s.pwr ∧
    (s.setRzLink l x).plk = s.plk ∧ (s.setRzLink l x).boot = s.boot ∧ (s.setRzLink l x).sel = s.sel ∧
    (s.setRzLink l x).pins = s.pins ∧ (s.setRzLink l x).out = s.out ∧ (s.setRzLink l x).netOut = s.netOut ∧
    (s.setRzLink l x).netHeld = s.netHeld ∧ (s.setRzLink l x).ctl = s.ctl ∧ (s.setRzLink l x).lines = s.lines := by
  and_intros <;> rfl

@[simp] theorem setEngine_frame (s : State) (e : Nat) (x : MediaEngine) :
    (s.setEngine e x).variant = s.variant ∧ (s.setEngine e x).pending = s.pending ∧ (s.setEngine e x).mem = s.mem ∧
    (s.setEngine e x).free = s.free ∧ (s.setEngine e x).events = s.events ∧ (s.setEngine e x).domains = s.domains ∧
    (s.setEngine e x).cores = s.cores ∧ (s.setEngine e x).groups = s.groups ∧ (s.setEngine e x).quads = s.quads ∧
    (s.setEngine e x).arrays = s.arrays ∧ (s.setEngine e x).contexts = s.contexts ∧ (s.setEngine e x).ctxHandles = s.ctxHandles ∧
    (s.setEngine e x).ptns = s.ptns ∧ (s.setEngine e x).ptnHandles = s.ptnHandles ∧ (s.setEngine e x).granules = s.granules ∧
    (s.setEngine e x).batch = s.batch ∧ (s.setEngine e x).jobs = s.jobs ∧ (s.setEngine e x).jobHandles = s.jobHandles ∧
    (s.setEngine e x).channels = s.channels ∧ (s.setEngine e x).chanHandles = s.chanHandles ∧ (s.setEngine e x).hbm = s.hbm ∧
    (s.setEngine e x).pcs = s.pcs ∧ (s.setEngine e x).attrs = s.attrs ∧ (s.setEngine e x).dmas = s.dmas ∧
    (s.setEngine e x).links = s.links ∧ (s.setEngine e x).delivered = s.delivered ∧ (s.setEngine e x).streams = s.streams ∧
    (s.setEngine e x).streamHandles = s.streamHandles ∧ (s.setEngine e x).hotset = s.hotset ∧ (s.setEngine e x).tests = s.tests ∧
    (s.setEngine e x).instances = s.instances ∧ (s.setEngine e x).requests = s.requests ∧ (s.setEngine e x).reqHandles = s.reqHandles ∧
    (s.setEngine e x).adapters = s.adapters ∧ (s.setEngine e x).adpHandles = s.adpHandles ∧ (s.setEngine e x).rings = s.rings ∧
    (s.setEngine e x).ringHandles = s.ringHandles ∧ (s.setEngine e x).published = s.published ∧ (s.setEngine e x).ports = s.ports ∧
    (s.setEngine e x).net = s.net ∧ (s.setEngine e x).collectives = s.collectives ∧ (s.setEngine e x).ckp = s.ckp ∧
    (s.setEngine e x).sesHandles = s.sesHandles ∧ (s.setEngine e x).flt = s.flt ∧ (s.setEngine e x).pwr = s.pwr ∧
    (s.setEngine e x).plk = s.plk ∧ (s.setEngine e x).boot = s.boot ∧ (s.setEngine e x).sel = s.sel ∧
    (s.setEngine e x).pins = s.pins ∧ (s.setEngine e x).out = s.out ∧ (s.setEngine e x).netOut = s.netOut ∧
    (s.setEngine e x).netHeld = s.netHeld ∧ (s.setEngine e x).ctl = s.ctl ∧ (s.setEngine e x).lines = s.lines := by
  and_intros <;> rfl

@[simp] theorem setPort_frame (s : State) (p : Nat) (x : Port) :
    (s.setPort p x).variant = s.variant ∧ (s.setPort p x).pending = s.pending ∧ (s.setPort p x).mem = s.mem ∧
    (s.setPort p x).free = s.free ∧ (s.setPort p x).events = s.events ∧ (s.setPort p x).domains = s.domains ∧
    (s.setPort p x).cores = s.cores ∧ (s.setPort p x).groups = s.groups ∧ (s.setPort p x).quads = s.quads ∧
    (s.setPort p x).arrays = s.arrays ∧ (s.setPort p x).contexts = s.contexts ∧ (s.setPort p x).ctxHandles = s.ctxHandles ∧
    (s.setPort p x).ptns = s.ptns ∧ (s.setPort p x).ptnHandles = s.ptnHandles ∧ (s.setPort p x).granules = s.granules ∧
    (s.setPort p x).batch = s.batch ∧ (s.setPort p x).jobs = s.jobs ∧ (s.setPort p x).jobHandles = s.jobHandles ∧
    (s.setPort p x).channels = s.channels ∧ (s.setPort p x).chanHandles = s.chanHandles ∧ (s.setPort p x).hbm = s.hbm ∧
    (s.setPort p x).pcs = s.pcs ∧ (s.setPort p x).attrs = s.attrs ∧ (s.setPort p x).dmas = s.dmas ∧
    (s.setPort p x).links = s.links ∧ (s.setPort p x).delivered = s.delivered ∧ (s.setPort p x).streams = s.streams ∧
    (s.setPort p x).streamHandles = s.streamHandles ∧ (s.setPort p x).engines = s.engines ∧ (s.setPort p x).hotset = s.hotset ∧
    (s.setPort p x).tests = s.tests ∧ (s.setPort p x).instances = s.instances ∧ (s.setPort p x).requests = s.requests ∧
    (s.setPort p x).reqHandles = s.reqHandles ∧ (s.setPort p x).adapters = s.adapters ∧ (s.setPort p x).adpHandles = s.adpHandles ∧
    (s.setPort p x).rings = s.rings ∧ (s.setPort p x).ringHandles = s.ringHandles ∧ (s.setPort p x).published = s.published ∧
    (s.setPort p x).net = s.net ∧ (s.setPort p x).collectives = s.collectives ∧ (s.setPort p x).ckp = s.ckp ∧
    (s.setPort p x).sesHandles = s.sesHandles ∧ (s.setPort p x).flt = s.flt ∧ (s.setPort p x).pwr = s.pwr ∧
    (s.setPort p x).plk = s.plk ∧ (s.setPort p x).boot = s.boot ∧ (s.setPort p x).sel = s.sel ∧
    (s.setPort p x).pins = s.pins ∧ (s.setPort p x).out = s.out ∧ (s.setPort p x).netOut = s.netOut ∧
    (s.setPort p x).netHeld = s.netHeld ∧ (s.setPort p x).ctl = s.ctl ∧ (s.setPort p x).lines = s.lines := by
  and_intros <;> rfl

@[simp] theorem setQp_frame (s : State) (n : Nat) (x : Qp) :
    (s.setQp n x).variant = s.variant ∧ (s.setQp n x).pending = s.pending ∧ (s.setQp n x).mem = s.mem ∧
    (s.setQp n x).free = s.free ∧ (s.setQp n x).events = s.events ∧ (s.setQp n x).domains = s.domains ∧
    (s.setQp n x).cores = s.cores ∧ (s.setQp n x).groups = s.groups ∧ (s.setQp n x).quads = s.quads ∧
    (s.setQp n x).arrays = s.arrays ∧ (s.setQp n x).contexts = s.contexts ∧ (s.setQp n x).ctxHandles = s.ctxHandles ∧
    (s.setQp n x).ptns = s.ptns ∧ (s.setQp n x).ptnHandles = s.ptnHandles ∧ (s.setQp n x).granules = s.granules ∧
    (s.setQp n x).batch = s.batch ∧ (s.setQp n x).jobs = s.jobs ∧ (s.setQp n x).jobHandles = s.jobHandles ∧
    (s.setQp n x).channels = s.channels ∧ (s.setQp n x).chanHandles = s.chanHandles ∧ (s.setQp n x).hbm = s.hbm ∧
    (s.setQp n x).pcs = s.pcs ∧ (s.setQp n x).attrs = s.attrs ∧ (s.setQp n x).dmas = s.dmas ∧
    (s.setQp n x).links = s.links ∧ (s.setQp n x).delivered = s.delivered ∧ (s.setQp n x).streams = s.streams ∧
    (s.setQp n x).streamHandles = s.streamHandles ∧ (s.setQp n x).engines = s.engines ∧ (s.setQp n x).hotset = s.hotset ∧
    (s.setQp n x).tests = s.tests ∧ (s.setQp n x).instances = s.instances ∧ (s.setQp n x).requests = s.requests ∧
    (s.setQp n x).reqHandles = s.reqHandles ∧ (s.setQp n x).adapters = s.adapters ∧ (s.setQp n x).adpHandles = s.adpHandles ∧
    (s.setQp n x).rings = s.rings ∧ (s.setQp n x).ringHandles = s.ringHandles ∧ (s.setQp n x).published = s.published ∧
    (s.setQp n x).ports = s.ports ∧ (s.setQp n x).collectives = s.collectives ∧ (s.setQp n x).ckp = s.ckp ∧
    (s.setQp n x).sesHandles = s.sesHandles ∧ (s.setQp n x).flt = s.flt ∧ (s.setQp n x).pwr = s.pwr ∧
    (s.setQp n x).plk = s.plk ∧ (s.setQp n x).boot = s.boot ∧ (s.setQp n x).sel = s.sel ∧
    (s.setQp n x).pins = s.pins ∧ (s.setQp n x).out = s.out ∧ (s.setQp n x).netOut = s.netOut ∧
    (s.setQp n x).netHeld = s.netHeld ∧ (s.setQp n x).ctl = s.ctl ∧ (s.setQp n x).lines = s.lines := by
  and_intros <;> rfl

@[simp] theorem setQueue_frame (s : State) (c q : Nat) (x : Queue) :
    (s.setQueue c q x).variant = s.variant ∧ (s.setQueue c q x).pending = s.pending ∧ (s.setQueue c q x).mem = s.mem ∧
    (s.setQueue c q x).free = s.free ∧ (s.setQueue c q x).events = s.events ∧ (s.setQueue c q x).domains = s.domains ∧
    (s.setQueue c q x).cores = s.cores ∧ (s.setQueue c q x).groups = s.groups ∧ (s.setQueue c q x).quads = s.quads ∧
    (s.setQueue c q x).arrays = s.arrays ∧ (s.setQueue c q x).ctxHandles = s.ctxHandles ∧ (s.setQueue c q x).ptns = s.ptns ∧
    (s.setQueue c q x).ptnHandles = s.ptnHandles ∧ (s.setQueue c q x).granules = s.granules ∧ (s.setQueue c q x).batch = s.batch ∧
    (s.setQueue c q x).jobs = s.jobs ∧ (s.setQueue c q x).jobHandles = s.jobHandles ∧ (s.setQueue c q x).channels = s.channels ∧
    (s.setQueue c q x).chanHandles = s.chanHandles ∧ (s.setQueue c q x).hbm = s.hbm ∧ (s.setQueue c q x).pcs = s.pcs ∧
    (s.setQueue c q x).attrs = s.attrs ∧ (s.setQueue c q x).dmas = s.dmas ∧ (s.setQueue c q x).links = s.links ∧
    (s.setQueue c q x).delivered = s.delivered ∧ (s.setQueue c q x).streams = s.streams ∧ (s.setQueue c q x).streamHandles = s.streamHandles ∧
    (s.setQueue c q x).engines = s.engines ∧ (s.setQueue c q x).hotset = s.hotset ∧ (s.setQueue c q x).tests = s.tests ∧
    (s.setQueue c q x).instances = s.instances ∧ (s.setQueue c q x).requests = s.requests ∧ (s.setQueue c q x).reqHandles = s.reqHandles ∧
    (s.setQueue c q x).adapters = s.adapters ∧ (s.setQueue c q x).adpHandles = s.adpHandles ∧ (s.setQueue c q x).rings = s.rings ∧
    (s.setQueue c q x).ringHandles = s.ringHandles ∧ (s.setQueue c q x).published = s.published ∧ (s.setQueue c q x).ports = s.ports ∧
    (s.setQueue c q x).net = s.net ∧ (s.setQueue c q x).collectives = s.collectives ∧ (s.setQueue c q x).ckp = s.ckp ∧
    (s.setQueue c q x).sesHandles = s.sesHandles ∧ (s.setQueue c q x).flt = s.flt ∧ (s.setQueue c q x).pwr = s.pwr ∧
    (s.setQueue c q x).plk = s.plk ∧ (s.setQueue c q x).boot = s.boot ∧ (s.setQueue c q x).sel = s.sel ∧
    (s.setQueue c q x).pins = s.pins ∧ (s.setQueue c q x).out = s.out ∧ (s.setQueue c q x).netOut = s.netOut ∧
    (s.setQueue c q x).netHeld = s.netHeld ∧ (s.setQueue c q x).ctl = s.ctl ∧ (s.setQueue c q x).lines = s.lines := by
  and_intros <;> rfl

@[simp] theorem emit_frame (s : State) (m : OutMsg) :
    (s.emit m).variant = s.variant ∧ (s.emit m).pending = s.pending ∧ (s.emit m).mem = s.mem ∧
    (s.emit m).free = s.free ∧ (s.emit m).events = s.events ∧ (s.emit m).domains = s.domains ∧
    (s.emit m).cores = s.cores ∧ (s.emit m).groups = s.groups ∧ (s.emit m).quads = s.quads ∧
    (s.emit m).arrays = s.arrays ∧ (s.emit m).contexts = s.contexts ∧ (s.emit m).ctxHandles = s.ctxHandles ∧
    (s.emit m).ptns = s.ptns ∧ (s.emit m).ptnHandles = s.ptnHandles ∧ (s.emit m).granules = s.granules ∧
    (s.emit m).batch = s.batch ∧ (s.emit m).jobs = s.jobs ∧ (s.emit m).jobHandles = s.jobHandles ∧
    (s.emit m).channels = s.channels ∧ (s.emit m).chanHandles = s.chanHandles ∧ (s.emit m).hbm = s.hbm ∧
    (s.emit m).pcs = s.pcs ∧ (s.emit m).attrs = s.attrs ∧ (s.emit m).dmas = s.dmas ∧
    (s.emit m).links = s.links ∧ (s.emit m).delivered = s.delivered ∧ (s.emit m).streams = s.streams ∧
    (s.emit m).streamHandles = s.streamHandles ∧ (s.emit m).engines = s.engines ∧ (s.emit m).hotset = s.hotset ∧
    (s.emit m).tests = s.tests ∧ (s.emit m).instances = s.instances ∧ (s.emit m).requests = s.requests ∧
    (s.emit m).reqHandles = s.reqHandles ∧ (s.emit m).adapters = s.adapters ∧ (s.emit m).adpHandles = s.adpHandles ∧
    (s.emit m).rings = s.rings ∧ (s.emit m).ringHandles = s.ringHandles ∧ (s.emit m).published = s.published ∧
    (s.emit m).ports = s.ports ∧ (s.emit m).net = s.net ∧ (s.emit m).collectives = s.collectives ∧
    (s.emit m).ckp = s.ckp ∧ (s.emit m).sesHandles = s.sesHandles ∧ (s.emit m).flt = s.flt ∧
    (s.emit m).pwr = s.pwr ∧ (s.emit m).plk = s.plk ∧ (s.emit m).boot = s.boot ∧
    (s.emit m).sel = s.sel ∧ (s.emit m).pins = s.pins ∧ (s.emit m).netOut = s.netOut ∧
    (s.emit m).netHeld = s.netHeld ∧ (s.emit m).ctl = s.ctl ∧ (s.emit m).lines = s.lines := by
  and_intros <;> rfl

@[simp] theorem sendNet_frame (s : State) (m : NetMsg) :
    (s.sendNet m).variant = s.variant ∧ (s.sendNet m).pending = s.pending ∧ (s.sendNet m).mem = s.mem ∧
    (s.sendNet m).free = s.free ∧ (s.sendNet m).events = s.events ∧ (s.sendNet m).domains = s.domains ∧
    (s.sendNet m).cores = s.cores ∧ (s.sendNet m).groups = s.groups ∧ (s.sendNet m).quads = s.quads ∧
    (s.sendNet m).arrays = s.arrays ∧ (s.sendNet m).contexts = s.contexts ∧ (s.sendNet m).ctxHandles = s.ctxHandles ∧
    (s.sendNet m).ptns = s.ptns ∧ (s.sendNet m).ptnHandles = s.ptnHandles ∧ (s.sendNet m).granules = s.granules ∧
    (s.sendNet m).batch = s.batch ∧ (s.sendNet m).jobs = s.jobs ∧ (s.sendNet m).jobHandles = s.jobHandles ∧
    (s.sendNet m).channels = s.channels ∧ (s.sendNet m).chanHandles = s.chanHandles ∧ (s.sendNet m).hbm = s.hbm ∧
    (s.sendNet m).pcs = s.pcs ∧ (s.sendNet m).attrs = s.attrs ∧ (s.sendNet m).dmas = s.dmas ∧
    (s.sendNet m).links = s.links ∧ (s.sendNet m).delivered = s.delivered ∧ (s.sendNet m).streams = s.streams ∧
    (s.sendNet m).streamHandles = s.streamHandles ∧ (s.sendNet m).engines = s.engines ∧ (s.sendNet m).hotset = s.hotset ∧
    (s.sendNet m).tests = s.tests ∧ (s.sendNet m).instances = s.instances ∧ (s.sendNet m).requests = s.requests ∧
    (s.sendNet m).reqHandles = s.reqHandles ∧ (s.sendNet m).adapters = s.adapters ∧ (s.sendNet m).adpHandles = s.adpHandles ∧
    (s.sendNet m).rings = s.rings ∧ (s.sendNet m).ringHandles = s.ringHandles ∧ (s.sendNet m).published = s.published ∧
    (s.sendNet m).ports = s.ports ∧ (s.sendNet m).net = s.net ∧ (s.sendNet m).collectives = s.collectives ∧
    (s.sendNet m).ckp = s.ckp ∧ (s.sendNet m).sesHandles = s.sesHandles ∧ (s.sendNet m).flt = s.flt ∧
    (s.sendNet m).pwr = s.pwr ∧ (s.sendNet m).plk = s.plk ∧ (s.sendNet m).boot = s.boot ∧
    (s.sendNet m).sel = s.sel ∧ (s.sendNet m).pins = s.pins ∧ (s.sendNet m).out = s.out ∧
    (s.sendNet m).ctl = s.ctl ∧ (s.sendNet m).lines = s.lines := by
  and_intros <;> rfl

@[simp] theorem sendCtl_frame (s : State) (m : CtlMsg) :
    (s.sendCtl m).variant = s.variant ∧ (s.sendCtl m).pending = s.pending ∧ (s.sendCtl m).mem = s.mem ∧
    (s.sendCtl m).free = s.free ∧ (s.sendCtl m).events = s.events ∧ (s.sendCtl m).domains = s.domains ∧
    (s.sendCtl m).cores = s.cores ∧ (s.sendCtl m).groups = s.groups ∧ (s.sendCtl m).quads = s.quads ∧
    (s.sendCtl m).arrays = s.arrays ∧ (s.sendCtl m).contexts = s.contexts ∧ (s.sendCtl m).ctxHandles = s.ctxHandles ∧
    (s.sendCtl m).ptns = s.ptns ∧ (s.sendCtl m).ptnHandles = s.ptnHandles ∧ (s.sendCtl m).granules = s.granules ∧
    (s.sendCtl m).batch = s.batch ∧ (s.sendCtl m).jobs = s.jobs ∧ (s.sendCtl m).jobHandles = s.jobHandles ∧
    (s.sendCtl m).channels = s.channels ∧ (s.sendCtl m).chanHandles = s.chanHandles ∧ (s.sendCtl m).hbm = s.hbm ∧
    (s.sendCtl m).pcs = s.pcs ∧ (s.sendCtl m).attrs = s.attrs ∧ (s.sendCtl m).dmas = s.dmas ∧
    (s.sendCtl m).links = s.links ∧ (s.sendCtl m).delivered = s.delivered ∧ (s.sendCtl m).streams = s.streams ∧
    (s.sendCtl m).streamHandles = s.streamHandles ∧ (s.sendCtl m).engines = s.engines ∧ (s.sendCtl m).hotset = s.hotset ∧
    (s.sendCtl m).tests = s.tests ∧ (s.sendCtl m).instances = s.instances ∧ (s.sendCtl m).requests = s.requests ∧
    (s.sendCtl m).reqHandles = s.reqHandles ∧ (s.sendCtl m).adapters = s.adapters ∧ (s.sendCtl m).adpHandles = s.adpHandles ∧
    (s.sendCtl m).rings = s.rings ∧ (s.sendCtl m).ringHandles = s.ringHandles ∧ (s.sendCtl m).published = s.published ∧
    (s.sendCtl m).ports = s.ports ∧ (s.sendCtl m).net = s.net ∧ (s.sendCtl m).collectives = s.collectives ∧
    (s.sendCtl m).ckp = s.ckp ∧ (s.sendCtl m).sesHandles = s.sesHandles ∧ (s.sendCtl m).flt = s.flt ∧
    (s.sendCtl m).pwr = s.pwr ∧ (s.sendCtl m).plk = s.plk ∧ (s.sendCtl m).boot = s.boot ∧
    (s.sendCtl m).sel = s.sel ∧ (s.sendCtl m).pins = s.pins ∧ (s.sendCtl m).out = s.out ∧
    (s.sendCtl m).netOut = s.netOut ∧ (s.sendCtl m).netHeld = s.netHeld ∧ (s.sendCtl m).lines = s.lines := by
  and_intros <;> rfl

/-! ### What is read back -/

@[simp] theorem setEv_ev (s : State) (e : Nat) (x : EventReg) : (s.setEv e x).ev e = x := by simp [ev, setEv]

theorem setEv_ev_ne (s : State) (x : EventReg) {e i : Nat} (h : i ≠ e) : (s.setEv e x).ev i = s.ev i := by
  simp [ev, setEv, tgetD_tput_ne _ _ _ h]

@[simp] theorem setDom_dom (s : State) (d : Nat) (x : Domain) : (s.setDom d x).dom d = x := by simp [dom, setDom]

theorem setDom_dom_ne (s : State) (x : Domain) {d i : Nat} (h : i ≠ d) : (s.setDom d x).dom i = s.dom i := by
  simp [dom, setDom, tgetD_tput_ne _ _ _ h]

@[simp] theorem setCore_core (s : State) (c : Nat) (x : Core) : (s.setCore c x).core c = x := by simp [core, setCore]

theorem setCore_core_ne (s : State) (x : Core) {c i : Nat} (h : i ≠ c) : (s.setCore c x).core i = s.core i := by
  simp [core, setCore, tgetD_tput_ne _ _ _ h]

@[simp] theorem setGroup_group (s : State) (g : Nat) (x : Group) : (s.setGroup g x).group g = x := by simp [group, setGroup]

theorem setGroup_group_ne (s : State) (x : Group) {g i : Nat} (h : i ≠ g) : (s.setGroup g x).group i = s.group i := by
  simp [group, setGroup, tgetD_tput_ne _ _ _ h]

@[simp] theorem setQuad_quad (s : State) (k : Nat) (x : Quadrant) : (s.setQuad k x).quad k = x := by simp [quad, setQuad]

theorem setQuad_quad_ne (s : State) (x : Quadrant) {k i : Nat} (h : i ≠ k) : (s.setQuad k x).quad i = s.quad i := by
  simp [quad, setQuad, tgetD_tput_ne _ _ _ h]

@[simp] theorem setArr_arr (s : State) (a : Nat) (x : Arr) : (s.setArr a x).arr a = x := by simp [arr, setArr]

theorem setArr_arr_ne (s : State) (x : Arr) {a i : Nat} (h : i ≠ a) : (s.setArr a x).arr i = s.arr i := by
  simp [arr, setArr, tgetD_tput_ne _ _ _ h]

@[simp] theorem setCtx_ctx (s : State) (c : Nat) (x : Context) : (s.setCtx c x).ctx c = x := by simp [ctx, setCtx]

theorem setCtx_ctx_ne (s : State) (x : Context) {c i : Nat} (h : i ≠ c) : (s.setCtx c x).ctx i = s.ctx i := by
  simp [ctx, setCtx, tgetD_tput_ne _ _ _ h]

@[simp] theorem setStack_stack (s : State) (k : Nat) (x : Stack) : (s.setStack k x).stack k = x := by simp [stack, setStack]

theorem setStack_stack_ne (s : State) (x : Stack) {k i : Nat} (h : i ≠ k) : (s.setStack k x).stack i = s.stack i := by
  simp [stack, setStack, tgetD_tput_ne _ _ _ h]

@[simp] theorem setPc_pc (s : State) (g : Nat) (x : Pc) : (s.setPc g x).pc g = x := by simp [pc, setPc]

theorem setPc_pc_ne (s : State) (x : Pc) {g i : Nat} (h : i ≠ g) : (s.setPc g x).pc i = s.pc i := by
  simp [pc, setPc, tgetD_tput_ne _ _ _ h]

@[simp] theorem setDmaE_dmaE (s : State) (e : Nat) (x : DmaEngine) : (s.setDmaE e x).dmaE e = x := by simp [dmaE, setDmaE]

theorem setDmaE_dmaE_ne (s : State) (x : DmaEngine) {e i : Nat} (h : i ≠ e) : (s.setDmaE e x).dmaE i = s.dmaE i := by
  simp [dmaE, setDmaE, tgetD_tput_ne _ _ _ h]

@[simp] theorem setRzLink_rzLink (s : State) (l : Nat) (x : Link) : (s.setRzLink l x).rzLink l = x := by simp [rzLink, setRzLink]

theorem setRzLink_rzLink_ne (s : State) (x : Link) {l i : Nat} (h : i ≠ l) : (s.setRzLink l x).rzLink i = s.rzLink i := by
  simp [rzLink, setRzLink, tgetD_tput_ne _ _ _ h]

@[simp] theorem setEngine_engine (s : State) (e : Nat) (x : MediaEngine) : (s.setEngine e x).engine e = x := by simp [engine, setEngine]

theorem setEngine_engine_ne (s : State) (x : MediaEngine) {e i : Nat} (h : i ≠ e) : (s.setEngine e x).engine i = s.engine i := by
  simp [engine, setEngine, tgetD_tput_ne _ _ _ h]

@[simp] theorem setPort_port (s : State) (p : Nat) (x : Port) : (s.setPort p x).port p = x := by simp [port, setPort]

theorem setPort_port_ne (s : State) (x : Port) {p i : Nat} (h : i ≠ p) : (s.setPort p x).port i = s.port i := by
  simp [port, setPort, tgetD_tput_ne _ _ _ h]

@[simp] theorem setQp_qp (s : State) (n : Nat) (x : Qp) : (s.setQp n x).qp n = x := by simp [qp, setQp]

theorem setQp_qp_ne (s : State) (x : Qp) {n i : Nat} (h : i ≠ n) : (s.setQp n x).qp i = s.qp i := by
  simp [qp, setQp, tgetD_tput_ne _ _ _ h]

end State

end Sys2Proof.Machine
end

