-- ==== Sys2Proof/Laws/Memory.lean ====
section
/-! SUPPORT. The byte storage: every operation keeps its canonical form, a byte written reads back, and the others are left
as they were. -/

namespace Sys2Proof.Machine

/-- Two undefined ranges that share no key. -/
def UndefRange.apart (a b : UndefRange) : Prop := a.hi ≤ b.lo ∨ b.hi ≤ a.lo

/-- The canonical form, clause by clause. -/
theorem Memory.wf_iff (m : Memory) :
    m.wf = true ↔ m.cells.Pairwise (fun a b => a.1 < b.1) ∧
      (∀ c ∈ m.cells, c.2 ≠ 0 ∧ ∀ r ∈ m.undef, ¬ (r.lo ≤ c.1 ∧ c.1 < r.hi)) ∧ (∀ r ∈ m.undef, r.lo < r.hi) ∧
      m.undef.Pairwise UndefRange.apart := by
  simp only [Memory.wf, Bool.and_eq_true, decide_eq_true_eq, List.all_eq_true, Bool.not_eq_true', List.any_eq_false,
    UndefRange.covers]
  constructor
  · rintro ⟨⟨⟨a, b⟩, c⟩, d⟩
    exact ⟨a, fun x hx => ⟨(b x hx).1, fun r hr => (b x hx).2 r hr⟩, c, d⟩
  · rintro ⟨a, b, c, d⟩
    exact ⟨⟨⟨a, fun x hx => ⟨(b x hx).1, fun r hr => (b x hx).2 r hr⟩⟩, c⟩, d⟩

/-- The pieces that a cut leaves of a range lie inside it and outside the cut. -/
theorem UndefRange.cut_bounds {r p : UndefRange} {lo hi : Nat} (h : p ∈ r.cut lo hi) :
    r.lo ≤ p.lo ∧ p.hi ≤ r.hi ∧ (p.hi ≤ lo ∨ hi ≤ p.lo) ∧ (r.lo < r.hi → p.lo < p.hi) := by
  unfold UndefRange.cut at h
  split at h
  · simp only [List.mem_singleton] at h
    subst h; omega
  · simp only [List.mem_append] at h
    rcases h with h | h
    · split at h <;> simp at h
      subst h; dsimp; omega
    · split at h <;> simp at h
      subst h; dsimp; omega

/-- The pieces of one range are apart. -/
theorem UndefRange.cut_apart (r : UndefRange) (lo hi : Nat) (h : lo < hi) : (r.cut lo hi).Pairwise UndefRange.apart := by
  unfold UndefRange.cut
  split
  · simp
  · split <;> split <;> simp [UndefRange.apart]
    omega

/-- Clearing keeps the canonical form. -/
theorem Memory.clear_wf {m : Memory} (lo hi : Nat) (h : m.wf = true) : (m.clear lo hi).wf = true := by
  unfold Memory.clear
  split
  case isFalse => exact h
  case isTrue l =>
    rw [Memory.wf_iff] at h ⊢
    obtain ⟨a, b, c, d⟩ := h
    refine ⟨a.filter _, ?_, ?_, ?_⟩
    · intro x hx
      have hx := (List.mem_filter.mp hx).1
      refine ⟨(b x hx).1, fun r hr => ?_⟩
      obtain ⟨q, hq, hr⟩ := List.mem_flatMap.mp hr
      have := UndefRange.cut_bounds hr
      have := (b x hx).2 q hq
      omega
    · intro r hr
      obtain ⟨q, hq, hr⟩ := List.mem_flatMap.mp hr
      exact (UndefRange.cut_bounds hr).2.2.2 (c q hq)
    · rw [List.pairwise_flatMap]
      refine ⟨fun q _ => q.cut_apart lo hi l, d.imp ?_⟩
      intro p q hpq x hx y hy
      have hx := UndefRange.cut_bounds hx
      have hy := UndefRange.cut_bounds hy
      unfold UndefRange.apart at *
      omega

/-- What is listed after a clearing lies outside the cleared keys. -/
theorem Memory.clear_outside {m : Memory} {lo hi : Nat} (l : lo < hi) :
    (∀ c ∈ (m.clear lo hi).cells, c.1 < lo ∨ hi ≤ c.1) ∧ ∀ r ∈ (m.clear lo hi).undef, r.hi ≤ lo ∨ hi ≤ r.lo := by
  unfold Memory.clear
  simp only [l, if_true]
  constructor
  · intro c hc
    have := (List.mem_filter.mp hc).2
    simp at this
    omega
  · intro r hr
    obtain ⟨q, _, hr⟩ := List.mem_flatMap.mp hr
    exact (UndefRange.cut_bounds hr).2.2.1

/-- Making bytes undefined keeps the canonical form. -/
theorem Memory.undefine_wf {m : Memory} (lo hi seed : Nat) (h : m.wf = true) : (m.undefine lo hi seed).wf = true := by
  unfold Memory.undefine
  split
  case isFalse => exact h
  case isTrue l =>
    have w := Memory.clear_wf lo hi h
    have o := Memory.clear_outside (m := m) l
    rw [Memory.wf_iff] at w ⊢
    obtain ⟨a, b, c, d⟩ := w
    refine ⟨a, ?_, ?_, ?_⟩
    · intro x hx
      refine ⟨(b x hx).1, fun r hr => ?_⟩
      rcases List.mem_cons.mp hr with e | e
      · have := o.1 x hx
        subst e; dsimp; omega
      · exact (b x hx).2 r e
    · intro r hr
      rcases List.mem_cons.mp hr with e | e
      · subst e; exact l
      · exact c r e
    · refine List.pairwise_cons.mpr ⟨fun r hr => ?_, d⟩
      have := o.2 r hr
      unfold UndefRange.apart
      dsimp; omega

theorem mem_tput {α : Type} {t : Tab α} {k : Nat} {a : α} {x : Nat × α} (h : x ∈ tput t k a) : x = (k, a) ∨ x ∈ t := by
  induction t with
  | nil => simpa [tput] using h
  | cons p r ih =>
    obtain ⟨j, b⟩ := p
    unfold tput at h
    split at h
    · simpa using h
    · split at h
      · rcases List.mem_cons.mp h with e | e
        · exact .inl e
        · exact .inr (List.mem_cons_of_mem _ e)
      · rcases List.mem_cons.mp h with e | e
        · exact .inr (by simp [e])
        · rcases ih e with e | e
          · exact .inl e
          · exact .inr (List.mem_cons_of_mem _ e)

/-- Setting an entry keeps a table's indexes rising. -/
theorem tput_rising {α : Type} {t : Tab α} (k : Nat) (a : α) (h : t.Pairwise fun x y => x.1 < y.1) :
    (tput t k a).Pairwise fun x y => x.1 < y.1 := by
  induction t with
  | nil => simp [tput]
  | cons p r ih =>
    obtain ⟨j, b⟩ := p
    obtain ⟨h1, h2⟩ := List.pairwise_cons.mp h
    unfold tput
    split
    case isTrue l =>
      refine List.pairwise_cons.mpr ⟨fun x hx => ?_, h⟩
      rcases List.mem_cons.mp hx with e | e
      · simpa [e] using l
      · exact Nat.lt_trans l (h1 x e)
    case isFalse l =>
      split
      case isTrue e =>
        subst e
        exact List.pairwise_cons.mpr ⟨h1, h2⟩
      case isFalse e =>
        refine List.pairwise_cons.mpr ⟨fun x hx => ?_, ih h2⟩
        rcases mem_tput hx with c | c
        · subst c; dsimp; omega
        · exact h1 x c

/-- A byte listed at a key that no undefined range covers keeps the canonical form. -/
theorem Memory.put_wf {m : Memory} (k : Nat) (b : Byte) (hb : b ≠ 0) (h : m.wf = true)
    (free : ∀ r ∈ m.undef, ¬ (r.lo ≤ k ∧ k < r.hi)) : Memory.wf { m with cells := tput m.cells k b } = true := by
  rw [Memory.wf_iff] at h ⊢
  obtain ⟨p, q, r, u⟩ := h
  refine ⟨tput_rising _ _ p, fun x hx => ?_, r, u⟩
  rcases mem_tput hx with c | c
  · subst c
    exact ⟨hb, free⟩
  · exact q x c

/-- Writing a byte keeps the canonical form. -/
theorem Memory.write_wf {m : Memory} (k : Nat) (b : Byte) (h : m.wf = true) : (m.write k b).wf = true := by
  unfold Memory.write
  dsimp only
  split
  · exact Memory.clear_wf _ _ h
  case isFalse hb =>
    refine Memory.put_wf k b hb (Memory.clear_wf _ _ h) fun r hr => ?_
    have := (Memory.clear_outside (m := m) (Nat.lt_succ_self k)).2 r hr
    omega

/-- Writing bytes keeps the canonical form. -/
theorem Memory.writeAll_wf {m : Memory} (k : Nat) (l : List Byte) (h : m.wf = true) : (m.writeAll k l).wf = true := by
  induction l generalizing m k with
  | nil => exact h
  | cons b r ih => exact ih (k + 1) (Memory.write_wf k b h)

theorem UndefRange.clip_bounds {r p : UndefRange} {lo hi : Nat} (h : p ∈ r.clip lo hi) :
    r.lo ≤ p.lo ∧ p.hi ≤ r.hi ∧ lo ≤ p.lo ∧ p.hi ≤ hi ∧ (r.lo < r.hi → p.lo < p.hi) := by
  unfold UndefRange.clip at h
  split at h
  · simp at h
  · simp only [List.mem_singleton] at h
    subst h
    dsimp
    simp only [Nat.max_def, Nat.min_def]
    split <;> split <;> omega

theorem UndefRange.clip_apart (r : UndefRange) (lo hi : Nat) : (r.clip lo hi).Pairwise UndefRange.apart := by
  unfold UndefRange.clip; split <;> simp

/-- Listing bytes at rising keys that no undefined range covers keeps the canonical form. -/
theorem Memory.putAll_wf (l : List Host.Cell) {m : Memory} (h : m.wf = true) (hl : ∀ c ∈ l, c.2 ≠ 0)
    (free : ∀ c ∈ l, ∀ r ∈ m.undef, ¬ (r.lo ≤ c.1 ∧ c.1 < r.hi)) :
    Memory.wf { m with cells := l.foldl (fun t c => tput t c.1 c.2) m.cells } = true := by
  induction l generalizing m with
  | nil => exact h
  | cons x r ih =>
    have w := Memory.put_wf x.1 x.2 (hl x (by simp)) h (free x (by simp))
    exact ih (m := { m with cells := tput m.cells x.1 x.2 }) w (fun c hc => hl c (by simp [hc]))
      (fun c hc => free c (by simp [hc]))

/-- Copying keeps the canonical form. -/
theorem Memory.copy_wf {m : Memory} (src dst n : Nat) (h : m.wf = true) : (m.copy src dst n).wf = true := by
  rcases Nat.eq_zero_or_pos n with z | pos
  · subst z
    have e : m.copy src dst 0 = m.clear dst (dst + 0) := by
      have c : m.cells.filter (fun c => decide (src ≤ c.1 ∧ c.1 < src + 0)) = [] := by
        rw [List.filter_eq_nil_iff]; intro a _; simp
      have u : m.undef.flatMap (fun r => r.clip src (src + 0)) = [] := by
        rw [List.flatMap_eq_nil_iff]; intro a _; simp [UndefRange.clip]
      simp only [Memory.copy, c, u]
      simp
    rw [e]; exact Memory.clear_wf _ _ h
  · have w := Memory.clear_wf dst (dst + n) h
    have o := Memory.clear_outside (m := m) (show dst < dst + n by omega)
    rw [Memory.wf_iff] at h
    obtain ⟨_, b, c, d⟩ := h
    unfold Memory.copy
    dsimp only
    have w2 : Memory.wf { m.clear dst (dst + n) with
        undef := ((m.undef.flatMap (fun r => r.clip src (src + n))).map fun r =>
          { r with lo := r.lo - src + dst, hi := r.hi - src + dst }) ++ (m.clear dst (dst + n)).undef } = true := by
      rw [Memory.wf_iff] at w ⊢
      obtain ⟨a', b', c', d'⟩ := w
      have inside : ∀ r ∈ ((m.undef.flatMap (fun r => r.clip src (src + n))).map fun r =>
          ({ r with lo := r.lo - src + dst, hi := r.hi - src + dst } : UndefRange)),
          dst ≤ r.lo ∧ r.hi ≤ dst + n ∧ r.lo < r.hi := by
        intro r hr
        obtain ⟨q, hq, e⟩ := List.mem_map.mp hr
        obtain ⟨p, hp, hq⟩ := List.mem_flatMap.mp hq
        have := UndefRange.clip_bounds hq
        have := c p hp
        subst e; dsimp; omega
      refine ⟨a', ?_, ?_, ?_⟩
      · intro x hx
        refine ⟨(b' x hx).1, fun r hr => ?_⟩
        rcases List.mem_append.mp hr with e | e
        · have := inside r e
          have := o.1 x hx
          omega
        · exact (b' x hx).2 r e
      · intro r hr
        rcases List.mem_append.mp hr with e | e
        · exact (inside r e).2.2
        · exact c' r e
      · rw [List.pairwise_append]
        refine ⟨?_, d', ?_⟩
        · rw [List.pairwise_map]
          have pf : (m.undef.flatMap (fun r => r.clip src (src + n))).Pairwise
              fun x y => (UndefRange.apart x y ∧ src ≤ x.lo ∧ src ≤ y.lo ∧ x.lo < x.hi ∧ y.lo < y.hi) := by
            have all : ∀ x ∈ m.undef.flatMap (fun r => r.clip src (src + n)), src ≤ x.lo ∧ x.lo < x.hi := by
              intro x hx
              obtain ⟨p, hp, hx⟩ := List.mem_flatMap.mp hx
              have := UndefRange.clip_bounds hx
              have := c p hp
              omega
            have base : (m.undef.flatMap (fun r => r.clip src (src + n))).Pairwise UndefRange.apart := by
              rw [List.pairwise_flatMap]
              refine ⟨fun q _ => q.clip_apart _ _, d.imp ?_⟩
              intro p q hpq x hx y hy
              have hx := UndefRange.clip_bounds hx
              have hy := UndefRange.clip_bounds hy
              unfold UndefRange.apart at *
              omega
            exact base.imp_of_mem fun hx hy hxy => ⟨hxy, (all _ hx).1, (all _ hy).1, (all _ hx).2, (all _ hy).2⟩
          refine pf.imp ?_
          intro x y hxy
          obtain ⟨p, q, r, s, t⟩ := hxy
          unfold UndefRange.apart at *
          dsimp; omega
        · intro x hx y hy
          have := inside x hx
          have := o.2 y hy
          unfold UndefRange.apart; omega
    refine Memory.putAll_wf _ w2 ?_ ?_
    · intro x hx
      obtain ⟨y, hy, e⟩ := List.mem_map.mp hx
      have := (b y (List.mem_filter.mp hy).1).1
      subst e; exact this
    · intro x hx r hr
      obtain ⟨y, hy, e⟩ := List.mem_map.mp hx
      have hy2 := (List.mem_filter.mp hy).2
      simp at hy2
      have yb := (b y (List.mem_filter.mp hy).1).2
      rcases List.mem_append.mp hr with g | g
      · obtain ⟨q, hq, e2⟩ := List.mem_map.mp g
        obtain ⟨p, hp, hq⟩ := List.mem_flatMap.mp hq
        have := UndefRange.clip_bounds hq
        have := yb p hp
        have := c p hp
        subst e; subst e2; dsimp; omega
      · have := o.2 r g
        subst e; dsimp; omega

/-! ### Reading -/

theorem tget_filter_drop (t : Tab Byte) (p : Host.Cell → Bool) (k : Nat) (h : ∀ b, p (k, b) = false) :
    tget (t.filter p) k = none := by
  induction t with
  | nil => rfl
  | cons x r ih =>
    obtain ⟨j, b⟩ := x
    by_cases e : j = k
    · subst e; simp [h b, ih]
    · by_cases q : p (j, b) = true <;> simp [q, tget, e, ih]

theorem tget_filter_keep (t : Tab Byte) (p : Host.Cell → Bool) (k : Nat) (h : ∀ b, p (k, b) = true) :
    tget (t.filter p) k = tget t k := by
  induction t with
  | nil => rfl
  | cons x r ih =>
    obtain ⟨j, b⟩ := x
    by_cases e : j = k
    · subst e; simp [h b, tget]
    · by_cases q : p (j, b) = true <;> simp [q, tget, e, ih]

/-- A covered key outside the cut keeps its free byte. -/
theorem UndefRange.cut_find {r : UndefRange} {lo hi k : Nat} (hk : k < lo ∨ hi ≤ k) (lt : lo < hi) (cov : r.covers k = true) :
    ∃ p, (r.cut lo hi).find? (fun r => r.covers k) = some p ∧ p.seed = r.seed ∧ p.base + (k - p.lo) = r.base + (k - r.lo) := by
  have c : r.lo ≤ k ∧ k < r.hi := by simpa [UndefRange.covers] using cov
  unfold UndefRange.cut
  split
  · exact ⟨r, by simp [cov], rfl, rfl⟩
  case isFalse nt =>
    rcases hk with a | a
    · have l : r.lo < lo := by omega
      exact ⟨{ r with hi := lo }, by simp [l, UndefRange.covers, c.1, a], rfl, rfl⟩
    · have g : hi < r.hi := by omega
      have n : ¬ k < lo := by omega
      refine ⟨{ r with lo := hi, base := r.base + (hi - r.lo) }, ?_, rfl, by dsimp; omega⟩
      by_cases q : r.lo < lo
      · have n2 : ¬ (r.lo ≤ k ∧ k < lo) := by omega
        simp [q, g, UndefRange.covers, c.2, a, n]
      · simp [q, g, UndefRange.covers, c.2, a]

/-- A cut covers no new key. -/
theorem UndefRange.cut_none {r : UndefRange} {lo hi k : Nat} (cov : ¬ r.covers k = true) :
    (r.cut lo hi).find? (fun r => r.covers k) = none := by
  rw [List.find?_eq_none]
  intro p hp
  have := UndefRange.cut_bounds hp
  simp [UndefRange.covers] at cov ⊢
  omega

/-- A key outside the cut reads as before among the undefined ranges. -/
theorem undef_keep (l : List UndefRange) {lo hi k : Nat} (hk : k < lo ∨ hi ≤ k) (lt : lo < hi) :
    (match (l.flatMap fun r => r.cut lo hi).find? (fun r => r.covers k) with
      | some r => Config.freeByte r.seed (r.base + (k - r.lo)) | none => 0) =
    (match l.find? (fun r => r.covers k) with
      | some r => Config.freeByte r.seed (r.base + (k - r.lo)) | none => 0) := by
  induction l with
  | nil => rfl
  | cons r t ih =>
    rw [List.flatMap_cons, List.find?_append]
    by_cases cov : r.covers k = true
    · obtain ⟨p, h1, h2, h3⟩ := UndefRange.cut_find (lo := lo) (hi := hi) hk lt cov
      rw [h1]
      simp [cov, h2, h3]
    · rw [UndefRange.cut_none cov]
      simpa [List.find?_cons, cov] using ih

/-- Clearing leaves the other bytes. -/
theorem Memory.read_clear_ne (m : Memory) {lo hi k : Nat} (h : k < lo ∨ hi ≤ k) : (m.clear lo hi).read k = m.read k := by
  unfold Memory.clear
  split
  case isFalse => rfl
  case isTrue l =>
    unfold Memory.read
    dsimp only
    rw [tget_filter_keep]
    · cases tget m.cells k with
      | some b => rfl
      | none => exact undef_keep m.undef h l
    · intro b; simp; omega

/-- A cleared byte reads as 0. -/
theorem Memory.read_clear (m : Memory) {lo hi k : Nat} (h : lo ≤ k ∧ k < hi) : (m.clear lo hi).read k = 0 := by
  have l : lo < hi := by omega
  have o := (Memory.clear_outside (m := m) l).2
  unfold Memory.read
  have c : tget (m.clear lo hi).cells k = none := by
    unfold Memory.clear
    simp only [l, if_true]
    apply tget_filter_drop
    intro b; simp; omega
  have u : (m.clear lo hi).undef.find? (fun r => r.covers k) = none := by
    rw [List.find?_eq_none]
    intro r hr
    have := o r hr
    simp [UndefRange.covers]; omega
  rw [c, u]

/-- A byte written reads back. -/
@[simp] theorem Memory.read_write (m : Memory) (k : Nat) (b : Byte) : (m.write k b).read k = b := by
  unfold Memory.write
  dsimp only
  split
  case isTrue h => rw [h]; exact m.read_clear (by omega)
  case isFalse h => simp [Memory.read]

/-- Writing a byte leaves the others. -/
theorem Memory.read_write_ne (m : Memory) {k j : Nat} (b : Byte) (h : j ≠ k) : (m.write k b).read j = m.read j := by
  have c := m.read_clear_ne (lo := k) (hi := k + 1) (k := j) (by omega)
  unfold Memory.write
  dsimp only
  split
  · exact c
  · rw [← c]
    simp [Memory.read, tget_tput_ne _ _ h]

/-- Writing bytes leaves the bytes outside them. -/
theorem Memory.read_writeAll_ne (m : Memory) {k j : Nat} (l : List Byte) (h : j < k ∨ k + l.length ≤ j) :
    (m.writeAll k l).read j = m.read j := by
  induction l generalizing m k with
  | nil => rfl
  | cons b r ih =>
    simp only [List.length_cons] at h
    rw [Memory.writeAll, ih (m.write k b) (by omega), m.read_write_ne b (by omega)]

/-- Bytes written read back. -/
theorem Memory.read_writeAll (m : Memory) (k : Nat) (l : List Byte) {i : Nat} (h : i < l.length) :
    (m.writeAll k l).read (k + i) = l[i] := by
  induction l generalizing m k i with
  | nil => simp at h
  | cons b r ih =>
    rw [Memory.writeAll]
    cases i with
    | zero => rw [Memory.read_writeAll_ne _ _ (by omega)]; simp
    | succ i =>
      have := ih (m.write k b) (k + 1) (i := i) (by simpa using h)
      simpa [Nat.add_assoc, Nat.add_comm 1] using this

/-- The storage at reset is in canonical form. -/
theorem State.reset_mem_wf : State.reset.mem.wf = true := by decide

end Sys2Proof.Machine
end

