-- ==== Sys2Proof/Laws/Address.lean ====
section
/-! SUPPORT. Device addresses and digests: where a host address lies, that bytes written to host memory read back, and the
length of a SHA-384 digest. -/

namespace Sys2Proof.Machine

/-- Host addresses below 2⁵⁶ carry SPACE 2 (R182). -/
theorem parseAddr_host {x : Nat} (h : x < 2 ^ 56) : parseAddr (2 ^ 63 + x) = .host x := by
  have a : fld (2 ^ 63 + x) 63 62 = 2 := by simp only [fld]; omega
  have b : fld (2 ^ 63 + x) 61 56 = 0 := by simp only [fld]; omega
  have c : fld (2 ^ 63 + x) 55 0 = x := by simp only [fld]; omega
  have d : ¬ 2 ^ 63 + x ≥ 2 ^ 64 := by omega
  simp only [parseAddr, d, if_false, a, b, c, if_true]

/-- Where a host address lies. -/
theorem State.key_host (s : State) (p d : Nat) {x : Nat} (h : x < 2 ^ 56) : s.key p d (2 ^ 63 + x) = some (hostKey x) := by
  simp only [State.key, parseAddr_host h]

/-- Bytes that firmware reads from host memory are those stored there. -/
theorem State.fwRead_host (s : State) {x n : Nat} (h : x + n ≤ 2 ^ 56) :
    s.fwRead (2 ^ 63 + x) n = (List.range n).map fun i => s.mem.read (hostKey x + i) := by
  simp only [State.fwRead, State.readBytes]
  refine List.map_congr_left fun i hi => ?_
  have := List.mem_range.1 hi
  simp only [State.readAt, Nat.add_assoc, s.key_host 0 0 (x := x + i) (by omega), hostKey]

/-- Bytes written to host memory are read back by firmware. -/
theorem State.fwRead_written (s : State) (m : Memory) {x : Nat} (l : List Byte) (e : s.mem = m.writeAll (hostKey x) l)
    (h : x + l.length ≤ 2 ^ 56) : s.fwRead (2 ^ 63 + x) l.length = l := by
  rw [s.fwRead_host h, e]
  refine List.ext_getElem (by simp) fun i _ hi => ?_
  simp only [List.getElem_map, List.getElem_range]
  exact m.read_writeAll _ _ hi

theorem shaRound_length (v : List Nat) (k w : Nat) (h : v.length = 8) : (shaRound v k w).length = 8 := by
  unfold shaRound; split
  · rfl
  · exact h

theorem shaRounds_length (ks ws v : List Nat) (h : v.length = 8) : (shaRounds ks ws v).length = 8 := by
  induction ks generalizing ws v with
  | nil => simpa [shaRounds] using h
  | cons k ks ih =>
    cases ws with
    | nil => simpa [shaRounds] using h
    | cons w ws => exact ih ws _ (shaRound_length v k w h)

theorem shaBlock_length (v : List Nat) (b : List Byte) (h : v.length = 8) : (shaBlock v b).length = 8 := by
  simp [shaBlock, h, shaRounds_length]

theorem shaBlocks_length (n : Nat) (v : List Nat) (l : List Byte) (h : v.length = 8) : (shaBlocks n v l).length = 8 := by
  induction n generalizing v l with
  | zero => exact h
  | succ n ih => exact ih _ _ (shaBlock_length v _ h)

@[simp] theorem leBytes_length (n v : Nat) : (leBytes n v).length = n := by
  induction n generalizing v with
  | zero => rfl
  | succ n ih => simp [leBytes, ih]

/-- A SHA-384 digest has 48 bytes. -/
@[simp] theorem sha384_length (l : List Byte) : (sha384 l).length = 48 := by
  have e := shaBlocks_length ((shaPad l).length / 128) sha384Init (shaPad l) rfl
  simp [sha384, List.length_flatMap, e]

end Sys2Proof.Machine
end

