-- ==== Sys2Proof/Laws/Lists.lean ====
section
/-! SUPPORT. The shared list operations: sorting keeps the elements and orders them. -/

namespace Sys2Proof.Machine

theorem sortInsert_perm {α : Type} (le : α → α → Bool) (x : α) (l : List α) :
    (sortInsert le x l).Perm (x :: l) := by
  induction l with
  | nil => exact .refl _
  | cons y l ih =>
    simp only [sortInsert]
    split
    · exact .refl _
    · exact (ih.cons y).trans (.swap x y l)

/-- Sorting neither adds nor drops an element. -/
theorem sortBy_perm {α : Type} (le : α → α → Bool) (l : List α) : (sortBy le l).Perm l := by
  induction l with
  | nil => exact .refl _
  | cons x l ih => exact (sortInsert_perm le x (sortBy le l)).trans (ih.cons x)

@[simp] theorem mem_sortBy {α : Type} (le : α → α → Bool) (l : List α) (a : α) : a ∈ sortBy le l ↔ a ∈ l :=
  (sortBy_perm le l).mem_iff

/-- A sorted list is in order, for an order in which any two elements compare. -/
theorem sortBy_pairwise {α : Type} (le : α → α → Bool) (trans : ∀ a b c, le a b → le b c → le a c)
    (total : ∀ a b, le a b = false → le b a) (l : List α) : (sortBy le l).Pairwise (fun a b => le a b) := by
  induction l with
  | nil => exact .nil
  | cons x l ih =>
    change (sortInsert le x (sortBy le l)).Pairwise _
    generalize sortBy le l = m at ih
    induction m with
    | nil => simp [sortInsert]
    | cons y m jh =>
      obtain ⟨hy, hm⟩ := List.pairwise_cons.1 ih
      simp only [sortInsert]
      split
      · next h =>
        refine List.pairwise_cons.2 ⟨fun z hz => ?_, ih⟩
        rcases List.mem_cons.1 hz with rfl | hz
        · exact h
        · exact trans _ _ _ h (hy z hz)
      · next h =>
        refine List.pairwise_cons.2 ⟨fun z hz => ?_, jh hm⟩
        rcases List.mem_cons.1 ((sortInsert_perm le x m).mem_iff.1 hz) with rfl | hz
        · exact total _ _ (by simpa using h)
        · exact hy z hz

end Sys2Proof.Machine
end

