-- ==== Sys2Proof/Laws/Messages.lean ====
section
/-! SUPPORT. The outcome of a command, and what sending a message or raising an event does: all else is left as it was. -/

namespace Sys2Proof.Machine

/-! ### Outcomes -/

/-- Every command that `done` ends answers a next state, with the queue and the variant as they were. -/
theorem done_next (s t : State) : done s t = .next { t with pending := s.pending, variant := s.variant } := rfl

/-- In service, a command's outcome is its effect. -/
theorem act_live (s : State) (f : State → State) (h : s.flt.fatal = false) :
    act s f = .next { f s with pending := s.pending, variant := s.variant } := by
  simp [act, done, h]

/-- After the fatal report, a command leaves the state as it was (R348). -/
theorem act_fatal (s : State) (f : State → State) (h : s.flt.fatal = true) : act s f = .next s := by
  simp [act, done, h]

namespace State

/-! ### Messages and events -/

theorem pump_eq (s : State) : s.pump = { s with plk := s.pump.plk, out := s.pump.out } := by
  unfold pump; split <;> rfl

@[simp] theorem pump_frame (s : State)  :
    (s.pump).variant = s.variant ∧ (s.pump).pending = s.pending ∧ (s.pump).mem = s.mem ∧
    (s.pump).free = s.free ∧ (s.pump).events = s.events ∧ (s.pump).domains = s.domains ∧
    (s.pump).cores = s.cores ∧ (s.pump).groups = s.groups ∧ (s.pump).quads = s.quads ∧
    (s.pump).arrays = s.arrays ∧ (s.pump).contexts = s.contexts ∧ (s.pump).ctxHandles = s.ctxHandles ∧
    (s.pump).ptns = s.ptns ∧ (s.pump).ptnHandles = s.ptnHandles ∧ (s.pump).granules = s.granules ∧
    (s.pump).batch = s.batch ∧ (s.pump).jobs = s.jobs ∧ (s.pump).jobHandles = s.jobHandles ∧
    (s.pump).channels = s.channels ∧ (s.pump).chanHandles = s.chanHandles ∧ (s.pump).hbm = s.hbm ∧
    (s.pump).pcs = s.pcs ∧ (s.pump).attrs = s.attrs ∧ (s.pump).dmas = s.dmas ∧
    (s.pump).links = s.links ∧ (s.pump).delivered = s.delivered ∧ (s.pump).streams = s.streams ∧
    (s.pump).streamHandles = s.streamHandles ∧ (s.pump).engines = s.engines ∧ (s.pump).hotset = s.hotset ∧
    (s.pump).tests = s.tests ∧ (s.pump).instances = s.instances ∧ (s.pump).requests = s.requests ∧
    (s.pump).reqHandles = s.reqHandles ∧ (s.pump).adapters = s.adapters ∧ (s.pump).adpHandles = s.adpHandles ∧
    (s.pump).rings = s.rings ∧ (s.pump).ringHandles = s.ringHandles ∧ (s.pump).published = s.published ∧
    (s.pump).ports = s.ports ∧ (s.pump).net = s.net ∧ (s.pump).collectives = s.collectives ∧
    (s.pump).ckp = s.ckp ∧ (s.pump).sesHandles = s.sesHandles ∧ (s.pump).flt = s.flt ∧
    (s.pump).pwr = s.pwr ∧ (s.pump).boot = s.boot ∧ (s.pump).sel = s.sel ∧
    (s.pump).pins = s.pins ∧ (s.pump).netOut = s.netOut ∧ (s.pump).ctl = s.ctl ∧ (s.pump).netHeld = s.netHeld ∧ (s.pump).lines = s.lines := by
  rw [pump_eq]; and_intros <;> rfl

theorem send_eq (s : State) (m : OutMsg) : s.send m = { s with plk := (s.send m).plk, out := (s.send m).out } := by
  unfold send; split
  · rw [pump_eq]
  · rfl

@[simp] theorem send_frame (s : State) (m : OutMsg) :
    (s.send m).variant = s.variant ∧ (s.send m).pending = s.pending ∧ (s.send m).mem = s.mem ∧
    (s.send m).free = s.free ∧ (s.send m).events = s.events ∧ (s.send m).domains = s.domains ∧
    (s.send m).cores = s.cores ∧ (s.send m).groups = s.groups ∧ (s.send m).quads = s.quads ∧
    (s.send m).arrays = s.arrays ∧ (s.send m).contexts = s.contexts ∧ (s.send m).ctxHandles = s.ctxHandles ∧
    (s.send m).ptns = s.ptns ∧ (s.send m).ptnHandles = s.ptnHandles ∧ (s.send m).granules = s.granules ∧
    (s.send m).batch = s.batch ∧ (s.send m).jobs = s.jobs ∧ (s.send m).jobHandles = s.jobHandles ∧
    (s.send m).channels = s.channels ∧ (s.send m).chanHandles = s.chanHandles ∧ (s.send m).hbm = s.hbm ∧
    (s.send m).pcs = s.pcs ∧ (s.send m).attrs = s.attrs ∧ (s.send m).dmas = s.dmas ∧
    (s.send m).links = s.links ∧ (s.send m).delivered = s.delivered ∧ (s.send m).streams = s.streams ∧
    (s.send m).streamHandles = s.streamHandles ∧ (s.send m).engines = s.engines ∧ (s.send m).hotset = s.hotset ∧
    (s.send m).tests = s.tests ∧ (s.send m).instances = s.instances ∧ (s.send m).requests = s.requests ∧
    (s.send m).reqHandles = s.reqHandles ∧ (s.send m).adapters = s.adapters ∧ (s.send m).adpHandles = s.adpHandles ∧
    (s.send m).rings = s.rings ∧ (s.send m).ringHandles = s.ringHandles ∧ (s.send m).published = s.published ∧
    (s.send m).ports = s.ports ∧ (s.send m).net = s.net ∧ (s.send m).collectives = s.collectives ∧
    (s.send m).ckp = s.ckp ∧ (s.send m).sesHandles = s.sesHandles ∧ (s.send m).flt = s.flt ∧
    (s.send m).pwr = s.pwr ∧ (s.send m).boot = s.boot ∧ (s.send m).sel = s.sel ∧
    (s.send m).pins = s.pins ∧ (s.send m).netOut = s.netOut ∧ (s.send m).ctl = s.ctl ∧ (s.send m).netHeld = s.netHeld ∧ (s.send m).lines = s.lines := by
  rw [send_eq]; and_intros <;> rfl

theorem evalEvent_eq (s : State) (e : Nat) : s.evalEvent e = { s with events := (s.evalEvent e).events, plk := (s.evalEvent e).plk, out := (s.evalEvent e).out } := by
  unfold evalEvent; dsimp only; split
  · rfl
  · rw [send_eq]; rfl

@[simp] theorem evalEvent_frame (s : State) (e : Nat) :
    (s.evalEvent e).variant = s.variant ∧ (s.evalEvent e).pending = s.pending ∧ (s.evalEvent e).mem = s.mem ∧
    (s.evalEvent e).free = s.free ∧ (s.evalEvent e).domains = s.domains ∧ (s.evalEvent e).cores = s.cores ∧
    (s.evalEvent e).groups = s.groups ∧ (s.evalEvent e).quads = s.quads ∧ (s.evalEvent e).arrays = s.arrays ∧
    (s.evalEvent e).contexts = s.contexts ∧ (s.evalEvent e).ctxHandles = s.ctxHandles ∧ (s.evalEvent e).ptns = s.ptns ∧
    (s.evalEvent e).ptnHandles = s.ptnHandles ∧ (s.evalEvent e).granules = s.granules ∧ (s.evalEvent e).batch = s.batch ∧
    (s.evalEvent e).jobs = s.jobs ∧ (s.evalEvent e).jobHandles = s.jobHandles ∧ (s.evalEvent e).channels = s.channels ∧
    (s.evalEvent e).chanHandles = s.chanHandles ∧ (s.evalEvent e).hbm = s.hbm ∧ (s.evalEvent e).pcs = s.pcs ∧
    (s.evalEvent e).attrs = s.attrs ∧ (s.evalEvent e).dmas = s.dmas ∧ (s.evalEvent e).links = s.links ∧
    (s.evalEvent e).delivered = s.delivered ∧ (s.evalEvent e).streams = s.streams ∧ (s.evalEvent e).streamHandles = s.streamHandles ∧
    (s.evalEvent e).engines = s.engines ∧ (s.evalEvent e).hotset = s.hotset ∧ (s.evalEvent e).tests = s.tests ∧
    (s.evalEvent e).instances = s.instances ∧ (s.evalEvent e).requests = s.requests ∧ (s.evalEvent e).reqHandles = s.reqHandles ∧
    (s.evalEvent e).adapters = s.adapters ∧ (s.evalEvent e).adpHandles = s.adpHandles ∧ (s.evalEvent e).rings = s.rings ∧
    (s.evalEvent e).ringHandles = s.ringHandles ∧ (s.evalEvent e).published = s.published ∧ (s.evalEvent e).ports = s.ports ∧
    (s.evalEvent e).net = s.net ∧ (s.evalEvent e).collectives = s.collectives ∧ (s.evalEvent e).ckp = s.ckp ∧
    (s.evalEvent e).sesHandles = s.sesHandles ∧ (s.evalEvent e).flt = s.flt ∧ (s.evalEvent e).pwr = s.pwr ∧
    (s.evalEvent e).boot = s.boot ∧ (s.evalEvent e).sel = s.sel ∧ (s.evalEvent e).pins = s.pins ∧
    (s.evalEvent e).netOut = s.netOut ∧ (s.evalEvent e).ctl = s.ctl ∧ (s.evalEvent e).netHeld = s.netHeld ∧ (s.evalEvent e).lines = s.lines := by
  rw [evalEvent_eq]; and_intros <;> rfl

theorem raiseEv_eq (s : State) (e b : Nat) : s.raiseEv e b = { s with events := (s.raiseEv e b).events, plk := (s.raiseEv e b).plk, out := (s.raiseEv e b).out } := by
  unfold raiseEv; dsimp only; rw [evalEvent_eq]; rfl

@[simp] theorem raiseEv_frame (s : State) (e b : Nat) :
    (s.raiseEv e b).variant = s.variant ∧ (s.raiseEv e b).pending = s.pending ∧ (s.raiseEv e b).mem = s.mem ∧
    (s.raiseEv e b).free = s.free ∧ (s.raiseEv e b).domains = s.domains ∧ (s.raiseEv e b).cores = s.cores ∧
    (s.raiseEv e b).groups = s.groups ∧ (s.raiseEv e b).quads = s.quads ∧ (s.raiseEv e b).arrays = s.arrays ∧
    (s.raiseEv e b).contexts = s.contexts ∧ (s.raiseEv e b).ctxHandles = s.ctxHandles ∧ (s.raiseEv e b).ptns = s.ptns ∧
    (s.raiseEv e b).ptnHandles = s.ptnHandles ∧ (s.raiseEv e b).granules = s.granules ∧ (s.raiseEv e b).batch = s.batch ∧
    (s.raiseEv e b).jobs = s.jobs ∧ (s.raiseEv e b).jobHandles = s.jobHandles ∧ (s.raiseEv e b).channels = s.channels ∧
    (s.raiseEv e b).chanHandles = s.chanHandles ∧ (s.raiseEv e b).hbm = s.hbm ∧ (s.raiseEv e b).pcs = s.pcs ∧
    (s.raiseEv e b).attrs = s.attrs ∧ (s.raiseEv e b).dmas = s.dmas ∧ (s.raiseEv e b).links = s.links ∧
    (s.raiseEv e b).delivered = s.delivered ∧ (s.raiseEv e b).streams = s.streams ∧ (s.raiseEv e b).streamHandles = s.streamHandles ∧
    (s.raiseEv e b).engines = s.engines ∧ (s.raiseEv e b).hotset = s.hotset ∧ (s.raiseEv e b).tests = s.tests ∧
    (s.raiseEv e b).instances = s.instances ∧ (s.raiseEv e b).requests = s.requests ∧ (s.raiseEv e b).reqHandles = s.reqHandles ∧
    (s.raiseEv e b).adapters = s.adapters ∧ (s.raiseEv e b).adpHandles = s.adpHandles ∧ (s.raiseEv e b).rings = s.rings ∧
    (s.raiseEv e b).ringHandles = s.ringHandles ∧ (s.raiseEv e b).published = s.published ∧ (s.raiseEv e b).ports = s.ports ∧
    (s.raiseEv e b).net = s.net ∧ (s.raiseEv e b).collectives = s.collectives ∧ (s.raiseEv e b).ckp = s.ckp ∧
    (s.raiseEv e b).sesHandles = s.sesHandles ∧ (s.raiseEv e b).flt = s.flt ∧ (s.raiseEv e b).pwr = s.pwr ∧
    (s.raiseEv e b).boot = s.boot ∧ (s.raiseEv e b).sel = s.sel ∧ (s.raiseEv e b).pins = s.pins ∧
    (s.raiseEv e b).netOut = s.netOut ∧ (s.raiseEv e b).ctl = s.ctl ∧ (s.raiseEv e b).netHeld = s.netHeld ∧ (s.raiseEv e b).lines = s.lines := by
  rw [raiseEv_eq]; and_intros <;> rfl

theorem raiseCtx_eq (s : State) (e b c q : Nat) : s.raiseCtx e b c q = { s with events := (s.raiseCtx e b c q).events, plk := (s.raiseCtx e b c q).plk, out := (s.raiseCtx e b c q).out } := by
  unfold raiseCtx; dsimp only; rw [evalEvent_eq]; rfl

@[simp] theorem raiseCtx_frame (s : State) (e b c q : Nat) :
    (s.raiseCtx e b c q).variant = s.variant ∧ (s.raiseCtx e b c q).pending = s.pending ∧ (s.raiseCtx e b c q).mem = s.mem ∧
    (s.raiseCtx e b c q).free = s.free ∧ (s.raiseCtx e b c q).domains = s.domains ∧ (s.raiseCtx e b c q).cores = s.cores ∧
    (s.raiseCtx e b c q).groups = s.groups ∧ (s.raiseCtx e b c q).quads = s.quads ∧ (s.raiseCtx e b c q).arrays = s.arrays ∧
    (s.raiseCtx e b c q).contexts = s.contexts ∧ (s.raiseCtx e b c q).ctxHandles = s.ctxHandles ∧ (s.raiseCtx e b c q).ptns = s.ptns ∧
    (s.raiseCtx e b c q).ptnHandles = s.ptnHandles ∧ (s.raiseCtx e b c q).granules = s.granules ∧ (s.raiseCtx e b c q).batch = s.batch ∧
    (s.raiseCtx e b c q).jobs = s.jobs ∧ (s.raiseCtx e b c q).jobHandles = s.jobHandles ∧ (s.raiseCtx e b c q).channels = s.channels ∧
    (s.raiseCtx e b c q).chanHandles = s.chanHandles ∧ (s.raiseCtx e b c q).hbm = s.hbm ∧ (s.raiseCtx e b c q).pcs = s.pcs ∧
    (s.raiseCtx e b c q).attrs = s.attrs ∧ (s.raiseCtx e b c q).dmas = s.dmas ∧ (s.raiseCtx e b c q).links = s.links ∧
    (s.raiseCtx e b c q).delivered = s.delivered ∧ (s.raiseCtx e b c q).streams = s.streams ∧ (s.raiseCtx e b c q).streamHandles = s.streamHandles ∧
    (s.raiseCtx e b c q).engines = s.engines ∧ (s.raiseCtx e b c q).hotset = s.hotset ∧ (s.raiseCtx e b c q).tests = s.tests ∧
    (s.raiseCtx e b c q).instances = s.instances ∧ (s.raiseCtx e b c q).requests = s.requests ∧ (s.raiseCtx e b c q).reqHandles = s.reqHandles ∧
    (s.raiseCtx e b c q).adapters = s.adapters ∧ (s.raiseCtx e b c q).adpHandles = s.adpHandles ∧ (s.raiseCtx e b c q).rings = s.rings ∧
    (s.raiseCtx e b c q).ringHandles = s.ringHandles ∧ (s.raiseCtx e b c q).published = s.published ∧ (s.raiseCtx e b c q).ports = s.ports ∧
    (s.raiseCtx e b c q).net = s.net ∧ (s.raiseCtx e b c q).collectives = s.collectives ∧ (s.raiseCtx e b c q).ckp = s.ckp ∧
    (s.raiseCtx e b c q).sesHandles = s.sesHandles ∧ (s.raiseCtx e b c q).flt = s.flt ∧ (s.raiseCtx e b c q).pwr = s.pwr ∧
    (s.raiseCtx e b c q).boot = s.boot ∧ (s.raiseCtx e b c q).sel = s.sel ∧ (s.raiseCtx e b c q).pins = s.pins ∧
    (s.raiseCtx e b c q).netOut = s.netOut ∧ (s.raiseCtx e b c q).ctl = s.ctl ∧ (s.raiseCtx e b c q).netHeld = s.netHeld ∧ (s.raiseCtx e b c q).lines = s.lines := by
  rw [raiseCtx_eq]; and_intros <;> rfl


@[simp] theorem pump_events (s : State) : s.pump.events = s.events := by rw [pump_eq]

/-- Sending touches no event register. -/
@[simp] theorem send_ev (s : State) (m : OutMsg) (e : Nat) : (s.send m).ev e = s.ev e := by simp [ev]

/-- Evaluating an event register leaves its value. -/
@[simp] theorem evalEvent_value (s : State) (e i : Nat) : ((s.evalEvent e).ev i).value = (s.ev i).value := by
  unfold evalEvent; dsimp only; split
  · rfl
  · rw [send_ev]
    by_cases h : i = e
    · subst h; simp
    · rw [setEv_ev_ne _ _ h]

/-- Raising an event sets its bit. -/
theorem raiseEv_value (s : State) (e b : Nat) : ((s.raiseEv e b).ev e).value = (s.ev e).value ||| 2 ^ b := by
  simp [raiseEv]

/-- Raising an event leaves the values of the other registers. -/
theorem raiseEv_value_ne (s : State) (b : Nat) {e i : Nat} (h : i ≠ e) :
    ((s.raiseEv e b).ev i).value = (s.ev i).value := by
  simp [raiseEv, setEv_ev_ne _ _ h]

/-- Raising an event for a queue sets its bit. -/
theorem raiseCtx_value (s : State) (e b c q : Nat) : ((s.raiseCtx e b c q).ev e).value = (s.ev e).value ||| 2 ^ b := by
  simp [raiseCtx]

theorem raiseCtx_value_ne (s : State) (b c q : Nat) {e i : Nat} (h : i ≠ e) :
    ((s.raiseCtx e b c q).ev i).value = (s.ev i).value := by
  simp [raiseCtx, setEv_ev_ne _ _ h]

/-! ### What has been sent -/

/-- A message that the pump takes is sent or kept, and nothing sent or kept is lost. -/
theorem take_keeps (x : Pump) (m n : OutMsg) (h : n = m ∨ n ∈ x.out ∨ n ∈ x.kept) :
    n ∈ (x.take m).out ∨ n ∈ (x.take m).kept := by
  have k : ((∃ i, (x.take m).out = x.out ++ i ++ [m]) ∧ (x.take m).kept = x.kept) ∨
      ((x.take m).out = x.out ∧ (x.take m).kept = x.kept ++ [m]) := by
    unfold Pump.take
    extract_lets _ _ room may
    by_cases c : (room && may && !x.full) = true
    · rw [if_pos c]
      refine .inl ⟨?_, rfl⟩
      dsimp only
      split
      · exact ⟨[OutMsg.idle], rfl⟩
      · exact ⟨[], by rw [List.append_nil]⟩
    · rw [if_neg c]; exact .inr ⟨rfl, rfl⟩
  rcases k with ⟨⟨i, a⟩, b⟩ | ⟨a, b⟩ <;> rw [a, b] <;> rcases h with h | h | h <;> simp [h]

theorem takeAll_keeps (l : List OutMsg) (x : Pump) (n : OutMsg) (h : n ∈ l ∨ n ∈ x.out ∨ n ∈ x.kept) :
    n ∈ (l.foldl Pump.take x).out ∨ n ∈ (l.foldl Pump.take x).kept := by
  induction l generalizing x with
  | nil => simpa using h
  | cons m r ih =>
    refine ih (x.take m) ?_
    rcases h with h | h
    · rcases List.mem_cons.mp h with e | e
      · exact .inr (take_keeps x m n (.inl e))
      · exact .inl e
    · exact .inr (take_keeps x m n (.inr h))

/-- The pump loses no message. -/
theorem pump_sends {s : State} {m : OutMsg} (h : s.sends m) : s.pump.sends m := by
  unfold pump
  split
  · refine takeAll_keeps _ _ m ?_
    rcases h with h | h
    · exact .inr (.inl h)
    · exact .inl h
  · exact h

/-- A message sent over a link that is up has been sent or waits. -/
theorem send_sends (s : State) (m : OutMsg) (h : s.linkUp = true) : (s.send m).sends m := by
  unfold send
  rw [if_pos h]
  exact pump_sends (.inr (by simp))

/-- Sending another message loses none. -/
theorem sends_send {s : State} {m : OutMsg} (n : OutMsg) (h : s.sends m) : (s.send n).sends m := by
  unfold send
  split
  · refine pump_sends ?_
    rcases h with h | h
    · exact .inl h
    · exact .inr (List.mem_append_left _ h)
  · exact h

theorem sends_emit {s : State} {m : OutMsg} (n : OutMsg) (h : s.sends m) : (s.emit n).sends m := by
  rcases h with h | h
  · exact .inl (List.mem_append_left _ h)
  · exact .inr h

theorem sends_evalEvent {s : State} {m : OutMsg} (e : Nat) (h : s.sends m) : (s.evalEvent e).sends m := by
  unfold evalEvent
  dsimp only
  split
  · exact h
  · exact sends_send _ h

theorem sends_raiseEv {s : State} {m : OutMsg} (e b : Nat) (h : s.sends m) : (s.raiseEv e b).sends m :=
  sends_evalEvent e h

end State

end Sys2Proof.Machine
end

