-- ==== Sys2Proof/WellFormed.lean ====
section
/-! DEFINITION. The operands a command may carry: every number within the table it indexes, every value within the
width the spec gives its field. A command that is not well-formed names nothing of the block. -/

namespace Sys2Proof

/-- A context index (Table 0-5, R238). -/
def ctxOk (ctx : Nat) : Bool := decide (ctx < 512)

/-- A queue number (R150). -/
def queueOk (q : Nat) : Bool := decide (q < 4)

/-- An array number (R68). -/
def arrOk (arr : Nat) : Bool := decide (arr < 4096)

/-- A group number. -/
def groupOk (g : Nat) : Bool := decide (g < 8)

/-- A quadrant number. -/
def quadOk (k : Nat) : Bool := decide (k < 32)

/-- A domain number, PD0 to PD79. -/
def domainOk (d : Nat) : Bool := decide (d < 80)

/-- A Rhizome link number, L00 to L21 (Table 2-1). -/
def linkOk (l : Nat) : Bool := decide (l < 22)

/-- A device address (R182). -/
def addrOk (a : Nat) : Bool := decide (a < 2 ^ 64)

/-- An offset in the 256 MiB register window (R418). -/
def offsetOk (o : Nat) : Bool := decide (o < 2 ^ 28)

/-- A register access of `size` bytes, 4 or 8 (Table 15-5). -/
def sizeOk (size : Nat) : Bool := decide (size = 4 ∨ size = 8)

/-- A group member number (R289). -/
def memberOk (m : Nat) : Bool := decide (m < 1024)

/-- A Puchlink tag (Table 15-4). -/
def tagOk (t : Nat) : Bool := decide (t < 2 ^ 16)

/-- A frame of HBM (R180). -/
def frameOk (f : Nat) : Bool := decide (f < 512 * 34332)

/-- An Ethernet port. -/
def portOk (p : Nat) : Bool := decide (p < 8)

/-- What an array ECC error names exists in the array. -/
def EccPlace.wf : EccPlace → Bool
  | .half h => decide (h < 2)
  | .slot k => decide (k < 4)
  | .scratch p g => decide (p < 32) && decide (g < 1280)

/-- What an arbiter's name names exists. -/
def Arbiter.wf : Arbiter → Bool
  | .hbm pc => decide (pc < 512)
  | .dma e => decide (e < 16)
  | .sorus slice _ => groupOk slice
  | .rz link _ _ => linkOk link

/-- The operands of a command are in range. -/
def Instr.wf : Instr → Bool
  | .regWrite o _ => offsetOk o
  | .eventRegWrite o _ => offsetOk o
  | .regWr o size v => offsetOk o && sizeOk size && decide (v < 2 ^ (8 * size))
  | .regWra t o size v => tagOk t && offsetOk o && sizeOk size && decide (v < 2 ^ (8 * size))
  | .regRd t o size => tagOk t && offsetOk o && sizeOk size
  | .memWr a d => addrOk a && decide (1 ≤ d.length ∧ d.length ≤ 256)
  | .memRd t a n => tagOk t && addrOk a && decide (1 ≤ n ∧ n ≤ 256)
  | .cplReceive t _ _ => tagOk t
  | .hostRdTimeout t => tagOk t
  | .hostWrAck _ => true
  | .flitReceive b => decide (b.length = 256)
  | .plkAckTimeout => true
  | .plkRetrainEnd _ => true
  | .plkCtlRetrain => true
  | .linkTraining _ lanes _ _ _ => decide (lanes < 16)
  | .trainingTimeout => true
  | .laneFailure l => decide (l < 4)
  | .timeCorrRound xs => decide (∀ x ∈ xs, x.source ≤ 92)
  | .timePong _ _ _ => true
  | .pingTimeout _ => true
  | .rzTransferReceive l _ _ p _ => linkOk l && decide (p.length ≤ 4096)
  | .rzRetrainEnd l _ => linkOk l
  | .detourTimeout l => linkOk l
  | .rateWindowEnd k _ _ _ => quadOk k
  | .opRampEnd g => groupOk g
  | .matmul c q _ | .convrow c q _ | .eltwise c q _ | .reduce c q _ | .topk c q _ | .convert c q _ | .sput c q _
  | .stake c q _ | .loss c q _ | .dma c q _ | .fence c q _ | .event c q _ => ctxOk c && queueOk q
  | .doorbell n v => decide (n < 2048) && decide (v < 2 ^ 64)
  | .ctxQRestart _ => true
  | .ctxQAbort => true
  | .commandDispatch c q => ctxOk c && queueOk q
  | .commandComplete c q _ => ctxOk c && queueOk q
  | .fenceSatisfied c q => ctxOk c && queueOk q
  | .fenceWaitLimit c q => ctxOk c && queueOk q
  | .arrayIssue a => arrOk a
  | .arrayDrainEnd a => arrOk a
  | .combine c q _ _ _ => ctxOk c && queueOk q
  | .arrayEccError a p _ => arrOk a && p.wf
  | .layerGate c q => ctxOk c && queueOk q
  | .stepGateRelease c => ctxOk c
  | .jobOpen a | .jobClose a | .channelOpen a | .channelClose a => addrOk a
  | .closeWaitLimit ch => decide (ch < 1024)
  | .sorWaitLimit c q _ => ctxOk c && queueOk q
  | .parkedResume c => ctxOk c
  | .cowCopyDone f => frameOk f
  | .attrRequest a => addrOk a
  | .hbmEccUe f line _ => frameOk f && decide (line < 512)
  | .hbmParityError pc => decide (pc < 512)
  | .pcPowerDown pc => decide (pc < 512)
  | .arbStarvation site _ _ => site.wf
  | .streamOpen a _ | .streamClose a | .streamPause a | .streamResume a => addrOk a
  | .clipFetch n e => decide (n < 16) && decide (e.length = 32)
  | .rdmaReadComplete n p _ r _ => decide (n < 16) && decide (p < 2 ^ 48) && decide (r < 3)
  | .clipMissingLimit n => decide (n < 16)
  | .clipDecodeStart n e => decide (n < 16) && decide (e < 24)
  | .clipDecodeEnd e => decide (e < 24)
  | .blockWrite n => decide (n < 16)
  | .layoutBatch a => addrOk a
  | .layoutBatchComplete => true
  | .restripeCopyEnd p => decide (p < 32)
  | .contextCreate a | .contextDestroy a | .hotsetRequest a | .testRequest a => addrOk a
  | .testBorrowStart c => decide (c < 12)
  | .testDeferLimit c => decide (c < 12)
  | .testWindowEnd c _ => decide (c < 12)
  | .procedureEnd c _ => decide (c < 12)
  | .contextBind c => ctxOk c
  | .slotBoundary g => groupOk g
  | .handoverStart g => groupOk g
  | .sliceExpiry c | .contextSaveDone c | .contextRestoreDone c | .contextTeardown c => ctxOk c
  | .instanceCreate a | .instanceDestroy a | .adapterRegister a | .adapterRelease a | .ringCreate a | .ringDestroy a
  | .requestCancel a => addrOk a
  | .requestAdmission i => decide (i < 16)
  | .servingStepBoundary i => decide (i < 16)
  | .servingPassEnd i => decide (i < 16)
  | .peerRingFailure r => decide (r < 8192)
  | .hello m => memberOk m.member
  | .helloAnswer st => decide (st.val < 256)
  | .formationLimit => true
  | .stepEndReport m _ _ _ => memberOk m.val
  | .stepStartAck _ => true
  | .stepStartRecord _ => true
  | .heartbeatSend => true
  | .heartbeatReceive m _ => memberOk m
  | .peerMiss m => memberOk m
  | .missReport m _ => memberOk m
  | .takeover m _ _ => memberOk m
  | .takeoverAnswer m _ _ => memberOk m
  | .failoverLimit => true
  | .collectiveStart c _ => ctxOk c
  | .collectiveComplete c _ _ => ctxOk c
  | .roceRetryTimeout _ | .cePacketReceive _ | .cnpReceive _ | .rateIncreaseTimer _ => true
  | .pfcPauseReceive p prio _ => portOk p && decide (prio < 8)
  | .portDown p => portOk p
  | .checkpointRequest | .checkpointCapture => true
  | .shardAck _ | .shardNak _ => true
  | .manifestAck => true
  | .logFlushAck _ => true
  | .flushTimeout | .checkpointLimit | .sessionClose | .sessionReopen => true
  | .mirrorHelloAnswer st _ _ => decide (st < 256)
  | .mirrorRetryTimer => true
  | .mirrorHello _ => true
  | .shardReceive _ _ _ dg => decide (dg.length = 48)
  | .manifestReceive _ _ => true
  | .logRecordReceive _ _ => true
  | .restore a _ => addrOk a
  | .progressWindowExpiry d _ cls => domainOk d && decide (cls < 6)
  | .fenceNotice d die => domainOk d && decide (die < 12)
  | .domainDrainEnd d | .domainResetReady d => domainOk d
  | .epochNotice d die => domainOk d && decide (die < 12)
  | .fenceLift d | .fenceClearNotice d | .resetEscalation d | .resetRequest d | .resetPowerOff d => domainOk d
  | .dumpNow => true
  | .dumpExport b => decide (b < 4)
  | .probeTimeout d _ => domainOk d
  | .dumpEnd => true
  | .domainPowerOn d | .domainPowerOff d | .autoOffTimer d => domainOk d
  | .opEvaluation => true
  | .powerOverCap _ => true
  | .coolantLoopPass _ _ _ _ _ => true
  | .ceilLower k => quadOk k
  | .ceilRaise | .coolingFault | .coolingFaultEnd => true
  | .tjHot k _ => quadOk k
  | .hotClear g | .thermalTrip g | .tripRestart g => groupOk g
  | .inputLoss | .inputReturn | .holdupExhausted => true
  | .holdupCharged _ _ => true
  | .stressAccumulate d _ => domainOk d
  | .wearMeasure d _ _ => domainOk d
  | .wearStoreWrite | .powerOnBoot => true
  | .jobAutostart j _ => decide (j < 16)
  | .updateRequest a => addrOk a
  | .updateCoreTurn | .updateDeferLimit => true
  | .flashPersistEnd _ => true
  | .attestationRequest a => addrOk a
  | .modRstN _ => true
  | .clearFaults | .statusWord | .readVin | .readIin | .readTemperature1 | .readTemperature2 | .readTemperature3
  | .readPin => true
  | .mfrRegRead o => offsetOk o
  | .mfrReset v => decide (v < 256)
  | .mfrFlash op _ _ => decide (op < 256)
  | .intrHoldoffExpiry ev => decide (ev < 64)
  | .portLinkUp p => portOk p
  | .pfcPauseExpiry p prio => portOk p && decide (prio < 8)
  | .attestationReportDone | .updateWatchEnd | .supervisorRestartEnd | .partnerSessionClose => true
  | .groupPauseRequest m => memberOk m.val

end Sys2Proof
end

