-- ==== Sys2Proof/Tests/Slice0.lean ====
section
/-! SUPPORT. Tests: an ill-formed command for each check of `Instr.wf`; single values and steps against the spec and against
published check values of the algorithms it names; and, for every statement with hypotheses, states that meet them. -/

set_option Elab.async false

namespace Sys2Proof.Tests

open Sys2Proof Sys2Proof.Machine

/-! ### Ill-formed commands are refused by `Instr.wf` -/

theorem test_wf_registerWindow : (Instr.regWrite (2 ^ 28) 0).wf = false := by decide
theorem test_wf_registerSize : (Instr.regRd 0 0 6).wf = false := by decide
theorem test_wf_registerValue : (Instr.regWr 0 4 (2 ^ 32)).wf = false := by decide
theorem test_wf_tag : (Instr.memRd (2 ^ 16) 0 1).wf = false := by decide
theorem test_wf_address : (Instr.jobOpen (2 ^ 64)).wf = false := by decide
theorem test_wf_accessLength : (Instr.memRd 0 0 257).wf = false ∧ (Instr.memWr 0 []).wf = false := by decide
theorem test_wf_flit : (Instr.flitReceive []).wf = false := by decide
theorem test_wf_lanes : (Instr.linkTraining 3 16 0 0 0).wf = false ∧ (Instr.laneFailure 4).wf = false := by decide
theorem test_wf_timeSource :
    (Instr.timeCorrRound [{ source := 93, uncert := 0 }]).wf = false := by decide
theorem test_wf_link : (Instr.detourTimeout 22).wf = false := by decide
theorem test_wf_quadrant : (Instr.rateWindowEnd 32 0 0 0).wf = false := by decide
theorem test_wf_group : (Instr.opRampEnd 8).wf = false := by decide
theorem test_wf_context : (Instr.matmul 512 0 0).wf = false := by decide
theorem test_wf_queue : (Instr.matmul 0 4 0).wf = false := by decide
theorem test_wf_doorbell : (Instr.doorbell 2048 0).wf = false ∧ (Instr.doorbell 0 (2 ^ 64)).wf = false := by decide
theorem test_wf_array : (Instr.arrayIssue 4096).wf = false := by decide
theorem test_wf_eccPlace :
    (Instr.arrayEccError 0 (.half 2) true).wf = false ∧ (Instr.arrayEccError 0 (.slot 4) true).wf = false := by decide
theorem test_wf_channel : (Instr.closeWaitLimit 1024).wf = false := by decide
theorem test_wf_frame : (Instr.cowCopyDone (512 * 34332)).wf = false := by decide
theorem test_wf_line : (Instr.hbmEccUe 0 512 .scrub).wf = false := by decide
theorem test_wf_pseudoChannel : (Instr.hbmParityError 512).wf = false := by decide
theorem test_wf_arbiter :
    (Instr.arbStarvation (.hbm 512) 0 0).wf = false ∧ (Instr.arbStarvation (.dma 16) 0 0).wf = false := by decide
theorem test_wf_stream : (Instr.blockWrite 16).wf = false ∧ (Instr.clipFetch 0 []).wf = false := by decide
theorem test_wf_readResult : (Instr.rdmaReadComplete 0 0 0 3 []).wf = false := by decide
theorem test_wf_engine : (Instr.clipDecodeEnd 24).wf = false := by decide
theorem test_wf_partition : (Instr.restripeCopyEnd 32).wf = false := by decide
theorem test_wf_controller : (Instr.testDeferLimit 12).wf = false := by decide
theorem test_wf_serving : (Instr.requestAdmission 16).wf = false ∧ (Instr.peerRingFailure 8192).wf = false := by decide
theorem test_wf_member : (Instr.peerMiss 1024).wf = false := by decide
theorem test_wf_helloStatus : (Instr.helloAnswer ⟨256, 0⟩).wf = false ∧ (Instr.mirrorHelloAnswer 256 0 0).wf = false := by decide
theorem test_wf_port : (Instr.portDown 8).wf = false := by decide
theorem test_wf_digest : (Instr.shardReceive 0 0 [] []).wf = false := by decide
theorem test_wf_domain : (Instr.domainPowerOn 80).wf = false := by decide
theorem test_wf_faultClass : (Instr.progressWindowExpiry 0 0 6).wf = false := by decide
theorem test_wf_die : (Instr.fenceNotice 0 12).wf = false := by decide
theorem test_wf_dump : (Instr.dumpExport 4).wf = false := by decide
theorem test_wf_job : (Instr.jobAutostart 16 none).wf = false := by decide
theorem test_wf_sideband : (Instr.mfrReset 256).wf = false ∧ (Instr.mfrFlash 256 0 []).wf = false := by decide
theorem test_wf_holdoff : (Instr.intrHoldoffExpiry 64).wf = false := by decide

/-! ### Values: the check values the algorithms are published with, and results that the number formats fix -/

/-- The ASCII digits 1 to 9, on which check values of cyclic codes are given. -/
def digits : List Byte := [0x31, 0x32, 0x33, 0x34, 0x35, 0x36, 0x37, 0x38, 0x39]

theorem test_crc32c : crc32c digits = 0xE3069283 := by decide +kernel
theorem test_crc32 : crc32 digits = 0xCBF43926 := by decide +kernel
theorem test_crc64 : crc64 digits = 0x6C40DF5F0B497347 := by decide +kernel

/-- SHA-384 of "abc" (FIPS 180-4). -/
theorem test_sha384 : (sha384 [0x61, 0x62, 0x63]).take 8 = [0xCB, 0x00, 0x75, 0x3F, 0x45, 0xA3, 0x5E, 0x8B] := by decide +kernel

/-- 1.5 + 1.5 = 3 in FP32. -/
theorem test_fp32_add : f32Bits (fadd (f32Of 0x3FC00000) (f32Of 0x3FC00000)) = 0x40400000 := by decide +kernel

theorem test_sort_is_stable : sortBy (fun a b => a.1 ≤ b.1) [(2, 0), (1, 1), (2, 2), (1, 3)] =
    [(1, 1), (1, 3), (2, 0), (2, 2)] := by decide

/-! ### The states of the witnesses -/

/-- Reset with the host link up at 2.0. -/
def wUp : State :=
  { State.reset with plk := { Plk.reset with
      state := .active, version := 2, width := 4, lanes := 15, creditPw := 100, creditNp := 100, creditMgt := 100 } }

/-- A command at its unit, index 0. -/
def wCmd : Cmd :=
  { index := 0, word := 0, window := 0, started := true, left := 0, result := none, final := false, recorded := false,
         resets := 0, reissued := false, parked := false, waitDom := none, waitFrom := none, tflags := 0, maxTag := 0,
         maxRetries := 0, count := 0, moved := 0, maxExp := 0, body := [], combined := [], draws := none, partials := [],
         spilled := [], fillAt := none, waits := 0, descs := [] }

/-- The supervisor's domain fenced. -/
def wFenced : State := wUp.setDom 78 { Domain.reset with state := .fenced }

/-- Partition 0 on pseudo-channel 3. -/
def wPtn : State :=
  { wUp with ptns := [(0, { quads := 0, ways := [], scratch := [], sorus := [], pcs := 8, shares := 0, restriping := false })] }

/-- A HOST_RD in flight for command 0 of queue 0 of context 0. -/
def wRead : State :=
  ({ wUp with plk := { wUp.plk with reads := [{ tag := 5, ctx := 0, q := 0, idx := 0, key := 100, bytes := 2 }] } }).setCtx 0
    { Context.reset with state := .running, queues := [{ Queue.reset with cmds := [wCmd] },
      Queue.reset, Queue.reset, Queue.reset] }

/-- A HOST_WR in flight. -/
def wWrite : State :=
  { wUp with plk := { wUp.plk with writes := [{ ident := 7, seq := some 0, ctx := 0, q := 0, idx := 0, addr := 0, data := [1] }] } }

/-- Event register 0 with an enabled bit, whose hold-off runs. -/
def wHold : State := wUp.setEv 0 { EventReg.reset 0 with value := 4, holding := true }

/-- Event register 0 with its latch set. -/
def wLatched : State := wUp.setEv 0 { EventReg.reset 0 with value := 4, pending := true }

/-- Flits unacknowledged. -/
def wUnacked : State := { wUp with plk := { wUp.plk with txNext := 3 } }

def wUnacked8 : State := { wUp with plk := { wUp.plk with txNext := 3, txReplays := 8 } }

def wRetrain : State := { wUp with plk := { wUp.plk with state := .retrain } }

def wTraining : State := { State.reset with plk := { Plk.reset with state := .training, failedTrainings := 2 } }

def wRound : State := { wUp with plk := { wUp.plk with roundOpen := true } }

def wPing : State := { wUp with plk := { wUp.plk with pings := [3], roundOpen := true } }

/-- An empty DATA flit with SEQ 0 that returns two PW credits. -/
def wFlit : List Byte :=
  let body := leBytes 8 (1 + 2 * 2 ^ 29) ++ leBytes 240 0
  body ++ leBytes 8 (crc64 body)

/-- The receiver expects SEQ 3. -/
def wLateSeq : State := { wUp with plk := { wUp.plk with rxNext := 3 } }

/-- A flit whose CHECK fails. -/
def wBadFlit : List Byte := leBytes 255 0 ++ [1]

def wReg : Reg := ((regAt 0x900).map (·.1)).getD .glbIntPend

def wMemFrame : Nat := (wPtn.pageFrame 0 0).getD 0

/-- The header of a request over link 0 from die 0 to die 1, from domain 5 in epoch 0, of one beat. -/
def wHdr : DWord := BitVec.ofNat 64 (1 * 2 ^ 6 + 5 * 2 ^ 10 + 1 * 2 ^ 49)

/-- The same in epoch 1. -/
def wHdrStale : DWord := BitVec.ofNat 64 (1 * 2 ^ 6 + 5 * 2 ^ 10 + 1 * 2 ^ 17 + 1 * 2 ^ 49)

def wCrc (h : DWord) : Word := BitVec.ofNat 32 (crc32 (leBytes 8 h.toNat ++ zeros 64))

/-- A bad transfer whose replay has failed `n` times. -/
def wBad (n : Nat) : RzBad := { transfer := { header := wHdr, payload := zeros 64 }, crc := 0, failed := n }

/-- Link 0 awaits its replay. -/
def wReplay (n : Nat) : State := wUp.setRzLink 0 { Link.reset with low := { LinkDir.reset with bad := [wBad n] } }

/-- A transfer of link 0 whose predecessor has not been acknowledged. -/
def wAhead : State :=
  wUp.setRzLink 0 { Link.reset with low := { LinkDir.reset with
    store := [({ header := wHdr, payload := [] }, 0), ({ header := wHdr, payload := zeros 64 }, 0)] } }

def wLinkRetrain : State := wUp.setRzLink 0 { Link.reset with state := .retrain }

def wLinkDown : State := wUp.setRzLink 0 { Link.reset with state := .down }

/-- Every domain of group 0 and of stack 0 is on; group 0 is to run at OP1. -/
def wOn : State :=
  (({ wUp with domains := ([0, 1, 2, 3, 4, 5, 6, 56].map fun d => (d, { Domain.reset with power := .on })) } : State).setGroup 0
    { Group.reset with target := 1 })

/-- On, with a full store and every group at OP2. -/
def wPwr : State :=
  { wOn with pwr := { Pwr.reset with holdJ := 60, valve := 80 * 10 ^ 9, err := 5, inlet := 20, inletMax := 45 } }

/-- A cooling fault whose condition has ended: the valve stands where it is to. -/
def wCooled : State := { wPwr with pwr := { wPwr.pwr with cooling := true, pos := 1000 } }

def wHotWater : State := { wPwr with pwr := { wPwr.pwr with valve := 40 * 10 ^ 9, err := -5 }, groups := [(0, { Group.reset with ceil := 1, hot := false }), (1, { Group.reset with ceil := 0, hot := true })] }

def wOp3 : State := { wPwr with groups := [(3, { Group.reset with req := 3, grant := 3 }), (5, { Group.reset with req := 3, grant := 3, ceil := 2 })] }

def wOff : State := wPwr.setDom 0 { Domain.reset with state := .off }

/-- A request for a domain is running; group 0 is off after a trip. -/
def wBusyPwr : State := { wPwr with pwr := { wPwr.pwr with reqBusy := true } }

def wLeftOff : State := (wPwr.setGroup 0 { Group.reset with tripped := true }).setDom 56 { Domain.reset with state := .off }

/-- Domain 0 has been powered, and every die has its epoch notice; domain 4 of its group is open or not. -/
def wPowering (st : DomState) : State :=
  wPwr.setDom 0 { Domain.reset with state := .resetting, ready := true, powering := true, power := .ramp, epochAcks := List.range 12 }
    |>.setDom 4 { Domain.reset with state := st, power := .on }

def wOffDeps : State := { wUp with domains := [(0, { Domain.reset with state := .off }), (4, { Domain.reset with state := .off, time := 9 })] }

def wAuto : State := { wPwr with pwr := { wPwr.pwr with autoOff := true } }

def wHeld : State := { wPwr with ptns := [(0, { quads := 1, ways := [], scratch := [], sorus := [], pcs := 0, shares := 0, restriping := false })] }

def wFault : State := { wPwr with pwr := { wPwr.pwr with cooling := true } }

def wTripped : State := { wPwr with groups := [(1, { Group.reset with tripped := true, hot := true, ceil := 0 })], domains := [] }

def wTrippedHot : State := { wTripped with pwr := { wTripped.pwr with inlet := 60 } }

def wTripAgain : State := { wPwr with groups := [(0, { Group.reset with lastTrip := some 0 })] }

def wHoldup : State := { wPwr with pwr := { wPwr.pwr with onHoldup := true }, boot := { Boot.reset with boots := 7 } }

def wWorn : State := wPwr.setDom 0 { Domain.reset with power := .on, stress := 20000, wear := 100, kCount := 3, kSum := 3000 }

/-- Array 0 holds an instruction of context 0. -/
def wInstr : ArrInstr :=
  { kind := .product, ctx := 0, q := 0, idx := 0, tile := 0, part := 0, parts := 1, lo := 0, hi := 0, first := true, last := true,
    add := false, drain := false, slot := none, prior := 0, waitOp := false, waitSpace := false }

def wHung : State := (wUp.setCtx 0 { Context.reset with state := .running }).setArr 0 { Arr.reset with
  bound := [wInstr]
  drains := [{
    ctx := 0, q := 0, idx := 0, tile := 0, slot := 0, part := none, retries := 0, own := 0, half := none, status := .ok, ovf := false,
    waiting := false }] }

/-- The same in a fenced domain, under record 1. -/
def wHungFenced : State := wHung.setDom 0 { Domain.reset with state := .fenced, record := 1 }

/-- The same on the hold-up store. -/
def wHungHoldup : State := { wHungFenced with pwr := { Pwr.reset with onHoldup := true } }

def wDrainOff : State := wUp.setDom 56 { Domain.reset with state := .fenced, offAfter := true, power := .on }

/-- Domain 72 is in reset; its record is 1. -/
def wResetting (ready : Bool) (level : Nat) (acks : List Nat) : State :=
  { wUp with
    domains := [(72, { Domain.reset with state := .resetting, ready := ready, level := level, record := 1, epochAcks := acks, power := .on, time := 5 })]
    flt := { Flt.reset with nextId := 2, records := [{ FaultRecord.blank with ident := 1, kind := 1, level := 1, domain := 72 }] } }

def wDump : Dump :=
  { ident := 3, fault := 1, scope := 1, start := 0, fin := 0, todo := [(72, 12)], records := [zeros 32], unreachable := 0,
    truncated := false, ended := false, exported := false }

def wDumping : State := { wUp with flt := { Flt.reset with dumps := [(1, wDump)], nextDump := 4 } }

def wDumped : State := { wUp with flt := { Flt.reset with dumps := [(1, { wDump with ended := true })], dumpDest := 2 ^ 51 } }

def wDumpsFull : State :=
  { wUp with flt := { Flt.reset with dumps := [(0, wDump), (1, wDump), (2, wDump), (3, wDump)], nextDump := 4 } }

/-- Queue 0 of context 0 waits for domain 3. -/
def wWaits : State :=
  wUp.setCtx 0 { Context.reset with state := .running, queues := [{ Queue.reset with state := .active, tail := 1, cmds := [{ wCmd with result := some .retryLater, waitDom := some 3 }] }, Queue.reset, Queue.reset, Queue.reset] }

def wBase : State := { wUp with boot := { Boot.reset with state := 3 } }

/-- Reset with the service pin low. -/
def wSvc : State := { State.reset with pins := { Pins.reset with svcEn := true } }

/-- A job whose graph is empty. -/
def wJobValue : List Byte := zeros 4 ++ [1] ++ zeros 59 ++ sha384 [] ++ zeros 64

def wJob : State := { wUp with boot := { Boot.reset with state := 3, jobs := [wJobValue] } }

/-- A FIRMWARE record of a core, with an empty image. -/
def wFirmware (c : Nat) : List Byte :=
  leBytes 2 1 ++ [1, 0] ++ leBytes 4 64 ++ leBytes 1 c ++ zeros 15 ++ sha384 [] ++ []

/-- A bundle of the reduced variant's ten cores. -/
def wBundle : List Byte :=
  [0x54, 0x58, 0x33, 0x4D, 1, 0, 0, 0] ++ leBytes 4 9 ++ zeros 4 ++ leBytes 4 720 ++ zeros 12 ++ zeros 96 ++
  [0, 1, 2, 3, 4, 5, 8, 10, 11, 12].flatMap wFirmware ++ zeros 96

/-- An update request at host address 0, its bundle at 0x1000. -/
def wUpdReq : List Byte :=
  leBytes 4 1 ++ leBytes 4 1 ++ leBytes 8 (2 ^ 63 + 0x1000) ++ leBytes 4 944 ++ zeros 44

def wUpdMem : Memory :=
  (({ cells := [], undef := [] } : Memory).writeAll (hostKey 0) wUpdReq).writeAll (hostKey 0x1000) wBundle

def wUpd : State :=
  { wBase with
    variant := .reduced
    mem := wUpdMem
    boot := { wBase.boot with rootHash := [sha384Nat (zeros 96)] } }

def wUpdBusy : State :=
  { wBase with
    variant := .reduced
    mem := ({ cells := [], undef := [] } : Memory).writeAll (hostKey 0) wUpdReq
    boot := { wBase.boot with upd := .deferred, updAddr := 2 ^ 63, updBundle := wBundle, updTodo := [8] } }

def wTurn (c : Nat) : State :=
  { wBase with boot := { wBase.boot with upd := .applying, updTodo := [c, 11], updBundle := wBundle, updAddr := 2 ^ 63 } }

def wSupRestart : State := { wBase with boot := { wBase.boot with supRestart := true, updTodo := [12], watch := some 12 } }

def wWatch : State := { wBase with boot := { wBase.boot with upd := .applying, updTodo := [8, 11], watch := some 8 } }

def wPersist : State := { wBase with boot := { wBase.boot with upd := .persisting, updBundle := wBundle, updAddr := 2 ^ 63, updFlags := 2 } }

def wAtt (n : Nat) : State :=
  { wBase with
    mem := ({ cells := [], undef := [] } : Memory).writeAll (hostKey 0) (leBytes 4 1 ++ zeros 4 ++ leBytes 8 (2 ^ 63 + 0x1000))
    boot := { wBase.boot with atts := List.replicate n (2 ^ 63 + 0x200, 7, leBytes 8 1 ++ leBytes 8 (2 ^ 63 + 0x1000) ++ zeros 112) } }

def wFlash : State := { wUp with boot := { Boot.reset with serviceMode := true } }

def wFw (c : Nat) : Firmware := { core := c, proto := 0, offset := 0, length := 0, digest := sha384Nat [] }

/-- Bytes of a KIND 0 descriptor of a row-major operand: address, rows, columns. -/
def wDesc (a rows cols : Nat) : List Byte := leBytes 8 a ++ zeros 4 ++ leBytes 4 rows ++ leBytes 4 cols ++ zeros 12

def wDesc' (a layout rows cols stride : Nat) : List Byte :=
  leBytes 8 a ++ [0, BitVec.ofNat 8 layout] ++ zeros 2 ++ leBytes 4 rows ++ leBytes 4 cols ++ leBytes 4 stride ++ zeros 8

def wChanDesc (tok h : Nat) : List Byte := leBytes 8 tok ++ [2] ++ zeros 15 ++ leBytes 4 h ++ zeros 4

/-- A parameter descriptor. -/
def wParam (rows cols : Nat) : List Byte :=
  leBytes 4 rows ++ leBytes 4 cols ++ leBytes 4 3 ++ leBytes 4 0x40000000 ++ zeros 16

/-- A word made of fields: (low bit, value). -/
def wWord (l : List (Nat × Nat)) : QWord := BitVec.ofNat 128 (l.foldl (fun a p => a + p.2 * 2 ^ p.1) 0)

/-- Scratchpad of base die 0. -/
def wScr (off : Nat) : Nat := 2 ^ 62 + off

def wQueue : Queue := { Queue.reset with state := .active, tail := 1, head := 1 }

/-- Context 0 on quadrant 0 of partition 0, with one command on its queue 0, whose descriptors 1, 2, … lie in host memory. -/
def wRun (w : QWord) (descs : List (List Byte)) (data : List Byte) : State :=
  { wUp with
    ptns := [(0, { quads := 1, ways := [], scratch := [4], sorus := [], pcs := 8, shares := 0, restriping := false })]
    mem := (({ cells := [], undef := [] } : Memory).writeAll (hostKey 32) descs.flatten).writeAll (scrKey 0 0 0) data
    contexts := [(0, { Context.reset with
      state := .running, quads := 1, descAddr := 2 ^ 50, descCount := descs.length + 1,
      queues := [{ wQueue with cmds := [{ wCmd with started := false, word := w, descs := (descs.zipIdx 1).map fun p => (p.2, p.1) }] }, wQueue, wQueue, wQueue] })] }

/-- MATMUL of 1 × 16 by 16 × 1 in BF16, drained to an FP32 operand. -/
def wMatmul : State :=
  wRun (wWord [(0, 1), (16, 1), (25, 2), (34, 3), (61, 2), (65, 2), (69, 13), (74, 1), (90, 1)])
    [wDesc (wScr 0) 1 16, wDesc' (wScr 64) 1 16 1 16, wDesc (wScr 4096) 1 1] []

def wConvrow : State :=
  wRun (wWord [(0, 2), (16, 1), (25, 2), (34, 3), (43, 2), (47, 2), (51, 13), (56, 1), (83, 15), (99, 3)])
    [wDesc (wScr 0) 1 4, wDesc' (wScr 64) 2 1 64 4, wDesc (wScr 4096) 1 16] []

/-- ELTWISE: the sum of two FP32 elements. -/
def wEltwise : State :=
  wRun (wWord [(0, 3), (16, 1), (21, 1), (31, 1), (51, 2), (61, 3), (70, 13), (74, 13)])
    [wDesc (wScr 0) 1 1, wDesc (wScr 64) 1 1, wParam 1 1] (leBytes 4 0x3F800000)

def wConvert : State :=
  wRun (wWord [(0, 6), (16, 1), (26, 2), (55, 3), (36, 2), (40, 13)])
    [wDesc (wScr 0) 1 1, wDesc (wScr 64) 1 1, wParam 1 1] (leBytes 2 0x3F80)

def wReduce : State :=
  wRun (wWord [(0, 4), (16, 1), (19, 1), (29, 2), (56, 3), (91, 13)])
    [wDesc (wScr 0) 1 3, wDesc' (wScr 64) 3 1 1 16, wParam 1 3] (leBytes 4 0x3F800000 ++ leBytes 4 0x40000000)

def wTopk : State :=
  wRun (wWord [(0, 5), (22, 1), (32, 2), (59, 3), (68, 13)])
    [wDesc (wScr 0) 1 9, wDesc (wScr 64) 1 16, wParam 1 9] (leBytes 4 0x3F800000 ++ leBytes 4 0x40000000)

def wCmdOf (s : State) : Cmd := (s.cmd 0 0 0).getD wCmd

def wParamOf (rows cols : Nat) : Param := paramOf (wParam rows cols)

def wSlot (st : SorSlotState) (seq : Word) (valid : Nat) : SorSlot := { SorSlot.reset with state := st, seq := seq, valid := valid }

def wChannel (feature : Bool) (slots : List SorSlot) : Channel :=
  { state := .opened, job := 0, feature := feature, slots := slots, fill := 0, placement := 0, waitMs := 10, width := 8,
    temperature := 0x3F800000, alpha := 0x3F800000, beta := 0, gamma := 0x3F800000, layers := 0, granules := 1, nextSeq := 7,
    stepSeq := 7, escalated := true, drain := false, closing := none, teacherWait := 0, teacherParks := 0, studentWait := 0,
    studentParks := 0, marks := [], skip := 0 }

def wChanHandle : Nat := 2 * 2 ^ 28 + 2 ^ 16

def wWithChan (ch : Channel) (s : State) : State :=
  { s with
    channels := [(0, ch)],
    jobs := [(0, { teacher := 0, student := 0, teacherCtx := 0, studentCtx := 0, tokens := 1, vocab := 8, tensorBase := 0, closing := none, failed := false, former := [], formerStudents := [] })] }

def wSput : State :=
  wWithChan (wChannel false [wSlot .filling 0 0, wSlot .free 0 0])
    (wRun (wWord [(0, 7), (16, 1), (34, 2), (43, 1)]) [wChanDesc 0 wChanHandle, wDesc (wScr 0) 1 1] (leBytes 8 5))

def wStake : State :=
  wWithChan (wChannel true [wSlot .full 6 1, wSlot .free 0 0])
    (wRun (wWord [(0, 8), (16, 1), (25, 2)]) [wChanDesc 0 wChanHandle, wDesc (wScr 0) 1 64] [])

def wLoss : State :=
  wWithChan (wChannel true [wSlot .full 6 1, wSlot .free 0 0])
    (wRun (wWord [(0, 9), (16, 1), (25, 2), (43, 3), (61, 13), (69, 13)])
      [wChanDesc 0 wChanHandle, wDesc (wScr 0) 1 8, wDesc (wScr 256) 1 8] (leBytes 4 0x3F800000))

def wDma : State :=
  wRun (wWord [(0, 10), (16, 1), (25, 2), (74, 1)]) [wDesc' (wScr 0) 3 1 2 0, wDesc' (wScr 64) 3 1 2 0] [1, 2, 3]

def wCtxQ (x : Queue) : State := wUp.setCtx 0 { Context.reset with state := .running, quads := 1, queues := [x, wQueue, wQueue, wQueue] }

def wDoor : State := wCtxQ { Queue.reset with ringLog2 := 4, ringAddr := 2 ^ 51 }

def wSel (s : State) : State := { s with sel := { s.sel with qCtx := 2 ^ 28 + 2 ^ 16, qQueue := 0 } }

def wHalted : State := wSel (wCtxQ { Queue.reset with state := .halted, haltedAt := 1, tail := 4, head := 4, cmds := [{ wCmd with index := 2 }] })

def wAbort : State := wSel (wCtxQ { Queue.reset with state := .gated, tail := 4, head := 2, cmds := [{ wCmd with index := 1, word := 12 }] })

/-- An EVENT stands at the head of the ring at host address 0. -/
def wDispatch : State :=
  { wCtxQ { Queue.reset with ringLog2 := 4, ringAddr := 2 ^ 51, state := .active, tail := 1 } with
    mem := ({ cells := [], undef := [] } : Memory).writeAll (hostKey 0) [12], pwr := { Pwr.reset with dispatchHeld := false } }

def wDispatchFull : State :=
  { wCtxQ { Queue.reset with ringLog2 := 4, ringAddr := 2 ^ 51, state := .active, tail := 1, cringLog2 := 1, ctail := 2 } with
    pwr := { Pwr.reset with dispatchHeld := false } }

/-- The command's operand lies in a fenced domain: a LOCAL operand of die 0. -/
def wDispatchFenced : State :=
  let w := wRun (wWord []) [wDesc' (wScr 0) 3 1 2 0, wDesc' (wScr 64) 3 1 2 0] []
  ({ w with
    mem := w.mem.writeAll (hostKey 4096) (leBytes 16 (wWord [(0, 10), (16, 1), (25, 2), (74, 1)]).toNat)
    pwr := { Pwr.reset with dispatchHeld := false }
    contexts := [(0, { w.ctx 0 with queues := [{ Queue.reset with ringLog2 := 4, ringAddr := 2 ^ 51 + 1, state := .active, tail := 1 }, wQueue, wQueue, wQueue] })] } : State).setDom
      (sramDomain 0) { Domain.reset with state := .fenced }

def wAnswered (st : Status) : State := wCtxQ { wQueue with cmds := [{ wCmd with result := some st }] }

def wRetry : State := wCtxQ { wQueue with cmds := [{ wCmd with result := some .retryLater, waitDom := some 3 }] }

def wHas (y : Cmd) : State := wCtxQ { wQueue with cmds := [y] }

def wFresh (l : List (Nat × Nat)) : Cmd := { wCmd with started := false, word := wWord l }

def wFenceWaits : Cmd := { wCmd with word := wWord [(0, 11), (17, 1), (32, 5)] }

def wAtFence (l : List (Nat × Nat)) : State :=
  wCtxQ { wQueue with state := .waiting, cmds := [{ wCmd with word := wWord ([(0, 11)] ++ l) }] }

def wAtFenceAlone (l : List (Nat × Nat)) : State :=
  wUp.setCtx 0 { Context.reset with state := .running, quads := 1, queues := [{ wQueue with state := .waiting, cmds := [{ wCmd with word := wWord ([(0, 11)] ++ l) }] }, Queue.reset, Queue.reset, Queue.reset] }

def wStuck : State :=
  let w := wWithChan (wChannel false [wSlot .full 6 1]) (wRun (wWord [(0, 7), (16, 1), (34, 2), (43, 1)]) [wChanDesc 0 wChanHandle, wDesc (wScr 0) 1 1] [])
  w.modCmd 0 0 0 fun y => { y with waitFrom := some 0 }

def wParkedOn : State := wUp.setCtx 0 { Context.reset with state := .parked, wait := .resume }

/-- Queue 0 of context 0 stands at a GATE of layer 1; the table holds `recs`. -/
def wGate (bad : Nat) (kind : Nat) (recs : List LayerRec) (k : Context) : State :=
  { (wUp.setCtx 0 { k with state := .running, atStep := false, ltabAddr := 2 ^ 51, ltabCount := recs.length, queues := [{ wQueue with state := .gated, gateBad := bad, ringLog2 := 4, ringAddr := 2 ^ 51 + 1, cmds := [{ wCmd with word := wWord [(0, 12), (16, kind), (38, 1)] }] }, wQueue, wQueue, wQueue] }) with
    mem := ({ cells := [], undef := [] } : Memory).writeAll (hostKey 0) (recs.flatMap LayerRec.bytes) }

def wLayer (cur ceil : Nat) : LayerRec :=
  { layer := 1, base := cur, ceil := ceil, cur := cur, doublings := 0, hold := 0, scale := 0, maxExp := 0, count := 0, flags := 0 }

/-- Queue 0 of context 0 stands at the first GATE after a STEP. -/
def wGateUpd : State := (wGate 0 1 [] Context.reset).setQueue 0 0 { (wGate 0 1 [] Context.reset).queue 0 0 with updating := true }

def wStepGate : State := wGate 0 2 [] { Context.reset with lrRecover := 0 }

def wStepSkip : State := wGate 0 2 [] { Context.reset with skipReq := true }

def wBound (lo hi : Nat) : ArrInstr :=
  { kind := .product, ctx := 0, q := 0, idx := 0, tile := 0, part := 0, parts := 1, lo := lo, hi := hi, first := true, last := true,
    add := false, drain := true, slot := none, prior := 0, waitOp := false, waitSpace := false }

/-- Array 0 holds the MATMUL of `wMatmul`, its stationary rows in half 0. -/
def wIssue (hi : Nat) : State :=
  wMatmul.setArr 0 { Arr.reset with
    bound := [wBound 0 hi], halves := [{ loaded := true, owner := 0, load := some (State.loadOf (wBound 0 hi)) }, Half2.reset] }

def wDrain : Drain :=
  { ctx := 0, q := 0, idx := 0, tile := 0, slot := 0, part := none, retries := 0, own := 0, half := none, status := .ok, ovf := false,
    waiting := false }

def wDraining : State :=
  (wMatmul.modCmd 0 0 0 fun y => { y with started := true, left := 1 }).setArr 0
    { Arr.reset with drains := [wDrain], slots := [{ state := .draining, owner := 0, tag := 0 }, AccSlot.reset, AccSlot.reset, AccSlot.reset] }

def wHeldSlot : AccSlot := { state := .held, owner := 0, tag := 0 }

def wCombine : State :=
  let w := wRun (wWord [(0, 1), (16, 1), (25, 2), (34, 3), (61, 2), (65, 2), (69, 13), (74, 1), (90, 1), (96, 1)])
    [wDesc (wScr 0) 1 32, wDesc' (wScr 64) 1 32 1 16, wDesc (wScr 4096) 1 1] []
  (((w.modCmd 0 0 0 fun y => { y with started := true, left := 1, partials := [(0, 0, 0, 0, 0), (0, 1, 1, 0, 0)] }).setArr 0
    { Arr.reset with slots := [wHeldSlot, AccSlot.reset, AccSlot.reset, AccSlot.reset] }).setArr 1
    { Arr.reset with slots := [wHeldSlot, AccSlot.reset, AccSlot.reset, AccSlot.reset] })

/-- The partner of a split tile, drained in P48 and waiting at the base die. -/
def wCombineFar : State :=
  wCombine.modCmd 0 0 0 fun y => { y with partials := [(0, 0, 0, 0, 0)], spilled := [(0, 1, 0, 0, zeros 6)] }

/-- Both partials of a split tile on one array. -/
def wCombineHere : State :=
  (wCombine.modCmd 0 0 0 fun y => { y with partials := [(0, 0, 0, 0, 0), (0, 1, 0, 1, 0)] }).setArr 0
    { Arr.reset with slots := [wHeldSlot, wHeldSlot, AccSlot.reset, AccSlot.reset] }

/-- A partial on its way to its receiver. -/
def wPart : Drain := { wDrain with part := some 1 }

def wPartDrain : State :=
  (wCombine.modCmd 0 0 0 fun y => { y with partials := [(0, 1, 1, 0, 0)] }).setArr 1
    { Arr.reset with drains := [wPart], slots := [{ wHeldSlot with state := .draining }, AccSlot.reset, AccSlot.reset, AccSlot.reset] }

def wNoRetire (s : State) : State := { s with flt := { s.flt with arrUe := 0 } }

def wCow : State := { wUp with attrs := [(3, 4)], mem := ({ cells := [], undef := [] } : Memory).write (hbmKey 3 9) 7, ckp := { Ckp.reset with state := .streaming, copying := [(3, 8)] } }

def wAttr (op bits share first n : Nat) : State :=
  { wUp with
    ptns := [(0, { quads := 1, ways := [], scratch := [4], sorus := [], pcs := 8, shares := 0, restriping := false })]
    mem := ({ cells := [], undef := [] } : Memory).writeAll (hostKey 64) (leBytes 4 1 ++ leBytes 4 (7 * 2 ^ 28 + 2 ^ 16) ++ leBytes 1 op ++ leBytes 1 bits ++ zeros 2 ++ leBytes 4 share ++ leBytes 4 first ++ leBytes 4 n) }

def wPtn0 : Partition := { quads := 1, ways := [], scratch := [4], sorus := [], pcs := 8, shares := 0, restriping := false }

def wParity : State := wUp.setPc 3 { Pc.reset with parity := true }

def wReq (l : List Byte) (s : State) : State := { s with mem := s.mem.writeAll (hostKey 0) l }

def wPtnH (i : Nat) : Nat := 7 * 2 ^ 28 + 2 ^ 16 + i

def wCtxH (i : Nat) : Nat := 2 ^ 28 + 2 ^ 16 + i

def wJobs : State :=
  { wUp with
    ptns := [(0, wPtn0), (1, { wPtn0 with quads := 2, sorus := [8] })]
    contexts := [(0, { Context.reset with state := .ready, ptn := 0, quads := 1 }), (1, { Context.reset with state := .ready, ptn := 1, quads := 2 })] }

def wJobOpen : State :=
  wReq (leBytes 4 1 ++ leBytes 4 (wPtnH 0) ++ leBytes 4 (wPtnH 1) ++ leBytes 4 (wCtxH 0) ++ leBytes 4 (wCtxH 1) ++ leBytes 2 1 ++ zeros 2 ++ leBytes 4 100) wJobs

def wJobsFull : State := { wJobOpen with jobHandles := { HandleTable.reset with next := 16 } }

def wTheJob : Job :=
  { teacher := 0, student := 1, teacherCtx := 0, studentCtx := 1, tokens := 1, vocab := 100, tensorBase := 0, closing := none,
    failed := false, former := [], formerStudents := [] }

def wJobClose : State := wReq (leBytes 4 1) { wJobs with jobs := [(0, wTheJob)] }

def wChanOpen (slots : Nat) : State := wReq (leBytes 4 1 ++ [0, 0] ++ leBytes 1 slots ++ [0, 0, 1] ++ leBytes 2 8 ++ leBytes 4 0x3F800000) { wJobs with jobs := [(0, wTheJob)] }

def wChanClose (mode : Nat) (slots : List SorSlot) : State :=
  wReq (leBytes 4 1 ++ [0, 0, 0] ++ leBytes 1 mode ++ zeros 4 ++ leBytes 4 wChanHandle)
    { wJobs with jobs := [(0, wTheJob)], channels := [(0, wChannel false slots)] }

def wChanClosing (slots : List SorSlot) : Channel := { wChannel false slots with state := .closing, drain := true, closing := some (2 ^ 63) }

def wCloseLimit (slots : List SorSlot) : State := { wJobs with jobs := [(0, wTheJob)], channels := [(0, wChanClosing slots)] }

/-- A stream descriptor: one consumer, tokens of 8 × 8 luma, one a block, two slots. -/
def wStreamDesc : List Byte :=
  leBytes 4 1 ++ leBytes 4 (wPtnH 0) ++ leBytes 4 (wCtxH 0) ++ zeros 4 ++ [8, 0, 2, 0xA8] ++ leBytes 2 1 ++ leBytes 2 8 ++ leBytes 2 8 ++
  [1, 0, 0, 0] ++ leBytes 2 1 ++ leBytes 8 0 ++ leBytes 8 0x100000 ++ leBytes 4 32768 ++ [6, 0, 0, 0] ++ leBytes 8 0 ++ leBytes 8 0 ++
  leBytes 8 (2 ^ 63 + 4096) ++ zeros 16 ++ leBytes 8 (2 ^ 63 + 8192) ++ leBytes 4 16 ++ zeros 20

/-- An index of one server and two clips. -/
def wIndex : List Byte :=
  let h := leBytes 4 1 ++ leBytes 4 1 ++ leBytes 8 2 ++ leBytes 8 0
  let r := zeros 32
  h ++ leBytes 4 (crc32c (h ++ r)) ++ zeros 4 ++ r

def wEntry (excluded : Nat) : List Byte := zeros 8 ++ leBytes 4 188 ++ zeros 4 ++ [0, 0xFF, 0, 0] ++ leBytes 4 (crc32c (zeros 188)) ++ leBytes 1 excluded ++ zeros 7

def wStream (st : StreamState) (w : List Clip) : Stream :=
  { state := st, desc := wStreamDesc, clips := 2, servers := 1, fetchPos := 0, fetchEpoch := 0, start := 0, uncounted := none,
    nextSeq := 0, window := w, gathered := [], skipped := 0, dropped := 0, rereads := 0, skipHead := 0, skipTail := 0, skips := [], index := [], loc := [], parts := [] }

def wClip (st : ClipState) (attempts : Nat) (toks : List (List Byte)) : Clip :=
  { position := 0, epoch := 0, state := st, entry := wEntry 0, chunks := [0], data := [], replica := false, attempts := attempts, reason := 0,
    bytes := 100, first := 0, tokens := toks, since := none }

/-- A clip whose bytes are missing since time 0. -/
def wClipLate : Clip := { wClip .reading 2 [] with since := some 0 }

def wStreamBase : State :=
  wReq wStreamDesc { wUp with
    ptns := [(0, wPtn0)]
    contexts := [(0, { Context.reset with state := .ready, ptn := 0, quads := 1 })] }

def wStreamFull : State := { wStreamBase with streamHandles := { HandleTable.reset with next := 16 } }

def wIngest (x : Stream) : State := wReq (leBytes 4 1 ++ leBytes 4 (4 * 2 ^ 28 + 2 ^ 16) ++ zeros 4) { wStreamBase with streams := [(0, x)] }

def wDecoding : State := (wIngest (wStream .running [wClip .decoding 1 []])).setEngine 3 { MediaEngine.reset with busy := true }

def wTwo : Stream := wStream .running [wClip .decoded 1 [zeros 63 ++ [1], zeros 63 ++ [2]]]

def wLayout (op : Nat) (quads : Nat) : State :=
  wReq (leBytes 4 1 ++ [1] ++ zeros 59 ++ leBytes 4 1 ++ leBytes 1 op ++ zeros 7 ++ leBytes 4 quads ++ zeros 8 ++ leBytes 2 4) wUp

def wItem (op : Nat) (re : Bool) : BatchItem := { op := op, ptn := 0, part := wPtn0, restripe := re, used := 1, moves := [], copied := 0 }

def wBatch (op : Nat) (re applied : Bool) : Batch := { addr := 2 ^ 63, start := 0, items := [wItem op re], applied := applied, copied := [] }

def wBatchCreate : State := { wUp with batch := some (wBatch 0 false false) }

def wBatchBusy (op : Nat) : State := { wLayout op 1 with batch := some (wBatch 0 false false) }

def wBatchDestroy : State := { wUp with ptns := [(0, wPtn0)], batch := some (wBatch 2 false false) }

def wRestripe : State :=
  { wUp with
    ptns := [(0, { wPtn0 with pcs := 16, restriping := true })]
    batch := some (wBatch 1 true true)
    contexts := [(2, { Context.reset with state := .parked, ptn := 0 })] }

def wHotEntry : HotEntry := { kind := 0, ptn := 0, first := 0, pages := 2, model := 0, pinned := false, lastUse := 0 }

def wHotset (op entry : Nat) : State :=
  wReq (leBytes 4 1 ++ leBytes 1 op ++ [0] ++ leBytes 2 entry ++ leBytes 4 (wPtnH 0) ++ leBytes 4 2 ++ leBytes 4 (2 ^ 32 - 1) ++ leBytes 4 9)
    { wUp with ptns := [(0, wPtn0)], hotset := [(7, wHotEntry)] }

def wTest (running : Bool) : TestReq :=
  { addr := 2 ^ 63, proc := 0x10, targetType := 1, target := 3, window := 10, maxDefer := 5, result := 0, running := running, start := 0 }

def wTests (l : List TestReq) : State :=
  wReq (leBytes 4 1 ++ leBytes 2 0x10 ++ [1, 0] ++ leBytes 4 3 ++ leBytes 4 10 ++ leBytes 4 5)
    { wUp with tests := [(0, l)] }

/-- A latency-critical context of the pseudo-channel's partition has a reservation. -/
def wReserved : State :=
  (({ wTests [wTest false] with ptns := [(0, wPtn0)] } : State).setCtx 2 { Context.reset with state := .ready, ptn := 0, critical := true }).setGroup 0
    { Group.reset with active := true, table := [2 + 2 ^ 9 + 2 ^ 16] }

def wResult : ProcResult := { failed := false, complete := true, duration := 1, failures := 0, margin := 0, mask := 0 }

/-- Bytes of a context request. -/
def wCtxBytes (quads pages : Nat) : List Byte :=
  leBytes 4 1 ++ leBytes 4 (wPtnH 0) ++ [0, 0, 0, 0] ++ leBytes 4 quads ++ leBytes 2 0 ++ leBytes 2 1 ++ zeros 4 ++ leBytes 8 0 ++ leBytes 4 pages

def wPtnC : Partition := { wPtn0 with quads := 3, scratch := [4] }

def wCtxCreate (pages : Nat) : State := wReq (wCtxBytes 1 pages) { wUp with ptns := [(0, wPtnC)] }

def wCtxIn (st : CtxState) : Context := { Context.reset with state := st, ptn := 0, quads := 1, scrCount := 1 }

def wCtxDestroy (st : CtxState) : State :=
  wReq (leBytes 4 1 ++ leBytes 4 (wCtxH 0)) { wUp with ptns := [(0, wPtnC)], contexts := [(0, wCtxIn st)], quads := [(0, { Quadrant.reset with holder := some 0 })] }

/-- Context 1 contends for quadrant 0. -/
def wContend (img : Bool) : Context :=
  { wCtxIn .ready with hasImage := img, queues := [wQueue, Queue.reset, Queue.reset, Queue.reset] }

def wBind (img : Bool) : State := { wUp with pwr := { Pwr.reset with dispatchHeld := false }, ptns := [(0, wPtnC)], contexts := [(1, wContend img)] }

def wHolder (st : CtxState) : Context := { wCtxIn st with held := 1 }

def wBindHeld : State :=
  { wBind false with contexts := [(0, wHolder .running), (1, wContend false)], quads := [(0, { Quadrant.reset with holder := some 0 })] }

/-- Group 0 at slot 0 of a table whose slot 1 reserves quadrant 0 for context 1; context 0 holds it. -/
def wSlots (slot : Nat) : State :=
  ({ wUp with
    ptns := [(0, wPtnC)]
    contexts := [(0, wHolder .running), (1, { wContend false with critical := true })], quads := [(0, { Quadrant.reset with holder := some 0 })] } : State).setGroup 0
    { Group.reset with active := true, slot := slot, table := [0, 0, 0, 0, 1 + 2 ^ 9 + 2 ^ 16] }

/-- The same after a restore that put its table at slot 3. -/
def wResume : State := (wSlots 63).setGroup 0 { (wSlots 63).group 0 with resume := some (3, 9) }

/-- Slot 1 is lent; its owner is runnable, and another holds the quadrant. -/
def wLent : State :=
  (wSlots 1).setGroup 0 { Group.reset with active := true, slot := 1, table := [0, 0, 0, 0, 1 + 2 ^ 9 + 2 ^ 10 + 2 ^ 16] }

def wSlotEnd : State := (wSlots 1).setQuad 0 { Quadrant.reset with holder := some 0, reserved := some 1 }

def wTable (bad : Bool) : State :=
  wReq (leBytes 4 (if bad then 1 + 2 ^ 9 + 2 ^ 17 else 1 + 2 ^ 9 + 2 ^ 16))
    (({ wSlots 0 with } : State).setGroup 0 { Group.reset with schedNew := true, schedEnable := true, schedAddr := 2 ^ 53 })

def wSlice : State := { wBindHeld with contexts := [(0, { wHolder .running with preemptions := 65535 }), (1, wContend false)] }

def wSaving (after : AfterSave) : State :=
  ({ wOn with
    ptns := [(0, wPtnC)], contexts := [(0, { wHolder .saving with after := after })], quads := [(0, { Quadrant.reset with holder := some 0 })] } : State).setArr 5
    { Arr.reset with slots := [{ state := .held, owner := 0, tag := 1 }, AccSlot.reset, AccSlot.reset, AccSlot.reset] }

def wRestoring (bad : Bool) : State :=
  let s : State := { wUp with
    ptns := [(0, wPtnC)], contexts := [(0, { wHolder .restoring with hasImage := true, imageQuads := [0], susp := [(3, wBound 0 1)] })] }
  if bad then s.putImage 0 0x1208 [1] else s

def wTeardown : State :=
  ({ wUp with
    ptns := [(0, wPtnC)], contexts := [(0, { wHolder .teardown with destroyAt := [2 ^ 63] })], quads := [(0, { Quadrant.reset with holder := some 0 })] } : State).setArr 5
    { Arr.reset with bound := [wBound 0 1] }

/-- An instance descriptor for context 0 of partition 0. -/
def wInstDesc (seqs : Nat) : List Byte :=
  leBytes 4 1 ++ leBytes 4 (wPtnH 0) ++ leBytes 4 (wCtxH 0) ++ zeros 4 ++ leBytes 2 4 ++ leBytes 2 seqs ++ leBytes 2 16 ++ [0, 0, 1, 0] ++
  leBytes 2 1 ++ zeros 4 ++ leBytes 4 32 ++ leBytes 4 8 ++ leBytes 8 0 ++ leBytes 8 0x100000 ++ zeros 8 ++ leBytes 8 0x200000 ++
  leBytes 4 1 ++ leBytes 4 1000 ++ leBytes 8 0x300000 ++ leBytes 8 (2 ^ 63 + 0x1000) ++ [4, 1] ++ zeros 6 ++ leBytes 8 7 ++ zeros 16

def wInst : Instance :=
  { desc := wInstDesc 2, ptn := 0, target := 0, draft := none, submitTail := 1, submitHead := 0, admittedCount := 0, stepNumber := 0,
    pass := 0, firstPass := 0, inStep := false, stepStart := 0, passIndex := 0, drafts := 0, doneAt := 0, seqs := [], durations := [],
    gains := [], free := List.range 8, prov := [], repeats := 0, poolLow := false, ttftMiss := 0, tbtMiss := 0 }

def wAdpEntry (kind : Nat) : HotEntry := { kind := kind, ptn := 0, first := 3, pages := 2, model := 0, pinned := false, lastUse := 0 }

def wRing (bound : Option Nat) : Ring :=
  { inst := 0, peer := false, log2 := 4, addr := 2 ^ 63 + 0x2000, consAddr := 0x400000, rkey := 0, count := 0, bound := bound, lost := false, recent := [] }

def wReqst : Request :=
  { state := .queued, inst := 0, slot := 0, order := 0, critical := false, priority := 0, flags := 0, promptLen := 3, maxNew := 4,
    adapter := none, deadline := 1000000, ttftTarget := 0, tbtTarget := 0, ring := 0, stop := 0, seed := 0, temperature := 0, tag := 9,
    admitted := 0, tokens := [5, 6, 7], fed := 0, fedDraft := 0, units := [], reserved := [0, 1], quota := 2, matched := 0, epoch := 0,
    generated := 0, cancelled := false, wasDeferred := false, wasPreempted := false, deferrals := 0, preemptions := 0, lastPosition := 0,
    firstToken := none, lastToken := 0, tbtMax := 0, tbtMisses := 0, outbox := [], runsLate := false, final := [] }

def wServe : State :=
  { wUp with ptns := [(0, wPtn0)], contexts := [(0, { Context.reset with state := .running, ptn := 0, quads := 1, held := 1 })] }

def wInstCreate (seqs : Nat) : State := wReq (wInstDesc seqs) wServe

def wReq32 (l : List Byte) : State := wReq (leBytes 4 1 ++ l) { wServe with instances := [(0, wInst)], rings := [(0, wRing none)] }

def wInstDestroy (busy : Bool) : State := { wReq32 [] with requests := if busy then [(0, wReqst)] else [] }

def wAdpReg (kind : Nat) : State := { wReq32 ([0, 0] ++ leBytes 2 1 ++ leBytes 2 8) with hotset := [(1, wAdpEntry kind)] }

def wAdapter : Adapter := { inst := 0, entry := 1, rank := 8 }

def wAdpRel (used : Bool) : State :=
  { wReq32 (leBytes 4 (5 * 2 ^ 28 + 2 ^ 16)) with
    hotset := [(1, { wAdpEntry 1 with pinned := true })], adapters := [(0, wAdapter)]
    requests := if used then [(0, { wReqst with adapter := some 0 })] else [] }

def wRingDel (bound : Option Nat) : State := { wReq32 (leBytes 4 (3 * 2 ^ 28 + 2 ^ 16)) with rings := [(0, wRing bound)] }

def wCancel : State := { wReq32 (leBytes 4 (6 * 2 ^ 28 + 2 ^ 16)) with requests := [(0, wReqst)] }

def wRingNew (log2 : Nat) : State :=
  { wReq (leBytes 4 1 ++ [0, 0] ++ leBytes 1 log2 ++ [0] ++ leBytes 8 (2 ^ 63 + 0x2000) ++ leBytes 8 0x400000) wServe with
    instances := [(0, wInst)] }

def wNoServe : State := { wReq32 [] with variant := .noMedia }

def wServeDown : State := (wReq32 []).setDom 77 { Domain.reset with state := .resetting }

def wRow : Instr × Nat × Nat := (.ringCreate (2 ^ 63), 64, 0x30)

def wAdpPinned : HotEntry := { wAdpEntry 1 with pinned := true }

def wSub (ver : Nat) : List Byte :=
  leBytes 4 ver ++ [0, 0, 0, 0] ++ leBytes 8 (2 ^ 63 + 0x1800) ++ leBytes 4 3 ++ leBytes 4 4 ++ zeros 16 ++ leBytes 4 (3 * 2 ^ 28 + 2 ^ 16)

def wSubmit (ver : Nat) : State :=
  let s : State := { wServe with instances := [(0, wInst)], rings := [(0, wRing none)] }
  { s with mem := (s.mem.writeAll (hostKey 0x1000) (wSub ver)).writeAll (hostKey 0x1800) (leBytes 4 5 ++ leBytes 4 6 ++ leBytes 4 7) }

def wBusyInst : Instance := { wInst with submitHead := 1, free := [2, 3, 4, 5, 6, 7] }

def wBoundary (r : Request) : State := { wServe with instances := [(0, wBusyInst)], rings := [(0, wRing (some 0))], requests := [(0, r)] }

def wQuiet : State := { wServe with instances := [(0, wBusyInst)] }

def wLateReq : Request := { wReqst with deadline := 0, admitted := 2 ^ 64 - 1 }

def wSeq : StepSeq := { req := 0, kind := 0, first := 0, count := 3, drafts := 0, catchUp := 0, listed := [], drafted := [] }

def wStepping (doneAt : Word) (drafts : Nat) : Instance :=
  { wBusyInst with inStep := true, pass := 1, seqs := [wSeq], doneAt := doneAt, drafts := drafts }

def wPass (doneAt : Word) (drafts : Nat) : State :=
  { wBoundary { wReqst with state := .prefill, units := [0], reserved := [1] } with instances := [(0, wStepping doneAt drafts)] }

def wFedReq : Request := { wReqst with state := .prefill, units := [0], reserved := [1] }

def wPeerRing (peer : Bool) : Ring := { wRing (some 0) with peer := peer }

def wPeer (peer : Bool) : State := { wBoundary wReqst with rings := [(0, wPeerRing peer)] }

/-- The connection of token ring 0, to a peer, with its retries spent. -/
def wPeerQp : State :=
  { wPeer true with net := { Net.reset with qps := [(0x200000, { Qp.reset with retries := 7 })] } }

def wMember (role state : Nat) : Member :=
  { role := role, replica := 0, stage := 0, protoMax := 2, feed := 0, ident := 0, state := state, lastStep := 0, lastHeard := 0,
    missed := false, paused := false }

def wReplica (n : Nat) : Member := { wMember 0 1 with replica := n }

/-- A group of four replicas, in which this module is member `self`, member 0 the master and member 1 the deputy. -/
def wNet (self : Nat) : Net :=
  { Net.reset with
    state := .running, self := self, master := 0, deputy := 1, term := 3, gen := 5, version := 2, step := 7, protoMin := 1, replicas := 4, stages := 1
    members := [(0, wReplica 0), (1, wReplica 1), (2, wReplica 2), (3, wReplica 3)] }

def wGroup (self : Nat) : State := { wUp with net := wNet self }

def wHello (proto gen : Nat) : HelloMsg := { member := 2, groupId := 0, gen := gen, crc := 0, protoMax := proto, report := [], term := 3 }

/-- A HELLO of an earlier term. -/
def wOldHello : HelloMsg := { wHello 2 5 with term := 2 }

def wForming (self : Nat) : State := { wUp with net := { wNet self with state := .forming } }

def wNoIngest : State :=
  { wUp with net := { wNet 0 with state := .forming, members := [(0, wReplica 0), (1, wReplica 1), (2, wMember 1 0)] } }

def wReported : State := { wUp with net := { wNet 0 with reports := [(0, 0), (1, 2 ^ 19), (3, 0)] } }

def wRec (term gen : Nat) (step : Word) : StepRecord := { step := step, term := term, gen := gen, decision := 0, seed := 0, lrH := 0, cursors := [0, 0, 0, 0] }

/-- Member 2 has asked for a pause, before or after its report. -/
def wAsks (reports : List (Nat × Word)) : State :=
  { wUp with net := { wNet 0 with
    reports := reports, members := (wNet 0).members.map fun p => (p.1, { p.2 with paused := p.1 == 2 }) } }

def wSent : State := { wUp with net := { wNet 0 with record := some (wRec 3 5 8), sentToDeputy := true } }

/-- The deputy of a group, behind the master's term, and a stopped master. -/
def wStopped : State :=
  { wUp with net := { wNet 0 with stopped := true, sentToDeputy := true, members := (wNet 0).members.map fun p => (p.1, { p.2 with missed := p.1 == 3 }) } }

def wOldProto : State := { wUp with net := { wNet 0 with state := .forming, protoMin := 9 } }

def wAtStep : State :=
  { wGroup 2 with contexts := [(0, { wCtxIn .running with queues := [{ wQueue with stepGate := true }, Queue.reset, Queue.reset, Queue.reset] })] }

/-- The same with an update that waits for the pause. -/
def wWantsPause : State := { wAtStep with boot := { wAtStep.boot with pauseAsked := true } }

/-- The same in PAUSED, with the update's turn late. -/
def wPauseLate : State :=
  { wAtStep with
    net := { wNet 2 with state := .paused, members := (wNet 2).members.map fun p => (p.1, { p.2 with paused := p.1 == 2 }) }
    boot := { wAtStep.boot with upd := .deferred, updAddr := 2 ^ 63, updTodo := [10], pauseAsked := true } }

/-- A report with a nonce, its key and signature zero. -/
def wReport (nonce : List Byte) : List Byte := leBytes 4 1 ++ leBytes 4 976 ++ zeros 56 ++ slice nonce 0 48 ++ zeros 864

def wJoin : HelloMsg := { wHello 2 5 with report := wReport (wGroup 0).helloNonce }

def wJoined : Member := { wReplica 2 with ident := ofLe (reportIdent (wReport [])) }

def wJoins : State := { wUp with net := { wNet 0 with members := [(0, wReplica 0), (2, wJoined)] } }

def wMissed : State :=
  { wUp with net := { wNet 0 with members := [(0, wReplica 0), (1, { wReplica 1 with missed := true }), (2, { wReplica 2 with missed := true }), (3, wReplica 3)] } }

def wStepRec : State := { wUp with net := { wNet 0 with record := some (wRec 3 5 7) } }

def wDeputy (misses : List Nat) : State := { wUp with net := { wNet 1 with misses := misses, record := some (wRec 3 5 7) } }

def wFailover (answers : List (Nat × Word)) : State :=
  { wUp with net := { wNet 1 with state := .failover, answers := answers, record := some (wRec 3 5 7) } }

/-- A collective descriptor: OP, formats of FP32, destination. -/
def wColl (op n : Nat) : List Byte :=
  leBytes 4 1 ++ leBytes 4 (wCtxH 0) ++ leBytes 1 op ++ leBytes 1 (13 + 16 * 13) ++ leBytes 2 0 ++ [0, 0] ++ leBytes 2 0 ++
  leBytes 8 (wScr 0) ++ leBytes 8 (wScr 64) ++ leBytes 8 n ++ [0] ++ zeros 3 ++ leBytes 4 0 ++ zeros 16

def wCollBy (e : List Byte) (k : Context) : State :=
  let s : State := { wUp with ptns := [(0, wPtnC)], contexts := [(0, { k with state := .running, ringLog2 := 4, ringAddr := 2 ^ 51, ringTail := 1 })] }
  { s with mem := (s.mem.writeAll (hostKey 0) e).writeAll (scrKey 0 0 0) (leBytes 4 0x3F800000) }

def wCollective : State := wCollBy (wColl 0 1) (wCtxIn .running)

def wCollWait : State := wCollBy (leBytes 4 1 ++ leBytes 4 (wCtxH 0) ++ zeros 36 ++ leBytes 4 1 ++ zeros 16) (wCtxIn .running)

def wCollBad : State := wCollBy (wColl 9 1) (wCtxIn .running)

def wCollPeers : State := { wCollective with net := wNet 0 }

def wPeers (e : List Byte) : List (Nat × List Byte) := [(1, e), (2, e), (3, e)]

/-- What the members hold in their rings of tag 0. -/
def wRings (e : List Byte) : List (Nat × Nat × List Byte) := [(1, 0, e), (2, 0, e), (3, 0, e)]

def wFlight (code : Option Status) : Collective := { ctx := 0, entry := 0, code := code, word := 0 }

def wInFlight (code : Option Status) : State := { wCollective with collectives := [wFlight code] }

def wPeersFlight : State := { wCollPeers with collectives := [wFlight none] }

def wPorts : State := { wUp with net := { Net.reset with self := 1, qpnBase := 0, qps := [(0, Qp.reset), (3, { Qp.reset with retries := 7, rateNum := 10 })] } }

def wPortOut : State := { wPorts with ports := [(2, { Port.reset with state := 3, paused := 5 })] }

def wCnp : State := { wUp with net := { Net.reset with qps := [(0, { Qp.reset with cnpTx := some 0, cnpRx := some 0, rateNum := 63 })] } }

def wFailedQp : State := { wUp with net := { Net.reset with qps := [(0, { Qp.reset with failed := true })] } }

def wMasterQp : State := { wUp with net := { wNet 0 with qps := [(4, { Qp.reset with retries := 7 })] } }

def wCkpPtn : Ckp := { Ckp.reset with ptn := wPtnH 0, connections := 1 }

def wCkpBase (k : Ckp) : State := { wUp with ptns := [(0, { wPtn0 with pcs := 8 })], ckp := k }

/-- A region of one page, page 5; context 0 is held at its capture gate. -/
def wCapture : State :=
  let s := wCkpBase { wCkpPtn with state := .capturing, due := true, captureHeld := [0], regionCount := 1, regionAddr := 2 ^ 51, reserveFirst := 9, reservePages := 1 }
  { s with
    mem := s.mem.writeAll (hostKey 0) (leBytes 4 5 ++ leBytes 4 1)
    contexts := [(0, { Context.reset with state := .running, ptn := 0, captureDue := true })] }

/-- Two contexts of the step, one of which has not come to its gate. -/
def wCaptureWaits : State :=
  { wCapture with contexts := [0, 1].map fun c => (c, { Context.reset with state := .running, ptn := 0, captureDue := true }) }

def wShard (acked sent : Bool) (refusals : Nat) : Shard :=
  { region := 0, first := 5, pages := 1, digest := 0, acked := acked, sent := sent, refusals := refusals }

def wStreaming (l : List Shard) : State :=
  wCkpBase { wCkpPtn with state := .streaming, ident := 3, shards := l, mirror := .active, session := 8 * 2 ^ 28 + 2 ^ 16, copyMap := [(128, 130)] }

/-- A checkpoint that was streaming as input power was lost. -/
def wCut : State := { wStreaming [wShard false true 0] with ckp := { (wStreaming [wShard false true 0]).ckp with cut := true } }

def wSealing (m : MirrorState) : State :=
  { wCkpBase { wCkpPtn with state := .sealing, manifestSent := true, ident := 3, mirror := m } with attrs := [(5, 4)] }

def wFlushing : State := wCkpBase { wCkpPtn with mirror := .active, lsn := 5, flushed := 2, state := .streaming }

def wFrame : Nat := ((wCkpBase wCkpPtn).pageFrame 0 5).getD 0

def wCand : List Byte := zeros 36

def wMirror (m : MirrorState) (retry : Bool) : State := wCkpBase { wCkpPtn with candidates := [wCand, wCand], mirror := m, retry := retry }

def wLastCand : State := wCkpBase { wCkpPtn with candidates := [wCand], mirror := .handshake }

def wMirHello (proto : Nat) : MirrorHelloMsg := { protocol := proto, report := [], feed := 1, pages := 1, force := false }

def wServed : ServedSession :=
  { feed := 1, key := [], first := 0, pages := 1, slotA := { shards := [], manifest := none }, slotB := { shards := [], manifest := none }, latest := none, log := [] }

def wServing : State := wCkpBase { wCkpPtn with served := [(0, wServed)] }

def wSes : Nat := 8 * 2 ^ 28 + 2 ^ 16

def wLogRec : List Byte := logRecord 1 0 0 80 0 5 1 0 []

def wRestoreReq (mode : Nat) : State :=
  wReq (leBytes 4 1 ++ leBytes 4 (wPtnH 0) ++ zeros 12 ++ leBytes 4 mode) { wCkpBase wCkpPtn with
    contexts := [(0, { Context.reset with state := .ready, ptn := 0 })] }

def wEmptyManifest : List Byte := leBytes 4 1 ++ zeros (0x2C + 96)

def wFetched (log : List Byte) : RestoreFetch := { manifest := wEmptyManifest, shards := [], log := log, durable := [] }

/-- What a live member of the same STAGE answers. -/
def wMate : RestoreFetch := { wFetched [] with mate := true }

def wMateReq : State := { wRestoreReq 0 with net := wNet 2 }

def wLogEnd : List Byte := logRecord 2 0 0 80 0 0 4 0 []

def wMirJoin : MirrorHelloMsg := { wMirHello 1 with report := wReport (sha384 (slice Config.serverRecord 0 32)) }

def wStore : State := wCkpBase { wCkpPtn with storePtn := wPtnH 0, storeFirst := 4, storePages := 8 }

def wBadFetch : RestoreFetch := { manifest := [], shards := [], log := [], durable := [] }

def wFatal : State := { wUp with flt := { wUp.flt with fatal := true }, pending := [.checkpointRequest] }

def wFatalHoldup : State := { wFatal with pwr := { Pwr.reset with onHoldup := true } }

def wResetHoldup : State := { wResetting false 1 [] with pwr := { Pwr.reset with onHoldup := true } }

def wTwoDoms : State :=
  { wUp with domains := [(3, Domain.reset), (77, Domain.reset)], requests := [(0, wReqst), (4, wReqst)] }

def wHandles : HandleTable := { HandleTable.reset with next := 3, gens := [(1, 0xFFF)] }

def wHandlesLow : HandleTable := { HandleTable.reset with next := 4, freed := [3], gens := [(1, 0xFFF), (3, 2)] }

/-- Event register 0 with bit 2 enabled. -/
def wArmed : State := wUp.setEv 0 { EventReg.reset 0 with enable := 4 }

/-! ### Witnesses: states and operands that meet the hypotheses of each statement, one group a clause -/

theorem witness_EmptyQueueTicks :
    (State.reset.pending = []) ∧ (State.reset.pwr.onHoldup = false) := by decide +kernel

theorem witness_FatalStopsCommands :
    (wFatal.flt.fatal = true) ∧ (outlivesFatal .checkpointRequest = false) := by decide +kernel

theorem witness_FatalStateStands :
    (wFatal.flt.fatal = true) ∧ (wFatal.pwr.onHoldup = false) ∧ (wFatal.pending = [.checkpointRequest]) ∧
    ((match step wFatal with | .next t => t.flt.fatal | _ => false) = true) := by decide +kernel

theorem witness_StepKeepsMemoryForm :
    (wCow.mem.wf = true) ∧ (wCow.mem.cells ≠ []) := by decide +kernel

theorem witness_StepKeepsTablesRising :
    (wTwoDoms.domains.Pairwise fun p q => p.1 < q.1) ∧ (wTwoDoms.requests.Pairwise fun p q => p.1 < q.1) ∧
    (wTwoDoms.domains.length = 2) ∧ (wTwoDoms.requests.length = 2) := by decide +kernel

theorem witness_PartitionPagesAreApart :
    (wPtn0.locate 0 = some (3, 0)) ∧ (wPtn0.locate (wPtn0.pages - 1) = some (3, framesPerPc - 1)) := by decide +kernel

theorem witness_DeviceAddressLayout :
    (2 ^ 53 - 1 < 2 ^ 64 ∧ (2 ^ 53 - 1) / 2 ^ 62 = 0 ∧ (2 ^ 53 - 1) / 2 ^ 53 % 2 ^ 9 = 0) ∧
    (2 ^ 53 / 2 ^ 62 = 0 ∧ 2 ^ 53 / 2 ^ 53 % 2 ^ 9 ≠ 0) ∧
    ((2 ^ 62 + 2 ^ 51 + 4 * 65536 - 1) / 2 ^ 62 = 1 ∧ (2 ^ 62 + 2 ^ 51 + 4 * 65536 - 1) / 2 ^ 52 % 2 ^ 10 = 0 ∧
      (2 ^ 62 + 2 ^ 51 + 4 * 65536 - 1) / 2 ^ 27 % 2 ^ 21 = 0) ∧
    (tget wJobs.ptns 0 = some wPtn0 ∧
      wPtn0.scratch.getD 0 0 ≤ 1280 ∧ (2 ^ 62 + 2 ^ 51 + 4 * 65536 - 1) % 2 ^ 27 < wPtn0.scratch.getD 0 0 * 65536) ∧
    (80 * 2 ^ 20 ≤ (2 ^ 62 + 80 * 2 ^ 20) % 2 ^ 27) ∧ ((2 ^ 63 + 2 ^ 56 - 1) / 2 ^ 62 = 2 ∧ (2 ^ 64 - 1) / 2 ^ 62 = 3) ∧
    (parseAddr (2 ^ 64 - 1) = .bad) := by decide +kernel

theorem witness_HandleGenerations :
    ((∀ p ∈ wHandles.gens, 1 ≤ p.2 ∧ p.2 ≤ 0xFFF) ∧ wHandles.gen 1 = 0xFFF) ∧
    ((wHandles.take 4).map (·.1) = some 3) ∧ ((wHandlesLow.take 4).map (·.1) = some 3) ∧ (0 ≠ 1) ∧ (1 ≤ 3) := by decide +kernel

theorem witness_FencedRegisterAnswersRetryLater :
    ((wFenced.flt.fatal = false) ∧
      (wFenced.boot.state ≠ 4) ∧
      (wFenced.plk.state = LinkUpState.active) ∧
      (wFenced.isOpen 77 = true) ∧
      (2304 < 2 ^ 28) ∧
      (2304 % 4 = 0) ∧
      (4 = 4 ∨ 4 = 8 ∧ false = true) ∧
      (regAt 2304 = some (wReg, false)) ∧
      (blockAbsent wFenced.variant 2304 = false) ∧
      (regAbsent wFenced.variant wReg = false) ∧
      (State.noRegister wReg = false) ∧
      (wFenced.variant.domain (wFenced.holder wReg) = true) ∧
      ((wFenced.dom (wFenced.holder wReg)).state = DomState.fenced ∨
    (wFenced.dom (wFenced.holder wReg)).state = DomState.resetting)) ∧
    ((wFenced.flt.fatal = false) ∧
      (wFenced.boot.state ≠ 4) ∧
      (wFenced.plk.state = LinkUpState.active) ∧
      (wFenced.isOpen 77 = true) ∧
      (2304 < 2 ^ 28) ∧
      (2304 % 4 = 0) ∧
      (4 = 4 ∨ 4 = 8 ∧ false = true) ∧
      (regAt 2304 = some (wReg, false)) ∧
      (blockAbsent wFenced.variant 2304 = false) ∧
      (regAbsent wFenced.variant wReg = false) ∧
      (State.noRegister wReg = false) ∧
      (wFenced.variant.domain (wFenced.holder wReg) = true) ∧
      ((wFenced.dom (wFenced.holder wReg)).state = DomState.fenced ∨
    (wFenced.dom (wFenced.holder wReg)).state = DomState.resetting) ∧
      (1 ≤ wFenced.plk.version)) ∧
    ((wFenced.flt.fatal = false) ∧
      (wFenced.boot.state ≠ 4) ∧
      (wFenced.plk.state = LinkUpState.active) ∧
      (wFenced.isOpen 77 = true) ∧
      (2304 < 2 ^ 28) ∧
      (2304 % 4 = 0) ∧
      (4 = 4 ∨ 4 = 8 ∧ false = true) ∧
      (regAt 2304 = some (wReg, false)) ∧
      (blockAbsent wFenced.variant 2304 = false) ∧
      (regAbsent wFenced.variant wReg = false) ∧
      (State.noRegister wReg = false) ∧
      (wFenced.variant.domain (wFenced.holder wReg) = true) ∧
      ((wFenced.dom (wFenced.holder wReg)).state = DomState.fenced ∨
    (wFenced.dom (wFenced.holder wReg)).state = DomState.resetting) ∧
      (wFenced.plk.rejValid = false)) := by
  and_intros <;> decide +kernel

theorem witness_RegistersAreReadAndWritten :
    ((wUp.flt.fatal = false) ∧
      (wUp.boot.state ≠ 4) ∧
      (wUp.isOpen 78 = true)) ∧
    ((wUp.flt.fatal = false) ∧
      (wUp.boot.state ≠ 4) ∧
      (wUp.isOpen 78 = true) ∧
      (wUp.plk.state = LinkUpState.active) ∧
      (wUp.isOpen 77 = true)) ∧
    ((wUp.flt.fatal = false) ∧
      (wUp.boot.state ≠ 4) ∧
      (wUp.isOpen 78 = true) ∧
      (wUp.plk.state = LinkUpState.active) ∧
      (wUp.isOpen 77 = true) ∧
      (1 ≤ wUp.plk.version)) ∧
    ((wUp.flt.fatal = false) ∧
      (wUp.boot.state ≠ 4) ∧
      (wUp.plk.state = LinkUpState.active) ∧
      (wUp.isOpen 77 = true) ∧
      (wUp.isOpen 78 = true)) ∧
    ((wUp.flt.fatal = false) ∧
      (wUp.boot.state ≠ 4) ∧
      (wUp.plk.state = LinkUpState.active) ∧
      (wUp.isOpen 77 = true) ∧
      (0 < 15) ∧
      (wUp.variant = Variant.full) ∧
      (wUp.isOpen (eventDomain 0) = true)) ∧
    ((wUp.flt.fatal = false) ∧
      (wUp.boot.state ≠ 4) ∧
      (wUp.variant = Variant.full) ∧
      (1 < 15) ∧
      (wUp.isOpen (eventDomain 1) = true)) ∧
    ((wUp.flt.fatal = false) ∧
      (wUp.boot.state ≠ 4) ∧
      (wUp.variant = Variant.full) ∧
      (1 < 15) ∧
      (wUp.isOpen (eventDomain 1) = true)) := by
  and_intros <;> decide +kernel

theorem witness_InterruptsAreLatched :
    ((wHold.flt.fatal = false) ∧
      (0 ≠ 2) ∧
      (0 ≠ 3) ∧
      (0 ≠ 12) ∧
      (wHold.linkUp = true) ∧
      (wHold.isOpen (eventDomain 0) = true) ∧
      (wHold.isOpen 78 = true) ∧
      ((wHold.ev 0).value &&& (wHold.ev 0).enable ≠ 0) ∧
      ((wHold.ev 0).pending = false) ∧
      ((wHold.ev 0).holding = true)) ∧
    ((wArmed.linkUp = true) ∧ (wArmed.isOpen (eventDomain 0) = true) ∧ (wArmed.isOpen 78 = true) ∧
      (((wArmed.ev 0).value ||| 2 ^ 2) &&& (wArmed.ev 0).enable ≠ 0) ∧ ((wArmed.ev 0).pending = false) ∧ ((wArmed.ev 0).holding = false)) ∧
    ((wLatched.ev 0).pending = true) := by
  refine ⟨?_, ?_, ?_⟩ <;> decide +kernel

theorem witness_HostMemoryIsReached :
    ((wPtn.flt.fatal = false) ∧
      (wPtn.plk.state = LinkUpState.active) ∧
      (wPtn.boot.state ≠ 4) ∧
      (wPtn.isOpen 77 = true) ∧
      (0 < 32) ∧
      (0 < 2 ^ 48) ∧
      (1 ≤ [1, 2].length) ∧
      ([1, 2].length ≤ 256) ∧
      (0 % 65536 + [1, 2].length ≤ 65536) ∧
      (1 ≤ 4) ∧
      (4 ≤ 256) ∧
      (0 % 65536 + 4 ≤ 65536) ∧
      (wPtn.pageFrame 0 (0 / 65536) = some wMemFrame) ∧
      (wPtn.attr wMemFrame = 0) ∧
      (wPtn.pcRetired (wMemFrame / framesPerPc) = false) ∧
      (wMemFrame < 2 ^ 40) ∧
      (wPtn.isOpen (stackDomain (wMemFrame / framesPerPc / 32)) = true) ∧
      (wPtn.isOpen (sramDomain (wMemFrame / framesPerPc / 64)) = true)) ∧
    ((wPtn.flt.fatal = false) ∧
      (wPtn.plk.state = LinkUpState.active) ∧
      (wPtn.boot.state ≠ 4) ∧
      (wPtn.isOpen 77 = true) ∧
      (0 < 32) ∧
      (0 < 2 ^ 48) ∧
      (1 ≤ [1, 2].length) ∧
      ([1, 2].length ≤ 256) ∧
      (0 % 65536 + [1, 2].length ≤ 65536) ∧
      (1 ≤ 4) ∧
      (4 ≤ 256) ∧
      (0 % 65536 + 4 ≤ 65536) ∧
      (wPtn.pageFrame 0 (0 / 65536) = some wMemFrame) ∧
      (wPtn.attr wMemFrame = 0) ∧
      (wPtn.pcRetired (wMemFrame / framesPerPc) = false) ∧
      (wMemFrame < 2 ^ 40) ∧
      (wPtn.isOpen (stackDomain (wMemFrame / framesPerPc / 32)) = true) ∧
      (wPtn.isOpen (sramDomain (wMemFrame / framesPerPc / 64)) = true)) ∧
    ((wRead.flt.fatal = false) ∧
      (wRead.linkUp = true) ∧
      (wRead.plk.reads = [{ tag := 5, ctx := 0, q := 0, idx := 0, key := 100, bytes := 2 }]) ∧
      ([1#8, 2#8].length = ({ tag := 5, ctx := 0, q := 0, idx := 0, key := 100, bytes := 2 } : HostRead).bytes)) ∧
    ((wRead.flt.fatal = false) ∧
      (wRead.linkUp = true) ∧
      (wRead.plk.reads = [{ tag := 5, ctx := 0, q := 0, idx := 0, key := 100, bytes := 2 }]) ∧
      ([1#8, 2#8].length = ({ tag := 5, ctx := 0, q := 0, idx := 0, key := 100, bytes := 2 } : HostRead).bytes) ∧
      (1 ≠ 0) ∧
      (wRead.cmd ({ tag := 5, ctx := 0, q := 0, idx := 0, key := 100, bytes := 2 } : HostRead).ctx
      ({ tag := 5, ctx := 0, q := 0, idx := 0, key := 100, bytes := 2 } : HostRead).q
      ({ tag := 5, ctx := 0, q := 0, idx := 0, key := 100, bytes := 2 } : HostRead).idx =
    some wCmd) ∧
      (wCmd.result = none)) ∧
    ((wRead.flt.fatal = false) ∧
      (wRead.linkUp = true) ∧
      (wRead.plk.reads = [{ tag := 5, ctx := 0, q := 0, idx := 0, key := 100, bytes := 2 }]) ∧
      ([1#8, 2#8].length = ({ tag := 5, ctx := 0, q := 0, idx := 0, key := 100, bytes := 2 } : HostRead).bytes) ∧
      (wRead.cmd ({ tag := 5, ctx := 0, q := 0, idx := 0, key := 100, bytes := 2 } : HostRead).ctx
      ({ tag := 5, ctx := 0, q := 0, idx := 0, key := 100, bytes := 2 } : HostRead).q
      ({ tag := 5, ctx := 0, q := 0, idx := 0, key := 100, bytes := 2 } : HostRead).idx =
    some wCmd) ∧
      (wCmd.result = none)) ∧
    ((wWrite.flt.fatal = false) ∧
      (wWrite.plk.writes = [{ ident := 7, seq := some 0, ctx := 0, q := 0, idx := 0, addr := 0, data := [1] }])) := by
  and_intros <;> decide +kernel

set_option maxRecDepth 200000 in
theorem witness_FlitsAreChecked :
    ((wUp.flt.fatal = false) ∧
      (wUp.plk.state = LinkUpState.active) ∧
      (State.flitCheck wUp.plk.version wBadFlit = false)) ∧
    ((wLateSeq.flt.fatal = false) ∧
      (wLateSeq.plk.state = LinkUpState.active) ∧
      (State.flitCheck wLateSeq.plk.version wFlit = true) ∧
      (fld (le wFlit 0 8) 1 0 = 1) ∧
      (fld (le wFlit 0 8) 13 2 ≠ wLateSeq.plk.rxNext)) ∧
    ((wUp.flt.fatal = false) ∧
      (wUp.plk.state = LinkUpState.active) ∧
      (State.flitCheck wUp.plk.version wFlit = true) ∧
      (fld (le wFlit 0 8) 1 0 = 1) ∧
      (fld (le wFlit 0 8) 13 2 = wUp.plk.rxNext) ∧
      (fld (le wFlit 0 8) 26 26 = 0) ∧
      (wUp.plk.rxSlots = []) ∧
      (wUp.plk.waiting = []) ∧
      (∀ i < 15, le wFlit (8 + 16 * i) 16 = 0)) := by
  and_intros <;> decide +kernel

theorem witness_LinkTrainsAndRetrains :
    ((State.reset.flt.fatal = false) ∧
      (State.reset.isOpen 77 = true) ∧
      (State.reset.plk.state = LinkUpState.down) ∧
      (State.reset.plk.writes = []) ∧
      (State.reset.plkVersion 7 = some 2) ∧
      (State.lanesFor 2 15 ≠ 0)) ∧
    ((State.reset.flt.fatal = false) ∧
      (State.reset.isOpen 77 = true) ∧
      (State.reset.plk.state = LinkUpState.down) ∧
      (∀ v < 3, ¬(bitAt 0 v = true ∧ bitAt State.reset.plk.allow v = true))) ∧
    ((wTraining.flt.fatal = false) ∧
      (wTraining.isOpen 77 = true) ∧
      (wTraining.plk.state = LinkUpState.training) ∧
      (2 ≤ wTraining.plk.failedTrainings)) ∧
    ((State.reset.flt.fatal = false) ∧
      (State.reset.isOpen 77 = true) ∧
      (State.reset.plk.state = LinkUpState.down) ∧
      (State.reset.plk.failedTrainings < 2)) ∧
    ((wUp.flt.fatal = false) ∧
      (wUp.isOpen 77 = true) ∧
      (wUp.plk.state = LinkUpState.active) ∧
      (1 ≤ wUp.plk.version) ∧
      (wUp.plk.good = 15) ∧
      (wUp.plk.lanes = 15) ∧
      (wUp.plk.width = 4)) ∧
    ((wUnacked.flt.fatal = false) ∧
      (wUnacked.plk.state = LinkUpState.active) ∧
      (wUnacked.plkUnacked ≠ 0) ∧
      (wUnacked.plk.txReplays < 8)) ∧
    ((wUnacked8.flt.fatal = false) ∧
      (wUnacked8.plk.state = LinkUpState.active) ∧
      (wUnacked8.plkUnacked ≠ 0) ∧
      (8 ≤ wUnacked8.plk.txReplays)) ∧
    ((wUp.flt.fatal = false) ∧
      (wUp.plk.state = LinkUpState.active)) ∧
    ((wRetrain.flt.fatal = false) ∧
      (wRetrain.plk.state = LinkUpState.retrain) ∧
      (wRetrain.plk.recent.length < 3)) ∧
    ((wRetrain.flt.fatal = false) ∧
      (wRetrain.plk.state = LinkUpState.retrain) ∧
      (wRetrain.plk.writes = [])) := by
  and_intros <;> decide +kernel

theorem witness_TimeIsCorrelated :
    ((wUp.flt.fatal = false) ∧
      (wUp.plk.state = LinkUpState.active) ∧
      (wUp.isOpen 77 = true) ∧
      (wUp.isOpen 78 = true) ∧
      (wUp.plk.roundOpen = false)) ∧
    ((wPing.flt.fatal = false) ∧
      (wPing.plk.state = LinkUpState.active) ∧
      (wPing.isOpen 77 = true) ∧
      (wPing.isOpen 78 = true) ∧
      (wPing.plk.roundOpen = true) ∧
      (wPing.plk.best = none)) ∧
    ((wPing.flt.fatal = false) ∧
      (wPing.plk.state = LinkUpState.active) ∧
      (wPing.isOpen 77 = true) ∧
      (wPing.isOpen 78 = true) ∧
      (3 ∈ wPing.plk.pings) ∧
      (wPing.plk.best = none)) ∧
    ((wUp.flt.fatal = false) ∧
      (wUp.plk.state = LinkUpState.active) ∧
      (wUp.isOpen 77 = true) ∧
      (wUp.isOpen 78 = true)) := by
  and_intros <;> decide +kernel

theorem witness_TransfersAreCheckedAtTheirEnd :
    ((wUp.flt.fatal = false) ∧
      (wUp.variant.link 0 = true) ∧
      ((wUp.rzLink 0).state = LinkState.up) ∧
      (crc32 (leBytes 8 (BitVec.toNat wHdr) ++ zeros 64) = BitVec.toNat (wCrc wHdr)) ∧
      (rzFormed 0 { header := wHdr, payload := zeros 64 } = true) ∧
      (((wUp.rzLink 0).dir false).ahead { header := wHdr, payload := zeros 64 } = false) ∧
      (rzDstDie wHdr = rzEnd 0 false) ∧
      (wUp.nextHop (rzEnd 0 false) (some (rzEnd 0 !false)) wHdr = none)) ∧
    ((wUp.flt.fatal = false) ∧
      (wUp.variant.link 0 = true) ∧
      ((wUp.rzLink 0).state = LinkState.up) ∧
      (crc32 (leBytes 8 (BitVec.toNat wHdr) ++ zeros 64) ≠ BitVec.toNat (0 : Word)) ∧
      (∀ b ∈ ((wUp.rzLink 0).dir false).bad, rzSet b.transfer ≠ rzSet { header := wHdr, payload := zeros 64 })) ∧
    (((wReplay 3).flt.fatal = false) ∧
      ((wReplay 3).variant.link 0 = true) ∧
      (((wReplay 3).rzLink 0).state = LinkState.up) ∧
      (crc32 (leBytes 8 (BitVec.toNat wHdr) ++ zeros 64) ≠ BitVec.toNat (0 : Word)) ∧
      (List.find? (fun b => rzSet b.transfer == rzSet { header := wHdr, payload := zeros 64 })
      (((wReplay 3).rzLink 0).dir false).bad =
    some (wBad 3)) ∧
      ((wBad 3).failed < 7)) ∧
    (((wReplay 7).flt.fatal = false) ∧
      ((wReplay 7).variant.link 0 = true) ∧
      (((wReplay 7).rzLink 0).state = LinkState.up) ∧
      (crc32 (leBytes 8 (BitVec.toNat wHdr) ++ zeros 64) ≠ BitVec.toNat (0 : Word)) ∧
      (List.find? (fun b => rzSet b.transfer == rzSet { header := wHdr, payload := zeros 64 })
      (((wReplay 7).rzLink 0).dir false).bad =
    some (wBad 7)) ∧
      (7 ≤ (wBad 7).failed)) ∧
    ((wAhead.flt.fatal = false) ∧
      (wAhead.variant.link 0 = true) ∧
      ((wAhead.rzLink 0).state = LinkState.up) ∧
      (crc32 (leBytes 8 (BitVec.toNat wHdr) ++ zeros 64) = BitVec.toNat (wCrc wHdr)) ∧
      (((wAhead.rzLink 0).dir false).ahead { header := wHdr, payload := zeros 64 } = true)) := by
  and_intros <;> decide +kernel

theorem witness_LinksRetrainOrGoDown :
    ((wLinkRetrain.flt.fatal = false) ∧
      (wLinkRetrain.variant.link 0 = true) ∧
      ((wLinkRetrain.rzLink 0).state = LinkState.retrain) ∧
      ((wLinkRetrain.rzLink 0).recent.length < 3)) ∧
    ((wLinkRetrain.flt.fatal = false) ∧
      (wLinkRetrain.variant.link 0 = true) ∧
      ((wLinkRetrain.rzLink 0).state = LinkState.retrain) ∧
      (∀ n ∈ detourDies 0, wLinkRetrain.isOpen (fabricDomain n) = true ∧ wLinkRetrain.isOpen (7 * n + 6) = true)) ∧
    ((wLinkDown.flt.fatal = false) ∧
      (wLinkDown.variant.link 0 = true) ∧
      (0 < 12) ∧
      ((wLinkDown.rzLink 0).state = LinkState.down) ∧
      ((wLinkDown.rzLink 0).detour = false) ∧
      (wLinkDown.isOpen (fabricDomain (linkEnds 0).1) = true) ∧
      (wLinkDown.isOpen (fabricDomain (linkEnds 0).2) = true)) := by
  and_intros <;> decide +kernel

theorem witness_RatesAndRails :
    ((wOn.flt.fatal = false) ∧
      (wOn.variant.quad 0 = true) ∧
      (wOn.live (quadDomain 0) = true)) ∧
    ((wOn.flt.fatal = false) ∧
      (wOn.variant.group 0 = true) ∧
      ((wOn.group 0).op ≠ (wOn.group 0).target)) := by
  and_intros <;> decide +kernel

theorem witness_EvaluationKeepsTheCap :
    (wUp.flt.fatal = false) := by decide +kernel

theorem witness_OverCapLowersTheHighestGroup :
    ((wOp3.flt.fatal = false) ∧
      (3100 ≤ wOp3.pwr.cap)) ∧
    ((wOp3.flt.fatal = false) ∧
      (wOp3.pwr.cap < 3300) ∧
      (3 < wOp3.variant.groups) ∧
      ((wOp3.group 3).point = 3) ∧
      (∀ h < wOp3.variant.groups, 3 < h → (wOp3.group h).point ≠ 3)) := by
  and_intros <;> decide +kernel

theorem witness_DomainsSwitch :
    ((wBusyPwr.flt.fatal = false) ∧
      (0 < 80) ∧
      (wBusyPwr.pwr.reqBusy = true)) ∧
    ((wBusyPwr.flt.fatal = false) ∧
      (0 < 80) ∧
      (wBusyPwr.pwr.reqBusy = true)) ∧
    ((wFenced.flt.fatal = false) ∧
      (78 < 80) ∧
      (wFenced.pwr.reqBusy = false) ∧
      (wFenced.variant.domain 78 = true) ∧
      ((wFenced.dom 78).state = DomState.fenced ∨ (wFenced.dom 78).state = DomState.resetting)) ∧
    ((wLeftOff.flt.fatal = false) ∧
      (56 < 80) ∧
      (wLeftOff.pwr.reqBusy = false) ∧
      (wLeftOff.variant.domain 56 = true) ∧
      ((wLeftOff.dom 56).state ≠ DomState.fenced) ∧
      ((wLeftOff.dom 56).state ≠ DomState.resetting) ∧
      (wLeftOff.stackLeftOff 56 = true)) ∧
    ((wHeld.flt.fatal = false) ∧
      (0 < 80) ∧
      (wHeld.pwr.reqBusy = false) ∧
      (wHeld.variant.domain 0 = true) ∧
      ((wHeld.dom 0).state ≠ DomState.fenced) ∧
      ((wHeld.dom 0).state ≠ DomState.resetting) ∧
      (wHeld.stackLeftOff 0 = false) ∧
      ((wHeld.dom 0).power ≠ Power.off)) ∧
    ((wOff.flt.fatal = false) ∧
      (0 < 80) ∧
      (wOff.pwr.reqBusy = false) ∧
      (wOff.variant.domain 0 = true) ∧
      ((wOff.dom 0).state ≠ DomState.fenced) ∧
      ((wOff.dom 0).state ≠ DomState.resetting) ∧
      (wOff.stackLeftOff 0 = false) ∧
      ((wOff.dom 0).power = Power.off)) ∧
    (((wPowering DomState.opened).flt.fatal = false) ∧
      ((wPowering DomState.opened).variant.domain 0 = true) ∧
      (((wPowering DomState.opened).dom 0).state = DomState.resetting) ∧
      (((wPowering DomState.opened).dom 0).ready = true) ∧
      (((wPowering DomState.opened).dom 0).powering = true) ∧
      (∀ n < 12, (wPowering DomState.opened).variant.die n = true → n ∈ ((wPowering DomState.opened).dom 0).epochAcks) ∧
      (∀ e ∈ powerDeps 0, (wPowering DomState.opened).isOpen e = true)) ∧
    (((wPowering DomState.fenced).flt.fatal = false) ∧
      ((wPowering DomState.fenced).variant.domain 0 = true) ∧
      (((wPowering DomState.fenced).dom 0).state = DomState.resetting) ∧
      (((wPowering DomState.fenced).dom 0).ready = true) ∧
      (((wPowering DomState.fenced).dom 0).powering = true) ∧
      (∀ n < 12, (wPowering DomState.fenced).variant.die n = true → n ∈ ((wPowering DomState.fenced).dom 0).epochAcks) ∧
      (∃ e ∈ powerDeps 0, (wPowering DomState.fenced).isOpen e = false)) ∧
    ((wHeld.flt.fatal = false) ∧
      (0 < 72) ∧
      (0 % 7 < 4 ∨ 56 ≤ 0) ∧
      (wHeld.variant.domain 0 = true) ∧
      ((wHeld.dom 0).state = DomState.opened) ∧
      ((wHeld.dom 0).power = Power.on) ∧
      (wHeld.pwr.reqBusy = false) ∧
      (wHeld.domainHeld 0 = true)) ∧
    ((wAuto.flt.fatal = false) ∧
      (0 < 72) ∧
      (0 % 7 < 4 ∨ 56 ≤ 0) ∧
      (wAuto.variant.domain 0 = true) ∧
      ((wAuto.dom 0).state = DomState.opened) ∧
      ((wAuto.dom 0).power = Power.on) ∧
      (wAuto.pwr.reqBusy = false) ∧
      (wAuto.domainHeld 0 = false)) ∧
    ((wAuto.flt.fatal = false) ∧
      (0 < 72) ∧
      (0 % 7 < 4 ∨ 56 ≤ 0) ∧
      (wAuto.variant.domain 0 = true) ∧
      ((wAuto.dom 0).state = DomState.opened) ∧
      ((wAuto.dom 0).power = Power.on) ∧
      (wAuto.pwr.autoOff = true) ∧
      (wAuto.domainHeld 0 = false)) ∧
    ((wHeld.flt.fatal = false) ∧
      (0 < 72) ∧
      (0 % 7 < 4 ∨ 56 ≤ 0) ∧
      (wHeld.variant.domain 0 = true) ∧
      ((wHeld.dom 0).state = DomState.opened) ∧
      ((wHeld.dom 0).power = Power.on) ∧
      (wHeld.pwr.autoOff = false)) := by
  and_intros <;> decide +kernel

theorem witness_CoolantLoopKeepsItsBounds :
    ((wPwr.flt.fatal = false) ∧
      (wPwr.pwr.cooling = false) ∧
      (↑wPwr.pwr.valveMin * permille ≤ wPwr.pwr.valve) ∧
      (wPwr.pwr.valve ≤ 1000 * permille) ∧
      (wPwr.pwr.valveMin ≤ 1000) ∧
      (-5000 ≤ wPwr.pwr.integ10) ∧
      (wPwr.pwr.integ10 ≤ 10000)) ∧
    ((wPwr.flt.fatal = false) ∧
      (wPwr.variant.quad 0 = true) ∧
      (wPwr.pwr.valve = 1000 * permille) ∧
      (2 < wPwr.pwr.err)) ∧
    ((wHotWater.flt.fatal = false) ∧
      (wHotWater.pwr.inlet < wHotWater.pwr.inletMax) ∧
      (wHotWater.pwr.valve < 900 * permille) ∧
      (wHotWater.pwr.err < -3) ∧
      (0 ∈ wHotWater.coolGroups) ∧
      (∀ h ∈ wHotWater.coolGroups,
    (wHotWater.group 0).ceil < (wHotWater.group h).ceil ∨ (wHotWater.group 0).ceil = (wHotWater.group h).ceil ∧ 0 ≤ h)) := by
  and_intros <;> decide +kernel

theorem witness_HeatLowersCeilings :
    ((wCooled.flt.fatal = false) ∧
      (¬(100 < (↑wCooled.pwr.pos - wCooled.pwr.valve / permille).natAbs ∨
      90 < wCooled.pwr.inlet ∨
        90 < wCooled.pwr.outlet ∨ wCooled.pwr.outlet + 2 < wCooled.pwr.inlet ∧ 500 < wCooled.pwr.inputW))) ∧
    ((wPwr.flt.fatal = false) ∧
      (100 < (↑wPwr.pwr.pos - wPwr.pwr.valve / permille).natAbs ∨
    90 < wPwr.pwr.inlet ∨ 90 < wPwr.pwr.outlet ∨ wPwr.pwr.outlet + 2 < wPwr.pwr.inlet ∧ 500 < wPwr.pwr.inputW)) ∧
    ((wCooled.flt.fatal = false) ∧
      (wCooled.pwr.cooling = true) ∧
      (¬(100 < (↑wCooled.pwr.pos - wCooled.pwr.valve / permille).natAbs ∨
      90 < wCooled.pwr.inlet ∨
        90 < wCooled.pwr.outlet ∨ wCooled.pwr.outlet + 2 < wCooled.pwr.inlet ∧ 500 < wCooled.pwr.inputW)) ∧
      (bitAt (wCooled.ev evPwr).value 7 = false)) ∧
    ((wPwr.flt.fatal = false) ∧
      ((100 < (↑wPwr.pwr.pos - wPwr.pwr.valve / permille).natAbs ∨
      90 < wPwr.pwr.inlet ∨ 90 < wPwr.pwr.outlet ∨ wPwr.pwr.outlet + 2 < wPwr.pwr.inlet ∧ 500 < wPwr.pwr.inputW) ∨
    bitAt (wPwr.ev evPwr).value 7 = true)) ∧
    ((wPwr.flt.fatal = false) ∧
      (wPwr.variant.quad 4 = true) ∧
      (wPwr.pwr.tjHot ≤ 100)) ∧
    ((wHotWater.flt.fatal = false) ∧
      ((wHotWater.group 1).hot = true)) := by
  and_intros <;> decide +kernel

theorem witness_GroupsTripAndRestart :
    ((wPwr.flt.fatal = false) ∧
      (wPwr.variant.group 0 = true) ∧
      ((wPwr.group 0).tripped = false) ∧
      (∃ m < 7, (wPwr.dom (7 * 0 + m)).power ≠ Power.off ∧ (wPwr.dom (7 * 0 + m)).state = DomState.opened)) ∧
    ((wTripped.flt.fatal = false) ∧
      (wTripped.variant.group 1 = true) ∧
      ((wTripped.group 1).tripped = true) ∧
      ((wTripped.group 1).left = false) ∧
      (wTripped.pwr.inlet < wTripped.pwr.inletMax) ∧
      (∀ m < 7, (wTripped.dom (7 * 1 + m)).power = Power.off)) ∧
    ((wTrippedHot.flt.fatal = false) ∧
      (wTrippedHot.variant.group 1 = true) ∧
      ((wTrippedHot.group 1).tripped = true) ∧
      (wTrippedHot.pwr.inletMax ≤ wTrippedHot.pwr.inlet)) := by
  and_intros <;> decide +kernel

theorem witness_InputPowerIsLostAndReturns :
    ((wPwr.pwr.onHoldup = false)) ∧
    ((wHoldup.flt.fatal = false) ∧
      (wHoldup.pwr.onHoldup = true)) ∧
    ((wFatalHoldup.flt.fatal = true) ∧
      (wFatalHoldup.pwr.onHoldup = true)) ∧
    ((wHoldup.pwr.onHoldup = true)) ∧
    ((wPwr.flt.fatal = false) ∧
      (20 < 256)) := by
  and_intros <;> decide +kernel

theorem witness_WearIsMeasuredAndStored :
    ((wWorn.flt.fatal = false) ∧
      (0 < 78) ∧
      (wWorn.variant.domain 0 = true) ∧
      ((wWorn.dom 0).power ≠ Power.off)) ∧
    ((wWorn.flt.fatal = false) ∧
      (0 < 78) ∧
      (wWorn.variant.domain 0 = true) ∧
      ((wWorn.dom 0).power ≠ Power.off) ∧
      (0 < 1000) ∧
      (1000 ≤ 1050)) ∧
    ((wWorn.flt.fatal = false)) := by
  and_intros <;> decide +kernel

theorem witness_HangsFenceTheirDomain :
    ((wHung.flt.fatal = false) ∧
      (wHung.variant.domain 0 = true) ∧
      (0 ∈ domainUnits 0) ∧
      (unitClass 0 0 = 1) ∧
      (wHung.hasWork 0 0 = true) ∧
      (0 ≠ 78) ∧
      ((wHung.dom 0).state = DomState.opened)) ∧
    ((wHungFenced.flt.fatal = false) ∧
      (wHungFenced.variant.domain 0 = true) ∧
      (0 ∈ domainUnits 0) ∧
      (unitClass 0 0 = 1) ∧
      (wHungFenced.hasWork 0 0 = true) ∧
      (0 ≠ 78) ∧
      ((wHungFenced.dom 0).state = DomState.fenced ∨ (wHungFenced.dom 0).state = DomState.resetting)) := by
  and_intros <;> decide +kernel

theorem witness_FencedDomainsDrain :
    ((wDrainOff.flt.fatal = false) ∧
      (56 < 78) ∧
      (wDrainOff.variant.domain 56 = true) ∧
      ((wDrainOff.dom 56).state = DomState.fenced) ∧
      (wDrainOff.variant.die 11 = true) ∧
      (11 ∉ (wDrainOff.dom 56).fenceAcks)) ∧
    ((wHungHoldup.flt.fatal = false) ∧
      (0 < 78) ∧
      (wHungHoldup.variant.domain 0 = true) ∧
      ((wHungHoldup.dom 0).state = DomState.fenced) ∧
      ((wHungHoldup.dom 0).offAfter = false) ∧
      (wHungHoldup.pwr.onHoldup = true)) ∧
    ((wHungFenced.flt.fatal = false) ∧
      (0 < 78) ∧
      (wHungFenced.variant.domain 0 = true) ∧
      ((wHungFenced.dom 0).state = DomState.fenced) ∧
      ((wHungFenced.dom 0).offAfter = false) ∧
      (wHungFenced.pwr.onHoldup = false)) ∧
    ((wDrainOff.flt.fatal = false) ∧
      (56 < 78) ∧
      (wDrainOff.variant.domain 56 = true) ∧
      ((wDrainOff.dom 56).state = DomState.fenced) ∧
      ((wDrainOff.dom 56).offAfter = true)) := by
  and_intros <;> decide +kernel

theorem witness_ResetDomainsComeBack :
    (((wResetting false 1 []).flt.fatal = false) ∧
      ((wResetting false 1 []).variant.domain 72 = true) ∧
      (((wResetting false 1 []).dom 72).state = DomState.resetting) ∧
      (((wResetting false 1 []).dom 72).ready = false) ∧
      ((wResetting false 1 []).pwr.onHoldup = false)) ∧
    (((wResetting true 1 []).flt.fatal = false) ∧
      ((wResetting true 1 []).variant.domain 72 = true) ∧
      (((wResetting true 1 []).dom 72).state = DomState.resetting) ∧
      (((wResetting true 1 []).dom 72).ready = true) ∧
      ((wResetting true 1 []).variant.die 3 = true) ∧
      (3 ∉ ((wResetting true 1 []).dom 72).epochAcks)) ∧
    (((wResetting true 1 (List.range 12)).flt.fatal = false) ∧
      ((wResetting true 1 (List.range 12)).variant.domain 72 = true) ∧
      (((wResetting true 1 (List.range 12)).dom 72).state = DomState.resetting) ∧
      (((wResetting true 1 (List.range 12)).dom 72).ready = true) ∧
      (((wResetting true 1 (List.range 12)).dom 72).powering = false) ∧
      (∀ n < 12,
    (wResetting true 1 (List.range 12)).variant.die n = true → n ∈ ((wResetting true 1 (List.range 12)).dom 72).epochAcks)) ∧
    (((wResetting true 1 []).flt.fatal = false) ∧
      ((wResetting true 1 []).variant.domain 72 = true) ∧
      (((wResetting true 1 []).dom 72).state = DomState.resetting) ∧
      (3 < 12) ∧
      ((wResetting true 1 []).variant.die 3 = true) ∧
      (3 ∉ ((wResetting true 1 []).dom 72).epochAcks)) := by
  and_intros <;> decide +kernel

theorem witness_FenceClearEndsTheWait :
    (wWaits.flt.fatal = false) ∧
    (wWaits.isOpen 3 = true) := by decide +kernel

theorem witness_LateResetsEscalate :
    ((wResetHoldup.flt.fatal = false) ∧
      (wResetHoldup.variant.domain 72 = true) ∧
      ((wResetHoldup.dom 72).state = DomState.resetting) ∧
      ((wResetHoldup.dom 72).ready = false) ∧
      (wResetHoldup.pwr.onHoldup = true)) ∧
    (((wResetting false 1 []).flt.fatal = false) ∧
      ((wResetting false 1 []).variant.domain 72 = true) ∧
      (((wResetting false 1 []).dom 72).state = DomState.resetting) ∧
      (((wResetting false 1 []).dom 72).ready = false) ∧
      ((wResetting false 1 []).pwr.onHoldup = false) ∧
      (((wResetting false 1 []).dom 72).level = 1) ∧
      (72 < 78)) ∧
    (((wResetting false 2 []).flt.fatal = false) ∧
      ((wResetting false 2 []).variant.domain 72 = true) ∧
      (((wResetting false 2 []).dom 72).state = DomState.resetting) ∧
      (((wResetting false 2 []).dom 72).ready = false) ∧
      ((wResetting false 2 []).pwr.onHoldup = false) ∧
      (((wResetting false 2 []).dom 72).level = 2) ∧
      (72 < 78) ∧
      (Option.any (fun r => r.domain == 78) ((wResetting false 2 []).fault ((wResetting false 2 []).dom 72).record) = false)) ∧
    (((wResetting false 3 []).flt.fatal = false) ∧
      ((wResetting false 3 []).variant.domain 72 = true) ∧
      (((wResetting false 3 []).dom 72).state = DomState.resetting) ∧
      (((wResetting false 3 []).dom 72).ready = false) ∧
      ((wResetting false 3 []).pwr.onHoldup = false) ∧
      (((wResetting false 3 []).dom 72).level = 3 ∨
    ((wResetting false 3 []).dom 72).level = 2 ∧
      (72 = 78 ∨
        Option.any (fun r => r.domain == 78) ((wResetting false 3 []).fault ((wResetting false 3 []).dom 72).record) =
          true))) := by
  and_intros <;> decide +kernel

theorem witness_RequestedResetsFence :
    ((wHung.flt.fatal = false) ∧
      (wHung.variant.domain 0 = true) ∧
      (0 ≠ 78) ∧
      ((wHung.dom 0).state = DomState.opened)) ∧
    ((wHung.flt.fatal = false) ∧
      (wHung.variant.domain 0 = true) ∧
      (0 ≠ 78) ∧
      ((wHung.dom 0).state = DomState.opened)) ∧
    ((wHungFenced.flt.fatal = false) ∧
      (wHungFenced.variant.domain 0 = true) ∧
      ((wHungFenced.dom 0).state ≠ DomState.opened ∨ 0 = 78)) ∧
    ((wHungFenced.flt.fatal = false) ∧
      (wHungFenced.variant.domain 0 = true) ∧
      ((wHungFenced.dom 0).state ≠ DomState.opened ∨ 0 = 78)) := by
  and_intros <;> decide +kernel

theorem witness_CrashDumps :
    ((wUp.flt.fatal = false) ∧
      (wUp.dumpBuffer = some 0)) ∧
    ((wDumpsFull.flt.fatal = false) ∧
      (wDumpsFull.dumpBuffer = none)) ∧
    ((wDumping.flt.fatal = false) ∧
      (tget wDumping.flt.dumps 1 = some wDump) ∧
      ((72, 12) ∈ wDump.todo)) ∧
    ((wDumping.flt.fatal = false) ∧
      (wDumping.flt.dumps = [(1, wDump)]) ∧
      (wDump.ended = false) ∧
      (wDump.records.flatten.length ≤ 262080)) ∧
    ((wDumped.flt.fatal = false) ∧
      (tget wDumped.flt.dumps 1 =
    some
      ({ wDump with ended := true } : Dump)) ∧
      (({ wDump with ended := true } : Dump).ended =
    true) ∧
      (1 < 4) ∧
      (parseAddr (wDumped.flt.dumpDest * 4096) = Loc.host 0) ∧
      (0 + 262144 ≤ 2 ^ 56) ∧
      (wDumped.linkUp = true)) := by
  and_intros <;> decide +kernel

theorem witness_SupervisorBoots :
    ((wSvc.flt.fatal = false) ∧
      ((wSvc.dom 78).power = Power.off) ∧
      (wSvc.pins.svcEn = true)) ∧
    ((wJob.flt.fatal = false) ∧
      ((wJob.dom 78).power = Power.off) ∧
      (wJob.pins.svcEn = false) ∧
      (wJob.slotReason false ≠ 0) ∧
      (wJob.slotReason true ≠ 0)) ∧
    ((wJob.flt.fatal = false) ∧
      (wJob.boot.state = 3) ∧
      (wJob.boot.jobs[0]? = some wJobValue) ∧
      (bitAt (le wJobValue 4 4) 0 = true) ∧
      (bitAt wJob.boot.jobStarted 0 = false)) ∧
    ((wJob.flt.fatal = false) ∧
      (wJob.boot.state = 3) ∧
      (wJob.boot.jobs[0]? = some wJobValue) ∧
      (bitAt (le wJobValue 4 4) 0 = true) ∧
      (bitAt wJob.boot.jobStarted 0 = false) ∧
      (sha384 [1] ≠ slice wJobValue 64 48)) ∧
    ((wJob.flt.fatal = false) ∧
      (wJob.boot.state = 3) ∧
      (wJob.boot.jobs[0]? = some wJobValue) ∧
      (bitAt (le wJobValue 4 4) 0 = true) ∧
      (bitAt wJob.boot.jobStarted 0 = false) ∧
      (sha384 [] = slice wJobValue 64 48)) := by
  and_intros <;> decide +kernel

theorem witness_UpdatesBegin :
    (wUpdBusy.flt.fatal = false) ∧
    (2 ^ 63 % 64 = 0) ∧
    (wUpdBusy.requestOk (2 ^ 63) 64 = true) ∧
    (le (wUpdBusy.fwRead (2 ^ 63) 64) 0 4 = 1) ∧
    (clearAt (wUpdBusy.fwRead (2 ^ 63) 64) [(22, 2), (28, 4)] = true) ∧
    (le (wUpdBusy.fwRead (2 ^ 63) 64) 4 4 = 1) ∧
    (le (wUpdBusy.fwRead (2 ^ 63) 64) 20 2 = 0) ∧
    (le (wUpdBusy.fwRead (2 ^ 63) 64) 24 4 ≤ 60000) ∧
    (le (wUpdBusy.fwRead (2 ^ 63) 64) 16 4 = 944) ∧
    (wUpdBusy.boot.upd ≠ UpdState.idle) ∧
    (parseAddr (2 ^ 63) = Loc.host 0) ∧
    (wUpdBusy.linkUp = true) := by
  and_intros <;> decide +kernel

theorem witness_CoresAreUpdatedInTurn :
    (((wTurn 8).flt.fatal = false) ∧
      ((wTurn 8).boot.updTodo = [8, 11]) ∧
      ((wTurn 8).variant.domain (coreDomain 8) = true) ∧
      (8 < 13) ∧
      ((wTurn 8).boot.upd = UpdState.applying) ∧
      ((wTurn 8).boot.watch = none) ∧
      ((wTurn 8).turnWaits 8 = false) ∧
      (firmwareOf (wTurn 8).boot.updBundle 8 = some (wFw 8))) ∧
    ((wSupRestart.flt.fatal = false) ∧
      (wSupRestart.boot.supRestart = true)) ∧
    ((wWatch.flt.fatal = false) ∧
      (wWatch.boot.updTodo = [8, 11]) ∧
      (wWatch.boot.watch = some 8) ∧
      (wWatch.boot.supRestart = false) ∧
      (wWatch.isOpen (coreDomain 8) = true) ∧
      (wWatch.turnWaits 11 = false)) := by
  and_intros <;> decide +kernel

theorem witness_UpdatesEnd :
    ((wUpdBusy.flt.fatal = false) ∧
      (parseAddr wUpdBusy.boot.updAddr = Loc.host 0) ∧
      (0 % 64 = 0) ∧
      (wUpdBusy.linkUp = true) ∧
      (wUpdBusy.boot.upd = UpdState.deferred) ∧
      (wUpdBusy.net.state ≠ GroupState.paused)) ∧
    ((wPauseLate.flt.fatal = false) ∧
      (parseAddr wPauseLate.boot.updAddr = Loc.host 0) ∧
      (0 % 64 = 0) ∧
      (wPauseLate.linkUp = true) ∧
      (wPauseLate.boot.upd = UpdState.deferred) ∧
      (wPauseLate.net.state = GroupState.paused) ∧
      (wPauseLate.isMaster = false) ∧
      (wPauseLate.member wPauseLate.net.self = some { wReplica 2 with paused := true })) ∧
    ((wPersist.flt.fatal = false) ∧
      (parseAddr wPersist.boot.updAddr = Loc.host 0) ∧
      (0 % 64 = 0) ∧
      (wPersist.linkUp = true) ∧
      (wPersist.boot.upd = UpdState.persisting) ∧
      (bitAt wPersist.boot.updFlags 2 = false)) ∧
    ((wPersist.flt.fatal = false) ∧
      (parseAddr wPersist.boot.updAddr = Loc.host 0) ∧
      (0 % 64 = 0) ∧
      (wPersist.linkUp = true) ∧
      (wPersist.boot.upd = UpdState.persisting)) := by
  and_intros <;> decide +kernel

theorem witness_AttestationIsQueued :
    (((wAtt 0).flt.fatal = false) ∧
      ((wAtt 0).isOpen 77 = true) ∧
      (2 ^ 63 % 128 = 0) ∧
      ((wAtt 0).requestOk (2 ^ 63) 128 = true) ∧
      (le ((wAtt 0).fwRead (2 ^ 63) 128) 0 4 = 1) ∧
      ((wAtt 0).boot.supRestart = false) ∧
      ((wAtt 0).requestOk (le ((wAtt 0).fwRead (2 ^ 63) 128) 8 8) 976 = true) ∧
      (clearAt ((wAtt 0).fwRead (2 ^ 63) 128) [(4, 4), (64, 48)] = true) ∧
      ((wAtt 0).boot.atts.length < 4)) ∧
    (((wAtt 4).flt.fatal = false) ∧
      ((wAtt 4).isOpen 77 = true) ∧
      (2 ^ 63 % 128 = 0) ∧
      ((wAtt 4).requestOk (2 ^ 63) 128 = true) ∧
      (le ((wAtt 4).fwRead (2 ^ 63) 128) 0 4 = 1) ∧
      ((wAtt 4).boot.supRestart = false) ∧
      ((wAtt 4).requestOk (le ((wAtt 4).fwRead (2 ^ 63) 128) 8 8) 976 = true) ∧
      (clearAt ((wAtt 4).fwRead (2 ^ 63) 128) [(4, 4), (64, 48)] = true) ∧
      (4 ≤ (wAtt 4).boot.atts.length) ∧
      (parseAddr (2 ^ 63) = Loc.host 0) ∧
      ((wAtt 4).linkUp = true)) ∧
    (((wAtt 1).flt.fatal = false) ∧
      ((wAtt 1).isOpen 77 = true) ∧
      ((wAtt 1).boot.atts = [(2 ^ 63 + 512, 7, leBytes 8 1 ++ leBytes 8 (2 ^ 63 + 4096) ++ zeros 112)]) ∧
      (parseAddr (2 ^ 63 + 512) = Loc.host 512) ∧
      (512 % 128 = 0) ∧
      ((wAtt 1).linkUp = true)) := by
  and_intros <;> decide +kernel

theorem witness_SidebandWorks :
    ((wUp.isOpen 78 = true)) ∧
    ((State.sideBlock 2097152 = false)) ∧
    ((1000 ≤ 1000) ∧
      (wUp.pwr.onHoldup = false)) ∧
    ((1000 ≤ 1000) ∧
      (wUp.pwr.onHoldup = false)) ∧
    ((5 < 1000 ∨ wUp.pwr.onHoldup = true)) ∧
    ((5 ≠ 165)) ∧
    ((wFlash.boot.serviceMode = true ∨ wFlash.boot.state = 4) ∧
      (5 + [1].length ≤ 2 ^ 28) ∧
      (5 < 2 ^ 28)) ∧
    ((wFlash.boot.serviceMode = true ∨ wFlash.boot.state = 4) ∧
      (5 + [1].length ≤ 2 ^ 28) ∧
      (5 < 2 ^ 28)) ∧
    ((wUp.boot.serviceMode = false) ∧
      (wUp.boot.state ≠ 4)) := by
  and_intros <;> decide +kernel

theorem witness_ArrayCommandsRun :
    ((wMatmul.ready 1 0 0 0 (wCmdOf wMatmul) (wMatmul.queueDomains 0 0)) ∧
      (∀ (d : Desc),
    wMatmul.opd (State.atCmd 0 0 (wCmdOf wMatmul)) 34 [2] = some d →
      ∃ i,
        wMatmul.chanOf d.handle = some i ∧
          wMatmul.chanStatus i true = none ∧ wMatmul.chanActs i true = true ∧ wMatmul.canFill i = true)) ∧
    ((wConvrow.ready 2 0 0 0 (wCmdOf wConvrow) (wConvrow.queueDomains 0 0)) ∧
      (∀ (d : Desc),
    wConvrow.opd (State.atCmd 0 0 (wCmdOf wConvrow)) 34 [2] = some d →
      ∃ i,
        wConvrow.chanOf d.handle = some i ∧
          wConvrow.chanStatus i true = none ∧ wConvrow.chanActs i true = true ∧ wConvrow.canFill i = true)) ∧
    ((wEltwise.ready 3 0 0 0 (wCmdOf wEltwise) (wEltwise.queueDomains 0 0)) ∧
      (wEltwise.param (State.atCmd 0 0 (wCmdOf wEltwise)) ((State.atCmd 0 0 (wCmdOf wEltwise)).d 61) = some (wParamOf 1 1)) ∧
      ((wParamOf 1 1).rows = 1) ∧
      ((wParamOf 1 1).cols = 1) ∧
      (([(State.atCmd 0 0 (wCmdOf wEltwise)).f 30 21, (State.atCmd 0 0 (wCmdOf wEltwise)).f 40 31,
          (State.atCmd 0 0 (wCmdOf wEltwise)).f 50 41].all
      fun v => wEltwise.storeReady (State.atCmd 0 0 (wCmdOf wEltwise)) v 1) =
    true) ∧
      (selOf ((State.atCmd 0 0 (wCmdOf wEltwise)).f 60 51) = Sel2.desc 2) ∧
      (wEltwise.desc (State.atCmd 0 0 (wCmdOf wEltwise)) 2 [0, 1, 2] = some (descOf (wDesc (wScr 64) 1 1))) ∧
      ((descOf (wDesc (wScr 64) 1 1)).kind = 0) ∧
      (wEltwise.desc (State.atCmd 0 0 (wCmdOf wEltwise)) 2 [1] = none) ∧
      (wEltwise.desc (State.atCmd 0 0 (wCmdOf wEltwise)) 2 [2] = none) ∧
      ((State.atCmd 0 0 (wCmdOf wEltwise)).f 77 74 = 13) ∧
      ((State.atCmd 0 0 (wCmdOf wEltwise)).b 8 = false) ∧
      ((State.atCmd 0 0 (wCmdOf wEltwise)).f 79 78 ≠ 2) ∧
      ((State.atCmd 0 0 (wCmdOf wEltwise)).f 93 92 = 0) ∧
      (parseAddr (descOf (wDesc (wScr 64) 1 1)).addr = Loc.scr false (arrDie ((wEltwise.cmdArrays 0 0).getD 0 0)) 64) ∧
      (wEltwise.edgeFree (State.atCmd 0 0 (wCmdOf wEltwise)) 1 = true) ∧
      (wEltwise.lies (wEltwise.ctx 0).ptn (arrDie ((wEltwise.cmdArrays 0 0).getD 0 0)) (descOf (wDesc (wScr 64) 1 1)).addr 4
    (scrKey (wEltwise.ctx 0).ptn (arrDie ((wEltwise.cmdArrays 0 0).getD 0 0)) 64))) ∧
    ((wConvert.ready 6 0 0 0 (wCmdOf wConvert) (wConvert.queueDomains 0 0)) ∧
      (wConvert.param (State.atCmd 0 0 (wCmdOf wConvert)) ((State.atCmd 0 0 (wCmdOf wConvert)).d 55) = some (wParamOf 1 1)) ∧
      ((wParamOf 1 1).rows = 1) ∧
      ((wParamOf 1 1).cols = 1) ∧
      (wConvert.storeReady (State.atCmd 0 0 (wCmdOf wConvert)) ((State.atCmd 0 0 (wCmdOf wConvert)).f 25 16) 1 = true) ∧
      (selOf ((State.atCmd 0 0 (wCmdOf wConvert)).f 25 16) = Sel2.desc 1) ∧
      (selOf ((State.atCmd 0 0 (wCmdOf wConvert)).f 35 26) = Sel2.desc 2) ∧
      (wConvert.desc (State.atCmd 0 0 (wCmdOf wConvert)) 2 [0, 1, 2] = some (descOf (wDesc (wScr 64) 1 1))) ∧
      ((descOf (wDesc (wScr 64) 1 1)).kind = 0) ∧
      (wConvert.desc (State.atCmd 0 0 (wCmdOf wConvert)) 2 [1] = none) ∧
      (wConvert.desc (State.atCmd 0 0 (wCmdOf wConvert)) 2 [2] = none) ∧
      ((State.atCmd 0 0 (wCmdOf wConvert)).f 43 40 = 13) ∧
      ((State.atCmd 0 0 (wCmdOf wConvert)).b 8 = false) ∧
      ((State.atCmd 0 0 (wCmdOf wConvert)).f 45 44 ≠ 2) ∧
      (parseAddr (descOf (wDesc (wScr 64) 1 1)).addr = Loc.scr false (arrDie ((wConvert.cmdArrays 0 0).getD 0 0)) 64) ∧
      (wConvert.edgeFree (State.atCmd 0 0 (wCmdOf wConvert)) 1 = true) ∧
      (wConvert.lies (wConvert.ctx 0).ptn (arrDie ((wConvert.cmdArrays 0 0).getD 0 0)) (descOf (wDesc (wScr 64) 1 1)).addr 4
    (scrKey (wConvert.ctx 0).ptn (arrDie ((wConvert.cmdArrays 0 0).getD 0 0)) 64))) ∧
    ((wReduce.ready 4 0 0 0 (wCmdOf wReduce) (wReduce.queueDomains 0 0)) ∧
      (wReduce.param (State.atCmd 0 0 (wCmdOf wReduce)) ((State.atCmd 0 0 (wCmdOf wReduce)).d 56) = some (wParamOf 1 3)) ∧
      ((wParamOf 1 3).rows = 1) ∧
      ((State.atCmd 0 0 (wCmdOf wReduce)).b 18 = false) ∧
      (wReduce.storeReady (State.atCmd 0 0 (wCmdOf wReduce)) ((State.atCmd 0 0 (wCmdOf wReduce)).f 28 19)
      (tileCount 1 (wParamOf 1 3).cols) =
    true) ∧
      (wReduce.opd (State.atCmd 0 0 (wCmdOf wReduce)) 29 [0] = some (descOf (wDesc' (wScr 64) 3 1 1 16))) ∧
      (parseAddr (descOf (wDesc' (wScr 64) 3 1 1 16)).addr = Loc.scr false (wReduce.queueDie 0 0) 64) ∧
      (wReduce.lies (wReduce.ctx 0).ptn (wReduce.queueDie 0 0) (descOf (wDesc' (wScr 64) 3 1 1 16)).addr 16
    (scrKey (wReduce.ctx 0).ptn (wReduce.queueDie 0 0) 64))) ∧
    ((wTopk.ready 5 0 0 0 (wCmdOf wTopk) (wTopk.queueDomains 0 0)) ∧
      (wTopk.param (State.atCmd 0 0 (wCmdOf wTopk)) ((State.atCmd 0 0 (wCmdOf wTopk)).d 59) = some (wParamOf 1 9)) ∧
      ((wParamOf 1 9).rows = 1) ∧
      ((State.atCmd 0 0 (wCmdOf wTopk)).b 16 = false) ∧
      (wTopk.storeReady (State.atCmd 0 0 (wCmdOf wTopk)) ((State.atCmd 0 0 (wCmdOf wTopk)).f 31 22)
      (tileCount 1 (wParamOf 1 9).cols) =
    true) ∧
      (wTopk.opd (State.atCmd 0 0 (wCmdOf wTopk)) 32 [0] = some (descOf (wDesc (wScr 64) 1 16))) ∧
      (8 * ((State.atCmd 0 0 (wCmdOf wTopk)).f 21 17 + 1) ≤ (wParamOf 1 9).cols) ∧
      (parseAddr (descOf (wDesc (wScr 64) 1 16)).addr = Loc.scr false (wTopk.queueDie 0 0) 64) ∧
      (wTopk.lies (wTopk.ctx 0).ptn (wTopk.queueDie 0 0) (descOf (wDesc (wScr 64) 1 16)).addr
    (64 * ((State.atCmd 0 0 (wCmdOf wTopk)).f 21 17 + 1)) (scrKey (wTopk.ctx 0).ptn (wTopk.queueDie 0 0) 64))) := by
  and_intros <;> decide +kernel

theorem witness_DataCommandsRun :
    ((wSput.opd (State.atCmd 0 0 (wCmdOf wSput)) 16 [2] =
    some
      (descOf (wChanDesc 0 wChanHandle))) ∧
      (wSput.chanOf
      (descOf (wChanDesc 0 wChanHandle)).handle =
    some 0) ∧
      (tget wSput.channels 0 = some (wChannel false [wSlot SorSlotState.filling 0 0, wSlot SorSlotState.free 0 0])) ∧
      ((wChannel false [wSlot SorSlotState.filling 0 0, wSlot SorSlotState.free 0 0]).state = ChanState.opened) ∧
      (wSput.isOpen (sramDomain (wChannel false [wSlot SorSlotState.filling 0 0, wSlot SorSlotState.free 0 0]).placement) =
    true) ∧
      ((wCmdOf wSput).waitFrom = none) ∧
      (wSput.ready 7 0 0 0 (wCmdOf wSput) []) ∧
      ((wChannel false [wSlot SorSlotState.filling 0 0, wSlot SorSlotState.free 0 0]).skip = 0) ∧
      ((State.atCmd 0 0 (wCmdOf wSput)).d 25 = 0) ∧
      ((State.atCmd 0 0 (wCmdOf wSput)).b 43 = true) ∧
      ((wChannel false [wSlot SorSlotState.filling 0 0, wSlot SorSlotState.free 0 0]).find SorSlotState.filling = some 0)) ∧
    ((wStake.opd (State.atCmd 0 0 (wCmdOf wStake)) 16 [2] =
    some
      (descOf (wChanDesc 0 wChanHandle))) ∧
      (wStake.chanOf
      (descOf (wChanDesc 0 wChanHandle)).handle =
    some 0) ∧
      (tget wStake.channels 0 = some (wChannel true [wSlot SorSlotState.full 6 1, wSlot SorSlotState.free 0 0])) ∧
      ((wChannel true [wSlot SorSlotState.full 6 1, wSlot SorSlotState.free 0 0]).state = ChanState.opened) ∧
      (wStake.isOpen (sramDomain (wChannel true [wSlot SorSlotState.full 6 1, wSlot SorSlotState.free 0 0]).placement) = true) ∧
      ((wCmdOf wStake).waitFrom = none) ∧
      (wStake.ready 8 0 0 0 (wCmdOf wStake) []) ∧
      (wStake.opd (State.atCmd 0 0 (wCmdOf wStake)) 25 [0] = some (descOf (wDesc (wScr 0) 1 64))) ∧
      (State.stakeStale (State.atCmd 0 0 (wCmdOf wStake))
      (wChannel true [wSlot SorSlotState.full 6 1, wSlot SorSlotState.free 0 0]) =
    false) ∧
      (State.stakeSlot (State.atCmd 0 0 (wCmdOf wStake))
      (wChannel true [wSlot SorSlotState.full 6 1, wSlot SorSlotState.free 0 0]) =
    some 0) ∧
      (parseAddr (descOf (wDesc (wScr 0) 1 64)).addr = Loc.scr false (wStake.queueDie 0 0) 0) ∧
      (wStake.lies (wStake.ctx 0).ptn (wStake.queueDie 0 0) (descOf (wDesc (wScr 0) 1 64)).addr
    (32 +
      (wChannel true [wSlot SorSlotState.full 6 1, wSlot SorSlotState.free 0 0]).tokenBytes *
        wStake.chanTokens (wChannel true [wSlot SorSlotState.full 6 1, wSlot SorSlotState.free 0 0]))
    (scrKey (wStake.ctx 0).ptn (wStake.queueDie 0 0) 0))) ∧
    ((wLoss.opd (State.atCmd 0 0 (wCmdOf wLoss)) 16 [2] =
    some
      (descOf (wChanDesc 0 wChanHandle))) ∧
      (wLoss.chanOf
      (descOf (wChanDesc 0 wChanHandle)).handle =
    some 0) ∧
      (tget wLoss.channels 0 = some (wChannel true [wSlot SorSlotState.full 6 1, wSlot SorSlotState.free 0 0])) ∧
      ((wChannel true [wSlot SorSlotState.full 6 1, wSlot SorSlotState.free 0 0]).state = ChanState.opened) ∧
      (wLoss.isOpen (sramDomain (wChannel true [wSlot SorSlotState.full 6 1, wSlot SorSlotState.free 0 0]).placement) = true) ∧
      ((wCmdOf wLoss).waitFrom = none) ∧
      (wLoss.ready 9 0 0 0 (wCmdOf wLoss) (List.take 1 (wLoss.queueDomains 0 0))) ∧
      (wLoss.opd (State.atCmd 0 0 (wCmdOf wLoss)) 25 [0] = some (descOf (wDesc (wScr 0) 1 8))) ∧
      (wLoss.opd (State.atCmd 0 0 (wCmdOf wLoss)) 43 [0] = some (descOf (wDesc (wScr 256) 1 8))) ∧
      ((wChannel true [wSlot SorSlotState.full 6 1, wSlot SorSlotState.free 0 0]).feature = true) ∧
      ((wChannel true [wSlot SorSlotState.full 6 1, wSlot SorSlotState.free 0 0]).oldestFull = some 0) ∧
      ((wChannel true [wSlot SorSlotState.full 6 1, wSlot SorSlotState.free 0 0]).find SorSlotState.consuming = none) ∧
      (((wChannel true [wSlot SorSlotState.full 6 1, wSlot SorSlotState.free 0 0]).slots.getD 0 SorSlot.reset).valid =
    (descOf (wDesc (wScr 0) 1 8)).rows) ∧
      (0 < (descOf (wDesc (wScr 0) 1 8)).rows) ∧
      ((descOf (wDesc (wScr 256) 1 8)).rows = (descOf (wDesc (wScr 0) 1 8)).rows) ∧
      ((descOf (wDesc (wScr 256) 1 8)).cols = (wChannel true [wSlot SorSlotState.full 6 1, wSlot SorSlotState.free 0 0]).width) ∧
      ((descOf (wDesc (wScr 256) 1 8)).layout = 0) ∧
      (parseAddr (descOf (wDesc (wScr 256) 1 8)).addr = Loc.scr false (wLoss.queueDie 0 0) 256) ∧
      (wLoss.lies (wLoss.ctx 0).ptn (wLoss.queueDie 0 0) (descOf (wDesc (wScr 256) 1 8)).addr
    ((descOf (wDesc (wScr 256) 1 8)).span ((State.atCmd 0 0 (wCmdOf wLoss)).f 72 69))
    (scrKey (wLoss.ctx 0).ptn (wLoss.queueDie 0 0) 256))) ∧
    ((wDma.opd (State.atCmd 0 0 (wCmdOf wDma)) 16 [0] = some (descOf (wDesc' (wScr 0) 3 1 2 0))) ∧
      (wDma.opd (State.atCmd 0 0 (wCmdOf wDma)) 25 [0] = some (descOf (wDesc' (wScr 64) 3 1 2 0))) ∧
      (wDma.ready 10 0 0 0 (wCmdOf wDma) [State.engineDomain (wDma.dmaEngine (State.atCmd 0 0 (wCmdOf wDma)))]) ∧
      (wDma.engineFree (wDma.dmaEngine (State.atCmd 0 0 (wCmdOf wDma))) 0 0 0 = true) ∧
      ((wDma.dmaE (wDma.dmaEngine (State.atCmd 0 0 (wCmdOf wDma)))).waits = []) ∧
      (wDma.hostSpans (State.atCmd 0 0 (wCmdOf wDma)) = []) ∧
      ((descOf (wDesc' (wScr 64) 3 1 2 0)).layout = 3) ∧
      ((descOf (wDesc' (wScr 0) 3 1 2 0)).layout = 3) ∧
      ((descOf (wDesc' (wScr 0) 3 1 2 0)).cols = (descOf (wDesc' (wScr 64) 3 1 2 0)).cols) ∧
      ((State.atCmd 0 0 (wCmdOf wDma)).f 45 43 = 0) ∧
      (wDma.dmaRows (State.atCmd 0 0 (wCmdOf wDma)) = 1) ∧
      ((State.atCmd 0 0 (wCmdOf wDma)).f 73 50 = 0) ∧
      ((State.atCmd 0 0 (wCmdOf wDma)).f 121 98 = 0) ∧
      (parseAddr (descOf (wDesc' (wScr 64) 3 1 2 0)).addr = Loc.scr false (wDma.dmaDie (State.atCmd 0 0 (wCmdOf wDma))) 64) ∧
      (wDma.lies (wDma.ctx 0).ptn (wDma.dmaDie (State.atCmd 0 0 (wCmdOf wDma))) (descOf (wDesc' (wScr 64) 3 1 2 0)).addr
    (16 * (descOf (wDesc' (wScr 64) 3 1 2 0)).cols)
    (scrKey (wDma.ctx 0).ptn (wDma.dmaDie (State.atCmd 0 0 (wCmdOf wDma))) 64)) ∧
      (wDma.lies (wDma.ctx 0).ptn (wDma.dmaDie (State.atCmd 0 0 (wCmdOf wDma))) (descOf (wDesc' (wScr 0) 3 1 2 0)).addr
    (16 * (descOf (wDesc' (wScr 64) 3 1 2 0)).cols) (scrKey 0 0 0))) := by
  and_intros <;> decide +kernel

theorem witness_QueuesRunCommands :
    ((wDoor.flt.fatal = false) ∧
      ((wDoor.ctx (0 / 4)).state ≠ CtxState.free) ∧
      ((wDoor.ctx (0 / 4)).state ≠ CtxState.teardown) ∧
      (fld (2 ^ 32 + 3) 43 32 = wDoor.ctxHandles.gen (0 / 4)) ∧
      ((wDoor.queue (0 / 4) (0 % 4)).ringLog2 ≠ 0) ∧
      (0 ≤ (BitVec.ofNat 32 (2 ^ 32 + 3) - (wDoor.queue (0 / 4) (0 % 4)).tail).toInt) ∧
      ((BitVec.ofNat 32 (2 ^ 32 + 3) - (wDoor.queue (0 / 4) (0 % 4)).done).toNat ≤ 2 ^ (wDoor.queue (0 / 4) (0 % 4)).ringLog2)) ∧
    ((wDoor.flt.fatal = false) ∧
      ((wDoor.ctx (0 / 4)).state = CtxState.free ∨
    fld 3 43 32 ≠ wDoor.ctxHandles.gen (0 / 4) ∨
      (wDoor.queue (0 / 4) (0 % 4)).ringLog2 = 0 ∨
        (3#32 - (wDoor.queue (0 / 4) (0 % 4)).tail).toInt < 0 ∨
          2 ^ (wDoor.queue (0 / 4) (0 % 4)).ringLog2 < (3#32 - (wDoor.queue (0 / 4) (0 % 4)).done).toNat)) ∧
    ((wHalted.flt.fatal = false) ∧
      (wHalted.selQueue = some (0, 0)) ∧
      ((wHalted.queue 0 0).state = QState.halted) ∧
      (BitVec.toNat (3 - (wHalted.queue 0 0).haltedAt) ≤ BitVec.toNat ((wHalted.queue 0 0).tail - (wHalted.queue 0 0).haltedAt))) ∧
    ((wAbort.flt.fatal = false) ∧
      (wAbort.selQueue = some (0, 0)) ∧
      ((wAbort.queue 0 0).state ≠ QState.idle)) ∧
    ((wDispatch.flt.fatal = false) ∧
      ((wDispatch.ctx 0).state = CtxState.running) ∧
      ((wDispatch.queue 0 0).state = QState.active) ∧
      ((wDispatch.queue 0 0).ringLog2 ≠ 0) ∧
      ((wDispatch.queue 0 0).head ≠ (wDispatch.queue 0 0).tail) ∧
      (State.outstanding (wDispatch.queue 0 0) < 64) ∧
      (State.blocking (wDispatch.queue 0 0) = false) ∧
      (wDispatch.isOpen (fabricDomain (wDispatch.queueDie 0 0)) = true) ∧
      (wDispatch.pwr.dispatchHeld = false) ∧
      (wDispatch.pwr.onHoldup = false) ∧
      (wDispatch.cringRoom 0 0 (State.outstanding (wDispatch.queue 0 0)) = true) ∧
      (wDispatch.readable (wDispatch.ringAt 0 0 (wDispatch.queue 0 0).head) 16 = true) ∧
      ((wDispatch.queue 0 0).passing = false) ∧
      (wDispatch.clear 0 0 (wDispatch.queue 0 0).cmds
      { c := 0, q := 0, win := (wDispatch.queue 0 0).window,
        w := ofLe (wDispatch.fwRead (wDispatch.ringAt 0 0 (wDispatch.queue 0 0).head) 16),
        tab :=
          wDispatch.readDescs 0 (wDispatch.queue 0 0).window
            (ofLe (wDispatch.fwRead (wDispatch.ringAt 0 0 (wDispatch.queue 0 0).head) 16)) } =
    true) ∧
      (wDispatch.dispatchStatus
      { c := 0, q := 0, win := (wDispatch.queue 0 0).window,
        w := ofLe (wDispatch.fwRead (wDispatch.ringAt 0 0 (wDispatch.queue 0 0).head) 16),
        tab :=
          wDispatch.readDescs 0 (wDispatch.queue 0 0).window
            (ofLe (wDispatch.fwRead (wDispatch.ringAt 0 0 (wDispatch.queue 0 0).head) 16)) } =
    none)) ∧
    ((wDispatchFenced.flt.fatal = false) ∧
      ((wDispatchFenced.ctx 0).state = CtxState.running) ∧
      ((wDispatchFenced.queue 0 0).state = QState.active) ∧
      ((wDispatchFenced.queue 0 0).ringLog2 ≠ 0) ∧
      ((wDispatchFenced.queue 0 0).head ≠ (wDispatchFenced.queue 0 0).tail) ∧
      (State.outstanding (wDispatchFenced.queue 0 0) < 64) ∧
      (State.blocking (wDispatchFenced.queue 0 0) = false) ∧
      (wDispatchFenced.isOpen (fabricDomain (wDispatchFenced.queueDie 0 0)) = true) ∧
      (wDispatchFenced.pwr.dispatchHeld = false) ∧
      (wDispatchFenced.pwr.onHoldup = false) ∧
      (wDispatchFenced.cringRoom 0 0 (State.outstanding (wDispatchFenced.queue 0 0)) = true) ∧
      (wDispatchFenced.readable (wDispatchFenced.ringAt 0 0 (wDispatchFenced.queue 0 0).head) 16 = true) ∧
      ((wDispatchFenced.queue 0 0).passing = false) ∧
      (wDispatchFenced.clear 0 0 (wDispatchFenced.queue 0 0).cmds
      { c := 0, q := 0, win := (wDispatchFenced.queue 0 0).window,
        w := ofLe (wDispatchFenced.fwRead (wDispatchFenced.ringAt 0 0 (wDispatchFenced.queue 0 0).head) 16),
        tab :=
          wDispatchFenced.readDescs 0 (wDispatchFenced.queue 0 0).window
            (ofLe (wDispatchFenced.fwRead (wDispatchFenced.ringAt 0 0 (wDispatchFenced.queue 0 0).head) 16)) } =
    true) ∧
      (wDispatchFenced.dispatchStatus
      { c := 0, q := 0, win := (wDispatchFenced.queue 0 0).window,
        w := ofLe (wDispatchFenced.fwRead (wDispatchFenced.ringAt 0 0 (wDispatchFenced.queue 0 0).head) 16),
        tab :=
          wDispatchFenced.readDescs 0 (wDispatchFenced.queue 0 0).window
            (ofLe (wDispatchFenced.fwRead (wDispatchFenced.ringAt 0 0 (wDispatchFenced.queue 0 0).head) 16)) } =
    some (Status.retryLater, some (sramDomain 0)))) ∧
    ((wDispatchFull.flt.fatal = false) ∧
      ((wDispatchFull.ctx 0).state = CtxState.running) ∧
      ((wDispatchFull.queue 0 0).state = QState.active) ∧
      ((wDispatchFull.queue 0 0).ringLog2 ≠ 0) ∧
      ((wDispatchFull.queue 0 0).head ≠ (wDispatchFull.queue 0 0).tail) ∧
      (State.outstanding (wDispatchFull.queue 0 0) < 64) ∧
      (State.blocking (wDispatchFull.queue 0 0) = false) ∧
      (wDispatchFull.isOpen (fabricDomain (wDispatchFull.queueDie 0 0)) = true) ∧
      (wDispatchFull.pwr.dispatchHeld = false) ∧
      (wDispatchFull.pwr.onHoldup = false) ∧
      (wDispatchFull.cringRoom 0 0 (State.outstanding (wDispatchFull.queue 0 0)) = false)) ∧
    (((wAnswered Status.ok).flt.fatal = false) ∧
      ((wAnswered Status.ok).cmd 0 0 0 = some (wCmdOf (wAnswered Status.ok))) ∧
      ((wCmdOf (wAnswered Status.ok)).final = false) ∧
      ((wCmdOf (wAnswered Status.ok)).result = some Status.ok) ∧
      (((wAnswered Status.ok).ctx 0).state = CtxState.running) ∧
      ((wAnswered Status.ok).unacked 0 0 0 = false) ∧
      ((wAnswered Status.ok).linkUp = true) ∧
      (cmdOpcode (wCmdOf (wAnswered Status.ok)).word ≠ 9) ∧
      (Status.ok = Status.ok) ∧
      (needsRecord Status.ok (wCmdOf (wAnswered Status.ok)).word = false) ∧
      (cmdIrq (wCmdOf (wAnswered Status.ok)).word = false) ∧
      (((wAnswered Status.ok).queue 0 0).cmds = [wCmdOf (wAnswered Status.ok)]) ∧
      (((wAnswered Status.ok).queue 0 0).done = 0)) ∧
    (((wAnswered Status.unitAbsent).flt.fatal = false) ∧
      ((wAnswered Status.unitAbsent).cmd 0 0 0 = some (wCmdOf (wAnswered Status.unitAbsent))) ∧
      ((wCmdOf (wAnswered Status.unitAbsent)).final = false) ∧
      ((wCmdOf (wAnswered Status.unitAbsent)).result = some Status.unitAbsent) ∧
      (((wAnswered Status.unitAbsent).ctx 0).state = CtxState.running) ∧
      ((wAnswered Status.unitAbsent).unacked 0 0 0 = false) ∧
      ((wAnswered Status.unitAbsent).linkUp = true) ∧
      (cmdOpcode (wCmdOf (wAnswered Status.unitAbsent)).word ≠ 9) ∧
      (Status.unitAbsent ∉
    [Status.ok, Status.accOverflow, Status.nonfiniteStep, Status.contextFault, Status.retryLater, Status.domainReset])) ∧
    (((wAnswered Status.contextFault).flt.fatal = false) ∧
      ((wAnswered Status.contextFault).cmd 0 0 0 = some (wCmdOf (wAnswered Status.contextFault))) ∧
      ((wCmdOf (wAnswered Status.contextFault)).final = false) ∧
      ((wCmdOf (wAnswered Status.contextFault)).result = some Status.contextFault) ∧
      (((wAnswered Status.contextFault).ctx 0).state = CtxState.running) ∧
      ((wAnswered Status.contextFault).unacked 0 0 0 = false) ∧
      ((wAnswered Status.contextFault).linkUp = true) ∧
      (cmdOpcode (wCmdOf (wAnswered Status.contextFault)).word ≠ 9) ∧
      (Status.contextFault = Status.contextFault)) ∧
    ((wRetry.flt.fatal = false) ∧
      (wRetry.cmd 0 0 0 = some (wCmdOf wRetry)) ∧
      ((wCmdOf wRetry).final = false) ∧
      ((wCmdOf wRetry).result = some Status.retryLater) ∧
      ((wRetry.ctx 0).state = CtxState.running) ∧
      (wRetry.unacked 0 0 0 = false) ∧
      (wRetry.linkUp = true) ∧
      (cmdOpcode (wCmdOf wRetry).word ≠ 9) ∧
      (Status.retryLater = Status.retryLater) ∧
      ((wCmdOf wRetry).waitDom ≠ none)) ∧
    (((wAnswered Status.domainReset).flt.fatal = false) ∧
      ((wAnswered Status.domainReset).cmd 0 0 0 = some (wCmdOf (wAnswered Status.domainReset))) ∧
      ((wCmdOf (wAnswered Status.domainReset)).final = false) ∧
      ((wCmdOf (wAnswered Status.domainReset)).result = some Status.domainReset) ∧
      (((wAnswered Status.domainReset).ctx 0).state = CtxState.running) ∧
      ((wAnswered Status.domainReset).unacked 0 0 0 = false) ∧
      ((wAnswered Status.domainReset).linkUp = true) ∧
      (cmdOpcode (wCmdOf (wAnswered Status.domainReset)).word ≠ 9) ∧
      (Status.domainReset = Status.domainReset) ∧
      ((wCmdOf (wAnswered Status.domainReset)).resets < 3) ∧
      (adds (wCmdOf (wAnswered Status.domainReset)).word = false)) := by
  and_intros <;> decide +kernel

theorem witness_QueuesWaitAndGoOn :
    (((wHas (wFresh [(0, 11)])).flt.fatal = false) ∧
      (((wHas (wFresh [(0, 11)])).ctx 0).state = CtxState.running) ∧
      ((wHas (wFresh [(0, 11)])).cmd 0 0 0 = some (wFresh [(0, 11)])) ∧
      ((wFresh [(0, 11)]).started = false) ∧
      ((wFresh [(0, 11)]).result = none) ∧
      (((wHas (wFresh [(0, 11)])).queue 0 0).state = QState.active) ∧
      (cmdOpcode (wFresh [(0, 11)]).word = 11) ∧
      ((wHas (wFresh [(0, 11)])).fenceHolds 0 0 (wFresh [(0, 11)]) = true)) ∧
    (((wHas (wFresh [(0, 11), (17, 1), (32, 5)])).flt.fatal = false) ∧
      (((wHas (wFresh [(0, 11), (17, 1), (32, 5)])).ctx 0).state = CtxState.running) ∧
      ((wHas (wFresh [(0, 11), (17, 1), (32, 5)])).cmd 0 0 0 = some (wFresh [(0, 11), (17, 1), (32, 5)])) ∧
      ((wFresh [(0, 11), (17, 1), (32, 5)]).started = false) ∧
      ((wFresh [(0, 11), (17, 1), (32, 5)]).result = none) ∧
      (((wHas (wFresh [(0, 11), (17, 1), (32, 5)])).queue 0 0).state = QState.active) ∧
      (cmdOpcode (wFresh [(0, 11), (17, 1), (32, 5)]).word = 11) ∧
      ((wHas (wFresh [(0, 11), (17, 1), (32, 5)])).fenceHolds 0 0 (wFresh [(0, 11), (17, 1), (32, 5)]) = false)) ∧
    (((wHas (wFresh [(0, 12), (19, 2), (22, 7)])).flt.fatal = false) ∧
      (((wHas (wFresh [(0, 12), (19, 2), (22, 7)])).ctx 0).state = CtxState.running) ∧
      ((wHas (wFresh [(0, 12), (19, 2), (22, 7)])).cmd 0 0 0 = some (wFresh [(0, 12), (19, 2), (22, 7)])) ∧
      ((wFresh [(0, 12), (19, 2), (22, 7)]).started = false) ∧
      ((wFresh [(0, 12), (19, 2), (22, 7)]).result = none) ∧
      (((wHas (wFresh [(0, 12), (19, 2), (22, 7)])).queue 0 0).state = QState.active) ∧
      (cmdOpcode (wFresh [(0, 12), (19, 2), (22, 7)]).word = 12) ∧
      ((((wHas (wFresh [(0, 12), (19, 2), (22, 7)])).earlier 0 0 0).all fun x => x.final) = true) ∧
      (fld (BitVec.toNat (wFresh [(0, 12), (19, 2), (22, 7)]).word) 18 16 = 0)) ∧
    (((wHas (wFresh [(0, 12), (16, 3), (55, 2)])).flt.fatal = false) ∧
      (((wHas (wFresh [(0, 12), (16, 3), (55, 2)])).ctx 0).state = CtxState.running) ∧
      ((wHas (wFresh [(0, 12), (16, 3), (55, 2)])).cmd 0 0 0 = some (wFresh [(0, 12), (16, 3), (55, 2)])) ∧
      ((wFresh [(0, 12), (16, 3), (55, 2)]).started = false) ∧
      ((wFresh [(0, 12), (16, 3), (55, 2)]).result = none) ∧
      (((wHas (wFresh [(0, 12), (16, 3), (55, 2)])).queue 0 0).state = QState.active) ∧
      (cmdOpcode (wFresh [(0, 12), (16, 3), (55, 2)]).word = 12) ∧
      ((((wHas (wFresh [(0, 12), (16, 3), (55, 2)])).earlier 0 0 0).all fun x => x.final) = true) ∧
      (fld (BitVec.toNat (wFresh [(0, 12), (16, 3), (55, 2)]).word) 18 16 = 3)) ∧
    (((wHas (wFresh [(0, 12), (16, 4), (64, 9)])).flt.fatal = false) ∧
      (((wHas (wFresh [(0, 12), (16, 4), (64, 9)])).ctx 0).state = CtxState.running) ∧
      ((wHas (wFresh [(0, 12), (16, 4), (64, 9)])).cmd 0 0 0 = some (wFresh [(0, 12), (16, 4), (64, 9)])) ∧
      ((wFresh [(0, 12), (16, 4), (64, 9)]).started = false) ∧
      ((wFresh [(0, 12), (16, 4), (64, 9)]).result = none) ∧
      (((wHas (wFresh [(0, 12), (16, 4), (64, 9)])).queue 0 0).state = QState.active) ∧
      (cmdOpcode (wFresh [(0, 12), (16, 4), (64, 9)]).word = 12) ∧
      ((((wHas (wFresh [(0, 12), (16, 4), (64, 9)])).earlier 0 0 0).all fun x => x.final) = true) ∧
      (fld (BitVec.toNat (wFresh [(0, 12), (16, 4), (64, 9)]).word) 18 16 = 4)) ∧
    (((wHas (wFresh [(0, 12), (16, 1)])).flt.fatal = false) ∧
      (((wHas (wFresh [(0, 12), (16, 1)])).ctx 0).state = CtxState.running) ∧
      ((wHas (wFresh [(0, 12), (16, 1)])).cmd 0 0 0 = some (wFresh [(0, 12), (16, 1)])) ∧
      ((wFresh [(0, 12), (16, 1)]).started = false) ∧
      ((wFresh [(0, 12), (16, 1)]).result = none) ∧
      (((wHas (wFresh [(0, 12), (16, 1)])).queue 0 0).state = QState.active) ∧
      (cmdOpcode (wFresh [(0, 12), (16, 1)]).word = 12) ∧
      ((((wHas (wFresh [(0, 12), (16, 1)])).earlier 0 0 0).all fun x => x.final) = true) ∧
      (fld (BitVec.toNat (wFresh [(0, 12), (16, 1)]).word) 18 16 = 1)) ∧
    (((wHas (wFresh [(0, 12), (16, 2)])).flt.fatal = false) ∧
      (((wHas (wFresh [(0, 12), (16, 2)])).ctx 0).state = CtxState.running) ∧
      ((wHas (wFresh [(0, 12), (16, 2)])).cmd 0 0 0 = some (wFresh [(0, 12), (16, 2)])) ∧
      ((wFresh [(0, 12), (16, 2)]).started = false) ∧
      ((wFresh [(0, 12), (16, 2)]).result = none) ∧
      (((wHas (wFresh [(0, 12), (16, 2)])).queue 0 0).state = QState.active) ∧
      (cmdOpcode (wFresh [(0, 12), (16, 2)]).word = 12) ∧
      ((((wHas (wFresh [(0, 12), (16, 2)])).earlier 0 0 0).all fun x => x.final) = true) ∧
      (fld (BitVec.toNat (wFresh [(0, 12), (16, 2)]).word) 18 16 = 2) ∧
      ((wHas (wFresh [(0, 12), (16, 2)])).net.state = GroupState.solo) ∧
      ((wHas (wFresh [(0, 12), (16, 2)])).ckpPtn ≠ some ((wHas (wFresh [(0, 12), (16, 2)])).ctx 0).ptn)) ∧
    (((wAtFence []).flt.fatal = false) ∧
      (((wAtFence []).ctx 0).state = CtxState.running) ∧
      ((wAtFence []).waitingFence 0 0 = some (wCmdOf (wAtFence []))) ∧
      ((wAtFence []).fenceHolds 0 0 (wCmdOf (wAtFence [])) = true)) ∧
    (((wAtFence [(17, 1), (32, 5)]).flt.fatal = false) ∧
      (((wAtFence [(17, 1), (32, 5)]).ctx 0).state = CtxState.running) ∧
      ((wAtFence [(17, 1), (32, 5)]).waitingFence 0 0 = some (wCmdOf (wAtFence [(17, 1), (32, 5)]))) ∧
      ((wAtFence [(17, 1), (32, 5)]).fenceHolds 0 0 (wCmdOf (wAtFence [(17, 1), (32, 5)])) = false) ∧
      (bitAt (BitVec.toNat (wCmdOf (wAtFence [(17, 1), (32, 5)])).word) 21 = true ∨
    (wAtFence [(17, 1), (32, 5)]).deadlocked 0 = false)) ∧
    (((wAtFenceAlone [(17, 1), (32, 5)]).flt.fatal = false) ∧
      (((wAtFenceAlone [(17, 1), (32, 5)]).ctx 0).state = CtxState.running) ∧
      ((wAtFenceAlone [(17, 1), (32, 5)]).waitingFence 0 0 = some (wCmdOf (wAtFenceAlone [(17, 1), (32, 5)]))) ∧
      ((wAtFenceAlone [(17, 1), (32, 5)]).fenceHolds 0 0 (wCmdOf (wAtFenceAlone [(17, 1), (32, 5)])) = false) ∧
      (bitAt (BitVec.toNat (wCmdOf (wAtFenceAlone [(17, 1), (32, 5)])).word) 21 = false) ∧
      ((wAtFenceAlone [(17, 1), (32, 5)]).deadlocked 0 = true)) ∧
    ((wStuck.flt.fatal = false) ∧
      ((wStuck.ctx 0).state = CtxState.running) ∧
      (wStuck.cmd 0 0 0 = some (wCmdOf wStuck)) ∧
      (wStuck.waitsFor 0 0 (wCmdOf wStuck) = some (0, true)) ∧
      ((tget wStuck.channels 0).isSome = true)) ∧
    ((wGateUpd.flt.fatal = false) ∧
      ((wGateUpd.ctx 0).state = CtxState.running) ∧
      (wGateUpd.heldEvent 0 0 1 = some (wCmdOf (wGate 0 1 [] Context.reset))) ∧
      ((wGateUpd.ctx 0).captureDue = false) ∧
      ((wGateUpd.ctx 0).atStep = false) ∧
      (wGateUpd.replayOf 0 = none) ∧
      ((wGateUpd.queue 0 0).updating = true)) ∧
    ((wGateUpd.flt.fatal = false) ∧
      ((wGateUpd.ctx 0).state = CtxState.running) ∧
      (wGateUpd.heldEvent 0 0 1 = some (wCmdOf (wGate 0 1 [] Context.reset))) ∧
      ((wGateUpd.ctx 0).captureDue = false) ∧
      ((wGateUpd.ctx 0).atStep = false) ∧
      (wGateUpd.replayOf 0 = none) ∧
      (Option.all (fun p => !bitAt p.2.flags 0 && (wGateUpd.queue 0 0).gateBad == 0)
      (wGateUpd.layerOf 0 (fld (BitVec.toNat (wCmdOf (wGate 0 1 [] Context.reset)).word) 53 38)) =
    true)) ∧
    (((wGate 1 1 [wLayer 7 0] Context.reset).flt.fatal = false) ∧
      (((wGate 1 1 [wLayer 7 0] Context.reset).ctx 0).state = CtxState.running) ∧
      ((wGate 1 1 [wLayer 7 0] Context.reset).heldEvent 0 0 1 = some (wCmdOf (wGate 0 1 [] Context.reset))) ∧
      (((wGate 1 1 [wLayer 7 0] Context.reset).ctx 0).captureDue = false) ∧
      (((wGate 1 1 [wLayer 7 0] Context.reset).ctx 0).atStep = false) ∧
      ((wGate 1 1 [wLayer 7 0] Context.reset).replayOf 0 = none) ∧
      ((wGate 1 1 [wLayer 7 0] Context.reset).layerOf 0 (fld (BitVec.toNat (wCmdOf (wGate 0 1 [] Context.reset)).word) 53 38) =
    some (0, wLayer 7 0)) ∧
      (((wGate 1 1 [wLayer 7 0] Context.reset).queue 0 0).updating = false) ∧
      (bitAt (wLayer 7 0).flags 0 = false) ∧
      (((wGate 1 1 [wLayer 7 0] Context.reset).queue 0 0).gateBad ≠ 0) ∧
      (nextWithin ((wGate 1 1 [wLayer 7 0] Context.reset).ctx 0).tx2 (wLayer 7 0).cur (wLayer 7 0).ceil = some 4) ∧
      ((wGate 1 1 [wLayer 7 0] Context.reset).ckpPtn = none)) ∧
    (((wGate 1 1 [wLayer 7 7] Context.reset).flt.fatal = false) ∧
      (((wGate 1 1 [wLayer 7 7] Context.reset).ctx 0).state = CtxState.running) ∧
      ((wGate 1 1 [wLayer 7 7] Context.reset).heldEvent 0 0 1 = some (wCmdOf (wGate 0 1 [] Context.reset))) ∧
      (((wGate 1 1 [wLayer 7 7] Context.reset).ctx 0).captureDue = false) ∧
      (((wGate 1 1 [wLayer 7 7] Context.reset).ctx 0).atStep = false) ∧
      ((wGate 1 1 [wLayer 7 7] Context.reset).replayOf 0 = none) ∧
      ((wGate 1 1 [wLayer 7 7] Context.reset).layerOf 0 (fld (BitVec.toNat (wCmdOf (wGate 0 1 [] Context.reset)).word) 53 38) =
    some (0, wLayer 7 7)) ∧
      (((wGate 1 1 [wLayer 7 7] Context.reset).queue 0 0).updating = false) ∧
      (bitAt (wLayer 7 7).flags 0 = false) ∧
      (((wGate 1 1 [wLayer 7 7] Context.reset).queue 0 0).gateBad ≠ 0) ∧
      (nextWithin ((wGate 1 1 [wLayer 7 7] Context.reset).ctx 0).tx2 (wLayer 7 7).cur (wLayer 7 7).ceil = none)) ∧
    ((wStepGate.flt.fatal = false) ∧
      ((wStepGate.ctx 0).state = CtxState.running) ∧
      (List.findSome? (fun p => Option.map (fun z => (p, z)) (wStepGate.heldEvent 0 p 2)) [0, 1, 2, 3] =
    some (0, wCmdOf (wGate 0 2 [] Context.reset))) ∧
      (wStepGate.net.state = GroupState.solo) ∧
      (wStepGate.ckpPtn = none) ∧
      ((wStepGate.ctx 0).ltabCount = 0) ∧
      ((wStepGate.ctx 0).skipReq = false) ∧
      ((wStepGate.ctx 0).lrRecover = 0)) ∧
    ((wStepSkip.flt.fatal = false) ∧
      ((wStepSkip.ctx 0).state = CtxState.running) ∧
      (List.findSome? (fun p => Option.map (fun z => (p, z)) (wStepSkip.heldEvent 0 p 2)) [0, 1, 2, 3] =
    some (0, wCmdOf (wGate 0 2 [] Context.reset))) ∧
      (wStepSkip.net.state = GroupState.solo) ∧
      (wStepSkip.ckpPtn = none) ∧
      ((wStepSkip.ctx 0).ltabCount = 0) ∧
      ((wStepSkip.ctx 0).skipReq = true)) ∧
    ((wParkedOn.flt.fatal = false) ∧
      ((wParkedOn.ctx 0).state = CtxState.parked) ∧
      (wParkedOn.waitOver 0 = true)) := by
  and_intros <;> decide +kernel

theorem witness_ArraysWork :
    (((wIssue 2).flt.fatal = false) ∧
      (0 < 4096) ∧
      (((wIssue 2).arr 0).bound = [wBound 0 2]) ∧
      ((wIssue 2).atOf (wBound 0 2).ctx (wBound 0 2).q (wBound 0 2).idx = some (State.atCmd 0 0 (wCmdOf wMatmul))) ∧
      ((wIssue 2).cmd (wBound 0 2).ctx (wBound 0 2).q (wBound 0 2).idx = some (wCmdOf wMatmul)) ∧
      ((wCmdOf wMatmul).result = none) ∧
      (((wIssue 2).arr 0).retired = false) ∧
      ((wIssue 2).pwr.onHoldup = false) ∧
      ((wIssue 2).isOpen (quadDomain (0 / 128)) = true) ∧
      (((wIssue 2).ctx (wBound 0 2).ctx).state = CtxState.running) ∧
      ((wIssue 2).issueStatus (State.atCmd 0 0 (wCmdOf wMatmul)) (wBound 0 2) = none) ∧
      (1 < (wBound 0 2).parts → (wBound 0 2).first = true → ((wIssue 2).freeSlot 0).isSome = true) ∧
      ((wIssue 2).stationary (State.atCmd 0 0 (wCmdOf wMatmul)) 0 (wBound 0 2) = some 0) ∧
      ((wIssue 2).issueSlot 0 (wBound 0 2) = some 0) ∧
      ((wIssue 2).streamReady (State.atCmd 0 0 (wCmdOf wMatmul)) = true) ∧
      (State.drainsNow (wBound 0 2) = true →
    (wIssue 2).drainSpace (State.atCmd 0 0 (wCmdOf wMatmul)) 0 0 (wCmdOf wMatmul) = true) ∧
      ((wBound 0 2).waitOp = false) ∧
      ((wBound 0 2).waitSpace = false) ∧
      (State.drainsNow (wBound 0 2) = true → (wIssue 2).drainChan (State.atCmd 0 0 (wCmdOf wMatmul)) = none) ∧
      (State.tileCols (State.atCmd 0 0 (wCmdOf wMatmul)) ≤ 256) ∧
      (0 < ((wIssue 2).arr 0).slots.length) ∧
      ((wBound 0 2).lo + 1 < (wBound 0 2).hi)) ∧
    (((wIssue 1).flt.fatal = false) ∧
      (0 < 4096) ∧
      (((wIssue 1).arr 0).bound = [wBound 0 1]) ∧
      ((wIssue 1).atOf (wBound 0 1).ctx (wBound 0 1).q (wBound 0 1).idx = some (State.atCmd 0 0 (wCmdOf wMatmul))) ∧
      ((wIssue 1).cmd (wBound 0 1).ctx (wBound 0 1).q (wBound 0 1).idx = some (wCmdOf wMatmul)) ∧
      ((wCmdOf wMatmul).result = none) ∧
      (((wIssue 1).arr 0).retired = false) ∧
      ((wIssue 1).pwr.onHoldup = false) ∧
      ((wIssue 1).isOpen (quadDomain (0 / 128)) = true) ∧
      (((wIssue 1).ctx (wBound 0 1).ctx).state = CtxState.running) ∧
      ((wIssue 1).issueStatus (State.atCmd 0 0 (wCmdOf wMatmul)) (wBound 0 1) = none) ∧
      (1 < (wBound 0 1).parts → (wBound 0 1).first = true → ((wIssue 1).freeSlot 0).isSome = true) ∧
      ((wIssue 1).stationary (State.atCmd 0 0 (wCmdOf wMatmul)) 0 (wBound 0 1) = some 0) ∧
      ((wIssue 1).issueSlot 0 (wBound 0 1) = some 0) ∧
      ((wIssue 1).streamReady (State.atCmd 0 0 (wCmdOf wMatmul)) = true) ∧
      (State.drainsNow (wBound 0 1) = true →
    (wIssue 1).drainSpace (State.atCmd 0 0 (wCmdOf wMatmul)) 0 0 (wCmdOf wMatmul) = true) ∧
      ((wBound 0 1).waitOp = false) ∧
      ((wBound 0 1).waitSpace = false) ∧
      (State.drainsNow (wBound 0 1) = true → (wIssue 1).drainChan (State.atCmd 0 0 (wCmdOf wMatmul)) = none) ∧
      (State.tileCols (State.atCmd 0 0 (wCmdOf wMatmul)) ≤ 256) ∧
      (0 < ((wIssue 1).arr 0).slots.length) ∧
      ((wBound 0 1).hi ≤ (wBound 0 1).lo + 1) ∧
      ((wBound 0 1).parts = 1) ∧
      ((wBound 0 1).part = 0) ∧
      ((wBound 0 1).drain = true)) ∧
    ((wDraining.flt.fatal = false) ∧
      ((wDraining.arr 0).drains = [wDrain]) ∧
      (wDraining.atOf wDrain.ctx wDrain.q wDrain.idx = some (State.atCmd 0 0 (wCmdOf wMatmul))) ∧
      (wDraining.cmd wDrain.ctx wDrain.q wDrain.idx = some (wCmdOf wDraining)) ∧
      ((State.atCmd 0 0 (wCmdOf wMatmul)).f 5 0 = 1) ∧
      (wDrain.tile = 0) ∧
      (wDraining.opd (State.atCmd 0 0 (wCmdOf wMatmul)) 16 [0, 1] = some (descOf (wDesc (wScr 0) 1 16))) ∧
      (wDraining.opd (State.atCmd 0 0 (wCmdOf wMatmul)) 25 [0] = some (descOf (wDesc' (wScr 64) 1 16 1 16))) ∧
      ((descOf (wDesc (wScr 0) 1 16)).rows = 1) ∧
      ((descOf (wDesc' (wScr 64) 1 16 1 16)).cols = 1) ∧
      (wDraining.opd (State.atCmd 0 0 (wCmdOf wMatmul)) 34 [0, 1, 2] = some (descOf (wDesc (wScr 4096) 1 1))) ∧
      (wDraining.opd (State.atCmd 0 0 (wCmdOf wMatmul)) 34 [2] = none) ∧
      (wDraining.opd (State.atCmd 0 0 (wCmdOf wMatmul)) 43 [0] = none) ∧
      ((descOf (wDesc (wScr 4096) 1 1)).kind = 0) ∧
      ((matForm (State.atCmd 0 0 (wCmdOf wMatmul))).fd = 13) ∧
      ((State.atCmd 0 0 (wCmdOf wMatmul)).b 8 = false) ∧
      ((matForm (State.atCmd 0 0 (wCmdOf wMatmul))).rmode ≠ 2) ∧
      (wDrain.part = none) ∧
      (wDraining.drainFenced (State.atCmd 0 0 (wCmdOf wMatmul)) 0 = none) ∧
      (wDrain.slot < (wDraining.arr 0).slots.length) ∧
      ((wCmdOf wDraining).result = none) ∧
      ((wCmdOf wDraining).left ≤ 1) ∧
      (wDrain.ovf = false) ∧
      ((wCmdOf wDraining).tflags = 0) ∧
      (parseAddr (descOf (wDesc (wScr 4096) 1 1)).addr = Loc.scr false (arrDie 0) 4096) ∧
      (wDraining.lies (wDraining.ctx wDrain.ctx).ptn (arrDie 0) (descOf (wDesc (wScr 4096) 1 1)).addr 4
    (scrKey (wDraining.ctx wDrain.ctx).ptn (arrDie 0) 4096))) ∧
    ((wPartDrain.flt.fatal = false) ∧
      ((wPartDrain.arr 1).drains = [wPart]) ∧
      (wPartDrain.atOf wPart.ctx wPart.q wPart.idx = some (State.atCmd 0 0 (wCmdOf wCombine))) ∧
      (wPartDrain.cmd wPart.ctx wPart.q wPart.idx = some (wCmdOf wPartDrain)) ∧
      ((wCmdOf wPartDrain).result = none) ∧
      (wPart.part = some 1) ∧
      ((wCmdOf wPartDrain).partials = [(wPart.tile, 1, 1, wPart.slot, 0)]) ∧
      ((wCmdOf wPartDrain).spilled = []) ∧
      (wPart.slot < (wPartDrain.arr 1).slots.length) ∧
      (wPartDrain.isOpen
      (sramDomain (arrDie (wPartDrain.receiver (State.atCmd 0 0 (wCmdOf wCombine)) wPart.ctx wPart.q wPart.tile 1))) =
    true)) ∧
    ((wCombineFar.flt.fatal = false) ∧
      (wCombineFar.cmd 0 0 0 = some (wCmdOf wCombineFar)) ∧
      ((wCmdOf wCombineFar).result = none) ∧
      ((matForm (State.atCmd 0 0 (wCmdOf wCombineFar))).split = 2) ∧
      ((wCombineFar.ctx 0).tx2 = false) ∧
      ((wCombineFar.ctx 0).state = CtxState.running) ∧
      (wCombineFar.isOpen (quadDomain (0 / 128)) = true) ∧
      ((wCombineFar.arr 0).drains = []) ∧
      (0 < (wCombineFar.arr 0).slots.length) ∧
      (State.tileCols (State.atCmd 0 0 (wCmdOf wCombineFar)) ≤ 256) ∧
      ((wCmdOf wCombineFar).partials = [(0, 0, 0, 0, 0)]) ∧
      ((wCmdOf wCombineFar).spilled = [(0, 1, 0, 0, zeros 6)]) ∧
      (wCombineFar.isOpen (sramDomain (arrDie (dealt (wCombineFar.cmdArrays 0 0) (0 * 2)).1)) = true)) ∧
    ((wCombineHere.flt.fatal = false) ∧
      (wCombineHere.cmd 0 0 0 = some (wCmdOf wCombineHere)) ∧
      ((wCmdOf wCombineHere).result = none) ∧
      ((matForm (State.atCmd 0 0 (wCmdOf wCombineHere))).split = 2) ∧
      ((wCombineHere.ctx 0).tx2 = false) ∧
      ((wCombineHere.ctx 0).state = CtxState.running) ∧
      (wCombineHere.isOpen (quadDomain (0 / 128)) = true) ∧
      ((wCombineHere.arr 0).drains = []) ∧
      (0 < (wCombineHere.arr 0).slots.length) ∧
      (State.tileCols (State.atCmd 0 0 (wCmdOf wCombineHere)) ≤ 256) ∧
      ((wCmdOf wCombineHere).partials = [(0, 0, 0, 0, 0), (0, 1, 0, 1, 0)]) ∧
      ((wCmdOf wCombineHere).spilled = []) ∧
      ((dealt (wCombineHere.cmdArrays 0 0) (0 * 2)).1 = 0) ∧
      (1 ≠ 0) ∧
      (1 < (wCombineHere.arr 0).slots.length)) ∧
    ((wCombine.flt.fatal = false) ∧
      (wCombine.cmd 0 0 0 = some (wCmdOf wCombine)) ∧
      ((wCmdOf wCombine).result = none) ∧
      ((matForm (State.atCmd 0 0 (wCmdOf wCombine))).split = 2) ∧
      ((wCombine.ctx 0).tx2 = false) ∧
      ((wCombine.ctx 0).state = CtxState.running) ∧
      (wCombine.isOpen (quadDomain (0 / 128)) = true) ∧
      ((wCombine.arr 0).drains = []) ∧
      (0 < (wCombine.arr 0).slots.length) ∧
      (State.tileCols (State.atCmd 0 0 (wCmdOf wCombine)) ≤ 256) ∧
      ((wCmdOf wCombine).partials = [(0, 0, 0, 0, 0), (0, 1, 1, 0, 0)]) ∧
      ((dealt (wCombine.cmdArrays 0 0) (0 * 2)).1 ≠ 1)) ∧
    ((wUp.flt.fatal = false)) ∧
    (((wNoRetire wUp).flt.fatal = false) ∧
      ((wNoRetire wUp).flt.arrUe = 0) ∧
      ((wNoRetire wUp).eccReader 0 (EccPlace.half 0) = none)) ∧
    (((wNoRetire wDraining).flt.fatal = false) ∧
      ((wNoRetire wDraining).flt.arrUe = 0) ∧
      ((wNoRetire wDraining).eccReader 0 (EccPlace.slot 0) = some (0, 0, 0)) ∧
      (((wNoRetire wDraining).ctx 0).state = CtxState.running)) := by
  and_intros <;> decide +kernel

theorem witness_HbmWorks :
    ((wCow.flt.fatal = false) ∧
      (List.find? (fun c : Nat × Nat => c.1 == 3) wCow.ckp.copying = some (3, 8)) ∧
      (wCow.ckp.held = []) ∧
      (8 ≠ 3) ∧
      (wCow.mem.wf = true)) ∧
    (((wAttr 0 3 0 2 2).flt.fatal = false) ∧
      ((2 ^ 63 + 64) % 32 = 0) ∧
      (parseAddr (2 ^ 63 + 64) = Loc.host 64) ∧
      ((wAttr 0 3 0 2 2).linkUp = true) ∧
      ((wAttr 0 3 0 2 2).requestOk (2 ^ 63 + 64) 32 = true) ∧
      (le ((wAttr 0 3 0 2 2).fwRead (2 ^ 63 + 64) 32) 0 4 = 1) ∧
      ((wAttr 0 3 0 2 2).ptnOf (le ((wAttr 0 3 0 2 2).fwRead (2 ^ 63 + 64) 32) 4 4) = some 0) ∧
      (tget (wAttr 0 3 0 2 2).ptns 0 = some wPtn0) ∧
      (clearAt ((wAttr 0 3 0 2 2).fwRead (2 ^ 63 + 64) 32) [(10, 2), (25, 3)] = true) ∧
      (le ((wAttr 0 3 0 2 2).fwRead (2 ^ 63 + 64) 32) 16 4 = 2) ∧
      (le ((wAttr 0 3 0 2 2).fwRead (2 ^ 63 + 64) 32) 20 4 = 2) ∧
      (le ((wAttr 0 3 0 2 2).fwRead (2 ^ 63 + 64) 32) 8 1 < 2) ∧
      (le ((wAttr 0 3 0 2 2).fwRead (2 ^ 63 + 64) 32) 9 1 &&& 220 = 0) ∧
      (le ((wAttr 0 3 0 2 2).fwRead (2 ^ 63 + 64) 32) 12 4 = 0) ∧
      (0 < 2) ∧
      (2 + 2 ≤ wPtn0.pages) ∧
      (∀ g ∈ wPtn0.pcList, (wAttr 0 3 0 2 2).isOpen (sramDomain (g / 64)) = true)) ∧
    (((wAttr 2 0 5 0 0).flt.fatal = false) ∧
      ((2 ^ 63 + 64) % 32 = 0) ∧
      (parseAddr (2 ^ 63 + 64) = Loc.host 64) ∧
      ((wAttr 2 0 5 0 0).linkUp = true) ∧
      ((wAttr 2 0 5 0 0).requestOk (2 ^ 63 + 64) 32 = true) ∧
      (le ((wAttr 2 0 5 0 0).fwRead (2 ^ 63 + 64) 32) 0 4 = 1) ∧
      ((wAttr 2 0 5 0 0).ptnOf (le ((wAttr 2 0 5 0 0).fwRead (2 ^ 63 + 64) 32) 4 4) = some 0) ∧
      (tget (wAttr 2 0 5 0 0).ptns 0 = some wPtn0) ∧
      (clearAt ((wAttr 2 0 5 0 0).fwRead (2 ^ 63 + 64) 32) [(10, 2), (25, 3)] = true) ∧
      (le ((wAttr 2 0 5 0 0).fwRead (2 ^ 63 + 64) 32) 16 4 = 0) ∧
      (le ((wAttr 2 0 5 0 0).fwRead (2 ^ 63 + 64) 32) 20 4 = 0) ∧
      (le ((wAttr 2 0 5 0 0).fwRead (2 ^ 63 + 64) 32) 8 1 = 2) ∧
      (le ((wAttr 2 0 5 0 0).fwRead (2 ^ 63 + 64) 32) 9 1 = 0) ∧
      (0 = 0) ∧
      (0 = 0)) ∧
    ((wUp.flt.fatal = false) ∧
      (UeSource.fill = UeSource.fill ∨ UeSource.fill = UeSource.scrub)) ∧
    ((wCow.flt.fatal = false) ∧
      (UeSource.copier = UeSource.copier) ∧
      (List.find? (fun c : Nat × Nat => c.1 == 3) wCow.ckp.copying = some (3, 8)) ∧
      (wCow.ckptRuns = true) ∧
      (wCow.ckpPtn = none)) ∧
    ((wUp.flt.fatal = false) ∧
      (UeSource.corrected = UeSource.corrected)) ∧
    ((wUp.flt.fatal = false) ∧
      (wUp.variant.stack (3 / 32) = true) ∧
      (wUp.isOpen (stackDomain (3 / 32)) = true) ∧
      ((wUp.pc 3).parity = false)) ∧
    ((wParity.flt.fatal = false) ∧
      (wParity.variant.stack (3 / 32) = true) ∧
      (wParity.isOpen (stackDomain (3 / 32)) = true) ∧
      ((wParity.pc 3).parity = true) ∧
      (wParity.variant.domain (stackDomain (3 / 32)) = true)) ∧
    ((wUp.flt.fatal = false) ∧
      (wUp.variant.stack (3 / 32) = true)) ∧
    ((wUp.flt.fatal = false)) := by
  and_intros <;> decide +kernel

theorem witness_JobsAndChannelsOpenAndClose :
    ((wJobOpen.flt.fatal = false) ∧
      (wJobOpen.linkUp = true) ∧
      (2 ^ 63 % 64 = 0) ∧
      (parseAddr (2 ^ 63) = Loc.host 0) ∧
      (wJobOpen.requestOk (2 ^ 63) 64 = true) ∧
      (le (wJobOpen.fwRead (2 ^ 63) 64) 0 4 = 1) ∧
      (wJobOpen.ptnOf (le (wJobOpen.fwRead (2 ^ 63) 64) 4 4) = some 0) ∧
      (wJobOpen.ptnOf (le (wJobOpen.fwRead (2 ^ 63) 64) 8 4) = some 1) ∧
      (wJobOpen.ctxOf (le (wJobOpen.fwRead (2 ^ 63) 64) 12 4) = some 0) ∧
      (wJobOpen.ctxOf (le (wJobOpen.fwRead (2 ^ 63) 64) 16 4) = some 1) ∧
      (clearAt (wJobOpen.fwRead (2 ^ 63) 64) [(22, 2), (27, 1), (48, 16)] = true) ∧
      (1 ≤ le (wJobOpen.fwRead (2 ^ 63) 64) 20 2) ∧
      (le (wJobOpen.fwRead (2 ^ 63) 64) 20 2 ≤ 1024) ∧
      (0 ≠ 1) ∧
      ((wJobOpen.ctx 0).ptn = 0) ∧
      ((wJobOpen.ctx 1).ptn = 1) ∧
      (wJobOpen.jobHandles.take 16 =
    some (0, ({ HandleTable.reset with next := 1 } : HandleTable)))) ∧
    ((wJobsFull.flt.fatal = false) ∧
      (wJobsFull.linkUp = true) ∧
      (2 ^ 63 % 64 = 0) ∧
      (parseAddr (2 ^ 63) = Loc.host 0) ∧
      (wJobsFull.requestOk (2 ^ 63) 64 = true) ∧
      (le (wJobsFull.fwRead (2 ^ 63) 64) 0 4 = 1) ∧
      (wJobsFull.ptnOf (le (wJobsFull.fwRead (2 ^ 63) 64) 4 4) = some 0) ∧
      (wJobsFull.ptnOf (le (wJobsFull.fwRead (2 ^ 63) 64) 8 4) = some 1) ∧
      (wJobsFull.ctxOf (le (wJobsFull.fwRead (2 ^ 63) 64) 12 4) = some 0) ∧
      (wJobsFull.ctxOf (le (wJobsFull.fwRead (2 ^ 63) 64) 16 4) = some 1) ∧
      (clearAt (wJobsFull.fwRead (2 ^ 63) 64) [(22, 2), (27, 1), (48, 16)] = true) ∧
      (1 ≤ le (wJobsFull.fwRead (2 ^ 63) 64) 20 2) ∧
      (le (wJobsFull.fwRead (2 ^ 63) 64) 20 2 ≤ 1024) ∧
      (0 ≠ 1) ∧
      ((wJobsFull.ctx 0).ptn = 0) ∧
      ((wJobsFull.ctx 1).ptn = 1) ∧
      (wJobsFull.jobHandles.take 16 = none)) ∧
    ((wJobClose.flt.fatal = false) ∧
      (wJobClose.linkUp = true) ∧
      (2 ^ 63 % 64 = 0) ∧
      (parseAddr (2 ^ 63) = Loc.host 0) ∧
      (wJobClose.requestOk (2 ^ 63) 64 = true) ∧
      (le (wJobClose.fwRead (2 ^ 63) 64) 0 4 = 1) ∧
      (le (wJobClose.fwRead (2 ^ 63) 64) 4 4 = 0) ∧
      (0 < 16) ∧
      (clearAt (wJobClose.fwRead (2 ^ 63) 64) [(8, 8), (16, 16), (48, 16)] = true) ∧
      (tget wJobClose.jobs 0 = some wTheJob) ∧
      (wTheJob.closing = none) ∧
      ((List.all wJobClose.channels fun p => p.2.job != 0) = true)) ∧
    (((wChanOpen 2).flt.fatal = false) ∧
      ((wChanOpen 2).linkUp = true) ∧
      (2 ^ 63 % 64 = 0) ∧
      (parseAddr (2 ^ 63) = Loc.host 0) ∧
      ((wChanOpen 2).requestOk (2 ^ 63) 64 = true) ∧
      (le ((wChanOpen 2).fwRead (2 ^ 63) 64) 0 4 = 1) ∧
      (tget (wChanOpen 2).jobs (le ((wChanOpen 2).fwRead (2 ^ 63) 64) 4 1 % 16) = some wTheJob) ∧
      (wTheJob.closing = none) ∧
      ((wChanOpen 2).variant.group ((wChanOpen 2).placementOf ((wChanOpen 2).fwRead (2 ^ 63) 64) wTheJob) = true) ∧
      ((wChanOpen 2).isOpen (sramDomain ((wChanOpen 2).placementOf ((wChanOpen 2).fwRead (2 ^ 63) 64) wTheJob)) = true) ∧
      (State.chanRange ((wChanOpen 2).fwRead (2 ^ 63) 64) = false) ∧
      (le ((wChanOpen 2).fwRead (2 ^ 63) 64) 5 1 = 1 ∨ le ((wChanOpen 2).fwRead (2 ^ 63) 64) 10 2 < wTheJob.vocab) ∧
      ((List.filter (fun p => p.2.job == le ((wChanOpen 2).fwRead (2 ^ 63) 64) 4 1 % 16) (wChanOpen 2).channels).length < 64) ∧
      (State.grantSlots
      ((wChanOpen 2).sorusFree wTheJob.student ((wChanOpen 2).placementOf ((wChanOpen 2).fwRead (2 ^ 63) 64) wTheJob))
      (slotGranules (le ((wChanOpen 2).fwRead (2 ^ 63) 64) 5 1 == 1) wTheJob.tokens
        (le ((wChanOpen 2).fwRead (2 ^ 63) 64) 10 2))
      (le ((wChanOpen 2).fwRead (2 ^ 63) 64) 6 1) (bitAt (le ((wChanOpen 2).fwRead (2 ^ 63) 64) 7 1) 0) =
    some 2) ∧
      ((wChanOpen 2).chanHandles.take 1024 =
    some (0, ({ HandleTable.reset with next := 1 } : HandleTable)))) ∧
    (((wChanOpen 16).flt.fatal = false) ∧
      ((wChanOpen 16).linkUp = true) ∧
      (2 ^ 63 % 64 = 0) ∧
      (parseAddr (2 ^ 63) = Loc.host 0) ∧
      ((wChanOpen 16).requestOk (2 ^ 63) 64 = true) ∧
      (le ((wChanOpen 16).fwRead (2 ^ 63) 64) 0 4 = 1) ∧
      (tget (wChanOpen 16).jobs (le ((wChanOpen 16).fwRead (2 ^ 63) 64) 4 1 % 16) = some wTheJob) ∧
      (wTheJob.closing = none) ∧
      ((wChanOpen 16).variant.group ((wChanOpen 16).placementOf ((wChanOpen 16).fwRead (2 ^ 63) 64) wTheJob) = true) ∧
      ((wChanOpen 16).isOpen (sramDomain ((wChanOpen 16).placementOf ((wChanOpen 16).fwRead (2 ^ 63) 64) wTheJob)) = true) ∧
      (State.chanRange ((wChanOpen 16).fwRead (2 ^ 63) 64) = false) ∧
      (le ((wChanOpen 16).fwRead (2 ^ 63) 64) 5 1 = 1 ∨ le ((wChanOpen 16).fwRead (2 ^ 63) 64) 10 2 < wTheJob.vocab) ∧
      ((List.filter (fun p => p.2.job == le ((wChanOpen 16).fwRead (2 ^ 63) 64) 4 1 % 16) (wChanOpen 16).channels).length < 64) ∧
      (State.grantSlots
      ((wChanOpen 16).sorusFree wTheJob.student ((wChanOpen 16).placementOf ((wChanOpen 16).fwRead (2 ^ 63) 64) wTheJob))
      (slotGranules (le ((wChanOpen 16).fwRead (2 ^ 63) 64) 5 1 == 1) wTheJob.tokens
        (le ((wChanOpen 16).fwRead (2 ^ 63) 64) 10 2))
      (le ((wChanOpen 16).fwRead (2 ^ 63) 64) 6 1) (bitAt (le ((wChanOpen 16).fwRead (2 ^ 63) 64) 7 1) 0) =
    none)) ∧
    (((wChanClose 1 [wSlot SorSlotState.full 6 1]).flt.fatal = false) ∧
      ((wChanClose 1 [wSlot SorSlotState.full 6 1]).linkUp = true) ∧
      (2 ^ 63 % 64 = 0) ∧
      (parseAddr (2 ^ 63) = Loc.host 0) ∧
      ((wChanClose 1 [wSlot SorSlotState.full 6 1]).requestOk (2 ^ 63) 64 = true) ∧
      (le ((wChanClose 1 [wSlot SorSlotState.full 6 1]).fwRead (2 ^ 63) 64) 0 4 = 1) ∧
      ((wChanClose 1 [wSlot SorSlotState.full 6 1]).chanOf
      (le ((wChanClose 1 [wSlot SorSlotState.full 6 1]).fwRead (2 ^ 63) 64) 12 4) =
    some 0) ∧
      (tget (wChanClose 1 [wSlot SorSlotState.full 6 1]).channels 0 = some (wChannel false [wSlot SorSlotState.full 6 1])) ∧
      ((wChannel false [wSlot SorSlotState.full 6 1]).job =
    le ((wChanClose 1 [wSlot SorSlotState.full 6 1]).fwRead (2 ^ 63) 64) 4 1) ∧
      (le ((wChanClose 1 [wSlot SorSlotState.full 6 1]).fwRead (2 ^ 63) 64) 4 1 < 16) ∧
      (le ((wChanClose 1 [wSlot SorSlotState.full 6 1]).fwRead (2 ^ 63) 64) 7 1 ≤ 1) ∧
      (clearAt ((wChanClose 1 [wSlot SorSlotState.full 6 1]).fwRead (2 ^ 63) 64) [(5, 2), (8, 4), (16, 16), (48, 16)] = true) ∧
      ((wChannel false [wSlot SorSlotState.full 6 1]).closing = none) ∧
      ((wChannel false [wSlot SorSlotState.full 6 1]).state = ChanState.opened) ∧
      (Option.all (fun j => j.closing.isNone && !j.failed)
      (tget (wChanClose 1 [wSlot SorSlotState.full 6 1]).jobs (wChannel false [wSlot SorSlotState.full 6 1]).job) =
    true) ∧
      (le ((wChanClose 1 [wSlot SorSlotState.full 6 1]).fwRead (2 ^ 63) 64) 7 1 = 1) ∧
      ((wChannel false [wSlot SorSlotState.full 6 1]).count SorSlotState.consuming = 0)) ∧
    (((wChanClose 0 [wSlot SorSlotState.full 6 1]).flt.fatal = false) ∧
      ((wChanClose 0 [wSlot SorSlotState.full 6 1]).linkUp = true) ∧
      (2 ^ 63 % 64 = 0) ∧
      (parseAddr (2 ^ 63) = Loc.host 0) ∧
      ((wChanClose 0 [wSlot SorSlotState.full 6 1]).requestOk (2 ^ 63) 64 = true) ∧
      (le ((wChanClose 0 [wSlot SorSlotState.full 6 1]).fwRead (2 ^ 63) 64) 0 4 = 1) ∧
      ((wChanClose 0 [wSlot SorSlotState.full 6 1]).chanOf
      (le ((wChanClose 0 [wSlot SorSlotState.full 6 1]).fwRead (2 ^ 63) 64) 12 4) =
    some 0) ∧
      (tget (wChanClose 0 [wSlot SorSlotState.full 6 1]).channels 0 = some (wChannel false [wSlot SorSlotState.full 6 1])) ∧
      ((wChannel false [wSlot SorSlotState.full 6 1]).job =
    le ((wChanClose 0 [wSlot SorSlotState.full 6 1]).fwRead (2 ^ 63) 64) 4 1) ∧
      (le ((wChanClose 0 [wSlot SorSlotState.full 6 1]).fwRead (2 ^ 63) 64) 4 1 < 16) ∧
      (le ((wChanClose 0 [wSlot SorSlotState.full 6 1]).fwRead (2 ^ 63) 64) 7 1 ≤ 1) ∧
      (clearAt ((wChanClose 0 [wSlot SorSlotState.full 6 1]).fwRead (2 ^ 63) 64) [(5, 2), (8, 4), (16, 16), (48, 16)] = true) ∧
      ((wChannel false [wSlot SorSlotState.full 6 1]).closing = none) ∧
      ((wChannel false [wSlot SorSlotState.full 6 1]).state = ChanState.opened) ∧
      (Option.all (fun j => j.closing.isNone && !j.failed)
      (tget (wChanClose 0 [wSlot SorSlotState.full 6 1]).jobs (wChannel false [wSlot SorSlotState.full 6 1]).job) =
    true) ∧
      (le ((wChanClose 0 [wSlot SorSlotState.full 6 1]).fwRead (2 ^ 63) 64) 7 1 = 0) ∧
      (0 < (wChannel false [wSlot SorSlotState.full 6 1]).count SorSlotState.full)) ∧
    (((wCloseLimit [wSlot SorSlotState.full 6 1]).flt.fatal = false) ∧
      ((wCloseLimit [wSlot SorSlotState.full 6 1]).linkUp = true) ∧
      (tget (wCloseLimit [wSlot SorSlotState.full 6 1]).channels 0 = some (wChanClosing [wSlot SorSlotState.full 6 1])) ∧
      ((wChanClosing [wSlot SorSlotState.full 6 1]).state = ChanState.closing) ∧
      ((wChanClosing [wSlot SorSlotState.full 6 1]).drain = true) ∧
      (Option.all (fun j => j.closing.isNone && !j.failed)
      (tget (wCloseLimit [wSlot SorSlotState.full 6 1]).jobs (wChanClosing [wSlot SorSlotState.full 6 1]).job) =
    true) ∧
      ((wChanClosing [wSlot SorSlotState.full 6 1]).count SorSlotState.consuming = 0) ∧
      ((wChanClosing [wSlot SorSlotState.full 6 1]).closing = some (2 ^ 63)) ∧
      (parseAddr (2 ^ 63) = Loc.host 0) ∧
      (2 ^ 63 % 64 = 0)) ∧
    (((wCloseLimit [wSlot SorSlotState.full 6 1, wSlot SorSlotState.consuming 5 1]).flt.fatal = false) ∧
      ((wCloseLimit [wSlot SorSlotState.full 6 1, wSlot SorSlotState.consuming 5 1]).linkUp = true) ∧
      (tget (wCloseLimit [wSlot SorSlotState.full 6 1, wSlot SorSlotState.consuming 5 1]).channels 0 =
    some (wChanClosing [wSlot SorSlotState.full 6 1, wSlot SorSlotState.consuming 5 1])) ∧
      ((wChanClosing [wSlot SorSlotState.full 6 1, wSlot SorSlotState.consuming 5 1]).state = ChanState.closing) ∧
      ((wChanClosing [wSlot SorSlotState.full 6 1, wSlot SorSlotState.consuming 5 1]).drain = true) ∧
      (Option.all (fun j => j.closing.isNone && !j.failed)
      (tget (wCloseLimit [wSlot SorSlotState.full 6 1, wSlot SorSlotState.consuming 5 1]).jobs
        (wChanClosing [wSlot SorSlotState.full 6 1, wSlot SorSlotState.consuming 5 1]).job) =
    true) ∧
      (0 < (wChanClosing [wSlot SorSlotState.full 6 1, wSlot SorSlotState.consuming 5 1]).count SorSlotState.consuming)) := by
  and_intros <;> decide +kernel

theorem witness_IngestStreamsWork :
    ((wStreamBase.flt.fatal = false) ∧
      (wStreamBase.isOpen 72 = true) ∧
      (2 ^ 63 % 128 = 0) ∧
      (parseAddr (2 ^ 63) = Loc.host 0) ∧
      (wStreamBase.linkUp = true) ∧
      (wStreamBase.requestOk (2 ^ 63) 128 = true) ∧
      (wStreamBase.variant.media 0 = true) ∧
      (le (wStreamBase.fwRead (2 ^ 63) 128) 0 4 = 1) ∧
      (wStreamBase.ptnOf (le (wStreamBase.fwRead (2 ^ 63) 128) 4 4) = some 0) ∧
      (wStreamBase.ctxOf (le (wStreamBase.fwRead (2 ^ 63) 128) 8 4) = some 0) ∧
      ((wStreamBase.ctx 0).ptn = 0) ∧
      (le (wStreamBase.fwRead (2 ^ 63) 128) 12 4 = 0) ∧
      (wStreamBase.streamHandles.take 16 =
    some (0, ({ HandleTable.reset with next := 1 } : HandleTable))) ∧
      (wStreamBase.badStream (wStreamBase.fwRead (2 ^ 63) 128) = false) ∧
      ((Shape.ofBytes (wStreamBase.fwRead (2 ^ 63) 128)).perFrame ≤ 4096) ∧
      ((Shape.ofBytes (wStreamBase.fwRead (2 ^ 63) 128)).maxFrames *
      (Shape.ofBytes (wStreamBase.fwRead (2 ^ 63) 128)).perFrame ≤
    65536) ∧
      (wStreamBase.inSpace 0 (le (wStreamBase.fwRead (2 ^ 63) 128) 32 8)
      (le (wStreamBase.fwRead (2 ^ 63) 128) 18 1 *
        (roundUp
            (le (wStreamBase.fwRead (2 ^ 63) 128) 20 2 * ((Shape.ofBytes (wStreamBase.fwRead (2 ^ 63) 128)).pitch + 8) +
              64)
            65536 /
          65536)) =
    true) ∧
      (wStreamBase.inSpace 0 (le (wStreamBase.fwRead (2 ^ 63) 128) 40 8) (le (wStreamBase.fwRead (2 ^ 63) 128) 48 4) = true) ∧
      (State.indexOk wIndex = true) ∧
      (fld (le (wStreamBase.fwRead (2 ^ 63) 128) 56 8) 55 16 < le wIndex 8 8)) ∧
    ((wStreamFull.flt.fatal = false) ∧
      (wStreamFull.isOpen 72 = true) ∧
      (2 ^ 63 % 128 = 0) ∧
      (parseAddr (2 ^ 63) = Loc.host 0) ∧
      (wStreamFull.linkUp = true) ∧
      (wStreamFull.requestOk (2 ^ 63) 128 = true) ∧
      (wStreamFull.variant.media 0 = true) ∧
      (le (wStreamFull.fwRead (2 ^ 63) 128) 0 4 = 1) ∧
      (wStreamFull.streamHandles.take 16 = none) ∧
      (wStreamFull.ptnOf (le (wStreamFull.fwRead (2 ^ 63) 128) 4 4) ≠ none) ∧
      (wStreamFull.ctxOf (le (wStreamFull.fwRead (2 ^ 63) 128) 8 4) ≠ none) ∧
      (le (wStreamFull.fwRead (2 ^ 63) 128) 12 4 = 0)) ∧
    (((wIngest (wStream StreamState.paused [])).flt.fatal = false) ∧
      ((wIngest (wStream StreamState.paused [])).isOpen 72 = true) ∧
      (2 ^ 63 % 128 = 0) ∧
      (parseAddr (2 ^ 63) = Loc.host 0) ∧
      ((wIngest (wStream StreamState.paused [])).linkUp = true) ∧
      ((wIngest (wStream StreamState.paused [])).requestOk (2 ^ 63) 128 = true) ∧
      ((wIngest (wStream StreamState.paused [])).variant.media 0 = true) ∧
      (le ((wIngest (wStream StreamState.paused [])).fwRead (2 ^ 63) 128) 0 4 = 1) ∧
      ((wIngest (wStream StreamState.paused [])).streamOf
      (le ((wIngest (wStream StreamState.paused [])).fwRead (2 ^ 63) 128) 4 4) =
    some 0) ∧
      (tget (wIngest (wStream StreamState.paused [])).streams 0 = some (wStream StreamState.paused []))) ∧
    (((wIngest (wStream StreamState.running [])).flt.fatal = false) ∧
      ((wIngest (wStream StreamState.running [])).isOpen 72 = true) ∧
      (2 ^ 63 % 128 = 0) ∧
      (parseAddr (2 ^ 63) = Loc.host 0) ∧
      ((wIngest (wStream StreamState.running [])).linkUp = true) ∧
      ((wIngest (wStream StreamState.running [])).requestOk (2 ^ 63) 128 = true) ∧
      ((wIngest (wStream StreamState.running [])).variant.media 0 = true) ∧
      (le ((wIngest (wStream StreamState.running [])).fwRead (2 ^ 63) 128) 0 4 = 1) ∧
      ((wIngest (wStream StreamState.running [])).streamOf
      (le ((wIngest (wStream StreamState.running [])).fwRead (2 ^ 63) 128) 4 4) =
    some 0) ∧
      (tget (wIngest (wStream StreamState.running [])).streams 0 = some (wStream StreamState.running [])) ∧
      ((wStream StreamState.running []).state = StreamState.running ∨
    (wStream StreamState.running []).state = StreamState.stalled)) ∧
    (((wIngest (wStream StreamState.paused [])).flt.fatal = false) ∧
      ((wIngest (wStream StreamState.paused [])).isOpen 72 = true) ∧
      (2 ^ 63 % 128 = 0) ∧
      (parseAddr (2 ^ 63) = Loc.host 0) ∧
      ((wIngest (wStream StreamState.paused [])).linkUp = true) ∧
      ((wIngest (wStream StreamState.paused [])).requestOk (2 ^ 63) 128 = true) ∧
      ((wIngest (wStream StreamState.paused [])).variant.media 0 = true) ∧
      (le ((wIngest (wStream StreamState.paused [])).fwRead (2 ^ 63) 128) 0 4 = 1) ∧
      ((wIngest (wStream StreamState.paused [])).streamOf
      (le ((wIngest (wStream StreamState.paused [])).fwRead (2 ^ 63) 128) 4 4) =
    some 0) ∧
      (tget (wIngest (wStream StreamState.paused [])).streams 0 = some (wStream StreamState.paused [])) ∧
      ((wStream StreamState.paused []).state = StreamState.paused)) ∧
    (((wIngest (wStream StreamState.running [])).flt.fatal = false) ∧
      ((wIngest (wStream StreamState.running [])).isOpen 72 = true) ∧
      (tget (wIngest (wStream StreamState.running [])).streams 0 = some (wStream StreamState.running [])) ∧
      ((wStream StreamState.running []).state = StreamState.running ∨
    (wStream StreamState.running []).state = StreamState.stalled) ∧
      ((wStream StreamState.running []).fetched = false) ∧
      ((wStream StreamState.running []).fetchPos < (wStream StreamState.running []).clips) ∧
      (Option.any (fun x => x.restriping)
      (((wIngest (wStream StreamState.running [])).ptnOf ((wStream StreamState.running []).d 4 4)).bind fun p =>
        tget (wIngest (wStream StreamState.running [])).ptns p) =
    false) ∧
      ((wIngest (wStream StreamState.running [])).skipListed (wStream StreamState.running [])
      (wStream StreamState.running []).fetchPos (wStream StreamState.running []).fetchEpoch =
    false) ∧
      (entryExcluded (wEntry 1) (wStream StreamState.running []).servers = true)) ∧
    (((wIngest (wStream StreamState.running [])).flt.fatal = false) ∧
      ((wIngest (wStream StreamState.running [])).isOpen 72 = true) ∧
      (tget (wIngest (wStream StreamState.running [])).streams 0 = some (wStream StreamState.running [])) ∧
      ((wStream StreamState.running []).state = StreamState.running ∨
    (wStream StreamState.running []).state = StreamState.stalled) ∧
      ((wStream StreamState.running []).fetched = false) ∧
      ((wStream StreamState.running []).fetchPos < (wStream StreamState.running []).clips) ∧
      (Option.any (fun x => x.restriping)
      (((wIngest (wStream StreamState.running [])).ptnOf ((wStream StreamState.running []).d 4 4)).bind fun p =>
        tget (wIngest (wStream StreamState.running [])).ptns p) =
    false) ∧
      ((wIngest (wStream StreamState.running [])).skipListed (wStream StreamState.running [])
      (wStream StreamState.running []).fetchPos (wStream StreamState.running []).fetchEpoch =
    false) ∧
      (entryExcluded (wEntry 0) (wStream StreamState.running []).servers = false) ∧
      ((List.map (fun x => x.bytes) (wStream StreamState.running []).window).sum +
      (le (wEntry 0) 8 4 +
        (wStream StreamState.running []).shape.maxFrames * (wStream StreamState.running []).shape.perFrame *
          (wStream StreamState.running []).shape.pitch) ≤
    (wStream StreamState.running []).d 48 4 * 65536)) ∧
    (((wIngest (wStream StreamState.running [wClip ClipState.reading 1 []])).flt.fatal = false) ∧
      ((wIngest (wStream StreamState.running [wClip ClipState.reading 1 []])).isOpen 72 = true) ∧
      (tget (wIngest (wStream StreamState.running [wClip ClipState.reading 1 []])).streams 0 =
    some (wStream StreamState.running [wClip ClipState.reading 1 []])) ∧
      ((wStream StreamState.running [wClip ClipState.reading 1 []]).window = [wClip ClipState.reading 1 []]) ∧
      ((wClip ClipState.reading 1 []).state = ClipState.reading) ∧
      (0 ∈ (wClip ClipState.reading 1 []).chunks) ∧
      (1 ≠ 0)) ∧
    (((wIngest (wStream StreamState.running [wClip ClipState.reading 1 []])).flt.fatal = false) ∧
      ((wIngest (wStream StreamState.running [wClip ClipState.reading 1 []])).isOpen 72 = true) ∧
      (tget (wIngest (wStream StreamState.running [wClip ClipState.reading 1 []])).streams 0 =
    some (wStream StreamState.running [wClip ClipState.reading 1 []])) ∧
      ((wStream StreamState.running [wClip ClipState.reading 1 []]).window = [wClip ClipState.reading 1 []]) ∧
      ((wClip ClipState.reading 1 []).state = ClipState.reading) ∧
      (0 ∈ (wClip ClipState.reading 1 []).chunks) ∧
      ((wClip ClipState.reading 1 []).total (wStream StreamState.running [wClip ClipState.reading 1 []]) = 1) ∧
      (0 = 0) ∧
      ((wClip ClipState.reading 1 []).data = []) ∧
      (crc32c
      (slice
        (slice (zeros 188) 0
          ((wStream StreamState.running [wClip ClipState.reading 1 []]).chunkBytes.min
            ((wClip ClipState.reading 1 []).e 8 4)))
        0 ((wClip ClipState.reading 1 []).e 8 4)) =
    (wClip ClipState.reading 1 []).e 20 4)) ∧
    (((wIngest (wStream StreamState.running [wClipLate])).flt.fatal = false) ∧
      ((wIngest (wStream StreamState.running [wClipLate])).isOpen 72 = true) ∧
      (tget (wIngest (wStream StreamState.running [wClipLate])).streams 0 = some (wStream StreamState.running [wClipLate])) ∧
      (wClipLate ∈ (wStream StreamState.running [wClipLate]).window) ∧
      (1 < wClipLate.attempts) ∧
      (wClipLate.state = ClipState.reading) ∧
      (wClipLate.since = some 0) ∧
      (∀ d ∈ (wStream StreamState.running [wClipLate]).window,
    d ≠ wClipLate → 1 < d.attempts → d.state = ClipState.reading → ∃ b, d.since = some b ∧ 0 < BitVec.toInt (b - 0)) ∧
      ((wStream StreamState.running [wClipLate]).replay = false) ∧
      (BitVec.toNat ((wStream StreamState.running [wClipLate]).skipTail - (wStream StreamState.running [wClipLate]).skipHead) <
    (wStream StreamState.running [wClipLate]).d 104 4) ∧
      ((wIngest (wStream StreamState.running [wClipLate])).ckpPtn = none)) ∧
    (((wIngest (wStream StreamState.running [wClip ClipState.complete 2 []])).flt.fatal = false) ∧
      ((wIngest (wStream StreamState.running [wClip ClipState.complete 2 []])).isOpen 72 = true) ∧
      (tget (wIngest (wStream StreamState.running [wClip ClipState.complete 2 []])).streams 0 =
    some (wStream StreamState.running [wClip ClipState.complete 2 []])) ∧
      ((wStream StreamState.running [wClip ClipState.complete 2 []]).window = [wClip ClipState.complete 2 []]) ∧
      ((wClip ClipState.complete 2 []).state = ClipState.complete) ∧
      ((wIngest (wStream StreamState.running [wClip ClipState.complete 2 []])).variant.engine 3 = true) ∧
      (((wIngest (wStream StreamState.running [wClip ClipState.complete 2 []])).engine 3).busy = false) ∧
      (((wIngest (wStream StreamState.running [wClip ClipState.complete 2 []])).engine 3).borrowed = false) ∧
      ((wIngest (wStream StreamState.running [wClip ClipState.complete 2 []])).isOpen (State.targetDomain 3 3) = true)) ∧
    ((wDecoding.flt.fatal = false) ∧
      (wDecoding.isOpen 72 = true) ∧
      (tget wDecoding.streams 0 = some (wStream StreamState.running [wClip ClipState.decoding 1 []])) ∧
      ((wStream StreamState.running [wClip ClipState.decoding 1 []]).window = [wClip ClipState.decoding 1 []]) ∧
      ((wClip ClipState.decoding 1 []).state = ClipState.decoding) ∧
      ((wDecoding.engine 3).busy = true) ∧
      (wDecoding.isOpen (State.targetDomain 3 3) = true) ∧
      ((wDecoding.engine 3).stream = 0) ∧
      ((wDecoding.engine 3).position = (wClip ClipState.decoding 1 []).position) ∧
      ((wDecoding.engine 3).epoch = (wClip ClipState.decoding 1 []).epoch)) ∧
    (((wIngest wTwo).flt.fatal = false) ∧
      ((wIngest wTwo).isOpen 72 = true) ∧
      (tget (wIngest wTwo).streams 0 = some wTwo) ∧
      (wTwo.uncounted = none) ∧
      (wTwo.state = StreamState.running) ∧
      (State.streamOver wTwo = false) ∧
      (State.nextBlock wTwo = some ([(0, zeros 63 ++ [1])], false)) ∧
      (wTwo.d 12 4 = 0) ∧
      ((wIngest wTwo).ctxOf (wTwo.d 8 4) = some 0) ∧
      ((wIngest wTwo).attrs = []) ∧
      ((wIngest wTwo).ckp.held = []) ∧
      ((wIngest wTwo).plk.writes = []) ∧
      ((wIngest wTwo).plk.reads = []) ∧
      (Option.any (fun x => x.restriping) (tget (wIngest wTwo).ptns (((wIngest wTwo).ptnOf (wTwo.d 4 4)).getD 0)) = false) ∧
      (0 ≤
    BitVec.toInt
      (((wIngest wTwo).ctx 0).sync.getD (fld (wTwo.d 16 1) 5 3) 0 - (wTwo.nextSeq - BitVec.ofNat 32 (wTwo.d 18 1) + 1))) ∧
      (wTwo.d 32 8 + BitVec.toNat wTwo.nextSeq % wTwo.d 18 1 * wTwo.slotBytes < 2 ^ 62) ∧
      ((wIngest wTwo).accessOk (((wIngest wTwo).ptnOf (wTwo.d 4 4)).getD 0) 0
      (wTwo.d 32 8 + BitVec.toNat wTwo.nextSeq % wTwo.d 18 1 * wTwo.slotBytes)
      (State.slotImage wTwo [(0, zeros 63 ++ [1])] false).length true false =
    true) ∧
      ((wIngest wTwo).accessFenced 0 (wTwo.d 32 8 + BitVec.toNat wTwo.nextSeq % wTwo.d 18 1 * wTwo.slotBytes)
      (State.slotImage wTwo [(0, zeros 63 ++ [1])] false).length =
    none) ∧
      (hbmKey (3 * 34332) 0 + (State.slotImage wTwo [(0, zeros 63 ++ [1])] false).length ≤ 2 ^ 60) ∧
      ((State.slotImage wTwo [(0, zeros 63 ++ [1])] false).length ≤ 65536 - hbmKey (3 * 34332) 0 % 65536) ∧
      ((wIngest wTwo).lies (((wIngest wTwo).ptnOf (wTwo.d 4 4)).getD 0) 0
    (wTwo.d 32 8 + BitVec.toNat wTwo.nextSeq % wTwo.d 18 1 * wTwo.slotBytes)
    (State.slotImage wTwo [(0, zeros 63 ++ [1])] false).length (hbmKey (3 * 34332) 0))) := by
  and_intros <;> decide +kernel

theorem witness_LayoutsHotSetAndTestsWork :
    (((wLayout 0 1).flt.fatal = false) ∧
      ((wLayout 0 1).linkUp = true) ∧
      (parseAddr (2 ^ 63) = Loc.host 0) ∧
      (2 ^ 63 % 64 = 0) ∧
      ((wLayout 0 1).requestOk (2 ^ 63) 64 = true) ∧
      (le ((wLayout 0 1).fwRead (2 ^ 63) 64) 0 4 = 1) ∧
      (le ((wLayout 0 1).fwRead (2 ^ 63) 64) 4 1 = 1) ∧
      (1 ≤ 1) ∧
      (1 ≤ 32) ∧
      (clearAt ((wLayout 0 1).fwRead (2 ^ 63) 64) [(5, 3), (16, 48)] = true) ∧
      ((wLayout 0 1).requestOk (2 ^ 63) (64 + 256 * 1) = true) ∧
      ((wLayout 0 1).layoutRuns = false) ∧
      ((((wLayout 0 1).batchCauses
          (List.map (fun i => PtnDesc.ofBytes ((wLayout 0 1).fwRead (2 ^ 63 + 64 + 256 * i) 256)) (List.range 1))).all
      fun x => x.isNone) =
    true)) ∧
    (((wLayout 1 1).flt.fatal = false) ∧
      ((wLayout 1 1).linkUp = true) ∧
      (parseAddr (2 ^ 63) = Loc.host 0) ∧
      (2 ^ 63 % 64 = 0) ∧
      ((wLayout 1 1).requestOk (2 ^ 63) 64 = true) ∧
      (le ((wLayout 1 1).fwRead (2 ^ 63) 64) 0 4 = 1) ∧
      (le ((wLayout 1 1).fwRead (2 ^ 63) 64) 4 1 = 1) ∧
      (1 ≤ 1) ∧
      (1 ≤ 32) ∧
      (clearAt ((wLayout 1 1).fwRead (2 ^ 63) 64) [(5, 3), (16, 48)] = true) ∧
      ((wLayout 1 1).requestOk (2 ^ 63) (64 + 256 * 1) = true) ∧
      ((wLayout 1 1).layoutRuns = false) ∧
      (ptnRefusal
      (List.filterMap (fun r => Option.map (fun x => (true, x.1, x.2)) r)
        ((wLayout 1 1).batchCauses
          (List.map (fun i => PtnDesc.ofBytes ((wLayout 1 1).fwRead (2 ^ 63 + 64 + 256 * i) 256)) (List.range 1)))) =
    some (Status.handleStale, 0))) ∧
    (((wBatchBusy 0).flt.fatal = false) ∧
      ((wBatchBusy 0).linkUp = true) ∧
      (parseAddr (2 ^ 63) = Loc.host 0) ∧
      (2 ^ 63 % 64 = 0) ∧
      ((wBatchBusy 0).requestOk (2 ^ 63) 64 = true) ∧
      (le ((wBatchBusy 0).fwRead (2 ^ 63) 64) 0 4 = 1) ∧
      (le ((wBatchBusy 0).fwRead (2 ^ 63) 64) 4 1 = 1) ∧
      (1 ≤ 1) ∧
      (1 ≤ 32) ∧
      (clearAt ((wBatchBusy 0).fwRead (2 ^ 63) 64) [(5, 3), (16, 48)] = true) ∧
      ((wBatchBusy 0).requestOk (2 ^ 63) (64 + 256 * 1) = true) ∧
      ((wBatchBusy 0).layoutRuns = true) ∧
      (((List.map (fun i => PtnDesc.ofBytes ((wBatchBusy 0).fwRead (2 ^ 63 + 64 + 256 * i) 256)) (List.range 1)).all fun d =>
      ((wBatchBusy 0).earlyCause d).isNone) =
    true)) ∧
    (((wBatchBusy 1).flt.fatal = false) ∧
      ((wBatchBusy 1).linkUp = true) ∧
      (parseAddr (2 ^ 63) = Loc.host 0) ∧
      (2 ^ 63 % 64 = 0) ∧
      ((wBatchBusy 1).requestOk (2 ^ 63) 64 = true) ∧
      (le ((wBatchBusy 1).fwRead (2 ^ 63) 64) 0 4 = 1) ∧
      (le ((wBatchBusy 1).fwRead (2 ^ 63) 64) 4 1 = 1) ∧
      (1 ≤ 1) ∧
      (1 ≤ 32) ∧
      (clearAt ((wBatchBusy 1).fwRead (2 ^ 63) 64) [(5, 3), (16, 48)] = true) ∧
      ((wBatchBusy 1).requestOk (2 ^ 63) (64 + 256 * 1) = true) ∧
      ((wBatchBusy 1).layoutRuns = true) ∧
      (ptnRefusal
      (List.filterMap (fun r => Option.map (fun x => (true, x.1, x.2)) r)
        (List.map (wBatchBusy 1).earlyCause
          (List.map (fun i => PtnDesc.ofBytes ((wBatchBusy 1).fwRead (2 ^ 63 + 64 + 256 * i) 256)) (List.range 1)))) =
    some (Status.handleStale, 0))) ∧
    ((wBatchCreate.flt.fatal = false) ∧
      (wBatchCreate.linkUp = true) ∧
      (parseAddr (2 ^ 63) = Loc.host 0) ∧
      (2 ^ 63 % 64 = 0) ∧
      (wBatchCreate.batch = some (wBatch 0 false false)) ∧
      ((wBatch 0 false false).addr = 2 ^ 63) ∧
      ((wBatch 0 false false).applied = false) ∧
      ((wBatch 0 false false).items = [wItem 0 false]) ∧
      ((wItem 0 false).restripe = false) ∧
      (wBatchCreate.batchReady (wBatch 0 false false) = true) ∧
      ((wItem 0 false).op = 0) ∧
      (wBatchCreate.ptnHandles.take 32 =
    some (0, ({ HandleTable.reset with next := 1 } : HandleTable))) ∧
      (tget wBatchCreate.ptns (wItem 0 false).ptn = none) ∧
      (0 < 32)) ∧
    ((wBatchDestroy.flt.fatal = false) ∧
      (wBatchDestroy.linkUp = true) ∧
      (parseAddr (2 ^ 63) = Loc.host 0) ∧
      (2 ^ 63 % 64 = 0) ∧
      (wBatchDestroy.batch = some (wBatch 2 false false)) ∧
      ((wBatch 2 false false).addr = 2 ^ 63) ∧
      ((wBatch 2 false false).applied = false) ∧
      ((wBatch 2 false false).items = [wItem 2 false]) ∧
      ((wItem 2 false).restripe = false) ∧
      (wBatchDestroy.batchReady (wBatch 2 false false) = true) ∧
      ((wItem 2 false).op = 2) ∧
      ((tget wBatchDestroy.ptns (wItem 2 false).ptn).isSome = true)) ∧
    ((wRestripe.flt.fatal = false) ∧
      (wRestripe.batch = some (wBatch 1 true true)) ∧
      ((wBatch 1 true true).applied = true) ∧
      ((wBatch 1 true true).items = [wItem 1 true]) ∧
      ((wItem 1 true).restripe = true) ∧
      ((wItem 1 true).ptn = 0) ∧
      ((wBatch 1 true true).copied = []) ∧
      (tget wRestripe.ptns 0 =
    some
      (({ wPtn0 with pcs := 16, restriping := true } : Partition)))) ∧
    (((wHotset 0 0).flt.fatal = false) ∧
      ((wHotset 0 0).linkUp = true) ∧
      (parseAddr (2 ^ 63) = Loc.host 0) ∧
      (2 ^ 63 % 64 = 0) ∧
      ((wHotset 0 0).requestOk (2 ^ 63) 32 = true) ∧
      (le ((wHotset 0 0).fwRead (2 ^ 63) 32) 0 4 = 1) ∧
      (le ((wHotset 0 0).fwRead (2 ^ 63) 32) 5 1 ≤ 2) ∧
      (le ((wHotset 0 0).fwRead (2 ^ 63) 32) 26 2 = 0) ∧
      (le ((wHotset 0 0).fwRead (2 ^ 63) 32) 4 1 = 0) ∧
      ((wHotset 0 0).ptnOf (le ((wHotset 0 0).fwRead (2 ^ 63) 32) 8 4) = some 0) ∧
      (tget (wHotset 0 0).ptns 0 = some wPtn0) ∧
      ((wHotset 0 0).hotRoom 0 wPtn0.pages (le ((wHotset 0 0).fwRead (2 ^ 63) 32) 16 4)
      (le ((wHotset 0 0).fwRead (2 ^ 63) 32) 12 4) =
    some ([], 2)) ∧
      (List.find? (fun k => !thas (wHotset 0 0).hotset (k + 1)) (List.range 8192) = some 0)) ∧
    (((wHotset 4 7).flt.fatal = false) ∧
      ((wHotset 4 7).linkUp = true) ∧
      (parseAddr (2 ^ 63) = Loc.host 0) ∧
      (2 ^ 63 % 64 = 0) ∧
      ((wHotset 4 7).requestOk (2 ^ 63) 32 = true) ∧
      (le ((wHotset 4 7).fwRead (2 ^ 63) 32) 0 4 = 1) ∧
      (le ((wHotset 4 7).fwRead (2 ^ 63) 32) 5 1 ≤ 2) ∧
      (le ((wHotset 4 7).fwRead (2 ^ 63) 32) 26 2 = 0) ∧
      (le ((wHotset 4 7).fwRead (2 ^ 63) 32) 4 1 = 4) ∧
      (tget (wHotset 4 7).hotset (le ((wHotset 4 7).fwRead (2 ^ 63) 32) 6 2) = some wHotEntry) ∧
      (wHotEntry.pinned = false)) ∧
    (((wTests [wTest true]).flt.fatal = false) ∧
      ((wTests [wTest true]).linkUp = true) ∧
      (parseAddr (2 ^ 63) = Loc.host 0) ∧
      (2 ^ 63 % 64 = 0) ∧
      ((wTests [wTest true]).requestOk (2 ^ 63) 64 = true) ∧
      (le ((wTests [wTest true]).fwRead (2 ^ 63) 64) 0 4 = 1) ∧
      (State.procTarget (le ((wTests [wTest true]).fwRead (2 ^ 63) 64) 4 2) =
    some (le ((wTests [wTest true]).fwRead (2 ^ 63) 64) 6 1)) ∧
      (le ((wTests [wTest true]).fwRead (2 ^ 63) 64) 8 4 <
    State.targetCount (le ((wTests [wTest true]).fwRead (2 ^ 63) 64) 6 1)) ∧
      ((wTests [wTest true]).targetHere (le ((wTests [wTest true]).fwRead (2 ^ 63) 64) 6 1)
      (le ((wTests [wTest true]).fwRead (2 ^ 63) 64) 8 4) =
    true) ∧
      (1 ≤ le ((wTests [wTest true]).fwRead (2 ^ 63) 64) 12 4) ∧
      (le ((wTests [wTest true]).fwRead (2 ^ 63) 64) 12 4 ≤ 100000) ∧
      (le ((wTests [wTest true]).fwRead (2 ^ 63) 64) 16 4 ≤ 60000) ∧
      (clearAt ((wTests [wTest true]).fwRead (2 ^ 63) 64) [(7, 1), (20, 4), (48, 16)] = true) ∧
      (((wTests [wTest true]).testQueue
        (State.targetCore (le ((wTests [wTest true]).fwRead (2 ^ 63) 64) 6 1)
          (le ((wTests [wTest true]).fwRead (2 ^ 63) 64) 8 4))).length <
    16) ∧
      (Option.any (fun x => x.running)
      ((wTests [wTest true]).testQueue
          (State.targetCore (le ((wTests [wTest true]).fwRead (2 ^ 63) 64) 6 1)
            (le ((wTests [wTest true]).fwRead (2 ^ 63) 64) 8 4))).head? =
    true)) ∧
    (((wTests (List.replicate 16 (wTest true))).flt.fatal = false) ∧
      ((wTests (List.replicate 16 (wTest true))).linkUp = true) ∧
      (parseAddr (2 ^ 63) = Loc.host 0) ∧
      (2 ^ 63 % 64 = 0) ∧
      ((wTests (List.replicate 16 (wTest true))).requestOk (2 ^ 63) 64 = true) ∧
      (le ((wTests (List.replicate 16 (wTest true))).fwRead (2 ^ 63) 64) 0 4 = 1) ∧
      (State.procTarget (le ((wTests (List.replicate 16 (wTest true))).fwRead (2 ^ 63) 64) 4 2) =
    some (le ((wTests (List.replicate 16 (wTest true))).fwRead (2 ^ 63) 64) 6 1)) ∧
      (le ((wTests (List.replicate 16 (wTest true))).fwRead (2 ^ 63) 64) 8 4 <
    State.targetCount (le ((wTests (List.replicate 16 (wTest true))).fwRead (2 ^ 63) 64) 6 1)) ∧
      ((wTests (List.replicate 16 (wTest true))).targetHere
      (le ((wTests (List.replicate 16 (wTest true))).fwRead (2 ^ 63) 64) 6 1)
      (le ((wTests (List.replicate 16 (wTest true))).fwRead (2 ^ 63) 64) 8 4) =
    true) ∧
      (1 ≤ le ((wTests (List.replicate 16 (wTest true))).fwRead (2 ^ 63) 64) 12 4) ∧
      (le ((wTests (List.replicate 16 (wTest true))).fwRead (2 ^ 63) 64) 12 4 ≤ 100000) ∧
      (le ((wTests (List.replicate 16 (wTest true))).fwRead (2 ^ 63) 64) 16 4 ≤ 60000) ∧
      (clearAt ((wTests (List.replicate 16 (wTest true))).fwRead (2 ^ 63) 64) [(7, 1), (20, 4), (48, 16)] = true) ∧
      (16 ≤
    ((wTests (List.replicate 16 (wTest true))).testQueue
        (State.targetCore (le ((wTests (List.replicate 16 (wTest true))).fwRead (2 ^ 63) 64) 6 1)
          (le ((wTests (List.replicate 16 (wTest true))).fwRead (2 ^ 63) 64) 8 4))).length)) ∧
    (((wTests [wTest false]).flt.fatal = false) ∧
      ((wTests [wTest false]).linkUp = true) ∧
      (parseAddr (wTest false).addr = Loc.host 0) ∧
      ((wTest false).addr % 64 = 0) ∧
      ((wTests [wTest false]).testQueue 0 = [wTest false]) ∧
      ((wTest false).targetType = 1) ∧
      ((wTest false).running = false) ∧
      ((wTests [wTest false]).isOpen (State.targetDomain 1 (wTest false).target) = true) ∧
      ((wTests [wTest false]).targetClear 1 (wTest false).target (wTest false).window = true)) ∧
    ((wReserved.flt.fatal = false) ∧
      (wReserved.linkUp = true) ∧
      (parseAddr (wTest false).addr = Loc.host 0) ∧
      ((wTest false).addr % 64 = 0) ∧
      (wReserved.testQueue 0 = [wTest false]) ∧
      ((wTest false).targetType = 1) ∧
      ((wTest false).running = false) ∧
      (wReserved.targetReserved 1 (wTest false).target = true)) ∧
    (((wTests [wTest true]).flt.fatal = false) ∧
      ((wTests [wTest true]).linkUp = true) ∧
      (parseAddr (wTest true).addr = Loc.host 0) ∧
      ((wTest true).addr % 64 = 0) ∧
      ((wTests [wTest true]).testQueue 0 = [wTest true]) ∧
      ((wTest true).targetType = 1) ∧
      ((wTest true).running = true) ∧
      ((wTest true).proc = 16) ∧
      ((wTest true).result = 0)) ∧
    (((wTests [wTest true]).flt.fatal = false) ∧
      ((wTests [wTest true]).linkUp = true) ∧
      (parseAddr (wTest true).addr = Loc.host 0) ∧
      ((wTest true).addr % 64 = 0) ∧
      ((wTests [wTest true]).testQueue 0 = [wTest true]) ∧
      ((wTest true).targetType = 1) ∧
      ((wTest true).running = true) ∧
      ((wTest true).proc = 16) ∧
      ((wTest true).result = 0)) := by
  and_intros <;> decide +kernel

theorem witness_ContextsComeAndGo :
    (((wCtxCreate 300).flt.fatal = false) ∧
      ((wCtxCreate 300).linkUp = true) ∧
      (2 ^ 63 % 64 = 0) ∧
      (parseAddr (2 ^ 63) = Loc.host 0) ∧
      ((wCtxCreate 300).requestOk (2 ^ 63) 128 = true) ∧
      ((wCtxCreate 300).batch = none) ∧
      (le ((wCtxCreate 300).fwRead (2 ^ 63) 128) 0 4 = 1) ∧
      ((wCtxCreate 300).ptnOf (le ((wCtxCreate 300).fwRead (2 ^ 63) 128) 4 4) = some 0) ∧
      (tget (wCtxCreate 300).ptns 0 = some wPtnC) ∧
      ((wCtxCreate 300).ctxHandles.take 512 =
    some (0, ({ HandleTable.reset with next := 1 } : HandleTable))) ∧
      ((members
          (if le ((wCtxCreate 300).fwRead (2 ^ 63) 128) 12 4 = 0 then wPtnC.quads
          else le ((wCtxCreate 300).fwRead (2 ^ 63) 128) 12 4)
          32).all
      (wCtxCreate 300).variant.quad =
    true) ∧
      ((if le ((wCtxCreate 300).fwRead (2 ^ 63) 128) 12 4 = 0 then wPtnC.quads
        else le ((wCtxCreate 300).fwRead (2 ^ 63) 128) 12 4).land
      wPtnC.quads =
    if le ((wCtxCreate 300).fwRead (2 ^ 63) 128) 12 4 = 0 then wPtnC.quads
    else le ((wCtxCreate 300).fwRead (2 ^ 63) 128) 12 4) ∧
      (le ((wCtxCreate 300).fwRead (2 ^ 63) 128) 8 1 ≤ 1) ∧
      (le ((wCtxCreate 300).fwRead (2 ^ 63) 128) 9 1 ≤ 1) ∧
      (1 ≤ le ((wCtxCreate 300).fwRead (2 ^ 63) 128) 18 2) ∧
      (le ((wCtxCreate 300).fwRead (2 ^ 63) 128) 18 2 ≤ 1280) ∧
      (clearAt ((wCtxCreate 300).fwRead (2 ^ 63) 128) [(10, 2), (20, 4), (36, 4), (48, 48)] = true) ∧
      (((Context.diesOf
          (if le ((wCtxCreate 300).fwRead (2 ^ 63) 128) 12 4 = 0 then wPtnC.quads
          else le ((wCtxCreate 300).fwRead (2 ^ 63) 128) 12 4)).all
      fun n =>
      decide
        (le ((wCtxCreate 300).fwRead (2 ^ 63) 128) 16 2 + le ((wCtxCreate 300).fwRead (2 ^ 63) 128) 18 2 ≤
          wPtnC.scratch.getD n 0)) =
    true) ∧
      (parseAddr (le ((wCtxCreate 300).fwRead (2 ^ 63) 128) 24 8) = Loc.hbm 0 0) ∧
      (0 % 65536 = 0) ∧
      (0 / 65536 + le ((wCtxCreate 300).fwRead (2 ^ 63) 128) 32 4 ≤ wPtnC.pages) ∧
      (Context.imageNeed
      (if le ((wCtxCreate 300).fwRead (2 ^ 63) 128) 12 4 = 0 then wPtnC.quads
      else le ((wCtxCreate 300).fwRead (2 ^ 63) 128) 12 4)
      (le ((wCtxCreate 300).fwRead (2 ^ 63) 128) 18 2) ≤
    le ((wCtxCreate 300).fwRead (2 ^ 63) 128) 32 4)) ∧
    (((wCtxCreate 100).flt.fatal = false) ∧
      ((wCtxCreate 100).linkUp = true) ∧
      (2 ^ 63 % 64 = 0) ∧
      (parseAddr (2 ^ 63) = Loc.host 0) ∧
      ((wCtxCreate 100).requestOk (2 ^ 63) 128 = true) ∧
      ((wCtxCreate 100).batch = none) ∧
      (le ((wCtxCreate 100).fwRead (2 ^ 63) 128) 0 4 = 1) ∧
      ((wCtxCreate 100).ptnOf (le ((wCtxCreate 100).fwRead (2 ^ 63) 128) 4 4) = some 0) ∧
      (tget (wCtxCreate 100).ptns 0 = some wPtnC) ∧
      ((wCtxCreate 100).ctxHandles.take 512 =
    some (0, ({ HandleTable.reset with next := 1 } : HandleTable))) ∧
      ((members
          (if le ((wCtxCreate 100).fwRead (2 ^ 63) 128) 12 4 = 0 then wPtnC.quads
          else le ((wCtxCreate 100).fwRead (2 ^ 63) 128) 12 4)
          32).all
      (wCtxCreate 100).variant.quad =
    true) ∧
      ((if le ((wCtxCreate 100).fwRead (2 ^ 63) 128) 12 4 = 0 then wPtnC.quads
        else le ((wCtxCreate 100).fwRead (2 ^ 63) 128) 12 4).land
      wPtnC.quads =
    if le ((wCtxCreate 100).fwRead (2 ^ 63) 128) 12 4 = 0 then wPtnC.quads
    else le ((wCtxCreate 100).fwRead (2 ^ 63) 128) 12 4) ∧
      (le ((wCtxCreate 100).fwRead (2 ^ 63) 128) 8 1 ≤ 1) ∧
      (le ((wCtxCreate 100).fwRead (2 ^ 63) 128) 9 1 ≤ 1) ∧
      (1 ≤ le ((wCtxCreate 100).fwRead (2 ^ 63) 128) 18 2) ∧
      (le ((wCtxCreate 100).fwRead (2 ^ 63) 128) 18 2 ≤ 1280) ∧
      (clearAt ((wCtxCreate 100).fwRead (2 ^ 63) 128) [(10, 2), (20, 4), (36, 4), (48, 48)] = true) ∧
      (((Context.diesOf
          (if le ((wCtxCreate 100).fwRead (2 ^ 63) 128) 12 4 = 0 then wPtnC.quads
          else le ((wCtxCreate 100).fwRead (2 ^ 63) 128) 12 4)).all
      fun n =>
      decide
        (le ((wCtxCreate 100).fwRead (2 ^ 63) 128) 16 2 + le ((wCtxCreate 100).fwRead (2 ^ 63) 128) 18 2 ≤
          wPtnC.scratch.getD n 0)) =
    true) ∧
      (parseAddr (le ((wCtxCreate 100).fwRead (2 ^ 63) 128) 24 8) = Loc.hbm 0 0) ∧
      (0 % 65536 = 0) ∧
      (0 / 65536 + le ((wCtxCreate 100).fwRead (2 ^ 63) 128) 32 4 ≤ wPtnC.pages) ∧
      (le ((wCtxCreate 100).fwRead (2 ^ 63) 128) 32 4 <
    Context.imageNeed
      (if le ((wCtxCreate 100).fwRead (2 ^ 63) 128) 12 4 = 0 then wPtnC.quads
      else le ((wCtxCreate 100).fwRead (2 ^ 63) 128) 12 4)
      (le ((wCtxCreate 100).fwRead (2 ^ 63) 128) 18 2))) ∧
    (((wCtxDestroy CtxState.running).flt.fatal = false) ∧
      ((wCtxDestroy CtxState.running).linkUp = true) ∧
      (2 ^ 63 % 64 = 0) ∧
      (parseAddr (2 ^ 63) = Loc.host 0) ∧
      ((wCtxDestroy CtxState.running).requestOk (2 ^ 63) 128 = true) ∧
      ((wCtxDestroy CtxState.running).batch = none) ∧
      (le ((wCtxDestroy CtxState.running).fwRead (2 ^ 63) 128) 0 4 = 1) ∧
      ((wCtxDestroy CtxState.running).ctxOf (le ((wCtxDestroy CtxState.running).fwRead (2 ^ 63) 128) 4 4) = some 0) ∧
      ((List.any (wCtxDestroy CtxState.running).channels fun p =>
      Option.any (fun j => j.teacherCtx == 0 || j.studentCtx == 0) (tget (wCtxDestroy CtxState.running).jobs p.2.job)) =
    false) ∧
      (((wCtxDestroy CtxState.running).ctx 0).state ≠ CtxState.teardown)) ∧
    (((wCtxDestroy CtxState.teardown).flt.fatal = false) ∧
      ((wCtxDestroy CtxState.teardown).linkUp = true) ∧
      (2 ^ 63 % 64 = 0) ∧
      (parseAddr (2 ^ 63) = Loc.host 0) ∧
      ((wCtxDestroy CtxState.teardown).requestOk (2 ^ 63) 128 = true) ∧
      ((wCtxDestroy CtxState.teardown).batch = none) ∧
      (le ((wCtxDestroy CtxState.teardown).fwRead (2 ^ 63) 128) 0 4 = 1) ∧
      ((wCtxDestroy CtxState.teardown).ctxOf (le ((wCtxDestroy CtxState.teardown).fwRead (2 ^ 63) 128) 4 4) = some 0) ∧
      ((List.any (wCtxDestroy CtxState.teardown).channels fun p =>
      Option.any (fun j => j.teacherCtx == 0 || j.studentCtx == 0) (tget (wCtxDestroy CtxState.teardown).jobs p.2.job)) =
    false) ∧
      (((wCtxDestroy CtxState.teardown).ctx 0).state = CtxState.teardown)) ∧
    (((wBind true).flt.fatal = false) ∧
      (((wBind true).through ((wBind true).ctx 1).quadList).contends 1 = true) ∧
      ((wBind true).pwr.dispatchHeld = false) ∧
      ((wBind true).pwr.onHoldup = false) ∧
      (((wBind true).through ((wBind true).ctx 1).quadList).unacked 1 4 0 = false) ∧
      (((((wBind true).through ((wBind true).ctx 1).quadList).ctx 1).quadList.all fun i =>
      ((wBind true).through ((wBind true).ctx 1).quadList).quadFree i &&
        ((wBind true).through ((wBind true).ctx 1).quadList).topRanked i 1) =
    true) ∧
      (((wBind true).through ((wBind true).ctx 1).quadList).holdersOf 1 = [])) ∧
    ((wBindHeld.flt.fatal = false) ∧
      ((wBindHeld.through (wBindHeld.ctx 1).quadList).contends 1 = true) ∧
      (wBindHeld.pwr.dispatchHeld = false) ∧
      (wBindHeld.pwr.onHoldup = false) ∧
      ((wBindHeld.through (wBindHeld.ctx 1).quadList).unacked 1 4 0 = false) ∧
      ((((wBindHeld.through (wBindHeld.ctx 1).quadList).ctx 1).quadList.all fun i =>
      (wBindHeld.through (wBindHeld.ctx 1).quadList).quadFree i &&
        (wBindHeld.through (wBindHeld.ctx 1).quadList).topRanked i 1) =
    true) ∧
      ((wBindHeld.through (wBindHeld.ctx 1).quadList).holdersOf 1 = [0]) ∧
      (((wBindHeld.through (wBindHeld.ctx 1).quadList).ctx 0).state = CtxState.running) ∧
      (((wBindHeld.through (wBindHeld.ctx 1).quadList).ctx 0).runnable = false)) ∧
    ((wResume.flt.fatal = false) ∧
      (0 < 8) ∧
      ((if (wResume.group 0).active = true then ((wResume.group 0).slot + 1) % 64 else 0) = 0) ∧
      ((wResume.group 0).schedNew = false) ∧
      ((wResume.group 0).resume = some (3, 9))) ∧
    ((wLent.flt.fatal = false) ∧
      (0 < 8) ∧
      ((wLent.group 0).active = true) ∧
      ((if (wLent.group 0).active = true then ((wLent.group 0).slot + 1) % 64 else 0) ≠ 0 ∨
    (wLent.group 0).schedNew = false ∧ (wLent.group 0).resume = none)) ∧
    (((wTable false).flt.fatal = false) ∧
      (0 < 8) ∧
      ((if ((wTable false).group 0).active = true then (((wTable false).group 0).slot + 1) % 64 else 0) = 0) ∧
      (((wTable false).group 0).schedNew = true) ∧
      (((wTable false).group 0).schedEnable = true) ∧
      (((wTable false).group 0).resume = none) ∧
      ((wTable false).tableOk 0
      (List.map (fun i => le ((wTable false).fwRead (((wTable false).group 0).schedAddr * 1024 + 4 * i) 4) 0 4)
        (List.range 256)) =
    true)) ∧
    (((wTable true).flt.fatal = false) ∧
      (0 < 8) ∧
      ((if ((wTable true).group 0).active = true then (((wTable true).group 0).slot + 1) % 64 else 0) = 0) ∧
      (((wTable true).group 0).schedNew = true) ∧
      (((wTable true).group 0).schedEnable = true) ∧
      (((wTable true).group 0).resume = none) ∧
      ((wTable true).tableOk 0
      (List.map (fun i => le ((wTable true).fwRead (((wTable true).group 0).schedAddr * 1024 + 4 * i) 4) 0 4)
        (List.range 256)) =
    false)) ∧
    (((wSlots 0).flt.fatal = false) ∧
      (0 < 8) ∧
      (0 < 4) ∧
      (4 * 0 + 0 ∈ ((wSlots 0).through (List.map (fun x => 4 * 0 + x) (List.range 4))).handoverDue 0) ∧
      (((wSlots 0).through (List.map (fun x => 4 * 0 + x) (List.range 4))).nextOwner (4 * 0 + 0) = some (1, 1)) ∧
      (bitAt (((wSlots 0).through (List.map (fun x => 4 * 0 + x) (List.range 4))).slotEntry (4 * 0 + 0) 1) 10 = false) ∧
      (∀ r < 4, ((wSlots 0).through (List.map (fun x => 4 * 0 + x) (List.range 4))).takesLent (4 * 0 + r) = false)) ∧
    ((wLent.flt.fatal = false) ∧
      (0 < 8) ∧
      (0 < 4) ∧
      ((wLent.through (List.map (fun x => 4 * 0 + x) (List.range 4))).takesLent (4 * 0 + 0) = true) ∧
      ((wLent.through (List.map (fun x => 4 * 0 + x) (List.range 4))).slotOwner (4 * 0 + 0)
      ((wLent.through (List.map (fun x => 4 * 0 + x) (List.range 4))).group 0).slot =
    some 1)) ∧
    ((wLent.flt.fatal = false) ∧
      (((wLent.through (wLent.ctx 0).quadList).ctx 0).state = CtxState.running) ∧
      ((((wLent.through (wLent.ctx 0).quadList).ctx 0).quadList.any fun i =>
      ((wLent.through (wLent.ctx 0).quadList).contenders i).any fun d =>
        decide
          ((wLent.through (wLent.ctx 0).quadList).rankClass i d ≤ (wLent.through (wLent.ctx 0).quadList).rankClass i 0)) =
    true)) ∧
    (((wSaving AfterSave.saved).flt.fatal = false) ∧
      (((wSaving AfterSave.saved).ctx 0).state = CtxState.saving) ∧
      ((wSaving AfterSave.saved).drainsWait 0 = true) ∧
      ((((wSaving AfterSave.saved).ctx 0).quadList.all fun k => (wSaving AfterSave.saved).live (quadDomain k)) = true) ∧
      ((((wSaving AfterSave.saved).ctx 0).dies.all fun n => (wSaving AfterSave.saved).live (fabricDomain n)) = true)) ∧
    (((wRestoring false).flt.fatal = false) ∧
      (((wRestoring false).ctx 0).state = CtxState.restoring) ∧
      ((wRestoring false).unacked 0 4 0 = false) ∧
      ((((wRestoring false).ctx 0).quadList.all fun k => (wRestoring false).isOpen (quadDomain k)) = true) ∧
      ((((wRestoring false).ctx 0).dies.all fun n => (wRestoring false).isOpen (fabricDomain n)) = true) ∧
      ((wRestoring false).imageGood 0 = true)) ∧
    (((wRestoring true).flt.fatal = false) ∧
      (((wRestoring true).ctx 0).state = CtxState.restoring) ∧
      ((wRestoring true).unacked 0 4 0 = false) ∧
      ((((wRestoring true).ctx 0).quadList.all fun k => (wRestoring true).isOpen (quadDomain k)) = true) ∧
      ((((wRestoring true).ctx 0).dies.all fun n => (wRestoring true).isOpen (fabricDomain n)) = true) ∧
      ((wRestoring true).imageGood 0 = false)) ∧
    ((wTeardown.flt.fatal = false) ∧
      ((wTeardown.ctx 0).state = CtxState.teardown) ∧
      (wTeardown.tornWaits 0 = false) ∧
      ((List.all wTeardown.jobs fun p => p.2.teacherCtx != 0 && !(p.2.failed && p.2.studentCtx == 0)) = true) ∧
      ((List.all wTeardown.instances fun p => p.2.target != 0 && p.2.draft != some 0) = true)) := by
  and_intros <;> decide +kernel

theorem witness_ServingTablesAreKept :
    ((wNoServe.flt.fatal = false) ∧
      (wNoServe.linkUp = true) ∧
      (2 ^ 63 % 64 = 0) ∧
      (parseAddr (2 ^ 63) = Loc.host 0) ∧
      (wRow ∈
    [(Instr.instanceCreate (2 ^ 63), 128, 112), (Instr.instanceDestroy (2 ^ 63), 32, 16),
      (Instr.adapterRegister (2 ^ 63), 32, 16), (Instr.adapterRelease (2 ^ 63), 32, 16),
      (Instr.ringCreate (2 ^ 63), 64, 48), (Instr.ringDestroy (2 ^ 63), 32, 16), (Instr.requestCancel (2 ^ 63), 32, 16)]) ∧
      (wNoServe.requestOk (2 ^ 63) wRow.2.1 = true) ∧
      (wNoServe.variant.serving = false)) ∧
    ((wServeDown.flt.fatal = false) ∧
      (wServeDown.linkUp = true) ∧
      (2 ^ 63 % 64 = 0) ∧
      (parseAddr (2 ^ 63) = Loc.host 0) ∧
      (wRow ∈
    [(Instr.instanceCreate (2 ^ 63), 128, 112), (Instr.instanceDestroy (2 ^ 63), 32, 16),
      (Instr.adapterRegister (2 ^ 63), 32, 16), (Instr.adapterRelease (2 ^ 63), 32, 16),
      (Instr.ringCreate (2 ^ 63), 64, 48), (Instr.ringDestroy (2 ^ 63), 32, 16), (Instr.requestCancel (2 ^ 63), 32, 16)]) ∧
      (wServeDown.requestOk (2 ^ 63) wRow.2.1 = true) ∧
      (wServeDown.variant.serving = true) ∧
      (wServeDown.isOpen 77 = false)) ∧
    (((wInstCreate 2).flt.fatal = false) ∧
      ((wInstCreate 2).linkUp = true) ∧
      (2 ^ 63 % 64 = 0) ∧
      (parseAddr (2 ^ 63) = Loc.host 0) ∧
      ((wInstCreate 2).variant.serving = true) ∧
      ((wInstCreate 2).isOpen 77 = true) ∧
      ((wInstCreate 2).requestOk (2 ^ 63) 128 = true) ∧
      (le ((fun n => (wInstCreate 2).fwRead (2 ^ 63) n) 128) 0 4 = 1) ∧
      ((wInstCreate 2).ptnOf (le ((fun n => (wInstCreate 2).fwRead (2 ^ 63) n) 128) 4 4) = some 0) ∧
      ((wInstCreate 2).ctxOf (le ((fun n => (wInstCreate 2).fwRead (2 ^ 63) n) 128) 8 4) = some 0) ∧
      (le ((fun n => (wInstCreate 2).fwRead (2 ^ 63) n) 128) 12 4 = 0) ∧
      (((wInstCreate 2).ctx 0).ptn = 0) ∧
      (lowestFree (wInstCreate 2).instances 16 = some 0) ∧
      (State.badInst ((fun n => (wInstCreate 2).fwRead (2 ^ 63) n) 128) = false) ∧
      ((wInstCreate 2).badAreas 0
      { desc := (fun n => (wInstCreate 2).fwRead (2 ^ 63) n) 128, ptn := 0, target := 0, draft := none, submitTail := 0,
        submitHead := 0, admittedCount := 0, stepNumber := 0, pass := 0, firstPass := 0, inStep := false, stepStart := 0,
        passIndex := 0, drafts := 0, doneAt := 0, seqs := [], durations := [], gains := [],
        free := List.range (le ((fun n => (wInstCreate 2).fwRead (2 ^ 63) n) 128) 36 4), prov := [], repeats := 0,
        poolLow := false, ttftMiss := 0, tbtMiss := 0 } =
    false)) ∧
    (((wInstCreate 0).flt.fatal = false) ∧
      ((wInstCreate 0).linkUp = true) ∧
      (2 ^ 63 % 64 = 0) ∧
      (parseAddr (2 ^ 63) = Loc.host 0) ∧
      ((wInstCreate 0).variant.serving = true) ∧
      ((wInstCreate 0).isOpen 77 = true) ∧
      ((wInstCreate 0).requestOk (2 ^ 63) 128 = true) ∧
      (le ((fun n => (wInstCreate 0).fwRead (2 ^ 63) n) 128) 0 4 = 1) ∧
      ((wInstCreate 0).ptnOf (le ((fun n => (wInstCreate 0).fwRead (2 ^ 63) n) 128) 4 4) = some 0) ∧
      ((wInstCreate 0).ctxOf (le ((fun n => (wInstCreate 0).fwRead (2 ^ 63) n) 128) 8 4) = some 0) ∧
      (le ((fun n => (wInstCreate 0).fwRead (2 ^ 63) n) 128) 12 4 = 0) ∧
      (((wInstCreate 0).ctx 0).ptn = 0) ∧
      (lowestFree (wInstCreate 0).instances 16 = some 0) ∧
      (State.badInst ((fun n => (wInstCreate 0).fwRead (2 ^ 63) n) 128) = true)) ∧
    (((wInstDestroy false).flt.fatal = false) ∧
      ((wInstDestroy false).linkUp = true) ∧
      (2 ^ 63 % 64 = 0) ∧
      (parseAddr (2 ^ 63) = Loc.host 0) ∧
      ((wInstDestroy false).variant.serving = true) ∧
      ((wInstDestroy false).isOpen 77 = true) ∧
      ((wInstDestroy false).requestOk (2 ^ 63) 32 = true) ∧
      (le ((fun n => (wInstDestroy false).fwRead (2 ^ 63) n) 32) 0 4 = 1) ∧
      (le ((fun n => (wInstDestroy false).fwRead (2 ^ 63) n) 32) 4 4 = 0) ∧
      (0 < 16) ∧
      (thas (wInstDestroy false).instances 0 = true) ∧
      (clearAt ((fun n => (wInstDestroy false).fwRead (2 ^ 63) n) 32) [(8, 8)] = true) ∧
      ((wInstDestroy false).reqsOf 0 = [])) ∧
    (((wInstDestroy true).flt.fatal = false) ∧
      ((wInstDestroy true).linkUp = true) ∧
      (2 ^ 63 % 64 = 0) ∧
      (parseAddr (2 ^ 63) = Loc.host 0) ∧
      ((wInstDestroy true).variant.serving = true) ∧
      ((wInstDestroy true).isOpen 77 = true) ∧
      ((wInstDestroy true).requestOk (2 ^ 63) 32 = true) ∧
      (le ((fun n => (wInstDestroy true).fwRead (2 ^ 63) n) 32) 0 4 = 1) ∧
      (le ((fun n => (wInstDestroy true).fwRead (2 ^ 63) n) 32) 4 4 = 0) ∧
      (0 < 16) ∧
      (thas (wInstDestroy true).instances 0 = true) ∧
      (clearAt ((fun n => (wInstDestroy true).fwRead (2 ^ 63) n) 32) [(8, 8)] = true) ∧
      ((wInstDestroy true).reqsOf 0 ≠ [])) ∧
    (((wAdpReg 1).flt.fatal = false) ∧
      ((wAdpReg 1).linkUp = true) ∧
      (2 ^ 63 % 64 = 0) ∧
      (parseAddr (2 ^ 63) = Loc.host 0) ∧
      ((wAdpReg 1).variant.serving = true) ∧
      ((wAdpReg 1).isOpen 77 = true) ∧
      ((wAdpReg 1).requestOk (2 ^ 63) 32 = true) ∧
      (le ((fun n => (wAdpReg 1).fwRead (2 ^ 63) n) 32) 0 4 = 1) ∧
      (tget (wAdpReg 1).hotset (le ((fun n => (wAdpReg 1).fwRead (2 ^ 63) n) 32) 6 2) = some (wAdpEntry 1)) ∧
      ((wAdpReg 1).adpHandles.take 4096 =
    some (0, ({ HandleTable.reset with next := 1 } : HandleTable))) ∧
      (le ((fun n => (wAdpReg 1).fwRead (2 ^ 63) n) 32) 4 1 < 16) ∧
      (thas (wAdpReg 1).instances (le ((fun n => (wAdpReg 1).fwRead (2 ^ 63) n) 32) 4 1) = true) ∧
      (le ((fun n => (wAdpReg 1).fwRead (2 ^ 63) n) 32) 8 2 % 4 = 0) ∧
      (4 ≤ le ((fun n => (wAdpReg 1).fwRead (2 ^ 63) n) 32) 8 2) ∧
      (le ((fun n => (wAdpReg 1).fwRead (2 ^ 63) n) 32) 8 2 ≤ 128) ∧
      (clearAt ((fun n => (wAdpReg 1).fwRead (2 ^ 63) n) 32) [(5, 1), (10, 6)] = true) ∧
      ((wAdpEntry 1).kind = 1)) ∧
    (((wAdpReg 0).flt.fatal = false) ∧
      ((wAdpReg 0).linkUp = true) ∧
      (2 ^ 63 % 64 = 0) ∧
      (parseAddr (2 ^ 63) = Loc.host 0) ∧
      ((wAdpReg 0).variant.serving = true) ∧
      ((wAdpReg 0).isOpen 77 = true) ∧
      ((wAdpReg 0).requestOk (2 ^ 63) 32 = true) ∧
      (le ((fun n => (wAdpReg 0).fwRead (2 ^ 63) n) 32) 0 4 = 1) ∧
      (tget (wAdpReg 0).hotset (le ((fun n => (wAdpReg 0).fwRead (2 ^ 63) n) 32) 6 2) = some (wAdpEntry 0)) ∧
      ((wAdpReg 0).adpHandles.take 4096 =
    some (0, ({ HandleTable.reset with next := 1 } : HandleTable))) ∧
      (le ((fun n => (wAdpReg 0).fwRead (2 ^ 63) n) 32) 4 1 < 16) ∧
      (thas (wAdpReg 0).instances (le ((fun n => (wAdpReg 0).fwRead (2 ^ 63) n) 32) 4 1) = true) ∧
      (le ((fun n => (wAdpReg 0).fwRead (2 ^ 63) n) 32) 8 2 % 4 = 0) ∧
      (4 ≤ le ((fun n => (wAdpReg 0).fwRead (2 ^ 63) n) 32) 8 2) ∧
      (le ((fun n => (wAdpReg 0).fwRead (2 ^ 63) n) 32) 8 2 ≤ 128) ∧
      (clearAt ((fun n => (wAdpReg 0).fwRead (2 ^ 63) n) 32) [(5, 1), (10, 6)] = true) ∧
      ((wAdpEntry 0).kind ≠ 1)) ∧
    (((wAdpRel false).flt.fatal = false) ∧
      ((wAdpRel false).linkUp = true) ∧
      (2 ^ 63 % 64 = 0) ∧
      (parseAddr (2 ^ 63) = Loc.host 0) ∧
      ((wAdpRel false).variant.serving = true) ∧
      ((wAdpRel false).isOpen 77 = true) ∧
      ((wAdpRel false).requestOk (2 ^ 63) 32 = true) ∧
      (le ((fun n => (wAdpRel false).fwRead (2 ^ 63) n) 32) 0 4 = 1) ∧
      ((wAdpRel false).adpOf (le ((fun n => (wAdpRel false).fwRead (2 ^ 63) n) 32) 4 4) = some 0) ∧
      (tget (wAdpRel false).adapters 0 = some wAdapter) ∧
      (clearAt ((fun n => (wAdpRel false).fwRead (2 ^ 63) n) 32) [(8, 8)] = true) ∧
      ((List.any (wAdpRel false).requests fun r => r.2.state != ReqState.free && r.2.adapter == some 0) = false)) ∧
    (((wAdpRel true).flt.fatal = false) ∧
      ((wAdpRel true).linkUp = true) ∧
      (2 ^ 63 % 64 = 0) ∧
      (parseAddr (2 ^ 63) = Loc.host 0) ∧
      ((wAdpRel true).variant.serving = true) ∧
      ((wAdpRel true).isOpen 77 = true) ∧
      ((wAdpRel true).requestOk (2 ^ 63) 32 = true) ∧
      (le ((fun n => (wAdpRel true).fwRead (2 ^ 63) n) 32) 0 4 = 1) ∧
      ((wAdpRel true).adpOf (le ((fun n => (wAdpRel true).fwRead (2 ^ 63) n) 32) 4 4) = some 0) ∧
      (tget (wAdpRel true).adapters 0 = some wAdapter) ∧
      (clearAt ((fun n => (wAdpRel true).fwRead (2 ^ 63) n) 32) [(8, 8)] = true) ∧
      ((List.any (wAdpRel true).requests fun r => r.2.state != ReqState.free && r.2.adapter == some 0) = true)) ∧
    (((wRingDel none).flt.fatal = false) ∧
      ((wRingDel none).linkUp = true) ∧
      (2 ^ 63 % 64 = 0) ∧
      (parseAddr (2 ^ 63) = Loc.host 0) ∧
      ((wRingDel none).variant.serving = true) ∧
      ((wRingDel none).isOpen 77 = true) ∧
      ((wRingDel none).requestOk (2 ^ 63) 32 = true) ∧
      (le ((fun n => (wRingDel none).fwRead (2 ^ 63) n) 32) 0 4 = 1) ∧
      ((wRingDel none).ringOf (le ((fun n => (wRingDel none).fwRead (2 ^ 63) n) 32) 4 4) = some 0) ∧
      (tget (wRingDel none).rings 0 = some (wRing none)) ∧
      (clearAt ((fun n => (wRingDel none).fwRead (2 ^ 63) n) 32) [(8, 8)] = true) ∧
      ((wRing none).bound = none)) ∧
    (((wRingDel (some 0)).flt.fatal = false) ∧
      ((wRingDel (some 0)).linkUp = true) ∧
      (2 ^ 63 % 64 = 0) ∧
      (parseAddr (2 ^ 63) = Loc.host 0) ∧
      ((wRingDel (some 0)).variant.serving = true) ∧
      ((wRingDel (some 0)).isOpen 77 = true) ∧
      ((wRingDel (some 0)).requestOk (2 ^ 63) 32 = true) ∧
      (le ((fun n => (wRingDel (some 0)).fwRead (2 ^ 63) n) 32) 0 4 = 1) ∧
      ((wRingDel (some 0)).ringOf (le ((fun n => (wRingDel (some 0)).fwRead (2 ^ 63) n) 32) 4 4) = some 0) ∧
      (tget (wRingDel (some 0)).rings 0 = some (wRing (some 0))) ∧
      (clearAt ((fun n => (wRingDel (some 0)).fwRead (2 ^ 63) n) 32) [(8, 8)] = true) ∧
      ((wRing (some 0)).bound ≠ none)) ∧
    ((wCancel.flt.fatal = false) ∧
      (wCancel.linkUp = true) ∧
      (2 ^ 63 % 64 = 0) ∧
      (parseAddr (2 ^ 63) = Loc.host 0) ∧
      (wCancel.variant.serving = true) ∧
      (wCancel.isOpen 77 = true) ∧
      (wCancel.requestOk (2 ^ 63) 32 = true) ∧
      (le ((fun n => wCancel.fwRead (2 ^ 63) n) 32) 0 4 = 1) ∧
      (wCancel.reqOf (le ((fun n => wCancel.fwRead (2 ^ 63) n) 32) 4 4) = some 0) ∧
      (tget wCancel.requests 0 = some wReqst) ∧
      (clearAt ((fun n => wCancel.fwRead (2 ^ 63) n) 32) [(8, 8)] = true)) ∧
    (((wRingNew 4).flt.fatal = false) ∧
      ((wRingNew 4).linkUp = true) ∧
      (2 ^ 63 % 64 = 0) ∧
      (parseAddr (2 ^ 63) = Loc.host 0) ∧
      ((wRingNew 4).variant.serving = true) ∧
      ((wRingNew 4).isOpen 77 = true) ∧
      ((wRingNew 4).requestOk (2 ^ 63) 64 = true) ∧
      (le ((fun n => (wRingNew 4).fwRead (2 ^ 63) n) 64) 0 4 = 1) ∧
      ((wRingNew 4).ringHandles.take 8192 =
    some (0, ({ HandleTable.reset with next := 1 } : HandleTable))) ∧
      (parseAddr (le ((fun n => (wRingNew 4).fwRead (2 ^ 63) n) 64) 16 8) = Loc.hbm 0 4194304) ∧
      ((wRingNew 4).requestOk (le ((fun n => (wRingNew 4).fwRead (2 ^ 63) n) 64) 16 8) 4 = true) ∧
      (le ((fun n => (wRingNew 4).fwRead (2 ^ 63) n) 64) 16 8 % 4 = 0) ∧
      (le ((fun n => (wRingNew 4).fwRead (2 ^ 63) n) 64) 4 1 < 16) ∧
      (thas (wRingNew 4).instances (le ((fun n => (wRingNew 4).fwRead (2 ^ 63) n) 64) 4 1) = true) ∧
      (clearAt ((fun n => (wRingNew 4).fwRead (2 ^ 63) n) 64) [(7, 1), (36, 12)] = true) ∧
      (le ((fun n => (wRingNew 4).fwRead (2 ^ 63) n) 64) 5 1 ≤ 1) ∧
      (le ((fun n => (wRingNew 4).fwRead (2 ^ 63) n) 64) 5 1 = 0 →
    (wRingNew 4).requestOk (le ((fun n => (wRingNew 4).fwRead (2 ^ 63) n) 64) 8 8)
        (16 * 2 ^ le ((fun n => (wRingNew 4).fwRead (2 ^ 63) n) 64) 6 1) =
      true) ∧
      (le ((fun n => (wRingNew 4).fwRead (2 ^ 63) n) 64) 5 1 = 1 →
    (wRingNew 4).requestOk (le ((fun n => (wRingNew 4).fwRead (2 ^ 63) n) 64) 24 8) 32 = true) ∧
      (4 ≤ le ((fun n => (wRingNew 4).fwRead (2 ^ 63) n) 64) 6 1) ∧
      (le ((fun n => (wRingNew 4).fwRead (2 ^ 63) n) 64) 6 1 ≤ 16)) ∧
    (((wRingNew 3).flt.fatal = false) ∧
      ((wRingNew 3).linkUp = true) ∧
      (2 ^ 63 % 64 = 0) ∧
      (parseAddr (2 ^ 63) = Loc.host 0) ∧
      ((wRingNew 3).variant.serving = true) ∧
      ((wRingNew 3).isOpen 77 = true) ∧
      ((wRingNew 3).requestOk (2 ^ 63) 64 = true) ∧
      (le ((fun n => (wRingNew 3).fwRead (2 ^ 63) n) 64) 0 4 = 1) ∧
      ((wRingNew 3).ringHandles.take 8192 =
    some (0, ({ HandleTable.reset with next := 1 } : HandleTable))) ∧
      (parseAddr (le ((fun n => (wRingNew 3).fwRead (2 ^ 63) n) 64) 16 8) = Loc.hbm 0 4194304) ∧
      ((wRingNew 3).requestOk (le ((fun n => (wRingNew 3).fwRead (2 ^ 63) n) 64) 16 8) 4 = true) ∧
      (le ((fun n => (wRingNew 3).fwRead (2 ^ 63) n) 64) 16 8 % 4 = 0) ∧
      (le ((fun n => (wRingNew 3).fwRead (2 ^ 63) n) 64) 4 1 < 16) ∧
      (thas (wRingNew 3).instances (le ((fun n => (wRingNew 3).fwRead (2 ^ 63) n) 64) 4 1) = true) ∧
      (clearAt ((fun n => (wRingNew 3).fwRead (2 ^ 63) n) 64) [(7, 1), (36, 12)] = true) ∧
      (le ((fun n => (wRingNew 3).fwRead (2 ^ 63) n) 64) 5 1 ≤ 1) ∧
      (le ((fun n => (wRingNew 3).fwRead (2 ^ 63) n) 64) 5 1 = 0 →
    (wRingNew 3).requestOk (le ((fun n => (wRingNew 3).fwRead (2 ^ 63) n) 64) 8 8)
        (16 * 2 ^ le ((fun n => (wRingNew 3).fwRead (2 ^ 63) n) 64) 6 1) =
      true) ∧
      (le ((fun n => (wRingNew 3).fwRead (2 ^ 63) n) 64) 5 1 = 1 →
    (wRingNew 3).requestOk (le ((fun n => (wRingNew 3).fwRead (2 ^ 63) n) 64) 24 8) 32 = true) ∧
      (le ((fun n => (wRingNew 3).fwRead (2 ^ 63) n) 64) 6 1 < 4 ∨ 16 < le ((fun n => (wRingNew 3).fwRead (2 ^ 63) n) 64) 6 1)) := by
  and_intros <;> decide +kernel

theorem witness_ServingRequestsRun :
    (((wSubmit 1).flt.fatal = false) ∧
      ((wSubmit 1).linkUp = true) ∧
      (tget (wSubmit 1).instances 0 = some wInst) ∧
      ((wSubmit 1).isOpen 77 = true) ∧
      (wInst.submitHead ≠ wInst.submitTail) ∧
      (parseAddr (wInst.d 88 8 + 128 * (BitVec.toNat wInst.submitHead % 2 ^ wInst.d 96 1)) = Loc.host 4096) ∧
      ((wInst.d 88 8 + 128 * (BitVec.toNat wInst.submitHead % 2 ^ wInst.d 96 1)) % 128 = 0) ∧
      (le ((wSubmit 1).fwRead (wInst.d 88 8 + 128 * (BitVec.toNat wInst.submitHead % 2 ^ wInst.d 96 1)) 128) 0 4 = 1) ∧
      ((wSubmit 1).badReq wInst
      ((wSubmit 1).fwRead (wInst.d 88 8 + 128 * (BitVec.toNat wInst.submitHead % 2 ^ wInst.d 96 1)) 128) =
    false) ∧
      ((wSubmit 1).ringOf
      (le ((wSubmit 1).fwRead (wInst.d 88 8 + 128 * (BitVec.toNat wInst.submitHead % 2 ^ wInst.d 96 1)) 128) 40 4) =
    some 0) ∧
      (tget (wSubmit 1).rings 0 = some (wRing none)) ∧
      ((wRing none).inst = 0) ∧
      ((wRing none).bound = none) ∧
      (le ((wSubmit 1).fwRead (wInst.d 88 8 + 128 * (BitVec.toNat wInst.submitHead % 2 ^ wInst.d 96 1)) 128) 24 4 = 0) ∧
      (((wSubmit 1).reqsOf 0).length < wInst.d 16 2) ∧
      ((wSubmit 1).reqHandles.take 8192 =
    some (0, ({ HandleTable.reset with next := 1 } : HandleTable))) ∧
      (wInst.durations = []) ∧
      ((wSubmit 1).published = [] ∨
    bitAt (le ((wSubmit 1).fwRead (wInst.d 88 8 + 128 * (BitVec.toNat wInst.submitHead % 2 ^ wInst.d 96 1)) 128) 6 1) 1 =
      true) ∧
      ((if le ((wSubmit 1).fwRead (wInst.d 88 8 + 128 * (BitVec.toNat wInst.submitHead % 2 ^ wInst.d 96 1)) 128) 4 1 = 1 then
      ceilDiv
          (le ((wSubmit 1).fwRead (wInst.d 88 8 + 128 * (BitVec.toNat wInst.submitHead % 2 ^ wInst.d 96 1)) 128) 16 4 +
            le ((wSubmit 1).fwRead (wInst.d 88 8 + 128 * (BitVec.toNat wInst.submitHead % 2 ^ wInst.d 96 1)) 128) 20 4)
          16 +
        b2n
          (bitAt
            (le ((wSubmit 1).fwRead (wInst.d 88 8 + 128 * (BitVec.toNat wInst.submitHead % 2 ^ wInst.d 96 1)) 128) 6 1) 2)
    else
      ceilDiv (le ((wSubmit 1).fwRead (wInst.d 88 8 + 128 * (BitVec.toNat wInst.submitHead % 2 ^ wInst.d 96 1)) 128) 16 4)
          16 +
        1) ≤
    wInst.free.length)) ∧
    (((wSubmit 2).flt.fatal = false) ∧
      ((wSubmit 2).linkUp = true) ∧
      (tget (wSubmit 2).instances 0 = some wInst) ∧
      ((wSubmit 2).isOpen 77 = true) ∧
      (wInst.submitHead ≠ wInst.submitTail) ∧
      (parseAddr (wInst.d 88 8 + 128 * (BitVec.toNat wInst.submitHead % 2 ^ wInst.d 96 1)) = Loc.host 4096) ∧
      ((wInst.d 88 8 + 128 * (BitVec.toNat wInst.submitHead % 2 ^ wInst.d 96 1)) % 128 = 0) ∧
      (le ((wSubmit 2).fwRead (wInst.d 88 8 + 128 * (BitVec.toNat wInst.submitHead % 2 ^ wInst.d 96 1)) 128) 0 4 ≠ 1)) ∧
    ((wQuiet.flt.fatal = false) ∧
      (wQuiet.linkUp = true) ∧
      (tget wQuiet.instances 0 = some wBusyInst) ∧
      (wQuiet.isOpen 77 = true) ∧
      (wBusyInst.inStep = false) ∧
      (wQuiet.reqsOf 0 = [])) ∧
    (((wBoundary wReqst).flt.fatal = false) ∧
      ((wBoundary wReqst).linkUp = true) ∧
      (tget (wBoundary wReqst).instances 0 = some wBusyInst) ∧
      ((wBoundary wReqst).isOpen 77 = true) ∧
      (wBusyInst.inStep = false) ∧
      (List.Pairwise (fun p q => p.1 < q.1) (wBoundary wReqst).requests) ∧
      ((wBoundary wReqst).reqsOf 0 = [0]) ∧
      (tget (wBoundary wReqst).requests 0 = some wReqst) ∧
      (wReqst.inst = 0) ∧
      (wReqst.outbox = []) ∧
      (wReqst.state = ReqState.queued) ∧
      (wReqst.cancelled = false) ∧
      (wReqst.generated = 0) ∧
      (wReqst.late (wBoundary wReqst).srvTime = false) ∧
      (wReqst.fed < wReqst.len) ∧
      (1 ≤ wBusyInst.maxSeqs) ∧
      (1 ≤ wBusyInst.stepTokens) ∧
      (ceilDiv (wReqst.fed + (wReqst.len - wReqst.fed).min wBusyInst.stepTokens) 16 - wReqst.units.length ≤
    wReqst.reserved.length)) ∧
    (((wBoundary wLateReq).flt.fatal = false) ∧
      ((wBoundary wLateReq).linkUp = true) ∧
      (tget (wBoundary wLateReq).instances 0 = some wBusyInst) ∧
      ((wBoundary wLateReq).isOpen 77 = true) ∧
      (wBusyInst.inStep = false) ∧
      (List.Pairwise (fun p q => p.1 < q.1) (wBoundary wLateReq).requests) ∧
      ((wBoundary wLateReq).reqsOf 0 = [0]) ∧
      (tget (wBoundary wLateReq).requests 0 = some wLateReq) ∧
      (wLateReq.inst = 0) ∧
      (wLateReq.outbox = []) ∧
      (wLateReq.state = ReqState.queued) ∧
      (wLateReq.cancelled = false) ∧
      (wLateReq.generated = 0) ∧
      (wLateReq.late (wBoundary wLateReq).srvTime = true) ∧
      (wLateReq.runsLate = false) ∧
      (tget (wBoundary wLateReq).rings wLateReq.ring = some (wRing (some 0))) ∧
      ((wRing (some 0)).lost = false)) ∧
    (((wPass 1 0).flt.fatal = false) ∧
      ((wPass 1 0).linkUp = true) ∧
      (tget (wPass 1 0).instances 0 = some (wStepping 1 0)) ∧
      ((wPass 1 0).isOpen 77 = true) ∧
      ((wStepping 1 0).inStep = true) ∧
      (BitVec.toInt
      (((wPass 1 0).ctx (State.passCtx (wStepping 1 0))).sync.getD ((wStepping 1 0).d 23 1) 0 - (wStepping 1 0).doneAt) <
    0)) ∧
    (((wPass 0 1).flt.fatal = false) ∧
      ((wPass 0 1).linkUp = true) ∧
      (tget (wPass 0 1).instances 0 = some (wStepping 0 1)) ∧
      ((wPass 0 1).isOpen 77 = true) ∧
      ((wStepping 0 1).inStep = true) ∧
      (0 ≤
    BitVec.toInt
      (((wPass 0 1).ctx (State.passCtx (wStepping 0 1))).sync.getD ((wStepping 0 1).d 23 1) 0 - (wStepping 0 1).doneAt)) ∧
      ((wStepping 0 1).passIndex < (wStepping 0 1).drafts)) ∧
    (((wPass 0 0).flt.fatal = false) ∧
      ((wPass 0 0).linkUp = true) ∧
      (tget (wPass 0 0).instances 0 = some (wStepping 0 0)) ∧
      ((wPass 0 0).isOpen 77 = true) ∧
      ((wStepping 0 0).inStep = true) ∧
      (0 ≤
    BitVec.toInt
      (((wPass 0 0).ctx (State.passCtx (wStepping 0 0))).sync.getD ((wStepping 0 0).d 23 1) 0 - (wStepping 0 0).doneAt)) ∧
      ((wStepping 0 0).drafts ≤ (wStepping 0 0).passIndex)) ∧
    (((wPeer true).flt.fatal = false) ∧
      ((wPeer true).linkUp = true) ∧
      (tget (wPeer true).rings 0 = some (wPeerRing true)) ∧
      ((wPeerRing true).peer = true) ∧
      ((wPeerRing true).lost = false)) ∧
    (((wPeer false).flt.fatal = false) ∧
      ((wPeer false).linkUp = true) ∧
      (tget (wPeer false).rings 0 = some (wPeerRing false)) ∧
      ((wPeerRing false).peer = false)) := by
  and_intros <;> decide +kernel

theorem witness_GroupsFormAndStep :
    (((wGroup 0).flt.fatal = false) ∧
      ((wGroup 0).inGroup = true) ∧
      ((wGroup 0).isMaster = true) ∧
      ((wGroup 0).member (wHello 0 5).member = some (wReplica 2)) ∧
      ((wHello 0 5).groupId = (wGroup 0).net.groupId) ∧
      ((wHello 0 5).term = (wGroup 0).net.term) ∧
      ((wHello 0 5).protoMax < (wGroup 0).net.protoMin)) ∧
    (((wGroup 0).flt.fatal = false) ∧
      ((wGroup 0).inGroup = true) ∧
      ((wGroup 0).isMaster = true) ∧
      ((wGroup 0).member (wHello 2 4).member = some (wReplica 2)) ∧
      ((wHello 2 4).groupId = (wGroup 0).net.groupId) ∧
      ((wHello 2 4).term = (wGroup 0).net.term) ∧
      ((wGroup 0).net.protoMin ≤ (wHello 2 4).protoMax) ∧
      ((wHello 2 4).gen ≠ (wGroup 0).net.gen)) ∧
    (((wForming 1).flt.fatal = false) ∧
      ((wForming 1).inGroup = true) ∧
      ((wForming 1).net.state = GroupState.forming) ∧
      ((wForming 1).isMaster = false) ∧
      (0 = 0) ∧
      ((wForming 1).member (wForming 1).net.master = some (wReplica 0))) ∧
    (((wForming 1).flt.fatal = false) ∧
      ((wForming 1).inGroup = true) ∧
      ((wForming 1).net.state = GroupState.forming) ∧
      ((wForming 1).isMaster = false) ∧
      (4 ≠ 0)) ∧
    ((wOldProto.flt.fatal = false) ∧
      (wOldProto.inGroup = true) ∧
      (wOldProto.isMaster = true) ∧
      (wOldProto.net.state = GroupState.forming) ∧
      (wOldProto.groupVersion < wOldProto.net.protoMin)) ∧
    (((wForming 0).flt.fatal = false) ∧
      ((wForming 0).inGroup = true) ∧
      ((wForming 0).isMaster = true) ∧
      ((wForming 0).net.state = GroupState.forming) ∧
      ((wForming 0).net.protoMin ≤ (wForming 0).groupVersion) ∧
      ((List.all (wForming 0).net.members fun p => p.2.role == 2 || p.2.state == 1) = true)) ∧
    ((wNoIngest.flt.fatal = false) ∧
      (wNoIngest.inGroup = true) ∧
      (wNoIngest.isMaster = true) ∧
      (wNoIngest.net.state = GroupState.forming) ∧
      (wNoIngest.net.protoMin ≤ wNoIngest.groupVersion) ∧
      (List.filter (fun p => p.2.role != 2 && p.2.state == 0) wNoIngest.net.members = [(2, wMember 1 0)]) ∧
      (wNoIngest.member 2 = some (wMember 1 0)) ∧
      ((wMember 1 0).role = 1) ∧
      (2 ≠ wNoIngest.net.self) ∧
      (wNoIngest.standby = none) ∧
      (wNoIngest.net.sentToDeputy = false)) ∧
    ((wReported.flt.fatal = false) ∧
      (wReported.inGroup = true) ∧
      (wReported.member 2 = some (wReplica 2)) ∧
      (wReported.isMaster = true) ∧
      (wReported.net.state = GroupState.running) ∧
      (wReported.net.sentToDeputy = false) ∧
      (wReported.net.stopped = false) ∧
      (wReported.net.holdFor = none) ∧
      ((wReported.computeMembers.all fun n =>
      (List.filter (fun p : Nat × Word => p.1 != 2) wReported.net.reports ++
            [(2, (Option.map (fun x : Nat × Word => x.2) (List.find? (fun p : Nat × Word => p.1 == 2) wReported.net.reports)).getD 0 ||| 0)]).any
        fun p => p.1 == n) =
    true) ∧
      ((wReported.computeMembers.all fun n => n == 2 || !(wReported.member n).any (·.paused)) = true) ∧
      ((wReplica 2).paused = false)) ∧
    (((wAsks [(0, 0), (1, 0), (2, 1), (3, 0)]).flt.fatal = false) ∧
      ((wAsks [(0, 0), (1, 0), (2, 1), (3, 0)]).inGroup = true) ∧
      ((wAsks [(0, 0), (1, 0), (2, 1), (3, 0)]).member 2 = some { wReplica 2 with paused := true }) ∧
      ((wAsks [(0, 0), (1, 0), (2, 1), (3, 0)]).isMaster = true) ∧
      ((wAsks [(0, 0), (1, 0), (2, 1), (3, 0)]).net.state = GroupState.running) ∧
      ((wAsks [(0, 0), (1, 0), (2, 1), (3, 0)]).net.sentToDeputy = false) ∧
      ((wAsks [(0, 0), (1, 0), (2, 1), (3, 0)]).net.stopped = false) ∧
      ((wAsks [(0, 0), (1, 0), (2, 1), (3, 0)]).net.holdFor = none) ∧
      (((wAsks [(0, 0), (1, 0), (2, 1), (3, 0)]).computeMembers.all fun n =>
        (wAsks [(0, 0), (1, 0), (2, 1), (3, 0)]).net.reports.any fun p => p.1 == n) = true) ∧
      (((wAsks [(0, 0), (1, 0), (2, 1), (3, 0)]).computeMembers.all fun n =>
        n == 2 || !((wAsks [(0, 0), (1, 0), (2, 1), (3, 0)]).member n).any (·.paused)) = true)) ∧
    (((wAsks []).flt.fatal = false) ∧
      ((wAsks []).inGroup = true) ∧
      ((wAsks []).member 2 = some { wReplica 2 with paused := true }) ∧
      ((wAsks []).isMaster = true) ∧
      ((wAsks []).net.state = GroupState.running) ∧
      ((wAsks []).net.sentToDeputy = false) ∧
      ((wAsks []).net.stopped = false) ∧
      ((wAsks []).net.holdFor = none) ∧
      (((wAsks []).net.reports.any fun p => p.1 == 2) = false) ∧
      ((wReplica 2).role = 0) ∧
      ((wReplica 2).state = 1)) ∧
    (((wGroup 0).flt.fatal = false) ∧
      ((wGroup 0).inGroup = true) ∧
      ((wGroup 0).member 2 = some (wReplica 2)) ∧
      ((wGroup 0).isMaster = true) ∧
      ((wGroup 0).net.state = GroupState.running) ∧
      ((wGroup 0).net.sentToDeputy = false) ∧
      ((wGroup 0).net.stopped = false) ∧
      ((wGroup 0).net.holdFor = none) ∧
      (((wGroup 0).computeMembers.all fun n =>
      (List.filter (fun p : Nat × Word => p.1 != 2) (wGroup 0).net.reports ++
            [(2, (Option.map (fun x : Nat × Word => x.2) (List.find? (fun p : Nat × Word => p.1 == 2) (wGroup 0).net.reports)).getD 0 ||| 0)]).any
        fun p => p.1 == n) =
    false) ∧
      ((wReplica 2).paused = false)) ∧
    ((wSent.flt.fatal = false) ∧
      (wSent.inGroup = true) ∧
      (wSent.isMaster = true) ∧
      (wSent.net.record = some (wRec 3 5 8)) ∧
      (wSent.net.sentToDeputy = true) ∧
      ((wRec 3 5 8).step = 8) ∧
      (wSent.net.unsettled = []) ∧
      (wSent.ckp.replay = none)) ∧
    ((wSent.flt.fatal = false) ∧
      (wSent.inGroup = true) ∧
      (wSent.isMaster = true) ∧
      (wSent.net.record = some (wRec 3 5 8)) ∧
      ((wRec 3 5 8).step ≠ 9)) ∧
    (((wGroup 1).flt.fatal = false) ∧
      ((wGroup 1).inGroup = true) ∧
      ((wGroup 1).isMaster = false) ∧
      ((wRec 2 5 8).term < (wGroup 1).net.term)) ∧
    (((wGroup 1).flt.fatal = false) ∧
      ((wGroup 1).inGroup = true) ∧
      ((wGroup 1).isMaster = false) ∧
      ((wGroup 1).net.term ≤ (wRec 3 5 8).term) ∧
      ((wGroup 1).net.record = none) ∧
      ((wRec 3 5 8).notices = []) ∧
      ((wGroup 1).ckp.replay = none)) ∧
    ((wReported.flt.fatal = false) ∧
      (wReported.inGroup = true) ∧
      (wReported.net.state = GroupState.running) ∧
      (wReported.member 2 = some (wReplica 2)) ∧
      (wReported.isMaster = true) ∧
      (2 ≠ wReported.net.self)) ∧
    ((wReported.flt.fatal = false) ∧
      (wReported.inGroup = true) ∧
      (wReported.net.state = GroupState.running) ∧
      (wReported.member 3 = some (wReplica 3)) ∧
      (wReported.isMaster = true) ∧
      (3 ≠ wReported.net.self) ∧
      ((wReported.net.reports.any fun p => p.1 == 3) = true)) ∧
    ((wWantsPause.flt.fatal = false) ∧
      (wWantsPause.inGroup = true) ∧
      (wWantsPause.net.state = GroupState.running) ∧
      (wWantsPause.member 2 = some (wReplica 2)) ∧
      (2 = wWantsPause.net.self) ∧
      (wWantsPause.boot.pauseAsked = true) ∧
      ((List.any wWantsPause.contexts fun p => p.2.queues.any fun q => q.stepGate) = true)) ∧
    ((wAtStep.flt.fatal = false) ∧
      (wAtStep.inGroup = true) ∧
      (wAtStep.net.state = GroupState.running) ∧
      (wAtStep.member 2 = some (wReplica 2)) ∧
      (2 = wAtStep.net.self) ∧
      (wAtStep.boot.pauseAsked = false) ∧
      (wAtStep.isMaster = false) ∧
      ((List.any wAtStep.contexts fun p => p.2.queues.any fun q => q.stepGate) = true)) ∧
    (((wGroup 0).flt.fatal = false) ∧
      ((wGroup 0).inGroup = true) ∧
      (2 < (wGroup 0).net.term) ∧
      (wOldHello.term = 2)) ∧
    (((wGroup 0).flt.fatal = false) ∧
      ((wGroup 0).inGroup = true) ∧
      (2 < (wGroup 0).net.term)) ∧
    (((wGroup 0).flt.fatal = false) ∧
      ((wGroup 0).inGroup = true) ∧
      (2 < (wGroup 0).net.term)) ∧
    (((wGroup 0).flt.fatal = false) ∧
      ((wGroup 0).inGroup = true) ∧
      (2 < (wGroup 0).net.term)) ∧
    (((wGroup 0).flt.fatal = false) ∧
      ((wGroup 0).inGroup = true) ∧
      (2 < (wGroup 0).net.term)) := by
  and_intros <;> decide +kernel

theorem witness_GroupsSurviveLosses :
    ((wSent.flt.fatal = false) ∧
      (wSent.inGroup = true) ∧
      (wSent.isMaster = true)) ∧
    ((wAtStep.flt.fatal = false) ∧
      (wAtStep.inGroup = true) ∧
      (wAtStep.isMaster = false) ∧
      (wAtStep.net.deputy ≠ wAtStep.net.self) ∧
      (wAtStep.net.deputy ≠ wAtStep.net.master)) ∧
    ((wMissed.flt.fatal = false) ∧
      (wMissed.inGroup = true) ∧
      (wMissed.member 3 = some (wReplica 3)) ∧
      (0 < wMissed.net.term)) ∧
    (((wGroup 2).flt.fatal = false) ∧
      ((wGroup 2).inGroup = true) ∧
      ((wGroup 2).member 0 = some (wReplica 0)) ∧
      ((wGroup 2).net.term ≤ 3) ∧
      ((wGroup 2).isMaster = false)) ∧
    ((wMissed.flt.fatal = false) ∧
      (wMissed.inGroup = true) ∧
      (wMissed.member 3 = some (wReplica 3)) ∧
      (wMissed.net.term < 7) ∧
      (wMissed.isMaster = true) ∧
      (wMissed.net.deputy ≠ wMissed.net.self)) ∧
    ((wStopped.flt.fatal = false) ∧
      (wStopped.inGroup = true) ∧
      (wStopped.member 2 = some (wReplica 2)) ∧
      (3 = wStopped.net.term) ∧
      (wStopped.isMaster = true) ∧
      (wStopped.net.stopped = true) ∧
      (wStopped.net.sentToDeputy = true) ∧
      (2 *
      ((List.filter (fun m => m != 2 && m != wStopped.net.self && Option.any (fun x => x.missed) (wStopped.member m))
            wStopped.computeMembers).length +
        wStopped.lostUntold.length) ≤
    wStopped.computeMembers.length + wStopped.lostUntold.length)) ∧
    (((wGroup 2).flt.fatal = false) ∧
      ((wGroup 2).inGroup = true) ∧
      ((wGroup 2).member 0 = some (wReplica 0)) ∧
      ((wReplica 0).paused = false) ∧
      (0 ≠ (wGroup 2).net.self) ∧
      ((wGroup 2).isMaster = false) ∧
      (0 = (wGroup 2).net.master) ∧
      ((wGroup 2).net.deputy ≠ (wGroup 2).net.self)) ∧
    ((wMissed.flt.fatal = false) ∧
      (wMissed.inGroup = true) ∧
      (wMissed.member 3 = some (wReplica 3)) ∧
      ((wReplica 3).paused = false) ∧
      (3 ≠ wMissed.net.self) ∧
      (wMissed.isMaster = true) ∧
      (wMissed.computeMembers.length + wMissed.lostUntold.length <
    2 *
      ((List.filter (fun m => m != wMissed.net.self && (m == 3 || Option.any (fun x => x.missed) (wMissed.member m)))
            wMissed.computeMembers).length +
        wMissed.lostUntold.length))) ∧
    ((wSent.flt.fatal = false) ∧
      (wSent.inGroup = true) ∧
      (wSent.member 2 = some (wReplica 2)) ∧
      ((wReplica 2).paused = false) ∧
      (2 ≠ wSent.net.self) ∧
      (wSent.isMaster = true) ∧
      (2 *
      ((List.filter (fun m => m != wSent.net.self && (m == 2 || Option.any (fun x => x.missed) (wSent.member m)))
            wSent.computeMembers).length +
        wSent.lostUntold.length) ≤
    wSent.computeMembers.length + wSent.lostUntold.length) ∧
      ((wReplica 2).role = 0) ∧
      ((wReplica 2).state = 1) ∧
      (2 ≠ wSent.net.deputy) ∧
      (wSent.net.sentToDeputy = true) ∧
      (wSent.net.record = some (wRec 3 5 8))) ∧
    ((wStepRec.flt.fatal = false) ∧
      (wStepRec.inGroup = true) ∧
      (wStepRec.member 2 = some (wReplica 2)) ∧
      ((wReplica 2).paused = false) ∧
      (2 ≠ wStepRec.net.self) ∧
      (wStepRec.isMaster = true) ∧
      (2 *
      ((List.filter (fun m => m != wStepRec.net.self && (m == 2 || Option.any (fun x => x.missed) (wStepRec.member m)))
            wStepRec.computeMembers).length +
        wStepRec.lostUntold.length) ≤
    wStepRec.computeMembers.length + wStepRec.lostUntold.length) ∧
      ((wReplica 2).role = 0) ∧
      ((wReplica 2).state = 1) ∧
      (wStepRec.standby = none) ∧
      (wStepRec.net.stages ≤ 1) ∧
      (wStepRec.net.sentToDeputy = false) ∧
      (2 ≠ wStepRec.net.deputy)) ∧
    ((wMissed.flt.fatal = false) ∧
      (wMissed.inGroup = true) ∧
      (wMissed.member 3 = some (wReplica 3)) ∧
      (0 < wMissed.net.term)) ∧
    (((wDeputy [1, 3]).flt.fatal = false) ∧
      ((wDeputy [1, 3]).inGroup = true) ∧
      ((wDeputy [1, 3]).member 2 = some (wReplica 2)) ∧
      ((wDeputy [1, 3]).net.term ≤ 3) ∧
      ((wDeputy [1, 3]).net.self = (wDeputy [1, 3]).net.deputy) ∧
      ((wDeputy [1, 3]).isMaster = false) ∧
      ((wDeputy [1, 3]).net.state ≠ GroupState.failover) ∧
      ((wDeputy [1, 3]).net.misses.contains 2 = false) ∧
      ((wDeputy [1, 3]).computeMembers.length <
    2 * (List.filter (fun c => c == 2 || (wDeputy [1, 3]).net.misses.contains c) (wDeputy [1, 3]).computeMembers).length)) ∧
    (((wDeputy []).flt.fatal = false) ∧
      ((wDeputy []).inGroup = true) ∧
      ((wDeputy []).member 2 = some (wReplica 2)) ∧
      ((wDeputy []).net.term ≤ 3) ∧
      ((wDeputy []).net.self = (wDeputy []).net.deputy) ∧
      ((wDeputy []).isMaster = false) ∧
      ((wDeputy []).net.state ≠ GroupState.failover) ∧
      ((wDeputy []).net.misses.contains 2 = false) ∧
      (2 * (List.filter (fun c => c == 2 || (wDeputy []).net.misses.contains c) (wDeputy []).computeMembers).length ≤
    (wDeputy []).computeMembers.length)) ∧
    (((wGroup 2).flt.fatal = false) ∧
      ((wGroup 2).inGroup = true) ∧
      (2 < (wGroup 2).net.term)) ∧
    (((wGroup 2).flt.fatal = false) ∧
      ((wGroup 2).inGroup = true) ∧
      (3 = (wGroup 2).net.term) ∧
      ((wGroup 2).net.master = 0 ∨ (wGroup 2).net.self = 0)) ∧
    ((wAtStep.flt.fatal = false) ∧
      (wAtStep.inGroup = true) ∧
      (wAtStep.net.term < 3 ∨ 3 = wAtStep.net.term ∧ wAtStep.net.master ≠ 1 ∧ wAtStep.net.self ≠ 1)) ∧
    (((wFailover [(1, 7)]).flt.fatal = false) ∧
      ((wFailover [(1, 7)]).inGroup = true) ∧
      ((wFailover [(1, 7)]).net.state = GroupState.failover) ∧
      ((wFailover [(1, 7)]).net.self = (wFailover [(1, 7)]).net.deputy) ∧
      (2 *
      (List.filter
          (fun c => (List.filter (fun a : Nat × Word => a.1 != 2) (wFailover [(1, 7)]).net.answers ++ [(2, 7)]).any fun a => a.1 == c)
          (wFailover [(1, 7)]).computeMembers).length ≤
    (wFailover [(1, 7)]).computeMembers.length)) ∧
    (((wFailover [(1, 7), (2, 6)]).flt.fatal = false) ∧
      ((wFailover [(1, 7), (2, 6)]).inGroup = true) ∧
      ((wFailover [(1, 7), (2, 6)]).net.state = GroupState.failover) ∧
      ((wFailover [(1, 7), (2, 6)]).net.self = (wFailover [(1, 7), (2, 6)]).net.deputy) ∧
      ((wFailover [(1, 7), (2, 6)]).computeMembers.length <
    2 *
      (List.filter
          (fun c =>
            (List.filter (fun a : Nat × Word => a.1 != 3) (wFailover [(1, 7), (2, 6)]).net.answers ++ [(3, 7)]).any fun a => a.1 == c)
          (wFailover [(1, 7), (2, 6)]).computeMembers).length)) ∧
    (((wFailover [(1, 7)]).flt.fatal = false) ∧
      ((wFailover [(1, 7)]).inGroup = true) ∧
      ((wFailover [(1, 7)]).net.state = GroupState.failover ∨
    Option.any (fun x => x.missed) ((wFailover [(1, 7)]).member (wFailover [(1, 7)]).net.master) = true)) := by
  and_intros <;> decide +kernel

theorem witness_CollectivesRun :
    ((wCollWait.flt.fatal = false) ∧
      (wCollWait.isOpen 76 = true) ∧
      ((wCollWait.ctx 0).ringLog2 ≠ 0) ∧
      ((wCollWait.ctx 0).state ≠ CtxState.free) ∧
      ((wCollWait.ctx 0).state ≠ CtxState.teardown) ∧
      ((wCollWait.ctx 0).ringHead + BitVec.ofNat 32 (List.filter (fun y => y.ctx == 0) wCollWait.collectives).length ≠
    (wCollWait.ctx 0).ringTail) ∧
      (wCollWait.ctxOf
      (le
        (wCollWait.collEntry 0
          ((wCollWait.ctx 0).ringHead + BitVec.ofNat 32 (List.filter (fun y => y.ctx == 0) wCollWait.collectives).length))
        4 4) =
    some 0) ∧
      (BitVec.toInt
      ((wCollWait.ctx 0).sync.getD
          (fld
            (le
              (wCollWait.collEntry 0
                ((wCollWait.ctx 0).ringHead +
                  BitVec.ofNat 32 (List.filter (fun y => y.ctx == 0) wCollWait.collectives).length))
              40 1)
            2 0)
          0 -
        BitVec.ofNat 32
          (le
            (wCollWait.collEntry 0
              ((wCollWait.ctx 0).ringHead +
                BitVec.ofNat 32 (List.filter (fun y => y.ctx == 0) wCollWait.collectives).length))
            44 4)) <
    0)) ∧
    ((wCollBad.flt.fatal = false) ∧
      (wCollBad.isOpen 76 = true) ∧
      ((wCollBad.ctx 0).ringLog2 ≠ 0) ∧
      ((wCollBad.ctx 0).state ≠ CtxState.free) ∧
      ((wCollBad.ctx 0).state ≠ CtxState.teardown) ∧
      ((wCollBad.ctx 0).ringHead + BitVec.ofNat 32 (List.filter (fun y => y.ctx == 0) wCollBad.collectives).length ≠
    (wCollBad.ctx 0).ringTail) ∧
      (wCollBad.ctxOf
      (le
        (wCollBad.collEntry 0
          ((wCollBad.ctx 0).ringHead + BitVec.ofNat 32 (List.filter (fun y => y.ctx == 0) wCollBad.collectives).length))
        4 4) =
    some 0) ∧
      (0 ≤
    BitVec.toInt
      ((wCollBad.ctx 0).sync.getD
          (fld
            (le
              (wCollBad.collEntry 0
                ((wCollBad.ctx 0).ringHead +
                  BitVec.ofNat 32 (List.filter (fun y => y.ctx == 0) wCollBad.collectives).length))
              40 1)
            2 0)
          0 -
        BitVec.ofNat 32
          (le
            (wCollBad.collEntry 0
              ((wCollBad.ctx 0).ringHead +
                BitVec.ofNat 32 (List.filter (fun y => y.ctx == 0) wCollBad.collectives).length))
            44 4))) ∧
      (le
      (wCollBad.collEntry 0
        ((wCollBad.ctx 0).ringHead + BitVec.ofNat 32 (List.filter (fun y => y.ctx == 0) wCollBad.collectives).length))
      0 4 =
    1) ∧
      (wCollBad.groupV1 = false) ∧
      (wCollBad.collClean 0
      (wCollBad.collEntry 0
        ((wCollBad.ctx 0).ringHead + BitVec.ofNat 32 (List.filter (fun y => y.ctx == 0) wCollBad.collectives).length)) =
    false)) ∧
    ((wCollPeers.flt.fatal = false) ∧
      (wCollPeers.isOpen 76 = true) ∧
      ((wCollPeers.ctx 0).ringLog2 ≠ 0) ∧
      ((wCollPeers.ctx 0).state ≠ CtxState.free) ∧
      ((wCollPeers.ctx 0).state ≠ CtxState.teardown) ∧
      ((wCollPeers.ctx 0).ringHead + BitVec.ofNat 32 (List.filter (fun y => y.ctx == 0) wCollPeers.collectives).length ≠
    (wCollPeers.ctx 0).ringTail) ∧
      (wCollPeers.ctxOf
      (le
        (wCollPeers.collEntry 0
          ((wCollPeers.ctx 0).ringHead +
            BitVec.ofNat 32 (List.filter (fun y => y.ctx == 0) wCollPeers.collectives).length))
        4 4) =
    some 0) ∧
      (0 ≤
    BitVec.toInt
      ((wCollPeers.ctx 0).sync.getD
          (fld
            (le
              (wCollPeers.collEntry 0
                ((wCollPeers.ctx 0).ringHead +
                  BitVec.ofNat 32 (List.filter (fun y => y.ctx == 0) wCollPeers.collectives).length))
              40 1)
            2 0)
          0 -
        BitVec.ofNat 32
          (le
            (wCollPeers.collEntry 0
              ((wCollPeers.ctx 0).ringHead +
                BitVec.ofNat 32 (List.filter (fun y => y.ctx == 0) wCollPeers.collectives).length))
            44 4))) ∧
      (le
      (wCollPeers.collEntry 0
        ((wCollPeers.ctx 0).ringHead + BitVec.ofNat 32 (List.filter (fun y => y.ctx == 0) wCollPeers.collectives).length))
      0 4 =
    1) ∧
      (wCollPeers.groupV1 = false) ∧
      (wCollPeers.collClean 0
      (wCollPeers.collEntry 0
        ((wCollPeers.ctx 0).ringHead +
          BitVec.ofNat 32 (List.filter (fun y => y.ctx == 0) wCollPeers.collectives).length)) =
    true) ∧
      (((wCollPeers.collOthers
          (wCollPeers.collEntry 0
            ((wCollPeers.ctx 0).ringHead +
              BitVec.ofNat 32 (List.filter (fun y => y.ctx == 0) wCollPeers.collectives).length))).all
      fun m => (State.tagged (wCollPeers.ctx 0).ringTag []).any fun p => p.1 == m) =
    false)) ∧
    ((wCollPeers.flt.fatal = false) ∧
      (wCollPeers.isOpen 76 = true) ∧
      ((wCollPeers.ctx 0).ringLog2 ≠ 0) ∧
      ((wCollPeers.ctx 0).state ≠ CtxState.free) ∧
      ((wCollPeers.ctx 0).state ≠ CtxState.teardown) ∧
      ((wCollPeers.ctx 0).ringHead + BitVec.ofNat 32 (List.filter (fun y => y.ctx == 0) wCollPeers.collectives).length ≠
    (wCollPeers.ctx 0).ringTail) ∧
      (wCollPeers.ctxOf
      (le
        (wCollPeers.collEntry 0
          ((wCollPeers.ctx 0).ringHead +
            BitVec.ofNat 32 (List.filter (fun y => y.ctx == 0) wCollPeers.collectives).length))
        4 4) =
    some 0) ∧
      (0 ≤
    BitVec.toInt
      ((wCollPeers.ctx 0).sync.getD
          (fld
            (le
              (wCollPeers.collEntry 0
                ((wCollPeers.ctx 0).ringHead +
                  BitVec.ofNat 32 (List.filter (fun y => y.ctx == 0) wCollPeers.collectives).length))
              40 1)
            2 0)
          0 -
        BitVec.ofNat 32
          (le
            (wCollPeers.collEntry 0
              ((wCollPeers.ctx 0).ringHead +
                BitVec.ofNat 32 (List.filter (fun y => y.ctx == 0) wCollPeers.collectives).length))
            44 4))) ∧
      (le
      (wCollPeers.collEntry 0
        ((wCollPeers.ctx 0).ringHead + BitVec.ofNat 32 (List.filter (fun y => y.ctx == 0) wCollPeers.collectives).length))
      0 4 =
    1) ∧
      (wCollPeers.groupV1 = false) ∧
      (wCollPeers.collClean 0
      (wCollPeers.collEntry 0
        ((wCollPeers.ctx 0).ringHead +
          BitVec.ofNat 32 (List.filter (fun y => y.ctx == 0) wCollPeers.collectives).length)) =
    true) ∧
      (((wCollPeers.collOthers
          (wCollPeers.collEntry 0
            ((wCollPeers.ctx 0).ringHead +
              BitVec.ofNat 32 (List.filter (fun y => y.ctx == 0) wCollPeers.collectives).length))).all
      fun m => (State.tagged (wCollPeers.ctx 0).ringTag (wRings (wColl 0 1))).any fun p => p.1 == m) =
    true) ∧
      (((wCollPeers.collOthers
          (wCollPeers.collEntry 0
            ((wCollPeers.ctx 0).ringHead +
              BitVec.ofNat 32 (List.filter (fun y => y.ctx == 0) wCollPeers.collectives).length))).all
      fun m =>
      (List.filter (fun p => p.1 == m) (State.tagged (wCollPeers.ctx 0).ringTag (wRings (wColl 0 1)))).all fun p =>
        collAgrees
          (wCollPeers.collEntry 0
            ((wCollPeers.ctx 0).ringHead +
              BitVec.ofNat 32 (List.filter (fun y => y.ctx == 0) wCollPeers.collectives).length))
          p.2) =
    true) ∧
      (wCollPeers.accessFenced 0
      (collSrc
        (wCollPeers.collEntry 0
          ((wCollPeers.ctx 0).ringHead +
            BitVec.ofNat 32 (List.filter (fun y => y.ctx == 0) wCollPeers.collectives).length)))
      (wCollPeers.collBytes
          (wCollPeers.collEntry 0
            ((wCollPeers.ctx 0).ringHead +
              BitVec.ofNat 32 (List.filter (fun y => y.ctx == 0) wCollPeers.collectives).length))).1 =
    none) ∧
      (wCollPeers.accessFenced 0
      (collDst
        (wCollPeers.collEntry 0
          ((wCollPeers.ctx 0).ringHead +
            BitVec.ofNat 32 (List.filter (fun y => y.ctx == 0) wCollPeers.collectives).length)))
      (wCollPeers.collBytes
          (wCollPeers.collEntry 0
            ((wCollPeers.ctx 0).ringHead +
              BitVec.ofNat 32 (List.filter (fun y => y.ctx == 0) wCollPeers.collectives).length))).2 =
    none) ∧
      ((wCollPeers.collBytes
          (wCollPeers.collEntry 0
            ((wCollPeers.ctx 0).ringHead +
              BitVec.ofNat 32 (List.filter (fun y => y.ctx == 0) wCollPeers.collectives).length))).1 ≠
      0 →
    wCollPeers.accessOk (wCollPeers.ctx 0).ptn 0
        (collSrc
          (wCollPeers.collEntry 0
            ((wCollPeers.ctx 0).ringHead +
              BitVec.ofNat 32 (List.filter (fun y => y.ctx == 0) wCollPeers.collectives).length)))
        (wCollPeers.collBytes
            (wCollPeers.collEntry 0
              ((wCollPeers.ctx 0).ringHead +
                BitVec.ofNat 32 (List.filter (fun y => y.ctx == 0) wCollPeers.collectives).length))).1
        false false =
      true) ∧
      ((wCollPeers.collBytes
          (wCollPeers.collEntry 0
            ((wCollPeers.ctx 0).ringHead +
              BitVec.ofNat 32 (List.filter (fun y => y.ctx == 0) wCollPeers.collectives).length))).2 ≠
      0 →
    wCollPeers.accessOk (wCollPeers.ctx 0).ptn 0
        (collDst
          (wCollPeers.collEntry 0
            ((wCollPeers.ctx 0).ringHead +
              BitVec.ofNat 32 (List.filter (fun y => y.ctx == 0) wCollPeers.collectives).length)))
        (wCollPeers.collBytes
            (wCollPeers.collEntry 0
              ((wCollPeers.ctx 0).ringHead +
                BitVec.ofNat 32 (List.filter (fun y => y.ctx == 0) wCollPeers.collectives).length))).2
        true false =
      true)) ∧
    ((wCollPeers.flt.fatal = false) ∧
      (wCollPeers.isOpen 76 = true) ∧
      ((wCollPeers.ctx 0).ringLog2 ≠ 0) ∧
      ((wCollPeers.ctx 0).state ≠ CtxState.free) ∧
      ((wCollPeers.ctx 0).state ≠ CtxState.teardown) ∧
      ((wCollPeers.ctx 0).ringHead + BitVec.ofNat 32 (List.filter (fun y => y.ctx == 0) wCollPeers.collectives).length ≠
    (wCollPeers.ctx 0).ringTail) ∧
      (wCollPeers.ctxOf
      (le
        (wCollPeers.collEntry 0
          ((wCollPeers.ctx 0).ringHead +
            BitVec.ofNat 32 (List.filter (fun y => y.ctx == 0) wCollPeers.collectives).length))
        4 4) =
    some 0) ∧
      (0 ≤
    BitVec.toInt
      ((wCollPeers.ctx 0).sync.getD
          (fld
            (le
              (wCollPeers.collEntry 0
                ((wCollPeers.ctx 0).ringHead +
                  BitVec.ofNat 32 (List.filter (fun y => y.ctx == 0) wCollPeers.collectives).length))
              40 1)
            2 0)
          0 -
        BitVec.ofNat 32
          (le
            (wCollPeers.collEntry 0
              ((wCollPeers.ctx 0).ringHead +
                BitVec.ofNat 32 (List.filter (fun y => y.ctx == 0) wCollPeers.collectives).length))
            44 4))) ∧
      (le
      (wCollPeers.collEntry 0
        ((wCollPeers.ctx 0).ringHead + BitVec.ofNat 32 (List.filter (fun y => y.ctx == 0) wCollPeers.collectives).length))
      0 4 =
    1) ∧
      (wCollPeers.groupV1 = false) ∧
      (wCollPeers.collClean 0
      (wCollPeers.collEntry 0
        ((wCollPeers.ctx 0).ringHead +
          BitVec.ofNat 32 (List.filter (fun y => y.ctx == 0) wCollPeers.collectives).length)) =
    true) ∧
      (((wCollPeers.collOthers
          (wCollPeers.collEntry 0
            ((wCollPeers.ctx 0).ringHead +
              BitVec.ofNat 32 (List.filter (fun y => y.ctx == 0) wCollPeers.collectives).length))).all
      fun m => (State.tagged (wCollPeers.ctx 0).ringTag (wRings (wColl 0 2))).any fun p => p.1 == m) =
    true) ∧
      (((wCollPeers.collOthers
          (wCollPeers.collEntry 0
            ((wCollPeers.ctx 0).ringHead +
              BitVec.ofNat 32 (List.filter (fun y => y.ctx == 0) wCollPeers.collectives).length))).all
      fun m =>
      (List.filter (fun p => p.1 == m) (State.tagged (wCollPeers.ctx 0).ringTag (wRings (wColl 0 2)))).all fun p =>
        collAgrees
          (wCollPeers.collEntry 0
            ((wCollPeers.ctx 0).ringHead +
              BitVec.ofNat 32 (List.filter (fun y => y.ctx == 0) wCollPeers.collectives).length))
          p.2) =
    false)) ∧
    (((wInFlight (some Status.refusedInfeasible)).flt.fatal = false) ∧
      ((wInFlight (some Status.refusedInfeasible)).linkUp = true) ∧
      ((wInFlight (some Status.refusedInfeasible)).isOpen 76 = true) ∧
      ((wInFlight (some Status.refusedInfeasible)).collectives = [wFlight (some Status.refusedInfeasible)]) ∧
      ((wFlight (some Status.refusedInfeasible)).ctx = 0) ∧
      (parseAddr ((wInFlight (some Status.refusedInfeasible)).crAt 0 (wFlight (some Status.refusedInfeasible)).entry + 56) =
    Loc.host 56) ∧
      ((wInFlight (some Status.refusedInfeasible)).crAt 0 (wFlight (some Status.refusedInfeasible)).entry % 64 = 0) ∧
      ((wInFlight (some Status.refusedInfeasible)).unacked 0 5 (wFlight (some Status.refusedInfeasible)).entry = false) ∧
      ((wFlight (some Status.refusedInfeasible)).code = some Status.refusedInfeasible) ∧
      (bitAt (wFlight (some Status.refusedInfeasible)).word 16 = false)) ∧
    (((wInFlight none).flt.fatal = false) ∧
      ((wInFlight none).linkUp = true) ∧
      ((wInFlight none).isOpen 76 = true) ∧
      ((wInFlight none).collectives = [wFlight none]) ∧
      ((wFlight none).ctx = 0) ∧
      (parseAddr ((wInFlight none).crAt 0 (wFlight none).entry + 56) = Loc.host 56) ∧
      ((wInFlight none).crAt 0 (wFlight none).entry % 64 = 0) ∧
      ((wInFlight none).unacked 0 5 (wFlight none).entry = false) ∧
      ((wFlight none).code = none) ∧
      ((wInFlight none).ctxOf (le ((wInFlight none).collEntry 0 (wFlight none).entry) 4 4) = some 0) ∧
      (collOp ((wInFlight none).collEntry 0 (wFlight none).entry) ≤ 2) ∧
      ((((wInFlight none).collOthers ((wInFlight none).collEntry 0 (wFlight none).entry)).all fun m =>
      ([] : List (Nat × List Byte)).any fun p => p.1 == m) =
    true) ∧
      (((wInFlight none).collResult 0 ((wInFlight none).collEntry 0 (wFlight none).entry) []).1 ≠ []) ∧
      (((wInFlight none).collResult 0 ((wInFlight none).collEntry 0 (wFlight none).entry) []).2.2 = false) ∧
      (bitAt (le ((wInFlight none).collEntry 0 (wFlight none).entry) 52 4) 16 = false) ∧
      ((([] : List Word).all fun w => !bitAt (BitVec.toNat w) 16) = true) ∧
      ((wInFlight none).lies ((wInFlight none).ctx 0).ptn 0 (collDst ((wInFlight none).collEntry 0 (wFlight none).entry))
    (packRow (collOut ((wInFlight none).collEntry 0 (wFlight none).entry))
        ((wInFlight none).collResult 0 ((wInFlight none).collEntry 0 (wFlight none).entry) []).1).length
    (scrKey 0 0 64)) ∧
      (fld (collDst ((wInFlight none).collEntry 0 (wFlight none).entry)) 63 62 ≠ 2) ∧
      (2 ^ 60 ≤ scrKey 0 0 64 ∧
      scrKey 0 0 64 +
          (packRow (collOut ((wInFlight none).collEntry 0 (wFlight none).entry))
              ((wInFlight none).collResult 0 ((wInFlight none).collEntry 0 (wFlight none).entry) []).1).length ≤
        2 ^ 64 ∨
    scrKey 0 0 64 < 2 ^ 60 ∧
      scrKey 0 0 64 % 65536 +
            (packRow (collOut ((wInFlight none).collEntry 0 (wFlight none).entry))
                ((wInFlight none).collResult 0 ((wInFlight none).collEntry 0 (wFlight none).entry) []).1).length ≤
          65536 ∧
        bitAt ((wInFlight none).attr (scrKey 0 0 64 / 65536)) 2 = false)) := by
  and_intros <;> decide +kernel

theorem witness_PortsAndQueuePairs :
    ((wCnp.flt.fatal = false)) ∧
    ((wCnp.flt.fatal = false) ∧
      ((wCnp.port 2).state ≠ 3)) ∧
    ((wPortOut.flt.fatal = false) ∧
      ((wPortOut.port 2).state = 3)) ∧
    ((wCnp.flt.fatal = false) ∧
      (1 < 8)) ∧
    ((wCnp.flt.fatal = false) ∧
      (1 < 8)) ∧
    ((wCnp.flt.fatal = false) ∧
      ((wCnp.qp 0).failed = false) ∧
      ((wCnp.qp 0).retries < 7)) ∧
    ((wPorts.flt.fatal = false) ∧
      ((wPorts.qp 3).failed = false) ∧
      (7 ≤ (wPorts.qp 3).retries) ∧
      (¬(wPorts.net.qpnBase ≤ 3 ∧ 3 < wPorts.net.qpnBase + 2048 ∧ wPorts.inGroup = true)) ∧
      (3 < 1048576 ∨ 1052672 ≤ 3) ∧
      (3 < 2097152 ∨ 2105344 ≤ 3) ∧
      (3 < 3145728 + 8 * wPorts.ckp.candidate ∨ 3145728 + 8 * wPorts.ckp.candidate + wPorts.ckp.connections ≤ 3)) ∧
    ((wPeerQp.flt.fatal = false) ∧
      ((wPeerQp.qp 2097152).failed = false) ∧
      (7 ≤ (wPeerQp.qp 2097152).retries) ∧
      (¬(wPeerQp.net.qpnBase ≤ 2097152 ∧ 2097152 < wPeerQp.net.qpnBase + 2048 ∧ wPeerQp.inGroup = true)) ∧
      (2097152 ≤ 2097152) ∧
      (2097152 < 2105344) ∧
      (tget wPeerQp.rings (2097152 - 2097152) = some (wPeerRing true)) ∧
      ((wPeerRing true).peer = true) ∧
      ((wPeerRing true).lost = false)) ∧
    ((wMasterQp.flt.fatal = false) ∧
      ((wMasterQp.qp 4).failed = false) ∧
      (7 ≤ (wMasterQp.qp 4).retries) ∧
      (wMasterQp.net.qpnBase ≤ 4 ∧ 4 < wMasterQp.net.qpnBase + 2048 ∧ wMasterQp.inGroup = true) ∧
      (wMasterQp.isMaster = true) ∧
      (wMasterQp.member ((4 - wMasterQp.net.qpnBase) / 2) = some (wReplica 2)) ∧
      ((wReplica 2).state = 1) ∧
      ((wReplica 2).role ≠ 2) ∧
      ((4 - wMasterQp.net.qpnBase) / 2 ≠ wMasterQp.net.self)) ∧
    ((wPorts.flt.fatal = false) ∧
      (wPorts.since50us (wPorts.qp 0).cnpTx = true)) ∧
    ((wCnp.flt.fatal = false) ∧
      (wCnp.since50us (wCnp.qp 0).cnpTx = false)) ∧
    ((wCnp.flt.fatal = false)) ∧
    ((wCnp.flt.fatal = false)) := by
  and_intros <;> decide +kernel

theorem witness_CheckpointsReachDurability :
    ((wCut.flt.fatal = false) ∧
      (wCut.ckpPtn ≠ none)) ∧
    ((wCapture.flt.fatal = false) ∧
      (wCapture.ckpPtn = some 0) ∧
      (wCapture.ckp.due = true) ∧
      (wCapture.ckp.state = CkptState.capturing) ∧
      (wCapture.stepCtxs 0 ≠ []) ∧
      (wCapture.ckp.copying = []) ∧
      (((wCapture.stepCtxs 0).all fun c => wCapture.ckp.captureHeld.contains c) = true) ∧
      (wCapture.ckpSession = false) ∧
      (((wCapture.stepCtxs 0).all fun c => (wCapture.ctx c).queues.all fun q => q.cmds.isEmpty) = true)) ∧
    ((wCaptureWaits.flt.fatal = false) ∧
      (wCaptureWaits.ckpPtn = some 0) ∧
      (wCaptureWaits.ckp.due = true) ∧
      (((wCaptureWaits.stepCtxs 0).all fun c => wCaptureWaits.ckp.captureHeld.contains c) = false)) ∧
    ((wCut.flt.fatal = false) ∧
      (wCut.ckpPtn = some 0) ∧
      (wCut.inFlight 0 = some (wShard false true 0, 0)) ∧
      (wCut.ckp.state = CkptState.streaming) ∧
      (wCut.ckp.cut = true) ∧
      ((wCut.ckp.shards.zipIdx.all fun y => y.2 == 0 || !(y.1.sent && !y.1.acked)) = true)) ∧
    (((wStreaming [wShard false true 0]).flt.fatal = false) ∧
      ((wStreaming [wShard false true 0]).ckpPtn = some 0) ∧
      ((wStreaming [wShard false true 0]).inFlight 0 = some (wShard false true 0, 0)) ∧
      ((wStreaming [wShard false true 0]).ckp.state = CkptState.streaming) ∧
      (((wStreaming [wShard false true 0]).ckp.shards.all fun x => x.sent) = true) ∧
      ((wStreaming [wShard false true 0]).ckpSession = true) ∧
      ((wStreaming [wShard false true 0]).ckp.cut = false)) ∧
    ((wCut.flt.fatal = false) ∧
      (wCut.ckpPtn = some 0) ∧
      (wCut.inFlight 0 = some (wShard false true 0, 0)) ∧
      (wCut.ckp.state = CkptState.streaming) ∧
      ((wShard false true 0).refusals < 2)) ∧
    (((wStreaming [wShard false true 2, wShard false true 0]).flt.fatal = false) ∧
      ((wStreaming [wShard false true 2, wShard false true 0]).ckpPtn = some 0) ∧
      ((wStreaming [wShard false true 2, wShard false true 0]).inFlight 0 = some (wShard false true 2, 0)) ∧
      ((wStreaming [wShard false true 2, wShard false true 0]).ckp.state = CkptState.streaming) ∧
      (2 ≤ (wShard false true 2).refusals)) ∧
    (((wSealing MirrorState.active).flt.fatal = false) ∧
      ((wSealing MirrorState.active).ckpPtn = some 0) ∧
      ((wSealing MirrorState.active).ckp.state = CkptState.sealing) ∧
      ((wSealing MirrorState.active).ckp.manifestSent = true) ∧
      ((wSealing MirrorState.active).ckp.cut = false) ∧
      ((wSealing MirrorState.active).ckp.mirror ≠ MirrorState.correlated)) ∧
    (((wSealing MirrorState.correlated).flt.fatal = false) ∧
      ((wSealing MirrorState.correlated).ckpPtn = some 0) ∧
      ((wSealing MirrorState.correlated).ckp.state = CkptState.sealing) ∧
      ((wSealing MirrorState.correlated).ckp.manifestSent = true) ∧
      ((wSealing MirrorState.correlated).ckp.cut = false) ∧
      ((wSealing MirrorState.correlated).ckp.mirror = MirrorState.correlated)) ∧
    ((wFlushing.flt.fatal = false) ∧
      (wFlushing.ckpSession = true) ∧
      (BitVec.toNat wFlushing.ckp.flushed ≤ 3) ∧
      (3 < BitVec.toNat wFlushing.ckp.lsn)) ∧
    ((wUp.flt.fatal = false) ∧
      (BitVec.toNat wUp.ckp.lsn ≤ 0 ∨ 0 < BitVec.toNat wUp.ckp.flushed)) ∧
    ((wFlushing.flt.fatal = false) ∧
      (BitVec.toNat wFlushing.ckp.flushed < BitVec.toNat wFlushing.ckp.lsn) ∧
      (wFlushing.ckpSession = true) ∧
      (wFlushing.ckp.candidates = [])) ∧
    ((wUp.flt.fatal = false) ∧
      (BitVec.toNat wUp.ckp.lsn ≤ BitVec.toNat wUp.ckp.flushed)) ∧
    ((wCut.flt.fatal = false) ∧
      (wCut.ckptRuns = true)) ∧
    ((wUp.flt.fatal = false) ∧
      (wUp.ckptRuns = false)) ∧
    ((wCut.flt.fatal = false) ∧
      (wCut.ckpSession = true)) := by
  and_intros <;> decide +kernel

theorem witness_MirrorsAndRestoresWork :
    (((wMirror MirrorState.none true).flt.fatal = false) ∧
      ((wMirror MirrorState.none true).ckpSession = false) ∧
      ((wMirror MirrorState.none true).isOpen 76 = true) ∧
      ((wMirror MirrorState.none true).ckp.candidates = [wCand, wCand])) ∧
    (((wMirror MirrorState.none true).flt.fatal = false) ∧
      ((wMirror MirrorState.none true).ckpSession = false) ∧
      ((wMirror MirrorState.none true).isOpen 76 = true) ∧
      ((wMirror MirrorState.none true).ckp.candidates = [wCand, wCand]) ∧
      ((wMirror MirrorState.none true).ckp.retry = true) ∧
      ((wMirror MirrorState.none true).ckp.mirror = MirrorState.none ∨
    (wMirror MirrorState.none true).ckp.mirror = MirrorState.lost)) ∧
    ((wUp.flt.fatal = false) ∧
      (wUp.ckp.retry = false)) ∧
    ((wLastCand.flt.fatal = false) ∧
      (wLastCand.ckp.mirror = MirrorState.handshake) ∧
      (9 ≠ wLastCand.boot.feed)) ∧
    (((wMirror MirrorState.handshake false).flt.fatal = false) ∧
      ((wMirror MirrorState.handshake false).ckp.mirror = MirrorState.handshake) ∧
      (0 = (wMirror MirrorState.handshake false).boot.feed)) ∧
    (((wMirror MirrorState.handshake false).flt.fatal = false) ∧
      ((wMirror MirrorState.handshake false).ckp.mirror = MirrorState.handshake) ∧
      ((wMirror MirrorState.handshake false).isOpen 76 = true) ∧
      ((wMirror MirrorState.handshake false).ckp.candidates[(wMirror MirrorState.handshake false).ckp.candidate + 1]? =
    some wCand)) ∧
    ((wLastCand.flt.fatal = false) ∧
      (wLastCand.ckp.mirror = MirrorState.handshake) ∧
      (wLastCand.isOpen 76 = true) ∧
      (wLastCand.ckp.candidates.length ≤ wLastCand.ckp.candidate + 1)) ∧
    ((wFlushing.flt.fatal = false) ∧
      (wFlushing.ckpSession = true) ∧
      (wFlushing.ckp.candidates = [])) ∧
    ((wUp.flt.fatal = false) ∧
      (wUp.ckpSession = false)) ∧
    ((wServing.flt.fatal = false) ∧
      (wServing.isOpen 76 = true) ∧
      ((wMirHello 2).protocol ≠ 1)) ∧
    ((wServing.flt.fatal = false) ∧
      (wServing.isOpen 76 = true) ∧
      (wServing.servedOf wSes = some (0, wServed)) ∧
      (sha384 [1] = sha384 [1])) ∧
    ((wServing.flt.fatal = false) ∧
      (wServing.isOpen 76 = true) ∧
      (wServing.servedOf wSes = some (0, wServed)) ∧
      (sha384 [1] ≠ [])) ∧
    ((wServing.flt.fatal = false) ∧
      (wServing.isOpen 76 = true) ∧
      (wServing.servedOf wSes = some (0, wServed)) ∧
      (manifestSigned [1] wServed.key = false)) ∧
    ((wServing.flt.fatal = false) ∧
      (wServing.isOpen 76 = true) ∧
      (wServing.servedOf wSes = some (0, wServed)) ∧
      (wLogRec.length = 64) ∧
      (crc32c (slice wLogRec 0 60) = le wLogRec 60 4)) ∧
    ((wServing.flt.fatal = false) ∧
      (wServing.isOpen 76 = true) ∧
      (wServing.servedOf wSes = some (0, wServed)) ∧
      (crc32c (slice [1] 0 60) ≠ le [1] 60 4)) ∧
    ((wUp.flt.fatal = false) ∧
      (2 ^ 64 % 64 ≠ 0 ∨ wUp.requestOk (2 ^ 64) 64 = false) ∧
      (wUp.ckp.restoreDue = false ∨ wUp.restoreRefusal wUp.ownRestore ≠ Status.ok)) ∧
    (((wRestoreReq 2).flt.fatal = false) ∧
      ((wRestoreReq 2).linkUp = true) ∧
      (2 ^ 63 % 64 = 0) ∧
      (parseAddr (2 ^ 63) = Loc.host 0) ∧
      ((wRestoreReq 2).requestOk (2 ^ 63) 64 = true) ∧
      ((wRestoreReq 2).restoreRefusal ((wRestoreReq 2).fwRead (2 ^ 63) 64) ≠ Status.ok)) ∧
    (((wRestoreReq 0).flt.fatal = false) ∧
      ((wRestoreReq 0).linkUp = true) ∧
      (2 ^ 63 % 64 = 0) ∧
      (parseAddr (2 ^ 63) = Loc.host 0) ∧
      ((wRestoreReq 0).requestOk (2 ^ 63) 64 = true) ∧
      ((wRestoreReq 0).restoreRefusal ((wRestoreReq 0).fwRead (2 ^ 63) 64) = Status.ok) ∧
      ((wRestoreReq 0).ptnOf (le ((wRestoreReq 0).fwRead (2 ^ 63) 64) 4 4) = some 0) ∧
      (manifestSigned wBadFetch.manifest ((wRestoreReq 0).manifestKey wBadFetch.manifest) = false)) := by
  and_intros <;> decide +kernel

/-! ### Witnesses that need a signature to verify: they hold where `Config.ecdsaVerifies` accepts it -/

theorem wUpd_mem : wUpd.mem = wUpdMem := by
  simp only [wUpd]

theorem wUpd_request : wUpd.fwRead (2 ^ 63) 64 = wUpdReq := by
  have l : wUpdReq.length = 64 := by decide +kernel
  have e := wUpd.fwRead_host (x := 0) (n := 64) (by decide)
  rw [Nat.add_zero] at e
  rw [e, wUpd_mem, wUpdMem]
  refine List.ext_getElem (by simp [l]) fun i _ hi => ?_
  simp only [List.getElem_map, List.getElem_range]
  have o : hostKey 0 + i < hostKey 0x1000 := by unfold hostKey; omega
  rw [Memory.read_writeAll_ne _ _ (.inl o), Memory.read_writeAll _ _ _ hi]

theorem wUpd_bundle : wUpd.fwRead (le wUpdReq 8 8) 944 = wBundle := by
  have h : le wUpdReq 8 8 = 2 ^ 63 + 0x1000 := by decide +kernel
  have l : wBundle.length = 944 := by decide +kernel
  have e := wUpd.fwRead_written _ _ (wUpd_mem.trans (by unfold wUpdMem; exact rfl)) (by rw [l]; decide)
  rw [l] at e
  rw [h, e]

theorem witness_UpdatesBegin_signed (h : ∀ k d g, Config.ecdsaVerifies k d g = true) :
    (wUpd.flt.fatal = false) ∧
    (2 ^ 63 % 64 = 0) ∧
    (wUpd.requestOk (2 ^ 63) 64 = true) ∧
    (le (wUpd.fwRead (2 ^ 63) 64) 0 4 = 1) ∧
    (clearAt (wUpd.fwRead (2 ^ 63) 64) [(22, 2), (28, 4)] = true) ∧
    (le (wUpd.fwRead (2 ^ 63) 64) 4 4 = 1) ∧
    (le (wUpd.fwRead (2 ^ 63) 64) 20 2 = 0) ∧
    (le (wUpd.fwRead (2 ^ 63) 64) 24 4 ≤ 60000) ∧
    (le (wUpd.fwRead (2 ^ 63) 64) 16 4 = 944) ∧
    (wUpd.boot.upd = UpdState.idle) ∧
    (224 ≤ 944) ∧
    (944 ≤ 33554432) ∧
    (wUpd.addressOk (le (wUpd.fwRead (2 ^ 63) 64) 8 8) = true) ∧
    (wUpd.bundleReason (wUpd.fwRead (le (wUpd.fwRead (2 ^ 63) 64) 8 8) 944) = 0) ∧
    (wUpd.updSelected 0 (wUpd.fwRead (le (wUpd.fwRead (2 ^ 63) 64) 8 8) 944) = [0, 1, 2, 3, 4, 5, 8, 10, 11, 12]) ∧
    (wUpd.turnWaits 0 = false) := by
  have a1 : headerOk wBundle = true := by decide +kernel
  have a2 : wUpd.boot.rootHash[le wBundle 0x14 1]? = some (sha384Nat (slice wBundle 0x20 96)) := by decide +kernel
  have a3 : bitAt wUpd.boot.revoke (le wBundle 0x14 1) = false := by decide +kernel
  have a4 : ¬ le wBundle 0xC 4 < wUpd.boot.svnCount := by decide +kernel
  have a5 : recordsOk wBundle = true := by decide +kernel
  have a6 : (((List.range 13).filter wUpd.variant.core).any fun c => ((firmwares wBundle).filter fun f => f.core == c).length != 1) =
      false := by decide +kernel
  have a7 : ((firmwares wBundle).any fun f => decide (wBundle.length < f.offset + f.length) || decide (f.proto < wUpd.boot.fwMin)) =
      false := by decide +kernel
  have a8 : ((firmwares wBundle).any fun f => sha384Nat (slice wBundle f.offset f.length) != f.digest) = false := by decide +kernel
  have b : wUpd.bundleReason wBundle = 0 := by
    simp only [State.bundleReason, State.refusedFor, h, a1, a2, a3, a4, a5, a6, a7, a8, ne_eq, not_true_eq_false,
      Bool.true_eq_false, Bool.false_eq_true, if_false, or_false, Bool.false_and]
  rw [wUpd_request, wUpd_bundle]
  and_intros
  all_goals first
    | decide +kernel
    | exact b

theorem witness_TransfersAreCheckedAtTheirEnd_noDetour :
    (∀ l, (wUp.rzLink l).detour = false) ∧ rzSrcDie wHdr < 12 ∧ rzDstDie wHdr < 12 :=
  ⟨fun _ => rfl, by decide +kernel⟩

theorem slice_mid (a n z : List Byte) (k m : Nat) (e : a.length = k) (f : n.length = m) : slice (a ++ (n ++ z)) k m = n := by
  subst e f; simp [slice, zeros]

theorem slice_front (a r : List Byte) (k m : Nat) (h : k + m ≤ a.length) : slice (a ++ r) k m = slice a k m := by
  simp only [slice, List.drop_append, List.take_append, List.length_drop]
  have : m - (a.length - k) = 0 := by omega
  simp [this]

/-- The front of `wReport`, before its nonce. -/
def wReportFront : List Byte := leBytes 4 1 ++ leBytes 4 976 ++ zeros 56

theorem wReport_eq (n : List Byte) (e : n.length = 48) : wReport n = wReportFront ++ (n ++ zeros 864) := by
  have a : slice n 0 48 = n := by simp [slice, ← e, zeros]
  unfold wReport wReportFront
  rw [a]; simp only [List.append_assoc]

theorem wReport_accepted (h : ∀ k d g, Config.ecdsaVerifies k d g = true) (n : List Byte) (e : n.length = 48) :
    wStore.reportAccepted (wReport n) n = true := by
  have l : wReportFront.length = 64 := by decide +kernel
  have b : slice (wReport n) 64 48 = n := by rw [wReport_eq n e]; exact slice_mid _ _ _ _ _ l e
  have c : (wReport n).length = 976 := by rw [wReport_eq n e]; simp only [List.length_append, l, e, zeros, List.length_replicate]
  have f (k m : Nat) (q : k + m ≤ 64) : le (wReport n) k m = le wReportFront k m := by
    rw [wReport_eq n e, le, slice_front _ _ _ _ (by omega)]; rfl
  have z : wStore.boot.accepted = [] := rfl
  have y : tgetD ([] : Tab Nat) (le (wReport n) 8 8) 0 = 0 := rfl
  simp only [State.reportAccepted, reportGood, h, b, c, f 0 4 (by decide), f 4 4 (by decide), z, y, beq_self_eq_true, Nat.zero_le, decide_true]
  decide +kernel

theorem witness_GroupsFormAndStep_signed (h : ∀ k d g, Config.ecdsaVerifies k d g = true) :
    (wJoins.flt.fatal = false) ∧
    (wJoins.inGroup = true) ∧
    (wJoins.isMaster = true) ∧
    (wJoins.member wJoin.member = some wJoined) ∧
    (wJoin.groupId = wJoins.net.groupId) ∧
    (wJoin.term = wJoins.net.term) ∧
    (wJoins.net.protoMin ≤ wJoin.protoMax) ∧
    (wJoin.gen = wJoins.net.gen) ∧
    (wJoin.crc = wJoins.net.crc) ∧
    (wJoins.reportAccepted wJoin.report wJoins.helloNonce = true) ∧
    (ofLe (reportIdent wJoin.report) = wJoined.ident) ∧
    (wJoins.net.state = GroupState.running) := by
  and_intros
  all_goals first
    | decide +kernel
    | (simp only [State.reportAccepted, reportGood, h]; decide +kernel)

theorem witness_MirrorsAndRestoresWork_mirrorHello (h : ∀ k d g, Config.ecdsaVerifies k d g = true) :
    (wStore.flt.fatal = false) ∧
    (wStore.isOpen 76 = true) ∧
    (wMirJoin.protocol = 1) ∧
    (wStore.boot.mirrorMin ≤ 1) ∧
    (wStore.reportAccepted wMirJoin.report (sha384 (slice Config.serverRecord 0 32)) = true) ∧
    (wMirJoin.feed = wStore.boot.feed → wMirJoin.force = true) ∧
    (wStore.sesHandles.take 4 =
  some (0, ({ HandleTable.reset with next := 1 } : HandleTable))) ∧
    (wStore.ptnOf wStore.ckp.storePtn = some 0) ∧
    (wStore.storePlace wMirJoin.pages = some 4) := by
  and_intros
  all_goals first
    | decide +kernel
    | exact wReport_accepted h _ (sha384_length _)

theorem witness_MirrorsAndRestoresWork_manifest (h : ∀ k d g, Config.ecdsaVerifies k d g = true) :
    (wServing.flt.fatal = false) ∧
    (wServing.isOpen 76 = true) ∧
    (wServing.servedOf wSes = some (0, wServed)) ∧
    (manifestSigned wEmptyManifest wServed.key = true) ∧
    (bitAt (le wEmptyManifest 24 4) 0 = false) ∧
    (((List.range (le wEmptyManifest 12 4)).all fun i =>
    Option.any (fun z => List.take 48 z == slice (manifestEntry wEmptyManifest i) 16 48)
      (tget (wServed.slot wServed.other).shards i)) =
  true) := by
  and_intros
  all_goals first
    | decide +kernel
    | (simp only [manifestSigned, h]; decide +kernel)

theorem witness_MirrorsAndRestoresWork_restoreMate (h : ∀ k d g, Config.ecdsaVerifies k d g = true) :
    (wMateReq.flt.fatal = false) ∧
    (wMateReq.linkUp = true) ∧
    (2 ^ 63 % 64 = 0) ∧
    (parseAddr (2 ^ 63) = Loc.host 0) ∧
    (wMateReq.requestOk (2 ^ 63) 64 = true) ∧
    (wMateReq.restoreRefusal (wMateReq.fwRead (2 ^ 63) 64) = Status.ok) ∧
    (wMateReq.ptnOf (le (wMateReq.fwRead (2 ^ 63) 64) 4 4) = some 0) ∧
    (manifestSigned wMate.manifest (wMateReq.manifestKey wMate.manifest) = true) ∧
    (le (wMateReq.fwRead (2 ^ 63) 64) 12 4 = 0) ∧
    (((List.range (le wMate.manifest 12 4)).all fun i =>
    sha384 (wMate.shards.getD i []) == slice (manifestEntry wMate.manifest i) 16 48) =
  true) ∧
    (wMateReq.offStep wMate.durable
    (le (List.flatMap (fun i => wMate.shards.getD i []) (manifestRegion wMate.manifest 65520)) 8 4) =
  false) ∧
    (wMate.mate = true) ∧
    (wMateReq.net.state ≠ GroupState.solo) := by
  and_intros
  all_goals first
    | decide +kernel
    | (simp only [manifestSigned, h]; decide +kernel)

theorem witness_MirrorsAndRestoresWork_restoreAnother (h : ∀ k d g, Config.ecdsaVerifies k d g = true) :
    ((wRestoreReq 1).flt.fatal = false) ∧
    ((wRestoreReq 1).linkUp = true) ∧
    (2 ^ 63 % 64 = 0) ∧
    (parseAddr (2 ^ 63) = Loc.host 0) ∧
    ((wRestoreReq 1).requestOk (2 ^ 63) 64 = true) ∧
    ((wRestoreReq 1).restoreRefusal ((wRestoreReq 1).fwRead (2 ^ 63) 64) = Status.ok) ∧
    ((wRestoreReq 1).ptnOf (le ((wRestoreReq 1).fwRead (2 ^ 63) 64) 4 4) = some 0) ∧
    (manifestSigned (wFetched []).manifest ((wRestoreReq 1).manifestKey (wFetched []).manifest) = true) ∧
    (le ((wRestoreReq 1).fwRead (2 ^ 63) 64) 12 4 = 0) ∧
    (((List.range (le (wFetched []).manifest 12 4)).all fun i =>
    sha384 ((wFetched []).shards.getD i []) == slice (manifestEntry (wFetched []).manifest i) 16 48) =
  true) ∧
    ((wRestoreReq 1).offStep (wFetched []).durable
    (le (List.flatMap (fun i => (wFetched []).shards.getD i []) (manifestRegion (wFetched []).manifest 65520)) 8 4) =
  false) ∧
    ((wFetched []).mate = false) ∧
    (wholeLog (wFetched []).log
    (le (List.flatMap (fun i => (wFetched []).shards.getD i []) (manifestRegion (wFetched []).manifest 65520)) 24 8) =
  some []) ∧
    (le ((wRestoreReq 1).fwRead (2 ^ 63) 64) 20 4 = 1) := by
  and_intros
  all_goals first
    | decide +kernel
    | (simp only [manifestSigned, h]; decide +kernel)

theorem witness_MirrorsAndRestoresWork_restore (h : ∀ k d g, Config.ecdsaVerifies k d g = true) :
    ((wRestoreReq 0).flt.fatal = false) ∧
    ((wRestoreReq 0).linkUp = true) ∧
    (2 ^ 63 % 64 = 0) ∧
    (parseAddr (2 ^ 63) = Loc.host 0) ∧
    ((wRestoreReq 0).requestOk (2 ^ 63) 64 = true) ∧
    ((wRestoreReq 0).restoreRefusal ((wRestoreReq 0).fwRead (2 ^ 63) 64) = Status.ok) ∧
    ((wRestoreReq 0).ptnOf (le ((wRestoreReq 0).fwRead (2 ^ 63) 64) 4 4) = some 0) ∧
    (manifestSigned (wFetched wLogEnd).manifest ((wRestoreReq 0).manifestKey (wFetched wLogEnd).manifest) = true) ∧
    (le ((wRestoreReq 0).fwRead (2 ^ 63) 64) 12 4 = 0) ∧
    (((List.range (le (wFetched wLogEnd).manifest 12 4)).all fun i =>
    sha384 ((wFetched wLogEnd).shards.getD i []) == slice (manifestEntry (wFetched wLogEnd).manifest i) 16 48) =
  true) ∧
    ((wRestoreReq 0).offStep (wFetched wLogEnd).durable
    (le (List.flatMap (fun i => (wFetched wLogEnd).shards.getD i []) (manifestRegion (wFetched wLogEnd).manifest 65520))
      8 4) =
  false) ∧
    ((wFetched wLogEnd).mate = false) ∧
    (wholeLog (wFetched wLogEnd).log
    (le (List.flatMap (fun i => (wFetched wLogEnd).shards.getD i []) (manifestRegion (wFetched wLogEnd).manifest 65520))
      24 8) =
  some [wLogEnd]) ∧
    (le ((wRestoreReq 0).fwRead (2 ^ 63) 64) 20 4 = 0) ∧
    (le ((wRestoreReq 0).fwRead (2 ^ 63) 64) 16 4 = 0) ∧
    (Option.map (fun l => le l 16 4) (List.filter (fun l => le l 0 1 == 2) [wLogEnd]).getLast? = some 4) ∧
    (le (List.flatMap (fun i => (wFetched wLogEnd).shards.getD i []) (manifestRegion (wFetched wLogEnd).manifest 65520)) 8
    4 ≤
  4) := by
  and_intros
  all_goals first
    | decide +kernel
    | (simp only [manifestSigned, h]; decide +kernel)

/-! ### Steps -/

/-- The state after a step, the state itself where the step answers no next state. -/
def after (s : State) : State := match step s with
  | .next t => t
  | _ => s

/-- An idle tick moves the time of a running domain on by 10 ns. -/
theorem test_tick : ((after (wUp.setDom 77 { Domain.reset with power := .on })).dom 77).time = 10 := by decide +kernel

/-- The command in front is consumed, the next one stays. -/
theorem test_queue_is_first_in_first_out :
    (after { wUp with pending := [.portDown 3, .portDown 4] }).pending = [.portDown 4] := by decide +kernel

/-- No word of the table spells a command. -/
theorem test_decode (n w : Nat) : decodeTableWord n w = none := rfl

end Sys2Proof.Tests
end

section
/-! SUPPORT. Handle generations (R12): what taking and freeing an index does to them. -/

namespace Sys2Proof.Machine

/-! ### Entries of a table -/

/-- An entry that is read is listed. -/
theorem mem_of_tget_eq_some {α : Type} {t : Tab α} {k : Nat} {a : α} (h : tget t k = some a) : (k, a) ∈ t := by
  induction t with
  | nil => simp [tget] at h
  | cons q r ih =>
    obtain ⟨j, b⟩ := q
    simp only [tget] at h
    split_ifs at h with e
    · obtain rfl := e
      obtain rfl := Option.some.inj h
      exact List.mem_cons_self
    · exact List.mem_cons_of_mem _ (ih h)

namespace HandleTable

/-! ### Generations -/

/-- Every generation the table lists is one that a handle may carry: 1 to 0xFFF (R12). -/
def GensOk (h : HandleTable) : Prop := ∀ p ∈ h.gens, 1 ≤ p.2 ∧ p.2 ≤ 0xFFF

theorem gensOk_reset : reset.GensOk := by simp [GensOk, reset]

/-- An index that was never freed has generation 1. -/
theorem gen_reset (i : Nat) : reset.gen i = 1 := rfl

/-- The generation of every index, listed or not, is 1 to 0xFFF. -/
theorem GensOk.gen_bounds {h : HandleTable} (ok : h.GensOk) (i : Nat) : 1 ≤ h.gen i ∧ h.gen i ≤ 0xFFF := by
  unfold gen tgetD
  cases e : tget h.gens i with
  | none => simp
  | some g => exact ok (i, g) (mem_of_tget_eq_some e)

theorem GensOk.of_gens_eq {h h' : HandleTable} (ok : h.GensOk) (e : h'.gens = h.gens) : h'.GensOk := by
  rwa [GensOk, e]

/-- Taking an index leaves the generations. -/
theorem gens_of_take {h h' : HandleTable} {limit i : Nat} (t : h.take limit = some (i, h')) : h'.gens = h.gens := by
  unfold take at t
  split at t
  · cases t; rfl
  · split_ifs at t; cases t; rfl

/-- A freed index has the next generation, after 0xFFF generation 1. -/
theorem gen_free_same (h : HandleTable) (i : Nat) : (h.free i).gen i = if h.gen i ≥ 0xFFF then 1 else h.gen i + 1 :=
  tgetD_tput_same ..

/-- Freeing an index leaves the generations of the others. -/
theorem gen_free_ne (h : HandleTable) {i j : Nat} (ne : j ≠ i) : (h.free i).gen j = h.gen j :=
  tgetD_tput_ne _ _ _ ne

theorem GensOk.free {h : HandleTable} (ok : h.GensOk) (i : Nat) : (h.free i).GensOk := by
  intro p hp
  rcases mem_tput hp with rfl | hp
  · dsimp only
    split_ifs <;> omega
  · exact ok p hp

/-- The null handle is of kind 0, which no resource has. -/
theorem index_null (h : HandleTable) {kind : Nat} (limit : Nat) (alive : Nat → Bool) (hk : 1 ≤ kind) :
    h.index kind limit alive 0 = none := by
  have ne : 0 / 2 ^ 28 ≠ kind := by omega
  exact if_neg fun c => ne c.1

end HandleTable

/-- Settles O11: reset, take and free keep every listed generation within 1 to 0xFFF, and an unlisted one is 1. -/
theorem handleGenerations : Obligations.HandleGenerations := by
  refine ⟨HandleTable.gensOk_reset, HandleTable.gen_reset, fun h (ok : h.GensOk) => ⟨ok.gen_bounds, ?take, ?free, ?null⟩⟩
  case take =>
    intro limit i h' t
    have e := HandleTable.gens_of_take t
    exact ⟨ok.of_gens_eq e, fun j => congrArg (tgetD · j 1) e⟩
  case free =>
    intro i
    have top : h.gen i ≥ 0xFFF ↔ h.gen i = 0xFFF := ⟨fun ge => le_antisymm (ok.gen_bounds i).2 ge, fun e => e.ge⟩
    exact ⟨ok.free i, by simp only [HandleTable.gen_free_same, top], fun _ ne => h.gen_free_ne ne⟩
  case null =>
    exact fun _ limit alive hk => h.index_null limit alive hk

end Sys2Proof.Machine
end

section
/-! SUPPORT. Register accesses that stop at a domain that is fenced or in reset (R11), how they are answered, and what is kept of a
refused posted write (R381). -/

namespace Sys2Proof.Machine

/-- Bit `b` reads 1 once it has been set. -/
theorem bitAt_or_two_pow_self (v b : Nat) : bitAt (v ||| 2 ^ b) b = true := by
  have h : (v ||| 2 ^ b).testBit b = true := by simp
  simpa [bitAt, Nat.testBit_eq_decide_div_mod_eq] using h

/-! ### What is kept of a refused posted write -/

/-- `PLK_REJECT` but its count: whether a refusal is recorded, its offset and status, and whether it was a MEM_WR. -/
def Plk.rejection (p : Plk) : Bool × Nat × Status × Bool := (p.rejValid, p.rejOffset, p.rejStatus, p.rejMem)

theorem Pump.take_rejection (x : Pump) (m : OutMsg) : (x.take m).plk.rejection = x.plk.rejection := by
  unfold Pump.take
  extract_lets
  split <;> rfl

theorem Pump.takeAll_rejection (l : List OutMsg) (x : Pump) :
    (l.foldl Pump.take x).plk.rejection = x.plk.rejection := by
  induction l generalizing x with
  | nil => rfl
  | cons m r ih => exact (ih (x.take m)).trans (x.take_rejection m)

namespace State

@[simp] theorem pump_rejection (s : State) : s.pump.plk.rejection = s.plk.rejection := by
  unfold pump
  split
  · exact Pump.takeAll_rejection ..
  · rfl

@[simp] theorem send_rejection (s : State) (m : OutMsg) : (s.send m).plk.rejection = s.plk.rejection := by
  unfold send
  split
  · exact pump_rejection _
  · rfl

@[simp] theorem evalEvent_rejection (s : State) (e : Nat) : (s.evalEvent e).plk.rejection = s.plk.rejection := by
  unfold evalEvent
  extract_lets
  split
  · rfl
  · exact send_rejection ..

@[simp] theorem raiseEv_rejection (s : State) (e b : Nat) : (s.raiseEv e b).plk.rejection = s.plk.rejection :=
  evalEvent_rejection ..

/-- The first refusal is the one that is recorded (R381). -/
theorem reject_rejection (s : State) (off addr : Nat) (st : Status) (h : s.plk.rejValid = false) :
    (s.reject (some off) st addr).plk.rejection = (true, off, st, false) := by
  unfold reject
  dsimp only
  rw [raiseEv_rejection, h]
  rfl

/-- A refused register write sets WR_REJECTED. -/
theorem reject_wrRejected (s : State) (off addr : Nat) (st : Status) :
    bitAt ((s.reject (some off) st addr).ev evPlk).value 4 = true := by
  simp only [reject, raiseEv_value, bitAt_or_two_pow_self]

theorem reject_eq (s : State) (off addr : Nat) (st : Status) : s.reject (some off) st addr =
    { s with
      events := (s.reject (some off) st addr).events, plk := (s.reject (some off) st addr).plk
      out := (s.reject (some off) st addr).out } := by
  unfold reject
  dsimp only
  rw [raiseEv_eq]

/-! ### Arrival and credits -/

/-- Freeing buffer space sends one flit with credits, and counts it. -/
theorem freed_eq (s : State) (cls n : Nat) :
    s.freed cls n = { s with plk := (s.freed cls n).plk, out := (s.freed cls n).out } := rfl

/-- Freeing buffer space loses no message. -/
theorem sends_freed {s : State} {m : OutMsg} (cls n : Nat) (h : s.sends m) : (s.freed cls n).sends m := by
  refine h.imp_left fun h => List.mem_append_left _ ?_
  split
  · exact List.mem_append_left _ h
  · exact h

theorem arrives_active {s : State} (h : s.plk.state = .active) (cls n : Nat) (f : State → State) :
    s.arrives cls n f = (f s).freed cls n := if_pos h

/-- A command that answers with a message and frees its buffer space sends the message, and changes nothing else. -/
theorem done_answered {s : State} (h : s.plk.state = .active) (m : OutMsg) (cls n : Nat) :
    ∃ t, done s ((s.send m).freed cls n) = .next t ∧ t.sends m ∧ t = { s with plk := t.plk, out := t.out } := by
  refine ⟨_, done_next .., sends_freed cls n (send_sends s m (by simp [linkUp, h])), ?_⟩
  rw [freed_eq, send_eq]

end State

theorem exec_regRd_active {s : State} (h : s.plk.state = .active) (tag off size : Nat) :
    exec (.regRd tag off size) s = done s ((s.regRd tag off size).freed 1 1) :=
  congrArg (done s) (State.arrives_active h ..)

theorem exec_regWra_active {s : State} (hf : s.flt.fatal = false) (h : s.plk.state = .active) (tag off size v : Nat) :
    exec (.regWra tag off size v) s = done s ((s.regWra tag off size v).freed 1 1) :=
  (act_live s _ hf).trans (congrArg (done s) (State.arrives_active h 1 1 (State.regWra · tag off size v)))

theorem exec_regWr_active {s : State} (hf : s.flt.fatal = false) (h : s.plk.state = .active) (off size v : Nat) :
    exec (.regWr off size v) s = done s ((s.regWr off size v).freed 0 2) :=
  (act_live s _ hf).trans (congrArg (done s) (State.arrives_active h 0 2 (State.regWr · off size v)))

/-! ### An access that stops at its domain -/

/-- An aligned access of `size` bytes at `off`, where a register of a present unit begins that is no narrower than the access, on a
device that serves its registers; but the register's domain is fenced or in reset (R11). -/
structure StoppedAccess (s : State) (off size : Nat) (r : Reg) (wide : Bool) : Prop where
  live : s.flt.fatal = false
  booted : s.boot.state ≠ 4
  linkOpen : s.isOpen 77 = true
  inWindow : off < 2 ^ 28
  aligned : off % size = 0
  whole : size = 4 ∨ (size = 8 ∧ wide = true)
  found : regAt off = some (r, wide)
  blockPresent : blockAbsent s.variant off = false
  regPresent : regAbsent s.variant r = false
  named : State.noRegister r = false
  domPresent : s.variant.domain (s.holder r) = true
  stopped : (s.dom (s.holder r)).state = .fenced ∨ (s.dom (s.holder r)).state = .resetting

namespace StoppedAccess

variable {s : State} {off size : Nat} {r : Reg} {wide : Bool}

theorem sizes (h : StoppedAccess s off size r wide) : size = 4 ∨ size = 8 := h.whole.imp_right And.left

theorem regMessage_eq (h : StoppedAccess s off size r wide) : State.regMessage off size = true := by
  rcases h.sizes with rfl | rfl <;> exact decide_eq_true h.inWindow

/-- A device in service and past its boot answers every block. -/
theorem answers_eq (h : StoppedAccess s off size r wide) (write : Bool) : s.answers off write = true := by
  simp [State.answers, h.live, h.booted]

/-- The domain lets nothing in. -/
theorem letsIn_eq_false (h : StoppedAccess s off size r wide) : s.letsIn r = false := by
  unfold State.letsIn State.isOpen
  rcases h.stopped with e | e <;> simp [h.domPresent, e]

/-- The access is not one of two halves. -/
theorem twoHalves_eq_false (h : StoppedAccess s off size r wide) : State.twoHalves off size = false := by
  rcases h.whole with rfl | ⟨rfl, rfl⟩
  · rfl
  · simp [State.twoHalves, h.found]

/-- The access is of a size and at an offset that both windows take. -/
theorem sizeAndAlignment (h : StoppedAccess s off size r wide) : ¬ (size ≠ 4 ∧ size ≠ 8 ∨ off % Nat.max 1 size ≠ 0) := by
  have a := h.aligned
  rcases h.sizes with rfl | rfl <;> simpa using a

theorem readOne_eq (h : StoppedAccess s off size r wide) : s.readOne off size = (.retryLater, 0, s) := by
  simp [State.readOne, h.found, h.named, h.answers_eq, h.blockPresent, h.regPresent, h.letsIn_eq_false]

theorem readWindow_eq (h : StoppedAccess s off size r wide) : s.readWindow off size = (.retryLater, 0, s) := by
  simp [State.readWindow, if_neg h.sizeAndAlignment, h.twoHalves_eq_false, h.readOne_eq]

theorem writeOne_eq (h : StoppedAccess s off size r wide) (v : Nat) : s.writeOne off size v = (.retryLater, s) := by
  have here : (some (r, wide)).filter (fun x => !State.noRegister x.1) = some (r, wide) := by simp [Option.filter, h.named]
  simp [State.writeOne, h.found, here, h.answers_eq, h.blockPresent, h.regPresent, h.letsIn_eq_false]

theorem writeWindow_eq (h : StoppedAccess s off size r wide) (v : Nat) :
    s.writeWindow off size v = ([(off, .retryLater)], s) := by
  have one : ¬ (size = 8 ∧ ((regAt off).any fun x => x.2) = false) := by
    rcases h.whole with rfl | ⟨rfl, rfl⟩ <;> simp [h.found]
  simp [State.writeWindow, if_neg h.sizeAndAlignment, if_neg one, h.writeOne_eq]

/-- A read is answered with RETRY_LATER and no data. -/
theorem regRd_eq (h : StoppedAccess s off size r wide) (tag : Nat) :
    s.regRd tag off size = s.send (.cpl tag .retryLater []) := by
  simp [State.regRd, h.live, h.regMessage_eq, h.linkOpen, h.readWindow_eq, h.twoHalves_eq_false]

/-- An answered write is answered with RETRY_LATER. -/
theorem regWra_eq (h : StoppedAccess s off size r wide) (hv : 1 ≤ s.plk.version) (tag v : Nat) :
    s.regWra tag off size v = s.send (.cpl tag .retryLater []) := by
  have hv : s.plk.version ≠ 0 := by omega
  simp [State.regWra, h.regMessage_eq, hv, h.linkOpen, h.writeWindow_eq, State.windowStatus, State.joinStatus]

/-- A posted write is refused with RETRY_LATER. -/
theorem regWr_eq (h : StoppedAccess s off size r wide) (v : Nat) :
    s.regWr off size v = s.reject (some off) .retryLater 0 := by
  simp [State.regWr, h.regMessage_eq, h.linkOpen, h.writeWindow_eq, State.rejectAll]

end StoppedAccess

/-- Settles O12: the access stops at its domain, so a CPL carries RETRY_LATER, and a posted write is recorded as refused. -/
theorem fencedRegisterAnswersRetryLater : Obligations.FencedRegisterAnswersRetryLater := by
  intro s tag off size v r wide live booted active linkOpen inWindow aligned whole found blockPresent regPresent named
    domPresent stopped
  have h : StoppedAccess s off size r wide :=
    { live, booted, linkOpen, inWindow, aligned, whole, found, blockPresent, regPresent, named, domPresent, stopped }
  refine ⟨?read, fun hv => ?answered, fun hr => ?posted⟩
  case read =>
    rw [exec_regRd_active active, h.regRd_eq]
    exact State.done_answered active ..
  case answered =>
    rw [exec_regWra_active live active, h.regWra_eq hv]
    exact State.done_answered active ..
  case posted =>
    rw [exec_regWr_active live active, h.regWr_eq]
    have recorded := s.reject_rejection off 0 .retryLater hr
    obtain ⟨hValid, hOffset, hStatus, -⟩ := by simpa only [Plk.rejection, Prod.mk.injEq] using recorded
    refine ⟨_, done_next .., hValid, hOffset, hStatus, s.reject_wrRejected off 0 .retryLater, ?_⟩
    rw [State.freed_eq, State.reject_eq]

end Sys2Proof.Machine
end

section
/-! SUPPORT. The layout of a device address, by its SPACE (R182, Table 7-2), and the storage each space reaches: HBM by the page
map (R183), scratchpad by the partition's share on a base die (R195, R233). -/

namespace Sys2Proof.Machine

/-- `bitAt` reads the bit that the library's `testBit` reads. -/
theorem bitAt_eq_testBit (v i : Nat) : bitAt v i = v.testBit i := by
  rw [bitAt, Nat.testBit_eq_decide_div_mod_eq]; rfl

/-! ### The fields of an address, by its SPACE -/

section
variable {a : Nat}

/-- A number whose bits from 62 up make a value below 4 is a 64-bit address, and that value is its SPACE. -/
theorem fld_space_of_div {n : Nat} (hn : n < 4) (h : a / 2 ^ 62 = n) : fld a 63 62 = n ∧ ¬ a ≥ 2 ^ 64 := by
  simp only [fld]; omega

theorem parseAddr_space_hbm (h : a / 2 ^ 62 = 0) :
    parseAddr a = if a / 2 ^ 53 % 2 ^ 9 = 0 then .hbm (a / 2 ^ 48 % 32) (a % 2 ^ 48) else .bad := by
  obtain ⟨space, short⟩ := fld_space_of_div (by decide) h
  simp only [parseAddr, if_neg short, space]
  simp [fld]

theorem parseAddr_space_scr (h : a / 2 ^ 62 = 1) :
    parseAddr a = if a / 2 ^ 52 % 2 ^ 10 = 0 ∧ a / 2 ^ 27 % 2 ^ 21 = 0 then
      .scr (a.testBit 51) (a / 2 ^ 48 % 8) (a % 2 ^ 27) else .bad := by
  obtain ⟨space, short⟩ := fld_space_of_div (by decide) h
  simp only [parseAddr, if_neg short, space, bitAt_eq_testBit]
  simp [fld]

theorem parseAddr_space_host (h : a / 2 ^ 62 = 2) :
    parseAddr a = if a / 2 ^ 56 % 2 ^ 6 = 0 then .host (a % 2 ^ 56) else .bad := by
  obtain ⟨space, short⟩ := fld_space_of_div (by decide) h
  simp only [parseAddr, if_neg short, space]
  simp [fld]

theorem parseAddr_space_reserved (h : a / 2 ^ 62 = 3) : parseAddr a = .bad := by
  obtain ⟨space, short⟩ := fld_space_of_div (by decide) h
  simp only [parseAddr, if_neg short, space]

end

/-! ### The storage an address reaches -/

namespace State

variable (s : State) (ptn die : Nat) {a : Nat}

theorem key_of_bad (h : parseAddr a = .bad) : s.key ptn die a = none := by
  simp only [key, h]

theorem key_of_hbm {p off : Nat} (h : parseAddr a = .hbm p off) :
    s.key ptn die a = (s.pageFrame p (off / 65536)).map fun f => hbmKey f (off % 65536) := by
  simp only [key, h]

/-- A scratchpad address reaches the partition's share on the base die it names, or with LOCAL on the unit's own (R195). -/
theorem key_of_scr {l : Bool} {d off : Nat} {p : Partition} (hp : tget s.ptns ptn = some p) (h : parseAddr a = .scr l d off) :
    s.key ptn die a =
      if off < p.scratch.getD (if l then die else d) 0 * 65536 then some (scrKey ptn (if l then die else d) off) else none := by
  simp only [key, h, hp]

end State

/-- Settles O10: SPACE selects the row of Table 7-2; the page number is the upper 32 bits of the 48-bit HBM offset; and a share of
at most 1280 granules of 64 KiB ends at 80 MiB. -/
theorem deviceAddressLayout : Obligations.DeviceAddressLayout := by
  intro a _
  refine ⟨parseAddr_space_hbm, parseAddr_space_scr, parseAddr_space_host, parseAddr_space_reserved, fun s ptn die =>
    ⟨s.key_of_bad ptn die, ?hbm, ?scr⟩⟩
  case hbm =>
    intro space reserved
    have page : a % 2 ^ 48 / 65536 = a / 2 ^ 16 % 2 ^ 32 := by omega
    have inPage : a % 2 ^ 48 % 65536 = a % 2 ^ 16 := by omega
    rw [s.key_of_hbm ptn die ((parseAddr_space_hbm space).trans (if_pos reserved)), page, inPage]
  case scr =>
    intro p hp space above between n share
    have key : s.key ptn die a = if a % 2 ^ 27 < p.scratch.getD n 0 * 65536 then some (scrKey ptn n (a % 2 ^ 27)) else none :=
      s.key_of_scr ptn die hp ((parseAddr_space_scr space).trans (if_pos ⟨above, between⟩))
    exact ⟨fun inside => key.trans (if_pos inside), fun beyond => key.trans (if_neg (by omega))⟩

end Sys2Proof.Machine
end

section
/-! SUPPORT. What a step runs: every command answers a next state, at a fatal device only those that outlive the report act, and an
empty queue ticks. -/

set_option Elab.async false

namespace Sys2Proof.Machine

/-! ### Answers -/

/-- Every command's meaning is a next state, whose waiting commands and variant are those it started with. -/
theorem exec_eq_done (c : Instr) (s : State) : ∃ t, exec c s = done s t := by
  cases c <;> exact ⟨_, rfl⟩

theorem act_of_fatal {s : State} (h : s.flt.fatal = true) (f : State → State) : act s f = .next s := by
  rw [act, if_pos h, done]

theorem act_of_not_fatal {s : State} (h : s.flt.fatal = false) (f : State → State) :
    act s f = .next { f s with pending := s.pending, variant := s.variant } := by
  rw [act, if_neg (by simp [h]), done]

/-- A command that does not outlive the fatal report has no effect on a state that has reported it. -/
theorem exec_of_fatal {c : Instr} (h : outlivesFatal c = false) {s : State} (fatal : s.flt.fatal = true) :
    exec c s = done s s := by
  cases c
  case regRd | flitReceive | modRstN | clearFaults | statusWord | readVin | readIin | readTemperature1 | readTemperature2
      | readTemperature3 | readPin | mfrRegRead | mfrReset | mfrFlash | inputLoss | inputReturn | holdupExhausted => cases h
  all_goals exact congrArg (done s) (if_pos fatal)

/-! ### The tick -/

theorem dom_tickAll (s : State) (d : Nat) :
    ((tickAll s).dom d).time = if s.live d then (s.dom d).time + 10 else (s.dom d).time := by
  obtain e | ⟨x, e⟩ := Option.eq_none_or_eq_some (tget s.domains d)
  · simp [tickAll, State.dom, State.live, tgetD, tget_tmap, e, Domain.reset]
  · simp only [tickAll, State.dom, State.live, tgetD, tget_tmap, e, Option.map_some, Option.getD_some]
    split <;> rfl

theorem core_tickAll (s : State) (c : Nat) :
    ((tickAll s).core c).time = if s.live (coreDomain c) && thas s.cores c then (s.core c).time + 10 else (s.core c).time := by
  obtain e | ⟨x, e⟩ := Option.eq_none_or_eq_some (tget s.cores c)
  · simp [tickAll, State.core, thas, tgetD, tget_tmap, e]
  · simp only [tickAll, State.core, thas, tgetD, tget_tmap, e, Option.map_some, Option.getD_some, Option.isSome_some,
      Bool.and_true]
    split <;> rfl

theorem idle_of_not_onHoldup {s : State} (h : s.pwr.onHoldup = false) : s.idle = tickAll s := by
  have h' : (tickAll s).pwr.onHoldup = false := h
  rw [State.idle, State.holdStep, if_pos (.inl h')]

/-! ### The statements -/

/-- Settles O1: a step with a command waiting runs it, by definition. -/
theorem stepRunsFrontCommand : Obligations.StepRunsFrontCommand := fun _ _ _ => rfl

/-- Settles O2: off the hold-up store an empty queue's step is `tickAll`. -/
theorem emptyQueueTicks : Obligations.EmptyQueueTicks := by
  intro s empty off
  refine ⟨tickAll s, ?_, dom_tickAll s, core_tickAll s, rfl⟩
  rw [step, empty, idle_of_not_onHoldup off]

/-- Settles O3: every meaning is a `done`, which restores the waiting commands and the variant. -/
theorem everyCommandAnswers : Obligations.EveryCommandAnswers := by
  intro c s
  obtain ⟨t, e⟩ := exec_eq_done c s
  exact ⟨_, e, rfl, rfl⟩

/-- Settles O4: `act` leaves a state that has reported fatal. -/
theorem fatalStopsCommands : Obligations.FatalStopsCommands := by
  intro c s fatal h
  exact exec_of_fatal h fatal

/-- Settles O8: the reset state's tables are empty, so every entry is the one that a table gives where it lists none. -/
theorem resetLeaves : Obligations.ResetLeaves :=
  ⟨rfl, rfl, rfl, rfl, rfl, rfl, rfl, fun _ => rfl, fun _ => rfl, fun _ => rfl, fun _ => rfl, fun _ => rfl, rfl,
    List.Pairwise.nil, List.Pairwise.nil⟩

end Sys2Proof.Machine
end

section
/-! SUPPORT. The copy of a re-stripe does not keep the storage's canonical form when a byte is listed above the keys that the copy
uses to hold a page: it lists that byte twice. -/

set_option Elab.async false

namespace Sys2Proof.Machine

/-- A command put before an empty queue runs on the state as it was. -/
theorem step_only {s : State} (h : s.pending = []) (c : Instr) : step { s with pending := [c] } = exec c s := by
  show exec c { s with pending := [] } = exec c s
  rw [← h]

/-- If steps keep the canonical form, the effect of a command that has one keeps it. -/
theorem memWf_of_act (keeps : Obligations.StepKeepsMemoryForm) {s : State} {c : Instr} {f : State → State}
    (alone : s.pending = []) (alive : s.flt.fatal = false) (e : exec c s = act s f) (h : s.memWf) : (f s).memWf :=
  keeps { s with pending := [c] } { f s with pending := s.pending, variant := s.variant } h ((step_only alone c).trans (e.trans (act_of_not_fatal alive f)))

/-- Partition 0, on pseudo-channel `g` alone. -/
def onePc (g : Nat) : Partition :=
  { quads := 0, ways := [], scratch := [], sorus := [], pcs := 2 ^ g, shares := 0, restriping := true }

/-- A re-stripe of partition 0's one page from pseudo-channel 0 to 1 whose copy is about to end, with a byte listed at key 2^91. -/
def strayByte : State :=
  { State.reset with
    mem := { cells := [(2 ^ 91, 1)], undef := [] }
    ptns := [(0, onePc 0)]
    batch := some { addr := 0, start := 0, applied := true, copied := [], items :=
      [{ op := 1, ptn := 0, part := onePc 1, restripe := true, used := 1, moves := [], copied := 0 }] }
  }

theorem strayByte_memWf : strayByte.memWf := rfl

theorem restripeCopyEnd_eq (p : Nat) (s : State) : exec (.restripeCopyEnd p) s = act s fun s => s.stripeEnd p := rfl

/-- The stray byte is listed twice afterwards. -/
theorem stripeEnd_strayByte_cells : (strayByte.stripeEnd 0).mem.cells = [(2 ^ 91, 1), (2 ^ 91, 1)] := by decide +kernel

/-- Refutes O6: the copy of a re-stripe lists a byte at key 2^91 twice (`strayByte`). -/
theorem not_stepKeepsMemoryForm : ¬ Obligations.StepKeepsMemoryForm := by
  intro keeps
  have rising := ((Memory.wf_iff _).mp (memWf_of_act keeps rfl rfl (restripeCopyEnd_eq 0 strayByte) strayByte_memWf)).1
  rw [stripeEnd_strayByte_cells] at rising
  simp at rising

end Sys2Proof.Machine
end

section
/-! SUPPORT. What every operation keeps: the tables of domains and of serving requests in the order of their numbers. One lemma an operation, named after it. Its many short proofs are elaborated one after another, since a thread for each of them takes too much memory. -/

set_option Elab.async false

namespace Sys2Proof.Machine

/-! ### Tables in order -/

/-- The entries of a table stand in the order of their numbers, each number listed once. -/
def Rising {α : Type} (t : Tab α) : Prop := t.Pairwise fun p q => p.1 < q.1

namespace Rising

variable {α : Type} {t : Tab α}

theorem nil : Rising ([] : Tab α) := List.Pairwise.nil

theorem tput (k : Nat) (a : α) (h : Rising t) : Rising (tput t k a) := tput_rising k a h

theorem tmap (f : Nat → α → α) (h : Rising t) : Rising (tmap f t) := by
  unfold Rising Sys2Proof.Machine.tmap
  exact List.pairwise_map.mpr h

theorem tmod (k : Nat) (f : α → α) (h : Rising t) : Rising (tmod t k f) := by
  unfold Sys2Proof.Machine.tmod
  split
  · exact h.tput k _
  · exact h

theorem filter (p : Nat × α → Bool) (h : Rising t) : Rising (t.filter p) := List.Pairwise.filter p h

theorem tdel (k : Nat) (h : Rising t) : Rising (tdel t k) := by
  have sub : (Sys2Proof.Machine.tdel t k).Sublist t := by
    clear h
    induction t with
    | nil => exact List.Sublist.refl _
    | cons p r ih =>
      unfold Sys2Proof.Machine.tdel
      split
      · exact ih.cons p
      · exact ih.cons_cons p
  exact List.Pairwise.sublist sub h

end Rising

/-- The tables of domains and of requests are in order. -/
structure State.Ordered (s : State) : Prop where
  domains : Rising s.domains
  requests : Rising s.requests

namespace State

/-! ### How it carries over -/

variable {s t : State}

theorem reset_ordered : reset.Ordered := ⟨Rising.nil, Rising.nil⟩

/-- An update of other fields. -/
theorem Ordered.of_eq (h : s.Ordered) (d : t.domains = s.domains := by rfl)
    (r : t.requests = s.requests := by rfl) : t.Ordered :=
  ⟨d ▸ h.domains, r ▸ h.requests⟩

theorem Ordered.ite {c : Prop} [Decidable c] (hs : s.Ordered) (ht : t.Ordered) : (if c then s else t).Ordered := by
  split
  · exact hs
  · exact ht

theorem Ordered.ite_snd {β : Type} {c : Prop} [Decidable c] {p q : β × State} (hp : p.2.Ordered) (hq : q.2.Ordered) :
    (if c then p else q).2.Ordered := by
  split
  · exact hp
  · exact hq

/-- A run over a list whose every step keeps it. -/
theorem Ordered.foldl {α : Type} {f : State → α → State} {l : List α} (h : s.Ordered)
    (hf : ∀ s a, s.Ordered → (f s a).Ordered) : (l.foldl f s).Ordered := by
  induction l generalizing s with
  | nil => exact h
  | cons a r ih => exact ih (hf s a h)

/-- A run over a list that carries a value beside the state. -/
theorem Ordered.foldl_fst {α β : Type} {f : State × β → α → State × β} {l : List α} {p : State × β} (h : p.1.Ordered)
    (hf : ∀ p a, p.1.Ordered → (f p a).1.Ordered) : (l.foldl f p).1.Ordered := by
  induction l generalizing p with
  | nil => exact h
  | cons a r ih => exact ih (hf p a h)

theorem Ordered.foldl_snd {α β : Type} {f : β × State → α → β × State} {l : List α} {p : β × State} (h : p.2.Ordered)
    (hf : ∀ p a, p.2.Ordered → (f p a).2.Ordered) : (l.foldl f p).2.Ordered := by
  induction l generalizing p with
  | nil => exact h
  | cons a r ih => exact ih (hf p a h)

theorem Ordered.of_fst {β : Type} {p : State × β} {b : β} (h : p.1.Ordered) (e : p = (t, b)) : t.Ordered := by
  subst e; exact h

theorem Ordered.of_snd {β : Type} {p : β × State} {b : β} (h : p.2.Ordered) (e : p = (b, t)) : t.Ordered := by
  subst e; exact h

theorem Ordered.of_snd_snd {β γ : Type} {p : β × γ × State} {b : β} {c : γ} (h : p.2.2.Ordered) (e : p = (b, c, t)) : t.Ordered := by
  subst e; exact h

end State

end Sys2Proof.Machine
end

section
/-! SUPPORT. Each operation of the state keeps the two tables in order, up to the registers. -/

set_option Elab.async false

namespace Sys2Proof.Machine.State
theorem setEv_ordered {s : State} {e : Nat} {r : EventReg} (hs : s.Ordered) : (s.setEv e r).Ordered :=
  hs.of_eq

theorem setDom_ordered {s : State} {d : Nat} {x : Domain} (hs : s.Ordered) : (s.setDom d x).Ordered :=
  ⟨Rising.tput _ _ hs.domains, hs.requests⟩

theorem setCore_ordered {s : State} {c : Nat} {x : Core} (hs : s.Ordered) : (s.setCore c x).Ordered :=
  hs.of_eq

theorem setGroup_ordered {s : State} {g : Nat} {x : Group} (hs : s.Ordered) : (s.setGroup g x).Ordered :=
  hs.of_eq

theorem setQuad_ordered {s : State} {k : Nat} {x : Quadrant} (hs : s.Ordered) : (s.setQuad k x).Ordered :=
  hs.of_eq

theorem setArr_ordered {s : State} {a : Nat} {x : Arr} (hs : s.Ordered) : (s.setArr a x).Ordered :=
  hs.of_eq

theorem setCtx_ordered {s : State} {c : Nat} {x : Context} (hs : s.Ordered) : (s.setCtx c x).Ordered :=
  hs.of_eq

theorem setStack_ordered {s : State} {k : Nat} {x : Stack} (hs : s.Ordered) : (s.setStack k x).Ordered :=
  hs.of_eq

theorem setPc_ordered {s : State} {g : Nat} {x : Pc} (hs : s.Ordered) : (s.setPc g x).Ordered :=
  hs.of_eq

theorem setAttr_ordered {s : State} {f a : Nat} (hs : s.Ordered) : (s.setAttr f a).Ordered :=
  hs.of_eq

theorem setDmaE_ordered {s : State} {e : Nat} {x : DmaEngine} (hs : s.Ordered) : (s.setDmaE e x).Ordered :=
  hs.of_eq

theorem setRzLink_ordered {s : State} {l : Nat} {x : Link} (hs : s.Ordered) : (s.setRzLink l x).Ordered :=
  hs.of_eq

theorem setEngine_ordered {s : State} {e : Nat} {x : MediaEngine} (hs : s.Ordered) : (s.setEngine e x).Ordered :=
  hs.of_eq

theorem setPort_ordered {s : State} {p : Nat} {x : Port} (hs : s.Ordered) : (s.setPort p x).Ordered :=
  hs.of_eq

theorem setQp_ordered {s : State} {n : Nat} {x : Qp} (hs : s.Ordered) : (s.setQp n x).Ordered :=
  hs.of_eq

theorem setQueue_ordered {s : State} {c q : Nat} {x : Queue} (hs : s.Ordered) : (s.setQueue c q x).Ordered :=
  setCtx_ordered hs

theorem pump_ordered {s : State} (hs : s.Ordered) : s.pump.Ordered := by
  unfold pump
  split
  · extract_lets
    exact hs.of_eq
  · exact hs

theorem send_ordered {s : State} {m : OutMsg} (hs : s.Ordered) : (s.send m).Ordered := by
  unfold send
  split
  · exact pump_ordered (hs.of_eq)
  · exact hs

theorem emit_ordered {s : State} {m : OutMsg} (hs : s.Ordered) : (s.emit m).Ordered :=
  hs.of_eq

theorem emitFlits_ordered {s : State} {m : OutMsg} {n : Nat} (hs : s.Ordered) : (s.emitFlits m n).Ordered :=
  hs.of_eq

theorem sendNet_ordered {s : State} {m : NetMsg} (hs : s.Ordered) : (s.sendNet m).Ordered :=
  hs.of_eq

theorem releaseNet_ordered {s : State} (hs : s.Ordered) : s.releaseNet.Ordered :=
  hs.of_eq

theorem sendCtl_ordered {s : State} {m : CtlMsg} (hs : s.Ordered) : (s.sendCtl m).Ordered :=
  hs.of_eq

theorem evalEvent_ordered {s : State} {e : Nat} (hs : s.Ordered) : (s.evalEvent e).Ordered := by
  unfold evalEvent
  extract_lets _ _ _ s1
  have h_s1 : s1.Ordered := setEv_ordered hs
  split
  · exact hs
  · exact send_ordered h_s1

theorem raiseEv_ordered {s : State} {e b : Nat} (hs : s.Ordered) : (s.raiseEv e b).Ordered :=
  evalEvent_ordered (setEv_ordered hs)

theorem raiseCtx_ordered {s : State} {e b c q : Nat} (hs : s.Ordered) : (s.raiseCtx e b c q).Ordered :=
  evalEvent_ordered (setEv_ordered hs)

theorem lineAccess_ordered {s : State} {f l : Nat} {write alloc : Bool} (hs : s.Ordered) : (s.lineAccess f l write alloc).Ordered := by
  unfold lineAccess
  split
  · exact hs
  · extract_lets
    split
    · exact hs.of_eq
    · split
      · exact hs
      · exact hs.of_eq

theorem dirtied_ordered {s : State} {k n : Nat} (hs : s.Ordered) : (s.dirtied k n).Ordered := by
  unfold dirtied
  split
  · exact hs
  · refine Ordered.foldl hs ?_
    intro s1 a1 h1
    extract_lets
    exact lineAccess_ordered h1

theorem lineReads_ordered {s : State} {ptn k n : Nat} (hs : s.Ordered) : (s.lineReads ptn k n).Ordered := by
  unfold lineReads
  split
  · exact hs
  · refine Ordered.foldl hs ?_
    intro s1 a1 h1
    extract_lets
    exact lineAccess_ordered h1

theorem writeBack_ordered {s : State} {ok : Nat → Bool} (hs : s.Ordered) : (s.writeBack ok).Ordered :=
  hs.of_eq

theorem settleWays_ordered {s old : State} (hs : s.Ordered) (_ : old.Ordered) : (s.settleWays old).Ordered :=
  hs.of_eq

theorem writeAt_ordered {s : State} {ptn die a : Nat} {b : Byte} (hs : s.Ordered) : (s.writeAt ptn die a b).Ordered := by
  unfold writeAt
  split
  · exact hs.of_eq
  · exact hs

theorem writeBytes_ordered {s : State} {ptn die a : Nat} {l : List Byte} (hs : s.Ordered) : (s.writeBytes ptn die a l).Ordered := by
  induction l generalizing s a with
  | nil => exact hs
  | cons b r ih => exact ih (writeAt_ordered hs)

theorem storeBytes_ordered {s : State} {ptn a : Nat} {l : List Byte} (hs : s.Ordered) : (s.storeBytes ptn a l).Ordered := by
  unfold storeBytes
  extract_lets s1
  have h_s1 : s1.Ordered := writeBytes_ordered hs
  split
  · refine Ordered.foldl h_s1 ?_
    intro s1 a1 h1
    split
    · extract_lets
      exact dirtied_ordered h1
    · exact h1
  · exact h_s1

theorem fwWrite_ordered {s : State} {a : Nat} {l : List Byte} (hs : s.Ordered) : (s.fwWrite a l).Ordered :=
  storeBytes_ordered hs

theorem fresh_ordered {s : State} {w : Nat} (hs : s.Ordered) : (s.fresh w).2.Ordered :=
  hs.of_eq

theorem tickAll_ordered {s : State} (hs : s.Ordered) : (tickAll s).Ordered :=
  ⟨List.pairwise_map.mpr hs.domains, hs.requests⟩

theorem openFault_ordered {s : State} {r : FaultRecord} (hs : s.Ordered) : (s.openFault r).1.Ordered :=
  hs.of_eq

theorem modFault_ordered {s : State} {id : Nat} {f : FaultRecord → FaultRecord} (hs : s.Ordered) : (s.modFault id f).Ordered :=
  hs.of_eq

theorem startTeardown_ordered {s : State} {c : Nat} (hs : s.Ordered) : (s.startTeardown c).Ordered := by
  unfold startTeardown
  extract_lets
  split
  · exact hs
  · exact setCtx_ordered hs

theorem faultContext_ordered {s : State} {kind c : Nat} (hs : s.Ordered) : (s.faultContext kind c).Ordered := by
  unfold faultContext
  extract_lets _ _ r
  have h_r : r.1.Ordered := openFault_ordered hs
  split
  · exact hs
  · exact startTeardown_ordered h_r

theorem writeTile_ordered {s : State} {a k cols : Nat} {v : Nat → Nat → Num} (hs : s.Ordered) : (s.writeTile a k cols v).Ordered :=
  Ordered.foldl hs (fun _ _ h1 => (Ordered.foldl h1 (fun _ _ h2 => (h2.of_eq))))

theorem hostMessages_ordered {s : State} {h : Nat} {l : List Byte} {fuel : Nat} (hs : s.Ordered) :
    (s.hostMessages h l fuel).Ordered := by
  induction fuel generalizing s h l with
  | zero => exact hs
  | succ fuel ih => exact Ordered.ite hs (ih (send_ordered hs))

theorem post_ordered {s : State} {a : Nat} {l : List Byte} (hs : s.Ordered) : (s.post a l).Ordered := by
  unfold post
  split
  · split
    · exact hostMessages_ordered (fwWrite_ordered hs)
    · exact hs
  · exact fwWrite_ordered hs

theorem putRecord_ordered {s : State} {c q : Nat} {l : List Byte} (hs : s.Ordered) : (s.putRecord c q l).Ordered := by
  unfold putRecord
  extract_lets _ s1 _
  have h_s1 : s1.Ordered := post_ordered hs
  split
  · exact hs
  · exact setQueue_ordered h_s1

theorem advance_ordered {s : State} {c q : Nat} (hs : s.Ordered) : (s.advance c q).Ordered :=
  setQueue_ordered hs

theorem modCmd_ordered {s : State} {c q : Nat} {idx : Word} {f : Cmd → Cmd} (hs : s.Ordered) : (s.modCmd c q idx f).Ordered :=
  setQueue_ordered hs

theorem answer_ordered {s : State} {c q : Nat} {idx : Word} {st : Status} (hs : s.Ordered) : (s.answer c q idx st).Ordered :=
  modCmd_ordered hs

theorem answerFenced_ordered {s : State} {c q : Nat} {idx : Word} {d : Nat} (hs : s.Ordered) : (s.answerFenced c q idx d).Ordered :=
  modCmd_ordered hs

theorem halt_ordered {s : State} {c q : Nat} {idx : Word} {st : Status} (hs : s.Ordered) : (s.halt c q idx st).Ordered :=
  raiseCtx_ordered (setQueue_ordered hs)

theorem unbind_ordered {s : State} {c q : Nat} {idx : Word} (hs : s.Ordered) : (s.unbind c q idx).Ordered :=
  hs.of_eq

theorem freeHeld_ordered {s : State} {c q mask : Nat} (hs : s.Ordered) : (s.freeHeld c q mask).Ordered :=
  hs.of_eq

theorem retry_ordered {s : State} {c q : Nat} {idx : Word} (hs : s.Ordered) : (s.retry c q idx).Ordered := by
  unfold retry
  split
  · exact hs
  · extract_lets s1 _
    have h_s1 : s1.Ordered := unbind_ordered hs
    exact setQueue_ordered h_s1

theorem reissue_ordered {s : State} {c q : Nat} {idx : Word} (hs : s.Ordered) : (s.reissue c q idx).Ordered := by
  unfold reissue
  split
  · exact hs
  · extract_lets _ s2 _ _ _ _ _
    have h_s2 : s2.Ordered := retry_ordered hs
    split
    · split
      · split
        · exact freeHeld_ordered h_s2
        · extract_lets _ _ s3 _
          have h_s3 : s3.Ordered := freeHeld_ordered (Ordered.foldl h_s2 (fun _ _ h1 => (unbind_ordered h1)))
          exact setQueue_ordered h_s3
      · exact freeHeld_ordered h_s2
    · exact h_s2

theorem finalCode_ordered {s : State} {c q : Nat} {idx : Word} {st : Status} (hs : s.Ordered) : (s.finalCode c q idx st).Ordered := by
  unfold finalCode
  split
  · exact hs
  · extract_lets s1 s2 _ _ _ s3 s4 s5
    have h_s1 : s1.Ordered := Ordered.ite (putRecord_ordered hs) hs
    have h_s2 : s2.Ordered := modCmd_ordered h_s1
    have h_s3 : s3.Ordered := Ordered.ite h_s2 (setQueue_ordered h_s2)
    have h_s4 : s4.Ordered := Ordered.ite (raiseCtx_ordered h_s3) h_s3
    have h_s5 : s5.Ordered := by
      unfold s5
      split
      · exact h_s4
      · exact h_s4
      · exact h_s4
      · exact faultContext_ordered h_s4
      · exact halt_ordered h_s4
    exact advance_ordered h_s5

theorem complete_ordered {s : State} {c q : Nat} {idx : Word} (hs : s.Ordered) : (s.complete c q idx).Ordered := by
  unfold complete
  split
  · exact hs
  · split
    · exact hs
    · split
      · exact hs
      · split
        · exact hs
        · exact retry_ordered hs
      · split
        · exact reissue_ordered (modCmd_ordered hs)
        · exact finalCode_ordered hs
      · exact finalCode_ordered hs

theorem putLayer_ordered {s : State} {c i : Nat} {r : LayerRec} (hs : s.Ordered) : (s.putLayer c i r).Ordered :=
  post_ordered hs

theorem putWords_ordered {s : State} {c q : Nat} {lo : Word} {ws : List Nat} (hs : s.Ordered) : (s.putWords c q lo ws).Ordered :=
  setQueue_ordered (Ordered.foldl hs (fun _ _ h1 => (Ordered.ite h1 (post_ordered h1))))

theorem escalateWords_ordered {s : State} {c q layer : Nat} {backward : Bool} (hs : s.Ordered) : (s.escalateWords c q layer backward).Ordered := by
  unfold escalateWords
  extract_lets
  refine Ordered.foldl (putWords_ordered hs) ?_
  intro s1 a1 h1
  extract_lets
  split
  · exact h1
  · exact putWords_ordered h1

theorem patchQueues_ordered {s : State} {c : Nat} (hs : s.Ordered) : (s.patchQueues c).Ordered := by
  unfold patchQueues
  extract_lets
  refine Ordered.foldl hs ?_
  intro s1 a1 h1
  extract_lets
  split
  · exact h1
  · exact putWords_ordered h1

theorem setChan_ordered {s : State} {i : Nat} {ch : Channel} (hs : s.Ordered) : (s.setChan i ch).Ordered :=
  hs.of_eq

theorem jobAfter_ordered {s : State} {j : Nat} (hs : s.Ordered) : (s.jobAfter j).Ordered := by
  unfold jobAfter
  split
  · split
    · split
      · exact hs
      · extract_lets s1
        have h_s1 : s1.Ordered := hs.of_eq
        exact post_ordered h_s1
    · split
      · exact hs.of_eq
      · exact hs
  · exact hs

theorem chanClosed_ordered {s : State} {i : Nat} (hs : s.Ordered) : (s.chanClosed i).Ordered := by
  unfold chanClosed
  split
  · extract_lets _ s1 s2
    have h_s1 : s1.Ordered := hs.of_eq
    have h_s2 : s2.Ordered := by
      unfold s2
      split
      · exact post_ordered h_s1
      · exact h_s1
    exact jobAfter_ordered h_s2
  · exact hs

theorem chanAfter_ordered {s : State} {i : Nat} (hs : s.Ordered) : (s.chanAfter i).Ordered := by
  unfold chanAfter
  split
  · split
    · extract_lets
      split
      · exact chanClosed_ordered (setChan_ordered hs)
      · exact setChan_ordered hs
    · exact hs
  · exact hs

theorem chanClose_ordered {s : State} {i : Nat} {discard : Bool} {req : Option Nat} (hs : s.Ordered) : (s.chanClose i discard req).Ordered := by
  unfold chanClose
  split
  · extract_lets
    exact chanAfter_ordered (setChan_ordered hs)
  · exact hs

theorem fwCloseJob_ordered {s : State} {j : Nat} (hs : s.Ordered) : (s.fwCloseJob j).Ordered :=
  jobAfter_ordered (Ordered.foldl hs (fun _ _ h1 => (chanClose_ordered h1)))

theorem modChan_ordered {s : State} {i : Nat} {f : Channel → Channel} (hs : s.Ordered) : (s.modChan i f).Ordered := by
  unfold modChan
  split
  · exact chanAfter_ordered (setChan_ordered hs)
  · exact hs

theorem chanFault_ordered {s : State} {i : Nat} (hs : s.Ordered) : (s.chanFault i).Ordered := by
  unfold chanFault
  split
  · exact raiseEv_ordered (setChan_ordered hs)
  · exact hs

theorem chanCommit_ordered {s : State} {i c q : Nat} {idx : Word} {cursor valid : Nat} {last : Bool} (hs : s.Ordered) : (s.chanCommit i c q idx cursor valid last).Ordered := by
  unfold chanCommit
  split
  · split
    · exact setChan_ordered hs
    · split
      · exact setChan_ordered hs
      · exact hs
  · exact hs

theorem padTokens_ordered {s : State} {i slot : Nat} {ch : Channel} {lo hi : Nat} (hs : s.Ordered) : (s.padTokens i slot ch lo hi).Ordered :=
  hs.of_eq

theorem chanWait_ordered {s : State} {c q : Nat} {idx : Word} {i : Nat} (hs : s.Ordered) : (s.chanWait c q idx i).Ordered := by
  unfold chanWait
  split
  · extract_lets
    exact modCmd_ordered hs
  · exact hs

theorem chanWaited_ordered {s : State} {c q : Nat} {idx : Word} {i : Nat} {put : Bool} (hs : s.Ordered) : (s.chanWaited c q idx i put).Ordered := by
  unfold chanWaited
  split
  · split
    · extract_lets
      exact modCmd_ordered (setChan_ordered hs)
    · exact hs
  · exact hs

theorem teacherFault_ordered {s : State} {c : Nat} (hs : s.Ordered) : (s.teacherFault c).Ordered :=
  Ordered.foldl hs (fun _ _ h1 => (modChan_ordered h1))

theorem studentLeaves_ordered {s : State} {c : Nat} (hs : s.Ordered) : (s.studentLeaves c).Ordered :=
  Ordered.foldl hs (fun _ _ h1 => (modChan_ordered h1))

theorem sliceReset_ordered {s : State} {die : Nat} (hs : s.Ordered) : (s.sliceReset die).Ordered := by
  unfold sliceReset
  extract_lets _ _ s1
  have h_s1 : s1.Ordered := Ordered.foldl hs (fun _ _ h1 => (modChan_ordered h1))
  split
  · exact raiseEv_ordered h_s1
  · exact h_s1

theorem chanMigrate_ordered {s : State} {i slice : Nat} (hs : s.Ordered) : (s.chanMigrate i slice).Ordered := by
  unfold chanMigrate
  split
  · exact chanAfter_ordered (raiseEv_ordered (setChan_ordered hs))
  · exact hs

theorem undefineRegions_ordered {s : State} {p : Nat} (hs : s.Ordered) : (s.undefineRegions p).Ordered :=
  hs.of_eq

theorem logStore_ordered {s : State} {p : Nat} {l : List Byte} (hs : s.Ordered) : (s.logStore p l).Ordered := by
  unfold logStore
  extract_lets
  split
  · exact dirtied_ordered (hs.of_eq)
  · exact hs

theorem logPut_ordered {s : State} {ty st fl step : Nat} {body : List Byte} (hs : s.Ordered) : (s.logPut ty st fl step body).Ordered := by
  unfold logPut
  split
  · exact hs
  · split
    · exact hs
    · extract_lets _ _ _ _ _ s1 _ s2 _ s3 _
      have h_s1 : s1.Ordered := Ordered.ite (hs.of_eq) (logStore_ordered hs)
      have h_s2 : s2.Ordered := Ordered.ite (sendNet_ordered h_s1) (Ordered.ite h_s1 (h_s1.of_eq))
      have h_s3 : s3.Ordered := h_s2.of_eq
      split
      · exact raiseEv_ordered (h_s3.of_eq)
      · exact h_s3

theorem logRelease_ordered {s : State} {giveUp : Bool} (hs : s.Ordered) : (s.logRelease giveUp).Ordered := by
  unfold logRelease
  split
  · exact hs
  · extract_lets _ s1 _ s2 _
    have h_s1 : s1.Ordered := Ordered.foldl hs (fun _ _ h1 => (logStore_ordered h1))
    have h_s2 : s2.Ordered := h_s1.of_eq
    exact h_s2.of_eq

theorem heldRelease_ordered {s : State} {ok : Nat → Bool} (hs : s.Ordered) : (s.heldRelease ok).Ordered := by
  unfold heldRelease
  extract_lets _ s1 _
  have h_s1 : s1.Ordered := Ordered.foldl hs (fun _ _ h1 => (dirtied_ordered h1))
  exact h_s1.of_eq

theorem clearWp_ordered {s : State} {ptn : Nat} (hs : s.Ordered) : (s.clearWp ptn).Ordered := by
  unfold clearWp
  extract_lets _ s1
  have h_s1 : s1.Ordered := hs.of_eq
  exact heldRelease_ordered h_s1

theorem ckptRecord_ordered {s : State} (hs : s.Ordered) : s.ckptRecord.Ordered :=
  logPut_ordered hs

theorem ckptEnd_ordered {s : State} {failed : Bool} (hs : s.Ordered) : (s.ckptEnd failed).Ordered := by
  unfold ckptEnd
  split
  · extract_lets _ s1 s2
    have h_s1 : s1.Ordered := hs.of_eq
    have h_s2 : s2.Ordered := by
      unfold s2
      split
      · exact clearWp_ordered h_s1
      · exact h_s1
    exact raiseEv_ordered (ckptRecord_ordered (Ordered.ite (logRelease_ordered h_s2) h_s2))
  · exact hs

theorem cowStart_ordered {s : State} {frame : Nat} (hs : s.Ordered) : (s.cowStart frame).Ordered := by
  unfold cowStart
  split
  · exact hs
  · extract_lets
    split
    · exact hs.of_eq
    · split
      · exact raiseEv_ordered (ckptEnd_ordered (clearWp_ordered hs))
      · exact hs

theorem putKey_ordered {s : State} {c q : Nat} {idx : Word} {k : Nat} {l : List Byte} (hs : s.Ordered) : (s.putKey c q idx k l).Ordered := by
  unfold putKey
  split
  · extract_lets s1 _
    have h_s1 : s1.Ordered := cowStart_ordered hs
    split
    · exact h_s1.of_eq
    · exact dirtied_ordered (h_s1.of_eq)
  · exact dirtied_ordered (hs.of_eq)

theorem putRow_ordered {s : State} {c q : Nat} {idx : Word} {row : RowAt} {off : Nat} {l : List Byte} {fuel : Nat} (hs : s.Ordered) :
    (s.putRow c q idx row off l fuel).Ordered := by
  induction fuel generalizing s off l with
  | zero => exact hs
  | succ fuel ih =>
    unfold putRow
    split
    · exact hs
    · exact hs
    · exact ih (putKey_ordered hs)

theorem hostWrites_ordered {s : State} {c q : Nat} {idx : Word} {h : Nat} {l : List Byte} {fuel : Nat} (hs : s.Ordered) :
    (s.hostWrites c q idx h l fuel).Ordered := by
  induction fuel generalizing s h l with
  | zero => exact hs
  | succ fuel ih => exact Ordered.ite hs (ih (send_ordered hs.of_eq))

theorem putBytes_ordered {s : State} {c q : Nat} {idx : Word} {ptn die a : Nat} {l : List Byte} (hs : s.Ordered) : (s.putBytes c q idx ptn die a l).Ordered := by
  unfold putBytes
  split
  · split
    · exact hs
    · exact hostWrites_ordered hs
  · exact putRow_ordered hs

theorem putDest_ordered {s : State} {c q : Nat} {idx : Word} {ptn die : Nat} {dst : Dest} {fmt cols r c0 : Nat} {vs : List Nat} (hs : s.Ordered) : (s.putDest c q idx ptn die dst fmt cols r c0 vs).Ordered := by
  unfold putDest
  split
  · exact hs
  · split
    · extract_lets
      exact putBytes_ordered hs
    · extract_lets
      exact putRow_ordered hs
    · split
      · exact hs
      · extract_lets
        exact putRow_ordered hs
    · exact hs

theorem takeDraws_ordered {s : State} {c q : Nat} {idx : Word} {n : Nat} (hs : s.Ordered) : (s.takeDraws c q idx n).Ordered := by
  unfold takeDraws
  split
  · split
    · extract_lets
      exact modCmd_ordered (setCtx_ordered hs)
    · exact hs
  · exact hs

theorem unitStart_ordered {s : State} {op c q : Nat} {idx : Word} {doms : List Nat} {body : State → Cmd → At → State} (hs : s.Ordered) (h_body : ∀ a0 a1 a2, a0.Ordered → (body a0 a1 a2).Ordered) : (s.unitStart op c q idx doms body).Ordered := by
  unfold unitStart
  split
  · exact hs
  · extract_lets
    split
    · exact hs
    · split
      · exact answerFenced_ordered hs
      · split
        · split
          · exact answerFenced_ordered hs
          · exact answer_ordered hs
        · exact answer_ordered hs
        · exact h_body _ _ _ hs

theorem withChan_ordered {s : State} {c q : Nat} {idx : Word} {i : Nat} {put ready : Bool} {body : State → State} (hs : s.Ordered) (h_body : ∀ a0, a0.Ordered → (body a0).Ordered) : (s.withChan c q idx i put ready body).Ordered := by
  unfold withChan
  split
  · split
    · exact answerFenced_ordered hs
    · exact answer_ordered hs
  · exact answer_ordered hs
  · split
    · exact h_body _ (chanWaited_ordered hs)
    · exact chanWait_ordered hs

theorem fillSlot_ordered {s : State} {i : Nat} (hs : s.Ordered) : (s.fillSlot i).2.Ordered := by
  unfold fillSlot
  split
  · extract_lets
    exact setChan_ordered hs
  · exact hs

theorem setHalf_ordered {s : State} {a h : Nat} {x : Half2} (hs : s.Ordered) : (s.setHalf a h x).Ordered :=
  setArr_ordered hs

theorem countWaits_ordered {s : State} {k : Nat} {op space : Bool} (hs : s.Ordered) : (s.countWaits k op space).Ordered := by
  unfold countWaits
  extract_lets _ _ __src
  have h___src : __src.Ordered := setQuad_ordered hs
  split
  · exact h___src.of_eq
  · exact hs

theorem edgeWaits_ordered {s : State} {c q : Nat} {idx : Word} {stationary space edge : Bool} (hs : s.Ordered) : (s.edgeWaits c q idx stationary space edge).Ordered :=
  modCmd_ordered hs

theorem edgeWaited_ordered {s : State} {c q : Nat} {idx : Word} {arrays : List Nat} (hs : s.Ordered) : (s.edgeWaited c q idx arrays).Ordered := by
  unfold edgeWaited
  split
  · split
    · exact hs
    · exact modCmd_ordered (Ordered.foldl hs (fun _ _ h1 => (countWaits_ordered h1)))
  · exact hs

theorem releaseSlots_ordered {s : State} {x : At} {v tiles : Nat} (hs : s.Ordered) : (s.releaseSlots x v tiles).Ordered := by
  unfold releaseSlots
  split
  · refine Ordered.foldl hs ?_
    intro s1 a1 h1
    extract_lets
    exact setArr_ordered h1
  · exact hs

theorem setHalves_ordered {s : State} {hs : List (Nat × Nat)} {x : Half2} (h_s : s.Ordered) : (s.setHalves hs x).Ordered :=
  Ordered.foldl h_s (fun _ _ h1 => (setHalf_ordered h1))

theorem bindMatrix_ordered {s : State} {c q : Nat} {idx : Word} {x : At} (hs : s.Ordered) : (s.bindMatrix c q idx x).Ordered := by
  unfold bindMatrix
  extract_lets _ _ _ _ _ s1 s2
  have h_s1 : s1.Ordered := by
    unfold s1
    refine Ordered.foldl hs ?_
    intro s1 a1 h1
    extract_lets
    exact setArr_ordered h1
  have h_s2 : s2.Ordered := modCmd_ordered h_s1
  exact takeDraws_ordered h_s2

theorem loadRows_ordered {s : State} {x : At} {a h : Nat} {ins : ArrInstr} (hs : s.Ordered) : (s.loadRows x a h ins).Ordered := by
  unfold loadRows
  split
  · extract_lets s1
    have h_s1 : s1.Ordered := by
      unfold s1
      refine Ordered.foldl hs ?_
      intro s1 a1 h1
      extract_lets
      exact h1.of_eq
    exact setHalf_ordered h_s1
  · exact hs

theorem reserveSpace_ordered {s : State} {x : At} {a h : Nat} {ins : ArrInstr} {y : Cmd} (hs : s.Ordered) : (s.reserveSpace x a h ins y).Ordered := by
  unfold reserveSpace
  split
  · split
    · split
      · exact hs
      · exact setHalf_ordered hs
    · split
      · split
        · split
          · exact hs
          · extract_lets r
            have h_r : r.2.Ordered := fillSlot_ordered hs
            exact modCmd_ordered h_r
        · exact hs
      · exact hs
  · exact hs

theorem loadNext_ordered {s : State} {x : At} {a : Nat} {ins : ArrInstr} (hs : s.Ordered) : (s.loadNext x a ins).Ordered := by
  unfold loadNext
  split
  · split
    · exact loadRows_ordered hs
    · exact hs
  · exact hs

theorem putTrec_ordered {s : State} {c q : Nat} {idx : Word} {x : At} {die tile word : Nat} (hs : s.Ordered) : (s.putTrec c q idx x die tile word).Ordered := by
  unfold putTrec
  split
  · split
    · exact putBytes_ordered hs
    · exact hs
  · exact hs

theorem tileDone_ordered {s : State} {c q : Nat} {idx : Word} {x : At} {a tile tag retries : Nat} {nonfinite ovf : Bool} {maxExp : ℤ} (hs : s.Ordered) : (s.tileDone c q idx x a tile tag retries nonfinite ovf maxExp).Ordered := by
  unfold tileDone
  extract_lets s2
  have h_s2 : s2.Ordered := putTrec_ordered hs
  exact modCmd_ordered h_s2

theorem noteLast_ordered {s : State} {a : Nat} {st : Status} {retries : Nat} (hs : s.Ordered) : (s.noteLast a st retries).Ordered :=
  setArr_ordered hs

theorem noteRun_ordered {s : State} {a : Nat} {r : TileRun} {waves : Nat} (hs : s.Ordered) : (s.noteRun a r waves).Ordered := by
  unfold noteRun
  extract_lets _ _ s1 s2
  have h_s1 : s1.Ordered := setQuad_ordered hs
  have h_s2 : s2.Ordered := Ordered.ite (raiseEv_ordered h_s1) h_s1
  split
  · exact raiseEv_ordered h_s2
  · exact h_s2

theorem sendPartial_ordered {s : State} {x : At} {c q : Nat} {idx : Word} {tile p a k level own : Nat} (hs : s.Ordered) : (s.sendPartial x c q idx tile p a k level own).Ordered := by
  unfold sendPartial
  split
  · exact hs
  · extract_lets
    exact setArr_ordered hs

theorem accumulated_ordered {s : State} {x : At} {a k own : Nat} {dhalf : Option Nat} {ins : ArrInstr} (hs : s.Ordered) : (s.accumulated x a k own dhalf ins).Ordered := by
  unfold accumulated
  extract_lets _ _ s1 _ _ _
  have h_s1 : s1.Ordered := setArr_ordered hs
  split
  · exact sendPartial_ordered (modCmd_ordered h_s1)
  · split
    · exact setArr_ordered h_s1
    · exact tileDone_ordered h_s1

theorem runChunk_ordered {s : State} {x : At} {a k half : Nat} {ins : ArrInstr} (hs : s.Ordered) : (s.runChunk x a k half ins).Ordered := by
  unfold runChunk
  extract_lets _ _ _ _ _ _ s1 _ _ s2 _ s3 _ _ s4 s5
  have h_s1 : s1.Ordered := noteRun_ordered (writeTile_ordered hs)
  have h_s2 : s2.Ordered := setArr_ordered h_s1
  have h_s3 : s3.Ordered := modCmd_ordered h_s2
  have h_s4 : s4.Ordered := Ordered.ite h_s3 (setHalf_ordered h_s3)
  have h_s5 : s5.Ordered := Ordered.ite h_s4 (noteLast_ordered h_s4)
  split
  · exact loadNext_ordered h_s5
  · exact accumulated_ordered h_s5

theorem dropPartial_ordered {s : State} {c q : Nat} {idx : Word} {tile p : Nat} (hs : s.Ordered) : (s.dropPartial c q idx tile p).Ordered := by
  unfold dropPartial
  split
  · exact hs
  · extract_lets _ s1
    have h_s1 : s1.Ordered := by
      unfold s1
      refine Ordered.foldl hs ?_
      intro s1 a1 h1
      extract_lets
      exact setArr_ordered h1
    exact modCmd_ordered h_s1

theorem spillPart_ordered {s : State} {x : At} {c q : Nat} {idx : Word} {tile p : Nat} (hs : s.Ordered) : (s.spillPart x c q idx tile p).Ordered := by
  unfold spillPart
  split
  · exact hs
  · extract_lets
    split
    · extract_lets
      exact modCmd_ordered (dropPartial_ordered hs)
    · exact hs

theorem makeRoom_ordered {s : State} {x : At} {c q : Nat} {idx : Word} {a tile p : Nat} (hs : s.Ordered) : (s.makeRoom x c q idx a tile p).Ordered := by
  unfold makeRoom
  split
  · exact hs
  · split
    · exact spillPart_ordered hs
    · exact hs

theorem failCmd_ordered {s : State} {c q : Nat} {idx : Word} {st : Status} {d : Option Nat} (hs : s.Ordered) : (s.failCmd c q idx st d).Ordered := by
  unfold failCmd
  extract_lets s1
  have h_s1 : s1.Ordered := unbind_ordered hs
  split
  · split
    · exact answerFenced_ordered h_s1
    · exact answer_ordered h_s1
  · exact answer_ordered h_s1

theorem waitHead_ordered {s : State} {x : At} {a : Nat} {ins : ArrInstr} (hs : s.Ordered) : (s.waitHead x a ins).Ordered := by
  unfold waitHead
  extract_lets _ _ _ _ s1
  have h_s1 : s1.Ordered := setArr_ordered hs
  split
  · split
    · exact chanWait_ordered h_s1
    · exact h_s1
  · exact h_s1

theorem waitedHead_ordered {s : State} {x : At} {a : Nat} {ins : ArrInstr} (hs : s.Ordered) : (s.waitedHead x a ins).Ordered := by
  unfold waitedHead
  extract_lets s1
  have h_s1 : s1.Ordered := countWaits_ordered hs
  split
  · split
    · exact chanWaited_ordered h_s1
    · exact h_s1
  · exact h_s1

theorem issueHead_ordered {s0 : State} {a : Nat} (hs : s0.Ordered) : (s0.issueHead a).Ordered := by
  unfold issueHead
  split
  · exact hs
  · split
    · exact hs
    · split
      · exact hs
      · split
        · exact failCmd_ordered hs
        · extract_lets s1 s' s2
          have h_s1 : s1.Ordered := Ordered.ite (makeRoom_ordered hs) hs
          have h_s' : s'.Ordered := loadNext_ordered h_s1
          have h_s2 : s2.Ordered := waitedHead_ordered h_s'
          split
          · split
            · exact runChunk_ordered (Ordered.ite (reserveSpace_ordered h_s2) h_s2)
            · exact waitHead_ordered h_s'
          · exact waitHead_ordered h_s'

theorem drainDest_ordered {s : State} {x : At} {a : Nat} {t : Drain} {y : Cmd} (hs : s.Ordered) :
    ∀ r, s.drainDest x a t y = some r → r.2.Ordered := by
  intro r e
  unfold drainDest at e
  split at e
  · split_ifs at e
    · cases e; exact hs
    · obtain ⟨h, -, rfl⟩ := Option.map_eq_some_iff.mp e
      exact setHalf_ordered hs
    · split at e
      · dsimp only at e
        split_ifs at e
        · split at e
          · cases e; exact hs
          · cases e; exact fillSlot_ordered hs
        · split at e
          · cases e; exact hs
          · cases e
      · cases e
  · cases e

theorem dropDrain_ordered {s : State} {a : Nat} {t : Drain} {f : AccSlot → AccSlot} (hs : s.Ordered) : (s.dropDrain a t f).Ordered :=
  setArr_ordered hs

theorem heldDrains_ordered {s : State} {c q : Nat} {idx : Word} (hs : s.Ordered) : (s.heldDrains c q idx).Ordered :=
  Ordered.foldl hs (fun _ _ h1 => (modCmd_ordered (noteLast_ordered (dropDrain_ordered h1))))

theorem drainFails_ordered {s : State} {a : Nat} {t : Drain} {st : Status} (hs : s.Ordered) : (s.drainFails a t st).Ordered := by
  unfold drainFails
  split
  · extract_lets s1
    have h_s1 : s1.Ordered := noteLast_ordered (dropDrain_ordered hs)
    exact answer_ordered (modCmd_ordered h_s1)
  · exact failCmd_ordered hs

theorem drainWaited_ordered {s : State} {x : At} {t : Drain} (hs : s.Ordered) : (s.drainWaited x t).Ordered := by
  unfold drainWaited
  split
  · exact chanWaited_ordered hs
  · exact hs

theorem drainPartial_ordered {s : State} {x : At} {a : Nat} {t : Drain} {p : Nat} (hs : s.Ordered) : (s.drainPartial x a t p).Ordered := by
  unfold drainPartial
  split
  · exact noteLast_ordered (spillPart_ordered (dropDrain_ordered hs))
  · extract_lets
    exact setArr_ordered hs

theorem drainHead_ordered {s : State} {a : Nat} (hs : s.Ordered) : (s.drainHead a).Ordered := by
  unfold drainHead
  extract_lets
  split
  · exact hs
  · split
    · split
      · exact hs
      · extract_lets wait _ _ _ _
        have h_wait : wait.Ordered := setArr_ordered hs
        split
        · exact drainPartial_ordered hs
        · exact h_wait
        · split
          · rename_i e6
            split
            · split
              · split
                · exact drainFails_ordered hs
                · exact chanWait_ordered (Ordered.ite hs h_wait)
              · exact drainFails_ordered hs
            · exact hs
          · rename_i t6 e6
            have h_e6 := drainDest_ordered hs _ e6
            extract_lets put s2
            have h_put : ∀ a0 a1 a2 a3 a4, a0.Ordered → (put a0 a1 a2 a3 a4).Ordered := fun _ _ _ _ _ h1 => (putDest_ordered h1)
            have h_s2 : s2.Ordered := by
              unfold s2
              refine Ordered.foldl (drainWaited_ordered h_e6) ?_
              intro s1 a1 h1
              split
              · exact h_put _ _ _ _ _ h1
              · exact Ordered.foldl h1 (fun _ _ h2 => (h_put _ _ _ _ _ h2))
            exact tileDone_ordered (noteLast_ordered (dropDrain_ordered h_s2))
    · exact hs

theorem finishDrains_ordered {s : State} {c : Nat} (hs : s.Ordered) : (s.finishDrains c).Ordered :=
  Ordered.foldl hs (fun _ _ h1 => (Ordered.foldl h1 (fun _ _ h2 => (drainHead_ordered h2))))

theorem backInSlot_ordered {s : State} {x : At} {c q : Nat} {idx : Word} {tile p : Nat} (hs : s.Ordered) : (s.backInSlot x c q idx tile p).Ordered := by
  unfold backInSlot
  split
  · exact hs
  · extract_lets _ _ s1
    have h_s1 : s1.Ordered := makeRoom_ordered hs
    split
    · split
      · exact hs
      · split
        · extract_lets s2 _
          have h_s2 : s2.Ordered := dropPartial_ordered (writeTile_ordered h_s1)
          exact modCmd_ordered (setArr_ordered h_s2)
        · exact h_s1
    · exact hs

theorem drainPart_ordered {s : State} {x : At} {c q : Nat} {idx : Word} {tile a k own : Nat} (hs : s.Ordered) : (s.drainPart x c q idx tile a k own).Ordered :=
  modCmd_ordered (setArr_ordered hs)

theorem combine_ordered {s : State} {x : At} {c q : Nat} {idx : Word} {tile p u a k level : Nat} {r : Partial} (hs : s.Ordered) : (s.combine x c q idx tile p u a k level r).Ordered := by
  unfold combine
  extract_lets _ _ _ s1 _ s2 s3
  have h_s1 : s1.Ordered := noteRun_ordered (writeTile_ordered hs)
  have h_s2 : s2.Ordered := dropPartial_ordered (setArr_ordered h_s1)
  have h_s3 : s3.Ordered := modCmd_ordered h_s2
  split
  · exact drainPart_ordered h_s3
  · exact sendPartial_ordered h_s3

theorem combineStep_ordered {s0 : State} {c q : Nat} {idx : Word} {tile p : Nat} (hs : s0.Ordered) : (s0.combineStep c q idx tile p).Ordered := by
  unfold combineStep
  split
  · exact hs
  · extract_lets _ _ _ _ _ _ s'
    have h_s' : s'.Ordered := backInSlot_ordered hs
    split
    · exact hs
    · split
      · exact hs
      · extract_lets
        split
        · exact hs
        · split
          · split
            · split
              · exact combine_ordered h_s'
              · exact h_s'
            · exact h_s'
          · exact h_s'

theorem retireArray_ordered {s : State} {a : Nat} (hs : s.Ordered) : (s.retireArray a).Ordered := by
  unfold retireArray
  extract_lets
  split
  · exact hs
  · exact raiseEv_ordered (setArr_ordered hs)

theorem countArrayUe_ordered {s : State} {a : Nat} (hs : s.Ordered) : (s.countArrayUe a).Ordered :=
  raiseEv_ordered (setQuad_ordered (setArr_ordered hs))

theorem arrayEcc_ordered {s : State} {a : Nat} {place : EccPlace} {corrected : Bool} (hs : s.Ordered) : (s.arrayEcc a place corrected).Ordered := by
  unfold arrayEcc
  extract_lets _ _ _ s1
  have h_s1 : s1.Ordered := countArrayUe_ordered hs
  split
  · exact raiseEv_ordered (setQuad_ordered (setArr_ordered hs))
  · split
    · exact faultContext_ordered (answer_ordered (noteLast_ordered h_s1))
    · exact h_s1

theorem startMatrix_ordered {s : State} {c q : Nat} {idx : Word} {x : At} (hs : s.Ordered) : (s.startMatrix c q idx x).Ordered := by
  unfold startMatrix
  split
  · split
    · exact withChan_ordered hs (fun _ h1 => (bindMatrix_ordered h1))
    · exact answer_ordered hs
  · exact bindMatrix_ordered hs

theorem acceptReport_ordered {s : State} {l : List Byte} (hs : s.Ordered) : (s.acceptReport l).Ordered :=
  hs.of_eq

theorem signed_ordered {s : State} {l : List Byte} (hs : s.Ordered) : (s.signed l).2.Ordered :=
  hs.of_eq

theorem ownReport_ordered {s : State} {nonce : List Byte} (hs : s.Ordered) : (s.ownReport nonce).2.Ordered := by
  unfold ownReport
  extract_lets _ r
  have h_r : r.2.Ordered := signed_ordered hs
  exact h_r

theorem portTo_ordered {s : State} {p state : Nat} (hs : s.Ordered) : (s.portTo p state).Ordered := by
  unfold portTo
  extract_lets _ s1
  have h_s1 : s1.Ordered := setPort_ordered hs
  exact releaseNet_ordered (Ordered.foldl h_s1 (fun _ _ h1 => (Ordered.ite h1 (sendNet_ordered h1))))

theorem portDown_ordered {s : State} {p : Nat} (hs : s.Ordered) : (s.portDown p).Ordered :=
  raiseEv_ordered (portTo_ordered hs)

theorem ringsBack_ordered {s : State} {p : Nat} (hs : s.Ordered) : (s.ringsBack p).Ordered :=
  hs.of_eq

theorem portUp_ordered {s : State} {p : Nat} (hs : s.Ordered) : (s.portUp p).Ordered := by
  unfold portUp
  split
  · exact hs
  · exact ringsBack_ordered (portTo_ordered hs)

theorem retryTimeout_ordered {s : State} {q : Nat} (hs : s.Ordered) : (s.retryTimeout q).Ordered := by
  unfold retryTimeout
  extract_lets _ s1
  have h_s1 : s1.Ordered := sendNet_ordered (setQp_ordered hs)
  split
  · exact hs
  · split
    · exact setQp_ordered hs
    · split
      · exact setPort_ordered h_s1
      · exact h_s1

theorem cePacket_ordered {s : State} {q : Nat} (hs : s.Ordered) : (s.cePacket q).Ordered := by
  unfold cePacket
  extract_lets
  split
  · exact sendNet_ordered (setQp_ordered hs)
  · exact hs

theorem cnpArrives_ordered {s : State} {q : Nat} (hs : s.Ordered) : (s.cnpArrives q).Ordered := by
  unfold cnpArrives
  extract_lets _ s1
  have h_s1 : s1.Ordered := Ordered.ite (setQp_ordered hs) hs
  split
  · exact setPort_ordered h_s1
  · exact h_s1

theorem rateUp_ordered {s : State} {q : Nat} (hs : s.Ordered) : (s.rateUp q).Ordered :=
  setQp_ordered hs

theorem pfcPause_ordered {s : State} {p prio quanta : Nat} (hs : s.Ordered) : (s.pfcPause p prio quanta).Ordered :=
  releaseNet_ordered (setPort_ordered hs)

theorem heard_ordered {s : State} {q : Nat} (hs : s.Ordered) : (s.heard q).Ordered :=
  hs.of_eq

theorem dataArrives_ordered {s : State} {q prio : Nat} (hs : s.Ordered) : (s.dataArrives q prio).Ordered := by
  unfold dataArrives
  extract_lets s1
  have h_s1 : s1.Ordered := heard_ordered (hs.of_eq)
  split
  · split
    · exact sendNet_ordered (setPort_ordered h_s1)
    · exact h_s1
  · exact h_s1

theorem restartCores_ordered {s : State} {d : Nat} (hs : s.Ordered) : (s.restartCores d).Ordered := by
  unfold restartCores
  refine Ordered.foldl hs ?_
  intro s1 a1 h1
  extract_lets
  exact setCore_ordered h1

theorem leaveReset_ordered {s0 : State} {d : Nat} (hs : s0.Ordered) : (s0.leaveReset d).Ordered := by
  unfold leaveReset
  extract_lets s' _ s1 _ _ _ s2 _
  have h_s' : s'.Ordered := hs.of_eq
  have h_s1 : s1.Ordered := restartCores_ordered (setDom_ordered h_s')
  have h_s2 : s2.Ordered := Ordered.ite (setStack_ordered h_s1) (Ordered.ite (setQuad_ordered h_s1) h_s1)
  split
  · exact h_s2.of_eq
  · exact h_s2

theorem railOf_ordered {s : State} {d : Nat} (hs : s.Ordered) : (s.railOf d).2.Ordered := by
  unfold railOf
  split
  · exact hs
  · split
    · exact hs
    · exact fresh_ordered hs

theorem retirePc_ordered {s : State} {g : Nat} (hs : s.Ordered) : (s.retirePc g).Ordered := by
  unfold retirePc
  extract_lets
  split
  · exact hs
  · exact raiseEv_ordered (setStack_ordered hs)

theorem trainStack_ordered {s : State} {k : Nat} (hs : s.Ordered) : (s.trainStack k).Ordered := by
  unfold trainStack
  extract_lets s1
  have h_s1 : s1.Ordered := Ordered.foldl hs (fun _ _ h1 => (retirePc_ordered h1))
  exact h_s1.of_eq

theorem powerStart_ordered {s : State} {d : Nat} (hs : s.Ordered) : (s.powerStart d).Ordered := by
  unfold powerStart
  split
  · exact hs
  · extract_lets r s1 s2 _
    have h_r : r.2.Ordered := railOf_ordered hs
    have h_s1 : s1.Ordered := leaveReset_ordered h_r
    have h_s2 : s2.Ordered := Ordered.ite (trainStack_ordered h_s1) h_s1
    exact sendCtl_ordered (setDom_ordered h_s2)

theorem switchOn_ordered {s : State} {d : Nat} (hs : s.Ordered) : (s.switchOn d).Ordered :=
  Ordered.foldl hs (fun _ _ h1 => (powerStart_ordered h1))

theorem powerUp_ordered {s : State} {d : Nat} (hs : s.Ordered) : (s.powerUp d).Ordered := by
  unfold powerUp
  split
  · exact hs
  · extract_lets r s1 _
    have h_r : r.2.Ordered := railOf_ordered hs
    have h_s1 : s1.Ordered := leaveReset_ordered h_r
    exact sendCtl_ordered (sendCtl_ordered (setDom_ordered h_s1))

theorem powerOn_ordered {s : State} {d : Nat} (hs : s.Ordered) : (s.powerOn d).Ordered :=
  Ordered.foldl hs (fun _ _ h1 => (powerUp_ordered h1))

theorem cowNext_ordered {s : State} {pc : Nat} (hs : s.Ordered) : (s.cowNext pc).Ordered := by
  unfold cowNext
  split
  · exact cowStart_ordered hs
  · exact hs

theorem cowDone_ordered {s : State} {frame : Nat} (hs : s.Ordered) : (s.cowDone frame).Ordered := by
  unfold cowDone
  split
  · exact hs
  · extract_lets _ s1
    have h_s1 : s1.Ordered := hs.of_eq
    exact raiseEv_ordered (cowNext_ordered (heldRelease_ordered (setAttr_ordered h_s1)))

theorem attrAnswer_ordered {s : State} {a : Nat} {st : Status} {pages : Nat} (hs : s.Ordered) : (s.attrAnswer a st pages).Ordered :=
  post_ordered (post_ordered hs)

theorem attrRequest_ordered {s : State} {a : Nat} (hs : s.Ordered) : (s.attrRequest a).Ordered := by
  unfold attrRequest
  split
  · exact hs
  · extract_lets
    clear_value *
    split
    · exact attrAnswer_ordered hs
    · split
      · split
        · exact attrAnswer_ordered (hs.of_eq)
        · refine attrAnswer_ordered ?_
          refine Ordered.foldl hs ?_
          intro s1 a1 h1
          split
          · exact setAttr_ordered h1
          · exact h1
      · exact attrAnswer_ordered hs

theorem countUe_ordered {s : State} {pc : Nat} (hs : s.Ordered) : (s.countUe pc).Ordered := by
  unfold countUe
  extract_lets _ _ _ _ s1 s2
  have h_s1 : s1.Ordered := setStack_ordered (setPc_ordered hs)
  have h_s2 : s2.Ordered := raiseEv_ordered h_s1
  split
  · exact retirePc_ordered h_s2
  · exact h_s2

theorem countCe_ordered {s : State} {pc : Nat} (hs : s.Ordered) : (s.countCe pc).Ordered :=
  raiseEv_ordered (setStack_ordered hs)

theorem hbmUe_ordered {s : State} {frame : Nat} {source : UeSource} (hs : s.Ordered) : (s.hbmUe frame source).Ordered := by
  unfold hbmUe
  extract_lets s1
  have h_s1 : s1.Ordered := countUe_ordered hs
  split
  · exact countCe_ordered hs
  · split
    · exact ckptEnd_ordered (setAttr_ordered h_s1)
    · exact h_s1
  · exact setAttr_ordered h_s1
  · exact setAttr_ordered h_s1

theorem starved_ordered {s : State} {site : Arbiter} {req holder : Nat} (hs : s.Ordered) : (s.starved site req holder).Ordered := by
  unfold starved
  split
  · extract_lets
    exact raiseEv_ordered (Ordered.ite hs (setStack_ordered hs))
  · extract_lets
    exact raiseEv_ordered (Ordered.ite hs (hs.of_eq))
  · extract_lets
    exact raiseEv_ordered (Ordered.ite hs (hs.of_eq))
  · extract_lets
    exact raiseEv_ordered (Ordered.ite hs (hs.of_eq))

theorem dmaThresholdTo_ordered {s : State} {v : Nat} (hs : s.Ordered) : (s.dmaThresholdTo v).Ordered := by
  have step : ∀ f : State → Nat → State, (∀ t e, t.Ordered → (f t e).Ordered) →
      ({ (List.range 16).foldl f s with sel := { ((List.range 16).foldl f s).sel with dmaThreshold := v } } : State).Ordered :=
    fun f hf => (Ordered.foldl (f := f) (l := List.range 16) hs hf).of_eq
  refine step _ fun t e h => ?_
  dsimp only
  split
  · exact starved_ordered h
  · exact h

theorem rzThresholdTo_ordered {s : State} {v : Nat} (hs : s.Ordered) : (s.rzThresholdTo v).Ordered := by
  unfold rzThresholdTo
  refine Ordered.foldl hs ?_
  intro s1 a1 h1
  refine Ordered.foldl h1 ?_
  intro s2 a1 h2
  extract_lets
  split
  · exact starved_ordered h2
  · exact h2

theorem rzPump_ordered {s : State} {l : Nat} {high : Bool} {fuel : Nat} (hs : s.Ordered) : (s.rzPump l high fuel).Ordered := by
  induction fuel generalizing s with
  | zero => exact hs
  | succ fuel ih =>
    unfold rzPump
    refine Ordered.ite hs ?_
    split
    · exact hs
    · refine ih ?_
      split
      · exact starved_ordered (setRzLink_ordered hs)
      · exact setRzLink_ordered hs

theorem rzPumpAll_ordered {s : State} (hs : s.Ordered) : s.rzPumpAll.Ordered := by
  unfold rzPumpAll
  refine Ordered.foldl hs ?_
  intro s1 a1 h1
  extract_lets s1'
  have h_s1' : s1'.Ordered := rzPump_ordered h1
  exact rzPump_ordered h_s1'

theorem rzForward_ordered {s : State} {n : Nat} {came : Option Nat} {x : RzTransfer} (hs : s.Ordered) : (s.rzForward n came x).Ordered := by
  unfold rzForward
  split
  · exact hs
  · split
    · exact hs
    · split
      · exact hs
      · extract_lets
        exact rzPump_ordered (setRzLink_ordered hs)

theorem rzRetrain_ordered {s : State} {l : Nat} (hs : s.Ordered) : (s.rzRetrain l).Ordered :=
  raiseEv_ordered (setRzLink_ordered hs)

theorem rzReroute_ordered {s : State} {l : Nat} {high : Bool} (hs : s.Ordered) : (s.rzReroute l high).Ordered :=
  Ordered.foldl (setRzLink_ordered hs) (fun _ _ h1 => (rzForward_ordered h1))

theorem placeDetour_ordered {s : State} {l : Nat} (hs : s.Ordered) : (s.placeDetour l).Ordered := by
  unfold placeDetour
  split
  · extract_lets
    exact raiseEv_ordered (sendCtl_ordered (rzReroute_ordered (rzReroute_ordered (setRzLink_ordered hs))))
  · exact hs

theorem rzDown_ordered {s : State} {l : Nat} (hs : s.Ordered) : (s.rzDown l).Ordered := by
  unfold rzDown
  extract_lets _ _ s1
  have h_s1 : s1.Ordered := raiseEv_ordered (sendCtl_ordered (setRzLink_ordered hs))
  exact placeDetour_ordered h_s1

theorem placeDetours_ordered {s : State} (hs : s.Ordered) : s.placeDetours.Ordered :=
  Ordered.foldl hs (fun _ _ h1 => (placeDetour_ordered h1))

theorem rzRetrained_ordered {s : State} {l : Nat} {ok : Bool} (hs : s.Ordered) : (s.rzRetrained l ok).Ordered := by
  unfold rzRetrained
  extract_lets _ _ _ s1
  have h_s1 : s1.Ordered := setRzLink_ordered hs
  split
  · exact hs
  · split
    · exact rzPumpAll_ordered h_s1
    · exact rzDown_ordered h_s1

theorem dmaRow_ordered {s : State} {c q : Nat} {idx : Word} {ptn die : Nat} {a d : Desc} {fmt from_ to_ : Nat} (hs : s.Ordered) : (s.dmaRow c q idx ptn die a d fmt from_ to_).Ordered :=
  putBytes_ordered hs

theorem dmaSkew_ordered {s : State} {c q : Nat} {idx : Word} {ptn die : Nat} {a d : Desc} {fmt row0 : Nat} (hs : s.Ordered) : (s.dmaSkew c q idx ptn die a d fmt row0).Ordered :=
  Ordered.foldl hs (fun _ _ h1 => (putBytes_ordered h1))

theorem dmaConv_ordered {s : State} {c q : Nat} {idx : Word} {ptn die : Nat} {a d : Desc} {fmt row0 : Nat} (hs : s.Ordered) : (s.dmaConv c q idx ptn die a d fmt row0).Ordered := by
  unfold dmaConv
  extract_lets
  refine Ordered.foldl hs ?_
  intro s1 a1 h1
  extract_lets
  exact putBytes_ordered h1

theorem dmaMove_ordered {s : State} {c q : Nat} {idx : Word} {ptn die : Nat} {a d : Desc} {fmt from_ to_ : Nat} (hs : s.Ordered) : (s.dmaMove c q idx ptn die a d fmt from_ to_).Ordered := by
  unfold dmaMove
  split
  · exact dmaRow_ordered hs
  · split
    · exact putBytes_ordered hs
    · refine Ordered.foldl hs ?_
      intro s1 a1 h1
      extract_lets
      exact putBytes_ordered h1

theorem dmaCopy_ordered {s : State} {c q : Nat} {idx : Word} {ptn die : Nat} {a d : Desc} {fmt row0 drow n : Nat} (hs : s.Ordered) : (s.dmaCopy c q idx ptn die a d fmt row0 drow n).Ordered := by
  unfold dmaCopy
  split
  · exact putBytes_ordered hs
  · exact Ordered.foldl hs (fun _ _ h1 => (dmaMove_ordered h1))

theorem dmaGather_ordered {s : State} {c q : Nat} {idx : Word} {ptn die : Nat} {a d i : Desc} {fmt drow n : Nat} (hs : s.Ordered) : (s.dmaGather c q idx ptn die a d i fmt drow n).1.Ordered :=
  Ordered.foldl hs (fun _ _ h1 => (dmaMove_ordered h1))

theorem clearPoison_ordered {s : State} {fs : List Nat} (hs : s.Ordered) : (s.clearPoison fs).Ordered :=
  Ordered.foldl hs (fun _ _ h1 => (Ordered.ite (setAttr_ordered h1) h1))

theorem runDma_ordered {s : State} {c q : Nat} {idx : Word} {x : At} (hs : s.Ordered) : (s.runDma c q idx x).Ordered := by
  unfold runDma
  split
  · extract_lets _ _ _ _ fin
    have h_fin : ∀ a0 a1 a2 a3, a0.Ordered → (fin a0 a1 a2 a3).Ordered := by
      unfold fin
      intro s1 a1 a2 a3 h1
      extract_lets
      exact modCmd_ordered (clearPoison_ordered h1)
    split
    · exact h_fin _ _ _ _ (dmaCopy_ordered hs)
    · exact h_fin _ _ _ _ (dmaSkew_ordered hs)
    · exact h_fin _ _ _ _ (dmaConv_ordered hs)
    · split
      · extract_lets r
        have h_r : r.1.Ordered := dmaGather_ordered hs
        exact h_fin _ _ _ _ h_r
      · exact hs
  · exact hs

theorem hostReads_ordered {s : State} {c q : Nat} {idx : Word} {h n fuel : Nat} (hs : s.Ordered) :
    (s.hostReads c q idx h n fuel).Ordered := by
  induction fuel generalizing s h n with
  | zero => exact hs
  | succ fuel ih => exact Ordered.ite hs (ih (send_ordered hs.of_eq))

theorem readLines_ordered {s : State} {x : At} (hs : s.Ordered) : (s.readLines x).Ordered := by
  unfold readLines
  extract_lets
  refine Ordered.foldl hs ?_
  intro s1 a1 h1
  split
  · exact h1
  · split
    · split
      · refine Ordered.foldl h1 ?_
        intro s2 a1 h2
        split
        · extract_lets
          exact lineReads_ordered h2
        · exact h2
      · exact h1
    · exact h1

theorem waitEngine_ordered {s : State} {e c q : Nat} {idx : Word} (hs : s.Ordered) : (s.waitEngine e c q idx).Ordered :=
  setDmaE_ordered hs

theorem takeEngine_ordered {s : State} {e c q : Nat} {idx : Word} (hs : s.Ordered) : (s.takeEngine e c q idx).Ordered := by
  unfold takeEngine
  extract_lets _ _ _ s1
  have h_s1 : s1.Ordered := setDmaE_ordered hs
  split
  · exact starved_ordered h_s1
  · exact h_s1

theorem freeEngine_ordered {s : State} {c q : Nat} {idx : Word} (hs : s.Ordered) : (s.freeEngine c q idx).Ordered :=
  hs.of_eq

theorem countDma_ordered {s : State} {e c q : Nat} {idx : Word} (hs : s.Ordered) : (s.countDma e c q idx).Ordered := by
  unfold countDma
  extract_lets _ s1
  have h_s1 : s1.Ordered := setDmaE_ordered hs
  split
  · exact raiseEv_ordered h_s1
  · exact h_s1

theorem stepDma_ordered {s : State} {c q : Nat} {idx : Word} (hs : s.Ordered) : (s.stepDma c q idx).Ordered := by
  unfold stepDma
  split
  · exact hs
  · extract_lets _ _ _ s1
    have h_s1 : s1.Ordered := by
      unfold s1
      refine unitStart_ordered hs ?_
      intro s1 a1 a2 h1
      split
      · extract_lets s1' _
        have h_s1' : s1'.Ordered := takeEngine_ordered h1
        split
        · exact countDma_ordered (runDma_ordered (readLines_ordered h_s1'))
        · exact modCmd_ordered (Ordered.foldl h_s1' (fun _ _ h2 => (hostReads_ordered h2)))
      · exact waitEngine_ordered h1
    split
    · split
      · split
        · exact raiseEv_ordered (answer_ordered hs)
        · exact countDma_ordered (runDma_ordered (readLines_ordered hs))
      · exact hs
    · split
      · exact raiseEv_ordered h_s1
      · exact h_s1

theorem cplTaken_ordered {s : State} {tag status : Nat} {data : List Byte} (hs : s.Ordered) : (s.cplTaken tag status data).Ordered := by
  unfold cplTaken
  split
  · exact hs
  · split
    · exact hs
    · extract_lets _ s1
      have h_s1 : s1.Ordered := hs.of_eq
      split
      · exact dirtied_ordered (h_s1.of_eq)
      · exact answer_ordered h_s1

theorem putImage_ordered {s : State} {c off : Nat} {l : List Byte} (hs : s.Ordered) : (s.putImage c off l).Ordered :=
  putBytes_ordered hs

theorem putSection_ordered {s : State} {c i off : Nat} {data : List Byte} (hs : s.Ordered) : (s.putSection c i off data).Ordered :=
  putImage_ordered hs

theorem saveQuad_ordered {s : State} {c k : Nat} (hs : s.Ordered) : (s.saveQuad c k).Ordered := by
  unfold saveQuad
  extract_lets _ _ s1
  have h_s1 : s1.Ordered := Ordered.foldl hs (fun _ _ h1 => (putImage_ordered h1))
  exact putSection_ordered h_s1

theorem saveWindow_ordered {s : State} {c n : Nat} (hs : s.Ordered) : (s.saveWindow c n).Ordered := by
  unfold saveWindow
  extract_lets _ _ _ s1 _
  have h_s1 : s1.Ordered := putSection_ordered (putImage_ordered hs)
  exact setCtx_ordered h_s1

theorem preemptRecords_ordered {s : State} {c : Nat} (hs : s.Ordered) : (s.preemptRecords c).Ordered := by
  unfold preemptRecords
  refine Ordered.foldl hs ?_
  intro s1 a1 h1
  extract_lets
  split
  · exact h1
  · exact putRecord_ordered h1

theorem lossRestart_ordered {s : State} {c : Nat} (hs : s.Ordered) : (s.lossRestart c).Ordered := by
  unfold lossRestart
  extract_lets s1
  have h_s1 : s1.Ordered := studentLeaves_ordered hs
  refine Ordered.foldl h_s1 ?_
  intro s1 a1 h1
  extract_lets
  exact setQueue_ordered h1

theorem beginSave_ordered {s : State} {c reason : Nat} {after : AfterSave} (hs : s.Ordered) : (s.beginSave c reason after).Ordered := by
  unfold beginSave
  extract_lets _ s1 s2 _
  have h_s1 : s1.Ordered := Ordered.ite hs (preemptRecords_ordered hs)
  have h_s2 : s2.Ordered := lossRestart_ordered h_s1
  split
  · exact setCtx_ordered h_s2
  · exact hs

theorem park_ordered {s : State} {c : Nat} {w : ParkWait} (hs : s.Ordered) : (s.park c w).Ordered := by
  unfold park
  extract_lets s1 _
  have h_s1 : s1.Ordered := beginSave_ordered hs
  split
  · exact setCtx_ordered h_s1
  · exact hs

theorem leave_ordered {s : State} {c : Nat} (hs : s.Ordered) : (s.leave c).Ordered := by
  unfold leave
  extract_lets _ _ s1
  have h_s1 : s1.Ordered := setCtx_ordered hs
  exact h_s1.of_eq

theorem writeImage_ordered {s : State} {c : Nat} (hs : s.Ordered) : (s.writeImage c).Ordered := by
  unfold writeImage
  extract_lets s1 s2 _
  have h_s1 : s1.Ordered := putImage_ordered hs
  have h_s2 : s2.Ordered := Ordered.foldl h_s1 (fun _ _ h1 => (saveQuad_ordered h1))
  exact setCtx_ordered h_s2

theorem saveDone_ordered {s : State} {c : Nat} (hs : s.Ordered) : (s.saveDone c).Ordered := by
  unfold saveDone
  split
  · extract_lets s1 _
    have h_s1 : s1.Ordered := leave_ordered (writeImage_ordered hs)
    exact setCtx_ordered h_s1
  · exact hs

theorem saveOverlaps_ordered {s : State} {c : Nat} (hs : s.Ordered) : (s.saveOverlaps c).Ordered :=
  Ordered.foldl hs (fun _ _ h1 => (Ordered.foldl h1 (fun _ _ h2 => (saveWindow_ordered h2))))

theorem ownWindow_ordered {s : State} {c : Nat} (hs : s.Ordered) : (s.ownWindow c).Ordered :=
  hs.of_eq

theorem bind_ordered {s : State} {c : Nat} (hs : s.Ordered) : (s.bind c).Ordered := by
  unfold bind
  extract_lets s1 _ s2
  have h_s1 : s1.Ordered := ownWindow_ordered (saveOverlaps_ordered hs)
  have h_s2 : s2.Ordered := setCtx_ordered h_s1
  exact Ordered.foldl h_s2 (fun _ _ h1 => (setQuad_ordered h1))

theorem restoreArray_ordered {s : State} {c a word : Nat} (hs : s.Ordered) : (s.restoreArray c a word).Ordered := by
  unfold restoreArray
  extract_lets
  split
  · exact hs
  · exact setArr_ordered hs

theorem readImage_ordered {s : State} {c : Nat} (hs : s.Ordered) : (s.readImage c).Ordered := by
  unfold readImage
  extract_lets _ s1
  have h_s1 : s1.Ordered := by
    unfold s1
    refine Ordered.foldl hs ?_
    intro s1 a1 h1
    extract_lets _ s2
    have h_s2 : s2.Ordered := Ordered.foldl h1 (fun _ _ h2 => (h2.of_eq))
    exact Ordered.foldl h_s2 (fun _ _ h2 => (restoreArray_ordered h2))
  refine Ordered.foldl h_s1 ?_
  intro s1 a1 h1
  extract_lets
  split
  · exact h1
  · exact h1.of_eq

theorem restoreDone_ordered {s : State} {c : Nat} (hs : s.Ordered) : (s.restoreDone c).Ordered := by
  unfold restoreDone
  split
  · split
    · extract_lets s1 _
      have h_s1 : s1.Ordered := readImage_ordered hs
      exact setCtx_ordered h_s1
    · exact faultContext_ordered hs
  · exact hs

theorem idleArrays_ordered {s : State} {c : Nat} (hs : s.Ordered) : (s.idleArrays c).Ordered :=
  hs.of_eq

theorem freeArrays_ordered {s : State} {c : Nat} (hs : s.Ordered) : (s.freeArrays c).Ordered := by
  unfold freeArrays
  extract_lets s1
  have h_s1 : s1.Ordered := idleArrays_ordered hs
  exact h_s1.of_eq

theorem teacherBack_ordered {s : State} {c : Nat} {places : List BlockMark} (hs : s.Ordered) : (s.teacherBack c places).Ordered := by
  unfold teacherBack
  extract_lets _ _ _ s1 _ s2 s3
  have h_s1 : s1.Ordered := idleArrays_ordered hs
  have h_s2 : s2.Ordered := setCtx_ordered h_s1
  have h_s3 : s3.Ordered := Ordered.ite h_s2 (patchQueues_ordered (post_ordered h_s2))
  split
  · exact hs
  · refine Ordered.foldl h_s3 ?_
    intro s1 a1 h1
    split
    · extract_lets
      exact setChan_ordered h1
    · exact h1

theorem teachersBack_ordered {s : State} {chans : List Nat} (hs : s.Ordered) : (s.teachersBack chans).Ordered :=
  Ordered.foldl hs (fun _ _ h1 => (teacherBack_ordered h1))

theorem zeroWindow_ordered {s : State} {c : Nat} (hs : s.Ordered) : (s.zeroWindow c).Ordered :=
  hs.of_eq

theorem faultRecords_ordered {s : State} {c : Nat} (hs : s.Ordered) : (s.faultRecords c).Ordered :=
  Ordered.foldl hs (fun _ _ h1 => (Ordered.foldl h1 (fun _ _ h2 => (Ordered.ite h2 (putRecord_ordered h2)))))

theorem freeContext_ordered {s : State} {c : Nat} (hs : s.Ordered) : (s.freeContext c).Ordered :=
  hs.of_eq

theorem recreateTeacher_ordered {s : State} {c : Nat} {k : Context} {handle : Nat} (hs : s.Ordered) : (s.recreateTeacher c k handle).Ordered := by
  unfold recreateTeacher
  extract_lets _ _ s1
  have h_s1 : s1.Ordered := Ordered.foldl hs (fun _ _ h1 => (chanFault_ordered h1))
  split
  · exact hs
  · split
    · extract_lets s1' s2
      have h_s1' : s1'.Ordered := setCtx_ordered (hs.of_eq)
      have h_s2 : s2.Ordered := h_s1'.of_eq
      exact teacherBack_ordered h_s2
    · exact h_s1.of_eq

theorem closeFailed_ordered {s : State} {c : Nat} (hs : s.Ordered) : (s.closeFailed c).Ordered :=
  Ordered.foldl hs (fun _ _ h1 => (fwCloseJob_ordered h1))

theorem loseStudent_ordered {s : State} {c handle : Nat} (hs : s.Ordered) : (s.loseStudent c handle).Ordered :=
  hs.of_eq

theorem tearDown_ordered {s : State} {c : Nat} (hs : s.Ordered) : (s.tearDown c).Ordered := by
  unfold tearDown
  extract_lets _ s1 s2
  have h_s1 : s1.Ordered := freeArrays_ordered (faultRecords_ordered hs)
  have h_s2 : s2.Ordered := studentLeaves_ordered (teacherFault_ordered (zeroWindow_ordered h_s1))
  split
  · exact raiseEv_ordered (loseStudent_ordered (closeFailed_ordered (recreateTeacher_ordered (freeContext_ordered h_s2))))
  · exact hs

theorem startBlock_ordered {s : State} {c : Nat} (hs : s.Ordered) : (s.startBlock c).Ordered := by
  unfold startBlock
  extract_lets
  split
  · exact setCtx_ordered hs
  · exact hs

theorem uncount_ordered {s : State} {c q : Nat} {gate : Word} (hs : s.Ordered) : (s.uncount c q gate).Ordered := by
  unfold uncount
  extract_lets
  refine Ordered.foldl hs ?_
  intro s1 a1 h1
  split
  · extract_lets
    exact setCtx_ordered h1
  · exact h1

theorem rewindLayer_ordered {s : State} {c q : Nat} {gate : Word} (hs : s.Ordered) : (s.rewindLayer c q gate).Ordered := by
  unfold rewindLayer
  extract_lets s1 _ _ s2
  have h_s1 : s1.Ordered := uncount_ordered hs
  have h_s2 : s2.Ordered := setCtx_ordered h_s1
  exact setQueue_ordered h_s2

theorem startLayer_ordered {s : State} {c q : Nat} {idx : Word} (hs : s.Ordered) : (s.startLayer c q idx).Ordered :=
  setQueue_ordered hs

theorem nextLayer_ordered {s : State} {c q : Nat} {idx : Word} {w : Nat} (hs : s.Ordered) : (s.nextLayer c q idx w).Ordered := by
  unfold nextLayer
  extract_lets s1
  have h_s1 : s1.Ordered := startLayer_ordered hs
  split
  · exact startLayer_ordered (startBlock_ordered h_s1)
  · exact h_s1

theorem releaseGate_ordered {s : State} {c q : Nat} {y : Cmd} {first : Bool} (hs : s.Ordered) : (s.releaseGate c q y first).Ordered := by
  unfold releaseGate
  extract_lets _ s1 _ s2 _
  have h_s1 : s1.Ordered := modCmd_ordered hs
  have h_s2 : s2.Ordered := nextLayer_ordered h_s1
  split
  · exact setQueue_ordered h_s1
  · exact setCtx_ordered h_s2

theorem askSkip_ordered {s : State} {c i : Nat} {r : LayerRec} (hs : s.Ordered) : (s.askSkip c i r).Ordered :=
  putLayer_ordered (setCtx_ordered hs)

theorem noteEscalation_ordered {s : State} {c i : Nat} {pass : Bool} {r : LayerRec} {fmt : Nat} (hs : s.Ordered) : (s.noteEscalation c i pass r fmt).Ordered := by
  unfold noteEscalation
  extract_lets _ s2 s3 _
  have h_s2 : s2.Ordered := Ordered.ite (logPut_ordered hs) hs
  have h_s3 : s3.Ordered := putLayer_ordered (raiseEv_ordered h_s2)
  exact setCtx_ordered h_s3

theorem setFmtIn_ordered {s : State} {c layer fmt : Nat} (hs : s.Ordered) : (s.setFmtIn c layer fmt).Ordered := by
  unfold setFmtIn
  extract_lets
  split
  · exact hs
  · refine Ordered.foldl hs ?_
    intro s1 a1 h1
    extract_lets
    split
    · exact post_ordered h1
    · exact h1

theorem escalateQueued_ordered {s : State} {c q : Nat} {backward : Bool} {r : LayerRec} {fmt : Nat} (hs : s.Ordered) : (s.escalateQueued c q backward r fmt).Ordered := by
  unfold escalateQueued
  extract_lets s1
  have h_s1 : s1.Ordered := escalateWords_ordered hs
  split
  · exact setFmtIn_ordered h_s1
  · exact h_s1

theorem escalate_ordered {s : State} {c q : Nat} {y : Cmd} {i : Nat} {r : LayerRec} {fmt : Nat} (hs : s.Ordered) : (s.escalate c q y i r fmt).Ordered := by
  unfold escalate
  extract_lets _ s4
  have h_s4 : s4.Ordered := noteEscalation_ordered (escalateQueued_ordered hs)
  exact rewindLayer_ordered (Ordered.foldl h_s4 (fun _ _ h1 => (modChan_ordered h1)))

theorem replayEsc_ordered {s : State} {c q : Nat} {r : Replay} {pass : Bool} {i : Nat} {rec_ : LayerRec} {fmt : Nat} (hs : s.Ordered) : (s.replayEsc c q r pass i rec_ fmt).Ordered := by
  unfold replayEsc
  extract_lets s1 _
  have h_s1 : s1.Ordered := noteEscalation_ordered (escalateQueued_ordered hs)
  exact setCtx_ordered h_s1

theorem replayAhead_ordered {s : State} {c q : Nat} (hs : s.Ordered) : (s.replayAhead c q).Ordered := by
  unfold replayAhead
  split
  · extract_lets
    refine Ordered.foldl hs ?_
    intro s1 a1 h1
    split
    · split
      · exact replayEsc_ordered h1
      · exact h1
    · exact h1
  · exact hs

theorem replaySkipped_ordered {s : State} {c : Nat} (hs : s.Ordered) : (s.replaySkipped c).Ordered := by
  unfold replaySkipped
  split
  · exact hs
  · extract_lets _ s1 s2 _
    have h_s1 : s1.Ordered := by
      unfold s1
      refine Ordered.foldl hs ?_
      intro s1 a1 h1
      split
      · split
        · exact noteEscalation_ordered h1
        · exact h1
      · exact h1
    have h_s2 : s2.Ordered := by
      unfold s2
      split
      · exact putLayer_ordered h_s1
      · exact h_s1
    split
    · exact setCtx_ordered h_s2
    · exact h_s2

theorem jumpStep_ordered {s : State} {c q : Nat} (hs : s.Ordered) : (s.jumpStep c q).Ordered := by
  unfold jumpStep
  extract_lets
  split
  · extract_lets
    exact setQueue_ordered hs
  · exact hs

theorem restoreOver_ordered {s : State} {addr : Nat} {st : Status} {detail reached bad ident steps : Nat} {ptn : Option Nat} (hs : s.Ordered) : (s.restoreOver addr st detail reached bad ident steps ptn).Ordered := by
  unfold restoreOver
  extract_lets s1 s2 _ _ _ s2'
  have h_s1 : s1.Ordered := Ordered.ite hs (post_ordered hs)
  have h_s2 : s2.Ordered := raiseEv_ordered (logPut_ordered h_s1)
  have h_s2' : s2'.Ordered := h_s1.of_eq
  split
  · exact h_s2.of_eq
  · refine Ordered.foldl h_s2' ?_
    intro s1 a1 h1
    extract_lets s3 _
    have h_s3 : s3.Ordered := Ordered.ite (saveDone_ordered (finishDrains_ordered (beginSave_ordered h1))) h1
    exact setCtx_ordered h_s3

theorem writeStatusIn_ordered {s : State} {c q : Nat} {r : LayerRec} (hs : s.Ordered) : (s.writeStatusIn c q r).Ordered := by
  unfold writeStatusIn
  extract_lets
  split
  · exact post_ordered hs
  · exact hs

theorem rewindCollective_ordered {s : State} {c : Nat} {e : Word} {fmt attempt : Nat} (hs : s.Ordered) : (s.rewindCollective c e fmt attempt).Ordered := by
  unfold rewindCollective
  extract_lets _ _ _ _ s1 _
  have h_s1 : s1.Ordered := post_ordered (post_ordered hs)
  exact setCtx_ordered h_s1

theorem secondGate_ordered {s : State} {c q : Nat} {y : Cmd} {i : Nat} {r : LayerRec} (hs : s.Ordered) : (s.secondGate c q y i r).Ordered := by
  unfold secondGate
  extract_lets
  split
  · exact releaseGate_ordered hs
  · extract_lets _ s1
    have h_s1 : s1.Ordered := setCtx_ordered hs
    split
    · exact releaseGate_ordered hs
    · split
      · exact releaseGate_ordered (askSkip_ordered h_s1)
      · exact escalate_ordered (rewindCollective_ordered h_s1)

theorem markStep_ordered {s : State} {c q : Nat} {y : Cmd} (hs : s.Ordered) : (s.markStep c q y).Ordered := by
  unfold markStep
  extract_lets
  split
  · exact Ordered.foldl (setCtx_ordered hs) (fun _ _ h1 => (modChan_ordered h1))
  · exact hs

theorem holdAtCapture_ordered {s : State} {c : Nat} (hs : s.Ordered) : (s.holdAtCapture c).Ordered :=
  hs.of_eq

theorem passGate_ordered {s : State} {c q : Nat} (hs : s.Ordered) : (s.passGate c q).Ordered := by
  unfold passGate
  split
  · exact hs
  · extract_lets _ _ s0 _ s1
    have h_s0 : s0.Ordered := markStep_ordered (setQueue_ordered hs)
    have h_s1 : s1.Ordered := setCtx_ordered h_s0
    split
    · exact hs
    · split
      · exact holdAtCapture_ordered hs
      · split
        · exact jumpStep_ordered (setCtx_ordered hs)
        · split
          · exact releaseGate_ordered h_s0
          · extract_lets
            split
            · split
              · clear_value *
                split
                · exact escalate_ordered (rewindCollective_ordered h_s0)
                · exact escalate_ordered h_s0
              · exact releaseGate_ordered h_s0
            · split
              · split
                · exact secondGate_ordered h_s0
                · exact releaseGate_ordered (writeStatusIn_ordered h_s0)
              · split
                · exact releaseGate_ordered h_s0
                · split
                  · exact escalate_ordered h_s1
                  · exact releaseGate_ordered (askSkip_ordered h_s1)

theorem layerGate_ordered {s : State} {c q : Nat} (hs : s.Ordered) : (s.layerGate c q).Ordered := by
  unfold layerGate
  extract_lets s1
  have h_s1 : s1.Ordered := passGate_ordered hs
  split
  · exact h_s1
  · exact replayAhead_ordered h_s1

theorem stepEndLog_ordered {s : State} {c : Nat} (hs : s.Ordered) : (s.stepEndLog c).Ordered := by
  unfold stepEndLog
  extract_lets _ _ _ s1 _
  have h_s1 : s1.Ordered := logPut_ordered hs
  split
  · exact h_s1.of_eq
  · exact hs

theorem formRecord_ordered {s : State} (hs : s.Ordered) : s.formRecord.Ordered := by
  unfold formRecord
  extract_lets
  split
  · exact sendNet_ordered (hs.of_eq)
  · exact hs

theorem takeReport_ordered {s : State} {m : Nat} {step status : Word} (hs : s.Ordered) : (s.takeReport m step status).Ordered := by
  unfold takeReport
  split
  · extract_lets
    exact formRecord_ordered (hs.of_eq)
  · exact hs

theorem replayCheck_ordered {s : State} {c : Nat} {t : State} (_ : s.Ordered) (h_t : t.Ordered) : (s.replayCheck c t).Ordered := by
  unfold replayCheck
  extract_lets
  split
  · exact h_t
  · extract_lets t1 _
    have h_t1 : t1.Ordered := h_t.of_eq
    split
    · exact h_t1
    · split
      · exact raiseEv_ordered (restoreOver_ordered (undefineRegions_ordered h_t1))
      · split
        · exact restoreOver_ordered h_t1
        · exact h_t1

theorem stepEnd_ordered {s : State} {c : Nat} (hs : s.Ordered) : (s.stepEnd c).Ordered := by
  unfold stepEnd
  extract_lets s1 _ _
  have h_s1 : s1.Ordered := replayCheck_ordered hs (stepEndLog_ordered hs)
  split
  · exact h_s1
  · split
    · exact takeReport_ordered h_s1
    · exact sendNet_ordered h_s1

theorem reportAgain_ordered {s : State} (hs : s.Ordered) : s.reportAgain.Ordered :=
  sendNet_ordered hs

theorem resumeGroup_ordered {s : State} (hs : s.Ordered) : s.resumeGroup.Ordered := by
  unfold resumeGroup
  split
  · exact hs
  · extract_lets _ s1
    have h_s1 : s1.Ordered := hs.of_eq
    split
    · exact formRecord_ordered h_s1
    · exact reportAgain_ordered h_s1

theorem descend_ordered {s : State} {c i : Nat} (hs : s.Ordered) : (s.descend c i).Ordered := by
  unfold descend
  extract_lets _ _ _ s1 s2 _
  have h_s1 : s1.Ordered := putLayer_ordered hs
  have h_s2 : s2.Ordered := Ordered.ite (logPut_ordered h_s1) h_s1
  split
  · exact raiseEv_ordered (setCtx_ordered h_s2)
  · exact hs

theorem putConstant_ordered {s : State} {c i n bits : Nat} (hs : s.Ordered) : (s.putConstant c i n bits).Ordered := by
  unfold putConstant
  extract_lets
  split
  · exact post_ordered hs
  · exact hs

theorem patchConstants_ordered {s : State} {c : Nat} {old : State} (hs : s.Ordered) (_ : old.Ordered) : (s.patchConstants c old).Ordered := by
  unfold patchConstants
  extract_lets s1
  have h_s1 : s1.Ordered := by
    unfold s1
    refine Ordered.foldl hs ?_
    intro s1 a1 h1
    split
    · exact putConstant_ordered h1
    · exact h1
  exact Ordered.foldl h_s1 (fun _ _ h1 => (putConstant_ordered h1))

theorem patchCollectives_ordered {s : State} {c : Nat} (hs : s.Ordered) : (s.patchCollectives c).Ordered := by
  unfold patchCollectives
  refine Ordered.foldl hs ?_
  intro s1 a1 h1
  extract_lets
  split
  · exact setFmtIn_ordered h1
  · exact h1

theorem patchStep_ordered {s0 : State} {c : Nat} {old : State} (hs : s0.Ordered) (h_old : old.Ordered) : (s0.patchStep c old).Ordered := by
  unfold patchStep
  extract_lets s1 s2 _
  have h_s1 : s1.Ordered := patchConstants_ordered hs h_old
  have h_s2 : s2.Ordered := Ordered.ite h_s1 (patchCollectives_ordered (patchQueues_ordered h_s1))
  exact setCtx_ordered h_s2

theorem checkpointDue_ordered {s : State} {c : Nat} {ended : Word} (hs : s.Ordered) : (s.checkpointDue c ended).Ordered := by
  unfold checkpointDue
  extract_lets
  split
  · exact hs
  · split
    · exact setCtx_ordered hs
    · split
      · split
        · exact raiseEv_ordered hs
        · exact hs
      · split
        · exact setCtx_ordered (hs.of_eq)
        · exact hs

theorem releaseStep_ordered {s : State} {c : Nat} {step : Word} (hs : s.Ordered) : (s.releaseStep c step).Ordered :=
  Ordered.foldl hs (fun _ _ h1 => (modChan_ordered h1))

theorem skipStep_ordered {s : State} {c : Nat} (hs : s.Ordered) : (s.skipStep c).Ordered := by
  unfold skipStep
  extract_lets _ _ _ s1 s2 s3
  have h_s1 : s1.Ordered := setCtx_ordered hs
  have h_s2 : s2.Ordered := Ordered.ite (logPut_ordered h_s1) h_s1
  have h_s3 : s3.Ordered := raiseEv_ordered (releaseStep_ordered h_s2)
  split
  · exact raiseEv_ordered h_s3
  · exact h_s3

theorem completeStep_ordered {s : State} {c : Nat} (hs : s.Ordered) : (s.completeStep c).Ordered := by
  unfold completeStep
  extract_lets _ _ _ s1
  have h_s1 : s1.Ordered := setCtx_ordered hs
  exact Ordered.foldl h_s1 (fun _ _ h1 => (putLayer_ordered h1))

theorem realign_ordered {s : State} {c n old new : Nat} (hs : s.Ordered) : (s.realign c n old new).Ordered := by
  unfold realign
  split
  · exact hs
  · extract_lets
    exact raiseEv_ordered (logPut_ordered hs)

theorem takeDecision_ordered {s : State} {c : Nat} (hs : s.Ordered) : (s.takeDecision c).Ordered := by
  unfold takeDecision
  extract_lets
  split
  · exact setCtx_ordered hs
  · split
    · exact hs
    · exact hs
    · split
      · exact hs
      · extract_lets s1 _ s2
        have h_s1 : s1.Ordered := setCtx_ordered hs
        have h_s2 : s2.Ordered := setCtx_ordered h_s1
        split
        · exact h_s1
        · split
          · exact realign_ordered h_s2
          · exact h_s2

theorem stepStartLog_ordered {s : State} {c : Nat} {skip : Bool} (hs : s.Ordered) : (s.stepStartLog c skip).Ordered := by
  unfold stepStartLog
  extract_lets
  split
  · exact logPut_ordered hs
  · exact hs

theorem replayRoster_ordered {s : State} {c step : Nat} (hs : s.Ordered) : (s.replayRoster c step).Ordered := by
  unfold replayRoster
  split
  · exact hs
  · refine Ordered.foldl hs ?_
    intro s1 a1 h1
    extract_lets _ _ s1' _
    have h_s1' : s1'.Ordered := Ordered.ite (h1.of_eq) h1
    exact h_s1'.of_eq

theorem passStep_ordered {s : State} {c q : Nat} {y : Cmd} {skip : Bool} (hs : s.Ordered) : (s.passStep c q y skip).Ordered := by
  unfold passStep
  extract_lets _ s0 s1 _ _ s2 s3 _ s4 _
  have h_s0 : s0.Ordered := takeDecision_ordered (Ordered.ite (skipStep_ordered (replaySkipped_ordered hs)) (completeStep_ordered hs))
  have h_s1 : s1.Ordered := replayRoster_ordered h_s0
  have h_s2 : s2.Ordered := setCtx_ordered h_s1
  have h_s3 : s3.Ordered := patchStep_ordered (checkpointDue_ordered (Ordered.foldl (stepStartLog_ordered h_s2) (fun _ _ h1 => (descend_ordered h1)))) hs
  have h_s4 : s4.Ordered := startLayer_ordered (startBlock_ordered (modCmd_ordered h_s3))
  exact setQueue_ordered h_s4

theorem stepGateRelease_ordered {s : State} {c : Nat} (hs : s.Ordered) : (s.stepGateRelease c).Ordered := by
  unfold stepGateRelease
  split
  · exact hs
  · extract_lets
    split
    · exact passStep_ordered hs
    · exact hs

theorem ringDoorbell_ordered {s : State} {n value : Nat} (hs : s.Ordered) : (s.ringDoorbell n value).Ordered := by
  unfold ringDoorbell
  extract_lets
  split
  · exact raiseCtx_ordered hs
  · split
    · exact hs
    · exact setQueue_ordered hs

theorem dropCmds_ordered {s : State} {c q : Nat} {gone : Cmd → Bool} (hs : s.Ordered) : (s.dropCmds c q gone).Ordered := by
  unfold dropCmds
  extract_lets s1 _ __src _
  have h_s1 : s1.Ordered := Ordered.foldl hs (fun _ _ h1 => (freeEngine_ordered (unbind_ordered h1)))
  have h___src : __src.Ordered := setQueue_ordered h_s1
  exact h___src.of_eq

theorem restartQueue_ordered {s : State} {index : Word} (hs : s.Ordered) : (s.restartQueue index).Ordered := by
  unfold restartQueue
  split
  · exact hs
  · extract_lets _ s1 _
    have h_s1 : s1.Ordered := dropCmds_ordered hs
    split
    · exact setQueue_ordered h_s1
    · exact hs

theorem abortQueue_ordered {s : State} (hs : s.Ordered) : s.abortQueue.Ordered := by
  unfold abortQueue
  split
  · exact hs
  · extract_lets
    exact setQueue_ordered hs

theorem wake_ordered {s : State} {sp : List Span} (hs : s.Ordered) : (s.wake sp).Ordered :=
  hs.of_eq

theorem lossEnd_ordered {s : State} {c q : Nat} {y : Cmd} {st : Status} (hs : s.Ordered) : (s.lossEnd c q y st).Ordered := by
  unfold lossEnd
  split
  · split
    · split
      · split
        · extract_lets _ s1 _ _
          have h_s1 : s1.Ordered := modChan_ordered hs
          exact setCtx_ordered h_s1
        · exact modChan_ordered hs
      · exact hs
    · exact hs
  · exact hs

theorem loseWrites_ordered {s : State} {c q : Nat} {idx : Word} (hs : s.Ordered) : (s.loseWrites c q idx).Ordered := by
  unfold loseWrites
  split
  · exact answer_ordered (hs.of_eq)
  · exact hs

theorem completeCmd_ordered {s0 : State} {c q : Nat} {idx : Word} (hs : s0.Ordered) : (s0.completeCmd c q idx).Ordered := by
  unfold completeCmd
  extract_lets s' _
  have h_s' : s'.Ordered := loseWrites_ordered hs
  split
  · exact h_s'
  · split
    · exact h_s'
    · split
      · exact h_s'
      · split
        · exact h_s'
        · extract_lets s1 s2
          have h_s1 : s1.Ordered := Ordered.ite (lossEnd_ordered h_s') h_s'
          have h_s2 : s2.Ordered := complete_ordered h_s1
          split
          · exact h_s2
          · exact freeEngine_ordered h_s2

theorem takeCommand_ordered {s : State} {c q w : Nat} {a : At} (hs : s.Ordered) : (s.takeCommand c q w a).Ordered := by
  unfold takeCommand
  extract_lets _ _ _ _ s0 s1
  have h_s0 : s0.Ordered := setQueue_ordered hs
  have h_s1 : s1.Ordered := Ordered.ite (wake_ordered h_s0) h_s0
  split
  · exact completeCmd_ordered h_s1
  · exact h_s1

theorem dispatch_ordered {s : State} {c q : Nat} (hs : s.Ordered) : (s.dispatch c q).Ordered := by
  unfold dispatch
  extract_lets
  split
  · exact hs
  · split
    · exact raiseCtx_ordered hs
    · split
      · exact faultContext_ordered hs
      · split
        · exact takeCommand_ordered hs
        · exact hs

theorem fencePass_ordered {s : State} {c q : Nat} {y : Cmd} (hs : s.Ordered) : (s.fencePass c q y).Ordered := by
  unfold fencePass
  extract_lets _ s1 _
  have h_s1 : s1.Ordered := modCmd_ordered hs
  exact setQueue_ordered h_s1

theorem fenceStart_ordered {s : State} {c q : Nat} {idx : Word} (hs : s.Ordered) : (s.fenceStart c q idx).Ordered := by
  unfold fenceStart
  split
  · exact hs
  · extract_lets _ _ s1 _
    have h_s1 : s1.Ordered := modCmd_ordered hs
    split
    · exact hs
    · split
      · exact fencePass_ordered hs
      · exact setQueue_ordered h_s1

theorem fenceSatisfied_ordered {s : State} {c q : Nat} (hs : s.Ordered) : (s.fenceSatisfied c q).Ordered := by
  unfold fenceSatisfied
  split
  · split
    · exact fencePass_ordered hs
    · exact hs
  · exact hs

theorem fenceLimit_ordered {s : State} {c q : Nat} (hs : s.Ordered) : (s.fenceLimit c q).Ordered := by
  unfold fenceLimit
  split
  · exact hs
  · extract_lets
    split
    · exact hs
    · split
      · exact raiseCtx_ordered (faultContext_ordered hs)
      · exact park_ordered (modCmd_ordered hs)

theorem eventStart_ordered {s : State} {c q : Nat} {idx : Word} (hs : s.Ordered) : (s.eventStart c q idx).Ordered := by
  unfold eventStart
  split
  · exact hs
  · extract_lets _ _ fin _ s1 _ _ _
    have h_fin : ∀ a0, a0.Ordered → (fin a0).Ordered := by
      unfold fin
      intro s1 h1
      extract_lets
      exact modCmd_ordered h1
    have h_s1 : s1.Ordered := setCtx_ordered hs
    split
    · exact hs
    · split
      · exact h_fin _ (Ordered.ite (startBlock_ordered h_s1) h_s1)
      · exact h_fin _ (setQueue_ordered hs)
      · exact h_fin _ (raiseCtx_ordered (setEv_ordered (hs.of_eq)))
      · extract_lets s1'
        have h_s1' : s1'.Ordered := setQueue_ordered (modCmd_ordered hs)
        split
        · exact stepEnd_ordered h_s1'
        · exact h_s1'

theorem sorLimit_ordered {s : State} {c q : Nat} {idx : Word} (hs : s.Ordered) : (s.sorLimit c q idx).Ordered := by
  unfold sorLimit
  split
  · exact hs
  · split
    · exact hs
    · split
      · exact hs
      · split
        · exact hs
        · extract_lets s1
          have h_s1 : s1.Ordered := setChan_ordered hs
          exact raiseEv_ordered (park_ordered (modCmd_ordered h_s1))

theorem unpark_ordered {s : State} {c : Nat} (hs : s.Ordered) : (s.unpark c).Ordered := by
  unfold unpark
  extract_lets
  split
  · exact setCtx_ordered hs
  · exact hs

theorem sorAnswer_ordered {s : State} {a : Nat} {st : Status} {detail slots result granules free : Nat} (hs : s.Ordered) : (s.sorAnswer a st detail slots result granules free).Ordered := by
  unfold sorAnswer
  extract_lets s1
  have h_s1 : s1.Ordered := post_ordered hs
  split
  · exact h_s1
  · exact raiseEv_ordered h_s1

theorem sorRequest_ordered {s : State} {a : Nat} {f : State → List Byte → State} (hs : s.Ordered) (h_f : ∀ a0 a1, a0.Ordered → (f a0 a1).Ordered) : (s.sorRequest a f).Ordered := by
  unfold sorRequest
  split
  · exact h_f _ _ hs
  · exact hs

theorem openJob_ordered {s : State} {a : Nat} (hs : s.Ordered) : (s.openJob a).Ordered := by
  unfold openJob
  refine sorRequest_ordered hs ?_
  intro s1 a1 h1
  extract_lets
  split
  · exact sorAnswer_ordered h1
  · extract_lets
    exact sorAnswer_ordered (h1.of_eq)
  · exact h1

theorem closeJob_ordered {s : State} {a : Nat} (hs : s.Ordered) : (s.closeJob a).Ordered := by
  unfold closeJob
  refine sorRequest_ordered hs ?_
  intro s1 a1 h1
  extract_lets _ _ _ s1'
  have h_s1' : s1'.Ordered := h1.of_eq
  split
  · exact sorAnswer_ordered h1
  · exact jobAfter_ordered (Ordered.foldl h_s1' (fun _ _ h2 => (chanClose_ordered h2)))

theorem openChannel_ordered {s : State} {a : Nat} (hs : s.Ordered) : (s.openChannel a).Ordered := by
  unfold openChannel
  refine sorRequest_ordered hs ?_
  intro s1 a1 h1
  extract_lets
  split
  · split
    · exact sorAnswer_ordered h1
    · exact h1
  · extract_lets
    split
    · exact sorAnswer_ordered h1
    · extract_lets _ s1'
      have h_s1' : s1'.Ordered := setChan_ordered (h1.of_eq)
      exact sorAnswer_ordered h_s1'
    · exact h1

theorem closeChannel_ordered {s : State} {a : Nat} (hs : s.Ordered) : (s.closeChannel a).Ordered := by
  unfold closeChannel
  refine sorRequest_ordered hs ?_
  intro s1 a1 h1
  extract_lets
  split
  · exact sorAnswer_ordered h1
  · exact chanClose_ordered h1
  · exact h1

theorem closeLimit_ordered {s : State} {i : Nat} (hs : s.Ordered) : (s.closeLimit i).Ordered := by
  unfold closeLimit
  split
  · split
    · exact chanAfter_ordered (setChan_ordered hs)
    · exact hs
  · exact hs

theorem ptnAnswer_ordered {s : State} {a i : Nat} {st : Status} {detail handle quads moved copied : Nat} (hs : s.Ordered) : (s.ptnAnswer a i st detail handle quads moved copied).Ordered :=
  post_ordered hs

theorem headAnswer_ordered {s : State} {a : Nat} {st : Status} {detail bad us : Nat} (hs : s.Ordered) : (s.headAnswer a st detail bad us).Ordered :=
  post_ordered hs

theorem refuseBatch_ordered {s : State} {a : Nat} {rs : List (Option (Status × Nat))} {ds : List PtnDesc} (hs : s.Ordered) : (s.refuseBatch a rs ds).Ordered := by
  unfold refuseBatch
  split
  · exact hs
  · extract_lets _ _ s1
    have h_s1 : s1.Ordered := by
      unfold s1
      refine Ordered.foldl hs ?_
      intro s1 a1 h1
      extract_lets
      split
      · exact ptnAnswer_ordered h1
      · exact ptnAnswer_ordered h1
    exact raiseEv_ordered (headAnswer_ordered h_s1)

theorem batchSaves_ordered {s : State} {b : Batch} (hs : s.Ordered) : (s.batchSaves b).Ordered := by
  unfold batchSaves
  refine Ordered.foldl hs ?_
  intro s1 a1 h1
  extract_lets
  split
  · exact setCtx_ordered h1
  · split
    · exact h1
    · split
      · exact park_ordered h1
      · exact beginSave_ordered h1

theorem batchPower_ordered {s : State} {items : List BatchItem} (hs : s.Ordered) : (s.batchPower items).Ordered :=
  Ordered.foldl hs (fun _ _ h1 => (Ordered.ite (switchOn_ordered h1) h1))

theorem acceptBatch_ordered {s : State} {a : Nat} {pl : Plan} {ds : List PtnDesc} (hs : s.Ordered) : (s.acceptBatch a pl ds).Ordered := by
  unfold acceptBatch
  extract_lets _ _ s1
  have h_s1 : s1.Ordered := batchSaves_ordered (batchPower_ordered (hs.of_eq))
  exact h_s1.of_eq

theorem decideBatch_ordered {s : State} {a : Nat} {ds : List PtnDesc} (hs : s.Ordered) : (s.decideBatch a ds).Ordered := by
  unfold decideBatch
  extract_lets
  split
  · exact refuseBatch_ordered hs
  · exact acceptBatch_ordered hs

theorem layoutBatch_ordered {s : State} {a : Nat} (hs : s.Ordered) : (s.layoutBatch a).Ordered := by
  unfold layoutBatch
  split
  · exact hs
  · extract_lets
    split
    · exact raiseEv_ordered (headAnswer_ordered hs)
    · split
      · split
        · exact refuseBatch_ordered hs
        · exact decideBatch_ordered hs
      · split
        · exact raiseEv_ordered (headAnswer_ordered (Ordered.foldl hs (fun _ _ h1 => (ptnAnswer_ordered h1))))
        · split
          · exact raiseEv_ordered (headAnswer_ordered hs)
          · split
            · exact hs
            · exact decideBatch_ordered hs

theorem saveLeaving_ordered {s : State} {c new : Nat} (hs : s.Ordered) : (s.saveLeaving c new).Ordered :=
  Ordered.foldl hs (fun _ _ h1 => (Ordered.ite h1 (saveWindow_ordered h1)))

theorem redealQueue_ordered {s : State} {c q : Nat} (hs : s.Ordered) : (s.redealQueue c q).Ordered := by
  unfold redealQueue
  extract_lets _ s1 s2 _ _ _
  have h_s1 : s1.Ordered := Ordered.foldl hs (fun _ _ h1 => (unbind_ordered h1))
  have h_s2 : s2.Ordered := freeHeld_ordered h_s1
  exact setQueue_ordered h_s2

theorem redeal_ordered {s : State} {c : Nat} (hs : s.Ordered) : (s.redeal c).Ordered := by
  unfold redeal
  extract_lets s1 _
  have h_s1 : s1.Ordered := Ordered.foldl hs (fun _ _ h1 => (redealQueue_ordered h1))
  exact setCtx_ordered h_s1

theorem remapCtx_ordered {s : State} {c old new : Nat} (hs : s.Ordered) : (s.remapCtx c old new).Ordered := by
  unfold remapCtx
  extract_lets _ _ _ s0 _ _ _
  have h_s0 : s0.Ordered := Ordered.ite (redeal_ordered hs) hs
  exact setCtx_ordered h_s0

theorem dropAttrs_ordered {s : State} {pcs : Nat} (hs : s.Ordered) : (s.dropAttrs pcs).Ordered :=
  hs.of_eq

theorem ownItem_ordered {s : State} {it : BatchItem} (hs : s.Ordered) : (s.ownItem it).Ordered := by
  unfold ownItem
  split
  · extract_lets s1
    have h_s1 : s1.Ordered := dropAttrs_ordered hs
    exact h_s1.of_eq
  · extract_lets s1 s2 s3 _ s4 _ _
    have h_s1 : s1.Ordered := Ordered.foldl hs (fun _ _ h1 => (saveLeaving_ordered h1))
    have h_s2 : s2.Ordered := Ordered.foldl h_s1 (fun _ _ h1 => (chanMigrate_ordered h1))
    have h_s3 : s3.Ordered := h_s2.of_eq
    have h_s4 : s4.Ordered := teachersBack_ordered (Ordered.foldl h_s3 (fun _ _ h1 => (remapCtx_ordered h1)))
    exact h_s4.of_eq
  · split
    · exact hs.of_eq
    · exact hs
  · exact hs

theorem applyItem_ordered {s : State} {it : BatchItem} (hs : s.Ordered) : (s.applyItem it).Ordered :=
  settleWays_ordered (ownItem_ordered hs) hs

theorem endBatch_ordered {s : State} {b : Batch} (hs : s.Ordered) : (s.endBatch b).Ordered := by
  unfold endBatch
  extract_lets s1 s2
  have h_s1 : s1.Ordered := by
    unfold s1
    refine Ordered.foldl hs ?_
    intro s1 a1 h1
    extract_lets
    exact ptnAnswer_ordered h1
  have h_s2 : s2.Ordered := h_s1.of_eq
  exact raiseEv_ordered (headAnswer_ordered h_s2)

theorem batchStep_ordered {s : State} (hs : s.Ordered) : s.batchStep.Ordered := by
  unfold batchStep
  split
  · exact hs
  · split
    · split
      · exact endBatch_ordered hs
      · exact hs
    · split
      · extract_lets s0 s1 _ s2
        have h_s0 : s0.Ordered := Ordered.ite (ckptEnd_ordered hs) hs
        have h_s1 : s1.Ordered := Ordered.foldl h_s0 (fun _ _ h1 => (Ordered.foldl h1 (fun _ _ h2 => (applyItem_ordered h2))))
        have h_s2 : s2.Ordered := h_s1.of_eq
        split
        · exact h_s2
        · exact endBatch_ordered h_s2
      · exact batchSaves_ordered (batchPower_ordered hs)

theorem copyStripes_ordered {s : State} {b : Batch} (hs : s.Ordered) : (s.copyStripes b).Ordered := by
  unfold copyStripes
  extract_lets _ _ _ _ _ kept keepAttr
  have h_kept : kept.Ordered := writeBack_ordered (dropAttrs_ordered hs)
  have h_keepAttr : keepAttr.Ordered := by
    unfold keepAttr
    refine Ordered.foldl h_kept ?_
    intro s1 a1 h1
    split
    · refine Ordered.foldl h1 ?_
      intro s2 a1 h2
      split
      · exact setAttr_ordered h2
      · exact h2
    · exact h1
  exact h_keepAttr.of_eq

theorem stripeEnd_ordered {s : State} {ptn : Nat} (hs : s.Ordered) : (s.stripeEnd ptn).Ordered := by
  unfold stripeEnd
  split
  · exact hs
  · split
    · extract_lets _ s1
      have h_s1 : s1.Ordered := Ordered.ite (copyStripes_ordered hs) (hs.of_eq)
      exact h_s1.of_eq
    · exact hs

theorem ctxAnswer_ordered {s : State} {a : Nat} {st : Status} {detail handle pages : Nat} (hs : s.Ordered) : (s.ctxAnswer a st detail handle pages).Ordered :=
  post_ordered hs

theorem createFrom_ordered {s : State} {a : Nat} {l : List Byte} (hs : s.Ordered) : (s.createFrom a l).Ordered := by
  unfold createFrom
  extract_lets
  split
  · exact ctxAnswer_ordered hs
  · extract_lets s1
    have h_s1 : s1.Ordered := setCtx_ordered (hs.of_eq)
    exact ctxAnswer_ordered h_s1
  · exact hs

theorem createCtx_ordered {s : State} {a : Nat} (hs : s.Ordered) : (s.createCtx a).Ordered := by
  unfold createCtx
  split
  · exact hs
  · exact createFrom_ordered hs

theorem destroyCtx_ordered {s : State} {a : Nat} (hs : s.Ordered) : (s.destroyCtx a).Ordered := by
  unfold destroyCtx
  split
  · exact hs
  · extract_lets
    split
    · exact ctxAnswer_ordered hs
    · extract_lets
      split
      · exact setCtx_ordered hs
      · exact ctxAnswer_ordered (freeContext_ordered (freeArrays_ordered (finishDrains_ordered hs)))
    · exact hs

theorem forceSave_ordered {s : State} {c : Nat} (hs : s.Ordered) : (s.forceSave c).Ordered :=
  saveDone_ordered (finishDrains_ordered (beginSave_ordered hs))

theorem parkEmpty_ordered {s : State} {c : Nat} (hs : s.Ordered) : (s.parkEmpty c).Ordered := by
  unfold parkEmpty
  extract_lets _ s1
  have h_s1 : s1.Ordered := setCtx_ordered hs
  split
  · exact park_ordered hs
  · exact setCtx_ordered hs
  · exact h_s1.of_eq
  · exact h_s1.of_eq
  · exact h_s1.of_eq
  · exact hs

theorem removeQuad_ordered {s1 : State} {k : Nat} (hs : s1.Ordered) : (s1.removeQuad k).Ordered := by
  unfold removeQuad
  split
  · exact hs
  · extract_lets _ _ s2 order s3
    have h_s2 : s2.Ordered := Ordered.foldl hs (fun _ _ h1 => (forceSave_ordered h1))
    have h_order : ∀ a0 a1, a0.Ordered → (order a0 a1).Ordered := fun _ _ h1 => (remapCtx_ordered (saveLeaving_ordered h1))
    have h_s3 : s3.Ordered := Ordered.foldl h_s2 (fun _ _ h1 => (Ordered.ite (forceSave_ordered h1) h1))
    split
    · exact raiseEv_ordered (Ordered.foldl (hs.of_eq) (fun _ _ h1 => (parkEmpty_ordered h1)))
    · exact Ordered.foldl (h_s3.of_eq) h_order

theorem retireQuad_ordered {s : State} {k : Nat} (hs : s.Ordered) : (s.retireQuad k).Ordered := by
  unfold retireQuad
  extract_lets
  split
  · exact hs
  · exact removeQuad_ordered (raiseEv_ordered (setQuad_ordered hs))

theorem retire_ordered {s : State} {a : Nat} (hs : s.Ordered) : (s.retire a).Ordered := by
  unfold retire
  split
  · exact hs
  · extract_lets _ _ s1
    have h_s1 : s1.Ordered := Ordered.foldl hs (fun _ _ h1 => (beginSave_ordered (redeal_ordered h1)))
    exact retireQuad_ordered (retireArray_ordered h_s1)

theorem retireNoted_ordered {s : State} {a first : Nat} (hs : s.Ordered) : (s.retireNoted a first).Ordered := by
  unfold retireNoted
  split
  · exact hs
  · extract_lets s1 _
    have h_s1 : s1.Ordered := retire_ordered hs
    split
    · exact openFault_ordered h_s1
    · exact modFault_ordered h_s1

theorem retireFor_ordered {s : State} {a first : Nat} (hs : s.Ordered) : (s.retireFor a first).Ordered := by
  unfold retireFor
  split
  · exact retireNoted_ordered hs
  · exact hs

theorem arrayError_ordered {s : State} {a : Nat} {p : EccPlace} {corrected : Bool} (hs : s.Ordered) : (s.arrayError a p corrected).Ordered := by
  unfold arrayError
  extract_lets s1
  have h_s1 : s1.Ordered := arrayEcc_ordered hs
  split
  · exact h_s1
  · exact retireFor_ordered h_s1

theorem noteStart_ordered {s : State} {c : Nat} (hs : s.Ordered) : (s.noteStart c).Ordered := by
  unfold noteStart
  split
  · exact hs
  · refine Ordered.foldl hs ?_
    intro s1 a1 h1
    extract_lets
    split
    · extract_lets
      exact setGroup_ordered (setQuad_ordered h1)
    · exact h1

theorem noteTurn_ordered {s : State} {c : Nat} (hs : s.Ordered) : (s.noteTurn c).Ordered := by
  unfold noteTurn
  extract_lets
  refine Ordered.foldl hs ?_
  intro s1 a1 h1
  extract_lets
  exact setGroup_ordered h1

theorem bindCtx_ordered {s : State} {c : Nat} (hs : s.Ordered) : (s.bindCtx c).Ordered := by
  unfold bindCtx
  extract_lets
  split
  · exact hs
  · split
    · exact noteStart_ordered (noteTurn_ordered (bind_ordered hs))
    · split
      · exact Ordered.foldl hs (fun _ _ h1 => (beginSave_ordered h1))
      · exact hs

theorem giveUp_ordered {s : State} {c reason : Nat} (hs : s.Ordered) : (s.giveUp c reason).Ordered :=
  beginSave_ordered hs

theorem preemptFor_ordered {s : State} {k c : Nat} (hs : s.Ordered) : (s.preemptFor k c).Ordered := by
  unfold preemptFor
  split
  · split
    · exact hs
    · exact giveUp_ordered hs
  · exact hs

theorem handOver_ordered {s : State} {k c slot : Nat} {early : Bool} (hs : s.Ordered) : (s.handOver k c slot early).Ordered := by
  unfold handOver
  extract_lets _ s1
  have h_s1 : s1.Ordered := setQuad_ordered hs
  exact preemptFor_ordered h_s1

theorem handNext_ordered {s : State} {k : Nat} (hs : s.Ordered) : (s.handNext k).Ordered := by
  unfold handNext
  split
  · split
    · exact hs
    · exact handOver_ordered hs
  · exact hs

theorem takeLent_ordered {s : State} {k c slot : Nat} (hs : s.Ordered) : (s.takeLent k c slot).Ordered := by
  unfold takeLent
  split
  · exact preemptFor_ordered hs
  · exact handOver_ordered hs

theorem handoverStart_ordered {s : State} {g : Nat} (hs : s.Ordered) : (s.handoverStart g).Ordered := by
  unfold handoverStart
  extract_lets
  split
  · exact Ordered.foldl hs (fun _ _ h1 => (handNext_ordered h1))
  · refine Ordered.foldl hs ?_
    intro s1 a1 h1
    split
    · exact takeLent_ordered h1
    · exact h1

theorem endReservation_ordered {s : State} {k : Nat} (hs : s.Ordered) : (s.endReservation k).Ordered := by
  unfold endReservation
  extract_lets _ s1
  have h_s1 : s1.Ordered := setQuad_ordered hs
  split
  · split
    · exact giveUp_ordered h_s1
    · exact h_s1
  · exact h_s1

theorem ownerStart_ordered {s : State} {k c slot : Nat} {since : DWord} (hs : s.Ordered) : (s.ownerStart k c slot since).Ordered := by
  unfold ownerStart
  extract_lets s1 _
  have h_s1 : s1.Ordered := handOver_ordered hs
  split
  · exact h_s1
  · exact setQuad_ordered h_s1

theorem behindStart_ordered {s : State} {k slot : Nat} (hs : s.Ordered) : (s.behindStart k slot).Ordered := by
  unfold behindStart
  split
  · exact ownerStart_ordered (setQuad_ordered hs)
  · exact hs

theorem extensionOver_ordered {s : State} {k : Nat} (hs : s.Ordered) : (s.extensionOver k).Ordered := by
  unfold extensionOver
  extract_lets
  split
  · split
    · exact behindStart_ordered (endReservation_ordered hs)
    · exact hs
  · exact hs

theorem extensionsOver_ordered {s : State} {g : Nat} (hs : s.Ordered) : (s.extensionsOver g).Ordered :=
  Ordered.foldl hs (fun _ _ h1 => (extensionOver_ordered h1))

theorem slotStart_ordered {s : State} {k : Nat} (hs : s.Ordered) : (s.slotStart k).Ordered := by
  unfold slotStart
  extract_lets
  split
  · exact hs
  · split
    · exact setQuad_ordered hs
    · clear_value *
      split
      · split
        · exact behindStart_ordered (Ordered.ite (endReservation_ordered hs) hs)
        · split
          · exact setQuad_ordered hs
          · split
            · split
              · exact behindStart_ordered hs
              · exact setQuad_ordered (behindStart_ordered hs)
            · exact ownerStart_ordered hs
      · split
        · exact behindStart_ordered hs
        · exact behindStart_ordered (endReservation_ordered hs)

theorem countLate_ordered {before after : State} {g : Nat} (_ : before.Ordered) (h_after : after.Ordered) : (before.countLate after g).Ordered := by
  unfold countLate
  extract_lets
  split
  · exact h_after
  · exact raiseEv_ordered (setGroup_ordered h_after)

theorem takeTable_ordered {s : State} {g : Nat} (hs : s.Ordered) : (s.takeTable g).Ordered := by
  unfold takeTable
  extract_lets
  split
  · exact hs
  · split
    · exact setGroup_ordered hs
    · split
      · exact setGroup_ordered hs
      · exact setGroup_ordered hs

theorem slotBoundary_ordered {s : State} {g : Nat} (hs : s.Ordered) : (s.slotBoundary g).Ordered := by
  unfold slotBoundary
  extract_lets _ _ _ _ s1 s2 _ s3
  have h_s1 : s1.Ordered := setGroup_ordered hs
  have h_s2 : s2.Ordered := Ordered.ite (takeTable_ordered h_s1) h_s1
  have h_s3 : s3.Ordered := Ordered.ite (raiseEv_ordered h_s2) h_s2
  exact countLate_ordered h_s3 (Ordered.foldl h_s3 (fun _ _ h1 => (slotStart_ordered (extensionOver_ordered h1))))

theorem sliceEnd_ordered {s : State} {c : Nat} (hs : s.Ordered) : (s.sliceEnd c).Ordered := by
  unfold sliceEnd
  extract_lets
  split
  · exact giveUp_ordered hs
  · exact hs

theorem saveEnd_ordered {s : State} {c : Nat} (hs : s.Ordered) : (s.saveEnd c).Ordered := by
  unfold saveEnd
  split
  · exact saveDone_ordered hs
  · exact hs

theorem restoreEnd_ordered {s : State} {c : Nat} (hs : s.Ordered) : (s.restoreEnd c).Ordered := by
  unfold restoreEnd
  split
  · exact noteStart_ordered (restoreDone_ordered hs)
  · exact hs

theorem pinFrames_ordered {s : State} {e : HotEntry} {on : Bool} (hs : s.Ordered) : (s.pinFrames e on).Ordered := by
  unfold pinFrames
  refine Ordered.foldl hs ?_
  intro s1 a1 h1
  split
  · exact setAttr_ordered h1
  · exact h1

theorem hotAnswer_ordered {s : State} {a entry first : Nat} {st : Status} {detail evicted : Nat} (hs : s.Ordered) : (s.hotAnswer a entry first st detail evicted).Ordered :=
  post_ordered (post_ordered (post_ordered (post_ordered hs)))

theorem hotRequest_ordered {s : State} {a : Nat} (hs : s.Ordered) : (s.hotRequest a).Ordered := by
  unfold hotRequest
  split
  · exact hs
  · extract_lets
    split
    · exact hotAnswer_ordered hs
    · clear_value *
      split
      · extract_lets _ s1 s2
        have h_s1 : s1.Ordered := hs.of_eq
        have h_s2 : s2.Ordered := Ordered.ite h_s1 (raiseEv_ordered h_s1)
        exact hotAnswer_ordered h_s2
      · exact hotAnswer_ordered (pinFrames_ordered (hs.of_eq))
      · exact hotAnswer_ordered (pinFrames_ordered (hs.of_eq))
      · exact hotAnswer_ordered (hs.of_eq)
      · exact hotAnswer_ordered (raiseEv_ordered (hs.of_eq))
      · exact hs

theorem testFinal_ordered {s : State} {a : Nat} {st : Status} {detail : Nat} (hs : s.Ordered) : (s.testFinal a st detail).Ordered :=
  post_ordered hs

theorem testInterim_ordered {s : State} {a : Nat} {st : Status} {place : Nat} (hs : s.Ordered) : (s.testInterim a st place).Ordered :=
  post_ordered hs

theorem setTests_ordered {s : State} {c : Nat} {l : List TestReq} (hs : s.Ordered) : (s.setTests c l).Ordered :=
  hs.of_eq

theorem testShow_ordered {s : State} {c fuel : Nat} (hs : s.Ordered) : (s.testShow c fuel).Ordered := by
  induction fuel generalizing s with
  | zero => exact hs
  | succ fuel ih =>
    unfold testShow
    split
    · exact hs
    · refine Ordered.ite (Ordered.foldl hs fun _ _ h => testInterim_ordered h) (Ordered.ite ?_ ?_)
      · exact ih (raiseEv_ordered (testFinal_ordered (setTests_ordered hs)))
      · exact Ordered.foldl (Ordered.ite (testInterim_ordered hs) hs) fun _ _ h => testInterim_ordered h

theorem testRequest_ordered {s : State} {a : Nat} (hs : s.Ordered) : (s.testRequest a).Ordered := by
  unfold testRequest
  split
  · exact hs
  · extract_lets
    split
    · exact testFinal_ordered hs
    · exact testShow_ordered (setTests_ordered hs)

theorem engineYield_ordered {s : State} {e : Nat} (hs : s.Ordered) : (s.engineYield e).Ordered := by
  unfold engineYield
  extract_lets _ s1
  have h_s1 : s1.Ordered := Ordered.ite (hs.of_eq) hs
  exact setEngine_ordered h_s1

theorem takeTarget_ordered {s : State} {ty t : Nat} (hs : s.Ordered) : (s.takeTarget ty t).1.Ordered := by
  unfold takeTarget
  split
  · extract_lets _ s1
    have h_s1 : s1.Ordered := setQuad_ordered hs
    split
    · exact beginSave_ordered h_s1
    · exact h_s1
  · exact setPc_ordered hs
  · exact placeDetour_ordered (setRzLink_ordered hs)
  · extract_lets s1 _
    have h_s1 : s1.Ordered := engineYield_ordered hs
    exact setEngine_ordered h_s1
  · exact portTo_ordered hs

theorem returnTarget_ordered {s : State} {ty t : Nat} (hs : s.Ordered) : (s.returnTarget ty t).Ordered := by
  unfold returnTarget
  split
  · exact setQuad_ordered hs
  · exact setPc_ordered hs
  · extract_lets
    exact rzPumpAll_ordered (setRzLink_ordered hs)
  · exact setEngine_ordered hs
  · split
    · exact portTo_ordered hs
    · exact hs

theorem testBegin_ordered {s : State} {c : Nat} (hs : s.Ordered) : (s.testBegin c).Ordered := by
  unfold testBegin
  split
  · exact hs
  · split
    · exact hs
    · extract_lets r _
      have h_r : r.1.Ordered := takeTarget_ordered hs
      split
      · exact post_ordered (setTests_ordered h_r)
      · exact h_r

theorem testDeferred_ordered {s : State} {c : Nat} (hs : s.Ordered) : (s.testDeferred c).Ordered := by
  unfold testDeferred
  split
  · exact hs
  · split
    · exact hs
    · exact testShow_ordered (raiseEv_ordered (testFinal_ordered (setTests_ordered hs)))

theorem procEffect_ordered {s : State} {proc t : Nat} {r : ProcResult} (hs : s.Ordered) : (s.procEffect proc t r).Ordered := by
  unfold procEffect
  split
  · exact Ordered.foldl hs (fun _ _ h1 => (retireNoted_ordered h1))
  · split
    · exact Ordered.foldl hs (fun _ _ h1 => (retireFor_ordered (countArrayUe_ordered h1)))
    · split
      · exact rzRetrained_ordered (rzRetrain_ordered hs)
      · exact hs

theorem testEnd_ordered {s : State} {c : Nat} {r : ProcResult} {cut : Bool} (hs : s.Ordered) : (s.testEnd c r cut).Ordered := by
  unfold testEnd
  split
  · exact hs
  · split
    · extract_lets s1 s2 s3
      have h_s1 : s1.Ordered := Ordered.ite hs (post_ordered hs)
      have h_s2 : s2.Ordered := procEffect_ordered (returnTarget_ordered h_s1)
      have h_s3 : s3.Ordered := testFinal_ordered (post_ordered h_s2)
      exact testShow_ordered (raiseEv_ordered (setTests_ordered h_s3))
    · exact hs

theorem brokenOff_ordered {s : State} {h : TestReq} {c : Nat} (hs : s.Ordered) : (s.brokenOff h c).2.Ordered := by
  unfold brokenOff
  extract_lets f m k
  have h_f : f.2.Ordered := fresh_ordered hs
  have h_m : m.2.Ordered := fresh_ordered h_f
  have h_k : k.2.Ordered := fresh_ordered h_m
  exact h_k

theorem testAbort_ordered {s : State} {hit : Nat → Nat → Bool} (hs : s.Ordered) : (s.testAbort hit).Ordered := by
  unfold testAbort
  refine Ordered.foldl hs ?_
  intro s1 a1 h1
  split
  · exact h1
  · split
    · extract_lets b s'
      have h_b : b.2.Ordered := brokenOff_ordered h1
      have h_s' : s'.Ordered := Ordered.ite h1 (post_ordered h_b)
      exact testShow_ordered (testFinal_ordered (setTests_ordered (returnTarget_ordered h_s')))
    · exact h1

theorem medAnswer_ordered {s : State} {a : Nat} {st : Status} {detail handle clips : Nat} (hs : s.Ordered) : (s.medAnswer a st detail handle clips).Ordered :=
  post_ordered hs

theorem medRequest_ordered {s : State} {a : Nat} {f : State → List Byte → State} (hs : s.Ordered) (h_f : ∀ a0 a1, a0.Ordered → (f a0 a1).Ordered) : (s.medRequest a f).Ordered := by
  unfold medRequest
  split
  · exact hs
  · split
    · exact medAnswer_ordered hs
    · exact h_f _ _ hs

theorem openFrom_ordered {s : State} {a : Nat} {index : Option (List Byte)} {l : List Byte} (hs : s.Ordered) : (s.openFrom a index l).Ordered := by
  unfold openFrom
  extract_lets
  split
  · exact medAnswer_ordered hs
  · extract_lets s1
    have h_s1 : s1.Ordered := hs.of_eq
    exact medAnswer_ordered h_s1
  · exact hs

theorem openStream_ordered {s : State} {a : Nat} {index : Option (List Byte)} (hs : s.Ordered) : (s.openStream a index).Ordered :=
  medRequest_ordered hs (fun _ _ h1 => (openFrom_ordered h1))

theorem streamRequest_ordered {s : State} {a : Nat} {f : State → Nat → Stream → State} (hs : s.Ordered) (h_f : ∀ a0 a1 a2, a0.Ordered → (f a0 a1 a2).Ordered) : (s.streamRequest a f).Ordered := by
  unfold streamRequest
  refine medRequest_ordered hs ?_
  intro s1 a1 h1
  extract_lets
  split
  · exact medAnswer_ordered h1
  · exact medAnswer_ordered (h_f _ _ _ h1)
  · exact h1

theorem closeStream_ordered {s : State} {i : Nat} (hs : s.Ordered) : (s.closeStream i).Ordered :=
  hs.of_eq

theorem pauseStream_ordered {s : State} {i : Nat} {st : Stream} (hs : s.Ordered) : (s.pauseStream i st).Ordered := by
  unfold pauseStream
  split
  · exact hs.of_eq
  · exact hs

theorem resumeStream_ordered {s : State} {i : Nat} {st : Stream} (hs : s.Ordered) : (s.resumeStream i st).Ordered := by
  unfold resumeStream
  split
  · extract_lets s1
    have h_s1 : s1.Ordered := hs.of_eq
    split
    · exact raiseEv_ordered h_s1
    · exact h_s1
  · exact hs

theorem setStream_ordered {s : State} {i : Nat} {st : Stream} (hs : s.Ordered) : (s.setStream i st).Ordered :=
  hs.of_eq

theorem issueReads_ordered {s : State} {i fuel : Nat} (hs : s.Ordered) : (s.issueReads i fuel).Ordered := by
  induction fuel generalizing s with
  | zero => exact hs
  | succ fuel ih =>
    unfold issueReads
    split
    · exact hs
    · refine Ordered.ite hs ?_
      split
      · exact hs
      · split
        · exact ih (sendNet_ordered (setStream_ordered hs))
        · exact hs

theorem undefineWindow_ordered {s : State} {st : Stream} (hs : s.Ordered) : (s.undefineWindow st).Ordered := by
  unfold undefineWindow
  split
  · exact hs.of_eq
  · exact hs

theorem clipFetch_ordered {s : State} {i : Nat} {entry : List Byte} (hs : s.Ordered) : (s.clipFetch i entry).Ordered := by
  unfold clipFetch
  split
  · exact hs
  · split
    · exact hs
    · split
      · exact issueReads_ordered hs
      · split
        · exact setStream_ordered hs
        · extract_lets _ s0 _ _ _ _ _ _
          have h_s0 : s0.Ordered := sendNet_ordered hs
          split
          · exact setStream_ordered h_s0
          · split
            · exact issueReads_ordered (undefineWindow_ordered (setStream_ordered h_s0))
            · exact issueReads_ordered (setStream_ordered hs)

theorem reread_ordered {s : State} {i : Nat} {st : Stream} {k : Nat} {c : Clip} {reason : Nat} (hs : s.Ordered) : (s.reread i st k c reason).Ordered := by
  unfold reread
  extract_lets _ _ _ _ s1 s2
  have h_s1 : s1.Ordered := setStream_ordered hs
  have h_s2 : s2.Ordered := Ordered.ite (raiseEv_ordered h_s1) h_s1
  exact issueReads_ordered h_s2

theorem readComplete_ordered {s0 : State} {i place chunk result : Nat} {data : List Byte} (hs : s0.Ordered) : (s0.readComplete i place chunk result data).Ordered := by
  unfold readComplete
  split
  · exact hs
  · split
    · exact hs
    · split
      · exact hs
      · extract_lets s' _ _ _
        have h_s' : s'.Ordered := Ordered.ite hs (dataArrives_ordered hs)
        split
        · exact hs
        · split
          · exact reread_ordered h_s'
          · split
            · exact issueReads_ordered (setStream_ordered h_s')
            · split
              · exact issueReads_ordered (setStream_ordered h_s')
              · exact reread_ordered h_s'

theorem missingLimit_ordered {s : State} {i : Nat} (hs : s.Ordered) : (s.missingLimit i).Ordered := by
  unfold missingLimit
  split
  · exact hs
  · split
    · exact hs
    · split
      · exact hs
      · extract_lets _ _ s1 s2 s3 s4
        have h_s1 : s1.Ordered := post_ordered hs
        have h_s2 : s2.Ordered := setStream_ordered h_s1
        have h_s3 : s3.Ordered := raiseEv_ordered h_s2
        have h_s4 : s4.Ordered := Ordered.ite (logPut_ordered h_s3) h_s3
        exact issueReads_ordered h_s4

theorem serverLost_ordered {s : State} {i server : Nat} (hs : s.Ordered) : (s.serverLost i server).Ordered := by
  unfold serverLost
  extract_lets
  refine Ordered.foldl hs ?_
  intro s1 a1 h1
  split
  · exact h1
  · split
    · exact h1
    · split
      · exact reread_ordered h1
      · exact h1

theorem decodeStart_ordered {s : State} {i e : Nat} (hs : s.Ordered) : (s.decodeStart i e).Ordered := by
  unfold decodeStart
  split
  · exact hs
  · extract_lets
    split
    · exact hs
    · split
      · exact hs
      · split
        · exact hs
        · extract_lets
          exact setEngine_ordered (setStream_ordered hs)

theorem decodeEnd_ordered {s : State} {e : Nat} (hs : s.Ordered) : (s.decodeEnd e).Ordered := by
  unfold decodeEnd
  extract_lets _ s0
  have h_s0 : s0.Ordered := setEngine_ordered hs
  split
  · exact hs
  · split
    · exact h_s0
    · split
      · exact h_s0
      · split
        · exact h_s0
        · extract_lets _ _ _ _ _ s1 s2
          have h_s1 : s1.Ordered := setStream_ordered h_s0
          have h_s2 : s2.Ordered := Ordered.ite h_s1 (raiseEv_ordered h_s1)
          split
          · exact h_s2
          · exact raiseEv_ordered h_s2

theorem countBlock_ordered {s : State} {i : Nat} {st : Stream} {next : Nat} (hs : s.Ordered) : (s.countBlock i st next).Ordered := by
  unfold countBlock
  split
  · exact hs
  · split
    · exact raiseEv_ordered (setStream_ordered hs)
    · extract_lets s1 _ _ _
      have h_s1 : s1.Ordered := by
        unfold s1
        refine Ordered.foldl hs ?_
        intro s1 a1 h1
        split
        · exact setCtx_ordered h1
        · exact h1
      exact setStream_ordered h_s1

theorem reopenFaulted_ordered {s : State} {i : Nat} {st : Stream} (hs : s.Ordered) : (s.reopenFaulted i st).Ordered := by
  unfold reopenFaulted
  extract_lets _ _ _ _ _ s1 _
  have h_s1 : s1.Ordered := by
    unfold s1
    refine Ordered.foldl hs ?_
    intro s1 a1 h1
    extract_lets
    exact setCtx_ordered h1
  split
  · exact hs
  · exact setStream_ordered h_s1

theorem blockWrite_ordered {s : State} {i : Nat} (hs : s.Ordered) : (s.blockWrite i).Ordered := by
  unfold blockWrite
  split
  · exact hs
  · extract_lets
    split
    · exact hs
    · split
      · exact countBlock_ordered hs
      · split
        · exact reopenFaulted_ordered hs
        · split
          · exact hs
          · split
            · exact raiseEv_ordered (setStream_ordered hs)
            · split
              · exact setStream_ordered hs
              · split
                · exact hs
                · extract_lets
                  split
                  · exact hs
                  · exact countBlock_ordered (putBytes_ordered (setStream_ordered hs))

theorem shuffleReset_ordered {s : State} (hs : s.Ordered) : s.shuffleReset.Ordered :=
  hs.of_eq

theorem lowerGrant_ordered {s : State} {lvl g : Nat} (hs : s.Ordered) : (s.lowerGrant lvl g).Ordered := by
  unfold lowerGrant
  extract_lets
  split
  · exact hs
  · exact raiseEv_ordered (setGroup_ordered hs)

theorem demote_ordered {s : State} (hs : s.Ordered) : s.demote.Ordered :=
  Ordered.foldl hs (fun _ _ h1 => (Ordered.foldl h1 (fun _ _ h2 => (lowerGrant_ordered h2))))

theorem raiseGrant_ordered {s : State} {lvl g : Nat} (hs : s.Ordered) : (s.raiseGrant lvl g).Ordered := by
  unfold raiseGrant
  extract_lets
  split
  · exact setGroup_ordered hs
  · exact hs

theorem moveRails_ordered {s : State} (hs : s.Ordered) : s.moveRails.Ordered := by
  unfold moveRails
  refine Ordered.foldl hs ?_
  intro s1 a1 h1
  extract_lets
  exact setGroup_ordered h1

theorem evaluate_ordered {s : State} (hs : s.Ordered) : s.evaluate.Ordered := by
  unfold evaluate
  extract_lets s1 s2 s3 s4 s5
  have h_s1 : s1.Ordered := by
    unfold s1
    refine Ordered.foldl hs ?_
    intro s1 a1 h1
    extract_lets
    split
    · exact setGroup_ordered h1
    · exact h1
  have h_s2 : s2.Ordered := demote_ordered h_s1
  have h_s3 : s3.Ordered := Ordered.foldl h_s2 (fun _ _ h1 => (raiseGrant_ordered h1))
  have h_s4 : s4.Ordered := Ordered.ite h_s3 (Ordered.foldl h_s3 (fun _ _ h1 => (raiseGrant_ordered h1)))
  have h_s5 : s5.Ordered := Ordered.ite h_s4 (Ordered.foldl h_s4 (fun _ _ h1 => (raiseGrant_ordered h1)))
  exact moveRails_ordered h_s5

theorem telemetry_ordered {s : State} (hs : s.Ordered) : s.telemetry.Ordered := by
  unfold telemetry
  extract_lets w v a __src _ s1
  have h_w : w.2.Ordered := fresh_ordered hs
  have h_v : v.2.Ordered := fresh_ordered h_w
  have h_a : a.2.Ordered := fresh_ordered h_v
  have h___src : __src.Ordered := h_a
  have h_s1 : s1.Ordered := h___src.of_eq
  refine Ordered.foldl h_s1 ?_
  intro s1 a1 h1
  extract_lets _ p
  have h_p : p.2.Ordered := fresh_ordered h1
  split
  · exact h1
  · exact setDom_ordered h_p

theorem rampEnd_ordered {s : State} {g : Nat} (hs : s.Ordered) : (s.rampEnd g).Ordered := by
  unfold rampEnd
  extract_lets
  split
  · exact hs
  · refine Ordered.foldl (setGroup_ordered hs) ?_
    intro s1 a1 h1
    extract_lets
    split
    · exact h1
    · exact setDom_ordered h1

theorem overCap_ordered {s : State} {w : Nat} (hs : s.Ordered) : (s.overCap w).Ordered := by
  unfold overCap
  extract_lets _ s0
  have h_s0 : s0.Ordered := hs.of_eq
  split
  · exact h_s0
  · refine moveRails_ordered ?_
    refine Ordered.foldl_fst h_s0 ?_
    intro s1 a1 h1
    extract_lets
    split
    · exact setGroup_ordered h1
    · exact h1

theorem rateWindow_ordered {s : State} {k waves issued tj : Nat} (hs : s.Ordered) : (s.rateWindow k waves issued tj).Ordered := by
  unfold rateWindow
  extract_lets _ s1 s2
  have h_s1 : s1.Ordered := setQuad_ordered hs
  have h_s2 : s2.Ordered := by
    unfold s2
    refine Ordered.foldl h_s1 ?_
    intro s1 a1 h1
    extract_lets _ a b _ _
    have h_a : a.2.Ordered := fresh_ordered h1
    have h_b : b.2.Ordered := fresh_ordered h_a
    exact setRzLink_ordered h_b
  split
  · exact hs
  · exact moveRails_ordered (demote_ordered h_s2)

theorem lowerCeil_ordered {s : State} {g c : Nat} (hs : s.Ordered) : (s.lowerCeil g c).Ordered := by
  unfold lowerCeil
  extract_lets
  split
  · exact hs
  · exact raiseEv_ordered (setGroup_ordered hs)

theorem lowerCeils_ordered {s : State} {c : Nat} (hs : s.Ordered) : (s.lowerCeils c).Ordered :=
  Ordered.foldl hs (fun _ _ h1 => (lowerCeil_ordered h1))

theorem alert_ordered {s : State} (hs : s.Ordered) : s.alert.Ordered :=
  hs.of_eq

theorem loopPass_ordered {s : State} {tj th inlet outlet pos : Nat} (hs : s.Ordered) : (s.loopPass tj th inlet outlet pos).Ordered := by
  unfold loopPass
  extract_lets _ _ _ _ _ _ _ s1 s2
  have h_s1 : s1.Ordered := hs.of_eq
  have h_s2 : s2.Ordered := by
    unfold s2
    refine Ordered.foldl h_s1 ?_
    intro s1 a1 h1
    extract_lets t _
    have h_t : t.2.Ordered := fresh_ordered h1
    exact setStack_ordered h_t
  exact evaluate_ordered (Ordered.ite (lowerCeils_ordered h_s2) h_s2)

theorem hottestFalls_ordered {s : State} {k : Nat} (hs : s.Ordered) : (s.hottestFalls k).Ordered := by
  unfold hottestFalls
  split
  · exact evaluate_ordered (lowerCeil_ordered hs)
  · exact hs

theorem coolestRises_ordered {s : State} (hs : s.Ordered) : s.coolestRises.Ordered := by
  unfold coolestRises
  split
  · split
    · exact evaluate_ordered (setGroup_ordered hs)
    · exact hs
  · exact hs

theorem coolingFails_ordered {s : State} (hs : s.Ordered) : s.coolingFails.Ordered := by
  unfold coolingFails
  split
  · exact hs
  · exact evaluate_ordered (alert_ordered (raiseEv_ordered (lowerCeils_ordered (hs.of_eq))))

theorem coolingOver_ordered {s : State} (hs : s.Ordered) : s.coolingOver.Ordered := by
  unfold coolingOver
  split
  · exact hs.of_eq
  · exact hs

theorem junctionHot_ordered {s : State} {k tj : Nat} (hs : s.Ordered) : (s.junctionHot k tj).Ordered := by
  unfold junctionHot
  split
  · extract_lets _ _ s1
    have h_s1 : s1.Ordered := setGroup_ordered hs
    exact evaluate_ordered (raiseEv_ordered (lowerCeil_ordered h_s1))
  · exact hs

theorem hotOver_ordered {s : State} {g : Nat} (hs : s.Ordered) : (s.hotOver g).Ordered := by
  unfold hotOver
  extract_lets
  split
  · exact evaluate_ordered (setGroup_ordered hs)
  · exact hs

theorem setNet_ordered {s : State} {n : Net} (hs : s.Ordered) : (s.setNet n).Ordered :=
  hs.of_eq

theorem modMember_ordered {s : State} {m : Nat} {f : Member → Member} (hs : s.Ordered) : (s.modMember m f).Ordered :=
  setNet_ordered hs

theorem sendAll_ordered {s : State} {f : Nat → NetMsg} (hs : s.Ordered) : (s.sendAll f).Ordered :=
  Ordered.foldl hs (fun _ _ h1 => (sendNet_ordered h1))

theorem haltGroup_ordered {s : State} (hs : s.Ordered) : s.haltGroup.Ordered :=
  raiseEv_ordered (setNet_ordered hs)

theorem seeTerm_ordered {s : State} {term : Nat} (hs : s.Ordered) : (s.seeTerm term).Ordered := by
  unfold seeTerm
  split
  · exact hs
  · split
    · exact setNet_ordered hs
    · exact setNet_ordered hs

theorem withTerm_ordered {s : State} {term : Nat} {f : State → State} (hs : s.Ordered) (h_f : ∀ a0, a0.Ordered → (f a0).Ordered) : (s.withTerm term f).Ordered := by
  unfold withTerm
  split
  · exact hs
  · exact h_f _ (seeTerm_ordered hs)

theorem tell_ordered {s : State} {l : List GroupNotice} (hs : s.Ordered) : (s.tell l).Ordered :=
  sendAll_ordered hs

theorem startGroup_ordered {s : State} {self : Nat} {l : List Byte} (hs : s.Ordered) : (s.startGroup self l).Ordered := by
  unfold startGroup
  extract_lets _ _ _ s1 r
  have h_s1 : s1.Ordered := modMember_ordered (setNet_ordered hs)
  have h_r : r.2.Ordered := ownReport_ordered h_s1
  split
  · exact raiseEv_ordered (setNet_ordered hs)
  · split
    · exact h_s1
    · exact sendNet_ordered h_r

theorem newDeputy_ordered {s : State} {lost : Nat} (hs : s.Ordered) : (s.newDeputy lost).Ordered := by
  unfold newDeputy
  extract_lets
  split
  · exact hs
  · exact sendNet_ordered (setNet_ordered hs)

theorem firstRecord_ordered {s : State} (hs : s.Ordered) : s.firstRecord.Ordered :=
  sendNet_ordered (setNet_ordered (hs.of_eq))

theorem collFinish_ordered {s : State} {c : Nat} {x : Word} {st : Status} {word : Nat} (hs : s.Ordered) : (s.collFinish c x st word).Ordered := by
  unfold collFinish
  extract_lets _ s1 _ s2 s3 s4
  have h_s1 : s1.Ordered := post_ordered hs
  have h_s2 : s2.Ordered := setCtx_ordered h_s1
  have h_s3 : s3.Ordered := by
    unfold s3
    split
    · exact setCtx_ordered h_s2
    · exact h_s2
  have h_s4 : s4.Ordered := h_s3.of_eq
  split
  · exact raiseEv_ordered h_s4
  · exact h_s4

theorem stepBack_ordered {s : State} {c : Nat} (hs : s.Ordered) : (s.stepBack c).Ordered := by
  unfold stepBack
  extract_lets _ s1 _
  have h_s1 : s1.Ordered := idleArrays_ordered hs
  split
  · exact hs
  · extract_lets s2
    have h_s2 : s2.Ordered := setCtx_ordered h_s1
    exact Ordered.foldl h_s2 (fun _ _ h1 => (modChan_ordered h1))

theorem abandonCollectives_ordered {s : State} (hs : s.Ordered) : s.abandonCollectives.Ordered :=
  Ordered.foldl hs (fun _ _ h1 => (collFinish_ordered h1))

theorem restartStep_ordered {s : State} {r : StepRecord} (hs : s.Ordered) : (s.restartStep r).Ordered := by
  unfold restartStep
  extract_lets _ _ s1
  have h_s1 : s1.Ordered := Ordered.foldl (abandonCollectives_ordered hs) (fun _ _ h1 => (stepBack_ordered h1))
  split
  · exact h_s1.of_eq
  · exact h_s1

theorem rosterLog_ordered {s : State} {lost by_ : Nat} (hs : s.Ordered) : (s.rosterLog lost by_).Ordered :=
  logPut_ordered hs

theorem removeReplica_ordered {s : State} {x : Nat} (hs : s.Ordered) : (s.removeReplica x).Ordered :=
  setNet_ordered (hs.of_eq)

theorem restartRecord_ordered {s : State} (hs : s.Ordered) : s.restartRecord.Ordered := by
  unfold restartRecord
  split
  · extract_lets
    exact sendNet_ordered (restartStep_ordered (setNet_ordered hs))
  · exact hs

theorem sendPages_ordered {s : State} {heir : Nat} (hs : s.Ordered) : (s.sendPages heir).Ordered := by
  unfold sendPages
  split
  · exact Ordered.foldl hs (fun _ _ h1 => (sendNet_ordered h1))
  · exact hs

theorem takePlace_ordered {s : State} {heir : Nat} {x : Member} (hs : s.Ordered) : (s.takePlace heir x).Ordered := by
  unfold takePlace
  extract_lets s1
  have h_s1 : s1.Ordered := modMember_ordered hs
  split
  · exact sendPages_ordered h_s1
  · exact h_s1

theorem replaceMember_ordered {s : State} {r lost : Nat} {x : Member} (hs : s.Ordered) : (s.replaceMember r lost x).Ordered := by
  unfold replaceMember
  extract_lets _ s1 _
  have h_s1 : s1.Ordered := sendNet_ordered hs
  split
  · exact restartRecord_ordered h_s1
  · exact setNet_ordered h_s1

theorem settleLoss_ordered {s : State} {m : Nat} (hs : s.Ordered) : (s.settleLoss m).Ordered := by
  unfold settleLoss
  split
  · exact hs
  · extract_lets note go
    have h_note : ∀ a0 a1, a0.Ordered → (note a0 a1).Ordered := fun _ _ h1 => (setNet_ordered h1)
    have h_go : ∀ a0 a1, a0.Ordered → (go a0 a1).Ordered := by
      unfold go
      intro s1 a1 h1
      extract_lets _ s2
      have h_s2 : s2.Ordered := rosterLog_ordered (setNet_ordered h1)
      split
      · exact newDeputy_ordered h_s2
      · exact h_s2
    split
    · exact replaceMember_ordered (h_go _ _ (h_note _ _ (takePlace_ordered (modMember_ordered hs))))
    · split
      · exact haltGroup_ordered (tell_ordered hs)
      · exact restartRecord_ordered (h_go _ _ (h_note _ _ (removeReplica_ordered hs)))

theorem memberLost_ordered {s : State} {m : Nat} (hs : s.Ordered) : (s.memberLost m).Ordered := by
  unfold memberLost
  split
  · exact hs
  · split
    · exact hs
    · extract_lets s0 _ s1 _ s2 s3
      have h_s0 : s0.Ordered := abandonCollectives_ordered (raiseEv_ordered (modMember_ordered hs))
      have h_s1 : s1.Ordered := Ordered.ite (setNet_ordered h_s0) h_s0
      have h_s2 : s2.Ordered := setNet_ordered h_s1
      have h_s3 : s3.Ordered := newDeputy_ordered h_s2
      split
      · split
        · exact sendNet_ordered h_s3
        · exact h_s2
      · exact settleLoss_ordered h_s1

theorem settleLosses_ordered {fuel : Nat} {s : State} (hs : s.Ordered) : (settleLosses fuel s).Ordered := by
  induction fuel generalizing s with
  | zero => exact hs
  | succ fuel ih =>
    unfold settleLosses
    split
    · exact hs
    · exact ih (settleLoss_ordered (setNet_ordered hs))

theorem noteLost_ordered {s : State} {gen m : Nat} {heir : Option Nat} (hs : s.Ordered) : (s.noteLost gen m heir).Ordered := by
  unfold noteLost
  split
  · exact hs
  · split
    · exact hs
    · extract_lets s1 s2 _ s3
      have h_s1 : s1.Ordered := abandonCollectives_ordered (raiseEv_ordered (modMember_ordered hs))
      have h_s2 : s2.Ordered := by
        unfold s2
        split
        · exact takePlace_ordered h_s1
        · split
          · exact removeReplica_ordered h_s1
          · exact h_s1
      have h_s3 : s3.Ordered := setNet_ordered h_s2
      exact rosterLog_ordered h_s3

theorem takeNotices_ordered {s : State} {gen : Nat} {l : List GroupNotice} (hs : s.Ordered) : (s.takeNotices gen l).Ordered := by
  induction l generalizing s with
  | nil => exact hs
  | cons n l ih =>
    cases n with
    | lost m heir => exact ih (noteLost_ordered hs)
    | halts => exact ih (haltGroup_ordered hs)
    | restore n => exact ih (setNet_ordered hs)

theorem loseMissing_ordered {s : State} (hs : s.Ordered) : s.loseMissing.Ordered :=
  Ordered.foldl hs (fun _ _ h1 => (memberLost_ordered h1))

theorem formGroup_ordered {s : State} (hs : s.Ordered) : s.formGroup.Ordered := by
  unfold formGroup
  split
  · exact raiseEv_ordered (setNet_ordered hs)
  · extract_lets _ s1
    have h_s1 : s1.Ordered := loseMissing_ordered (setNet_ordered hs)
    split
    · exact firstRecord_ordered h_s1
    · exact h_s1

theorem hello_ordered {s0 : State} {h : HelloMsg} (hs : s0.Ordered) : (s0.hello h).Ordered := by
  unfold hello
  refine withTerm_ordered hs ?_
  intro s1 h1
  split
  · exact h1
  · split
    · exact h1
    · extract_lets _ _ s1' s2
      have h_s1' : s1'.Ordered := sendNet_ordered h1
      have h_s2 : s2.Ordered := modMember_ordered (acceptReport_ordered h_s1')
      split
      · split
        · exact formGroup_ordered h_s2
        · exact h_s2
      · exact h_s1'

theorem helloAnswer_ordered {s0 : State} {status term : Nat} (hs : s0.Ordered) : (s0.helloAnswer status term).Ordered := by
  unfold helloAnswer
  refine withTerm_ordered hs ?_
  intro s1 h1
  split
  · exact h1
  · split
    · exact modMember_ordered h1
    · extract_lets _ s1'
      have h_s1' : s1'.Ordered := setNet_ordered h1
      split
      · exact raiseEv_ordered h_s1'
      · exact h_s1'

theorem formationLimit_ordered {s : State} (hs : s.Ordered) : s.formationLimit.Ordered := by
  unfold formationLimit
  split
  · exact formGroup_ordered hs
  · exact hs

theorem tellPause_ordered {s : State} {m : Nat} (hs : s.Ordered) : (s.tellPause m).Ordered :=
  sendAll_ordered hs

theorem stepEndReport_ordered {s0 : State} {m : Nat} {step status : Word} {term : Nat} (hs : s0.Ordered) : (s0.stepEndReport m step status term).Ordered := by
  unfold stepEndReport
  refine withTerm_ordered hs ?_
  intro s1 h1
  split
  · exact h1
  · extract_lets _ _ s1' _ s2
    have h_s1' : s1'.Ordered := modMember_ordered h1
    have h_s2 : s2.Ordered := takeReport_ordered h_s1'
    split
    · split
      · exact restartRecord_ordered (setNet_ordered h_s1')
      · exact h_s1'
    · split
      · exact tellPause_ordered h_s2
      · exact h_s2

theorem takeRecord_ordered {s : State} {r : StepRecord} (hs : s.Ordered) : (s.takeRecord r).Ordered := by
  unfold takeRecord
  extract_lets _ s1 _
  have h_s1 : s1.Ordered := setNet_ordered hs
  exact Ordered.foldl (h_s1.of_eq) (fun _ _ h1 => (stepGateRelease_ordered h1))

theorem stepStartAck_ordered {s0 : State} {step : Word} {term : Nat} (hs : s0.Ordered) : (s0.stepStartAck step term).Ordered := by
  unfold stepStartAck
  refine withTerm_ordered hs ?_
  intro s1 h1
  split
  · split
    · extract_lets s1' _
      have h_s1' : s1'.Ordered := takeRecord_ordered (sendAll_ordered h1)
      exact settleLosses_ordered (setNet_ordered h_s1')
    · exact h1
  · exact h1

theorem stepStartRecord_ordered {s0 : State} {r : StepRecord} (hs : s0.Ordered) : (s0.stepStartRecord r).Ordered := by
  unfold stepStartRecord
  refine withTerm_ordered hs ?_
  intro s1 h1
  split
  · exact h1
  · extract_lets s1' s2 _
    have h_s1' : s1'.Ordered := Ordered.ite (sendNet_ordered h1) h1
    have h_s2 : s2.Ordered := takeNotices_ordered h_s1'
    split
    · exact h_s1'
    · split
      · exact h_s2
      · split
        · exact takeRecord_ordered (restartStep_ordered (setNet_ordered h_s2))
        · exact takeRecord_ordered h_s2

theorem heartbeatSend_ordered {s : State} (hs : s.Ordered) : s.heartbeatSend.Ordered := by
  unfold heartbeatSend
  split
  · exact hs
  · split
    · exact sendAll_ordered hs
    · extract_lets s1
      have h_s1 : s1.Ordered := sendNet_ordered hs
      split
      · exact h_s1
      · exact sendNet_ordered h_s1

theorem heartbeatReceive_ordered {s0 : State} {p term : Nat} (hs : s0.Ordered) : (s0.heartbeatReceive p term).Ordered := by
  unfold heartbeatReceive
  refine withTerm_ordered hs ?_
  intro s1 h1
  split
  · exact h1
  · extract_lets s1' _
    have h_s1' : s1'.Ordered := modMember_ordered (heard_ordered h1)
    exact formRecord_ordered (Ordered.ite (setNet_ordered h_s1') h_s1')

theorem takeOver_ordered {s : State} (hs : s.Ordered) : s.takeOver.Ordered := by
  unfold takeOver
  extract_lets _ _ _ s1
  have h_s1 : s1.Ordered := setNet_ordered hs
  split
  · split
    · exact sendAll_ordered h_s1
    · exact h_s1
  · exact hs

theorem missReport_ordered {s0 : State} {m term : Nat} (hs : s0.Ordered) : (s0.missReport m term).Ordered :=
  withTerm_ordered hs (fun _ h1 => (Ordered.ite h1 (takeOver_ordered (setNet_ordered h1))))

theorem peerMiss_ordered {s : State} {p : Nat} (hs : s.Ordered) : (s.peerMiss p).Ordered := by
  unfold peerMiss
  split
  · exact hs
  · split
    · exact hs
    · extract_lets s1 _
      have h_s1 : s1.Ordered := modMember_ordered hs
      split
      · split
        · exact setNet_ordered h_s1
        · exact memberLost_ordered h_s1
      · split
        · split
          · exact missReport_ordered h_s1
          · exact sendNet_ordered h_s1
        · exact h_s1

theorem takeoverArrives_ordered {s : State} {p term : Nat} (hs : s.Ordered) : (s.takeoverArrives p term).Ordered := by
  unfold takeoverArrives
  split
  · exact hs
  · extract_lets _ s1
    have h_s1 : s1.Ordered := sendNet_ordered (setNet_ordered hs)
    split
    · split
      · exact sendNet_ordered h_s1
      · exact h_s1
    · exact h_s1

theorem takeoverDone_ordered {s : State} (hs : s.Ordered) : s.takeoverDone.Ordered := by
  unfold takeoverDone
  extract_lets _ _ s1 s2 s3 _ s4
  have h_s1 : s1.Ordered := setNet_ordered hs
  have h_s2 : s2.Ordered := by
    unfold s2
    split
    · exact Ordered.foldl h_s1 (fun _ _ h1 => (sendNet_ordered h1))
    · exact h_s1
  have h_s3 : s3.Ordered := newDeputy_ordered h_s2
  have h_s4 : s4.Ordered := setNet_ordered h_s3
  exact formRecord_ordered (raiseEv_ordered (rosterLog_ordered h_s4))

theorem takeoverAnswer_ordered {s0 : State} {m term : Nat} {step : Word} (hs : s0.Ordered) : (s0.takeoverAnswer m term step).Ordered := by
  unfold takeoverAnswer
  refine withTerm_ordered hs ?_
  intro s1 h1
  split
  · exact h1
  · extract_lets _ s1' _
    have h_s1' : s1'.Ordered := setNet_ordered h1
    split
    · exact takeoverDone_ordered h_s1'
    · exact h_s1'

theorem failoverLimit_ordered {s : State} (hs : s.Ordered) : s.failoverLimit.Ordered := by
  unfold failoverLimit
  extract_lets
  split
  · exact haltGroup_ordered hs
  · exact hs

theorem pauseRequest_ordered {s0 : State} {m term : Nat} (hs : s0.Ordered) : (s0.pauseRequest m term).Ordered := by
  unfold pauseRequest
  refine withTerm_ordered hs ?_
  intro s1 h1
  extract_lets _ s1' _ s2
  have h_s1' : s1'.Ordered := modMember_ordered h1
  have h_s2 : s2.Ordered := setNet_ordered h_s1'
  split
  · exact h1
  · split
    · exact h1
    · split
      · split
        · exact tellPause_ordered h_s1'
        · exact h_s1'
      · split
        · exact h1
        · split
          · split
            · exact tellPause_ordered h_s2
            · exact h_s2
          · split
            · exact h1
            · exact reportAgain_ordered h1

theorem collStart_ordered {s : State} {c : Nat} {come : List (Nat × Nat × List Byte)} (hs : s.Ordered) : (s.collStart c come).Ordered := by
  unfold collStart
  extract_lets _ _ _ _ _ _ begin_ _ _ _ _
  have h_begin_ : ∀ a0, (begin_ a0).Ordered := fun _ => (hs.of_eq)
  split
  · exact hs
  · clear_value *
    split
    · exact h_begin_ _
    · extract_lets
      split
      · exact hs
      · split
        · exact h_begin_ _
        · split
          · exact hs
          · split
            · exact raiseEv_ordered (startTeardown_ordered hs)
            · split
              · exact hs
              · split
                · exact faultContext_ordered hs
                · exact sendNet_ordered (h_begin_ _)

theorem collComplete_ordered {s0 : State} {c : Nat} {inputs : List (Nat × List Byte)} {words : List Word} (hs : s0.Ordered) : (s0.collComplete c inputs words).Ordered := by
  unfold collComplete
  split
  · exact hs
  · extract_lets s' _ _
    have h_s' : s'.Ordered := Ordered.ite (Ordered.foldl hs (fun _ _ h1 => (dataArrives_ordered h1))) hs
    split
    · exact h_s'
    · split
      · split
        · exact h_s'
        · exact collFinish_ordered h_s'
      · exact collFinish_ordered h_s'
      · split
        · exact h_s'
        · extract_lets _ _ _ _ s1 s2 s3
          have h_s1 : s1.Ordered := setCtx_ordered h_s'
          have h_s2 : s2.Ordered := h_s1.of_eq
          have h_s3 : s3.Ordered := Ordered.ite h_s2 (putBytes_ordered h_s2)
          split
          · exact h_s3
          · exact collFinish_ordered h_s3

theorem setCkp_ordered {s : State} {k : Ckp} (hs : s.Ordered) : (s.setCkp k).Ordered :=
  hs.of_eq

theorem ckptRequest_ordered {s : State} (hs : s.Ordered) : s.ckptRequest.Ordered := by
  unfold ckptRequest
  split
  · exact setCkp_ordered hs
  · exact hs

theorem streamNext_ordered {s : State} {conn : Nat} (hs : s.Ordered) : (s.streamNext conn).Ordered := by
  unfold streamNext
  split
  · exact hs
  · extract_lets
    split
    · exact hs
    · split
      · exact hs
      · extract_lets _ _ _ s1 s2 _
        have h_s1 : s1.Ordered := Ordered.foldl hs (fun _ _ h1 => (setAttr_ordered h1))
        have h_s2 : s2.Ordered := Ordered.ite (heldRelease_ordered h_s1) h_s1
        split
        · exact ckptEnd_ordered hs
        · exact sendNet_ordered (setCkp_ordered h_s2)

theorem streamAll_ordered {s : State} (hs : s.Ordered) : s.streamAll.Ordered :=
  Ordered.foldl hs (fun _ _ h1 => (streamNext_ordered h1))

theorem capture_ordered {s : State} (hs : s.Ordered) : s.capture.Ordered := by
  unfold capture
  split
  · exact hs
  · extract_lets _ _ _ _ _ _ _ _ _ _ _ _ s1 _ _ s2 s3 s4 s5 _ s6
    have h_s1 : s1.Ordered := setCkp_ordered hs
    have h_s2 : s2.Ordered := setCkp_ordered h_s1
    have h_s3 : s3.Ordered := Ordered.foldl h_s2 (fun _ _ h1 => (Ordered.foldl h1 (fun _ _ h2 => (setAttr_ordered h2))))
    have h_s4 : s4.Ordered := ckptRecord_ordered h_s3
    have h_s5 : s5.Ordered := Ordered.foldl h_s4 (fun _ _ h1 => (setCtx_ordered h1))
    have h_s6 : s6.Ordered := setCkp_ordered h_s5
    split
    · exact hs
    · exact streamAll_ordered (Ordered.foldl h_s6 (fun _ _ h1 => (Ordered.foldl h1 (fun _ _ h2 => (layerGate_ordered h2)))))

theorem sendManifest_ordered {s : State} (hs : s.Ordered) : s.sendManifest.Ordered := by
  unfold sendManifest
  split
  · extract_lets _ r _
    have h_r : r.2.Ordered := signed_ordered hs
    exact sendNet_ordered (setCkp_ordered h_r)
  · exact hs

theorem shardAck_ordered {s : State} {conn : Nat} (hs : s.Ordered) : (s.shardAck conn).Ordered := by
  unfold shardAck
  split
  · split
    · exact hs
    · extract_lets _ _ _ s1
      have h_s1 : s1.Ordered := setCkp_ordered hs
      split
      · exact ckptEnd_ordered h_s1
      · exact sendManifest_ordered (streamNext_ordered h_s1)
  · exact hs

theorem shardNak_ordered {s : State} {conn : Nat} (hs : s.Ordered) : (s.shardNak conn).Ordered := by
  unfold shardNak
  split
  · split
    · exact hs
    · split
      · exact ckptEnd_ordered hs
      · exact sendNet_ordered (setCkp_ordered hs)
  · exact hs

theorem reportDurable_ordered {s : State} (hs : s.Ordered) : s.reportDurable.Ordered := by
  unfold reportDurable
  split
  · exact hs
  · exact sendNet_ordered hs

theorem manifestAck_ordered {s : State} (hs : s.Ordered) : s.manifestAck.Ordered := by
  unfold manifestAck
  split
  · exact hs
  · extract_lets free_ _ s1
    have h_free_ : ∀ a0, a0.Ordered → (free_ a0).Ordered := by
      unfold free_
      intro s1 h1
      split
      · exact clearWp_ordered (setCkp_ordered h1)
      · exact h1
    have h_s1 : s1.Ordered := h_free_ _ (setCkp_ordered hs)
    split
    · exact ckptRecord_ordered (h_free_ _ (setCkp_ordered hs))
    · exact reportDurable_ordered (raiseEv_ordered (ckptRecord_ordered (logRelease_ordered h_s1)))

theorem ckptLimit_ordered {s : State} (hs : s.Ordered) : s.ckptLimit.Ordered :=
  ckptEnd_ordered hs

theorem srvPut_ordered {s : State} {i : Nat} {x : Instance} {a : Nat} {l : List Byte} (hs : s.Ordered) : (s.srvPut i x a l).Ordered :=
  putBytes_ordered hs

theorem setInst_ordered {s : State} {i : Nat} {x : Instance} (hs : s.Ordered) : (s.setInst i x).Ordered :=
  hs.of_eq

theorem setReq_ordered {s : State} {i : Nat} {r : Request} (hs : s.Ordered) : (s.setReq i r).Ordered :=
  ⟨hs.domains, Rising.tput _ _ hs.requests⟩

theorem modInst_ordered {s : State} {i : Nat} {f : Instance → Instance} (hs : s.Ordered) : (s.modInst i f).Ordered :=
  hs.of_eq

theorem modReq_ordered {s : State} {i : Nat} {f : Request → Request} (hs : s.Ordered) : (s.modReq i f).Ordered :=
  ⟨hs.domains, hs.requests.tmod _ _⟩

theorem dropKept_ordered {s : State} {ring : Nat} (hs : s.Ordered) : (s.dropKept ring).Ordered :=
  Ordered.foldl hs (fun _ _ h1 => ⟨h1.domains, Rising.tdel _ h1.requests⟩)

theorem srvNote_ordered {s : State} {st : Status} (hs : s.Ordered) : (s.srvNote st).Ordered := by
  unfold srvNote
  split
  · exact hs
  · exact raiseEv_ordered hs

theorem srvAnswer_ordered {s : State} {a : Nat} {st : Status} {detail num handle : Nat} (hs : s.Ordered) : (s.srvAnswer a st detail num handle).Ordered :=
  srvNote_ordered (post_ordered hs)

theorem srvRequest_ordered {s : State} {a n done : Nat} {f : State → List Byte → State} (hs : s.Ordered) (h_f : ∀ a0 a1, a0.Ordered → (f a0 a1).Ordered) : (s.srvRequest a n done f).Ordered := by
  unfold srvRequest
  split
  · exact hs
  · split
    · exact srvAnswer_ordered hs
    · split
      · exact srvAnswer_ordered hs
      · exact h_f _ _ hs

theorem undefineBytes_ordered {s : State} {p a n : Nat} (hs : s.Ordered) : (s.undefineBytes p a n).Ordered :=
  hs.of_eq

theorem createInst_ordered {s : State} {a : Nat} (hs : s.Ordered) : (s.createInst a).Ordered := by
  unfold createInst
  refine srvRequest_ordered hs ?_
  intro s1 a1 h1
  extract_lets
  split
  · exact srvAnswer_ordered h1
  · exact srvAnswer_ordered (undefineBytes_ordered (setInst_ordered h1))
  · exact h1

theorem destroyInst_ordered {s : State} {a : Nat} (hs : s.Ordered) : (s.destroyInst a).Ordered := by
  unfold destroyInst
  refine srvRequest_ordered hs ?_
  intro s1 a1 h1
  extract_lets
  split
  · exact srvAnswer_ordered h1
  · exact srvAnswer_ordered (h1.of_eq)

theorem registerAdapter_ordered {s : State} {a : Nat} (hs : s.Ordered) : (s.registerAdapter a).Ordered := by
  unfold registerAdapter
  refine srvRequest_ordered hs ?_
  intro s1 a1 h1
  extract_lets
  split
  · exact srvAnswer_ordered h1
  · extract_lets s1'
    have h_s1' : s1'.Ordered := h1.of_eq
    exact srvAnswer_ordered (pinFrames_ordered h_s1')
  · exact h1

theorem releaseAdapter_ordered {s : State} {a : Nat} (hs : s.Ordered) : (s.releaseAdapter a).Ordered := by
  unfold releaseAdapter
  refine srvRequest_ordered hs ?_
  intro s1 a1 h1
  extract_lets
  split
  · exact srvAnswer_ordered h1
  · extract_lets s1' s2
    have h_s1' : s1'.Ordered := h1.of_eq
    have h_s2 : s2.Ordered := by
      unfold s2
      split
      · exact h_s1'
      · split
        · exact pinFrames_ordered (h_s1'.of_eq)
        · exact h_s1'
    exact srvAnswer_ordered h_s2
  · exact h1

theorem createRing_ordered {s : State} {a : Nat} (hs : s.Ordered) : (s.createRing a).Ordered := by
  unfold createRing
  refine srvRequest_ordered hs ?_
  intro s1 a1 h1
  extract_lets
  split
  · exact srvAnswer_ordered h1
  · extract_lets s1'
    have h_s1' : s1'.Ordered := h1.of_eq
    exact srvAnswer_ordered h_s1'
  · exact h1

theorem destroyRing_ordered {s : State} {a : Nat} (hs : s.Ordered) : (s.destroyRing a).Ordered := by
  unfold destroyRing
  refine srvRequest_ordered hs ?_
  intro s1 a1 h1
  extract_lets
  split
  · exact srvAnswer_ordered h1
  · extract_lets s1'
    have h_s1' : s1'.Ordered := dropKept_ordered h1
    exact srvAnswer_ordered (h_s1'.of_eq)
  · exact h1

theorem cancelReq_ordered {s : State} {a : Nat} (hs : s.Ordered) : (s.cancelReq a).Ordered := by
  unfold cancelReq
  refine srvRequest_ordered hs ?_
  intro s1 a1 h1
  extract_lets
  split
  · exact srvAnswer_ordered h1
  · exact srvAnswer_ordered (modReq_ordered h1)
  · exact h1

theorem poolCheck_ordered {s : State} {i : Nat} (hs : s.Ordered) : (s.poolCheck i).Ordered := by
  unfold poolCheck
  split
  · exact hs
  · extract_lets _ s1
    have h_s1 : s1.Ordered := setInst_ordered hs
    split
    · exact raiseEv_ordered h_s1
    · exact h_s1

theorem poolTake_ordered {s : State} {i : Nat} (hs : s.Ordered) : ∀ r, s.poolTake i = some r → r.2.Ordered := by
  intro r e
  unfold poolTake at e
  split at e
  · cases e
  · split at e
    · cases e; exact poolCheck_ordered (setInst_ordered hs)
    · dsimp only at e
      split at e
      · cases e; exact poolCheck_ordered hs.of_eq
      · cases e

theorem poolTakeN_ordered {s : State} {i n : Nat} (hs : s.Ordered) : ∀ r, s.poolTakeN i n = some r → r.2.Ordered := by
  induction n generalizing s with
  | zero => intro r e; cases e; exact hs
  | succ n ih =>
    intro r e
    unfold poolTakeN at e
    split at e
    next u t taken =>
      obtain ⟨x, hx, rfl⟩ := Option.map_eq_some_iff.mp e
      exact ih (poolTake_ordered hs _ taken) x hx
    · cases e

theorem unitGone_ordered {s : State} {i u : Nat} (hs : s.Ordered) : (s.unitGone i u).Ordered := by
  unfold unitGone
  split
  · exact hs.of_eq
  · exact modInst_ordered hs

theorem setProv_ordered {s : State} {x : Instance} {u : Nat} {on : Bool} (hs : s.Ordered) : (s.setProv x u on).Ordered := by
  unfold setProv
  extract_lets
  refine Ordered.foldl hs ?_
  intro s1 a1 h1
  split
  · exact setAttr_ordered h1
  · exact h1

theorem ringPost_ordered {s : State} {k a : Nat} {l : List Byte} (hs : s.Ordered) : (s.ringPost k a l).Ordered := by
  unfold ringPost
  split
  · exact hostWrites_ordered hs
  · exact post_ordered hs

theorem ringWrite_ordered {s : State} {k : Nat} {g : Ring} {a : Nat} {l : List Byte} (hs : s.Ordered) : (s.ringWrite k g a l).Ordered := by
  unfold ringWrite
  split
  · exact sendNet_ordered hs
  · exact ringPost_ordered hs

theorem ringPut_ordered {s : State} {k ty st flags value pos time : Nat} (hs : s.Ordered) : (s.ringPut k ty st flags value pos time).Ordered := by
  unfold ringPut
  split
  · exact hs
  · extract_lets _ _ _ s1
    have h_s1 : s1.Ordered := ringWrite_ordered hs
    exact h_s1.of_eq

theorem ringNotice_ordered {s : State} {r : Request} {st : Status} {value : Nat} (hs : s.Ordered) : (s.ringNotice r st value).Ordered := by
  unfold ringNotice
  split
  · exact ringPut_ordered hs
  · exact hs

theorem flushOut_ordered {s : State} {i fuel : Nat} (hs : s.Ordered) : (s.flushOut i fuel).1.Ordered := by
  induction fuel generalizing s with
  | zero => exact hs
  | succ fuel ih =>
    unfold flushOut
    split
    · exact hs
    · split
      · exact hs
      · split
        · exact ih (setReq_ordered (ringPut_ordered hs))
        · exact hs

theorem deliver_ordered {s : State} {i : Nat} (hs : s.Ordered) : (s.deliver i).Ordered := by
  unfold deliver
  split
  · exact hs
  · extract_lets f _ _
    have h_f : f.1.Ordered := flushOut_ordered hs
    split
    · exact h_f
    · extract_lets _ _ _ _ _ s2 _
      have h_s2 : s2.Ordered := setReq_ordered h_f
      exact modInst_ordered h_s2

theorem retireReq_ordered {s : State} {i : Nat} {st : Status} (hs : s.Ordered) : (s.retireReq i st).Ordered := by
  unfold retireReq
  split
  · exact hs
  · extract_lets _ fl s1 s2 s3 kept s4 s5
    have h_s1 : s1.Ordered := by
      unfold s1
      split
      · exact Ordered.ite hs (ringPut_ordered (ringPut_ordered hs))
      · exact hs
    have h_s3 : s3.Ordered := modInst_ordered (Ordered.foldl h_s1 fun _ _ h => unitGone_ordered h)
    have h_s4 : s4.Ordered := by
      refine ⟨h_s3.domains, ?_⟩
      change Rising (if kept then _ else _)
      split
      · exact h_s3.requests.tput _ _
      · exact h_s3.requests.tdel _
    exact Ordered.ite (raiseEv_ordered (poolCheck_ordered h_s4)) (poolCheck_ordered h_s4)

theorem boundaryTests_ordered {s : State} {i : Nat} (hs : s.Ordered) : (s.boundaryTests i).Ordered := by
  unfold boundaryTests
  refine Ordered.foldl hs ?_
  intro s1 a1 h1
  split
  · exact retireReq_ordered h1
  · extract_lets s1'
    have h_s1' : s1'.Ordered := deliver_ordered h1
    split
    · exact h_s1'
    · extract_lets
      split
      · exact retireReq_ordered h_s1'
      · split
        · exact retireReq_ordered h_s1'
        · split
          · exact retireReq_ordered h_s1'
          · exact setReq_ordered h_s1'

theorem submitAnswer_ordered {s : State} {a : Nat} {st : Status} {detail handle us : Nat} (hs : s.Ordered) : (s.submitAnswer a st detail handle us).Ordered :=
  srvNote_ordered (post_ordered hs)

theorem admitRequest_ordered {s : State} {i : Nat} (hs : s.Ordered) : (s.admitRequest i).Ordered := by
  unfold admitRequest
  split
  · exact hs
  next x _ =>
    refine Ordered.ite hs ?_
    extract_lets a l s0 p critical spec ring named adp toks bad hs' hit m life pt us want s1
    have h_s0 : s0.Ordered := setInst_ordered hs
    have answered : ∀ {st : Status} {d : Nat} {h : Nat} {u : Nat}, (s0.submitAnswer a st d h u).Ordered :=
      submitAnswer_ordered h_s0
    refine Ordered.ite answered (Ordered.ite answered (Ordered.ite answered (Ordered.ite answered (Ordered.ite answered
      (Ordered.ite answered ?_)))))
    split
    · exact answered
    · refine Ordered.ite answered ?_
      have h_s1 : s1.Ordered := Ordered.of_eq (s := s0) h_s0
      split
      · exact answered
      next taken =>
        have h_s2 := poolTakeN_ordered h_s1 _ taken
        extract_lets r s3 s4
        have h_s3 : s3.Ordered := modInst_ordered (setReq_ordered h_s2)
        clear_value s3
        exact submitAnswer_ordered (Ordered.of_eq (s := s3) h_s3)

theorem preemptReq_ordered {s : State} {k : Nat} (hs : s.Ordered) : (s.preemptReq k).Ordered := by
  unfold preemptReq
  split
  · exact hs
  · extract_lets
    exact raiseEv_ordered (ringNotice_ordered (setReq_ordered hs))

theorem stripReq_ordered {s : State} {k : Nat} (hs : s.Ordered) : (s.stripReq k).Ordered := by
  unfold stripReq
  split
  · exact hs
  · extract_lets _ s1 s2
    have h_s1 : s1.Ordered := Ordered.foldl hs (fun _ _ h1 => (unitGone_ordered h1))
    have h_s2 : s2.Ordered := modInst_ordered h_s1
    exact setReq_ordered h_s2

theorem unitFor_ordered {s : State} {k fuel : Nat} (hs : s.Ordered) : (s.unitFor k fuel).2.Ordered := by
  induction fuel generalizing s with
  | zero => exact hs
  | succ fuel ih =>
    unfold unitFor
    split
    · exact hs
    · split
      · exact setReq_ordered hs
      · split
        next x taken => exact poolTake_ordered hs x taken
        · split
          · dsimp only
            split
            · exact stripReq_ordered (preemptReq_ordered hs)
            · exact ih (stripReq_ordered (preemptReq_ordered hs))
          · exact hs

theorem listUnits_ordered {s : State} {k n : Nat} (hs : s.Ordered) : (s.listUnits k n).2.Ordered := by
  induction n generalizing s with
  | zero => exact hs
  | succ n ih =>
    unfold listUnits
    split
    next u t e => exact ih (modReq_ordered (Ordered.of_snd (unitFor_ordered hs) e))
    next t e => exact Ordered.of_snd (unitFor_ordered hs) e

theorem place_ordered {s : State} {x : Instance} {l : List StepSeq} {k : Nat} (hs : s.Ordered) : (s.place x l k).2.Ordered := by
  unfold place
  split
  · exact hs
  · extract_lets _ _ _ _ _ _ _ _ _ _ t _
    have h_t : t.2.Ordered := listUnits_ordered hs
    split
    · exact hs
    · split
      · exact hs
      · split
        · exact h_t
        · split
          · exact h_t
          · exact hs

theorem fillOne_ordered {st : State × List StepSeq} {i k : Nat} (h_st : st.1.Ordered) : (fillOne st i k).1.Ordered := by
  unfold fillOne
  extract_lets s' _
  have h_s' : s'.Ordered := h_st
  split
  · split
    · exact h_st
    · split
      · exact setReq_ordered h_s'
      · split
        · rename_i t4 e4
          have h_e4 := Ordered.of_snd (place_ordered h_s') e4
          extract_lets t1
          have h_t1 : t1.Ordered := modReq_ordered h_e4
          exact h_t1
        · rename_i t4 e4
          have h_e4 := Ordered.of_snd (place_ordered h_s') e4
          exact h_e4
  · exact h_st

theorem overload_ordered {s : State} {order : List Nat} {placed : List StepSeq} (hs : s.Ordered) : (s.overload order placed).Ordered := by
  unfold overload
  extract_lets _ s1 _
  have h_s1 : s1.Ordered := Ordered.foldl hs (fun _ _ h1 => (Ordered.ite (preemptReq_ordered h1) h1))
  refine Ordered.foldl h_s1 ?_
  intro s1 a1 h1
  split
  · exact h1
  · extract_lets
    split
    · exact h1
    · exact ringNotice_ordered (setReq_ordered h1)

theorem putLists_ordered {s : State} {i : Nat} {x : Instance} (hs : s.Ordered) : (s.putLists i x).Ordered := by
  unfold putLists
  refine Ordered.foldl hs ?_
  intro s1 a1 h1
  split
  · exact srvPut_ordered h1
  · exact h1

theorem issuePass_ordered {s : State} {i : Nat} (hs : s.Ordered) : (s.issuePass i).Ordered := by
  unfold issuePass
  split
  · exact hs
  · extract_lets _ _ _ _ s1 _ s2 _ s3
    have h_s1 : s1.Ordered := srvPut_ordered (putLists_ordered hs)
    have h_s2 : s2.Ordered := Ordered.foldl h_s1 (fun _ _ h1 => (fwWrite_ordered h1))
    have h_s3 : s3.Ordered := setInst_ordered h_s2
    exact ringDoorbell_ordered h_s3

theorem stepBoundary_ordered {s : State} {i : Nat} (hs : s.Ordered) : (s.stepBoundary i).Ordered := by
  unfold stepBoundary
  split
  · exact hs
  · split
    · exact hs
    · extract_lets s1 _ f s2 _ _
      have h_s1 : s1.Ordered := boundaryTests_ordered hs
      have h_f : f.1.Ordered := Ordered.foldl_fst h_s1 (fun _ _ h1 => (fillOne_ordered h1))
      have h_s2 : s2.Ordered := overload_ordered h_f
      split
      · exact h_s2
      · split
        · exact h_s2
        · extract_lets s3
          have h_s3 : s3.Ordered := Ordered.foldl h_s2 (fun _ _ h1 => (setProv_ordered h1))
          exact issuePass_ordered (setInst_ordered h_s3)

theorem publish_ordered {s : State} {k : Nat} (hs : s.Ordered) : (s.publish k).Ordered := by
  unfold publish
  split
  · exact hs
  · split
    · exact hs
    · split
      · exact hs
      · extract_lets
        refine Ordered.foldl hs ?_
        intro s1 a1 h1
        extract_lets
        split
        · exact h1
        · exact h1.of_eq

theorem trimUnits_ordered {s : State} {k : Nat} (hs : s.Ordered) : (s.trimUnits k).Ordered := by
  unfold trimUnits
  split
  · exact hs
  · extract_lets
    refine Ordered.foldl (setReq_ordered hs) ?_
    intro s1 a1 h1
    split
    · split
      · exact setReq_ordered h1
      · exact unitGone_ordered h1
    · exact h1

theorem takeOutputs_ordered {s : State} {q : StepSeq} {ys : List (Nat × Nat)} (hs : s.Ordered) : (s.takeOutputs q ys).Ordered := by
  unfold takeOutputs
  split
  · exact hs
  · extract_lets
    split
    · exact publish_ordered (setReq_ordered hs)
    · split
      · exact publish_ordered (setReq_ordered hs)
      · exact publish_ordered (trimUnits_ordered (setReq_ordered hs))

theorem newRecord_ordered {s : State} {i : Nat} (hs : s.Ordered) : (s.newRecord i).Ordered :=
  hs.of_eq

theorem repeatEntries_ordered {s : State} (hs : s.Ordered) : s.repeatEntries.Ordered :=
  Ordered.foldl hs (fun _ _ h1 => (Ordered.ite h1 (Ordered.foldl h1 (fun _ _ h2 => (ringWrite_ordered h2)))))

theorem stepEnds_ordered {s : State} {i : Nat} {x : Instance} (hs : s.Ordered) : (s.stepEnds i x).Ordered := by
  unfold stepEnds
  extract_lets _ s0 s1 _ _ s2
  have h_s0 : s0.Ordered := newRecord_ordered (Ordered.foldl hs (fun _ _ h1 => (setProv_ordered h1)))
  have h_s1 : s1.Ordered := by
    unfold s1
    refine Ordered.foldl h_s0 ?_
    intro s1 a1 h1
    extract_lets
    exact takeOutputs_ordered h1
  have h_s2 : s2.Ordered := modInst_ordered h_s1
  exact boundaryTests_ordered (poolCheck_ordered h_s2)

theorem passEnd_ordered {s : State} {i : Nat} (hs : s.Ordered) : (s.passEnd i).Ordered := by
  unfold passEnd
  split
  · exact hs
  · split
    · exact hs
    · split
      · extract_lets
        exact issuePass_ordered (setInst_ordered hs)
      · exact stepEnds_ordered hs

theorem dropStep_ordered {s : State} {i : Nat} {x : Instance} (hs : s.Ordered) : (s.dropStep i x).Ordered := by
  unfold dropStep
  extract_lets s1 s2
  have h_s1 : s1.Ordered := Ordered.foldl hs (fun _ _ h1 => (setProv_ordered h1))
  have h_s2 : s2.Ordered := Ordered.foldl h_s1 (fun _ _ h1 => (trimUnits_ordered h1))
  exact modInst_ordered h_s2

theorem repeatStep_ordered {s : State} {i : Nat} (hs : s.Ordered) : (s.repeatStep i).Ordered :=
  issuePass_ordered (modInst_ordered hs)

theorem serveTeardown_ordered {s : State} {c : Nat} {k : Context} (hs : s.Ordered) : (s.serveTeardown c k).Ordered := by
  unfold serveTeardown
  refine Ordered.foldl hs ?_
  intro s1 a1 h1
  extract_lets _ s1' _ _ _
  have h_s1' : s1'.Ordered := by
    unfold s1'
    split
    · exact dropStep_ordered h1
    · exact h1
  split
  · exact h1
  · split
    · exact Ordered.foldl h_s1' (fun _ _ h2 => (retireReq_ordered h2))
    · extract_lets s1'' s2
      have h_s1'' : s1''.Ordered := setCtx_ordered (h1.of_eq)
      have h_s2 : s2.Ordered := modInst_ordered h_s1''
      split
      · exact h_s2
      · split
        · exact h_s2
        · split
          · extract_lets s3
            have h_s3 : s3.Ordered := dropStep_ordered h_s2
            exact Ordered.foldl h_s3 (fun _ _ h2 => (retireReq_ordered h2))
          · exact raiseEv_ordered (repeatStep_ordered (modInst_ordered h_s2))

theorem serveReload_ordered {s : State} (hs : s.Ordered) : s.serveReload.Ordered :=
  raiseEv_ordered (Ordered.foldl (repeatEntries_ordered hs) (fun _ _ h1 => (Ordered.ite (repeatStep_ordered h1) h1)))

theorem ringFails_ordered {s : State} {k : Nat} (hs : s.Ordered) : (s.ringFails k).Ordered := by
  unfold ringFails
  split
  · exact hs
  · split
    · exact hs
    · extract_lets s1 s2
      have h_s1 : s1.Ordered := hs.of_eq
      have h_s2 : s2.Ordered := by
        unfold s2
        split
        · exact modReq_ordered h_s1
        · exact h_s1
      exact raiseEv_ordered h_s2

theorem openConnections_ordered {s : State} {i : Nat} (hs : s.Ordered) : (s.openConnections i).Ordered :=
  Ordered.foldl hs (fun _ _ h1 => (setQp_ordered h1))

theorem tryCandidate_ordered {s : State} {i : Nat} (hs : s.Ordered) : (s.tryCandidate i).Ordered := by
  unfold tryCandidate
  split
  · split
    · extract_lets r _
      have h_r : r.2.Ordered := ownReport_ordered (openConnections_ordered hs)
      exact sendNet_ordered (setCkp_ordered h_r)
    · exact hs
  · exact setCkp_ordered hs

theorem startMirror_ordered {s : State} (hs : s.Ordered) : s.startMirror.Ordered :=
  tryCandidate_ordered (setCkp_ordered hs)

theorem sessionLost_ordered {s : State} (hs : s.Ordered) : s.sessionLost.Ordered := by
  unfold sessionLost
  split
  · extract_lets _ s1 _
    have h_s1 : s1.Ordered := ckptEnd_ordered (raiseEv_ordered (setCkp_ordered hs))
    exact startMirror_ordered (setCkp_ordered h_s1)
  · exact hs

theorem flushAck_ordered {s : State} {lsn : Nat} (hs : s.Ordered) : (s.flushAck lsn).Ordered := by
  unfold flushAck
  split
  · exact setCkp_ordered hs
  · exact hs

theorem flushLate_ordered {s : State} (hs : s.Ordered) : s.flushLate.Ordered := by
  unfold flushLate
  split
  · exact sessionLost_ordered hs
  · exact hs

theorem closeSession_ordered {s : State} (hs : s.Ordered) : s.closeSession.Ordered := by
  unfold closeSession
  extract_lets s1 _
  have h_s1 : s1.Ordered := Ordered.ite (ckptEnd_ordered (sendNet_ordered hs)) hs
  exact setCkp_ordered h_s1

theorem reopenSession_ordered {s : State} (hs : s.Ordered) : s.reopenSession.Ordered :=
  startMirror_ordered (Ordered.ite (closeSession_ordered hs) hs)

theorem resendLog_ordered {s : State} (hs : s.Ordered) : s.resendLog.Ordered := by
  unfold resendLog
  split
  · exact hs
  · extract_lets _ _ s1 _
    have h_s1 : s1.Ordered := by
      unfold s1
      refine Ordered.foldl hs ?_
      intro s1 a1 h1
      extract_lets
      split
      · exact sendNet_ordered h1
      · exact sendNet_ordered h1
    exact setCkp_ordered h_s1

theorem helloMirror_ordered {s : State} {status feed handle : Nat} (hs : s.Ordered) : (s.helloMirror status feed handle).Ordered := by
  unfold helloMirror
  split
  · exact hs
  · split
    · extract_lets _ _ s1
      have h_s1 : s1.Ordered := setCkp_ordered hs
      exact resendLog_ordered (Ordered.ite (raiseEv_ordered h_s1) h_s1)
    · extract_lets _ _ s1
      have h_s1 : s1.Ordered := setCkp_ordered hs
      exact tryCandidate_ordered (Ordered.ite (raiseEv_ordered h_s1) h_s1)

theorem mirrorRetry_ordered {s : State} (hs : s.Ordered) : s.mirrorRetry.Ordered := by
  unfold mirrorRetry
  split
  · exact startMirror_ordered hs
  · exact hs

theorem connectionLost_ordered {s : State} {q : Nat} (hs : s.Ordered) : (s.connectionLost q).Ordered := by
  unfold connectionLost
  split
  · exact memberLost_ordered hs
  · split
    · exact serverLost_ordered (setQp_ordered hs)
    · split
      · exact ringFails_ordered hs
      · split
        · exact sessionLost_ordered hs
        · exact hs

theorem setServed_ordered {s : State} {i : Nat} {x : ServedSession} (hs : s.Ordered) : (s.setServed i x).Ordered :=
  setCkp_ordered hs

theorem undefineStore_ordered {s : State} {p first n : Nat} (hs : s.Ordered) : (s.undefineStore p first n).Ordered :=
  hs.of_eq

theorem mirrorHello_ordered {s : State} {h : MirrorHelloMsg} (hs : s.Ordered) : (s.mirrorHello h).Ordered := by
  unfold mirrorHello
  split
  · exact hs
  · extract_lets
    split
    · extract_lets _ s1
      have h_s1 : s1.Ordered := undefineStore_ordered (setServed_ordered (acceptReport_ordered (hs.of_eq)))
      exact sendNet_ordered h_s1
    · exact sendNet_ordered hs

theorem shardArrives_ordered {s : State} {v i : Nat} {data digest : List Byte} (hs : s.Ordered) : (s.shardArrives v i data digest).Ordered := by
  unfold shardArrives
  split
  · exact hs
  · split
    · exact hs
    · split
      · extract_lets
        exact sendNet_ordered (setServed_ordered hs)
      · exact sendNet_ordered hs

theorem manifestArrives_ordered {s : State} {v : Nat} {l : List Byte} (hs : s.Ordered) : (s.manifestArrives v l).Ordered := by
  unfold manifestArrives
  split
  · exact hs
  · extract_lets
    split
    · exact hs
    · exact sendNet_ordered (setServed_ordered hs)

theorem logArrives_ordered {s : State} {v : Nat} {l : List Byte} (hs : s.Ordered) : (s.logArrives v l).Ordered := by
  unfold logArrives
  split
  · exact hs
  · split
    · exact hs
    · exact sendNet_ordered (setServed_ordered hs)

theorem putSpans_ordered {s : State} {p : Nat} {r : List (Nat × Nat)} {l : List Byte} (hs : s.Ordered) :
    (s.putSpans p r l).Ordered := by
  induction r generalizing s l with
  | nil => exact hs
  | cons x r ih => exact ih (storeBytes_ordered hs)

theorem restoreCtx_ordered {s : State} {c : Nat} {img rec_ : List Byte} (hs : s.Ordered) : (s.restoreCtx c img rec_).Ordered := by
  unfold restoreCtx
  extract_lets _ s1 _ s2
  have h_s1 : s1.Ordered := storeBytes_ordered hs
  have h_s2 : s2.Ordered := setCtx_ordered h_s1
  exact Ordered.foldl h_s2 (fun _ _ h1 => (setQueue_ordered h1))

theorem takeStudent_ordered {s : State} {c old : Nat} (hs : s.Ordered) : (s.takeStudent c old).Ordered :=
  hs.of_eq

theorem realignCtx_ordered {s : State} {c : Nat} {entry : List Byte} (hs : s.Ordered) : (s.realignCtx c entry).Ordered := by
  unfold realignCtx
  extract_lets _ _ _ s1
  have h_s1 : s1.Ordered := Ordered.ite (realign_ordered (setCtx_ordered hs)) hs
  refine Ordered.foldl h_s1 ?_
  intro s1 a1 h1
  extract_lets
  split
  · exact realign_ordered (setCtx_ordered h1)
  · exact h1

theorem replayStreams_ordered {s : State} {p : Nat} {rec_ : List Byte} (hs : s.Ordered) : (s.replayStreams p rec_).Ordered := by
  unfold replayStreams
  refine Ordered.foldl hs ?_
  intro s1 a1 h1
  extract_lets
  exact setStream_ordered h1

theorem reopenChan_ordered {s : State} {i : Nat} {seq : Word} (hs : s.Ordered) : (s.reopenChan i seq).Ordered := by
  unfold reopenChan
  split
  · extract_lets _ s1
    have h_s1 : s1.Ordered := by
      unfold s1
      split
      · split
        · exact post_ordered hs
        · exact hs
      · exact hs
    exact modChan_ordered h_s1
  · exact hs

theorem rehandle_ordered {s : State} {j : Job} {old new : Nat} (hs : s.Ordered) : (s.rehandle j old new).Ordered := by
  unfold rehandle
  refine Ordered.foldl hs ?_
  intro s1 a1 h1
  extract_lets
  refine Ordered.foldl h1 ?_
  intro s2 a1 h2
  extract_lets
  split
  · exact post_ordered h2
  · exact h2

theorem reopenClosed_ordered {s : State} {old : Nat} {ch : Channel} {seq : Word} (hs : s.Ordered) : (s.reopenClosed old ch seq).Ordered := by
  unfold reopenClosed
  split
  · split
    · exact hs
    · extract_lets s1
      have h_s1 : s1.Ordered := setChan_ordered (hs.of_eq)
      exact rehandle_ordered h_s1
  · exact hs

theorem replayChans_ordered {s : State} {p : Nat} {rec_ : List Byte} (hs : s.Ordered) : (s.replayChans p rec_).Ordered := by
  unfold replayChans
  extract_lets s1
  have h_s1 : s1.Ordered := by
    unfold s1
    refine Ordered.foldl hs ?_
    intro s1 a1 h1
    extract_lets
    split
    · exact reopenChan_ordered h1
    · exact reopenClosed_ordered h1
  exact teachersBack_ordered h_s1

theorem replaySched_ordered {s : State} {rec_ : List Byte} (hs : s.Ordered) : (s.replaySched rec_).Ordered := by
  unfold replaySched
  refine Ordered.foldl hs ?_
  intro s1 a1 h1
  extract_lets
  split
  · exact setGroup_ordered h1
  · exact h1

theorem nameStep_ordered {s : State} {reports : List (Nat × List Nat)} {step : Nat} (hs : s.Ordered) : (s.nameStep reports step).Ordered := by
  unfold nameStep
  extract_lets _ s1
  have h_s1 : s1.Ordered := setNet_ordered hs
  split
  · exact tell_ordered h_s1
  · exact h_s1

theorem restoreOf_ordered {s : State} {a : Nat} {d : List Byte} {f : RestoreFetch} (hs : s.Ordered) : (s.restoreOf a d f).Ordered := by
  unfold restoreOf
  extract_lets _ _ _ _ fail _ _ s1 _ s2 _ _
  have h_fail : ∀ a0 a1, a0.Ordered → (fail a0 a1).Ordered := fun _ _ h1 => (restoreOver_ordered (undefineRegions_ordered h1))
  have h_s1 : s1.Ordered := by
    unfold s1
    refine Ordered.foldl (nameStep_ordered hs) ?_
    intro s1 a1 h1
    extract_lets
    split
    · exact storeBytes_ordered h1
    · exact h1
  have h_s2 : s2.Ordered := putSpans_ordered (putSpans_ordered h_s1)
  split
  · split
    · exact hs
    · exact post_ordered hs
  · split
    · exact h_fail _ _ hs
    · split
      · exact h_fail _ _ hs
      · split
        · exact h_fail _ _ hs
        · split
          · exact h_fail _ _ hs
          · extract_lets s3 s4 s5 s6 s7 _ _ _
            have h_s3 : s3.Ordered := Ordered.ite h_s2 (setCkp_ordered h_s2)
            have h_s4 : s4.Ordered := Ordered.ite h_s3 (Ordered.foldl h_s3 (fun _ _ h1 => (logStore_ordered h1)))
            have h_s5 : s5.Ordered := by
              unfold s5
              refine Ordered.foldl h_s4 ?_
              intro s1 a1 h1
              extract_lets
              exact takeStudent_ordered (restoreCtx_ordered h1)
            have h_s6 : s6.Ordered := replayChans_ordered (replayStreams_ordered (replaySched_ordered h_s5))
            have h_s7 : s7.Ordered := Ordered.foldl h_s6 (fun _ _ h1 => (realignCtx_ordered h1))
            clear_value *
            split
            · split
              · exact restoreOver_ordered h_s7
              · exact setCkp_ordered h_s7
            · exact restoreOver_ordered h_s7

theorem restore_ordered {s : State} {a : Nat} {f : RestoreFetch} (hs : s.Ordered) : (s.restore a f).Ordered := by
  unfold restore
  extract_lets _ s1
  have h_s1 : s1.Ordered := setCkp_ordered hs
  split
  · exact restoreOf_ordered (Ordered.ite h_s1 hs)
  · split
    · exact restoreOf_ordered h_s1
    · exact hs

theorem touchReg_ordered {s : State} {x1 : Reg} (hs : s.Ordered) : (s.touchReg x1).Ordered := by
  unfold touchReg
  split
  · exact hs.of_eq
  · exact modFault_ordered hs
  · exact hs

theorem readOne_ordered {s : State} {off size : Nat} (hs : s.Ordered) : (s.readOne off size).2.2.Ordered := by
  unfold readOne
  extract_lets
  split
  · exact hs
  · clear_value *
    split
    · exact hs
    · split
      · extract_lets
        exact hs
      · split
        · exact hs
        · extract_lets
          exact touchReg_ordered hs

theorem readWindow_ordered {s : State} {off size : Nat} (hs : s.Ordered) : (s.readWindow off size).2.2.Ordered := by
  unfold readWindow
  split
  · exact hs
  · split
    · exact readOne_ordered (readOne_ordered hs)
    · exact readOne_ordered hs

theorem updEnd_ordered {s : State} {st : Status} {detail : Nat} (hs : s.Ordered) : (s.updEnd st detail).Ordered := by
  unfold updEnd
  extract_lets
  split
  · exact hs
  · exact raiseEv_ordered (post_ordered (hs.of_eq))

theorem rollBack_ordered {s : State} {c : Nat} (hs : s.Ordered) : (s.rollBack c).Ordered := by
  unfold rollBack
  extract_lets _ _ s1 _
  have h_s1 : s1.Ordered := setCore_ordered hs
  exact updEnd_ordered (raiseEv_ordered (h_s1.of_eq))

theorem startDump_ordered {s : State} {fault scope : Nat} {doms : List Nat} (hs : s.Ordered) : (s.startDump fault scope doms).Ordered := by
  unfold startDump
  split
  · exact raiseEv_ordered hs
  · extract_lets
    exact modFault_ordered (hs.of_eq)

theorem autoDump_ordered {s : State} {fault d : Nat} (hs : s.Ordered) : (s.autoDump fault d).Ordered := by
  unfold autoDump
  split
  · exact startDump_ordered hs
  · exact hs

theorem probeLate_ordered {s : State} {d u : Nat} (hs : s.Ordered) : (s.probeLate d u).Ordered :=
  hs.of_eq

theorem dumpContext_ordered {s : State} {fault d u handle : Nat} (hs : s.Ordered) : (s.dumpContext fault d u handle).Ordered :=
  hs.of_eq

theorem finishDump_ordered {s : State} {b : Nat} (hs : s.Ordered) : (s.finishDump b).Ordered := by
  unfold finishDump
  split
  · exact hs
  · extract_lets
    exact raiseEv_ordered (hs.of_eq)

theorem dumpEnds_ordered {s : State} (hs : s.Ordered) : s.dumpEnds.Ordered := by
  unfold dumpEnds
  split
  · exact finishDump_ordered hs
  · exact hs

theorem exportDump_ordered {s : State} {b : Nat} (hs : s.Ordered) : (s.exportDump b).Ordered := by
  unfold exportDump
  split
  · split
    · exact post_ordered (hs.of_eq)
    · exact hs
  · exact hs

theorem answerOutstanding_ordered {s : State} {d : Nat} {mine : Nat → Bool} {out : Nat → Nat → Word → Bool} (hs : s.Ordered) : (s.answerOutstanding d mine out).1.Ordered :=
  Ordered.foldl hs (fun _ _ h1 => (answer_ordered (heldDrains_ordered h1)))

theorem linkDrop_ordered {s : State} (hs : s.Ordered) : s.linkDrop.Ordered := by
  unfold linkDrop
  extract_lets s1 _
  have h_s1 : s1.Ordered := Ordered.foldl hs (fun _ _ h1 => (answer_ordered h1))
  exact h_s1.of_eq

theorem clearEvents_ordered {s : State} {d : Nat} (hs : s.Ordered) : (s.clearEvents d).Ordered :=
  hs.of_eq

theorem clearQuad_ordered {s : State} {k : Nat} (hs : s.Ordered) : (s.clearQuad k).Ordered := by
  unfold clearQuad
  extract_lets _ _ s1 _
  have h_s1 : s1.Ordered := setQuad_ordered hs
  exact h_s1.of_eq

theorem cacheDrained_ordered {s : State} {n since : Nat} (hs : s.Ordered) : (s.cacheDrained n since).Ordered := by
  unfold cacheDrained
  extract_lets _ _ s1
  have h_s1 : s1.Ordered := hs.of_eq
  exact Ordered.foldl (writeBack_ordered h_s1) (fun _ _ h1 => (raiseEv_ordered (setAttr_ordered h1)))

theorem clearSram_ordered {s : State} {n : Nat} (hs : s.Ordered) : (s.clearSram n).Ordered := by
  unfold clearSram
  extract_lets _ s1 _ _ s2 _ _
  have h_s1 : s1.Ordered := Ordered.foldl hs (fun _ _ h1 => (answer_ordered h1))
  have h_s2 : s2.Ordered := h_s1.of_eq
  exact teachersBack_ordered (sliceReset_ordered (setStack_ordered h_s2))

theorem clearQueues_ordered {s : State} {n : Nat} (hs : s.Ordered) : (s.clearQueues n).Ordered := by
  unfold clearQueues
  refine Ordered.foldl hs ?_
  intro s1 a1 h1
  split
  · refine Ordered.foldl h1 ?_
    intro s2 a1 h2
    extract_lets _ s1' _
    have h_s1' : s1'.Ordered := by
      unfold s1'
      refine Ordered.foldl h2 ?_
      intro s3 a1 h3
      extract_lets t
      have h_t : t.Ordered := Ordered.ite h3 (putRecord_ordered h3)
      exact freeEngine_ordered (unbind_ordered h_t)
    split
    · exact h2
    · exact setQueue_ordered h_s1'
  · exact h1

theorem clearFabric_ordered {s : State} {n : Nat} (hs : s.Ordered) : (s.clearFabric n).Ordered := by
  unfold clearFabric
  extract_lets s1
  have h_s1 : s1.Ordered := hs.of_eq
  exact clearQueues_ordered h_s1

theorem clearMedia_ordered {s : State} {m : Nat} (hs : s.Ordered) : (s.clearMedia m).Ordered :=
  raiseEv_ordered (Ordered.foldl hs (fun _ _ h1 => (engineYield_ordered h1)))

theorem clearShuffle_ordered {s : State} (hs : s.Ordered) : s.clearShuffle.Ordered := by
  unfold clearShuffle
  extract_lets s1 _
  have h_s1 : s1.Ordered := shuffleReset_ordered hs
  exact h_s1.of_eq

theorem clearEdge_ordered {s : State} (hs : s.Ordered) : s.clearEdge.Ordered :=
  hs.of_eq

theorem clearHost_ordered {s : State} (hs : s.Ordered) : s.clearHost.Ordered := by
  unfold clearHost
  extract_lets s1 s2 _ _ _
  have h_s1 : s1.Ordered := Ordered.foldl (linkDrop_ordered hs) (fun _ _ h1 => (answer_ordered h1))
  have h_s2 : s2.Ordered := Ordered.foldl h_s1 (fun _ _ h1 => (post_ordered h1))
  exact h_s2.of_eq

theorem clearSupervisor_ordered {s : State} (hs : s.Ordered) : s.clearSupervisor.Ordered :=
  hs.of_eq

theorem clearDomain_ordered {s : State} {d : Nat} (hs : s.Ordered) : (s.clearDomain d).Ordered := by
  unfold clearDomain
  extract_lets s1 g x s2
  have h_s1 : s1.Ordered := clearEvents_ordered (testAbort_ordered hs)
  have h_s2 : s2.Ordered := setStack_ordered h_s1
  clear_value s2
  refine Ordered.ite ?group (Ordered.ite (Ordered.of_eq (s := s2) h_s2) ?rest)
  case group =>
    exact Ordered.ite (clearQuad_ordered h_s1) (Ordered.ite (clearSram_ordered h_s1) (Ordered.ite (clearFabric_ordered h_s1) h_s1))
  case rest =>
    exact Ordered.ite (clearShuffle_ordered h_s1) (Ordered.ite (clearMedia_ordered h_s1) (Ordered.ite (clearMedia_ordered h_s1)
      (Ordered.ite (clearEdge_ordered h_s1) (Ordered.ite (clearHost_ordered h_s1) (Ordered.ite (clearSupervisor_ordered h_s1)
        h_s1)))))

theorem losePower_ordered {s : State} {d : Nat} (hs : s.Ordered) : (s.losePower d).Ordered := by
  unfold losePower
  extract_lets s1 s2 _
  have h_s1 : s1.Ordered := clearDomain_ordered hs
  have h_s2 : s2.Ordered := Ordered.ite (h_s1.of_eq) h_s1
  exact setDom_ordered h_s2

theorem fenceDom_ordered {s : State} {d id level : Nat} {off : Bool} (hs : s.Ordered) : (s.fenceDom d id level off).Ordered := by
  unfold fenceDom
  extract_lets _ s1 s2 _ s2'
  have h_s1 : s1.Ordered := setDom_ordered hs
  have h_s2 : s2.Ordered := clearDomain_ordered h_s1
  have h_s2' : s2'.Ordered := sendCtl_ordered h_s1
  split
  · exact setDom_ordered h_s2
  · split
    · split
      · exact beginSave_ordered h_s2'
      · exact h_s2'
    · exact h_s2'

theorem recover_ordered {s : State} {r : FaultRecord} {d : Nat} {off : Bool} (hs : s.Ordered) : (s.recover r d off).Ordered := by
  unfold recover
  extract_lets o s1
  have h_o : o.1.Ordered := openFault_ordered hs
  have h_s1 : s1.Ordered := fenceDom_ordered h_o
  split
  · exact h_s1
  · exact autoDump_ordered h_s1

theorem hang_ordered {s : State} {d u cls : Nat} (hs : s.Ordered) : (s.hang d u cls).Ordered := by
  unfold hang
  split
  · exact hs
  · extract_lets _ _ tear note _ _ s1 _ s1'
    have h_tear : ∀ a0, a0.Ordered → (tear a0).Ordered := by
      unfold tear
      intro s1 h1
      clear_value *
      split
      · exact startTeardown_ordered h1
      · exact h1
    have h_note : ∀ a0, a0.Ordered → (note a0).Ordered := fun _ h1 => (Ordered.ite (setArr_ordered h1) h1)
    have h_s1 : s1.Ordered := raiseEv_ordered (recover_ordered (h_note _ (h_tear _ hs)))
    have h_s1' : s1'.Ordered := Ordered.ite (dumpContext_ordered (h_tear _ hs)) (h_tear _ hs)
    split
    · split
      · split
        · exact rollBack_ordered h_s1
        · exact h_s1
      · exact h_s1
    · exact raiseEv_ordered (modFault_ordered h_s1')
    · exact raiseEv_ordered (modFault_ordered h_s1')
    · exact hs

theorem requestReset_ordered {s : State} {d : Nat} {off : Bool} (hs : s.Ordered) : (s.requestReset d off).Ordered := by
  unfold requestReset
  split
  · exact hs
  · exact recover_ordered hs

theorem fenceNoticed_ordered {s : State} {d die : Nat} (hs : s.Ordered) : (s.fenceNoticed d die).Ordered := by
  unfold fenceNoticed
  extract_lets
  split
  · exact setDom_ordered hs
  · exact hs

theorem drainHolder_ordered {s : State} {k id : Nat} (hs : s.Ordered) : (s.drainHolder k id).Ordered := by
  unfold drainHolder
  split
  · exact hs
  · extract_lets _ s1 _ _ s1'
    have h_s1 : s1.Ordered := setCtx_ordered hs
    have h_s1' : s1'.Ordered := Ordered.ite (dumpContext_ordered hs) hs
    split
    · exact h_s1.of_eq
    · split
      · split
        · exact saveDone_ordered (finishDrains_ordered hs)
        · exact startTeardown_ordered (modFault_ordered h_s1')
      · exact hs

theorem tripDone_ordered {s : State} {d : Nat} (hs : s.Ordered) : (s.tripDone d).Ordered := by
  unfold tripDone
  extract_lets _ s1
  have h_s1 : s1.Ordered := alert_ordered (raiseEv_ordered hs)
  split
  · exact hs
  · split
    · exact raiseEv_ordered (Ordered.foldl h_s1 (fun _ _ h1 => (removeQuad_ordered h1)))
    · exact h_s1

theorem drainEnd_ordered {s : State} {d : Nat} (hs : s.Ordered) : (s.drainEnd d).Ordered := by
  unfold drainEnd
  extract_lets _ s1 _ a s2 s3 _ s3' _
  have h_s1 : s1.Ordered := Ordered.ite (drainHolder_ordered hs) hs
  have h_a : a.1.Ordered := answerOutstanding_ordered (Ordered.ite (cacheDrained_ordered h_s1) h_s1)
  have h_s2 : s2.Ordered := modFault_ordered h_a
  have h_s3 : s3.Ordered := tripDone_ordered (modFault_ordered (losePower_ordered h_s2))
  have h_s3' : s3'.Ordered := clearDomain_ordered h_s2
  split
  · exact hs
  · split
    · split
      · exact h_s3.of_eq
      · exact h_s3
    · split
      · exact h_s2
      · exact setDom_ordered h_s3'

theorem resetReady_ordered {s : State} {d : Nat} (hs : s.Ordered) : (s.resetReady d).Ordered := by
  unfold resetReady
  extract_lets _ s1 _
  have h_s1 : s1.Ordered := leaveReset_ordered hs
  split
  · exact hs
  · exact sendCtl_ordered (modFault_ordered (setDom_ordered h_s1))

theorem epochNoticed_ordered {s : State} {d die : Nat} (hs : s.Ordered) : (s.epochNoticed d die).Ordered := by
  unfold epochNoticed
  extract_lets _ s1 _
  have h_s1 : s1.Ordered := answerOutstanding_ordered hs
  split
  · exact setDom_ordered (h_s1.of_eq)
  · exact hs

theorem retireHung_ordered {s : State} {id : Nat} (hs : s.Ordered) : (s.retireHung id).Ordered := by
  unfold retireHung
  split
  · exact hs
  · split
    · extract_lets
      split
      · exact modFault_ordered (retire_ordered hs)
      · exact hs
    · exact hs

theorem warmEnds_ordered {s : State} (hs : s.Ordered) : s.warmEnds.Ordered := by
  unfold warmEnds
  split
  · exact hs.of_eq
  · exact hs

theorem fenceLift_ordered {s : State} {d : Nat} (hs : s.Ordered) : (s.fenceLift d).Ordered := by
  unfold fenceLift
  extract_lets _ s1 _ s2 s3 s4 _ s5
  have h_s1 : s1.Ordered := sendCtl_ordered (setDom_ordered hs)
  have h_s2 : s2.Ordered := Ordered.ite (Ordered.ite (h_s1.of_eq) h_s1) (Ordered.ite (warmEnds_ordered (retireHung_ordered (modFault_ordered h_s1))) h_s1)
  have h_s3 : s3.Ordered := placeDetours_ordered (Ordered.ite h_s2 (raiseEv_ordered h_s2))
  have h_s4 : s4.Ordered := Ordered.foldl h_s3 (fun _ _ h1 => (evalEvent_ordered h1))
  have h_s5 : s5.Ordered := by
    unfold s5
    split
    · exact h_s4.of_eq
    · exact h_s4
  split
  · exact hs
  · split
    · exact serveReload_ordered h_s5
    · split
      · exact resumeGroup_ordered h_s5
      · exact h_s5

theorem fenceCleared_ordered {s : State} {d : Nat} (hs : s.Ordered) : (s.fenceCleared d).Ordered := by
  unfold fenceCleared
  split
  · exact hs
  · extract_lets _ s1
    have h_s1 : s1.Ordered := by
      unfold s1
      refine Ordered.foldl hs ?_
      intro s1 a1 h1
      extract_lets t
      have h_t : t.Ordered := retry_ordered (modCmd_ordered h1)
      exact wake_ordered h_t
    exact h_s1.of_eq

theorem tornDown_ordered {s : State} {c : Nat} (hs : s.Ordered) : (s.tornDown c).Ordered := by
  unfold tornDown
  extract_lets _ _ s1
  have h_s1 : s1.Ordered := serveTeardown_ordered (tearDown_ordered (finishDrains_ordered hs))
  split
  · exact hs
  · exact Ordered.foldl h_s1 (fun _ _ h1 => (ctxAnswer_ordered h1))

theorem levelFails_ordered {s : State} {d old : Nat} (hs : s.Ordered) : (s.levelFails d old).Ordered := by
  unfold levelFails
  split
  · exact retireHung_ordered (modFault_ordered hs)
  · exact hs

theorem nextLevel_ordered {s : State} {level scope old d : Nat} (hs : s.Ordered) : (s.nextLevel level scope old d).1.Ordered := by
  unfold nextLevel
  extract_lets _ _ o
  have h_o : o.1.Ordered := openFault_ordered hs
  exact levelFails_ordered h_o

theorem overtaken_ordered {s : State} {d id : Nat} (hs : s.Ordered) : (s.overtaken d id).Ordered := by
  unfold overtaken
  split
  · exact hs
  · exact levelFails_ordered hs

theorem warmReset_ordered {s : State} {id : Nat} (hs : s.Ordered) : (s.warmReset id).Ordered := by
  unfold warmReset
  extract_lets _ sr s0 s1 _ s2
  have h_sr : sr.Ordered := Ordered.ite (Ordered.of_eq (s := s) hs) hs
  have h_s0 : s0.Ordered := testAbort_ordered (updEnd_ordered h_sr)
  have h_s1 : s1.Ordered := by
    refine Ordered.foldl h_s0 fun t p h => ?_
    dsimp only
    split
    · exact startTeardown_ordered h
    · exact startTeardown_ordered h
    · exact startTeardown_ordered h
    · exact setCtx_ordered h
    · exact h
  clear_value s1
  have h_s2 : s2.Ordered := Ordered.of_eq (s := s1) h_s1
  clear_value s2
  exact Ordered.foldl h_s2 fun t d h =>
    Ordered.ite (setDom_ordered h) (setDom_ordered (clearDomain_ordered (overtaken_ordered h)))

theorem oldLayout_ordered {s : State} {b : Batch} (hs : s.Ordered) : (s.oldLayout b).Ordered :=
  hs.of_eq

theorem fatal_ordered {s : State} {old : Nat} (hs : s.Ordered) : (s.fatal old).Ordered := by
  unfold fatal
  extract_lets _ s1 _ o __src _ s2 s3 s4 s5 s6 _
  have h_s1 : s1.Ordered := by
    unfold s1
    split
    · split
      · exact hs
      · exact raiseEv_ordered (headAnswer_ordered (Ordered.foldl (oldLayout_ordered hs) (fun _ _ h1 => (ptnAnswer_ordered h1))))
    · exact hs
  have h_o : o.1.Ordered := openFault_ordered (modFault_ordered h_s1)
  have h___src : __src.Ordered := h_o
  have h_s2 : s2.Ordered := alert_ordered (send_ordered (h___src.of_eq))
  have h_s3 : s3.Ordered := Ordered.foldl h_s2 (fun _ _ h1 => (setDom_ordered h1))
  have h_s4 : s4.Ordered := startDump_ordered h_s3
  have h_s5 : s5.Ordered := Ordered.foldl h_s4 (fun _ _ h1 => (Ordered.ite h1 (finishDump_ordered h1)))
  have h_s6 : s6.Ordered := raiseEv_ordered h_s5
  exact h_s6.of_eq

theorem levelTwo_ordered {s : State} {d : Nat} (hs : s.Ordered) : (s.levelTwo d).Ordered := by
  unfold levelTwo
  extract_lets _ _ n s1
  have h_n : n.1.Ordered := nextLevel_ordered hs
  have h_s1 : s1.Ordered := by
    unfold s1
    refine Ordered.foldl h_n ?_
    intro s1 a1 h1
    extract_lets s' _
    have h_s' : s'.Ordered := overtaken_ordered h1
    split
    · exact setDom_ordered h_s'
    · exact setDom_ordered h_s'
    · exact fenceDom_ordered h_s'
    · exact h_s'
  split
  · extract_lets s1'
    have h_s1' : s1'.Ordered := modFault_ordered h_n
    exact setDom_ordered h_s1'
  · exact autoDump_ordered h_s1

theorem escalate2_ordered {s : State} {d : Nat} (hs : s.Ordered) : (s.escalate2 d).Ordered := by
  unfold escalate2
  extract_lets _ s0 n
  have h_s0 : s0.Ordered := by
    unfold s0
    split
    · exact rollBack_ordered hs
    · exact hs
  have h_n : n.1.Ordered := nextLevel_ordered h_s0
  split
  · exact hs
  · split
    · exact fatal_ordered h_s0
    · split
      · exact raiseEv_ordered (autoDump_ordered (warmReset_ordered h_n))
      · exact raiseEv_ordered (levelTwo_ordered h_s0)

theorem parityError_ordered {s : State} {g : Nat} (hs : s.Ordered) : (s.parityError g).Ordered := by
  unfold parityError
  extract_lets
  split
  · exact hs
  · split
    · exact hang_ordered (setPc_ordered hs)
    · exact setPc_ordered hs

theorem detourLate_ordered {s : State} {l : Nat} (hs : s.Ordered) : (s.detourLate l).Ordered := by
  unfold detourLate
  extract_lets
  split
  · exact Ordered.foldl hs (fun _ _ h1 => (hang_ordered h1))
  · exact hs

theorem domResult_ordered {s : State} {d : Nat} {busy : Bool} {st : Status} (hs : s.Ordered) : (s.domResult d busy st).Ordered :=
  hs.of_eq

theorem groupReturns_ordered {s : State} {d : Nat} (hs : s.Ordered) : (s.groupReturns d).Ordered := by
  unfold groupReturns
  split
  · exact setGroup_ordered hs
  · exact hs

theorem domOn_ordered {s : State} {d : Nat} (hs : s.Ordered) : (s.domOn d).Ordered := by
  unfold domOn
  split
  · exact hs
  · split
    · exact hs.of_eq
    · split
      · exact domResult_ordered hs
      · split
        · exact domResult_ordered hs
        · split
          · exact domResult_ordered hs
          · exact domResult_ordered (switchOn_ordered (groupReturns_ordered hs))

theorem fenceOff_ordered {s : State} {d : Nat} (hs : s.Ordered) : (s.fenceOff d).Ordered :=
  recover_ordered hs

theorem domOff_ordered {s : State} {d : Nat} (hs : s.Ordered) : (s.domOff d).Ordered := by
  unfold domOff
  split
  · exact hs
  · split
    · exact hs.of_eq
    · split
      · exact domResult_ordered hs
      · split
        · exact domResult_ordered hs
        · split
          · exact domResult_ordered hs
          · exact domResult_ordered (fenceOff_ordered hs)

theorem autoOff_ordered {s : State} {d : Nat} (hs : s.Ordered) : (s.autoOff d).Ordered := by
  unfold autoOff
  split
  · exact fenceOff_ordered hs
  · exact hs

theorem tripDom_ordered {s : State} {d : Nat} (hs : s.Ordered) : (s.tripDom d).Ordered := by
  unfold tripDom
  extract_lets
  split
  · split
    · exact hs
    · exact fenceOff_ordered hs
  · exact setDom_ordered hs
  · exact losePower_ordered (overtaken_ordered hs)
  · exact hs

theorem trip_ordered {s : State} {g : Nat} (hs : s.Ordered) : (s.trip g).Ordered := by
  unfold trip
  extract_lets _ _ s1
  have h_s1 : s1.Ordered := setGroup_ordered hs
  split
  · exact hs
  · exact evaluate_ordered (tripDone_ordered (Ordered.foldl (lowerCeil_ordered h_s1) (fun _ _ h1 => (tripDom_ordered h1))))

theorem tripRestart_ordered {s : State} {g : Nat} (hs : s.Ordered) : (s.tripRestart g).Ordered := by
  unfold tripRestart
  extract_lets _ s1
  have h_s1 : s1.Ordered := setGroup_ordered hs
  split
  · exact evaluate_ordered (Ordered.foldl h_s1 (fun _ _ h1 => (powerStart_ordered h1)))
  · exact hs

theorem storeWear_ordered {s : State} (hs : s.Ordered) : s.storeWear.Ordered :=
  hs.of_eq

theorem inputLoss_ordered {s : State} (hs : s.Ordered) : s.inputLoss.Ordered := by
  unfold inputLoss
  split
  · exact hs
  · extract_lets _ _ s1 s2 _ _ s3 _
    have h_s1 : s1.Ordered := alert_ordered (raiseEv_ordered (hs.of_eq))
    have h_s2 : s2.Ordered := updEnd_ordered (testAbort_ordered (lowerCeils_ordered h_s1))
    have h_s3 : s3.Ordered := Ordered.ite (Ordered.ite (ckptEnd_ordered h_s2) (setCkp_ordered h_s2)) h_s2
    exact evaluate_ordered (logPut_ordered h_s3)

theorem holdStep_ordered {s : State} (hs : s.Ordered) : s.holdStep.Ordered := by
  unfold holdStep
  split
  · exact hs
  · extract_lets _ s1 _ _
    have h_s1 : s1.Ordered := Ordered.foldl (storeWear_ordered (writeBack_ordered hs)) (fun _ _ h1 => (losePower_ordered h1))
    exact h_s1.of_eq

theorem powerBack_ordered {s : State} {d : Nat} (hs : s.Ordered) : (s.powerBack d).Ordered := by
  unfold powerBack
  extract_lets s1
  have h_s1 : s1.Ordered := powerUp_ordered hs
  split
  · exact trainStack_ordered h_s1
  · exact h_s1

theorem inputReturn_ordered {s : State} (hs : s.Ordered) : s.inputReturn.Ordered := by
  unfold inputReturn
  extract_lets s1 _ s2 _ o s3
  have h_s1 : s1.Ordered := holdStep_ordered hs
  have h_s2 : s2.Ordered := Ordered.foldl h_s1 fun _ _ h => powerBack_ordered h
  have h_s3 : s3.Ordered := warmReset_ordered (openFault_ordered h_s2)
  clear_value s3 s1
  exact Ordered.ite hs (Ordered.ite (Ordered.of_eq (s := s1) h_s1) (raiseEv_ordered (Ordered.of_eq (s := s3) h_s3)))

theorem powerOnReset_ordered {s : State} (_ : s.Ordered) : s.powerOnReset.Ordered := by
  unfold powerOnReset
  extract_lets z _ _ _ _
  have h_z : z.Ordered := reset_ordered
  exact h_z.of_eq

theorem exhausted_ordered {s : State} (hs : s.Ordered) : s.exhausted.Ordered := by
  unfold exhausted
  split
  · exact powerOnReset_ordered (holdStep_ordered hs)
  · exact hs

theorem charged_ordered {s : State} {joules : Nat} {full : Bool} (hs : s.Ordered) : (s.charged joules full).Ordered := by
  unfold charged
  extract_lets _ _ s1
  have h_s1 : s1.Ordered := hs.of_eq
  exact evaluate_ordered (Ordered.ite (raiseEv_ordered h_s1) h_s1)

theorem stressed_ordered {s : State} {d tj : Nat} (hs : s.Ordered) : (s.stressed d tj).Ordered := by
  unfold stressed
  extract_lets
  split
  · exact hs
  · exact setDom_ordered hs

theorem eolHours_ordered {s : State} {h d dEol kSum kCount : Nat} (hs : s.Ordered) : (s.eolHours h d dEol kSum kCount).2.Ordered := by
  unfold eolHours
  split
  · exact hs
  · split
    · exact fresh_ordered hs
    · split
      · exact hs
      · exact hs

theorem measured_ordered {s : State} {d st fr : Nat} (hs : s.Ordered) : (s.measured d st fr).Ordered := by
  unfold measured
  extract_lets _ _ e s1 s2
  have h_e : e.2.Ordered := eolHours_ordered hs
  have h_s1 : s1.Ordered := setDom_ordered h_e
  have h_s2 : s2.Ordered := Ordered.ite (raiseEv_ordered h_s1) h_s1
  split
  · exact hs
  · split
    · exact raiseEv_ordered h_s2
    · exact h_s2

theorem idle_ordered {s : State} (hs : s.Ordered) : s.idle.Ordered :=
  holdStep_ordered (tickAll_ordered hs)

theorem setTherm_ordered {s : State} {v : Nat} (hs : s.Ordered) : (s.setTherm v).Ordered := by
  unfold setTherm
  extract_lets
  split
  · exact hs.of_eq
  · exact hs

theorem setCap_ordered {s : State} {v : Nat} (hs : s.Ordered) : (s.setCap v).Ordered := by
  unfold setCap
  extract_lets
  split
  · exact evaluate_ordered (hs.of_eq)
  · exact hs

theorem setPwrCfg_ordered {s : State} {v : Nat} (hs : s.Ordered) : (s.setPwrCfg v).Ordered :=
  hs.of_eq

theorem setWearCfg_ordered {s : State} {v : Nat} (hs : s.Ordered) : (s.setWearCfg v).Ordered :=
  hs.of_eq

theorem setWin_ordered {s : State} {c v : Nat} (hs : s.Ordered) : (s.setWin c v).Ordered := by
  unfold setWin
  extract_lets
  split
  · exact hs.of_eq
  · exact hs

theorem setRetire_ordered {s : State} {v : Nat} (hs : s.Ordered) : (s.setRetire v).Ordered := by
  unfold setRetire
  extract_lets
  split
  · exact hs.of_eq
  · exact hs

theorem setAllow_ordered {s : State} {v : Nat} (hs : s.Ordered) : (s.setAllow v).Ordered := by
  unfold setAllow
  split
  · exact hs
  · exact hs.of_eq

theorem applySettings_ordered {s : State} {m : List Byte} (hs : s.Ordered) : (s.applySettings m).Ordered := by
  unfold applySettings
  extract_lets s1 s2
  have h_s1 : s1.Ordered := by
    unfold s1
    split
    · exact setWearCfg_ordered (setPwrCfg_ordered (setCap_ordered (setTherm_ordered hs)))
    · exact hs
  have h_s2 : s2.Ordered := by
    unfold s2
    split
    · exact setRetire_ordered (Ordered.foldl h_s1 (fun _ _ h1 => (setWin_ordered h1)))
    · exact h_s1
  split
  · extract_lets s3 _
    have h_s3 : s3.Ordered := setAllow_ordered h_s2
    exact h_s3.of_eq
  · exact h_s2

theorem storeImages_ordered {s : State} {m : List Byte} (hs : s.Ordered) : (s.storeImages m).Ordered := by
  unfold storeImages
  refine Ordered.foldl hs ?_
  intro s1 a1 h1
  split
  · exact setCore_ordered h1
  · exact h1

theorem startDomains_ordered {s : State} (hs : s.Ordered) : s.startDomains.Ordered := by
  unfold startDomains
  extract_lets s1 s2
  have h_s1 : s1.Ordered := Ordered.foldl hs (fun _ _ h1 => (powerOn_ordered h1))
  have h_s2 : s2.Ordered := Ordered.foldl h_s1 (fun _ _ h1 => (setDom_ordered h1))
  exact h_s2.of_eq

theorem trainUnits_ordered {s : State} (hs : s.Ordered) : s.trainUnits.Ordered := by
  unfold trainUnits
  extract_lets s1 _ s2
  have h_s1 : s1.Ordered := Ordered.foldl hs (fun _ _ h1 => (trainStack_ordered h1))
  have h_s2 : s2.Ordered := Ordered.foldl h_s1 (fun _ _ h1 => (Ordered.ite (rzDown_ordered h1) (setRzLink_ordered h1)))
  exact h_s2.of_eq

theorem selfTestOne_ordered {s : State} {proc t : Nat} (hs : s.Ordered) : (s.selfTestOne proc t).Ordered := by
  unfold selfTestOne
  extract_lets
  split
  · exact hs
  · split
    · exact procEffect_ordered hs
    · exact retirePc_ordered hs
    · exact rzDown_ordered hs
    · exact hs

theorem selfTests_ordered {s : State} {m : List Byte} (hs : s.Ordered) : (s.selfTests m).Ordered := by
  unfold selfTests
  extract_lets _ s1
  have h_s1 : s1.Ordered := by
    unfold s1
    refine Ordered.foldl hs ?_
    intro s1 a1 h1
    extract_lets
    split
    · exact Ordered.foldl h1 (fun _ _ h2 => (selfTestOne_ordered h2))
    · exact h1
  exact h_s1.of_eq

theorem applyLayout_ordered {s : State} {m : List Byte} (hs : s.Ordered) : (s.applyLayout m).Ordered := by
  unfold applyLayout
  split
  · exact hs
  · extract_lets
    split
    · exact raiseEv_ordered hs
    · exact batchStep_ordered (decideBatch_ordered hs)

theorem startWork_ordered {s : State} {m : List Byte} (hs : s.Ordered) : (s.startWork m).Ordered := by
  unfold startWork
  extract_lets s1 _ s2 _ _ s3
  have h_s1 : s1.Ordered := by
    unfold s1
    split
    · exact startGroup_ordered hs
    · exact hs
  have h_s2 : s2.Ordered := by
    unfold s2
    split
    · exact startMirror_ordered (setCkp_ordered h_s1)
    · exact h_s1
  have h_s3 : s3.Ordered := h_s2.of_eq
  exact Ordered.foldl h_s3 (fun _ _ h1 => (Ordered.ite (sendNet_ordered h1) h1))

theorem bootFails_ordered {s : State} (hs : s.Ordered) : s.bootFails.Ordered := by
  unfold bootFails
  extract_lets s1 s2 _
  have h_s1 : s1.Ordered := powerUp_ordered hs
  have h_s2 : s2.Ordered := setCore_ordered h_s1
  exact alert_ordered (h_s2.of_eq)

theorem bootSlot_ordered {s : State} {b : Bool} (hs : s.Ordered) : (s.bootSlot b).Ordered := by
  unfold bootSlot
  extract_lets m _ s1 s2 _ s3 _ s4 r
  have h_s1 : s1.Ordered := hs.of_eq
  clear_value s1
  have h_s2 : s2.Ordered := trainUnits_ordered (startDomains_ordered (applySettings_ordered (storeImages_ordered h_s1)))
  clear_value s2
  have h_s3 : s3.Ordered := selfTests_ordered h_s2.of_eq
  clear_value s3
  have h_s4 : s4.Ordered := h_s3.of_eq
  clear_value s4
  have h_r : r.2.Ordered := fresh_ordered (applyLayout_ordered h_s4)
  clear_value r
  exact evaluate_ordered (startWork_ordered (Ordered.of_eq (s := r.2) h_r))

theorem powerOnBoot_ordered {s : State} (hs : s.Ordered) : s.powerOnBoot.Ordered := by
  unfold powerOnBoot
  split
  · exact hs
  · extract_lets s1 _ s2 _ s3
    have h_s1 : s1.Ordered := powerUp_ordered (powerUp_ordered hs)
    have h_s2 : s2.Ordered := h_s1.of_eq
    have h_s3 : s3.Ordered := h_s2.of_eq
    split
    · exact h_s2
    · split
      · exact bootSlot_ordered h_s3
      · exact bootFails_ordered h_s3

theorem autostart_ordered {s : State} {j : Nat} {graph : Option (List Byte)} (hs : s.Ordered) : (s.autostart j graph).Ordered := by
  unfold autostart
  split
  · exact hs
  · split
    · exact hs
    · split
      · split
        · extract_lets _ s1 s2
          have h_s1 : s1.Ordered := hs.of_eq
          have h_s2 : s2.Ordered := Ordered.foldl h_s1 (fun _ _ h1 => (createFrom_ordered h1))
          exact Ordered.foldl h_s2 (fun _ _ h1 => (openFrom_ordered h1))
        · exact raiseEv_ordered hs
      · exact raiseEv_ordered hs

theorem attAnswer_ordered {s : State} {a : Nat} {st : Status} {start : DWord} (hs : s.Ordered) : (s.attAnswer a st start).Ordered :=
  raiseEv_ordered (post_ordered hs)

theorem attRequest_ordered {s : State} {a : Nat} (hs : s.Ordered) : (s.attRequest a).Ordered := by
  unfold attRequest
  split
  · exact hs
  · extract_lets
    split
    · exact attAnswer_ordered hs
    · exact hs.of_eq

theorem attDone_ordered {s : State} (hs : s.Ordered) : s.attDone.Ordered := by
  unfold attDone
  split
  · exact hs
  · split
    · extract_lets r __src _
      have h_r : r.2.Ordered := ownReport_ordered hs
      have h___src : __src.Ordered := h_r
      exact attAnswer_ordered (post_ordered (h___src.of_eq))
    · exact hs

theorem endStores_ordered {s s0 : State} {x : At} {srcs : List Nat} {dst tiles : Nat} (hs : s.Ordered) (_ : s0.Ordered) : (s.endStores s0 x srcs dst tiles).Ordered := by
  unfold endStores
  extract_lets s1
  have h_s1 : s1.Ordered := Ordered.foldl hs (fun _ _ h1 => (setHalves_ordered (releaseSlots_ordered h1)))
  exact setHalves_ordered h_s1

theorem noteElt_ordered {s : State} {x : At} {tiles : Nat} (hs : s.Ordered) : (s.noteElt x tiles).Ordered :=
  Ordered.foldl hs (fun _ _ h1 => (setArr_ordered h1))

theorem noteEdge_ordered {s : State} {x : At} {m n waves : Nat} {free : Bool} (hs : s.Ordered) : (s.noteEdge x m n waves free).Ordered := by
  unfold noteEdge
  refine Ordered.foldl hs ?_
  intro s1 a1 h1
  extract_lets
  exact setQuad_ordered h1

theorem putExtent_ordered {s : State} {x : At} {idx : Word} {dst m n fmt slot : Nat} {val : Nat → Nat → Nat → Nat × Num} (hs : s.Ordered) : (s.putExtent x idx dst m n fmt slot val).Ordered := by
  unfold putExtent
  extract_lets _ _ s1 _ _
  have h_s1 : s1.Ordered := by
    unfold s1
    refine Ordered.foldl hs ?_
    intro s1 a1 h1
    extract_lets
    clear_value *
    split
    · exact putDest_ordered h1
    · exact putDest_ordered h1
  exact modCmd_ordered h_s1

theorem runEltwise_ordered {s : State} {idx : Word} {x : At} {p : Param} {slot : Nat} (hs : s.Ordered) : (s.runEltwise idx x p slot).Ordered := by
  unfold runEltwise
  extract_lets _ _ _ s0 _ _ _ _ s1 s2
  have h_s0 : s0.Ordered := takeDraws_ordered hs
  have h_s1 : s1.Ordered := putExtent_ordered h_s0
  have h_s2 : s2.Ordered := endStores_ordered h_s1 h_s0
  exact noteEdge_ordered (noteElt_ordered h_s2)

theorem runConvert_ordered {s : State} {idx : Word} {x : At} {p : Param} {slot : Nat} (hs : s.Ordered) : (s.runConvert idx x p slot).Ordered := by
  unfold runConvert
  extract_lets _ _ s0 _ _ _ _ _ s1
  have h_s0 : s0.Ordered := takeDraws_ordered hs
  have h_s1 : s1.Ordered := putExtent_ordered h_s0
  exact noteEdge_ordered (noteElt_ordered (endStores_ordered h_s1 h_s0))

theorem startEdge_ordered {s : State} {c q : Nat} {idx : Word} {x : At} {dst : Nat} {srcs : List Nat} {p : Param} {run : State → Nat → State} (hs : s.Ordered) (h_run : ∀ a0 a1, a0.Ordered → (run a0 a1).Ordered) : (s.startEdge c q idx x dst srcs p run).Ordered := by
  unfold startEdge
  extract_lets _ _ _ _ s1
  have h_s1 : s1.Ordered := Ordered.ite (edgeWaited_ordered hs) (edgeWaits_ordered hs)
  split
  · clear_value *
    split
    · refine withChan_ordered h_s1 ?_
      intro s1 h1
      extract_lets r
      have h_r : r.2.Ordered := fillSlot_ordered h1
      exact h_run _ _ h_r
    · exact h_run _ _ h_s1
  · exact h_s1

theorem runReduce_ordered {s : State} {c q : Nat} {idx : Word} {x : At} {p : Param} (hs : s.Ordered) : (s.runReduce c q idx x p).Ordered := by
  unfold runReduce
  extract_lets
  split
  · extract_lets s1 s2
    have h_s1 : s1.Ordered := Ordered.foldl hs (fun _ _ h1 => (putBytes_ordered h1))
    have h_s2 : s2.Ordered := setHalves_ordered (releaseSlots_ordered h_s1)
    exact modCmd_ordered h_s2
  · exact hs

theorem runTopGeneric_ordered {s : State} {c q : Nat} {idx : Word} {x : At} {p : Param} {d : Desc} (hs : s.Ordered) : (s.runTopGeneric c q idx x p d).Ordered := by
  unfold runTopGeneric
  extract_lets _ _ _ _ _ s1
  have h_s1 : s1.Ordered := Ordered.foldl hs (fun _ _ h1 => (putBytes_ordered h1))
  exact modCmd_ordered h_s1

theorem runTopSoft_ordered {s : State} {c q : Nat} {idx : Word} {x : At} {p : Param} {d : Desc} {i slot : Nat} (hs : s.Ordered) : (s.runTopSoft c q idx x p d i slot).Ordered := by
  unfold runTopSoft
  split
  · extract_lets _ _ _ _ _ _ s1 s1'
    have h_s1 : s1.Ordered := Ordered.ite hs (Ordered.foldl hs (fun _ _ h1 => (putRow_ordered h1)))
    have h_s1' : s1'.Ordered := by
      unfold s1'
      split
      · refine Ordered.foldl h_s1 ?_
        intro s1 a1 h1
        extract_lets
        exact h1.of_eq
      · exact h_s1
    exact modCmd_ordered h_s1'
  · exact hs

theorem updRefuse_ordered {s : State} {a : Nat} {st : Status} {detail : Nat} (hs : s.Ordered) : (s.updRefuse a st detail).Ordered :=
  raiseEv_ordered (post_ordered hs)

theorem eraseSlot_ordered {s : State} {b : Bool} (hs : s.Ordered) : (s.eraseSlot b).Ordered :=
  hs.of_eq

theorem writeSlot_ordered {s : State} {b : Bool} {l : List Byte} (hs : s.Ordered) : (s.writeSlot b l).Ordered :=
  hs.of_eq

theorem updNext_ordered {s : State} (hs : s.Ordered) : s.updNext.Ordered := by
  unfold updNext
  extract_lets
  split
  · split
    · extract_lets _ s1
      have h_s1 : s1.Ordered := post_ordered (hs.of_eq)
      split
      · exact sendNet_ordered h_s1
      · exact h_s1
    · exact hs.of_eq
  · split
    · exact eraseSlot_ordered (hs.of_eq)
    · exact updEnd_ordered hs

theorem updRequest_ordered {s : State} {a : Nat} (hs : s.Ordered) : (s.updRequest a).Ordered := by
  unfold updRequest
  split
  · exact hs
  · extract_lets
    split
    · exact updRefuse_ordered hs
    · split
      · exact updRefuse_ordered hs
      · split
        · exact updRefuse_ordered hs
        · exact updNext_ordered (hs.of_eq)

theorem updTurn_ordered {s : State} (hs : s.Ordered) : s.updTurn.Ordered := by
  unfold updTurn
  extract_lets
  split
  · exact hs
  · split
    · exact hs
    · split
      · exact updNext_ordered hs
      · split
        · exact hs
        · extract_lets _ s1 s2
          have h_s1 : s1.Ordered := setCore_ordered hs
          have h_s2 : s2.Ordered := h_s1.of_eq
          split
          · exact h_s2
          · exact requestReset_ordered h_s2

theorem updLate_ordered {s : State} (hs : s.Ordered) : s.updLate.Ordered := by
  unfold updLate
  split
  · exact resumeGroup_ordered (updEnd_ordered hs)
  · exact hs

theorem supervisorBack_ordered {s : State} (hs : s.Ordered) : s.supervisorBack.Ordered := by
  unfold supervisorBack
  split
  · extract_lets _ s1 _
    have h_s1 : s1.Ordered := setCore_ordered hs
    exact h_s1.of_eq
  · exact hs

theorem updWatched_ordered {s : State} (hs : s.Ordered) : s.updWatched.Ordered := by
  unfold updWatched
  split
  · exact hs
  · split
    · exact hs
    · exact updNext_ordered (hs.of_eq)

theorem commitSvn_ordered {s : State} (hs : s.Ordered) : s.commitSvn.Ordered := by
  unfold commitSvn
  extract_lets _ _ _ s1
  have h_s1 : s1.Ordered := hs.of_eq
  split
  · exact updEnd_ordered (Ordered.ite (raiseEv_ordered h_s1) h_s1)
  · exact updEnd_ordered hs

theorem persistEnd_ordered {s : State} {verified : Bool} (hs : s.Ordered) : (s.persistEnd verified).Ordered := by
  unfold persistEnd
  split
  · exact hs
  · extract_lets _ s1 _ s2
    have h_s1 : s1.Ordered := writeSlot_ordered hs
    have h_s2 : s2.Ordered := raiseEv_ordered (h_s1.of_eq)
    split
    · split
      · exact commitSvn_ordered h_s2
      · exact updEnd_ordered h_s2
    · exact updEnd_ordered hs

theorem writeEvent_ordered {s : State} {e v : Nat} (hs : s.Ordered) : (s.writeEvent e v).Ordered :=
  evalEvent_ordered (setEv_ordered hs)

theorem writeEnable_ordered {s : State} {e v : Nat} (hs : s.Ordered) : (s.writeEnable e v).Ordered :=
  evalEvent_ordered (setEv_ordered hs)

theorem holdoffEnds_ordered {s : State} {e : Nat} (hs : s.Ordered) : (s.holdoffEnds e).Ordered := by
  unfold holdoffEnds
  split
  · exact evalEvent_ordered (setEv_ordered hs)
  · exact hs

theorem plkRetrain_ordered {s : State} (hs : s.Ordered) : s.plkRetrain.Ordered := by
  unfold plkRetrain
  split
  · exact raiseEv_ordered (hs.of_eq)
  · exact hs

theorem took_ordered {s : State} (hs : s.Ordered) : s.took.2.Ordered :=
  hs

theorem request_ordered {s : State} {a n : Nat} {f : State → State} (hs : s.Ordered) (h_f : ∀ a0, a0.Ordered → (f a0).Ordered) : (s.request a n f).2.Ordered := by
  unfold request
  split
  · exact h_f _ hs
  · exact hs

theorem ptnRequest_ordered {s : State} {v : Nat} (hs : s.Ordered) : (s.ptnRequest v).2.Ordered := by
  unfold ptnRequest
  extract_lets
  split
  · split
    · exact layoutBatch_ordered hs
    · exact hs
  · exact request_ordered hs (fun _ h1 => (createCtx_ordered h1))
  · exact request_ordered hs (fun _ h1 => (destroyCtx_ordered h1))
  · exact request_ordered hs (fun _ h1 => (hotRequest_ordered h1))
  · exact request_ordered hs (fun _ h1 => (testRequest_ordered h1))
  · exact took_ordered hs

theorem sorWrite_ordered {s : State} {v : Nat} (hs : s.Ordered) : (s.sorWrite v).2.Ordered := by
  unfold sorWrite
  extract_lets
  split
  · exact request_ordered hs (fun _ h1 => (openJob_ordered h1))
  · exact request_ordered hs (fun _ h1 => (closeJob_ordered h1))
  · exact request_ordered hs (fun _ h1 => (openChannel_ordered h1))
  · exact request_ordered hs (fun _ h1 => (closeChannel_ordered h1))
  · exact took_ordered hs

theorem medWrite_ordered {s : State} {v : Nat} (hs : s.Ordered) : (s.medWrite v).2.Ordered := by
  unfold medWrite
  extract_lets
  split
  · exact request_ordered hs (fun _ h1 => (openStream_ordered (h1.of_eq)))
  · exact request_ordered hs (fun _ h1 => (streamRequest_ordered h1 (fun _ _ _ h2 => (closeStream_ordered h2))))
  · exact request_ordered hs (fun _ h1 => (streamRequest_ordered h1 (fun _ _ _ h2 => (pauseStream_ordered h2))))
  · exact request_ordered hs (fun _ h1 => (streamRequest_ordered h1 (fun _ _ _ h2 => (resumeStream_ordered h2))))
  · exact took_ordered hs

theorem srvWrite_ordered {s : State} {v : Nat} (hs : s.Ordered) : (s.srvWrite v).2.Ordered := by
  unfold srvWrite
  extract_lets
  split
  · exact request_ordered hs (fun _ h1 => (createInst_ordered h1))
  · exact request_ordered hs (fun _ h1 => (destroyInst_ordered h1))
  · exact request_ordered hs (fun _ h1 => (registerAdapter_ordered h1))
  · exact request_ordered hs (fun _ h1 => (releaseAdapter_ordered h1))
  · exact request_ordered hs (fun _ h1 => (createRing_ordered h1))
  · exact request_ordered hs (fun _ h1 => (destroyRing_ordered h1))
  · exact request_ordered hs (fun _ h1 => (cancelReq_ordered h1))
  · exact took_ordered hs

theorem ckpWrite_ordered {s : State} {v : Nat} (hs : s.Ordered) : (s.ckpWrite v).2.Ordered := by
  unfold ckpWrite
  extract_lets
  split
  · exact took_ordered (ckptRequest_ordered hs)
  · exact took_ordered (closeSession_ordered hs)
  · refine request_ordered hs ?_
    intro s1 h1
    extract_lets
    exact restore_ordered (h1.of_eq)
  · exact took_ordered (reopenSession_ordered hs)
  · exact took_ordered hs

theorem resetWrite_ordered {s : State} {v : Nat} (hs : s.Ordered) : (s.resetWrite v).2.Ordered := by
  unfold resetWrite
  extract_lets
  split
  · exact took_ordered hs
  · split
    · exact hs
    · exact took_ordered (requestReset_ordered hs)

theorem dumpNow_ordered {s : State} (hs : s.Ordered) : s.dumpNow.Ordered :=
  startDump_ordered hs

theorem addressed_ordered {s : State} {a : Nat} {f : State → State} (hs : s.Ordered) (h_f : ∀ a0, a0.Ordered → (f a0).Ordered) : (s.addressed a f).2.Ordered := by
  unfold addressed
  split
  · exact h_f _ hs
  · exact hs

theorem modNum_ordered {s : State} {ok : Context → Bool} {f : Context → Context} (hs : s.Ordered) : (s.modNum ok f).Ordered := by
  unfold modNum
  split
  · split
    · exact setCtx_ordered hs
    · exact hs
  · exact hs

theorem modIdleQueue_ordered {s : State} {f : Queue → Queue} (hs : s.Ordered) : (s.modIdleQueue f).Ordered := by
  unfold modIdleQueue
  split
  · split
    · exact setQueue_ordered hs
    · exact hs
  · exact hs

theorem modIdleRing_ordered {s : State} {f : Context → Context} (hs : s.Ordered) : (s.modIdleRing f).Ordered := by
  unfold modIdleRing
  split
  · extract_lets
    split
    · exact setCtx_ordered hs
    · exact hs
  · exact hs

theorem modCkp_ordered {s : State} {f : Ckp → Ckp} (hs : s.Ordered) : (s.modCkp f).Ordered := by
  unfold modCkp
  split
  · extract_lets s1 s2
    have h_s1 : s1.Ordered := Ordered.foldl hs (fun _ _ h1 => (setAttr_ordered h1))
    have h_s2 : s2.Ordered := setCkp_ordered h_s1
    exact Ordered.foldl h_s2 (fun _ _ h1 => (setAttr_ordered h1))
  · exact hs

theorem writeQCtl_ordered {s : State} {v : Nat} (hs : s.Ordered) : (s.writeQCtl v).Ordered := by
  unfold writeQCtl
  extract_lets s1
  have h_s1 : s1.Ordered := Ordered.ite (restartQueue_ordered hs) hs
  split
  · exact abortQueue_ordered h_s1
  · exact h_s1

theorem writeSched_ordered {s : State} {g v : Nat} (hs : s.Ordered) : (s.writeSched g v).2.Ordered :=
  addressed_ordered hs (fun _ h1 => (setGroup_ordered h1))


end Sys2Proof.Machine.State
end

section
/-! SUPPORT. The register writes and the link keep the two tables in order. -/

set_option Elab.async false

namespace Sys2Proof.Machine.State
theorem selPtnArb_ordered {s : State} {n : Nat} (hs : s.Ordered) :
    ({ s with sel := { s.sel with ptnArbCfg := n } } : State).Ordered :=
  hs.of_eq

theorem writeReg_ordered {s : State} {r : Reg} {v : Nat} (hs : s.Ordered) : (s.writeReg r v).2.Ordered := by
  cases r
  case ev => exact writeEvent_ordered hs
  case evEn => exact writeEnable_ordered hs
  case glbRzLink => exact setRzLink_ordered hs
  case ctxDb => exact ringDoorbell_ordered hs
  case numCfg => exact Ordered.ite_snd hs (took_ordered (modNum_ordered hs))
  case numSeed => exact took_ordered (modNum_ordered hs)
  case crTag => exact took_ordered (modIdleRing_ordered hs)
  case numLtab => exact addressed_ordered hs fun _ h => modNum_ordered h
  case qRing => exact Ordered.ite_snd (addressed_ordered hs fun _ h => modIdleQueue_ordered h) hs
  case qCring => exact Ordered.ite_snd (addressed_ordered hs fun _ h => modIdleQueue_ordered h) hs
  case crRing => exact Ordered.ite_snd (addressed_ordered hs fun _ h => modIdleRing_ordered h) hs
  case qCptr =>
    show State.Ordered (match s.selQueue with | some (c, q) => s.setQueue c q _ | none => s)
    split
    · exact setQueue_ordered hs
    · exact hs
  case qQuads =>
    delta writeReg
    dsimp only
    unfold took
    dsimp only
    split
    · exact Ordered.ite (modIdleQueue_ordered hs) hs
    · exact hs
  case ctxDesc =>
    refine Ordered.ite_snd (addressed_ordered hs fun t h => ?_) hs
    dsimp only
    split
    · exact Ordered.ite (setCtx_ordered h) h
    · exact h
  case ctxSync =>
    show State.Ordered (match s.selQ with | some c => s.setCtx c _ | none => s)
    split
    · exact setCtx_ordered hs
    · exact hs
  case crPtr =>
    show State.Ordered (match s.selCr with | some c => s.setCtx c _ | none => s)
    split
    · exact setCtx_ordered hs
    · exact hs
  case medSkip =>
    show State.Ordered (match s.selStream with | some (i, x) => { s with streams := _ } | none => s)
    split
    · exact hs.of_eq
    · exact hs
  case fltDumpReq =>
    show State.Ordered (match fld v 1 0 with | 1 => s.dumpNow | 2 => s.exportDump (fld v 3 2) | _ => s)
    split
    · exact dumpNow_ordered hs
    · exact exportDump_ordered hs
    · exact hs
  case qCtl => exact writeQCtl_ordered hs
  case ptnReq => exact ptnRequest_ordered hs
  case schedBase => exact writeSched_ordered hs
  case schedStat => exact setGroup_ordered hs
  case ptnArbCfg => exact Ordered.ite_snd hs (took_ordered (selPtnArb_ordered (rzThresholdTo_ordered hs)))
  case dmaArbCfg => exact Ordered.ite_snd hs (dmaThresholdTo_ordered hs)
  case arrEcc | arrOvf => exact setQuad_ordered hs
  case arrStat => exact setArr_ordered hs
  case sorReq => exact sorWrite_ordered hs
  case hbmEcc | hbmStarve | hbmWays => exact setStack_ordered hs
  case hbmArbCfg => exact Ordered.ite_snd hs (setStack_ordered hs)
  case attrReq => exact request_ordered hs fun _ h => attrRequest_ordered h
  case medReq => exact medWrite_ordered hs
  case srvReq => exact srvWrite_ordered hs
  case netPcp | mbrSel | crSel => exact setNet_ordered hs
  case netPort => exact setPort_ordered hs
  case ckpReq => exact ckpWrite_ordered hs
  case ckpCfg | ckpLog => exact Ordered.ite_snd hs (took_ordered (modCkp_ordered hs))
  case ckpReserve => exact took_ordered (modCkp_ordered hs)
  case ckpRegions => exact Ordered.ite_snd hs (addressed_ordered hs fun _ h => modCkp_ordered h)
  case ckpStore | ckpStoreRange => exact setCkp_ordered hs
  case fltWin => exact setWin_ordered hs
  case fltDom => exact setDom_ordered hs
  case fltResetReq => exact resetWrite_ordered hs
  case fltDumpDest => exact addressed_ordered hs fun _ h => h.of_eq
  case fltRetire => exact setRetire_ordered hs
  case pwrCap => exact setCap_ordered hs
  case pwrOp => exact took_ordered (evaluate_ordered (setGroup_ordered hs))
  case pwrTherm => exact setTherm_ordered hs
  case pwrDomReq => exact took_ordered (Ordered.ite (domOn_ordered hs) (domOff_ordered hs))
  case pwrCfg => exact setPwrCfg_ordered hs
  case pwrWear => exact setWearCfg_ordered hs
  case plkVer => exact setAllow_ordered hs
  case plkCtl => exact took_ordered (Ordered.ite (plkRetrain_ordered hs) hs)
  case secAtt => exact request_ordered (f := fun s => s.attRequest (v - v % 128)) hs fun _ h => attRequest_ordered h
  case updReq => exact request_ordered hs fun _ h => updRequest_ordered h
  case bootImg => exact setCore_ordered hs
  case numSel | qSel | ptnSel | ptnStarve | sorSel | dmaStarve | attrSel | medSel | srvSubmit | rqSel | fltRecSel | fltLogPtr
      | fltStale | plkErr | plkReject | plkIntr => exact hs.of_eq
  case glbRateWin | glbLtimeSel | schedCfg | plkRd => exact Ordered.ite_snd hs.of_eq hs
  case fltDumpCfg => exact Ordered.ite_snd hs hs.of_eq
  all_goals exact hs

theorem writeOne_ordered {s : State} {off size v : Nat} (hs : s.Ordered) : (s.writeOne off size v).2.Ordered := by
  unfold writeOne
  extract_lets
  split
  · exact hs
  · clear_value *
    split
    · exact hs
    · split
      · exact hs
      · split
        · exact hs
        · exact writeReg_ordered hs

theorem writeWindow_ordered {s : State} {off size v : Nat} (hs : s.Ordered) : (s.writeWindow off size v).2.Ordered := by
  unfold writeWindow
  split
  · exact hs
  · split
    · extract_lets a b
      have h_a : a.2.Ordered := writeOne_ordered hs
      have h_b : b.2.Ordered := writeOne_ordered h_a
      exact h_b
    · extract_lets a
      have h_a : a.2.Ordered := writeOne_ordered hs
      exact h_a

theorem hostWrite_ordered {s : State} {event : Bool} {off v : Nat} (hs : s.Ordered) : (s.hostWrite event off v).Ordered := by
  unfold hostWrite
  split
  · extract_lets
    split
    · exact writeOne_ordered hs
    · exact hs
  · exact hs

theorem modReset_ordered {s : State} {heldUs : Nat} (hs : s.Ordered) : (s.modReset heldUs).Ordered := by
  unfold modReset
  split
  · exact hs
  · exact powerOnReset_ordered hs

theorem clearFaults_ordered {s : State} (hs : s.Ordered) : s.clearFaults.Ordered :=
  hs.of_eq

theorem answerWord_ordered {s : State} {w : Nat} (hs : s.Ordered) : (s.answerWord w).Ordered :=
  emit_ordered hs

theorem statusAnswer_ordered {s : State} (hs : s.Ordered) : s.statusAnswer.Ordered := by
  unfold statusAnswer
  extract_lets f
  have h_f : f.2.Ordered := fresh_ordered hs
  exact answerWord_ordered h_f

theorem reading_ordered {s : State} {num den : Nat} (hs : s.Ordered) : (s.reading num den).Ordered :=
  answerWord_ordered hs

theorem sideRead_ordered {s : State} {off : Nat} (hs : s.Ordered) : (s.sideRead off).Ordered :=
  Ordered.ite (Ordered.ite (emit_ordered (readWindow_ordered hs)) (emit_ordered hs)) (emit_ordered hs)

theorem flashAccess_ordered {s : State} {op a : Nat} {l : List Byte} (hs : s.Ordered) : (s.flashAccess op a l).Ordered := by
  unfold flashAccess
  split
  · exact emit_ordered hs
  · split
    · exact emit_ordered hs
    · extract_lets
      exact emit_ordered (hs.of_eq)
    · exact emit_ordered (hs.of_eq)
    · exact emit_ordered hs

theorem freed_ordered {s : State} {cls n : Nat} (hs : s.Ordered) : (s.freed cls n).Ordered :=
  emitFlits_ordered hs

theorem malformed_ordered {s : State} {np : Bool} {tag : Nat} (hs : s.Ordered) : (s.malformed np tag).Ordered :=
  raiseEv_ordered (Ordered.ite (send_ordered hs) hs)

theorem reject_ordered {s : State} {off : Option Nat} {st : Status} {addr : Nat} (hs : s.Ordered) : (s.reject off st addr).Ordered := by
  unfold reject
  extract_lets o _ _ _ __src
  have h_o : o.2.Ordered := by
    unfold o
    split
    · exact hs
    · exact fresh_ordered hs
  have h___src : __src.Ordered := h_o
  exact raiseEv_ordered (h___src.of_eq)

theorem rejectAll_ordered {s : State} {l : List (Nat × Status)} (hs : s.Ordered) : (s.rejectAll l).Ordered :=
  Ordered.foldl hs (fun _ _ h1 => (Ordered.ite h1 (reject_ordered h1)))

theorem regWr_ordered {s : State} {off size v : Nat} (hs : s.Ordered) : (s.regWr off size v).Ordered := by
  unfold regWr
  split
  · exact malformed_ordered hs
  · split
    · exact reject_ordered hs
    · extract_lets o
      have h_o : o.2.Ordered := writeWindow_ordered hs
      exact rejectAll_ordered h_o

theorem regWra_ordered {s : State} {tag off size v : Nat} (hs : s.Ordered) : (s.regWra tag off size v).Ordered := by
  unfold regWra
  split
  · exact malformed_ordered hs
  · split
    · exact send_ordered hs
    · extract_lets o
      have h_o : o.2.Ordered := writeWindow_ordered hs
      exact send_ordered h_o

theorem regRd_ordered {s : State} {tag off size : Nat} (hs : s.Ordered) : (s.regRd tag off size).Ordered :=
  Ordered.ite hs (Ordered.ite (malformed_ordered hs) (Ordered.ite (send_ordered hs) (send_ordered (readWindow_ordered hs))))

theorem memWake_ordered {s : State} {a n : Nat} (hs : s.Ordered) : (s.memWake a n).Ordered :=
  wake_ordered hs

theorem memWr_ordered {s : State} {a : Nat} {l : List Byte} (hs : s.Ordered) : (s.memWr a l).Ordered := by
  unfold memWr
  split
  · exact malformed_ordered hs
  · split
    · exact putBytes_ordered (memWake_ordered hs)
    · exact reject_ordered hs

theorem memRd_ordered {s : State} {tag a n : Nat} (hs : s.Ordered) : (s.memRd tag a n).Ordered := by
  unfold memRd
  split
  · exact malformed_ordered hs
  · split
    · exact send_ordered (memWake_ordered hs)
    · exact send_ordered hs

theorem timePong_ordered {s : State} {t1 h2 h3 : DWord} (hs : s.Ordered) : (s.timePong t1 h2 h3).Ordered := by
  unfold timePong
  split
  · exact hs
  · extract_lets
    exact hs.of_eq

theorem message_ordered {s : State} {h : Nat} {slots : List QWord} (hs : s.Ordered) : (s.message h slots).Ordered := by
  unfold message
  extract_lets
  split
  · exact hs
  · split
    · exact hs
    · exact freed_ordered (Ordered.ite (regWr_ordered hs) (malformed_ordered hs))
    · exact freed_ordered (Ordered.ite (regWra_ordered hs) (malformed_ordered hs))
    · exact freed_ordered (Ordered.ite (regRd_ordered hs) (malformed_ordered hs))
    · exact freed_ordered (Ordered.ite (memWr_ordered hs) (malformed_ordered hs))
    · exact freed_ordered (Ordered.ite (memRd_ordered hs) (malformed_ordered hs))
    · split
      · exact cplTaken_ordered hs
      · exact malformed_ordered hs
    · exact freed_ordered (Ordered.ite (timePong_ordered hs) (malformed_ordered hs))
    · exact malformed_ordered hs

theorem messages_ordered {s : State} {fuel : Nat} (hs : s.Ordered) : (s.messages fuel).Ordered := by
  induction fuel generalizing s with
  | zero => exact hs
  | succ fuel ih =>
    unfold messages
    split
    · exact hs
    · exact Ordered.ite hs (ih (message_ordered hs.of_eq))

theorem plkAck_ordered {s : State} {ack : Nat} (hs : s.Ordered) : (s.plkAck ack).Ordered := by
  unfold plkAck
  extract_lets
  split
  · exact hs
  · exact hs.of_eq

theorem plkReplay_ordered {s : State} (hs : s.Ordered) : s.plkReplay.Ordered := by
  unfold plkReplay
  split
  · exact hs
  · split
    · exact plkRetrain_ordered hs
    · exact emitFlits_ordered (hs.of_eq)

theorem plkCredit_ordered {s : State} {cls n : Nat} (hs : s.Ordered) : (s.plkCredit cls n).Ordered :=
  hs.of_eq

theorem flit_ordered {s : State} {b : List Byte} (hs : s.Ordered) : (s.flit b).Ordered := by
  unfold flit
  split
  · exact hs
  · split
    · exact emitFlits_ordered (hs.of_eq)
    · extract_lets _ s1 s2 s3 _ _ s4
      have h_s1 : s1.Ordered := plkAck_ordered hs
      have h_s2 : s2.Ordered := Ordered.ite (plkReplay_ordered h_s1) h_s1
      have h_s3 : s3.Ordered := plkCredit_ordered h_s2
      have h_s4 : s4.Ordered := Ordered.ite (messages_ordered (emitFlits_ordered (h_s3.of_eq))) h_s3
      split
      · exact hs
      · exact pump_ordered h_s4

theorem plkDown_ordered {s : State} (hs : s.Ordered) : s.plkDown.Ordered :=
  raiseEv_ordered (linkDrop_ordered hs)

theorem rewriteRings_ordered {s : State} (hs : s.Ordered) : s.rewriteRings.Ordered :=
  Ordered.foldl hs (fun _ _ h1 => (send_ordered (h1.of_eq)))

theorem trainFails_ordered {s0 : State} (hs : s0.Ordered) : s0.trainFails.Ordered := by
  unfold trainFails
  extract_lets f s' _ _ s1
  have h_f : f.2.Ordered := fresh_ordered (Ordered.ite (plkDown_ordered hs) hs)
  have h_s' : s'.Ordered := h_f
  have h_s1 : s1.Ordered := h_s'.of_eq
  split
  · exact plkDown_ordered h_s1
  · exact h_s1

theorem train_ordered {s0 : State} {versions lanes pw np mgt : Nat} (hs : s0.Ordered) : (s0.train versions lanes pw np mgt).Ordered := by
  unfold train
  split
  · exact hs
  · extract_lets s' _
    have h_s' : s'.Ordered := Ordered.ite (plkDown_ordered hs) hs
    split
    · exact h_s'.of_eq
    · extract_lets _ s1
      have h_s1 : s1.Ordered := h_s'.of_eq
      split
      · exact trainFails_ordered h_s'
      · exact rewriteRings_ordered (evalEvent_ordered (send_ordered h_s1))

theorem trainTimeout_ordered {s : State} (hs : s.Ordered) : s.trainTimeout.Ordered := by
  unfold trainTimeout
  split
  · exact trainFails_ordered hs
  · exact hs

theorem retrainEnd_ordered {s : State} {ok : Bool} (hs : s.Ordered) : (s.retrainEnd ok).Ordered := by
  unfold retrainEnd
  split
  · exact hs
  · extract_lets _ _ _ s1 _ s2
    have h_s1 : s1.Ordered := hs.of_eq
    have h_s2 : s2.Ordered := h_s1.of_eq
    split
    · exact plkDown_ordered h_s1
    · exact pump_ordered (Ordered.ite h_s2 (emitFlits_ordered h_s2))

theorem laneFails_ordered {s : State} {lane : Nat} (hs : s.Ordered) : (s.laneFails lane).Ordered := by
  unfold laneFails
  split
  · exact hs
  · extract_lets _ _ s1 _ _ _ s2 _ s3
    have h_s1 : s1.Ordered := hs.of_eq
    have h_s2 : s2.Ordered := plkRetrain_ordered h_s1
    have h_s3 : s3.Ordered := h_s2.of_eq
    split
    · exact h_s1
    · split
      · exact plkDown_ordered h_s1
      · split
        · exact raiseEv_ordered h_s3
        · exact h_s3

theorem timeRecords_ordered {s : State} {samples : List TimeSample} (hs : s.Ordered) : (s.timeRecords samples).2.Ordered := by
  unfold timeRecords
  refine Ordered.foldl_snd hs ?_
  intro s1 a1 h1
  split
  · exact h1
  · extract_lets f
    have h_f : f.2.Ordered := fresh_ordered h1
    exact h_f

theorem timeMessages_ordered {s : State} {host : List Byte} {l : List (List Byte)} {fuel : Nat} (hs : s.Ordered) :
    (s.timeMessages host l fuel).Ordered := by
  induction fuel generalizing s l with
  | zero => exact hs
  | succ fuel ih => exact Ordered.ite (send_ordered hs) (ih (send_ordered hs))

theorem timePings_ordered {s : State} (hs : s.Ordered) : s.timePings.Ordered :=
  Ordered.foldl (hs.of_eq) (fun _ _ h1 => (send_ordered h1))

theorem timeRound_ordered {s : State} {samples : List TimeSample} (hs : s.Ordered) : (s.timeRound samples).Ordered := by
  unfold timeRound
  refine Ordered.ite hs (Ordered.ite (timePings_ordered hs) ?_)
  extract_lets n host r s1 _ s2
  have h_s1 : s1.Ordered := timeMessages_ordered (timeRecords_ordered hs)
  have h_s2 : s2.Ordered := ⟨List.pairwise_map.mpr h_s1.domains, h_s1.requests⟩
  exact timePings_ordered (Ordered.ite h_s2 (raiseEv_ordered h_s2))

theorem arrives_ordered {s : State} {cls n : Nat} {f : State → State} (hs : s.Ordered) (h_f : ∀ a0, a0.Ordered → (f a0).Ordered) : (s.arrives cls n f).Ordered := by
  unfold arrives
  split
  · exact freed_ordered (h_f _ hs)
  · exact hs

theorem countStale_ordered {s : State} {die d : Nat} (hs : s.Ordered) : (s.countStale die d).Ordered := by
  unfold countStale
  extract_lets _ s1 _
  have h_s1 : s1.Ordered := hs.of_eq
  split
  · exact h_s1
  · exact modFault_ordered h_s1

theorem rzDeliver_ordered {s : State} {l : Nat} {x : RzTransfer} (hs : s.Ordered) : (s.rzDeliver l x).Ordered := by
  unfold rzDeliver
  extract_lets
  split
  · exact countStale_ordered hs
  · split
    · split
      · exact countStale_ordered hs
      · split
        · exact hs.of_eq
        · exact countStale_ordered hs
    · exact hs.of_eq

theorem rzTake_ordered {s : State} {l : Nat} {high : Bool} {x : RzTransfer} (hs : s.Ordered) : (s.rzTake l high x).Ordered := by
  unfold rzTake
  extract_lets _ _ _ s0 s1
  have h_s0 : s0.Ordered := sendCtl_ordered (setRzLink_ordered hs)
  have h_s1 : s1.Ordered := Ordered.ite (rzPumpAll_ordered h_s0) (rzPump_ordered h_s0)
  split
  · split
    · exact rzDeliver_ordered h_s1
    · exact rzForward_ordered h_s1
  · exact h_s1

theorem rzReceive_ordered {s : State} {l : Nat} {high : Bool} {x : RzTransfer} {crc : Nat} (hs : s.Ordered) : (s.rzReceive l high x crc).Ordered := by
  unfold rzReceive
  extract_lets _ _ _ s1
  have h_s1 : s1.Ordered := raiseEv_ordered (sendCtl_ordered (setRzLink_ordered hs))
  split
  · exact hs
  · split
    · split
      · exact hs
      · exact rzTake_ordered hs
    · split
      · exact rzRetrain_ordered h_s1
      · exact h_s1

theorem runSput_ordered {s : State} {c q : Nat} {idx : Word} {x : At} {d : Desc} {i : Nat} (hs : s.Ordered) : (s.runSput c q idx x d i).Ordered := by
  unfold runSput
  split
  · exact hs
  · extract_lets _ _ f s1 _ b _ _
    have h_f : f.2.Ordered := fillSlot_ordered hs
    have h_s1 : s1.Ordered := by
      unfold s1
      split
      · split
        · exact h_f
        · exact Ordered.foldl h_f (fun _ _ h1 => (putRow_ordered h1))
      · exact hs
    have h_b : b.2.Ordered := fresh_ordered h_s1
    split
    · exact modCmd_ordered h_b
    · split
      · exact answer_ordered h_s1
      · extract_lets s2 _
        have h_s2 : s2.Ordered := chanCommit_ordered (Ordered.ite h_s1 (padTokens_ordered h_s1))
        exact modCmd_ordered h_s2

theorem runStake_ordered {s : State} {c q : Nat} {idx : Word} {x : At} {i : Nat} (hs : s.Ordered) : (s.runStake c q idx x i).Ordered := by
  unfold runStake
  split
  · split
    · extract_lets
      exact modCmd_ordered (putBytes_ordered hs)
    · exact hs
  · exact hs

theorem lossResult_ordered {s : State} {c q : Nat} {idx : Word} {x : At} {i : Nat} {ch : Channel} {sl : SorSlot} {width : Nat} {toks : List (Option TokenLoss)} {ovf : Bool} (hs : s.Ordered) : (s.lossResult c q idx x i ch sl width toks ovf).Ordered := by
  unfold lossResult
  split
  · exact hs
  · extract_lets _ _ _ _ _ _ s0 _ _ _ s1 _ _ _ _ _
    have h_s0 : s0.Ordered := takeDraws_ordered hs
    have h_s1 : s1.Ordered := Ordered.foldl h_s0 (fun _ _ h1 => (putDest_ordered h1))
    exact modCmd_ordered h_s1

theorem runLoss_ordered {s : State} {c q : Nat} {idx : Word} {x : At} {i : Nat} (hs : s.Ordered) : (s.runLoss c q idx x i).Ordered := by
  unfold runLoss
  split
  · split
    · exact hs
    · extract_lets _ _ _ s1 _ _ _ _
      have h_s1 : s1.Ordered := setChan_ordered hs
      split
      · exact lossResult_ordered h_s1
      · split
        · exact hs
        · split
          · extract_lets _ s2
            have h_s2 : s2.Ordered := by
              unfold s2
              refine Ordered.foldl h_s1 ?_
              intro s1 a1 h1
              refine Ordered.foldl h1 ?_
              intro s2 a1 h2
              split
              · exact h2.of_eq
              · exact h2
            exact modCmd_ordered (h_s2.of_eq)
          · extract_lets _ once s2
            have h_once : ∀ a0, a0.Ordered → (once a0).Ordered := by
              unfold once
              intro s1 h1
              refine Ordered.foldl h1 ?_
              intro s2 a1 h2
              refine Ordered.foldl h2 ?_
              intro s3 a1 h3
              extract_lets
              exact noteLast_ordered (noteRun_ordered h3)
            have h_s2 : s2.Ordered := Ordered.ite (h_once _ (h_once _ h_s1)) (h_once _ h_s1)
            exact lossResult_ordered (h_s2.of_eq)
  · exact hs

end Sys2Proof.Machine.State
end

section
/-! SUPPORT. Every command, and so every step, keeps the two tables in order. -/

set_option Elab.async false

namespace Sys2Proof.Machine
open State
/-! ### The commands -/

/-- Every next state that an answer gives is in order. -/
def Orders (o : Host.Outcome State Fault Refusal) : Prop := ∀ t, o = .next t → t.Ordered

variable {s : State}

theorem orders_done {t : State} (ht : t.Ordered) : Orders (done s t) := by
  rintro _ h
  cases h
  exact ht.of_eq

theorem orders_act {f : State → State} (hs : s.Ordered) (hf : ∀ s : State, s.Ordered → (f s).Ordered) : Orders (act s f) := by
  unfold act
  split
  · exact orders_done hs
  · exact orders_done (hf s hs)

theorem State.hostRdTimeout_ordered {tag : Nat} (hs : s.Ordered) :
    (match s.plk.reads.find? fun r : HostRead => r.tag == tag with
      | none => s
      | some r =>
        let s1 := { s with plk := { s.plk with reads := s.plk.reads.filter fun h =>
          !(h.ctx == r.ctx && h.q == r.q && h.idx == r.idx) } }
        (s1.answer r.ctx r.q r.idx .domainReset).raiseEv evPlk 3).Ordered := by
  split
  · exact hs
  · exact raiseEv_ordered (answer_ordered hs.of_eq)

theorem regWr_orders {offset size value : Nat} (hs : s.Ordered) : Orders (execRegWr offset size value s) :=
  orders_act hs fun _ h => arrives_ordered h fun _ => regWr_ordered

theorem regWra_orders {tag offset size value : Nat} (hs : s.Ordered) : Orders (execRegWra tag offset size value s) :=
  orders_act hs fun _ h => arrives_ordered h fun _ => regWra_ordered

theorem memWr_orders {addr : Nat} {data : List Byte} (hs : s.Ordered) : Orders (execMemWr addr data s) :=
  orders_act hs fun _ h => arrives_ordered h fun _ => memWr_ordered

theorem memRd_orders {tag addr bytes : Nat} (hs : s.Ordered) : Orders (execMemRd tag addr bytes s) :=
  orders_act hs fun _ h => arrives_ordered h fun _ => memRd_ordered

theorem timePong_orders {t1 h2 h3 : DWord} (hs : s.Ordered) : Orders (execTimePong t1 h2 h3 s) :=
  orders_act hs fun _ h => arrives_ordered h fun _ => timePong_ordered

theorem hostWrAck_orders {ident : Nat} (hs : s.Ordered) : Orders (execHostWrAck ident s) :=
  orders_act hs fun s h => Ordered.of_eq (s := s) h

theorem pingTimeout_orders {t1 : DWord} (hs : s.Ordered) : Orders (execPingTimeout t1 s) :=
  orders_act hs fun s h => Ordered.of_eq (s := s) h

theorem matmul_orders {ctx q : Nat} {idx : Word} (hs : s.Ordered) : Orders (execMatmul ctx q idx s) :=
  orders_act hs fun _ h => unitStart_ordered h fun _ _ _ => startMatrix_ordered

theorem convrow_orders {ctx q : Nat} {idx : Word} (hs : s.Ordered) : Orders (execConvrow ctx q idx s) :=
  orders_act hs fun _ h => unitStart_ordered h fun _ _ _ => startMatrix_ordered

theorem pcPowerDown_orders {pc : Nat} (hs : s.Ordered) : Orders (execPcPowerDown pc s) :=
  orders_act hs fun _ h => Ordered.ite (setPc_ordered h) h

theorem streamClose_orders {addr : Nat} (hs : s.Ordered) : Orders (execStreamClose addr s) :=
  orders_act hs fun _ h => streamRequest_ordered h fun _ _ _ => closeStream_ordered

theorem streamPause_orders {addr : Nat} (hs : s.Ordered) : Orders (execStreamPause addr s) :=
  orders_act hs fun _ h => streamRequest_ordered h fun _ _ _ => pauseStream_ordered

theorem streamResume_orders {addr : Nat} (hs : s.Ordered) : Orders (execStreamResume addr s) :=
  orders_act hs fun _ h => streamRequest_ordered h fun _ _ _ => resumeStream_ordered

theorem contextBind_orders {ctx : Nat} (hs : s.Ordered) : Orders (execContextBind ctx s) :=
  orders_act hs fun _ h => bindCtx_ordered (h.foldl fun _ _ => extensionOver_ordered)

theorem handoverStart_orders {group : Nat} (hs : s.Ordered) : Orders (execHandoverStart group s) :=
  orders_act hs fun _ h => handoverStart_ordered (extensionsOver_ordered h)

theorem sliceExpiry_orders {ctx : Nat} (hs : s.Ordered) : Orders (execSliceExpiry ctx s) :=
  orders_act hs fun _ h => sliceEnd_ordered (h.foldl fun _ _ => extensionOver_ordered)

theorem roceRetryTimeout_orders {qp : Nat} (hs : s.Ordered) : Orders (execRoceRetryTimeout qp s) :=
  orders_act hs fun _ h => Ordered.ite (connectionLost_ordered (retryTimeout_ordered h)) (retryTimeout_ordered h)

theorem progressWindowExpiry_orders {domain unit cls : Nat} (hs : s.Ordered) : Orders (execProgressWindowExpiry domain unit cls s) :=
  orders_act hs fun _ h => Ordered.ite (hang_ordered h) h

theorem dumpNow_orders (hs : s.Ordered) : Orders (execDumpNow s) :=
  orders_act hs fun _ => startDump_ordered

theorem opEvaluation_orders (hs : s.Ordered) : Orders (execOpEvaluation s) :=
  orders_act hs fun _ h => evaluate_ordered (telemetry_ordered h)

theorem mfrReset_orders {value : Nat} (hs : s.Ordered) : Orders (execMfrReset value s) :=
  orders_done (Ordered.ite (modReset_ordered hs) hs)

theorem rzTransferReceive_orders {link : Nat} {high : Bool} {header : DWord} {payload : List Byte} {crc : Word} (hs : s.Ordered) : Orders (execRzTransferReceive link high header payload crc s) :=
  orders_act hs fun _ => rzReceive_ordered

theorem regRd_orders {tag offset size : Nat} (hs : s.Ordered) : Orders (execRegRd tag offset size s) :=
  orders_done (arrives_ordered hs fun _ => regRd_ordered)

theorem hostRdTimeout_orders {tag : Nat} (hs : s.Ordered) : Orders (execHostRdTimeout tag s) :=
  orders_act hs fun _ => hostRdTimeout_ordered

theorem eltwise_orders {ctx q : Nat} {idx : Word} (hs : s.Ordered) : Orders (execEltwise ctx q idx s) := by
  refine orders_act hs fun _ h => unitStart_ordered h fun _ _ _ h => ?_
  split
  · exact startEdge_ordered h fun _ _ => runEltwise_ordered
  · exact h

theorem convert_orders {ctx q : Nat} {idx : Word} (hs : s.Ordered) : Orders (execConvert ctx q idx s) := by
  refine orders_act hs fun _ h => unitStart_ordered h fun _ _ _ h => ?_
  split
  · exact startEdge_ordered h fun _ _ => runConvert_ordered
  · exact h

theorem reduce_orders {ctx q : Nat} {idx : Word} (hs : s.Ordered) : Orders (execReduce ctx q idx s) := by
  refine orders_act hs fun _ h => unitStart_ordered h fun _ _ _ h => ?_
  split
  · exact Ordered.ite (runReduce_ordered (edgeWaited_ordered h)) (edgeWaits_ordered h)
  · exact h

theorem topk_orders {ctx q : Nat} {idx : Word} (hs : s.Ordered) : Orders (execTopk ctx q idx s) := by
  refine orders_act hs fun _ h => unitStart_ordered h fun s1 _ x h => ?_
  split
  next p _ =>
    refine Ordered.ite (edgeWaits_ordered h) ?_
    have waited := edgeWaited_ordered (c := ctx) (q := q) (idx := idx) (arrays := s1.arraysUsed x (tileCount p.rows p.cols)) h
    refine Ordered.ite ?_ ?_
    · split
      · split
        · exact withChan_ordered waited fun _ h => setHalves_ordered (releaseSlots_ordered (runTopSoft_ordered (fillSlot_ordered h)))
        · exact answer_ordered waited
      · exact waited
    · split
      · exact setHalves_ordered (releaseSlots_ordered (runTopGeneric_ordered waited))
      · exact waited
  next => exact h

theorem sput_orders {ctx q : Nat} {idx : Word} (hs : s.Ordered) : Orders (execSput ctx q idx s) := by
  refine orders_act hs fun _ h => unitStart_ordered h fun _ _ _ h => ?_
  split
  · split
    · exact withChan_ordered h fun _ => runSput_ordered
    · exact answer_ordered h
  · exact h

theorem stake_orders {ctx q : Nat} {idx : Word} (hs : s.Ordered) : Orders (execStake ctx q idx s) := by
  refine orders_act hs fun _ h => unitStart_ordered h fun _ _ _ h => ?_
  split
  · split
    · split
      · exact Ordered.ite (answer_ordered h) (withChan_ordered h fun _ => runStake_ordered)
      · exact h
    · exact answer_ordered h
  · exact h

theorem loss_orders {ctx q : Nat} {idx : Word} (hs : s.Ordered) : Orders (execLoss ctx q idx s) := by
  refine orders_act hs fun _ h => unitStart_ordered h fun _ _ _ h => ?_
  split
  · split
    · split
      · exact withChan_ordered h fun _ => runLoss_ordered
      · exact h
    · exact answer_ordered h
  · exact h

theorem exec_orders (i : Instr) (hs : s.Ordered) : Orders (exec i s) := by
  cases i
  case regWrite => exact orders_act (f := (hostWrite · _ _ _)) hs fun _ => hostWrite_ordered
  case eventRegWrite => exact orders_act (f := (hostWrite · _ _ _)) hs fun _ => hostWrite_ordered
  case regWr => exact regWr_orders hs
  case regWra => exact regWra_orders hs
  case regRd => exact regRd_orders hs
  case memWr => exact memWr_orders hs
  case memRd => exact memRd_orders hs
  case cplReceive => exact orders_act (f := (cplTaken · _ _ _)) hs fun _ => cplTaken_ordered
  case hostRdTimeout => exact hostRdTimeout_orders hs
  case hostWrAck => exact hostWrAck_orders hs
  case flitReceive => exact orders_done (flit_ordered hs)
  case plkAckTimeout => exact orders_act (f := plkReplay) hs fun _ => plkReplay_ordered
  case plkRetrainEnd => exact orders_act (f := (retrainEnd · _)) hs fun _ => retrainEnd_ordered
  case plkCtlRetrain => exact orders_act (f := plkRetrain) hs fun _ => plkRetrain_ordered
  case linkTraining => exact orders_act (f := (train · _ _ _ _ _)) hs fun _ => train_ordered
  case trainingTimeout => exact orders_act (f := trainTimeout) hs fun _ => trainTimeout_ordered
  case laneFailure => exact orders_act (f := (laneFails · _)) hs fun _ => laneFails_ordered
  case timeCorrRound => exact orders_act (f := (timeRound · _)) hs fun _ => timeRound_ordered
  case timePong => exact timePong_orders hs
  case pingTimeout => exact pingTimeout_orders hs
  case rzTransferReceive => exact rzTransferReceive_orders hs
  case rzRetrainEnd => exact orders_act (f := (rzRetrained · _ _)) hs fun _ => rzRetrained_ordered
  case detourTimeout => exact orders_act (f := (detourLate · _)) hs fun _ => detourLate_ordered
  case rateWindowEnd => exact orders_act (f := (rateWindow · _ _ _ _)) hs fun _ => rateWindow_ordered
  case opRampEnd => exact orders_act (f := (rampEnd · _)) hs fun _ => rampEnd_ordered
  case matmul => exact matmul_orders hs
  case convrow => exact convrow_orders hs
  case eltwise => exact eltwise_orders hs
  case reduce => exact reduce_orders hs
  case topk => exact topk_orders hs
  case convert => exact convert_orders hs
  case sput => exact sput_orders hs
  case stake => exact stake_orders hs
  case loss => exact loss_orders hs
  case dma => exact orders_act (f := (stepDma · _ _ _)) hs fun _ => stepDma_ordered
  case fence => exact orders_act (f := (fenceStart · _ _ _)) hs fun _ => fenceStart_ordered
  case event => exact orders_act (f := (eventStart · _ _ _)) hs fun _ => eventStart_ordered
  case doorbell => exact orders_act (f := (ringDoorbell · _ _)) hs fun _ => ringDoorbell_ordered
  case ctxQRestart => exact orders_act (f := (restartQueue · _)) hs fun _ => restartQueue_ordered
  case ctxQAbort => exact orders_act (f := abortQueue) hs fun _ => abortQueue_ordered
  case commandDispatch => exact orders_act (f := (dispatch · _ _)) hs fun _ => dispatch_ordered
  case commandComplete => exact orders_act (f := (completeCmd · _ _ _)) hs fun _ => completeCmd_ordered
  case fenceSatisfied => exact orders_act (f := (fenceSatisfied · _ _)) hs fun _ => fenceSatisfied_ordered
  case fenceWaitLimit => exact orders_act (f := (fenceLimit · _ _)) hs fun _ => fenceLimit_ordered
  case arrayIssue => exact orders_act (f := (issueHead · _)) hs fun _ => issueHead_ordered
  case arrayDrainEnd => exact orders_act (f := (drainHead · _)) hs fun _ => drainHead_ordered
  case combine => exact orders_act (f := (combineStep · _ _ _ _ _)) hs fun _ => combineStep_ordered
  case arrayEccError => exact orders_act (f := (arrayError · _ _ _)) hs fun _ => arrayError_ordered
  case layerGate => exact orders_act (f := (layerGate · _ _)) hs fun _ => layerGate_ordered
  case stepGateRelease => exact orders_act (f := (stepGateRelease · _)) hs fun _ => stepGateRelease_ordered
  case jobOpen => exact orders_act (f := (openJob · _)) hs fun _ => openJob_ordered
  case jobClose => exact orders_act (f := (closeJob · _)) hs fun _ => closeJob_ordered
  case channelOpen => exact orders_act (f := (openChannel · _)) hs fun _ => openChannel_ordered
  case channelClose => exact orders_act (f := (closeChannel · _)) hs fun _ => closeChannel_ordered
  case closeWaitLimit => exact orders_act (f := (closeLimit · _)) hs fun _ => closeLimit_ordered
  case sorWaitLimit => exact orders_act (f := (sorLimit · _ _ _)) hs fun _ => sorLimit_ordered
  case parkedResume => exact orders_act (f := (unpark · _)) hs fun _ => unpark_ordered
  case cowCopyDone => exact orders_act (f := (cowDone · _)) hs fun _ => cowDone_ordered
  case attrRequest => exact orders_act (f := (attrRequest · _)) hs fun _ => attrRequest_ordered
  case hbmEccUe => exact orders_act (f := (hbmUe · _ _)) hs fun _ => hbmUe_ordered
  case hbmParityError => exact orders_act (f := (parityError · _)) hs fun _ => parityError_ordered
  case pcPowerDown => exact pcPowerDown_orders hs
  case arbStarvation => exact orders_act (f := (starved · _ _ _)) hs fun _ => starved_ordered
  case streamOpen => exact orders_act (f := (openStream · _ _)) hs fun _ => openStream_ordered
  case streamClose => exact streamClose_orders hs
  case streamPause => exact streamPause_orders hs
  case streamResume => exact streamResume_orders hs
  case clipFetch => exact orders_act (f := (clipFetch · _ _)) hs fun _ => clipFetch_ordered
  case rdmaReadComplete => exact orders_act (f := (readComplete · _ _ _ _ _)) hs fun _ => readComplete_ordered
  case clipMissingLimit => exact orders_act (f := (missingLimit · _)) hs fun _ => missingLimit_ordered
  case clipDecodeStart => exact orders_act (f := (decodeStart · _ _)) hs fun _ => decodeStart_ordered
  case clipDecodeEnd => exact orders_act (f := (decodeEnd · _)) hs fun _ => decodeEnd_ordered
  case blockWrite => exact orders_act (f := (blockWrite · _)) hs fun _ => blockWrite_ordered
  case layoutBatch => exact orders_act (f := (layoutBatch · _)) hs fun _ => layoutBatch_ordered
  case layoutBatchComplete => exact orders_act (f := batchStep) hs fun _ => batchStep_ordered
  case restripeCopyEnd => exact orders_act (f := (stripeEnd · _)) hs fun _ => stripeEnd_ordered
  case contextCreate => exact orders_act (f := (createCtx · _)) hs fun _ => createCtx_ordered
  case contextDestroy => exact orders_act (f := (destroyCtx · _)) hs fun _ => destroyCtx_ordered
  case hotsetRequest => exact orders_act (f := (hotRequest · _)) hs fun _ => hotRequest_ordered
  case testRequest => exact orders_act (f := (testRequest · _)) hs fun _ => testRequest_ordered
  case testBorrowStart => exact orders_act (f := (testBegin · _)) hs fun _ => testBegin_ordered
  case testDeferLimit => exact orders_act (f := (testDeferred · _)) hs fun _ => testDeferred_ordered
  case testWindowEnd => exact orders_act (f := (testEnd · _ _ _)) hs fun _ => testEnd_ordered
  case procedureEnd => exact orders_act (f := (testEnd · _ _ _)) hs fun _ => testEnd_ordered
  case contextBind => exact contextBind_orders hs
  case slotBoundary => exact orders_act (f := (slotBoundary · _)) hs fun _ => slotBoundary_ordered
  case handoverStart => exact handoverStart_orders hs
  case sliceExpiry => exact sliceExpiry_orders hs
  case contextSaveDone => exact orders_act (f := (saveEnd · _)) hs fun _ => saveEnd_ordered
  case contextRestoreDone => exact orders_act (f := (restoreEnd · _)) hs fun _ => restoreEnd_ordered
  case contextTeardown => exact orders_act (f := (tornDown · _)) hs fun _ => tornDown_ordered
  case instanceCreate => exact orders_act (f := (createInst · _)) hs fun _ => createInst_ordered
  case instanceDestroy => exact orders_act (f := (destroyInst · _)) hs fun _ => destroyInst_ordered
  case adapterRegister => exact orders_act (f := (registerAdapter · _)) hs fun _ => registerAdapter_ordered
  case adapterRelease => exact orders_act (f := (releaseAdapter · _)) hs fun _ => releaseAdapter_ordered
  case ringCreate => exact orders_act (f := (createRing · _)) hs fun _ => createRing_ordered
  case ringDestroy => exact orders_act (f := (destroyRing · _)) hs fun _ => destroyRing_ordered
  case requestCancel => exact orders_act (f := (cancelReq · _)) hs fun _ => cancelReq_ordered
  case requestAdmission => exact orders_act (f := (admitRequest · _)) hs fun _ => admitRequest_ordered
  case servingStepBoundary => exact orders_act (f := (stepBoundary · _)) hs fun _ => stepBoundary_ordered
  case servingPassEnd => exact orders_act (f := (passEnd · _)) hs fun _ => passEnd_ordered
  case peerRingFailure => exact orders_act (f := (ringFails · _)) hs fun _ => ringFails_ordered
  case hello => exact orders_act (f := (hello · _)) hs fun _ => hello_ordered
  case helloAnswer => exact orders_act (f := (helloAnswer · _ _)) hs fun _ => helloAnswer_ordered
  case formationLimit => exact orders_act (f := formationLimit) hs fun _ => formationLimit_ordered
  case stepEndReport => exact orders_act (f := (stepEndReport · _ _ _ _)) hs fun _ => stepEndReport_ordered
  case stepStartAck => exact orders_act (f := (stepStartAck · _ _)) hs fun _ => stepStartAck_ordered
  case stepStartRecord => exact orders_act (f := (stepStartRecord · _)) hs fun _ => stepStartRecord_ordered
  case heartbeatSend => exact orders_act (f := heartbeatSend) hs fun _ => heartbeatSend_ordered
  case heartbeatReceive => exact orders_act (f := (heartbeatReceive · _ _)) hs fun _ => heartbeatReceive_ordered
  case peerMiss => exact orders_act (f := (peerMiss · _)) hs fun _ => peerMiss_ordered
  case missReport => exact orders_act (f := (missReport · _ _)) hs fun _ => missReport_ordered
  case takeover => exact orders_act (f := (takeoverArrives · _ _)) hs fun _ => takeoverArrives_ordered
  case takeoverAnswer => exact orders_act (f := (takeoverAnswer · _ _ _)) hs fun _ => takeoverAnswer_ordered
  case failoverLimit => exact orders_act (f := failoverLimit) hs fun _ => failoverLimit_ordered
  case collectiveStart => exact orders_act (f := (collStart · _ _)) hs fun _ => collStart_ordered
  case collectiveComplete => exact orders_act (f := (collComplete · _ _ _)) hs fun _ => collComplete_ordered
  case roceRetryTimeout => exact roceRetryTimeout_orders hs
  case cePacketReceive => exact orders_act (f := (cePacket · _)) hs fun _ => cePacket_ordered
  case cnpReceive => exact orders_act (f := (cnpArrives · _)) hs fun _ => cnpArrives_ordered
  case rateIncreaseTimer => exact orders_act (f := (rateUp · _)) hs fun _ => rateUp_ordered
  case pfcPauseReceive => exact orders_act (f := (pfcPause · _ _ _)) hs fun _ => pfcPause_ordered
  case portDown => exact orders_act (f := (portDown · _)) hs fun _ => portDown_ordered
  case checkpointRequest => exact orders_act (f := ckptRequest) hs fun _ => ckptRequest_ordered
  case checkpointCapture => exact orders_act (f := capture) hs fun _ => capture_ordered
  case shardAck => exact orders_act (f := (shardAck · _)) hs fun _ => shardAck_ordered
  case shardNak => exact orders_act (f := (shardNak · _)) hs fun _ => shardNak_ordered
  case manifestAck => exact orders_act (f := manifestAck) hs fun _ => manifestAck_ordered
  case logFlushAck => exact orders_act (f := (flushAck · _)) hs fun _ => flushAck_ordered
  case flushTimeout => exact orders_act (f := flushLate) hs fun _ => flushLate_ordered
  case checkpointLimit => exact orders_act (f := ckptLimit) hs fun _ => ckptLimit_ordered
  case sessionClose => exact orders_act (f := closeSession) hs fun _ => closeSession_ordered
  case sessionReopen => exact orders_act (f := reopenSession) hs fun _ => reopenSession_ordered
  case mirrorHelloAnswer => exact orders_act (f := (helloMirror · _ _ _)) hs fun _ => helloMirror_ordered
  case mirrorRetryTimer => exact orders_act (f := mirrorRetry) hs fun _ => mirrorRetry_ordered
  case mirrorHello => exact orders_act (f := (mirrorHello · _)) hs fun _ => mirrorHello_ordered
  case shardReceive => exact orders_act (f := (shardArrives · _ _ _ _)) hs fun _ => shardArrives_ordered
  case manifestReceive => exact orders_act (f := (manifestArrives · _ _)) hs fun _ => manifestArrives_ordered
  case logRecordReceive => exact orders_act (f := (logArrives · _ _)) hs fun _ => logArrives_ordered
  case restore => exact orders_act (f := (restore · _ _)) hs fun _ => restore_ordered
  case progressWindowExpiry => exact progressWindowExpiry_orders hs
  case fenceNotice => exact orders_act (f := (fenceNoticed · _ _)) hs fun _ => fenceNoticed_ordered
  case domainDrainEnd => exact orders_act (f := (drainEnd · _)) hs fun _ => drainEnd_ordered
  case domainResetReady => exact orders_act (f := (resetReady · _)) hs fun _ => resetReady_ordered
  case epochNotice => exact orders_act (f := (epochNoticed · _ _)) hs fun _ => epochNoticed_ordered
  case fenceLift => exact orders_act (f := (fenceLift · _)) hs fun _ => fenceLift_ordered
  case fenceClearNotice => exact orders_act (f := (fenceCleared · _)) hs fun _ => fenceCleared_ordered
  case resetEscalation => exact orders_act (f := (escalate2 · _)) hs fun _ => escalate2_ordered
  case resetRequest => exact orders_act (f := (requestReset · _ _)) hs fun _ => requestReset_ordered
  case resetPowerOff => exact orders_act (f := (requestReset · _ _)) hs fun _ => requestReset_ordered
  case dumpNow => exact dumpNow_orders hs
  case dumpExport => exact orders_act (f := (exportDump · _)) hs fun _ => exportDump_ordered
  case probeTimeout => exact orders_act (f := (probeLate · _ _)) hs fun _ => probeLate_ordered
  case dumpEnd => exact orders_act (f := dumpEnds) hs fun _ => dumpEnds_ordered
  case domainPowerOn => exact orders_act (f := (domOn · _)) hs fun _ => domOn_ordered
  case domainPowerOff => exact orders_act (f := (domOff · _)) hs fun _ => domOff_ordered
  case autoOffTimer => exact orders_act (f := (autoOff · _)) hs fun _ => autoOff_ordered
  case opEvaluation => exact opEvaluation_orders hs
  case powerOverCap => exact orders_act (f := (overCap · _)) hs fun _ => overCap_ordered
  case coolantLoopPass => exact orders_act (f := (loopPass · _ _ _ _ _)) hs fun _ => loopPass_ordered
  case ceilLower => exact orders_act (f := (hottestFalls · _)) hs fun _ => hottestFalls_ordered
  case ceilRaise => exact orders_act (f := coolestRises) hs fun _ => coolestRises_ordered
  case coolingFault => exact orders_act (f := coolingFails) hs fun _ => coolingFails_ordered
  case coolingFaultEnd => exact orders_act (f := coolingOver) hs fun _ => coolingOver_ordered
  case tjHot => exact orders_act (f := (junctionHot · _ _)) hs fun _ => junctionHot_ordered
  case hotClear => exact orders_act (f := (hotOver · _)) hs fun _ => hotOver_ordered
  case thermalTrip => exact orders_act (f := (trip · _)) hs fun _ => trip_ordered
  case tripRestart => exact orders_act (f := (tripRestart · _)) hs fun _ => tripRestart_ordered
  case inputLoss => exact orders_done (inputLoss_ordered hs)
  case inputReturn => exact orders_done (inputReturn_ordered hs)
  case holdupExhausted => exact orders_done (exhausted_ordered hs)
  case holdupCharged => exact orders_act (f := (charged · _ _)) hs fun _ => charged_ordered
  case stressAccumulate => exact orders_act (f := (stressed · _ _)) hs fun _ => stressed_ordered
  case wearMeasure => exact orders_act (f := (measured · _ _ _)) hs fun _ => measured_ordered
  case wearStoreWrite => exact orders_act (f := storeWear) hs fun _ => storeWear_ordered
  case powerOnBoot => exact orders_act (f := powerOnBoot) hs fun _ => powerOnBoot_ordered
  case jobAutostart => exact orders_act (f := (autostart · _ _)) hs fun _ => autostart_ordered
  case updateRequest => exact orders_act (f := (updRequest · _)) hs fun _ => updRequest_ordered
  case updateCoreTurn => exact orders_act (f := updTurn) hs fun _ => updTurn_ordered
  case updateDeferLimit => exact orders_act (f := updLate) hs fun _ => updLate_ordered
  case flashPersistEnd => exact orders_act (f := (persistEnd · _)) hs fun _ => persistEnd_ordered
  case attestationRequest => exact orders_act (f := (attRequest · _)) hs fun _ => attRequest_ordered
  case modRstN => exact orders_done (modReset_ordered hs)
  case clearFaults => exact orders_done (clearFaults_ordered hs)
  case statusWord => exact orders_done (statusAnswer_ordered hs)
  case readVin => exact orders_done (reading_ordered hs)
  case readIin => exact orders_done (reading_ordered hs)
  case readTemperature1 => exact orders_done (reading_ordered hs)
  case readTemperature2 => exact orders_done (reading_ordered hs)
  case readTemperature3 => exact orders_done (reading_ordered hs)
  case readPin => exact orders_done (reading_ordered hs)
  case mfrRegRead => exact orders_done (sideRead_ordered hs)
  case mfrReset => exact mfrReset_orders hs
  case mfrFlash => exact orders_done (flashAccess_ordered hs)
  case intrHoldoffExpiry => exact orders_act (f := (holdoffEnds · _)) hs fun _ => holdoffEnds_ordered
  case portLinkUp => exact orders_act (f := (portUp · _)) hs fun _ => portUp_ordered
  case pfcPauseExpiry => exact orders_act (f := (pfcPause · _ _ _)) hs fun _ => pfcPause_ordered
  case attestationReportDone => exact orders_act (f := attDone) hs fun _ => attDone_ordered
  case updateWatchEnd => exact orders_act (f := updWatched) hs fun _ => updWatched_ordered
  case supervisorRestartEnd => exact orders_act (f := supervisorBack) hs fun _ => supervisorBack_ordered
  case partnerSessionClose => exact orders_act (f := sessionLost) hs fun _ => sessionLost_ordered
  case groupPauseRequest => exact orders_act (f := (pauseRequest · _ _)) hs fun _ => pauseRequest_ordered

theorem step_ordered {t : State} (hs : s.Ordered) (h : step s = .next t) : t.Ordered := by
  unfold step at h
  split at h
  · cases h
    exact idle_ordered hs
  · exact exec_orders _ (Ordered.of_eq (s := s) hs) t h

/-- Settles O7: every operation keeps the two tables in order, and the reset state has them empty. -/
theorem stepKeepsTablesRising : Obligations.StepKeepsTablesRising := by
  unfold Obligations.StepKeepsTablesRising
  intro _ s s' ⟨doms, reqs⟩ h
  obtain ⟨doms', reqs'⟩ := step_ordered ⟨doms, reqs⟩ h
  exact ⟨doms', reqs'⟩

end Sys2Proof.Machine
end

section
/-! SUPPORT. What the operations that outlive the fatal report keep: the report itself, and the commands that wait. One lemma an operation, named after it. -/

set_option Elab.async false

namespace Sys2Proof.Machine

/-- The device has reported fatal, and the commands `cs` wait. -/
def State.Fatal (s : State) (cs : List Instr) : Prop := s.flt.fatal = true ∧ s.pending = cs

namespace State

variable {s t : State} {cs : List Instr}

/-- An update of other fields. -/
theorem Fatal.of_eq (h : s.Fatal cs) (e : t.flt.fatal = s.flt.fatal := by rfl) (p : t.pending = s.pending := by rfl) :
    t.Fatal cs :=
  ⟨e.trans h.1, p.trans h.2⟩

theorem Fatal.ite {c : Prop} [Decidable c] (hs : s.Fatal cs) (ht : t.Fatal cs) : (if c then s else t).Fatal cs := by
  split
  · exact hs
  · exact ht

theorem Fatal.ite_snd {β : Type} {c : Prop} [Decidable c] {p q : β × State} (hp : p.2.Fatal cs) (hq : q.2.Fatal cs) :
    (if c then p else q).2.Fatal cs := by
  split
  · exact hp
  · exact hq

/-- A run over a list whose every step keeps it. -/
theorem Fatal.foldl {α : Type} {f : State → α → State} {l : List α} (h : s.Fatal cs)
    (hf : ∀ s a, s.Fatal cs → (f s a).Fatal cs) : (l.foldl f s).Fatal cs := by
  induction l generalizing s with
  | nil => exact h
  | cons a r ih => exact ih (hf s a h)

/-- A run over a list that carries a value beside the state. -/
theorem Fatal.foldl_fst {α β : Type} {f : State × β → α → State × β} {l : List α} {p : State × β} (h : p.1.Fatal cs)
    (hf : ∀ p a, p.1.Fatal cs → (f p a).1.Fatal cs) : (l.foldl f p).1.Fatal cs := by
  induction l generalizing p with
  | nil => exact h
  | cons a r ih => exact ih (hf p a h)

theorem Fatal.foldl_snd {α β : Type} {f : β × State → α → β × State} {l : List α} {p : β × State} (h : p.2.Fatal cs)
    (hf : ∀ p a, p.2.Fatal cs → (f p a).2.Fatal cs) : (l.foldl f p).2.Fatal cs := by
  induction l generalizing p with
  | nil => exact h
  | cons a r ih => exact ih (hf p a h)

theorem Fatal.of_fst {β : Type} {p : State × β} {b : β} (h : p.1.Fatal cs) (e : p = (t, b)) : t.Fatal cs := by
  subst e; exact h

theorem Fatal.of_snd {β : Type} {p : β × State} {b : β} (h : p.2.Fatal cs) (e : p = (b, t)) : t.Fatal cs := by
  subst e; exact h

theorem Fatal.of_snd_snd {β γ : Type} {p : β × γ × State} {b : β} {c : γ} (h : p.2.2.Fatal cs) (e : p = (b, c, t)) : t.Fatal cs := by
  subst e; exact h

/-! ### The operations -/

theorem setEv_fatal {s : State} {e : Nat} {r : EventReg} (hs : s.Fatal cs) : (s.setEv e r).Fatal cs :=
  hs.of_eq

theorem setDom_fatal {s : State} {d : Nat} {x : Domain} (hs : s.Fatal cs) : (s.setDom d x).Fatal cs :=
  hs.of_eq

theorem setGroup_fatal {s : State} {g : Nat} {x : Group} (hs : s.Fatal cs) : (s.setGroup g x).Fatal cs :=
  hs.of_eq

theorem setQuad_fatal {s : State} {k : Nat} {x : Quadrant} (hs : s.Fatal cs) : (s.setQuad k x).Fatal cs :=
  hs.of_eq

theorem setCtx_fatal {s : State} {c : Nat} {x : Context} (hs : s.Fatal cs) : (s.setCtx c x).Fatal cs :=
  hs.of_eq

theorem setStack_fatal {s : State} {k : Nat} {x : Stack} (hs : s.Fatal cs) : (s.setStack k x).Fatal cs :=
  hs.of_eq

theorem setPc_fatal {s : State} {g : Nat} {x : Pc} (hs : s.Fatal cs) : (s.setPc g x).Fatal cs :=
  hs.of_eq

theorem setRzLink_fatal {s : State} {l : Nat} {x : Link} (hs : s.Fatal cs) : (s.setRzLink l x).Fatal cs :=
  hs.of_eq

theorem setEngine_fatal {s : State} {e : Nat} {x : MediaEngine} (hs : s.Fatal cs) : (s.setEngine e x).Fatal cs :=
  hs.of_eq

theorem setPort_fatal {s : State} {p : Nat} {x : Port} (hs : s.Fatal cs) : (s.setPort p x).Fatal cs :=
  hs.of_eq

theorem setQueue_fatal {s : State} {c q : Nat} {x : Queue} (hs : s.Fatal cs) : (s.setQueue c q x).Fatal cs :=
  setCtx_fatal hs

theorem pump_fatal {s : State} (hs : s.Fatal cs) : s.pump.Fatal cs := by
  unfold pump
  split
  · extract_lets
    exact hs.of_eq
  · exact hs

theorem send_fatal {s : State} {m : OutMsg} (hs : s.Fatal cs) : (s.send m).Fatal cs := by
  unfold send
  split
  · exact pump_fatal (hs.of_eq)
  · exact hs

theorem emit_fatal {s : State} {m : OutMsg} (hs : s.Fatal cs) : (s.emit m).Fatal cs :=
  hs.of_eq

theorem emitFlits_fatal {s : State} {m : OutMsg} {n : Nat} (hs : s.Fatal cs) : (s.emitFlits m n).Fatal cs :=
  hs.of_eq

theorem sendNet_fatal {s : State} {m : NetMsg} (hs : s.Fatal cs) : (s.sendNet m).Fatal cs :=
  hs.of_eq

theorem releaseNet_fatal {s : State} (hs : s.Fatal cs) : s.releaseNet.Fatal cs :=
  hs.of_eq

theorem evalEvent_fatal {s : State} {e : Nat} (hs : s.Fatal cs) : (s.evalEvent e).Fatal cs := by
  unfold evalEvent
  extract_lets _ _ _ s1
  have h_s1 : s1.Fatal cs := setEv_fatal hs
  split
  · exact hs
  · exact send_fatal h_s1

theorem raiseEv_fatal {s : State} {e b : Nat} (hs : s.Fatal cs) : (s.raiseEv e b).Fatal cs :=
  evalEvent_fatal (setEv_fatal hs)

theorem lineAccess_fatal {s : State} {f l : Nat} {write alloc : Bool} (hs : s.Fatal cs) : (s.lineAccess f l write alloc).Fatal cs := by
  unfold lineAccess
  split
  · exact hs
  · extract_lets
    split
    · exact hs.of_eq
    · split
      · exact hs
      · exact hs.of_eq

theorem dirtied_fatal {s : State} {k n : Nat} (hs : s.Fatal cs) : (s.dirtied k n).Fatal cs := by
  unfold dirtied
  split
  · exact hs
  · refine Fatal.foldl hs ?_
    intro s1 a1 h1
    extract_lets
    exact lineAccess_fatal h1

theorem writeBack_fatal {s : State} {ok : Nat → Bool} (hs : s.Fatal cs) : (s.writeBack ok).Fatal cs :=
  hs.of_eq

theorem writeAt_fatal {s : State} {ptn die a : Nat} {b : Byte} (hs : s.Fatal cs) : (s.writeAt ptn die a b).Fatal cs := by
  unfold writeAt
  split
  · exact hs.of_eq
  · exact hs

theorem writeBytes_fatal {s : State} {ptn die a : Nat} {l : List Byte} (hs : s.Fatal cs) : (s.writeBytes ptn die a l).Fatal cs := by
  induction l generalizing s a with
  | nil => exact hs
  | cons b r ih => exact ih (writeAt_fatal hs)

theorem storeBytes_fatal {s : State} {ptn a : Nat} {l : List Byte} (hs : s.Fatal cs) : (s.storeBytes ptn a l).Fatal cs := by
  unfold storeBytes
  extract_lets s1
  have h_s1 : s1.Fatal cs := writeBytes_fatal hs
  split
  · refine Fatal.foldl h_s1 ?_
    intro s1 a1 h1
    split
    · extract_lets
      exact dirtied_fatal h1
    · exact h1
  · exact h_s1

theorem fwWrite_fatal {s : State} {a : Nat} {l : List Byte} (hs : s.Fatal cs) : (s.fwWrite a l).Fatal cs :=
  storeBytes_fatal hs

theorem fresh_fatal {s : State} {w : Nat} (hs : s.Fatal cs) : (s.fresh w).2.Fatal cs :=
  hs.of_eq

theorem tickAll_fatal {s : State} (hs : s.Fatal cs) : (tickAll s).Fatal cs :=
  hs

theorem modFault_fatal {s : State} {id : Nat} {f : FaultRecord → FaultRecord} (hs : s.Fatal cs) : (s.modFault id f).Fatal cs :=
  hs

theorem hostMessages_fatal {s : State} {h : Nat} {l : List Byte} {fuel : Nat} (hs : s.Fatal cs) :
    (s.hostMessages h l fuel).Fatal cs := by
  induction fuel generalizing s h l with
  | zero => exact hs
  | succ fuel ih => exact Fatal.ite hs (ih (send_fatal hs))

theorem post_fatal {s : State} {a : Nat} {l : List Byte} (hs : s.Fatal cs) : (s.post a l).Fatal cs := by
  unfold post
  split
  · split
    · exact hostMessages_fatal (fwWrite_fatal hs)
    · exact hs
  · exact fwWrite_fatal hs

theorem putRecord_fatal {s : State} {c q : Nat} {l : List Byte} (hs : s.Fatal cs) : (s.putRecord c q l).Fatal cs := by
  unfold putRecord
  extract_lets _ s1 _
  have h_s1 : s1.Fatal cs := post_fatal hs
  split
  · exact hs
  · exact setQueue_fatal h_s1

theorem modCmd_fatal {s : State} {c q : Nat} {idx : Word} {f : Cmd → Cmd} (hs : s.Fatal cs) : (s.modCmd c q idx f).Fatal cs :=
  setQueue_fatal hs

theorem answer_fatal {s : State} {c q : Nat} {idx : Word} {st : Status} (hs : s.Fatal cs) : (s.answer c q idx st).Fatal cs :=
  modCmd_fatal hs

theorem unbind_fatal {s : State} {c q : Nat} {idx : Word} (hs : s.Fatal cs) : (s.unbind c q idx).Fatal cs :=
  hs.of_eq

theorem putWords_fatal {s : State} {c q : Nat} {lo : Word} {ws : List Nat} (hs : s.Fatal cs) : (s.putWords c q lo ws).Fatal cs :=
  setQueue_fatal (Fatal.foldl hs (fun _ _ h1 => (Fatal.ite h1 (post_fatal h1))))

theorem patchQueues_fatal {s : State} {c : Nat} (hs : s.Fatal cs) : (s.patchQueues c).Fatal cs := by
  unfold patchQueues
  extract_lets
  refine Fatal.foldl hs ?_
  intro s1 a1 h1
  extract_lets
  split
  · exact h1
  · exact putWords_fatal h1

theorem setChan_fatal {s : State} {i : Nat} {ch : Channel} (hs : s.Fatal cs) : (s.setChan i ch).Fatal cs :=
  hs.of_eq

theorem jobAfter_fatal {s : State} {j : Nat} (hs : s.Fatal cs) : (s.jobAfter j).Fatal cs := by
  unfold jobAfter
  split
  · split
    · split
      · exact hs
      · extract_lets s1
        have h_s1 : s1.Fatal cs := hs.of_eq
        exact post_fatal h_s1
    · split
      · exact hs.of_eq
      · exact hs
  · exact hs

theorem chanClosed_fatal {s : State} {i : Nat} (hs : s.Fatal cs) : (s.chanClosed i).Fatal cs := by
  unfold chanClosed
  split
  · extract_lets _ s1 s2
    have h_s1 : s1.Fatal cs := hs.of_eq
    have h_s2 : s2.Fatal cs := by
      unfold s2
      split
      · exact post_fatal h_s1
      · exact h_s1
    exact jobAfter_fatal h_s2
  · exact hs

theorem chanAfter_fatal {s : State} {i : Nat} (hs : s.Fatal cs) : (s.chanAfter i).Fatal cs := by
  unfold chanAfter
  split
  · split
    · extract_lets
      split
      · exact chanClosed_fatal (setChan_fatal hs)
      · exact setChan_fatal hs
    · exact hs
  · exact hs

theorem modChan_fatal {s : State} {i : Nat} {f : Channel → Channel} (hs : s.Fatal cs) : (s.modChan i f).Fatal cs := by
  unfold modChan
  split
  · exact chanAfter_fatal (setChan_fatal hs)
  · exact hs

theorem sliceReset_fatal {s : State} {die : Nat} (hs : s.Fatal cs) : (s.sliceReset die).Fatal cs := by
  unfold sliceReset
  extract_lets _ _ s1
  have h_s1 : s1.Fatal cs := Fatal.foldl hs (fun _ _ h1 => (modChan_fatal h1))
  split
  · exact raiseEv_fatal h_s1
  · exact h_s1

theorem logStore_fatal {s : State} {p : Nat} {l : List Byte} (hs : s.Fatal cs) : (s.logStore p l).Fatal cs := by
  unfold logStore
  extract_lets
  split
  · exact dirtied_fatal (hs.of_eq)
  · exact hs

theorem logPut_fatal {s : State} {ty st fl step : Nat} {body : List Byte} (hs : s.Fatal cs) : (s.logPut ty st fl step body).Fatal cs := by
  unfold logPut
  split
  · exact hs
  · split
    · exact hs
    · extract_lets _ _ _ _ _ s1 _ s2 _ s3 _
      have h_s1 : s1.Fatal cs := Fatal.ite (hs.of_eq) (logStore_fatal hs)
      have h_s2 : s2.Fatal cs := Fatal.ite (sendNet_fatal h_s1) (Fatal.ite h_s1 (h_s1.of_eq))
      have h_s3 : s3.Fatal cs := h_s2.of_eq
      split
      · exact raiseEv_fatal (h_s3.of_eq)
      · exact h_s3

theorem logRelease_fatal {s : State} {giveUp : Bool} (hs : s.Fatal cs) : (s.logRelease giveUp).Fatal cs := by
  unfold logRelease
  split
  · exact hs
  · extract_lets _ s1 _ s2 _
    have h_s1 : s1.Fatal cs := Fatal.foldl hs (fun _ _ h1 => (logStore_fatal h1))
    have h_s2 : s2.Fatal cs := h_s1.of_eq
    exact h_s2.of_eq

theorem heldRelease_fatal {s : State} {ok : Nat → Bool} (hs : s.Fatal cs) : (s.heldRelease ok).Fatal cs := by
  unfold heldRelease
  extract_lets _ s1 _
  have h_s1 : s1.Fatal cs := Fatal.foldl hs (fun _ _ h1 => (dirtied_fatal h1))
  exact h_s1.of_eq

theorem clearWp_fatal {s : State} {ptn : Nat} (hs : s.Fatal cs) : (s.clearWp ptn).Fatal cs := by
  unfold clearWp
  extract_lets _ s1
  have h_s1 : s1.Fatal cs := hs.of_eq
  exact heldRelease_fatal h_s1

theorem ckptRecord_fatal {s : State} (hs : s.Fatal cs) : s.ckptRecord.Fatal cs :=
  logPut_fatal hs

theorem ckptEnd_fatal {s : State} {failed : Bool} (hs : s.Fatal cs) : (s.ckptEnd failed).Fatal cs := by
  unfold ckptEnd
  split
  · extract_lets _ s1 s2
    have h_s1 : s1.Fatal cs := hs.of_eq
    have h_s2 : s2.Fatal cs := by
      unfold s2
      split
      · exact clearWp_fatal h_s1
      · exact h_s1
    exact raiseEv_fatal (ckptRecord_fatal (Fatal.ite (logRelease_fatal h_s2) h_s2))
  · exact hs

theorem portTo_fatal {s : State} {p state : Nat} (hs : s.Fatal cs) : (s.portTo p state).Fatal cs := by
  unfold portTo
  extract_lets _ s1
  have h_s1 : s1.Fatal cs := setPort_fatal hs
  exact releaseNet_fatal (Fatal.foldl h_s1 (fun _ _ h1 => (Fatal.ite h1 (sendNet_fatal h1))))

theorem starved_fatal {s : State} {site : Arbiter} {req holder : Nat} (hs : s.Fatal cs) : (s.starved site req holder).Fatal cs := by
  unfold starved
  split
  · extract_lets
    exact raiseEv_fatal (Fatal.ite hs (setStack_fatal hs))
  · extract_lets
    exact raiseEv_fatal (Fatal.ite hs (hs.of_eq))
  · extract_lets
    exact raiseEv_fatal (Fatal.ite hs (hs.of_eq))
  · extract_lets
    exact raiseEv_fatal (Fatal.ite hs (hs.of_eq))

theorem rzPump_fatal {s : State} {l : Nat} {high : Bool} {fuel : Nat} (hs : s.Fatal cs) : (s.rzPump l high fuel).Fatal cs := by
  induction fuel generalizing s with
  | zero => exact hs
  | succ fuel ih =>
    unfold rzPump
    refine Fatal.ite hs ?_
    split
    · exact hs
    · refine ih ?_
      split
      · exact starved_fatal (setRzLink_fatal hs)
      · exact setRzLink_fatal hs

theorem rzPumpAll_fatal {s : State} (hs : s.Fatal cs) : s.rzPumpAll.Fatal cs := by
  unfold rzPumpAll
  refine Fatal.foldl hs ?_
  intro s1 a1 h1
  extract_lets s1'
  have h_s1' : s1'.Fatal cs := rzPump_fatal h1
  exact rzPump_fatal h_s1'

theorem freeEngine_fatal {s : State} {c q : Nat} {idx : Word} (hs : s.Fatal cs) : (s.freeEngine c q idx).Fatal cs :=
  hs.of_eq

theorem idleArrays_fatal {s : State} {c : Nat} (hs : s.Fatal cs) : (s.idleArrays c).Fatal cs :=
  hs.of_eq

theorem teacherBack_fatal {s : State} {c : Nat} {places : List BlockMark} (hs : s.Fatal cs) : (s.teacherBack c places).Fatal cs := by
  unfold teacherBack
  extract_lets _ _ _ s1 _ s2 s3
  have h_s1 : s1.Fatal cs := idleArrays_fatal hs
  have h_s2 : s2.Fatal cs := setCtx_fatal h_s1
  have h_s3 : s3.Fatal cs := Fatal.ite h_s2 (patchQueues_fatal (post_fatal h_s2))
  split
  · exact hs
  · refine Fatal.foldl h_s3 ?_
    intro s1 a1 h1
    split
    · extract_lets
      exact setChan_fatal h1
    · exact h1

theorem teachersBack_fatal {s : State} {chans : List Nat} (hs : s.Fatal cs) : (s.teachersBack chans).Fatal cs :=
  Fatal.foldl hs (fun _ _ h1 => (teacherBack_fatal h1))

theorem testFinal_fatal {s : State} {a : Nat} {st : Status} {detail : Nat} (hs : s.Fatal cs) : (s.testFinal a st detail).Fatal cs :=
  post_fatal hs

theorem testInterim_fatal {s : State} {a : Nat} {st : Status} {place : Nat} (hs : s.Fatal cs) : (s.testInterim a st place).Fatal cs :=
  post_fatal hs

theorem setTests_fatal {s : State} {c : Nat} {l : List TestReq} (hs : s.Fatal cs) : (s.setTests c l).Fatal cs :=
  hs.of_eq

theorem testShow_fatal {s : State} {c fuel : Nat} (hs : s.Fatal cs) : (s.testShow c fuel).Fatal cs := by
  induction fuel generalizing s with
  | zero => exact hs
  | succ fuel ih =>
    unfold testShow
    split
    · exact hs
    · refine Fatal.ite (Fatal.foldl hs fun _ _ h => testInterim_fatal h) (Fatal.ite ?_ ?_)
      · exact ih (raiseEv_fatal (testFinal_fatal (setTests_fatal hs)))
      · exact Fatal.foldl (Fatal.ite (testInterim_fatal hs) hs) fun _ _ h => testInterim_fatal h

theorem engineYield_fatal {s : State} {e : Nat} (hs : s.Fatal cs) : (s.engineYield e).Fatal cs := by
  unfold engineYield
  extract_lets _ s1
  have h_s1 : s1.Fatal cs := Fatal.ite (hs.of_eq) hs
  exact setEngine_fatal h_s1

theorem returnTarget_fatal {s : State} {ty t : Nat} (hs : s.Fatal cs) : (s.returnTarget ty t).Fatal cs := by
  unfold returnTarget
  split
  · exact setQuad_fatal hs
  · exact setPc_fatal hs
  · extract_lets
    exact rzPumpAll_fatal (setRzLink_fatal hs)
  · exact setEngine_fatal hs
  · split
    · exact portTo_fatal hs
    · exact hs

theorem brokenOff_fatal {s : State} {h : TestReq} {c : Nat} (hs : s.Fatal cs) : (s.brokenOff h c).2.Fatal cs := by
  unfold brokenOff
  extract_lets f m k
  have h_f : f.2.Fatal cs := fresh_fatal hs
  have h_m : m.2.Fatal cs := fresh_fatal h_f
  have h_k : k.2.Fatal cs := fresh_fatal h_m
  exact h_k

theorem testAbort_fatal {s : State} {hit : Nat → Nat → Bool} (hs : s.Fatal cs) : (s.testAbort hit).Fatal cs := by
  unfold testAbort
  refine Fatal.foldl hs ?_
  intro s1 a1 h1
  split
  · exact h1
  · split
    · extract_lets b s'
      have h_b : b.2.Fatal cs := brokenOff_fatal h1
      have h_s' : s'.Fatal cs := Fatal.ite h1 (post_fatal h_b)
      exact testShow_fatal (testFinal_fatal (setTests_fatal (returnTarget_fatal h_s')))
    · exact h1

theorem shuffleReset_fatal {s : State} (hs : s.Fatal cs) : s.shuffleReset.Fatal cs :=
  hs.of_eq

theorem lowerGrant_fatal {s : State} {lvl g : Nat} (hs : s.Fatal cs) : (s.lowerGrant lvl g).Fatal cs := by
  unfold lowerGrant
  extract_lets
  split
  · exact hs
  · exact raiseEv_fatal (setGroup_fatal hs)

theorem demote_fatal {s : State} (hs : s.Fatal cs) : s.demote.Fatal cs :=
  Fatal.foldl hs (fun _ _ h1 => (Fatal.foldl h1 (fun _ _ h2 => (lowerGrant_fatal h2))))

theorem raiseGrant_fatal {s : State} {lvl g : Nat} (hs : s.Fatal cs) : (s.raiseGrant lvl g).Fatal cs := by
  unfold raiseGrant
  extract_lets
  split
  · exact setGroup_fatal hs
  · exact hs

theorem moveRails_fatal {s : State} (hs : s.Fatal cs) : s.moveRails.Fatal cs := by
  unfold moveRails
  refine Fatal.foldl hs ?_
  intro s1 a1 h1
  extract_lets
  exact setGroup_fatal h1

theorem evaluate_fatal {s : State} (hs : s.Fatal cs) : s.evaluate.Fatal cs := by
  unfold evaluate
  extract_lets s1 s2 s3 s4 s5
  have h_s1 : s1.Fatal cs := by
    unfold s1
    refine Fatal.foldl hs ?_
    intro s1 a1 h1
    extract_lets
    split
    · exact setGroup_fatal h1
    · exact h1
  have h_s2 : s2.Fatal cs := demote_fatal h_s1
  have h_s3 : s3.Fatal cs := Fatal.foldl h_s2 (fun _ _ h1 => (raiseGrant_fatal h1))
  have h_s4 : s4.Fatal cs := Fatal.ite h_s3 (Fatal.foldl h_s3 (fun _ _ h1 => (raiseGrant_fatal h1)))
  have h_s5 : s5.Fatal cs := Fatal.ite h_s4 (Fatal.foldl h_s4 (fun _ _ h1 => (raiseGrant_fatal h1)))
  exact moveRails_fatal h_s5

theorem lowerCeil_fatal {s : State} {g c : Nat} (hs : s.Fatal cs) : (s.lowerCeil g c).Fatal cs := by
  unfold lowerCeil
  extract_lets
  split
  · exact hs
  · exact raiseEv_fatal (setGroup_fatal hs)

theorem lowerCeils_fatal {s : State} {c : Nat} (hs : s.Fatal cs) : (s.lowerCeils c).Fatal cs :=
  Fatal.foldl hs (fun _ _ h1 => (lowerCeil_fatal h1))

theorem alert_fatal {s : State} (hs : s.Fatal cs) : s.alert.Fatal cs :=
  hs.of_eq

theorem setCkp_fatal {s : State} {k : Ckp} (hs : s.Fatal cs) : (s.setCkp k).Fatal cs :=
  hs.of_eq

theorem touchReg_fatal {s : State} {x1 : Reg} (hs : s.Fatal cs) : (s.touchReg x1).Fatal cs := by
  unfold touchReg
  split
  · exact hs.of_eq
  · exact modFault_fatal hs
  · exact hs

theorem readOne_fatal {s : State} {off size : Nat} (hs : s.Fatal cs) : (s.readOne off size).2.2.Fatal cs := by
  unfold readOne
  extract_lets
  split
  · exact hs
  · clear_value *
    split
    · exact hs
    · split
      · extract_lets
        exact hs
      · split
        · exact hs
        · extract_lets
          exact touchReg_fatal hs

theorem readWindow_fatal {s : State} {off size : Nat} (hs : s.Fatal cs) : (s.readWindow off size).2.2.Fatal cs := by
  unfold readWindow
  split
  · exact hs
  · split
    · exact readOne_fatal (readOne_fatal hs)
    · exact readOne_fatal hs

theorem updEnd_fatal {s : State} {st : Status} {detail : Nat} (hs : s.Fatal cs) : (s.updEnd st detail).Fatal cs := by
  unfold updEnd
  extract_lets
  split
  · exact hs
  · exact raiseEv_fatal (post_fatal (hs.of_eq))

theorem linkDrop_fatal {s : State} (hs : s.Fatal cs) : s.linkDrop.Fatal cs := by
  unfold linkDrop
  extract_lets s1 _
  have h_s1 : s1.Fatal cs := Fatal.foldl hs (fun _ _ h1 => (answer_fatal h1))
  exact h_s1.of_eq

theorem clearEvents_fatal {s : State} {d : Nat} (hs : s.Fatal cs) : (s.clearEvents d).Fatal cs :=
  hs.of_eq

theorem clearQuad_fatal {s : State} {k : Nat} (hs : s.Fatal cs) : (s.clearQuad k).Fatal cs := by
  unfold clearQuad
  extract_lets _ _ s1 _
  have h_s1 : s1.Fatal cs := setQuad_fatal hs
  exact h_s1.of_eq

theorem clearSram_fatal {s : State} {n : Nat} (hs : s.Fatal cs) : (s.clearSram n).Fatal cs := by
  unfold clearSram
  extract_lets _ s1 _ _ s2 _ _
  have h_s1 : s1.Fatal cs := Fatal.foldl hs (fun _ _ h1 => (answer_fatal h1))
  have h_s2 : s2.Fatal cs := h_s1.of_eq
  exact teachersBack_fatal (sliceReset_fatal (setStack_fatal h_s2))

theorem clearQueues_fatal {s : State} {n : Nat} (hs : s.Fatal cs) : (s.clearQueues n).Fatal cs := by
  unfold clearQueues
  refine Fatal.foldl hs ?_
  intro s1 a1 h1
  split
  · refine Fatal.foldl h1 ?_
    intro s2 a1 h2
    extract_lets _ s1' _
    have h_s1' : s1'.Fatal cs := by
      unfold s1'
      refine Fatal.foldl h2 ?_
      intro s3 a1 h3
      extract_lets t
      have h_t : t.Fatal cs := Fatal.ite h3 (putRecord_fatal h3)
      exact freeEngine_fatal (unbind_fatal h_t)
    split
    · exact h2
    · exact setQueue_fatal h_s1'
  · exact h1

theorem clearFabric_fatal {s : State} {n : Nat} (hs : s.Fatal cs) : (s.clearFabric n).Fatal cs := by
  unfold clearFabric
  extract_lets s1
  have h_s1 : s1.Fatal cs := hs.of_eq
  exact clearQueues_fatal h_s1

theorem clearMedia_fatal {s : State} {m : Nat} (hs : s.Fatal cs) : (s.clearMedia m).Fatal cs :=
  raiseEv_fatal (Fatal.foldl hs (fun _ _ h1 => (engineYield_fatal h1)))

theorem clearShuffle_fatal {s : State} (hs : s.Fatal cs) : s.clearShuffle.Fatal cs := by
  unfold clearShuffle
  extract_lets s1 _
  have h_s1 : s1.Fatal cs := shuffleReset_fatal hs
  exact h_s1.of_eq

theorem clearEdge_fatal {s : State} (hs : s.Fatal cs) : s.clearEdge.Fatal cs :=
  hs.of_eq

theorem clearHost_fatal {s : State} (hs : s.Fatal cs) : s.clearHost.Fatal cs := by
  unfold clearHost
  extract_lets s1 s2 _ _ _
  have h_s1 : s1.Fatal cs := Fatal.foldl (linkDrop_fatal hs) (fun _ _ h1 => (answer_fatal h1))
  have h_s2 : s2.Fatal cs := Fatal.foldl h_s1 (fun _ _ h1 => (post_fatal h1))
  exact h_s2.of_eq

theorem clearSupervisor_fatal {s : State} (hs : s.Fatal cs) : s.clearSupervisor.Fatal cs :=
  hs.of_eq

theorem clearDomain_fatal {s : State} {d : Nat} (hs : s.Fatal cs) : (s.clearDomain d).Fatal cs := by
  unfold clearDomain
  extract_lets s1 g x s2
  have h_s1 : s1.Fatal cs := clearEvents_fatal (testAbort_fatal hs)
  have h_s2 : s2.Fatal cs := setStack_fatal h_s1
  clear_value s2
  refine Fatal.ite ?group (Fatal.ite (Fatal.of_eq (s := s2) h_s2) ?rest)
  case group =>
    exact Fatal.ite (clearQuad_fatal h_s1) (Fatal.ite (clearSram_fatal h_s1) (Fatal.ite (clearFabric_fatal h_s1) h_s1))
  case rest =>
    exact Fatal.ite (clearShuffle_fatal h_s1) (Fatal.ite (clearMedia_fatal h_s1) (Fatal.ite (clearMedia_fatal h_s1)
      (Fatal.ite (clearEdge_fatal h_s1) (Fatal.ite (clearHost_fatal h_s1) (Fatal.ite (clearSupervisor_fatal h_s1)
        h_s1)))))

theorem losePower_fatal {s : State} {d : Nat} (hs : s.Fatal cs) : (s.losePower d).Fatal cs := by
  unfold losePower
  extract_lets s1 s2 _
  have h_s1 : s1.Fatal cs := clearDomain_fatal hs
  have h_s2 : s2.Fatal cs := Fatal.ite (h_s1.of_eq) h_s1
  exact setDom_fatal h_s2

theorem storeWear_fatal {s : State} (hs : s.Fatal cs) : s.storeWear.Fatal cs :=
  hs.of_eq

theorem inputLoss_fatal {s : State} (hs : s.Fatal cs) : s.inputLoss.Fatal cs := by
  unfold inputLoss
  split
  · exact hs
  · extract_lets _ _ s1 s2 _ _ s3 _
    have h_s1 : s1.Fatal cs := alert_fatal (raiseEv_fatal (hs.of_eq))
    have h_s2 : s2.Fatal cs := updEnd_fatal (testAbort_fatal (lowerCeils_fatal h_s1))
    have h_s3 : s3.Fatal cs := Fatal.ite (Fatal.ite (ckptEnd_fatal h_s2) (setCkp_fatal h_s2)) h_s2
    exact evaluate_fatal (logPut_fatal h_s3)

theorem holdStep_fatal {s : State} (hs : s.Fatal cs) : s.holdStep.Fatal cs := by
  unfold holdStep
  split
  · exact hs
  · extract_lets _ s1 _ _
    have h_s1 : s1.Fatal cs := Fatal.foldl (storeWear_fatal (writeBack_fatal hs)) (fun _ _ h1 => (losePower_fatal h1))
    exact h_s1.of_eq

theorem inputReturn_fatal {s : State} (hs : s.Fatal cs) : s.inputReturn.Fatal cs := by
  unfold inputReturn
  split
  · exact hs
  · have h : s.flt.fatal = true := hs.1
    rw [if_pos h]
    exact Fatal.of_eq (s := s.holdStep) (holdStep_fatal hs)

theorem plkRetrain_fatal {s : State} (hs : s.Fatal cs) : s.plkRetrain.Fatal cs := by
  unfold plkRetrain
  split
  · exact raiseEv_fatal (hs.of_eq)
  · exact hs

theorem clearFaults_fatal {s : State} (hs : s.Fatal cs) : s.clearFaults.Fatal cs :=
  hs.of_eq

theorem answerWord_fatal {s : State} {w : Nat} (hs : s.Fatal cs) : (s.answerWord w).Fatal cs :=
  emit_fatal hs

theorem statusAnswer_fatal {s : State} (hs : s.Fatal cs) : s.statusAnswer.Fatal cs := by
  unfold statusAnswer
  extract_lets f
  have h_f : f.2.Fatal cs := fresh_fatal hs
  exact answerWord_fatal h_f

theorem reading_fatal {s : State} {num den : Nat} (hs : s.Fatal cs) : (s.reading num den).Fatal cs :=
  answerWord_fatal hs

theorem sideRead_fatal {s : State} {off : Nat} (hs : s.Fatal cs) : (s.sideRead off).Fatal cs :=
  Fatal.ite (Fatal.ite (emit_fatal (readWindow_fatal hs)) (emit_fatal hs)) (emit_fatal hs)

theorem flashAccess_fatal {s : State} {op a : Nat} {l : List Byte} (hs : s.Fatal cs) : (s.flashAccess op a l).Fatal cs := by
  unfold flashAccess
  split
  · exact emit_fatal hs
  · split
    · exact emit_fatal hs
    · extract_lets
      exact emit_fatal (hs.of_eq)
    · exact emit_fatal (hs.of_eq)
    · exact emit_fatal hs

theorem freed_fatal {s : State} {cls n : Nat} (hs : s.Fatal cs) : (s.freed cls n).Fatal cs :=
  emitFlits_fatal hs

theorem malformed_fatal {s : State} {np : Bool} {tag : Nat} (hs : s.Fatal cs) : (s.malformed np tag).Fatal cs :=
  raiseEv_fatal (Fatal.ite (send_fatal hs) hs)

theorem regRd_fatal {s : State} {tag off size : Nat} (hs : s.Fatal cs) : (s.regRd tag off size).Fatal cs :=
  Fatal.ite hs (Fatal.ite (malformed_fatal hs) (Fatal.ite (send_fatal hs) (send_fatal (readWindow_fatal hs))))

/-- Only register reads are taken by a device that has reported fatal. -/
theorem message_fatal {s : State} {h : Nat} {slots : List QWord} (hs : s.Fatal cs) : (s.message h slots).Fatal cs := by
  unfold message
  extract_lets
  split
  · exact hs
  next other =>
    have read : fld h 5 0 = 3 := by
      by_contra n
      exact other ⟨hs.1, n⟩
    rw [read]
    exact freed_fatal (Fatal.ite (regRd_fatal hs) (malformed_fatal hs))

theorem messages_fatal {s : State} {fuel : Nat} (hs : s.Fatal cs) : (s.messages fuel).Fatal cs := by
  induction fuel generalizing s with
  | zero => exact hs
  | succ fuel ih =>
    unfold messages
    split
    · exact hs
    · exact Fatal.ite hs (ih (message_fatal hs.of_eq))

theorem plkAck_fatal {s : State} {ack : Nat} (hs : s.Fatal cs) : (s.plkAck ack).Fatal cs := by
  unfold plkAck
  extract_lets
  split
  · exact hs
  · exact hs.of_eq

theorem plkReplay_fatal {s : State} (hs : s.Fatal cs) : s.plkReplay.Fatal cs := by
  unfold plkReplay
  split
  · exact hs
  · split
    · exact plkRetrain_fatal hs
    · exact emitFlits_fatal (hs.of_eq)

theorem plkCredit_fatal {s : State} {cls n : Nat} (hs : s.Fatal cs) : (s.plkCredit cls n).Fatal cs :=
  hs.of_eq

theorem flit_fatal {s : State} {b : List Byte} (hs : s.Fatal cs) : (s.flit b).Fatal cs := by
  unfold flit
  split
  · exact hs
  · split
    · exact emitFlits_fatal (hs.of_eq)
    · extract_lets _ s1 s2 s3 _ _ s4
      have h_s1 : s1.Fatal cs := plkAck_fatal hs
      have h_s2 : s2.Fatal cs := Fatal.ite (plkReplay_fatal h_s1) h_s1
      have h_s3 : s3.Fatal cs := plkCredit_fatal h_s2
      have h_s4 : s4.Fatal cs := Fatal.ite (messages_fatal (emitFlits_fatal (h_s3.of_eq))) h_s3
      split
      · exact hs
      · exact pump_fatal h_s4

end State

open State

/-! ### The commands -/

/-- Every next state that an answer gives has reported fatal, and the same commands wait. -/
def StaysFatal (cs : List Instr) (o : Host.Outcome State Fault Refusal) : Prop := ∀ t, o = .next t → t.Fatal cs

variable {s : State} {cs : List Instr}

theorem staysFatal_done {t : State} (hs : s.Fatal cs) (ht : t.Fatal cs) : StaysFatal cs (done s t) := by
  rintro _ h
  cases h
  exact ⟨ht.1, hs.2⟩

/-- The commands that reset a device that has reported fatal. -/
def resetsFatal : Instr → Bool
  | .modRstN _ | .mfrReset _ | .holdupExhausted => true
  | _ => false

/-- A command that outlives the fatal report and resets nothing leaves it standing. -/
theorem exec_staysFatal {c : Instr} (h : resetsFatal c = false) (hs : s.Fatal cs) : StaysFatal cs (exec c s) := by
  by_cases out : outlivesFatal c = true
  case neg =>
    rw [exec_of_fatal (Bool.eq_false_of_not_eq_true out) hs.1]
    exact staysFatal_done hs hs
  cases c
  case modRstN | mfrReset | holdupExhausted => cases h
  case regRd => exact staysFatal_done hs (Fatal.ite (freed_fatal (regRd_fatal hs)) hs)
  case flitReceive => exact staysFatal_done hs (flit_fatal hs)
  case clearFaults => exact staysFatal_done hs (clearFaults_fatal hs)
  case statusWord => exact staysFatal_done hs (statusAnswer_fatal hs)
  case readVin | readIin | readTemperature1 | readTemperature2 | readTemperature3 | readPin =>
    exact staysFatal_done hs (reading_fatal hs)
  case mfrRegRead => exact staysFatal_done hs (sideRead_fatal hs)
  case mfrFlash => exact staysFatal_done hs (flashAccess_fatal hs)
  case inputLoss => exact staysFatal_done hs (inputLoss_fatal hs)
  case inputReturn => exact staysFatal_done hs (inputReturn_fatal hs)
  all_goals cases out

theorem idle_fatal (hs : s.Fatal cs) : s.idle.Fatal cs := holdStep_fatal (tickAll_fatal hs)

/-- Settles O5: of the commands that outlive the report only the three resets end it. -/
theorem fatalStateStands : Obligations.FatalStateStands := by
  unfold Obligations.FatalStateStands
  intro resets inv s s' ⟨fatal, kept⟩ h
  unfold step at h
  split at h
  next e =>
    cases h
    obtain ⟨fatal', e'⟩ := idle_fatal (cs := []) ⟨fatal, e⟩
    exact ⟨fatal', by simp [e']⟩
  next c rest e =>
    have first : resetsFatal c = false := kept c (by simp [e])
    obtain ⟨fatal', e'⟩ := exec_staysFatal (s := { s with pending := rest }) first ⟨fatal, rfl⟩ s' h
    exact ⟨fatal', fun c' m => kept c' (by simp_all)⟩

end Sys2Proof.Machine
end

section
/-! SUPPORT. Where a partition's pages lie, and when an event sends its INTR. -/

set_option Elab.async false

namespace Sys2Proof.Machine

theorem Partition.locate_eq_some {p : Partition} {v g f : Nat} (h : p.locate v = some (g, f)) :
    v < p.pages ∧ p.pcList[v % p.pcList.length]? = some g ∧ v / p.pcList.length = f := by
  unfold Partition.locate at h
  split at h
  next hv => simpa [hv] using h
  next => cases h

theorem Partition.pcList_nodup (p : Partition) : p.pcList.Nodup := List.nodup_range.filter _

/-- Settles O9: a page's place in the list of pseudo-channels and its frame are its remainder and its quotient by the list's length. -/
theorem partitionPagesAreApart : Obligations.PartitionPagesAreApart := by
  intro p v w g f hv
  obtain ⟨vIn, vPc, vFrame⟩ := Partition.locate_eq_some hv
  refine ⟨List.mem_of_getElem? vPc, ?_, fun hw => ?_⟩
  · rw [← vFrame]
    exact Nat.div_lt_of_lt_mul vIn
  · obtain ⟨-, wPc, wFrame⟩ := Partition.locate_eq_some hw
    obtain ⟨vLt, -⟩ := List.getElem?_eq_some_iff.mp vPc
    have same : v % p.pcList.length = w % p.pcList.length :=
      (List.getElem?_inj vLt p.pcList_nodup).mp (vPc.trans wPc.symm)
    calc v = p.pcList.length * (v / p.pcList.length) + v % p.pcList.length := (Nat.div_add_mod ..).symm
      _ = p.pcList.length * (w / p.pcList.length) + w % p.pcList.length := by rw [vFrame, wFrame, same]
      _ = w := Nat.div_add_mod ..

namespace State

variable {s : State} {e : Nat}

/-- An event whose latch is set, or that is held off, sends nothing. -/
theorem evalEvent_of_pending (h : (s.ev e).pending = true) : s.evalEvent e = s := if_pos (.inr (.inl h))

/-- An event with an enabled bit set, no latch and no hold-off, in a device that answers, sends its INTR and sets the latch. The
events 2, 3 and 12 are left out: their INTR carries more. -/
theorem evalEvent_of_enabled (plain : e ≠ 2 ∧ e ≠ 3 ∧ e ≠ 12) (enabled : (s.ev e).value &&& (s.ev e).enable ≠ 0)
    (clear : (s.ev e).pending = false) (free : (s.ev e).holding = false) (domOpen : s.isOpen (eventDomain e) = true)
    (supOpen : s.isOpen 78 = true) :
    s.evalEvent e =
      (s.setEv e { s.ev e with pending := true, holding := s.plk.version ≥ 1 && s.plk.holdoff > 0 }).send
        (.intr (eventOffset e) false 0 0 (s.ev e).value 0 s.supTime) := by
  obtain ⟨n2, n3, n12⟩ := plain
  unfold evalEvent
  simp [n2, n3, n12, enabled, clear, free, domOpen, supOpen]

theorem evalEvent_latches (plain : e ≠ 2 ∧ e ≠ 3 ∧ e ≠ 12) (up : s.linkUp = true)
    (enabled : (s.ev e).value &&& (s.ev e).enable ≠ 0)
    (clear : (s.ev e).pending = false) (free : (s.ev e).holding = false) (domOpen : s.isOpen (eventDomain e) = true)
    (supOpen : s.isOpen 78 = true) :
    ((s.evalEvent e).ev e).pending = true ∧
      (s.evalEvent e).sends (.intr (eventOffset e) false 0 0 (s.ev e).value 0 s.supTime) := by
  rw [evalEvent_of_enabled plain enabled clear free domOpen supOpen]
  exact ⟨by simp, send_sends _ _ up⟩

end State

/-- In service a command gives its effect, where that leaves the waiting commands and the variant. -/
theorem act_eq_next {s t : State} {f : State → State} (live : s.flt.fatal = false) (h : f s = t)
    (p : t.pending = s.pending := by rfl) (v : t.variant = s.variant := by rfl) : act s f = .next t := by
  rw [act_live s f live, h, ← p, ← v]

/-- Settles O14: `evalEvent` decides by the latch and the hold-off, and each of the three cases fixes both. -/
theorem interruptsAreLatched : Obligations.InterruptsAreLatched := by
  refine ⟨fun s e b n2 n3 n12 up domOpen supOpen enabled clear free => ?_, fun s e b pending => ?_,
    fun s e live n2 n3 n12 up domOpen supOpen enabled clear held => ?_⟩
  · have h := (s.setEv e { s.ev e with value := (s.ev e).value ||| 2 ^ b }).evalEvent_latches
      (e := e) ⟨n2, n3, n12⟩ up (by simpa using enabled) (by simpa using clear) (by simpa using free) domOpen supOpen
    rw [State.setEv_ev] at h
    exact h
  · exact State.evalEvent_of_pending (by simpa using pending)
  · have h := (s.setEv e { s.ev e with holding := false }).evalEvent_latches
      (e := e) ⟨n2, n3, n12⟩ up (by simpa using enabled) (by simpa using clear) (by simp) domOpen supOpen
    rw [State.setEv_ev] at h
    have eval : s.holdoffEnds e = (s.setEv e { s.ev e with holding := false }).evalEvent e := if_pos held
    obtain ⟨latched, sent⟩ := h
    refine ⟨_, act_eq_next live eval (by simp) (by simp), latched, by simp, sent, ?_⟩
    rw [State.evalEvent_eq]
    rfl

end Sys2Proof.Machine
end

section
/-! SUPPORT. Accesses to registers that the device serves (R7, R9), and to its event registers (R384). -/

set_option Elab.async false

namespace Sys2Proof.Machine
/-- A register that a device in service and past its boot serves: a register begins at `off`, of a present unit whose domain lets
accesses in. -/
structure ServedRegister (s : State) (off : Nat) (r : Reg) (wide : Bool) : Prop where
  live : s.flt.fatal = false
  booted : s.boot.state ≠ 4
  found : regAt off = some (r, wide)
  blockPresent : blockAbsent s.variant off = false
  regPresent : regAbsent s.variant r = false
  named : State.noRegister r = false
  lets : s.letsIn r = true

namespace ServedRegister
variable {s : State} {off size : Nat} {r : Reg} {wide : Bool}

theorem answers_eq (h : ServedRegister s off r wide) (write : Bool) : s.answers off write = true := by
  simp [State.answers, h.live, h.booted]

/-- A write of the register's width that the supervisor need not take is the register's write. -/
theorem writeOne_eq (h : ServedRegister s off r wide) (alone : State.supervised r = false) (fits : wide = true → size ≠ 4) (v : Nat) :
    s.writeOne off size v = s.writeReg r v := by
  have here : (some (r, wide)).filter (fun x => !State.noRegister x.1) = some (r, wide) := by simp [Option.filter, h.named]
  have whole : ¬ (wide = true ∧ size = 4) := fun ⟨w, four⟩ => fits w four
  simp [State.writeOne, h.found, here, h.answers_eq, h.blockPresent, h.regPresent, h.lets, alone, whole]

/-- A read of a register's whole width gives its value. -/
theorem readOne_eq (h : ServedRegister s off r wide) (fits : wide = true → size ≠ 4) :
    s.readOne off size = (.ok, if size = 4 then s.readReg r % 2 ^ 32 else s.readReg r, s.touchReg r) := by
  have whole : ¬ (size = 4 ∧ wide = true) := fun ⟨four, w⟩ => fits w four
  simp [State.readOne, h.found, h.named, h.answers_eq, h.blockPresent, h.regPresent, h.lets, whole]

end ServedRegister
/-! ### The registers of the statement -/

theorem writeRateWin (s : State) (v : Nat) : s.writeReg .glbRateWin v =
    (.ok, { s with sel := { s.sel with
      rateWin := if 10 ≤ v % 2 ^ 14 ∧ v % 2 ^ 14 ≤ 10000 then v % 2 ^ 14 else s.sel.rateWin } }) := by
  have field : fld v 13 0 = v % 2 ^ 14 := by simp [fld]
  simp only [State.writeReg, field, within, decide_eq_true_eq]
  split <;> rfl

theorem served_rateWin {s : State} (live : s.flt.fatal = false) (booted : s.boot.state ≠ 4) (supOpen : s.isOpen 78 = true) :
    ServedRegister s 0x900 .glbRateWin false :=
  ⟨live, booted, by decide, by cases s.variant <;> decide, rfl, rfl, supOpen⟩

theorem served_intPend {s : State} (live : s.flt.fatal = false) (booted : s.boot.state ≠ 4) (supOpen : s.isOpen 78 = true) :
    ServedRegister s 0x18 .glbIntPend true :=
  ⟨live, booted, by decide, by cases s.variant <;> decide, rfl, rfl, supOpen⟩

section
variable {s : State} {e : Nat} (live : s.flt.fatal = false) (booted : s.boot.state ≠ 4) (full : s.variant = .full) (he : e < 15)
  (domOpen : s.isOpen (eventDomain e) = true)
include live booted full he domOpen

theorem served_ev : ServedRegister s (eventOffset e) (.ev e) false := by
  have found : ∀ e < 15, regAt (eventOffset e) = some (.ev e, false) := by decide
  have present : ∀ e < 15, blockAbsent .full (eventOffset e) = false := by decide
  refine ⟨live, booted, found e he, full ▸ present e he, ?_, rfl, domOpen⟩
  simp only [regAbsent, if_pos (show e < 16 by omega)]

theorem served_evEn : ServedRegister s (eventOffset e + 4) (.evEn e) false := by
  have found : ∀ e < 15, regAt (eventOffset e + 4) = some (.evEn e, false) := by decide
  have present : ∀ e < 15, blockAbsent .full (eventOffset e + 4) = false := by decide
  refine ⟨live, booted, found e he, full ▸ present e he, ?_, rfl, domOpen⟩
  simp only [regAbsent, if_pos (show e < 16 by omega)]

end

/-- The bytes of a value depend on what they hold only. -/
theorem leBytes_mod (n v : Nat) : leBytes n (v % 2 ^ (8 * n)) = leBytes n v := by
  induction n generalizing v with
  | zero => rfl
  | succ n ih =>
    have split : 2 ^ (8 * (n + 1)) = 256 * 2 ^ (8 * n) := by rw [Nat.mul_succ, Nat.pow_add, Nat.mul_comm]
    have low : BitVec.ofNat 8 (v % (256 * 2 ^ (8 * n))) = BitVec.ofNat 8 v := by
      apply BitVec.eq_of_toNat_eq
      simp [BitVec.toNat_ofNat]
    rw [split, leBytes, leBytes, low, Nat.mod_mul_right_div_self, ih]

namespace State

variable {s : State} {e : Nat}

/-- What evaluating an event leaves: every other register, and of its own the value, the enables and the cause. -/
theorem evalEvent_ev_ne (s : State) {i : Nat} (h : i ≠ e) : (s.evalEvent e).ev i = s.ev i := by
  unfold evalEvent
  dsimp only
  split
  · rfl
  · rw [send_ev, setEv_ev_ne _ _ h]

theorem evalEvent_enable (s : State) (e : Nat) : ((s.evalEvent e).ev e).enable = (s.ev e).enable := by
  unfold evalEvent
  dsimp only
  split
  · rfl
  · rw [send_ev, setEv_ev]

end State

/-- The flit with credits is the last that is sent. -/
theorem State.flits_freed {s t : State} (h : t.out = s.out) (cls n : Nat) : s.flits (t.freed cls n) (.credits cls n) := by
  unfold State.flits State.freed State.emitFlits
  dsimp only
  rw [h]
  split
  · exact .inr (by simp)
  · exact .inl rfl

/-- Writing ones clears bits. -/
theorem exec_eventRegWrite_value {s : State} {e : Nat} (h : ServedRegister s (eventOffset e) (.ev e) false) (v : Nat) :
    ∃ t, exec (.eventRegWrite (eventOffset e) v) s = .next t ∧
        (t.ev e).value = (s.ev e).value - ((s.ev e).value &&& v) ∧ (t.ev e).enable = (s.ev e).enable ∧
        (∀ i, i ≠ e → t.ev i = s.ev i) ∧ t = { s with events := t.events, plk := t.plk, out := t.out } := by
  have write : s.hostWrite true (eventOffset e) v = s.writeEvent e v := by
    simp [State.hostWrite, h.found, h.writeOne_eq (size := 4) rfl (by simp), State.writeReg, State.took]
  refine ⟨_, act_eq_next (f := (State.hostWrite · true _ v)) h.live write (by simp [State.writeEvent]) (by simp [State.writeEvent]), ?_, ?_, fun i ne => ?_, ?_⟩
  · simp [State.writeEvent]
  · simp [State.writeEvent, State.evalEvent_enable]
  · simp [State.writeEvent, State.evalEvent_ev_ne, State.setEv_ev_ne, ne]
  · unfold State.writeEvent
    dsimp only
    rw [State.evalEvent_eq]
    rfl

theorem exec_eventRegWrite_enable {s : State} {e : Nat} (h : ServedRegister s (eventOffset e + 4) (.evEn e) false) (v : Nat) :
    ∃ t, exec (.eventRegWrite (eventOffset e + 4) v) s = .next t ∧
        (t.ev e).value = (s.ev e).value ∧ (t.ev e).enable = v &&& eventMask e ∧
        (∀ i, i ≠ e → t.ev i = s.ev i) ∧ t = { s with events := t.events, plk := t.plk, out := t.out } := by
  have write : s.hostWrite true (eventOffset e + 4) v = s.writeEnable e v := by
    simp [State.hostWrite, h.found, h.writeOne_eq (size := 4) rfl (by simp), State.writeReg, State.took]
  refine ⟨_, act_eq_next (f := (State.hostWrite · true _ v)) h.live write (by simp [State.writeEnable]) (by simp [State.writeEnable]), ?_, ?_, fun i ne => ?_, ?_⟩
  · simp [State.writeEnable]
  · simp [State.writeEnable, State.evalEvent_enable]
  · simp [State.writeEnable, State.evalEvent_ev_ne, State.setEv_ev_ne, ne]
  · unfold State.writeEnable
    rw [State.evalEvent_eq]
    rfl

/-- Settles O13: each access is to a register that the device serves, where it is the register's own read or write. -/
theorem registersAreReadAndWritten : Obligations.RegistersAreReadAndWritten := by
  refine ⟨fun s tag v live booted supOpen => ?writes, fun s tag live booted active linkOpen => ?reads,
    fun s e v live booted full he domOpen => ⟨exec_eventRegWrite_value (served_ev live booted full he domOpen) v,
      exec_eventRegWrite_enable (served_evEn live booted full he domOpen) v⟩⟩
  case writes =>
    have served := served_rateWin live booted supOpen
    have one : s.writeOne 0x900 4 v = _ := (served.writeOne_eq rfl (by simp) v).trans (writeRateWin s v)
    have window : s.writeWindow 0x900 4 v = ([(0x900, .ok)], (s.writeReg .glbRateWin v).2) := by
      simp [State.writeWindow, one, writeRateWin]
    intro w
    refine ⟨?_, fun active linkOpen => ⟨?_, fun version => ?_⟩⟩
    · refine ⟨_, act_eq_next live (f := (State.hostWrite · false 0x900 v)) (t := { s with sel := { s.sel with rateWin := w } }) ?_, rfl⟩
      simp [State.hostWrite, served.found, one, w]
    · rw [exec_regWr_active live active]
      have wr : s.regWr 0x900 4 v = { s with sel := { s.sel with rateWin := w } } := by
        simp [State.regWr, State.regMessage, linkOpen, window, writeRateWin, State.rejectAll, w]
      rw [wr]
      exact ⟨_, done_next .., State.flits_freed rfl 0 2, rfl⟩
    · rw [exec_regWra_active live active]
      have ne : s.plk.version ≠ 0 := by omega
      have wr : s.regWra tag 0x900 4 v = ({ s with sel := { s.sel with rateWin := w } } : State).send (.cpl tag .ok []) := by
        simp [State.regWra, State.regMessage, linkOpen, window, writeRateWin, ne, State.windowStatus, State.joinStatus, w]
      rw [wr]
      obtain ⟨t, e, sent, frame⟩ := State.done_answered (s := { s with sel := { s.sel with rateWin := w } }) active (.cpl tag .ok []) 1 1
      exact ⟨t, e, sent, frame⟩
  case reads =>
    refine ⟨fun supOpen => ?_, fun e he full domOpen => ?_⟩
    · have served := served_intPend live booted supOpen
      rw [exec_regRd_active active]
      have rd : s.regRd tag 0x18 8 = s.send (.cpl tag .ok (leBytes 8 (s.readReg .glbIntPend))) := by
        simp [State.regRd, live, State.regMessage, linkOpen, State.readWindow, State.twoHalves, served.found, served.readOne_eq,
          State.touchReg]
      rw [rd]
      exact State.done_answered active ..
    · have served := served_evEn live booted full he domOpen
      rw [exec_regRd_active active]
      have near : ∀ e < 15, State.regMessage (eventOffset e + 4) 4 = true ∧ eventOffset e % 4 = 0 := by decide
      obtain ⟨message, aligned⟩ := near e he
      have rd : s.regRd tag (eventOffset e + 4) 4 = s.send (.cpl tag .ok (leBytes 4 (s.ev e).enable)) := by
        simp [State.regRd, live, message, linkOpen, State.readWindow, State.twoHalves, aligned, served.readOne_eq, State.readReg,
          State.touchReg, ← leBytes_mod 4 (s.ev e).enable]
      rw [rd]
      exact State.done_answered active ..

end Sys2Proof.Machine
end

section
/-! SUPPORT. The rules of the queues' commands and of bytes stored through the cache: what a change of a command leaves, what marking
lines dirty leaves, and where the bytes of one page go. -/

set_option Elab.async false

namespace Sys2Proof.Machine

namespace State

variable {s : State}

/-! ### Commands of a queue -/

theorem queue_setQueue {c q : Nat} {x : Queue} (h : q < (s.ctx c).queues.length) : (s.setQueue c q x).queue c q = x := by
  simp [queue, setQueue, h]

/-- A queue that holds a command is one of its context's. -/
theorem queue_lt_of_cmd {c q : Nat} {idx : Word} {y : Cmd} (h : s.cmd c q idx = some y) : q < (s.ctx c).queues.length := by
  by_contra out
  have empty : s.queue c q = Queue.reset := List.getD_eq_default _ _ (Nat.le_of_not_lt out)
  rw [cmd, empty] at h
  cases h

theorem find?_map_index {l : List Cmd} {idx : Word} {f : Cmd → Cmd} (hf : ∀ y, (f y).index = y.index) :
    (l.map fun y => if y.index = idx then f y else y).find? (fun x => x.index == idx) =
      (l.find? fun x => x.index == idx).map f := by
  induction l with
  | nil => rfl
  | cons y r ih =>
    by_cases e : y.index = idx
    · simp [e, hf]
    · simpa [e] using ih

/-- A change of a command that keeps its index is found there. -/
theorem cmd_modCmd {c q : Nat} {idx : Word} {f : Cmd → Cmd} (hf : ∀ y, (f y).index = y.index) :
    (s.modCmd c q idx f).cmd c q idx = (s.cmd c q idx).map f := by
  by_cases h : q < (s.ctx c).queues.length
  · rw [cmd, modCmd, queue_setQueue h]
    exact find?_map_index hf
  · have none : s.cmd c q idx = none := by
      by_contra some
      obtain ⟨y, e⟩ := Option.ne_none_iff_exists'.mp some
      exact h (queue_lt_of_cmd e)
    have same : (s.modCmd c q idx f).queue c q = s.queue c q := by
      simp [modCmd, queue, setQueue, Nat.le_of_not_lt h]
    rw [cmd, same, none]
    exact none

/-- An answer is the result of the command it is given to. -/
theorem cmd_answer {c q : Nat} {idx : Word} {st : Status} {y : Cmd} (h : s.cmd c q idx = some y) :
    (s.answer c q idx st).cmd c q idx = some { y with result := some st } := by
  exact (cmd_modCmd (f := fun y => { y with result := some st }) fun _ => rfl).trans (by rw [h]; rfl)

theorem modCmd_eq (s : State) (c q : Nat) (idx : Word) (f : Cmd → Cmd) :
    s.modCmd c q idx f = { s with contexts := (s.modCmd c q idx f).contexts } := rfl

theorem answer_eq (s : State) (c q : Nat) (idx : Word) (st : Status) :
    s.answer c q idx st = { s with contexts := (s.answer c q idx st).contexts } := rfl

/-- A command is where its context is. -/
theorem cmd_congr {s t : State} (h : t.contexts = s.contexts) (c q : Nat) (idx : Word) : t.cmd c q idx = s.cmd c q idx := by
  simp only [cmd, queue, ctx, h]

/-! ### What sending leaves of the link -/

end State

/-- The link's state but for what sending a message changes: the flit and credit counts, and the messages that are on their way. -/
def Plk.still (p : Plk) : Plk :=
  { p with txNext := 0, sinceIdle := 0, creditPw := 0, creditNp := 0, creditMgt := 0, writes := [], waiting := [] }

theorem Pump.take_still (x : Pump) (m : OutMsg) : (x.take m).plk.still = x.plk.still := by
  unfold Pump.take
  extract_lets
  split <;> rfl

theorem Pump.takeAll_still (l : List OutMsg) (x : Pump) : (l.foldl Pump.take x).plk.still = x.plk.still := by
  induction l generalizing x with
  | nil => rfl
  | cons m r ih => exact (ih (x.take m)).trans (x.take_still m)

namespace State

variable {s : State}

theorem pump_still (s : State) : s.pump.plk.still = s.plk.still := by
  unfold pump
  split
  · exact Pump.takeAll_still ..
  · rfl

theorem send_still (s : State) (m : OutMsg) : (s.send m).plk.still = s.plk.still := by
  unfold send
  split
  · exact pump_still _
  · rfl

theorem evalEvent_still (s : State) (e : Nat) : (s.evalEvent e).plk.still = s.plk.still := by
  unfold evalEvent
  extract_lets
  split
  · rfl
  · exact send_still ..

theorem raiseEv_still (s : State) (e b : Nat) : (s.raiseEv e b).plk.still = s.plk.still := evalEvent_still ..

@[simp] theorem raiseEv_reads (s : State) (e b : Nat) : (s.raiseEv e b).plk.reads = s.plk.reads := by
  have h := congrArg Plk.reads (s.raiseEv_still e b)
  exact h

/-! ### Lines of the shared SRAM -/

theorem lineAccess_eq (s : State) (f l : Nat) (write alloc : Bool) :
    s.lineAccess f l write alloc = { s with lines := (s.lineAccess f l write alloc).lines } := by
  unfold lineAccess
  split
  · rfl
  · extract_lets
    split
    · rfl
    · split <;> rfl

/-- A run whose every step changes the lines only does too. -/
theorem foldl_lines {α : Type} {f : State → α → State} (hf : ∀ s a, f s a = { s with lines := (f s a).lines }) (l : List α) (s : State) :
    l.foldl f s = { s with lines := (l.foldl f s).lines } := by
  induction l generalizing s with
  | nil => rfl
  | cons a r ih =>
    rw [List.foldl_cons, ih (f s a), hf s a]

theorem dirtied_eq (s : State) (k n : Nat) : s.dirtied k n = { s with lines := (s.dirtied k n).lines } := by
  unfold dirtied
  split
  · rfl
  · exact foldl_lines (fun s i => lineAccess_eq ..) _ s

/-! ### Bytes within one page -/

theorem pagesOf_one {off n : Nat} (pos : 1 ≤ n) (fit : off % 65536 + n ≤ 65536) : pagesOf off n = [off / 65536] := by
  have same : (off + n - 1) / 65536 - off / 65536 = 0 := by omega
  simp [pagesOf, same, Nat.ne_of_gt pos]

theorem hbmKey_lt {f off : Nat} (hf : f < 2 ^ 40) : hbmKey f (off % 65536) < 2 ^ 60 := by
  unfold hbmKey
  omega

/-- Bytes for a frame whose pages are not write-protected for a checkpoint are stored at once. -/
theorem putKey_of_no_wp {k : Nat} (h : bitAt (s.attr (k / 65536)) 2 = false) (c q : Nat) (idx : Word) (l : List Byte) :
    s.putKey c q idx k l = ({ s with mem := s.mem.writeAll k l } : State).dirtied k l.length := by
  unfold putKey
  rw [if_neg (by simp [h])]

/-- A row that lies within one page is stored in one piece. -/
theorem putRow_one {row : RowAt} {off k : Nat} {l : List Byte} (hk : row off = some k) (fit : k % 65536 + l.length ≤ 65536)
    (pos : 1 ≤ l.length) (c q : Nat) (idx : Word) (fuel : Nat) :
    s.putRow c q idx row off l (fuel + 2) = s.putKey c q idx k l := by
  obtain ⟨b, r, rfl⟩ := List.exists_cons_of_length_pos pos
  have n : (if k < 2 ^ 60 then 65536 - k % 65536 else (b :: r).length) ≥ (b :: r).length := by
    split <;> omega
  simp only [putRow, hk, List.take_of_length_le n, List.drop_of_length_le n]

end State

end Sys2Proof.Machine
end

section
/-! SUPPORT. Accesses of the host to HBM, and the answers to the device's own accesses to host memory (R382, R383). -/

set_option Elab.async false

namespace Sys2Proof.Machine

/-- Bytes of one page of HBM that the host may reach: a live partition's page, in frame `f`, with no attributes set, on a
pseudo-channel that is in use and in open domains. -/
structure HostPage (s : State) (a ptn off f n : Nat) : Prop where
  parses : ∀ i < n, parseAddr (a + i) = .hbm ptn (off + i)
  pos : 1 ≤ n
  fit : off % 65536 + n ≤ 65536
  frame : s.pageFrame ptn (off / 65536) = some f
  plain : s.attr f = 0
  inUse : s.pcRetired (f / framesPerPc) = false
  short : f < 2 ^ 40
  stackOpen : s.isOpen (stackDomain (f / framesPerPc / 32)) = true
  sramOpen : s.isOpen (sramDomain (f / framesPerPc / 64)) = true

namespace HostPage

variable {s : State} {a ptn off f n : Nat}


theorem parse (h : HostPage s a ptn off f n) : parseAddr a = .hbm ptn off := h.parses 0 h.pos

/-- Its partition is live, and its frame lies in a pseudo-channel of it. -/
theorem located (h : HostPage s a ptn off f n) : ∃ p g fr, tget s.ptns ptn = some p ∧ p.locate (off / 65536) = some (g, fr) ∧
    frameNo g fr = f ∧ f / framesPerPc = g := by
  have frame := h.frame
  unfold State.pageFrame at frame
  split at frame
  next p hp =>
    obtain ⟨⟨g, fr⟩, loc, rfl⟩ := Option.map_eq_some_iff.mp frame
    obtain ⟨inPages, -, rfl⟩ := Partition.locate_eq_some loc
    have lt : off / 65536 / p.pcList.length < framesPerPc := Nat.div_lt_of_lt_mul inPages
    refine ⟨p, g, _, hp, loc, rfl, ?_⟩
    unfold frameNo
    rw [Nat.mul_comm, Nat.mul_add_div (by decide), Nat.div_eq_of_lt lt, Nat.add_zero]
  next => cases frame

theorem memStatus_eq (h : HostPage s a ptn off f n) (booted : s.boot.state ≠ 4) (linkOpen : s.isOpen 77 = true) (write : Bool) :
    s.memStatus a n write = .ok := by
  obtain ⟨p, g, fr, hp, loc, rfl, hg⟩ := h.located
  have inUse := h.inUse
  have stackOpen := h.stackOpen
  have sramOpen := h.sramOpen
  rw [hg] at inUse stackOpen sramOpen
  have ok : s.memOk a n write = true := by
    have clear : ∀ i, bitAt 0 i = false := fun i => by simp [bitAt]
    simp [State.memOk, h.parse, h.fit, hp, loc, h.plain, inUse, clear]
  have open_ : s.accessFenced 0 a n = none := by
    simp [State.accessFenced, State.accessDomains, h.parse, hp, State.pagesOf_one h.pos h.fit, loc, stackOpen, sramOpen]
  simp [State.memStatus, booted, linkOpen, ok, open_]

/-- Where a byte of the page lies. -/
theorem key_eq (h : HostPage s a ptn off f n) (c die : Nat) {i : Nat} (hi : i < n) :
    s.key c die (a + i) = some (hbmKey f (off % 65536) + i) := by
  have fit := h.fit
  have page : (off + i) / 65536 = off / 65536 := by omega
  rw [s.key_of_hbm c die (h.parses i hi), page, h.frame]
  have add : hbmKey f ((off + i) % 65536) = hbmKey f (off % 65536) + i := by unfold hbmKey; omega
  rw [Option.map_some, add]

/-- What is stored there: the bytes, and lines are marked dirty. -/
theorem putBytes_eq (h : HostPage s a ptn off f n) (c q : Nat) (idx : Word) (here die : Nat) {l : List Byte} (hl : l.length = n) :
    s.putBytes c q idx here die a l =
      ({ s with mem := s.mem.writeAll (hbmKey f (off % 65536)) l } : State).dirtied (hbmKey f (off % 65536)) l.length := by
  subst hl
  have first : s.key here die (a + 0) = some (hbmKey f (off % 65536)) := by rw [h.key_eq here die h.pos, Nat.add_zero]
  have inFrame : hbmKey f (off % 65536) / 65536 = f ∧ hbmKey f (off % 65536) % 65536 = off % 65536 := by
    unfold hbmKey
    omega
  obtain ⟨frame, place⟩ := inFrame
  have wp : bitAt (s.attr (hbmKey f (off % 65536) / 65536)) 2 = false := by rw [frame, h.plain]; rfl
  obtain ⟨m, hm⟩ := Nat.exists_eq_add_of_le' h.pos
  have whole := State.putRow_one (s := s) (row := fun off => s.key here die (a + off)) first (by rw [place]; exact h.fit) h.pos
    c q idx m
  rw [State.putKey_of_no_wp wp] at whole
  simp only [State.putBytes, h.parse]
  rwa [hm] at whole ⊢

theorem readBytes_eq (h : HostPage s a ptn off f n) (c die : Nat) :
    s.readBytes c die a n = s.mem.readAll (hbmKey f (off % 65536)) n := by
  refine List.map_congr_left fun i hi => ?_
  rw [State.readAt, h.key_eq c die (List.mem_range.mp hi)]

/-- Waking pseudo-channels leaves the page as it is. -/
theorem wake (h : HostPage s a ptn off f n) (sp : List Span) : HostPage (s.wake sp) a ptn off f n := { h with }

end HostPage

theorem memWr_stores {s : State} {a ptn off f : Nat} {l : List Byte} (h : HostPage s a ptn off f l.length) (live : s.flt.fatal = false)
    (active : s.plk.state = .active) (booted : s.boot.state ≠ 4) (linkOpen : s.isOpen 77 = true) (short : l.length ≤ 256) :
    ∃ t, exec (.memWr a l) s = .next t ∧
      (∀ i, (h : i < l.length) → t.mem.read (hbmKey f (off % 65536) + i) = l[i]) ∧
      (∀ k, k < hbmKey f (off % 65536) ∨ hbmKey f (off % 65536) + l.length ≤ k → t.mem.read k = s.mem.read k) ∧
      s.flits t (.credits 0 (1 + ceilDiv l.length 16)) ∧
      t = { s with
        mem := t.mem, lines := t.lines, pcs := t.pcs, plk := { s.plk with sinceIdle := t.plk.sinceIdle }, out := t.out } := by
  have pos := h.pos
  have size : ¬ (l.length = 0 ∨ 256 < l.length) := by omega
  have wr : s.arrives 0 (1 + ceilDiv l.length 16) (State.memWr · a l) =
      (({ s.memWake a l.length with mem := s.mem.writeAll (hbmKey f (off % 65536)) l } : State).dirtied
        (hbmKey f (off % 65536)) l.length).freed 0 (1 + ceilDiv l.length 16) := by
    rw [State.arrives_active active, State.memWr, if_neg size, h.memStatus_eq booted linkOpen]
    exact congrArg (State.freed · 0 _) ((h.wake _).putBytes_eq 0 State.memWriter 0 s.memPtn 0 rfl)
  rw [State.dirtied_eq] at wr
  refine ⟨_, act_eq_next (f := fun s => s.arrives 0 _ (State.memWr · a l)) live wr, fun i hi => Memory.read_writeAll _ _ _ hi,
    fun k hk => Memory.read_writeAll_ne _ _ hk, State.flits_freed rfl .., rfl⟩

theorem memRd_answers {s : State} {a ptn off f n : Nat} (h : HostPage s a ptn off f n) (live : s.flt.fatal = false)
    (active : s.plk.state = .active) (booted : s.boot.state ≠ 4) (linkOpen : s.isOpen 77 = true) (short : n ≤ 256) (tag : Nat) :
    ∃ t, exec (.memRd tag a n) s = .next t ∧
      t.sends (.cpl tag .ok (s.mem.readAll (hbmKey f (off % 65536)) n)) ∧ t = { s with pcs := t.pcs, plk := t.plk, out := t.out } := by
  have pos := h.pos
  have size : ¬ (n = 0 ∨ 256 < n) := by omega
  have rd : s.arrives 1 1 (State.memRd · tag a n) =
      ((s.memWake a n).send (.cpl tag .ok (s.mem.readAll (hbmKey f (off % 65536)) n))).freed 1 1 := by
    rw [State.arrives_active active, State.memRd, if_neg size, h.memStatus_eq booted linkOpen]
    exact congrArg (fun l => ((s.memWake a n).send (.cpl tag .ok l)).freed 1 1) (h.readBytes_eq s.memPtn 0)
  refine ⟨_, act_eq_next (f := fun s => s.arrives 1 1 (State.memRd · tag a n)) live rd ?_ ?_,
    State.sends_freed 1 1 (State.send_sends _ _ ?_), ?_⟩
  · rw [State.freed_eq, State.send_eq]; rfl
  · rw [State.freed_eq, State.send_eq]; rfl
  · simp [State.linkUp, State.memWake, State.wake, active]
  · rw [State.freed_eq, State.send_eq]; rfl

/-! ### Answers to the device's accesses -/

section
variable {s : State} {r : HostRead} (live : s.flt.fatal = false) (one : s.plk.reads = [r])
include live one

theorem cplReceive_stores (up : s.linkUp = true) {data : List Byte} (len : data.length = r.bytes) :
    ∃ t, exec (.cplReceive r.tag 0 data) s = .next t ∧ t.plk.reads = [] ∧
      (∀ i, (h : i < data.length) → t.mem.read (r.key + i) = data[i]) ∧
      (∀ k, k < r.key ∨ r.key + data.length ≤ k → t.mem.read k = s.mem.read k) ∧
      t = { s with mem := t.mem, lines := t.lines, plk := t.plk } := by
  have whole : slice data 0 r.bytes = data := by simp [slice, ← len, zeros]
  have taken : s.cplTaken r.tag 0 data =
      ({ s with plk := { s.plk with reads := [] }, mem := s.mem.writeAll r.key data } : State).dirtied r.key r.bytes := by
    simp [State.cplTaken, one, up, whole]
  rw [State.dirtied_eq] at taken
  exact ⟨_, act_eq_next (f := (State.cplTaken · _ _ _)) live taken, rfl, fun i hi => Memory.read_writeAll _ _ _ hi,
    fun k hk => Memory.read_writeAll_ne _ _ hk, rfl⟩

theorem cplReceive_fails (up : s.linkUp = true) {data : List Byte} {st : Nat} (fails : st ≠ 0) {y : Cmd}
    (hy : s.cmd r.ctx r.q r.idx = some y) :
    ∃ t, exec (.cplReceive r.tag st data) s = .next t ∧ t.plk.reads = [] ∧
      (t.cmd r.ctx r.q r.idx).map (·.result) = some (some .contextFault) := by
  have taken : s.cplTaken r.tag st data =
      ({ s with plk := { s.plk with reads := [] } } : State).answer r.ctx r.q r.idx .contextFault := by
    simp [State.cplTaken, one, up, fails]
  refine ⟨_, act_eq_next (f := (State.cplTaken · _ _ _)) live taken, rfl, ?_⟩
  rw [State.cmd_answer (s := { s with plk := { s.plk with reads := [] } }) hy]
  rfl

theorem hostRdTimeout_ends {y : Cmd} (hy : s.cmd r.ctx r.q r.idx = some y) :
    ∃ t, exec (.hostRdTimeout r.tag) s = .next t ∧ t.plk.reads = [] ∧ bitAt (t.ev evPlk).value 3 = true ∧
      (t.cmd r.ctx r.q r.idx).map (·.result) = some (some .domainReset) := by
  let f : State → State := fun s => match s.plk.reads.find? fun r' => r'.tag == r.tag with
    | none => s
    | some r =>
      let s1 := { s with plk := { s.plk with reads := s.plk.reads.filter fun h =>
        !(h.ctx == r.ctx && h.q == r.q && h.idx == r.idx) } }
      (s1.answer r.ctx r.q r.idx .domainReset).raiseEv evPlk 3
  have ended : f s = (({ s with plk := { s.plk with reads := [] } } : State).answer r.ctx r.q r.idx .domainReset).raiseEv evPlk 3 := by
    simp [f, one]
  refine ⟨_, act_eq_next (f := f) live ended ?_ ?_, ?_, ?_, ?_⟩
  · rw [State.raiseEv_eq]; rfl
  · rw [State.raiseEv_eq]; rfl
  · rw [State.raiseEv_reads]; rfl
  · rw [State.raiseEv_value, bitAt_or_two_pow_self]
  · rw [State.cmd_congr (s := ({ s with plk := { s.plk with reads := [] } } : State).answer r.ctx r.q r.idx .domainReset) (by simp),
      State.cmd_answer (s := { s with plk := { s.plk with reads := [] } }) hy]
    rfl

end

theorem hostWrAck_ends {s : State} {h : HostWrite} (live : s.flt.fatal = false) (one : s.plk.writes = [h]) :
    ∃ t, exec (.hostWrAck h.ident) s = .next t ∧ t.plk.writes = [] ∧ t = { s with plk := { s.plk with writes := [] } } := by
  refine ⟨{ s with plk := { s.plk with writes := [] } }, act_eq_next
    (f := fun s => { s with plk := { s.plk with writes := s.plk.writes.filter fun x => x.ident != h.ident } }) live ?_, rfl, rfl⟩
  simp [one]

theorem parseAddr_hbm_layout {ptn off : Nat} (inTable : ptn < 32) (inSpace : off < 2 ^ 48) :
    parseAddr (ptn * 2 ^ 48 + off) = .hbm ptn off := by
  rw [parseAddr_space_hbm (by omega), if_pos (by omega)]
  congr 1 <;> omega

theorem parseAddr_hbm_page {ptn off n : Nat} (inTable : ptn < 32) (inSpace : off < 2 ^ 48) (fit : off % 65536 + n ≤ 65536) :
    ∀ i < n, parseAddr (ptn * 2 ^ 48 + off + i) = .hbm ptn (off + i) := fun i hi => by
  rw [Nat.add_assoc]
  exact parseAddr_hbm_layout inTable (by omega)

/-- Settles O15: the bytes of one page go to one frame in one piece, and an answer ends the one access that waits for it. -/
theorem hostMemoryIsReached : Obligations.HostMemoryIsReached := by
  refine ⟨fun s tag ptn off f n l live active booted linkOpen inTable inSpace lPos lShort lFit nPos nShort nFit frame plain inUse
      short stackOpen sramOpen => ⟨?_, ?_⟩, fun s r data live up one len => ⟨?_, fun st y fails hy _ => ?_, fun y hy _ => ?_⟩,
    fun s h live one => hostWrAck_ends live one⟩
  · exact memWr_stores ⟨parseAddr_hbm_page inTable inSpace lFit, lPos, lFit, frame, plain, inUse, short, stackOpen, sramOpen⟩ live active booted linkOpen lShort
  · exact memRd_answers ⟨parseAddr_hbm_page inTable inSpace nFit, nPos, nFit, frame, plain, inUse, short, stackOpen, sramOpen⟩ live active booted linkOpen
      nShort tag
  · exact cplReceive_stores live one up len
  · exact cplReceive_fails live one up fails hy
  · exact hostRdTimeout_ends live one hy

end Sys2Proof.Machine
end

section
/-! SUPPORT. Flits (R376): what a flit with empty slots does. -/

set_option Elab.async false

namespace Sys2Proof.Machine

namespace State

variable {s : State}

/-- With no message waiting the pump sends nothing. -/
theorem pump_of_no_waiting (h : s.plk.waiting = []) : s.pump = s := by
  unfold pump
  split
  · rw [h]
    exact (congrArg (fun l => ({ s with plk := { s.plk with waiting := l } } : State)) h).symm
  · rfl

/-- An empty slot is no message. -/
theorem message_zero (slots : List QWord) (h : s.flt.fatal = false) : s.message 0 slots = s := by
  simp [message, h, fld]

/-- Empty slots are dropped. -/
theorem messages_zeros {fuel : Nat} (live : s.flt.fatal = false) (zero : ∀ x ∈ s.plk.rxSlots, x = 0)
    (enough : s.plk.rxSlots.length ≤ fuel) : s.messages fuel = { s with plk := { s.plk with rxSlots := [] } } := by
  induction fuel generalizing s with
  | zero =>
    have none : s.plk.rxSlots = [] := List.length_eq_zero_iff.mp (Nat.le_zero.mp enough)
    rw [messages, ← none]
  | succ fuel ih =>
    match e : s.plk.rxSlots with
    | [] =>
      rw [messages, e]
      exact congrArg (fun l => ({ s with plk := { s.plk with rxSlots := l } } : State)) e
    | x :: r =>
      rw [e] at zero enough
      obtain rfl : x = 0 := zero x (List.mem_cons_self ..)
      have drop : s.messages (fuel + 1) = ({ s with plk := { s.plk with rxSlots := r } } : State).messages fuel := by
        simp [messages, e, fld, message_zero, live]
      rw [drop]
      exact ih (s := { s with plk := { s.plk with rxSlots := r } }) live (fun y hy => zero y (List.mem_cons_of_mem _ hy))
        (Nat.le_of_succ_le_succ enough)

/-- The last flits that are sent. -/
theorem flits_emitFlits {t : State} (h : t.out = s.out) (m : OutMsg) (n : Nat) : s.flits (t.emitFlits m n) m := by
  unfold flits emitFlits
  dsimp only
  rw [h]
  split
  · exact .inr (by simp)
  · exact .inl rfl

theorem ite_add {p : Prop} [Decidable p] (a b : Nat) : (if p then a + b else a) = a + if p then b else 0 := by
  split <;> rfl

/-- What an acknowledgement and returned credits leave of the link, and the credits added. -/
theorem plkAck_plkCredit (s : State) (ack cls n : Nat) : ∃ p, (s.plkAck ack).plkCredit cls n = { s with plk := p } ∧
    p.rxNext = s.plk.rxNext ∧ p.rxSlots = s.plk.rxSlots ∧ p.waiting = s.plk.waiting ∧
    p.creditPw = s.plk.creditPw + (if cls = 0 then n else 0) ∧ p.creditNp = s.plk.creditNp + (if cls = 1 then n else 0) ∧
    p.creditMgt = s.plk.creditMgt + (if cls = 2 then n else 0) := by
  unfold plkAck plkCredit
  dsimp only
  split <;> exact ⟨_, rfl, rfl, rfl, rfl, ite_add .., ite_add .., ite_add ..⟩

end State

/-- What a DATA flit in sequence does that holds nothing and asks for no replay: it is acknowledged, and its credits are added. -/
theorem flit_empty {s : State} {b : List Byte} (live : s.flt.fatal = false) (active : s.plk.state = .active)
    (good : State.flitCheck s.plk.version b = true) (data : fld (le b 0 8) 1 0 = 1) (inOrder : fld (le b 0 8) 13 2 = s.plk.rxNext)
    (noReplay : fld (le b 0 8) 26 26 = 0) (noSlots : s.plk.rxSlots = []) (noWait : s.plk.waiting = [])
    (empty : ∀ i, i < 15 → le b (8 + 16 * i) 16 = 0) :
    ∃ t, exec (.flitReceive b) s = .next t ∧ t.plk.rxNext = (s.plk.rxNext + 1) % 4096 ∧ t.plk.rxSlots = [] ∧
        s.flits t (.ack s.plk.rxNext) ∧
        t.plk.creditPw = s.plk.creditPw + (if fld (le b 0 8) 28 27 = 0 then fld (le b 0 8) 40 29 else 0) ∧
        t.plk.creditNp = s.plk.creditNp + (if fld (le b 0 8) 28 27 = 1 then fld (le b 0 8) 40 29 else 0) ∧
        t.plk.creditMgt = s.plk.creditMgt + (if fld (le b 0 8) 28 27 = 2 then fld (le b 0 8) 40 29 else 0) ∧
        t = { s with plk := t.plk, out := t.out } := by
  obtain ⟨p, eq3, kNext, kSlots, kWait, kPw, kNp, kMgt⟩ :=
    s.plkAck_plkCredit (fld (le b 0 8) 25 14) (fld (le b 0 8) 28 27) (fld (le b 0 8) 40 29)
  let slots := (List.range 15).map fun i => BitVec.ofNat 128 (le b (8 + 16 * i) 16)
  let s4 : State := ({ s with plk := { p with rxNext := (p.rxNext + 1) % 4096, rxSlots := p.rxSlots ++ slots } } : State).emitFlits
    (.ack s.plk.rxNext) 1
  have replay : bitAt (le b 0 8) 26 = false := by simpa [bitAt, fld] using noReplay
  have flit : s.flit b = (s4.messages (p.rxSlots.length + 15)).pump := by
    simp [State.flit, active, good, data, inOrder, replay, eq3, s4, slots]
  have rx : s4.plk.rxSlots = slots := by
    show p.rxSlots ++ slots = slots
    rw [kSlots, noSlots, List.nil_append]
  have zero : ∀ x ∈ slots, x = 0 := fun x hx => by
    obtain ⟨i, hi, rfl⟩ := List.mem_map.mp hx
    rw [empty i (List.mem_range.mp hi)]
    rfl
  have dropped : s4.messages (p.rxSlots.length + 15) = { s4 with plk := { s4.plk with rxSlots := [] } } :=
    State.messages_zeros live (by rw [rx]; exact zero) (by rw [rx]; simp [slots])
  rw [dropped, State.pump_of_no_waiting (s := { s4 with plk := { s4.plk with rxSlots := [] } }) (kWait.trans noWait)] at flit
  exact ⟨_, congrArg (done s) flit, congrArg (fun n => (n + 1) % 4096) kNext, rfl, State.flits_emitFlits rfl _ 1, kPw, kNp, kMgt, rfl⟩

/-- Settles O16: a flit with empty slots is acknowledged and has no message to take. -/
theorem flitsAreChecked : Obligations.FlitsAreChecked := by
  intro s b live active
  refine ⟨fun bad => ?_, fun good data order => ?_, fun good data inOrder noReplay noSlots noWait empty =>
    flit_empty live active good data inOrder noReplay noSlots noWait empty⟩
  · have flit : s.flit b = ({ s with plk := { s.plk with checkErr := satAdd 32 s.plk.checkErr 1 } } : State).emitFlits
        (.nak ((s.plk.rxNext + 4095) % 4096)) 1 := by
      simp [State.flit, active, bad]
    refine ⟨_, congrArg (done s) flit, State.flits_emitFlits rfl _ _, rfl⟩
  · have flit : s.flit b = s := by
      simp [State.flit, active, good, data, order]
    exact congrArg (done s) flit

end Sys2Proof.Machine
end

section
/-! SUPPORT. Training, replay and retrain of the host link (R372, R374, R375, R377). -/

set_option Elab.async false

namespace Sys2Proof.Machine

namespace State

variable {s : State}

/-! ### What raising an event and sending leave of the link -/

/-- What sending does not change of the link is read back. -/
theorem of_still {α : Type} {p q : Plk} (h : p.still = q.still) (f : Plk → α) (hf : ∀ p, f p.still = f p := by intro; rfl) :
    f p = f q := by
  rw [← hf p, h, hf q]

@[simp] theorem raiseEv_state (s : State) (e b : Nat) : (s.raiseEv e b).plk.state = s.plk.state :=
  of_still (s.raiseEv_still e b) Plk.state

/-- Sending adds no write to those that are not acknowledged. -/
theorem Pump.takeAll_writes (l : List OutMsg) (x : Pump) (h : x.plk.writes = []) : (l.foldl Pump.take x).plk.writes = [] := by
  induction l generalizing x with
  | nil => exact h
  | cons m r ih =>
    refine ih _ ?_
    unfold Pump.take
    extract_lets
    split
    · dsimp only
      rw [h]
      split <;> rfl
    · exact h

theorem send_writes {m : OutMsg} (h : s.plk.writes = []) : (s.send m).plk.writes = [] := by
  unfold send
  split
  · unfold pump
    split
    · exact Pump.takeAll_writes _ _ h
    · exact h
  · exact h

theorem evalEvent_writes {e : Nat} (h : s.plk.writes = []) : (s.evalEvent e).plk.writes = [] := by
  unfold evalEvent
  extract_lets
  split
  · exact h
  · exact send_writes h

theorem rewriteRings_of_no_writes (h : s.plk.writes = []) : s.rewriteRings = s := by
  rw [rewriteRings, h]
  rfl

/-! ### Down -/

theorem plkDown_state (s : State) : s.plkDown.plk.state = .down := by
  rw [plkDown, raiseEv_state]
  rfl

theorem linkDrop_of_no_writes (h : s.plk.writes = []) : s.linkDrop = { s with plk := s.linkDrop.plk } := by
  simp only [linkDrop, h, List.filter_nil, List.foldl_nil]

/-! ### The version -/

/-- A version that both ends offer, and no higher one. -/
theorem plkVersion_eq_some {versions v : Nat} (h : s.plkVersion versions = some v) :
    bitAt versions v = true ∧ bitAt s.plk.allow v = true ∧
      ∀ w, w < 3 → bitAt versions w = true → bitAt s.plk.allow w = true → w ≤ v := by
  obtain ⟨l, e⟩ := List.getLast?_eq_some_iff.mp h
  have both : v ∈ (List.range 3).filter fun v => bitAt versions v && bitAt s.plk.allow v := by simp [e]
  have rising : ((List.range 3).filter fun v => bitAt versions v && bitAt s.plk.allow v).Pairwise (· < ·) :=
    List.pairwise_lt_range.filter _
  obtain ⟨-, hv⟩ := List.mem_filter.mp both
  obtain ⟨mine, its⟩ := Bool.and_eq_true_iff.mp hv
  refine ⟨mine, its, fun w lt mine its => ?_⟩
  have mem : w ∈ (List.range 3).filter fun v => bitAt versions v && bitAt s.plk.allow v := by simp [lt, mine, its]
  rw [e] at mem rising
  rcases List.mem_append.mp mem with h | h
  · exact (List.pairwise_append.mp rising).2.2 w h v (by simp) |>.le
  · exact (List.mem_singleton.mp h).le

theorem plkVersion_eq_none {versions : Nat} (h : ∀ v, v < 3 → ¬ (bitAt versions v = true ∧ bitAt s.plk.allow v = true)) :
    s.plkVersion versions = none := by
  have none : (List.range 3).filter (fun v => bitAt versions v && bitAt s.plk.allow v) = [] := by
    refine List.filter_eq_nil_iff.mpr fun v hv => ?_
    rw [Bool.and_eq_true_iff]
    exact h v (List.mem_range.mp hv)
  rw [plkVersion, none]
  rfl

end State

/-! ### Training -/

section
variable {s : State} (live : s.flt.fatal = false) (domOpen : s.isOpen 77 = true)
include live domOpen

theorem linkTraining_up {versions lanes pw np mgt v : Nat} (down : s.plk.state = .down) (noWrites : s.plk.writes = [])
    (version : s.plkVersion versions = some v) (good : State.lanesFor v lanes ≠ 0) :
    ∃ t, exec (.linkTraining versions lanes pw np mgt) s = .next t ∧ t.plk.state = .active ∧ t.plk.version = v ∧
          bitAt versions v = true ∧ bitAt s.plk.allow v = true ∧
          (∀ w, w < 3 → bitAt versions w = true → bitAt s.plk.allow w = true → w ≤ v) ∧
          t.plk.lanes = State.lanesFor v lanes ∧ t.plk.width = popcount (State.lanesFor v lanes) 4 ∧ t.plk.failedTrainings = 0 ∧
          t.sends (.linkUp (s.dom 77).epoch.toNat v) ∧ t = { s with events := t.events, plk := t.plk, out := t.out } := by
  obtain ⟨mine, its, highest⟩ := State.plkVersion_eq_some version
  let up : State := { s with plk := { s.plk with
    state := .active, version := v, width := popcount (State.lanesFor v lanes) 4, lanes := State.lanesFor v lanes, good := lanes,
    failedTrainings := 0, rxNext := 0, rxSlots := [], txNext := 0, txAcked := 0, txReplays := 0, sinceIdle := 0, waiting := [],
    creditPw := pw, creditNp := np, creditMgt := mgt, trainings := satAdd 8 s.plk.trainings 1 } }
  let t := (up.send (.linkUp (s.dom 77).epoch.toNat v)).evalEvent evPlk
  have train : s.train versions lanes pw np mgt = t := by
    have off : s.linkUp = false := by simp [State.linkUp, down]
    rw [State.train, if_neg (by simp [domOpen])]
    simp only [off, Bool.false_eq_true, if_false, version, good]
    exact State.rewriteRings_of_no_writes (State.evalEvent_writes (State.send_writes noWrites))
  have still : t.plk.still = up.plk.still := (State.evalEvent_still ..).trans (State.send_still ..)
  have frame : t = { s with events := t.events, plk := t.plk, out := t.out } := by
    simp only [t]
    rw [State.evalEvent_eq, State.send_eq]
  refine ⟨t, act_eq_next (f := (State.train · versions lanes pw np mgt)) live train (by rw [frame]) (by rw [frame]),
    State.of_still still Plk.state, State.of_still still Plk.version, mine, its, highest, State.of_still still Plk.lanes,
    State.of_still still Plk.width, State.of_still still Plk.failedTrainings, State.sends_evalEvent _ (State.send_sends _ _ rfl), frame⟩

theorem linkTraining_noVersion {versions : Nat} (down : s.plk.state = .down)
    (none : ∀ v, v < 3 → ¬ (bitAt versions v = true ∧ bitAt s.plk.allow v = true)) (lanes pw np mgt : Nat) :
    ∃ t, exec (.linkTraining versions lanes pw np mgt) s = .next t ∧ t.plk.state = .down ∧
          t.plk.lastStatus = .versionUnsupported ∧ t = { s with plk := t.plk } := by
  have train : s.train versions lanes pw np mgt = { s with plk := { s.plk with
      state := .down, lastStatus := .versionUnsupported, failedTrainings := s.plk.failedTrainings + 1 } } := by
    simp [State.train, domOpen, State.linkUp, down, State.plkVersion_eq_none none]
  exact ⟨_, act_eq_next (f := (State.train · versions lanes pw np mgt)) live train, rfl, rfl, rfl⟩

theorem trainingTimeout_third (training : s.plk.state = .training) (twice : 2 ≤ s.plk.failedTrainings) :
    ∃ t, exec .trainingTimeout s = .next t ∧ t.plk.state = .down := by
  refine ⟨_, act_live s State.trainTimeout live, ?_⟩
  have third : 3 ≤ s.plk.failedTrainings + 1 := by omega
  have off : s.linkUp = false := by simp [State.linkUp, training]
  simp only [State.trainTimeout, domOpen, if_true, State.trainFails, off, Bool.false_eq_true, if_false, State.fresh, third]
  exact State.plkDown_state _

theorem trainingTimeout_again (down : s.plk.state = .down) (few : s.plk.failedTrainings < 2) :
    ∃ t, exec .trainingTimeout s = .next t ∧ t.plk.state = .training ∧
          t.plk.failedTrainings = s.plk.failedTrainings + 1 ∧ t = { s with plk := t.plk, free := t.free } := by
  have third : ¬ 3 ≤ s.plk.failedTrainings + 1 := by omega
  have off : s.linkUp = false := by simp [State.linkUp, down]
  have timeout : s.trainTimeout = { s with free := s.free + 1, plk := { s.plk with
      state := .training, lastStatus := State.statusList.getD ((s.fresh 8).1 % 22) .ok, failedTrainings := s.plk.failedTrainings + 1 } } := by
    simp only [State.trainTimeout, domOpen, if_true, State.trainFails, off, Bool.false_eq_true, if_false, State.fresh, third]
  exact ⟨_, act_eq_next live timeout, rfl, rfl, rfl⟩

end

/-! ### Retrains -/

section
variable {s : State} (live : s.flt.fatal = false)
include live

theorem State.plkRetrain_eq (active : s.plk.state = .active) : s.plkRetrain =
    ({ s with plk := { s.plk with
        state := .retrain, retrains := satAdd 8 s.plk.retrains 1, recent := s.plk.recent ++ [s.supTime], txReplays := 0 } } : State).raiseEv
      evPlk 0 := if_pos active

theorem plkCtlRetrain_enters (active : s.plk.state = .active) :
    ∃ t, exec .plkCtlRetrain s = .next t ∧ t.plk.state = .retrain ∧ t.plk.retrains = satAdd 8 s.plk.retrains 1 ∧
          bitAt (t.ev evPlk).value 0 = true ∧ t = { s with events := t.events, plk := t.plk, out := t.out } := by
  have eq := State.plkRetrain_eq live active
  refine ⟨_, act_eq_next live eq (by rw [State.raiseEv_eq]) (by rw [State.raiseEv_eq]), State.raiseEv_state ..,
    State.of_still (State.raiseEv_still ..) Plk.retrains, ?_, ?_⟩
  · rw [State.raiseEv_value, bitAt_or_two_pow_self]
  · rw [State.raiseEv_eq]

theorem laneFailure_narrows (active : s.plk.state = .active) (version : 1 ≤ s.plk.version) (good : s.plk.good = 15)
    (lanes : s.plk.lanes = 15) (width : s.plk.width = 4) :
    ∃ t, exec (.laneFailure 3) s = .next t ∧ t.plk.state = .retrain ∧ t.plk.lanes = 3 ∧ t.plk.width = 2 ∧
          bitAt (t.ev evPlk).value 2 = true ∧ t = { s with events := t.events, plk := t.plk, out := t.out } := by
  let s1 : State := { s with plk := { s.plk with good := 7 } }
  let s2 := s1.plkRetrain
  let s3 : State := { s2 with plk := { s2.plk with lanes := 3, width := 2 } }
  have two : State.lanesFor s.plk.version 7 = 3 := by
    have ne : s.plk.version ≠ 0 := by omega
    simp [State.lanesFor, ne]
  have fails : s.laneFails 3 = s3.raiseEv evPlk 2 := by
    have field : setFld 15 3 3 0 = 7 := by decide
    have bit : bitAt 15 3 = true := by decide
    have pair : popcount 3 4 = 2 := by decide
    simp [State.laneFails, active, good, lanes, width, field, bit, two, pair, s3, s2, s1]
  have eq2 := State.plkRetrain_eq (s := s1) live active
  have frame : s.laneFails 3 = { s with
      events := (s.laneFails 3).events, plk := (s.laneFails 3).plk, out := (s.laneFails 3).out } := by
    rw [fails, State.raiseEv_eq]
    simp only [s3, s2]
    rw [eq2, State.raiseEv_eq]
  refine ⟨_, act_eq_next (f := (State.laneFails · 3)) live rfl (by rw [frame]) (by rw [frame]), ?_, ?_, ?_, ?_, frame⟩
  · rw [fails, State.raiseEv_state]
    show s2.plk.state = _
    simp only [s2]
    rw [eq2, State.raiseEv_state]
  · rw [fails]
    exact State.of_still (State.raiseEv_still ..) Plk.lanes
  · rw [fails]
    exact State.of_still (State.raiseEv_still ..) Plk.width
  · rw [fails, State.raiseEv_value, bitAt_or_two_pow_self]

theorem plkAckTimeout_replays (active : s.plk.state = .active) (some : s.plkUnacked ≠ 0) (few : s.plk.txReplays < 8) :
    ∃ t, exec .plkAckTimeout s = .next t ∧ t.plk.txReplays = s.plk.txReplays + 1 ∧
          s.flits t (.replay s.plk.txAcked) ∧
          t = { s with
            plk := { s.plk with
              txReplays := s.plk.txReplays + 1, replays := satAdd 16 s.plk.replays 1, sinceIdle := t.plk.sinceIdle }
            out := t.out } := by
  have eq : s.plkReplay = ({ s with plk := { s.plk with
      txReplays := s.plk.txReplays + 1, replays := satAdd 16 s.plk.replays 1 } } : State).emitFlits (.replay s.plk.txAcked) s.plkUnacked := by
    simp [State.plkReplay, active, some, Nat.not_le.mpr few]
  exact ⟨_, act_eq_next live eq, rfl, State.flits_emitFlits rfl _ _, rfl⟩

theorem plkAckTimeout_retrains (active : s.plk.state = .active) (some : s.plkUnacked ≠ 0) (many : 8 ≤ s.plk.txReplays) :
    ∃ t, exec .plkAckTimeout s = .next t ∧ t.plk.state = .retrain := by
  refine ⟨_, act_live s State.plkReplay live, ?_⟩
  simp only [State.plkReplay, active, some, many, ne_eq, not_true_eq_false, or_self, if_false, if_true, State.plkRetrain_eq live active,
    State.raiseEv_state]

theorem plkRetrainEnd_well (retrain : s.plk.state = .retrain) (few : s.plk.recent.length < 3) :
    ∃ t, exec (.plkRetrainEnd true) s = .next t ∧ t.plk.state = .active ∧ t.plk.txReplays = 0 ∧
          t = { s with plk := t.plk, out := t.out } := by
  let near := s.plk.recent.filter fun t => decide ((s.plk.recent.getLast?.getD 0 - t).toNat ≤ 1000000000)
  let up : State := { s with plk := { s.plk with recent := near, state := .active, txReplays := 0 } }
  let sent := if up.plkUnacked = 0 then up else up.emitFlits (.replay up.plk.txAcked) up.plkUnacked
  have near2 : ¬ 3 ≤ near.length := by
    have fewer : near.length ≤ s.plk.recent.length := List.length_filter_le ..
    omega
  have ends : s.retrainEnd true = sent.pump := by
    have few : ¬ (true = false ∨ 3 ≤ near.length) := by simpa using near2
    simp only [State.retrainEnd, retrain, ne_eq, not_true_eq_false, if_false, near, few, sent, up]
  obtain ⟨kept, frame⟩ : sent.plk.still = up.plk.still ∧ sent = { s with plk := sent.plk, out := sent.out } := by
    simp only [sent]
    split <;> exact ⟨rfl, rfl⟩
  have still : sent.pump.plk.still = up.plk.still := (State.pump_still _).trans kept
  have framed : sent.pump = { s with plk := sent.pump.plk, out := sent.pump.out } := by
    rw [State.pump_eq, frame]
  exact ⟨_, act_eq_next (f := (State.retrainEnd · true)) live ends (by rw [framed]) (by rw [framed]), State.of_still still Plk.state,
    State.of_still still Plk.txReplays, framed⟩

theorem plkRetrainEnd_badly (retrain : s.plk.state = .retrain) (noWrites : s.plk.writes = []) :
    ∃ t, exec (.plkRetrainEnd false) s = .next t ∧ t.plk.state = .down ∧ bitAt (t.ev evPlk).value 1 = true ∧
          t = { s with events := t.events, plk := t.plk, out := t.out } := by
  let near := s.plk.recent.filter fun t => decide ((s.plk.recent.getLast?.getD 0 - t).toNat ≤ 1000000000)
  let s1 : State := { s with plk := { s.plk with recent := near } }
  have ends : s.retrainEnd false = s1.plkDown := by
    simp [State.retrainEnd, retrain, s1, near]
  have frame : s1.plkDown = { s with events := s1.plkDown.events, plk := s1.plkDown.plk, out := s1.plkDown.out } := by
    rw [State.plkDown, State.raiseEv_eq, State.linkDrop_of_no_writes (s := s1) noWrites]
  refine ⟨_, act_eq_next (f := (State.retrainEnd · false)) live ends (by rw [frame]) (by rw [frame]), s1.plkDown_state, ?_, frame⟩
  rw [State.plkDown, State.raiseEv_value, bitAt_or_two_pow_self]

end

/-- Settles O17: what raising an event and sending leave of the link reads back, and the rest is each operation of the link. -/
theorem linkTrainsAndRetrains : Obligations.LinkTrainsAndRetrains :=
  ⟨fun s versions lanes pw np mgt live domOpen => ⟨fun v down noWrites version good => linkTraining_up live domOpen down noWrites version good,
      fun down none => linkTraining_noVersion live domOpen down none lanes pw np mgt, trainingTimeout_third live domOpen,
      trainingTimeout_again live domOpen, laneFailure_narrows live⟩,
    fun s live => ⟨plkAckTimeout_replays live, plkAckTimeout_retrains live, plkCtlRetrain_enters live, plkRetrainEnd_well live,
      plkRetrainEnd_badly live⟩⟩

end Sys2Proof.Machine
end

section
/-! SUPPORT. Rounds of time correlation (R64, R385). -/

set_option Elab.async false

namespace Sys2Proof.Machine

namespace State

variable {s : State}

theorem send_supTime (s : State) (m : OutMsg) : (s.send m).supTime = s.supTime := by rw [send_eq]; rfl

@[simp] theorem send_linkUp (s : State) (m : OutMsg) : (s.send m).linkUp = s.linkUp := by
  simp only [linkUp, of_still (s.send_still m) Plk.state]

/-- A round opens with four TIME_PINGs of one time. -/
theorem timePings_eq (s : State) :
    let ping := OutMsg.timePing s.supTime
    s.timePings = (((({ s with plk := { s.plk with
      pings := List.replicate 4 s.supTime, best := none, roundOpen := true } } : State).send ping).send ping).send ping).send ping := by
  simp only [timePings, List.range_succ, List.range_zero, List.nil_append, List.cons_append, List.foldl_cons, List.foldl_nil,
    send_supTime]
  rfl

/-- What opening a round leaves: everything but the link and what is sent. -/
theorem timePings_frame (s : State) : s.timePings = { s with plk := s.timePings.plk, out := s.timePings.out } := by
  rw [timePings_eq]
  dsimp only
  rw [send_eq, send_eq, send_eq, send_eq]

/-- The link as a round has opened. -/
theorem timePings_still (s : State) : s.timePings.plk.still =
    ({ s.plk with pings := List.replicate 4 s.supTime, best := none, roundOpen := true } : Plk).still := by
  rw [timePings_eq]
  dsimp only
  rw [send_still, send_still, send_still, send_still]

/-- What a round's messages leave: everything but the link and what is sent. -/
theorem timeMessages_frame (s : State) (host : List Byte) (l : List (List Byte)) (fuel : Nat) :
    s.timeMessages host l fuel = { s with plk := (s.timeMessages host l fuel).plk, out := (s.timeMessages host l fuel).out } := by
  induction fuel generalizing s l with
  | zero => rfl
  | succ fuel ih =>
    simp only [timeMessages]
    split
    · exact send_eq ..
    · rw [ih, send_eq]

end State

section
variable {s : State} (live : s.flt.fatal = false) (active : s.plk.state = .active)

include live active in
theorem timeCorrRound_first (linkOpen : s.isOpen 77 = true) (supOpen : s.isOpen 78 = true) (first : s.plk.roundOpen = false)
    (samples : List TimeSample) :
    ∃ t, exec (.timeCorrRound samples) s = .next t ∧ t.plk.roundOpen = true ∧ t.plk.pings = List.replicate 4 s.supTime ∧
        t.sends (.timePing s.supTime) ∧ t = { s with plk := t.plk, out := t.out } := by
  have round : s.timeRound samples = s.timePings := by simp [State.timeRound, active, supOpen, linkOpen, first]
  refine ⟨_, act_eq_next (f := (State.timeRound · samples)) live round (by rw [State.timePings_frame]) (by rw [State.timePings_frame]),
    State.of_still s.timePings_still Plk.roundOpen, State.of_still s.timePings_still Plk.pings, ?_, s.timePings_frame⟩
  rw [State.timePings_eq]
  refine State.send_sends _ _ ?_
  rw [State.send_linkUp, State.send_linkUp, State.send_linkUp]
  simp [State.linkUp, active]

include active in
/-- A later round with no exchange kept. -/
theorem State.timeRound_fails (linkOpen : s.isOpen 77 = true) (supOpen : s.isOpen 78 = true) (later : s.plk.roundOpen = true)
    (none : s.plk.best = none) (samples : List TimeSample) :
    (s.timeRound samples).plk.corrRound = (s.plk.corrRound + 1) % 65536 ∧ (s.timeRound samples).plk.corrValid = false ∧
      bitAt ((s.timeRound samples).ev evPlk).value 6 = true := by
  have kept : ¬ s.plk.best.isSome = true := by simp [none]
  unfold State.timeRound
  rw [if_neg (by simp [active, supOpen, linkOpen]), if_neg (by simp [later])]
  extract_lets n host r s1 _ s2
  rw [if_neg kept]
  have still := (s2.raiseEv evPlk 6).timePings_still
  refine ⟨?_, ?_, ?_⟩
  · rw [State.of_still still Plk.corrRound]
    exact State.of_still (s2.raiseEv_still evPlk 6) Plk.corrRound
  · rw [State.of_still still Plk.corrValid]
    refine (State.of_still (s2.raiseEv_still evPlk 6) Plk.corrValid).trans ?_
    simp [s2, none]
  · rw [State.timePings_frame]
    show bitAt ((s2.raiseEv evPlk 6).ev evPlk).value 6 = true
    rw [State.raiseEv_value, bitAt_or_two_pow_self]

include live active in
theorem timePong_ends (supOpen : s.isOpen 78 = true) {t1 : DWord} (mem : t1 ∈ s.plk.pings) (none : s.plk.best = none)
    (h2 h3 : DWord) :
    ∃ t, exec (.timePong t1 h2 h3) s = .next t ∧ t.plk.pings = s.plk.pings.erase t1 ∧
        t.plk.best = some (t1, h2, h3, s.supTime) ∧ s.flits t (.credits 2 2) ∧ t = { s with plk := t.plk, out := t.out } := by
  have pong : s.arrives 2 2 (State.timePong · t1 h2 h3) = ({ s with plk := { s.plk with
      pings := s.plk.pings.erase t1, best := some (t1, h2, h3, s.supTime) } } : State).freed 2 2 := by
    simp [State.arrives, active, State.timePong, mem, supOpen, none]
  exact ⟨_, act_eq_next (f := fun s => s.arrives 2 2 (State.timePong · t1 h2 h3)) live pong, rfl, rfl, State.flits_freed rfl _ _, rfl⟩

include live in
theorem pingTimeout_discards (t1 : DWord) :
    ∃ t, exec (.pingTimeout t1) s = .next t ∧ t = { s with plk := { s.plk with pings := s.plk.pings.erase t1 } } :=
  ⟨_, act_eq_next (f := fun s => { s with plk := { s.plk with pings := s.plk.pings.erase t1 } }) live rfl, rfl⟩

end

/-- Settles O18: a round's messages and pings change the link and what is sent only. -/
theorem timeIsCorrelated : Obligations.TimeIsCorrelated := by
  intro s samples t1 h2 h3 live active linkOpen supOpen
  refine ⟨fun first => timeCorrRound_first live active linkOpen supOpen first samples, fun later none => ?_,
    fun mem none => timePong_ends live active supOpen mem none h2 h3, pingTimeout_discards live t1⟩
  exact ⟨_, act_live s (State.timeRound · samples) live, State.timeRound_fails active linkOpen supOpen later none samples⟩

end Sys2Proof.Machine
end

section
/-! SUPPORT. Operating points: what lowering a GRANT and moving the rails leave, rate windows and rails at their target (R59, R60). -/

set_option Elab.async false

namespace Sys2Proof.Machine

namespace State

variable {s : State}

/-! ### What the operations of operating points leave -/

theorem lowerGrant_frame (s : State) (lvl g : Nat) :
    ∃ gs es p o, s.lowerGrant lvl g = { s with groups := gs, events := es, plk := p, out := o } := by
  unfold lowerGrant
  dsimp only
  split
  · exact ⟨_, _, _, _, rfl⟩
  · rw [raiseEv_eq]
    exact ⟨_, _, _, _, rfl⟩

theorem demote_frame (s : State) : ∃ gs es p o, s.demote = { s with groups := gs, events := es, plk := p, out := o } := by
  refine List.foldlRecOn (motive := fun t : State => ∃ gs es p o, t = { s with groups := gs, events := es, plk := p, out := o }) _ _
    ⟨_, _, _, _, rfl⟩ fun t ht lvl _ => ?_
  refine List.foldlRecOn (motive := fun t : State => ∃ gs es p o, t = { s with groups := gs, events := es, plk := p, out := o }) _ _
    ht fun t ht g _ => ?_
  obtain ⟨_, _, _, _, rfl⟩ := ht
  obtain ⟨_, _, _, _, e⟩ := lowerGrant_frame _ lvl g
  exact ⟨_, _, _, _, e⟩

theorem moveRails_frame (s : State) : ∃ gs, s.moveRails = { s with groups := gs } := by
  refine List.foldlRecOn (motive := fun t : State => ∃ gs, t = { s with groups := gs }) _ _ ⟨_, rfl⟩ ?_
  rintro _ ⟨_, rfl⟩ g _
  exact ⟨_, rfl⟩

/-! ### Rate windows -/

/-- Reading the links' use changes the links and what free values are left. -/
theorem readUse_frame (l : List Nat) (s : State) :
    ∃ ls n, l.foldl (fun (s : State) l =>
        let y := s.rzLink l
        let a := s.fresh 10
        let b := a.2.fresh 10
        b.2.setRzLink l { y with low := { y.low with util := a.1 % 1001 }, high := { y.high with util := b.1 % 1001 } }) s =
      { s with links := ls, free := n } := by
  refine List.foldlRecOn (motive := fun t : State => ∃ ls n, t = { s with links := ls, free := n }) _ _ ⟨_, _, rfl⟩ ?_
  rintro _ ⟨_, _, rfl⟩ g _
  exact ⟨_, _, rfl⟩

/-- The figures that a window of a quadrant gives. -/
def windowOf (s : State) (k waves issued tj : Nat) : Quadrant :=
  { s.quad k with
    rate := Nat.min 65535 (waves / Nat.max 1 (s.quad k).window)
    busy := if waves = 0 then 0 else Nat.min 1000 (issued * 1000 / waves)
    op := (s.group (k / 4)).op, valid := true, tj := tj % 256, winEnd := fld (s.groupTime (k / 4)).toNat 33 10
    window := s.sel.rateWin }

theorem rateWindow_eq {k : Nat} (present : s.variant.quad k = true) (runs : s.live (quadDomain k) = true) (waves issued tj : Nat) :
    ∃ ls n gs es p o, s.rateWindow k waves issued tj =
      { s.setQuad k (s.windowOf k waves issued tj) with links := ls, free := n, groups := gs, events := es, plk := p, out := o } := by
  unfold rateWindow
  rw [if_neg (by simp [present, runs])]
  extract_lets s1 s2
  obtain ⟨ls, n, read⟩ : ∃ ls n, s2 = { s1 with links := ls, free := n } :=
    readUse_frame _ s1
  obtain ⟨gs, es, p, o, lowered⟩ := s2.demote_frame
  obtain ⟨gs', moved⟩ := s2.demote.moveRails_frame
  exact ⟨ls, n, gs', es, p, o, by rw [moved, lowered, read]; rfl⟩

/-! ### Rails -/

theorem railsTo_frame (l : List Nat) (g mv : Nat) (s : State) :
    ∃ ds, l.foldl (fun (s : State) m =>
      let y := s.dom (7 * g + m)
      if y.power = .off then s else s.setDom (7 * g + m) { y with railMv := mv }) s = { s with domains := ds } := by
  refine List.foldlRecOn (motive := fun t : State => ∃ ds, t = { s with domains := ds }) _ _ ⟨_, rfl⟩ ?_
  rintro _ ⟨_, rfl⟩ m _
  dsimp only
  split
  · exact ⟨_, rfl⟩
  · exact ⟨_, rfl⟩

/-- A domain of the list that is on gets the voltage. -/
theorem railsTo_railMv {l : List Nat} {g mv m : Nat} (s : State) (on : (s.dom (7 * g + m)).power ≠ .off)
    (listed : m ∈ l ∨ (s.dom (7 * g + m)).railMv = mv) :
    ((l.foldl (fun (s : State) m =>
      let y := s.dom (7 * g + m)
      if y.power = .off then s else s.setDom (7 * g + m) { y with railMv := mv }) s).dom (7 * g + m)).railMv = mv := by
  induction l generalizing s with
  | nil => exact listed.resolve_left (List.not_mem_nil)
  | cons j r ih =>
    rw [List.foldl_cons]
    dsimp only
    by_cases here : m = j
    · subst here
      rw [if_neg on]
      exact ih _ (by simpa using on) (.inr (by simp))
    · have other : 7 * g + m ≠ 7 * g + j := by omega
      have kept : (if (s.dom (7 * g + j)).power = .off then s
          else s.setDom (7 * g + j) { s.dom (7 * g + j) with railMv := mv }).dom (7 * g + m) = s.dom (7 * g + m) := by
        split
        · rfl
        · exact setDom_dom_ne s _ other
      refine ih _ (by rw [kept]; exact on) ?_
      rw [kept]
      exact listed.imp_left fun h => (List.mem_cons.mp h).resolve_left here

end State

/-- Settles O21: the figures are stored before any rail moves, and a rail sets each of the domains of its group in turn. -/
theorem ratesAndRails : Obligations.RatesAndRails := by
  intro s live
  refine ⟨fun k waves issued tj present runs => ?_, fun g present moving => ?_⟩
  · obtain ⟨ls, n, gs, es, p, o, e⟩ := State.rateWindow_eq present runs waves issued tj
    have quad : (s.rateWindow k waves issued tj).quad k = s.windowOf k waves issued tj := by
      rw [e]
      exact State.setQuad_quad ..
    refine ⟨_, act_eq_next (f := (State.rateWindow · k waves issued tj)) live rfl (by rw [e]; rfl) (by rw [e]; rfl), ?_, ?_, ?_, ?_, ?_,
      fun j ne => ?_, by rw [e]; rfl⟩
    · rw [quad]; rfl
    · rw [quad]; rfl
    · rw [quad]; rfl
    · rw [quad]; rfl
    · rw [quad]; rfl
    · rw [e]
      exact State.setQuad_quad_ne _ _ ne
  · let x := s.group g
    have ramp : s.rampEnd g = (List.range 7).foldl (fun (s : State) m =>
        let y := s.dom (7 * g + m)
        if y.power = .off then s else s.setDom (7 * g + m) { y with railMv := opMillivolts x.target })
        (s.setGroup g { x with op := x.target }) := by
      rw [State.rampEnd]
      exact if_neg (by simp [present, moving])
    obtain ⟨ds, e⟩ := State.railsTo_frame (List.range 7) g (opMillivolts x.target) (s.setGroup g { x with op := x.target })
    have groups : s.rampEnd g = { s.setGroup g { x with op := x.target } with domains := ds } := ramp.trans e
    refine ⟨_, act_eq_next (f := (State.rampEnd · g)) live rfl (by rw [groups]; rfl) (by rw [groups]; rfl), ?_, fun h ne => ?_,
      fun m hm on => ?_, by rw [groups]; rfl⟩
    · rw [groups]
      exact congrArg Group.op (State.setGroup_group s g { x with op := x.target })
    · rw [groups]
      exact State.setGroup_group_ne _ _ ne
    · rw [ramp]
      exact State.railsTo_railMv _ on (.inl (List.mem_range.mpr hm))

end Sys2Proof.Machine
end

section
/-! SUPPORT. An evaluation of the operating points (R359, R360): what it leaves, that it ends within the cap or with every GRANT at
OP0, and where it moves the rails. -/

set_option Elab.async false

namespace Sys2Proof.Machine

/-- What a step establishes for its element and every other step keeps holds of every element of the list at the end. -/
theorem foldl_establishes {α : Type} {f : State → α → State} {P : α → State → Prop} (does : ∀ s a, P a (f s a))
    (keeps : ∀ s a b, P b s → P b (f s a)) (l : List α) (s : State) : ∀ a ∈ l, P a (l.foldl f s) := by
  have kept : ∀ (l : List α) (s : State) (b : α), P b s → P b (l.foldl f s) := fun l s b h =>
    List.foldlRecOn (motive := P b) l f h fun t ht a _ => keeps t a b ht
  induction l generalizing s with
  | nil => exact fun a ha => absurd ha List.not_mem_nil
  | cons x r ih =>
    intro a ha
    rcases List.mem_cons.mp ha with rfl | ha
    · exact kept r _ _ (does s a)
    · exact ih _ a ha

/-- A group but for what an evaluation of operating points sets. -/
def Group.rest (x : Group) : Group := { x with grant := 0, target := 0, pending3 := false }

/-- What an evaluation of operating points may change: GRANTs and what follows from them; and it clears no event bit. -/
structure Evaluates (s t : State) : Prop where
  frame : ∃ gs es p o, t = { s with groups := gs, events := es, plk := p, out := o }
  rest : ∀ g, (t.group g).rest = (s.group g).rest
  bits : ∀ e b, bitAt (s.ev e).value b = true → bitAt (t.ev e).value b = true

namespace Evaluates

variable {s t u : State}

theorem refl (s : State) : Evaluates s s := ⟨⟨_, _, _, _, rfl⟩, fun _ => rfl, fun _ _ => id⟩

theorem trans (h : Evaluates s t) (k : Evaluates t u) : Evaluates s u := by
  obtain ⟨⟨_, _, _, _, rfl⟩, hr, hb⟩ := h
  obtain ⟨⟨_, _, _, _, rfl⟩, kr, kb⟩ := k
  exact ⟨⟨_, _, _, _, rfl⟩, fun g => (kr g).trans (hr g), fun e b => kb e b ∘ hb e b⟩

theorem foldl {α : Type} {f : State → α → State} (step : ∀ s a, Evaluates s (f s a)) (l : List α) (s : State) :
    Evaluates s (l.foldl f s) :=
  List.foldlRecOn (motive := Evaluates s) l f (refl s) fun t ht a _ => ht.trans (step t a)

/-- What an evaluation does not set of a group is read back. -/
theorem of_rest (h : Evaluates s t) {α : Type} (f : Group → α) (hf : ∀ x, f x.rest = f x := by intro; rfl) (g : Nat) :
    f (t.group g) = f (s.group g) := by
  rw [← hf (t.group g), h.rest, hf]

theorem req (h : Evaluates s t) (g : Nat) : (t.group g).req = (s.group g).req := h.of_rest Group.req (g := g)

theorem ceil (h : Evaluates s t) (g : Nat) : (t.group g).ceil = (s.group g).ceil := h.of_rest Group.ceil (g := g)

theorem hot (h : Evaluates s t) (g : Nat) : (t.group g).hot = (s.group g).hot := h.of_rest Group.hot (g := g)

theorem variant (h : Evaluates s t) : t.variant = s.variant := by
  obtain ⟨⟨_, _, _, _, rfl⟩, -, -⟩ := h
  rfl

/-- The prediction depends on nothing that an evaluation changes but the points themselves. -/
theorem fits_eq (h : Evaluates s t) (ops : Nat → Nat) : t.fits ops = s.fits ops := by
  obtain ⟨⟨_, _, _, _, rfl⟩, -, -⟩ := h
  rfl

end Evaluates

/-- An update of a group that leaves the rest of it. -/
theorem evaluates_setGroup {s : State} {g : Nat} {x : Group} (rest : x.rest = (s.group g).rest) :
    Evaluates s (s.setGroup g x) := by
  refine ⟨⟨_, _, _, _, rfl⟩, fun h => ?_, fun _ _ => id⟩
  by_cases e : h = g
  · subst e
    rw [State.setGroup_group]
    exact rest
  · rw [State.setGroup_group_ne _ _ e]

theorem raiseEv_group (s : State) (e b g : Nat) : (s.raiseEv e b).group g = s.group g := by
  rw [State.raiseEv_eq]; rfl

/-- Raising an event clears no bit. -/
theorem raiseEv_bits (s : State) (e b i n : Nat) (h : bitAt (s.ev i).value n = true) : bitAt ((s.raiseEv e b).ev i).value n = true := by
  by_cases here : i = e
  · subst here
    rw [State.raiseEv_value, bitAt_eq_testBit, Nat.testBit_or, ← bitAt_eq_testBit, h, Bool.true_or]
  · rw [State.raiseEv_value_ne s b here]
    exact h

theorem evaluates_raiseEv (s : State) (e b : Nat) : Evaluates s (s.raiseEv e b) :=
  ⟨⟨_, _, _, _, State.raiseEv_eq ..⟩, fun g => by rw [raiseEv_group], raiseEv_bits s e b⟩

namespace State

variable {s : State} {g lvl : Nat}

/-! ### One group -/

/-- The two outcomes of lowering a GRANT. -/
theorem lowerGrant_cases (s : State) (lvl g : Nat) :
    ((s.fits s.points = true ∨ (s.group g).grant ≤ lvl) ∧ s.lowerGrant lvl g = s) ∨
      (¬ (s.fits s.points = true ∨ (s.group g).grant ≤ lvl) ∧
        s.lowerGrant lvl g = (s.setGroup g { s.group g with grant := lvl }).raiseEv evPwr 3) := by
  unfold lowerGrant
  dsimp only
  split
  next h => exact .inl ⟨h, rfl⟩
  next h => exact .inr ⟨h, rfl⟩

/-- The two outcomes of raising a GRANT. -/
theorem raiseGrant_cases (s : State) (lvl g : Nat) : s.raiseGrant lvl g = s ∨
    ((lvl = 3 → (s.group g).req = 3) ∧ s.fits (s.pointsWith g lvl) = true ∧
      s.raiseGrant lvl g = s.setGroup g { s.group g with grant := lvl }) := by
  unfold raiseGrant
  dsimp only
  split
  next h => exact .inr ⟨h.2.1, h.2.2, rfl⟩
  next => exact .inl rfl

theorem evaluates_lowerGrant (s : State) (lvl g : Nat) : Evaluates s (s.lowerGrant lvl g) := by
  rcases s.lowerGrant_cases lvl g with ⟨-, e⟩ | ⟨-, e⟩ <;> rw [e]
  · exact .refl s
  · have set := evaluates_setGroup (s := s) (g := g) (x := { s.group g with grant := lvl }) rfl
    exact set.trans (evaluates_raiseEv _ evPwr 3)

theorem evaluates_raiseGrant (s : State) (lvl g : Nat) : Evaluates s (s.raiseGrant lvl g) := by
  rcases s.raiseGrant_cases lvl g with e | ⟨-, -, e⟩ <;> rw [e]
  · exact .refl s
  · exact evaluates_setGroup rfl

/-- What lowering leaves of another group's GRANT. -/
theorem lowerGrant_grant_ne {h : Nat} (ne : h ≠ g) : ((s.lowerGrant lvl g).group h) = s.group h := by
  rcases s.lowerGrant_cases lvl g with ⟨-, e⟩ | ⟨-, e⟩ <;> rw [e]
  rw [raiseEv_group, setGroup_group_ne _ _ ne]

/-! ### Within the cap -/

theorem opScale_mono {p q : Nat} (h : p ≤ q) (top : q ≤ 3) : opScale p ≤ opScale q := by
  have all : ∀ q ≤ 3, ∀ p ≤ q, opScale p ≤ opScale q := by decide
  exact all q top p h

/-- Points no higher draw no more. -/
theorem fits_mono {ops ops' : Nat → Nat} (h : ∀ g, opScale (ops g) ≤ opScale (ops' g)) (fit : s.fits ops' = true) :
    s.fits ops = true := by
  have load : s.powerLoad ops ≤ s.powerLoad ops' := by
    unfold powerLoad
    exact Nat.add_le_add_left (List.sum_le_sum fun g _ => Nat.mul_le_mul_left _ (h g)) _
  simp only [fits, decide_eq_true_eq] at fit ⊢
  have scaled := Nat.mul_le_mul_right 31 load
  omega

/-- The evaluation's goal: the prediction fits the cap, or no GRANT can be lowered. -/
def Capped (s : State) : Prop := s.fits s.points = true ∨ ∀ g, g < s.variant.groups → (s.group g).grant = 0

/-- OP3 is granted to a group that asks for it only. -/
def GrantsAsked (s : State) : Prop := ∀ g, g < s.variant.groups → (s.group g).grant = 3 → (s.group g).req = 3

theorem raiseGrant_capped (h : s.Capped) (top : lvl ≤ 3) : (s.raiseGrant lvl g).Capped := by
  rcases s.raiseGrant_cases lvl g with e | ⟨-, fits, e⟩ <;> rw [e]
  · exact h
  · refine .inl ?_
    rw [(evaluates_setGroup (s := s) (g := g) (x := { s.group g with grant := lvl }) rfl).fits_eq]
    refine fits_mono (fun h => ?_) fits
    unfold points pointsWith
    split
    next here =>
      subst here
      rw [setGroup_group]
      exact opScale_mono (Nat.min_le_right _ _) top
    next other =>
      rw [setGroup_group_ne _ _ other]
      exact Nat.le_refl _

theorem raiseGrant_asked (h : s.GrantsAsked) : (s.raiseGrant lvl g).GrantsAsked := by
  rcases s.raiseGrant_cases lvl g with e | ⟨asked, -, e⟩ <;> rw [e]
  · exact h
  · intro i hi three
    by_cases here : i = g
    · subst here
      rw [setGroup_group] at three ⊢
      exact asked three
    · rw [setGroup_group_ne _ _ here] at three ⊢
      exact h i hi three

theorem lowerGrant_asked (h : s.GrantsAsked) (low : lvl < 3) : (s.lowerGrant lvl g).GrantsAsked := by
  intro i hi three
  rw [(s.evaluates_lowerGrant lvl g).req]
  rw [(s.evaluates_lowerGrant lvl g).variant] at hi
  by_cases here : i = g
  · subst here
    rcases s.lowerGrant_cases lvl i with ⟨-, e⟩ | ⟨-, e⟩ <;> rw [e] at three
    · exact h i hi three
    · rw [raiseEv_group, setGroup_group] at three
      exact absurd three (Nat.ne_of_lt low)
  · rw [lowerGrant_grant_ne here] at three
    exact h i hi three

/-- Lowering to OP0 leaves a state that fits, or the group at OP0. -/
theorem lowerGrant_zero (s : State) (g : Nat) :
    (s.lowerGrant 0 g).fits (s.lowerGrant 0 g).points = true ∨ ((s.lowerGrant 0 g).group g).grant = 0 := by
  rcases s.lowerGrant_cases 0 g with ⟨fits | zero, e⟩ | ⟨-, e⟩ <;> rw [e]
  · exact .inl fits
  · exact .inr (Nat.le_zero.mp zero)
  · rw [raiseEv_group, setGroup_group]
    exact .inr rfl

theorem lowerGrant_keeps_zero {h : Nat} (k : s.fits s.points = true ∨ (s.group h).grant = 0) :
    (s.lowerGrant lvl g).fits (s.lowerGrant lvl g).points = true ∨ ((s.lowerGrant lvl g).group h).grant = 0 := by
  rcases s.lowerGrant_cases lvl g with ⟨-, e⟩ | ⟨high, -⟩
  · rw [e]; exact k
  · have zero := k.resolve_left fun f => high (.inl f)
    have ne : h ≠ g := fun e => high (.inr (by rw [← e, zero]; exact Nat.zero_le _))
    rw [lowerGrant_grant_ne ne]
    exact .inr zero

theorem evaluates_demote (s : State) : Evaluates s s.demote :=
  .foldl (fun _ lvl => .foldl (fun s g => s.evaluates_lowerGrant lvl g) _ _) _ _

theorem demote_capped (s : State) : s.demote.Capped := by
  simp only [demote, List.foldl_cons, List.foldl_nil]
  generalize (s.groupList.reverse.foldl (fun s g => s.lowerGrant 2 g) s) = s2
  generalize (s2.groupList.reverse.foldl (fun s g => s.lowerGrant 1 g) s2) = s1
  have each := foldl_establishes (f := fun s g => s.lowerGrant 0 g)
    (P := fun g (s : State) => s.fits s.points = true ∨ (s.group g).grant = 0) lowerGrant_zero
    (fun _ _ _ => lowerGrant_keeps_zero) s1.groupList.reverse s1
  have same := (Evaluates.foldl (f := fun s g => s.lowerGrant 0 g) (fun s g => s.evaluates_lowerGrant 0 g) s1.groupList.reverse s1).variant
  by_cases fits : (s1.groupList.reverse.foldl (fun s g => s.lowerGrant 0 g) s1).fits
      (s1.groupList.reverse.foldl (fun s g => s.lowerGrant 0 g) s1).points = true
  · exact .inl fits
  · refine .inr fun g hg => (each g ?_).resolve_left fits
    rw [same] at hg
    simpa [groupList] using hg

theorem demote_asked (h : s.GrantsAsked) : s.demote.GrantsAsked := by
  refine List.foldlRecOn (motive := GrantsAsked) _ _ h fun t ht lvl mem => ?_
  have low : lvl < 3 := by
    have : ∀ lvl ∈ [2, 1, 0], lvl < 3 := by decide
    exact this lvl mem
  exact List.foldlRecOn (motive := GrantsAsked) _ _ ht fun t ht g _ => lowerGrant_asked ht low

/-! ### The whole evaluation -/

/-- What each part of an evaluation keeps. -/
structure Sound (s t : State) : Prop where
  evaluates : Evaluates s t
  asked : s.GrantsAsked → t.GrantsAsked
  capped : s.Capped → t.Capped

theorem Sound.refl (s : State) : Sound s s := ⟨.refl s, id, id⟩

theorem Sound.trans {s t u : State} (h : Sound s t) (k : Sound t u) : Sound s u :=
  ⟨h.evaluates.trans k.evaluates, k.asked ∘ h.asked, k.capped ∘ h.capped⟩

theorem raiseGrants_sound (s : State) (l : List Nat) (top : lvl ≤ 3) : Sound s (l.foldl (fun s g => s.raiseGrant lvl g) s) :=
  List.foldlRecOn (motive := Sound s) l _ (Sound.refl s) fun _ ht g _ =>
    ht.trans ⟨evaluates_raiseGrant .., raiseGrant_asked, (raiseGrant_capped · top)⟩

theorem Sound.ite {s t u : State} {c : Prop} [Decidable c] (ht : Sound s t) (hu : Sound s u) : Sound s (if c then t else u) := by
  split
  · exact ht
  · exact hu

/-- A group at OP3 that no longer asks for it falls to OP2. -/
def unaskedFalls (s : State) (g : Nat) : State :=
  let x := s.group g
  if x.grant = 3 ∧ x.req ≠ 3 then s.setGroup g { x with grant := 2 } else s

theorem evaluates_unaskedFalls (s : State) (g : Nat) : Evaluates s (s.unaskedFalls g) := by
  unfold unaskedFalls
  dsimp only
  split
  · exact evaluates_setGroup rfl
  · exact .refl s

theorem unaskedFalls_ne {h : Nat} (ne : h ≠ g) : (s.unaskedFalls g).group h = s.group h := by
  unfold unaskedFalls
  dsimp only
  split
  · exact setGroup_group_ne _ _ ne
  · rfl

theorem unaskedFalls_asked (s : State) (g : Nat) :
    ((s.unaskedFalls g).group g).grant = 3 → ((s.unaskedFalls g).group g).req = 3 := by
  unfold unaskedFalls
  dsimp only
  split
  · rw [setGroup_group]
    exact fun three => absurd three (show (2 : Nat) ≠ 3 by decide)
  next h => exact fun three => by_contra fun req => h ⟨three, req⟩

theorem unaskedFall_asked (s : State) : (s.groupList.foldl unaskedFalls s).GrantsAsked := by
  have each := foldl_establishes (f := unaskedFalls) (P := fun g (s : State) => (s.group g).grant = 3 → (s.group g).req = 3)
    unaskedFalls_asked (fun s a b h => ?_) s.groupList s
  · intro g hg
    rw [(Evaluates.foldl evaluates_unaskedFalls s.groupList s).variant] at hg
    exact each g (List.mem_range.mpr hg)
  · by_cases here : b = a
    · subst here
      exact s.unaskedFalls_asked b
    · rw [unaskedFalls_ne here]
      exact h

/-- A group's rail is sent to the lowest of its REQ, CEIL and GRANT. -/
def railMoves (s : State) (g : Nat) : State :=
  let x := s.group g
  s.setGroup g { x with target := x.point, pending3 := x.req == 3 && x.grant != 3 }

/-- Where a group's rail is sent. -/
def RailSent (g : Nat) (s : State) : Prop :=
  (s.group g).target = (s.group g).point ∧ (s.group g).pending3 = ((s.group g).req == 3 && (s.group g).grant != 3)

theorem railMoves_sent (s : State) (g : Nat) : RailSent g (s.railMoves g) := by
  unfold RailSent railMoves
  dsimp only
  rw [setGroup_group]
  exact ⟨rfl, rfl⟩

theorem evaluates_railMoves (s : State) (g : Nat) : Evaluates s (s.railMoves g) := evaluates_setGroup rfl

theorem railMoves_grant (s : State) (g h : Nat) : ((s.railMoves g).group h).grant = (s.group h).grant := by
  unfold railMoves
  dsimp only
  by_cases here : h = g
  · subst here; rw [setGroup_group]
  · rw [setGroup_group_ne _ _ here]

theorem moveRails_grant (s : State) (h : Nat) : (s.moveRails.group h).grant = (s.group h).grant :=
  List.foldlRecOn (motive := fun t : State => (t.group h).grant = (s.group h).grant) s.groupList railMoves rfl
    fun t ht g _ => (t.railMoves_grant g h).trans ht

theorem evaluates_moveRails (s : State) : Evaluates s s.moveRails := .foldl evaluates_railMoves _ _

theorem moveRails_points (s : State) : s.moveRails.points = s.points := by
  funext g
  have h := s.evaluates_moveRails
  simp only [points, Group.point, h.req, h.ceil, moveRails_grant]

theorem moveRails_sent (s : State) {g : Nat} (hg : g < s.variant.groups) : RailSent g s.moveRails := by
  refine foldl_establishes (f := railMoves) (P := RailSent) railMoves_sent (fun s a b h => ?_) s.groupList s g
    (List.mem_range.mpr hg)
  by_cases here : b = a
  · subst here
    exact s.railMoves_sent b
  · unfold RailSent railMoves
    dsimp only
    rw [setGroup_group_ne _ _ here]
    exact h

theorem moveRails_sound (s : State) : Sound s s.moveRails := by
  have h := s.evaluates_moveRails
  refine ⟨h, fun asked g hg => ?_, fun capped => ?_⟩
  · rw [moveRails_grant, h.req]
    rw [h.variant] at hg
    exact asked g hg
  · rcases capped with fits | zero
    · refine .inl ?_
      rw [h.fits_eq, moveRails_points]
      exact fits
    · refine .inr fun g hg => ?_
      rw [moveRails_grant]
      rw [h.variant] at hg
      exact zero g hg

/-- An evaluation: it ends within the cap or with every GRANT at OP0, and sends every rail. -/
theorem evaluate_ends (s : State) : Evaluates s s.evaluate ∧ s.evaluate.Capped ∧ s.evaluate.GrantsAsked ∧
    ∀ g, g < s.variant.groups → RailSent g s.evaluate := by
  unfold evaluate
  extract_lets s1 s2 s3 s4 s5
  have e1 : Evaluates s s1 := .foldl evaluates_unaskedFalls s.groupList s
  have e2 : Evaluates s s2 := e1.trans s1.evaluates_demote
  have h3 : Sound s2 s3 := raiseGrants_sound _ _ (by decide)
  have h4 : Sound s3 s4 := Sound.ite (.refl s3) (raiseGrants_sound _ _ (by decide))
  have h5 : Sound s4 s5 := Sound.ite (.refl s4) (raiseGrants_sound _ _ (by decide))
  have all : Sound s2 s5.moveRails := h3.trans (h4.trans (h5.trans s5.moveRails_sound))
  have same : s5.variant = s.variant := (e2.trans (h3.evaluates.trans (h4.evaluates.trans h5.evaluates))).variant
  refine ⟨e2.trans all.evaluates, all.capped s1.demote_capped, all.asked (demote_asked s.unaskedFall_asked), fun g hg => ?_⟩
  exact s5.moveRails_sent (by rw [same]; exact hg)

theorem telemetry_frame (s : State) : ∃ p ds n, s.telemetry = { s with pwr := p, domains := ds, free := n } := by
  unfold telemetry
  extract_lets w v a _ s1
  refine List.foldlRecOn (motive := fun t : State => ∃ p ds n, t = { s with pwr := p, domains := ds, free := n }) _ _
    ⟨_, _, _, rfl⟩ ?_
  rintro _ ⟨_, _, _, rfl⟩ d _
  dsimp only
  split
  · exact ⟨_, _, _, rfl⟩
  · exact ⟨_, _, _, rfl⟩

end State

/-- Settles O22: lowering to OP0 in turn ends within the cap or with every GRANT at OP0, and a GRANT is raised only where the prediction
still fits. -/
theorem evaluationKeepsTheCap : Obligations.EvaluationKeepsTheCap := by
  intro s live
  obtain ⟨p, ds, n, read⟩ := s.telemetry_frame
  obtain ⟨ev, capped, asked, sent⟩ := s.telemetry.evaluate_ends
  have groups : s.telemetry.group = s.group := by rw [read]; rfl
  have variant : s.telemetry.variant = s.variant := by rw [read]
  have variant' : s.telemetry.evaluate.variant = s.variant := ev.variant.trans variant
  obtain ⟨gs, es, q, o, frame⟩ := ev.frame
  refine ⟨s.telemetry.evaluate, act_eq_next (f := fun s => s.telemetry.evaluate) live rfl (by rw [frame, read]) variant',
    capped.imp_right fun zero g hg => zero g (by rw [variant']; exact hg), fun g hg => ?_, by rw [frame, read]⟩
  obtain ⟨target, pending⟩ := sent g (by rw [variant]; exact hg)
  refine ⟨target, (ev.req g).trans (by rw [groups]), (ev.ceil g).trans (by rw [groups]), fun three => ⟨?_, ?_⟩⟩
  · exact asked g (by rw [variant']; exact hg) three
  · rw [pending, three]
    simp

end Sys2Proof.Machine
end

section
/-! SUPPORT. Input power above the cap (R67): the highest group at OP3 is the first that moves. -/

set_option Elab.async false

namespace Sys2Proof.Machine

namespace State

variable {s : State}

/-- What input power above the cap does to one group, and whether a group has moved. -/
def overCapStep (p : State × Bool) (g : Nat) : State × Bool :=
  let x := p.1.group g
  let below := decide (p.1.powerLoad p.1.points * 31 + 50 * 480000000 < p.1.pwr.cap * 480000000)
  if x.point = 3 ∧ (p.2 = false ∨ below = false) then (p.1.setGroup g { x with grant := 2 }, true) else p

theorem overCapStep_other {p : State × Bool} {g : Nat} (h : (p.1.group g).point ≠ 3) : overCapStep p g = p :=
  if_neg fun c => h c.1

theorem overCapStep_first {g : Nat} (h : (s.group g).point = 3) :
    overCapStep (s, false) g = (s.setGroup g { s.group g with grant := 2 }, true) :=
  if_pos ⟨h, .inl rfl⟩

/-- Groups that are not at OP3 stay. -/
theorem overCap_none {l : List Nat} (h : ∀ g ∈ l, (s.group g).point ≠ 3) : l.foldl overCapStep (s, false) = (s, false) := by
  induction l with
  | nil => rfl
  | cons g r ih =>
    rw [List.foldl_cons, overCapStep_other (h g (List.mem_cons_self ..))]
    exact ih fun i hi => h i (List.mem_cons_of_mem _ hi)

/-- What the groups of a list leave: everything but the groups, and of them those outside the list. -/
theorem overCap_rest (l : List Nat) (p : State × Bool) :
    (∃ gs, (l.foldl overCapStep p).1 = { p.1 with groups := gs }) ∧ ∀ h, h ∉ l → (l.foldl overCapStep p).1.group h = p.1.group h := by
  induction l generalizing p with
  | nil => exact ⟨⟨_, rfl⟩, fun _ _ => rfl⟩
  | cons g r ih =>
    obtain ⟨⟨gs, e⟩, others⟩ := ih (overCapStep p g)
    have one : (∃ gs, (overCapStep p g).1 = { p.1 with groups := gs }) ∧ ∀ h, h ≠ g → (overCapStep p g).1.group h = p.1.group h := by
      unfold overCapStep
      dsimp only
      split
      · exact ⟨⟨_, rfl⟩, fun h ne => setGroup_group_ne _ _ ne⟩
      · exact ⟨⟨_, rfl⟩, fun _ _ => rfl⟩
    obtain ⟨⟨gs1, e1⟩, others1⟩ := one
    refine ⟨⟨gs, ?_⟩, fun h out => ?_⟩
    · rw [List.foldl_cons, e, e1]
    · rw [List.foldl_cons, others h fun m => out (List.mem_cons_of_mem _ m)]
      exact others1 h fun e => out (e ▸ List.mem_cons_self ..)

/-- The groups, highest first, around one of them. -/
theorem groupList_split {g : Nat} (hg : g < s.variant.groups) :
    ∃ above below, s.groupList.reverse = above ++ g :: below ∧ (∀ h ∈ above, g < h ∧ h < s.variant.groups) ∧ ∀ h ∈ below, h < g := by
  have mem : g ∈ s.groupList.reverse := by simpa [groupList] using hg
  obtain ⟨above, below, e⟩ := List.append_of_mem mem
  have falling : (s.groupList.reverse).Pairwise (· > ·) := List.pairwise_reverse.mpr List.pairwise_lt_range
  rw [e] at falling
  obtain ⟨-, tail, cross⟩ := List.pairwise_append.mp falling
  refine ⟨above, below, e, fun h m => ⟨cross h m g (List.mem_cons_self ..), ?_⟩, fun h m => (List.pairwise_cons.mp tail).1 h m⟩
  have listed : h ∈ s.groupList.reverse := by rw [e]; exact List.mem_append_left _ m
  simpa [groupList] using listed

end State

/-- Settles O23: the groups above are not at OP3, so none has moved when the highest group at OP3 has its turn; its REQ and CEIL are
above OP2, so its rail goes there. -/
theorem overCapLowersTheHighestGroup : Obligations.OverCapLowersTheHighestGroup := by
  intro s w g live
  refine ⟨fun low => ?_, fun high hg three highest => ?_⟩
  · have lowered : s.overCap w = { s with pwr := { s.pwr with inputW := w % 4096 } } := if_pos low
    exact ⟨_, act_eq_next (f := (State.overCap · w)) live lowered, rfl⟩
  · let s0 : State := { s with pwr := { s.pwr with inputW := w % 4096 } }
    obtain ⟨above, below, e, hAbove, hBelow⟩ := State.groupList_split (s := s0) hg
    let s1 := s0.setGroup g { s0.group g with grant := 2 }
    let s2 := (below.foldl State.overCapStep (s1, true)).1
    have lowered : s.overCap w = s2.moveRails := by
      have fold : s.overCap w = (s0.groupList.reverse.foldl State.overCapStep (s0, false)).1.moveRails := if_neg (by omega)
      rw [fold, e, List.foldl_append, State.overCap_none (s := s0) fun h m => highest h (hAbove h m).2 (hAbove h m).1, List.foldl_cons,
        State.overCapStep_first (s := s0) three]
    obtain ⟨⟨gs, e2⟩, others⟩ := State.overCap_rest below (s1, true)
    obtain ⟨gs', e3⟩ := s2.moveRails_frame
    have frame : s.overCap w = { s with groups := gs', pwr := { s.pwr with inputW := w % 4096 } } := by
      rw [lowered, e3]
      simp only [s2]
      rw [e2]
      rfl
    have mine : s2.group g = { s.group g with grant := 2 } :=
      (others g fun m => Nat.lt_irrefl _ (hBelow g m)).trans (State.setGroup_group ..)
    have point : (s2.group g).point = 2 := by
      rw [mine]
      unfold Group.point at three ⊢
      dsimp only
      simp only [Nat.min_def] at *
      split_ifs at * <;> omega
    have inS2 : g < s2.variant.groups := by
      simp only [s2]
      rw [e2]
      exact hg
    refine ⟨_, act_eq_next (f := (State.overCap · w)) live rfl (by rw [frame]) (by rw [frame]), ?_, ?_, ?_, fun h up hh => ?_, ?_⟩
    · rw [lowered, State.moveRails_grant, mine]
    · rw [lowered, (State.moveRails_sent s2 inS2).1]
      exact (congrFun s2.moveRails_points g).trans point
    · rw [frame]
    · rw [lowered, State.moveRails_grant]
      have out : h ∉ below := fun m => absurd (hBelow h m) (by omega)
      exact congrArg Group.grant ((others h out).trans (State.setGroup_group_ne _ _ (Nat.ne_of_gt up)))
    · rw [frame]

end Sys2Proof.Machine
end

section
/-! SUPPORT. Ceilings: lowering them, the coolant loop and what raises them again (R361 to R364). -/

set_option Elab.async false

namespace Sys2Proof.Machine

/-- A group but for its CEIL. -/
def Group.butCeil (x : Group) : Group := { x with ceil := 0 }

/-- What lowering ceilings may change: CEILs, downwards; and it clears no event bit. -/
structure Lowers (s t : State) : Prop where
  frame : ∃ gs es p o, t = { s with groups := gs, events := es, plk := p, out := o }
  others : ∀ g, (t.group g).butCeil = (s.group g).butCeil
  ceil_le : ∀ g, (t.group g).ceil ≤ (s.group g).ceil
  bits : ∀ e b, bitAt (s.ev e).value b = true → bitAt (t.ev e).value b = true

namespace Lowers

variable {s t u : State}

theorem refl (s : State) : Lowers s s := ⟨⟨_, _, _, _, rfl⟩, fun _ => rfl, fun _ => Nat.le_refl _, fun _ _ => id⟩

theorem trans (h : Lowers s t) (k : Lowers t u) : Lowers s u := by
  obtain ⟨⟨_, _, _, _, rfl⟩, ho, hc, hb⟩ := h
  obtain ⟨⟨_, _, _, _, rfl⟩, ko, kc, kb⟩ := k
  exact ⟨⟨_, _, _, _, rfl⟩, fun g => (ko g).trans (ho g), fun g => (kc g).trans (hc g), fun e b => kb e b ∘ hb e b⟩

/-- What lowering ceilings does not set of a group is read back. -/
theorem of_others (h : Lowers s t) {α : Type} (f : Group → α) (hf : ∀ x, f x.butCeil = f x := by intro; rfl) (g : Nat) :
    f (t.group g) = f (s.group g) := by
  rw [← hf (t.group g), h.others, hf]

theorem variant (h : Lowers s t) : t.variant = s.variant := by
  obtain ⟨⟨_, _, _, _, rfl⟩, -, -, -⟩ := h
  rfl

end Lowers

namespace State

variable {s : State}

/-! ### One ceiling -/

theorem lowerCeil_cases (s : State) (g c : Nat) : ((s.group g).ceil ≤ c ∧ s.lowerCeil g c = s) ∨
    (c < (s.group g).ceil ∧ s.lowerCeil g c = (s.setGroup g { s.group g with ceil := c }).raiseEv evPwr 4) := by
  unfold lowerCeil
  dsimp only
  split
  next h => exact .inl ⟨h, rfl⟩
  next h => exact .inr ⟨Nat.lt_of_not_le h, rfl⟩

/-- The CEIL that lowering leaves. -/
theorem lowerCeil_ceil (s : State) (g c : Nat) : ((s.lowerCeil g c).group g).ceil = Nat.min (s.group g).ceil c := by
  rcases s.lowerCeil_cases g c with ⟨le, e⟩ | ⟨lt, e⟩ <;> rw [e]
  · exact (Nat.min_eq_left le).symm
  · rw [raiseEv_group, setGroup_group]
    exact (Nat.min_eq_right (Nat.le_of_lt lt)).symm

theorem lowerCeil_ne (s : State) {g h : Nat} (c : Nat) (ne : h ≠ g) : (s.lowerCeil g c).group h = s.group h := by
  rcases s.lowerCeil_cases g c with ⟨-, e⟩ | ⟨-, e⟩ <;> rw [e]
  rw [raiseEv_group, setGroup_group_ne _ _ ne]

theorem lowerCeil_bit (s : State) {g c : Nat} (lt : c < (s.group g).ceil) : bitAt ((s.lowerCeil g c).ev evPwr).value 4 = true := by
  rcases s.lowerCeil_cases g c with ⟨le, -⟩ | ⟨-, e⟩
  · exact absurd lt (Nat.not_lt.mpr le)
  · rw [e, raiseEv_value, bitAt_or_two_pow_self]

theorem lowers_lowerCeil (s : State) (g c : Nat) : Lowers s (s.lowerCeil g c) := by
  rcases s.lowerCeil_cases g c with ⟨-, e⟩ | ⟨lt, e⟩ <;> rw [e]
  · exact .refl s
  · refine ⟨?_, fun h => ?_, fun h => ?_, fun e b hb => raiseEv_bits _ _ _ _ _ hb⟩
    · rw [raiseEv_eq]
      exact ⟨_, _, _, _, rfl⟩
    · rw [raiseEv_group]
      by_cases here : h = g
      · subst here; rw [setGroup_group]; rfl
      · rw [setGroup_group_ne _ _ here]
    · rw [raiseEv_group]
      by_cases here : h = g
      · subst here; rw [setGroup_group]; exact Nat.le_of_lt lt
      · rw [setGroup_group_ne _ _ here]

/-! ### Every ceiling -/

theorem lowers_lowerCeils (s : State) (c : Nat) : Lowers s (s.lowerCeils c) :=
  List.foldlRecOn (motive := Lowers s) s.groupList (fun s g => s.lowerCeil g c) (.refl s) fun t ht g _ =>
    ht.trans (t.lowers_lowerCeil g c)

theorem lowerCeils_ceil (s : State) {g : Nat} (c : Nat) (hg : g < s.variant.groups) : ((s.lowerCeils c).group g).ceil ≤ c :=
  foldl_establishes (f := fun s g => s.lowerCeil g c) (P := fun g (s : State) => (s.group g).ceil ≤ c)
    (fun s g => by rw [lowerCeil_ceil]; exact Nat.min_le_right _ _)
    (fun s a b h => ((s.lowers_lowerCeil a c).ceil_le b).trans h) s.groupList s g (List.mem_range.mpr hg)

/-- A group's rail goes no higher than its CEIL. -/
theorem evaluate_target_le (s : State) {g : Nat} (hg : g < s.variant.groups) : (s.evaluate.group g).target ≤ (s.group g).ceil := by
  obtain ⟨ev, -, -, sent⟩ := s.evaluate_ends
  rw [(sent g hg).1, ← ev.ceil g]
  exact (Nat.min_le_left _ _).trans (Nat.min_le_right _ _)

theorem evaluates_evaluate (s : State) : Evaluates s s.evaluate := s.evaluate_ends.1

/-! ### The coolant loop -/

theorem clampInt_bounds {x lo hi : Int} (h : lo ≤ hi) : lo ≤ clampInt x lo hi ∧ clampInt x lo hi ≤ hi := by
  unfold clampInt
  omega

/-- A clamp about a value within some bounds keeps those bounds. -/
theorem clampInt_within {x lo hi a b : Int} (hx : a ≤ x ∧ x ≤ b) (low : lo ≤ b) (high : a ≤ hi) :
    a ≤ clampInt x lo hi ∧ clampInt x lo hi ≤ b := by
  unfold clampInt
  omega

theorem readTemps_frame (l : List Nat) (s : State) : ∃ h n, l.foldl (fun (s : State) k =>
    let t := s.fresh 8
    t.2.setStack k { t.2.stack k with temp := t.1 }) s = { s with hbm := h, free := n } := by
  refine List.foldlRecOn (motive := fun t : State => ∃ h n, t = { s with hbm := h, free := n }) _ _ ⟨_, _, rfl⟩ ?_
  rintro _ ⟨_, _, rfl⟩ k _
  exact ⟨_, _, rfl⟩

/-- The integral that a pass leaves. -/
def loopIntegral (s : State) (tj th : Nat) : Int :=
  let e : Int := Max.max ((tj : Int) - (s.pwr.tjTarget : Int)) ((th : Int) - (s.pwr.hbmTarget : Int))
  if s.pwr.valve = 1000 * permille ∨ s.pwr.valve = (s.pwr.valveMin : Int) * permille then s.pwr.integ10
  else clampInt (s.pwr.integ10 + 8 * e) (-5000) 10000

/-- The valve that a pass commands. -/
def loopValve (s : State) (tj th : Nat) : Int :=
  let e : Int := Max.max ((tj : Int) - (s.pwr.tjTarget : Int)) ((th : Int) - (s.pwr.hbmTarget : Int))
  clampInt (clampInt ((s.powerLoad s.points : Nat) + 40 * e * permille + s.loopIntegral tj th * (permille / 10))
    ((s.pwr.valveMin : Int) * permille) (1000 * permille)) (s.pwr.valve - 50 * permille) (s.pwr.valve + 50 * permille)

/-- The readings and the command of a pass. -/
def looped (s : State) (tj th inlet outlet pos : Nat) : Pwr :=
  { s.pwr with
    valve := if s.pwr.cooling then 1000 * permille else s.loopValve tj th, integ10 := s.loopIntegral tj th
    err := Max.max ((tj : Int) - (s.pwr.tjTarget : Int)) ((th : Int) - (s.pwr.hbmTarget : Int)), inlet := inlet % 256
    outlet := outlet % 256, pos := pos % 1024, tjMax := tj % 256 }

/-- A pass stores its readings, reads the stacks' temperatures, and with the inlet at INLET_MAX lowers the ceilings. -/
theorem loopPass_eq (s : State) (tj th inlet outlet pos : Nat) : ∃ h n, s.loopPass tj th inlet outlet pos =
    (let s2 : State := { s with pwr := s.looped tj th inlet outlet pos, hbm := h, free := n }
      if s.pwr.inletMax ≤ inlet then s2.lowerCeils 1 else s2).evaluate := by
  obtain ⟨h, n, e⟩ := readTemps_frame ((List.range 16).filter s.variant.stack)
    { s with pwr := s.looped tj th inlet outlet pos }
  refine ⟨h, n, ?_⟩
  dsimp only
  rw [← e]
  rfl

theorem loopIntegral_bounds {s : State} (low : -5000 ≤ s.pwr.integ10) (high : s.pwr.integ10 ≤ 10000) (tj th : Nat) :
    -5000 ≤ s.loopIntegral tj th ∧ s.loopIntegral tj th ≤ 10000 := by
  unfold loopIntegral
  dsimp only
  split
  · exact ⟨low, high⟩
  · exact clampInt_bounds (by decide)

theorem loopValve_bounds {s : State} (low : (s.pwr.valveMin : Int) * permille ≤ s.pwr.valve) (high : s.pwr.valve ≤ 1000 * permille)
    (tj th : Nat) :
    ((s.pwr.valveMin : Int) * permille ≤ s.loopValve tj th ∧ s.loopValve tj th ≤ 1000 * permille) ∧
      s.pwr.valve - 50 * permille ≤ s.loopValve tj th ∧ s.loopValve tj th ≤ s.pwr.valve + 50 * permille := by
  have pos : (0 : Int) ≤ 50 * permille := by decide
  exact ⟨clampInt_within (clampInt_bounds (low.trans high)) (by omega) (by omega), clampInt_bounds (by omega)⟩

/-! ### The group that may rise -/

/-- Of the groups that may rise the lowest, and of those the first, is the one that rises. -/
theorem coolest_found {s : State} {g : Nat} (mem : g ∈ s.coolGroups)
    (least : ∀ h ∈ s.coolGroups, (s.group g).ceil < (s.group h).ceil ∨ ((s.group g).ceil = (s.group h).ceil ∧ g ≤ h)) :
    ([0, 1, 2].findSome? fun c => s.coolGroups.find? fun g => (s.group g).ceil == c) = some g := by
  have low : (s.group g).ceil ≤ 2 := by
    have may := (List.mem_filter.mp mem).2
    simp only [Bool.and_eq_true, decide_eq_true_eq] at may
    have top := may.2
    split at top <;> omega
  have rising : s.coolGroups.Pairwise (· < ·) := List.pairwise_lt_range.filter _
  have none_below : ∀ c, c < (s.group g).ceil → (s.coolGroups.find? fun g => (s.group g).ceil == c) = none := by
    intro c lt
    rw [List.find?_eq_none]
    intro h hm
    rcases least h hm with l | ⟨e, -⟩ <;> simp <;> omega
  have here : (s.coolGroups.find? fun h => (s.group h).ceil == (s.group g).ceil) = some g := by
    obtain ⟨before, after, e⟩ := List.append_of_mem mem
    refine List.find?_eq_some_iff_append.mpr ⟨by simp, before, after, e, fun h hm => ?_⟩
    have hin : h ∈ s.coolGroups := by rw [e]; exact List.mem_append_left _ hm
    have lt : h < g := by
      rw [e] at rising
      exact (List.pairwise_append.mp rising).2.2 h hm g (List.mem_cons_self ..)
    rcases least h hin with l | ⟨-, le⟩
    · simpa using Nat.ne_of_gt l
    · omega
  generalize (s.group g).ceil = c at low none_below here
  match c, low with
  | 0, _ => simp [here]
  | 1, _ => simp [here, none_below 0 (by decide)]
  | 2, _ => simp [here, none_below 0 (by decide), none_below 1 (by decide)]

end State

/-! ### The statements -/

section
variable {s : State} (live : s.flt.fatal = false)
include live

theorem coolantLoopPass_bounds {tj th inlet outlet pos : Nat} (cooling : s.pwr.cooling = false)
    (low : (s.pwr.valveMin : Int) * permille ≤ s.pwr.valve) (high : s.pwr.valve ≤ 1000 * permille)
    (iLow : -5000 ≤ s.pwr.integ10) (iHigh : s.pwr.integ10 ≤ 10000) :
      ∃ t, exec (.coolantLoopPass tj th inlet outlet pos) s = .next t ∧
        (s.pwr.valveMin : Int) * permille ≤ t.pwr.valve ∧ t.pwr.valve ≤ 1000 * permille ∧
        t.pwr.valve ≤ s.pwr.valve + 50 * permille ∧ s.pwr.valve - 50 * permille ≤ t.pwr.valve ∧
        -5000 ≤ t.pwr.integ10 ∧ t.pwr.integ10 ≤ 10000 ∧
        t.pwr.err = Max.max ((tj : Int) - (s.pwr.tjTarget : Int)) ((th : Int) - (s.pwr.hbmTarget : Int)) ∧
        (s.pwr.inletMax ≤ inlet → ∀ g, g < s.variant.groups → (t.group g).ceil ≤ 1) ∧
        (inlet < s.pwr.inletMax → ∀ g, (t.group g).ceil = (s.group g).ceil) ∧
        t = { s with pwr := t.pwr, hbm := t.hbm, groups := t.groups, events := t.events, plk := t.plk, out := t.out, free := t.free } := by
  obtain ⟨h, n, pass⟩ := s.loopPass_eq tj th inlet outlet pos
  let s2 : State := { s with pwr := s.looped tj th inlet outlet pos, hbm := h, free := n }
  let s3 := if s.pwr.inletMax ≤ inlet then s2.lowerCeils 1 else s2
  have lowered : Lowers s2 s3 := by
    simp only [s3]
    split
    · exact s2.lowers_lowerCeils 1
    · exact .refl s2
  have ev : Evaluates s3 s3.evaluate := s3.evaluates_evaluate
  obtain ⟨_, _, _, _, e3⟩ := lowered.frame
  obtain ⟨_, _, _, _, e4⟩ := ev.frame
  have frame : s.loopPass tj th inlet outlet pos = s3.evaluate := pass
  have pwr : s3.evaluate.pwr = s.looped tj th inlet outlet pos := by rw [e4, e3]
  obtain ⟨⟨vLow, vHigh⟩, vDown, vUp⟩ := State.loopValve_bounds low high tj th
  obtain ⟨iL, iH⟩ := State.loopIntegral_bounds iLow iHigh tj th
  have valve : s3.evaluate.pwr.valve = s.loopValve tj th := by simp [pwr, State.looped, cooling]
  refine ⟨s3.evaluate, act_eq_next (f := (State.loopPass · tj th inlet outlet pos)) live frame (by rw [e4, e3]) (by rw [e4, e3]),
    by rwa [valve], by rwa [valve], by rwa [valve], by rwa [valve], by rwa [pwr], by rwa [pwr], by rw [pwr]; rfl,
    fun hot g hg => ?_, fun cool g => ?_, by rw [e4, e3]⟩
  · have s3eq : s3 = s2.lowerCeils 1 := if_pos hot
    rw [ev.ceil, s3eq]
    exact s2.lowerCeils_ceil 1 hg
  · have s3eq : s3 = s2 := if_neg (Nat.not_le.mpr cool)
    rw [ev.ceil, s3eq]
    rfl

theorem ceilLower_lowers {k : Nat} (present : s.variant.quad k = true) (wide : s.pwr.valve = 1000 * permille) (hot : 2 < s.pwr.err) :
      ∃ t, exec (.ceilLower k) s = .next t ∧ (t.group (k / 4)).ceil = (s.group (k / 4)).ceil - 1 ∧
        (∀ g, g ≠ k / 4 → (t.group g).ceil = (s.group g).ceil) ∧
        (0 < (s.group (k / 4)).ceil → bitAt (t.ev evPwr).value 4 = true) ∧
        t = { s with groups := t.groups, events := t.events, plk := t.plk, out := t.out } := by
  let s1 := s.lowerCeil (k / 4) ((s.group (k / 4)).ceil - 1)
  have falls : s.hottestFalls k = s1.evaluate := if_pos ⟨present, wide, hot⟩
  have ev := s1.evaluates_evaluate
  have lowered : Lowers s s1 := s.lowers_lowerCeil _ _
  obtain ⟨_, _, _, _, e1⟩ := lowered.frame
  obtain ⟨_, _, _, _, e2⟩ := ev.frame
  refine ⟨_, act_eq_next (f := (State.hottestFalls · k)) live falls (by rw [e2, e1]) (by rw [e2, e1]), ?_, fun g ne => ?_, fun pos => ?_,
    by rw [e2, e1]⟩
  · rw [ev.ceil, State.lowerCeil_ceil]
    exact Nat.min_eq_right (Nat.sub_le _ _)
  · rw [ev.ceil, State.lowerCeil_ne _ _ ne]
  · exact ev.bits _ _ (s.lowerCeil_bit (by omega))

theorem ceilRaise_raises {g : Nat} (cool : s.pwr.inlet < s.pwr.inletMax) (narrow : s.pwr.valve < 900 * permille) (cold : s.pwr.err < -3)
    (mem : g ∈ s.coolGroups)
    (least : ∀ h ∈ s.coolGroups, (s.group g).ceil < (s.group h).ceil ∨ ((s.group g).ceil = (s.group h).ceil ∧ g ≤ h)) :
      ∃ t, exec .ceilRaise s = .next t ∧ (t.group g).ceil = (s.group g).ceil + 1 ∧
        (∀ h, h ≠ g → (t.group h).ceil = (s.group h).ceil) ∧
        t = { s with groups := t.groups, events := t.events, plk := t.plk, out := t.out } := by
  let s1 := s.setGroup g { s.group g with ceil := (s.group g).ceil + 1 }
  have rises : s.coolestRises = s1.evaluate := by
    rw [State.coolestRises, if_pos ⟨cool, narrow, cold⟩, State.coolest_found mem least]
  have ev := s1.evaluates_evaluate
  obtain ⟨_, _, _, _, e⟩ := ev.frame
  refine ⟨_, act_eq_next live rises (by rw [e]; rfl) (by rw [e]; rfl), ?_, fun h ne => ?_, by rw [e]; rfl⟩
  · rw [ev.ceil, State.setGroup_group]
  · rw [ev.ceil, State.setGroup_group_ne _ _ ne]

end

/-- Settles O25: a clamp about the old valve keeps the bounds that the old valve was within, and an evaluation leaves every CEIL. -/
theorem coolantLoopKeepsItsBounds : Obligations.CoolantLoopKeepsItsBounds := fun _ live =>
  ⟨fun _ _ _ _ _ cooling low high _ iLow iHigh => coolantLoopPass_bounds live cooling low high iLow iHigh,
    fun _ present wide hot => ceilLower_lowers live present wide hot,
    fun _ cool narrow cold mem least => ceilRaise_raises live cool narrow cold mem least⟩

/-! ### Heat -/

/-- What counts as a cooling fault (R364). -/
theorem State.coolingFault_iff (s : State) : s.coolingFault = true ↔
    (100 < ((s.pwr.pos : Int) - s.pwr.valve / permille).natAbs ∨ 90 < s.pwr.inlet ∨ 90 < s.pwr.outlet ∨
      (s.pwr.outlet + 2 < s.pwr.inlet ∧ 500 < s.pwr.inputW)) := by
  simp only [State.coolingFault, Bool.or_eq_true, Bool.and_eq_true, decide_eq_true_eq, or_assoc]

section
variable {s : State} (live : s.flt.fatal = false)
include live

theorem coolingFault_lowers (fails : s.coolingFault = true) :
    ∃ t, exec .coolingFault s = .next t ∧ t.pwr.cooling = true ∧ t.pwr.valve = 1000 * permille ∧
      (∀ g, g < s.variant.groups → (t.group g).ceil ≤ 1 ∧ (t.group g).target ≤ 1) ∧ bitAt (t.ev evPwr).value 7 = true ∧
      t.pins.alertN = false ∧
      t = { s with pwr := t.pwr, groups := t.groups, events := t.events, plk := t.plk, out := t.out, pins := t.pins } := by
  let s0 : State := { s with pwr := { s.pwr with cooling := true, valve := 1000 * permille } }
  let s1 := s0.lowerCeils 1
  let s2 := (s1.raiseEv evPwr 7).alert
  have fault : s.coolingFails = s2.evaluate := by
    rw [State.coolingFails, if_neg (by simp [fails])]
  have ev := s2.evaluates_evaluate
  have lowered : Lowers s0 s1 := s0.lowers_lowerCeils 1
  obtain ⟨_, _, _, _, e1⟩ := lowered.frame
  obtain ⟨_, _, _, _, e3⟩ := ev.frame
  have e2 : s2 = { s1 with
      events := (s1.raiseEv evPwr 7).events, plk := (s1.raiseEv evPwr 7).plk, out := (s1.raiseEv evPwr 7).out
      pins := { s1.pins with alertN := false } } := by
    simp only [s2, State.alert]
    rw [State.raiseEv_eq]
  have ceil : ∀ g, g < s.variant.groups → (s2.group g).ceil ≤ 1 := fun g hg => by
    show ((s1.raiseEv evPwr 7).group g).ceil ≤ 1
    rw [raiseEv_group]
    exact s0.lowerCeils_ceil 1 hg
  have bit : bitAt (s2.ev evPwr).value 7 = true := by
    show bitAt ((s1.raiseEv evPwr 7).ev evPwr).value 7 = true
    rw [State.raiseEv_value, bitAt_or_two_pow_self]
  have same : s2.variant = s.variant := by rw [e2, e1]
  refine ⟨_, act_eq_next live fault (by rw [e3, e2, e1]) (by rw [e3, e2, e1]), by rw [e3, e2, e1], by rw [e3, e2, e1], fun g hg => ⟨?_, ?_⟩,
    ev.bits _ _ bit, by rw [e3]; rfl, by rw [e3, e2, e1]⟩
  · rw [ev.ceil]
    exact ceil g hg
  · exact (s2.evaluate_target_le (by rw [same]; exact hg)).trans (ceil g hg)

theorem tjHot_lowers {k tj : Nat} (present : s.variant.quad k = true) (hot : s.pwr.tjHot ≤ tj) :
      ∃ t, exec (.tjHot k tj) s = .next t ∧ (t.group (k / 4)).hot = true ∧ (t.group (k / 4)).ceil = 0 ∧
        (t.group (k / 4)).target = 0 ∧ bitAt (t.ev evPwr).value 5 = true ∧
        (∀ g, g ≠ k / 4 → (t.group g).ceil = (s.group g).ceil ∧ (t.group g).hot = (s.group g).hot) ∧
        t = { s with groups := t.groups, events := t.events, plk := t.plk, out := t.out } := by
  let s1 := s.setGroup (k / 4) { s.group (k / 4) with hot := true }
  let s2 := s1.lowerCeil (k / 4) 0
  let s3 := s2.raiseEv evPwr 5
  have junction : s.junctionHot k tj = s3.evaluate := if_pos ⟨present, hot⟩
  have ev := s3.evaluates_evaluate
  have lowered : Lowers s1 s2 := s1.lowers_lowerCeil _ _
  obtain ⟨_, _, _, _, e2⟩ := lowered.frame
  have e3 : s3 = { s2 with events := s3.events, plk := s3.plk, out := s3.out } := State.raiseEv_eq ..
  obtain ⟨_, _, _, _, e4⟩ := ev.frame
  have frame : s3.evaluate = { s with
      groups := s3.evaluate.groups, events := s3.evaluate.events, plk := s3.evaluate.plk, out := s3.evaluate.out } := by
    rw [e4, e3, e2]
    rfl
  have group : ∀ g, s3.group g = s2.group g := fun g => raiseEv_group ..
  have ceil : (s3.group (k / 4)).ceil = 0 := by
    rw [group, State.lowerCeil_ceil]
    exact Nat.min_zero _
  have inGroups : k / 4 < s3.variant.groups := by
    have lt : k < 4 * s.variant.groups := by simpa [Variant.quad] using present
    have same : s3.variant = s.variant := by rw [e3, e2]; rfl
    rw [same]
    omega
  refine ⟨_, act_eq_next (f := (State.junctionHot · k tj)) live junction (by rw [frame]) (by rw [frame]), ?_, ?_, ?_, ?_, fun g ne => ⟨?_, ?_⟩, frame⟩
  · rw [ev.hot, group, lowered.of_others Group.hot, State.setGroup_group]
  · rw [ev.ceil, ceil]
  · exact Nat.le_zero.mp ((s3.evaluate_target_le inGroups).trans (by rw [ceil]))
  · refine ev.bits _ _ ?_
    rw [State.raiseEv_value, bitAt_or_two_pow_self]
  · rw [ev.ceil, group, State.lowerCeil_ne _ _ ne, State.setGroup_group_ne _ _ ne]
  · rw [ev.hot, group, State.lowerCeil_ne _ _ ne, State.setGroup_group_ne _ _ ne]

theorem hotClear_raises {g : Nat} (hot : (s.group g).hot = true) :
      ∃ t, exec (.hotClear g) s = .next t ∧ (t.group g).hot = false ∧ (t.group g).ceil = Nat.max 1 (s.group g).ceil ∧
        (∀ h, h ≠ g → (t.group h).ceil = (s.group h).ceil ∧ (t.group h).hot = (s.group h).hot) ∧
        t = { s with groups := t.groups, events := t.events, plk := t.plk, out := t.out } := by
  let s1 := s.setGroup g { s.group g with hot := false, ceil := Nat.max 1 (s.group g).ceil }
  have clear : s.hotOver g = s1.evaluate := if_pos hot
  have ev := s1.evaluates_evaluate
  obtain ⟨_, _, _, _, e⟩ := ev.frame
  refine ⟨_, act_eq_next (f := (State.hotOver · g)) live clear (by rw [e]; rfl) (by rw [e]; rfl), ?_, ?_, fun h ne => ⟨?_, ?_⟩, by rw [e]; rfl⟩
  · rw [ev.hot, State.setGroup_group]
  · rw [ev.ceil, State.setGroup_group]
  · rw [ev.ceil, State.setGroup_group_ne _ _ ne]
  · rw [ev.hot, State.setGroup_group_ne _ _ ne]

end

/-- Settles O26: an evaluation leaves CEILs and the hot marks, sends no rail above its CEIL and clears no event bit. -/
theorem heatLowersCeilings : Obligations.HeatLowersCeilings := by
  intro s live fails
  have iff : s.coolingFault = true ↔ fails := s.coolingFault_iff
  refine ⟨fun no => ?_, fun yes => coolingFault_lowers live (iff.mpr yes), fun cooling no clear => ?_, fun stands => ?_,
    fun k tj present hot => tjHot_lowers live present hot, fun g hot => hotClear_raises live hot⟩
  · have none : s.coolingFails = s := if_pos (Bool.eq_false_of_not_eq_true fun c => no (iff.mp c))
    exact act_eq_next live none
  · have over_ : s.coolingOver = { s with pwr := { s.pwr with cooling := false } } :=
      if_pos ⟨cooling, Bool.eq_false_of_not_eq_true fun c => no (iff.mp c), clear⟩
    exact ⟨_, act_eq_next live over_, rfl⟩
  · have none : s.coolingOver = s := by
      refine if_neg fun ⟨_, no, clear⟩ => ?_
      rcases stands with f | b
      · rw [iff.mpr f] at no; cases no
      · rw [b] at clear; cases clear
    exact act_eq_next live none

end Sys2Proof.Machine
end

section
/-! SUPPORT. Wear (R368, R369): the root that gives k, stress and measurements. -/

set_option Elab.async false

namespace Sys2Proof.Machine

namespace State

/-- The bits from the highest down give the largest number whose 100th power times `den` is within `num`. -/
theorem root100_bounds {num den n k : Nat} (low : k ^ 100 * den ≤ num) (high : num < (k + 2 ^ n) ^ 100 * den) :
    root100 num den n k ^ 100 * den ≤ num ∧ num < (root100 num den n k + 1) ^ 100 * den := by
  induction n generalizing k with
  | zero => exact ⟨low, high⟩
  | succ n ih =>
    rw [root100]
    split
    next fits =>
      refine ih fits ?_
      have sum : k + 2 ^ n + 2 ^ n = k + 2 ^ (n + 1) := by rw [Nat.pow_succ]; omega
      rwa [sum]
    next beyond => exact ih low (Nat.lt_of_not_le beyond)

/-- Enough bits for k: a thousand is below 2^10, and 3 below 2^2. -/
theorem stressK_short (tj mv e : Nat) (pos : e ≠ 0) (he : 100 = e) :
    1000 ^ e * 2 ^ (10 * (tj - 70)) * 3 ^ (mv - 750) < (2 ^ (12 + tj / 10 + 2 * (mv / 100))) ^ e := by
  have thousand : 1000 ^ e < 2 ^ (10 * e) := by
    rw [Nat.pow_mul]
    exact Nat.pow_lt_pow_left (by decide) pos
  have three : 3 ^ (mv - 750) ≤ 2 ^ (2 * (mv - 750)) := by
    rw [Nat.pow_mul]
    exact Nat.pow_le_pow_left (by decide) _
  calc 1000 ^ e * 2 ^ (10 * (tj - 70)) * 3 ^ (mv - 750)
      ≤ 1000 ^ e * 2 ^ (10 * (tj - 70)) * 2 ^ (2 * (mv - 750)) := Nat.mul_le_mul_left _ three
    _ < 2 ^ (10 * e) * 2 ^ (10 * (tj - 70)) * 2 ^ (2 * (mv - 750)) := by
      gcongr
    _ = 2 ^ (10 * e + 10 * (tj - 70) + 2 * (mv - 750)) := by rw [Nat.pow_add, Nat.pow_add]
    _ ≤ 2 ^ ((12 + tj / 10 + 2 * (mv / 100)) * e) := Nat.pow_le_pow_right (by decide) (by subst he; omega)
    _ = (2 ^ (12 + tj / 10 + 2 * (mv / 100))) ^ e := Nat.pow_mul ..

theorem stressK_bounds (tj mv : Nat) :
    stressK tj mv ^ 100 * (2 ^ (10 * (70 - tj)) * 3 ^ (750 - mv)) ≤ 1000 ^ 100 * 2 ^ (10 * (tj - 70)) * 3 ^ (mv - 750) ∧
      1000 ^ 100 * 2 ^ (10 * (tj - 70)) * 3 ^ (mv - 750) <
        (stressK tj mv + 1) ^ 100 * (2 ^ (10 * (70 - tj)) * 3 ^ (750 - mv)) := by
  have den : 0 < 2 ^ (10 * (70 - tj)) * 3 ^ (750 - mv) := Nat.mul_pos (Nat.pow_pos (by decide)) (Nat.pow_pos (by decide))
  have zero : 0 ^ 100 = 0 := Nat.zero_pow (by decide)
  refine root100_bounds ?_ ?_
  · rw [zero, Nat.zero_mul]
    exact Nat.zero_le _
  · rw [Nat.zero_add]
    exact (stressK_short tj mv 100 (by decide) rfl).trans_le (Nat.le_mul_of_pos_right _ den)

theorem eolHours_frame (s : State) (h d dEol kSum kCount : Nat) :
    ∃ n, (s.eolHours h d dEol kSum kCount).2 = { s with free := n } := by
  unfold State.eolHours
  split
  · exact ⟨_, rfl⟩
  · split
    · exact ⟨_, rfl⟩
    · split <;> exact ⟨_, rfl⟩

/-- Raises an event if a condition holds. -/
def raiseIf (c : Prop) [Decidable c] (s : State) (e b : Nat) : State := if c then s.raiseEv e b else s

section
variable (c : Prop) [Decidable c] (s : State) (e b : Nat)

theorem raiseIf_frame : ∃ es p o, raiseIf c s e b = { s with events := es, plk := p, out := o } := by
  unfold raiseIf
  split
  · exact ⟨_, _, _, raiseEv_eq s e b⟩
  · exact ⟨_, _, _, rfl⟩

@[simp] theorem raiseIf_dom (d : Nat) : (raiseIf c s e b).dom d = s.dom d := by
  obtain ⟨es, p, o, frame⟩ := raiseIf_frame c s e b
  rw [frame]
  rfl

theorem raiseIf_sets (holds : c) : bitAt ((raiseIf c s e b).ev e).value b = true := by
  rw [raiseIf, if_pos holds, raiseEv_value]
  exact bitAt_or_two_pow_self ..

theorem raiseIf_bits (i n : Nat) (set : bitAt (s.ev i).value n = true) : bitAt ((raiseIf c s e b).ev i).value n = true := by
  unfold raiseIf
  split
  · exact raiseEv_bits s e b i n set
  · exact set

end

end State

section
variable {s : State} {d : Nat} (live : s.flt.fatal = false) (rated : d < 78) (present : s.variant.domain d = true)
  (on : (s.dom d).power ≠ .off)
include live rated present on

theorem stressAccumulate_adds (tj : Nat) :
    ∃ t, exec (.stressAccumulate d tj) s = .next t ∧
        (t.dom d).stressFrac < 3600 ∧
        ((t.dom d).stress = 2 ^ 40 - 1 ∨ 3600 * (t.dom d).stress + (t.dom d).stressFrac =
          3600 * (s.dom d).stress + (s.dom d).stressFrac + State.stressK tj (s.railNow d)) ∧
        (t.dom d).kCount = (s.dom d).kCount + 1 ∧ (∀ e, e ≠ d → t.dom e = s.dom e) ∧ t = { s with domains := t.domains } := by
  let x := s.dom d
  let f := x.stressFrac + State.stressK tj (s.railNow d)
  have stressed : s.stressed d tj = s.setDom d { x with
      stress := satAdd 40 x.stress (f / 3600), stressFrac := f % 3600, kSum := x.kSum + State.stressK tj (s.railNow d)
      kCount := x.kCount + 1 } := if_neg (by simp [present, on, rated])
  refine ⟨_, act_eq_next (f := (State.stressed · d tj)) live stressed, ?_, ?_, ?_, fun e ne => State.setDom_dom_ne _ _ ne, rfl⟩
  · rw [State.setDom_dom]
    exact Nat.mod_lt _ (by decide)
  · rw [State.setDom_dom]
    rcases Nat.le_total (2 ^ 40 - 1) (x.stress + f / 3600) with top | below
    · exact .inl (Nat.min_eq_left top)
    · refine .inr ?_
      have sum : satAdd 40 x.stress (f / 3600) = x.stress + f / 3600 := Nat.min_eq_right below
      have parts : 3600 * (f / 3600) + f % 3600 = f := Nat.div_add_mod f 3600
      calc 3600 * satAdd 40 x.stress (f / 3600) + f % 3600 = 3600 * x.stress + f := by rw [sum]; omega
        _ = 3600 * x.stress + x.stressFrac + State.stressK tj (s.railNow d) := (Nat.add_assoc ..).symm
  · rw [State.setDom_dom]

theorem wearMeasure_stores {st fr : Nat} (pos : 0 < fr) :
      ∃ t, exec (.wearMeasure d st fr) s = .next t ∧ (t.dom d).wear = Nat.min 4095 ((st - fr) * 10000 / fr) ∧
        ((s.dom d).wear < s.pwr.dWarn → s.pwr.dWarn ≤ (t.dom d).wear → bitAt (t.ev evPwr).value 8 = true) ∧
        ((s.dom d).wear < s.pwr.dEol → s.pwr.dEol ≤ (t.dom d).wear → bitAt (t.ev evPwr).value 9 = true) ∧
        (∀ e, e ≠ d → t.dom e = s.dom e) ∧
        t = { s with domains := t.domains, events := t.events, plk := t.plk, out := t.out, free := t.free } := by
  let x := s.dom d
  let w := Nat.min 4095 ((st - fr) * 10000 / Nat.max 1 fr)
  have whole : Nat.max 1 fr = fr := Nat.max_eq_right pos
  let e := s.eolHours x.stress w s.pwr.dEol x.kSum x.kCount
  let s1 := e.2.setDom d { x with wear := w, eolHours := e.1, kSum := 0, kCount := 0 }
  let s2 := State.raiseIf (x.wear < s.pwr.dWarn ∧ s.pwr.dWarn ≤ w) s1 evPwr 8
  let t := State.raiseIf (x.wear < s.pwr.dEol ∧ s.pwr.dEol ≤ w) s2 evPwr 9
  have measured : s.measured d st fr = t := if_neg (by simp [present, on, rated])
  obtain ⟨n, unit⟩ := s.eolHours_frame x.stress w s.pwr.dEol x.kSum x.kCount
  obtain ⟨es1, p1, o1, frame1⟩ := State.raiseIf_frame (x.wear < s.pwr.dWarn ∧ s.pwr.dWarn ≤ w) s1 evPwr 8
  obtain ⟨es2, p2, o2, frame2⟩ := State.raiseIf_frame (x.wear < s.pwr.dEol ∧ s.pwr.dEol ≤ w) s2 evPwr 9
  have frame : t = { s with domains := tput s.domains d { x with wear := w, eolHours := e.1, kSum := 0, kCount := 0 }
                            events := es2, plk := p2, out := o2, free := n } := by
    simp only [t, frame2, s2, frame1, s1, State.setDom, e, unit]
  have wear : (t.dom d).wear = w := by
    rw [State.raiseIf_dom, State.raiseIf_dom, State.setDom_dom]
  refine ⟨t, act_eq_next (f := (State.measured · d st fr)) live measured (by rw [frame]) (by rw [frame]), ?_, ?_, ?_, ?_, ?_⟩
  · rw [wear]
    simp only [w, whole]
  · rw [wear]
    exact fun below reached => State.raiseIf_bits _ _ _ _ _ _ (State.raiseIf_sets _ _ _ _ ⟨below, reached⟩)
  · rw [wear]
    exact fun below reached => State.raiseIf_sets _ _ _ _ ⟨below, reached⟩
  · intro i ne
    rw [State.raiseIf_dom, State.raiseIf_dom, State.setDom_dom_ne _ _ ne]
    simp only [State.dom, e, unit]
  · rw [frame]

end

/-- Settles O29. -/
theorem wearIsMeasuredAndStored : Obligations.WearIsMeasuredAndStored := by
  refine ⟨State.stressK_bounds, fun s d tj live rated present on => stressAccumulate_adds live rated present on tj,
    fun s d st fr live rated present on pos _ => wearMeasure_stores live rated present on pos, fun s live => ?_⟩
  refine ⟨s.storeWear, act_eq_next live rfl, fun d rated present => ?_, rfl⟩
  have listed : d ∈ s.variant.domainList.filter (· < 78) := by
    refine List.mem_filter.mpr ⟨List.mem_filter.mpr ⟨List.mem_range.mpr (by omega), present⟩, by simpa using rated⟩
  exact List.mem_map.mpr ⟨d, listed, rfl⟩

end Sys2Proof.Machine
end

section
/-! SUPPORT. The commands that wait for a domain, and what the fence-clear notice leaves of them (R157, R90). -/

set_option Elab.async false

namespace Sys2Proof.Machine

namespace State

/-- A command of this index that is not final waits for a domain. -/
def Waits (s : State) (d c q : Nat) (i : Word) : Prop :=
  ∃ y ∈ (s.queue c q).cmds, y.final = false ∧ y.waitDom = some d ∧ y.index = i

variable {s : State} {d : Nat}

theorem queue_setQueue_ne {c q k r : Nat} {x : Queue} (h : (k, r) ≠ (c, q)) : (s.setQueue c q x).queue k r = s.queue k r := by
  unfold queue setQueue
  by_cases other : k = c
  · subst other
    have ne : q ≠ r := fun e => h (by rw [e])
    rw [setCtx_ctx]
    simp [List.getElem?_set_ne ne]
  · rw [setCtx_ctx_ne _ _ other]

/-- A command that a change leaves without a wait waits no longer, and no other begins to. -/
theorem waits_of_mapped {c q k r : Nat} {idx i : Word} {x : Queue} {f : Cmd → Cmd}
    (mapped : x.cmds = (s.queue c q).cmds.map fun y => if y.index = idx then f y else y) (free : ∀ y, (f y).waitDom = none)
    (h : (s.setQueue c q x).Waits d k r i) : s.Waits d k r i ∧ (k, r, i) ≠ (c, q, idx) := by
  obtain ⟨y, listed, open_, waiting, index⟩ := h
  by_cases here : (k, r) = (c, q)
  · obtain ⟨rfl, rfl⟩ := Prod.mk.inj here
    by_cases bound : r < (s.ctx k).queues.length
    · rw [queue_setQueue bound, mapped, List.mem_map] at listed
      obtain ⟨z, there, rfl⟩ := listed
      by_cases hit : z.index = idx
      · rw [if_pos hit, free] at waiting
        cases waiting
      · rw [if_neg hit] at open_ waiting index
        exact ⟨⟨z, there, open_, waiting, index⟩, fun e => hit (index.trans (Prod.mk.inj (Prod.mk.inj e).2).2)⟩
    · have none : (s.setQueue k r x).queue k r = Queue.reset := by
        unfold queue setQueue
        rw [setCtx_ctx, List.getD_eq_default]
        simpa using Nat.le_of_not_lt bound
      rw [none] at listed
      cases listed
  · rw [queue_setQueue_ne here] at listed
    exact ⟨⟨y, listed, open_, waiting, index⟩, fun e => here (by rw [Prod.mk.injEq] at e ⊢; exact ⟨e.1, (Prod.mk.inj e.2).1⟩)⟩

theorem waits_congr {t : State} (h : t.contexts = s.contexts) {c q : Nat} {i : Word} (w : t.Waits d c q i) : s.Waits d c q i := by
  simpa only [Waits, queue, ctx, h] using w

/-- One wait that the fence-clear notice ends (R157). -/
def endWait (s : State) (x : Nat × Nat × Word) : State :=
  let t := (s.modCmd x.1 x.2.1 x.2.2 fun y => { y with waitDom := none }).retry x.1 x.2.1 x.2.2
  t.wake (((t.cmd x.1 x.2.1 x.2.2).map fun y => t.spans (atCmd x.1 x.2.1 y)).getD [])

theorem waits_retry {c q k r : Nat} {idx i : Word} (h : (s.retry c q idx).Waits d k r i) : s.Waits d k r i := by
  unfold retry at h
  split at h
  · exact h
  · exact waits_congr (t := s.unbind c q idx) rfl (waits_of_mapped (f := fun z => { cmdRestart z with reissued := true, resets := z.resets })
      rfl (fun _ => rfl) h).1

theorem waits_endWait {x : Nat × Nat × Word} {c q : Nat} {i : Word} (h : (s.endWait x).Waits d c q i) :
    s.Waits d c q i ∧ (c, q, i) ≠ x :=
  waits_of_mapped (f := fun y => { y with waitDom := none }) rfl (fun _ => rfl) (waits_retry (waits_congr rfl h))

theorem retry_eq (s : State) (c q : Nat) (idx : Word) :
    s.retry c q idx = { s with contexts := (s.retry c q idx).contexts, arrays := (s.retry c q idx).arrays } := by
  unfold retry
  split <;> rfl

theorem endWait_eq (s : State) (x : Nat × Nat × Word) :
    s.endWait x = { s with contexts := (s.endWait x).contexts, arrays := (s.endWait x).arrays, pcs := (s.endWait x).pcs } := by
  unfold endWait wake
  extract_lets t
  have frame : t = { s with contexts := t.contexts, arrays := t.arrays } := retry_eq ..
  generalize t.contexts = cs at frame
  generalize t.arrays = as at frame
  rw [frame]

/-- The waits that the notice of a domain ends. -/
def waitList (s : State) (d : Nat) : List (Nat × Nat × Word) :=
  s.contexts.flatMap fun p => (List.range 4).flatMap fun q =>
    ((s.queue p.1 q).cmds.filter fun y => !y.final && y.waitDom == some d).map fun y => (p.1, q, y.index)

theorem fenceCleared_of_open (h : s.isOpen d = true) :
    s.fenceCleared d =
      { (s.waitList d).foldl endWait s with
        arrays := tmap (fun _ x => { x with drains := x.drains.map fun t => { t with waiting := false } })
          ((s.waitList d).foldl endWait s).arrays } :=
  if_neg (by rw [h]; simp)

theorem mem_waitList {c q : Nat} {i : Word} (short : q < 4) (h : s.Waits d c q i) : (c, q, i) ∈ s.waitList d := by
  obtain ⟨y, listed, open_, waiting, rfl⟩ := h
  have context : ∃ k, (c, k) ∈ s.contexts := by
    cases present : tget s.contexts c with
    | none =>
      have none : s.queue c q = (Context.reset.queues.getD q Queue.reset) := by simp [queue, ctx, tgetD, present]
      rw [none] at listed
      interval_cases q <;> cases listed
    | some k => exact ⟨k, mem_of_tget_eq_some present⟩
  obtain ⟨k, stands⟩ := context
  refine List.mem_flatMap.mpr ⟨(c, k), stands, List.mem_flatMap.mpr ⟨q, List.mem_range.mpr short, List.mem_map.mpr ⟨y, ?_, rfl⟩⟩⟩
  exact List.mem_filter.mpr ⟨listed, by simp [open_, waiting]⟩

theorem waits_endWaits {l : List (Nat × Nat × Word)} {c q : Nat} {i : Word} (h : (l.foldl endWait s).Waits d c q i) :
    s.Waits d c q i ∧ (c, q, i) ∉ l := by
  induction l generalizing s with
  | nil => exact ⟨h, List.not_mem_nil⟩
  | cons x r ih =>
    obtain ⟨waiting, later⟩ := ih h
    obtain ⟨before, ne⟩ := waits_endWait waiting
    exact ⟨before, fun mem => (List.mem_cons.mp mem).elim ne later⟩

theorem endWaits_eq (l : List (Nat × Nat × Word)) (s : State) :
    ∃ cs as ps, l.foldl endWait s = { s with contexts := cs, arrays := as, pcs := ps } := by
  refine List.foldlRecOn (motive := fun t => ∃ cs as ps, t = { s with contexts := cs, arrays := as, pcs := ps }) l endWait ⟨s.contexts, s.arrays, s.pcs, rfl⟩ ?_
  rintro _ ⟨cs, as, ps, rfl⟩ x _
  exact ⟨_, _, _, endWait_eq ..⟩

end State

/-- Settles O33: the notice ends every wait for the domain that its list holds, and no step of it begins one. -/
theorem fenceClearEndsTheWait : Obligations.FenceClearEndsTheWait := by
  intro s d live opened
  obtain ⟨cs, as, ps, frame⟩ := State.endWaits_eq (s.waitList d) s
  have cleared := State.fenceCleared_of_open opened
  refine ⟨_, act_eq_next (f := (State.fenceCleared · d)) live cleared (by rw [frame]) (by rw [frame]), fun c q short => ?_, fun a => ?_, ?_⟩
  · refine List.all_eq_true.mpr fun y listed => ?_
    by_contra stuck
    obtain ⟨open_, waiting⟩ : y.final = false ∧ y.waitDom = some d := by simpa using stuck
    obtain ⟨before, done⟩ := State.waits_endWaits (s := s) (l := s.waitList d) (c := c) (q := q) (i := y.index) ⟨y, listed, open_, waiting, rfl⟩
    exact done (State.mem_waitList short before)
  · simp only [State.arr, tgetD, tget_tmap]
    cases tget ((s.waitList d).foldl State.endWait s).arrays a with
    | none => rfl
    | some x => simp
  · rw [frame]

end Sys2Proof.Machine
end

section
/-! SUPPORT. What the clearing of a domain, the ends of tests and updates and the saving of contexts leave as it is: the domains, the
fault log, the power state and the supervisor's event bits. One lemma an operation, named after it. -/

set_option Elab.async false

namespace Sys2Proof.Machine

/-- The parts of the state that only the recovery, power and boot themselves change. -/
structure Agreed where
  variant : Variant
  pending : List Instr
  domains : Tab Domain
  cores : Tab Core
  groups : Tab Group
  flt : Flt
  pwr : Pwr
  pins : Pins
  ctl : List CtlMsg

def State.agreed (s : State) : Agreed :=
  { variant := s.variant, pending := s.pending, domains := s.domains, cores := s.cores, groups := s.groups
    flt := s.flt, pwr := s.pwr, pins := s.pins, ctl := s.ctl }

/-- A state agrees with an earlier one: in these parts, and every bit set in a register of the supervisor's events is set still. -/
structure State.Agrees (s s₀ : State) : Prop where
  parts : s.agreed = s₀.agreed
  bits : ∀ e n, eventDomain e = 78 → bitAt (s₀.ev e).value n = true → bitAt (s.ev e).value n = true

namespace State

variable {s t s₀ : State}

theorem Agrees.refl (s : State) : s.Agrees s := ⟨rfl, fun _ _ _ set => set⟩

theorem Agrees.trans (h : t.Agrees s) (hs : s.Agrees s₀) : t.Agrees s₀ :=
  ⟨h.parts.trans hs.parts, fun e n sup set => h.bits e n sup (hs.bits e n sup set)⟩

section
variable (h : s.Agrees s₀)
include h

theorem Agrees.variant : s.variant = s₀.variant := congrArg Agreed.variant h.parts
theorem Agrees.pending : s.pending = s₀.pending := congrArg Agreed.pending h.parts
theorem Agrees.domains : s.domains = s₀.domains := congrArg Agreed.domains h.parts
theorem Agrees.cores : s.cores = s₀.cores := congrArg Agreed.cores h.parts
theorem Agrees.groups : s.groups = s₀.groups := congrArg Agreed.groups h.parts
theorem Agrees.flt : s.flt = s₀.flt := congrArg Agreed.flt h.parts
theorem Agrees.pwr : s.pwr = s₀.pwr := congrArg Agreed.pwr h.parts
theorem Agrees.pins : s.pins = s₀.pins := congrArg Agreed.pins h.parts
theorem Agrees.ctl : s.ctl = s₀.ctl := congrArg Agreed.ctl h.parts

theorem Agrees.dom (d : Nat) : s.dom d = s₀.dom d := by rw [State.dom, h.domains]; rfl

theorem Agrees.supTime : s.supTime = s₀.supTime := by simp only [State.supTime, State.core, h.cores]

end

/-- An update of other fields. -/
theorem Agrees.of_eq (h : s.Agrees s₀) (p : t.agreed = s.agreed := by rfl) (e : t.events = s.events := by rfl) : t.Agrees s₀ :=
  ⟨p.trans h.parts, fun i n sup set => by simpa only [State.ev, e] using h.bits i n sup set⟩

theorem Agrees.ite {c : Prop} [Decidable c] (hs : s.Agrees s₀) (ht : t.Agrees s₀) : (if c then s else t).Agrees s₀ := by
  split
  · exact hs
  · exact ht

/-- A run over a list whose every step keeps it. -/
theorem Agrees.foldl {α : Type} {f : State → α → State} {l : List α} (h : s.Agrees s₀)
    (hf : ∀ s a, s.Agrees s₀ → (f s a).Agrees s₀) : (l.foldl f s).Agrees s₀ := by
  induction l generalizing s with
  | nil => exact h
  | cons a r ih => exact ih (hf s a h)

/-- A run over a list that carries a value beside the state. -/
theorem Agrees.foldl_fst {α β : Type} {f : State × β → α → State × β} {l : List α} {p : State × β} (h : p.1.Agrees s₀)
    (hf : ∀ p a, p.1.Agrees s₀ → (f p a).1.Agrees s₀) : (l.foldl f p).1.Agrees s₀ := by
  induction l generalizing p with
  | nil => exact h
  | cons a r ih => exact ih (hf p a h)

theorem Agrees.of_fst {β : Type} {p : State × β} {b : β} (h : p.1.Agrees s₀) (e : p = (t, b)) : t.Agrees s₀ := by
  subst e; exact h

theorem Agrees.of_snd {β : Type} {p : β × State} {b : β} (h : p.2.Agrees s₀) (e : p = (b, t)) : t.Agrees s₀ := by
  subst e; exact h

/-! ### The operations -/

/-- A change of an event register that clears none of its bits. -/
theorem setEv_agrees {s : State} {e : Nat} {r : EventReg} (hs : s.Agrees s₀)
    (kept : ∀ n, bitAt (s.ev e).value n = true → bitAt r.value n = true) : (s.setEv e r).Agrees s₀ where
  parts := hs.parts
  bits i n sup set := by
    by_cases here : i = e
    · subst here
      rw [setEv_ev]
      exact kept n (hs.bits i n sup set)
    · rw [setEv_ev_ne _ _ here]
      exact hs.bits i n sup set

theorem setQuad_agrees {s : State} {k : Nat} {x : Quadrant} (hs : s.Agrees s₀) : (s.setQuad k x).Agrees s₀ :=
  hs.of_eq

theorem setCtx_agrees {s : State} {c : Nat} {x : Context} (hs : s.Agrees s₀) : (s.setCtx c x).Agrees s₀ :=
  hs.of_eq

theorem setStack_agrees {s : State} {k : Nat} {x : Stack} (hs : s.Agrees s₀) : (s.setStack k x).Agrees s₀ :=
  hs.of_eq

theorem setPc_agrees {s : State} {g : Nat} {x : Pc} (hs : s.Agrees s₀) : (s.setPc g x).Agrees s₀ :=
  hs.of_eq

theorem setRzLink_agrees {s : State} {l : Nat} {x : Link} (hs : s.Agrees s₀) : (s.setRzLink l x).Agrees s₀ :=
  hs.of_eq

theorem setEngine_agrees {s : State} {e : Nat} {x : MediaEngine} (hs : s.Agrees s₀) : (s.setEngine e x).Agrees s₀ :=
  hs.of_eq

theorem setPort_agrees {s : State} {p : Nat} {x : Port} (hs : s.Agrees s₀) : (s.setPort p x).Agrees s₀ :=
  hs.of_eq

theorem setQueue_agrees {s : State} {c q : Nat} {x : Queue} (hs : s.Agrees s₀) : (s.setQueue c q x).Agrees s₀ :=
  setCtx_agrees hs

theorem pump_agrees {s : State} (hs : s.Agrees s₀) : s.pump.Agrees s₀ := by
  unfold pump
  split
  · extract_lets
    exact hs.of_eq
  · exact hs

theorem send_agrees {s : State} {m : OutMsg} (hs : s.Agrees s₀) : (s.send m).Agrees s₀ := by
  unfold send
  split
  · exact pump_agrees (hs.of_eq)
  · exact hs

theorem emit_agrees {s : State} {m : OutMsg} (hs : s.Agrees s₀) : (s.emit m).Agrees s₀ :=
  hs.of_eq

theorem emitFlits_agrees {s : State} {m : OutMsg} {n : Nat} (hs : s.Agrees s₀) : (s.emitFlits m n).Agrees s₀ :=
  hs.of_eq

theorem sendNet_agrees {s : State} {m : NetMsg} (hs : s.Agrees s₀) : (s.sendNet m).Agrees s₀ :=
  hs.of_eq

theorem releaseNet_agrees {s : State} (hs : s.Agrees s₀) : s.releaseNet.Agrees s₀ :=
  hs.of_eq

theorem evalEvent_agrees {s : State} {e : Nat} (hs : s.Agrees s₀) : (s.evalEvent e).Agrees s₀ := by
  unfold evalEvent
  extract_lets _ _ _ s1
  have h_s1 : s1.Agrees s₀ := setEv_agrees hs fun _ set => set
  split
  · exact hs
  · exact send_agrees h_s1

theorem raiseEv_agrees {s : State} {e b : Nat} (hs : s.Agrees s₀) : (s.raiseEv e b).Agrees s₀ :=
  evalEvent_agrees (setEv_agrees hs fun n set => by rw [bitAt_eq_testBit, Nat.testBit_or, ← bitAt_eq_testBit, set, Bool.true_or])

theorem lineAccess_agrees {s : State} {f l : Nat} {write alloc : Bool} (hs : s.Agrees s₀) : (s.lineAccess f l write alloc).Agrees s₀ := by
  unfold lineAccess
  split
  · exact hs
  · extract_lets
    split
    · exact hs.of_eq
    · split
      · exact hs
      · exact hs.of_eq

theorem dirtied_agrees {s : State} {k n : Nat} (hs : s.Agrees s₀) : (s.dirtied k n).Agrees s₀ := by
  unfold dirtied
  split
  · exact hs
  · refine Agrees.foldl hs ?_
    intro s1 a1 h1
    extract_lets
    exact lineAccess_agrees h1

theorem writeBack_agrees {s : State} {ok : Nat → Bool} (hs : s.Agrees s₀) : (s.writeBack ok).Agrees s₀ :=
  hs.of_eq

theorem writeAt_agrees {s : State} {ptn die a : Nat} {b : Byte} (hs : s.Agrees s₀) : (s.writeAt ptn die a b).Agrees s₀ := by
  unfold writeAt
  split
  · exact hs.of_eq
  · exact hs

theorem writeBytes_agrees {s : State} {ptn die a : Nat} {l : List Byte} (hs : s.Agrees s₀) : (s.writeBytes ptn die a l).Agrees s₀ := by
  induction l generalizing s a with
  | nil => exact hs
  | cons b r ih => exact ih (writeAt_agrees hs)

theorem storeBytes_agrees {s : State} {ptn a : Nat} {l : List Byte} (hs : s.Agrees s₀) : (s.storeBytes ptn a l).Agrees s₀ := by
  unfold storeBytes
  extract_lets s1
  have h_s1 : s1.Agrees s₀ := writeBytes_agrees hs
  split
  · refine Agrees.foldl h_s1 ?_
    intro s1 a1 h1
    split
    · extract_lets
      exact dirtied_agrees h1
    · exact h1
  · exact h_s1

theorem fwWrite_agrees {s : State} {a : Nat} {l : List Byte} (hs : s.Agrees s₀) : (s.fwWrite a l).Agrees s₀ :=
  storeBytes_agrees hs

theorem fresh_agrees {s : State} {w : Nat} (hs : s.Agrees s₀) : (s.fresh w).2.Agrees s₀ :=
  hs.of_eq

theorem hostMessages_agrees {s : State} {h : Nat} {l : List Byte} {fuel : Nat} (hs : s.Agrees s₀) :
    (s.hostMessages h l fuel).Agrees s₀ := by
  induction fuel generalizing s h l with
  | zero => exact hs
  | succ fuel ih => exact Agrees.ite hs (ih (send_agrees hs))

theorem post_agrees {s : State} {a : Nat} {l : List Byte} (hs : s.Agrees s₀) : (s.post a l).Agrees s₀ := by
  unfold post
  split
  · split
    · exact hostMessages_agrees (fwWrite_agrees hs)
    · exact hs
  · exact fwWrite_agrees hs

theorem putRecord_agrees {s : State} {c q : Nat} {l : List Byte} (hs : s.Agrees s₀) : (s.putRecord c q l).Agrees s₀ := by
  unfold putRecord
  extract_lets _ s1 _
  have h_s1 : s1.Agrees s₀ := post_agrees hs
  split
  · exact hs
  · exact setQueue_agrees h_s1

theorem modCmd_agrees {s : State} {c q : Nat} {idx : Word} {f : Cmd → Cmd} (hs : s.Agrees s₀) : (s.modCmd c q idx f).Agrees s₀ :=
  setQueue_agrees hs

theorem answer_agrees {s : State} {c q : Nat} {idx : Word} {st : Status} (hs : s.Agrees s₀) : (s.answer c q idx st).Agrees s₀ :=
  modCmd_agrees hs

theorem unbind_agrees {s : State} {c q : Nat} {idx : Word} (hs : s.Agrees s₀) : (s.unbind c q idx).Agrees s₀ :=
  hs.of_eq

theorem putWords_agrees {s : State} {c q : Nat} {lo : Word} {ws : List Nat} (hs : s.Agrees s₀) : (s.putWords c q lo ws).Agrees s₀ :=
  setQueue_agrees (Agrees.foldl hs (fun _ _ h1 => (Agrees.ite h1 (post_agrees h1))))

theorem patchQueues_agrees {s : State} {c : Nat} (hs : s.Agrees s₀) : (s.patchQueues c).Agrees s₀ := by
  unfold patchQueues
  extract_lets
  refine Agrees.foldl hs ?_
  intro s1 a1 h1
  extract_lets
  split
  · exact h1
  · exact putWords_agrees h1

theorem setChan_agrees {s : State} {i : Nat} {ch : Channel} (hs : s.Agrees s₀) : (s.setChan i ch).Agrees s₀ :=
  hs.of_eq

theorem jobAfter_agrees {s : State} {j : Nat} (hs : s.Agrees s₀) : (s.jobAfter j).Agrees s₀ := by
  unfold jobAfter
  split
  · split
    · split
      · exact hs
      · extract_lets s1
        have h_s1 : s1.Agrees s₀ := hs.of_eq
        exact post_agrees h_s1
    · split
      · exact hs.of_eq
      · exact hs
  · exact hs

theorem chanClosed_agrees {s : State} {i : Nat} (hs : s.Agrees s₀) : (s.chanClosed i).Agrees s₀ := by
  unfold chanClosed
  split
  · extract_lets _ s1 s2
    have h_s1 : s1.Agrees s₀ := hs.of_eq
    have h_s2 : s2.Agrees s₀ := by
      unfold s2
      split
      · exact post_agrees h_s1
      · exact h_s1
    exact jobAfter_agrees h_s2
  · exact hs

theorem chanAfter_agrees {s : State} {i : Nat} (hs : s.Agrees s₀) : (s.chanAfter i).Agrees s₀ := by
  unfold chanAfter
  split
  · split
    · extract_lets
      split
      · exact chanClosed_agrees (setChan_agrees hs)
      · exact setChan_agrees hs
    · exact hs
  · exact hs

theorem modChan_agrees {s : State} {i : Nat} {f : Channel → Channel} (hs : s.Agrees s₀) : (s.modChan i f).Agrees s₀ := by
  unfold modChan
  split
  · exact chanAfter_agrees (setChan_agrees hs)
  · exact hs

theorem sliceReset_agrees {s : State} {die : Nat} (hs : s.Agrees s₀) : (s.sliceReset die).Agrees s₀ := by
  unfold sliceReset
  extract_lets _ _ s1
  have h_s1 : s1.Agrees s₀ := Agrees.foldl hs (fun _ _ h1 => (modChan_agrees h1))
  split
  · exact raiseEv_agrees h_s1
  · exact h_s1

theorem logStore_agrees {s : State} {p : Nat} {l : List Byte} (hs : s.Agrees s₀) : (s.logStore p l).Agrees s₀ := by
  unfold logStore
  extract_lets
  split
  · exact dirtied_agrees (hs.of_eq)
  · exact hs

theorem logPut_agrees {s : State} {ty st fl step : Nat} {body : List Byte} (hs : s.Agrees s₀) : (s.logPut ty st fl step body).Agrees s₀ := by
  unfold logPut
  split
  · exact hs
  · split
    · exact hs
    · extract_lets _ _ _ _ _ s1 _ s2 _ s3 _
      have h_s1 : s1.Agrees s₀ := Agrees.ite (hs.of_eq) (logStore_agrees hs)
      have h_s2 : s2.Agrees s₀ := Agrees.ite (sendNet_agrees h_s1) (Agrees.ite h_s1 (h_s1.of_eq))
      have h_s3 : s3.Agrees s₀ := h_s2.of_eq
      split
      · exact raiseEv_agrees (h_s3.of_eq)
      · exact h_s3

theorem logRelease_agrees {s : State} {giveUp : Bool} (hs : s.Agrees s₀) : (s.logRelease giveUp).Agrees s₀ := by
  unfold logRelease
  split
  · exact hs
  · extract_lets _ s1 _ s2 _
    have h_s1 : s1.Agrees s₀ := Agrees.foldl hs (fun _ _ h1 => (logStore_agrees h1))
    have h_s2 : s2.Agrees s₀ := h_s1.of_eq
    exact h_s2.of_eq

theorem heldRelease_agrees {s : State} {ok : Nat → Bool} (hs : s.Agrees s₀) : (s.heldRelease ok).Agrees s₀ := by
  unfold heldRelease
  extract_lets _ s1 _
  have h_s1 : s1.Agrees s₀ := Agrees.foldl hs (fun _ _ h1 => (dirtied_agrees h1))
  exact h_s1.of_eq

theorem clearWp_agrees {s : State} {ptn : Nat} (hs : s.Agrees s₀) : (s.clearWp ptn).Agrees s₀ := by
  unfold clearWp
  extract_lets _ s1
  have h_s1 : s1.Agrees s₀ := hs.of_eq
  exact heldRelease_agrees h_s1

theorem ckptRecord_agrees {s : State} (hs : s.Agrees s₀) : s.ckptRecord.Agrees s₀ :=
  logPut_agrees hs

theorem setCkp_agrees {s : State} {k : Ckp} (hs : s.Agrees s₀) : (s.setCkp k).Agrees s₀ :=
  hs.of_eq

theorem ckptEnd_agrees {s : State} {failed : Bool} (hs : s.Agrees s₀) : (s.ckptEnd failed).Agrees s₀ := by
  unfold ckptEnd
  split
  · extract_lets _ s1 s2
    have h_s1 : s1.Agrees s₀ := hs.of_eq
    have h_s2 : s2.Agrees s₀ := by
      unfold s2
      split
      · exact clearWp_agrees h_s1
      · exact h_s1
    exact raiseEv_agrees (ckptRecord_agrees (Agrees.ite (logRelease_agrees h_s2) h_s2))
  · exact hs

theorem portTo_agrees {s : State} {p state : Nat} (hs : s.Agrees s₀) : (s.portTo p state).Agrees s₀ := by
  unfold portTo
  extract_lets _ s1
  have h_s1 : s1.Agrees s₀ := setPort_agrees hs
  exact releaseNet_agrees (Agrees.foldl h_s1 (fun _ _ h1 => (Agrees.ite h1 (sendNet_agrees h1))))

/-- A starved requester is noted once, until the note is read. -/
theorem starve_sel {s : State} {c : Bool} {x : Sel} (hs : s.Agrees s₀) : State.Agrees (if c then s else { s with sel := x }) s₀ := by
  split
  · exact hs
  · exact hs.of_eq

theorem starved_agrees {s : State} {site : Arbiter} {req holder : Nat} (hs : s.Agrees s₀) : (s.starved site req holder).Agrees s₀ := by
  cases site with
  | hbm pc => exact raiseEv_agrees (Agrees.ite hs (setStack_agrees hs))
  | dma e => exact raiseEv_agrees (starve_sel hs)
  | sorus n r => exact raiseEv_agrees (starve_sel hs)
  | rz l h e => exact raiseEv_agrees (starve_sel hs)

theorem rzPump_agrees {s : State} {l : Nat} {high : Bool} {fuel : Nat} (hs : s.Agrees s₀) : (s.rzPump l high fuel).Agrees s₀ := by
  induction fuel generalizing s with
  | zero => exact hs
  | succ fuel ih =>
    unfold rzPump
    refine Agrees.ite hs ?_
    split
    · exact hs
    · refine ih ?_
      split
      · exact starved_agrees (setRzLink_agrees hs)
      · exact setRzLink_agrees hs

theorem rzPumpAll_agrees {s : State} (hs : s.Agrees s₀) : s.rzPumpAll.Agrees s₀ := by
  unfold rzPumpAll
  refine Agrees.foldl hs ?_
  intro s1 a1 h1
  extract_lets s1'
  have h_s1' : s1'.Agrees s₀ := rzPump_agrees h1
  exact rzPump_agrees h_s1'

theorem freeEngine_agrees {s : State} {c q : Nat} {idx : Word} (hs : s.Agrees s₀) : (s.freeEngine c q idx).Agrees s₀ :=
  hs.of_eq

theorem idleArrays_agrees {s : State} {c : Nat} (hs : s.Agrees s₀) : (s.idleArrays c).Agrees s₀ :=
  hs.of_eq

theorem teacherBack_agrees {s : State} {c : Nat} {places : List BlockMark} (hs : s.Agrees s₀) : (s.teacherBack c places).Agrees s₀ := by
  unfold teacherBack
  extract_lets _ _ _ s1 _ s2 s3
  have h_s1 : s1.Agrees s₀ := idleArrays_agrees hs
  have h_s2 : s2.Agrees s₀ := setCtx_agrees h_s1
  have h_s3 : s3.Agrees s₀ := Agrees.ite h_s2 (patchQueues_agrees (post_agrees h_s2))
  split
  · exact hs
  · refine Agrees.foldl h_s3 ?_
    intro s1 a1 h1
    split
    · extract_lets
      exact setChan_agrees h1
    · exact h1

theorem teachersBack_agrees {s : State} {chans : List Nat} (hs : s.Agrees s₀) : (s.teachersBack chans).Agrees s₀ :=
  Agrees.foldl hs (fun _ _ h1 => (teacherBack_agrees h1))

theorem testFinal_agrees {s : State} {a : Nat} {st : Status} {detail : Nat} (hs : s.Agrees s₀) : (s.testFinal a st detail).Agrees s₀ :=
  post_agrees hs

theorem testInterim_agrees {s : State} {a : Nat} {st : Status} {place : Nat} (hs : s.Agrees s₀) : (s.testInterim a st place).Agrees s₀ :=
  post_agrees hs

theorem setTests_agrees {s : State} {c : Nat} {l : List TestReq} (hs : s.Agrees s₀) : (s.setTests c l).Agrees s₀ :=
  hs.of_eq

theorem testShow_agrees {s : State} {c fuel : Nat} (hs : s.Agrees s₀) : (s.testShow c fuel).Agrees s₀ := by
  induction fuel generalizing s with
  | zero => exact hs
  | succ fuel ih =>
    unfold testShow
    split
    · exact hs
    · refine Agrees.ite (Agrees.foldl hs fun _ _ h => testInterim_agrees h) (Agrees.ite ?_ ?_)
      · exact ih (raiseEv_agrees (testFinal_agrees (setTests_agrees hs)))
      · exact Agrees.foldl (Agrees.ite (testInterim_agrees hs) hs) fun _ _ h => testInterim_agrees h

theorem engineYield_agrees {s : State} {e : Nat} (hs : s.Agrees s₀) : (s.engineYield e).Agrees s₀ := by
  unfold engineYield
  extract_lets _ s1
  have h_s1 : s1.Agrees s₀ := Agrees.ite (hs.of_eq) hs
  exact setEngine_agrees h_s1

theorem returnTarget_agrees {s : State} {ty t : Nat} (hs : s.Agrees s₀) : (s.returnTarget ty t).Agrees s₀ := by
  unfold returnTarget
  split
  · exact setQuad_agrees hs
  · exact setPc_agrees hs
  · extract_lets
    exact rzPumpAll_agrees (setRzLink_agrees hs)
  · exact setEngine_agrees hs
  · split
    · exact portTo_agrees hs
    · exact hs

theorem brokenOff_agrees {s : State} {h : TestReq} {c : Nat} (hs : s.Agrees s₀) : (s.brokenOff h c).2.Agrees s₀ := by
  unfold brokenOff
  extract_lets f m k
  have h_f : f.2.Agrees s₀ := fresh_agrees hs
  have h_m : m.2.Agrees s₀ := fresh_agrees h_f
  have h_k : k.2.Agrees s₀ := fresh_agrees h_m
  exact h_k

theorem testAbort_agrees {s : State} {hit : Nat → Nat → Bool} (hs : s.Agrees s₀) : (s.testAbort hit).Agrees s₀ := by
  unfold testAbort
  refine Agrees.foldl hs ?_
  intro s1 a1 h1
  split
  · exact h1
  · split
    · extract_lets b s'
      have h_b : b.2.Agrees s₀ := brokenOff_agrees h1
      have h_s' : s'.Agrees s₀ := Agrees.ite h1 (post_agrees h_b)
      exact testShow_agrees (testFinal_agrees (setTests_agrees (returnTarget_agrees h_s')))
    · exact h1

theorem shuffleReset_agrees {s : State} (hs : s.Agrees s₀) : s.shuffleReset.Agrees s₀ :=
  hs.of_eq

theorem updEnd_agrees {s : State} {st : Status} {detail : Nat} (hs : s.Agrees s₀) : (s.updEnd st detail).Agrees s₀ := by
  unfold updEnd
  extract_lets
  split
  · exact hs
  · exact raiseEv_agrees (post_agrees (hs.of_eq))

theorem linkDrop_agrees {s : State} (hs : s.Agrees s₀) : s.linkDrop.Agrees s₀ := by
  unfold linkDrop
  extract_lets s1 _
  have h_s1 : s1.Agrees s₀ := Agrees.foldl hs (fun _ _ h1 => (answer_agrees h1))
  exact h_s1.of_eq

/-- The events of another domain are cleared: the supervisor's stay. -/
theorem clearEvents_agrees {s : State} {d : Nat} (hs : s.Agrees s₀) (other : d ≠ 78) : (s.clearEvents d).Agrees s₀ where
  parts := hs.parts
  bits e n sup set := by
    have kept : (s.clearEvents d).ev e = s.ev e := by
      have skip : ¬ eventDomain e = d := fun here => other (here.symm.trans sup)
      simp only [clearEvents, State.ev, tgetD, tget_tmap, if_neg skip, Option.map_id']
    rw [kept]
    exact hs.bits e n sup set

theorem clearQuad_agrees {s : State} {k : Nat} (hs : s.Agrees s₀) : (s.clearQuad k).Agrees s₀ := by
  unfold clearQuad
  extract_lets _ _ s1 _
  have h_s1 : s1.Agrees s₀ := setQuad_agrees hs
  exact h_s1.of_eq

theorem clearSram_agrees {s : State} {n : Nat} (hs : s.Agrees s₀) : (s.clearSram n).Agrees s₀ := by
  unfold clearSram
  extract_lets _ s1 _ _ s2 _ _
  have h_s1 : s1.Agrees s₀ := Agrees.foldl hs (fun _ _ h1 => (answer_agrees h1))
  have h_s2 : s2.Agrees s₀ := h_s1.of_eq
  exact teachersBack_agrees (sliceReset_agrees (setStack_agrees h_s2))

theorem clearQueues_agrees {s : State} {n : Nat} (hs : s.Agrees s₀) : (s.clearQueues n).Agrees s₀ := by
  unfold clearQueues
  refine Agrees.foldl hs ?_
  intro s1 a1 h1
  split
  · refine Agrees.foldl h1 ?_
    intro s2 a1 h2
    extract_lets _ s1' _
    have h_s1' : s1'.Agrees s₀ := by
      unfold s1'
      refine Agrees.foldl h2 ?_
      intro s3 a1 h3
      extract_lets t
      have h_t : t.Agrees s₀ := Agrees.ite h3 (putRecord_agrees h3)
      exact freeEngine_agrees (unbind_agrees h_t)
    split
    · exact h2
    · exact setQueue_agrees h_s1'
  · exact h1

theorem clearFabric_agrees {s : State} {n : Nat} (hs : s.Agrees s₀) : (s.clearFabric n).Agrees s₀ := by
  unfold clearFabric
  extract_lets s1
  have h_s1 : s1.Agrees s₀ := hs.of_eq
  exact clearQueues_agrees h_s1

theorem clearMedia_agrees {s : State} {m : Nat} (hs : s.Agrees s₀) : (s.clearMedia m).Agrees s₀ :=
  raiseEv_agrees (Agrees.foldl hs (fun _ _ h1 => (engineYield_agrees h1)))

theorem clearShuffle_agrees {s : State} (hs : s.Agrees s₀) : s.clearShuffle.Agrees s₀ := by
  unfold clearShuffle
  extract_lets s1 _
  have h_s1 : s1.Agrees s₀ := shuffleReset_agrees hs
  exact h_s1.of_eq

theorem clearEdge_agrees {s : State} (hs : s.Agrees s₀) : s.clearEdge.Agrees s₀ :=
  hs.of_eq

theorem clearHost_agrees {s : State} (hs : s.Agrees s₀) : s.clearHost.Agrees s₀ := by
  unfold clearHost
  extract_lets s1 s2 _ _ _
  have h_s1 : s1.Agrees s₀ := Agrees.foldl (linkDrop_agrees hs) (fun _ _ h1 => (answer_agrees h1))
  have h_s2 : s2.Agrees s₀ := Agrees.foldl h_s1 (fun _ _ h1 => (post_agrees h1))
  exact h_s2.of_eq

theorem startTeardown_agrees {s : State} {c : Nat} (hs : s.Agrees s₀) : (s.startTeardown c).Agrees s₀ := by
  unfold startTeardown
  extract_lets
  split
  · exact hs
  · exact setCtx_agrees hs

theorem studentLeaves_agrees {s : State} {c : Nat} (hs : s.Agrees s₀) : (s.studentLeaves c).Agrees s₀ :=
  Agrees.foldl hs (fun _ _ h1 => (modChan_agrees h1))

theorem lossRestart_agrees {s : State} {c : Nat} (hs : s.Agrees s₀) : (s.lossRestart c).Agrees s₀ := by
  unfold lossRestart
  extract_lets s1
  have h_s1 : s1.Agrees s₀ := studentLeaves_agrees hs
  refine Agrees.foldl h_s1 ?_
  intro s1 a1 h1
  extract_lets
  exact setQueue_agrees h1

theorem preemptRecords_agrees {s : State} {c : Nat} (hs : s.Agrees s₀) : (s.preemptRecords c).Agrees s₀ := by
  unfold preemptRecords
  refine Agrees.foldl hs ?_
  intro s1 a1 h1
  extract_lets
  split
  · exact h1
  · exact putRecord_agrees h1

theorem beginSave_agrees {s : State} {c reason : Nat} {after : AfterSave} (hs : s.Agrees s₀) : (s.beginSave c reason after).Agrees s₀ := by
  unfold beginSave
  extract_lets _ s1 s2 _
  have h_s1 : s1.Agrees s₀ := Agrees.ite hs (preemptRecords_agrees hs)
  have h_s2 : s2.Agrees s₀ := lossRestart_agrees h_s1
  split
  · exact setCtx_agrees h_s2
  · exact hs

/-- Clearing a domain other than the supervisor's. -/
theorem clearDomain_agrees {s : State} {d : Nat} (hs : s.Agrees s₀) (other : d ≠ 78) : (s.clearDomain d).Agrees s₀ := by
  unfold clearDomain
  extract_lets s1 g x s2
  have h_s1 : s1.Agrees s₀ := clearEvents_agrees (testAbort_agrees hs) other
  have h_s2 : s2.Agrees s₀ := setStack_agrees h_s1
  clear_value s2
  refine Agrees.ite ?group (Agrees.ite (Agrees.of_eq (s := s2) h_s2) ?rest)
  case group =>
    exact Agrees.ite (clearQuad_agrees h_s1) (Agrees.ite (clearSram_agrees h_s1) (Agrees.ite (clearFabric_agrees h_s1) h_s1))
  case rest =>
    rw [if_neg other]
    exact Agrees.ite (clearShuffle_agrees h_s1) (Agrees.ite (clearMedia_agrees h_s1) (Agrees.ite (clearMedia_agrees h_s1)
      (Agrees.ite (clearEdge_agrees h_s1) (Agrees.ite (clearHost_agrees h_s1) h_s1))))

end State

end Sys2Proof.Machine
end

section
/-! SUPPORT. The start of a recovery (Table 13-3, step 1): the record that opens, the dump and the fence. -/

set_option Elab.async false

namespace Sys2Proof.Machine

/-- A state agrees with an earlier one but for the records and the dumps of the fault log. -/
structure State.Logs (s s₀ : State) : Prop where
  parts : s.agreed = { s₀.agreed with flt := s.flt }
  nextId : s.flt.nextId = s₀.flt.nextId
  bits : ∀ e n, eventDomain e = 78 → bitAt (s₀.ev e).value n = true → bitAt (s.ev e).value n = true

/-- The records stay as they are, but for the dumps that they name. -/
def State.KeepsRecords (s s₀ : State) : Prop :=
  ∃ f : FaultRecord → FaultRecord, s.flt.records = s₀.flt.records.map f ∧ ∀ r, ∃ n, f r = { r with dump := n }

namespace State

variable {s t s₀ : State}

theorem Agrees.logs (h : s.Agrees s₀) : s.Logs s₀ := ⟨by rw [h.parts, h.flt]; rfl, by rw [h.flt], h.bits⟩

theorem Logs.refl (s : State) : s.Logs s := (Agrees.refl s).logs

theorem Logs.trans (h : t.Logs s) (hs : s.Logs s₀) : t.Logs s₀ :=
  ⟨by rw [h.parts, hs.parts], h.nextId.trans hs.nextId, fun e n sup set => h.bits e n sup (hs.bits e n sup set)⟩

section
variable (h : s.Logs s₀)
include h

theorem Logs.variant : s.variant = s₀.variant := congrArg Agreed.variant h.parts
theorem Logs.pending : s.pending = s₀.pending := congrArg Agreed.pending h.parts
theorem Logs.domains : s.domains = s₀.domains := congrArg Agreed.domains h.parts
theorem Logs.cores : s.cores = s₀.cores := congrArg Agreed.cores h.parts
theorem Logs.pwr : s.pwr = s₀.pwr := congrArg Agreed.pwr h.parts
theorem Logs.ctl : s.ctl = s₀.ctl := congrArg Agreed.ctl h.parts
theorem Logs.dom (d : Nat) : s.dom d = s₀.dom d := by rw [State.dom, h.domains]; rfl

end

theorem KeepsRecords.refl (s : State) : s.KeepsRecords s := ⟨id, (List.map_id _).symm, fun r => ⟨r.dump, rfl⟩⟩

theorem modFault_logs (s : State) (id : Nat) (f : FaultRecord → FaultRecord) : (s.modFault id f).Logs s :=
  ⟨rfl, rfl, fun _ _ _ set => set⟩

theorem dumpContext_logs (s : State) (fault d u handle : Nat) : (s.dumpContext fault d u handle).Logs s :=
  ⟨rfl, rfl, fun _ _ _ set => set⟩

/-- A dump of its own accord changes the fault log's dumps and its number in the record, or says that it is lost (R349). -/
theorem startDump_logs (s : State) (fault scope : Nat) (doms : List Nat) :
    (s.startDump fault scope doms).Logs s ∧ (s.startDump fault scope doms).KeepsRecords s := by
  unfold startDump
  split
  · have agrees := raiseEv_agrees (e := evFlt) (b := 5) (Agrees.refl s)
    refine ⟨agrees.logs, ?_⟩
    rw [KeepsRecords, agrees.flt]
    exact KeepsRecords.refl s
  · extract_lets ds shadows units probes all cut dump
    refine ⟨⟨rfl, rfl, fun _ _ _ set => set⟩, fun r => if r.ident = fault then { r with dump := dump.ident } else r, rfl, fun r => ?_⟩
    dsimp only
    split
    · exact ⟨_, rfl⟩
    · exact ⟨r.dump, rfl⟩

theorem autoDump_logs (s : State) (fault d : Nat) : (s.autoDump fault d).Logs s ∧ (s.autoDump fault d).KeepsRecords s := by
  unfold autoDump
  split
  · exact startDump_logs ..
  · exact ⟨Logs.refl s, KeepsRecords.refl s⟩

/-! ### The fence -/

/-- A domain as its fence begins. -/
def fencedDomain (s : State) (d id level : Nat) (off : Bool) : Domain :=
  { s.dom d with
    state := .fenced, fences := if d = 78 then (s.dom d).fences else satAdd 16 (s.dom d).fences 1, fenceAcks := [], epochAcks := []
    ready := false, offAfter := off, requested := (s.fault id).any fun r => r.kind == 8, record := id, level := level
    shadow := s.shadowOf d, fencedAt := s.supTime, fencedEpoch := (s.dom d).epoch }

/-- The fence of a domain other than the supervisor's: beside the domain and the notice it only saves the context that it stops. -/
theorem fenceDom_agrees {d : Nat} (other : d ≠ 78) (s : State) (id level : Nat) (off : Bool) :
    (s.fenceDom d id level off).Agrees ((s.setDom d (s.fencedDomain d id level off)).sendCtl (.fence d)) := by
  have start : s.fenceDom d id level off =
      let s2 := (s.setDom d (s.fencedDomain d id level off)).sendCtl (.fence d)
      if d < 56 ∧ d % 7 < 4 then
        match (s2.quad (4 * (d / 7) + d % 7)).holder with
        | some c => s2.beginSave c 3 .saved
        | none => s2
      else s2 := if_neg other
  rw [start]
  extract_lets s2
  refine Agrees.ite ?_ (Agrees.refl _)
  split
  · exact beginSave_agrees (Agrees.refl _)
  · exact Agrees.refl _

/-! ### The record and the recovery -/

/-- The record that a recovery opens. -/
def recoveryRecord (s : State) (r : FaultRecord) (d : Nat) : FaultRecord :=
  { r with
    level := 1, domain := d, die := recordDie d, epochBefore := (s.dom d).epoch.toNat
    unit := if r.kind = 8 then ((domainUnits d).head?).getD 0 else r.unit
    ident := s.flt.nextId, origin := if r.origin = 0 then s.flt.nextId else r.origin, detect := s.supTime }

/-- What a recovery's start leaves: a record under the next number, the domain fenced under it, the fence notice, and nothing else
but what saving a context and a dump write. -/
structure Recovers (t s : State) (r : FaultRecord) (d : Nat) (off : Bool) : Prop where
  fenced : (t.dom d).state = .fenced
  numbered : (t.dom d).record = s.flt.nextId
  unanswered : (t.dom d).fenceAcks = []
  offAfter : (t.dom d).offAfter = off
  others : ∀ e, e ≠ d → t.dom e = s.dom e
  rest : t.agreed = { s.agreed with domains := t.domains, flt := t.flt, ctl := s.ctl ++ [.fence d] }
  bits : ∀ e n, eventDomain e = 78 → bitAt (s.ev e).value n = true → bitAt (t.ev e).value n = true
  record : ∃ n, { s.recoveryRecord r d with dump := n } ∈ t.flt.records
  noDump : r.kind = 8 → t.flt.dumps = s.flt.dumps
  last : r.kind = 8 → t.flt.records.getLast? = some (s.recoveryRecord r d)

section
variable {r : FaultRecord} {d : Nat} {off : Bool} (h : t.Recovers s r d off)
include h

theorem Recovers.variant : t.variant = s.variant := congrArg Agreed.variant h.rest
theorem Recovers.pending : t.pending = s.pending := congrArg Agreed.pending h.rest
theorem Recovers.pwr : t.pwr = s.pwr := congrArg Agreed.pwr h.rest
theorem Recovers.groups : t.groups = s.groups := congrArg Agreed.groups h.rest
theorem Recovers.ctl : t.ctl = s.ctl ++ [.fence d] := congrArg Agreed.ctl h.rest

theorem Recovers.noticed : .fence d ∈ t.ctl := by
  rw [h.ctl]
  exact List.mem_append_right _ (List.mem_singleton.mpr rfl)

end

theorem recovers_recover {d : Nat} (other : d ≠ 78) (s : State) (r : FaultRecord) (off : Bool) : (s.recover r d off).Recovers s r d off := by
  let o := s.openFault { r with
    level := 1, domain := d, die := recordDie d, epochBefore := (s.dom d).epoch.toNat,
    unit := if r.kind = 8 then ((domainUnits d).head?).getD 0 else r.unit }
  let f := o.1.fencedDomain d o.2 1 off
  let s1 := o.1.fenceDom d o.2 1 off
  have fence : s1.Agrees ((o.1.setDom d f).sendCtl (.fence d)) := fenceDom_agrees other ..
  have opened : s.recoveryRecord r d ∈ s1.flt.records := by
    rw [fence.flt]
    exact List.mem_append_right _ (List.mem_singleton.mpr rfl)
  have recovers {t : State} (logs : t.Logs s1) (record : ∃ n, { s.recoveryRecord r d with dump := n } ∈ t.flt.records)
      (noDump : r.kind = 8 → t.flt = s1.flt) : t.Recovers s r d off := by
    have own : t.dom d = f := by rw [logs.dom, fence.dom]; exact setDom_dom ..
    exact {
      fenced := by rw [own]; rfl
      numbered := by rw [own]; rfl
      unanswered := by rw [own]; rfl
      offAfter := by rw [own]; rfl
      others := fun e ne => by rw [logs.dom, fence.dom]; exact setDom_dom_ne _ _ ne
      rest := by rw [logs.domains, logs.parts, fence.parts, fence.domains]; rfl
      bits := fun e n sup set => logs.bits e n sup (fence.bits e n sup set)
      record
      noDump := fun kind => by rw [noDump kind, fence.flt]; rfl
      last := fun kind => by rw [noDump kind, fence.flt]; exact List.getLast?_concat }
  by_cases kind : r.kind = 8
  · have plain : s.recover r d off = s1 := if_pos kind
    rw [plain]
    exact recovers (Logs.refl _) ⟨_, opened⟩ fun _ => rfl
  · have dumped : s.recover r d off = s1.autoDump o.2 d := if_neg kind
    obtain ⟨logs, g, records, same⟩ := s1.autoDump_logs o.2 d
    obtain ⟨n, only⟩ := same (s.recoveryRecord r d)
    rw [dumped]
    refine recovers logs ⟨n, ?_⟩ fun is8 => absurd is8 kind
    rw [records, ← only]
    exact List.mem_map_of_mem opened

end State

end Sys2Proof.Machine
end

section
/-! SUPPORT. Requested resets (R340). -/

namespace Sys2Proof.Machine

/-- Settles O35. -/
theorem requestedResetsFence : Obligations.RequestedResetsFence := by
  intro s d live present
  refine ⟨fun other opened => ?_, fun left => ?_⟩
  · have recovered (off : Bool) : s.requestReset d off = s.recover { FaultRecord.blank with kind := 8 } d off :=
      if_neg (by simp [present, other, opened])
    have plain := State.recovers_recover other s { FaultRecord.blank with kind := 8 } false
    have toOff := State.recovers_recover other s { FaultRecord.blank with kind := 8 } true
    obtain ⟨n, listed⟩ := plain.record
    exact ⟨⟨_, act_eq_next (f := (State.requestReset · d false)) live (recovered false) plain.pending plain.variant, plain.fenced,
        plain.offAfter, plain.numbered, plain.noDump rfl, plain.noticed, plain.others,
        List.any_eq_true.mpr ⟨_, listed, by simp [State.recoveryRecord]⟩⟩,
      ⟨_, act_eq_next (f := (State.requestReset · d true)) live (recovered true) toOff.pending toOff.variant, toOff.fenced,
        toOff.offAfter, toOff.noDump rfl, toOff.noticed, toOff.others⟩⟩
  · have same (off : Bool) : s.requestReset d off = s := if_pos (.inr left.symm)
    exact ⟨⟨s, act_eq_next (f := (State.requestReset · d false)) live (same false), rfl⟩,
      ⟨s, act_eq_next (f := (State.requestReset · d true)) live (same true), rfl⟩⟩

end Sys2Proof.Machine
end

section
/-! SUPPORT. Hung engines (R336, R337, R340). -/

set_option Elab.async false

namespace Sys2Proof.Machine

namespace State

variable {s s₀ : State}

theorem setArr_agrees {a : Nat} {x : Arr} (hs : s.Agrees s₀) : (s.setArr a x).Agrees s₀ := hs.of_eq

/-- A core taken back to its previous image: beside the core, the update ends and an event says so. -/
theorem rollBack_agrees (s : State) (c : Nat) :
    (s.rollBack c).Agrees (s.setCore c { (s.core c).swap with rollbacks := satAdd 8 (s.core c).rollbacks 1 }) :=
  updEnd_agrees (raiseEv_agrees (Agrees.refl _).of_eq)

/-- The context that owns a hung engine is torn down. -/
def hangTear (s : State) (d u : Nat) : State :=
  match s.hungContext d u with
  | some c => s.startTeardown c
  | none => s

/-- A hang of an array is noted at the array. -/
def hangNote (s : State) (d u : Nat) : State :=
  if d < 56 ∧ d % 7 < 4 ∧ u < 4096 then s.setArr u { s.arr u with hangs := (s.arr u).hangs ++ [s.supTime] } else s

theorem hangTear_agrees (s : State) (d u : Nat) : (s.hangTear d u).Agrees s := by
  unfold hangTear
  split
  · exact startTeardown_agrees (Agrees.refl s)
  · exact Agrees.refl s

theorem hangNote_agrees {d u : Nat} (hs : s.Agrees s₀) : (s.hangNote d u).Agrees s₀ := Agrees.ite (setArr_agrees hs) hs

/-- The record of a hang. -/
def hangRecord (s : State) (d u cls : Nat) : FaultRecord :=
  { FaultRecord.blank with kind := 1, cls := cls, unit := u, context := s.hungHandle d u, flags := b2n (s.hungContext d u).isSome }

/-- A hang in an open domain: the recovery, its event, and the core that is watched after its update taken back. -/
def hangOpen (s : State) (d u cls : Nat) : State :=
  let s1 := (((s.hangTear d u).hangNote d u).recover (s.hangRecord d u cls) d false).raiseEv evFlt 0
  match s1.watched d with
  | some c => if cls = 4 then s1.rollBack c else s1
  | none => s1

/-- A hang in a domain that recovers already joins its record. -/
def hangJoins (s : State) (d u : Nat) : State :=
  let id := (s.dom d).record
  let h := s.hungHandle d u
  let s1 := if (s.fault id).any fun r => r.context != 0 && r.context != h && (s.hungContext d u).isSome
    then (s.hangTear d u).dumpContext id d u h else s.hangTear d u
  (s1.modFault id fun r =>
    if r.context = 0 then { r with context := h, flags := r.flags ||| b2n (s.hungContext d u).isSome } else r).raiseEv evFlt 0

section
variable {d u : Nat} (present : s.variant.domain d = true) (unit : u ∈ domainUnits d)
include present unit

theorem hang_of_opened (cls : Nat) (opened : (s.dom d).state = .opened) : s.hang d u cls = s.hangOpen d u cls := by
  have known : ¬ (s.variant.domain d = false ∨ (domainUnits d).contains u = false) := by simp [present, unit]
  rw [hang, if_neg known]
  dsimp only
  rw [opened]
  rfl

theorem hang_of_recovering (cls : Nat) (recovering : (s.dom d).state = .fenced ∨ (s.dom d).state = .resetting) :
    s.hang d u cls = s.hangJoins d u := by
  have known : ¬ (s.variant.domain d = false ∨ (domainUnits d).contains u = false) := by simp [present, unit]
  rw [hang, if_neg known]
  dsimp only
  rcases recovering with state | state <;> (rw [state]; rfl)

end

end State

theorem raiseEv_sets (s : State) (e b : Nat) : bitAt ((s.raiseEv e b).ev e).value b = true := by
  rw [State.raiseEv_value]
  exact bitAt_or_two_pow_self ..

section
variable {s : State} {d u cls : Nat}

theorem hangOpen_fences (other : d ≠ 78) :
    let t := s.hangOpen d u cls
    t.pending = s.pending ∧ t.variant = s.variant ∧ (t.dom d).state = .fenced ∧ (t.dom d).record = s.flt.nextId ∧
      (t.dom d).fenceAcks = [] ∧ bitAt (t.ev evFlt).value 0 = true ∧ .fence d ∈ t.ctl ∧
      (t.flt.records.any fun r => r.ident == s.flt.nextId && r.kind == 1 && r.level == 1 && r.domain == d && r.unit == u &&
        r.cls == cls && r.context == s.hungHandle d u) = true ∧
      (∀ e, e ≠ d → t.dom e = s.dom e) := by
  let v := (s.hangTear d u).hangNote d u
  have calm : v.Agrees s := State.hangNote_agrees (s.hangTear_agrees d u)
  have recovers := State.recovers_recover other v (s.hangRecord d u cls) false
  let w := (v.recover (s.hangRecord d u cls) d false).raiseEv evFlt 0
  have raised : w.Agrees (v.recover (s.hangRecord d u cls) d false) := State.raiseEv_agrees (State.Agrees.refl _)
  obtain ⟨n, listed⟩ := recovers.record
  /- What the recovery leaves stays, whether or not a core is taken back. -/
  have fenced {t : State} {c : Nat} {x : Core} (kept : t.Agrees w ∨ t.Agrees (w.setCore c x)) :
      t.pending = s.pending ∧ t.variant = s.variant ∧ (t.dom d).state = .fenced ∧ (t.dom d).record = s.flt.nextId ∧
        (t.dom d).fenceAcks = [] ∧ bitAt (t.ev evFlt).value 0 = true ∧ .fence d ∈ t.ctl ∧
        (t.flt.records.any fun r => r.ident == s.flt.nextId && r.kind == 1 && r.level == 1 && r.domain == d && r.unit == u &&
          r.cls == cls && r.context == s.hungHandle d u) = true ∧
        (∀ e, e ≠ d → t.dom e = s.dom e) := by
    have pending : t.pending = w.pending := kept.elim (·.pending) (·.pending)
    have variant : t.variant = w.variant := kept.elim (·.variant) (·.variant)
    have dom (e : Nat) : t.dom e = w.dom e := kept.elim (·.dom e) (·.dom e)
    have flt : t.flt = w.flt := kept.elim (·.flt) (·.flt)
    have ctl : t.ctl = w.ctl := kept.elim (·.ctl) (·.ctl)
    have bit : bitAt (t.ev evFlt).value 0 = true := by
      have set : bitAt (w.ev evFlt).value 0 = true := raiseEv_sets ..
      exact kept.elim (·.bits evFlt 0 rfl set) (·.bits evFlt 0 rfl set)
    refine ⟨?_, ?_, ?_, ?_, ?_, bit, ?_, ?_, fun e ne => ?_⟩
    · rw [pending, raised.pending, recovers.pending, calm.pending]
    · rw [variant, raised.variant, recovers.variant, calm.variant]
    · rw [dom, raised.dom]
      exact recovers.fenced
    · rw [dom, raised.dom, recovers.numbered, calm.flt]
    · rw [dom, raised.dom]
      exact recovers.unanswered
    · rw [ctl, raised.ctl]
      exact recovers.noticed
    · rw [flt, raised.flt]
      exact List.any_eq_true.mpr ⟨_, listed, by simp [State.recoveryRecord, State.hangRecord, calm.flt]⟩
    · rw [dom, raised.dom, recovers.others e ne, calm.dom]
  have opened : s.hangOpen d u cls =
      match w.watched d with
      | some c => if cls = 4 then w.rollBack c else w
      | none => w := rfl
  rw [opened]
  split
  next c _ =>
    split
    · exact fenced (c := c) (.inr (w.rollBack_agrees c))
    · exact fenced (c := c) (x := w.core c) (.inl (State.Agrees.refl w))
  next => exact fenced (c := 0) (x := w.core 0) (.inl (State.Agrees.refl w))

theorem hangJoins_logs (s : State) (d u : Nat) : (s.hangJoins d u).Logs s ∧ bitAt ((s.hangJoins d u).ev evFlt).value 0 = true := by
  unfold State.hangJoins
  extract_lets id h s1
  have torn : s1.Logs s := by
    unfold s1
    split
    · exact (State.dumpContext_logs ..).trans (s.hangTear_agrees d u).logs
    · exact (s.hangTear_agrees d u).logs
  exact ⟨((State.raiseEv_agrees (State.Agrees.refl _)).logs.trans (State.modFault_logs ..)).trans torn, raiseEv_sets ..⟩

end

theorem exec_progressWindowExpiry {s t : State} {d u cls : Nat} (live : s.flt.fatal = false) (cl : unitClass d u = cls)
    (work : s.hasWork d u = true) (hung : s.hang d u cls = t) (pending : t.pending = s.pending) (variant : t.variant = s.variant) :
    exec (.progressWindowExpiry d u cls) s = .next t :=
  act_eq_next (f := fun s => if unitClass d u = cls ∧ s.hasWork d u = true then s.hang d u cls else s) live
    ((if_pos ⟨cl, work⟩).trans hung) pending variant

/-- Settles O30. -/
theorem hangsFenceTheirDomain : Obligations.HangsFenceTheirDomain := by
  intro s d u cls live present unit cl work other
  refine ⟨fun opened => ?_, fun recovering => ?_⟩
  · obtain ⟨pending, variant, fences⟩ := hangOpen_fences (s := s) (u := u) (cls := cls) other
    exact ⟨_, exec_progressWindowExpiry live cl work (State.hang_of_opened present unit cls opened) pending variant, fences⟩
  · obtain ⟨logs, bit⟩ := hangJoins_logs s d u
    exact ⟨_, exec_progressWindowExpiry live cl work (State.hang_of_recovering present unit cls recovering) logs.pending
      logs.variant, logs.nextId, logs.domains, bit⟩

end Sys2Proof.Machine
end

section
/-! SUPPORT. What the end of a drain, a retired quadrant and the restart of the serving engine and of a group leave as it is. One lemma
an operation, named after it. -/

set_option Elab.async false

namespace Sys2Proof.Machine

namespace State

variable {s t s₀ : State}

theorem setAttr_agrees {s : State} {f a : Nat} (hs : s.Agrees s₀) : (s.setAttr f a).Agrees s₀ :=
  hs.of_eq

theorem raiseCtx_agrees {s : State} {e b c q : Nat} (hs : s.Agrees s₀) : (s.raiseCtx e b c q).Agrees s₀ :=
  evalEvent_agrees (setEv_agrees hs fun n set => by rw [bitAt_eq_testBit, Nat.testBit_or, ← bitAt_eq_testBit, set, Bool.true_or])

theorem answerFenced_agrees {s : State} {c q : Nat} {idx : Word} {d : Nat} (hs : s.Agrees s₀) : (s.answerFenced c q idx d).Agrees s₀ :=
  modCmd_agrees hs

theorem freeHeld_agrees {s : State} {c q mask : Nat} (hs : s.Agrees s₀) : (s.freeHeld c q mask).Agrees s₀ :=
  hs.of_eq

theorem chanWait_agrees {s : State} {c q : Nat} {idx : Word} {i : Nat} (hs : s.Agrees s₀) : (s.chanWait c q idx i).Agrees s₀ := by
  unfold chanWait
  split
  · extract_lets
    exact modCmd_agrees hs
  · exact hs

theorem chanWaited_agrees {s : State} {c q : Nat} {idx : Word} {i : Nat} {put : Bool} (hs : s.Agrees s₀) : (s.chanWaited c q idx i put).Agrees s₀ := by
  unfold chanWaited
  split
  · split
    · extract_lets
      exact modCmd_agrees (setChan_agrees hs)
    · exact hs
  · exact hs

theorem cowStart_agrees {s : State} {frame : Nat} (hs : s.Agrees s₀) : (s.cowStart frame).Agrees s₀ := by
  unfold cowStart
  split
  · exact hs
  · extract_lets
    split
    · exact hs.of_eq
    · split
      · exact raiseEv_agrees (ckptEnd_agrees (clearWp_agrees hs))
      · exact hs

theorem putKey_agrees {s : State} {c q : Nat} {idx : Word} {k : Nat} {l : List Byte} (hs : s.Agrees s₀) : (s.putKey c q idx k l).Agrees s₀ := by
  unfold putKey
  split
  · extract_lets s1 _
    have h_s1 : s1.Agrees s₀ := cowStart_agrees hs
    split
    · exact h_s1.of_eq
    · exact dirtied_agrees (h_s1.of_eq)
  · exact dirtied_agrees (hs.of_eq)

theorem putRow_agrees {s : State} {c q : Nat} {idx : Word} {row : RowAt} {off : Nat} {l : List Byte} {fuel : Nat} (hs : s.Agrees s₀) :
    (s.putRow c q idx row off l fuel).Agrees s₀ := by
  induction fuel generalizing s off l with
  | zero => exact hs
  | succ fuel ih =>
    unfold putRow
    split
    · exact hs
    · exact hs
    · exact ih (putKey_agrees hs)

theorem hostWrites_agrees {s : State} {c q : Nat} {idx : Word} {h : Nat} {l : List Byte} {fuel : Nat} (hs : s.Agrees s₀) :
    (s.hostWrites c q idx h l fuel).Agrees s₀ := by
  induction fuel generalizing s h l with
  | zero => exact hs
  | succ fuel ih => exact Agrees.ite hs (ih (send_agrees hs.of_eq))

theorem putBytes_agrees {s : State} {c q : Nat} {idx : Word} {ptn die a : Nat} {l : List Byte} (hs : s.Agrees s₀) : (s.putBytes c q idx ptn die a l).Agrees s₀ := by
  unfold putBytes
  split
  · split
    · exact hs
    · exact hostWrites_agrees hs
  · exact putRow_agrees hs

theorem putDest_agrees {s : State} {c q : Nat} {idx : Word} {ptn die : Nat} {dst : Dest} {fmt cols r c0 : Nat} {vs : List Nat} (hs : s.Agrees s₀) : (s.putDest c q idx ptn die dst fmt cols r c0 vs).Agrees s₀ := by
  unfold putDest
  split
  · exact hs
  · split
    · extract_lets
      exact putBytes_agrees hs
    · extract_lets
      exact putRow_agrees hs
    · split
      · exact hs
      · extract_lets
        exact putRow_agrees hs
    · exact hs

theorem fillSlot_agrees {s : State} {i : Nat} (hs : s.Agrees s₀) : (s.fillSlot i).2.Agrees s₀ := by
  unfold fillSlot
  split
  · extract_lets
    exact setChan_agrees hs
  · exact hs

theorem setHalf_agrees {s : State} {a h : Nat} {x : Half2} (hs : s.Agrees s₀) : (s.setHalf a h x).Agrees s₀ :=
  setArr_agrees hs

theorem putTrec_agrees {s : State} {c q : Nat} {idx : Word} {x : At} {die tile word : Nat} (hs : s.Agrees s₀) : (s.putTrec c q idx x die tile word).Agrees s₀ := by
  unfold putTrec
  split
  · split
    · exact putBytes_agrees hs
    · exact hs
  · exact hs

theorem tileDone_agrees {s : State} {c q : Nat} {idx : Word} {x : At} {a tile tag retries : Nat} {nonfinite ovf : Bool} {maxExp : ℤ} (hs : s.Agrees s₀) : (s.tileDone c q idx x a tile tag retries nonfinite ovf maxExp).Agrees s₀ := by
  unfold tileDone
  extract_lets s2
  have h_s2 : s2.Agrees s₀ := putTrec_agrees hs
  exact modCmd_agrees h_s2

theorem noteLast_agrees {s : State} {a : Nat} {st : Status} {retries : Nat} (hs : s.Agrees s₀) : (s.noteLast a st retries).Agrees s₀ :=
  setArr_agrees hs

theorem dropPartial_agrees {s : State} {c q : Nat} {idx : Word} {tile p : Nat} (hs : s.Agrees s₀) : (s.dropPartial c q idx tile p).Agrees s₀ := by
  unfold dropPartial
  split
  · exact hs
  · extract_lets _ s1
    have h_s1 : s1.Agrees s₀ := by
      unfold s1
      refine Agrees.foldl hs ?_
      intro s1 a1 h1
      extract_lets
      exact setArr_agrees h1
    exact modCmd_agrees h_s1

theorem spillPart_agrees {s : State} {x : At} {c q : Nat} {idx : Word} {tile p : Nat} (hs : s.Agrees s₀) : (s.spillPart x c q idx tile p).Agrees s₀ := by
  unfold spillPart
  split
  · exact hs
  · extract_lets
    split
    · extract_lets
      exact modCmd_agrees (dropPartial_agrees hs)
    · exact hs

theorem failCmd_agrees {s : State} {c q : Nat} {idx : Word} {st : Status} {d : Option Nat} (hs : s.Agrees s₀) : (s.failCmd c q idx st d).Agrees s₀ := by
  unfold failCmd
  extract_lets s1
  have h_s1 : s1.Agrees s₀ := unbind_agrees hs
  split
  · split
    · exact answerFenced_agrees h_s1
    · exact answer_agrees h_s1
  · exact answer_agrees h_s1

theorem drainDest_agrees {s : State} {x : At} {a : Nat} {t : Drain} {y : Cmd} (hs : s.Agrees s₀) :
    ∀ r, s.drainDest x a t y = some r → r.2.Agrees s₀ := by
  intro r e
  unfold drainDest at e
  split at e
  · split_ifs at e
    · cases e; exact hs
    · obtain ⟨h, -, rfl⟩ := Option.map_eq_some_iff.mp e
      exact setHalf_agrees hs
    · split at e
      · dsimp only at e
        split_ifs at e
        · split at e
          · cases e; exact hs
          · cases e; exact fillSlot_agrees hs
        · split at e
          · cases e; exact hs
          · cases e
      · cases e
  · cases e

theorem dropDrain_agrees {s : State} {a : Nat} {t : Drain} {f : AccSlot → AccSlot} (hs : s.Agrees s₀) : (s.dropDrain a t f).Agrees s₀ :=
  setArr_agrees hs

theorem heldDrains_agrees {s : State} {c q : Nat} {idx : Word} (hs : s.Agrees s₀) : (s.heldDrains c q idx).Agrees s₀ :=
  Agrees.foldl hs (fun _ _ h1 => (modCmd_agrees (noteLast_agrees (dropDrain_agrees h1))))

theorem drainFails_agrees {s : State} {a : Nat} {t : Drain} {st : Status} (hs : s.Agrees s₀) : (s.drainFails a t st).Agrees s₀ := by
  unfold drainFails
  split
  · extract_lets s1
    have h_s1 : s1.Agrees s₀ := noteLast_agrees (dropDrain_agrees hs)
    exact answer_agrees (modCmd_agrees h_s1)
  · exact failCmd_agrees hs

theorem drainWaited_agrees {s : State} {x : At} {t : Drain} (hs : s.Agrees s₀) : (s.drainWaited x t).Agrees s₀ := by
  unfold drainWaited
  split
  · exact chanWaited_agrees hs
  · exact hs

theorem drainPartial_agrees {s : State} {x : At} {a : Nat} {t : Drain} {p : Nat} (hs : s.Agrees s₀) : (s.drainPartial x a t p).Agrees s₀ := by
  unfold drainPartial
  split
  · exact noteLast_agrees (spillPart_agrees (dropDrain_agrees hs))
  · extract_lets
    exact setArr_agrees hs

theorem drainHead_agrees {s : State} {a : Nat} (hs : s.Agrees s₀) : (s.drainHead a).Agrees s₀ := by
  unfold drainHead
  extract_lets
  split
  · exact hs
  · split
    · split
      · exact hs
      · extract_lets wait _ _ _ _
        have h_wait : wait.Agrees s₀ := setArr_agrees hs
        split
        · exact drainPartial_agrees hs
        · exact h_wait
        · split
          · rename_i e6
            split
            · split
              · split
                · exact drainFails_agrees hs
                · exact chanWait_agrees (Agrees.ite hs h_wait)
              · exact drainFails_agrees hs
            · exact hs
          · rename_i t6 e6
            have h_e6 := drainDest_agrees hs _ e6
            extract_lets put s2
            have h_put : ∀ a0 a1 a2 a3 a4, a0.Agrees s₀ → (put a0 a1 a2 a3 a4).Agrees s₀ := fun _ _ _ _ _ h1 => (putDest_agrees h1)
            have h_s2 : s2.Agrees s₀ := by
              unfold s2
              refine Agrees.foldl (drainWaited_agrees h_e6) ?_
              intro s1 a1 h1
              split
              · exact h_put _ _ _ _ _ h1
              · exact Agrees.foldl h1 (fun _ _ h2 => (h_put _ _ _ _ _ h2))
            exact tileDone_agrees (noteLast_agrees (dropDrain_agrees h_s2))
    · exact hs

theorem finishDrains_agrees {s : State} {c : Nat} (hs : s.Agrees s₀) : (s.finishDrains c).Agrees s₀ :=
  Agrees.foldl hs (fun _ _ h1 => (Agrees.foldl h1 (fun _ _ h2 => (drainHead_agrees h2))))

theorem retireArray_agrees {s : State} {a : Nat} (hs : s.Agrees s₀) : (s.retireArray a).Agrees s₀ := by
  unfold retireArray
  extract_lets
  split
  · exact hs
  · exact raiseEv_agrees (setArr_agrees hs)

theorem rzForward_agrees {s : State} {n : Nat} {came : Option Nat} {x : RzTransfer} (hs : s.Agrees s₀) : (s.rzForward n came x).Agrees s₀ := by
  unfold rzForward
  split
  · exact hs
  · split
    · exact hs
    · split
      · exact hs
      · extract_lets
        exact rzPump_agrees (setRzLink_agrees hs)

theorem rzReroute_agrees {s : State} {l : Nat} {high : Bool} (hs : s.Agrees s₀) : (s.rzReroute l high).Agrees s₀ :=
  Agrees.foldl (setRzLink_agrees hs) (fun _ _ h1 => (rzForward_agrees h1))

/-- A detour placed: beside the links it only sends notices. -/
theorem placeDetour_agrees (s : State) (l : Nat) : ∃ c, (∀ m ∈ s.ctl, m ∈ c) ∧ (s.placeDetour l).Agrees { s with ctl := c } := by
  unfold placeDetour
  split
  · extract_lets k time
    refine ⟨s.ctl ++ [CtlMsg.detour l], fun m sent => List.mem_append_left _ sent, raiseEv_agrees ?_⟩
    have routed : ((s.setRzLink l { k with detour := true, holding := false, steps := k.steps.take 1 ++ [time, time, time, time] }).rzReroute l
        false |>.rzReroute l true).Agrees s := rzReroute_agrees (rzReroute_agrees (setRzLink_agrees (Agrees.refl s)))
    exact ⟨congrArg (fun a : Agreed => { a with ctl := a.ctl ++ [CtlMsg.detour l] }) routed.parts, routed.bits⟩
  · exact ⟨s.ctl, fun _ sent => sent, Agrees.refl s⟩

theorem placeDetours_agrees (s : State) : ∃ c, (∀ m ∈ s.ctl, m ∈ c) ∧ s.placeDetours.Agrees { s with ctl := c } := by
  refine List.foldlRecOn (motive := fun t : State => ∃ c, (∀ m ∈ s.ctl, m ∈ c) ∧ t.Agrees { s with ctl := c }) _ _
    ⟨s.ctl, fun _ sent => sent, Agrees.refl s⟩ ?_
  rintro t ⟨c, kept, agrees⟩ l _
  obtain ⟨c', more, placed⟩ := t.placeDetour_agrees l
  refine ⟨c', fun m sent => more m (by rw [agrees.ctl]; exact kept m sent), placed.trans ?_⟩
  exact ⟨congrArg (fun a : Agreed => { a with ctl := c' }) agrees.parts, agrees.bits⟩

theorem putImage_agrees {s : State} {c off : Nat} {l : List Byte} (hs : s.Agrees s₀) : (s.putImage c off l).Agrees s₀ :=
  putBytes_agrees hs

theorem putSection_agrees {s : State} {c i off : Nat} {data : List Byte} (hs : s.Agrees s₀) : (s.putSection c i off data).Agrees s₀ :=
  putImage_agrees hs

theorem saveQuad_agrees {s : State} {c k : Nat} (hs : s.Agrees s₀) : (s.saveQuad c k).Agrees s₀ := by
  unfold saveQuad
  extract_lets _ _ s1
  have h_s1 : s1.Agrees s₀ := Agrees.foldl hs (fun _ _ h1 => (putImage_agrees h1))
  exact putSection_agrees h_s1

theorem saveWindow_agrees {s : State} {c n : Nat} (hs : s.Agrees s₀) : (s.saveWindow c n).Agrees s₀ := by
  unfold saveWindow
  extract_lets _ _ _ s1 _
  have h_s1 : s1.Agrees s₀ := putSection_agrees (putImage_agrees hs)
  exact setCtx_agrees h_s1

theorem park_agrees {s : State} {c : Nat} {w : ParkWait} (hs : s.Agrees s₀) : (s.park c w).Agrees s₀ := by
  unfold park
  extract_lets s1 _
  have h_s1 : s1.Agrees s₀ := beginSave_agrees hs
  split
  · exact setCtx_agrees h_s1
  · exact hs

theorem leave_agrees {s : State} {c : Nat} (hs : s.Agrees s₀) : (s.leave c).Agrees s₀ := by
  unfold leave
  extract_lets _ _ s1
  have h_s1 : s1.Agrees s₀ := setCtx_agrees hs
  exact h_s1.of_eq

theorem writeImage_agrees {s : State} {c : Nat} (hs : s.Agrees s₀) : (s.writeImage c).Agrees s₀ := by
  unfold writeImage
  extract_lets s1 s2 _
  have h_s1 : s1.Agrees s₀ := putImage_agrees hs
  have h_s2 : s2.Agrees s₀ := Agrees.foldl h_s1 (fun _ _ h1 => (saveQuad_agrees h1))
  exact setCtx_agrees h_s2

theorem saveDone_agrees {s : State} {c : Nat} (hs : s.Agrees s₀) : (s.saveDone c).Agrees s₀ := by
  unfold saveDone
  split
  · extract_lets s1 _
    have h_s1 : s1.Agrees s₀ := leave_agrees (writeImage_agrees hs)
    exact setCtx_agrees h_s1
  · exact hs

theorem formRecord_agrees {s : State} (hs : s.Agrees s₀) : s.formRecord.Agrees s₀ := by
  unfold formRecord
  extract_lets
  split
  · exact sendNet_agrees (hs.of_eq)
  · exact hs

theorem reportAgain_agrees {s : State} (hs : s.Agrees s₀) : s.reportAgain.Agrees s₀ :=
  sendNet_agrees hs

theorem resumeGroup_agrees {s : State} (hs : s.Agrees s₀) : s.resumeGroup.Agrees s₀ := by
  unfold resumeGroup
  split
  · exact hs
  · extract_lets _ s1
    have h_s1 : s1.Agrees s₀ := hs.of_eq
    split
    · exact formRecord_agrees h_s1
    · exact reportAgain_agrees h_s1

theorem ringDoorbell_agrees {s : State} {n value : Nat} (hs : s.Agrees s₀) : (s.ringDoorbell n value).Agrees s₀ := by
  unfold ringDoorbell
  extract_lets
  split
  · exact raiseCtx_agrees hs
  · split
    · exact hs
    · exact setQueue_agrees hs

theorem saveLeaving_agrees {s : State} {c new : Nat} (hs : s.Agrees s₀) : (s.saveLeaving c new).Agrees s₀ :=
  Agrees.foldl hs (fun _ _ h1 => (Agrees.ite h1 (saveWindow_agrees h1)))

theorem redealQueue_agrees {s : State} {c q : Nat} (hs : s.Agrees s₀) : (s.redealQueue c q).Agrees s₀ := by
  unfold redealQueue
  extract_lets _ s1 s2 _ _ _
  have h_s1 : s1.Agrees s₀ := Agrees.foldl hs (fun _ _ h1 => (unbind_agrees h1))
  have h_s2 : s2.Agrees s₀ := freeHeld_agrees h_s1
  exact setQueue_agrees h_s2

theorem redeal_agrees {s : State} {c : Nat} (hs : s.Agrees s₀) : (s.redeal c).Agrees s₀ := by
  unfold redeal
  extract_lets s1 _
  have h_s1 : s1.Agrees s₀ := Agrees.foldl hs (fun _ _ h1 => (redealQueue_agrees h1))
  exact setCtx_agrees h_s1

theorem remapCtx_agrees {s : State} {c old new : Nat} (hs : s.Agrees s₀) : (s.remapCtx c old new).Agrees s₀ := by
  unfold remapCtx
  extract_lets _ _ _ s0 _ _ _
  have h_s0 : s0.Agrees s₀ := Agrees.ite (redeal_agrees hs) hs
  exact setCtx_agrees h_s0

theorem forceSave_agrees {s : State} {c : Nat} (hs : s.Agrees s₀) : (s.forceSave c).Agrees s₀ :=
  saveDone_agrees (finishDrains_agrees (beginSave_agrees hs))

theorem parkEmpty_agrees {s : State} {c : Nat} (hs : s.Agrees s₀) : (s.parkEmpty c).Agrees s₀ := by
  unfold parkEmpty
  extract_lets _ s1
  have h_s1 : s1.Agrees s₀ := setCtx_agrees hs
  split
  · exact park_agrees hs
  · exact setCtx_agrees hs
  · exact h_s1.of_eq
  · exact h_s1.of_eq
  · exact h_s1.of_eq
  · exact hs

theorem removeQuad_agrees {s1 : State} {k : Nat} (hs : s1.Agrees s₀) : (s1.removeQuad k).Agrees s₀ := by
  unfold removeQuad
  split
  · exact hs
  · extract_lets _ _ s2 order s3
    have h_s2 : s2.Agrees s₀ := Agrees.foldl hs (fun _ _ h1 => (forceSave_agrees h1))
    have h_order : ∀ a0 a1, a0.Agrees s₀ → (order a0 a1).Agrees s₀ := fun _ _ h1 => (remapCtx_agrees (saveLeaving_agrees h1))
    have h_s3 : s3.Agrees s₀ := Agrees.foldl h_s2 (fun _ _ h1 => (Agrees.ite (forceSave_agrees h1) h1))
    split
    · exact raiseEv_agrees (Agrees.foldl (hs.of_eq) (fun _ _ h1 => (parkEmpty_agrees h1)))
    · exact Agrees.foldl (h_s3.of_eq) h_order

theorem retireQuad_agrees {s : State} {k : Nat} (hs : s.Agrees s₀) : (s.retireQuad k).Agrees s₀ := by
  unfold retireQuad
  extract_lets
  split
  · exact hs
  · exact removeQuad_agrees (raiseEv_agrees (setQuad_agrees hs))

theorem retire_agrees {s : State} {a : Nat} (hs : s.Agrees s₀) : (s.retire a).Agrees s₀ := by
  unfold retire
  split
  · exact hs
  · extract_lets _ _ s1
    have h_s1 : s1.Agrees s₀ := Agrees.foldl hs (fun _ _ h1 => (beginSave_agrees (redeal_agrees h1)))
    exact retireQuad_agrees (retireArray_agrees h_s1)

theorem srvPut_agrees {s : State} {i : Nat} {x : Instance} {a : Nat} {l : List Byte} (hs : s.Agrees s₀) : (s.srvPut i x a l).Agrees s₀ :=
  putBytes_agrees hs

theorem setInst_agrees {s : State} {i : Nat} {x : Instance} (hs : s.Agrees s₀) : (s.setInst i x).Agrees s₀ :=
  hs.of_eq

theorem modInst_agrees {s : State} {i : Nat} {f : Instance → Instance} (hs : s.Agrees s₀) : (s.modInst i f).Agrees s₀ :=
  hs.of_eq

theorem ringPost_agrees {s : State} {k a : Nat} {l : List Byte} (hs : s.Agrees s₀) : (s.ringPost k a l).Agrees s₀ := by
  unfold ringPost
  split
  · exact hostWrites_agrees hs
  · exact post_agrees hs

theorem ringWrite_agrees {s : State} {k : Nat} {g : Ring} {a : Nat} {l : List Byte} (hs : s.Agrees s₀) : (s.ringWrite k g a l).Agrees s₀ := by
  unfold ringWrite
  split
  · exact sendNet_agrees hs
  · exact ringPost_agrees hs

theorem putLists_agrees {s : State} {i : Nat} {x : Instance} (hs : s.Agrees s₀) : (s.putLists i x).Agrees s₀ := by
  unfold putLists
  refine Agrees.foldl hs ?_
  intro s1 a1 h1
  split
  · exact srvPut_agrees h1
  · exact h1

theorem issuePass_agrees {s : State} {i : Nat} (hs : s.Agrees s₀) : (s.issuePass i).Agrees s₀ := by
  unfold issuePass
  split
  · exact hs
  · extract_lets _ _ _ _ s1 _ s2 _ s3
    have h_s1 : s1.Agrees s₀ := srvPut_agrees (putLists_agrees hs)
    have h_s2 : s2.Agrees s₀ := Agrees.foldl h_s1 (fun _ _ h1 => (fwWrite_agrees h1))
    have h_s3 : s3.Agrees s₀ := setInst_agrees h_s2
    exact ringDoorbell_agrees h_s3

theorem repeatEntries_agrees {s : State} (hs : s.Agrees s₀) : s.repeatEntries.Agrees s₀ :=
  Agrees.foldl hs (fun _ _ h1 => (Agrees.ite h1 (Agrees.foldl h1 (fun _ _ h2 => (ringWrite_agrees h2)))))

theorem repeatStep_agrees {s : State} {i : Nat} (hs : s.Agrees s₀) : (s.repeatStep i).Agrees s₀ :=
  issuePass_agrees (modInst_agrees hs)

theorem serveReload_agrees {s : State} (hs : s.Agrees s₀) : s.serveReload.Agrees s₀ :=
  raiseEv_agrees (Agrees.foldl (repeatEntries_agrees hs) (fun _ _ h1 => (Agrees.ite (repeatStep_agrees h1) h1)))

theorem answerOutstanding_agrees {s : State} {d : Nat} {mine : Nat → Bool} {out : Nat → Nat → Word → Bool} (hs : s.Agrees s₀) : (s.answerOutstanding d mine out).1.Agrees s₀ :=
  Agrees.foldl hs (fun _ _ h1 => (answer_agrees (heldDrains_agrees h1)))

theorem cacheDrained_agrees {s : State} {n since : Nat} (hs : s.Agrees s₀) : (s.cacheDrained n since).Agrees s₀ := by
  unfold cacheDrained
  extract_lets _ _ s1
  have h_s1 : s1.Agrees s₀ := hs.of_eq
  exact Agrees.foldl (writeBack_agrees h_s1) (fun _ _ h1 => (raiseEv_agrees (setAttr_agrees h1)))

end State

end Sys2Proof.Machine
end

section
/-! SUPPORT. The end of a fenced domain's drain (Table 13-3, steps 2 to 4). -/

set_option Elab.async false

namespace Sys2Proof.Machine

/-- A domain without its supply. -/
def Domain.unpowered (x : Domain) : Domain :=
  { x with
    state := if x.state = .fatal then .fatal else .off, power := .off, powering := false, railMv := 0, powerDw := 0, offAfter := false
    ready := false, level := 0, record := 0 }

namespace State

variable {s t s₀ : State}

theorem Agrees.setDom (h : t.Agrees s) (d : Nat) (x : Domain) : (t.setDom d x).Agrees (s.setDom d x) :=
  ⟨congrArg (fun a : Agreed => { a with domains := tput a.domains d x }) h.parts, h.bits⟩

theorem Agrees.modFault (h : t.Agrees s) (id : Nat) (f : FaultRecord → FaultRecord) : (t.modFault id f).Agrees (s.modFault id f) :=
  ⟨congrArg (fun a : Agreed => { a with flt := { a.flt with records := a.flt.records.map fun r : FaultRecord => if r.ident = id then f r else r } })
    h.parts, h.bits⟩

theorem Logs.supTime (h : t.Logs s) : t.supTime = s.supTime := by simp only [State.supTime, State.core, h.cores]

/-- The drain of a domain's quadrant: the context that it holds is saved, or is torn down and named in the record. -/
theorem drainHolder_logs (s : State) (k id : Nat) : (s.drainHolder k id).Logs s := by
  unfold drainHolder
  split
  · exact Logs.refl s
  · extract_lets x s1 d h s2
    split
    · have left : s1.Agrees s := setCtx_agrees (Agrees.refl s)
      exact left.of_eq.logs
    · split
      · split
        · exact (saveDone_agrees (finishDrains_agrees (Agrees.refl s))).logs
        · have dumped : s2.Logs s := by
            unfold s2
            split
            · exact dumpContext_logs ..
            · exact Logs.refl s
          exact ((startTeardown_agrees (Agrees.refl _)).logs.trans (modFault_logs ..)).trans dumped
      · exact Logs.refl s

/-- A fenced domain's work is answered and its record filled: what the end of a drain does before the reset. -/
def drained (s : State) (d : Nat) : State :=
  let x := s.dom d
  let s1 := if d < 56 ∧ d % 7 < 4 then s.drainHolder (4 * (d / 7) + d % 7) x.record else s
  let since := usBetween (((s1.fault x.record).map (·.detect)).getD s1.supTime) s1.supTime
  let a := (if d < 56 ∧ d % 7 = 4 then s1.cacheDrained (d / 7) since else s1).answerOutstanding d (fun _ => true) fun c q i =>
    !s1.drainHeld c q i
  a.1.modFault x.record fun r => { r with
    answered := satAdd 16 r.answered a.2, drainUs := usBetween r.detect s1.supTime % 2 ^ 32 }

theorem drained_logs (s : State) (d : Nat) : (s.drained d).Logs s := by
  unfold drained
  extract_lets x s1 since a
  have held : s1.Logs s := by
    unfold s1
    split
    · exact drainHolder_logs ..
    · exact Logs.refl s
  have answered : a.1.Agrees s1 := answerOutstanding_agrees (Agrees.ite (cacheDrained_agrees (Agrees.refl s1)) (Agrees.refl s1))
  exact ((modFault_logs ..).trans answered.logs).trans held

/-- The loss of a supply, with what it does to the memory left open. -/
theorem losePower_eq (s : State) (d : Nat) :
    ∃ m n, s.losePower d =
      let s1 := s.clearDomain d
      let s2 := if d < 56 ∧ d % 7 = 4 then { s1 with mem := m, free := n } else s1
      s2.setDom d (s2.dom d).unpowered :=
  ⟨_, _, rfl⟩

/-- A domain other than the supervisor's loses its supply. -/
theorem losePower_agrees {d : Nat} (other : d ≠ 78) (s : State) : (s.losePower d).Agrees (s.setDom d (s.dom d).unpowered) := by
  obtain ⟨m, n, lost⟩ := s.losePower_eq d
  rw [lost]
  extract_lets s1 s2
  have cleared : s2.Agrees s := Agrees.ite (clearDomain_agrees (Agrees.refl s) other).of_eq (clearDomain_agrees (Agrees.refl s) other)
  rw [← cleared.dom d]
  exact cleared.setDom d _

/-- The end of a trip: beside the alert it may take quadrants out. -/
theorem tripDone_agrees (s : State) (d : Nat) : ∃ p, (s.tripDone d).Agrees { s with pins := p } := by
  unfold tripDone
  extract_lets g s1
  split
  · exact ⟨s.pins, Agrees.refl s⟩
  · have told : s1.Agrees s.alert :=
      ⟨congrArg (fun a : Agreed => { a with pins := { a.pins with alertN := false } })
        (raiseEv_agrees (e := evPwr) (b := 6) (Agrees.refl s)).parts, (raiseEv_agrees (Agrees.refl s)).bits⟩
    exact ⟨s.alert.pins, Agrees.ite (raiseEv_agrees (Agrees.foldl told fun _ _ h => removeQuad_agrees h)) told⟩

theorem drainEnd_of_fenced {d : Nat} (fenced : (s.dom d).state = .fenced) :
    s.drainEnd d =
      if (s.dom d).offAfter then
        let s3 := (((s.drained d).losePower d).modFault (s.dom d).record fun r =>
          { r with closed := true, epochAfter := (s.dom d).epoch.toNat }).tripDone d
        if s3.pwr.reqDomain = d ∧ s3.pwr.reqBusy = true then { s3 with pwr := { s3.pwr with reqBusy := false, reqStatus := .ok } } else s3
      else if (s.drained d).pwr.onHoldup then s.drained d
      else
        let s3 := (s.drained d).clearDomain d
        s3.setDom d { s3.dom d with state := .resetting, resetAt := s3.supTime } :=
  if_neg (by simp [fenced])

end State

section
variable {s : State} {d : Nat} (live : s.flt.fatal = false) (fenced : (s.dom d).state = .fenced)
include live fenced

theorem fenceNotice_acknowledged {die : Nat} (there : s.variant.die die = true) (new : die ∉ (s.dom d).fenceAcks) :
    ∃ t, exec (.fenceNotice d die) s = .next t ∧ (t.dom d).fenceAcks = (s.dom d).fenceAcks ++ [die] ∧
      (t.dom d).state = .fenced ∧ (∀ e, e ≠ d → t.dom e = s.dom e) ∧ t = { s with domains := t.domains } := by
  have noticed : s.fenceNoticed d die = s.setDom d { s.dom d with fenceAcks := (s.dom d).fenceAcks ++ [die] } :=
    if_pos ⟨fenced, there, by simpa using new⟩
  refine ⟨_, act_eq_next (f := (State.fenceNoticed · d die)) live noticed, ?_, ?_, fun e ne => State.setDom_dom_ne _ _ ne, rfl⟩
  · rw [State.setDom_dom]
  · rw [State.setDom_dom]
    exact fenced

theorem domainDrainEnd_of_holdup (stays : (s.dom d).offAfter = false) (holdup : s.pwr.onHoldup = true) :
    ∃ t, exec (.domainDrainEnd d) s = .next t ∧ (t.dom d).state = .fenced := by
  have logs := s.drained_logs d
  have ended : s.drainEnd d = s.drained d := by
    rw [State.drainEnd_of_fenced fenced, if_neg (by simp [stays]), if_pos (by rw [logs.pwr]; exact holdup)]
  refine ⟨_, act_eq_next (f := (State.drainEnd · d)) live ended logs.pending logs.variant, ?_⟩
  rw [logs.dom]
  exact fenced

theorem domainDrainEnd_resets (other : d ≠ 78) (stays : (s.dom d).offAfter = false) (supplied : s.pwr.onHoldup = false) :
    ∃ t, exec (.domainDrainEnd d) s = .next t ∧ (t.dom d).state = .resetting ∧ (t.dom d).ready = (s.dom d).ready ∧
      (t.dom d).resetAt = s.supTime ∧ (t.dom d).epoch = (s.dom d).epoch := by
  have logs := s.drained_logs d
  let u := (s.drained d).clearDomain d
  have cleared : u.Agrees (s.drained d) := State.clearDomain_agrees (State.Agrees.refl _) other
  have dom : u.dom d = s.dom d := (cleared.dom d).trans (logs.dom d)
  have ended : s.drainEnd d = u.setDom d { u.dom d with state := .resetting, resetAt := u.supTime } := by
    rw [State.drainEnd_of_fenced fenced, if_neg (by simp [stays]), if_neg (by rw [logs.pwr, supplied]; simp)]
  refine ⟨_, act_eq_next (f := (State.drainEnd · d)) live ended (cleared.pending.trans logs.pending) (cleared.variant.trans logs.variant),
    ?_, ?_, ?_, ?_⟩ <;> rw [State.setDom_dom]
  · exact (congrArg Domain.ready dom :)
  · exact cleared.supTime.trans logs.supTime
  · exact (congrArg Domain.epoch dom :)

theorem domainDrainEnd_switchesOff (other : d ≠ 78) (leaves : (s.dom d).offAfter = true) :
    ∃ t, exec (.domainDrainEnd d) s = .next t ∧ (t.dom d).state = .off ∧ (t.dom d).power = .off ∧ (t.dom d).railMv = 0 ∧
      (s.pwr.reqDomain = d → t.pwr.reqBusy = false) ∧ ∀ r ∈ t.flt.records, r.ident = (s.dom d).record → r.closed = true := by
  have logs := s.drained_logs d
  let close := fun r : FaultRecord => { r with closed := true, epochAfter := (s.dom d).epoch.toNat }
  let off := (s.drained d).setDom d ((s.drained d).dom d).unpowered
  let u := (((s.drained d).losePower d).modFault (s.dom d).record close).tripDone d
  obtain ⟨p, trip⟩ := (((s.drained d).losePower d).modFault (s.dom d).record close).tripDone_agrees d
  have lost : ((s.drained d).losePower d).Agrees off := State.losePower_agrees other _
  have dom : u.dom d = (s.dom d).unpowered := by
    calc u.dom d = ((s.drained d).losePower d).dom d := trip.dom d
      _ = off.dom d := lost.dom d
      _ = (s.dom d).unpowered := by rw [State.setDom_dom, logs.dom]
  have pwr : u.pwr = s.pwr := trip.pwr.trans (lost.pwr.trans logs.pwr)
  have pending : u.pending = s.pending := trip.pending.trans (lost.pending.trans logs.pending)
  have variant : u.variant = s.variant := trip.variant.trans (lost.variant.trans logs.variant)
  have closed : ∀ r ∈ u.flt.records, r.ident = (s.dom d).record → r.closed = true := by
    rw [trip.flt]
    intro r listed same
    obtain ⟨q, -, rfl⟩ := List.mem_map.mp listed
    by_cases hit : q.ident = (s.dom d).record
    · rw [if_pos hit]
    · rw [if_neg hit] at same
      exact absurd same hit
  have state : (s.dom d).unpowered.state = .off := if_neg (by simp [fenced])
  have ended : s.drainEnd d =
      if u.pwr.reqDomain = d ∧ u.pwr.reqBusy = true then { u with pwr := { u.pwr with reqBusy := false, reqStatus := .ok } } else u := by
    rw [State.drainEnd_of_fenced fenced, if_pos leaves]
  by_cases asked : u.pwr.reqDomain = d ∧ u.pwr.reqBusy = true
  · rw [if_pos asked] at ended
    refine ⟨_, act_eq_next (f := (State.drainEnd · d)) live ended pending variant, ?_, ?_, ?_, fun _ => rfl, closed⟩
    · exact (congrArg Domain.state dom).trans state
    · exact congrArg Domain.power dom
    · exact congrArg Domain.railMv dom
  · rw [if_neg asked] at ended
    refine ⟨u, act_eq_next (f := (State.drainEnd · d)) live ended pending variant, ?_, ?_, ?_, fun mine => ?_, closed⟩
    · exact (congrArg Domain.state dom).trans state
    · exact congrArg Domain.power dom
    · exact congrArg Domain.railMv dom
    · by_contra busy
      exact asked ⟨by rw [pwr]; exact mine, by simpa using busy⟩

end

/-- Settles O31. -/
theorem fencedDomainsDrain : Obligations.FencedDomainsDrain := by
  intro s d die live below _ fenced
  have other : d ≠ 78 := Nat.ne_of_lt below
  exact ⟨fenceNotice_acknowledged live fenced, domainDrainEnd_of_holdup live fenced, domainDrainEnd_resets live fenced other,
    domainDrainEnd_switchesOff live fenced other⟩

end Sys2Proof.Machine
end

section
/-! SUPPORT. The return of a reset domain (Table 13-3, steps 5 to 7). -/

set_option Elab.async false

namespace Sys2Proof.Machine

/-- The later entry of a number replaces the earlier. -/
theorem tput_tput {α : Type} (t : Tab α) (k : Nat) (a b : α) : tput (tput t k a) k b = tput t k b := by
  induction t with
  | nil => simp [tput]
  | cons p r ih =>
    obtain ⟨j, x⟩ := p
    rcases Nat.lt_trichotomy k j with below | rfl | above
    · simp [tput, below]
    · simp [tput]
    · simp [tput, Nat.not_lt.mpr (Nat.le_of_lt above), Nat.ne_of_gt above, ih]

/-- In a table in order an entry is what a look-up of its number finds. -/
theorem Rising.tget_of_mem {α : Type} {t : Tab α} (h : Rising t) {k : Nat} {a : α} (mem : (k, a) ∈ t) : tget t k = some a := by
  induction t with
  | nil => cases mem
  | cons p r ih =>
    obtain ⟨first, rest⟩ := List.pairwise_cons.mp h
    rcases List.mem_cons.mp mem with rfl | later
    · exact if_pos rfl
    · have ne : p.1 ≠ k := Nat.ne_of_lt (first _ later)
      exact (if_neg ne).trans (ih rest later)

/-- A domain as it leaves reset. -/
def Domain.left (x : Domain) : Domain :=
  { x with epoch := x.epoch + 1, time := 0, restarted := true, lastRecord := if x.record = 0 then x.lastRecord else x.record }

namespace State

variable {s t s₀ : State}

/-! ### A domain leaves reset -/

theorem restartCores_establishes (s : State) (d : Nat) :
    ∀ c ∈ coresOf d, ((s.restartCores d).core c).time = 0 ∧ ((s.restartCores d).core c).restarted = true := by
  refine foldl_establishes (P := fun c (s : State) => (s.core c).time = 0 ∧ (s.core c).restarted = true) (fun s c => ?_) (fun s a b h => ?_) _ s
  · exact ⟨by rw [setCore_core], by rw [setCore_core]⟩
  · by_cases here : b = a
    · subst here
      exact ⟨by rw [setCore_core], by rw [setCore_core]⟩
    · rw [setCore_core_ne _ _ here]
      exact h

theorem restartCores_eq (s : State) (d : Nat) : ∃ cs, s.restartCores d = { s with cores := cs } := by
  refine List.foldlRecOn (motive := fun t : State => ∃ cs, t = { s with cores := cs }) (coresOf d) _ ⟨s.cores, rfl⟩ ?_
  rintro _ ⟨cs, rfl⟩ c _
  exact ⟨_, rfl⟩

/-- Leaving reset: the domain takes the next epoch at time 0, its cores restart, its stack or quadrant begins again. -/
theorem leaveReset_eq (s : State) (d : Nat) :
    ∃ cs h q p l, s.leaveReset d =
        { s with domains := tput s.domains d (s.dom d).left, cores := cs, hbm := h, quads := q, plk := p, delivered := l } ∧
      ∀ c ∈ coresOf d, ((s.leaveReset d).core c).time = 0 ∧ ((s.leaveReset d).core c).restarted = true := by
  let u : State := { s with delivered := s.delivered.filter fun x =>
    !(rzClass x.transfer.header == 0 && rzSrcDomain x.transfer.header == d) }
  let s1 := (u.setDom d (s.dom d).left).restartCores d
  obtain ⟨cs, restarted⟩ := restartCores_eq (u.setDom d (s.dom d).left) d
  have cores : ∀ c ∈ coresOf d, (s1.core c).time = 0 ∧ (s1.core c).restarted = true := restartCores_establishes _ d
  let s2 := if 56 ≤ d ∧ d < 72 then s1.setStack (d - 56) { s1.stack (d - 56) with state := .active }
    else if d < 56 ∧ d % 7 < 4 then
      s1.setQuad (4 * (d / 7) + d % 7) { s1.quad (4 * (d / 7) + d % 7) with window := s.sel.rateWin }
    else s1
  have begun : ∃ h q, s2 = { s1 with hbm := h, quads := q } := by
    unfold s2
    split
    · exact ⟨_, s1.quads, rfl⟩
    · split
      · exact ⟨s1.hbm, _, rfl⟩
      · exact ⟨s1.hbm, s1.quads, rfl⟩
  obtain ⟨h, q, begun⟩ := begun
  have left : s.leaveReset d = if d = 78 then { s2 with plk := { s2.plk with supRestarted := true } } else s2 := rfl
  have plk : ∃ p, s.leaveReset d = { s2 with plk := p } := by
    rw [left]
    split
    · exact ⟨_, rfl⟩
    · exact ⟨s2.plk, rfl⟩
  obtain ⟨p, plk⟩ := plk
  rw [plk, begun]
  refine ⟨cs, h, q, p, u.delivered, ?_, cores⟩
  have frame : s1 = { u.setDom d (s.dom d).left with cores := cs } := restarted
  rw [frame]
  rfl

section
variable {d : Nat} (resetting : (s.dom d).state = .resetting)
include resetting

/-- Ready after its reset, a domain waits for the acknowledgements of its new epoch. -/
theorem resetReady_eq (waiting : (s.dom d).ready = false) (supplied : s.pwr.onHoldup = false) :
    ∃ cs h q p l f, s.resetReady d =
        { s with
          domains := tput s.domains d { (s.dom d).left with ready := true, epochAcks := [] }, cores := cs, hbm := h, quads := q
          plk := p, delivered := l, flt := f, ctl := s.ctl ++ [.epoch d ((s.dom d).epoch + 1)] } ∧
      ∀ c ∈ coresOf d, ((s.resetReady d).core c).time = 0 ∧ ((s.resetReady d).core c).restarted = true := by
  obtain ⟨cs, h, q, p, l, left, cores⟩ := s.leaveReset_eq d
  have own : (s.leaveReset d).dom d = (s.dom d).left := by rw [left]; exact tgetD_tput_same ..
  let close := fun r : FaultRecord => if s.timesDomain r d then
    { r with resetUs := usBetween (s.dom d).resetAt s.supTime % 2 ^ 32, epochAfter := ((s.leaveReset d).dom d).epoch.toNat } else r
  have ready : s.resetReady d =
      (((s.leaveReset d).setDom d { (s.leaveReset d).dom d with ready := true, epochAcks := [] }).modFault (s.dom d).record close).sendCtl
        (.epoch d ((s.leaveReset d).dom d).epoch) := if_neg (by simp [resetting, waiting, supplied])
  refine ⟨cs, h, q, p, l, ((s.leaveReset d).modFault (s.dom d).record close).flt, ?_, fun c mine => by rw [ready]; exact cores c mine⟩
  rw [ready, own, left]
  simp only [sendCtl, modFault, setDom, tput_tput, Domain.left]

end

/-! ### The acknowledgement of the new epoch -/

theorem heldDrains_eq (s : State) (c q : Nat) (idx : Word) : ∃ cs as, s.heldDrains c q idx = { s with contexts := cs, arrays := as } := by
  refine List.foldlRecOn (motive := fun t : State => ∃ cs as, t = { s with contexts := cs, arrays := as }) _ _
    ⟨s.contexts, s.arrays, rfl⟩ ?_
  rintro _ ⟨cs, as, rfl⟩ x _
  exact ⟨_, _, rfl⟩

theorem answerOutstanding_eq (s : State) (d : Nat) (mine : Nat → Bool) (out : Nat → Nat → Word → Bool) :
    ∃ cs as, (s.answerOutstanding d mine out).1 = { s with contexts := cs, arrays := as } := by
  refine List.foldlRecOn (motive := fun t : State => ∃ cs as, t = { s with contexts := cs, arrays := as }) _ _
    ⟨s.contexts, s.arrays, rfl⟩ ?_
  rintro _ ⟨cs, as, rfl⟩ x _
  obtain ⟨cs', as', held⟩ := State.heldDrains_eq { s with contexts := cs, arrays := as } x.1 x.2.1 x.2.2
  rw [held]
  exact ⟨_, _, rfl⟩

/-- A die that has not acknowledged the new epoch does, and gives up what it had outstanding. -/
theorem epochNoticed_eq {d die : Nat} (resetting : (s.dom d).state = .resetting) (ready : (s.dom d).ready = true)
    (there : s.variant.die die = true) (new : die ∉ (s.dom d).epochAcks) :
    ∃ cs as l, s.epochNoticed d die =
      { s with
        domains := tput s.domains d { s.dom d with epochAcks := (s.dom d).epochAcks ++ [die] }, contexts := cs, arrays := as
        delivered := l } := by
  let s1 := (s.answerOutstanding d (fun n => n == die) fun _ _ _ => true).1
  obtain ⟨cs, as, answered⟩ := s.answerOutstanding_eq d (fun n => n == die) fun _ _ _ => true
  have noticed : s.epochNoticed d die =
      ({ s1 with delivered := s1.delivered.filter fun y => !s1.outstandingTo d die y } : State).setDom d
        { s1.dom d with epochAcks := (s.dom d).epochAcks ++ [die] } := if_pos ⟨resetting, ready, there, by simpa using new⟩
  have frame : s1 = { s with contexts := cs, arrays := as } := answered
  refine ⟨cs, as, s1.delivered.filter fun y => !s1.outstandingTo d die y, ?_⟩
  rw [noticed, frame]
  rfl

/-! ### The fence is lifted -/

/-- Records as a function leaves them. -/
def mapRecords (s : State) (f : FaultRecord → FaultRecord) : State := { s with flt := { s.flt with records := s.flt.records.map f } }

theorem mapRecords_logs (s : State) (f : FaultRecord → FaultRecord) : (s.mapRecords f).Logs s := ⟨rfl, rfl, fun _ _ _ set => set⟩

theorem mapRecords_same (s : State) : s.mapRecords (fun r => r) = s := by
  unfold mapRecords
  rw [List.map_id']

/-- Retiring an array that hangs too often leaves the records, but for a flag. -/
theorem retireHung_agrees (s : State) (id : Nat) : ∃ f : FaultRecord → FaultRecord,
    (∀ r, (f r).ident = r.ident ∧ (f r).closed = r.closed) ∧ (s.retireHung id).Agrees (s.mapRecords f) := by
  have same : ∃ f : FaultRecord → FaultRecord, (∀ r, (f r).ident = r.ident ∧ (f r).closed = r.closed) ∧ s.Agrees (s.mapRecords f) :=
    ⟨fun r => r, fun _ => ⟨rfl, rfl⟩, by rw [mapRecords_same]; exact Agrees.refl s⟩
  unfold retireHung
  split
  · exact same
  next r _ =>
    split
    · extract_lets recent
      split
      · have retired : (s.retire r.unit).Agrees s := retire_agrees (Agrees.refl s)
        refine ⟨fun r => if r.ident = id then { r with flags := r.flags ||| 16 } else r, fun r => ?_, retired.modFault ..⟩
        dsimp only
        split <;> exact ⟨rfl, rfl⟩
      · exact same
    · exact same

theorem warmEnds_logs (s : State) : s.warmEnds.Logs s ∧ s.warmEnds.flt.records = s.flt.records := by
  unfold warmEnds
  split
  · exact ⟨⟨rfl, rfl, fun _ _ _ set => set⟩, rfl⟩
  · exact ⟨Logs.refl s, rfl⟩

/-- A record closes: with it the array that hung too often retires, and the package's warm reset may end. -/
def closeRecord (s : State) (id : Nat) : State := (s.modFault id fun r => { r with closed := true }).retireHung id |>.warmEnds

theorem closeRecord_logs (s : State) (id : Nat) : (s.closeRecord id).Logs s ∧
    ((s.closeRecord id).flt.records.all fun r => r.ident != id || r.closed) = true := by
  obtain ⟨ended, records⟩ := ((s.modFault id fun r => { r with closed := true }).retireHung id).warmEnds_logs
  obtain ⟨f, kept, retired⟩ := (s.modFault id fun r => { r with closed := true }).retireHung_agrees id
  refine ⟨((ended.trans retired.logs).trans (mapRecords_logs ..)).trans (modFault_logs ..), List.all_eq_true.mpr fun r listed => ?_⟩
  have listed' := listed
  rw [closeRecord, records, retired.flt] at listed'
  obtain ⟨q, before, rfl⟩ := List.mem_map.mp listed'
  obtain ⟨p, -, rfl⟩ := List.mem_map.mp before
  obtain ⟨ident, closed⟩ := kept (if p.ident = id then { p with closed := true } else p)
  rw [ident, closed]
  by_cases hit : p.ident = id
  · simp [hit]
  · simp [hit]

/-- The last steps of a return: detours, events that waited, and the restart of what the domain runs. -/
def reopened (s : State) (d : Nat) : State :=
  let s4 := ((List.range 64).filter fun e => e != 15 && (eventDomain e == d || d == 78)).foldl (fun (s : State) e => s.evalEvent e)
    s.placeDetours
  let s5 := match s4.watched d with
    | some c => { s4 with boot := { s4.boot with updApplied := s4.boot.updApplied ||| 2 ^ c } }
    | none => s4
  if d = 77 then s5.serveReload else if d = 76 then s5.resumeGroup else s5

theorem reopened_agrees (s : State) (d : Nat) : ∃ c, (∀ m ∈ s.ctl, m ∈ c) ∧ (s.reopened d).Agrees { s with ctl := c } := by
  obtain ⟨c, kept, detours⟩ := s.placeDetours_agrees
  refine ⟨c, kept, ?_⟩
  unfold reopened
  extract_lets s4 _ s5
  have evaluated : s4.Agrees { s with ctl := c } := Agrees.foldl detours fun _ _ h => evalEvent_agrees h
  have applied : s5.Agrees { s with ctl := c } := by
    unfold s5
    split
    · exact evaluated.of_eq
    · exact evaluated
  exact Agrees.ite (serveReload_agrees applied) (Agrees.ite (resumeGroup_agrees applied) applied)

/-- An acknowledged domain opens. -/
def lifted (s : State) (d : Nat) : State :=
  (s.setDom d { s.dom d with
    state := .opened, ready := false, level := 0, requested := false, powering := false, power := .on
    resets := satAdd 16 (s.dom d).resets 1 }).sendCtl (.clear d)

theorem fenceLift_of_reset {d : Nat} (resetting : (s.dom d).state = .resetting) (ready : (s.dom d).ready = true)
    (reset : (s.dom d).powering = false) (acked : ∀ n, n < 12 → s.variant.die n = true → n ∈ (s.dom d).epochAcks) :
    s.fenceLift d =
      ((if (s.lifted d).recordDone (s.dom d).record then (s.lifted d).closeRecord (s.dom d).record
        else s.lifted d).raiseEv evFlt 1).reopened d := by
  have all : (((List.range 12).filter s.variant.die).all fun n => (s.dom d).epochAcks.contains n) = true := by
    refine List.all_eq_true.mpr fun n listed => ?_
    obtain ⟨short, there⟩ := List.mem_filter.mp listed
    simpa using acked n (List.mem_range.mp short) there
  have go : ¬ ((s.dom d).state ≠ .resetting ∨ (s.dom d).ready = false ∨
      (((List.range 12).filter s.variant.die).all fun n => (s.dom d).epochAcks.contains n) = false ∨
      ((s.dom d).powering = true ∧ ((powerDeps d).all fun e => s.isOpen e) = false)) := by
    simp only [resetting, ready, reset, all]
    simp
  rw [fenceLift, if_neg go, reset]
  rfl

theorem recordDone_lifted {d : Nat} (order : Rising s.domains) (others : ∀ p ∈ s.domains, p.1 = d ∨ p.2.record ≠ (s.dom d).record) :
    (s.lifted d).recordDone (s.dom d).record = true := by
  have none : ¬ ∃ p ∈ (s.lifted d).domains, p.2.record = (s.dom d).record ∧ (p.2.state = .fenced ∨ p.2.state = .resetting) := by
    rintro ⟨p, listed, same, recovering⟩
    have own : p.1 ≠ d := by
      rintro rfl
      have found := (order.tput p.1 _).tget_of_mem (show (p.1, p.2) ∈ (s.lifted p.1).domains from listed)
      rw [tget_tput_same] at found
      rw [← Option.some.inj found] at recovering
      rcases recovering with state | state <;> cases state
    rcases mem_tput listed with rfl | before
    · exact own rfl
    · exact (others p before).elim own fun ne => ne same
  simpa [recordDone] using none

end State

section
variable {s : State} {d : Nat} (live : s.flt.fatal = false) (resetting : (s.dom d).state = .resetting)
include live resetting

theorem domainResetReady_next (waiting : (s.dom d).ready = false) (supplied : s.pwr.onHoldup = false) :
    ∃ t, exec (.domainResetReady d) s = .next t ∧ (t.dom d).ready = true ∧ (t.dom d).epoch = (s.dom d).epoch + 1 ∧
      (t.dom d).time = 0 ∧ (t.dom d).epochAcks = [] ∧ t.ctl = s.ctl ++ [.epoch d ((s.dom d).epoch + 1)] ∧
      (∀ c ∈ coresOf d, (t.core c).time = 0 ∧ (t.core c).restarted = true) ∧ (∀ e, e ≠ d → t.dom e = s.dom e) ∧
      t = { s with
        domains := t.domains, cores := t.cores, hbm := t.hbm, plk := t.plk, flt := t.flt, ctl := t.ctl, quads := t.quads,
        delivered := t.delivered } := by
  obtain ⟨cs, h, q, p, l, f, frame, cores⟩ := State.resetReady_eq resetting waiting supplied
  have own : (s.resetReady d).dom d = { (s.dom d).left with ready := true, epochAcks := [] } := by rw [frame]; exact tgetD_tput_same ..
  refine ⟨s.resetReady d, act_eq_next (f := (State.resetReady · d)) live rfl (by rw [frame]) (by rw [frame]), ?_, ?_, ?_, ?_, ?_, cores,
    fun e ne => ?_, ?_⟩
  · rw [own]
  · rw [own]
    rfl
  · rw [own]
    rfl
  · rw [own]
  · rw [frame]
  · rw [frame]
    exact State.setDom_dom_ne s _ ne
  · rw [frame]

theorem epochNotice_next {die : Nat} (ready : (s.dom d).ready = true) (there : s.variant.die die = true)
    (new : die ∉ (s.dom d).epochAcks) :
    ∃ t, exec (.epochNotice d die) s = .next t ∧ (t.dom d).epochAcks = (s.dom d).epochAcks ++ [die] ∧
      (∀ e, e ≠ d → t.dom e = s.dom e) ∧
      t = { s with domains := t.domains, contexts := t.contexts, arrays := t.arrays, delivered := t.delivered } := by
  obtain ⟨cs, as, l, noticed⟩ := State.epochNoticed_eq resetting ready there new
  refine ⟨_, act_eq_next (f := (State.epochNoticed · d die)) live noticed, ?_, fun e ne => State.setDom_dom_ne s _ ne, rfl⟩
  exact congrArg Domain.epochAcks (tgetD_tput_same ..)

theorem fenceLift_next (ready : (s.dom d).ready = true) (reset : (s.dom d).powering = false)
    (acked : ∀ n, n < 12 → s.variant.die n = true → n ∈ (s.dom d).epochAcks) :
    ∃ t, exec (.fenceLift d) s = .next t ∧ t.isOpen d = true ∧ (t.dom d).resets = satAdd 16 (s.dom d).resets 1 ∧
      (t.dom d).epoch = (s.dom d).epoch ∧ .clear d ∈ t.ctl ∧ (∀ e, e ≠ d → t.dom e = s.dom e) ∧
      (s.domains.Pairwise (fun a b => a.1 < b.1) → (∀ p ∈ s.domains, p.1 = d ∨ p.2.record ≠ (s.dom d).record) →
        (t.flt.records.all fun r => r.ident != (s.dom d).record || r.closed) = true) := by
  let id := (s.dom d).record
  let s2 := if (s.lifted d).recordDone id then (s.lifted d).closeRecord id else s.lifted d
  have logs : s2.Logs (s.lifted d) := by
    unfold s2
    split
    · exact (State.closeRecord_logs ..).1
    · exact State.Logs.refl _
  have raised : (s2.raiseEv evFlt 1).Agrees s2 := State.raiseEv_agrees (State.Agrees.refl s2)
  obtain ⟨c, kept, agrees⟩ := (s2.raiseEv evFlt 1).reopened_agrees d
  let t := (s2.raiseEv evFlt 1).reopened d
  have dom (e : Nat) : t.dom e = (s.lifted d).dom e := (agrees.dom e).trans ((raised.dom e).trans (logs.dom e))
  have own : t.dom d = { s.dom d with
      state := .opened, ready := false, level := 0, requested := false, powering := false, power := .on
      resets := satAdd 16 (s.dom d).resets 1 } := (dom d).trans (State.setDom_dom ..)
  refine ⟨t, act_eq_next (f := (State.fenceLift · d)) live (State.fenceLift_of_reset resetting ready reset acked)
    (agrees.pending.trans (raised.pending.trans logs.pending)) (agrees.variant.trans (raised.variant.trans logs.variant)),
    beq_iff_eq.mpr (congrArg Domain.state own), ?_, ?_, ?_, fun e ne => ?_, fun order others => ?_⟩
  · rw [own]
  · rw [own]
  · rw [agrees.ctl]
    refine kept _ ?_
    rw [raised.ctl, logs.ctl]
    exact List.mem_append_right _ (List.mem_singleton.mpr rfl)
  · exact (dom e).trans (State.setDom_dom_ne _ _ ne)
  · have closes : s2 = (s.lifted d).closeRecord id := if_pos (State.recordDone_lifted order others)
    have flt : t.flt = ((s.lifted d).closeRecord id).flt := by rw [← closes]; exact agrees.flt.trans raised.flt
    rw [flt]
    exact (State.closeRecord_logs ..).2

theorem fenceLift_waits {n : Nat} (short : n < 12) (there : s.variant.die n = true) (missing : n ∉ (s.dom d).epochAcks) :
    ∃ t, exec (.fenceLift d) s = .next t ∧ t = s := by
  have waits : (((List.range 12).filter s.variant.die).all fun n => (s.dom d).epochAcks.contains n) = false := by
    refine List.all_eq_false.mpr ⟨n, List.mem_filter.mpr ⟨List.mem_range.mpr short, there⟩, by simpa using missing⟩
  exact ⟨s, act_eq_next (f := (State.fenceLift · d)) live (if_pos (.inr (.inr (.inl waits)))), rfl⟩

end

/-- Settles O32. -/
theorem resetDomainsComeBack : Obligations.ResetDomainsComeBack :=
  ⟨fun _ _ live _ resetting waiting supplied => domainResetReady_next live resetting waiting supplied,
    fun _ _ _ live _ resetting ready there new => epochNotice_next live resetting ready there new,
    fun _ _ live _ resetting ready reset acked => fenceLift_next live resetting ready reset acked,
    fun _ _ _ live _ resetting short there missing => fenceLift_waits live resetting short there missing⟩

end Sys2Proof.Machine
end

section
/-! SUPPORT. Late resets (R345 to R348, Table 13-5): the levels of a recovery, the package warm reset and the fatal report. -/

set_option Elab.async false

namespace Sys2Proof.Machine

/-- A run that reaches a property at one element of its list, under an invariant of the run, and keeps it from there. -/
theorem foldl_reaches {α : Type} {f : State → α → State} {I Q : State → Prop} {d : α} {l : List α} (keeps : ∀ s, ∀ a ∈ l, I s → I (f s a))
    (does : ∀ s, I s → Q (f s d)) (holds : ∀ s, ∀ a ∈ l, I s → Q s → Q (f s a)) (mem : d ∈ l) {s : State} (h : I s) :
    I (l.foldl f s) ∧ Q (l.foldl f s) := by
  induction l generalizing s with
  | nil => cases mem
  | cons a r ih =>
    have keeps' : ∀ s, ∀ b ∈ r, I s → I (f s b) := fun s b hb => keeps s b (List.mem_cons_of_mem a hb)
    have holds' : ∀ s, ∀ b ∈ r, I s → Q s → Q (f s b) := fun s b hb => holds s b (List.mem_cons_of_mem a hb)
    rcases List.mem_cons.mp mem with rfl | later
    · exact List.foldlRecOn (motive := fun s => I s ∧ Q s) r f ⟨keeps s d (List.mem_cons_self ..) h, does s h⟩
        fun t ht b hb => ⟨keeps' t b hb ht.1, holds' t b hb ht.1 ht.2⟩
    · exact ih keeps' holds' later (keeps s a (List.mem_cons_self ..) h)

/-- A change of records that keeps their numbers and opens none again. -/
def Closing (f : FaultRecord → FaultRecord) : Prop := ∀ r, (f r).ident = r.ident ∧ (r.closed = true → (f r).closed = true)

theorem Closing.comp {f g : FaultRecord → FaultRecord} (hf : Closing f) (hg : Closing g) : Closing (f ∘ g) := fun r =>
  ⟨(hf (g r)).1.trans (hg r).1, fun closed => (hf (g r)).2 ((hg r).2 closed)⟩

/-- The addressed record closes, the others stay. -/
theorem closing_ite (id : Nat) {f : FaultRecord → FaultRecord} (same : ∀ r, (f r).ident = r.ident) (closes : ∀ r, (f r).closed = true) :
    Closing fun r => if r.ident = id then f r else r := fun r => by
  dsimp only
  split
  · exact ⟨same r, fun _ => closes r⟩
  · exact ⟨rfl, fun closed => closed⟩

namespace State

variable {s t s₀ : State}

/-! ### Records that close -/

/-- The record of this number has closed. -/
def RecordClosed (s : State) (id : Nat) : Prop := (s.fault id).any (·.closed) = true

theorem fault_of_map {id : Nat} {f : FaultRecord → FaultRecord} (closing : Closing f) (records : t.flt.records = s.flt.records.map f) :
    t.fault id = (s.fault id).map f := by
  unfold fault
  rw [records, List.find?_map]
  congr 2
  funext r
  simp [(closing r).1]

theorem RecordClosed.of_map {id : Nat} {f : FaultRecord → FaultRecord} (h : s.RecordClosed id) (closing : Closing f)
    (records : t.flt.records = s.flt.records.map f) : t.RecordClosed id := by
  unfold RecordClosed at *
  rw [fault_of_map closing records]
  cases found : s.fault id with
  | none =>
    rw [found] at h
    cases h
  | some r =>
    rw [found] at h
    exact (closing r).2 h

theorem RecordClosed.of_flt {id : Nat} (h : s.RecordClosed id) (flt : t.flt = s.flt) : t.RecordClosed id := by
  unfold RecordClosed fault at *
  rwa [flt]

theorem RecordClosed.of_keeps {id : Nat} (h : s.RecordClosed id) (kept : t.KeepsRecords s) : t.RecordClosed id := by
  obtain ⟨f, records, only⟩ := kept
  refine h.of_map (fun r => ?_) records
  obtain ⟨n, e⟩ := only r
  rw [e]
  exact ⟨rfl, fun closed => closed⟩

/-- A record as its level fails. -/
def failedRecord (s : State) (d : Nat) (r : FaultRecord) : FaultRecord :=
  { r with
    closed := true, epochAfter := r.epochBefore
    resetUs := if (s.dom d).state = .resetting then usBetween (s.dom d).resetAt s.supTime % 2 ^ 32 else r.resetUs }

theorem failedRecord_closing (s : State) (d old : Nat) : Closing fun r => if r.ident = old then s.failedRecord d r else r :=
  closing_ite old (fun _ => rfl) fun _ => rfl

theorem closing_of_kept {f : FaultRecord → FaultRecord} (kept : ∀ r, (f r).ident = r.ident ∧ (f r).closed = r.closed) : Closing f :=
  fun r => ⟨(kept r).1, fun closed => (kept r).2.trans closed⟩

theorem levelFails_eq (s : State) (d old : Nat) :
    s.levelFails d old =
      if (s.fault old).any fun r => !r.closed then (s.mapRecords fun r => if r.ident = old then s.failedRecord d r else r).retireHung old
      else s := rfl

/-- What failing a record does: it closes, and the array that hung too often retires. -/
theorem levelFails_agrees (s : State) (d old : Nat) : ∃ f, Closing f ∧ (s.levelFails d old).Agrees (s.mapRecords f) := by
  rw [levelFails_eq]
  split
  · obtain ⟨f, kept, agrees⟩ := (s.mapRecords fun r => if r.ident = old then s.failedRecord d r else r).retireHung_agrees old
    refine ⟨_, Closing.comp (closing_of_kept kept) (s.failedRecord_closing d old), ?_⟩
    convert agrees using 1
    simp only [mapRecords, List.map_map]
  · exact ⟨fun r => r, fun _ => ⟨rfl, fun closed => closed⟩, by rw [mapRecords_same]; exact Agrees.refl s⟩

theorem levelFails_closes {d old : Nat} (known : (s.fault old).isSome = true) : (s.levelFails d old).RecordClosed old := by
  obtain ⟨r, found⟩ := Option.isSome_iff_exists.mp known
  rw [levelFails_eq]
  split
  · obtain ⟨f, kept, agrees⟩ := (s.mapRecords fun r => if r.ident = old then s.failedRecord d r else r).retireHung_agrees old
    have closed : (s.mapRecords fun r => if r.ident = old then s.failedRecord d r else r).RecordClosed old := by
      have mine : r.ident = old := by simpa using List.find?_some found
      rw [RecordClosed, fault_of_map (s.failedRecord_closing d old) rfl, found, Option.map_some, if_pos mine]
      rfl
    exact (closed.of_map (closing_of_kept kept) rfl).of_flt agrees.flt
  next closed =>
    rw [RecordClosed, found]
    simpa [found] using closed

theorem overtaken_agrees (s : State) (d id : Nat) : ∃ f, Closing f ∧ (s.overtaken d id).Agrees (s.mapRecords f) := by
  unfold overtaken
  split
  · exact ⟨fun r => r, fun _ => ⟨rfl, fun closed => closed⟩, by rw [mapRecords_same]; exact Agrees.refl s⟩
  · exact levelFails_agrees ..

/-! ### A reset of level 2 -/

/-- What a reset of level 2 does with one domain of its set, once the records it takes over have closed. -/
def joinLevelTwo (s : State) (e id : Nat) : State :=
  match (s.dom e).state with
  | .resetting => s.setDom e { s.dom e with level := 2, record := id, resetAt := s.supTime, ready := false, epochAcks := [] }
  | .fenced => s.setDom e { s.dom e with level := 2, record := id }
  | .opened => s.fenceDom e id 2 false
  | _ => s

/-- A domain that resets joins, every other stays apart from it, and no record opens again. -/
structure JoinsLevelTwo (t s : State) (e : Nat) : Prop where
  others : ∀ i, i ≠ e → t.dom i = s.dom i
  own : (s.dom e).state = .resetting → (t.dom e).state = .resetting ∧ (t.dom e).level = 2
  closed : ∀ id, s.RecordClosed id → t.RecordClosed id

theorem joinLevelTwo_joins (s : State) {e : Nat} (other : e ≠ 78) (id : Nat) : (s.joinLevelTwo e id).JoinsLevelTwo s e := by
  unfold joinLevelTwo
  split
  next state =>
    exact ⟨fun i ne => setDom_dom_ne _ _ ne, fun _ => by rw [setDom_dom]; exact ⟨state, rfl⟩, fun _ closed => closed⟩
  next state =>
    exact ⟨fun i ne => setDom_dom_ne _ _ ne, fun was => (by rw [was] at state; cases state), fun _ closed => closed⟩
  next state =>
    have fence := fenceDom_agrees other s id 2 false
    exact ⟨fun i ne => (fence.dom i).trans (setDom_dom_ne _ _ ne), fun was => (by rw [was] at state; cases state),
      fun _ closed => closed.of_flt fence.flt⟩
  next not _ _ => exact ⟨fun _ _ => rfl, fun was => absurd was not, fun _ closed => closed⟩

theorem overtaken_joins (s : State) {e : Nat} (other : e ≠ 78) (id : Nat) : ((s.overtaken e id).joinLevelTwo e id).JoinsLevelTwo s e := by
  obtain ⟨f, closing, agrees⟩ := s.overtaken_agrees e id
  have joins := (s.overtaken e id).joinLevelTwo_joins other id
  have dom (i : Nat) : (s.overtaken e id).dom i = s.dom i := agrees.dom i
  exact ⟨fun i ne => (joins.others i ne).trans (dom i), fun was => joins.own (by rwa [dom e]),
    fun old closed => joins.closed old ((closed.of_map (t := s.mapRecords f) closing rfl).of_flt agrees.flt)⟩

theorem mem_escalationSet {d : Nat} (below : d < 78) : d ∈ escalationSet d := by
  unfold escalationSet
  split_ifs
  · exact List.mem_map.mpr ⟨d % 7, List.mem_range.mpr (Nat.mod_lt _ (by decide)), Nat.div_add_mod d 7⟩
  · exact List.mem_cons_self ..
  · rcases Nat.mod_two_eq_zero_or_one d with even | odd
    · rw [even]
      exact List.mem_cons_self ..
    · have whole : d - d % 2 + 1 = d := by omega
      rw [whole]
      exact List.mem_cons_of_mem _ (List.mem_cons_self ..)
  · omega

theorem escalationSet_ne {d e : Nat} (below : d < 78) (mem : e ∈ escalationSet d) : e ≠ 78 := by
  unfold escalationSet at mem
  split_ifs at mem
  · obtain ⟨m, short, rfl⟩ := List.mem_map.mp mem
    have := List.mem_range.mp short
    omega
  · rcases List.mem_cons.mp mem with rfl | stack
    · omega
    · obtain ⟨m, short, rfl⟩ := List.mem_map.mp stack
      have := List.mem_range.mp short
      omega
  · have := List.mem_pair.mp mem
    omega
  · omega

/-- The domains of a set join one after another: the one that is late is among them. -/
theorem levelTwo_joins {d id : Nat} {set : List Nat} (mem : d ∈ set) (other : ∀ e ∈ set, e ≠ 78) (resetting : (s.dom d).state = .resetting) :
    let t := set.foldl (fun s e => (s.overtaken e id).joinLevelTwo e id) s
    (t.dom d).state = .resetting ∧ (t.dom d).level = 2 ∧ ∀ old, s.RecordClosed old → t.RecordClosed old := by
  have reached := foldl_reaches (l := set) (d := d) (f := fun s e => (s.overtaken e id).joinLevelTwo e id)
    (I := fun s => (s.dom d).state = .resetting) (Q := fun s => (s.dom d).level = 2) (fun s e he h => ?_) (fun s h => ?_)
    (fun s e he h level => ?_) mem resetting
  · refine ⟨reached.1, reached.2, fun old closed => ?_⟩
    exact List.foldlRecOn (motive := fun t : State => t.RecordClosed old) set _ closed
      fun t h e he => (t.overtaken_joins (other e he) id).closed old h
  · have joins := s.overtaken_joins (other e he) id
    by_cases mine : e = d
    · subst mine
      exact (joins.own h).1
    · exact (congrArg Domain.state (joins.others d (Ne.symm mine))).trans h
  · exact ((s.overtaken_joins (other d mem) id).own h).2
  · have joins := s.overtaken_joins (other e he) id
    by_cases mine : e = d
    · subst mine
      exact (joins.own h).2
    · exact (congrArg Domain.level (joins.others d (Ne.symm mine))).trans level

/-! ### The next level -/

theorem fault_openFault {r : FaultRecord} {id : Nat} (room : s.flt.records.length < 1024) (known : (s.fault id).isSome = true) :
    ((s.openFault r).1.fault id).isSome = true := by
  have full : ¬ s.flt.records.length ≥ 1024 := Nat.not_le.mpr room
  have records : ∃ q, (s.openFault r).1.flt.records = s.flt.records ++ [q] := ⟨_, by simp only [openFault, full, decide_false]; rfl⟩
  obtain ⟨q, records⟩ := records
  unfold fault at *
  rw [records, List.find?_append]
  obtain ⟨p, found⟩ := Option.isSome_iff_exists.mp known
  rw [found]
  rfl

/-- The next level opens a record and fails the one before: the domains stay as they are. -/
theorem nextLevel_spec (s : State) (level scope old d : Nat) : ∃ f, (s.nextLevel level scope old d).1.Agrees { s with flt := f } := by
  obtain ⟨f, -, agrees⟩ := levelFails_agrees (s.openFault { FaultRecord.blank with
    kind := 4, level := level, domain := scope, die := if scope < 80 then recordDie scope else 11
    origin := ((s.fault old).getD FaultRecord.blank).origin, unit := ((s.fault old).getD FaultRecord.blank).unit
    context := ((s.fault old).getD FaultRecord.blank).context, flags := ((s.fault old).getD FaultRecord.blank).flags % 2
    epochBefore := ((s.fault old).getD FaultRecord.blank).epochBefore }).1 d old
  exact ⟨_, agrees⟩

theorem nextLevel_closes {level scope old d : Nat} (room : s.flt.records.length < 1024) (known : (s.fault old).isSome = true) :
    (s.nextLevel level scope old d).1.RecordClosed old :=
  levelFails_closes (fault_openFault room known)

/-- A reset of level 2: the late domain resets at level 2, and the record of level 1 has closed. -/
theorem levelTwo_spec {d : Nat} (below : d < 78) (present : s.variant.domain d = true) (resetting : (s.dom d).state = .resetting) :
    ((s.levelTwo d).dom d).state = .resetting ∧ ((s.levelTwo d).dom d).level = 2 ∧
      (s.flt.records.length < 1024 → (s.fault (s.dom d).record).isSome = true → (s.levelTwo d).RecordClosed (s.dom d).record) := by
  let set := (escalationSet d).filter s.variant.domain
  let n := s.nextLevel 2 d (s.dom d).record d
  obtain ⟨f, agrees⟩ := s.nextLevel_spec 2 d (s.dom d).record d
  have closes (room : s.flt.records.length < 1024) (known : (s.fault (s.dom d).record).isSome = true) : n.1.RecordClosed (s.dom d).record :=
    nextLevel_closes room known
  have start : s.levelTwo d =
      match s.coveredBy d set with
      | some id => (n.1.modFault n.2 fun r => { r with flags := r.flags ||| 4, mergedInto := id, closed := true }).setDom d
          { s.dom d with level := 2, record := id, resetAt := s.supTime }
      | none => (set.foldl (fun s e => (s.overtaken e n.2).joinLevelTwo e n.2) n.1).autoDump n.2 d := rfl
  rw [start]
  split
  · rw [setDom_dom]
    refine ⟨resetting, rfl, fun room known => ?_⟩
    exact (closes room known).of_map (closing_ite (f := fun r => { r with flags := r.flags ||| 4, mergedInto := _, closed := true }) n.2
      (fun _ => rfl) fun _ => rfl) rfl
  · have mem : d ∈ set := List.mem_filter.mpr ⟨mem_escalationSet below, present⟩
    have other : ∀ e ∈ set, e ≠ 78 := fun e he => escalationSet_ne below (List.mem_filter.mp he).1
    obtain ⟨state, level, closed⟩ := levelTwo_joins (s := n.1) (id := n.2) mem other ((congrArg Domain.state (agrees.dom d)).trans resetting)
    obtain ⟨logs, kept⟩ := autoDump_logs (set.foldl (fun s e => (s.overtaken e n.2).joinLevelTwo e n.2) n.1) n.2 d
    rw [logs.dom]
    exact ⟨state, level, fun room known => (closed _ (closes room known)).of_keeps kept⟩

/-! ### The package warm reset -/

/-- What the package warm reset does with one domain. -/
def warmDomain (id : Nat) (s : State) (d : Nat) : State :=
  if (s.dom d).state = .off then s.setDom d { s.dom d with epoch := (s.dom d).epoch + 1 }
  else
    let t := (s.overtaken d id).clearDomain d
    t.setDom d { t.dom d with
      state := .resetting, powering := false, resetAt := t.supTime, ready := false, offAfter := false, level := 3, record := id, epochAcks := [] }

/-- A domain is off, or resets at level 3. -/
def WarmReset (d : Nat) (s : State) : Prop := (s.dom d).state = .off ∨ ((s.dom d).state = .resetting ∧ (s.dom d).level = 3)

theorem clearDomain_domains (s : State) (d : Nat) : (s.clearDomain d).domains = s.domains := by
  by_cases other : d = 78
  · subst other
    have supervisor : s.clearDomain 78 = ((s.testAbort fun ty t => targetDomain ty t == 78).clearEvents 78).clearSupervisor := by
      simp only [clearDomain, Nat.reduceLT, Nat.reduceEqDiff, reduceIte]
    have same (u : State) : (u.clearEvents 78).clearSupervisor.domains = u.domains := rfl
    rw [supervisor, same]
    exact (testAbort_agrees (Agrees.refl s)).domains
  · exact (clearDomain_agrees (Agrees.refl s) other).domains

theorem warmDomain_resets (id : Nat) (s : State) (d : Nat) : WarmReset d (warmDomain id s d) := by
  unfold warmDomain
  split
  next off =>
    refine .inl ?_
    rw [setDom_dom]
    exact off
  next =>
    refine .inr ?_
    dsimp only
    rw [setDom_dom]
    exact ⟨rfl, rfl⟩

theorem warmDomain_dom_ne (id : Nat) (s : State) {d e : Nat} (ne : e ≠ d) : (warmDomain id s d).dom e = s.dom e := by
  unfold warmDomain
  split
  · exact setDom_dom_ne _ _ ne
  · obtain ⟨f, -, agrees⟩ := s.overtaken_agrees d id
    refine (setDom_dom_ne _ _ ne).trans ?_
    rw [dom, clearDomain_domains]
    exact agrees.dom e

theorem warmDomain_warm (id : Nat) (s : State) {d : Nat} (other : d ≠ 78) : (warmDomain id s d).flt.warm = s.flt.warm := by
  unfold warmDomain
  split
  · rfl
  · obtain ⟨f, -, agrees⟩ := s.overtaken_agrees d id
    have cleared : ((s.overtaken d id).clearDomain d).Agrees (s.overtaken d id) := clearDomain_agrees (Agrees.refl _) other
    exact (congrArg Flt.warm cleared.flt).trans (congrArg Flt.warm agrees.flt :)

/-- The package warm reset says so, ends what runs, and then resets domain after domain. -/
theorem warmReset_eq (s : State) (id : Nat) :
    ∃ t : State, t.flt.warm = true ∧ t.variant = s.variant ∧
      s.warmReset id = (t.variant.domainList.filter (· != 78)).foldl (warmDomain id) t := by
  refine ⟨_, ?_, ?_, rfl⟩
  · rfl
  · dsimp only
    refine Eq.trans (Agrees.variant (Agrees.foldl (testAbort_agrees (updEnd_agrees (Agrees.refl _))) fun t p h => ?_)) ?_
    case refine_2 => split <;> rfl
    split
    · exact startTeardown_agrees h
    · exact startTeardown_agrees h
    · exact startTeardown_agrees h
    · exact setCtx_agrees h
    · exact h

/-- After the package warm reset every domain but the supervisor's is off or resets at level 3. -/
theorem warmReset_spec (s : State) (id : Nat) : (s.warmReset id).flt.warm = true ∧
    ∀ e, e ≠ 78 → s.variant.domain e = true → e < 80 → WarmReset e (s.warmReset id) := by
  obtain ⟨t, warm, variant, run⟩ := s.warmReset_eq id
  rw [run]
  refine ⟨?_, fun e ne present below => ?_⟩
  · refine List.foldlRecOn (motive := fun u : State => u.flt.warm = true) _ _ warm fun u h d mem => ?_
    rw [warmDomain_warm id u (by simpa using (List.mem_filter.mp mem).2)]
    exact h
  · refine foldl_establishes (P := WarmReset) (warmDomain_resets id) (fun u a b h => ?_) _ t e ?_
    · by_cases same : b = a
      · subst same
        exact warmDomain_resets id u b
      · rw [WarmReset, warmDomain_dom_ne id u same]
        exact h
    · rw [variant]
      exact List.mem_filter.mpr ⟨List.mem_filter.mpr ⟨List.mem_range.mpr below, present⟩, by simpa using ne⟩

theorem startDump_warm (s : State) (fault scope : Nat) (doms : List Nat) : (s.startDump fault scope doms).flt.warm = s.flt.warm := by
  unfold startDump
  split
  · exact congrArg Flt.warm (raiseEv_agrees (Agrees.refl s)).flt
  · rfl

theorem autoDump_warm (s : State) (fault d : Nat) : (s.autoDump fault d).flt.warm = s.flt.warm := by
  unfold autoDump
  split
  · exact startDump_warm ..
  · rfl

/-! ### The fatal report -/

theorem ptnAnswer_agrees {a i : Nat} {st : Status} {detail handle quads moved copied : Nat} (hs : s.Agrees s₀) :
    (s.ptnAnswer a i st detail handle quads moved copied).Agrees s₀ := post_agrees hs

theorem headAnswer_agrees {a : Nat} {st : Status} {detail bad us : Nat} (hs : s.Agrees s₀) :
    (s.headAnswer a st detail bad us).Agrees s₀ := post_agrees hs

theorem finishDump_logs (s : State) (b : Nat) : (s.finishDump b).Logs s := by
  unfold finishDump
  split
  · exact Logs.refl s
  · extract_lets head body bytes m dumps
    clear_value m
    have stored : Logs (({ s with
      mem := m
      flt := { s.flt with dumps := dumps, busy := (dumps.find? fun p => !p.2.ended).map (·.1) } } : State)) s :=
      ⟨rfl, rfl, fun _ _ _ set => set⟩
    exact (raiseEv_agrees (Agrees.refl _)).logs.trans stored

/-- A domain after the fatal report. -/
def fatalDomain (s : State) (d : Nat) : State :=
  s.setDom d { s.dom d with state := if d = 78 then .opened else .fatal, ready := false }

theorem fatalDomains_eq (l : List Nat) (s : State) : ∃ ds, l.foldl fatalDomain s = { s with domains := ds } := by
  refine List.foldlRecOn (motive := fun t : State => ∃ ds, t = { s with domains := ds }) l _ ⟨s.domains, rfl⟩ ?_
  rintro _ ⟨ds, rfl⟩ d _
  exact ⟨_, rfl⟩

/-- The fatal report: the pins say so, and every domain but the supervisor's is FATAL. -/
theorem fatal_spec (s : State) (old : Nat) : (s.fatal old).flt.fatal = true ∧ (s.fatal old).pins.pwrGood = false ∧
    (s.fatal old).pins.alertN = false ∧ ∀ e, e ≠ 78 → s.variant.domain e = true → e < 80 → ((s.fatal old).dom e).state = .fatal := by
  unfold fatal
  extract_lets before s1 rec o src pins s2 s3 s4 s5 s6 flt
  have h1 : s1.Agrees s := by
    unfold s1
    split
    · refine Agrees.ite (Agrees.refl s) (raiseEv_agrees (headAnswer_agrees (Agrees.foldl ?_ fun _ _ h => ptnAnswer_agrees h)))
      exact (Agrees.refl s).of_eq
    · exact Agrees.refl s
  have sent : (({ o.1 with pins := { o.1.pins with pwrGood := false } } : State).send (.fatal o.2)).Agrees
      { o.1 with pins := { o.1.pins with pwrGood := false } } := send_agrees (Agrees.refl _)
  have variant : s2.variant = s.variant := sent.variant.trans h1.variant
  have pins2 : s2.pins.pwrGood = false ∧ s2.pins.alertN = false := ⟨congrArg Pins.pwrGood sent.pins, rfl⟩
  obtain ⟨ds, h3⟩ := fatalDomains_eq s2.variant.domainList s2
  have pins3 : s3.pins = s2.pins := by
    rw [show s3 = s2.variant.domainList.foldl fatalDomain s2 from rfl, h3]
  have logs : s6.Logs s3 := by
    have dumped : s4.Logs s3 := (startDump_logs ..).1
    refine (raiseEv_agrees (Agrees.refl s5)).logs.trans (Logs.trans ?_ dumped)
    refine List.foldlRecOn (motive := fun t : State => t.Logs s4) _ _ (Logs.refl s4) fun t h p _ => ?_
    split
    · exact h
    · exact (t.finishDump_logs p.1).trans h
  have pins6 : s6.pins = s2.pins := (congrArg Agreed.pins logs.parts).trans pins3
  refine ⟨rfl, (congrArg Pins.pwrGood pins6).trans pins2.1, (congrArg Pins.alertN pins6).trans pins2.2, fun e ne present below => ?_⟩
  have dom : s6.dom e = s3.dom e := logs.dom e
  have listed : e ∈ s2.variant.domainList := by
    rw [variant]
    exact List.mem_filter.mpr ⟨List.mem_range.mpr below, present⟩
  have each := foldl_establishes (f := fatalDomain) (P := fun d s => d ≠ 78 → (s.dom d).state = .fatal)
    (fun u d other => by rw [fatalDomain, setDom_dom]; exact if_neg other)
    (fun u a b h other => by
      by_cases same : b = a
      · subst same
        rw [fatalDomain, setDom_dom]
        exact if_neg other
      · rw [fatalDomain, setDom_dom_ne _ _ same]
        exact h other) s2.variant.domainList s2 e listed ne
  exact (congrArg Domain.state dom).trans each

/-! ### Escalation -/

/-- The core that is watched after its update goes back to its previous image. -/
def backsOut (s : State) (d : Nat) : State :=
  match s.watched d with
  | some c => s.rollBack c
  | none => s

theorem backsOut_spec (s : State) (d : Nat) :
    (s.backsOut d).domains = s.domains ∧ (s.backsOut d).flt = s.flt ∧ (s.backsOut d).variant = s.variant := by
  unfold backsOut
  split
  next c _ => exact ⟨(s.rollBack_agrees c).domains, (s.rollBack_agrees c).flt, (s.rollBack_agrees c).variant⟩
  next => exact ⟨rfl, rfl, rfl⟩

theorem escalate2_of_late {d : Nat} (resetting : (s.dom d).state = .resetting) (late : (s.dom d).ready = false)
    (supplied : s.pwr.onHoldup = false) :
    s.escalate2 d =
      if (s.dom d).level = 3 ∨ ((s.dom d).level = 2 ∧ (d = 78 ∨ (s.fault (s.dom d).record).any fun r => r.domain == 78)) then
        (s.backsOut d).fatal (s.dom d).record
      else if (s.dom d).level = 2 ∨ d = 79 then
        let n := (s.backsOut d).nextLevel 3 0xFF (s.dom d).record d
        ((n.1.warmReset n.2).autoDump n.2 0xFF).raiseEv evFlt 2
      else ((s.backsOut d).levelTwo d).raiseEv evFlt 2 :=
  if_neg (by simp [resetting, late, supplied])

theorem domain_lt {v : Variant} {d : Nat} (present : v.domain d = true) : d < 80 := by
  rcases Nat.lt_or_ge d 76 with below | last
  · exact Nat.lt_of_lt_of_le below (by decide)
  · rw [Variant.domain, if_neg (by omega), if_neg (by omega), if_neg (by omega)] at present
    exact of_decide_eq_true present

end State

section
variable {s : State} {d : Nat} (live : s.flt.fatal = false) (present : s.variant.domain d = true)
  (resetting : (s.dom d).state = .resetting) (late : (s.dom d).ready = false)
include live resetting late

theorem resetEscalation_of_holdup (holdup : s.pwr.onHoldup = true) : exec (.resetEscalation d) s = .next s :=
  act_eq_next (f := (State.escalate2 · d)) live (if_pos (.inr (.inr holdup)))

variable (supplied : s.pwr.onHoldup = false)
include supplied

/-- The late reset answers the state that the level's step leaves. -/
theorem resetEscalation_next {t : State} (escalated : s.escalate2 d = t) :
    exec (.resetEscalation d) s = .next { t with pending := s.pending, variant := s.variant } := by
  subst escalated
  exact act_live s (State.escalate2 · d) live

include present in
theorem resetEscalation_of_one (one : (s.dom d).level = 1) (below : d < 78) :
    ∃ t, exec (.resetEscalation d) s = .next t ∧ (t.dom d).level = 2 ∧ (t.dom d).state = .resetting ∧
      bitAt (t.ev evFlt).value 2 = true ∧
      (s.flt.records.length < 1024 → (s.dom d).record ≠ s.flt.nextId → (s.fault (s.dom d).record).isSome = true →
        (t.fault (s.dom d).record).any (·.closed) = true) := by
  obtain ⟨domains, flt, variant⟩ := s.backsOut_spec d
  have dom : (s.backsOut d).dom d = s.dom d := by simp only [State.dom, domains]
  have escalated : s.escalate2 d = ((s.backsOut d).levelTwo d).raiseEv evFlt 2 := by
    rw [State.escalate2_of_late resetting late supplied, if_neg (by simp [one]), if_neg (by omega)]
  obtain ⟨state, level, closes⟩ := State.levelTwo_spec (s := s.backsOut d) below (by rw [variant]; exact present) (by rw [dom]; exact resetting)
  have raised : (((s.backsOut d).levelTwo d).raiseEv evFlt 2).Agrees ((s.backsOut d).levelTwo d) := State.raiseEv_agrees (State.Agrees.refl _)
  refine ⟨_, resetEscalation_next live resetting late supplied escalated, ?_, ?_, raiseEv_sets .., fun room _ known => ?_⟩
  · exact (congrArg Domain.level (raised.dom d)).trans level
  · exact (congrArg Domain.state (raised.dom d)).trans state
  · rw [dom, flt, show (s.backsOut d).fault (s.dom d).record = s.fault (s.dom d).record by simp only [State.fault, flt]] at closes
    exact (closes room known).of_flt raised.flt

theorem resetEscalation_of_two (two : (s.dom d).level = 2) (below : d < 78)
    (origin : ((s.fault (s.dom d).record).any fun r => r.domain == 78) = false) :
    ∃ t, exec (.resetEscalation d) s = .next t ∧ t.flt.warm = true ∧ bitAt (t.ev evFlt).value 2 = true ∧
      ∀ e, e ≠ 78 → s.variant.domain e = true → (t.dom e).state = .off ∨ ((t.dom e).state = .resetting ∧ (t.dom e).level = 3) := by
  obtain ⟨-, -, variant⟩ := s.backsOut_spec d
  let n := (s.backsOut d).nextLevel 3 0xFF (s.dom d).record d
  obtain ⟨f, next⟩ := (s.backsOut d).nextLevel_spec 3 0xFF (s.dom d).record d
  have escalated : s.escalate2 d = ((n.1.warmReset n.2).autoDump n.2 0xFF).raiseEv evFlt 2 := by
    have ne : d ≠ 78 := Nat.ne_of_lt below
    rw [State.escalate2_of_late resetting late supplied, if_neg (by simp [two, origin, ne]), if_pos (.inl two)]
  obtain ⟨warm, resets⟩ := n.1.warmReset_spec n.2
  have raised : (((n.1.warmReset n.2).autoDump n.2 0xFF).raiseEv evFlt 2).Agrees ((n.1.warmReset n.2).autoDump n.2 0xFF) :=
    State.raiseEv_agrees (State.Agrees.refl _)
  obtain ⟨dumped, -⟩ := (n.1.warmReset n.2).autoDump_logs n.2 0xFF
  refine ⟨_, resetEscalation_next live resetting late supplied escalated, ?_, raiseEv_sets .., fun e ne there => ?_⟩
  · exact (congrArg Flt.warm raised.flt).trans (((n.1.warmReset n.2).autoDump_warm n.2 0xFF).trans warm)
  · have dom := (raised.dom e).trans (dumped.dom e)
    have present : n.1.variant.domain e = true := by rw [next.variant, variant]; exact there
    rcases resets e ne present (State.domain_lt there) with off | reset
    · exact .inl ((congrArg Domain.state dom).trans off)
    · exact .inr ⟨(congrArg Domain.state dom).trans reset.1, (congrArg Domain.level dom).trans reset.2⟩

theorem resetEscalation_of_last (last : (s.dom d).level = 3 ∨
      ((s.dom d).level = 2 ∧ (d = 78 ∨ ((s.fault (s.dom d).record).any fun r => r.domain == 78) = true))) :
    ∃ t, exec (.resetEscalation d) s = .next t ∧ t.flt.fatal = true ∧ t.pins.pwrGood = false ∧ t.pins.alertN = false ∧
      ∀ e, e ≠ 78 → s.variant.domain e = true → (t.dom e).state = .fatal := by
  obtain ⟨-, -, variant⟩ := s.backsOut_spec d
  have escalated : s.escalate2 d = (s.backsOut d).fatal (s.dom d).record := by
    rw [State.escalate2_of_late resetting late supplied, if_pos last]
  obtain ⟨fatal, good, alert, each⟩ := (s.backsOut d).fatal_spec (s.dom d).record
  refine ⟨_, resetEscalation_next live resetting late supplied escalated, fatal, good, alert, fun e ne there => ?_⟩
  exact each e ne (by rw [variant]; exact there) (State.domain_lt there)

end

/-- Settles O34. -/
theorem lateResetsEscalate : Obligations.LateResetsEscalate := by
  intro s d live present resetting late
  exact ⟨resetEscalation_of_holdup live resetting late, resetEscalation_of_one live present resetting late,
    resetEscalation_of_two live resetting late, resetEscalation_of_last live resetting late⟩

end Sys2Proof.Machine
end

section
/-! SUPPORT. Switching domains on (R357): the ramp of one domain and of those it depends on. -/

set_option Elab.async false

namespace Sys2Proof.Machine

/-- A domain as its supply ramps up: it leaves reset, under the next epoch, and waits for the acknowledgements. -/
def Domain.ramping (x : Domain) (mv : Nat) : Domain :=
  { x.left with
    power := .ramp, railMv := mv, state := .resetting, ready := true, powering := true, epochAcks := [], record := 0, level := 0 }

namespace State

variable {s t : State}

/-- What switching a domain on may change beside the domains. -/
def Ramps (t s : State) : Prop :=
  ∃ ds cs h ms p qs n l es o, t = { s with
    domains := ds, cores := cs, hbm := h, ctl := ms, plk := p, quads := qs, free := n, delivered := l, events := es, out := o }

theorem Ramps.refl (s : State) : s.Ramps s := ⟨_, _, _, _, _, _, _, _, _, _, rfl⟩

theorem Ramps.trans {u : State} (h : u.Ramps t) (h' : t.Ramps s) : u.Ramps s := by
  obtain ⟨_, _, _, _, _, _, _, _, _, _, rfl⟩ := h'
  obtain ⟨_, _, _, _, _, _, _, _, _, _, rfl⟩ := h
  exact ⟨_, _, _, _, _, _, _, _, _, _, rfl⟩

theorem Ramps.variant (h : t.Ramps s) : t.variant = s.variant := by
  obtain ⟨_, _, _, _, _, _, _, _, _, _, rfl⟩ := h
  rfl

theorem retirePc_eq (s : State) (g : Nat) : ∃ h es p o, s.retirePc g = { s with hbm := h, events := es, plk := p, out := o } := by
  unfold retirePc
  extract_lets x
  split
  · exact ⟨_, _, _, _, rfl⟩
  · exact ⟨_, _, _, _, raiseEv_eq ..⟩

/-- Training a stack retires the pseudo-channels that fail. -/
theorem trainStack_eq (s : State) (k : Nat) : ∃ h es p o n, s.trainStack k = { s with hbm := h, events := es, plk := p, out := o, free := n } := by
  unfold trainStack
  extract_lets s1
  have retired : ∃ h es p o, s1 = { s with hbm := h, events := es, plk := p, out := o } := by
    refine List.foldlRecOn (motive := fun t : State => ∃ h es p o, t = { s with hbm := h, events := es, plk := p, out := o }) _ _
      ⟨s.hbm, s.events, s.plk, s.out, rfl⟩ ?_
    rintro _ ⟨h, es, p, o, rfl⟩ g _
    obtain ⟨h', es', p', o', retired⟩ := State.retirePc_eq { s with hbm := h, events := es, plk := p, out := o } g
    rw [retired]
    exact ⟨_, _, _, _, rfl⟩
  obtain ⟨h, es, p, o, retired⟩ := retired
  rw [retired]
  exact ⟨_, _, _, _, _, rfl⟩

theorem railOf_eq (s : State) (d : Nat) : ∃ n, (s.railOf d).2 = { s with free := n } := by
  unfold railOf
  split_ifs <;> exact ⟨_, rfl⟩

/-- A present domain without supply ramps up. -/
theorem powerStart_of_off {d : Nat} (present : s.variant.domain d = true) (off : (s.dom d).power = .off) :
    ∃ mv u, u.Ramps s ∧ s.powerStart d = u ∧ u.domains = tput s.domains d ((s.dom d).ramping mv) ∧
      u.ctl = s.ctl ++ [.epoch d ((s.dom d).epoch + 1)] := by
  obtain ⟨n, rail⟩ := s.railOf_eq d
  obtain ⟨cs, h, q, p, l, left, -⟩ := (s.railOf d).2.leaveReset_eq d
  let s1 := (s.railOf d).2.leaveReset d
  let s2 := if 56 ≤ d ∧ d < 72 then s1.trainStack (d - 56) else s1
  have trained : ∃ h es p o n, s2 = { s1 with hbm := h, events := es, plk := p, out := o, free := n } := by
    unfold s2
    split
    · exact trainStack_eq ..
    · exact ⟨_, _, _, _, _, rfl⟩
  obtain ⟨h', es, p', o, n', trained⟩ := trained
  have frame : s2 = { s with
      domains := tput s.domains d (s.dom d).left, cores := cs, hbm := h', quads := q, plk := p', delivered := l, events := es, out := o
      free := n' } := by
    rw [trained, show s1 = _ from left, rail]
    rfl
  have own : s2.dom d = (s.dom d).left := by
    rw [frame]
    exact tgetD_tput_same ..
  have start : s.powerStart d =
      (s2.setDom d { s2.dom d with
        power := .ramp, railMv := (s.railOf d).1, state := .resetting, ready := true, powering := true, epochAcks := [], record := 0
        level := 0 }).sendCtl (.epoch d (s2.dom d).epoch) := if_neg (by simp [present, off])
  refine ⟨(s.railOf d).1, _, ?_, start, ?_, ?_⟩
  · rw [frame]
    exact ⟨_, _, _, _, _, _, _, _, _, _, rfl⟩
  · rw [own, frame]
    exact tput_tput ..
  · rw [own, frame]
    rfl

theorem powerStart_of_on {d : Nat} (on : (s.dom d).power ≠ .off) : s.powerStart d = s := if_pos (.inr on)

theorem powerStart_ramps (s : State) (d : Nat) :
    (s.powerStart d).Ramps s ∧ (∀ e, e ≠ d → (s.powerStart d).dom e = s.dom e) ∧ ∀ m ∈ s.ctl, m ∈ (s.powerStart d).ctl := by
  by_cases start : s.variant.domain d = true ∧ (s.dom d).power = .off
  · obtain ⟨mv, u, ramps, started, domains, ctl⟩ := powerStart_of_off start.1 start.2
    rw [started]
    refine ⟨ramps, fun e ne => ?_, fun m sent => ?_⟩
    · rw [dom, domains]
      exact setDom_dom_ne s _ ne
    · rw [ctl]
      exact List.mem_append_left _ sent
  · have same : s.powerStart d = s := if_pos (by simpa [Decidable.imp_iff_not_or] using start)
    rw [same]
    exact ⟨Ramps.refl s, fun _ _ => rfl, fun _ sent => sent⟩

/-- A domain ramps up from what it was, and has sent its epoch notice. -/
def Ramped (t s : State) (d : Nat) : Prop :=
  (∃ mv, t.dom d = (s.dom d).ramping mv) ∧ .epoch d ((s.dom d).epoch + 1) ∈ t.ctl

section
variable {e : Nat} (h : t.Ramps s)

/-- A domain that ramps up stays so: its supply is not off any longer. -/
theorem Ramped.powerStart (ramped : t.Ramped s e) (a : Nat) : (t.powerStart a).Ramped s e := by
  obtain ⟨⟨mv, own⟩, sent⟩ := ramped
  by_cases mine : e = a
  · subst mine
    rw [powerStart_of_on (by rw [own]; exact nofun)]
    exact ⟨⟨mv, own⟩, sent⟩
  · obtain ⟨-, others, kept⟩ := t.powerStart_ramps a
    exact ⟨⟨mv, (others e mine).trans own⟩, kept _ sent⟩

include h in
theorem ramped_powerStart (present : s.variant.domain e = true) (off : (s.dom e).power = .off) (before : t.dom e = s.dom e) :
    (t.powerStart e).Ramped s e := by
  obtain ⟨mv, u, -, started, domains, ctl⟩ := powerStart_of_off (s := t) (d := e) (by rw [h.variant]; exact present) (by rw [before]; exact off)
  rw [started, Ramped, dom, domains, ctl, before]
  exact ⟨⟨mv, tgetD_tput_same ..⟩, List.mem_append_right _ (List.mem_singleton.mpr rfl)⟩

end

/-- Of the domains of a list those ramp up that are present and off. -/
theorem powerStarts_ramps (l : List Nat) (s : State) : (l.foldl powerStart s).Ramps s ∧
    (∀ e, e ∉ l ∨ (s.dom e).power ≠ .off → (l.foldl powerStart s).dom e = s.dom e) ∧
    (∀ e ∈ l, s.variant.domain e = true → (s.dom e).power = .off → (l.foldl powerStart s).Ramped s e) := by
  have ramps : (l.foldl powerStart s).Ramps s :=
    List.foldlRecOn (motive := fun t : State => t.Ramps s) l powerStart (Ramps.refl s) fun t h d _ => (t.powerStart_ramps d).1.trans h
  refine ⟨ramps, fun e apart => ?_, fun e listed present off => ?_⟩
  · refine List.foldlRecOn (motive := fun t : State => t.dom e = s.dom e) l powerStart rfl fun t same d mem => ?_
    by_cases mine : e = d
    · subst mine
      have on : (s.dom e).power ≠ .off := apart.resolve_left fun out => out mem
      rw [powerStart_of_on (by rw [same]; exact on)]
      exact same
    · exact ((t.powerStart_ramps d).2.1 e mine).trans same
  · refine (foldl_reaches (I := fun t => t.Ramps s ∧ (t.dom e = s.dom e ∨ t.Ramped s e)) (Q := fun t => t.Ramped s e)
      (fun t a _ h => ⟨(t.powerStart_ramps a).1.trans h.1, ?_⟩) (fun t h => ?_) (fun t a _ _ ramped => ramped.powerStart a) listed
      ⟨Ramps.refl s, .inl rfl⟩).2
    · rcases h.2 with before | ramped
      · by_cases mine : e = a
        · subst mine
          exact .inr (ramped_powerStart h.1 present off before)
        · exact .inl (((t.powerStart_ramps a).2.1 e mine).trans before)
      · exact .inr (ramped.powerStart a)
    · exact h.2.elim (ramped_powerStart h.1 present off) (·.powerStart e)

end State

section
variable {s : State} {d : Nat} (live : s.flt.fatal = false)
include live

/-! ### Requests -/

theorem domainPower_of_busy (known : d < 80) (busy : s.pwr.reqBusy = true) :
    (∃ t, exec (.domainPowerOn d) s = .next t ∧ t = { s with pwr := { s.pwr with reqStatus := .retryLater } }) ∧
      (∃ t, exec (.domainPowerOff d) s = .next t ∧ t = { s with pwr := { s.pwr with reqStatus := .retryLater } }) := by
  have on : s.domOn d = { s with pwr := { s.pwr with reqStatus := .retryLater } } := by
    rw [State.domOn, if_neg (Nat.not_le.mpr known), if_pos busy]
  have off : s.domOff d = { s with pwr := { s.pwr with reqStatus := .retryLater } } := by
    rw [State.domOff, if_neg (Nat.not_le.mpr known), if_pos busy]
  exact ⟨⟨_, act_eq_next (f := (State.domOn · d)) live on, rfl⟩, ⟨_, act_eq_next (f := (State.domOff · d)) live off, rfl⟩⟩

section
variable (known : d < 80) (free : s.pwr.reqBusy = false) (present : s.variant.domain d = true)
include known free present

theorem domainPowerOn_of_recovering (recovering : (s.dom d).state = .fenced ∨ (s.dom d).state = .resetting) :
    exec (.domainPowerOn d) s = .next { s with pwr := { s.pwr with reqDomain := d, reqBusy := false, reqStatus := .retryLater } } := by
  refine act_eq_next (f := (State.domOn · d)) live ?_
  have refused : s.domRefused d = some .retryLater := by
    rw [State.domRefused, if_neg (by simp [present]), if_pos recovering]
  rw [State.domOn, if_neg (Nat.not_le.mpr known), if_neg (by simp [free]), refused]
  rfl

variable (notFenced : (s.dom d).state ≠ .fenced) (notResetting : (s.dom d).state ≠ .resetting)
include notFenced notResetting

omit live known free in
theorem domRefused_of_settled : s.domRefused d = none := by
  rw [State.domRefused, if_neg (by simp [present]), if_neg (by simp [notFenced, notResetting])]

omit live in
theorem domOn_eq : s.domOn d =
    if s.stackLeftOff d then s.domResult d false .refusedInfeasible
    else if (s.dom d).power ≠ .off then s.domResult d false .ok
    else ((s.groupReturns d).switchOn d).domResult d true .ok := by
  rw [State.domOn, if_neg (Nat.not_le.mpr known), if_neg (by simp [free]), domRefused_of_settled present notFenced notResetting]

theorem domainPowerOn_of_leftOff (left : s.stackLeftOff d = true) :
    exec (.domainPowerOn d) s = .next { s with pwr := { s.pwr with reqDomain := d, reqBusy := false, reqStatus := .refusedInfeasible } } :=
  act_eq_next (f := (State.domOn · d)) live ((domOn_eq known free present notFenced notResetting).trans (if_pos left))

variable (stays : s.stackLeftOff d = false)
include stays

theorem domainPowerOn_of_on (on : (s.dom d).power ≠ .off) :
    exec (.domainPowerOn d) s = .next { s with pwr := { s.pwr with reqDomain := d, reqBusy := false, reqStatus := .ok } } := by
  refine act_eq_next (f := (State.domOn · d)) live ((domOn_eq known free present notFenced notResetting).trans ?_)
  rw [if_neg (by simp [stays]), if_pos on]
  rfl

theorem domainPowerOn_of_off (off : (s.dom d).power = .off) :
    ∃ t, exec (.domainPowerOn d) s = .next t ∧
      (∀ e ∈ powerDeps d ++ [d], s.variant.domain e = true → (s.dom e).power = .off →
        (t.dom e).power = .ramp ∧ (t.dom e).state = .resetting ∧ (t.dom e).ready = true ∧ (t.dom e).powering = true ∧
        (t.dom e).epoch = (s.dom e).epoch + 1 ∧ (t.dom e).time = 0 ∧ .epoch e ((s.dom e).epoch + 1) ∈ t.ctl) ∧
      t.pwr.reqDomain = d ∧ t.pwr.reqBusy = true ∧
      (∀ e, e ∉ powerDeps d ++ [d] ∨ (s.dom e).power ≠ .off → t.dom e = s.dom e) ∧
      t = { s with
        groups := t.groups, domains := t.domains, cores := t.cores, hbm := t.hbm, ctl := t.ctl, pwr := t.pwr, plk := t.plk,
        quads := t.quads, free := t.free, delivered := t.delivered, events := t.events, out := t.out } := by
  have returned : ∃ gs, s.groupReturns d = { s with groups := gs } := by
    unfold State.groupReturns
    split
    · exact ⟨_, rfl⟩
    · exact ⟨s.groups, rfl⟩
  obtain ⟨gs, returned⟩ := returned
  obtain ⟨frame, others, ramped⟩ := State.powerStarts_ramps (powerDeps d ++ [d]) { s with groups := gs }
  have started : s.domOn d = (((powerDeps d ++ [d]).foldl State.powerStart { s with groups := gs }).domResult d true .ok) := by
    rw [domOn_eq known free present notFenced notResetting, if_neg (by simp [stays]), if_neg (by simp [off]), returned]
    rfl
  obtain ⟨ds, cs, h, ms, p, qs, n, l, es, o, frame⟩ := frame
  refine ⟨_, act_eq_next (f := (State.domOn · d)) live started (by rw [frame]; rfl) (by rw [frame]; rfl), fun e mem there was => ?_, rfl, rfl, others, ?_⟩
  · obtain ⟨⟨mv, own⟩, sent⟩ := ramped e mem there was
    have own' : (((powerDeps d ++ [d]).foldl State.powerStart { s with groups := gs }).domResult d true .ok).dom e = (s.dom e).ramping mv := own
    rw [own']
    exact ⟨rfl, rfl, rfl, rfl, rfl, rfl, sent⟩
  · rw [frame]
    rfl

end

/-! ### The end of a ramp -/

section
variable (resetting : (s.dom d).state = .resetting) (ready : (s.dom d).ready = true) (powering : (s.dom d).powering = true)
include resetting ready powering

theorem fenceLift_of_dependence (closed : ∃ e ∈ powerDeps d, s.isOpen e = false) : exec (.fenceLift d) s = .next s := by
  obtain ⟨e, dep, shut⟩ := closed
  have waits : ((powerDeps d).all fun e => s.isOpen e) = false := List.all_eq_false.mpr ⟨e, dep, by simp [shut]⟩
  exact act_eq_next (f := (State.fenceLift · d)) live (if_pos (.inr (.inr (.inr ⟨powering, waits⟩))))

theorem fenceLift_of_powering (acked : ∀ n, n < 12 → s.variant.die n = true → n ∈ (s.dom d).epochAcks)
    (opened : ∀ e ∈ powerDeps d, s.isOpen e = true) :
    ∃ t, exec (.fenceLift d) s = .next t ∧ t.isOpen d = true ∧ (t.dom d).power = .on ∧ (t.dom d).powering = false ∧
      .clear d ∈ t.ctl ∧ (s.pwr.reqDomain = d → s.pwr.reqBusy = true → t.pwr.reqBusy = false ∧ t.pwr.reqStatus = .ok) ∧
      (∀ e, e ≠ d → t.dom e = s.dom e) := by
  let x : Domain := { s.dom d with
    state := .opened, ready := false, level := 0, requested := false, powering := false, power := .on, resets := (s.dom d).resets }
  let s1 := (s.setDom d x).sendCtl (.clear d)
  let s2 := if s1.pwr.reqDomain = d ∧ s1.pwr.reqBusy = true then
    { s1 with pwr := { s1.pwr with reqBusy := false, reqStatus := .ok } } else s1
  have acks : (((List.range 12).filter s.variant.die).all fun n => (s.dom d).epochAcks.contains n) = true := by
    refine List.all_eq_true.mpr fun n listed => ?_
    obtain ⟨short, there⟩ := List.mem_filter.mp listed
    simpa using acked n (List.mem_range.mp short) there
  have deps : ((powerDeps d).all fun e => s.isOpen e) = true := List.all_eq_true.mpr opened
  have go : ¬ ((s.dom d).state ≠ .resetting ∨ (s.dom d).ready = false ∨
      (((List.range 12).filter s.variant.die).all fun n => (s.dom d).epochAcks.contains n) = false ∨
      ((s.dom d).powering = true ∧ ((powerDeps d).all fun e => s.isOpen e) = false)) := by
    simp only [resetting, ready, acks, deps]
    simp
  have lifted : s.fenceLift d = s2.reopened d := by
    rw [State.fenceLift, if_neg go, powering]
    rfl
  have request : ∃ p, s2 = { s1 with pwr := p } ∧
      (s.pwr.reqDomain = d → s.pwr.reqBusy = true → p.reqBusy = false ∧ p.reqStatus = .ok) := by
    unfold s2
    split
    · exact ⟨_, rfl, fun _ _ => ⟨rfl, rfl⟩⟩
    next other => exact ⟨s1.pwr, rfl, fun mine busy => absurd ⟨mine, busy⟩ other⟩
  obtain ⟨p, request, answered⟩ := request
  obtain ⟨c, kept, agrees⟩ := s2.reopened_agrees d
  have dom (e : Nat) : (s2.reopened d).dom e = s1.dom e := (agrees.dom e).trans (by rw [request]; rfl)
  have own : (s2.reopened d).dom d = x := (dom d).trans (State.setDom_dom ..)
  have pwr : (s2.reopened d).pwr = p := agrees.pwr.trans (by rw [request])
  refine ⟨_, act_eq_next (f := (State.fenceLift · d)) live lifted (agrees.pending.trans (by rw [request]; rfl))
    (agrees.variant.trans (by rw [request]; rfl)), beq_iff_eq.mpr (congrArg Domain.state own), ?_, ?_, ?_, ?_,
    fun e ne => (dom e).trans (State.setDom_dom_ne _ _ ne)⟩
  · rw [own]
  · rw [own]
  · rw [agrees.ctl]
    refine kept _ ?_
    rw [request]
    exact List.mem_append_right _ (List.mem_singleton.mpr rfl)
  · rw [pwr]
    exact answered

end

/-! ### Switching off -/

/-- A domain's fence for its switch-off, under a record of kind 8 that is the latest. -/
def FencedOff (t s : State) (d : Nat) : Prop :=
  (t.dom d).state = .fenced ∧ (t.dom d).offAfter = true ∧ .fence d ∈ t.ctl ∧
    (t.flt.records.getLast?.any fun r => r.kind == 8 && r.domain == d && r.ident == (t.dom d).record && !r.closed) = true ∧
    ∀ e, e ≠ d → t.dom e = s.dom e

omit live in
theorem fencedOff_fenceOff (other : d ≠ 78) : FencedOff (s.fenceOff d) s d ∧ (s.fenceOff d).pwr = s.pwr ∧
    (s.fenceOff d).pending = s.pending ∧ (s.fenceOff d).variant = s.variant := by
  have h := State.recovers_recover other s { FaultRecord.blank with kind := 8 } true
  refine ⟨⟨h.fenced, h.offAfter, h.noticed, ?_, h.others⟩, h.pwr, h.pending, h.variant⟩
  have last : (s.fenceOff d).flt.records.getLast? = some (s.recoveryRecord { FaultRecord.blank with kind := 8 } d) := h.last rfl
  have number : ((s.fenceOff d).dom d).record = s.flt.nextId := h.numbered
  rw [last, number]
  simp [State.recoveryRecord, FaultRecord.blank]

section
variable (other : d ≠ 78) (present : s.variant.domain d = true) (opened : (s.dom d).state = .opened) (on : (s.dom d).power = .on)
include other present opened on

omit live other in
theorem domOff_eq (free : s.pwr.reqBusy = false) : s.domOff d =
    if s.domainHeld d then s.domResult d false .refusedInfeasible else (s.fenceOff d).domResult d true .ok := by
  have refused : s.domRefused d = none := domRefused_of_settled present (by simp [opened]) (by simp [opened])
  rw [State.domOff, if_neg (Nat.not_le.mpr (State.domain_lt present)), if_neg (by simp [free]), refused]
  dsimp only
  rw [if_neg (c := (s.dom d).power = .off) (by simp [on])]

theorem domainPowerOff_of_held (free : s.pwr.reqBusy = false) (held : s.domainHeld d = true) :
    ∃ t, exec (.domainPowerOff d) s = .next t ∧
      t = { s with pwr := { s.pwr with reqDomain := d, reqBusy := false, reqStatus := .refusedInfeasible } } :=
  ⟨_, act_eq_next (f := (State.domOff · d)) live ((domOff_eq present opened on free).trans (if_pos held)), rfl⟩

theorem domainPowerOff_fences (free : s.pwr.reqBusy = false) (apart : s.domainHeld d = false) :
    ∃ t, exec (.domainPowerOff d) s = .next t ∧ FencedOff t s d ∧ t.pwr.reqDomain = d ∧ t.pwr.reqBusy = true := by
  obtain ⟨fenced, -, pending, variant⟩ := fencedOff_fenceOff (s := s) other
  have off : s.domOff d = (s.fenceOff d).domResult d true .ok := (domOff_eq present opened on free).trans (if_neg (by simp [apart]))
  exact ⟨_, act_eq_next (f := (State.domOff · d)) live off pending variant, fenced, rfl, rfl⟩

theorem autoOffTimer_fences (switchable : d < 56 ∧ d % 7 < 4 ∨ 56 ≤ d ∧ d < 72) (auto : s.pwr.autoOff = true)
    (apart : s.domainHeld d = false) : ∃ t, exec (.autoOffTimer d) s = .next t ∧ FencedOff t s d ∧ t.pwr = s.pwr := by
  obtain ⟨fenced, pwr, pending, variant⟩ := fencedOff_fenceOff (s := s) other
  have off : s.autoOff d = s.fenceOff d := if_pos ⟨auto, present, switchable, opened, by simp [on], apart⟩
  exact ⟨_, act_eq_next (f := (State.autoOff · d)) live off pending variant, fenced, pwr⟩

end

theorem autoOffTimer_of_disabled (manual : s.pwr.autoOff = false) : ∃ t, exec (.autoOffTimer d) s = .next t ∧ t = s :=
  ⟨s, act_eq_next (f := (State.autoOff · d)) live (if_neg (by simp [manual])), rfl⟩

end

/-- Settles O24. -/
theorem domainsSwitch : Obligations.DomainsSwitch := by
  refine ⟨fun s d live known busy => domainPower_of_busy live known busy, fun s d live known free present => ?_,
    fun s d live _ resetting ready powering acked => ?_, fun s d live below kind present opened on => ?_⟩
  · exact ⟨domainPowerOn_of_recovering live known free present, fun notFenced notResetting =>
      ⟨domainPowerOn_of_leftOff live known free present notFenced notResetting,
        domainPowerOn_of_on live known free present notFenced notResetting,
        domainPowerOn_of_off live known free present notFenced notResetting⟩⟩
  · exact ⟨fenceLift_of_powering live resetting ready powering acked, fenceLift_of_dependence live resetting ready powering⟩
  · have other : d ≠ 78 := by omega
    exact ⟨domainPowerOff_of_held live other present opened on, domainPowerOff_fences live other present opened on,
      autoOffTimer_fences live other present opened on (by omega), autoOffTimer_of_disabled live⟩

end Sys2Proof.Machine
end

section
/-! SUPPORT. Thermal trips and the restart after them (R363). -/

set_option Elab.async false

namespace Sys2Proof.Machine

theorem groups_le (v : Variant) : v.groups ≤ 8 := by
  cases v <;> decide

/-- The domains of a present group are the group's own. -/
theorem domain_of_group {v : Variant} {g m : Nat} (group : v.group g = true) (short : m < 7) :
    7 * g + m < 56 ∧ v.domain (7 * g + m) = true := by
  have below : g < v.groups := of_decide_eq_true group
  have few := groups_le v
  have lt : 7 * g + m < 56 := by omega
  have own : (7 * g + m) / 7 = g := by omega
  exact ⟨lt, by rw [Variant.domain, if_pos lt, own]; exact group⟩

/-- A domain that a trip has fenced, to be switched off. -/
def TripFenced (s : State) (d : Nat) : Prop := (s.dom d).state = .fenced ∧ (s.dom d).offAfter = true

namespace State

variable {s : State} {d : Nat}

/-- What a trip does to one domain: its groups and the other domains stay. -/
theorem tripDom_keeps (other : d ≠ 78) (s : State) : (s.tripDom d).groups = s.groups ∧ ∀ e, e ≠ d → (s.tripDom d).dom e = s.dom e := by
  unfold tripDom
  extract_lets x
  split
  · split
    · exact ⟨rfl, fun _ _ => rfl⟩
    · have h := recovers_recover other s { FaultRecord.blank with kind := 8 } true
      exact ⟨h.groups, h.others⟩
  · exact ⟨rfl, fun _ ne => setDom_dom_ne _ _ ne⟩
  · obtain ⟨f, -, agrees⟩ := s.overtaken_agrees d 0
    have lost := losePower_agrees other (s.overtaken d 0)
    exact ⟨lost.groups.trans agrees.groups, fun e ne => (lost.dom e).trans ((setDom_dom_ne _ _ ne).trans (agrees.dom e))⟩
  · exact ⟨rfl, fun _ _ => rfl⟩

theorem tripDom_fences (other : d ≠ 78) (on : (s.dom d).power ≠ .off) (opened : (s.dom d).state = .opened) : TripFenced (s.tripDom d) d := by
  have h := recovers_recover other s { FaultRecord.blank with kind := 8 } true
  have fenced : s.tripDom d = s.fenceOff d := by
    unfold tripDom
    simp only [opened, if_neg on]
  rw [fenced]
  exact ⟨h.fenced, h.offAfter⟩

theorem tripDom_of_fenced (fenced : (s.dom d).state = .fenced) : TripFenced (s.tripDom d) d := by
  have left : s.tripDom d = s.setDom d { s.dom d with offAfter := true } := by
    unfold tripDom
    simp only [fenced]
  rw [left, TripFenced, setDom_dom]
  exact ⟨fenced, rfl⟩

/-- The trip's run over a group fences its open domains, and leaves the groups. -/
theorem tripDoms_fence {g : Nat} (group : s.variant.group g = true) :
    let t := (List.range 7).foldl (fun (s : State) m => s.tripDom (7 * g + m)) s
    t.groups = s.groups ∧ ∀ m, m < 7 → (s.dom (7 * g + m)).power ≠ .off → (s.dom (7 * g + m)).state = .opened →
      TripFenced t (7 * g + m) := by
  have other (m : Nat) (mem : m ∈ List.range 7) : 7 * g + m ≠ 78 := by
    have := (domain_of_group group (List.mem_range.mp mem)).1
    omega
  refine ⟨?_, fun m short on opened => ?_⟩
  · exact List.foldlRecOn (motive := fun t : State => t.groups = s.groups) (List.range 7) _ rfl
      fun t h m mem => (tripDom_keeps (other m mem) t).1.trans h
  · have fences (t : State) (h : t.dom (7 * g + m) = s.dom (7 * g + m) ∨ TripFenced t (7 * g + m)) :
        TripFenced (t.tripDom (7 * g + m)) (7 * g + m) := by
      rcases h with before | fenced
      · exact tripDom_fences (other m (List.mem_range.mpr short)) (by rw [before]; exact on) (by rw [before]; exact opened)
      · exact tripDom_of_fenced fenced.1
    refine (foldl_reaches (I := fun t => t.dom (7 * g + m) = s.dom (7 * g + m) ∨ TripFenced t (7 * g + m))
      (Q := fun t => TripFenced t (7 * g + m)) (d := m) (fun t a mem h => ?_) fences (fun t a mem _ h => ?_)
      (List.mem_range.mpr short) (.inl rfl)).2
    · by_cases mine : m = a
      · subst mine
        exact .inr (fences t h)
      · have same := (tripDom_keeps (other a mem) t).2 (7 * g + m) (by omega)
        rw [TripFenced, same]
        exact h
    · by_cases mine : m = a
      · subst mine
        exact fences t (.inr h)
      · have same := (tripDom_keeps (other a mem) t).2 (7 * g + m) (by omega)
        rw [TripFenced, same]
        exact h

end State

section
variable {s : State} {g : Nat} (live : s.flt.fatal = false) (group : s.variant.group g = true) 
include live

include group in
theorem thermalTrip_next (clear : (s.group g).tripped = false)
    (powered : ∃ m, m < 7 ∧ (s.dom (7 * g + m)).power ≠ .off ∧ (s.dom (7 * g + m)).state = .opened) :
    ∃ t, exec (.thermalTrip g) s = .next t ∧ (t.group g).tripped = true ∧ (t.group g).ceil = 0 ∧
      (t.group g).lastTrip = some s.supTime ∧
      (t.group g).left = ((s.group g).lastTrip.any fun t0 => decide ((s.supTime - t0).toNat ≤ 3600000000000)) ∧
      ∀ m, m < 7 → (s.dom (7 * g + m)).power ≠ .off → (s.dom (7 * g + m)).state = .opened →
        (t.dom (7 * g + m)).state = .fenced ∧ (t.dom (7 * g + m)).offAfter = true := by
  let again := (s.group g).lastTrip.any fun t => decide ((s.supTime - t).toNat ≤ 3600000000000)
  let s1 := s.setGroup g { s.group g with tripped := true, left := again, lastTrip := some s.supTime, hot := true }
  let s2 := s1.lowerCeil g 0
  let s3 := (List.range 7).foldl (fun (s : State) m => s.tripDom (7 * g + m)) s2
  have some : ¬ ((List.range 7).all fun m => (s.dom (7 * g + m)).power == .off) = true := by
    obtain ⟨m, short, on, -⟩ := powered
    exact fun all => on (beq_iff_eq.mp (List.all_eq_true.mp all m (List.mem_range.mpr short)))
  have tripped : s.trip g = (s3.tripDone (7 * g)).evaluate := if_neg (by simp only [group, clear, some]; simp)
  have lowers : Lowers s1 s2 := s1.lowers_lowerCeil g 0
  obtain ⟨gs, es, p, o, frame⟩ := lowers.frame
  have domains : s2.domains = s.domains := by rw [frame]; rfl
  obtain ⟨groups, fenced⟩ : s3.groups = s2.groups ∧ ∀ m, m < 7 → (s2.dom (7 * g + m)).power ≠ .off →
    (s2.dom (7 * g + m)).state = .opened → TripFenced s3 (7 * g + m) := State.tripDoms_fence (by rw [lowers.variant]; exact group)
  clear_value s3
  obtain ⟨pins, done⟩ := s3.tripDone_agrees (7 * g)
  have evaluates := State.evaluates_evaluate (s3.tripDone (7 * g))
  have before : (s3.tripDone (7 * g)).group g = s2.group g := by
    simp only [State.group, done.groups.trans groups]
  have ceil : (s2.group g).ceil = 0 := (s1.lowerCeil_ceil g 0).trans (Nat.min_eq_right (Nat.zero_le _))
  refine ⟨_, act_live s (State.trip · g) live, ?_⟩
  rw [tripped]
  generalize (s3.tripDone (7 * g)).evaluate = t at evaluates
  refine ⟨?_, ?_, ?_, ?_, fun m short on opened => ?_⟩
  · refine (evaluates.of_rest Group.tripped (g := g)).trans ?_
    rw [before, lowers.of_others Group.tripped, State.setGroup_group]
  · exact (evaluates.ceil g).trans (by rw [before]; exact ceil)
  · refine (evaluates.of_rest Group.lastTrip (g := g)).trans ?_
    rw [before, lowers.of_others Group.lastTrip, State.setGroup_group]
  · refine (evaluates.of_rest Group.left (g := g)).trans ?_
    rw [before, lowers.of_others Group.left, State.setGroup_group]
  · have own : s2.dom (7 * g + m) = s.dom (7 * g + m) := by simp only [State.dom, domains]
    obtain ⟨gs', es', p', o', eval⟩ := evaluates.frame
    have dom : t.dom (7 * g + m) = s3.dom (7 * g + m) :=
      Eq.trans (by rw [eval]; rfl) (done.dom (7 * g + m))
    have fence := fenced m short (by rw [own]; exact on) (by rw [own]; exact opened)
    exact ⟨(congrArg Domain.state dom).trans fence.1, (congrArg Domain.offAfter dom).trans fence.2⟩

include group in
theorem tripRestart_next (tripped : (s.group g).tripped = true) (stays : (s.group g).left = false) (cool : s.pwr.inlet < s.pwr.inletMax)
    (off : ∀ m, m < 7 → (s.dom (7 * g + m)).power = .off) :
    ∃ t, exec (.tripRestart g) s = .next t ∧ (t.group g).tripped = false ∧ (t.group g).ceil = 0 ∧
      ∀ m, m < 7 → (t.dom (7 * g + m)).power = .ramp ∧ (t.dom (7 * g + m)).state = .resetting ∧
        (t.dom (7 * g + m)).powering = true ∧ (t.dom (7 * g + m)).epoch = (s.dom (7 * g + m)).epoch + 1 := by
  let order := [6, 5, 4, 0, 1, 2, 3].map (7 * g + ·)
  let s1 := s.setGroup g { s.group g with tripped := false, ceil := 0 }
  let s2 := order.foldl State.powerStart s1
  have all : ((List.range 7).all fun m => (s.dom (7 * g + m)).power == .off) = true :=
    List.all_eq_true.mpr fun m mem => beq_iff_eq.mpr (off m (List.mem_range.mp mem))
  have restarted : s.tripRestart g = s2.evaluate := if_pos ⟨group, tripped, stays, cool, all⟩
  obtain ⟨frame, -, ramped⟩ := State.powerStarts_ramps order s1
  have evaluates := State.evaluates_evaluate s2
  have before : s2.group g = { s.group g with tripped := false, ceil := 0 } := by
    obtain ⟨ds, cs, h, ms, p, qs, n, l, es, o, frame⟩ := frame
    rw [show s2 = _ from frame]
    exact State.setGroup_group ..
  refine ⟨_, act_live s (State.tripRestart · g) live, ?_⟩
  rw [restarted]
  generalize s2.evaluate = t at evaluates
  refine ⟨?_, ?_, fun m short => ?_⟩
  · refine (evaluates.of_rest Group.tripped (g := g)).trans ?_
    rw [before]
  · exact (evaluates.ceil g).trans (by rw [before])
  · obtain ⟨gs', es', p', o', eval⟩ := evaluates.frame
    have listed : 7 * g + m ∈ order := by
      refine List.mem_map.mpr ⟨m, ?_, rfl⟩
      interval_cases m <;> decide
    obtain ⟨⟨mv, own⟩, -⟩ := ramped (7 * g + m) listed (domain_of_group group short).2 (off m short)
    have dom : t.dom (7 * g + m) = (s.dom (7 * g + m)).ramping mv := Eq.trans (by rw [eval]; rfl) own
    exact ⟨congrArg Domain.power dom, congrArg Domain.state dom, congrArg Domain.powering dom, congrArg Domain.epoch dom⟩

theorem tripRestart_of_hot (hot : s.pwr.inletMax ≤ s.pwr.inlet) : ∃ t, exec (.tripRestart g) s = .next t ∧ t = s :=
  ⟨s, act_eq_next (f := (State.tripRestart · g)) live (if_neg fun h => Nat.not_lt.mpr hot h.2.2.2.1), rfl⟩

end

/-- Settles O27. -/
theorem groupsTripAndRestart : Obligations.GroupsTripAndRestart := fun _ _ live group =>
  ⟨thermalTrip_next live group, tripRestart_next live group, fun _ hot => tripRestart_of_hot live hot⟩

end Sys2Proof.Machine
end

section
/-! SUPPORT. The flash keeps its bytes, and the power-ons their count, while the domains are cleared. One lemma an operation, named
after it. -/

set_option Elab.async false

namespace Sys2Proof.Machine

/-- The flash's bytes and the count of power-ons are those of an earlier state. -/
structure State.Flash (s s₀ : State) : Prop where
  bytes : ∀ a, a < 2 ^ 80 → s.mem.read (flashKey a) = s₀.mem.read (flashKey a)
  boots : s.boot.boots = s₀.boot.boots

theorem fld_lt (a hi lo : Nat) : fld a hi lo < 2 ^ (hi + 1 - lo) := Nat.mod_lt _ (Nat.two_pow_pos _)

/-- The parts of an address are as wide as its layout says (Table 7-2). -/
def Loc.short : Loc → Prop
  | .hbm _ off => off < 2 ^ 48
  | .scr _ d off => d < 2 ^ 3 ∧ off < 2 ^ 27
  | .host h => h < 2 ^ 56
  | .bad => True

theorem parseAddr_short (a : Nat) : (parseAddr a).short := by
  have hbm := fld_lt a 47 0
  have die := fld_lt a 50 48
  have scratch := fld_lt a 26 0
  have host := fld_lt a 55 0
  unfold parseAddr
  split
  · trivial
  · split
    · split
      · exact hbm
      · trivial
    · split
      · exact ⟨die, scratch⟩
      · trivial
    · split
      · exact host
      · trivial
    · trivial

theorem Partition.locate_lt {p : Partition} {v g f : Nat} (h : p.locate v = some (g, f)) : g < 512 ∧ f ≤ v := by
  obtain ⟨-, pc, frame⟩ := Partition.locate_eq_some h
  have mem : g ∈ p.pcList := List.mem_of_getElem? pc
  exact ⟨List.mem_range.mp (List.mem_filter.mp mem).1, frame ▸ Nat.div_le_self ..⟩

namespace State

variable {s t s₀ : State}

theorem Flash.refl (s : State) : s.Flash s := ⟨fun _ _ => rfl, rfl⟩

/-- An update of other fields. -/
theorem Flash.of_eq (h : s.Flash s₀) (m : t.mem = s.mem := by rfl) (b : t.boot.boots = s.boot.boots := by rfl) :
    t.Flash s₀ :=
  ⟨fun a short => by rw [m]; exact h.bytes a short, b.trans h.boots⟩

theorem Flash.ite {c : Prop} [Decidable c] (hs : s.Flash s₀) (ht : t.Flash s₀) : (if c then s else t).Flash s₀ := by
  split
  · exact hs
  · exact ht

/-- A run over a list whose every step keeps it. -/
theorem Flash.foldl {α : Type} {f : State → α → State} {l : List α} (h : s.Flash s₀)
    (hf : ∀ s a, s.Flash s₀ → (f s a).Flash s₀) : (l.foldl f s).Flash s₀ := by
  induction l generalizing s with
  | nil => exact h
  | cons a r ih => exact ih (hf s a h)

theorem pageFrame_lt {ptn v f : Nat} (h : s.pageFrame ptn v = some f) : f < 512 * framesPerPc + v + 1 := by
  unfold pageFrame at h
  split at h
  · obtain ⟨⟨g, n⟩, place, rfl⟩ := Option.map_eq_some_iff.mp h
    obtain ⟨few, frame⟩ := Partition.locate_lt place
    unfold frameNo framesPerPc
    omega
  · cases h

/-- The bytes that firmware addresses lie below the flash. -/
theorem fwKey_lt {a k : Nat} (h : s.key 0 0 a = some k) : k < 2 ^ 80 := by
  have short := parseAddr_short a
  unfold key at h
  split at h
  next p off loc =>
    rw [loc] at short
    obtain ⟨f, frame, rfl⟩ := Option.map_eq_some_iff.mp h
    have few := pageFrame_lt frame
    have : off < 2 ^ 48 := short
    unfold framesPerPc at few
    unfold hbmKey
    omega
  next l d off loc =>
    rw [loc] at short
    obtain ⟨die, low⟩ := short
    have own : (if l = true then 0 else d) < 2 ^ 3 := by
      split
      · exact Nat.two_pow_pos 3
      · exact die
    dsimp only at h
    generalize (if l = true then 0 else d) = n at h own
    split at h
    · obtain ⟨-, e⟩ := Option.ite_none_right_eq_some.mp h
      rw [← Option.some.inj e, scrKey]
      omega
    · cases h
  next h' loc =>
    rw [loc] at short
    cases h
    have : h' < 2 ^ 56 := short
    unfold hostKey
    omega
  next => cases h

/-! ### The operations -/

theorem setEv_flash {s : State} {e : Nat} {r : EventReg} (hs : s.Flash s₀) : (s.setEv e r).Flash s₀ :=
  hs.of_eq

theorem setDom_flash {s : State} {d : Nat} {x : Domain} (hs : s.Flash s₀) : (s.setDom d x).Flash s₀ :=
  hs.of_eq

theorem setQuad_flash {s : State} {k : Nat} {x : Quadrant} (hs : s.Flash s₀) : (s.setQuad k x).Flash s₀ :=
  hs.of_eq

theorem setCtx_flash {s : State} {c : Nat} {x : Context} (hs : s.Flash s₀) : (s.setCtx c x).Flash s₀ :=
  hs.of_eq

theorem setStack_flash {s : State} {k : Nat} {x : Stack} (hs : s.Flash s₀) : (s.setStack k x).Flash s₀ :=
  hs.of_eq

theorem setPc_flash {s : State} {g : Nat} {x : Pc} (hs : s.Flash s₀) : (s.setPc g x).Flash s₀ :=
  hs.of_eq

theorem setRzLink_flash {s : State} {l : Nat} {x : Link} (hs : s.Flash s₀) : (s.setRzLink l x).Flash s₀ :=
  hs.of_eq

theorem setEngine_flash {s : State} {e : Nat} {x : MediaEngine} (hs : s.Flash s₀) : (s.setEngine e x).Flash s₀ :=
  hs.of_eq

theorem setPort_flash {s : State} {p : Nat} {x : Port} (hs : s.Flash s₀) : (s.setPort p x).Flash s₀ :=
  hs.of_eq

theorem setQueue_flash {s : State} {c q : Nat} {x : Queue} (hs : s.Flash s₀) : (s.setQueue c q x).Flash s₀ :=
  setCtx_flash hs

theorem pump_flash {s : State} (hs : s.Flash s₀) : s.pump.Flash s₀ := by
  unfold pump
  split
  · extract_lets
    exact hs.of_eq
  · exact hs

theorem send_flash {s : State} {m : OutMsg} (hs : s.Flash s₀) : (s.send m).Flash s₀ := by
  unfold send
  split
  · exact pump_flash (hs.of_eq)
  · exact hs

theorem sendNet_flash {s : State} {m : NetMsg} (hs : s.Flash s₀) : (s.sendNet m).Flash s₀ :=
  hs.of_eq

theorem releaseNet_flash {s : State} (hs : s.Flash s₀) : s.releaseNet.Flash s₀ :=
  hs.of_eq

theorem evalEvent_flash {s : State} {e : Nat} (hs : s.Flash s₀) : (s.evalEvent e).Flash s₀ := by
  unfold evalEvent
  extract_lets _ _ _ s1
  have h_s1 : s1.Flash s₀ := setEv_flash hs
  split
  · exact hs
  · exact send_flash h_s1

theorem raiseEv_flash {s : State} {e b : Nat} (hs : s.Flash s₀) : (s.raiseEv e b).Flash s₀ :=
  evalEvent_flash (setEv_flash hs)

theorem lineAccess_flash {s : State} {f l : Nat} {write alloc : Bool} (hs : s.Flash s₀) : (s.lineAccess f l write alloc).Flash s₀ := by
  unfold lineAccess
  split
  · exact hs
  · extract_lets
    split
    · exact hs.of_eq
    · split
      · exact hs
      · exact hs.of_eq

theorem dirtied_flash {s : State} {k n : Nat} (hs : s.Flash s₀) : (s.dirtied k n).Flash s₀ := by
  unfold dirtied
  split
  · exact hs
  · refine Flash.foldl hs ?_
    intro s1 a1 h1
    extract_lets
    exact lineAccess_flash h1

theorem writeBack_flash {s : State} {ok : Nat → Bool} (hs : s.Flash s₀) : (s.writeBack ok).Flash s₀ :=
  hs.of_eq

theorem writeAt_flash {s : State} {a : Nat} {b : Byte} (hs : s.Flash s₀) : (s.writeAt 0 0 a b).Flash s₀ := by
  unfold writeAt
  split
  next k key =>
    refine ⟨fun x short => ?_, hs.boots⟩
    rw [← hs.bytes x short]
    refine Memory.read_write_ne _ _ ?_
    have := fwKey_lt key
    rw [flashKey]
    omega
  next => exact hs

theorem writeBytes_flash {s : State} {a : Nat} {l : List Byte} (hs : s.Flash s₀) : (s.writeBytes 0 0 a l).Flash s₀ := by
  induction l generalizing s a with
  | nil => exact hs
  | cons b r ih => exact ih (writeAt_flash hs)

theorem storeBytes_flash {s : State} {a : Nat} {l : List Byte} (hs : s.Flash s₀) : (s.storeBytes 0 a l).Flash s₀ := by
  unfold storeBytes
  extract_lets s1
  have h_s1 : s1.Flash s₀ := writeBytes_flash hs
  split
  · refine Flash.foldl h_s1 ?_
    intro s1 a1 h1
    split
    · extract_lets
      exact dirtied_flash h1
    · exact h1
  · exact h_s1

theorem fwWrite_flash {s : State} {a : Nat} {l : List Byte} (hs : s.Flash s₀) : (s.fwWrite a l).Flash s₀ :=
  storeBytes_flash hs

theorem fresh_flash {s : State} {w : Nat} (hs : s.Flash s₀) : (s.fresh w).2.Flash s₀ :=
  hs.of_eq

theorem hostMessages_flash {s : State} {h : Nat} {l : List Byte} {fuel : Nat} (hs : s.Flash s₀) :
    (s.hostMessages h l fuel).Flash s₀ := by
  induction fuel generalizing s h l with
  | zero => exact hs
  | succ fuel ih => exact Flash.ite hs (ih (send_flash hs))

theorem post_flash {s : State} {a : Nat} {l : List Byte} (hs : s.Flash s₀) : (s.post a l).Flash s₀ := by
  unfold post
  split
  · split
    · exact hostMessages_flash (fwWrite_flash hs)
    · exact hs
  · exact fwWrite_flash hs

theorem putRecord_flash {s : State} {c q : Nat} {l : List Byte} (hs : s.Flash s₀) : (s.putRecord c q l).Flash s₀ := by
  unfold putRecord
  extract_lets _ s1 _
  have h_s1 : s1.Flash s₀ := post_flash hs
  split
  · exact hs
  · exact setQueue_flash h_s1

theorem modCmd_flash {s : State} {c q : Nat} {idx : Word} {f : Cmd → Cmd} (hs : s.Flash s₀) : (s.modCmd c q idx f).Flash s₀ :=
  setQueue_flash hs

theorem answer_flash {s : State} {c q : Nat} {idx : Word} {st : Status} (hs : s.Flash s₀) : (s.answer c q idx st).Flash s₀ :=
  modCmd_flash hs

theorem unbind_flash {s : State} {c q : Nat} {idx : Word} (hs : s.Flash s₀) : (s.unbind c q idx).Flash s₀ :=
  hs.of_eq

theorem putWords_flash {s : State} {c q : Nat} {lo : Word} {ws : List Nat} (hs : s.Flash s₀) : (s.putWords c q lo ws).Flash s₀ :=
  setQueue_flash (Flash.foldl hs (fun _ _ h1 => (Flash.ite h1 (post_flash h1))))

theorem patchQueues_flash {s : State} {c : Nat} (hs : s.Flash s₀) : (s.patchQueues c).Flash s₀ := by
  unfold patchQueues
  extract_lets
  refine Flash.foldl hs ?_
  intro s1 a1 h1
  extract_lets
  split
  · exact h1
  · exact putWords_flash h1

theorem setChan_flash {s : State} {i : Nat} {ch : Channel} (hs : s.Flash s₀) : (s.setChan i ch).Flash s₀ :=
  hs.of_eq

theorem jobAfter_flash {s : State} {j : Nat} (hs : s.Flash s₀) : (s.jobAfter j).Flash s₀ := by
  unfold jobAfter
  split
  · split
    · split
      · exact hs
      · extract_lets s1
        have h_s1 : s1.Flash s₀ := hs.of_eq
        exact post_flash h_s1
    · split
      · exact hs.of_eq
      · exact hs
  · exact hs

theorem chanClosed_flash {s : State} {i : Nat} (hs : s.Flash s₀) : (s.chanClosed i).Flash s₀ := by
  unfold chanClosed
  split
  · extract_lets _ s1 s2
    have h_s1 : s1.Flash s₀ := hs.of_eq
    have h_s2 : s2.Flash s₀ := by
      unfold s2
      split
      · exact post_flash h_s1
      · exact h_s1
    exact jobAfter_flash h_s2
  · exact hs

theorem chanAfter_flash {s : State} {i : Nat} (hs : s.Flash s₀) : (s.chanAfter i).Flash s₀ := by
  unfold chanAfter
  split
  · split
    · extract_lets
      split
      · exact chanClosed_flash (setChan_flash hs)
      · exact setChan_flash hs
    · exact hs
  · exact hs

theorem modChan_flash {s : State} {i : Nat} {f : Channel → Channel} (hs : s.Flash s₀) : (s.modChan i f).Flash s₀ := by
  unfold modChan
  split
  · exact chanAfter_flash (setChan_flash hs)
  · exact hs

theorem sliceReset_flash {s : State} {die : Nat} (hs : s.Flash s₀) : (s.sliceReset die).Flash s₀ := by
  unfold sliceReset
  extract_lets _ _ s1
  have h_s1 : s1.Flash s₀ := Flash.foldl hs (fun _ _ h1 => (modChan_flash h1))
  split
  · exact raiseEv_flash h_s1
  · exact h_s1

theorem portTo_flash {s : State} {p state : Nat} (hs : s.Flash s₀) : (s.portTo p state).Flash s₀ := by
  unfold portTo
  extract_lets _ s1
  have h_s1 : s1.Flash s₀ := setPort_flash hs
  exact releaseNet_flash (Flash.foldl h_s1 (fun _ _ h1 => (Flash.ite h1 (sendNet_flash h1))))

/-- A starved requester is noted once, until the note is read. -/
theorem starve_sel_flash {s : State} {c : Bool} {x : Sel} (hs : s.Flash s₀) : State.Flash (if c then s else { s with sel := x }) s₀ := by
  split
  · exact hs
  · exact hs.of_eq

theorem starved_flash {s : State} {site : Arbiter} {req holder : Nat} (hs : s.Flash s₀) : (s.starved site req holder).Flash s₀ := by
  cases site with
  | hbm pc => exact raiseEv_flash (Flash.ite hs (setStack_flash hs))
  | dma e => exact raiseEv_flash (starve_sel_flash hs)
  | sorus n r => exact raiseEv_flash (starve_sel_flash hs)
  | rz l h e => exact raiseEv_flash (starve_sel_flash hs)

theorem rzPump_flash {s : State} {l : Nat} {high : Bool} {fuel : Nat} (hs : s.Flash s₀) : (s.rzPump l high fuel).Flash s₀ := by
  induction fuel generalizing s with
  | zero => exact hs
  | succ fuel ih =>
    unfold rzPump
    refine Flash.ite hs ?_
    split
    · exact hs
    · refine ih ?_
      split
      · exact starved_flash (setRzLink_flash hs)
      · exact setRzLink_flash hs

theorem rzPumpAll_flash {s : State} (hs : s.Flash s₀) : s.rzPumpAll.Flash s₀ := by
  unfold rzPumpAll
  refine Flash.foldl hs ?_
  intro s1 a1 h1
  extract_lets s1'
  have h_s1' : s1'.Flash s₀ := rzPump_flash h1
  exact rzPump_flash h_s1'

theorem freeEngine_flash {s : State} {c q : Nat} {idx : Word} (hs : s.Flash s₀) : (s.freeEngine c q idx).Flash s₀ :=
  hs.of_eq

theorem idleArrays_flash {s : State} {c : Nat} (hs : s.Flash s₀) : (s.idleArrays c).Flash s₀ :=
  hs.of_eq

theorem teacherBack_flash {s : State} {c : Nat} {places : List BlockMark} (hs : s.Flash s₀) : (s.teacherBack c places).Flash s₀ := by
  unfold teacherBack
  extract_lets _ _ _ s1 _ s2 s3
  have h_s1 : s1.Flash s₀ := idleArrays_flash hs
  have h_s2 : s2.Flash s₀ := setCtx_flash h_s1
  have h_s3 : s3.Flash s₀ := Flash.ite h_s2 (patchQueues_flash (post_flash h_s2))
  split
  · exact hs
  · refine Flash.foldl h_s3 ?_
    intro s1 a1 h1
    split
    · extract_lets
      exact setChan_flash h1
    · exact h1

theorem teachersBack_flash {s : State} {chans : List Nat} (hs : s.Flash s₀) : (s.teachersBack chans).Flash s₀ :=
  Flash.foldl hs (fun _ _ h1 => (teacherBack_flash h1))

theorem testFinal_flash {s : State} {a : Nat} {st : Status} {detail : Nat} (hs : s.Flash s₀) : (s.testFinal a st detail).Flash s₀ :=
  post_flash hs

theorem testInterim_flash {s : State} {a : Nat} {st : Status} {place : Nat} (hs : s.Flash s₀) : (s.testInterim a st place).Flash s₀ :=
  post_flash hs

theorem setTests_flash {s : State} {c : Nat} {l : List TestReq} (hs : s.Flash s₀) : (s.setTests c l).Flash s₀ :=
  hs.of_eq

theorem testShow_flash {s : State} {c fuel : Nat} (hs : s.Flash s₀) : (s.testShow c fuel).Flash s₀ := by
  induction fuel generalizing s with
  | zero => exact hs
  | succ fuel ih =>
    unfold testShow
    split
    · exact hs
    · refine Flash.ite (Flash.foldl hs fun _ _ h => testInterim_flash h) (Flash.ite ?_ ?_)
      · exact ih (raiseEv_flash (testFinal_flash (setTests_flash hs)))
      · exact Flash.foldl (Flash.ite (testInterim_flash hs) hs) fun _ _ h => testInterim_flash h

theorem engineYield_flash {s : State} {e : Nat} (hs : s.Flash s₀) : (s.engineYield e).Flash s₀ := by
  unfold engineYield
  extract_lets _ s1
  have h_s1 : s1.Flash s₀ := Flash.ite (hs.of_eq) hs
  exact setEngine_flash h_s1

theorem returnTarget_flash {s : State} {ty t : Nat} (hs : s.Flash s₀) : (s.returnTarget ty t).Flash s₀ := by
  unfold returnTarget
  split
  · exact setQuad_flash hs
  · exact setPc_flash hs
  · extract_lets
    exact rzPumpAll_flash (setRzLink_flash hs)
  · exact setEngine_flash hs
  · split
    · exact portTo_flash hs
    · exact hs

theorem brokenOff_flash {s : State} {h : TestReq} {c : Nat} (hs : s.Flash s₀) : (s.brokenOff h c).2.Flash s₀ := by
  unfold brokenOff
  extract_lets f m k
  have h_f : f.2.Flash s₀ := fresh_flash hs
  have h_m : m.2.Flash s₀ := fresh_flash h_f
  have h_k : k.2.Flash s₀ := fresh_flash h_m
  exact h_k

theorem testAbort_flash {s : State} {hit : Nat → Nat → Bool} (hs : s.Flash s₀) : (s.testAbort hit).Flash s₀ := by
  unfold testAbort
  refine Flash.foldl hs ?_
  intro s1 a1 h1
  split
  · exact h1
  · split
    · extract_lets b s'
      have h_b : b.2.Flash s₀ := brokenOff_flash h1
      have h_s' : s'.Flash s₀ := Flash.ite h1 (post_flash h_b)
      exact testShow_flash (testFinal_flash (setTests_flash (returnTarget_flash h_s')))
    · exact h1

theorem shuffleReset_flash {s : State} (hs : s.Flash s₀) : s.shuffleReset.Flash s₀ :=
  hs.of_eq

theorem linkDrop_flash {s : State} (hs : s.Flash s₀) : s.linkDrop.Flash s₀ := by
  unfold linkDrop
  extract_lets s1 _
  have h_s1 : s1.Flash s₀ := Flash.foldl hs (fun _ _ h1 => (answer_flash h1))
  exact h_s1.of_eq

theorem clearEvents_flash {s : State} {d : Nat} (hs : s.Flash s₀) : (s.clearEvents d).Flash s₀ :=
  hs.of_eq

theorem clearQuad_flash {s : State} {k : Nat} (hs : s.Flash s₀) : (s.clearQuad k).Flash s₀ := by
  unfold clearQuad
  extract_lets _ _ s1 _
  have h_s1 : s1.Flash s₀ := setQuad_flash hs
  exact h_s1.of_eq

theorem clearSram_flash {s : State} {n : Nat} (hs : s.Flash s₀) : (s.clearSram n).Flash s₀ := by
  unfold clearSram
  extract_lets _ s1 _ _ s2 _ _
  have h_s1 : s1.Flash s₀ := Flash.foldl hs (fun _ _ h1 => (answer_flash h1))
  have h_s2 : s2.Flash s₀ := h_s1.of_eq
  exact teachersBack_flash (sliceReset_flash (setStack_flash h_s2))

theorem clearQueues_flash {s : State} {n : Nat} (hs : s.Flash s₀) : (s.clearQueues n).Flash s₀ := by
  unfold clearQueues
  refine Flash.foldl hs ?_
  intro s1 a1 h1
  split
  · refine Flash.foldl h1 ?_
    intro s2 a1 h2
    extract_lets _ s1' _
    have h_s1' : s1'.Flash s₀ := by
      unfold s1'
      refine Flash.foldl h2 ?_
      intro s3 a1 h3
      extract_lets t
      have h_t : t.Flash s₀ := Flash.ite h3 (putRecord_flash h3)
      exact freeEngine_flash (unbind_flash h_t)
    split
    · exact h2
    · exact setQueue_flash h_s1'
  · exact h1

theorem clearFabric_flash {s : State} {n : Nat} (hs : s.Flash s₀) : (s.clearFabric n).Flash s₀ := by
  unfold clearFabric
  extract_lets s1
  have h_s1 : s1.Flash s₀ := hs.of_eq
  exact clearQueues_flash h_s1

theorem clearMedia_flash {s : State} {m : Nat} (hs : s.Flash s₀) : (s.clearMedia m).Flash s₀ :=
  raiseEv_flash (Flash.foldl hs (fun _ _ h1 => (engineYield_flash h1)))

theorem clearShuffle_flash {s : State} (hs : s.Flash s₀) : s.clearShuffle.Flash s₀ := by
  unfold clearShuffle
  extract_lets s1 _
  have h_s1 : s1.Flash s₀ := shuffleReset_flash hs
  exact h_s1.of_eq

theorem clearEdge_flash {s : State} (hs : s.Flash s₀) : s.clearEdge.Flash s₀ :=
  hs.of_eq

theorem clearHost_flash {s : State} (hs : s.Flash s₀) : s.clearHost.Flash s₀ := by
  unfold clearHost
  extract_lets s1 s2 _ _ _
  have h_s1 : s1.Flash s₀ := Flash.foldl (linkDrop_flash hs) (fun _ _ h1 => (answer_flash h1))
  have h_s2 : s2.Flash s₀ := Flash.foldl h_s1 (fun _ _ h1 => (post_flash h1))
  exact h_s2.of_eq

theorem clearSupervisor_flash {s : State} (hs : s.Flash s₀) : s.clearSupervisor.Flash s₀ :=
  hs.of_eq

theorem clearDomain_flash {s : State} {d : Nat} (hs : s.Flash s₀) : (s.clearDomain d).Flash s₀ := by
  unfold clearDomain
  extract_lets s1 g x s2
  have h_s1 : s1.Flash s₀ := clearEvents_flash (testAbort_flash hs)
  have h_s2 : s2.Flash s₀ := setStack_flash h_s1
  clear_value s2
  refine Flash.ite ?group (Flash.ite (Flash.of_eq (s := s2) h_s2) ?rest)
  case group =>
    exact Flash.ite (clearQuad_flash h_s1) (Flash.ite (clearSram_flash h_s1) (Flash.ite (clearFabric_flash h_s1) h_s1))
  case rest =>
    exact Flash.ite (clearShuffle_flash h_s1) (Flash.ite (clearMedia_flash h_s1) (Flash.ite (clearMedia_flash h_s1)
      (Flash.ite (clearEdge_flash h_s1) (Flash.ite (clearHost_flash h_s1) (Flash.ite (clearSupervisor_flash h_s1)
        h_s1)))))

theorem storeWear_flash {s : State} (hs : s.Flash s₀) : s.storeWear.Flash s₀ :=
  hs.of_eq

/-! ### A domain loses its supply -/

/-- A range whose bytes become undefined leaves the others. -/
theorem read_undefine_ne (m : Memory) {lo hi seed k : Nat} (apart : k < lo ∨ hi ≤ k) : (m.undefine lo hi seed).read k = m.read k := by
  unfold Memory.undefine
  split
  · rw [← Memory.read_clear_ne m apart]
    have out : UndefRange.covers { lo := lo, hi := hi, seed := seed, base := lo } k = false := by
      rw [UndefRange.covers, decide_eq_false_iff_not]
      exact fun ⟨low, high⟩ => apart.elim (Nat.not_lt.mpr low) (Nat.not_le.mpr high)
    simp only [Memory.read, List.find?_cons, out]
  · rfl

theorem losePower_flash {s : State} {d : Nat} (hs : s.Flash s₀) : (s.losePower d).Flash s₀ := by
  unfold losePower
  extract_lets s1 s2
  have h_s1 : s1.Flash s₀ := clearDomain_flash hs
  have h_s2 : s2.Flash s₀ := by
    unfold s2
    split
    next group =>
      refine ⟨fun a short => ?_, h_s1.boots⟩
      rw [← h_s1.bytes a short]
      refine List.foldlRecOn (motive := fun m : Memory => m.read (flashKey a) = s1.mem.read (flashKey a)) _ _ rfl fun m h p mem => ?_
      rw [read_undefine_ne, h]
      have := List.mem_range.mp mem
      unfold scrKey flashKey
      omega
    next => exact h_s1
  exact setDom_flash h_s2

end State

end Sys2Proof.Machine
end

section
/-! SUPPORT. Loss and return of input power (R365 to R367). -/

namespace Sys2Proof.Machine

namespace State

variable {s t : State}

/-! ### The store takes over -/

/-- What switching domains off leaves: every agreed part but the domains. -/
def Switches (t s : State) : Prop := t.agreed = { s.agreed with domains := t.domains }

theorem losePower_switches {d : Nat} (other : d ≠ 78) (s : State) : (s.losePower d).Switches s := by
  have lost := losePower_agrees other s
  rw [Switches, lost.parts, lost.domains]
  rfl

/-- The domains that a run-down store holds up, and their loss. -/
theorem holdStep_eq (idle : s.pwr.onHoldup = true) (new : s.pwr.holding = false) : ∃ (u : State) (ds : List Nat) (st : Status), u.Switches s.storeWear ∧ u.Flash s ∧
    s.holdStep = { u with pwr := { u.pwr with holding := true, heldOff := ds, reqBusy := false, reqStatus := st } } := by
  let ds := s.variant.domainList.filter fun d => d < 78 && (s.dom d).power != .off
  have run : s.holdStep = _ := if_neg (by simp [idle, new])
  refine ⟨ds.foldl (fun (s : State) d => s.losePower d) (s.writeBack fun _ => true).storeWear, _, _, ?_, ?_, run⟩
  · refine List.foldlRecOn (motive := fun u : State => u.Switches s.storeWear) _ _ rfl fun u h d mem => ?_
    have other : d ≠ 78 := by
      have := (List.mem_filter.mp mem).2
      simp only [Bool.and_eq_true, decide_eq_true_eq] at this
      omega
    have lost := losePower_switches other u
    rw [Switches] at *
    rw [lost, h]
  · exact Flash.foldl (Flash.refl s).of_eq fun _ _ h => losePower_flash h

/-- What the store's step keeps, whether or not it holds the module already. -/
theorem holdStep_spec (holdup : s.pwr.onHoldup = true) : s.holdStep.variant = s.variant ∧ s.holdStep.flt = s.flt ∧ s.holdStep.Flash s ∧
    (s.pwr.holding = false → s.holdStep.pwr.wearStore = s.storeWear.pwr.wearStore) := by
  cases holding : s.pwr.holding with
  | true =>
    have same : s.holdStep = s := if_pos (.inr holding)
    rw [same]
    exact ⟨rfl, rfl, Flash.refl s, nofun⟩
  | false =>
    obtain ⟨u, ds, st, switches, flash, run⟩ := holdStep_eq holdup holding
    rw [run]
    exact ⟨congrArg Agreed.variant switches, congrArg Agreed.flt switches, flash.of_eq,
      fun _ => congrArg (fun a : Agreed => a.pwr.wearStore) switches⟩

/-! ### Input power returns -/

theorem powerUp_ramps (s : State) (d : Nat) : (s.powerUp d).Ramps s := by
  unfold powerUp
  split
  · exact Ramps.refl s
  · obtain ⟨n, rail⟩ := s.railOf_eq d
    obtain ⟨cs, h, q, p, l, left, -⟩ := (s.railOf d).2.leaveReset_eq d
    dsimp only
    rw [left, rail]
    exact ⟨_, _, _, _, _, _, _, _, _, _, rfl⟩

theorem powerBack_ramps (s : State) (d : Nat) : (s.powerBack d).Ramps s := by
  unfold powerBack
  extract_lets s1
  split
  · obtain ⟨h, es, p, o, n, trained⟩ := s1.trainStack_eq (d - 56)
    have ramps : s1.Ramps s := s.powerUp_ramps d
    obtain ⟨_, _, _, _, _, _, _, _, _, _, ramps⟩ := ramps
    rw [trained, ramps]
    exact ⟨_, _, _, _, _, _, _, _, _, _, rfl⟩
  · exact s.powerUp_ramps d

/-- The module on its input power again, as its warm reset begins. -/
theorem onInput_spec {u : State} {v : Variant} (warm : u.flt.warm = true)
    (resets : ∀ d, d ≠ 78 → v.domain d = true → WarmReset d u) :
    let t := ({ u with
      pwr := { u.pwr with onHoldup := false, holding := false, heldOff := [] }
      pins := { u.pins with pwrGood := true } } : State).raiseEv evPwr 1
    t.pwr.onHoldup = false ∧ t.pins.pwrGood = true ∧ t.flt.warm = true ∧ bitAt (t.ev evPwr).value 1 = true ∧
      ∀ d, d ≠ 78 → v.domain d = true → WarmReset d t := by
  intro t
  have raised : t.Agrees { u with
    pwr := { u.pwr with onHoldup := false, holding := false, heldOff := [] }
    pins := { u.pins with pwrGood := true } } := raiseEv_agrees (Agrees.refl _)
  refine ⟨congrArg Pwr.onHoldup raised.pwr, congrArg Pins.pwrGood raised.pins, (congrArg Flt.warm raised.flt).trans warm,
    raiseEv_sets .., fun d ne present => ?_⟩
  exact (resets d ne present).imp (congrArg Domain.state (raised.dom d)).trans
    fun h => ⟨(congrArg Domain.state (raised.dom d)).trans h.1, (congrArg Domain.level (raised.dom d)).trans h.2⟩

/-- Return of input power: the domains that had lost their supply ramp up, and the package warm reset begins. -/
theorem inputReturn_spec (live : s.flt.fatal = false) (holdup : s.pwr.onHoldup = true) :
    s.inputReturn.pwr.onHoldup = false ∧ s.inputReturn.pins.pwrGood = true ∧ s.inputReturn.flt.warm = true ∧
      bitAt (s.inputReturn.ev evPwr).value 1 = true ∧
      ∀ d, d ≠ 78 → s.variant.domain d = true → WarmReset d s.inputReturn := by
  rw [inputReturn, if_neg (by simp [holdup]), if_neg (by simp [live])]
  extract_lets s1 s2 _ o s3
  have ramps : s2.Ramps s1 :=
    List.foldlRecOn (motive := fun t : State => t.Ramps s1) _ _ (Ramps.refl _) fun t h d _ => (t.powerBack_ramps d).trans h
  have variant : o.1.variant = s.variant := ramps.variant.trans (holdStep_spec holdup).1
  have spec := o.1.warmReset_spec o.2
  have reset : s3 = o.1.warmReset o.2 := rfl
  rw [← reset] at spec
  clear_value s3
  exact onInput_spec spec.1 fun d ne present => spec.2 d ne (by rw [variant]; exact present) (domain_lt present)

/-! ### Input power is lost -/

/-- What an evaluation leaves, once every CEIL is at OP0. -/
theorem evaluate_of_lowered {u v : State} (agrees : u.Agrees v) (low : ∀ g, g < v.variant.groups → (v.group g).ceil ≤ 0) :
    u.evaluate.pwr = v.pwr ∧ u.evaluate.pins = v.pins ∧
      (∀ g, g < v.variant.groups → (u.evaluate.group g).ceil = 0 ∧ (u.evaluate.group g).target = 0) ∧
      (∀ e n, eventDomain e = 78 → bitAt (v.ev e).value n = true → bitAt (u.evaluate.ev e).value n = true) := by
  have evaluates := u.evaluates_evaluate
  have target (g : Nat) (there : g < u.variant.groups) := u.evaluate_target_le there
  generalize u.evaluate = t at evaluates target
  obtain ⟨gs, es, p, o, frame⟩ := evaluates.frame
  have group (g : Nat) : u.group g = v.group g := by simp only [State.group, agrees.groups]
  refine ⟨?_, ?_, fun g there => ⟨?_, ?_⟩, fun e n sup set => evaluates.bits e n (agrees.bits e n sup set)⟩
  · rw [← agrees.pwr, frame]
  · rw [← agrees.pins, frame]
  · rw [evaluates.ceil, group]
    exact Nat.le_zero.mp (low g there)
  · have below := target g (by rw [agrees.variant]; exact there)
    rw [group] at below
    exact Nat.le_zero.mp (below.trans (low g there))

theorem inputLoss_spec (supplied : s.pwr.onHoldup = false) :
    s.inputLoss.pwr.onHoldup = true ∧ s.inputLoss.pins.pwrGood = false ∧ s.inputLoss.pins.alertN = false ∧
      (∀ g, g < s.variant.groups → (s.inputLoss.group g).ceil = 0 ∧ (s.inputLoss.group g).target = 0) ∧
      bitAt (s.inputLoss.ev evPwr).value 0 = true := by
  rw [inputLoss, if_neg (by simp [supplied])]
  extract_lets _ _ s1 s2 shards _ s3 step
  have raised := raiseEv_agrees (e := evPwr) (b := 0) (Agrees.refl ({ s with
    pwr := { s.pwr with onHoldup := true, holding := false, heldOff := [] }
    pins := { s.pins with pwrGood := false } }))
  have bit : bitAt (s1.ev evPwr).value 0 = true := raiseEv_sets ..
  have pwr : s1.pwr.onHoldup = true := congrArg Pwr.onHoldup raised.pwr
  have alert : s1.pins.alertN = false := rfl
  have pins : s1.pins.pwrGood = false := congrArg Pins.pwrGood raised.pins
  have variant : s1.variant = s.variant := raised.variant
  have lowers := s1.lowers_lowerCeils 0
  have low (g : Nat) (there : g < s1.variant.groups) := s1.lowerCeils_ceil 0 there
  have stopped : s2.Agrees (s1.lowerCeils 0) := updEnd_agrees (testAbort_agrees (Agrees.refl _))
  generalize s1.lowerCeils 0 = v at lowers low stopped
  have ended : s3.Agrees v := Agrees.ite (Agrees.ite (ckptEnd_agrees stopped) (setCkp_agrees stopped)) stopped
  have same : v.variant = s1.variant := lowers.variant
  obtain ⟨gs, es, p, o, frame⟩ := lowers.frame
  have logged := logPut_agrees (ty := 11) (st := 0) (fl := 0) (step := step) (body := leBytes 2 shards) ended
  obtain ⟨pwr', pins', ceils, bits⟩ := evaluate_of_lowered logged fun g there => low g (by rw [← same]; exact there)
  have lowered : v.pwr = s1.pwr ∧ v.pins = s1.pins := by
    rw [frame]
    exact ⟨rfl, rfl⟩
  refine ⟨?_, ?_, ?_, fun g there => ceils g (by rw [same, variant]; exact there), bits evPwr 0 rfl (lowers.bits _ _ bit)⟩
  · rw [pwr', lowered.1]
    exact pwr
  · rw [pins', lowered.2]
    exact pins
  · rw [pins', lowered.2]
    exact alert

/-! ### The store runs down, and is charged -/

/-- Power-on with the flash and the wear store as they were (R367). -/
theorem powerOnReset_flash (s : State) : s.powerOnReset.Flash s := by
  refine ⟨fun a short => ?_, rfl⟩
  have read : ∀ m : Memory, (((m.undefine 0 (2 ^ 64) s.free).undefine (2 ^ 68) (2 ^ 80) s.free).undefine (2 ^ 84) (2 ^ 85) s.free).read (flashKey a) =
      m.read (flashKey a) := fun m => by
    unfold flashKey
    rw [read_undefine_ne _ (by omega), read_undefine_ne _ (by omega), read_undefine_ne _ (by omega)]
  exact read s.mem

theorem charged_spec (s : State) {j : Nat} (full : Bool) (short : j < 256) :
    (s.charged j full).pwr.holdJ = j ∧ (s.charged j full).pwr.fullJ = (if full then j else s.pwr.fullJ) ∧
      ((s.charged j full).pwr.dispatchHeld = true ↔ s.pwr.dispatchHeld = true ∧ j < 27) ∧
      (full = true → j < 48 → bitAt ((s.charged j full).ev evPwr).value 2 = true) ∧
      ∃ gs es p o w, s.charged j full = { s with pwr := w, groups := gs, events := es, plk := p, out := o } := by
  unfold charged
  extract_lets k _ s1
  have same : k = j := Nat.mod_eq_of_lt short
  have sets := raiseIf_sets (full = true ∧ k < 48) s1 evPwr 2
  obtain ⟨es', p', o', raised⟩ := raiseIf_frame (full = true ∧ k < 48) s1 evPwr 2
  unfold raiseIf at sets raised
  generalize (if full = true ∧ k < 48 then s1.raiseEv evPwr 2 else s1) = s2 at sets raised
  have evaluates : Evaluates s2 s2.evaluate := s2.evaluates_evaluate
  generalize s2.evaluate = t at evaluates
  obtain ⟨gs, es, p, o, frame⟩ := evaluates.frame
  have pwr : t.pwr = s1.pwr := by rw [frame, raised]
  refine ⟨?_, ?_, ?_, fun all low => evaluates.bits _ _ (sets ⟨all, by rw [same]; exact low⟩), ?_⟩
  · rw [pwr]
    exact same
  · rw [pwr]
    simp only [s1, same]
  · rw [pwr]
    simp only [s1, same, Bool.and_eq_true, decide_eq_true_eq]
  · refine ⟨gs, es, p, o, s1.pwr, ?_⟩
    rw [frame, raised]

end State

/-- Settles O28. -/
theorem inputPowerIsLostAndReturns : Obligations.InputPowerIsLostAndReturns := by
  intro s
  refine ⟨fun supplied => ⟨_, rfl, State.inputLoss_spec supplied⟩, fun live holdup => ⟨_, rfl, ?_⟩, fun fatal holdup => ⟨_, rfl, ?_⟩,
    fun holdup => ⟨_, rfl, ?_⟩, fun live j full short => ?_⟩
  · obtain ⟨pwr, pins, warm, bit, resets⟩ := State.inputReturn_spec live holdup
    exact ⟨pwr, pins, warm, bit, fun d ne present => (resets d ne present).symm.imp_left And.left⟩
  · have returned : s.inputReturn = { s.holdStep with pwr := { s.holdStep.pwr with onHoldup := false, holding := false } } := by
      rw [State.inputReturn, if_neg (by simp [holdup]), if_pos fatal]
    have flt := (State.holdStep_spec holdup).2.1
    rw [returned]
    exact ⟨rfl, (congrArg Flt.fatal flt).trans fatal⟩
  · obtain ⟨-, -, kept, wear⟩ := State.holdStep_spec holdup
    have run : s.exhausted = s.holdStep.powerOnReset := if_pos holdup
    have flash := s.holdStep.powerOnReset_flash
    rw [run]
    generalize s.holdStep = u at kept wear flash
    refine ⟨rfl, rfl, rfl, kept.boots, rfl, rfl, rfl, rfl, fun _ => rfl, fun a short => (flash.bytes a short).trans (kept.bytes a short),
      fun new p listed => ?_⟩
    have stored : p ∈ s.storeWear.pwr.wearStore := by
      rw [← wear new]
      exact listed
    obtain ⟨d, -, rfl⟩ := List.mem_map.mp stored
    rfl
  · obtain ⟨hold, most, dispatch, low, gs, es, p, o, w, frame⟩ := State.charged_spec s full short
    refine ⟨_, act_eq_next (f := (State.charged · j full)) live frame, ?_⟩
    rw [← frame]
    refine ⟨hold, most, dispatch, low, ?_⟩
    rw [frame]

end Sys2Proof.Machine
end

section
/-! SUPPORT. Firmware's bytes in host memory, and the crash dumps (R349, R350). -/

set_option Elab.async false

namespace Sys2Proof.Machine

theorem parseAddr_eq_host {a h : Nat} (e : parseAddr a = .host h) : a = 2 ^ 63 + h ∧ h < 2 ^ 56 := by
  unfold parseAddr at e
  split at e
  · cases e
  next short =>
    split at e
    · split at e <;> cases e
    · split at e <;> cases e
    next space =>
      split at e
      next clear =>
        cases e
        unfold fld at *
        omega
      next => cases e
    · cases e

namespace State

variable {s : State}

/-! ### Host memory -/

theorem writeBytes_host (s : State) {x : Nat} (l : List Byte) (fit : x + l.length ≤ 2 ^ 56) :
    s.writeBytes 0 0 (2 ^ 63 + x) l = { s with mem := s.mem.writeAll (hostKey x) l } := by
  induction l generalizing s x with
  | nil => rfl
  | cons b r ih =>
    rw [List.length_cons] at fit
    have first : s.writeAt 0 0 (2 ^ 63 + x) b = { s with mem := s.mem.write (hostKey x) b } := by
      rw [writeAt, s.key_host 0 0 (by omega)]
    have rest := ih { s with mem := s.mem.write (hostKey x) b } (x := x + 1) (by omega)
    rw [writeBytes, first, Nat.add_assoc, rest]
    rfl

theorem fwWrite_host (s : State) {x : Nat} (l : List Byte) (here : x < 2 ^ 56) (fit : x + l.length ≤ 2 ^ 56) :
    s.fwWrite (2 ^ 63 + x) l = { s with mem := s.mem.writeAll (hostKey x) l } := by
  unfold fwWrite storeBytes
  rw [writeBytes_host s l fit, parseAddr_host here]

theorem hostMessages_eq (s : State) (h : Nat) (l : List Byte) (n : Nat) : ∃ p o, s.hostMessages h l n = { s with plk := p, out := o } := by
  induction n generalizing s h l with
  | zero => exact ⟨s.plk, s.out, rfl⟩
  | succ n ih =>
    unfold hostMessages
    split
    · exact ⟨s.plk, s.out, rfl⟩
    · obtain ⟨p, o, later⟩ := ih (s.send (.hostWr none h (l.take 256))) (h + 256) (l.drop 256)
      rw [later, send_eq]
      exact ⟨_, _, rfl⟩

/-- Firmware's bytes for host memory are there, and go out as messages. -/
theorem post_host {a h : Nat} (host : parseAddr a = .host h) (up : s.linkUp = true) (l : List Byte) (fit : h + l.length ≤ 2 ^ 56) :
    ∃ p o, s.post a l = { s with mem := s.mem.writeAll (hostKey h) l, plk := p, out := o } := by
  obtain ⟨place, short⟩ := parseAddr_eq_host host
  obtain ⟨p, o, sent⟩ := State.hostMessages_eq { s with mem := s.mem.writeAll (hostKey h) l } h l (l.length / 256 + 1)
  refine ⟨p, o, ?_⟩
  rw [post, host]
  dsimp only
  rw [if_pos up, place, fwWrite_host s l short fit, sent]

/-! ### Dumps -/

theorem readAll_length (m : Memory) (k n : Nat) : (m.readAll k n).length = n := by
  rw [Memory.readAll, List.length_map, List.length_range]

theorem readAll_getElem (m : Memory) (k n : Nat) {i : Nat} (h : i < (m.readAll k n).length) : (m.readAll k n)[i] = m.read (k + i) := by
  simp only [Memory.readAll, List.getElem_map, List.getElem_range]

theorem read_writeAll_readAll (m u : Memory) (k j n : Nat) {i : Nat} (h : i < n) : (m.writeAll k (u.readAll j n)).read (k + i) = u.read (j + i) := by
  have long : i < (u.readAll j n).length := by
    rw [readAll_length]
    exact h
  rw [Memory.read_writeAll _ _ _ long, readAll_getElem]

theorem readAll_writeAll (m : Memory) (k : Nat) (l : List Byte) {n : Nat} (h : n ≤ l.length) : (m.writeAll k l).readAll k n = l.take n := by
  refine List.ext_getElem ?_ fun i short _ => ?_
  · simp [Memory.readAll, h]
  · have below : i < n := by simpa [Memory.readAll] using short
    have inside : i < l.length := Nat.lt_of_lt_of_le below h
    simp [Memory.readAll, Memory.read_writeAll m k l inside]

theorem startDump_takes {b : Nat} (buffer : s.dumpBuffer = some b) (fault scope : Nat) (doms : List Nat) :
    ∃ f x, s.startDump fault scope doms = { s with flt := f } ∧ f.dumps = tput s.flt.dumps b x ∧ x.ident = s.flt.nextDump ∧
      x.ended = false := by
  refine ⟨(s.startDump fault scope doms).flt, ?_⟩
  rw [startDump, buffer]
  exact ⟨_, rfl, rfl, rfl, rfl⟩

theorem startDump_lost (none : s.dumpBuffer = none) (fault scope : Nat) (doms : List Nat) :
    s.startDump fault scope doms = s.raiseEv evFlt 5 := by
  rw [startDump, none]

/-- The domains that a dump asked for by the host covers. -/
def dumpDomains (s : State) : List Nat :=
  match (s.flt.records.getLast?).map (·.domain) with
  | some d => s.scopeDomains s.flt.dumpScope d
  | none => if s.flt.dumpScope = 2 then s.variant.domainList else []

/-- The header of a dump up to its CRC (Table 13-7), behind the version and the number. -/
def dumpHead (s : State) (x : Dump) : List Byte :=
  leBytes 4 x.fault ++ leBytes 1 x.scope ++ leBytes 1 (b2n x.truncated) ++ zeros 2 ++ leBytes 4 x.records.length ++
    leBytes 4 x.unreachable ++ leBytes 8 x.start.toNat ++ leBytes 8 s.supTime.toNat ++ zeros 20

/-- The bytes of a dump behind its version and number: 56 of the header, then the records. -/
def dumpRest (s : State) (x : Dump) : List Byte :=
  s.dumpHead x ++ leBytes 4 (crc32c (leBytes 4 1 ++ leBytes 4 x.ident ++ s.dumpHead x ++ zeros 4 ++ x.records.flatten)) ++
    x.records.flatten

theorem dumpRest_length (s : State) (x : Dump) : (s.dumpRest x).length = 56 + x.records.flatten.length := by
  simp only [dumpRest, dumpHead, zeros, List.length_append, leBytes_length, List.length_replicate]

/-- A dump as it stands in its buffer at its end. -/
theorem finishDump_eq {b : Nat} {x : Dump} (there : tget s.flt.dumps b = some x) :
    ∃ f, f.dumps = tput s.flt.dumps b { x with ended := true, todo := [], fin := s.supTime } ∧
      s.finishDump b = ({ s with
        mem := (s.mem.clear (dumpKey b 0) (dumpKey b 262144)).writeAll (dumpKey b 0)
          ((leBytes 4 1 ++ leBytes 4 x.ident) ++ s.dumpRest x)
        flt := f } : State).raiseEv evFlt 4 := by
  let dumps := tput s.flt.dumps b { x with ended := true, todo := [], fin := s.supTime }
  refine ⟨{ s.flt with dumps := dumps, busy := (dumps.find? fun p => !p.2.ended).map (·.1) }, rfl, ?_⟩
  rw [finishDump, there]
  dsimp only
  simp only [dumpRest, dumpHead, List.append_assoc]
  rfl

theorem dumpKey_add (b i : Nat) : dumpKey b i = dumpKey b 0 + i := rfl

/-- Exporting an ended dump writes its buffer to host memory. -/
theorem exportDump_eq {b h : Nat} {x : Dump} (there : tget s.flt.dumps b = some x) (ended : x.ended = true)
    (host : parseAddr (s.flt.dumpDest * 4096) = .host h) (fit : h + 262144 ≤ 2 ^ 56) (up : s.linkUp = true) :
    ∃ m p o, (∀ i, i < 262144 → m.read (hostKey (h + i)) = s.mem.read (dumpKey b i)) ∧ s.exportDump b = { s with
      mem := m, flt := { s.flt with dumps := tput s.flt.dumps b { x with exported := true } }, plk := p, out := o } := by
  have long : (s.mem.readAll (dumpKey b 0) 262144).length = 262144 := readAll_length ..
  obtain ⟨p, o, posted⟩ := State.post_host (s := { s with flt := { s.flt with dumps := tput s.flt.dumps b { x with exported := true } } }) host up
    (s.mem.readAll (dumpKey b 0) 262144) (by rw [long]; exact fit)
  refine ⟨s.mem.writeAll (hostKey h) (s.mem.readAll (dumpKey b 0) 262144), p, o, fun i inside => ?_, ?_⟩
  · have place : hostKey (h + i) = hostKey h + i := (Nat.add_assoc ..).symm
    rw [place, dumpKey_add b i]
    exact read_writeAll_readAll _ _ _ _ _ inside
  · rw [exportDump, there]
    dsimp only
    rw [if_pos ended]
    exact posted

end State

section
variable {s : State} (live : s.flt.fatal = false)
include live

omit live in
theorem exec_dumpNow : exec .dumpNow s = act s fun s => s.startDump 0 s.flt.dumpScope s.dumpDomains := rfl

theorem dumpNow_takes {b : Nat} (buffer : s.dumpBuffer = some b) :
    ∃ t, exec .dumpNow s = .next t ∧ (tget t.flt.dumps b).map (fun x => (x.ident, x.ended)) = some (s.flt.nextDump, false) ∧
      (∀ k, k ≠ b → tget t.flt.dumps k = tget s.flt.dumps k) ∧ t = { s with flt := t.flt } := by
  obtain ⟨f, x, taken, dumps, ident, ended⟩ := State.startDump_takes buffer 0 s.flt.dumpScope s.dumpDomains
  refine ⟨_, exec_dumpNow.trans (act_eq_next live taken), ?_, fun k ne => ?_, rfl⟩
  · dsimp only
    rw [dumps, tget_tput_same, ← ident, ← ended]
    rfl
  · dsimp only
    rw [dumps, tget_tput_ne _ _ ne]

theorem dumpNow_lost (none : s.dumpBuffer = none) :
    ∃ t, exec .dumpNow s = .next t ∧ bitAt (t.ev evFlt).value 5 = true ∧ t = { s with events := t.events, plk := t.plk, out := t.out } :=
  ⟨_, exec_dumpNow.trans (act_eq_next live (State.startDump_lost none 0 s.flt.dumpScope _) (by simp) (by simp)), raiseEv_sets .., State.raiseEv_eq ..⟩

theorem probeTimeout_counted {b d u : Nat} {x : Dump} (there : tget s.flt.dumps b = some x) (asked : (d, u) ∈ x.todo) :
    ∃ t, exec (.probeTimeout d u) s = .next t ∧
      (tget t.flt.dumps b).map (fun y => (y.unreachable, y.todo.contains (d, u))) = some (x.unreachable + 1, false) ∧
      t = { s with flt := t.flt } := by
  refine ⟨_, act_eq_next (f := (State.probeLate · d u)) live rfl, ?_, rfl⟩
  unfold State.probeLate
  dsimp only
  rw [tget_tmap, there, Option.map_some, if_pos (by simpa using asked)]
  simp

theorem dumpEnd_stands {b : Nat} {x : Dump} (only : s.flt.dumps = [(b, x)]) (running : x.ended = false)
    (short : x.records.flatten.length ≤ 262080) :
    ∃ t, exec .dumpEnd s = .next t ∧ t.flt.dumps = [(b, { x with ended := true, todo := [], fin := s.supTime })] ∧
      t.mem.readAll (dumpKey b 0) 8 = leBytes 4 1 ++ leBytes 4 x.ident ∧ bitAt (t.ev evFlt).value 4 = true ∧
      (∀ k, k < dumpKey b 0 ∨ dumpKey b 262144 ≤ k → t.mem.read k = s.mem.read k) ∧
      t = { s with mem := t.mem, flt := t.flt, events := t.events, plk := t.plk, out := t.out } := by
  have there : tget s.flt.dumps b = some x := by
    rw [only]
    exact if_pos rfl
  obtain ⟨f, dumps, finished⟩ := State.finishDump_eq there
  have ends : s.dumpEnds = s.finishDump b := by
    rw [State.dumpEnds, only]
    simp [running]
  refine ⟨_, act_eq_next (f := State.dumpEnds) live (ends.trans finished) (by simp) (by simp), ?_, ?_, raiseEv_sets .., fun k out => ?_, ?_⟩
  · rw [State.raiseEv_eq]
    dsimp only
    rw [dumps, only]
    simp [tput]
  · rw [State.raiseEv_eq]
    dsimp only
    rw [State.readAll_writeAll _ _ _ (by simp only [List.length_append, leBytes_length]; omega)]
    exact List.take_left' (by simp)
  · rw [State.raiseEv_eq]
    dsimp only
    have long : dumpKey b 0 + ((leBytes 4 1 ++ leBytes 4 x.ident) ++ s.dumpRest x).length ≤ dumpKey b 262144 := by
      rw [State.dumpKey_add b 262144]
      simp only [List.length_append, leBytes_length, s.dumpRest_length x]
      omega
    rw [Memory.read_writeAll_ne _ _ (out.imp_right long.trans), Memory.read_clear_ne _ out]
  · rw [State.raiseEv_eq]

theorem dumpExport_written {b h : Nat} {x : Dump} (there : tget s.flt.dumps b = some x) (ended : x.ended = true)
    (host : parseAddr (s.flt.dumpDest * 4096) = .host h) (fit : h + 262144 ≤ 2 ^ 56) (up : s.linkUp = true) :
    ∃ t, exec (.dumpExport b) s = .next t ∧ (tget t.flt.dumps b).map (·.exported) = some true ∧
      (∀ i, i < 262144 → t.mem.read (hostKey (h + i)) = s.mem.read (dumpKey b i)) ∧
      t = { s with mem := t.mem, flt := t.flt, plk := t.plk, out := t.out } := by
  obtain ⟨m, p, o, written, exported⟩ := State.exportDump_eq there ended host fit up
  refine ⟨_, act_eq_next (f := (State.exportDump · b)) live exported, ?_, written, rfl⟩
  dsimp only
  rw [tget_tput_same]
  rfl

end

/-- Settles O36. -/
theorem crashDumps : Obligations.CrashDumps := fun _ live =>
  ⟨fun _ => dumpNow_takes live, dumpNow_lost live, fun _ _ _ _ => probeTimeout_counted live, fun _ _ => dumpEnd_stands live,
    fun b x h there ended _ host fit up => dumpExport_written (b := b) (x := x) (h := h) live there ended host fit up⟩

end Sys2Proof.Machine
end

section
/-! SUPPORT. What the pump of the Rhizome links leaves as it is (R50, R52, R55). -/

set_option Elab.async false

namespace Sys2Proof.Machine

/-- A link direction without the traffic that the pump moves. -/
def LinkDir.kept (d : LinkDir) : LinkDir := { d with store := [], wait := [], arb := RzArb.reset, escArb := RzArb.reset }

/-- A link without the traffic that the pump moves. -/
def Link.kept (x : Link) : Link := { x with low := x.low.kept, high := x.high.kept }

theorem LinkDir.kept_setArb (d : LinkDir) (e : Bool) (a : RzArb) : (d.setArb e a).kept = d.kept := by
  cases e <;> rfl

theorem LinkDir.kept_grant (d : LinkDir) (e : Bool) (i : Nat) : (d.grant e i).kept = d.kept := by
  unfold LinkDir.grant
  extract_lets a others
  split
  · rfl
  · exact d.kept_setArb e _

theorem LinkDir.kept_release (d : LinkDir) (e : Bool) : (d.release e).kept = d.kept := by
  unfold LinkDir.release
  extract_lets ids
  split
  · rfl
  · split
    · rfl
    · split
      · exact d.kept_grant e _
      · exact d.kept_setArb e _

theorem LinkDir.kept_sent (d : LinkDir) (x : RzTransfer) (g : Option (Bool × Nat)) : (d.sent x g).kept = d.kept := by
  cases g with
  | none => rfl
  | some p => exact (LinkDir.kept_release _ p.1).trans (d.kept_grant p.1 p.2)

theorem Link.kept_setDir {k : Link} {high : Bool} {d : LinkDir} (same : d.kept = (k.dir high).kept) : (k.setDir high d).kept = k.kept := by
  cases high
  · exact congrArg (fun y : LinkDir => { k.kept with low := y }) same
  · exact congrArg (fun y : LinkDir => { k.kept with high := y }) same

theorem Link.setDir_dir (k : Link) (high : Bool) : k.setDir high (k.dir high) = k := by
  cases high <;> rfl

/-- What the pump may change: traffic of the links, a note of a starved requester, and its event. -/
structure Pumps (s t : State) : Prop where
  frame : ∃ ls x es p o, t = { s with links := ls, sel := x, events := es, plk := p, out := o }
  links : ∀ m, (t.rzLink m).kept = (s.rzLink m).kept
  bits : ∀ e b, bitAt (s.ev e).value b = true → bitAt (t.ev e).value b = true

namespace Pumps

variable {s t u : State}

theorem refl (s : State) : Pumps s s := ⟨⟨s.links, s.sel, s.events, s.plk, s.out, rfl⟩, fun _ => rfl, fun _ _ => id⟩

theorem trans (h : Pumps s t) (k : Pumps t u) : Pumps s u := by
  obtain ⟨⟨_, _, _, _, _, rfl⟩, hl, hb⟩ := h
  obtain ⟨⟨_, _, _, _, _, rfl⟩, kl, kb⟩ := k
  exact ⟨⟨_, _, _, _, _, rfl⟩, fun m => (kl m).trans (hl m), fun e b => kb e b ∘ hb e b⟩

theorem foldl {α : Type} {f : State → α → State} (step : ∀ s a, Pumps s (f s a)) (l : List α) (s : State) : Pumps s (l.foldl f s) :=
  List.foldlRecOn (motive := Pumps s) l f (refl s) fun t ht a _ => ht.trans (step t a)

/-- What the pump does not move of a link is read back. -/
theorem of_kept (h : Pumps s t) {α : Type} (f : Link → α) (hf : ∀ x, f x.kept = f x := by intro; rfl) (m : Nat) :
    f (t.rzLink m) = f (s.rzLink m) := by
  rw [← hf (t.rzLink m), h.links, hf]

theorem domains (h : Pumps s t) : t.domains = s.domains := by
  obtain ⟨⟨_, _, _, _, _, rfl⟩, -, -⟩ := h
  rfl

theorem variant (h : Pumps s t) : t.variant = s.variant := by
  obtain ⟨⟨_, _, _, _, _, rfl⟩, -, -⟩ := h
  rfl

theorem pending (h : Pumps s t) : t.pending = s.pending := by
  obtain ⟨⟨_, _, _, _, _, rfl⟩, -, -⟩ := h
  rfl

theorem ctl (h : Pumps s t) : t.ctl = s.ctl := by
  obtain ⟨⟨_, _, _, _, _, rfl⟩, -, -⟩ := h
  rfl

theorem flt (h : Pumps s t) : t.flt = s.flt := by
  obtain ⟨⟨_, _, _, _, _, rfl⟩, -, -⟩ := h
  rfl

theorem delivered (h : Pumps s t) : t.delivered = s.delivered := by
  obtain ⟨⟨_, _, _, _, _, rfl⟩, -, -⟩ := h
  rfl

end Pumps

namespace State

variable {s : State}

theorem pumps_setRzLink {l : Nat} {x : Link} (same : x.kept = (s.rzLink l).kept) : Pumps s (s.setRzLink l x) := by
  refine ⟨⟨_, _, _, _, _, rfl⟩, fun m => ?_, fun _ _ => id⟩
  by_cases here : m = l
  · subst here
    rw [setRzLink_rzLink]
    exact same
  · rw [setRzLink_rzLink_ne _ _ here]

theorem pumps_raiseEv (s : State) (e b : Nat) : Pumps s (s.raiseEv e b) := by
  refine ⟨⟨s.links, s.sel, _, _, _, raiseEv_eq s e b⟩, fun m => ?_, fun i n => raiseEv_bits s e b i n⟩
  rw [raiseEv_eq]
  rfl

theorem pumps_starved (s : State) (l : Nat) (high esc : Bool) (req holder : Nat) : Pumps s (s.starved (.rz l high esc) req holder) := by
  have noted (c : Bool) (x : Sel) : Pumps s (if c then s else { s with sel := x }) := by
    split
    · exact .refl s
    · exact ⟨⟨s.links, x, s.events, s.plk, s.out, rfl⟩, fun _ => rfl, fun _ _ => id⟩
  exact (noted _ _).trans (pumps_raiseEv ..)

theorem pumps_rzPump (s : State) (l : Nat) (high : Bool) (n : Nat) : Pumps s (s.rzPump l high n) := by
  induction n generalizing s with
  | zero => exact .refl s
  | succ n ih =>
    unfold rzPump
    extract_lets k d
    split
    · exact .refl s
    · split
      · exact .refl s
      · extract_lets d1 s1 late s2
        have sent : Pumps s s1 := pumps_setRzLink (Link.kept_setDir (LinkDir.kept_sent d _ _))
        have noted : Pumps s1 s2 := by
          unfold s2
          split
          · exact pumps_starved ..
          · exact .refl s1
        exact (sent.trans noted).trans (ih s2)

theorem pumps_rzPumpAll (s : State) : Pumps s s.rzPumpAll :=
  .foldl (fun s _ => (s.pumps_rzPump ..).trans (pumps_rzPump ..)) _ s

theorem pumps_rzForward (s : State) (n : Nat) (came : Option Nat) (x : RzTransfer) : Pumps s (s.rzForward n came x) := by
  unfold rzForward
  split
  · exact .refl s
  · split
    · exact .refl s
    · split
      · exact .refl s
      · extract_lets high h k d
        have sent : Pumps s (s.setRzLink _ (k.setDir high { d with wait := d.wait ++ [{ x with header := h }] })) :=
          pumps_setRzLink (Link.kept_setDir rfl)
        exact sent.trans (pumps_rzPump ..)

theorem pumps_rzReroute (s : State) (l : Nat) (high : Bool) : Pumps s (s.rzReroute l high) := by
  unfold rzReroute
  extract_lets k d
  have emptied : Pumps s (s.setRzLink l (k.setDir high { d with store := [], wait := [] })) :=
    pumps_setRzLink (Link.kept_setDir rfl)
  exact emptied.trans (.foldl (fun s x => pumps_rzForward ..) _ _)

/-- With nothing buffered there is nothing to pump. -/
theorem rzPumpAll_of_idle (idle : ∀ m, (s.rzLink m).low.wait = [] ∧ (s.rzLink m).high.wait = []) : s.rzPumpAll = s := by
  refine List.foldlRecOn (motive := fun t : State => t = s) _ _ rfl ?_
  rintro _ rfl l _
  obtain ⟨low, high⟩ := idle l
  dsimp only
  rw [low, List.length_nil, rzPump, high, List.length_nil, rzPump]

/-- With nothing stored or buffered there is nothing to take another way. -/
theorem rzReroute_of_idle {l : Nat} {high : Bool} (store : ((s.rzLink l).dir high).store = []) (wait : ((s.rzLink l).dir high).wait = []) :
    s.rzReroute l high = s.setRzLink l (s.rzLink l) := by
  have emptied {d : LinkDir} (store : d.store = []) (wait : d.wait = []) : { d with store := [], wait := [] } = d := by
    cases d
    simp_all
  rw [rzReroute, emptied store wait, store, wait, Link.setDir_dir]
  rfl

end State

end Sys2Proof.Machine
end

section
/-! O20. The end of a retrain of a Rhizome link, and its detour (R54, R55). -/

set_option Elab.async false

namespace Sys2Proof.Machine

namespace State

variable {s : State} {l : Nat}

/-- The link as the end of its retrain leaves it, up. -/
def retrained (s : State) (l : Nat) : State :=
  s.setRzLink l { s.rzLink l with
    recent := (s.rzLink l).recent.filter fun t => ((s.dom (dieDomain (linkEnds l).1)).time - t).toNat ≤ 1000000000
    state := .up
    holding := false }

theorem rzRetrained_up (present : s.variant.link l = true) (retrain : (s.rzLink l).state = .retrain) (few : (s.rzLink l).recent.length < 3) :
    s.rzRetrained l true = (s.retrained l).rzPumpAll := by
  have few' := lt_of_le_of_lt (List.length_filter_le
    (fun t => ((s.dom (dieDomain (linkEnds l).1)).time - t).toNat ≤ 1000000000) (s.rzLink l).recent) few
  rw [rzRetrained, if_neg (by simp [present, retrain])]
  dsimp only
  rw [if_pos (by simpa using few')]
  rfl

theorem rzRetrained_down (present : s.variant.link l = true) (retrain : (s.rzLink l).state = .retrain) :
    s.rzRetrained l false = (s.retrained l).rzDown l := by
  rw [rzRetrained, if_neg (by simp [present, retrain])]
  rfl

/-- The link down, told to its ends. -/
def downed (s : State) (l : Nat) : State :=
  ((s.setRzLink l { s.rzLink l with
    state := .down, detour := false, holding := true, steps := [(s.dom (dieDomain (linkEnds l).1)).time] }).sendCtl (.linkDown l)).raiseEv evRz 2

/-- The link marked as detoured, with the steps of R55 stamped. -/
def marked (s : State) (l : Nat) : State :=
  let t := (s.dom (dieDomain (linkEnds l).1)).time
  s.setRzLink l { s.rzLink l with
    detour := true, holding := false, steps := (s.rzLink l).steps.take 1 ++ [t, t, t, t] }

/-- What waited at the link or was not acknowledged, sent the other way. -/
def rerouted (s : State) (l : Nat) : State := (s.rzReroute l false).rzReroute l true

theorem rzDown_of_open (opened : ∀ n ∈ detourDies l, s.isOpen (fabricDomain n) = true ∧ s.isOpen (7 * n + 6) = true) :
    s.rzDown l = ((((s.downed l).marked l).rerouted l).sendCtl (.detour l)).raiseEv evRz 3 := by
  have all : ((detourDies l).all fun n => (s.downed l).isOpen (fabricDomain n) && (s.downed l).isOpen (7 * n + 6)) = true := by
    rw [List.all_eq_true, downed, raiseEv_eq]
    intro n mem
    obtain ⟨router, cache⟩ := opened n mem
    exact Bool.and_eq_true_iff.mpr ⟨router, cache⟩
  exact if_pos all

theorem rerouted_of_idle (low : (s.rzLink l).low.store = [] ∧ (s.rzLink l).low.wait = [])
    (high : (s.rzLink l).high.store = [] ∧ (s.rzLink l).high.wait = []) :
    (∃ ls, s.rerouted l = { s with links := ls }) ∧ ∀ m, (s.rerouted l).rzLink m = s.rzLink m := by
  have same (s : State) (m : Nat) : (s.setRzLink l (s.rzLink l)).rzLink m = s.rzLink m := by
    by_cases here : m = l
    · rw [here, setRzLink_rzLink]
    · exact setRzLink_rzLink_ne _ _ here
  have first : s.rzReroute l false = s.setRzLink l (s.rzLink l) := rzReroute_of_idle low.1 low.2
  rw [rerouted, first, rzReroute_of_idle (by rw [same]; exact high.1) (by rw [same]; exact high.2)]
  exact ⟨⟨_, rfl⟩, fun m => (same _ m).trans (same s m)⟩

theorem raiseEv_rzLink (s : State) (e b m : Nat) : (s.raiseEv e b).rzLink m = s.rzLink m := by
  rw [raiseEv_eq]
  rfl

theorem sendCtl_rzLink (s : State) (c : CtlMsg) (m : Nat) : (s.sendCtl c).rzLink m = s.rzLink m := rfl

theorem downed_spec (s : State) (l : Nat) :
    (∃ ls es p o, s.downed l = { s with links := ls, ctl := s.ctl ++ [.linkDown l], events := es, plk := p, out := o }) ∧
      (s.downed l).rzLink l = { s.rzLink l with
        state := .down, detour := false, holding := true, steps := [(s.dom (dieDomain (linkEnds l).1)).time] } ∧
      (∀ m, m ≠ l → (s.downed l).rzLink m = s.rzLink m) ∧ bitAt ((s.downed l).ev evRz).value 2 = true := by
  refine ⟨?_, ?_, fun m ne => ?_, raiseEv_sets ..⟩
  · rw [downed, raiseEv_eq]
    exact ⟨_, _, _, _, rfl⟩
  · rw [downed, raiseEv_rzLink, sendCtl_rzLink, setRzLink_rzLink]
  · rw [downed, raiseEv_rzLink, sendCtl_rzLink, setRzLink_rzLink_ne _ _ ne]

theorem pumps_rerouted (s : State) (l : Nat) : Pumps s (s.rerouted l) :=
  (s.pumps_rzReroute l false).trans (pumps_rzReroute ..)

theorem marked_rzLink (s : State) (l : Nat) : (s.marked l).rzLink l = { s.rzLink l with
    detour := true, holding := false
    steps := (s.rzLink l).steps.take 1 ++ List.replicate 4 (s.dom (dieDomain (linkEnds l).1)).time } :=
  setRzLink_rzLink ..

/-- A link that goes down with every die on its detour open. -/
theorem rzDown_spec (opened : ∀ n ∈ detourDies l, s.isOpen (fabricDomain n) = true ∧ s.isOpen (7 * n + 6) = true) :
    let t := s.rzDown l
    t.pending = s.pending ∧ t.variant = s.variant ∧ (t.rzLink l).state = .down ∧ (t.rzLink l).detour = true ∧
      (t.rzLink l).holding = false ∧ t.ctl = s.ctl ++ [.linkDown l, .detour l] ∧
      bitAt (t.ev evRz).value 2 = true ∧ bitAt (t.ev evRz).value 3 = true ∧
      (∀ m, m ≠ l → (t.rzLink m).state = (s.rzLink m).state ∧ (t.rzLink m).detour = (s.rzLink m).detour) ∧
      ((s.rzLink l).low.store = [] → (s.rzLink l).low.wait = [] → (s.rzLink l).high.store = [] → (s.rzLink l).high.wait = [] →
        (∀ m, m ≠ l → t.rzLink m = s.rzLink m) ∧
        ∃ ls c es p o, t = { s with links := ls, ctl := c, events := es, plk := p, out := o }) := by
  obtain ⟨frame, here, others, told⟩ := downed_spec s l
  have t_eq : s.rzDown l = ((((s.downed l).marked l).rerouted l).sendCtl (.detour l)).raiseEv evRz 3 := rzDown_of_open opened
  generalize s.downed l = y at *
  have z_here := y.marked_rzLink l
  have moved : Pumps (y.marked l) ((y.marked l).rerouted l) := pumps_rerouted _ l
  obtain ⟨z, z_eq⟩ : ∃ z, z = y.marked l := ⟨_, rfl⟩
  obtain ⟨w, w_eq⟩ : ∃ w, w = z.rerouted l := ⟨_, rfl⟩
  rw [← z_eq, ← w_eq] at t_eq moved
  rw [← z_eq] at z_here
  have links (m : Nat) : ((w.sendCtl (.detour l)).raiseEv evRz 3).rzLink m = w.rzLink m :=
    (raiseEv_rzLink ..).trans (sendCtl_rzLink ..)
  have z_frame : ∃ ls es p o, z = { s with links := ls, ctl := s.ctl ++ [.linkDown l], events := es, plk := p, out := o } := by
    obtain ⟨_, _, _, _, rfl⟩ := frame
    exact ⟨_, _, _, _, z_eq⟩
  have z_other (m : Nat) (ne : m ≠ l) : z.rzLink m = s.rzLink m := by
    rw [z_eq, marked, setRzLink_rzLink_ne _ _ ne, others m ne]
  have kept {α : Type} (f : Link → α) (hf : ∀ x, f x.kept = f x := by intro; rfl) (m : Nat) :
      f ((s.rzDown l).rzLink m) = f (z.rzLink m) := by
    rw [t_eq, links, moved.of_kept f hf]
  have told_z : bitAt (z.ev evRz).value 2 = true := by rw [z_eq]; exact told
  have ctl : w.ctl = s.ctl ++ [.linkDown l] := by
    obtain ⟨_, _, _, _, rfl⟩ := z_frame
    exact moved.ctl
  have still : w.pending = s.pending ∧ w.variant = s.variant := by
    obtain ⟨_, _, _, _, rfl⟩ := z_frame
    exact ⟨moved.pending, moved.variant⟩
  refine ⟨?_, ?_, ?_, ?_, ?_, ?_, ?_, ?_, fun m ne => ⟨?_, ?_⟩, fun ls lw hs hw => ?_⟩
  · rw [t_eq, raiseEv_eq]
    exact still.1
  · rw [t_eq, raiseEv_eq]
    exact still.2
  · rw [kept (·.state), z_here, here]
  · rw [kept (·.detour), z_here]
  · rw [kept (·.holding), z_here]
  · rw [t_eq, raiseEv_eq]
    change w.ctl ++ [.detour l] = _
    rw [ctl, List.append_assoc]
    rfl
  · rw [t_eq]
    exact raiseEv_bits _ _ _ _ _ (moved.bits evRz 2 told_z)
  · rw [t_eq]
    exact raiseEv_sets ..
  · rw [kept (·.state), z_other m ne]
  · rw [kept (·.detour), z_other m ne]
  · obtain ⟨⟨_, idle⟩, same⟩ : (∃ ls, z.rerouted l = { z with links := ls }) ∧ ∀ m, (z.rerouted l).rzLink m = z.rzLink m :=
      rerouted_of_idle (by rw [z_here, here]; exact ⟨ls, lw⟩) (by rw [z_here, here]; exact ⟨hs, hw⟩)
    refine ⟨fun m ne => ?_, ?_⟩
    · rw [t_eq, links, w_eq, same, z_other m ne]
    · obtain ⟨_, _, _, _, rfl⟩ := z_frame
      rw [t_eq, raiseEv_eq, w_eq, idle]
      exact ⟨_, _, _, _, _, rfl⟩

/-- A hang of the routers of a base die, open. -/
theorem fabricHang_spec {n : Nat} (base : n < 8) (die : s.variant.die n = true) (opened : s.isOpen (fabricDomain n) = true) :
    let t := s.hang (fabricDomain n) 3 2
    t.pending = s.pending ∧ t.variant = s.variant ∧ (t.dom (fabricDomain n)).state = .fenced ∧ bitAt (t.ev evFlt).value 0 = true ∧
      (∀ e, e ≠ fabricDomain n → t.dom e = s.dom e) := by
  have group : s.variant.group n = true := by rwa [Variant.die, if_pos base] at die
  have present : s.variant.domain (fabricDomain n) = true :=
    (domain_of_group (m := 5) group (by decide)).2
  have unit : 3 ∈ domainUnits (fabricDomain n) := by
    have all : ∀ n < 8, 3 ∈ domainUnits (fabricDomain n) := by decide
    exact all n base
  have other : fabricDomain n ≠ 78 := by
    unfold fabricDomain
    omega
  rw [hang_of_opened present unit _ (beq_iff_eq.mp opened)]
  obtain ⟨pending, variant, fenced, -, -, bit, -, -, others⟩ := hangOpen_fences (s := s) (u := 3) (cls := 2) other
  exact ⟨pending, variant, fenced, bit, others⟩

theorem base_linkEnds {l : Nat} (base : l < 12) :
    (linkEnds l).1 < 8 ∧ (linkEnds l).2 < 8 ∧ (linkEnds l).1 ≠ (linkEnds l).2 := by
  have all : ∀ l < 12, (linkEnds l).1 < 8 ∧ (linkEnds l).2 < 8 ∧ (linkEnds l).1 ≠ (linkEnds l).2 := by decide
  exact all l base

theorem detourLate_eq (base : l < 12) (present : s.variant.link l = true) (down : (s.rzLink l).state = .down)
    (late : (s.rzLink l).detour = false) :
    s.detourLate l = (s.hang (fabricDomain (linkEnds l).1) 3 2).hang (fabricDomain (linkEnds l).2) 3 2 := by
  obtain ⟨low, high, -⟩ := base_linkEnds base
  rw [detourLate]
  dsimp only
  rw [if_pos ⟨present, down, late⟩]
  simp [low, high]

end State

/-- Settles O20: the pump moves only the traffic of the links, so what the retrain or the detour sets stands after it; a detour
that is late is a hang of the routers at each end. -/
theorem linksRetrainOrGoDown : Obligations.LinksRetrainOrGoDown := by
  intro s l live present
  refine ⟨fun retrain few => ?_, fun retrain opened => ?_, fun base down late low high => ?_⟩
  · have moved := (s.retrained l).pumps_rzPumpAll
    have here := State.setRzLink_rzLink s l
    refine ⟨_, act_eq_next (f := (State.rzRetrained · l true)) live (State.rzRetrained_up present retrain few) moved.pending
      moved.variant, ?_, ?_, fun m ne => ⟨?_, ?_⟩, fun idle => ?_⟩
    · rw [moved.of_kept (·.state), State.retrained, here]
    · rw [moved.of_kept (·.holding), State.retrained, here]
    · rw [moved.of_kept (·.state), State.retrained, State.setRzLink_rzLink_ne _ _ ne]
    · rw [moved.of_kept (·.detour), State.retrained, State.setRzLink_rzLink_ne _ _ ne]
    · rw [State.rzPumpAll_of_idle]
      · exact ⟨fun m ne => State.setRzLink_rzLink_ne _ _ ne, rfl⟩
      · intro m
        by_cases at_l : m = l
        · rw [at_l, State.retrained, here]
          exact idle l
        · rw [State.retrained, State.setRzLink_rzLink_ne _ _ at_l]
          exact idle m
  · have here := State.setRzLink_rzLink s l
    have others (m : Nat) (ne : m ≠ l) : (s.retrained l).rzLink m = s.rzLink m := State.setRzLink_rzLink_ne _ _ ne
    obtain ⟨pending, variant, state, detour, holding, ctl, bit2, bit3, kept, quiet⟩ :=
      (s.retrained l).rzDown_spec (l := l) opened
    refine ⟨_, act_eq_next (f := (State.rzRetrained · l false)) live (State.rzRetrained_down present retrain) pending variant,
      state, detour, holding, ctl, bit2, bit3, fun m ne => ?_, fun ls lw hs hw => ?_⟩
    · rw [← others m ne]
      exact kept m ne
    · obtain ⟨same, _, _, _, _, _, frame⟩ := quiet (by rw [State.retrained, here]; exact ls) (by rw [State.retrained, here]; exact lw)
        (by rw [State.retrained, here]; exact hs) (by rw [State.retrained, here]; exact hw)
      refine ⟨fun m ne => (same m ne).trans (others m ne), ?_⟩
      generalize (s.retrained l).rzDown l = t at frame
      rw [frame]
      rfl
  · obtain ⟨lowBase, highBase, apart⟩ := State.base_linkEnds base
    obtain ⟨⟨-, lowDie⟩, highDie⟩ : (l < 22 ∧ s.variant.die (linkEnds l).1 = true) ∧ s.variant.die (linkEnds l).2 = true := by
      simpa only [Variant.link, Bool.and_eq_true, decide_eq_true_eq] using present
    obtain ⟨pending, variant, fenced, -, others⟩ := s.fabricHang_spec lowBase lowDie low
    have eq := State.detourLate_eq base present down late
    generalize s.hang (fabricDomain (linkEnds l).1) 3 2 = u at *
    have ne : fabricDomain (linkEnds l).2 ≠ fabricDomain (linkEnds l).1 := by
      unfold fabricDomain
      omega
    have high' : u.isOpen (fabricDomain (linkEnds l).2) = true := by
      rw [State.isOpen, others _ ne]
      exact high
    obtain ⟨pending', variant', fenced', bit, others'⟩ := u.fabricHang_spec highBase (by rw [variant]; exact highDie) high'
    refine ⟨_, act_eq_next (f := (State.detourLate · l)) live eq (pending'.trans pending) (variant'.trans variant), ?_, fenced', bit⟩
    rw [others' _ ne.symm]
    exact fenced

end Sys2Proof.Machine
end

section
/-! O19. Transfers over a Rhizome link at their end (R51, R52, R54, R341). -/

set_option Elab.async false

namespace Sys2Proof.Machine

theorem Link.dir_setDir (k : Link) (high : Bool) (d : LinkDir) : (k.setDir high d).dir high = d := by
  cases high <;> rfl

theorem Link.dir_kept (k : Link) (high : Bool) : (k.kept.dir high).bad = (k.dir high).bad := by
  cases high <;> rfl

namespace LinkDir

variable {d : LinkDir} {x : RzTransfer} {b : RzBad}

theorem missed_of_none (none : ∀ b ∈ d.bad, rzSet b.transfer ≠ rzSet x) (crc : Nat) :
    d.missed x crc = { d with bad := d.bad ++ [{ transfer := x, crc := crc, failed := 0 }] } := by
  have absent : ¬ (d.bad.any fun b => rzSet b.transfer == rzSet x) = true := by
    rw [List.any_eq_true]
    rintro ⟨b, mem, same⟩
    exact none b mem (beq_iff_eq.mp same)
  exact if_neg absent

theorem failures_of_none (none : ∀ b ∈ d.bad, rzSet b.transfer ≠ rzSet x) : d.failures x = 0 := by
  have absent : (d.bad.find? fun b => rzSet b.transfer == rzSet x) = Option.none := by
    rw [List.find?_eq_none]
    exact fun b mem same => none b mem (beq_iff_eq.mp same)
  rw [failures, absent]

theorem failures_of_some (found : d.bad.find? (fun b => rzSet b.transfer == rzSet x) = some b) : d.failures x = b.failed + 1 := by
  rw [failures, found]

theorem find_missed (found : d.bad.find? (fun b => rzSet b.transfer == rzSet x) = some b) (crc : Nat) :
    (d.missed x crc).bad.find? (fun b => rzSet b.transfer == rzSet x) = some { b with failed := b.failed + 1 } := by
  have present : (d.bad.any fun b => rzSet b.transfer == rzSet x) = true :=
    List.any_eq_true.mpr ⟨b, List.mem_of_find?_eq_some found, List.find?_some (p := fun b : RzBad => rzSet b.transfer == rzSet x) found⟩
  have same : ((fun b => rzSet b.transfer == rzSet x) ∘ fun b : RzBad => if rzSet b.transfer == rzSet x then { b with failed := b.failed + 1 } else b) =
      fun b => rzSet b.transfer == rzSet x := by
    funext b
    dsimp only [Function.comp]
    split <;> rfl
  rw [missed, if_pos present]
  dsimp only
  rw [List.find?_map, same, found, Option.map_some,
    if_pos (List.find?_some (p := fun b : RzBad => rzSet b.transfer == rzSet x) found)]

end LinkDir

namespace State

variable {s : State} {l : Nat} {high : Bool} {x : RzTransfer}

/-! ### Delivery at the Peristome (R341) -/

theorem countStale_frame (s : State) (die d : Nat) : ∃ f, s.countStale die d = { s with flt := f } := by
  unfold countStale
  extract_lets s1 id
  split
  · exact ⟨_, rfl⟩
  · exact ⟨_, rfl⟩

theorem countStale_stale (s : State) (die d : Nat) :
    tgetD (s.countStale die d).flt.stale die 0 = satAdd 32 (tgetD s.flt.stale die 0) 1 := by
  unfold countStale
  extract_lets s1 id
  split
  · exact tgetD_tput_same ..
  · exact tgetD_tput_same s.flt.stale die _ 0

theorem countStale_fault {d : Nat} {r : FaultRecord} (die : Nat) (found : s.fault (s.dom d).lastRecord = some r)
    (some' : (s.dom d).lastRecord ≠ 0) : ((s.countStale die d).fault r.ident).map (·.stale) = some (satAdd 16 r.stale 1) := by
  have ident : r.ident = (s.dom d).lastRecord := beq_iff_eq.mp (List.find?_some (p := fun r : FaultRecord => r.ident == (s.dom d).lastRecord) found)
  let f : FaultRecord → FaultRecord := fun y => if y.ident = (s.dom d).lastRecord then { y with stale := satAdd 16 y.stale 1 } else y
  have keeps : Closing f := fun y => by
    unfold f
    split
    · exact ⟨rfl, id⟩
    · exact ⟨rfl, id⟩
  have records : (s.countStale die d).flt.records = s.flt.records.map f := by
    have counted : s.countStale die d = ({ s with flt := { s.flt with
        stale := tput s.flt.stale die (satAdd 32 (tgetD s.flt.stale die 0) 1) } } : State).modFault (s.dom d).lastRecord
          fun r => { r with stale := satAdd 16 r.stale 1 } := if_neg some'
    rw [counted]
    rfl
  rw [fault_of_map keeps records, ident, found]
  exact congrArg some (congrArg FaultRecord.stale (if_pos ident))

theorem rzDeliver_frame (s : State) (l : Nat) (x : RzTransfer) : ∃ f dl, s.rzDeliver l x = { s with flt := f, delivered := dl } := by
  have stale (die d : Nat) : ∃ f dl, s.countStale die d = { s with flt := f, delivered := dl } := by
    obtain ⟨f, h⟩ := s.countStale_frame die d
    exact ⟨f, s.delivered, h⟩
  unfold rzDeliver
  extract_lets h die d
  split
  · exact stale ..
  · split
    · split
      · exact stale ..
      · split
        · exact ⟨_, _, rfl⟩
        · exact stale ..
    · exact ⟨_, _, rfl⟩

theorem rzDeliver_request (request : rzClass x.header = 0)
    (current : rzEpoch x.header = (s.epochAt (rzDstDie x.header) (rzSrcDomain x.header)).toNat) :
    s.rzDeliver l x = { s with delivered := s.delivered ++ [{ link := l, transfer := x }] } := by
  rw [rzDeliver]
  rw [if_neg (not_not.mpr current), if_neg (by rw [request]; decide)]

theorem rzDeliver_stale (old : rzEpoch x.header ≠ (s.epochAt (rzDstDie x.header) (rzSrcDomain x.header)).toNat) :
    s.rzDeliver l x = s.countStale (rzDstDie x.header) (rzSrcDomain x.header) := by
  rw [rzDeliver]
  rw [if_pos old]

/-! ### Taking a good transfer (R52, R54) -/

/-- The sender's replay store and the receiver's waits once a good transfer is acknowledged. -/
def acknowledged (s : State) (l : Nat) (high : Bool) (x : RzTransfer) : State :=
  (s.setRzLink l ((s.rzLink l).setDir high (((s.rzLink l).dir high).acked x))).sendCtl (.rzAck l high)

/-- What the acknowledgement lets go on, then. -/
def pumped (s : State) (l : Nat) (high : Bool) (x : RzTransfer) : State :=
  let s0 := s.acknowledged l high x
  if rzEsc x then s0.rzPumpAll else s0.rzPump l high ((s.rzLink l).dir high).wait.length

theorem pumps_pumped (s : State) (l : Nat) (high : Bool) (x : RzTransfer) : Pumps (s.acknowledged l high x) (s.pumped l high x) := by
  unfold pumped
  dsimp only
  split
  · exact pumps_rzPumpAll ..
  · exact pumps_rzPump ..

theorem pumped_of_idle (wait : ((s.rzLink l).dir high).wait = []) (plain : rzEsc x = false) :
    s.pumped l high x = s.acknowledged l high x := by
  rw [pumped, plain, wait]
  rfl

theorem rzReceive_good (present : s.variant.link l = true) (up : (s.rzLink l).state = .up) {crc : Nat} (good : rzCrc x = crc)
    (formed : rzFormed l x = true) (order : ((s.rzLink l).dir high).ahead x = false)
    (arrived : s.nextHop (rzEnd l high) (some (rzEnd l !high)) x.header = none) :
    s.rzReceive l high x crc = (s.pumped l high x).rzDeliver l x := by
  rw [rzReceive]
  dsimp only
  rw [if_neg (by simp [present, up]), if_pos good, order, if_neg (by decide), rzTake]
  rw [if_pos formed, arrived]
  rfl

theorem rzReceive_ahead (present : s.variant.link l = true) (up : (s.rzLink l).state = .up) {crc : Nat} (good : rzCrc x = crc)
    (order : ((s.rzLink l).dir high).ahead x = true) : s.rzReceive l high x crc = s := by
  rw [rzReceive]
  dsimp only
  rw [if_neg (by simp [present, up]), if_pos good, if_pos order]

/-- A bad transfer is noted and its replay asked for. -/
def replayAsked (s : State) (l : Nat) (high : Bool) (x : RzTransfer) (crc : Nat) : State :=
  ((s.setRzLink l { (s.rzLink l).setDir high (((s.rzLink l).dir high).missed x crc) with
    replays := satAdd 16 (s.rzLink l).replays 1 }).sendCtl (.rzReplay l high)).raiseEv evRz 0

theorem rzReceive_bad (present : s.variant.link l = true) (up : (s.rzLink l).state = .up) {crc : Nat} (bad : rzCrc x ≠ crc) :
    s.rzReceive l high x crc =
      if 8 ≤ ((s.rzLink l).dir high).failures x then (s.replayAsked l high x crc).rzRetrain l else s.replayAsked l high x crc := by
  rw [rzReceive]
  dsimp only
  rw [if_neg (by simp [present, up]), if_neg bad]
  rfl

theorem replayAsked_frame (s : State) (l : Nat) (high : Bool) (x : RzTransfer) (crc : Nat) :
    ∃ ls es p o, s.replayAsked l high x crc =
      { s with links := ls, ctl := s.ctl ++ [.rzReplay l high], events := es, plk := p, out := o } := by
  rw [replayAsked, raiseEv_eq]
  exact ⟨_, _, _, _, rfl⟩

theorem replayAsked_rzLink (s : State) (l : Nat) (high : Bool) (x : RzTransfer) (crc : Nat) :
    (s.replayAsked l high x crc).rzLink l = { (s.rzLink l).setDir high (((s.rzLink l).dir high).missed x crc) with
      replays := satAdd 16 (s.rzLink l).replays 1 } := by
  rw [replayAsked, raiseEv_rzLink, sendCtl_rzLink, setRzLink_rzLink]

theorem replayAsked_spec (up : (s.rzLink l).state = .up) (x : RzTransfer) (crc : Nat) :
    let t := s.replayAsked l high x crc
    (t.rzLink l).dir high = ((s.rzLink l).dir high).missed x crc ∧ (t.rzLink l).state = .up ∧
      (t.rzLink l).replays = satAdd 16 (s.rzLink l).replays 1 ∧ bitAt (t.ev evRz).value 0 = true := by
  refine ⟨?_, ?_, ?_, raiseEv_sets ..⟩
  · rw [replayAsked_rzLink]
    cases high <;> rfl
  · rw [replayAsked_rzLink]
    cases high <;> exact up
  · rw [replayAsked_rzLink]

theorem rzRetrain_spec (s : State) (l : Nat) :
    (∃ ls es p o, s.rzRetrain l = { s with links := ls, events := es, plk := p, out := o }) ∧ ((s.rzRetrain l).rzLink l).state = .retrain ∧
      bitAt ((s.rzRetrain l).ev evRz).value 1 = true := by
  refine ⟨?_, ?_, raiseEv_sets ..⟩
  · rw [rzRetrain, raiseEv_eq]
    exact ⟨_, _, _, _, rfl⟩
  · rw [rzRetrain, raiseEv_rzLink, setRzLink_rzLink]

end State

/-! ### Routes with no detour (R51) -/

theorem hopAfter_of_last {n : Nat} (prev : Nat) (came : Option Nat) {p : List (Nat × Bool)} (last : ∀ q ∈ p.dropLast, q.1 ≠ n) :
    hopAfter prev n came p = none ∨ hopAfter prev n came p = some none := by
  induction p generalizing prev with
  | nil => exact .inl rfl
  | cons q r ih =>
    obtain ⟨m, e⟩ := q
    rw [hopAfter]
    cases r with
    | nil =>
      split
      · exact .inr rfl
      · exact .inl rfl
    | cons q' r =>
      rw [List.dropLast_cons_cons] at last
      rw [if_neg fun here => last (m, e) (List.mem_cons_self ..) here.1]
      exact ih m fun q mem => last q (List.mem_cons_of_mem _ mem)

namespace State

variable {s t : State}

theorem gateDie_congr (same : ∀ a b, s.around a b = t.around a b) (edge : Nat) (far : Bool) : s.gateDie edge far = t.gateDie edge far := by
  simp only [gateDie, same]

theorem cubeRoute_congr (same : ∀ a b, s.around a b = t.around a b) (n dst fuel : Nat) : s.cubeRoute n dst fuel = t.cubeRoute n dst fuel := by
  induction fuel generalizing n with
  | zero => rfl
  | succ fuel ih => simp only [cubeRoute, same, ih]

theorem route_congr (same : ∀ a b, s.around a b = t.around a b) (src dst : Nat) : s.route src dst = t.route src dst := by
  simp only [route, same, cubeRoute_congr same, gateDie_congr same]

/-- No route of the undisturbed package passes its destination before it ends. -/
theorem reset_route_ends : ∀ src < 12, ∀ dst < 12, ∀ q ∈ (State.reset.route src dst).dropLast, q.1 ≠ dst := by
  decide

theorem nextHop_at_end (straight : ∀ l, (s.rzLink l).detour = false) {h : DWord} (src : rzSrcDie h < 12) (dst : rzDstDie h < 12) (came : Nat) :
    s.nextHop (rzDstDie h) (some came) h = none := by
  have same (a b : Nat) : s.around a b = State.reset.around a b := by
    have none_around (u : State) (straight : ∀ l, (u.rzLink l).detour = false) : u.around a b = false := by
      unfold around
      cases linkOf a b with
      | none => rfl
      | some l => exact straight l
    rw [none_around s straight, none_around State.reset fun _ => rfl]
  have ends : ∀ q ∈ (s.route (rzSrcDie h) (rzDstDie h)).dropLast, q.1 ≠ rzDstDie h := by
    rw [route_congr same]
    exact reset_route_ends _ src _ dst
  have here : s.route (rzDstDie h) (rzDstDie h) = [] := if_pos rfl
  rw [nextHop]
  rw [here, if_neg (by simp)]
  rcases hopAfter_of_last (rzSrcDie h) (some came) ends with first | first <;>
    rcases hopAfter_of_last (rzSrcDie h) none ends with second | second <;> rw [first, second] <;> rfl

end State

namespace State

variable {s : State} {l : Nat} {high : Bool} {x : RzTransfer}

/-- A good transfer at its destination: acknowledged, out of the replay store, and at the Peristome. -/
theorem delivered_spec (s : State) (l : Nat) (high : Bool) (x : RzTransfer) :
    let t := (s.pumped l high x).rzDeliver l x
    let d := (s.rzLink l).dir high
    t.pending = s.pending ∧ t.variant = s.variant ∧ t.ctl = s.ctl ++ [.rzAck l high] ∧
      ((t.rzLink l).dir high).bad = d.bad.filter (fun b => !b.replayedBy x) ∧
      (d.wait = [] → rzEsc x = false → ((t.rzLink l).dir high).store = d.store.erase (x, rzCrc x) ∧
        (∀ m, m ≠ l → t.rzLink m = s.rzLink m)) := by
  obtain ⟨_, _, given⟩ := (s.pumped l high x).rzDeliver_frame l x
  have moved := s.pumps_pumped l high x
  have here : (s.acknowledged l high x).rzLink l = (s.rzLink l).setDir high (((s.rzLink l).dir high).acked x) :=
    (sendCtl_rzLink ..).trans (setRzLink_rzLink ..)
  dsimp only
  rw [given]
  refine ⟨moved.pending, moved.variant, moved.ctl, ?_, fun wait plain => ⟨?_, fun m ne => ?_⟩⟩
  · refine (moved.of_kept (fun k => (k.dir high).bad) (fun k => k.dir_kept high) l).trans ?_
    rw [here, Link.dir_setDir]
    rfl
  · change (((s.pumped l high x).rzLink l).dir high).store = _
    rw [pumped_of_idle wait plain, here, Link.dir_setDir]
    rfl
  · change (s.pumped l high x).rzLink m = _
    rw [pumped_of_idle wait plain]
    exact setRzLink_rzLink_ne _ _ ne

theorem epochAt_congr {t : State} (domains : t.domains = s.domains) (die d : Nat) : t.epochAt die d = s.epochAt die d := by
  unfold epochAt dom
  rw [domains]

theorem fault_congr {t : State} (flt : t.flt = s.flt) (n : Nat) : t.fault n = s.fault n := by
  unfold fault
  rw [flt]

/-- A request of the present epoch passes. -/
theorem delivered_request (request : rzClass x.header = 0)
    (current : rzEpoch x.header = (s.epochAt (rzDstDie x.header) (rzSrcDomain x.header)).toNat) :
    ((s.pumped l high x).rzDeliver l x).delivered = s.delivered ++ [{ link := l, transfer := x }] ∧
      (((s.rzLink l).dir high).wait = [] → rzEsc x = false →
        ∃ ls c dl, (s.pumped l high x).rzDeliver l x = { s with links := ls, ctl := c, delivered := dl }) := by
  have moved := s.pumps_pumped l high x
  have domains : (s.pumped l high x).domains = s.domains := moved.domains
  rw [← epochAt_congr domains] at current
  rw [rzDeliver_request request current]
  refine ⟨congrArg (· ++ _) moved.delivered, fun wait plain => ?_⟩
  rw [pumped_of_idle wait plain]
  exact ⟨_, _, _, rfl⟩

/-- A transfer of an earlier epoch is dropped and counted. -/
theorem delivered_stale (old : rzEpoch x.header ≠ (s.epochAt (rzDstDie x.header) (rzSrcDomain x.header)).toNat) :
    let t := (s.pumped l high x).rzDeliver l x
    t.delivered = s.delivered ∧
      tgetD t.flt.stale (rzDstDie x.header) 0 = satAdd 32 (tgetD s.flt.stale (rzDstDie x.header) 0) 1 ∧
      (∀ r, s.fault (s.dom (rzSrcDomain x.header)).lastRecord = some r → (s.dom (rzSrcDomain x.header)).lastRecord ≠ 0 →
        (t.fault r.ident).map (·.stale) = some (satAdd 16 r.stale 1)) ∧
      (((s.rzLink l).dir high).wait = [] → rzEsc x = false → ∃ ls c f, t = { s with links := ls, ctl := c, flt := f }) := by
  have moved := s.pumps_pumped l high x
  have idle := s.pumped_of_idle (l := l) (high := high) (x := x)
  have flt : (s.pumped l high x).flt = s.flt := moved.flt
  have domains : (s.pumped l high x).domains = s.domains := moved.domains
  have delivered : (s.pumped l high x).delivered = s.delivered := moved.delivered
  rw [← epochAt_congr domains] at old
  dsimp only
  rw [rzDeliver_stale old]
  have dom : (s.pumped l high x).dom (rzSrcDomain x.header) = s.dom (rzSrcDomain x.header) := by
    unfold State.dom
    rw [domains]
  generalize s.pumped l high x = u at *
  obtain ⟨f, counted⟩ := u.countStale_frame (rzDstDie x.header) (rzSrcDomain x.header)
  refine ⟨?_, ?_, fun r found some' => ?_, fun wait plain => ?_⟩
  · rw [counted]
    exact delivered
  · rw [countStale_stale, flt]
  · rw [← dom] at found some'
    rw [← fault_congr flt] at found
    exact countStale_fault _ found some'
  · rw [counted, idle wait plain]
    exact ⟨_, _, _, rfl⟩

end State

/-- Settles O19: the pump that an acknowledgement lets go on moves only the traffic of the links, so the transfer is judged at the
Peristome of the state before it; a bad one stays with the receiver until its replay. -/
theorem transfersAreCheckedAtTheirEnd : Obligations.TransfersAreCheckedAtTheirEnd := by
  refine ⟨fun s l high h payload crc live present up => ⟨fun good formed order dst arrived => ?_, fun bad => ⟨fun none => ?_,
    fun b found => ⟨fun few => ?_, fun many => ?_⟩⟩, fun good order => ?_⟩, fun s h came straight src dst => s.nextHop_at_end straight src dst came⟩
  all_goals
    let x : RzTransfer := { header := h, payload := payload }
    let recv (u : State) := u.rzReceive l high x crc.toNat
  · obtain ⟨pending, variant, ctl, awaited, idle⟩ := s.delivered_spec l high x
    refine ⟨_, act_eq_next (f := recv) live (State.rzReceive_good present up good formed order arrived) pending variant, ctl, awaited,
      fun wait plain => ?_, fun request current => ?_, fun old => ?_⟩
    · rw [← good]
      exact idle wait plain
    · obtain ⟨delivered, frame⟩ := State.delivered_request (l := l) (high := high) (x := x) request current
      refine ⟨delivered, fun wait plain => ?_⟩
      obtain ⟨_, _, _, t_eq⟩ := frame wait plain
      rw [t_eq]
    · obtain ⟨delivered, counted, noted, frame⟩ := State.delivered_stale (l := l) (high := high) (x := x) old
      refine ⟨delivered, counted, noted, fun wait plain => ?_⟩
      obtain ⟨_, _, _, t_eq⟩ := frame wait plain
      rw [t_eq]
  · have eq := State.rzReceive_bad (high := high) (x := x) present up bad
    rw [LinkDir.failures_of_none none, if_neg (by decide)] at eq
    obtain ⟨_, _, _, _, frame⟩ := s.replayAsked_frame l high x crc.toNat
    obtain ⟨dir, state, replays, bit⟩ := State.replayAsked_spec (high := high) up x crc.toNat
    generalize s.replayAsked l high x crc.toNat = t at *
    refine ⟨t, act_eq_next (f := recv) live eq (by rw [frame]) (by rw [frame]), ?_, state, replays, by rw [frame], bit, by rw [frame]⟩
    rw [dir, LinkDir.missed_of_none none]
  · have eq := State.rzReceive_bad (high := high) (x := x) present up bad
    rw [LinkDir.failures_of_some found, if_neg (by omega)] at eq
    obtain ⟨_, _, _, _, frame⟩ := s.replayAsked_frame l high x crc.toNat
    obtain ⟨dir, state, replays, bit⟩ := State.replayAsked_spec (high := high) up x crc.toNat
    generalize s.replayAsked l high x crc.toNat = t at *
    refine ⟨t, act_eq_next (f := recv) live eq (by rw [frame]) (by rw [frame]), ?_, state, replays, by rw [frame], bit, by rw [frame]⟩
    rw [dir]
    exact LinkDir.find_missed found _
  · have eq := State.rzReceive_bad (high := high) (x := x) present up bad
    rw [LinkDir.failures_of_some found, if_pos (by omega)] at eq
    obtain ⟨_, _, _, _, frame⟩ := s.replayAsked_frame l high x crc.toNat
    generalize s.replayAsked l high x crc.toNat = u at *
    obtain ⟨⟨_, _, _, _, frame'⟩, state, bit⟩ := u.rzRetrain_spec l
    generalize u.rzRetrain l = t at *
    refine ⟨t, act_eq_next (f := recv) live eq (by rw [frame', frame]) (by rw [frame', frame]), state, by rw [frame', frame], bit⟩
  · exact act_eq_next (f := recv) live (State.rzReceive_ahead present up good order)

end Sys2Proof.Machine
end

section
/-! O41. Attestation reports (R403): a report for device memory passes through the cache of its base die. -/

set_option Elab.async false

namespace Sys2Proof.Machine

theorem slice_length (l : List Byte) (off n : Nat) : (slice l off n).length = n := by
  have short : ((l.drop off).take n).length ≤ n := List.length_take_le ..
  simp only [slice, zeros, List.length_append, List.length_replicate]
  omega

namespace State

theorem ownReport_length (s : State) (nonce : List Byte) : (s.ownReport nonce).1.length = 976 := by
  have cores : ((List.range 13).flatMap fun c => leBytes 48 (if s.variant.core c then (s.core c).current else 0)).length = 624 := by
    simp [List.length_flatMap, leBytes_length]
  simp only [ownReport, reportBody, signed, ownKey, List.length_append, leBytes_length, slice_length, zeros, List.length_replicate, cores]

theorem writeBytes_mem (s : State) (ptn die a : Nat) (l : List Byte) : ∃ m, s.writeBytes ptn die a l = { s with mem := m } := by
  induction l generalizing s a with
  | nil => exact ⟨s.mem, rfl⟩
  | cons b r ih =>
    have first : ∃ m, s.writeAt ptn die a b = { s with mem := m } := by
      unfold writeAt
      split
      · exact ⟨_, rfl⟩
      · exact ⟨s.mem, rfl⟩
    obtain ⟨m, first⟩ := first
    obtain ⟨m', rest⟩ := ih (s.writeAt ptn die a b) (a + 1)
    refine ⟨m', ?_⟩
    rw [writeBytes, rest, first]

/-- Firmware's store changes device memory and the cache alone. -/
theorem fwWrite_frame (s : State) (a : Nat) (l : List Byte) : ∃ m ls, s.fwWrite a l = { s with mem := m, lines := ls } := by
  obtain ⟨m, stored⟩ := s.writeBytes_mem 0 0 a l
  unfold fwWrite storeBytes
  rw [stored]
  dsimp only
  split
  · refine ⟨m, _, foldl_lines (fun t v => ?_) _ _⟩
    split
    · exact dirtied_eq ..
    · rfl
  · exact ⟨m, s.lines, rfl⟩

/-! ### A clean line of the cache -/

/-- A write never leaves a clean line that was not there. -/
theorem not_mem_lineAccess {x : CacheLine} (clean : x.dirty = false) {s : State} (absent : x ∉ s.lines) (f l : Nat) (alloc : Bool) :
    x ∉ (s.lineAccess f l true alloc).lines := by
  have other (y : CacheLine) (dirty : y.dirty = true) : x ≠ y := fun e => by
    rw [e, dirty] at clean
    cases clean
  unfold lineAccess
  split
  · exact absent
  · extract_lets die mask same
    split
    · rw [List.mem_append, List.mem_singleton, List.mem_filter]
      exact fun h => h.elim (fun h => absent h.1) (other _ (Bool.or_true _))
    · split
      · exact absent
      · rw [List.mem_append, List.mem_singleton, List.mem_filter]
        exact fun h => h.elim (fun h => absent h.1) (other _ rfl)

/-- A write to the only line that the cache holds leaves it dirty. -/
theorem not_mem_lineAccess_self {x : CacheLine} (clean : x.dirty = false) {s : State} {p : Nat} (owner : s.frameOwner x.frame = some p)
    (only : s.lines = [x]) (alloc : Bool) : x ∉ (s.lineAccess x.frame x.line true alloc).lines := by
  have same : (x.frame == x.frame && x.line == x.line) = true := by simp
  rw [lineAccess, owner]
  dsimp only
  rw [only, List.find?_cons_of_pos (p := fun y : CacheLine => y.frame == x.frame && y.line == x.line) same]
  intro mem
  rw [List.mem_append, List.mem_filter, List.mem_singleton] at mem
  rcases mem with ⟨-, differs⟩ | written
  · rw [same] at differs
    cases differs
  · have dirty := congrArg CacheLine.dirty (List.mem_singleton.mp written)
    rw [clean] at dirty
    simp at dirty

/-- A signed report whose destination is a page of device memory, of which the cache holds a clean line. -/
def reportInCache : State := { State.reset with
  plk := { Plk.reset with state := .retrain }
  ptns := [(0, { quads := 0, ways := [], scratch := [], sorus := [], pcs := 1, shares := 0, restriping := false })]
  lines := [{ frame := 0, line := 0, way := 0, dirty := false }]
  boot := { Boot.reset with atts := [(2 ^ 63, 0, [])] } }

/-- A report stored at the first page dirties the line. -/
theorem fwWrite_report_dirties {s : State} (ptns : s.ptns = reportInCache.ptns) (lines : s.lines = reportInCache.lines)
    {l : List Byte} (long : l.length = 976) : { frame := 0, line := 0, way := 0, dirty := false } ∉ (s.fwWrite 0 l).lines := by
  obtain ⟨m, stored⟩ := s.writeBytes_mem 0 0 0 l
  have first : parseAddr 0 = .hbm 0 0 := by decide
  have one : pagesOf 0 976 = [0] := by decide
  have frame : ({ s with mem := m } : State).pageFrame 0 0 = some 0 := by
    unfold pageFrame
    rw [ptns]
    decide +kernel
  rw [fwWrite, storeBytes, stored, first]
  dsimp only
  rw [long, one, List.foldl_cons, List.foldl_nil, frame]
  have key : hbmKey 0 (Nat.max 0 (65536 * 0) % 65536) = 0 := by decide
  have span : Nat.min (0 + 976) (65536 * (0 + 1)) - Nat.max 0 (65536 * 0) = 976 := by decide
  dsimp only
  rw [key, span, dirtied, if_neg (by decide)]
  have owned (t : State) (same : t.ptns = reportInCache.ptns) : t.frameOwner 0 = some 0 := by
    unfold frameOwner
    rw [same]
    decide +kernel
  have keeps (t : State) (f l : Nat) (alloc : Bool) : (t.lineAccess f l true alloc).ptns = t.ptns := by
    rw [lineAccess_eq]
  have sixteen : List.range ((0 + 976 + 63) / 64 - 0 / 64) = 0 :: (List.range 15).map Nat.succ := by decide
  rw [sixteen, List.foldl_cons]
  have dirtied {t : State} (same : t.ptns = reportInCache.ptns) (only : t.lines = reportInCache.lines) (alloc : Bool) :
      { frame := 0, line := 0, way := 0, dirty := false } ∉ (t.lineAccess 0 0 true alloc).lines :=
    not_mem_lineAccess_self rfl (owned t same) only alloc
  exact List.foldlRecOn (motive := fun t : State => { frame := 0, line := 0, way := 0, dirty := false } ∉ t.lines) _ _
    (dirtied (t := { s with mem := m }) ptns lines _) fun _ absent _ _ => not_mem_lineAccess rfl absent _ _ _

theorem attDone_eq {s : State} {a : Nat} {t : DWord} {l : List Byte} {rest : List (Nat × DWord × List Byte)}
    (atts : s.boot.atts = (a, t, l) :: rest) (opened : s.isOpen 77 = true) :
    s.attDone = ((({ s with free := s.free + 1, boot := { s.boot with atts := rest } } : State).post (le l 8 8)
      (s.ownReport (slice l 0x10 48)).1).attAnswer a .ok t) := by
  rw [attDone, atts]
  dsimp only
  rw [if_pos opened]
  rfl

theorem attAnswer_lines {s : State} {a h : Nat} (host : parseAddr (a + 0x70) = .host h) (up : s.linkUp = true) (fit : h + 16 ≤ 2 ^ 56)
    (st : Status) (start : DWord) : (s.attAnswer a st start).lines = s.lines := by
  obtain ⟨p, o, posted⟩ := post_host host up (leBytes 1 st.code ++ zeros 3 ++ leBytes 4 (usBetween start s.supTime) ++ zeros 8)
    (by simpa only [List.length_append, leBytes_length, zeros, List.length_replicate] using fit)
  rw [attAnswer, posted, raiseEv_eq]

end State

/-- Refutes O41: nothing keeps the descriptor at the head of the queue from naming device memory, and there the report dirties a
line of the cache, which the statement leaves out of what changes. -/
theorem not_attestationIsQueued : ¬ Obligations.AttestationIsQueued := by
  intro queued
  have clean : ({ frame := 0, line := 0, way := 0, dirty := false } : CacheLine) ∈ State.reportInCache.lines := List.mem_singleton.mpr rfl
  obtain ⟨t, ran, -, -, -, frame⟩ := (queued State.reportInCache rfl rfl).2 (2 ^ 63) 0 [] [] 0 rfl (by decide) rfl rfl
  have lines : t.lines = State.reportInCache.lines := by rw [frame]
  rw [← lines] at clean
  have done : exec .attestationReportDone State.reportInCache = act State.reportInCache State.attDone := rfl
  obtain ⟨z, z_eq⟩ : ∃ z, z = State.reportInCache.attDone := ⟨_, rfl⟩
  rw [done, act_live _ _ rfl, ← z_eq] at ran
  injection ran with next
  have left : z.lines = t.lines := (congrArg State.lines next :)
  have opened : State.reportInCache.isOpen 77 = true := rfl
  have atts : State.reportInCache.boot.atts = [(2 ^ 63, 0, [])] := rfl
  rw [← left, z_eq, State.attDone_eq atts opened] at clean
  have report : parseAddr (le [] 8 8) = .hbm 0 0 := by decide
  let u : State := { State.reportInCache with free := State.reportInCache.free + 1, boot := { State.reportInCache.boot with atts := [] } }
  have posted (l : List Byte) : u.post (le [] 8 8) l = u.fwWrite 0 l := by
    rw [State.post, report]
    rfl
  have answer : parseAddr (2 ^ 63 + 0x70) = .host 0x70 := by decide
  rw [State.attAnswer_lines answer] at clean
  · have stored : _ ∈ (u.fwWrite 0 (State.reportInCache.ownReport (slice [] 0x10 48)).1).lines := posted _ ▸ clean
    exact State.fwWrite_report_dirties (s := u) rfl rfl (State.ownReport_length ..) stored
  · have up : (u.post (le [] 8 8) (State.reportInCache.ownReport (slice [] 0x10 48)).1).linkUp = true := by
      obtain ⟨m, ls, stored⟩ := u.fwWrite_frame 0 (State.reportInCache.ownReport (slice [] 0x10 48)).1
      rw [posted, stored]
      rfl
    exact up
  · decide

end Sys2Proof.Machine
end

section
/-! SUPPORT. Answers to the host: what firmware's bytes at a descriptor in host memory leave there. -/

set_option Elab.async false

namespace Sys2Proof.Machine

theorem Status.code_lt (st : Status) : st.code < 256 := by
  cases st <;> decide

theorem leBytes_one (v : Nat) : leBytes 1 v = [BitVec.ofNat 8 v] := by
  rfl

/-- A descriptor's line of host memory, to which answers go. -/
structure HostLine (s : State) (a h n : Nat) : Prop where
  host : parseAddr a = .host h
  line : n ∣ 2 ^ 56
  aligned : a % n = 0
  up : s.linkUp = true

namespace HostLine

variable {s : State} {a h n : Nat}

theorem parse (k : HostLine s a h n) {off : Nat} (fit : off < n) : parseAddr (a + off) = .host (h + off) ∧ h + n ≤ 2 ^ 56 := by
  obtain ⟨place, short⟩ := parseAddr_eq_host k.host
  have divides : n ∣ h := by
    have whole : n ∣ 2 ^ 63 + h := by
      rw [← place]
      exact Nat.dvd_of_mod_eq_zero k.aligned
    exact (Nat.dvd_add_right (k.line.trans (pow_dvd_pow 2 (by decide)))).mp whole
  obtain ⟨c, bound⟩ := k.line
  obtain ⟨d, place'⟩ := divides
  have below : d < c := Nat.lt_of_mul_lt_mul_left (a := n) (by omega)
  have fits : n * (d + 1) ≤ n * c := Nat.mul_le_mul_left n below
  have short' : h + n ≤ 2 ^ 56 := by
    rw [bound, place']
    exact fits
  refine ⟨?_, short'⟩
  rw [place, Nat.add_assoc]
  exact parseAddr_host (by omega)

theorem post (k : HostLine s a h n) {off : Nat} {l : List Byte} (fit : off + l.length ≤ n) (pos : off < n) :
    ∃ p o, s.post (a + off) l = { s with mem := s.mem.writeAll (hostKey (h + off)) l, plk := p, out := o } := by
  obtain ⟨parsed, short⟩ := k.parse pos
  exact State.post_host parsed k.up l (by omega)

/-- An answer with its event. -/
theorem post_raised (k : HostLine s a h n) {off : Nat} {l : List Byte} (fit : off + l.length ≤ n) (pos : off < n) (e b : Nat) :
    (∃ es p o, (s.post (a + off) l).raiseEv e b =
      { s with mem := s.mem.writeAll (hostKey (h + off)) l, events := es, plk := p, out := o }) ∧
      bitAt (((s.post (a + off) l).raiseEv e b).ev e).value b = true := by
  obtain ⟨p, o, posted⟩ := k.post fit pos
  refine ⟨?_, raiseEv_sets ..⟩
  rw [posted, State.raiseEv_eq]
  exact ⟨_, _, _, rfl⟩

end HostLine

/-! ### Refusals (R15) -/

theorem refusal_of_clear {l : List (Bool × Status × Nat)} (clear : (l.all fun p => !p.1) = true) : refusal l = none := by
  refine List.foldlRecOn (motive := fun acc => acc = none) l _ rfl ?_
  rintro _ rfl p mem
  have off := List.all_eq_true.mp clear p mem
  rw [Bool.not_eq_true'] at off
  dsimp only
  rw [off, if_neg (by decide)]

/-- The first check that applies decides, where no later one ranks before it. -/
theorem refusal_of_first {x : Status × Nat} {l r : List (Bool × Status × Nat)} (before : (l.all fun p => !p.1) = true)
    (later : (r.all fun p => !p.1 || decide (x.1.rank ≤ p.2.1.rank)) = true) : refusal (l ++ (true, x) :: r) = some x := by
  have passed : refusal l = none := refusal_of_clear before
  rw [refusal] at passed ⊢
  rw [List.foldl_append, passed, List.foldl_cons]
  refine List.foldlRecOn (motive := fun acc => acc = some x) r _ rfl ?_
  rintro _ rfl p mem
  have weaker := List.all_eq_true.mp later p mem
  have stays : (p.1 && decide (p.2.1.rank < x.1.rank)) = false := by
    cases on : p.1 with
    | false => rfl
    | true =>
      rw [on, Bool.not_true, Bool.false_or, decide_eq_true_eq] at weaker
      rw [Bool.true_and, decide_eq_false_iff_not]
      omega
  dsimp only
  rw [stays, if_neg (by decide)]

/-- The code at the start of an answer. -/
theorem read_answer_code (m : Memory) (k : Nat) (st : Status) (l : List Byte) :
    ((m.writeAll k (leBytes 1 st.code ++ l)).read k).toNat = st.code := by
  have first := Memory.read_writeAll m k (leBytes 1 st.code ++ l) (i := 0) (by simp)
  rw [Nat.add_zero] at first
  rw [first]
  exact Nat.mod_eq_of_lt st.code_lt

/-- The detail behind the code. -/
theorem read_answer_detail (m : Memory) (k : Nat) (st : Status) (v : Nat) (l : List Byte) :
    ((m.writeAll k (leBytes 1 st.code ++ (leBytes 1 v ++ l))).read (k + 1)).toNat = v % 256 := by
  rw [Memory.read_writeAll m k (leBytes 1 st.code ++ (leBytes 1 v ++ l)) (i := 1) (by simp)]
  rfl

end Sys2Proof.Machine
end

section
/-! O38. A live update begins or is told to come back (R406). -/

namespace Sys2Proof.Machine

namespace State

variable {s : State} {a c : Nat} {rest : List Nat}

/-- The next core's turn comes up when nothing makes it wait. -/
theorem updNext_turn (todo : s.boot.updTodo = c :: rest) (free : s.turnWaits c = false) :
    s.updNext = { s with boot := { s.boot with upd := .applying, updCore := c } } := by
  rw [updNext, todo]
  dsimp only
  rw [free, if_neg (by decide), ← todo]

/-- A request that selects cores and asks for neither a persist nor a commit, while no update runs. -/
theorem updRequest_idle {d l : List Byte} (aligned : a % 64 = 0) (readable : s.requestOk a 64 = true) (request : s.fwRead a 64 = d)
    (version : le d 0 4 = 1) (clear : clearAt d [(0x16, 2), (0x1C, 4)] = true) (flags : le d 4 4 = 1) (mask : le d 0x14 2 = 0)
    (wait : le d 0x18 4 ≤ 60000) (idle : s.boot.upd = .idle) (long : 224 ≤ le d 0x10 4) (short : le d 0x10 4 ≤ 33554432)
    (placed : s.addressOk (le d 8 8) = true) (bundle : s.fwRead (le d 8 8) (le d 0x10 4) = l) (valid : s.bundleReason l = 0)
    (selected : s.updSelected 0 l = c :: rest) (free : s.turnWaits c = false) :
    s.updRequest a = { s with boot := { s.boot with
      upd := .applying, updCore := c, updAddr := a, updFlags := 1, updBundle := l, updCores := 0, updTodo := c :: rest
      updApplied := 0, updRolled := 0, updSlot := 0xFF, updMaxDefer := le d 0x18 4, updStart := s.supTime, watch := none
      pauseAsked := false } } := by
  have accepted : refusal [((members (le d 0x14 2) 13).any fun c => !s.variant.core c, .unitAbsent, 0),
      (le d 0 4 != 1, .versionUnsupported, 0), (s.boot.upd != .idle, .retryLater, 0),
      (33554432 < le d 0x10 4 || 60000 < le d 0x18 4 || 7 < le d 4 4 || 8191 < le d 0x14 2 || !clearAt d [(0x16, 2), (0x1C, 4)] ||
        le d 0x10 4 < 224 || !s.addressOk (le d 8 8), .refusedInfeasible, 1)] = none := by
    refine refusal_of_clear ?_
    have none : members 0 13 = [] := by decide
    simp [mask, none, version, idle, short, wait, flags, clear, long, placed]
  rw [updRequest, if_neg (by simp [aligned, readable])]
  dsimp only
  rw [request, accepted, bundle]
  dsimp only
  have selects : bitAt 1 0 = true := by decide
  have plain : ¬ (bitAt 1 1 = true ∧ s.sequenceOk l = false) := by simp [bitAt]
  rw [if_neg (not_not.mpr valid), flags, mask, if_neg plain, if_pos selects, selected]
  exact updNext_turn rfl free

theorem updRequest_busy {d : List Byte} (aligned : a % 64 = 0) (readable : s.requestOk a 64 = true) (request : s.fwRead a 64 = d)
    (version : le d 0 4 = 1) (mask : le d 0x14 2 = 0) (busy : s.boot.upd ≠ .idle) :
    s.updRequest a = s.updRefuse a .retryLater 0 := by
  have none : members 0 13 = [] := by decide
  have refused (b : Bool) : refusal [((members 0 13).any fun c => !s.variant.core c, .unitAbsent, 0),
      (le d 0 4 != 1, .versionUnsupported, 0), (s.boot.upd != .idle, .retryLater, 0), (b, .refusedInfeasible, 1)] =
      some (.retryLater, 0) := by
    rw [bne_iff_ne.mpr busy]
    refine refusal_of_first (l := [_, _]) ?_ ?_
    · simp [none, version]
    · simp [Status.rank]
  rw [updRequest, if_neg (by simp [aligned, readable])]
  dsimp only
  rw [request, mask, refused]

end State

/-- Settles O38: every check of the request passes but, while an update runs, the one that tells it to come back, before which no
other ranks. -/
theorem updatesBegin : Obligations.UpdatesBegin := by
  intro s a n c rest live aligned readable version clear flags mask wait count
  refine ⟨fun idle long short placed valid selected free => ?_, fun h busy host up => ?_⟩
  · subst count
    generalize request : s.fwRead a 64 = d at *
    generalize bundle : s.fwRead (le d 8 8) (le d 0x10 4) = l at *
    exact ⟨_, act_eq_next (f := (State.updRequest · a)) live
      (State.updRequest_idle aligned readable request version clear flags mask wait idle long short placed bundle valid selected free),
      rfl, rfl, rfl, rfl, rfl, rfl, rfl⟩
  · have line : HostLine s a h 64 := ⟨host, by decide, aligned, up⟩
    have answer := line.post_raised (off := 0x20) (l := leBytes 1 Status.retryLater.code ++ leBytes 1 0 ++ zeros 6 ++ leBytes 1 0xFF ++ zeros 23)
      (by simp [zeros]) (by decide) evBoot 1
    have busy' : s.updRequest a = s.updRefuse a .retryLater 0 := State.updRequest_busy aligned readable rfl version mask busy
    rw [State.updRefuse] at busy'
    obtain ⟨⟨es, p, o, frame⟩, bit⟩ := answer
    rw [frame] at busy' bit
    refine ⟨_, act_eq_next (f := (State.updRequest · a)) live busy', ?_, bit, rfl⟩
    rw [List.append_assoc, List.append_assoc, List.append_assoc]
    exact read_answer_code ..

end Sys2Proof.Machine
end

section
/-! O40. How an update and a persist end (R408, R410, Table 16-9). -/

set_option Elab.async false

namespace Sys2Proof.Machine

namespace State

variable {s : State} {h : Nat}

/-- Boot's note of an update once it has ended. -/
def updOver (s : State) : Boot :=
  { s.boot with upd := .idle, updTodo := [], updBundle := [], watch := none, pauseAsked := false }

/-- What an update's end writes behind the code and its detail. -/
def updRest (s : State) : List Byte :=
  zeros 2 ++ leBytes 2 s.boot.updApplied ++ leBytes 2 s.boot.updRolled ++ leBytes 1 s.boot.updSlot ++ zeros 3 ++
    leBytes 4 (usBetween s.boot.updStart s.supTime / 1000) ++ zeros 16

theorem updRest_length (s : State) : s.updRest.length = 30 := by simp [updRest, zeros]

/-- The end of an update whose descriptor lies in host memory. -/
theorem updEnd_host (line : HostLine s s.boot.updAddr h 64) (running : s.boot.upd ≠ .idle) (st : Status) (detail : Nat) :
    (∃ es p o, s.updEnd st detail = { s with
      boot := s.updOver, mem := s.mem.writeAll (hostKey (h + 0x20)) (leBytes 1 st.code ++ (leBytes 1 detail ++ s.updRest))
      events := es, plk := p, out := o }) ∧
      bitAt ((s.updEnd st detail).ev evBoot).value (if st = .ok then 0 else 1) = true ∧
      (∀ e b, bitAt (s.ev e).value b = true → bitAt ((s.updEnd st detail).ev e).value b = true) := by
  have length : (leBytes 1 st.code ++ (leBytes 1 detail ++ s.updRest)).length = 32 := by
    simp only [List.length_append, leBytes_length, updRest_length]
  have line' : HostLine { s with boot := s.updOver } s.boot.updAddr h 64 := ⟨line.host, line.line, line.aligned, line.up⟩
  have eq : s.updEnd st detail = ((({ s with boot := s.updOver } : State).post (s.boot.updAddr + 0x20)
      (leBytes 1 st.code ++ (leBytes 1 detail ++ s.updRest))).raiseEv evBoot (if st = .ok then 0 else 1)) := by
    rw [updEnd]
    dsimp only
    rw [if_neg running]
    simp only [updRest, List.append_assoc]
    rfl
  obtain ⟨⟨es, p, o, frame⟩, bit⟩ := line'.post_raised (off := 0x20) (by rw [length]) (by decide) evBoot (if st = .ok then 0 else 1)
  obtain ⟨p', o', posted⟩ := line'.post (off := 0x20) (by rw [length]) (by decide)
  rw [eq]
  refine ⟨⟨es, p, o, frame⟩, bit, fun e b set => raiseEv_bits _ _ _ _ _ ?_⟩
  rw [posted]
  exact set

/-- A member's pause ends: its network state, running again. -/
def resumedNet (s : State) : Net :=
  { s.net with state := .running, members := tmod s.net.members s.net.self fun x => { x with paused := false } }

theorem resumeGroup_member (paused : s.net.state = .paused) (member : s.net.self ≠ s.net.master) :
    s.resumeGroup = ({ s with net := s.resumedNet } : State).reportAgain := by
  rw [resumeGroup, if_neg (not_not.mpr paused)]
  exact if_neg member

theorem resumeGroup_idle (running : s.net.state ≠ .paused) : s.resumeGroup = s := if_pos running

theorem tget_tmod_same {α : Type} {t : Tab α} {k : Nat} {x : α} (there : tget t k = some x) (f : α → α) : tget (tmod t k f) k = some (f x) := by
  rw [tmod, there]
  exact tget_tput_same ..

theorem updLate_eq (deferred : s.boot.upd = .deferred) : s.updLate = (s.updEnd .refusedInfeasible 0x20).resumeGroup := if_pos deferred

theorem raiseEv_linkUp (s : State) (e b : Nat) : (s.raiseEv e b).linkUp = s.linkUp := by
  have state : (s.raiseEv e b).plk.state = s.plk.state := (congrArg Plk.state (s.raiseEv_still e b) :)
  unfold linkUp
  rw [state]

/-- A member of the group whose update was waiting for the pause reports again. -/
theorem updLate_paused (line : HostLine s s.boot.updAddr h 64) (deferred : s.boot.upd = .deferred) (paused : s.net.state = .paused)
    (member : s.isMaster = false) :
    let t := s.updLate
    t.pending = s.pending ∧ t.variant = s.variant ∧ t.boot.upd = .idle ∧ t.net = s.resumedNet ∧
      .stepEnd s.net.groupId s.net.master s.net.term s.net.step (s.memberStatus s.net.step) (64 * s.ckp.lsn.toNat) ∈ t.netOut := by
  have other : s.net.self ≠ s.net.master := by
    intro same
    simp [isMaster, paused, same] at member
  obtain ⟨⟨es, p, o, ended⟩, -, -⟩ := updEnd_host line (by rw [deferred]; decide) .refusedInfeasible 0x20
  have net : (s.updEnd .refusedInfeasible 0x20).net = s.net := by rw [ended]
  dsimp only
  rw [updLate_eq deferred, resumeGroup_member (by rw [net]; exact paused) (by rw [net]; exact other), ended]
  exact ⟨rfl, rfl, rfl, rfl, List.mem_append_right _ (List.mem_singleton.mpr rfl)⟩

/-- What the flash holds lies apart from host memory. -/
theorem read_flash_writeAll_host (m : Memory) {x : Nat} {l : List Byte} (fit : x + l.length ≤ 2 ^ 56) (k : Nat) :
    (m.writeAll (hostKey x) l).read (flashKey k) = m.read (flashKey k) := by
  refine Memory.read_writeAll_ne _ _ (.inr ?_)
  unfold hostKey flashKey
  omega

/-- A persist that reads back well, with no commit asked for. -/
theorem persistEnd_good (line : HostLine s s.boot.updAddr h 64) (persisting : s.boot.upd = .persisting)
    (plain : bitAt s.boot.updFlags 2 = false) :
    let t := s.persistEnd true
    let slot := s.persistTarget s.boot.updBundle
    t.pending = s.pending ∧ t.variant = s.variant ∧ t.boot.upd = .idle ∧ t.boot.updSlot = b2n slot ∧
      t.mem.readAll (flashKey (if slot then 0x08000000 else 0)) (224 + recordsLen s.boot.updBundle) =
        slice s.boot.updBundle 0 (224 + recordsLen s.boot.updBundle) ∧
      (t.mem.read (hostKey (h + 0x20))).toNat = Status.ok.code ∧
      bitAt (t.ev evBoot).value 3 = true ∧ bitAt (t.ev evBoot).value 0 = true := by
  let slot := s.persistTarget s.boot.updBundle
  let base := flashKey (if slot then 0x08000000 else 0)
  let image := slice s.boot.updBundle 0 (224 + recordsLen s.boot.updBundle)
  let v : State := { s.writeSlot slot s.boot.updBundle with boot := { s.boot with updSlot := b2n slot } }
  let u := v.raiseEv evBoot 3
  obtain ⟨m, stored⟩ : ∃ m : Memory, (s.writeSlot slot s.boot.updBundle).mem = m.writeAll base image := ⟨_, rfl⟩
  have boot : u.boot = v.boot := by
    unfold u
    rw [raiseEv_eq]
  have mem : u.mem = m.writeAll base image := by
    unfold u
    rw [raiseEv_eq]
    exact stored
  have still : u.pending = s.pending ∧ u.variant = s.variant := by
    unfold u
    rw [raiseEv_eq]
    exact ⟨rfl, rfl⟩
  have noted : bitAt (u.ev evBoot).value 3 = true := raiseEv_sets ..
  have line' : HostLine u u.boot.updAddr h 64 := ⟨boot ▸ line.host, line.line, boot ▸ line.aligned, (raiseEv_linkUp v ..).trans line.up⟩
  have ended : s.persistEnd true = u.updEnd .ok 0 := by
    have plain' : bitAt u.boot.updFlags 2 = false := by
      rw [boot]
      exact plain
    rw [persistEnd, if_neg (not_not.mpr persisting)]
    dsimp only
    rw [if_pos rfl]
    exact if_neg (by rw [← Bool.not_eq_true] at plain'; exact plain')
  obtain ⟨⟨es, p, o, final⟩, bit, kept⟩ := updEnd_host line' (by rw [boot]; exact fun e => by cases persisting.symm.trans e) .ok 0
  dsimp only
  rw [ended]
  have noted' := kept evBoot 3 noted
  refine ⟨?_, ?_, ?_, ?_, ?_, ?_, noted', bit⟩
  all_goals rw [final]
  · exact still.1
  · exact still.2
  · rfl
  · exact congrArg Boot.updSlot boot
  · have apart : (u.mem.writeAll (hostKey (h + 0x20)) (leBytes 1 Status.ok.code ++ (leBytes 1 0 ++ u.updRest))).readAll base
        (224 + recordsLen s.boot.updBundle) = u.mem.readAll base (224 + recordsLen s.boot.updBundle) := by
      refine List.map_congr_left fun i _ => ?_
      have place : base + i = flashKey ((if slot then 0x08000000 else 0) + i) := Nat.add_assoc ..
      rw [place]
      refine read_flash_writeAll_host _ ?_ _
      simp only [List.length_append, leBytes_length, updRest_length]
      have short := (line.parse (off := 0) (by decide)).2
      omega
    have length : image.length = 224 + recordsLen s.boot.updBundle := slice_length ..
    refine apart.trans ?_
    rw [mem, readAll_writeAll _ _ _ length.ge, List.take_of_length_le length.le]
  · exact read_answer_code ..


end State

/-- Settles O40: the completion goes to the descriptor in host memory, which lies apart from the flash; a member's pause ends with a
report of its step. -/
theorem updatesEnd : Obligations.UpdatesEnd := by
  intro s h live host aligned up
  have line : HostLine s s.boot.updAddr h 64 := by
    refine ⟨host, by decide, ?_, up⟩
    rw [(parseAddr_eq_host host).1, Nat.add_mod, aligned]
    rfl
  refine ⟨fun deferred paused member => ?_, fun deferred running => ?_, fun persisting plain => ?_, fun persisting => ?_⟩
  · obtain ⟨pending, variant, idle, net, reported⟩ := State.updLate_paused line deferred paused member
    refine ⟨_, act_eq_next (f := State.updLate) live rfl pending variant, idle, ?_, reported, fun x there => ?_⟩
    · rw [net]
      rfl
    · rw [State.member, net]
      exact State.tget_tmod_same there _
  · obtain ⟨⟨es, p, o, ended⟩, bit, -⟩ := State.updEnd_host line (by rw [deferred]; decide) .refusedInfeasible 0x20
    have net : (s.updEnd .refusedInfeasible 0x20).net = s.net := by rw [ended]
    have late := State.updLate_eq deferred
    rw [State.resumeGroup_idle (by rw [net]; exact running), ended] at late
    rw [ended] at bit
    refine ⟨_, act_eq_next (f := State.updLate) live late, rfl, rfl, read_answer_code .., ?_, bit, rfl⟩
    exact read_answer_detail ..
  · obtain ⟨pending, variant, idle, slot, written, code, good, done⟩ := State.persistEnd_good line persisting plain
    exact ⟨_, act_eq_next (f := (State.persistEnd · true)) live rfl pending variant, idle, slot, written, code, good, done⟩
  · obtain ⟨⟨es, p, o, ended⟩, bit, -⟩ := State.updEnd_host line (by rw [persisting]; decide) .digestMismatch 0
    have failed : s.persistEnd false = _ := (if_neg (not_not.mpr persisting)).trans ended
    rw [ended] at bit
    refine ⟨_, act_eq_next (f := (State.persistEnd · false)) live failed, rfl, read_answer_code .., bit, fun k _ => ?_, rfl⟩
    refine State.read_flash_writeAll_host _ ?_ k
    have length : (leBytes 1 Status.digestMismatch.code ++ (leBytes 1 0 ++ s.updRest)).length = 32 := by
      simp only [List.length_append, leBytes_length, State.updRest_length]
    have short := (line.parse (off := 0) (by decide)).2
    omega

end Sys2Proof.Machine
end

section
/-! O42. The sideband (Tables 18-4 and 18-5, R421, R424 to R426). -/

set_option Elab.async false

namespace Sys2Proof.Machine

theorem done_eq_next {s t u : State} (h : u = t) (p : t.pending = s.pending := by rfl) (v : t.variant = s.variant := by rfl) :
    done s u = .next t := by
  rw [done_next, h, ← p, ← v]

/-- Two bytes hold a number's low sixteen bits. -/
theorem ofLe_leBytes_two (v : Nat) : ofLe (leBytes 2 v) = v % 2 ^ 16 := by
  simp only [leBytes, ofLe, BitVec.toNat_ofNat]
  omega

/-- STATUS_WORD's two bits. -/
theorem statusWord_bits (v : Nat) (holdup alert : Bool) :
    let w := ofLe (leBytes 2 (setFld (setFld v 6 6 (b2n holdup)) 0 0 (b2n alert)))
    bitAt w 6 = holdup ∧ bitAt w 0 = alert := by
  have bits (x y : Nat) (hx : x < 2) (hy : y < 2) :
      setFld (setFld v 6 6 x) 0 0 y % 2 ^ 16 / 2 ^ 6 % 2 = x ∧ setFld (setFld v 6 6 x) 0 0 y % 2 ^ 16 / 2 ^ 0 % 2 = y := by
    unfold setFld fld
    omega
  obtain ⟨six, zero⟩ := bits (b2n holdup) (b2n alert) (by cases holdup <;> decide) (by cases alert <;> decide)
  dsimp only
  rw [ofLe_leBytes_two]
  unfold bitAt
  rw [six, zero]
  cases holdup <;> cases alert <;> exact ⟨rfl, rfl⟩

namespace State

variable {s : State}

/-! ### Readings -/

theorem sideRead_intPend (supOpen : s.isOpen 78 = true) :
    s.sideRead 0x18 = s.emit (.sideband (some (leBytes 8 (s.readReg .glbIntPend)))) := by
  have block : sideBlock 0x18 = true := by decide
  have register : regAt 0x18 = some (.glbIntPend, true) := by decide
  have present : blockAbsent s.variant 0x18 = false := by cases s.variant <;> decide
  have here : regAbsent s.variant .glbIntPend = false := rfl
  have lets : s.letsIn .glbIntPend = true := supOpen
  have answer : s.answers 0x18 false = true := by simp [answers]
  have one : s.readOne 0x18 8 = (.ok, s.readReg .glbIntPend, s) := by
    simp [readOne, register, noRegister, answer, present, here, lets, touchReg]
  have window : s.readWindow 0x18 8 = (.ok, s.readReg .glbIntPend, s) := by
    rw [readWindow, if_neg (by decide), one]
    rfl
  rw [sideRead, if_pos block, window]
  rfl

theorem sideRead_fault {off : Nat} (outside : sideBlock off = false) : s.sideRead off = s.emit (.sideband none) := by
  rw [sideRead, if_neg (by rw [outside]; decide)]

/-! ### Resets -/

theorem modReset_eq {us : Nat} (long : 1000 ≤ us) (powered : s.pwr.onHoldup = false) : s.modReset us = s.powerOnReset := by
  refine if_neg ?_
  rintro (short | held)
  · omega
  · rw [powered] at held
    cases held

/-! ### Flash access -/

theorem flashAccess_refused (op a : Nat) (l : List Byte) (service : s.boot.serviceMode = false) (running : s.boot.state ≠ 4) :
    s.flashAccess op a l = s.emit (.sideband none) := by
  refine if_pos (.inl ?_)
  simp [flashOpen, service, running]

theorem flashAccess_open {a : Nat} {l : List Byte} (opened : s.boot.serviceMode = true ∨ s.boot.state = 4) (fit : a + l.length ≤ 2 ^ 28)
    (inside : a < 2 ^ 28) : ¬ (s.flashOpen = false ∨ 2 ^ 28 < a + l.length ∨ 2 ^ 28 ≤ a) := by
  have access : s.flashOpen = true := by
    rcases opened with h | h <;> simp [flashOpen, h]
  rintro (closed | beyond | outside)
  · rw [access] at closed
    cases closed
  · omega
  · omega

end State

/-- What `modRstN` leaves after a long low, and what `mfrReset` does. -/
theorem modRstN_resets {s : State} {us : Nat} (long : 1000 ≤ us) (powered : s.pwr.onHoldup = false) :
    exec (.modRstN us) s = .next s.powerOnReset ∧ exec (.mfrReset 0xA5) s = .next s.powerOnReset := by
  have asked : (if (0xA5 : Nat) = 0xA5 then s.modReset 1000 else s) = s.powerOnReset :=
    (if_pos rfl).trans (State.modReset_eq (by decide) powered)
  exact ⟨done_eq_next (State.modReset_eq long powered), done_eq_next asked⟩

/-- Settles O42: each reading is one message; the resets' state is written out; and flash access reaches the keys of the flash. -/
theorem sidebandWorks : Obligations.SidebandWorks := by
  refine ⟨fun s => ⟨⟨_, done_eq_next rfl, rfl⟩, ⟨_, done_eq_next rfl, rfl⟩, ⟨_, done_eq_next rfl, rfl⟩, ⟨_, done_eq_next rfl, rfl⟩,
    ⟨_, done_eq_next rfl, rfl⟩, ⟨_, done_eq_next rfl, rfl⟩, ⟨_, done_eq_next rfl, ?_, rfl⟩, ⟨_, done_eq_next rfl, rfl⟩,
    fun supOpen => ⟨_, done_eq_next (State.sideRead_intPend supOpen), rfl⟩,
    fun off outside => ⟨_, done_eq_next (State.sideRead_fault outside), rfl⟩⟩,
    fun s => ⟨fun us long powered => ?_, fun us short => ?_, fun v other => ?_, fun a l opened fit inside => ⟨?_, ?_⟩,
      fun op a l service running => ⟨_, done_eq_next (State.flashAccess_refused op a l service running), rfl⟩⟩⟩
  · obtain ⟨holdup, alert⟩ := statusWord_bits (Config.freeValue 16 s.free).toNat s.pwr.onHoldup s.alertStands
    have last : s.statusAnswer.out.getLast? = some (.sideband (some (leBytes 2 (setFld (setFld (Config.freeValue 16 s.free).toNat 6 6
        (b2n s.pwr.onHoldup)) 0 0 (b2n s.alertStands))))) := List.getLast?_concat
    rw [last]
    dsimp only
    rw [holdup, alert, leBytes_length]
    simp
  · obtain ⟨pin, asked⟩ := modRstN_resets long powered
    exact ⟨⟨_, pin, rfl, rfl, rfl, rfl, rfl, rfl, fun _ => rfl, fun a below => s.powerOnReset_flash.bytes a (by omega)⟩, _, asked, pin⟩
  · have stays : s.modReset us = s := if_pos short
    exact ⟨s, done_eq_next stays, rfl⟩
  · exact ⟨s, done_eq_next (if_neg other), rfl⟩
  · exact ⟨_, done_eq_next (if_neg (State.flashAccess_open opened fit inside)), rfl⟩
  · refine ⟨_, done_eq_next (if_neg (State.flashAccess_open opened fit inside)), ?_, fun k outside => ?_, rfl⟩
    · exact (State.readAll_writeAll _ _ _ le_rfl).trans (List.take_length ..)
    · exact Memory.read_writeAll_ne _ _ outside

end Sys2Proof.Machine
end

section
/-! SUPPORT. What writing answers, closing channels and going back to a step's start leave as they are. -/

set_option Elab.async false

namespace Sys2Proof.Machine

/-- Bytes written, to device memory through the cache or to host memory as messages. -/
def Wrote (s t : State) : Prop := ∃ m ls p o, t = { s with mem := m, lines := ls, plk := p, out := o }

namespace Wrote

variable {s t u : State}

theorem refl (s : State) : Wrote s s := ⟨s.mem, s.lines, s.plk, s.out, rfl⟩

theorem trans (h : Wrote s t) (k : Wrote t u) : Wrote s u := by
  obtain ⟨_, _, _, _, rfl⟩ := h
  obtain ⟨_, _, _, _, rfl⟩ := k
  exact ⟨_, _, _, _, rfl⟩

end Wrote

theorem wrote_post (s : State) (a : Nat) (l : List Byte) : Wrote s (s.post a l) := by
  have stored : Wrote s (s.fwWrite a l) := by
    obtain ⟨m, ls, h⟩ := s.fwWrite_frame a l
    exact ⟨m, ls, s.plk, s.out, h⟩
  unfold State.post
  split
  next h _ =>
    split
    · obtain ⟨p, o, sent⟩ := (s.fwWrite a l).hostMessages_eq h l (l.length / 256 + 1)
      exact stored.trans ⟨(s.fwWrite a l).mem, (s.fwWrite a l).lines, p, o, sent⟩
    · exact .refl s
  next => exact stored

/-- Channels, jobs and what their ends write. -/
def Closes (s t : State) : Prop := ∃ cs ch js jh m ls p o, t = { s with
  channels := cs, chanHandles := ch, jobs := js, jobHandles := jh, mem := m, lines := ls, plk := p, out := o }

namespace Closes

variable {s t u : State}

theorem refl (s : State) : Closes s s := ⟨s.channels, s.chanHandles, s.jobs, s.jobHandles, s.mem, s.lines, s.plk, s.out, rfl⟩

theorem trans (h : Closes s t) (k : Closes t u) : Closes s u := by
  obtain ⟨_, _, _, _, _, _, _, _, rfl⟩ := h
  obtain ⟨_, _, _, _, _, _, _, _, rfl⟩ := k
  exact ⟨_, _, _, _, _, _, _, _, rfl⟩

theorem of_wrote (h : Wrote s t) : Closes s t := by
  obtain ⟨_, _, _, _, rfl⟩ := h
  exact ⟨s.channels, s.chanHandles, s.jobs, s.jobHandles, _, _, _, _, rfl⟩

theorem foldl {α : Type} {f : State → α → State} (step : ∀ s a, Closes s (f s a)) (l : List α) (s : State) : Closes s (l.foldl f s) :=
  List.foldlRecOn (motive := Closes s) l f (refl s) fun t ht a _ => ht.trans (step t a)

end Closes

theorem closes_channels (s : State) (cs : Tab Channel) (ch : HandleTable) : Closes s { s with channels := cs, chanHandles := ch } :=
  ⟨cs, ch, s.jobs, s.jobHandles, s.mem, s.lines, s.plk, s.out, rfl⟩

theorem closes_jobAfter (s : State) (j : Nat) : Closes s (s.jobAfter j) := by
  have freed : Closes s { s with jobs := tdel s.jobs j, jobHandles := s.jobHandles.free j } :=
    ⟨s.channels, s.chanHandles, _, _, s.mem, s.lines, s.plk, s.out, rfl⟩
  unfold State.jobAfter
  split
  · split
    · split
      · exact .refl s
      · exact freed.trans (.of_wrote (wrote_post ..))
    · split
      · exact freed
      · exact .refl s
  · exact .refl s

theorem closes_chanClosed (s : State) (i : Nat) : Closes s (s.chanClosed i) := by
  unfold State.chanClosed
  split
  · extract_lets _ s1 s2
    have freed : Closes s s1 := closes_channels ..
    have answered : Closes s1 s2 := by
      unfold s2
      split
      · exact .of_wrote (wrote_post ..)
      · exact .refl s1
    exact (freed.trans answered).trans (closes_jobAfter ..)
  · exact .refl s

theorem closes_setChan (s : State) (i : Nat) (ch : Channel) : Closes s (s.setChan i ch) :=
  closes_channels s (tput s.channels i ch) s.chanHandles

theorem closes_chanAfter (s : State) (i : Nat) : Closes s (s.chanAfter i) := by
  unfold State.chanAfter
  split
  · split
    · extract_lets
      split
      · exact (closes_setChan ..).trans (closes_chanClosed ..)
      · exact closes_setChan ..
    · exact .refl s
  · exact .refl s

theorem closes_modChan (s : State) (i : Nat) (f : Channel → Channel) : Closes s (s.modChan i f) := by
  unfold State.modChan
  split
  · exact (closes_setChan ..).trans (closes_chanAfter ..)
  · exact .refl s

/-! ### Going back to the start of a step (R301, R302) -/

/-- What a restart of a step may change; event bits stay set. -/
structure Rewinds (s t : State) : Prop where
  frame : ∃ co as ds cs ch js jh cl st m ls es p o, t = { s with
    contexts := co, arrays := as, dmas := ds, channels := cs, chanHandles := ch, jobs := js, jobHandles := jh, collectives := cl
    streams := st, mem := m, lines := ls, events := es, plk := p, out := o }
  bits : ∀ e b, bitAt (s.ev e).value b = true → bitAt (t.ev e).value b = true

namespace Rewinds

variable {s t u : State}

theorem refl (s : State) : Rewinds s s :=
  ⟨⟨s.contexts, s.arrays, s.dmas, s.channels, s.chanHandles, s.jobs, s.jobHandles, s.collectives, s.streams, s.mem, s.lines, s.events,
    s.plk, s.out, rfl⟩, fun _ _ => id⟩

theorem trans (h : Rewinds s t) (k : Rewinds t u) : Rewinds s u := by
  obtain ⟨⟨_, _, _, _, _, _, _, _, _, _, _, _, _, _, rfl⟩, hb⟩ := h
  obtain ⟨⟨_, _, _, _, _, _, _, _, _, _, _, _, _, _, rfl⟩, kb⟩ := k
  exact ⟨⟨_, _, _, _, _, _, _, _, _, _, _, _, _, _, rfl⟩, fun e b => kb e b ∘ hb e b⟩

theorem foldl {α : Type} {f : State → α → State} (step : ∀ s a, Rewinds s (f s a)) (l : List α) (s : State) : Rewinds s (l.foldl f s) :=
  List.foldlRecOn (motive := Rewinds s) l f (refl s) fun t ht a _ => ht.trans (step t a)

theorem of_closes (h : Closes s t) : Rewinds s t := by
  obtain ⟨_, _, _, _, _, _, _, _, rfl⟩ := h
  exact ⟨⟨s.contexts, s.arrays, s.dmas, _, _, _, _, s.collectives, s.streams, _, _, s.events, _, _, rfl⟩, fun _ _ => id⟩

theorem setCtx (s : State) (c : Nat) (k : Context) : Rewinds s (s.setCtx c k) :=
  ⟨⟨_, s.arrays, s.dmas, s.channels, s.chanHandles, s.jobs, s.jobHandles, s.collectives, s.streams, s.mem, s.lines, s.events,
    s.plk, s.out, rfl⟩, fun _ _ => id⟩

theorem raiseEv (s : State) (e b : Nat) : Rewinds s (s.raiseEv e b) :=
  ⟨⟨s.contexts, s.arrays, s.dmas, s.channels, s.chanHandles, s.jobs, s.jobHandles, s.collectives, s.streams, s.mem, s.lines, _, _, _,
    State.raiseEv_eq s e b⟩, fun i n => raiseEv_bits s e b i n⟩

theorem idleArrays (s : State) (c : Nat) : Rewinds s (s.idleArrays c) :=
  ⟨⟨s.contexts, _, _, s.channels, s.chanHandles, s.jobs, s.jobHandles, s.collectives, s.streams, s.mem, s.lines, s.events,
    _, s.out, rfl⟩, fun _ _ => id⟩

theorem collectives (s : State) (cl : List Collective) : Rewinds s { s with collectives := cl } :=
  ⟨⟨s.contexts, s.arrays, s.dmas, s.channels, s.chanHandles, s.jobs, s.jobHandles, cl, s.streams, s.mem, s.lines, s.events,
    s.plk, s.out, rfl⟩, fun _ _ => id⟩

theorem streams (s : State) (st : Tab Stream) : Rewinds s { s with streams := st } :=
  ⟨⟨s.contexts, s.arrays, s.dmas, s.channels, s.chanHandles, s.jobs, s.jobHandles, s.collectives, st, s.mem, s.lines, s.events,
    s.plk, s.out, rfl⟩, fun _ _ => id⟩

theorem net (h : Rewinds s t) : t.net = s.net := by
  obtain ⟨⟨_, _, _, _, _, _, _, _, _, _, _, _, _, _, rfl⟩, -⟩ := h
  rfl

theorem netOut (h : Rewinds s t) : t.netOut = s.netOut := by
  obtain ⟨⟨_, _, _, _, _, _, _, _, _, _, _, _, _, _, rfl⟩, -⟩ := h
  rfl

theorem still (h : Rewinds s t) : t.pending = s.pending ∧ t.variant = s.variant := by
  obtain ⟨⟨_, _, _, _, _, _, _, _, _, _, _, _, _, _, rfl⟩, -⟩ := h
  exact ⟨rfl, rfl⟩

end Rewinds

theorem rewinds_collFinish (s : State) (c : Nat) (x : Word) (st : Status) (word : Nat) : Rewinds s (s.collFinish c x st word) := by
  unfold State.collFinish
  extract_lets e s1 k s2 s3 s4
  have posted : Rewinds s s1 := .of_closes (.of_wrote (wrote_post ..))
  have advanced : Rewinds s1 s2 := .setCtx ..
  have counted : Rewinds s2 s3 := by
    unfold s3
    split
    · exact .setCtx ..
    · exact .refl s2
  have left : Rewinds s3 s4 := .collectives ..
  have upTo : Rewinds s s4 := ((posted.trans advanced).trans counted).trans left
  split
  · exact upTo.trans (.raiseEv ..)
  · exact upTo

theorem rewinds_abandonCollectives (s : State) : Rewinds s s.abandonCollectives :=
  .foldl (fun s _ => rewinds_collFinish s ..) _ s

theorem rewinds_stepBack (s : State) (c : Nat) : Rewinds s (s.stepBack c) := by
  unfold State.stepBack
  extract_lets k s1 k'
  split
  · exact .refl s
  · extract_lets s2
    have emptied : Rewinds s s1 := .idleArrays ..
    have back : Rewinds s1 s2 := .setCtx ..
    exact (emptied.trans back).trans (.foldl (fun s i => .of_closes (closes_modChan ..)) _ s2)

theorem rewinds_restartStep (s : State) (r : StepRecord) : Rewinds s (s.restartStep r) := by
  unfold State.restartStep
  extract_lets mine ks s1
  have back : Rewinds s s1 := (rewinds_abandonCollectives s).trans (.foldl (fun s c => rewinds_stepBack s c) _ _)
  split
  · exact back.trans (.streams ..)
  · exact back

theorem collFinish_collectives (s : State) (c : Nat) (x : Word) (st : Status) (word : Nat) :
    (s.collFinish c x st word).collectives = s.collectives.filter fun y => !(y.ctx == c && y.entry == x) := by
  unfold State.collFinish
  extract_lets e s1 k s2 s3 s4
  have posted : s2.collectives = s.collectives := by
    obtain ⟨_, _, _, _, h⟩ := wrote_post s (s.crAt c x + 0x38)
      (leBytes 1 st.code ++ leBytes 1 (collAttempt e) ++ zeros 2 ++ leBytes 4 word)
    exact (congrArg State.collectives h :)
  have counted : s3.collectives = s.collectives := by
    unfold s3
    split <;> exact posted
  have left : s4.collectives = s.collectives.filter fun y => !(y.ctx == c && y.entry == x) := by rw [← counted]
  split
  · rw [State.raiseEv_eq]
    exact left
  · exact left

/-- Every collective that runs ends. -/
theorem abandonCollectives_empty (s : State) : s.abandonCollectives.collectives = [] := by
  have ends (l : List Collective) (s : State) :
      (l.foldl (fun (s : State) x => s.collFinish x.ctx x.entry .domainReset 0) s).collectives =
        s.collectives.filter fun y => l.all fun x => !(y.ctx == x.ctx && y.entry == x.entry) := by
    induction l generalizing s with
    | nil => simp
    | cons x r ih =>
      rw [List.foldl_cons, ih, collFinish_collectives, List.filter_filter]
      simp only [List.all_cons, Bool.and_comm]
  rw [State.abandonCollectives, ends, List.filter_eq_nil_iff]
  intro y mem every
  have self := List.all_eq_true.mp every y mem
  simp at self

end Sys2Proof.Machine
end

section
/-! SUPPORT. What the loss of a group's member leaves as it is (R299 to R302). -/

set_option Elab.async false

namespace Sys2Proof.Machine

/-- Steps that leave a group's registers, take back no message and clear no event bit. -/
structure KeepsNet (s t : State) : Prop where
  net : t.net = s.net
  still : t.pending = s.pending ∧ t.variant = s.variant
  bits : ∀ e b, bitAt (s.ev e).value b = true → bitAt (t.ev e).value b = true
  sent : ∀ m ∈ s.netOut, m ∈ t.netOut

namespace KeepsNet

variable {s t u : State}

theorem refl (s : State) : KeepsNet s s := ⟨rfl, ⟨rfl, rfl⟩, fun _ _ => id, fun _ => id⟩

theorem trans (h : KeepsNet s t) (k : KeepsNet t u) : KeepsNet s u :=
  ⟨k.net.trans h.net, ⟨k.still.1.trans h.still.1, k.still.2.trans h.still.2⟩, fun e b => k.bits e b ∘ h.bits e b, fun m => k.sent m ∘ h.sent m⟩

theorem foldl {α : Type} {f : State → α → State} (step : ∀ s a, KeepsNet s (f s a)) (l : List α) (s : State) : KeepsNet s (l.foldl f s) :=
  List.foldlRecOn (motive := KeepsNet s) l f (refl s) fun t ht a _ => ht.trans (step t a)

theorem of_rewinds (h : Rewinds s t) : KeepsNet s t :=
  ⟨h.net, h.still, h.bits, fun _ mem => by rw [h.netOut]; exact mem⟩

theorem raiseEv (s : State) (e b : Nat) : KeepsNet s (s.raiseEv e b) := .of_rewinds (.raiseEv ..)

theorem sendNet (s : State) (m : NetMsg) : KeepsNet s (s.sendNet m) :=
  ⟨rfl, ⟨rfl, rfl⟩, fun _ _ => id, fun _ => List.mem_append_left _⟩

end KeepsNet

namespace State

variable {s : State}

theorem logStore_frame (s : State) (p : Nat) (l : List Byte) : ∃ m ls, s.logStore p l = { s with mem := m, lines := ls } := by
  unfold logStore
  extract_lets x
  split
  · rw [dirtied_eq]
    exact ⟨_, _, rfl⟩
  · exact ⟨s.mem, s.lines, rfl⟩

theorem logStore_keeps (s : State) (p : Nat) (l : List Byte) : KeepsNet s (s.logStore p l) := by
  obtain ⟨m, ls, h⟩ := s.logStore_frame p l
  rw [h]
  exact ⟨rfl, ⟨rfl, rfl⟩, fun _ _ => id, fun _ => id⟩

/-- A log record changes the log, and goes to the partner. -/
theorem logPut_keeps (s : State) (ty st fl step : Nat) (body : List Byte) : KeepsNet s (s.logPut ty st fl step body) := by
  have setCkp (s : State) (c : Ckp) : KeepsNet s { s with ckp := c } := ⟨rfl, ⟨rfl, rfl⟩, fun _ _ => id, fun _ => id⟩
  unfold logPut
  split
  · exact .refl s
  · split
    · exact .refl s
    · extract_lets _ _ _ _ _ s1 _ s2 _ s3 _
      have stored : KeepsNet s s1 := by
        unfold s1
        split
        · exact setCkp ..
        · exact logStore_keeps ..
      have sent : KeepsNet s1 s2 := by
        unfold s2
        split
        · exact .sendNet ..
        · split
          · exact .refl s1
          · exact setCkp ..
      have counted : KeepsNet s s3 := (stored.trans sent).trans (setCkp ..)
      split
      · exact (counted.trans (setCkp ..)).trans (.raiseEv ..)
      · exact counted

theorem rosterLog_keeps (s : State) (lost by_ : Nat) : KeepsNet s (s.rosterLog lost by_) := s.logPut_keeps ..

theorem sendAll_keeps (s : State) (f : Nat → NetMsg) : KeepsNet s (s.sendAll f) := .foldl (fun s _ => .sendNet ..) _ s

theorem sendPages_keeps (s : State) (heir : Nat) : KeepsNet s (s.sendPages heir) := by
  unfold sendPages
  split
  · exact .foldl (fun s _ => .sendNet ..) _ s
  · exact .refl s

theorem tget_tmod_ne {α : Type} {t : Tab α} {k i : Nat} (f : α → α) (ne : i ≠ k) : tget (tmod t k f) i = tget t i := by
  unfold tmod
  split
  · exact tget_tput_ne _ _ ne
  · rfl

end State

/-- A member that the group has lost. -/
def Member.gone (x : Member) : Bool := x.state == 2 || x.state == 3

/-- Steps by which a group loses member `m`: connections stay, and who is lost stays lost. -/
structure Loses (m : Nat) (s t : State) : Prop where
  qps : t.net.qps = s.net.qps
  still : t.pending = s.pending ∧ t.variant = s.variant
  bits : ∀ e b, bitAt (s.ev e).value b = true → bitAt (t.ev e).value b = true
  gone : (s.member m).any Member.gone = true → (t.member m).any Member.gone = true

namespace Loses

variable {m : Nat} {s t u : State}

theorem refl (m : Nat) (s : State) : Loses m s s := ⟨rfl, ⟨rfl, rfl⟩, fun _ _ => id, id⟩

theorem trans (h : Loses m s t) (k : Loses m t u) : Loses m s u :=
  ⟨k.qps.trans h.qps, ⟨k.still.1.trans h.still.1, k.still.2.trans h.still.2⟩, fun e b => k.bits e b ∘ h.bits e b, k.gone ∘ h.gone⟩

theorem of_keepsNet (h : KeepsNet s t) : Loses m s t := by
  refine ⟨by rw [h.net], h.still, h.bits, ?_⟩
  unfold State.member
  rw [h.net]
  exact id

theorem setNet (n : Net) (qps : n.qps = s.net.qps := by rfl) (members : n.members = s.net.members := by rfl) : Loses m s (s.setNet n) := by
  refine ⟨qps, ⟨rfl, rfl⟩, fun _ _ => id, fun lost => ?_⟩
  rw [State.member, State.setNet, members]
  exact lost

theorem modMember_ne {k : Nat} (f : Member → Member) (ne : m ≠ k) : Loses m s (s.modMember k f) := by
  refine ⟨rfl, ⟨rfl, rfl⟩, fun _ _ => id, fun lost => ?_⟩
  rw [State.member, State.modMember, State.setNet, State.tget_tmod_ne f ne]
  exact lost

theorem modMember_self {f : Member → Member} (gone : ∀ x, x.gone = true → (f x).gone = true) : Loses m s (s.modMember m f) := by
  refine ⟨rfl, ⟨rfl, rfl⟩, fun _ _ => id, fun lost => ?_⟩
  obtain ⟨x, there, lost⟩ := (Option.any_eq_true ..).mp lost
  rw [State.member, State.modMember, State.setNet, State.tget_tmod_same there f]
  exact gone x lost

end Loses

namespace State

variable {s : State} {m : Nat}

theorem loses_newDeputy (m : Nat) (s : State) (lost : Nat) : Loses m s (s.newDeputy lost) := by
  unfold newDeputy
  extract_lets d
  split
  · exact .refl m s
  · exact (Loses.setNet _).trans (.of_keepsNet (.sendNet ..))

theorem loses_restartRecord (m : Nat) (s : State) : Loses m s s.restartRecord := by
  unfold restartRecord
  split
  · extract_lets r1
    exact ((Loses.setNet _).trans (.of_keepsNet (.of_rewinds (rewinds_restartStep ..)))).trans (.of_keepsNet (.sendNet ..))
  · exact .refl m s

theorem loses_takePlace (m heir : Nat) (s : State) (x : Member) : Loses m s (s.takePlace heir x) := by
  unfold takePlace
  extract_lets s1
  have taken : Loses m s s1 := by
    by_cases same : m = heir
    · subst same
      exact .modMember_self fun _ gone => gone
    · exact .modMember_ne _ same
  split
  · exact taken.trans (.of_keepsNet (sendPages_keeps ..))
  · exact taken

theorem loses_replaceMember (m : Nat) (s : State) (r lost : Nat) (x : Member) : Loses m s (s.replaceMember r lost x) := by
  unfold replaceMember
  extract_lets mate s1
  have asked : Loses m s s1 := .of_keepsNet (.sendNet ..)
  split
  · exact asked.trans (loses_restartRecord m s1)
  · exact asked.trans (.setNet _)

theorem loses_removeReplica (m : Nat) (s : State) (x : Nat) : Loses m s (s.removeReplica x) := by
  refine ⟨rfl, ⟨rfl, rfl⟩, fun _ _ => id, fun lost => ?_⟩
  obtain ⟨y, there, lost⟩ := (Option.any_eq_true ..).mp lost
  have stays : ¬ (y.role = 0 ∧ y.state ≠ 2 ∧ y.state ≠ 3 ∧ x < y.replica ∧ y.replica ≠ 0xFFFF) := by
    rintro ⟨-, two, three, -⟩
    simp [Member.gone, two, three] at lost
  have found : (s.removeReplica x).member m = some y := by
    rw [member, removeReplica]
    dsimp only [setNet]
    rw [tget_tmap, show tget s.net.members m = some y from there, Option.map_some, if_neg stays]
  rw [found]
  exact lost

theorem loses_tell (m : Nat) (s : State) (l : List GroupNotice) : Loses m s (s.tell l) := .of_keepsNet (sendAll_keeps ..)

theorem loses_haltGroup (m : Nat) (s : State) : Loses m s s.haltGroup := (Loses.setNet _).trans (.of_keepsNet (.raiseEv ..))

/-- The generation that a loss begins, in the log, with a new deputy where it was the deputy. -/
def newGen (s : State) (m by_ : Nat) : State :=
  let s2 := (s.setNet { s.net with gen := s.net.gen + 1 }).rosterLog m by_
  if s2.net.deputy = m then s2.newDeputy m else s2

theorem loses_newGen (m : Nat) (s : State) (by_ : Nat) : Loses m s (s.newGen m by_) := by
  let s2 := (s.setNet { s.net with gen := s.net.gen + 1 }).rosterLog m by_
  have told : Loses m s s2 := (Loses.setNet _).trans (.of_keepsNet (rosterLog_keeps ..))
  have next : s.newGen m by_ = if s2.net.deputy = m then s2.newDeputy m else s2 := rfl
  rw [next]
  split
  · exact told.trans (loses_newDeputy m s2 m)
  · exact told

theorem loses_settleLoss (m : Nat) (s : State) : Loses m s (s.settleLoss m) := by
  unfold settleLoss
  split
  · exact .refl m s
  · extract_lets note go
    split
    · have replaced : Loses m s (s.modMember m fun y => { y with state := 3 }) := .modMember_self fun _ _ => rfl
      exact (((replaced.trans (loses_takePlace m _ _ _)).trans (.setNet _)).trans (loses_newGen m _ _)).trans (loses_replaceMember m ..)
    · split
      · exact (loses_tell m ..).trans (loses_haltGroup m _)
      · exact (((loses_removeReplica m s _).trans (.setNet _)).trans (loses_newGen m _ _)).trans (loses_restartRecord m _)

/-! ### The loss noted -/

/-- The member marked as lost, its event set, and the collectives that ran ended. -/
def lossBegun (s : State) (m : Nat) : State := ((s.modMember m fun y => { y with state := 2 }).raiseEv evNet 0).abandonCollectives

/-- The same, with no wait for the member any longer. -/
def lossFreed (s : State) (m : Nat) : State :=
  if (s.lossBegun m).net.holdFor = some m then (s.lossBegun m).setNet { (s.lossBegun m).net with holdFor := none } else s.lossBegun m

/-- What the group's registers are then. -/
def lossNet (s : State) (m : Nat) : Net :=
  { s.net with
    members := tmod s.net.members m fun y => { y with state := 2 }
    holdFor := if s.net.holdFor = some m then none else s.net.holdFor }

theorem lossBegun_net (s : State) (m : Nat) : (s.lossBegun m).net = { s.net with members := tmod s.net.members m fun y => { y with state := 2 } } :=
  (KeepsNet.trans (.raiseEv ..) (.of_rewinds (rewinds_abandonCollectives _))).net

theorem lossBegun_spec (s : State) (m : Nat) :
    (s.lossBegun m).pending = s.pending ∧ (s.lossBegun m).variant = s.variant ∧ (s.lossBegun m).netOut = s.netOut ∧
      (s.lossBegun m).collectives = [] ∧ bitAt ((s.lossBegun m).ev evNet).value 0 = true := by
  let marked := s.modMember m fun y => { y with state := 2 }
  have ended : Rewinds (marked.raiseEv evNet 0) (s.lossBegun m) := rewinds_abandonCollectives _
  have path : Rewinds marked (s.lossBegun m) := (Rewinds.raiseEv ..).trans ended
  exact ⟨path.still.1, path.still.2, path.netOut, abandonCollectives_empty _, ended.bits evNet 0 (raiseEv_sets ..)⟩

theorem lossFreed_net (s : State) (m : Nat) : (s.lossFreed m).net = s.lossNet m := by
  unfold lossFreed lossNet
  rw [lossBegun_net]
  dsimp only
  split
  · rfl
  · rw [lossBegun_net]

theorem lossFreed_spec (s : State) (m : Nat) :
    (s.lossFreed m).pending = s.pending ∧ (s.lossFreed m).variant = s.variant ∧ (s.lossFreed m).netOut = s.netOut ∧
      (s.lossFreed m).collectives = [] ∧ bitAt ((s.lossFreed m).ev evNet).value 0 = true := by
  unfold lossFreed
  split
  · exact s.lossBegun_spec m
  · exact s.lossBegun_spec m

/-- The loss of a member whose master this is: it waits for a record on its way, or is settled at once. -/
theorem memberLost_eq {x : Member} (there : s.member m = some x) (master : s.isMaster = true) (present : x.state = 1) (role : x.role ≠ 2)
    (other : m ≠ s.net.self) : s.memberLost m =
      match s.net.sentToDeputy, s.net.record with
      | true, some r =>
        let s2 := (s.lossFreed m).setNet { s.lossNet m with unsettled := s.net.unsettled ++ [m] }
        if s.net.deputy = m then
          let s3 := s2.newDeputy m
          s3.sendNet (.stepStart s3.net.groupId s3.net.deputy r)
        else s2
      | _, _ => (s.lossFreed m).settleLoss m := by
  have acts : ¬ (s.isMaster = false ∨ x.state = 2 ∨ x.state = 3 ∨ m = s.net.self ∨ x.role = 2) := by
    simp [master, present, role, other]
  have net := s.lossFreed_net m
  rw [memberLost, there]
  dsimp only
  rw [if_neg acts]
  change (match (s.lossFreed m).net.sentToDeputy, (s.lossFreed m).net.record with
    | true, some r =>
      let s2 := (s.lossFreed m).setNet { (s.lossFreed m).net with unsettled := (s.lossFreed m).net.unsettled ++ [m] }
      if s2.net.deputy = m then
        let s3 := s2.newDeputy m
        s3.sendNet (.stepStart s3.net.groupId s3.net.deputy r)
      else s2
    | _, _ => (s.lossFreed m).settleLoss m) = _
  rw [net]
  rfl

/-- A member of the group is lost, and the group tells of it. -/
theorem memberLost_spec {x : Member} (there : s.member m = some x) (master : s.isMaster = true) (present : x.state = 1) (role : x.role ≠ 2)
    (other : m ≠ s.net.self) :
    let t := s.memberLost m
    t.net.qps = s.net.qps ∧ t.pending = s.pending ∧ t.variant = s.variant ∧ (t.member m).any Member.gone = true ∧
      bitAt (t.ev evNet).value 0 = true := by
  obtain ⟨pending, variant, -, -, bit⟩ := s.lossFreed_spec m
  have net := s.lossFreed_net m
  have qps : (s.lossFreed m).net.qps = s.net.qps := by
    rw [net]
    rfl
  have gone : ((s.lossFreed m).member m).any Member.gone = true := by
    rw [member, net, lossNet, tget_tmod_same there]
    rfl
  have eq := memberLost_eq there master present role other
  generalize s.lossFreed m = u at *
  have lost : Loses m u (s.memberLost m) := by
    rw [eq]
    split
    · have waits : Loses m u (u.setNet { s.lossNet m with unsettled := s.net.unsettled ++ [m] }) :=
        .setNet _ (by rw [net]) (by rw [net])
      dsimp only
      split
      · exact (waits.trans (loses_newDeputy m _ m)).trans (.of_keepsNet (.sendNet ..))
      · exact waits
    · exact loses_settleLoss m u
  exact ⟨lost.qps.trans qps, lost.still.1.trans pending, lost.still.2.trans variant, lost.gone gone, lost.bits evNet 0 bit⟩

end State

end Sys2Proof.Machine
end

section
/-! O58. Ethernet ports and queue pairs (R287, R292 to R295). -/

set_option Elab.async false

namespace Sys2Proof.Machine

/-- A one-bit field is written between what lies above it and below it. -/
theorem setFld_bit (v p : Nat) (b : Bool) : setFld v p p (b2n b) = 2 ^ p * (2 * (v / 2 ^ (p + 1)) + b2n b) + v % 2 ^ p := by
  have above : v / 2 ^ p / 2 = v / 2 ^ (p + 1) := by rw [Nat.div_div_eq_div_mul, pow_succ]
  have whole := Nat.div_add_mod v (2 ^ p)
  have half := Nat.div_add_mod (v / 2 ^ p) 2
  have one : b2n b % 2 = b2n b := by cases b <;> rfl
  have width : p + 1 - p = 1 := by omega
  rw [setFld, fld, width, pow_one, one]
  rw [above] at half
  have split : v = 2 ^ p * (2 * (v / 2 ^ (p + 1))) + v / 2 ^ p % 2 * 2 ^ p + v % 2 ^ p := by
    calc v = 2 ^ p * (v / 2 ^ p) + v % 2 ^ p := whole.symm
      _ = 2 ^ p * (2 * (v / 2 ^ (p + 1)) + v / 2 ^ p % 2) + v % 2 ^ p := by rw [half]
      _ = _ := by rw [Nat.mul_add, Nat.mul_comm (2 ^ p) (v / 2 ^ p % 2)]
  rw [Nat.mul_add, Nat.mul_comm (2 ^ p) (b2n b)]
  omega

theorem bitAt_setFld_self (v p : Nat) (b : Bool) : bitAt (setFld v p p (b2n b)) p = b := by
  have low : v % 2 ^ p / 2 ^ p = 0 := Nat.div_eq_of_lt (Nat.mod_lt _ (Nat.two_pow_pos p))
  rw [bitAt, setFld_bit, Nat.mul_add_div (Nat.two_pow_pos p), low, Nat.add_zero, Nat.mul_add_mod]
  cases b <;> rfl

theorem bitAt_setFld_ne (v : Nat) {p n : Nat} (b : Bool) (ne : n ≠ p) : bitAt (setFld v p p (b2n b)) n = bitAt v n := by
  have low : v % 2 ^ p / 2 ^ p = 0 := Nat.div_eq_of_lt (Nat.mod_lt _ (Nat.two_pow_pos p))
  rcases Nat.lt_or_gt_of_ne ne with below | above
  · /- Below the field: its weight is even there. -/
    obtain ⟨k, rfl⟩ : ∃ k, p = n + (k + 1) := ⟨p - n - 1, by omega⟩
    have even (x : Nat) : 2 ^ (n + (k + 1)) * x = 2 ^ n * (2 * (2 ^ k * x)) := by ring
    have same (x r : Nat) : (2 ^ (n + (k + 1)) * x + r) / 2 ^ n % 2 = r / 2 ^ n % 2 := by
      rw [even, Nat.mul_add_div (Nat.two_pow_pos n), Nat.mul_add_mod]
    unfold bitAt
    rw [setFld_bit, same]
    conv_rhs => rw [← Nat.div_add_mod v (2 ^ (n + (k + 1))), same]
  · obtain ⟨k, rfl⟩ : ∃ k, n = p + 1 + k := ⟨n - p - 1, by omega⟩
    have high : setFld v p p (b2n b) / 2 ^ (p + 1) = v / 2 ^ (p + 1) := by
      rw [pow_succ, ← Nat.div_div_eq_div_mul, setFld_bit, Nat.mul_add_div (Nat.two_pow_pos p), low, ← pow_succ]
      have bit : b2n b < 2 := by cases b <;> decide
      omega
    unfold bitAt
    rw [pow_add, ← Nat.div_div_eq_div_mul, high, Nat.div_div_eq_div_mul]

namespace State

variable {s : State} {p q : Nat}

/-! ### Ports -/

/-- A port in a new state: each connection that it moves resends. -/
theorem portTo_eq (s : State) (p state : Nat) : ∃ no nh, s.portTo p state =
      { s with ports := tput s.ports p { s.port p with state := state }, netOut := no, netHeld := nh } ∧
    ∀ i ∈ s.connections, s.qpPort i ≠ (s.portTo p state).qpPort i → NetMsg.resend i ∈ no := by
  let s1 := s.setPort p { s.port p with state := state }
  let f := fun (t : State) q => if s.qpPort q = s1.qpPort q then t else t.sendNet (.resend q)
  let u := s.connections.foldl f s1
  obtain ⟨no, nh, sent⟩ : ∃ no nh, u = { s1 with netOut := no, netHeld := nh } := by
    refine List.foldlRecOn (motive := fun t => ∃ no nh, t = { s1 with netOut := no, netHeld := nh }) _ f ⟨s1.netOut, s1.netHeld, rfl⟩ ?_
    rintro _ ⟨no, nh, rfl⟩ q _
    unfold f
    split
    · exact ⟨no, nh, rfl⟩
    · exact ⟨_, _, rfl⟩
  have told (i : Nat) (mem : i ∈ s.connections) (moves : s.qpPort i ≠ s1.qpPort i) : NetMsg.resend i ∈ u.netOut := by
    refine (foldl_reaches (f := f) (I := fun _ => True) (Q := fun t => NetMsg.resend i ∈ t.netOut) (d := i) (fun _ _ _ _ => trivial)
      (fun t _ => ?_) (fun t q _ _ mem => ?_) mem trivial).2
    · unfold f
      rw [if_neg moves]
      exact List.mem_append_right _ (List.mem_singleton.mpr rfl)
    · unfold f
      split
      · exact mem
      · exact List.mem_append_left _ mem
  have released : s.portTo p state = u.releaseNet := rfl
  rw [released, sent] at *
  exact ⟨no, _, rfl, told⟩

theorem portDown_spec (s : State) (p : Nat) :
    let t := s.portDown p
    t.port p = { s.port p with state := 2 } ∧ bitAt (t.ev evNet).value 5 = true ∧ (∀ n, n ≠ p → t.port n = s.port n) ∧
      (∀ i, i ∈ s.connections → s.qpPort i ≠ t.qpPort i → NetMsg.resend i ∈ t.netOut) ∧
      ∃ po no nh es pl o, t = { s with ports := po, netOut := no, netHeld := nh, events := es, plk := pl, out := o } := by
  obtain ⟨no, nh, moved, told⟩ := s.portTo_eq p 2
  have set : bitAt ((s.portDown p).ev evNet).value 5 = true := raiseEv_sets ..
  have eq : s.portDown p = (s.portTo p 2).raiseEv evNet 5 := rfl
  rw [raiseEv_eq, moved] at eq
  rw [moved] at told
  dsimp only
  refine ⟨?_, set, fun n ne => ?_, ?_, ?_⟩
  all_goals rw [eq]
  · exact tgetD_tput_same ..
  · exact tgetD_tput_ne _ _ _ ne
  · exact told
  · exact ⟨_, _, _, _, _, _, rfl⟩

theorem portUp_spec (trained : (s.port p).state ≠ 3) :
    let t := s.portUp p
    t.port p = { s.port p with state := 0 } ∧ (∀ n, n ≠ p → t.port n = s.port n) ∧
      (∀ k g, tget s.rings k = some g → tget t.rings k =
        some (if g.lost = true ∧ t.qpPort (ringQp k) = some p then { g with lost := false } else g)) ∧
      (∀ i, i ∈ s.connections → s.qpPort i ≠ t.qpPort i → NetMsg.resend i ∈ t.netOut) ∧
      ∃ po no nh rs qs, t = { s with ports := po, netOut := no, netHeld := nh, rings := rs, net := { s.net with qps := qs } } := by
  obtain ⟨no, nh, moved, told⟩ := s.portTo_eq p 0
  have eq : s.portUp p = (s.portTo p 0).ringsBack p := if_neg trained
  rw [moved] at eq told
  dsimp only
  rw [eq]
  refine ⟨tgetD_tput_same .., fun n ne => tgetD_tput_ne _ _ _ ne, fun k g there => ?_, told, ⟨_, _, _, _, _, rfl⟩⟩
  let u : State := { s with ports := tput s.ports p { s.port p with state := 0 }, netOut := no, netHeld := nh }
  have found : tget (u.ringsBack p).rings k =
      (tget s.rings k).map fun g => if g.lost && u.qpPort (ringQp k) == some p then { g with lost := false } else g := by
    rw [ringsBack]
    exact tget_tmap (fun k g => if g.lost && u.qpPort (ringQp k) == some p then { g with lost := false } else g) s.rings k
  have same : (u.ringsBack p).qpPort (ringQp k) = u.qpPort (ringQp k) := rfl
  rw [found, same, there, Option.map_some]
  congr 1
  simp only [Bool.and_eq_true, beq_iff_eq]

/-- A PFC frame, or the end of its pause, changes one bit of its port. -/
theorem pfcPause_spec (s : State) (p prio quanta : Nat) :
    let t := s.pfcPause p prio quanta
    bitAt (t.port p).paused prio = (quanta != 0) ∧ (∀ n, n < 8 → n ≠ prio → bitAt (t.port p).paused n = bitAt (s.port p).paused n) ∧
      t.port p = { s.port p with paused := (t.port p).paused } ∧ (∀ n, n ≠ p → t.port n = s.port n) ∧
      t = { s with ports := t.ports, netHeld := t.netHeld } := by
  have here : (s.pfcPause p prio quanta).port p = { s.port p with paused := setFld (s.port p).paused prio prio (b2n (quanta != 0)) } :=
    tgetD_tput_same ..
  dsimp only
  rw [here]
  exact ⟨bitAt_setFld_self .., fun n _ ne => bitAt_setFld_ne _ _ ne, rfl, fun n ne => tgetD_tput_ne _ _ _ ne, rfl⟩

/-! ### Queue pairs -/

theorem retryTimeout_resends (working : (s.qp q).failed = false) (few : (s.qp q).retries < 7) :
    let t := s.retryTimeout q
    t.qp q = { s.qp q with retries := (s.qp q).retries + 1 } ∧ (∀ n, n ≠ q → t.qp n = s.qp n) ∧ t.netOut = s.netOut ++ [.resend q] ∧
      (∀ n, s.qpPort q = some n → (t.port n).retrans = satAdd 16 (s.port n).retrans 1) ∧
      ∃ qs po nh, t = { s with net := { s.net with qps := qs }, ports := po, netOut := s.netOut ++ [.resend q], netHeld := nh } := by
  have eq : s.retryTimeout q = match s.qpPort q with
      | some p => ((s.setQp q { s.qp q with retries := (s.qp q).retries + 1 }).sendNet (.resend q)).setPort p
          { s.port p with retrans := satAdd 16 (s.port p).retrans 1 }
      | none => (s.setQp q { s.qp q with retries := (s.qp q).retries + 1 }).sendNet (.resend q) := by
    rw [retryTimeout]
    dsimp only
    rw [working, if_neg (by decide), if_neg (by omega)]
    rfl
  dsimp only
  rw [eq]
  have kept (n : Nat) (ne : n ≠ q) : (s.setQp q { s.qp q with retries := (s.qp q).retries + 1 }).qp n = s.qp n := setQp_qp_ne _ _ ne
  split
  next p carried =>
    refine ⟨setQp_qp .., kept, rfl, fun n found => ?_, ⟨_, _, _, rfl⟩⟩
    have same : p = n := Option.some.inj (carried.symm.trans found)
    subst same
    rw [setPort_port]
  next carried =>
    refine ⟨setQp_qp .., kept, rfl, fun n found => ?_, ⟨_, _, _, rfl⟩⟩
    rw [carried] at found
    cases found

theorem retryTimeout_fails (working : (s.qp q).failed = false) (many : 7 ≤ (s.qp q).retries) :
    s.retryTimeout q = s.setQp q { s.qp q with failed := true } := by
  rw [retryTimeout]
  dsimp only
  rw [working, if_neg (by decide), if_pos many]

theorem cnpArrives_spec (s : State) (q : Nat) :
    let t := s.cnpArrives q
    (s.since50us (s.qp q).cnpRx = true → t.qp q = { s.qp q with rateHalf := (s.qp q).rateHalf + 1, cnpRx := some s.edgeTime }) ∧
      (s.since50us (s.qp q).cnpRx = false → t.qp q = s.qp q) ∧ (∀ n, n ≠ q → t.qp n = s.qp n) ∧
      (∀ n, s.qpPort q = some n → (t.port n).cnp = satAdd 16 (s.port n).cnp 1) ∧
      ∃ qs po, t = { s with net := { s.net with qps := qs }, ports := po } := by
  let s1 := if s.since50us (s.qp q).cnpRx then s.setQp q { s.qp q with rateHalf := (s.qp q).rateHalf + 1, cnpRx := some s.edgeTime } else s
  have due (h : s.since50us (s.qp q).cnpRx = true) :
      s1 = s.setQp q { s.qp q with rateHalf := (s.qp q).rateHalf + 1, cnpRx := some s.edgeTime } := if_pos h
  have early (h : s.since50us (s.qp q).cnpRx = false) : s1 = s := if_neg (by rw [h]; decide)
  have kept (n : Nat) (ne : n ≠ q) : s1.qp n = s.qp n := by
    unfold s1
    split
    · exact setQp_qp_ne _ _ ne
    · rfl
  have ports : s1.ports = s.ports := by
    unfold s1
    split <;> rfl
  have frame : ∃ qs, s1 = { s with net := { s.net with qps := qs } } := by
    unfold s1
    split
    · exact ⟨_, rfl⟩
    · exact ⟨s.net.qps, rfl⟩
  have eq : s.cnpArrives q = match s.qpPort q with
      | some p => s1.setPort p { s1.port p with cnp := satAdd 16 (s1.port p).cnp 1 }
      | none => s1 := rfl
  clear_value s1
  obtain ⟨qs, frame⟩ := frame
  dsimp only
  rw [eq]
  split
  next p carried =>
    refine ⟨fun h => ?_, fun h => ?_, kept, fun n found => ?_, ?_⟩
    · rw [due h]
      exact setQp_qp ..
    · rw [early h]
      rfl
    · have same : p = n := Option.some.inj (carried.symm.trans found)
      subst same
      rw [setPort_port, port, ports]
      rfl
    · rw [frame]
      exact ⟨qs, _, rfl⟩
  next carried =>
    refine ⟨fun h => ?_, fun h => ?_, kept, fun n found => ?_, qs, s.ports, frame⟩
    · rw [due h]
      exact setQp_qp ..
    · rw [early h]
    · rw [carried] at found
      cases found

theorem rateUp_qp (s : State) (q : Nat) : (s.rateUp q).qp q =
    if 64 * 2 ^ (s.qp q).rateHalf ≤ (s.qp q).rateNum + 2 ^ (s.qp q).rateHalf then { s.qp q with rateNum := 64, rateHalf := 0 }
    else { s.qp q with rateNum := (s.qp q).rateNum + 2 ^ (s.qp q).rateHalf } := setQp_qp ..

/-- A ring whose connection fails is lost, and its request held. -/
theorem ringFails_lost {k : Nat} {g : Ring} (there : tget s.rings k = some g) (peer : g.peer = true) (working : g.lost = false) :
    tget (s.ringFails k).rings k = some { g with lost := true } ∧ bitAt ((s.ringFails k).ev evSrv).value 5 = true ∧
      ∃ rq es pl o, s.ringFails k =
        { s with rings := tput s.rings k { g with lost := true }, requests := rq, events := es, plk := pl, out := o } := by
  obtain ⟨rq, eq⟩ : ∃ rq, s.ringFails k =
      ({ s with rings := tput s.rings k { g with lost := true }, requests := rq } : State).raiseEv evSrv 5 := by
    rw [ringFails, there]
    dsimp only
    rw [peer, working, if_neg (by decide)]
    split
    · exact ⟨_, rfl⟩
    · exact ⟨s.requests, rfl⟩
  have set : bitAt ((s.ringFails k).ev evSrv).value 5 = true := by
    rw [eq]
    exact raiseEv_sets ..
  rw [raiseEv_eq] at eq
  refine ⟨?_, set, ⟨_, _, _, _, eq⟩⟩
  rw [eq]
  exact tget_tput_same ..

/-- The step of `roceRetryTimeout`. -/
def retryStep (s : State) (q : Nat) : State :=
  let t := s.retryTimeout q
  if (t.qp q).failed && !(s.qp q).failed then t.connectionLost q else t

theorem retryStep_resends (working : (s.qp q).failed = false) (few : (s.qp q).retries < 7) : s.retryStep q = s.retryTimeout q := by
  have still : ((s.retryTimeout q).qp q).failed = false := by
    rw [(retryTimeout_resends working few).1]
    exact working
  exact if_neg (by rw [still]; simp)

theorem retryStep_fails (working : (s.qp q).failed = false) (many : 7 ≤ (s.qp q).retries) :
    s.retryStep q = (s.setQp q { s.qp q with failed := true }).connectionLost q := by
  have eq := retryTimeout_fails working many
  have failed : ((s.retryTimeout q).qp q).failed = true := by
    rw [eq, setQp_qp]
  have lost : s.retryStep q = (s.retryTimeout q).connectionLost q := if_pos (by rw [failed, working]; rfl)
  rw [lost, eq]

end State

/-- Settles O58: a port's change moves connections, each told by a resend; a connection that fails is lost to the group, the ring or
the session whose it was, and none of these touches another connection. -/
theorem portsAndQueuePairs : Obligations.PortsAndQueuePairs := by
  intro s p q live
  refine ⟨?_, fun trained => ?_, fun out => ?_, fun prio quanta _ => ⟨?_, ?_⟩, fun working few => ?_, fun working many => ?_,
    fun due => ?_, fun early => ?_, ?_, ?_⟩
  · obtain ⟨port, bit, others, told, _, _, _, _, _, _, frame⟩ := s.portDown_spec p
    refine ⟨_, act_eq_next (f := (State.portDown · p)) live rfl (by rw [frame]) (by rw [frame]), port, bit, others, told, ?_⟩
    generalize s.portDown p = t at frame
    rw [frame]
  · obtain ⟨port, others, rings, told, _, _, _, _, _, frame⟩ := State.portUp_spec trained
    refine ⟨_, act_eq_next (f := (State.portUp · p)) live rfl (by rw [frame]) (by rw [frame]), port, others, rings, told, ?_⟩
    generalize s.portUp p = t at frame
    rw [frame]
  · exact ⟨s, act_eq_next (f := (State.portUp · p)) live (if_pos out), rfl⟩
  · obtain ⟨paused, bits, port, others, frame⟩ := s.pfcPause_spec p prio quanta
    exact ⟨_, act_eq_next (f := (State.pfcPause · p prio quanta)) live rfl, paused, bits, port, others, frame⟩
  · obtain ⟨paused, bits, port, others, frame⟩ := s.pfcPause_spec p prio 0
    exact ⟨_, act_eq_next (f := (State.pfcPause · p prio 0)) live rfl, paused, bits, port, others, frame⟩
  · obtain ⟨qp, others, sent, counted, _, _, _, frame⟩ := State.retryTimeout_resends working few
    refine ⟨_, act_eq_next (f := (State.retryStep · q)) live (State.retryStep_resends working few) (by rw [frame]) (by rw [frame]),
      qp, others, sent, counted, ?_⟩
    generalize s.retryTimeout q = t at frame
    rw [frame]
  · have failed := State.retryStep_fails working many
    have here := s.setQp_qp q { s.qp q with failed := true }
    have others (n : Nat) (ne : n ≠ q) : (s.setQp q { s.qp q with failed := true }).qp n = s.qp n := State.setQp_qp_ne _ _ ne
    refine ⟨fun outside noStream noRing noMirror => ?_, fun g outside above below there peer working' => ?_,
      fun x ofGroup master there present role other => ?_⟩
    · have ends : (s.setQp q { s.qp q with failed := true }).connectionLost q = s.setQp q { s.qp q with failed := true } :=
        (if_neg outside).trans ((if_neg (by omega)).trans ((if_neg (by omega)).trans (if_neg (not_and_or.mpr (noMirror.imp not_le.mpr not_lt.mpr)))))
      exact ⟨_, act_eq_next (f := (State.retryStep · q)) live (failed.trans ends), here, others, rfl⟩
    · have ring : (s.setQp q { s.qp q with failed := true }).connectionLost q =
          (s.setQp q { s.qp q with failed := true }).ringFails (q - 0x200000) :=
        (if_neg outside).trans ((if_neg (by omega)).trans (if_pos ⟨above, below⟩))
      obtain ⟨ring', bit, rs, es, pl, o, frame⟩ := State.ringFails_lost (s := s.setQp q { s.qp q with failed := true }) there peer working'
      have eq := failed.trans ring
      generalize (s.setQp q { s.qp q with failed := true }).ringFails (q - 0x200000) = t at *
      refine ⟨t, act_eq_next (f := (State.retryStep · q)) live eq (by rw [frame]; rfl) (by rw [frame]; rfl), ?_, fun n ne => ?_, ring', bit⟩
      · rw [frame]
        exact here
      · rw [frame]
        exact others n ne
    · have lost : (s.setQp q { s.qp q with failed := true }).connectionLost q =
          (s.setQp q { s.qp q with failed := true }).memberLost ((q - s.net.qpnBase) / 2) := if_pos ofGroup
      obtain ⟨qps, pending, variant, gone, bit⟩ :=
        State.memberLost_spec (s := s.setQp q { s.qp q with failed := true }) there master present role other
      have eq := failed.trans lost
      generalize (s.setQp q { s.qp q with failed := true }).memberLost ((q - s.net.qpnBase) / 2) = t at *
      have qp (n : Nat) : t.qp n = (s.setQp q { s.qp q with failed := true }).qp n :=
        congrArg (fun l => tgetD l n Qp.reset) qps
      exact ⟨t, act_eq_next (f := (State.retryStep · q)) live eq pending variant, (qp q).trans here, fun n ne => (qp n).trans (others n ne),
        gone, bit⟩
  · exact ⟨_, act_eq_next (f := (State.cePacket · q)) live (if_pos due), s.setQp_qp q _, fun n ne => s.setQp_qp_ne _ ne, rfl⟩
  · exact ⟨s, act_eq_next (f := (State.cePacket · q)) live (if_neg (by rw [early]; decide)), rfl⟩
  · obtain ⟨due, early, others, counted, _, _, frame⟩ := s.cnpArrives_spec q
    refine ⟨_, act_eq_next (f := (State.cnpArrives · q)) live rfl (by rw [frame]) (by rw [frame]), due, early, others, counted, ?_⟩
    generalize s.cnpArrives q = t at frame
    rw [frame]
  · refine ⟨_, act_eq_next (f := (State.rateUp · q)) live rfl, fun below => ?_, fun full => ?_, fun k ne => s.setQp_qp_ne _ ne, rfl⟩
    · rw [State.rateUp_qp, if_neg (by omega)]
      exact ⟨rfl, rfl⟩
    · rw [State.rateUp_qp, if_pos full]
      exact ⟨rfl, rfl⟩

end Sys2Proof.Machine
end

section
/-! O56. A group's losses, over a table of members that nothing keeps in order (R298 to R302). -/

set_option Elab.async false

namespace Sys2Proof.Machine

/-- A compute member in service, of a replica. -/
def computeMember (replica : Nat) : Member :=
  { role := 0, replica, stage := 0, protoMax := 0, feed := 0, ident := 0, state := 1, lastStep := 0, lastHeard := 0, missed := false,
    paused := false }

/-- Member 5 is the master of a group of two whose table lists member 3 after it; a step record is on its way to the deputy. -/
def unorderedGroup : State := { State.reset with
  net := { Net.reset with
    state := .running, self := 5, master := 5, deputy := 7, sentToDeputy := true
    members := [(5, computeMember 0), (3, computeMember 1)]
    record := some { step := 0, term := 0, gen := 0, decision := 0, seed := 0, lrH := 0, cursors := [] } } }

/-- The mark of a missed member goes before the master's entry and leaves the old entry behind it: the member counts twice. -/
theorem unorderedGroup_counts : (unorderedGroup.modMember 3 fun m => { m with missed := true }).missedOf = (2, 3) := by decide

theorem unorderedGroup_stops : (unorderedGroup.peerMiss 3).member 3 = some { computeMember 1 with missed := true } := by
  have marked := unorderedGroup_counts
  have stops : (unorderedGroup.peerMiss 3) =
      (unorderedGroup.modMember 3 fun m => { m with missed := true }).setNet
        { (unorderedGroup.modMember 3 fun m => { m with missed := true }).net with stopped := true } := by
    have acts : ¬ (unorderedGroup.inGroup = false ∨ ((computeMember 1).paused = true ∧
      (unorderedGroup.edgeTime - (computeMember 1).lastHeard).toNat ≤ 1000000000) ∨ 3 = unorderedGroup.net.self) := by decide
    have there : unorderedGroup.member 3 = some (computeMember 1) := rfl
    have master : (unorderedGroup.modMember 3 fun m => { m with missed := true }).isMaster = true := by decide
    rw [State.peerMiss, there]
    dsimp only
    rw [if_neg acts, if_pos master, marked, if_pos (by decide)]
  rw [stops]
  rfl

/-- Refutes O56: the statement is of every table of members, and in one that is not in order a member whose mark is written counts
twice, so that the master stops where the statement has it lose the member: it missed one of two. -/
theorem not_groupsSurviveLosses : ¬ Obligations.GroupsSurviveLosses := by
  intro holds
  obtain ⟨-, -, missing, -⟩ := holds unorderedGroup rfl (by decide)
  obtain ⟨-, asMaster⟩ := missing 3 (computeMember 1) rfl rfl (by decide)
  obtain ⟨-, waits, -⟩ := asMaster (by decide)
  obtain ⟨t, ran, lost, -⟩ := waits (by decide) rfl rfl (by decide) _ rfl rfl
  have next : exec (.peerMiss 3) unorderedGroup = .next (unorderedGroup.peerMiss 3) := rfl
  rw [next] at ran
  injection ran with same
  rw [← same, unorderedGroup_stops] at lost
  exact absurd lost (by decide)

end Sys2Proof.Machine
end

section
/-! O57. Collectives whose members speak version 1 of the protocol (R303 to R307, R309). -/

set_option Elab.async false

namespace Sys2Proof.Machine

/-- A GATHER of one FP32 word, over the whole group, into scratchpad, with its status words combined. -/
def v1Entry : List Byte :=
  leBytes 4 1 ++ leBytes 4 (handleWord 1 1 0) ++ [2, 0, 0, 0, 0, 8, 0, 0] ++ leBytes 8 0 ++ leBytes 8 (2 ^ 62) ++ leBytes 8 1 ++ zeros 24

/-- A running group of version 1 whose only member has that entry at the head of a ring in host memory. -/
def v1Group : State := { State.reset with
  mem := State.reset.mem.writeAll (hostKey 0) v1Entry
  plk := { Plk.reset with state := .retrain }
  contexts := [(0, { Context.reset with state := .ready, ringAddr := 2 ^ 51 })]
  ptns := [(0, { quads := 0, ways := [], scratch := [1], sorus := [], pcs := 0, shares := 0, restriping := false })]
  net := { Net.reset with state := .running, version := 1, members := [(0, computeMember 0)] }
  collectives := [{ ctx := 0, entry := 0, code := none, word := 0 }] }

theorem v1Group_entry : v1Group.collEntry 0 0 = v1Entry := by decide +kernel

theorem v1Group_result : v1Group.collResult 0 v1Entry [] = ([0], false, false) := by decide +kernel

theorem v1Group_lies : v1Group.lies 0 0 (collDst v1Entry) 4 (2 ^ 60) := by
  unfold State.lies
  decide +kernel

/-- A word of version 1 says by bit 12 what later versions say by bit 16. -/
theorem v1Group_event : bitAt ((v1Group.collComplete 0 [] [4096]).ev evNet).value 6 = true := by decide +kernel

/-- Refutes O57: where the members of a group speak version 1, bit 12 of a status word sets bit 16 of the combined word, and that
raises an event; the statement shuts out only words whose bit 16 is set, and leaves the events out of what changes. -/
theorem not_collectivesRun : ¬ Obligations.CollectivesRun := by
  rintro ⟨-, completes⟩
  obtain ⟨-, ends⟩ := completes v1Group 0 0x38 { ctx := 0, entry := 0, code := none, word := 0 } [] [4096] rfl rfl rfl rfl rfl
    (by decide) (by decide) rfl
  rw [v1Group_entry] at ends
  have ends := ends 0 (2 ^ 60) rfl (by decide) (by decide)
  rw [v1Group_result] at ends
  obtain ⟨t, ran, -, -, -, -, frame⟩ := ends (by decide +kernel) (by decide) rfl (by decide) (by decide) v1Group_lies (by decide)
    (.inl (by decide))
  have next := act_live v1Group (State.collComplete · 0 [] [4096]) rfl
  have ran : act v1Group (State.collComplete · 0 [] [4096]) = .next t := ran
  rw [next] at ran
  injection ran with same
  have quiet : (v1Group.collComplete 0 [] [4096]).events = v1Group.events := by
    calc (v1Group.collComplete 0 [] [4096]).events = t.events := by rw [← same]
      _ = v1Group.events := by rw [frame]
  have event := v1Group_event
  unfold State.ev at event
  rw [quiet] at event
  exact absurd event (by decide)

end Sys2Proof.Machine
end

section
/-! O52. A save that ends a checkpoint (R189, R251). -/

set_option Elab.async false

namespace Sys2Proof.Machine

namespace State

variable {cs : Tab Context} {t : State}

/-- No frame carries attributes, and the contexts are `cs`. -/
def Bare (cs : Tab Context) (t : State) : Prop := t.attrs = [] ∧ t.contexts = cs

theorem bare_putKey (bare : t.Bare cs) (c q : Nat) (idx : Word) (k : Nat) (l : List Byte) : (t.putKey c q idx k l).Bare cs := by
  obtain ⟨attrs, contexts⟩ := bare
  have plain : ¬(k < 2 ^ 60 ∧ bitAt (t.attr (k / 65536)) 2 = true) := by
    simp [State.attr, attrs, tgetD, tget, bitAt]
  rw [putKey, if_neg plain, dirtied_eq]
  exact ⟨attrs, contexts⟩

theorem bare_putRow (c q : Nat) (idx : Word) (row : RowAt) :
    ∀ (fuel off : Nat) (l : List Byte) (t : State), t.Bare cs → (t.putRow c q idx row off l fuel).Bare cs
  | 0, _, _, _, bare => bare
  | fuel + 1, off, l, t, bare => by
    unfold putRow
    split
    · exact bare
    · exact bare
    · exact bare_putRow c q idx row fuel _ _ _ (bare_putKey bare ..)

/-- A write into a protected frame without a reserve frame for its copy: the checkpoint ends first. -/
theorem bare_putKey_protected {k : Nat} (low : k < 2 ^ 60) (wp : bitAt (t.attr (k / 65536)) 2 = true)
    (ended : (t.cowStart (k / 65536)).Bare cs) (c q : Nat) (idx : Word) (l : List Byte) : (t.putKey c q idx k l).Bare cs := by
  obtain ⟨attrs, contexts⟩ := ended
  have free : ¬bitAt ((t.cowStart (k / 65536)).attr (k / 65536)) 2 = true := by
    simp [State.attr, attrs, tgetD, tget, bitAt]
  rw [putKey, if_pos ⟨low, wp⟩]
  dsimp only
  rw [if_neg free, dirtied_eq]
  exact ⟨attrs, contexts⟩

theorem bare_putRow_protected {c q : Nat} {idx : Word} {row : RowAt} {off k : Nat} {l : List Byte} (some_ : l ≠ []) (at_ : row off = some k)
    (low : k < 2 ^ 60) (wp : bitAt (t.attr (k / 65536)) 2 = true) (ended : (t.cowStart (k / 65536)).Bare cs) :
    (t.putRow c q idx row off l (l.length + 1)).Bare cs := by
  obtain ⟨b, bs, rfl⟩ := List.exists_cons_of_ne_nil some_
  unfold putRow
  split
  · next nil => exact absurd nil some_
  · next none_ _ => exact absurd (at_.symm.trans none_) (by simp)
  · next m at_m _ =>
    obtain rfl : k = m := Option.some.inj (at_.symm.trans at_m)
    exact bare_putRow _ _ _ _ _ _ _ _ (bare_putKey_protected low wp ended ..)

theorem imageHeader_ne_nil (s : State) (c : Nat) : s.imageHeader c ≠ [] := by
  intro empty
  unfold imageHeader at empty
  obtain ⟨first, -⟩ := List.append_eq_nil_iff.mp (List.append_assoc .. ▸ List.append_assoc .. ▸ List.append_assoc .. ▸
    List.append_assoc .. ▸ empty)
  exact absurd (congrArg List.length first) (by simp [slice_length])

/-- A save writes its own context alone, beyond what the writes of its image do; here of a context without quadrants. -/
theorem saveDone_ctx_ne {s : State} {c d : Nat} (saving : (s.ctx c).state = .saving) (far : d ≠ c)
    (bare : ((s.putImage c 0 (s.imageHeader c)).ctx c).quadList = []) :
    (s.saveDone c).ctx d = (s.putImage c 0 (s.imageHeader c)).ctx d := by
  have left (u : State) : (u.leave c).ctx d = u.ctx d := setCtx_ctx_ne _ _ far
  rw [saveDone, if_pos saving]
  dsimp only
  rw [setCtx_ctx_ne _ _ far, left, writeImage, bare]
  exact setCtx_ctx_ne _ _ far

end State

/-- Context 0 is being saved into a frame that a checkpoint protects; the checkpoint has no reserve frame, and context 1 is to be
held at its capture. -/
def savingOverCheckpoint : State := { State.reset with
  contexts := [(0, { Context.reset with state := .saving }), (1, { Context.reset with state := .running, captureDue := true })]
  ptns := [(0, { quads := 0, ways := [], scratch := [], sorus := [], pcs := 1, shares := 0, restriping := false })]
  attrs := [(0, 4)]
  ckp := { State.reset.ckp with state := .streaming } }

/-- The same contexts once the checkpoint is abandoned. -/
def abandonedContexts : Tab Context :=
  [(0, { Context.reset with state := .saving }), (1, { Context.reset with state := .running })]

theorem savingOverCheckpoint_ended : (savingOverCheckpoint.cowStart 0).Bare abandonedContexts :=
  ⟨by decide +kernel, by decide +kernel⟩

theorem savingOverCheckpoint_put (l : List Byte) (some_ : l ≠ []) : (savingOverCheckpoint.putImage 0 0 l).Bare abandonedContexts := by
  have there : parseAddr ((savingOverCheckpoint.ctx 0).image + 0) = .hbm 0 0 := by decide
  unfold State.putImage State.putBytes
  rw [there]
  exact State.bare_putRow_protected some_ (k := 0) (by decide +kernel) (by decide) (by decide +kernel) savingOverCheckpoint_ended

theorem savingOverCheckpoint_free : savingOverCheckpoint.drainsWait 0 = true ∧
    ((savingOverCheckpoint.ctx 0).quadList.all fun k => savingOverCheckpoint.live (quadDomain k)) = true ∧
    ((savingOverCheckpoint.ctx 0).dies.all fun n => savingOverCheckpoint.live (fabricDomain n)) = true :=
  ⟨rfl, rfl, rfl⟩

theorem savingOverCheckpoint_saved : ((savingOverCheckpoint.saveEnd 0).ctx 1).captureDue = false := by
  have put := savingOverCheckpoint_put (savingOverCheckpoint.imageHeader 0) (State.imageHeader_ne_nil _ _)
  have saved : savingOverCheckpoint.saveEnd 0 = savingOverCheckpoint.saveDone 0 := if_pos savingOverCheckpoint_free
  rw [saved, State.saveDone_ctx_ne (by decide) (by decide) (by simp only [State.ctx, put.2]; decide), State.ctx, put.2]
  decide

/-- Refutes O52: a save that writes its image over a frame that a checkpoint protects, with no reserve frame left, ends the
checkpoint, and that clears the capture due of the other contexts; the statement leaves every other context as it was. -/
theorem not_contextsComeAndGo : ¬ Obligations.ContextsComeAndGo := by
  intro h
  obtain ⟨-, -, -, -, ends, -⟩ := h savingOverCheckpoint rfl
  obtain ⟨saves, -⟩ := ends 0
  obtain ⟨t, ran, -, -, -, -, -, -, others⟩ := saves rfl savingOverCheckpoint_free.1 savingOverCheckpoint_free.2.1 savingOverCheckpoint_free.2.2
  have kept := others 1 (by decide)
  have next := act_live savingOverCheckpoint (State.saveEnd · 0) rfl
  have ran : act savingOverCheckpoint (State.saveEnd · 0) = .next t := ran
  rw [next] at ran
  injection ran with same
  have contexts : t.contexts = (savingOverCheckpoint.saveEnd 0).contexts := by rw [← same]
  have due := savingOverCheckpoint_saved
  unfold State.ctx at due
  rw [← contexts] at due
  change (t.ctx 1).captureDue = false at due
  rw [kept] at due
  exact absurd due (by decide)

end Sys2Proof.Machine
end

section
/-! O39. A core's turn in an update (R407, R409). -/

set_option Elab.async false

namespace Sys2Proof.Machine

namespace State

variable {s : State} {c : Nat}

/-- A requested reset of a domain without arrays fences it; the boot's state and the cores stay. -/
theorem requestReset_fences {d : Nat} (present : s.variant.domain d = true) (other : d ≠ 78) (noArrays : ¬(d < 56 ∧ d % 7 < 4))
    (opened : s.isOpen d = true) (off : Bool) :
    (s.requestReset d off).boot = s.boot ∧ (s.requestReset d off).cores = s.cores ∧
      ((s.requestReset d off).dom d).state = .fenced := by
  have state : (s.dom d).state = .opened := by simpa [isOpen] using opened
  rw [requestReset, if_neg (by simp [present, other, state]), recover, if_pos rfl, fenceDom, if_neg other, if_neg noArrays]
  refine ⟨rfl, rfl, ?_⟩
  show ((State.setDom _ d _).dom d).state = _
  rw [setDom_dom]

theorem coreDomain_ne {c : Nat} (low : c < 12) : coreDomain c ≠ 78 ∧ ¬(coreDomain c < 56 ∧ coreDomain c % 7 < 4) := by
  unfold coreDomain
  repeat' split
  all_goals omega

/-- The state in which a core runs the image `f` of a bundle and is about to restart. -/
def takesImage (s : State) (c : Nat) (f : Firmware) : State :=
  { s.setCore c { s.core c with
      previous := (s.core c).current, previousValid := true, previousProto := (s.core c).proto, previousUpdated := (s.core c).updated
      current := f.digest, proto := f.proto, updated := true } with
    boot := { s.boot with upd := .applying, updCore := c, watch := some c, supRestart := c == 12 } }

theorem updTurn_eq {rest : List Nat} {f : Firmware} (todo : s.boot.updTodo = c :: rest) (applying : s.boot.upd = .applying)
    (idle : s.boot.watch = none) (free : s.turnWaits c = false) (image : firmwareOf s.boot.updBundle c = some f) :
    s.updTurn = if c = 12 then s.takesImage c f else (s.takesImage c f).requestReset (coreDomain c) false := by
  have goes : ¬((s.boot.upd ≠ .deferred ∧ s.boot.upd ≠ .applying) ∨ s.boot.watch.isSome = true) := by simp [applying, idle]
  rw [updTurn, todo]
  dsimp only
  rw [if_neg goes, if_neg (by simp [free]), image, ← todo]
  rfl

theorem open_of_turn (free : s.turnWaits c = false) (other : c ≠ 12) : s.isOpen (coreDomain c) = true := by
  simp only [turnWaits, Bool.or_eq_false_iff] at free
  simpa [other] using free.2

/-- Of an update's turn: the core's images are swapped and it is watched. -/
theorem updTurn_spec {rest : List Nat} {f : Firmware} (todo : s.boot.updTodo = c :: rest) (present : s.variant.domain (coreDomain c) = true)
    (low : c < 13) (applying : s.boot.upd = .applying) (idle : s.boot.watch = none) (free : s.turnWaits c = false)
    (image : firmwareOf s.boot.updBundle c = some f) :
    s.updTurn.boot = (s.takesImage c f).boot ∧ s.updTurn.cores = (s.takesImage c f).cores ∧
      (c < 12 → (s.updTurn.dom (coreDomain c)).state = .fenced) := by
  rw [updTurn_eq todo applying idle free image]
  split
  · next sup => exact ⟨rfl, rfl, fun below => by omega⟩
  · next other =>
    obtain ⟨notSup, noArrays⟩ := coreDomain_ne (c := c) (by omega)
    obtain ⟨boot, cores, fenced⟩ := requestReset_fences (s := s.takesImage c f) present notSup noArrays (open_of_turn free other) false
    exact ⟨boot, cores, fun _ => fenced⟩

/-- The supervisor's restart ends. -/
theorem supervisorBack_eq (restarting : s.boot.supRestart = true) :
    s.supervisorBack = { s.setCore 12 { s.core 12 with restarts := satAdd 16 (s.core 12).restarts 1 } with
      boot := { s.boot with supRestart := false, updApplied := s.boot.updApplied ||| 2 ^ 12 } } := if_pos restarting

/-- The second of a watched core is over and it is back: the next core's turn comes up. -/
theorem updWatched_next {k : Nat} {ks : List Nat} (todo : s.boot.updTodo = c :: k :: ks) (watched : s.boot.watch = some c)
    (back : s.boot.supRestart = false) (opened : s.isOpen (coreDomain c) = true) (free : s.turnWaits k = false) :
    s.updWatched = { s with boot := { s.boot with watch := none, updTodo := k :: ks, upd := .applying, updCore := k } } := by
  let u : State := { s with boot := { s.boot with watch := none, updTodo := s.boot.updTodo.drop 1 } }
  have due : u.boot.updTodo = k :: ks := by show s.boot.updTodo.drop 1 = _; rw [todo]; rfl
  have turn := updNext_turn (s := u) due free
  rw [updWatched, watched]
  dsimp only
  rw [if_neg (by simp [back, opened])]
  refine turn.trans ?_
  show ({ s with boot := { s.boot with watch := none, updTodo := s.boot.updTodo.drop 1, upd := .applying, updCore := k } } : State) = _
  rw [todo]
  rfl

end State

/-- Settles O39: a requested reset leaves the boot's state and the cores, so that a turn is the swap of the images. -/
theorem coresAreUpdatedInTurn : Obligations.CoresAreUpdatedInTurn := by
  refine ⟨?_, ?_, ?_⟩
  · intro s c rest f live todo present low applying idle free image
    obtain ⟨boot, cores, fenced⟩ := State.updTurn_spec todo present low applying idle free image
    refine ⟨_, act_live s State.updTurn live, ?_⟩
    have core (k : Nat) : ({ s.updTurn with pending := s.pending, variant := s.variant } : State).core k = (s.takesImage c f).core k := by
      show tgetD s.updTurn.cores k _ = _
      rw [cores]
      rfl
    have own : (s.takesImage c f).core c = _ := State.setCore_core s c _
    refine ⟨by rw [core, own], by rw [core, own], by rw [core, own], by rw [core, own], congrArg Boot.watch boot,
      congrArg Boot.supRestart boot, fun k far => ?_, fenced⟩
    rw [core]
    exact State.setCore_core_ne _ _ far
  · intro s live restarting
    refine ⟨_, act_eq_next (f := (State.supervisorBack ·)) live (State.supervisorBack_eq restarting), rfl,
      bitAt_or_two_pow_self _ 12, ?_, rfl⟩
    show ((s.setCore 12 _).core 12).restarts = _
    rw [State.setCore_core]
  · intro s c k ks live todo watched back opened free
    exact ⟨_, act_eq_next (f := (State.updWatched ·)) live (State.updWatched_next todo watched back opened free), rfl, rfl, rfl, rfl, rfl⟩

end Sys2Proof.Machine
end

section
/-! SUPPORT. Descriptors in host memory, the checks of a request and its answer (R15, R382). -/

set_option Elab.async false

namespace Sys2Proof.Machine

namespace State

/-- A descriptor of `n` bytes in host memory that answers reach. -/
structure Reached (s : State) (a h n : Nat) : Prop where
  host : parseAddr a = .host h
  up : s.linkUp = true
  fits : h + n ≤ 2 ^ 56

variable {s : State} {a h n : Nat}

theorem reached_of_requestOk (host : parseAddr a = .host h) (up : s.linkUp = true) (ok : s.requestOk a n = true) : s.Reached a h n := by
  refine ⟨host, up, ?_⟩
  rw [requestOk, host] at ok
  exact of_decide_eq_true ok

theorem Reached.post (k : s.Reached a h n) {off : Nat} {l : List Byte} (fit : off + l.length ≤ n) (pos : off < n) :
    ∃ p o, s.post (a + off) l = { s with mem := s.mem.writeAll (hostKey (h + off)) l, plk := p, out := o } := by
  have fits := k.fits
  obtain ⟨place, -⟩ := parseAddr_eq_host k.host
  refine post_host ?_ k.up l (by omega)
  rw [place, Nat.add_assoc]
  exact parseAddr_host (by omega)

/-- The same descriptor in a state that differs elsewhere. -/
theorem Reached.of_linkUp (k : s.Reached a h n) {u : State} (up : u.linkUp = s.linkUp) : u.Reached a h n :=
  ⟨k.host, up.trans k.up, k.fits⟩

end State

/-! ### Checks -/

/-- The check that decides a request: it applies, none before it does, and none after it ranks before it. -/
theorem refusal_of_check {L : List (Bool × Status × Nat)} {x : Status × Nat} (i : Nat) (check : L[i]? = some (true, x))
    (before : ((L.take i).all fun p => !p.1) = true) (later : ((L.drop (i + 1)).all fun p => !p.1 || decide (x.1.rank ≤ p.2.1.rank)) = true) :
    refusal L = some x := by
  obtain ⟨inside, here⟩ := List.getElem?_eq_some_iff.mp check
  rw [← List.take_append_drop i L, List.drop_eq_getElem_cons inside, here]
  exact refusal_of_first before later

/-! ### The serving engine's answers -/

/-- The bytes of an answer of the serving engine. -/
def srvLine (st : Status) (detail num handle : Nat) : List Byte :=
  leBytes 1 st.code ++ (leBytes 1 detail ++ (leBytes 1 num ++ (zeros 1 ++ (leBytes 4 handle ++ zeros 8))))

theorem srvLine_length (st : Status) (detail num handle : Nat) : (srvLine st detail num handle).length = 16 := by
  simp [srvLine, zeros]

theorem read_srvLine_num (m : Memory) (k : Nat) (st : Status) (detail num handle : Nat) :
    ((m.writeAll k (srvLine st detail num handle)).read (k + 2)).toNat = num % 256 := by
  rw [Memory.read_writeAll m k (srvLine st detail num handle) (i := 2) (by simp [srvLine_length])]
  rfl

/-- Bytes in the middle of a write. -/
theorem readAll_writeAll_middle (m : Memory) (k : Nat) (l x r : List Byte) :
    (m.writeAll k (l ++ (x ++ r))).readAll (k + l.length) x.length = x := by
  refine List.ext_getElem (by simp [Memory.readAll]) fun i _ short => ?_
  have inside : l.length + i < (l ++ (x ++ r)).length := by
    simp only [List.length_append]
    omega
  simp only [Memory.readAll, List.getElem_map, List.getElem_range, Nat.add_assoc]
  rw [Memory.read_writeAll m k _ inside, List.getElem_append_right (Nat.le_add_right ..), List.getElem_append_left (by omega)]
  congr 1
  omega

theorem readAll_srvLine_handle (m : Memory) (k : Nat) (st : Status) (detail num handle : Nat) :
    (m.writeAll k (srvLine st detail num handle)).readAll (k + 4) 4 = leBytes 4 handle := by
  have whole : srvLine st detail num handle =
      (leBytes 1 st.code ++ leBytes 1 detail ++ leBytes 1 num ++ zeros 1) ++ (leBytes 4 handle ++ zeros 8) := by
    simp only [srvLine, List.append_assoc]
  have middle := readAll_writeAll_middle m k (leBytes 1 st.code ++ leBytes 1 detail ++ leBytes 1 num ++ zeros 1) (leBytes 4 handle) (zeros 8)
  rw [leBytes_length] at middle
  rw [whole]
  exact middle

namespace State

variable {s u : State} {a h n off : Nat}

theorem srvAnswer_ok (k : u.Reached a h n) (fit : off + 16 ≤ n) (num handle : Nat) :
    ∃ p o, u.srvAnswer (a + off) .ok 0 num handle =
      { u with mem := u.mem.writeAll (hostKey (h + off)) (srvLine .ok 0 num handle), plk := p, out := o } := by
  have posted := k.post (off := off) (l := srvLine .ok 0 num handle) (by rw [srvLine_length]; exact fit) (by omega)
  rw [srvAnswer, srvNote, if_pos rfl]
  simpa only [srvLine, List.append_assoc] using posted

theorem srvAnswer_refused (k : u.Reached a h n) (fit : off + 16 ≤ n) {st : Status} (refused : st ≠ .ok) (detail num handle : Nat) :
    (∃ es p o, u.srvAnswer (a + off) st detail num handle =
      { u with mem := u.mem.writeAll (hostKey (h + off)) (srvLine st detail num handle), events := es, plk := p, out := o }) ∧
      bitAt ((u.srvAnswer (a + off) st detail num handle).ev evSrv).value 0 = true := by
  obtain ⟨p, o, posted⟩ := k.post (off := off) (l := srvLine st detail num handle) (by rw [srvLine_length]; exact fit) (by omega)
  rw [srvAnswer, srvNote, if_neg refused]
  refine ⟨?_, raiseEv_sets ..⟩
  simp only [srvLine, List.append_assoc] at posted ⊢
  rw [posted, raiseEv_eq]
  exact ⟨_, _, _, rfl⟩

theorem srvRequest_eq (aligned : a % 64 = 0) (readable : s.requestOk a n = true) (serving : s.variant.serving = true)
    (opened : s.isOpen 77 = true) (f : State → List Byte → State) : s.srvRequest a n off f = f s (s.fwRead a n) := by
  rw [srvRequest, if_neg (by simp [aligned, readable]), if_neg (by simp [serving]), if_neg (by simp [opened])]

theorem srvRequest_absent (aligned : a % 64 = 0) (readable : s.requestOk a n = true) (absent : s.variant.serving = false)
    (f : State → List Byte → State) : s.srvRequest a n off f = s.srvAnswer (a + off) .unitAbsent 0 0 0 := by
  rw [srvRequest, if_neg (by simp [aligned, readable]), if_pos absent]

theorem srvRequest_closed (aligned : a % 64 = 0) (readable : s.requestOk a n = true) (serving : s.variant.serving = true)
    (closed : s.isOpen 77 = false) (f : State → List Byte → State) :
    s.srvRequest a n off f = s.srvAnswer (a + off) .retryLater 0 0 0 := by
  rw [srvRequest, if_neg (by simp [aligned, readable]), if_neg (by simp [serving]), if_pos closed]

/-- A command that answers `OK`. -/
theorem act_srvAnswer_ok {f : State → State} {num handle : Nat} (live : s.flt.fatal = false) (k : s.Reached a h n)
    (does : f s = u.srvAnswer (a + off) .ok 0 num handle) (fit : off + 16 ≤ n := by decide) (p : u.pending = s.pending := by rfl) (v : u.variant = s.variant := by rfl)
    (up : u.linkUp = s.linkUp := by rfl) :
    ∃ pl o, act s f =
      .next { u with mem := u.mem.writeAll (hostKey (h + off)) (srvLine .ok 0 num handle), plk := pl, out := o } := by
  obtain ⟨pl, o, answered⟩ := srvAnswer_ok (k.of_linkUp up) fit num handle
  exact ⟨pl, o, act_eq_next live (does.trans answered) p v⟩

/-- A command that is refused. -/
theorem act_srvAnswer_refused {f : State → State} {st : Status} {d : Nat} (live : s.flt.fatal = false) (k : s.Reached a h n)
    (does : f s = s.srvAnswer (a + off) st d 0 0) (fit : off + 16 ≤ n := by decide) (refused : st ≠ .ok := by decide)
    (small : d < 256 := by decide) :
    ∃ t, act s f = .next t ∧ (t.mem.read (hostKey (h + off))).toNat = st.code ∧
      (t.mem.read (hostKey (h + off + 1))).toNat = d ∧ bitAt (t.ev evSrv).value 0 = true ∧
      t = { s with mem := t.mem, events := t.events, plk := t.plk, out := t.out } := by
  obtain ⟨⟨es, p, o, answered⟩, bit⟩ := srvAnswer_refused k fit refused d 0 0
  rw [answered] at bit does
  exact ⟨_, act_eq_next live does, read_answer_code .., (read_answer_detail ..).trans (Nat.mod_eq_of_lt small), bit, rfl⟩

end State

end Sys2Proof.Machine
end

section
/-! O53. The serving engine's tables (R260 to R262, R275, R276, R282, R284). -/

set_option Elab.async false

namespace Sys2Proof.Machine

namespace State

variable {s : State} {a i : Nat} {l : List Byte}

/-! ### Instances -/

/-- The Instance that a descriptor asks for. -/
def askedInst (l : List Byte) (p c : Nat) : Instance :=
  { desc := l, ptn := p, target := c, draft := none, submitTail := 0, submitHead := 0, admittedCount := 0, stepNumber := 0, pass := 0, firstPass := 0, inStep := false, stepStart := 0, passIndex := 0, drafts := 0, doneAt := 0, seqs := [], durations := [], gains := [], free := List.range (le l 0x24 4), prov := [], repeats := 0, poolLow := false, ttftMiss := 0, tbtMiss := 0 }

theorem undefineBytes_eq (u : State) (p x n : Nat) : ∃ m, u.undefineBytes p x n = { u with mem := m, free := u.free + 1 } := ⟨_, rfl⟩

theorem createInst_ok {p c : Nat} (aligned : a % 64 = 0) (readable : s.requestOk a 128 = true) (line : s.fwRead a 128 = l)
    (serving : s.variant.serving = true) (opened : s.isOpen 77 = true) (version : le l 0 4 = 1) (ptn : s.ptnOf (le l 4 4) = some p)
    (ctx : s.ctxOf (le l 8 4) = some c) (noDraft : le l 0xC 4 = 0) (same : (s.ctx c).ptn = p) (place : lowestFree s.instances 16 = some i)
    (good : badInst l = false) (areas : s.badAreas p (askedInst l p c) = false) :
    ∃ m, s.createInst a = ({ s with instances := tput s.instances i (askedInst l p c), mem := m, free := s.free + 1 } : State).srvAnswer
      (a + 0x70) .ok 0 i 0 := by
  obtain ⟨m, undefined⟩ := undefineBytes_eq (s.setInst i (askedInst l p c)) p ((askedInst l p c).d 0x50 8)
    ((askedInst l p c).d 0x10 2 * (askedInst l p c).areaBytes)
  refine ⟨m, ?_⟩
  rw [createInst, srvRequest_eq aligned readable serving opened, line]
  dsimp only
  rw [ptn, ctx, noDraft, place, refusal_of_clear]
  · exact congrArg (·.srvAnswer (a + 0x70) .ok 0 i 0) undefined
  · simpa [version, good, same, askedInst] using areas

theorem createInst_bad {p c : Nat} (aligned : a % 64 = 0) (readable : s.requestOk a 128 = true) (line : s.fwRead a 128 = l)
    (serving : s.variant.serving = true) (opened : s.isOpen 77 = true) (version : le l 0 4 = 1) (ptn : s.ptnOf (le l 4 4) = some p)
    (ctx : s.ctxOf (le l 8 4) = some c) (noDraft : le l 0xC 4 = 0) (place : lowestFree s.instances 16 = some i)
    (bad : badInst l = true) : s.createInst a = s.srvAnswer (a + 0x70) .refusedInfeasible 4 0 0 := by
  rw [createInst, srvRequest_eq aligned readable serving opened, line]
  dsimp only
  rw [ptn, ctx, noDraft, place, refusal_of_check (x := (.refusedInfeasible, 4)) 3 (by simp [bad])]
  · simp [version]
  · simp

theorem destroyInst_ok (aligned : a % 64 = 0) (readable : s.requestOk a 32 = true) (line : s.fwRead a 32 = l)
    (serving : s.variant.serving = true) (opened : s.isOpen 77 = true) (version : le l 0 4 = 1) (named : le l 4 4 = i) (low : i < 16)
    (there : thas s.instances i = true) (clear : clearAt l [(8, 8)] = true) (idle : s.reqsOf i = []) :
    s.destroyInst a = ({ s with
      instances := tdel s.instances i, published := s.published.filter fun b => b.inst != i } : State).srvAnswer (a + 0x10) .ok 0 i 0 := by
  rw [destroyInst, srvRequest_eq aligned readable serving opened, line]
  dsimp only
  rw [named, refusal_of_clear]
  simp [version, there, clear, idle]
  omega

theorem destroyInst_live (aligned : a % 64 = 0) (readable : s.requestOk a 32 = true) (line : s.fwRead a 32 = l)
    (serving : s.variant.serving = true) (opened : s.isOpen 77 = true) (version : le l 0 4 = 1) (named : le l 4 4 = i) (low : i < 16)
    (there : thas s.instances i = true) (clear : clearAt l [(8, 8)] = true) (busy : s.reqsOf i ≠ []) :
    s.destroyInst a = s.srvAnswer (a + 0x10) .refusedInfeasible 6 0 0 := by
  rw [destroyInst, srvRequest_eq aligned readable serving opened, line]
  dsimp only
  rw [named, refusal_of_check (x := (.refusedInfeasible, 6)) 2 (by simp [busy])]
  · simp [version, there, clear]
    omega
  · simp

/-! ### Adapters -/

/-- Pinning changes the attributes of frames alone. -/
theorem pinFrames_eq (u : State) (e : HotEntry) (on : Bool) : ∃ as, u.pinFrames e on = { u with attrs := as } := by
  refine List.foldlRecOn (motive := fun t : State => ∃ as, t = { u with attrs := as }) _ _ ⟨u.attrs, rfl⟩ ?_
  rintro _ ⟨as, rfl⟩ v -
  split
  · exact ⟨_, rfl⟩
  · exact ⟨as, rfl⟩

theorem attr_setAttr (u : State) (f v : Nat) : (u.setAttr f v).attr f = v := by
  unfold setAttr attr
  dsimp only
  split
  · next zero => rw [tgetD, tget_tdel_same, zero]; rfl
  · exact tgetD_tput_same ..

theorem attr_setAttr_ne (u : State) {f g : Nat} (v : Nat) (far : g ≠ f) : (u.setAttr f v).attr g = u.attr g := by
  unfold setAttr attr
  dsimp only
  split
  · rw [tgetD, tget_tdel_ne _ far, tgetD]
  · exact tgetD_tput_ne _ _ _ far

/-- Every frame of a pinned entry has its pin set. -/
theorem pinFrames_pins (u : State) (e : HotEntry) {n f : Nat} (low : n < e.pages) (frame : u.pageFrame e.ptn (e.first + n) = some f) :
    bitAt ((u.pinFrames e true).attr f) 5 = true := by
  have kept (as : Tab Nat) (v : Nat) : ({ u with attrs := as } : State).pageFrame e.ptn (e.first + v) = u.pageFrame e.ptn (e.first + v) := rfl
  have reached := foldl_reaches (I := fun t : State => ∃ as, t = { u with attrs := as }) (Q := fun t : State => bitAt (t.attr f) 5 = true) (d := n)
    (l := List.range e.pages)
    (f := fun (t : State) i => match t.pageFrame e.ptn (e.first + i) with
      | some f => t.setAttr f (setFld (t.attr f) 5 5 (b2n true))
      | none => t) ?_ ?_ ?_ (List.mem_range.mpr low) ⟨u.attrs, rfl⟩
  · exact reached.2
  · rintro _ v - ⟨as, rfl⟩
    split
    · exact ⟨_, rfl⟩
    · exact ⟨as, rfl⟩
  · rintro _ ⟨as, rfl⟩
    rw [kept, frame]
    dsimp only
    rw [attr_setAttr]
    exact bitAt_setFld_self ..
  · rintro t v - - pinned
    split
    · next g _ =>
      by_cases here : f = g
      · subst here
        rw [attr_setAttr]
        exact bitAt_setFld_self ..
      · rw [attr_setAttr_ne _ _ here]
        exact pinned
    · exact pinned

/-- The state in which adapter `i` is registered, before its frames are pinned. -/
def adapterIn (s : State) (l : List Byte) (i : Nat) (hs : HandleTable) (e : HotEntry) : State :=
  { s with
    adapters := tput s.adapters i { inst := le l 4 1, entry := le l 6 2, rank := le l 8 2 }, adpHandles := hs
    hotset := tput s.hotset (le l 6 2) { e with pinned := true, lastUse := s.supTime } }

theorem registerAdapter_ok {hs : HandleTable} {e : HotEntry} (aligned : a % 64 = 0) (readable : s.requestOk a 32 = true)
    (line : s.fwRead a 32 = l) (serving : s.variant.serving = true) (opened : s.isOpen 77 = true) (version : le l 0 4 = 1)
    (entry : tget s.hotset (le l 6 2) = some e) (handle : s.adpHandles.take 4096 = some (i, hs)) (low : le l 4 1 < 16)
    (there : thas s.instances (le l 4 1) = true) (whole : le l 8 2 % 4 = 0) (least : 4 ≤ le l 8 2) (most : le l 8 2 ≤ 128)
    (clear : clearAt l [(5, 1), (0xA, 6)] = true) (adapter : e.kind = 1) :
    s.registerAdapter a = ((s.adapterIn l i hs e).pinFrames e true).srvAnswer (a + 0x10) .ok 0 0 ((s.adapterIn l i hs e).adpHandle i) := by
  rw [registerAdapter, srvRequest_eq aligned readable serving opened, line]
  dsimp only
  rw [entry, handle, refusal_of_clear]
  · rfl
  · simp [version, there, whole, clear, adapter]
    omega

theorem registerAdapter_other {hs : HandleTable} {e : HotEntry} (aligned : a % 64 = 0) (readable : s.requestOk a 32 = true)
    (line : s.fwRead a 32 = l) (serving : s.variant.serving = true) (opened : s.isOpen 77 = true) (version : le l 0 4 = 1)
    (entry : tget s.hotset (le l 6 2) = some e) (handle : s.adpHandles.take 4096 = some (i, hs)) (other : e.kind ≠ 1) :
    s.registerAdapter a = s.srvAnswer (a + 0x10) .refusedInfeasible 4 0 0 := by
  rw [registerAdapter, srvRequest_eq aligned readable serving opened, line]
  dsimp only
  rw [entry, handle, refusal_of_check (x := (.refusedInfeasible, 4)) 2 (by simp [other])]
  · simp [version]
  · simp

theorem adapter_named (r : Option Nat) (k : Nat) : (r.isSome && r == some k) = (r == some k) := by cases r <;> rfl

/-- The state in which adapter `k` is gone, and its hot-set entry is unpinned where no other adapter uses it. -/
def withoutAdapter (s : State) (k : Nat) (y : Adapter) : State :=
  if (tdel s.adapters k).any fun z => z.2.entry == y.entry then
    ({ s with adapters := tdel s.adapters k, adpHandles := s.adpHandles.free k } : State)
  else match tget s.hotset y.entry with
    | some e => ({ s with
        adapters := tdel s.adapters k, adpHandles := s.adpHandles.free k
        hotset := tput s.hotset y.entry { e with pinned := false } } : State).pinFrames e false
    | none => { s with adapters := tdel s.adapters k, adpHandles := s.adpHandles.free k }

theorem releaseAdapter_ok {k : Nat} {y : Adapter} (aligned : a % 64 = 0) (readable : s.requestOk a 32 = true)
    (line : s.fwRead a 32 = l) (serving : s.variant.serving = true) (opened : s.isOpen 77 = true) (version : le l 0 4 = 1)
    (named : s.adpOf (le l 4 4) = some k) (adapter : tget s.adapters k = some y) (clear : clearAt l [(8, 8)] = true)
    (unused : (s.requests.any fun r => r.2.state != .free && r.2.adapter == some k) = false) :
    ∃ hot as, s.releaseAdapter a = ({ s with
        adapters := tdel s.adapters k, adpHandles := s.adpHandles.free k, hotset := hot, attrs := as } : State).srvAnswer
          (a + 0x10) .ok 0 0 (le l 4 4) ∧
      (((tdel s.adapters k).any fun z => z.2.entry == y.entry) = false → ∀ e, tget s.hotset y.entry = some e →
        tget hot y.entry = some { e with pinned := false }) := by
  have runs : s.releaseAdapter a = (s.withoutAdapter k y).srvAnswer (a + 0x10) .ok 0 0 (le l 4 4) := by
    rw [releaseAdapter, srvRequest_eq aligned readable serving opened, line]
    dsimp only
    rw [named, Option.bind_some, adapter, refusal_of_clear]
    · rfl
    · simpa [version, clear, adapter_named, Bool.and_assoc] using unused
  rw [runs, withoutAdapter]
  split
  · next shared => exact ⟨s.hotset, s.attrs, rfl, fun alone => absurd shared (by simp [alone])⟩
  · split
    · next e entry =>
      obtain ⟨as, pinned⟩ := pinFrames_eq { s with
        adapters := tdel s.adapters k, adpHandles := s.adpHandles.free k
        hotset := tput s.hotset y.entry { e with pinned := false } } e false
      rw [pinned]
      refine ⟨_, as, rfl, fun _ f there => ?_⟩
      obtain rfl : e = f := Option.some.inj (entry.symm.trans there)
      exact tget_tput_same ..
    · next none_ => exact ⟨s.hotset, s.attrs, rfl, fun _ e there => absurd (none_.symm.trans there) (by simp)⟩

theorem releaseAdapter_used {k : Nat} (aligned : a % 64 = 0) (readable : s.requestOk a 32 = true)
    (line : s.fwRead a 32 = l) (serving : s.variant.serving = true) (opened : s.isOpen 77 = true) (version : le l 0 4 = 1)
    (named : s.adpOf (le l 4 4) = some k) (clear : clearAt l [(8, 8)] = true)
    (used : (s.requests.any fun r => r.2.state != .free && r.2.adapter == some k) = true) :
    s.releaseAdapter a = s.srvAnswer (a + 0x10) .refusedInfeasible 6 0 0 := by
  rw [releaseAdapter, srvRequest_eq aligned readable serving opened, line]
  dsimp only
  rw [named, refusal_of_check (x := (.refusedInfeasible, 6)) 3]
  · simpa [adapter_named, Bool.and_assoc] using used
  · simp [version, clear]
  · simp

/-! ### Token rings -/

/-- The ring that a descriptor asks for. -/
def askedRing (l : List Byte) : Ring :=
  { inst := le l 4 1, peer := le l 5 1 == 1, log2 := le l 6 1, addr := le l 8 8, consAddr := le l 0x10 8, rkey := le l 0x20 4, count := 0, bound := none, lost := false, recent := [] }

section

variable {p o : Nat} {hs : HandleTable}

theorem createRing_ok (aligned : a % 64 = 0) (readable : s.requestOk a 64 = true) (line : s.fwRead a 64 = l)
    (serving : s.variant.serving = true) (opened : s.isOpen 77 = true) (version : le l 0 4 = 1)
    (handle : s.ringHandles.take 8192 = some (i, hs)) (consumed : parseAddr (le l 0x10 8) = .hbm p o)
    (counter : s.requestOk (le l 0x10 8) 4 = true) (whole : le l 0x10 8 % 4 = 0) (low : le l 4 1 < 16)
    (there : thas s.instances (le l 4 1) = true) (clear : clearAt l [(7, 1), (0x24, 12)] = true) (kind : le l 5 1 ≤ 1)
    (entries : le l 5 1 = 0 → s.requestOk (le l 8 8) (16 * 2 ^ le l 6 1) = true) (peer : le l 5 1 = 1 → s.requestOk (le l 0x18 8) 32 = true)
    (least : 4 ≤ le l 6 1) (most : le l 6 1 ≤ 16) :
    s.createRing a = ({ s with rings := tput s.rings i (askedRing l), ringHandles := hs } : State).srvAnswer (a + 0x30) .ok 0 0
      (({ s with rings := tput s.rings i (askedRing l), ringHandles := hs } : State).ringHandle i) := by
  rw [createRing, srvRequest_eq aligned readable serving opened, line]
  dsimp only
  rw [consumed, handle, refusal_of_clear]
  · rfl
  · rcases (by omega : le l 5 1 = 0 ∨ le l 5 1 = 1) with own | remote
    · simp [version, there, clear, whole, counter, own, entries own]
      omega
    · simp [version, there, clear, whole, counter, remote, peer remote]
      omega

theorem createRing_size (aligned : a % 64 = 0) (readable : s.requestOk a 64 = true) (line : s.fwRead a 64 = l)
    (serving : s.variant.serving = true) (opened : s.isOpen 77 = true) (version : le l 0 4 = 1)
    (handle : s.ringHandles.take 8192 = some (i, hs)) (size : le l 6 1 < 4 ∨ 16 < le l 6 1) :
    s.createRing a = s.srvAnswer (a + 0x30) .refusedInfeasible 4 0 0 := by
  rw [createRing, srvRequest_eq aligned readable serving opened, line]
  dsimp only
  rw [handle, refusal_of_check (x := (.refusedInfeasible, 4)) 2]
  · rcases size with small | large
    · simp [small]
    · simp [large]
  · simp [version]
  · simp

end

/-- Dropping the final records that a ring keeps changes the requests and their handles alone. -/
theorem dropKept_eq (u : State) (k : Nat) : ∃ rs hs, u.dropKept k = { u with requests := rs, reqHandles := hs } := by
  refine List.foldlRecOn (motive := fun t : State => ∃ rs hs, t = { u with requests := rs, reqHandles := hs }) _ _
    ⟨u.requests, u.reqHandles, rfl⟩ ?_
  rintro _ ⟨rs, hs, rfl⟩ p -
  exact ⟨_, _, rfl⟩

theorem dropKept_none {u : State} {k : Nat} (none_ : (u.requests.all fun r => !(r.2.state == .free && r.2.ring == k)) = true) :
    u.dropKept k = u := by
  have empty : (u.requests.filter fun p => p.2.state == .free && p.2.ring == k) = [] := by
    refine List.filter_eq_nil_iff.mpr fun p mem => ?_
    simpa [imp_iff_not_or] using List.all_eq_true.mp none_ p mem
  rw [dropKept, empty, List.foldl_nil]

theorem destroyRing_ok {k : Nat} {g : Ring} (aligned : a % 64 = 0) (readable : s.requestOk a 32 = true) (line : s.fwRead a 32 = l)
    (serving : s.variant.serving = true) (opened : s.isOpen 77 = true) (version : le l 0 4 = 1) (named : s.ringOf (le l 4 4) = some k)
    (ring : tget s.rings k = some g) (clear : clearAt l [(8, 8)] = true) (free : g.bound = none) :
    ∃ rs hs, s.destroyRing a = ({ s with
        rings := tdel s.rings k, ringHandles := s.ringHandles.free k, requests := rs, reqHandles := hs } : State).srvAnswer
          (a + 0x10) .ok 0 0 (le l 4 4) ∧
      ((s.requests.all fun r => !(r.2.state == .free && r.2.ring == k)) = true → rs = s.requests ∧ hs = s.reqHandles) := by
  obtain ⟨rs, hs, dropped⟩ := dropKept_eq s k
  refine ⟨rs, hs, ?_, fun none_ => ?_⟩
  · rw [destroyRing, srvRequest_eq aligned readable serving opened, line]
    dsimp only
    rw [named, refusal_of_clear]
    · dsimp only
      rw [dropped]
    · simp [version, clear, ring, free]
  · rw [dropKept_none none_] at dropped
    exact ⟨(congrArg State.requests dropped).symm, (congrArg State.reqHandles dropped).symm⟩

theorem destroyRing_bound {k : Nat} {g : Ring} (aligned : a % 64 = 0) (readable : s.requestOk a 32 = true) (line : s.fwRead a 32 = l)
    (serving : s.variant.serving = true) (opened : s.isOpen 77 = true) (version : le l 0 4 = 1) (named : s.ringOf (le l 4 4) = some k)
    (ring : tget s.rings k = some g) (clear : clearAt l [(8, 8)] = true) (bound : g.bound ≠ none) :
    s.destroyRing a = s.srvAnswer (a + 0x10) .refusedInfeasible 6 0 0 := by
  have taken : g.bound.isSome = true := Option.isSome_iff_ne_none.mpr bound
  rw [destroyRing, srvRequest_eq aligned readable serving opened, line]
  dsimp only
  rw [named, refusal_of_check (x := (.refusedInfeasible, 6)) 3 (by simp [ring, taken])]
  · simp [version, clear]
  · simp

/-! ### Requests -/

theorem cancelReq_ok {k : Nat} (aligned : a % 64 = 0) (readable : s.requestOk a 32 = true) (line : s.fwRead a 32 = l)
    (serving : s.variant.serving = true) (opened : s.isOpen 77 = true) (version : le l 0 4 = 1) (named : s.reqOf (le l 4 4) = some k)
    (clear : clearAt l [(8, 8)] = true) :
    s.cancelReq a = (s.modReq k fun r => { r with cancelled := true }).srvAnswer (a + 0x10) .ok 0 0 (le l 4 4) := by
  rw [cancelReq, srvRequest_eq aligned readable serving opened, line]
  dsimp only
  rw [named, refusal_of_clear]
  simp [version, clear]

end State

section

variable {s : State} {a h : Nat} (live : s.flt.fatal = false) (up : s.linkUp = true) (aligned : a % 64 = 0) (host : parseAddr a = .host h)

include live up aligned host

/-- Without the unit, and while its domain is not open, every request is told so. -/
theorem servingRequest_unready {f : State → State} {n off : Nat} {g : State → List Byte → State} (does : f s = s.srvRequest a n off g)
    (fit : off + 16 ≤ n) (readable : s.requestOk a n = true) :
    (s.variant.serving = false → ∃ t, act s f = .next t ∧ (t.mem.read (hostKey (h + off))).toNat = Status.unitAbsent.code ∧
      (t.mem.read (hostKey (h + off + 1))).toNat = 0 ∧ bitAt (t.ev evSrv).value 0 = true ∧
      t = { s with mem := t.mem, events := t.events, plk := t.plk, out := t.out }) ∧
    (s.variant.serving = true → s.isOpen 77 = false → ∃ t, act s f = .next t ∧
      (t.mem.read (hostKey (h + off))).toNat = Status.retryLater.code ∧ (t.mem.read (hostKey (h + off + 1))).toNat = 0 ∧
      bitAt (t.ev evSrv).value 0 = true ∧ t = { s with mem := t.mem, events := t.events, plk := t.plk, out := t.out }) := by
  have reached := State.reached_of_requestOk host up readable
  exact ⟨fun absent => State.act_srvAnswer_refused live reached
      (does.trans (State.srvRequest_absent aligned readable absent g)) fit,
    fun serving closed => State.act_srvAnswer_refused live reached
      (does.trans (State.srvRequest_closed aligned readable serving closed g)) fit⟩

end

/-- Settles O53: each request's checks decide it, and its answer's bytes lie behind its descriptor. -/
theorem servingTablesAreKept : Obligations.ServingTablesAreKept := by
  intro s a h live up aligned host
  have reach {n : Nat} (readable : s.requestOk a n = true) : s.Reached a h n := State.reached_of_requestOk host up readable
  refine ⟨fun p row readable => ?_, fun serving opened => ⟨?_, ?_, ?_⟩⟩
  · simp only [List.mem_cons, List.not_mem_nil, or_false] at row
    rcases row with rfl | rfl | rfl | rfl | rfl | rfl | rfl
    · exact servingRequest_unready live up aligned host (n := 128) (off := 0x70) (f := (State.createInst · a)) rfl (by decide) readable
    · exact servingRequest_unready live up aligned host (n := 32) (off := 0x10) (f := (State.destroyInst · a)) rfl (by decide) readable
    · exact servingRequest_unready live up aligned host (n := 32) (off := 0x10) (f := (State.registerAdapter · a)) rfl (by decide) readable
    · exact servingRequest_unready live up aligned host (n := 32) (off := 0x10) (f := (State.releaseAdapter · a)) rfl (by decide) readable
    · exact servingRequest_unready live up aligned host (n := 64) (off := 0x30) (f := (State.createRing · a)) rfl (by decide) readable
    · exact servingRequest_unready live up aligned host (n := 32) (off := 0x10) (f := (State.destroyRing · a)) rfl (by decide) readable
    · exact servingRequest_unready live up aligned host (n := 32) (off := 0x10) (f := (State.cancelReq · a)) rfl (by decide) readable
  · intro p c i readable version ptn ctx noDraft same place
    refine ⟨fun good areas => ?_, fun bad => ?_⟩
    · obtain ⟨m, created⟩ := State.createInst_ok aligned readable rfl serving opened version ptn ctx noDraft same place good areas
      have below : i < 16 := List.mem_range.mp (List.mem_of_find?_eq_some place)
      obtain ⟨pl, o, ran⟩ := State.act_srvAnswer_ok (f := (State.createInst · a)) live (reach readable) created
      exact ⟨_, ran, read_answer_code .., (read_srvLine_num ..).trans (Nat.mod_eq_of_lt (by omega)), tget_tput_same ..,
        fun j far => tget_tput_ne _ _ far, rfl⟩
    · exact State.act_srvAnswer_refused (f := (State.createInst · a)) live (reach readable)
        (State.createInst_bad aligned readable rfl serving opened version ptn ctx noDraft place bad)
  · intro readable version
    refine ⟨fun i named low there clear => ⟨fun idle => ?_, fun busy => ?_⟩, fun e i hs entry handle => ?_, fun k y named adapter clear => ?_,
      fun k g named ring clear => ?_, fun k r named request clear => ?_⟩
    · obtain ⟨pl, o, ran⟩ := State.act_srvAnswer_ok (f := (State.destroyInst · a)) live (reach readable)
        (State.destroyInst_ok aligned readable rfl serving opened version named low there clear idle)
      exact ⟨_, ran, read_answer_code .., tget_tdel_same .., fun j far => tget_tdel_ne _ far,
        List.all_eq_true.mpr fun b mem => (List.mem_filter.mp mem).2, rfl⟩
    · exact State.act_srvAnswer_refused (f := (State.destroyInst · a)) live (reach readable)
        (State.destroyInst_live aligned readable rfl serving opened version named low there clear busy)
    · intro rank low there whole least most clear
      refine ⟨fun adapter => ?_, fun other => ?_⟩
      · obtain ⟨as, pinned⟩ := State.pinFrames_eq (s.adapterIn (s.fwRead a 32) i hs e) e true
        have pins := fun n f => State.pinFrames_pins (s.adapterIn (s.fwRead a 32) i hs e) e (n := n) (f := f)
        have does := State.registerAdapter_ok aligned readable rfl serving opened version entry handle low there whole least most clear adapter
        rw [pinned] at does pins
        obtain ⟨pl, o, ran⟩ := State.act_srvAnswer_ok (f := (State.registerAdapter · a)) live (reach readable) does
        exact ⟨_, ran, read_answer_code .., readAll_srvLine_handle .., tget_tput_same .., fun j far => tget_tput_ne _ _ far,
          tget_tput_same .., fun j far => tget_tput_ne _ _ far, pins, rfl⟩
      · exact State.act_srvAnswer_refused (f := (State.registerAdapter · a)) live (reach readable)
          (State.registerAdapter_other aligned readable rfl serving opened version entry handle other)
    · refine ⟨fun unused => ?_, fun used => ?_⟩
      · obtain ⟨hot, as, does, unpinned⟩ := State.releaseAdapter_ok aligned readable rfl serving opened version named adapter clear unused
        obtain ⟨pl, o, ran⟩ := State.act_srvAnswer_ok (f := (State.releaseAdapter · a)) live (reach readable) does
        exact ⟨_, ran, read_answer_code .., tget_tdel_same .., fun j far => tget_tdel_ne _ far, rfl, unpinned, rfl⟩
      · exact State.act_srvAnswer_refused (f := (State.releaseAdapter · a)) live (reach readable)
          (State.releaseAdapter_used aligned readable rfl serving opened version named clear used)
    · refine ⟨fun free => ?_, fun bound => ?_⟩
      · obtain ⟨rs, hs, does, kept⟩ := State.destroyRing_ok aligned readable rfl serving opened version named ring clear free
        obtain ⟨pl, o, ran⟩ := State.act_srvAnswer_ok (f := (State.destroyRing · a)) live (reach readable) does
        exact ⟨_, ran, read_answer_code .., tget_tdel_same .., fun j far => tget_tdel_ne _ far, kept, rfl⟩
      · exact State.act_srvAnswer_refused (f := (State.destroyRing · a)) live (reach readable)
          (State.destroyRing_bound aligned readable rfl serving opened version named ring clear bound)
    · obtain ⟨pl, o, ran⟩ := State.act_srvAnswer_ok (f := (State.cancelReq · a)) live (reach readable)
        (State.cancelReq_ok aligned readable rfl serving opened version named clear)
      exact ⟨_, ran, read_answer_code .., State.tget_tmod_same request _, fun j far => State.tget_tmod_ne _ far, rfl⟩
  · intro i hs p o readable version handle consumed counter whole low there clear kind entries peer
    refine ⟨fun least most => ?_, fun size => ?_⟩
    · obtain ⟨pl, o, ran⟩ := State.act_srvAnswer_ok (f := (State.createRing · a)) live (reach readable)
        (State.createRing_ok aligned readable rfl serving opened version handle consumed counter whole low there clear kind entries peer
          least most)
      refine ⟨_, ran, ?_, ?_, ?_, ?_, ?_⟩
      · exact read_answer_code ..
      · exact readAll_srvLine_handle ..
      · exact tget_tput_same ..
      · exact fun j far => tget_tput_ne _ _ far
      · rfl
    · exact State.act_srvAnswer_refused (f := (State.createRing · a)) live (reach readable)
        (State.createRing_size aligned readable rfl serving opened version handle size)

end Sys2Proof.Machine
end

section
/-! O49. Jobs and Sorus channels open and close (R18 to R25, R35, R432). -/

set_option Elab.async false

namespace Sys2Proof.Machine

/-! ### Discarded slots -/

namespace Channel

variable {ch : Channel}

theorem count_pos {st : SorSlotState} (n : ch.count st ≠ 0) : 0 < ch.count st := Nat.pos_of_ne_zero n

theorem discardAll_consuming (ch : Channel) : ch.discardAll.count .consuming = ch.count .consuming := by
  unfold count discardAll
  dsimp only
  rw [List.filter_map, List.length_map]
  congr 1
  refine List.filter_congr fun x _ => ?_
  rw [Function.comp_apply]
  split <;> simp_all [SorSlot.reset]

theorem discardAll_slots (ch : Channel) :
    (ch.discardAll.slots.all fun x => x.state == .free || (x.state == .consuming && x.discard)) = true := by
  refine List.all_eq_true.mpr fun x mem => ?_
  obtain ⟨y, -, rfl⟩ := List.mem_map.mp mem
  split <;> simp_all [SorSlot.reset]

end Channel

theorem openRecord_length (st : Status) (d n r g f : Nat) : (openRecord st d n r g f).length = 16 := by simp [openRecord]

theorem read_openRecord_code (m : Memory) (k : Nat) (st : Status) (d n r g f : Nat) :
    ((m.writeAll k (openRecord st d n r g f)).read k).toNat = st.code := by
  simp only [openRecord, List.append_assoc]
  exact read_answer_code ..

theorem read_openRecord_result (m : Memory) (k : Nat) (st : Status) (d n r g f : Nat) :
    ((m.writeAll k (openRecord st d n r g f)).read (k + 4)).toNat = r % 256 := by
  rw [Memory.read_writeAll m k (openRecord st d n r g f) (i := 4) (by simp [openRecord_length])]
  rfl

namespace State

variable {s u : State} {a h i : Nat} {l : List Byte}

/-! ### Answers -/

theorem sorAnswer_ok (k : u.Reached a h 64) (n r g f : Nat) : ∃ p o, u.sorAnswer a .ok 0 n r g f =
    { u with mem := u.mem.writeAll (hostKey (h + 0x20)) (openRecord .ok 0 n r g f), plk := p, out := o } := by
  rw [sorAnswer, if_pos rfl]
  exact k.post (by rw [openRecord_length]; decide) (by decide)

theorem act_sorAnswer_ok {f : State → State} {n r g v : Nat} (live : s.flt.fatal = false) (k : s.Reached a h 64)
    (does : f s = u.sorAnswer a .ok 0 n r g v) (p : u.pending = s.pending := by rfl) (w : u.variant = s.variant := by rfl)
    (up : u.linkUp = s.linkUp := by rfl) : ∃ pl o, act s f = .next
      { u with mem := u.mem.writeAll (hostKey (h + 0x20)) (openRecord .ok 0 n r g v), plk := pl, out := o } := by
  obtain ⟨pl, o, answered⟩ := sorAnswer_ok (k.of_linkUp up) n r g v
  exact ⟨pl, o, act_eq_next live (does.trans answered) p w⟩

theorem act_sorAnswer_refused {f : State → State} {st : Status} {d n r g v : Nat} (live : s.flt.fatal = false) (k : s.Reached a h 64)
    (does : f s = s.sorAnswer a st d n r g v) (refused : st ≠ .ok := by decide) :
    ∃ t, act s f = .next t ∧ (t.mem.read (hostKey (h + 0x20))).toNat = st.code ∧ bitAt (t.ev evSor).value 3 = true ∧
      t = { s with mem := t.mem, events := t.events, plk := t.plk, out := t.out } := by
  obtain ⟨p, o, posted⟩ := k.post (off := 0x20) (l := openRecord st d n r g v) (by rw [openRecord_length]; decide) (by decide)
  have bit := raiseEv_sets (s.post (a + 0x20) (openRecord st d n r g v)) evSor 3
  rw [sorAnswer, if_neg refused] at does
  rw [posted] at does bit
  rw [raiseEv_eq] at does bit
  exact ⟨_, act_eq_next live does, read_openRecord_code .., bit, rfl⟩

theorem sorRequest_eq (aligned : a % 64 = 0) (readable : s.requestOk a 64 = true) (f : State → List Byte → State) :
    s.sorRequest a f = f s (s.fwRead a 64) := if_pos ⟨aligned, readable⟩

/-! ### Jobs -/

/-- The job that a descriptor asks for. -/
def askedJob (l : List Byte) (tp sp tc sc : Nat) : Job :=
  { teacher := tp, student := sp, teacherCtx := tc, studentCtx := sc, tokens := le l 0x14 2, vocab := le l 0x18 3, tensorBase := le l 0x1C 4, closing := none, failed := false, former := [], formerStudents := [] }

section

variable {tp sp tc sc : Nat} (aligned : a % 64 = 0) (readable : s.requestOk a 64 = true) (line : s.fwRead a 64 = l) (version : le l 0 4 = 1)
  (teacher : s.ptnOf (le l 4 4) = some tp) (student : s.ptnOf (le l 8 4) = some sp) (teacherCtx : s.ctxOf (le l 12 4) = some tc)
  (studentCtx : s.ctxOf (le l 16 4) = some sc) (clear : clearAt l [(0x16, 2), (0x1B, 1), (0x30, 16)] = true) (least : 1 ≤ le l 0x14 2)
  (most : le l 0x14 2 ≤ 1024) (apart : tp ≠ sp) (here : (s.ctx tc).ptn = tp) (there : (s.ctx sc).ptn = sp)

include aligned readable line version teacher student teacherCtx studentCtx clear least most apart here there

theorem openJob_ok {j : Nat} {hs : HandleTable} (handle : s.jobHandles.take 16 = some (j, hs)) :
    s.openJob a = ({ s with jobs := tput s.jobs j (askedJob l tp sp tc sc), jobHandles := hs } : State).sorAnswer a .ok 0 0 j 0 0 := by
  rw [openJob, sorRequest_eq aligned readable, line]
  dsimp only
  rw [teacher, student, teacherCtx, studentCtx, handle, refusal_of_clear]
  · rfl
  · simp [version, clear, apart, here, there]
    omega

theorem openJob_full (none_ : s.jobHandles.take 16 = none) : s.openJob a = s.sorAnswer a .refusedCapacity 3 0 0 0 0 := by
  rw [openJob, sorRequest_eq aligned readable, line]
  dsimp only
  rw [teacher, student, teacherCtx, studentCtx, none_, refusal_of_check (x := (.refusedCapacity, 3)) 4 (by simp)]
  · simp [version, clear, apart, here, there]
    omega
  · simp

end

/-- The close of a job without channels. -/
theorem closeJob_ok {j : Nat} {x : Job} (aligned : a % 64 = 0) (readable : s.requestOk a 64 = true) (line : s.fwRead a 64 = l)
    (version : le l 0 4 = 1) (named : le l 4 4 = j) (low : j < 16) (clear : clearAt l [(8, 8), (0x10, 16), (0x30, 16)] = true)
    (job : tget s.jobs j = some x) (open_ : x.closing = none) (bare : (s.channels.all fun p => p.2.job != j) = true) :
    s.closeJob a = ({ s with
        jobs := tdel (tmod s.jobs j fun x => { x with closing := some a }) j, jobHandles := s.jobHandles.free j } : State).sorAnswer
      a .ok 0 0 j 0 0 := by
  have index : j % 16 = j := Nat.mod_eq_of_lt low
  have noChan : (s.channels.any fun p => p.2.job == j) = false := by
    rw [List.any_eq_false]
    intro p mem
    simpa using List.all_eq_true.mp bare p mem
  have none_ : (s.channels.filter fun p => p.2.job == j) = [] := by
    refine List.filter_eq_nil_iff.mpr fun p mem => ?_
    simpa using List.all_eq_true.mp bare p mem
  rw [closeJob, sorRequest_eq aligned readable, line]
  dsimp only
  rw [named, index, refusal_of_clear]
  · dsimp only [chansOf]
    rw [none_, List.map_nil, List.foldl_nil, jobAfter, tget_tmod_same job]
    dsimp only
    rw [noChan, if_neg (by decide), sorAnswer, if_pos rfl]
  · simp [version, job, open_, clear]
    omega

/-! ### Channels -/

/-- The channel that a descriptor asks for, with `n` slots. -/
def askedChannel (s : State) (l : List Byte) (j : Job) (n : Nat) : Channel :=
  { state := .opened, job := le l 4 1 % 16, feature := le l 5 1 == 1, slots := List.replicate n SorSlot.reset, fill := 0, placement := s.placementOf l j, waitMs := waitMsOf (le l 9 1), width := le l 0xA 2, temperature := le l 0xC 4, alpha := le l 0x10 4, beta := le l 0x14 4, gamma := le l 0x18 4, layers := le l 0x1C 4, granules := slotGranules (le l 5 1 == 1) j.tokens (le l 0xA 2), nextSeq := 0, stepSeq := 0, escalated := false, drain := false, closing := none, teacherWait := 0, teacherParks := 0, studentWait := 0, studentParks := 0, marks := [s.markOf j.teacherCtx none 0], skip := 0 }

section

variable {j : Job} (aligned : a % 64 = 0) (readable : s.requestOk a 64 = true) (line : s.fwRead a 64 = l) (version : le l 0 4 = 1)
  (job : tget s.jobs (le l 4 1 % 16) = some j) (open_ : j.closing = none) (group : s.variant.group (s.placementOf l j) = true)
  (opened : s.isOpen (sramDomain (s.placementOf l j)) = true) (range : chanRange l = false)
  (narrow : le l 5 1 = 1 ∨ le l 0xA 2 < j.vocab) (few : (s.channels.filter fun p => p.2.job == le l 4 1 % 16).length < 64)

include aligned readable line version job open_ group opened range narrow few

theorem openChannel_ok {n : Nat} {hs : HandleTable}
    (grant : grantSlots (s.sorusFree j.student (s.placementOf l j)) (slotGranules (le l 5 1 == 1) j.tokens (le l 0xA 2)) (le l 6 1)
      (bitAt (le l 7 1) 0) = some n) (handle : s.chanHandles.take 1024 = some (i, hs)) :
    ∃ r g f, s.openChannel a = ({ s with
      channels := tput s.channels i (s.askedChannel l j n), chanHandles := hs } : State).sorAnswer a .ok 0 n r g f := by
  rw [openChannel, sorRequest_eq aligned readable, line]
  dsimp only
  rw [job]
  dsimp only
  rw [grant, handle, refusal_of_clear]
  · exact ⟨_, _, _, rfl⟩
  · rcases narrow with feature | narrow
    · simp [version, open_, group, opened, range, few, feature]
    · simp [version, open_, group, opened, range, few, narrow]

theorem openChannel_full
    (grant : grantSlots (s.sorusFree j.student (s.placementOf l j)) (slotGranules (le l 5 1 == 1) j.tokens (le l 0xA 2)) (le l 6 1)
      (bitAt (le l 7 1) 0) = none) : ∃ d f, s.openChannel a = s.sorAnswer a .refusedCapacity d 0 0 0 f := by
  have clear : (!(le l 5 1 == 1) && decide (j.vocab ≤ le l 0xA 2)) = false := by
    rcases narrow with feature | narrow
    · simp [feature]
    · simp [narrow]
  rw [openChannel, sorRequest_eq aligned readable, line]
  dsimp only
  rw [job]
  dsimp only
  rw [grant]
  cases handle : s.chanHandles.take 1024 with
  | none =>
    rw [refusal_of_check (x := (.refusedCapacity, 2)) 6 (by simp)]
    · exact ⟨_, _, rfl⟩
    · simp [version, open_, group, opened, range, clear]
    · simp
  | some x =>
    rw [refusal_of_check (x := (.refusedCapacity, 1)) 7 (by simp)]
    · exact ⟨_, _, rfl⟩
    · simp [version, open_, group, opened, range, clear, few]
    · simp

end

/-- A channel that closes for request `a`, of a job that goes on, is gone, and the request is answered. -/
theorem chanClosed_ok {ch : Channel} (there : tget s.channels i = some ch) (closing : ch.closing = some a)
    (goes : ((tget s.jobs ch.job).all fun j => j.closing.isNone && !j.failed) = true) (k : s.Reached a h 64) :
    ∃ p o, s.chanClosed i = { s with
      channels := tdel s.channels i, chanHandles := s.chanHandles.free i
      mem := s.mem.writeAll (hostKey (h + 0x20)) (openRecord .ok 0 0 (s.chanHandle i) 0 0), plk := p, out := o } := by
  let u : State := { s with channels := tdel s.channels i, chanHandles := s.chanHandles.free i }
  obtain ⟨p, o, posted⟩ := (k.of_linkUp (u := u) rfl).post (off := 0x20) (l := openRecord .ok 0 0 (s.chanHandle i) 0 0)
    (by rw [openRecord_length]; decide) (by decide)
  refine ⟨p, o, ?_⟩
  rw [chanClosed, there]
  dsimp only
  rw [closing]
  dsimp only
  rw [posted, jobAfter]
  dsimp only
  cases job : tget s.jobs ch.job with
  | none => rfl
  | some x =>
    rw [job, Option.all_some, Bool.and_eq_true, Option.isNone_iff_eq_none, Bool.not_eq_true'] at goes
    obtain ⟨open_, whole⟩ := goes
    dsimp only
    rw [open_]
    dsimp only
    rw [whole, if_neg (by simp)]

/-- A closing channel that drains nothing and has no block being consumed closes. -/
theorem chanAfter_closes {ch : Channel} (there : tget s.channels i = some ch) (closing : ch.state = .closing) (discards : ch.drain = false)
    (still : ch.count .consuming = 0) : s.chanAfter i = (s.setChan i ch).chanClosed i := by
  rw [chanAfter, there]
  dsimp only
  rw [if_pos closing]
  simp [discards, still]

/-- A closing channel with a block being consumed stays. -/
theorem chanAfter_waits {ch : Channel} (there : tget s.channels i = some ch) (closing : ch.state = .closing)
    (busy : 0 < ch.count .consuming ∨ (ch.drain = true ∧ 0 < ch.count .full)) : s.chanAfter i = s.setChan i ch := by
  have whole : (ch.drain && ch.count .full == 0 && ch.count .consuming == 0) = false := by
    rcases busy with consuming | ⟨-, full⟩
    · simp [Nat.ne_of_gt consuming]
    · simp [Nat.ne_of_gt full]
  have goes : ¬(ch.drain = false ∧ ch.count .consuming = 0) := by
    rintro ⟨discards, still⟩
    rcases busy with consuming | ⟨drains, -⟩
    · omega
    · simp [discards] at drains
  rw [chanAfter, there]
  dsimp only
  rw [if_pos closing, whole, if_neg Bool.false_ne_true, if_neg goes]

/-- What a close request finds: the channel it names, of an open job. -/
theorem closeChannel_eq {ch : Channel} (aligned : a % 64 = 0) (readable : s.requestOk a 64 = true) (line : s.fwRead a 64 = l)
    (version : le l 0 4 = 1) (named : s.chanOf (le l 0xC 4) = some i) (there : tget s.channels i = some ch) (job : ch.job = le l 4 1)
    (low : le l 4 1 < 16) (mode : le l 7 1 ≤ 1) (clear : clearAt l [(5, 2), (8, 4), (0x10, 16), (0x30, 16)] = true)
    (unasked : ch.closing = none) (opened : ch.state = .opened) : s.closeChannel a = s.chanClose i (bitAt (le l 7 1) 0) (some a) := by
  have index : le l 4 1 % 16 = le l 4 1 := Nat.mod_eq_of_lt low
  have mine : (tget s.channels i).any (fun ch => ch.job == le l 4 1 && ch.closing.isNone && ch.state != .closing) = true := by
    simp [there, job, unasked, opened]
  rw [closeChannel, sorRequest_eq aligned readable, line]
  dsimp only
  rw [named, index, Option.filter_some, if_pos mine, refusal_of_clear]
  simp [version, clear]
  omega

theorem setChan_chan (s : State) (i : Nat) (ch : Channel) : tget (s.setChan i ch).channels i = some ch := tget_tput_same ..

theorem setChan_chan_ne (s : State) (ch : Channel) {k : Nat} (far : k ≠ i) : tget (s.setChan i ch).channels k = tget s.channels k :=
  tget_tput_ne _ _ far

/-- A channel that closes at once for request `a`, after changes to it. -/
theorem chanClosed_setChan {ch : Channel} (k : s.Reached a h 64) (closing : ch.closing = some a)
    (goes : ((tget s.jobs ch.job).all fun j => j.closing.isNone && !j.failed) = true) (there : tget s.channels i = some ch)
    (going : ch.state = .closing) (discards : ch.drain = false) (still : ch.count .consuming = 0) :
    ∃ p o cs, s.chanAfter i = { s with
      channels := cs, chanHandles := s.chanHandles.free i
      mem := s.mem.writeAll (hostKey (h + 0x20)) (openRecord .ok 0 0 (s.chanHandle i) 0 0), plk := p, out := o } ∧
      tget cs i = none ∧ ∀ k, k ≠ i → tget cs k = tget s.channels k := by
  obtain ⟨p, o, closed⟩ := chanClosed_ok (s := s.setChan i ch) (setChan_chan ..) closing goes (k.of_linkUp rfl)
  rw [chanAfter_closes there going discards still, closed]
  exact ⟨p, o, _, rfl, tget_tdel_same .., fun k far => (tget_tdel_ne _ far).trans (setChan_chan_ne _ _ far)⟩

end State

/-- Settles O49: the checks of an open decide it; a close ends when no block of the channel is being consumed, and none that it is to
drain is left. -/
theorem jobsAndChannelsOpenAndClose : Obligations.JobsAndChannelsOpenAndClose := by
  intro s a h live up
  refine ⟨fun aligned host readable version => ⟨?_, ?_, ?_, ?_⟩, ?_⟩
  · intro tp sp tc sc teacher student teacherCtx studentCtx clear least most apart here there
    have reach := State.reached_of_requestOk host up readable
    refine ⟨fun j hs handle => ?_, fun none_ => ?_⟩
    · obtain ⟨pl, o, ran⟩ := State.act_sorAnswer_ok (f := (State.openJob · a)) live reach
        (State.openJob_ok aligned readable rfl version teacher student teacherCtx studentCtx clear least most apart here there handle)
      exact ⟨_, ran, read_openRecord_code .., read_openRecord_result .., tget_tput_same .., fun i far => tget_tput_ne _ _ far, rfl⟩
    · exact State.act_sorAnswer_refused (f := (State.openJob · a)) live reach
        (State.openJob_full aligned readable rfl version teacher student teacherCtx studentCtx clear least most apart here there none_)
  · intro j x named low clear job open_ bare
    obtain ⟨pl, o, ran⟩ := State.act_sorAnswer_ok (f := (State.closeJob · a)) live (State.reached_of_requestOk host up readable)
      (State.closeJob_ok aligned readable rfl version named low clear job open_ bare)
    exact ⟨_, ran, read_openRecord_code .., tget_tdel_same .., fun i far => (tget_tdel_ne _ far).trans (State.tget_tmod_ne _ far), rfl⟩
  · intro j job open_ die per grant group opened range narrow few
    have reach := State.reached_of_requestOk host up readable
    refine ⟨fun n i hs granted handle => ?_, fun none_ => ?_⟩
    · obtain ⟨r, g, f, does⟩ := State.openChannel_ok aligned readable rfl version job open_ group opened range narrow few granted handle
      obtain ⟨pl, o, ran⟩ := State.act_sorAnswer_ok (f := (State.openChannel · a)) live reach does
      refine ⟨_, ran, read_openRecord_code .., ?_, fun k far => tget_tput_ne _ _ far, rfl⟩
      rw [tget_tput_same]
      simp [State.askedChannel, die, per]
    · obtain ⟨d, f, does⟩ := State.openChannel_full aligned readable rfl version job open_ group opened range narrow few none_
      exact State.act_sorAnswer_refused (f := (State.openChannel · a)) live reach does
  · intro i ch named there job low mode clear unasked opened goes
    have reach := State.reached_of_requestOk host up readable
    have does := State.closeChannel_eq aligned readable rfl version named there job low mode clear unasked opened
    rw [State.chanClose, there] at does
    refine ⟨fun discard still => ?_, fun drain full => ?_⟩
    · rw [discard] at does
      let c : Channel := ({ ch with state := .closing, drain := false, closing := some a } : Channel).discardAll
      obtain ⟨pl, o, cs, closed, gone, others⟩ := State.chanClosed_setChan (s := s.setChan i c) (ch := c) (reach.of_linkUp rfl) rfl goes
        (State.setChan_chan ..) rfl rfl ((Channel.discardAll_consuming _).trans still)
      exact ⟨_, act_eq_next (f := (State.closeChannel · a)) live (does.trans closed), gone, read_openRecord_code ..,
        fun k far => (others k far).trans (State.setChan_chan_ne _ _ far), rfl⟩
    · rw [drain] at does
      let c : Channel := { ch with state := .closing, drain := true, closing := some a }
      have waits := State.chanAfter_waits (s := s.setChan i c) (State.setChan_chan ..) rfl (.inr ⟨rfl, full⟩)
      exact ⟨_, act_eq_next (f := (State.closeChannel · a)) live (does.trans waits), State.setChan_chan ..,
        fun k far => (State.setChan_chan_ne _ _ far).trans (State.setChan_chan_ne _ _ far), rfl⟩
  · intro i ch there closing drains goes
    let c : Channel := { ch.discardAll with drain := false }
    have does : s.closeLimit i = (s.setChan i c).chanAfter i := by
      rw [State.closeLimit, there]
      exact if_pos ⟨closing, drains⟩
    refine ⟨fun still asked host aligned => ?_, fun busy => ?_⟩
    · have reach : s.Reached a h 64 := ⟨host, up, (HostLine.parse (n := 64) ⟨host, by decide, aligned, up⟩ (off := 0) (by decide)).2⟩
      obtain ⟨pl, o, cs, closed, gone, others⟩ := State.chanClosed_setChan (s := s.setChan i c) (ch := c) (reach.of_linkUp rfl) asked goes
        (State.setChan_chan ..) closing rfl ((Channel.discardAll_consuming ch).trans still)
      exact ⟨_, act_eq_next (f := (State.closeLimit · i)) live (does.trans closed), gone, read_openRecord_code ..,
        fun k far => (others k far).trans (State.setChan_chan_ne _ _ far), rfl⟩
    · have waits := State.chanAfter_waits (s := s.setChan i c) (State.setChan_chan ..) closing
        (.inl (by rw [← Channel.discardAll_consuming ch] at busy; exact busy))
      refine ⟨_, act_eq_next (f := (State.closeLimit · i)) live (does.trans waits), ?_, rfl⟩
      rw [State.setChan_chan, Option.any_some, Bool.and_eq_true]
      exact ⟨by rw [show c.state = .closing from closing]; rfl, Channel.discardAll_slots ch⟩

end Sys2Proof.Machine
end

section
/-! SUPPORT. The log's records and the end of a checkpoint (R314, R318, R325). -/

set_option Elab.async false

namespace Sys2Proof.Machine

/-- Steps that write log records: of the checkpoint's registers only those of the log change. -/
structure Records (s t : State) : Prop where
  frame : ∃ m ls held fl n full net later es p o, t = { s with
    mem := m, lines := ls, netOut := net, netHeld := later, events := es, plk := p, out := o
    ckp := { s.ckp with logHeld := held, flushed := fl, lsn := n, full := full } }
  keeps : KeepsNet s t

namespace Records

variable {s t u : State}

theorem refl (s : State) : Records s s := ⟨⟨_, _, s.ckp.logHeld, s.ckp.flushed, s.ckp.lsn, s.ckp.full, _, _, _, _, _, rfl⟩, .refl s⟩

theorem trans (h : Records s t) (k : Records t u) : Records s u := by
  refine ⟨?_, h.keeps.trans k.keeps⟩
  obtain ⟨m, ls, held, fl, n, full, net, later, es, p, o, rfl⟩ := h.frame
  obtain ⟨m', ls', held', fl', n', full', net', later', es', p', o', rfl⟩ := k.frame
  exact ⟨m', ls', held', fl', n', full', net', later', es', p', o', rfl⟩

theorem foldl {α : Type} {f : State → α → State} (step : ∀ s a, Records s (f s a)) (l : List α) (s : State) : Records s (l.foldl f s) :=
  List.foldlRecOn (motive := Records s) l f (refl s) fun t ht a _ => ht.trans (step t a)

theorem raiseEv (s : State) (e b : Nat) : Records s (s.raiseEv e b) := by
  refine ⟨?_, .raiseEv ..⟩
  rw [State.raiseEv_eq]
  exact ⟨_, _, s.ckp.logHeld, s.ckp.flushed, s.ckp.lsn, s.ckp.full, _, _, _, _, _, rfl⟩

theorem sendNet (s : State) (m : NetMsg) : Records s (s.sendNet m) := ⟨⟨_, _, s.ckp.logHeld, s.ckp.flushed, s.ckp.lsn, s.ckp.full, _, _, _, _, _, rfl⟩, .sendNet ..⟩

theorem log (s : State) (held : List (List Byte)) (fl n : DWord) (full : Bool) :
    Records s { s with ckp := { s.ckp with logHeld := held, flushed := fl, lsn := n, full := full } } :=
  ⟨⟨_, _, held, fl, n, full, _, _, _, _, _, rfl⟩, ⟨rfl, ⟨rfl, rfl⟩, fun _ _ => id, fun _ => id⟩⟩

theorem logStore (s : State) (p : Nat) (l : List Byte) : Records s (s.logStore p l) := by
  refine ⟨?_, s.logStore_keeps p l⟩
  obtain ⟨m, ls, stored⟩ := s.logStore_frame p l
  exact ⟨m, ls, s.ckp.logHeld, s.ckp.flushed, s.ckp.lsn, s.ckp.full, _, _, _, _, _, stored⟩

theorem logPut (s : State) (ty st fl step : Nat) (body : List Byte) : Records s (s.logPut ty st fl step body) := by
  unfold State.logPut
  split
  · exact .refl s
  · split
    · exact .refl s
    · extract_lets _ _ _ _ _ s1 _ s2 _ s3 _
      have stored : Records s s1 := by
        unfold s1
        split
        · exact log s _ s.ckp.flushed s.ckp.lsn s.ckp.full
        · exact logStore ..
      have sent : Records s1 s2 := by
        unfold s2
        split
        · exact .sendNet ..
        · split
          · exact .refl s1
          · exact log s1 s1.ckp.logHeld _ s1.ckp.lsn s1.ckp.full
      have counted : Records s s3 := (stored.trans sent).trans (log s2 s2.ckp.logHeld s2.ckp.flushed _ s2.ckp.full)
      split
      · exact (counted.trans (log s3 s3.ckp.logHeld s3.ckp.flushed s3.ckp.lsn _)).trans (.raiseEv ..)
      · exact counted

theorem logRelease (s : State) (giveUp : Bool) : Records s (s.logRelease giveUp) := by
  unfold State.logRelease
  split
  · exact .refl s
  · extract_lets _ s1 _ s2
    have stored : Records s s1 := .foldl (fun s l => logStore s _ l) _ s
    have dropped : Records s1 s2 := log s1 _ s1.ckp.flushed s1.ckp.lsn s1.ckp.full
    exact (stored.trans dropped).trans (log s2 s2.ckp.logHeld _ s2.ckp.lsn _)

theorem ckptRecord (s : State) : Records s s.ckptRecord := logPut ..

/-- What log records leave of the checkpoint's registers. -/
theorem ckp (h : Records s t) : ∃ held fl n full, t.ckp = { s.ckp with logHeld := held, flushed := fl, lsn := n, full := full } := by
  obtain ⟨m, ls, held, fl, n, full, net, later, es, p, o, rfl⟩ := h.frame
  exact ⟨held, fl, n, full, rfl⟩

theorem contexts (h : Records s t) : t.contexts = s.contexts := by
  obtain ⟨m, ls, held, fl, n, full, net, later, es, p, o, rfl⟩ := h.frame
  rfl

theorem attrs (h : Records s t) : t.attrs = s.attrs := by
  obtain ⟨m, ls, held, fl, n, full, net, later, es, p, o, rfl⟩ := h.frame
  rfl

end Records

namespace State

variable {s : State} {p : Nat}

/-! ### Write protection -/

theorem heldRelease_eq (s : State) (ok : Nat → Bool) : ∃ m ls held copying, s.heldRelease ok =
    { s with mem := m, lines := ls, ckp := { s.ckp with held := held, copying := copying } } := by
  unfold heldRelease
  dsimp only
  rw [foldl_lines (fun s h => dirtied_eq s h.key h.data.length)]
  exact ⟨_, _, _, _, rfl⟩

/-- An entry of a table whose values of `f` all meet `P`, once those that are dropped are gone. -/
theorem tget_filterMap {α : Type} {g : Nat × α → Option (Nat × α)} {P : α → Prop} {f : Nat} {t : Tab α}
    (key : ∀ x y, g x = some y → y.1 = x.1) (value : ∀ x y, g x = some y → x.1 = f → P y.2) {v : α}
    (there : tget (t.filterMap g) f = some v) : P v := by
  have mem := mem_of_tget_eq_some there
  obtain ⟨x, -, from_⟩ := List.mem_filterMap.mp mem
  exact value x _ from_ (key x _ from_).symm

/-- An entry of the frames' attributes without its write protection, where the frame is one of these. -/
def unprotected (mine : Nat → Bool) (x : Nat × Nat) : Option (Nat × Nat) :=
  if (if mine x.1 then setFld x.2 2 2 0 else x.2) = 0 then none else some (x.1, if mine x.1 then setFld x.2 2 2 0 else x.2)

theorem clearWp_eq (s : State) (p : Nat) : ∃ as m ls held copying, s.clearWp p =
    { s with attrs := as, mem := m, lines := ls, ckp := { s.ckp with held := held, copying := copying } } := by
  obtain ⟨m, ls, held, copying, released⟩ := heldRelease_eq { s with attrs := s.attrs.filterMap (unprotected (s.frameOf p)) } (s.frameOf p)
  exact ⟨_, m, ls, held, copying, released⟩

/-- No frame of the partition is protected any longer. -/
theorem clearWp_opens {f : Nat} (mine : s.frameOf p f = true) : bitAt ((s.clearWp p).attr f) 2 = false := by
  have attrs : (s.clearWp p).attrs = s.attrs.filterMap (unprotected (s.frameOf p)) := by
    obtain ⟨m, ls, held, copying, released⟩ := heldRelease_eq { s with attrs := s.attrs.filterMap (unprotected (s.frameOf p)) } (s.frameOf p)
    exact congrArg State.attrs released
  have open_ (v : Nat) : bitAt (setFld v 2 2 0) 2 = false := bitAt_setFld_self v 2 false
  rw [attr, attrs, tgetD]
  cases there : tget (s.attrs.filterMap _) f with
  | none => rfl
  | some v =>
    refine tget_filterMap (P := fun v => bitAt v 2 = false) ?_ ?_ there
    · intro x y from_
      rw [unprotected, Option.ite_none_left_eq_some] at from_
      obtain rfl := Option.some.inj from_.2
      rfl
    · intro x y from_ here
      subst here
      rw [unprotected, mine, if_pos rfl, Option.ite_none_left_eq_some] at from_
      obtain rfl := Option.some.inj from_.2
      exact open_ _

/-! ### The end of a checkpoint -/

/-- The checkpoint's registers once it has ended. -/
structure Ended (s t : State) (failed : Bool) : Prop where
  ckp : ∃ held fl n full writes copying, t.ckp = { s.ckp with
    state := if failed then .failed else .abandoned, copyMap := [], reserve := [], captureHeld := [], due := false, forced := false, cut := false
    logHeld := held, flushed := fl, lsn := n, full := full, held := writes, copying := copying }
  contexts : t.contexts = tmap (fun _ k => if k.captureDue then { k with captureDue := false } else k) s.contexts
  opens : ∀ p f, s.ckpPtn = some p → s.frameOf p f = true → bitAt (t.attr f) 2 = false
  told : bitAt (t.ev evCkp).value (if failed then 2 else 1) = true
  keeps : KeepsNet s t

theorem ckptEnd_ends (runs : s.ckptRuns = true) (failed : Bool) : Ended s (s.ckptEnd failed) failed := by
  let s1 : State := { s with
    ckp := { s.ckp with
      state := if failed then .failed else .abandoned, copyMap := [], reserve := [], captureHeld := [], due := false
      forced := false, cut := false }
    contexts := tmap (fun _ k => if k.captureDue then { k with captureDue := false } else k) s.contexts }
  let s2 := match s1.ckpPtn with
    | some p => s1.clearWp p
    | none => s1
  have eq : s.ckptEnd failed = ((if s.ckp.forced then s2.logRelease true else s2).ckptRecord).raiseEv evCkp (if failed then 2 else 1) :=
    if_pos runs
  have records : Records s2 (s.ckptEnd failed) := by
    rw [eq]
    refine Records.trans ?_ (.raiseEv ..)
    refine Records.trans ?_ (.ckptRecord _)
    split
    · exact .logRelease ..
    · exact .refl s2
  have cleared : ∃ as m ls held copying, s2 =
      { s1 with attrs := as, mem := m, lines := ls, ckp := { s1.ckp with held := held, copying := copying } } := by
    unfold s2
    split
    · exact clearWp_eq ..
    · exact ⟨_, _, _, _, _, rfl⟩
  have opens (p f : Nat) (ptn : s.ckpPtn = some p) (mine : s.frameOf p f = true) : bitAt (s2.attr f) 2 = false := by
    have same : s1.ckpPtn = some p := ptn
    unfold s2
    rw [same]
    exact clearWp_opens mine
  have kept : KeepsNet s s2 := by
    obtain ⟨as, m, ls, held, copying, c⟩ := cleared
    rw [c]
    exact ⟨rfl, ⟨rfl, rfl⟩, fun _ _ => id, fun _ => id⟩
  refine ⟨?_, ?_, fun p f ptn mine => ?_, ?_, kept.trans records.keeps⟩
  · obtain ⟨held, fl, n, full, c⟩ := records.ckp
    obtain ⟨as, m, ls, writes, copying, c2⟩ := cleared
    rw [c, c2]
    exact ⟨held, fl, n, full, writes, copying, rfl⟩
  · obtain ⟨as, m, ls, writes, copying, c2⟩ := cleared
    rw [records.contexts, c2]
  · rw [attr, records.attrs]
    exact opens p f ptn mine
  · rw [eq]
    exact raiseEv_sets ..

theorem Ended.ctx {t : State} {failed : Bool} (h : Ended s t failed) (c : Nat) : t.ctx c = { s.ctx c with captureDue := false } := by
  have same (k : Context) : (if k.captureDue then { k with captureDue := false } else k) = { k with captureDue := false } := by
    split
    · rfl
    · next quiet => rw [Bool.not_eq_true] at quiet; rw [← quiet]
  unfold State.ctx
  rw [h.contexts, tgetD, tget_tmap, tgetD]
  cases tget s.contexts c with
  | none => rfl
  | some k => exact same k

end State

end Sys2Proof.Machine
end

section
/-! O59. Checkpoints reach durability or end (R314, R316 to R325, R328). -/

set_option Elab.async false

namespace Sys2Proof.Machine

namespace State

variable {s : State} {p : Nat}

/-! ### The capture -/

theorem queue_cmds_nil {c : Nat} (idle : ((s.ctx c).queues.all fun q => q.cmds.isEmpty) = true) (q : Nat) : (s.queue c q).cmds = [] := by
  unfold queue
  rw [List.getD_eq_getElem?_getD]
  cases there : (s.ctx c).queues[q]? with
  | none => rfl
  | some x => exact List.isEmpty_iff.mp (List.all_eq_true.mp idle x (List.mem_of_getElem? there))

theorem layerGate_idle {c q : Nat} (idle : (s.queue c q).cmds = []) : s.layerGate c q = s := by
  have none_ : s.heldEvent c q 1 = none := by
    unfold heldEvent
    rw [idle]
    split <;> rfl
  have passed : s.passGate c q = s := by rw [passGate, none_]
  rw [layerGate, passed]
  exact if_pos rfl

theorem streamAll_idle (noSession : s.ckpSession = false) : s.streamAll = s := by
  have next (c : Nat) : s.streamNext c = s := by
    unfold streamNext
    split
    · rfl
    · extract_lets
      exact if_pos (.inr (.inl noSession))
  refine List.foldlRecOn (motive := fun t => t = s) _ _ rfl ?_
  rintro _ rfl c -
  exact next c

theorem cutShards_first {region first n : Nat} (some_ : n ≠ 0) :
    ((cutShards region first n).any fun x => x.region == region && x.first == first && !x.sent) = true := by
  have one : 0 < ceilDiv n shardPages := by
    unfold ceilDiv shardPages
    omega
  refine List.any_eq_true.mpr ⟨_, List.mem_map.mpr ⟨0, List.mem_range.mpr one, rfl⟩, ?_⟩
  simp

/-- Protecting frames sets their bit, and clears none. -/
theorem protect_sets (fs : List Nat) (s : State) : (∃ as, fs.foldl (fun (s : State) f => s.setAttr f (s.attr f ||| 4)) s = { s with attrs := as }) ∧
    ∀ f, f ∈ fs ∨ bitAt (s.attr f) 2 = true → bitAt ((fs.foldl (fun (s : State) f => s.setAttr f (s.attr f ||| 4)) s).attr f) 2 = true := by
  induction fs generalizing s with
  | nil => exact ⟨⟨s.attrs, rfl⟩, fun f h => h.resolve_left List.not_mem_nil⟩
  | cons g r ih =>
    obtain ⟨⟨as, frame⟩, sets⟩ := ih (s.setAttr g (s.attr g ||| 4))
    refine ⟨⟨as, by rw [List.foldl_cons, frame]; rfl⟩, fun f h => sets f ?_⟩
    by_cases here : f = g
    · subst here
      exact .inr (by rw [attr_setAttr]; exact bitAt_or_two_pow_self _ 2)
    · rw [attr_setAttr_ne _ _ here]
      exact h.imp_left fun mem => (List.mem_cons.mp mem).resolve_left here

/-- The captures that were due are over. -/
theorem captured_eq (cs : List Nat) (s : State) :
    (∃ k, cs.foldl (fun (s : State) c => s.setCtx c { s.ctx c with captureDue := false }) s = { s with contexts := k }) ∧
    (∀ c, ((cs.foldl (fun (s : State) c => s.setCtx c { s.ctx c with captureDue := false }) s).ctx c).queues = (s.ctx c).queues) ∧
    ∀ c, c ∈ cs ∨ (s.ctx c).captureDue = false →
      ((cs.foldl (fun (s : State) c => s.setCtx c { s.ctx c with captureDue := false }) s).ctx c).captureDue = false := by
  induction cs generalizing s with
  | nil => exact ⟨⟨s.contexts, rfl⟩, fun _ => rfl, fun c h => h.resolve_left List.not_mem_nil⟩
  | cons d r ih =>
    obtain ⟨⟨k, frame⟩, queues, done⟩ := ih (s.setCtx d { s.ctx d with captureDue := false })
    refine ⟨⟨k, by rw [List.foldl_cons, frame]; rfl⟩, fun c => ?_, fun c h => done c ?_⟩
    · rw [List.foldl_cons, queues]
      by_cases here : c = d
      · rw [here, setCtx_ctx]
      · rw [setCtx_ctx_ne _ _ here]
    · by_cases here : c = d
      · exact .inr (by rw [here, setCtx_ctx])
      · rw [setCtx_ctx_ne _ _ here]
        exact h.imp_left fun mem => (List.mem_cons.mp mem).resolve_left here

/-- The frames of these regions, protected. -/
def protected_ (s : State) (p : Nat) (rs : List Region) : State :=
  rs.foldl (fun (s : State) r => (s.framesOf p r.first r.pages).foldl (fun (s : State) f => s.setAttr f (s.attr f ||| 4)) s) s

theorem protected_sets (p : Nat) (rs : List Region) (s : State) : (∃ as, s.protected_ p rs = { s with attrs := as }) ∧
    ∀ f, (∃ r ∈ rs, f ∈ s.framesOf p r.first r.pages) ∨ bitAt (s.attr f) 2 = true → bitAt ((s.protected_ p rs).attr f) 2 = true := by
  induction rs generalizing s with
  | nil => exact ⟨⟨s.attrs, rfl⟩, fun f h => h.resolve_left (by simp)⟩
  | cons g r ih =>
    obtain ⟨⟨as, frame⟩, sets⟩ := protect_sets (s.framesOf p g.first g.pages) s
    obtain ⟨⟨bs, frame'⟩, sets'⟩ := ih ((s.framesOf p g.first g.pages).foldl (fun (s : State) f => s.setAttr f (s.attr f ||| 4)) s)
    refine ⟨⟨bs, ?_⟩, fun f h => sets' f ?_⟩
    · rw [protected_, List.foldl_cons]
      refine frame'.trans ?_
      rw [frame]
    · rcases h with ⟨x, mem, here⟩ | set
      · rcases List.mem_cons.mp mem with rfl | later
        · exact .inr (sets f (.inl here))
        · refine .inl ⟨x, later, ?_⟩
          rw [frame]
          exact here
      · exact .inr (sets f (.inr set))

/-- The checkpoint's registers right after the capture point. -/
def capturedCkp (s : State) (p : Nat) (implicit : List (List Byte)) (shards : List Shard) : Ckp :=
  { s.ckp with
    ckptLsn := s.ckp.endLsn, chans := s.chanSnapshot p, state := .streaming, requested := false, due := false, implicit := implicit
    shards := shards, lastStreamed := 0, manifestSent := false, copyMap := [], reserve := s.reserveLists p }

/-- The contexts of a capture, held no longer. -/
def captureEnds (u : State) (cs : List Nat) : State :=
  let v := cs.foldl (fun (s : State) c => s.setCtx c { s.ctx c with captureDue := false }) u
  v.setCkp { v.ckp with captureHeld := [] }

/-- The gates at which the contexts of a capture were held act, and the shards begin to stream. -/
def captureGoes (u : State) (cs : List Nat) : State :=
  (cs.foldl (fun (s : State) c => [0, 1, 2, 3].foldl (fun (s : State) q => s.layerGate c q) s) u).streamAll

theorem captureGoes_idle {u : State} {cs : List Nat} (noSession : u.ckpSession = false)
    (idle : ∀ c ∈ cs, ((u.ctx c).queues.all fun q => q.cmds.isEmpty) = true) : u.captureGoes cs = u := by
  have gates : cs.foldl (fun (s : State) c => [0, 1, 2, 3].foldl (fun (s : State) q => s.layerGate c q) s) u = u := by
    refine List.foldlRecOn (motive := fun t => t = u) _ _ rfl ?_
    rintro _ rfl c mem
    refine List.foldlRecOn (motive := fun t => t = _) _ _ rfl ?_
    rintro _ rfl q -
    exact layerGate_idle (queue_cmds_nil (idle c mem) q)
  rw [captureGoes, gates, streamAll_idle noSession]

theorem capture_eq (ptn : s.ckpPtn = some p) (due : s.ckp.due = true) (capturing : s.ckp.state = .capturing) (some_ : s.stepCtxs p ≠ [])
    (copied : s.ckp.copying = []) (all : ((s.stepCtxs p).all fun c => s.ckp.captureHeld.contains c) = true) :
    ∃ implicit shards, implicit.length = 4 ∧ (∀ r ∈ s.regions, ∀ x ∈ cutShards r.ident r.first r.pages, x ∈ shards) ∧
      s.capture = (((s.setCkp (s.capturedCkp p implicit shards)).protected_ p s.regions).ckptRecord.captureEnds (s.stepCtxs p)).captureGoes
        (s.stepCtxs p) := by
  have goes : ¬(s.ckp.due = false ∨ s.ckp.state ≠ .capturing ∨ s.stepCtxs p = [] ∨
      ((s.stepCtxs p).all fun c => s.ckp.captureHeld.contains c) = false ∨ (s.ckp.copying != []) = true) := by
    simp [due, capturing, some_, copied]
    simpa using all
  rw [capture, ptn]
  dsimp only
  rw [if_neg goes]
  refine ⟨_, _, ?_, ?_, rfl⟩
  · rfl
  · intro r mem x here
    refine List.mem_append_left _ (List.mem_append_left _ (List.mem_append_left _ (List.mem_append_left _ ?_)))
    exact List.mem_flatMap.mpr ⟨r, mem, here⟩

theorem capture_spec (ptn : s.ckpPtn = some p) (due : s.ckp.due = true) (capturing : s.ckp.state = .capturing) (some_ : s.stepCtxs p ≠ [])
    (copied : s.ckp.copying = []) (all : ((s.stepCtxs p).all fun c => s.ckp.captureHeld.contains c) = true) (noSession : s.ckpSession = false)
    (idle : ((s.stepCtxs p).all fun c => (s.ctx c).queues.all fun q => q.cmds.isEmpty) = true) :
    (∃ implicit shards held fl n full, implicit.length = 4 ∧ (∀ r ∈ s.regions, ∀ x ∈ cutShards r.ident r.first r.pages, x ∈ shards) ∧
      s.capture.ckp = { s.capturedCkp p implicit shards with
        captureHeld := [], logHeld := held, flushed := fl, lsn := n, full := full }) ∧
    (∀ c, c ∈ s.stepCtxs p → (s.capture.ctx c).captureDue = false) ∧
    (∀ r ∈ s.regions, ∀ f ∈ s.framesOf p r.first r.pages, bitAt (s.capture.attr f) 2 = true) ∧
    s.capture.pending = s.pending ∧ s.capture.variant = s.variant := by
  obtain ⟨implicit, shards, four, listed, eq⟩ := capture_eq ptn due capturing some_ copied all
  let u := s.setCkp (s.capturedCkp p implicit shards)
  obtain ⟨⟨as, frame⟩, sets⟩ := protected_sets p s.regions u
  let v := u.protected_ p s.regions
  have records : Records v v.ckptRecord := .ckptRecord v
  obtain ⟨⟨ks, ended⟩, queues, quiet⟩ := captured_eq (s.stepCtxs p) v.ckptRecord
  have ctx (c : Nat) : v.ckptRecord.ctx c = s.ctx c := by
    unfold State.ctx
    rw [records.contexts, show v = _ from frame]
    rfl
  obtain ⟨held, fl, n, full, ckp⟩ := records.ckp
  have ckp : v.ckptRecord.ckp = { s.capturedCkp p implicit shards with logHeld := held, flushed := fl, lsn := n, full := full } := by
    rw [ckp, show v = _ from frame]
    rfl
  have ends : v.ckptRecord.captureEnds (s.stepCtxs p) = { v.ckptRecord with
      contexts := ks, ckp := { s.capturedCkp p implicit shards with
        captureHeld := [], logHeld := held, flushed := fl, lsn := n, full := full } } := by
    rw [captureEnds, ended]
    dsimp only [setCkp]
    rw [ckp]
  have same : s.capture = v.ckptRecord.captureEnds (s.stepCtxs p) := by
    rw [eq]
    refine captureGoes_idle ?_ fun c mem => ?_
    · rw [show (u.protected_ p s.regions).ckptRecord.captureEnds (s.stepCtxs p) = _ from ends]
      exact noSession
    · have q := queues c
      rw [ended] at q
      rw [show (u.protected_ p s.regions).ckptRecord.captureEnds (s.stepCtxs p) = _ from ends]
      show (({ v.ckptRecord with contexts := ks } : State).ctx c).queues.all _ = true
      rw [q, ctx]
      exact List.all_eq_true.mp idle c mem
  rw [same, ends]
  refine ⟨⟨implicit, shards, held, fl, n, full, four, listed, rfl⟩, fun c mem => ?_, fun r mem f here => ?_, ?_, ?_⟩
  · have q := quiet c (.inl mem)
    rw [ended] at q
    exact q
  · show bitAt (tgetD v.ckptRecord.attrs f 0) 2 = true
    rw [records.attrs]
    exact sets f (.inl ⟨r, mem, here⟩)
  · exact records.keeps.still.1.trans (by rw [show v = _ from frame]; rfl)
  · exact records.keeps.still.2.trans (by rw [show v = _ from frame]; rfl)

/-! ### Shards -/

/-- A property of every element once the one at `i` has been replaced by one that has it. -/
theorem all_set {α : Type} {l : List α} {i : Nat} {y : α} {P : α → Bool} (own : P y = true) :
    (l.set i y).all P = l.zipIdx.all fun z => z.2 == i || P z.1 := by
  rw [Bool.eq_iff_iff, List.all_eq_true, List.all_eq_true]
  refine ⟨fun all z mem => ?_, fun all x mem => ?_⟩
  · obtain ⟨at_, value⟩ := List.getElem?_eq_some_iff.mp (List.mk_mem_zipIdx_iff_getElem?.mp (show (z.1, z.2) ∈ l.zipIdx from mem))
    by_cases here : z.2 = i
    · simp [here]
    · have kept := all ((l.set i y)[z.2]'(by rw [List.length_set]; exact at_)) (List.getElem_mem _)
      rw [List.getElem_set_ne (Ne.symm here), value] at kept
      simp [kept]
  · obtain ⟨j, short, rfl⟩ := List.getElem_of_mem mem
    rw [List.getElem_set]
    split
    · exact own
    · next far =>
      have at_ : j < l.length := by rw [List.length_set] at short; exact short
      have other := all (l[j], j) (List.mk_mem_zipIdx_iff_getElem?.mpr (List.getElem?_eq_getElem at_))
      simpa [Ne.symm far] using other

section

variable {conn i : Nat} {x : Shard}

theorem inFlight_spec (flight : s.inFlight conn = some (x, i)) : i < s.ckp.shards.length ∧ x.sent = true := by
  have found := List.find?_some flight
  obtain ⟨at_, -⟩ := List.getElem?_eq_some_iff.mp (List.mk_mem_zipIdx_iff_getElem?.mp (List.mem_of_find?_eq_some flight))
  refine ⟨at_, ?_⟩
  simp only [Bool.and_eq_true] at found
  exact found.1.2

/-- The checkpoint's registers once the shard at `i` is acknowledged. -/
def ackedCkp (s : State) (p : Nat) (x : Shard) (i : Nat) : Ckp :=
  { s.ckp with
    shards := s.ckp.shards.set i { x with acked := true }
    copyMap := s.ckp.copyMap.filter fun c => !(s.shardFrames p x).contains c.1
    reserve := (s.ckp.copyMap.filter fun c => (s.shardFrames p x).contains c.1).foldl (fun t c =>
      tput t (c.2 / framesPerPc / 64) (tgetD t (c.2 / framesPerPc / 64) [] ++ [c.2])) s.ckp.reserve }

theorem shardAck_eq (ptn : s.ckpPtn = some p) (flight : s.inFlight conn = some (x, i)) (streaming : s.ckp.state = .streaming) :
    s.shardAck conn =
      if (s.ckp.cut && !((s.ackedCkp p x i).shards.any fun x => x.sent && !x.acked)) = true
      then (s.setCkp (s.ackedCkp p x i)).ckptEnd false
      else ((s.setCkp (s.ackedCkp p x i)).streamNext conn).sendManifest := by
  rw [shardAck, ptn, flight]
  dsimp only
  rw [if_neg (not_not.mpr streaming)]
  rfl

/-- With its input power lost, a checkpoint ends with the last shard that was under way. -/
theorem shardAck_cut (ptn : s.ckpPtn = some p) (flight : s.inFlight conn = some (x, i)) (streaming : s.ckp.state = .streaming)
    (cut : s.ckp.cut = true) (last : (s.ckp.shards.zipIdx.all fun y => y.2 == i || !(y.1.sent && !y.1.acked)) = true) :
    Ended (s.setCkp (s.ackedCkp p x i)) (s.shardAck conn) false := by
  have none_ : ((s.ackedCkp p x i).shards.any fun x => x.sent && !x.acked) = false := by
    have all := (all_set (P := fun y : Shard => !(y.sent && !y.acked)) (y := { x with acked := true }) (by simp)).trans last
    refine List.any_eq_false.mpr fun y mem => ?_
    have kept := List.all_eq_true.mp all y mem
    rw [Bool.not_eq_true'] at kept
    rw [kept]
    exact Bool.false_ne_true
  rw [shardAck_eq ptn flight streaming, cut, none_, if_pos (by rfl)]
  exact ckptEnd_ends (by rw [ckptRuns, show (s.setCkp (s.ackedCkp p x i)).ckp.state = .streaming from streaming]; rfl) false

theorem streamNext_done (sent : (s.ckp.shards.all (·.sent)) = true) : s.streamNext conn = s := by
  unfold streamNext
  split
  · rfl
  · extract_lets n open_
    split
    · rfl
    · have none_ : open_.find? (fun x => !x.1.sent) = none := by
        rw [List.find?_eq_none]
        intro x mem
        have there : x.1 ∈ s.ckp.shards := by
          have := List.mk_mem_zipIdx_iff_getElem?.mp (show (x.1, x.2) ∈ s.ckp.shards.zipIdx from (List.mem_filter.mp mem).1)
          exact List.mem_of_getElem? this
        simpa using List.all_eq_true.mp sent x.1 there
      rw [none_]

/-- A shard is acknowledged while a session runs and every shard has gone out. -/
theorem shardAck_goes (ptn : s.ckpPtn = some p) (flight : s.inFlight conn = some (x, i)) (streaming : s.ckp.state = .streaming)
    (sent : (s.ckp.shards.all (·.sent)) = true) (whole : s.ckp.cut = false) :
    s.shardAck conn = (s.setCkp (s.ackedCkp p x i)).sendManifest := by
  obtain ⟨-, own⟩ := inFlight_spec flight
  have all : ((s.setCkp (s.ackedCkp p x i)).ckp.shards.all (·.sent)) = true := by
    refine (all_set (P := fun y : Shard => y.sent) (y := { x with acked := true }) own).trans ?_
    refine List.all_eq_true.mpr fun z mem => ?_
    have there := List.mem_of_getElem? (List.mk_mem_zipIdx_iff_getElem?.mp (show (z.1, z.2) ∈ s.ckp.shards.zipIdx from mem))
    simp [List.all_eq_true.mp sent z.1 there]
  rw [shardAck_eq ptn flight streaming, whole, Bool.false_and, if_neg Bool.false_ne_true, streamNext_done all]

theorem shardNak_again (flight : s.inFlight conn = some (x, i)) (streaming : s.ckp.state = .streaming) (few : x.refusals < 2) :
    s.shardNak conn = (s.setCkp { s.ckp with shards := s.ckp.shards.set i { x with refusals := x.refusals + 1 } }).sendNet (.shard conn i) := by
  rw [shardNak, flight]
  dsimp only
  rw [if_neg (not_not.mpr streaming), if_neg (by omega)]

theorem shardNak_fails (flight : s.inFlight conn = some (x, i)) (streaming : s.ckp.state = .streaming) (many : 2 ≤ x.refusals) :
    Ended s (s.shardNak conn) true := by
  rw [shardNak, flight]
  dsimp only
  rw [if_neg (not_not.mpr streaming), if_pos many]
  exact ckptEnd_ends (by rw [ckptRuns, streaming]; rfl) true

theorem inFlight_unacked (flight : s.inFlight conn = some (x, i)) : i < s.ckp.shards.length ∧ x.acked = false := by
  have found := List.find?_some flight
  obtain ⟨at_, -⟩ := List.getElem?_eq_some_iff.mp (List.mk_mem_zipIdx_iff_getElem?.mp (List.mem_of_find?_eq_some flight))
  simp only [Bool.and_eq_true, Bool.not_eq_true'] at found
  exact ⟨at_, found.2⟩

end

/-! ### The manifest -/

theorem ofLe_leBytes (n v : Nat) : ofLe (leBytes n v) = v % 256 ^ n := by
  induction n generalizing v with
  | zero => rw [Nat.pow_zero, Nat.mod_one]; rfl
  | succ n ih =>
    rw [leBytes, ofLe, ih, BitVec.toNat_ofNat, Nat.pow_succ' (m := 256) (n := n), Nat.mod_mul (a := 256) (b := 256 ^ n) (x := v)]

/-- A field of a message, behind what stands before it. -/
theorem le_append (l r : List Byte) (n v : Nat) : le (l ++ (leBytes n v ++ r)) l.length n = v % 256 ^ n := by
  have taken : ((l ++ (leBytes n v ++ r)).drop l.length).take n = leBytes n v := by
    rw [List.drop_left, List.take_append_of_le_length (by rw [leBytes_length]), List.take_of_length_le (by rw [leBytes_length])]
  rw [le, slice, taken, leBytes_length, Nat.sub_self, zeros, List.replicate_zero, List.append_nil, ofLe_leBytes]

theorem manifestBody_fields (s : State) (r : List Byte) :
    le (s.manifestBody ++ r) 4 4 = s.ckp.ident % 2 ^ 32 ∧ le (s.manifestBody ++ r) 8 4 = s.ckp.step.toNat ∧
      le (s.manifestBody ++ r) 0xC 4 = s.ckp.shards.length % 2 ^ 32 := by
  have one := le_append (leBytes 4 1)
  have two := le_append (leBytes 4 1 ++ leBytes 4 s.ckp.ident)
  have three := le_append (leBytes 4 1 ++ leBytes 4 s.ckp.ident ++ leBytes 4 s.ckp.step.toNat)
  simp only [List.append_assoc, List.length_append, leBytes_length] at one two three
  simp only [manifestBody, List.append_assoc]
  exact ⟨one .., (two ..).trans (Nat.mod_eq_of_lt s.ckp.step.isLt), three ..⟩

/-- The manifest goes out once every shard is acknowledged. -/
theorem sendManifest_goes (streaming : s.ckp.state = .streaming) (all : (s.ckp.shards.all fun x => x.acked) = true)
    (session : s.ckpSession = true) (whole : s.ckp.cut = false) :
    ∃ sig f, s.sendManifest = (({ s with free := f } : State).setCkp { s.ckp with state := .sealing, manifestSent := true }).sendNet
      (.manifest (s.manifestBody ++ sig)) :=
  ⟨_, _, if_pos ⟨streaming, all, session, whole⟩⟩

theorem sendManifest_waits (some_ : (s.ckp.shards.all fun x => x.acked) = false) : s.sendManifest = s :=
  if_neg (by simp [some_])

/-- An acknowledged manifest opens every frame of the partition. -/
def sealed (s : State) (p : Nat) (c : Ckp) : State := (s.setCkp { c with copyMap := [], reserve := [] }).clearWp p

theorem sealed_spec (s : State) (p : Nat) (c : Ckp) :
    (∃ held copying, (s.sealed p c).ckp = { c with copyMap := [], reserve := [], held := held, copying := copying }) ∧
      (∀ f, s.frameOf p f = true → bitAt ((s.sealed p c).attr f) 2 = false) ∧ (s.sealed p c).net = s.net ∧
      (s.sealed p c).pending = s.pending ∧ (s.sealed p c).variant = s.variant := by
  have opens (f : Nat) (mine : s.frameOf p f = true) : bitAt ((s.sealed p c).attr f) 2 = false := clearWp_opens mine
  obtain ⟨as, m, ls, held, copying, cleared⟩ := clearWp_eq (s.setCkp { c with copyMap := [], reserve := [] }) p
  refine ⟨⟨held, copying, ?_⟩, opens, ?_, ?_, ?_⟩ <;> rw [sealed, cleared] <;> rfl

/-- The registers of a checkpoint that the partner holds over an equal feed. -/
def correlatedCkp (s : State) : Ckp := { s.ckp with state := .correlated }

theorem manifestAck_correlated (ptn : s.ckpPtn = some p) (sealing : s.ckp.state = .sealing) (sent : s.ckp.manifestSent = true)
    (whole : s.ckp.cut = false) (equal : s.ckp.mirror = .correlated) :
    Records (s.sealed p s.correlatedCkp) s.manifestAck := by
  have same : (s.setCkp s.correlatedCkp).ckpPtn = some p := ptn
  rw [manifestAck, if_neg (by simp [sealing, sent, whole])]
  dsimp only
  rw [if_pos equal, show ({ s.ckp with state := .correlated } : Ckp) = s.correlatedCkp from rfl, same]
  exact .ckptRecord _

/-- The registers of a checkpoint that is durable. -/
def durableCkp (s : State) : Ckp :=
  { s.ckp with
    state := .durable, forced := false, durableId := s.ckp.ident, durableStep := s.ckp.step, durableLsn := s.ckp.ckptLsn }

theorem manifestAck_durable (ptn : s.ckpPtn = some p) (sealing : s.ckp.state = .sealing) (sent : s.ckp.manifestSent = true)
    (whole : s.ckp.cut = false) (unequal : s.ckp.mirror ≠ .correlated) :
    ∃ u, Records (s.sealed p s.durableCkp) u ∧ bitAt (u.ev evCkp).value 0 = true ∧ s.manifestAck = u.reportDurable := by
  have same : (s.setCkp s.durableCkp).ckpPtn = some p := ptn
  refine ⟨(((s.sealed p s.durableCkp).logRelease false).ckptRecord).raiseEv evCkp 0,
    ((Records.logRelease ..).trans (.ckptRecord _)).trans (.raiseEv ..), raiseEv_sets .., ?_⟩
  rw [manifestAck, if_neg (by simp [sealing, sent, whole])]
  dsimp only
  rw [if_neg unequal, show ({ s.ckp with
    state := .durable, forced := false, durableId := s.ckp.ident, durableStep := s.ckp.step, durableLsn := s.ckp.ckptLsn } : Ckp) = s.durableCkp
    from rfl, same]
  rfl

theorem reportDurable_spec (s : State) : Records s s.reportDurable ∧ (s.net.state ≠ .solo → s.net.self ≠ s.net.master →
    NetMsg.durable s.net.groupId s.net.master s.net.term s.ckp.durableStep ∈ s.reportDurable.netOut) := by
  unfold reportDurable
  split
  · next quiet =>
    refine ⟨.refl s, fun group member => ?_⟩
    simp [group, member] at quiet
  · exact ⟨.sendNet .., fun _ _ => List.mem_append_right _ (List.mem_singleton.mpr rfl)⟩

/-! ### Lost and closed sessions -/

theorem startMirror_none (none_ : s.ckp.candidates = []) :
    s.startMirror = s.setCkp { s.ckp with retry := true, mirror := .none, session := 0 } := by
  rw [startMirror, tryCandidate, show (s.setCkp { s.ckp with retry := true }).ckp.candidates = [] from none_]
  rfl

theorem sessionLost_spec (session : s.ckpSession = true) (none_ : s.ckp.candidates = []) :
    bitAt (s.sessionLost.ev evCkp).value 4 = true ∧ s.sessionLost.ckp.session = 0 ∧ s.sessionLost.ckp.mirror = .none ∧
      s.sessionLost.ckp.retry = true ∧ s.sessionLost.ckp.flushed = s.sessionLost.ckp.lsn ∧
      (s.ckptRuns = true → s.sessionLost.ckp.state = .abandoned) ∧ s.sessionLost.pending = s.pending ∧ s.sessionLost.variant = s.variant := by
  let u := (s.setCkp { s.ckp with mirror := .lost, session := 0 }).raiseEv evCkp 4
  have told : bitAt (u.ev evCkp).value 4 = true := raiseEv_sets ..
  have ckp : u.ckp = { s.ckp with mirror := .lost, session := 0 } := by
    unfold u
    rw [raiseEv_eq]
    rfl
  have still : u.pending = s.pending ∧ u.variant = s.variant := by
    unfold u
    rw [raiseEv_eq]
    exact ⟨rfl, rfl⟩
  have lost : s.sessionLost = ((u.ckptEnd false).setCkp { (u.ckptEnd false).ckp with flushed := (u.ckptEnd false).ckp.lsn }).startMirror := by
    rw [sessionLost, if_pos session]
  have runs : u.ckptRuns = s.ckptRuns := by
    unfold ckptRuns
    rw [ckp]
  have ended : KeepsNet u (u.ckptEnd false) ∧ (u.ckptEnd false).ckp.candidates = [] ∧
      (s.ckptRuns = true → (u.ckptEnd false).ckp.state = .abandoned) := by
    cases h : s.ckptRuns with
    | true =>
      have ends := ckptEnd_ends (runs.trans h) false
      obtain ⟨held, fl, n, full, writes, copying, c⟩ := ends.ckp
      rw [c, ckp]
      exact ⟨ends.keeps, none_, fun _ => rfl⟩
    | false =>
      have same : u.ckptEnd false = u := if_neg (by simp [runs, h])
      rw [same, ckp]
      exact ⟨.refl u, none_, fun h => absurd h (by simp)⟩
  obtain ⟨keeps, empty, over_⟩ := ended
  have eq : s.sessionLost = (u.ckptEnd false).setCkp { (u.ckptEnd false).ckp with
      flushed := (u.ckptEnd false).ckp.lsn, retry := true, mirror := .none, session := 0 } := by
    rw [lost]
    generalize u.ckptEnd false = w at empty ⊢
    exact startMirror_none (s := w.setCkp { w.ckp with flushed := w.ckp.lsn }) empty
  rw [eq]
  exact ⟨keeps.bits _ _ told, rfl, rfl, rfl, rfl, over_, keeps.still.1.trans still.1, keeps.still.2.trans still.2⟩

theorem flushLate_spec (late : s.ckp.flushed.toNat < s.ckp.lsn.toNat) (session : s.ckpSession = true) (none_ : s.ckp.candidates = []) :
    bitAt (s.flushLate.ev evCkp).value 4 = true ∧ s.flushLate.ckp.session = 0 ∧ s.flushLate.ckp.mirror = .none ∧
      s.flushLate.ckp.retry = true ∧ s.flushLate.ckp.flushed = s.flushLate.ckp.lsn ∧
      (s.ckptRuns = true → s.flushLate.ckp.state = .abandoned) ∧ s.flushLate.pending = s.pending ∧ s.flushLate.variant = s.variant := by
  rw [flushLate, if_pos late]
  exact sessionLost_spec session none_

theorem closeSession_spec (session : s.ckpSession = true) :
    NetMsg.sessionClose ∈ s.closeSession.netOut ∧ s.closeSession.ckp.mirror = .none ∧ s.closeSession.ckp.retry = false ∧
      s.closeSession.ckp.session = 0 ∧
      (s.ckptRuns = true → s.closeSession.ckp.state = .abandoned ∧ ∀ c, s.closeSession.ctx c = { s.ctx c with captureDue := false }) ∧
      (s.ckptRuns = false → s.closeSession.contexts = s.contexts) ∧
      s.closeSession.pending = s.pending ∧ s.closeSession.variant = s.variant := by
  let u := s.sendNet .sessionClose
  have said : NetMsg.sessionClose ∈ u.netOut := List.mem_append_right _ (List.mem_singleton.mpr rfl)
  rw [closeSession, if_pos session]
  cases runs : s.ckptRuns with
  | true =>
    have ends : Ended u (u.ckptEnd false) false := ckptEnd_ends (s := u) runs false
    obtain ⟨held, fl, n, full, writes, copying, c⟩ := ends.ckp
    exact ⟨ends.keeps.sent _ said, rfl, rfl, rfl, fun _ => ⟨congrArg Ckp.state c, ends.ctx⟩, fun h => absurd h (by simp),
      ends.keeps.still.1, ends.keeps.still.2⟩
  | false =>
    have same : u.ckptEnd false = u := if_neg (by rw [show u.ckptRuns = false from runs]; exact Bool.false_ne_true)
    rw [show (s.sendNet .sessionClose).ckptEnd false = u from same]
    exact ⟨said, rfl, rfl, rfl, fun h => absurd h (by simp), fun _ => rfl, rfl, rfl⟩

end State

/-- Settles O59: log records change only the log's registers, and the end of a checkpoint opens its frames and ends its captures. -/
theorem checkpointsReachDurability : Obligations.CheckpointsReachDurability := by
  intro s live
  refine ⟨fun there => ?_, fun p ptn due capturing some_ copied all noSession idle => ?_, fun p ptn due waits => ?_,
    fun p conn x i ptn flight streaming => ⟨fun cut last => ?_, fun sent session whole => ?_, fun few => ?_, fun many => ?_⟩,
    fun p ptn sealing sent whole => ⟨fun unequal => ?_, fun equal => ?_⟩, fun lsn => ⟨fun session from_ below => ?_, fun other => ?_⟩,
    fun late session none_ => ?_, fun early => ?_, fun runs => ?_, fun idle => ?_, fun session => ?_⟩
  · exact ⟨_, act_eq_next (f := (State.ckptRequest ·)) live (if_pos (Option.isSome_iff_ne_none.mpr there)), rfl⟩
  · obtain ⟨⟨implicit, shards, held, fl, n, full, four, listed, ckp⟩, quiet, protects, p', v'⟩ :=
      State.capture_spec ptn due capturing some_ copied all noSession idle
    refine ⟨_, act_eq_next (f := (State.capture ·)) live rfl p' v', ?_⟩
    rw [ckp]
    refine ⟨rfl, rfl, rfl, rfl, rfl, rfl, rfl, four, rfl, quiet, fun r n f mem low frame => protects r mem f ?_, fun r mem pages => ?_⟩
    · exact List.mem_filterMap.mpr ⟨n, List.mem_range.mpr low, frame⟩
    · obtain ⟨x, here, first⟩ := List.any_eq_true.mp (State.cutShards_first (region := r.ident) (first := r.first) pages)
      exact List.any_eq_true.mpr ⟨x, listed r mem x here, first⟩
  · have same : s.capture = s := by
      rw [State.capture, ptn]
      exact if_pos (.inr (.inr (.inr (.inl waits))))
    exact ⟨s, act_eq_next (f := (State.capture ·)) live same, rfl⟩
  · have ended := State.shardAck_cut ptn flight streaming cut last
    obtain ⟨held, fl, n, full, writes, copying, c⟩ := ended.ckp
    exact ⟨_, act_eq_next (f := (State.shardAck · conn)) live rfl ended.keeps.still.1 ended.keeps.still.2, congrArg Ckp.state c, ended.told⟩
  · have goes := State.shardAck_goes ptn flight streaming sent whole
    obtain ⟨inside, -⟩ := State.inFlight_spec flight
    have own : ((s.ackedCkp p x i).shards[i]?).any (fun y => y.acked) = true := by
      simp [State.ackedCkp, inside]
    have acked : ((s.setCkp (s.ackedCkp p x i)).ckp.shards.all fun y => y.acked) =
        (s.ckp.shards.zipIdx.all fun y => y.2 == i || y.1.acked) := State.all_set (P := fun y : Shard => y.acked) rfl
    cases others : (s.ckp.shards.zipIdx.all fun y => y.2 == i || y.1.acked) with
    | false =>
      have eq := goes.trans (State.sendManifest_waits (acked.trans others))
      exact ⟨_, act_eq_next (f := (State.shardAck · conn)) live eq, own, rfl, fun _ => rfl, fun h => absurd h (by simp)⟩
    | true =>
      obtain ⟨sig, f, sealed⟩ := State.sendManifest_goes (s := s.setCkp (s.ackedCkp p x i)) streaming (acked.trans others) session whole
      obtain ⟨ident, step, count⟩ := State.manifestBody_fields (s.setCkp (s.ackedCkp p x i)) sig
      refine ⟨_, act_eq_next (f := (State.shardAck · conn)) live (goes.trans sealed), own, rfl, fun h => absurd h (by simp),
        fun _ => ⟨rfl, rfl, ?_⟩⟩
      have count' : (s.setCkp (s.ackedCkp p x i)).ckp.shards.length = s.ckp.shards.length := List.length_set
      rw [count'] at count
      show (List.getLast? (s.netOut ++ [NetMsg.manifest ((s.setCkp (s.ackedCkp p x i)).manifestBody ++ sig)])).any _ = true
      rw [List.getLast?_append, List.getLast?_singleton, Option.some_or, Option.any_some]
      simp only [ident, step, count, Bool.and_eq_true, beq_iff_eq]
      exact ⟨⟨rfl, rfl⟩, trivial⟩
  · obtain ⟨inside, unacked⟩ := State.inFlight_unacked flight
    refine ⟨_, act_eq_next (f := (State.shardNak · conn)) live (State.shardNak_again flight streaming few), rfl, ?_, rfl⟩
    simp [State.sendNet, State.setCkp, inside, unacked]
  · have ended := State.shardNak_fails flight streaming many
    obtain ⟨held, fl, n, full, writes, copying, c⟩ := ended.ckp
    exact ⟨_, act_eq_next (f := (State.shardNak · conn)) live rfl ended.keeps.still.1 ended.keeps.still.2, congrArg Ckp.state c, ended.told,
      congrArg Ckp.copyMap c, congrArg Ckp.reserve c⟩
  · obtain ⟨u, records, told, eq⟩ := State.manifestAck_durable ptn sealing sent whole unequal
    obtain ⟨⟨held, copying, ckp⟩, opens, net, p', v'⟩ := State.sealed_spec s p s.durableCkp
    obtain ⟨reported, said⟩ := u.reportDurable_spec
    have all := records.trans reported
    obtain ⟨h1, f1, n1, full1, c1⟩ := all.ckp
    obtain ⟨h2, f2, n2, full2, c2⟩ := records.ckp
    rw [ckp] at c1 c2
    rw [← eq] at all c1 reported said
    refine ⟨_, act_eq_next (f := (State.manifestAck ·)) live rfl (all.keeps.still.1.trans p') (all.keeps.still.2.trans v'), congrArg Ckp.state c1,
      congrArg Ckp.durableId c1, congrArg Ckp.durableStep c1, congrArg Ckp.durableLsn c1, reported.keeps.bits _ _ told, congrArg Ckp.copyMap c1,
      fun f mine => ?_, fun group member => ?_⟩
    · rw [State.attr, all.attrs]
      exact opens f mine
    · have netU : u.net = s.net := records.keeps.net.trans net
      rw [netU, c2] at said
      exact said group member
  · have records := State.manifestAck_correlated ptn sealing sent whole equal
    obtain ⟨⟨held, copying, ckp⟩, opens, net, p', v'⟩ := State.sealed_spec s p s.correlatedCkp
    obtain ⟨h1, f1, n1, full1, c1⟩ := records.ckp
    rw [ckp] at c1
    refine ⟨_, act_eq_next (f := (State.manifestAck ·)) live rfl (records.keeps.still.1.trans p') (records.keeps.still.2.trans v'),
      (congrArg Ckp.state c1 :), (congrArg Ckp.durableId c1 :), (congrArg Ckp.durableLsn c1 :), fun f mine => ?_⟩
    rw [State.attr, records.attrs]
    exact opens f mine
  · exact ⟨_, act_eq_next (f := (State.flushAck · lsn)) live (if_pos ⟨session, from_, below⟩), rfl⟩
  · exact ⟨s, act_eq_next (f := (State.flushAck · lsn)) live (if_neg fun ⟨_, from_, below⟩ => by omega), rfl⟩
  · obtain ⟨told, session', mirror, retry, flushed, over_, p', v'⟩ := State.flushLate_spec late session none_
    exact ⟨_, act_eq_next (f := (State.flushLate ·)) live rfl p' v', told, session', mirror, retry, flushed, over_⟩
  · exact ⟨s, act_eq_next (f := (State.flushLate ·)) live (if_neg (by omega)), rfl⟩
  · have ended := State.ckptEnd_ends runs false
    obtain ⟨held, fl, n, full, writes, copying, c⟩ := ended.ckp
    exact ⟨_, act_eq_next (f := (State.ckptLimit ·)) live rfl ended.keeps.still.1 ended.keeps.still.2, congrArg Ckp.state c, ended.told,
      congrArg Ckp.copyMap c, congrArg Ckp.captureHeld c, ended.ctx, ended.opens⟩
  · exact ⟨s, act_eq_next (f := (State.ckptLimit ·)) live (if_neg (by simp [idle])), rfl⟩
  · obtain ⟨said, mirror, retry, session', over_, same, p', v'⟩ := State.closeSession_spec session
    exact ⟨_, act_eq_next (f := (State.closeSession ·)) live rfl p' v', said, mirror, retry, session', over_, same⟩

end Sys2Proof.Machine
end

section
/-! SUPPORT. Doorbells, dispatch and the codes that end commands (R151, R153 to R159). -/

set_option Elab.async false

namespace Sys2Proof.Machine

namespace State

variable {s : State} {c q : Nat} {idx : Word} {st : Status} {y : Cmd}

/-- A queue that differs from a fresh one is one of its context's. -/
theorem queue_lt (h : s.queue c q ≠ Queue.reset) : q < (s.ctx c).queues.length := by
  by_contra out
  exact h (List.getD_eq_default _ _ (Nat.le_of_not_lt out))

theorem queue_lt_of_state (h : (s.queue c q).state ≠ .idle) : q < (s.ctx c).queues.length :=
  queue_lt fun e => h (by rw [e]; rfl)

theorem queue_lt_of_ring (h : (s.queue c q).ringLog2 ≠ 0) : q < (s.ctx c).queues.length :=
  queue_lt fun e => h (by rw [e]; rfl)

theorem queue_congr {t : State} (h : t.contexts = s.contexts) (c q : Nat) : t.queue c q = s.queue c q := by
  simp only [queue, ctx, h]

/-- The other queues of a context stay when one is set. -/
theorem queue_setQueue_other {p : Nat} {x : Queue} (h : p ≠ q) : (s.setQueue c q x).queue c p = s.queue c p :=
  queue_setQueue_ne fun e => h (Prod.mk.inj e).2

theorem setQueue_ctx_ne {d : Nat} {x : Queue} (h : d ≠ c) : (s.setQueue c q x).ctx d = s.ctx d := setCtx_ctx_ne _ _ h

theorem setQueue_state {x : Queue} : ((s.setQueue c q x).ctx c).state = (s.ctx c).state := by
  unfold setQueue
  rw [setCtx_ctx]

theorem setQueue_bound {x : Queue} : ((s.setQueue c q x).ctx c).queues.length = (s.ctx c).queues.length := by
  unfold setQueue
  rw [setCtx_ctx]
  exact List.length_set

theorem setQueue_eq (s : State) (c q : Nat) (x : Queue) : s.setQueue c q x = { s with contexts := (s.setQueue c q x).contexts } := rfl

/-! ### Doorbells (R151) -/

/-- What a doorbell that is taken makes of its queue. -/
def rung (x : Queue) (tail : Word) : Queue :=
  { x with tail := tail, state := if x.state = .idle ∧ tail ≠ x.done then .active else x.state }

theorem ringDoorbell_taken {n v : Nat} (used : (s.ctx (n / 4)).state ≠ .free) (here : (s.ctx (n / 4)).state ≠ .teardown)
    (gen : fld v 43 32 = s.ctxHandles.gen (n / 4)) (ring : (s.queue (n / 4) (n % 4)).ringLog2 ≠ 0)
    (ahead : 0 ≤ (BitVec.ofNat 32 v - (s.queue (n / 4) (n % 4)).tail).toInt)
    (fits : (BitVec.ofNat 32 v - (s.queue (n / 4) (n % 4)).done).toNat ≤ 2 ^ (s.queue (n / 4) (n % 4)).ringLog2) :
    s.ringDoorbell n v = s.setQueue (n / 4) (n % 4) (rung (s.queue (n / 4) (n % 4)) (BitVec.ofNat 32 v)) := by
  unfold ringDoorbell
  extract_lets c q tail k x
  rw [if_neg, if_neg here]
  · rfl
  · rintro (h | h | h | h | h)
    · exact used h
    · exact h gen
    · exact ring h
    · exact absurd ahead (Int.not_le.mpr h)
    · exact absurd fits (Nat.not_le.mpr h)

/-! ### RESTART and ABORT (R154) -/

/-- Dropping commands leaves the queues as they are. -/
theorem foldl_dropped (l : List Cmd) (c q : Nat) (s : State) : ∃ as ds,
    l.foldl (fun s y => (s.unbind c q y.index).freeEngine c q y.index) s = { s with arrays := as, dmas := ds } := by
  induction l generalizing s with
  | nil => exact ⟨s.arrays, s.dmas, rfl⟩
  | cons y r ih =>
    obtain ⟨as, ds, h⟩ := ih ((s.unbind c q y.index).freeEngine c q y.index)
    exact ⟨as, ds, h⟩

theorem dropCmds_spec (s : State) (c q : Nat) (gone : Cmd → Bool) : ∃ as ds p,
    s.dropCmds c q gone = { s.setQueue c q { s.queue c q with cmds := (s.queue c q).cmds.filter fun y => !gone y } with
      arrays := as, dmas := ds, plk := p } := by
  unfold dropCmds
  obtain ⟨as, ds, h⟩ := foldl_dropped ((s.queue c q).cmds.filter gone) c q s
  rw [h]
  exact ⟨as, ds, _, rfl⟩

/-- What RESTART makes of a queue that kept its earlier commands. -/
def restarted (x : Queue) (i : Word) : Queue :=
  { x with head := i, done := i, chain := [], state := if i = x.tail ∧ x.cmds = [] then .idle else .active }

theorem restarted_not_halted (x : Queue) (i : Word) : (restarted x i).state ≠ .halted := by
  unfold restarted
  dsimp only
  split <;> nofun

theorem kept_before (l : List Cmd) (i : Word) :
    ((l.filter fun y => !(y.final || decide ((y.index - i).toInt ≥ 0))).all fun y =>
      !y.final && decide ((y.index - i).toInt < 0)) = true := by
  refine List.all_eq_true.mpr fun y kept => ?_
  have stays := (List.mem_filter.mp kept).2
  rw [Bool.not_or, Bool.and_eq_true, Bool.not_eq_true', Bool.not_eq_true', decide_eq_false_iff_not, not_le] at stays
  rw [stays.1, decide_eq_true stays.2]
  rfl

/-- RESTART drops the commands from its index on and begins there. -/
theorem restartQueue_spec {i : Word} (sel : s.selQueue = some (c, q)) (halted : (s.queue c q).state = .halted)
    (range : (i - (s.queue c q).haltedAt).toNat ≤ ((s.queue c q).tail - (s.queue c q).haltedAt).toNat) :
    (s.restartQueue i).queue c q = restarted { s.queue c q with
      cmds := (s.queue c q).cmds.filter fun y => !(y.final || decide ((y.index - i).toInt ≥ 0)) } i ∧
    (∀ p, p ≠ q → (s.restartQueue i).queue c p = s.queue c p) ∧ ∃ cs as ds p,
      s.restartQueue i = { s with contexts := cs, arrays := as, dmas := ds, plk := p } := by
  have bound := queue_lt_of_state (s := s) (c := c) (q := q) (by rw [halted]; nofun)
  obtain ⟨as, ds, p, dropped⟩ := s.dropCmds_spec c q fun y => y.final || decide ((y.index - i).toInt ≥ 0)
  unfold restartQueue
  rw [sel]
  dsimp only
  rw [if_pos ⟨halted, range⟩, dropped]
  generalize ({ s.queue c q with
    cmds := (s.queue c q).cmds.filter fun y => !(y.final || decide ((y.index - i).toInt ≥ 0)) } : Queue) = x
  have inner : ({ s.setQueue c q x with arrays := as, dmas := ds, plk := p } : State).queue c q = x := queue_setQueue bound
  rw [inner]
  refine ⟨queue_setQueue ?_, fun r other => ?_, _, as, ds, p, rfl⟩
  · exact bound.trans_eq setQueue_bound.symm
  · exact (queue_setQueue_other other).trans (queue_setQueue_other (s := s) other)

/-- What ABORT makes of a queue. -/
def aborted (x : Queue) : Queue :=
  { x with
    head := x.tail, done := x.tail, state := .idle, stepGate := false,
    cmds := x.cmds.map fun y => if (cmdOpcode y.word = 11 ∨ cmdOpcode y.word = 12) ∧ y.result.isNone = true then
      { y with result := some .ok } else y }

theorem abortQueue_eq (sel : s.selQueue = some (c, q)) : s.abortQueue = s.setQueue c q (aborted (s.queue c q)) := by
  unfold abortQueue
  rw [sel]
  rfl

theorem aborted_indexes (x : Queue) : (aborted x).cmds.map (·.index) = x.cmds.map (·.index) := by
  unfold aborted
  rw [List.map_map]
  refine List.map_congr_left fun y _ => ?_
  dsimp only [Function.comp_apply]
  split <;> rfl

/-! ### Dispatch (R153) -/

theorem queueReady_of (run : (s.ctx c).state = .running) (active : (s.queue c q).state = .active)
    (ring : (s.queue c q).ringLog2 ≠ 0) (work : (s.queue c q).head ≠ (s.queue c q).tail) (room : outstanding (s.queue c q) < 64)
    (free : blocking (s.queue c q) = false) (fabric : s.isOpen (fabricDomain (s.queueDie c q)) = true)
    (held : s.pwr.dispatchHeld = false) (up : s.pwr.onHoldup = false) : s.queueReady c q = true := by
  simp [queueReady, run, active, ring, work, room, free, fabric, held, up]

theorem dispatch_takes (ready : s.queueReady c q = true) (room : s.cringRoom c q (outstanding (s.queue c q)) = true)
    (reads : s.readable (s.ringAt c q (s.queue c q).head) 16 = true) (clear : s.clear c q (s.queue c q).cmds (s.headAt c q) = true) :
    s.dispatch c q = s.takeCommand c q (s.headAt c q).w (s.headAt c q) := by
  have free : s.headClear c q = true := by simp [headClear, clear]
  simp [dispatch, ready, room, reads, free]

theorem dispatch_full (ready : s.queueReady c q = true) (room : s.cringRoom c q (outstanding (s.queue c q)) = false) :
    s.dispatch c q = s.raiseCtx evQ 1 c q := by
  simp [dispatch, ready, room]

/-- The command that dispatch makes of a word. -/
def taken (x : Queue) (w : Nat) (a : At) : Cmd := { cmdNew x.head (BitVec.ofNat 128 w) x.window with descs := a.tab }

/-- The queue after it has taken a command. -/
def withTaken (x : Queue) (y : Cmd) : Queue := { x with head := x.head + 1, cmds := x.cmds ++ [y] }

theorem takeCommand_ready {w : Nat} {a : At} (pass : (s.queue c q).passing = false) (ok : s.dispatchStatus a = none) :
    s.takeCommand c q w a = (s.setQueue c q (withTaken (s.queue c q) (taken (s.queue c q) w a))).wake (s.spans a) := by
  unfold takeCommand
  extract_lets x src y y1 s0 s1
  have new : y1 = taken (s.queue c q) w a := by
    unfold y1
    rw [if_neg (by simp [x, pass]), ok]
    rfl
  unfold s1 s0
  rw [new]
  rfl

/-- A command that waits for the fence of a domain. -/
def waitingFor (y : Cmd) (d : Nat) : Cmd := { y with result := some .retryLater, waitDom := some d }

theorem takeCommand_fenced {w d : Nat} {a : At} (pass : (s.queue c q).passing = false)
    (wait : s.dispatchStatus a = some (.retryLater, some d)) :
    s.takeCommand c q w a = s.setQueue c q (withTaken (s.queue c q) (waitingFor (taken (s.queue c q) w a) d)) := by
  unfold takeCommand
  extract_lets x src y y1 s0 s1
  have new : y1 = waitingFor (taken (s.queue c q) w a) d := by
    unfold y1
    rw [if_neg (by simp [x, pass]), wait]
    rfl
  unfold s1 s0
  rw [new]
  rfl

/-! ### The codes that end commands (R156, R157, R159) -/

/-- What a final code does before its own effect: the record is written, the command is final, the gate has its flags. -/
structure Concludes (s t : State) (c : Nat) : Prop where
  frame : ∃ cs m ls es p o, t = { s with contexts := cs, mem := m, lines := ls, events := es, plk := p, out := o }
  bound : ∀ q, q < (s.ctx c).queues.length → q < (t.ctx c).queues.length
  state : (t.ctx c).state = (s.ctx c).state

theorem Concludes.refl (s : State) (c : Nat) : Concludes s s c :=
  ⟨⟨s.contexts, s.mem, s.lines, s.events, s.plk, s.out, rfl⟩, fun _ h => h, rfl⟩

theorem Concludes.trans {t u : State} (h : Concludes s t c) (g : Concludes t u c) : Concludes s u c := by
  refine ⟨?_, fun q here => g.bound q (h.bound q here), g.state.trans h.state⟩
  obtain ⟨cs, m, ls, es, p, o, h'⟩ := h.frame
  obtain ⟨cs', m', ls', es', p', o', g'⟩ := g.frame
  rw [h'] at g'
  exact ⟨cs', m', ls', es', p', o', g'⟩

theorem concludes_setQueue (s : State) (c q : Nat) (x : Queue) : Concludes s (s.setQueue c q x) c :=
  ⟨⟨_, s.mem, s.lines, s.events, s.plk, s.out, rfl⟩, fun _ h => h.trans_eq setQueue_bound.symm, setQueue_state⟩

theorem concludes_raiseCtx (s : State) (e b c q : Nat) : Concludes s (s.raiseCtx e b c q) c := by
  rw [raiseCtx_eq]
  exact ⟨⟨s.contexts, s.mem, s.lines, _, _, _, rfl⟩, fun _ h => h, rfl⟩

theorem concludes_post (s : State) (a c : Nat) (l : List Byte) : Concludes s (s.post a l) c := by
  obtain ⟨m, ls, p, o, h⟩ := wrote_post s a l
  rw [h]
  exact ⟨⟨s.contexts, m, ls, s.events, p, o, rfl⟩, fun _ h => h, rfl⟩

theorem concludes_putRecord (s : State) (c q : Nat) (l : List Byte) : Concludes s (s.putRecord c q l) c := by
  unfold putRecord
  extract_lets x s1
  split
  · exact .refl s c
  · exact (concludes_post ..).trans (concludes_setQueue ..)

/-- The state before the effect of a final code. -/
def concluded (s : State) (c q : Nat) (idx : Word) (y : Cmd) (st : Status) : State :=
  let s1 := if needsRecord st y.word && !y.recorded then s.putRecord c q (completionRecord st y q (s.queueTime c q)) else s
  let s2 := s1.modCmd c q idx fun z => { z with final := true }
  let op := cmdOpcode y.word
  let bad := b2n (st == .nonfiniteStep || ((op == 1 || op == 2) && y.tflags % 2 == 1)) ||| 2 * b2n (st == .accOverflow)
  let x := s2.queue c q
  let s3 := if y.recorded then s2 else s2.setQueue c q { x with
    gateBad := x.gateBad ||| bad,
    gateMax := if cmdGrad y.word && x.gateMax < y.maxExp then y.maxExp else x.gateMax }
  if cmdIrq y.word && !y.recorded then s3.raiseCtx evQ 4 c q else s3

theorem concludes_concluded (s : State) (c q : Nat) (idx : Word) (y : Cmd) (st : Status) :
    Concludes s (s.concluded c q idx y st) c := by
  unfold concluded
  extract_lets s1 s2 op bad x s3
  have h1 : Concludes s s1 c := by
    unfold s1
    split
    · exact concludes_putRecord ..
    · exact .refl s c
  have h2 : Concludes s s2 c := h1.trans (concludes_setQueue ..)
  have h3 : Concludes s s3 c := by
    unfold s3
    split
    · exact h2
    · exact h2.trans (concludes_setQueue ..)
  split
  · exact h3.trans (concludes_raiseCtx ..)
  · exact h3

theorem finalCode_halts (here : s.cmd c q idx = some y)
    (code : st ∉ [Status.ok, .accOverflow, .nonfiniteStep, .contextFault, .retryLater, .domainReset]) :
    s.finalCode c q idx st = ((s.concluded c q idx y st).halt c q idx st).advance c q := by
  unfold finalCode
  rw [here]
  dsimp only
  split
  · exact absurd code (by decide)
  · exact absurd code (by decide)
  · exact absurd code (by decide)
  · exact absurd code (by decide)
  · rfl

/-- A command that has its end gives its DMA engine free. -/
def settled (s : State) (c q : Nat) (idx : Word) : State :=
  if (s.cmd c q idx).any fun z => !z.final then s else s.freeEngine c q idx

theorem settled_eq (s : State) (c q : Nat) (idx : Word) : ∃ ds, s.settled c q idx = { s with dmas := ds } := by
  unfold settled
  split
  · exact ⟨s.dmas, rfl⟩
  · exact ⟨_, rfl⟩

theorem settled_of_open (here : s.cmd c q idx = some y) (going : y.final = false) : s.settled c q idx = s := by
  simp [settled, here, going]

theorem loseWrites_up (up : s.linkUp = true) : s.loseWrites c q idx = s := by
  unfold loseWrites
  rw [if_neg]
  rw [up]
  rintro ⟨h, _⟩
  cases h

/-- A command whose code has come and is not waited for takes its end. -/
theorem completeCmd_eq (here : s.cmd c q idx = some y) (going : y.final = false) (code : y.result = some st)
    (run : (s.ctx c).state = .running) (acked : s.unacked c q idx = false) (up : s.linkUp = true) (op : cmdOpcode y.word ≠ 9)
    (now : ¬(st = .retryLater ∧ y.waitDom.isSome = true)) : s.completeCmd c q idx = (s.complete c q idx).settled c q idx := by
  unfold completeCmd
  rw [loseWrites_up up]
  dsimp only
  rw [here]
  dsimp only
  rw [if_neg, code]
  · dsimp only
    rw [if_neg now, if_neg (show ¬(cmdOpcode y.word = 9 ∧ _) from fun h => op h.1)]
    rfl
  · rintro (h | h | h)
    · rw [acked] at h
      cases h
    · rw [going] at h
      cases h
    · exact h.1 run

theorem completeCmd_waits (here : s.cmd c q idx = some y) (code : y.result = some .retryLater) (wait : y.waitDom ≠ none)
    (up : s.linkUp = true) : s.completeCmd c q idx = s := by
  unfold completeCmd
  rw [loseWrites_up up]
  dsimp only
  rw [here]
  dsimp only
  rw [code]
  split
  · rfl
  · exact if_pos ⟨rfl, Option.isSome_iff_ne_none.mpr wait⟩

/-- Every code but RETRY_LATER and DOMAIN_RESET is final. -/
theorem complete_final (here : s.cmd c q idx = some y) (going : y.final = false) (code : y.result = some st)
    (later : st ≠ .retryLater) (reset : st ≠ .domainReset) : s.complete c q idx = s.finalCode c q idx st := by
  unfold complete
  rw [here]
  dsimp only
  rw [going, code]
  rw [if_neg Bool.false_ne_true]
  split
  next h => cases h
  next h => exact absurd (Option.some.inj h) later
  next h => exact absurd (Option.some.inj h) reset
  next h => rw [Option.some.inj h]

/-! ### OK -/

theorem finalCode_ok (here : s.cmd c q idx = some y) : s.finalCode c q idx .ok = (s.concluded c q idx y .ok).advance c q := by
  unfold finalCode
  rw [here]
  rfl

/-- A queue with its command of an index final and its gate's flags set. -/
def finalized (x : Queue) (idx : Word) (bad : Nat) (top : Int) : Queue :=
  { x with cmds := x.cmds.map fun z => if z.index = idx then { z with final := true } else z, gateBad := bad, gateMax := top }

/-- A command that is neither recorded nor announced only becomes final, and its gate may take its flags. -/
theorem concluded_silent (here : s.cmd c q idx = some y) (record : needsRecord st y.word = false) (irq : cmdIrq y.word = false) :
    ∃ cs bad top, s.concluded c q idx y st = { s with contexts := cs } ∧
      (s.concluded c q idx y st).queue c q = finalized (s.queue c q) idx bad top := by
  have bound := queue_lt_of_cmd here
  unfold concluded
  simp only [record, irq, Bool.false_and, Bool.false_eq_true, if_false]
  have marked : (s.modCmd c q idx fun z => { z with final := true }).queue c q =
      finalized (s.queue c q) idx (s.queue c q).gateBad (s.queue c q).gateMax := queue_setQueue bound
  have there : q < ((s.modCmd c q idx fun z => { z with final := true }).ctx c).queues.length :=
    bound.trans_eq setQueue_bound.symm
  split
  · exact ⟨_, _, _, rfl, marked⟩
  · rw [queue_setQueue there, marked]
    exact ⟨_, _, _, rfl, rfl⟩

/-- What the last command of a queue leaves of it when it is final. -/
theorem advance_last {z : Cmd} (bound : q < (s.ctx c).queues.length) (only : (s.queue c q).cmds = [z]) (ended : z.final = true)
    (first : (s.queue c q).done = z.index) :
    ((s.advance c q).queue c q).cmds = [] ∧ ((s.advance c q).queue c q).done = z.index + 1 ∧
    ((s.advance c q).queue c q).head = (s.queue c q).head ∧ ((s.advance c q).queue c q).ctail = (s.queue c q).ctail ∧
    ((s.queue c q).state = .active →
      ((s.advance c q).queue c q).state = if z.index + 1 = (s.queue c q).tail then .idle else .active) := by
  have done : doneAfter [z] 1 z.index = z.index + 1 := by simp [doneAfter, ended]
  have past : (z.index - (z.index + 1)).toInt < 0 := by
    have minus : z.index - (z.index + 1) = -1 := by ring
    rw [minus]
    decide
  unfold advance
  extract_lets x d gone rest idle
  have hd : d = z.index + 1 := by
    unfold d x
    rw [only, first]
    exact done
  have hr : rest = [] := by
    unfold rest gone x
    rw [only, hd]
    simp [ended, past]
  rw [queue_setQueue bound]
  refine ⟨hr, hd, rfl, rfl, fun active => ?_⟩
  dsimp only
  unfold idle
  rw [hr, hd]
  simp [x, active]

theorem advance_eq (s : State) (c q : Nat) : s.advance c q = { s with contexts := (s.advance c q).contexts } := rfl

theorem cmd_of_empty (h : (s.queue c q).cmds = []) : s.cmd c q idx = none := by
  unfold cmd
  rw [h]
  rfl

/-! ### The codes that halt the queue -/

theorem advance_halted (bound : q < (s.ctx c).queues.length) (halted : (s.queue c q).state = .halted) :
    ((s.advance c q).queue c q).state = .halted ∧ ((s.advance c q).queue c q).lastStatus = (s.queue c q).lastStatus ∧
    ((s.advance c q).queue c q).haltedAt = (s.queue c q).haltedAt := by
  unfold advance
  extract_lets x d gone rest idle
  have busy : idle = false := by
    unfold idle x
    rw [halted]
    exact Bool.and_false _
  rw [queue_setQueue bound, busy]
  exact ⟨halted, rfl, rfl⟩

theorem halt_spec (bound : q < (s.ctx c).queues.length) :
    ∃ cs es p o, s.halt c q idx st = { s with contexts := cs, events := es, plk := p, out := o } ∧
      (s.halt c q idx st).queue c q = { s.queue c q with state := .halted, lastStatus := st, haltedAt := idx } ∧
      q < ((s.halt c q idx st).ctx c).queues.length ∧ bitAt ((s.halt c q idx st).ev evQ).value 0 = true := by
  unfold halt
  extract_lets x
  have there := queue_setQueue (x := { x with state := .halted, lastStatus := st, haltedAt := idx }) bound
  have size : q < ((s.setQueue c q { x with state := .halted, lastStatus := st, haltedAt := idx }).ctx c).queues.length :=
    bound.trans_eq setQueue_bound.symm
  have kept : ((s.setQueue c q { x with state := .halted, lastStatus := st, haltedAt := idx }).raiseCtx evQ 0 c q).contexts =
      (s.setQueue c q { x with state := .halted, lastStatus := st, haltedAt := idx }).contexts := by rw [raiseCtx_eq]
  refine ⟨_, _, _, _, raiseCtx_eq .., (queue_congr kept ..).trans there, ?_, ?_⟩
  · simpa only [ctx, kept] using size
  · rw [raiseCtx_value]
    exact bitAt_or_two_pow_self ..

/-! ### A fault of the context -/

theorem finalCode_faults (here : s.cmd c q idx = some y) :
    s.finalCode c q idx .contextFault = ((s.concluded c q idx y .contextFault).faultContext 3 c).advance c q := by
  unfold finalCode
  rw [here]
  rfl

theorem openFault_records (s : State) (r : FaultRecord) :
    ((s.openFault r).1.flt.records.any fun z => z.ident == s.flt.nextId && z.kind == r.kind && z.level == r.level) = true := by
  unfold openFault
  simp

theorem faultContext_spec {kind : Nat} (run : (s.ctx c).state = .running) :
    ((s.faultContext kind c).ctx c).state = .teardown ∧
    ((s.faultContext kind c).flt.records.any fun r => r.ident == s.flt.nextId && r.kind == kind && r.level == 0) = true := by
  unfold faultContext
  extract_lets k _ r
  rw [if_neg (by rw [run]; nofun)]
  have same : r.1.ctx c = s.ctx c := rfl
  unfold startTeardown
  extract_lets k'
  have going : k'.state = .running := (congrArg Context.state same).trans run
  rw [if_neg (by rw [going]; nofun)]
  refine ⟨?_, openFault_records ..⟩
  rw [setCtx_ctx]

theorem advance_ctx_state : ((s.advance c q).ctx c).state = (s.ctx c).state := setQueue_state

/-! ### DOMAIN_RESET (R159) -/

theorem retry_spec (here : s.cmd c q idx = some y) : ∃ cs as, s.retry c q idx = { s with contexts := cs, arrays := as } ∧
    ((s.retry c q idx).queue c q).reissues = satAdd 16 (s.queue c q).reissues 1 ∧
    (s.retry c q idx).cmd c q idx = some { cmdRestart y with reissued := true, resets := y.resets } := by
  have bound := queue_lt_of_cmd here
  have there : q < ((s.unbind c q idx).ctx c).queues.length := bound
  unfold retry
  rw [here]
  refine ⟨_, _, rfl, by rw [queue_setQueue there]; rfl, ?_⟩
  dsimp only
  rw [cmd, queue_setQueue there]
  refine (find?_map_index (f := fun z => { cmdRestart z with reissued := true, resets := z.resets }) fun _ => rfl).trans ?_
  exact congrArg (Option.map _) here

theorem reissue_spec (here : s.cmd c q idx = some y) (alone : adds y.word = false) :
    ∃ cs as, s.reissue c q idx = { s with contexts := cs, arrays := as } ∧
      ((s.reissue c q idx).queue c q).reissues = satAdd 16 (s.queue c q).reissues 1 ∧
      (s.reissue c q idx).cmd c q idx = some { cmdRestart y with reissued := true, resets := y.resets } := by
  obtain ⟨cs, as, frame, count, again⟩ := retry_spec here
  have kept : (s.reissue c q idx) = s.retry c q idx ∨ ∃ m, s.reissue c q idx = (s.retry c q idx).freeHeld c q m := by
    unfold reissue
    rw [here]
    dsimp only
    rw [alone]
    split
    · exact .inr ⟨_, rfl⟩
    · exact .inl rfl
  obtain kept | ⟨m, kept⟩ := kept
  · rw [kept]
    exact ⟨cs, as, frame, count, again⟩
  · rw [kept]
    have held : (s.retry c q idx).freeHeld c q m =
      { s.retry c q idx with arrays := ((s.retry c q idx).freeHeld c q m).arrays } := rfl
    refine ⟨cs, ((s.retry c q idx).freeHeld c q m).arrays, held.trans ?_, count, again⟩
    generalize ((s.retry c q idx).freeHeld c q m).arrays = bs
    rw [frame]

/-- A DOMAIN_RESET that may be repeated makes the command run again. -/
theorem complete_reset (here : s.cmd c q idx = some y) (going : y.final = false) (code : y.result = some .domainReset)
    (few : y.resets < 3) : s.complete c q idx = (s.modCmd c q idx fun z => { z with resets := z.resets + 1 }).reissue c q idx := by
  unfold complete
  rw [here]
  dsimp only
  rw [going, code]
  dsimp only
  rw [if_neg Bool.false_ne_true, if_pos few]

end State

open State

theorem doorbell_taken {s : State} {n v : Nat} (live : s.flt.fatal = false) (used : (s.ctx (n / 4)).state ≠ .free)
    (here : (s.ctx (n / 4)).state ≠ .teardown) (gen : fld v 43 32 = s.ctxHandles.gen (n / 4))
    (ring : (s.queue (n / 4) (n % 4)).ringLog2 ≠ 0)
    (ahead : 0 ≤ (BitVec.ofNat 32 v - (s.queue (n / 4) (n % 4)).tail).toInt)
    (fits : (BitVec.ofNat 32 v - (s.queue (n / 4) (n % 4)).done).toNat ≤ 2 ^ (s.queue (n / 4) (n % 4)).ringLog2) :
    exec (.doorbell n v) s = .next (s.setQueue (n / 4) (n % 4) (rung (s.queue (n / 4) (n % 4)) (BitVec.ofNat 32 v))) :=
  act_eq_next (f := (State.ringDoorbell · n v)) live (ringDoorbell_taken used here gen ring ahead fits) rfl rfl

/-- What raising an event of a queue answers. -/
theorem raised_spec (s : State) (b c q : Nat) :
    (s.raiseCtx evQ b c q).pending = s.pending ∧ (s.raiseCtx evQ b c q).variant = s.variant ∧
    bitAt ((s.raiseCtx evQ b c q).ev evQ).value b = true := by
  refine ⟨by rw [raiseCtx_eq], by rw [raiseCtx_eq], ?_⟩
  rw [raiseCtx_value]
  exact bitAt_or_two_pow_self ..

theorem doorbell_rejected {s : State} {n v : Nat} (live : s.flt.fatal = false)
    (bad : (s.ctx (n / 4)).state = .free ∨ fld v 43 32 ≠ s.ctxHandles.gen (n / 4) ∨ (s.queue (n / 4) (n % 4)).ringLog2 = 0 ∨
      (BitVec.ofNat 32 v - (s.queue (n / 4) (n % 4)).tail).toInt < 0 ∨
      2 ^ (s.queue (n / 4) (n % 4)).ringLog2 < (BitVec.ofNat 32 v - (s.queue (n / 4) (n % 4)).done).toNat) :
    exec (.doorbell n v) s = .next (s.raiseCtx evQ 2 (n / 4) (n % 4)) := by
  obtain ⟨pending, variant, _⟩ := raised_spec s 2 (n / 4) (n % 4)
  exact act_eq_next (f := (State.ringDoorbell · n v)) live (if_pos bad) pending variant

section
variable {s : State} {c q : Nat} {idx : Word} {y : Cmd} {st : Status}

/-- What a command's end answers. -/
theorem commandComplete_eq (live : s.flt.fatal = false) (here : s.cmd c q idx = some y) (going : y.final = false)
    (code : y.result = some st) (run : (s.ctx c).state = .running) (acked : s.unacked c q idx = false) (up : s.linkUp = true)
    (op : cmdOpcode y.word ≠ 9) (now : ¬(st = .retryLater ∧ y.waitDom.isSome = true)) {t : State}
    (ends : s.complete c q idx = t) (pending : t.pending = s.pending) (variant : t.variant = s.variant) :
    exec (.commandComplete c q idx) s = .next (t.settled c q idx) := by
  obtain ⟨ds, frame⟩ := t.settled_eq c q idx
  refine act_eq_next (f := (State.completeCmd · c q idx)) live
    ((completeCmd_eq here going code run acked up op now).trans (by rw [ends])) ?_ ?_
  · rw [frame]
    exact pending
  · rw [frame]
    exact variant

/-- A command that ends OK leaves its queue. -/
theorem complete_ok (here : s.cmd c q idx = some y) (going : y.final = false) (code : y.result = some .ok)
    (record : needsRecord .ok y.word = false) (irq : cmdIrq y.word = false) (only : (s.queue c q).cmds = [y])
    (first : (s.queue c q).done = idx) : ∃ cs, s.complete c q idx = { s with contexts := cs } ∧
      ((s.complete c q idx).queue c q).cmds = [] ∧ ((s.complete c q idx).queue c q).done = idx + 1 ∧
      ((s.complete c q idx).queue c q).head = (s.queue c q).head ∧
      ((s.complete c q idx).queue c q).ctail = (s.queue c q).ctail ∧
      ((s.queue c q).state = .active →
        ((s.complete c q idx).queue c q).state = if idx + 1 = (s.queue c q).tail then .idle else .active) := by
  have index : y.index = idx := by
    rw [cmd, only] at here
    simpa using List.find?_some here
  obtain ⟨cs, bad, top, frame, queue⟩ := concluded_silent (st := .ok) here record irq
  rw [complete_final here going code nofun nofun, finalCode_ok here]
  generalize s.concluded c q idx y .ok = u at frame queue ⊢
  have bound : q < (u.ctx c).queues.length := by
    refine queue_lt fun e => ?_
    rw [e] at queue
    have := congrArg Queue.cmds queue
    simp [finalized, only, Queue.reset] at this
  have cmds : (u.queue c q).cmds = [{ y with final := true }] := by
    rw [queue]
    simp [finalized, only, index]
  have done : (u.queue c q).done = y.index := by
    rw [queue, index]
    exact first
  obtain ⟨h1, h2, h3, h4, h5⟩ := advance_last bound cmds rfl done
  rw [queue] at h3 h4 h5
  refine ⟨_, (advance_eq ..).trans (by rw [frame]), h1, ?_, h3, h4, fun active => ?_⟩
  · exact h2.trans (by rw [index])
  · exact (h5 active).trans (by rw [index]; rfl)

/-- A code that halts its queue. -/
theorem complete_halts (here : s.cmd c q idx = some y) (going : y.final = false) (code : y.result = some st)
    (halts : st ∉ [Status.ok, .accOverflow, .nonfiniteStep, .contextFault, .retryLater, .domainReset]) :
    (∃ cs m ls es p o, s.complete c q idx =
      { s with contexts := cs, mem := m, lines := ls, events := es, plk := p, out := o }) ∧
    ((s.complete c q idx).queue c q).state = .halted ∧ ((s.complete c q idx).queue c q).lastStatus = st ∧
    ((s.complete c q idx).queue c q).haltedAt = idx ∧ bitAt ((s.complete c q idx).ev evQ).value 0 = true := by
  have later : st ≠ .retryLater := fun e => halts (by simp [e])
  have reset : st ≠ .domainReset := fun e => halts (by simp [e])
  rw [complete_final here going code later reset, finalCode_halts here halts]
  have before := concludes_concluded s c q idx y st
  generalize s.concluded c q idx y st = u at before ⊢
  have bound := before.bound q (queue_lt_of_cmd here)
  obtain ⟨cs, es, p, o, frame, queue, size, told⟩ := halt_spec (idx := idx) (st := st) bound
  obtain ⟨_, m, ls, _, _, _, frame'⟩ := before.frame
  generalize u.halt c q idx st = v at frame queue size told ⊢
  obtain ⟨h1, h2, h3⟩ := advance_halted size (by rw [queue])
  refine ⟨⟨(v.advance c q).contexts, m, ls, es, p, o, (advance_eq ..).trans ?_⟩, h1, h2.trans (by rw [queue]), h3.trans (by rw [queue]), told⟩
  generalize (v.advance c q).contexts = cs'
  rw [frame, frame']

/-- A CONTEXT_FAULT tears its context down under a record. -/
theorem complete_faults (here : s.cmd c q idx = some y) (going : y.final = false) (code : y.result = some .contextFault)
    (run : (s.ctx c).state = .running) :
    (s.complete c q idx).pending = s.pending ∧ (s.complete c q idx).variant = s.variant ∧
    ((s.complete c q idx).ctx c).state = .teardown ∧
    ((s.complete c q idx).flt.records.any fun r => r.ident == s.flt.nextId && r.kind == 3 && r.level == 0) = true := by
  rw [complete_final here going code nofun nofun, finalCode_faults here]
  have before := concludes_concluded s c q idx y .contextFault
  generalize s.concluded c q idx y .contextFault = u at before ⊢
  obtain ⟨state, record⟩ := faultContext_spec (kind := 3) (before.state.trans run)
  have pending : (u.faultContext 3 c).pending = u.pending ∧ (u.faultContext 3 c).variant = u.variant := by
    unfold faultContext startTeardown
    dsimp only
    split
    · exact ⟨rfl, rfl⟩
    · split <;> exact ⟨rfl, rfl⟩
  obtain ⟨_, _, _, _, _, _, frame⟩ := before.frame
  refine ⟨pending.1.trans (by rw [frame]), pending.2.trans (by rw [frame]), advance_ctx_state.trans state, ?_⟩
  have next : u.flt.nextId = s.flt.nextId := by rw [frame]
  rw [next] at record
  exact record

/-- A DOMAIN_RESET that may be repeated runs its command again. -/
theorem complete_again (here : s.cmd c q idx = some y) (going : y.final = false) (code : y.result = some .domainReset)
    (few : y.resets < 3) (alone : adds y.word = false) :
    (∃ cs as, s.complete c q idx = { s with contexts := cs, arrays := as }) ∧
    ((s.complete c q idx).queue c q).reissues = satAdd 16 (s.queue c q).reissues 1 ∧
    (s.complete c q idx).cmd c q idx = some { cmdRestart y with reissued := true, resets := y.resets + 1 } := by
  rw [complete_reset here going code few]
  have counted : (s.modCmd c q idx fun z => { z with resets := z.resets + 1 }).cmd c q idx =
      some { y with resets := y.resets + 1 } :=
    (cmd_modCmd (f := fun z => { z with resets := z.resets + 1 }) fun _ => rfl).trans (congrArg (Option.map _) here)
  have same : ((s.modCmd c q idx fun z => { z with resets := z.resets + 1 }).queue c q).reissues = (s.queue c q).reissues := by
    unfold modCmd
    rw [queue_setQueue (queue_lt_of_cmd here)]
  obtain ⟨cs, as, frame, count, again⟩ := reissue_spec counted alone
  exact ⟨⟨cs, as, frame⟩, count.trans (by rw [same]), again⟩

end

/-- Settles O45: a doorbell, RESTART, ABORT and dispatch each set one queue, and the code of a command at its end decides
between the five ways of ending it. -/
theorem queuesRunCommands : Obligations.QueuesRunCommands := by
  refine ⟨fun s n v live => ⟨fun used here gen ring ahead fits => ?_, fun bad => ?_⟩, fun s c q i live sel =>
    ⟨fun halted range => ?_, fun busy => ?_⟩, fun s c q live run active ring work room free fabric held up =>
    ⟨fun space reads pass clear ok => ?_, fun d space reads pass clear wait => ?_, fun full => ?_⟩,
    fun s c q idx y st live here going code run acked up op => ⟨fun ok record irq only first => ?_, fun halts => ?_, fun fault => ?_,
    fun later wait => ?_, fun reset few alone => ?_⟩⟩
  · have bound := queue_lt_of_ring ring
    refine ⟨_, doorbell_taken live used here gen ring ahead fits, ?_, ?_, ?_, fun p other => queue_setQueue_other other,
      fun d other => setQueue_ctx_ne other, rfl⟩ <;> rw [queue_setQueue bound] <;> rfl
  · refine ⟨_, doorbell_rejected live bad, (raised_spec ..).2.2, ?_⟩
    rw [raiseCtx_eq]
  · obtain ⟨queue, others, cs, as, ds, p, frame⟩ := restartQueue_spec sel halted range
    refine ⟨_, act_eq_next (f := (State.restartQueue · i)) live rfl (by rw [frame]) (by rw [frame]), ?_, ?_, ?_, ?_, ?_, others, ?_⟩
    · rw [queue]; rfl
    · rw [queue]; rfl
    · rw [queue]; rfl
    · rw [queue]
      exact restarted_not_halted _ _
    · rw [queue]
      exact kept_before _ i
    · rw [frame]
  · have bound := queue_lt_of_state busy
    refine ⟨_, act_eq_next (f := State.abortQueue) live (abortQueue_eq sel), ?_, ?_, ?_, ?_, fun p other => queue_setQueue_other other,
      rfl⟩ <;> rw [queue_setQueue bound]
    · rfl
    · rfl
    · rfl
    · exact aborted_indexes _
  · have bound := queue_lt_of_ring ring
    have ready := queueReady_of run active ring work room free fabric held up
    refine ⟨_, act_eq_next (f := (State.dispatch · c q)) live
      ((dispatch_takes ready space reads clear).trans (takeCommand_ready pass ok)), ?_, ?_, rfl⟩
    · exact congrArg Queue.head (queue_setQueue bound)
    · exact congrArg Queue.cmds (queue_setQueue bound)
  · have bound := queue_lt_of_ring ring
    have ready := queueReady_of run active ring work room free fabric held up
    refine ⟨_, act_eq_next (f := (State.dispatch · c q)) live
      ((dispatch_takes ready space reads clear).trans (takeCommand_fenced pass wait)), ?_, ?_⟩
    · exact congrArg Queue.head (queue_setQueue bound)
    · rw [queue_setQueue bound]
      simp [withTaken, waitingFor, taken, cmdNew]
  · have ready := queueReady_of run active ring work room free fabric held up
    obtain ⟨pending, variant, told⟩ := raised_spec s 1 c q
    refine ⟨_, act_eq_next (f := (State.dispatch · c q)) live (dispatch_full ready full) pending variant, told, ?_⟩
    rw [raiseCtx_eq]
  · subst ok
    obtain ⟨cs, frame, empty, rest⟩ := complete_ok here going code record irq only first
    obtain ⟨ds, settles⟩ := (s.complete c q idx).settled_eq c q idx
    refine ⟨_, commandComplete_eq live here going code run acked up op (by nofun) rfl (by rw [frame]) (by rw [frame]), ?_⟩
    rw [settles]
    refine ⟨empty, rest.1, rest.2.1, rest.2.2.1, rest.2.2.2, ?_⟩
    rw [frame]
  · obtain ⟨⟨cs, m, ls, es, p, o, frame⟩, halted, last, at_, told⟩ := complete_halts here going code halts
    obtain ⟨ds, settles⟩ := (s.complete c q idx).settled_eq c q idx
    refine ⟨_, commandComplete_eq live here going code run acked up op (fun h => halts (by simp [h.1])) rfl (by rw [frame])
      (by rw [frame]), ?_⟩
    rw [settles]
    refine ⟨halted, last, at_, told, ?_⟩
    rw [frame]
  · subst fault
    obtain ⟨pending, variant, state, record⟩ := complete_faults here going code run
    obtain ⟨ds, settles⟩ := (s.complete c q idx).settled_eq c q idx
    refine ⟨_, commandComplete_eq live here going code run acked up op (by nofun) rfl pending variant, ?_⟩
    rw [settles]
    exact ⟨state, record⟩
  · subst later
    exact ⟨s, act_eq_next (f := (State.completeCmd · c q idx)) live (completeCmd_waits here code wait up), rfl⟩
  · subst reset
    obtain ⟨⟨cs, as, frame⟩, count, again⟩ := complete_again here going code few alone
    refine ⟨_, commandComplete_eq live here going code run acked up op (by nofun) rfl (by rw [frame]) (by rw [frame]), ?_⟩
    rw [settled_of_open again going]
    refine ⟨count, ?_, by rw [frame]⟩
    rw [State.cmdIs, again]
    simp [cmdRestart]

end Sys2Proof.Machine
end

section
/-! SUPPORT. Fences, waits, events and gates of the queues (R34, R138 to R143, R175, R176). -/

set_option Elab.async false

namespace Sys2Proof.Machine

/-- What sending a context away may change before it is SAVING: its own queues, and the channels it leaves. -/
structure Leaves (s t : State) (c : Nat) : Prop where
  frame : ∃ co cs ch js jh m ls p o, t = { s with
    contexts := co, channels := cs, chanHandles := ch, jobs := js, jobHandles := jh, mem := m, lines := ls, plk := p, out := o }
  others : ∀ d, d ≠ c → t.ctx d = s.ctx d
  state : (t.ctx c).state = (s.ctx c).state

namespace Leaves

variable {s t u : State} {c : Nat}

theorem refl (s : State) (c : Nat) : Leaves s s c :=
  ⟨⟨s.contexts, s.channels, s.chanHandles, s.jobs, s.jobHandles, s.mem, s.lines, s.plk, s.out, rfl⟩, fun _ _ => rfl, rfl⟩

theorem trans (h : Leaves s t c) (g : Leaves t u c) : Leaves s u c := by
  refine ⟨?_, fun d other => (g.others d other).trans (h.others d other), g.state.trans h.state⟩
  obtain ⟨_, _, _, _, _, _, _, _, _, h'⟩ := h.frame
  obtain ⟨_, _, _, _, _, _, _, _, _, g'⟩ := g.frame
  rw [h'] at g'
  exact ⟨_, _, _, _, _, _, _, _, _, g'⟩

theorem foldl {α : Type} {f : State → α → State} (step : ∀ s a, Leaves s (f s a) c) (l : List α) (s : State) : Leaves s (l.foldl f s) c :=
  List.foldlRecOn (motive := fun t : State => Leaves s t c) l f (refl s c) fun t ht a _ => ht.trans (step t a)

theorem of_closes (h : Closes s t) : Leaves s t c := by
  obtain ⟨cs, ch, js, jh, m, ls, p, o, h'⟩ := h
  have same : t.contexts = s.contexts := by rw [h']
  exact ⟨⟨s.contexts, cs, ch, js, jh, m, ls, p, o, h'⟩, fun d _ => by rw [State.ctx, same]; rfl, by rw [State.ctx, same]; rfl⟩

theorem setQueue (s : State) (c q : Nat) (x : Queue) : Leaves s (s.setQueue c q x) c :=
  ⟨⟨_, s.channels, s.chanHandles, s.jobs, s.jobHandles, s.mem, s.lines, s.plk, s.out, rfl⟩, fun _ other => State.setQueue_ctx_ne other,
    State.setQueue_state⟩

end Leaves

namespace State

variable {s : State} {c q : Nat} {idx : Word} {y : Cmd}

theorem leaves_putRecord (s : State) (c q : Nat) (l : List Byte) : Leaves s (s.putRecord c q l) c := by
  unfold putRecord
  extract_lets x s1
  split
  · exact .refl s c
  · exact (Leaves.of_closes (.of_wrote (wrote_post ..))).trans (.setQueue s1 c q _)

theorem leaves_preemptRecords (s : State) (c : Nat) : Leaves s (s.preemptRecords c) c := by
  unfold preemptRecords
  refine Leaves.foldl (fun s q => ?_) _ s
  dsimp only
  split
  · exact .refl s c
  · exact leaves_putRecord ..

theorem leaves_lossRestart (s : State) (c : Nat) : Leaves s (s.lossRestart c) c :=
  (Leaves.of_closes (Closes.foldl (fun s i => closes_modChan s i _) _ s)).trans
    (.foldl (fun s q => .setQueue s c q _) _ _)

/-! ### Parking a context (R142) -/

/-- What sending a context away leaves. -/
structure Sent (s t : State) (c reason : Nat) (after : AfterSave) : Prop where
  frame : ∃ co cs ch js jh m ls p o, t = { s with
    contexts := co, channels := cs, chanHandles := ch, jobs := js, jobHandles := jh, mem := m, lines := ls, plk := p, out := o }
  others : ∀ d, d ≠ c → t.ctx d = s.ctx d
  state : (t.ctx c).state = .saving
  after : (t.ctx c).after = after
  reason : (t.ctx c).lastReason = reason

theorem beginSave_sent {reason : Nat} {after : AfterSave} (run : (s.ctx c).state = .running) :
    Sent s (s.beginSave c reason after) c reason after := by
  unfold beginSave
  extract_lets k s1 s2 k2
  rw [if_pos run]
  have left : Leaves s s2 c := by
    refine Leaves.trans (t := s1) ?_ (leaves_lossRestart ..)
    unfold s1
    split
    · exact .refl s c
    · exact leaves_preemptRecords ..
  obtain ⟨_, cs, ch, js, jh, m, ls, p, o, frame⟩ := left.frame
  have set : ∀ k, s2.setCtx c k = { s2 with contexts := (s2.setCtx c k).contexts } := fun _ => rfl
  refine ⟨?_, fun d other => (setCtx_ctx_ne _ _ other).trans (left.others d other), ?_, ?_, ?_⟩
  · rw [set]
    generalize (s2.setCtx c _).contexts = co
    rw [frame]
    exact ⟨co, cs, ch, js, jh, m, ls, p, o, rfl⟩
  all_goals rw [setCtx_ctx]

theorem park_spec {w : ParkWait} (run : (s.ctx c).state = .running) :
    Sent s (s.park c w) c 3 .parked ∧ ((s.park c w).ctx c).wait = w := by
  have sent := beginSave_sent (reason := 3) (after := .parked) run
  unfold park
  extract_lets s1
  rw [if_pos run]
  obtain ⟨_, cs, ch, js, jh, m, ls, p, o, frame⟩ := sent.frame
  have set : ∀ k, s1.setCtx c k = { s1 with contexts := (s1.setCtx c k).contexts } := fun _ => rfl
  refine ⟨⟨?_, fun d other => (setCtx_ctx_ne _ _ other).trans (sent.others d other), ?_, ?_, ?_⟩, ?_⟩
  · rw [set]
    generalize (s1.setCtx c _).contexts = co
    change s1 = _ at frame
    rw [frame]
    exact ⟨co, cs, ch, js, jh, m, ls, p, o, rfl⟩
  all_goals rw [setCtx_ctx]
  · exact sent.state
  · exact sent.after
  · exact sent.reason

/-! ### Fences -/

theorem cmd_of_mem (listed : y ∈ (s.queue c q).cmds) : ∃ z, s.cmd c q y.index = some z :=
  Option.isSome_iff_exists.mp (List.find?_isSome.mpr ⟨y, listed, beq_self_eq_true _⟩)

theorem cmd_setQueue {x : Queue} (bound : q < (s.ctx c).queues.length) :
    (s.setQueue c q x).cmd c q idx = x.cmds.find? fun y => y.index == idx := by
  rw [cmd, queue_setQueue bound]

/-- A change of the queue's own fields leaves its commands. -/
theorem cmd_setQueue_same {x : Queue} (bound : q < (s.ctx c).queues.length) (same : x.cmds = (s.queue c q).cmds) :
    (s.setQueue c q x).cmd c q idx = s.cmd c q idx := by
  rw [cmd_setQueue bound, same]
  rfl

/-- A passed fence: its command is answered OK, and its queue waits no longer. -/
theorem fencePass_spec {z : Cmd} (here : s.cmd c q y.index = some z) :
    (s.fencePass c q y).cmdIs c q y.index (fun z => z.result == some .ok) ∧
    ((s.fencePass c q y).queue c q).state = (if (s.queue c q).state = .waiting then .active else (s.queue c q).state) := by
  have bound := queue_lt_of_cmd here
  unfold fencePass
  extract_lets body s1 x
  have marked : s1.cmd c q y.index = some { z with result := some .ok, body := body, waitFrom := none } :=
    (cmd_modCmd (f := fun z => { z with result := some .ok, body := body, waitFrom := none }) fun _ => rfl).trans
      (congrArg (Option.map _) here)
  have there : q < (s1.ctx c).queues.length := bound.trans_eq setQueue_bound.symm
  have state : x.state = (s.queue c q).state := by
    unfold x s1 modCmd
    rw [queue_setQueue bound]
  refine ⟨?_, ?_⟩
  · rw [cmdIs, cmd_setQueue_same there, marked] <;> rfl
  · rw [queue_setQueue there, ← state]

theorem fencePass_eq (s : State) (c q : Nat) (y : Cmd) : s.fencePass c q y = { s with contexts := (s.fencePass c q y).contexts } := rfl

theorem fenceStart_now (here : s.cmd c q idx = some y) (new : y.started = false) (none_ : y.result = none)
    (active : (s.queue c q).state = .active) (op : cmdOpcode y.word = 11) (run : (s.ctx c).state = .running) :
    s.fenceStart c q idx = if s.fenceHolds c q y then s.fencePass c q y else
      let s1 := s.modCmd c q idx fun z => { z with started := true, waitFrom := some (s.groupTime (s.queueDie c q)) }
      s1.setQueue c q { s1.queue c q with state := .waiting } := by
  unfold fenceStart
  rw [here]
  dsimp only
  rw [if_neg]
  · rw [if_pos active]
  · simp [op, new, none_, run, active]

theorem fenceStart_waits (here : s.cmd c q idx = some y) (none_ : y.result = none) (t : DWord) :
    let u := s.modCmd c q idx fun z => { z with started := true, waitFrom := some t }
    (u.setQueue c q { u.queue c q with state := .waiting }).cmdIs c q idx
      (fun z => z.started && z.result == none && z.waitFrom == some t) ∧
    ((u.setQueue c q { u.queue c q with state := .waiting }).queue c q).state = .waiting := by
  intro u
  have bound := queue_lt_of_cmd here
  have marked : u.cmd c q idx = some { y with started := true, waitFrom := some t } :=
    (cmd_modCmd (f := fun z => { z with started := true, waitFrom := some t }) fun _ => rfl).trans (congrArg (Option.map _) here)
  have there : q < (u.ctx c).queues.length := bound.trans_eq setQueue_bound.symm
  refine ⟨?_, ?_⟩
  · rw [cmdIs, cmd_setQueue_same there, marked]
    · simp [none_]
    · rfl
  · rw [queue_setQueue there]

theorem waitingFence_mem (waits : s.waitingFence c q = some y) :
    y ∈ (s.queue c q).cmds ∧ ((s.queue c q).state = .waiting ∨ (s.queue c q).state = .halted) := by
  unfold waitingFence at waits
  extract_lets x at waits
  by_cases held : x.state = .waiting ∨ x.state = .halted
  · rw [if_pos held] at waits
    exact ⟨List.mem_of_find?_eq_some waits, held⟩
  · rw [if_neg held] at waits
    cases waits

theorem fenceSatisfied_eq (waits : s.waitingFence c q = some y) (run : (s.ctx c).state = .running)
    (holds : s.fenceHolds c q y = true) : s.fenceSatisfied c q = s.fencePass c q y := by
  unfold fenceSatisfied
  rw [waits]
  exact if_pos ⟨run, holds⟩

theorem fenceLimit_deadlock (waits : s.waitingFence c q = some y) (run : (s.ctx c).state = .running)
    (holds : s.fenceHolds c q y = false) (local_ : bitAt y.word.toNat 21 = false) (dead : s.deadlocked c = true) :
    s.fenceLimit c q = (s.faultContext 5 c).raiseCtx evQ 3 c q := by
  unfold fenceLimit
  rw [waits]
  dsimp only
  rw [if_neg (by simp [run, holds]), if_pos (by simp [local_, dead])]

theorem fenceLimit_parks (waits : s.waitingFence c q = some y) (run : (s.ctx c).state = .running)
    (holds : s.fenceHolds c q y = false) (free : bitAt y.word.toNat 21 = true ∨ s.deadlocked c = false) :
    ∃ w, w ≠ .none ∧ s.fenceLimit c q = (s.modCmd c q y.index fun z => { z with parked := true }).park c w := by
  unfold fenceLimit
  rw [waits]
  dsimp only
  rw [if_neg (by simp [run, holds]), if_neg (by
    obtain h | h := free
    · simp [h]
    · simp [h])]
  refine ⟨_, ?_, rfl⟩
  split <;> nofun

theorem faultContext_record {kind : Nat} (run : (s.ctx c).state = .running) :
    ((s.faultContext kind c).flt.records.any fun r => r.ident == s.flt.nextId && r.kind == kind && r.context == s.ctxHandle c) = true := by
  unfold faultContext
  extract_lets k _ r
  rw [if_neg (by rw [run]; nofun)]
  have kept : (r.1.startTeardown c).flt = r.1.flt := by
    unfold startTeardown
    dsimp only
    split <;> rfl
  rw [kept]
  unfold r openFault
  simp

theorem faultContext_eq (s : State) (kind c : Nat) : ∃ co f, s.faultContext kind c = { s with contexts := co, flt := f } := by
  unfold faultContext startTeardown
  dsimp only
  split
  · exact ⟨s.contexts, s.flt, rfl⟩
  · split
    · exact ⟨s.contexts, _, rfl⟩
    · exact ⟨_, _, rfl⟩

/-! ### The wait for a channel -/

theorem sorLimit_eq {i : Nat} {put : Bool} {ch : Channel} (here : s.cmd c q idx = some y) (waits : s.waitsFor c q y = some (i, put))
    (run : (s.ctx c).state = .running) (there : tget s.channels i = some ch) : ∃ ch',
    s.sorLimit c q idx = (((s.setChan i ch').modCmd c q idx fun z => { z with parked := true }).park c
      (if put then .credit i else .block i)).raiseEv evSor 0 := by
  unfold sorLimit
  rw [here]
  dsimp only
  rw [waits]
  dsimp only
  rw [if_neg (fun h => h run), there]
  exact ⟨_, rfl⟩

/-! ### Parked contexts -/

theorem unpark_eq (parked : (s.ctx c).state = .parked) (past : s.waitOver c = true) :
    s.unpark c = s.setCtx c { s.ctx c with state := .saved, wait := .none } := if_pos ⟨parked, past⟩

/-! ### Events (R176) -/

/-- What an event answers when it is over. -/
def eventEnds (s : State) (c q : Nat) (idx : Word) (w : Nat) : State :=
  s.modCmd c q idx fun z => { z with started := true, result := some .ok, body := s.eventBody c w }

theorem eventEnds_ok (here : s.cmd c q idx = some y) (w : Nat) :
    (s.eventEnds c q idx w).cmdIs c q idx fun z => z.result == some .ok := by
  unfold eventEnds
  rw [cmdIs, cmd_modCmd (f := fun z => { z with started := true, result := some .ok, body := s.eventBody c w }) fun _ => rfl, here]
  rfl

/-- The sum of an event to its counter. -/
def counted (s : State) (c w : Nat) : State :=
  let k := s.ctx c
  let s1 := s.setCtx c { k with sync := lmod k.sync (fld w 21 19) fun v => v + BitVec.ofNat 32 (fld w 37 22) }
  if k.tx2 && !s.isStudent c && s.freesBlock c (fld w 21 19) then s1.startBlock c else s1

/-- An event that holds its queue. -/
def gatedBy (s : State) (c q : Nat) (idx : Word) (step : Bool) : State :=
  (s.modCmd c q idx fun z => { z with started := true }).setQueue c q
    { (s.modCmd c q idx fun z => { z with started := true }).queue c q with state := .gated, stepGate := step }

/-- The interrupt of an event. -/
def announced (s : State) (c q w : Nat) : State :=
  (({ s with sel := { s.sel with payload := fld w 95 64 } } : State).setEv evQ { s.ev evQ with payload := true }).raiseCtx evQ 4 c q

section
variable (here : s.cmd c q idx = some y) (new : y.started = false) (none_ : y.result = none)
  (active : (s.queue c q).state = .active) (op : cmdOpcode y.word = 12) (run : (s.ctx c).state = .running)
  (first : (s.earlier c q idx).all (·.final) = true)
include here new none_ active op run first

theorem eventStart_counts (kind : fld y.word.toNat 18 16 = 0) :
    s.eventStart c q idx = (s.counted c y.word.toNat).eventEnds c q idx y.word.toNat := by
  unfold eventStart
  rw [here]
  dsimp only
  rw [if_neg (by simp [op, new, none_, run, active, first]), kind]
  rfl

theorem eventStart_window (kind : fld y.word.toNat 18 16 = 3) :
    s.eventStart c q idx = (s.setQueue c q { s.queue c q with window := fld y.word.toNat 57 55 }).eventEnds c q idx y.word.toNat := by
  unfold eventStart
  rw [here]
  dsimp only
  rw [if_neg (by simp [op, new, none_, run, active, first]), kind]
  rfl

theorem eventStart_announces (kind : fld y.word.toNat 18 16 = 4) :
    s.eventStart c q idx = (s.announced c q y.word.toNat).eventEnds c q idx y.word.toNat := by
  unfold eventStart
  rw [here]
  dsimp only
  rw [if_neg (by simp [op, new, none_, run, active, first]), kind]
  rfl

theorem eventStart_layer (kind : fld y.word.toNat 18 16 = 1) : s.eventStart c q idx = s.gatedBy c q idx false := by
  unfold eventStart
  rw [here]
  dsimp only
  rw [if_neg (by simp [op, new, none_, run, active, first]), kind]
  rfl

theorem eventStart_step (kind : fld y.word.toNat 18 16 = 2) : s.eventStart c q idx = (s.gatedBy c q idx true).stepEnd c := by
  unfold eventStart
  rw [here]
  dsimp only
  rw [if_neg (by simp [op, new, none_, run, active, first]), kind]
  rfl

end

theorem lmod_getElem? {α : Type} {l : List α} {i n : Nat} {f : α → α} {v : α} (there : l[n]? = some v) :
    (lmod l i f)[n]? = some (if n = i then f v else v) := by
  unfold lmod
  by_cases here : n = i
  · subst here
    obtain ⟨h, _⟩ := List.getElem?_eq_some_iff.mp there
    rw [there, if_pos rfl]
    simp [h]
  · rw [if_neg here]
    split
    · rw [List.getElem?_set_ne (Ne.symm here), there]
    · exact there

/-- A context with other queues and draws. -/
def requeued (k : Context) (qs : List Queue) (d : DWord) : Context := { k with queues := qs, draws := d }

theorem startBlock_spec (s : State) (c : Nat) : s.startBlock c = { s with contexts := (s.startBlock c).contexts } ∧
    ∃ d, (s.startBlock c).ctx c = requeued (s.ctx c) (s.ctx c).queues d := by
  unfold startBlock
  dsimp only
  split
  · exact ⟨rfl, _, setCtx_ctx ..⟩
  · exact ⟨rfl, (s.ctx c).draws, rfl⟩

theorem queue_eq_of_queues {t : State} (h : (t.ctx c).queues = (s.ctx c).queues) : t.queue c q = s.queue c q := by
  unfold queue
  rw [h]

theorem cmd_eq_of_queues {t : State} (h : (t.ctx c).queues = (s.ctx c).queues) : t.cmd c q idx = s.cmd c q idx := by
  unfold cmd
  rw [queue_eq_of_queues h]

theorem counted_spec (s : State) (c w : Nat) : s.counted c w = { s with contexts := (s.counted c w).contexts } ∧
    ∃ d, (s.counted c w).ctx c = { s.ctx c with
      sync := lmod (s.ctx c).sync (fld w 21 19) fun v => v + BitVec.ofNat 32 (fld w 37 22), draws := d } := by
  unfold counted
  extract_lets k s1
  split
  · obtain ⟨frame, d, kept⟩ := startBlock_spec s1 c
    refine ⟨frame.trans ?_, d, kept.trans ?_⟩
    · generalize (s1.startBlock c).contexts = co
      rfl
    · rw [setCtx_ctx]
      rfl
  · exact ⟨rfl, _, setCtx_ctx ..⟩

theorem gatedBy_spec (here : s.cmd c q idx = some y) (none_ : y.result = none) (step : Bool) :
    (s.gatedBy c q idx step).cmdIs c q idx (fun z => z.started && z.result == none) ∧
    ((s.gatedBy c q idx step).queue c q).state = .gated ∧ ((s.gatedBy c q idx step).queue c q).stepGate = step := by
  have bound := queue_lt_of_cmd here
  have marked : (s.modCmd c q idx fun z => { z with started := true }).cmd c q idx = some { y with started := true } :=
    (cmd_modCmd (f := fun z => { z with started := true }) fun _ => rfl).trans (congrArg (Option.map _) here)
  have there : q < ((s.modCmd c q idx fun z => { z with started := true }).ctx c).queues.length :=
    bound.trans_eq setQueue_bound.symm
  unfold gatedBy
  refine ⟨?_, ?_, ?_⟩
  · rw [cmdIs, cmd_setQueue_same there, marked]
    · simp [none_]
    · rfl
  · rw [queue_setQueue there]
  · rw [queue_setQueue there]

theorem gatedBy_eq (s : State) (c q : Nat) (idx : Word) (step : Bool) :
    s.gatedBy c q idx step = { s with contexts := (s.gatedBy c q idx step).contexts } := rfl

theorem gatedBy_ptn (s : State) (c q : Nat) (idx : Word) (step : Bool) : ((s.gatedBy c q idx step).ctx c).ptn = (s.ctx c).ptn := by
  unfold gatedBy modCmd setQueue
  rw [setCtx_ctx, setCtx_ctx]

/-- Alone, and without a checkpoint of the context's partition, the end of a step tells nobody. -/
theorem stepEnd_solo (solo : s.net.state = .solo) (apart : s.ckpPtn ≠ some (s.ctx c).ptn) : s.stepEnd c = s := by
  have log : s.stepEndLog c = s := if_neg apart
  have replay : s.replayOf c = none := if_neg apart
  have check : s.replayCheck c s = s := by
    unfold replayCheck
    dsimp only
    rw [replay]
  unfold stepEnd
  rw [log, check]
  exact if_pos (.inl solo)

theorem announced_spec (s : State) (c q w : Nat) : (s.announced c q w).sel.payload = fld w 95 64 ∧
    bitAt ((s.announced c q w).ev evQ).value 4 = true ∧
    ∃ es p o, s.announced c q w = { s with sel := (s.announced c q w).sel, events := es, plk := p, out := o } := by
  unfold announced
  refine ⟨?_, ?_, ?_⟩
  · rw [raiseCtx_eq]
    rfl
  · rw [raiseCtx_value]
    exact bitAt_or_two_pow_self ..
  · rw [raiseCtx_eq]
    exact ⟨_, _, _, rfl⟩

/-! ### Layer gates (R138 to R141) -/

/-- The queue at the start of its next layer. -/
def begun (x : Queue) (idx : Word) (draws : DWord) : Queue :=
  { x with
    state := .active, gateSeen := false, updating := false, gateFrom := idx + 1, gateWindow := x.window, gateBad := 0,
    gateMax := -128, gateDraws := draws }

/-- What a change of a queue and of the draws leaves of its context. -/
structure Requeues (s t : State) (c q : Nat) (x : Queue) : Prop where
  frame : t = { s with contexts := t.contexts }
  queue : t.queue c q = x
  bound : q < (t.ctx c).queues.length
  ctx : ∃ qs d, t.ctx c = requeued (s.ctx c) qs d

theorem requeues_setQueue {x : Queue} (bound : q < (s.ctx c).queues.length) : Requeues s (s.setQueue c q x) c q x :=
  ⟨rfl, queue_setQueue bound, bound.trans_eq setQueue_bound.symm, _, (s.ctx c).draws, setCtx_ctx ..⟩

theorem Requeues.trans {t u : State} {x z : Queue} (h : Requeues s t c q x) (g : Requeues t u c q z) : Requeues s u c q z := by
  refine ⟨?_, g.queue, g.bound, ?_⟩
  · have hf := h.frame
    have gf := g.frame
    generalize u.contexts = co at gf ⊢
    generalize t.contexts = co' at hf
    rw [gf, hf]
  · obtain ⟨_, _, h'⟩ := h.ctx
    obtain ⟨_, _, g'⟩ := g.ctx
    rw [h'] at g'
    exact ⟨_, _, g'⟩

theorem Requeues.startLayer {t : State} {x : Queue} (h : Requeues s t c q x) :
    Requeues s (t.startLayer c q idx) c q (begun x idx (t.ctx c).draws) := by
  have set : t.startLayer c q idx = t.setQueue c q (begun (t.queue c q) idx (t.ctx c).draws) := rfl
  rw [set, h.queue]
  exact h.trans (requeues_setQueue h.bound)

theorem Requeues.startBlock {t : State} {x : Queue} (h : Requeues s t c q x) : Requeues s (t.startBlock c) c q x := by
  obtain ⟨frame, d, kept⟩ := startBlock_spec t c
  refine h.trans (t := t) (u := t.startBlock c) (z := x) ⟨frame, ?_, ?_, (t.ctx c).queues, d, kept⟩
  · have queues : ((t.startBlock c).ctx c).queues = (t.ctx c).queues := by
      rw [kept]
      rfl
    exact (queue_eq_of_queues queues).trans h.queue
  · rw [kept]
    exact h.bound

theorem Requeues.nextLayer {t : State} {x : Queue} (h : Requeues s t c q x) (w : Nat) :
    ∃ d, Requeues s (t.nextLayer c q idx w) c q (begun x idx d) := by
  unfold State.nextLayer
  extract_lets s1
  have first : Requeues s s1 c q (begun x idx (t.ctx c).draws) := h.startLayer
  split
  · exact ⟨_, first.startBlock.startLayer (idx := idx)⟩
  · exact ⟨_, first⟩

/-- A context past a gate. -/
def pastGate (k : Context) (qs : List Queue) (d : DWord) (rs : List (Nat × Nat × Int)) : Context :=
  { requeued k qs d with attempt := 0, layerReports := rs }

/-- A gate that lets its queue go on. -/
structure Released (s t : State) (c q : Nat) (idx : Word) : Prop where
  frame : t = { s with contexts := t.contexts }
  answered : t.cmdIs c q idx (fun z => z.result == some .ok)
  active : (t.queue c q).state = .active
  updating : (t.queue c q).updating = false
  gate : (t.queue c q).gateFrom = idx + 1
  ctx : ∃ qs d rs, t.ctx c = pastGate (s.ctx c) qs d rs ∧ ((s.queue c q).updating = true → rs = (s.ctx c).layerReports)

/-- The reports of a context at a gate. -/
def gateReports (s : State) (c w : Nat) (x : Queue) (k : Context) : List (Nat × Nat × Int) :=
  if bitAt w 54 && !x.updating && !s.reducedLayer c (fld w 53 38) then k.layerReports ++ [(fld w 53 38, 0, x.gateMax)]
  else k.layerReports

/-- The context of a gate that lets its queue go on. -/
def closeGate (s : State) (c : Nat) (rs : List (Nat × Nat × Int)) : State :=
  s.setCtx c (pastGate (s.ctx c) (s.ctx c).queues (s.ctx c).draws rs)

theorem queue_closeGate (s : State) (c q : Nat) (rs : List (Nat × Nat × Int)) : (s.closeGate c rs).queue c q = s.queue c q :=
  queue_eq_of_queues (by rw [closeGate, setCtx_ctx]; rfl)

theorem ctx_closeGate (s : State) (c : Nat) (rs : List (Nat × Nat × Int)) :
    (s.closeGate c rs).ctx c = pastGate (s.ctx c) (s.ctx c).queues (s.ctx c).draws rs := setCtx_ctx ..

theorem closeGate_eq (s : State) (c : Nat) (rs : List (Nat × Nat × Int)) :
    s.closeGate c rs = { s with contexts := (s.closeGate c rs).contexts } := rfl

/-- The gate's command, answered. -/
def gateAnswered (s : State) (c q : Nat) (y : Cmd) : State :=
  s.modCmd c q y.index fun z => { z with result := some .ok, body := s.eventBody c y.word.toNat }

/-- A queue whose command of an index is answered. -/
def answeredAt (x : Queue) (idx : Word) (body : List Byte) : Queue :=
  { x with cmds := x.cmds.map fun z => if z.index = idx then { z with result := some .ok, body := body } else z }

theorem releaseGate_eq (s : State) (c q : Nat) (y : Cmd) : s.releaseGate c q y false =
    ((s.gateAnswered c q y).nextLayer c q y.index y.word.toNat).closeGate c
      (gateReports (s.gateAnswered c q y) c y.word.toNat ((s.gateAnswered c q y).queue c q)
        (((s.gateAnswered c q y).nextLayer c q y.index y.word.toNat).ctx c)) := rfl

theorem releaseGate_released {z : Cmd} (here : s.cmd c q y.index = some z) : Released s (s.releaseGate c q y false) c q y.index := by
  have bound := queue_lt_of_cmd here
  have marked : Requeues s (s.gateAnswered c q y) c q (answeredAt (s.queue c q) y.index (s.eventBody c y.word.toNat)) :=
    requeues_setQueue bound
  have cmd : (s.gateAnswered c q y).cmd c q y.index = some { z with result := some .ok, body := s.eventBody c y.word.toNat } :=
    (cmd_modCmd (f := fun z => { z with result := some .ok, body := s.eventBody c y.word.toNat }) fun _ => rfl).trans
      (congrArg (Option.map _) here)
  rw [releaseGate_eq]
  generalize s.gateAnswered c q y = s1 at marked cmd ⊢
  obtain ⟨d, next⟩ := marked.nextLayer (idx := y.index) y.word.toNat
  have updates : (s1.queue c q).updating = (s.queue c q).updating := by
    rw [marked.queue]
    rfl
  generalize s1.nextLayer c q y.index y.word.toNat = u at next ⊢
  have kept : u.cmd c q y.index = s1.cmd c q y.index := by
    rw [State.cmd, next.queue, State.cmd, marked.queue]
    rfl
  obtain ⟨qs, d', ctx⟩ := next.ctx
  have report : (s.queue c q).updating = true →
      gateReports s1 c y.word.toNat (s1.queue c q) (u.ctx c) = (s.ctx c).layerReports := by
    intro updating
    unfold gateReports
    rw [updates, updating, Bool.not_true, Bool.and_false, Bool.false_and, if_neg Bool.false_ne_true, ctx]
    rfl
  generalize gateReports s1 c y.word.toNat (s1.queue c q) (u.ctx c) = rs at report ⊢
  have answered : (u.closeGate c rs).cmd c q y.index =
      some { z with result := some .ok, body := s.eventBody c y.word.toNat } := by
    rw [State.cmd, queue_closeGate]
    exact kept.trans cmd
  refine ⟨?_, by rw [cmdIs, answered]; rfl, ?_, ?_, ?_, qs, d', rs, ?_, report⟩
  · have frame := next.frame
    rw [closeGate_eq]
    generalize (u.closeGate c rs).contexts = co
    generalize u.contexts = co' at frame
    rw [frame]
  · rw [queue_closeGate, next.queue]; rfl
  · rw [queue_closeGate, next.queue]; rfl
  · rw [queue_closeGate, next.queue]; rfl
  · rw [ctx_closeGate, ctx]
    rfl

theorem heldEvent_spec {kind : Nat} (held : s.heldEvent c q kind = some y) :
    y ∈ (s.queue c q).cmds ∧ (s.queue c q).state = .gated := by
  unfold heldEvent at held
  by_cases gated : (s.queue c q).state = .gated
  · rw [if_pos gated] at held
    exact ⟨List.mem_of_find?_eq_some held, gated⟩
  · rw [if_neg gated] at held
    cases held

/-- The state in which a gate is judged. -/
def ungated (s : State) (c q : Nat) : State := s.setQueue c q { s.queue c q with passing := false }

theorem ungated_ctx (s : State) (c q : Nat) : ∃ qs, (s.ungated c q).ctx c = requeued (s.ctx c) qs (s.ctx c).draws :=
  ⟨_, setCtx_ctx ..⟩

theorem ungated_eq (s : State) (c q : Nat) : s.ungated c q = { s with contexts := (s.ungated c q).contexts } := rfl

theorem layerAt_congr {t : State} (frame : t = { s with contexts := t.contexts }) (table : (t.ctx c).ltabAddr = (s.ctx c).ltabAddr)
    (i : Nat) : t.layerAt c i = s.layerAt c i := by
  unfold layerAt
  rw [table]
  generalize t.contexts = co at frame
  rw [frame]
  rfl

theorem layerOf_congr {t : State} (frame : t = { s with contexts := t.contexts }) (table : (t.ctx c).ltabAddr = (s.ctx c).ltabAddr)
    (count : (t.ctx c).ltabCount = (s.ctx c).ltabCount) (n : Nat) : t.layerOf c n = s.layerOf c n := by
  unfold layerOf
  rw [count]
  simp only [layerAt_congr frame table]

theorem layerOf_ungated (s : State) (c q n : Nat) : (s.ungated c q).layerOf c n = s.layerOf c n := by
  obtain ⟨qs, ctx⟩ := s.ungated_ctx c q
  exact layerOf_congr (ungated_eq ..) (by rw [ctx]; rfl) (by rw [ctx]; rfl) n

theorem replayOf_congr {t : State} (ptn : t.ckpPtn = s.ckpPtn) (ckp : t.ckp = s.ckp) (own : (t.ctx c).ptn = (s.ctx c).ptn) :
    t.replayOf c = s.replayOf c := by
  unfold replayOf
  rw [ptn, ckp, own]

theorem replayOf_ungated (s : State) (c q : Nat) : (s.ungated c q).replayOf c = s.replayOf c := by
  obtain ⟨qs, ctx⟩ := s.ungated_ctx c q
  exact replayOf_congr rfl rfl (by rw [ctx]; rfl)

theorem markStep_off (off : (s.ctx c).atStep = false) : s.markStep c q y = s := by
  unfold markStep
  dsimp only
  rw [off]
  rfl

theorem replayAhead_none (none_ : s.replayOf c = none) : s.replayAhead c q = s := by
  unfold replayAhead
  rw [none_]

theorem markStep_ungated (off : (s.ctx c).atStep = false) :
    (s.setQueue c q { s.queue c q with passing := false }).markStep c q y = s.ungated c q := by
  refine markStep_off ?_
  obtain ⟨qs, ctx⟩ := s.ungated_ctx c q
  exact (congrArg Context.atStep ctx).trans off

/-- The state in which a gate with bad values is judged. -/
def marksBad (s : State) (c q : Nat) : State :=
  (s.ungated c q).setCtx c { (s.ungated c q).ctx c with
    stepStatus := ((s.ungated c q).ctx c).stepStatus ||| BitVec.ofNat 32 (2 ^ 16 * ((s.queue c q).gateBad % 4)) }

/-- What a gate with bad values does: it runs the layer in the next wider format, or asks for the step to be skipped. -/
def badGate (s : State) (c q : Nat) (y : Cmd) (i : Nat) (r : LayerRec) : State :=
  match nextWithin (s.ctx c).tx2 r.cur r.ceil with
  | some f => (s.marksBad c q).escalate c q y i r f
  | none => ((s.marksBad c q).askSkip c i r).releaseGate c q y false

section
variable (held : s.heldEvent c q 1 = some y) (run : (s.ctx c).state = .running) (due : (s.ctx c).captureDue = false)
  (off : (s.ctx c).atStep = false)
include held run due off

/-- A gate without a layer to judge lets its queue go on. -/
theorem passGate_none (none_ : (if (s.queue c q).updating then none else s.layerOf c (fld y.word.toNat 53 38)) = none) :
    s.passGate c q = (s.ungated c q).releaseGate c q y false := by
  unfold passGate
  rw [held]
  dsimp only
  rw [if_neg (fun h => h run), due, if_neg Bool.false_ne_true, off, if_neg (by rintro ⟨h, -⟩; cases h), markStep_ungated off,
    layerOf_ungated, none_]

theorem passGate_some (replay : s.replayOf c = none) (upd : (s.queue c q).updating = false) {i : Nat} {r : LayerRec}
    (layer : s.layerOf c (fld y.word.toNat 53 38) = some (i, r)) (whole : bitAt r.flags 0 = false) :
    s.passGate c q = if (s.queue c q).gateBad = 0 then (s.ungated c q).releaseGate c q y false else s.badGate c q y i r := by
  unfold passGate
  rw [held]
  dsimp only
  rw [if_neg (fun h => h run), due, if_neg Bool.false_ne_true, off, if_neg (by rintro ⟨h, -⟩; cases h), markStep_ungated off, upd,
    if_neg Bool.false_ne_true, layerOf_ungated, layer]
  dsimp only
  rw [replayOf_ungated, replay, whole]
  rfl

end

theorem layerGate_of_stay {t : State} (passed : s.passGate c q = t) (stay : (t.queue c q).gateFrom = (s.queue c q).gateFrom) :
    s.layerGate c q = t := by
  unfold layerGate
  rw [passed]
  exact if_pos stay

theorem layerGate_of_alone {t : State} (passed : s.passGate c q = t) (alone : t.replayOf c = none) : s.layerGate c q = t := by
  unfold layerGate
  rw [passed]
  dsimp only
  rw [replayAhead_none alone, ite_self]

/-- A gate that lets its queue go on, with nothing to replay. -/
theorem layerGate_released {u t : State} (passed : s.passGate c q = t) (released : Released u t c q idx)
    (ptn : u.ckpPtn = s.ckpPtn) (ckp : u.ckp = s.ckp) (own : (u.ctx c).ptn = (s.ctx c).ptn) (replay : s.replayOf c = none) :
    s.layerGate c q = t := by
  refine layerGate_of_alone passed ((replayOf_congr (s := s) ?_ ?_ ?_).trans replay)
  · rw [released.frame]
    exact ptn
  · rw [released.frame]
    exact ckp
  · obtain ⟨qs, d, rs, ctx, -⟩ := released.ctx
    rw [ctx]
    exact own

/-! ### Escalation (R139) -/

/-- What rewriting queued words leaves of the context: everything but its queues, which keep their gates. -/
structure Rewords (s t : State) (c : Nat) : Prop where
  frame : ∃ co m ls p o, t = { s with contexts := co, mem := m, lines := ls, plk := p, out := o }
  ctx : ∃ qs, t.ctx c = requeued (s.ctx c) qs (s.ctx c).draws ∧ qs.map (·.gateFrom) = (s.ctx c).queues.map (·.gateFrom)

theorem Rewords.refl (s : State) (c : Nat) : Rewords s s c :=
  ⟨⟨s.contexts, s.mem, s.lines, s.plk, s.out, rfl⟩, (s.ctx c).queues, rfl, rfl⟩

theorem Rewords.trans {t u : State} (h : Rewords s t c) (g : Rewords t u c) : Rewords s u c := by
  constructor
  · obtain ⟨_, _, _, _, _, h'⟩ := h.frame
    obtain ⟨_, _, _, _, _, g'⟩ := g.frame
    rw [h'] at g'
    exact ⟨_, _, _, _, _, g'⟩
  · obtain ⟨qs, h', hq⟩ := h.ctx
    obtain ⟨qs', g', gq⟩ := g.ctx
    rw [h'] at g' gq
    exact ⟨qs', g', gq.trans hq⟩

theorem Rewords.foldl {α : Type} {f : State → α → State} (step : ∀ s a, Rewords s (f s a) c) (l : List α) (s : State) :
    Rewords s (l.foldl f s) c :=
  List.foldlRecOn (motive := fun t : State => Rewords s t c) l f (refl s c) fun t ht a _ => ht.trans (step t a)

theorem Rewords.of_wrote {t : State} (h : Wrote s t) : Rewords s t c := by
  obtain ⟨m, ls, p, o, h'⟩ := h
  have same : t.ctx c = s.ctx c := by
    rw [h']
    rfl
  exact ⟨⟨s.contexts, m, ls, p, o, h'⟩, (s.ctx c).queues, same, rfl⟩

theorem map_set_of_eq {α β : Type} {f : α → β} {l : List α} {x d : α} {q : Nat} (same : f x = f (l.getD q d)) :
    (l.set q x).map f = l.map f := by
  rw [List.map_set]
  refine List.ext_getElem (by simp) fun n h1 h2 => ?_
  rw [List.length_set, List.length_map] at h1
  rw [List.getElem_set]
  split
  next here =>
    subst here
    simp [same, h1]
  next => rfl

theorem Rewords.setQueue {x : Queue} (same : x.gateFrom = (s.queue c q).gateFrom) : Rewords s (s.setQueue c q x) c :=
  ⟨⟨_, s.mem, s.lines, s.plk, s.out, rfl⟩, (s.ctx c).queues.set q x, setCtx_ctx .., map_set_of_eq (d := Queue.reset) same⟩

theorem wrote_foldl {α : Type} {f : State → α → State} (step : ∀ s a, Wrote s (f s a)) (l : List α) (s : State) :
    Wrote s (l.foldl f s) :=
  List.foldlRecOn (motive := Wrote s) l f (.refl s) fun t ht a _ => ht.trans (step t a)

theorem rewords_putWords (s : State) (c q : Nat) (lo : Word) (ws : List Nat) : Rewords s (s.putWords c q lo ws) c := by
  have posts (l : List (Nat × Nat)) (now : List Nat) : Wrote s (l.foldl (fun s p =>
      if now.getD p.2 0 = p.1 then s else s.post (s.ringAt c q (lo + BitVec.ofNat 32 p.2)) (leBytes 16 p.1)) s) := by
    refine wrote_foldl (fun s p => ?_) l s
    split
    · exact .refl s
    · exact wrote_post ..
  unfold putWords
  extract_lets x now kept mine
  have before := posts ws.zipIdx now
  refine (Rewords.of_wrote before).trans (.setQueue ?_)
  obtain ⟨m, ls, p, o, h⟩ := before
  rw [h]
  rfl

theorem rewords_escalateWords (s : State) (c q layer : Nat) (backward : Bool) : Rewords s (s.escalateWords c q layer backward) c := by
  unfold escalateWords
  extract_lets x tx2 all ws p
  refine (rewords_putWords ..).trans (.foldl (fun s o => ?_) _ _)
  dsimp only
  split
  · exact .refl s c
  · exact rewords_putWords ..

theorem escalateQueued_words {backward : Bool} {r : LayerRec} {fmt : Nat} (whole : bitAt r.flags 0 = false) :
    s.escalateQueued c q backward r fmt = s.escalateWords c q r.layer backward := by
  unfold escalateQueued
  dsimp only
  rw [whole, Bool.and_false]
  rfl

/-- A context that has noted an escalation. -/
def noted (k : Context) (layer : Nat) : Context :=
  { k with
    attempt := k.attempt + 1, escalations := satAdd 16 k.escalations 1, heldNow := k.heldNow ++ [layer],
    descended := k.descended.filter (· != layer) }

theorem noteEscalation_spec {i fmt : Nat} {pass : Bool} {r : LayerRec} (apart : s.ckpPtn = none) :
    (s.noteEscalation c i pass r fmt).ctx c = noted (s.ctx c) r.layer ∧
    bitAt ((s.noteEscalation c i pass r fmt).ev evNum).value 0 = true ∧
    (s.noteEscalation c i pass r fmt).pending = s.pending ∧ (s.noteEscalation c i pass r fmt).variant = s.variant := by
  unfold noteEscalation
  extract_lets k s2 s3 k'
  have e2 : s2 = s := if_neg (by rw [apart]; nofun)
  obtain ⟨m, ls, p, o, wrote⟩ := wrote_post (s2.raiseEv evNum 0)
    (((s2.raiseEv evNum 0).ctx c).ltabAddr * 4096 + 16 * i) (escalatedRec k r fmt).bytes
  have e3 : s3 = { s2.raiseEv evNum 0 with mem := m, lines := ls, plk := p, out := o } := wrote
  have same : s3.ctx c = s.ctx c := by
    rw [e3, e2, State.raiseEv_eq]
    rfl
  refine ⟨(setCtx_ctx ..).trans ?_, ?_, ?_, ?_⟩
  · unfold k'
    rw [same]
    rfl
  · have told := raiseEv_sets s2 evNum 0
    change bitAt (s3.ev evNum).value 0 = true
    rw [e3]
    exact told
  · change s3.pending = _
    rw [e3, e2, State.raiseEv_eq]
  · change s3.variant = _
    rw [e3, e2, State.raiseEv_eq]

/-- What counting back the events of a layer leaves of the context: everything but its counters. -/
theorem uncount_spec (s : State) (c q : Nat) (gate : Word) : s.uncount c q gate = { s with contexts := (s.uncount c q gate).contexts } ∧
    ∃ ss, (s.uncount c q gate).ctx c = { s.ctx c with sync := ss } := by
  unfold uncount
  extract_lets x
  refine List.foldlRecOn (motive := fun t : State => t = { s with contexts := t.contexts } ∧ ∃ ss, t.ctx c = { s.ctx c with sync := ss })
    _ _ ⟨rfl, (s.ctx c).sync, rfl⟩ fun t ht w _ => ?_
  obtain ⟨frame, ss, ctx⟩ := ht
  split
  · refine ⟨?_, _, (setCtx_ctx ..).trans (by rw [ctx])⟩
    have set : ∀ k, t.setCtx c k = { t with contexts := (t.setCtx c k).contexts } := fun _ => rfl
    rw [set]
    generalize (t.setCtx c _).contexts = co
    generalize t.contexts = co' at frame
    rw [frame]
  · exact ⟨frame, ss, ctx⟩

/-- A queue that runs its layer again. -/
def rewound (x : Queue) : Queue :=
  { x with
    head := x.gateFrom, done := x.gateFrom, window := x.gateWindow, cmds := [], chain := [], state := .active, gateBad := 0,
    gateMax := -128, gateSeen := false }

/-- A context whose queue runs a layer again. -/
def recounted (k : Context) (qs : List Queue) (d : DWord) (ss : List Word) : Context := { requeued k qs d with sync := ss }

theorem rewindLayer_spec (bound : q < (s.ctx c).queues.length) (gate : Word) :
    (s.rewindLayer c q gate).queue c q = rewound (s.queue c q) ∧
    (∃ ss d qs, (s.rewindLayer c q gate).ctx c = recounted (s.ctx c) qs d ss) ∧
    ∃ co, s.rewindLayer c q gate = { s with contexts := co } := by
  obtain ⟨frame, ss, ctx⟩ := s.uncount_spec c q gate
  unfold rewindLayer
  extract_lets s1 x _ s2
  have queues : s1.queue c q = s.queue c q := queue_eq_of_queues (by change (s1.ctx c) = _ at ctx; rw [ctx])
  have there : q < (s2.ctx c).queues.length := by
    unfold s2
    rw [setCtx_ctx]
    change q < (s1.ctx c).queues.length
    change (s1.ctx c) = _ at ctx
    rw [ctx]
    exact bound
  refine ⟨(queue_setQueue there).trans ?_, ⟨ss, x.gateDraws, (s2.ctx c).queues.set q (rewound x), (setCtx_ctx ..).trans ?_⟩, ?_⟩
  · unfold x
    rw [queues]
    rfl
  · have halfway : s2.ctx c = requeued (s1.ctx c) (s1.ctx c).queues x.gateDraws := setCtx_ctx ..
    change (s1.ctx c) = _ at ctx
    rw [ctx] at halfway
    rw [halfway]
    rfl
  · have set : ∀ z, s2.setQueue c q z = { s1 with contexts := (s2.setQueue c q z).contexts } := fun _ => rfl
    rw [set]
    generalize (s2.setQueue c q _).contexts = co
    change s1 = _ at frame
    generalize s1.contexts = co' at frame
    rw [frame]
    exact ⟨co, rfl⟩

/-- The queue of an escalated layer begins it again, and its context has noted why. -/
theorem escalate_spec {i fmt : Nat} {r : LayerRec} (apart : s.ckpPtn = none) (whole : bitAt r.flags 0 = false)
    (bound : q < (s.ctx c).queues.length) :
    (∃ x, (s.escalate c q y i r fmt).queue c q = rewound x ∧ x.gateFrom = (s.queue c q).gateFrom) ∧
    ((s.escalate c q y i r fmt).ctx c).attempt = (s.ctx c).attempt + 1 ∧
    ((s.escalate c q y i r fmt).ctx c).escalations = satAdd 16 (s.ctx c).escalations 1 ∧
    r.layer ∈ ((s.escalate c q y i r fmt).ctx c).heldNow ∧
    bitAt ((s.escalate c q y i r fmt).ev evNum).value 0 = true ∧
    (s.escalate c q y i r fmt).pending = s.pending ∧ (s.escalate c q y i r fmt).variant = s.variant := by
  unfold escalate
  extract_lets pass s4
  have words := rewords_escalateWords s c q r.layer pass
  rw [← escalateQueued_words (fmt := fmt) whole] at words
  obtain ⟨_, _, _, _, _, frame⟩ := words.frame
  obtain ⟨qs, ctx, gates⟩ := words.ctx
  generalize hu : s.escalateQueued c q pass r fmt = u at frame ctx
  have uptn : u.ckpPtn = none := by
    rw [frame]
    exact apart
  obtain ⟨notes, told, pending, variant⟩ := noteEscalation_spec (s := u) (c := c) (i := i) (fmt := fmt) (pass := pass) (r := r) uptn
  have e4 : s4 = u.noteEscalation c i pass r fmt := by
    unfold s4
    rw [hu]
  rw [← e4] at notes told pending variant
  generalize hv : (s4.chansOf fun ch => (tget s4.jobs ch.job).any fun j => j.teacherCtx == c).foldl
    (fun (s : State) n => s.modChan n fun ch => { ch with escalated := true }) s4 = v
  have closes : Closes s4 v := by
    rw [← hv]
    exact .foldl (fun s n => closes_modChan ..) _ s4
  obtain ⟨_, _, _, _, _, _, _, _, vframe⟩ := closes
  have vctx : v.ctx c = noted (requeued (s.ctx c) qs (s.ctx c).draws) r.layer := by
    rw [← ctx, ← notes, vframe]
    rfl
  have there : q < (v.ctx c).queues.length := by
    have size := congrArg List.length gates
    rw [List.length_map, List.length_map] at size
    rw [vctx]
    exact bound.trans_eq size.symm
  have gate : (v.queue c q).gateFrom = (s.queue c q).gateFrom := by
    have nth := congrArg (fun l => l.getD q Queue.reset.gateFrom) gates
    rw [List.getD_map, List.getD_map] at nth
    rw [queue, vctx]
    exact nth
  obtain ⟨queue, ⟨ss, d, qs', kctx⟩, co, kframe⟩ := rewindLayer_spec there y.index
  refine ⟨⟨_, queue, gate⟩, ?_, ?_, ?_, ?_, ?_, ?_⟩
  · rw [kctx, vctx]; rfl
  · rw [kctx, vctx]; rfl
  · rw [kctx, vctx]
    exact List.mem_append_right _ (List.mem_singleton_self _)
  · rw [kframe]
    change bitAt (v.ev evNum).value 0 = true
    rw [vframe]
    exact told
  · rw [kframe]
    change v.pending = _
    rw [vframe]
    exact pending.trans (by rw [frame])
  · rw [kframe]
    change v.variant = _
    rw [vframe]
    exact variant.trans (by rw [frame])

/-! ### Steps that are to be skipped (R141) -/

/-- A context that asks for its step to be skipped. -/
def asking (k : Context) (layer : Nat) : Context :=
  { k with
    skipReq := true, heldNow := k.heldNow ++ [layer], stepStatus := k.stepStatus ||| BitVec.ofNat 32 (layer + 2 ^ 19) }

theorem askSkip_spec (s : State) (c i : Nat) (r : LayerRec) : (s.askSkip c i r).ctx c = asking (s.ctx c) r.layer ∧
    ∃ co m ls p o, s.askSkip c i r = { s with contexts := co, mem := m, lines := ls, plk := p, out := o } := by
  unfold askSkip putLayer
  extract_lets k
  have wrote := wrote_post (s.setCtx c (asking k r.layer)) (((s.setCtx c (asking k r.layer)).ctx c).ltabAddr * 4096 + 16 * i)
    { r with hold := k.escHold * 2 ^ r.doublings }.bytes
  obtain ⟨m, ls, p, o, frame⟩ := wrote
  refine ⟨?_, _, m, ls, p, o, frame⟩
  have ctx := congrArg (fun t : State => t.ctx c) frame
  exact ctx.trans (setCtx_ctx ..)

/-- A context whose gate has seen bad values. -/
def seenBad (k : Context) (qs : List Queue) (st : Word) : Context := { requeued k qs k.draws with stepStatus := st }

theorem marksBad_ctx (s : State) (c q : Nat) :
    ∃ st, (s.marksBad c q).ctx c = seenBad (s.ctx c) ((s.ctx c).queues.set q { s.queue c q with passing := false }) st := by
  have ctx : (s.ungated c q).ctx c = requeued (s.ctx c) ((s.ctx c).queues.set q { s.queue c q with passing := false }) (s.ctx c).draws :=
    setCtx_ctx ..
  refine ⟨(s.ctx c).stepStatus ||| BitVec.ofNat 32 (2 ^ 16 * ((s.queue c q).gateBad % 4)), (setCtx_ctx ..).trans ?_⟩
  rw [ctx]
  rfl

theorem marksBad_eq (s : State) (c q : Nat) : s.marksBad c q = { s with contexts := (s.marksBad c q).contexts } := rfl

/-! ### The end of a step -/

theorem stepReady_solo (solo : s.net.state = .solo) (apart : s.ckpPtn = none) : s.stepReady c = true := by
  simp [stepReady, solo, apart]

theorem replayOf_apart (apart : s.ckpPtn = none) : s.replayOf c = none := if_neg (by rw [apart]; nofun)

theorem openingOf_apart (apart : s.ckpPtn = none) : s.openingOf c = none := if_neg (by rw [apart]; nofun)

/-- What the outcome of a step does to its context. -/
def stepOutcome (s : State) (c : Nat) (skip : Bool) : State := if skip then s.skipStep c else s.completeStep c

/-- A context at the start of its next step. -/
def stepped (k : Context) (ended : Word) : Context :=
  { k with
    step := ended + 1, stepStatus := 0, skipReq := false, layerReports := [], heldNow := [], losses := [], attempt := 0,
    atStep := true }

/-- The gate of a step, answered, and its queue's next layer begun. -/
def gateOpens (s : State) (c q : Nat) (y : Cmd) (skip : Bool) : State :=
  let t := ((s.gateAnswered c q y).startBlock c).startLayer c q y.index
  t.setQueue c q { t.queue c q with stepGate := false, passing := skip, updating := true }

theorem takeDecision_solo (solo : s.net.state = .solo) (apart : s.ckpPtn = none) : s.takeDecision c = s := by
  unfold takeDecision
  extract_lets k
  rw [replayOf_apart apart, openingOf_apart apart, solo]

theorem replaySkipped_apart (apart : s.ckpPtn = none) : s.replaySkipped c = s := by
  unfold replaySkipped
  rw [replayOf_apart apart]

theorem replayRoster_apart (apart : s.ckpPtn = none) (n : Nat) : s.replayRoster c n = s := by
  unfold replayRoster
  rw [replayOf_apart apart]

theorem stepStartLog_apart (apart : s.ckpPtn = none) (skip : Bool) : s.stepStartLog c skip = s := if_neg (by rw [apart]; nofun)

theorem checkpointDue_apart (apart : s.ckpPtn = none) (n : Word) : s.checkpointDue c n = s := if_pos (by rw [apart]; nofun)

/-- Alone, with no checkpoint and no layers, the end of a step is its outcome, the new constants and the queue's next layer. -/
theorem passStep_solo {skip : Bool} (apart : s.ckpPtn = none) (dptn : (s.stepOutcome c skip).ckpPtn = none)
    (dsolo : (s.stepOutcome c skip).net.state = .solo) (layers : ((s.stepOutcome c skip).ctx c).ltabCount = 0) :
    s.passStep c q y skip =
      (((s.stepOutcome c skip).setCtx c (stepped ((s.stepOutcome c skip).ctx c) (s.ctx c).step)).patchStep c s).gateOpens c q y skip := by
  unfold passStep
  extract_lets ended s0 s1 k k2 s2 s3 body s4 x
  have e0 : s0 = s.stepOutcome c skip := by
    unfold s0
    rw [replaySkipped_apart apart]
    exact takeDecision_solo (c := c) dsolo dptn
  have e1 : s1 = s.stepOutcome c skip := by
    unfold s1
    rw [e0]
    exact replayRoster_apart dptn _
  have ek : k2 = (s.stepOutcome c skip).ctx c := by
    unfold k2
    rw [replayOf_apart apart]
    unfold k
    rw [e1]
    rfl
  have e2 : s2 = (s.stepOutcome c skip).setCtx c (stepped ((s.stepOutcome c skip).ctx c) (s.ctx c).step) := by
    unfold s2
    rw [ek, e1]
    rfl
  have p2 : s2.ckpPtn = none := by
    rw [e2]
    exact dptn
  have e3 : s3 = s2.patchStep c s := by
    unfold s3
    rw [ek, layers, stepStartLog_apart p2]
    exact congrArg (State.patchStep · c s) (checkpointDue_apart p2 ended)
  rw [← e2, ← e3]
  rfl

theorem gateOpens_spec {z : Cmd} (here : s.cmd c q y.index = some z) (skip : Bool) :
    (s.gateOpens c q y skip).cmdIs c q y.index (fun z => z.result == some .ok) ∧
    ((s.gateOpens c q y skip).queue c q).state = .active ∧ ((s.gateOpens c q y skip).queue c q).passing = skip ∧
    ((s.gateOpens c q y skip).queue c q).stepGate = false ∧ ((s.gateOpens c q y skip).queue c q).updating = true ∧
    s.gateOpens c q y skip = { s with contexts := (s.gateOpens c q y skip).contexts } ∧
    ∃ qs d, (s.gateOpens c q y skip).ctx c = requeued (s.ctx c) qs d := by
  have marked : Requeues s (s.gateAnswered c q y) c q (answeredAt (s.queue c q) y.index (s.eventBody c y.word.toNat)) :=
    requeues_setQueue (queue_lt_of_cmd here)
  have cmd : (s.gateAnswered c q y).cmd c q y.index = some { z with result := some .ok, body := s.eventBody c y.word.toNat } :=
    (cmd_modCmd (f := fun z => { z with result := some .ok, body := s.eventBody c y.word.toNat }) fun _ => rfl).trans
      (congrArg (Option.map _) here)
  rw [State.cmd, marked.queue] at cmd
  have started := marked.startBlock.startLayer (idx := y.index)
  unfold gateOpens
  extract_lets t
  change Requeues s t c q _ at started
  have ends := started.trans (requeues_setQueue (x := { t.queue c q with stepGate := false, passing := skip, updating := true })
    started.bound)
  generalize t.setQueue c q { t.queue c q with stepGate := false, passing := skip, updating := true } = v at ends ⊢
  have queue := ends.queue
  rw [started.queue] at queue
  refine ⟨?_, by rw [queue]; rfl, by rw [queue], by rw [queue], by rw [queue], ends.frame, ends.ctx⟩
  rw [cmdIs, State.cmd, queue]
  exact (congrArg (Option.any _) cmd).trans rfl

theorem wrote_putConstant (s : State) (c i n bits : Nat) : Wrote s (s.putConstant c i n bits) := by
  unfold putConstant
  dsimp only
  split
  · exact wrote_post ..
  · exact .refl s

theorem wrote_patchConstants (s : State) (c : Nat) (old : State) : Wrote s (s.patchConstants c old) := by
  unfold patchConstants
  extract_lets s1
  refine Wrote.trans (t := s1) (wrote_foldl (fun s p => ?_) _ s) (wrote_foldl (fun s p => wrote_putConstant ..) _ s1)
  split
  · exact wrote_putConstant ..
  · exact .refl s

/-- A queue whose step begins at its head. -/
def stepBegins (x : Queue) : Queue := { x with stepFrom := x.head, stepWindow := x.window }

theorem patchStep_spec (layers : (s.ctx c).ltabCount = 0) (old : State) :
    (s.patchStep c old).ctx c = requeued (s.ctx c) ((s.ctx c).queues.map stepBegins) (s.ctx c).draws ∧
    ∃ co m ls p o, s.patchStep c old = { s with contexts := co, mem := m, lines := ls, plk := p, out := o } := by
  obtain ⟨m, ls, p, o, frame⟩ := wrote_patchConstants s c old
  have same : (s.patchConstants c old).ctx c = s.ctx c := by
    rw [frame]
    rfl
  have whole : s.patchStep c old = (s.patchConstants c old).setCtx c
      (requeued ((s.patchConstants c old).ctx c) (((s.patchConstants c old).ctx c).queues.map stepBegins)
        ((s.patchConstants c old).ctx c).draws) := by
    unfold patchStep
    dsimp only
    rw [same, if_pos layers, same]
    rfl
  rw [whole, same]
  refine ⟨setCtx_ctx .., ?_⟩
  have set : ∀ k, (s.patchConstants c old).setCtx c k =
    { s.patchConstants c old with contexts := ((s.patchConstants c old).setCtx c k).contexts } := fun _ => rfl
  rw [set]
  generalize ((s.patchConstants c old).setCtx c _).contexts = co
  rw [frame]
  exact ⟨co, m, ls, p, o, rfl⟩

theorem cmd_of_stepBegins {t : State} {d : DWord} (ctx : t.ctx c = requeued (s.ctx c) ((s.ctx c).queues.map stepBegins) d) :
    t.cmd c q idx = s.cmd c q idx := by
  have cmds : (t.queue c q).cmds = (s.queue c q).cmds := by
    unfold queue
    rw [ctx]
    change (((s.ctx c).queues.map stepBegins).getD q Queue.reset).cmds = _
    rw [List.getD_eq_getElem?_getD, List.getD_eq_getElem?_getD, List.getElem?_map]
    cases (s.ctx c).queues[q]? <;> rfl
  unfold cmd
  rw [cmds]

/-- What the outcome of a step leaves: the context's step and queues, and everything the next step is decided by. -/
structure Outcome (s t : State) (c h : Nat) : Prop where
  queues : (t.ctx c).queues = (s.ctx c).queues
  rate : (t.ctx c).lrH = h
  layers : (t.ctx c).ltabCount = (s.ctx c).ltabCount
  ptn : t.ckpPtn = s.ckpPtn
  net : t.net = s.net
  pending : t.pending = s.pending
  variant : t.variant = s.variant

theorem completeStep_outcome (layers : (s.ctx c).ltabCount = 0) (rate : (s.ctx c).lrRecover = 0) :
    Outcome s (s.completeStep c) c (s.ctx c).lrH ∧ s.completeStep c = { s with contexts := (s.completeStep c).contexts } := by
  have keeps : recovers (s.ctx c) = false := by simp [recovers, rate]
  have whole : s.completeStep c = s.setCtx c { s.ctx c with
      clean := satAdd 16 (s.ctx c).clean 1, sinceRecover := (s.ctx c).sinceRecover + 1, lrH := (s.ctx c).lrH } := by
    unfold completeStep
    dsimp only
    rw [layers, keeps]
    rfl
  rw [whole]
  exact ⟨⟨by rw [setCtx_ctx], by rw [setCtx_ctx], by rw [setCtx_ctx], rfl, rfl, rfl, rfl⟩, rfl⟩

theorem skipStep_outcome (apart : s.ckpPtn = none) :
    Outcome s (s.skipStep c) c (Nat.min 20 ((s.ctx c).lrH + 1)) ∧ bitAt ((s.skipStep c).ev evNum).value 1 = true := by
  unfold skipStep
  extract_lets k floor h s1 s2 s3
  have e2 : s2 = s1 := if_neg (by change s.ckpPtn ≠ _; rw [apart]; nofun)
  have closes : Closes s1 (s2.releaseStep c k.step) := by
    rw [e2]
    exact .foldl (fun s i => closes_modChan ..) _ s1
  obtain ⟨_, _, _, _, _, _, _, _, frame⟩ := closes
  have told : bitAt (s3.ev evNum).value 1 = true := raiseEv_sets ..
  have first : Outcome s s3 c (Nat.min 20 ((s.ctx c).lrH + 1)) := by
    unfold s3
    rw [State.raiseEv_eq, frame]
    have queues : (s1.ctx c).queues = (s.ctx c).queues := by
      unfold s1
      rw [setCtx_ctx]
    have rate : (s1.ctx c).lrH = h := by
      unfold s1
      rw [setCtx_ctx]
    have layers : (s1.ctx c).ltabCount = (s.ctx c).ltabCount := by
      unfold s1
      rw [setCtx_ctx]
    exact ⟨queues, rate, layers, rfl, rfl, rfl, rfl⟩
  split
  · refine ⟨?_, raiseEv_bits s3 evNum 2 evNum 1 told⟩
    rw [State.raiseEv_eq]
    exact ⟨first.queues, first.rate, first.layers, first.ptn, first.net, first.pending, first.variant⟩
  · exact ⟨first, told⟩

/-- What the start of the next step leaves of the outcome of the last. -/
theorem passStep_spec {skip : Bool} {h : Nat} {z : Cmd} (solo : s.net.state = .solo) (apart : s.ckpPtn = none)
    (layers : (s.ctx c).ltabCount = 0) (here : s.cmd c q y.index = some z) (outcome : Outcome s (s.stepOutcome c skip) c h) :
    (∃ u, s.passStep c q y skip = u.gateOpens c q y skip ∧ u.cmd c q y.index = some z ∧ (u.ctx c).step = (s.ctx c).step + 1 ∧
      (u.ctx c).lrH = h ∧ (u.ctx c).stepStatus = 0 ∧
      ∃ co m ls p o, u = { s.stepOutcome c skip with contexts := co, mem := m, lines := ls, plk := p, out := o }) := by
  have whole := passStep_solo (q := q) (y := y) apart (outcome.ptn.trans apart) (by rw [outcome.net]; exact solo)
    (outcome.layers.trans layers)
  generalize s.stepOutcome c skip = d at outcome whole ⊢
  have set : (d.setCtx c (stepped (d.ctx c) (s.ctx c).step)).ctx c = stepped (d.ctx c) (s.ctx c).step := setCtx_ctx ..
  obtain ⟨ctx, co, m, ls, p, o, frame⟩ := patchStep_spec (s := d.setCtx c (stepped (d.ctx c) (s.ctx c).step)) (c := c)
    (by rw [set]; exact outcome.layers.trans layers) s
  refine ⟨_, whole, ?_, ?_, ?_, ?_, co, m, ls, p, o, frame⟩
  · refine (cmd_of_stepBegins ctx).trans ((cmd_eq_of_queues (s := s) ?_).trans here)
    rw [set]
    exact outcome.queues
  · rw [ctx, set]; rfl
  · rw [ctx, set]
    exact outcome.rate
  · rw [ctx, set]; rfl

theorem stepGateRelease_eq (held : ([0, 1, 2, 3].findSome? fun p => (s.heldEvent c p 2).map fun z => (p, z)) = some (q, y))
    (run : (s.ctx c).state = .running) (solo : s.net.state = .solo) (apart : s.ckpPtn = none) :
    s.stepGateRelease c = s.passStep c q y (s.ctx c).skipReq := by
  have skip : s.stepSkip c = (s.ctx c).skipReq := by
    unfold stepSkip
    rw [solo]
  unfold stepGateRelease
  rw [held]
  dsimp only
  rw [if_pos ⟨run, stepReady_solo solo apart⟩, replayOf_apart apart]
  dsimp only
  rw [openingOf_apart apart]
  dsimp only
  rw [skip]

theorem heldEvent_of_first (held : ([0, 1, 2, 3].findSome? fun p => (s.heldEvent c p 2).map fun z => (p, z)) = some (q, y)) :
    s.heldEvent c q 2 = some y := by
  obtain ⟨p, _, found⟩ := List.exists_of_findSome?_eq_some held
  obtain ⟨z, here, same⟩ := Option.map_eq_some_iff.mp found
  obtain ⟨rfl, rfl⟩ := Prod.mk.inj same
  exact here

end State

section
open State
variable {s : State} {c q : Nat} {idx : Word} {y : Cmd}

/-- Clauses on a fence that starts. -/
theorem fence_starts (live : s.flt.fatal = false) (run : (s.ctx c).state = .running) (here : s.cmd c q idx = some y)
    (new : y.started = false) (none_ : y.result = none) (active : (s.queue c q).state = .active) (op : cmdOpcode y.word = 11) :
    (s.fenceHolds c q y = true → ∃ t, exec (.fence c q idx) s = .next t ∧ t.cmdIs c q idx (fun z => z.result == some .ok) ∧
      (t.queue c q).state = .active ∧ t = { s with contexts := t.contexts }) ∧
    (s.fenceHolds c q y = false → ∃ t, exec (.fence c q idx) s = .next t ∧
      t.cmdIs c q idx (fun z => z.started && z.result == none && z.waitFrom == some (s.groupTime (s.queueDie c q))) ∧
      (t.queue c q).state = .waiting ∧ t = { s with contexts := t.contexts }) := by
  have index : y.index = idx := by simpa using List.find?_some here
  have starts := fenceStart_now here new none_ active op run
  refine ⟨fun holds => ?_, fun waits => ?_⟩
  · rw [if_pos holds] at starts
    obtain ⟨answered, state⟩ := fencePass_spec (y := y) (by rw [index]; exact here)
    rw [index] at answered
    refine ⟨_, act_eq_next (f := (State.fenceStart · c q idx)) live starts, answered, ?_, fencePass_eq ..⟩
    rw [state, active]
    rfl
  · rw [if_neg (by rw [waits]; exact Bool.false_ne_true)] at starts
    obtain ⟨answered, state⟩ := fenceStart_waits here none_ (s.groupTime (s.queueDie c q))
    exact ⟨_, act_eq_next (f := (State.fenceStart · c q idx)) live starts, answered, state, rfl⟩

/-- Clauses on an event that starts. -/
theorem event_starts (live : s.flt.fatal = false) (run : (s.ctx c).state = .running) (here : s.cmd c q idx = some y)
    (new : y.started = false) (none_ : y.result = none) (active : (s.queue c q).state = .active) (op : cmdOpcode y.word = 12)
    (first : (s.earlier c q idx).all (·.final) = true) :
    (fld y.word.toNat 18 16 = 0 →
      ∃ t, exec (.event c q idx) s = .next t ∧ (t.cmdIs c q idx fun z => z.result == some .ok) ∧
        t = { s with contexts := t.contexts } ∧
        (∀ n v, (s.ctx c).sync[n]? = some v → (t.ctx c).sync[n]? =
          some (if n = fld y.word.toNat 21 19 then v + BitVec.ofNat 32 (fld y.word.toNat 37 22) else v))) ∧
    (fld y.word.toNat 18 16 = 3 →
      ∃ t, exec (.event c q idx) s = .next t ∧ (t.cmdIs c q idx fun z => z.result == some .ok) ∧
        (t.queue c q).window = fld y.word.toNat 57 55 ∧ t = { s with contexts := t.contexts }) ∧
    (fld y.word.toNat 18 16 = 4 →
      ∃ t, exec (.event c q idx) s = .next t ∧ (t.cmdIs c q idx fun z => z.result == some .ok) ∧
        t.sel.payload = fld y.word.toNat 95 64 ∧ bitAt (t.ev evQ).value 4 = true ∧
        t = { s with contexts := t.contexts, sel := t.sel, events := t.events, plk := t.plk, out := t.out }) ∧
    (fld y.word.toNat 18 16 = 1 →
      ∃ t, exec (.event c q idx) s = .next t ∧ t.cmdIs c q idx (fun z => z.started && z.result == none) ∧
        (t.queue c q).state = .gated ∧ (t.queue c q).stepGate = false ∧ t = { s with contexts := t.contexts }) ∧
    (fld y.word.toNat 18 16 = 2 → s.net.state = .solo → s.ckpPtn ≠ some (s.ctx c).ptn →
      ∃ t, exec (.event c q idx) s = .next t ∧ t.cmdIs c q idx (fun z => z.started && z.result == none) ∧
        (t.queue c q).state = .gated ∧ (t.queue c q).stepGate = true ∧ t = { s with contexts := t.contexts }) := by
  refine ⟨fun kind => ?_, fun kind => ?_, fun kind => ?_, fun kind => ?_, fun kind solo apart => ?_⟩
  · obtain ⟨frame, d, ctx⟩ := counted_spec s c y.word.toNat
    have cmd : (s.counted c y.word.toNat).cmd c q idx = some y := (cmd_eq_of_queues (s := s) (by rw [ctx])).trans here
    have starts := eventStart_counts here new none_ active op run first kind
    have whole : (s.counted c y.word.toNat).eventEnds c q idx y.word.toNat =
        { s.counted c y.word.toNat with contexts := ((s.counted c y.word.toNat).eventEnds c q idx y.word.toNat).contexts } := rfl
    have sync : (((s.counted c y.word.toNat).eventEnds c q idx y.word.toNat).ctx c).sync = ((s.counted c y.word.toNat).ctx c).sync := by
      unfold eventEnds modCmd setQueue
      rw [setCtx_ctx]
    refine ⟨_, act_eq_next (f := (State.eventStart · c q idx)) live starts ?_ ?_, eventEnds_ok cmd _, ?_, fun n v there => ?_⟩
    · rw [whole, frame]
    · rw [whole, frame]
    · generalize ((s.counted c y.word.toNat).eventEnds c q idx y.word.toNat).contexts = co at whole ⊢
      rw [whole, frame]
    · rw [sync, ctx]
      exact lmod_getElem? there
  · have starts := eventStart_window here new none_ active op run first kind
    have bound := queue_lt_of_cmd here
    have cmd : (s.setQueue c q { s.queue c q with window := fld y.word.toNat 57 55 }).cmd c q idx = some y := by
      rw [cmd_setQueue_same bound]
      · exact here
      · rfl
    refine ⟨_, act_eq_next (f := (State.eventStart · c q idx)) live starts, eventEnds_ok cmd _, ?_, rfl⟩
    unfold eventEnds modCmd
    rw [queue_setQueue (bound.trans_eq setQueue_bound.symm), queue_setQueue bound]
  · obtain ⟨payload, told, es, p, o, frame⟩ := announced_spec s c q y.word.toNat
    have starts := eventStart_announces here new none_ active op run first kind
    have cmd : (s.announced c q y.word.toNat).cmd c q idx = some y := (cmd_congr (by rw [frame]) ..).trans here
    have whole : (s.announced c q y.word.toNat).eventEnds c q idx y.word.toNat =
      { s.announced c q y.word.toNat with contexts := ((s.announced c q y.word.toNat).eventEnds c q idx y.word.toNat).contexts } := rfl
    refine ⟨_, act_eq_next (f := (State.eventStart · c q idx)) live starts ?_ ?_, eventEnds_ok cmd _, payload, told, ?_⟩
    · rw [whole, frame]
    · rw [whole, frame]
    · generalize ((s.announced c q y.word.toNat).eventEnds c q idx y.word.toNat).contexts = co at whole ⊢
      rw [whole, frame]
  · have starts := eventStart_layer here new none_ active op run first kind
    obtain ⟨answered, state, gate⟩ := gatedBy_spec here none_ false
    exact ⟨_, act_eq_next (f := (State.eventStart · c q idx)) live starts, answered, state, gate, gatedBy_eq ..⟩
  · have starts := eventStart_step here new none_ active op run first kind
    have alone : (s.gatedBy c q idx true).stepEnd c = s.gatedBy c q idx true :=
      stepEnd_solo solo (by rw [gatedBy_ptn]; exact apart)
    rw [alone] at starts
    obtain ⟨answered, state, gate⟩ := gatedBy_spec here none_ true
    exact ⟨_, act_eq_next (f := (State.eventStart · c q idx)) live starts, answered, state, gate, gatedBy_eq ..⟩

/-- Clauses on a fence that waits. -/
theorem fence_waits (live : s.flt.fatal = false) (run : (s.ctx c).state = .running) (waits : s.waitingFence c q = some y) :
    (s.fenceHolds c q y = true →
      ∃ t, exec (.fenceSatisfied c q) s = .next t ∧ t.cmdIs c q y.index (fun z => z.result == some .ok) ∧
        (t.queue c q).state ≠ .waiting ∧ t = { s with contexts := t.contexts }) ∧
    (s.fenceHolds c q y = false → bitAt y.word.toNat 21 = true ∨ s.deadlocked c = false →
      ∃ t, exec (.fenceWaitLimit c q) s = .next t ∧ (t.ctx c).state = .saving ∧ (t.ctx c).after = .parked ∧
        (t.ctx c).wait ≠ .none ∧ (t.ctx c).lastReason = 3 ∧ (∀ d, d ≠ c → t.ctx d = s.ctx d) ∧
        t = { s with contexts := t.contexts, mem := t.mem, lines := t.lines, plk := t.plk, out := t.out, channels := t.channels,
                     chanHandles := t.chanHandles, jobs := t.jobs, jobHandles := t.jobHandles }) ∧
    (s.fenceHolds c q y = false → bitAt y.word.toNat 21 = false → s.deadlocked c = true →
      ∃ t, exec (.fenceWaitLimit c q) s = .next t ∧ (t.ctx c).state = .teardown ∧ bitAt (t.ev evQ).value 3 = true ∧
        (t.flt.records.any fun r => r.ident == s.flt.nextId && r.kind == 5 && r.context == s.ctxHandle c) = true ∧
        t = { s with contexts := t.contexts, flt := t.flt, events := t.events, plk := t.plk, out := t.out }) := by
  refine ⟨fun holds => ?_, fun fails free => ?_, fun fails local_ dead => ?_⟩
  · obtain ⟨z, here⟩ := cmd_of_mem (waitingFence_mem waits).1
    obtain ⟨answered, state⟩ := fencePass_spec here
    refine ⟨_, act_eq_next (f := (State.fenceSatisfied · c q)) live (fenceSatisfied_eq waits run holds), answered, ?_, fencePass_eq ..⟩
    rw [state]
    split
    · nofun
    · assumption
  · obtain ⟨w, some_, parks⟩ := fenceLimit_parks waits run fails free
    have running : ((s.modCmd c q y.index fun z => { z with parked := true }).ctx c).state = .running := setQueue_state.trans run
    obtain ⟨sent, wait⟩ := park_spec (w := w) running
    obtain ⟨co, cs, ch, js, jh, m, ls, p, o, frame⟩ := sent.frame
    have whole := modCmd_eq s c q y.index fun z => { z with parked := true }
    refine ⟨_, act_eq_next (f := (State.fenceLimit · c q)) live parks ?_ ?_, sent.state, sent.after, by rw [wait]; exact some_,
      sent.reason, fun d other => (sent.others d other).trans (setQueue_ctx_ne other), ?_⟩
    · rw [frame, whole]
    · rw [frame, whole]
    · rw [frame]
      generalize (s.modCmd c q y.index fun z => { z with parked := true }).contexts = co' at whole
      rw [whole]
  · obtain ⟨state, _⟩ := faultContext_spec (kind := 5) run
    have record := faultContext_record (kind := 5) run
    obtain ⟨co, f, frame⟩ := s.faultContext_eq 5 c
    have kept : ((s.faultContext 5 c).raiseCtx evQ 3 c q).contexts = (s.faultContext 5 c).contexts := by rw [raiseCtx_eq]
    have log : ((s.faultContext 5 c).raiseCtx evQ 3 c q).flt = (s.faultContext 5 c).flt := by rw [raiseCtx_eq]
    refine ⟨_, act_eq_next (f := (State.fenceLimit · c q)) live (fenceLimit_deadlock waits run fails local_ dead) ?_ ?_, ?_, ?_, ?_, ?_⟩
    · rw [raiseCtx_eq, frame]
    · rw [raiseCtx_eq, frame]
    · simpa only [ctx, kept] using state
    · rw [raiseCtx_value]
      exact bitAt_or_two_pow_self ..
    · rw [log]
      exact record
    · rw [raiseCtx_eq, frame]

/-- The clause on a command that waits for its channel. -/
theorem channel_waits {i : Nat} {put : Bool} (live : s.flt.fatal = false) (run : (s.ctx c).state = .running)
    (here : s.cmd c q idx = some y) (waits : s.waitsFor c q y = some (i, put)) (there : (tget s.channels i).isSome = true) :
    ∃ t, exec (.sorWaitLimit c q idx) s = .next t ∧ (t.ctx c).state = .saving ∧ (t.ctx c).after = .parked ∧
      (t.ctx c).wait = (if put then .credit i else .block i) ∧ bitAt (t.ev evSor).value 0 = true ∧
      t = { s with contexts := t.contexts, mem := t.mem, lines := t.lines, plk := t.plk, out := t.out, channels := t.channels,
                   events := t.events, chanHandles := t.chanHandles, jobs := t.jobs, jobHandles := t.jobHandles } := by
  obtain ⟨ch, there⟩ := Option.isSome_iff_exists.mp there
  obtain ⟨ch', limit⟩ := sorLimit_eq here waits run there
  have running : (((s.setChan i ch').modCmd c q idx fun z => { z with parked := true }).ctx c).state = .running :=
    setQueue_state.trans run
  obtain ⟨sent, wait⟩ := park_spec (w := if put then .credit i else .block i) running
  obtain ⟨co, cs, ch, js, jh, m, ls, p, o, frame⟩ := sent.frame
  have whole := modCmd_eq (s.setChan i ch') c q idx fun z => { z with parked := true }
  have state := sent.state
  have after := sent.after
  have told := raiseEv_sets (((s.setChan i ch').modCmd c q idx fun z => { z with parked := true }).park c
    (if put then .credit i else .block i)) evSor 0
  generalize ((s.setChan i ch').modCmd c q idx fun z => { z with parked := true }).park c
    (if put then .credit i else .block i) = u at limit wait frame state after told
  have kept : (u.raiseEv evSor 0).ctx c = u.ctx c := by
    rw [State.raiseEv_eq]
    rfl
  refine ⟨_, act_eq_next (f := (State.sorLimit · c q idx)) live limit ?_ ?_, by rw [kept]; exact state, by rw [kept]; exact after,
    by rw [kept]; exact wait, told, ?_⟩
  · rw [State.raiseEv_eq, frame, whole]
    rfl
  · rw [State.raiseEv_eq, frame, whole]
    rfl
  · rw [State.raiseEv_eq, frame]
    generalize ((s.setChan i ch').modCmd c q idx fun z => { z with parked := true }).contexts = co' at whole
    rw [whole]
    rfl

/-- A gate that lets its queue go on, as the command answers. -/
theorem layer_released (live : s.flt.fatal = false) (held : s.heldEvent c q 1 = some y) (replay : s.replayOf c = none)
    (passed : s.passGate c q = (s.ungated c q).releaseGate c q y false) :
    ∃ t, exec (.layerGate c q) s = .next t ∧ Released (s.ungated c q) t c q y.index ∧ t = { s with contexts := t.contexts } := by
  obtain ⟨qs, ctx⟩ := s.ungated_ctx c q
  obtain ⟨listed, gated⟩ := heldEvent_spec held
  have bound := queue_lt_of_state (s := s) (c := c) (q := q) (by rw [gated]; nofun)
  obtain ⟨z, here⟩ := cmd_of_mem listed
  have there : (s.ungated c q).cmd c q y.index = some z := by
    unfold ungated
    rw [cmd_setQueue_same bound]
    · exact here
    · rfl
  have released := releaseGate_released there
  have frame := released.frame
  generalize (s.ungated c q).releaseGate c q y false = t at passed released frame
  have same : t = { s with contexts := t.contexts } := by
    rw [ungated_eq] at frame
    exact frame
  refine ⟨t, act_eq_next (f := (State.layerGate · c q)) live
    (layerGate_released passed released rfl rfl (by rw [ctx]; rfl) replay) ?_ ?_, released, same⟩
  · rw [same]
  · rw [same]

theorem ungated_updating (gated : (s.queue c q).state = .gated) :
    ((s.ungated c q).queue c q).updating = (s.queue c q).updating := by
  unfold ungated
  rw [queue_setQueue (queue_lt_of_state (by rw [gated]; nofun))]

/-- Clauses on a layer's gate. -/
theorem layer_gates (live : s.flt.fatal = false) (run : (s.ctx c).state = .running) (held : s.heldEvent c q 1 = some y)
    (due : (s.ctx c).captureDue = false) (off : (s.ctx c).atStep = false) (replay : s.replayOf c = none) :
    ((s.queue c q).updating = true →
      ∃ t, exec (.layerGate c q) s = .next t ∧ t.cmdIs c q y.index (fun z => z.result == some .ok) ∧
        (t.queue c q).state = .active ∧ (t.queue c q).updating = false ∧ (t.queue c q).gateFrom = y.index + 1 ∧
        (t.ctx c).layerReports = (s.ctx c).layerReports ∧ t = { s with contexts := t.contexts }) ∧
    (((s.layerOf c (fld y.word.toNat 53 38)).all fun p => !bitAt p.2.flags 0 && (s.queue c q).gateBad == 0) = true →
      ∃ t, exec (.layerGate c q) s = .next t ∧ t.cmdIs c q y.index (fun z => z.result == some .ok) ∧
        (t.queue c q).state = .active ∧ (t.queue c q).gateFrom = y.index + 1 ∧ (t.ctx c).attempt = 0 ∧
        t = { s with contexts := t.contexts }) ∧
    (∀ i r f, s.layerOf c (fld y.word.toNat 53 38) = some (i, r) → (s.queue c q).updating = false → bitAt r.flags 0 = false →
      (s.queue c q).gateBad ≠ 0 → nextWithin (s.ctx c).tx2 r.cur r.ceil = some f → s.ckpPtn = none →
      ∃ t, exec (.layerGate c q) s = .next t ∧ (t.queue c q).head = (s.queue c q).gateFrom ∧
        (t.queue c q).done = (s.queue c q).gateFrom ∧
        (t.queue c q).cmds = [] ∧ (t.queue c q).state = .active ∧ (t.ctx c).attempt = (s.ctx c).attempt + 1 ∧
        (t.ctx c).escalations = satAdd 16 (s.ctx c).escalations 1 ∧ r.layer ∈ (t.ctx c).heldNow ∧ bitAt (t.ev evNum).value 0 = true) ∧
    (∀ i r, s.layerOf c (fld y.word.toNat 53 38) = some (i, r) → (s.queue c q).updating = false → bitAt r.flags 0 = false →
      (s.queue c q).gateBad ≠ 0 → nextWithin (s.ctx c).tx2 r.cur r.ceil = none →
      ∃ t, exec (.layerGate c q) s = .next t ∧ t.cmdIs c q y.index (fun z => z.result == some .ok) ∧ (t.ctx c).skipReq = true ∧
        (t.queue c q).state = .active ∧ r.layer ∈ (t.ctx c).heldNow ∧
        t = { s with contexts := t.contexts, mem := t.mem, lines := t.lines, plk := t.plk, out := t.out }) := by
  obtain ⟨qs₀, ctx₀⟩ := s.ungated_ctx c q
  obtain ⟨listed, gated⟩ := heldEvent_spec held
  have bound := queue_lt_of_state (s := s) (c := c) (q := q) (by rw [gated]; nofun)
  refine ⟨fun upd => ?_, fun quiet => ?_, fun i r f layer upd whole bad next apart => ?_, fun i r layer upd whole bad next => ?_⟩
  · obtain ⟨t, runs, released, only⟩ := layer_released live held replay (passGate_none held run due off (if_pos upd))
    obtain ⟨qs, d, rs, ctx, reports⟩ := released.ctx
    refine ⟨t, runs, released.answered, released.active, released.updating, released.gate, ?_, only⟩
    rw [ctx]
    exact (reports (by rw [ungated_updating gated]; exact upd)).trans (by rw [ctx₀]; rfl)
  · have passed : s.passGate c q = (s.ungated c q).releaseGate c q y false := by
      by_cases upd : (s.queue c q).updating = true
      · exact passGate_none held run due off (if_pos upd)
      · cases layer : s.layerOf c (fld y.word.toNat 53 38) with
        | none => exact passGate_none held run due off (by rw [layer, ite_self])
        | some p =>
          obtain ⟨i, r⟩ := p
          rw [layer] at quiet
          have flags : bitAt r.flags 0 = false ∧ (s.queue c q).gateBad = 0 := by simpa using quiet
          rw [passGate_some held run due off replay (Bool.eq_false_iff.mpr upd) layer flags.1]
          exact if_pos flags.2
    obtain ⟨t, runs, released, only⟩ := layer_released live held replay passed
    obtain ⟨qs, d, rs, ctx, -⟩ := released.ctx
    refine ⟨t, runs, released.answered, released.active, released.gate, ?_, only⟩
    rw [ctx]
    rfl
  · have passed : s.passGate c q = (s.marksBad c q).escalate c q y i r f := by
      rw [passGate_some held run due off replay upd layer whole, if_neg bad]
      unfold badGate
      rw [next]
    obtain ⟨st, ctx⟩ := s.marksBad_ctx c q
    have size : q < ((s.marksBad c q).ctx c).queues.length := by
      rw [ctx]
      exact bound.trans_eq List.length_set.symm
    have gate : ((s.marksBad c q).queue c q).gateFrom = (s.queue c q).gateFrom := by
      unfold queue
      rw [ctx]
      change (((s.ctx c).queues.set q { s.queue c q with passing := false }).getD q Queue.reset).gateFrom = _
      simp [bound, queue]
    have uptn : (s.marksBad c q).ckpPtn = none := apart
    obtain ⟨⟨x, queue, from_⟩, attempt, count, listed, told, pending, variant⟩ := escalate_spec (y := y) (i := i) (fmt := f) uptn whole size
    have stay : (((s.marksBad c q).escalate c q y i r f).queue c q).gateFrom = (s.queue c q).gateFrom := by
      rw [queue]
      exact from_.trans gate
    refine ⟨_, act_eq_next (f := (State.layerGate · c q)) live (layerGate_of_stay passed stay) pending variant, ?_, ?_, ?_, ?_, ?_, ?_, listed,
      told⟩
    · rw [queue]
      exact from_.trans gate
    · rw [queue]
      exact from_.trans gate
    · rw [queue]
      rfl
    · rw [queue]
      rfl
    · rw [attempt, ctx]
      rfl
    · rw [count, ctx]
      rfl
  · have passed : s.passGate c q = ((s.marksBad c q).askSkip c i r).releaseGate c q y false := by
      rw [passGate_some held run due off replay upd layer whole, if_neg bad]
      unfold badGate
      rw [next]
    obtain ⟨st, ctx⟩ := s.marksBad_ctx c q
    obtain ⟨asks, co, m, ls, p, o, frame⟩ := (s.marksBad c q).askSkip_spec c i r
    rw [ctx] at asks
    generalize (s.marksBad c q).askSkip c i r = u at passed asks frame
    have queue : (u.queue c q).cmds = (s.queue c q).cmds := by
      unfold State.queue
      rw [asks]
      change (((s.ctx c).queues.set q { s.queue c q with passing := false }).getD q Queue.reset).cmds = _
      simp [bound, State.queue]
    obtain ⟨z, here⟩ := cmd_of_mem (s := u) (by rw [queue]; exact listed)
    have released := releaseGate_released here
    obtain ⟨qs, d, rs, rctx, -⟩ := released.ctx
    have rframe := released.frame
    have runs := layerGate_released passed released (by rw [frame]; rfl) (by rw [frame]; rfl) (by rw [asks]; rfl) replay
    generalize u.releaseGate c q y false = t at released rctx rframe runs
    have only : t = { s with contexts := t.contexts, mem := m, lines := ls, plk := p, out := o } := by
      generalize t.contexts = co' at rframe ⊢
      rw [rframe, frame]
      rfl
    refine ⟨t, act_eq_next (f := (State.layerGate · c q)) live runs ?_ ?_, released.answered, ?_, released.active, ?_, ?_⟩
    · rw [only]
    · rw [only]
    · rw [rctx, asks]
      rfl
    · rw [rctx, asks]
      exact List.mem_append_right _ (List.mem_singleton_self _)
    · generalize t.contexts = co' at only
      rw [only]

/-- Clauses on the gate of a step. -/
theorem step_gates (live : s.flt.fatal = false) (run : (s.ctx c).state = .running)
    (held : ([0, 1, 2, 3].findSome? fun p => (s.heldEvent c p 2).map fun z => (p, z)) = some (q, y)) (solo : s.net.state = .solo)
    (apart : s.ckpPtn = none) (layers : (s.ctx c).ltabCount = 0) :
    ((s.ctx c).skipReq = false → (s.ctx c).lrRecover = 0 →
      ∃ t, exec (.stepGateRelease c) s = .next t ∧ (t.ctx c).step = (s.ctx c).step + 1 ∧ (t.ctx c).lrH = (s.ctx c).lrH ∧
        (t.ctx c).stepStatus = 0 ∧ (t.queue c q).state = .active ∧ (t.queue c q).passing = false ∧ (t.queue c q).stepGate = false ∧
        (t.queue c q).updating = true ∧ t.cmdIs c q y.index (fun z => z.result == some .ok) ∧
        t = { s with contexts := t.contexts, mem := t.mem, lines := t.lines, plk := t.plk, out := t.out }) ∧
    ((s.ctx c).skipReq = true →
      ∃ t, exec (.stepGateRelease c) s = .next t ∧ (t.ctx c).step = (s.ctx c).step + 1 ∧
        (t.ctx c).lrH = Nat.min 20 ((s.ctx c).lrH + 1) ∧ (t.queue c q).passing = true ∧ bitAt (t.ev evNum).value 1 = true) := by
  obtain ⟨z, here⟩ := cmd_of_mem (heldEvent_spec (heldEvent_of_first held)).1
  have runs := stepGateRelease_eq held run solo apart
  refine ⟨fun asks rate => ?_, fun asks => ?_⟩
  · obtain ⟨outcome, only⟩ := completeStep_outcome layers rate
    rw [asks] at runs
    obtain ⟨u, passes, there, step, h, status, co, m, ls, p, o, frame⟩ :=
      passStep_spec (skip := false) solo apart layers here outcome
    obtain ⟨answered, state, passing, gate, updating, ends, qs, d, ctx⟩ := gateOpens_spec there false
    have same : s.stepOutcome c false = s.completeStep c := rfl
    rw [passes] at runs
    generalize u.gateOpens c q y false = t at runs answered state passing gate updating ends ctx
    have whole : t = { s with contexts := t.contexts, mem := m, lines := ls, plk := p, out := o } := by
      generalize t.contexts = co' at ends ⊢
      rw [ends, frame, same, only]
    refine ⟨t, act_eq_next (f := (State.stepGateRelease · c)) live runs ?_ ?_, ?_, ?_, ?_, state, passing, gate, updating, answered, ?_⟩
    · rw [whole]
    · rw [whole]
    · rw [ctx]
      exact step
    · rw [ctx]
      exact h
    · rw [ctx]
      exact status
    · generalize t.contexts = co' at whole
      rw [whole]
  · obtain ⟨outcome, told⟩ := skipStep_outcome (c := c) apart
    rw [asks] at runs
    obtain ⟨u, passes, there, step, h, status, co, m, ls, p, o, frame⟩ :=
      passStep_spec (skip := true) solo apart layers here outcome
    obtain ⟨answered, state, passing, gate, updating, ends, qs, d, ctx⟩ := gateOpens_spec there true
    have same : s.stepOutcome c true = s.skipStep c := rfl
    rw [same] at frame
    rw [passes] at runs
    generalize u.gateOpens c q y true = t at runs answered state passing gate updating ends ctx
    refine ⟨t, act_eq_next (f := (State.stepGateRelease · c)) live runs ?_ ?_, ?_, ?_, passing, ?_⟩
    · rw [ends, frame]
      exact outcome.pending
    · rw [ends, frame]
      exact outcome.variant
    · rw [ctx]
      exact step
    · rw [ctx]
      exact h
    · rw [ends, frame]
      exact told

end

/-- Settles O46: each clause is one function on one queue; the gates go on through `releaseGate_released` or back through
`escalate_spec`, and a step ends through `passStep_spec`. -/
theorem queuesWaitAndGoOn : Obligations.QueuesWaitAndGoOn := by
  intro s c q live x only
  refine ⟨fun run => ⟨fun y idx here new none_ active => ?_, fun y waits => fence_waits live run waits,
    fun y idx i put here waits there => channel_waits live run here waits there,
    fun y held due off replay => layer_gates live run held due off replay,
    fun y held solo apart layers => step_gates live run held solo apart layers⟩, fun parked past => ?_⟩
  · exact ⟨fun op holds => (fence_starts live run here new none_ active op).1 holds,
      fun op waits => (fence_starts live run here new none_ active op).2 waits,
      fun op first => event_starts live run here new none_ active op first⟩
  · refine ⟨_, act_eq_next (f := (State.unpark · c)) live (State.unpark_eq parked past), ?_, ?_, fun d other => State.setCtx_ctx_ne _ _ other, rfl⟩
    · rw [State.setCtx_ctx]
    · rw [State.setCtx_ctx]

end Sys2Proof.Machine
end

section
/-! SUPPORT. The KV units of an Instance and its submission ring (R263 to R266). -/

set_option Elab.async false

namespace Sys2Proof.Machine

namespace State

variable {s u : State} {i : Nat} {x : Instance}

/-! ### Taking units from the pool (R264) -/

/-- What taking units of one Instance leaves. -/
structure Took (s t : State) (i : Nat) (x : Instance) : Prop where
  frame : ∃ is es p o, t = { s with instances := is, events := es, plk := p, out := o }
  inst : ∃ low, tget t.instances i = some { x with poolLow := low }
  up : t.linkUp = s.linkUp

theorem poolCheck_took (here : tget s.instances i = some x) : Took s (s.poolCheck i) i x := by
  unfold poolCheck
  rw [here]
  dsimp only
  generalize hl : decide (16 * (x.free.length + s.cachedUnits i) < x.d 0x24 4) = low
  let s1 := s.setInst i { x with poolLow := low }
  have set : Took s s1 i x := ⟨⟨_, s.events, s.plk, s.out, rfl⟩, ⟨low, tget_tput_same ..⟩, rfl⟩
  split
  · refine ⟨?_, ⟨low, ?_⟩, (raiseEv_linkUp ..).trans rfl⟩
    · rw [State.raiseEv_eq]
      exact ⟨_, _, _, _, rfl⟩
    · rw [State.raiseEv_eq]
      exact tget_tput_same ..
  · exact set

theorem poolTakeN_free (n : Nat) : ∀ (s : State) (x : Instance), tget s.instances i = some x → n ≤ x.free.length →
    ∃ t, s.poolTakeN i n = some (x.free.take n, t) ∧ Took s t i { x with free := x.free.drop n } := by
  induction n with
  | zero =>
    intro s x here _
    refine ⟨s, ?_, ⟨s.instances, s.events, s.plk, s.out, rfl⟩, ⟨x.poolLow, here⟩, rfl⟩
    rw [poolTakeN, List.take_zero]
  | succ n ih =>
    intro s x here enough
    obtain ⟨u, r, free⟩ := List.exists_cons_of_length_pos (l := x.free) (by omega)
    have first : s.poolTake i = some (u, (s.setInst i { x with free := r }).poolCheck i) := by
      unfold poolTake
      rw [here]
      dsimp only
      rw [free]
    have took := poolCheck_took (s := s.setInst i { x with free := r }) (i := i) (tget_tput_same ..)
    generalize (s.setInst i { x with free := r }).poolCheck i = v at first took
    obtain ⟨low, there⟩ := took.inst
    have fits : n ≤ r.length := by
      rw [free, List.length_cons] at enough
      omega
    obtain ⟨t, rest, took'⟩ := ih v _ there fits
    refine ⟨t, ?_, ?_, ?_, took'.up.trans took.up⟩
    · rw [poolTakeN, first]
      dsimp only
      rw [rest, free]
      rfl
    · obtain ⟨is, es, p, o, h⟩ := took.frame
      obtain ⟨is', es', p', o', h'⟩ := took'.frame
      rw [h] at h'
      exact ⟨is', es', p', o', h'⟩
    · obtain ⟨low', there'⟩ := took'.inst
      refine ⟨low', there'.trans ?_⟩
      rw [free]
      rfl

/-! ### Submissions (R263) -/

/-- The bytes of an answer to a submission. -/
def submitLine (st : Status) (detail handle us : Nat) : List Byte :=
  leBytes 1 st.code ++ leBytes 1 detail ++ zeros 2 ++ leBytes 4 handle ++ leBytes 4 us ++ zeros 4

theorem submitLine_length (st : Status) (detail handle us : Nat) : (submitLine st detail handle us).length = 16 := by
  simp [submitLine, zeros]

theorem read_submitLine_code (m : Memory) (k : Nat) (st : Status) (detail handle us : Nat) :
    ((m.writeAll k (submitLine st detail handle us)).read k).toNat = st.code := by
  have line : submitLine st detail handle us =
      leBytes 1 st.code ++ (leBytes 1 detail ++ (zeros 2 ++ (leBytes 4 handle ++ (leBytes 4 us ++ zeros 4)))) := by
    simp only [submitLine, List.append_assoc]
  rw [line]
  exact read_answer_code ..

theorem readAll_submitLine_handle (m : Memory) (k : Nat) (st : Status) (detail handle us : Nat) :
    (m.writeAll k (submitLine st detail handle us)).readAll (k + 4) 4 = leBytes 4 handle := by
  have whole : submitLine st detail handle us =
      (leBytes 1 st.code ++ leBytes 1 detail ++ zeros 2) ++ (leBytes 4 handle ++ (leBytes 4 us ++ zeros 4)) := by
    simp only [submitLine, List.append_assoc]
  have middle := readAll_writeAll_middle m k (leBytes 1 st.code ++ leBytes 1 detail ++ zeros 2) (leBytes 4 handle) (leBytes 4 us ++ zeros 4)
  rw [leBytes_length] at middle
  rw [whole]
  exact middle

theorem submitAnswer_ok {a h n : Nat} (k : u.Reached a h n) (fit : 0x80 ≤ n) (handle us : Nat) :
    ∃ p o, u.submitAnswer a .ok 0 handle us =
      { u with mem := u.mem.writeAll (hostKey (h + 0x70)) (submitLine .ok 0 handle us), plk := p, out := o } := by
  have posted := k.post (off := 0x70) (l := submitLine .ok 0 handle us) (by rw [submitLine_length]; exact fit) (by omega)
  rw [submitAnswer, srvNote, if_pos rfl]
  exact posted

theorem submitAnswer_refused {a h n : Nat} (k : u.Reached a h n) (fit : 0x80 ≤ n) {st : Status} (refused : st ≠ .ok) (detail handle us : Nat) :
    (∃ es p o, u.submitAnswer a st detail handle us =
      { u with mem := u.mem.writeAll (hostKey (h + 0x70)) (submitLine st detail handle us), events := es, plk := p, out := o }) ∧
      bitAt ((u.submitAnswer a st detail handle us).ev evSrv).value 0 = true := by
  obtain ⟨p, o, posted⟩ := k.post (off := 0x70) (l := submitLine st detail handle us) (by rw [submitLine_length]; exact fit) (by omega)
  rw [submitAnswer, srvNote, if_neg refused]
  refine ⟨?_, raiseEv_sets ..⟩
  rw [submitLine] at posted
  rw [posted, State.raiseEv_eq]
  exact ⟨_, _, _, rfl⟩

/-- A submission that is aligned as R263 says reaches host memory whole. -/
theorem reached_of_aligned {a h : Nat} (host : parseAddr a = .host h) (up : s.linkUp = true) (aligned : a % 128 = 0) :
    s.Reached a h 128 := by
  obtain ⟨place, small⟩ := parseAddr_eq_host host
  exact ⟨host, up, by omega⟩

/-- The place of an Instance's next submission. -/
def submission (x : Instance) : Nat := x.d 0x58 8 + 128 * (x.submitHead.toNat % 2 ^ x.d 0x60 1)

/-- A submission's number of KV units. -/
def wanted (l : List Byte) : Nat :=
  if le l 4 1 = 1 then ceilDiv (le l 0x10 4 + le l 0x14 4) 16 + b2n (bitAt (le l 6 1) 2) else ceilDiv (le l 0x10 4) 16 + 1

theorem admitRequest_version (here : tget s.instances i = some x) (work : x.submitHead ≠ x.submitTail) (opened : s.isOpen 77 = true)
    (other : le (s.fwRead (submission x) 128) 0 4 ≠ 1) :
    s.admitRequest i = (s.setInst i { x with submitHead := x.submitHead + 1 }).submitAnswer (submission x) .versionUnsupported 0 0 0 := by
  unfold admitRequest
  rw [here]
  dsimp only
  rw [if_neg (by simp [work, opened])]
  exact if_pos other

/-- The request that a submission without an adapter becomes. -/
def submitted (s : State) (i : Nat) (x : Instance) (l : List Byte) (k : Nat) (units : List Nat) : Request := {
  state := .queued, inst := i, slot := s.freePlace i, order := x.admittedCount, critical := le l 4 1 == 1,
  priority := le l 5 1, flags := le l 6 1, promptLen := le l 0x10 4, maxNew := le l 0x14 4, adapter := none
  deadline := if le l 0x1C 4 = 0 then 1000 * x.d 0x4C 4 else le l 0x1C 4, ttftTarget := le l 0x20 4, tbtTarget := le l 0x24 4
  ring := k, stop := le l 0x2C 4, seed := le l 0x30 8, temperature := le l 0x38 4, tag := le l 0x3C 4, admitted := s.srvTime
  tokens := (List.range (le l 0x10 4)).map fun j => le (s.fwRead (le l 8 8 + 4 * j) 4) 0 4 % 2 ^ 24
  fed := 0, fedDraft := 0, units := [], reserved := units, quota := wanted l, matched := 0, epoch := 0
  generated := 0, cancelled := false, wasDeferred := false, wasPreempted := false, deferrals := 0
  preemptions := 0, lastPosition := 0, firstToken := none, lastToken := s.srvTime, tbtMax := 0
  tbtMisses := 0, outbox := [], runsLate := false, final := [] }

/-- The state that has admitted a submission. -/
def admits (s : State) (i k n : Nat) (hs : HandleTable) (r : Request) : State :=
  let t := (s.setReq n r).modInst i fun y => { y with admittedCount := y.admittedCount + 1 }
  { t with reqHandles := hs, rings := tmod t.rings k fun g => { g with bound := some n } }

theorem admitRequest_admits {k n : Nat} {g : Ring} {hs : HandleTable} {t : State} (here : tget s.instances i = some x)
    (work : x.submitHead ≠ x.submitTail) (opened : s.isOpen 77 = true) {l : List Byte} (read : s.fwRead (submission x) 128 = l)
    (version : le l 0 4 = 1) (good : s.badReq x l = false) (named : s.ringOf (le l 0x28 4) = some k) (there : tget s.rings k = some g)
    (mine : g.inst = i) (free : g.bound = none) (plain : le l 0x18 4 = 0) (room : (s.reqsOf i).length < x.d 0x10 2)
    (handle : s.reqHandles.take 8192 = some (n, hs)) (fresh : x.durations = [])
    (private_ : s.published = [] ∨ bitAt (le l 6 1) 1 = true)
    (units : (s.setInst i { x with submitHead := x.submitHead + 1 }).poolTakeN i (wanted l) = some (x.free.take (wanted l), t)) :
    ∃ us, s.admitRequest i = (t.admits i k n hs (submitted s i x l k (x.free.take (wanted l)))).submitAnswer (submission x) .ok 0
      ((t.admits i k n hs (submitted s i x l k (x.free.take (wanted l)))).reqHandle n) us := by
  unfold admitRequest
  split
  next none_ => rw [here] at none_; cases none_
  next y there' =>
  obtain rfl : x = y := Option.some.inj (here.symm.trans there')
  rw [if_neg (by simp [work, opened])]
  extract_lets a l' s0 p critical spec ring named_ adp toks bad hashes hit m life pt us want
  obtain rfl : l' = l := read
  have hring : ring = some k := named
  have hnamed : named_ = false := by
    unfold named_
    rw [plain]
    rfl
  have hhit : hit = [] := by
    unfold hit
    obtain none_ | bit := private_
    · have matches_ (hs : List Nat) : s.matchPrefix i hs = [] := by
        unfold matchPrefix
        rw [none_]
        cases hs <;> rfl
      rw [matches_, ite_self]
    · rw [bit, Bool.or_true, Bool.true_or, if_pos rfl]
  have hm : m = 0 := by
    unfold m
    rw [hhit]
    rfl
  have hbad : bad = false := good
  have hwant : want = wanted l' := by
    unfold want critical wanted
    simp only [beq_iff_eq]
    rfl
  refine ⟨us, ?_⟩
  rw [if_neg (by simp [version]), hbad, if_neg Bool.false_ne_true, hring, hnamed]
  simp only [Option.isNone_some, Bool.false_and, Bool.or_false, Bool.false_eq_true, if_false, Option.bind_some, there, Option.any_some,
    mine, beq_self_eq_true, Bool.not_true, free, Option.isSome_none, Nat.not_le.mpr room]
  have handle0 : s0.reqHandles.take 8192 = some (n, hs) := handle
  have hits (b : Published) : (if hit.contains b then { b with refs := b.refs + 1, lastMatch := s.srvTime } else b) = b := by
    rw [hhit]
    rfl
  rw [handle0]
  dsimp only
  rw [if_neg (by rintro ⟨old, -⟩; exact old fresh)]
  rename_i s1
  have same : s1 = s0 := by
    unfold s1
    simp only [hits, List.map_id']
  rw [same, hm, hwant]
  have units0 : s0.poolTakeN i (wanted l' - 0) = some (x.free.take (wanted l'), t) := units
  rw [units0, hhit]
  rfl

theorem admits_spec {k n : Nat} {g : Ring} {hs : HandleTable} {r : Request} {y : Instance} (there : tget s.rings k = some g)
    (here : tget s.instances i = some y) :
    tget (s.admits i k n hs r).requests n = some r ∧ (∀ j, j ≠ n → tget (s.admits i k n hs r).requests j = tget s.requests j) ∧
    tget (s.admits i k n hs r).rings k = some { g with bound := some n } ∧
    tget (s.admits i k n hs r).instances i = some { y with admittedCount := y.admittedCount + 1 } ∧
    ∃ is rs gs, s.admits i k n hs r = { s with instances := is, requests := rs, reqHandles := hs, rings := gs } :=
  ⟨tget_tput_same .., fun j other => tget_tput_ne _ _ other, tget_tmod_same there _, tget_tmod_same here _, _, _, _, rfl⟩

end State

section
open State
variable {s : State} {i : Nat} {x : Instance}

/-- The clause on a submission that is admitted. -/
theorem submission_admitted {h k n : Nat} {g : Ring} {hs : HandleTable} {l : List Byte} (live : s.flt.fatal = false)
    (up : s.linkUp = true) (here : tget s.instances i = some x) (opened : s.isOpen 77 = true) (work : x.submitHead ≠ x.submitTail)
    (host : parseAddr (submission x) = .host h) (aligned : submission x % 128 = 0) (read : s.fwRead (submission x) 128 = l)
    (version : le l 0 4 = 1) (good : s.badReq x l = false) (named : s.ringOf (le l 0x28 4) = some k) (there : tget s.rings k = some g)
    (mine : g.inst = i) (free : g.bound = none) (plain : le l 0x18 4 = 0) (room : (s.reqsOf i).length < x.d 0x10 2)
    (handle : s.reqHandles.take 8192 = some (n, hs)) (fresh : x.durations = [])
    (private_ : s.published = [] ∨ bitAt (le l 6 1) 1 = true) (enough : wanted l ≤ x.free.length) :
    ∃ t, exec (.requestAdmission i) s = .next t ∧ (t.mem.read (hostKey (h + 0x70))).toNat = Status.ok.code ∧
      t.mem.readAll (hostKey (h + 0x74)) 4 = leBytes 4 (t.reqHandle n) ∧
      tget t.requests n = some (submitted s i x l k (x.free.take (wanted l))) ∧
      (∀ j, j ≠ n → tget t.requests j = tget s.requests j) ∧ tget t.rings k = some { g with bound := some n } ∧
      (∃ low, tget t.instances i = some { x with
        submitHead := x.submitHead + 1, free := x.free.drop (wanted l), admittedCount := x.admittedCount + 1, poolLow := low }) ∧
      t = { s with instances := t.instances, requests := t.requests, reqHandles := hs, rings := t.rings, events := t.events,
                   mem := t.mem, plk := t.plk, out := t.out } := by
  obtain ⟨t, units, took⟩ := poolTakeN_free (i := i) (wanted l) (s.setInst i { x with submitHead := x.submitHead + 1 })
    { x with submitHead := x.submitHead + 1 } (tget_tput_same ..) enough
  obtain ⟨us, does⟩ := admitRequest_admits here work opened read version good named there mine free plain room handle fresh private_ units
  obtain ⟨is, es, p, o, frame⟩ := took.frame
  obtain ⟨low, inst⟩ := took.inst
  have rings : tget t.rings k = some g := by
    rw [frame]
    exact there
  obtain ⟨req, others, ring, inst', is', rs, gs, frame'⟩ := admits_spec (n := n) (hs := hs)
    (r := submitted s i x l k (x.free.take (wanted l))) rings inst
  have same : t.requests = s.requests := by rw [frame]; rfl
  rw [same] at others
  generalize t.admits i k n hs (submitted s i x l k (x.free.take (wanted l))) = u at does req others ring inst' frame'
  have linked : u.linkUp = s.linkUp := by
    rw [frame']
    exact took.up
  obtain ⟨p', o', answered⟩ := submitAnswer_ok ((reached_of_aligned host up aligned).of_linkUp linked) (Nat.le_refl _) (u.reqHandle n) us
  refine ⟨_, act_eq_next (f := (State.admitRequest · i)) live (does.trans answered) ?_ ?_, read_submitLine_code .., ?_, req, others, ring,
    ⟨low, inst'⟩, ?_⟩
  · rw [frame', frame]
    rfl
  · rw [frame', frame]
    rfl
  · exact readAll_submitLine_handle ..
  · rw [frame', frame]
    rfl

/-- The clause on a submission of another version. -/
theorem submission_refused {h : Nat} (live : s.flt.fatal = false) (up : s.linkUp = true) (here : tget s.instances i = some x)
    (opened : s.isOpen 77 = true) (work : x.submitHead ≠ x.submitTail) (host : parseAddr (submission x) = .host h)
    (aligned : submission x % 128 = 0) (other : le (s.fwRead (submission x) 128) 0 4 ≠ 1) :
    ∃ t, exec (.requestAdmission i) s = .next t ∧ (t.mem.read (hostKey (h + 0x70))).toNat = Status.versionUnsupported.code ∧
      bitAt (t.ev evSrv).value 0 = true ∧ tget t.instances i = some { x with submitHead := x.submitHead + 1 } ∧
      t = { s with instances := t.instances, events := t.events, mem := t.mem, plk := t.plk, out := t.out } := by
  have does := admitRequest_version here work opened other
  have reach : (s.setInst i { x with submitHead := x.submitHead + 1 }).Reached (submission x) h 128 := reached_of_aligned host up aligned
  obtain ⟨⟨es, p, o, answered⟩, told⟩ := submitAnswer_refused reach (Nat.le_refl _) (st := .versionUnsupported) (by decide) 0 0 0
  rw [answered] at told
  exact ⟨_, act_eq_next (f := (State.admitRequest · i)) live (does.trans answered), read_submitLine_code .., told, tget_tput_same .., rfl⟩

end

end Sys2Proof.Machine
end

section
/-! SUPPORT. What a store to memory leaves: a protected frame may begin its copy or end its checkpoint (R189, R318). -/

set_option Elab.async false

namespace Sys2Proof.Machine

/-- What a store may change: memory and its lines, the checkpoint and its protection, and what tells of its end. -/
structure Stores (s t : State) : Prop where
  frame : ∃ cs as ck m ls es p o net later, t = { s with
    contexts := cs, attrs := as, ckp := ck, mem := m, lines := ls, events := es, plk := p, out := o, netOut := net, netHeld := later }
  bits : ∀ e b, bitAt (s.ev e).value b = true → bitAt (t.ev e).value b = true

namespace Stores

variable {s t u : State}

theorem refl (s : State) : Stores s s := ⟨⟨_, _, _, _, _, _, _, _, _, _, rfl⟩, fun _ _ => id⟩

theorem trans (h : Stores s t) (k : Stores t u) : Stores s u := by
  refine ⟨?_, fun e b => k.bits e b ∘ h.bits e b⟩
  obtain ⟨_, _, _, _, _, _, _, _, _, _, h'⟩ := h.frame
  obtain ⟨_, _, _, _, _, _, _, _, _, _, k'⟩ := k.frame
  rw [h'] at k'
  exact ⟨_, _, _, _, _, _, _, _, _, _, k'⟩

theorem foldl {α : Type} {f : State → α → State} (step : ∀ s a, Stores s (f s a)) (l : List α) (s : State) : Stores s (l.foldl f s) :=
  List.foldlRecOn (motive := Stores s) l f (refl s) fun t ht a _ => ht.trans (step t a)

theorem of_records (h : Records s t) : Stores s t := by
  refine ⟨?_, h.keeps.bits⟩
  obtain ⟨m, ls, held, fl, n, full, net, later, es, p, o, h'⟩ := h.frame
  exact ⟨s.contexts, s.attrs, _, m, ls, es, p, o, net, later, h'⟩

theorem of_wrote (h : Wrote s t) : Stores s t := by
  obtain ⟨m, ls, p, o, h'⟩ := h
  have same (e : Nat) : t.ev e = s.ev e := by
    rw [h']
    rfl
  exact ⟨⟨s.contexts, s.attrs, s.ckp, m, ls, s.events, p, o, s.netOut, s.netHeld, h'⟩, fun e b h => by rw [same]; exact h⟩

theorem raiseEv (s : State) (e b : Nat) : Stores s (s.raiseEv e b) := of_records (.raiseEv ..)

theorem dirtied (s : State) (k n : Nat) : Stores s (s.dirtied k n) := by
  rw [State.dirtied_eq]
  exact of_wrote ⟨s.mem, _, s.plk, s.out, rfl⟩

theorem memory (s : State) (m : Memory) : Stores s { s with mem := m } := of_wrote ⟨m, s.lines, s.plk, s.out, rfl⟩

theorem ckp (s : State) (k : Ckp) : Stores s { s with ckp := k } := ⟨⟨_, _, k, _, _, _, _, _, _, _, rfl⟩, fun _ _ => id⟩

theorem clearWp (s : State) (p : Nat) : Stores s (s.clearWp p) := by
  obtain ⟨as, m, ls, held, copying, h⟩ := s.clearWp_eq p
  rw [h]
  exact ⟨⟨s.contexts, as, _, m, ls, s.events, s.plk, s.out, s.netOut, s.netHeld, rfl⟩, fun _ _ => id⟩

theorem ckptEnd (s : State) (failed : Bool) : Stores s (s.ckptEnd failed) := by
  unfold State.ckptEnd
  split
  · extract_lets _ s1 s2
    have first : Stores s s1 := ⟨⟨_, _, _, _, _, _, _, _, _, _, rfl⟩, fun _ _ => id⟩
    have second : Stores s1 s2 := by
      unfold s2
      split
      · exact .clearWp ..
      · exact .refl s1
    have third : Stores s2 (if s.ckp.forced then s2.logRelease true else s2) := by
      split
      · exact of_records (.logRelease ..)
      · exact .refl s2
    exact (((first.trans second).trans third).trans (of_records (.ckptRecord _))).trans (.raiseEv ..)
  · exact .refl s

theorem cowStart (s : State) (f : Nat) : Stores s (s.cowStart f) := by
  unfold State.cowStart
  split
  · exact .refl s
  · extract_lets die
    split
    · exact .ckp ..
    · split
      · exact ((Stores.clearWp ..).trans (.ckptEnd ..)).trans (.raiseEv ..)
      · exact .refl s

theorem putKey (s : State) (c q : Nat) (idx : Word) (k : Nat) (l : List Byte) : Stores s (s.putKey c q idx k l) := by
  unfold State.putKey
  split
  · extract_lets s1
    have first : Stores s s1 := .cowStart ..
    split
    · exact first.trans (.ckp ..)
    · exact (first.trans (.memory ..)).trans (.dirtied ..)
  · exact (Stores.memory ..).trans (.dirtied ..)

theorem putRow (c q : Nat) (idx : Word) (row : RowAt) :
    ∀ (fuel off : Nat) (l : List Byte) (s : State), Stores s (s.putRow c q idx row off l fuel)
  | 0, _, _, s => .refl s
  | fuel + 1, off, l, s => by
    unfold State.putRow
    split
    · exact .refl s
    · exact .refl s
    · exact (Stores.putKey ..).trans (putRow c q idx row fuel ..)

theorem send (s : State) (m : OutMsg) : Stores s (s.send m) := by
  rw [State.send_eq]
  exact of_wrote ⟨s.mem, s.lines, _, _, rfl⟩

theorem hostWrites (c q : Nat) (idx : Word) : ∀ (fuel h : Nat) (l : List Byte) (s : State), Stores s (s.hostWrites c q idx h l fuel)
  | 0, _, _, s => .refl s
  | fuel + 1, h, l, s => by
    unfold State.hostWrites
    split
    · exact .refl s
    · extract_lets n
      refine Stores.trans ?_ (hostWrites c q idx fuel ..)
      refine Stores.trans (of_wrote ⟨_, s.lines, _, s.out, rfl⟩) (.send ..)

theorem putBytes (s : State) (c q : Nat) (idx : Word) (ptn die a : Nat) (l : List Byte) : Stores s (s.putBytes c q idx ptn die a l) := by
  unfold State.putBytes
  split
  · split
    · exact .refl s
    · exact .hostWrites ..
  · exact .putRow ..

theorem srvPut (s : State) (i : Nat) (x : Instance) (a : Nat) (l : List Byte) : Stores s (s.srvPut i x a l) := .putBytes ..

theorem fwWrite (s : State) (a : Nat) (l : List Byte) : Stores s (s.fwWrite a l) := by
  obtain ⟨m, ls, h⟩ := s.fwWrite_frame a l
  exact of_wrote ⟨m, ls, s.plk, s.out, h⟩

end Stores

end Sys2Proof.Machine
end

section
/-! SUPPORT. The serving engine at work: what its steps leave of an Instance and of a request (R265 to R285). -/

set_option Elab.async false

namespace Sys2Proof.Machine

/-- What the work of a step may change of its Instance before the step ends. -/
def pooled (x : Instance) (free : List Nat) (low : Bool) (ttft tbt : Nat) : Instance :=
  { x with free := free, poolLow := low, ttftMiss := ttft, tbtMiss := tbt }

theorem pooled_self (x : Instance) : x = pooled x x.free x.poolLow x.ttftMiss x.tbtMiss := rfl

/-- What the serving engine's work leaves: an Instance keeps its step, and nothing outside the engine, memory and the messages changes. -/
structure Serves (s t : State) (i : Nat) : Prop where
  frame : ∃ is rqs hs gs pubs cs as ck m ls es p o net later, t = { s with
    instances := is, requests := rqs, reqHandles := hs, rings := gs, published := pubs
    contexts := cs, attrs := as, ckp := ck, mem := m, lines := ls, events := es, plk := p, out := o, netOut := net, netHeld := later }
  inst : ∀ x, tget s.instances i = some x → ∃ f l a b, tget t.instances i = some (pooled x f l a b)

namespace Serves

variable {s t u : State} {i : Nat}

theorem of_same {is : Tab Instance} (same : t.instances = s.instances) (frame : ∃ rqs hs gs pubs cs as ck m ls es p o net later, t = { s with
    instances := is, requests := rqs, reqHandles := hs, rings := gs, published := pubs
    contexts := cs, attrs := as, ckp := ck, mem := m, lines := ls, events := es, plk := p, out := o, netOut := net, netHeld := later }) :
    Serves s t i := by
  refine ⟨⟨is, frame⟩, fun x here => ⟨x.free, x.poolLow, x.ttftMiss, x.tbtMiss, ?_⟩⟩
  rw [same]
  exact here

theorem refl (s : State) (i : Nat) : Serves s s i := of_same rfl ⟨_, _, _, _, _, _, _, _, _, _, _, _, _, _, rfl⟩

theorem trans (h : Serves s t i) (k : Serves t u i) : Serves s u i := by
  refine ⟨?_, fun x here => ?_⟩
  · obtain ⟨_, _, _, _, _, _, _, _, _, _, _, _, _, _, _, h'⟩ := h.frame
    obtain ⟨_, _, _, _, _, _, _, _, _, _, _, _, _, _, _, k'⟩ := k.frame
    rw [h'] at k'
    exact ⟨_, _, _, _, _, _, _, _, _, _, _, _, _, _, _, k'⟩
  · obtain ⟨_, _, _, _, there⟩ := h.inst x here
    obtain ⟨f, l, a, b, there'⟩ := k.inst _ there
    exact ⟨f, l, a, b, there'⟩

theorem foldl {α : Type} {f : State → α → State} (step : ∀ s a, Serves s (f s a) i) (l : List α) (s : State) : Serves s (l.foldl f s) i :=
  List.foldlRecOn (motive := fun t : State => Serves s t i) l f (refl s i) fun t ht a _ => ht.trans (step t a)

theorem of_stores (h : Stores s t) : Serves s t i := by
  obtain ⟨cs, as, ck, m, ls, es, p, o, net, later, h'⟩ := h.frame
  exact of_same (is := s.instances) (by rw [h'])
    ⟨s.requests, s.reqHandles, s.rings, s.published, cs, as, ck, m, ls, es, p, o, net, later, h'⟩

theorem raiseEv (s : State) (e b : Nat) : Serves s (s.raiseEv e b) i := of_stores (.raiseEv ..)

theorem setReq (s : State) (k : Nat) (r : Request) : Serves s (s.setReq k r) i :=
  of_same (is := s.instances) rfl ⟨_, _, _, _, _, _, _, _, _, _, _, _, _, _, rfl⟩

theorem rings (s : State) (gs : Tab Ring) : Serves s { s with rings := gs } i :=
  of_same (is := s.instances) rfl ⟨_, _, _, _, _, _, _, _, _, _, _, _, _, _, rfl⟩

theorem published (s : State) (pubs : List Published) : Serves s { s with published := pubs } i :=
  of_same (is := s.instances) rfl ⟨_, _, _, _, _, _, _, _, _, _, _, _, _, _, rfl⟩

theorem requests (s : State) (gs : Tab Ring) (rqs : Tab Request) (hs : HandleTable) :
    Serves s { s with rings := gs, requests := rqs, reqHandles := hs } i :=
  of_same (is := s.instances) rfl ⟨_, _, _, _, _, _, _, _, _, _, _, _, _, _, rfl⟩

theorem modInst (s : State) (j : Nat) {f : Instance → Instance} (pools : ∀ x, ∃ r l a b, f x = pooled x r l a b) :
    Serves s (s.modInst j f) i := by
  refine ⟨⟨_, _, _, _, _, _, _, _, _, _, _, _, _, _, _, rfl⟩, fun x here => ?_⟩
  by_cases own : i = j
  · subst own
    obtain ⟨r, l, a, b, same⟩ := pools x
    exact ⟨r, l, a, b, (State.tget_tmod_same here f).trans (by rw [same])⟩
  · exact ⟨x.free, x.poolLow, x.ttftMiss, x.tbtMiss, (State.tget_tmod_ne f own).trans here⟩

theorem freed (s : State) (j : Nat) (l : List Nat) : Serves s (s.modInst j fun x => { x with free := x.free ++ l }) i :=
  modInst s j fun x => ⟨x.free ++ l, x.poolLow, x.ttftMiss, x.tbtMiss, rfl⟩

theorem unitGone (s : State) (j u : Nat) : Serves s (s.unitGone j u) i := by
  unfold State.unitGone
  split
  · exact .published ..
  · exact .freed ..

theorem poolCheck (s : State) (j : Nat) : Serves s (s.poolCheck j) i := by
  unfold State.poolCheck
  split
  · exact .refl s i
  next x here =>
    extract_lets low s1
    have set : Serves s s1 i := by
      refine ⟨⟨_, _, _, _, _, _, _, _, _, _, _, _, _, _, _, rfl⟩, fun y there => ?_⟩
      by_cases own : i = j
      · subst own
        obtain rfl : x = y := Option.some.inj (here.symm.trans there)
        exact ⟨x.free, low, x.ttftMiss, x.tbtMiss, tget_tput_same ..⟩
      · exact ⟨y.free, y.poolLow, y.ttftMiss, y.tbtMiss, (tget_tput_ne _ _ own).trans there⟩
    split
    · exact set.trans (.raiseEv ..)
    · exact set

theorem setProv (s : State) (x : Instance) (u : Nat) (on : Bool) : Serves s (s.setProv x u on) i := by
  unfold State.setProv
  refine Serves.foldl (fun s v => ?_) _ s
  split
  · exact of_same (is := s.instances) rfl ⟨_, _, _, _, _, _, _, _, _, _, _, _, _, _, rfl⟩
  · exact .refl s i

theorem ringWrite_stores (s : State) (k : Nat) (g : Ring) (a : Nat) (l : List Byte) : Stores s (s.ringWrite k g a l) := by
  unfold State.ringWrite State.ringPost
  split
  · exact .of_records (.sendNet ..)
  · split
    · exact .hostWrites ..
    · exact .of_wrote (wrote_post ..)

/-- A ring's next entry. -/
theorem ringPut_spec (s : State) (k ty st flags value pos time : Nat) :
    (tget s.rings k = none ∧ s.ringPut k ty st flags value pos time = s) ∨
    ∃ g u e, tget s.rings k = some g ∧ Stores s u ∧ s.ringPut k ty st flags value pos time =
      { u with rings := tput u.rings k { g with count := g.count + 1, recent := g.recent ++ [e] } } := by
  unfold State.ringPut
  split
  next none_ => exact .inl ⟨none_, rfl⟩
  next g there => exact .inr ⟨g, _, _, there, ringWrite_stores .., rfl⟩

theorem ringPut (s : State) (k ty st flags value pos time : Nat) : Serves s (s.ringPut k ty st flags value pos time) i := by
  obtain ⟨-, none_⟩ | ⟨g, u, e, -, stores, put⟩ := ringPut_spec s k ty st flags value pos time
  · rw [none_]
    exact .refl s i
  · rw [put]
    exact (of_stores stores).trans (.rings ..)

theorem flushOut (k : Nat) : ∀ (fuel : Nat) (s : State), Serves s (s.flushOut k fuel).1 i
  | 0, s => .refl s i
  | fuel + 1, s => by
    unfold State.flushOut
    split
    · exact .refl s i
    · split
      · exact .refl s i
      · split
        · exact ((Serves.ringPut ..).trans (.setReq ..)).trans (flushOut k fuel _)
        · exact .refl s i

theorem deliver (s : State) (k : Nat) : Serves s (s.deliver k) i := by
  unfold State.deliver
  split
  · exact .refl s i
  · extract_lets f
    have first : Serves s f.1 i := .flushOut ..
    split
    · exact first
    · extract_lets
      exact (first.trans (.setReq ..)).trans (.modInst _ _ fun x => ⟨_, _, _, _, rfl⟩)

theorem retireReq (s : State) (k : Nat) (st : Status) : Serves s (s.retireReq k st) i := by
  unfold State.retireReq
  split
  · exact .refl s i
  next r _ =>
    extract_lets now fl s1 s2 s3 kept s4 s5
    have h1 : Serves s s1 i := by
      unfold s1
      split
      · split
        · exact .refl s i
        · exact (Serves.ringPut ..).trans (.ringPut ..)
      · exact .refl s i
    have h2 : Serves s1 s2 i := .foldl (fun s u => .unitGone ..) _ s1
    have h3 : Serves s2 s3 i := .freed ..
    have h4 : Serves s3 s4 i := .requests ..
    have h5 : Serves s s5 i := (((h1.trans h2).trans h3).trans h4).trans (.poolCheck ..)
    split
    · exact h5.trans (.raiseEv ..)
    · exact h5

theorem boundaryTests (s : State) (j : Nat) : Serves s (s.boundaryTests j) i := by
  unfold State.boundaryTests
  refine Serves.foldl (fun s k => ?_) _ s
  split
  · exact .retireReq ..
  · extract_lets s1
    have first : Serves s s1 i := .deliver ..
    split
    · exact first
    · extract_lets late
      split
      · exact first.trans (.retireReq ..)
      · split
        · exact first.trans (.retireReq ..)
        · split
          · exact first.trans (.retireReq ..)
          · exact first.trans (.setReq ..)

theorem publish (s : State) (k : Nat) : Serves s (s.publish k) i := by
  unfold State.publish
  split
  · exact .refl s i
  · split
    · exact .refl s i
    · split
      · exact .refl s i
      · extract_lets whole hs
        refine Serves.foldl (fun s p => ?_) _ s
        dsimp only
        split
        · exact .refl s i
        · exact .published ..

theorem trimUnits (s : State) (k : Nat) : Serves s (s.trimUnits k) i := by
  unfold State.trimUnits
  split
  · exact .refl s i
  · extract_lets n keep
    refine Serves.trans (.setReq ..) (.foldl (fun s u => ?_) _ _)
    split
    · split
      · exact .setReq ..
      · exact .unitGone ..
    · exact .refl s i

theorem takeOutputs (s : State) (q : StepSeq) (ys : List (Nat × Nat)) : Serves s (s.takeOutputs q ys) i := by
  unfold State.takeOutputs
  split
  · exact .refl s i
  · extract_lets
    split
    · exact (Serves.setReq ..).trans (.publish ..)
    · split
      · exact (Serves.setReq ..).trans (.publish ..)
      · exact ((Serves.setReq ..).trans (.trimUnits ..)).trans (.publish ..)

theorem still (h : Serves s t i) : t.pending = s.pending ∧ t.variant = s.variant := by
  obtain ⟨_, _, _, _, _, _, _, _, _, _, _, _, _, _, _, h'⟩ := h.frame
  rw [h']
  exact ⟨rfl, rfl⟩

theorem time (h : Serves s t i) : t.srvTime = s.srvTime := by
  obtain ⟨_, _, _, _, _, _, _, _, _, _, _, _, _, _, _, h'⟩ := h.frame
  rw [h']
  rfl

end Serves

end Sys2Proof.Machine
end

section
/-! SUPPORT. The boundary of a step and the end of a pass (R265, R268, R270, R281). -/

set_option Elab.async false

namespace Sys2Proof.Machine

namespace State

variable {s : State} {i k : Nat} {x : Instance} {r : Request}

/-! ### Passes (R268) -/

theorem ringDoorbell_eq (s : State) (n v : Nat) : ∃ cs es p o, s.ringDoorbell n v =
    { s with contexts := cs, events := es, plk := p, out := o } := by
  unfold ringDoorbell
  dsimp only
  split
  · exact ⟨s.contexts, _, _, _, raiseCtx_eq ..⟩
  · split
    · exact ⟨s.contexts, s.events, s.plk, s.out, rfl⟩
    · exact ⟨_, s.events, s.plk, s.out, rfl⟩

/-- What issuing a pass leaves: only its Instance, its context's queue and memory change. -/
structure Issued (s t : State) (i : Nat) (x : Instance) : Prop where
  frame : ∃ is cs as ck m ls es p o net later, t = { s with
    instances := is, contexts := cs, attrs := as, ckp := ck, mem := m, lines := ls, events := es, plk := p, out := o
    netOut := net, netHeld := later }
  inst : ∃ at_ next, tget t.instances i = some { x with pass := x.pass + 1, doneAt := at_, expected := next }

theorem issuePass_issued (here : tget s.instances i = some x) : Issued s (s.issuePass i) i x := by
  unfold issuePass
  split
  next none_ => rw [here] at none_; cases none_
  next y there =>
  obtain rfl : x = y := Option.some.inj (here.symm.trans there)
  extract_lets c draft len tmpl s1 q s2 next s3
  have lists : Stores s (s.putLists i x) := by
    unfold putLists
    refine .foldl (fun s q => ?_) _ s
    split
    · exact .srvPut ..
    · exact .refl s
  have table : Stores s s1 := lists.trans (.srvPut ..)
  have template : Stores s s2 := table.trans (.foldl (fun s j => .fwWrite ..) _ s1)
  obtain ⟨cs, as, ck, m, ls, es, p, o, net, later, frame⟩ := template.frame
  obtain ⟨cs', es', p', o', rung⟩ := s3.ringDoorbell_eq (4 * c) ((q.tail + BitVec.ofNat 32 len).toNat + s3.ctxHandles.gen c * 2 ^ 32)
  rw [rung]
  refine ⟨⟨s3.instances, cs', as, ck, m, ls, es', p', o', net, later, ?_⟩, next, _, tget_tput_same ..⟩
  have set : s3 = { s2 with instances := s3.instances } := rfl
  generalize s3.instances = is at set
  rw [set, frame]

theorem Issued.still {t : State} (h : Issued s t i x) : t.pending = s.pending ∧ t.variant = s.variant := by
  obtain ⟨_, _, _, _, _, _, _, _, _, _, _, h'⟩ := h.frame
  rw [h']
  exact ⟨rfl, rfl⟩

/-! ### The tests at a boundary (R281, R282) -/

/-- The counters of an Instance that a boundary's tests may raise. -/
def missed (x : Instance) (ttft tbt : Nat) : Instance := { x with ttftMiss := ttft, tbtMiss := tbt }

/-- A request with nothing to deliver stays as it is. -/
theorem deliver_quiet (here : tget s.requests k = some r) (empty : r.outbox = []) (ready : r.state ≠ .held) :
    ∃ f : Instance → Instance, (∀ x, ∃ a b, f x = missed x a b) ∧ s.deliver k = (s.setReq k r).modInst r.inst f := by
  have flush : s.flushOut k r.outbox.length = (s, 0) := by rw [empty]; rfl
  unfold deliver
  split
  next none_ => rw [here] at none_; cases none_
  next r0 there =>
  obtain rfl : r = r0 := Option.some.inj (here.symm.trans there)
  extract_lets f
  have hf : f = (s, 0) := flush
  rw [hf]
  split
  next none_ => rw [here] at none_; cases none_
  next r1 there' =>
  obtain rfl : r = r1 := Option.some.inj (here.symm.trans there')
  refine ⟨fun x => missed x (satAdd 32 x.ttftMiss (b2n (r.firstToken.isNone && (0 : Nat) != 0 && r.ttftTarget != 0 &&
    decide (1000 * r.ttftTarget < (s.srvTime - r.admitted).toNat)))) (satAdd 32 x.tbtMiss (r.tbtMissed s.srvTime 0)),
    fun x => ⟨_, _, rfl⟩, ?_⟩
  extract_lets ttft gap r1 lost r2 s2 first
  have h1 : r1 = r := by
    unfold r1
    exact if_pos rfl
  have h2 : r2 = r := by
    unfold r2
    rw [h1, empty, List.isEmpty_nil, if_pos rfl, if_neg (fun h => ready h.1)]
  unfold s2
  rw [h2]
  rfl

/-- A request that neither waits too long nor is over stays, with nothing to deliver. -/
theorem boundaryTests_quiet (only : s.reqsOf i = [k]) (here : tget s.requests k = some r) (mine : r.inst = i) (empty : r.outbox = [])
    (queued : r.state = .queued) (going : r.cancelled = false) (none_ : r.generated = 0) (time : r.late s.srvTime = false) :
    ∃ f : Instance → Instance, (∀ x, ∃ a b, f x = missed x a b) ∧
      s.boundaryTests i = ((s.setReq k r).modInst i f).setReq k { r with runsLate := false } := by
  obtain ⟨f, misses, delivered⟩ := deliver_quiet here empty (by rw [queued]; nofun)
  rw [mine] at delivered
  have still : tget (s.deliver k).requests k = some r := by
    rw [delivered]
    exact tget_tput_same ..
  have now : (s.deliver k).srvTime = s.srvTime := by
    rw [delivered]
    rfl
  have stuck : (tget s.requests k).any s.stuckLate = false := by
    rw [here]
    simp [stuckLate, time]
  have over_ : (s.deliver k).reqFinished r = false := by simp [reqFinished, none_]
  refine ⟨f, misses, ?_⟩
  unfold boundaryTests
  rw [only, List.foldl_cons, List.foldl_nil, stuck, if_neg Bool.false_ne_true]
  dsimp only
  rw [still]
  dsimp only
  rw [now, time, going, over_]
  simp only [Bool.false_and, Bool.false_eq_true, if_false]
  rw [delivered]

/-- A queued request past its deadline retires. -/
theorem boundaryTests_late (only : s.reqsOf i = [k]) (here : tget s.requests k = some r) (queued : r.state = .queued)
    (late : r.late s.srvTime = true) (fresh : r.runsLate = false) : s.boundaryTests i = s.retireReq k .deadlineMissed := by
  have stuck : (tget s.requests k).any s.stuckLate = true := by
    rw [here]
    simp [stuckLate, late, fresh, queued]
  unfold boundaryTests
  rw [only, List.foldl_cons, List.foldl_nil, stuck, if_pos rfl]

theorem boundaryTests_none (none_ : s.reqsOf i = []) : s.boundaryTests i = s := by
  unfold boundaryTests
  rw [none_]
  rfl

/-! ### The table of requests -/

/-- A request that an Instance has, in a table of requests. -/
def listsReq (i : Nat) (p : Nat × Request) : Bool := p.2.inst == i && p.2.state != .free

theorem reqsOf_eq (s : State) (i : Nat) : s.reqsOf i = (s.requests.filter (listsReq i)).map (·.1) := rfl

/-- In a table in order, replacing a request by one of the same Instance leaves the list of an Instance's requests. -/
theorem reqs_tput {t : Tab Request} {r' : Request} (sorted : t.Pairwise fun p q => p.1 < q.1) (here : tget t k = some r)
    (same : listsReq i (k, r') = listsReq i (k, r)) :
    ((tput t k r').filter (listsReq i)).map (·.1) = (t.filter (listsReq i)).map (·.1) := by
  induction t with
  | nil => cases here
  | cons p t ih =>
    obtain ⟨j, b⟩ := p
    obtain ⟨least, rest⟩ := List.pairwise_cons.mp sorted
    unfold tget at here
    by_cases own : j = k
    · subst own
      rw [if_pos rfl] at here
      obtain rfl := Option.some.inj here
      rw [tput, if_neg (Nat.lt_irrefl j), if_pos rfl, List.filter_cons, List.filter_cons, same]
      split <;> rfl
    · rw [if_neg own] at here
      have later : j < k := least _ (mem_of_tget_eq_some here)
      rw [tput, if_neg (Nat.lt_asymm later), if_neg (Ne.symm own), List.filter_cons, List.filter_cons]
      have tail := ih rest here
      split
      · rw [List.map_cons, List.map_cons, tail]
      · exact tail

theorem reqs_tdel (t : Tab Request) :
    ((tdel t k).filter (listsReq i)).map (·.1) = ((t.filter (listsReq i)).map (·.1)).filter (· != k) := by
  induction t with
  | nil => rfl
  | cons p t ih =>
    obtain ⟨j, b⟩ := p
    unfold tdel
    by_cases own : j = k
    · subst own
      rw [if_pos rfl, ih, List.filter_cons]
      split
      · simp
      · rfl
    · rw [if_neg own, List.filter_cons, List.filter_cons]
      split
      · simp [own, ih]
      · exact ih

/-! ### Placing a request in a step (R268) -/

theorem listUnits_reserved (n : Nat) : ∀ (s : State) (r : Request), tget s.requests k = some r → n ≤ r.reserved.length →
    ∃ t, s.listUnits k n = (true, t) ∧
      tget t.requests k = some { r with units := r.units ++ r.reserved.take n, reserved := r.reserved.drop n } ∧
      ∃ rqs, t = { s with requests := rqs } := by
  induction n with
  | zero =>
    intro s r here _
    refine ⟨s, rfl, ?_, s.requests, rfl⟩
    rw [List.take_zero, List.append_nil, List.drop_zero]
    exact here
  | succ n ih =>
    intro s r here enough
    obtain ⟨u, rest, free⟩ := List.exists_cons_of_length_pos (l := r.reserved) (by omega)
    have first : s.unitFor k 8193 = (some u, s.setReq k { r with reserved := rest }) := by
      unfold unitFor
      rw [here]
      dsimp only
      rw [free]
    have there : tget ((s.setReq k { r with reserved := rest }).modReq k fun r => { r with units := r.units ++ [u] }).requests k =
        some { r with reserved := rest, units := r.units ++ [u] } := tget_tmod_same (tget_tput_same ..) _
    have fits : n ≤ rest.length := by
      rw [free, List.length_cons] at enough
      omega
    obtain ⟨t, listed, ends, rqs, frame⟩ := ih _ _ there fits
    refine ⟨t, ?_, ?_, rqs, frame⟩
    · rw [listUnits, first]
      exact listed
    · rw [ends, free]
      simp

/-- The part of a step that feeds a prompt. -/
def feeding (k first count : Nat) : StepSeq :=
  { req := k, kind := 0, first := first, count := count, drafts := 0, catchUp := 0, listed := [], drafted := [] }

/-- The request that a step feeds. -/
def fed (r : Request) (more : Nat) : Request :=
  { r with units := r.units ++ r.reserved.take more, reserved := r.reserved.drop more }

theorem place_feeds (here : tget s.requests k = some r) (none_ : r.generated = 0) (left : r.fed < r.len) (seqs : 1 ≤ x.maxSeqs)
    (tokens : 1 ≤ x.stepTokens)
    (enough : ceilDiv (r.fed + Nat.min (r.len - r.fed) x.stepTokens) 16 - r.units.length ≤ r.reserved.length) :
    ∃ t, s.place x [] k = (some (feeding k r.fed (Nat.min (r.len - r.fed) x.stepTokens)), t) ∧
      tget t.requests k = some (fed r (ceilDiv (r.fed + Nat.min (r.len - r.fed) x.stepTokens) 16 - r.units.length)) ∧
      ∃ rqs, t = { s with requests := rqs } := by
  obtain ⟨t, listed, ends, frame⟩ := listUnits_reserved _ s r here enough
  have some_ : Nat.min (r.len - r.fed) x.stepTokens ≠ 0 := by
    have := Nat.lt_min.mpr (⟨Nat.sub_pos_of_lt left, tokens⟩ : 0 < r.len - r.fed ∧ 0 < x.stepTokens)
    exact Nat.ne_of_gt this
  have fits : ¬x.stepTokens < Nat.min (r.len - r.fed) x.stepTokens := Nat.not_lt.mpr (Nat.min_le_right ..)
  have prompt : r.decodes = false := by simp [Request.decodes, none_]
  refine ⟨t, ?_, ends, frame⟩
  unfold place
  rw [here]
  dsimp only
  have room : x.stepTokens - targetRows [] = x.stepTokens := rfl
  rw [room, if_neg (by simp; omega), prompt, none_]
  simp only [Bool.false_eq_true, if_false, bne_self_eq_false, Bool.and_false]
  rw [if_neg (by rintro (h | ⟨h, -⟩); exacts [fits h, some_ h]), listed]
  rfl

theorem fillOne_feeds (inst : tget s.instances i = some x) (here : tget s.requests k = some r) (queued : r.state = .queued)
    (none_ : r.generated = 0) (left : r.fed < r.len) (seqs : 1 ≤ x.maxSeqs) (tokens : 1 ≤ x.stepTokens)
    (enough : ceilDiv (r.fed + Nat.min (r.len - r.fed) x.stepTokens) 16 - r.units.length ≤ r.reserved.length) :
    ∃ t, fillOne (s, []) i k = (t, [feeding k r.fed (Nat.min (r.len - r.fed) x.stepTokens)]) ∧
      tget t.requests k =
        some { fed r (ceilDiv (r.fed + Nat.min (r.len - r.fed) x.stepTokens) 16 - r.units.length) with state := .prefill } ∧
      ∃ rqs, t = { s with requests := rqs } := by
  obtain ⟨u, placed, there, rqs, frame⟩ := place_feeds here none_ left seqs tokens enough
  have prompt : r.decodes = false := by simp [Request.decodes, none_]
  refine ⟨u.modReq k fun y => { y with state := placedState y }, ?_, (tget_tmod_same there _).trans ?_,
    (u.modReq k fun y => { y with state := placedState y }).requests, ?_⟩
  · unfold fillOne
    dsimp only
    rw [inst, here]
    dsimp only
    rw [if_neg (by rw [queued]; nofun), prompt, Bool.false_and, if_neg Bool.false_ne_true, placed]
    rfl
  · have state : placedState (fed r (ceilDiv (r.fed + Nat.min (r.len - r.fed) x.stepTokens) 16 - r.units.length)) = .prefill := by
      unfold placedState
      have same : (fed r (ceilDiv (r.fed + Nat.min (r.len - r.fed) x.stepTokens) 16 - r.units.length)).decodes = r.decodes := rfl
      rw [same, prompt]
      rfl
    rw [state]
  · have set : u.modReq k (fun y => { y with state := placedState y }) =
      { u with requests := (u.modReq k fun y => { y with state := placedState y }).requests } := rfl
    generalize (u.modReq k fun y => { y with state := placedState y }).requests = rqs' at set
    rw [set, frame]

theorem overload_placed (l : StepSeq) : s.overload [l.req] [l] = s := by
  unfold overload
  have none_ : ([l.req].filter fun k => !([l].any fun q => q.req == k) && (tget s.requests k).any fun r => !r.critical) = [] := by
    simp
  rw [none_]
  rfl

theorem overload_none : s.overload [] [] = s := rfl

/-- The Instance whose step begins. -/
def stepping (x : Instance) (now : DWord) (l : List StepSeq) : Instance :=
  { x with inStep := true, stepStart := now, passIndex := 0, drafts := 0, seqs := l, firstPass := x.pass, prov := [], repeats := 0 }

theorem sortBy_one (le : Nat → Nat → Bool) (k : Nat) : sortBy le [k] = [k] := rfl

/-- A boundary that places one request to be fed begins the step with it. -/
theorem stepBoundary_feeds {t u : State} (here : tget s.instances i = some x) (idle : x.inStep = false) (opened : s.isOpen 77 = true)
    (tests : s.boundaryTests i = t) (only : t.reqsOf i = [k]) {n : Nat} (fills : fillOne (t, []) i k = (u, [feeding k r.fed n]))
    {y : Instance} (inst : tget u.instances i = some y) :
    s.stepBoundary i = (u.setInst i (stepping y s.srvTime [feeding k r.fed n])).issuePass i := by
  unfold stepBoundary
  split
  next none_ => rw [here] at none_; cases none_
  next x0 there =>
  obtain rfl : x = x0 := Option.some.inj (here.symm.trans there)
  rw [if_neg (by simp [idle, opened])]
  extract_lets s1 order f s2
  have horder : order = [k] := by
    unfold order s1
    rw [tests, only]
    rfl
  have hf : f = (u, [feeding k r.fed n]) := by
    unfold f s1
    rw [horder, tests]
    exact fills
  have h2 : s2 = u := by
    unfold s2
    rw [hf, horder]
    exact overload_placed (feeding k r.fed n)
  rw [h2, inst]
  dsimp only
  rename_i prov drafts
  have hp : prov = [] := by
    unfold prov
    rw [hf]
    rfl
  have hd : drafts = 0 := by
    unfold drafts
    rw [hf]
    rfl
  rw [hp, hd, hf]
  rfl

theorem stepBoundary_idle {t : State} (here : tget s.instances i = some x) (idle : x.inStep = false) (opened : s.isOpen 77 = true)
    (tests : s.boundaryTests i = t) (none_ : t.reqsOf i = []) : s.stepBoundary i = t := by
  unfold stepBoundary
  split
  next none_ => rw [here] at none_; cases none_
  next x0 there =>
  obtain rfl : x = x0 := Option.some.inj (here.symm.trans there)
  rw [if_neg (by simp [idle, opened])]
  extract_lets s1 order f s2
  have horder : order = [] := by
    unfold order s1
    rw [tests, none_]
    rfl
  have hf : f = (t, []) := by
    unfold f s1
    rw [horder, tests]
    rfl
  have h2 : s2 = t := by
    unfold s2
    rw [hf, horder]
    rfl
  rw [h2]
  split
  · rfl
  · rw [hf]
    exact if_pos rfl

/-! ### Retiring a request (R281, R285) -/

theorem unitGone_eq (s : State) (j u : Nat) : ∃ is pubs, s.unitGone j u = { s with instances := is, published := pubs } := by
  unfold unitGone
  split
  · exact ⟨s.instances, _, rfl⟩
  · exact ⟨_, s.published, rfl⟩

theorem unitsGone_eq (l : List Nat) (s : State) (j : Nat) :
    ∃ is pubs, l.foldl (fun (s : State) u => s.unitGone j u) s = { s with instances := is, published := pubs } := by
  induction l generalizing s with
  | nil => exact ⟨s.instances, s.published, rfl⟩
  | cons u r ih =>
    obtain ⟨is, pubs, h⟩ := s.unitGone_eq j u
    obtain ⟨is', pubs', h'⟩ := ih (s.unitGone j u)
    rw [h] at h'
    exact ⟨is', pubs', (congrArg (fun t => List.foldl _ t r) h).trans h'⟩

theorem poolCheck_eq (s : State) (j : Nat) : ∃ is es p o, s.poolCheck j = { s with instances := is, events := es, plk := p, out := o } := by
  unfold poolCheck
  split
  · exact ⟨s.instances, s.events, s.plk, s.out, rfl⟩
  · extract_lets low s1
    split
    · rw [State.raiseEv_eq]
      exact ⟨_, _, _, _, rfl⟩
    · exact ⟨_, s.events, s.plk, s.out, rfl⟩

/-- The two entries that end a request on its ring. -/
theorem ringPut_twice {g : Ring} {q : Nat} (there : tget s.rings q = some g) (ty st fl v p tm ty' st' fl' v' p' tm' : Nat) :
    ∃ e e' u, Stores s u ∧ (s.ringPut q ty st fl v p tm).ringPut q ty' st' fl' v' p' tm' =
      { u with rings := ((s.ringPut q ty st fl v p tm).ringPut q ty' st' fl' v' p' tm').rings } ∧
      tget ((s.ringPut q ty st fl v p tm).ringPut q ty' st' fl' v' p' tm').rings q =
        some { g with count := g.count + 2, recent := g.recent ++ [e] ++ [e'] } := by
  obtain ⟨none_, -⟩ | ⟨g1, u, e, there1, stores, put⟩ := Serves.ringPut_spec s q ty st fl v p tm
  · rw [there] at none_
    cases none_
  obtain rfl : g = g1 := Option.some.inj (there.symm.trans there1)
  rw [put]
  generalize ht : ({ u with rings := tput u.rings q { g with count := g.count + 1, recent := g.recent ++ [e] } } : State) = t
  have now : tget t.rings q = some { g with count := g.count + 1, recent := g.recent ++ [e] } := by
    rw [← ht]
    exact tget_tput_same ..
  obtain ⟨none_, -⟩ | ⟨g2, v, e', there2, stores', put'⟩ := Serves.ringPut_spec t q ty' st' fl' v' p' tm'
  · rw [now] at none_
    cases none_
  obtain rfl := Option.some.inj (now.symm.trans there2)
  rw [put']
  have both : g.count + 1 + 1 = g.count + 2 := by ring
  refine ⟨e, e', { v with rings := u.rings }, stores.trans ?_, ?_, ?_⟩
  · obtain ⟨⟨cs, as, ck, m, ls, es, p, o, net, later, h⟩, bits⟩ := stores'
    refine ⟨⟨cs, as, ck, m, ls, es, p, o, net, later, ?_⟩, ?_⟩
    · rw [h, ← ht]
    · intro e b set
      have same : t.ev e = u.ev e := by rw [← ht]; rfl
      exact bits e b (by rw [same]; exact set)
  · rfl
  · rw [← both]
    exact tget_tput_same ..

theorem retireReq_late {g : Ring} (here : tget s.requests k = some r) (ring : tget s.rings r.ring = some g) (whole : g.lost = false) :
    (s.retireReq k .deadlineMissed).requests = tdel s.requests k ∧
    (s.retireReq k .deadlineMissed).reqHandles = s.reqHandles.free k ∧
    (∃ e e', tget (s.retireReq k .deadlineMissed).rings r.ring =
      some { g with count := g.count + 2, bound := none, recent := g.recent ++ [e] ++ [e'] }) ∧
    bitAt ((s.retireReq k .deadlineMissed).ev evSrv).value 1 = true := by
  unfold retireReq
  split
  next none_ => rw [here] at none_; cases none_
  next r0 there =>
  obtain rfl : r = r0 := Option.some.inj (here.symm.trans there)
  extract_lets now fl s1 s2 s3 kept s4 s5
  rw [if_pos rfl]
  have hkept : kept = false := by
    unfold kept
    rw [ring]
    exact whole
  have h1 : s1 = (s.ringPut r.ring 2 Status.deadlineMissed.code fl r.generated (16 * r.matched) r.tag).ringPut r.ring 3 r.preemptions 0
      (r.firstToken.getD (2 ^ 32 - 1)) r.tbtMax (r.tbtMisses + 65536 * r.deferrals) := by
    unfold s1
    rw [ring]
    dsimp only
    rw [whole, if_neg Bool.false_ne_true]
  obtain ⟨e, e', u, stores, put, entry⟩ := ringPut_twice ring 2 Status.deadlineMissed.code fl r.generated (16 * r.matched) r.tag 3
    r.preemptions 0 (r.firstToken.getD (2 ^ 32 - 1)) r.tbtMax (r.tbtMisses + 65536 * r.deferrals)
  rw [← h1] at put entry
  obtain ⟨is, pubs, gone⟩ := unitsGone_eq r.units s1 r.inst
  change s2 = _ at gone
  obtain ⟨is', es', p', o', pool⟩ := s4.poolCheck_eq r.inst
  change s5 = _ at pool
  obtain ⟨cs, as, ck, m, ls, es, p, o, net, later, frame⟩ := stores.frame
  have reqs : s3.requests = s.requests := by
    change s2.requests = _
    rw [gone, put, frame]
  have handles : s3.reqHandles = s.reqHandles := by
    change s2.reqHandles = _
    rw [gone, put, frame]
  have rings : s3.rings = s1.rings := by
    change s2.rings = _
    rw [gone]
  refine ⟨?_, ?_, ⟨e, e', ?_⟩, raiseEv_sets ..⟩
  · rw [State.raiseEv_eq, pool]
    change (if kept then _ else tdel s3.requests k) = _
    rw [hkept, if_neg Bool.false_ne_true, reqs]
  · rw [State.raiseEv_eq, pool]
    change (if kept then s3.reqHandles else s3.reqHandles.free k) = _
    rw [hkept, if_neg Bool.false_ne_true, handles]
  · rw [State.raiseEv_eq, pool]
    change tget (tmod s3.rings r.ring fun g => { g with bound := none }) r.ring = _
    rw [rings]
    exact tget_tmod_same entry _

end State

section
open State
variable {s : State} {i k : Nat} {x : Instance} {r : Request}

/-- The clause on a boundary that feeds a queued request. -/
theorem boundary_feeds (live : s.flt.fatal = false) (here : tget s.instances i = some x) (opened : s.isOpen 77 = true)
    (idle : x.inStep = false) (sorted : s.requests.Pairwise fun p q => p.1 < q.1) (only : s.reqsOf i = [k])
    (req : tget s.requests k = some r) (mine : r.inst = i) (empty : r.outbox = []) (queued : r.state = .queued)
    (going : r.cancelled = false) (none_ : r.generated = 0) (time : r.late s.srvTime = false) (left : r.fed < r.len)
    (seqs : 1 ≤ x.maxSeqs) (tokens : 1 ≤ x.stepTokens)
    (enough : ceilDiv (r.fed + Nat.min (r.len - r.fed) x.stepTokens) 16 - r.units.length ≤ r.reserved.length) :
    ∃ t, exec (.servingStepBoundary i) s = .next t ∧
      (∃ y at_ next, tget t.instances i = some { y with pass := x.pass + 1, doneAt := at_, expected := next } ∧
        ∃ a b, y = stepping (missed x a b) s.srvTime [feeding k r.fed (Nat.min (r.len - r.fed) x.stepTokens)]) ∧
      tget t.requests k = some { fed { r with runsLate := false }
        (ceilDiv (r.fed + Nat.min (r.len - r.fed) x.stepTokens) 16 - r.units.length) with state := .prefill } ∧
      t.rings = s.rings ∧ t.published = s.published ∧ t.adapters = s.adapters := by
  obtain ⟨f, misses, tests⟩ := boundaryTests_quiet only req mine empty queued going none_ time
  obtain ⟨a, b, hf⟩ := misses x
  have inst : tget (s.boundaryTests i).instances i = some (missed x a b) := by
    rw [tests]
    exact (tget_tmod_same here f).trans (by rw [hf])
  have req' : tget (s.boundaryTests i).requests k = some { r with runsLate := false } := by
    rw [tests]
    exact tget_tput_same ..
  have listed : listsReq i (k, { r with runsLate := false }) = listsReq i (k, r) := rfl
  have only' : (s.boundaryTests i).reqsOf i = [k] := by
    rw [tests, reqsOf_eq]
    change ((tput (tput s.requests k r) k { r with runsLate := false }).filter (listsReq i)).map (·.1) = _
    rw [tput_tput, reqs_tput sorted req listed]
    exact only
  obtain ⟨u, fills, there, rqs, frame⟩ := fillOne_feeds inst req' queued none_ left seqs tokens enough
  have inst' : tget u.instances i = some (missed x a b) := by
    rw [frame]
    exact inst
  have begins : s.stepBoundary i = (u.setInst i (stepping (missed x a b) s.srvTime
      [feeding k r.fed (Nat.min (r.len - r.fed) x.stepTokens)])).issuePass i :=
    stepBoundary_feeds (r := r) here idle opened rfl only' fills inst'
  have issued := issuePass_issued (s := u.setInst i (stepping (missed x a b) s.srvTime
    [feeding k r.fed (Nat.min (r.len - r.fed) x.stepTokens)])) (i := i) (tget_tput_same ..)
  obtain ⟨is, cs, as, ck, m, ls, es, p, o, net, later, whole⟩ := issued.frame
  obtain ⟨at_, next, ends⟩ := issued.inst
  refine ⟨_, act_eq_next (f := (State.stepBoundary · i)) live begins ?_ ?_, ⟨_, at_, next, ends, a, b, rfl⟩, ?_, ?_, ?_, ?_⟩
  all_goals rw [whole]
  · change u.pending = _
    rw [frame, tests]; rfl
  · change u.variant = _
    rw [frame, tests]; rfl
  · exact there
  · change u.rings = _
    rw [frame, tests]; rfl
  · change u.published = _
    rw [frame, tests]; rfl
  · change u.adapters = _
    rw [frame, tests]; rfl

/-- The clause on a queued request that is too late. -/
theorem boundary_late {g : Ring} (live : s.flt.fatal = false) (here : tget s.instances i = some x) (opened : s.isOpen 77 = true)
    (idle : x.inStep = false) (only : s.reqsOf i = [k]) (req : tget s.requests k = some r) (queued : r.state = .queued)
    (late : r.late s.srvTime = true) (fresh : r.runsLate = false) (ring : tget s.rings r.ring = some g) (whole : g.lost = false) :
    ∃ t, exec (.servingStepBoundary i) s = .next t ∧ tget t.requests k = none ∧ t.reqHandles = s.reqHandles.free k ∧
      ((tget t.rings r.ring).any fun h => h == { g with count := g.count + 2, bound := none, recent := h.recent } &&
        h.recent.length == g.recent.length + 2) = true ∧ bitAt (t.ev evSrv).value 1 = true ∧
      (∀ j, j ≠ k → tget t.requests j = tget s.requests j) ∧ (tget t.instances i).any (·.inStep) = false := by
  have tests := boundaryTests_late only req queued late fresh
  obtain ⟨reqs, handles, ⟨e, e', entry⟩, told⟩ := retireReq_late req ring whole
  have none_ : (s.retireReq k .deadlineMissed).reqsOf i = [] := by
    rw [reqsOf_eq, reqs, reqs_tdel]
    have list : (s.requests.filter (listsReq i)).map (·.1) = [k] := only
    rw [list]
    simp
  have serves : Serves s (s.retireReq k .deadlineMissed) i := .retireReq ..
  obtain ⟨f, l, a, b, inst⟩ := serves.inst x here
  refine ⟨_, act_eq_next (f := (State.stepBoundary · i)) live (stepBoundary_idle here idle opened tests none_) serves.still.1
    serves.still.2, ?_, handles, ?_, told, fun j other => ?_, ?_⟩
  · rw [reqs]
    exact tget_tdel_same ..
  · rw [entry]
    simp
  · rw [reqs]
    exact tget_tdel_ne _ other
  · rw [inst]
    exact idle

end

end Sys2Proof.Machine
end

section
/-! SUPPORT. The end of a step, and the token it gives a request (R270, R281). -/

set_option Elab.async false

namespace Sys2Proof.Machine

namespace State

variable {s t : State} {i j k : Nat} {x : Instance} {r y : Request}

/-! ### Passes that end -/

theorem passEnd_early (here : tget s.instances i = some x)
    (early : ((s.ctx (passCtx x)).sync.getD (x.d 0x17 1) 0 - x.doneAt).toInt < 0) : s.passEnd i = s := by
  unfold passEnd
  rw [here]
  exact if_pos (.inr (.inr early))

/-- The state in which the next draft pass is issued. -/
def drafted (s : State) (i : Nat) (x : Instance) : State :=
  s.setInst i { x with
    seqs := x.seqs.map fun q =>
      match (s.passOutputs x).find? fun o => o.1 == q.req with
      | some o => { q with drafted := q.drafted ++ [(o.2.2.1, o.2.2.2)] }
      | none => q
    passIndex := x.passIndex + 1 }

theorem passEnd_drafts (here : tget s.instances i = some x) (opened : s.isOpen 77 = true) (stepping : x.inStep = true)
    (done : 0 ≤ ((s.ctx (passCtx x)).sync.getD (x.d 0x17 1) 0 - x.doneAt).toInt) (more : x.passIndex < x.drafts) :
    s.passEnd i = (s.drafted i x).issuePass i := by
  unfold passEnd
  rw [here]
  dsimp only
  rw [if_neg, passDraft, if_pos more]
  · rfl
  · rintro (h | h | h)
    · rw [stepping] at h
      cases h
    · rw [opened] at h
      cases h
    · exact absurd done (Int.not_le.mpr h)

theorem passEnd_ends (here : tget s.instances i = some x) (opened : s.isOpen 77 = true) (stepping : x.inStep = true)
    (done : 0 ≤ ((s.ctx (passCtx x)).sync.getD (x.d 0x17 1) 0 - x.doneAt).toInt) (last : x.drafts ≤ x.passIndex) :
    s.passEnd i = s.stepEnds i x := by
  unfold passEnd
  rw [here]
  dsimp only
  rw [if_neg, passDraft, if_neg (Nat.not_lt.mpr last)]
  · rintro (h | h | h)
    · rw [stepping] at h
      cases h
    · rw [opened] at h
      cases h
    · exact absurd done (Int.not_le.mpr h)

/-- What the end of a step makes of its Instance. -/
def stepOver (x : Instance) (durations : List Nat) (gains : List (Nat × Nat)) : Instance :=
  { x with inStep := false, seqs := [], prov := [], stepNumber := x.stepNumber + 1, repeats := 0, durations := durations, gains := gains }

/-- The step's outputs of one of its requests. -/
def outputsOf (s : State) (x : Instance) (q : StepSeq) : List (Nat × Nat) :=
  (sortBy (fun a b => a.2.1 ≤ b.2.1) ((s.passOutputs x).filter fun o => o.1 == q.req)).map fun o => (o.2.2.1, o.2.2.2)

/-- The state in which a step's outputs are taken. -/
def stepRecorded (s : State) (i : Nat) (x : Instance) : State :=
  (x.prov.foldl (fun (s : State) u => s.setProv x u false) s).newRecord i

/-- The state that has taken a step's outputs. -/
def stepTaken (s : State) (i : Nat) (x : Instance) : State :=
  x.seqs.foldl (fun (u : State) q => u.takeOutputs q (s.outputsOf x q)) (s.stepRecorded i x)

theorem stepEnds_eq (s : State) (i : Nat) (x : Instance) : ∃ (d : Instance → List Nat) (g : Instance → List (Nat × Nat)),
    s.stepEnds i x = (((s.stepTaken i x).modInst i fun y => stepOver y (d y) (g y)).poolCheck i).boundaryTests i :=
  ⟨_, _, rfl⟩

theorem serves_newRecord (s : State) (j : Nat) : Serves s (s.newRecord j) i := .rings ..

theorem serves_stepRecorded (s : State) (x : Instance) : Serves s (s.stepRecorded i x) i :=
  (Serves.foldl (fun s u => .setProv ..) _ s).trans (serves_newRecord ..)

theorem serves_stepTaken (s : State) (x : Instance) : Serves s (s.stepTaken i x) i :=
  (serves_stepRecorded s x).trans (.foldl (fun s q => .takeOutputs ..) _ _)

/-- What the end of a step leaves of its Instance. -/
theorem stepEnds_spec (here : tget s.instances i = some x) :
    (∃ d g f l a b, tget (s.stepEnds i x).instances i = some (pooled (stepOver x d g) f l a b)) ∧
    (s.stepEnds i x).pending = s.pending ∧ (s.stepEnds i x).variant = s.variant := by
  obtain ⟨d, g, ends⟩ := stepEnds_eq s i x
  have taken := serves_stepTaken (i := i) s x
  obtain ⟨f, l, a, b, inst⟩ := taken.inst x here
  have after : Serves ((s.stepTaken i x).modInst i fun y => stepOver y (d y) (g y)) (s.stepEnds i x) i := by
    rw [ends]
    exact (Serves.poolCheck ..).trans (.boundaryTests ..)
  obtain ⟨f', l', a', b', inst'⟩ := after.inst _ (tget_tmod_same inst _)
  exact ⟨⟨_, _, f', l', a', b', inst'⟩, after.still.1.trans taken.still.1, after.still.2.trans taken.still.2⟩

/-! ### One request through the end of a step -/

theorem ringPut_requests (s : State) (q ty st fl v p tm : Nat) : (s.ringPut q ty st fl v p tm).requests = s.requests := by
  obtain ⟨-, none_⟩ | ⟨g, u, e, -, stores, put⟩ := Serves.ringPut_spec s q ty st fl v p tm
  · rw [none_]
  · obtain ⟨cs, as, ck, m, ls, es, p, o, net, later, h⟩ := stores.frame
    rw [put]
    change u.requests = _
    rw [h]

theorem flushOut_other (apart : k ≠ j) : ∀ (fuel : Nat) (s : State), tget (s.flushOut j fuel).1.requests k = tget s.requests k
  | 0, _ => rfl
  | fuel + 1, s => by
    unfold flushOut
    split
    · rfl
    · split
      · rfl
      · split
        · refine (flushOut_other apart fuel _).trans ((tget_tput_ne _ _ apart).trans ?_)
          rw [ringPut_requests]
        · rfl

theorem flushOut_self (fuel : Nat) : ∀ (s : State) (y : Request), tget s.requests k = some y →
    ∃ o, tget (s.flushOut k fuel).1.requests k = some { y with outbox := o } := by
  induction fuel with
  | zero => exact fun s y here => ⟨y.outbox, here⟩
  | succ fuel ih =>
    intro s y here
    unfold flushOut
    rw [here]
    dsimp only
    split
    · exact ⟨y.outbox, here⟩
    next tok pos fl rest _ =>
      split
      · have now : tget ((s.ringPut y.ring 0 0 fl tok pos (y.since s.srvTime)).setReq k { y with outbox := rest }).requests k =
          some { y with outbox := rest } := tget_tput_same ..
        obtain ⟨o, ends⟩ := ih _ _ now
        exact ⟨o, ends⟩
      · exact ⟨y.outbox, here⟩

theorem deliver_other (apart : k ≠ j) : tget (s.deliver j).requests k = tget s.requests k := by
  unfold deliver
  split
  · rfl
  · extract_lets f
    have flushed : tget f.1.requests k = tget s.requests k := flushOut_other apart _ s
    split
    · exact flushed
    · extract_lets
      exact (tget_tput_ne _ _ apart).trans flushed

/-- What is left of a request while it is delivered: it keeps its tokens and its place. -/
structure Carries (r y : Request) (now : DWord) : Prop where
  same : ∃ st o ft lt tm tx rl us rs, y = { r with
    state := st, outbox := o, firstToken := ft, lastToken := lt, tbtMax := tm, tbtMisses := tx, runsLate := rl, units := us, reserved := rs }
  active : y.state = .decode ∨ y.state = .held
  late : y.state = .held → r.late now = true → y.runsLate = true

/-- Delivering a request leaves it decoding or held. -/
theorem deliver_self (here : tget s.requests k = some y) (active : y.state = .decode ∨ y.state = .held) :
    ∃ st o ft lt tm tx, (st = .decode ∨ st = .held) ∧ tget (s.deliver k).requests k =
      some { y with state := st, outbox := o, firstToken := ft, lastToken := lt, tbtMax := tm, tbtMisses := tx } := by
  obtain ⟨o, flushed⟩ := flushOut_self y.outbox.length s y here
  unfold deliver
  split
  next none_ => rw [here] at none_; cases none_
  next r0 there =>
  obtain rfl : y = r0 := Option.some.inj (here.symm.trans there)
  extract_lets f now n
  split
  next none_ => exact absurd (flushed.symm.trans none_) nofun
  next z there' =>
  obtain rfl : { y with outbox := o } = z := Option.some.inj (flushed.symm.trans there')
  extract_lets ttft gap r1 lost r2 s2 first
  have timed : ∃ ft lt tm tx, r1 = { y with outbox := o, firstToken := ft, lastToken := lt, tbtMax := tm, tbtMisses := tx } := by
    unfold r1
    split
    · exact ⟨y.firstToken, y.lastToken, y.tbtMax, y.tbtMisses, rfl⟩
    · exact ⟨_, _, _, _, rfl⟩
  have held : ∃ st, (st = .decode ∨ st = .held) ∧ r2 = { r1 with state := st } := by
    obtain ⟨ft, lt, tm, tx, h1⟩ := timed
    have state : r1.state = y.state := by rw [h1]
    unfold r2
    split
    · split
      · exact ⟨_, .inl rfl, rfl⟩
      · exact ⟨r1.state, by rw [state]; exact active, rfl⟩
    · exact ⟨_, .inr rfl, rfl⟩
  obtain ⟨ft, lt, tm, tx, h1⟩ := timed
  obtain ⟨st, either, h2⟩ := held
  refine ⟨st, o, ft, lt, tm, tx, either, (tget_tput_same ..).trans ?_⟩
  rw [h2, h1]

theorem retireReq_other {st : Status} (apart : k ≠ j) : tget (s.retireReq j st).requests k = tget s.requests k := by
  unfold retireReq
  split
  · rfl
  next r _ =>
    extract_lets now fl s1 s2 s3 kept s4 s5
    have h1 : s1.requests = s.requests := by
      unfold s1
      split
      · split
        · rfl
        · rw [ringPut_requests, ringPut_requests]
      · rfl
    have h3 : s3.requests = s.requests := by
      obtain ⟨is, pubs, gone⟩ := unitsGone_eq r.units s1 r.inst
      change s2 = _ at gone
      change s2.requests = _
      rw [gone]
      exact h1
    have h4 : tget s4.requests k = tget s.requests k := by
      change tget (if kept then tput s3.requests j _ else tdel s3.requests j) k = _
      split
      · rw [tget_tput_ne _ _ apart, h3]
      · rw [tget_tdel_ne _ apart, h3]
    have h5 : s5.requests = s4.requests := by
      obtain ⟨is, es, p, o, pool⟩ := s4.poolCheck_eq r.inst
      change s5 = _ at pool
      rw [pool]
    split
    · rw [State.raiseEv_eq]
      change tget s5.requests k = _
      rw [h5, h4]
    · rw [h5, h4]

/-- The tests of one request at a boundary. -/
def testReq (s : State) (k : Nat) : State :=
  if (tget s.requests k).any s.stuckLate then s.retireReq k .deadlineMissed
  else
    let s1 := s.deliver k
    match tget s1.requests k with
    | none => s1
    | some r =>
      let late := r.late s1.srvTime
      if late && !bitAt r.flags 0 then s1.retireReq k .deadlineMissed
      else if r.cancelled then s1.retireReq k .ok
      else if s1.reqFinished r && r.outbox.isEmpty then s1.retireReq k .ok
      else s1.setReq k { r with runsLate := late }

theorem boundaryTests_eq (s : State) (i : Nat) : s.boundaryTests i = (s.reqsOf i).foldl testReq s := rfl

theorem serves_testReq (s : State) (j : Nat) : Serves s (s.testReq j) i := by
  unfold testReq
  split
  · exact .retireReq ..
  · extract_lets s1
    have first : Serves s s1 i := .deliver ..
    split
    · exact first
    · extract_lets late
      split
      · exact first.trans (.retireReq ..)
      · split
        · exact first.trans (.retireReq ..)
        · split
          · exact first.trans (.retireReq ..)
          · exact first.trans (.setReq ..)

theorem testReq_other (apart : k ≠ j) : tget (s.testReq j).requests k = tget s.requests k := by
  have delivered := deliver_other (s := s) apart
  unfold testReq
  split
  · exact retireReq_other apart
  · extract_lets s1
    split
    · exact delivered
    · extract_lets late
      split
      · exact (retireReq_other apart).trans delivered
      · split
        · exact (retireReq_other apart).trans delivered
        · split
          · exact (retireReq_other apart).trans delivered
          · exact (tget_tput_ne _ _ apart).trans delivered

/-- A request that runs on: it is neither done nor given up. -/
structure Running (r : Request) (i : Nat) (now : DWord) (longest : Nat) : Prop where
  inst : r.inst = i
  kept : r.cancelled = false
  more : r.generated ≠ r.maxNew
  room : r.len ≠ longest
  unstopped : bitAt r.stop 31 = false
  time : r.late now = false ∨ bitAt r.flags 0 = true

theorem testReq_self (running : Running r i s.srvTime x.maxLen) (inst : tget s.instances i = some x)
    (here : tget s.requests k = some y) (carries : Carries r y s.srvTime) :
    ∃ z, tget (s.testReq k).requests k = some z ∧ Carries r z s.srvTime := by
  obtain ⟨st0, o0, ft0, lt0, tm0, tx0, rl0, us, rs, same⟩ := carries.same
  have late : y.late s.srvTime = r.late s.srvTime := by rw [same]; rfl
  have stuck : (tget s.requests k).any s.stuckLate = false := by
    rw [here]
    obtain decode | held := carries.active
    · simp [stuckLate, decode]
    · cases time : r.late s.srvTime with
      | false => simp [stuckLate, late, time]
      | true => simp [stuckLate, carries.late held time]
  obtain ⟨st, o, ft, lt, tm, tx, active, delivered⟩ := deliver_self here carries.active
  have serves : Serves s (s.deliver k) i := .deliver ..
  obtain ⟨f, l, a, b, inst'⟩ := serves.inst x inst
  generalize hz : ({ y with state := st, outbox := o, firstToken := ft, lastToken := lt, tbtMax := tm, tbtMisses := tx } : Request) = z
    at delivered
  have zlate : z.late (s.deliver k).srvTime = r.late s.srvTime := by rw [serves.time, ← late, ← hz]; rfl
  have zflags : z.flags = r.flags := by rw [← hz, same]
  have zkept : z.cancelled = false := by rw [← hz, same]; exact running.kept
  have zinst : z.inst = i := by rw [← hz, same]; exact running.inst
  have zlen : z.len = r.len := by rw [← hz, same]; rfl
  have zstop : bitAt z.stop 31 = false := by rw [← hz, same]; exact running.unstopped
  have zgen : z.generated ≠ z.maxNew := by rw [← hz, same]; exact running.more
  have unfinished : (s.deliver k).reqFinished z = false := by
    have longest : (pooled x f l a b).maxLen = x.maxLen := rfl
    simp [reqFinished, zgen, zinst, inst', zlen, longest, running.room, zstop]
  have intime : (z.late (s.deliver k).srvTime && !bitAt z.flags 0) = false := by
    rw [zlate, zflags]
    obtain early | allowed := running.time
    · simp [early]
    · simp [allowed]
  refine ⟨{ z with runsLate := z.late (s.deliver k).srvTime }, ?_, ?_⟩
  · unfold testReq
    rw [stuck, if_neg Bool.false_ne_true]
    dsimp only
    rw [delivered]
    dsimp only
    rw [intime, if_neg Bool.false_ne_true, zkept, if_neg Bool.false_ne_true, unfinished, Bool.false_and, if_neg Bool.false_ne_true]
    exact tget_tput_same ..
  · refine ⟨?_, ?_, fun _ time => ?_⟩
    · rw [← hz, same]
      exact ⟨_, _, _, _, _, _, _, _, _, rfl⟩
    · rw [← hz]
      exact active
    · exact zlate.trans time

theorem boundaryTests_carries (running : Running r i s.srvTime x.maxLen) (inst : tget s.instances i = some x)
    (here : tget s.requests k = some y) (carries : Carries r y s.srvTime) :
    ∃ z, tget (s.boundaryTests i).requests k = some z ∧ Carries r z s.srvTime := by
  rw [boundaryTests_eq]
  refine (List.foldlRecOn (motive := fun t : State => Serves s t i ∧ ∃ z, tget t.requests k = some z ∧ Carries r z s.srvTime)
    _ _ ⟨.refl s i, y, here, carries⟩ fun t ht j _ => ?_).2
  obtain ⟨serves, z, there, carries'⟩ := ht
  refine ⟨serves.trans (serves_testReq t j), ?_⟩
  by_cases own : k = j
  · subst own
    obtain ⟨f, l, a, b, inst'⟩ := serves.inst x inst
    have longest : (pooled x f l a b).maxLen = x.maxLen := rfl
    rw [← serves.time, ← longest] at running
    rw [← serves.time] at carries' ⊢
    exact testReq_self running inst' there carries'
  · exact ⟨z, (testReq_other own).trans there, carries'⟩

/-! ### A peer's ring that fails (R287) -/

theorem ringFails_holds {q : Nat} {g : Ring} (ring : tget s.rings q = some g) (peer : g.peer = true) (whole : g.lost = false)
    (bound : g.bound = some k) (here : tget s.requests k = some r) :
    tget (s.ringFails q).requests k = some { r with state := .held } := by
  unfold ringFails
  rw [ring]
  dsimp only
  rw [peer, whole, bound, if_neg (by simp), State.raiseEv_eq]
  exact tget_tmod_same here _

theorem ringFails_own {q : Nat} {g : Ring} (ring : tget s.rings q = some g) (own : g.peer = false) : s.ringFails q = s := by
  unfold ringFails
  rw [ring]
  exact if_pos (.inl own)

/-! ### The token of a prompt's last pass (R270) -/

theorem publish_requests (s : State) (k : Nat) : (s.publish k).requests = s.requests := by
  unfold publish
  split
  · rfl
  · split
    · rfl
    · split
      · rfl
      · extract_lets whole hs
        refine List.foldlRecOn (motive := fun t : State => t.requests = s.requests) _ _ rfl fun t ht p _ => ?_
        dsimp only
        split <;> exact ht

theorem trimUnits_self (here : tget s.requests k = some r) :
    ∃ us rs, tget (s.trimUnits k).requests k = some { r with units := us, reserved := rs } := by
  unfold trimUnits
  rw [here]
  dsimp only
  refine List.foldlRecOn (motive := fun t : State => ∃ us rs, tget t.requests k = some { r with units := us, reserved := rs })
    _ _ ⟨_, r.reserved, tget_tput_same ..⟩ fun t ht u _ => ?_
  obtain ⟨us, rs, there⟩ := ht
  rw [there]
  dsimp only
  split
  · exact ⟨us, _, tget_tput_same ..⟩
  · obtain ⟨is, pubs, gone⟩ := t.unitGone_eq r.inst u
    rw [gone]
    exact ⟨us, rs, there⟩

/-- A request that has got one more token. -/
structure Told (r y : Request) (tok : Nat) : Prop where
  same : ∃ o fd ep us rs, y = { r with
    tokens := r.tokens ++ [tok], fed := r.len, generated := r.generated + 1, state := .decode, outbox := o, fedDraft := fd, epoch := ep
    units := us, reserved := rs }

theorem takeOutputs_token {q : StepSeq} {tok pv : Nat} (here : tget s.requests q.req = some r) (kind : q.kind = 0) (some_ : 0 < q.count)
    (whole : q.first + q.count = r.len) (more : r.generated + 1 < r.maxNew) (unstopped : bitAt r.stop 31 = false) :
    ∃ y, tget (s.takeOutputs q [(tok, pv)]).requests q.req = some y ∧ Told r y tok := by
  have cut : cutTokens r.stop (r.maxNew - r.generated) [tok] = [tok] := by
    have one : [tok].take (r.maxNew - r.generated) = [tok] := List.take_of_length_le (by simp; omega)
    unfold cutTokens
    rw [one, unstopped]
    rfl
  unfold takeOutputs
  split
  next none_ => rw [here] at none_; cases none_
  next r0 there =>
  obtain rfl : r = r0 := Option.some.inj (here.symm.trans there)
  extract_lets fedD a new late entry l1 r1
  have ha : a = 0 := by
    unfold a
    rw [kind]
    rfl
  have hnew : new = [tok] := by
    unfold new
    rw [ha, kind]
    exact cut
  rw [if_neg (Nat.ne_of_gt some_), if_neg (by rintro ⟨-, h | h⟩; exacts [List.cons_ne_nil _ _ h, h whole])]
  have now : tget (s.setReq q.req r1).requests q.req = some r1 := tget_tput_same ..
  obtain ⟨us, rs, trimmed⟩ := trimUnits_self now
  refine ⟨{ r1 with units := us, reserved := rs }, by rw [publish_requests]; exact trimmed, ?_⟩
  unfold r1 l1
  rw [hnew]
  exact ⟨_, _, _, us, rs, rfl⟩

theorem Told.carries {tok : Nat} {now : DWord} (h : Told r y tok) : Carries y y now := by
  obtain ⟨o, fd, ep, us, rs, rfl⟩ := h.same
  exact ⟨⟨_, _, _, _, _, _, _, _, _, rfl⟩, .inl rfl, nofun⟩

theorem stepRecorded_requests (s : State) (x : Instance) : (s.stepRecorded i x).requests = s.requests := by
  unfold stepRecorded newRecord
  refine List.foldlRecOn (motive := fun t : State => t.requests = s.requests) _ _ rfl fun t ht u _ => ?_
  unfold setProv
  refine List.foldlRecOn (motive := fun t : State => t.requests = s.requests) _ _ ht fun t ht v _ => ?_
  split <;> exact ht

theorem outputsOf_one {q : StepSeq} {p tok pv : Nat} (one : s.passOutputs x = [(q.req, p, tok, pv)]) : s.outputsOf x q = [(tok, pv)] := by
  unfold outputsOf
  rw [one, List.filter_cons, beq_self_eq_true, if_pos rfl]
  rfl

end State

section
open State
variable {s : State} {i : Nat} {x : Instance} {r : Request}

/-- The clause on the end of a step's target pass for the request it ends with a token. -/
theorem stepEnds_token {q : StepSeq} {p tok pv : Nat} (here : tget s.instances i = some x) (seqs : x.seqs = [q])
    (req : tget s.requests q.req = some r) (kind : q.kind = 0) (some_ : 0 < q.count) (whole : q.first + q.count = r.len)
    (one : s.passOutputs x = [(q.req, p, tok, pv)]) (mine : r.inst = i) (more : r.generated + 1 < r.maxNew)
    (room : r.len + 1 ≠ x.maxLen) (unstopped : bitAt r.stop 31 = false) (kept : r.cancelled = false)
    (time : r.late s.srvTime = false ∨ bitAt r.flags 0 = true) :
    ∃ y, tget (s.stepEnds i x).requests q.req = some y ∧ y.tokens = r.tokens ++ [tok] ∧ y.generated = r.generated + 1 ∧
      y.fed = r.len ∧ (y.state = .decode ∨ y.state = .held) := by
  have start : tget (s.stepRecorded i x).requests q.req = some r := by
    rw [stepRecorded_requests]
    exact req
  obtain ⟨y, told, token⟩ := takeOutputs_token (tok := tok) (pv := pv) start kind some_ whole more unstopped
  have taken : s.stepTaken i x = (s.stepRecorded i x).takeOutputs q [(tok, pv)] := by
    unfold stepTaken
    rw [seqs, List.foldl_cons, List.foldl_nil, outputsOf_one one]
  obtain ⟨d, g, ends⟩ := stepEnds_eq s i x
  have before := serves_stepTaken (i := i) s x
  obtain ⟨f, l, a, b, inst⟩ := before.inst x here
  rw [← taken] at told
  generalize s.stepTaken i x = t at told ends before inst
  obtain ⟨is, es, pl, out, pool⟩ := (t.modInst i fun y => stepOver y (d y) (g y)).poolCheck_eq i
  have checked : Serves (t.modInst i fun y => stepOver y (d y) (g y)) ((t.modInst i fun y => stepOver y (d y) (g y)).poolCheck i) i :=
    .poolCheck ..
  obtain ⟨f', l', a', b', inst'⟩ := checked.inst _ (tget_tmod_same inst _)
  have clock : ((t.modInst i fun y => stepOver y (d y) (g y)).poolCheck i).srvTime = s.srvTime := checked.time.trans before.time
  have there : tget ((t.modInst i fun y => stepOver y (d y) (g y)).poolCheck i).requests q.req = some y := by
    rw [pool]
    exact told
  obtain ⟨o, fd, ep, us, rs, shape⟩ := token.same
  have running : Running y i ((t.modInst i fun y => stepOver y (d y) (g y)).poolCheck i).srvTime
      (pooled (stepOver (pooled x f l a b) (d (pooled x f l a b)) (g (pooled x f l a b))) f' l' a' b').maxLen := by
    have longest : (pooled (stepOver (pooled x f l a b) (d (pooled x f l a b)) (g (pooled x f l a b))) f' l' a' b').maxLen = x.maxLen :=
      rfl
    have long : y.len = r.len + 1 := by
      rw [shape]
      simp [Request.len]
    rw [clock, longest]
    refine ⟨by rw [shape]; exact mine, by rw [shape]; exact kept, ?_, by rw [long]; exact room, by rw [shape]; exact unstopped, ?_⟩
    · rw [shape]
      exact Nat.ne_of_lt more
    · rw [shape]
      exact time
  obtain ⟨z, ended, carries⟩ := boundaryTests_carries running inst' there token.carries
  rw [← ends] at ended
  obtain ⟨st, o', ft, lt, tm, tx, rl, us', rs', same⟩ := carries.same
  refine ⟨z, ended, ?_, ?_, ?_, carries.active⟩
  all_goals rw [same, shape]

end

/-- Settles O54: a submission, a boundary, the end of a pass and a ring's failure each act by the Instance's or the ring's own state,
and what the rest of the engine's work may change of them is `Serves`. -/
theorem servingRequestsRun : Obligations.ServingRequestsRun := by
  intro s i live up
  refine ⟨fun x here opened => ⟨fun h work => ?_, fun idle => ⟨fun none_ => ?_, fun k r sorted only req mine empty queued going none_ =>
    ⟨fun time left seqs tokens => ?_, fun g late fresh ring whole => boundary_late live here opened idle only req queued late fresh ring whole⟩⟩,
    fun stepping => ⟨fun early => ?_, fun done => ⟨fun more => ?_, fun last => ?_⟩⟩⟩, fun g ring => ⟨fun peer whole => ?_, fun own => ?_⟩⟩
  · intro a l want host aligned
    refine ⟨fun k g n hs version good named there mine free plain room handle fresh private_ enough => ?_, fun other =>
      submission_refused live up here opened work host aligned other⟩
    have reads : s.fwRead (State.submission x) 128 = l := rfl
    have wants : State.wanted l = want := rfl
    obtain ⟨t, ran, code, handle', req, others, ring', ⟨low, inst⟩, frame⟩ := submission_admitted live up here opened work host aligned reads
      version good named there mine free plain room handle fresh private_ enough
    refine ⟨t, ran, code, handle', ?_, others, ring', ?_, frame⟩
    · rw [req, wants]
      simp [State.submitted]
    · rw [inst, wants]
      simp
  · exact ⟨s, act_eq_next (f := (State.stepBoundary · i)) live
      (State.stepBoundary_idle here idle opened (State.boundaryTests_none none_) none_), rfl⟩
  · intro n more enough
    have fed_ : Nat.min (r.len - r.fed) x.stepTokens = n := rfl
    have units : ceilDiv (r.fed + n) 16 - r.units.length = more := rfl
    obtain ⟨t, ran, ⟨y, at_, next, inst, a, b, shape⟩, req', rest⟩ := boundary_feeds live here opened idle sorted only req mine empty
      queued going none_ time left seqs tokens enough
    refine ⟨t, ran, ?_, ?_, rest⟩
    · rw [inst, shape]
      simp [State.stepping, State.missed, State.feeding, fed_]
    · rw [req', fed_, units]
      simp [State.fed]
  · exact ⟨s, act_eq_next (f := (State.passEnd · i)) live (State.passEnd_early here early), rfl⟩
  · have issued := State.issuePass_issued (s := s.drafted i x) (i := i) (tget_tput_same ..)
    obtain ⟨is, cs, as, ck, m, ls, es, p, o, net, later, frame⟩ := issued.frame
    obtain ⟨at_, next, inst⟩ := issued.inst
    refine ⟨_, act_eq_next (f := (State.passEnd · i)) live (State.passEnd_drafts here opened stepping done more) issued.still.1 issued.still.2,
      ?_, ?_, ?_⟩
    · rw [inst]
      simp [stepping]
    · rw [frame]
      rfl
    · rw [frame]
      rfl
  · have ends := State.passEnd_ends here opened stepping done last
    obtain ⟨⟨d, g, f, l, a, b, inst⟩, pending, variant⟩ := State.stepEnds_spec here
    refine ⟨_, act_eq_next (f := (State.passEnd · i)) live ends pending variant, ?_, ?_⟩
    · rw [inst]
      simp [pooled, State.stepOver]
    · intro q r p tok pv seqs req kind some_ whole one mine more room unstopped kept time
      obtain ⟨y, there, tokens, generated, fed, state⟩ := stepEnds_token here seqs req kind some_ whole one mine more room unstopped kept time
      rw [there]
      simp [tokens, generated, fed, state]
  · obtain ⟨lost, told, rq, es, pl, o, frame⟩ := State.ringFails_lost ring peer whole
    refine ⟨_, act_eq_next (f := (State.ringFails · i)) live rfl (by rw [frame]) (by rw [frame]), lost, told, fun k r bound req =>
      State.ringFails_holds ring peer whole bound req, ?_⟩
    rw [frame]
  · exact ⟨s, act_eq_next (f := (State.ringFails · i)) live (State.ringFails_own ring own), rfl⟩

end Sys2Proof.Machine
end

section
/-! SUPPORT. What a copy of memory reads (R187). -/

set_option Elab.async false

namespace Sys2Proof.Machine

/-- A byte that a copy moves lies at its own distance from the destination. -/
theorem tget_moved {src dst n j k : Nat} (place : src ≤ j ∧ j < src + n) (at_ : k = j - src + dst) :
    ∀ (l : List Host.Cell) (t : Tab Byte), l.Pairwise (fun a b => a.1 < b.1) →
    tget (((l.filter fun c => decide (src ≤ c.1 ∧ c.1 < src + n)).map fun c => (c.1 - src + dst, c.2)).foldl
      (fun t c => tput t c.1 c.2) t) k = (tget l j).or (tget t k)
  | [], _, _ => rfl
  | (a, b) :: l, t, sorted => by
    obtain ⟨least, rest⟩ := List.pairwise_cons.mp sorted
    have step : tget ((a, b) :: l) j = if a = j then some b else tget l j := rfl
    rw [step]
    by_cases own : a = j
    · subst own
      have later : tget l a = none := by
        cases there : tget l a with
        | none => rfl
        | some v => exact absurd (least _ (mem_of_tget_eq_some there)) (Nat.lt_irrefl a)
      rw [List.filter_cons_of_pos (by simpa using place), List.map_cons, List.foldl_cons, tget_moved place at_ l _ rest, later, if_pos rfl,
        ← at_]
      exact (tget_tput_same ..).trans rfl
    · rw [if_neg own]
      by_cases inside : src ≤ a ∧ a < src + n
      · rw [List.filter_cons_of_pos (by simpa using inside), List.map_cons, List.foldl_cons, tget_moved place at_ l _ rest]
        have apart : k ≠ a - src + dst := by omega
        rw [tget_tput_ne _ _ apart]
      · rw [List.filter_cons_of_neg (by simpa using inside)]
        exact tget_moved place at_ l t rest

/-- A byte outside the destination of a copy is not one that it moves. -/
theorem tget_unmoved {src dst n k : Nat} (out : k < dst ∨ dst + n ≤ k) : ∀ (l : List Host.Cell) (t : Tab Byte),
    tget (((l.filter fun c => decide (src ≤ c.1 ∧ c.1 < src + n)).map fun c => (c.1 - src + dst, c.2)).foldl
      (fun t c => tput t c.1 c.2) t) k = tget t k
  | [], _ => rfl
  | (a, b) :: l, t => by
    by_cases inside : src ≤ a ∧ a < src + n
    · rw [List.filter_cons_of_pos (by simpa using inside), List.map_cons, List.foldl_cons, tget_unmoved out l]
      exact tget_tput_ne _ _ (by omega)
    · rw [List.filter_cons_of_neg (by simpa using inside)]
      exact tget_unmoved out l t

/-- The range that a copy makes of one of its source's. -/
def UndefRange.moved (r : UndefRange) (src dst : Nat) : UndefRange := { r with lo := r.lo - src + dst, hi := r.hi - src + dst }

/-- The free byte of a key among some ranges. -/
def undefByte (l : List UndefRange) (k : Nat) : Byte :=
  match l.find? (fun r => r.covers k) with
  | some r => Config.freeByte r.seed (r.base + (k - r.lo))
  | none => 0

/-- A moved part of a range covers the moved key as the range covers the key, with the same free byte. -/
theorem UndefRange.find_clip {r : UndefRange} {src dst n j k : Nat} (place : src ≤ j ∧ j < src + n) (at_ : k = j - src + dst) :
    if r.covers j = true then ∃ p, ((r.clip src (src + n)).map fun r => r.moved src dst).find? (fun r => r.covers k) = some p ∧
      p.seed = r.seed ∧ p.base + (k - p.lo) = r.base + (j - r.lo)
    else ((r.clip src (src + n)).map fun r => r.moved src dst).find? (fun r => r.covers k) = none := by
  obtain ⟨low, high⟩ := place
  split
  next cov =>
    obtain ⟨begins, ends⟩ : r.lo ≤ j ∧ j < r.hi := by simpa [covers] using cov
    unfold clip
    rw [if_neg (by omega), List.map_cons, List.find?_cons_of_pos]
    · refine ⟨_, rfl, rfl, ?_⟩
      simp only [moved, Nat.max_def]
      split <;> omega
    · refine decide_eq_true ⟨?_, ?_⟩
      · simp only [moved, Nat.max_def]
        split <;> omega
      · simp only [moved, Nat.min_def]
        split <;> omega
  next cov =>
    have apart : ¬(r.lo ≤ j ∧ j < r.hi) := by simpa [covers] using cov
    rw [List.find?_eq_none]
    intro p listed
    obtain ⟨q, clipped, rfl⟩ := List.mem_map.mp listed
    have bounds := UndefRange.clip_bounds clipped
    intro covered
    have between : q.lo - src + dst ≤ k ∧ k < q.hi - src + dst := of_decide_eq_true covered
    omega

theorem undefByte_moved {src dst n j k : Nat} (place : src ≤ j ∧ j < src + n) (at_ : k = j - src + dst) (l : List UndefRange) :
    undefByte ((l.flatMap fun r => r.clip src (src + n)).map fun r => r.moved src dst) k = undefByte l j := by
  induction l with
  | nil => rfl
  | cons r t ih =>
    unfold undefByte at ih ⊢
    rw [List.flatMap_cons, List.map_append, List.find?_append, List.find?_cons]
    have first := UndefRange.find_clip (r := r) (dst := dst) place at_
    by_cases cov : r.covers j = true
    · rw [if_pos cov] at first
      obtain ⟨p, found, seed, base⟩ := first
      rw [found, cov]
      simp [seed, base]
    · rw [if_neg cov] at first
      rw [first, Bool.eq_false_iff.mpr cov]
      exact ih

theorem Memory.read_eq (m : Memory) (k : Nat) : m.read k = ((tget m.cells k).getD (undefByte m.undef k)) := by
  unfold Memory.read undefByte
  cases tget m.cells k <;> rfl

theorem undefByte_append_none {a b : List UndefRange} {k : Nat} (none_ : a.find? (fun r => r.covers k) = none) :
    undefByte (a ++ b) k = undefByte b k := by
  unfold undefByte
  rw [List.find?_append, none_]
  rfl

/-- Inside its destination a copy reads as its source did. -/
theorem Memory.read_copy {m : Memory} (wf : m.wf = true) {src dst n o : Nat} (inside : o < n) :
    (m.copy src dst n).read (dst + o) = m.read (src + o) := by
  obtain ⟨sorted, -, -, -⟩ := (Memory.wf_iff m).mp wf
  have place : src ≤ src + o ∧ src + o < src + n := by omega
  have at_ : dst + o = src + o - src + dst := by omega
  have span : dst < dst + n := by omega
  have cell : tget (m.clear dst (dst + n)).cells (dst + o) = none := by
    unfold Memory.clear
    rw [if_pos span]
    exact tget_filter_drop _ _ _ fun b => by simp; omega
  have bare : (m.clear dst (dst + n)).undef.find? (fun r => r.covers (dst + o)) = none := by
    rw [List.find?_eq_none]
    intro r listed
    have apart := (Memory.clear_outside (m := m) span).2 r listed
    simp only [UndefRange.covers, decide_eq_true_eq]
    omega
  rw [Memory.read_eq, Memory.read_eq]
  unfold Memory.copy
  dsimp only
  rw [tget_moved place at_ _ _ sorted, cell, Option.or_none]
  have free : undefByte (((m.undef.flatMap fun r => r.clip src (src + n)).map fun r => r.moved src dst) ++ (m.clear dst (dst + n)).undef)
      (dst + o) = undefByte m.undef (src + o) := by
    rw [← undefByte_moved place at_]
    unfold undefByte
    rw [List.find?_append, bare, Option.or_none]
  exact congrArg _ free

/-- Outside its destination a copy leaves memory as it was. -/
theorem Memory.read_copy_ne {m : Memory} (wf : m.wf = true) {src dst n k : Nat} (out : k < dst ∨ dst + n ≤ k) :
    (m.copy src dst n).read k = m.read k := by
  rw [← Memory.read_clear_ne m out, Memory.read_eq, Memory.read_eq]
  unfold Memory.copy
  dsimp only
  rw [tget_unmoved out]
  have bare : ((m.undef.flatMap fun r => r.clip src (src + n)).map fun r => r.moved src dst).find? (fun r => r.covers k) = none := by
    rw [List.find?_eq_none]
    intro p listed
    obtain ⟨q, clipped, rfl⟩ := List.mem_map.mp listed
    obtain ⟨r, mem, cut⟩ := List.mem_flatMap.mp clipped
    have bounds := UndefRange.clip_bounds cut
    intro covered
    have between : q.lo - src + dst ≤ k ∧ k < q.hi - src + dst := of_decide_eq_true covered
    omega
  exact congrArg _ (undefByte_append_none bare)

end Sys2Proof.Machine
end

section
/-! SUPPORT. HBM: the copier, errors, arbiters. -/

set_option Elab.async false

namespace Sys2Proof.Machine

namespace State

variable {s : State}

/-! ### The copier -/

/-- Where no write is held, a release only forgets the copies. -/
theorem heldRelease_of_nil {u : State} (ok : Nat → Bool) (empty : u.ckp.held = []) :
    u.heldRelease ok = { u with ckp := { u.ckp with held := [], copying := u.ckp.copying.filter fun c => !ok c.1 } } := by
  unfold heldRelease
  rw [empty]
  rfl

theorem cowNext_of_nil {u : State} (pc : Nat) (empty : u.ckp.held = []) : u.cowNext pc = u := by
  unfold cowNext
  rw [empty]
  rfl

/-- The state when the copier has filled the reserve frame, before the writes that waited for it. -/
def copied (s : State) (f r : Nat) : State :=
  { s with
    mem := s.mem.copy (hbmKey f 0) (hbmKey r 0) 65536
    ckp := { s.ckp with
      copyMap := if s.copyNeeded f then s.ckp.copyMap ++ [(f, r)] else s.ckp.copyMap
      reserve := if s.copyNeeded f || !s.ckptRuns then s.ckp.reserve
        else tput s.ckp.reserve (r / framesPerPc / 64) (tgetD s.ckp.reserve (r / framesPerPc / 64) [] ++ [r]) } }

theorem cowDone_eq {f r : Nat} (run : (s.ckp.copying.find? fun c => c.1 == f) = some (f, r)) :
    s.cowDone f = ((((s.copied f r).setAttr f (setFld (s.attr f) 2 2 0)).heldRelease fun g => g == f).cowNext (f / framesPerPc)).raiseEv
      (evHbm (f / framesPerPc / 32)) 2 := by
  unfold cowDone
  rw [run]
  rfl

/-- A copy with no write held: the reserve frame holds the page, and its WP is clear. -/
theorem cowDone_copies {f r : Nat} (run : (s.ckp.copying.find? fun c => c.1 == f) = some (f, r)) (empty : s.ckp.held = []) :
    ∃ es p o, s.cowDone f = { (s.copied f r).setAttr f (setFld (s.attr f) 2 2 0) with
      ckp := { (s.copied f r).ckp with held := [], copying := s.ckp.copying.filter fun c => !(c.1 == f) }
      events := es, plk := p, out := o } := by
  let u := (s.copied f r).setAttr f (setFld (s.attr f) 2 2 0)
  rw [cowDone_eq run, heldRelease_of_nil (u := u) _ empty, cowNext_of_nil _ rfl]
  exact ⟨_, _, _, raiseEv_eq ..⟩

theorem cowDone_raises {f r : Nat} (run : (s.ckp.copying.find? fun c => c.1 == f) = some (f, r)) :
    bitAt ((s.cowDone f).ev (evHbm (f / framesPerPc / 32))).value 2 = true := by
  rw [cowDone_eq run]
  exact raiseEv_sets ..

/-! ### Errors -/

theorem raiseEv_stack (u : State) (e b k : Nat) : (u.raiseEv e b).stack k = u.stack k := by
  rw [raiseEv_eq]
  rfl

theorem raiseEv_pc (u : State) (e b g : Nat) : (u.raiseEv e b).pc g = u.pc g := by
  rw [raiseEv_eq]
  rfl

/-- A retirement marks the pseudo-channel in its stack's mask, and changes no count. -/
theorem retirePc_marks (u : State) (g : Nat) :
    bitAt ((u.retirePc g).stack (g / 32)).retired (g % 32) = true ∧ ((u.retirePc g).stack (g / 32)).ue = (u.stack (g / 32)).ue ∧
      ∀ e n, bitAt (u.ev e).value n = true → bitAt ((u.retirePc g).ev e).value n = true := by
  unfold retirePc
  dsimp only
  split
  · next set_ => exact ⟨set_, rfl, fun _ _ h => h⟩
  · refine ⟨?_, ?_, fun e n h => raiseEv_bits _ _ _ e n h⟩
    · rw [raiseEv_stack, setStack_stack]
      exact bitAt_or_two_pow_self ..
    · rw [raiseEv_stack, setStack_stack]

/-- What an uncorrectable error counts at its pseudo-channel and stack. -/
structure CountedUe (s t : State) (g : Nat) : Prop where
  ue : (t.pc g).ue = (s.pc g).ue + 1
  total : (t.stack (g / 32)).ue = satAdd 16 (s.stack (g / 32)).ue 1
  told : bitAt (t.ev (evHbm (g / 32))).value 1 = true
  retires : (s.stack (g / 32)).retireAt ≠ 0 → (s.stack (g / 32)).retireAt ≤ (s.pc g).ue + 1 →
    bitAt (t.stack (g / 32)).retired (g % 32) = true

/-- A count keeps all but the pseudo-channels, the stacks and the messages. -/
theorem countUe_eq (s : State) (g : Nat) : CountedUe s (s.countUe g) g ∧ ∃ ps hs es p o,
    s.countUe g = { s with pcs := ps, hbm := hs, events := es, plk := p, out := o } := by
  let x := s.stack (g / 32)
  let s2 := ((s.setPc g { s.pc g with ue := (s.pc g).ue + 1 }).setStack (g / 32) { x with ue := satAdd 16 x.ue 1 }).raiseEv (evHbm (g / 32)) 1
  have eq : s.countUe g = if x.retireAt ≠ 0 ∧ x.retireAt ≤ (s.pc g).ue + 1 then s2.retirePc g else s2 := rfl
  have ue : (s2.pc g).ue = (s.pc g).ue + 1 := by
    rw [raiseEv_pc]
    exact congrArg Pc.ue (setPc_pc s g _)
  have total : s2.stack (g / 32) = { x with ue := satAdd 16 x.ue 1 } := by
    rw [raiseEv_stack]
    exact setStack_stack ..
  have told : bitAt (s2.ev (evHbm (g / 32))).value 1 = true := raiseEv_sets ..
  have frame : ∃ ps hs es p o, s2 = { s with pcs := ps, hbm := hs, events := es, plk := p, out := o } := ⟨_, _, _, _, _, raiseEv_eq ..⟩
  rw [eq]
  clear_value s2
  split
  · obtain ⟨marked, same, kept⟩ := s2.retirePc_marks g
    obtain ⟨h, es, p, o, retired⟩ := s2.retirePc_eq g
    have pcs : (s2.retirePc g).pc g = s2.pc g := by
      rw [retired]
      rfl
    refine ⟨⟨by rw [pcs, ue], by rw [same, total], kept _ _ told, fun _ _ => marked⟩, ?_⟩
    obtain ⟨ps, hs, es', p', o', two⟩ := frame
    rw [retired, two]
    exact ⟨_, _, _, _, _, rfl⟩
  · next few => exact ⟨⟨ue, by rw [total], told, fun a b => absurd ⟨a, b⟩ few⟩, frame⟩

/-- A step that leaves the pseudo-channels and stacks, and clears no event bit, leaves what was counted. -/
theorem CountedUe.keep {t u : State} {g : Nat} (h : CountedUe s t g) (pcs : u.pcs = t.pcs) (hbm : u.hbm = t.hbm)
    (bits : ∀ e b, bitAt (t.ev e).value b = true → bitAt (u.ev e).value b = true) : CountedUe s u g := by
  obtain ⟨ue, total, told, retires⟩ := h
  have pc : u.pc g = t.pc g := congrArg (tgetD · g Pc.reset) pcs
  have stack : u.stack (g / 32) = t.stack (g / 32) := congrArg (tgetD · (g / 32) Stack.reset) hbm
  exact ⟨by rw [pc, ue], by rw [stack, total], bits _ _ told, fun a b => by rw [stack]; exact retires a b⟩

/-- An error in the data of a frame poisons it. -/
theorem hbmUe_poisons (s : State) {f : Nat} {src : UeSource} (data : src = .fill ∨ src = .scrub) :
    s.hbmUe f src = (s.countUe (f / framesPerPc)).setAttr f ((s.countUe (f / framesPerPc)).attr f ||| 64) := by
  rcases data with rfl | rfl <;> rfl

/-- An error that the copier meets poisons the reserve frame and fails the checkpoint. -/
theorem hbmUe_copier {f r : Nat} (run : (s.ckp.copying.find? fun c => c.1 == f) = some (f, r)) :
    s.hbmUe f .copier =
      ((s.countUe (f / framesPerPc)).setAttr r ((s.countUe (f / framesPerPc)).attr r ||| 64)).ckptEnd true := by
  unfold hbmUe
  dsimp only
  rw [run]

/-- Without its partition, the end of a checkpoint changes no frame's attributes. -/
theorem ckptEnd_attrs {u : State} (failed : Bool) (none_ : u.ckpPtn = none) : (u.ckptEnd failed).attrs = u.attrs := by
  unfold ckptEnd
  split
  · extract_lets _ s1 s2
    have second : s2.attrs = u.attrs := by
      unfold s2
      rw [show s1.ckpPtn = none from none_]
    have third : Records s2 (((if u.ckp.forced then s2.logRelease true else s2).ckptRecord).raiseEv evCkp (if failed then 2 else 1)) := by
      refine Records.trans ?_ (.raiseEv ..)
      refine Records.trans ?_ (.ckptRecord _)
      split
      · exact .logRelease ..
      · exact .refl s2
    exact third.attrs.trans second
  · rfl

/-! ### Arbiters -/

/-- A bit of a word whose fields below it are bounded. -/
theorem bitAt_of_split {v p low high : Nat} (split : v = low + 2 ^ p * (2 * high + 1)) (small : low < 2 ^ p) : bitAt v p = true := by
  rw [bitAt, split, Nat.add_mul_div_left _ _ (Nat.two_pow_pos p), Nat.div_eq_of_lt small, Nat.zero_add, Nat.add_comm, Nat.add_mul_mod_self_left]
  rfl

/-- The word of a starved requester at an HBM port, and of a DMA engine, has its valid bit set. -/
theorem bitAt_starve_hbm (pc req holder t : Nat) :
    bitAt (pack [(0, pc % 32), (5, req % 32), (10, holder % 32), (15, 1), (40, t)]) 15 = true := by
  refine bitAt_of_split (low := pc % 32 + req % 32 * 32 + holder % 32 * 1024) (high := t * 2 ^ 24) ?_ ?_
  · simp only [pack]
    omega
  · omega

theorem bitAt_starve_dma (e a b c d t : Nat) :
    bitAt (pack [(0, e % 16), (4, a % 512), (13, b % 4), (15, 1), (16, c % 512), (25, d % 4), (40, t)]) 15 = true := by
  refine bitAt_of_split (low := e % 16 + a % 512 * 16 + b % 4 * 8192) (high := c % 512 + d % 4 * 512 + t * 2 ^ 24) ?_ ?_
  · simp only [pack]
    omega
  · omega

theorem bitAt_starve_sorus (read : Bool) (n req holder t : Nat) :
    bitAt (pack [(1, b2n read), (2, n % 32), (7, req % 64), (13, holder % 64), (19, 1), (40, t)]) 19 = true := by
  have flag : b2n read ≤ 1 := by cases read <;> decide
  refine bitAt_of_split (low := b2n read * 2 + n % 32 * 4 + req % 64 * 128 + holder % 64 * 8192) (high := t * 2 ^ 20) ?_ ?_
  · simp only [pack]
    omega
  · omega

theorem bitAt_starve_rz (high esc : Bool) (l req holder t : Nat) :
    bitAt (pack [(0, 1), (1, b2n high), (2, l % 32), (7, req % 64), (13, holder % 64), (19, 1), (20, b2n esc), (40, t)]) 19 = true := by
  have flag : b2n high ≤ 1 := by cases high <;> decide
  refine bitAt_of_split (low := 1 + b2n high * 2 + l % 32 * 4 + req % 64 * 128 + holder % 64 * 8192) (high := b2n esc + t * 2 ^ 20) ?_ ?_
  · simp only [pack]
    omega
  · omega

/-- A starved requester is recorded unless one stands already, and reported. -/
theorem starved_hbm (s : State) (p req holder : Nat) :
    let t := s.starved (.hbm p) req holder
    (∃ h es k o, t = { s with hbm := h, events := es, plk := k, out := o }) ∧ bitAt (t.stack (p / 32)).starve 15 = true ∧
      bitAt (t.ev (evHbm (p / 32))).value 4 = true ∧ (bitAt (s.stack (p / 32)).starve 15 = true → t.hbm = s.hbm) := by
  have eq (v : Nat) (valid : bitAt v 15 = true) (u : State)
      (h : u = if bitAt (s.stack (p / 32)).starve 15 then s else s.setStack (p / 32) { s.stack (p / 32) with starve := v }) :
      (∃ h es k o, u.raiseEv (evHbm (p / 32)) 4 = { s with hbm := h, events := es, plk := k, out := o }) ∧
      bitAt ((u.raiseEv (evHbm (p / 32)) 4).stack (p / 32)).starve 15 = true ∧
      (bitAt (s.stack (p / 32)).starve 15 = true → (u.raiseEv (evHbm (p / 32)) 4).hbm = s.hbm) := by
    rw [raiseEv_stack, raiseEv_eq]
    subst h
    split
    · next full => exact ⟨⟨_, _, _, _, rfl⟩, full, fun _ => rfl⟩
    · next free => exact ⟨⟨_, _, _, _, rfl⟩, by rw [setStack_stack]; exact valid, fun full => absurd full free⟩
  obtain ⟨frame, starve, same⟩ := eq _ (bitAt_starve_hbm p req holder _) _ rfl
  exact ⟨frame, starve, raiseEv_sets .., same⟩

/-- The record of a word of `sel`: kept where its valid bit stands, and else taken. -/
theorem starved_sel {y : Sel} (e b : Nat) (full : Bool) :
    let t := (if full then s else { s with sel := y }).raiseEv e b
    (∃ z es k o, t = { s with sel := z, events := es, plk := k, out := o }) ∧ bitAt (t.ev e).value b = true ∧
      t.sel = if full then s.sel else y := by
  refine ⟨?_, raiseEv_sets .., ?_⟩
  · cases full
    · exact ⟨_, _, _, _, raiseEv_eq ..⟩
    · exact ⟨_, _, _, _, raiseEv_eq ..⟩
  · rw [raiseEv_eq]
    cases full <;> rfl

/-! ### Parity -/

theorem modFault_pcs (s : State) (id : Nat) (f : FaultRecord → FaultRecord) : (s.modFault id f).pcs = s.pcs := rfl

theorem autoDump_pcs (s : State) (id d : Nat) : (s.autoDump id d).pcs = s.pcs := by
  unfold autoDump
  split
  · unfold startDump
    split
    · rw [raiseEv_eq]
    · rfl
  · rfl

/-- The fence of a stack saves no context: it leaves the pseudo-channels. -/
theorem fenceDom_pcs {d : Nat} (stack : 56 ≤ d) (other : d ≠ 78) (id level : Nat) (off : Bool) : (s.fenceDom d id level off).pcs = s.pcs := by
  have far : ¬(d < 56 ∧ d % 7 < 4) := by omega
  unfold fenceDom
  dsimp only
  rw [if_neg other, if_neg far]
  rfl

/-- A hang of a stack's controller in its open domain fences the domain, and leaves the pseudo-channels. -/
theorem hangOpen_pcs {d u : Nat} (stack : 56 ≤ d) (other : d ≠ 78) : (s.hangOpen d u 0).pcs = s.pcs := by
  have tear : s.hangTear d u = s := by
    have none_ : s.hungContext d u = none := if_neg (by omega)
    unfold hangTear
    rw [none_]
  have note : s.hangNote d u = s := if_neg (by omega)
  have quiet : s.hangOpen d u 0 = (s.recover (s.hangRecord d u 0) d false).raiseEv evFlt 0 := by
    unfold hangOpen
    rw [tear, note]
    dsimp only
    split
    · exact if_neg (by decide)
    · rfl
  have kind : (s.hangRecord d u 0).kind ≠ 8 := by
    show (1 : Nat) ≠ 8
    decide
  rw [quiet, raiseEv_eq]
  show (s.recover (s.hangRecord d u 0) d false).pcs = s.pcs
  unfold recover
  dsimp only
  rw [if_neg kind, autoDump_pcs, fenceDom_pcs stack other]
  rfl

theorem stackDomain_units {v : Variant} {k : Nat} (stack : v.stack k = true) :
    56 ≤ stackDomain k ∧ stackDomain k < 72 ∧ 8 + k % 2 ∈ domainUnits (stackDomain k) := by
  have few : k < 16 := by
    have low : k < 2 * v.groups := of_decide_eq_true stack
    have eight : v.groups ≤ 8 := by cases v <;> decide
    omega
  have place : stackDomain k = 56 + k := rfl
  refine ⟨by omega, by omega, ?_⟩
  unfold domainUnits
  rw [if_neg (by omega), if_pos (by omega), List.mem_singleton]
  omega

/-- The second repeat of a command on parity is a hang of the stack's controller. -/
theorem parityError_hangs {g : Nat} (stack : s.variant.stack (g / 32) = true) (opened : s.isOpen (stackDomain (g / 32)) = true)
    (once : (s.pc g).parity = true) (present : s.variant.domain (stackDomain (g / 32)) = true) :
    s.parityError g = (s.setPc g { s.pc g with parity := false }).hangOpen (stackDomain (g / 32)) (8 + g / 32 % 2) 0 := by
  have state : (s.dom (stackDomain (g / 32))).state = .opened := eq_of_beq opened
  unfold parityError
  dsimp only
  rw [if_neg (by simp [stack, opened]), if_pos once]
  exact hang_of_opened (s := s.setPc g { s.pc g with parity := false }) present (stackDomain_units stack).2.2 0 state

/-! ### Attribute requests -/

theorem hostMessages_linkUp (s : State) (h : Nat) (l : List Byte) (n : Nat) : (s.hostMessages h l n).linkUp = s.linkUp := by
  induction n generalizing s h l with
  | zero => rfl
  | succ n ih =>
    unfold hostMessages
    split
    · rfl
    · rw [ih, send_linkUp]

/-- A store of the supervisor in reach leaves the link up. -/
theorem Reached.post_linkUp {a h n : Nat} (k : s.Reached a h n) {off : Nat} {l : List Byte} (fit : off + l.length ≤ n) (pos : off < n) :
    (s.post (a + off) l).linkUp = s.linkUp := by
  have fits := k.fits
  obtain ⟨place, -⟩ := parseAddr_eq_host k.host
  have parsed : parseAddr (a + off) = .host (h + off) := by
    rw [place, Nat.add_assoc]
    exact parseAddr_host (by omega)
  obtain ⟨at_, short⟩ := parseAddr_eq_host parsed
  rw [State.post, parsed]
  dsimp only
  rw [if_pos k.up, at_, fwWrite_host s l short (by omega), hostMessages_linkUp]
  rfl

/-- The answer to a request for attributes: its code and its pages. -/
theorem attrAnswer_eq {a h : Nat} (k : s.Reached a h 32) (st : Status) (pages : Nat) : ∃ m p o,
    s.attrAnswer a st pages = { s with mem := m, plk := p, out := o } ∧ (m.read (hostKey (h + 0x18))).toNat = st.code ∧
      (m.read (hostKey (h + 0x1C))).toNat = pages % 256 := by
  obtain ⟨p, o, first⟩ := k.post (off := 0x18) (l := leBytes 1 st.code) (by simp) (by omega)
  have up := k.post_linkUp (off := 0x18) (l := leBytes 1 st.code) (by simp) (by omega)
  obtain ⟨p', o', second⟩ := (k.of_linkUp up).post (off := 0x1C) (l := leBytes 4 pages) (by simp) (by omega)
  have pages_ : ((((s.mem.writeAll (hostKey (h + 0x18)) (leBytes 1 st.code)).writeAll (hostKey (h + 0x1C)) (leBytes 4 pages)).read
      (hostKey (h + 0x1C))).toNat) = pages % 256 := by
    exact (congrArg BitVec.toNat (Memory.read_writeAll (s.mem.writeAll (hostKey (h + 0x18)) (leBytes 1 st.code)) (hostKey (h + 0x1C))
      (leBytes 4 pages) (i := 0) (by simp))).trans rfl
  have code : ((((s.mem.writeAll (hostKey (h + 0x18)) (leBytes 1 st.code)).writeAll (hostKey (h + 0x1C)) (leBytes 4 pages)).read
      (hostKey (h + 0x18))).toNat) = st.code := by
    have apart : hostKey (h + 0x18) < hostKey (h + 0x1C) := by
      unfold hostKey
      omega
    rw [Memory.read_writeAll_ne _ _ (.inl apart)]
    have read := read_answer_code s.mem (hostKey (h + 0x18)) st []
    rwa [List.append_nil] at read
  exact ⟨_, p', o', second.trans (by rw [first]), code, pages_⟩

/-- What a request for attributes makes of one page of the partition. -/
def attrPage (i : Nat) (g : Nat → Nat) (s : State) (v : Nat) : State :=
  match s.pageFrame i v with
  | some f => s.setAttr f (g (s.attr f))
  | none => s

theorem attrPage_frame (u : State) (i : Nat) (g : Nat → Nat) (v : Nat) : ∃ as, attrPage i g u v = { u with attrs := as } := by
  unfold attrPage
  split
  · exact ⟨_, rfl⟩
  · exact ⟨u.attrs, rfl⟩

theorem attrPages_frame (i : Nat) (g : Nat → Nat) (l : List Nat) (u : State) : ∃ as, l.foldl (attrPage i g) u = { u with attrs := as } := by
  induction l generalizing u with
  | nil => exact ⟨u.attrs, rfl⟩
  | cons v l ih =>
    obtain ⟨as, one⟩ := attrPage_frame u i g v
    obtain ⟨bs, rest⟩ := ih (attrPage i g u v)
    exact ⟨bs, rest.trans (by rw [one])⟩

/-- A frame that no page of a request names keeps its attributes. -/
theorem attrPages_other (i : Nat) (g : Nat → Nat) {f : Nat} : ∀ (l : List Nat) (u : State), (∀ v ∈ l, u.pageFrame i v ≠ some f) →
    (l.foldl (attrPage i g) u).attr f = u.attr f
  | [], _, _ => rfl
  | v :: l, u, apart => by
    obtain ⟨as, one⟩ := attrPage_frame u i g v
    rw [List.foldl_cons, attrPages_other i g l _ (by rw [one]; exact fun w mem => apart w (.tail _ mem))]
    have here := apart v (.head _)
    unfold attrPage
    split
    · next e frame => exact attr_setAttr_ne _ _ (fun same => here (frame.trans (same ▸ rfl)))
    · rfl

/-- Two pages of a partition have two frames. -/
theorem pageFrame_inj {u : State} {i v w f : Nat} (hv : u.pageFrame i v = some f) (hw : u.pageFrame i w = some f) : v = w := by
  unfold pageFrame at hv hw
  split at hv
  · next p here =>
    rw [here] at hw
    obtain ⟨⟨g, x⟩, atV, frameV⟩ := Option.map_eq_some_iff.mp hv
    obtain ⟨⟨e, y⟩, atW, frameW⟩ := Option.map_eq_some_iff.mp hw
    obtain ⟨-, lowV, -⟩ := partitionPagesAreApart p v w g x atV
    obtain ⟨-, lowW, -⟩ := partitionPagesAreApart p w v e y atW
    have same : g * framesPerPc + x = e * framesPerPc + y := frameV.trans frameW.symm
    obtain ⟨rfl, rfl⟩ : g = e ∧ x = y := by
      unfold framesPerPc at *
      omega
    exact (partitionPagesAreApart p v w g x atV).2.2 atW
  · cases hv

/-- Each page that a request names has its bits changed once. -/
theorem attrPages_changes (i : Nat) (g : Nat → Nat) {f v : Nat} (l : List Nat) (u : State) (distinct : l.Nodup) (listed : v ∈ l)
    (frame : u.pageFrame i v = some f) : (l.foldl (attrPage i g) u).attr f = g (u.attr f) := by
  induction l generalizing u with
  | nil => cases listed
  | cons w l ih =>
    obtain ⟨new, rest⟩ := List.nodup_cons.mp distinct
    obtain ⟨as, one⟩ := attrPage_frame u i g w
    have kept (x : Nat) : (attrPage i g u w).pageFrame i x = u.pageFrame i x := by
      rw [one]
      rfl
    rw [List.foldl_cons]
    by_cases here : v = w
    · subst here
      rw [attrPages_other i g l _ fun x mem same => new (pageFrame_inj frame ((kept x).symm.trans same) ▸ mem)]
      unfold attrPage
      rw [frame]
      exact attr_setAttr ..
    · have later : v ∈ l := (List.mem_cons.mp listed).resolve_left here
      rw [ih _ rest later ((kept v).trans frame)]
      have same : (attrPage i g u w).attr f = u.attr f :=
        attrPages_other i g [w] u fun x mem there => here ((pageFrame_inj frame there).trans (List.mem_singleton.mp mem))
      rw [same]

/-- The bits of one frame after a request. -/
def attrBits (op bits a : Nat) : Nat := if op = 0 then a ||| bits else a - (a &&& bits)

/-- A request for pages of a partition whose domains are open: each page's bits change, and the answer says OK. -/
theorem attrRequest_bits {a h i op bits first n : Nat} {p : Partition} (k : s.Reached a h 32) (aligned : a % 32 = 0) (ok : s.requestOk a 32 = true)
    (version : le (s.fwRead a 32) 0 4 = 1) (ptn : s.ptnOf (le (s.fwRead a 32) 4 4) = some i) (here : tget s.ptns i = some p)
    (clear : clearAt (s.fwRead a 32) [(0xA, 2), (0x19, 3)] = true) (hf : le (s.fwRead a 32) 0x10 4 = first)
    (hn : le (s.fwRead a 32) 0x14 4 = n) (ho : le (s.fwRead a 32) 8 1 = op) (hb : le (s.fwRead a 32) 9 1 = bits) (low : op < 2)
    (allowed : bits &&& 0b11011100 = 0) (plain : le (s.fwRead a 32) 0xC 4 = 0) (some_ : 0 < n) (fits : first + n ≤ p.pages)
    (opened : ∀ g, g ∈ p.pcList → s.isOpen (sramDomain (g / 64)) = true) :
    s.attrRequest a = (((List.range n).map (first + ·)).foldl (attrPage i (attrBits op bits)) s).attrAnswer a .ok n := by
  obtain ⟨r1, r2⟩ : le (s.fwRead a 32) 0xA 2 = 0 ∧ le (s.fwRead a 32) 0x19 3 = 0 := by simpa [clearAt] using clear
  have free : ((List.range (Nat.min n (p.pages - first))).any fun v =>
      (s.pageFrame i (first + v)).any fun f => !s.isOpen (sramDomain (f / framesPerPc / 64))) = false := by
    refine List.any_eq_false.mpr fun v _ => ?_
    cases frame : s.pageFrame i (first + v) with
    | none => exact Bool.false_ne_true
    | some f =>
      unfold pageFrame at frame
      rw [here] at frame
      obtain ⟨⟨g, x⟩, located, rfl⟩ := Option.map_eq_some_iff.mp frame
      obtain ⟨mine, below, -⟩ := partitionPagesAreApart p _ 0 g x located
      have pc : frameNo g x / framesPerPc = g := by
        unfold frameNo framesPerPc at *
        omega
      show ¬(!s.isOpen (sramDomain (frameNo g x / framesPerPc / 64))) = true
      rw [pc, opened g mine]
      exact Bool.false_ne_true
  unfold attrRequest
  rw [if_neg (by simp [aligned, ok]), List.foldl_map]
  dsimp only
  rw [ptn, version, hf, hn, ho, hb, plain, r1, r2]
  simp only [Option.bind_some, Option.any_some, here, Option.map_some, Option.getD_some]
  have legal : (decide (2 < op) || (0 : Nat) != 0 || (0 : Nat) != 0 ||
      (if op = 2 then bits != 0 || first != 0 || n != 0 else bits &&& 0b11011100 != 0 || (0 : Nat) != 0 || n == 0 || decide (p.pages < first + n)))
      = false := by
    rw [if_neg (by omega), allowed]
    have some__ : (n == 0) = false := by
      rw [beq_eq_false_iff_ne]
      omega
    rw [some__, decide_eq_false (show ¬2 < op by omega), decide_eq_false (show ¬p.pages < first + n by omega)]
    rfl
  have passes : ∀ x y, x = false → y = false →
      firstStatus [((1 : Nat) != 1, Status.versionUnsupported), (x, .retryLater), (y, .refusedInfeasible)] = .ok := by
    rintro _ _ rfl rfl
    decide
  rw [passes _ _ (by rw [free, Bool.and_false]) legal]
  dsimp only
  rw [if_neg (by omega)]
  rfl

/-- A request that names other partitions: the share list is replaced. -/
theorem attrRequest_shares {a i : Nat} (aligned : a % 32 = 0) (ok : s.requestOk a 32 = true)
    (version : le (s.fwRead a 32) 0 4 = 1) (ptn : s.ptnOf (le (s.fwRead a 32) 4 4) = some i)
    (clear : clearAt (s.fwRead a 32) [(0xA, 2), (0x19, 3)] = true) (hf : le (s.fwRead a 32) 0x10 4 = 0)
    (hn : le (s.fwRead a 32) 0x14 4 = 0) (ho : le (s.fwRead a 32) 8 1 = 2) (hb : le (s.fwRead a 32) 9 1 = 0) :
    s.attrRequest a = ({ s with ptns := tmod s.ptns i fun x => { x with shares := le (s.fwRead a 32) 0xC 4 } } : State).attrAnswer a .ok 0 := by
  obtain ⟨r1, r2⟩ : le (s.fwRead a 32) 0xA 2 = 0 ∧ le (s.fwRead a 32) 0x19 3 = 0 := by simpa [clearAt] using clear
  unfold attrRequest
  rw [if_neg (by simp [aligned, ok])]
  dsimp only
  rw [ptn, version, hf, hn, ho, hb, r1, r2]
  rfl

end State

theorem cowCopies {s : State} {f r : Nat} (live : s.flt.fatal = false) (run : (s.ckp.copying.find? fun c => c.1 == f) = some (f, r))
    (empty : s.ckp.held = []) (far : r ≠ f) (wf : s.memWf) :
    ∃ t, exec (.cowCopyDone f) s = .next t ∧
      (∀ o, o < 65536 → t.mem.read (hbmKey r 0 + o) = s.mem.read (hbmKey f 0 + o)) ∧
      (∀ a, a < hbmKey r 0 ∨ hbmKey r 0 + 65536 ≤ a → t.mem.read a = s.mem.read a) ∧ bitAt (t.attr f) 2 = false ∧
      (∀ g, g ≠ f → t.attr g = s.attr g) ∧ bitAt (t.ev (evHbm (f / framesPerPc / 32))).value 2 = true ∧
      (s.copyNeeded f = true → (f, r) ∈ t.ckp.copyMap) ∧ (s.copyNeeded f = false → t.ckp.copyMap = s.ckp.copyMap) ∧
      t = { s with mem := t.mem, ckp := t.ckp, attrs := t.attrs, events := t.events, plk := t.plk, out := t.out } := by
  have told := State.cowDone_raises (s := s) run
  obtain ⟨es, p, o, done_⟩ := State.cowDone_copies (s := s) run empty
  rw [done_] at told
  refine ⟨_, act_eq_next (f := (State.cowDone · f)) live done_, fun o low => Memory.read_copy wf low, fun a out => Memory.read_copy_ne wf out,
    ?_, fun g ne => State.attr_setAttr_ne (s.copied f r) _ ne, told, fun needed => ?_, fun idle => ?_, rfl⟩
  · exact (congrArg (bitAt · 2) (State.attr_setAttr (s.copied f r) f _)).trans (bitAt_setFld_self _ 2 false)
  · show (f, r) ∈ if s.copyNeeded f then s.ckp.copyMap ++ [(f, r)] else s.ckp.copyMap
    rw [if_pos needed]
    exact List.mem_append_right _ (List.mem_singleton.mpr rfl)
  · show (if s.copyNeeded f then s.ckp.copyMap ++ [(f, r)] else s.ckp.copyMap) = s.ckp.copyMap
    rw [idle]
    rfl

section
variable {s : State} (live : s.flt.fatal = false)
include live

theorem ueInData {f : Nat} (line : Nat) {src : UeSource} (data : src = .fill ∨ src = .scrub) :
    ∃ t, exec (.hbmEccUe f line src) s = .next t ∧ bitAt (t.attr f) 6 = true ∧ (∀ e, e ≠ f → t.attr e = s.attr e) ∧
      State.CountedUe s t (f / framesPerPc) ∧
      t = { s with attrs := t.attrs, pcs := t.pcs, hbm := t.hbm, events := t.events, plk := t.plk, out := t.out } := by
  obtain ⟨counted, ps, hs, es, p, o, eq⟩ := s.countUe_eq (f / framesPerPc)
  rw [eq] at counted
  have poisons := s.hbmUe_poisons (f := f) data
  rw [eq] at poisons
  let u : State := { s with pcs := ps, hbm := hs, events := es, plk := p, out := o }
  refine ⟨u.setAttr f (u.attr f ||| 64), act_eq_next (f := (State.hbmUe · f src)) live poisons, ?_,
    fun e ne => u.attr_setAttr_ne _ ne, counted.keep rfl rfl fun _ _ => id, rfl⟩
  rw [u.attr_setAttr]
  exact bitAt_or_two_pow_self (u.attr f) 6

theorem ueInCopy {f r : Nat} (line : Nat) (run : (s.ckp.copying.find? fun c => c.1 == f) = some (f, r)) (runs : s.ckptRuns = true)
    (bare : s.ckpPtn = none) :
    ∃ t, exec (.hbmEccUe f line .copier) s = .next t ∧ bitAt (t.attr r) 6 = true ∧ t.ckp.state = .failed ∧
      bitAt (t.ev evCkp).value 2 = true ∧ State.CountedUe s t (f / framesPerPc) := by
  obtain ⟨counted, ps, hs, es, p, o, eq⟩ := s.countUe_eq (f / framesPerPc)
  rw [eq] at counted
  have poisons := State.hbmUe_copier (s := s) run
  rw [eq] at poisons
  let u : State := { s with pcs := ps, hbm := hs, events := es, plk := p, out := o }
  let w := u.setAttr r (u.attr r ||| 64)
  have ended : State.Ended w (w.ckptEnd true) true := State.ckptEnd_ends (s := w) runs true
  obtain ⟨cs, as, ck, m, ls, es', p', o', net, later, frame⟩ := (Stores.ckptEnd w true).frame
  have counts : State.CountedUe s w (f / framesPerPc) := counted.keep rfl rfl fun _ _ => id
  refine ⟨w.ckptEnd true, act_eq_next (f := (State.hbmUe · f .copier)) live poisons ended.keeps.still.1 ended.keeps.still.2, ?_, ?_, ended.told,
    counts.keep ?_ ?_ ended.keeps.bits⟩
  · rw [State.attr, State.ckptEnd_attrs true (u := w) bare]
    exact (congrArg (bitAt · 6) (u.attr_setAttr r _)).trans (bitAt_or_two_pow_self (u.attr r) 6)
  · obtain ⟨held, fl, n, full, writes, copying, ckp⟩ := ended.ckp
    rw [ckp]
    rfl
  · rw [frame]
  · rw [frame]

theorem ueCorrected (f line : Nat) :
    ∃ t, exec (.hbmEccUe f line .corrected) s = .next t ∧ (t.stack (f / framesPerPc / 32)).ce = satAdd 32 (s.stack (f / framesPerPc / 32)).ce 1 ∧
      bitAt (t.ev (evHbm (f / framesPerPc / 32))).value 0 = true ∧
      t = { s with hbm := t.hbm, events := t.events, plk := t.plk, out := t.out } := by
  let k := f / framesPerPc / 32
  let u := s.setStack k { s.stack k with ce := satAdd 32 (s.stack k).ce 1 }
  have raised := State.raiseEv_eq u (evHbm k) 0
  refine ⟨u.raiseEv (evHbm k) 0, act_eq_next (f := (State.hbmUe · f .corrected)) live rfl (by rw [raised]; rfl) (by rw [raised]; rfl), ?_,
    raiseEv_sets .., ?_⟩
  · rw [State.raiseEv_stack]
    exact congrArg Stack.ce (State.setStack_stack s k _)
  · rw [raised]
    rfl

theorem parityFirst {g : Nat} (stack : s.variant.stack (g / 32) = true) (opened : s.isOpen (stackDomain (g / 32)) = true)
    (none_ : (s.pc g).parity = false) :
    ∃ t, exec (.hbmParityError g) s = .next t ∧ t = s.setPc g { s.pc g with parity := true } := by
  refine ⟨_, act_eq_next (f := (State.parityError · g)) live ?_, rfl⟩
  unfold State.parityError
  dsimp only
  rw [if_neg (by simp [stack, opened]), none_]
  rfl

theorem paritySecond {g : Nat} (stack : s.variant.stack (g / 32) = true) (opened : s.isOpen (stackDomain (g / 32)) = true)
    (once : (s.pc g).parity = true) (present : s.variant.domain (stackDomain (g / 32)) = true) :
    ∃ t, exec (.hbmParityError g) s = .next t ∧ (t.dom (stackDomain (g / 32))).state = .fenced ∧ (t.pc g).parity = false ∧
      bitAt (t.ev evFlt).value 0 = true := by
  obtain ⟨low, high, -⟩ := State.stackDomain_units stack
  have hangs := State.parityError_hangs stack opened once present
  let u := s.setPc g { s.pc g with parity := false }
  have pcs := State.hangOpen_pcs (s := u) (u := 8 + g / 32 % 2) low (by omega)
  obtain ⟨pending, variant, fenced, -, -, told, -⟩ :=
    hangOpen_fences (s := u) (d := stackDomain (g / 32)) (u := 8 + g / 32 % 2) (cls := 0) (by omega)
  refine ⟨_, act_eq_next (f := (State.parityError · g)) live hangs pending variant, fenced, ?_, told⟩
  have pc : ((u.hangOpen (stackDomain (g / 32)) (8 + g / 32 % 2) 0).pc g) = u.pc g := congrArg (tgetD · g Pc.reset) pcs
  rw [pc]
  exact congrArg Pc.parity (State.setPc_pc s g _)

theorem powersDown {g : Nat} (stack : s.variant.stack (g / 32) = true) :
    ∃ t, exec (.pcPowerDown g) s = .next t ∧ (t.pc g).powerDown = true ∧ (∀ e, e ≠ g → t.pc e = s.pc e) ∧ t = { s with pcs := t.pcs } := by
  refine ⟨_, act_eq_next live (if_pos stack), ?_, fun e ne => State.setPc_pc_ne s _ ne, rfl⟩
  exact congrArg Pc.powerDown (State.setPc_pc s g _)

theorem starvesHbm (p req holder : Nat) :
    ∃ t, exec (.arbStarvation (.hbm p) req holder) s = .next t ∧
      t = { s with hbm := t.hbm, sel := t.sel, events := t.events, plk := t.plk, out := t.out } ∧
      bitAt (t.stack (p / 32)).starve 15 = true ∧ bitAt (t.ev (evHbm (p / 32))).value 4 = true ∧
        (bitAt (s.stack (p / 32)).starve 15 = true → t.hbm = s.hbm) := by
  obtain ⟨⟨h, es, k, o, eq⟩, valid, told, same⟩ := s.starved_hbm p req holder
  rw [eq] at valid told same
  exact ⟨_, act_eq_next (f := (State.starved · (.hbm p) req holder)) live eq, rfl, valid, told, same⟩

/-- The three sites whose word stands in `sel`: what the word `get` reads there is valid afterwards, and one that stood stays. -/
theorem starvesSel {site : Arbiter} {req holder e b v : Nat} {set : Nat → Sel} (get : Sel → Nat) (at_ : Nat)
    (does : s.starved site req holder = (if bitAt (get s.sel) at_ then s else { s with sel := set v }).raiseEv e b)
    (reads : get (set v) = v) (valid : bitAt v at_ = true) :
    ∃ t, exec (.arbStarvation site req holder) s = .next t ∧
      t = { s with hbm := t.hbm, sel := t.sel, events := t.events, plk := t.plk, out := t.out } ∧
      bitAt (get t.sel) at_ = true ∧ bitAt (t.ev e).value b = true ∧ (bitAt (get s.sel) at_ = true → t.sel = s.sel) := by
  obtain ⟨⟨z, es, k, o, eq⟩, told, sel⟩ := State.starved_sel (s := s) (y := set v) e b (bitAt (get s.sel) at_)
  rw [eq] at told sel
  have sel_ : z = if bitAt (get s.sel) at_ then s.sel else set v := sel
  refine ⟨_, act_eq_next (f := (State.starved · site req holder)) live (does.trans eq), rfl, ?_, told, fun full => ?_⟩
  · show bitAt (get z) at_ = true
    rw [sel_]
    split
    · next full => exact full
    · rw [reads]
      exact valid
  · show z = s.sel
    rw [sel_, if_pos full]

theorem attrRequestSets {a h i n first : Nat} {p : Partition} (k : s.Reached a h 32) (aligned : a % 32 = 0) (ok : s.requestOk a 32 = true)
    (version : le (s.fwRead a 32) 0 4 = 1) (ptn : s.ptnOf (le (s.fwRead a 32) 4 4) = some i) (here : tget s.ptns i = some p)
    (clear : clearAt (s.fwRead a 32) [(0xA, 2), (0x19, 3)] = true) (hf : le (s.fwRead a 32) 0x10 4 = first)
    (hn : le (s.fwRead a 32) 0x14 4 = n) (low : le (s.fwRead a 32) 8 1 < 2) (allowed : le (s.fwRead a 32) 9 1 &&& 0b11011100 = 0)
    (plain : le (s.fwRead a 32) 0xC 4 = 0) (some_ : 0 < n) (fits : first + n ≤ p.pages)
    (opened : ∀ g, g ∈ p.pcList → s.isOpen (sramDomain (g / 64)) = true) :
    ∃ t, exec (.attrRequest a) s = .next t ∧
      (∀ v f, v < n → s.pageFrame i (first + v) = some f → t.attr f =
        if le (s.fwRead a 32) 8 1 = 0 then s.attr f ||| le (s.fwRead a 32) 9 1 else s.attr f - (s.attr f &&& le (s.fwRead a 32) 9 1)) ∧
      (t.mem.read (hostKey (h + 0x18))).toNat = Status.ok.code ∧ (t.mem.read (hostKey (h + 0x1C))).toNat = n % 256 ∧
      t = { s with attrs := t.attrs, mem := t.mem, plk := t.plk, out := t.out } := by
  have does := State.attrRequest_bits k aligned ok version ptn here clear hf hn rfl rfl low allowed plain some_ fits opened
  obtain ⟨as, frame⟩ := State.attrPages_frame i (State.attrBits (le (s.fwRead a 32) 8 1) (le (s.fwRead a 32) 9 1)) ((List.range n).map (first + ·)) s
  have changes (v f : Nat) (lt : v < n) (page : s.pageFrame i (first + v) = some f) :=
    State.attrPages_changes i (State.attrBits (le (s.fwRead a 32) 8 1) (le (s.fwRead a 32) 9 1)) ((List.range n).map (first + ·)) s
      (List.nodup_range.map fun _ _ same => Nat.add_left_cancel same) (List.mem_map.mpr ⟨v, List.mem_range.mpr lt, rfl⟩) page
  rw [frame] at does changes
  obtain ⟨m, q, o, answered, code, pages⟩ := State.attrAnswer_eq (s := { s with attrs := as }) (k.of_linkUp rfl) .ok n
  exact ⟨_, act_eq_next (f := (State.attrRequest · a)) live (does.trans answered), changes, code, pages, rfl⟩

theorem attrRequestShares {a h i : Nat} {p : Partition} (k : s.Reached a h 32) (aligned : a % 32 = 0) (ok : s.requestOk a 32 = true)
    (version : le (s.fwRead a 32) 0 4 = 1) (ptn : s.ptnOf (le (s.fwRead a 32) 4 4) = some i) (here : tget s.ptns i = some p)
    (clear : clearAt (s.fwRead a 32) [(0xA, 2), (0x19, 3)] = true) (hf : le (s.fwRead a 32) 0x10 4 = 0)
    (hn : le (s.fwRead a 32) 0x14 4 = 0) (ho : le (s.fwRead a 32) 8 1 = 2) (hb : le (s.fwRead a 32) 9 1 = 0) :
    ∃ t, exec (.attrRequest a) s = .next t ∧ tget t.ptns i = some { p with shares := le (s.fwRead a 32) 0xC 4 } ∧
      (∀ j, j ≠ i → tget t.ptns j = tget s.ptns j) ∧ (t.mem.read (hostKey (h + 0x18))).toNat = Status.ok.code ∧
      t = { s with ptns := t.ptns, mem := t.mem, plk := t.plk, out := t.out } := by
  have does := State.attrRequest_shares aligned ok version ptn clear hf hn ho hb
  obtain ⟨m, q, o, answered, code, -⟩ := State.attrAnswer_eq
    (s := { s with ptns := tmod s.ptns i fun x => { x with shares := le (s.fwRead a 32) 0xC 4 } }) (k.of_linkUp rfl) .ok 0
  exact ⟨_, act_eq_next (f := (State.attrRequest · a)) live (does.trans answered), State.tget_tmod_same here _,
    fun j ne => State.tget_tmod_ne _ ne, code, rfl⟩

end

/-- Settles O48: each clause is the rule of its operation above. -/
theorem hbmWorks : Obligations.HbmWorks := by
  intro s live
  refine ⟨fun f r run empty far wf => cowCopies live run empty far wf, fun a h i p n first aligned host up ok version ptn here clear hf hn =>
    ⟨fun low allowed plain some_ fits opened => ?_, fun ho hb zero none_ => ?_⟩,
    fun f line src => ⟨fun data => ?_, fun r copier run runs bare => ?_, fun corrected => ?_⟩,
    fun g stack => ⟨fun opened none_ => parityFirst live stack opened none_, fun opened once present => paritySecond live stack opened once present,
      powersDown live stack⟩, fun site req holder => ?_⟩
  · exact attrRequestSets live (State.reached_of_requestOk host up ok) aligned ok version ptn here clear hf hn low allowed plain some_ fits opened
  · exact attrRequestShares live (State.reached_of_requestOk host up ok) aligned ok version ptn here clear (hf.trans zero) (hn.trans none_) ho hb
  · obtain ⟨t, does, poisoned, others, counted, frame⟩ := ueInData live line (f := f) data
    exact ⟨t, does, poisoned, others, ⟨counted.ue, counted.total, counted.told, counted.retires⟩, frame⟩
  · subst copier
    obtain ⟨t, does, poisoned, failed, told, counted⟩ := ueInCopy live line run runs bare
    exact ⟨t, does, poisoned, failed, told, counted.ue, counted.total, counted.told, counted.retires⟩
  · subst corrected
    exact ueCorrected live f line
  · cases site with
    | hbm p =>
      obtain ⟨t, does, frame, facts⟩ := starvesHbm live p req holder
      refine ⟨t, does, frame, fun q same => ?_, nofun, nofun, nofun⟩
      obtain rfl := Arbiter.hbm.inj same
      exact facts
    | dma e =>
      obtain ⟨t, does, frame, facts⟩ := starvesSel live (site := .dma e) (set := fun v => { s.sel with dmaStarve := v }) Sel.dmaStarve 15 rfl rfl
        (State.bitAt_starve_dma ..)
      refine ⟨t, does, frame, nofun, fun q _ => facts, nofun, nofun⟩
    | sorus n w =>
      obtain ⟨t, does, frame, facts⟩ := starvesSel live (site := .sorus n w) (set := fun v => { s.sel with ptnStarve := v }) Sel.ptnStarve 19 rfl rfl
        (State.bitAt_starve_sorus ..)
      refine ⟨t, does, frame, nofun, nofun, fun _ _ _ => facts, nofun⟩
    | rz l high esc =>
      obtain ⟨t, does, frame, facts⟩ := starvesSel live (site := .rz l high esc) (set := fun v => { s.sel with ptnStarve := v }) Sel.ptnStarve 19 rfl rfl
        (State.bitAt_starve_rz ..)
      refine ⟨t, does, frame, nofun, nofun, nofun, fun _ _ _ _ => facts⟩

end Sys2Proof.Machine
end

section
/-! SUPPORT. What the release of a STEP gate leaves as it is (R302, R309). -/

set_option Elab.async false

namespace Sys2Proof.Machine

/-- Steps that leave the group and the replay, and recall no message. -/
structure Turns (s t : State) : Prop where
  net : t.net = s.net
  still : t.pending = s.pending ∧ t.variant = s.variant
  sent : ∀ m ∈ s.netOut, m ∈ t.netOut
  replay : t.ckp.replay = s.ckp.replay

namespace Turns

variable {s t u : State}

theorem refl (s : State) : Turns s s := ⟨rfl, ⟨rfl, rfl⟩, fun _ => id, rfl⟩

theorem trans (h : Turns s t) (k : Turns t u) : Turns s u :=
  ⟨k.net.trans h.net, ⟨k.still.1.trans h.still.1, k.still.2.trans h.still.2⟩, fun m mem => k.sent m (h.sent m mem), k.replay.trans h.replay⟩

theorem foldl {α : Type} {f : State → α → State} (step : ∀ s a, Turns s (f s a)) (l : List α) (s : State) : Turns s (l.foldl f s) :=
  List.foldlRecOn (motive := Turns s) l f (refl s) fun t ht a _ => ht.trans (step t a)

theorem of_wrote (h : Wrote s t) : Turns s t := by
  obtain ⟨m, ls, p, o, rfl⟩ := h
  exact ⟨rfl, ⟨rfl, rfl⟩, fun _ => id, rfl⟩

theorem of_rewinds (h : Rewinds s t) : Turns s t := by
  refine ⟨h.net, h.still, fun m mem => h.netOut ▸ mem, ?_⟩
  obtain ⟨co, as, ds, cs, ch, js, jh, cl, st, m, ls, es, p, o, rfl⟩ := h.frame
  rfl

theorem of_records (h : Records s t) : Turns s t := by
  refine ⟨h.keeps.net, h.keeps.still, h.keeps.sent, ?_⟩
  obtain ⟨m, ls, held, fl, n, full, net, later, es, p, o, rfl⟩ := h.frame
  rfl

theorem setCtx (s : State) (c : Nat) (k : Context) : Turns s (s.setCtx c k) := .of_rewinds (.setCtx ..)

theorem setQueue (s : State) (c q : Nat) (x : Queue) : Turns s (s.setQueue c q x) := setCtx ..

theorem modCmd (s : State) (c q : Nat) (idx : Word) (f : Cmd → Cmd) : Turns s (s.modCmd c q idx f) := setQueue ..

theorem raiseEv (s : State) (e b : Nat) : Turns s (s.raiseEv e b) := .of_rewinds (.raiseEv ..)

theorem post (s : State) (a : Nat) (l : List Byte) : Turns s (s.post a l) := .of_wrote (wrote_post ..)

theorem logPut (s : State) (ty st fl step : Nat) (body : List Byte) : Turns s (s.logPut ty st fl step body) := .of_records (.logPut ..)

theorem ite {p : Prop} [Decidable p] (yes : p → Turns s t) (no : ¬p → Turns s u) : Turns s (if p then t else u) := by
  split
  · next h => exact yes h
  · next h => exact no h

end Turns

namespace State

variable {s : State}

theorem turns_putLayer (s : State) (c i : Nat) (r : LayerRec) : Turns s (s.putLayer c i r) := .post ..

theorem turns_completeStep (s : State) (c : Nat) : Turns s (s.completeStep c) :=
  (Turns.setCtx ..).trans (.foldl (fun _ _ => turns_putLayer ..) _ _)

theorem turns_releaseStep (s : State) (c : Nat) (n : Word) : Turns s (s.releaseStep c n) :=
  .foldl (fun _ _ => .of_rewinds (.of_closes (closes_modChan ..))) _ s

theorem turns_skipStep (s : State) (c : Nat) : Turns s (s.skipStep c) := by
  unfold skipStep
  extract_lets k floor h s1 s2 s3
  have one : Turns s s1 := .setCtx ..
  have two : Turns s1 s2 := .ite (fun _ => .logPut ..) fun _ => .refl s1
  have three : Turns s2 s3 := (turns_releaseStep ..).trans (.raiseEv ..)
  have all := (one.trans two).trans three
  exact .ite (fun _ => all.trans (.raiseEv ..)) fun _ => all

theorem turns_realign (s : State) (c n old new : Nat) : Turns s (s.realign c n old new) :=
  .ite (fun _ => .refl s) fun _ => (Turns.logPut ..).trans (.raiseEv ..)

theorem turns_descend (s : State) (c i : Nat) : Turns s (s.descend c i) := by
  unfold descend
  extract_lets r k f s1 s2 k2
  have one : Turns s s1 := turns_putLayer ..
  have two : Turns s1 s2 := .ite (fun _ => .logPut ..) fun _ => .refl s1
  exact .ite (fun _ => ((one.trans two).trans (.setCtx ..)).trans (.raiseEv ..)) fun _ => .refl s

theorem turns_stepStartLog (s : State) (c : Nat) (skip : Bool) : Turns s (s.stepStartLog c skip) :=
  .ite (fun _ => .logPut ..) fun _ => .refl s

theorem turns_checkpointDue (s : State) (c : Nat) (n : Word) : Turns s (s.checkpointDue c n) := by
  refine .ite (fun _ => .refl s) fun _ => .ite (fun _ => .setCtx ..) fun _ => .ite (fun _ => .ite (fun _ => .raiseEv ..) fun _ => .refl s)
    fun _ => .ite (fun _ => ?_) fun _ => .refl s
  exact Turns.trans (t := { s with ckp := { s.ckp with due := true, dueStep := n + 1, captureHeld := [] } })
    ⟨rfl, ⟨rfl, rfl⟩, fun _ => id, rfl⟩ (.setCtx ..)

theorem turns_startBlock (s : State) (c : Nat) : Turns s (s.startBlock c) := .ite (fun _ => .setCtx ..) fun _ => .refl s

theorem turns_startLayer (s : State) (c q : Nat) (idx : Word) : Turns s (s.startLayer c q idx) := .setQueue ..

theorem turns_putConstant (s : State) (c i n bits : Nat) : Turns s (s.putConstant c i n bits) := .ite (fun _ => .post ..) fun _ => .refl s

theorem turns_patchConstants (s : State) (c : Nat) (old : State) : Turns s (s.patchConstants c old) := by
  refine Turns.trans (.foldl (fun s p => ?_) _ s) (.foldl (fun _ _ => turns_putConstant ..) _ _)
  split
  · exact turns_putConstant ..
  · exact .refl s

theorem turns_putWords (s : State) (c q : Nat) (lo : Word) (ws : List Nat) : Turns s (s.putWords c q lo ws) :=
  Turns.trans (.foldl (fun s _ => .ite (fun _ => .refl s) fun _ => .post ..) _ s) (.setQueue ..)

theorem turns_patchQueues (s : State) (c : Nat) : Turns s (s.patchQueues c) :=
  .foldl (fun t _ => .ite (fun _ => .refl t) fun _ => turns_putWords ..) _ s

theorem turns_setFmtIn (s : State) (c layer fmt : Nat) : Turns s (s.setFmtIn c layer fmt) :=
  .ite (fun _ => .refl s) fun _ => .foldl (fun s _ => .ite (fun _ => .post ..) fun _ => .refl s) _ s

theorem turns_patchCollectives (s : State) (c : Nat) : Turns s (s.patchCollectives c) :=
  .foldl (fun s _ => .ite (fun _ => turns_setFmtIn ..) fun _ => .refl s) _ s

theorem turns_patchStep (s : State) (c : Nat) (old : State) : Turns s (s.patchStep c old) := by
  unfold patchStep
  extract_lets s1 s2 k
  have one : Turns s s1 := turns_patchConstants ..
  have two : Turns s1 s2 := .ite (fun _ => .refl s1) fun _ => (turns_patchQueues ..).trans (turns_patchCollectives ..)
  exact (one.trans two).trans (.setCtx ..)

theorem turns_takeDecision (s : State) (c : Nat) : Turns s (s.takeDecision c) := by
  unfold takeDecision
  extract_lets k cur want
  split
  · exact .setCtx ..
  · split
    · exact .refl s
    · exact .refl s
    · refine .ite (fun _ => .refl s) fun _ => ?_
      extract_lets s1 k1 s2
      have one : Turns s s1 := .setCtx ..
      have two : Turns s s2 := one.trans (.setCtx ..)
      exact .ite (fun _ => one) fun _ => .ite (fun _ => two.trans (turns_realign ..)) fun _ => two

/-- While no partition replays, no context does. -/
theorem replayOf_idle {u : State} (idle : u.ckp.replay = none) (c : Nat) : u.replayOf c = none := by
  unfold replayOf
  split
  · exact idle
  · rfl

theorem turns_replaySkipped (idle : s.ckp.replay = none) (c : Nat) : Turns s (s.replaySkipped c) := by
  unfold replaySkipped
  rw [replayOf_idle idle]
  exact .refl s

theorem turns_replayRoster (idle : s.ckp.replay = none) (c n : Nat) : Turns s (s.replayRoster c n) := by
  unfold replayRoster
  rw [replayOf_idle idle]
  exact .refl s

/-- While no partition replays, a context that passes its STEP gate leaves the group as it is. -/
theorem turns_passStep (idle : s.ckp.replay = none) (c q : Nat) (y : Cmd) (skip : Bool) : Turns s (s.passStep c q y skip) := by
  unfold passStep
  extract_lets ended s0 s1 k0 k s2 s3 body s4 x
  have zero : Turns s s0 := by
    refine Turns.trans ?_ (turns_takeDecision ..)
    exact .ite (fun _ => (turns_replaySkipped idle c).trans (turns_skipStep ..)) fun _ => turns_completeStep ..
  have one : Turns s s1 := zero.trans (turns_replayRoster (zero.replay.trans idle) ..)
  have two : Turns s1 s2 := .setCtx ..
  have three : Turns s2 s3 :=
    (((turns_stepStartLog ..).trans (.foldl (fun _ _ => turns_descend ..) _ _)).trans (turns_checkpointDue ..)).trans (turns_patchStep ..)
  have four : Turns s3 s4 := ((Turns.modCmd ..).trans (turns_startBlock ..)).trans (turns_startLayer ..)
  exact (((one.trans two).trans three).trans four).trans (.setQueue ..)

theorem turns_stepGateRelease (idle : s.ckp.replay = none) (c : Nat) : Turns s (s.stepGateRelease c) := by
  unfold stepGateRelease
  split
  · exact .refl s
  · exact .ite (fun _ => turns_passStep idle ..) fun _ => .refl s

theorem turns_stepGates (idle : s.ckp.replay = none) (l : List Nat) : Turns s (l.foldl (fun (s : State) c => s.stepGateRelease c) s) := by
  refine List.foldlRecOn (motive := Turns s) l _ (.refl s) fun t ht c _ => ht.trans (turns_stepGateRelease (ht.replay.trans idle) c)

end State

end Sys2Proof.Machine
end

section
/-! SUPPORT. A group's members, messages and terms (R291, R296, R309). -/

set_option Elab.async false

namespace Sys2Proof.Machine

theorem mem_tput_self {α : Type} (t : Tab α) (k : Nat) (b : α) : (k, b) ∈ tput t k b := by
  induction t with
  | nil => exact List.mem_singleton.mpr rfl
  | cons x r ih =>
    obtain ⟨j, a⟩ := x
    unfold tput
    split
    · exact .head _
    · split
      · exact .head _
      · exact .tail _ ih

/-- A store in a table drops at most the entry that a lookup gives. -/
theorem mem_tput_of_mem {α : Type} {t : Tab α} {k i : Nat} {a b : α} (mem : (i, a) ∈ t) :
    (i, a) ∈ tput t k b ∨ (i = k ∧ tget t k = some a) := by
  induction t with
  | nil => cases mem
  | cons x r ih =>
    obtain ⟨j, c⟩ := x
    unfold tput
    split
    · exact .inl (.tail _ mem)
    · split
      · next same =>
        rcases List.mem_cons.mp mem with here | later
        · obtain ⟨rfl, rfl⟩ := Prod.mk.inj here
          exact .inr ⟨same.symm, if_pos same.symm⟩
        · exact .inl (.tail _ later)
      · next other =>
        rcases List.mem_cons.mp mem with here | later
        · exact .inl (here ▸ .head _)
        · rcases ih later with kept | ⟨same, read⟩
          · exact .inl (.tail _ kept)
          · exact .inr ⟨same, (if_neg (Ne.symm other)).trans read⟩

namespace State

variable {s : State}

/-! ### Terms -/

theorem withTerm_same (group : s.inGroup = true) {term : Nat} (same : term = s.net.term) (f : State → State) : s.withTerm term f = f s := by
  unfold withTerm seeTerm
  rw [if_neg (by simp [group, same]), if_pos (Nat.le_of_eq same)]

theorem withTerm_late {term : Nat} (late : term < s.net.term) (f : State → State) : s.withTerm term f = s := if_pos (.inr late)

/-- A member that sees a term no lower than its own takes it. -/
theorem withTerm_member (group : s.inGroup = true) (member : s.isMaster = false) {term : Nat} (seen : s.net.term ≤ term) (f : State → State) :
    s.withTerm term f = f (s.setNet { s.net with term := term }) := by
  unfold withTerm seeTerm
  rw [if_neg (by simp [group, seen])]
  split
  · next low =>
    obtain rfl : s.net.term = term := Nat.le_antisymm seen low
    rfl
  · rw [member]
    rfl

/-! ### Members -/

theorem member_modMember {m : Nat} {x : Member} (there : s.member m = some x) (f : Member → Member) :
    (s.modMember m f).member m = some (f x) := tget_tmod_same there f

theorem member_modMember_ne {m k : Nat} (f : Member → Member) (ne : k ≠ m) : (s.modMember m f).member k = s.member k := tget_tmod_ne f ne

theorem members_modMember {m : Nat} {x : Member} (there : s.member m = some x) (f : Member → Member) :
    (s.modMember m f).net.members = tput s.net.members m (f x) := by
  show tmod s.net.members m f = _
  unfold tmod
  rw [show tget s.net.members m = some x from there]

/-- A change of a member that does not end its life leaves who is alive. -/
theorem live_modMember {m k : Nat} {x : Member} (there : s.member m = some x) {f : Member → Member} (alive : x.state = 1 → (f x).state = 1)
    (live : k ∈ s.liveMembers) : k ∈ (s.modMember m f).liveMembers := by
  obtain ⟨⟨i, a⟩, kept, rfl⟩ := List.mem_map.mp live
  obtain ⟨mem, why⟩ := List.mem_filter.mp kept
  unfold liveMembers
  rw [members_modMember there f]
  rcases mem_tput_of_mem (k := m) (b := f x) mem with stays | ⟨rfl, read⟩
  · exact List.mem_map.mpr ⟨_, List.mem_filter.mpr ⟨stays, why⟩, rfl⟩
  · obtain rfl : x = a := Option.some.inj (there.symm.trans read)
    refine List.mem_map.mpr ⟨(i, f x), List.mem_filter.mpr ⟨mem_tput_self .., ?_⟩, rfl⟩
    rcases Bool.or_eq_true_iff.mp why with one | self
    · rw [Bool.or_eq_true_iff]
      exact .inl (beq_iff_eq.mpr (alive (eq_of_beq one)))
    · exact Bool.or_eq_true_iff.mpr (.inr self)

/-- A change that keeps a member's role and state leaves the compute members. -/
theorem compute_modMember {m k : Nat} {x : Member} (there : s.member m = some x) {f : Member → Member} (role : (f x).role = x.role)
    (state : (f x).state = x.state) : k ∈ (s.modMember m f).computeMembers ↔ k ∈ s.computeMembers := by
  unfold computeMembers
  rw [members_modMember there f]
  constructor
  · intro h
    obtain ⟨⟨i, a⟩, kept, rfl⟩ := List.mem_map.mp h
    obtain ⟨mem, why⟩ := List.mem_filter.mp kept
    rcases mem_tput mem with new | old
    · obtain ⟨rfl, rfl⟩ := Prod.mk.inj new
      refine List.mem_map.mpr ⟨(i, x), List.mem_filter.mpr ⟨mem_of_tget_eq_some there, ?_⟩, rfl⟩
      dsimp only at why ⊢
      rw [role, state] at why
      exact why
    · exact List.mem_map.mpr ⟨_, List.mem_filter.mpr ⟨old, why⟩, rfl⟩
  · intro h
    obtain ⟨⟨i, a⟩, kept, rfl⟩ := List.mem_map.mp h
    obtain ⟨mem, why⟩ := List.mem_filter.mp kept
    rcases mem_tput_of_mem (k := m) (b := f x) mem with stays | ⟨rfl, read⟩
    · exact List.mem_map.mpr ⟨_, List.mem_filter.mpr ⟨stays, why⟩, rfl⟩
    · obtain rfl : x = a := Option.some.inj (there.symm.trans read)
      refine List.mem_map.mpr ⟨(i, f x), List.mem_filter.mpr ⟨mem_tput_self .., ?_⟩, rfl⟩
      dsimp only at why ⊢
      rw [role, state]
      exact why

/-! ### Messages to all -/

theorem sendAll_frame (s : State) (f : Nat → NetMsg) : ∃ out held, s.sendAll f = { s with netOut := out, netHeld := held } := by
  unfold sendAll
  refine List.foldlRecOn (motive := fun t : State => ∃ out held, t = { s with netOut := out, netHeld := held }) _ _ ⟨_, _, rfl⟩ ?_
  rintro t ⟨out, held, rfl⟩ m -
  exact ⟨_, _, rfl⟩

theorem sendAll_sent {k : Nat} (f : Nat → NetMsg) (live : k ∈ s.liveMembers) (other : k ≠ s.net.self) : f k ∈ (s.sendAll f).netOut :=
  foldl_establishes (f := fun (s : State) m => s.sendNet (f m)) (P := fun k (t : State) => f k ∈ t.netOut)
    (fun _ _ => List.mem_append_right _ (List.mem_singleton.mpr rfl)) (fun _ _ _ sent => List.mem_append_left _ sent) _ s k
    (List.mem_filter.mpr ⟨live, bne_iff_ne.mpr other⟩)

end State

/-! ### The loss of a member that nobody replaces -/

namespace State

variable {s : State} {m : Nat} {x : Member}

/-- A loss with no record on its way is settled at once. -/
theorem memberLost_settles (there : s.member m = some x) (master : s.isMaster = true) (present : x.state = 0) (role : x.role ≠ 2)
    (other : m ≠ s.net.self) (settled : s.net.sentToDeputy = false) : s.memberLost m = (s.lossFreed m).settleLoss m := by
  have acts : ¬ (s.isMaster = false ∨ x.state = 2 ∨ x.state = 3 ∨ m = s.net.self ∨ x.role = 2) := by
    simp [master, present, role, other]
  have sent : (s.lossFreed m).net.sentToDeputy = false := by
    rw [lossFreed_net]
    exact settled
  unfold memberLost
  rw [there]
  dsimp only
  rw [if_neg acts]
  change (match (s.lossFreed m).net.sentToDeputy, (s.lossFreed m).net.record with
    | true, some r => _
    | _, _ => (s.lossFreed m).settleLoss m) = _
  rw [sent]

/-- The record in which the master tells its notices apart from a step. -/
def toldRecord (s : State) (l : List GroupNotice) : StepRecord :=
  let r : StepRecord := s.net.record.getD {
    step := s.net.step, term := s.net.term, gen := s.net.gen, decision := 0, seed := 0, lrH := 0, cursors := [] }
  { r with term := s.net.term, gen := s.net.gen, notices := l }

theorem tell_sent {k : Nat} (l : List GroupNotice) (live : k ∈ s.liveMembers) (other : k ≠ s.net.self) :
    .stepStart s.net.groupId k (s.toldRecord l) ∈ (s.tell l).netOut :=
  sendAll_sent (fun m => .stepStart s.net.groupId m (s.toldRecord l)) live other

/-- Without a standby, the loss of an ingest member halts the group. -/
theorem settleLoss_halts (there : s.member m = some x) (ingest : x.role = 1) (alone : s.standby = none) :
    s.settleLoss m = (s.tell (s.net.notices ++ [.lost m none, .halts])).haltGroup := by
  unfold settleLoss
  rw [there]
  dsimp only
  rw [alone]
  exact if_pos (.inl ingest)

/-- A member that is no standby is none afterwards. -/
theorem standby_modMember (there : s.member m = some x) {f : Member → Member} (role : (f x).role ≠ 2) (alone : s.standby = none) :
    (s.modMember m f).standby = none := by
  have none_ : (s.net.members.filter fun p => p.2.role == 2 && p.2.state == 1) = [] :=
    List.map_eq_nil_iff.mp (List.head?_eq_none_iff.mp alone)
  unfold standby
  rw [members_modMember there f]
  refine List.head?_eq_none_iff.mpr (List.map_eq_nil_iff.mpr (List.filter_eq_nil_iff.mpr fun p mem => ?_))
  rcases mem_tput mem with rfl | old
  · simp [role]
  · exact List.filter_eq_nil_iff.mp none_ p old

end State

/-! ### The master answers a HELLO -/

section
variable {s : State} (live : s.flt.fatal = false) (group : s.inGroup = true)
include live group

section
variable {h : HelloMsg} {x : Member} (master : s.isMaster = true) (there : s.member h.member = some x) (own : h.groupId = s.net.groupId)
  (term : h.term = s.net.term)
include master there own term

omit live in
/-- What a HELLO is answered. -/
theorem hello_eq {st : Status} (answer : (if h.protoMax < s.net.protoMin then Status.versionUnsupported
      else if (!s.reportAccepted h.report s.helloNonce || ofLe (reportIdent h.report) != x.ident || h.gen != s.net.gen || h.crc != s.net.crc) = true
        then .refusedInfeasible else .ok) = st) :
    s.hello h =
      if st = .ok then
        let s1 := s.sendNet (.helloAnswer s.net.groupId h.member s.net.term st)
        let s2 := (s1.acceptReport h.report).modMember h.member fun m => { m with
          state := 1, protoMax := h.protoMax, lastHeard := s.edgeTime }
        if s2.net.state = .forming ∧ (s2.net.members.all fun p => p.2.role == 2 || p.2.state == 1) = true then s2.formGroup else s2
      else s.sendNet (.helloAnswer s.net.groupId h.member s.net.term st) := by
  unfold State.hello
  rw [State.withTerm_same group term, there]
  dsimp only
  rw [if_neg (by simp [group, master, own]), answer]

theorem helloRefused {st : Status} (not_ok : st ≠ .ok) (answer : (if h.protoMax < s.net.protoMin then Status.versionUnsupported
      else if (!s.reportAccepted h.report s.helloNonce || ofLe (reportIdent h.report) != x.ident || h.gen != s.net.gen || h.crc != s.net.crc) = true
        then .refusedInfeasible else .ok) = st) :
    ∃ t, exec (.hello h) s = .next t ∧
      t = { s with netOut := s.netOut ++ [.helloAnswer s.net.groupId h.member s.net.term st], netHeld := t.netHeld } :=
  ⟨_, act_eq_next (f := (State.hello · h)) live ((hello_eq group master there own term answer).trans (if_neg not_ok)), rfl⟩

theorem helloJoins (version : s.net.protoMin ≤ h.protoMax) (gen : h.gen = s.net.gen) (crc : h.crc = s.net.crc)
    (accepted : s.reportAccepted h.report s.helloNonce = true) (ident : ofLe (reportIdent h.report) = x.ident)
    (running : s.net.state = .running) :
    ∃ t, exec (.hello h) s = .next t ∧
      t.member h.member = some { x with state := 1, protoMax := h.protoMax, lastHeard := s.edgeTime } ∧
      (∀ m, m ≠ h.member → t.member m = s.member m) ∧
      tget t.boot.accepted (le h.report 8 8) = some (le h.report 0x2C 4) ∧
      t = { s with
        netOut := s.netOut ++ [.helloAnswer s.net.groupId h.member s.net.term .ok], netHeld := t.netHeld
        net := { s.net with members := t.net.members }, boot := { s.boot with accepted := t.boot.accepted } } := by
  have good : (!s.reportAccepted h.report s.helloNonce || ofLe (reportIdent h.report) != x.ident || h.gen != s.net.gen || h.crc != s.net.crc)
      = false := by simp [accepted, ident, gen, crc]
  have answer : (if h.protoMax < s.net.protoMin then Status.versionUnsupported
      else if (!s.reportAccepted h.report s.helloNonce || ofLe (reportIdent h.report) != x.ident || h.gen != s.net.gen || h.crc != s.net.crc) = true
        then .refusedInfeasible else .ok) = .ok := by
    rw [if_neg (by omega), good]
    rfl
  let u := (s.sendNet (.helloAnswer s.net.groupId h.member s.net.term .ok)).acceptReport h.report
  let t := u.modMember h.member fun m => { m with state := 1, protoMax := h.protoMax, lastHeard := s.edgeTime }
  have formed : ¬(t.net.state = .forming ∧ (t.net.members.all fun p => p.2.role == 2 || p.2.state == 1) = true) := by
    rintro ⟨forming, -⟩
    cases (show s.net.state = .forming from forming).symm.trans running
  refine ⟨t, act_eq_next (f := (State.hello · h)) live (((hello_eq group master there own term answer).trans (if_pos rfl)).trans
    (if_neg formed)), State.member_modMember (s := u) there _, fun m ne => State.member_modMember_ne (s := u) _ ne, tget_tput_same .., rfl⟩

end

/-! ### A member takes the answer -/

theorem helloAnswered (forming : s.net.state = .forming) (member : s.isMaster = false) {x : Member} (there : s.member s.net.master = some x) :
    ∃ t, exec (.helloAnswer ⟨0, s.net.term⟩) s = .next t ∧ t.member s.net.master = some { x with state := 1, lastHeard := s.edgeTime } ∧
      t = { s with net := { s.net with members := t.net.members } } := by
  have opened : s.isOpen 76 = true := by
    unfold State.inGroup at group
    simp_all
  refine ⟨s.modMember s.net.master fun m => { m with state := 1, lastHeard := s.edgeTime },
    act_eq_next (f := (State.helloAnswer · 0 s.net.term)) live ?_, State.member_modMember there _, rfl⟩
  unfold State.helloAnswer
  rw [State.withTerm_same group rfl, if_neg (by simp [opened, forming, member]), if_pos rfl]

theorem helloAnswerHalts (forming : s.net.state = .forming) (member : s.isMaster = false) {n : Nat} (refused : n ≠ 0) :
    ∃ t, exec (.helloAnswer ⟨n, s.net.term⟩) s = .next t ∧ t.net = { s.net with state := .halted } ∧
      (n = Status.versionUnsupported.code → bitAt (t.ev evNet).value 7 = true) ∧
      t = { s with net := t.net, events := t.events, plk := t.plk, out := t.out } := by
  have opened : s.isOpen 76 = true := by
    unfold State.inGroup at group
    simp_all
  let u := s.setNet { s.net with state := .halted }
  have does : s.helloAnswer n s.net.term = if n = Status.versionUnsupported.code then u.raiseEv evNet 7 else u := by
    unfold State.helloAnswer
    rw [State.withTerm_same group rfl, if_neg (by simp [opened, forming, member]), if_neg refused]
  by_cases version : n = Status.versionUnsupported.code
  · have raised := State.raiseEv_eq u evNet 7
    refine ⟨u.raiseEv evNet 7, act_eq_next (f := (State.helloAnswer · n s.net.term)) live (does.trans (if_pos version)) (by rw [raised]; rfl)
      (by rw [raised]; rfl), by rw [raised]; rfl, fun _ => raiseEv_sets .., ?_⟩
    rw [raised]
    rfl
  · exact ⟨u, act_eq_next (f := (State.helloAnswer · n s.net.term)) live (does.trans (if_neg version)), rfl, fun same => absurd same version, rfl⟩

/-! ### The end of the formation time -/

theorem formationWithoutVersion (master : s.isMaster = true) (forming : s.net.state = .forming) (low : s.groupVersion < s.net.protoMin) :
    ∃ t, exec .formationLimit s = .next t ∧ t.net = { s.net with state := .halted } ∧ bitAt (t.ev evNet).value 7 = true ∧
      t = { s with net := t.net, events := t.events, plk := t.plk, out := t.out } := by
  let u := s.setNet { s.net with state := .halted }
  have raised := State.raiseEv_eq u evNet 7
  have does : s.formationLimit = u.raiseEv evNet 7 := by
    unfold State.formationLimit State.formGroup
    rw [if_pos ⟨group, master, forming⟩, if_pos low]
  refine ⟨u.raiseEv evNet 7, act_eq_next (f := State.formationLimit) live does (by rw [raised]; rfl) (by rw [raised]; rfl), by rw [raised]; rfl,
    raiseEv_sets .., ?_⟩
  rw [raised]
  rfl

theorem formationRuns (master : s.isMaster = true) (forming : s.net.state = .forming) (version : s.net.protoMin ≤ s.groupVersion)
    (all : (s.net.members.all fun p => p.2.role == 2 || p.2.state == 1) = true) :
    ∃ t, exec .formationLimit s = .next t ∧ t.net.state = .running ∧ t.net.version = s.groupVersion ∧ t.net.sentToDeputy = true ∧
      (t.net.record.any fun r => t.netOut == s.netOut ++ [.stepStart s.net.groupId s.net.deputy r] && r.term == s.net.term && r.gen == s.net.gen &&
        r.decision == 0 && r.notices == s.net.notices && r.cursors.length == s.net.replicas) = true ∧
      t = { s with net := t.net, netOut := t.netOut, netHeld := t.netHeld, free := s.free + s.net.replicas } := by
  let u := s.setNet { s.net with version := s.groupVersion, state := .running }
  have present : (s.net.members.filter fun p => p.2.role != 2 && p.2.state == 0) = [] := by
    refine List.filter_eq_nil_iff.mpr fun p mem => ?_
    have here := List.all_eq_true.mp all p mem
    intro missing
    rw [Bool.and_eq_true_iff] at missing
    obtain ⟨role, state⟩ := missing
    simp_all
  have stays : u.loseMissing = u := by
    unfold State.loseMissing
    rw [show (u.net.members.filter fun p => p.2.role != 2 && p.2.state == 0) = [] from present]
    rfl
  have does : s.formationLimit = u.firstRecord := by
    unfold State.formationLimit State.formGroup
    rw [if_pos ⟨group, master, forming⟩, if_neg (Nat.not_lt.mpr version)]
    dsimp only
    rw [show (s.setNet { s.net with version := s.groupVersion, state := .running }).loseMissing = u from stays]
    exact if_pos rfl
  refine ⟨_, act_eq_next (f := State.formationLimit) live does, rfl, rfl, rfl, ?_, rfl⟩
  simp [State.firstRecord, State.sendNet, State.setNet, u]

/-- The loss of an ingest member that nobody replaces halts the group, and every member is told. -/
theorem formationHalts (master : s.isMaster = true) (forming : s.net.state = .forming) (version : s.net.protoMin ≤ s.groupVersion)
    {m : Nat} {x : Member} (missing : (s.net.members.filter fun p => p.2.role != 2 && p.2.state == 0) = [(m, x)])
    (there : s.member m = some x) (ingest : x.role = 1) (other : m ≠ s.net.self) (alone : s.standby = none)
    (settled : s.net.sentToDeputy = false) :
    ∃ t, exec .formationLimit s = .next t ∧ t.net.state = .halted ∧ bitAt (t.ev evNet).value 0 = true ∧
      bitAt (t.ev evNet).value 2 = true ∧ (t.member m).any (·.state == 2) = true ∧ t.net.record = s.net.record ∧
      ∀ k, k ∈ s.liveMembers → k ≠ s.net.self → ∃ r, r.notices = s.net.notices ++ [.lost m none, .halts] ∧
        .stepStart s.net.groupId k r ∈ t.netOut := by
  let u := s.setNet { s.net with version := s.groupVersion, state := .running }
  let v := u.modMember m fun y => { y with state := 2 }
  have here : u.member m = some x := there
  have state : x.state = 0 := by
    have mem : (m, x) ∈ s.net.members.filter fun p => p.2.role != 2 && p.2.state == 0 := by rw [missing]; exact .head _
    exact eq_of_beq (Bool.and_eq_true_iff.mp (List.mem_filter.mp mem).2).2
  have role : x.role ≠ 2 := by
    rw [ingest]
    decide
  have lost : u.loseMissing = u.memberLost m := by
    unfold State.loseMissing
    rw [show (u.net.members.filter fun p => p.2.role != 2 && p.2.state == 0) = [(m, x)] from missing]
    rfl
  have still : u.isMaster = true := by
    unfold State.isMaster at master ⊢
    rw [forming] at master
    exact master
  obtain ⟨pending, variant, out, -, told⟩ := u.lossFreed_spec m
  have settles := State.memberLost_settles here still state role other settled
  have net := u.lossFreed_net m
  generalize u.lossFreed m = w at *
  have gone : w.member m = some { x with state := 2 } := by
    unfold State.member
    rw [net]
    exact State.member_modMember here _
  have nobody : w.standby = none := by
    unfold State.standby
    rw [net]
    exact State.standby_modMember here role alone
  have alive (k : Nat) (mem : k ∈ s.liveMembers) : k ∈ w.liveMembers := by
    unfold State.liveMembers
    rw [net]
    exact State.live_modMember here (fun one => absurd (state.symm.trans one) (by decide)) mem
  have halts := State.settleLoss_halts gone ingest nobody
  let q := w.tell (w.net.notices ++ [.lost m none, .halts])
  have keeps : KeepsNet w q := State.sendAll_keeps ..
  have raised := State.raiseEv_eq (q.setNet { q.net with state := .halted }) evNet 2
  have ended : q.haltGroup.net = { w.net with state := .halted } := by
    unfold State.haltGroup
    rw [raised]
    show ({ q.net with state := .halted } : Net) = _
    rw [keeps.net]
  have does : s.formationLimit = q.haltGroup := by
    unfold State.formationLimit State.formGroup
    rw [if_pos ⟨group, master, forming⟩, if_neg (Nat.not_lt.mpr version)]
    dsimp only
    rw [show (s.setNet { s.net with version := s.groupVersion, state := .running }).loseMissing = q.haltGroup from (lost.trans settles).trans halts,
      if_neg (by rw [ended]; exact GroupState.noConfusion)]
  have same : q.haltGroup.pending = s.pending ∧ q.haltGroup.variant = s.variant := by
    unfold State.haltGroup
    rw [raised]
    exact ⟨keeps.still.1.trans pending, keeps.still.2.trans variant⟩
  refine ⟨q.haltGroup, act_eq_next (f := State.formationLimit) live does same.1 same.2, by rw [ended], ?_, raiseEv_sets .., ?_, ?_,
    fun k mem away => ?_⟩
  · exact raiseEv_bits (q.setNet { q.net with state := .halted }) _ _ _ _ (keeps.bits _ _ told)
  · unfold State.member
    rw [ended]
    show (w.member m).any _ = true
    rw [gone]
    rfl
  · rw [ended, net]
    rfl
  · have self : w.net.self = s.net.self := by
      rw [net]
      rfl
    have sent : q.haltGroup.netOut = q.netOut := by
      unfold State.haltGroup
      rw [raised]
      rfl
    have notice := State.tell_sent (w.net.notices ++ [.lost m none, .halts]) (alive k mem) (self ▸ away)
    rw [sent]
    refine ⟨w.toldRecord (w.net.notices ++ [.lost m none, .halts]), ?_, ?_⟩
    · show w.net.notices ++ _ = _
      rw [net]
      rfl
    · have same : w.net.groupId = s.net.groupId := by
        rw [net]
        rfl
      rw [← same]
      exact notice

end

/-! ### Reports of the step's end -/

namespace State

variable {s : State} {m : Nat} {x : Member} {status : Word}

/-- The reports with one more of a member's. -/
def reportsWith (s : State) (m : Nat) (status : Word) : List (Nat × Word) :=
  (s.net.reports.filter fun p => p.1 != m) ++ [(m, ((s.net.reports.find? fun p => p.1 == m).map (·.2)).getD 0 ||| status)]

/-- The state with a member's report taken; a second report ends its pause. -/
def reported (s : State) (m : Nat) (status : Word) (again : Bool) : State :=
  let s1 := s.modMember m fun x => { x with lastStep := s.net.step, paused := x.paused && !again }
  { s1 with net := { s1.net with reports := s.reportsWith m status } }

theorem reported_any (s : State) (m : Nat) (status : Word) : ((s.reportsWith m status).any fun p => p.1 == m) = true :=
  List.any_eq_true.mpr ⟨_, List.mem_append_right _ (.head _), beq_self_eq_true m⟩

/-- A report of the step to the master. -/
theorem stepEndReport_eq (group : s.inGroup = true) (master : s.isMaster = true) (there : s.member m = some x) (hold : s.net.holdFor = none) :
    let again := x.paused && s.net.reports.any fun p => p.1 == m
    let t := (s.reported m status again).formRecord
    s.stepEndReport m s.net.step status s.net.term = if (x.paused && !again && t.net.reports.any fun p => p.1 == m) = true then t.tellPause m else t := by
  have self : s.net.self = s.net.master := by
    unfold isMaster at master
    exact eq_of_beq (Bool.and_eq_true_iff.mp master).2
  unfold stepEndReport
  rw [withTerm_same group rfl, if_neg (by simp [group, there])]
  dsimp only
  rw [master, there, Option.any_some, Bool.true_and, beq_self_eq_true, Bool.and_true]
  have free : ¬(s.modMember m fun y => { y with lastStep := s.net.step, paused := y.paused &&
      !(x.paused && s.net.reports.any fun p => p.1 == m) }).net.holdFor = some m := by
    show ¬s.net.holdFor = some m
    rw [hold]
    nofun
  have takes : (s.modMember m fun y => { y with lastStep := s.net.step, paused := y.paused &&
      !(x.paused && s.net.reports.any fun p => p.1 == m) }).takeReport m s.net.step status =
      (s.reported m status (x.paused && s.net.reports.any fun p => p.1 == m)).formRecord := if_pos ⟨.inl self, rfl⟩
  rw [if_neg free, takes]

/-- The record that the master forms of the reports. -/
def formedRecord (s : State) : StepRecord :=
  let skip := bitAt ((s.net.reports.foldl (fun a p => a ||| p.2) (0 : Word))).toNat 19
  let me := (s.contexts.find? fun p => p.2.queues.any fun x => x.stepGate).map (·.2)
  let h := (me.map (·.lrH)).getD 0
  let mine := ((tget s.net.members s.net.self).map (·.replica)).getD 0
  { step := s.net.step + 1, term := s.net.term, gen := s.net.gen, decision := b2n skip,
    seed := (me.map (·.seed)).getD 0, lrH := if skip then Nat.min 20 (h + 1) else if me.any recovers then h - 1 else h,
    notices := s.net.notices
    cursors := (List.range s.net.replicas).map fun i =>
      if i = mine then (me.map (·.drawCursor)).getD 0 else Config.freeValue 64 (s.free + i) }

theorem formRecord_forms (running : s.net.state = .running) (self : s.net.self = s.net.master) (sent : s.net.sentToDeputy = false)
    (goes : s.net.stopped = false) (hold : s.net.holdFor = none) (awake : s.groupPaused = false)
    (all : (s.computeMembers.all fun m => s.net.reports.any fun p => p.1 == m) = true) (some_ : s.net.reports ≠ []) :
    s.formRecord = ({ s with
      free := s.free + s.net.replicas
      net := { s.net with record := some s.formedRecord, sentToDeputy := true, reports := [] } } : State).sendNet
      (.stepStart s.net.groupId s.net.deputy s.formedRecord) := if_pos ⟨running, self, sent, goes, hold, awake, all, some_⟩

theorem formRecord_paused (paused : s.groupPaused = true) : s.formRecord = s :=
  if_neg (by simp [paused])

theorem formRecord_waits (few : (s.computeMembers.all fun m => s.net.reports.any fun p => p.1 == m) = false) : s.formRecord = s :=
  if_neg (by simp [few])

theorem foldl_or_bit (l : List (Nat × Word)) (a : Word) (n : Nat) :
    (l.foldl (fun a p => a ||| p.2) a).getLsbD n = (a.getLsbD n || l.any fun p => p.2.getLsbD n) := by
  induction l generalizing a with
  | nil => simp
  | cons p l ih => rw [List.foldl_cons, ih, List.any_cons, BitVec.getLsbD_or, Bool.or_assoc]

theorem formedRecord_decision (s : State) : s.formedRecord.decision = b2n (s.net.reports.any fun p => p.2.getLsbD 19) := by
  have bit := foldl_or_bit s.net.reports 0 19
  rw [show (0 : Word).getLsbD 19 = false by decide, Bool.false_or] at bit
  show b2n (bitAt ((s.net.reports.foldl (fun a p => a ||| p.2) (0 : Word))).toNat 19) = _
  rw [← bit, bitAt_eq_testBit]
  rfl

/-- The compute members after a report are the same ones. -/
theorem reported_compute (there : s.member m = some x) (again : Bool) {k : Nat} :
    k ∈ (s.reported m status again).computeMembers ↔ k ∈ s.computeMembers :=
  compute_modMember (f := fun y => { y with lastStep := s.net.step, paused := y.paused && !again }) there rfl rfl

theorem reported_member (there : s.member m = some x) (again : Bool) :
    (s.reported m status again).member m = some { x with lastStep := s.net.step, paused := x.paused && !again } :=
  member_modMember (f := fun y => { y with lastStep := s.net.step, paused := y.paused && !again }) there

theorem reported_member_ne (again : Bool) {k : Nat} (ne : k ≠ m) : (s.reported m status again).member k = s.member k :=
  member_modMember_ne (f := fun y => { y with lastStep := s.net.step, paused := y.paused && !again }) ne

theorem reported_all (there : s.member m = some x) (again : Bool) :
    ((s.reported m status again).computeMembers.all fun k => (s.reportsWith m status).any fun p => p.1 == k) =
      (s.computeMembers.all fun k => (s.reportsWith m status).any fun p => p.1 == k) := by
  refine Bool.eq_iff_iff.mpr ?_
  simp only [List.all_eq_true]
  exact ⟨fun h k mem => h k ((reported_compute there again).mpr mem), fun h k mem => h k ((reported_compute there again).mp mem)⟩

end State

/-- A state that has sent a record of these parts. -/
theorem sentRecord {s t : State} {r : StepRecord} {d : Nat} (record : t.net.record = some r)
    (out : t.netOut = s.netOut ++ [.stepStart s.net.groupId s.net.deputy r]) (step : r.step = s.net.step + 1) (term : r.term = s.net.term)
    (gen : r.gen = s.net.gen) (decision : r.decision = d) (notices : r.notices = s.net.notices) (cursors : r.cursors.length = s.net.replicas) :
    (t.net.record.any fun r => t.netOut == s.netOut ++ [.stepStart s.net.groupId s.net.deputy r] && r.step == s.net.step + 1 &&
      r.term == s.net.term && r.gen == s.net.gen && r.decision == d && r.notices == s.net.notices && r.cursors.length == s.net.replicas) = true := by
  rw [record, Option.any_some, out, step, term, gen, notices, decision, cursors]
  simp only [beq_self_eq_true, Bool.and_self]

section
variable {s : State} (live : s.flt.fatal = false) (group : s.inGroup = true) {m : Nat} {x : Member} (status : Word) (there : s.member m = some x)
  (master : s.isMaster = true) (running : s.net.state = .running) (sent : s.net.sentToDeputy = false) (goes : s.net.stopped = false)
  (hold : s.net.holdFor = none)
include live group there master running sent goes hold

theorem lastReport (all : (s.computeMembers.all fun n => (s.reportsWith m status).any fun p => p.1 == n) = true)
    (awake : (s.computeMembers.all fun n => n == m || !(s.member n).any (·.paused)) = true)
    (again : x.paused = true → (s.net.reports.any fun p => p.1 == m) = true) :
    ∃ t, exec (.stepEndReport ⟨m, s.net.term⟩ s.net.step status 0) s = .next t ∧ t.net.sentToDeputy = true ∧ t.net.reports = [] ∧
      (t.net.record.any fun r => t.netOut == s.netOut ++ [.stepStart s.net.groupId s.net.deputy r] && r.step == s.net.step + 1 &&
        r.term == s.net.term && r.gen == s.net.gen &&
        r.decision == b2n ((s.reportsWith m status).any fun p => p.2.getLsbD 19) && r.notices == s.net.notices &&
        r.cursors.length == s.net.replicas) = true ∧
      (t.member m).any (·.lastStep == s.net.step) = true ∧ t.net.step = s.net.step ∧
      t = { s with net := t.net, netOut := t.netOut, netHeld := t.netHeld, free := s.free + s.net.replicas } := by
  let a := x.paused && s.net.reports.any fun p => p.1 == m
  let u := s.reported m status a
  have self : s.net.self = s.net.master := by
    unfold State.isMaster at master
    exact eq_of_beq (Bool.and_eq_true_iff.mp master).2
  have calm : (x.paused && !a) = false := by
    show (x.paused && !(x.paused && s.net.reports.any fun p => p.1 == m)) = false
    cases paused : x.paused with
    | false => rfl
    | true => rw [again paused]; rfl
  have resting : u.groupPaused = false := by
    unfold State.groupPaused
    refine List.any_eq_false.mpr fun k mem => ?_
    have old : k ∈ s.computeMembers := (State.reported_compute there a).mp mem
    by_cases own : k = m
    · subst own
      show ¬((u.member k).any (·.paused)) = true
      rw [State.reported_member there, Option.any_some]
      show ¬(x.paused && !a) = true
      rw [calm]
      exact Bool.false_ne_true
    · have quiet := List.all_eq_true.mp awake k old
      show ¬((u.member k).any (·.paused)) = true
      rw [State.reported_member_ne a own]
      simpa [own] using quiet
  have forms := State.formRecord_forms (s := u) running self sent goes hold resting
    ((State.reported_all there a).trans all) (List.append_ne_nil_of_right_ne_nil _ (List.cons_ne_nil _ _))
  have does : s.stepEndReport m s.net.step status s.net.term = u.formRecord := by
    rw [State.stepEndReport_eq group master there hold]
    rw [show (x.paused && !(x.paused && s.net.reports.any fun p => p.1 == m)) = false from calm]
    exact if_neg Bool.false_ne_true
  have decision : u.formedRecord.decision = b2n ((s.reportsWith m status).any fun p => p.2.getLsbD 19) := u.formedRecord_decision
  have cursors : u.formedRecord.cursors.length = s.net.replicas := by
    show ((List.range s.net.replicas).map _).length = _
    rw [List.length_map, List.length_range]
  refine ⟨_, act_eq_next (f := (State.stepEndReport · m s.net.step status s.net.term)) live (does.trans forms), rfl, rfl,
    sentRecord (r := u.formedRecord) rfl rfl rfl rfl rfl decision rfl cursors, ?_, rfl, rfl⟩
  have read := State.reported_member (status := status) there a
  exact (congrArg (Option.any fun y : Member => y.lastStep == s.net.step) read).trans (beq_self_eq_true s.net.step)

theorem pausedReport (paused : x.paused = true) (first : (s.net.reports.any fun p => p.1 == m) = false) (role : x.role = 0) (state : x.state = 1) :
    ∃ t, exec (.stepEndReport ⟨m, s.net.term⟩ s.net.step status 0) s = .next t ∧ t.net.reports = s.reportsWith m status ∧
      t.net.sentToDeputy = false ∧ t.net.record = s.net.record ∧ t.member m = some { x with lastStep := s.net.step } ∧
      (∀ k, k ∈ s.liveMembers → k ≠ s.net.self → NetMsg.pauseRequest s.net.groupId k m s.net.term ∈ t.netOut) ∧
      t = { s with net := { s.net with reports := s.reportsWith m status, members := t.net.members }, netOut := t.netOut, netHeld := t.netHeld } := by
  let u := s.reported m status false
  have mine : (m, x) ∈ s.net.members := mem_of_tget_eq_some there
  have computes : m ∈ s.computeMembers :=
    List.mem_map.mpr ⟨_, List.mem_filter.mpr ⟨mine, by simp [role, state]⟩, rfl⟩
  have read : u.member m = some { x with lastStep := s.net.step } := by
    rw [State.reported_member there]
    simp [paused]
  have resting : u.groupPaused = true := by
    refine List.any_eq_true.mpr ⟨m, (State.reported_compute there false).mpr computes, ?_⟩
    show (u.member m).any (·.paused) = true
    rw [read]
    exact paused
  have does : s.stepEndReport m s.net.step status s.net.term = u.tellPause m := by
    rw [State.stepEndReport_eq group master there hold]
    rw [first, Bool.and_false, paused, State.formRecord_paused resting]
    exact if_pos ((Bool.true_and _).trans (State.reported_any s m status))
  obtain ⟨out, held, frame⟩ := State.sendAll_frame u fun d => .pauseRequest u.net.groupId d m u.net.term
  have told (k : Nat) (mem : k ∈ s.liveMembers) (away : k ≠ s.net.self) :
      NetMsg.pauseRequest s.net.groupId k m s.net.term ∈ (u.tellPause m).netOut :=
    State.sendAll_sent (s := u) (fun d => .pauseRequest u.net.groupId d m u.net.term)
      (State.live_modMember (f := fun y => { y with lastStep := s.net.step, paused := y.paused && !false }) there (fun one => one) mem) away
  have eq : u.tellPause m = { u with netOut := out, netHeld := held } := frame
  rw [eq] at does told
  exact ⟨_, act_eq_next (f := (State.stepEndReport · m s.net.step status s.net.term)) live does, rfl, sent, rfl, read, told, rfl⟩

theorem earlyReport (few : (s.computeMembers.all fun n => (s.reportsWith m status).any fun p => p.1 == n) = false) (awake : x.paused = false) :
    ∃ t, exec (.stepEndReport ⟨m, s.net.term⟩ s.net.step status 0) s = .next t ∧
      t = { s with net := { s.net with reports := s.reportsWith m status, members := t.net.members } } := by
  have waits : (s.reported m status false).formRecord = s.reported m status false :=
    State.formRecord_waits ((State.reported_all there false).trans few)
  refine ⟨_, act_eq_next (f := (State.stepEndReport · m s.net.step status s.net.term)) (t := s.reported m status false) live ?_, rfl⟩
  rw [State.stepEndReport_eq group master there hold]
  rw [awake, Bool.false_and, Bool.false_and, if_neg Bool.false_ne_true, Bool.false_and]
  exact waits

end

/-! ### Step records -/

namespace State

variable {s : State} {r : StepRecord}

/-- The state in which a record is taken, before the gates go on. -/
def recordTaken (s : State) (r : StepRecord) : State :=
  let s1 := s.setNet { s.net with
    members := tmap (fun _ m => { m with state := if s.isMaster = false ∧ m.state = 0 then 1 else m.state, paused := false }) s.net.members
    term := r.term, gen := r.gen, step := r.step, record := some r, sentToDeputy := false, state := .running
    version := if s.net.version = 0 then s.groupVersion else s.net.version }
  { s1 with boot := { s1.boot with pauseAsked := false } }

theorem takeRecord_eq (s : State) (r : StepRecord) :
    s.takeRecord r = (s.contexts.map (·.1)).foldl (fun (s : State) c => s.stepGateRelease c) (s.recordTaken r) := rfl

theorem turns_takeRecord (idle : s.ckp.replay = none) (r : StepRecord) : Turns (s.recordTaken r) (s.takeRecord r) :=
  turns_stepGates (s := s.recordTaken r) idle _

theorem stepStartAck_eq (group : s.inGroup = true) (master : s.isMaster = true) (record : s.net.record = some r)
    (sent : s.net.sentToDeputy = true) {step : Word} (same : r.step = step) :
    s.stepStartAck step s.net.term =
      let s1 := (s.sendAll fun m => .stepStart s.net.groupId m r).takeRecord r
      settleLosses s1.net.unsettled.length (s1.setNet { s1.net with notices := s1.net.notices.drop r.notices.length }) := by
  unfold stepStartAck
  rw [withTerm_same group rfl, record]
  exact if_pos ⟨group, master, sent, same⟩

/-- Where no command is queued, no context waits at a gate. -/
theorem heldEvent_of_nil {c q kind : Nat} (empty : (s.queue c q).cmds = []) : s.heldEvent c q kind = none := by
  unfold heldEvent
  rw [empty]
  split <;> rfl

theorem stepGateRelease_idle {c : Nat} (empty : ∀ q, (s.queue c q).cmds = []) : s.stepGateRelease c = s := by
  unfold stepGateRelease
  have none_ : ([0, 1, 2, 3].findSome? fun q => (s.heldEvent c q 2).map fun y => (q, y)) = none := by
    refine List.findSome?_eq_none_iff.mpr fun q _ => ?_
    rw [heldEvent_of_nil (empty q)]
    rfl
  rw [none_]

theorem stepGates_idle (empty : ∀ c q, (s.queue c q).cmds = []) (l : List Nat) :
    l.foldl (fun (s : State) c => s.stepGateRelease c) s = s := by
  induction l with
  | nil => rfl
  | cons c l ih => rw [List.foldl_cons, stepGateRelease_idle (empty c), ih]

/-- Contexts without commands, by the table. -/
theorem queues_empty (idle : (s.contexts.all fun p => p.2.queues.all fun q => !q.stepGate && q.cmds.isEmpty) = true) (c q : Nat) :
    (s.queue c q).cmds = [] := by
  refine queue_cmds_nil ?_ q
  unfold State.ctx tgetD
  cases there : tget s.contexts c with
  | none => decide
  | some k =>
    have all := List.all_eq_true.mp idle _ (mem_of_tget_eq_some there)
    refine List.all_eq_true.mpr fun x mem => ?_
    exact (Bool.and_eq_true_iff.mp (List.all_eq_true.mp all x mem)).2

end State

section
variable {s : State} (live : s.flt.fatal = false) (group : s.inGroup = true) {r : StepRecord}
include live group

theorem recordAcknowledged (master : s.isMaster = true) (record : s.net.record = some r) (sent : s.net.sentToDeputy = true) {step : Word}
    (same : r.step = step) (settled : s.net.unsettled = []) (idle : s.ckp.replay = none) :
    ∃ t, exec (.stepStartAck ⟨step, s.net.term⟩) s = .next t ∧ t.net.step = step ∧ t.net.term = r.term ∧ t.net.gen = r.gen ∧
      t.net.record = some r ∧ t.net.sentToDeputy = false ∧ t.net.state = .running ∧
      t.net.notices = s.net.notices.drop r.notices.length ∧
      (∀ m, m ∈ s.liveMembers → m ≠ s.net.self → NetMsg.stepStart s.net.groupId m r ∈ t.netOut) := by
  let u := s.sendAll fun m => .stepStart s.net.groupId m r
  obtain ⟨out, held, frame⟩ := State.sendAll_frame s fun m => .stepStart s.net.groupId m r
  have told (m : Nat) (mem : m ∈ s.liveMembers) (away : m ≠ s.net.self) : NetMsg.stepStart s.net.groupId m r ∈ u.netOut :=
    State.sendAll_sent (fun m => .stepStart s.net.groupId m r) mem away
  have replay : u.ckp.replay = none := by
    rw [show u = _ from frame]
    exact idle
  have still : u.pending = s.pending ∧ u.variant = s.variant ∧ u.net = s.net := by
    rw [show u = _ from frame]
    exact ⟨rfl, rfl, rfl⟩
  obtain ⟨pending, variant, unet⟩ := still
  have turns := State.turns_takeRecord replay r
  have net : (u.takeRecord r).net = (u.recordTaken r).net := turns.net
  let w := u.takeRecord r
  have empty : w.net.unsettled = [] := by
    rw [net]
    show u.net.unsettled = []
    rw [unet]
    exact settled
  have does : s.stepStartAck step s.net.term = w.setNet { w.net with notices := w.net.notices.drop r.notices.length } := by
    rw [State.stepStartAck_eq group master record sent same]
    show State.settleLosses w.net.unsettled.length _ = _
    rw [empty]
    rfl
  refine ⟨_, act_eq_next (f := (State.stepStartAck · step s.net.term)) live does (turns.still.1.trans pending) (turns.still.2.trans variant),
    ?_, ?_, ?_, ?_, ?_, ?_, ?_, fun m mem away => turns.sent _ (told m mem away)⟩
  · show w.net.step = step
    rw [net]
    exact same
  · show w.net.term = r.term
    rw [net]
    rfl
  · show w.net.gen = r.gen
    rw [net]
    rfl
  · show w.net.record = some r
    rw [net]
    rfl
  · show w.net.sentToDeputy = false
    rw [net]
    rfl
  · show w.net.state = .running
    rw [net]
    rfl
  · show w.net.notices.drop r.notices.length = s.net.notices.drop r.notices.length
    rw [net]
    show u.net.notices.drop r.notices.length = s.net.notices.drop r.notices.length
    rw [unet]

theorem otherAcknowledgement (record : s.net.record = some r) {step : Word} (other : r.step ≠ step) :
    ∃ t, exec (.stepStartAck ⟨step, s.net.term⟩) s = .next t ∧ t = s := by
  refine ⟨s, act_eq_next (f := (State.stepStartAck · step s.net.term)) live ?_, rfl⟩
  unfold State.stepStartAck
  rw [State.withTerm_same group rfl, record]
  exact if_neg fun h => other h.2.2.2

theorem recordTakenByMember (member : s.isMaster = false) (seen : s.net.term ≤ r.term) (first : s.net.record = none) (quiet : r.notices = [])
    (idle : s.ckp.replay = none) :
    ∃ t, exec (.stepStartRecord r) s = .next t ∧ t.net.step = r.step ∧ t.net.term = r.term ∧ t.net.gen = r.gen ∧
      t.net.record = some r ∧ t.net.state = .running ∧
      (s.net.deputy = s.net.self → NetMsg.stepStartAck s.net.groupId s.net.master r.term r.step ∈ t.netOut) ∧
      ((s.contexts.all fun p => p.2.queues.all fun q => !q.stepGate && q.cmds.isEmpty) = true → t.contexts = s.contexts) := by
  let v := s.setNet { s.net with term := r.term }
  let u := if v.net.deputy = v.net.self then v.sendNet (.stepStartAck v.net.groupId v.net.master v.net.term r.step) else v
  have frame : ∃ out held, u = { v with netOut := out, netHeld := held } := by
    unfold u
    split
    · exact ⟨_, _, rfl⟩
    · exact ⟨v.netOut, v.netHeld, rfl⟩
  have told (deputy : s.net.deputy = s.net.self) : NetMsg.stepStartAck s.net.groupId s.net.master r.term r.step ∈ u.netOut := by
    unfold u
    rw [if_pos (show v.net.deputy = v.net.self from deputy)]
    exact List.mem_append_right _ (.head _)
  have inside : v.inGroup = true := group
  have apart : v.isMaster = false := member
  have none_ : v.net.record = none := first
  have running : v.net.state ≠ .halted := by
    unfold State.inGroup at group
    show s.net.state ≠ .halted
    simp_all
  have does : s.stepStartRecord r = u.takeRecord r := by
    unfold State.stepStartRecord
    rw [State.withTerm_member group member seen]
    change (if v.inGroup = false ∨ v.isMaster = true then v else _) = _
    rw [if_neg (by simp [inside, apart])]
    change (if v.net.record = some r ∧ v.net.state = .running then u else _) = _
    rw [if_neg (by simp [none_]), quiet]
    obtain ⟨out, held, eq⟩ := frame
    change (if u.net.state = .halted then u else if v.net.gen < r.gen ∧ v.net.record.isSome = true ∧ _ then _ else u.takeRecord r) = _
    rw [if_neg (by rw [eq]; exact running), if_neg (by simp [none_])]
  clear_value u
  obtain ⟨out, held, rfl⟩ := frame
  have turns := State.turns_takeRecord (s := { v with netOut := out, netHeld := held }) idle r
  refine ⟨_, act_eq_next (f := (State.stepStartRecord · r)) live does turns.still.1 turns.still.2, ?_, ?_, ?_, ?_, ?_,
    fun deputy => turns.sent _ (told deputy), fun empty => ?_⟩
  · rw [turns.net]
    rfl
  · rw [turns.net]
    rfl
  · rw [turns.net]
    rfl
  · rw [turns.net]
    rfl
  · rw [turns.net]
    rfl
  · rw [State.takeRecord_eq, State.stepGates_idle (s := State.recordTaken { v with netOut := out, netHeld := held } r) (State.queues_empty empty)]
    rfl

theorem recordOfLowerTerm (late : r.term < s.net.term) : ∃ t, exec (.stepStartRecord r) s = .next t ∧ t = s :=
  ⟨s, act_eq_next (f := (State.stepStartRecord · r)) live (State.withTerm_late late _), rfl⟩

end

/-! ### Pauses -/

section
variable {s : State} (live : s.flt.fatal = false) (group : s.inGroup = true) {m : Nat} {x : Member} (running : s.net.state = .running)
  (there : s.member m = some x)
include live group running there

theorem otherPauses (other : m ≠ s.net.self) :
    ∃ t, exec (.groupPauseRequest ⟨m, s.net.term⟩) s = .next t ∧ t.member m = some { x with paused := true } ∧
      (s.isMaster = true → (s.net.reports.any fun p => p.1 == m) = true → ∀ k, k ∈ s.liveMembers → k ≠ s.net.self →
        NetMsg.pauseRequest s.net.groupId k m s.net.term ∈ t.netOut) ∧
      (s.isMaster = false ∨ (x.role = 0 ∧ (s.net.reports.any fun p => p.1 == m) = false) → t.netOut = s.netOut) ∧
      t = { s with net := { s.net with members := t.net.members }, netOut := t.netOut, netHeld := t.netHeld } := by
  let u := s.modMember m fun y => { y with paused := true }
  have does : s.pauseRequest m s.net.term =
      if (s.isMaster && (x.role != 0 || s.net.reports.any fun p => p.1 == m)) = true then u.tellPause m else u := by
    unfold State.pauseRequest
    rw [State.withTerm_same group rfl, there]
    dsimp only
    rw [if_neg (by simp [group, running]), if_pos other]
  have read : u.member m = some { x with paused := true } := State.member_modMember there _
  by_cases tells : (s.isMaster && (x.role != 0 || s.net.reports.any fun p => p.1 == m)) = true
  · obtain ⟨out, held, frame⟩ := State.sendAll_frame u fun d => .pauseRequest u.net.groupId d m u.net.term
    have told (k : Nat) (mem : k ∈ s.liveMembers) (away : k ≠ s.net.self) :
        NetMsg.pauseRequest s.net.groupId k m s.net.term ∈ (u.tellPause m).netOut :=
      State.sendAll_sent (s := u) (fun d => .pauseRequest u.net.groupId d m u.net.term)
        (State.live_modMember (f := fun y => { y with paused := true }) there (fun one => one) mem) away
    have eq : u.tellPause m = { u with netOut := out, netHeld := held } := frame
    rw [if_pos tells, eq] at does
    rw [eq] at told
    refine ⟨_, act_eq_next (f := (State.pauseRequest · m s.net.term)) live does, read, fun _ _ => told, fun quiet => ?_, rfl⟩
    rcases quiet with member | ⟨role, none_⟩
    · simp [member] at tells
    · simp [role, none_] at tells
  · rw [if_neg tells] at does
    exact ⟨u, act_eq_next (f := (State.pauseRequest · m s.net.term)) live does, read,
      fun master reported => absurd (by rw [master, reported]; simp) tells, fun _ => rfl, rfl⟩

theorem selfPauses (self : m = s.net.self) (asked : s.boot.pauseAsked = true)
    (gate : (s.contexts.any fun p => p.2.queues.any fun q => q.stepGate) = true) :
    ∃ t, exec (.groupPauseRequest ⟨m, s.net.term⟩) s = .next t ∧ t.net.state = .paused ∧ t.member m = some { x with paused := true } ∧
      (s.isMaster = false → t.netOut = s.netOut) ∧
      t = { s with net := { s.net with state := .paused, members := t.net.members }, netOut := t.netOut, netHeld := t.netHeld } := by
  let u := s.modMember m fun y => { y with paused := true }
  let w := u.setNet { u.net with state := .paused }
  have does : s.pauseRequest m s.net.term = if s.isMaster = true then w.tellPause m else w := by
    unfold State.pauseRequest
    rw [State.withTerm_same group rfl, there]
    dsimp only
    rw [if_neg (by simp [group, running]), if_neg (fun other => other self), gate, if_neg (by simp), if_pos asked]
  have read : w.member m = some { x with paused := true } := State.member_modMember there _
  obtain ⟨out, held, frame⟩ := State.sendAll_frame w fun d => .pauseRequest w.net.groupId d m w.net.term
  have eq : w.tellPause m = { w with netOut := out, netHeld := held } := frame
  cases role : s.isMaster with
  | true =>
    rw [role, if_pos rfl, eq] at does
    exact ⟨_, act_eq_next (f := (State.pauseRequest · m s.net.term)) live does, rfl, read, nofun, rfl⟩
  | false =>
    rw [role, if_neg Bool.false_ne_true] at does
    exact ⟨_, act_eq_next (f := (State.pauseRequest · m s.net.term)) live does, rfl, read, fun _ => rfl, rfl⟩

theorem selfReportsAgain (self : m = s.net.self) (asked : s.boot.pauseAsked = false) (member : s.isMaster = false)
    (gate : (s.contexts.any fun p => p.2.queues.any fun q => q.stepGate) = true) :
    ∃ t, exec (.groupPauseRequest ⟨m, s.net.term⟩) s = .next t ∧ t = s.reportAgain := by
  refine ⟨s.reportAgain, act_eq_next (f := (State.pauseRequest · m s.net.term)) live ?_, rfl⟩
  unfold State.pauseRequest
  rw [State.withTerm_same group rfl, there]
  dsimp only
  rw [if_neg (by simp [group, running]), if_neg (fun other => other self), gate, if_neg (by simp), asked, member]
  rfl

end

/-- Settles O55: each clause is the rule of its message above. -/
theorem groupsFormAndStep : Obligations.GroupsFormAndStep := by
  intro s live group
  refine ⟨fun h x master there own term => ⟨fun low => ?_, fun version gen => ?_, fun version gen crc accepted ident running => ?_⟩,
    fun n forming member => ⟨fun zero x there => ?_, fun refused => helloAnswerHalts live group forming member refused⟩,
    fun master forming low => formationWithoutVersion live group master forming low,
    fun master forming version => ⟨fun all => formationRuns live group master forming version all,
      fun m x missing there ingest other alone settled => ?_⟩,
    fun m x status there master running sent goes hold => ⟨fun all awake again => ?_, fun paused first role state => ?_, fun few awake => ?_⟩,
    fun r step master record => ⟨fun sent same settled idle => ?_, fun other => otherAcknowledgement live group record other⟩,
    fun r member => ⟨fun late => recordOfLowerTerm live group late, fun seen first quiet idle => recordTakenByMember live group member seen first quiet idle⟩,
    fun m x running there => ⟨fun other => otherPauses live group running there other,
      fun self asked gate => selfPauses live group running there self asked gate,
      fun self asked member gate => selfReportsAgain live group running there self asked member gate⟩,
    fun term late => ⟨fun h own => ?_, fun n => ?_, fun m step status off => ?_, fun step => ?_, fun m => ?_⟩⟩
  · exact helloRefused live group master there own term (by decide) (if_pos low)
  · exact helloRefused live group master there own term (st := .refusedInfeasible) (by decide) (by simp [Nat.not_lt.mpr version, gen])
  · exact helloJoins live group master there own term version gen crc accepted ident running
  · subst zero
    exact helloAnswered live group forming member there
  · obtain ⟨t, does, halted, lost, halts, gone, record, told⟩ :=
      formationHalts live group master forming version missing there ingest other alone settled
    refine ⟨t, does, halted, lost, halts, gone, record, fun k mem away => ?_⟩
    obtain ⟨r, notices, sent⟩ := told k mem away
    exact List.any_eq_true.mpr ⟨_, sent, by simp [notices]⟩
  · exact lastReport live group status there master running sent goes hold all awake again
  · exact pausedReport live group status there master running sent goes hold paused first role state
  · exact earlyReport live group status there master running sent goes hold few awake
  · exact recordAcknowledged live group master record sent same settled idle
  · exact ⟨s, act_eq_next (f := (State.hello · h)) live (State.withTerm_late (own ▸ late) _), rfl⟩
  · exact ⟨s, act_eq_next (f := (State.helloAnswer · n term)) live (State.withTerm_late late _), rfl⟩
  · exact ⟨s, act_eq_next (f := (State.stepEndReport · m step status term)) live (State.withTerm_late late _), rfl⟩
  · exact ⟨s, act_eq_next (f := (State.stepStartAck · step term)) live (State.withTerm_late late _), rfl⟩
  · exact ⟨s, act_eq_next (f := (State.pauseRequest · m term)) live (State.withTerm_late late _), rfl⟩

end Sys2Proof.Machine
end

section
/-! O47. The drain of a tile whose destination holds the descriptor of its record (R109). -/

set_option Elab.async false

namespace Sys2Proof.Machine

/-- A descriptor of one element in memory. -/
def oneElement : List Byte := zeros 12 ++ leBytes 4 1 ++ leBytes 4 1 ++ zeros 12

/-- A MATMUL of one element that has read the descriptors 1 to 3 and not that of its record, 4: its destination, which 3 names, is the kind of
descriptor 4. -/
def recordCmd : Cmd :=
  { index := 0, word := BitVec.ofNat 128 (1 + 2 ^ 16 + 2 * 2 ^ 25 + 3 * 2 ^ 34 + 4 * 2 ^ 43 + 13 * 2 ^ 69), window := 0, started := true, left := 1
    result := none, final := false, recorded := false, resets := 0, reissued := false, parked := false, waitDom := none, waitFrom := none
    tflags := 0, maxTag := 0, maxRetries := 0, count := 1, moved := 0, maxExp := 0, body := [], combined := [], draws := none, partials := []
    spilled := [], fillAt := none, waits := 0
    descs := [(1, oneElement), (2, oneElement), (3, leBytes 8 (2 ^ 62 + 136) ++ zeros 24)] }

/-- The drain of its tile. -/
def recordDrain : Drain :=
  { ctx := 0, q := 0, idx := 0, tile := 0, slot := 0, part := none, retries := 0, own := 0, half := none, status := .ok, ovf := false
    waiting := false }

/-- Its context keeps its descriptors in scratchpad. Descriptor 4 names offset 1024 there, and its kind is 1, which no record may have. -/
def recordState : State := { State.reset with
  ptns := [(0, { quads := 1, ways := [], scratch := [1], sorus := [], pcs := 0, shares := 0, restriping := false })]
  domains := [(4, { Domain.reset with state := .opened })]
  contexts := [(0, { Context.reset with descAddr := 2 ^ 49, descCount := 5, queues := [{ Queue.reset with cmds := [recordCmd] }] })]
  arrays := [(0, { Arr.reset with drains := [recordDrain] })]
  mem := { cells := [(2 ^ 60 + 129, 4), (2 ^ 60 + 135, 0x40), (2 ^ 60 + 136, 1), (2 ^ 60 + 1024, 1)], undef := [] } }

/-- The drain writes the kind of descriptor 4, and then a record where that descriptor names it. -/
theorem recordState_writes : (recordState.drainHead 0).mem.read (2 ^ 60 + 1024) = 0 := by decide +kernel

theorem recordState_holds : recordState.mem.read (2 ^ 60 + 1024) = 1 := by decide +kernel

/-- Where the tile goes. -/
def recordDest : Desc := descOf (leBytes 8 (2 ^ 62 + 136) ++ zeros 24)

/-- The tile's bytes lie in descriptor 4. -/
theorem recordState_lies : recordState.lies (recordState.ctx recordDrain.ctx).ptn (arrDie 0) recordDest.addr 4
    (scrKey (recordState.ctx recordDrain.ctx).ptn (arrDie 0) 136) := by
  intro o low
  have four : o = 0 ∨ o = 1 ∨ o = 2 ∨ o = 3 := by omega
  rcases four with rfl | rfl | rfl | rfl <;> decide +kernel

/-- The memory that a command leaves. -/
theorem act_mem {s t : State} {f : State → State} (live : s.flt.fatal = false) (ran : act s f = .next t) : t.mem = (f s).mem := by
  rw [act_live s f live] at ran
  rw [← Host.Outcome.next.inj ran]

/-- Refutes O47: its clause on the drain of one element has the descriptor of the record absent before the drain. A drain whose destination
holds that descriptor makes it one: the record is written too, where the statement has every other byte as it was. -/
theorem not_arraysWork : ¬ Obligations.ArraysWork := by
  intro holds
  have drains := holds.2.1 recordState 0 136 recordDrain [] (State.atCmd 0 0 recordCmd) recordCmd (descOf oneElement) (descOf oneElement) recordDest
    (by decide) (by decide +kernel) (by decide +kernel) (by decide +kernel) (by decide +kernel)
    (by decide) (by decide +kernel)
    (by decide +kernel) (by decide +kernel) (by decide +kernel) (by decide +kernel) (by decide +kernel) (by decide +kernel) (by decide +kernel)
    (by decide +kernel) (by decide +kernel) (by decide +kernel) (by decide) (by decide +kernel) (by decide +kernel) (by decide) (by decide) (by decide)
    (by decide) (by decide +kernel) recordState_lies
  obtain ⟨t, ran, stored, -⟩ := drains
  have mem : t.mem = (recordState.drainHead 0).mem := act_mem (f := (State.drainHead · 0)) (by decide) ran
  have kept := stored.2 (2 ^ 60 + 1024) (.inr (by decide +kernel))
  rw [mem, recordState_writes, recordState_holds] at kept
  exact absurd kept (by decide)

end Sys2Proof.Machine
end

section
/-! SUPPORT. What a restore leaves as it is while it gives back a partition's state (R329 to R331). -/

set_option Elab.async false

namespace Sys2Proof.Machine

namespace State

/-- A store changes device memory and the cache alone. -/
theorem storeBytes_frame (s : State) (p a : Nat) (l : List Byte) : ∃ m ls, s.storeBytes p a l = { s with mem := m, lines := ls } := by
  obtain ⟨m, stored⟩ := s.writeBytes_mem p 0 a l
  unfold storeBytes
  rw [stored]
  dsimp only
  split
  · refine ⟨m, _, foldl_lines (fun t v => ?_) _ _⟩
    split
    · exact dirtied_eq ..
    · rfl
  · exact ⟨m, s.lines, rfl⟩

theorem post_linkUp (s : State) (a : Nat) (l : List Byte) : (s.post a l).linkUp = s.linkUp := by
  obtain ⟨m, ls, stored⟩ := s.fwWrite_frame a l
  have kept : (s.fwWrite a l).linkUp = s.linkUp := by
    rw [stored]
    rfl
  unfold post
  split
  · split
    · rw [hostMessages_linkUp, kept]
    · rfl
  · exact kept

end State

/-- What a restored context is known by: its state, its image, its seed and its learning rate. -/
def Context.gist (k : Context) : CtxState × Bool × Bool × DWord × Nat := (k.state, k.hasImage, k.barred, k.seed, k.lrH)

/-- Steps that leave every context what it is known by, and the host link up or down. -/
structure Restores (s t : State) : Prop where
  still : t.pending = s.pending ∧ t.variant = s.variant
  link : t.linkUp = s.linkUp
  gist : ∀ c, (t.ctx c).gist = (s.ctx c).gist

namespace Restores

variable {s t u : State}

theorem refl (s : State) : Restores s s := ⟨⟨rfl, rfl⟩, rfl, fun _ => rfl⟩

theorem trans (h : Restores s t) (k : Restores t u) : Restores s u :=
  ⟨⟨k.still.1.trans h.still.1, k.still.2.trans h.still.2⟩, k.link.trans h.link, fun c => (k.gist c).trans (h.gist c)⟩

theorem foldl {α : Type} {f : State → α → State} (step : ∀ s a, Restores s (f s a)) (l : List α) (s : State) : Restores s (l.foldl f s) :=
  List.foldlRecOn (motive := Restores s) l f (refl s) fun t ht a _ => ht.trans (step t a)

theorem ite {p : Prop} [Decidable p] (yes : p → Restores s t) (no : ¬p → Restores s u) : Restores s (if p then t else u) := by
  split
  · next h => exact yes h
  · next h => exact no h

/-- Steps that touch neither the contexts nor the link. -/
theorem of_same (contexts : t.contexts = s.contexts) (link : t.linkUp = s.linkUp) (pending : t.pending = s.pending)
    (variant : t.variant = s.variant) : Restores s t :=
  ⟨⟨pending, variant⟩, link, fun c => by unfold State.ctx; rw [contexts]⟩

theorem setCtx {c : Nat} {k : Context} (same : k.gist = (s.ctx c).gist) : Restores s (s.setCtx c k) := by
  refine ⟨⟨rfl, rfl⟩, rfl, fun d => ?_⟩
  by_cases here : d = c
  · rw [here, State.setCtx_ctx, same]
  · rw [State.setCtx_ctx_ne _ _ here]

theorem setQueue (s : State) (c q : Nat) (x : Queue) : Restores s (s.setQueue c q x) := setCtx rfl

theorem raiseEv (s : State) (e b : Nat) : Restores s (s.raiseEv e b) := by
  have frame := s.raiseEv_eq e b
  exact of_same (congrArg State.contexts frame :) (s.raiseEv_linkUp e b) (congrArg State.pending frame :) (congrArg State.variant frame :)

theorem storeBytes (s : State) (p a : Nat) (l : List Byte) : Restores s (s.storeBytes p a l) := by
  obtain ⟨m, ls, frame⟩ := s.storeBytes_frame p a l
  rw [frame]
  exact of_same rfl rfl rfl rfl

theorem post (s : State) (a : Nat) (l : List Byte) : Restores s (s.post a l) := by
  obtain ⟨m, ls, p, o, frame⟩ := wrote_post s a l
  exact of_same (congrArg State.contexts frame :) (s.post_linkUp a l) (congrArg State.pending frame :) (congrArg State.variant frame :)

theorem logStore (s : State) (p : Nat) (l : List Byte) : Restores s (s.logStore p l) := by
  obtain ⟨m, ls, frame⟩ := s.logStore_frame p l
  rw [frame]
  exact of_same rfl rfl rfl rfl

theorem setCkp (s : State) (k : Ckp) : Restores s (s.setCkp k) := of_same rfl rfl rfl rfl

theorem sendNet (s : State) (m : NetMsg) : Restores s (s.sendNet m) := of_same rfl rfl rfl rfl

theorem logPut (s : State) (ty st fl step : Nat) (body : List Byte) : Restores s (s.logPut ty st fl step body) := by
  unfold State.logPut
  split
  · exact .refl s
  · refine ite (fun _ => .refl s) fun _ => ?_
    extract_lets _ _ _ _ _ s1 _ s2 _ s3 _
    have one : Restores s s1 := ite (fun _ => of_same rfl rfl rfl rfl) fun _ => logStore ..
    have two : Restores s1 s2 := ite (fun _ => sendNet ..) fun _ => ite (fun _ => .refl s1) fun _ => of_same rfl rfl rfl rfl
    have three : Restores s2 s3 := of_same rfl rfl rfl rfl
    have all := (one.trans two).trans three
    refine ite (fun _ => all.trans ?_) fun _ => all
    exact Restores.trans (t := { s3 with ckp := { s3.ckp with full := true } }) (of_same rfl rfl rfl rfl) (raiseEv ..)

theorem jobAfter (s : State) (j : Nat) : Restores s (s.jobAfter j) := by
  have freed : Restores s { s with jobs := tdel s.jobs j, jobHandles := s.jobHandles.free j } := of_same rfl rfl rfl rfl
  unfold State.jobAfter
  split
  · split
    · exact ite (fun _ => .refl s) fun _ => freed.trans (post ..)
    · exact ite (fun _ => freed) fun _ => .refl s
  · exact .refl s

theorem chanClosed (s : State) (i : Nat) : Restores s (s.chanClosed i) := by
  unfold State.chanClosed
  split
  · extract_lets _ s1 s2
    have freed : Restores s s1 := of_same rfl rfl rfl rfl
    have answered : Restores s1 s2 := by
      unfold s2
      split
      · exact post ..
      · exact .refl s1
    exact (freed.trans answered).trans (jobAfter ..)
  · exact .refl s

theorem setChan (s : State) (i : Nat) (ch : Channel) : Restores s (s.setChan i ch) := of_same rfl rfl rfl rfl

theorem chanAfter (s : State) (i : Nat) : Restores s (s.chanAfter i) := by
  unfold State.chanAfter
  split
  · refine ite (fun _ => ?_) fun _ => .refl s
    extract_lets ch1
    exact ite (fun _ => (setChan ..).trans (chanClosed ..)) fun _ => setChan ..
  · exact .refl s

theorem modChan (s : State) (i : Nat) (f : Channel → Channel) : Restores s (s.modChan i f) := by
  unfold State.modChan
  split
  · exact (setChan ..).trans (chanAfter ..)
  · exact .refl s

end Restores

namespace State

variable {s : State}

theorem restores_putSpans (p : Nat) (spans : List (Nat × Nat)) (s : State) (l : List Byte) : Restores s (s.putSpans p spans l) := by
  induction spans generalizing s l with
  | nil => exact .refl s
  | cons a r ih => exact (Restores.storeBytes ..).trans (ih ..)

theorem restores_sendAll (s : State) (f : Nat → NetMsg) : Restores s (s.sendAll f) := .foldl (fun _ _ => .sendNet ..) _ s

theorem restores_tell (s : State) (l : List GroupNotice) : Restores s (s.tell l) := by
  unfold tell
  exact restores_sendAll ..

theorem restores_nameStep (s : State) (reports : List (Nat × List Nat)) (step : Nat) : Restores s (s.nameStep reports step) := by
  unfold nameStep
  have one : Restores s (s.setNet { s.net with restoreTo := none }) := .of_same rfl rfl rfl rfl
  exact .ite (fun _ => one.trans (restores_tell ..)) fun _ => one

theorem restores_realign (s : State) (c n old new : Nat) : Restores s (s.realign c n old new) :=
  .ite (fun _ => .refl s) fun _ => (Restores.logPut ..).trans (.raiseEv ..)

theorem restores_realignCtx (s : State) (c : Nat) (entry : List Byte) : Restores s (s.realignCtx c entry) := by
  unfold realignCtx
  extract_lets k b want s1
  have one : Restores s s1 := by
    unfold s1
    split
    · refine Restores.trans ?_ (restores_realign ..)
      exact .setCtx rfl
    · exact .refl s
  refine one.trans (.foldl (fun s i => ?_) _ s1)
  refine .ite (fun _ => Restores.trans ?_ (restores_realign ..)) fun _ => .refl s
  exact .setCtx rfl

theorem restores_idleArrays (s : State) (c : Nat) : Restores s (s.idleArrays c) := .of_same rfl rfl rfl rfl

theorem restores_putWords (s : State) (c q : Nat) (lo : Word) (ws : List Nat) : Restores s (s.putWords c q lo ws) :=
  Restores.trans (.foldl (fun s _ => .ite (fun _ => .refl s) fun _ => .post ..) _ s) (.setQueue ..)

theorem restores_patchQueues (s : State) (c : Nat) : Restores s (s.patchQueues c) :=
  .foldl (fun t _ => .ite (fun _ => .refl t) fun _ => restores_putWords ..) _ s

theorem restores_teacherBack (s : State) (c : Nat) (places : List BlockMark) : Restores s (s.teacherBack c places) := by
  unfold teacherBack
  extract_lets k here_ p s1 _ s2 s3
  refine .ite (fun _ => .refl s) fun _ => ?_
  have one : Restores s s1 := restores_idleArrays ..
  have two : Restores s1 s2 := .setCtx rfl
  have three : Restores s2 s3 := .ite (fun _ => .refl s2) fun _ => (Restores.post ..).trans (restores_patchQueues ..)
  refine ((one.trans two).trans three).trans (.foldl (fun s i => ?_) _ s3)
  split
  · exact .setChan ..
  · exact .refl s

theorem restores_teachersBack (s : State) (chans : List Nat) : Restores s (s.teachersBack chans) :=
  .foldl (fun _ _ => restores_teacherBack ..) _ s

theorem restores_rehandle (s : State) (j : Job) (old new : Nat) : Restores s (s.rehandle j old new) :=
  .foldl (fun s _ => .foldl (fun s _ => .ite (fun _ => .post ..) fun _ => .refl s) _ s) _ s

theorem restores_reopenChan (s : State) (i : Nat) (seq : Word) : Restores s (s.reopenChan i seq) := by
  unfold reopenChan
  split
  · extract_lets again s1
    have one : Restores s s1 := by
      unfold s1
      split
      · exact .ite (fun _ => .post ..) fun _ => .refl s
      · exact .refl s
    exact one.trans (.modChan ..)
  · exact .refl s

theorem restores_reopenClosed (s : State) (old : Nat) (ch : Channel) (seq : Word) : Restores s (s.reopenClosed old ch seq) := by
  unfold reopenClosed
  split
  · refine .ite (fun _ => .refl s) fun _ => ?_
    refine Restores.trans ?_ (restores_rehandle ..)
    exact .of_same rfl rfl rfl rfl
  · exact .refl s

theorem restores_replayChans (s : State) (p : Nat) (rec_ : List Byte) : Restores s (s.replayChans p rec_) := by
  unfold replayChans
  extract_lets s1
  refine Restores.trans (t := s1) (.foldl (fun s x => ?_) _ s) (restores_teachersBack ..)
  dsimp only
  split
  · exact restores_reopenChan ..
  · exact restores_reopenClosed ..

theorem restores_replayStreams (s : State) (p : Nat) (rec_ : List Byte) : Restores s (s.replayStreams p rec_) := by
  unfold replayStreams
  refine .foldl (fun s x => ?_) _ s
  exact .of_same rfl rfl rfl rfl

theorem restores_replaySched (s : State) (rec_ : List Byte) : Restores s (s.replaySched rec_) := by
  unfold replaySched
  refine .foldl (fun s g => ?_) _ s
  exact .ite (fun _ => .of_same rfl rfl rfl rfl) fun _ => .refl s

/-- A restored context is SAVED with the seed and the learning rate of the state record; the others stay as they were. -/
theorem restoreCtx_spec (s : State) (c : Nat) (img rec_ : List Byte) :
    ((s.restoreCtx c img rec_).pending = s.pending ∧ (s.restoreCtx c img rec_).variant = s.variant) ∧
    (s.restoreCtx c img rec_).linkUp = s.linkUp ∧
    ((s.restoreCtx c img rec_).ctx c).gist = (.saved, true, false, BitVec.ofNat 64 (le rec_ 0x20 8), le rec_ 0xD 1) ∧
    ∀ d, d ≠ c → ((s.restoreCtx c img rec_).ctx d).gist = (s.ctx d).gist := by
  unfold restoreCtx
  extract_lets k s1 h s2
  have stored : Restores s s1 := .storeBytes ..
  have queues : Restores s2 ([0, 1, 2, 3].foldl (fun (s : State) q => s.setQueue c q (s.imageQueue c q h)) s2) :=
    .foldl (fun _ _ => .setQueue ..) _ s2
  refine ⟨⟨queues.still.1.trans stored.still.1, queues.still.2.trans stored.still.2⟩, queues.link.trans stored.link,
    (queues.gist c).trans ?_, fun d other => (queues.gist d).trans ?_⟩
  · rw [setCtx_ctx]
    rfl
  · rw [setCtx_ctx_ne _ _ other, stored.gist]

end State

end Sys2Proof.Machine
end

section
/-! SUPPORT. Mirror sessions from the source's end and from the partner's (R323 to R328). -/

set_option Elab.async false

namespace Sys2Proof.Machine

namespace State

variable {s : State} {l : List Byte} {i : Nat}

/-! ### The source's end -/

theorem openConnections_spec (s : State) (i : Nat) : ∃ qs, s.openConnections i = { s with net := { s.net with qps := qs } } ∧
    (∀ n, n < s.ckp.connections → tgetD qs (0x300000 + 8 * i + n) Qp.reset = Qp.reset) ∧
    ∀ q, q < 0x300000 + 8 * i ∨ 0x300000 + 8 * i + s.ckp.connections ≤ q → tgetD qs q Qp.reset = s.qp q := by
  have ends (n : Nat) : ∃ qs, (List.range n).foldl (fun (s : State) c => s.setQp (0x300000 + 8 * i + c) Qp.reset) s =
      { s with net := { s.net with qps := qs } } ∧
      (∀ k, k < n → tgetD qs (0x300000 + 8 * i + k) Qp.reset = Qp.reset) ∧
      ∀ q, q < 0x300000 + 8 * i ∨ 0x300000 + 8 * i + n ≤ q → tgetD qs q Qp.reset = s.qp q := by
    induction n with
    | zero => exact ⟨s.net.qps, rfl, fun _ h => absurd h (Nat.not_lt_zero _), fun _ _ => rfl⟩
    | succ n ih =>
      obtain ⟨qs, frame, own, other⟩ := ih
      refine ⟨tput qs (0x300000 + 8 * i + n) Qp.reset, ?_, fun k lt => ?_, fun q far => ?_⟩
      · rw [List.range_succ, List.foldl_append, frame]
        rfl
      · by_cases here : k = n
        · rw [here, tgetD_tput_same]
        · rw [tgetD_tput_ne _ _ _ (by omega)]
          exact own k (by omega)
      · rw [tgetD_tput_ne _ _ _ (by omega)]
        exact other q (by omega)
  exact ends s.ckp.connections

/-- A MIRROR_HELLO to the candidate at `i`, once its connections are open. -/
theorem tryCandidate_spec (listed : s.ckp.candidates[i]? = some l) (up : s.isOpen 76 = true) : ∃ h qs,
    s.tryCandidate i = ({ s with
      ckp := { s.ckp with mirror := .handshake, candidate := i, session := 0 }
      free := s.free + 1, net := { s.net with qps := qs } } : State).sendNet (.mirrorHello i h) ∧
    (h.protocol = 1 ∧ h.feed = s.boot.feed) ∧
    (∀ n, n < s.ckp.connections → tgetD qs (0x300000 + 8 * i + n) Qp.reset = Qp.reset) ∧
    ∀ q, q < 0x300000 + 8 * i ∨ 0x300000 + 8 * i + s.ckp.connections ≤ q → tgetD qs q Qp.reset = s.qp q := by
  obtain ⟨qs, opened, own, other⟩ := s.openConnections_spec i
  rw [tryCandidate, listed]
  dsimp only
  rw [if_pos up, opened]
  exact ⟨⟨1, (({ s with net := { s.net with qps := qs } } : State).ownReport (sha384 (slice l 0 32))).1, s.boot.feed,
    2 * s.ckptPages + s.ckp.logPages, bitAt (le l 32 4) 0⟩, qs, rfl, ⟨rfl, rfl⟩, own, other⟩

/-- The messages of a log sent again. -/
theorem resendLog_eq (s : State) : ∃ net held fl, s.resendLog = { s with netOut := net, netHeld := held, ckp := { s.ckp with flushed := fl } } := by
  unfold resendLog
  split
  · exact ⟨s.netOut, s.netHeld, s.ckp.flushed, rfl⟩
  · extract_lets hi lo s1
    have sent : ∃ net held, s1 = { s with netOut := net, netHeld := held } := by
      refine List.foldlRecOn (motive := fun t : State => ∃ net held, t = { s with netOut := net, netHeld := held }) _ _
        ⟨s.netOut, s.netHeld, rfl⟩ ?_
      rintro _ ⟨net, held, rfl⟩ n -
      dsimp only
      split
      · exact ⟨_, _, rfl⟩
      · exact ⟨_, _, rfl⟩
    obtain ⟨net, held, eq⟩ := sent
    refine ⟨net, held, BitVec.ofNat 64 lo, ?_⟩
    show s1.setCkp { s1.ckp with flushed := BitVec.ofNat 64 lo } = _
    rw [eq]
    rfl

section

variable {feed handle : Nat}

theorem helloMirror_active (waits : s.ckp.mirror = .handshake) (other : feed ≠ s.boot.feed) : ∃ net held fl,
    s.helloMirror 0 feed handle = { s with netOut := net, netHeld := held, ckp := { s.ckp with
      mirror := .active, partnerFeed := feed, session := handle, requested := s.ckp.requested || s.ckpPtn.isSome, flushed := fl } } := by
  have apart : (feed == s.boot.feed) = false := beq_false_of_ne other
  rw [helloMirror, if_neg (not_not.mpr waits), if_pos rfl, apart]
  obtain ⟨net, held, fl, eq⟩ := resendLog_eq (s.setCkp { s.ckp with
    mirror := .active, partnerFeed := feed, session := handle, requested := s.ckp.requested || s.ckpPtn.isSome })
  exact ⟨net, held, fl, eq⟩

theorem helloMirror_correlated (waits : s.ckp.mirror = .handshake) :
    (s.helloMirror 0 s.boot.feed handle).ckp.mirror = .correlated ∧ (s.helloMirror 0 s.boot.feed handle).ckp.session = handle ∧
      bitAt ((s.helloMirror 0 s.boot.feed handle).ev evCkp).value 6 = true ∧
      (s.helloMirror 0 s.boot.feed handle).pending = s.pending ∧ (s.helloMirror 0 s.boot.feed handle).variant = s.variant := by
  rw [helloMirror, if_neg (not_not.mpr waits), if_pos rfl, beq_self_eq_true]
  dsimp only
  rw [if_pos rfl, if_pos rfl]
  generalize same : s.setCkp _ = u
  have ckp : u.ckp.mirror = .correlated ∧ u.ckp.session = handle ∧ u.pending = s.pending ∧ u.variant = s.variant := by
    rw [← same]
    exact ⟨rfl, rfl, rfl, rfl⟩
  obtain ⟨net, held, fl, eq⟩ := resendLog_eq (u.raiseEv evCkp 6)
  have told : bitAt ((u.raiseEv evCkp 6).ev evCkp).value 6 = true := raiseEv_sets ..
  rw [eq]
  refine ⟨?_, ?_, told, ?_, ?_⟩
  · show (u.raiseEv evCkp 6).ckp.mirror = _
    rw [raiseEv_eq]
    exact ckp.1
  · show (u.raiseEv evCkp 6).ckp.session = _
    rw [raiseEv_eq]
    exact ckp.2.1
  · show (u.raiseEv evCkp 6).pending = _
    rw [raiseEv_eq]
    exact ckp.2.2.1
  · show (u.raiseEv evCkp 6).variant = _
    rw [raiseEv_eq]
    exact ckp.2.2.2

theorem helloMirror_sameFeed (waits : s.ckp.mirror = .handshake) : s.helloMirror Status.mirrorSameFeed.code feed handle =
    ((s.setCkp { s.ckp with lastStatus := .mirrorSameFeed }).raiseEv evCkp 5).tryCandidate (s.ckp.candidate + 1) := by
  rw [helloMirror, if_neg (not_not.mpr waits)]
  rfl

theorem helloMirror_refused (waits : s.ckp.mirror = .handshake) : s.helloMirror Status.refusedCapacity.code feed handle =
    (s.setCkp { s.ckp with lastStatus := .refusedCapacity }).tryCandidate (s.ckp.candidate + 1) := by
  rw [helloMirror, if_neg (not_not.mpr waits)]
  rfl

end

/-! ### The partner's end -/

/-- The acceptance of a MIRROR_HELLO: its session's record. -/
def helloSession (h : MirrorHelloMsg) (a : Nat) : ServedSession :=
  { feed := h.feed, key := slice h.report 0x70 96, first := a, pages := h.pages, slotA := { shards := [], manifest := none }
    slotB := { shards := [], manifest := none }, latest := none, log := [] }

theorem mirrorHello_ok {h : MirrorHelloMsg} {hs : HandleTable} {p a : Nat} (up : s.isOpen 76 = true) (version : h.protocol = 1)
    (least : s.boot.mirrorMin ≤ 1) (good : s.reportAccepted h.report (sha384 (slice Config.serverRecord 0 32)) = true)
    (feed : h.feed = s.boot.feed → h.force = true) (handle : s.sesHandles.take 4 = some (i, hs)) (store : s.ptnOf s.ckp.storePtn = some p)
    (place : s.storePlace h.pages = some a) :
    ∃ b m, s.mirrorHello h = ({ s with
      ckp := { s.ckp with served := tput s.ckp.served i (helloSession h a) }, sesHandles := hs, boot := b, mem := m
      free := s.free + 1 } : State).sendNet (.mirrorAnswer .ok s.boot.feed (handleWord 8 (hs.gen i) i)) := by
  have allowed : (h.feed == s.boot.feed && !h.force) = false := by
    by_cases same : h.feed = s.boot.feed
    · simp [feed same]
    · simp [same]
  unfold mirrorHello
  rw [if_neg (by simp [up])]
  extract_lets q place_ st x s1
  have place_eq : place_ = some a := by
    unfold place_ q
    rw [store, Option.isSome_some, if_pos rfl, place]
  have st_eq : st = .ok := by
    unfold st
    rw [good, allowed, handle, place_eq, version]
    simp only [bne_self_eq_false, Bool.false_or, Nat.not_lt.mpr least, decide_false, Bool.not_true, Option.isNone_some, Bool.or_self]
    decide
  rw [st_eq, handle, place_eq, show q = some p from store]
  exact ⟨_, _, rfl⟩

theorem mirrorHello_version {h : MirrorHelloMsg} (up : s.isOpen 76 = true) (other : h.protocol ≠ 1) :
    s.mirrorHello h = s.sendNet (.mirrorAnswer .versionUnsupported s.boot.feed 0) := by
  unfold mirrorHello
  rw [if_neg (by simp [up])]
  extract_lets p place st
  have wrong : (h.protocol != 1) = true := bne_iff_ne.mpr other
  have first (a b c : Bool) : firstStatus [(true, .versionUnsupported), (a, .refusedInfeasible), (b, .mirrorSameFeed),
      (c, .refusedCapacity)] = .versionUnsupported := by
    revert a b c
    decide
  have st_eq : st = .versionUnsupported := by
    unfold st
    rw [wrong, Bool.true_or]
    exact first ..
  rw [st_eq]

section

variable {v k : Nat} {x : ServedSession}

theorem shardArrives_kept (served : s.servedOf v = some (k, x)) (up : s.isOpen 76 = true) {data digest : List Byte}
    (right : sha384 data = digest) : s.shardArrives v i data digest = (s.setServed k (x.setSlot x.other { x.slot x.other with
      shards := tput (x.slot x.other).shards i (digest ++ data) })).sendNet (.shardAnswer v i true) := by
  rw [shardArrives, served]
  dsimp only
  rw [if_neg (by simp [up]), if_pos right]

theorem shardArrives_refused (served : s.servedOf v = some (k, x)) (up : s.isOpen 76 = true) {data digest : List Byte}
    (wrong : sha384 data ≠ digest) : s.shardArrives v i data digest = s.sendNet (.shardAnswer v i false) := by
  rw [shardArrives, served]
  dsimp only
  rw [if_neg (by simp [up]), if_neg wrong]

theorem manifestArrives_unsigned (served : s.servedOf v = some (k, x)) (unsigned : manifestSigned l x.key = false) :
    s.manifestArrives v l = s := by
  rw [manifestArrives, served]
  exact if_pos (.inr (.inl unsigned))

theorem slot_setSlot_self (x : ServedSession) (b : Bool) (y : StoreSlot) : (x.setSlot b y).slot b = y := by
  cases b <;> rfl

theorem slot_setSlot_not (x : ServedSession) (b : Bool) (y : StoreSlot) : (x.setSlot (!b) y).slot b = x.slot b := by
  cases b <;> rfl

theorem manifestArrives_sealed (served : s.servedOf v = some (k, x)) (up : s.isOpen 76 = true) (signed : manifestSigned l x.key = true)
    (plain : bitAt (le l 0x18 4) 0 = false)
    (same : ((List.range (le l 0xC 4)).all fun i => (tget (x.slot x.other).shards i).any fun z =>
      z.take 48 == slice (manifestEntry l i) 0x10 48) = true) :
    ∃ y, s.manifestArrives v l = (s.setServed k y).sendNet (.manifestAck v) ∧
      (y.latest == some x.other && (y.slot x.other).manifest == some l && y.slot (!x.other) == { shards := [], manifest := none }) = true := by
  rw [manifestArrives, served]
  dsimp only
  rw [if_neg (by simp [up, signed, same]), if_neg (by simp [plain])]
  refine ⟨_, rfl, ?_⟩
  cases x.other <;> simp [ServedSession.slot, ServedSession.setSlot]

theorem logArrives_kept (served : s.servedOf v = some (k, x)) (up : s.isOpen 76 = true) (long : l.length = 64)
    (right : crc32c (slice l 0 0x3C) = le l 0x3C 4) :
    s.logArrives v l = (s.setServed k { x with log := tput x.log (le l 8 8) l }).sendNet (.logAck v (le l 8 8)) := by
  rw [logArrives, served]
  dsimp only
  rw [if_neg (by simp [up, long, right])]

theorem logArrives_wrong (served : s.servedOf v = some (k, x)) (wrong : crc32c (slice l 0 0x3C) ≠ le l 0x3C 4) : s.logArrives v l = s := by
  rw [logArrives, served]
  exact if_pos (.inr (.inr wrong))

end

end State

end Sys2Proof.Machine
end

section
/-! O60. Mirror sessions and restores (R323 to R332). -/

set_option Elab.async false

namespace Sys2Proof.Machine

/-! ### Statuses -/

/-- A check that applies: the status reported ranks no later. -/
theorem firstStatus_rank_le {l : List (Bool × Status)} {st : Status} (mem : (true, st) ∈ l) : (firstStatus l).rank ≤ st.rank := by
  have falls (r : List (Bool × Status)) (x : Status) :
      (r.foldl (fun acc p => if p.1 && p.2.rank < acc.rank then p.2 else acc) x).rank ≤ x.rank := by
    refine List.foldlRecOn (motive := fun y : Status => y.rank ≤ x.rank) r _ (Nat.le_refl _) fun y le p _ => ?_
    split
    · next lower =>
      simp only [Bool.and_eq_true, decide_eq_true_eq] at lower
      omega
    · exact le
  obtain ⟨before, later, rfl⟩ := List.append_of_mem mem
  rw [firstStatus, List.foldl_append, List.foldl_cons]
  refine (falls later _).trans ?_
  dsimp only
  split
  · exact Nat.le_refl _
  · next high => simpa using high

/-- No check that has a status of its own applies where OK is reported. -/
theorem clear_of_firstStatus_ok {l : List (Bool × Status)} {b : Bool} {st : Status} (ok : firstStatus l = .ok) (mem : (b, st) ∈ l)
    (own : st.rank < Status.ok.rank) : b = false := by
  cases b with
  | false => rfl
  | true =>
    have low := firstStatus_rank_le mem
    rw [ok] at low
    omega

/-! ### The log record of a restore -/

/-- A log record's bytes past a short body are 0. -/
theorem logRecord_getElem?_zero (ty st fl src epoch lsn step time : Nat) {body : List Byte} (short : body.length ≤ 20) {i : Nat} {b : Byte}
    (past : 48 ≤ i ∧ i < 60) (here : (logRecord ty st fl src epoch lsn step time body)[i]? = some b) : b = 0 := by
  have head : (leBytes 1 ty ++ leBytes 1 st ++ leBytes 2 fl ++ leBytes 1 src ++ zeros 1 ++ leBytes 2 epoch ++ leBytes 8 lsn ++
      leBytes 4 step ++ leBytes 8 time).length = 28 := by
    simp [zeros]
  have padded : slice body 0 32 = body ++ List.replicate (32 - body.length) 0 := by
    rw [slice, List.drop_zero, List.take_of_length_le (by omega)]
    rfl
  obtain ⟨low, high⟩ := past
  unfold logRecord at here
  rw [padded] at here
  dsimp only at here
  rw [List.append_assoc, List.getElem?_append_right (by rw [head]; omega), head, List.append_assoc,
    List.getElem?_append_right (by omega), List.getElem?_append_left (by rw [List.length_replicate]; omega),
    List.getElem?_replicate] at here
  split at here
  · exact (Option.some.inj here).symm
  · cases here

namespace State

variable {s : State} {a h p : Nat} {f : RestoreFetch}

/-- A log record of a short body leaves a byte that is 0 at a place past the body as it is. -/
theorem logStore_read_zero (s : State) (p : Nat) {l : List Byte} {k : Nat} (line : 48 ≤ k % 64 ∧ k % 64 < 60)
    (zeros_ : ∀ i b, 48 ≤ i ∧ i < 60 → l[i]? = some b → b = 0) (long : l.length = 64) (zero : s.mem.read k = 0) :
    (s.logStore p l).mem.read k = 0 := by
  unfold logStore
  extract_lets x
  split
  · next g _ =>
    rw [dirtied_eq]
    show (s.mem.writeAll (hbmKey g (x % 1024 * 64)) l).read k = 0
    by_cases inside : hbmKey g (x % 1024 * 64) ≤ k ∧ k < hbmKey g (x % 1024 * 64) + l.length
    · obtain ⟨low, high⟩ := inside
      have start : hbmKey g (x % 1024 * 64) % 64 = 0 := by
        unfold hbmKey
        omega
      obtain ⟨i, rfl⟩ := Nat.exists_eq_add_of_le low
      have place : 48 ≤ i ∧ i < 60 := by omega
      have short : i < l.length := by omega
      rw [Memory.read_writeAll _ _ _ short]
      exact zeros_ i _ place (List.getElem?_eq_getElem short)
    · rw [Memory.read_writeAll_ne _ _ (by omega)]
      exact zero
  · exact zero

theorem logPut_read_zero (s : State) (ty st fl step : Nat) {body : List Byte} (short : body.length ≤ 20) {k : Nat}
    (line : 48 ≤ k % 64 ∧ k % 64 < 60) (zero : s.mem.read k = 0) : (s.logPut ty st fl step body).mem.read k = 0 := by
  unfold logPut
  split
  · exact zero
  · split
    · exact zero
    · extract_lets _ _ l _ _ s1 _ s2 _ s3 _
      have one : s1.mem.read k = 0 := by
        unfold s1
        split
        · exact zero
        · refine logStore_read_zero s _ line (fun i b past here => logRecord_getElem?_zero _ _ _ _ _ _ _ _ short past here) ?_ zero
          simp [l, logRecord, slice_length, zeros]
      have two : s2.mem = s1.mem := by
        unfold s2
        split
        · rfl
        · split <;> rfl
      have three : s3.mem.read k = 0 := (congrArg (Memory.read · k) two).trans one
      split
      · rw [raiseEv_eq]
        exact three
      · exact three

/-! ### The end of a restore -/

/-- The answer to a restore request (Table 12-5). -/
def restoreLine (st : Status) (detail reached bad : Nat) : List Byte :=
  leBytes 1 st.code ++ leBytes 1 detail ++ zeros 2 ++ leBytes 4 reached ++ leBytes 4 bad ++ zeros 4

theorem restoreLine_length (st : Status) (detail reached bad : Nat) : (restoreLine st detail reached bad).length = 16 := by
  simp [restoreLine, zeros]

theorem restoreLine_read (m : Memory) (k : Nat) (st : Status) {d : Nat} (small : d < 256) (reached bad : Nat) :
    ((m.writeAll (hostKey k) (restoreLine st d reached bad)).read (hostKey k)).toNat = st.code ∧
      ((m.writeAll (hostKey k) (restoreLine st d reached bad)).read (hostKey (k + 1))).toNat = d := by
  simp only [restoreLine, List.append_assoc]
  exact ⟨read_answer_code .., (read_answer_detail ..).trans (Nat.mod_eq_of_lt small)⟩

theorem restoreLine_answers (k : s.Reached a h 64) (st : Status) {d : Nat} (small : d < 256) (reached bad : Nat) :
    ((s.post (a + 0x30) (restoreLine st d reached bad)).mem.read (hostKey (h + 0x30))).toNat = st.code ∧
      ((s.post (a + 0x30) (restoreLine st d reached bad)).mem.read (hostKey (h + 0x31))).toNat = d := by
  obtain ⟨pl, o, posted⟩ := k.post (off := 0x30) (l := restoreLine st d reached bad) (by rw [restoreLine_length]) (by decide)
  rw [posted]
  exact restoreLine_read s.mem (h + 0x30) st small reached bad

theorem Reached.ne_ownRestoreAddr (k : s.Reached a h 64) : a ≠ ownRestoreAddr := by
  obtain ⟨place, -⟩ := parseAddr_eq_host k.host
  have fits := k.fits
  unfold ownRestoreAddr
  omega

theorem restoreOver_ok (k : s.Reached a h 64) (aligned : a % 64 = 0) (reached ident : Nat) (ptn : Option Nat) :
    (((s.restoreOver a .ok 0 reached 0 ident 0 ptn).mem.read (hostKey (h + 0x30))).toNat = Status.ok.code ∧
      ((s.restoreOver a .ok 0 reached 0 ident 0 ptn).mem.read (hostKey (h + 0x31))).toNat = 0) ∧
    (s.restoreOver a .ok 0 reached 0 ident 0 ptn).ckp.replay = none ∧
    bitAt ((s.restoreOver a .ok 0 reached 0 ident 0 ptn).ev evCkp).value 10 = true ∧
    Restores s (s.restoreOver a .ok 0 reached 0 ident 0 ptn) := by
  obtain ⟨place, -⟩ := parseAddr_eq_host k.host
  unfold restoreOver
  rw [if_neg k.ne_ownRestoreAddr, if_pos rfl]
  have kept : Restores s (s.post (a + 0x30) (restoreLine .ok 0 reached 0)) := .post ..
  have answered := restoreLine_answers k .ok (d := 0) (by decide) reached 0
  rw [restoreLine] at answered kept
  generalize s.post _ _ = u at kept answered ⊢
  extract_lets s2 _ next
  have second : Restores u s2 := (Restores.logPut ..).trans (.raiseEv ..)
  have stays {j : Nat} (line : 48 ≤ j % 64 ∧ j % 64 < 60) (zero : (u.mem.read j).toNat = 0) : (s2.mem.read j).toNat = 0 := by
    have zero : u.mem.read j = 0 := BitVec.eq_of_toNat_eq zero
    unfold s2
    rw [raiseEv_eq]
    exact congrArg BitVec.toNat (logPut_read_zero u _ _ _ _ (by simp) line zero)
  refine ⟨⟨stays ?_ answered.1, stays ?_ answered.2⟩, rfl, raiseEv_sets .., (kept.trans second).trans (.of_same rfl rfl rfl rfl)⟩
  · unfold hostKey
    omega
  · unfold hostKey
    omega

/-- A context barred from what a failed restore left. -/
def barCtx (s : State) (c : Nat) : State := s.setCtx c { s.ctx c with barred := true, state := .saved, wait := .none }

theorem barCtx_spec (cs : List Nat) (s : State) : (∃ ks, cs.foldl barCtx s = { s with contexts := ks }) ∧
    ∀ c, c ∈ cs ∨ ((s.ctx c).barred = true ∧ (s.ctx c).state = .saved) →
      ((cs.foldl barCtx s).ctx c).barred = true ∧ ((cs.foldl barCtx s).ctx c).state = .saved := by
  induction cs generalizing s with
  | nil => exact ⟨⟨s.contexts, rfl⟩, fun c h => h.resolve_left List.not_mem_nil⟩
  | cons d r ih =>
    obtain ⟨⟨ks, frame⟩, bars⟩ := ih (s.barCtx d)
    refine ⟨⟨ks, by rw [List.foldl_cons, frame]; rfl⟩, fun c h => bars c ?_⟩
    by_cases here : c = d
    · rw [here, barCtx, setCtx_ctx]
      exact .inr ⟨rfl, rfl⟩
    · rw [barCtx, setCtx_ctx_ne _ _ here]
      exact h.imp_left fun mem => (List.mem_cons.mp mem).resolve_left here

/-- Contexts of which none runs are barred without being saved. -/
theorem barCtx_of_quiet (l : List (Nat × Context)) (s : State) (quiet : ∀ e ∈ l, (s.ctx e.1).state ≠ .running) :
    l.foldl (fun (s : State) p =>
      let s3 := if (s.ctx p.1).state = .running then ((s.beginSave p.1 4 .saved).finishDrains p.1).saveDone p.1 else s
      s3.setCtx p.1 { s3.ctx p.1 with barred := true, state := .saved, wait := .none }) s = (l.map (·.1)).foldl barCtx s := by
  induction l generalizing s with
  | nil => rfl
  | cons e r ih =>
    rw [List.foldl_cons, List.map_cons, List.foldl_cons]
    dsimp only
    rw [if_neg (quiet e List.mem_cons_self)]
    refine ih (s.barCtx e.1) fun x mem => ?_
    by_cases here : x.1 = e.1
    · rw [here, barCtx, setCtx_ctx]
      nofun
    · rw [barCtx, setCtx_ctx_ne _ _ here]
      exact quiet x (List.mem_cons_of_mem _ mem)

/-- The contexts of a partition that a failed restore bars. -/
def restoreBars (s : State) (p : Nat) : List (Nat × Context) :=
  s.contexts.filter fun e => some e.2.ptn == some p && e.2.state != .free && e.2.state != .teardown

theorem mem_restoreBars {e : Nat × Context} : e ∈ s.restoreBars p ↔
    e ∈ s.contexts ∧ e.2.ptn = p ∧ e.2.state ≠ .free ∧ e.2.state ≠ .teardown := by
  simp [restoreBars, and_assoc]

theorem restoreOver_fail (k : s.Reached a h 64) {st : Status} (failed : st ≠ .ok) {d : Nat} (small : d < 256)
    (quiet : ∀ e ∈ s.restoreBars p, (s.ctx e.1).state ≠ .running) :
    (((s.restoreOver a st d 0 0 0 0 (some p)).mem.read (hostKey (h + 0x30))).toNat = st.code ∧
      ((s.restoreOver a st d 0 0 0 0 (some p)).mem.read (hostKey (h + 0x31))).toNat = d) ∧
    (∀ e ∈ s.restoreBars p, ((s.restoreOver a st d 0 0 0 0 (some p)).ctx e.1).barred = true ∧
      ((s.restoreOver a st d 0 0 0 0 (some p)).ctx e.1).state = .saved) ∧
    (s.restoreOver a st d 0 0 0 0 (some p)).pending = s.pending ∧ (s.restoreOver a st d 0 0 0 0 (some p)).variant = s.variant := by
  have kept : Restores s (s.post (a + 0x30) (restoreLine st d 0 0)) := .post ..
  obtain ⟨m, ls, pl, o, frame⟩ := wrote_post s (a + 0x30) (restoreLine st d 0 0)
  have contexts : (s.post (a + 0x30) (restoreLine st d 0 0)).contexts = s.contexts := (congrArg State.contexts frame :)
  have answered := restoreLine_answers k st small 0 0
  have eq : s.restoreOver a st d 0 0 0 0 (some p) = ((s.restoreBars p).map (·.1)).foldl barCtx
      (({ s.post (a + 0x30) (restoreLine st d 0 0) with
        ckp := { (s.post (a + 0x30) (restoreLine st d 0 0)).ckp with replay := none } } : State)) := by
    rw [restoreLine] at contexts kept ⊢
    unfold restoreOver
    rw [if_neg k.ne_ownRestoreAddr, if_neg failed]
    generalize s.post _ _ = u at kept contexts ⊢
    have same : s.restoreBars p = u.restoreBars p := by rw [restoreBars, restoreBars, contexts]
    rw [same] at quiet ⊢
    refine barCtx_of_quiet _ _ fun e mem running => quiet e mem ?_
    exact (congrArg (·.1) (kept.gist e.1)).symm.trans running
  obtain ⟨⟨ks, bars⟩, saved⟩ := barCtx_spec ((s.restoreBars p).map (·.1))
    { s.post (a + 0x30) (restoreLine st d 0 0) with
      ckp := { (s.post (a + 0x30) (restoreLine st d 0 0)).ckp with replay := none } }
  rw [eq]
  refine ⟨?_, fun e mem => saved e.1 (.inl (List.mem_map_of_mem mem)), ?_, ?_⟩
  · rw [bars]
    exact answered
  · rw [bars]
    exact kept.still.1
  · rw [bars]
    exact kept.still.2

/-- Where a restore may begin, no context of its partition runs. -/
theorem restoreRefusal_quiet {d : List Byte} (ok : s.restoreRefusal d = .ok) (ptn : s.ptnOf (le d 4 4) = some p) :
    ∀ c ∈ s.ckptCtxs p, (s.ctx c).state ≠ .running := by
  intro c mem running
  have clear := clear_of_firstStatus_ok ok (List.mem_cons_of_mem _ (List.mem_cons_of_mem _ (List.mem_cons_of_mem _ List.mem_cons_self)))
    (by decide)
  rw [ptn, Option.any_some] at clear
  simp only [Bool.or_eq_false_iff] at clear
  have each := List.any_eq_false.mp clear.2.2 c mem
  rw [running] at each
  exact each (by decide)

/-! ### What a restore gives back -/

/-- The state record among what a store answered. -/
def fetchedRecord (f : RestoreFetch) : List Byte := (manifestRegion f.manifest 0xFFF0).flatMap fun i => f.shards.getD i []

/-- The regions' pages given back (Table 12-6, step 2). -/
def pagesBack (s : State) (p : Nat) (f : RestoreFetch) : State :=
  (List.range (le f.manifest 0xC 4)).foldl (fun (s : State) i =>
    let e := manifestEntry f.manifest i
    if le e 0 2 < 0xFFF0 then s.storeBytes p (p * 2 ^ 48 + le e 4 4 * 65536) (f.shards.getD i []) else s) s

/-- The context at a place of the state record given back (step 4). -/
def ctxBack (f : RestoreFetch) (s : State) (x : Nat × Nat) : State :=
  let rec_ := fetchedRecord f
  let first := le rec_ (0x200 + 64 * x.2 + 8) 4
  let n := Context.imageNeed (s.ctx x.1).quads (s.ctx x.1).scrCount
  let img := ((List.range (ceilDiv n shardPages)).flatMap fun i => f.shards.getD (first + i) [])
  (s.restoreCtx x.1 img rec_).takeStudent x.1 (le rec_ (0x200 + 64 * x.2) 4)

/-- Rings and tables of the contexts given back (step 2). -/
def tablesBack (s : State) (p : Nat) (f : RestoreFetch) (cs : List Nat) : State :=
  let part := fun (region : Nat) => (manifestRegion f.manifest region).flatMap fun i => f.shards.getD i []
  (s.putSpans p (s.ringSpans cs) (part 0xFFF1)).putSpans p (s.tableSpans cs) (part 0xFFF2)

/-- The log given back (step 3); a live member's pages need none. -/
def logBack (s : State) (p : Nat) (f : RestoreFetch) (mate : Bool) (log : List (List Byte)) : State :=
  let rec_ := fetchedRecord f
  let s3 := if mate then s else s.setCkp { s.ckp with
    lsn := BitVec.ofNat 64 (le rec_ 0x18 8 + log.length), flushed := BitVec.ofNat 64 (le rec_ 0x18 8 + log.length)
    ident := Nat.max s.ckp.ident (le rec_ 4 4) }
  if s3.logRing = 0 then s3 else log.foldl (fun (s : State) l => s.logStore p l) s3

/-- The counters of the contexts checked against their cursors (step 5). -/
def countersBack (s : State) (f : RestoreFetch) (cs : List Nat) : State :=
  cs.zipIdx.foldl (fun (s : State) x => s.realignCtx x.1 (slice (fetchedRecord f) (0x200 + 64 * x.2) 64)) s

/-- The state before a partition's recompute, or its end, from its pages on. -/
def restBack (s : State) (p : Nat) (f : RestoreFetch) (mate : Bool) (log : List (List Byte)) : State :=
  let cs := s.ckptCtxs p
  let s5 := cs.zipIdx.foldl (ctxBack f) ((s.tablesBack p f cs).logBack p f mate log)
  (((s5.replaySched (fetchedRecord f)).replayStreams p (fetchedRecord f)).replayChans p (fetchedRecord f)).countersBack f cs

/-- The state before a partition's recompute, or its end: pages, tables, log, contexts, channels and counters are those of the checkpoint
(Table 12-6, steps 2 to 5). -/
def givenBack (s : State) (p : Nat) (f : RestoreFetch) (mate : Bool) (log : List (List Byte)) : State :=
  ((s.nameStep f.durable (le (fetchedRecord f) 8 4)).pagesBack p f).restBack p f mate log

/-- What a restored context is known by. -/
def takenGist (f : RestoreFetch) : CtxState × Bool × Bool × DWord × Nat :=
  (.saved, true, false, BitVec.ofNat 64 (le (fetchedRecord f) 0x20 8), le (fetchedRecord f) 0xD 1)

theorem restores_takeStudent (s : State) (c old : Nat) : Restores s (s.takeStudent c old) := .of_same rfl rfl rfl rfl

theorem ctxBack_spec (f : RestoreFetch) (s : State) (x : Nat × Nat) :
    (((ctxBack f s x).pending = s.pending ∧ (ctxBack f s x).variant = s.variant) ∧ (ctxBack f s x).linkUp = s.linkUp) ∧
    ((ctxBack f s x).ctx x.1).gist = takenGist f ∧ ∀ c, c ≠ x.1 → ((ctxBack f s x).ctx c).gist = (s.ctx c).gist := by
  unfold ctxBack
  extract_lets rec_ first n img
  obtain ⟨still, link, own, other⟩ := s.restoreCtx_spec x.1 img rec_
  generalize s.restoreCtx x.1 img rec_ = u at still link own other ⊢
  have taken := u.restores_takeStudent x.1 (le rec_ (0x200 + 64 * x.2) 4)
  exact ⟨⟨⟨taken.still.1.trans still.1, taken.still.2.trans still.2⟩, taken.link.trans link⟩, (taken.gist x.1).trans own,
    fun c ne => (taken.gist c).trans (other c ne)⟩

theorem ctxsBack_spec (f : RestoreFetch) (l : List (Nat × Nat)) (s : State) :
    (((l.foldl (ctxBack f) s).pending = s.pending ∧ (l.foldl (ctxBack f) s).variant = s.variant) ∧
      (l.foldl (ctxBack f) s).linkUp = s.linkUp) ∧
    ∀ c, c ∈ l.map (·.1) ∨ (s.ctx c).gist = takenGist f → ((l.foldl (ctxBack f) s).ctx c).gist = takenGist f := by
  induction l generalizing s with
  | nil => exact ⟨⟨⟨rfl, rfl⟩, rfl⟩, fun c h => h.resolve_left List.not_mem_nil⟩
  | cons x r ih =>
    obtain ⟨⟨still, link⟩, own, other⟩ := ctxBack_spec f s x
    rw [List.foldl_cons]
    generalize ctxBack f s x = u at still link own other ⊢
    obtain ⟨⟨later, up⟩, rest⟩ := ih u
    refine ⟨⟨⟨later.1.trans still.1, later.2.trans still.2⟩, up.trans link⟩, fun c h => rest c ?_⟩
    by_cases here : c = x.1
    · rw [here]
      exact .inr own
    · refine h.imp (fun mem => (List.mem_cons.mp mem).resolve_left here) fun already => ?_
      exact (other c here).trans already

/-- Naming the step and giving back the pages leaves the contexts as they are. -/
theorem pagesBack_spec (s : State) (reports : List (Nat × List Nat)) (step p : Nat) (f : RestoreFetch) :
    Restores s ((s.nameStep reports step).pagesBack p f) ∧ ((s.nameStep reports step).pagesBack p f).contexts = s.contexts := by
  have named : (s.nameStep reports step).contexts = s.contexts := by
    unfold nameStep
    dsimp only
    split
    · unfold tell sendAll
      exact List.foldlRecOn (motive := fun t : State => t.contexts = s.contexts) _ _ rfl fun t same m _ => same
    · rfl
  refine ⟨(s.restores_nameStep reports step).trans ?_, ?_⟩
  · unfold pagesBack
    exact .foldl (fun t i => .ite (fun _ => .storeBytes ..) fun _ => .refl t) _ _
  · refine List.foldlRecOn (motive := fun t : State => t.contexts = s.contexts) _ _ named fun t same i _ => ?_
    dsimp only
    split
    · obtain ⟨m, ls, frame⟩ := t.storeBytes_frame p (p * 2 ^ 48 + le (manifestEntry f.manifest i) 4 4 * 65536) (f.shards.getD i [])
      rw [frame]
      exact same
    · exact same

theorem restores_tablesBack (s : State) (p : Nat) (f : RestoreFetch) (cs : List Nat) : Restores s (s.tablesBack p f cs) :=
  (restores_putSpans ..).trans (restores_putSpans ..)

theorem restores_logBack (s : State) (p : Nat) (f : RestoreFetch) (mate : Bool) (log : List (List Byte)) :
    Restores s (s.logBack p f mate log) := by
  unfold logBack
  extract_lets rec_ _ s3
  have one : Restores s s3 := .ite (fun _ => .refl s) fun _ => .setCkp ..
  exact .ite (fun _ => one) fun _ => one.trans (.foldl (fun _ _ => .logStore ..) _ s3)

theorem restores_countersBack (s : State) (f : RestoreFetch) (cs : List Nat) : Restores s (s.countersBack f cs) :=
  .foldl (fun _ _ => restores_realignCtx ..) _ s

theorem givenBack_spec (s : State) (p : Nat) (f : RestoreFetch) (mate : Bool) (log : List (List Byte)) :
    (((s.givenBack p f mate log).pending = s.pending ∧ (s.givenBack p f mate log).variant = s.variant) ∧
      (s.givenBack p f mate log).linkUp = s.linkUp) ∧
    ∀ c ∈ s.ckptCtxs p, ((s.givenBack p f mate log).ctx c).gist = takenGist f := by
  obtain ⟨one, contexts⟩ := s.pagesBack_spec f.durable (le (fetchedRecord f) 8 4) p f
  unfold givenBack
  generalize (s.nameStep f.durable (le (fetchedRecord f) 8 4)).pagesBack p f = s1 at one contexts ⊢
  have same : s.ckptCtxs p = s1.ckptCtxs p := by
    unfold ckptCtxs
    rw [contexts]
  unfold restBack
  extract_lets cs s5
  have before := (one.trans (restores_tablesBack s1 p f cs)).trans (restores_logBack _ p f mate log)
  obtain ⟨⟨still, link⟩, taken⟩ := ctxsBack_spec f cs.zipIdx ((s1.tablesBack p f cs).logBack p f mate log)
  have after := ((((restores_replaySched s5 (fetchedRecord f)).trans (restores_replayStreams _ p (fetchedRecord f))).trans
    (restores_replayChans _ p (fetchedRecord f))).trans (restores_countersBack _ f cs))
  refine ⟨⟨⟨after.still.1.trans (still.1.trans before.still.1), after.still.2.trans (still.2.trans before.still.2)⟩,
    after.link.trans (link.trans before.link)⟩, fun c mem => (after.gist c).trans (taken c (.inl ?_))⟩
  rw [List.zipIdx_map_fst]
  rw [show cs = s.ckptCtxs p from same.symm]
  exact mem

section

variable {d : List Byte}

theorem restoreOf_refused (refused : s.restoreRefusal d ≠ .ok) (own : a ≠ ownRestoreAddr) :
    s.restoreOf a d f = s.post (a + 0x30) (leBytes 1 (s.restoreRefusal d).code ++ zeros 15) := by
  unfold restoreOf
  dsimp only
  rw [if_pos refused, if_neg own]

theorem restoreOf_unsigned (ok : s.restoreRefusal d = .ok) (ptn : s.ptnOf (le d 4 4) = some p)
    (unsigned : manifestSigned f.manifest (s.manifestKey f.manifest) = false) :
    s.restoreOf a d f = (s.undefineRegions p).restoreOver a .digestMismatch 1 0 0 0 0 (some p) := by
  unfold restoreOf
  dsimp only
  rw [if_neg (not_not.mpr ok), if_pos (.inl unsigned), ptn, Option.getD_some]

/-- The step that a recompute goes to: the last that the log ends. -/
def lastEnd (log : List (List Byte)) : Option Nat := (log.filter fun l => le l 0 1 == 2).getLast?.map fun l => le l 0x10 4

/-- Where everything verifies, the restore gives back the partition's state and ends, or recomputes. -/
structure Verified (s : State) (d : List Byte) (f : RestoreFetch) (p : Nat) (mate : Bool) (log : List (List Byte)) : Prop where
  ok : s.restoreRefusal d = .ok
  ptn : s.ptnOf (le d 4 4) = some p
  signed : manifestSigned f.manifest (s.manifestKey f.manifest) = true
  latest : le d 0xC 4 = 0
  shards : ((List.range (le f.manifest 0xC 4)).all fun i => sha384 (f.shards.getD i []) == slice (manifestEntry f.manifest i) 0x10 48) = true
  step : s.offStep f.durable (le (fetchedRecord f) 8 4) = false
  mated : (f.mate && s.net.state != .solo) = mate
  log : (if mate then some [] else wholeLog f.log (le (fetchedRecord f) 0x18 8)) = some log

variable {mate : Bool} {log : List (List Byte)}

theorem Verified.shards_any (v : s.Verified d f p mate log) :
    ((List.range (le f.manifest 0xC 4)).any fun i => sha384 (f.shards.getD i []) != slice (manifestEntry f.manifest i) 0x10 48) = false := by
  rw [List.any_eq_false]
  intro i mem
  have same := List.all_eq_true.mp v.shards i mem
  simpa using same

/-- Where a restore goes to: the last step that the log ends, or the step asked for. -/
def goalOf (d : List Byte) (log : List (List Byte)) : Option Nat :=
  match lastEnd log with
  | some n => if le d 0x10 4 = 0 then some n else some (Nat.min n (le d 0x10 4))
  | none => none

/-- The end of a restore that gave back the partition's state, or the start of its recompute. -/
def restoreGoes (t : State) (a : Nat) (d : List Byte) (f : RestoreFetch) (p : Nat) (log : List (List Byte)) : State :=
  match goalOf d log with
  | some n =>
    if le d 0x14 4 = 1 ∨ n < le (fetchedRecord f) 8 4 then t.restoreOver a .ok 0 (le (fetchedRecord f) 8 4) 0 (le f.manifest 4 4) 0 (some p)
    else t.setCkp { t.ckp with replay := some { addr := a, ident := le f.manifest 4 4, log := log, target := n, steps := 0 } }
  | none => t.restoreOver a .ok 0 (le (fetchedRecord f) 8 4) 0 (le f.manifest 4 4) 0 (some p)

theorem Verified.restoreOf_eq (v : s.Verified d f p mate log) :
    s.restoreOf a d f = restoreGoes (s.givenBack p f mate log) a d f p log := by
  unfold restoreOf
  extract_lets st q mate_ m fail part rec_ s1 cs s2 _ step
  have q_eq : q = p := by
    unfold q
    rw [v.ptn, Option.getD_some]
  have log_eq : (if mate_ = true then some [] else wholeLog f.log (le rec_ 0x18 8)) = some log := by
    unfold mate_
    rw [v.mated]
    exact v.log
  rw [if_neg (not_not.mpr v.ok), if_neg (by simp [m, v.signed, v.latest]), if_neg (by rw [v.shards_any]; decide),
    if_neg (by rw [show s.offStep f.durable (le rec_ 8 4) = false from v.step]; decide), log_eq]
  dsimp -zeta only
  extract_lets s3 s4 s5 s6 s7 last goal
  have pages : s1 = (s.nameStep f.durable (le rec_ 8 4)).pagesBack q f := rfl
  have tables : s2 = s1.tablesBack q f cs := rfl
  have logs : s4 = s2.logBack q f mate_ log := rfl
  have ctxs : s5 = cs.zipIdx.foldl (ctxBack f) s4 := rfl
  have counters : s7 = s6.countersBack f cs := rfl
  have back : s7 = s.givenBack q f mate_ log := by
    rw [counters, show s6 = ((s5.replaySched rec_).replayStreams q rec_).replayChans q rec_ from rfl, ctxs, logs, tables, pages]
    rfl
  rw [q_eq, show mate_ = mate from v.mated] at back
  have goal_eq : goal = goalOf d log := rfl
  clear_value s7
  subst back
  rw [q_eq, goal_eq, restoreGoes]
  cases goalOf d log with
  | none => rfl
  | some n => rfl

theorem Verified.ends (v : s.Verified d f p mate log) (over_ : le d 0x14 4 = 1 ∨ lastEnd log = none) :
    s.restoreOf a d f = (s.givenBack p f mate log).restoreOver a .ok 0 (le (fetchedRecord f) 8 4) 0 (le f.manifest 4 4) 0 (some p) := by
  rw [v.restoreOf_eq, restoreGoes]
  rcases over_ with once | none_
  · split
    · exact if_pos (.inl once)
    · rfl
  · rw [goalOf, none_]

theorem Verified.recomputes (v : s.Verified d f p mate log) (again : le d 0x14 4 = 0) (whole : le d 0x10 4 = 0) {n : Nat}
    (last : lastEnd log = some n) (later : le (fetchedRecord f) 8 4 ≤ n) :
    s.restoreOf a d f = (s.givenBack p f mate log).setCkp { (s.givenBack p f mate log).ckp with
      replay := some { addr := a, ident := le f.manifest 4 4, log := log, target := n, steps := 0 } } := by
  have goal : goalOf d log = some n := by
    rw [goalOf, last]
    exact if_pos whole
  rw [v.restoreOf_eq, restoreGoes, goal]
  exact if_neg (by omega)

end

/-- The command, as far as its answer goes: a request that stands at a host address. -/
theorem restore_eq (aligned : a % 64 = 0) (readable : s.requestOk a 64 = true) :
    s.restore a f = (if s.restoreRefusal (s.fwRead a 64) = .ok then s.setCkp { s.ckp with restoreDue := false } else s).restoreOf a
      (s.fwRead a 64) f := if_pos ⟨aligned, readable⟩

/-- What a restore that ends with OK answers and leaves. -/
theorem restored_ok (k : s.Reached a h 64) (aligned : a % 64 = 0) (mate : Bool) (log : List (List Byte)) {t : State}
    (eq : t = (s.givenBack p f mate log).restoreOver a .ok 0 (le (fetchedRecord f) 8 4) 0 (le f.manifest 4 4) 0 (some p)) :
    ((t.mem.read (hostKey (h + 0x30))).toNat = Status.ok.code ∧ (t.mem.read (hostKey (h + 0x31))).toNat = 0) ∧
    (∀ c ∈ s.ckptCtxs p, (t.ctx c).gist = takenGist f) ∧ t.ckp.replay = none ∧ bitAt (t.ev evCkp).value 10 = true ∧
    t.pending = s.pending ∧ t.variant = s.variant := by
  obtain ⟨⟨still, link⟩, taken⟩ := s.givenBack_spec p f mate log
  obtain ⟨answered, replay, told, over_⟩ := restoreOver_ok (k.of_linkUp link) aligned (le (fetchedRecord f) 8 4) (le f.manifest 4 4) (some p)
  rw [← eq] at answered replay told over_
  exact ⟨answered, fun c mem => (over_.gist c).trans (taken c mem), replay, told, over_.still.1.trans still.1, over_.still.2.trans still.2⟩

/-- A restore whose manifest does not verify ends with DIGEST_MISMATCH, and bars the contexts of its partition. -/
theorem restore_unsigned (k : s.Reached a h 64) (aligned : a % 64 = 0) (readable : s.requestOk a 64 = true)
    (ok : s.restoreRefusal (s.fwRead a 64) = .ok) (ptn : s.ptnOf (le (s.fwRead a 64) 4 4) = some p)
    (unsigned : manifestSigned f.manifest (s.manifestKey f.manifest) = false) {t : State} (same : s.restore a f = t) :
    ((t.mem.read (hostKey (h + 0x30))).toNat = Status.digestMismatch.code ∧ (t.mem.read (hostKey (h + 0x31))).toNat = 1) ∧
    (∀ e ∈ s.restoreBars p, (t.ctx e.1).barred = true ∧ (t.ctx e.1).state = .saved) ∧ t.pending = s.pending ∧ t.variant = s.variant := by
  let u := (s.setCkp { s.ckp with restoreDue := false }).undefineRegions p
  have eq : t = u.restoreOver a .digestMismatch 1 0 0 0 0 (some p) := by
    rw [← same, restore_eq aligned readable, if_pos ok]
    exact restoreOf_unsigned ok ptn unsigned
  have quiet : ∀ e ∈ u.restoreBars p, (u.ctx e.1).state ≠ .running := by
    intro e mem
    obtain ⟨listed, own, some_, -⟩ := mem_restoreBars.mp mem
    refine restoreRefusal_quiet ok ptn e.1 (List.mem_map.mpr ⟨e, List.mem_filter.mpr ⟨listed, ?_⟩, rfl⟩)
    simp [own, some_]
  have ends := restoreOver_fail (k.of_linkUp rfl : u.Reached a h 64) (by decide : Status.digestMismatch ≠ .ok) (by decide : 1 < 256) quiet
  rw [← eq] at ends
  exact ends

theorem gist_eq {k : Context} (taken : k.gist = takenGist f) : k.state = .saved ∧ k.hasImage = true ∧ k.barred = false ∧
    k.seed = BitVec.ofNat 64 (le (fetchedRecord f) 0x20 8) ∧ k.lrH = le (fetchedRecord f) 0xD 1 := by
  simpa [Context.gist, takenGist, Prod.ext_iff] using taken

end State

namespace State

/-- A candidate that refuses over an equal feed: the next is tried. -/
theorem helloMirror_next {s : State} {feed handle : Nat} {l : List Byte} {tries : State → Nat → Prop} (live : s.flt.fatal = false)
    (waits : s.ckp.mirror = .handshake) (up : s.isOpen 76 = true) (next : s.ckp.candidates[s.ckp.candidate + 1]? = some l)
    (sent : ∀ {t u : State} {i : Nat} {h : MirrorHelloMsg}, t = u.sendNet (.mirrorHello i h) →
      u.ckp.mirror = .handshake ∧ u.ckp.candidate = i ∧ u.ckp.session = 0 → h.protocol = 1 ∧ h.feed = s.boot.feed → tries t i) :
    ∃ t, exec (.mirrorHelloAnswer Status.mirrorSameFeed.code feed handle) s = .next t ∧ tries t (s.ckp.candidate + 1) ∧
      t.ckp.lastStatus = .mirrorSameFeed ∧ bitAt (t.ev evCkp).value 5 = true := by
  have told : bitAt (((s.setCkp { s.ckp with lastStatus := .mirrorSameFeed }).raiseEv evCkp 5).ev evCkp).value 5 = true := raiseEv_sets ..
  have frame := (s.setCkp { s.ckp with lastStatus := .mirrorSameFeed }).raiseEv_eq evCkp 5
  have eq := helloMirror_sameFeed (feed := feed) (handle := handle) waits
  generalize (s.setCkp { s.ckp with lastStatus := .mirrorSameFeed }).raiseEv evCkp 5 = u at told frame eq
  have ckp : u.ckp = { s.ckp with lastStatus := .mirrorSameFeed } := (congrArg State.ckp frame :)
  have open_ : u.isOpen 76 = true := by
    rw [frame]
    exact up
  obtain ⟨h, qs, tried, said, -, -⟩ := tryCandidate_spec (s := u) (i := s.ckp.candidate + 1) (l := l) (by rw [ckp]; exact next) open_
  have feed_ : h.protocol = 1 ∧ h.feed = s.boot.feed := ⟨said.1, said.2.trans (congrArg (·.boot.feed) frame :)⟩
  refine ⟨_, act_eq_next (f := fun s => s.helloMirror Status.mirrorSameFeed.code feed handle) live (eq.trans tried)
    (congrArg State.pending frame :) (congrArg State.variant frame :), sent rfl ⟨rfl, rfl, rfl⟩ feed_, ?_, told⟩
  show u.ckp.lastStatus = _
  rw [ckp]

end State

open State in
/-- Settles O60: the source's and the partner's ends of a session, and a restore up to its recompute. -/
theorem mirrorsAndRestoresWork : Obligations.MirrorsAndRestoresWork := by
  unfold Obligations.MirrorsAndRestoresWork
  intro s live tries
  have sent {t : State} {u : State} {i : Nat} {h : MirrorHelloMsg} (eq : t = u.sendNet (.mirrorHello i h))
      (ckp : u.ckp.mirror = .handshake ∧ u.ckp.candidate = i ∧ u.ckp.session = 0) (said : h.protocol = 1 ∧ h.feed = s.boot.feed) : tries t i := by
    rw [eq]
    refine ⟨ckp.1, ckp.2.1, ckp.2.2, ?_⟩
    simp [sendNet, said]
  refine ⟨fun closed up l r list => ⟨?_, fun retry lost => ?_⟩, fun quiet => ?_, fun feed handle waits => ⟨?_, ?_, fun up => ⟨?_, ?_⟩⟩,
    fun session none_ => ?_, fun closed => ?_, fun up => ⟨fun h => ⟨?_, ?_⟩, fun v k x served => ⟨fun i data digest => ⟨?_, ?_⟩, fun l => ⟨?_, ?_⟩,
      fun l => ⟨?_, ?_⟩⟩⟩, fun a f none_ due => ?_, fun a h f link aligned host readable => ?_⟩
  · obtain ⟨h, qs, eq, said, own, other⟩ := tryCandidate_spec (s := s.setCkp { s.ckp with retry := true }) (i := 0) (l := l)
      (by show s.ckp.candidates[0]? = _; rw [list]; rfl) up
    have opened : s.reopenSession = (s.setCkp { s.ckp with retry := true }).tryCandidate 0 := by
      rw [reopenSession, closed, if_neg (by decide), startMirror]
    exact ⟨_, act_eq_next (f := fun s => s.reopenSession) live (opened.trans eq) rfl rfl, sent rfl ⟨rfl, rfl, rfl⟩ said, rfl, own, other, rfl⟩
  · obtain ⟨h, qs, eq, said, -, -⟩ := tryCandidate_spec (s := s.setCkp { s.ckp with retry := true }) (i := 0) (l := l)
      (by show s.ckp.candidates[0]? = _; rw [list]; rfl) up
    have tried : s.mirrorRetry = (s.setCkp { s.ckp with retry := true }).tryCandidate 0 := by
      rw [mirrorRetry, if_pos ⟨retry, lost⟩, startMirror]
    refine ⟨_, act_eq_next (f := fun s => s.mirrorRetry) live (tried.trans eq) rfl rfl, sent rfl ⟨rfl, rfl, rfl⟩ said, ?_⟩
    rw [← retry]
    rfl
  · exact ⟨s, act_eq_next (f := fun s => s.mirrorRetry) live (if_neg (by simp [quiet])) rfl rfl, rfl⟩
  · intro other
    obtain ⟨net, held, fl, eq⟩ := helloMirror_active (handle := handle) waits other
    refine ⟨_, act_eq_next (f := fun s => s.helloMirror 0 feed handle) live eq rfl rfl, rfl, rfl, rfl, fun ptn => ?_, rfl⟩
    show (s.ckp.requested || s.ckpPtn.isSome) = true
    rw [Option.isSome_iff_ne_none.mpr ptn, Bool.or_true]
  · rintro rfl
    obtain ⟨mirror, session, told, p, v⟩ := helloMirror_correlated (handle := handle) waits
    exact ⟨_, act_eq_next (f := fun s => s.helloMirror 0 s.boot.feed handle) live rfl p v, mirror, session, told⟩
  · intro l next
    exact helloMirror_next live waits up next sent
  · intro last
    have none_ : s.ckp.candidates[s.ckp.candidate + 1]? = none := List.getElem?_eq_none_iff.mpr last
    have eq : s.helloMirror Status.refusedCapacity.code feed handle =
        s.setCkp { s.ckp with mirror := .none, session := 0, lastStatus := .refusedCapacity } := by
      rw [helloMirror_refused waits, tryCandidate, show (s.setCkp { s.ckp with lastStatus := .refusedCapacity }).ckp.candidates[s.ckp.candidate + 1]? = none from none_]
      rfl
    exact ⟨_, act_eq_next (f := fun s => s.helloMirror Status.refusedCapacity.code feed handle) live eq rfl rfl, rfl, rfl, rfl⟩
  · obtain ⟨told, handle, mirror, -, flushed, over_, p, v⟩ := sessionLost_spec session none_
    exact ⟨_, act_eq_next (f := fun s => s.sessionLost) live rfl p v, told, mirror, handle, flushed, over_⟩
  · exact ⟨s, act_eq_next (f := fun s => s.sessionLost) live (if_neg (by simp [closed])) rfl rfl, rfl⟩
  · intro other
    exact ⟨_, act_eq_next (f := fun s => s.mirrorHello h) live (mirrorHello_version up other) rfl rfl, rfl⟩
  · intro i hs p a version least good feed handle store place
    obtain ⟨b, m, eq⟩ := mirrorHello_ok up version least good feed handle store place
    refine ⟨_, act_eq_next (f := fun s => s.mirrorHello h) live eq rfl rfl, ?_, fun j ne => ?_, rfl, rfl⟩
    · show (tget (tput s.ckp.served i (helloSession h a)) i).any _ = true
      rw [tget_tput_same]
      simp [helloSession]
    · exact tget_tput_ne _ _ ne
  · intro right
    exact ⟨_, act_eq_next (f := fun s => s.shardArrives v i data digest) live (shardArrives_kept served up right) rfl rfl, rfl,
      tget_tput_same .., rfl⟩
  · intro wrong
    exact ⟨_, act_eq_next (f := fun s => s.shardArrives v i data digest) live (shardArrives_refused served up wrong) rfl rfl, rfl⟩
  · intro unsigned
    exact ⟨s, act_eq_next (f := fun s => s.manifestArrives v l) live (manifestArrives_unsigned served unsigned) rfl rfl, rfl⟩
  · intro signed plain same
    obtain ⟨y, eq, sealed_⟩ := manifestArrives_sealed served up signed plain same
    refine ⟨_, act_eq_next (f := fun s => s.manifestArrives v l) live eq rfl rfl, rfl, ?_, rfl⟩
    show (tget (tput s.ckp.served k y) k).any _ = true
    rw [tget_tput_same]
    exact sealed_
  · intro long right
    exact ⟨_, act_eq_next (f := fun s => s.logArrives v l) live (logArrives_kept served up long right) rfl rfl, rfl, tget_tput_same .., rfl⟩
  · intro wrong
    exact ⟨s, act_eq_next (f := fun s => s.logArrives v l) live (logArrives_wrong served wrong) rfl rfl, rfl⟩
  · have eq : s.restore a f = s := by
      refine (if_neg fun both => ?_).trans (if_neg fun both => ?_)
      · rcases none_ with odd | unreadable
        · exact odd both.1
        · simp [both.2] at unreadable
      · rcases due with idle | refused
        · simp [both.1] at idle
        · exact refused both.2
    exact ⟨s, act_eq_next (f := fun s => s.restore a f) live eq rfl rfl, rfl⟩
  · have k : s.Reached a h 64 := reached_of_requestOk host link readable
    intro d result
    have begins (ok : s.restoreRefusal d = .ok) : s.restore a f = (s.setCkp { s.ckp with restoreDue := false }).restoreOf a d f := by
      rw [restore_eq aligned readable, if_pos ok]
    refine ⟨fun refused => ?_, fun p ok ptn => ⟨fun unsigned => ?_, fun signed latest shards => ?_⟩⟩
    · have eq : s.restore a f = s.post (a + 0x30) (leBytes 1 (s.restoreRefusal d).code ++ zeros 15) := by
        rw [restore_eq aligned readable, if_neg refused, restoreOf_refused refused k.ne_ownRestoreAddr]
      obtain ⟨pl, o, posted⟩ := k.post (off := 0x30) (l := leBytes 1 (s.restoreRefusal d).code ++ (leBytes 1 0 ++ zeros 14)) (by simp [zeros]) (by decide)
      exact ⟨_, act_eq_next (f := fun s => s.restore a f) live (eq.trans posted) rfl rfl,
        ⟨read_answer_code .., read_answer_detail ..⟩, rfl⟩
    · obtain ⟨result_, bars, p_, v_⟩ := restore_unsigned k aligned readable ok ptn unsigned rfl
      exact ⟨_, act_eq_next (f := fun s => s.restore a f) live rfl p_ v_, result_,
        fun e mem own some_ standing => bars e (mem_restoreBars.mpr ⟨mem, own, some_, standing⟩)⟩
    · intro state step taken
      let u := s.setCkp { s.ckp with restoreDue := false }
      have all_ {t : State} (each : ∀ c ∈ u.ckptCtxs p, (t.ctx c).gist = takenGist f) : taken t := fun c mem => gist_eq (each c mem)
      have verified {mate : Bool} {log : List (List Byte)} (mated : (f.mate && s.net.state != .solo) = mate)
          (whole : (if mate then some [] else wholeLog f.log (le state 0x18 8)) = some log) : u.Verified d f p mate log :=
        ⟨ok, ptn, signed, latest, shards, step, mated, whole⟩
      refine ⟨fun mate grouped => ?_, fun log own whole => ?_⟩
      · have v := verified (mate := true) (log := []) (by simp [mate, grouped]) rfl
        obtain ⟨answered, each, replay, told, p_, v_⟩ := restored_ok (k.of_linkUp rfl : u.Reached a h 64) aligned true []
          (begins ok |>.trans (v.ends (.inr rfl)))
        exact ⟨_, act_eq_next (f := fun s => s.restore a f) live rfl p_ v_, answered, all_ each, replay, told⟩
      · have v := verified (mate := false) (log := log) (by simp [own]) whole
        intro last
        refine ⟨fun once => ?_, fun n again whole_ ends later => ?_⟩
        · obtain ⟨answered, each, replay, told, p_, v_⟩ := restored_ok (k.of_linkUp rfl : u.Reached a h 64) aligned false log
            (begins ok |>.trans (v.ends (.inl once)))
          exact ⟨_, act_eq_next (f := fun s => s.restore a f) live rfl p_ v_, answered, all_ each, replay, told⟩
        · obtain ⟨⟨still, -⟩, each⟩ := u.givenBack_spec p f false log
          have eq := (begins ok).trans (v.recomputes again whole_ ends later)
          generalize u.givenBack p f false log = w at still each eq
          exact ⟨_, act_eq_next (f := fun s => s.restore a f) live eq still.1 still.2, all_ each, rfl⟩

end Sys2Proof.Machine
end

section
/-! SUPPORT. Layout batches: their answers, their acceptance and their application (R234 to R237, R249). -/

set_option Elab.async false

namespace Sys2Proof.Machine

namespace State

variable {s t u : State} {a h n : Nat}

/-! ### Answers -/

/-- Answers written to host memory over a link that stays as it is. -/
structure Noted (s t : State) : Prop where
  frame : ∃ m p o, t = { s with mem := m, plk := p, out := o }
  link : t.linkUp = s.linkUp

theorem Noted.refl (s : State) : Noted s s := ⟨⟨s.mem, s.plk, s.out, rfl⟩, rfl⟩

theorem Noted.trans (one : Noted s t) (two : Noted t u) : Noted s u := by
  refine ⟨?_, two.link.trans one.link⟩
  obtain ⟨_, _, _, rfl⟩ := one.frame
  obtain ⟨_, _, _, rfl⟩ := two.frame
  exact ⟨_, _, _, rfl⟩

theorem noted_post (k : s.Reached a h n) {off : Nat} {l : List Byte} (fit : off + l.length ≤ n) (pos : off < n) :
    Noted s (s.post (a + off) l) := by
  obtain ⟨p, o, posted⟩ := k.post fit pos
  refine ⟨?_, s.post_linkUp ..⟩
  rw [posted]
  exact ⟨_, _, _, rfl⟩

theorem noted_ptnAnswer (k : s.Reached a h (64 + 256 * n)) {i : Nat} (listed : i < n) (st : Status) (detail handle quads moved copied : Nat) :
    Noted s (s.ptnAnswer a i st detail handle quads moved copied) := by
  unfold ptnAnswer
  rw [show a + 0x40 + 256 * i + 0xE0 = a + (0x40 + 256 * i + 0xE0) by omega]
  refine noted_post k ?_ (by omega)
  simp only [List.length_append, leBytes_length, zeros, List.length_replicate]
  omega

theorem noted_foldl {α : Type} {f : State → α → State} {l : List α}
    (step : ∀ t x, x ∈ l → t.Reached a h n → Noted t (f t x)) (k : s.Reached a h n) : Noted s (l.foldl f s) :=
  List.foldlRecOn (motive := Noted s) l f (.refl s) fun t ht x mem => ht.trans (step t x mem (k.of_linkUp ht.link))

/-- The header's results and the event: what the request reads, and that nothing else changes. -/
theorem headAnswer_spec (k : s.Reached a h n) (long : 16 ≤ n) (st : Status) (detail bad us e : Nat) {t : State}
    (eq : t = (s.headAnswer a st detail bad us).raiseEv evPtn e) :
    (t.mem.read (hostKey (h + 8))).toNat = st.code ∧ bitAt (t.ev evPtn).value e = true ∧
      t = { s with mem := t.mem, events := t.events, plk := t.plk, out := t.out } := by
  obtain ⟨p, o, posted⟩ := k.post (off := 8) (l := leBytes 1 st.code ++ (leBytes 1 detail ++ (leBytes 1 bad ++ (zeros 1 ++ leBytes 4 us))))
    (by simp [zeros]; omega) (by omega)
  have head : s.headAnswer a st detail bad us = s.post (a + 8) (leBytes 1 st.code ++ (leBytes 1 detail ++ (leBytes 1 bad ++ (zeros 1 ++ leBytes 4 us)))) := by
    simp only [headAnswer, List.append_assoc]
  rw [eq]
  refine ⟨?_, raiseEv_sets .., ?_⟩
  · rw [raiseEv_eq, head, posted]
    exact read_answer_code ..
  · rw [raiseEv_eq, head, posted]

/-! ### Refusals -/

/-- A batch that is refused: every descriptor has an answer, and the header the status of the whole. -/
theorem refuseBatch_spec (k : s.Reached a h (64 + 256 * n)) {rs : List (Option (Status × Nat))} (ds : List PtnDesc) (short : rs.length ≤ n)
    {st : Status} {d : Nat} (why : ptnRefusal (rs.filterMap fun r => r.map fun x => (true, x.1, x.2)) = some (st, d)) {t : State}
    (eq : t = s.refuseBatch a rs ds) :
    (t.mem.read (hostKey (h + 8))).toNat = st.code ∧ bitAt (t.ev evPtn).value 1 = true ∧
      t = { s with mem := t.mem, events := t.events, plk := t.plk, out := t.out } := by
  unfold refuseBatch at eq
  rw [why] at eq
  dsimp only at eq
  generalize noted : List.foldl _ s rs.zipIdx = v at eq
  have notes : Noted s v := by
    rw [← noted]
    refine noted_foldl (fun t x mem kt => ?_) k
    have listed : x.2 < n := by
      have at_ := (List.getElem?_eq_some_iff.mp (List.mk_mem_zipIdx_iff_getElem?.mp (show (x.1, x.2) ∈ rs.zipIdx from mem))).1
      omega
    split
    · exact noted_ptnAnswer kt listed ..
    · exact noted_ptnAnswer kt listed ..
  obtain ⟨code, told, frame⟩ := headAnswer_spec (k.of_linkUp notes.link) (by omega) _ _ _ _ _ eq
  obtain ⟨m, p, o, rfl⟩ := notes.frame
  exact ⟨code, told, frame⟩

theorem any_isSome_of_refusal {rs : List (Option (Status × Nat))} {x : Status × Nat}
    (why : ptnRefusal (rs.filterMap fun r => r.map fun x => (true, x.1, x.2)) = some x) : rs.any (·.isSome) = true := by
  by_contra none_
  have empty : (rs.filterMap fun r => r.map fun x => (true, x.1, x.2)) = [] := by
    rw [List.filterMap_eq_nil_iff]
    intro r mem
    have off := List.any_eq_false.mp (Bool.not_eq_true _ ▸ none_) r mem
    rw [Option.not_isSome_iff_eq_none.mp off]
    rfl
  rw [empty] at why
  cases why

/-! ### Acceptance -/

/-- The parts of the state that a layout batch changes only as it is applied. -/
def layoutParts (s : State) : Option Batch × Tab Partition × HandleTable × Tab HotEntry × Tab Nat × List Instr × Variant :=
  (s.batch, s.ptns, s.ptnHandles, s.hotset, s.attrs, s.pending, s.variant)

theorem layoutParts_of_rewinds (h : Rewinds s t) : t.layoutParts = s.layoutParts := by
  obtain ⟨⟨_, _, _, _, _, _, _, _, _, _, _, _, _, _, rfl⟩, -⟩ := h
  rfl

theorem layoutParts_of_ramps (h : t.Ramps s) : t.layoutParts = s.layoutParts := by
  obtain ⟨_, _, _, _, _, _, _, _, _, _, rfl⟩ := h
  rfl

theorem rewinds_putRecord (s : State) (c q : Nat) (l : List Byte) : Rewinds s (s.putRecord c q l) := by
  unfold putRecord
  extract_lets x s1
  split
  · exact .refl s
  · exact Rewinds.trans (.of_closes (.of_wrote (wrote_post ..))) (.setCtx ..)

theorem rewinds_beginSave (s : State) (c reason : Nat) (after : AfterSave) : Rewinds s (s.beginSave c reason after) := by
  unfold beginSave
  extract_lets k s1 s2 k2
  have one : Rewinds s s1 := by
    unfold s1
    split
    · exact .refl s
    · unfold preemptRecords
      refine .foldl (fun t q => ?_) _ s
      dsimp only
      split
      · exact .refl t
      · exact rewinds_putRecord ..
  have two : Rewinds s1 s2 := by
    unfold s2 lossRestart studentLeaves
    exact Rewinds.trans (.foldl (fun t i => .of_closes (closes_modChan ..)) _ s1) (.foldl (fun t q => .setCtx ..) _ _)
  split
  · exact (one.trans two).trans (.setCtx ..)
  · exact .refl s

theorem rewinds_batchSaves (s : State) (b : Batch) : Rewinds s (s.batchSaves b) := by
  unfold batchSaves
  refine .foldl (fun t p => ?_) _ s
  dsimp only
  split
  · exact .setCtx ..
  · split
    · exact .refl t
    · split
      · unfold park
        dsimp only
        split
        · exact (rewinds_beginSave ..).trans (.setCtx ..)
        · exact .refl t
      · exact rewinds_beginSave ..

theorem batchPower_layoutParts (s : State) (items : List BatchItem) : (s.batchPower items).layoutParts = s.layoutParts := by
  have switched (t : State) (d : Nat) : (t.switchOn d).layoutParts = t.layoutParts :=
    List.foldlRecOn (motive := fun u : State => u.layoutParts = t.layoutParts) _ _ rfl fun u hu e _ =>
      (layoutParts_of_ramps (u.powerStart_ramps e).1).trans hu
  refine List.foldlRecOn (motive := fun u : State => u.layoutParts = s.layoutParts) _ _ rfl fun u hu d _ => ?_
  split
  · exact (switched u d).trans hu
  · exact hu

/-- The descriptors that a plan takes, each once. -/
theorem planOne_index (s : State) (pl : Plan) (i : Nat) (d : PtnDesc) :
    (s.planOne pl i d).index = pl.index ∨ ∃ p, (s.planOne pl i d).index = pl.index ++ [(i, p)] := by
  unfold planOne
  split
  · split
    · split
      · exact .inr ⟨_, rfl⟩
      · exact .inl rfl
    · exact .inl rfl
  · split
    · split
      · split
        · exact .inr ⟨_, rfl⟩
        · exact .inl rfl
      · exact .inl rfl
    · exact .inl rfl
  · split
    · exact .inr ⟨_, rfl⟩
    · exact .inl rfl
    · exact .inl rfl

theorem planFold_index (s : State) (l : List (PtnDesc × Nat)) (pl : Plan) :
    ∃ r, (l.foldl (fun pl p => s.planOne pl p.2 p.1) pl).index.map (·.1) = pl.index.map (·.1) ++ r ∧ r.Sublist (l.map (·.2)) := by
  induction l generalizing pl with
  | nil => exact ⟨[], (List.append_nil _).symm, List.Sublist.slnil⟩
  | cons x r ih =>
    obtain ⟨later, index, sub⟩ := ih (s.planOne pl x.2 x.1)
    rw [List.foldl_cons, index]
    rcases s.planOne_index pl x.2 x.1 with same | ⟨p, more⟩
    · exact ⟨later, by rw [same], sub.trans (List.sublist_cons_self ..)⟩
    · exact ⟨x.2 :: later, by rw [more]; simp, sub.cons_cons _⟩

/-- The descriptors of one operation that a plan takes. -/
theorem planOp_spec {ds : List PtnDesc} {r : List Nat} {own : PtnDesc × Nat → Bool} {op : Nat}
    (sub : r.Sublist (((ds.zipIdx.filter own).filter fun p => p.1.op == op).map (·.2))) :
    r.Nodup ∧ ∀ i ∈ r, ∃ d, ds[i]? = some d ∧ d.op = op := by
  refine ⟨sub.nodup ?_, fun i mem => ?_⟩
  · exact (List.nodup_zipIdx_map_snd ds).sublist ((List.filter_sublist.trans List.filter_sublist).map _)
  · obtain ⟨x, listed, rfl⟩ := List.mem_map.mp (sub.subset mem)
    obtain ⟨first, kind⟩ := List.mem_filter.mp listed
    exact ⟨x.1, List.mk_mem_zipIdx_iff_getElem?.mp (List.mem_filter.mp first).1, by simpa using kind⟩

/-- The descriptors that a plan takes are some of the batch's, none twice. -/
theorem planBatch_index (s : State) (ds : List PtnDesc) :
    ((s.planBatch ds).index.map (·.1)).Nodup ∧ ∀ i ∈ (s.planBatch ds).index.map (·.1), i < ds.length := by
  unfold planBatch
  extract_lets numbered
  simp only [List.foldl_cons, List.foldl_nil]
  obtain ⟨r0, index0, sub0⟩ := s.planFold_index (numbered.filter fun p => p.1.op == 0)
    ((numbered.filter fun p => p.1.op == 1).foldl (fun pl p => s.planOne pl p.2 p.1)
      ((numbered.filter fun p => p.1.op == 2).foldl (fun pl p => s.planOne pl p.2 p.1)
        { layout := s.ptns, handles := s.ptnHandles, index := [], noQuads := [], full := [] }))
  obtain ⟨r1, index1, sub1⟩ := s.planFold_index (numbered.filter fun p => p.1.op == 1)
    ((numbered.filter fun p => p.1.op == 2).foldl (fun pl p => s.planOne pl p.2 p.1)
      { layout := s.ptns, handles := s.ptnHandles, index := [], noQuads := [], full := [] })
  obtain ⟨r2, index2, sub2⟩ := s.planFold_index (numbered.filter fun p => p.1.op == 2)
    { layout := s.ptns, handles := s.ptnHandles, index := [], noQuads := [], full := [] }
  rw [index0, index1, index2, List.map_nil, List.nil_append]
  obtain ⟨once0, own0⟩ := planOp_spec sub0
  obtain ⟨once1, own1⟩ := planOp_spec sub1
  obtain ⟨once2, own2⟩ := planOp_spec sub2
  have apart {i op op' : Nat} (one : ∃ d, ds[i]? = some d ∧ d.op = op) (two : ∃ d, ds[i]? = some d ∧ d.op = op') : op = op' := by
    obtain ⟨d, here, rfl⟩ := one
    obtain ⟨e, there, rfl⟩ := two
    rw [here] at there
    rw [Option.some.inj there]
  refine ⟨?_, fun i mem => ?_⟩
  · rw [List.nodup_append, List.nodup_append]
    refine ⟨⟨once2, once1, fun i a j b same => ?_⟩, once0, fun i a j b same => ?_⟩
    · subst same
      exact absurd (apart (own2 i a) (own1 i b)) (by decide)
    · subst same
      rcases List.mem_append.mp a with a | a
      · exact absurd (apart (own2 i a) (own0 i b)) (by decide)
      · exact absurd (apart (own1 i a) (own0 i b)) (by decide)
  · have listed : ∃ d, ds[i]? = some d := by
      rcases List.mem_append.mp mem with mem | mem
      · rcases List.mem_append.mp mem with mem | mem
        · exact (own2 i mem).imp fun _ => And.left
        · exact (own1 i mem).imp fun _ => And.left
      · exact (own0 i mem).imp fun _ => And.left
    obtain ⟨d, here⟩ := listed
    exact (List.getElem?_eq_some_iff.mp here).1

/-- As many items as the plan takes descriptors. -/
theorem planItems_length {α β γ : Type} {J : List (Nat × β)} {l : List α} (once : (J.map (·.1)).Nodup) (inside : ∀ i ∈ J.map (·.1), i < l.length)
    (f : α × Nat → Nat × β → γ) :
    (l.zipIdx.filterMap fun d => (J.find? fun p => p.1 == d.2).map (f d)).length = J.length := by
  have taken (d : α × Nat) : ((J.find? fun p => p.1 == d.2).map (f d)).isSome = decide (d.2 ∈ J.map (·.1)) := by
    rw [Option.isSome_map, Bool.eq_iff_iff, List.find?_isSome, decide_eq_true_iff, List.mem_map]
    exact exists_congr fun p => and_congr_right fun _ => beq_iff_eq
  calc (l.zipIdx.filterMap fun d => (J.find? fun p => p.1 == d.2).map (f d)).length
    _ = l.zipIdx.countP fun d => decide (d.2 ∈ J.map (·.1)) := by
      rw [List.length_filterMap_eq_countP]
      exact List.countP_congr fun d _ => by rw [taken]
    _ = (List.range l.length).countP fun i => decide (i ∈ J.map (·.1)) := by
      rw [show List.range l.length = l.zipIdx.map (·.2) by rw [List.zipIdx_map_snd, List.range_eq_range'], List.countP_map]
      rfl
    _ = ((List.range l.length).filter fun i => decide (i ∈ J.map (·.1))).length := List.countP_eq_length_filter
    _ = (J.map (·.1)).length := by
      refine List.Perm.length_eq ((List.perm_ext_iff_of_nodup (List.nodup_range.filter _) once).mpr fun i => ?_)
      rw [List.mem_filter, decide_eq_true_iff, List.mem_range]
      exact and_iff_right_of_imp (inside i)
    _ = J.length := List.length_map ..

/-- An accepted batch stands as the batch that runs; nothing of the layout has changed yet. -/
theorem acceptBatch_spec (s : State) (a : Nat) (ds : List PtnDesc) :
    ((s.acceptBatch a (s.planBatch ds) ds).batch.any fun b => b.addr == a && b.start == s.supTime && !b.applied &&
      b.items.length == (s.planBatch ds).index.length) = true ∧
    ((s.acceptBatch a (s.planBatch ds) ds).ptns = s.ptns ∧ (s.acceptBatch a (s.planBatch ds) ds).ptnHandles = s.ptnHandles ∧
      (s.acceptBatch a (s.planBatch ds) ds).hotset = s.hotset ∧ (s.acceptBatch a (s.planBatch ds) ds).attrs = s.attrs) ∧
    (s.acceptBatch a (s.planBatch ds) ds).pending = s.pending ∧ (s.acceptBatch a (s.planBatch ds) ds).variant = s.variant := by
  unfold acceptBatch
  extract_lets items b s1
  have long : items.length = (s.planBatch ds).index.length := by
    obtain ⟨once, inside⟩ := s.planBatch_index ds
    exact planItems_length once inside _
  have parts : s1.layoutParts = (some b, s.ptns, s.ptnHandles, s.hotset, s.attrs, s.pending, s.variant) :=
    (layoutParts_of_rewinds (rewinds_batchSaves ..)).trans (batchPower_layoutParts ..)
  simp only [layoutParts, Prod.mk.injEq] at parts
  obtain ⟨batch, ptns, handles, hot, attrs, p, v⟩ := parts
  refine ⟨?_, ⟨ptns, handles, hot, attrs⟩, p, v⟩
  show s1.batch.any _ = true
  rw [batch, Option.any_some]
  simp [b, long]

/-! ### The request -/

/-- The descriptors that follow a batch's header. -/
def batchDescs (s : State) (a n : Nat) : List PtnDesc := (List.range n).map fun i => PtnDesc.ofBytes (s.fwRead (a + 0x40 + 256 * i) 256)

theorem batchDescs_length (s : State) (a n : Nat) : (s.batchDescs a n).length = n := by simp [batchDescs]

/-- A request of one to 32 descriptors, which stands where it can be read. -/
structure BatchAt (s : State) (a n : Nat) : Prop where
  aligned : a % 64 = 0
  header : s.requestOk a 64 = true
  version : le (s.fwRead a 64) 0 4 = 1
  count : le (s.fwRead a 64) 4 1 = n
  some_ : 1 ≤ n
  most : n ≤ 32
  clear : clearAt (s.fwRead a 64) [(5, 3), (0x10, 48)] = true
  readable : s.requestOk a (64 + 256 * n) = true

theorem BatchAt.layoutBatch_eq (k : s.BatchAt a n) : s.layoutBatch a =
    if ((s.batchDescs a n).map s.earlyCause).any (·.isSome) then
      if s.layoutRuns then s.refuseBatch a ((s.batchDescs a n).map s.earlyCause) (s.batchDescs a n) else s.decideBatch a (s.batchDescs a n)
    else if s.layoutRuns then
      (((List.range n).foldl (fun s i => s.ptnAnswer a i .retryLater 0 0 0 0 0) s).headAnswer a .retryLater 0 0xFF 0).raiseEv evPtn 1
    else s.decideBatch a (s.batchDescs a n) := by
  have some_ := k.some_
  have most := k.most
  unfold layoutBatch
  rw [if_neg (by simp [k.aligned, k.header])]
  dsimp only
  rw [k.count, k.version, k.clear, k.readable]
  have counted : (decide (n < 1) || decide (32 < n)) = false := by simp; omega
  have listed : s.batchDescs a n ≠ [] := by
    rw [← List.length_pos_iff, batchDescs_length]
    omega
  simp only [counted, Bool.not_true, Bool.or_false, Bool.false_eq_true, ↓reduceIte, ne_eq, not_true_eq_false]
  rw [show ((List.range n).map fun i => PtnDesc.ofBytes (s.fwRead (a + 0x40 + 256 * i) 256)) = s.batchDescs a n from rfl,
    batchDescs_length, if_neg listed]

theorem BatchAt.refused (k : s.BatchAt a n) (r : s.Reached a h (64 + 256 * n)) {st : Status} {d : Nat} {rs : List (Option (Status × Nat))}
    (short : rs.length ≤ n) (why : ptnRefusal (rs.filterMap fun r => r.map fun x => (true, x.1, x.2)) = some (st, d))
    (eq : s.layoutBatch a = s.refuseBatch a rs (s.batchDescs a n)) :
    ((s.layoutBatch a).mem.read (hostKey (h + 8))).toNat = st.code ∧ bitAt ((s.layoutBatch a).ev evPtn).value 1 = true ∧
      s.layoutBatch a = { s with
        mem := (s.layoutBatch a).mem, events := (s.layoutBatch a).events, plk := (s.layoutBatch a).plk, out := (s.layoutBatch a).out } :=
  refuseBatch_spec r (s.batchDescs a n) short why eq

theorem BatchAt.decides (k : s.BatchAt a n) (free : s.layoutRuns = false) : s.layoutBatch a = s.decideBatch a (s.batchDescs a n) := by
  rw [k.layoutBatch_eq, free]
  simp

theorem BatchAt.runs (k : s.BatchAt a n) (r : s.Reached a h (64 + 256 * n)) (runs : s.layoutRuns = true)
    (clear : ((s.batchDescs a n).all fun d => (s.earlyCause d).isNone) = true) :
    ((s.layoutBatch a).mem.read (hostKey (h + 8))).toNat = Status.retryLater.code ∧ bitAt ((s.layoutBatch a).ev evPtn).value 1 = true ∧
      s.layoutBatch a = { s with
        mem := (s.layoutBatch a).mem, events := (s.layoutBatch a).events, plk := (s.layoutBatch a).plk, out := (s.layoutBatch a).out } := by
  have none_ : ((s.batchDescs a n).map s.earlyCause).any (·.isSome) = false := by
    rw [List.any_eq_false]
    intro x mem
    obtain ⟨d, listed, rfl⟩ := List.mem_map.mp mem
    have free := List.all_eq_true.mp clear d listed
    rw [Option.isNone_iff_eq_none.mp free]
    decide
  have eq := k.layoutBatch_eq
  rw [none_, runs, if_neg (by decide), if_pos rfl] at eq
  have notes : Noted s ((List.range n).foldl (fun s i => s.ptnAnswer a i .retryLater 0 0 0 0 0) s) :=
    noted_foldl (fun t i mem kt => noted_ptnAnswer kt (List.mem_range.mp mem) ..) r
  generalize (List.range n).foldl (fun s i => s.ptnAnswer a i .retryLater 0 0 0 0 0) s = u at notes eq
  obtain ⟨code, told, frame⟩ := headAnswer_spec (r.of_linkUp notes.link) (by omega) _ _ _ _ _ eq
  obtain ⟨m, p, o, rfl⟩ := notes.frame
  exact ⟨code, told, frame⟩

end State

end Sys2Proof.Machine
end

section
/-! SUPPORT. A layout batch applied, the copy of a re-stripe, and hot-set entries (R235 to R237, R252). -/

set_option Elab.async false

namespace Sys2Proof.Machine

/-- The addresses past the host's are of nothing. -/
theorem parseAddr_beyond {a : Nat} (low : 2 ^ 63 + 2 ^ 56 ≤ a) (high : a < 2 ^ 63 + 2 ^ 57) : parseAddr a = .bad := by
  have top : fld a 63 62 = 2 := by
    unfold fld
    omega
  have past : fld a 61 56 ≠ 0 := by
    unfold fld
    omega
  unfold parseAddr
  rw [if_neg (by omega), top]
  exact if_neg past

namespace State

variable {s t : State} {a h n : Nat}

theorem writeBytes_beyond (s : State) {a : Nat} (l : List Byte) (low : 2 ^ 63 + 2 ^ 56 ≤ a) (high : a + l.length ≤ 2 ^ 63 + 2 ^ 57) :
    s.writeBytes 0 0 a l = s := by
  induction l generalizing a with
  | nil => rfl
  | cons b r ih =>
    rw [List.length_cons] at high
    have first : s.writeAt 0 0 a b = s := by
      unfold writeAt key
      rw [parseAddr_beyond low (by omega)]
    rw [writeBytes, first]
    exact ih (by omega) (by omega)

theorem post_beyond (s : State) {a : Nat} {l : List Byte} (low : 2 ^ 63 + 2 ^ 56 ≤ a) (high : a + l.length ≤ 2 ^ 63 + 2 ^ 57) (some_ : l ≠ []) :
    s.post a l = s := by
  have pos := List.length_pos_iff.mpr some_
  have bad := parseAddr_beyond low (by omega)
  unfold post fwWrite storeBytes
  rw [bad]
  dsimp only
  rw [s.writeBytes_beyond l low high]

/-- Answers written to host memory, or to nothing past it: nothing below the host's memory changes. -/
structure Tells (s t : State) : Prop where
  noted : Noted s t
  below : ∀ k, k < 2 ^ 64 → t.mem.read k = s.mem.read k

theorem Tells.refl (s : State) : Tells s s := ⟨.refl s, fun _ _ => rfl⟩

theorem tells_post (k : s.Reached a h n) {off : Nat} {l : List Byte} (fit : off + l.length ≤ n) (pos : off < n) : Tells s (s.post (a + off) l) := by
  refine ⟨noted_post k fit pos, fun j low => ?_⟩
  obtain ⟨p, o, posted⟩ := k.post fit pos
  rw [posted]
  refine Memory.read_writeAll_ne _ _ (.inl ?_)
  unfold hostKey
  omega

/-- The answer to a batch's first descriptor, which may lie past the host's memory. -/
theorem tells_ptnAnswer (host : parseAddr a = .host h) (aligned : a % 64 = 0) (up : s.linkUp = true) (st : Status)
    (detail handle quads moved copied : Nat) : Tells s (s.ptnAnswer a 0 st detail handle quads moved copied) := by
  obtain ⟨place, short⟩ := parseAddr_eq_host host
  unfold ptnAnswer
  rw [show a + 0x40 + 256 * 0 + 0xE0 = a + 0x120 by omega]
  generalize line : leBytes 1 st.code ++ leBytes 1 detail ++ zeros 2 ++ leBytes 4 handle ++ leBytes 4 quads ++ leBytes 2 moved ++ zeros 2 ++
    leBytes 4 copied ++ zeros 12 = l
  have long : l.length = 32 := by
    rw [← line]
    simp [zeros]
  by_cases inside : h + 0x140 ≤ 2 ^ 56
  · exact tells_post (n := 0x140) ⟨host, up, inside⟩ (by omega) (by decide)
  · rw [s.post_beyond (by omega) (by omega) (by rw [← List.length_pos_iff, long]; decide)]
    exact .refl s

theorem headAnswer_below (k : s.Reached a h n) (long : 16 ≤ n) (st : Status) (detail bad us e : Nat) {t : State}
    (eq : t = (s.headAnswer a st detail bad us).raiseEv evPtn e) : ∀ j, j < 2 ^ 64 → t.mem.read j = s.mem.read j := by
  rw [eq, raiseEv_eq]
  refine (tells_post k (off := 8) ?_ (by omega)).below
  simp [zeros]
  omega

/-- The header line of a request at a host address. -/
theorem reached_line (host : parseAddr a = .host h) (aligned : a % 64 = 0) (up : s.linkUp = true) : s.Reached a h 64 := by
  obtain ⟨place, short⟩ := parseAddr_eq_host host
  exact ⟨host, up, by omega⟩

/-- The completions of a batch of one item. -/
theorem endBatch_one {b : Batch} {it : BatchItem} (host : parseAddr a = .host h) (aligned : a % 64 = 0) (up : s.linkUp = true)
    (own : b.addr = a) (one : b.items = [it]) {t : State} (eq : t = s.endBatch b) :
    (t.mem.read (hostKey (h + 8))).toNat = Status.ok.code ∧ bitAt (t.ev evPtn).value 0 = true ∧
      (∀ k, k < 2 ^ 64 → t.mem.read k = s.mem.read k) ∧
      t = { s with batch := none, mem := t.mem, events := t.events, plk := t.plk, out := t.out } := by
  unfold endBatch at eq
  rw [one, own] at eq
  simp only [List.zipIdx_cons, List.zipIdx_nil, List.foldl_cons, List.foldl_nil] at eq
  have tells : Tells s (s.ptnAnswer a 0 .ok 0 (if it.op = 2 then s.ptnHandleGone it.ptn else s.ptnHandle it.ptn)
      (if it.op = 2 then 0 else it.part.quads) it.moves.length it.copied) := tells_ptnAnswer host aligned up ..
  generalize s.ptnAnswer a 0 _ _ _ _ _ _ = u at tells eq
  have line : ({ u with batch := none } : State).Reached a h 64 := reached_line host aligned (tells.noted.link.trans up)
  obtain ⟨code, told, frame⟩ := headAnswer_spec line (by decide) _ _ _ _ _ eq
  have below := headAnswer_below line (by decide) _ _ _ _ _ eq
  refine ⟨code, told, fun k low => (below k low).trans (tells.below k low), ?_⟩
  obtain ⟨m, p, o, rfl⟩ := tells.noted.frame
  exact frame

/-! ### Items -/

theorem settleWays_eq (s old : State) : ∃ ls, s.settleWays old = { s with lines := ls } := ⟨_, rfl⟩

section

variable {b : Batch} {it : BatchItem}

/-- A ready batch of one item, which is no re-stripe, is applied and completed. -/
theorem batchStep_one (runs : s.batch = some b) (waits : b.applied = false) (one : b.items = [it]) (whole : it.restripe = false)
    (ready : s.batchReady b = true) (op : it.op = 0 ∨ it.op = 1 ∨ it.op = 2) :
    s.batchStep = ({ s.applyItem it with batch := some { b with applied := true } } : State).endBatch { b with applied := true } := by
  have applied : [2, 1, 0].foldl (fun (s : State) op => ([it].filter fun it => it.op == op).foldl (fun s it => s.applyItem it) s) s =
      s.applyItem it := by
    rcases op with op | op | op <;> simp [op]
  unfold batchStep
  rw [runs]
  dsimp only
  rw [waits, ready, one]
  simp only [Bool.false_eq_true, ↓reduceIte, List.any_cons, whole, Bool.false_and, List.any_nil, Bool.or_false]
  rw [applied]

/-- A partition is made: the layout, the handles and the zeroed scratchpad. -/
theorem applyItem_create {p : Nat} {hs : HandleTable} (op : it.op = 0) (none_ : tget s.ptns it.ptn = none)
    (free : s.ptnHandles.take 32 = some (p, hs)) :
    ∃ ls, s.applyItem it = { s with
      mem := zeroShares s.mem p [] it.part.scratch, ptns := tput s.ptns p it.part, ptnHandles := hs, lines := ls } := by
  have owned : s.ownItem it = { s with mem := zeroShares s.mem p [] it.part.scratch, ptns := tput s.ptns p it.part, ptnHandles := hs } := by
    unfold ownItem
    rw [op, none_, free]
    rfl
  obtain ⟨ls, settled⟩ := (s.ownItem it).settleWays_eq s
  rw [applyItem, settled, owned]
  exact ⟨ls, rfl⟩

/-- A partition goes: it leaves the layout and gives back its handle. -/
theorem applyItem_destroy (op : it.op = 2) (some_ : (tget s.ptns it.ptn).isSome = true) :
    ∃ m as hot ls, s.applyItem it = { s with
      mem := m, attrs := as, hotset := hot, ptns := tdel s.ptns it.ptn, ptnHandles := s.ptnHandles.free it.ptn, lines := ls } := by
  obtain ⟨b, here⟩ := Option.isSome_iff_exists.mp some_
  have owned : ∃ m as hot, s.ownItem it = { s with
      mem := m, attrs := as, hotset := hot, ptns := tdel s.ptns it.ptn, ptnHandles := s.ptnHandles.free it.ptn } := by
    unfold ownItem
    rw [op, here]
    exact ⟨_, _, _, rfl⟩
  obtain ⟨m, as, hot, owned⟩ := owned
  obtain ⟨ls, settled⟩ := (s.ownItem it).settleWays_eq s
  rw [applyItem, settled, owned]
  exact ⟨m, as, hot, ls, rfl⟩

end

theorem read_clear_zero (m : Memory) {lo hi k : Nat} (zero : m.read k = 0) : (m.clear lo hi).read k = 0 := by
  by_cases inside : lo ≤ k ∧ k < hi
  · exact Memory.read_clear m inside
  · rw [Memory.read_clear_ne m (by omega)]
    exact zero

/-- The granules of a new partition read 0. -/
theorem zeroShares_read (m : Memory) (p : Nat) (b : List Nat) {n o : Nat} (die : n < 8) (inside : o < 65536 * b.getD n 0) :
    (zeroShares m p [] b).read (scrKey p n o) = 0 := by
  have clears (l : List Nat) (m : Memory) (h : n ∈ l ∨ m.read (scrKey p n o) = 0) : (l.foldl (fun m n =>
      m.clear (scrKey p n (65536 * Nat.min (([] : List Nat).getD n 0) (b.getD n 0))) (scrKey p n (65536 * Nat.max (([] : List Nat).getD n 0) (b.getD n 0)))) m).read
        (scrKey p n o) = 0 := by
    induction l generalizing m with
    | nil => exact h.resolve_left List.not_mem_nil
    | cons x r ih =>
      refine ih _ ?_
      rcases h with mem | zero
      · rcases List.mem_cons.mp mem with rfl | later
        · refine .inr (Memory.read_clear m ?_)
          rw [List.getD_nil, show Nat.min 0 (b.getD n 0) = 0 from Nat.zero_min _, show Nat.max 0 (b.getD n 0) = b.getD n 0 from Nat.zero_max _]
          unfold scrKey
          omega
        · exact .inl later
      · exact .inr (read_clear_zero m zero)
  exact clears (List.range 8) m (.inl (List.mem_range.mpr die))

/-! ### Re-stripes -/

section

variable {b : Batch} {it : BatchItem}

theorem setAttrs_frame {α : Type} (l : List α) (f : State → α → State) (step : ∀ (s : State) x, ∃ as, f s x = { s with attrs := as })
    (s : State) : ∃ as, l.foldl f s = { s with attrs := as } := by
  refine List.foldlRecOn (motive := fun t : State => ∃ as, t = { s with attrs := as }) l f ⟨s.attrs, rfl⟩ ?_
  rintro _ ⟨as, rfl⟩ x -
  obtain ⟨bs, stepped⟩ := step { s with attrs := as } x
  exact ⟨bs, stepped⟩

/-- The copy of a batch of one re-stripe puts its partition on its new pseudo-channels. -/
theorem copyStripes_one (one : b.items = [it]) (re : it.restripe = true) : ∃ m as ls c, s.copyStripes b = { s with
    mem := m, attrs := as, lines := ls, free := s.free + 1, ptns := tmod s.ptns it.ptn fun p => { p with pcs := it.part.pcs }
    batch := some { b with items := [{ it with copied := c }] } } := by
  have stripes : b.items.filter (·.restripe) = [it] := by rw [one]; simp [re]
  unfold copyStripes
  rw [stripes, one]
  extract_lets its moves m1 m2 gone kept keepAttr
  have kept_eq : ∃ as ls, kept = { s with attrs := as, lines := ls } := ⟨_, _, rfl⟩
  have keep_eq : ∃ as, keepAttr = { kept with attrs := as } := by
    refine setAttrs_frame _ _ (fun t it => ?_) kept
    split
    · refine setAttrs_frame _ _ (fun t v => ?_) t
      split
      · exact ⟨_, rfl⟩
      · exact ⟨t.attrs, rfl⟩
    · exact ⟨t.attrs, rfl⟩
  obtain ⟨as, keep_eq⟩ := keep_eq
  obtain ⟨bs, ls, kept_eq⟩ := kept_eq
  rw [keep_eq, kept_eq]
  simp only [List.map_cons, List.map_nil, re, ↓reduceIte]
  exact ⟨_, _, _, _, rfl⟩

/-- The copy of the only re-stripe ends. -/
theorem stripeEnd_one {p : Nat} (runs : s.batch = some b) (applied : b.applied = true) (one : b.items = [it]) (re : it.restripe = true)
    (own : it.ptn = p) (none_ : b.copied = []) : ∃ m as ls c, s.stripeEnd p = { s with
    mem := m, attrs := as, lines := ls, free := s.free + 1
    ptns := tmod (tmod s.ptns it.ptn fun (x : Partition) => { x with pcs := it.part.pcs }) p fun (x : Partition) => { x with restriping := false }
    batch := some { b with copied := [p], items := [{ it with copied := c }] }
    contexts := tmap (fun _ k => if k.ptn == p then k.resumed else k) s.contexts } := by
  have goes : b.applied = true ∧ (b.items.any fun it => it.restripe && it.ptn == p) = true ∧ b.copied.contains p = false := by
    rw [one, none_]
    simp [applied, re, own]
  unfold stripeEnd
  rw [runs]
  dsimp only
  rw [if_pos goes, none_]
  obtain ⟨m, as, ls, c, copied⟩ := copyStripes_one (s := s) (b := { b with copied := [p] }) one re
  refine ⟨m, as, ls, c, ?_⟩
  simp only [List.nil_append, List.isEmpty_nil, ↓reduceIte]
  rw [copied]

end

end State

end Sys2Proof.Machine
end

section
/-! O51. Layouts, the hot set and tests (R232 to R237, R249, R252, R255 to R257, R371). -/

set_option Elab.async false

namespace Sys2Proof.Machine

namespace State

variable {s t : State} {a h n : Nat}

/-- A byte of a request that an answer to it leaves. -/
theorem read_post_ne (k : s.Reached a h n) {off : Nat} {l : List Byte} (fit : off + l.length ≤ n) (pos : off < n) {j : Nat}
    (apart : j < off ∨ off + l.length ≤ j) : (s.post (a + off) l).mem.read (hostKey (h + j)) = s.mem.read (hostKey (h + j)) := by
  obtain ⟨p, o, posted⟩ := k.post fit pos
  rw [posted]
  refine Memory.read_writeAll_ne _ _ ?_
  unfold hostKey
  omega

/-- A status that an answer writes. -/
theorem read_post_code (k : s.Reached a h n) {off : Nat} (st : Status) {l : List Byte} (fit : off + 1 + l.length ≤ n) :
    ((s.post (a + off) (leBytes 1 st.code ++ l)).mem.read (hostKey (h + off))).toNat = st.code := by
  obtain ⟨p, o, posted⟩ := k.post (off := off) (l := leBytes 1 st.code ++ l) (by simp; omega) (by omega)
  rw [posted]
  exact read_answer_code ..

/-! ### The hot set -/

theorem hotAnswer_spec (k : s.Reached a h 32) (entry first : Nat) (st : Status) (detail evicted : Nat) :
    Noted s (s.hotAnswer a entry first st detail evicted) ∧
      ((s.hotAnswer a entry first st detail evicted).mem.read (hostKey (h + 0x18))).toNat = st.code := by
  have one : Noted s (s.post (a + 6) (leBytes 2 entry)) := noted_post k (by simp) (by decide)
  have two := noted_post (k.of_linkUp one.link) (off := 0x10) (l := leBytes 4 first) (by simp) (by decide)
  have before := one.trans two
  have k2 := k.of_linkUp before.link
  have three := noted_post k2 (off := 0x18) (l := leBytes 1 st.code ++ leBytes 1 detail) (by simp) (by decide)
  have code := read_post_code k2 (off := 0x18) st (l := leBytes 1 detail) (by simp)
  have k3 := k.of_linkUp (before.trans three).link
  have four := noted_post k3 (off := 0x1C) (l := leBytes 4 evicted) (by simp) (by decide)
  refine ⟨(before.trans three).trans four, ?_⟩
  rw [hotAnswer, read_post_ne k3 (by simp) (by decide) (.inl (by decide))]
  exact code

theorem hotRequest_place (aligned : a % 64 = 0) (readable : s.requestOk a 32 = true) {l : List Byte} (line : s.fwRead a 32 = l)
    (version : le l 0 4 = 1) (kind : le l 5 1 ≤ 2) (zero : le l 0x1A 2 = 0) {i v f : Nat} {p : Partition} (op : le l 4 1 = 0)
    (ptn : s.ptnOf (le l 8 4) = some i) (there : tget s.ptns i = some p)
    (room : s.hotRoom i p.pages (le l 0x10 4) (le l 0xC 4) = some ([], v))
    (free : ((List.range 8192).find? fun k => !thas s.hotset (k + 1)) = some f) :
    s.hotRequest a = ({ s with hotset := tput s.hotset (f + 1) { kind := le l 5 1, ptn := i, first := v, pages := le l 0xC 4, model := le l 0x14 4, pinned := false, lastUse := s.supTime } } : State).hotAnswer
      a (f + 1) v .ok 0 0 := by
  have kept : (s.hotset.filter fun y => !([] : List Nat).contains y.1) = s.hotset := List.filter_eq_self.mpr fun _ _ => rfl
  have known : decide (2 < le l 5 1) = false := decide_eq_false (by omega)
  unfold hotRequest
  rw [if_neg (by simp [aligned, readable])]
  dsimp only
  rw [line, op, ptn, Option.bind_some, Option.bind_some, there, version, zero, free]
  simp only [Option.map_some, Option.getD_some, room]
  rw [known, kept]
  rfl

theorem hotRequest_evict (aligned : a % 64 = 0) (readable : s.requestOk a 32 = true) {l : List Byte} (line : s.fwRead a 32 = l)
    (version : le l 0 4 = 1) (kind : le l 5 1 ≤ 2) (zero : le l 0x1A 2 = 0) {e : HotEntry} (op : le l 4 1 = 4)
    (there : tget s.hotset (le l 6 2) = some e) (loose : e.pinned = false) :
    s.hotRequest a = (({ s with hotset := tdel s.hotset (le l 6 2) } : State).raiseEv evPtn 7).hotAnswer a (le l 6 2) e.first .ok 0 0 := by
  have known : decide (2 < le l 5 1) = false := decide_eq_false (by omega)
  unfold hotRequest
  rw [if_neg (by simp [aligned, readable])]
  dsimp only
  rw [line, op, version, zero, there, known, Option.any_some, loose]
  rfl

/-! ### Tests -/

/-- The places of waiting requests, shown to them: writes over a link that stays as it is. -/
theorem interims_spec (l : List (TestReq × Nat)) (s : State) :
    Wrote s (l.foldl (fun (s : State) r => s.testInterim r.1.addr .deferred (r.2 + 1)) s) ∧
      (l.foldl (fun (s : State) r => s.testInterim r.1.addr .deferred (r.2 + 1)) s).linkUp = s.linkUp :=
  List.foldlRecOn (motive := fun t => Wrote s t ∧ t.linkUp = s.linkUp) l _ ⟨.refl s, rfl⟩ fun t ht r _ =>
    ⟨ht.1.trans (wrote_post ..), (t.post_linkUp ..).trans ht.2⟩

/-- A request that joins a queue whose head runs is told that it is deferred. -/
theorem testShow_joined (k : s.Reached a h 64) {c : Nat} {q : List TestReq} {r : TestReq} (queue : s.testQueue c = q ++ [r])
    (runs : (q.head?.any (·.running)) = true) (own : r.addr = a) (fuel : Nat) :
    Wrote s (s.testShow c (fuel + 1)) ∧ ((s.testShow c (fuel + 1)).mem.read (hostKey (h + 0x20))).toNat = Status.deferred.code := by
  cases q with
  | nil => cases runs
  | cons x q =>
    have running : x.running = true := runs
    obtain ⟨wrote, link⟩ := interims_spec q.zipIdx s
    have shown : s.testShow c (fuel + 1) = (q.zipIdx.foldl (fun (s : State) r => s.testInterim r.1.addr .deferred (r.2 + 1)) s).testInterim
        a .deferred (q.length + 1) := by
      rw [testShow, queue, List.cons_append]
      dsimp only
      rw [if_pos running, List.zipIdx_append, List.foldl_append, ← own]
      simp
    rw [shown]
    refine ⟨wrote.trans (wrote_post ..), ?_⟩
    have code := read_post_code (k.of_linkUp link) (off := 0x20) .deferred (l := zeros 2 ++ leBytes 1 (q.length + 1)) (by simp [zeros])
    rwa [← List.append_assoc] at code

/-- What a test request that can be served asks for. -/
structure TestAt (s : State) (a : Nat) (l : List Byte) : Prop where
  aligned : a % 64 = 0
  readable : s.requestOk a 64 = true
  line : s.fwRead a 64 = l
  version : le l 0 4 = 1
  proc : procTarget (le l 4 2) = some (le l 6 1)
  inside : le l 8 4 < targetCount (le l 6 1)
  present : s.targetHere (le l 6 1) (le l 8 4) = true
  window : 1 ≤ le l 0xC 4 ∧ le l 0xC 4 ≤ 100000
  deferral : le l 0x10 4 ≤ 60000
  clear : clearAt l [(7, 1), (0x14, 4), (0x30, 16)] = true

theorem procTarget_le {x ty : Nat} (proc : procTarget x = some ty) : ty ≤ 4 := by
  unfold procTarget at proc
  split_ifs at proc <;> simp_all <;> omega

theorem TestAt.testRequest_eq {l : List Byte} (k : s.TestAt a l) :
    let core := targetCore (le l 6 1) (le l 8 4)
    s.testRequest a = if 16 ≤ (s.testQueue core).length then s.testFinal a .refusedCapacity 7
      else (s.setTests core (s.testQueue core ++ [{
        addr := a, proc := le l 4 2, targetType := le l 6 1, target := le l 8 4, window := le l 0xC 4, maxDefer := le l 0x10 4
        result := le l 0x18 8, running := false, start := 0 }])).testShow core 17 := by
  intro core
  have kind := procTarget_le k.proc
  have inside := k.inside
  obtain ⟨least, most⟩ := k.window
  have deferral := k.deferral
  have range : (procTarget (le l 4 2) != some (le l 6 1) || 4 < le l 6 1 || targetCount (le l 6 1) ≤ le l 8 4 || le l 0xC 4 < 1 ||
      100000 < le l 0xC 4 || 60000 < le l 0x10 4 || !clearAt l [(7, 1), (0x14, 4), (0x30, 16)]) = false := by
    simp [k.proc, k.clear]
    omega
  unfold testRequest
  rw [if_neg (by simp [k.aligned, k.readable])]
  dsimp only
  rw [k.line, range, k.present, k.version]
  have refused (x : Bool) : ptnRefusal [(decide (le l 6 1 ≤ 4) && decide (le l 8 4 < targetCount (le l 6 1)) && !true, .unitAbsent, 0),
      ((1 : Nat) != 1, .versionUnsupported, 0), (false, .refusedInfeasible, 0x10), (x, .refusedCapacity, 7)] =
      if x then some (.refusedCapacity, 7) else none := by
    rw [Bool.not_true, Bool.and_false]
    cases x <;> rfl
  rw [refused]
  by_cases full : 16 ≤ (s.testQueue core).length
  · rw [decide_eq_true full, if_pos rfl, if_pos full]
  · rw [decide_eq_false full, if_neg (by decide), if_neg full]

/-- A head request for a pseudo-channel borrows it. -/
theorem testBegin_pc {c : Nat} {r : TestReq} (queue : s.testQueue c = [r]) (kind : r.targetType = 1) (waits : r.running = false)
    (opened : s.isOpen (targetDomain 1 r.target) = true) (clear : s.targetClear 1 r.target r.window = true) :
    s.testBegin c = ((s.setPc r.target { s.pc r.target with borrowed := true }).setTests c [{ r with running := true, start := (s.core c).time }]).post
      (r.addr + 0x24) (leBytes 8 (s.core c).time.toNat) := by
  unfold testBegin
  rw [queue]
  dsimp only
  rw [kind, if_neg (by simp [waits, opened, clear])]
  rfl

theorem testQueue_setTests (s : State) (c : Nat) (l : List TestReq) : (s.setTests c l).testQueue c = l := tgetD_tput_same ..

/-- What a command that ends with an event leaves, from what it left before. -/
theorem raised_of_frame {u v : State} {e : Nat} (b : Nat) (eq : t = u.raiseEv e b) (frame : u = v) :
    ∃ es p o, t = { v with events := es, plk := p, out := o } ∧ bitAt (t.ev e).value b = true := by
  subst frame eq
  exact ⟨_, _, _, raiseEv_eq .., raiseEv_sets ..⟩

theorem testShow_nil {c : Nat} (queue : s.testQueue c = []) (fuel : Nat) : s.testShow c (fuel + 1) = s := by
  rw [testShow, queue]

theorem testQueue_raiseEv (s : State) (e b c : Nat) : (s.raiseEv e b).testQueue c = s.testQueue c := by
  rw [raiseEv_eq]
  rfl

/-- A head request for a reserved pseudo-channel is refused as its deferral ends. -/
theorem testDeferred_pc (k : s.Reached a h 64) {c : Nat} {r : TestReq} (queue : s.testQueue c = [r]) (own : r.addr = a) (kind : r.targetType = 1)
    (waits : r.running = false) (held : s.targetReserved 1 r.target = true) :
    s.testDeferred c = ((s.setTests c []).testFinal a .testRefused 0).raiseEv evPtn 9 := by
  unfold testDeferred
  rw [queue]
  dsimp only
  rw [kind, if_neg (by simp [waits, held]), own]
  refine testShow_nil ?_ _
  rw [testQueue_raiseEv]
  obtain ⟨p, o, posted⟩ := (k.of_linkUp rfl : (s.setTests c []).Reached a h 64).post (off := 0x20)
    (l := leBytes 1 Status.testRefused.code ++ leBytes 1 1 ++ leBytes 1 0 ++ zeros 1) (by simp [zeros]) (by decide)
  rw [testFinal, posted]
  exact testQueue_setTests s c []

/-- The completion of a request: what it reads. -/
theorem testFinal_spec (k : s.Reached a h 64) (st : Status) {d : Nat} (small : d < 256) : Noted s (s.testFinal a st d) ∧
    ((s.testFinal a st d).mem.read (hostKey (h + 0x20))).toNat = st.code ∧ ((s.testFinal a st d).mem.read (hostKey (h + 0x22))).toNat = d := by
  obtain ⟨p, o, posted⟩ := k.post (off := 0x20) (l := leBytes 1 st.code ++ (leBytes 1 1 ++ (leBytes 1 d ++ zeros 1))) (by simp [zeros]) (by decide)
  have eq : s.testFinal a st d = s.post (a + 0x20) (leBytes 1 st.code ++ (leBytes 1 1 ++ (leBytes 1 d ++ zeros 1))) := by
    simp only [testFinal, List.append_assoc]
  rw [eq]
  refine ⟨noted_post k (by simp [zeros]) (by decide), ?_, ?_⟩
  · rw [posted]
    exact read_answer_code ..
  · rw [posted]
    exact (congrArg BitVec.toNat (Memory.read_writeAll s.mem (hostKey (h + 0x20)) _ (i := 2) (by simp [zeros]))).trans (Nat.mod_eq_of_lt small)

/-- A pseudo-channel's procedure ends, of itself or with its window. -/
theorem testEnd_pc (k : s.Reached a h 64) {c : Nat} {r : TestReq} (queue : s.testQueue c = [r]) (own : r.addr = a) (kind : r.targetType = 1)
    (runs : r.running = true) (proc : r.proc = 0x10) (none_ : r.result = 0) (res : ProcResult) (cut : Bool) :
    s.testEnd c res cut = (((((s.setPc r.target { s.pc r.target with borrowed := false }).post (a + 0x2C)
      (leBytes 4 (usBetween r.start (s.core c).time))).testFinal a .ok (b2n cut)).setTests c []).raiseEv evPtn 8) := by
  unfold testEnd
  rw [queue]
  dsimp only
  rw [if_pos runs, if_pos none_, kind, proc, own]
  refine (testShow_nil ?_ _).trans rfl
  rw [testQueue_raiseEv]
  exact testQueue_setTests ..

section

variable {b : Batch} {it : BatchItem}

theorem scrKey_lt {p n o : Nat} (small : p < 32) (die : n < 8) (low : o < 2 ^ 27) : scrKey p n o < 2 ^ 64 := by
  unfold scrKey
  omega

theorem applyItem_zeroed {p : Nat} {hs : HandleTable} (op : it.op = 0) (none_ : tget s.ptns it.ptn = none)
    (free : s.ptnHandles.take 32 = some (p, hs)) :
    ∃ m ls, s.applyItem it = { s with mem := m, ptns := tput s.ptns p it.part, ptnHandles := hs, lines := ls } ∧
      ∀ n o, n < 8 → o < 65536 * it.part.scratch.getD n 0 → m.read (scrKey p n o) = 0 := by
  obtain ⟨ls, made⟩ := applyItem_create op none_ free
  exact ⟨_, ls, made, fun n o die inside => zeroShares_read s.mem p it.part.scratch die inside⟩

/-- A batch that makes a partition completes. -/
theorem batchStep_create {p : Nat} {hs : HandleTable} (host : parseAddr a = .host h) (aligned : a % 64 = 0) (up : s.linkUp = true)
    (runs : s.batch = some b) (own : b.addr = a) (waits : b.applied = false) (one : b.items = [it]) (whole : it.restripe = false)
    (ready : s.batchReady b = true) (op : it.op = 0) (free : s.ptnHandles.take 32 = some (p, hs)) (none_ : tget s.ptns it.ptn = none)
    (small : p < 32) {t : State} (does : s.batchStep = t) :
    t.ptns = tput s.ptns p it.part ∧
      (∀ n o, n < 8 → o < 65536 * it.part.scratch.getD n 0 → o < 2 ^ 27 → t.mem.read (scrKey p n o) = 0) ∧
      (t.mem.read (hostKey (h + 8))).toNat = Status.ok.code ∧ bitAt (t.ev evPtn).value 0 = true ∧
      t = { s with batch := none, ptns := t.ptns, ptnHandles := hs, mem := t.mem, lines := t.lines, events := t.events, plk := t.plk
                   out := t.out } := by
  obtain ⟨m, ls, made, zeroed⟩ := applyItem_zeroed op none_ free
  rw [batchStep_one runs waits one whole ready (.inl op), made] at does
  obtain ⟨code, told, below, frame⟩ := endBatch_one host aligned (by exact up) (by exact own) (by exact one) does.symm
  have ptns : t.ptns = tput s.ptns p it.part := (congrArg State.ptns frame :)
  refine ⟨ptns, fun n o die inside low => ?_, code, told, ?_⟩
  · rw [below _ (scrKey_lt small die low)]
    exact zeroed n o die inside
  · rw [ptns, show t.lines = ls from (congrArg State.lines frame :)]
    exact frame

/-- A batch that ends a partition completes. -/
theorem batchStep_destroy (host : parseAddr a = .host h) (aligned : a % 64 = 0) (up : s.linkUp = true)
    (runs : s.batch = some b) (own : b.addr = a) (waits : b.applied = false) (one : b.items = [it]) (whole : it.restripe = false)
    (ready : s.batchReady b = true) (op : it.op = 2) (some_ : (tget s.ptns it.ptn).isSome = true) {t : State} (does : s.batchStep = t) :
    t.batch = none ∧ t.ptns = tdel s.ptns it.ptn ∧ t.ptnHandles = s.ptnHandles.free it.ptn ∧
      (t.mem.read (hostKey (h + 8))).toNat = Status.ok.code ∧ bitAt (t.ev evPtn).value 0 = true ∧
      t.pending = s.pending ∧ t.variant = s.variant := by
  obtain ⟨m, as, hot, ls, gone⟩ := applyItem_destroy op some_
  rw [batchStep_one runs waits one whole ready (.inr (.inr op)), gone] at does
  obtain ⟨code, told, -, frame⟩ := endBatch_one host aligned (by exact up) (by exact own) (by exact one) does.symm
  exact ⟨(congrArg State.batch frame :), (congrArg State.ptns frame :), (congrArg State.ptnHandles frame :), code, told,
    (congrArg State.pending frame :), (congrArg State.variant frame :)⟩

end

end State

open State in
/-- Settles O51: batches, re-stripes, the hot set and tests, each by the lemma that says what its command does. -/
theorem layoutsHotSetAndTestsWork : Obligations.LayoutsHotSetAndTestsWork := by
  unfold Obligations.LayoutsHotSetAndTestsWork
  refine ⟨fun s a h n live up host aligned header version count some_ most clear readable => ?_,
    fun s a h p b it hs live up host aligned runs own waits one whole ready op free none_ small => ?_,
    fun s a h b it live up host aligned runs own waits one whole ready op some_ => ?_,
    fun s b it p x live runs applied one re own none_ there => ?_,
    fun s a h live up host aligned readable version kind zero => ?_,
    fun s a h live up host aligned readable => ?_,
    fun s c h r live up host aligned queue kind waits opened clear => ?_,
    fun s c h r live up host aligned queue kind waits held => ?_,
    fun s c h r res live up host aligned queue kind runs proc none_ => ?_⟩
  · have k : s.BatchAt a n := ⟨aligned, header, version, count, some_, most, clear, readable⟩
    have r : s.Reached a h (64 + 256 * n) := reached_of_requestOk host up readable
    have long := s.batchDescs_length a n
    intro ds refused
    have answers {t : State} {st : Status} (eq : s.layoutBatch a = t)
        (spec : (t.mem.read (hostKey (h + 8))).toNat = st.code ∧ bitAt (t.ev evPtn).value 1 = true ∧
          t = { s with mem := t.mem, events := t.events, plk := t.plk, out := t.out }) : ∃ t, exec (.layoutBatch a) s = .next t ∧ refused t st := by
      obtain ⟨code, told, frame⟩ := spec
      exact ⟨t, act_eq_next (f := fun s => s.layoutBatch a) live eq (congrArg State.pending frame :) (congrArg State.variant frame :), code, told, frame⟩
    refine ⟨fun free clear => ?_, fun st d free why => ?_, fun runs clear => ?_, fun st d runs why => ?_⟩
    · have accepted : s.layoutBatch a = s.acceptBatch a (s.planBatch ds) ds := by
        rw [k.decides free, decideBatch]
        refine if_neg fun caused => ?_
        obtain ⟨x, mem, is⟩ := List.any_eq_true.mp caused
        rw [Option.isNone_iff_eq_none.mp (List.all_eq_true.mp clear x mem)] at is
        cases is
      obtain ⟨batch, ⟨ptns, handles, hot, attrs⟩, p, v⟩ := s.acceptBatch_spec a ds
      exact ⟨_, act_eq_next (f := fun s => s.layoutBatch a) live accepted p v, batch, ptns, handles, hot, attrs⟩
    · refine answers rfl (k.refused r (rs := s.batchCauses ds) ?_ why ?_)
      · simp [batchCauses, ds]
      · rw [k.decides free, decideBatch]
        exact if_pos (any_isSome_of_refusal why)
    · exact answers rfl (k.runs r runs clear)
    · refine answers rfl (k.refused r (rs := ds.map s.earlyCause) (by simp [ds]) why ?_)
      have caused : ((s.batchDescs a n).map s.earlyCause).any (·.isSome) = true := any_isSome_of_refusal why
      rw [k.layoutBatch_eq, if_pos caused, if_pos runs]
      rfl
  · obtain ⟨ptns, zeroed, code, told, frame⟩ := batchStep_create host aligned up runs own waits one whole ready op free none_ small rfl
    refine ⟨_, act_eq_next (f := fun s => s.batchStep) live rfl (congrArg State.pending frame :) (congrArg State.variant frame :),
      (congrArg State.batch frame :), ?_, fun q ne => ?_, zeroed, code, told, frame⟩
    · rw [ptns]
      exact tget_tput_same ..
    · rw [ptns]
      exact tget_tput_ne _ _ ne
  · obtain ⟨over_, ptns, handles, code, told, p, v⟩ := batchStep_destroy host aligned up runs own waits one whole ready op some_ rfl
    refine ⟨_, act_eq_next (f := fun s => s.batchStep) live rfl p v, over_, ?_, fun q ne => ?_, handles, code, told⟩
    · rw [ptns]
      exact tget_tdel_same ..
    · rw [ptns]
      exact tget_tdel_ne _ ne
  · obtain ⟨m, as, ls, c, ends⟩ := stripeEnd_one runs applied one re own none_
    subst own
    refine ⟨_, act_eq_next (f := fun s => s.stripeEnd it.ptn) live ends rfl rfl, ?_, fun q ne => ?_, ?_, fun i k listed mine parked idle => ?_, rfl⟩
    · exact tget_tmod_same (tget_tmod_same there _) _
    · exact (tget_tmod_ne _ ne).trans (tget_tmod_ne _ ne)
    · simp
    · simp only [ctx, tgetD, tget_tmap, listed, Option.map_some, Option.getD_some]
      rw [if_pos (beq_iff_eq.mpr mine), Context.resumed, if_pos ⟨parked, idle⟩]
  · intro l
    have k : s.Reached a h 32 := reached_of_requestOk host up readable
    refine ⟨fun i p v f op ptn there room free => ?_, fun e op there loose => ?_⟩
    · have placed := hotRequest_place aligned readable rfl version kind zero op ptn there room free
      obtain ⟨noted, code⟩ := hotAnswer_spec (k.of_linkUp rfl : ({ s with hotset := tput s.hotset (f + 1) { kind := le l 5 1, ptn := i, first := v, pages := le l 0xC 4, model := le l 0x14 4, pinned := false, lastUse := s.supTime } } : State).Reached a h 32)
        (f + 1) v .ok 0 0
      rw [← placed] at noted code
      obtain ⟨m, pl, o, frame⟩ := noted.frame
      have hot := congrArg State.hotset frame
      refine ⟨_, act_eq_next (f := fun s => s.hotRequest a) live rfl (congrArg State.pending frame :) (congrArg State.variant frame :),
        ?_, fun k ne => ?_, code, ?_⟩
      · rw [hot]
        exact tget_tput_same ..
      · rw [hot]
        exact tget_tput_ne _ _ ne
      · rw [frame]
    · have gone := hotRequest_evict aligned readable rfl version kind zero op there loose
      have told : bitAt ((({ s with hotset := tdel s.hotset (le l 6 2) } : State).raiseEv evPtn 7).ev evPtn).value 7 = true := raiseEv_sets ..
      have raised := State.raiseEv_eq { s with hotset := tdel s.hotset (le l 6 2) } evPtn 7
      have up' := State.raiseEv_linkUp { s with hotset := tdel s.hotset (le l 6 2) } evPtn 7
      generalize State.raiseEv _ evPtn 7 = u at gone told raised up'
      obtain ⟨noted, code⟩ := hotAnswer_spec (k.of_linkUp (up'.trans rfl) : u.Reached a h 32) (le l 6 2) e.first .ok 0 0
      rw [← gone] at noted code
      obtain ⟨m, pl, o, frame⟩ := noted.frame
      have all_ : s.hotRequest a = { s with
          hotset := tdel s.hotset (le l 6 2), mem := m, events := u.events, plk := pl, out := o } := frame.trans (by rw [raised])
      refine ⟨_, act_eq_next (f := fun s => s.hotRequest a) live all_ rfl rfl, tget_tdel_same .., told, fun k ne => tget_tdel_ne _ ne, ?_, rfl⟩
      rw [all_] at code
      exact code
  · intro l core version proc inside present least most deferral clear
    have k : s.TestAt a l := ⟨aligned, readable, rfl, version, proc, inside, present, ⟨least, most⟩, deferral, clear⟩
    have r : s.Reached a h 64 := reached_of_requestOk host up readable
    refine ⟨fun short busy => ?_, fun full => ?_⟩
    · have joined := k.testRequest_eq.trans (if_neg (by omega : ¬16 ≤ (s.testQueue core).length))
      obtain ⟨⟨m, ls, pl, o, frame⟩, code⟩ := testShow_joined (r.of_linkUp rfl : (s.setTests core (s.testQueue core ++ [{
        addr := a, proc := le l 4 2, targetType := le l 6 1, target := le l 8 4, window := le l 0xC 4, maxDefer := le l 0x10 4
        result := le l 0x18 8, running := false, start := 0 }])).Reached a h 64) (testQueue_setTests ..) busy rfl 16
      rw [frame] at joined code
      refine ⟨_, act_eq_next (f := fun s => s.testRequest a) live joined rfl rfl, code, ?_, ?_, rfl⟩
      · exact (congrArg List.dropLast (testQueue_setTests s core _)).trans List.dropLast_concat
      · refine (congrArg (fun q : List TestReq => q.getLast?.any _) (testQueue_setTests s core _)).trans ?_
        simp
    · have refused := k.testRequest_eq.trans (if_pos full)
      obtain ⟨noted, code, -⟩ := testFinal_spec r .refusedCapacity (d := 7) (by decide)
      obtain ⟨m, pl, o, frame⟩ := noted.frame
      rw [frame] at refused code
      exact ⟨_, act_eq_next (f := fun s => s.testRequest a) live refused rfl rfl, code, rfl⟩
  · have begins := testBegin_pc queue kind waits opened clear
    have k := (reached_line host aligned up)
    obtain ⟨p, o, posted⟩ := (k.of_linkUp rfl : ((s.setPc r.target { s.pc r.target with borrowed := true }).setTests c
      [{ r with running := true, start := (s.core c).time }]).Reached r.addr h 64).post (off := 0x24) (l := leBytes 8 (s.core c).time.toNat)
      (by simp) (by decide)
    rw [posted] at begins
    refine ⟨_, act_eq_next (f := fun s => s.testBegin c) live begins rfl rfl, ?_, tgetD_tput_same .., rfl⟩
    exact congrArg Pc.borrowed (setPc_pc s r.target { s.pc r.target with borrowed := true })
  · have k := (reached_line host aligned up)
    have ends := testDeferred_pc k queue rfl kind waits held
    obtain ⟨noted, code, -⟩ := testFinal_spec (k.of_linkUp rfl : (s.setTests c []).Reached r.addr h 64) .testRefused (d := 0) (by decide)
    obtain ⟨m, p, o, frame⟩ := noted.frame
    obtain ⟨es, p', o', does, told⟩ := raised_of_frame 9 ends frame
    rw [frame] at code
    rw [does] at told
    exact ⟨_, act_eq_next (f := fun s => s.testDeferred c) live does rfl rfl, tgetD_tput_same .., code, told, rfl⟩
  · have k := (reached_line host aligned up)
    let v := s.setPc r.target { s.pc r.target with borrowed := false }
    have timed : Noted v (v.post (r.addr + 0x2C) (leBytes 4 (usBetween r.start (s.core c).time))) :=
      noted_post (k.of_linkUp rfl : v.Reached r.addr h 64) (by simp) (by decide)
    have ends (cut : Bool) : ∃ t, s.testEnd c res cut = t ∧ t.testQueue c = [] ∧ (t.pc r.target).borrowed = false ∧
        (t.mem.read (hostKey (h + 0x20))).toNat = Status.ok.code ∧ (t.mem.read (hostKey (h + 0x22))).toNat = b2n cut ∧
        bitAt (t.ev evPtn).value 8 = true ∧
        t = { s with tests := t.tests, pcs := t.pcs, mem := t.mem, events := t.events, plk := t.plk, out := t.out } := by
      have does := testEnd_pc k queue rfl kind runs proc none_ res cut
      obtain ⟨noted, code, detail⟩ := testFinal_spec ((k.of_linkUp rfl : v.Reached r.addr h 64).of_linkUp timed.link) .ok (d := b2n cut) (by cases cut <;> decide)
      obtain ⟨m, p, o, frame⟩ := (timed.trans noted).frame
      have frame' := congrArg (State.setTests · c []) frame
      obtain ⟨es, p', o', eq, told⟩ := raised_of_frame 8 does frame'
      rw [frame] at code detail
      refine ⟨_, eq, tgetD_tput_same .., congrArg Pc.borrowed (setPc_pc s r.target { s.pc r.target with borrowed := false }), code, detail, ?_, rfl⟩
      rw [← eq]
      exact told
    refine ⟨?_, ?_⟩
    · obtain ⟨t, does, queue, back, code, detail, told, frame⟩ := ends true
      exact ⟨t, act_eq_next (f := fun s => s.testEnd c res true) live does (congrArg State.pending frame :) (congrArg State.variant frame :),
        queue, back, code, detail, told, frame⟩
    · obtain ⟨t, does, queue, back, code, detail, told, frame⟩ := ends false
      exact ⟨t, act_eq_next (f := fun s => s.testEnd c res false) live does (congrArg State.pending frame :) (congrArg State.variant frame :),
        queue, back, code, detail, told, frame⟩

end Sys2Proof.Machine
end

section
/-! SUPPORT. A unit that begins a ready command, its channel, and its stores into scratchpad (R30, R154). -/

set_option Elab.async false

namespace Sys2Proof.Machine

namespace State

variable {s t : State} {c q : Nat} {idx : Word} {y : Cmd}

/-! ### A command that is ready -/

/-- A unit begins the command that is ready for it. -/
theorem unitStart_ready {op : Nat} {doms : List Nat} (ready : s.ready op c q idx y doms) (body : State → Cmd → At → State) :
    s.unitStart op c q idx doms body = body s y (atCmd c q y) := by
  obtain ⟨-, hold, here, free, unstarted, unended, kind, running, clear, arrays, doms_, access⟩ := ready
  have dealt : (decide (op ≤ 6) && (s.cmdArrays c q).isEmpty) = false := by
    by_cases low : op ≤ 6
    · rw [decide_eq_true low, Bool.true_and, List.isEmpty_eq_false_iff]
      exact arrays low
    · rw [decide_eq_false low, Bool.false_and]
  have open_ : (doms.find? fun d => !s.isOpen d) = none := List.find?_eq_none.mpr fun d mem => by simp [doms_ d mem]
  unfold unitStart
  rw [here]
  dsimp only
  rw [if_neg (by rw [dealt]; simp [hold, free, unstarted, unended, kind, running, clear]), open_]
  dsimp only
  rw [access]

/-- A channel that is open, with its slice, lets a command act that has not waited for it. -/
theorem withChan_open {i : Nat} {ch : Channel} (there : tget s.channels i = some ch) (opened : ch.state = .opened)
    (slice : s.isOpen (sramDomain ch.placement) = true) (here : s.cmd c q idx = some y) (fresh : y.waitFrom = none) (put : Bool)
    (body : State → State) : s.withChan c q idx i put true body = body s := by
  have status : s.chanStatus i put = none := by
    unfold chanStatus
    rw [there]
    dsimp only
    rw [if_neg (by simp [slice]), opened, if_neg (by decide), if_neg (by simp)]
  have acts : s.chanActs i put = true := by
    unfold chanActs
    rw [there]
    dsimp only
    rw [opened]
    rfl
  have waited : s.chanWaited c q idx i put = s := by
    unfold chanWaited
    rw [there, here]
    dsimp only
    rw [fresh]
  unfold withChan
  rw [status, acts, waited]
  rfl

/-- What a modified command is. -/
theorem cmdIs_modCmd (here : s.cmd c q idx = some y) {f : Cmd → Cmd} (index : ∀ z, (f z).index = z.index) {P : Cmd → Bool} (holds : P (f y) = true) :
    (s.modCmd c q idx f).cmdIs c q idx P := by
  show ((s.modCmd c q idx f).cmd c q idx).any P = true
  rw [cmd_modCmd index, here]
  exact holds

/-! ### Stores into scratchpad -/

/-- A scratchpad byte has no copy-on-write. -/
theorem putKey_scr {k : Nat} (scr : 2 ^ 60 ≤ k) (l : List Byte) : s.putKey c q idx k l = { s with mem := s.mem.writeAll k l } := by
  unfold putKey dirtied
  rw [if_neg fun h => Nat.not_lt.mpr scr h.1, if_pos (.inl scr)]

theorem putRow_scr {row : RowAt} {off k fuel : Nat} {l : List Byte} (at_ : row off = some k) (scr : 2 ^ 60 ≤ k) :
    s.putRow c q idx row off l (fuel + 1) = { s with mem := s.mem.writeAll k l } := by
  cases l with
  | nil =>
    unfold putRow
    rfl
  | cons b r =>
    have nil (t : State) (o f : Nat) : t.putRow c q idx row o [] f = t := by
      cases f <;> rfl
    unfold putRow
    rw [at_]
    dsimp only
    rw [if_neg (Nat.not_lt.mpr scr), List.take_length, List.drop_length, nil, putKey_scr scr]

theorem scrKey_le (ptn die k : Nat) : 2 ^ 60 ≤ scrKey ptn die k := by
  unfold scrKey
  omega

/-- Bytes of a unit to a scratchpad. -/
theorem putBytes_scr {ptn die a n d k : Nat} {w : Bool} {l : List Byte} (addr : parseAddr a = .scr w d n) (scr : 2 ^ 60 ≤ k)
    (lies : s.lies ptn die a l.length k) : s.putBytes c q idx ptn die a l = { s with mem := s.mem.writeAll k l } := by
  unfold putBytes
  rw [addr]
  cases l with
  | nil => rfl
  | cons b r => exact putRow_scr (lies 0 (Nat.succ_pos _)) scr

/-- What a store of bytes reads as. -/
theorem stores_writeAll (k : Nat) (l : List Byte) (mem : t.mem = s.mem.writeAll k l) : s.stores t k l := by
  refine ⟨?_, fun a out => ?_⟩
  · rw [mem]
    refine List.ext_getElem (readAll_length ..) fun i _ short => ?_
    rw [readAll_getElem]
    exact Memory.read_writeAll _ _ _ short
  · rw [mem]
    exact Memory.read_writeAll_ne _ _ out

/-- Bytes read where an operand lies. -/
theorem readBytes_lies {ptn die a n k : Nat} (lies : s.lies ptn die a n k) : s.readBytes ptn die a n = s.mem.readAll k n := by
  unfold readBytes Memory.readAll
  refine List.map_congr_left fun i mem => ?_
  unfold readAt
  rw [lies i (List.mem_range.mp mem)]

end State

/-- A scratchpad's address: its space, its reserved bits, its die and its offset. -/
theorem parseAddr_eq_scr {a d n : Nat} {w : Bool} (e : parseAddr a = .scr w d n) :
    a < 2 ^ 64 ∧ fld a 63 62 = 1 ∧ fld a 61 52 = 0 ∧ fld a 47 27 = 0 ∧ w = bitAt a 51 ∧ d = fld a 50 48 ∧ n = fld a 26 0 := by
  unfold parseAddr at e
  split at e
  · cases e
  next short =>
    split at e
    · split at e <;> cases e
    · next space =>
      split at e
      · next reserved =>
        cases e
        exact ⟨by omega, space, reserved.1, reserved.2, rfl, rfl, rfl⟩
      · cases e
    · split at e <;> cases e
    · cases e

/-- The bytes that follow in a scratchpad. -/
theorem parseAddr_scr_add {a d n o : Nat} {w : Bool} (e : parseAddr a = .scr w d n) (inside : n + o < 2 ^ 27) :
    parseAddr (a + o) = .scr w d (n + o) := by
  obtain ⟨short, space, reserved, between, rfl, rfl, rfl⟩ := parseAddr_eq_scr e
  have own : fld (a + o) 26 0 = fld a 26 0 + o := by
    unfold fld at *
    omega
  have space' : fld (a + o) 63 62 = 1 := by
    unfold fld at *
    omega
  have reserved' : fld (a + o) 61 52 = 0 := by
    unfold fld at *
    omega
  have between' : fld (a + o) 47 27 = 0 := by
    unfold fld at *
    omega
  have die : fld (a + o) 50 48 = fld a 50 48 := by
    unfold fld at *
    omega
  have local_ : bitAt (a + o) 51 = bitAt a 51 := by
    unfold bitAt fld at *
    congr 1
    omega
  unfold parseAddr
  rw [if_neg (by unfold fld at *; omega), space']
  exact (if_pos ⟨reserved', between'⟩).trans (by rw [own, die, local_])

/-- The byte past a scratchpad. -/
theorem parseAddr_scr_end {a d n : Nat} {w : Bool} (e : parseAddr a = .scr w d n) : n < 2 ^ 27 ∧ parseAddr (a + (2 ^ 27 - n)) = .bad := by
  obtain ⟨short, space, reserved, between, rfl, rfl, rfl⟩ := parseAddr_eq_scr e
  have small : fld a 26 0 < 2 ^ 27 := Nat.mod_lt _ (by decide)
  have space' : fld (a + (2 ^ 27 - fld a 26 0)) 63 62 = 1 := by
    unfold fld at *
    omega
  have between' : fld (a + (2 ^ 27 - fld a 26 0)) 47 27 ≠ 0 := by
    unfold fld at *
    omega
  refine ⟨small, ?_⟩
  unfold parseAddr
  rw [if_neg (by unfold fld at *; omega), space']
  exact if_neg fun h => between' h.2

namespace State

variable {s t : State} {c q : Nat} {idx : Word} {y : Cmd}

/-- Where an operand lies in a scratchpad, each of its bytes has an address there. -/
theorem parseAddr_lies {ptn die a d n m o p e k : Nat} {w : Bool} (addr : parseAddr a = .scr w d n) (lies : s.lies ptn die a m (scrKey p e k))
    (inside : o < m) : parseAddr (a + o) = .scr w d (n + o) := by
  obtain ⟨small, over_⟩ := parseAddr_scr_end addr
  refine parseAddr_scr_add addr ?_
  by_contra past
  have there := lies (2 ^ 27 - n) (by omega)
  unfold key at there
  rw [over_] at there
  cases there

/-- A part of an operand. -/
theorem lies_add {ptn die a m k o n : Nat} (lies : s.lies ptn die a m k) (inside : o + n ≤ m) : s.lies ptn die (a + o) n (k + o) := by
  intro j short
  rw [Nat.add_assoc, Nat.add_assoc]
  exact lies (o + j) (by omega)

end State

theorem packGroup_pos (fmt : Nat) : 0 < (packGroup fmt).1 ∧ 0 < (packGroup fmt).2 := by
  have named : ∀ f < 14, 0 < (packGroup f).1 ∧ 0 < (packGroup f).2 := by decide
  by_cases small : fmt < 14
  · exact named fmt small
  · have wide : fmtBits fmt = 48 := by
      unfold fmtBits
      split <;> simp at small ⊢
    unfold packGroup
    split
    · decide
    · decide
    · decide
    · decide
    · rw [wide]
      decide

/-- Elements from the start of a row fill its first bytes. -/
theorem elemRun_start (rd : Nat → Byte) (fmt cols : Nat) {vs : List Nat} (some_ : vs ≠ []) :
    (elemRun rd fmt cols 0 vs).1 = 0 ∧ (elemRun rd fmt cols 0 vs).2.length = rowBytes fmt vs.length := by
  have pos := List.length_pos_iff.mpr some_
  have group := (packGroup_pos fmt).1
  unfold elemRun
  refine ⟨by simp, ?_⟩
  simp only [List.length_flatMap, leBytes_length, List.map_const', List.sum_replicate, List.length_range, Nat.zero_div, Nat.zero_add,
    Nat.sub_zero, smul_eq_mul]
  unfold rowBytes ceilDiv
  rw [show vs.length + (packGroup fmt).1 - 1 = vs.length - 1 + (packGroup fmt).1 by omega, Nat.add_div_right _ group]

theorem rowBytes_pos {fmt n : Nat} (pos : 0 < n) : 0 < rowBytes fmt n := by
  obtain ⟨group, bytes⟩ := packGroup_pos fmt
  unfold rowBytes ceilDiv
  exact Nat.mul_pos (Nat.div_pos (by omega) group) bytes

namespace State

variable {s t : State} {c q : Nat} {idx : Word} {y : Cmd}

/-- A row of a result that goes to a scratchpad. -/
theorem putDest_scr {ptn die n p e k rows fmt cols r : Nat} {w : Bool} {d : Desc} (addr : parseAddr d.addr = .scr w e n)
    (lies : s.lies ptn die d.addr ((rows - 1) * d.pitch fmt + rowBytes fmt cols) (scrKey p e k)) (row : r < rows) {vs : List Nat}
    (long : vs.length = cols) : ∃ l : List Byte, l.length ≤ rowBytes fmt cols ∧
      s.putDest c q idx ptn die (.mem d) fmt cols r 0 vs = { s with mem := s.mem.writeAll (scrKey p e k + r * d.pitch fmt) l } := by
  unfold putDest
  split
  · exact ⟨[], Nat.zero_le _, rfl⟩
  · next some_ =>
    dsimp only
    obtain ⟨start, length⟩ := elemRun_start (s.seenByte (s.memRow ptn die d fmt r)) fmt cols some_
    rw [start, Nat.add_zero]
    rw [long] at length
    generalize (elemRun _ fmt cols 0 vs).2 = l at length
    have fits : r * d.pitch fmt ≤ (rows - 1) * d.pitch fmt := Nat.mul_le_mul_right _ (by omega)
    have sub := lies_add lies (o := r * d.pitch fmt) (n := rowBytes fmt cols) (by omega)
    rw [← length] at sub
    refine ⟨l, length.le, ?_⟩
    have pos : 0 < rowBytes fmt cols := rowBytes_pos (long ▸ List.length_pos_iff.mpr some_)
    exact putBytes_scr (parseAddr_lies addr lies (by omega)) ((scrKey_le ..).trans (Nat.le_add_right ..)) sub

end State

end Sys2Proof.Machine
end

section
/-! O44. SPUT, STAKE, LOSS and DMA run (R171 to R174). -/

set_option Elab.async false

namespace Sys2Proof.Machine

theorem parseAddr_host_lt {a h : Nat} (e : parseAddr a = .host h) : h < 2 ^ 56 := (parseAddr_eq_host e).2

namespace State

variable {s t : State} {c q : Nat} {idx : Word} {y : Cmd} {x : At}

/-! ### What firmware reads lies below the Sorus blocks -/

/-- A page's frame is one of the 512 pseudo-channels'. -/
theorem pageFrame_small {p v f : Nat} (there : s.pageFrame p v = some f) : f < 2 ^ 25 := by
  unfold pageFrame at there
  split at there
  · next part _ =>
    obtain ⟨⟨g, n⟩, place, rfl⟩ := Option.map_eq_some_iff.mp there
    obtain ⟨page, own, rfl⟩ := Partition.locate_eq_some place
    have pc : g < 512 := List.mem_range.mp (List.mem_filter.mp (List.mem_of_getElem? own)).1
    have frame : v / part.pcList.length < framesPerPc := Nat.div_lt_of_lt_mul page
    unfold frameNo framesPerPc at *
    dsimp only
    omega
  · cases there

/-- Firmware's addresses have keys below the Sorus blocks'. -/
theorem key_lt_sorKey {a k : Nat} (there : s.key 0 0 a = some k) : k < 2 ^ 68 := by
  unfold key at there
  split at there
  · obtain ⟨f, frame, rfl⟩ := Option.map_eq_some_iff.mp there
    have small := pageFrame_small frame
    unfold hbmKey
    omega
  · next l d off addr =>
    obtain ⟨-, -, -, -, -, die, own⟩ := parseAddr_eq_scr addr
    have low : d < 8 := by
      rw [die]
      exact Nat.mod_lt _ (by decide)
    have small : off < 2 ^ 27 := by
      rw [own]
      exact Nat.mod_lt _ (by decide)
    have die : (if l = true then 0 else d) < 8 := by split <;> omega
    dsimp only at there
    generalize (if l = true then 0 else d) = n at there die
    split at there
    · split at there
      · rw [← Option.some.inj there]
        unfold scrKey
        omega
      · cases there
    · cases there
  · next h addr =>
    cases there
    have small := parseAddr_host_lt addr
    unfold hostKey
    omega
  · cases there

/-- Firmware reads the same where only Sorus blocks have changed. -/
theorem fwRead_below {m : Memory} (below : ∀ k, k < 2 ^ 68 → m.read k = s.mem.read k) (a n : Nat) :
    ({ s with mem := m } : State).fwRead a n = s.fwRead a n := by
  unfold fwRead readBytes
  refine List.map_congr_left fun i _ => ?_
  unfold readAt
  have same : ({ s with mem := m } : State).key 0 0 (a + i) = s.key 0 0 (a + i) := rfl
  rw [same]
  cases there : s.key 0 0 (a + i) with
  | none => rfl
  | some k => exact below k (key_lt_sorKey there)

theorem runsWide_below {m : Memory} (below : ∀ k, k < 2 ^ 68 → m.read k = s.mem.read k) (c : Nat) :
    ({ s with mem := m } : State).runsWide c = s.runsWide c := by
  unfold runsWide layerAt
  refine List.any_congr rfl fun i => ?_
  rw [fwRead_below below]
  rfl

/-! ### SPUT -/

theorem padTokens_eq (s : State) (i k : Nat) (ch : Channel) (lo hi : Nat) : ∃ m, s.padTokens i k ch lo hi = { s with mem := m } ∧
    ∀ a, a < sorKey i k (lo * ch.tokenBytes) → m.read a = s.mem.read a := by
  refine ⟨_, rfl, fun a below => ?_⟩
  refine List.foldlRecOn (motive := fun m : Memory => m.read a = s.mem.read a) _ _ rfl fun m same n _ => ?_
  rw [Memory.read_writeAll_ne _ _ (.inl ?_)]
  · exact same
  · have more : lo * ch.tokenBytes ≤ (lo + n) * ch.tokenBytes := Nat.mul_le_mul_right _ (Nat.le_add_right ..)
    unfold sorKey at *
    omega

/-- The block that a commit makes of the slot being filled. -/
def committed (s : State) (c q cursor valid : Nat) (last : Bool) (ch : Channel) (sl : SorSlot) : SorSlot :=
  { sl with
    state := .full, cursor := BitVec.ofNat 64 cursor, step := (s.ctx c).step, seq := ch.nextSeq, valid := valid
    flags := b2n (ch.escalated || s.runsWide c) + 2 * b2n last, epoch := s.producerEpoch c q
    producer := BitVec.ofNat 32 (s.ctxHandle c), discard := false }

theorem chanCommit_eq {i k : Nat} {ch : Channel} (there : tget s.channels i = some ch) (noskip : ch.skip = 0)
    (filling : ch.find .filling = some k) (cursor valid : Nat) (last : Bool) : ∃ marks, s.chanCommit i c q idx cursor valid last =
      s.setChan i { ch.setSlot k (s.committed c q cursor valid last ch) with nextSeq := ch.nextSeq + 1, escalated := false, marks := marks } := by
  unfold chanCommit
  rw [there]
  dsimp only
  rw [if_neg (by omega), filling]
  exact ⟨_, rfl⟩

theorem find_getD {ch : Channel} {k : Nat} {st : SorSlotState} (found : ch.find st = some k) :
    k < ch.slots.length ∧ (ch.slots.getD k SorSlot.reset).state = st :=
  ⟨List.mem_range.mp (List.mem_of_find?_eq_some found), by simpa using List.find?_some found⟩

theorem runSput_commit {i k : Nat} {d : Desc} {ch : Channel} (there : tget s.channels i = some ch) (noskip : ch.skip = 0)
    (alone : x.d 25 = 0) (commit : x.b 43 = true) (filling : ch.find .filling = some k) : ∃ m cursor body top,
      s.runSput c q idx x d i = (({ s with mem := m } : State).chanCommit i c q idx cursor (x.f 54 45 + 1) (x.b 44)).modCmd c q idx
        (fun y => { y with body := body, maxExp := top, result := some .ok }) ∧
      ∀ a, a < sorKey i k ((x.f 54 45 + 1) * ch.tokenBytes) → m.read a = s.mem.read a := by
  have none_ : s.opd x 25 [0] = none := by
    unfold opd desc
    rw [alone]
    exact if_pos rfl
  unfold runSput
  rw [there, none_]
  dsimp only
  rw [commit, there]
  simp only [Bool.not_true, Bool.false_eq_true, ↓reduceIte, Option.bind_some, noskip, Nat.lt_irrefl, filling, Option.map_some]
  by_cases skips : k = Channel.noSlot
  · rw [if_pos skips]
    exact ⟨s.mem, _, _, _, rfl, fun _ _ => rfl⟩
  · rw [if_neg skips]
    obtain ⟨m, padded, below⟩ := s.padTokens_eq i k ch (x.f 54 45 + 1) (s.chanTokens ch)
    rw [padded]
    exact ⟨m, _, _, _, rfl, below⟩

/-! ### STAKE -/

theorem header_length (sl : SorSlot) : sl.header.length = 32 := by
  simp [SorSlot.header, zeros]

theorem runStake_eq {i k : Nat} {ch : Channel} {d : Desc} (there : tget s.channels i = some ch) (dest : s.opd x 25 [0] = some d)
    (block : stakeSlot x ch = some k) {n p e j : Nat} {w : Bool} (addr : parseAddr d.addr = .scr w e n)
    (lies : s.lies (s.ctx c).ptn (s.queueDie c q) d.addr (32 + ch.tokenBytes * s.chanTokens ch) (scrKey p e j)) : ∃ body,
    s.runStake c q idx x i = ({ s with mem := s.mem.writeAll (scrKey p e j) ((ch.slots.getD k SorSlot.reset).header ++
      s.mem.readAll (sorKey i k 0) (ch.tokenBytes * s.chanTokens ch)) } : State).modCmd c q idx fun y => { y with
        body := body, result := some .ok } := by
  unfold runStake
  rw [there, dest]
  dsimp only
  rw [block]
  dsimp only
  rw [putBytes_scr addr (scrKey_le ..) (by rw [List.length_append, header_length, readAll_length]; exact lies)]
  exact ⟨_, rfl⟩

/-! ### LOSS -/

/-- A command modified stays where it was, and its queue on its quadrants. -/
theorem modCmd_place (here : s.cmd c q idx = some y) {f : Cmd → Cmd} (index : ∀ z, (f z).index = z.index) :
    ((s.modCmd c q idx f).cmd c q idx).isSome = true ∧ (s.modCmd c q idx f).queueDie c q = s.queueDie c q := by
  refine ⟨by rw [cmd_modCmd index, here]; rfl, ?_⟩
  have quads : (s.modCmd c q idx f).queueQuads c q = s.queueQuads c q := by
    unfold queueQuads modCmd
    rw [queue_setQueue (queue_lt_of_cmd here)]
    dsimp only [setQueue]
    rw [setCtx_ctx]
  rw [queueDie, quads, queueDie]

theorem modCmd_final (here : t.cmd c q idx = some y) (frame : t = { s with mem := t.mem, contexts := t.contexts }) {f : Cmd → Cmd}
    (index : ∀ z, (f z).index = z.index) : ∃ ks, t.modCmd c q idx f = { s with mem := t.mem, contexts := ks } ∧
      ({ s with mem := t.mem, contexts := ks } : State).cmd c q idx = some (f y) := by
  have eq : t.modCmd c q idx f = { s with mem := t.mem, contexts := (t.modCmd c q idx f).contexts } := by
    rw [modCmd_eq]
    generalize (t.modCmd c q idx f).contexts = ks
    rw [frame]
  refine ⟨_, eq, ?_⟩
  rw [← eq, cmd_modCmd index, here]
  rfl

theorem takeDraws_spec (here : s.cmd c q idx = some y) (n : Nat) : ∃ ks, s.takeDraws c q idx n = { s with contexts := ks } ∧
    ((s.takeDraws c q idx n).cmd c q idx).isSome = true ∧ (s.takeDraws c q idx n).queueDie c q = s.queueDie c q := by
  unfold takeDraws
  rw [here]
  dsimp only
  split
  · let u := s.setCtx c { s.ctx c with draws := (s.ctx c).draws + BitVec.ofNat 64 n }
    have queue (r : Nat) : u.queue c r = s.queue c r := by
      unfold State.queue u
      rw [setCtx_ctx]
    have there : u.cmd c q idx = some y := by
      rw [cmd, queue]
      exact here
    have die : u.queueDie c q = s.queueDie c q := by
      unfold queueDie queueQuads
      rw [queue]
      unfold u
      rw [setCtx_ctx]
    obtain ⟨stays, place⟩ := modCmd_place there (f := fun z => { z with draws := some (s.ctx c).draws }) fun _ => rfl
    exact ⟨_, rfl, stays, place.trans die⟩
  · exact ⟨s.contexts, rfl, by rw [here]; rfl, rfl⟩

/-- The gradients of a loss, row by row, go to their operand and nowhere else. -/
theorem putDests_scr {ptn die n p e k rows fmt cols : Nat} {w : Bool} {g : Desc} (addr : parseAddr g.addr = .scr w e n)
    (place : s.queueDie c q = die)
    (lies : s.lies ptn die g.addr ((rows - 1) * g.pitch fmt + rowBytes fmt cols) (scrKey p e k)) {α : Type} (f : α → List Nat)
    (l : List (α × Nat)) (inside : ∀ r ∈ l, r.2 < rows ∧ (f r.1).length = cols) : ∃ m,
    l.foldl (fun s r => s.putDest c q idx ptn (s.queueDie c q) (.mem g) fmt cols r.2 0 (f r.1)) s = { s with mem := m } ∧
      ∀ a, a < scrKey p e k ∨ scrKey p e k + ((rows - 1) * g.pitch fmt + rowBytes fmt cols) ≤ a → m.read a = s.mem.read a := by
  refine List.foldlRecOn (motive := fun t : State => ∃ m, t = { s with mem := m } ∧
    ∀ a, a < scrKey p e k ∨ scrKey p e k + ((rows - 1) * g.pitch fmt + rowBytes fmt cols) ≤ a → m.read a = s.mem.read a) l _
    ⟨s.mem, rfl, fun _ _ => rfl⟩ ?_
  rintro _ ⟨m, rfl, same⟩ r mem
  obtain ⟨row, long⟩ := inside r mem
  have die_ : ({ s with mem := m } : State).queueDie c q = die := place
  rw [die_]
  obtain ⟨bytes, short, put⟩ := putDest_scr (s := { s with mem := m }) (c := c) (q := q) (idx := idx) addr lies row long
  refine ⟨_, put, fun a out => ?_⟩
  have fits : r.2 * g.pitch fmt ≤ (rows - 1) * g.pitch fmt := Nat.mul_le_mul_right _ (by omega)
  rw [Memory.read_writeAll_ne _ _ (by omega)]
  exact same a out

theorem le_at {l front rest : List Byte} {n v k : Nat} (cut : l = front ++ (leBytes n v ++ rest)) (long : front.length = k) :
    le l k n = v % 256 ^ n := by
  subst long
  rw [cut, le_append]

/-- What LOSS reports of its tokens (R38, R170): the mean loss, their number and its result. -/
def LossReport (tx2 : Bool) (tokens : List TokenLoss) (z : Cmd) : Prop :=
  (z.result = some .ok ∨ z.result = some .nonfiniteStep) ∧ z.body.length = 24 ∧
    z.body.take 4 = leBytes 4 (f32Bits (subRule tx2 (fdiv (subRule tx2 (f32 (p48Sum (tokens.map (·.loss))))) (Num.ofNat tokens.length)))) ∧
    le z.body 16 2 = tokens.length % 2 ^ 16

theorem span_rows {g : Desc} (fmt : Nat) (plain : g.layout = 0) (pos : 0 < g.rows) :
    g.span fmt = (g.rows - 1) * g.pitch fmt + rowBytes fmt g.cols := by
  unfold Desc.span
  rw [plain]
  exact if_neg (by omega)

theorem lossResult_spec (here : s.cmd c q idx = some y) {i width n p e o : Nat} {w : Bool} {ch : Channel} {sl : SorSlot} {g : Desc}
    (grads : s.opd x 43 [0] = some g) (cols : g.cols = width) (plain : g.layout = 0) (tokens : List TokenLoss) (pos : tokens ≠ [])
    (rows : g.rows = tokens.length) (addr : parseAddr g.addr = .scr w e n)
    (lies : s.lies (s.ctx c).ptn (s.queueDie c q) g.addr (g.span (x.f 72 69)) (scrKey p e o)) : ∃ m ks,
    s.lossResult c q idx x i ch sl width (tokens.map some) false = { s with mem := m, contexts := ks } ∧
      (∀ a, a < scrKey p e o ∨ scrKey p e o + g.span (x.f 72 69) ≤ a → m.read a = s.mem.read a) ∧
      ∃ z, ({ s with mem := m, contexts := ks } : State).cmd c q idx = some z ∧ LossReport (s.ctx c).tx2 tokens z := by
  obtain ⟨ks, drawn, stays, place⟩ := takeDraws_spec here ((tokens.map some).length * width)
  obtain ⟨z, there⟩ := Option.isSome_iff_exists.mp stays
  unfold lossResult
  rw [grads]
  dsimp -zeta only
  extract_lets k f good nv num tensor s0 base d grad s1 bad sum mean body vals
  have taken : s0 = { s with contexts := ks } := drawn
  have there : s0.cmd c q idx = some z := there
  have place : s0.queueDie c q = s.queueDie c q := place
  clear_value s0
  have good_ : good = tokens := by
    simp [good]
  have many : 0 < tokens.length := List.length_pos_iff.mpr pos
  rw [span_rows _ plain (by omega), cols, rows] at lies ⊢
  have own : s0.lies k.ptn (s.queueDie c q) g.addr ((tokens.length - 1) * g.pitch (x.f 72 69) + rowBytes (x.f 72 69) width)
      (scrKey p e o) := by
    rw [taken]
    exact lies
  obtain ⟨m, put, same⟩ := putDests_scr (c := c) (q := q) (idx := idx) addr place own (fun r => r.map (·.1)) grad.zipIdx fun r mem => by
    obtain ⟨low, value⟩ := List.mem_zipIdx' mem
    unfold grad at low value
    constructor
    · simpa using low
    · rw [value]
      simp
  have last : s1 = { s0 with mem := m } := put
  clear_value s1
  subst last
  have stays : ({ s0 with mem := m } : State).cmd c q idx = some z := there
  obtain ⟨ks', ended, final⟩ := modCmd_final (s := s) stays (by rw [taken]) (f := fun y => { y with
    started := true, body := body, maxExp := maxExpOf vals,
    result := some (if bad then .nonfiniteStep else if false then .accOverflow else .ok) }) fun _ => rfl
  refine ⟨m, ks', ended, by rw [taken] at same; exact same, _, final, ?_, ?_, ?_, ?_⟩
  · dsimp only
    by_cases worse : bad = true
    · exact .inr (by rw [if_pos worse])
    · exact .inl (by rw [if_neg worse, if_neg (by decide)])
  · simp [body, leBytes_length]
  · have four : body.take 4 = leBytes 4 (f32Bits mean) := by
      unfold body
      simp only [List.append_assoc]
      exact List.take_left' (leBytes_length ..)
    rw [four]
    unfold mean sum nv num nv
    rw [good_, if_neg (by omega)]
  · have cut : body = (leBytes 4 (f32Bits mean) ++ leBytes 4 (f32Bits (sum (·.kl))) ++ leBytes 4 (f32Bits (sum (·.ce))) ++
        leBytes 4 (f32Bits (if ch.feature then sum (·.loss) else Num.zero))) ++ (leBytes 2 nv ++
        (leBytes 2 sl.flags ++ leBytes 4 sl.seq.toNat)) := by
      simp only [body, List.append_assoc]
    have sixteen : (leBytes 4 (f32Bits mean) ++ leBytes 4 (f32Bits (sum (·.kl))) ++ leBytes 4 (f32Bits (sum (·.ce))) ++
        leBytes 4 (f32Bits (if ch.feature then sum (·.loss) else Num.zero))).length = 16 := by
      simp only [List.length_append, leBytes_length]
    exact (le_at cut sixteen).trans (by unfold nv; rw [good_, show 256 ^ 2 = 2 ^ 16 by decide])

/-- The tokens of a feature block against the operand's rows (R38). -/
def featureTokens (s : State) (ptn die : Nat) (tx2 : Bool) (x : At) (h : Desc) (i k : Nat) (ch : Channel) : List TokenLoss :=
  (List.range h.rows).map fun u => featureToken tx2 (f32Of ch.gamma)
    ((List.range ch.width).map fun j => decodeElem (x.f 64 61) tx2 (s.elem (s.memRow ptn die h (x.f 64 61) u) (x.f 64 61) j))
    ((List.range ch.width).map fun j => decodeElem 4 tx2 (getElem (fun o =>
      (s.mem.readAll (sorKey i k (u * ch.tokenBytes)) ch.tokenBytes).getD o 0) 4 j))

theorem runLoss_feature (here : s.cmd c q idx = some y) {i k n p e o : Nat} {w : Bool} {ch : Channel} {h g : Desc}
    (there : tget s.channels i = some ch) (operand : s.opd x 25 [0] = some h)
    (grads : s.opd x 43 [0] = some g) (feature : ch.feature = true) (oldest : ch.oldestFull = some k)
    (valid : (ch.slots.getD k SorSlot.reset).valid = h.rows) (pos : 0 < h.rows)
    (rows : g.rows = h.rows) (cols : g.cols = ch.width) (plain : g.layout = 0) (addr : parseAddr g.addr = .scr w e n)
    (lies : s.lies (s.ctx c).ptn (s.queueDie c q) g.addr (g.span (x.f 72 69)) (scrKey p e o)) : ∃ m ks,
    s.runLoss c q idx x i = { s.setChan i (ch.setSlot k fun y => { y with state := .consuming }) with mem := m, contexts := ks } ∧
      (∀ a, a < scrKey p e o ∨ scrKey p e o + g.span (x.f 72 69) ≤ a → m.read a = s.mem.read a) ∧
      ∃ z, ({ s.setChan i (ch.setSlot k fun y => { y with state := .consuming }) with mem := m, contexts := ks } : State).cmd c q idx = some z ∧
        LossReport (s.ctx c).tx2 (s.featureTokens (s.ctx c).ptn (s.queueDie c q) (s.ctx c).tx2 x h i k ch) z := by
  let u := s.setChan i (ch.setSlot k fun y => { y with state := .consuming })
  have run : s.runLoss c q idx x i = u.lossResult c q idx x i ch (ch.slots.getD k SorSlot.reset) ch.width
      ((s.featureTokens (s.ctx c).ptn (s.queueDie c q) (s.ctx c).tx2 x h i k ch).map some) false := by
    unfold runLoss
    rw [there, operand, grads]
    dsimp only
    rw [oldest]
    dsimp only
    rw [if_pos feature, valid]
    congr 1
    unfold featureTokens
    rw [List.map_map]
    refine List.map_congr_left fun v mem => ?_
    exact if_pos (List.mem_range.mp mem)
  rw [run]
  refine lossResult_spec (s := u) here grads cols plain _ ?_ ?_ addr lies
  · simpa [featureTokens, List.range_eq_nil] using pos.ne'
  · rw [rows]
    simp [featureTokens]

/-! ### DMA -/

theorem runDma_record {a d : Desc} {m n p e o k : Nat} {w : Bool} (source : s.opd x 16 [0] = some a) (dest : s.opd x 25 [0] = some d)
    (records : d.layout = 3) (copy : x.f 45 43 = 0) (one_ : s.dmaRows x = 1)
    (first_ : x.f 73 50 = 0) (place : x.f 121 98 = 0) (addr : parseAddr d.addr = .scr w n o)
    (into_ : s.lies (s.ctx c).ptn (s.dmaDie x) d.addr (16 * d.cols) (scrKey p e k))
    (from_ : s.lies (s.ctx c).ptn (s.dmaDie x) a.addr (16 * d.cols) m) : ∃ top, s.runDma c q idx x =
      ({ s with mem := s.mem.writeAll (scrKey p e k) (s.mem.readAll m (16 * d.cols)) } : State).modCmd c q idx fun y =>
        { y with moved := 16 * d.cols, maxExp := top, result := some .ok } := by
  have copied : s.dmaCopy c q idx (s.ctx c).ptn (s.dmaDie x) a d (x.f 49 46) 0 0 1 =
      { s with mem := s.mem.writeAll (scrKey p e k) (s.mem.readAll m (16 * d.cols)) } := by
    unfold dmaCopy
    rw [if_neg (by omega)]
    show s.dmaMove c q idx (s.ctx c).ptn (s.dmaDie x) a d (x.f 49 46) 0 0 = _
    unfold dmaMove
    rw [if_neg (by omega), if_pos records, Nat.zero_mul, Nat.zero_mul, Nat.add_zero, Nat.add_zero, readBytes_lies from_,
      putBytes_scr addr (scrKey_le ..) (by rw [readAll_length]; exact into_)]
  have whole (rows : Nat) : s.wholeFrames x d rows = [] := by
    unfold wholeFrames
    rw [addr]
  have moved : dmaBytes d (x.f 49 46) 1 = 16 * d.cols := by
    unfold dmaBytes
    rw [records]
    exact Nat.mul_assoc 1 16 d.cols |>.trans (Nat.one_mul _)
  unfold runDma
  rw [source, dest]
  dsimp only
  rw [copy, one_, first_, place, whole, copied, moved]
  exact ⟨_, rfl⟩

theorem lineReads_eq (s : State) (ptn k n : Nat) : s.lineReads ptn k n = { s with lines := (s.lineReads ptn k n).lines } := by
  unfold lineReads
  split
  · rfl
  · exact foldl_lines (fun s i => lineAccess_eq ..) _ s

theorem readLines_eq (s : State) (x : At) : s.readLines x = { s with lines := (s.readLines x).lines } := by
  refine foldl_lines (fun s p => ?_) _ s
  split
  · rfl
  · split
    · split
      · refine foldl_lines (fun s v => ?_) _ s
        split
        · exact lineReads_eq ..
        · rfl
      · rfl
    · rfl

theorem takeEngine_alone {e : Nat} (alone : (s.dmaE e).waits = []) : ∃ z, s.takeEngine e c q idx = s.setDmaE e z := by
  unfold takeEngine
  extract_lets z id waits u
  have none_ : waits = [] := by
    unfold waits z
    rw [alone]
    rfl
  clear_value waits
  subst none_
  exact ⟨_, rfl⟩

theorem countDma_ok {e : Nat} (here : t.cmd c q idx = some y) (ok : y.result = some .ok) :
    t.countDma e c q idx = t.setDmaE e { t.dmaE e with bytes := y.moved } := by
  unfold countDma
  rw [here]
  dsimp only
  rw [if_neg (by simp [ok])]
  rfl

theorem stepDma_record {e : Nat} (engine : s.dmaEngine (atCmd c q y) = e) (ready : s.ready 10 c q idx y [engineDomain e])
    (free : s.engineFree e c q idx = true) (alone : (s.dmaE e).waits = []) (near : s.hostSpans (atCmd c q y) = []) {l : List Byte} {k : Nat}
    (run : ∀ ls ds, ∃ top, ({ s with lines := ls, dmas := ds } : State).runDma c q idx (atCmd c q y) =
      ({ s with lines := ls, dmas := ds, mem := s.mem.writeAll k l } : State).modCmd c q idx fun y =>
        { y with moved := l.length, maxExp := top, result := some .ok }) :
    ∃ ls z ks top, s.stepDma c q idx = { s with mem := s.mem.writeAll k l, lines := ls, contexts := ks
                                                dmas := tput (tput s.dmas e z) e { z with bytes := l.length } } ∧
      (s.stepDma c q idx).cmd c q idx = some { y with moved := l.length, maxExp := top, result := some .ok } := by
  have ⟨_, _, here, _, unstarted, _⟩ := ready
  obtain ⟨z, taken⟩ := takeEngine_alone (c := c) (q := q) (idx := idx) alone
  have near' : (s.setDmaE e z).hostSpans (atCmd c q y) = [] := near
  obtain ⟨ls, lines⟩ : ∃ ls, (s.setDmaE e z).readLines (atCmd c q y) = { s.setDmaE e z with lines := ls } := ⟨_, readLines_eq ..⟩
  obtain ⟨top, ran⟩ := run ls (tput s.dmas e z)
  let w : State := { s with lines := ls, dmas := tput s.dmas e z, mem := s.mem.writeAll k l }
  obtain ⟨ks, ended, final⟩ := modCmd_final (s := w) (t := w) (y := y) here rfl (f := fun y =>
    { y with moved := l.length, maxExp := top, result := some .ok }) fun _ => rfl
  have counted : (({ s.setDmaE e z with lines := ls } : State).runDma c q idx (atCmd c q y)).countDma e c q idx =
      ({ w with contexts := ks } : State).setDmaE e { z with bytes := l.length } := by
    rw [show ({ s.setDmaE e z with lines := ls } : State) = { s with lines := ls, dmas := tput s.dmas e z } from rfl, ran]
    rw [show ({ s with lines := ls, dmas := tput s.dmas e z, mem := s.mem.writeAll k l } : State) = w from rfl, ended,
      countDma_ok final rfl]
    have own : ({ w with contexts := ks } : State).dmaE e = z := tgetD_tput_same ..
    rw [own]
  have body : s.stepDma c q idx = ({ w with contexts := ks } : State).setDmaE e { z with bytes := l.length } := by
    unfold stepDma
    rw [here]
    dsimp only
    rw [unstarted, if_neg Bool.false_ne_true, engine, unitStart_ready ready]
    rw [if_pos free, taken, near', lines, if_pos List.isEmpty_nil, counted]
    have ended : (({ w with contexts := ks } : State).setDmaE e { z with bytes := l.length }).cmd c q idx = some _ := final
    rw [ended]
    exact if_neg (by simp)
  exact ⟨ls, z, ks, top, body, by rw [body]; exact final⟩

/-! ### The four commands -/

theorem slot_setSlot {ch : Channel} {k : Nat} (there : k < ch.slots.length) (f : SorSlot → SorSlot) :
    (ch.setSlot k f).slots.getD k SorSlot.reset = f (ch.slots.getD k SorSlot.reset) := by
  have same := lmod_getElem? (i := k) (f := f) (List.getElem?_eq_getElem there)
  rw [if_pos rfl] at same
  show (lmod ch.slots k f).getD k SorSlot.reset = _
  rw [List.getD_eq_getElem?_getD, same, List.getD_eq_getElem _ _ there]
  rfl

theorem oldestFull_lt {ch : Channel} {k : Nat} (oldest : ch.oldestFull = some k) : k < ch.slots.length := by
  obtain ⟨n, low, rfl⟩ := List.mem_map.mp (List.mem_of_find?_eq_some oldest)
  exact Nat.mod_lt _ (Nat.zero_lt_of_lt (List.mem_range.mp low))

section

variable {d : Desc} {i : Nat} {ch : Channel}

theorem execSput_commits (fill : s.opd (atCmd c q y) 16 [2] = some d) (handle : s.chanOf d.handle = some i) (there : tget s.channels i = some ch)
    (opened : ch.state = .opened) (slice : s.isOpen (sramDomain ch.placement) = true) (fresh : y.waitFrom = none) {k : Nat}
    (ready : s.ready 7 c q idx y []) (noskip : ch.skip = 0) (alone : (atCmd c q y).d 25 = 0) (commit : (atCmd c q y).b 43 = true)
    (filling : ch.find .filling = some k) : ∃ m h ks cursor z,
      exec (.sput c q idx) s = .next { s with mem := m, channels := tput s.channels i h, contexts := ks } ∧
      h.nextSeq = ch.nextSeq + 1 ∧ h.escalated = false ∧ h.slots.getD k SorSlot.reset = s.committed c q cursor ((atCmd c q y).f 54 45 + 1)
        ((atCmd c q y).b 44) ch (ch.slots.getD k SorSlot.reset) ∧
      (∀ a, a < sorKey i k (((atCmd c q y).f 54 45 + 1) * ch.tokenBytes) → m.read a = s.mem.read a) ∧
      ({ s with mem := m, channels := tput s.channels i h, contexts := ks } : State).cmd c q idx = some z ∧ z.result = some .ok := by
  have ⟨live, _, here, _⟩ := ready
  obtain ⟨m, cursor, body, top, ran, below⟩ := runSput_commit (c := c) (q := q) (idx := idx) (d := d) there noskip alone commit filling
  obtain ⟨marks, made⟩ := ({ s with mem := m } : State).chanCommit_eq (c := c) (q := q) (idx := idx) there noskip filling cursor
    ((atCmd c q y).f 54 45 + 1) ((atCmd c q y).b 44)
  obtain ⟨low, _⟩ := find_getD filling
  have wide : ({ s with mem := m } : State).runsWide c = s.runsWide c := runsWide_below (fun a small => below a (by unfold sorKey; omega)) c
  have same : ({ s with mem := m } : State).committed c q cursor ((atCmd c q y).f 54 45 + 1) ((atCmd c q y).b 44) ch =
      s.committed c q cursor ((atCmd c q y).f 54 45 + 1) ((atCmd c q y).b 44) ch := by
    unfold committed
    rw [wide]
    rfl
  rw [same] at made
  let h : Channel := { ch.setSlot k (s.committed c q cursor ((atCmd c q y).f 54 45 + 1) ((atCmd c q y).b 44) ch) with
    nextSeq := ch.nextSeq + 1, escalated := false, marks := marks }
  let u : State := { s with mem := m, channels := tput s.channels i h }
  obtain ⟨ks, ended, final⟩ := modCmd_final (s := u) (t := u) (y := y) here rfl (f := fun y =>
    { y with body := body, maxExp := top, result := some .ok }) fun _ => rfl
  refine ⟨m, h, ks, cursor, _, ?_, rfl, rfl, slot_setSlot low _, below, final, rfl⟩
  show execSput c q idx s = _
  unfold execSput
  refine act_eq_next live ?_
  rw [unitStart_ready ready]
  rw [fill]
  dsimp only
  rw [handle]
  dsimp only
  rw [alone, show ((0 : Nat) == 0 || s.canFill i) = true from rfl, withChan_open there opened slice here fresh, ran, made]
  exact ended

theorem execStake_stores {r : Desc} {k n p e j : Nat} {w : Bool} (block_ : s.opd (atCmd c q y) 16 [2] = some d) (handle : s.chanOf d.handle = some i)
    (there : tget s.channels i = some ch) (opened : ch.state = .opened) (slice : s.isOpen (sramDomain ch.placement) = true)
    (fresh : y.waitFrom = none) (ready : s.ready 8 c q idx y []) (dest : s.opd (atCmd c q y) 25 [0] = some r)
    (good : stakeStale (atCmd c q y) ch = false) (slot : stakeSlot (atCmd c q y) ch = some k) (addr : parseAddr r.addr = .scr w e n)
    (lies : s.lies (s.ctx c).ptn (s.queueDie c q) r.addr (32 + ch.tokenBytes * s.chanTokens ch) (scrKey p e j)) : ∃ m ks z,
    m = s.mem.writeAll (scrKey p e j) ((ch.slots.getD k SorSlot.reset).header ++
      s.mem.readAll (sorKey i k 0) (ch.tokenBytes * s.chanTokens ch)) ∧
    exec (.stake c q idx) s = .next { s with mem := m, contexts := ks } ∧
    ({ s with mem := m, contexts := ks } : State).cmd c q idx = some z ∧ z.result = some .ok := by
  have ⟨live, _, here, _⟩ := ready
  obtain ⟨body, ran⟩ := runStake_eq (idx := idx) there dest slot addr lies
  generalize s.mem.writeAll (scrKey p e j) ((ch.slots.getD k SorSlot.reset).header ++
    s.mem.readAll (sorKey i k 0) (ch.tokenBytes * s.chanTokens ch)) = m at ran ⊢
  let u : State := { s with mem := m }
  obtain ⟨ks, ended, final⟩ := modCmd_final (s := u) (t := u) (y := y) here rfl (f := fun y =>
    { y with body := body, result := some .ok }) fun _ => rfl
  refine ⟨m, ks, _, rfl, ?_, final, rfl⟩
  show execStake c q idx s = _
  unfold execStake
  refine act_eq_next live ?_
  rw [unitStart_ready ready]
  rw [block_]
  dsimp only
  rw [handle]
  dsimp only
  rw [there]
  dsimp only
  rw [good, if_neg (by simp), slot, Option.isSome_some, withChan_open there opened slice here fresh, ran]
  exact ended

theorem execLoss_reports {h g : Desc} {k n p e o : Nat} {w : Bool} (block_ : s.opd (atCmd c q y) 16 [2] = some d)
    (handle : s.chanOf d.handle = some i) (there : tget s.channels i = some ch) (opened : ch.state = .opened)
    (slice : s.isOpen (sramDomain ch.placement) = true) (fresh : y.waitFrom = none)
    (ready : s.ready 9 c q idx y ((s.queueDomains c q).take 1)) (operand : s.opd (atCmd c q y) 25 [0] = some h)
    (grads : s.opd (atCmd c q y) 43 [0] = some g) (feature : ch.feature = true) (oldest : ch.oldestFull = some k)
    (none_ : ch.find .consuming = none) (valid : (ch.slots.getD k SorSlot.reset).valid = h.rows) (pos : 0 < h.rows)
    (rows : g.rows = h.rows) (cols : g.cols = ch.width) (plain : g.layout = 0) (addr : parseAddr g.addr = .scr w e n)
    (lies : s.lies (s.ctx c).ptn (s.queueDie c q) g.addr (g.span ((atCmd c q y).f 72 69)) (scrKey p e o)) : ∃ m ks z,
    exec (.loss c q idx) s = .next { s with
      mem := m, channels := tput s.channels i (ch.setSlot k fun y => { y with state := .consuming }), contexts := ks } ∧
    (∀ a, a < scrKey p e o ∨ scrKey p e o + g.span ((atCmd c q y).f 72 69) ≤ a → m.read a = s.mem.read a) ∧
    ({ s with
      mem := m, channels := tput s.channels i (ch.setSlot k fun y => { y with state := .consuming })
      contexts := ks } : State).cmd c q idx = some z ∧
    LossReport (s.ctx c).tx2 (s.featureTokens (s.ctx c).ptn (s.queueDie c q) (s.ctx c).tx2 (atCmd c q y) h i k ch) z := by
  have ⟨live, _, here, _⟩ := ready
  obtain ⟨m, ks, ran, same, z, final, report⟩ := runLoss_feature here there operand grads feature oldest valid pos rows cols plain addr lies
  refine ⟨m, ks, z, ?_, same, final, report⟩
  show execLoss c q idx s = _
  unfold execLoss
  refine act_eq_next live ?_
  rw [unitStart_ready ready]
  dsimp only
  rw [block_]
  dsimp only
  rw [handle]
  dsimp only
  rw [there]
  dsimp only
  rw [oldest, none_, feature]
  show s.withChan c q idx i false true _ = _
  rw [withChan_open there opened slice here fresh, ran]
  rfl

end

theorem execDma_copies {a d : Desc} {m n : Nat} (source : s.opd (atCmd c q y) 16 [0] = some a) (dest : s.opd (atCmd c q y) 25 [0] = some d)
    (ready : s.ready 10 c q idx y [engineDomain (s.dmaEngine (atCmd c q y))])
    (free : s.engineFree (s.dmaEngine (atCmd c q y)) c q idx = true) (alone : (s.dmaE (s.dmaEngine (atCmd c q y))).waits = [])
    (near : s.hostSpans (atCmd c q y) = []) (records : d.layout = 3) (copy : (atCmd c q y).f 45 43 = 0)
    (one_ : s.dmaRows (atCmd c q y) = 1) (first_ : (atCmd c q y).f 73 50 = 0) (place : (atCmd c q y).f 121 98 = 0)
    (addr : parseAddr d.addr = .scr false (s.dmaDie (atCmd c q y)) n)
    (into_ : s.lies (s.ctx c).ptn (s.dmaDie (atCmd c q y)) d.addr (16 * d.cols) (scrKey (s.ctx c).ptn (s.dmaDie (atCmd c q y)) n))
    (from_ : s.lies (s.ctx c).ptn (s.dmaDie (atCmd c q y)) a.addr (16 * d.cols) m) :
    let e := s.dmaEngine (atCmd c q y)
    ∃ w ls z ks r, w = s.mem.writeAll (scrKey (s.ctx c).ptn (s.dmaDie (atCmd c q y)) n) (s.mem.readAll m (16 * d.cols)) ∧ exec (.dma c q idx) s = .next { s with
        mem := w, lines := ls, contexts := ks, dmas := tput (tput s.dmas e z) e { z with bytes := 16 * d.cols } } ∧
      ({ s with
        mem := w, lines := ls, contexts := ks
        dmas := tput (tput s.dmas e z) e { z with bytes := 16 * d.cols } } : State).cmd c q idx = some r ∧
      r.result = some .ok ∧ r.moved = 16 * d.cols := by
  have ⟨live, _⟩ := ready
  obtain ⟨ls, z, ks, top, ran, final⟩ := stepDma_record (l := s.mem.readAll m (16 * d.cols))
    (k := scrKey (s.ctx c).ptn (s.dmaDie (atCmd c q y)) n) rfl ready free alone near fun ls ds => by
      rw [readAll_length]
      exact runDma_record (s := { s with lines := ls, dmas := ds }) source dest records copy one_ first_ place addr into_ from_
  rw [readAll_length] at ran final
  rw [ran] at final
  generalize s.mem.writeAll (scrKey (s.ctx c).ptn (s.dmaDie (atCmd c q y)) n) (s.mem.readAll m (16 * d.cols)) = w at ran final ⊢
  exact ⟨w, ls, z, ks, _, rfl, act_eq_next (f := fun s => s.stepDma c q idx) live ran, final, rfl, rfl⟩

end State

open State

/-- Settles O44, a lemma a command: what each of the four stores, and where. -/
theorem dataCommandsRun : Obligations.DataCommandsRun := by
  intro s c q idx y x ptn die
  refine ⟨fun d i ch block handle there opened slice fresh => ⟨?_, ?_, ?_⟩, ?_⟩
  · intro k ready noskip alone commit filling
    obtain ⟨m, h, ks, cursor, z, run, seq, esc, slot, below, final, ok⟩ :=
      execSput_commits block handle there opened slice fresh ready noskip alone commit filling
    refine ⟨_, run, rfl, ?_, fun j ne => tget_tput_ne _ _ ne, below, ?_⟩
    · rw [tget_tput_same, Option.any_some, seq, esc, slot]
      simp [committed, x]
    · show Option.any _ (State.cmd _ c q idx) = true
      rw [final]
      simp [ok]
  · intro r k j ready dest good slot addr lies
    obtain ⟨m, ks, z, mem, run, final, ok⟩ := execStake_stores block handle there opened slice fresh ready dest good slot addr lies
    refine ⟨_, run, ?_, ?_, rfl⟩
    · exact stores_writeAll _ _ mem
    show Option.any _ (State.cmd _ c q idx) = true
    rw [final]
    simp [ok]
  · intro h g k n ready operand grads feature oldest none_ valid pos rows cols plain addr lies tx2 losses
    obtain ⟨m, ks, z, run, same, final, results, long, mean, count⟩ := execLoss_reports block handle there opened slice fresh ready operand grads
      feature oldest none_ valid pos rows cols plain addr lies
    refine ⟨_, run, ?_, ?_, fun j ne => tget_tput_ne _ _ ne, same, rfl⟩
    · have many : (s.featureTokens ptn die (s.ctx c).tx2 x h i k ch).length = h.rows := by simp [featureTokens]
      have lost : (s.featureTokens ptn die (s.ctx c).tx2 x h i k ch).map (·.loss) = losses := by
        simp only [featureTokens, List.map_map]
        rfl
      rw [lost, many] at mean
      rw [many] at count
      show Option.any _ (State.cmd _ c q idx) = true
      rw [final, Option.any_some, mean, count, long]
      rcases results with ok | skip
      · rw [ok]
        simp [tx2]
      · rw [skip]
        simp [tx2]
    · rw [tget_tput_same, Option.any_some, slot_setSlot (oldestFull_lt oldest)]
      rfl
  · intro a d m n source dest ready free alone near records _ _ copy one_ first_ place addr into_ from_
    obtain ⟨w, ls, z, ks, r, mem, run, final, ok, moved⟩ := execDma_copies source dest ready free alone near records copy one_ first_ place addr into_ from_
    refine ⟨_, run, ?_, ?_, ?_, fun e ne => ?_, rfl⟩
    · have long : (s.mem.readAll m (16 * d.cols)).length = 16 * d.cols := readAll_length ..
      exact stores_writeAll _ _ mem
    · show Option.any _ (State.cmd _ c q idx) = true
      rw [final]
      simp [ok, moved]
    · exact congrArg DmaEngine.bytes (tgetD_tput_same ..)
    · exact (tgetD_tput_ne _ _ _ ne).trans (tgetD_tput_ne _ _ _ ne)

end Sys2Proof.Machine
end

section
/-! SUPPORT. A matrix command that begins: its tiles and parts on the arrays of its queue (R83, R107, R108). -/

set_option Elab.async false

namespace Sys2Proof.Machine

namespace State

variable {s t : State} {c q : Nat} {idx : Word} {y : Cmd} {x : At}

/-- Drawing counts changes no more of the command than its draws. -/
theorem takeDraws_cmd (here : s.cmd c q idx = some y) (n : Nat) : ∃ d, (s.takeDraws c q idx n).cmd c q idx = some { y with draws := d } := by
  unfold takeDraws
  rw [here]
  dsimp only
  split
  · refine ⟨some (s.ctx c).draws, ?_⟩
    rw [cmd_modCmd (f := fun z => { z with draws := some (s.ctx c).draws }) fun _ => rfl]
    have queue : (s.setCtx c { s.ctx c with draws := (s.ctx c).draws + BitVec.ofNat 64 n }).queue c q = s.queue c q := by
      unfold State.queue
      rw [setCtx_ctx]
    rw [cmd, queue]
    exact congrArg (Option.map _) here
  · exact ⟨y.draws, here⟩

/-- The array that a part of a tile is dealt to is one of the queue's. -/
theorem dealt_mem {as : List Nat} (some_ : as ≠ []) (u : Nat) : (dealt as u).1 ∈ as := by
  have pos : 0 < as.length := List.length_pos_iff.mpr some_
  unfold dealt
  rw [if_neg (by omega)]
  have low : u % as.length < as.length := Nat.mod_lt _ pos
  show as.getD (u % as.length) 0 ∈ as
  rw [List.getD_eq_getElem _ _ low]
  exact List.getElem_mem low

/-- The instruction that a matrix command binds for a part of a tile. -/
def partBound (s : State) (c q : Nat) (idx : Word) (x : At) (u : Nat) : ArrInstr :=
  let f := matForm x
  let t := u / f.split
  let p := u % f.split
  { kind := if f.conv then .conv else .product, ctx := c, q := q, idx := idx, tile := t, part := p, parts := f.split
    lo := p * s.tileChunks x / f.split, hi := (p + 1) * s.tileChunks x / f.split, first := true
    last := decide (p + 1 = f.split), add := f.add, drain := f.drain
    slot := if f.drain then none else some ((f.slot + (dealt (s.cmdArrays c q) u).2) % 4), prior := 0, waitOp := false, waitSpace := false }

/-- The binding of one part. -/
def bindPart (i : ArrInstr) (a : Nat) (s : State) : State := s.setArr a { s.arr a with bound := (s.arr a).bound ++ [i] }

/-- What dealing parts to the arrays `as` leaves as it is. -/
def DealtFrom (s : State) (as : List Nat) (t : State) : Prop :=
  (∃ z, t = { s with arrays := z }) ∧ ∀ a, a ∉ as → t.arr a = s.arr a

theorem bindPart_dealt {as : List Nat} {u : State} (i : ArrInstr) {a : Nat} (mem : a ∈ as) (h : DealtFrom s as u) : DealtFrom s as (bindPart i a u) := by
  obtain ⟨⟨z, rfl⟩, same⟩ := h
  refine ⟨⟨_, rfl⟩, fun b far => ?_⟩
  rw [bindPart, setArr_arr_ne _ _ fun e => far (by rw [e]; exact mem)]
  exact same b far

theorem bindPart_bound (i j : ArrInstr) (a b : Nat) (u : State) (h : i ∈ (u.arr a).bound) : i ∈ ((bindPart j b u).arr a).bound := by
  unfold bindPart
  by_cases e : a = b
  · subst e
    rw [setArr_arr]
    exact List.mem_append_left _ h
  · rw [setArr_arr_ne _ _ e]
    exact h

theorem bindPart_self (i : ArrInstr) (a : Nat) (u : State) : i ∈ ((bindPart i a u).arr a).bound := by
  rw [bindPart, setArr_arr]
  exact List.mem_append_right _ (List.mem_singleton_self _)

/-- A matrix command deals every part of every tile. -/
theorem bindMatrix_deals (here : s.cmd c q idx = some y) (arrays : s.cmdArrays c q ≠ []) : ∃ z ks d,
    s.bindMatrix c q idx x = { s with arrays := z, contexts := ks } ∧
      (s.bindMatrix c q idx x).cmd c q idx = some { y with started := true, left := s.matTiles x, count := s.matTiles x, draws := d } ∧
      (∀ a, a ∉ s.cmdArrays c q → (s.bindMatrix c q idx x).arr a = s.arr a) ∧
      ∀ u, u < s.matTiles x * (matForm x).split → s.partBound c q idx x u ∈ ((s.bindMatrix c q idx x).arr (dealt (s.cmdArrays c q) u).1).bound := by
  let as := s.cmdArrays c q
  let n := s.matTiles x * (matForm x).split
  let w := (List.range n).foldl (fun v u => bindPart (s.partBound c q idx x u) (dealt as u).1 v) s
  have dealt_ : DealtFrom s as w :=
    List.foldlRecOn (motive := DealtFrom s as) _ _ ⟨⟨s.arrays, rfl⟩, fun _ _ => rfl⟩ fun v h u _ => bindPart_dealt _ (dealt_mem arrays u) h
  have bound_ (u : Nat) (low : u < n) : s.partBound c q idx x u ∈ (w.arr (dealt as u).1).bound :=
    (foldl_reaches (f := fun v u => bindPart (s.partBound c q idx x u) (dealt as u).1 v) (l := List.range n) (d := u) (I := fun _ => True)
      (Q := fun v => s.partBound c q idx x u ∈ (v.arr (dealt as u).1).bound) (fun _ _ _ _ => trivial) (fun v _ => bindPart_self ..)
      (fun v b _ _ h => bindPart_bound _ _ _ _ v h) (List.mem_range.mpr low) trivial).2
  obtain ⟨⟨z, eq⟩, far⟩ := dealt_
  obtain ⟨draws, run⟩ : ∃ draws, s.bindMatrix c q idx x = (w.modCmd c q idx fun y =>
    { y with started := true, left := s.matTiles x, count := s.matTiles x }).takeDraws c q idx draws := ⟨_, rfl⟩
  have placed : w.cmd c q idx = some y := by
    rw [eq]
    exact here
  obtain ⟨ks, begun, there⟩ := modCmd_final (s := w) placed rfl (f := fun y =>
    { y with started := true, left := s.matTiles x, count := s.matTiles x }) fun _ => rfl
  obtain ⟨ks', drawn, _⟩ := takeDraws_spec there draws
  obtain ⟨d, final⟩ := takeDraws_cmd there draws
  rw [run, begun]
  rw [drawn] at final ⊢
  refine ⟨z, ks', d, by rw [eq], final, far, bound_⟩

/-! ### What a unit reads is not changed by the beginning of its command -/

/-- The state `t` differs from `s` in what the beginning of a command notes of waits and draws. -/
structure Begun (s t : State) (c q : Nat) : Prop where
  frame : ∃ ks qs n hs, t = { s with contexts := ks, quads := qs, free := n, channels := hs }
  ptn : (t.ctx c).ptn = (s.ctx c).ptn
  tx2 : (t.ctx c).tx2 = (s.ctx c).tx2
  descAddr : (t.ctx c).descAddr = (s.ctx c).descAddr
  descCount : (t.ctx c).descCount = (s.ctx c).descCount
  quads : t.queueQuads c q = s.queueQuads c q

/-- Waits are counted in the quadrants. -/
theorem countWaits_all (s : State) (op space : Bool) (l : List Nat) : ∃ qs n,
    l.foldl (fun (s : State) k => s.countWaits k op space) s = { s with quads := qs, free := n } := by
  refine List.foldlRecOn (motive := fun t : State => ∃ qs n, t = { s with quads := qs, free := n }) _ _ ⟨_, _, rfl⟩ ?_
  rintro _ ⟨qs, n, rfl⟩ k _
  unfold countWaits
  dsimp only
  split
  · exact ⟨_, _, rfl⟩
  · exact ⟨_, _, rfl⟩

namespace Begun

theorem refl (s : State) (c q : Nat) : Begun s s c q := ⟨⟨_, _, _, _, rfl⟩, rfl, rfl, rfl, rfl, rfl⟩

theorem trans {u : State} (a : Begun s t c q) (b : Begun t u c q) : Begun s u c q := by
  obtain ⟨⟨ks, qs, n, hs, rfl⟩, ptn, tx2, at_, count, quads⟩ := a
  obtain ⟨⟨ks', qs', n', hs', rfl⟩, ptn', tx2', at', count', quads'⟩ := b
  exact ⟨⟨_, _, _, _, rfl⟩, ptn'.trans ptn, tx2'.trans tx2, at'.trans at_, count'.trans count, quads'.trans quads⟩

theorem setChan (s : State) (c q i : Nat) (ch : Channel) : Begun s (s.setChan i ch) c q := ⟨⟨_, _, _, _, rfl⟩, rfl, rfl, rfl, rfl, rfl⟩

theorem modCmd (here : s.cmd c q idx = some y) (f : Cmd → Cmd) : Begun s (s.modCmd c q idx f) c q := by
  have queue := queue_setQueue (x := { s.queue c q with cmds := (s.queue c q).cmds.map fun y => if y.index = idx then f y else y })
    (queue_lt_of_cmd here)
  have own : (s.modCmd c q idx f).ctx c = { s.ctx c with queues := ((s.modCmd c q idx f).ctx c).queues } := by
    unfold State.modCmd setQueue
    rw [setCtx_ctx]
  refine ⟨⟨_, _, _, _, rfl⟩, ?_, ?_, ?_, ?_, ?_⟩
  · rw [own]
  · rw [own]
  · rw [own]
  · rw [own]
  · unfold queueQuads
    rw [own]
    show (if ((s.modCmd c q idx f).queue c q).quads = 0 then _ else ((s.modCmd c q idx f).queue c q).quads) = _
    rw [State.modCmd, queue]

theorem chanWaited (here : s.cmd c q idx = some y) (i : Nat) (put : Bool) : Begun s (s.chanWaited c q idx i put) c q := by
  unfold State.chanWaited
  rw [here]
  split
  · split
    · refine (setChan ..).trans (modCmd (y := y) ?_ _)
      exact here
    · exact refl ..
  · exact refl ..

theorem edgeWaited (here : s.cmd c q idx = some y) (l : List Nat) : Begun s (s.edgeWaited c q idx l) c q := by
  unfold State.edgeWaited
  rw [here]
  dsimp only
  split
  · exact refl ..
  · obtain ⟨qs, n, counted⟩ := s.countWaits_all (bitAt y.waits 0) (bitAt y.waits 1 || bitAt y.waits 2) (l.map (· / 128)).eraseDups
    rw [counted]
    refine trans ⟨⟨_, qs, n, _, rfl⟩, rfl, rfl, rfl, rfl, rfl⟩ (modCmd (y := y) ?_ _)
    exact here

theorem takeDraws (here : s.cmd c q idx = some y) (n : Nat) : Begun s (s.takeDraws c q idx n) c q := by
  unfold State.takeDraws
  rw [here]
  dsimp only
  split
  · let u := s.setCtx c { s.ctx c with draws := (s.ctx c).draws + BitVec.ofNat 64 n }
    have own : u.ctx c = { s.ctx c with draws := (s.ctx c).draws + BitVec.ofNat 64 n } := setCtx_ctx ..
    have queue : u.queue c q = s.queue c q := by
      unfold State.queue
      rw [own]
    have quads : u.queueQuads c q = s.queueQuads c q := by
      unfold queueQuads
      rw [queue, own]
    have there : u.cmd c q idx = some y := by
      rw [cmd, queue]
      exact here
    refine trans (t := u) ⟨⟨_, _, _, _, rfl⟩, ?_, ?_, ?_, ?_, quads⟩ (modCmd there _)
    · rw [own]
    · rw [own]
    · rw [own]
    · rw [own]
  · exact refl ..

end Begun

theorem chanWaited_cmd (here : s.cmd c q idx = some y) (i : Nat) (put : Bool) : ∃ w, (s.chanWaited c q idx i put).cmd c q idx = some { y with waitFrom := w } := by
  unfold chanWaited
  rw [here]
  split
  · next same =>
    cases same
    split
    · refine ⟨none, ?_⟩
      rw [cmd_modCmd (f := fun z => { z with waitFrom := none }) fun _ => rfl]
      exact congrArg (Option.map _) here
    · exact ⟨_, here⟩
  · exact ⟨_, here⟩

theorem chanWaited_eq (s : State) (i : Nat) (put : Bool) : ∃ ks hs, s.chanWaited c q idx i put = { s with contexts := ks, channels := hs } := by
  unfold chanWaited
  split
  · split
    · exact ⟨_, _, rfl⟩
    · exact ⟨_, _, rfl⟩
  · exact ⟨_, _, rfl⟩

theorem edgeWaited_cmd (here : s.cmd c q idx = some y) (l : List Nat) : ∃ w, (s.edgeWaited c q idx l).cmd c q idx = some { y with waits := w } := by
  unfold edgeWaited
  rw [here]
  dsimp only
  split
  · exact ⟨_, here⟩
  · obtain ⟨qs, n, counted⟩ := s.countWaits_all (bitAt y.waits 0) (bitAt y.waits 1 || bitAt y.waits 2) (l.map (· / 128)).eraseDups
    rw [counted]
    refine ⟨0, ?_⟩
    rw [cmd_modCmd (f := fun z => { z with waits := 0 }) fun _ => rfl]
    exact congrArg (Option.map _) here

theorem edgeWaited_eq (s : State) (l : List Nat) : ∃ ks qs n, s.edgeWaited c q idx l = { s with contexts := ks, quads := qs, free := n } := by
  unfold edgeWaited
  split
  · next y _ =>
    split
    · exact ⟨_, _, _, rfl⟩
    · obtain ⟨qs, n, counted⟩ := s.countWaits_all (bitAt y.waits 0) (bitAt y.waits 1 || bitAt y.waits 2) (l.map (· / 128)).eraseDups
      rw [counted]
      exact ⟨_, _, _, rfl⟩
  · exact ⟨_, _, _, rfl⟩

namespace Begun

section

variable (h : Begun s t c q)
include h

theorem fwRead (a n : Nat) : t.fwRead a n = s.fwRead a n := by
  obtain ⟨ks, qs, n, hs, rfl⟩ := h.frame
  rfl

theorem arr (a : Nat) : t.arr a = s.arr a := by
  obtain ⟨ks, qs, n, hs, rfl⟩ := h.frame
  rfl

theorem entryOf (i : Nat) (own : x.c = c) : t.entryOf x i = s.entryOf x i := by
  unfold State.entryOf descBytes
  dsimp only
  rw [own, h.descAddr, h.descCount, h.fwRead]

theorem desc (i : Nat) (kinds : List Nat) (own : x.c = c) : t.desc x i kinds = s.desc x i kinds := by
  rw [State.desc, h.entryOf i own, State.desc]

theorem opd (lo : Nat) (kinds : List Nat) (own : x.c = c) : t.opd x lo kinds = s.opd x lo kinds := h.desc _ _ own

theorem cmdArrays : t.cmdArrays c q = s.cmdArrays c q := by
  unfold State.cmdArrays
  rw [h.quads]
  simp only [h.arr]

theorem queueDie : t.queueDie c q = s.queueDie c q := by
  rw [State.queueDie, h.quads, State.queueDie]

theorem matTiles (own : x.c = c) : t.matTiles x = s.matTiles x := by
  unfold State.matTiles
  rw [h.opd _ _ own, h.opd _ _ own]

theorem tileChunks (own : x.c = c) : t.tileChunks x = s.tileChunks x := by
  unfold State.tileChunks
  dsimp only
  rw [h.opd _ _ own, own, h.tx2]

theorem partBound (own : x.c = c) (u : Nat) : t.partBound c q idx x u = s.partBound c q idx x u := by
  unfold State.partBound
  rw [h.tileChunks own, h.cmdArrays]

theorem loadedHalf (a k : Nat) : t.loadedHalf a k = s.loadedHalf a k := by
  obtain ⟨ks, qs, n, hs, rfl⟩ := h.frame
  rfl

theorem freeHalf (a : Nat) : t.freeHalf a = s.freeHalf a := by
  obtain ⟨ks, qs, n, hs, rfl⟩ := h.frame
  rfl

theorem elem (row : RowAt) (fmt n : Nat) : t.elem row fmt n = s.elem row fmt n := by
  obtain ⟨ks, qs, n, hs, rfl⟩ := h.frame
  rfl

theorem memRow (ptn die : Nat) (d : Desc) (fmt r : Nat) : t.memRow ptn die d fmt r = s.memRow ptn die d fmt r := by
  obtain ⟨ks, qs, n, hs, rfl⟩ := h.frame
  rfl

theorem slotValue (a k i n : Nat) : t.slotValue a k i n = s.slotValue a k i n := by
  obtain ⟨ks, qs, n, hs, rfl⟩ := h.frame
  rfl

theorem record (ptn die : Nat) (d : Desc) (n : Nat) : t.record ptn die d n = s.record ptn die d n := by
  obtain ⟨ks, qs, n, hs, rfl⟩ := h.frame
  rfl

theorem lies {ptn die a n k : Nat} (lies : s.lies ptn die a n k) : t.lies ptn die a n k := by
  obtain ⟨ks, qs, n, hs, rfl⟩ := h.frame
  exact lies

/-- What a command reads of a source, element by element, is the same after its beginning. -/
theorem sourceNum (own : x.c = c) (place : x.q = q) (v fmt m u i j : Nat) (p : Param) :
    t.sourceNum x v fmt m u i j p = s.sourceNum x v fmt m u i j p := by
  unfold State.sourceNum
  simp only [own, place, h.cmdArrays, h.ptn, h.tx2, h.loadedHalf, h.desc _ _ own, h.elem, h.memRow, h.slotValue]

theorem eltSource (own : x.c = c) (place : x.q = q) (v fmt m u i j : Nat) (p : Param) :
    t.eltSource x v fmt m u i j p = s.eltSource x v fmt m u i j p := by
  rw [State.eltSource, h.sourceNum own place, own, h.tx2, State.eltSource, own]

theorem reduceOne (own : x.c = c) (place : x.q = q) (p : Param) (n : Nat) : t.reduceOne x p n = s.reduceOne x p n := by
  unfold State.reduceOne
  simp only [own, place, h.ptn, h.tx2, h.queueDie, h.opd _ _ own, h.record, h.sourceNum own place]

theorem topKey (own : x.c = c) (place : x.q = q) (p : Param) (u : Num) (r j : Nat) : t.topKey x p u r j = s.topKey x p u r j := by
  unfold State.topKey
  simp only [own, h.tx2, h.sourceNum own place]

end

end Begun

/-- A matrix command starts once the channel that it drains into, if any, can take a block (R30). -/
theorem startMatrix_deals (here : s.cmd c q idx = some y) (arrays : s.cmdArrays c q ≠ []) (own : x.c = c)
    (drains : ∀ d, s.opd x 34 [2] = some d → ∃ i, s.chanOf d.handle = some i ∧ s.chanStatus i true = none ∧ s.chanActs i true = true ∧
      s.canFill i = true) : ∃ z ks hs w d,
    s.startMatrix c q idx x = { s with arrays := z, contexts := ks, channels := hs } ∧
      (s.opd x 34 [2] = none → hs = s.channels) ∧
      (s.startMatrix c q idx x).cmd c q idx = some { y with
        started := true, left := s.matTiles x, count := s.matTiles x, waitFrom := w, draws := d } ∧
      (∀ a, a ∉ s.cmdArrays c q → (s.startMatrix c q idx x).arr a = s.arr a) ∧
      ∀ u, u < s.matTiles x * (matForm x).split → s.partBound c q idx x u ∈ ((s.startMatrix c q idx x).arr (dealt (s.cmdArrays c q) u).1).bound := by
  unfold startMatrix
  cases into_ : s.opd x 34 [2] with
  | none =>
    obtain ⟨z, ks, d, eq, final, far, bound⟩ := bindMatrix_deals (x := x) here arrays
    exact ⟨z, ks, s.channels, y.waitFrom, d, eq, fun _ => rfl, final, far, bound⟩
  | some o =>
    obtain ⟨i, handle, status, acts, fills⟩ := drains o into_
    have begun := Begun.chanWaited here i true
    obtain ⟨w, there⟩ := chanWaited_cmd here i true
    obtain ⟨z, ks, d, eq, final, far, bound⟩ := bindMatrix_deals (x := x) there (by rw [begun.cmdArrays]; exact arrays)
    have waited : s.withChan c q idx i true (s.canFill i) (fun s => s.bindMatrix c q idx x) =
        (s.chanWaited c q idx i true).bindMatrix c q idx x := by
      unfold withChan
      rw [status, acts, fills]
      rfl
    dsimp only
    rw [handle]
    dsimp only
    rw [waited]
    rw [begun.matTiles own] at final bound
    rw [begun.cmdArrays] at far bound
    obtain ⟨ks', hs, shape⟩ := s.chanWaited_eq (c := c) (q := q) (idx := idx) i true
    refine ⟨z, ks, hs, w, d, eq.trans (by rw [shape]), nofun, final, fun a out => (far a out).trans (begun.arr a), fun u low => ?_⟩
    rw [← begun.partBound own]
    exact bound u low

end State

end Sys2Proof.Machine
end

section
/-! O43. The units of the arrays begin and run a command (R83, R107, R108, R165 to R170). -/

set_option Elab.async false

namespace Sys2Proof.Machine

/-! ### The best of a row -/

theorem topInsert_length (k : Nat) (l : List (Num × Nat)) (v : Num) (i : Nat) : (topInsert k l v i).length = min k (l.length + 1) := by
  unfold topInsert
  extract_lets before
  have fits : before.length ≤ l.length := (List.takeWhile_prefix _).length_le
  rw [List.length_take, List.length_append, List.length_cons, List.length_drop]
  rw [show before.length + (l.length - before.length + 1) = l.length + 1 by omega]

theorem topRow_length (p : Param) (n : Nat) (val : Nat → Num) : (State.topRow p n val).length = min n p.cols := by
  unfold State.topRow
  induction p.cols with
  | zero => exact by simp
  | succ j ih =>
    rw [List.range_succ, List.foldl_append]
    show (topInsert n _ _ _).length = _
    rw [topInsert_length, ih]
    omega

theorem reduceRecord_length (v : Num) (tie empty overflow : Bool) (index : Int) : (reduceRecord v tie empty overflow index).length = 16 := by
  simp [reduceRecord, p48Bytes, leBytes_length, zeros]

theorem reduceBytes_length (op : Nat) (r : RedAcc) : (State.reduceBytes op r).length = 16 := by
  unfold State.reduceBytes
  split
  · exact reduceRecord_length ..
  · split
    · exact reduceRecord_length ..
    · exact reduceRecord_length ..

namespace State

variable {s t u : State} {c q : Nat} {idx : Word} {y : Cmd} {x : At}

/-! ### What an edge unit changes -/

/-- An edge unit changes the arrays, the quadrants, the contexts and what it stores. -/
def Edged (s t : State) (m : Memory) : Prop := ∃ as ks qs n, t = { s with arrays := as, contexts := ks, quads := qs, free := n, mem := m }

/-- What a unit leaves behind in the arrays and the quadrants. -/
def Tidied (s t : State) : Prop := ∃ as qs, t = { s with arrays := as, quads := qs }

namespace Tidied

theorem refl (s : State) : Tidied s s := ⟨_, _, rfl⟩

theorem trans (a : Tidied s t) (b : Tidied t u) : Tidied s u := by
  obtain ⟨as, qs, rfl⟩ := a
  obtain ⟨as', qs', rfl⟩ := b
  exact ⟨_, _, rfl⟩

theorem setArr (s : State) (a : Nat) (z : Arr) : Tidied s (s.setArr a z) := ⟨_, _, rfl⟩

theorem setQuad (s : State) (k : Nat) (z : Quadrant) : Tidied s (s.setQuad k z) := ⟨_, _, rfl⟩

theorem foldl {α : Type} {f : State → α → State} (h : ∀ v a, Tidied v (f v a)) (l : List α) (s : State) : Tidied s (l.foldl f s) :=
  List.foldlRecOn (motive := Tidied s) l f (refl s) fun v k a _ => k.trans (h v a)

theorem setHalves (s : State) (l : List (Nat × Nat)) (z : Half2) : Tidied s (s.setHalves l z) := foldl (fun _ _ => setArr ..) l s

theorem releaseSlots (s : State) (x : At) (v tiles : Nat) : Tidied s (s.releaseSlots x v tiles) := by
  unfold State.releaseSlots
  split
  · exact foldl (fun _ _ => setArr ..) _ s
  · exact refl s

theorem endStores (s s0 : State) (x : At) (srcs : List Nat) (dst tiles : Nat) : Tidied s (s.endStores s0 x srcs dst tiles) :=
  (foldl (fun v n => (releaseSlots v x n tiles).trans (setHalves ..)) srcs s).trans (setHalves ..)

theorem noteElt (s : State) (x : At) (tiles : Nat) : Tidied s (s.noteElt x tiles) := foldl (fun _ _ => setArr ..) _ s

theorem noteEdge (s : State) (x : At) (m n waves : Nat) (free : Bool) : Tidied s (s.noteEdge x m n waves free) :=
  foldl (fun _ _ => setQuad ..) _ s

theorem cmd (h : Tidied s t) : t.cmd c q idx = s.cmd c q idx := by
  obtain ⟨as, qs, rfl⟩ := h
  rfl

end Tidied

namespace Edged

variable {m : Memory}

theorem tidied (h : Edged s t m) (k : Tidied t u) : Edged s u m := by
  obtain ⟨as, ks, qs, n, rfl⟩ := h
  obtain ⟨as', qs', rfl⟩ := k
  exact ⟨_, _, _, _, rfl⟩

theorem modCmd (h : Edged s t m) (f : Cmd → Cmd) : Edged s (t.modCmd c q idx f) m := by
  obtain ⟨as, ks, qs, n, rfl⟩ := h
  exact ⟨_, _, _, _, rfl⟩

theorem edgeWaited (s : State) (l : List Nat) : Edged s (s.edgeWaited c q idx l) s.mem := by
  obtain ⟨ks, qs, n, eq⟩ := s.edgeWaited_eq (c := c) (q := q) (idx := idx) l
  exact ⟨_, ks, qs, n, eq⟩

theorem takeDraws (h : Edged s t m) (here : t.cmd c q idx = some y) (n : Nat) : Edged s (t.takeDraws c q idx n) m := by
  obtain ⟨as, ks, qs, v, rfl⟩ := h
  obtain ⟨ks', eq, _⟩ := takeDraws_spec here n
  exact ⟨_, ks', _, _, eq⟩

theorem stored (h : Edged s t s.mem) (k : Nat) (l : List Byte) : Edged s { t with mem := t.mem.writeAll k l } (s.mem.writeAll k l) := by
  obtain ⟨as, ks, qs, n, rfl⟩ := h
  exact ⟨_, _, _, _, rfl⟩

/-- The end of a command whose unit has tidied up. -/
theorem ended {v : State} (h : Edged s t m) (k : Tidied t v) (here : t.cmd c q idx = some y) (f : Cmd → Cmd) (index : ∀ z, (f z).index = z.index)
    (ok : (f y).result = some .ok) (one_ : (f y).count = 1) : ∃ z, Edged s (v.modCmd c q idx f) m ∧
      (v.modCmd c q idx f).cmd c q idx = some z ∧ z.result = some .ok ∧ z.count = 1 :=
  ⟨f y, (h.tidied k).modCmd f, by rw [cmd_modCmd index, k.cmd, here]; rfl, ok, one_⟩

end Edged

/-- How a command of one row or one element ends, with the bytes `l` at key `k`. -/
def StoresOne (s t : State) (c q : Nat) (idx : Word) (k : Nat) (l : List Byte) : Prop :=
  s.stores t k l ∧ t.cmdIs c q idx (fun z => z.result == some .ok && z.count == 1) ∧
    t = { s with arrays := t.arrays, contexts := t.contexts, quads := t.quads, mem := t.mem, free := t.free }

theorem storesOne_of_edged {k : Nat} {l : List Byte} {z : Cmd} {f : State → State} (live : s.flt.fatal = false) (run : f s = t)
    (h : Edged s t (s.mem.writeAll k l)) (there : t.cmd c q idx = some z) (ok : z.result = some .ok) (one_ : z.count = 1) :
    ∃ t, act s f = .next t ∧ s.StoresOne t c q idx k l := by
  obtain ⟨as, ks, qs, n, rfl⟩ := h
  generalize mem : s.mem.writeAll k l = m at *
  refine ⟨_, act_eq_next live run, stores_writeAll k l mem.symm, ?_, rfl⟩
  show Option.any _ (State.cmd _ c q idx) = true
  rw [there]
  simp [ok, one_]

/-! ### REDUCE and TOPK of one row -/

theorem runReduce_one {p : Param} {d : Desc} {n e k o : Nat} {w : Bool} (begun : Begun s t c q) (edged : Edged s t s.mem)
    (here : t.cmd c q idx = some y) (own : x.c = c) (place : x.q = q) (one_ : p.rows = 1) (rows : x.b 18 = false)
    (dest : s.opd x 29 [0] = some d) (addr : parseAddr d.addr = .scr w e n)
    (lies : s.lies (s.ctx c).ptn (s.queueDie c q) d.addr 16 (scrKey o e k)) : ∃ z,
    Edged s (t.runReduce c q idx x p) (s.mem.writeAll (scrKey o e k) (reduceBytes (x.f 17 16) (s.reduceOne x p 0))) ∧
      (t.runReduce c q idx x p).cmd c q idx = some z ∧ z.result = some .ok ∧ z.count = 1 := by
  have put : t.putBytes c q idx (s.ctx c).ptn (s.queueDie c q) (recordOff d 0) (reduceBytes (x.f 17 16) (s.reduceOne x p 0)) =
      { t with mem := t.mem.writeAll (scrKey o e k) (reduceBytes (x.f 17 16) (s.reduceOne x p 0)) } := by
    have first_ : recordOff d 0 = d.addr := by simp [recordOff]
    rw [first_]
    exact putBytes_scr addr (scrKey_le ..) (by rw [reduceBytes_length]; exact begun.lies lies)
  have stored := edged.stored (scrKey o e k) (reduceBytes (x.f 17 16) (s.reduceOne x p 0))
  unfold runReduce
  rw [begun.opd _ _ own, dest]
  dsimp only
  rw [rows, one_, begun.ptn, begun.queueDie]
  simp only [Bool.false_eq_true, ↓reduceIte, List.range_one, List.map_cons, List.map_nil, begun.reduceOne own place]
  rw [show ∀ r : List Byte, [r].zipIdx = [(r, 0)] from fun _ => rfl, List.foldl_cons, List.foldl_nil, put]
  exact stored.ended ((Tidied.releaseSlots ..).trans (Tidied.setHalves ..)) here _ (fun _ => rfl) rfl rfl

/-- The entries of a row that TOPK writes. -/
def topEntries (s : State) (x : At) (p : Param) (k : Nat) : List Byte :=
  ((topRow p (k + 1) (s.topKey x p (p.c.getD 0 Num.zero) 0)).take k).flatMap fun e => leBytes 4 (f32Bits e.1) ++ leBytes 4 e.2

theorem topEntries_length (s : State) (x : At) {p : Param} {k : Nat} (fits : k ≤ p.cols) : (s.topEntries x p k).length = 8 * k := by
  have each (e : Num × Nat) : (leBytes 4 (f32Bits e.1) ++ leBytes 4 e.2).length = 8 := by
    rw [List.length_append, leBytes_length, leBytes_length]
  unfold topEntries
  rw [List.length_flatMap]
  simp only [each, List.map_const', List.sum_replicate, List.length_take, topRow_length, smul_eq_mul]
  omega

theorem runTopGeneric_one {p : Param} {d : Desc} {n e k o : Nat} {w : Bool} (begun : Begun s t c q) (edged : Edged s t s.mem)
    (here : t.cmd c q idx = some y) (own : x.c = c) (place : x.q = q) (one_ : p.rows = 1)
    (fits : 8 * (x.f 21 17 + 1) ≤ p.cols) (addr : parseAddr d.addr = .scr w e n)
    (lies : s.lies (s.ctx c).ptn (s.queueDie c q) d.addr (64 * (x.f 21 17 + 1)) (scrKey o e k)) : ∃ z,
    Edged s (t.runTopGeneric c q idx x p d) (s.mem.writeAll (scrKey o e k) (s.topEntries x p (8 * (x.f 21 17 + 1)))) ∧
      (t.runTopGeneric c q idx x p d).cmd c q idx = some z ∧ z.result = some .ok ∧ z.count = 1 := by
  have stored := edged.stored (scrKey o e k) (s.topEntries x p (8 * (x.f 21 17 + 1)))
  have put : t.putBytes c q idx (s.ctx c).ptn (s.queueDie c q) d.addr (s.topEntries x p (8 * (x.f 21 17 + 1))) =
      { t with mem := t.mem.writeAll (scrKey o e k) (s.topEntries x p (8 * (x.f 21 17 + 1))) } :=
    putBytes_scr addr (scrKey_le ..) (by
      rw [topEntries_length s x fits, show 8 * (8 * (x.f 21 17 + 1)) = 64 * (x.f 21 17 + 1) by omega]
      exact begun.lies lies)
  have key : t.topKey x p (p.c.getD 0 Num.zero) 0 = s.topKey x p (p.c.getD 0 Num.zero) 0 := funext fun j => begun.topKey own place ..
  have full : 8 * (x.f 21 17 + 1) - (topRow p (8 * (x.f 21 17 + 1) + 1) (s.topKey x p (p.c.getD 0 Num.zero) 0)).length = 0 := by
    rw [topRow_length]
    omega
  obtain ⟨F, run, index, ok, count⟩ : ∃ F : Cmd → Cmd, t.runTopGeneric c q idx x p d =
      ({ t with mem := t.mem.writeAll (scrKey o e k) (s.topEntries x p (8 * (x.f 21 17 + 1))) } : State).modCmd c q idx F ∧
      (∀ z, (F z).index = z.index) ∧ (F y).result = some .ok ∧ (F y).count = p.rows := by
    unfold runTopGeneric
    extract_lets m ptn die ranked rows u
    have rows_ : rows = [(topRow p (m + 1) (s.topKey x p (p.c.getD 0 Num.zero) 0)).take m] := by
      unfold rows ranked
      rw [one_, List.range_one, List.map_cons, List.map_nil, List.map_cons, List.map_nil, key, full, List.replicate_zero, List.append_nil]
    have stored_ : u = { t with mem := t.mem.writeAll (scrKey o e k) (s.topEntries x p (8 * (x.f 21 17 + 1))) } := by
      unfold u
      rw [rows_, show ∀ r : List (Num × Nat), [r].zipIdx = [(r, 0)] from fun _ => rfl, List.foldl_cons, List.foldl_nil, Nat.zero_mul, Nat.add_zero]
      unfold ptn die
      rw [begun.ptn, begun.queueDie]
      exact put
    rw [stored_]
    exact ⟨_, rfl, fun _ => rfl, rfl, rfl⟩
  rw [run]
  exact stored.ended (Tidied.refl _) here F index ok (count.trans one_)

/-! ### ELTWISE and CONVERT of one element -/

theorem elemRun_one (rd : Nat → Byte) (cols v : Nat) : elemRun rd 13 cols 0 [v] = (0, leBytes 4 v) := by
  have group : packGroup 13 = (1, 4) := by decide
  have bits : fmtBits 13 = 32 := by decide
  unfold elemRun
  dsimp only
  rw [group, bits]
  simp only [List.length_singleton, Nat.zero_div, Nat.add_sub_cancel, Nat.zero_mul]
  refine Prod.ext rfl ?_
  show leBytes 4 (0 + v % 2 ^ 32 * 2 ^ (32 * 0)) ++ [] = leBytes 4 v
  rw [Nat.mul_zero, Nat.pow_zero, Nat.mul_one, Nat.zero_add, List.append_nil]
  exact leBytes_mod 4 v

theorem putDest_one {ptn die n p e k : Nat} {w : Bool} {d : Desc} (addr : parseAddr d.addr = .scr w e n)
    (lies : s.lies ptn die d.addr 4 (scrKey p e k)) (cols v : Nat) :
    s.putDest c q idx ptn die (.mem d) 13 cols 0 0 [v] = { s with mem := s.mem.writeAll (scrKey p e k) (leBytes 4 v) } := by
  unfold putDest
  rw [if_neg (List.cons_ne_nil _ _)]
  dsimp only
  rw [elemRun_one, Nat.zero_mul, Nat.add_zero, Nat.add_zero]
  exact putBytes_scr addr (scrKey_le ..) (by rw [leBytes_length]; exact lies)

/-- Without gradient or stochastic rounding the rounding does not depend on the draw. -/
theorem rndOf_plain {mode : Nat} (plain : mode ≠ 2) (tx2 : Bool) (out : Nat) : rndOf false mode tx2 out = rndOf false mode tx2 0 := by
  have no : (false || mode == 2) = false := by simp [plain]
  unfold rndOf
  rw [no]
  rfl

section

variable {i dst n e k o : Nat} {w : Bool} {d : Desc}

/-- A unit's one element is written at its destination's address. -/
theorem putExtent_one (begun : Begun s t c q) (edged : Edged s t s.mem) (here : t.cmd c q idx = some y) (own : x.c = c) (place : x.q = q)
    (sel : selOf dst = .desc i) (dest : s.desc x i [0, 1, 2] = some d) (mem : d.kind = 0) (addr : parseAddr d.addr = .scr w e n)
    (lies : s.lies (s.ctx c).ptn (arrDie (dealt (s.cmdArrays c q) 0).1) d.addr 4 (scrKey o e k)) (slot : Nat)
    (val : Nat → Nat → Nat → Nat × Num) : ∃ z,
    Edged s (t.putExtent x idx dst 1 1 13 slot val) (s.mem.writeAll (scrKey o e k) (leBytes 4 (val 0 0 0).1)) ∧
      (t.putExtent x idx dst 1 1 13 slot val).cmd c q idx = some z ∧ z.result = some .ok ∧ z.count = 1 := by
  have stored := edged.stored (scrKey o e k) (leBytes 4 (val 0 0 0).1)
  have to_ : t.selDest x dst 0 slot = .mem d := by
    unfold selDest
    rw [sel]
    dsimp only
    rw [begun.desc _ _ own, dest]
    dsimp only
    rw [if_pos mem]
  have put : t.putDest c q idx (s.ctx c).ptn (arrDie (dealt (s.cmdArrays c q) 0).1) (.mem d) 13 1 0 0 [(val 0 0 0).1] =
      { t with mem := t.mem.writeAll (scrKey o e k) (leBytes 4 (val 0 0 0).1) } := putDest_one addr (begun.lies lies) ..
  obtain ⟨F, run, index, ok, count⟩ : ∃ F : Cmd → Cmd, t.putExtent x idx dst 1 1 13 slot val =
      ({ t with mem := t.mem.writeAll (scrKey o e k) (leBytes 4 (val 0 0 0).1) } : State).modCmd c q idx F ∧
      (∀ z, (F z).index = z.index) ∧ (F y).result = some .ok ∧ (F y).count = 1 := by
    subst own place
    unfold putExtent
    extract_lets ctx rows u vals wrote
    have rows_ : rows = [((0, 0, 1), [val 0 0 0])] := by
      unfold rows
      rw [show extentRows 1 1 = [(0, 0, 1)] by decide]
      rfl
    have stored_ : u = { t with mem := t.mem.writeAll (scrKey o e k) (leBytes 4 (val 0 0 0).1) } := by
      unfold u
      rw [rows_, List.foldl_cons, List.foldl_nil]
      dsimp only
      rw [to_, begun.cmdArrays]
      unfold ctx
      rw [begun.ptn]
      exact put
    have wrote_ : wrote = true := by
      unfold wrote
      rw [sel]
    have one_ : vals.length = 1 := by
      unfold vals
      rw [rows_]
      rfl
    rw [stored_]
    exact ⟨_, rfl, fun _ => rfl, rfl, (if_pos wrote_).trans one_⟩
  rw [run]
  exact stored.ended (Tidied.refl _) here F index ok count

theorem startEdge_runs {srcs : List Nat} {p : Param} (rows : p.rows = 1) (cols : p.cols = 1)
    (ready : (srcs.all fun v => s.storeReady x v 1) = true) (sel : selOf dst = .desc i) (noRow : s.desc x i [1] = none)
    (noChan : s.desc x i [2] = none) (free : s.edgeFree x 1 = true) (run : State → Nat → State) :
    s.startEdge c q idx x dst srcs p run = run (s.edgeWaited c q idx (s.arraysUsed x 1)) 0 := by
  have chan : s.pickChan x dst = none := by
    unfold pickChan
    rw [sel]
    dsimp only
    rw [noChan]
    rfl
  have room : s.storeFree x dst 1 = true := by
    unfold storeFree namesStore
    rw [sel]
    dsimp only
    rw [noRow]
    rfl
  unfold startEdge
  rw [rows, cols, show tileCount 1 1 = 1 by decide, chan]
  dsimp only
  rw [ready, room, free]
  rfl

theorem tilePos_one : tilePos 1 0 = (0, 0) := by decide

/-- The element that ELTWISE writes (R167). -/
def eltOne (s : State) (x : At) (p : Param) : Nat :=
  (convertTo 13 (rndOf false (x.f 79 78) (s.ctx x.c).tx2 0) (x.b 80) (toSigned 8 (x.f 88 81)) (s.ctx x.c).tx2
    (subRule (s.ctx x.c).tx2 (eltOp (x.f 20 16) (x.f 91 89) (s.eltSource x (x.f 30 21) (x.f 73 70) 1 0 0 0 p)
      (s.eltSource x (x.f 40 31) (x.f 73 70) 1 0 0 0 p) (s.eltSource x (x.f 50 41) (x.f 73 70) 1 0 0 0 p)))).1

theorem runEltwise_one {p : Param} (begun : Begun s t c q) (edged : Edged s t s.mem) (here : t.cmd c q idx = some y) (own : x.c = c)
    (place : x.q = q) (rows : p.rows = 1) (cols : p.cols = 1) (sel : selOf (x.f 60 51) = .desc i) (dest : s.desc x i [0, 1, 2] = some d)
    (mem : d.kind = 0) (format : x.f 77 74 = 13) (grad : x.b 8 = false) (plain : x.f 79 78 ≠ 2) (nodraw : x.f 93 92 = 0)
    (addr : parseAddr d.addr = .scr w e n) (lies : s.lies (s.ctx c).ptn (arrDie (dealt (s.cmdArrays c q) 0).1) d.addr 4 (scrKey o e k)) : ∃ z,
    Edged s (t.runEltwise idx x p 0) (s.mem.writeAll (scrKey o e k) (leBytes 4 (s.eltOne x p))) ∧
      (t.runEltwise idx x p 0).cmd c q idx = some z ∧ z.result = some .ok ∧ z.count = 1 := by
  subst own place
  unfold runEltwise
  extract_lets op tiles draws s0 tx2 dr val free s1 s2
  obtain ⟨z0, there⟩ : ∃ z, s0.cmd x.c x.q idx = some z := Option.isSome_iff_exists.mp (takeDraws_spec here _).choose_spec.2.1
  have begun0 : Begun s s0 x.c x.q := begun.trans (Begun.takeDraws here _)
  have edged0 : Edged s s0 s.mem := edged.takeDraws here _
  have value : (val 0 0 0).1 = s.eltOne x p := by
    have same : tx2 = (s.ctx x.c).tx2 := begun0.tx2
    have undrawn (out : Nat) (v : Num) : eltDraw tx2 0 out p v = v := rfl
    unfold val eltOne
    dsimp only
    rw [rows, format, grad, nodraw, undrawn, rndOf_plain plain, begun0.eltSource rfl rfl, begun0.eltSource rfl rfl, begun0.eltSource rfl rfl, same]
  obtain ⟨z, stored, ended, ok, one_⟩ := putExtent_one begun0 edged0 there rfl rfl sel dest mem addr lies 0 val
  have eq : s1 = s0.putExtent x idx (x.f 60 51) 1 1 13 0 val := by
    unfold s1
    rw [rows, cols, format]
  rw [value] at stored
  rw [← eq] at stored ended
  have tidy : Tidied s1 ((s2.noteElt x tiles).noteEdge x p.rows p.cols (eltWaves op) free) :=
    (Tidied.endStores ..).trans ((Tidied.noteElt ..).trans (Tidied.noteEdge ..))
  exact ⟨z, stored.tidied tidy, tidy.cmd.trans ended, ok, one_⟩

/-- The element that CONVERT writes (R170). -/
def convertOne (s : State) (x : At) (p : Param) : Nat :=
  (convertTo 13 (rndOf false (x.f 45 44) (s.ctx x.c).tx2 0) (x.b 46) (toSigned 8 (x.f 54 47)) (s.ctx x.c).tx2
    (s.sourceNum x (x.f 25 16) (x.f 39 36) 1 0 0 0 p)).1

theorem runConvert_one {p : Param} {v : Nat} (begun : Begun s t c q) (edged : Edged s t s.mem) (here : t.cmd c q idx = some y) (own : x.c = c)
    (place : x.q = q) (rows : p.rows = 1) (cols : p.cols = 1) (source : selOf (x.f 25 16) = .desc v) (sel : selOf (x.f 35 26) = .desc i)
    (dest : s.desc x i [0, 1, 2] = some d) (mem : d.kind = 0) (noChan : s.desc x i [2] = none) (format : x.f 43 40 = 13)
    (grad : x.b 8 = false) (plain : x.f 45 44 ≠ 2)
    (addr : parseAddr d.addr = .scr w e n) (lies : s.lies (s.ctx c).ptn (arrDie (dealt (s.cmdArrays c q) 0).1) d.addr 4 (scrKey o e k)) : ∃ z,
    Edged s (t.runConvert idx x p 0) (s.mem.writeAll (scrKey o e k) (leBytes 4 (s.convertOne x p))) ∧
      (t.runConvert idx x p 0).cmd c q idx = some z ∧ z.result = some .ok ∧ z.count = 1 := by
  subst own place
  unfold runConvert
  extract_lets tiles draws s0 tx2 dr slotSrc toSlot val s1
  obtain ⟨z0, there⟩ : ∃ z, s0.cmd x.c x.q idx = some z := Option.isSome_iff_exists.mp (takeDraws_spec here _).choose_spec.2.1
  have begun0 : Begun s s0 x.c x.q := begun.trans (Begun.takeDraws here _)
  have edged0 : Edged s s0 s.mem := edged.takeDraws here _
  have value : (val 0 0 0).1 = s.convertOne x p := by
    have same : tx2 = (s.ctx x.c).tx2 := begun0.tx2
    have memory : slotSrc = false := by
      unfold slotSrc
      rw [source]
    have chan : s0.pickChan x (x.f 35 26) = none := by
      unfold pickChan
      rw [sel]
      dsimp only
      rw [begun0.desc _ _ rfl, noChan]
      rfl
    have outside : toSlot = false := by
      unfold toSlot
      rw [chan, Option.isSome_none, Bool.and_false]
    unfold val convertOne
    dsimp only
    rw [memory, outside, rows, format, grad, rndOf_plain plain, begun0.sourceNum rfl rfl, same]
    rfl
  obtain ⟨z, stored, ended, ok, one_⟩ := putExtent_one begun0 edged0 there rfl rfl sel dest mem addr lies 0 val
  have eq : s1 = s0.putExtent x idx (x.f 35 26) 1 1 13 0 val := by
    unfold s1
    rw [rows, cols, format]
  rw [value] at stored
  rw [← eq] at stored ended
  have tidy : Tidied s1 (((s1.endStores s0 x [x.f 25 16] (x.f 35 26) tiles).noteElt x tiles).noteEdge x p.rows p.cols 1 false) :=
    (Tidied.endStores ..).trans ((Tidied.noteElt ..).trans (Tidied.noteEdge ..))
  exact ⟨z, stored.tidied tidy, tidy.cmd.trans ended, ok, one_⟩

end

end State

open State

/-- A matrix command that has begun is dealt as R83, R107 and R108 say. -/
theorem dealt_of_startMatrix {s : State} {c q : Nat} {idx : Word} {y : Cmd} {op split : Nat}
    (ready : s.ready op c q idx y (s.queueDomains c q)) (low : op ≤ 6) (parts : split = (matForm (atCmd c q y)).split)
    (drains : ∀ d, s.opd (atCmd c q y) 34 [2] = some d → ∃ i, s.chanOf d.handle = some i ∧ s.chanStatus i true = none ∧
      s.chanActs i true = true ∧ s.canFill i = true) : ∃ t,
    (act s fun s => s.unitStart op c q idx (s.queueDomains c q) fun s _ x => s.startMatrix c q idx x) = .next t ∧
    (t = { s with arrays := t.arrays, contexts := t.contexts, channels := t.channels } ∧
      (s.opd (atCmd c q y) 34 [2] = none → t.channels = s.channels) ∧
      t.cmdIs c q idx (fun z => z.started && z.left == s.matTiles (atCmd c q y) && z.count == s.matTiles (atCmd c q y) && z.result == none &&
        z.word == y.word) ∧
      (∀ a, a ∉ s.cmdArrays c q → t.arr a = s.arr a) ∧
      ∀ u, u < s.matTiles (atCmd c q y) * split →
        ((t.arr (dealt (s.cmdArrays c q) u).1).bound.any fun b => b.ctx == c && b.q == q && b.idx == idx && b.tile == u / split &&
          b.part == u % split && b.lo == u % split * s.tileChunks (atCmd c q y) / split &&
          b.hi == (u % split + 1) * s.tileChunks (atCmd c q y) / split && b.first &&
          b.add == (matForm (atCmd c q y)).add && b.drain == (matForm (atCmd c q y)).drain &&
          b.slot == (if (matForm (atCmd c q y)).drain then none
            else some (((matForm (atCmd c q y)).slot + (dealt (s.cmdArrays c q) u).2) % 4))) = true) := by
  have ⟨live, _, here, unended, _, _, _, _, _, arrays, _⟩ := ready
  obtain ⟨z, ks, hs, w, d, eq, same, final, far, bound⟩ := startMatrix_deals here (arrays low) rfl drains
  subst parts
  refine ⟨_, act_eq_next live ((unitStart_ready ready _).trans eq), rfl, same, ?_, ?_, ?_⟩
  · rw [eq] at final
    show Option.any _ (State.cmd _ c q idx) = true
    rw [final]
    simp [unended]
  · rw [eq] at far
    exact far
  · intro u small
    rw [eq] at bound
    refine List.any_eq_true.mpr ⟨_, bound u small, ?_⟩
    simp [partBound]

theorem dealt_zero {as : List Nat} (some_ : as ≠ []) : (dealt as 0).1 = as.getD 0 0 := by
  have pos : as.length ≠ 0 := fun e => some_ (List.length_eq_zero_iff.mp e)
  unfold dealt
  rw [if_neg pos, Nat.zero_mod]

/-- Settles O43: matrix commands by what they bind, the edge units' commands by what they store. -/
theorem arrayCommandsRun : Obligations.ArrayCommandsRun := by
  intro s c q idx y x ptn die ars dealtOut canDrain
  refine ⟨fun ready drains => ?_, fun ready drains => ?_, ?_, ?_, ?_, ?_⟩
  · have ⟨_, _, _, _, _, _, kind, _⟩ := ready
    have product : x.f 5 0 = 1 := kind
    exact dealt_of_startMatrix ready (by decide) (by rw [matForm, if_pos product]) drains
  · have ⟨_, _, _, _, _, _, kind, _⟩ := ready
    have conv : x.f 5 0 ≠ 1 := fun e => absurd (kind.symm.trans e) (by decide)
    exact dealt_of_startMatrix ready (by decide) (by rw [matForm, if_neg conv]) drains
  · intro p i d k ready param rows cols sources sel dest mem noRow noChan format grad plain nodraw addr free lies
    have ⟨live, _, here, _, _, _, _, _, _, arrays, _⟩ := ready
    rw [← dealt_zero (arrays (by decide))] at addr lies ⊢
    obtain ⟨w, there⟩ := edgeWaited_cmd here (s.arraysUsed x 1)
    obtain ⟨z, edged, ended, ok, one_⟩ := runEltwise_one (x := x) (Begun.edgeWaited here (s.arraysUsed x 1)) (Edged.edgeWaited s _) there rfl rfl
      rows cols sel dest mem format grad plain nodraw addr lies
    show ∃ t, execEltwise c q idx s = .next t ∧ s.StoresOne t c q idx _ (leBytes 4 (s.eltOne x p))
    unfold execEltwise
    refine storesOne_of_edged live ?_ edged ended ok one_
    rw [unitStart_ready ready]
    rw [param]
    exact startEdge_runs rows cols sources sel noRow noChan free _
  · intro p i d k v ready param rows cols source from_ sel dest mem noRow noChan format grad plain addr free lies
    have ⟨live, _, here, _, _, _, _, _, _, arrays, _⟩ := ready
    rw [← dealt_zero (arrays (by decide))] at addr lies ⊢
    obtain ⟨w, there⟩ := edgeWaited_cmd here (s.arraysUsed x 1)
    obtain ⟨z, edged, ended, ok, one_⟩ := runConvert_one (x := x) (Begun.edgeWaited here (s.arraysUsed x 1)) (Edged.edgeWaited s _) there rfl rfl
      rows cols from_ sel dest mem noChan format grad plain addr lies
    show ∃ t, execConvert c q idx s = .next t ∧ s.StoresOne t c q idx _ (leBytes 4 (s.convertOne x p))
    unfold execConvert
    refine storesOne_of_edged live ?_ edged ended ok one_
    rw [unitStart_ready ready]
    rw [param]
    exact startEdge_runs rows cols (by simp only [List.all_cons, List.all_nil, Bool.and_true]; exact source) sel noRow noChan free _
  · intro p d k ready param one_ row source dest addr lies
    have ⟨live, _, here, _⟩ := ready
    obtain ⟨w, there⟩ := edgeWaited_cmd here (s.arraysUsed x (tileCount 1 p.cols))
    obtain ⟨z, edged, ended, ok, count⟩ := runReduce_one (x := x) (Begun.edgeWaited here (s.arraysUsed x (tileCount 1 p.cols)))
      (Edged.edgeWaited s _) there rfl rfl one_ row dest addr lies
    show ∃ t, execReduce c q idx s = .next t ∧ s.StoresOne t c q idx _ (reduceBytes (x.f 17 16) (s.reduceOne x p 0))
    unfold execReduce
    refine storesOne_of_edged live ?_ edged ended ok count
    rw [unitStart_ready ready]
    dsimp only
    rw [param]
    dsimp only
    rw [one_, source, if_pos rfl]
  · intro p d k ready param one_ row source dest fits addr lies
    have ⟨live, _, here, _⟩ := ready
    have begun := Begun.edgeWaited here (s.arraysUsed x (tileCount 1 p.cols))
    obtain ⟨w, there⟩ := edgeWaited_cmd here (s.arraysUsed x (tileCount 1 p.cols))
    obtain ⟨z, edged, ended, ok, count⟩ := runTopGeneric_one (x := x) begun (Edged.edgeWaited s _) there rfl rfl one_ fits addr lies
    let v := (s.edgeWaited c q idx (s.arraysUsed x (tileCount 1 p.cols))).runTopGeneric c q idx x p d
    let hs := (s.edgeWaited c q idx (s.arraysUsed x (tileCount 1 p.cols))).storesRead x (x.f 31 22) (tileCount 1 p.cols)
    have tidy : Tidied v ((v.releaseSlots x (x.f 31 22) (tileCount 1 p.cols)).setHalves hs Half2.reset) :=
      (Tidied.releaseSlots ..).trans (Tidied.setHalves ..)
    show ∃ t, execTopk c q idx s = .next t ∧ s.StoresOne t c q idx _ (s.topEntries x p (8 * (x.f 21 17 + 1)))
    unfold execTopk
    refine storesOne_of_edged live ?_ (edged.tidied tidy) (tidy.cmd.trans ended) ok count
    rw [unitStart_ready ready]
    dsimp only
    rw [param]
    dsimp only
    rw [one_, source, row, (begun.opd 32 [0] rfl).trans dest]
    rfl

end Sys2Proof.Machine
end

section
/-! SUPPORT. Requests of ingest streams: a stream opens, closes, pauses and resumes (R208 to R210, R215, R229). -/

set_option Elab.async false

namespace Sys2Proof.Machine

namespace State

variable {s t : State} {a h i : Nat} {st : Stream}

/-- The answer to a stream request (Table 8-4). -/
theorem medAnswer_spec (k : s.Reached a h 128) (c : Status) (detail handle clips : Nat) : ∃ m p o,
    s.medAnswer a c detail handle clips = { s with mem := m, plk := p, out := o } ∧ (m.read (hostKey (h + 0x70))).toNat = c.code := by
  have line : leBytes 1 c.code ++ leBytes 1 detail ++ zeros 2 ++ leBytes 4 handle ++ leBytes 8 clips =
      leBytes 1 c.code ++ (leBytes 1 detail ++ zeros 2 ++ leBytes 4 handle ++ leBytes 8 clips) := by
    simp only [List.append_assoc]
  obtain ⟨p, o, posted⟩ := k.post (off := 0x70)
    (l := leBytes 1 c.code ++ (leBytes 1 detail ++ zeros 2 ++ leBytes 4 handle ++ leBytes 8 clips)) (by simp [zeros]) (by decide)
  exact ⟨_, p, o, by rw [medAnswer, line, posted], read_answer_code ..⟩

/-- A stream request that the unit can read. -/
structure StreamLine (s : State) (a h : Nat) : Prop where
  aligned : a % 128 = 0
  reached : s.Reached a h 128
  readable : s.requestOk a 128 = true
  media : s.variant.media 0 = true
  version : le (s.fwRead a 128) 0 4 = 1
  slice : s.isOpen 72 = true

namespace StreamLine

variable (k : s.StreamLine a h)
include k

theorem medRequest_eq (f : State → List Byte → State) : s.medRequest a f = f s (s.fwRead a 128) := by
  unfold medRequest
  rw [if_neg (by simp [k.aligned, k.readable]), k.media]
  rfl

theorem streamRequest_eq (named : s.streamOf (le (s.fwRead a 128) 4 4) = some i) (there : tget s.streams i = some st)
    (f : State → Nat → Stream → State) :
    s.streamRequest a f = (f s i st).medAnswer a .ok 0 (le (s.fwRead a 128) 4 4) st.clips := by
  unfold streamRequest
  rw [k.medRequest_eq]
  dsimp only
  rw [named, refusal_of_clear (by simp [k.version, k.slice]), Option.bind_some, there]
  rfl

end StreamLine

/-- The stream that an accepted open makes. -/
def openedStream (s : State) (l x : List Byte) : Stream := {
    state := .running, desc := l, clips := le x 8 8, servers := le x 4 4
    fetchPos := fld (le l 0x38 8) 55 16, fetchEpoch := fld (le l 0x38 8) 63 56
    start := le l 0x38 8, uncounted := none, nextSeq := 0, window := [], gathered := [], skipped := 0, dropped := 0, rereads := 0
    skipHead := 0, skipTail := 0, skips := [], index := x, loc := s.fwRead (le l 0x48 8) 64, parts := [] }

theorem openStream_accepts (k : s.StreamLine a h) {l : List Byte} (line : s.fwRead a 128 = l) {x : List Byte} {p c : Nat} {hs : HandleTable}
    (part : s.ptnOf (le l 4 4) = some p) (consumer : s.ctxOf (le l 8 4) = some c) (own : (s.ctx c).ptn = p) (single : le l 0xC 4 = 0)
    (room : s.streamHandles.take 16 = some (i, hs)) (good : s.badStream l = false) (frames : (Shape.ofBytes l).perFrame ≤ 4096)
    (clip : (Shape.ofBytes l).maxFrames * (Shape.ofBytes l).perFrame ≤ 65536)
    (ring : s.inSpace p (le l 0x20 8) (le l 0x12 1 * (roundUp (le l 0x14 2 * ((Shape.ofBytes l).pitch + 8) + 64) 65536 / 65536)) = true)
    (window : s.inSpace p (le l 0x28 8) (le l 0x30 4) = true) (index : indexOk x = true) (near : fld (le l 0x38 8) 55 16 < le x 8 8) :
    ∃ m q o, s.openStream a (some x) = { s with
        streams := tput s.streams i (s.openedStream l x), streamHandles := hs, mem := m, plk := q, out := o } ∧
      (m.read (hostKey (h + 0x70))).toNat = Status.ok.code := by
  have version := k.version
  rw [line] at version
  unfold openStream
  rw [k.medRequest_eq, line]
  unfold openFrom
  extract_lets sh p0 c0 two c1 st0 ring0 space good0 far
  have none_ : refusal [(le l 0 4 != 1, .versionUnsupported, 0), (p0.isNone || c0.isNone || (two && c1.isNone), .handleStale, 0),
    (!s.isOpen 72, .retryLater, 0), ((s.streamHandles.take 16).isNone, .refusedCapacity, 1),
    (s.badStream l || far, .refusedInfeasible, 2),
    (4096 < sh.perFrame || 65536 < sh.maxFrames * sh.perFrame, .refusedInfeasible, 3), (space, .refusedInfeasible, 4),
    (!good0, .refusedInfeasible, 5), ((c0.map fun c => (s.ctx c).ptn) != p0, .refusedInfeasible, 6)] = none := by
    have two_ : two = false := by simp [two, single]
    have p0_ : p0 = some p := part
    have c0_ : c0 = some c := consumer
    have ring_ : ring0 = le l 0x12 1 * (roundUp (le l 0x14 2 * ((Shape.ofBytes l).pitch + 8) + 64) 65536 / 65536) := rfl
    have space_ : space = false := by
      unfold space
      rw [p0_, two_, ring_]
      simp [ring, window]
    have far_ : far = false := by
      simp [far, near]
    have good_ : good0 = true := index
    have sh_ : sh = Shape.ofBytes l := rfl
    refine refusal_of_clear ?_
    simp [version, p0_, c0_, two_, k.slice, room, good, far_, sh_, frames, clip, space_, good_, own]
  rw [none_, room]
  exact medAnswer_spec (s := { s with streams := tput s.streams i st0, streamHandles := hs }) ⟨k.reached.host, k.reached.up, k.reached.fits⟩ ..

theorem openStream_full (k : s.StreamLine a h) (part : s.ptnOf (le (s.fwRead a 128) 4 4) ≠ none)
    (consumer : s.ctxOf (le (s.fwRead a 128) 8 4) ≠ none) (single : le (s.fwRead a 128) 0xC 4 = 0) (full : s.streamHandles.take 16 = none) :
    ∃ m q o, s.openStream a none = { s with mem := m, plk := q, out := o } ∧ (m.read (hostKey (h + 0x70))).toNat = Status.refusedCapacity.code := by
  have version := k.version
  unfold openStream
  rw [k.medRequest_eq]
  generalize s.fwRead a 128 = l at *
  unfold openFrom
  extract_lets sh p0 c0 two c1 st0 ring0 space good0 far
  have refused : refusal [(le l 0 4 != 1, .versionUnsupported, 0), (p0.isNone || c0.isNone || (two && c1.isNone), .handleStale, 0),
    (!s.isOpen 72, .retryLater, 0), ((s.streamHandles.take 16).isNone, .refusedCapacity, 1),
    (s.badStream l || far, .refusedInfeasible, 2),
    (4096 < sh.perFrame || 65536 < sh.maxFrames * sh.perFrame, .refusedInfeasible, 3), (space, .refusedInfeasible, 4),
    (!good0, .refusedInfeasible, 5), ((c0.map fun c => (s.ctx c).ptn) != p0, .refusedInfeasible, 6)] = some (.refusedCapacity, 1) := by
    have two_ : two = false := by simp [two, single]
    have p0_ : p0.isNone = false := Option.isNone_eq_false_iff.mpr (Option.isSome_iff_ne_none.mpr part)
    have c0_ : c0.isNone = false := Option.isNone_eq_false_iff.mpr (Option.isSome_iff_ne_none.mpr consumer)
    refine refusal_of_check 3 (by rw [full]; rfl) ?_ ?_
    · simp [version, p0_, c0_, two_, k.slice]
    · simp [Status.rank]
  rw [refused]
  exact medAnswer_spec k.reached ..

theorem streamClose_spec (k : s.StreamLine a h) (named : s.streamOf (le (s.fwRead a 128) 4 4) = some i) (there : tget s.streams i = some st) :
    ∃ m q o, s.streamRequest a (fun s i _ => s.closeStream i) = { s with
        streams := tdel s.streams i, streamHandles := s.streamHandles.free i
        engines := tmap (fun _ e => if e.busy && e.stream == i then { e with busy := false } else e) s.engines
        mem := m, plk := q, out := o } ∧ (m.read (hostKey (h + 0x70))).toNat = Status.ok.code := by
  rw [k.streamRequest_eq named there]
  exact medAnswer_spec (s := s.closeStream i) ⟨k.reached.host, k.reached.up, k.reached.fits⟩ ..

/-- No engine decodes a clip of a closed stream. -/
theorem closed_engines (es : Tab MediaEngine) (i : Nat) :
    (tmap (fun _ (e : MediaEngine) => if e.busy && e.stream == i then { e with busy := false } else e) es).all
      (fun e => !(e.2.busy && e.2.stream == i)) = true := by
  refine List.all_eq_true.mpr fun e mem => ?_
  obtain ⟨⟨n, z⟩, _, rfl⟩ := List.mem_map.mp mem
  dsimp only
  by_cases decodes : (z.busy && z.stream == i) = true
  · rw [if_pos decodes]
    rfl
  · rw [if_neg decodes]
    rw [Bool.eq_false_of_not_eq_true decodes]
    rfl

theorem streamPause_spec (k : s.StreamLine a h) (named : s.streamOf (le (s.fwRead a 128) 4 4) = some i) (there : tget s.streams i = some st)
    (active : st.state = .running ∨ st.state = .stalled) :
    ∃ m q o, s.streamRequest a (fun s i st => s.pauseStream i st) = { s with
        streams := tput s.streams i { st with state := .paused }, mem := m, plk := q, out := o } ∧
      (m.read (hostKey (h + 0x70))).toNat = Status.ok.code := by
  rw [k.streamRequest_eq named there]
  have paused : s.pauseStream i st = { s with streams := tput s.streams i { st with state := .paused } } := by
    rw [pauseStream, if_pos active]
  rw [paused]
  exact medAnswer_spec (s := { s with streams := tput s.streams i { st with state := .paused } })
    ⟨k.reached.host, k.reached.up, k.reached.fits⟩ ..

theorem streamResume_spec (k : s.StreamLine a h) (named : s.streamOf (le (s.fwRead a 128) 4 4) = some i) (there : tget s.streams i = some st)
    (paused : st.state = .paused) :
    ∃ m es q o, s.streamRequest a (fun s i st => s.resumeStream i st) = { s with
        streams := tput s.streams i { st with state := if st.replay && st.missing then .stalled else .running }
        events := es, mem := m, plk := q, out := o } ∧
      (m.read (hostKey (h + 0x70))).toNat = Status.ok.code ∧
      (st.replay = true → st.missing = true → bitAt (tgetD es evMed (EventReg.reset evMed)).value 1 = true) := by
  rw [k.streamRequest_eq named there]
  let u : State := { s with streams := tput s.streams i { st with state := if st.replay && st.missing then .stalled else .running } }
  have line (v : State) (up : v.linkUp = s.linkUp) : v.Reached a h 128 := ⟨k.reached.host, up.trans k.reached.up, k.reached.fits⟩
  by_cases waits : (st.replay && st.missing) = true
  · have resumed : s.resumeStream i st = u.raiseEv evMed 1 := by
      have stalls : st.runState = .stalled := if_pos waits
      unfold resumeStream
      rw [if_pos paused, stalls]
      unfold u
      rw [if_pos waits]
      rfl
    rw [resumed]
    have raised := raiseEv_sets u evMed 1
    obtain ⟨m, q, o, answered, code⟩ := medAnswer_spec (line (u.raiseEv evMed 1) (raiseEv_linkUp u evMed 1)) .ok 0 (le (s.fwRead a 128) 4 4) st.clips
    refine ⟨m, (u.raiseEv evMed 1).events, q, o, ?_, code, fun _ _ => raised⟩
    rw [answered]
    generalize (u.raiseEv evMed 1).events = es at *
    rw [raiseEv_eq]
  · have resumed : s.resumeStream i st = u := by
      have runs : st.runState = .running := if_neg waits
      unfold resumeStream
      rw [if_pos paused, runs, if_neg (by decide)]
      unfold u
      rw [if_neg waits]
    rw [resumed]
    obtain ⟨m, q, o, answered, code⟩ := medAnswer_spec (line u rfl) .ok 0 (le (s.fwRead a 128) 4 4) st.clips
    exact ⟨m, s.events, q, o, answered, code, fun r w => absurd (by rw [r, w]; rfl) waits⟩

end State

end Sys2Proof.Machine
end

section
/-! SUPPORT. The clips of an ingest stream are fetched, read again, skipped and decoded (R212 to R222). -/

set_option Elab.async false

namespace Sys2Proof.Machine

/-- A clip without the chunks that are under way. -/
def Clip.idle (c : Clip) : Clip := { c with chunks := [] }

namespace State

variable {s t u : State} {i : Nat} {st : Stream}

/-! ### READs -/

/-- What the READs issued for stream `i` leave. -/
structure Reads (i : Nat) (st : Stream) (s t : State) : Prop where
  frame : ∃ ss no nh, t = { s with streams := ss, netOut := no, netHeld := nh }
  own : ∃ w, tget t.streams i = some { st with window := w } ∧ w.map Clip.idle = st.window.map Clip.idle
  others : ∀ j, j ≠ i → tget t.streams j = tget s.streams j
  sent : ∀ m ∈ s.netOut, m ∈ t.netOut

theorem Reads.refl (there : tget s.streams i = some st) : Reads i st s s :=
  ⟨⟨_, _, _, rfl⟩, ⟨st.window, there, rfl⟩, fun _ _ => rfl, fun _ h => h⟩

theorem issueReads_reads (fuel : Nat) : ∀ {s : State} {st : Stream}, tget s.streams i = some st → Reads i st s (s.issueReads i fuel) := by
  induction fuel with
  | zero => exact Reads.refl
  | succ n ih =>
    intro s st there
    unfold issueReads
    rw [there]
    dsimp only
    split
    · exact Reads.refl there
    · split
      · exact Reads.refl there
      · next k _ =>
        split
        · next c m here _ =>
          let st1 : Stream := { st with window := st.window.set k { c with chunks := c.chunks ++ [m] } }
          let v := (s.setStream i st1).sendNet (chunkAsk i st c m)
          have placed : tget v.streams i = some st1 := tget_tput_same ..
          obtain ⟨⟨ss, no, nh, eq⟩, ⟨w, own, clips⟩, others, sent⟩ := ih placed
          refine ⟨⟨ss, no, nh, eq⟩, ⟨w, own, ?_⟩, fun j ne => (others j ne).trans (tget_tput_ne _ _ ne),
            fun x mem => sent x (List.mem_append_left _ mem)⟩
          obtain ⟨low, at_⟩ := List.getElem?_eq_some_iff.mp here
          have same : Clip.idle { c with chunks := c.chunks ++ [m] } = Clip.idle st.window[k] := by rw [at_]; rfl
          have there : (st.window.map Clip.idle)[k]'(by rw [List.length_map]; exact low) = Clip.idle st.window[k] := List.getElem_map ..
          rw [clips, List.map_set, same, ← there, List.set_getElem_self]
        · exact Reads.refl there

theorem idle_cons {c : Clip} {r w : List Clip} (same : w.map Clip.idle = (c :: r).map Clip.idle) :
    ∃ d v, w = d :: v ∧ d.idle = c.idle := by
  cases w with
  | nil => cases same
  | cons d v => exact ⟨d, v, rfl, (List.cons.inj same).1⟩

theorem idle_append {c : Clip} {r w : List Clip} (same : w.map Clip.idle = (r ++ [c]).map Clip.idle) :
    w.length = r.length + 1 ∧ ∃ d, w.getLast? = some d ∧ d.idle = c.idle := by
  have long : w.length = r.length + 1 := by simpa using congrArg List.length same
  have last := congrArg List.getLast? same
  rw [List.getLast?_map, List.getLast?_map, List.getLast?_append, List.getLast?_singleton] at last
  obtain ⟨d, there, eq⟩ := Option.map_eq_some_iff.mp last
  exact ⟨long, d, there, eq⟩

/-! ### The next clip -/

/-- A stream that can read the entry of its next clip. -/
structure FetchDue (s : State) (i : Nat) (st : Stream) : Prop where
  there : tget s.streams i = some st
  slice : s.isOpen 72 = true
  active : st.state = .running ∨ st.state = .stalled
  more : st.fetched = false
  within : st.fetchPos < st.clips
  still : s.fetchPaused st = false
  unlisted : s.skipListed st st.fetchPos st.fetchEpoch = false

/-- The READ of the entry of the stream's next clip. -/
def nextEntry (s : State) (i : Nat) (st : Stream) : NetMsg :=
  entryAsk i st (clipAt st.fetchPos st.clips (s.ctx ((s.ctxOf (st.d 8 4)).getD 0)).seed.toNat st.fetchEpoch)

/-- The clip that takes its reservation. -/
def fetchedClip (st : Stream) (e : List Byte) : Clip := {
  position := st.fetchPos, epoch := st.fetchEpoch, state := .reading, entry := e, chunks := [], data := [], replica := false
  attempts := 1, since := none, reason := 0, bytes := le e 8 4 + st.shape.maxFrames * st.shape.perFrame * st.shape.pitch
  first := 0, tokens := [] }

theorem clipFetch_excluded {e : List Byte} (due : FetchDue s i st) (excluded : entryExcluded e st.servers = true) :
    s.clipFetch i e = (s.sendNet (s.nextEntry i st)).setStream i st.advance := by
  obtain ⟨there, slice, active, more, within, still, unlisted⟩ := due
  unfold clipFetch
  rw [there]
  dsimp only
  rw [if_neg (fun e => e.elim (fun a => active.elim a.1 a.2) (by simp [slice, still])), more, if_neg (by decide), if_neg (by simp [within, unlisted]), if_pos excluded]
  rfl

theorem clipFetch_takes {e : List Byte} (due : FetchDue s i st) (included : entryExcluded e st.servers = false)
    (fits : (st.window.map (·.bytes)).sum + (fetchedClip st e).bytes ≤ st.d 0x30 4 * 65536) :
    s.clipFetch i e = (((s.sendNet (s.nextEntry i st)).setStream i { st.advance with window := st.window ++ [fetchedClip st e] }).undefineWindow
      st).issueReads i maxReads := by
  obtain ⟨there, slice, active, more, within, still, unlisted⟩ := due
  unfold clipFetch
  rw [there]
  dsimp only
  rw [if_neg (fun e => e.elim (fun a => active.elim a.1 a.2) (by simp [slice, still])), more, if_neg (by decide), if_neg (by simp [within, unlisted]), included, if_neg (by decide)]
  have room : (st.window.map (·.bytes)).sum + (le e 8 4 + st.shape.maxFrames * st.shape.perFrame * st.shape.pitch) ≤ st.d 0x30 4 * 65536 :=
    fits
  simp only [room, decide_true, ↓reduceIte]
  rfl

theorem undefineWindow_eq (s : State) (st : Stream) : ∃ m n, s.undefineWindow st = { s with mem := m, free := n } := by
  unfold undefineWindow
  split
  · exact ⟨_, _, rfl⟩
  · exact ⟨_, _, rfl⟩

/-! ### Bytes that arrive -/

/-- The data that arrives from a connection changes only the network's own state. -/
theorem dataArrives_eq (s : State) (q prio : Nat) : ∃ qs ps n no nh,
    s.dataArrives q prio = { s with net := { s.net with qps := qs }, ports := ps, free := n, netOut := no, netHeld := nh } := by
  unfold dataArrives
  dsimp only
  split
  · split
    · exact ⟨_, _, _, _, _, rfl⟩
    · exact ⟨_, _, _, s.netOut, s.netHeld, rfl⟩
  · exact ⟨_, s.ports, _, s.netOut, s.netHeld, rfl⟩

/-- The clip that is read again from the other server (R214). -/
def rereadClip (s : State) (c : Clip) (reason : Nat) : Clip :=
  { c with
    state := .reading, chunks := [], data := [], replica := if c.e 0x11 1 = 0xFF then c.replica else !c.replica
    attempts := satAdd 16 c.attempts 1, reason := reason, since := c.since.orElse fun _ => some (s.dom 72).time }

theorem reread_spec {c : Clip} {rest : List Clip} (here : st.window = c :: rest) (reason : Nat) : ∃ v d,
    tget (s.reread i st 0 c reason).streams i = some v ∧ v.rereads = satAdd 16 st.rereads 1 ∧ v.window.head? = some d ∧
      d.idle = (s.rereadClip c reason).idle := by
  unfold reread
  extract_lets other c1 st1 st2 s1 s2
  have window : st2.window = s.rereadClip c reason :: rest := by
    unfold st2
    split
    · show st.window.set 0 c1 = _
      rw [here]
      rfl
    · show st.window.set 0 c1 = _
      rw [here]
      rfl
  have rereads : st2.rereads = satAdd 16 st.rereads 1 := by
    unfold st2
    split
    · rfl
    · rfl
  have placed : tget s2.streams i = some st2 := by
    unfold s2
    split
    · exact (congrArg (tget · i) (congrArg State.streams (s1.raiseEv_eq evMed 1) :)).trans (tget_tput_same ..)
    · exact tget_tput_same ..
  obtain ⟨_, ⟨w, own, clips⟩, _, _⟩ := issueReads_reads maxReads placed
  rw [window] at clips
  obtain ⟨d, v, rfl, same⟩ := idle_cons clips
  exact ⟨_, d, own, rereads, rfl, same⟩

/-- A READ of a clip at the head of the window that completes. -/
structure ReadAt (s : State) (i : Nat) (st : Stream) (c : Clip) (chunk : Nat) : Prop where
  there : tget s.streams i = some st
  slice : s.isOpen 72 = true
  head : ∃ rest, st.window = c :: rest
  reading : c.state = .reading
  under_ : chunk ∈ c.chunks

theorem ReadAt.found {c : Clip} {chunk : Nat} (k : ReadAt s i st c chunk) :
    (st.window.findIdx? fun d => d.place == c.place && d.state == .reading && d.chunks.contains chunk) = some 0 ∧ st.window[0]? = some c := by
  obtain ⟨rest, here⟩ := k.head
  rw [here]
  refine ⟨?_, rfl⟩
  rw [List.findIdx?_cons, if_pos (by simp [k.reading, k.under_])]

theorem readComplete_fails {c : Clip} {chunk : Nat} (k : ReadAt s i st c chunk) {r : Nat} (bad : r ≠ 0) (data : List Byte) : ∃ v d,
    tget (s.readComplete i c.place chunk r data).streams i = some v ∧ v.rereads = satAdd 16 st.rereads 1 ∧ v.window.head? = some d ∧
      d.idle = (s.rereadClip c r).idle := by
  obtain ⟨found, first_⟩ := k.found
  obtain ⟨rest, here⟩ := k.head
  unfold readComplete
  rw [k.there]
  dsimp only
  rw [found]
  dsimp only
  rw [first_]
  dsimp only
  generalize arrived : (if r = 1 then s else s.dataArrives _ _) = u
  have domains : u.domains = s.domains := by
    rw [← arrived]
    split
    · rfl
    · obtain ⟨qs, ps, n, no, nh, eq⟩ := s.dataArrives_eq (ingestQp i c.server) (le (serverRecord st c.server) 1 1 % 8)
      rw [eq]
  have slice : u.isOpen 72 = true := by
    rw [isOpen, dom, domains]
    exact k.slice
  have clip : u.rereadClip c r = s.rereadClip c r := by
    unfold rereadClip dom
    rw [domains]
  rw [slice, if_neg (by decide), if_pos bad, ← clip]
  exact reread_spec here r

theorem contents_one {c : Clip} {l : List Byte} (single : c.total st = 1) (data : c.data = [(0, l)]) : c.contents st = Machine.slice l 0 (c.e 8 4) := by
  unfold Clip.contents
  rw [single, data, List.range_one, List.flatMap_cons, List.flatMap_nil, List.append_nil]
  rfl

/-- The clip whose bytes are complete. -/
def completedClip (st : Stream) (c : Clip) (data : List Byte) : Clip :=
  { c with
    chunks := c.chunks.filter (· != 0), data := c.data ++ [(0, slice data 0 (Nat.min st.chunkBytes (c.e 8 4 - 0 * st.chunkBytes)))]
    state := .complete, since := none }

theorem readComplete_completes {c : Clip} (k : ReadAt s i st c 0) (data : List Byte) (single : c.total st = 1) (empty : c.data = [])
    (good : crc32c (slice (slice data 0 (Nat.min st.chunkBytes (c.e 8 4))) 0 (c.e 8 4)) = c.e 0x14 4) : ∃ v d qs ps n ss no nh,
    s.readComplete i c.place 0 0 data =
      { s with net := { s.net with qps := qs }, ports := ps, free := n, streams := ss, netOut := no, netHeld := nh } ∧
    tget ss i = some v ∧ v.window.head? = some d ∧ d.state = .complete ∧ d.position = c.position := by
  obtain ⟨found, first_⟩ := k.found
  obtain ⟨rest, here⟩ := k.head
  obtain ⟨qs, ps, n, no, nh, eq⟩ := s.dataArrives_eq (ingestQp i c.server) (le (serverRecord st c.server) 1 1 % 8)
  let u : State := { s with net := { s.net with qps := qs }, ports := ps, free := n, netOut := no, netHeld := nh }
  have slice : u.isOpen 72 = true := k.slice
  let st1 : Stream := { st with window := st.window.set 0 (completedClip st c data) }
  let st2 : Stream := { st1 with state := if st1.state = .stalled then st1.runState else st1.state }
  have run : s.readComplete i c.place 0 0 data = (u.setStream i st2).issueReads i maxReads := by
    unfold readComplete
    rw [k.there]
    dsimp only
    rw [found]
    dsimp only
    rw [first_]
    dsimp only
    rw [if_neg (show ¬(0 : Nat) = 1 by decide), eq]
    show (if u.isOpen 72 = false then s else _) = _
    rw [if_neg (by rw [slice]; decide), if_neg (by simp)]
    refine (if_neg ?_).trans ((if_pos ?_).trans rfl)
    · show ¬(c.data ++ [_]).length < c.total st
      rw [single, empty]
      exact Nat.lt_irrefl 1
    · rw [← good]
      refine congrArg crc32c (contents_one single ?_)
      show c.data ++ _ = _
      rw [empty, Nat.zero_mul, Nat.sub_zero]
      rfl
  have placed : tget (u.setStream i st2).streams i = some st2 := tget_tput_same ..
  obtain ⟨⟨ss, no', nh', frame⟩, ⟨w, own, clips⟩, _, _⟩ := issueReads_reads maxReads placed
  have window : st2.window = completedClip st c data :: rest := by
    show st.window.set 0 _ = _
    rw [here]
    rfl
  rw [window] at clips
  obtain ⟨d, v, rfl, same⟩ := idle_cons clips
  rw [frame] at own run
  exact ⟨_, d, qs, ps, n, ss, no', nh', run, own, rfl, (congrArg Clip.state same :), (congrArg Clip.position same :)⟩

/-! ### The clip that has been missing longest -/

/-- The choice between the clip missing longest so far and another. -/
def longerMissing (o : Option Clip) (c : Clip) : Option Clip :=
  match o.bind (·.since), c.since with
  | some a, some b => if (b - a).toInt < 0 then some c else o
  | some _, none => o
  | none, _ => if o.isNone || c.since.isSome then some c else o

/-- A clip that was found missing at `a`, or one found missing later. -/
def MissingFrom (a : DWord) (c d : Clip) : Prop := d = c ∨ ∃ b, d.since = some b ∧ 0 < (b - a).toInt

variable {a : DWord} {c : Clip}

theorem longerMissing_keeps (since : c.since = some a) {d : Clip} (later : MissingFrom a c d) : longerMissing (some c) d = some c := by
  unfold longerMissing
  rw [Option.bind_some, since]
  obtain rfl | ⟨b, there, pos⟩ := later
  · rw [since]
    exact if_neg (by rw [BitVec.sub_self]; decide)
  · rw [there]
    exact if_neg (by omega)

/-- A difference of times that is positive is negative the other way about. -/
theorem toInt_sub_neg {a b : DWord} (pos : 0 < (b - a).toInt) : (a - b).toInt < 0 := by
  rw [BitVec.toInt_eq_toNat_bmod, BitVec.toNat_sub] at pos ⊢
  rw [Int.bmod_def] at *
  have := a.isLt
  have := b.isLt
  omega

theorem longerMissing_takes (since : c.since = some a) {o : Option Clip} (before : ∀ d, o = some d → MissingFrom a c d) :
    longerMissing o c = some c := by
  cases o with
  | none =>
    unfold longerMissing
    rw [Option.bind_none]
    rfl
  | some d =>
    obtain rfl | ⟨b, there, pos⟩ := before d rfl
    · exact longerMissing_keeps since (.inl rfl)
    · unfold longerMissing
      rw [Option.bind_some, there, since]
      exact if_pos (toInt_sub_neg pos)

theorem longerMissing_among {o : Option Clip} {d : Clip} (before : ∀ e, o = some e → MissingFrom a c e) (later : MissingFrom a c d) :
    ∀ e, longerMissing o d = some e → MissingFrom a c e := by
  intro e chosen
  have either : longerMissing o d = some d ∨ longerMissing o d = o := by
    unfold longerMissing
    split
    · split
      · exact .inl rfl
      · exact .inr rfl
    · exact .inr rfl
    · split
      · exact .inl rfl
      · exact .inr rfl
  obtain taken | kept := either
  · rw [taken] at chosen
    exact Option.some.inj chosen ▸ later
  · exact before e (kept.symm.trans chosen)

theorem longest_of_first (since : c.since = some a) (l : List Clip) : ∀ o : Option Clip, (∀ d, o = some d → MissingFrom a c d) →
    (∀ d ∈ l, MissingFrom a c d) → o = some c ∨ c ∈ l → l.foldl longerMissing o = some c := by
  induction l with
  | nil => exact fun o _ _ h => h.resolve_right List.not_mem_nil
  | cons d r ih =>
    intro o before all h
    have later := all d List.mem_cons_self
    refine ih (longerMissing o d) (longerMissing_among before later) (fun e mem => all e (List.mem_cons_of_mem d mem)) ?_
    obtain rfl | mem := h
    · exact .inl (longerMissing_keeps since later)
    · obtain rfl | rest := List.mem_cons.mp mem
      · exact .inl (longerMissing_takes since before)
      · exact .inr rest

theorem longestMissing_eq {w : List Clip} (mem : c ∈ w) (again : 1 < c.attempts) (reading : c.state = .reading) (since : c.since = some a)
    (first_ : ∀ d ∈ w, d ≠ c → 1 < d.attempts → d.state = .reading → ∃ b, d.since = some b ∧ 0 < (b - a).toInt) : longestMissing w = some c := by
  refine longest_of_first since _ none nofun (fun d there => ?_) (.inr (List.mem_filter.mpr ⟨mem, by simp [again, reading]⟩))
  obtain ⟨here, missing⟩ := List.mem_filter.mp there
  rw [Bool.and_eq_true, decide_eq_true_iff, beq_iff_eq] at missing
  by_cases same : d = c
  · exact .inl same
  · exact .inr (first_ d here same missing.1 missing.2)

/-- A posted write changes memory, the cache and the link alone. -/
theorem post_frame (s : State) (a : Nat) (l : List Byte) : ∃ m ls p o, s.post a l = { s with mem := m, lines := ls, plk := p, out := o } := by
  obtain ⟨m, ls, stored⟩ := s.fwWrite_frame a l
  unfold post
  split
  · next h _ =>
    split
    · rw [stored]
      obtain ⟨p, o, sent⟩ := State.hostMessages_eq { s with mem := m, lines := ls } h l (l.length / 256 + 1)
      exact ⟨m, ls, p, o, sent⟩
    · exact ⟨_, _, _, _, rfl⟩
  · exact ⟨m, ls, _, _, stored⟩

/-- A window's clips but those of a place, whatever chunks are under way. -/
theorem filtered_place {w v : List Clip} {p e : Nat} (same : v.map Clip.idle = (w.filter fun y => !(y.position == p && y.epoch == e)).map Clip.idle) :
    (v.all fun d => !(d.position == p && d.epoch == e)) = true := by
  have gone : (v.map Clip.idle).all (fun d => !(d.position == p && d.epoch == e)) = true := by
    rw [same, List.all_map]
    exact List.all_eq_true.mpr fun d mem => (List.mem_filter.mp mem).2
  rw [List.all_map] at gone
  exact gone

theorem missingLimit_skips (there : tget s.streams i = some st) (slice : s.isOpen 72 = true) (longest : longestMissing st.window = some c)
    (fresh : st.replay = false) (room : (st.skipTail - st.skipHead).toNat < st.d 0x68 4) (none_ : s.ckpPtn = none) :
    ∃ v ss no nh es m ls p o, s.missingLimit i = { s with
        streams := ss, netOut := no, netHeld := nh, events := es, mem := m, lines := ls, plk := p, out := o } ∧
      tget ss i = some v ∧ v.skipTail = st.skipTail + 1 ∧ v.skipped = satAdd 24 st.skipped 1 ∧
      (v.window.all fun d => !(d.position == c.position && d.epoch == c.epoch)) = true ∧
      bitAt (tgetD es evMed (EventReg.reset evMed)).value 0 = true := by
  unfold missingLimit
  rw [there]
  dsimp only
  rw [longest]
  dsimp only
  rw [if_neg fun e => e.elim (by simp [fresh]) fun e => e.elim (fun l => absurd room (Nat.not_lt.mpr l)) (by simp [slice]), none_]
  obtain ⟨m, ls, p, o, posted⟩ := s.post_frame (st.d 0x60 8 + 16 * (st.skipTail.toNat % st.d 0x68 4))
    (leBytes 8 (cursorOf c.epoch c.position 0) ++ leBytes 1 c.reason ++ leBytes 1 c.server ++ leBytes 2 c.attempts ++ zeros 4)
  let st1 : Stream := { st with
    window := st.window.filter fun y => !(y.position == c.position && y.epoch == c.epoch)
    skipped := satAdd 24 st.skipped 1, skipTail := st.skipTail + 1
    skips := st.skips ++ [cursorOf c.epoch c.position 0], skipHead := st.skipHead }
  let w : State := { s with mem := m, lines := ls, plk := p, out := o, streams := tput s.streams i st1 }
  have run : (((s.post (st.d 0x60 8 + 16 * (st.skipTail.toNat % st.d 0x68 4))
      (leBytes 8 (cursorOf c.epoch c.position 0) ++ leBytes 1 c.reason ++ leBytes 1 c.server ++ leBytes 2 c.attempts ++ zeros 4)).setStream i
      st1).raiseEv evMed 0) = w.raiseEv evMed 0 := by
    rw [posted]
    rfl
  have placed : tget (w.raiseEv evMed 0).streams i = some st1 :=
    (congrArg (tget · i) (congrArg State.streams (w.raiseEv_eq evMed 0) :)).trans (tget_tput_same ..)
  have raised := raiseEv_sets w evMed 0
  obtain ⟨⟨ss, no, nh, frame⟩, ⟨v, own, clips⟩, _, _⟩ := issueReads_reads maxReads placed
  rw [frame] at own
  refine ⟨_, ss, no, nh, (w.raiseEv evMed 0).events, m, ls, (w.raiseEv evMed 0).plk, (w.raiseEv evMed 0).out, ?_, own, rfl, rfl,
    filtered_place clips, raised⟩
  show (((s.post _ _).setStream i st1).raiseEv evMed 0).issueReads i maxReads = _
  rw [run, frame]
  rw [raiseEv_eq]

/-! ### Decoding -/

theorem raised_unless (s : State) (b : Bool) (e n : Nat) : ∃ es p o, (if b = true then s else s.raiseEv e n) =
    { s with events := es, plk := p, out := o } := by
  cases b
  · exact ⟨_, _, _, s.raiseEv_eq e n⟩
  · exact ⟨_, _, _, rfl⟩

theorem decodeStart_deals {rest : List Clip} {e : Nat} (there : tget s.streams i = some st) (slice : s.isOpen 72 = true) (here : st.window = c :: rest)
    (complete : c.state = .complete) (engine : s.variant.engine e = true) (idle : (s.engine e).busy = false)
    (own : (s.engine e).borrowed = false) (open_ : s.isOpen (targetDomain 3 e) = true) : ∃ codec, s.decodeStart i e =
      (s.setStream i { st with window := { c with state := .decoding } :: rest }).setEngine e { s.engine e with
        busy := true, codec := codec, stream := i, position := c.position, epoch := c.epoch } := by
  have found : (st.window.findIdx? fun d => d.state == .complete) = some 0 := by
    rw [here, List.findIdx?_cons, if_pos (by simp [complete])]
  have first_ : st.window[0]? = some c := by rw [here]; rfl
  unfold decodeStart
  rw [there]
  dsimp only
  rw [found]
  dsimp only
  rw [first_]
  dsimp only
  rw [if_neg (by simp [engine, idle, own, open_, slice]), here]
  exact ⟨_, rfl⟩

/-- The decoded clip, without the tokens before START_CURSOR (R225). -/
def decodedClip (st : Stream) (c : Clip) : Clip :=
  let r := decodeClip (c.contents st) (c.e 0x12 2)
  let all := st.shape.clipTokens (r.frames.map fun f => (f.planes, f.interlaced, f.depth == 10))
  let skip := if st.start / 65536 = cursorOf c.epoch c.position 0 / 65536 then st.start % 65536 else 0
  { c with state := .decoded, first := skip, tokens := all.drop skip, data := [] }

/-- The stream whose first clip has been decoded. -/
def decodedStream (st : Stream) (c : Clip) : Stream :=
  { st with
    window := if (decodedClip st c).tokens.isEmpty then st.window.eraseIdx 0 else st.window.set 0 (decodedClip st c)
    dropped := satAdd 24 st.dropped (decodeClip (c.contents st) (c.e 0x12 2)).dropped }

theorem decodeEnd_ends {rest : List Clip} {e : Nat} (there : tget s.streams i = some st) (here : st.window = c :: rest)
    (decoding : c.state = .decoding) (busy : (s.engine e).busy = true) (open_ : s.isOpen (targetDomain 3 e) = true)
    (stream : (s.engine e).stream = i) (position : (s.engine e).position = c.position) (epoch : (s.engine e).epoch = c.epoch) :
    ∃ v z es p o, s.decodeEnd e = { (s.setEngine e z).setStream i v with events := es, plk := p, out := o } ∧ z.busy = false ∧
      (v.window = rest ∨ ∃ d r, v.window = d :: r ∧ d.state = .decoded ∧ d.position = c.position) := by
  have found : (st.window.findIdx? fun d => d.position == c.position && d.epoch == c.epoch && d.state == .decoding) = some 0 := by
    rw [here, List.findIdx?_cons, if_pos (by simp [decoding])]
  have first_ : st.window[0]? = some c := by rw [here]; rfl
  unfold decodeEnd
  dsimp only
  rw [if_neg (by simp [busy, open_]), stream, there]
  dsimp only
  rw [position, epoch, found]
  dsimp only
  rw [first_]
  let r := decodeClip (c.contents st) (c.e 0x12 2)
  let z : MediaEngine := { s.engine e with busy := false, stream := i, position := c.position, epoch := c.epoch }
  let w := (s.setEngine e z).setStream i (decodedStream st c)
  obtain ⟨es, p, o, one⟩ := w.raised_unless r.supported evMed 2
  obtain ⟨es', p', o', two⟩ := ({ w with events := es, plk := p, out := o } : State).raised_unless (decide (r.dropped = 0)) evMed 3
  simp only [decide_eq_true_eq] at two
  rw [← one] at two
  refine ⟨decodedStream st c, z, es', p', o', two, rfl, ?_⟩
  have window : (decodedStream st c).window = if (decodedClip st c).tokens.isEmpty then st.window.eraseIdx 0 else st.window.set 0 (decodedClip st c) :=
    rfl
  rw [window, here]
  split
  · exact .inl rfl
  · exact .inr ⟨decodedClip st c, rest, rfl, rfl, rfl⟩

end State

end Sys2Proof.Machine
end

section
/-! O50. Ingest streams open, fetch, decode and fill blocks (R208 to R229). -/

set_option Elab.async false

namespace Sys2Proof.Machine

namespace State

variable {s t : State} {i : Nat} {st : Stream}

/-! ### A block is written and counted -/

/-- Bytes that lie in one frame without WP are stored there. -/
theorem putBytes_page {ptn die a k : Nat} {l : List Byte} (bare : s.attrs = []) (lies : s.lies ptn die a l.length k) (pos : 0 < l.length)
    (low : k + l.length ≤ 2 ^ 60) (fits : l.length ≤ 65536 - k % 65536) (c q : Nat) (idx : Word) : ∃ ls,
    s.putBytes c q idx ptn die a l = { s with mem := s.mem.writeAll k l, lines := ls } := by
  have first_ : s.key ptn die (a + 0) = some k := lies 0 pos
  have unprotected : bitAt (s.attr (k / 65536)) 2 = false := by
    rw [attr, bare]
    show bitAt 0 2 = false
    decide
  have row : s.putRow c q idx (fun off => s.key ptn die (a + off)) 0 l (l.length + 1) = s.putKey c q idx k l := by
    obtain ⟨n, long⟩ : ∃ n, l.length = n + 1 := ⟨l.length - 1, by omega⟩
    rw [long]
    exact putRow_one (row := fun off => s.key ptn die (a + off)) (off := 0) first_ (by omega) pos c q idx n
  have put : s.putBytes c q idx ptn die a l = ({ s with mem := s.mem.writeAll k l } : State).dirtied k l.length := by
    rw [← putKey_of_no_wp unprotected c q idx l, ← row]
    unfold putBytes
    split
    · next h host =>
      rw [key, Nat.add_zero, host] at first_
      have same : 2 ^ 64 + h = k := Option.some.inj first_
      omega
    · rfl
  exact ⟨_, put.trans (dirtied_eq ..)⟩

theorem lies_setStream {ptn die a n k : Nat} (lies : s.lies ptn die a n k) : (s.setStream i st).lies ptn die a n k := lies

/-- A stream that goes on with its next piece keeps its block number. -/
theorem nextPart_seq (s : State) (st : Stream) (counted : st.uncounted = none) :
    (s.nextPart st).nextSeq = st.nextSeq ∧ (s.nextPart st).uncounted = none := by
  unfold nextPart
  dsimp only
  split
  · exact ⟨rfl, counted⟩
  · split
    · exact ⟨rfl, rfl⟩
    · split
      · split
        · exact ⟨rfl, counted⟩
        · exact ⟨rfl, rfl⟩
      · exact ⟨rfl, counted⟩

theorem consumersOf_single (single : st.d 0xC 4 = 0) : consumersOf st = [(st.d 8 4, fld (st.d 0x10 1) 2 0, fld (st.d 0x10 1) 5 3)] := by
  rw [consumersOf, if_pos single]

theorem countBlock_one {c next : Nat} (acked : s.unacked (streamWriter i) 0 st.nextSeq = false) (single : st.d 0xC 4 = 0)
    (consumer : s.ctxOf (st.d 8 4) = some c) : ∃ v, s.countBlock i st next = (s.setCtx c { s.ctx c with
        sync := lmod (s.ctx c).sync (fld (st.d 0x10 1) 2 0) (· + 1) }).setStream i v ∧ v.nextSeq = st.nextSeq + 1 ∧ v.uncounted = none := by
  unfold countBlock
  rw [acked, if_neg (by decide), consumersOf_single single, List.any_cons, List.any_nil, consumer, if_neg (by simp)]
  extract_lets s1 st1 keep st2
  have counted : s1 = s.setCtx c { s.ctx c with sync := lmod (s.ctx c).sync (fld (st.d 0x10 1) 2 0) (· + 1) } := by
    unfold s1
    rw [List.foldl_cons, List.foldl_nil, consumer]
  rw [counted]
  refine ⟨_, rfl, ?_⟩
  split
  · exact nextPart_seq _ _ rfl
  · exact ⟨rfl, rfl⟩

theorem slotImage_pos (st : Stream) (toks : List (Nat × List Byte)) (ends : Bool) : 0 < (slotImage st toks ends).length := by
  simp [slotImage, zeros]

/-- A stream that can write its next block, whose ring slot its one consumer has released (R228). -/
structure BlockDue (s : State) (i : Nat) (st : Stream) (c : Nat) (toks : List (Nat × List Byte)) (ends : Bool) : Prop where
  there : tget s.streams i = some st
  slice : s.isOpen 72 = true
  still : (tget s.ptns ((s.ptnOf (st.d 4 4)).getD 0)).any (·.restriping) = false
  fresh : st.uncounted = none
  running : st.state = .running
  more : streamOver st = false
  next : nextBlock st = some (toks, ends)
  single : st.d 0xC 4 = 0
  consumer : s.ctxOf (st.d 8 4) = some c
  released : 0 ≤ ((s.ctx c).sync.getD (fld (st.d 0x10 1) 5 3) 0 - (st.nextSeq - BitVec.ofNat 32 (st.d 0x12 1) + 1)).toInt

/-- The address of the ring slot of the stream's next block. -/
def slotAddr (st : Stream) : Nat := st.d 0x20 8 + st.nextSeq.toNat % st.d 0x12 1 * st.slotBytes

theorem blockWrite_writes {c k : Nat} {toks : List (Nat × List Byte)} {ends : Bool} (due : BlockDue s i st c toks ends)
    (bare : s.attrs = []) (held : s.ckp.held = []) (writes : s.plk.writes = []) (reads : s.plk.reads = [])
    (access : s.accessOk ((s.ptnOf (st.d 4 4)).getD 0) 0 (slotAddr st) (slotImage st toks ends).length true false = true)
    (fenced : s.accessFenced 0 (slotAddr st) (slotImage st toks ends).length = none) (low : k + (slotImage st toks ends).length ≤ 2 ^ 60)
    (fits : (slotImage st toks ends).length ≤ 65536 - k % 65536)
    (lies : s.lies ((s.ptnOf (st.d 4 4)).getD 0) 0 (slotAddr st) (slotImage st toks ends).length k) : ∃ m v ls ss ks,
    m = s.mem.writeAll k (slotImage st toks ends) ∧
    s.blockWrite i = { s with mem := m, lines := ls, streams := ss, contexts := ks } ∧
      tget ss i = some v ∧ v.nextSeq = st.nextSeq + 1 ∧ v.uncounted = none ∧
      (tgetD ks c Context.reset).sync = lmod (s.ctx c).sync (fld (st.d 0x10 1) 2 0) (· + 1) := by
  obtain ⟨there, slice, still, fresh, running, more, next, single, consumer, released⟩ := due
  let last := (toks.getLast?.map (·.1)).getD 0
  let st1 : Stream := { st with uncounted := some (last + 1), gathered := [], window := dropTokens st.window (toks.length - st.gathered.length) }
  obtain ⟨ls, put⟩ := putBytes_page (s := s.setStream i st1) bare (lies_setStream lies) (slotImage_pos st toks ends) low fits (streamWriter i) 0 st.nextSeq
  obtain ⟨m, stored⟩ : ∃ m, m = s.mem.writeAll k (slotImage st toks ends) := ⟨_, rfl⟩
  have put : (s.setStream i st1).putBytes (streamWriter i) 0 st.nextSeq ((s.ptnOf (st.d 4 4)).getD 0) 0 (slotAddr st) (slotImage st toks ends) =
      { s with mem := m, lines := ls, streams := tput s.streams i st1 } := by
    rw [stored]
    exact put
  let u : State := { s with mem := m, lines := ls, streams := tput s.streams i st1 }
  have acked : u.unacked (streamWriter i) 0 st.nextSeq = false := by
    show (s.ckp.held.any _ || s.plk.writes.any _ || s.plk.reads.any _) = false
    rw [held, writes, reads]
    rfl
  obtain ⟨v, counted, seq, none_⟩ := countBlock_one (s := u) (st := st1) (next := last + 1) acked single consumer
  have free : s.slotFree st = true := by
    unfold slotFree
    rw [consumersOf_single single, List.all_cons, List.all_nil, Bool.and_true, consumer]
    exact decide_eq_true released
  have run : s.blockWrite i = u.countBlock i st1 (last + 1) := by
    unfold blockWrite
    rw [there]
    dsimp only
    rw [if_neg (by simp [slice, still]), fresh]
    dsimp only
    rw [if_neg (by simp [running]), if_neg (by simp [running]), consumersOf_single single, List.any_cons, List.any_nil, consumer, if_neg (by simp),
      if_neg (by simp [more]), next]
    dsimp only
    refine (if_neg ?_).trans ?_
    · rw [free]
      show ¬(true = false ∨ s.accessOk _ 0 (slotAddr st) _ true false = false ∨ (s.accessFenced 0 (slotAddr st) _).isSome = true)
      rw [access, fenced]
      simp
    · exact congrArg (fun w : State => w.countBlock i st1 (last + 1)) put
  exact ⟨m, v, ls, _, _, stored, run.trans counted, tget_tput_same .., seq, none_, congrArg Context.sync (tgetD_tput_same ..)⟩

/-- The clip that fits takes its reservation at the end of the window (R213). -/
theorem clipFetch_reserves {e : List Byte} (due : FetchDue s i st) (included : entryExcluded e st.servers = false)
    (fits : (st.window.map (·.bytes)).sum + (fetchedClip st e).bytes ≤ st.d 0x30 4 * 65536) : ∃ v d ss no nh m n,
    s.clipFetch i e = { s with streams := ss, netOut := no, netHeld := nh, mem := m, free := n } ∧ tget ss i = some v ∧
      v.window.length = st.window.length + 1 ∧ v.fetchPos = st.advance.fetchPos ∧ v.window.getLast? = some d ∧
      d.idle = (fetchedClip st e).idle ∧ (∀ j, j ≠ i → tget ss j = tget s.streams j) ∧ s.nextEntry i st ∈ no := by
  let st1 : Stream := { st.advance with window := st.window ++ [fetchedClip st e] }
  obtain ⟨m, n, undefined⟩ := ((s.sendNet (s.nextEntry i st)).setStream i st1).undefineWindow_eq st
  have run := clipFetch_takes due included fits
  have placed : tget (((s.sendNet (s.nextEntry i st)).setStream i st1).undefineWindow st).streams i = some st1 := by
    rw [undefined]
    exact tget_tput_same ..
  obtain ⟨⟨ss, no, nh, frame⟩, ⟨w, own, clips⟩, others, sent⟩ := issueReads_reads maxReads placed
  obtain ⟨long, d, last, same⟩ := idle_append clips
  rw [undefined] at frame own others sent run
  rw [frame] at own others sent run
  exact ⟨_, d, ss, no, nh, m, n, run, own, long, rfl, last, same, fun j ne => (others j ne).trans (tget_tput_ne _ _ ne),
    sent _ (List.mem_append_right _ (List.mem_singleton_self _))⟩

end State

open State

/-- A word of a list that one entry of has been raised. -/
theorem lmod_raised {l : List Word} {i n : Nat} {v : Word} (there : l[n]? = some v) :
    (lmod l i (· + 1))[n]? = some (if n = i then v + 1 else v) := lmod_getElem? there

/-- Settles O50, a lemma a command. -/
theorem ingestStreamsWork : Obligations.IngestStreamsWork := by
  intro s live slice
  refine ⟨?_, ?_⟩
  · intro a h aligned host up readable media l answers version
    have k : s.StreamLine a h := ⟨aligned, reached_of_requestOk host up readable, readable, media, version, slice⟩
    refine ⟨?_, ?_, ?_⟩
    · intro x p c i hs ring part consumer own single room good frames clip inRing window index near
      obtain ⟨m, q, o, run, code⟩ := openStream_accepts k rfl part consumer own single room good frames clip inRing window index near
      refine ⟨_, act_eq_next (f := fun s => s.openStream a (some x)) live run, code, ?_, fun j ne => tget_tput_ne _ _ ne, rfl⟩
      rw [tget_tput_same, Option.any_some]
      simp [openedStream, l]
    · intro full part consumer single
      obtain ⟨m, q, o, run, code⟩ := openStream_full k part consumer single full
      exact ⟨_, act_eq_next (f := fun s => s.openStream a none) live run, code, rfl⟩
    · intro i st named there
      refine ⟨?_, fun active => ?_, fun paused => ?_⟩
      · obtain ⟨m, q, o, run, code⟩ := streamClose_spec k named there
        exact ⟨_, act_eq_next (f := fun s => s.streamRequest a fun s i _ => s.closeStream i) live run, code, tget_tdel_same ..,
          fun j ne => tget_tdel_ne _ ne, closed_engines _ i, rfl⟩
      · obtain ⟨m, q, o, run, code⟩ := streamPause_spec k named there active
        exact ⟨_, act_eq_next (f := fun s => s.streamRequest a fun s i st => s.pauseStream i st) live run, code, tget_tput_same ..,
          fun j ne => tget_tput_ne _ _ ne, rfl⟩
      · obtain ⟨m, es, q, o, run, code, raised⟩ := streamResume_spec k named there paused
        exact ⟨_, act_eq_next (f := fun s => s.streamRequest a fun s i st => s.resumeStream i st) live run, code, tget_tput_same ..,
          fun j ne => tget_tput_ne _ _ ne, raised, rfl⟩
  · intro i st there
    refine ⟨?_, ?_, ?_, ?_, ?_, ?_⟩
    · intro e active more within still unlisted bytes asked
      have due : FetchDue s i st := ⟨there, slice, active, more, within, still, unlisted⟩
      refine ⟨fun excluded => ?_, fun included fits => ?_⟩
      · exact ⟨_, act_eq_next (f := fun s => s.clipFetch i e) live (clipFetch_excluded due excluded) rfl rfl, tget_tput_same ..,
          List.mem_append_right _ (List.mem_singleton_self _), rfl⟩
      · obtain ⟨v, d, ss, no, nh, m, n, run, own, long, pos, last, same, others, sent⟩ := clipFetch_reserves due included fits
        have position : d.position = st.fetchPos := (congrArg Clip.position same :)
        have epoch : d.epoch = st.fetchEpoch := (congrArg Clip.epoch same :)
        have reserved : d.bytes = bytes := (congrArg Clip.bytes same :)
        have reading : d.state = .reading := (congrArg Clip.state same :)
        have entry : d.entry = e := (congrArg Clip.entry same :)
        refine ⟨_, act_eq_next (f := fun s => s.clipFetch i e) live run, sent, ?_, others, rfl⟩
        dsimp only
        rw [own, Option.any_some, last, Option.any_some]
        simp [long, pos, position, epoch, reserved, reading, entry]
    · intro c rest chunk data here reading under_
      refine ⟨fun r bad => ?_, fun single first_ empty good => ?_⟩
      · have k : ReadAt s i st c chunk := ⟨there, slice, ⟨rest, here⟩, reading, under_⟩
        obtain ⟨v, d, own, rereads, head, same⟩ := readComplete_fails k bad data
        have attempts : d.attempts = satAdd 16 c.attempts 1 := (congrArg Clip.attempts same :)
        have bytes : d.data = [] := (congrArg Clip.data same :)
        have reason : d.reason = r := (congrArg Clip.reason same :)
        have again : d.state = .reading := (congrArg Clip.state same :)
        have replica : d.replica = if c.e 0x11 1 = 0xFF then c.replica else !c.replica := (congrArg Clip.replica same :)
        refine ⟨_, act_live s (fun s => s.readComplete i c.place chunk r data) live, ?_⟩
        dsimp only
        rw [own, Option.any_some, head, Option.any_some]
        simp [rereads, attempts, bytes, reason, again, replica]
      · subst first_
        have k : ReadAt s i st c 0 := ⟨there, slice, ⟨rest, here⟩, reading, under_⟩
        obtain ⟨v, d, qs, ps, n, ss, no, nh, run, own, head, complete, position⟩ := readComplete_completes k data single empty good
        refine ⟨_, act_eq_next (f := fun s => s.readComplete i c.place 0 0 data) live run, ?_, rfl⟩
        dsimp only
        rw [own, Option.any_some, head, Option.any_some]
        simp [complete, position]
    · intro c a mem again reading since first_ fresh room none_
      obtain ⟨v, ss, no, nh, es, m, ls, p, o, run, own, tail, skipped, gone, raised⟩ := missingLimit_skips there slice
        (longestMissing_eq mem again reading since first_) fresh room none_
      refine ⟨_, act_eq_next (f := fun s => s.missingLimit i) live run, ?_, raised, rfl⟩
      dsimp only
      rw [own, Option.any_some, gone]
      simp [tail, skipped]
    · intro c rest e here complete engine idle own open_
      obtain ⟨codec, run⟩ := decodeStart_deals there slice here complete engine idle own open_
      have engine_ : ∀ z, (s.setStream i { st with window := { c with state := .decoding } :: rest } |>.setEngine e z).engine e = z :=
        fun z => tgetD_tput_same ..
      refine ⟨_, act_eq_next (f := fun s => s.decodeStart i e) live run, ?_, ?_, ?_, ?_, fun f ne => tgetD_tput_ne _ _ _ ne, rfl⟩
      · rw [engine_]
      · rw [engine_]
      · rw [engine_]
      · rw [show ∀ z, (s.setStream i { st with window := { c with state := .decoding } :: rest } |>.setEngine e z).streams =
          tput s.streams i { st with window := { c with state := .decoding } :: rest } from fun _ => rfl, tget_tput_same]
        rfl
    · intro c rest e here decoding busy open_ stream position epoch
      obtain ⟨v, z, es, p, o, run, ended, window⟩ := decodeEnd_ends there here decoding busy open_ stream position epoch
      refine ⟨_, act_eq_next (f := fun s => s.decodeEnd e) live run, ?_, fun f ne => tgetD_tput_ne _ _ _ ne, ?_, rfl⟩
      · exact (congrArg MediaEngine.busy (tgetD_tput_same ..)).trans ended
      · show ((tget (tput s.streams i v) i).any _) = true
        rw [tget_tput_same, Option.any_some]
        obtain gone | ⟨d, r, first_, decoded, same⟩ := window
        · simp [gone]
        · simp [first_, decoded, same]
    · intro toks ends c k fresh running more next single consumer bare held writes reads ptn n a img still released below access fenced low fits lies
      have due : BlockDue s i st c toks ends := ⟨there, slice, still, fresh, running, more, next, single, consumer, released⟩
      obtain ⟨m, v, ls, ss, ks, stored, run, own, seq, none_, sync⟩ := blockWrite_writes due bare held writes reads access fenced low fits lies
      refine ⟨_, act_eq_next (f := fun s => s.blockWrite i) live run, stores_writeAll _ _ stored, ?_, fun r w there => ?_, rfl⟩
      · dsimp only
        rw [own, Option.any_some, seq, none_]
        simp
      · show (tgetD ks c Context.reset).sync[r]? = _
        rw [sync]
        exact lmod_raised there

end Sys2Proof.Machine
end

section
/-! SUPPORT. The boot state, the lock, the slot and the started jobs are kept while the units come up and work is laid out. One lemma an
operation, named after it. -/

set_option Elab.async false

namespace Sys2Proof.Machine

/-- The boot state, the lock, the slot that was booted and the jobs that have started. -/
def State.bootFacts (s : State) : Nat × Bool × Bool × Nat := (s.boot.state, s.boot.locked, s.boot.slotB, s.boot.jobStarted)

/-- The facts of boot are `f₀`. -/
def State.Booted (s : State) (f₀ : Nat × Bool × Bool × Nat) : Prop := s.bootFacts = f₀

namespace State

variable {s t : State} {f₀ : Nat × Bool × Bool × Nat}

/-- An update of other fields. -/
theorem Booted.of_eq (h : s.Booted f₀) (a : t.boot.state = s.boot.state := by rfl) (b : t.boot.locked = s.boot.locked := by rfl)
    (c : t.boot.slotB = s.boot.slotB := by rfl) (d : t.boot.jobStarted = s.boot.jobStarted := by rfl) : t.Booted f₀ := by
  unfold Booted bootFacts
  rw [a, b, c, d]
  exact h

theorem Booted.ite {c : Prop} [Decidable c] (hs : s.Booted f₀) (ht : t.Booted f₀) : (if c then s else t).Booted f₀ := by
  split
  · exact hs
  · exact ht

theorem Booted.ite_snd {β : Type} {c : Prop} [Decidable c] {p q : β × State} (hp : p.2.Booted f₀) (hq : q.2.Booted f₀) :
    (if c then p else q).2.Booted f₀ := by
  split
  · exact hp
  · exact hq

/-- A run over a list whose every step keeps it. -/
theorem Booted.foldl {α : Type} {f : State → α → State} {l : List α} (h : s.Booted f₀)
    (hf : ∀ s a, s.Booted f₀ → (f s a).Booted f₀) : (l.foldl f s).Booted f₀ := by
  induction l generalizing s with
  | nil => exact h
  | cons a r ih => exact ih (hf s a h)

/-- A run over a list that carries a value beside the state. -/
theorem Booted.foldl_fst {α β : Type} {f : State × β → α → State × β} {l : List α} {p : State × β} (h : p.1.Booted f₀)
    (hf : ∀ p a, p.1.Booted f₀ → (f p a).1.Booted f₀) : (l.foldl f p).1.Booted f₀ := by
  induction l generalizing p with
  | nil => exact h
  | cons a r ih => exact ih (hf p a h)

theorem Booted.foldl_snd {α β : Type} {f : β × State → α → β × State} {l : List α} {p : β × State} (h : p.2.Booted f₀)
    (hf : ∀ p a, p.2.Booted f₀ → (f p a).2.Booted f₀) : (l.foldl f p).2.Booted f₀ := by
  induction l generalizing p with
  | nil => exact h
  | cons a r ih => exact ih (hf p a h)

theorem Booted.of_fst {β : Type} {p : State × β} {b : β} (h : p.1.Booted f₀) (e : p = (t, b)) : t.Booted f₀ := by
  subst e; exact h

theorem Booted.of_snd {β : Type} {p : β × State} {b : β} (h : p.2.Booted f₀) (e : p = (b, t)) : t.Booted f₀ := by
  subst e; exact h

theorem Booted.of_snd_snd {β γ : Type} {p : β × γ × State} {b : β} {c : γ} (h : p.2.2.Booted f₀) (e : p = (b, c, t)) : t.Booted f₀ := by
  subst e; exact h

/-! ### The operations -/

theorem setEv_booted {s : State} {e : Nat} {r : EventReg} (hs : s.Booted f₀) : (s.setEv e r).Booted f₀ :=
  hs.of_eq

theorem setDom_booted {s : State} {d : Nat} {x : Domain} (hs : s.Booted f₀) : (s.setDom d x).Booted f₀ :=
  hs.of_eq

theorem setCore_booted {s : State} {c : Nat} {x : Core} (hs : s.Booted f₀) : (s.setCore c x).Booted f₀ :=
  hs.of_eq

theorem setGroup_booted {s : State} {g : Nat} {x : Group} (hs : s.Booted f₀) : (s.setGroup g x).Booted f₀ :=
  hs.of_eq

theorem setQuad_booted {s : State} {k : Nat} {x : Quadrant} (hs : s.Booted f₀) : (s.setQuad k x).Booted f₀ :=
  hs.of_eq

theorem setArr_booted {s : State} {a : Nat} {x : Arr} (hs : s.Booted f₀) : (s.setArr a x).Booted f₀ :=
  hs.of_eq

theorem setCtx_booted {s : State} {c : Nat} {x : Context} (hs : s.Booted f₀) : (s.setCtx c x).Booted f₀ :=
  hs.of_eq

theorem setStack_booted {s : State} {k : Nat} {x : Stack} (hs : s.Booted f₀) : (s.setStack k x).Booted f₀ :=
  hs.of_eq

theorem setRzLink_booted {s : State} {l : Nat} {x : Link} (hs : s.Booted f₀) : (s.setRzLink l x).Booted f₀ :=
  hs.of_eq

theorem setQp_booted {s : State} {n : Nat} {x : Qp} (hs : s.Booted f₀) : (s.setQp n x).Booted f₀ :=
  hs.of_eq

theorem setQueue_booted {s : State} {c q : Nat} {x : Queue} (hs : s.Booted f₀) : (s.setQueue c q x).Booted f₀ :=
  setCtx_booted hs

theorem pump_booted {s : State} (hs : s.Booted f₀) : s.pump.Booted f₀ := by
  unfold pump
  split
  · extract_lets
    exact hs.of_eq
  · exact hs

theorem send_booted {s : State} {m : OutMsg} (hs : s.Booted f₀) : (s.send m).Booted f₀ := by
  unfold send
  split
  · exact pump_booted (hs.of_eq)
  · exact hs

theorem sendNet_booted {s : State} {m : NetMsg} (hs : s.Booted f₀) : (s.sendNet m).Booted f₀ :=
  hs.of_eq

theorem sendCtl_booted {s : State} {m : CtlMsg} (hs : s.Booted f₀) : (s.sendCtl m).Booted f₀ :=
  hs.of_eq

theorem evalEvent_booted {s : State} {e : Nat} (hs : s.Booted f₀) : (s.evalEvent e).Booted f₀ := by
  unfold evalEvent
  extract_lets _ _ _ s1
  have h_s1 : s1.Booted f₀ := setEv_booted hs
  split
  · exact hs
  · exact send_booted h_s1

theorem raiseEv_booted {s : State} {e b : Nat} (hs : s.Booted f₀) : (s.raiseEv e b).Booted f₀ :=
  evalEvent_booted (setEv_booted hs)

theorem lineAccess_booted {s : State} {f l : Nat} {write alloc : Bool} (hs : s.Booted f₀) : (s.lineAccess f l write alloc).Booted f₀ := by
  unfold lineAccess
  split
  · exact hs
  · extract_lets
    split
    · exact hs.of_eq
    · split
      · exact hs
      · exact hs.of_eq

theorem dirtied_booted {s : State} {k n : Nat} (hs : s.Booted f₀) : (s.dirtied k n).Booted f₀ := by
  unfold dirtied
  split
  · exact hs
  · refine Booted.foldl hs ?_
    intro s1 a1 h1
    extract_lets
    exact lineAccess_booted h1

theorem settleWays_booted {s old : State} (hs : s.Booted f₀) (_ : old.Booted f₀) : (s.settleWays old).Booted f₀ :=
  hs.of_eq

theorem writeAt_booted {s : State} {ptn die a : Nat} {b : Byte} (hs : s.Booted f₀) : (s.writeAt ptn die a b).Booted f₀ := by
  unfold writeAt
  split
  · exact hs.of_eq
  · exact hs

theorem writeBytes_booted {s : State} {ptn die a : Nat} {l : List Byte} (hs : s.Booted f₀) : (s.writeBytes ptn die a l).Booted f₀ := by
  induction l generalizing s a with
  | nil => exact hs
  | cons b r ih => exact ih (writeAt_booted hs)

theorem storeBytes_booted {s : State} {ptn a : Nat} {l : List Byte} (hs : s.Booted f₀) : (s.storeBytes ptn a l).Booted f₀ := by
  unfold storeBytes
  extract_lets s1
  have h_s1 : s1.Booted f₀ := writeBytes_booted hs
  split
  · refine Booted.foldl h_s1 ?_
    intro s1 a1 h1
    split
    · extract_lets
      exact dirtied_booted h1
    · exact h1
  · exact h_s1

theorem fwWrite_booted {s : State} {a : Nat} {l : List Byte} (hs : s.Booted f₀) : (s.fwWrite a l).Booted f₀ :=
  storeBytes_booted hs

theorem fresh_booted {s : State} {w : Nat} (hs : s.Booted f₀) : (s.fresh w).2.Booted f₀ :=
  hs.of_eq

theorem openFault_booted {s : State} {r : FaultRecord} (hs : s.Booted f₀) : (s.openFault r).1.Booted f₀ :=
  hs.of_eq

theorem modFault_booted {s : State} {id : Nat} {f : FaultRecord → FaultRecord} (hs : s.Booted f₀) : (s.modFault id f).Booted f₀ :=
  hs.of_eq

theorem hostMessages_booted {s : State} {h : Nat} {l : List Byte} {fuel : Nat} (hs : s.Booted f₀) :
    (s.hostMessages h l fuel).Booted f₀ := by
  induction fuel generalizing s h l with
  | zero => exact hs
  | succ fuel ih => exact Booted.ite hs (ih (send_booted hs))

theorem post_booted {s : State} {a : Nat} {l : List Byte} (hs : s.Booted f₀) : (s.post a l).Booted f₀ := by
  unfold post
  split
  · split
    · exact hostMessages_booted (fwWrite_booted hs)
    · exact hs
  · exact fwWrite_booted hs

theorem putRecord_booted {s : State} {c q : Nat} {l : List Byte} (hs : s.Booted f₀) : (s.putRecord c q l).Booted f₀ := by
  unfold putRecord
  extract_lets _ s1 _
  have h_s1 : s1.Booted f₀ := post_booted hs
  split
  · exact hs
  · exact setQueue_booted h_s1

theorem modCmd_booted {s : State} {c q : Nat} {idx : Word} {f : Cmd → Cmd} (hs : s.Booted f₀) : (s.modCmd c q idx f).Booted f₀ :=
  setQueue_booted hs

theorem answer_booted {s : State} {c q : Nat} {idx : Word} {st : Status} (hs : s.Booted f₀) : (s.answer c q idx st).Booted f₀ :=
  modCmd_booted hs

theorem answerFenced_booted {s : State} {c q : Nat} {idx : Word} {d : Nat} (hs : s.Booted f₀) : (s.answerFenced c q idx d).Booted f₀ :=
  modCmd_booted hs

theorem unbind_booted {s : State} {c q : Nat} {idx : Word} (hs : s.Booted f₀) : (s.unbind c q idx).Booted f₀ :=
  hs.of_eq

theorem freeHeld_booted {s : State} {c q mask : Nat} (hs : s.Booted f₀) : (s.freeHeld c q mask).Booted f₀ :=
  hs.of_eq

theorem putWords_booted {s : State} {c q : Nat} {lo : Word} {ws : List Nat} (hs : s.Booted f₀) : (s.putWords c q lo ws).Booted f₀ :=
  setQueue_booted (Booted.foldl hs (fun _ _ h1 => (Booted.ite h1 (post_booted h1))))

theorem patchQueues_booted {s : State} {c : Nat} (hs : s.Booted f₀) : (s.patchQueues c).Booted f₀ := by
  unfold patchQueues
  extract_lets
  refine Booted.foldl hs ?_
  intro s1 a1 h1
  extract_lets
  split
  · exact h1
  · exact putWords_booted h1

theorem setChan_booted {s : State} {i : Nat} {ch : Channel} (hs : s.Booted f₀) : (s.setChan i ch).Booted f₀ :=
  hs.of_eq

theorem jobAfter_booted {s : State} {j : Nat} (hs : s.Booted f₀) : (s.jobAfter j).Booted f₀ := by
  unfold jobAfter
  split
  · split
    · split
      · exact hs
      · extract_lets s1
        have h_s1 : s1.Booted f₀ := hs.of_eq
        exact post_booted h_s1
    · split
      · exact hs.of_eq
      · exact hs
  · exact hs

theorem chanClosed_booted {s : State} {i : Nat} (hs : s.Booted f₀) : (s.chanClosed i).Booted f₀ := by
  unfold chanClosed
  split
  · extract_lets _ s1 s2
    have h_s1 : s1.Booted f₀ := hs.of_eq
    have h_s2 : s2.Booted f₀ := by
      unfold s2
      split
      · exact post_booted h_s1
      · exact h_s1
    exact jobAfter_booted h_s2
  · exact hs

theorem chanAfter_booted {s : State} {i : Nat} (hs : s.Booted f₀) : (s.chanAfter i).Booted f₀ := by
  unfold chanAfter
  split
  · split
    · extract_lets
      split
      · exact chanClosed_booted (setChan_booted hs)
      · exact setChan_booted hs
    · exact hs
  · exact hs

theorem modChan_booted {s : State} {i : Nat} {f : Channel → Channel} (hs : s.Booted f₀) : (s.modChan i f).Booted f₀ := by
  unfold modChan
  split
  · exact chanAfter_booted (setChan_booted hs)
  · exact hs

theorem chanWait_booted {s : State} {c q : Nat} {idx : Word} {i : Nat} (hs : s.Booted f₀) : (s.chanWait c q idx i).Booted f₀ := by
  unfold chanWait
  split
  · extract_lets
    exact modCmd_booted hs
  · exact hs

theorem chanWaited_booted {s : State} {c q : Nat} {idx : Word} {i : Nat} {put : Bool} (hs : s.Booted f₀) : (s.chanWaited c q idx i put).Booted f₀ := by
  unfold chanWaited
  split
  · split
    · extract_lets
      exact modCmd_booted (setChan_booted hs)
    · exact hs
  · exact hs

theorem studentLeaves_booted {s : State} {c : Nat} (hs : s.Booted f₀) : (s.studentLeaves c).Booted f₀ :=
  Booted.foldl hs (fun _ _ h1 => (modChan_booted h1))

theorem chanMigrate_booted {s : State} {i slice : Nat} (hs : s.Booted f₀) : (s.chanMigrate i slice).Booted f₀ := by
  unfold chanMigrate
  split
  · exact chanAfter_booted (raiseEv_booted (setChan_booted hs))
  · exact hs

theorem logStore_booted {s : State} {p : Nat} {l : List Byte} (hs : s.Booted f₀) : (s.logStore p l).Booted f₀ := by
  unfold logStore
  extract_lets
  split
  · exact dirtied_booted (hs.of_eq)
  · exact hs

theorem logPut_booted {s : State} {ty st fl step : Nat} {body : List Byte} (hs : s.Booted f₀) : (s.logPut ty st fl step body).Booted f₀ := by
  unfold logPut
  split
  · exact hs
  · split
    · exact hs
    · extract_lets _ _ _ _ _ s1 _ s2 _ s3 _
      have h_s1 : s1.Booted f₀ := Booted.ite (hs.of_eq) (logStore_booted hs)
      have h_s2 : s2.Booted f₀ := Booted.ite (sendNet_booted h_s1) (Booted.ite h_s1 (h_s1.of_eq))
      have h_s3 : s3.Booted f₀ := h_s2.of_eq
      split
      · exact raiseEv_booted (h_s3.of_eq)
      · exact h_s3

theorem logRelease_booted {s : State} {giveUp : Bool} (hs : s.Booted f₀) : (s.logRelease giveUp).Booted f₀ := by
  unfold logRelease
  split
  · exact hs
  · extract_lets _ s1 _ s2 _
    have h_s1 : s1.Booted f₀ := Booted.foldl hs (fun _ _ h1 => (logStore_booted h1))
    have h_s2 : s2.Booted f₀ := h_s1.of_eq
    exact h_s2.of_eq

theorem heldRelease_booted {s : State} {ok : Nat → Bool} (hs : s.Booted f₀) : (s.heldRelease ok).Booted f₀ := by
  unfold heldRelease
  extract_lets _ s1 _
  have h_s1 : s1.Booted f₀ := Booted.foldl hs (fun _ _ h1 => (dirtied_booted h1))
  exact h_s1.of_eq

theorem clearWp_booted {s : State} {ptn : Nat} (hs : s.Booted f₀) : (s.clearWp ptn).Booted f₀ := by
  unfold clearWp
  extract_lets _ s1
  have h_s1 : s1.Booted f₀ := hs.of_eq
  exact heldRelease_booted h_s1

theorem ckptRecord_booted {s : State} (hs : s.Booted f₀) : s.ckptRecord.Booted f₀ :=
  logPut_booted hs

theorem ckptEnd_booted {s : State} {failed : Bool} (hs : s.Booted f₀) : (s.ckptEnd failed).Booted f₀ := by
  unfold ckptEnd
  split
  · extract_lets _ s1 s2
    have h_s1 : s1.Booted f₀ := hs.of_eq
    have h_s2 : s2.Booted f₀ := by
      unfold s2
      split
      · exact clearWp_booted h_s1
      · exact h_s1
    exact raiseEv_booted (ckptRecord_booted (Booted.ite (logRelease_booted h_s2) h_s2))
  · exact hs

theorem cowStart_booted {s : State} {frame : Nat} (hs : s.Booted f₀) : (s.cowStart frame).Booted f₀ := by
  unfold cowStart
  split
  · exact hs
  · extract_lets
    split
    · exact hs.of_eq
    · split
      · exact raiseEv_booted (ckptEnd_booted (clearWp_booted hs))
      · exact hs

theorem putKey_booted {s : State} {c q : Nat} {idx : Word} {k : Nat} {l : List Byte} (hs : s.Booted f₀) : (s.putKey c q idx k l).Booted f₀ := by
  unfold putKey
  split
  · extract_lets s1 _
    have h_s1 : s1.Booted f₀ := cowStart_booted hs
    split
    · exact h_s1.of_eq
    · exact dirtied_booted (h_s1.of_eq)
  · exact dirtied_booted (hs.of_eq)

theorem putRow_booted {s : State} {c q : Nat} {idx : Word} {row : RowAt} {off : Nat} {l : List Byte} {fuel : Nat} (hs : s.Booted f₀) :
    (s.putRow c q idx row off l fuel).Booted f₀ := by
  induction fuel generalizing s off l with
  | zero => exact hs
  | succ fuel ih =>
    unfold putRow
    split
    · exact hs
    · exact hs
    · exact ih (putKey_booted hs)

theorem hostWrites_booted {s : State} {c q : Nat} {idx : Word} {h : Nat} {l : List Byte} {fuel : Nat} (hs : s.Booted f₀) :
    (s.hostWrites c q idx h l fuel).Booted f₀ := by
  induction fuel generalizing s h l with
  | zero => exact hs
  | succ fuel ih => exact Booted.ite hs (ih (send_booted hs.of_eq))

theorem putBytes_booted {s : State} {c q : Nat} {idx : Word} {ptn die a : Nat} {l : List Byte} (hs : s.Booted f₀) : (s.putBytes c q idx ptn die a l).Booted f₀ := by
  unfold putBytes
  split
  · split
    · exact hs
    · exact hostWrites_booted hs
  · exact putRow_booted hs

theorem putDest_booted {s : State} {c q : Nat} {idx : Word} {ptn die : Nat} {dst : Dest} {fmt cols r c0 : Nat} {vs : List Nat} (hs : s.Booted f₀) : (s.putDest c q idx ptn die dst fmt cols r c0 vs).Booted f₀ := by
  unfold putDest
  split
  · exact hs
  · split
    · extract_lets
      exact putBytes_booted hs
    · extract_lets
      exact putRow_booted hs
    · split
      · exact hs
      · extract_lets
        exact putRow_booted hs
    · exact hs

theorem fillSlot_booted {s : State} {i : Nat} (hs : s.Booted f₀) : (s.fillSlot i).2.Booted f₀ := by
  unfold fillSlot
  split
  · extract_lets
    exact setChan_booted hs
  · exact hs

theorem setHalf_booted {s : State} {a h : Nat} {x : Half2} (hs : s.Booted f₀) : (s.setHalf a h x).Booted f₀ :=
  setArr_booted hs

theorem putTrec_booted {s : State} {c q : Nat} {idx : Word} {x : At} {die tile word : Nat} (hs : s.Booted f₀) : (s.putTrec c q idx x die tile word).Booted f₀ := by
  unfold putTrec
  split
  · split
    · exact putBytes_booted hs
    · exact hs
  · exact hs

theorem tileDone_booted {s : State} {c q : Nat} {idx : Word} {x : At} {a tile tag retries : Nat} {nonfinite ovf : Bool} {maxExp : ℤ} (hs : s.Booted f₀) : (s.tileDone c q idx x a tile tag retries nonfinite ovf maxExp).Booted f₀ := by
  unfold tileDone
  extract_lets s2
  have h_s2 : s2.Booted f₀ := putTrec_booted hs
  exact modCmd_booted h_s2

theorem noteLast_booted {s : State} {a : Nat} {st : Status} {retries : Nat} (hs : s.Booted f₀) : (s.noteLast a st retries).Booted f₀ :=
  setArr_booted hs

theorem dropPartial_booted {s : State} {c q : Nat} {idx : Word} {tile p : Nat} (hs : s.Booted f₀) : (s.dropPartial c q idx tile p).Booted f₀ := by
  unfold dropPartial
  split
  · exact hs
  · extract_lets _ s1
    have h_s1 : s1.Booted f₀ := by
      unfold s1
      refine Booted.foldl hs ?_
      intro s1 a1 h1
      extract_lets
      exact setArr_booted h1
    exact modCmd_booted h_s1

theorem spillPart_booted {s : State} {x : At} {c q : Nat} {idx : Word} {tile p : Nat} (hs : s.Booted f₀) : (s.spillPart x c q idx tile p).Booted f₀ := by
  unfold spillPart
  split
  · exact hs
  · extract_lets
    split
    · extract_lets
      exact modCmd_booted (dropPartial_booted hs)
    · exact hs

theorem failCmd_booted {s : State} {c q : Nat} {idx : Word} {st : Status} {d : Option Nat} (hs : s.Booted f₀) : (s.failCmd c q idx st d).Booted f₀ := by
  unfold failCmd
  extract_lets s1
  have h_s1 : s1.Booted f₀ := unbind_booted hs
  split
  · split
    · exact answerFenced_booted h_s1
    · exact answer_booted h_s1
  · exact answer_booted h_s1

theorem drainDest_booted {s : State} {x : At} {a : Nat} {t : Drain} {y : Cmd} (hs : s.Booted f₀) :
    ∀ r, s.drainDest x a t y = some r → r.2.Booted f₀ := by
  intro r e
  unfold drainDest at e
  split at e
  · split_ifs at e
    · cases e; exact hs
    · obtain ⟨h, -, rfl⟩ := Option.map_eq_some_iff.mp e
      exact setHalf_booted hs
    · split at e
      · dsimp only at e
        split_ifs at e
        · split at e
          · cases e; exact hs
          · cases e; exact fillSlot_booted hs
        · split at e
          · cases e; exact hs
          · cases e
      · cases e
  · cases e

theorem dropDrain_booted {s : State} {a : Nat} {t : Drain} {f : AccSlot → AccSlot} (hs : s.Booted f₀) : (s.dropDrain a t f).Booted f₀ :=
  setArr_booted hs

theorem drainFails_booted {s : State} {a : Nat} {t : Drain} {st : Status} (hs : s.Booted f₀) : (s.drainFails a t st).Booted f₀ := by
  unfold drainFails
  split
  · extract_lets s1
    have h_s1 : s1.Booted f₀ := noteLast_booted (dropDrain_booted hs)
    exact answer_booted (modCmd_booted h_s1)
  · exact failCmd_booted hs

theorem drainWaited_booted {s : State} {x : At} {t : Drain} (hs : s.Booted f₀) : (s.drainWaited x t).Booted f₀ := by
  unfold drainWaited
  split
  · exact chanWaited_booted hs
  · exact hs

theorem drainPartial_booted {s : State} {x : At} {a : Nat} {t : Drain} {p : Nat} (hs : s.Booted f₀) : (s.drainPartial x a t p).Booted f₀ := by
  unfold drainPartial
  split
  · exact noteLast_booted (spillPart_booted (dropDrain_booted hs))
  · extract_lets
    exact setArr_booted hs

theorem drainHead_booted {s : State} {a : Nat} (hs : s.Booted f₀) : (s.drainHead a).Booted f₀ := by
  unfold drainHead
  extract_lets
  split
  · exact hs
  · split
    · split
      · exact hs
      · extract_lets wait _ _ _ _
        have h_wait : wait.Booted f₀ := setArr_booted hs
        split
        · exact drainPartial_booted hs
        · exact h_wait
        · split
          · rename_i e6
            split
            · split
              · split
                · exact drainFails_booted hs
                · exact chanWait_booted (Booted.ite hs h_wait)
              · exact drainFails_booted hs
            · exact hs
          · rename_i t6 e6
            have h_e6 := drainDest_booted hs _ e6
            extract_lets put s2
            have h_put : ∀ a0 a1 a2 a3 a4, a0.Booted f₀ → (put a0 a1 a2 a3 a4).Booted f₀ := fun _ _ _ _ _ h1 => (putDest_booted h1)
            have h_s2 : s2.Booted f₀ := by
              unfold s2
              refine Booted.foldl (drainWaited_booted h_e6) ?_
              intro s1 a1 h1
              split
              · exact h_put _ _ _ _ _ h1
              · exact Booted.foldl h1 (fun _ _ h2 => (h_put _ _ _ _ _ h2))
            exact tileDone_booted (noteLast_booted (dropDrain_booted h_s2))
    · exact hs

theorem finishDrains_booted {s : State} {c : Nat} (hs : s.Booted f₀) : (s.finishDrains c).Booted f₀ :=
  Booted.foldl hs (fun _ _ h1 => (Booted.foldl h1 (fun _ _ h2 => (drainHead_booted h2))))

theorem retireArray_booted {s : State} {a : Nat} (hs : s.Booted f₀) : (s.retireArray a).Booted f₀ := by
  unfold retireArray
  extract_lets
  split
  · exact hs
  · exact raiseEv_booted (setArr_booted hs)

theorem countArrayUe_booted {s : State} {a : Nat} (hs : s.Booted f₀) : (s.countArrayUe a).Booted f₀ :=
  raiseEv_booted (setQuad_booted (setArr_booted hs))

theorem signed_booted {s : State} {l : List Byte} (hs : s.Booted f₀) : (s.signed l).2.Booted f₀ :=
  hs.of_eq

theorem ownReport_booted {s : State} {nonce : List Byte} (hs : s.Booted f₀) : (s.ownReport nonce).2.Booted f₀ := by
  unfold ownReport
  extract_lets _ r
  have h_r : r.2.Booted f₀ := signed_booted hs
  exact h_r

theorem restartCores_booted {s : State} {d : Nat} (hs : s.Booted f₀) : (s.restartCores d).Booted f₀ := by
  unfold restartCores
  refine Booted.foldl hs ?_
  intro s1 a1 h1
  extract_lets
  exact setCore_booted h1

theorem leaveReset_booted {s0 : State} {d : Nat} (hs : s0.Booted f₀) : (s0.leaveReset d).Booted f₀ := by
  unfold leaveReset
  extract_lets s' _ s1 _ _ _ s2 _
  have h_s' : s'.Booted f₀ := hs.of_eq
  have h_s1 : s1.Booted f₀ := restartCores_booted (setDom_booted h_s')
  have h_s2 : s2.Booted f₀ := Booted.ite (setStack_booted h_s1) (Booted.ite (setQuad_booted h_s1) h_s1)
  split
  · exact h_s2.of_eq
  · exact h_s2

theorem railOf_booted {s : State} {d : Nat} (hs : s.Booted f₀) : (s.railOf d).2.Booted f₀ := by
  unfold railOf
  split
  · exact hs
  · split
    · exact hs
    · exact fresh_booted hs

theorem retirePc_booted {s : State} {g : Nat} (hs : s.Booted f₀) : (s.retirePc g).Booted f₀ := by
  unfold retirePc
  extract_lets
  split
  · exact hs
  · exact raiseEv_booted (setStack_booted hs)

theorem trainStack_booted {s : State} {k : Nat} (hs : s.Booted f₀) : (s.trainStack k).Booted f₀ := by
  unfold trainStack
  extract_lets s1
  have h_s1 : s1.Booted f₀ := Booted.foldl hs (fun _ _ h1 => (retirePc_booted h1))
  exact h_s1.of_eq

theorem powerStart_booted {s : State} {d : Nat} (hs : s.Booted f₀) : (s.powerStart d).Booted f₀ := by
  unfold powerStart
  split
  · exact hs
  · extract_lets r s1 s2 _
    have h_r : r.2.Booted f₀ := railOf_booted hs
    have h_s1 : s1.Booted f₀ := leaveReset_booted h_r
    have h_s2 : s2.Booted f₀ := Booted.ite (trainStack_booted h_s1) h_s1
    exact sendCtl_booted (setDom_booted h_s2)

theorem switchOn_booted {s : State} {d : Nat} (hs : s.Booted f₀) : (s.switchOn d).Booted f₀ :=
  Booted.foldl hs (fun _ _ h1 => (powerStart_booted h1))

theorem powerUp_booted {s : State} {d : Nat} (hs : s.Booted f₀) : (s.powerUp d).Booted f₀ := by
  unfold powerUp
  split
  · exact hs
  · extract_lets r s1 _
    have h_r : r.2.Booted f₀ := railOf_booted hs
    have h_s1 : s1.Booted f₀ := leaveReset_booted h_r
    exact sendCtl_booted (sendCtl_booted (setDom_booted h_s1))

theorem powerOn_booted {s : State} {d : Nat} (hs : s.Booted f₀) : (s.powerOn d).Booted f₀ :=
  Booted.foldl hs (fun _ _ h1 => (powerUp_booted h1))

theorem starved_booted {s : State} {site : Arbiter} {req holder : Nat} (hs : s.Booted f₀) : (s.starved site req holder).Booted f₀ := by
  unfold starved
  split
  · extract_lets
    exact raiseEv_booted (Booted.ite hs (setStack_booted hs))
  · extract_lets
    exact raiseEv_booted (Booted.ite hs (hs.of_eq))
  · extract_lets
    exact raiseEv_booted (Booted.ite hs (hs.of_eq))
  · extract_lets
    exact raiseEv_booted (Booted.ite hs (hs.of_eq))

theorem rzPump_booted {s : State} {l : Nat} {high : Bool} {fuel : Nat} (hs : s.Booted f₀) : (s.rzPump l high fuel).Booted f₀ := by
  induction fuel generalizing s with
  | zero => exact hs
  | succ fuel ih =>
    unfold rzPump
    refine Booted.ite hs ?_
    split
    · exact hs
    · refine ih ?_
      split
      · exact starved_booted (setRzLink_booted hs)
      · exact setRzLink_booted hs

theorem rzPumpAll_booted {s : State} (hs : s.Booted f₀) : s.rzPumpAll.Booted f₀ := by
  unfold rzPumpAll
  refine Booted.foldl hs ?_
  intro s1 a1 h1
  extract_lets s1'
  have h_s1' : s1'.Booted f₀ := rzPump_booted h1
  exact rzPump_booted h_s1'

theorem rzForward_booted {s : State} {n : Nat} {came : Option Nat} {x : RzTransfer} (hs : s.Booted f₀) : (s.rzForward n came x).Booted f₀ := by
  unfold rzForward
  split
  · exact hs
  · split
    · exact hs
    · split
      · exact hs
      · extract_lets
        exact rzPump_booted (setRzLink_booted hs)

theorem rzRetrain_booted {s : State} {l : Nat} (hs : s.Booted f₀) : (s.rzRetrain l).Booted f₀ :=
  raiseEv_booted (setRzLink_booted hs)

theorem rzReroute_booted {s : State} {l : Nat} {high : Bool} (hs : s.Booted f₀) : (s.rzReroute l high).Booted f₀ :=
  Booted.foldl (setRzLink_booted hs) (fun _ _ h1 => (rzForward_booted h1))

theorem placeDetour_booted {s : State} {l : Nat} (hs : s.Booted f₀) : (s.placeDetour l).Booted f₀ := by
  unfold placeDetour
  split
  · extract_lets
    exact raiseEv_booted (sendCtl_booted (rzReroute_booted (rzReroute_booted (setRzLink_booted hs))))
  · exact hs

theorem rzDown_booted {s : State} {l : Nat} (hs : s.Booted f₀) : (s.rzDown l).Booted f₀ := by
  unfold rzDown
  extract_lets _ _ s1
  have h_s1 : s1.Booted f₀ := raiseEv_booted (sendCtl_booted (setRzLink_booted hs))
  exact placeDetour_booted h_s1

theorem rzRetrained_booted {s : State} {l : Nat} {ok : Bool} (hs : s.Booted f₀) : (s.rzRetrained l ok).Booted f₀ := by
  unfold rzRetrained
  extract_lets _ _ _ s1
  have h_s1 : s1.Booted f₀ := setRzLink_booted hs
  split
  · exact hs
  · split
    · exact rzPumpAll_booted h_s1
    · exact rzDown_booted h_s1

theorem putImage_booted {s : State} {c off : Nat} {l : List Byte} (hs : s.Booted f₀) : (s.putImage c off l).Booted f₀ :=
  putBytes_booted hs

theorem putSection_booted {s : State} {c i off : Nat} {data : List Byte} (hs : s.Booted f₀) : (s.putSection c i off data).Booted f₀ :=
  putImage_booted hs

theorem saveQuad_booted {s : State} {c k : Nat} (hs : s.Booted f₀) : (s.saveQuad c k).Booted f₀ := by
  unfold saveQuad
  extract_lets _ _ s1
  have h_s1 : s1.Booted f₀ := Booted.foldl hs (fun _ _ h1 => (putImage_booted h1))
  exact putSection_booted h_s1

theorem saveWindow_booted {s : State} {c n : Nat} (hs : s.Booted f₀) : (s.saveWindow c n).Booted f₀ := by
  unfold saveWindow
  extract_lets _ _ _ s1 _
  have h_s1 : s1.Booted f₀ := putSection_booted (putImage_booted hs)
  exact setCtx_booted h_s1

theorem preemptRecords_booted {s : State} {c : Nat} (hs : s.Booted f₀) : (s.preemptRecords c).Booted f₀ := by
  unfold preemptRecords
  refine Booted.foldl hs ?_
  intro s1 a1 h1
  extract_lets
  split
  · exact h1
  · exact putRecord_booted h1

theorem lossRestart_booted {s : State} {c : Nat} (hs : s.Booted f₀) : (s.lossRestart c).Booted f₀ := by
  unfold lossRestart
  extract_lets s1
  have h_s1 : s1.Booted f₀ := studentLeaves_booted hs
  refine Booted.foldl h_s1 ?_
  intro s1 a1 h1
  extract_lets
  exact setQueue_booted h1

theorem beginSave_booted {s : State} {c reason : Nat} {after : AfterSave} (hs : s.Booted f₀) : (s.beginSave c reason after).Booted f₀ := by
  unfold beginSave
  extract_lets _ s1 s2 _
  have h_s1 : s1.Booted f₀ := Booted.ite hs (preemptRecords_booted hs)
  have h_s2 : s2.Booted f₀ := lossRestart_booted h_s1
  split
  · exact setCtx_booted h_s2
  · exact hs

theorem park_booted {s : State} {c : Nat} {w : ParkWait} (hs : s.Booted f₀) : (s.park c w).Booted f₀ := by
  unfold park
  extract_lets s1 _
  have h_s1 : s1.Booted f₀ := beginSave_booted hs
  split
  · exact setCtx_booted h_s1
  · exact hs

theorem leave_booted {s : State} {c : Nat} (hs : s.Booted f₀) : (s.leave c).Booted f₀ := by
  unfold leave
  extract_lets _ _ s1
  have h_s1 : s1.Booted f₀ := setCtx_booted hs
  exact h_s1.of_eq

theorem writeImage_booted {s : State} {c : Nat} (hs : s.Booted f₀) : (s.writeImage c).Booted f₀ := by
  unfold writeImage
  extract_lets s1 s2 _
  have h_s1 : s1.Booted f₀ := putImage_booted hs
  have h_s2 : s2.Booted f₀ := Booted.foldl h_s1 (fun _ _ h1 => (saveQuad_booted h1))
  exact setCtx_booted h_s2

theorem saveDone_booted {s : State} {c : Nat} (hs : s.Booted f₀) : (s.saveDone c).Booted f₀ := by
  unfold saveDone
  split
  · extract_lets s1 _
    have h_s1 : s1.Booted f₀ := leave_booted (writeImage_booted hs)
    exact setCtx_booted h_s1
  · exact hs

theorem idleArrays_booted {s : State} {c : Nat} (hs : s.Booted f₀) : (s.idleArrays c).Booted f₀ :=
  hs.of_eq

theorem teacherBack_booted {s : State} {c : Nat} {places : List BlockMark} (hs : s.Booted f₀) : (s.teacherBack c places).Booted f₀ := by
  unfold teacherBack
  extract_lets _ _ _ s1 _ s2 s3
  have h_s1 : s1.Booted f₀ := idleArrays_booted hs
  have h_s2 : s2.Booted f₀ := setCtx_booted h_s1
  have h_s3 : s3.Booted f₀ := Booted.ite h_s2 (patchQueues_booted (post_booted h_s2))
  split
  · exact hs
  · refine Booted.foldl h_s3 ?_
    intro s1 a1 h1
    split
    · extract_lets
      exact setChan_booted h1
    · exact h1

theorem teachersBack_booted {s : State} {chans : List Nat} (hs : s.Booted f₀) : (s.teachersBack chans).Booted f₀ :=
  Booted.foldl hs (fun _ _ h1 => (teacherBack_booted h1))

theorem ptnAnswer_booted {s : State} {a i : Nat} {st : Status} {detail handle quads moved copied : Nat} (hs : s.Booted f₀) : (s.ptnAnswer a i st detail handle quads moved copied).Booted f₀ :=
  post_booted hs

theorem headAnswer_booted {s : State} {a : Nat} {st : Status} {detail bad us : Nat} (hs : s.Booted f₀) : (s.headAnswer a st detail bad us).Booted f₀ :=
  post_booted hs

theorem refuseBatch_booted {s : State} {a : Nat} {rs : List (Option (Status × Nat))} {ds : List PtnDesc} (hs : s.Booted f₀) : (s.refuseBatch a rs ds).Booted f₀ := by
  unfold refuseBatch
  split
  · exact hs
  · extract_lets _ _ s1
    have h_s1 : s1.Booted f₀ := by
      unfold s1
      refine Booted.foldl hs ?_
      intro s1 a1 h1
      extract_lets
      split
      · exact ptnAnswer_booted h1
      · exact ptnAnswer_booted h1
    exact raiseEv_booted (headAnswer_booted h_s1)

theorem batchSaves_booted {s : State} {b : Batch} (hs : s.Booted f₀) : (s.batchSaves b).Booted f₀ := by
  unfold batchSaves
  refine Booted.foldl hs ?_
  intro s1 a1 h1
  extract_lets
  split
  · exact setCtx_booted h1
  · split
    · exact h1
    · split
      · exact park_booted h1
      · exact beginSave_booted h1

theorem batchPower_booted {s : State} {items : List BatchItem} (hs : s.Booted f₀) : (s.batchPower items).Booted f₀ :=
  Booted.foldl hs (fun _ _ h1 => (Booted.ite (switchOn_booted h1) h1))

theorem acceptBatch_booted {s : State} {a : Nat} {pl : Plan} {ds : List PtnDesc} (hs : s.Booted f₀) : (s.acceptBatch a pl ds).Booted f₀ := by
  unfold acceptBatch
  extract_lets _ _ s1
  have h_s1 : s1.Booted f₀ := batchSaves_booted (batchPower_booted (hs.of_eq))
  exact h_s1.of_eq

theorem decideBatch_booted {s : State} {a : Nat} {ds : List PtnDesc} (hs : s.Booted f₀) : (s.decideBatch a ds).Booted f₀ := by
  unfold decideBatch
  extract_lets
  split
  · exact refuseBatch_booted hs
  · exact acceptBatch_booted hs

theorem saveLeaving_booted {s : State} {c new : Nat} (hs : s.Booted f₀) : (s.saveLeaving c new).Booted f₀ :=
  Booted.foldl hs (fun _ _ h1 => (Booted.ite h1 (saveWindow_booted h1)))

theorem redealQueue_booted {s : State} {c q : Nat} (hs : s.Booted f₀) : (s.redealQueue c q).Booted f₀ := by
  unfold redealQueue
  extract_lets _ s1 s2 _ _ _
  have h_s1 : s1.Booted f₀ := Booted.foldl hs (fun _ _ h1 => (unbind_booted h1))
  have h_s2 : s2.Booted f₀ := freeHeld_booted h_s1
  exact setQueue_booted h_s2

theorem redeal_booted {s : State} {c : Nat} (hs : s.Booted f₀) : (s.redeal c).Booted f₀ := by
  unfold redeal
  extract_lets s1 _
  have h_s1 : s1.Booted f₀ := Booted.foldl hs (fun _ _ h1 => (redealQueue_booted h1))
  exact setCtx_booted h_s1

theorem remapCtx_booted {s : State} {c old new : Nat} (hs : s.Booted f₀) : (s.remapCtx c old new).Booted f₀ := by
  unfold remapCtx
  extract_lets _ _ _ s0 _ _ _
  have h_s0 : s0.Booted f₀ := Booted.ite (redeal_booted hs) hs
  exact setCtx_booted h_s0

theorem dropAttrs_booted {s : State} {pcs : Nat} (hs : s.Booted f₀) : (s.dropAttrs pcs).Booted f₀ :=
  hs.of_eq

theorem ownItem_booted {s : State} {it : BatchItem} (hs : s.Booted f₀) : (s.ownItem it).Booted f₀ := by
  unfold ownItem
  split
  · extract_lets s1
    have h_s1 : s1.Booted f₀ := dropAttrs_booted hs
    exact h_s1.of_eq
  · extract_lets s1 s2 s3 _ s4 _ _
    have h_s1 : s1.Booted f₀ := Booted.foldl hs (fun _ _ h1 => (saveLeaving_booted h1))
    have h_s2 : s2.Booted f₀ := Booted.foldl h_s1 (fun _ _ h1 => (chanMigrate_booted h1))
    have h_s3 : s3.Booted f₀ := h_s2.of_eq
    have h_s4 : s4.Booted f₀ := teachersBack_booted (Booted.foldl h_s3 (fun _ _ h1 => (remapCtx_booted h1)))
    exact h_s4.of_eq
  · split
    · exact hs.of_eq
    · exact hs
  · exact hs

theorem applyItem_booted {s : State} {it : BatchItem} (hs : s.Booted f₀) : (s.applyItem it).Booted f₀ :=
  settleWays_booted (ownItem_booted hs) hs

theorem endBatch_booted {s : State} {b : Batch} (hs : s.Booted f₀) : (s.endBatch b).Booted f₀ := by
  unfold endBatch
  extract_lets s1 s2
  have h_s1 : s1.Booted f₀ := by
    unfold s1
    refine Booted.foldl hs ?_
    intro s1 a1 h1
    extract_lets
    exact ptnAnswer_booted h1
  have h_s2 : s2.Booted f₀ := h_s1.of_eq
  exact raiseEv_booted (headAnswer_booted h_s2)

theorem batchStep_booted {s : State} (hs : s.Booted f₀) : s.batchStep.Booted f₀ := by
  unfold batchStep
  split
  · exact hs
  · split
    · split
      · exact endBatch_booted hs
      · exact hs
    · split
      · extract_lets s0 s1 _ s2
        have h_s0 : s0.Booted f₀ := Booted.ite (ckptEnd_booted hs) hs
        have h_s1 : s1.Booted f₀ := Booted.foldl h_s0 (fun _ _ h1 => (Booted.foldl h1 (fun _ _ h2 => (applyItem_booted h2))))
        have h_s2 : s2.Booted f₀ := h_s1.of_eq
        split
        · exact h_s2
        · exact endBatch_booted h_s2
      · exact batchSaves_booted (batchPower_booted hs)

theorem ctxAnswer_booted {s : State} {a : Nat} {st : Status} {detail handle pages : Nat} (hs : s.Booted f₀) : (s.ctxAnswer a st detail handle pages).Booted f₀ :=
  post_booted hs

theorem createFrom_booted {s : State} {a : Nat} {l : List Byte} (hs : s.Booted f₀) : (s.createFrom a l).Booted f₀ := by
  unfold createFrom
  extract_lets
  split
  · exact ctxAnswer_booted hs
  · extract_lets s1
    have h_s1 : s1.Booted f₀ := setCtx_booted (hs.of_eq)
    exact ctxAnswer_booted h_s1
  · exact hs

theorem forceSave_booted {s : State} {c : Nat} (hs : s.Booted f₀) : (s.forceSave c).Booted f₀ :=
  saveDone_booted (finishDrains_booted (beginSave_booted hs))

theorem parkEmpty_booted {s : State} {c : Nat} (hs : s.Booted f₀) : (s.parkEmpty c).Booted f₀ := by
  unfold parkEmpty
  extract_lets _ s1
  have h_s1 : s1.Booted f₀ := setCtx_booted hs
  split
  · exact park_booted hs
  · exact setCtx_booted hs
  · exact h_s1.of_eq
  · exact h_s1.of_eq
  · exact h_s1.of_eq
  · exact hs

theorem removeQuad_booted {s1 : State} {k : Nat} (hs : s1.Booted f₀) : (s1.removeQuad k).Booted f₀ := by
  unfold removeQuad
  split
  · exact hs
  · extract_lets _ _ s2 order s3
    have h_s2 : s2.Booted f₀ := Booted.foldl hs (fun _ _ h1 => (forceSave_booted h1))
    have h_order : ∀ a0 a1, a0.Booted f₀ → (order a0 a1).Booted f₀ := fun _ _ h1 => (remapCtx_booted (saveLeaving_booted h1))
    have h_s3 : s3.Booted f₀ := Booted.foldl h_s2 (fun _ _ h1 => (Booted.ite (forceSave_booted h1) h1))
    split
    · exact raiseEv_booted (Booted.foldl (hs.of_eq) (fun _ _ h1 => (parkEmpty_booted h1)))
    · exact Booted.foldl (h_s3.of_eq) h_order

theorem retireQuad_booted {s : State} {k : Nat} (hs : s.Booted f₀) : (s.retireQuad k).Booted f₀ := by
  unfold retireQuad
  extract_lets
  split
  · exact hs
  · exact removeQuad_booted (raiseEv_booted (setQuad_booted hs))

theorem retire_booted {s : State} {a : Nat} (hs : s.Booted f₀) : (s.retire a).Booted f₀ := by
  unfold retire
  split
  · exact hs
  · extract_lets _ _ s1
    have h_s1 : s1.Booted f₀ := Booted.foldl hs (fun _ _ h1 => (beginSave_booted (redeal_booted h1)))
    exact retireQuad_booted (retireArray_booted h_s1)

theorem retireNoted_booted {s : State} {a first : Nat} (hs : s.Booted f₀) : (s.retireNoted a first).Booted f₀ := by
  unfold retireNoted
  split
  · exact hs
  · extract_lets s1 _
    have h_s1 : s1.Booted f₀ := retire_booted hs
    split
    · exact openFault_booted h_s1
    · exact modFault_booted h_s1

theorem retireFor_booted {s : State} {a first : Nat} (hs : s.Booted f₀) : (s.retireFor a first).Booted f₀ := by
  unfold retireFor
  split
  · exact retireNoted_booted hs
  · exact hs

theorem procEffect_booted {s : State} {proc t : Nat} {r : ProcResult} (hs : s.Booted f₀) : (s.procEffect proc t r).Booted f₀ := by
  unfold procEffect
  split
  · exact Booted.foldl hs (fun _ _ h1 => (retireNoted_booted h1))
  · split
    · exact Booted.foldl hs (fun _ _ h1 => (retireFor_booted (countArrayUe_booted h1)))
    · split
      · exact rzRetrained_booted (rzRetrain_booted hs)
      · exact hs

theorem medAnswer_booted {s : State} {a : Nat} {st : Status} {detail handle clips : Nat} (hs : s.Booted f₀) : (s.medAnswer a st detail handle clips).Booted f₀ :=
  post_booted hs

theorem openFrom_booted {s : State} {a : Nat} {index : Option (List Byte)} {l : List Byte} (hs : s.Booted f₀) : (s.openFrom a index l).Booted f₀ := by
  unfold openFrom
  extract_lets
  split
  · exact medAnswer_booted hs
  · extract_lets s1
    have h_s1 : s1.Booted f₀ := hs.of_eq
    exact medAnswer_booted h_s1
  · exact hs

theorem lowerGrant_booted {s : State} {lvl g : Nat} (hs : s.Booted f₀) : (s.lowerGrant lvl g).Booted f₀ := by
  unfold lowerGrant
  extract_lets
  split
  · exact hs
  · exact raiseEv_booted (setGroup_booted hs)

theorem demote_booted {s : State} (hs : s.Booted f₀) : s.demote.Booted f₀ :=
  Booted.foldl hs (fun _ _ h1 => (Booted.foldl h1 (fun _ _ h2 => (lowerGrant_booted h2))))

theorem raiseGrant_booted {s : State} {lvl g : Nat} (hs : s.Booted f₀) : (s.raiseGrant lvl g).Booted f₀ := by
  unfold raiseGrant
  extract_lets
  split
  · exact setGroup_booted hs
  · exact hs

theorem moveRails_booted {s : State} (hs : s.Booted f₀) : s.moveRails.Booted f₀ := by
  unfold moveRails
  refine Booted.foldl hs ?_
  intro s1 a1 h1
  extract_lets
  exact setGroup_booted h1

theorem evaluate_booted {s : State} (hs : s.Booted f₀) : s.evaluate.Booted f₀ := by
  unfold evaluate
  extract_lets s1 s2 s3 s4 s5
  have h_s1 : s1.Booted f₀ := by
    unfold s1
    refine Booted.foldl hs ?_
    intro s1 a1 h1
    extract_lets
    split
    · exact setGroup_booted h1
    · exact h1
  have h_s2 : s2.Booted f₀ := demote_booted h_s1
  have h_s3 : s3.Booted f₀ := Booted.foldl h_s2 (fun _ _ h1 => (raiseGrant_booted h1))
  have h_s4 : s4.Booted f₀ := Booted.ite h_s3 (Booted.foldl h_s3 (fun _ _ h1 => (raiseGrant_booted h1)))
  have h_s5 : s5.Booted f₀ := Booted.ite h_s4 (Booted.foldl h_s4 (fun _ _ h1 => (raiseGrant_booted h1)))
  exact moveRails_booted h_s5

theorem alert_booted {s : State} (hs : s.Booted f₀) : s.alert.Booted f₀ :=
  hs.of_eq

theorem setNet_booted {s : State} {n : Net} (hs : s.Booted f₀) : (s.setNet n).Booted f₀ :=
  hs.of_eq

theorem modMember_booted {s : State} {m : Nat} {f : Member → Member} (hs : s.Booted f₀) : (s.modMember m f).Booted f₀ :=
  setNet_booted hs

theorem startGroup_booted {s : State} {self : Nat} {l : List Byte} (hs : s.Booted f₀) : (s.startGroup self l).Booted f₀ := by
  unfold startGroup
  extract_lets _ _ _ s1 r
  have h_s1 : s1.Booted f₀ := modMember_booted (setNet_booted hs)
  have h_r : r.2.Booted f₀ := ownReport_booted h_s1
  split
  · exact raiseEv_booted (setNet_booted hs)
  · split
    · exact h_s1
    · exact sendNet_booted h_r

theorem setCkp_booted {s : State} {k : Ckp} (hs : s.Booted f₀) : (s.setCkp k).Booted f₀ :=
  hs.of_eq

theorem openConnections_booted {s : State} {i : Nat} (hs : s.Booted f₀) : (s.openConnections i).Booted f₀ :=
  Booted.foldl hs (fun _ _ h1 => (setQp_booted h1))

theorem tryCandidate_booted {s : State} {i : Nat} (hs : s.Booted f₀) : (s.tryCandidate i).Booted f₀ := by
  unfold tryCandidate
  split
  · split
    · extract_lets r _
      have h_r : r.2.Booted f₀ := ownReport_booted (openConnections_booted hs)
      exact sendNet_booted (setCkp_booted h_r)
    · exact hs
  · exact setCkp_booted hs

theorem startMirror_booted {s : State} (hs : s.Booted f₀) : s.startMirror.Booted f₀ :=
  tryCandidate_booted (setCkp_booted hs)

theorem setTherm_booted {s : State} {v : Nat} (hs : s.Booted f₀) : (s.setTherm v).Booted f₀ := by
  unfold setTherm
  extract_lets
  split
  · exact hs.of_eq
  · exact hs

theorem setCap_booted {s : State} {v : Nat} (hs : s.Booted f₀) : (s.setCap v).Booted f₀ := by
  unfold setCap
  extract_lets
  split
  · exact evaluate_booted (hs.of_eq)
  · exact hs

theorem setPwrCfg_booted {s : State} {v : Nat} (hs : s.Booted f₀) : (s.setPwrCfg v).Booted f₀ :=
  hs.of_eq

theorem setWearCfg_booted {s : State} {v : Nat} (hs : s.Booted f₀) : (s.setWearCfg v).Booted f₀ :=
  hs.of_eq

theorem setWin_booted {s : State} {c v : Nat} (hs : s.Booted f₀) : (s.setWin c v).Booted f₀ := by
  unfold setWin
  extract_lets
  split
  · exact hs.of_eq
  · exact hs

theorem setRetire_booted {s : State} {v : Nat} (hs : s.Booted f₀) : (s.setRetire v).Booted f₀ := by
  unfold setRetire
  extract_lets
  split
  · exact hs.of_eq
  · exact hs

theorem setAllow_booted {s : State} {v : Nat} (hs : s.Booted f₀) : (s.setAllow v).Booted f₀ := by
  unfold setAllow
  split
  · exact hs
  · exact hs.of_eq

theorem applySettings_booted {s : State} {m : List Byte} (hs : s.Booted f₀) : (s.applySettings m).Booted f₀ := by
  unfold applySettings
  extract_lets s1 s2
  have h_s1 : s1.Booted f₀ := by
    unfold s1
    split
    · exact setWearCfg_booted (setPwrCfg_booted (setCap_booted (setTherm_booted hs)))
    · exact hs
  have h_s2 : s2.Booted f₀ := by
    unfold s2
    split
    · exact setRetire_booted (Booted.foldl h_s1 (fun _ _ h1 => (setWin_booted h1)))
    · exact h_s1
  split
  · extract_lets s3 _
    have h_s3 : s3.Booted f₀ := setAllow_booted h_s2
    exact h_s3.of_eq
  · exact h_s2

theorem storeImages_booted {s : State} {m : List Byte} (hs : s.Booted f₀) : (s.storeImages m).Booted f₀ := by
  unfold storeImages
  refine Booted.foldl hs ?_
  intro s1 a1 h1
  split
  · exact setCore_booted h1
  · exact h1

theorem startDomains_booted {s : State} (hs : s.Booted f₀) : s.startDomains.Booted f₀ := by
  unfold startDomains
  extract_lets s1 s2
  have h_s1 : s1.Booted f₀ := Booted.foldl hs (fun _ _ h1 => (powerOn_booted h1))
  have h_s2 : s2.Booted f₀ := Booted.foldl h_s1 (fun _ _ h1 => (setDom_booted h1))
  exact h_s2.of_eq

theorem trainUnits_booted {s : State} (hs : s.Booted f₀) : s.trainUnits.Booted f₀ := by
  unfold trainUnits
  extract_lets s1 _ s2
  have h_s1 : s1.Booted f₀ := Booted.foldl hs (fun _ _ h1 => (trainStack_booted h1))
  have h_s2 : s2.Booted f₀ := Booted.foldl h_s1 (fun _ _ h1 => (Booted.ite (rzDown_booted h1) (setRzLink_booted h1)))
  exact h_s2.of_eq

theorem selfTestOne_booted {s : State} {proc t : Nat} (hs : s.Booted f₀) : (s.selfTestOne proc t).Booted f₀ := by
  unfold selfTestOne
  extract_lets
  split
  · exact hs
  · split
    · exact procEffect_booted hs
    · exact retirePc_booted hs
    · exact rzDown_booted hs
    · exact hs

theorem selfTests_booted {s : State} {m : List Byte} (hs : s.Booted f₀) : (s.selfTests m).Booted f₀ := by
  unfold selfTests
  extract_lets _ s1
  have h_s1 : s1.Booted f₀ := by
    unfold s1
    refine Booted.foldl hs ?_
    intro s1 a1 h1
    extract_lets
    split
    · exact Booted.foldl h1 (fun _ _ h2 => (selfTestOne_booted h2))
    · exact h1
  exact h_s1.of_eq

theorem applyLayout_booted {s : State} {m : List Byte} (hs : s.Booted f₀) : (s.applyLayout m).Booted f₀ := by
  unfold applyLayout
  split
  · exact hs
  · extract_lets
    split
    · exact raiseEv_booted hs
    · exact batchStep_booted (decideBatch_booted hs)

theorem startWork_booted {s : State} {m : List Byte} (hs : s.Booted f₀) : (s.startWork m).Booted f₀ := by
  unfold startWork
  extract_lets s1 _ s2 _ _ s3
  have h_s1 : s1.Booted f₀ := by
    unfold s1
    split
    · exact startGroup_booted hs
    · exact hs
  have h_s2 : s2.Booted f₀ := by
    unfold s2
    split
    · exact startMirror_booted (setCkp_booted h_s1)
    · exact h_s1
  have h_s3 : s3.Booted f₀ := h_s2.of_eq
  exact Booted.foldl h_s3 (fun _ _ h1 => (Booted.ite (sendNet_booted h1) h1))

end State

end Sys2Proof.Machine
end

section
/-! O37. Power-on, boot and the jobs that start at boot (R395 to R399, R426). -/

set_option Elab.async false

namespace Sys2Proof.Machine

namespace State

variable {s t : State} {d : Nat}

/-! ### A domain of the supervisor comes up -/

/-- Outside the groups and the stacks, leaving reset touches no quadrant and no stack. -/
theorem leaveReset_high (s : State) (high : 72 ≤ d) : ∃ cs p l, s.leaveReset d =
    { s with domains := tput s.domains d (s.dom d).left, cores := cs, plk := p, delivered := l } := by
  let u : State := { s with delivered := s.delivered.filter fun x =>
    !(rzClass x.transfer.header == 0 && rzSrcDomain x.transfer.header == d) }
  obtain ⟨cs, restarted⟩ := restartCores_eq (u.setDom d (s.dom d).left) d
  have run : s.leaveReset d = if d = 78 then { (u.setDom d (s.dom d).left).restartCores d with
      plk := { ((u.setDom d (s.dom d).left).restartCores d).plk with supRestarted := true } }
      else (u.setDom d (s.dom d).left).restartCores d := by
    unfold leaveReset
    dsimp only
    rw [if_neg (show ¬(56 ≤ d ∧ d < 72) by omega), if_neg (show ¬(d < 56 ∧ d % 7 < 4) by omega)]
    rfl
  rw [run, restarted]
  split
  · exact ⟨cs, _, _, rfl⟩
  · exact ⟨cs, s.plk, _, rfl⟩

/-- The parts that the powering of a domain of the supervisor changes. -/
def Powered (s t : State) : Prop :=
  ∃ ds cs ct p n l, t = { s with domains := ds, cores := cs, ctl := ct, plk := p, free := n, delivered := l }

theorem Powered.trans {u : State} (a : Powered s t) (b : Powered t u) : Powered s u := by
  obtain ⟨ds, cs, ct, p, n, l, rfl⟩ := a
  obtain ⟨ds', cs', ct', p', n', l', rfl⟩ := b
  exact ⟨_, _, _, _, _, _, rfl⟩

theorem powerUp_high (s : State) (high : 76 ≤ d) (small : d < 80) :
    Powered s (s.powerUp d) ∧ ((s.powerUp d).dom d).power = .on ∧ ∀ e, e ≠ d → (s.powerUp d).dom e = s.dom e := by
  have present : s.variant.domain d = true := by
    unfold Variant.domain
    rw [if_neg (by omega), if_neg (by omega), if_neg (by omega)]
    exact decide_eq_true small
  unfold powerUp
  split
  · next still =>
    refine ⟨⟨_, _, _, _, _, _, rfl⟩, ?_, fun _ _ => rfl⟩
    exact (still.resolve_left (by rw [present]; decide)).1
  · obtain ⟨n, rail⟩ := s.railOf_eq d
    obtain ⟨cs, p, l, left⟩ := (s.railOf d).2.leaveReset_high (d := d) (by omega)
    dsimp only
    rw [left, rail]
    refine ⟨⟨_, _, _, _, _, _, rfl⟩, ?_, fun e ne => ?_⟩
    · exact congrArg Domain.power (tgetD_tput_same ..)
    · exact (tgetD_tput_ne _ _ _ ne).trans (tgetD_tput_ne _ _ _ ne)

/-- What makes a slot valid does not depend on what the supervisor's powering changes, nor on the counts of boot. -/
theorem slotReason_powered {bt : Boot} (k : Powered s t) (b : Bool) (tables : bt.flashTables = s.boot.flashTables)
    (root : bt.rootHash = s.boot.rootHash) (revoke : bt.revoke = s.boot.revoke) (svn : bt.svnCount = s.boot.svnCount) :
    ({ t with boot := bt } : State).slotReason b = s.slotReason b := by
  obtain ⟨ds, cs, ct, p, n, l, rfl⟩ := k
  unfold slotReason refusedFor
  dsimp only
  rw [tables, root, revoke, svn]
  rfl

/-- The supervisor with its own domains powered, the power-on counted (R397). -/
def risen (s : State) : State :=
  let u := (s.powerUp 79).powerUp 78
  { u with boot := { u.boot with boots := satAdd 32 u.boot.boots 1, serviceMode := u.pins.svcEn } }

theorem risen_spec (s : State) : ∃ u, Powered s u ∧ s.risen = { u with boot := { s.boot with
      boots := satAdd 32 s.boot.boots 1, serviceMode := s.pins.svcEn } } ∧
    (u.dom 78).power = .on ∧ (u.dom 79).power = .on ∧ ∀ d, d < 78 → u.dom d = s.dom d := by
  obtain ⟨first_, on79, same79⟩ := s.powerUp_high (d := 79) (by decide) (by decide)
  obtain ⟨second, on78, same78⟩ := (s.powerUp 79).powerUp_high (d := 78) (by decide) (by decide)
  have powered := first_.trans second
  refine ⟨(s.powerUp 79).powerUp 78, powered, ?_, on78, (congrArg Domain.power (same78 79 (by decide))).trans on79, fun d low =>
    (same78 d (by omega)).trans (same79 d (by omega))⟩
  have boot : ((s.powerUp 79).powerUp 78).boot = s.boot := by
    obtain ⟨ds, cs, ct, p, n, l, eq⟩ := powered
    rw [eq]
  have pins : ((s.powerUp 79).powerUp 78).pins = s.pins := by
    obtain ⟨ds, cs, ct, p, n, l, eq⟩ := powered
    rw [eq]
  unfold risen
  dsimp only
  rw [boot, pins]

/-- The rest of the boot: in service mode none, else a slot is chosen (R395, R396, R426). -/
def bootOn (s : State) : State :=
  if s.boot.serviceMode then s
  else
    let v : State := { s with boot := { s.boot with reasonA := s.slotReason false, reasonB := s.slotReason true } }
    match v.chooseSlot with
    | some b => v.bootSlot b
    | none => v.bootFails

theorem powerOnBoot_eq (off : (s.dom 78).power = .off) : s.powerOnBoot = s.risen.bootOn := if_neg fun on => on off

theorem bootOn_fails (normal : s.boot.serviceMode = false) (a : s.slotReason false ≠ 0) (b : s.slotReason true ≠ 0) :
    s.bootOn = ({ s with boot := { s.boot with reasonA := s.slotReason false, reasonB := s.slotReason true } } : State).bootFails := by
  have again (b : Bool) : ({ s with boot := { s.boot with reasonA := s.slotReason false, reasonB := s.slotReason true } } : State).slotReason b =
      s.slotReason b := slotReason_powered ⟨_, _, _, _, _, _, rfl⟩ b rfl rfl rfl rfl
  have chosen : ({ s with boot := { s.boot with reasonA := s.slotReason false, reasonB := s.slotReason true } } : State).chooseSlot = none := by
    unfold chooseSlot
    rw [again, again]
    split
    · next h _ => exact absurd h a
    · next h _ => exact absurd h a
    · next h _ => exact absurd h b
    · rfl
  unfold bootOn
  rw [normal, if_neg (by decide)]
  dsimp only
  rw [chosen]

/-- With no valid slot only the supervisor and Puchlink run (R396). -/
theorem bootFails_spec (s : State) : s.bootFails.boot = { s.boot with state := 4 } ∧ s.bootFails.pins.alertN = false ∧
    (s.bootFails.dom 77).power = .on ∧ ∀ d, d ≠ 77 → s.bootFails.dom d = s.dom d := by
  obtain ⟨⟨ds, cs, ct, p, n, l, eq⟩, on, same⟩ := s.powerUp_high (d := 77) (by decide) (by decide)
  refine ⟨?_, rfl, on, same⟩
  unfold bootFails alert setCore
  dsimp only
  rw [eq]

theorem Booted.parts {n : Nat} {l b : Bool} {j : Nat} (h : s.Booted (n, l, b, j)) :
    s.boot.state = n ∧ s.boot.locked = l ∧ s.boot.slotB = b ∧ s.boot.jobStarted = j := by
  obtain ⟨state, rest⟩ := Prod.mk.inj h
  obtain ⟨locked, rest⟩ := Prod.mk.inj rest
  obtain ⟨slot, jobs⟩ := Prod.mk.inj rest
  exact ⟨state, locked, slot, jobs⟩

/-- A boot with a chosen slot (R398). -/
theorem bootSlot_booted (s : State) (b : Bool) : (s.bootSlot b).Booted (3, true, b, s.boot.jobStarted) := by
  unfold bootSlot
  extract_lets m _ s1 s2 _ s3 _ s4 r
  have h_s1 : s1.Booted (s.boot.state, s.boot.locked, b, s.boot.jobStarted) := rfl
  clear_value s1
  have h_s2 : s2.Booted _ := trainUnits_booted (startDomains_booted (applySettings_booted (storeImages_booted h_s1)))
  clear_value s2
  have h_s3 : s3.Booted _ := selfTests_booted h_s2.of_eq
  clear_value s3
  have h_s4 : s4.Booted _ := h_s3.of_eq
  clear_value s4
  have h_r : r.2.bootFacts = _ := fresh_booted (applyLayout_booted h_s4)
  clear_value r
  have slot : r.2.boot.slotB = b := congrArg (·.2.2.1) h_r
  have jobs : r.2.boot.jobStarted = s.boot.jobStarted := congrArg (·.2.2.2) h_r
  refine evaluate_booted (startWork_booted ?_)
  show (3, true, r.2.boot.slotB, r.2.boot.jobStarted) = _
  rw [slot, jobs]

/-! ### Jobs that start at boot -/

/-- The graph of a job that starts at boot is read (R399). -/
structure JobDue (s : State) (j : Nat) (v : List Byte) : Prop where
  booted : s.boot.state = 3
  job : s.boot.jobs[j]? = some v
  auto : bitAt (le v 4 4) 0 = true
  waits : bitAt s.boot.jobStarted j = false

theorem autostart_fails {j : Nat} {v : List Byte} (due : JobDue s j v) {graph : Option (List Byte)}
    (bad : ∀ g, graph = some g → sha384 g ≠ slice v 64 48) : s.autostart j graph = s.raiseEv evBoot 6 := by
  unfold autostart
  rw [due.job]
  dsimp only
  rw [if_neg (by simp [due.booted, due.auto, due.waits])]
  cases graph with
  | none => rfl
  | some g => exact if_neg (bad g rfl)

theorem autostart_starts {j : Nat} {v g : List Byte} (due : JobDue s j v) (good : sha384 g = slice v 64 48) :
    (s.autostart j (some g)).boot.jobStarted = s.boot.jobStarted ||| 2 ^ j := by
  unfold autostart
  rw [due.job]
  dsimp only
  rw [if_neg (by simp [due.booted, due.auto, due.waits]), if_pos good]
  have started : ({ s with boot := { s.boot with jobStarted := s.boot.jobStarted ||| 2 ^ j } } : State).Booted
    (s.boot.state, s.boot.locked, s.boot.slotB, s.boot.jobStarted ||| 2 ^ j) := rfl
  have kept := Booted.foldl (l := Config.graphStreams g (slice v 112 64)) (f := fun (s : State) d => s.openFrom nowhere (some d.2) (slice d.1 0 128))
    (Booted.foldl (l := Config.graphContexts g) (f := fun (s : State) d => s.createFrom nowhere (slice d 0 0x28 ++ slice v 8 8 ++ slice d 0x30 80))
      started fun _ _ h => createFrom_booted h) fun _ _ h => openFrom_booted h
  exact congrArg (·.2.2.2) kept

end State

open State

/-- Settles O37: the supervisor rises and boots or fails; a job starts with its own graph alone. -/
theorem supervisorBoots : Obligations.SupervisorBoots := by
  refine ⟨⟨fun s live off => ?_, fun s b => ?_⟩, fun s j v g live booted job auto waits => ?_⟩
  · obtain ⟨u, powered, risen, on78, on79, same⟩ := s.risen_spec
    have run := powerOnBoot_eq off
    rw [risen] at run
    have reason (bt : Boot) (b : Bool) (tables : bt.flashTables = s.boot.flashTables) (root : bt.rootHash = s.boot.rootHash)
        (revoke : bt.revoke = s.boot.revoke) (svn : bt.svnCount = s.boot.svnCount) : ({ u with boot := bt } : State).slotReason b = s.slotReason b :=
      slotReason_powered powered b tables root revoke svn
    refine ⟨fun service => ?_, fun normal a b => ?_⟩
    · have mode : ({ u with boot := { s.boot with boots := satAdd 32 s.boot.boots 1, serviceMode := s.pins.svcEn } } : State).bootOn =
          { u with boot := { s.boot with boots := satAdd 32 s.boot.boots 1, serviceMode := s.pins.svcEn } } := if_pos service
      rw [mode] at run
      obtain ⟨ds, cs, ct, p, n, l, rfl⟩ := powered
      exact ⟨_, act_eq_next (f := fun s => s.powerOnBoot) live run, on78, on79, service, rfl, rfl, same, rfl⟩
    · have reasonA := reason { s.boot with boots := satAdd 32 s.boot.boots 1, serviceMode := s.pins.svcEn } false rfl rfl rfl rfl
      have reasonB := reason { s.boot with boots := satAdd 32 s.boot.boots 1, serviceMode := s.pins.svcEn } true rfl rfl rfl rfl
      rw [bootOn_fails normal (by rw [reasonA]; exact a) (by rw [reasonB]; exact b), reasonA, reasonB] at run
      refine ⟨_, act_live s (fun s => s.powerOnBoot) live, ?_⟩
      dsimp only
      rw [run]
      generalize w_ : ({ u with boot := _ } : State) = w
      obtain ⟨boot, alert, on77, others⟩ := w.bootFails_spec
      have doms (d : Nat) : w.dom d = u.dom d := by rw [← w_]; rfl
      refine ⟨?_, ?_, ?_, ?_, ?_, ?_, on77, alert, fun d low => ?_⟩
      · rw [boot]
      · rw [boot, ← w_]
      · rw [boot, ← w_]
      · rw [boot, ← w_]
      · rw [boot, ← w_]
      · exact (congrArg Domain.power ((others 78 (by decide)).trans (doms 78))).trans on78
      · exact (others d (by omega)).trans ((doms d).trans (same d (by omega)))
  · have facts := bootSlot_booted s b
    obtain ⟨ready, locked, slot, -⟩ := facts.parts
    exact ⟨ready, locked, slot⟩
  · have due : JobDue s j v := ⟨booted, job, auto, waits⟩
    refine ⟨?_, fun other => ?_, fun good => ?_⟩
    · exact ⟨_, act_eq_next (f := fun s => s.autostart j none) live (autostart_fails due nofun) (raiseEv_frame ..).2.1 (raiseEv_frame ..).1,
        raiseEv_sets .., raiseEv_eq ..⟩
    · exact ⟨_, act_eq_next (f := fun s => s.autostart j (some g)) live (autostart_fails due fun _ e => Option.some.inj e ▸ other)
        (raiseEv_frame ..).2.1 (raiseEv_frame ..).1, raiseEv_sets .., raiseEv_eq ..⟩
    · refine ⟨_, act_live s (fun s => s.autostart j (some g)) live, ?_⟩
      show bitAt (s.autostart j (some g)).boot.jobStarted j = true
      rw [autostart_starts due good]
      exact bitAt_or_two_pow_self ..

end Sys2Proof.Machine
end
